-- ==== Sys2Proof/Word.lean ====
section
/-!
DEFINITION. The plain words the model is written in: the two wings, a value held once for each wing, a sparse
table in one canonical form, and the requesters of a register access.
-/

namespace Sys2Proof

/-- R11: the two carrier regions. -/
inductive Wing where
  | a
  | b
deriving DecidableEq, Repr

/-- The wing's number: 0 for wing A, 1 for wing B (R404 numbers the wing vectors so). -/
def Wing.n : Wing → Nat
  | .a => 0
  | .b => 1

/-- The other wing. -/
def Wing.other : Wing → Wing
  | .a => .b
  | .b => .a

/-- Wing 0 is A, every other number is B. -/
def Wing.num : Nat → Wing
  | 0 => .a
  | _ => .b

/-- A value that each wing holds for itself. -/
structure PerWing (α : Type) where
  a : α
  b : α
deriving DecidableEq, Repr

/-- The value of one wing. -/
def PerWing.get {α : Type} (p : PerWing α) : Wing → α
  | .a => p.a
  | .b => p.b

/-- Replace the value of one wing. -/
def PerWing.set {α : Type} (p : PerWing α) (w : Wing) (v : α) : PerWing α :=
  match w with
  | .a => { p with a := v }
  | .b => { p with b := v }

/-- The same value on both wings. -/
def PerWing.both {α : Type} (v : α) : PerWing α := ⟨v, v⟩

/-- A sparse table: keys strictly rising; a key that is not listed reads as the table's default, and no entry
equals that default. -/
abbrev Tab (α : Type) := List (Nat × α)

/-- R383: the four requesters, numbered 0 for PF0, 1 for PF1, 2 for the corridor and 3 for the Ilulo monitor. -/
inductive Req where
  | pf0
  | pf1
  | corridor
  | monitor
deriving DecidableEq, Repr

/-- R383: the requester's number. -/
def Req.n : Req → Nat
  | .pf0 => 0
  | .pf1 => 1
  | .corridor => 2
  | .monitor => 3

/-- R46, R96: a symbol or a sample of both polarisations: X and Y, each by its in-phase and quadrature parts. -/
abbrev Jones := (Int × Int) × (Int × Int)

end Sys2Proof
end

