-- ==== Sys2Proof/Syntax.lean ====
section
/-!
DEFINITION. The commands of the module: one constructor per row of the spec's table of operations and events, and the
operands' types. A command of the host, the corridor, the board or the monitor carries what is written; an event carries
what reaches the module from outside it (light, frames, measurements, verdicts of a signature or a tag).
-/

namespace Sys2Proof

/-- A client frame, as far as the module looks into it. `ident` stands for the bytes it carries unread. -/
structure Frame where
  ident : Nat
  len : Nat
  fcsOk : Bool
  /-- R283: PCP of the outermost VLAN tag, DSCP of the IP header, TC of the top MPLS label, where present. -/
  pcp : Option (Fin 8)
  dscp : Option (Fin 64)
  mplsTc : Option (Fin 8)
  /-- R297: the sequence number of a test frame, and whether its PRBS31 payload is intact. -/
  testSeq : Option Nat
  payOk : Bool
deriving DecidableEq, Repr

/-- R411: what a corridor cell carries. -/
inductive CellBody where
  | read (id addr : Nat)
  | readCpl (id data : Nat)
  | write (id addr data : Nat)
  | writeAck (id : Nat)
  | stall (id : Nat)
  | doorbell (worker vector : Nat)
  | link (worker port : Nat) (up : Bool)
  | enumerate (addr port : Nat)
  | hier (target : Nat)
deriving DecidableEq, Repr

/-- R405: what software does to the MSI-X masks: one vector's mask bit, the Enable bit, the Function Mask bit. -/
inductive MsixCtl where
  | vector (v : Fin 64) (masked : Bool)
  | enable (on : Bool)
  | functionMask (on : Bool)
deriving DecidableEq, Repr

/-- R413: for one module of the corridor, the module and port found on each of its four ports that is up. -/
structure Neighbours where
  ident : Nat
  ports : List (Option (Nat × Nat))
deriving DecidableEq, Repr

/-- R407, R408: the 4,096 symbols from position 4,096 b of a carrier frame, `back` frames before the latest. -/
structure SymbolBlock where
  back : Fin 64
  b : Fin 16
deriving DecidableEq, Repr

/-- R409: the descriptor that a capture engine read at HEAD: the buffer's address and length, and whether host memory
took the block. -/
structure Descriptor where
  addr : Nat
  len : Nat
  writeOk : Bool
deriving DecidableEq, Repr

/-- R36, R424: what a line of SMBus sensors reads: VIN in 10 mV, the cold plate and the hottest die, in 0.0625 °C. -/
structure Sensors where
  vin : Nat
  tcp : Int
  tdie : Int
deriving DecidableEq, Repr

/-- R370, R373, R374: what the ECC check of a read finds. -/
inductive EccRead where
  | clean
  | single
  | double
deriving DecidableEq, Repr

/-- R368: a line of a protected memory: the memory, the bank and the line within the bank. -/
structure MemLine where
  mem : Fin 6
  bank : Nat
  line : Nat
deriving DecidableEq, Repr

/-- R29: a channel's entry in a WING section. -/
structure ChanSec where
  ceiling : Nat
  minimum : Nat
  rank : Nat
  cipher : Bool
deriving DecidableEq, Repr

/-- R29: an OPTICAL section; its layout is the model's own (assumption 61). `power` is the transmit power in 0.01 dBm;
`fir` and `poly` hold, for each dimension, the 33 taps and the three coefficients of R83 in 2^−14; `txPd` and `rxPd` the
photodiodes' scales (R141); `rxSkew` and `rxGain` stage 1's corrections per dimension (R96); `snrTrx` the transceiver's
SNR, a linear ratio in 2^−16, at each symbol rate (R115); `trims` the skew in 0.1 ps and the gain in 0.01 dB of each dimension,
`phases` the quadrature phase of each polarisation in 0.05° (R83). -/
structure OpticalSec where
  power : Int
  fir : List (List Int)
  poly : List (List Int)
  txPd : List Nat
  rxPd : List Nat
  rxSkew : List Int
  rxGain : List Int
  snrTrx : List (Nat × Nat)
  trims : List (Int × Int)
  phases : List Int
deriving DecidableEq, Repr

/-- R29: a WING section with its OPTICAL section. Rates are in units of 0.25 GBd, frequencies in kHz beside their island. -/
structure WingSec where
  enable : Bool
  maxBaud : Nat
  taps : Nat
  freqs : List (Nat × Nat)
  chans : List ChanSec
  floorBaud : Nat
  floorH : Nat
  floorFec : Nat
  optical : OpticalSec
deriving DecidableEq, Repr

/-- R29: the MODULE section. `decim` lists, for each decimation context in use, the context and its source. -/
structure ModuleSec where
  freqs : List (Nat × Nat)
  cipher : Bool
  monitor : Bool
  sweep : Bool
  doorwayTimeout : Bool
  corPorts : Nat
  decim : List (Nat × Nat)
  /-- R421: the monitor's baud rate is 115,200 in place of 921,600. -/
  slowUart : Bool
deriving DecidableEq, Repr

/-- R280: a port of the CLIENT section; width and lane rate as CLI.PORT_CFG codes them. -/
structure PortSec where
  num : Nat
  lane0 : Nat
  width : Nat
  rate : Nat
deriving DecidableEq, Repr

/-- R242: a protection group of the HALLWAY section. -/
structure GroupSec where
  port : Nat
  chA : Nat
  chB : Nat
deriving DecidableEq, Repr

/-- R296: where a port is mapped: to a channel index, or to a protection group. -/
inductive MapTarget where
  | chan (c : Nat)
  | group (g : Nat)
deriving DecidableEq, Repr

/-- R29: the HALLWAY section. -/
structure HallSec where
  maps : List (Nat × MapTarget)
  groups : List GroupSec
deriving DecidableEq, Repr

/-- R286: the PANTRY section: the reserve of each queue (queues without an entry have none; 0 to 511 egress, 512 to
767 ingress), of each partition, the shared pool, and the descriptor split. -/
structure PantrySec where
  reserves : List (Nat × Nat)
  partA : Nat
  partB : Nat
  partIn : Nat
  shared : Nat
  descEgress : Nat
  descIngress : Nat
  descShared : Nat
deriving DecidableEq, Repr

/-- R27: an entry of the section table. `digest` is the SHA-256 that the table holds, `hashed` that of the section's
bytes. -/
structure SecEntry where
  ty : Nat
  flags : Nat
  offset : Nat
  length : Nat
  rsv : Nat
  digest : Nat
  hashed : Nat
deriving DecidableEq, Repr

/-- A field and a value that a section gives it: the field's row number, the instance, the value. -/
structure FieldValue where
  row : Nat
  inst : Nat
  value : Nat
deriving DecidableEq, Repr

/-- R27: a floor-plan image, its sections read. `supplied` is the length that came with it, `headHash` the SHA-256 of
bytes 0 to 1,791, `rootHash` that of ROOT_PUB, `sigOk` whether the signature verifies under ROOT_PUB. -/
structure Image where
  magic : Nat
  format : Nat
  part : Nat
  variantMask : Nat
  minStepping : Nat
  svn : Nat
  rsvZero : Bool
  build : Nat
  entries : List SecEntry
  imageLen : Nat
  supplied : Nat
  rootHash : Nat
  sigOk : Bool
  headHash : Nat
  modul : ModuleSec
  wingA : Option WingSec
  wingB : Option WingSec
  ports : List PortSec
  board : Option (List FieldValue)
  hall : HallSec
  pantry : PantrySec
  defaults : List FieldValue
deriving DecidableEq, Repr

/-- R424: what a start step finds when it ends. The straps are sampled at step 2, the self-test ends step 4, and
step 5 reports whether a flash read failed in each bank. -/
structure BootInput where
  mgrSel : Bool
  bootSrcHost : Bool
  selfTestOk : Bool
  flashErrA : Bool
  flashErrB : Bool
  ms : Nat
deriving DecidableEq, Repr

/-- R50: the fields of a header information field as received or sent, bit fields as numbers. -/
structure Header where
  frameNo : Nat
  wing : Nat
  baud : Nat
  hCur : Nat
  fecCur : Nat
  slotsCur : Nat
  annValid : Bool
  annSeq : Nat
  hNext : Nat
  fecNext : Nat
  slotsNext : Nat
  countdown : Nat
  ackValid : Bool
  ackSeq : Nat
  advValid : Bool
  advSeq : Nat
  advH : Nat
  advFec : Nat
  advMargin : Nat
  ql : Nat
  floor : Bool
  icmRc : Bool
  hdrLoss : Bool
  /-- R55: the 20 entries of the MAP segment. -/
  map : List Nat
  /-- R50: the reserved bits 7, 101 to 103 and 224 to 239, which are sent as 0 and ignored. -/
  rsv : Nat
  /-- R51: the CRC-16 that came with it. -/
  crc : Nat
deriving DecidableEq, Repr

/-- R49: what the receiver finds of a carrier frame's header information field: a soft value for each of its 256 bits on
each polarisation, positive for the bit value 0. -/
structure HeaderRx where
  x : List Int
  y : List Int
deriving DecidableEq, Repr

/-- What the receive DSP finds over a superframe: the frequency offset in MHz (R100), the symbol clock's offset in 0.01 ppm
(R105), and the figures of R115: the SNR of each polarisation after the final and the first pass, as linear ratios in
2^−16, and GMI in 1/4,096 bit. -/
structure SuperframeRx where
  freq : Int
  timing : Int
  snrX : Nat
  snrY : Nat
  firstX : Nat
  firstY : Nat
  gmi : Nat
deriving DecidableEq, Repr

/-- R202: the intercom's messages. -/
inductive IcmMsg where
  | advice (seq h fec : Nat) (margin : Int)
  | announce (seq h fec slots : Nat)
  | ack (seq : Nat)
  | bringup (heard : Bool) (txBaud rxBaud rxState floorBaud floorH floorFec txCh : Nat)
  | tag (words : List Nat)
  | alarm (bitmap seq : Nat)
  | user (bytes : List Nat)
deriving DecidableEq, Repr

/-- R206, R207: a chirp period that the intercom receiver takes: whether it correlates better as a down-chirp, the bin of its
peak, and the peak-to-mean ratio in 0.25 dB. -/
structure RxChirp where
  down : Bool
  bin : Nat
  peak : Nat
deriving DecidableEq, Repr

/-- R207, R212: the chirps that the receiver takes next, and the in-band SNR in 0.1 dB. -/
structure IcmRx where
  chirps : List RxChirp
  snr : Int
deriving DecidableEq, Repr

/-- R207: where a frame was abandoned. -/
inductive IcmFail where
  | sync
  | netId
  | header
  | payload
deriving DecidableEq, Repr

/-- R117: what an acquisition step found: the frequency offset in MHz, the dispersion in ps/nm, the timing offset in
0.01 ppm, the residual dispersion, DGD and PDL of the equaliser, and whether it converged within its warm bound. -/
structure AcqInput where
  freqOffset : Int
  cd : Int
  timing : Int
  residual : Int
  warmOk : Bool
  dgd : Nat
  pdl : Nat
deriving DecidableEq, Repr

/-- R270, R272: what a KE_INIT or KE_RESP carries: a nonce, the identity certificate, the encapsulation key or the ciphertext,
and the signature. -/
structure KeMsg where
  nonce : List Nat
  cert : List Nat
  kem : List Nat
  signature : List Nat
deriving DecidableEq, Repr

/-- R270, R271: the messages that cross GCC0. -/
inductive GccMsg where
  | keInit (session : Nat) (m : KeMsg)
  | keResp (session : Nat) (m : KeMsg)
  | keFin (session : Nat) (mac : List Nat)
  | keAbort (session : Nat)
  | keyReady (ch session gen : Nat)
deriving DecidableEq, Repr

/-- R71: a 64B/66B block: its sync header and its eight payload bytes. -/
structure Block66 where
  head : Nat
  body : List Nat
deriving DecidableEq, Repr

/-- R256 to R262: a received segment: the block at the position of its SSB, its encrypted blocks, the three at the positions that
SEG_LEN gives to TB1 to TB3, the one after them, and whether any of its bits are marked. -/
structure Segment where
  ssb : Block66
  body : List Block66
  tags : List Block66
  next : Block66
  marked : Bool
deriving DecidableEq, Repr

/-- R14, R388: where a demapped frame's first byte came from: how many carrier frames before the latest one, and how many
decoded blocks before the latest one, held it. -/
structure FirstByte where
  frames : Fin 64
  blocks : Fin 64
deriving DecidableEq, Repr

/-- R123, R124, R132: what a calibration found for a slice or a sub-DAC: the offset to correct in 1/256 LSB and the gain in
0.001 %, the skew tap before its limits, and what is left once these corrections are made: the residual skew in fs, offset
in 1/4,096 LSB and gain in 0.0001 %. -/
structure Trims where
  offset : Int
  gain : Int
  tap : Int
  residual : Int
  leftOffset : Int
  leftGain : Int
deriving DecidableEq, Repr

/-- R129, R133: the trims found for one slice, or sub-DAC, of a dimension. -/
structure SliceTrim where
  dim : Nat
  slice : Nat
  found : Trims
deriving DecidableEq, Repr

/-- R164 to R170: a position of the decoder's window. Of the block that enters: its number in its superframe, and how many
carrier frames before the latest one held its first symbol. Of the block that leaves: the decoder's hard decisions after the
first and after the final pass, and the iterations that a zero syndrome needs. -/
structure BlockRx where
  number : Nat
  back : Nat
  first : List Bool
  bits : List Bool
  iterations : Nat
deriving DecidableEq, Repr

/-- R136: the codes of one dimension, or one slice, of a wing since the last tick. -/
structure CodeStats where
  wing : Nat
  dim : Nat
  slice : Option Nat
  sum : Int
  sq : Nat
  cnt : Nat
  max : Int
  min : Int
  fullScale : Nat
deriving DecidableEq, Repr

/-- What the one-second tick latches of the signals: the converter statistics and each wing's polarisation statistics over
the second. -/
structure SecondStats where
  codes : List CodeStats
  sopA : Nat
  sopB : Nat
deriving DecidableEq, Repr

/-- R340: the coefficients of the holdover model, in 10⁻⁹ ppm: a1 for 0.0625 °C, a2 for its square, b for an hour. -/
structure HoModel where
  a1 : Int
  a2 : Int
  b : Int
deriving DecidableEq, Repr

/-- R322, R323, R329: what a lane's slicer shows in one measurement of 2²⁰ symbols: the sum of e² in 2⁻²⁰, the moves of the
24 taps by sign-sign LMS, the step of the CTLE index that raised FOM, and which of the pattern checker's symbols were errored. -/
structure SlicerRun where
  errSq : Nat
  moves : List Int
  ctle : Int
  errored : List Bool
deriving DecidableEq, Repr

/-- R321 to R324: what a bring-up step found: the marker complemented, the measurement, and the logical lane of the marker on
each physical lane of the port. -/
structure LaneResult where
  inverted : Bool
  run : SlicerRun
  marks : List Nat
deriving DecidableEq, Repr

/-- R146, R148, R149: what reaches the decimation engine from outside in a round: the samples of each wing's power stream
that arrived, and whether a TIA gain of the wing changed before them. -/
structure RoundInput where
  powA : List Int
  powB : List Int
  tiaA : Bool
  tiaB : Bool
deriving DecidableEq, Repr

/-- The commands. Each constructor's docstring is its row of the table. -/
inductive Instr where
  /-- R40: A host, corridor or monitor write to a register field that has no row of its own takes effect under its change class (L, S or F). -/
  | registerWrite (req : Req) (addr word : Nat)
  /-- R7: A read of an RC field returns the field and clears it to zero in the same access. -/
  | rcRead (req : Req) (addr : Nat)
  /-- R42: Writing 1 to GLB.WR_REJECT.VALID clears VALID, COUNT and WORD_ADDR. -/
  | wrRejectClear (req : Req)
  /-- R41: Writing APPLY to a region's COMMIT moves the staging set to the pending set, merging it with any pending set. -/
  | apply (req : Req) (region : Nat)
  /-- R42: Writing DISCARD to a region's COMMIT empties the staging set, unless APPLY is also set. -/
  | discard (req : Req) (region : Nat) (alsoApply : Bool)
  /-- R41: At the block's or instance's next natural boundary, the pending set applies in one step and SEQ advances. -/
  | pendingSetApply (region : Nat) (inst : Option Nat)
  /-- R38: Writing BLK_CTL.STOP = 1 requests a block stop and sets STOPPING. -/
  | blockStop (req : Req) (n : Fin 8)
  /-- R38: Writing BLK_CTL.STOP = 0 restarts a stopped block, or abandons a stop that has not completed. -/
  | blockRun (req : Req) (n : Fin 8)
  /-- R38: At its natural boundary a stopping block applies any pending set, then stops and sets STOPPED. -/
  | blockStopComplete (n : Fin 8)
  /-- R36: The LOAD_VERIFY command starts SEC fetching the image by DMA and verifying it. -/
  | loadVerify (req : Req)
  /-- R28: Verification ends: every check passes and SCOPE and STAGED are set, or the first failing check's reason code is recorded. -/
  | loadVerifyDone (img : Option Image)
  /-- R36: The ACTIVATE command adopts the staged image at its restart scope: DEFAULTS only, a wing restart, a module reset, or direct configuration while no image runs. -/
  | activate (req : Req) (refetchOk : Bool)
  /-- R33: The PROGRAM command verifies the staged image, erases the target bank's record and starts writing the image to that bank. -/
  | program (req : Req)
  /-- R33: Once the image is written, SEC writes the target bank's record last, with state NEW and the highest sequence number. -/
  | programDone
  /-- R34: The CONFIRM command marks the running NEW bank GOOD. -/
  | confirm (req : Req)
  /-- R34: The ADVANCE_SVN command sets the fused security version to the running image's SVN, only when that image is confirmed. -/
  | advanceSvn (req : Req)
  /-- R36: The ABORT command stops a running LOAD_VERIFY or PROGRAM and clears STAGED. -/
  | abort (req : Req)
  /-- R52: At each transmitted superframe boundary the header fields, map, COUNTDOWN and HDR_LOSS are updated for the new superframe. -/
  | superframeBoundaryTx (w : Wing) (shaped : Nat)
  /-- R53: A received carrier frame is correlated for the sync word, and its header is validated and taken or ignored. -/
  | carrierFrameRx (w : Wing) (pos corr : Nat) (hdr : Option HeaderRx) (adc : List (List Int))
  /-- R54: Four consecutive frames below threshold at the expected position declare loss of alignment, counted in CF_SLIP. -/
  | cfAlignLoss (w : Wing)
  /-- R53: After 64 consecutive carrier frames without a valid header, the wing's transmitter sets HDR_LOSS from its next superframe boundary. -/
  | hdrLossSet (w : Wing)
  /-- R53: Once valid headers have been taken in 2 consecutive received superframes, the transmitter clears HDR_LOSS from its next boundary. -/
  | hdrLossClear (w : Wing)
  /-- R98: At a received superframe boundary the receiver applies its pending values and advances its own COUNTDOWN record. -/
  | superframeBoundaryRx (w : Wing) (m : SuperframeRx)
  /-- R69: A write to ELC.CHAN_CFG.ENABLE requests a map-only announcement, and takes effect at that announcement's switch boundary. -/
  | chanEnableWrite (req : Req) (w : Wing) (n : Fin 32) (on : Bool)
  /-- R86: A write to OPT.TX_FREQ starts a dark retune on a CH change, slews on a FINE change, or is ignored out of range with TUNE_FAIL. -/
  | txFreqWrite (req : Req) (w : Wing) (ch fine : Int)
  /-- R88: A write to OPT.LO_FREQ retunes the local oscillator, or is ignored out of range with LO_TUNE_FAIL. -/
  | loFreqWrite (req : Req) (w : Wing) (ch fine : Int)
  /-- R92: The transmit laser locks at its target frequency: FREQ_LOCKED and TUNE_DONE are set, and the ramp-up follows. -/
  | txLaserLock (w : Wing)
  /-- R92: When no lock arrives within 3 s of tuning, TUNE_FAIL is set and STATE becomes FAULT. -/
  | txTuneTimeout (w : Wing)
  /-- R88: The local-oscillator laser locks after a tuning and sets LO_TUNE_DONE. -/
  | loTuneDone (w : Wing)
  /-- R88: When the local oscillator has not locked within 3 s, LO_TUNE_FAIL is set. -/
  | loTuneFail (w : Wing)
  /-- R91: A write to OPT.TX_CTL changes ENABLE, POWER or RAMP_MS, and so starts, reverses or retargets a ramp. -/
  | txCtlWrite (req : Req) (w : Wing) (enable : Bool) (rampMs : Nat) (power : Int)
  /-- R90: Every 10 µs along a ramp the VOA steps, the injected sequence is triggered, and the end of the ramp sets RAMP_DONE. -/
  | rampUpdate (w : Wing)
  /-- R89: Every 1 ms while lit, the closed power loop corrects the output against the monitor photodiode and flags POWER_OOR. -/
  | powerLoopUpdate (w : Wing)
  /-- R92: Asserting TX_DIS closes the VOA, removes drive and lowers the laser to threshold within 100 µs, and sets PIN_DISABLED. -/
  | txDisAssert (w : Wing)
  /-- R92: Releasing TX_DIS restores the laser current and confirms or re-establishes lock, after which the ramp-up follows. -/
  | txDisDeassert (w : Wing) (onTarget : Bool)
  /-- R99: The comparator asserts loss of signal, the LOS pin follows, and the receiver goes to WAIT_LIGHT. -/
  | losAssert (w : Wing) (power : Int)
  /-- R99: The comparator clears loss of signal above LOS_TH + HYST, and a warm acquisition follows. -/
  | losClear (w : Wing) (power : Int)
  /-- R117: With LOS = 0 and LO_LOCKED = 1, the receiver starts a cold or warm acquisition and ACQ_COUNT advances. -/
  | acqStart (w : Wing)
  /-- R117: An acquisition step completes and the receiver enters the next step, or READY after step 10. -/
  | acqStepComplete (w : Wing) (m : AcqInput)
  /-- R119: A step that exceeds its bound, or fails under R100, R103 or R59, ends acquisition with STATE = FAIL. -/
  | acqFail (w : Wing) (reason : Fin 16)
  /-- R119: While LOS = 0, a cold acquisition restarts 1 s after a failure. -/
  | acqRetry (w : Wing)
  /-- R119: Writing RX_CTL.REACQ stops delivery and restarts acquisition at once, warm when WARM = 1. -/
  | reacq (req : Req) (w : Wing) (warm : Bool)
  /-- R104: After 64 superframes of residual dispersion above 50 ps/nm, the filter moves by the residual, limited to the reach. -/
  | cdTrackMove (w : Wing) (residual : Int)
  /-- R107: After 64 frames with the equaliser error above its limit, the equaliser re-converges from its stored taps. -/
  | eqReconv (w : Wing)
  /-- R113: In AUTO mode, once MARGIN has stayed below ON_TH for 1 s, a start of the second pass is requested. -/
  | sp2AutoOn (w : Wing)
  /-- R113: In AUTO mode, once the first-pass margin has stayed above OFF_TH for 10 s, a stop of the second pass is requested. -/
  | sp2AutoOff (w : Wing)
  /-- R114: At the first superframe boundary after its power domain is admitted, the second pass starts and output pauses while its buffer fills. -/
  | sp2Start (w : Wing)
  /-- R114: The second pass stops at a superframe boundary and the added latency begins to drain. -/
  | sp2Stop (w : Wing)
  /-- R114: The added latency has been removed, and DRAINING clears. -/
  | sp2DrainDone (w : Wing)
  /-- R115: At the end of each averaging window the live figures of merit are updated. -/
  | fomWindowEnd (w : Wing)
  /-- R122: A converter sample-clock synthesiser locks, and the converters of that direction are released. -/
  | synthLock (w : Wing) (adc : Bool)
  /-- R129: Foreground calibration of all slices completes, and rotation starts with slice 64 as the spare, falling. -/
  | fgCalComplete (w : Wing) (trims : List SliceTrim)
  /-- R129: CAL_CTL.RESTART starts foreground calibration on a stopped wing, or restarts rotation rising on a running wing. -/
  | calRestart (req : Req) (w : Wing)
  /-- R125: The spare's offset, gain and skew calibration (steps 1 and 2) completes, and the overlap begins. -/
  | spareCalComplete (w : Wing) (d : Fin 4) (found : Trims)
  /-- R125: After the overlap, the merged stream switches to the spare, and the outgoing slice becomes the new spare. -/
  | sliceHandover (w : Wing) (d : Fin 4)
  /-- R125: After DWELL ms, the next calibration cycle begins on the spare. -/
  | dwellExpiry (w : Wing) (d : Fin 4)
  /-- R133: CNV.DAC_CAL.START starts DAC calibration while the carrier is dark, or is refused otherwise. -/
  | dacCalStart (req : Req) (w : Wing)
  /-- R134: DAC calibration completes, DAC_QUAL is written, and DONE is set. -/
  | dacCalComplete (w : Wing) (trims : List SliceTrim)
  /-- R142: The supervisory converter completes one 100 ns conversion of the next regular or injected slot. -/
  | supConversion (code : Nat)
  /-- R144: A LOS edge, ramp step or VIN warning triggers the injected sequence, or is merged when already pending. -/
  | injTrigger (src : Fin 5)
  /-- R144: Writing INJ_CTL.GO triggers the injected sequence from the host. -/
  | injGo (req : Req)
  /-- R146: In each 1 µs engine round, every decimation context consumes its new input samples and produces its outputs. -/
  | decRound (m : RoundInput)
  /-- R149: Writing SUP.DEC_RESET resets the selected decimation contexts, whose following outputs are marked UNSETTLED. -/
  | decReset (req : Req) (mask : Nat)
  /-- R151: CAL_CTL.START runs a supervisory self-calibration at once. -/
  | supCalStart (req : Req)
  /-- R151: Every 10 s while AUTO_EN = 1, an automatic self-calibration starts, or is deferred while a ramp runs. -/
  | supCalAuto
  /-- R152: A self-calibration ends, live statistics resume, and CAL_DONE is set. -/
  | supCalDone
  /-- R165: A new block enters the decoder window, iterations run, and the oldest block leaves, correct or uncorrectable. -/
  | fecBlockDecode (w : Wing) (b : BlockRx)
  /-- R169: After 256 consecutive blocks leave with zero syndrome, the decoder declares LOCKED. -/
  | fecLock (w : Wing)
  /-- R169: After 4 superframes of wholly uncorrectable blocks, READY lost or LOS, LOCKED falls. -/
  | fecLockLoss (w : Wing)
  /-- R174: dFEC_SF is set after 2 failing superframes, or cleared after 8 good ones. -/
  | dfecSfChange (w : Wing)
  /-- R174: At the end of each 64-superframe window, dFEC_SD is evaluated against the degrade reference. -/
  | dfecSdWindow (w : Wing)
  /-- R180: When no valid advice has arrived by either path for 1 s, ADV_STALE is set and the profile is held. -/
  | advStale (w : Wing)
  /-- R182: At the first transmitted boundary after the trigger, the per-channel counts are computed and an announcement begins with COUNTDOWN = C0. -/
  | announceStart (w : Wing)
  /-- R182: At the boundary beginning COUNTDOWN = 4, the announcement commits, or is withdrawn for want of an acknowledgement. -/
  | annCommitPoint (w : Wing)
  /-- R182: At the end of the COUNTDOWN = 1 superframe, the new rate fields and map take effect and the new drain rates apply. -/
  | rateSwitch (w : Wing)
  /-- R182: Four superframes after a withdrawal, the announcement is repeated, or rate control moves to the intercom. -/
  | announceRetry (w : Wing)
  /-- R184: At the announced boundary the receiver switches index, profile and map, or cancels when a header withdrew the announcement. -/
  | rxRateSwitch (w : Wing)
  /-- R186: On a mismatch cause, the receiver clears MAP_VALID, stops delivery and enters FLOOR_FOLLOW. -/
  | mismatchDeclare (w : Wing)
  /-- R187: A fall-back trigger abandons any announcement and takes the transmitter to its floor profile with FLOOR = 1. -/
  | fallback (w : Wing)
  /-- R187: One second after traffic flows at floor, the policy resumes and the first climb runs over the intercom. -/
  | policyResume (w : Wing)
  /-- R188: A wanted change under ICM_RC sends an intercom ANNOUNCE and enters ICM_WAIT. -/
  | icmAnnounceStart (w : Wing)
  /-- R188: When no intercom ACK arrives within ICM_WAIT, the ANNOUNCE is resent, at most 3 times. -/
  | icmAnnounceResend (w : Wing)
  /-- R188: With no ACK after the third resend: a lowering falls back, a raise or map-only change is held, and RC_FAIL is set. -/
  | icmHandshakeFail (w : Wing)
  /-- R188: Ten seconds after a failed map-only change, the change wanted for a standing ENABLE write starts again. -/
  | enableChangeRetry (w : Wing)
  /-- R192: ELC.CTL.GO in MANUAL mode starts an announcement of the manual index and profile. -/
  | go (req : Req) (w : Wing)
  /-- R189: ELC.CTL.RESUME takes the wing out of HELD. -/
  | resume (req : Req) (w : Wing)
  /-- R187: ELC.CTL.FORCE_FLOOR triggers a fall-back, and is ignored while HELD. -/
  | forceFloor (req : Req) (w : Wing)
  /-- R192: Writing ELC.CTL.MODE selects AUTO, MANUAL or FROZEN; a return to AUTO acts at once on the latest unacted advice. -/
  | elcModeSet (req : Req) (w : Wing) (mode : Fin 4)
  /-- R203: When the transmitter is idle and may send, the highest-priority queued message starts its burst. -/
  | icmBurstStart (w : Wing)
  /-- R198: An intercom burst completes its ramp-down and the transmitter becomes idle. -/
  | icmBurstEnd (w : Wing)
  /-- R179: Every 1 s while the far transmitter runs rate control on the intercom, the ADVICE message is queued again. -/
  | icmAdviceRepeat (w : Wing)
  /-- R202: Every 1 s, or every 10 s once heard, a BRINGUP message is queued. -/
  | icmBringupTimer (w : Wing)
  /-- R202: Every TAG_CFG.PERIOD seconds a TAG message is queued. -/
  | icmTagTimer (w : Wing)
  /-- R202: Every 1 s while any alarm bit is set, an ALARM message is queued. -/
  | icmAlarmRepeat (w : Wing)
  /-- R206: Four aligned dechirped correlations declare a preamble, freeze the AGC and enter sync. -/
  | icmPreambleDetect (w : Wing) (peaks : List (Nat × Nat))
  /-- R207: A sync, network-ID, header or payload failure abandons the frame and the search resumes. -/
  | icmFrameAbandon (w : Wing) (rx : IcmRx)
  /-- R208: The parallel detector finds a preamble stronger by CAPTURE_MARGIN, which captures or is ignored. -/
  | icmCapture (w : Wing) (peaks : List (Nat × Nat)) (chirps : List RxChirp)
  /-- R204: A valid ADVICE frame is treated as advice received, unless its ADV_SEQ already came in a header. -/
  | icmAdviceRx (w : Wing) (rx : IcmRx)
  /-- R204: A valid ANNOUNCE frame is evaluated under R188 step 3, and an accepted one queues an ACK within 1 ms. -/
  | icmAnnounceRx (w : Wing) (rx : IcmRx)
  /-- R204: A valid intercom ACK for the outstanding announcement starts a header announcement that is committed at once. -/
  | icmAckRx (w : Wing) (rx : IcmRx)
  /-- R204: A valid BRINGUP frame updates BR0, BR1 and ELC.FLOOR_RX. -/
  | icmBringupRx (w : Wing) (rx : IcmRx)
  /-- R204: A valid TAG frame updates TAG_RX. -/
  | icmTagRx (w : Wing) (rx : IcmRx)
  /-- R204: A valid ALARM frame updates FAR_ALARM. -/
  | icmAlarmRx (w : Wing) (rx : IcmRx)
  /-- R211: A valid USER frame enters the receive mailbox, or is dropped when the mailbox is full. -/
  | icmUserRx (w : Wing) (rx : IcmRx)
  /-- R205: FAR_ALARM bits clear 3 s after the last valid ALARM. -/
  | farAlarmTimeout (w : Wing)
  /-- R211: USER_TX_CTL.SEND queues the host message, or is refused when 4 are queued. -/
  | userSend (req : Req) (w : Wing)
  /-- R211: USER_RX_CTL.POP removes the oldest received USER message. -/
  | userPop (req : Req) (w : Wing)
  /-- R216: The overhead processor starts a frame at the next spacing position, with its overhead, scrambling and gap. -/
  | otnFrameTx (w : Wing)
  /-- R222: During search, a FAS match opens or confirms a candidate; a candidate confirmed twice declares in-frame. -/
  | fasSearchMatch (w : Wing)
  /-- R223: While in frame, each received frame's FAS, MFAS, BIP, status and trail-trace bytes are processed. -/
  | otnFrameRx (w : Wing)
  /-- R223: After 5 consecutive errored FAS, the framer declares OOF and searches again. -/
  | oofDeclare (w : Wing)
  /-- R224: After 5 frames with an unexpected MFAS, the framer declares OOM and takes the received MFAS. -/
  | oomDeclare (w : Wing)
  /-- R230: A raw defect enters or exits once its persistence count or timer is met. -/
  | defectChange (w : Wing) (d : Fin 14) (ch : Fin 32)
  /-- R231: dDEG is evaluated at each second (burst mode) or every 100 ms (rate mode). -/
  | degEval (w : Wing) (second : Bool)
  /-- R233: A failure is declared once its defect has been present for the set time, at a 10 ms step. -/
  | failureDeclare (w : Wing) (d : Fin 14) (ch : Fin 32)
  /-- R233: A failure is cleared once its defect has been absent for the clear time, at a 10 ms step. -/
  | failureClear (w : Wing) (d : Fin 14) (ch : Fin 32)
  /-- R235: After 3 identical PM frames, a member channel accepts a new APS/PCC value. -/
  | apsAccept (w : Wing) (ch : Fin 32)
  /-- R237: A GCC0 message is received and passed to SEC, or discarded on a bad CRC. -/
  | gcc0MsgRx (w : Wing)
  /-- R246: A member's SF, SD or OK condition changes, and is taken at once or starts its hold-off timer. -/
  | pgConditionChange (g : Fin 8) (m : Wing)
  /-- R246: At hold-off expiry the member's present condition is taken and the selection re-evaluated. -/
  | holdoffExpiry (g : Fin 8) (m : Wing)
  /-- R249: At wait-to-restore expiry the group reverts to working. -/
  | wtrExpiry (g : Fin 8)
  /-- R248: The CLEAR command removes a held command and ends a running wait-to-restore. -/
  | pgClear (req : Req) (g : Fin 8)
  /-- R248: The LOCKOUT command requests lockout of protection, or is refused when outranked. -/
  | pgLockout (req : Req) (g : Fin 8)
  /-- R248: The FORCE command requests a forced switch to protection, or is refused when outranked. -/
  | pgForce (req : Req) (g : Fin 8)
  /-- R248: The MANUAL_P command requests a manual switch to protection, or is refused when outranked. -/
  | pgManualP (req : Req) (g : Fin 8)
  /-- R248: The MANUAL_W command requests a manual switch to working, or is refused when outranked. -/
  | pgManualW (req : Req) (g : Fin 8)
  /-- R252: In bidirectional operation a D or R mismatch, or a 50 ms disagreement of requested signal, raises FOP. -/
  | fopRaise (g : Fin 8)
  /-- R252: FOP clears after 50 ms free of both causes. -/
  | fopClear (g : Fin 8)
  /-- R265: A new transmit segment opens on the CURRENT slot (with rollover where due) or as a void segment. -/
  | segmentTxStart (ch : Fin 64)
  /-- R261: A received segment is aligned, decrypted and tag-verified, or discarded, and the receive usage count advances. -/
  | segmentRx (ch : Fin 64) (seg : Segment)
  /-- R261: Three expected positions without a valid SSB clear SEG_LOCK. -/
  | segLockLoss (ch : Fin 64)
  /-- R265: CIP.CH_CTL.ROLL forces a rollover at the next segment start when the other phase is NEXT. -/
  | roll (req : Req) (ch : Fin 64)
  /-- R273: A cipher run ends, and the freed pipeline takes the oldest ready urgent or bulk context. -/
  | pipelineRunEnd (p : Fin 16)
  /-- R273: A ready urgent context preempts a bulk run at its next 16-byte boundary. -/
  | preempt (left : List Nat)
  /-- R269: The LOAD command unwraps a key blob into a slot, starts its retirement when the slot is in use, or is refused. -/
  | keyLoad (req : Req) (slot : Fin 512)
  /-- R267: The ERASE command empties a slot, or starts its retirement when the slot is in use. -/
  | keyErase (req : Req) (slot : Fin 512)
  /-- R269: The LOAD_KEK command fetches and decapsulates an ML-KEM ciphertext and sets a new KEK. -/
  | loadKek (req : Req) (fetched : Option (List Nat))
  /-- R274: The ATTEST command writes a signed attestation report to host memory. -/
  | attest (req : Req)
  /-- R272: The GET_CERT command writes the module's identity certificate to host memory. -/
  | getCert (req : Req)
  /-- R269: The GET_KEK_PUB command writes the KEK encapsulation key to host memory. -/
  | getKekPub (req : Req)
  /-- R267: When the last context on a retiring slot closes, the slot is zeroised, reloaded and set to its end state, and RETIRED rings. -/
  | retirementComplete (slot : Fin 256)
  /-- R270: In frame with EN = 1 and no session, the initiator sends KE_INIT. -/
  | keInitSend (w : Wing)
  /-- R270: When the session LIFE expires, a renewal starts with a new KE_INIT. -/
  | sessionLifeExpiry (w : Wing)
  /-- R270: The responder verifies KE_INIT, encapsulates and sends KE_RESP. -/
  | keInitRx (w : Wing) (session : Nat) (m : KeMsg)
  /-- R270: The initiator verifies KE_RESP, decapsulates, derives SS and sends KE_FIN. -/
  | keRespRx (w : Wing) (m : KeMsg)
  /-- R270: With both KE_FIN valid, the session goes UP and keys are derived. -/
  | keFinRx (w : Wing) (mac : List Nat)
  /-- R270: On a failed check or after 4 s, KE_ABORT is sent and the session state becomes FAIL. -/
  | keAbort (w : Wing)
  /-- R270: Ten seconds after a session failure, establishment is retried. -/
  | sessionRetry (w : Wing)
  /-- R271: A received KEY_READY moves the matching PENDING transmit slot to NEXT. -/
  | keyReadyRx (w : Wing) (ch : Fin 32) (session gen : Nat)
  /-- R281: A frame received on a client port is checked, classified, policed and admitted to or dropped from the pantry. -/
  | clientFrameRx (port : Fin 32) (f : Frame) (macControl : Bool)
  /-- R291: A PFC frame carrying every due class starts on the port after the current frame ends. -/
  | pfcFrameTx (port : Fin 32)
  /-- R291: While a class stays in XOFF, the XOFF is repeated each time half the pause time elapses. -/
  | pfcXoffRepeat (port : Fin 32) (cls : Fin 8)
  /-- R294: A received PFC frame pauses, re-times or ends the pause of the enabled classes on the port. -/
  | pfcRx (port : Fin 32) (len : Nat) (fcsOk : Bool) (vector : Nat) (times : List Nat)
  /-- R294: When a class's pause time runs out, it may transmit again. -/
  | pfcPauseExpiry (port : Fin 32) (cls : Fin 8)
  /-- R281: A received ESMC frame is consumed and its quality level passed to reference selection. -/
  | esmcRx (port : Fin 32) (len : Nat) (fcsOk : Bool) (ql : Fin 16)
  /-- R343: Every 1 s, or within 100 ms of a QL change, an ESMC PDU is sent on the enabled ports. -/
  | esmcTx (event : Bool)
  /-- R282: A port's link comes up or goes down with its lanes, PCS alignment and fault state. -/
  | portLinkChange (port : Fin 32) (pcsAligned lf rf : Bool)
  /-- R73: The overhead processor demaps a frame from a channel's container, and the hallway delivers it to the port's ingress queue. -/
  | lineFrameDemap (w : Wing) (ch : Fin 32) (f : Frame) (later : Fin 64) (cut : Bool) (first : FirstByte)
  /-- R297: The test generator inserts a test frame into its target queue. -/
  | tpgFrame
  /-- R306: At a packet boundary the scheduler instance selects an eligible queue by group and start tag and hands on its head. -/
  | schedSelect (inst : Fin 96) (line : MemLine) (found : EccRead)
  /-- R312: A gate-control-list entry or cycle starts and the channel's gate vector changes. -/
  | gclEntryStart (ch : Fin 64)
  /-- R313: GCL_CTL.ACTIVATE schedules the staged bank to become operative at T_new. -/
  | gclActivate (req : Req) (ch : Fin 64)
  /-- R313: A write to GCL_CYCLE or GCL_BASE while an activation is pending computes T_new afresh. -/
  | gclTimingWrite (req : Req) (ch : Fin 64) (cycle : Option Nat) (base : Option Nat)
  /-- R313: At T_new the staged list becomes operative from entry 0, and GCL_SWAPPED rings. -/
  | gclSwap (ch : Fin 64)
  /-- R317: A write to GCL_WIVL stores entry IDX of the staged bank and increments IDX. -/
  | gclWivlWrite (req : Req) (ivl : Nat)
  /-- R321: After 10 µs of amplitude above threshold, signal detect is declared and lane bring-up proceeds to CDR. -/
  | laneSignalDetect (cor : Bool) (l : Fin 32)
  /-- R321: A lane or port bring-up step completes, and the lane moves to the next step or UP. -/
  | laneStepComplete (cor : Bool) (l : Fin 32) (r : LaneResult)
  /-- R325: A bring-up step fails or times out, setting STAGE = FAIL with its reason. -/
  | laneFail (cor : Bool) (l : Fin 32) (reason : Fin 16)
  /-- R325: Ten milliseconds after a failure, the lane or port restarts from step 1. -/
  | laneRetry (cor : Bool) (l : Fin 32)
  /-- R325: LANE_CTL.RESTART begins step 1 at once. -/
  | laneRestart (req : Req) (cor : Bool) (l : Fin 32)
  /-- R326: Loss of signal detect for 10 µs or loss of CDR lock takes an up lane down and restarts it. -/
  | laneDown (cor : Bool) (l : Fin 32)
  /-- R322: A lane FOM measurement over 2^20 symbols completes and replaces LANE_FOM. -/
  | fomMeasure (cor : Bool) (l : Fin 32) (run : SlicerRun)
  /-- R323: An up lane whose FOM has stayed below FOM_MIN for 1 ms begins adapting its DFE. -/
  | laneAdaptStart (cor : Bool) (l : Fin 32)
  /-- R337: Every 1 ms, and on any change, the selector evaluates the candidates and starts a switch, re-targets or enters holdover. -/
  | refSelect (offsets : List (Option Int))
  /-- R334: After 1 s of activity within ±10 ppm, a candidate gains qualification, with wait-to-restore if it had been lost. -/
  | candQualify (n : Fin 8) (offset : Int)
  /-- R334: An offset beyond ±12 ppm or 4 missing periods removes a candidate's qualification. -/
  | candDisqualify (n : Fin 8) (offset : Int)
  /-- R334: A candidate's wait-to-restore ends and it may become eligible. -/
  | candWtrExpiry (n : Fin 8)
  /-- R336: After 5 s without a valid ESMC PDU, a client candidate becomes QL-failed. -/
  | esmcTimeout (n : Fin 8)
  /-- R339: After 1 s within 0.01 ppm and 10 ns of the target, the switch ends and STATE becomes locked. -/
  | refLock
  /-- R341: After 1 ms of synthesiser unlock or loss of oscillator activity, STATE becomes fault, REFOUT is squelched and FAULT_N is asserted. -/
  | dpllFault
  /-- R341: When the synthesiser relocks after a fault, the selector restarts from free-run. -/
  | dpllRelock
  /-- R340: HO_CTL.RELEARN discards the holdover model. -/
  | hoRelearn (req : Req)
  /-- R345: Every 1 µs, REF distributes module time to every island's replica. -/
  | mtUpdate
  /-- R347: MT_CTL.STEP sets module time to MT_SET at the next 1 µs update. -/
  | mtStep (req : Req)
  /-- R346: At each multiple of 10^9 ns of module time, every previous-second bank is latched and the live counts restart. -/
  | oneSecondTick (m : SecondStats)
  /-- R351: The input rises above 34 V (or falls below 76 V after overvoltage) and the power entry starts. -/
  | vinStart (vin : Nat)
  /-- R351: The input falls below 32 V or exceeds 80 V, and the power entry stops and every domain goes unpowered. -/
  | powerLoss
  /-- R352: The input falls below WARN_TH, raising the VIN warning with an injected sequence, attic record and shedding. -/
  | vinWarnRise (vin : Nat)
  /-- R352: The input rises above WARN_TH + HYST and the VIN warning clears. -/
  | vinWarnClear (vin : Nat)
  /-- R354: The head power stage is admitted once it fits in the 100 µs current-step window. -/
  | stageAdmit
  /-- R358: A write of PWR.STATE_CTL.TARGET starts an entry to another module power state. -/
  | stateTargetWrite (req : Req) (target : Fin 8)
  /-- R357: A write of STATE_CTL.WING_A or WING_B requests a wing state of Run, Idle or Sleep. -/
  | wingStateWrite (req : Req) (wingA wingB : Fin 4)
  /-- R358: A power-state transition completes, sets STATE_DONE and acts on any held TARGET. -/
  | stateEntryDone
  /-- R359: An island refuses or aborts an entry, and the module restarts stopped islands and returns to the previous state. -/
  | stateEntryRefuse (island : Fin 25) (reason : Fin 16)
  /-- R360: An access to an unclocked island requests its register stage at the head of the queue and stalls until it is clocked. -/
  | wakeOnAccess (island : Fin 25) (stall : Nat)
  /-- R360: LINGER ms after its last access, a woken register stage stops again. -/
  | woaLingerExpiry (group : Fin 3)
  /-- R361: WAKE_N held low for 10 µs wakes the module from Deep sleep, Watch or Off. -/
  | wakeNAssert
  /-- R361: The wake timer expires and wakes the module. -/
  | wakeTimerExpiry
  /-- R362: Every PERIOD in Watch, AON measures RX_PD and wakes the module after CONFIRM exceedances. -/
  | watchCycle (meanA meanB : Nat)
  /-- R361: MOD_RESET_N resets the module with wake cause 0x6. -/
  | modReset
  /-- R364: HIER_CTL.GO on a manager starts forwarding the hierarchy power request to the workers. -/
  | hierGo (req : Req) (reachable : List Nat)
  /-- R364: After WKR_SPACE, a power-raising request is sent to the next worker. -/
  | hierForwardNext
  /-- R440: A die sensor above 130 °C for 1 ms stops the power entry and latches the stop until VIN is cycled. -/
  | thermalTrip
  /-- R374: The ownership-map audit frees the cells of a damaged descriptor within 1 ms. -/
  | descAuditDone
  /-- R375: The patrol scrub reads the next valid line at low priority and handles its errors as a demand read would. -/
  | scrubRead (line : MemLine) (found : EccRead)
  /-- R376: The configuration sweep finds a parity mismatch and declares the island failed. -/
  | parityMismatch (island : Fin 25)
  /-- R377: A watched island clock shows no edge for 2 µs and the island is declared failed. -/
  | clockLoss (island : Fin 25)
  /-- R377: Loss of AON's 32.768 kHz oscillator for 100 µs raises SLOW_CLK. -/
  | slowClkLoss
  /-- R19: A doorway handshake not completed within 4 µs declares the receiving island failed. -/
  | doorwayTimeout (sender receiver : Fin 25)
  /-- R378: A lockstep miscompare resets both control cores and records a LOCKSTEP fault. -/
  | lockstepMiscompare
  /-- R378: The control cores run again from the firmware copy and policy actions resume. -/
  | coreRestartDone
  /-- R379: RAS.CTL.RECOVER restarts the wing, both wings or the module, or is refused when the scope misses a failed island. -/
  | recover (req : Req)
  /-- R381: RAS.INJ.ARM corrupts the next write to the selected memory. -/
  | eccInjectArm (req : Req)
  /-- R381: Writing 1 to RAS.FAULT.VALID clears the fault record. -/
  | faultClear (req : Req)
  /-- R384: PMU.CTL.FREEZE freezes every counter register at the next 1 µs update. -/
  | freeze (req : Req)
  /-- R384: PMU.CTL.THAW makes live counter values visible again at the next update. -/
  | thaw (req : Req)
  /-- R385: PMU.CTL.CLEAR_ALL zeroes the live and previous-second general counters. -/
  | clearAll (req : Req)
  /-- R383: A read of a _LO register stores the upper half in the requester's shadow for a consistent _HI read. -/
  | loHalfRead (req : Req) (addr : Nat)
  /-- R387: An access to PF1 BAR2 returns permitted counter words, or counts a USER_VIOL. -/
  | userPageAccess (offset : Nat) (isWrite : Bool)
  /-- R389: A read of TAG_WIN[0] copies the oldest tag record into the window. -/
  | tagWinRead (req : Req)
  /-- R389: PMU.TAG_POP removes the oldest tag record. -/
  | tagPop (req : Req)
  /-- R390: PMU.HIST_CLR zeroes the selected histograms. -/
  | histClr (req : Req) (mask : Nat)
  /-- R391: A record arriving at the attic is written, counted as a repeat, or lost when the queue is full. -/
  | atticRecord
  /-- R393: A read of ATT.WIN[0] copies the record at CURSOR into the window. -/
  | atticWinRead (req : Req)
  /-- R393: A read of ATT.WIN[7] with AUTO_INC = 1 advances CURSOR by one. -/
  | atticWinLastRead (req : Req)
  /-- R394: Writing 0xA5 to ATT.CLEAR.STEP arms a clear. -/
  | atticClearArm (req : Req) (scope : Bool)
  /-- R394: Writing 0x5A within 100 ms of arming clears the selected areas and writes the clear record. -/
  | atticClearExecute (req : Req) (scope : Bool)
  /-- R394: An armed clear lapses after 100 ms. -/
  | atticClearLapse
  /-- R400: Asserting PERST_N resets the HST island only. -/
  | perst
  /-- R398: A function level reset of PF0 stops DMA engines 0-6 and clears MSI-X state, INTN_PEND and PF0's shadow. -/
  | flrPf0
  /-- R398: A function level reset of PF1 clears PF1's shadow. -/
  | flrPf1
  /-- R402: An access with a byte enable cleared completes as Unsupported Request and counts in BAD_BE. -/
  | badAccess (req : Req)
  /-- R405: Unmasking a vector or enabling MSI-X sends one message for each pending vector. -/
  | msixUnmask (c : MsixCtl)
  /-- R405: At the end of a vector's GAP, the requests merged during it are sent as one message. -/
  | vecModGapExpiry (v : Fin 64)
  /-- R409: A capture engine writes a soft-symbol block into the descriptor at HEAD, or skips it. -/
  | captureBlock (e : Fin 7) (d : Descriptor) (m : SymbolBlock)
  /-- R412: Every 500 ns, each up corridor port sends a HEARTBEAT carrying the transmitted QL. -/
  | heartbeatTx
  /-- R412: A valid HEARTBEAT is received, counting towards the port coming up and carrying the QL. -/
  | corHeartbeatRx (port : Fin 4) (ql : Fin 16)
  /-- R412: After 2 µs without a valid cell, a corridor port goes down, and a ring reroutes. -/
  | corridorPortDown (port : Fin 4)
  /-- R413: A LINK cell reports a worker's port changes to the manager, possibly starting enumeration. -/
  | corLinkRx (worker : Nat) (port : Fin 4) (up restored : Bool)
  /-- R413: The manager assigns worker addresses depth first and raises ENUM_DONE. -/
  | enumerate (topo : List Neighbours)
  /-- R413: A worker receives an ENUM cell and takes its address and upstream port. -/
  | corEnumRx (addr : Nat) (port : Fin 4) (serves : List (Option (Nat × Nat)))
  /-- R415: A host access through a BAR4 window sends a corridor READ or WRITE to the mapped worker. -/
  | windowAccess (w : Fin 16) (addr : Nat) (data : Option Nat)
  /-- R417: A worker receives a READ cell, performs the read and returns READ_CPL, or sends STALL. -/
  | corReadRx (id addr : Nat) (port : Fin 4)
  /-- R417: A worker receives a WRITE cell, performs the write and returns WRITE_ACK. -/
  | corWriteRx (id addr word : Nat) (port : Fin 4)
  /-- R415: The manager receives READ_CPL and completes the host's read. -/
  | corReadCplRx (id data : Nat)
  /-- R415: The manager receives WRITE_ACK for an outstanding write. -/
  | corWriteAckRx (id : Nat)
  /-- R415: The first STALL for a request extends its deadline once, by 100 µs. -/
  | corStallRx (id : Nat)
  /-- R415: An unanswered read completes with all ones, or an unacknowledged write counts in WR_LOST. -/
  | windowDeadlineExpiry (id : Nat)
  /-- R416: The manager logs a forwarded DOORBELL and requests the window vector, or raises FWD_UNMAPPED. -/
  | corDoorbellRx (worker : Nat) (v : Fin 64)
  /-- R417: A worker receives a HIER cell and applies the requested power state. -/
  | corHierRx (target : Fin 8)
  /-- R418: A read of COR.FWD_LOG returns the oldest forwarded-doorbell entry and removes it. -/
  | fwdLogRead (req : Req)
  /-- R420: The SMBus STATUS command returns the module state and flags. -/
  | smbStatus
  /-- R420: The SMBus VIN command returns the input voltage. -/
  | smbVin
  /-- R420: The SMBus TCP command returns the cold-plate temperature. -/
  | smbTcp (v : Int)
  /-- R420: The SMBus TDIE command returns the highest die temperature. -/
  | smbTdie (v : Int)
  /-- R420: The SMBus WAKE command returns the wake cause, origin and flag. -/
  | smbWake
  /-- R420: The SMBus ID command returns GLB.ID and SEC.DEV_ID. -/
  | smbId
  /-- R420: The SMBus WAKE_CMD command wakes the module with cause 0x2, or is NACKed when disabled. -/
  | smbWakeCmd
  /-- R420: The SMBus ALERT_CLR command releases SMB_ALERT_N. -/
  | smbAlertClr
  /-- R420: A read of the Alert Response Address releases SMB_ALERT_N. -/
  | smbAlertResponse
  /-- R420: The SMBus ATTIC_CUR command sets the board's attic cursor. -/
  | smbAtticCur (index : Nat)
  /-- R420: The SMBus ATTIC_REC command returns the record at the board cursor and advances it. -/
  | smbAtticRec
  /-- R420: An undefined SMBus command is NACKed. -/
  | smbUndefined (code : Nat)
  /-- R421: The monitor peek command reads 1 to 64 words from BAR0. -/
  | monPeek (addr n : Nat)
  /-- R421: The monitor poke command writes one word under its change class. -/
  | monPoke (addr word : Nat)
  /-- R421: The monitor attic command prints attic records without moving ATT.CURSOR. -/
  | monAttic (index n : Nat)
  /-- R421: The monitor state command prints module and wing states, WAKE_REC and LAST_REFUSE. -/
  | monState
  /-- R421: The monitor islands command prints each island's clock, failure and refusal status. -/
  | monIslands
  /-- R421: The monitor fp command prints the running image's identity and section table. -/
  | monFp
  /-- R421: The monitor lanes command prints each lane's stage, FOM and failure reason. -/
  | monLanes (client : Option Bool)
  /-- R421: The monitor wing command prints a wing's receive, line, margin and handshake status. -/
  | monWing (w : Wing)
  /-- R421: The monitor ref command prints REF.STAT and each candidate's status. -/
  | monRef
  /-- R421: The monitor help command lists the commands. -/
  | monHelp
  /-- R421: An unknown monitor command or argument is answered with ERR and a code. -/
  | monUnknown
  /-- R424: A step of the full or wake start sequence completes and the next begins. -/
  | bootStepDone (b : BootInput)
  /-- R430: A step of a wing start completes and the next begins. -/
  | wingStartStepDone (w : Wing)
  /-- R427: Release of PERST_N starts PCIe link training within 20 ms and configuration-space readiness within 100 ms. -/
  | perstRelease
  /-- R399: PCIe link training completes and HST.LINK.UP, GEN and WIDTH take their trained values. -/
  | pcieLinkUp (gen : Nat) (width : Nat)
  /-- R402: An access to an unassigned offset, or to a region not yet responding during boot, reads zero or is ignored, and counts in HST.UNMAPPED.COUNT. -/
  | unmappedAccess (req : Req) (addr : Nat) (isWrite : Bool)
  /-- R269: A cupboard command that took time (LOAD, LOAD_KEK, ATTEST, GET_CERT or GET_KEK_PUB) completes, KEY_STAT.BUSY falls, and the security doorbell rings. -/
  | keyCommandDone
  /-- R36: A running ACTIVATE, CONFIRM or ADVANCE_SVN completes, SEC.IMG_STAT.BUSY falls, and the security doorbell rings. -/
  | imageCommandDone
  /-- R107: The equaliser regains convergence after a re-convergence from its stored taps, and traffic on the wing resumes. -/
  | eqReconvDone (w : Wing)
  /-- R340: Each hour learned while locked increments REF.HO_STAT.LEARN_H, and the model becomes valid (HO_VALID) at 72 h. -/
  | holdoverLearnHour (fit : HoModel)
deriving DecidableEq, Repr

end Sys2Proof
end

