-- ==== Sys2Proof/Decode.lean ====
section
/-!
DEFINITION. The commands that a word spells by the bits of the opcode table. The table of this hardware gives no row any
bits: a command is an access or an event, not a word. So no word spells a command.
-/

namespace Sys2Proof

/-- The command that the `nbits` bits of `w` spell: the table gives no row a field, so none. -/
def decodeTableWord (_nbits _w : Nat) : Option Instr := none

end Sys2Proof
end

