-- ==== Sys2Proof/Machine/Row.lean ====
section
/-!
DEFINITION. One row of the spec's register tables as data: where a field lies, how it is read and written (R7), its
change class (R8), its reset value (R10) and what a written value is taken as (R40).
-/

namespace Sys2Proof.Machine

/-- R7: the access codes. -/
inductive Acc where
  | rw
  | ro
  | rc
  | w1c
  | w1s
  | wo
deriving DecidableEq, Repr

/-- R8: the change classes; a read-only field carries none. -/
inductive Cls where
  | none
  | live
  | shadowed
  | frozen
deriving DecidableEq, Repr

/-- R40: what a written value is taken as. `keep` takes it as it is. -/
inductive Norm where
  | keep
  /-- The nearer limit of an unsigned range. -/
  | clamp (lo hi : Nat)
  /-- The nearer limit of a signed range (two's complement of the field's width). -/
  | sclamp (lo hi : Int)
  /-- One value is taken as another. -/
  | sub (bad good : Nat)
  /-- A value above `hi` is taken as `good`. -/
  | above (hi good : Nat)
  /-- A value above `hi` is ignored: the field keeps its value. -/
  | ignoreAbove (hi : Nat)
  /-- The low bits read as zero. -/
  | align (n : Nat)
  /-- An even value is taken as the next odd value; then the nearer limit. -/
  | odd (lo hi : Nat)
deriving DecidableEq, Repr

/-- R384, R386: whether the field is a count: the attic's (which FREEZE leaves alone), a live bank, or what else FREEZE freezes:
a previous-second bank, a histogram, or what a live bank holds besides counts. -/
inductive Cnt where
  | no
  | attic
  | live
  | ps
deriving DecidableEq, Repr

/-- R10: where the reset value comes from: a stated value, the floor plan, the fuses, or the spec states none. -/
inductive Rst where
  | val
  | fp
  | fuse
  | opened
deriving DecidableEq, Repr

/-- One field of a register, or of each register of an array. `dims` lists (count, stride in bytes), the outermost
first; the wing regions have the wing as the outermost dimension, 0x10_0000 apart (R401). -/
structure Row where
  /-- The row's own number: two rows with different numbers share no storage. -/
  id : Nat
  /-- BAR0 byte offset of the first instance. -/
  base : Nat
  dims : List (Nat × Nat)
  lsb : Nat
  width : Nat
  acc : Acc
  cls : Cls
  /-- The value the field holds after module reset. -/
  rst : Nat
  src : Rst
  norm : Norm
  cnt : Cnt
deriving DecidableEq, Repr

/-- The number of the instance that the indices name, counted as the table's dimensions nest. -/
def Row.flat (r : Row) (ix : List Nat) : Nat :=
  (r.dims.zip ix).foldl (fun n d => n * d.1.1 + d.2) 0

/-- The BAR0 byte offset of the instance that the indices name. -/
def Row.addr (r : Row) (ix : List Nat) : Nat :=
  r.base + (r.dims.zip ix).foldl (fun n d => n + d.1.2 * d.2) 0

/-- The indices of the instance at a byte offset from the row's base, if one lies there. -/
def Row.indexIn : List (Nat × Nat) → Nat → Option (List Nat)
  | [], 0 => some []
  | [], _ + 1 => Option.none
  | (count, stride) :: rest, off =>
    let i := off / stride
    let i := if i < count then i else count - 1
    (Row.indexIn rest (off - i * stride)).map (i :: ·)

/-- The indices of the instance at a BAR0 byte offset, if one lies there. -/
def Row.index? (r : Row) (addr : Nat) : Option (List Nat) :=
  if r.base ≤ addr then Row.indexIn r.dims (addr - r.base) else Option.none

end Sys2Proof.Machine
end

