-- ==== Sys2Proof/Machine/RegsClient.lean ====
section
/-!
DEFINITION. The spec's register tables for the regions CIP, HAL, PAN, SCH and CLI, one definition per field.
Each names, in this order: its own number, the BAR0 byte offset of the first instance, the instances' counts and
strides, its lowest bit, its width, its access, its change class, its value after reset, where that value comes
from, what a written value is taken as, and whether it is a count.
-/

namespace Sys2Proof.Machine

/-- R254: HAL.PG_MEMBERS.VALID [31]. -/
def Row.HAL_PG_MEMBERS_VALID : Row := ⟨539, 0x82000, [(8, 0x40)], 31, 1, .ro, .none, 0, .fp, .keep, .no⟩

/-- R254: HAL.PG_MEMBERS.PORT [21:16]. -/
def Row.HAL_PG_MEMBERS_PORT : Row := ⟨540, 0x82000, [(8, 0x40)], 16, 6, .ro, .none, 0, .fp, .keep, .no⟩

/-- R254: HAL.PG_MEMBERS.CH_A [12:8]. -/
def Row.HAL_PG_MEMBERS_CH_A : Row := ⟨541, 0x82000, [(8, 0x40)], 8, 5, .ro, .none, 0, .fp, .keep, .no⟩

/-- R254: HAL.PG_MEMBERS.CH_B [4:0]. -/
def Row.HAL_PG_MEMBERS_CH_B : Row := ⟨542, 0x82000, [(8, 0x40)], 0, 5, .ro, .none, 0, .fp, .keep, .no⟩

/-- R254: HAL.PG_CFG.BIDIR [31]. -/
def Row.HAL_PG_CFG_BIDIR : Row := ⟨543, 0x82004, [(8, 0x40)], 31, 1, .rw, .shadowed, 0, .fp, .keep, .no⟩

/-- R254: HAL.PG_CFG.REVERT [30]. -/
def Row.HAL_PG_CFG_REVERT : Row := ⟨544, 0x82004, [(8, 0x40)], 30, 1, .rw, .shadowed, 0, .fp, .keep, .no⟩

/-- R254: HAL.PG_CFG.WORK_B [29]. -/
def Row.HAL_PG_CFG_WORK_B : Row := ⟨545, 0x82004, [(8, 0x40)], 29, 1, .rw, .shadowed, 0, .fp, .keep, .no⟩

/-- R254: HAL.PG_CFG.SD_EN [28]. -/
def Row.HAL_PG_CFG_SD_EN : Row := ⟨546, 0x82004, [(8, 0x40)], 28, 1, .rw, .shadowed, 0, .fp, .keep, .no⟩

/-- R254: HAL.PG_CFG.HOLDOFF [15:8]. -/
def Row.HAL_PG_CFG_HOLDOFF : Row := ⟨547, 0x82004, [(8, 0x40)], 8, 8, .rw, .shadowed, 0, .fp, .clamp 0 100, .no⟩

/-- R254: HAL.PG_CFG.WTR [7:0]. -/
def Row.HAL_PG_CFG_WTR : Row := ⟨548, 0x82004, [(8, 0x40)], 0, 8, .rw, .shadowed, 0, .fp, .clamp 6 72, .no⟩

/-- R254: HAL.PG_CMD.CMD [2:0]. -/
def Row.HAL_PG_CMD_CMD : Row := ⟨549, 0x82008, [(8, 0x40)], 0, 3, .wo, .live, 0, .val, .keep, .no⟩

/-- R254: HAL.PG_STAT.LOCAL_REQ [31:28]. -/
def Row.HAL_PG_STAT_LOCAL_REQ : Row := ⟨550, 0x8200C, [(8, 0x40)], 28, 4, .ro, .none, 0, .val, .keep, .no⟩

/-- R254: HAL.PG_STAT.FAR_REQ [27:24]. -/
def Row.HAL_PG_STAT_FAR_REQ : Row := ⟨551, 0x8200C, [(8, 0x40)], 24, 4, .ro, .none, 0, .val, .keep, .no⟩

/-- R254: HAL.PG_STAT.SEL_B [23]. -/
def Row.HAL_PG_STAT_SEL_B : Row := ⟨552, 0x8200C, [(8, 0x40)], 23, 1, .ro, .none, 0, .opened, .keep, .no⟩

/-- R254: HAL.PG_STAT.WTR_RUN [22]. -/
def Row.HAL_PG_STAT_WTR_RUN : Row := ⟨553, 0x8200C, [(8, 0x40)], 22, 1, .ro, .none, 0, .val, .keep, .no⟩

/-- R254: HAL.PG_STAT.HOLD [21:20]. -/
def Row.HAL_PG_STAT_HOLD : Row := ⟨554, 0x8200C, [(8, 0x40)], 20, 2, .ro, .none, 0, .val, .keep, .no⟩

/-- R254: HAL.PG_STAT.COND_A [19:18]. -/
def Row.HAL_PG_STAT_COND_A : Row := ⟨555, 0x8200C, [(8, 0x40)], 18, 2, .ro, .none, 0, .val, .keep, .no⟩

/-- R254: HAL.PG_STAT.COND_B [17:16]. -/
def Row.HAL_PG_STAT_COND_B : Row := ⟨556, 0x8200C, [(8, 0x40)], 16, 2, .ro, .none, 0, .val, .keep, .no⟩

/-- R254: HAL.PG_STAT.CMD_HELD [15:13]. -/
def Row.HAL_PG_STAT_CMD_HELD : Row := ⟨557, 0x8200C, [(8, 0x40)], 13, 3, .ro, .none, 0, .val, .keep, .no⟩

/-- R254: HAL.PG_STAT.FOP [12]. -/
def Row.HAL_PG_STAT_FOP : Row := ⟨558, 0x8200C, [(8, 0x40)], 12, 1, .ro, .none, 0, .val, .keep, .no⟩

/-- R254: HAL.PG_STAT.CMD_REFUSED [11]. -/
def Row.HAL_PG_STAT_CMD_REFUSED : Row := ⟨559, 0x8200C, [(8, 0x40)], 11, 1, .w1c, .live, 0, .val, .keep, .no⟩

/-- R254: HAL.PG_CNT.SWITCHES [31:16]. -/
def Row.HAL_PG_CNT_SWITCHES : Row := ⟨560, 0x82010, [(8, 0x40)], 16, 16, .ro, .none, 0, .val, .keep, .live⟩

/-- R254: HAL.PG_CNT.FOP [15:0]. -/
def Row.HAL_PG_CNT_FOP : Row := ⟨561, 0x82010, [(8, 0x40)], 0, 16, .ro, .none, 0, .val, .keep, .live⟩

/-- R254: HAL.PG_DROP.DROP [31:0]. -/
def Row.HAL_PG_DROP_DROP : Row := ⟨562, 0x82014, [(8, 0x40)], 0, 32, .ro, .none, 0, .val, .keep, .live⟩

/-- R254: HAL.PG_EVT.FOP [15:8]. -/
def Row.HAL_PG_EVT_FOP : Row := ⟨563, 0x82200, [], 8, 8, .w1c, .live, 0, .val, .keep, .no⟩

/-- R254: HAL.PG_EVT.SEL_CHANGE [7:0]. -/
def Row.HAL_PG_EVT_SEL_CHANGE : Row := ⟨564, 0x82200, [], 0, 8, .w1c, .live, 0, .val, .keep, .no⟩

/-- R276: CIP.LIMIT.SOFT [10:0]. -/
def Row.CIP_LIMIT_SOFT : Row := ⟨565, 0x70000, [], 0, 11, .rw, .shadowed, 1024, .val, .clamp 1 2047, .no⟩

/-- R276: CIP.EVT.LAST_SLOT [24:16]. -/
def Row.CIP_EVT_LAST_SLOT : Row := ⟨566, 0x70010, [], 16, 9, .ro, .none, 0, .val, .keep, .no⟩

/-- R276: CIP.EVT.SEG_LOSS [5]. -/
def Row.CIP_EVT_SEG_LOSS : Row := ⟨567, 0x70010, [], 5, 1, .w1c, .live, 0, .val, .keep, .no⟩

/-- R276: CIP.EVT.AUTH_FAIL [4]. -/
def Row.CIP_EVT_AUTH_FAIL : Row := ⟨568, 0x70010, [], 4, 1, .w1c, .live, 0, .val, .keep, .no⟩

/-- R276: CIP.EVT.BLOCKED [3]. -/
def Row.CIP_EVT_BLOCKED : Row := ⟨569, 0x70010, [], 3, 1, .w1c, .live, 0, .val, .keep, .no⟩

/-- R276: CIP.EVT.RETIRED [2]. -/
def Row.CIP_EVT_RETIRED : Row := ⟨570, 0x70010, [], 2, 1, .w1c, .live, 0, .val, .keep, .no⟩

/-- R276: CIP.EVT.ROLLED [1]. -/
def Row.CIP_EVT_ROLLED : Row := ⟨571, 0x70010, [], 1, 1, .w1c, .live, 0, .val, .keep, .no⟩

/-- R276: CIP.EVT.ROLL_REQ [0]. -/
def Row.CIP_EVT_ROLL_REQ : Row := ⟨572, 0x70010, [], 0, 1, .w1c, .live, 0, .val, .keep, .no⟩

/-- R276: CIP.PIPE_STAT.ACTIVE [20:16]. -/
def Row.CIP_PIPE_STAT_ACTIVE : Row := ⟨573, 0x70020, [], 16, 5, .ro, .none, 0, .val, .keep, .no⟩

/-- R276: CIP.PIPE_STAT.SUSPENDED [12:8]. -/
def Row.CIP_PIPE_STAT_SUSPENDED : Row := ⟨574, 0x70020, [], 8, 5, .ro, .none, 0, .val, .keep, .no⟩

/-- R276: CIP.CTX_STAT.FULL [31:16]. -/
def Row.CIP_CTX_STAT_FULL : Row := ⟨575, 0x70024, [], 16, 16, .ro, .none, 0, .val, .keep, .live⟩

/-- R276: CIP.CTX_STAT.USED [12:0]. -/
def Row.CIP_CTX_STAT_USED : Row := ⟨576, 0x70024, [], 0, 13, .ro, .none, 0, .val, .keep, .no⟩

/-- R276: CIP.PREEMPTS.COUNT [31:0]. -/
def Row.CIP_PREEMPTS_COUNT : Row := ⟨577, 0x70028, [], 0, 32, .ro, .none, 0, .val, .keep, .live⟩

/-- R276: CIP.CH_CFG.URGENT [31]. -/
def Row.CIP_CH_CFG_URGENT : Row := ⟨578, 0x70100, [(64, 0x4)], 31, 1, .rw, .live, 0, .fp, .keep, .no⟩

/-- R276: CIP.CH_CFG.MODE [30]. -/
def Row.CIP_CH_CFG_MODE : Row := ⟨579, 0x70100, [(64, 0x4)], 30, 1, .rw, .frozen, 0, .fp, .keep, .no⟩

/-- R276: CIP.CH_CFG.SEG_LEN [10:0]. -/
def Row.CIP_CH_CFG_SEG_LEN : Row := ⟨580, 0x70100, [(64, 0x4)], 0, 11, .rw, .frozen, 0, .fp, .clamp 63 2047, .no⟩

/-- R276: CIP.CH_CTL.ROLL [0]. -/
def Row.CIP_CH_CTL_ROLL : Row := ⟨581, 0x70200, [(64, 0x4)], 0, 1, .wo, .live, 0, .val, .keep, .no⟩

/-- R276: CIP.CH_STAT.SEG_LOCK [31]. -/
def Row.CIP_CH_STAT_SEG_LOCK : Row := ⟨582, 0x70300, [(64, 0x4)], 31, 1, .ro, .none, 0, .val, .keep, .no⟩

/-- R276: CIP.CH_STAT.TX_VOID [30]. -/
def Row.CIP_CH_STAT_TX_VOID : Row := ⟨583, 0x70300, [(64, 0x4)], 30, 1, .ro, .none, 0, .val, .keep, .no⟩

/-- R276: CIP.CH_STAT.RX_VOID [29]. -/
def Row.CIP_CH_STAT_RX_VOID : Row := ⟨584, 0x70300, [(64, 0x4)], 29, 1, .ro, .none, 0, .val, .keep, .no⟩

/-- R276: CIP.CH_STAT.TX_KP [28]. -/
def Row.CIP_CH_STAT_TX_KP : Row := ⟨585, 0x70300, [(64, 0x4)], 28, 1, .ro, .none, 0, .val, .keep, .no⟩

/-- R276: CIP.CH_STAT.RX_KP [27]. -/
def Row.CIP_CH_STAT_RX_KP : Row := ⟨586, 0x70300, [(64, 0x4)], 27, 1, .ro, .none, 0, .val, .keep, .no⟩

/-- R276: CIP.CH_STAT.RX_BLOCKED [26]. -/
def Row.CIP_CH_STAT_RX_BLOCKED : Row := ⟨587, 0x70300, [(64, 0x4)], 26, 1, .ro, .none, 0, .val, .keep, .no⟩

/-- R276: CIP.CH_STAT.ROLL_PEND [25]. -/
def Row.CIP_CH_STAT_ROLL_PEND : Row := ⟨588, 0x70300, [(64, 0x4)], 25, 1, .ro, .none, 0, .val, .keep, .no⟩

/-- R276: CIP.SLOT_STAT.STATE [31:29]. -/
def Row.CIP_SLOT_STAT_STATE : Row := ⟨589, 0x70400, [(256, 0x8)], 29, 3, .ro, .none, 0, .val, .keep, .no⟩

/-- R276: CIP.SLOT_STAT.GEN [15:0]. -/
def Row.CIP_SLOT_STAT_GEN : Row := ⟨590, 0x70400, [(256, 0x8)], 0, 16, .ro, .none, 0, .val, .keep, .no⟩

/-- R276: CIP.SLOT_USAGE.USAGE [31:0]. -/
def Row.CIP_SLOT_USAGE_USAGE : Row := ⟨591, 0x70404, [(256, 0x8)], 0, 32, .ro, .none, 0, .val, .keep, .no⟩

/-- R276: CIP.SEG_OK.COUNT [31:0]. -/
def Row.CIP_SEG_OK_COUNT : Row := ⟨592, 0x71000, [(64, 0x20)], 0, 32, .ro, .none, 0, .val, .keep, .live⟩

/-- R276: CIP.AUTH_FAIL.COUNT [31:0]. -/
def Row.CIP_AUTH_FAIL_COUNT : Row := ⟨593, 0x71004, [(64, 0x20)], 0, 32, .ro, .none, 0, .val, .keep, .live⟩

/-- R276: CIP.NO_KEY.COUNT [31:0]. -/
def Row.CIP_NO_KEY_COUNT : Row := ⟨594, 0x71008, [(64, 0x20)], 0, 32, .ro, .none, 0, .val, .keep, .live⟩

/-- R276: CIP.SEQ_ERR.COUNT [31:0]. -/
def Row.CIP_SEQ_ERR_COUNT : Row := ⟨595, 0x7100C, [(64, 0x20)], 0, 32, .ro, .none, 0, .val, .keep, .live⟩

/-- R276: CIP.SEG_OK_PS.COUNT [31:0]. -/
def Row.CIP_SEG_OK_PS_COUNT : Row := ⟨596, 0x71010, [(64, 0x20)], 0, 32, .ro, .none, 0, .val, .keep, .ps⟩

/-- R276: CIP.AUTH_FAIL_PS.COUNT [31:0]. -/
def Row.CIP_AUTH_FAIL_PS_COUNT : Row := ⟨597, 0x71014, [(64, 0x20)], 0, 32, .ro, .none, 0, .val, .keep, .ps⟩

/-- R276: CIP.NO_KEY_PS.COUNT [31:0]. -/
def Row.CIP_NO_KEY_PS_COUNT : Row := ⟨598, 0x71018, [(64, 0x20)], 0, 32, .ro, .none, 0, .val, .keep, .ps⟩

/-- R276: CIP.SEQ_ERR_PS.COUNT [31:0]. -/
def Row.CIP_SEQ_ERR_PS_COUNT : Row := ⟨599, 0x7101C, [(64, 0x20)], 0, 32, .ro, .none, 0, .val, .keep, .ps⟩

/-- R298: CLI.PORT_CFG.ENABLE [31]. -/
def Row.CLI_PORT_CFG_ENABLE : Row := ⟨618, 0xB0000, [(32, 0x200)], 31, 1, .rw, .live, 0, .fp, .keep, .no⟩

/-- R298: CLI.PORT_CFG.SSF_ACT [30]. -/
def Row.CLI_PORT_CFG_SSF_ACT : Row := ⟨619, 0xB0000, [(32, 0x200)], 30, 1, .rw, .shadowed, 1, .val, .keep, .no⟩

/-- R298: CLI.PORT_CFG.CLS_MODE [29:28]. -/
def Row.CLI_PORT_CFG_CLS_MODE : Row := ⟨620, 0xB0000, [(32, 0x200)], 28, 2, .rw, .shadowed, 0, .fp, .keep, .no⟩

/-- R298: CLI.PORT_CFG.DEF_CLASS [26:24]. -/
def Row.CLI_PORT_CFG_DEF_CLASS : Row := ⟨621, 0xB0000, [(32, 0x200)], 24, 3, .rw, .shadowed, 0, .fp, .keep, .no⟩

/-- R298: CLI.PORT_CFG.RATE [12:11]. -/
def Row.CLI_PORT_CFG_RATE : Row := ⟨622, 0xB0000, [(32, 0x200)], 11, 2, .ro, .none, 0, .fp, .keep, .no⟩

/-- R298: CLI.PORT_CFG.WIDTH [10:9]. -/
def Row.CLI_PORT_CFG_WIDTH : Row := ⟨623, 0xB0000, [(32, 0x200)], 9, 2, .ro, .none, 0, .fp, .keep, .no⟩

/-- R298: CLI.PORT_CFG.LANE0 [4:0]. -/
def Row.CLI_PORT_CFG_LANE0 : Row := ⟨624, 0xB0000, [(32, 0x200)], 0, 5, .ro, .none, 0, .fp, .keep, .no⟩

/-- R298: CLI.PORT_STAT.LINK [31]. -/
def Row.CLI_PORT_STAT_LINK : Row := ⟨625, 0xB0004, [(32, 0x200)], 31, 1, .ro, .none, 0, .val, .keep, .no⟩

/-- R298: CLI.PORT_STAT.LF_RX [30]. -/
def Row.CLI_PORT_STAT_LF_RX : Row := ⟨626, 0xB0004, [(32, 0x200)], 30, 1, .ro, .none, 0, .val, .keep, .no⟩

/-- R298: CLI.PORT_STAT.RF_RX [29]. -/
def Row.CLI_PORT_STAT_RF_RX : Row := ⟨627, 0xB0004, [(32, 0x200)], 29, 1, .ro, .none, 0, .val, .keep, .no⟩

/-- R298: CLI.PORT_STAT.LF_TX [28]. -/
def Row.CLI_PORT_STAT_LF_TX : Row := ⟨628, 0xB0004, [(32, 0x200)], 28, 1, .ro, .none, 0, .val, .keep, .no⟩

/-- R298: CLI.PORT_STAT.PAUSED [15:8]. -/
def Row.CLI_PORT_STAT_PAUSED : Row := ⟨629, 0xB0004, [(32, 0x200)], 8, 8, .ro, .none, 0, .val, .keep, .no⟩

/-- R298: CLI.PORT_STAT.XOFF [7:0]. -/
def Row.CLI_PORT_STAT_XOFF : Row := ⟨630, 0xB0004, [(32, 0x200)], 0, 8, .ro, .none, 0, .val, .keep, .no⟩

/-- R298: CLI.CLS_MAP.CLASS_0 [2:0]. -/
def Row.CLI_CLS_MAP_CLASS_0 : Row := ⟨631, 0xB0010, [(32, 0x200), (8, 0x4)], 0, 3, .rw, .shadowed, 0, .fp, .keep, .no⟩

/-- R298: CLI.CLS_MAP.CLASS_1 [6:4]. -/
def Row.CLI_CLS_MAP_CLASS_1 : Row := ⟨632, 0xB0010, [(32, 0x200), (8, 0x4)], 4, 3, .rw, .shadowed, 0, .fp, .keep, .no⟩

/-- R298: CLI.CLS_MAP.CLASS_2 [10:8]. -/
def Row.CLI_CLS_MAP_CLASS_2 : Row := ⟨633, 0xB0010, [(32, 0x200), (8, 0x4)], 8, 3, .rw, .shadowed, 0, .fp, .keep, .no⟩

/-- R298: CLI.CLS_MAP.CLASS_3 [14:12]. -/
def Row.CLI_CLS_MAP_CLASS_3 : Row := ⟨634, 0xB0010, [(32, 0x200), (8, 0x4)], 12, 3, .rw, .shadowed, 0, .fp, .keep, .no⟩

/-- R298: CLI.CLS_MAP.CLASS_4 [18:16]. -/
def Row.CLI_CLS_MAP_CLASS_4 : Row := ⟨635, 0xB0010, [(32, 0x200), (8, 0x4)], 16, 3, .rw, .shadowed, 0, .fp, .keep, .no⟩

/-- R298: CLI.CLS_MAP.CLASS_5 [22:20]. -/
def Row.CLI_CLS_MAP_CLASS_5 : Row := ⟨636, 0xB0010, [(32, 0x200), (8, 0x4)], 20, 3, .rw, .shadowed, 0, .fp, .keep, .no⟩

/-- R298: CLI.CLS_MAP.CLASS_6 [26:24]. -/
def Row.CLI_CLS_MAP_CLASS_6 : Row := ⟨637, 0xB0010, [(32, 0x200), (8, 0x4)], 24, 3, .rw, .shadowed, 0, .fp, .keep, .no⟩

/-- R298: CLI.CLS_MAP.CLASS_7 [30:28]. -/
def Row.CLI_CLS_MAP_CLASS_7 : Row := ⟨638, 0xB0010, [(32, 0x200), (8, 0x4)], 28, 3, .rw, .shadowed, 0, .fp, .keep, .no⟩

/-- R298: CLI.POL_CTL.EN [31]. -/
def Row.CLI_POL_CTL_EN : Row := ⟨639, 0xB0040, [(32, 0x200), (8, 0x10)], 31, 1, .rw, .shadowed, 0, .fp, .keep, .no⟩

/-- R298: CLI.POL_CTL.MODE [30]. -/
def Row.CLI_POL_CTL_MODE : Row := ⟨640, 0xB0040, [(32, 0x200), (8, 0x10)], 30, 1, .rw, .shadowed, 0, .fp, .keep, .no⟩

/-- R298: CLI.POL_RATE.CIR [31:16]. -/
def Row.CLI_POL_RATE_CIR : Row := ⟨641, 0xB0044, [(32, 0x200), (8, 0x10)], 16, 16, .rw, .shadowed, 0, .fp, .keep, .no⟩

/-- R298: CLI.POL_RATE.PIR [15:0]. -/
def Row.CLI_POL_RATE_PIR : Row := ⟨642, 0xB0044, [(32, 0x200), (8, 0x10)], 0, 16, .rw, .shadowed, 0, .fp, .keep, .no⟩

/-- R298: CLI.POL_BURST.CBS [31:16]. -/
def Row.CLI_POL_BURST_CBS : Row := ⟨643, 0xB0048, [(32, 0x200), (8, 0x10)], 16, 16, .rw, .shadowed, 0, .fp, .keep, .no⟩

/-- R298: CLI.POL_BURST.PBS [15:0]. -/
def Row.CLI_POL_BURST_PBS : Row := ⟨644, 0xB0048, [(32, 0x200), (8, 0x10)], 0, 16, .rw, .shadowed, 0, .fp, .keep, .no⟩

/-- R298: CLI.PFC_CFG.QUANTA [31:16]. -/
def Row.CLI_PFC_CFG_QUANTA : Row := ⟨645, 0xB0100, [(32, 0x200)], 16, 16, .rw, .shadowed, 65535, .val, .sub 0 1, .no⟩

/-- R298: CLI.PFC_CFG.RX_EN [15:8]. -/
def Row.CLI_PFC_CFG_RX_EN : Row := ⟨646, 0xB0100, [(32, 0x200)], 8, 8, .rw, .shadowed, 0, .fp, .keep, .no⟩

/-- R298: CLI.PFC_CFG.TX_EN [7:0]. -/
def Row.CLI_PFC_CFG_TX_EN : Row := ⟨647, 0xB0100, [(32, 0x200)], 0, 8, .rw, .shadowed, 0, .fp, .keep, .no⟩

/-- R298: CLI.RX_FRAMES.COUNT [31:0]. -/
def Row.CLI_RX_FRAMES_COUNT : Row := ⟨648, 0xB0180, [(32, 0x200)], 0, 32, .ro, .none, 0, .val, .keep, .live⟩

/-- R298: CLI.RX_FCS_ERR.COUNT [31:0]. -/
def Row.CLI_RX_FCS_ERR_COUNT : Row := ⟨649, 0xB0184, [(32, 0x200)], 0, 32, .ro, .none, 0, .val, .keep, .live⟩

/-- R298: CLI.RX_RUNT.COUNT [31:0]. -/
def Row.CLI_RX_RUNT_COUNT : Row := ⟨650, 0xB0188, [(32, 0x200)], 0, 32, .ro, .none, 0, .val, .keep, .live⟩

/-- R298: CLI.RX_OVERSIZE.COUNT [31:0]. -/
def Row.CLI_RX_OVERSIZE_COUNT : Row := ⟨651, 0xB018C, [(32, 0x200)], 0, 32, .ro, .none, 0, .val, .keep, .live⟩

/-- R298: CLI.RX_MACCTL.COUNT [31:0]. -/
def Row.CLI_RX_MACCTL_COUNT : Row := ⟨652, 0xB0190, [(32, 0x200)], 0, 32, .ro, .none, 0, .val, .keep, .live⟩

/-- R298: CLI.TX_FRAMES.COUNT [31:0]. -/
def Row.CLI_TX_FRAMES_COUNT : Row := ⟨653, 0xB0194, [(32, 0x200)], 0, 32, .ro, .none, 0, .val, .keep, .live⟩

/-- R298: CLI.PFC_RX.COUNT [31:0]. -/
def Row.CLI_PFC_RX_COUNT : Row := ⟨654, 0xB0198, [(32, 0x200)], 0, 32, .ro, .none, 0, .val, .keep, .live⟩

/-- R298: CLI.PFC_TX.COUNT [31:0]. -/
def Row.CLI_PFC_TX_COUNT : Row := ⟨655, 0xB019C, [(32, 0x200)], 0, 32, .ro, .none, 0, .val, .keep, .live⟩

/-- R298: CLI.POL_RED.COUNT [31:0]. -/
def Row.CLI_POL_RED_COUNT : Row := ⟨656, 0xB01A0, [(32, 0x200)], 0, 32, .ro, .none, 0, .val, .keep, .live⟩

/-- R298: CLI.POL_YELLOW.COUNT [31:0]. -/
def Row.CLI_POL_YELLOW_COUNT : Row := ⟨657, 0xB01A4, [(32, 0x200)], 0, 32, .ro, .none, 0, .val, .keep, .live⟩

/-- R298: CLI.RX_NOMAP.COUNT [31:0]. -/
def Row.CLI_RX_NOMAP_COUNT : Row := ⟨658, 0xB01A8, [(32, 0x200)], 0, 32, .ro, .none, 0, .val, .keep, .live⟩

/-- R298: CLI.RX_FRAMES_PS.COUNT [31:0]. -/
def Row.CLI_RX_FRAMES_PS_COUNT : Row := ⟨659, 0xB01C0, [(32, 0x200)], 0, 32, .ro, .none, 0, .val, .keep, .ps⟩

/-- R298: CLI.RX_FCS_ERR_PS.COUNT [31:0]. -/
def Row.CLI_RX_FCS_ERR_PS_COUNT : Row := ⟨660, 0xB01C4, [(32, 0x200)], 0, 32, .ro, .none, 0, .val, .keep, .ps⟩

/-- R298: CLI.RX_RUNT_PS.COUNT [31:0]. -/
def Row.CLI_RX_RUNT_PS_COUNT : Row := ⟨661, 0xB01C8, [(32, 0x200)], 0, 32, .ro, .none, 0, .val, .keep, .ps⟩

/-- R298: CLI.RX_OVERSIZE_PS.COUNT [31:0]. -/
def Row.CLI_RX_OVERSIZE_PS_COUNT : Row := ⟨662, 0xB01CC, [(32, 0x200)], 0, 32, .ro, .none, 0, .val, .keep, .ps⟩

/-- R298: CLI.RX_MACCTL_PS.COUNT [31:0]. -/
def Row.CLI_RX_MACCTL_PS_COUNT : Row := ⟨663, 0xB01D0, [(32, 0x200)], 0, 32, .ro, .none, 0, .val, .keep, .ps⟩

/-- R298: CLI.TX_FRAMES_PS.COUNT [31:0]. -/
def Row.CLI_TX_FRAMES_PS_COUNT : Row := ⟨664, 0xB01D4, [(32, 0x200)], 0, 32, .ro, .none, 0, .val, .keep, .ps⟩

/-- R298: CLI.PFC_RX_PS.COUNT [31:0]. -/
def Row.CLI_PFC_RX_PS_COUNT : Row := ⟨665, 0xB01D8, [(32, 0x200)], 0, 32, .ro, .none, 0, .val, .keep, .ps⟩

/-- R298: CLI.PFC_TX_PS.COUNT [31:0]. -/
def Row.CLI_PFC_TX_PS_COUNT : Row := ⟨666, 0xB01DC, [(32, 0x200)], 0, 32, .ro, .none, 0, .val, .keep, .ps⟩

/-- R298: CLI.POL_RED_PS.COUNT [31:0]. -/
def Row.CLI_POL_RED_PS_COUNT : Row := ⟨667, 0xB01E0, [(32, 0x200)], 0, 32, .ro, .none, 0, .val, .keep, .ps⟩

/-- R298: CLI.POL_YELLOW_PS.COUNT [31:0]. -/
def Row.CLI_POL_YELLOW_PS_COUNT : Row := ⟨668, 0xB01E4, [(32, 0x200)], 0, 32, .ro, .none, 0, .val, .keep, .ps⟩

/-- R298: CLI.RX_NOMAP_PS.COUNT [31:0]. -/
def Row.CLI_RX_NOMAP_PS_COUNT : Row := ⟨669, 0xB01E8, [(32, 0x200)], 0, 32, .ro, .none, 0, .val, .keep, .ps⟩

/-- R299: PAN.EQ_CFG.ALPHA [31:28]. -/
def Row.PAN_EQ_CFG_ALPHA : Row := ⟨670, 0x91000, [(512, 0x10)], 28, 4, .rw, .shadowed, 0, .fp, .clamp 0 9, .no⟩

/-- R299: PAN.EQ_CFG.YEL_SHIFT [27:26]. -/
def Row.PAN_EQ_CFG_YEL_SHIFT : Row := ⟨671, 0x91000, [(512, 0x10)], 26, 2, .rw, .shadowed, 0, .fp, .keep, .no⟩

/-- R299: PAN.EQ_CFG.RESERVE [19:0]. -/
def Row.PAN_EQ_CFG_RESERVE : Row := ⟨672, 0x91000, [(512, 0x10)], 0, 20, .ro, .none, 0, .fp, .keep, .no⟩

/-- R299: PAN.EQ_PFC_TH.XOFF_TH [31:16]. -/
def Row.PAN_EQ_PFC_TH_XOFF_TH : Row := ⟨673, 0x91004, [(512, 0x10)], 16, 16, .rw, .shadowed, 0, .fp, .keep, .no⟩

/-- R299: PAN.EQ_PFC_TH.XON_TH [15:0]. -/
def Row.PAN_EQ_PFC_TH_XON_TH : Row := ⟨674, 0x91004, [(512, 0x10)], 0, 16, .rw, .shadowed, 0, .fp, .keep, .no⟩

/-- R299: PAN.EQ_OCC.CELLS [19:0]. -/
def Row.PAN_EQ_OCC_CELLS : Row := ⟨675, 0x91008, [(512, 0x10)], 0, 20, .ro, .none, 0, .val, .keep, .no⟩

/-- R299: PAN.EQ_DROPS.COUNT [31:0]. -/
def Row.PAN_EQ_DROPS_COUNT : Row := ⟨676, 0x9100C, [(512, 0x10)], 0, 32, .rc, .none, 0, .val, .keep, .live⟩

/-- R299: PAN.IQ_CFG.ALPHA [31:28]. -/
def Row.PAN_IQ_CFG_ALPHA : Row := ⟨677, 0x93000, [(256, 0x10)], 28, 4, .rw, .shadowed, 0, .fp, .clamp 0 9, .no⟩

/-- R299: PAN.IQ_CFG.YEL_SHIFT [27:26]. -/
def Row.PAN_IQ_CFG_YEL_SHIFT : Row := ⟨678, 0x93000, [(256, 0x10)], 26, 2, .rw, .shadowed, 0, .fp, .keep, .no⟩

/-- R299: PAN.IQ_CFG.RESERVE [19:0]. -/
def Row.PAN_IQ_CFG_RESERVE : Row := ⟨679, 0x93000, [(256, 0x10)], 0, 20, .ro, .none, 0, .fp, .keep, .no⟩

/-- R299: PAN.IQ_OCC.CELLS [19:0]. -/
def Row.PAN_IQ_OCC_CELLS : Row := ⟨680, 0x93008, [(256, 0x10)], 0, 20, .ro, .none, 0, .val, .keep, .no⟩

/-- R299: PAN.IQ_DROPS.COUNT [31:0]. -/
def Row.PAN_IQ_DROPS_COUNT : Row := ⟨681, 0x9300C, [(256, 0x10)], 0, 32, .rc, .none, 0, .val, .keep, .live⟩

/-- R299: PAN.PART_RES.SIZE [19:0]. -/
def Row.PAN_PART_RES_SIZE : Row := ⟨682, 0x90010, [(3, 0x8)], 0, 20, .ro, .none, 0, .fp, .keep, .no⟩

/-- R299: PAN.PART_USE.USED [19:0]. -/
def Row.PAN_PART_USE_USED : Row := ⟨683, 0x90014, [(3, 0x8)], 0, 20, .ro, .none, 0, .val, .keep, .no⟩

/-- R299: PAN.SHARED.FREE [19:0]. -/
def Row.PAN_SHARED_FREE : Row := ⟨684, 0x90030, [], 0, 20, .ro, .none, 0, .fp, .keep, .no⟩

/-- R299: PAN.DESC_FREE.FREE [19:0]. -/
def Row.PAN_DESC_FREE_FREE : Row := ⟨685, 0x90034, [], 0, 20, .ro, .none, 0, .fp, .keep, .no⟩

/-- R299: PAN.DROP_CNT.COUNT [31:0]. -/
def Row.PAN_DROP_CNT_COUNT : Row := ⟨686, 0x90100, [(3, 0x40), (8, 0x4)], 0, 32, .ro, .none, 0, .val, .keep, .live⟩

/-- R299: PAN.DROP_PS.COUNT [31:0]. -/
def Row.PAN_DROP_PS_COUNT : Row := ⟨687, 0x90120, [(3, 0x40), (8, 0x4)], 0, 32, .ro, .none, 0, .val, .keep, .ps⟩

/-- R300: HAL.MAP.VALID [31]. -/
def Row.HAL_MAP_VALID : Row := ⟨688, 0x80000, [(32, 0x4)], 31, 1, .ro, .none, 0, .fp, .keep, .no⟩

/-- R300: HAL.MAP.PROT [30]. -/
def Row.HAL_MAP_PROT : Row := ⟨689, 0x80000, [(32, 0x4)], 30, 1, .ro, .none, 0, .fp, .keep, .no⟩

/-- R300: HAL.MAP.GROUP [10:8]. -/
def Row.HAL_MAP_GROUP : Row := ⟨690, 0x80000, [(32, 0x4)], 8, 3, .ro, .none, 0, .fp, .keep, .no⟩

/-- R300: HAL.MAP.CHAN [5:0]. -/
def Row.HAL_MAP_CHAN : Row := ⟨691, 0x80000, [(32, 0x4)], 0, 6, .ro, .none, 0, .fp, .keep, .no⟩

/-- R300: HAL.LB.MODE [1:0]. -/
def Row.HAL_LB_MODE : Row := ⟨692, 0x80100, [(32, 0x4)], 0, 2, .rw, .live, 0, .val, .sub 3 0, .no⟩

/-- R300: HAL.TPG_CFG.EN [31]. -/
def Row.HAL_TPG_CFG_EN : Row := ⟨693, 0x83000, [], 31, 1, .rw, .live, 0, .val, .keep, .no⟩

/-- R300: HAL.TPG_CFG.DIR [30]. -/
def Row.HAL_TPG_CFG_DIR : Row := ⟨694, 0x83000, [], 30, 1, .rw, .live, 0, .val, .keep, .no⟩

/-- R300: HAL.TPG_CFG.CLASS [29:27]. -/
def Row.HAL_TPG_CFG_CLASS : Row := ⟨695, 0x83000, [], 27, 3, .rw, .live, 0, .val, .keep, .no⟩

/-- R300: HAL.TPG_CFG.TARGET [21:16]. -/
def Row.HAL_TPG_CFG_TARGET : Row := ⟨696, 0x83000, [], 16, 6, .rw, .live, 0, .val, .keep, .no⟩

/-- R300: HAL.TPG_CFG.LEN [13:0]. -/
def Row.HAL_TPG_CFG_LEN : Row := ⟨697, 0x83000, [], 0, 14, .rw, .live, 64, .val, .keep, .no⟩

/-- R300: HAL.TPC_CFG.EN [31]. -/
def Row.HAL_TPC_CFG_EN : Row := ⟨698, 0x83004, [], 31, 1, .rw, .live, 0, .val, .keep, .no⟩

/-- R300: HAL.TPC_CFG.SRC [30]. -/
def Row.HAL_TPC_CFG_SRC : Row := ⟨699, 0x83004, [], 30, 1, .rw, .live, 0, .val, .keep, .no⟩

/-- R300: HAL.TPC_CFG.SOURCE [5:0]. -/
def Row.HAL_TPC_CFG_SOURCE : Row := ⟨700, 0x83004, [], 0, 6, .rw, .live, 0, .val, .keep, .no⟩

/-- R300: HAL.TPC_FRAMES.COUNT [31:0]. -/
def Row.HAL_TPC_FRAMES_COUNT : Row := ⟨701, 0x83008, [], 0, 32, .rc, .none, 0, .val, .keep, .live⟩

/-- R300: HAL.TPC_ERR.SEQ_GAP [31:16]. -/
def Row.HAL_TPC_ERR_SEQ_GAP : Row := ⟨702, 0x8300C, [], 16, 16, .rc, .none, 0, .val, .keep, .live⟩

/-- R300: HAL.TPC_ERR.PAY_ERR [15:0]. -/
def Row.HAL_TPC_ERR_PAY_ERR : Row := ⟨703, 0x8300C, [], 0, 16, .rc, .none, 0, .val, .keep, .live⟩

/-- R317: SCH.EVT.GUARD_STARVE [2]. -/
def Row.SCH_EVT_GUARD_STARVE : Row := ⟨704, 0xA0000, [], 2, 1, .w1c, .live, 0, .val, .keep, .no⟩

/-- R317: SCH.EVT.GCL_SWAPPED [1]. -/
def Row.SCH_EVT_GCL_SWAPPED : Row := ⟨705, 0xA0000, [], 1, 1, .w1c, .live, 0, .val, .keep, .no⟩

/-- R317: SCH.EVT.GATE_OVR [0]. -/
def Row.SCH_EVT_GATE_OVR : Row := ⟨706, 0xA0000, [], 0, 1, .w1c, .live, 0, .val, .keep, .no⟩

/-- R317: SCH.GCL_WSEL.CH [21:16]. -/
def Row.SCH_GCL_WSEL_CH : Row := ⟨707, 0xA0100, [], 16, 6, .rw, .live, 0, .val, .keep, .no⟩

/-- R317: SCH.GCL_WSEL.IDX [7:0]. -/
def Row.SCH_GCL_WSEL_IDX : Row := ⟨708, 0xA0100, [], 0, 8, .rw, .live, 0, .val, .keep, .no⟩

/-- R317: SCH.GCL_WGATE.GATES [7:0]. -/
def Row.SCH_GCL_WGATE_GATES : Row := ⟨709, 0xA0104, [], 0, 8, .rw, .live, 0, .val, .keep, .no⟩

/-- R317: SCH.GCL_WIVL.IVL [29:0]. -/
def Row.SCH_GCL_WIVL_IVL : Row := ⟨710, 0xA0108, [], 0, 30, .rw, .live, 0, .val, .clamp 1 1000000000, .no⟩

/-- R317: SCH.GCL_CTL.EN [31]. -/
def Row.SCH_GCL_CTL_EN : Row := ⟨711, 0xA1000, [(64, 0x40)], 31, 1, .rw, .live, 0, .fp, .keep, .no⟩

/-- R317: SCH.GCL_CTL.ACTIVATE [30]. -/
def Row.SCH_GCL_CTL_ACTIVATE : Row := ⟨712, 0xA1000, [(64, 0x40)], 30, 1, .wo, .live, 0, .val, .keep, .no⟩

/-- R317: SCH.GCL_LEN.LEN [8:0]. -/
def Row.SCH_GCL_LEN_LEN : Row := ⟨713, 0xA1004, [(64, 0x40)], 0, 9, .rw, .live, 1, .val, .clamp 1 256, .no⟩

/-- R317: SCH.GCL_CYCLE.CYCLE [29:0]. -/
def Row.SCH_GCL_CYCLE_CYCLE : Row := ⟨714, 0xA1008, [(64, 0x40)], 0, 30, .rw, .live, 1000000, .val, .clamp 1000 1000000000, .no⟩

/-- R317: SCH.GCL_BASE_LO.BASE [31:0]. -/
def Row.SCH_GCL_BASE_LO_BASE : Row := ⟨715, 0xA100C, [(64, 0x40)], 0, 32, .rw, .live, 0, .val, .keep, .no⟩

/-- R317: SCH.GCL_BASE_HI.BASE [31:0]. -/
def Row.SCH_GCL_BASE_HI_BASE : Row := ⟨716, 0xA1010, [(64, 0x40)], 0, 32, .rw, .live, 0, .val, .keep, .no⟩

/-- R317: SCH.GCL_STAT.PENDING [31]. -/
def Row.SCH_GCL_STAT_PENDING : Row := ⟨717, 0xA1014, [(64, 0x40)], 31, 1, .ro, .none, 0, .val, .keep, .no⟩

/-- R317: SCH.GCL_STAT.GATES [23:16]. -/
def Row.SCH_GCL_STAT_GATES : Row := ⟨718, 0xA1014, [(64, 0x40)], 16, 8, .ro, .none, 255, .val, .keep, .no⟩

/-- R317: SCH.GCL_STAT.ENTRY [7:0]. -/
def Row.SCH_GCL_STAT_ENTRY : Row := ⟨719, 0xA1014, [(64, 0x40)], 0, 8, .ro, .none, 0, .val, .keep, .no⟩

/-- R317: SCH.CH_RATE.SLOTS [9:0]. -/
def Row.SCH_CH_RATE_SLOTS : Row := ⟨720, 0xA1018, [(64, 0x40)], 0, 10, .ro, .none, 0, .val, .keep, .no⟩

/-- R317: SCH.GATE_OVR.COUNT [31:0]. -/
def Row.SCH_GATE_OVR_COUNT : Row := ⟨721, 0xA101C, [(64, 0x40)], 0, 32, .ro, .none, 0, .val, .keep, .live⟩

/-- R317: SCH.EQ_SCH.GROUP [31:29]. -/
def Row.SCH_EQ_SCH_GROUP : Row := ⟨722, 0xA4000, [(512, 0x20)], 29, 3, .rw, .shadowed, 0, .fp, .keep, .no⟩

/-- R317: SCH.EQ_SCH.WEIGHT [28:21]. -/
def Row.SCH_EQ_SCH_WEIGHT : Row := ⟨723, 0xA4000, [(512, 0x20)], 21, 8, .rw, .shadowed, 0, .fp, .sub 0 1, .no⟩

/-- R317: SCH.EQ_SCH.OVERHEAD [20:14]. -/
def Row.SCH_EQ_SCH_OVERHEAD : Row := ⟨724, 0xA4000, [(512, 0x20)], 14, 7, .rw, .shadowed, 0, .fp, .sclamp (-32) 63, .no⟩

/-- R317: SCH.EQ_SCH.MAXLEN [13:0]. -/
def Row.SCH_EQ_SCH_MAXLEN : Row := ⟨725, 0xA4000, [(512, 0x20)], 0, 14, .rw, .shadowed, 0, .fp, .clamp 64 16000, .no⟩

/-- R317: SCH.EQ_SHP_CFG.EN [31]. -/
def Row.SCH_EQ_SHP_CFG_EN : Row := ⟨726, 0xA4004, [(512, 0x20)], 31, 1, .rw, .shadowed, 0, .fp, .keep, .no⟩

/-- R317: SCH.EQ_SHP_CFG.MODE [30]. -/
def Row.SCH_EQ_SHP_CFG_MODE : Row := ⟨727, 0xA4004, [(512, 0x20)], 30, 1, .rw, .shadowed, 0, .fp, .keep, .no⟩

/-- R317: SCH.EQ_SHP_CFG.TOKEN_ON_CHANGE [29]. -/
def Row.SCH_EQ_SHP_CFG_TOKEN_ON_CHANGE : Row := ⟨728, 0xA4004, [(512, 0x20)], 29, 1, .rw, .shadowed, 0, .fp, .keep, .no⟩

/-- R317: SCH.EQ_SHP_CFG.RATE [18:0]. -/
def Row.SCH_EQ_SHP_CFG_RATE : Row := ⟨729, 0xA4004, [(512, 0x20)], 0, 19, .rw, .shadowed, 0, .fp, .sub 0 1, .no⟩

/-- R317: SCH.EQ_SHP_BURST.BURST [15:0]. -/
def Row.SCH_EQ_SHP_BURST_BURST : Row := ⟨730, 0xA4008, [(512, 0x20)], 0, 16, .rw, .shadowed, 0, .fp, .sub 0 1, .no⟩

/-- R317: SCH.EQ_SHP_TOK.TOKENS [31:0]. -/
def Row.SCH_EQ_SHP_TOK_TOKENS : Row := ⟨731, 0xA400C, [(512, 0x20)], 0, 32, .ro, .none, 0, .opened, .keep, .no⟩

/-- R317: SCH.EQ_GUARD_CFG.MODE [31]. -/
def Row.SCH_EQ_GUARD_CFG_MODE : Row := ⟨732, 0xA4010, [(512, 0x20)], 31, 1, .rw, .shadowed, 0, .fp, .keep, .no⟩

/-- R317: SCH.EQ_GUARD_CFG.FIXED_NS [15:0]. -/
def Row.SCH_EQ_GUARD_CFG_FIXED_NS : Row := ⟨733, 0xA4010, [(512, 0x20)], 0, 16, .rw, .shadowed, 0, .fp, .keep, .no⟩

/-- R317: SCH.EQ_GUARD_CUR.G [19:0]. -/
def Row.SCH_EQ_GUARD_CUR_G : Row := ⟨734, 0xA4014, [(512, 0x20)], 0, 20, .ro, .none, 0, .opened, .keep, .no⟩

/-- R317: SCH.EQ_DEQ.COUNT [31:0]. -/
def Row.SCH_EQ_DEQ_COUNT : Row := ⟨735, 0xA4018, [(512, 0x20)], 0, 32, .ro, .none, 0, .val, .keep, .live⟩

/-- R317: SCH.EQ_STAT.ELIG [31]. -/
def Row.SCH_EQ_STAT_ELIG : Row := ⟨736, 0xA401C, [(512, 0x20)], 31, 1, .ro, .none, 0, .val, .keep, .no⟩

/-- R317: SCH.EQ_STAT.GATE_OPEN [30]. -/
def Row.SCH_EQ_STAT_GATE_OPEN : Row := ⟨737, 0xA401C, [(512, 0x20)], 30, 1, .ro, .none, 1, .val, .keep, .no⟩

/-- R317: SCH.EQ_STAT.IN_GUARD [29]. -/
def Row.SCH_EQ_STAT_IN_GUARD : Row := ⟨738, 0xA401C, [(512, 0x20)], 29, 1, .ro, .none, 0, .val, .keep, .no⟩

/-- R317: SCH.EQ_STAT.SHAPED [28]. -/
def Row.SCH_EQ_STAT_SHAPED : Row := ⟨739, 0xA401C, [(512, 0x20)], 28, 1, .ro, .none, 0, .val, .keep, .no⟩

/-- R317: SCH.EQ_STAT.PAUSED [27]. -/
def Row.SCH_EQ_STAT_PAUSED : Row := ⟨740, 0xA401C, [(512, 0x20)], 27, 1, .ro, .none, 0, .val, .keep, .no⟩

/-- R317: SCH.IQ_SCH.GROUP [31:29]. -/
def Row.SCH_IQ_SCH_GROUP : Row := ⟨741, 0xA8000, [(256, 0x20)], 29, 3, .rw, .shadowed, 0, .fp, .keep, .no⟩

/-- R317: SCH.IQ_SCH.WEIGHT [28:21]. -/
def Row.SCH_IQ_SCH_WEIGHT : Row := ⟨742, 0xA8000, [(256, 0x20)], 21, 8, .rw, .shadowed, 0, .fp, .sub 0 1, .no⟩

/-- R317: SCH.IQ_SCH.OVERHEAD [20:14]. -/
def Row.SCH_IQ_SCH_OVERHEAD : Row := ⟨743, 0xA8000, [(256, 0x20)], 14, 7, .rw, .shadowed, 0, .fp, .sclamp (-32) 63, .no⟩

/-- R317: SCH.IQ_SCH.MAXLEN [13:0]. -/
def Row.SCH_IQ_SCH_MAXLEN : Row := ⟨744, 0xA8000, [(256, 0x20)], 0, 14, .rw, .shadowed, 0, .fp, .clamp 64 16000, .no⟩

/-- R317: SCH.IQ_SHP_CFG.EN [31]. -/
def Row.SCH_IQ_SHP_CFG_EN : Row := ⟨745, 0xA8004, [(256, 0x20)], 31, 1, .rw, .shadowed, 0, .fp, .keep, .no⟩

/-- R317: SCH.IQ_SHP_CFG.MODE [30]. -/
def Row.SCH_IQ_SHP_CFG_MODE : Row := ⟨746, 0xA8004, [(256, 0x20)], 30, 1, .rw, .shadowed, 0, .fp, .keep, .no⟩

/-- R317: SCH.IQ_SHP_CFG.TOKEN_ON_CHANGE [29]. -/
def Row.SCH_IQ_SHP_CFG_TOKEN_ON_CHANGE : Row := ⟨747, 0xA8004, [(256, 0x20)], 29, 1, .rw, .shadowed, 0, .fp, .keep, .no⟩

/-- R317: SCH.IQ_SHP_CFG.RATE [18:0]. -/
def Row.SCH_IQ_SHP_CFG_RATE : Row := ⟨748, 0xA8004, [(256, 0x20)], 0, 19, .rw, .shadowed, 0, .fp, .sub 0 1, .no⟩

/-- R317: SCH.IQ_SHP_BURST.BURST [15:0]. -/
def Row.SCH_IQ_SHP_BURST_BURST : Row := ⟨749, 0xA8008, [(256, 0x20)], 0, 16, .rw, .shadowed, 0, .fp, .sub 0 1, .no⟩

/-- R317: SCH.IQ_SHP_TOK.TOKENS [31:0]. -/
def Row.SCH_IQ_SHP_TOK_TOKENS : Row := ⟨750, 0xA800C, [(256, 0x20)], 0, 32, .ro, .none, 0, .opened, .keep, .no⟩

/-- R317: SCH.IQ_DEQ.COUNT [31:0]. -/
def Row.SCH_IQ_DEQ_COUNT : Row := ⟨751, 0xA8018, [(256, 0x20)], 0, 32, .ro, .none, 0, .val, .keep, .live⟩

/-- R317: SCH.IQ_STAT.ELIG [31]. -/
def Row.SCH_IQ_STAT_ELIG : Row := ⟨752, 0xA801C, [(256, 0x20)], 31, 1, .ro, .none, 0, .val, .keep, .no⟩

/-- R317: SCH.IQ_STAT.GATE_OPEN [30]. -/
def Row.SCH_IQ_STAT_GATE_OPEN : Row := ⟨753, 0xA801C, [(256, 0x20)], 30, 1, .ro, .none, 1, .val, .keep, .no⟩

/-- R317: SCH.IQ_STAT.IN_GUARD [29]. -/
def Row.SCH_IQ_STAT_IN_GUARD : Row := ⟨754, 0xA801C, [(256, 0x20)], 29, 1, .ro, .none, 0, .val, .keep, .no⟩

/-- R317: SCH.IQ_STAT.SHAPED [28]. -/
def Row.SCH_IQ_STAT_SHAPED : Row := ⟨755, 0xA801C, [(256, 0x20)], 28, 1, .ro, .none, 0, .val, .keep, .no⟩

/-- R317: SCH.IQ_STAT.PAUSED [27]. -/
def Row.SCH_IQ_STAT_PAUSED : Row := ⟨756, 0xA801C, [(256, 0x20)], 27, 1, .ro, .none, 0, .val, .keep, .no⟩

/-- The fields of HAL, part 0, in the order of the spec's tables. -/
def rowsHAL0 : List Row :=
  [.HAL_PG_MEMBERS_VALID, .HAL_PG_MEMBERS_PORT, .HAL_PG_MEMBERS_CH_A, .HAL_PG_MEMBERS_CH_B,
   .HAL_PG_CFG_BIDIR, .HAL_PG_CFG_REVERT, .HAL_PG_CFG_WORK_B, .HAL_PG_CFG_SD_EN,
   .HAL_PG_CFG_HOLDOFF, .HAL_PG_CFG_WTR, .HAL_PG_CMD_CMD, .HAL_PG_STAT_LOCAL_REQ,
   .HAL_PG_STAT_FAR_REQ, .HAL_PG_STAT_SEL_B, .HAL_PG_STAT_WTR_RUN, .HAL_PG_STAT_HOLD,
   .HAL_PG_STAT_COND_A, .HAL_PG_STAT_COND_B, .HAL_PG_STAT_CMD_HELD, .HAL_PG_STAT_FOP,
   .HAL_PG_STAT_CMD_REFUSED, .HAL_PG_CNT_SWITCHES, .HAL_PG_CNT_FOP, .HAL_PG_DROP_DROP,
   .HAL_PG_EVT_FOP, .HAL_PG_EVT_SEL_CHANGE, .HAL_MAP_VALID, .HAL_MAP_PROT,
   .HAL_MAP_GROUP, .HAL_MAP_CHAN, .HAL_LB_MODE, .HAL_TPG_CFG_EN,
   .HAL_TPG_CFG_DIR, .HAL_TPG_CFG_CLASS, .HAL_TPG_CFG_TARGET, .HAL_TPG_CFG_LEN,
   .HAL_TPC_CFG_EN, .HAL_TPC_CFG_SRC, .HAL_TPC_CFG_SOURCE, .HAL_TPC_FRAMES_COUNT]

/-- The fields of HAL, part 1, in the order of the spec's tables. -/
def rowsHAL1 : List Row :=
  [.HAL_TPC_ERR_SEQ_GAP, .HAL_TPC_ERR_PAY_ERR]

/-- The fields of HAL. -/
def rowsHAL : List Row := rowsHAL0 ++ rowsHAL1

/-- The fields of CIP, in the order of the spec's tables. -/
def rowsCIP : List Row :=
  [.CIP_LIMIT_SOFT, .CIP_EVT_LAST_SLOT, .CIP_EVT_SEG_LOSS, .CIP_EVT_AUTH_FAIL,
   .CIP_EVT_BLOCKED, .CIP_EVT_RETIRED, .CIP_EVT_ROLLED, .CIP_EVT_ROLL_REQ,
   .CIP_PIPE_STAT_ACTIVE, .CIP_PIPE_STAT_SUSPENDED, .CIP_CTX_STAT_FULL, .CIP_CTX_STAT_USED,
   .CIP_PREEMPTS_COUNT, .CIP_CH_CFG_URGENT, .CIP_CH_CFG_MODE, .CIP_CH_CFG_SEG_LEN,
   .CIP_CH_CTL_ROLL, .CIP_CH_STAT_SEG_LOCK, .CIP_CH_STAT_TX_VOID, .CIP_CH_STAT_RX_VOID,
   .CIP_CH_STAT_TX_KP, .CIP_CH_STAT_RX_KP, .CIP_CH_STAT_RX_BLOCKED, .CIP_CH_STAT_ROLL_PEND,
   .CIP_SLOT_STAT_STATE, .CIP_SLOT_STAT_GEN, .CIP_SLOT_USAGE_USAGE, .CIP_SEG_OK_COUNT,
   .CIP_AUTH_FAIL_COUNT, .CIP_NO_KEY_COUNT, .CIP_SEQ_ERR_COUNT, .CIP_SEG_OK_PS_COUNT,
   .CIP_AUTH_FAIL_PS_COUNT, .CIP_NO_KEY_PS_COUNT, .CIP_SEQ_ERR_PS_COUNT]

/-- The fields of CLI, part 0, in the order of the spec's tables. -/
def rowsCLI0 : List Row :=
  [.CLI_PORT_CFG_ENABLE, .CLI_PORT_CFG_SSF_ACT, .CLI_PORT_CFG_CLS_MODE, .CLI_PORT_CFG_DEF_CLASS,
   .CLI_PORT_CFG_RATE, .CLI_PORT_CFG_WIDTH, .CLI_PORT_CFG_LANE0, .CLI_PORT_STAT_LINK,
   .CLI_PORT_STAT_LF_RX, .CLI_PORT_STAT_RF_RX, .CLI_PORT_STAT_LF_TX, .CLI_PORT_STAT_PAUSED,
   .CLI_PORT_STAT_XOFF, .CLI_CLS_MAP_CLASS_0, .CLI_CLS_MAP_CLASS_1, .CLI_CLS_MAP_CLASS_2,
   .CLI_CLS_MAP_CLASS_3, .CLI_CLS_MAP_CLASS_4, .CLI_CLS_MAP_CLASS_5, .CLI_CLS_MAP_CLASS_6,
   .CLI_CLS_MAP_CLASS_7, .CLI_POL_CTL_EN, .CLI_POL_CTL_MODE, .CLI_POL_RATE_CIR,
   .CLI_POL_RATE_PIR, .CLI_POL_BURST_CBS, .CLI_POL_BURST_PBS, .CLI_PFC_CFG_QUANTA,
   .CLI_PFC_CFG_RX_EN, .CLI_PFC_CFG_TX_EN, .CLI_RX_FRAMES_COUNT, .CLI_RX_FCS_ERR_COUNT,
   .CLI_RX_RUNT_COUNT, .CLI_RX_OVERSIZE_COUNT, .CLI_RX_MACCTL_COUNT, .CLI_TX_FRAMES_COUNT,
   .CLI_PFC_RX_COUNT, .CLI_PFC_TX_COUNT, .CLI_POL_RED_COUNT, .CLI_POL_YELLOW_COUNT]

/-- The fields of CLI, part 1, in the order of the spec's tables. -/
def rowsCLI1 : List Row :=
  [.CLI_RX_NOMAP_COUNT, .CLI_RX_FRAMES_PS_COUNT, .CLI_RX_FCS_ERR_PS_COUNT, .CLI_RX_RUNT_PS_COUNT,
   .CLI_RX_OVERSIZE_PS_COUNT, .CLI_RX_MACCTL_PS_COUNT, .CLI_TX_FRAMES_PS_COUNT, .CLI_PFC_RX_PS_COUNT,
   .CLI_PFC_TX_PS_COUNT, .CLI_POL_RED_PS_COUNT, .CLI_POL_YELLOW_PS_COUNT, .CLI_RX_NOMAP_PS_COUNT]

/-- The fields of CLI. -/
def rowsCLI : List Row := rowsCLI0 ++ rowsCLI1

/-- The fields of PAN, in the order of the spec's tables. -/
def rowsPAN : List Row :=
  [.PAN_EQ_CFG_ALPHA, .PAN_EQ_CFG_YEL_SHIFT, .PAN_EQ_CFG_RESERVE, .PAN_EQ_PFC_TH_XOFF_TH,
   .PAN_EQ_PFC_TH_XON_TH, .PAN_EQ_OCC_CELLS, .PAN_EQ_DROPS_COUNT, .PAN_IQ_CFG_ALPHA,
   .PAN_IQ_CFG_YEL_SHIFT, .PAN_IQ_CFG_RESERVE, .PAN_IQ_OCC_CELLS, .PAN_IQ_DROPS_COUNT,
   .PAN_PART_RES_SIZE, .PAN_PART_USE_USED, .PAN_SHARED_FREE, .PAN_DESC_FREE_FREE,
   .PAN_DROP_CNT_COUNT, .PAN_DROP_PS_COUNT]

/-- The fields of SCH, part 0, in the order of the spec's tables. -/
def rowsSCH0 : List Row :=
  [.SCH_EVT_GUARD_STARVE, .SCH_EVT_GCL_SWAPPED, .SCH_EVT_GATE_OVR, .SCH_GCL_WSEL_CH,
   .SCH_GCL_WSEL_IDX, .SCH_GCL_WGATE_GATES, .SCH_GCL_WIVL_IVL, .SCH_GCL_CTL_EN,
   .SCH_GCL_CTL_ACTIVATE, .SCH_GCL_LEN_LEN, .SCH_GCL_CYCLE_CYCLE, .SCH_GCL_BASE_LO_BASE,
   .SCH_GCL_BASE_HI_BASE, .SCH_GCL_STAT_PENDING, .SCH_GCL_STAT_GATES, .SCH_GCL_STAT_ENTRY,
   .SCH_CH_RATE_SLOTS, .SCH_GATE_OVR_COUNT, .SCH_EQ_SCH_GROUP, .SCH_EQ_SCH_WEIGHT,
   .SCH_EQ_SCH_OVERHEAD, .SCH_EQ_SCH_MAXLEN, .SCH_EQ_SHP_CFG_EN, .SCH_EQ_SHP_CFG_MODE,
   .SCH_EQ_SHP_CFG_TOKEN_ON_CHANGE, .SCH_EQ_SHP_CFG_RATE, .SCH_EQ_SHP_BURST_BURST, .SCH_EQ_SHP_TOK_TOKENS,
   .SCH_EQ_GUARD_CFG_MODE, .SCH_EQ_GUARD_CFG_FIXED_NS, .SCH_EQ_GUARD_CUR_G, .SCH_EQ_DEQ_COUNT,
   .SCH_EQ_STAT_ELIG, .SCH_EQ_STAT_GATE_OPEN, .SCH_EQ_STAT_IN_GUARD, .SCH_EQ_STAT_SHAPED,
   .SCH_EQ_STAT_PAUSED, .SCH_IQ_SCH_GROUP, .SCH_IQ_SCH_WEIGHT, .SCH_IQ_SCH_OVERHEAD]

/-- The fields of SCH, part 1, in the order of the spec's tables. -/
def rowsSCH1 : List Row :=
  [.SCH_IQ_SCH_MAXLEN, .SCH_IQ_SHP_CFG_EN, .SCH_IQ_SHP_CFG_MODE, .SCH_IQ_SHP_CFG_TOKEN_ON_CHANGE,
   .SCH_IQ_SHP_CFG_RATE, .SCH_IQ_SHP_BURST_BURST, .SCH_IQ_SHP_TOK_TOKENS, .SCH_IQ_DEQ_COUNT,
   .SCH_IQ_STAT_ELIG, .SCH_IQ_STAT_GATE_OPEN, .SCH_IQ_STAT_IN_GUARD, .SCH_IQ_STAT_SHAPED,
   .SCH_IQ_STAT_PAUSED]

/-- The fields of SCH. -/
def rowsSCH : List Row := rowsSCH0 ++ rowsSCH1

end Sys2Proof.Machine
end

