-- ==== Sys2Proof/Machine/RegsHost.lean ====
section
/-!
DEFINITION. The spec's register tables for the regions GLB, PWR, REF, HST, ATT, PMU, SEC and RAS, and every COMMIT register, one definition per field.
Each names, in this order: its own number, the BAR0 byte offset of the first instance, the instances' counts and
strides, its lowest bit, its width, its access, its change class, its value after reset, where that value comes
from, what a written value is taken as, and whether it is a count.
-/

namespace Sys2Proof.Machine

/-- R4: GLB.ID.PART [31:16]. -/
def Row.GLB_ID_PART : Row := ⟨0, 0x0, [], 16, 16, .ro, .none, 25650, .val, .keep, .no⟩

/-- R4: GLB.ID.VARIANT [15:12]. -/
def Row.GLB_ID_VARIANT : Row := ⟨1, 0x0, [], 12, 4, .ro, .none, 1, .fuse, .keep, .no⟩

/-- R4: GLB.ID.STEPPING [11:8]. -/
def Row.GLB_ID_STEPPING : Row := ⟨2, 0x0, [], 8, 4, .ro, .none, 0, .fuse, .keep, .no⟩

/-- R4: GLB.ID.CIPHER_FUSED [0]. -/
def Row.GLB_ID_CIPHER_FUSED : Row := ⟨3, 0x0, [], 0, 1, .ro, .none, 0, .fuse, .keep, .no⟩

/-- R35: SEC.IMG_ADDR_LO.ADDR [31:0]. -/
def Row.SEC_IMG_ADDR_LO_ADDR : Row := ⟨4, 0x60100, [], 0, 32, .rw, .live, 0, .val, .align 4096, .no⟩

/-- R35: SEC.IMG_ADDR_HI.ADDR [31:0]. -/
def Row.SEC_IMG_ADDR_HI_ADDR : Row := ⟨5, 0x60104, [], 0, 32, .rw, .live, 0, .val, .keep, .no⟩

/-- R35: SEC.IMG_LEN.LEN [26:0]. The table says "at most 67,108,864" and not what a longer LEN is taken as: it is kept as
written, and the checks of R28 then refuse the image (DESIGN CHOICE, assumption 50). -/
def Row.SEC_IMG_LEN_LEN : Row := ⟨6, 0x60108, [], 0, 27, .rw, .live, 0, .val, .keep, .no⟩

/-- R35: SEC.IMG_CTL.OP [3:0]. -/
def Row.SEC_IMG_CTL_OP : Row := ⟨7, 0x6010C, [], 0, 4, .wo, .live, 0, .val, .keep, .no⟩

/-- R35: SEC.IMG_STAT.BUSY [31]. -/
def Row.SEC_IMG_STAT_BUSY : Row := ⟨8, 0x60110, [], 31, 1, .ro, .none, 0, .val, .keep, .no⟩

/-- R35: SEC.IMG_STAT.STAGED [30]. -/
def Row.SEC_IMG_STAT_STAGED : Row := ⟨9, 0x60110, [], 30, 1, .ro, .none, 0, .val, .keep, .no⟩

/-- R35: SEC.IMG_STAT.REFUSED [29]. -/
def Row.SEC_IMG_STAT_REFUSED : Row := ⟨10, 0x60110, [], 29, 1, .w1c, .live, 0, .val, .keep, .no⟩

/-- R35: SEC.IMG_STAT.REASON [27:24]. -/
def Row.SEC_IMG_STAT_REASON : Row := ⟨11, 0x60110, [], 24, 4, .ro, .none, 0, .val, .keep, .no⟩

/-- R35: SEC.IMG_STAT.SCOPE [22:20]. -/
def Row.SEC_IMG_STAT_SCOPE : Row := ⟨12, 0x60110, [], 20, 3, .ro, .none, 0, .val, .keep, .no⟩

/-- R35: SEC.IMG_STAT.PROGRESS [7:0]. -/
def Row.SEC_IMG_STAT_PROGRESS : Row := ⟨13, 0x60110, [], 0, 8, .ro, .none, 0, .val, .keep, .no⟩

/-- R37: GLB.FP_INFO.BUILD [31:16]. -/
def Row.GLB_FP_INFO_BUILD : Row := ⟨14, 0x10, [], 16, 16, .ro, .none, 0, .opened, .keep, .no⟩

/-- R37: GLB.FP_INFO.SVN [15:10]. -/
def Row.GLB_FP_INFO_SVN : Row := ⟨15, 0x10, [], 10, 6, .ro, .none, 0, .opened, .keep, .no⟩

/-- R37: GLB.FP_INFO.SOURCE [9:8]. -/
def Row.GLB_FP_INFO_SOURCE : Row := ⟨16, 0x10, [], 8, 2, .ro, .none, 3, .opened, .keep, .no⟩

/-- R37: GLB.FP_INFO.TRIALS [7:4]. -/
def Row.GLB_FP_INFO_TRIALS : Row := ⟨17, 0x10, [], 4, 4, .ro, .none, 0, .opened, .keep, .no⟩

/-- R37: GLB.FP_INFO.CONFIRMED [0]. -/
def Row.GLB_FP_INFO_CONFIRMED : Row := ⟨18, 0x10, [], 0, 1, .ro, .none, 0, .opened, .keep, .no⟩

/-- R37: GLB.FP_HASH.HASH [31:0]. -/
def Row.GLB_FP_HASH_HASH : Row := ⟨19, 0x20, [(8, 0x4)], 0, 32, .ro, .none, 0, .opened, .keep, .no⟩

/-- R38: GLB.BLK_CTL.STOPPING [9]. -/
def Row.GLB_BLK_CTL_STOPPING : Row := ⟨20, 0x100, [(8, 0x4)], 9, 1, .ro, .none, 0, .val, .keep, .no⟩

/-- R38: GLB.BLK_CTL.STOPPED [8]. -/
def Row.GLB_BLK_CTL_STOPPED : Row := ⟨21, 0x100, [(8, 0x4)], 8, 1, .ro, .none, 0, .val, .keep, .no⟩

/-- R38: GLB.BLK_CTL.STOP [0]. -/
def Row.GLB_BLK_CTL_STOP : Row := ⟨22, 0x100, [(8, 0x4)], 0, 1, .rw, .live, 0, .val, .keep, .no⟩

/-- R42: GLB.WR_REJECT.VALID [31]. -/
def Row.GLB_WR_REJECT_VALID : Row := ⟨23, 0x40, [], 31, 1, .w1c, .live, 0, .val, .keep, .no⟩

/-- R42: GLB.WR_REJECT.COUNT [30:23]. -/
def Row.GLB_WR_REJECT_COUNT : Row := ⟨24, 0x40, [], 23, 8, .ro, .none, 0, .val, .keep, .live⟩

/-- R42: GLB.WR_REJECT.WORD_ADDR [22:0]. -/
def Row.GLB_WR_REJECT_WORD_ADDR : Row := ⟨25, 0x40, [], 0, 23, .ro, .none, 0, .val, .keep, .no⟩

/-- R277: SEC.KEY_DATA.BYTES [31:0]. -/
def Row.SEC_KEY_DATA_BYTES : Row := ⟨600, 0x60200, [(12, 0x4)], 0, 32, .wo, .live, 0, .val, .keep, .no⟩

/-- R277: SEC.KEY_CMD.OP [31:28]. -/
def Row.SEC_KEY_CMD_OP : Row := ⟨601, 0x60240, [], 28, 4, .wo, .live, 0, .val, .keep, .no⟩

/-- R277: SEC.KEY_CMD.SLOT [8:0]. -/
def Row.SEC_KEY_CMD_SLOT : Row := ⟨602, 0x60240, [], 0, 9, .wo, .live, 0, .val, .keep, .no⟩

/-- R277: SEC.KEY_STAT.BUSY [31]. -/
def Row.SEC_KEY_STAT_BUSY : Row := ⟨603, 0x60244, [], 31, 1, .ro, .none, 0, .val, .keep, .no⟩

/-- R277: SEC.KEY_STAT.REFUSED [30]. -/
def Row.SEC_KEY_STAT_REFUSED : Row := ⟨604, 0x60244, [], 30, 1, .w1c, .live, 0, .val, .keep, .no⟩

/-- R277: SEC.KEY_STAT.REASON [27:24]. -/
def Row.SEC_KEY_STAT_REASON : Row := ⟨605, 0x60244, [], 24, 4, .ro, .none, 0, .val, .keep, .no⟩

/-- R277: SEC.XFER_ADDR_LO.ADDR [31:0]. -/
def Row.SEC_XFER_ADDR_LO_ADDR : Row := ⟨606, 0x60250, [], 0, 32, .rw, .live, 0, .val, .align 4096, .no⟩

/-- R277: SEC.XFER_ADDR_HI.ADDR [31:0]. -/
def Row.SEC_XFER_ADDR_HI_ADDR : Row := ⟨607, 0x60254, [], 0, 32, .rw, .live, 0, .val, .keep, .no⟩

/-- R277: SEC.DEV_ID_LO.ID [31:0]. -/
def Row.SEC_DEV_ID_LO_ID : Row := ⟨608, 0x60260, [], 0, 32, .ro, .none, 0, .fuse, .keep, .no⟩

/-- R277: SEC.DEV_ID_HI.ID [31:0]. -/
def Row.SEC_DEV_ID_HI_ID : Row := ⟨609, 0x60264, [], 0, 32, .ro, .none, 0, .fuse, .keep, .no⟩

/-- R277: SEC.SES_CFG.EN [31]. -/
def Row.SEC_SES_CFG_EN : Row := ⟨610, 0x60280, [(2, 0x4)], 31, 1, .rw, .live, 0, .fp, .keep, .no⟩

/-- R277: SEC.SES_CFG.PEER_CHK [30]. -/
def Row.SEC_SES_CFG_PEER_CHK : Row := ⟨611, 0x60280, [(2, 0x4)], 30, 1, .rw, .live, 0, .fp, .keep, .no⟩

/-- R277: SEC.SES_CFG.LIFE [7:0]. -/
def Row.SEC_SES_CFG_LIFE : Row := ⟨612, 0x60280, [(2, 0x4)], 0, 8, .rw, .live, 24, .fp, .clamp 1 168, .no⟩

/-- R277: SEC.PEER_ID_LO.ID [31:0]. -/
def Row.SEC_PEER_ID_LO_ID : Row := ⟨613, 0x60290, [(2, 0x8)], 0, 32, .rw, .live, 0, .fp, .keep, .no⟩

/-- R277: SEC.PEER_ID_HI.ID [31:0]. -/
def Row.SEC_PEER_ID_HI_ID : Row := ⟨614, 0x60294, [(2, 0x8)], 0, 32, .rw, .live, 0, .fp, .keep, .no⟩

/-- R277: SEC.SES_STAT.STATE [31:29]. -/
def Row.SEC_SES_STAT_STATE : Row := ⟨615, 0x602A0, [(2, 0x4)], 29, 3, .ro, .none, 0, .val, .keep, .no⟩

/-- R277: SEC.SES_STAT.REASON [27:24]. -/
def Row.SEC_SES_STAT_REASON : Row := ⟨616, 0x602A0, [(2, 0x4)], 24, 4, .ro, .none, 0, .val, .keep, .no⟩

/-- R277: SEC.SES_STAT.SESSION [15:0]. -/
def Row.SEC_SES_STAT_SESSION : Row := ⟨617, 0x602A0, [(2, 0x4)], 0, 16, .ro, .none, 0, .val, .keep, .no⟩

/-- R348: REF.CFG.REVERT [31]. -/
def Row.REF_CFG_REVERT : Row := ⟨829, 0x20000, [], 31, 1, .rw, .shadowed, 0, .fp, .keep, .no⟩

/-- R348: REF.CFG.QL_OPT [30]. -/
def Row.REF_CFG_QL_OPT : Row := ⟨830, 0x20000, [], 30, 1, .rw, .shadowed, 0, .fp, .keep, .no⟩

/-- R348: REF.CFG.FORCE_EN [29]. -/
def Row.REF_CFG_FORCE_EN : Row := ⟨831, 0x20000, [], 29, 1, .rw, .shadowed, 0, .val, .keep, .no⟩

/-- R348: REF.CFG.FORCE_SEL [28:26]. -/
def Row.REF_CFG_FORCE_SEL : Row := ⟨832, 0x20000, [], 26, 3, .rw, .shadowed, 0, .val, .keep, .no⟩

/-- R348: REF.CFG.QL_MIN [25:22]. -/
def Row.REF_CFG_QL_MIN : Row := ⟨833, 0x20000, [], 22, 4, .rw, .shadowed, 0, .fp, .keep, .no⟩

/-- R348: REF.CFG.DISAGREE_TH [15:8]. -/
def Row.REF_CFG_DISAGREE_TH : Row := ⟨834, 0x20000, [], 8, 8, .rw, .shadowed, 20, .val, .sub 0 1, .no⟩

/-- R348: REF.CFG.BW [6:0]. -/
def Row.REF_CFG_BW : Row := ⟨835, 0x20000, [], 0, 7, .rw, .shadowed, 0, .fp, .clamp 1 100, .no⟩

/-- R348: REF.STAT.STATE [31:29]. -/
def Row.REF_STAT_STATE : Row := ⟨836, 0x20004, [], 29, 3, .ro, .none, 0, .val, .keep, .no⟩

/-- R348: REF.STAT.ACTIVE [28:26]. -/
def Row.REF_STAT_ACTIVE : Row := ⟨837, 0x20004, [], 26, 3, .ro, .none, 0, .val, .keep, .no⟩

/-- R348: REF.STAT.TARGET [25:23]. -/
def Row.REF_STAT_TARGET : Row := ⟨838, 0x20004, [], 23, 3, .ro, .none, 0, .val, .keep, .no⟩

/-- R348: REF.STAT.DISAGREE [22]. -/
def Row.REF_STAT_DISAGREE : Row := ⟨839, 0x20004, [], 22, 1, .ro, .none, 0, .val, .keep, .no⟩

/-- R348: REF.STAT.MT_COARSE [21]. -/
def Row.REF_STAT_MT_COARSE : Row := ⟨840, 0x20004, [], 21, 1, .ro, .none, 0, .val, .keep, .no⟩

/-- R348: REF.STAT.HO_VALID [20]. -/
def Row.REF_STAT_HO_VALID : Row := ⟨841, 0x20004, [], 20, 1, .ro, .none, 0, .val, .keep, .no⟩

/-- R348: REF.STAT.TX_QL [19:16]. -/
def Row.REF_STAT_TX_QL : Row := ⟨842, 0x20004, [], 16, 4, .ro, .none, 11, .opened, .keep, .no⟩

/-- R348: REF.STAT.OFFSET [15:0]. -/
def Row.REF_STAT_OFFSET : Row := ⟨843, 0x20004, [], 0, 16, .ro, .none, 0, .val, .keep, .no⟩

/-- R348: REF.EVT.MT_STEP [5]. -/
def Row.REF_EVT_MT_STEP : Row := ⟨844, 0x20008, [], 5, 1, .w1c, .live, 0, .val, .keep, .no⟩

/-- R348: REF.EVT.CAND_CHANGE [4]. -/
def Row.REF_EVT_CAND_CHANGE : Row := ⟨845, 0x20008, [], 4, 1, .w1c, .live, 0, .val, .keep, .no⟩

/-- R348: REF.EVT.TX_QL_CHANGE [3]. -/
def Row.REF_EVT_TX_QL_CHANGE : Row := ⟨846, 0x20008, [], 3, 1, .w1c, .live, 0, .val, .keep, .no⟩

/-- R348: REF.EVT.DISAGREE [2]. -/
def Row.REF_EVT_DISAGREE : Row := ⟨847, 0x20008, [], 2, 1, .w1c, .live, 0, .val, .keep, .no⟩

/-- R348: REF.EVT.ACT_CHANGE [1]. -/
def Row.REF_EVT_ACT_CHANGE : Row := ⟨848, 0x20008, [], 1, 1, .w1c, .live, 0, .val, .keep, .no⟩

/-- R348: REF.EVT.STATE_CHANGE [0]. -/
def Row.REF_EVT_STATE_CHANGE : Row := ⟨849, 0x20008, [], 0, 1, .w1c, .live, 0, .val, .keep, .no⟩

/-- R348: REF.HO_STAT.LEARN_H [31:16]. -/
def Row.REF_HO_STAT_LEARN_H : Row := ⟨850, 0x20010, [], 16, 16, .ro, .none, 0, .val, .keep, .no⟩

/-- R348: REF.HO_STAT.T0 [15:0]. -/
def Row.REF_HO_STAT_T0 : Row := ⟨851, 0x20010, [], 0, 16, .ro, .none, 0, .val, .keep, .no⟩

/-- R348: REF.HO_CTL.RELEARN [0]. -/
def Row.REF_HO_CTL_RELEARN : Row := ⟨852, 0x20014, [], 0, 1, .wo, .live, 0, .val, .keep, .no⟩

/-- R348: REF.OUT_CFG.EN [31]. -/
def Row.REF_OUT_CFG_EN : Row := ⟨853, 0x20020, [(2, 0x4)], 31, 1, .rw, .live, 0, .fp, .keep, .no⟩

/-- R348: REF.OUT_CFG.SQ_HO [30]. -/
def Row.REF_OUT_CFG_SQ_HO : Row := ⟨854, 0x20020, [(2, 0x4)], 30, 1, .rw, .live, 0, .fp, .keep, .no⟩

/-- R348: REF.OUT_CFG.SQ_QL [29]. -/
def Row.REF_OUT_CFG_SQ_QL : Row := ⟨855, 0x20020, [(2, 0x4)], 29, 1, .rw, .live, 0, .fp, .keep, .no⟩

/-- R348: REF.OUT_CFG.FREQ [1:0]. -/
def Row.REF_OUT_CFG_FREQ : Row := ⟨856, 0x20020, [(2, 0x4)], 0, 2, .rw, .live, 0, .fp, .keep, .no⟩

/-- R348: REF.ESMC_TX.PORTS [31:0]. -/
def Row.REF_ESMC_TX_PORTS : Row := ⟨857, 0x20030, [], 0, 32, .rw, .shadowed, 0, .fp, .keep, .no⟩

/-- R348: REF.CAND.PRIO [31:28]. -/
def Row.REF_CAND_PRIO : Row := ⟨858, 0x20100, [(8, 0x4)], 28, 4, .rw, .shadowed, 0, .fp, .keep, .no⟩

/-- R348: REF.CAND.QL_HOST [27:24]. -/
def Row.REF_CAND_QL_HOST : Row := ⟨859, 0x20100, [(8, 0x4)], 24, 4, .rw, .shadowed, 0, .fp, .keep, .no⟩

/-- R348: REF.CAND.WTR [23:20]. -/
def Row.REF_CAND_WTR : Row := ⟨860, 0x20100, [(8, 0x4)], 20, 4, .rw, .shadowed, 0, .fp, .clamp 0 12, .no⟩

/-- R348: REF.CAND.FREQ [17:16]. -/
def Row.REF_CAND_FREQ : Row := ⟨861, 0x20100, [(8, 0x4)], 16, 2, .rw, .shadowed, 0, .fp, .keep, .no⟩

/-- R348: REF.CAND.PORT [4:0]. -/
def Row.REF_CAND_PORT : Row := ⟨862, 0x20100, [(8, 0x4)], 0, 5, .rw, .shadowed, 0, .fp, .keep, .no⟩

/-- R348: REF.CAND_STAT.QUALIFIED [31]. -/
def Row.REF_CAND_STAT_QUALIFIED : Row := ⟨863, 0x20140, [(8, 0x4)], 31, 1, .ro, .none, 0, .val, .keep, .no⟩

/-- R348: REF.CAND_STAT.ELIGIBLE [30]. -/
def Row.REF_CAND_STAT_ELIGIBLE : Row := ⟨864, 0x20140, [(8, 0x4)], 30, 1, .ro, .none, 0, .val, .keep, .no⟩

/-- R348: REF.CAND_STAT.WTR_RUN [29]. -/
def Row.REF_CAND_STAT_WTR_RUN : Row := ⟨865, 0x20140, [(8, 0x4)], 29, 1, .ro, .none, 0, .val, .keep, .no⟩

/-- R348: REF.CAND_STAT.QL_FAILED [28]. -/
def Row.REF_CAND_STAT_QL_FAILED : Row := ⟨866, 0x20140, [(8, 0x4)], 28, 1, .ro, .none, 0, .val, .keep, .no⟩

/-- R348: REF.CAND_STAT.QL [27:24]. -/
def Row.REF_CAND_STAT_QL : Row := ⟨867, 0x20140, [(8, 0x4)], 24, 4, .ro, .none, 15, .val, .keep, .no⟩

/-- R348: REF.CAND_STAT.WTR_LEFT [23:16]. -/
def Row.REF_CAND_STAT_WTR_LEFT : Row := ⟨868, 0x20140, [(8, 0x4)], 16, 8, .ro, .none, 0, .val, .keep, .no⟩

/-- R348: REF.CAND_STAT.OFFSET [15:0]. -/
def Row.REF_CAND_STAT_OFFSET : Row := ⟨869, 0x20140, [(8, 0x4)], 0, 16, .ro, .none, 0, .val, .keep, .no⟩

/-- R348: REF.MT_LO.MT [31:0]. -/
def Row.REF_MT_LO_MT : Row := ⟨870, 0x20080, [], 0, 32, .ro, .none, 0, .val, .keep, .no⟩

/-- R348: REF.MT_HI.MT [31:0]. -/
def Row.REF_MT_HI_MT : Row := ⟨871, 0x20084, [], 0, 32, .ro, .none, 0, .val, .keep, .no⟩

/-- R348: REF.MT_SET_LO.VALUE [31:0]. -/
def Row.REF_MT_SET_LO_VALUE : Row := ⟨872, 0x20088, [], 0, 32, .rw, .live, 0, .val, .keep, .no⟩

/-- R348: REF.MT_SET_HI.VALUE [31:0]. -/
def Row.REF_MT_SET_HI_VALUE : Row := ⟨873, 0x2008C, [], 0, 32, .rw, .live, 0, .val, .keep, .no⟩

/-- R348: REF.MT_CTL.STEP [0]. -/
def Row.REF_MT_CTL_STEP : Row := ⟨874, 0x20090, [], 0, 1, .wo, .live, 0, .val, .keep, .no⟩

/-- R348: REF.TICK_STAT.IRREG [31]. -/
def Row.REF_TICK_STAT_IRREG : Row := ⟨875, 0x20094, [], 31, 1, .ro, .none, 0, .val, .keep, .no⟩

/-- R348: REF.TICK_STAT.TICKS [30:0]. -/
def Row.REF_TICK_STAT_TICKS : Row := ⟨876, 0x20094, [], 0, 31, .ro, .none, 0, .val, .keep, .no⟩

/-- R365: PWR.STATE_CTL.TARGET [30:28]. -/
def Row.PWR_STATE_CTL_TARGET : Row := ⟨877, 0x10000, [], 28, 3, .rw, .live, 0, .val, .ignoreAbove 4, .no⟩

/-- R365: PWR.STATE_CTL.WING_B [3:2]. -/
def Row.PWR_STATE_CTL_WING_B : Row := ⟨878, 0x10000, [], 2, 2, .rw, .live, 0, .val, .sub 3 2, .no⟩

/-- R365: PWR.STATE_CTL.WING_A [1:0]. -/
def Row.PWR_STATE_CTL_WING_A : Row := ⟨879, 0x10000, [], 0, 2, .rw, .live, 0, .val, .sub 3 2, .no⟩

/-- R365: PWR.STATE_STAT.STATE [31:28]. -/
def Row.PWR_STATE_STAT_STATE : Row := ⟨880, 0x10004, [], 28, 4, .ro, .none, 0, .val, .keep, .no⟩

/-- R365: PWR.STATE_STAT.BUSY [27]. -/
def Row.PWR_STATE_STAT_BUSY : Row := ⟨881, 0x10004, [], 27, 1, .ro, .none, 0, .val, .keep, .no⟩

/-- R365: PWR.STATE_STAT.DEFERRED [26]. -/
def Row.PWR_STATE_STAT_DEFERRED : Row := ⟨882, 0x10004, [], 26, 1, .ro, .none, 0, .val, .keep, .no⟩

/-- R365: PWR.STATE_STAT.WING_B [3:2]. -/
def Row.PWR_STATE_STAT_WING_B : Row := ⟨883, 0x10004, [], 2, 2, .ro, .none, 0, .val, .keep, .no⟩

/-- R365: PWR.STATE_STAT.WING_A [1:0]. -/
def Row.PWR_STATE_STAT_WING_A : Row := ⟨884, 0x10004, [], 0, 2, .ro, .none, 0, .val, .keep, .no⟩

/-- R365: PWR.EVT.VIN_WARN [2]. -/
def Row.PWR_EVT_VIN_WARN : Row := ⟨885, 0x10008, [], 2, 1, .w1c, .live, 0, .val, .keep, .no⟩

/-- R365: PWR.EVT.REFUSED [1]. -/
def Row.PWR_EVT_REFUSED : Row := ⟨886, 0x10008, [], 1, 1, .w1c, .live, 0, .val, .keep, .no⟩

/-- R365: PWR.EVT.STATE_DONE [0]. -/
def Row.PWR_EVT_STATE_DONE : Row := ⟨887, 0x10008, [], 0, 1, .w1c, .live, 0, .val, .keep, .no⟩

/-- R365: PWR.VIN_STAT.WARN [31]. -/
def Row.PWR_VIN_STAT_WARN : Row := ⟨888, 0x10010, [], 31, 1, .ro, .none, 0, .val, .keep, .no⟩

/-- R365: PWR.VIN_STAT.VIN [13:0]. -/
def Row.PWR_VIN_STAT_VIN : Row := ⟨889, 0x10010, [], 0, 14, .ro, .none, 4800, .opened, .keep, .no⟩

/-- R365: PWR.VIN_CFG.SHED [31]. -/
def Row.PWR_VIN_CFG_SHED : Row := ⟨890, 0x10014, [], 31, 1, .rw, .live, 1, .fp, .keep, .no⟩

/-- R365: PWR.VIN_CFG.WARN_TH [24:16]. -/
def Row.PWR_VIN_CFG_WARN_TH : Row := ⟨891, 0x10014, [], 16, 9, .rw, .live, 350, .val, .clamp 330 400, .no⟩

/-- R365: PWR.VIN_CFG.HYST [4:0]. -/
def Row.PWR_VIN_CFG_HYST : Row := ⟨892, 0x10014, [], 0, 5, .rw, .live, 5, .val, .clamp 1 20, .no⟩

/-- R365: PWR.BUDGET_STAT.QUEUED [31:16]. -/
def Row.PWR_BUDGET_STAT_QUEUED : Row := ⟨893, 0x10020, [], 16, 16, .ro, .none, 0, .val, .keep, .no⟩

/-- R365: PWR.BUDGET_STAT.WINDOW [15:0]. -/
def Row.PWR_BUDGET_STAT_WINDOW : Row := ⟨894, 0x10020, [], 0, 16, .ro, .none, 0, .val, .keep, .no⟩

/-- R365: PWR.WOA_CFG.LINGER [7:0]. -/
def Row.PWR_WOA_CFG_LINGER : Row := ⟨895, 0x10024, [], 0, 8, .rw, .live, 10, .val, .sub 0 1, .no⟩

/-- R365: PWR.WOA_CNT.MAX_STALL [31:16]. -/
def Row.PWR_WOA_CNT_MAX_STALL : Row := ⟨896, 0x10028, [], 16, 16, .ro, .none, 0, .val, .keep, .ps⟩

/-- R365: PWR.WOA_CNT.WAKES [15:0]. -/
def Row.PWR_WOA_CNT_WAKES : Row := ⟨897, 0x10028, [], 0, 16, .ro, .none, 0, .val, .keep, .live⟩

/-- R365: PWR.LAST_REFUSE.VALID [31]. -/
def Row.PWR_LAST_REFUSE_VALID : Row := ⟨898, 0x10030, [], 31, 1, .w1c, .live, 0, .val, .keep, .no⟩

/-- R365: PWR.LAST_REFUSE.ISLAND [28:24]. -/
def Row.PWR_LAST_REFUSE_ISLAND : Row := ⟨899, 0x10030, [], 24, 5, .ro, .none, 0, .val, .keep, .no⟩

/-- R365: PWR.LAST_REFUSE.REASON [23:20]. -/
def Row.PWR_LAST_REFUSE_REASON : Row := ⟨900, 0x10030, [], 20, 4, .ro, .none, 0, .val, .keep, .no⟩

/-- R365: PWR.LAST_REFUSE.ABORT [19]. -/
def Row.PWR_LAST_REFUSE_ABORT : Row := ⟨901, 0x10030, [], 19, 1, .ro, .none, 0, .val, .keep, .no⟩

/-- R365: PWR.LAST_REFUSE.TARGET [18:16]. -/
def Row.PWR_LAST_REFUSE_TARGET : Row := ⟨902, 0x10030, [], 16, 3, .ro, .none, 0, .val, .keep, .no⟩

/-- R365: PWR.REFUSE_CNT.REFUSED [31:16]. -/
def Row.PWR_REFUSE_CNT_REFUSED : Row := ⟨903, 0x10100, [(25, 0x4)], 16, 16, .ro, .none, 0, .val, .keep, .live⟩

/-- R365: PWR.REFUSE_CNT.ABORTED [15:0]. -/
def Row.PWR_REFUSE_CNT_ABORTED : Row := ⟨904, 0x10100, [(25, 0x4)], 0, 16, .ro, .none, 0, .val, .keep, .live⟩

/-- R365: PWR.WAKE_REC.CAUSE [31:28]. -/
def Row.PWR_WAKE_REC_CAUSE : Row := ⟨905, 0x10200, [], 28, 4, .ro, .none, 0, .opened, .keep, .no⟩

/-- R365: PWR.WAKE_REC.FROM [27:25]. -/
def Row.PWR_WAKE_REC_FROM : Row := ⟨906, 0x10200, [], 25, 3, .ro, .none, 7, .opened, .keep, .no⟩

/-- R365: PWR.WAKE_REC.FLAG [24]. -/
def Row.PWR_WAKE_REC_FLAG : Row := ⟨907, 0x10200, [], 24, 1, .ro, .none, 0, .opened, .keep, .no⟩

/-- R365: PWR.WAKE_REC.WATCH_LAST [23:12]. -/
def Row.PWR_WAKE_REC_WATCH_LAST : Row := ⟨908, 0x10200, [], 12, 12, .ro, .none, 0, .opened, .keep, .no⟩

/-- R365: PWR.SLEEP_LO.N [31:0]. -/
def Row.PWR_SLEEP_LO_N : Row := ⟨909, 0x10204, [], 0, 32, .ro, .none, 0, .opened, .keep, .no⟩

/-- R365: PWR.SLEEP_HI.N [15:0]. -/
def Row.PWR_SLEEP_HI_N : Row := ⟨910, 0x10208, [], 0, 16, .ro, .none, 0, .opened, .keep, .no⟩

/-- R365: PWR.WAKE_CFG.SMB_EN [31]. -/
def Row.PWR_WAKE_CFG_SMB_EN : Row := ⟨911, 0x10210, [], 31, 1, .rw, .live, 1, .fp, .keep, .no⟩

/-- R365: PWR.WAKE_CFG.TIMER [23:0]. -/
def Row.PWR_WAKE_CFG_TIMER : Row := ⟨912, 0x10210, [], 0, 24, .rw, .live, 0, .val, .keep, .no⟩

/-- R365: PWR.WATCH_CFG.EN [31]. -/
def Row.PWR_WATCH_CFG_EN : Row := ⟨913, 0x10220, [], 31, 1, .rw, .live, 0, .val, .keep, .no⟩

/-- R365: PWR.WATCH_CFG.WINGS [30:29]. -/
def Row.PWR_WATCH_CFG_WINGS : Row := ⟨914, 0x10220, [], 29, 2, .rw, .live, 3, .val, .keep, .no⟩

/-- R365: PWR.WATCH_CFG.CONFIRM [25:24]. -/
def Row.PWR_WATCH_CFG_CONFIRM : Row := ⟨915, 0x10220, [], 24, 2, .rw, .live, 0, .val, .keep, .no⟩

/-- R365: PWR.WATCH_CFG.PERIOD [23:16]. -/
def Row.PWR_WATCH_CFG_PERIOD : Row := ⟨916, 0x10220, [], 16, 8, .rw, .live, 10, .val, .clamp 1 100, .no⟩

/-- R365: PWR.WATCH_CFG.TH [11:0]. -/
def Row.PWR_WATCH_CFG_TH : Row := ⟨917, 0x10220, [], 0, 12, .rw, .live, 4095, .val, .keep, .no⟩

/-- R365: PWR.HIER_CTL.GO [31]. -/
def Row.PWR_HIER_CTL_GO : Row := ⟨918, 0x10300, [], 31, 1, .wo, .live, 0, .val, .keep, .no⟩

/-- R365: PWR.HIER_CTL.TARGET [30:28]. -/
def Row.PWR_HIER_CTL_TARGET : Row := ⟨919, 0x10300, [], 28, 3, .rw, .live, 0, .val, .ignoreAbove 4, .no⟩

/-- R365: PWR.HIER_CTL.WKR_SPACE [13:0]. -/
def Row.PWR_HIER_CTL_WKR_SPACE : Row := ⟨920, 0x10300, [], 0, 14, .rw, .live, 10, .fp, .clamp 0 10000, .no⟩

/-- R365: PWR.HIER_STAT.BUSY [31]. -/
def Row.PWR_HIER_STAT_BUSY : Row := ⟨921, 0x10304, [], 31, 1, .ro, .none, 0, .val, .keep, .no⟩

/-- R365: PWR.HIER_STAT.SKIPPED [30:16]. -/
def Row.PWR_HIER_STAT_SKIPPED : Row := ⟨922, 0x10304, [], 16, 15, .ro, .none, 0, .val, .keep, .no⟩

/-- R365: PWR.HIER_STAT.DONE [15:0]. -/
def Row.PWR_HIER_STAT_DONE : Row := ⟨923, 0x10304, [], 0, 16, .ro, .none, 0, .val, .keep, .no⟩

/-- R381: RAS.STAT.GUARANTEE [31]. -/
def Row.RAS_STAT_GUARANTEE : Row := ⟨924, 0x300000, [], 31, 1, .ro, .none, 0, .opened, .keep, .no⟩

/-- R381: RAS.STAT.SWEEP_EN [30]. -/
def Row.RAS_STAT_SWEEP_EN : Row := ⟨925, 0x300000, [], 30, 1, .ro, .none, 1, .fp, .keep, .no⟩

/-- R381: RAS.STAT.DWTO_EN [29]. -/
def Row.RAS_STAT_DWTO_EN : Row := ⟨926, 0x300000, [], 29, 1, .ro, .none, 1, .fp, .keep, .no⟩

/-- R381: RAS.STAT.RATINGS [28]. -/
def Row.RAS_STAT_RATINGS : Row := ⟨927, 0x300000, [], 28, 1, .ro, .none, 0, .opened, .keep, .no⟩

/-- R381: RAS.STAT.FAILED [27]. -/
def Row.RAS_STAT_FAILED : Row := ⟨928, 0x300000, [], 27, 1, .ro, .none, 0, .val, .keep, .no⟩

/-- R381: RAS.STAT.FAILED_MAP [24:0]. -/
def Row.RAS_STAT_FAILED_MAP : Row := ⟨929, 0x300000, [], 0, 25, .ro, .none, 0, .val, .keep, .no⟩

/-- R381: RAS.FAULT.VALID [31]. -/
def Row.RAS_FAULT_VALID : Row := ⟨930, 0x300004, [], 31, 1, .w1c, .live, 0, .val, .keep, .no⟩

/-- R381: RAS.FAULT.KIND [30:28]. -/
def Row.RAS_FAULT_KIND : Row := ⟨931, 0x300004, [], 28, 3, .ro, .none, 0, .val, .keep, .no⟩

/-- R381: RAS.FAULT.ISLAND [27:23]. -/
def Row.RAS_FAULT_ISLAND : Row := ⟨932, 0x300004, [], 23, 5, .ro, .none, 0, .val, .keep, .no⟩

/-- R381: RAS.FAULT.PEER [22:18]. -/
def Row.RAS_FAULT_PEER : Row := ⟨933, 0x300004, [], 18, 5, .ro, .none, 0, .val, .keep, .no⟩

/-- R381: RAS.EVT.SLOW_CLK [6]. -/
def Row.RAS_EVT_SLOW_CLK : Row := ⟨934, 0x300008, [], 6, 1, .w1c, .live, 0, .val, .keep, .no⟩

/-- R381: RAS.EVT.FAULT [5]. -/
def Row.RAS_EVT_FAULT : Row := ⟨935, 0x300008, [], 5, 1, .w1c, .live, 0, .val, .keep, .no⟩

/-- R381: RAS.EVT.LOCKSTEP [4]. -/
def Row.RAS_EVT_LOCKSTEP : Row := ⟨936, 0x300008, [], 4, 1, .w1c, .live, 0, .val, .keep, .no⟩

/-- R381: RAS.EVT.REMAP_FULL [3]. -/
def Row.RAS_EVT_REMAP_FULL : Row := ⟨937, 0x300008, [], 3, 1, .w1c, .live, 0, .val, .keep, .no⟩

/-- R381: RAS.EVT.REMAP [2]. -/
def Row.RAS_EVT_REMAP : Row := ⟨938, 0x300008, [], 2, 1, .w1c, .live, 0, .val, .keep, .no⟩

/-- R381: RAS.EVT.UE_CTL [1]. -/
def Row.RAS_EVT_UE_CTL : Row := ⟨939, 0x300008, [], 1, 1, .w1c, .live, 0, .val, .keep, .no⟩

/-- R381: RAS.EVT.UE_DATA [0]. -/
def Row.RAS_EVT_UE_DATA : Row := ⟨940, 0x300008, [], 0, 1, .w1c, .live, 0, .val, .keep, .no⟩

/-- R381: RAS.CTL.RECOVER [31]. -/
def Row.RAS_CTL_RECOVER : Row := ⟨941, 0x30000C, [], 31, 1, .wo, .live, 0, .val, .keep, .no⟩

/-- R381: RAS.CTL.REFUSED [30]. -/
def Row.RAS_CTL_REFUSED : Row := ⟨942, 0x30000C, [], 30, 1, .w1c, .live, 0, .val, .keep, .no⟩

/-- R381: RAS.CTL.SCOPE [1:0]. -/
def Row.RAS_CTL_SCOPE : Row := ⟨943, 0x30000C, [], 0, 2, .rw, .live, 0, .val, .keep, .no⟩

/-- R381: RAS.INJ.ARM [31]. -/
def Row.RAS_INJ_ARM : Row := ⟨944, 0x300010, [], 31, 1, .wo, .live, 0, .val, .keep, .no⟩

/-- R381: RAS.INJ.DOUBLE [30]. -/
def Row.RAS_INJ_DOUBLE : Row := ⟨945, 0x300010, [], 30, 1, .rw, .live, 0, .val, .keep, .no⟩

/-- R381: RAS.INJ.ARMED [29]. -/
def Row.RAS_INJ_ARMED : Row := ⟨946, 0x300010, [], 29, 1, .ro, .none, 0, .val, .keep, .no⟩

/-- R381: RAS.INJ.MEM [2:0]. -/
def Row.RAS_INJ_MEM : Row := ⟨947, 0x300010, [], 0, 3, .rw, .live, 0, .val, .ignoreAbove 5, .no⟩

/-- R381: RAS.LOCKSTEP.MISCOMPARE [31:16]. -/
def Row.RAS_LOCKSTEP_MISCOMPARE : Row := ⟨948, 0x300014, [], 16, 16, .ro, .none, 0, .val, .keep, .live⟩

/-- R381: RAS.LOCKSTEP.RESTARTS [15:0]. -/
def Row.RAS_LOCKSTEP_RESTARTS : Row := ⟨949, 0x300014, [], 0, 16, .ro, .none, 0, .val, .keep, .live⟩

/-- R381: RAS.SCRUB.EN [31]. -/
def Row.RAS_SCRUB_EN : Row := ⟨950, 0x300018, [], 31, 1, .rw, .live, 1, .fp, .keep, .no⟩

/-- R381: RAS.SCRUB.PERIOD [7:0]. -/
def Row.RAS_SCRUB_PERIOD : Row := ⟨951, 0x300018, [], 0, 8, .rw, .live, 24, .val, .sub 0 1, .no⟩

/-- R381: RAS.MEM_CE.COUNT [31:0]. -/
def Row.RAS_MEM_CE_COUNT : Row := ⟨952, 0x300100, [(6, 0x10)], 0, 32, .rc, .none, 0, .val, .keep, .live⟩

/-- R381: RAS.MEM_UE.COUNT [31:0]. -/
def Row.RAS_MEM_UE_COUNT : Row := ⟨953, 0x300104, [(6, 0x10)], 0, 32, .rc, .none, 0, .val, .keep, .live⟩

/-- R381: RAS.MEM_REMAP.BANKS_FULL [31:16]. -/
def Row.RAS_MEM_REMAP_BANKS_FULL : Row := ⟨954, 0x300108, [(6, 0x10)], 16, 16, .ro, .none, 0, .val, .keep, .no⟩

/-- R381: RAS.MEM_REMAP.USED [15:0]. -/
def Row.RAS_MEM_REMAP_USED : Row := ⟨955, 0x300108, [(6, 0x10)], 0, 16, .ro, .none, 0, .val, .keep, .no⟩

/-- R381: RAS.MEM_LAST.TYPE [31:30]. -/
def Row.RAS_MEM_LAST_TYPE : Row := ⟨956, 0x30010C, [(6, 0x10)], 30, 2, .ro, .none, 0, .val, .keep, .no⟩

/-- R381: RAS.MEM_LAST.BANK [29:24]. -/
def Row.RAS_MEM_LAST_BANK : Row := ⟨957, 0x30010C, [(6, 0x10)], 24, 6, .ro, .none, 0, .val, .keep, .no⟩

/-- R381: RAS.MEM_LAST.LINE [17:0]. -/
def Row.RAS_MEM_LAST_LINE : Row := ⟨958, 0x30010C, [(6, 0x10)], 0, 18, .ro, .none, 0, .val, .keep, .no⟩

/-- R395: PMU.CTL.FREEZE [31]. -/
def Row.PMU_CTL_FREEZE : Row := ⟨959, 0x50000, [], 31, 1, .wo, .live, 0, .val, .keep, .no⟩

/-- R395: PMU.CTL.THAW [30]. -/
def Row.PMU_CTL_THAW : Row := ⟨960, 0x50000, [], 30, 1, .wo, .live, 0, .val, .keep, .no⟩

/-- R395: PMU.CTL.FROZEN [29]. -/
def Row.PMU_CTL_FROZEN : Row := ⟨961, 0x50000, [], 29, 1, .ro, .none, 0, .val, .keep, .no⟩

/-- R395: PMU.CTL.USER_EN [28]. -/
def Row.PMU_CTL_USER_EN : Row := ⟨962, 0x50000, [], 28, 1, .rw, .live, 0, .val, .keep, .no⟩

/-- R395: PMU.CTL.CLEAR_ALL [27]. -/
def Row.PMU_CTL_CLEAR_ALL : Row := ⟨963, 0x50000, [], 27, 1, .wo, .live, 0, .val, .keep, .no⟩

/-- R395: PMU.USER_VIOL.COUNT [31:0]. -/
def Row.PMU_USER_VIOL_COUNT : Row := ⟨964, 0x50004, [], 0, 32, .ro, .none, 0, .val, .keep, .live⟩

/-- R395: PMU.EVT.USER_VIOL [2]. -/
def Row.PMU_EVT_USER_VIOL : Row := ⟨965, 0x50008, [], 2, 1, .w1c, .live, 0, .val, .keep, .no⟩

/-- R395: PMU.EVT.TAG_READY [1]. -/
def Row.PMU_EVT_TAG_READY : Row := ⟨966, 0x50008, [], 1, 1, .w1c, .live, 0, .val, .keep, .no⟩

/-- R395: PMU.EVT.OVF [0]. -/
def Row.PMU_EVT_OVF : Row := ⟨967, 0x50008, [], 0, 1, .w1c, .live, 0, .val, .keep, .no⟩

/-- R395: PMU.OVF_LO.BITS [31:0]. -/
def Row.PMU_OVF_LO_BITS : Row := ⟨968, 0x50010, [], 0, 32, .w1c, .live, 0, .val, .keep, .no⟩

/-- R395: PMU.OVF_HI.BITS [31:0]. -/
def Row.PMU_OVF_HI_BITS : Row := ⟨969, 0x50014, [], 0, 32, .w1c, .live, 0, .val, .keep, .no⟩

/-- R395: PMU.CNT_CFG.EN [31]. -/
def Row.PMU_CNT_CFG_EN : Row := ⟨970, 0x50100, [(64, 0x4)], 31, 1, .rw, .live, 0, .val, .keep, .no⟩

/-- R395: PMU.CNT_CFG.CHAIN [30]. -/
def Row.PMU_CNT_CFG_CHAIN : Row := ⟨971, 0x50100, [(64, 0x4)], 30, 1, .rw, .frozen, 0, .val, .keep, .no⟩

/-- R395: PMU.CNT_CFG.USER [29]. -/
def Row.PMU_CNT_CFG_USER : Row := ⟨972, 0x50100, [(64, 0x4)], 29, 1, .rw, .live, 0, .val, .keep, .no⟩

/-- R395: PMU.CNT_CFG.MODE [28]. -/
def Row.PMU_CNT_CFG_MODE : Row := ⟨973, 0x50100, [(64, 0x4)], 28, 1, .rw, .frozen, 0, .val, .keep, .no⟩

/-- R395: PMU.CNT_CFG.BAD_SRC [27]. -/
def Row.PMU_CNT_CFG_BAD_SRC : Row := ⟨974, 0x50100, [(64, 0x4)], 27, 1, .ro, .none, 0, .val, .keep, .no⟩

/-- R395: PMU.CNT_CFG.SOURCE [22:0]. -/
def Row.PMU_CNT_CFG_SOURCE : Row := ⟨975, 0x50100, [(64, 0x4)], 0, 23, .rw, .frozen, 0, .val, .keep, .no⟩

/-- R395: PMU.CNT_LO.COUNT [31:0]. -/
def Row.PMU_CNT_LO_COUNT : Row := ⟨976, 0x50200, [(64, 0x8)], 0, 32, .ro, .none, 0, .val, .keep, .live⟩

/-- R395: PMU.CNT_HI.COUNT [31:0]. -/
def Row.PMU_CNT_HI_COUNT : Row := ⟨977, 0x50204, [(64, 0x8)], 0, 32, .ro, .none, 0, .val, .keep, .live⟩

/-- R395: PMU.CNT_PS_LO.COUNT [31:0]. -/
def Row.PMU_CNT_PS_LO_COUNT : Row := ⟨978, 0x50400, [(64, 0x8)], 0, 32, .ro, .none, 0, .val, .keep, .ps⟩

/-- R395: PMU.CNT_PS_HI.COUNT [31:0]. -/
def Row.PMU_CNT_PS_HI_COUNT : Row := ⟨979, 0x50404, [(64, 0x8)], 0, 32, .ro, .none, 0, .val, .keep, .ps⟩

/-- R395: PMU.TAG_CFG.EN [31]. -/
def Row.PMU_TAG_CFG_EN : Row := ⟨980, 0x50600, [], 31, 1, .rw, .live, 0, .val, .keep, .no⟩

/-- R395: PMU.TAG_CFG.SCOPE [30:29]. -/
def Row.PMU_TAG_CFG_SCOPE : Row := ⟨981, 0x50600, [], 29, 2, .rw, .live, 0, .val, .sub 3 0, .no⟩

/-- R395: PMU.TAG_CFG.K [28:24]. -/
def Row.PMU_TAG_CFG_K : Row := ⟨982, 0x50600, [], 24, 5, .rw, .live, 16, .val, .clamp 4 24, .no⟩

/-- R395: PMU.TAG_CFG.TARGET [23:18]. -/
def Row.PMU_TAG_CFG_TARGET : Row := ⟨983, 0x50600, [], 18, 6, .rw, .live, 0, .val, .keep, .no⟩

/-- R395: PMU.TAG_CFG.DIR [17:16]. -/
def Row.PMU_TAG_CFG_DIR : Row := ⟨984, 0x50600, [], 16, 2, .rw, .live, 3, .val, .keep, .no⟩

/-- R395: PMU.TAG_CFG.CLASS_MASK [15:8]. -/
def Row.PMU_TAG_CFG_CLASS_MASK : Row := ⟨985, 0x50600, [], 8, 8, .rw, .live, 255, .val, .keep, .no⟩

/-- R395: PMU.TAG_CFG.NOTIFY [7:0]. -/
def Row.PMU_TAG_CFG_NOTIFY : Row := ⟨986, 0x50600, [], 0, 8, .rw, .live, 64, .val, .sub 0 1, .no⟩

/-- R395: PMU.TAG_STAT.IN_FLIGHT [30:24]. -/
def Row.PMU_TAG_STAT_IN_FLIGHT : Row := ⟨987, 0x50604, [], 24, 7, .ro, .none, 0, .val, .keep, .no⟩

/-- R395: PMU.TAG_STAT.FILL [8:0]. -/
def Row.PMU_TAG_STAT_FILL : Row := ⟨988, 0x50604, [], 0, 9, .ro, .none, 0, .val, .keep, .no⟩

/-- R395: PMU.TAG_SKIP.COUNT [31:0]. -/
def Row.PMU_TAG_SKIP_COUNT : Row := ⟨989, 0x50608, [], 0, 32, .ro, .none, 0, .val, .keep, .live⟩

/-- R395: PMU.TAG_LOST.COUNT [31:0]. -/
def Row.PMU_TAG_LOST_COUNT : Row := ⟨990, 0x5060C, [], 0, 32, .ro, .none, 0, .val, .keep, .live⟩

/-- R395: PMU.TAG_POP.POP [0]. -/
def Row.PMU_TAG_POP_POP : Row := ⟨991, 0x50610, [], 0, 1, .wo, .live, 0, .val, .keep, .no⟩

/-- R395: PMU.HIST_CFG.EN [31]. -/
def Row.PMU_HIST_CFG_EN : Row := ⟨992, 0x50700, [(16, 0x4)], 31, 1, .rw, .live, 0, .val, .keep, .no⟩

/-- R395: PMU.HIST_CFG.LOG2 [30]. -/
def Row.PMU_HIST_CFG_LOG2 : Row := ⟨993, 0x50700, [(16, 0x4)], 30, 1, .rw, .live, 0, .val, .keep, .no⟩

/-- R395: PMU.HIST_CFG.FROM [29:26]. -/
def Row.PMU_HIST_CFG_FROM : Row := ⟨994, 0x50700, [(16, 0x4)], 26, 4, .rw, .live, 0, .val, .keep, .no⟩

/-- R395: PMU.HIST_CFG.TO [25:22]. -/
def Row.PMU_HIST_CFG_TO : Row := ⟨995, 0x50700, [(16, 0x4)], 22, 4, .rw, .live, 0, .val, .keep, .no⟩

/-- R395: PMU.HIST_CFG.SHIFT [21:17]. -/
def Row.PMU_HIST_CFG_SHIFT : Row := ⟨996, 0x50700, [(16, 0x4)], 17, 5, .rw, .live, 0, .val, .clamp 0 24, .no⟩

/-- R395: PMU.HIST_CFG.BASE [15:0]. -/
def Row.PMU_HIST_CFG_BASE : Row := ⟨997, 0x50700, [(16, 0x4)], 0, 16, .rw, .live, 0, .val, .keep, .no⟩

/-- R395: PMU.HIST_CLR.CLR [15:0]. -/
def Row.PMU_HIST_CLR_CLR : Row := ⟨998, 0x50740, [], 0, 16, .wo, .live, 0, .val, .keep, .no⟩

/-- R395: PMU.TAG_WIN.WORD [31:0]. -/
def Row.PMU_TAG_WIN_WORD : Row := ⟨999, 0x50800, [(16, 0x4)], 0, 32, .ro, .none, 0, .val, .keep, .no⟩

/-- R395: PMU.HIST_BIN.COUNT [31:0]. -/
def Row.PMU_HIST_BIN_COUNT : Row := ⟨1000, 0x52000, [(16, 0x200), (64, 0x4)], 0, 32, .ro, .none, 0, .val, .keep, .live⟩

/-- R395: PMU.HIST_UNDER.COUNT [31:0]. -/
def Row.PMU_HIST_UNDER_COUNT : Row := ⟨1001, 0x52100, [(16, 0x200)], 0, 32, .ro, .none, 0, .val, .keep, .live⟩

/-- R395: PMU.HIST_OVER.COUNT [31:0]. -/
def Row.PMU_HIST_OVER_COUNT : Row := ⟨1002, 0x52104, [(16, 0x200)], 0, 32, .ro, .none, 0, .val, .keep, .live⟩

/-- R396: ATT.STAT.SEALED_FULL [31]. -/
def Row.ATT_STAT_SEALED_FULL : Row := ⟨1003, 0x40000, [], 31, 1, .ro, .none, 0, .opened, .keep, .no⟩

/-- R396: ATT.STAT.WRAPPED [30]. -/
def Row.ATT_STAT_WRAPPED : Row := ⟨1004, 0x40000, [], 30, 1, .ro, .none, 0, .opened, .keep, .no⟩

/-- R396: ATT.STAT.ARMED [29]. -/
def Row.ATT_STAT_ARMED : Row := ⟨1005, 0x40000, [], 29, 1, .ro, .none, 0, .val, .keep, .no⟩

/-- R396: ATT.STAT.SEALED_USED [27:16]. -/
def Row.ATT_STAT_SEALED_USED : Row := ⟨1006, 0x40000, [], 16, 12, .ro, .none, 0, .opened, .keep, .no⟩

/-- R396: ATT.STAT.WR_PTR [11:0]. -/
def Row.ATT_STAT_WR_PTR : Row := ⟨1007, 0x40000, [], 0, 12, .ro, .none, 2048, .opened, .keep, .no⟩

/-- R396: ATT.LOST.COUNT [31:0]. -/
def Row.ATT_LOST_COUNT : Row := ⟨1008, 0x40004, [], 0, 32, .ro, .none, 0, .opened, .keep, .attic⟩

/-- R396: ATT.EVT.LOST [1]. -/
def Row.ATT_EVT_LOST : Row := ⟨1009, 0x40008, [], 1, 1, .w1c, .live, 0, .val, .keep, .no⟩

/-- R396: ATT.EVT.SEALED_FULL [0]. -/
def Row.ATT_EVT_SEALED_FULL : Row := ⟨1010, 0x40008, [], 0, 1, .w1c, .live, 0, .val, .keep, .no⟩

/-- R396: ATT.CLEAR.STEP [31:24]. -/
def Row.ATT_CLEAR_STEP : Row := ⟨1011, 0x4000C, [], 24, 8, .wo, .live, 0, .val, .keep, .no⟩

/-- R396: ATT.CLEAR.SCOPE [0]. -/
def Row.ATT_CLEAR_SCOPE : Row := ⟨1012, 0x4000C, [], 0, 1, .rw, .live, 0, .val, .keep, .no⟩

/-- R396: ATT.CURSOR.AUTO_INC [31]. -/
def Row.ATT_CURSOR_AUTO_INC : Row := ⟨1013, 0x40010, [], 31, 1, .rw, .live, 1, .val, .keep, .no⟩

/-- R396: ATT.CURSOR.INDEX [11:0]. -/
def Row.ATT_CURSOR_INDEX : Row := ⟨1014, 0x40010, [], 0, 12, .rw, .live, 0, .val, .keep, .no⟩

/-- R396: ATT.WIN.WORD [31:0]. -/
def Row.ATT_WIN_WORD : Row := ⟨1015, 0x40020, [(8, 0x4)], 0, 32, .ro, .none, 0, .val, .keep, .no⟩

/-- R419: HST.LINK.UP [31]. -/
def Row.HST_LINK_UP : Row := ⟨1051, 0x30000, [], 31, 1, .ro, .none, 0, .val, .keep, .no⟩

/-- R419: HST.LINK.GEN [19:16]. -/
def Row.HST_LINK_GEN : Row := ⟨1052, 0x30000, [], 16, 4, .ro, .none, 0, .val, .keep, .no⟩

/-- R419: HST.LINK.WIDTH [5:0]. -/
def Row.HST_LINK_WIDTH : Row := ⟨1053, 0x30000, [], 0, 6, .ro, .none, 0, .val, .keep, .no⟩

/-- R419: HST.UNMAPPED.BAD_BE [31:16]. -/
def Row.HST_UNMAPPED_BAD_BE : Row := ⟨1054, 0x30004, [], 16, 16, .ro, .none, 0, .val, .keep, .live⟩

/-- R419: HST.UNMAPPED.COUNT [15:0]. -/
def Row.HST_UNMAPPED_COUNT : Row := ⟨1055, 0x30004, [], 0, 16, .ro, .none, 0, .val, .keep, .live⟩

/-- R419: HST.INTN_SEL_LO.VEC [31:0]. -/
def Row.HST_INTN_SEL_LO_VEC : Row := ⟨1056, 0x30010, [], 0, 32, .rw, .live, 0, .fp, .keep, .no⟩

/-- R419: HST.INTN_SEL_HI.VEC [31:0]. -/
def Row.HST_INTN_SEL_HI_VEC : Row := ⟨1057, 0x30014, [], 0, 32, .rw, .live, 0, .fp, .keep, .no⟩

/-- R419: HST.INTN_PEND_LO.VEC [31:0]. -/
def Row.HST_INTN_PEND_LO_VEC : Row := ⟨1058, 0x30018, [], 0, 32, .w1c, .live, 0, .val, .keep, .no⟩

/-- R419: HST.INTN_PEND_HI.VEC [31:0]. -/
def Row.HST_INTN_PEND_HI_VEC : Row := ⟨1059, 0x3001C, [], 0, 32, .w1c, .live, 0, .val, .keep, .no⟩

/-- R419: HST.VEC_MOD.GAP [9:0]. -/
def Row.HST_VEC_MOD_GAP : Row := ⟨1060, 0x30100, [(64, 0x4)], 0, 10, .rw, .live, 0, .val, .clamp 0 1000, .no⟩

/-- R419: HST.DMA_CTL.EN [31]. -/
def Row.HST_DMA_CTL_EN : Row := ⟨1061, 0x31000, [(8, 0x40)], 31, 1, .rw, .live, 0, .val, .keep, .no⟩

/-- R419: HST.DMA_CTL.WING [30]. -/
def Row.HST_DMA_CTL_WING : Row := ⟨1062, 0x31000, [(8, 0x40)], 30, 1, .rw, .frozen, 0, .val, .keep, .no⟩

/-- R419: HST.DMA_CTL.STAGE [29]. -/
def Row.HST_DMA_CTL_STAGE : Row := ⟨1063, 0x31000, [(8, 0x40)], 29, 1, .rw, .frozen, 0, .val, .keep, .no⟩

/-- R419: HST.DMA_CTL.INTERVAL [19:0]. -/
def Row.HST_DMA_CTL_INTERVAL : Row := ⟨1064, 0x31000, [(8, 0x40)], 0, 20, .rw, .frozen, 1, .val, .sub 0 1, .no⟩

/-- R419: HST.DMA_RING_LO.ADDR [31:0]. -/
def Row.HST_DMA_RING_LO_ADDR : Row := ⟨1065, 0x31004, [(8, 0x40)], 0, 32, .rw, .frozen, 0, .val, .align 4096, .no⟩

/-- R419: HST.DMA_RING_HI.ADDR [31:0]. -/
def Row.HST_DMA_RING_HI_ADDR : Row := ⟨1066, 0x31008, [(8, 0x40)], 0, 32, .rw, .frozen, 0, .val, .keep, .no⟩

/-- R419: HST.DMA_RING_SIZE.N [12:0]. -/
def Row.HST_DMA_RING_SIZE_N : Row := ⟨1067, 0x3100C, [(8, 0x40)], 0, 13, .rw, .frozen, 16, .val, .clamp 16 4096, .no⟩

/-- R419: HST.DMA_TAIL.IDX [11:0]. -/
def Row.HST_DMA_TAIL_IDX : Row := ⟨1068, 0x31010, [(8, 0x40)], 0, 12, .rw, .live, 0, .val, .keep, .no⟩

/-- R419: HST.DMA_HEAD.IDX [11:0]. -/
def Row.HST_DMA_HEAD_IDX : Row := ⟨1069, 0x31014, [(8, 0x40)], 0, 12, .ro, .none, 0, .val, .keep, .no⟩

/-- R419: HST.DMA_STAT.BUSY [31]. -/
def Row.HST_DMA_STAT_BUSY : Row := ⟨1070, 0x31018, [(8, 0x40)], 31, 1, .ro, .none, 0, .val, .keep, .no⟩

/-- R419: HST.DMA_STAT.ERR [30]. -/
def Row.HST_DMA_STAT_ERR : Row := ⟨1071, 0x31018, [(8, 0x40)], 30, 1, .w1c, .live, 0, .val, .keep, .no⟩

/-- R419: HST.DMA_SKIPPED.COUNT [31:0]. -/
def Row.HST_DMA_SKIPPED_COUNT : Row := ⟨1072, 0x3101C, [(8, 0x40)], 0, 32, .ro, .none, 0, .val, .keep, .live⟩

/-- R433: GLB.BOOT_STAT.STAGE [31:28]. -/
def Row.GLB_BOOT_STAT_STAGE : Row := ⟨1073, 0x50, [], 28, 4, .ro, .none, 0, .val, .keep, .no⟩

/-- R433: GLB.BOOT_STAT.BOOT_SRC [27]. -/
def Row.GLB_BOOT_STAT_BOOT_SRC : Row := ⟨1074, 0x50, [], 27, 1, .ro, .none, 0, .opened, .keep, .no⟩

/-- R433: GLB.BOOT_STAT.MGR_SEL [26]. -/
def Row.GLB_BOOT_STAT_MGR_SEL : Row := ⟨1075, 0x50, [], 26, 1, .ro, .none, 0, .opened, .keep, .no⟩

/-- R433: GLB.BOOT_STAT.SELF_TEST_SKIPPED [25]. -/
def Row.GLB_BOOT_STAT_SELF_TEST_SKIPPED : Row := ⟨1076, 0x50, [], 25, 1, .ro, .none, 0, .val, .keep, .no⟩

/-- R433: GLB.BOOT_STAT.REASON_A [23:20]. -/
def Row.GLB_BOOT_STAT_REASON_A : Row := ⟨1077, 0x50, [], 20, 4, .ro, .none, 0, .val, .keep, .no⟩

/-- R433: GLB.BOOT_STAT.REASON_B [19:16]. -/
def Row.GLB_BOOT_STAT_REASON_B : Row := ⟨1078, 0x50, [], 16, 4, .ro, .none, 0, .val, .keep, .no⟩

/-- R433: GLB.BOOT_STAT.BOOT_MS [15:0]. -/
def Row.GLB_BOOT_STAT_BOOT_MS : Row := ⟨1079, 0x50, [], 0, 16, .ro, .none, 0, .val, .keep, .no⟩

/-- R42: REGION.COMMIT.APPLY [31]. -/
def Row.COMMIT_APPLY : Row := ⟨1080, 0xFFF0, [(49, 0x10000)], 31, 1, .wo, .live, 0, .val, .keep, .no⟩

/-- R42: REGION.COMMIT.DISCARD [30]. -/
def Row.COMMIT_DISCARD : Row := ⟨1081, 0xFFF0, [(49, 0x10000)], 30, 1, .wo, .live, 0, .val, .keep, .no⟩

/-- R42: REGION.COMMIT.VIEW_ACTIVE [29]. -/
def Row.COMMIT_VIEW_ACTIVE : Row := ⟨1082, 0xFFF0, [(49, 0x10000)], 29, 1, .rw, .live, 0, .val, .keep, .no⟩

/-- R42: REGION.COMMIT.PENDING [17]. -/
def Row.COMMIT_PENDING : Row := ⟨1083, 0xFFF0, [(49, 0x10000)], 17, 1, .ro, .none, 0, .val, .keep, .no⟩

/-- R42: REGION.COMMIT.STAGED [16]. -/
def Row.COMMIT_STAGED : Row := ⟨1084, 0xFFF0, [(49, 0x10000)], 16, 1, .ro, .none, 0, .val, .keep, .no⟩

/-- R42: REGION.COMMIT.SEQ [15:0]. -/
def Row.COMMIT_SEQ : Row := ⟨1085, 0xFFF0, [(49, 0x10000)], 0, 16, .ro, .none, 0, .val, .keep, .no⟩

/-- The fields of GLB, in the order of the spec's tables. -/
def rowsGLB : List Row :=
  [.GLB_ID_PART, .GLB_ID_VARIANT, .GLB_ID_STEPPING, .GLB_ID_CIPHER_FUSED,
   .GLB_FP_INFO_BUILD, .GLB_FP_INFO_SVN, .GLB_FP_INFO_SOURCE, .GLB_FP_INFO_TRIALS,
   .GLB_FP_INFO_CONFIRMED, .GLB_FP_HASH_HASH, .GLB_BLK_CTL_STOPPING, .GLB_BLK_CTL_STOPPED,
   .GLB_BLK_CTL_STOP, .GLB_WR_REJECT_VALID, .GLB_WR_REJECT_COUNT, .GLB_WR_REJECT_WORD_ADDR,
   .GLB_BOOT_STAT_STAGE, .GLB_BOOT_STAT_BOOT_SRC, .GLB_BOOT_STAT_MGR_SEL, .GLB_BOOT_STAT_SELF_TEST_SKIPPED,
   .GLB_BOOT_STAT_REASON_A, .GLB_BOOT_STAT_REASON_B, .GLB_BOOT_STAT_BOOT_MS]

/-- The fields of SEC, in the order of the spec's tables. -/
def rowsSEC : List Row :=
  [.SEC_IMG_ADDR_LO_ADDR, .SEC_IMG_ADDR_HI_ADDR, .SEC_IMG_LEN_LEN, .SEC_IMG_CTL_OP,
   .SEC_IMG_STAT_BUSY, .SEC_IMG_STAT_STAGED, .SEC_IMG_STAT_REFUSED, .SEC_IMG_STAT_REASON,
   .SEC_IMG_STAT_SCOPE, .SEC_IMG_STAT_PROGRESS, .SEC_KEY_DATA_BYTES, .SEC_KEY_CMD_OP,
   .SEC_KEY_CMD_SLOT, .SEC_KEY_STAT_BUSY, .SEC_KEY_STAT_REFUSED, .SEC_KEY_STAT_REASON,
   .SEC_XFER_ADDR_LO_ADDR, .SEC_XFER_ADDR_HI_ADDR, .SEC_DEV_ID_LO_ID, .SEC_DEV_ID_HI_ID,
   .SEC_SES_CFG_EN, .SEC_SES_CFG_PEER_CHK, .SEC_SES_CFG_LIFE, .SEC_PEER_ID_LO_ID,
   .SEC_PEER_ID_HI_ID, .SEC_SES_STAT_STATE, .SEC_SES_STAT_REASON, .SEC_SES_STAT_SESSION]

/-- The fields of REF, part 0, in the order of the spec's tables. -/
def rowsREF0 : List Row :=
  [.REF_CFG_REVERT, .REF_CFG_QL_OPT, .REF_CFG_FORCE_EN, .REF_CFG_FORCE_SEL,
   .REF_CFG_QL_MIN, .REF_CFG_DISAGREE_TH, .REF_CFG_BW, .REF_STAT_STATE,
   .REF_STAT_ACTIVE, .REF_STAT_TARGET, .REF_STAT_DISAGREE, .REF_STAT_MT_COARSE,
   .REF_STAT_HO_VALID, .REF_STAT_TX_QL, .REF_STAT_OFFSET, .REF_EVT_MT_STEP,
   .REF_EVT_CAND_CHANGE, .REF_EVT_TX_QL_CHANGE, .REF_EVT_DISAGREE, .REF_EVT_ACT_CHANGE,
   .REF_EVT_STATE_CHANGE, .REF_HO_STAT_LEARN_H, .REF_HO_STAT_T0, .REF_HO_CTL_RELEARN,
   .REF_OUT_CFG_EN, .REF_OUT_CFG_SQ_HO, .REF_OUT_CFG_SQ_QL, .REF_OUT_CFG_FREQ,
   .REF_ESMC_TX_PORTS, .REF_CAND_PRIO, .REF_CAND_QL_HOST, .REF_CAND_WTR,
   .REF_CAND_FREQ, .REF_CAND_PORT, .REF_CAND_STAT_QUALIFIED, .REF_CAND_STAT_ELIGIBLE,
   .REF_CAND_STAT_WTR_RUN, .REF_CAND_STAT_QL_FAILED, .REF_CAND_STAT_QL, .REF_CAND_STAT_WTR_LEFT]

/-- The fields of REF, part 1, in the order of the spec's tables. -/
def rowsREF1 : List Row :=
  [.REF_CAND_STAT_OFFSET, .REF_MT_LO_MT, .REF_MT_HI_MT, .REF_MT_SET_LO_VALUE,
   .REF_MT_SET_HI_VALUE, .REF_MT_CTL_STEP, .REF_TICK_STAT_IRREG, .REF_TICK_STAT_TICKS]

/-- The fields of REF. -/
def rowsREF : List Row := rowsREF0 ++ rowsREF1

/-- The fields of PWR, part 0, in the order of the spec's tables. -/
def rowsPWR0 : List Row :=
  [.PWR_STATE_CTL_TARGET, .PWR_STATE_CTL_WING_B, .PWR_STATE_CTL_WING_A, .PWR_STATE_STAT_STATE,
   .PWR_STATE_STAT_BUSY, .PWR_STATE_STAT_DEFERRED, .PWR_STATE_STAT_WING_B, .PWR_STATE_STAT_WING_A,
   .PWR_EVT_VIN_WARN, .PWR_EVT_REFUSED, .PWR_EVT_STATE_DONE, .PWR_VIN_STAT_WARN,
   .PWR_VIN_STAT_VIN, .PWR_VIN_CFG_SHED, .PWR_VIN_CFG_WARN_TH, .PWR_VIN_CFG_HYST,
   .PWR_BUDGET_STAT_QUEUED, .PWR_BUDGET_STAT_WINDOW, .PWR_WOA_CFG_LINGER, .PWR_WOA_CNT_MAX_STALL,
   .PWR_WOA_CNT_WAKES, .PWR_LAST_REFUSE_VALID, .PWR_LAST_REFUSE_ISLAND, .PWR_LAST_REFUSE_REASON,
   .PWR_LAST_REFUSE_ABORT, .PWR_LAST_REFUSE_TARGET, .PWR_REFUSE_CNT_REFUSED, .PWR_REFUSE_CNT_ABORTED,
   .PWR_WAKE_REC_CAUSE, .PWR_WAKE_REC_FROM, .PWR_WAKE_REC_FLAG, .PWR_WAKE_REC_WATCH_LAST,
   .PWR_SLEEP_LO_N, .PWR_SLEEP_HI_N, .PWR_WAKE_CFG_SMB_EN, .PWR_WAKE_CFG_TIMER,
   .PWR_WATCH_CFG_EN, .PWR_WATCH_CFG_WINGS, .PWR_WATCH_CFG_CONFIRM, .PWR_WATCH_CFG_PERIOD]

/-- The fields of PWR, part 1, in the order of the spec's tables. -/
def rowsPWR1 : List Row :=
  [.PWR_WATCH_CFG_TH, .PWR_HIER_CTL_GO, .PWR_HIER_CTL_TARGET, .PWR_HIER_CTL_WKR_SPACE,
   .PWR_HIER_STAT_BUSY, .PWR_HIER_STAT_SKIPPED, .PWR_HIER_STAT_DONE]

/-- The fields of PWR. -/
def rowsPWR : List Row := rowsPWR0 ++ rowsPWR1

/-- The fields of RAS, in the order of the spec's tables. -/
def rowsRAS : List Row :=
  [.RAS_STAT_GUARANTEE, .RAS_STAT_SWEEP_EN, .RAS_STAT_DWTO_EN, .RAS_STAT_RATINGS,
   .RAS_STAT_FAILED, .RAS_STAT_FAILED_MAP, .RAS_FAULT_VALID, .RAS_FAULT_KIND,
   .RAS_FAULT_ISLAND, .RAS_FAULT_PEER, .RAS_EVT_SLOW_CLK, .RAS_EVT_FAULT,
   .RAS_EVT_LOCKSTEP, .RAS_EVT_REMAP_FULL, .RAS_EVT_REMAP, .RAS_EVT_UE_CTL,
   .RAS_EVT_UE_DATA, .RAS_CTL_RECOVER, .RAS_CTL_REFUSED, .RAS_CTL_SCOPE,
   .RAS_INJ_ARM, .RAS_INJ_DOUBLE, .RAS_INJ_ARMED, .RAS_INJ_MEM,
   .RAS_LOCKSTEP_MISCOMPARE, .RAS_LOCKSTEP_RESTARTS, .RAS_SCRUB_EN, .RAS_SCRUB_PERIOD,
   .RAS_MEM_CE_COUNT, .RAS_MEM_UE_COUNT, .RAS_MEM_REMAP_BANKS_FULL, .RAS_MEM_REMAP_USED,
   .RAS_MEM_LAST_TYPE, .RAS_MEM_LAST_BANK, .RAS_MEM_LAST_LINE]

/-- The fields of PMU, part 0, in the order of the spec's tables. -/
def rowsPMU0 : List Row :=
  [.PMU_CTL_FREEZE, .PMU_CTL_THAW, .PMU_CTL_FROZEN, .PMU_CTL_USER_EN,
   .PMU_CTL_CLEAR_ALL, .PMU_USER_VIOL_COUNT, .PMU_EVT_USER_VIOL, .PMU_EVT_TAG_READY,
   .PMU_EVT_OVF, .PMU_OVF_LO_BITS, .PMU_OVF_HI_BITS, .PMU_CNT_CFG_EN,
   .PMU_CNT_CFG_CHAIN, .PMU_CNT_CFG_USER, .PMU_CNT_CFG_MODE, .PMU_CNT_CFG_BAD_SRC,
   .PMU_CNT_CFG_SOURCE, .PMU_CNT_LO_COUNT, .PMU_CNT_HI_COUNT, .PMU_CNT_PS_LO_COUNT,
   .PMU_CNT_PS_HI_COUNT, .PMU_TAG_CFG_EN, .PMU_TAG_CFG_SCOPE, .PMU_TAG_CFG_K,
   .PMU_TAG_CFG_TARGET, .PMU_TAG_CFG_DIR, .PMU_TAG_CFG_CLASS_MASK, .PMU_TAG_CFG_NOTIFY,
   .PMU_TAG_STAT_IN_FLIGHT, .PMU_TAG_STAT_FILL, .PMU_TAG_SKIP_COUNT, .PMU_TAG_LOST_COUNT,
   .PMU_TAG_POP_POP, .PMU_HIST_CFG_EN, .PMU_HIST_CFG_LOG2, .PMU_HIST_CFG_FROM,
   .PMU_HIST_CFG_TO, .PMU_HIST_CFG_SHIFT, .PMU_HIST_CFG_BASE, .PMU_HIST_CLR_CLR]

/-- The fields of PMU, part 1, in the order of the spec's tables. -/
def rowsPMU1 : List Row :=
  [.PMU_TAG_WIN_WORD, .PMU_HIST_BIN_COUNT, .PMU_HIST_UNDER_COUNT, .PMU_HIST_OVER_COUNT]

/-- The fields of PMU. -/
def rowsPMU : List Row := rowsPMU0 ++ rowsPMU1

/-- The fields of ATT, in the order of the spec's tables. -/
def rowsATT : List Row :=
  [.ATT_STAT_SEALED_FULL, .ATT_STAT_WRAPPED, .ATT_STAT_ARMED, .ATT_STAT_SEALED_USED,
   .ATT_STAT_WR_PTR, .ATT_LOST_COUNT, .ATT_EVT_LOST, .ATT_EVT_SEALED_FULL,
   .ATT_CLEAR_STEP, .ATT_CLEAR_SCOPE, .ATT_CURSOR_AUTO_INC, .ATT_CURSOR_INDEX,
   .ATT_WIN_WORD]

/-- The fields of HST, in the order of the spec's tables. -/
def rowsHST : List Row :=
  [.HST_LINK_UP, .HST_LINK_GEN, .HST_LINK_WIDTH, .HST_UNMAPPED_BAD_BE,
   .HST_UNMAPPED_COUNT, .HST_INTN_SEL_LO_VEC, .HST_INTN_SEL_HI_VEC, .HST_INTN_PEND_LO_VEC,
   .HST_INTN_PEND_HI_VEC, .HST_VEC_MOD_GAP, .HST_DMA_CTL_EN, .HST_DMA_CTL_WING,
   .HST_DMA_CTL_STAGE, .HST_DMA_CTL_INTERVAL, .HST_DMA_RING_LO_ADDR, .HST_DMA_RING_HI_ADDR,
   .HST_DMA_RING_SIZE_N, .HST_DMA_TAIL_IDX, .HST_DMA_HEAD_IDX, .HST_DMA_STAT_BUSY,
   .HST_DMA_STAT_ERR, .HST_DMA_SKIPPED_COUNT]

/-- The fields of COMMIT, in the order of the spec's tables. -/
def rowsCOMMIT : List Row :=
  [.COMMIT_APPLY, .COMMIT_DISCARD, .COMMIT_VIEW_ACTIVE, .COMMIT_PENDING,
   .COMMIT_STAGED, .COMMIT_SEQ]

end Sys2Proof.Machine
end

