-- ==== Sys2Proof/Machine/RegsLine.lean ====
section
/-!
DEFINITION. The spec's register tables for the wing regions TXW, RXW, OPT, CNV, FEC, OHD and ELC, one definition per field.
Each names, in this order: its own number, the BAR0 byte offset of the first instance, the instances' counts and
strides, its lowest bit, its width, its access, its change class, its value after reset, where that value comes
from, what a written value is taken as, and whether it is a count.
-/

namespace Sys2Proof.Machine

/-- R66: TXW.LINE_CUR.BAUD [31:21]. -/
def Row.TXW_LINE_CUR_BAUD : Row := ⟨26, 0x100C00, [(2, 0x100000)], 21, 11, .ro, .none, 0, .opened, .keep, .no⟩

/-- R66: RXW.LINE_CUR.BAUD [31:21]. -/
def Row.RXW_LINE_CUR_BAUD : Row := ⟨27, 0x110C00, [(2, 0x100000)], 21, 11, .ro, .none, 0, .opened, .keep, .no⟩

/-- R66: TXW.LINE_CUR.H_IDX [20:14]. -/
def Row.TXW_LINE_CUR_H_IDX : Row := ⟨28, 0x100C00, [(2, 0x100000)], 14, 7, .ro, .none, 0, .opened, .keep, .no⟩

/-- R66: RXW.LINE_CUR.H_IDX [20:14]. -/
def Row.RXW_LINE_CUR_H_IDX : Row := ⟨29, 0x110C00, [(2, 0x100000)], 14, 7, .ro, .none, 0, .opened, .keep, .no⟩

/-- R66: TXW.LINE_CUR.FEC [13]. -/
def Row.TXW_LINE_CUR_FEC : Row := ⟨30, 0x100C00, [(2, 0x100000)], 13, 1, .ro, .none, 0, .opened, .keep, .no⟩

/-- R66: RXW.LINE_CUR.FEC [13]. -/
def Row.RXW_LINE_CUR_FEC : Row := ⟨31, 0x110C00, [(2, 0x100000)], 13, 1, .ro, .none, 0, .opened, .keep, .no⟩

/-- R66: TXW.LINE_CUR.BASE [12:11]. -/
def Row.TXW_LINE_CUR_BASE : Row := ⟨32, 0x100C00, [(2, 0x100000)], 11, 2, .ro, .none, 0, .opened, .keep, .no⟩

/-- R66: RXW.LINE_CUR.BASE [12:11]. -/
def Row.RXW_LINE_CUR_BASE : Row := ⟨33, 0x110C00, [(2, 0x100000)], 11, 2, .ro, .none, 0, .opened, .keep, .no⟩

/-- R66: TXW.LINE_CUR.SLOTS [9:0]. -/
def Row.TXW_LINE_CUR_SLOTS : Row := ⟨34, 0x100C00, [(2, 0x100000)], 0, 10, .ro, .none, 0, .opened, .keep, .no⟩

/-- R66: RXW.LINE_CUR.SLOTS [9:0]. -/
def Row.RXW_LINE_CUR_SLOTS : Row := ⟨35, 0x110C00, [(2, 0x100000)], 0, 10, .ro, .none, 0, .opened, .keep, .no⟩

/-- R66: TXW.LINE_NEXT.ANN_VALID [31]. -/
def Row.TXW_LINE_NEXT_ANN_VALID : Row := ⟨36, 0x100C04, [(2, 0x100000)], 31, 1, .ro, .none, 0, .val, .keep, .no⟩

/-- R66: TXW.LINE_NEXT.ANN_SEQ [30:27]. -/
def Row.TXW_LINE_NEXT_ANN_SEQ : Row := ⟨37, 0x100C04, [(2, 0x100000)], 27, 4, .ro, .none, 0, .val, .keep, .no⟩

/-- R66: TXW.LINE_NEXT.H_IDX [26:20]. -/
def Row.TXW_LINE_NEXT_H_IDX : Row := ⟨38, 0x100C04, [(2, 0x100000)], 20, 7, .ro, .none, 0, .val, .keep, .no⟩

/-- R66: TXW.LINE_NEXT.FEC [19]. -/
def Row.TXW_LINE_NEXT_FEC : Row := ⟨39, 0x100C04, [(2, 0x100000)], 19, 1, .ro, .none, 0, .val, .keep, .no⟩

/-- R66: TXW.LINE_NEXT.COUNTDOWN [18:11]. -/
def Row.TXW_LINE_NEXT_COUNTDOWN : Row := ⟨40, 0x100C04, [(2, 0x100000)], 11, 8, .ro, .none, 0, .val, .keep, .no⟩

/-- R66: TXW.LINE_NEXT.SLOTS [9:0]. -/
def Row.TXW_LINE_NEXT_SLOTS : Row := ⟨41, 0x100C04, [(2, 0x100000)], 0, 10, .ro, .none, 0, .val, .keep, .no⟩

/-- R67: TXW.SLOT_MAP.E3 [29:24]. -/
def Row.TXW_SLOT_MAP_E3 : Row := ⟨42, 0x100D00, [(2, 0x100000), (160, 0x4)], 24, 6, .ro, .none, 63, .val, .keep, .no⟩

/-- R67: RXW.SLOT_MAP.E3 [29:24]. -/
def Row.RXW_SLOT_MAP_E3 : Row := ⟨43, 0x110D00, [(2, 0x100000), (160, 0x4)], 24, 6, .ro, .none, 63, .val, .keep, .no⟩

/-- R67: TXW.SLOT_MAP.E2 [21:16]. -/
def Row.TXW_SLOT_MAP_E2 : Row := ⟨44, 0x100D00, [(2, 0x100000), (160, 0x4)], 16, 6, .ro, .none, 63, .val, .keep, .no⟩

/-- R67: RXW.SLOT_MAP.E2 [21:16]. -/
def Row.RXW_SLOT_MAP_E2 : Row := ⟨45, 0x110D00, [(2, 0x100000), (160, 0x4)], 16, 6, .ro, .none, 63, .val, .keep, .no⟩

/-- R67: TXW.SLOT_MAP.E1 [13:8]. -/
def Row.TXW_SLOT_MAP_E1 : Row := ⟨46, 0x100D00, [(2, 0x100000), (160, 0x4)], 8, 6, .ro, .none, 63, .val, .keep, .no⟩

/-- R67: RXW.SLOT_MAP.E1 [13:8]. -/
def Row.RXW_SLOT_MAP_E1 : Row := ⟨47, 0x110D00, [(2, 0x100000), (160, 0x4)], 8, 6, .ro, .none, 63, .val, .keep, .no⟩

/-- R67: TXW.SLOT_MAP.E0 [5:0]. -/
def Row.TXW_SLOT_MAP_E0 : Row := ⟨48, 0x100D00, [(2, 0x100000), (160, 0x4)], 0, 6, .ro, .none, 63, .val, .keep, .no⟩

/-- R67: RXW.SLOT_MAP.E0 [5:0]. -/
def Row.RXW_SLOT_MAP_E0 : Row := ⟨49, 0x110D00, [(2, 0x100000), (160, 0x4)], 0, 6, .ro, .none, 63, .val, .keep, .no⟩

/-- R68: RXW.HDR_STAT.CF_ALIGNED [31]. -/
def Row.RXW_HDR_STAT_CF_ALIGNED : Row := ⟨50, 0x110C08, [(2, 0x100000)], 31, 1, .ro, .none, 0, .val, .keep, .no⟩

/-- R68: RXW.HDR_STAT.SF_ALIGNED [30]. -/
def Row.RXW_HDR_STAT_SF_ALIGNED : Row := ⟨51, 0x110C08, [(2, 0x100000)], 30, 1, .ro, .none, 0, .val, .keep, .no⟩

/-- R68: RXW.HDR_STAT.MAP_VALID [29]. -/
def Row.RXW_HDR_STAT_MAP_VALID : Row := ⟨52, 0x110C08, [(2, 0x100000)], 29, 1, .ro, .none, 0, .val, .keep, .no⟩

/-- R68: RXW.HDR_STAT.MAP_BAD [28]. -/
def Row.RXW_HDR_STAT_MAP_BAD : Row := ⟨53, 0x110C08, [(2, 0x100000)], 28, 1, .w1c, .live, 0, .val, .keep, .no⟩

/-- R68: RXW.HDR_STAT.MAP_DISAGREE [27]. -/
def Row.RXW_HDR_STAT_MAP_DISAGREE : Row := ⟨54, 0x110C08, [(2, 0x100000)], 27, 1, .w1c, .live, 0, .val, .keep, .no⟩

/-- R68: RXW.HDR_STAT.BAUD_MISM [26]. -/
def Row.RXW_HDR_STAT_BAUD_MISM : Row := ⟨55, 0x110C08, [(2, 0x100000)], 26, 1, .ro, .none, 0, .val, .keep, .no⟩

/-- R68: RXW.HDR_STAT.FLOOR_RX [25]. -/
def Row.RXW_HDR_STAT_FLOOR_RX : Row := ⟨56, 0x110C08, [(2, 0x100000)], 25, 1, .ro, .none, 0, .val, .keep, .no⟩

/-- R68: RXW.HDR_STAT.ICM_RC_RX [24]. -/
def Row.RXW_HDR_STAT_ICM_RC_RX : Row := ⟨57, 0x110C08, [(2, 0x100000)], 24, 1, .ro, .none, 0, .val, .keep, .no⟩

/-- R68: RXW.HDR_STAT.HDR_LOSS_RX [23]. -/
def Row.RXW_HDR_STAT_HDR_LOSS_RX : Row := ⟨58, 0x110C08, [(2, 0x100000)], 23, 1, .ro, .none, 0, .val, .keep, .no⟩

/-- R68: RXW.HDR_STAT.HDR_LOSS_TX [22]. -/
def Row.RXW_HDR_STAT_HDR_LOSS_TX : Row := ⟨59, 0x110C08, [(2, 0x100000)], 22, 1, .ro, .none, 0, .val, .keep, .no⟩

/-- R68: RXW.HDR_STAT.QL_RX [21:18]. -/
def Row.RXW_HDR_STAT_QL_RX : Row := ⟨60, 0x110C08, [(2, 0x100000)], 18, 4, .ro, .none, 0, .val, .keep, .no⟩

/-- R68: RXW.HDR_STAT.WING_RX [17]. -/
def Row.RXW_HDR_STAT_WING_RX : Row := ⟨61, 0x110C08, [(2, 0x100000)], 17, 1, .ro, .none, 0, .val, .keep, .no⟩

/-- R68: RXW.HDR_ERR.CF_SLIP [31:24]. -/
def Row.RXW_HDR_ERR_CF_SLIP : Row := ⟨62, 0x110C10, [(2, 0x100000)], 24, 8, .ro, .none, 0, .val, .keep, .live⟩

/-- R68: RXW.HDR_ERR_PS.CF_SLIP [31:24]. -/
def Row.RXW_HDR_ERR_PS_CF_SLIP : Row := ⟨63, 0x110C14, [(2, 0x100000)], 24, 8, .ro, .none, 0, .val, .keep, .ps⟩

/-- R68: RXW.HDR_ERR.HDR_DIFF [23:16]. -/
def Row.RXW_HDR_ERR_HDR_DIFF : Row := ⟨64, 0x110C10, [(2, 0x100000)], 16, 8, .ro, .none, 0, .val, .keep, .live⟩

/-- R68: RXW.HDR_ERR_PS.HDR_DIFF [23:16]. -/
def Row.RXW_HDR_ERR_PS_HDR_DIFF : Row := ⟨65, 0x110C14, [(2, 0x100000)], 16, 8, .ro, .none, 0, .val, .keep, .ps⟩

/-- R68: RXW.HDR_ERR.HDR_CRC [15:0]. -/
def Row.RXW_HDR_ERR_HDR_CRC : Row := ⟨66, 0x110C10, [(2, 0x100000)], 0, 16, .ro, .none, 0, .val, .keep, .live⟩

/-- R68: RXW.HDR_ERR_PS.HDR_CRC [15:0]. -/
def Row.RXW_HDR_ERR_PS_HDR_CRC : Row := ⟨67, 0x110C14, [(2, 0x100000)], 0, 16, .ro, .none, 0, .val, .keep, .ps⟩

/-- R69: ELC.CHAN_CFG.CEILING [31:22]. -/
def Row.ELC_CHAN_CFG_CEILING : Row := ⟨68, 0x150400, [(2, 0x100000), (32, 0x4)], 22, 10, .ro, .none, 0, .fp, .keep, .no⟩

/-- R69: ELC.CHAN_CFG.MINIMUM [21:12]. -/
def Row.ELC_CHAN_CFG_MINIMUM : Row := ⟨69, 0x150400, [(2, 0x100000), (32, 0x4)], 12, 10, .ro, .none, 0, .fp, .keep, .no⟩

/-- R69: ELC.CHAN_CFG.RANK [11:8]. -/
def Row.ELC_CHAN_CFG_RANK : Row := ⟨70, 0x150400, [(2, 0x100000), (32, 0x4)], 8, 4, .ro, .none, 0, .fp, .keep, .no⟩

/-- R69: ELC.CHAN_CFG.CIPHER_EN [7]. -/
def Row.ELC_CHAN_CFG_CIPHER_EN : Row := ⟨71, 0x150400, [(2, 0x100000), (32, 0x4)], 7, 1, .ro, .none, 0, .fp, .keep, .no⟩

/-- R69: ELC.CHAN_CFG.ENABLE [0]. -/
def Row.ELC_CHAN_CFG_ENABLE : Row := ⟨72, 0x150400, [(2, 0x100000), (32, 0x4)], 0, 1, .rw, .live, 0, .fp, .keep, .no⟩

/-- R69: ELC.CHAN_STAT.AT_MIN [31]. -/
def Row.ELC_CHAN_STAT_AT_MIN : Row := ⟨73, 0x150480, [(2, 0x100000), (32, 0x4)], 31, 1, .ro, .none, 0, .val, .keep, .no⟩

/-- R69: ELC.CHAN_STAT.AT_CEIL [30]. -/
def Row.ELC_CHAN_STAT_AT_CEIL : Row := ⟨74, 0x150480, [(2, 0x100000), (32, 0x4)], 30, 1, .ro, .none, 0, .val, .keep, .no⟩

/-- R69: ELC.CHAN_STAT.SLOTS_NEXT [25:16]. -/
def Row.ELC_CHAN_STAT_SLOTS_NEXT : Row := ⟨75, 0x150480, [(2, 0x100000), (32, 0x4)], 16, 10, .ro, .none, 0, .val, .keep, .no⟩

/-- R69: ELC.CHAN_STAT.SLOTS_CUR [9:0]. -/
def Row.ELC_CHAN_STAT_SLOTS_CUR : Row := ⟨76, 0x150480, [(2, 0x100000), (32, 0x4)], 0, 10, .ro, .none, 0, .val, .keep, .no⟩

/-- R73: OHD.MAP_FILL.FILL [25:16]. -/
def Row.OHD_MAP_FILL_FILL : Row := ⟨77, 0x140800, [(2, 0x100000), (32, 0x4)], 16, 10, .ro, .none, 0, .val, .keep, .ps⟩

/-- R73: OHD.MAP_FILL.FRAMES_K [15:0]. -/
def Row.OHD_MAP_FILL_FRAMES_K : Row := ⟨78, 0x140800, [(2, 0x100000), (32, 0x4)], 0, 16, .ro, .none, 0, .val, .keep, .ps⟩

/-- R80: TXW.RATE.BAUD [10:0]. -/
def Row.TXW_RATE_BAUD : Row := ⟨79, 0x100010, [(2, 0x100000)], 0, 11, .rw, .frozen, 0, .fp, .clamp 224 1360, .no⟩

/-- R84: TXW.SHAPE.RESP_EN [17]. -/
def Row.TXW_SHAPE_RESP_EN : Row := ⟨80, 0x100100, [(2, 0x100000)], 17, 1, .rw, .shadowed, 0, .fp, .keep, .no⟩

/-- R84: TXW.SHAPE.NLPD_EN [16]. -/
def Row.TXW_SHAPE_NLPD_EN : Row := ⟨81, 0x100100, [(2, 0x100000)], 16, 1, .rw, .shadowed, 0, .fp, .keep, .no⟩

/-- R84: TXW.SHAPE.CLIP [13:8]. -/
def Row.TXW_SHAPE_CLIP : Row := ⟨82, 0x100100, [(2, 0x100000)], 8, 6, .rw, .live, 0, .fp, .clamp 20 40, .no⟩

/-- R84: TXW.SHAPE.ROLLOFF [6:0]. -/
def Row.TXW_SHAPE_ROLLOFF : Row := ⟨83, 0x100100, [(2, 0x100000)], 0, 7, .rw, .frozen, 0, .fp, .clamp 1 12, .no⟩

/-- R84: TXW.TRIM.SKEW [24:16]. -/
def Row.TXW_TRIM_SKEW : Row := ⟨84, 0x100110, [(2, 0x100000), (4, 0x4)], 16, 9, .rw, .shadowed, 0, .fp, .keep, .no⟩

/-- R84: TXW.TRIM.GAIN [7:0]. -/
def Row.TXW_TRIM_GAIN : Row := ⟨85, 0x100110, [(2, 0x100000), (4, 0x4)], 0, 8, .rw, .shadowed, 0, .fp, .keep, .no⟩

/-- R84: TXW.IQ_PHASE.PHASE [8:0]. -/
def Row.TXW_IQ_PHASE_PHASE : Row := ⟨86, 0x100120, [(2, 0x100000), (2, 0x4)], 0, 9, .rw, .shadowed, 0, .fp, .keep, .no⟩

/-- R84: TXW.CLIP_CNT.COUNT [31:0]. -/
def Row.TXW_CLIP_CNT_COUNT : Row := ⟨87, 0x100130, [(2, 0x100000)], 0, 32, .ro, .none, 0, .val, .keep, .live⟩

/-- R84: TXW.CLIP_CNT_PS.COUNT [31:0]. -/
def Row.TXW_CLIP_CNT_PS_COUNT : Row := ⟨88, 0x100134, [(2, 0x100000)], 0, 32, .ro, .none, 0, .val, .keep, .ps⟩

/-- R88: OPT.TX_FREQ.CH [28:16]. -/
def Row.OPT_TX_FREQ_CH : Row := ⟨89, 0x160000, [(2, 0x100000)], 16, 13, .rw, .live, 0, .fp, .keep, .no⟩

/-- R88: OPT.LO_FREQ.CH [28:16]. -/
def Row.OPT_LO_FREQ_CH : Row := ⟨90, 0x160004, [(2, 0x100000)], 16, 13, .rw, .live, 0, .fp, .keep, .no⟩

/-- R88: OPT.TX_FREQ.FINE [11:0]. -/
def Row.OPT_TX_FREQ_FINE : Row := ⟨91, 0x160000, [(2, 0x100000)], 0, 12, .rw, .live, 0, .fp, .sclamp (-1500) 1500, .no⟩

/-- R88: OPT.LO_FREQ.FINE [11:0]. -/
def Row.OPT_LO_FREQ_FINE : Row := ⟨92, 0x160004, [(2, 0x100000)], 0, 12, .rw, .live, 0, .fp, .sclamp (-1500) 1500, .no⟩

/-- R92: OPT.TX_CTL.ENABLE [31]. -/
def Row.OPT_TX_CTL_ENABLE : Row := ⟨93, 0x160010, [(2, 0x100000)], 31, 1, .rw, .live, 0, .fp, .keep, .no⟩

/-- R92: OPT.TX_CTL.RAMP_MS [24:16]. -/
def Row.OPT_TX_CTL_RAMP_MS : Row := ⟨94, 0x160010, [(2, 0x100000)], 16, 9, .rw, .live, 0, .fp, .clamp 1 500, .no⟩

/-- R92: OPT.TX_CTL.POWER [11:0]. -/
def Row.OPT_TX_CTL_POWER : Row := ⟨95, 0x160010, [(2, 0x100000)], 0, 12, .rw, .live, 0, .fp, .sclamp (-1000) 400, .no⟩

/-- R92: OPT.TX_STAT.STATE [31:29]. -/
def Row.OPT_TX_STAT_STATE : Row := ⟨96, 0x160014, [(2, 0x100000)], 29, 3, .ro, .none, 0, .val, .keep, .no⟩

/-- R92: OPT.TX_STAT.TXDIS_PIN [28]. -/
def Row.OPT_TX_STAT_TXDIS_PIN : Row := ⟨97, 0x160014, [(2, 0x100000)], 28, 1, .ro, .none, 1, .opened, .keep, .no⟩

/-- R92: OPT.TX_STAT.FREQ_LOCKED [27]. -/
def Row.OPT_TX_STAT_FREQ_LOCKED : Row := ⟨98, 0x160014, [(2, 0x100000)], 27, 1, .ro, .none, 0, .val, .keep, .no⟩

/-- R92: OPT.TX_STAT.LO_LOCKED [26]. -/
def Row.OPT_TX_STAT_LO_LOCKED : Row := ⟨99, 0x160014, [(2, 0x100000)], 26, 1, .ro, .none, 0, .val, .keep, .no⟩

/-- R92: OPT.TX_STAT.POWER_MEAS [12:0]. -/
def Row.OPT_TX_STAT_POWER_MEAS : Row := ⟨100, 0x160014, [(2, 0x100000)], 0, 13, .ro, .none, 4096, .opened, .keep, .no⟩

/-- R92: OPT.TX_EVT.LO_TUNE_FAIL [6]. -/
def Row.OPT_TX_EVT_LO_TUNE_FAIL : Row := ⟨101, 0x160018, [(2, 0x100000)], 6, 1, .w1c, .live, 0, .val, .keep, .no⟩

/-- R92: OPT.TX_EVT.LO_TUNE_DONE [5]. -/
def Row.OPT_TX_EVT_LO_TUNE_DONE : Row := ⟨102, 0x160018, [(2, 0x100000)], 5, 1, .w1c, .live, 0, .val, .keep, .no⟩

/-- R92: OPT.TX_EVT.TUNE_FAIL [4]. -/
def Row.OPT_TX_EVT_TUNE_FAIL : Row := ⟨103, 0x160018, [(2, 0x100000)], 4, 1, .w1c, .live, 0, .val, .keep, .no⟩

/-- R92: OPT.TX_EVT.POWER_OOR [3]. -/
def Row.OPT_TX_EVT_POWER_OOR : Row := ⟨104, 0x160018, [(2, 0x100000)], 3, 1, .w1c, .live, 0, .val, .keep, .no⟩

/-- R92: OPT.TX_EVT.TXDIS_EDGE [2]. -/
def Row.OPT_TX_EVT_TXDIS_EDGE : Row := ⟨105, 0x160018, [(2, 0x100000)], 2, 1, .w1c, .live, 0, .val, .keep, .no⟩

/-- R92: OPT.TX_EVT.TUNE_DONE [1]. -/
def Row.OPT_TX_EVT_TUNE_DONE : Row := ⟨106, 0x160018, [(2, 0x100000)], 1, 1, .w1c, .live, 0, .val, .keep, .no⟩

/-- R92: OPT.TX_EVT.RAMP_DONE [0]. -/
def Row.OPT_TX_EVT_RAMP_DONE : Row := ⟨107, 0x160018, [(2, 0x100000)], 0, 1, .w1c, .live, 0, .val, .keep, .no⟩

/-- R97: RXW.RATE.BAUD [10:0]. -/
def Row.RXW_RATE_BAUD : Row := ⟨108, 0x110010, [(2, 0x100000)], 0, 11, .rw, .frozen, 0, .fp, .clamp 224 1360, .no⟩

/-- R99: OPT.RX_LOS.HYST [20:16]. -/
def Row.OPT_RX_LOS_HYST : Row := ⟨109, 0x160020, [(2, 0x100000)], 16, 5, .rw, .live, 0, .fp, .clamp 0 30, .no⟩

/-- R99: OPT.RX_LOS.LOS_TH [12:0]. -/
def Row.OPT_RX_LOS_LOS_TH : Row := ⟨110, 0x160020, [(2, 0x100000)], 0, 13, .rw, .live, 0, .fp, .sclamp (-3000) (-1500), .no⟩

/-- R99: OPT.RX_STAT.LOS [31]. -/
def Row.OPT_RX_STAT_LOS : Row := ⟨111, 0x160024, [(2, 0x100000)], 31, 1, .ro, .none, 1, .val, .keep, .no⟩

/-- R99: OPT.RX_STAT.POWER_MEAS [12:0]. -/
def Row.OPT_RX_STAT_POWER_MEAS : Row := ⟨112, 0x160024, [(2, 0x100000)], 0, 13, .ro, .none, 4096, .opened, .keep, .no⟩

/-- R100: RXW.FR_STAT.LOCKED [31]. -/
def Row.RXW_FR_STAT_LOCKED : Row := ⟨113, 0x110404, [(2, 0x100000)], 31, 1, .ro, .none, 0, .val, .keep, .no⟩

/-- R100: RXW.FR_STAT.OFFSET [12:0]. -/
def Row.RXW_FR_STAT_OFFSET : Row := ⟨114, 0x110404, [(2, 0x100000)], 0, 13, .ro, .none, 0, .val, .keep, .no⟩

/-- R104: RXW.CD_CFG.MODE [31]. -/
def Row.RXW_CD_CFG_MODE : Row := ⟨115, 0x110100, [(2, 0x100000)], 31, 1, .rw, .shadowed, 0, .fp, .keep, .no⟩

/-- R104: RXW.CD_CFG.TRACK_EN [30]. -/
def Row.RXW_CD_CFG_TRACK_EN : Row := ⟨116, 0x110100, [(2, 0x100000)], 30, 1, .rw, .shadowed, 0, .fp, .keep, .no⟩

/-- R104: RXW.CD_CFG.CD_VALUE [18:0]. A value outside the printed range is kept as written (DESIGN CHOICE, assumption 50). -/
def Row.RXW_CD_CFG_CD_VALUE : Row := ⟨117, 0x110100, [(2, 0x100000)], 0, 19, .rw, .shadowed, 0, .fp, .keep, .no⟩

/-- R104: RXW.CD_WIN.HALF_WIDTH [15:0]. A value outside the printed range is kept as written (DESIGN CHOICE, assumption
50). -/
def Row.RXW_CD_WIN_HALF_WIDTH : Row := ⟨118, 0x110104, [(2, 0x100000)], 0, 16, .rw, .shadowed, 0, .fp, .keep, .no⟩

/-- R104: RXW.CD_STAT.VALID [31]. -/
def Row.RXW_CD_STAT_VALID : Row := ⟨119, 0x110110, [(2, 0x100000)], 31, 1, .ro, .none, 0, .val, .keep, .no⟩

/-- R104: RXW.CD_STAT.CD_EST [18:0]. -/
def Row.RXW_CD_STAT_CD_EST : Row := ⟨120, 0x110110, [(2, 0x100000)], 0, 19, .ro, .none, 0, .val, .keep, .no⟩

/-- R104: RXW.TAP_STAT.ALLOC [31:16]. -/
def Row.RXW_TAP_STAT_ALLOC : Row := ⟨121, 0x110114, [(2, 0x100000)], 16, 16, .ro, .none, 0, .fp, .keep, .no⟩

/-- R104: RXW.TAP_STAT.USED [15:0]. -/
def Row.RXW_TAP_STAT_USED : Row := ⟨122, 0x110114, [(2, 0x100000)], 0, 16, .ro, .none, 0, .val, .keep, .no⟩

/-- R104: RXW.CD_REACH.REACH [17:0]. -/
def Row.RXW_CD_REACH_REACH : Row := ⟨123, 0x110118, [(2, 0x100000)], 0, 18, .ro, .none, 0, .opened, .keep, .no⟩

/-- R105: RXW.TR_CFG.BW [1:0]. -/
def Row.RXW_TR_CFG_BW : Row := ⟨124, 0x110300, [(2, 0x100000)], 0, 2, .rw, .shadowed, 0, .fp, .keep, .no⟩

/-- R105: RXW.TR_STAT.LOCKED [31]. -/
def Row.RXW_TR_STAT_LOCKED : Row := ⟨125, 0x110304, [(2, 0x100000)], 31, 1, .ro, .none, 0, .val, .keep, .no⟩

/-- R105: RXW.TR_STAT.OFFSET [15:0]. -/
def Row.RXW_TR_STAT_OFFSET : Row := ⟨126, 0x110304, [(2, 0x100000)], 0, 16, .ro, .none, 0, .val, .keep, .no⟩

/-- R107: RXW.EQ_CFG.LEN [5:0]. -/
def Row.RXW_EQ_CFG_LEN : Row := ⟨127, 0x110240, [(2, 0x100000)], 0, 6, .rw, .frozen, 0, .fp, .odd 9 49, .no⟩

/-- R107: RXW.EQ_ADAPT.MU_ACQ [19:16]. A value below 4 is kept as written (DESIGN CHOICE, assumption 50). -/
def Row.RXW_EQ_ADAPT_MU_ACQ : Row := ⟨128, 0x110244, [(2, 0x100000)], 16, 4, .rw, .shadowed, 0, .fp, .keep, .no⟩

/-- R107: RXW.EQ_ADAPT.MU_TRK [11:8]. -/
def Row.RXW_EQ_ADAPT_MU_TRK : Row := ⟨129, 0x110244, [(2, 0x100000)], 8, 4, .rw, .shadowed, 0, .fp, .clamp 8 15, .no⟩

/-- R107: RXW.EQ_ADAPT.LEAK [3:0]. -/
def Row.RXW_EQ_ADAPT_LEAK : Row := ⟨130, 0x110244, [(2, 0x100000)], 0, 4, .rw, .shadowed, 0, .fp, .keep, .no⟩

/-- R107: RXW.EQ_STAT.CONVERGED [31]. -/
def Row.RXW_EQ_STAT_CONVERGED : Row := ⟨131, 0x110250, [(2, 0x100000)], 31, 1, .ro, .none, 0, .val, .keep, .no⟩

/-- R107: RXW.EQ_STAT.MODE [30:29]. -/
def Row.RXW_EQ_STAT_MODE : Row := ⟨132, 0x110250, [(2, 0x100000)], 29, 2, .ro, .none, 0, .val, .keep, .no⟩

/-- R107: RXW.EQ_STAT.DGD_EST [15:8]. -/
def Row.RXW_EQ_STAT_DGD_EST : Row := ⟨133, 0x110250, [(2, 0x100000)], 8, 8, .ro, .none, 0, .val, .keep, .no⟩

/-- R107: RXW.EQ_STAT.PDL_EST [7:0]. -/
def Row.RXW_EQ_STAT_PDL_EST : Row := ⟨134, 0x110250, [(2, 0x100000)], 0, 8, .ro, .none, 0, .val, .keep, .no⟩

/-- R107: RXW.SOP_PS.RATE [15:0]. -/
def Row.RXW_SOP_PS_RATE : Row := ⟨135, 0x110254, [(2, 0x100000)], 0, 16, .ro, .none, 0, .val, .keep, .ps⟩

/-- R108: RXW.PR_CFG.BLIND_EN [8]. -/
def Row.RXW_PR_CFG_BLIND_EN : Row := ⟨136, 0x110500, [(2, 0x100000)], 8, 1, .rw, .shadowed, 0, .fp, .keep, .no⟩

/-- R108: RXW.PR_CFG.WIN [3:0]. -/
def Row.RXW_PR_CFG_WIN : Row := ⟨137, 0x110500, [(2, 0x100000)], 0, 4, .rw, .shadowed, 0, .fp, .sub 0 1, .no⟩

/-- R110: RXW.DEMAP_CFG.NOISE_DIM [1]. -/
def Row.RXW_DEMAP_CFG_NOISE_DIM : Row := ⟨138, 0x110700, [(2, 0x100000)], 1, 1, .rw, .shadowed, 0, .fp, .keep, .no⟩

/-- R110: RXW.DEMAP_CFG.PRIOR_EN [0]. -/
def Row.RXW_DEMAP_CFG_PRIOR_EN : Row := ⟨139, 0x110700, [(2, 0x100000)], 0, 1, .rw, .shadowed, 0, .fp, .keep, .no⟩

/-- R114: RXW.SP2_CTL.MODE [31:30]. -/
def Row.RXW_SP2_CTL_MODE : Row := ⟨140, 0x110600, [(2, 0x100000)], 30, 2, .rw, .live, 0, .fp, .sub 3 0, .no⟩

/-- R114: RXW.SP2_CTL.ON_TH [15:8]. -/
def Row.RXW_SP2_CTL_ON_TH : Row := ⟨141, 0x110600, [(2, 0x100000)], 8, 8, .rw, .live, 0, .fp, .keep, .no⟩

/-- R114: RXW.SP2_CTL.OFF_TH [7:0]. -/
def Row.RXW_SP2_CTL_OFF_TH : Row := ⟨142, 0x110600, [(2, 0x100000)], 0, 8, .rw, .live, 0, .fp, .keep, .no⟩

/-- R114: RXW.SP2_STAT.ACTIVE [31]. -/
def Row.RXW_SP2_STAT_ACTIVE : Row := ⟨143, 0x110604, [(2, 0x100000)], 31, 1, .ro, .none, 0, .val, .keep, .no⟩

/-- R114: RXW.SP2_STAT.DRAINING [30]. -/
def Row.RXW_SP2_STAT_DRAINING : Row := ⟨144, 0x110604, [(2, 0x100000)], 30, 1, .ro, .none, 0, .val, .keep, .no⟩

/-- R114: RXW.SP2_STAT.WAIT_PWR [29]. -/
def Row.RXW_SP2_STAT_WAIT_PWR : Row := ⟨145, 0x110604, [(2, 0x100000)], 29, 1, .ro, .none, 0, .val, .keep, .no⟩

/-- R114: RXW.SP2_STAT.GAIN [15:0]. -/
def Row.RXW_SP2_STAT_GAIN : Row := ⟨146, 0x110604, [(2, 0x100000)], 0, 16, .ro, .none, 0, .val, .keep, .ps⟩

/-- R116: RXW.FOM_CFG.AVG [3:0]. -/
def Row.RXW_FOM_CFG_AVG : Row := ⟨147, 0x110800, [(2, 0x100000)], 0, 4, .rw, .live, 0, .fp, .clamp 0 10, .no⟩

/-- R119: RXW.RX_CTL.WARM [1]. -/
def Row.RXW_RX_CTL_WARM : Row := ⟨148, 0x110000, [(2, 0x100000)], 1, 1, .wo, .live, 0, .val, .keep, .no⟩

/-- R119: RXW.RX_CTL.REACQ [0]. -/
def Row.RXW_RX_CTL_REACQ : Row := ⟨149, 0x110000, [(2, 0x100000)], 0, 1, .wo, .live, 0, .val, .keep, .no⟩

/-- R119: RXW.RX_STAT.STATE [31:28]. -/
def Row.RXW_RX_STAT_STATE : Row := ⟨150, 0x110004, [(2, 0x100000)], 28, 4, .ro, .none, 0, .val, .keep, .no⟩

/-- R119: RXW.RX_STAT.FAIL_REASON [27:24]. -/
def Row.RXW_RX_STAT_FAIL_REASON : Row := ⟨151, 0x110004, [(2, 0x100000)], 24, 4, .ro, .none, 0, .val, .keep, .no⟩

/-- R119: RXW.RX_STAT.WARM_USED [23]. -/
def Row.RXW_RX_STAT_WARM_USED : Row := ⟨152, 0x110004, [(2, 0x100000)], 23, 1, .ro, .none, 0, .val, .keep, .no⟩

/-- R119: RXW.RX_STAT.ACQ_COUNT [15:0]. -/
def Row.RXW_RX_STAT_ACQ_COUNT : Row := ⟨153, 0x110004, [(2, 0x100000)], 0, 16, .ro, .none, 0, .val, .keep, .live⟩

/-- R119: RXW.RX_EVT.EQ_RECONV [5]. -/
def Row.RXW_RX_EVT_EQ_RECONV : Row := ⟨154, 0x110008, [(2, 0x100000)], 5, 1, .w1c, .live, 0, .val, .keep, .no⟩

/-- R119: RXW.RX_EVT.CD_RANGE [4]. -/
def Row.RXW_RX_EVT_CD_RANGE : Row := ⟨155, 0x110008, [(2, 0x100000)], 4, 1, .w1c, .live, 0, .val, .keep, .no⟩

/-- R119: RXW.RX_EVT.SP2_CHANGE [3]. -/
def Row.RXW_RX_EVT_SP2_CHANGE : Row := ⟨156, 0x110008, [(2, 0x100000)], 3, 1, .w1c, .live, 0, .val, .keep, .no⟩

/-- R119: RXW.RX_EVT.ACQ_FAIL [2]. -/
def Row.RXW_RX_EVT_ACQ_FAIL : Row := ⟨157, 0x110008, [(2, 0x100000)], 2, 1, .w1c, .live, 0, .val, .keep, .no⟩

/-- R119: RXW.RX_EVT.READY_FALL [1]. -/
def Row.RXW_RX_EVT_READY_FALL : Row := ⟨158, 0x110008, [(2, 0x100000)], 1, 1, .w1c, .live, 0, .val, .keep, .no⟩

/-- R119: RXW.RX_EVT.READY_RISE [0]. -/
def Row.RXW_RX_EVT_READY_RISE : Row := ⟨159, 0x110008, [(2, 0x100000)], 0, 1, .w1c, .live, 0, .val, .keep, .no⟩

/-- R108: RXW.PR_SLIP.COUNT [31:0]. -/
def Row.RXW_PR_SLIP_COUNT : Row := ⟨160, 0x110504, [(2, 0x100000)], 0, 32, .ro, .none, 0, .val, .keep, .live⟩

/-- R108: RXW.PR_SLIP_PS.COUNT [31:0]. -/
def Row.RXW_PR_SLIP_PS_COUNT : Row := ⟨161, 0x110508, [(2, 0x100000)], 0, 32, .ro, .none, 0, .val, .keep, .ps⟩

/-- R116: RXW.FOM_SNR.SNR_X [31:16]. -/
def Row.RXW_FOM_SNR_SNR_X : Row := ⟨162, 0x110810, [(2, 0x100000)], 16, 16, .ro, .none, 0, .val, .keep, .no⟩

/-- R116: RXW.FOM_SNR.SNR_Y [15:0]. -/
def Row.RXW_FOM_SNR_SNR_Y : Row := ⟨163, 0x110810, [(2, 0x100000)], 0, 16, .ro, .none, 0, .val, .keep, .no⟩

/-- R116: RXW.FOM_EFF.SNR_EFF [31:16]. -/
def Row.RXW_FOM_EFF_SNR_EFF : Row := ⟨164, 0x110814, [(2, 0x100000)], 16, 16, .ro, .none, 0, .val, .keep, .no⟩

/-- R116: RXW.FOM_EFF.SNR_P1 [15:0]. -/
def Row.RXW_FOM_EFF_SNR_P1 : Row := ⟨165, 0x110814, [(2, 0x100000)], 0, 16, .ro, .none, 0, .val, .keep, .no⟩

/-- R116: RXW.FOM_GMI.GMI [31:16]. -/
def Row.RXW_FOM_GMI_GMI : Row := ⟨166, 0x110818, [(2, 0x100000)], 16, 16, .ro, .none, 0, .val, .keep, .no⟩

/-- R116: RXW.FOM_GMI.NGMI [15:0]. -/
def Row.RXW_FOM_GMI_NGMI : Row := ⟨167, 0x110818, [(2, 0x100000)], 0, 16, .ro, .none, 0, .val, .keep, .no⟩

/-- R116: RXW.FOM_OSNR.SAT [31]. -/
def Row.RXW_FOM_OSNR_SAT : Row := ⟨168, 0x11081C, [(2, 0x100000)], 31, 1, .ro, .none, 1, .val, .keep, .no⟩

/-- R116: RXW.FOM_OSNR.OSNR_EST [15:0]. -/
def Row.RXW_FOM_OSNR_OSNR_EST : Row := ⟨169, 0x11081C, [(2, 0x100000)], 0, 16, .ro, .none, 65535, .val, .keep, .no⟩

/-- R116: RXW.FOM_MARGIN.SNR_REQ [31:16]. -/
def Row.RXW_FOM_MARGIN_SNR_REQ : Row := ⟨170, 0x110820, [(2, 0x100000)], 16, 16, .ro, .none, 0, .val, .keep, .no⟩

/-- R116: RXW.FOM_MARGIN.MARGIN [15:0]. -/
def Row.RXW_FOM_MARGIN_MARGIN : Row := ⟨171, 0x110820, [(2, 0x100000)], 0, 16, .ro, .none, 0, .val, .keep, .no⟩

/-- R116: RXW.FOM_SNR_PS.SNR_X [31:16]. -/
def Row.RXW_FOM_SNR_PS_SNR_X : Row := ⟨172, 0x110830, [(2, 0x100000)], 16, 16, .ro, .none, 0, .val, .keep, .ps⟩

/-- R116: RXW.FOM_SNR_PS.SNR_Y [15:0]. -/
def Row.RXW_FOM_SNR_PS_SNR_Y : Row := ⟨173, 0x110830, [(2, 0x100000)], 0, 16, .ro, .none, 0, .val, .keep, .ps⟩

/-- R116: RXW.FOM_EFF_PS.SNR_EFF [31:16]. -/
def Row.RXW_FOM_EFF_PS_SNR_EFF : Row := ⟨174, 0x110834, [(2, 0x100000)], 16, 16, .ro, .none, 0, .val, .keep, .ps⟩

/-- R116: RXW.FOM_EFF_PS.SNR_P1 [15:0]. -/
def Row.RXW_FOM_EFF_PS_SNR_P1 : Row := ⟨175, 0x110834, [(2, 0x100000)], 0, 16, .ro, .none, 0, .val, .keep, .ps⟩

/-- R116: RXW.FOM_GMI_PS.GMI [31:16]. -/
def Row.RXW_FOM_GMI_PS_GMI : Row := ⟨176, 0x110838, [(2, 0x100000)], 16, 16, .ro, .none, 0, .val, .keep, .ps⟩

/-- R116: RXW.FOM_GMI_PS.NGMI [15:0]. -/
def Row.RXW_FOM_GMI_PS_NGMI : Row := ⟨177, 0x110838, [(2, 0x100000)], 0, 16, .ro, .none, 0, .val, .keep, .ps⟩

/-- R116: RXW.FOM_OSNR_PS.SAT [31]. -/
def Row.RXW_FOM_OSNR_PS_SAT : Row := ⟨178, 0x11083C, [(2, 0x100000)], 31, 1, .ro, .none, 1, .val, .keep, .ps⟩

/-- R116: RXW.FOM_OSNR_PS.OSNR_EST [15:0]. -/
def Row.RXW_FOM_OSNR_PS_OSNR_EST : Row := ⟨179, 0x11083C, [(2, 0x100000)], 0, 16, .ro, .none, 65535, .val, .keep, .ps⟩

/-- R116: RXW.FOM_MARGIN_PS.SNR_REQ [31:16]. -/
def Row.RXW_FOM_MARGIN_PS_SNR_REQ : Row := ⟨180, 0x110840, [(2, 0x100000)], 16, 16, .ro, .none, 0, .val, .keep, .ps⟩

/-- R116: RXW.FOM_MARGIN_PS.MARGIN [15:0]. -/
def Row.RXW_FOM_MARGIN_PS_MARGIN : Row := ⟨181, 0x110840, [(2, 0x100000)], 0, 16, .ro, .none, 0, .val, .keep, .ps⟩

/-- R122: CNV.ADC_CLK.LOCKED [31]. -/
def Row.CNV_ADC_CLK_LOCKED : Row := ⟨182, 0x120000, [(2, 0x100000)], 31, 1, .ro, .none, 0, .val, .keep, .no⟩

/-- R122: CNV.DAC_CLK.LOCKED [31]. -/
def Row.CNV_DAC_CLK_LOCKED : Row := ⟨183, 0x120004, [(2, 0x100000)], 31, 1, .ro, .none, 0, .val, .keep, .no⟩

/-- R122: CNV.ADC_CLK.FS [18:0]. -/
def Row.CNV_ADC_CLK_FS : Row := ⟨184, 0x120000, [(2, 0x100000)], 0, 19, .ro, .none, 0, .opened, .keep, .no⟩

/-- R122: CNV.DAC_CLK.FS [18:0]. -/
def Row.CNV_DAC_CLK_FS : Row := ⟨185, 0x120004, [(2, 0x100000)], 0, 19, .ro, .none, 0, .opened, .keep, .no⟩

/-- R137: CNV.CAL_CTL.BG_EN [31]. -/
def Row.CNV_CAL_CTL_BG_EN : Row := ⟨186, 0x120010, [(2, 0x100000)], 31, 1, .rw, .shadowed, 0, .fp, .keep, .no⟩

/-- R137: CNV.CAL_CTL.RESTART [30]. -/
def Row.CNV_CAL_CTL_RESTART : Row := ⟨187, 0x120010, [(2, 0x100000)], 30, 1, .wo, .live, 0, .val, .keep, .no⟩

/-- R137: CNV.CAL_CTL.DWELL [7:0]. -/
def Row.CNV_CAL_CTL_DWELL : Row := ⟨188, 0x120010, [(2, 0x100000)], 0, 8, .rw, .shadowed, 0, .fp, .keep, .no⟩

/-- R137: CNV.CAL_STAT.ROTATING [31]. -/
def Row.CNV_CAL_STAT_ROTATING : Row := ⟨189, 0x120020, [(2, 0x100000), (4, 0x4)], 31, 1, .ro, .none, 0, .val, .keep, .no⟩

/-- R137: CNV.CAL_STAT.PARKED [30]. -/
def Row.CNV_CAL_STAT_PARKED : Row := ⟨190, 0x120020, [(2, 0x100000), (4, 0x4)], 30, 1, .ro, .none, 0, .val, .keep, .no⟩

/-- R137: CNV.CAL_STAT.RISING [29]. -/
def Row.CNV_CAL_STAT_RISING : Row := ⟨191, 0x120020, [(2, 0x100000), (4, 0x4)], 29, 1, .ro, .none, 0, .val, .keep, .no⟩

/-- R137: CNV.CAL_STAT.CALIBRATING [28]. -/
def Row.CNV_CAL_STAT_CALIBRATING : Row := ⟨192, 0x120020, [(2, 0x100000), (4, 0x4)], 28, 1, .ro, .none, 0, .val, .keep, .no⟩

/-- R137: CNV.CAL_STAT.SPARE [22:16]. -/
def Row.CNV_CAL_STAT_SPARE : Row := ⟨193, 0x120020, [(2, 0x100000), (4, 0x4)], 16, 7, .ro, .none, 64, .val, .keep, .no⟩

/-- R137: CNV.CAL_STAT.SKEW_SKIPPED [15:8]. -/
def Row.CNV_CAL_STAT_SKEW_SKIPPED : Row := ⟨194, 0x120020, [(2, 0x100000), (4, 0x4)], 8, 8, .ro, .none, 0, .val, .keep, .live⟩

/-- R137: CNV.CAL_STAT.SWEEPS [7:0]. -/
def Row.CNV_CAL_STAT_SWEEPS : Row := ⟨195, 0x120020, [(2, 0x100000), (4, 0x4)], 0, 8, .ro, .none, 0, .val, .keep, .live⟩

/-- R137: CNV.PARK.EN [31]. -/
def Row.CNV_PARK_EN : Row := ⟨196, 0x120030, [(2, 0x100000), (4, 0x4)], 31, 1, .rw, .live, 0, .val, .keep, .no⟩

/-- R137: CNV.PARK.SLICE [6:0]. -/
def Row.CNV_PARK_SLICE : Row := ⟨197, 0x120030, [(2, 0x100000), (4, 0x4)], 0, 7, .rw, .live, 0, .val, .clamp 0 64, .no⟩

/-- R137: CNV.QUAL.VALID [31]. -/
def Row.CNV_QUAL_VALID : Row := ⟨198, 0x120040, [(2, 0x100000), (4, 0x4)], 31, 1, .ro, .none, 0, .val, .keep, .no⟩

/-- R137: CNV.DAC_QUAL.VALID [31]. -/
def Row.CNV_DAC_QUAL_VALID : Row := ⟨199, 0x120050, [(2, 0x100000), (4, 0x4)], 31, 1, .ro, .none, 0, .val, .keep, .no⟩

/-- R137: CNV.QUAL.RES_SKEW [27:16]. -/
def Row.CNV_QUAL_RES_SKEW : Row := ⟨200, 0x120040, [(2, 0x100000), (4, 0x4)], 16, 12, .ro, .none, 0, .val, .keep, .no⟩

/-- R137: CNV.DAC_QUAL.RES_SKEW [27:16]. -/
def Row.CNV_DAC_QUAL_RES_SKEW : Row := ⟨201, 0x120050, [(2, 0x100000), (4, 0x4)], 16, 12, .ro, .none, 0, .val, .keep, .no⟩

/-- R137: CNV.QUAL.RES_SPUR [15:0]. -/
def Row.CNV_QUAL_RES_SPUR : Row := ⟨202, 0x120040, [(2, 0x100000), (4, 0x4)], 0, 16, .ro, .none, 0, .val, .keep, .no⟩

/-- R137: CNV.DAC_QUAL.RES_SPUR [15:0]. -/
def Row.CNV_DAC_QUAL_RES_SPUR : Row := ⟨203, 0x120050, [(2, 0x100000), (4, 0x4)], 0, 16, .ro, .none, 0, .val, .keep, .no⟩

/-- R137: CNV.DAC_CAL.BUSY [31]. -/
def Row.CNV_DAC_CAL_BUSY : Row := ⟨204, 0x120060, [(2, 0x100000)], 31, 1, .ro, .none, 0, .val, .keep, .no⟩

/-- R137: CNV.DAC_CAL.REFUSED [30]. -/
def Row.CNV_DAC_CAL_REFUSED : Row := ⟨205, 0x120060, [(2, 0x100000)], 30, 1, .w1c, .live, 0, .val, .keep, .no⟩

/-- R137: CNV.DAC_CAL.DONE [29]. -/
def Row.CNV_DAC_CAL_DONE : Row := ⟨206, 0x120060, [(2, 0x100000)], 29, 1, .w1c, .live, 0, .val, .keep, .no⟩

/-- R137: CNV.DAC_CAL.START [0]. -/
def Row.CNV_DAC_CAL_START : Row := ⟨207, 0x120060, [(2, 0x100000)], 0, 1, .wo, .live, 0, .val, .keep, .no⟩

/-- R137: CNV.EVT.DAC_CAL_DONE [2]. -/
def Row.CNV_EVT_DAC_CAL_DONE : Row := ⟨208, 0x120070, [(2, 0x100000)], 2, 1, .w1c, .live, 0, .val, .keep, .no⟩

/-- R137: CNV.EVT.PARK_DONE [1]. -/
def Row.CNV_EVT_PARK_DONE : Row := ⟨209, 0x120070, [(2, 0x100000)], 1, 1, .w1c, .live, 0, .val, .keep, .no⟩

/-- R137: CNV.EVT.SWEEP_DONE [0]. -/
def Row.CNV_EVT_SWEEP_DONE : Row := ⟨210, 0x120070, [(2, 0x100000)], 0, 1, .w1c, .live, 0, .val, .keep, .no⟩

/-- R137: CNV.TRIM.SKEW_TAP [31:22]. -/
def Row.CNV_TRIM_SKEW_TAP : Row := ⟨211, 0x120400, [(2, 0x100000), (4, 0x200), (65, 0x4)], 22, 10, .ro, .none, 512, .val, .keep, .no⟩

/-- R137: CNV.TRIM.GAIN [15:8]. -/
def Row.CNV_TRIM_GAIN : Row := ⟨212, 0x120400, [(2, 0x100000), (4, 0x200), (65, 0x4)], 8, 8, .ro, .none, 0, .val, .keep, .no⟩

/-- R137: CNV.TRIM.OFFSET [7:0]. -/
def Row.CNV_TRIM_OFFSET : Row := ⟨213, 0x120400, [(2, 0x100000), (4, 0x200), (65, 0x4)], 0, 8, .ro, .none, 0, .val, .keep, .no⟩

/-- R137: CNV.DIM_SUM_LO.SUM [31:0]. -/
def Row.CNV_DIM_SUM_LO_SUM : Row := ⟨214, 0x121000, [(2, 0x100000), (4, 0x20)], 0, 32, .ro, .none, 0, .val, .keep, .ps⟩

/-- R137: CNV.DIM_SUM_HI.SUM [31:0]. -/
def Row.CNV_DIM_SUM_HI_SUM : Row := ⟨215, 0x121004, [(2, 0x100000), (4, 0x20)], 0, 32, .ro, .none, 0, .val, .keep, .ps⟩

/-- R137: CNV.DIM_SQ_LO.SQ [31:0]. -/
def Row.CNV_DIM_SQ_LO_SQ : Row := ⟨216, 0x121008, [(2, 0x100000), (4, 0x20)], 0, 32, .ro, .none, 0, .val, .keep, .ps⟩

/-- R137: CNV.DIM_SQ_HI.SQ [31:0]. -/
def Row.CNV_DIM_SQ_HI_SQ : Row := ⟨217, 0x12100C, [(2, 0x100000), (4, 0x20)], 0, 32, .ro, .none, 0, .val, .keep, .ps⟩

/-- R137: CNV.DIM_CNT_LO.CNT [31:0]. -/
def Row.CNV_DIM_CNT_LO_CNT : Row := ⟨218, 0x121010, [(2, 0x100000), (4, 0x20)], 0, 32, .ro, .none, 0, .val, .keep, .ps⟩

/-- R137: CNV.DIM_CNT_HI.CNT [31:0]. -/
def Row.CNV_DIM_CNT_HI_CNT : Row := ⟨219, 0x121014, [(2, 0x100000), (4, 0x20)], 0, 32, .ro, .none, 0, .val, .keep, .ps⟩

/-- R137: CNV.DIM_MINMAX.MAX [15:8]. -/
def Row.CNV_DIM_MINMAX_MAX : Row := ⟨220, 0x121018, [(2, 0x100000), (4, 0x20)], 8, 8, .ro, .none, 0, .val, .keep, .ps⟩

/-- R137: CNV.DIM_MINMAX.MIN [7:0]. -/
def Row.CNV_DIM_MINMAX_MIN : Row := ⟨221, 0x121018, [(2, 0x100000), (4, 0x20)], 0, 8, .ro, .none, 0, .val, .keep, .ps⟩

/-- R137: CNV.DIM_FLAGS.STALE [31]. -/
def Row.CNV_DIM_FLAGS_STALE : Row := ⟨222, 0x12101C, [(2, 0x100000), (4, 0x20)], 31, 1, .ro, .none, 1, .val, .keep, .ps⟩

/-- R137: CNV.DIM_FLAGS.IN_SERVICE [30]. The table gives the reset value 0 and "always 1": 0 until the first latch (DEDUCED,
assumption 67). -/
def Row.CNV_DIM_FLAGS_IN_SERVICE : Row := ⟨223, 0x12101C, [(2, 0x100000), (4, 0x20)], 30, 1, .ro, .none, 0, .val, .keep, .ps⟩

/-- R137: CNV.DIM_FLAGS.POSITION [29:24]. -/
def Row.CNV_DIM_FLAGS_POSITION : Row := ⟨224, 0x12101C, [(2, 0x100000), (4, 0x20)], 24, 6, .ro, .none, 0, .val, .keep, .ps⟩

/-- R137: CNV.DIM_FLAGS.FULL_SCALE [23:0]. -/
def Row.CNV_DIM_FLAGS_FULL_SCALE : Row := ⟨225, 0x12101C, [(2, 0x100000), (4, 0x20)], 0, 24, .ro, .none, 0, .val, .keep, .ps⟩

/-- R137: CNV.SLICE_SUM_LO.SUM [31:0]. -/
def Row.CNV_SLICE_SUM_LO_SUM : Row := ⟨226, 0x122000, [(2, 0x100000), (4, 0x1000), (65, 0x20)], 0, 32, .ro, .none, 0, .val, .keep, .ps⟩

/-- R137: CNV.SLICE_SUM_HI.SUM [31:0]. -/
def Row.CNV_SLICE_SUM_HI_SUM : Row := ⟨227, 0x122004, [(2, 0x100000), (4, 0x1000), (65, 0x20)], 0, 32, .ro, .none, 0, .val, .keep, .ps⟩

/-- R137: CNV.SLICE_SQ_LO.SQ [31:0]. -/
def Row.CNV_SLICE_SQ_LO_SQ : Row := ⟨228, 0x122008, [(2, 0x100000), (4, 0x1000), (65, 0x20)], 0, 32, .ro, .none, 0, .val, .keep, .ps⟩

/-- R137: CNV.SLICE_SQ_HI.SQ [31:0]. -/
def Row.CNV_SLICE_SQ_HI_SQ : Row := ⟨229, 0x12200C, [(2, 0x100000), (4, 0x1000), (65, 0x20)], 0, 32, .ro, .none, 0, .val, .keep, .ps⟩

/-- R137: CNV.SLICE_CNT_LO.CNT [31:0]. -/
def Row.CNV_SLICE_CNT_LO_CNT : Row := ⟨230, 0x122010, [(2, 0x100000), (4, 0x1000), (65, 0x20)], 0, 32, .ro, .none, 0, .val, .keep, .ps⟩

/-- R137: CNV.SLICE_CNT_HI.CNT [31:0]. -/
def Row.CNV_SLICE_CNT_HI_CNT : Row := ⟨231, 0x122014, [(2, 0x100000), (4, 0x1000), (65, 0x20)], 0, 32, .ro, .none, 0, .val, .keep, .ps⟩

/-- R137: CNV.SLICE_MINMAX.MAX [15:8]. -/
def Row.CNV_SLICE_MINMAX_MAX : Row := ⟨232, 0x122018, [(2, 0x100000), (4, 0x1000), (65, 0x20)], 8, 8, .ro, .none, 0, .val, .keep, .ps⟩

/-- R137: CNV.SLICE_MINMAX.MIN [7:0]. -/
def Row.CNV_SLICE_MINMAX_MIN : Row := ⟨233, 0x122018, [(2, 0x100000), (4, 0x1000), (65, 0x20)], 0, 8, .ro, .none, 0, .val, .keep, .ps⟩

/-- R137: CNV.SLICE_FLAGS.STALE [31]. -/
def Row.CNV_SLICE_FLAGS_STALE : Row := ⟨234, 0x12201C, [(2, 0x100000), (4, 0x1000), (65, 0x20)], 31, 1, .ro, .none, 1, .val, .keep, .ps⟩

/-- R137: CNV.SLICE_FLAGS.IN_SERVICE [30]. -/
def Row.CNV_SLICE_FLAGS_IN_SERVICE : Row := ⟨235, 0x12201C, [(2, 0x100000), (4, 0x1000), (65, 0x20)], 30, 1, .ro, .none, 0, .val, .keep, .ps⟩

/-- R137: CNV.SLICE_FLAGS.POSITION [29:24]. -/
def Row.CNV_SLICE_FLAGS_POSITION : Row := ⟨236, 0x12201C, [(2, 0x100000), (4, 0x1000), (65, 0x20)], 24, 6, .ro, .none, 0, .val, .keep, .ps⟩

/-- R137: CNV.SLICE_FLAGS.FULL_SCALE [23:0]. -/
def Row.CNV_SLICE_FLAGS_FULL_SCALE : Row := ⟨237, 0x12201C, [(2, 0x100000), (4, 0x1000), (65, 0x20)], 0, 24, .ro, .none, 0, .val, .keep, .ps⟩

/-- R175: FEC.CFG.EARLY_STOP [4]. -/
def Row.FEC_CFG_EARLY_STOP : Row := ⟨276, 0x130000, [(2, 0x100000)], 4, 1, .rw, .live, 0, .fp, .keep, .no⟩

/-- R175: FEC.CFG.ITER_MAX [3:0]. -/
def Row.FEC_CFG_ITER_MAX : Row := ⟨277, 0x130000, [(2, 0x100000)], 0, 4, .rw, .live, 0, .fp, .clamp 1 12, .no⟩

/-- R175: FEC.STAT.LOCKED [31]. -/
def Row.FEC_STAT_LOCKED : Row := ⟨278, 0x130004, [(2, 0x100000)], 31, 1, .ro, .none, 0, .val, .keep, .no⟩

/-- R175: FEC.STAT.SF [30]. -/
def Row.FEC_STAT_SF : Row := ⟨279, 0x130004, [(2, 0x100000)], 30, 1, .ro, .none, 1, .val, .keep, .no⟩

/-- R175: FEC.STAT.SD [29]. -/
def Row.FEC_STAT_SD : Row := ⟨280, 0x130004, [(2, 0x100000)], 29, 1, .ro, .none, 0, .val, .keep, .no⟩

/-- R175: FEC.STAT.PROFILE_RX [28]. -/
def Row.FEC_STAT_PROFILE_RX : Row := ⟨281, 0x130004, [(2, 0x100000)], 28, 1, .ro, .none, 0, .val, .keep, .no⟩

/-- R175: FEC.STAT.PROFILE_TX [27]. -/
def Row.FEC_STAT_PROFILE_TX : Row := ⟨282, 0x130004, [(2, 0x100000)], 27, 1, .ro, .none, 0, .val, .keep, .no⟩

/-- R175: FEC.EVT.LOCK_LOSS [3]. -/
def Row.FEC_EVT_LOCK_LOSS : Row := ⟨283, 0x130008, [(2, 0x100000)], 3, 1, .w1c, .live, 0, .val, .keep, .no⟩

/-- R175: FEC.EVT.LOCK [2]. -/
def Row.FEC_EVT_LOCK : Row := ⟨284, 0x130008, [(2, 0x100000)], 2, 1, .w1c, .live, 0, .val, .keep, .no⟩

/-- R175: FEC.EVT.SD_CHANGE [1]. -/
def Row.FEC_EVT_SD_CHANGE : Row := ⟨285, 0x130008, [(2, 0x100000)], 1, 1, .w1c, .live, 0, .val, .keep, .no⟩

/-- R175: FEC.EVT.SF_CHANGE [0]. -/
def Row.FEC_EVT_SF_CHANGE : Row := ⟨286, 0x130008, [(2, 0x100000)], 0, 1, .w1c, .live, 0, .val, .keep, .no⟩

/-- R175: FEC.SF_CFG.SD_TH [22:16]. -/
def Row.FEC_SF_CFG_SD_TH : Row := ⟨287, 0x130010, [(2, 0x100000)], 16, 7, .rw, .shadowed, 0, .fp, .clamp 1 64, .no⟩

/-- R175: FEC.SF_CFG.SF_TH [9:0]. -/
def Row.FEC_SF_CFG_SF_TH : Row := ⟨288, 0x130010, [(2, 0x100000)], 0, 10, .rw, .shadowed, 0, .fp, .sub 0 1, .no⟩

/-- R175: FEC.INJ.EN [31]. -/
def Row.FEC_INJ_EN : Row := ⟨289, 0x130018, [(2, 0x100000)], 31, 1, .rw, .live, 0, .val, .keep, .no⟩

/-- R175: FEC.INJ.EXP [4:0]. -/
def Row.FEC_INJ_EXP : Row := ⟨290, 0x130018, [(2, 0x100000)], 0, 5, .rw, .live, 0, .val, .clamp 6 30, .no⟩

/-- R175: FEC.ACCT_A.DM_BITS [27:16]. -/
def Row.FEC_ACCT_A_DM_BITS : Row := ⟨291, 0x130020, [(2, 0x100000), (2, 0x10)], 16, 12, .ro, .none, 0, .val, .keep, .no⟩

/-- R175: FEC.ACCT_A.BLOCKS [10:0]. -/
def Row.FEC_ACCT_A_BLOCKS : Row := ⟨292, 0x130020, [(2, 0x100000), (2, 0x10)], 0, 11, .ro, .none, 0, .val, .keep, .no⟩

/-- R175: FEC.ACCT_P.PARITY [23:0]. -/
def Row.FEC_ACCT_P_PARITY : Row := ⟨293, 0x130024, [(2, 0x100000), (2, 0x10)], 0, 24, .ro, .none, 0, .val, .keep, .no⟩

/-- R175: FEC.ACCT_I.INFO [25:0]. -/
def Row.FEC_ACCT_I_INFO : Row := ⟨294, 0x130028, [(2, 0x100000), (2, 0x10)], 0, 26, .ro, .none, 0, .val, .keep, .no⟩

/-- R175: FEC.BLOCKS_LO.BLOCKS [31:0]. -/
def Row.FEC_BLOCKS_LO_BLOCKS : Row := ⟨295, 0x130100, [(2, 0x100000)], 0, 32, .ro, .none, 0, .val, .keep, .live⟩

/-- R175: FEC.BLOCKS_HI.BLOCKS [31:0]. -/
def Row.FEC_BLOCKS_HI_BLOCKS : Row := ⟨296, 0x130104, [(2, 0x100000)], 0, 32, .ro, .none, 0, .val, .keep, .live⟩

/-- R175: FEC.UNCORR_LO.UNCORR [31:0]. -/
def Row.FEC_UNCORR_LO_UNCORR : Row := ⟨297, 0x130108, [(2, 0x100000)], 0, 32, .ro, .none, 0, .val, .keep, .live⟩

/-- R175: FEC.UNCORR_HI.UNCORR [31:0]. -/
def Row.FEC_UNCORR_HI_UNCORR : Row := ⟨298, 0x13010C, [(2, 0x100000)], 0, 32, .ro, .none, 0, .val, .keep, .live⟩

/-- R175: FEC.UNCORR_P1_LO.UNCORR_P1 [31:0]. -/
def Row.FEC_UNCORR_P1_LO_UNCORR_P1 : Row := ⟨299, 0x130110, [(2, 0x100000)], 0, 32, .ro, .none, 0, .val, .keep, .live⟩

/-- R175: FEC.UNCORR_P1_HI.UNCORR_P1 [31:0]. -/
def Row.FEC_UNCORR_P1_HI_UNCORR_P1 : Row := ⟨300, 0x130114, [(2, 0x100000)], 0, 32, .ro, .none, 0, .val, .keep, .live⟩

/-- R175: FEC.BITS_LO.BITS [31:0]. -/
def Row.FEC_BITS_LO_BITS : Row := ⟨301, 0x130118, [(2, 0x100000)], 0, 32, .ro, .none, 0, .val, .keep, .live⟩

/-- R175: FEC.BITS_HI.BITS [31:0]. -/
def Row.FEC_BITS_HI_BITS : Row := ⟨302, 0x13011C, [(2, 0x100000)], 0, 32, .ro, .none, 0, .val, .keep, .live⟩

/-- R175: FEC.ERR_BITS_LO.ERR_BITS [31:0]. -/
def Row.FEC_ERR_BITS_LO_ERR_BITS : Row := ⟨303, 0x130120, [(2, 0x100000)], 0, 32, .ro, .none, 0, .val, .keep, .live⟩

/-- R175: FEC.ERR_BITS_HI.ERR_BITS [31:0]. -/
def Row.FEC_ERR_BITS_HI_ERR_BITS : Row := ⟨304, 0x130124, [(2, 0x100000)], 0, 32, .ro, .none, 0, .val, .keep, .live⟩

/-- R175: FEC.DEMATCH_LO.DEMATCH_ERR [31:0]. -/
def Row.FEC_DEMATCH_LO_DEMATCH_ERR : Row := ⟨305, 0x130128, [(2, 0x100000)], 0, 32, .ro, .none, 0, .val, .keep, .live⟩

/-- R175: FEC.DEMATCH_HI.DEMATCH_ERR [31:0]. -/
def Row.FEC_DEMATCH_HI_DEMATCH_ERR : Row := ⟨306, 0x13012C, [(2, 0x100000)], 0, 32, .ro, .none, 0, .val, .keep, .live⟩

/-- R175: FEC.ITER_LO.ITER_SUM [31:0]. -/
def Row.FEC_ITER_LO_ITER_SUM : Row := ⟨307, 0x130130, [(2, 0x100000)], 0, 32, .ro, .none, 0, .val, .keep, .live⟩

/-- R175: FEC.ITER_HI.ITER_SUM [31:0]. -/
def Row.FEC_ITER_HI_ITER_SUM : Row := ⟨308, 0x130134, [(2, 0x100000)], 0, 32, .ro, .none, 0, .val, .keep, .live⟩

/-- R175: FEC.BLOCKS_PS_LO.BLOCKS [31:0]. -/
def Row.FEC_BLOCKS_PS_LO_BLOCKS : Row := ⟨309, 0x130140, [(2, 0x100000)], 0, 32, .ro, .none, 0, .val, .keep, .ps⟩

/-- R175: FEC.BLOCKS_PS_HI.BLOCKS [31:0]. -/
def Row.FEC_BLOCKS_PS_HI_BLOCKS : Row := ⟨310, 0x130144, [(2, 0x100000)], 0, 32, .ro, .none, 0, .val, .keep, .ps⟩

/-- R175: FEC.UNCORR_PS_LO.UNCORR [31:0]. -/
def Row.FEC_UNCORR_PS_LO_UNCORR : Row := ⟨311, 0x130148, [(2, 0x100000)], 0, 32, .ro, .none, 0, .val, .keep, .ps⟩

/-- R175: FEC.UNCORR_PS_HI.UNCORR [31:0]. -/
def Row.FEC_UNCORR_PS_HI_UNCORR : Row := ⟨312, 0x13014C, [(2, 0x100000)], 0, 32, .ro, .none, 0, .val, .keep, .ps⟩

/-- R175: FEC.UNCORR_P1_PS_LO.UNCORR_P1 [31:0]. -/
def Row.FEC_UNCORR_P1_PS_LO_UNCORR_P1 : Row := ⟨313, 0x130150, [(2, 0x100000)], 0, 32, .ro, .none, 0, .val, .keep, .ps⟩

/-- R175: FEC.UNCORR_P1_PS_HI.UNCORR_P1 [31:0]. -/
def Row.FEC_UNCORR_P1_PS_HI_UNCORR_P1 : Row := ⟨314, 0x130154, [(2, 0x100000)], 0, 32, .ro, .none, 0, .val, .keep, .ps⟩

/-- R175: FEC.BITS_PS_LO.BITS [31:0]. -/
def Row.FEC_BITS_PS_LO_BITS : Row := ⟨315, 0x130158, [(2, 0x100000)], 0, 32, .ro, .none, 0, .val, .keep, .ps⟩

/-- R175: FEC.BITS_PS_HI.BITS [31:0]. -/
def Row.FEC_BITS_PS_HI_BITS : Row := ⟨316, 0x13015C, [(2, 0x100000)], 0, 32, .ro, .none, 0, .val, .keep, .ps⟩

/-- R175: FEC.ERR_BITS_PS_LO.ERR_BITS [31:0]. -/
def Row.FEC_ERR_BITS_PS_LO_ERR_BITS : Row := ⟨317, 0x130160, [(2, 0x100000)], 0, 32, .ro, .none, 0, .val, .keep, .ps⟩

/-- R175: FEC.ERR_BITS_PS_HI.ERR_BITS [31:0]. -/
def Row.FEC_ERR_BITS_PS_HI_ERR_BITS : Row := ⟨318, 0x130164, [(2, 0x100000)], 0, 32, .ro, .none, 0, .val, .keep, .ps⟩

/-- R175: FEC.DEMATCH_PS_LO.DEMATCH_ERR [31:0]. -/
def Row.FEC_DEMATCH_PS_LO_DEMATCH_ERR : Row := ⟨319, 0x130168, [(2, 0x100000)], 0, 32, .ro, .none, 0, .val, .keep, .ps⟩

/-- R175: FEC.DEMATCH_PS_HI.DEMATCH_ERR [31:0]. -/
def Row.FEC_DEMATCH_PS_HI_DEMATCH_ERR : Row := ⟨320, 0x13016C, [(2, 0x100000)], 0, 32, .ro, .none, 0, .val, .keep, .ps⟩

/-- R175: FEC.ITER_PS_LO.ITER_SUM [31:0]. -/
def Row.FEC_ITER_PS_LO_ITER_SUM : Row := ⟨321, 0x130170, [(2, 0x100000)], 0, 32, .ro, .none, 0, .val, .keep, .ps⟩

/-- R175: FEC.ITER_PS_HI.ITER_SUM [31:0]. -/
def Row.FEC_ITER_PS_HI_ITER_SUM : Row := ⟨322, 0x130174, [(2, 0x100000)], 0, 32, .ro, .none, 0, .val, .keep, .ps⟩

/-- R192: ELC.POLICY.TGT [31:24]. -/
def Row.ELC_POLICY_TGT : Row := ⟨323, 0x150000, [(2, 0x100000)], 24, 8, .rw, .shadowed, 0, .fp, .clamp 0 50, .no⟩

/-- R192: ELC.POLICY.UP_HYST [23:16]. -/
def Row.ELC_POLICY_UP_HYST : Row := ⟨324, 0x150000, [(2, 0x100000)], 16, 8, .rw, .shadowed, 0, .fp, .keep, .no⟩

/-- R192: ELC.POLICY.DOWN_HYST [15:8]. -/
def Row.ELC_POLICY_DOWN_HYST : Row := ⟨325, 0x150000, [(2, 0x100000)], 8, 8, .rw, .shadowed, 0, .fp, .keep, .no⟩

/-- R192: ELC.POLICY.DOWN_HOLD [7:4]. -/
def Row.ELC_POLICY_DOWN_HOLD : Row := ⟨326, 0x150000, [(2, 0x100000)], 4, 4, .rw, .shadowed, 0, .fp, .sub 0 1, .no⟩

/-- R192: ELC.POLICY.UP_HOLD [3:0]. -/
def Row.ELC_POLICY_UP_HOLD : Row := ⟨327, 0x150000, [(2, 0x100000)], 0, 4, .rw, .shadowed, 0, .fp, .sub 0 1, .no⟩

/-- R192: ELC.POLICY2.PROFILE [31:30]. -/
def Row.ELC_POLICY2_PROFILE : Row := ⟨328, 0x150004, [(2, 0x100000)], 30, 2, .rw, .shadowed, 0, .fp, .sub 3 0, .no⟩

/-- R192: ELC.POLICY2.ACCEPT_ANY [29]. -/
def Row.ELC_POLICY2_ACCEPT_ANY : Row := ⟨329, 0x150004, [(2, 0x100000)], 29, 1, .rw, .shadowed, 0, .fp, .keep, .no⟩

/-- R192: ELC.POLICY2.MAX_IDX [22:16]. -/
def Row.ELC_POLICY2_MAX_IDX : Row := ⟨330, 0x150004, [(2, 0x100000)], 16, 7, .rw, .shadowed, 0, .fp, .keep, .no⟩

/-- R192: ELC.POLICY2.UP_STEP [3:0]. -/
def Row.ELC_POLICY2_UP_STEP : Row := ⟨331, 0x150004, [(2, 0x100000)], 0, 4, .rw, .shadowed, 0, .fp, .sub 0 1, .no⟩

/-- R192: ELC.HS_CFG.ACK_REQ [31]. -/
def Row.ELC_HS_CFG_ACK_REQ : Row := ⟨332, 0x150008, [(2, 0x100000)], 31, 1, .rw, .shadowed, 0, .fp, .keep, .no⟩

/-- R192: ELC.HS_CFG.RETRY_MAX [30:28]. -/
def Row.ELC_HS_CFG_RETRY_MAX : Row := ⟨333, 0x150008, [(2, 0x100000)], 28, 3, .rw, .shadowed, 0, .fp, .sub 0 1, .no⟩

/-- R192: ELC.HS_CFG.LEAD_UP [23:16]. -/
def Row.ELC_HS_CFG_LEAD_UP : Row := ⟨334, 0x150008, [(2, 0x100000)], 16, 8, .rw, .shadowed, 0, .fp, .clamp 16 255, .no⟩

/-- R192: ELC.HS_CFG.LEAD_DOWN [15:8]. -/
def Row.ELC_HS_CFG_LEAD_DOWN : Row := ⟨335, 0x150008, [(2, 0x100000)], 8, 8, .rw, .shadowed, 0, .fp, .clamp 16 255, .no⟩

/-- R192: ELC.HS_CFG.ICM_WAIT [7:0]. -/
def Row.ELC_HS_CFG_ICM_WAIT : Row := ⟨336, 0x150008, [(2, 0x100000)], 0, 8, .rw, .shadowed, 0, .fp, .sub 0 1, .no⟩

/-- R192: ELC.CTL.MODE [31:30]. -/
def Row.ELC_CTL_MODE : Row := ⟨337, 0x15000C, [(2, 0x100000)], 30, 2, .rw, .live, 0, .fp, .sub 3 2, .no⟩

/-- R192: ELC.CTL.GO [29]. -/
def Row.ELC_CTL_GO : Row := ⟨338, 0x15000C, [(2, 0x100000)], 29, 1, .wo, .live, 0, .val, .keep, .no⟩

/-- R192: ELC.CTL.RESUME [28]. -/
def Row.ELC_CTL_RESUME : Row := ⟨339, 0x15000C, [(2, 0x100000)], 28, 1, .wo, .live, 0, .val, .keep, .no⟩

/-- R192: ELC.CTL.FORCE_FLOOR [27]. -/
def Row.ELC_CTL_FORCE_FLOOR : Row := ⟨340, 0x15000C, [(2, 0x100000)], 27, 1, .wo, .live, 0, .val, .keep, .no⟩

/-- R192: ELC.CTL.H_IDX [22:16]. -/
def Row.ELC_CTL_H_IDX : Row := ⟨341, 0x15000C, [(2, 0x100000)], 16, 7, .rw, .live, 0, .val, .keep, .no⟩

/-- R192: ELC.CTL.FEC [15]. -/
def Row.ELC_CTL_FEC : Row := ⟨342, 0x15000C, [(2, 0x100000)], 15, 1, .rw, .live, 0, .val, .keep, .no⟩

/-- R192: ELC.HS_STAT.STATE [31:29]. -/
def Row.ELC_HS_STAT_STATE : Row := ⟨343, 0x150010, [(2, 0x100000)], 29, 3, .ro, .none, 5, .val, .keep, .no⟩

/-- R192: ELC.HS_STAT.ICM_RC [28]. -/
def Row.ELC_HS_STAT_ICM_RC : Row := ⟨344, 0x150010, [(2, 0x100000)], 28, 1, .ro, .none, 1, .val, .keep, .no⟩

/-- R192: ELC.HS_STAT.FLOOR_TX [27]. -/
def Row.ELC_HS_STAT_FLOOR_TX : Row := ⟨345, 0x150010, [(2, 0x100000)], 27, 1, .ro, .none, 1, .val, .keep, .no⟩

/-- R192: ELC.HS_STAT.UNCONFIRMED [26]. -/
def Row.ELC_HS_STAT_UNCONFIRMED : Row := ⟨346, 0x150010, [(2, 0x100000)], 26, 1, .ro, .none, 0, .val, .keep, .no⟩

/-- R192: ELC.HS_STAT.ADV_STALE [25]. -/
def Row.ELC_HS_STAT_ADV_STALE : Row := ⟨347, 0x150010, [(2, 0x100000)], 25, 1, .ro, .none, 0, .val, .keep, .no⟩

/-- R192: ELC.HS_STAT.LOOP_SF [24:15]. -/
def Row.ELC_HS_STAT_LOOP_SF : Row := ⟨348, 0x150010, [(2, 0x100000)], 15, 10, .ro, .none, 0, .val, .keep, .no⟩

/-- R192: ELC.HS_STAT.RETRIES [14:12]. -/
def Row.ELC_HS_STAT_RETRIES : Row := ⟨349, 0x150010, [(2, 0x100000)], 12, 3, .ro, .none, 0, .val, .keep, .no⟩

/-- R192: ELC.RX_HS.RSTATE [31:29]. -/
def Row.ELC_RX_HS_RSTATE : Row := ⟨350, 0x15001C, [(2, 0x100000)], 29, 3, .ro, .none, 5, .val, .keep, .no⟩

/-- R192: ELC.RX_HS.ANN_SEQ [28:25]. -/
def Row.ELC_RX_HS_ANN_SEQ : Row := ⟨351, 0x15001C, [(2, 0x100000)], 25, 4, .ro, .none, 0, .val, .keep, .no⟩

/-- R192: ELC.RX_HS.MAP_COMPLETE [24]. -/
def Row.ELC_RX_HS_MAP_COMPLETE : Row := ⟨352, 0x15001C, [(2, 0x100000)], 24, 1, .ro, .none, 0, .val, .keep, .no⟩

/-- R192: ELC.RX_HS.CAUSE [23:20]. -/
def Row.ELC_RX_HS_CAUSE : Row := ⟨353, 0x15001C, [(2, 0x100000)], 20, 4, .ro, .none, 0, .val, .keep, .no⟩

/-- R192: ELC.RX_HS.FLOOR_MISM [19]. -/
def Row.ELC_RX_HS_FLOOR_MISM : Row := ⟨354, 0x15001C, [(2, 0x100000)], 19, 1, .w1c, .live, 0, .val, .keep, .no⟩

/-- R192: ELC.EVT.RC_FAIL [9]. -/
def Row.ELC_EVT_RC_FAIL : Row := ⟨355, 0x150020, [(2, 0x100000)], 9, 1, .w1c, .live, 0, .val, .keep, .no⟩

/-- R192: ELC.EVT.MIN_BREACH [8]. -/
def Row.ELC_EVT_MIN_BREACH : Row := ⟨356, 0x150020, [(2, 0x100000)], 8, 1, .w1c, .live, 0, .val, .keep, .no⟩

/-- R192: ELC.EVT.STORM [7]. -/
def Row.ELC_EVT_STORM : Row := ⟨357, 0x150020, [(2, 0x100000)], 7, 1, .w1c, .live, 0, .val, .keep, .no⟩

/-- R192: ELC.EVT.ICM_RC [6]. -/
def Row.ELC_EVT_ICM_RC : Row := ⟨358, 0x150020, [(2, 0x100000)], 6, 1, .w1c, .live, 0, .val, .keep, .no⟩

/-- R192: ELC.EVT.FALLBACK [5]. -/
def Row.ELC_EVT_FALLBACK : Row := ⟨359, 0x150020, [(2, 0x100000)], 5, 1, .w1c, .live, 0, .val, .keep, .no⟩

/-- R192: ELC.EVT.WITHDRAWN [4]. -/
def Row.ELC_EVT_WITHDRAWN : Row := ⟨360, 0x150020, [(2, 0x100000)], 4, 1, .w1c, .live, 0, .val, .keep, .no⟩

/-- R192: ELC.EVT.SWITCH [3]. -/
def Row.ELC_EVT_SWITCH : Row := ⟨361, 0x150020, [(2, 0x100000)], 3, 1, .w1c, .live, 0, .val, .keep, .no⟩

/-- R192: ELC.EVT.COMMIT [2]. -/
def Row.ELC_EVT_COMMIT : Row := ⟨362, 0x150020, [(2, 0x100000)], 2, 1, .w1c, .live, 0, .val, .keep, .no⟩

/-- R192: ELC.EVT.ANNOUNCE [1]. -/
def Row.ELC_EVT_ANNOUNCE : Row := ⟨363, 0x150020, [(2, 0x100000)], 1, 1, .w1c, .live, 0, .val, .keep, .no⟩

/-- R192: ELC.EVT.ADV_RX [0]. -/
def Row.ELC_EVT_ADV_RX : Row := ⟨364, 0x150020, [(2, 0x100000)], 0, 1, .w1c, .live, 0, .val, .keep, .no⟩

/-- R192: ELC.ADV_RX.VALID [31]. -/
def Row.ELC_ADV_RX_VALID : Row := ⟨365, 0x150014, [(2, 0x100000)], 31, 1, .ro, .none, 0, .val, .keep, .no⟩

/-- R192: ELC.ADV_TX.VALID [31]. -/
def Row.ELC_ADV_TX_VALID : Row := ⟨366, 0x150018, [(2, 0x100000)], 31, 1, .ro, .none, 0, .val, .keep, .no⟩

/-- R192: ELC.ADV_RX.VIA_ICM [30]. -/
def Row.ELC_ADV_RX_VIA_ICM : Row := ⟨367, 0x150014, [(2, 0x100000)], 30, 1, .ro, .none, 0, .val, .keep, .no⟩

/-- R192: ELC.ADV_TX.VIA_ICM [30]. -/
def Row.ELC_ADV_TX_VIA_ICM : Row := ⟨368, 0x150018, [(2, 0x100000)], 30, 1, .ro, .none, 0, .val, .keep, .no⟩

/-- R192: ELC.ADV_RX.SEQ [29:26]. -/
def Row.ELC_ADV_RX_SEQ : Row := ⟨369, 0x150014, [(2, 0x100000)], 26, 4, .ro, .none, 0, .val, .keep, .no⟩

/-- R192: ELC.ADV_TX.SEQ [29:26]. -/
def Row.ELC_ADV_TX_SEQ : Row := ⟨370, 0x150018, [(2, 0x100000)], 26, 4, .ro, .none, 0, .val, .keep, .no⟩

/-- R192: ELC.ADV_RX.H_IDX [25:19]. -/
def Row.ELC_ADV_RX_H_IDX : Row := ⟨371, 0x150014, [(2, 0x100000)], 19, 7, .ro, .none, 0, .val, .keep, .no⟩

/-- R192: ELC.ADV_TX.H_IDX [25:19]. -/
def Row.ELC_ADV_TX_H_IDX : Row := ⟨372, 0x150018, [(2, 0x100000)], 19, 7, .ro, .none, 0, .val, .keep, .no⟩

/-- R192: ELC.ADV_RX.FEC [18]. -/
def Row.ELC_ADV_RX_FEC : Row := ⟨373, 0x150014, [(2, 0x100000)], 18, 1, .ro, .none, 0, .val, .keep, .no⟩

/-- R192: ELC.ADV_TX.FEC [18]. -/
def Row.ELC_ADV_TX_FEC : Row := ⟨374, 0x150018, [(2, 0x100000)], 18, 1, .ro, .none, 0, .val, .keep, .no⟩

/-- R192: ELC.ADV_RX.MARGIN [7:0]. -/
def Row.ELC_ADV_RX_MARGIN : Row := ⟨375, 0x150014, [(2, 0x100000)], 0, 8, .ro, .none, 0, .val, .keep, .no⟩

/-- R192: ELC.ADV_TX.MARGIN [7:0]. -/
def Row.ELC_ADV_TX_MARGIN : Row := ⟨376, 0x150018, [(2, 0x100000)], 0, 8, .ro, .none, 0, .val, .keep, .no⟩

/-- R192: ELC.CNT0.SWITCHES [31:16]. -/
def Row.ELC_CNT0_SWITCHES : Row := ⟨377, 0x150030, [(2, 0x100000)], 16, 16, .ro, .none, 0, .val, .keep, .live⟩

/-- R192: ELC.CNT0.ANNOUNCES [15:0]. -/
def Row.ELC_CNT0_ANNOUNCES : Row := ⟨378, 0x150030, [(2, 0x100000)], 0, 16, .ro, .none, 0, .val, .keep, .live⟩

/-- R192: ELC.CNT1.WITHDRAWN [31:16]. -/
def Row.ELC_CNT1_WITHDRAWN : Row := ⟨379, 0x150034, [(2, 0x100000)], 16, 16, .ro, .none, 0, .val, .keep, .live⟩

/-- R192: ELC.CNT1.UNCONFIRMED [15:0]. -/
def Row.ELC_CNT1_UNCONFIRMED : Row := ⟨380, 0x150034, [(2, 0x100000)], 0, 16, .ro, .none, 0, .val, .keep, .live⟩

/-- R192: ELC.CNT2.FALLBACKS [31:16]. -/
def Row.ELC_CNT2_FALLBACKS : Row := ⟨381, 0x150038, [(2, 0x100000)], 16, 16, .ro, .none, 0, .val, .keep, .live⟩

/-- R192: ELC.CNT2.LATE_ACKS [15:0]. -/
def Row.ELC_CNT2_LATE_ACKS : Row := ⟨382, 0x150038, [(2, 0x100000)], 0, 16, .ro, .none, 0, .val, .keep, .live⟩

/-- R192: ELC.CNT3.REFUSED [31:16]. -/
def Row.ELC_CNT3_REFUSED : Row := ⟨383, 0x15003C, [(2, 0x100000)], 16, 16, .ro, .none, 0, .val, .keep, .live⟩

/-- R192: ELC.CNT3.MISMATCH [15:0]. -/
def Row.ELC_CNT3_MISMATCH : Row := ⟨384, 0x15003C, [(2, 0x100000)], 0, 16, .ro, .none, 0, .val, .keep, .live⟩

/-- R451: ELC.FLOOR.BAUD [31:21]. -/
def Row.ELC_FLOOR_BAUD : Row := ⟨385, 0x150040, [(2, 0x100000)], 21, 11, .ro, .none, 0, .fp, .keep, .no⟩

/-- R451: ELC.FLOOR_RX.BAUD [31:21]. -/
def Row.ELC_FLOOR_RX_BAUD : Row := ⟨386, 0x150044, [(2, 0x100000)], 21, 11, .ro, .none, 0, .fp, .keep, .no⟩

/-- R451: ELC.FLOOR.H_IDX [20:14]. -/
def Row.ELC_FLOOR_H_IDX : Row := ⟨387, 0x150040, [(2, 0x100000)], 14, 7, .ro, .none, 0, .fp, .keep, .no⟩

/-- R451: ELC.FLOOR_RX.H_IDX [20:14]. -/
def Row.ELC_FLOOR_RX_H_IDX : Row := ⟨388, 0x150044, [(2, 0x100000)], 14, 7, .ro, .none, 0, .fp, .keep, .no⟩

/-- R451: ELC.FLOOR.FEC [13]. -/
def Row.ELC_FLOOR_FEC : Row := ⟨389, 0x150040, [(2, 0x100000)], 13, 1, .ro, .none, 0, .fp, .keep, .no⟩

/-- R451: ELC.FLOOR_RX.FEC [13]. -/
def Row.ELC_FLOOR_RX_FEC : Row := ⟨390, 0x150044, [(2, 0x100000)], 13, 1, .ro, .none, 0, .fp, .keep, .no⟩

/-- R451: ELC.FLOOR.SLOTS [9:0]. -/
def Row.ELC_FLOOR_SLOTS : Row := ⟨391, 0x150040, [(2, 0x100000)], 0, 10, .ro, .none, 0, .opened, .keep, .no⟩

/-- R451: ELC.FLOOR_RX.SLOTS [9:0]. -/
def Row.ELC_FLOOR_RX_SLOTS : Row := ⟨392, 0x150044, [(2, 0x100000)], 0, 10, .ro, .none, 0, .opened, .keep, .no⟩

/-- R240: OHD.FR_STAT.IF [31]. -/
def Row.OHD_FR_STAT_IF : Row := ⟨451, 0x140000, [(2, 0x100000)], 31, 1, .ro, .none, 0, .val, .keep, .no⟩

/-- R240: OHD.FR_STAT.IM [30]. -/
def Row.OHD_FR_STAT_IM : Row := ⟨452, 0x140000, [(2, 0x100000)], 30, 1, .ro, .none, 0, .val, .keep, .no⟩

/-- R240: OHD.FR_STAT.SEARCHING [29]. -/
def Row.OHD_FR_STAT_SEARCHING : Row := ⟨453, 0x140000, [(2, 0x100000)], 29, 1, .ro, .none, 0, .val, .keep, .no⟩

/-- R240: OHD.FR_STAT.MFX_VALID [28]. -/
def Row.OHD_FR_STAT_MFX_VALID : Row := ⟨454, 0x140000, [(2, 0x100000)], 28, 1, .ro, .none, 0, .val, .keep, .no⟩

/-- R240: OHD.FR_STAT.CANDS [27:24]. -/
def Row.OHD_FR_STAT_CANDS : Row := ⟨455, 0x140000, [(2, 0x100000)], 24, 4, .ro, .none, 0, .val, .keep, .no⟩

/-- R240: OHD.FR_STAT.MFX [15:8]. -/
def Row.OHD_FR_STAT_MFX : Row := ⟨456, 0x140000, [(2, 0x100000)], 8, 8, .ro, .none, 0, .val, .keep, .no⟩

/-- R240: OHD.FR_STAT.MFAS [7:0]. -/
def Row.OHD_FR_STAT_MFAS : Row := ⟨457, 0x140000, [(2, 0x100000)], 0, 8, .ro, .none, 0, .val, .keep, .no⟩

/-- R240: OHD.EVT.APS_RX [4]. -/
def Row.OHD_EVT_APS_RX : Row := ⟨458, 0x140008, [(2, 0x100000)], 4, 1, .w1c, .live, 0, .val, .keep, .no⟩

/-- R240: OHD.EVT.PM_FAIL [3]. -/
def Row.OHD_EVT_PM_FAIL : Row := ⟨459, 0x140008, [(2, 0x100000)], 3, 1, .w1c, .live, 0, .val, .keep, .no⟩

/-- R240: OHD.EVT.SM_FAIL [2]. -/
def Row.OHD_EVT_SM_FAIL : Row := ⟨460, 0x140008, [(2, 0x100000)], 2, 1, .w1c, .live, 0, .val, .keep, .no⟩

/-- R240: OHD.EVT.TTI_ACC [1]. -/
def Row.OHD_EVT_TTI_ACC : Row := ⟨461, 0x140008, [(2, 0x100000)], 1, 1, .w1c, .live, 0, .val, .keep, .no⟩

/-- R240: OHD.EVT.IF_CHANGE [0]. -/
def Row.OHD_EVT_IF_CHANGE : Row := ⟨462, 0x140008, [(2, 0x100000)], 0, 1, .w1c, .live, 0, .val, .keep, .no⟩

/-- R240: OHD.SM_CFG.TX_AIS [31]. -/
def Row.OHD_SM_CFG_TX_AIS : Row := ⟨463, 0x140010, [(2, 0x100000)], 31, 1, .rw, .shadowed, 0, .val, .keep, .no⟩

/-- R240: OHD.SM_CFG.TIM_ACT [30]. -/
def Row.OHD_SM_CFG_TIM_ACT : Row := ⟨464, 0x140010, [(2, 0x100000)], 30, 1, .rw, .shadowed, 0, .fp, .keep, .no⟩

/-- R240: OHD.SM_CFG.TIM_MODE [29:28]. -/
def Row.OHD_SM_CFG_TIM_MODE : Row := ⟨465, 0x140010, [(2, 0x100000)], 28, 2, .rw, .shadowed, 0, .fp, .keep, .no⟩

/-- R240: OHD.DEG_CFG.MODE [31]. -/
def Row.OHD_DEG_CFG_MODE : Row := ⟨466, 0x140020, [(2, 0x100000), (2, 0x4)], 31, 1, .rw, .shadowed, 0, .fp, .keep, .no⟩

/-- R240: OHD.DEG_CFG.DEGM [30:27]. -/
def Row.OHD_DEG_CFG_DEGM : Row := ⟨467, 0x140020, [(2, 0x100000), (2, 0x4)], 27, 4, .rw, .shadowed, 0, .fp, .clamp 2 10, .no⟩

/-- R240: OHD.DEG_CFG.DEGTHR [19:0]. -/
def Row.OHD_DEG_CFG_DEGTHR : Row := ⟨468, 0x140020, [(2, 0x100000), (2, 0x4)], 0, 20, .rw, .shadowed, 0, .fp, .keep, .no⟩

/-- R240: OHD.DEG_RATE.WIN [31:24]. -/
def Row.OHD_DEG_RATE_WIN : Row := ⟨469, 0x140028, [(2, 0x100000), (2, 0x4)], 24, 8, .rw, .shadowed, 0, .fp, .clamp 1 100, .no⟩

/-- R240: OHD.DEG_RATE.RATE_E [11:8]. -/
def Row.OHD_DEG_RATE_RATE_E : Row := ⟨470, 0x140028, [(2, 0x100000), (2, 0x4)], 8, 4, .rw, .shadowed, 0, .fp, .keep, .no⟩

/-- R240: OHD.DEG_RATE.RATE_M [3:0]. -/
def Row.OHD_DEG_RATE_RATE_M : Row := ⟨471, 0x140028, [(2, 0x100000), (2, 0x4)], 0, 4, .rw, .shadowed, 0, .fp, .keep, .no⟩

/-- R240: OHD.INTEG.SET [23:16]. -/
def Row.OHD_INTEG_SET : Row := ⟨472, 0x140040, [(2, 0x100000), (14, 0x4)], 16, 8, .rw, .shadowed, 0, .fp, .clamp 1 100, .no⟩

/-- R240: OHD.INTEG.CLR [7:0]. -/
def Row.OHD_INTEG_CLR : Row := ⟨473, 0x140040, [(2, 0x100000), (14, 0x4)], 0, 8, .rw, .shadowed, 0, .fp, .clamp 1 200, .no⟩

/-- R240: OHD.SM_DEF.LOF [7]. -/
def Row.OHD_SM_DEF_LOF : Row := ⟨474, 0x140100, [(2, 0x100000)], 7, 1, .ro, .none, 1, .val, .keep, .no⟩

/-- R240: OHD.SM_DEF.LOM [6]. -/
def Row.OHD_SM_DEF_LOM : Row := ⟨475, 0x140100, [(2, 0x100000)], 6, 1, .ro, .none, 0, .val, .keep, .no⟩

/-- R240: OHD.SM_DEF.AIS [5]. -/
def Row.OHD_SM_DEF_AIS : Row := ⟨476, 0x140100, [(2, 0x100000)], 5, 1, .ro, .none, 0, .val, .keep, .no⟩

/-- R240: OHD.SM_DEF.TIM [4]. -/
def Row.OHD_SM_DEF_TIM : Row := ⟨477, 0x140100, [(2, 0x100000)], 4, 1, .ro, .none, 0, .val, .keep, .no⟩

/-- R240: OHD.SM_DEF.BDI [3]. -/
def Row.OHD_SM_DEF_BDI : Row := ⟨478, 0x140100, [(2, 0x100000)], 3, 1, .ro, .none, 0, .val, .keep, .no⟩

/-- R240: OHD.SM_DEF.DEG [2]. -/
def Row.OHD_SM_DEF_DEG : Row := ⟨479, 0x140100, [(2, 0x100000)], 2, 1, .ro, .none, 0, .val, .keep, .no⟩

/-- R240: OHD.SM_DEF.IAE [1]. -/
def Row.OHD_SM_DEF_IAE : Row := ⟨480, 0x140100, [(2, 0x100000)], 1, 1, .ro, .none, 0, .val, .keep, .no⟩

/-- R240: OHD.SM_DEF.BIAE [0]. -/
def Row.OHD_SM_DEF_BIAE : Row := ⟨481, 0x140100, [(2, 0x100000)], 0, 1, .ro, .none, 0, .val, .keep, .no⟩

/-- R240: OHD.SM_FAIL.LOF [7]. -/
def Row.OHD_SM_FAIL_LOF : Row := ⟨482, 0x140104, [(2, 0x100000)], 7, 1, .ro, .none, 1, .val, .keep, .no⟩

/-- R240: OHD.SM_FAIL.LOM [6]. -/
def Row.OHD_SM_FAIL_LOM : Row := ⟨483, 0x140104, [(2, 0x100000)], 6, 1, .ro, .none, 0, .val, .keep, .no⟩

/-- R240: OHD.SM_FAIL.AIS [5]. -/
def Row.OHD_SM_FAIL_AIS : Row := ⟨484, 0x140104, [(2, 0x100000)], 5, 1, .ro, .none, 0, .val, .keep, .no⟩

/-- R240: OHD.SM_FAIL.TIM [4]. -/
def Row.OHD_SM_FAIL_TIM : Row := ⟨485, 0x140104, [(2, 0x100000)], 4, 1, .ro, .none, 0, .val, .keep, .no⟩

/-- R240: OHD.SM_FAIL.BDI [3]. -/
def Row.OHD_SM_FAIL_BDI : Row := ⟨486, 0x140104, [(2, 0x100000)], 3, 1, .ro, .none, 0, .val, .keep, .no⟩

/-- R240: OHD.SM_FAIL.DEG [2]. -/
def Row.OHD_SM_FAIL_DEG : Row := ⟨487, 0x140104, [(2, 0x100000)], 2, 1, .ro, .none, 0, .val, .keep, .no⟩

/-- R240: OHD.SM_FAIL.IAE [1]. -/
def Row.OHD_SM_FAIL_IAE : Row := ⟨488, 0x140104, [(2, 0x100000)], 1, 1, .ro, .none, 0, .val, .keep, .no⟩

/-- R240: OHD.SM_FAIL.BIAE [0]. -/
def Row.OHD_SM_FAIL_BIAE : Row := ⟨489, 0x140104, [(2, 0x100000)], 0, 1, .ro, .none, 0, .val, .keep, .no⟩

/-- R240: OHD.SM_TTI_TX.BYTES [31:0]. -/
def Row.OHD_SM_TTI_TX_BYTES : Row := ⟨490, 0x140200, [(2, 0x100000), (16, 0x4)], 0, 32, .rw, .shadowed, 0, .fp, .keep, .no⟩

/-- R240: OHD.SM_TTI_EXP.BYTES [31:0]. -/
def Row.OHD_SM_TTI_EXP_BYTES : Row := ⟨491, 0x140240, [(2, 0x100000), (8, 0x4)], 0, 32, .rw, .shadowed, 0, .fp, .keep, .no⟩

/-- R240: OHD.SM_TTI_ACC.BYTES [31:0]. -/
def Row.OHD_SM_TTI_ACC_BYTES : Row := ⟨492, 0x140260, [(2, 0x100000), (16, 0x4)], 0, 32, .ro, .none, 0, .val, .keep, .no⟩

/-- R240: OHD.GCC_STAT.RX_MSG [31:16]. -/
def Row.OHD_GCC_STAT_RX_MSG : Row := ⟨493, 0x140300, [(2, 0x100000)], 16, 16, .ro, .none, 0, .val, .keep, .live⟩

/-- R240: OHD.GCC_STAT.CRC_ERR [15:0]. -/
def Row.OHD_GCC_STAT_CRC_ERR : Row := ⟨494, 0x140300, [(2, 0x100000)], 0, 16, .ro, .none, 0, .val, .keep, .live⟩

/-- R240: OHD.PM_CFG.LCK [31]. -/
def Row.OHD_PM_CFG_LCK : Row := ⟨495, 0x144000, [(2, 0x100000), (32, 0x100)], 31, 1, .rw, .live, 0, .val, .keep, .no⟩

/-- R240: OHD.PM_CFG.TIM_ACT [30]. -/
def Row.OHD_PM_CFG_TIM_ACT : Row := ⟨496, 0x144000, [(2, 0x100000), (32, 0x100)], 30, 1, .rw, .shadowed, 0, .fp, .keep, .no⟩

/-- R240: OHD.PM_CFG.TIM_MODE [29:28]. -/
def Row.OHD_PM_CFG_TIM_MODE : Row := ⟨497, 0x144000, [(2, 0x100000), (32, 0x100)], 28, 2, .rw, .shadowed, 0, .fp, .keep, .no⟩

/-- R240: OHD.PM_DEF.DEF [5:0]. -/
def Row.OHD_PM_DEF_DEF : Row := ⟨498, 0x144004, [(2, 0x100000), (32, 0x100)], 0, 6, .ro, .none, 0, .val, .keep, .no⟩

/-- R240: OHD.PM_FAIL.FAIL [5:0]. -/
def Row.OHD_PM_FAIL_FAIL : Row := ⟨499, 0x144008, [(2, 0x100000), (32, 0x100)], 0, 6, .ro, .none, 0, .val, .keep, .no⟩

/-- R240: OHD.PM_TX.BDI [3]. -/
def Row.OHD_PM_TX_BDI : Row := ⟨500, 0x14400C, [(2, 0x100000), (32, 0x100)], 3, 1, .ro, .none, 0, .val, .keep, .no⟩

/-- R240: OHD.PM_TX.STAT [2:0]. -/
def Row.OHD_PM_TX_STAT : Row := ⟨501, 0x14400C, [(2, 0x100000), (32, 0x100)], 0, 3, .ro, .none, 6, .val, .keep, .no⟩

/-- R240: OHD.APS_TX.VALUE [31:0]. -/
def Row.OHD_APS_TX_VALUE : Row := ⟨502, 0x144010, [(2, 0x100000), (32, 0x100)], 0, 32, .ro, .none, 0, .val, .keep, .no⟩

/-- R240: OHD.APS_RX.VALUE [31:0]. -/
def Row.OHD_APS_RX_VALUE : Row := ⟨503, 0x144014, [(2, 0x100000), (32, 0x100)], 0, 32, .ro, .none, 0, .val, .keep, .no⟩

/-- R240: OHD.APS_CNT.CHANGES [31:16]. -/
def Row.OHD_APS_CNT_CHANGES : Row := ⟨504, 0x144018, [(2, 0x100000), (32, 0x100)], 16, 16, .ro, .none, 0, .val, .keep, .live⟩

/-- R240: OHD.APS_CNT.INCONSISTENT [15:0]. -/
def Row.OHD_APS_CNT_INCONSISTENT : Row := ⟨505, 0x144018, [(2, 0x100000), (32, 0x100)], 0, 16, .ro, .none, 0, .val, .keep, .live⟩

/-- R240: OHD.TTI_TX.BYTES [31:0]. -/
def Row.OHD_TTI_TX_BYTES : Row := ⟨506, 0x144040, [(2, 0x100000), (32, 0x100), (16, 0x4)], 0, 32, .rw, .shadowed, 0, .fp, .keep, .no⟩

/-- R240: OHD.TTI_EXP.BYTES [31:0]. -/
def Row.OHD_TTI_EXP_BYTES : Row := ⟨507, 0x144080, [(2, 0x100000), (32, 0x100), (8, 0x4)], 0, 32, .rw, .shadowed, 0, .fp, .keep, .no⟩

/-- R240: OHD.TTI_ACC.BYTES [31:0]. -/
def Row.OHD_TTI_ACC_BYTES : Row := ⟨508, 0x1440A0, [(2, 0x100000), (32, 0x100), (16, 0x4)], 0, 32, .ro, .none, 0, .val, .keep, .no⟩

/-- R240: OHD.SMC_FRAMES.COUNT [31:0]. -/
def Row.OHD_SMC_FRAMES_COUNT : Row := ⟨509, 0x141000, [(2, 0x100000)], 0, 32, .ro, .none, 0, .val, .keep, .live⟩

/-- R240: OHD.SMC_NE_BIP.COUNT [31:0]. -/
def Row.OHD_SMC_NE_BIP_COUNT : Row := ⟨510, 0x141004, [(2, 0x100000)], 0, 32, .ro, .none, 0, .val, .keep, .live⟩

/-- R240: OHD.SMC_NE_EB.COUNT [31:0]. -/
def Row.OHD_SMC_NE_EB_COUNT : Row := ⟨511, 0x141008, [(2, 0x100000)], 0, 32, .ro, .none, 0, .val, .keep, .live⟩

/-- R240: OHD.SMC_FE_BEI.COUNT [31:0]. -/
def Row.OHD_SMC_FE_BEI_COUNT : Row := ⟨512, 0x14100C, [(2, 0x100000)], 0, 32, .ro, .none, 0, .val, .keep, .live⟩

/-- R240: OHD.SMC_FE_EB.COUNT [31:0]. -/
def Row.OHD_SMC_FE_EB_COUNT : Row := ⟨513, 0x141010, [(2, 0x100000)], 0, 32, .ro, .none, 0, .val, .keep, .live⟩

/-- R240: OHD.SMC_FAS_FALSE.COUNT [31:0]. -/
def Row.OHD_SMC_FAS_FALSE_COUNT : Row := ⟨514, 0x141014, [(2, 0x100000)], 0, 32, .ro, .none, 0, .val, .keep, .live⟩

/-- R240: OHD.SMC_OOF_EV.COUNT [31:0]. -/
def Row.OHD_SMC_OOF_EV_COUNT : Row := ⟨515, 0x141018, [(2, 0x100000)], 0, 32, .ro, .none, 0, .val, .keep, .live⟩

/-- R240: OHD.SMC_DEF_SEEN.DEFS [7:0]. -/
def Row.OHD_SMC_DEF_SEEN_DEFS : Row := ⟨516, 0x14101C, [(2, 0x100000)], 0, 8, .ro, .none, 0, .val, .keep, .ps⟩

/-- R240: OHD.SMC_PS_FRAMES.COUNT [31:0]. -/
def Row.OHD_SMC_PS_FRAMES_COUNT : Row := ⟨517, 0x141020, [(2, 0x100000)], 0, 32, .ro, .none, 0, .val, .keep, .ps⟩

/-- R240: OHD.SMC_PS_NE_BIP.COUNT [31:0]. -/
def Row.OHD_SMC_PS_NE_BIP_COUNT : Row := ⟨518, 0x141024, [(2, 0x100000)], 0, 32, .ro, .none, 0, .val, .keep, .ps⟩

/-- R240: OHD.SMC_PS_NE_EB.COUNT [31:0]. -/
def Row.OHD_SMC_PS_NE_EB_COUNT : Row := ⟨519, 0x141028, [(2, 0x100000)], 0, 32, .ro, .none, 0, .val, .keep, .ps⟩

/-- R240: OHD.SMC_PS_FE_BEI.COUNT [31:0]. -/
def Row.OHD_SMC_PS_FE_BEI_COUNT : Row := ⟨520, 0x14102C, [(2, 0x100000)], 0, 32, .ro, .none, 0, .val, .keep, .ps⟩

/-- R240: OHD.SMC_PS_FE_EB.COUNT [31:0]. -/
def Row.OHD_SMC_PS_FE_EB_COUNT : Row := ⟨521, 0x141030, [(2, 0x100000)], 0, 32, .ro, .none, 0, .val, .keep, .ps⟩

/-- R240: OHD.SMC_PS_FAS_FALSE.COUNT [31:0]. -/
def Row.OHD_SMC_PS_FAS_FALSE_COUNT : Row := ⟨522, 0x141034, [(2, 0x100000)], 0, 32, .ro, .none, 0, .val, .keep, .ps⟩

/-- R240: OHD.SMC_PS_OOF_EV.COUNT [31:0]. -/
def Row.OHD_SMC_PS_OOF_EV_COUNT : Row := ⟨523, 0x141038, [(2, 0x100000)], 0, 32, .ro, .none, 0, .val, .keep, .ps⟩

/-- R240: OHD.SMC_PS_DEF_SEEN.DEFS [7:0]. -/
def Row.OHD_SMC_PS_DEF_SEEN_DEFS : Row := ⟨524, 0x14103C, [(2, 0x100000)], 0, 8, .ro, .none, 0, .val, .keep, .ps⟩

/-- R240: OHD.PMC_BLOCKS.COUNT [31:0]. -/
def Row.OHD_PMC_BLOCKS_COUNT : Row := ⟨525, 0x146000, [(2, 0x100000), (32, 0x40)], 0, 32, .ro, .none, 0, .val, .keep, .live⟩

/-- R240: OHD.PMC_NE_BIP.COUNT [31:0]. -/
def Row.OHD_PMC_NE_BIP_COUNT : Row := ⟨526, 0x146004, [(2, 0x100000), (32, 0x40)], 0, 32, .ro, .none, 0, .val, .keep, .live⟩

/-- R240: OHD.PMC_NE_EB.COUNT [31:0]. -/
def Row.OHD_PMC_NE_EB_COUNT : Row := ⟨527, 0x146008, [(2, 0x100000), (32, 0x40)], 0, 32, .ro, .none, 0, .val, .keep, .live⟩

/-- R240: OHD.PMC_FE_BEI.COUNT [31:0]. -/
def Row.OHD_PMC_FE_BEI_COUNT : Row := ⟨528, 0x14600C, [(2, 0x100000), (32, 0x40)], 0, 32, .ro, .none, 0, .val, .keep, .live⟩

/-- R240: OHD.PMC_FE_EB.COUNT [31:0]. -/
def Row.OHD_PMC_FE_EB_COUNT : Row := ⟨529, 0x146010, [(2, 0x100000), (32, 0x40)], 0, 32, .ro, .none, 0, .val, .keep, .live⟩

/-- R240: OHD.PMC_DEMAP_ERR.COUNT [31:0]. -/
def Row.OHD_PMC_DEMAP_ERR_COUNT : Row := ⟨530, 0x146014, [(2, 0x100000), (32, 0x40)], 0, 32, .ro, .none, 0, .val, .keep, .live⟩

/-- R240: OHD.PMC_DEF_SEEN.DEFS [7:0]. -/
def Row.OHD_PMC_DEF_SEEN_DEFS : Row := ⟨531, 0x14601C, [(2, 0x100000), (32, 0x40)], 0, 8, .ro, .none, 0, .val, .keep, .ps⟩

/-- R240: OHD.PMC_PS_BLOCKS.COUNT [31:0]. -/
def Row.OHD_PMC_PS_BLOCKS_COUNT : Row := ⟨532, 0x146020, [(2, 0x100000), (32, 0x40)], 0, 32, .ro, .none, 0, .val, .keep, .ps⟩

/-- R240: OHD.PMC_PS_NE_BIP.COUNT [31:0]. -/
def Row.OHD_PMC_PS_NE_BIP_COUNT : Row := ⟨533, 0x146024, [(2, 0x100000), (32, 0x40)], 0, 32, .ro, .none, 0, .val, .keep, .ps⟩

/-- R240: OHD.PMC_PS_NE_EB.COUNT [31:0]. -/
def Row.OHD_PMC_PS_NE_EB_COUNT : Row := ⟨534, 0x146028, [(2, 0x100000), (32, 0x40)], 0, 32, .ro, .none, 0, .val, .keep, .ps⟩

/-- R240: OHD.PMC_PS_FE_BEI.COUNT [31:0]. -/
def Row.OHD_PMC_PS_FE_BEI_COUNT : Row := ⟨535, 0x14602C, [(2, 0x100000), (32, 0x40)], 0, 32, .ro, .none, 0, .val, .keep, .ps⟩

/-- R240: OHD.PMC_PS_FE_EB.COUNT [31:0]. -/
def Row.OHD_PMC_PS_FE_EB_COUNT : Row := ⟨536, 0x146030, [(2, 0x100000), (32, 0x40)], 0, 32, .ro, .none, 0, .val, .keep, .ps⟩

/-- R240: OHD.PMC_PS_DEMAP_ERR.COUNT [31:0]. -/
def Row.OHD_PMC_PS_DEMAP_ERR_COUNT : Row := ⟨537, 0x146034, [(2, 0x100000), (32, 0x40)], 0, 32, .ro, .none, 0, .val, .keep, .ps⟩

/-- R240: OHD.PMC_PS_DEF_SEEN.DEFS [7:0]. -/
def Row.OHD_PMC_PS_DEF_SEEN_DEFS : Row := ⟨538, 0x14603C, [(2, 0x100000), (32, 0x40)], 0, 8, .ro, .none, 0, .val, .keep, .ps⟩

/-- The fields of TXW, in the order of the spec's tables. -/
def rowsTXW : List Row :=
  [.TXW_LINE_CUR_BAUD, .TXW_LINE_CUR_H_IDX, .TXW_LINE_CUR_FEC, .TXW_LINE_CUR_BASE,
   .TXW_LINE_CUR_SLOTS, .TXW_LINE_NEXT_ANN_VALID, .TXW_LINE_NEXT_ANN_SEQ, .TXW_LINE_NEXT_H_IDX,
   .TXW_LINE_NEXT_FEC, .TXW_LINE_NEXT_COUNTDOWN, .TXW_LINE_NEXT_SLOTS, .TXW_SLOT_MAP_E3,
   .TXW_SLOT_MAP_E2, .TXW_SLOT_MAP_E1, .TXW_SLOT_MAP_E0, .TXW_RATE_BAUD,
   .TXW_SHAPE_RESP_EN, .TXW_SHAPE_NLPD_EN, .TXW_SHAPE_CLIP, .TXW_SHAPE_ROLLOFF,
   .TXW_TRIM_SKEW, .TXW_TRIM_GAIN, .TXW_IQ_PHASE_PHASE, .TXW_CLIP_CNT_COUNT,
   .TXW_CLIP_CNT_PS_COUNT]

/-- The fields of RXW, part 0, in the order of the spec's tables. -/
def rowsRXW0 : List Row :=
  [.RXW_LINE_CUR_BAUD, .RXW_LINE_CUR_H_IDX, .RXW_LINE_CUR_FEC, .RXW_LINE_CUR_BASE,
   .RXW_LINE_CUR_SLOTS, .RXW_SLOT_MAP_E3, .RXW_SLOT_MAP_E2, .RXW_SLOT_MAP_E1,
   .RXW_SLOT_MAP_E0, .RXW_HDR_STAT_CF_ALIGNED, .RXW_HDR_STAT_SF_ALIGNED, .RXW_HDR_STAT_MAP_VALID,
   .RXW_HDR_STAT_MAP_BAD, .RXW_HDR_STAT_MAP_DISAGREE, .RXW_HDR_STAT_BAUD_MISM, .RXW_HDR_STAT_FLOOR_RX,
   .RXW_HDR_STAT_ICM_RC_RX, .RXW_HDR_STAT_HDR_LOSS_RX, .RXW_HDR_STAT_HDR_LOSS_TX, .RXW_HDR_STAT_QL_RX,
   .RXW_HDR_STAT_WING_RX, .RXW_HDR_ERR_CF_SLIP, .RXW_HDR_ERR_PS_CF_SLIP, .RXW_HDR_ERR_HDR_DIFF,
   .RXW_HDR_ERR_PS_HDR_DIFF, .RXW_HDR_ERR_HDR_CRC, .RXW_HDR_ERR_PS_HDR_CRC, .RXW_RATE_BAUD,
   .RXW_FR_STAT_LOCKED, .RXW_FR_STAT_OFFSET, .RXW_CD_CFG_MODE, .RXW_CD_CFG_TRACK_EN,
   .RXW_CD_CFG_CD_VALUE, .RXW_CD_WIN_HALF_WIDTH, .RXW_CD_STAT_VALID, .RXW_CD_STAT_CD_EST,
   .RXW_TAP_STAT_ALLOC, .RXW_TAP_STAT_USED, .RXW_CD_REACH_REACH, .RXW_TR_CFG_BW]

/-- The fields of RXW, part 1, in the order of the spec's tables. -/
def rowsRXW1 : List Row :=
  [.RXW_TR_STAT_LOCKED, .RXW_TR_STAT_OFFSET, .RXW_EQ_CFG_LEN, .RXW_EQ_ADAPT_MU_ACQ,
   .RXW_EQ_ADAPT_MU_TRK, .RXW_EQ_ADAPT_LEAK, .RXW_EQ_STAT_CONVERGED, .RXW_EQ_STAT_MODE,
   .RXW_EQ_STAT_DGD_EST, .RXW_EQ_STAT_PDL_EST, .RXW_SOP_PS_RATE, .RXW_PR_CFG_BLIND_EN,
   .RXW_PR_CFG_WIN, .RXW_DEMAP_CFG_NOISE_DIM, .RXW_DEMAP_CFG_PRIOR_EN, .RXW_SP2_CTL_MODE,
   .RXW_SP2_CTL_ON_TH, .RXW_SP2_CTL_OFF_TH, .RXW_SP2_STAT_ACTIVE, .RXW_SP2_STAT_DRAINING,
   .RXW_SP2_STAT_WAIT_PWR, .RXW_SP2_STAT_GAIN, .RXW_FOM_CFG_AVG, .RXW_RX_CTL_WARM,
   .RXW_RX_CTL_REACQ, .RXW_RX_STAT_STATE, .RXW_RX_STAT_FAIL_REASON, .RXW_RX_STAT_WARM_USED,
   .RXW_RX_STAT_ACQ_COUNT, .RXW_RX_EVT_EQ_RECONV, .RXW_RX_EVT_CD_RANGE, .RXW_RX_EVT_SP2_CHANGE,
   .RXW_RX_EVT_ACQ_FAIL, .RXW_RX_EVT_READY_FALL, .RXW_RX_EVT_READY_RISE, .RXW_PR_SLIP_COUNT,
   .RXW_PR_SLIP_PS_COUNT, .RXW_FOM_SNR_SNR_X, .RXW_FOM_SNR_SNR_Y, .RXW_FOM_EFF_SNR_EFF]

/-- The fields of RXW, part 2, in the order of the spec's tables. -/
def rowsRXW2 : List Row :=
  [.RXW_FOM_EFF_SNR_P1, .RXW_FOM_GMI_GMI, .RXW_FOM_GMI_NGMI, .RXW_FOM_OSNR_SAT,
   .RXW_FOM_OSNR_OSNR_EST, .RXW_FOM_MARGIN_SNR_REQ, .RXW_FOM_MARGIN_MARGIN, .RXW_FOM_SNR_PS_SNR_X,
   .RXW_FOM_SNR_PS_SNR_Y, .RXW_FOM_EFF_PS_SNR_EFF, .RXW_FOM_EFF_PS_SNR_P1, .RXW_FOM_GMI_PS_GMI,
   .RXW_FOM_GMI_PS_NGMI, .RXW_FOM_OSNR_PS_SAT, .RXW_FOM_OSNR_PS_OSNR_EST, .RXW_FOM_MARGIN_PS_SNR_REQ,
   .RXW_FOM_MARGIN_PS_MARGIN]

/-- The fields of RXW. -/
def rowsRXW : List Row := rowsRXW0 ++ rowsRXW1 ++ rowsRXW2

/-- The fields of ELC, part 0, in the order of the spec's tables. -/
def rowsELC0 : List Row :=
  [.ELC_CHAN_CFG_CEILING, .ELC_CHAN_CFG_MINIMUM, .ELC_CHAN_CFG_RANK, .ELC_CHAN_CFG_CIPHER_EN,
   .ELC_CHAN_CFG_ENABLE, .ELC_CHAN_STAT_AT_MIN, .ELC_CHAN_STAT_AT_CEIL, .ELC_CHAN_STAT_SLOTS_NEXT,
   .ELC_CHAN_STAT_SLOTS_CUR, .ELC_POLICY_TGT, .ELC_POLICY_UP_HYST, .ELC_POLICY_DOWN_HYST,
   .ELC_POLICY_DOWN_HOLD, .ELC_POLICY_UP_HOLD, .ELC_POLICY2_PROFILE, .ELC_POLICY2_ACCEPT_ANY,
   .ELC_POLICY2_MAX_IDX, .ELC_POLICY2_UP_STEP, .ELC_HS_CFG_ACK_REQ, .ELC_HS_CFG_RETRY_MAX,
   .ELC_HS_CFG_LEAD_UP, .ELC_HS_CFG_LEAD_DOWN, .ELC_HS_CFG_ICM_WAIT, .ELC_CTL_MODE,
   .ELC_CTL_GO, .ELC_CTL_RESUME, .ELC_CTL_FORCE_FLOOR, .ELC_CTL_H_IDX,
   .ELC_CTL_FEC, .ELC_HS_STAT_STATE, .ELC_HS_STAT_ICM_RC, .ELC_HS_STAT_FLOOR_TX,
   .ELC_HS_STAT_UNCONFIRMED, .ELC_HS_STAT_ADV_STALE, .ELC_HS_STAT_LOOP_SF, .ELC_HS_STAT_RETRIES,
   .ELC_RX_HS_RSTATE, .ELC_RX_HS_ANN_SEQ, .ELC_RX_HS_MAP_COMPLETE, .ELC_RX_HS_CAUSE]

/-- The fields of ELC, part 1, in the order of the spec's tables. -/
def rowsELC1 : List Row :=
  [.ELC_RX_HS_FLOOR_MISM, .ELC_EVT_RC_FAIL, .ELC_EVT_MIN_BREACH, .ELC_EVT_STORM,
   .ELC_EVT_ICM_RC, .ELC_EVT_FALLBACK, .ELC_EVT_WITHDRAWN, .ELC_EVT_SWITCH,
   .ELC_EVT_COMMIT, .ELC_EVT_ANNOUNCE, .ELC_EVT_ADV_RX, .ELC_ADV_RX_VALID,
   .ELC_ADV_TX_VALID, .ELC_ADV_RX_VIA_ICM, .ELC_ADV_TX_VIA_ICM, .ELC_ADV_RX_SEQ,
   .ELC_ADV_TX_SEQ, .ELC_ADV_RX_H_IDX, .ELC_ADV_TX_H_IDX, .ELC_ADV_RX_FEC,
   .ELC_ADV_TX_FEC, .ELC_ADV_RX_MARGIN, .ELC_ADV_TX_MARGIN, .ELC_CNT0_SWITCHES,
   .ELC_CNT0_ANNOUNCES, .ELC_CNT1_WITHDRAWN, .ELC_CNT1_UNCONFIRMED, .ELC_CNT2_FALLBACKS,
   .ELC_CNT2_LATE_ACKS, .ELC_CNT3_REFUSED, .ELC_CNT3_MISMATCH, .ELC_FLOOR_BAUD,
   .ELC_FLOOR_RX_BAUD, .ELC_FLOOR_H_IDX, .ELC_FLOOR_RX_H_IDX, .ELC_FLOOR_FEC,
   .ELC_FLOOR_RX_FEC, .ELC_FLOOR_SLOTS, .ELC_FLOOR_RX_SLOTS]

/-- The fields of ELC. -/
def rowsELC : List Row := rowsELC0 ++ rowsELC1

/-- The fields of OHD, part 0, in the order of the spec's tables. -/
def rowsOHD0 : List Row :=
  [.OHD_MAP_FILL_FILL, .OHD_MAP_FILL_FRAMES_K, .OHD_FR_STAT_IF, .OHD_FR_STAT_IM,
   .OHD_FR_STAT_SEARCHING, .OHD_FR_STAT_MFX_VALID, .OHD_FR_STAT_CANDS, .OHD_FR_STAT_MFX,
   .OHD_FR_STAT_MFAS, .OHD_EVT_APS_RX, .OHD_EVT_PM_FAIL, .OHD_EVT_SM_FAIL,
   .OHD_EVT_TTI_ACC, .OHD_EVT_IF_CHANGE, .OHD_SM_CFG_TX_AIS, .OHD_SM_CFG_TIM_ACT,
   .OHD_SM_CFG_TIM_MODE, .OHD_DEG_CFG_MODE, .OHD_DEG_CFG_DEGM, .OHD_DEG_CFG_DEGTHR,
   .OHD_DEG_RATE_WIN, .OHD_DEG_RATE_RATE_E, .OHD_DEG_RATE_RATE_M, .OHD_INTEG_SET,
   .OHD_INTEG_CLR, .OHD_SM_DEF_LOF, .OHD_SM_DEF_LOM, .OHD_SM_DEF_AIS,
   .OHD_SM_DEF_TIM, .OHD_SM_DEF_BDI, .OHD_SM_DEF_DEG, .OHD_SM_DEF_IAE,
   .OHD_SM_DEF_BIAE, .OHD_SM_FAIL_LOF, .OHD_SM_FAIL_LOM, .OHD_SM_FAIL_AIS,
   .OHD_SM_FAIL_TIM, .OHD_SM_FAIL_BDI, .OHD_SM_FAIL_DEG, .OHD_SM_FAIL_IAE]

/-- The fields of OHD, part 1, in the order of the spec's tables. -/
def rowsOHD1 : List Row :=
  [.OHD_SM_FAIL_BIAE, .OHD_SM_TTI_TX_BYTES, .OHD_SM_TTI_EXP_BYTES, .OHD_SM_TTI_ACC_BYTES,
   .OHD_GCC_STAT_RX_MSG, .OHD_GCC_STAT_CRC_ERR, .OHD_PM_CFG_LCK, .OHD_PM_CFG_TIM_ACT,
   .OHD_PM_CFG_TIM_MODE, .OHD_PM_DEF_DEF, .OHD_PM_FAIL_FAIL, .OHD_PM_TX_BDI,
   .OHD_PM_TX_STAT, .OHD_APS_TX_VALUE, .OHD_APS_RX_VALUE, .OHD_APS_CNT_CHANGES,
   .OHD_APS_CNT_INCONSISTENT, .OHD_TTI_TX_BYTES, .OHD_TTI_EXP_BYTES, .OHD_TTI_ACC_BYTES,
   .OHD_SMC_FRAMES_COUNT, .OHD_SMC_NE_BIP_COUNT, .OHD_SMC_NE_EB_COUNT, .OHD_SMC_FE_BEI_COUNT,
   .OHD_SMC_FE_EB_COUNT, .OHD_SMC_FAS_FALSE_COUNT, .OHD_SMC_OOF_EV_COUNT, .OHD_SMC_DEF_SEEN_DEFS,
   .OHD_SMC_PS_FRAMES_COUNT, .OHD_SMC_PS_NE_BIP_COUNT, .OHD_SMC_PS_NE_EB_COUNT, .OHD_SMC_PS_FE_BEI_COUNT,
   .OHD_SMC_PS_FE_EB_COUNT, .OHD_SMC_PS_FAS_FALSE_COUNT, .OHD_SMC_PS_OOF_EV_COUNT, .OHD_SMC_PS_DEF_SEEN_DEFS,
   .OHD_PMC_BLOCKS_COUNT, .OHD_PMC_NE_BIP_COUNT, .OHD_PMC_NE_EB_COUNT, .OHD_PMC_FE_BEI_COUNT]

/-- The fields of OHD, part 2, in the order of the spec's tables. -/
def rowsOHD2 : List Row :=
  [.OHD_PMC_FE_EB_COUNT, .OHD_PMC_DEMAP_ERR_COUNT, .OHD_PMC_DEF_SEEN_DEFS, .OHD_PMC_PS_BLOCKS_COUNT,
   .OHD_PMC_PS_NE_BIP_COUNT, .OHD_PMC_PS_NE_EB_COUNT, .OHD_PMC_PS_FE_BEI_COUNT, .OHD_PMC_PS_FE_EB_COUNT,
   .OHD_PMC_PS_DEMAP_ERR_COUNT, .OHD_PMC_PS_DEF_SEEN_DEFS]

/-- The fields of OHD. -/
def rowsOHD : List Row := rowsOHD0 ++ rowsOHD1 ++ rowsOHD2

/-- The fields of OPT, in the order of the spec's tables. -/
def rowsOPT : List Row :=
  [.OPT_TX_FREQ_CH, .OPT_LO_FREQ_CH, .OPT_TX_FREQ_FINE, .OPT_LO_FREQ_FINE,
   .OPT_TX_CTL_ENABLE, .OPT_TX_CTL_RAMP_MS, .OPT_TX_CTL_POWER, .OPT_TX_STAT_STATE,
   .OPT_TX_STAT_TXDIS_PIN, .OPT_TX_STAT_FREQ_LOCKED, .OPT_TX_STAT_LO_LOCKED, .OPT_TX_STAT_POWER_MEAS,
   .OPT_TX_EVT_LO_TUNE_FAIL, .OPT_TX_EVT_LO_TUNE_DONE, .OPT_TX_EVT_TUNE_FAIL, .OPT_TX_EVT_POWER_OOR,
   .OPT_TX_EVT_TXDIS_EDGE, .OPT_TX_EVT_TUNE_DONE, .OPT_TX_EVT_RAMP_DONE, .OPT_RX_LOS_HYST,
   .OPT_RX_LOS_LOS_TH, .OPT_RX_STAT_LOS, .OPT_RX_STAT_POWER_MEAS]

/-- The fields of CNV, part 0, in the order of the spec's tables. -/
def rowsCNV0 : List Row :=
  [.CNV_ADC_CLK_LOCKED, .CNV_DAC_CLK_LOCKED, .CNV_ADC_CLK_FS, .CNV_DAC_CLK_FS,
   .CNV_CAL_CTL_BG_EN, .CNV_CAL_CTL_RESTART, .CNV_CAL_CTL_DWELL, .CNV_CAL_STAT_ROTATING,
   .CNV_CAL_STAT_PARKED, .CNV_CAL_STAT_RISING, .CNV_CAL_STAT_CALIBRATING, .CNV_CAL_STAT_SPARE,
   .CNV_CAL_STAT_SKEW_SKIPPED, .CNV_CAL_STAT_SWEEPS, .CNV_PARK_EN, .CNV_PARK_SLICE,
   .CNV_QUAL_VALID, .CNV_DAC_QUAL_VALID, .CNV_QUAL_RES_SKEW, .CNV_DAC_QUAL_RES_SKEW,
   .CNV_QUAL_RES_SPUR, .CNV_DAC_QUAL_RES_SPUR, .CNV_DAC_CAL_BUSY, .CNV_DAC_CAL_REFUSED,
   .CNV_DAC_CAL_DONE, .CNV_DAC_CAL_START, .CNV_EVT_DAC_CAL_DONE, .CNV_EVT_PARK_DONE,
   .CNV_EVT_SWEEP_DONE, .CNV_TRIM_SKEW_TAP, .CNV_TRIM_GAIN, .CNV_TRIM_OFFSET,
   .CNV_DIM_SUM_LO_SUM, .CNV_DIM_SUM_HI_SUM, .CNV_DIM_SQ_LO_SQ, .CNV_DIM_SQ_HI_SQ,
   .CNV_DIM_CNT_LO_CNT, .CNV_DIM_CNT_HI_CNT, .CNV_DIM_MINMAX_MAX, .CNV_DIM_MINMAX_MIN]

/-- The fields of CNV, part 1, in the order of the spec's tables. -/
def rowsCNV1 : List Row :=
  [.CNV_DIM_FLAGS_STALE, .CNV_DIM_FLAGS_IN_SERVICE, .CNV_DIM_FLAGS_POSITION, .CNV_DIM_FLAGS_FULL_SCALE,
   .CNV_SLICE_SUM_LO_SUM, .CNV_SLICE_SUM_HI_SUM, .CNV_SLICE_SQ_LO_SQ, .CNV_SLICE_SQ_HI_SQ,
   .CNV_SLICE_CNT_LO_CNT, .CNV_SLICE_CNT_HI_CNT, .CNV_SLICE_MINMAX_MAX, .CNV_SLICE_MINMAX_MIN,
   .CNV_SLICE_FLAGS_STALE, .CNV_SLICE_FLAGS_IN_SERVICE, .CNV_SLICE_FLAGS_POSITION, .CNV_SLICE_FLAGS_FULL_SCALE]

/-- The fields of CNV. -/
def rowsCNV : List Row := rowsCNV0 ++ rowsCNV1

/-- The fields of FEC, part 0, in the order of the spec's tables. -/
def rowsFEC0 : List Row :=
  [.FEC_CFG_EARLY_STOP, .FEC_CFG_ITER_MAX, .FEC_STAT_LOCKED, .FEC_STAT_SF,
   .FEC_STAT_SD, .FEC_STAT_PROFILE_RX, .FEC_STAT_PROFILE_TX, .FEC_EVT_LOCK_LOSS,
   .FEC_EVT_LOCK, .FEC_EVT_SD_CHANGE, .FEC_EVT_SF_CHANGE, .FEC_SF_CFG_SD_TH,
   .FEC_SF_CFG_SF_TH, .FEC_INJ_EN, .FEC_INJ_EXP, .FEC_ACCT_A_DM_BITS,
   .FEC_ACCT_A_BLOCKS, .FEC_ACCT_P_PARITY, .FEC_ACCT_I_INFO, .FEC_BLOCKS_LO_BLOCKS,
   .FEC_BLOCKS_HI_BLOCKS, .FEC_UNCORR_LO_UNCORR, .FEC_UNCORR_HI_UNCORR, .FEC_UNCORR_P1_LO_UNCORR_P1,
   .FEC_UNCORR_P1_HI_UNCORR_P1, .FEC_BITS_LO_BITS, .FEC_BITS_HI_BITS, .FEC_ERR_BITS_LO_ERR_BITS,
   .FEC_ERR_BITS_HI_ERR_BITS, .FEC_DEMATCH_LO_DEMATCH_ERR, .FEC_DEMATCH_HI_DEMATCH_ERR, .FEC_ITER_LO_ITER_SUM,
   .FEC_ITER_HI_ITER_SUM, .FEC_BLOCKS_PS_LO_BLOCKS, .FEC_BLOCKS_PS_HI_BLOCKS, .FEC_UNCORR_PS_LO_UNCORR,
   .FEC_UNCORR_PS_HI_UNCORR, .FEC_UNCORR_P1_PS_LO_UNCORR_P1, .FEC_UNCORR_P1_PS_HI_UNCORR_P1, .FEC_BITS_PS_LO_BITS]

/-- The fields of FEC, part 1, in the order of the spec's tables. -/
def rowsFEC1 : List Row :=
  [.FEC_BITS_PS_HI_BITS, .FEC_ERR_BITS_PS_LO_ERR_BITS, .FEC_ERR_BITS_PS_HI_ERR_BITS, .FEC_DEMATCH_PS_LO_DEMATCH_ERR,
   .FEC_DEMATCH_PS_HI_DEMATCH_ERR, .FEC_ITER_PS_LO_ITER_SUM, .FEC_ITER_PS_HI_ITER_SUM]

/-- The fields of FEC. -/
def rowsFEC : List Row := rowsFEC0 ++ rowsFEC1

end Sys2Proof.Machine
end

