-- ==== Sys2Proof/Machine/RegsSide.lean ====
section
/-!
DEFINITION. The spec's register tables for the regions SDS, COR, SUP and ICM, one definition per field.
Each names, in this order: its own number, the BAR0 byte offset of the first instance, the instances' counts and
strides, its lowest bit, its width, its access, its change class, its value after reset, where that value comes
from, what a written value is taken as, and whether it is a count.
-/

namespace Sys2Proof.Machine

/-- R143: SUP.SEQ_CTL.LEN [4:0]. -/
def Row.SUP_SEQ_CTL_LEN : Row := ⟨238, 0xE0000, [], 0, 5, .rw, .shadowed, 0, .fp, .keep, .no⟩

/-- R143: SUP.SEQ_SLOT.EN [5]. -/
def Row.SUP_SEQ_SLOT_EN : Row := ⟨239, 0xE0010, [(16, 0x4)], 5, 1, .rw, .shadowed, 0, .fp, .keep, .no⟩

/-- R143: SUP.SEQ_SLOT.CH [4:0]. -/
def Row.SUP_SEQ_SLOT_CH : Row := ⟨240, 0xE0010, [(16, 0x4)], 0, 5, .rw, .shadowed, 0, .fp, .keep, .no⟩

/-- R145: SUP.INJ_SLOT.TRIG [21:16]. -/
def Row.SUP_INJ_SLOT_TRIG : Row := ⟨241, 0xE0060, [(4, 0x4)], 16, 6, .rw, .shadowed, 0, .fp, .keep, .no⟩

/-- R145: SUP.INJ_SLOT.CH [4:0]. -/
def Row.SUP_INJ_SLOT_CH : Row := ⟨242, 0xE0060, [(4, 0x4)], 0, 5, .rw, .shadowed, 0, .fp, .keep, .no⟩

/-- R145: SUP.INJ_CTL.GO [0]. -/
def Row.SUP_INJ_CTL_GO : Row := ⟨243, 0xE0070, [], 0, 1, .wo, .live, 0, .val, .keep, .no⟩

/-- R145: SUP.INJ_STAT.BUSY [31]. -/
def Row.SUP_INJ_STAT_BUSY : Row := ⟨244, 0xE0074, [], 31, 1, .ro, .none, 0, .val, .keep, .no⟩

/-- R145: SUP.INJ_STAT.MERGED [23:16]. -/
def Row.SUP_INJ_STAT_MERGED : Row := ⟨245, 0xE0074, [], 16, 8, .ro, .none, 0, .val, .keep, .live⟩

/-- R145: SUP.INJ_STAT.RUNS [15:0]. -/
def Row.SUP_INJ_STAT_RUNS : Row := ⟨246, 0xE0074, [], 0, 16, .ro, .none, 0, .val, .keep, .live⟩

/-- R149: SUP.DEC_CFG.SOURCE [31:26]. -/
def Row.SUP_DEC_CFG_SOURCE : Row := ⟨247, 0xE0100, [(24, 0x4)], 26, 6, .ro, .none, 0, .fp, .keep, .no⟩

/-- R149: SUP.DEC_CFG.SHIFT [25:20]. -/
def Row.SUP_DEC_CFG_SHIFT : Row := ⟨248, 0xE0100, [(24, 0x4)], 20, 6, .rw, .shadowed, 0, .fp, .keep, .no⟩

/-- R149: SUP.DEC_CFG.FIR_D [19:18]. -/
def Row.SUP_DEC_CFG_FIR_D : Row := ⟨249, 0xE0100, [(24, 0x4)], 18, 2, .rw, .shadowed, 0, .fp, .sub 3 2, .no⟩

/-- R149: SUP.DEC_CFG.ORDER [17:16]. -/
def Row.SUP_DEC_CFG_ORDER : Row := ⟨250, 0xE0100, [(24, 0x4)], 16, 2, .rw, .shadowed, 0, .fp, .keep, .no⟩

/-- R149: SUP.DEC_CFG.R [11:0]. -/
def Row.SUP_DEC_CFG_R : Row := ⟨251, 0xE0100, [(24, 0x4)], 0, 12, .rw, .shadowed, 0, .fp, .sub 0 1, .no⟩

/-- R149: SUP.DEC_STAT.SAT [31]. -/
def Row.SUP_DEC_STAT_SAT : Row := ⟨252, 0xE0180, [(24, 0x4)], 31, 1, .w1c, .live, 0, .val, .keep, .no⟩

/-- R149: SUP.DEC_STAT.UNSETTLED [30]. -/
def Row.SUP_DEC_STAT_UNSETTLED : Row := ⟨253, 0xE0180, [(24, 0x4)], 30, 1, .ro, .none, 1, .val, .keep, .no⟩

/-- R149: SUP.DEC_STAT.RESETS [15:0]. -/
def Row.SUP_DEC_STAT_RESETS : Row := ⟨254, 0xE0180, [(24, 0x4)], 0, 16, .ro, .none, 0, .val, .keep, .live⟩

/-- R149: SUP.DEC_RESET.CTX [23:0]. -/
def Row.SUP_DEC_RESET_CTX : Row := ⟨255, 0xE01F0, [], 0, 24, .wo, .live, 0, .val, .keep, .no⟩

/-- R152: SUP.CAL_CTL.AUTO_EN [31]. -/
def Row.SUP_CAL_CTL_AUTO_EN : Row := ⟨256, 0xE0080, [], 31, 1, .rw, .shadowed, 0, .fp, .keep, .no⟩

/-- R152: SUP.CAL_CTL.START [30]. -/
def Row.SUP_CAL_CTL_START : Row := ⟨257, 0xE0080, [], 30, 1, .wo, .live, 0, .val, .keep, .no⟩

/-- R152: SUP.CAL_CTL.BUSY [29]. -/
def Row.SUP_CAL_CTL_BUSY : Row := ⟨258, 0xE0080, [], 29, 1, .ro, .none, 0, .val, .keep, .no⟩

/-- R152: SUP.CAL_CTL.DEFERRED [28]. -/
def Row.SUP_CAL_CTL_DEFERRED : Row := ⟨259, 0xE0080, [], 28, 1, .ro, .none, 0, .val, .keep, .no⟩

/-- R152: SUP.CAL_CTL.COUNT [15:0]. -/
def Row.SUP_CAL_CTL_COUNT : Row := ⟨260, 0xE0080, [], 0, 16, .ro, .none, 0, .val, .keep, .live⟩

/-- R152: SUP.EVT.SEQ_REFUSED [2]. -/
def Row.SUP_EVT_SEQ_REFUSED : Row := ⟨261, 0xE0090, [], 2, 1, .w1c, .live, 0, .val, .keep, .no⟩

/-- R152: SUP.EVT.SAT [1]. -/
def Row.SUP_EVT_SAT : Row := ⟨262, 0xE0090, [], 1, 1, .w1c, .live, 0, .val, .keep, .no⟩

/-- R152: SUP.EVT.CAL_DONE [0]. -/
def Row.SUP_EVT_CAL_DONE : Row := ⟨263, 0xE0090, [], 0, 1, .w1c, .live, 0, .val, .keep, .no⟩

/-- R152: SUP.CH_SUM_LO.SUM [31:0]. -/
def Row.SUP_CH_SUM_LO_SUM : Row := ⟨264, 0xE1000, [(24, 0x20)], 0, 32, .ro, .none, 0, .val, .keep, .ps⟩

/-- R152: SUP.CH_SUM_HI.SUM [31:0]. -/
def Row.SUP_CH_SUM_HI_SUM : Row := ⟨265, 0xE1004, [(24, 0x20)], 0, 32, .ro, .none, 0, .val, .keep, .ps⟩

/-- R152: SUP.CH_SQ_LO.SQ [31:0]. -/
def Row.SUP_CH_SQ_LO_SQ : Row := ⟨266, 0xE1008, [(24, 0x20)], 0, 32, .ro, .none, 0, .val, .keep, .ps⟩

/-- R152: SUP.CH_SQ_HI.SQ [31:0]. -/
def Row.SUP_CH_SQ_HI_SQ : Row := ⟨267, 0xE100C, [(24, 0x20)], 0, 32, .ro, .none, 0, .val, .keep, .ps⟩

/-- R152: SUP.CH_CNT.CNT [31:0]. -/
def Row.SUP_CH_CNT_CNT : Row := ⟨268, 0xE1010, [(24, 0x20)], 0, 32, .ro, .none, 0, .val, .keep, .ps⟩

/-- R152: SUP.CH_MINMAX.MAX [31:16]. -/
def Row.SUP_CH_MINMAX_MAX : Row := ⟨269, 0xE1014, [(24, 0x20)], 16, 16, .ro, .none, 0, .val, .keep, .ps⟩

/-- R152: SUP.CH_MINMAX.MIN [15:0]. -/
def Row.SUP_CH_MINMAX_MIN : Row := ⟨270, 0xE1014, [(24, 0x20)], 0, 16, .ro, .none, 0, .val, .keep, .ps⟩

/-- R152: SUP.CH_FLAGS.STALE [31]. -/
def Row.SUP_CH_FLAGS_STALE : Row := ⟨271, 0xE1018, [(24, 0x20)], 31, 1, .ro, .none, 1, .val, .keep, .ps⟩

/-- R152: SUP.CH_FLAGS.SAT [30]. -/
def Row.SUP_CH_FLAGS_SAT : Row := ⟨272, 0xE1018, [(24, 0x20)], 30, 1, .ro, .none, 0, .val, .keep, .ps⟩

/-- R152: SUP.CH_FLAGS.DECIMATED [29]. -/
def Row.SUP_CH_FLAGS_DECIMATED : Row := ⟨273, 0xE1018, [(24, 0x20)], 29, 1, .ro, .none, 0, .val, .keep, .ps⟩

/-- R152: SUP.CH_FLAGS.UNSETTLED [15:0]. -/
def Row.SUP_CH_FLAGS_UNSETTLED : Row := ⟨274, 0xE1018, [(24, 0x20)], 0, 16, .ro, .none, 0, .val, .keep, .ps⟩

/-- R152: SUP.CH_INJ.COUNT [15:0]. -/
def Row.SUP_CH_INJ_COUNT : Row := ⟨275, 0xE101C, [(24, 0x20)], 0, 16, .ro, .none, 0, .val, .keep, .ps⟩

/-- R212: ICM.NET_CFG.RX_ANY [31]. -/
def Row.ICM_NET_CFG_RX_ANY : Row := ⟨393, 0xF0000, [(2, 0x1000)], 31, 1, .rw, .shadowed, 0, .val, .keep, .no⟩

/-- R212: ICM.NET_CFG.TX_ID [25:16]. -/
def Row.ICM_NET_CFG_TX_ID : Row := ⟨394, 0xF0000, [(2, 0x1000)], 16, 10, .rw, .shadowed, 0, .fp, .keep, .no⟩

/-- R212: ICM.NET_CFG.RX_ID [9:0]. -/
def Row.ICM_NET_CFG_RX_ID : Row := ⟨395, 0xF0000, [(2, 0x1000)], 0, 10, .rw, .shadowed, 0, .fp, .keep, .no⟩

/-- R212: ICM.TX_CFG.EN [31]. -/
def Row.ICM_TX_CFG_EN : Row := ⟨396, 0xF0004, [(2, 0x1000)], 31, 1, .rw, .shadowed, 0, .fp, .keep, .no⟩

/-- R212: ICM.TX_CFG.SF [19:16]. -/
def Row.ICM_TX_CFG_SF : Row := ⟨397, 0xF0004, [(2, 0x1000)], 16, 4, .rw, .shadowed, 0, .fp, .clamp 7 12, .no⟩

/-- R212: ICM.TX_CFG.DEPTH [5:0]. -/
def Row.ICM_TX_CFG_DEPTH : Row := ⟨398, 0xF0004, [(2, 0x1000)], 0, 6, .rw, .shadowed, 0, .fp, .clamp 5 40, .no⟩

/-- R212: ICM.RX_CFG.EN [31]. -/
def Row.ICM_RX_CFG_EN : Row := ⟨399, 0xF0008, [(2, 0x1000)], 31, 1, .rw, .shadowed, 0, .fp, .keep, .no⟩

/-- R212: ICM.RX_CFG.CAPTURE [30]. -/
def Row.ICM_RX_CFG_CAPTURE : Row := ⟨400, 0xF0008, [(2, 0x1000)], 30, 1, .rw, .shadowed, 0, .val, .keep, .no⟩

/-- R212: ICM.RX_CFG.SF [19:16]. -/
def Row.ICM_RX_CFG_SF : Row := ⟨401, 0xF0008, [(2, 0x1000)], 16, 4, .rw, .shadowed, 0, .fp, .clamp 7 12, .no⟩

/-- R212: ICM.RX_CFG.CAPTURE_MARGIN [15:8]. -/
def Row.ICM_RX_CFG_CAPTURE_MARGIN : Row := ⟨402, 0xF0008, [(2, 0x1000)], 8, 8, .rw, .shadowed, 12, .val, .clamp 0 40, .no⟩

/-- R212: ICM.RX_CFG.DET_TH [7:0]. -/
def Row.ICM_RX_CFG_DET_TH : Row := ⟨403, 0xF0008, [(2, 0x1000)], 0, 8, .rw, .shadowed, 0, .fp, .keep, .no⟩

/-- R212: ICM.RX_STAT.STATE [31:29]. -/
def Row.ICM_RX_STAT_STATE : Row := ⟨404, 0xF000C, [(2, 0x1000)], 29, 3, .ro, .none, 0, .val, .keep, .no⟩

/-- R212: ICM.RX_STAT.AGC_FROZEN [28]. -/
def Row.ICM_RX_STAT_AGC_FROZEN : Row := ⟨405, 0xF000C, [(2, 0x1000)], 28, 1, .ro, .none, 0, .val, .keep, .no⟩

/-- R212: ICM.RX_STAT.LAST_ID [25:16]. -/
def Row.ICM_RX_STAT_LAST_ID : Row := ⟨406, 0xF000C, [(2, 0x1000)], 16, 10, .ro, .none, 0, .val, .keep, .no⟩

/-- R212: ICM.RX_STAT.LAST_SNR [15:0]. -/
def Row.ICM_RX_STAT_LAST_SNR : Row := ⟨407, 0xF000C, [(2, 0x1000)], 0, 16, .ro, .none, 0, .val, .keep, .no⟩

/-- R212: ICM.EVT.USER_REFUSED [6]. -/
def Row.ICM_EVT_USER_REFUSED : Row := ⟨408, 0xF0010, [(2, 0x1000)], 6, 1, .w1c, .live, 0, .val, .keep, .no⟩

/-- R212: ICM.EVT.USER_OVF [5]. -/
def Row.ICM_EVT_USER_OVF : Row := ⟨409, 0xF0010, [(2, 0x1000)], 5, 1, .w1c, .live, 0, .val, .keep, .no⟩

/-- R212: ICM.EVT.TX_ABORT [4]. -/
def Row.ICM_EVT_TX_ABORT : Row := ⟨410, 0xF0010, [(2, 0x1000)], 4, 1, .w1c, .live, 0, .val, .keep, .no⟩

/-- R212: ICM.EVT.ALARM_RX [3]. -/
def Row.ICM_EVT_ALARM_RX : Row := ⟨411, 0xF0010, [(2, 0x1000)], 3, 1, .w1c, .live, 0, .val, .keep, .no⟩

/-- R212: ICM.EVT.BRINGUP_RX [2]. -/
def Row.ICM_EVT_BRINGUP_RX : Row := ⟨412, 0xF0010, [(2, 0x1000)], 2, 1, .w1c, .live, 0, .val, .keep, .no⟩

/-- R212: ICM.EVT.TAG_RX [1]. -/
def Row.ICM_EVT_TAG_RX : Row := ⟨413, 0xF0010, [(2, 0x1000)], 1, 1, .w1c, .live, 0, .val, .keep, .no⟩

/-- R212: ICM.EVT.USER_RX [0]. -/
def Row.ICM_EVT_USER_RX : Row := ⟨414, 0xF0010, [(2, 0x1000)], 0, 1, .w1c, .live, 0, .val, .keep, .no⟩

/-- R212: ICM.CNT0.DETECT [31:16]. -/
def Row.ICM_CNT0_DETECT : Row := ⟨415, 0xF0020, [(2, 0x1000)], 16, 16, .ro, .none, 0, .val, .keep, .live⟩

/-- R212: ICM.CNT0.RX_OK [15:0]. -/
def Row.ICM_CNT0_RX_OK : Row := ⟨416, 0xF0020, [(2, 0x1000)], 0, 16, .ro, .none, 0, .val, .keep, .live⟩

/-- R212: ICM.CNT1.SYNC_FAIL [31:16]. -/
def Row.ICM_CNT1_SYNC_FAIL : Row := ⟨417, 0xF0024, [(2, 0x1000)], 16, 16, .ro, .none, 0, .val, .keep, .live⟩

/-- R212: ICM.CNT1.NETID_MISM [15:0]. -/
def Row.ICM_CNT1_NETID_MISM : Row := ⟨418, 0xF0024, [(2, 0x1000)], 0, 16, .ro, .none, 0, .val, .keep, .live⟩

/-- R212: ICM.CNT2.HDR_FAIL [31:16]. -/
def Row.ICM_CNT2_HDR_FAIL : Row := ⟨419, 0xF0028, [(2, 0x1000)], 16, 16, .ro, .none, 0, .val, .keep, .live⟩

/-- R212: ICM.CNT2.PAY_FAIL [15:0]. -/
def Row.ICM_CNT2_PAY_FAIL : Row := ⟨420, 0xF0028, [(2, 0x1000)], 0, 16, .ro, .none, 0, .val, .keep, .live⟩

/-- R212: ICM.CNT3.CAPTURED [31:16]. -/
def Row.ICM_CNT3_CAPTURED : Row := ⟨421, 0xF002C, [(2, 0x1000)], 16, 16, .ro, .none, 0, .val, .keep, .live⟩

/-- R212: ICM.CNT3.CAPT_IGNORED [15:0]. -/
def Row.ICM_CNT3_CAPT_IGNORED : Row := ⟨422, 0xF002C, [(2, 0x1000)], 0, 16, .ro, .none, 0, .val, .keep, .live⟩

/-- R212: ICM.CNT4.TX_FRAMES [31:16]. -/
def Row.ICM_CNT4_TX_FRAMES : Row := ⟨423, 0xF0030, [(2, 0x1000)], 16, 16, .ro, .none, 0, .val, .keep, .live⟩

/-- R212: ICM.CNT4.TX_ABORT [15:0]. -/
def Row.ICM_CNT4_TX_ABORT : Row := ⟨424, 0xF0030, [(2, 0x1000)], 0, 16, .ro, .none, 0, .val, .keep, .live⟩

/-- R212: ICM.CNT5.USER_OVF [31:16]. -/
def Row.ICM_CNT5_USER_OVF : Row := ⟨425, 0xF0034, [(2, 0x1000)], 16, 16, .ro, .none, 0, .val, .keep, .live⟩

/-- R212: ICM.CNT5.ERASED [15:0]. -/
def Row.ICM_CNT5_ERASED : Row := ⟨426, 0xF0034, [(2, 0x1000)], 0, 16, .ro, .none, 0, .val, .keep, .live⟩

/-- R212: ICM.BR0.VALID [31]. -/
def Row.ICM_BR0_VALID : Row := ⟨427, 0xF0040, [(2, 0x1000)], 31, 1, .ro, .none, 0, .val, .keep, .no⟩

/-- R212: ICM.BR0.HEARD [30]. -/
def Row.ICM_BR0_HEARD : Row := ⟨428, 0xF0040, [(2, 0x1000)], 30, 1, .ro, .none, 0, .val, .keep, .no⟩

/-- R212: ICM.BR0.BAUD_DIFF [29]. -/
def Row.ICM_BR0_BAUD_DIFF : Row := ⟨429, 0xF0040, [(2, 0x1000)], 29, 1, .ro, .none, 0, .val, .keep, .no⟩

/-- R212: ICM.BR0.RX_STATE [27:24]. -/
def Row.ICM_BR0_RX_STATE : Row := ⟨430, 0xF0040, [(2, 0x1000)], 24, 4, .ro, .none, 0, .val, .keep, .no⟩

/-- R212: ICM.BR0.TX_BAUD [21:11]. -/
def Row.ICM_BR0_TX_BAUD : Row := ⟨431, 0xF0040, [(2, 0x1000)], 11, 11, .ro, .none, 0, .val, .keep, .no⟩

/-- R212: ICM.BR0.RX_BAUD [10:0]. -/
def Row.ICM_BR0_RX_BAUD : Row := ⟨432, 0xF0040, [(2, 0x1000)], 0, 11, .ro, .none, 0, .val, .keep, .no⟩

/-- R212: ICM.BR1.FLOOR_BAUD [31:21]. -/
def Row.ICM_BR1_FLOOR_BAUD : Row := ⟨433, 0xF0044, [(2, 0x1000)], 21, 11, .ro, .none, 0, .val, .keep, .no⟩

/-- R212: ICM.BR1.FLOOR_H [20:14]. -/
def Row.ICM_BR1_FLOOR_H : Row := ⟨434, 0xF0044, [(2, 0x1000)], 14, 7, .ro, .none, 0, .val, .keep, .no⟩

/-- R212: ICM.BR1.FLOOR_FEC [13]. -/
def Row.ICM_BR1_FLOOR_FEC : Row := ⟨435, 0xF0044, [(2, 0x1000)], 13, 1, .ro, .none, 0, .val, .keep, .no⟩

/-- R212: ICM.BR1.TX_CH [12:0]. -/
def Row.ICM_BR1_TX_CH : Row := ⟨436, 0xF0044, [(2, 0x1000)], 0, 13, .ro, .none, 0, .val, .keep, .no⟩

/-- R212: ICM.FAR_ALARM.ALARMS [5:0]. -/
def Row.ICM_FAR_ALARM_ALARMS : Row := ⟨437, 0xF0050, [(2, 0x1000)], 0, 6, .ro, .none, 0, .val, .keep, .no⟩

/-- R212: ICM.TAG_RX.BYTES [31:0]. -/
def Row.ICM_TAG_RX_BYTES : Row := ⟨438, 0xF0060, [(2, 0x1000), (4, 0x4)], 0, 32, .ro, .none, 0, .val, .keep, .no⟩

/-- R212: ICM.TAG_CFG.PERIOD [31:24]. -/
def Row.ICM_TAG_CFG_PERIOD : Row := ⟨439, 0xF0070, [(2, 0x1000)], 24, 8, .rw, .shadowed, 0, .fp, .keep, .no⟩

/-- R212: ICM.TAG_LABEL.LABEL [31:0]. -/
def Row.ICM_TAG_LABEL_LABEL : Row := ⟨440, 0xF0074, [(2, 0x1000)], 0, 32, .rw, .shadowed, 0, .fp, .keep, .no⟩

/-- R212: ICM.USER_TX_DATA.BYTES [31:0]. -/
def Row.ICM_USER_TX_DATA_BYTES : Row := ⟨441, 0xF0100, [(2, 0x1000), (12, 0x4)], 0, 32, .rw, .live, 0, .val, .keep, .no⟩

/-- R212: ICM.USER_RX_DATA.BYTES [31:0]. -/
def Row.ICM_USER_RX_DATA_BYTES : Row := ⟨442, 0xF0140, [(2, 0x1000), (12, 0x4)], 0, 32, .ro, .none, 0, .val, .keep, .no⟩

/-- R212: ICM.USER_TX_CTL.SEND [31]. -/
def Row.ICM_USER_TX_CTL_SEND : Row := ⟨443, 0xF0130, [(2, 0x1000)], 31, 1, .wo, .live, 0, .val, .keep, .no⟩

/-- R212: ICM.USER_TX_CTL.QUEUED [26:24]. -/
def Row.ICM_USER_TX_CTL_QUEUED : Row := ⟨444, 0xF0130, [(2, 0x1000)], 24, 3, .ro, .none, 0, .val, .keep, .no⟩

/-- R212: ICM.USER_TX_CTL.LEN [5:0]. -/
def Row.ICM_USER_TX_CTL_LEN : Row := ⟨445, 0xF0130, [(2, 0x1000)], 0, 6, .rw, .live, 0, .val, .clamp 1 48, .no⟩

/-- R212: ICM.USER_RX_CTL.POP [31]. -/
def Row.ICM_USER_RX_CTL_POP : Row := ⟨446, 0xF0170, [(2, 0x1000)], 31, 1, .wo, .live, 0, .val, .keep, .no⟩

/-- R212: ICM.USER_RX_CTL.VALID [30]. -/
def Row.ICM_USER_RX_CTL_VALID : Row := ⟨447, 0xF0170, [(2, 0x1000)], 30, 1, .ro, .none, 0, .val, .keep, .no⟩

/-- R212: ICM.USER_RX_CTL.COUNT [26:24]. -/
def Row.ICM_USER_RX_CTL_COUNT : Row := ⟨448, 0xF0170, [(2, 0x1000)], 24, 3, .ro, .none, 0, .val, .keep, .no⟩

/-- R212: ICM.USER_RX_CTL.MSEQ [15:8]. -/
def Row.ICM_USER_RX_CTL_MSEQ : Row := ⟨449, 0xF0170, [(2, 0x1000)], 8, 8, .ro, .none, 0, .val, .keep, .no⟩

/-- R212: ICM.USER_RX_CTL.LEN [5:0]. -/
def Row.ICM_USER_RX_CTL_LEN : Row := ⟨450, 0xF0170, [(2, 0x1000)], 0, 6, .ro, .none, 0, .val, .keep, .no⟩

/-- R330: SDS.LANE_CTL.ENABLE [31]. -/
def Row.SDS_LANE_CTL_ENABLE : Row := ⟨757, 0xC0000, [(32, 0x100)], 31, 1, .rw, .live, 0, .fp, .keep, .no⟩

/-- R330: SDS.LANE_CTL.TX_STATE [29:28]. -/
def Row.SDS_LANE_CTL_TX_STATE : Row := ⟨758, 0xC0000, [(32, 0x100)], 28, 2, .rw, .live, 0, .val, .sub 3 2, .no⟩

/-- R330: SDS.LANE_CTL.RX_STATE [25:24]. -/
def Row.SDS_LANE_CTL_RX_STATE : Row := ⟨759, 0xC0000, [(32, 0x100)], 24, 2, .rw, .live, 0, .val, .sub 3 2, .no⟩

/-- R330: SDS.LANE_CTL.RESTART [20]. -/
def Row.SDS_LANE_CTL_RESTART : Row := ⟨760, 0xC0000, [(32, 0x100)], 20, 1, .wo, .live, 0, .val, .keep, .no⟩

/-- R330: SDS.LANE_CTL.FORCE_ADAPT [16]. -/
def Row.SDS_LANE_CTL_FORCE_ADAPT : Row := ⟨761, 0xC0000, [(32, 0x100)], 16, 1, .rw, .frozen, 0, .fp, .keep, .no⟩

/-- R330: SDS.LANE_CTL.TX_INV [12]. -/
def Row.SDS_LANE_CTL_TX_INV : Row := ⟨762, 0xC0000, [(32, 0x100)], 12, 1, .ro, .none, 0, .fp, .keep, .no⟩

/-- R330: SDS.LANE_CTL.TX_REV [11]. -/
def Row.SDS_LANE_CTL_TX_REV : Row := ⟨763, 0xC0000, [(32, 0x100)], 11, 1, .ro, .none, 0, .fp, .keep, .no⟩

/-- R330: SDS.LANE_STAT.STAGE [31:28]. -/
def Row.SDS_LANE_STAT_STAGE : Row := ⟨764, 0xC0004, [(32, 0x100)], 28, 4, .ro, .none, 0, .val, .keep, .no⟩

/-- R330: SDS.LANE_STAT.FAIL_REASON [27:24]. -/
def Row.SDS_LANE_STAT_FAIL_REASON : Row := ⟨765, 0xC0004, [(32, 0x100)], 24, 4, .ro, .none, 0, .val, .keep, .no⟩

/-- R330: SDS.LANE_STAT.RX_INV [23]. -/
def Row.SDS_LANE_STAT_RX_INV : Row := ⟨766, 0xC0004, [(32, 0x100)], 23, 1, .ro, .none, 0, .val, .keep, .no⟩

/-- R330: SDS.LANE_STAT.ADAPTIVE [22]. -/
def Row.SDS_LANE_STAT_ADAPTIVE : Row := ⟨767, 0xC0004, [(32, 0x100)], 22, 1, .ro, .none, 0, .val, .keep, .no⟩

/-- R330: SDS.LANE_STAT.REVERSED [21]. -/
def Row.SDS_LANE_STAT_REVERSED : Row := ⟨768, 0xC0004, [(32, 0x100)], 21, 1, .ro, .none, 0, .val, .keep, .no⟩

/-- R330: SDS.LANE_STAT.PRBS_LOCK [20]. -/
def Row.SDS_LANE_STAT_PRBS_LOCK : Row := ⟨769, 0xC0004, [(32, 0x100)], 20, 1, .ro, .none, 0, .val, .keep, .no⟩

/-- R330: SDS.LANE_STAT.TX_HALF [19:18]. -/
def Row.SDS_LANE_STAT_TX_HALF : Row := ⟨770, 0xC0004, [(32, 0x100)], 18, 2, .ro, .none, 2, .val, .keep, .no⟩

/-- R330: SDS.LANE_STAT.RX_HALF [17:16]. -/
def Row.SDS_LANE_STAT_RX_HALF : Row := ⟨771, 0xC0004, [(32, 0x100)], 16, 2, .ro, .none, 2, .val, .keep, .no⟩

/-- R330: SDS.LANE_FOM.FOM [15:0]. -/
def Row.SDS_LANE_FOM_FOM : Row := ⟨772, 0xC0008, [(32, 0x100)], 0, 16, .ro, .none, 0, .val, .keep, .no⟩

/-- R330: SDS.TXEQ.CM2 [31:24]. -/
def Row.SDS_TXEQ_CM2 : Row := ⟨773, 0xC0010, [(32, 0x100)], 24, 8, .rw, .frozen, 0, .fp, .keep, .no⟩

/-- R330: SDS.TXEQ.CM1 [23:16]. -/
def Row.SDS_TXEQ_CM1 : Row := ⟨774, 0xC0010, [(32, 0x100)], 16, 8, .rw, .frozen, 0, .fp, .keep, .no⟩

/-- R330: SDS.TXEQ.C0 [15:8]. -/
def Row.SDS_TXEQ_C0 : Row := ⟨775, 0xC0010, [(32, 0x100)], 8, 8, .rw, .frozen, 0, .fp, .keep, .no⟩

/-- R330: SDS.TXEQ.CP1 [7:0]. -/
def Row.SDS_TXEQ_CP1 : Row := ⟨776, 0xC0010, [(32, 0x100)], 0, 8, .rw, .frozen, 0, .fp, .keep, .no⟩

/-- R330: SDS.RXEQ.CTLE [28:24]. -/
def Row.SDS_RXEQ_CTLE : Row := ⟨777, 0xC0014, [(32, 0x100)], 24, 5, .rw, .frozen, 0, .fp, .keep, .no⟩

/-- R330: SDS.RXEQ.GAIN [20:16]. -/
def Row.SDS_RXEQ_GAIN : Row := ⟨778, 0xC0014, [(32, 0x100)], 16, 5, .rw, .frozen, 0, .fp, .keep, .no⟩

/-- R330: SDS.RXEQ.FOM_MIN [8:0]. -/
def Row.SDS_RXEQ_FOM_MIN : Row := ⟨779, 0xC0014, [(32, 0x100)], 0, 9, .rw, .frozen, 0, .fp, .clamp 100 300, .no⟩

/-- R330: SDS.DFE_FIX.T1 [31:24]. -/
def Row.SDS_DFE_FIX_T1 : Row := ⟨780, 0xC0018, [(32, 0x100)], 24, 8, .rw, .frozen, 0, .fp, .keep, .no⟩

/-- R330: SDS.DFE_FIX.T2 [23:16]. -/
def Row.SDS_DFE_FIX_T2 : Row := ⟨781, 0xC0018, [(32, 0x100)], 16, 8, .rw, .frozen, 0, .fp, .keep, .no⟩

/-- R330: SDS.DFE_FIX.T3 [15:8]. -/
def Row.SDS_DFE_FIX_T3 : Row := ⟨782, 0xC0018, [(32, 0x100)], 8, 8, .rw, .frozen, 0, .fp, .keep, .no⟩

/-- R330: SDS.DFE_ADAPT.TAP_0 [7:0]. -/
def Row.SDS_DFE_ADAPT_TAP_0 : Row := ⟨783, 0xC0020, [(32, 0x100), (6, 0x4)], 0, 8, .ro, .none, 0, .val, .keep, .no⟩

/-- R330: SDS.DFE_ADAPT.TAP_1 [15:8]. -/
def Row.SDS_DFE_ADAPT_TAP_1 : Row := ⟨784, 0xC0020, [(32, 0x100), (6, 0x4)], 8, 8, .ro, .none, 0, .val, .keep, .no⟩

/-- R330: SDS.DFE_ADAPT.TAP_2 [23:16]. -/
def Row.SDS_DFE_ADAPT_TAP_2 : Row := ⟨785, 0xC0020, [(32, 0x100), (6, 0x4)], 16, 8, .ro, .none, 0, .val, .keep, .no⟩

/-- R330: SDS.DFE_ADAPT.TAP_3 [31:24]. -/
def Row.SDS_DFE_ADAPT_TAP_3 : Row := ⟨786, 0xC0020, [(32, 0x100), (6, 0x4)], 24, 8, .ro, .none, 0, .val, .keep, .no⟩

/-- R330: SDS.PRBS_CTL.TX_PAT [31:28]. -/
def Row.SDS_PRBS_CTL_TX_PAT : Row := ⟨787, 0xC0038, [(32, 0x100)], 28, 4, .rw, .live, 0, .val, .above 6 0, .no⟩

/-- R330: SDS.PRBS_CTL.RX_PAT [27:24]. -/
def Row.SDS_PRBS_CTL_RX_PAT : Row := ⟨788, 0xC0038, [(32, 0x100)], 24, 4, .rw, .live, 0, .val, .above 6 0, .no⟩

/-- R330: SDS.PRBS_ERR.COUNT [31:0]. -/
def Row.SDS_PRBS_ERR_COUNT : Row := ⟨789, 0xC003C, [(32, 0x100)], 0, 32, .rc, .none, 0, .val, .keep, .live⟩

/-- R330: SDS.LANE_CNT.BRINGUPS [31:16]. -/
def Row.SDS_LANE_CNT_BRINGUPS : Row := ⟨790, 0xC0040, [(32, 0x100)], 16, 16, .ro, .none, 0, .val, .keep, .live⟩

/-- R330: SDS.LANE_CNT.FAILS [15:0]. -/
def Row.SDS_LANE_CNT_FAILS : Row := ⟨791, 0xC0040, [(32, 0x100)], 0, 16, .ro, .none, 0, .val, .keep, .live⟩

/-- R330: COR.LANE_CTL.ENABLE [31]. -/
def Row.COR_LANE_CTL_ENABLE : Row := ⟨792, 0xD8000, [(16, 0x100)], 31, 1, .rw, .live, 0, .fp, .keep, .no⟩

/-- R330: COR.LANE_CTL.TX_STATE [29:28]. -/
def Row.COR_LANE_CTL_TX_STATE : Row := ⟨793, 0xD8000, [(16, 0x100)], 28, 2, .rw, .live, 0, .val, .sub 3 2, .no⟩

/-- R330: COR.LANE_CTL.RX_STATE [25:24]. -/
def Row.COR_LANE_CTL_RX_STATE : Row := ⟨794, 0xD8000, [(16, 0x100)], 24, 2, .rw, .live, 0, .val, .sub 3 2, .no⟩

/-- R330: COR.LANE_CTL.RESTART [20]. -/
def Row.COR_LANE_CTL_RESTART : Row := ⟨795, 0xD8000, [(16, 0x100)], 20, 1, .wo, .live, 0, .val, .keep, .no⟩

/-- R330: COR.LANE_CTL.FORCE_ADAPT [16]. -/
def Row.COR_LANE_CTL_FORCE_ADAPT : Row := ⟨796, 0xD8000, [(16, 0x100)], 16, 1, .rw, .frozen, 0, .fp, .keep, .no⟩

/-- R330: COR.LANE_CTL.TX_INV [12]. -/
def Row.COR_LANE_CTL_TX_INV : Row := ⟨797, 0xD8000, [(16, 0x100)], 12, 1, .ro, .none, 0, .fp, .keep, .no⟩

/-- R330: COR.LANE_CTL.TX_REV [11]. -/
def Row.COR_LANE_CTL_TX_REV : Row := ⟨798, 0xD8000, [(16, 0x100)], 11, 1, .ro, .none, 0, .fp, .keep, .no⟩

/-- R330: COR.LANE_STAT.STAGE [31:28]. -/
def Row.COR_LANE_STAT_STAGE : Row := ⟨799, 0xD8004, [(16, 0x100)], 28, 4, .ro, .none, 0, .val, .keep, .no⟩

/-- R330: COR.LANE_STAT.FAIL_REASON [27:24]. -/
def Row.COR_LANE_STAT_FAIL_REASON : Row := ⟨800, 0xD8004, [(16, 0x100)], 24, 4, .ro, .none, 0, .val, .keep, .no⟩

/-- R330: COR.LANE_STAT.RX_INV [23]. -/
def Row.COR_LANE_STAT_RX_INV : Row := ⟨801, 0xD8004, [(16, 0x100)], 23, 1, .ro, .none, 0, .val, .keep, .no⟩

/-- R330: COR.LANE_STAT.ADAPTIVE [22]. -/
def Row.COR_LANE_STAT_ADAPTIVE : Row := ⟨802, 0xD8004, [(16, 0x100)], 22, 1, .ro, .none, 0, .val, .keep, .no⟩

/-- R330: COR.LANE_STAT.REVERSED [21]. -/
def Row.COR_LANE_STAT_REVERSED : Row := ⟨803, 0xD8004, [(16, 0x100)], 21, 1, .ro, .none, 0, .val, .keep, .no⟩

/-- R330: COR.LANE_STAT.PRBS_LOCK [20]. -/
def Row.COR_LANE_STAT_PRBS_LOCK : Row := ⟨804, 0xD8004, [(16, 0x100)], 20, 1, .ro, .none, 0, .val, .keep, .no⟩

/-- R330: COR.LANE_STAT.TX_HALF [19:18]. -/
def Row.COR_LANE_STAT_TX_HALF : Row := ⟨805, 0xD8004, [(16, 0x100)], 18, 2, .ro, .none, 2, .val, .keep, .no⟩

/-- R330: COR.LANE_STAT.RX_HALF [17:16]. -/
def Row.COR_LANE_STAT_RX_HALF : Row := ⟨806, 0xD8004, [(16, 0x100)], 16, 2, .ro, .none, 2, .val, .keep, .no⟩

/-- R330: COR.LANE_FOM.FOM [15:0]. -/
def Row.COR_LANE_FOM_FOM : Row := ⟨807, 0xD8008, [(16, 0x100)], 0, 16, .ro, .none, 0, .val, .keep, .no⟩

/-- R330: COR.TXEQ.CM2 [31:24]. -/
def Row.COR_TXEQ_CM2 : Row := ⟨808, 0xD8010, [(16, 0x100)], 24, 8, .rw, .frozen, 0, .fp, .keep, .no⟩

/-- R330: COR.TXEQ.CM1 [23:16]. -/
def Row.COR_TXEQ_CM1 : Row := ⟨809, 0xD8010, [(16, 0x100)], 16, 8, .rw, .frozen, 0, .fp, .keep, .no⟩

/-- R330: COR.TXEQ.C0 [15:8]. -/
def Row.COR_TXEQ_C0 : Row := ⟨810, 0xD8010, [(16, 0x100)], 8, 8, .rw, .frozen, 0, .fp, .keep, .no⟩

/-- R330: COR.TXEQ.CP1 [7:0]. -/
def Row.COR_TXEQ_CP1 : Row := ⟨811, 0xD8010, [(16, 0x100)], 0, 8, .rw, .frozen, 0, .fp, .keep, .no⟩

/-- R330: COR.RXEQ.CTLE [28:24]. -/
def Row.COR_RXEQ_CTLE : Row := ⟨812, 0xD8014, [(16, 0x100)], 24, 5, .rw, .frozen, 0, .fp, .keep, .no⟩

/-- R330: COR.RXEQ.GAIN [20:16]. -/
def Row.COR_RXEQ_GAIN : Row := ⟨813, 0xD8014, [(16, 0x100)], 16, 5, .rw, .frozen, 0, .fp, .keep, .no⟩

/-- R330: COR.RXEQ.FOM_MIN [8:0]. -/
def Row.COR_RXEQ_FOM_MIN : Row := ⟨814, 0xD8014, [(16, 0x100)], 0, 9, .rw, .frozen, 0, .fp, .clamp 100 300, .no⟩

/-- R330: COR.DFE_FIX.T1 [31:24]. -/
def Row.COR_DFE_FIX_T1 : Row := ⟨815, 0xD8018, [(16, 0x100)], 24, 8, .rw, .frozen, 0, .fp, .keep, .no⟩

/-- R330: COR.DFE_FIX.T2 [23:16]. -/
def Row.COR_DFE_FIX_T2 : Row := ⟨816, 0xD8018, [(16, 0x100)], 16, 8, .rw, .frozen, 0, .fp, .keep, .no⟩

/-- R330: COR.DFE_FIX.T3 [15:8]. -/
def Row.COR_DFE_FIX_T3 : Row := ⟨817, 0xD8018, [(16, 0x100)], 8, 8, .rw, .frozen, 0, .fp, .keep, .no⟩

/-- R330: COR.DFE_ADAPT.TAP_0 [7:0]. -/
def Row.COR_DFE_ADAPT_TAP_0 : Row := ⟨818, 0xD8020, [(16, 0x100), (6, 0x4)], 0, 8, .ro, .none, 0, .val, .keep, .no⟩

/-- R330: COR.DFE_ADAPT.TAP_1 [15:8]. -/
def Row.COR_DFE_ADAPT_TAP_1 : Row := ⟨819, 0xD8020, [(16, 0x100), (6, 0x4)], 8, 8, .ro, .none, 0, .val, .keep, .no⟩

/-- R330: COR.DFE_ADAPT.TAP_2 [23:16]. -/
def Row.COR_DFE_ADAPT_TAP_2 : Row := ⟨820, 0xD8020, [(16, 0x100), (6, 0x4)], 16, 8, .ro, .none, 0, .val, .keep, .no⟩

/-- R330: COR.DFE_ADAPT.TAP_3 [31:24]. -/
def Row.COR_DFE_ADAPT_TAP_3 : Row := ⟨821, 0xD8020, [(16, 0x100), (6, 0x4)], 24, 8, .ro, .none, 0, .val, .keep, .no⟩

/-- R330: COR.PRBS_CTL.TX_PAT [31:28]. -/
def Row.COR_PRBS_CTL_TX_PAT : Row := ⟨822, 0xD8038, [(16, 0x100)], 28, 4, .rw, .live, 0, .val, .above 6 0, .no⟩

/-- R330: COR.PRBS_CTL.RX_PAT [27:24]. -/
def Row.COR_PRBS_CTL_RX_PAT : Row := ⟨823, 0xD8038, [(16, 0x100)], 24, 4, .rw, .live, 0, .val, .above 6 0, .no⟩

/-- R330: COR.PRBS_ERR.COUNT [31:0]. -/
def Row.COR_PRBS_ERR_COUNT : Row := ⟨824, 0xD803C, [(16, 0x100)], 0, 32, .rc, .none, 0, .val, .keep, .live⟩

/-- R330: COR.LANE_CNT.BRINGUPS [31:16]. -/
def Row.COR_LANE_CNT_BRINGUPS : Row := ⟨825, 0xD8040, [(16, 0x100)], 16, 16, .ro, .none, 0, .val, .keep, .live⟩

/-- R330: COR.LANE_CNT.FAILS [15:0]. -/
def Row.COR_LANE_CNT_FAILS : Row := ⟨826, 0xD8040, [(16, 0x100)], 0, 16, .ro, .none, 0, .val, .keep, .live⟩

/-- R330: SDS.EVT.UP_CHANGE [31:0]. -/
def Row.SDS_EVT_UP_CHANGE : Row := ⟨827, 0xC2000, [], 0, 32, .w1c, .live, 0, .val, .keep, .no⟩

/-- R330: COR.LANE_EVT.UP_CHANGE [15:0]. -/
def Row.COR_LANE_EVT_UP_CHANGE : Row := ⟨828, 0xD9000, [], 0, 16, .w1c, .live, 0, .val, .keep, .no⟩

/-- R418: COR.CTL.MANAGER [31]. -/
def Row.COR_CTL_MANAGER : Row := ⟨1016, 0xD0000, [], 31, 1, .ro, .none, 0, .opened, .keep, .no⟩

/-- R418: COR.CTL.ENUM [30]. -/
def Row.COR_CTL_ENUM : Row := ⟨1017, 0xD0000, [], 30, 1, .wo, .live, 0, .val, .keep, .no⟩

/-- R418: COR.CTL.PORT_EN [3:0]. -/
def Row.COR_CTL_PORT_EN : Row := ⟨1018, 0xD0000, [], 0, 4, .ro, .none, 0, .fp, .keep, .no⟩

/-- R418: COR.STAT.UP_PORT [31:30]. -/
def Row.COR_STAT_UP_PORT : Row := ⟨1019, 0xD0004, [], 30, 2, .ro, .none, 0, .val, .keep, .no⟩

/-- R418: COR.STAT.UP_VALID [29]. -/
def Row.COR_STAT_UP_VALID : Row := ⟨1020, 0xD0004, [], 29, 1, .ro, .none, 0, .val, .keep, .no⟩

/-- R418: COR.STAT.RING [28]. -/
def Row.COR_STAT_RING : Row := ⟨1021, 0xD0004, [], 28, 1, .ro, .none, 0, .val, .keep, .no⟩

/-- R418: COR.STAT.ENUMERATING [27]. -/
def Row.COR_STAT_ENUMERATING : Row := ⟨1022, 0xD0004, [], 27, 1, .ro, .none, 0, .val, .keep, .no⟩

/-- R418: COR.STAT.ADDR [15:0]. -/
def Row.COR_STAT_ADDR : Row := ⟨1023, 0xD0004, [], 0, 16, .ro, .none, 65535, .opened, .keep, .no⟩

/-- R418: COR.TOPO.WORKERS [31:16]. -/
def Row.COR_TOPO_WORKERS : Row := ⟨1024, 0xD0008, [], 16, 16, .ro, .none, 0, .val, .keep, .no⟩

/-- R418: COR.TOPO.DEPTH [15:0]. -/
def Row.COR_TOPO_DEPTH : Row := ⟨1025, 0xD0008, [], 0, 16, .ro, .none, 0, .val, .keep, .no⟩

/-- R418: COR.PORT_STAT.UP [31]. -/
def Row.COR_PORT_STAT_UP : Row := ⟨1026, 0xD0010, [(4, 0x4)], 31, 1, .ro, .none, 0, .val, .keep, .no⟩

/-- R418: COR.PORT_STAT.RING_PORT [30]. -/
def Row.COR_PORT_STAT_RING_PORT : Row := ⟨1027, 0xD0010, [(4, 0x4)], 30, 1, .ro, .none, 0, .val, .keep, .no⟩

/-- R418: COR.PORT_STAT.WRAPPED [29]. -/
def Row.COR_PORT_STAT_WRAPPED : Row := ⟨1028, 0xD0010, [(4, 0x4)], 29, 1, .ro, .none, 0, .val, .keep, .no⟩

/-- R418: COR.PORT_STAT.DOWN_CNT [15:0]. -/
def Row.COR_PORT_STAT_DOWN_CNT : Row := ⟨1029, 0xD0010, [(4, 0x4)], 0, 16, .ro, .none, 0, .val, .keep, .live⟩

/-- R418: COR.EVT.FWD_LOST [5]. -/
def Row.COR_EVT_FWD_LOST : Row := ⟨1030, 0xD0020, [], 5, 1, .w1c, .live, 0, .val, .keep, .no⟩

/-- R418: COR.EVT.FWD_UNMAPPED [4]. -/
def Row.COR_EVT_FWD_UNMAPPED : Row := ⟨1031, 0xD0020, [], 4, 1, .w1c, .live, 0, .val, .keep, .no⟩

/-- R418: COR.EVT.TIMEOUT [3]. -/
def Row.COR_EVT_TIMEOUT : Row := ⟨1032, 0xD0020, [], 3, 1, .w1c, .live, 0, .val, .keep, .no⟩

/-- R418: COR.EVT.WRAP [2]. -/
def Row.COR_EVT_WRAP : Row := ⟨1033, 0xD0020, [], 2, 1, .w1c, .live, 0, .val, .keep, .no⟩

/-- R418: COR.EVT.ENUM_DONE [1]. -/
def Row.COR_EVT_ENUM_DONE : Row := ⟨1034, 0xD0020, [], 1, 1, .w1c, .live, 0, .val, .keep, .no⟩

/-- R418: COR.EVT.LINK_CHANGE [0]. -/
def Row.COR_EVT_LINK_CHANGE : Row := ⟨1035, 0xD0020, [], 0, 1, .w1c, .live, 0, .val, .keep, .no⟩

/-- R418: COR.FWD_EN_LO.VEC [31:0]. -/
def Row.COR_FWD_EN_LO_VEC : Row := ⟨1036, 0xD0030, [], 0, 32, .rw, .live, 0, .fp, .keep, .no⟩

/-- R418: COR.FWD_EN_HI.VEC [31:0]. -/
def Row.COR_FWD_EN_HI_VEC : Row := ⟨1037, 0xD0034, [], 0, 32, .rw, .live, 0, .fp, .keep, .no⟩

/-- R418: COR.FWD_LOG.VALID [31]. -/
def Row.COR_FWD_LOG_VALID : Row := ⟨1038, 0xD0038, [], 31, 1, .rc, .none, 0, .val, .keep, .no⟩

/-- R418: COR.FWD_LOG.VECTOR [29:24]. -/
def Row.COR_FWD_LOG_VECTOR : Row := ⟨1039, 0xD0038, [], 24, 6, .rc, .none, 0, .val, .keep, .no⟩

/-- R418: COR.FWD_LOG.WORKER [15:0]. -/
def Row.COR_FWD_LOG_WORKER : Row := ⟨1040, 0xD0038, [], 0, 16, .rc, .none, 0, .val, .keep, .no⟩

/-- R418: COR.WKR_SEL.ADDR [15:0]. -/
def Row.COR_WKR_SEL_ADDR : Row := ⟨1041, 0xD0040, [], 0, 16, .rw, .live, 0, .val, .keep, .no⟩

/-- R418: COR.WKR_INFO.PRESENT [31]. -/
def Row.COR_WKR_INFO_PRESENT : Row := ⟨1042, 0xD0044, [], 31, 1, .ro, .none, 0, .val, .keep, .no⟩

/-- R418: COR.WKR_INFO.PARENT_PORT [30:29]. -/
def Row.COR_WKR_INFO_PARENT_PORT : Row := ⟨1043, 0xD0044, [], 29, 2, .ro, .none, 0, .val, .keep, .no⟩

/-- R418: COR.WKR_INFO.DEPTH [27:16]. -/
def Row.COR_WKR_INFO_DEPTH : Row := ⟨1044, 0xD0044, [], 16, 12, .ro, .none, 0, .val, .keep, .no⟩

/-- R418: COR.WKR_INFO.PARENT [15:0]. -/
def Row.COR_WKR_INFO_PARENT : Row := ⟨1045, 0xD0044, [], 0, 16, .ro, .none, 0, .val, .keep, .no⟩

/-- R418: COR.WIN_CFG.EN [31]. -/
def Row.COR_WIN_CFG_EN : Row := ⟨1046, 0xD0100, [(16, 0x8)], 31, 1, .rw, .live, 0, .val, .keep, .no⟩

/-- R418: COR.WIN_CFG.WORKER [15:0]. -/
def Row.COR_WIN_CFG_WORKER : Row := ⟨1047, 0xD0100, [(16, 0x8)], 0, 16, .rw, .live, 0, .val, .keep, .no⟩

/-- R418: COR.WIN_STAT.TIMEOUTS [31:16]. -/
def Row.COR_WIN_STAT_TIMEOUTS : Row := ⟨1048, 0xD0104, [(16, 0x8)], 16, 16, .ro, .none, 0, .val, .keep, .live⟩

/-- R418: COR.WIN_STAT.WR_LOST [15:8]. -/
def Row.COR_WIN_STAT_WR_LOST : Row := ⟨1049, 0xD0104, [(16, 0x8)], 8, 8, .ro, .none, 0, .val, .keep, .live⟩

/-- R418: COR.WIN_STAT.STALLS [7:0]. -/
def Row.COR_WIN_STAT_STALLS : Row := ⟨1050, 0xD0104, [(16, 0x8)], 0, 8, .ro, .none, 0, .val, .keep, .live⟩

/-- The fields of SUP, in the order of the spec's tables. -/
def rowsSUP : List Row :=
  [.SUP_SEQ_CTL_LEN, .SUP_SEQ_SLOT_EN, .SUP_SEQ_SLOT_CH, .SUP_INJ_SLOT_TRIG,
   .SUP_INJ_SLOT_CH, .SUP_INJ_CTL_GO, .SUP_INJ_STAT_BUSY, .SUP_INJ_STAT_MERGED,
   .SUP_INJ_STAT_RUNS, .SUP_DEC_CFG_SOURCE, .SUP_DEC_CFG_SHIFT, .SUP_DEC_CFG_FIR_D,
   .SUP_DEC_CFG_ORDER, .SUP_DEC_CFG_R, .SUP_DEC_STAT_SAT, .SUP_DEC_STAT_UNSETTLED,
   .SUP_DEC_STAT_RESETS, .SUP_DEC_RESET_CTX, .SUP_CAL_CTL_AUTO_EN, .SUP_CAL_CTL_START,
   .SUP_CAL_CTL_BUSY, .SUP_CAL_CTL_DEFERRED, .SUP_CAL_CTL_COUNT, .SUP_EVT_SEQ_REFUSED,
   .SUP_EVT_SAT, .SUP_EVT_CAL_DONE, .SUP_CH_SUM_LO_SUM, .SUP_CH_SUM_HI_SUM,
   .SUP_CH_SQ_LO_SQ, .SUP_CH_SQ_HI_SQ, .SUP_CH_CNT_CNT, .SUP_CH_MINMAX_MAX,
   .SUP_CH_MINMAX_MIN, .SUP_CH_FLAGS_STALE, .SUP_CH_FLAGS_SAT, .SUP_CH_FLAGS_DECIMATED,
   .SUP_CH_FLAGS_UNSETTLED, .SUP_CH_INJ_COUNT]

/-- The fields of ICM, part 0, in the order of the spec's tables. -/
def rowsICM0 : List Row :=
  [.ICM_NET_CFG_RX_ANY, .ICM_NET_CFG_TX_ID, .ICM_NET_CFG_RX_ID, .ICM_TX_CFG_EN,
   .ICM_TX_CFG_SF, .ICM_TX_CFG_DEPTH, .ICM_RX_CFG_EN, .ICM_RX_CFG_CAPTURE,
   .ICM_RX_CFG_SF, .ICM_RX_CFG_CAPTURE_MARGIN, .ICM_RX_CFG_DET_TH, .ICM_RX_STAT_STATE,
   .ICM_RX_STAT_AGC_FROZEN, .ICM_RX_STAT_LAST_ID, .ICM_RX_STAT_LAST_SNR, .ICM_EVT_USER_REFUSED,
   .ICM_EVT_USER_OVF, .ICM_EVT_TX_ABORT, .ICM_EVT_ALARM_RX, .ICM_EVT_BRINGUP_RX,
   .ICM_EVT_TAG_RX, .ICM_EVT_USER_RX, .ICM_CNT0_DETECT, .ICM_CNT0_RX_OK,
   .ICM_CNT1_SYNC_FAIL, .ICM_CNT1_NETID_MISM, .ICM_CNT2_HDR_FAIL, .ICM_CNT2_PAY_FAIL,
   .ICM_CNT3_CAPTURED, .ICM_CNT3_CAPT_IGNORED, .ICM_CNT4_TX_FRAMES, .ICM_CNT4_TX_ABORT,
   .ICM_CNT5_USER_OVF, .ICM_CNT5_ERASED, .ICM_BR0_VALID, .ICM_BR0_HEARD,
   .ICM_BR0_BAUD_DIFF, .ICM_BR0_RX_STATE, .ICM_BR0_TX_BAUD, .ICM_BR0_RX_BAUD]

/-- The fields of ICM, part 1, in the order of the spec's tables. -/
def rowsICM1 : List Row :=
  [.ICM_BR1_FLOOR_BAUD, .ICM_BR1_FLOOR_H, .ICM_BR1_FLOOR_FEC, .ICM_BR1_TX_CH,
   .ICM_FAR_ALARM_ALARMS, .ICM_TAG_RX_BYTES, .ICM_TAG_CFG_PERIOD, .ICM_TAG_LABEL_LABEL,
   .ICM_USER_TX_DATA_BYTES, .ICM_USER_RX_DATA_BYTES, .ICM_USER_TX_CTL_SEND, .ICM_USER_TX_CTL_QUEUED,
   .ICM_USER_TX_CTL_LEN, .ICM_USER_RX_CTL_POP, .ICM_USER_RX_CTL_VALID, .ICM_USER_RX_CTL_COUNT,
   .ICM_USER_RX_CTL_MSEQ, .ICM_USER_RX_CTL_LEN]

/-- The fields of ICM. -/
def rowsICM : List Row := rowsICM0 ++ rowsICM1

/-- The fields of SDS, in the order of the spec's tables. -/
def rowsSDS : List Row :=
  [.SDS_LANE_CTL_ENABLE, .SDS_LANE_CTL_TX_STATE, .SDS_LANE_CTL_RX_STATE, .SDS_LANE_CTL_RESTART,
   .SDS_LANE_CTL_FORCE_ADAPT, .SDS_LANE_CTL_TX_INV, .SDS_LANE_CTL_TX_REV, .SDS_LANE_STAT_STAGE,
   .SDS_LANE_STAT_FAIL_REASON, .SDS_LANE_STAT_RX_INV, .SDS_LANE_STAT_ADAPTIVE, .SDS_LANE_STAT_REVERSED,
   .SDS_LANE_STAT_PRBS_LOCK, .SDS_LANE_STAT_TX_HALF, .SDS_LANE_STAT_RX_HALF, .SDS_LANE_FOM_FOM,
   .SDS_TXEQ_CM2, .SDS_TXEQ_CM1, .SDS_TXEQ_C0, .SDS_TXEQ_CP1,
   .SDS_RXEQ_CTLE, .SDS_RXEQ_GAIN, .SDS_RXEQ_FOM_MIN, .SDS_DFE_FIX_T1,
   .SDS_DFE_FIX_T2, .SDS_DFE_FIX_T3, .SDS_DFE_ADAPT_TAP_0, .SDS_DFE_ADAPT_TAP_1,
   .SDS_DFE_ADAPT_TAP_2, .SDS_DFE_ADAPT_TAP_3, .SDS_PRBS_CTL_TX_PAT, .SDS_PRBS_CTL_RX_PAT,
   .SDS_PRBS_ERR_COUNT, .SDS_LANE_CNT_BRINGUPS, .SDS_LANE_CNT_FAILS, .SDS_EVT_UP_CHANGE]

/-- The fields of COR, part 0, in the order of the spec's tables. -/
def rowsCOR0 : List Row :=
  [.COR_LANE_CTL_ENABLE, .COR_LANE_CTL_TX_STATE, .COR_LANE_CTL_RX_STATE, .COR_LANE_CTL_RESTART,
   .COR_LANE_CTL_FORCE_ADAPT, .COR_LANE_CTL_TX_INV, .COR_LANE_CTL_TX_REV, .COR_LANE_STAT_STAGE,
   .COR_LANE_STAT_FAIL_REASON, .COR_LANE_STAT_RX_INV, .COR_LANE_STAT_ADAPTIVE, .COR_LANE_STAT_REVERSED,
   .COR_LANE_STAT_PRBS_LOCK, .COR_LANE_STAT_TX_HALF, .COR_LANE_STAT_RX_HALF, .COR_LANE_FOM_FOM,
   .COR_TXEQ_CM2, .COR_TXEQ_CM1, .COR_TXEQ_C0, .COR_TXEQ_CP1,
   .COR_RXEQ_CTLE, .COR_RXEQ_GAIN, .COR_RXEQ_FOM_MIN, .COR_DFE_FIX_T1,
   .COR_DFE_FIX_T2, .COR_DFE_FIX_T3, .COR_DFE_ADAPT_TAP_0, .COR_DFE_ADAPT_TAP_1,
   .COR_DFE_ADAPT_TAP_2, .COR_DFE_ADAPT_TAP_3, .COR_PRBS_CTL_TX_PAT, .COR_PRBS_CTL_RX_PAT,
   .COR_PRBS_ERR_COUNT, .COR_LANE_CNT_BRINGUPS, .COR_LANE_CNT_FAILS, .COR_LANE_EVT_UP_CHANGE,
   .COR_CTL_MANAGER, .COR_CTL_ENUM, .COR_CTL_PORT_EN, .COR_STAT_UP_PORT]

/-- The fields of COR, part 1, in the order of the spec's tables. -/
def rowsCOR1 : List Row :=
  [.COR_STAT_UP_VALID, .COR_STAT_RING, .COR_STAT_ENUMERATING, .COR_STAT_ADDR,
   .COR_TOPO_WORKERS, .COR_TOPO_DEPTH, .COR_PORT_STAT_UP, .COR_PORT_STAT_RING_PORT,
   .COR_PORT_STAT_WRAPPED, .COR_PORT_STAT_DOWN_CNT, .COR_EVT_FWD_LOST, .COR_EVT_FWD_UNMAPPED,
   .COR_EVT_TIMEOUT, .COR_EVT_WRAP, .COR_EVT_ENUM_DONE, .COR_EVT_LINK_CHANGE,
   .COR_FWD_EN_LO_VEC, .COR_FWD_EN_HI_VEC, .COR_FWD_LOG_VALID, .COR_FWD_LOG_VECTOR,
   .COR_FWD_LOG_WORKER, .COR_WKR_SEL_ADDR, .COR_WKR_INFO_PRESENT, .COR_WKR_INFO_PARENT_PORT,
   .COR_WKR_INFO_DEPTH, .COR_WKR_INFO_PARENT, .COR_WIN_CFG_EN, .COR_WIN_CFG_WORKER,
   .COR_WIN_STAT_TIMEOUTS, .COR_WIN_STAT_WR_LOST, .COR_WIN_STAT_STALLS]

/-- The fields of COR. -/
def rowsCOR : List Row := rowsCOR0 ++ rowsCOR1

end Sys2Proof.Machine
end

