-- ==== Sys2Proof/Config.lean ====
section
/-!
DEFINITION. What an implementation fixes and the spec leaves open: constants with no body, so that no proof can see
what they are. A statement that mentions one holds whatever it is.
-/

namespace Sys2Proof

/-- The value that comes out where the spec states no value for a result, applied to the state's counter of the
values drawn so far (assumption 4). -/
opaque Config.freeValue : Nat → Nat

/-- R388: the random numbers of the tagging draw; the generator's polynomial and seed are not stated (assumption 4). -/
opaque Config.tagDraw : Nat → Nat

/-- R178: the required SNR, in 0.01 dB, of a rate index at a profile; the spec does not list the table (assumption 5). -/
opaque Config.snrReq : Nat → Nat → Int

/-- R157: a parity bit of a block: the profile, the block's parity count, its other bits and the eight blocks before it,
and which of its parity bits; the Ubmus code table accompanies the manual and is not in it (assumption 5). -/
opaque Config.ubmusParity : Nat → Nat → List Bool → List (List Bool) → Nat → Bool

/-- R109: the log-likelihood ratio in units of 0.5, from the noise variance and, for the bit values 0 and 1, the squared
distances and prior weights of the points; the spec states no arithmetic or rounding for it (assumption 59). -/
opaque Config.softRatio : Nat → List (Nat × Nat) → List (Nat × Nat) → Int

/-- R197: the information bits that soft-decision decoding makes of a field's coded bits, each with its weight (0 for an erasure),
where the hard decisions are no codeword; the spec states no decoder (assumption 81). -/
opaque Config.softDecode : List (Bool × Nat) → List Bool

/-- R81: the root-raised-cosine pulse of a roll-off in 0.01, in 2⁻¹⁴ of its peak, at an offset in ninths of a symbol; the spec
states no coefficients (assumption 49). -/
opaque Config.pulse : Nat → Int → Int

/-- R81: how many symbols the pulse reaches to each side (assumption 49). -/
opaque Config.pulseReach : Nat

/-- R175: the positions that FEC.INJ's LFSR draws; its polynomial and seed are not stated (assumption 4). -/
opaque Config.injectAt : Nat → Nat

/-- R83: the fractional delay of a dimension's samples by SKEW, in 0.1 ps; the interpolation is not stated (assumption 60). -/
opaque Config.delayTrim : Int → List Int → List Int

/-- R83: the gain of a dimension's samples by GAIN, in 0.01 dB; the rounding is not stated (assumption 60). -/
opaque Config.gainTrim : Int → List Int → List Int

/-- R83: the quadrature-phase trim of a polarisation by PHASE, in 0.05°; the arithmetic is not stated (assumption 60). -/
opaque Config.phaseTrim : Int → List Int → List Int → List Int × List Int

/-- R96: the quadrature-imbalance correction of a polarisation, which adapts continuously; the spec does not give how. From its
present value and the samples, its next value and the corrected samples (assumption 83). -/
opaque Config.quadrature : Int → List (Int × Int) → Int × List (Int × Int)

/-- R96, R100: the point of the unit circle at a phase in 2⁻³² turns, its parts in 2⁻²⁴; the DSP's rounding is not stated
(assumption 83). -/
opaque Config.unitCircle : Nat → Int × Int

/-- R96, R101: tap `k`, its parts in 2⁻²⁴, of the filter that inverts a dispersion in ps/nm at a symbol rate in 0.25 GBd; the spec
does not give its design (assumption 83). -/
opaque Config.dispersionTap : Int → Nat → Nat → Int × Int

/-- R105: the timing loop's interpolation of the samples of both polarisations, at the loop bandwidth of TR_CFG.BW: from its
present phase and the samples, its next phase and the samples at the recovered instants (assumption 83). -/
opaque Config.interpolate : Nat → Int → List Jones → Int × List Jones

/-- R106: the modulus, squared, that the constant-modulus criterion aims at, in 2⁻²⁰ of the mean power of a dimension; R106:
whether outputs of these energies are on one polarisation, by their squared cross-correlation; R107: the equaliser's convergence
limit, as a mean squared error in that unit. The spec gives none of them (assumption 83). -/
opaque Config.modulus : Nat
opaque Config.onePolarisation : Nat → Nat → Nat → Bool
opaque Config.convergenceLimit : Nat

/-- R174: BER_REQ in 10⁻⁶ at a rate index and profile, at the shaped indices; the spec does not list the table
(assumption 5). -/
opaque Config.berReq : Nat → Nat → Nat

/-- R132: the power, in 0.1 dBc, of the largest interleave spur that the residual offsets, gains and skews of the slices in
service predict; the prediction is not stated (assumption 66). -/
opaque Config.spur : List (Int × Int × Int) → Int

/-- R141: the power, in 0.01 dBm, that a photodiode code stands for under the scale of the OPTICAL section, whose layout
the spec does not give (assumption 5). -/
opaque Config.photodiode : List Nat → Nat → Int

/-- R147: the coefficients 0 to 30 of the engine's FIR at a decimation, in 2⁻²⁰; the ROM is not in the manual (assumption 68). -/
opaque Config.firRom : Nat → Nat → Int

/-- R148: the SHIFT that the module chooses for a wing's context; the choice is not stated (assumption 68). -/
opaque Config.wingShift : Nat → Nat

/-- R71, R281: the bytes of a client frame, by its identity: what a client sends is its own. -/
opaque Config.frameByte : Nat → Nat → Nat

/-- R329: the levels of the SSPRQ pattern; the spec names the pattern of IEEE 802.3 and does not give it (assumption 5). -/
opaque Config.ssprq : Nat → Nat

/-- R259: AES-256-GCM: the ciphertext and the 16-byte tag of a key, IV, additional data and plaintext. The spec names the
algorithm and does not give it (assumption 5). -/
opaque Config.gcm : Nat → Nat → List Nat → List Nat → List Nat × List Nat

/-- R272, R274: SHA-256 of bytes, as a number of 256 bits (assumption 5). -/
opaque Config.sha256 : List Nat → Nat

/-- R272, R274: the SLH-DSA-SHA2-128s signature of a body under the private half of a public key (assumption 5). -/
opaque Config.signature : Nat → List Nat → Nat

/-- R272: whether a signature of a body verifies under a public key (assumption 5). -/
opaque Config.verifies : Nat → List Nat → List Nat → Bool

/-- R272: the identity public key of a device, by its DEV_ID, and the public key of the CA that issued its certificate; R269: its
KEK decapsulation key. The fused device secrets are not in the spec (assumption 5). -/
opaque Config.identityKey : Nat → Nat
opaque Config.issuerKey : Nat → Nat
opaque Config.kekKey : Nat → Nat

/-- R269, R270: ML-KEM-1024 of FIPS 203: the 1,568-byte encapsulation key of a decapsulation key; the ciphertext and the shared
secret of an encapsulation with its randomness; the shared secret of a ciphertext (assumption 5). -/
opaque Config.kemPublic : Nat → List Nat
opaque Config.encapsulate : List Nat → Nat → List Nat × List Nat
opaque Config.decapsulate : Nat → List Nat → List Nat

/-- R269: the AES key unwrap of RFC 3394 of a 48-byte blob under a KEK: the 40 bytes as a number, none when the integrity check
fails (assumption 5). -/
opaque Config.keyUnwrap : List Nat → List Nat → Option Nat

/-- R237, R270: the bytes of a message between the security controllers, by its kind and fields; the spec does not give their
layout (assumption 5). -/
opaque Config.gccBytes : Nat → List (List Nat) → List Nat

/-- R270: the bytes that stand for a role in a KE_FIN, true for the initiator; the spec does not give them (assumption 5). -/
opaque Config.roleBytes : Bool → List Nat

end Sys2Proof
end

