-- ==== Sys2Proof/Machine/State.lean ====
section
/-!
DEFINITION. The machine's state as plain data: the registers (as a sparse store of what differs from reset), the sets
of staged and pending writes, every engine's own state, and the queue of commands that wait. `State.reset` is the
machine right after module reset.
-/

namespace Sys2Proof.Machine

/-- Why a step would stop with a fault. The spec gives every command an effect, so no meaning raises one (safe). -/
inductive Fault where
  /-- Raised by no meaning: kept so that the type has an inhabitant (safe). -/
  | unreachable
deriving DecidableEq, Repr

/-- Why a step would be refused. -/
inductive Refusal where
  /-- Raised by the dispatch for a command that has no meaning yet (safe: the step stops). -/
  | notModelled (mnemonic : String)
deriving DecidableEq, Repr

/-! ### Floor plan and boot (R27 to R37, R424 to R433) -/

/-- R31: the state of a flash bank. -/
inductive BankState where
  | empty
  | new
  | good
  | bad
deriving DecidableEq, Repr

/-- R31: a flash bank: its record and the image it holds. -/
structure Bank where
  state : BankState
  seq : Nat
  trials : Nat
  image : Option Image
deriving DecidableEq, Repr

/-- R36: the image command that SEC executes. -/
inductive ImgCmd where
  | loadVerify
  | activate
  | program
  | confirm
  | advanceSvn
deriving DecidableEq, Repr

/-- What SEC and the boot ROM hold of images. -/
structure ImageState where
  bankA : Bank
  bankB : Bank
  /-- R36: the staged image. -/
  staged : Option Image
  /-- The image that the islands were configured from. -/
  running : Option Image
  cmd : Option ImgCmd
  /-- R33: the bank that PROGRAM is writing (true = bank B). -/
  target : Option Bool
deriving DecidableEq, Repr

/-- R4, R28, R34, R272: what the fuses hold. -/
structure Fuses where
  svn : Nat
  rootHash : Nat
  /-- R272: the device-CA hash. -/
  caHash : Nat
deriving DecidableEq, Repr

/-- R424: the start sequence. Step 0 is no start in progress, 1 to 6 the step in progress, 7 the sequence's end. -/
structure Boot where
  step : Nat
  wake : Bool
  /-- R36: the boot ROM runs in host-boot mode whatever the strap. -/
  hostMode : Bool
  /-- R428: AON's record that the self-test has passed. -/
  selfTestPassed : Bool
  /-- R430: each wing's start: 0 none, 1 to 7 the step in progress, 8 complete. -/
  wing : PerWing Nat
deriving DecidableEq, Repr

/-! ### A wing's line signal, transmitter and receiver (R45 to R121, R178 to R213) -/

/-- R55, R57: a slot map as its segments arrive: the announcement number and the values they belong to, and the
segments held, by segment number (0 to 31). -/
structure MapParts where
  annSeq : Nat
  h : Nat
  fec : Nat
  slots : Nat
  segs : Tab (List Nat)
deriving DecidableEq, Repr

/-- R184: the receiver's record of the announcement in force. -/
structure AnnRecord where
  seq : Nat
  h : Nat
  fec : Nat
  slots : Nat
  /-- Boundaries still to come before the switch, by the receiver's own count. -/
  countdown : Nat
deriving DecidableEq, Repr

/-- R106: the four filters of the equaliser, tap by tap, real and imaginary part in 2^−24. -/
structure Taps where
  xx : List (Int × Int)
  xy : List (Int × Int)
  yx : List (Int × Int)
  yy : List (Int × Int)
deriving DecidableEq, Repr

/-- R118: what a READY leaves for a warm acquisition: the frequency offset, the dispersion and the equaliser's taps. -/
structure Stored where
  offset : Int
  cd : Int
  taps : Taps
deriving DecidableEq, Repr

/-- R115: the figures of `n` superframes, added up: SNR_X, SNR_Y, SNR_EFF and SNR_P1 as linear ratios in 2^−16, GMI in
1/4,096 bit, NGMI in 1/32,768 and SNR_REQ in 0.01 dB. -/
structure FomSum where
  n : Nat
  x : Nat
  y : Nat
  eff : Nat
  p1 : Nat
  gmi : Nat
  ngmi : Nat
  req : Int
deriving DecidableEq, Repr

def FomSum.zero : FomSum := ⟨0, 0, 0, 0, 0, 0, 0, 0⟩

/-- R96, R111: a carrier frame in the receive DSP: what stages 4, 5 and 6 put out for it. The samples of stage 4 are 9 for every 8
symbols; parts are in 1/1024 of the rms level. -/
structure DspFrame where
  inputs : List Jones
  raw : List Jones
  out : List Jones
deriving DecidableEq, Repr

/-- R96: the receive DSP between carrier frames. -/
structure Dsp where
  /-- R96: the quadrature-imbalance corrections of X and Y. -/
  quadX : Int
  quadY : Int
  /-- R96, R100: the phase that stage 2 has reached, in 2⁻³² turns. -/
  turned : Nat
  /-- R96: the samples of the latest carrier frame after stage 2, which stage 3 still needs. -/
  past : List Jones
  /-- R105: the timing loop's phase. -/
  timing : Int
  /-- R108: the carrier phase last estimated on X and on Y, as a point of the unit circle in 2⁻²⁴. -/
  phaseX : Int × Int
  phaseY : Int × Int
  /-- The latest 64 carrier frames, newest first, and how many there have been. -/
  frames : List DspFrame
  count : Nat
  /-- R107: consecutive carrier frames in which the equaliser's error exceeded its convergence limit. -/
  overRun : Nat
deriving DecidableEq, Repr

/-- R109: what soft demapping takes for the symbols of a carrier frame: the noise variance measured for each dimension, in the
square of 1/1024 of the rms level, NOISE_DIM and PRIOR_EN. -/
structure FrameNote where
  noise : List Nat
  perDim : Bool
  prior : Bool
deriving DecidableEq, Repr

/-- The receiver's framing and header state beside the RXW registers. -/
structure RxLine where
  /-- R54: the position of a peak that awaits confirmation, plus one; 0 for none. -/
  candidate : Nat
  /-- R54: the position of the aligned sync word. -/
  position : Nat
  /-- R54: consecutive frames below threshold at that position. -/
  misses : Nat
  /-- R53: consecutive carrier frames (or periods) without a valid header, up to 64. -/
  noHeader : Nat
  /-- R53: consecutive received superframes in which a valid header was taken. -/
  goodSf : Nat
  /-- R53: the header taken in the present superframe. -/
  taken : Option Header
  /-- R53: the header fields in force, from this or an earlier superframe. -/
  held : Option Header
  /-- R54: FRAME_NO of the last valid header, the number of the latest frame by the receiver's own count, and whether
  the last valid header differed from that count. -/
  lastNo : Option Nat
  frame : Nat
  stray : Bool
  /-- R408: superframes counted at the wraps of that number. -/
  sfCount : Nat
  /-- R57: the current-map segments being gathered. -/
  cur : Option MapParts
  /-- R57: the active map, entry by entry; empty while none is adopted. -/
  active : List Nat
  /-- R183: the announced-map segments being gathered. -/
  ann : Option MapParts
  record : Option AnnRecord
  /-- R184: the receiver's switch is due at this boundary. -/
  switchDue : Bool
  /-- R186 cause 1: the values switched to, until the first valid header of the new superframe. -/
  expect : Option (Nat × Nat × Nat)
  /-- R186 cause 4: received superframes since the last switch. -/
  sinceSwitch : Nat
  /-- R115: the superframes of the present window, and those that ended in the present second while READY. -/
  window : FomSum
  second : FomSum
  /-- R186 cause 3: consecutive superframes whose values differ without an agreed switch. -/
  differ : Nat
  /-- R185: consecutive superframes with HDR_LOSS = 1, and with HDR_LOSS = 0. -/
  lossRun : Nat
  clearRun : Nat
  lossArmed : Bool
  /-- R186: a mismatch found and not yet declared. -/
  mismatch : Nat
  /-- R59, R107: delivery stopped for a wrong symbol rate or a re-convergence. -/
  baudStop : Bool
  eqStop : Bool
  /-- R118: values stored at an earlier READY since wing start. -/
  stored : Option Stored
  /-- R106: the equaliser's taps, and MU_ACQ as read at the start of the equaliser's step (R98). -/
  taps : Taps
  muAcq : Nat
  /-- R105: TR_CFG.BW as read at the start of the timing step (R98). -/
  timingBw : Nat
  /-- R96: the DSP's stages. -/
  dsp : Dsp
  /-- R109: what soft demapping takes for each of the latest 64 carrier frames, newest first. -/
  notes : List FrameNote
  /-- R110, R166: the index and profile of the superframe before the present one, and the carrier frames received since the
  boundary between the two. -/
  earlier : Nat × Nat
  inSf : Nat
  /-- R114: the module time until which the output pauses while the second pass's buffer fills. -/
  pausedTo : Nat
  /-- R117: the acquisition in progress is warm. -/
  warm : Bool
  /-- R178: consecutive windows below the lowering threshold. -/
  lowWindows : Nat
  /-- R178: the raise condition has held since this module time. -/
  highSince : Option Nat
  /-- R98: CD_CFG and CD_WIN as read at the start of the dispersion step: fixed, CD_VALUE, HALF_WIDTH. -/
  cdArgs : Bool × Int × Nat
  /-- R113: a stop of the second pass is requested. -/
  sp2Stop : Bool
  /-- R187: the receiver is in FLOOR_FOLLOW: it takes its values from headers with FLOOR = 1. -/
  following : Bool
  /-- R192: what RX_HS shows from the next received boundary on: RSTATE, ANN_SEQ and MAP_COMPLETE. -/
  rstate : Nat
  annSeen : Nat
  complete : Bool
  /-- R14, R388: the module times at which the latest 64 carrier frames left the ADC, newest first. -/
  adcAt : List Nat
deriving DecidableEq, Repr

/-- R182, R188: what the transmitter wants to announce: the pair, and whether only the map changes. -/
structure Wanted where
  h : Nat
  fec : Nat
  mapOnly : Bool
deriving DecidableEq, Repr

/-- R156, R158: what a transmitted superframe carries: its start in module time, its index, its profile and the information
bits. -/
structure Carried where
  start : Nat
  n : Nat
  fec : Nat
  info : List Bool
deriving DecidableEq, Repr

/-- The transmitter's rate control beside the ELC and TXW registers. -/
structure TxRate where
  /-- R156: the superframes sent since the wing's start, the present one first: what the coder's chain stands on. -/
  sent : List Carried
  /-- R79: the headers of the present superframe. -/
  headers : List Header
  /-- R53, R179, R183: what the header carries from the next transmitted boundary on. -/
  wantHdrLoss : Bool
  ackWant : Option Nat
  ackSent : Option Nat
  /-- R192: a change that GO asked for and that has not begun. -/
  want : Option Wanted
  /-- R182, R188: the change that the present announcement, withdrawal or intercom handshake is about. -/
  now : Option Wanted
  /-- R69: the ENABLE bits in force, by channel. -/
  enabled : Nat
  /-- R182: the announced map and per-channel counts. -/
  annMap : List Nat
  annCounts : List Nat
  /-- R69: the ENABLE bits that the announced map carries out. -/
  annEnabled : Nat
  acked : Bool
  /-- R188: the announcement waits for the boundary at which its first superframe begins. -/
  fresh : Bool
  /-- R181: transmitted boundaries since the present announcement began, its own counted. -/
  elapsed : Nat
  /-- R181: the withdrawn announcements whose acknowledgement may still come: number, and boundaries since it began. -/
  withdrawn : List (Nat × Nat)
  /-- R182 step 5: boundaries since the withdrawal. -/
  sinceWithdrawal : Nat
  /-- R182 step 4: the switch is due at this boundary. -/
  switchDue : Bool
  /-- The sequence number of the last announcement. -/
  annSeq : Nat
  /-- R180: ADV_SEQ last acted on. -/
  acted : Option Nat
  /-- R187: a fall-back trigger waits, by cause. -/
  trigger : Nat
  /-- R189: module times of the latest fall-backs. -/
  falls : List Nat
  /-- R187 step 4: the policy has resumed after a fall-back or a start. -/
  resumed : Bool
  /-- R188: resends made of the intercom ANNOUNCE in progress. -/
  icmTries : Nat
  /-- R188 step 4: the ENABLE bits of a failed map-only change that waits for its retry. -/
  mapRetry : Option Nat
  /-- R192: RESUME was written and waits for the transmitted boundary. -/
  resume : Bool
deriving DecidableEq, Repr

/-- R86 to R95: the optical transmitter beside its registers. -/
structure Optics where
  /-- R83, R96, R115, R141: the OPTICAL section of the wing's floor plan. -/
  sec : OpticalSec
  /-- R90: the present output level, in 10⁻⁸ dBm. -/
  level : Int
  /-- R87: the offset of the transmit laser, and of the local oscillator, from its CH, in kHz. -/
  fine : Int
  loFine : Int
  /-- R87: the laser is being tuned; and the local oscillator. -/
  tuning : Bool
  loTuning : Bool
  /-- R87: a dark retune waits for the end of the ramp-down. -/
  retune : Bool
  /-- R92: the laser was locked when TX_DIS was asserted and no retune ran since. -/
  lockHeld : Bool
  /-- R431: the laser, and the local oscillator, stayed locked on their CH through a wing restart. -/
  keptTx : Bool
  keptLo : Bool
  /-- R89: consecutive 1 ms updates more than 1 dB off. -/
  offMs : Nat
  /-- R133: the ramp-up waits for the DAC calibration of this wing start. -/
  dacDue : Bool
deriving DecidableEq, Repr

/-- R194: an up-chirp of a shift in chips, or the down-chirp. -/
inductive Chirp where
  | up (shift : Nat)
  | down
deriving DecidableEq, Repr

/-- R198: a burst: its spreading factor, its depth in 0.1 %, its MSEQ and its chirps. -/
structure Burst where
  sf : Nat
  depth : Nat
  mseq : Nat
  chirps : List Chirp
deriving DecidableEq, Repr

/-- R194 to R213: the intercom of a wing beside its registers. -/
structure IcmSide where
  /-- R203: the queued messages, oldest first. -/
  queue : List IcmMsg
  burst : Option IcmMsg
  /-- R194: the burst's start in module time, and its chirps. -/
  wave : Option (Nat × Burst)
  /-- R200: the next MSEQ. -/
  mseq : Nat
  /-- R202: the last alarm bitmap sent, and ALM_SEQ. -/
  alarmBits : Nat
  alarmSeq : Nat
  /-- R202: a valid BRINGUP has been received since wing start, and one with HEARD = 1. -/
  heard : Bool
  heardBack : Bool
  /-- R202: the BRINGUP fields last queued, but RX_STATE. -/
  lastBringup : List Nat
  /-- R206, R208: the preamble bin and peak of the frame being received. -/
  bin : Nat
  peak : Nat
  /-- R207: the chirps that the receiver has taken of it. -/
  chirps : List RxChirp
  /-- R209: the outputs of the wing's context since its preamble, and the chirp periods in which one was unsettled. -/
  outputs : Nat
  holes : List Nat
  /-- R206, R208: the levels that the receiver and the parallel detector hold. -/
  level : Nat
  side : Nat
  /-- R211: the mailbox, oldest first: MSEQ and bytes. -/
  mailbox : List (Nat × List Nat)
deriving DecidableEq, Repr

/-- R215 to R219: a frame that was sent: MFAS, MFX, the section's trail-trace byte, BIP-8, BEI/BIAE, BDI, IAE and AIS code, the
GCC0 bytes, and the trail-trace byte, BIP-8, BEI, BDI, STAT and APS/PCC bytes of the channel whose PM frame it is; its slots M,
the slot map and the bytes of each channel's container; `spacing` is the number of bits to the next frame start (R216). -/
structure OtnSent where
  slots : Nat
  map : List Nat
  cont : List (Nat × List Nat)
  mfas : Nat
  mfx : Nat
  bip : Nat
  gcc : List Nat
  pmBip : Nat
  tti : Nat
  bei : Nat
  bdi : Bool
  iae : Bool
  ais : Nat
  pmTti : Nat
  pmBei : Nat
  pmBdi : Bool
  pmStat : Nat
  aps : Nat
  spacing : Nat
deriving DecidableEq, Repr


/-! ### What leaves the module -/

/-- What the module put on its interfaces while it carried out the latest command. The model's own record, for
statements to speak of; every command starts with an empty one (assumption 2). -/
inductive Out where
  /-- The completion of a read, with the requester, the BAR0 byte offset and the word. -/
  | data (req : Req) (addr value : Nat)
  /-- R402: a completion as Unsupported Request. -/
  | unsupported (req : Req)
  /-- R405: an MSI-X message. -/
  | msix (vector : Nat)
  /-- R411, R414: a corridor cell, with the port that it leaves on, its destination address and its content. -/
  | cell (port dest : Nat) (c : CellBody)
  /-- R420: an SMBus answer, byte by byte, or no acknowledgement. -/
  | smbus (bytes : List Nat)
  | smbusNack
  /-- R421: the words of a monitor answer, the lines of help, or ERR and its code. -/
  | monitor (words : List Nat)
  | monitorLines (lines : List String)
  | monitorErr (code : Nat)
  /-- R269, R272, R274, R408, R409: a report or a captured block, byte by byte, and a status word, written to host memory. -/
  | hostBlock (addr : Nat) (bytes : List Nat)
  | hostWord (addr value : Nat)
  /-- R410: an error raised through AER. -/
  | aer
  /-- R237, R270: a message handed to GCC0 of a wing. -/
  | gcc (w : Wing) (m : GccMsg)
  /-- R297, R306: a frame handed to a line channel. -/
  | lineFrame (chan : Nat) (f : Frame)
  /-- R281: a frame sent on a client port. -/
  | portFrame (port : Nat) (f : Frame)
  /-- R290: a PFC frame: its class-enable vector and the pause time of the classes whose bit of `xoff` is set. -/
  | pfc (port enable xoff quanta : Nat)
  /-- R343: an ESMC PDU. -/
  | esmc (port ql : Nat) (event : Bool)
  /-- R412: a HEARTBEAT. -/
  | heartbeat (port ql : Nat)
  /-- R50, R79: the header information fields of carrier frames 0 to 63 of a transmitted superframe. -/
  | headers (w : Wing) (hs : List Header)
  /-- R144: the result of an injected conversion, for the consumer of the trigger's source. -/
  | injected (src chan code : Nat)
  /-- R148, R149: an output of a wing's decimation context, for the intercom receiver, saturated or unsettled. -/
  | power (w : Wing) (v : Int) (sat unsettled : Bool)
  /-- R168, R173: information bits handed to the overhead processor, each with its mark. -/
  | infoBits (w : Wing) (bits : List (Bool × Bool))
  /-- R198: an intercom burst began. -/
  | burst (w : Wing) (m : IcmMsg) (b : Burst)
  /-- R216: an OTN frame was started on a wing. -/
  | otn (w : Wing) (o : OtnSent)
  /-- R256: a transmit segment was opened on a channel: void or under a slot. -/
  | segment (chan : Nat) (void : Bool) (slot usage : Nat)
deriving DecidableEq, Repr

/-! ### The outside pins -/

/-- The levels of the pins that are not a function of registers alone. -/
structure Pins where
  /-- R351: the power entry regulates. -/
  pgood : Bool
  /-- R379: FAULT_N driven low. -/
  faultN : Bool
  /-- R420: SMB_ALERT_N driven low. -/
  smbAlert : Bool
  /-- R92: TX_DIS of each wing, as driven by the board. -/
  txDis : PerWing Bool
  /-- R99: the LOS pin of each wing. -/
  los : PerWing Bool
  /-- R400: PERST_N driven low by the board. -/
  perst : Bool
deriving DecidableEq, Repr

/-! ### Host interface (R398 to R410) -/

/-- R407: what engine 7 carries: an image fetch or a transfer at XFER_ADDR. -/
inductive Transfer where
  | image
  | xfer
deriving DecidableEq, Repr

/-- R398, R405: the function's MSI-X state and the shadows of R383. -/
structure HostIf where
  /-- PF0's MSI-X Enable and Function Mask. -/
  msixEnable : Bool
  functionMask : Bool
  /-- The vectors whose mask bit is clear (PCI Express masks every vector at reset). -/
  unmasked : Nat
  /-- The words of the MSI-X table other than the vector control words, by word number. -/
  table : Tab Nat
  /-- The pending bit array. -/
  pba : Nat
  /-- R405: the vectors whose GAP runs, and those requested meanwhile. -/
  gapRun : Nat
  gapReq : Nat
  /-- R383: each requester's shadow: the tag (the _LO address) plus one, or 0 when it holds none, and the value. -/
  shadowTag : Tab Nat
  shadow : Tab Nat
  /-- R400, R427: the link may train from here on. -/
  training : Bool
  /-- R408: the sequence number of each capture engine's next block. -/
  capture : Tab Nat
  /-- R410: the tokens of the shared write budget, in bytes used of the 128 KiB bucket. -/
  budgetUsed : Nat
  /-- R24, R407: engine 7's transfers, the running one first. -/
  engine7 : List Transfer
deriving DecidableEq, Repr

/-! ### Observability (R383 to R397) -/

/-- R391: a record of the attic. -/
structure Rec where
  first : Nat
  source : Nat
  code : Nat
  rep : Nat
  coarse : Bool
  arg0 : Nat
  arg1 : Nat
  last : Nat
deriving DecidableEq, Repr

/-- R391: a record on its way to the attic. -/
structure Arrival where
  source : Nat
  code : Nat
  arg0 : Nat
  arg1 : Nat
deriving DecidableEq, Repr

/-- R391 to R394: the attic beside its registers. -/
structure Attic where
  /-- The records held, by index. -/
  recs : Tab Rec
  /-- R392: for each SOURCE, the index plus one of the last record it wrote. -/
  lastOf : Tab Nat
  /-- R391: the queue of at most 16 arrivals, oldest first. -/
  queue : List Arrival
  /-- R394: a clear is armed. -/
  armed : Bool
  /-- R420: the board's own cursor. -/
  boardCursor : Nat
deriving DecidableEq, Repr

/-- R388: a tag in flight: the frame it rides on and the points passed, with their times. -/
structure Tag where
  id : Nat
  ingress : Bool
  stepped : Bool
  port : Nat
  chan : Nat
  cls : Nat
  len : Nat
  t0 : Nat
  /-- (point, ns from `t0`), oldest first. -/
  points : List (Nat × Nat)
deriving DecidableEq, Repr

/-- R384 to R390: the counters' hidden state. -/
structure Pmu where
  /-- Native events since the latest update: code, instance, amount. -/
  events : List (Nat × Nat × Nat)
  /-- Increments of live-bank counts since the latest update: word address, amount. -/
  mirror : List (Nat × Nat)
  /-- R384: freeze or thaw written, awaiting the next update. -/
  freezeReq : Bool
  thawReq : Bool
  /-- R385, R390: CLEAR_ALL, and the histograms of HIST_CLR, await the next update. -/
  clearReq : Bool
  histReq : Nat
  /-- R389, R395: how many TAG_POPs await the next update. -/
  popReq : Nat
  /-- R384: the registers as they stood when the freeze took hold. -/
  frozen : Option (Tab (Tab Nat))
  /-- R385: the general counters at the previous tick. -/
  atTick : Tab Nat
  tags : List Tag
  /-- R389: the record FIFO, oldest first: a released tag and whether its frame was dropped. -/
  fifo : List (Tag × Bool)
  /-- How many tagging draws were made. -/
  draws : Nat
deriving DecidableEq, Repr

/-! ### Clients, pantry and scheduler (R280 to R318) -/

/-- R287: the source that a frame's cells came from. -/
inductive CellSource where
  | reserve
  | partition
  | shared
deriving DecidableEq, Repr

/-- R286: a frame in a queue. -/
structure Queued where
  frame : Frame
  cells : Nat
  /-- The source that the queue's own test chose. -/
  src : CellSource
  /-- R287: the descriptor came from the direction's reserve (false: from the shared descriptors). -/
  descReserve : Bool
  /-- R243: the bridge record of a bridged frame. -/
  bridge : Option Nat
  /-- R262: the segments of its channel whose tags must verify first. -/
  waits : List Nat
  /-- R388: the tag that rides on it. -/
  tag : Option Nat
  /-- The number of its first cell, and of its descriptor, in the memories' order of writing (assumption 12). -/
  place : Nat
  descPlace : Nat
deriving DecidableEq, Repr

/-- R243, R244: a bridged frame's cells: the copies still held, the source and queue that drew them, and how many. -/
structure Bridge where
  copies : Nat
  src : CellSource
  queue : Nat
  cells : Nat
  /-- The number of the first cell. -/
  place : Nat
deriving DecidableEq, Repr

/-- R284: a policer's buckets, as what is missing from full (in 1/256 byte), and when they were last topped up. -/
structure Policer where
  lackC : Nat
  lackP : Nat
  at_ : Nat
deriving DecidableEq, Repr

/-- The client ports and the pantry beside their registers. -/
structure Pantry where
  /-- The queues, head first: 0 to 511 egress, 512 to 767 ingress. -/
  queues : Tab (List Queued)
  bridges : Tab Bridge
  nextBridge : Nat
  /-- R287: descriptors in use of each direction's reserve and of the shared ones. -/
  descEgress : Nat
  descIngress : Nat
  descShared : Nat
  policers : Tab Policer
  /-- R291: the classes of each port in XOFF, and those due in the next PFC frame. -/
  pfcXoff : Tab Nat
  pfcDue : Tab Nat
  /-- R282: PCS alignment of each port. -/
  aligned : Nat
  /-- R297: the generator's next sequence number, and the last one checked. -/
  tpgSeq : Nat
  tpcLast : Option Nat
deriving DecidableEq, Repr

/-- R311: an operative gate list. -/
structure GateList where
  /-- (gate vector, interval in ns) of each entry. -/
  entries : List (Nat × Nat)
  cycle : Nat
  base : Nat
deriving DecidableEq, Repr

/-- The scheduler beside its registers. -/
structure Sched where
  /-- R306: start and finish tags by queue, virtual times by 8 × instance + group. -/
  tagS : Tab Nat
  tagF : Tab Nat
  virt : Tab Nat
  /-- R307: what is missing from a full bucket, in 1/256 byte, and when the bucket was last topped up (µs). -/
  lack : Tab Int
  lackAt : Tab Nat
  /-- R316: the frame being handed on by each instance: its class and the module time at which it ends. -/
  handing : Tab (Nat × Nat)
  /-- R311: the operative lists, where not the one of reset, and the staged entries. -/
  oper : Tab GateList
  staged : Tab (Nat × Nat)
  /-- R312: the module time at which each channel's entry in force started, where a command has said so. -/
  entryAt : Tab Nat
  /-- R313: T_new of each pending activation. -/
  tNew : Tab Nat
  /-- R73: each channel's frames and blocks mapped in the present second, and its slots times µs. -/
  mapped : Tab (Nat × Nat)
  /-- R72: the bits left of the frame that a container of no slots holds in mapping. -/
  held : Tab Nat
  slotUs : Tab Nat
  slotAt : Tab Nat
  /-- R313: the channels whose gates are active (EN as taken at a cycle start). -/
  gated : Nat
deriving DecidableEq, Repr

/-! ### Power (R351 to R365) -/

/-- R354: the domains that power up in stages. -/
inductive Domain where
  | regWing (w : Wing)
  | regShared
  | dsp (w : Wing) (part : Nat)
  | fec (w : Wing)
  | secondPass (w : Wing)
  | conv (w : Wing)
  | overhead (w : Wing)
  | optics (w : Wing)
  | cipher
  | switch
  | client (b : Bool)
  | corridor
  | supervisory
deriving DecidableEq, Repr

/-- The sequencer and the wake domain, beside the PWR registers. -/
structure Power where
  /-- R356: 0 Run, 1 Idle, 2 Sleep, 3 Deep sleep, 4 Off, 5 Watch; 6 when the input does not start the power entry. -/
  state : Nat
  /-- R440: the thermal stop is latched until VIN is cycled. -/
  thermalLatch : Bool
  /-- R355: the stages that wait, in order of admission. -/
  queue : List Domain
  /-- R354: the stages admitted in the last 100 µs: the time in µs and the step in µA. -/
  window : List (Nat × Nat)
  /-- The domains whose stage was admitted and that stay up. -/
  up : List Domain
  /-- R358: the target of the transition in progress. -/
  trans : Option Nat
  heldTarget : Option Nat
  /-- R360: the register stages kept clocked by accesses (0 wing A, 1 wing B, 2 shared). -/
  woken : List Nat
  /-- R362: consecutive exceedances of each wing. -/
  watch : PerWing Nat
  /-- R363: MT_SAVE and the sleep counter; none after a loss of power. -/
  mtSave : Option Nat
  /-- R361: the latest wake, in µs of the model's clock. -/
  wokeAt : Nat
  /-- R364: workers still to be sent the request. -/
  hierLeft : List Nat
  hierTarget : Nat
deriving DecidableEq, Repr

/-! ### Stored-data protection (R368 to R381) -/

/-- R368 to R381: what the memories and the fault logic hold besides the RAS registers. -/
structure Reliability where
  /-- R369: how many cells (memory 0) or lines of each memory were written since its valid bits were cleared: those
  are the valid ones (assumption 12). -/
  written : Tab Nat
  /-- R369: the valid lines of the cupboard's key slots. -/
  slotsValid : List Nat
  /-- R371: the times of the latest corrections of a line, newest first. -/
  corrected : List (MemLine × List Nat)
  /-- R371: the lines served from a remap entry. -/
  remapped : List MemLine
  /-- R372: the banks already reported full. -/
  full : List (Nat × Nat)
  /-- R381: a line written with an injected error: true = two bits; R373: a line whose error another copy still meets. -/
  injected : List (MemLine × Bool)
  /-- R378: the control cores are being restarted. -/
  coreDown : Bool
  /-- R341: a DPLL fault holds FAULT_N. -/
  dpllFault : Bool
  /-- R374: the cells of a damaged descriptor, waiting for the audit: its queue and the frame it
  described. -/
  audit : List (Nat × Queued)
deriving DecidableEq, Repr

/-! ### Corridor (R411 to R418) -/

/-- R413: an addressed worker, as the manager records it. -/
structure Node where
  ident : Nat
  parent : Nat
  parentPort : Nat
  /-- The worker's own port towards its parent. -/
  upPort : Nat
  depth : Nat
deriving DecidableEq, Repr

/-- R415: a request of a window waiting for its answer. -/
structure Request where
  id : Nat
  window : Nat
  addr : Nat
  isRead : Bool
  stalled : Bool
  /-- Deadline in ns of the uptime. -/
  deadline : Nat
  /-- R423: the result is discarded after a reset of PF0. -/
  discarded : Bool
deriving DecidableEq, Repr

/-- The corridor beside its registers. -/
structure Corridor where
  /-- R412: consecutive valid heartbeats on each port. -/
  beats : Tab Nat
  /-- The QL of the latest heartbeat on each port. -/
  beatQl : Tab Nat
  /-- R413: the manager's record, by address. -/
  nodes : Tab Node
  /-- R414: the two ports of the manager that carry a ring, in order of enumeration. -/
  ringPorts : List Nat
  /-- R414: the workers of the ring, in order from the first ring port. -/
  ring : List Nat
  /-- R414: the ring is broken behind so many of them, and cells for the rest leave on the other ring port. -/
  cut : Option Nat
  /-- R413: on a worker, the addresses that each of its ports serves, first and last. -/
  serves : List (Option (Nat × Nat))
  /-- R415: the requests in flight and the next identifier. -/
  requests : List Request
  nextId : Nat
  /-- R416: the forwarded doorbells, oldest first: worker and vector. -/
  fwdLog : List (Nat × Nat)
  /-- R413: the first port has come up since reset. -/
  everUp : Bool
deriving DecidableEq, Repr

/-! ### Converters, supervisory converter, FEC, overhead (R122 to R241) -/

/-- R125, R129: what a converter dimension does. -/
inductive Rotate where
  | stopped
  | calibrating
  | overlap
  | dwell
  | parked
deriving DecidableEq, Repr

/-- R136: the live statistics of a slice or a dimension. -/
structure CodeSum where
  sum : Int
  sq : Nat
  cnt : Nat
  max : Int
  min : Int
  full : Nat
deriving DecidableEq, Repr

def CodeSum.zero : CodeSum := ⟨0, 0, 0, 0, 0, 0⟩

/-- R123, R124, R132: what a slice has beside its analogue trims: the digital residual correction of its offset in 1/256 LSB
and of its gain in 0.001 %, and what is left after its latest calibration: the skew in fs, the offset in 1/4,096 LSB and the
gain in 0.0001 %. -/
structure SliceRest where
  offset : Int
  gain : Int
  skew : Int
  leftOffset : Int
  leftGain : Int
deriving DecidableEq, Repr

def SliceRest.zero : SliceRest := ⟨0, 0, 0, 0, 0⟩

/-- R125 to R131: a converter dimension beside its registers. -/
structure ConvDim where
  phase : Rotate
  /-- R124, R131: what the next hand-over brings into force. -/
  trims : Option Trims
  /-- R126: the present run began at an end of the walk. -/
  whole : Bool
  /-- R123, R132: the residual corrections and skews, by slice. -/
  rest : Tab SliceRest
  /-- R136, R137: the live statistics, by slice; the dimension's own at 65. -/
  live : Tab CodeSum
deriving DecidableEq, Repr

/-- A wing's converters. -/
structure Conv where
  dims : Tab ConvDim
  /-- R129: foreground calibration runs. -/
  foreground : Bool
  /-- R138: RESTART, and a START of the DAC calibration, that wait for the next hand-over. -/
  restartDue : Bool
  dacDue : Bool
  /-- R133: the trims of the sub-DACs, by 4 × dimension + sub-DAC. -/
  dac : Tab Trims
deriving DecidableEq, Repr

/-- R150: a channel's live accumulator and trackers. -/
structure Accum where
  sum : Int
  sq : Nat
  cnt : Nat
  min : Int
  max : Int
  sat : Bool
  unsettled : Nat
  inj : Nat
deriving DecidableEq, Repr

/-- R147: a context's CIC and FIR: the integrators and the combs, the samples since the latest CIC output, the latest CIC
outputs (the latest first), and how many of them arrived since the latest FIR output. -/
structure DecFilter where
  integ : List Int
  comb : List Int
  count : Nat
  line : List Int
  phase : Nat
deriving DecidableEq, Repr

/-- The supervisory converter and the decimation engine. -/
structure Sup where
  /-- R142: the regular slot that is due. -/
  slot : Nat
  /-- R154: a commit changed LEN while an injected sequence runs: a new cycle starts when that ends. -/
  anew : Bool
  /-- R151, R153: a self-calibration starts at the end of the conversion in progress. -/
  calDue : Bool
  /-- R149, R153: the contexts that DEC_RESET resets at the end of the conversion in progress, as a mask. -/
  resetDue : Nat
  /-- R146: the samples that each context has still to consume, the oldest first. -/
  input : Tab (List Int)
  /-- R147: the CIC and FIR of each context. -/
  filters : Tab DecFilter
  /-- R145: the sources pending, and the one running with its slots still to convert. -/
  pending : List Nat
  running : Option (Nat × List Nat)
  live : Tab Accum
  /-- R149: outputs still to be marked UNSETTLED, by context. -/
  unsettled : Tab Nat
  /-- R149: a self-calibration ended: the next regular sample of each channel is a step. -/
  stepped : List Nat
  /-- R141, R420: the latest readings of the cold plate (channel 15) and of the die sensors (16 to 23), in 0.0625 °C. -/
  temps : Tab Int
deriving DecidableEq, Repr

/-- R162, R173: a decoded bit on its way to the overhead processor: its value, whether it is a parity bit, and its mark. -/
structure DecodedBit where
  bit : Bool
  parity : Bool
  mark : Bool
deriving DecidableEq, Repr

/-- R111, R164, R165, R166: a block in the decoder's window: its number in its superframe, that superframe by the received
boundaries counted, its index and profile, the number of the carrier frame that held its first symbol, and the values that the
demapper delivered for its coded bits. -/
structure HeldBlock where
  number : Nat
  sf : Nat
  n : Nat
  fec : Nat
  frame : Nat
  llr : List Int
deriving DecidableEq, Repr

/-- R169 to R174: a wing's decoder beside its registers. -/
structure Decoder where
  /-- R165: the blocks in the window, the oldest first. -/
  held : List HeldBlock
  /-- R174: the received superframe boundaries counted, the superframe whose blocks are leaving the window, and the one in which
  LOCKED rose, by those counts. -/
  sfNo : Nat
  leaving : Nat
  lockedAt : Nat
  /-- R156: the latest eight blocks that left the window, the latest first. -/
  chain : List (List Bool)
  /-- R168: the decoded bits of a matcher block that is not complete. -/
  rest : List DecodedBit
  /-- R111: the values that the second decode of the latest block took; none without a second pass. -/
  again : List Int
  /-- R175: the values that FEC.INJ has seen. -/
  seen : Nat
  /-- Consecutive blocks with zero syndrome, up to 256. -/
  zeros : Nat
  /-- This superframe's uncorrectable blocks, and whether any block was not. -/
  uncorr : Nat
  good : Bool
  /-- Consecutive superframes without a correct block; failing; good, counted from the first to begin after LOCKED rose. -/
  dead : Nat
  failing : Nat
  clean : Nat
  /-- R174: superframes of the present window (none while LOCKED is 0), its ERR_BITS and BITS, the sum of
  BER_REQ by bits, and consecutive windows at or below the level. -/
  window : Option Nat
  errs : Nat
  bits : Nat
  ref : Nat
  low : Nat
  /-- R14, R388: the module times of the latest 64 blocks that left the decoder, newest first. -/
  outAt : List Nat
deriving DecidableEq, Repr

/-- R222: a candidate of the FAS search: the bounds, in 2⁻²⁴ bits of the stream, between which the schedule of R216 puts its
latest position (the upper one excluded), and its confirmations. -/
structure Candidate where
  lo : Nat
  hi : Nat
  hits : Nat
deriving DecidableEq, Repr

/-- R221: the collection of a trail trace: the bytes of the present trace, the last complete one and how many in
succession were identical. -/
structure Trace where
  part : List Nat
  last : List Nat
  same : Nat
  accepted : Bool
deriving DecidableEq, Repr

/-- R230: the persistence of a received status value: consecutive occurrences and consecutive absences. -/
structure Run where
  on : Nat
  off : Nat
deriving DecidableEq, Repr

/-- R226 to R235: the receive side of a channel's PM layer. -/
structure PmRx where
  ais : Run
  oci : Run
  lck : Run
  bdi : Run
  trace : Trace
  /-- R235: the value of the previous PM frame and how many have carried it. -/
  aps : Nat
  apsRun : Nat
  /-- R226: the BEI to return. -/
  bei : Nat
  degRun : Run
  /-- R233: declared failures before suppression. -/
  fail : Nat
  /-- aSSF held at some time in the present second, in the one before, and in the present 100 ms. -/
  ssfSecond : Bool
  ssfLast : Bool
  ssfTenth : Bool
  /-- R232: aSSF of the channel held when last seen, and whether a frame in progress is still to be discarded for it. -/
  ssf : Bool
  cutting : Bool
  /-- R231: blocks and errored blocks in the present 100 ms, and the 100 ms intervals before it, newest first. -/
  tenth : Nat × Nat
  window : List (Nat × Nat)
deriving DecidableEq, Repr

/-- R218: the parameters that hold for the frames that start at a bit of the received stream or later. -/
structure Era where
  start : Nat
  baud : Nat
  n : Nat
  fec : Nat
  map : List Nat
deriving DecidableEq, Repr

/-- The overhead processor of a wing. -/
structure Otn where
  /-- R71: the blocks of each channel that wait for its container, and the bits of its container not yet sent. -/
  wait : Tab (List Block66)
  box : Tab (List Bool)
  /-- R237: the bytes of the GCC0 stream still to be sent. -/
  gcc : List Nat
  /-- R237: the bytes received since the latest flag (none before the first flag), and the messages that have ended. -/
  gccIn : Option (List Nat)
  gccMsgs : List (List Nat)
  /-- R168, R173, R222: the received information bits that the framer has not passed, with their marks; the number of the first
  of them since LOCKED rose; the parameters that they were sent under, the oldest first. -/
  line : List (Bool × Bool)
  pos : Nat
  eras : List Era
  /-- R223: the bounds, in 2⁻²⁴ bits, between which the schedule puts the next frame start. -/
  lo : Nat
  hi : Nat
  /-- R225: the section's parity of the latest frames, the latest first; R226: each channel's since its PM frame. -/
  parity : List Nat
  pmParity : Tab Nat
  /-- R225: the parity of the section's bytes in the latest two frames received, the latest first; R226: each channel's since
  its PM frame, for a channel whose PM frame has been received in multiframe. -/
  heard : List Nat
  pmHeard : Tab Nat
  /-- R216: Φ in 2⁻²⁴ bits, and the transmitted MFAS and MFX. -/
  phi : Nat
  mfas : Nat
  mfx : Nat
  /-- R227: frames still to carry IAE. -/
  iae : Nat
  cands : List Candidate
  badFas : Nat
  badMfas : Nat
  goodMfas : Nat
  expect : Nat
  lastMfx : Option Nat
  ais : Run
  bdi : Run
  iaeRun : Run
  biae : Run
  trace : Trace
  bei : Nat
  degRun : Run
  fail : Nat
  ssfSecond : Bool
  ssfLast : Bool
  ssfTenth : Bool
  tenth : Nat × Nat
  window : List (Nat × Nat)
  pm : Tab PmRx
deriving DecidableEq, Repr

/-! ### Protection, cipher, lanes, references (R242 to R350) -/

/-- R246 to R252: a protection group beside its registers. -/
structure Group where
  /-- R249: do-not-revert stands. -/
  dnr : Bool
  /-- R250: the member whose APS value was accepted more recently. -/
  later : Wing
  /-- The accepted far value of each member, if any has been accepted. -/
  seen : PerWing Bool
deriving DecidableEq, Repr

/-- R263, R264: a cupboard slot beside SLOT_STAT: key and salt, and what retirement ends in. -/
structure KeySlot where
  /-- The 256-bit key followed by the 32-bit salt. -/
  material : Nat
  /-- R267: the material that retirement writes (none for an ERASE). -/
  next : Option Nat
  /-- R271: the session that its generation belongs to. -/
  session : Nat
deriving DecidableEq, Repr

/-- R24, R273: an open segment of either direction: its channel, its slot, the bytes not yet run. -/
structure Context where
  id : Nat
  ch : Nat
  slot : Nat
  bytes : Nat
  /-- The number of its line in the order of writing (assumption 12). -/
  place : Nat
deriving DecidableEq, Repr

/-- R273: a pipeline: the context running and the one suspended. -/
structure Pipe where
  run : Option Nat
  suspended : Option Nat
deriving DecidableEq, Repr

/-- R270: a wing's session with the far end. -/
structure Session where
  /-- The steps of R270: 0 none, 1 KE_INIT sent, 2 KE_RESP sent, 3 KE_FIN sent, 4 up. -/
  step : Nat
  number : Nat
  /-- R270: SS in force, and the one being established. -/
  secret : List Nat
  newSecret : List Nat
  /-- R270: the KE_INIT of the exchange under way, as sent or received, and the decapsulation key that an initiator made. -/
  init : List Nat
  kem : Nat
  farId : Nat
  /-- The failure to report. -/
  fault : Nat
  /-- R271: the next generation of each channel direction (slot number / 2). -/
  gens : Tab Nat
deriving DecidableEq, Repr

/-- The cipher engine and the cupboard. -/
structure Cipher where
  /-- R269: the KEK's 32 bytes, and the previous one while LOAD_KEK runs. -/
  kek : Option (List Nat)
  oldKek : Option (List Nat)
  slots : Tab KeySlot
  contexts : List Context
  /-- Contexts ready to run, oldest first. -/
  ready : List Nat
  pipes : Tab Pipe
  nextId : Nat
  /-- R261: confirmations in succession, and expected positions missed. -/
  confirms : Tab Nat
  missed : Tab Nat
  /-- R262: segments received on each channel. -/
  segs : Tab Nat
  /-- R374: channels whose open received segment has been abandoned: the rest of it is discarded. -/
  spoiled : List Nat
  /-- R265: a forced rollover is due at the next segment start. -/
  rollDue : List Nat
  /-- R269: the key command that runs: its OP. -/
  cmd : Nat
  /-- R274: the nonce of the attestation that runs, as the words of KEY_DATA[0] to [7]. -/
  nonce : List Nat
  /-- R270: each wing's session. -/
  sessions : PerWing Session
deriving DecidableEq, Repr

/-- R321 to R327: the lanes beside their registers, as bitmaps by lane. -/
structure LaneSet where
  /-- Step 6 is complete and the lane waits for its port. -/
  waiting : Nat
  /-- R327: the receive half keeps its equaliser state. -/
  kept : Nat
  /-- R327: a warm return is under way. -/
  warm : Nat
  /-- R321, R323: the CTLE index in use. -/
  ctle : Tab Nat
  /-- R329: the run of symbols that the pattern checker has met: error-free ones until it locks, then errored ones. -/
  prbs : Tab Nat
deriving DecidableEq, Repr

/-- The DPLL beside the REF registers. Frequencies in 10⁻⁹ ppm. -/
structure Dpll where
  /-- R334: the candidates that have lost qualification (bitmap). -/
  lost : Nat
  /-- R336: QL of each client candidate's ESMC, by port; ports whose ESMC has timed out since. -/
  esmc : Tab Nat
  esmcFailed : Nat
  everLocked : Bool
  /-- R339, R340: the output's frequency against the local oscillator, in 10⁻⁹ ppm, and at the evaluations of the last 1.2 s in
  which it followed a reference, newest first, with their times. -/
  freq : Int
  hist : List (Nat × Int)
  /-- R340: frequency, temperature (0.0625 °C) and time at entry to holdover. -/
  entry : Int
  entryT : Int
  entryAt : Nat
  /-- R340: the model learned, and the sum and number of the temperatures met while locked. -/
  model : HoModel
  sumT : Int
  sumN : Nat
  /-- R334: when each wait-to-restore ends, by candidate, in µs of the uptime. -/
  wtrEnd : Tab Nat
  /-- R339: up to when the output's movement is accounted for, in µs of the uptime. -/
  slewAt : Nat
  /-- R347: a step is due; ns that MT advanced since the last tick. -/
  stepDue : Bool
  advanced : Nat
deriving DecidableEq, Repr


/-! ### The parts right after reset -/

def Pins.reset : Pins where
  pgood := true
  faultN := false
  smbAlert := false
  txDis := PerWing.both true
  los := PerWing.both true
  perst := true

def HostIf.reset : HostIf where
  msixEnable := false
  functionMask := false
  unmasked := 0
  table := []
  pba := 0
  gapRun := 0
  gapReq := 0
  shadowTag := []
  shadow := []
  training := false
  capture := []
  engine7 := []
  budgetUsed := 0

def Attic.reset : Attic where
  recs := []
  lastOf := []
  queue := []
  armed := false
  boardCursor := 0

def Pmu.reset : Pmu where
  events := []
  mirror := []
  freezeReq := false
  thawReq := false
  clearReq := false
  histReq := 0
  popReq := 0
  frozen := none
  atTick := []
  tags := []
  fifo := []
  draws := 0

def Bank.blank : Bank := ⟨.empty, 0, 0, none⟩

def ImageState.reset : ImageState where
  bankA := Bank.blank
  bankB := Bank.blank
  staged := none
  running := none
  cmd := none
  target := none

def Boot.reset : Boot where
  step := 2
  wake := false
  hostMode := false
  selfTestPassed := false
  wing := PerWing.both 0

def Power.reset : Power where
  state := 0
  thermalLatch := false
  queue := []
  window := []
  up := []
  trans := none
  heldTarget := none
  woken := []
  watch := PerWing.both 0
  wokeAt := 0
  mtSave := none
  hierLeft := []
  hierTarget := 0

def Reliability.reset : Reliability where
  written := []
  slotsValid := []
  corrected := []
  remapped := []
  full := []
  injected := []
  coreDown := false
  dpllFault := false
  audit := []

def Corridor.reset : Corridor where
  beats := []
  beatQl := []
  nodes := []
  ringPorts := []
  ring := []
  cut := none
  serves := []
  requests := []
  nextId := 0
  fwdLog := []
  everUp := false

def Dsp.reset : Dsp := ⟨0, 0, 0, [], 0, (16777216, 0), (16777216, 0), [], 0, 0⟩

def RxLine.reset : RxLine where
  candidate := 0
  position := 0
  misses := 0
  noHeader := 64
  goodSf := 0
  taken := none
  held := none
  lastNo := none
  frame := 0
  stray := false
  sfCount := 0
  cur := none
  active := []
  ann := none
  record := none
  switchDue := false
  expect := none
  sinceSwitch := 64
  window := FomSum.zero
  second := FomSum.zero
  differ := 0
  lossRun := 0
  clearRun := 4
  lossArmed := true
  mismatch := 0
  baudStop := false
  eqStop := false
  stored := none
  taps := ⟨[], [], [], []⟩
  muAcq := 0
  timingBw := 0
  dsp := Dsp.reset
  notes := []
  earlier := (0, 0)
  inSf := 0
  pausedTo := 0
  warm := false
  lowWindows := 0
  highSince := none
  cdArgs := (false, 0, 0)
  sp2Stop := false
  following := true
  rstate := 5
  annSeen := 0
  complete := false
  adcAt := []

def TxRate.reset : TxRate where
  sent := []
  headers := []
  wantHdrLoss := true
  ackWant := none
  ackSent := none
  want := none
  now := none
  enabled := 0
  annMap := []
  annCounts := []
  annEnabled := 0
  acked := false
  fresh := false
  elapsed := 0
  withdrawn := []
  sinceWithdrawal := 0
  switchDue := false
  annSeq := 0
  acted := none
  trigger := 0
  falls := []
  resumed := false
  icmTries := 0
  mapRetry := none
  resume := false

def OpticalSec.none : OpticalSec := ⟨0, [], [], [], [], [], [], [], [], []⟩

def Optics.reset : Optics where
  sec := OpticalSec.none
  level := -3000000000
  fine := 0
  loFine := 0
  tuning := false
  loTuning := false
  retune := false
  lockHeld := false
  keptTx := false
  keptLo := false
  offMs := 0
  dacDue := true

def IcmSide.reset : IcmSide where
  queue := []
  burst := none
  wave := none
  mseq := 0
  alarmBits := 0
  alarmSeq := 0
  heard := false
  heardBack := false
  lastBringup := []
  bin := 0
  peak := 0
  chirps := []
  outputs := 0
  holes := []
  level := 0
  side := 0
  mailbox := []

def Pantry.reset : Pantry where
  queues := []
  bridges := []
  nextBridge := 0
  descEgress := 0
  descIngress := 0
  descShared := 0
  policers := []
  pfcXoff := []
  pfcDue := []
  aligned := 0
  tpgSeq := 0
  tpcLast := none

def Sched.reset : Sched where
  tagS := []
  tagF := []
  virt := []
  lack := []
  lackAt := []
  handing := []
  oper := []
  staged := []
  entryAt := []
  tNew := []
  mapped := []
  held := []
  slotUs := []
  slotAt := []
  gated := 0


def ConvDim.reset : ConvDim := ⟨.stopped, none, true, [], []⟩

def Conv.reset : Conv := ⟨[], false, false, false, []⟩

def Accum.zero : Accum := ⟨0, 0, 0, 0, 0, false, 0, 0⟩

def DecFilter.zero : DecFilter := ⟨[], [], 0, [], 0⟩

def Sup.reset : Sup where
  slot := 0
  anew := false
  calDue := false
  resetDue := 0
  input := []
  filters := []
  pending := []
  running := none
  live := []
  unsettled := []
  stepped := []
  temps := []

def Decoder.reset : Decoder where
  held := []
  sfNo := 1
  leaving := 0
  lockedAt := 0
  chain := []
  rest := []
  again := []
  seen := 0
  zeros := 0
  uncorr := 0
  good := false
  dead := 0
  failing := 0
  clean := 0
  window := none
  errs := 0
  bits := 0
  ref := 0
  low := 0
  outAt := []

def Run.zero : Run := ⟨0, 0⟩

def Trace.empty : Trace := ⟨[], [], 0, false⟩

def PmRx.reset : PmRx where
  ais := Run.zero
  oci := Run.zero
  lck := Run.zero
  bdi := Run.zero
  trace := Trace.empty
  aps := 0
  apsRun := 0
  bei := 0
  degRun := Run.zero
  fail := 0
  ssfSecond := false
  ssfLast := false
  ssfTenth := false
  ssf := true
  cutting := false
  tenth := (0, 0)
  window := []

def Otn.reset : Otn where
  wait := []
  box := []
  gcc := []
  gccIn := none
  gccMsgs := []
  line := []
  pos := 0
  eras := []
  lo := 0
  hi := 0
  parity := []
  pmParity := []
  heard := []
  pmHeard := []
  phi := 0
  mfas := 0
  mfx := 0
  iae := 16
  cands := []
  badFas := 0
  badMfas := 0
  goodMfas := 0
  expect := 0
  lastMfx := none
  ais := Run.zero
  bdi := Run.zero
  iaeRun := Run.zero
  biae := Run.zero
  trace := Trace.empty
  bei := 0
  degRun := Run.zero
  fail := 1
  ssfSecond := true
  ssfLast := true
  ssfTenth := true
  tenth := (0, 0)
  window := []
  pm := []

def Group.reset : Group := ⟨false, .a, PerWing.both false⟩

def KeySlot.empty : KeySlot := ⟨0, none, 0⟩

def Pipe.free : Pipe := ⟨none, none⟩

def Session.reset : Session := ⟨0, 0, [], [], [], 0, 0, 0, []⟩

def Cipher.reset : Cipher where
  kek := none
  oldKek := none
  slots := []
  contexts := []
  ready := []
  pipes := []
  nextId := 0
  confirms := []
  missed := []
  segs := []
  spoiled := []
  rollDue := []
  cmd := 0
  nonce := []
  sessions := PerWing.both Session.reset

def LaneSet.reset : LaneSet := ⟨0, 0, 0, [], []⟩

def Dpll.reset : Dpll where
  lost := 0
  esmc := []
  esmcFailed := 0
  everLocked := false
  freq := 0
  hist := []
  entry := 0
  entryT := 0
  entryAt := 0
  model := ⟨0, 0, 0⟩
  sumT := 0
  sumN := 0
  wtrEnd := []
  slewAt := 0
  stepDue := false
  advanced := 0



/-! ### The state -/

/-- The whole machine. -/
structure State where
  /-- The commands that wait, first in first out. -/
  pending : List Instr
  /-- Every register field that differs from its reset value: by row number, then by instance, the difference
  (exclusive or) from the reset value. -/
  store : Tab (Tab Nat)
  /-- R41: the staged and the pending values of S registers, a whole register at a time, by BAR0 byte offset. -/
  staged : Tab Nat
  pend : Tab Nat
  /-- R40: the value still in use of an L field written since its block's latest boundary. -/
  inuse : Tab Nat
  /-- What left the module during the latest command (the model's own record). -/
  out : List Out
  /-- How many free values were drawn (the model's own counter). -/
  free : Nat
  /-- Microseconds since reset, advanced by MT_UPDATE (the model's own clock, for the rules that compare times). -/
  uptime : Nat
  pins : Pins
  host : HostIf
  attic : Attic
  pmu : Pmu
  image : ImageState
  fuses : Fuses
  boot : Boot
  power : Power
  ras : Reliability
  cor : Corridor
  rx : PerWing RxLine
  tx : PerWing TxRate
  opt : PerWing Optics
  icm : PerWing IcmSide
  pan : Pantry
  sched : Sched
  conv : PerWing Conv
  sup : Sup
  dec : PerWing Decoder
  otn : PerWing Otn
  groups : Tab Group
  cip : Cipher
  sds : LaneSet
  corLanes : LaneSet
  dpll : Dpll
deriving DecidableEq, Repr

/-- The machine right after module reset: the input present, the start sequence at step 2, every field of every
register at its reset value, every queue empty. -/
def State.reset : State where
  pending := []
  store := []
  staged := []
  pend := []
  inuse := []
  out := []
  free := 0
  uptime := 0
  pins := Pins.reset
  host := HostIf.reset
  attic := Attic.reset
  pmu := Pmu.reset
  image := ImageState.reset
  fuses := ⟨0, 0, 0⟩
  boot := Boot.reset
  power := Power.reset
  ras := Reliability.reset
  cor := Corridor.reset
  rx := PerWing.both RxLine.reset
  tx := PerWing.both TxRate.reset
  opt := PerWing.both Optics.reset
  icm := PerWing.both IcmSide.reset
  pan := Pantry.reset
  sched := Sched.reset
  conv := PerWing.both Conv.reset
  sup := Sup.reset
  dec := PerWing.both Decoder.reset
  otn := PerWing.both Otn.reset
  groups := []
  cip := Cipher.reset
  sds := LaneSet.reset
  corLanes := LaneSet.reset
  dpll := Dpll.reset

end Sys2Proof.Machine
end

