-- ==== Sys2Proof/Machine/Ops.lean ====
section
/-!
DEFINITION. The named operations over tables, bits and registers. Every register is read and written here and
nowhere else.
-/

namespace Sys2Proof.Machine

/-! ### Sparse tables -/

/-- Remove a key. -/
def tabErase {α : Type} (t : Tab α) (k : Nat) : Tab α := t.filter (fun e => e.1 != k)

/-- Put an entry before the first greater key. -/
def tabInsert {α : Type} (k : Nat) (v : α) : Tab α → Tab α
  | [] => [(k, v)]
  | e :: t => if k < e.1 then (k, v) :: e :: t else e :: tabInsert k v t

/-- The entry of a key. -/
def tabFind {α : Type} (t : Tab α) (k : Nat) : Option α := (t.find? (fun e => e.1 == k)).map (·.2)

/-- What a key reads as, `d` being what an unlisted key reads as. -/
def tabGet {α : Type} (d : α) (t : Tab α) (k : Nat) : α := (tabFind t k).getD d

/-- Write a key; the value `d` removes the entry. -/
def tabSet {α : Type} [DecidableEq α] (d : α) (t : Tab α) (k : Nat) (v : α) : Tab α :=
  if v = d then tabErase t k else tabInsert k v (tabErase t k)

/-- The canonical form: keys strictly rising, no entry equal to `d`. -/
def tabWf {α : Type} (d : α) (t : Tab α) : Prop :=
  List.Pairwise (fun x y => x.1 < y.1) t ∧ ∀ e ∈ t, e.2 ≠ d

/-! ### Bits of a word -/

/-- The `width` bits of a word from bit `lsb`. -/
def bitsAt (v lsb width : Nat) : Nat := v / 2 ^ lsb % 2 ^ width

/-- Set one bit. -/
def setBit (v i : Nat) : Nat := v ||| 2 ^ i

/-- Clear the bits that a mask names. -/
def clearMask (v m : Nat) : Nat := v - (v &&& m)

/-- Clear one bit. -/
def clearBit (v i : Nat) : Nat := clearMask v (2 ^ i)

/-- One bit as a number. -/
def bitNat (b : Bool) : Nat := if b then 1 else 0

/-- A field read as two's complement. -/
def toSigned (width v : Nat) : Int := if v < 2 ^ (width - 1) then (v : Int) else (v : Int) - (2 : Int) ^ width

/-- A number written as two's complement. -/
def ofSigned (width : Nat) (i : Int) : Nat := (i % (2 : Int) ^ width).toNat

/-- A counter that saturates at its field's width. -/
def satAdd (width v n : Nat) : Nat := if v + n < 2 ^ width then v + n else 2 ^ width - 1

/-- The nearer limit of a range. -/
def clampNat (lo hi v : Nat) : Nat := max lo (min hi v)

/-- The nearer limit of a signed range. -/
def clampInt (lo hi v : Int) : Int := max lo (min hi v)

/-! ### Registers -/

/-- R40: a written value under the statement of its field; `old` is what the field holds. -/
def Norm.take (n : Norm) (width old v : Nat) : Nat :=
  match n with
  | .keep => v
  | .clamp lo hi => clampNat lo hi v
  | .sclamp lo hi => ofSigned width (clampInt lo hi (toSigned width v))
  | .sub bad good => if v = bad then good else v
  | .above hi good => if hi < v then good else v
  | .ignoreAbove hi => if hi < v then old else v
  | .align k => v - v % k
  | .odd lo hi => clampNat lo hi (v + (1 - v % 2))


/-- What a field holds. The store lists, for each row and instance, the difference from the reset value; an unlisted
instance holds its reset value. -/
def State.rd (s : State) (r : Row) (ix : List Nat := []) : Nat :=
  (tabGet 0 (tabGet [] s.store r.id) (r.flat ix)) ^^^ r.rst

/-- The store with one field written. -/
def storeSet (st : Tab (Tab Nat)) (r : Row) (n v : Nat) : Tab (Tab Nat) :=
  tabSet [] st r.id (tabSet 0 (tabGet [] st r.id) n ((v % 2 ^ r.width) ^^^ r.rst))

/-- Write a field (the value is cut to the field's width). -/
def State.wr (s : State) (r : Row) (ix : List Nat) (v : Nat) : State :=
  { s with store := storeSet s.store r (r.flat ix) v }

/-- A one-bit field. -/
def State.flag (s : State) (r : Row) (ix : List Nat := []) : Bool := s.rd r ix != 0

/-- Write a one-bit field. -/
def State.wrb (s : State) (r : Row) (ix : List Nat) (b : Bool) : State := s.wr r ix (bitNat b)

/-- A signed field. -/
def State.rdS (s : State) (r : Row) (ix : List Nat := []) : Int := toSigned r.width (s.rd r ix)

/-- Write a signed field. -/
def State.wrS (s : State) (r : Row) (ix : List Nat) (i : Int) : State := s.wr r ix (ofSigned r.width i)

/-- Set one bit of a field. -/
def State.bit (s : State) (r : Row) (ix : List Nat) (b : Nat) : State := s.wr r ix (setBit (s.rd r ix) b)

/-- Clear one bit of a field. -/
def State.unbit (s : State) (r : Row) (ix : List Nat) (b : Nat) : State := s.wr r ix (clearBit (s.rd r ix) b)

/-- The key under which the value in use of a field's instance is kept: its BAR0 bit address. -/
def Row.key (r : Row) (ix : List Nat) : Nat := r.addr ix * 32 + r.lsb

/-- R40: the value of an L field that the block works with: until the block's next boundary, the value before the
latest write. -/
def State.use (s : State) (r : Row) (ix : List Nat := []) : Nat :=
  match tabFind s.inuse (r.key ix) with
  | some v => v
  | none => s.rd r ix

/-- R40: keep the value in use of a field that a write is about to change. -/
def State.keepUse (s : State) (r : Row) (ix : List Nat) : State :=
  match tabFind s.inuse (r.key ix) with
  | some _ => s
  | none => { s with inuse := tabInsert (r.key ix) (s.rd r ix) s.inuse }

/-- R40: at a natural boundary the L fields of a region (its number is that of its first 64 KiB) work with the values
written. -/
def State.releaseUse (s : State) (region : Nat) : State :=
  { s with inuse := s.inuse.filter (fun e => e.1 / 0x200000 != region) }

/-- The value in use of a signed L field. -/
def State.useS (s : State) (r : Row) (ix : List Nat := []) : Int := toSigned r.width (s.use r ix)

/-- R40: the boundary of one instance of an L field. -/
def State.releaseOne (s : State) (r : Row) (ix : List Nat) : State :=
  { s with inuse := s.inuse.filter (fun e => e.1 != r.key ix) }

/-- Every instance of a row back to its reset value. -/
def State.clearRow (s : State) (r : Row) : State := { s with store := tabErase s.store r.id }

/-- Rows back to their reset values. -/
def State.clearRows (s : State) (rs : List Row) : State :=
  rs.foldl (fun t r => t.clearRow r) s

/-- One instance of a row back to its reset value. -/
def State.clear (s : State) (r : Row) (ix : List Nat) : State := s.wr r ix r.rst

/-! ### Counts -/

/-- R385, R386: an event that a general counter may count. -/
def State.native (s : State) (code inst n : Nat) : State :=
  if n = 0 then s else { s with pmu := { s.pmu with events := (code, inst, n) :: s.pmu.events } }

/-- R386: an increment of a live-bank count, for the general counters that mirror it. -/
def State.mirrored (s : State) (r : Row) (ix : List Nat) (n : Nat) : State :=
  if n = 0 then s else { s with pmu := { s.pmu with mirror := (r.addr ix / 4, n) :: s.pmu.mirror } }

/-- Advance a count that saturates. -/
def State.count (s : State) (r : Row) (ix : List Nat) (n : Nat := 1) : State :=
  (s.wr r ix (satAdd r.width (s.rd r ix) n)).mirrored r ix n

/-- Advance a count that wraps. -/
def State.countWrap (s : State) (r : Row) (ix : List Nat) (n : Nat := 1) : State :=
  (s.wr r ix (s.rd r ix + n)).mirrored r ix n

/-- The value of a pair of _LO and _HI registers. -/
def State.rdWide (s : State) (lo hi : Row) (ix : List Nat := []) : Nat :=
  s.rd hi ix * 2 ^ 32 + s.rd lo ix

/-- Write a pair of _LO and _HI registers. -/
def State.wrWide (s : State) (lo hi : Row) (ix : List Nat) (v : Nat) : State :=
  (s.wr lo ix (v % 2 ^ 32)).wr hi ix (v / 2 ^ 32)

/-- Advance a wide count, which wraps. -/
def State.countWide (s : State) (lo hi : Row) (ix : List Nat) (n : Nat := 1) : State :=
  let v := s.rdWide lo hi ix
  ((s.wrWide lo hi ix (v + n)).mirrored lo ix n).mirrored hi ix ((v + n) / 2 ^ 32 - v / 2 ^ 32)

/-! ### What leaves the module, and free values -/

/-- Put something on the module's interfaces. -/
def State.say (s : State) (o : Out) : State := { s with out := s.out ++ [o] }

/-- The next free value below `n` (assumption 4). -/
def State.fresh (s : State) (n : Nat) : Nat × State :=
  (Config.freeValue s.free % n, { s with free := s.free + 1 })

/-- Fill a field with a free value. -/
def State.wrFree (s : State) (r : Row) (ix : List Nat) : State :=
  let f := s.fresh (2 ^ r.width)
  f.2.wr r ix f.1

/-- What a command's meaning answers. -/
abbrev Result := Host.Outcome State Fault Refusal

/-- Every command starts with an empty record of what leaves the module (assumption 2). -/
def State.begin (s : State) : State := { s with out := [] }

/-! ### Module time -/

/-- R345: module time, in ns. -/
def State.mt (s : State) : Nat := s.rdWide .REF_MT_LO_MT .REF_MT_HI_MT

/-! ### Small loops -/

/-- Do something only when a condition holds. -/
def State.when (s : State) (c : Bool) (f : State → State) : State := if c then f s else s

/-- The quotient rounded up. -/
def ceilDiv (a b : Nat) : Nat := (a + b - 1) / b

/-- Carry a state through the numbers below `n`. -/
def State.upTo (s : State) (n : Nat) (f : State → Nat → State) : State := (List.range n).foldl f s

end Sys2Proof.Machine
end

