-- ==== Sys2Proof/Machine/Flags.lean ====
section
/-!
DEFINITION. Doorbells, event bits, attic records, the fault pin, and what runs: the status computations that every
family shares.
-/

namespace Sys2Proof.Machine

/-! ### Where things stand -/

/-- R433: the start has reached RUNNING. -/
def State.isRunning (s : State) : Bool := s.rd .GLB_BOOT_STAT_STAGE == 5

/-- R357: the effective state of a wing: 0 Run, 1 Idle, 2 Sleep. -/
def State.wingState (s : State) (w : Wing) : Nat :=
  match w with
  | .a => s.rd .PWR_STATE_STAT_WING_A
  | .b => s.rd .PWR_STATE_STAT_WING_B

/-- R38: the block of a number is stopped. -/
def State.blockStopped (s : State) (n : Nat) : Bool := s.flag .GLB_BLK_CTL_STOPPED [n]

/-- R29: the wing's section of the running image, if the wing exists. -/
def State.wingSec (s : State) (w : Wing) : Option WingSec :=
  match s.image.running with
  | some i => match w with
    | .a => i.wingA
    | .b => i.wingB
  | none => none

/-- R29: the wing exists and is enabled. -/
def State.wingEnabled (s : State) (w : Wing) : Bool :=
  match s.wingSec w with
  | some x => x.enable
  | none => false

/-- R379: the island has been declared failed. -/
def State.islandFailed (s : State) (i : Nat) : Bool := (s.rd .RAS_STAT_FAILED_MAP).testBit i

/-- R16, R38: the islands that carry a block's traffic; those of the Client block are taken port by port. -/
def blockIslands : Nat → List Nat
  | 0 => [7, 9, 11, 13, 15]
  | 1 => [8, 10, 12, 14, 16]
  | 3 => [18, 19, 20]
  | 4 => [17]
  | 5 => [23]
  | 6 => [24]
  | 7 => [4]
  | _ => []

/-- R424, R358: the register fabric takes accesses: from step 4 of a start on, in Run, Idle and Sleep. -/
def State.responds (s : State) : Bool :=
  decide (s.power.state ≤ 2) && (s.boot.step == 0 || decide (4 ≤ s.boot.step))

/-- R19: the island through which a requester's accesses come to the register fabric. -/
def reqIsland : Req → Nat
  | .pf0 => 5
  | .pf1 => 5
  | .corridor => 23
  | .monitor => 3

/-- R19, R379: an access of a requester reaches the registers: the fabric takes accesses, and neither the fabric's own
island nor the one that the access comes through is failed. -/
def State.takesFrom (s : State) (req : Req) : Bool :=
  s.responds && !s.islandFailed 4 && !s.islandFailed (reqIsland req)

/-- R19, R379: an access of a requester acts, if it reaches the registers. -/
def State.via (s : State) (req : Req) (f : State → State) : State := if s.takesFrom req then f s else s

/-- R19, R22: the security controller carries out its functions. -/
def State.secRuns (s : State) : Bool := !s.islandFailed 2

/-- R19, R22: a command to the security controller. -/
def State.viaSec (s : State) (req : Req) (f : State → State) : State :=
  s.via req (fun s => if s.secRuns then f s else s)

/-- R22, R378: the control core runs: it is neither restarting nor failed. While it does not run, what it carries out
does not happen; a command that would report it changes nothing. -/
def State.coreRuns (s : State) : Bool := !s.ras.coreDown && !s.islandFailed 3

/-- R19, R379: an island of the block is failed: the traffic through it stops. -/
def State.blockFailed (s : State) (n : Nat) : Bool := (blockIslands n).any s.islandFailed

/-- R38, R379: the block passes no traffic. -/
def State.halted (s : State) (n : Nat) : Bool := s.blockStopped n || s.blockFailed n

/-- R16, R379: the island of a client port's lanes is failed. -/
def State.portFailed (s : State) (p : Nat) : Bool :=
  s.islandFailed (if s.rd .CLI_PORT_CFG_LANE0 [p] < 16 then 21 else 22)

/-- R38, R357: the wing is in Run and not stopped. -/
def State.wingOn (s : State) (w : Wing) : Bool :=
  s.isRunning && s.wingEnabled w && s.wingState w == 0 && !s.blockStopped w.n

/-- R38, R357, R379: the wing passes traffic: it is in Run and not stopped, and none of its islands is failed. -/
def State.wingRuns (s : State) (w : Wing) : Bool := s.wingOn w && !s.blockFailed w.n

/-- R42, R357: the wing counts as stopped for a frozen field: its block is stopped, or the wing is in Idle or Sleep. -/
def State.wingStopped (s : State) (w : Wing) : Bool :=
  s.blockStopped w.n || s.wingState w != 0

/-- R16: the island of a wing, from the number of wing A's. -/
def wingIsland (base : Nat) (w : Wing) : Nat := base + w.n

/-! ### Doorbells (R404 to R406) -/

/-- R404: the MSI-X vector of an event register, by its region and instance. -/
def evtVector (r : Row) (ix : List Nat) : Nat :=
  let w := ix.headD 0
  match r.base / 0x10000 with
  | 0x30 => 0
  | 0x01 => 1
  | 0x02 => 2
  | 0x04 => 3
  | 0x05 => 4
  | 0x07 => 6
  | 0x0A => 7
  | 0x08 => 8
  | 0x0C => 9
  | 0x0D => if r.base = 0xD9000 then 10 else 11
  | 0x0E => 12
  | 0x11 => 32 + 8 * w
  | 0x16 => 33 + 8 * w
  | 0x12 => 34 + 8 * w
  | 0x13 => 35 + 8 * w
  | 0x15 => 36 + 8 * w
  | 0x0F => 37 + 8 * w
  | 0x14 => 38 + 8 * w
  | _ => 13

/-- R19, R405: a message may be sent on a vector. -/
def State.msixOpen (s : State) (v : Nat) : Bool :=
  s.host.msixEnable && !s.host.functionMask && s.host.unmasked.testBit v && !s.islandFailed 5

/-- R405: send a vector's message, and hold further requests for its GAP. -/
def State.sendMsix (s : State) (v : Nat) : State :=
  let h := s.host
  let h := { h with pba := clearBit h.pba v }
  let h := if s.rd .HST_VEC_MOD_GAP [v] = 0 then h else { h with gapRun := setBit h.gapRun v }
  { s with host := h, out := s.out ++ [.msix v] }

/-- R405: what a request of a vector does as a message. Before step 3 of a start it is lost. -/
def State.requestMsix (s : State) (v : Nat) : State :=
  if s.boot.step < 3 then s
  else if !s.msixOpen v then { s with host := { s.host with pba := setBit s.host.pba v } }
  else if s.host.gapRun.testBit v then { s with host := { s.host with gapReq := setBit s.host.gapReq v } }
  else s.sendMsix v

/-- R24, R407: engine 7's transfers become others, and its BUSY follows. -/
def State.setEngine7 (s : State) (q : List Transfer) : State :=
  ({ s with host := { s.host with engine7 := q } }).wrb .HST_DMA_STAT_BUSY [7] (!q.isEmpty)

/-- R24: a transfer is requested of engine 7, or waits in HST behind the one that runs. -/
def State.askDma (s : State) (k : Transfer) : State := s.setEngine7 (s.host.engine7 ++ [k])

/-- R24: a transfer completes, or its command ends. -/
def State.endDma (s : State) (k : Transfer) : State := s.setEngine7 (s.host.engine7.erase k)

/-- R19, R24: engine 7 carries out a transfer: it is the first one, and HST is not failed. -/
def State.dmaServes (s : State) (k : Transfer) : Bool := s.host.engine7.head? == some k && !s.islandFailed 5

/-- R406: a request of a vector chosen in INTN_SEL also sets its bit of INTN_PEND. -/
def State.requestIntn (s : State) (v : Nat) : State :=
  if v < 32 then
    if (s.rd .HST_INTN_SEL_LO_VEC).testBit v then s.bit .HST_INTN_PEND_LO_VEC [] v else s
  else
    if (s.rd .HST_INTN_SEL_HI_VEC).testBit (v - 32) then s.bit .HST_INTN_PEND_HI_VEC [] (v - 32) else s

/-! ### Routes in the corridor (R414) -/

/-- A worker's place on the ring, from 1 on; 0 when it is not on it. -/
def Corridor.place (c : Corridor) (a : Nat) : Nat :=
  match c.ring.findIdx? (· == a) with
  | some i => i + 1
  | none => 0

/-- The place on the ring of the ring's worker that a worker hangs on, or is; 0 when there is none. -/
def Corridor.ringPlace (c : Corridor) : Nat → Nat → Nat
  | 0, _ => 0
  | fuel + 1, a =>
    if 0 < c.place a then c.place a
    else match tabFind c.nodes a with
      | some n => if n.parent = 0 then 0 else c.ringPlace fuel n.parent
      | none => 0

/-- R413: the manager's port whose recorded range holds an address: the one that leads to it in the tree. -/
def Corridor.treePort (c : Corridor) : Nat → Nat → Nat
  | 0, _ => 0
  | fuel + 1, a =>
    match tabFind c.nodes a with
    | some n => if n.parent = 0 then n.parentPort else c.treePort fuel n.parent
    | none => 0

/-- R414: the manager's port for an address: beyond a break of the ring, the other ring port. -/
def Corridor.managerPort (c : Corridor) (a : Nat) : Nat :=
  let fuel := c.nodes.length + 1
  match c.cut with
  | some k => if k < c.ringPlace fuel a then c.ringPorts.getD 1 0 else c.treePort fuel a
  | none => c.treePort fuel a

/-- R413, R414: a worker's port for an address: the one whose recorded range holds it, otherwise its upstream port. -/
def State.workerPort (s : State) (a : Nat) : Nat :=
  ((List.range 4).find? (fun p => match s.cor.serves.getD p none with
    | some (lo, hi) => decide (lo ≤ a) && decide (a ≤ hi)
    | none => false)).getD (s.rd .COR_STAT_UP_PORT)

/-- R329: a pattern generator replaces the traffic of one of a corridor port's lanes. -/
def State.corPatterned (s : State) (p : Nat) : Bool :=
  (List.range 4).any (fun k => s.rd .COR_PRBS_CTL_TX_PAT [4 * p + k] != 0)

/-- R414: the port by which a cell leaves for an address. -/
def State.routePort (s : State) (dest : Nat) : Nat :=
  if s.flag .COR_CTL_MANAGER then s.cor.managerPort dest else s.workerPort dest

/-- R329, R414: a cell leaves by a port, unless a test pattern stands in place of the port's traffic. -/
def State.sayCell (s : State) (p dest : Nat) (c : CellBody) : State :=
  s.when (!s.corPatterned p) (·.say (.cell p dest c))

/-- R414: a cell leaves for an address. -/
def State.sendCell (s : State) (dest : Nat) (c : CellBody) : State := s.sayCell (s.routePort dest) dest c

/-- R416: a worker forwards a request of a vector chosen in COR.FWD_EN to the manager. -/
def State.forwardDoorbell (s : State) (v : Nat) : State :=
  let chosen := if v < 32 then (s.rd .COR_FWD_EN_LO_VEC).testBit v else (s.rd .COR_FWD_EN_HI_VEC).testBit (v - 32)
  if chosen && !s.flag .COR_CTL_MANAGER && s.flag .COR_STAT_UP_VALID && !s.halted 5 then
    s.sendCell 0 (.doorbell (s.rd .COR_STAT_ADDR) v)
  else s

/-- R405: a vector is requested. -/
def State.ring (s : State) (v : Nat) : State :=
  (((s.native 0x0D v 1).requestIntn v).forwardDoorbell v).requestMsix v

/-- R405: an event bit rises; a bit that is already 1 requests nothing more. -/
def State.evt (s : State) (r : Row) (ix : List Nat := []) (b : Nat := 0) : State :=
  if (s.rd r ix).testBit b then s else (s.bit r ix b).ring (evtVector r ix)

/-- R406: INT_N is driven low while any bit of INTN_PEND is 1. -/
def State.intN (s : State) : Bool := s.flag .HST_INTN_PEND_LO_VEC || s.flag .HST_INTN_PEND_HI_VEC

/-! ### The attic's queue (R391) -/

/-- R391: a record leaves an island for the attic; it is lost when the queue of 16 is full, and when the module's
attic is without power. -/
def State.emit (s : State) (island subunit code : Nat) (arg0 : Nat := 0) (arg1 : Nat := 0) : State :=
  if s.attic.queue.length < 16 then
    { s with attic := { s.attic with queue := s.attic.queue ++ [⟨island * 2048 + subunit, code, arg0, arg1⟩] } }
  else (s.count .ATT_LOST_COUNT []).evt .ATT_EVT_LOST

/-- R391: CODE of an event bit: the emitting region's index and the bit's number. -/
def evtCode (r : Row) (ix : List Nat) (b : Nat) : Nat := r.addr ix / 0x10000 * 256 + (r.lsb + b)

/-- R391: CODE of an event that carries a reason: the region's index and 0x80 plus the reason code. -/
def reasonCode (region reason : Nat) : Nat := region * 256 + 0x80 + reason

/-- An event bit that also writes an attic record. -/
def State.evtLog (s : State) (r : Row) (ix : List Nat) (island subunit : Nat) (arg0 : Nat := 0) (arg1 : Nat := 0) :
    State :=
  (s.evt r ix).emit island subunit (evtCode r ix 0) arg0 arg1

/-! ### The fault and alert pins (R379, R420) -/

/-- R420: SMB_ALERT_N is asserted. -/
def State.alert (s : State) : State := { s with pins := { s.pins with smbAlert := true } }

/-- R379: assert FAULT_N; an assertion alerts the board's manager. -/
def State.assertFault (s : State) : State :=
  if s.pins.faultN then s else { s with pins := { s.pins with faultN := true, smbAlert := true } }

/-- R379: FAULT_N is released when no island is failed and no DPLL fault holds. -/
def State.releaseFault (s : State) : State :=
  if s.rd .RAS_STAT_FAILED_MAP = 0 && !s.ras.dpllFault then
    { s with pins := { s.pins with faultN := false } }
  else s

/-- R378: RAS.FAULT holds the first fault since VALID was last cleared. -/
def State.recordFault (s : State) (kind island peer : Nat) : State :=
  if s.flag .RAS_FAULT_VALID then s
  else (((s.wrb .RAS_FAULT_VALID [] true).wr .RAS_FAULT_KIND [] kind).wr .RAS_FAULT_ISLAND [] island).wr
    .RAS_FAULT_PEER [] peer

/-- R19, R378, R379: an island is declared failed, `peer` being the island at the other end of a doorway. -/
def State.declareFailed (s : State) (kind i peer : Nat) : State :=
  if s.islandFailed i then s
  else
    let s := (s.recordFault kind i peer).wr .RAS_STAT_FAILED_MAP [] (setBit (s.rd .RAS_STAT_FAILED_MAP) i)
    (((s.wrb .RAS_STAT_FAILED [] true).emit i 0 (evtCode .RAS_EVT_FAULT [] 0) i peer).evt .RAS_EVT_FAULT).assertFault

end Sys2Proof.Machine
end

