-- ==== Sys2Proof/Machine/Capacity.lean ====
section
/-!
DEFINITION. Line capacity and slots: the slot count of R60, the slot maps of R55 to R57, the allocation of R191 and the
placement of R65.
-/

namespace Sys2Proof.Machine

/-! ### Capacity (R58, R60) -/

/-- R60: the code rate K in thousandths: 0.870 for Ubmus-15, 0.813 for Ubmus-23. -/
def codeRate (fec : Nat) : Nat := if fec = 0 then 870 else 813

/-- R60: the slot count M of a carrier, with the symbol rate in 0.25 GBd units and the entropy as its index n. -/
def slotsOf (baud n fec : Nat) : Nat :=
  min 640 (baud * (32 + n) * codeRate fec * 975 / 160000000)

/-- R58: the constellation base: 0 = 4-QAM, 1 = 16-QAM, 2 = 64-QAM. -/
def baseOf (n : Nat) : Nat := if n = 0 then 0 else if n ≤ 32 then 1 else 2

/-- R115: SNR_REQ in 0.01 dB; the values that the spec works with, and otherwise the ROM table that it does not list
(assumption 5). -/
def snrReq (n fec : Nat) : Int :=
  match n, fec with
  | 57, 0 => 1790
  | 40, 0 => 1470
  | 41, 0 => 1525
  | _, _ => Config.snrReq n fec

/-! ### Slot maps (R55, R67) -/

/-- R55: the entry of an unassigned slot. -/
def unassigned : Nat := 63

/-- R55: the map entries that the format admits. -/
def entryOk (e : Nat) : Bool := e < 32 || e == 63

/-- The entry of a slot in the registers SLOT_MAP, given the four rows of a region. -/
def State.slotEntry (s : State) (e0 e1 e2 e3 : Row) (w : Wing) (slot : Nat) : Nat :=
  let k := slot / 4
  match slot % 4 with
  | 0 => s.rd e0 [w.n, k]
  | 1 => s.rd e1 [w.n, k]
  | 2 => s.rd e2 [w.n, k]
  | _ => s.rd e3 [w.n, k]

/-- The transmitted map, slot by slot. -/
def State.txMap (s : State) (w : Wing) : List Nat :=
  (List.range 640).map
    (s.slotEntry .TXW_SLOT_MAP_E0 .TXW_SLOT_MAP_E1 .TXW_SLOT_MAP_E2 .TXW_SLOT_MAP_E3 w)

/-- Write a whole map into the registers SLOT_MAP. -/
def State.writeMap (s : State) (e0 e1 e2 e3 : Row) (w : Wing) (m : List Nat) : State :=
  s.upTo 160 (fun t k =>
    (((t.wr e0 [w.n, k] (m.getD (4 * k) 63)).wr e1 [w.n, k] (m.getD (4 * k + 1) 63)).wr
      e2 [w.n, k] (m.getD (4 * k + 2) 63)).wr e3 [w.n, k] (m.getD (4 * k + 3) 63))

/-- R67: the active transmitted map changes. -/
def State.setTxMap (s : State) (w : Wing) (m : List Nat) : State :=
  s.writeMap .TXW_SLOT_MAP_E0 .TXW_SLOT_MAP_E1 .TXW_SLOT_MAP_E2 .TXW_SLOT_MAP_E3 w m

/-- R67: the active received map changes. -/
def State.setRxMap (s : State) (w : Wing) (m : List Nat) : State :=
  s.writeMap .RXW_SLOT_MAP_E0 .RXW_SLOT_MAP_E1 .RXW_SLOT_MAP_E2 .RXW_SLOT_MAP_E3 w m

/-- R63: how many slots a map gives a channel. -/
def slotCount (m : List Nat) (c : Nat) : Nat := m.count c

/-- How many slots of a map are assigned. -/
def assignedCount (m : List Nat) : Nat := m.countP (· != 63)

/-- R56: a complete map is consistent with the rate fields and the ceilings. -/
def mapConsistent (m : List Nat) (baud n fec slots : Nat) (ceiling : Nat → Nat) : Bool :=
  let cap := slotsOf baud n fec
  assignedCount m == slots && decide (slots ≤ cap) && (m.drop cap).all (· == 63) &&
    (List.range 32).all (fun c => decide (slotCount m c ≤ ceiling c))

/-! ### Placement (R65) -/

/-- R65: what one channel keeps: its lowest slots below the new M, at most its new count. -/
def keepChannel (old : List Nat) (cap : Nat) (new : List Nat) (c count : Nat) : List Nat :=
  let held := (List.range cap).filter (fun i => old.getD i 63 == c)
  (held.take count).foldl (fun m i => m.set i c) new

/-- R65: a channel takes the lowest unassigned slots below the new M until it holds its new count. -/
def growChannel (cap : Nat) (new : List Nat) (c count : Nat) : List Nat :=
  let need := count - slotCount new c
  let free := (List.range cap).filter (fun i => new.getD i 63 == 63)
  (free.take need).foldl (fun m i => m.set i c) new

/-- R65: the new map, from the old map, the new M and the new per-channel counts. -/
def placeMap (old : List Nat) (cap : Nat) (counts : List Nat) : List Nat :=
  let kept := (List.range 32).foldl (fun m c => keepChannel old cap m c (counts.getD c 0)) (List.replicate 640 63)
  (List.range 32).foldl (fun m c => growChannel cap m c (counts.getD c 0)) kept

/-! ### Allocation (R190, R191) -/

/-- R191: what the allocation knows of a channel. -/
structure ChanShare where
  enabled : Bool
  ceiling : Nat
  minimum : Nat
  rank : Nat
deriving DecidableEq, Repr

/-- R191: the minimums in rank order, as far as M goes. -/
def cutMinimums (cs : List ChanShare) (cap : Nat) : List Nat :=
  (List.range 16).reverse.foldl
    (fun n r => (List.range 32).foldl
      (fun n c => match cs[c]? with
        | some x => if x.enabled && x.rank == r then n.set c (min x.minimum (cap - n.sum)) else n
        | none => n) n)
    (List.replicate 32 0)

/-- R191: one turn over the channels of a rank: one slot to each that is below its ceiling, while slots are free. -/
def turn (cs : List ChanShare) (r : Nat) (st : List Nat × Nat) : List Nat × Nat :=
  (List.range 32).foldl
    (fun st c => match cs[c]? with
      | some x =>
        if x.enabled && x.rank == r && decide (st.1.getD c 0 < x.ceiling) && st.2 != 0 then
          (st.1.set c (st.1.getD c 0 + 1), st.2 - 1)
        else st
      | none => st) st

/-- R191: turns of a rank, until nothing changes or the fuel (the free slots) is used. -/
def turns (cs : List ChanShare) (r : Nat) : Nat → List Nat × Nat → List Nat × Nat
  | 0, st => st
  | k + 1, st => let st' := turn cs r st; if st'.2 = st.2 then st else turns cs r k st'

/-- R191: the per-channel counts at M, and whether minimums were cut. -/
def allocSlots (cs : List ChanShare) (cap : Nat) : List Nat × Bool :=
  let minSum := (cs.map (fun x => if x.enabled then x.minimum else 0)).sum
  let start := if minSum ≤ cap then
      (List.range 32).map (fun c => match cs[c]? with
        | some x => if x.enabled then x.minimum else 0
        | none => 0)
    else cutMinimums cs cap
  let done := (List.range 16).reverse.foldl (fun st r => turns cs r 640 st) (start, cap - start.sum)
  (done.1, decide (cap < minSum))

/-- The wing's channels as the allocation sees them, under a set of ENABLE bits. -/
def State.shares (s : State) (w : Wing) (enabled : Nat) : List ChanShare :=
  (List.range 32).map (fun c =>
    { enabled := enabled.testBit c
      ceiling := s.rd .ELC_CHAN_CFG_CEILING [w.n, c]
      minimum := s.rd .ELC_CHAN_CFG_MINIMUM [w.n, c]
      rank := s.rd .ELC_CHAN_CFG_RANK [w.n, c] })

/-- R69: the ENABLE bits as written. -/
def State.enableBits (s : State) (w : Wing) : Nat :=
  (List.range 32).foldl (fun m c => if s.flag .ELC_CHAN_CFG_ENABLE [w.n, c] then setBit m c else m) 0

/-- R69: the number of channels of the WING section. -/
def State.chanCount (s : State) (w : Wing) : Nat :=
  match s.wingSec w with
  | some x => x.chans.length
  | none => 0

/-! ### The transmitted profile -/

/-- R187: the floor pair of a wing. -/
def State.floorPair (s : State) (w : Wing) : Nat × Nat :=
  (s.rd .ELC_FLOOR_H_IDX [w.n], s.rd .ELC_FLOOR_FEC [w.n])

/-- R187: M_floor at the present symbol rate. -/
def State.floorSlots (s : State) (w : Wing) : Nat :=
  let p := s.floorPair w
  slotsOf (s.rd .TXW_RATE_BAUD [w.n]) p.1 p.2

/-- R180, R192: a pair clipped to MAX_IDX, and never below the floor profile. -/
def State.clipPair (s : State) (w : Wing) (h fec : Nat) : Nat × Nat :=
  let n := min h (s.rd .ELC_POLICY2_MAX_IDX [w.n])
  if slotsOf (s.rd .TXW_RATE_BAUD [w.n]) n fec < s.floorSlots w then s.floorPair w else (n, fec)

/-- R66: the transmitted parameters change. -/
def State.setLineCur (s : State) (w : Wing) (h fec slots : Nat) : State :=
  ((((s.wr .TXW_LINE_CUR_BAUD [w.n] (s.rd .TXW_RATE_BAUD [w.n])).wr .TXW_LINE_CUR_H_IDX [w.n] h).wr
    .TXW_LINE_CUR_FEC [w.n] fec).wr .TXW_LINE_CUR_BASE [w.n] (baseOf h)).wr .TXW_LINE_CUR_SLOTS [w.n] slots

/-- R66: the received parameters change. -/
def State.setRxLineCur (s : State) (w : Wing) (baud h fec slots : Nat) : State :=
  ((((s.wr .RXW_LINE_CUR_BAUD [w.n] baud).wr .RXW_LINE_CUR_H_IDX [w.n] h).wr
    .RXW_LINE_CUR_FEC [w.n] fec).wr .RXW_LINE_CUR_BASE [w.n] (baseOf h)).wr .RXW_LINE_CUR_SLOTS [w.n] slots

/-- R69: CHAN_STAT shows the present counts and the announced ones. -/
def State.showCounts (s : State) (w : Wing) (cur next : List Nat) : State :=
  s.upTo 32 (fun t c =>
    let k := cur.getD c 0
    (((t.wr .ELC_CHAN_STAT_SLOTS_CUR [w.n, c] k).wr .ELC_CHAN_STAT_SLOTS_NEXT [w.n, c] (next.getD c 0)).wrb
      .ELC_CHAN_STAT_AT_MIN [w.n, c] (k == t.rd .ELC_CHAN_CFG_MINIMUM [w.n, c])).wrb
      .ELC_CHAN_STAT_AT_CEIL [w.n, c] (k == t.rd .ELC_CHAN_CFG_CEILING [w.n, c]))

/-- The per-channel counts in force. -/
def State.curCounts (s : State) (w : Wing) : List Nat :=
  (List.range 32).map (fun c => s.rd .ELC_CHAN_STAT_SLOTS_CUR [w.n, c])

end Sys2Proof.Machine
end

