-- ==== Sys2Proof/Machine/Conditions.lean ====
section
/-!
DEFINITION. Conditions that several families read: what a port is mapped to, whether its link is up, the consequent
actions of the overhead layer, the transmitted status, and the condition of a protection member.
-/

namespace Sys2Proof.Machine

/-! ### Shared accessors -/

/-- Change a wing's rate control. -/
def State.onTx (s : State) (w : Wing) (f : TxRate → TxRate) : State := { s with tx := s.tx.set w (f (s.tx.get w)) }

/-- Change the overhead processor of a wing. -/
def State.onOtn (s : State) (w : Wing) (f : Otn → Otn) : State := { s with otn := s.otn.set w (f (s.otn.get w)) }

/-- The receive side of a channel's PM layer. -/
def State.pm (s : State) (w : Wing) (c : Nat) : PmRx := tabGet PmRx.reset (s.otn.get w).pm c

/-- Change it. -/
def State.onPm (s : State) (w : Wing) (c : Nat) (f : PmRx → PmRx) : State :=
  s.onOtn w (fun o => { o with pm := tabSet PmRx.reset o.pm c (f (s.pm w c)) })

/-! ### Channels and ports (R263, R280, R296) -/

/-- R263: the wing of a channel index. -/
def chanWing (ch : Nat) : Wing := if ch < 32 then .a else .b

/-- R263: the channel number within its wing. -/
def chanNum (ch : Nat) : Nat := ch % 32

/-- R263: the channel index. -/
def chanIndex (w : Wing) (c : Nat) : Nat := 32 * w.n + c

/-- R280: the CLIENT section of the running image defines the port. -/
def State.portDefined (s : State) (p : Nat) : Bool :=
  match s.image.running with
  | some i => i.ports.any (fun x => x.num == p)
  | none => false

/-- R242: the channel index of a group's member. -/
def State.memberChan (s : State) (g : Nat) (w : Wing) : Nat :=
  match w with
  | .a => s.rd .HAL_PG_MEMBERS_CH_A [g]
  | .b => 32 + s.rd .HAL_PG_MEMBERS_CH_B [g]

/-- R247: the member that the selector selects. -/
def State.selected (s : State) (g : Nat) : Wing := if s.flag .HAL_PG_STAT_SEL_B [g] then .b else .a

/-- R242: the group that a channel index is a member of. -/
def State.groupOf (s : State) (ch : Nat) : Option Nat :=
  (List.range 8).find? (fun g => s.flag .HAL_PG_MEMBERS_VALID [g] && s.memberChan g (chanWing ch) == ch)

/-- R296: the channels that a port's egress frames go to. -/
def State.portChans (s : State) (p : Nat) : List Nat :=
  if !s.flag .HAL_MAP_VALID [p] then []
  else if s.flag .HAL_MAP_PROT [p] then
    let g := s.rd .HAL_MAP_GROUP [p]
    [s.memberChan g .a, s.memberChan g .b]
  else [s.rd .HAL_MAP_CHAN [p]]

/-- R290, R296: the channel whose queues a port's PFC watches and whose status the port follows. -/
def State.portChan (s : State) (p : Nat) : Option Nat :=
  if !s.flag .HAL_MAP_VALID [p] then none
  else if s.flag .HAL_MAP_PROT [p] then
    let g := s.rd .HAL_MAP_GROUP [p]
    some (s.memberChan g (s.selected g))
  else some (s.rd .HAL_MAP_CHAN [p])

/-- R296: the client port that a channel serves. -/
def State.chanPort (s : State) (ch : Nat) : Option Nat :=
  (List.range 32).find? (fun p => (s.portChans p).contains ch)

/-- R69: the channel's ENABLE bit is in force. -/
def State.chanEnabled (s : State) (ch : Nat) : Bool := (s.tx.get (chanWing ch)).enabled.testBit (chanNum ch)

/-- R29: the channel's cipher is enabled. -/
def State.chanCipher (s : State) (ch : Nat) : Bool := s.flag .ELC_CHAN_CFG_CIPHER_EN [(chanWing ch).n, chanNum ch]

/-- R4: the module is a DK6432M-C0. -/
def State.isC0 (s : State) : Bool := s.rd .GLB_ID_VARIANT == 2

/-- R280: the lanes of a port. -/
def State.portLanes (s : State) (p : Nat) : List Nat :=
  let n := 2 ^ s.rd .CLI_PORT_CFG_WIDTH [p]
  (List.range n).map (s.rd .CLI_PORT_CFG_LANE0 [p] + ·)

/-- R321, R327: a client lane is up: bring-up complete and the receive half ON. -/
def State.laneUp (s : State) (l : Nat) : Bool :=
  s.rd .SDS_LANE_STAT_STAGE [l] == 7 && s.rd .SDS_LANE_STAT_RX_HALF [l] == 0

/-- R282: the port's link is up. -/
def State.linkUp (s : State) (p : Nat) : Bool :=
  s.portDefined p && (s.portLanes p).all s.laneUp && s.pan.aligned.testBit p &&
    !s.flag .CLI_PORT_STAT_LF_RX [p] && !s.flag .CLI_PORT_STAT_RF_RX [p]

/-! ### Reference candidates (R333 to R336) -/

/-- R335: the rank of a QL, 1 the best; 9 for DNU, DUS and every code outside the option's list. -/
def qlRank (two : Bool) (ql : Nat) : Nat :=
  if two then
    match ql with
    | 1 => 1
    | 0 => 2
    | 7 => 3
    | 4 => 4
    | 13 => 5
    | 10 => 6
    | 12 => 7
    | 14 => 8
    | _ => 9
  else
    match ql with
    | 2 => 1
    | 4 => 2
    | 8 => 3
    | 11 => 4
    | _ => 9

/-- R335: the rank of a QL under the option in use. -/
def State.rankQl (s : State) (ql : Nat) : Nat := qlRank (s.flag .REF_CFG_QL_OPT) ql

/-- R333: the candidate takes a client port's clock. -/
def State.candClient (s : State) (i : Nat) : Bool := decide (4 ≤ i ∧ i ≤ 6) || (i == 7 && s.flag .COR_CTL_MANAGER)

/-- R333: the client port of a candidate. -/
def State.candPort (s : State) (i : Nat) : Nat := s.rd .REF_CAND_PORT [i]

/-- R413: the upstream corridor link is up. -/
def State.upstream (s : State) : Bool :=
  s.flag .COR_STAT_UP_VALID && s.flag .COR_PORT_STAT_UP [s.rd .COR_STAT_UP_PORT]

/-- R333: the condition that a candidate needs besides its frequency. -/
def State.candCond (s : State) (i : Nat) : Bool :=
  if i < 2 then true
  else if i < 4 then s.flag .RXW_TR_STAT_LOCKED [i - 2] && s.rd .RXW_RX_STAT_STATE [i - 2] == 11
  else if s.candClient i then s.flag .CLI_PORT_STAT_LINK [s.candPort i]
  else s.upstream

/-- R333: where a candidate's QL comes from. -/
def State.candQl (s : State) (i : Nat) : Nat :=
  if i < 2 then s.rd .REF_CAND_QL_HOST [i]
  else if i < 4 then s.rd .RXW_HDR_STAT_QL_RX [i - 2]
  else if s.candClient i then tabGet 15 s.dpll.esmc (s.candPort i)
  else tabGet 15 s.cor.beatQl (s.rd .COR_STAT_UP_PORT)

/-- R336: a candidate is QL-failed. -/
def State.candFailed (s : State) (i : Nat) : Bool :=
  if i < 2 then false
  else if i < 4 then s.flag .RXW_HDR_STAT_HDR_LOSS_TX [i - 2]
  else s.candClient i && s.dpll.esmcFailed.testBit (s.candPort i)

/-- The conditions under which a candidate is eligible. -/
def State.candEligible (s : State) (i : Nat) : Bool :=
  let r := s.rankQl (s.candQl i)
  s.flag .REF_CAND_STAT_QUALIFIED [i] && s.rd .REF_CAND_PRIO [i] != 0 && !s.candFailed i && r != 9 &&
    decide (r ≤ s.rankQl (s.rd .REF_CFG_QL_MIN)) && !s.flag .REF_CAND_STAT_WTR_RUN [i]

/-- R348: CAND_STAT of a candidate; a change of eligibility rings. -/
def State.showCand (s : State) (i : Nat) : State :=
  let s := (s.wr .REF_CAND_STAT_QL [i] (s.candQl i)).wrb .REF_CAND_STAT_QL_FAILED [i] (s.candFailed i)
  let e := s.candEligible i
  if e = s.flag .REF_CAND_STAT_ELIGIBLE [i] then s
  else (s.wrb .REF_CAND_STAT_ELIGIBLE [i] e).evt .REF_EVT_CAND_CHANGE

/-- Change the DPLL. -/
def State.onDpll (s : State) (f : Dpll → Dpll) : State := { s with dpll := f s.dpll }

/-- R334, R349: a candidate is no longer qualified; `lost` when it runs wait-to-restore on its return. -/
def State.loseCand (s : State) (i : Nat) (lost : Bool) : State :=
  if !s.flag .REF_CAND_STAT_QUALIFIED [i] then s
  else
    let s := (s.wrb .REF_CAND_STAT_QUALIFIED [i] false).wrb .REF_CAND_STAT_WTR_RUN [i] false
    let s := s.onDpll (fun d => { d with
      lost := if lost then setBit d.lost i else clearBit d.lost i
      wtrEnd := tabErase d.wtrEnd i })
    (s.evt .REF_EVT_CAND_CHANGE).showCand i

/-- R333, R334: the candidates whose condition no longer holds lose their qualification. -/
def State.checkCands (s : State) : State :=
  s.upTo 8 (fun s i => (s.when (!s.candCond i) (·.loseCand i true)).showCand i)

/-- The DPLL follows its active candidate. -/
def State.follows (s : State) : Bool :=
  s.rd .REF_STAT_STATE == 1 || s.rd .REF_STAT_STATE == 2 || s.rd .REF_STAT_STATE == 5

/-- R343: the QL sent towards a receiver: DNU or DUS where that is the source of the active candidate. -/
def State.qlTowards (s : State) (source : Bool) : Nat := if s.follows && source then 15 else s.rd .REF_STAT_TX_QL

/-- R343: the QL in a wing's transmitted header. -/
def State.qlWing (s : State) (w : Wing) : Nat := s.qlTowards (s.rd .REF_STAT_ACTIVE == 2 + w.n)

/-- R343: the QL in a client port's ESMC. -/
def State.qlPort (s : State) (p : Nat) : Nat :=
  let a := s.rd .REF_STAT_ACTIVE
  s.qlTowards (s.candClient a && s.candPort a == p)

/-- R343: the QL in a corridor port's heartbeats. -/
def State.qlCorridor (s : State) (p : Nat) : Nat :=
  s.qlTowards (s.rd .REF_STAT_ACTIVE == 7 && !s.flag .COR_CTL_MANAGER && s.flag .COR_STAT_UP_VALID &&
    s.rd .COR_STAT_UP_PORT == p)

/-- R282: LINK follows the conditions of the link; a client candidate follows its link (R333). -/
def State.refreshLink (s : State) (p : Nat) : State := (s.wrb .CLI_PORT_STAT_LINK [p] (s.linkUp p)).checkCands

/-! ### Rates -/

/-- R302: the net rate of a client port in Gb/s (R280). -/
def State.portRate (s : State) (p : Nat) : Nat :=
  2 ^ s.rd .CLI_PORT_CFG_WIDTH [p] * (match s.rd .CLI_PORT_CFG_RATE [p] with
    | 0 => 200
    | 1 => 100
    | _ => 50)

/-- R302: the slots of the present drain rate of a channel. -/
def State.chanSlots (s : State) (ch : Nat) : Nat := s.rd .SCH_CH_RATE_SLOTS [ch]

/-- R63: the slots that the received map gives a channel of a wing. -/
def State.rxSlots (s : State) (w : Wing) (c : Nat) : Nat := slotCount (s.rx.get w).active c

/-! ### Consequent actions (R228, R229, R232) -/

/-- R232: aSSF of the section. -/
def State.ssfSection (s : State) (w : Wing) : Bool :=
  let i := [w.n]
  !s.flag .OHD_FR_STAT_IF i || !s.flag .OHD_FR_STAT_IM i || s.flag .OHD_SM_DEF_LOF i || s.flag .OHD_SM_DEF_LOM i ||
    s.flag .OHD_SM_DEF_AIS i || (s.flag .OHD_SM_DEF_TIM i && s.flag .OHD_SM_CFG_TIM_ACT i) ||
    !s.flag .FEC_STAT_LOCKED i

/-- One raw PM defect of a channel: 5 AIS, 4 OCI, 3 LCK, 2 TIM, 1 BDI, 0 DEG. -/
def State.pmDef (s : State) (w : Wing) (c d : Nat) : Bool := (s.rd .OHD_PM_DEF_DEF [w.n, c]).testBit d

/-- R232: aSSF of a channel. -/
def State.ssfChan (s : State) (w : Wing) (c : Nat) : Bool :=
  s.ssfSection w || s.pmDef w c 5 || s.pmDef w c 4 || s.pmDef w c 3 ||
    (s.pmDef w c 2 && s.flag .OHD_PM_CFG_TIM_ACT [w.n, c])

/-- R232: aSSD of a channel. -/
def State.ssdChan (s : State) (w : Wing) (c : Nat) : Bool := s.flag .OHD_SM_DEF_DEG [w.n] || s.pmDef w c 0

/-- R228: the PM STAT to send on a channel. -/
def State.pmStat (s : State) (w : Wing) (c : Nat) : Nat :=
  match s.chanPort (chanIndex w c) with
  | none => 6
  | some p =>
    if !s.flag .ELC_CHAN_CFG_ENABLE [w.n, c] then 6
    else if s.flag .OHD_PM_CFG_LCK [w.n, c] then 5
    else if !s.flag .CLI_PORT_STAT_LINK [p] || s.halted 3 then 7
    else 1

/-- R229: SM BDI. -/
def State.smBdi (s : State) (w : Wing) : Bool := s.ssfSection w

/-! ### Protection members (R245) -/

/-- R430, R431: the wing is starting or restarting. -/
def State.restarting (s : State) (w : Wing) : Bool := decide (s.boot.wing.get w ≤ 5)

/-- R242, R245: SF of a group's member; a channel that is not enabled is SF. -/
def State.memberSf (s : State) (g : Nat) (w : Wing) : Bool :=
  let ch := s.memberChan g w
  let c := chanNum ch
  s.ssfChan w c || s.flag .FEC_STAT_SF [w.n] || !s.flag .RXW_HDR_STAT_MAP_VALID [w.n] || s.rxSlots w c == 0 ||
    s.flag .CIP_CH_STAT_RX_BLOCKED [ch] || !s.wingRuns w || s.restarting w || !s.flag .ELC_CHAN_CFG_ENABLE [w.n, c]

/-- R245: SD of a group's member. -/
def State.memberSd (s : State) (g : Nat) (w : Wing) : Bool :=
  s.flag .HAL_PG_CFG_SD_EN [g] &&
    (s.ssdChan w (chanNum (s.memberChan g w)) || s.flag .FEC_STAT_SD [w.n])

/-- R245: the condition of a group's member: 0 OK, 1 SD, 2 SF. -/
def State.memberCond (s : State) (g : Nat) (w : Wing) : Nat :=
  if s.memberSf g w then 2 else if s.memberSd g w then 1 else 0

/-! ### What the receiver delivers -/

/-- R53, R57, R59, R99, R107, R117: a wing's receiver delivers information bits. -/
def State.delivers (s : State) (w : Wing) : Bool :=
  decide (10 ≤ s.rd .RXW_RX_STAT_STATE [w.n] && s.rd .RXW_RX_STAT_STATE [w.n] ≤ 11) && !s.flag .OPT_RX_STAT_LOS [w.n] &&
      s.flag .RXW_HDR_STAT_MAP_VALID [w.n] && !(s.rx.get w).baudStop && !(s.rx.get w).eqStop &&
      decide ((s.rx.get w).pausedTo ≤ s.mt)

end Sys2Proof.Machine
end

