-- ==== Sys2Proof/Machine/Tags.lean ====
section
/-!
DEFINITION. Packet tagging and histograms (R388 to R390).
-/

namespace Sys2Proof.Machine

/-- R388: the frame lies within the scope, direction and class mask of TAG_CFG. -/
def State.tagInScope (s : State) (ingress : Bool) (port chan cls : Nat) : Bool :=
  s.use .PMU_TAG_CFG_EN != 0 && (s.use .PMU_TAG_CFG_DIR).testBit (bitNat ingress) &&
    (s.use .PMU_TAG_CFG_CLASS_MASK).testBit cls &&
    (match s.use .PMU_TAG_CFG_SCOPE with
      | 1 => s.use .PMU_TAG_CFG_TARGET == port
      | 2 => s.use .PMU_TAG_CFG_TARGET == chan
      | _ => true)

/-- R388: the lowest free ID. -/
def freeTag (ts : List Tag) : Option Nat := (List.range 64).find? (fun k => !ts.any (fun t => t.id == k))

/-- Show how many tags are in flight. -/
def State.showTags (s : State) : State :=
  (s.wr .PMU_TAG_STAT_IN_FLIGHT [] s.pmu.tags.length).wr .PMU_TAG_STAT_FILL [] s.pmu.fifo.length

/-- R388, R24: the draw for a frame: the tag it receives, if any, and which starts at a time. The counters of a stopped
PMU hold (R38). -/
def State.drawTag (s : State) (ingress : Bool) (port chan cls len t0 : Nat) : Option Nat × State :=
  if !s.tagInScope ingress port chan cls then (none, s)
  else
    let n := s.pmu.draws
    let t := { s with pmu := { s.pmu with draws := n + 1 } }
    if Config.tagDraw n % 2 ^ s.use .PMU_TAG_CFG_K != 0 then (none, t)
    else match freeTag t.pmu.tags with
      | none => (none, (t.when (!t.halted 7) (·.count .PMU_TAG_SKIP_COUNT [])).native 16 0 1)
      | some k =>
        let g : Tag := ⟨k, ingress, false, port, chan, cls, len, t0, [(if ingress then 6 else 0, 0)]⟩
        (some k, { t with pmu := { t.pmu with tags := t.pmu.tags ++ [g] } }.showTags)

/-- Apply a change to a tag. -/
def State.onTag (s : State) (k : Nat) (f : Tag → Tag) : State :=
  { s with pmu := { s.pmu with tags := s.pmu.tags.map (fun t => if t.id == k then f t else t) } }

/-- The offset of the last point passed. -/
def Tag.lastOff (t : Tag) : Nat := (t.points.getLast?.getD (0, 0)).2

/-- A tag passes a point, at the present module time or just after its last point. -/
def Tag.pass (t : Tag) (mt point : Nat) : Tag :=
  { t with points := t.points ++ [(point, max t.lastOff (mt - t.t0))] }

/-- R388: the tag's frame passed a point at a recorded time. -/
def State.passAt (s : State) (k : Option Nat) (point time : Nat) : State :=
  match k with
  | none => s
  | some k => s.onTag k (fun t => t.pass time point)

/-- The tag's frame passes a point now. -/
def State.passPoint (s : State) (k : Option Nat) (point : Nat) : State :=
  match k with
  | none => s
  | some k => s.onTag k (fun t => t.pass s.mt point)

/-- The tag's frame passes a point that no command marks: the delay after the last point is a free value up to R15's
bound (assumption 4). -/
def State.passWithin (s : State) (k : Option Nat) (point bound : Nat) : State :=
  match k with
  | none => s
  | some k =>
    let f := s.fresh (bound + 1)
    f.2.onTag k (fun t => { t with points := t.points ++ [(point, t.lastOff + f.1)] })

/-- R390: the bin of a difference: 0 to 63, 64 for UNDER, 65 for OVER. -/
def histBin (log2 : Bool) (shift base d : Nat) : Nat :=
  if log2 then
    if d < 2 ^ shift then 0 else min 63 (Nat.log2 (d / 2 ^ shift) + 1)
  else
    if d < 16 * base then 64
    else if (d - 16 * base) / 2 ^ shift < 64 then (d - 16 * base) / 2 ^ shift else 65

/-- R390, R38: one histogram sees a released tag; the counters of a stopped PMU hold. -/
def State.histSee (s : State) (t : Tag) (h : Nat) : State :=
  let from_ := s.use .PMU_HIST_CFG_FROM [h]
  let to_ := s.use .PMU_HIST_CFG_TO [h]
  if s.use .PMU_HIST_CFG_EN [h] = 0 || t.stepped || from_ ≥ to_ || s.halted 7 then s
  else match tabFind t.points from_, tabFind t.points to_ with
    | some a, some b =>
      let n := histBin (s.use .PMU_HIST_CFG_LOG2 [h] != 0) (min 24 (s.use .PMU_HIST_CFG_SHIFT [h]))
        (s.use .PMU_HIST_CFG_BASE [h]) (b - a)
      if n = 64 then s.count .PMU_HIST_UNDER_COUNT [h]
      else if n = 65 then s.count .PMU_HIST_OVER_COUNT [h]
      else s.count .PMU_HIST_BIN_COUNT [h, n]
    | _, _ => s

/-- R389, R38: a record enters the FIFO of 256, or is lost. -/
def State.pushTag (s : State) (t : Tag) (dropped : Bool) : State :=
  if s.pmu.fifo.length < 256 then { s with pmu := { s.pmu with fifo := s.pmu.fifo ++ [(t, dropped)] } }
  else s.when (!s.halted 7) (·.count .PMU_TAG_LOST_COUNT [])

/-- R389: TAG_READY rises when the fill reaches NOTIFY. -/
def State.notifyTags (s : State) : State :=
  if s.pmu.fifo.length = s.use .PMU_TAG_CFG_NOTIFY then s.evt .PMU_EVT_TAG_READY else s

/-- The tag leaves its frame. -/
def State.dropTag (s : State) (k : Nat) : State :=
  { s with pmu := { s.pmu with tags := s.pmu.tags.filter (fun x => x.id != k) } }

/-- R389: a tag is released: its record enters the FIFO, or is lost, and the histograms count it. -/
def State.releaseTag (s : State) (k : Option Nat) (dropped : Bool) : State :=
  match k.bind (fun k => s.pmu.tags.find? (fun t => t.id == k)) with
  | none => s
  | some t => ((((s.dropTag t.id).upTo 16 (fun s h => s.histSee t h)).pushTag t dropped).notifyTags).showTags

end Sys2Proof.Machine
end

