-- ==== Sys2Proof/Machine/Queues.lean ====
section
/-!
DEFINITION. The pantry's queues, the scheduler's tags, tokens, gates and guards: the operations that admission,
selection, rate changes, flushes and restarts share (R285 to R316).
-/

namespace Sys2Proof.Machine

/-! ### Queues (R285, R286) -/

/-- A field that egress and ingress queues both have: egress queue q, or ingress queue q − 512. -/
def State.rdQ (s : State) (e i : Row) (q : Nat) : Nat := if q < 512 then s.rd e [q] else s.rd i [q - 512]

/-- Write such a field. -/
def State.wrQ (s : State) (e i : Row) (q v : Nat) : State := if q < 512 then s.wr e [q] v else s.wr i [q - 512] v

/-- Advance such a count. -/
def State.countQ (s : State) (e i : Row) (q : Nat) : State :=
  if q < 512 then s.count e [q] else s.count i [q - 512]

/-- R286: the partition of a queue: 0 EGA, 1 EGB, 2 ING. -/
def partOf (q : Nat) : Nat := q / 256

/-- The frames of a queue, head first. -/
def State.queue (s : State) (q : Nat) : List Queued := tabGet [] s.pan.queues q

/-- R285: the cells of a frame. -/
def cellsOf (len : Nat) : Nat := ceilDiv len 128

/-- R287: the cells that a queue counts as drawn from one source. -/
def State.useOf (s : State) (q : Nat) (src : CellSource) : Nat :=
  ((s.queue q).map (fun x => if x.src = src then x.cells else 0)).sum

/-- Replace a queue's frames and show its occupancy. -/
def State.setQueue (s : State) (q : Nat) (fs : List Queued) : State :=
  ({ s with pan := { s.pan with queues := tabSet [] s.pan.queues q fs } }).wrQ .PAN_EQ_OCC_CELLS .PAN_IQ_OCC_CELLS q
    (fs.map Queued.cells).sum

/-- R295: count a drop under its reason. -/
def State.countDrop (s : State) (q reason : Nat) : State :=
  ((s.count .PAN_DROP_CNT_COUNT [partOf q, reason]).countQ .PAN_EQ_DROPS_COUNT .PAN_IQ_DROPS_COUNT q).native 7 q 1

/-! ### Cells and descriptors (R287) -/

/-- Draw cells from a source. The use of a queue's own reserve is counted from its frames. -/
def State.drawCells (s : State) (q n : Nat) : CellSource → State
  | .reserve => s
  | .partition => s.wr .PAN_PART_USE_USED [partOf q] (s.rd .PAN_PART_USE_USED [partOf q] + n)
  | .shared => s.wr .PAN_SHARED_FREE [] (s.rd .PAN_SHARED_FREE - n)

/-- Give cells back to a source. -/
def State.freeCells (s : State) (q n : Nat) : CellSource → State
  | .reserve => s
  | .partition => s.wr .PAN_PART_USE_USED [partOf q] (s.rd .PAN_PART_USE_USED [partOf q] - n)
  | .shared => s.wr .PAN_SHARED_FREE [] (s.rd .PAN_SHARED_FREE + n)

/-- The PANTRY section's descriptor split: egress reserve, ingress reserve, shared. -/
def State.descSizes (s : State) : Nat × Nat × Nat :=
  match s.image.running with
  | some i => (i.pantry.descEgress, i.pantry.descIngress, i.pantry.descShared)
  | none => (0, 0, 0)

/-- Show the free descriptors. -/
def State.showDesc (s : State) : State :=
  let z := s.descSizes
  s.wr .PAN_DESC_FREE_FREE []
    (z.1 + z.2.1 + z.2.2 - (s.pan.descEgress + s.pan.descIngress + s.pan.descShared))

/-- R287: which descriptors a frame of a queue would take: its direction's reserve (true), the shared ones (false), or
none. -/
def State.descFor (s : State) (q : Nat) : Option Bool :=
  let z := s.descSizes
  if q < 512 && decide (s.pan.descEgress < z.1) then some true
  else if !decide (q < 512) && decide (s.pan.descIngress < z.2.1) then some true
  else if s.pan.descShared < z.2.2 then some false
  else none

/-- Take or give back a descriptor: `d` is the change of the count. -/
def State.moveDesc (s : State) (q : Nat) (fromReserve : Bool) (d : Nat → Nat) : State :=
  let p := s.pan
  let p := if !fromReserve then { p with descShared := d p.descShared }
    else if q < 512 then { p with descEgress := d p.descEgress }
    else { p with descIngress := d p.descIngress }
  ({ s with pan := p }).showDesc

/-- R287, R292: the queue's class is paused towards the router: the port whose PFC watches the queue holds the class in
XOFF. -/
def State.watchedBy (s : State) (q : Nat) : Option Nat :=
  if q < 512 then (List.range 32).find? (fun p => s.portChan p == some (q / 8)) else none

def State.pausedOut (s : State) (q : Nat) : Bool :=
  match s.watchedBy q with
  | some p => (s.rd .CLI_PORT_STAT_XOFF [p]).testBit (q % 8)
  | none => false

/-- R287: the dynamic limit of a queue. -/
def State.limitOf (s : State) (q : Nat) : Nat :=
  s.rd .PAN_SHARED_FREE * 2 ^ s.rdQ .PAN_EQ_CFG_ALPHA .PAN_IQ_CFG_ALPHA q / 64

/-- R287, R288: the limit that a frame meets, by its colour. -/
def State.limitFor (s : State) (q : Nat) (yellow : Bool) : Nat :=
  if yellow then s.limitOf q / 2 ^ s.rdQ .PAN_EQ_CFG_YEL_SHIFT .PAN_IQ_CFG_YEL_SHIFT q else s.limitOf q

/-- The reserve's free cells. -/
def State.reserveFree (s : State) (q : Nat) : Nat :=
  s.rdQ .PAN_EQ_CFG_RESERVE .PAN_IQ_CFG_RESERVE q - s.useOf q .reserve

/-- The partition reserve's free cells, where it is open to the queue. -/
def State.partFree (s : State) (q : Nat) : Nat :=
  if s.pausedOut q then s.rd .PAN_PART_RES_SIZE [partOf q] - s.rd .PAN_PART_USE_USED [partOf q] else 0

/-- R287, R288, R295: the source that supplies a frame's cells, or the reason for the drop (3, 4 or 5). -/
def State.sourceFor (s : State) (q n : Nat) (yellow : Bool) : Except Nat CellSource :=
  if !yellow && decide (n ≤ s.reserveFree q) then .ok .reserve
  else if !yellow && decide (n ≤ s.partFree q) then .ok .partition
  else if s.rd .PAN_SHARED_FREE < n then .error 3
  else if s.useOf q .shared + n ≤ s.limitFor q yellow then .ok .shared
  else .error (if yellow then 4 else 5)

/-- R244: the source under which the second copy of a bridged frame is admitted: its own reserve or its own dynamic
limit; it draws no cells. -/
def State.sourceSecond (s : State) (q n : Nat) (yellow : Bool) : Option CellSource :=
  if !yellow && decide (n ≤ s.reserveFree q) then some .reserve
  else if s.useOf q .shared + n ≤ s.limitFor q yellow then some .shared
  else none

/-! ### Scheduler tags (R304 to R306) -/

/-- R302: the scheduler instance of a queue. -/
def instOf (q : Nat) : Nat := q / 8

/-- R305: the group of a queue. -/
def State.groupQ (s : State) (q : Nat) : Nat := s.rdQ .SCH_EQ_SCH_GROUP .SCH_IQ_SCH_GROUP q

/-- R304: the counted length of a frame. -/
def State.lenC (s : State) (q len : Nat) : Int :=
  (len : Int) + toSigned 7 (s.rdQ .SCH_EQ_SCH_OVERHEAD .SCH_IQ_SCH_OVERHEAD q)

/-- R305: the weight of a queue. -/
def State.weightQ (s : State) (q : Nat) : Nat := max 1 (s.rdQ .SCH_EQ_SCH_WEIGHT .SCH_IQ_SCH_WEIGHT q)

/-- R306: 48-bit tags compare as signed differences. -/
def tagLt (a b : Nat) : Bool := a != b && decide ((b + 2 ^ 48 - a) % 2 ^ 48 < 2 ^ 47)

/-- R306: a frame becomes head of a queue with a start tag. -/
def State.headTag (s : State) (q start : Nat) : State :=
  match s.queue q with
  | [] => s
  | x :: _ =>
    let f := (start + ceilDiv ((s.lenC q x.frame.len).toNat * 1024) (s.weightQ q)) % 2 ^ 48
    { s with sched := { s.sched with tagS := tabSet 0 s.sched.tagS q start, tagF := tabSet 0 s.sched.tagF q f } }

/-- The key of a group's virtual time. -/
def virtKey (q group : Nat) : Nat := 8 * instOf q + group

/-- R306: when a group has no backlogged queue left, its virtual time is the largest F assigned in it. -/
def State.restGroup (s : State) (q : Nat) : State :=
  let g := s.groupQ q
  let qs := ((List.range 8).map (8 * instOf q + ·)).filter (fun x => s.groupQ x == g)
  if qs.all (fun x => (s.queue x).isEmpty) then
    let f := qs.foldl (fun m x => if tagLt m (tabGet 0 s.sched.tagF x) then tabGet 0 s.sched.tagF x else m)
      (tabGet 0 s.sched.tagF q)
    { s with sched := { s.sched with virt := tabSet 0 s.sched.virt (virtKey q g) f } }
  else s

/-- Tags and virtual times of an instance back to 0 (R306). -/
def State.clearTags (s : State) (inst : Nat) : State :=
  s.upTo 8 (fun s k =>
    { s with sched := { s.sched with
      tagS := tabErase s.sched.tagS (8 * inst + k), tagF := tabErase s.sched.tagF (8 * inst + k),
      virt := tabErase s.sched.virt (8 * inst + k) } })

/-! ### Shapers (R307 to R310) -/

/-- R302: the drain rate of a queue's instance, in bytes per µs. -/
def State.drainRate (s : State) (q : Nat) : Nat :=
  if q < 512 then 625 * s.chanSlots (q / 8) else 125 * s.portRate ((q - 512) / 8)

/-- R308: the shaper's RATE as it acts. -/
def State.shaperRate (s : State) (q : Nat) : Nat :=
  let r := max 1 (s.rdQ .SCH_EQ_SHP_CFG_RATE .SCH_IQ_SHP_CFG_RATE q)
  if s.rdQ .SCH_EQ_SHP_CFG_MODE .SCH_IQ_SHP_CFG_MODE q = 0 then 320 * r else s.drainRate q * min r 1024 / 4

/-- R308: the bucket BKT in 1/256 byte. -/
def State.bucket (s : State) (q : Nat) : Nat :=
  let b := max 1 (s.rdQ .SCH_EQ_SHP_BURST_BURST .SCH_IQ_SHP_BURST_BURST q)
  if s.rdQ .SCH_EQ_SHP_CFG_MODE .SCH_IQ_SHP_CFG_MODE q = 0 then 65536 * b else s.shaperRate q * b / 10

/-- R307: the tokens T of a queue now, in 1/256 byte. -/
def State.tokens (s : State) (q : Nat) : Int :=
  let accrued : Int := s.shaperRate q * (s.uptime - tabGet 0 s.sched.lackAt q : Nat)
  let lack := tabGet 0 s.sched.lack q
  (s.bucket q : Int) - (if lack ≤ 0 then lack else max 0 (lack - accrued))

/-- Set the tokens of a queue against its present bucket. -/
def State.setTokens (s : State) (q : Nat) (t : Int) : State :=
  { s with sched := { s.sched with
    lack := tabSet 0 s.sched.lack q ((s.bucket q : Int) - t), lackAt := tabSet 0 s.sched.lackAt q s.uptime } }

/-- R307: a full bucket. -/
def State.fillTokens (s : State) (q : Nat) : State :=
  { s with sched := { s.sched with
    lack := tabErase s.sched.lack q, lackAt := tabSet 0 s.sched.lackAt q s.uptime } }

/-- R309: a commit changed the shaper of a queue. -/
def State.tokensOnChange (s : State) (q : Nat) : State :=
  if s.rdQ .SCH_EQ_SHP_CFG_TOKEN_ON_CHANGE .SCH_IQ_SHP_CFG_TOKEN_ON_CHANGE q = 0 then s.fillTokens q
  else s.setTokens q 0

/-- R307: the queue is shaped. -/
def State.shaped (s : State) (q : Nat) : Bool :=
  s.rdQ .SCH_EQ_SHP_CFG_EN .SCH_IQ_SHP_CFG_EN q != 0 && decide (s.tokens q ≤ 0)

/-! ### Gate control lists (R311 to R316) -/

/-- R311: the operative list of reset. -/
def GateList.open_ : GateList := ⟨[(255, 1000000)], 1000000, 0⟩

/-- R311: the operative list of a channel. -/
def State.gateList (s : State) (ch : Nat) : GateList := tabGet GateList.open_ s.sched.oper ch

/-- R317: a staged entry. One that was never written holds what GCL_WGATE and GCL_WIVL read after reset. -/
def State.stagedEntry (s : State) (ch idx : Nat) : Nat × Nat := tabGet (0, 0) s.sched.staged (256 * ch + idx)

/-- R313: the staged list of a channel. -/
def State.stagedList (s : State) (ch : Nat) : GateList :=
  ⟨(List.range (s.rd .SCH_GCL_LEN_LEN [ch])).map (s.stagedEntry ch), s.rd .SCH_GCL_CYCLE_CYCLE [ch],
    s.rdWide .SCH_GCL_BASE_LO_BASE .SCH_GCL_BASE_HI_BASE [ch]⟩

/-- R312: the entry in force at an offset into the cycle: its index, gates, and the offset at which it ends. -/
def entryAtOff (cycle off : Nat) : List (Nat × Nat) → Nat → Nat → Nat × Nat × Nat
  | [], _, _ => (0, 255, cycle)
  | [e], i, _ => (i, e.1, cycle)
  | e :: es, i, start =>
    if off < start + e.2 then (i, e.1, min cycle (start + e.2)) else entryAtOff cycle off es (i + 1) (start + e.2)

/-- R312: the offset into the operative cycle at a module time. -/
def GateList.offset (l : GateList) (t : Nat) : Nat := (((t : Int) - (l.base : Int)) % (l.cycle : Int)).toNat

/-- R312: entry, gates and the time until the next entry starts, at a module time. -/
def GateList.at_ (l : GateList) (t : Nat) : Nat × Nat × Nat :=
  let e := entryAtOff l.cycle (l.offset t) l.entries 0 0
  (e.1, e.2.1, e.2.2 - l.offset t)

/-- The time at which the scheduler decides for a channel: module time, or the start of an entry that a command has
reported. -/
def State.gateNow (s : State) (ch : Nat) : Nat := max s.mt (tabGet 0 s.sched.entryAt ch)

/-- R313: the channel's gates are active. -/
def State.gatesActive (s : State) (ch : Nat) : Bool := s.sched.gated.testBit ch

/-- R313: EN as written becomes what the channel's gates follow. -/
def State.takeGateEn (s : State) (ch : Nat) : State :=
  { s with sched := { s.sched with
    gated := if s.flag .SCH_GCL_CTL_EN [ch] then setBit s.sched.gated ch else clearBit s.sched.gated ch } }

/-- R311: the gate vector in force. -/
def State.gates (s : State) (ch : Nat) : Nat :=
  if s.gatesActive ch then ((s.gateList ch).at_ (s.gateNow ch)).2.1 else 255

/-- R313, R315: the time until a list turns the class's gate from open to closed, looking at most `fuel` changes ahead and
not as far as `limit`; `en` is EN as written, which the gates follow from the list's next cycle start, and `active` what they
follow at `t`, which lies `ahead` from the present. -/
def closesIn (l : GateList) (c : Nat) (en : Bool) (limit : Option Nat) : Nat → Bool → Nat → Nat → Option Nat
  | 0, _, _, _ => none
  | fuel + 1, active, t, ahead =>
    let d := if active then (l.at_ t).2.2 else l.cycle - l.offset t
    let next := if l.offset (t + d) = 0 then en else active
    if (!active && !en) || limit.any (fun x => decide (x ≤ ahead + d)) then none
    else if next && !(l.at_ (t + d)).2.1.testBit c then some (ahead + d)
    else closesIn l c en limit fuel next (t + d) (ahead + d)

/-- R313: the time until a pending activation. -/
def State.pendingSwap (s : State) (ch : Nat) : Option Nat :=
  if s.flag .SCH_GCL_STAT_PENDING [ch] then some (tabGet 0 s.sched.tNew ch - s.gateNow ch) else none

/-- R315: the time until the next closure of an open gate: in the operative list, at a pending activation, or in the list that
this makes operative. -/
def State.nextClosure (s : State) (ch c : Nat) : Option Nat :=
  let en := s.flag .SCH_GCL_CTL_EN [ch]
  let t := s.gateNow ch
  let swap := s.pendingSwap ch
  match closesIn (s.gateList ch) c en swap 258 (s.gatesActive ch) t 0, swap with
  | some d, _ => some d
  | none, none => none
  | none, some d =>
    let l := s.stagedList ch
    if en && !(l.at_ (t + d)).2.1.testBit c then some d else closesIn l c en none 258 en (t + d) d

/-- R315: the queue's class is inside its guard band. -/
def State.inGuard (s : State) (q : Nat) : Bool :=
  let ch := q / 8
  (s.gates ch).testBit (q % 8) &&
    (match s.nextClosure ch (q % 8) with
      | some d => decide (d ≤ s.rd .SCH_EQ_GUARD_CUR_G [q])
      | none => false)

/-- R315: the blocks of a frame of a length on a channel, with the cipher's share. -/
def State.blocksOf (s : State) (ch len : Nat) : Nat :=
  let nb := 1 + ceilDiv (len + 1) 8
  let seg := s.rd .CIP_CH_CFG_SEG_LEN [ch]
  if s.chanCipher ch then ceilDiv (nb * (seg + 5)) (seg + 1) else nb

/-- R315: the guard of an egress queue at the present rate. -/
def State.guardOf (s : State) (q : Nat) : Nat :=
  let ch := q / 8
  let k := s.chanSlots ch
  if k = 0 then 0xFFFFF
  else if s.flag .SCH_EQ_GUARD_CFG_MODE [q] then s.rd .SCH_EQ_GUARD_CFG_FIXED_NS [q]
  else min 0xFFFFF (ceilDiv (s.blocksOf ch (s.rd .SCH_EQ_SCH_MAXLEN [q]) * 66) (5 * k))

/-- R312: the lengths of the stretches of one cycle that the closed entries of a class leave between them; an entry that the
cycle's end cuts off altogether separates nothing. -/
def openRuns (c : Nat) (cycle : Nat) : List (Nat × Nat) → Nat → Nat → List Nat
  | [], _, run => [run]
  | e :: es, start, run =>
    let d := if es.isEmpty then cycle - start else min e.2 (cycle - start)
    if d = 0 || e.1.testBit c then openRuns c cycle es (start + d) (run + d)
    else run :: openRuns c cycle es (start + d) 0

/-- R315: the open intervals of a class: the stretch at the cycle's end goes on in the next cycle. There is none where the gate
never opens or never closes. -/
def openIntervals : List Nat → List Nat
  | a :: b :: rest => ((a + (b :: rest).getLastD 0) :: (b :: rest).dropLast).filter (· != 0)
  | _ => []

/-- R317: a class's guard is at least as long as one of its open intervals. -/
def State.starves (s : State) (q : Nat) : Bool :=
  let l := s.gateList (q / 8)
  s.gatesActive (q / 8) && (openIntervals (openRuns (q % 8) l.cycle l.entries 0 0)).any
    (fun r => decide (r ≤ s.rd .SCH_EQ_GUARD_CUR_G [q]))

/-- R315: the guards of a channel are computed anew, and GUARD_STARVE where one is too long. -/
def State.reguard (s : State) (ch : Nat) : State :=
  s.upTo 8 (fun s c =>
    let q := 8 * ch + c
    (s.wr .SCH_EQ_GUARD_CUR_G [q] (s.guardOf q)).when (s.starves q && s.chanSlots ch != 0)
      (·.evt .SCH_EVT_GUARD_STARVE))

/-! ### PFC towards the router (R290 to R292) -/

/-- R291: XON_TH as it acts. -/
def State.xonTh (s : State) (q : Nat) : Nat :=
  let x := s.rd .PAN_EQ_PFC_TH_XOFF_TH [q]
  let n := s.rd .PAN_EQ_PFC_TH_XON_TH [q]
  if n < x then n else x - 1

/-- R291: a class of a port changes its PFC state, and is due in the next PFC frame. -/
def State.setXoff (s : State) (p c : Nat) (off : Bool) : State :=
  let old := tabGet 0 s.pan.pfcXoff p
  let pan := { s.pan with
    pfcXoff := tabSet 0 s.pan.pfcXoff p (if off then setBit old c else clearBit old c)
    pfcDue := tabSet 0 s.pan.pfcDue p (setBit (tabGet 0 s.pan.pfcDue p) c) }
  ({ s with pan := pan }).when off (·.bit .CLI_PORT_STAT_XOFF [p] c)

/-- R290, R291: compare a class's watched queue with its thresholds; `rise` after an admission or a change of the queue
watched: only then does the class go to XOFF. -/
def State.watchClass (s : State) (p c : Nat) (rise : Bool) : State :=
  match s.portChan p with
  | none => s
  | some ch =>
    let q := 8 * ch + c
    let occ := s.rd .PAN_EQ_OCC_CELLS [q]
    let off := (tabGet 0 s.pan.pfcXoff p).testBit c
    if !(s.rd .CLI_PFC_CFG_TX_EN [p]).testBit c then s
    else if rise && !off && decide (s.rd .PAN_EQ_PFC_TH_XOFF_TH [q] ≤ occ) then s.setXoff p c true
    else if off && decide (occ ≤ s.xonTh q) then s.setXoff p c false
    else s

/-- R291: the port that watches a queue compares its thresholds after a change of occupancy, or of the thresholds. -/
def State.watch (s : State) (q : Nat) (rise : Bool) : State :=
  match s.watchedBy q with
  | some p => s.watchClass p (q % 8) rise
  | none => s

/-! ### Entering and leaving a queue -/

/-- A frame enters a queue; it may become its head. -/
def State.enqueue (s : State) (q : Nat) (x : Queued) : State :=
  let old := s.queue q
  (((s.setQueue q (old ++ [x])).when old.isEmpty
    (fun t => t.headTag q (tabGet 0 s.sched.virt (virtKey q (s.groupQ q))))).watch q true).native 3 q 1 |>.native 4 q x.frame.len

/-- R243, R287: a frame that has left a queue gives back its descriptor and, if it held the last copy, its cells. -/
def State.releaseFrame (s : State) (q : Nat) (x : Queued) : State :=
  let s := s.moveDesc q x.descReserve (· - 1)
  match x.bridge with
  | none => s.freeCells q x.cells x.src
  | some b =>
    match tabFind s.pan.bridges b with
    | none => s
    | some r =>
      if r.copies ≤ 1 then
        ({ s with pan := { s.pan with bridges := tabErase s.pan.bridges b } }).freeCells r.queue r.cells r.src
      else
        let rest := tabInsert b { r with copies := r.copies - 1 } (tabErase s.pan.bridges b)
        { s with pan := { s.pan with bridges := rest } }

/-- The head leaves its queue, and the next frame becomes head (R306). -/
def State.pop (s : State) (q : Nat) : State :=
  match s.queue q with
  | [] => s
  | x :: rest =>
    ((((s.setQueue q rest).releaseFrame q x).headTag q (tabGet 0 s.sched.tagF q)).restGroup q).watch q false

/-- A frame is dropped from a queue: counted under a reason, its tag released. -/
def State.dropFrame (s : State) (q reason : Nat) (x : Queued) : State :=
  ((s.countDrop q reason).releaseFrame q x).releaseTag x.tag true

/-- R295 code 6: every frame of a queue is removed. -/
def State.flushQueue (s : State) (q : Nat) : State :=
  let old := s.queue q
  if old.isEmpty then s
  else (((old.foldl (fun t x => t.dropFrame q 6 x) (s.setQueue q [])).restGroup q).watch q false)

/-- R295: the eight queues of an instance are flushed. -/
def State.flushInst (s : State) (inst : Nat) : State := s.upTo 8 (fun s c => s.flushQueue (8 * inst + c))

/-- R306, R307: an instance is enabled: tags and virtual times 0, buckets full. -/
def State.enableInst (s : State) (inst : Nat) : State :=
  (s.clearTags inst).upTo 8 (fun s c => s.fillTokens (8 * inst + c))

/-! ### Drain rates (R302, R310, R315) -/

/-- R73: add up a channel's slots over time, for MAP_FILL. -/
def State.accrueSlots (s : State) (ch : Nat) : State :=
  let add := s.chanSlots ch * (s.uptime - tabGet 0 s.sched.slotAt ch)
  { s with sched := { s.sched with
    slotUs := tabSet 0 s.sched.slotUs ch (tabGet 0 s.sched.slotUs ch + add),
    slotAt := tabSet 0 s.sched.slotAt ch s.uptime } }

/-! ### Segment contexts (R24, R268, R273) -/

/-- R276: the occupancy of the pipelines and of the contexts. -/
def State.showCtx (s : State) : State :=
  let run := (s.cip.pipes.filter (fun p => p.2.run.isSome)).length
  let sus := (s.cip.pipes.filter (fun p => p.2.suspended.isSome)).length
  ((s.wr .CIP_PIPE_STAT_ACTIVE [] run).wr .CIP_PIPE_STAT_SUSPENDED [] sus).wr .CIP_CTX_STAT_USED [] s.cip.contexts.length

/-- Change the cipher engine or the cupboard. -/
def State.onCip (s : State) (f : Cipher → Cipher) : State := { s with cip := f s.cip }

/-- R263: the slot of a channel direction and phase; `dir` is 0 for transmit and 1 for receive. -/
def slotOf (ch dir phase : Nat) : Nat := 4 * ch + 2 * dir + phase

/-- R273: a context is URGENT. -/
def State.ctxUrgent (s : State) (id : Nat) : Bool :=
  match s.cip.contexts.find? (fun c => c.id == id) with
  | some c => s.use .CIP_CH_CFG_URGENT [c.ch] != 0
  | none => false

/-- R273: the context that a free pipeline takes: the oldest ready urgent one, otherwise the oldest ready one. -/
def State.nextReady (s : State) : Option Nat :=
  match s.cip.ready.find? s.ctxUrgent with
  | some k => some k
  | none => s.cip.ready.head?

/-- A pipeline. -/
def State.pipe (s : State) (p : Nat) : Pipe := tabGet Pipe.free s.cip.pipes p

/-- Set a pipeline. -/
def State.setPipe (s : State) (p : Nat) (x : Pipe) : State :=
  s.onCip (fun c => { c with pipes := tabSet Pipe.free c.pipes p x })

/-- R273: a free pipeline takes a ready context. -/
def State.feed (s : State) (p : Nat) : State :=
  if (s.pipe p).run.isSome then s
  else match s.nextReady with
    | some k => (s.setPipe p ⟨some k, (s.pipe p).suspended⟩).onCip (fun c => { c with ready := c.ready.erase k })
    | none => s

/-- R273: every free pipeline. -/
def State.feedAll (s : State) : State := (s.upTo 16 State.feed).showCtx

/-- A pipeline lets go of closed contexts. -/
def Pipe.without (p : Pipe) (ids : List Nat) : Pipe :=
  let run := p.run.filter (fun k => !ids.contains k)
  let sus := p.suspended.filter (fun k => !ids.contains k)
  if run.isSome then ⟨run, sus⟩ else ⟨sus, none⟩

/-- Close the contexts that a test names; R273: a pipeline that this frees takes the next ready context. -/
def State.closeCtx (s : State) (gone : Context → Bool) : State :=
  let ids := (s.cip.contexts.filter gone).map Context.id
  if ids.isEmpty then s
  else
    let pipes := (s.cip.pipes.map (fun e => (e.1, e.2.without ids))).filter (fun e => e.2 != Pipe.free)
    ({ s with cip := { s.cip with
      contexts := s.cip.contexts.filter (fun c => !gone c)
      ready := s.cip.ready.filter (fun k => !ids.contains k)
      pipes := pipes } }).feedAll

/-- R263: a context works for the receive direction. -/
def Context.isRx (c : Context) : Bool := c.slot / 2 % 2 == 1

/-- R268: the blocks of the latest segment of a channel, as far as they have not been sent, leave its container. -/
def State.unbox (s : State) (ch : Nat) : State :=
  let c := chanNum ch
  let bits := 66 * (s.rd .CIP_CH_CFG_SEG_LEN [ch] + 5)
  s.onOtn (chanWing ch) (fun o => { o with
    box := tabSet [] o.box c ((tabGet [] o.box c).take ((tabGet [] o.box c).length - bits)) })

/-- R268: a transmitted channel that holds 0 slots abandons its open segment. -/
def State.abandonSegment (s : State) (ch : Nat) : State :=
  if s.cip.contexts.any (fun c => c.ch == ch && !c.isRx) then
    (s.closeCtx (fun c => c.ch == ch && !c.isRx)).unbox ch
  else s

/-- R72: the frame in mapping goes on in the resized container: its remaining bits take their time at the new rate; in one of no
slots they are held. -/
def State.retime (s : State) (ch slots : Nat) : State :=
  let h := tabGet (8, 0) s.sched.handing ch
  let now := s.gateNow ch
  let old := s.chanSlots ch
  if 8 ≤ h.1 || decide (h.2 ≤ now) then s
  else
    let bits := if old = 0 then tabGet 0 s.sched.held ch else 5 * old * (h.2 - now)
    let e := if slots = 0 then 2 ^ 70 else now + ceilDiv bits (5 * slots)
    { s with sched := { s.sched with
      handing := tabSet (8, 0) s.sched.handing ch (h.1, e)
      held := if slots = 0 then tabSet 0 s.sched.held ch bits else tabErase s.sched.held ch } }

/-- R72, R310: change the drain rate of a channel: REL shapers take their new bucket and are clamped, and the guards are
computed anew. R318: a channel that falls to 0 slots keeps its tokens (assumption 76). -/
def State.setDrain (s : State) (ch slots : Nat) : State :=
  let old := (List.range 8).map (fun c => s.tokens (8 * ch + c))
  let t := (((s.accrueSlots ch).retime ch slots).wr .SCH_CH_RATE_SLOTS [ch] slots).when (slots == 0) (·.abandonSegment ch)
  (t.upTo 8 (fun t c =>
    let q := 8 * ch + c
    if s.bucket q = t.bucket q && s.shaperRate q = t.shaperRate q then t
    else t.setTokens q (if slots = 0 then old.getD c 0 else min (old.getD c 0) (t.bucket q)))).reguard ch

/-- R182, R310: a wing's channels take their new drain rates and ENABLE bits: a channel that is disabled is flushed,
one that is enabled starts afresh. -/
def State.applyDrain (s : State) (w : Wing) (counts : List Nat) (enabled : Nat) : State :=
  let old := (s.tx.get w).enabled
  let s := { s with tx := s.tx.set w { s.tx.get w with enabled := enabled } }
  s.upTo 32 (fun s c =>
    let ch := chanIndex w c
    let s := if s.chanSlots ch = counts.getD c 0 then s else s.setDrain ch (counts.getD c 0)
    let s := s.when (old.testBit c && !enabled.testBit c) (·.flushInst ch)
    s.when (!old.testBit c && enabled.testBit c) (·.enableInst ch))

end Sys2Proof.Machine
end

