-- ==== Sys2Proof/Machine/Memory.lean ====
section
/-!
DEFINITION. The protected memories: writes and their valid bits, correction, remapping and uncorrectable errors
(R368 to R375, R381), and the cipher's segment contexts (R24, R273).
-/

namespace Sys2Proof.Machine

/-- R368: the banks of a memory. -/
def banksOf (m : Nat) : Nat := if m = 0 then 64 else if m = 5 then 1 else 16

/-- R368: the island of a memory. -/
def memIsland (m : Nat) : Nat :=
  match m with
  | 0 => 19
  | 1 => 19
  | 2 => 17
  | 3 => 9
  | 4 => 10
  | _ => 2

/-- How many cells or lines the model's order of writing runs through before it starts again (assumption 12). -/
def memSpan (m : Nat) : Nat :=
  match m with
  | 0 => 786432
  | 1 => 524288
  | 2 => 4096
  | 5 => 256
  | _ => 4194304

/-- The line of a number in the order of writing; a pantry cell is two lines. -/
def lineAt (m : Fin 6) (k : Nat) : MemLine :=
  if m.val = 0 then ⟨m, k % 64, 2 * (k / 64)⟩ else ⟨m, k % banksOf m, k / banksOf m⟩

/-- The number of a line in the order of writing. -/
def lineNumber (l : MemLine) : Nat :=
  if l.mem.val = 0 then l.line / 2 * 64 + l.bank else l.line * banksOf l.mem + l.bank

/-- R369: the line's valid bit. -/
def State.lineValid (s : State) (l : MemLine) : Bool :=
  if l.mem.val = 5 then s.ras.slotsValid.contains l.line
  else decide (lineNumber l < min (memSpan l.mem) (tabGet 0 s.ras.written l.mem))

/-- R381: an armed injection corrupts the write of a line. -/
def State.injectAt (s : State) (l : MemLine) : State :=
  if s.flag .RAS_INJ_ARMED && s.rd .RAS_INJ_MEM == l.mem.val then
    let t := s.wrb .RAS_INJ_ARMED [] false
    { t with ras := { t.ras with injected := (l, s.flag .RAS_INJ_DOUBLE) :: t.ras.injected } }
  else s

/-- R369: write the next `n` cells or lines of a memory: the number of the first, and the state. -/
def State.memWrite (s : State) (m : Fin 6) (n : Nat) : Nat × State :=
  let k := tabGet 0 s.ras.written m
  let t := { s with ras := { s.ras with written := tabSet 0 s.ras.written m (k + n) } }
  (k % memSpan m, t.injectAt (lineAt m (k % memSpan m)))

/-- R104, R374: the whole bank of a wing's dispersion taps is written. -/
def State.tapsWrite (s : State) (m : Fin 6) : State := (s.memWrite m (memSpan m)).2

/-- R369: write the line of a key slot. -/
def State.slotWrite (s : State) (slot : Nat) : State :=
  let t := { s with ras := { s.ras with slotsValid := slot :: s.ras.slotsValid.filter (· != slot) } }
  t.injectAt (lineAt 5 slot)

/-- R381: what a read of a line finds, an injected error taken with what the read itself met; a remapped line is
served from its entry (R371), and a line whose valid bit is 0 is not checked (R369). -/
def State.foundAt (s : State) (l : MemLine) (found : EccRead) : EccRead :=
  if !s.lineValid l || s.ras.remapped.contains l then .clean
  else if s.ras.injected.contains (l, true) then .double
  else if found = .clean && s.ras.injected.contains (l, false) then .single
  else found

/-- The line's injected error is gone. -/
def State.healed (s : State) (l : MemLine) : State :=
  { s with ras := { s.ras with injected := s.ras.injected.filter (fun e => decide (e.1 ≠ l)) } }

/-- R370, R374: LAST holds the last error: 1 a correction, 2 an uncorrectable error. -/
def State.lastError (s : State) (l : MemLine) (type : Nat) : State :=
  ((s.wr .RAS_MEM_LAST_TYPE [l.mem] type).wr .RAS_MEM_LAST_BANK [l.mem] l.bank).wr .RAS_MEM_LAST_LINE [l.mem] l.line

/-- R371, R372: a line that has met its third correction takes a remap entry of its bank, or the bank is full. -/
def State.remap (s : State) (l : MemLine) : State :=
  let used := (s.ras.remapped.filter (fun x => x.mem = l.mem && x.bank == l.bank)).length
  if used < 8 then
    ({ s with ras := { s.ras with remapped := s.ras.remapped ++ [l] } }.wr .RAS_MEM_REMAP_USED [l.mem]
      (s.rd .RAS_MEM_REMAP_USED [l.mem] + 1)).evtLog .RAS_EVT_REMAP [] (memIsland l.mem) l.mem l.bank l.line
  else if s.ras.full.contains (l.mem.val, l.bank) then s
  else
    ({ s with ras := { s.ras with full := (l.mem.val, l.bank) :: s.ras.full } }.wr .RAS_MEM_REMAP_BANKS_FULL [l.mem]
      (s.rd .RAS_MEM_REMAP_BANKS_FULL [l.mem] + 1)).evt .RAS_EVT_REMAP_FULL

/-- R371: the corrections of a line within the last second, this one included. -/
def State.recent (s : State) (l : MemLine) : List Nat :=
  let old := (s.ras.corrected.find? (fun e => decide (e.1 = l))).map (·.2)
  s.mt :: (old.getD []).filter (fun t => decide (s.mt ≤ t + 1000000000))

/-- R370, R371: a single-bit error is corrected and written back. -/
def State.correct (s : State) (l : MemLine) : State :=
  let times := s.recent l
  let others := s.ras.corrected.filter (fun e => decide (e.1 ≠ l))
  let t := ((s.healed l).count .RAS_MEM_CE_COUNT [l.mem]).lastError l 1
  let t := { t with ras := { t.ras with corrected := (l, times) :: others } }
  t.when (decide (3 ≤ times.length)) (·.remap l)

/-- R373, R374: an uncorrectable error is counted. -/
def State.uncorrectable (s : State) (l : MemLine) : State :=
  ((s.healed l).count .RAS_MEM_UE_COUNT [l.mem]).lastError l 2

/-- R374, R378: an uncorrectable error of a control memory is recorded and rings. -/
def State.ueControl (s : State) (l : MemLine) : State :=
  let i := memIsland l.mem
  ((((s.uncorrectable l).recordFault 4 i l.mem)).emit i l.mem (evtCode .RAS_EVT_UE_CTL [] 0) l.bank l.line).evt
    .RAS_EVT_UE_CTL

/-- R374 m = 1: the queue whose descriptor list was being read is flushed; the damaged descriptor's cells wait for the
audit. -/
def State.flushDamaged (s : State) (q place : Nat) : State :=
  let old := s.queue q
  let bad := old.filter (fun x => x.descPlace == place)
  let t := (old.filter (fun x => x.descPlace != place)).foldl (fun t x => t.dropFrame q 6 x) (s.setQueue q [])
  let t := bad.foldl (fun t x => (t.countDrop q 6).releaseTag x.tag true) t
  (({ t with ras := { t.ras with audit := t.ras.audit ++ bad.map (fun x => (q, x)) } }).restGroup q).watch q false

/-- R374: the queue that holds the descriptor of a number. -/
def State.queueOfDesc (s : State) (place : Nat) : Option Nat :=
  (s.pan.queues.find? (fun e => e.2.any (fun x => x.descPlace == place))).map (·.1)

/-- R374: DESC_AUDIT_DONE frees what damaged descriptors described. -/
def State.auditDone (s : State) : State :=
  s.ras.audit.foldl (fun t e => t.releaseFrame e.1 e.2) { s with ras := { s.ras with audit := [] } }
/-! ### Segment contexts and pipelines (R24, R273) -/

/-- R24, R273, R369: a segment opens. -/
def State.openCtx (s : State) (ch slot : Nat) : State :=
  let m := s.memWrite 2 1
  let id := m.2.cip.nextId
  let c : Context := ⟨id, ch, slot, 8 * (s.rd .CIP_CH_CFG_SEG_LEN [ch] + 1), m.1⟩
  let s := m.2.onCip (fun x => { x with
    nextId := id + 1
    contexts := x.contexts ++ [c]
    ready := x.ready ++ [id] })
  let s := s.when (s.cip.contexts.length == 4096) (·.countWrap .CIP_CTX_STAT_FULL [])
  s.feedAll

/-- R24: a receive segment of the channel is open. -/
def State.rxCtx (s : State) (ch : Nat) : Bool := s.cip.contexts.any (fun c => c.ch == ch && c.isRx)

/-- R261, R267: a new segment may open on a slot: it is CURRENT or NEXT. -/
def State.slotOpens (s : State) (n : Nat) : Bool :=
  s.rd .CIP_SLOT_STAT_STATE [n] == 3 || s.rd .CIP_SLOT_STAT_STATE [n] == 2

/-- R24, R267, R273: the first block of a received segment of an aligned channel enters CIP: its context opens, under the phase
last received (assumption 53), where its slot takes new segments. -/
def State.rxOpen (s : State) (ch : Nat) : State :=
  let n := slotOf ch 1 (s.rd .CIP_CH_STAT_RX_KP [ch])
  if s.chanCipher ch && s.flag .CIP_CH_STAT_SEG_LOCK [ch] && !s.rxCtx ch && s.slotOpens n &&
      decide (s.cip.contexts.length < 4096) then
    s.openCtx ch n
  else s

/-- R24: the receive segment of the channel closes, if one is open. -/
def State.rxClose (s : State) (ch : Nat) : State :=
  if s.rxCtx ch then (s.closeCtx (fun c => c.ch == ch && c.isRx)).native 11 ch 1 else s

/-- R262: a frame no longer waits for a segment that has verified. -/
def Queued.verified (x : Queued) (id : Nat) : Queued := { x with waits := x.waits.filter (· != id) }

/-- R13, R14, R262: a segment verifies: the frames of a queue that wait for nothing more become eligible now. -/
def State.verifyQueue (s : State) (id q : Nat) : State :=
  let old := s.queue q
  let freed := old.filter (fun x => x.waits.contains id && (x.verified id).waits.isEmpty)
  let s := s.setQueue q (old.map (fun x => x.verified id))
  freed.foldl (fun s x => s.passPoint x.tag 9) s

/-- R262: a segment fails: every frame of a queue that holds part of it is discarded. -/
def State.failQueue (s : State) (id q : Nat) : State :=
  let old := s.queue q
  let s := s.setQueue q (old.filter (fun x => !x.waits.contains id))
  let s := (old.filter (fun x => x.waits.contains id)).foldl (fun s x => (s.releaseFrame q x).releaseTag x.tag true) s
  (s.restGroup q).watch q false

/-- The queues that hold a frame which waits for a segment. -/
def State.waiting (s : State) (id : Nat) : List Nat :=
  (s.pan.queues.filter (fun e => e.2.any (fun x => x.waits.contains id))).map (·.1)

/-- R24, R261, R262: the present segment of a channel ends, verified or not, and its context closes. -/
def State.endSegment (s : State) (ch : Nat) (ok : Bool) : State :=
  let n := tabGet 0 s.cip.segs ch
  let id := 64 * n + ch
  let s := (s.waiting id).foldl (fun s q => if ok then s.verifyQueue id q else s.failQueue id q) (s.rxClose ch)
  s.onCip (fun c => { c with segs := tabSet 0 c.segs ch (n + 1), spoiled := c.spoiled.erase ch })

/-- R262, R268: a received channel that holds 0 slots discards its open segment, counted in NO_KEY, and the frames that hold part
of it. -/
def State.rxAbandon (s : State) (ch : Nat) : State :=
  if s.chanCipher ch then (s.when (s.rxCtx ch) (·.count .CIP_NO_KEY_COUNT [ch])).endSegment ch false else s

/-- R268, R374: the open segments of some contexts are abandoned; a received one is counted in NO_KEY, and what is still to
come of it is discarded. -/
def State.spoil (s : State) (gone : Context → Bool) : State :=
  let chs := ((s.cip.contexts.filter (fun c => gone c && c.isRx)).map Context.ch)
  let s := chs.foldl (fun s ch => s.count .CIP_NO_KEY_COUNT [ch]) (s.closeCtx gone)
  s.onCip (fun c => { c with spoiled := chs ++ c.spoiled.filter (fun ch => !chs.contains ch) })

end Sys2Proof.Machine
end

