-- ==== Sys2Proof/Machine/Clients.lean ====
section
/-!
DEFINITION. Client ports and the pantry: reception, classification, policing, admission, priority flow control, the
test generator and checker, and the hallway's delivery from the line (R281 to R297).
-/

namespace Sys2Proof.Machine

/-! ### Classification (R283) -/

/-- One entry of a port's CLS_MAP. -/
def State.clsMap (s : State) (p i : Nat) : Nat :=
  let ix := [p, i / 8]
  match i % 8 with
  | 0 => s.rd .CLI_CLS_MAP_CLASS_0 ix
  | 1 => s.rd .CLI_CLS_MAP_CLASS_1 ix
  | 2 => s.rd .CLI_CLS_MAP_CLASS_2 ix
  | 3 => s.rd .CLI_CLS_MAP_CLASS_3 ix
  | 4 => s.rd .CLI_CLS_MAP_CLASS_4 ix
  | 5 => s.rd .CLI_CLS_MAP_CLASS_5 ix
  | 6 => s.rd .CLI_CLS_MAP_CLASS_6 ix
  | _ => s.rd .CLI_CLS_MAP_CLASS_7 ix

/-- R283: the index that CLS_MODE selects. -/
def classIndex (mode : Nat) (f : Frame) : Option Nat :=
  match mode with
  | 1 => f.pcp.map (·.val)
  | 2 => f.dscp.map (·.val)
  | 3 => f.mplsTc.map (·.val)
  | _ => none

/-- R283: the class of a frame on a port. -/
def State.classOf (s : State) (p : Nat) (f : Frame) : Nat :=
  match classIndex (s.rd .CLI_PORT_CFG_CLS_MODE [p]) f with
  | some i => s.clsMap p i
  | none => s.rd .CLI_PORT_CFG_DEF_CLASS [p]

/-! ### Policing (R284) -/

/-- R284: the colours. -/
inductive Colour where
  | green
  | yellow
  | red
deriving DecidableEq, Repr

/-- The buckets of a policer topped up to a time (µs): what is missing from each, in 1/256 byte. -/
def Policer.topUp (x : Policer) (single : Bool) (cir pir now : Nat) : Policer :=
  let c := 1600 * cir * (now - x.at_)
  if single then ⟨x.lackC - c, x.lackP - (c - x.lackC), now⟩
  else ⟨x.lackC - c, x.lackP - 1600 * pir * (now - x.at_), now⟩

/-- R284: srTCM of RFC 2697 and trTCM of RFC 2698, colour-blind; `n` in 1/256 byte, `cbs` and `pbs` the full buckets. -/
def Policer.judge (x : Policer) (single : Bool) (cbs pbs n : Nat) : Colour × Policer :=
  if single then
    if x.lackC + n ≤ cbs then (.green, { x with lackC := x.lackC + n })
    else if x.lackP + n ≤ pbs then (.yellow, { x with lackP := x.lackP + n })
    else (.red, x)
  else if pbs < x.lackP + n then (.red, x)
  else if cbs < x.lackC + n then (.yellow, { x with lackP := x.lackP + n })
  else (.green, { x with lackC := x.lackC + n, lackP := x.lackP + n })

/-- R284: the colour of a frame of a class on a port; the policer's buckets follow. -/
def State.police (s : State) (p c len : Nat) : Colour × State :=
  let i := [p, c]
  if !s.flag .CLI_POL_CTL_EN i then (.green, s)
  else
    let single := s.flag .CLI_POL_CTL_MODE i
    let x := (tabGet ⟨0, 0, 0⟩ s.pan.policers (8 * p + c)).topUp single (s.rd .CLI_POL_RATE_CIR i)
      (s.rd .CLI_POL_RATE_PIR i) s.uptime
    let r := x.judge single (65536 * s.rd .CLI_POL_BURST_CBS i) (65536 * s.rd .CLI_POL_BURST_PBS i) (256 * len)
    (r.1, { s with pan := { s.pan with policers := tabSet ⟨0, 0, 0⟩ s.pan.policers (8 * p + c) r.2 } })

/-- R284: a commit to a policer refills its buckets. -/
def State.refillPolicer (s : State) (p c : Nat) : State :=
  { s with pan := { s.pan with policers := tabSet ⟨0, 0, 0⟩ s.pan.policers (8 * p + c) ⟨0, 0, s.uptime⟩ } }

/-! ### Admission (R244, R287, R288, R295) -/

/-- A frame dropped on arrival: counted under its reason, its tag released. -/
def State.refuseFrame (s : State) (q reason : Nat) (tag : Option Nat) : State :=
  (s.countDrop q reason).releaseTag tag true

/-- R295 code 1 for a queue: the Switch block is stopped, or the queue's channel or port is disabled. -/
def State.queueStopped (s : State) (q : Nat) : Bool :=
  s.blockStopped 3 ||
    (if q < 512 then !s.chanEnabled (q / 8) else !s.flag .CLI_PORT_CFG_ENABLE [(q - 512) / 8])

/-- R14, R287: a frame is admitted to a queue or dropped whole; an egress queue is where SP1 lies. -/
def State.admitFrame (s : State) (q : Nat) (f : Frame) (yellow : Bool) (waits : List Nat) (tag : Option Nat) : State :=
  let n := cellsOf f.len
  if s.queueStopped q then s.refuseFrame q 1 tag
  else match s.descFor q with
    | none => s.refuseFrame q 2 tag
    | some d => match s.sourceFor q n yellow with
      | .error r => s.refuseFrame q r tag
      | .ok src =>
        let c := (s.drawCells q n src).memWrite 0 n
        let e := (c.2.moveDesc q d (· + 1)).memWrite 1 1
        (e.2.enqueue q ⟨f, n, src, d, none, waits, tag, c.1, e.1⟩).when (decide (q < 512))
          (·.passPoint tag 1)

/-- R244: whether a copy of a bridged frame can be admitted: its descriptor and source, or the drop reason. -/
def State.copyFor (s : State) (q n : Nat) (yellow drawn : Bool) : Except Nat (Bool × CellSource) :=
  if s.queueStopped q then .error 1
  else match s.descFor q with
    | none => .error 2
    | some d =>
      if drawn then match s.sourceSecond q n yellow with
        | some src => .ok (d, src)
        | none => .error (if yellow then 4 else 5)
      else match s.sourceFor q n yellow with
        | .error r => .error r
        | .ok src => .ok (d, src)

/-- One copy of a bridged frame enters its queue; the first copy draws the cells. -/
def State.enterCopy (s : State) (q : Nat) (f : Frame) (d : Bool) (src : CellSource) (b : Nat) (tag : Option Nat) :
    State :=
  let n := cellsOf f.len
  let c := match tabFind s.pan.bridges b with
    | none =>
      let t := (s.drawCells q n src).memWrite 0 n
      (t.1, { t.2 with pan := { t.2.pan with bridges := tabInsert b ⟨1, src, q, n, t.1⟩ t.2.pan.bridges } })
    | some r =>
      let rest := tabInsert b { r with copies := r.copies + 1 } (tabErase s.pan.bridges b)
      (r.place, { s with pan := { s.pan with bridges := rest } })
  let e := (c.2.moveDesc q d (· + 1)).memWrite 1 1
  (e.2.enqueue q ⟨f, n, src, d, some b, [], tag, c.1, e.1⟩).passPoint tag 1

/-- R243, R244: a frame of a protected port is bridged to both members, the selected member's copy first. -/
def State.admitBridged (s : State) (g : Nat) (f : Frame) (c : Nat) (yellow : Bool) (tag : Option Nat) : State :=
  let sel := s.selected g
  let q1 := 8 * s.memberChan g sel + c
  let q2 := 8 * s.memberChan g sel.other + c
  let tag1 := if sel = .a then tag else none
  let tag2 := if sel = .a then none else tag
  let b := s.pan.nextBridge
  let n := cellsOf f.len
  let s := { s with pan := { s.pan with nextBridge := b + 1 } }
  let first := s.copyFor q1 n yellow false
  let s1 := match first with
    | .ok (d, src) => s.enterCopy q1 f d src b tag1
    | .error r => s.refuseFrame q1 r tag1
  match s1.copyFor q2 n yellow (match first with
      | .ok _ => true
      | .error _ => false) with
  | .ok (d, src) => s1.enterCopy q2 f d src b tag2
  | .error _ => (s1.count .HAL_PG_DROP_DROP [g]).releaseTag tag2 true

/-! ### Reception on a client port (R281) -/

/-- R281: what the MAC makes of a frame it forwards: longer frames are cut with a bad FCS. -/
def macFrame (f : Frame) : Frame := if f.len > 16000 then { f with len := 16000, fcsOk := false } else f

/-- R281: the MAC's statistics of every received frame: its length and whether its FCS is right. -/
def State.macCount (s : State) (p len : Nat) (fcsOk : Bool) : State :=
  (((s.count .CLI_RX_FRAMES_COUNT [p]).when (!fcsOk) (·.count .CLI_RX_FCS_ERR_COUNT [p])).when
    (decide (len < 64)) (·.count .CLI_RX_RUNT_COUNT [p])).when
    (decide (16000 < len)) (·.count .CLI_RX_OVERSIZE_COUNT [p])

/-- R19, R282, R296: the port's MAC receives frames: its link is up, and it is not in LINE loopback. -/
def State.macHears (s : State) (p : Nat) : Bool :=
  s.isRunning && s.flag .CLI_PORT_STAT_LINK [p] && s.rd .HAL_LB_MODE [p] != 2 && !s.portFailed p

/-- R38, R281: a frame that the MAC consumes: it is counted, and acted on unless it is a runt or the Client block is
stopped. -/
def State.macConsume (s : State) (p len : Nat) (fcsOk : Bool) (act : State → State) : State :=
  if !s.macHears p then s
  else
    let t := s.macCount p len fcsOk
    if len < 64 || s.blockStopped 2 then t else act t

/-- R14, R296: where an admitted egress frame of a port goes. A frame that the client loopback returns never meets the
cipher; it is eligible in its ingress queue at once. -/
def State.forwardEgress (s : State) (p c : Nat) (f : Frame) (yellow : Bool) (tag : Option Nat) : State :=
  if s.rd .HAL_LB_MODE [p] = 1 then
    if s.blockStopped 2 then s.refuseFrame (512 + 8 * p + c) 1 tag
    else (s.admitFrame (512 + 8 * p + c) f yellow [] tag).passPoint tag 9
  else if !s.flag .CLI_PORT_CFG_ENABLE [p] || s.blockStopped 2 then
    match s.portChan p with
    | some ch => s.refuseFrame (8 * ch + c) 1 tag
    | none => s.releaseTag tag true
  else if s.flag .HAL_MAP_PROT [p] then s.admitBridged (s.rd .HAL_MAP_GROUP [p]) f c yellow tag
  else s.admitFrame (8 * s.rd .HAL_MAP_CHAN [p] + c) f yellow [] tag

/-- R284, R295, R296: a classified frame is policed and forwarded. -/
def State.policedFrame (s : State) (p c : Nat) (f : Frame) : State :=
  let ch := (s.portChans p).headD 63
  let t := s.drawTag false p ch c f.len s.mt
  let r := t.2.police p c f.len
  match r.1 with
  | .red =>
    let s := r.2.count .CLI_POL_RED_COUNT [p]
    match s.portChan p with
    | some x => s.refuseFrame (8 * x + c) 0 t.1
    | none => s.releaseTag t.1 true
  | colour =>
    let s := r.2.when (colour = .yellow) (·.count .CLI_POL_YELLOW_COUNT [p])
    if !s.flag .HAL_MAP_VALID [p] then (s.count .CLI_RX_NOMAP_COUNT [p]).releaseTag t.1 true
    else s.forwardEgress p c f (colour = .yellow) t.1

/-- R281, R296: a frame arrives on a port; outside Run it goes no further than the MAC (R20). -/
def State.clientFrame (s : State) (p : Nat) (f : Frame) (macControl : Bool) : State :=
  if macControl then s.macConsume p f.len f.fcsOk (·.count .CLI_RX_MACCTL_COUNT [p])
  else if !s.macHears p then s
  else
    let t := s.macCount p f.len f.fcsOk
    if f.len < 64 || s.power.state != 0 || s.blockFailed 3 then t
    else t.policedFrame p (t.classOf p f) (macFrame f)

/-! ### Priority flow control (R290 to R294) -/

/-- R327: every transmit half of a port's lanes is ON, and the MAC is not held by a stop of the Client block. -/
def State.portSends (s : State) (p : Nat) : Bool :=
  s.portDefined p && (s.portLanes p).all (fun l => s.rd .SDS_LANE_STAT_TX_HALF [l] == 0) && !s.blockStopped 2 &&
    !s.portFailed p

/-- R329: a pattern generator replaces the traffic of one of the port's lanes: what the MAC sends does not leave. -/
def State.patterned (s : State) (p : Nat) : Bool := (s.portLanes p).any (fun l => s.rd .SDS_PRBS_CTL_TX_PAT [l] != 0)

/-- R291: the PFC frame that is due carries every due class; XON ends the pause towards the router (R292). -/
def State.sendPfc (s : State) (p : Nat) : State :=
  let due := tabGet 0 s.pan.pfcDue p &&& s.rd .CLI_PFC_CFG_TX_EN [p]
  let off := tabGet 0 s.pan.pfcXoff p
  if due = 0 || !s.portSends p then s
  else
    let s := s.upTo 8 (fun s c => s.when ((due &&& off).testBit c) (·.native 9 (8 * p + c) 1))
    let t := ((s.count .CLI_PFC_TX_COUNT [p]).wr .CLI_PORT_STAT_XOFF [p]
      (clearMask (s.rd .CLI_PORT_STAT_XOFF [p]) (clearMask due off))).when (!s.patterned p)
        (·.say (.pfc p due (due &&& off) (s.rd .CLI_PFC_CFG_QUANTA [p])))
    { t with pan := { t.pan with pfcDue := tabErase t.pan.pfcDue p } }

/-- R291: PFC_FRAME_TX. -/
def execPfcFrameTx (port : Fin 32) (s : State) : Result := .next (s.begin.sendPfc port)

/-- R290, R291: a class that takes part and stays in XOFF is due again. -/
def State.repeatXoff (s : State) (p c : Nat) : State :=
  if (tabGet 0 s.pan.pfcXoff p).testBit c && (s.rd .CLI_PFC_CFG_TX_EN [p]).testBit c then
    { s with pan := { s.pan with pfcDue := tabSet 0 s.pan.pfcDue p (setBit (tabGet 0 s.pan.pfcDue p) c) } }
  else s

/-- R291: PFC_XOFF_REPEAT. -/
def execPfcXoffRepeat (port : Fin 32) (cls : Fin 8) (s : State) : Result := .next (s.begin.repeatXoff port cls)

/-- R294: one class of a received PFC frame: a pause, a new time, or the end of the pause. -/
def State.pauseClass (s : State) (p vector : Nat) (times : List Nat) (c : Nat) : State :=
  if vector.testBit c && (s.rd .CLI_PFC_CFG_RX_EN [p]).testBit c then
    if times.getD c 0 = 0 then s.unbit .CLI_PORT_STAT_PAUSED [p] c else (s.bit .CLI_PORT_STAT_PAUSED [p] c).native 10 (8 * p + c) 1
  else s

/-- R281, R294: PFC_RX. -/
def execPfcRx (port : Fin 32) (len : Nat) (fcsOk : Bool) (vector : Nat) (times : List Nat) (s : State) : Result :=
  .next (s.begin.macConsume port len fcsOk (fun s =>
    (s.count .CLI_PFC_RX_COUNT [port]).upTo 8 (fun s c => s.pauseClass port vector times c)))

/-- R294: PFC_PAUSE_EXPIRY. -/
def execPfcPauseExpiry (port : Fin 32) (cls : Fin 8) (s : State) : Result :=
  .next (s.begin.unbit .CLI_PORT_STAT_PAUSED [port] cls)

/-! ### Links (R282) -/

/-- R282: the alignment and fault state of a port change, and its link follows. -/
def State.portLink (s : State) (p : Nat) (pcs lf rf : Bool) : State :=
  if !s.portDefined p then s
  else
    let s := { s with pan := { s.pan with
      aligned := if pcs then setBit s.pan.aligned p else clearBit s.pan.aligned p } }
    ((s.wrb .CLI_PORT_STAT_LF_RX [p] lf).wrb .CLI_PORT_STAT_RF_RX [p] rf).refreshLink p

/-- R282: PORT_LINK_CHANGE. -/
def execPortLinkChange (port : Fin 32) (pcsAligned lf rf : Bool) (s : State) : Result :=
  .next (s.begin.portLink port pcsAligned lf rf)

/-! ### The test generator and checker (R297) -/

/-- R297: the checker sees a frame at its place. -/
def State.checkTest (s : State) (atPort : Bool) (place : Nat) (f : Frame) : State :=
  match f.testSeq with
  | none => s
  | some n =>
    if s.flag .HAL_TPC_CFG_EN && s.flag .HAL_TPC_CFG_SRC == atPort && s.rd .HAL_TPC_CFG_SOURCE == place then
      let gap := match s.pan.tpcLast with
        | some m => n != (m + 1) % 2 ^ 32
        | none => false
      let t := ((s.count .HAL_TPC_FRAMES_COUNT []).when (!f.payOk) (·.count .HAL_TPC_ERR_PAY_ERR [])).when gap
        (·.count .HAL_TPC_ERR_SEQ_GAP [])
      { t with pan := { t.pan with tpcLast := some n } }
    else s

/-- R297: the generator inserts its next frame. -/
def State.generate (s : State) : State :=
  if !s.flag .HAL_TPG_CFG_EN then s
  else
    let n := s.pan.tpgSeq
    let s := { s with pan := { s.pan with tpgSeq := (n + 1) % 2 ^ 32 } }
    let f : Frame := ⟨n, s.rd .HAL_TPG_CFG_LEN, true, none, none, none, some n, true⟩
    let q := 8 * s.rd .HAL_TPG_CFG_TARGET + s.rd .HAL_TPG_CFG_CLASS
    s.admitFrame (if s.flag .HAL_TPG_CFG_DIR then 512 + q % 256 else q) f false [] none

/-- R297: TPG_FRAME. -/
def execTpgFrame (s : State) : Result := .next s.begin.generate

/-! ### Delivery from the line (R73, R232, R238, R247) -/

/-- R13, R262: the segments whose tags a frame waits for, as 64 × number + channel: the present one and `later` more. -/
def State.frameWaits (s : State) (ch later : Nat) : List Nat :=
  if !s.chanCipher ch then []
  else (List.range (later + 1)).map (fun k => 64 * (tabGet 0 s.cip.segs ch + k) + ch)

/-- R14, R388: the recorded time of the ADC output of the carrier frame that held a frame's first byte: `back` carrier
frames before the latest; the present time where none is recorded. -/
def State.adcTime (s : State) (w : Wing) (back : Nat) : Nat := (s.rx.get w).adcAt.getD back s.mt

/-- R14, R388: the recorded time of the decoder output that held it, `back` blocks before the latest. -/
def State.decTime (s : State) (w : Wing) (back : Nat) : Nat := (s.dec.get w).outAt.getD back s.mt

/-- R289: a received frame of an unencrypted channel is eligible from its first cell on, when the channel's present rate is at
least the port's. -/
def State.firstCell (s : State) (w : Wing) (ch p : Nat) : Bool :=
  !s.chanCipher ch && decide (s.portRate p ≤ 5 * s.rxSlots w (chanNum ch))

/-- R14, R15, R289, R388: the tag of a received frame passes SP8: for a frame eligible from its first cell the time is that of
its first byte, within R15's bound after SP7 (a free value, assumption 4), otherwise that of its last byte, now. -/
def State.passEight (s : State) (k : Option Nat) (first : Bool) : State :=
  if first then s.passWithin k 8 500 else s.passPoint k 8

/-- R14, R247, R283, R289, R296, R388: the hallway delivers a frame of a channel, whose last byte has been demapped: it is
eligible now, unless its tags are awaited; its own tag starts at the recorded SP6 and takes the recorded SP7. -/
def State.deliver (s : State) (w : Wing) (ch : Nat) (f : Frame) (waits : List Nat) (from_ : FirstByte) : State :=
  match s.chanPort ch with
  | none => s
  | some p =>
    let unselected := match s.groupOf ch with
      | some g => s.selected g != w
      | none => false
    if unselected then s
    else
      let c := s.classOf p f
      let t := s.drawTag true p ch c f.len (s.adcTime w from_.frames)
      let s := (t.2.passAt t.1 7 (s.decTime w from_.blocks)).passEight t.1 (s.firstCell w ch p)
      if s.rd .HAL_LB_MODE [p] = 2 then s.admitFrame (8 * ch + c) f false waits t.1
      else
        let s := s.admitFrame (512 + 8 * p + c) f false waits t.1
        s.when waits.isEmpty (·.passWithin t.1 9 40)

/-- R232: under aSSF no frame of the channel is delivered; the one in progress when it began is counted. -/
def State.cutFrame (s : State) (w : Wing) (c : Nat) : State :=
  if (s.pm w c).cutting then
    (s.count .OHD_PMC_DEMAP_ERR_COUNT [w.n, c]).onPm w c (fun p => { p with cutting := false })
  else s

/-- R73: a frame leaves a channel's container. -/
def State.demap (s : State) (w : Wing) (c : Nat) (f : Frame) (later : Nat) (cut : Bool) (from_ : FirstByte) : State :=
  let ch := chanIndex w c
  if s.rxSlots w c == 0 || !s.wingRuns w then s
  else if s.ssfChan w c then s.cutFrame w c
  else if !s.delivers w then s
  else if s.chanCipher ch && !s.flag .CIP_CH_STAT_SEG_LOCK [ch] then s
  else
    let f := if cut then { f with fcsOk := false } else f
    let s := s.when cut (·.count .OHD_PMC_DEMAP_ERR_COUNT [w.n, c])
    (((s.rxOpen ch).checkTest false ch f).deliver w ch f (s.frameWaits ch later) from_)

/-- R73: LINE_FRAME_DEMAP. -/
def execLineFrameDemap (w : Wing) (ch : Fin 32) (f : Frame) (later : Fin 64) (cut : Bool) (from_ : FirstByte)
    (s : State) : Result := .next (s.begin.demap w ch f later cut from_)

end Sys2Proof.Machine
end

