-- ==== Sys2Proof/Machine/Shaping.lean ====
section
/-!
DEFINITION. The distribution matcher and the constellations: the amplitudes of each index, the composition of a block,
the ranking of its sequences, the labels and the power of a symbol (R58, R74, R75, R77, R78, R159).
-/

namespace Sys2Proof.Machine

/-- The greatest number whose square does not exceed `v`, its bits below 2^k found in turn. -/
def rootOf (v : Nat) : Nat → Nat → Nat
  | 0, r => r
  | k + 1, r => rootOf v k (if (r + 2 ^ k) ^ 2 ≤ v then r + 2 ^ k else r)

/-! ### Amplitudes (R58, R77) -/

/-- R58: the amplitudes per real dimension of an index's base. -/
def amplitudes (n : Nat) : List Nat :=
  match baseOf n with
  | 0 => [1]
  | 1 => [1, 3]
  | _ => [1, 3, 5, 7]

/-- R161: the label bits of an amplitude. -/
def labelBits (n : Nat) : Nat := baseOf n

/-- R58: the uniform indices. -/
def uniformIndex (n : Nat) : Bool := n == 0 || n == 32 || n == 64

/-- R77: the Gray label of an amplitude, by its place among the base's amplitudes. -/
def grayLabel (n k : Nat) : List Bool :=
  match baseOf n with
  | 0 => []
  | 1 => [k == 1]
  | _ => [decide (2 ≤ k), k == 1 || k == 2]

/-- R77: the amplitude, by its place, that a label selects. -/
def labelPlace (n : Nat) (l : List Bool) : Nat :=
  match baseOf n with
  | 0 => 0
  | 1 => bitNat (l.getD 0 false)
  | _ =>
    match l.getD 0 false, l.getD 1 false with
    | false, false => 0
    | false, true => 1
    | true, true => 2
    | true, false => 3

/-! ### The composition of a block (R74, R75) -/

/-- R74: exp(−8ν) in units of 10⁻¹² at each index, ν being the solution of the entropy condition (DEDUCED: assumption
58). -/
def shapeRatios : List Nat :=
  [1000000000000, 3224870399, 7381223691, 12141256014, 17427158870] ++
  [23209312920, 29479224836, 36240770358, 43506597362, 51296546924] ++
  [59637055208, 68561132577, 78108755320, 88327614855, 99274231671] ++
  [111015488506, 123630684649, 137214272283, 151879518778, 167763464273] ++
  [185033742179, 203898156643, 224618469588, 247530848487, 273077302790] ++
  [301856181635, 334707841528, 372870488304, 418291235503, 474333357350] ++
  [547739914638, 656474277022, 1000000000000, 360007806609, 376040352246] ++
  [392094467155, 408151720025, 424196890387, 440218119435, 456207011171] ++
  [472158692000, 488071840190, 503948699462, 519795093513, 535620460443] ++
  [551437928485, 567264457438, 583121074686, 599033241738, 615031398329] ++
  [631151748920, 647437384946, 663939882488, 680721592192, 697858970393] ++
  [715447536200, 733609480326, 752505826566, 772356913457, 793479324650] ++
  [816358867834, 841814699814, 871449585612, 909423458975, 1000000000000]

/-- R74: P(a) of each amplitude up to a common factor: exp(−ν a²) is exp(−ν) times a power of exp(−8ν). -/
def amplitudeWeights (n : Nat) : List Nat :=
  let r := shapeRatios.getD n 0
  let one := 10 ^ 12
  match baseOf n with
  | 0 => [1]
  | 1 => [one, r]
  | _ => [one ^ 6, r * one ^ 5, r ^ 3 * one ^ 3, r ^ 6]

/-- R75: 1,024 shares by the largest-remainder method, ties to the smaller amplitude. -/
def largestRemainder (ws : List Nat) : List Nat :=
  let t := ws.sum
  let whole := ws.map (fun x => 1024 * x / t)
  let rest := ws.map (fun x => 1024 * x % t)
  let spare := 1024 - whole.sum
  let before (i : Nat) := (List.range ws.length).countP
    (fun j => decide (rest.getD i 0 < rest.getD j 0) || (rest.getD i 0 == rest.getD j 0 && decide (j < i)))
  (List.range ws.length).map (fun i => whole.getD i 0 + bitNat (decide (before i < spare)))

/-- R75: how many amplitudes of each value a block of an index holds. -/
def composition (n : Nat) : List Nat := largestRemainder (amplitudeWeights n)

/-! ### Sequences of a composition (R159) -/

/-- The product of the 2^k numbers from `lo`, those above `m` left out. -/
def productTo (m : Nat) : Nat → Nat → Nat
  | 0, lo => if lo ≤ m then lo else 1
  | k + 1, lo => productTo m k lo * productTo m k (lo + 2 ^ k)

/-- The factorial of a number up to 1,024. -/
def factorial (m : Nat) : Nat := productTo m 10 1

/-- R159: how many distinct sequences a composition has. -/
def arrangements (c : List Nat) : Nat := factorial c.sum / (c.map factorial).foldl (· * ·) 1

/-- The sequences, of `all` that a composition of `total` amplitudes has, that begin with an amplitude held `c` times. -/
def beginning (all total c : Nat) : Nat := all * c / total

/-- The first amplitude of the sequence of a rank, by its place, with the rank among the sequences that begin so. -/
def firstOf (all total : Nat) : List Nat → Nat → Nat → Nat × Nat
  | [], i, r => (i, r)
  | c :: cs, i, r =>
    if r < beginning all total c then (i, r) else firstOf all total cs (i + 1) (r - beginning all total c)

/-- R159: the sequence of a lexicographic rank among a composition's sequences, amplitudes ordered ascending. -/
def unrank : Nat → List Nat → Nat → Nat → List Nat
  | 0, _, _, _ => []
  | k + 1, c, all, r =>
    let (i, r') := firstOf all (k + 1) c 0 r
    i :: unrank k (c.modify i (· - 1)) (beginning all (k + 1) (c.getD i 0)) r'

/-- R168: the lexicographic rank of a sequence that has the composition. -/
def rankOf : List Nat → List Nat → Nat → Nat
  | [], _, _ => 0
  | a :: as, c, all =>
    let total := as.length + 1
    ((c.take a).map (beginning all total)).sum + rankOf as (c.modify a (· - 1)) (beginning all total (c.getD a 0))

/-- R159: D(n), the matcher's input bits per block. -/
def dmBits (n : Nat) : Nat := if uniformIndex n then 32 * n else Nat.log2 (arrangements (composition n))

/-- A number read from its bits, the first most significant. -/
def valueOf (bs : List Bool) : Nat := bs.foldl (fun v b => 2 * v + bitNat b) 0

/-- The bits of a number, most significant first. -/
def bitsMsb : Nat → Nat → List Bool
  | 0, _ => []
  | k + 1, v => v.testBit k :: bitsMsb k v

/-- R159: the matcher: the amplitudes, by their places, that D(n) bits select. -/
def matchBits (n : Nat) (bs : List Bool) : List Nat :=
  unrank 1024 (composition n) (arrangements (composition n)) (valueOf bs)

/-- R168: the dematcher: the rank of a decoded sequence as D(n) bits; none where the sequence has not the index's
composition, or a rank of 2^D(n) or more. -/
def dematch (n : Nat) (as : List Nat) : Option (List Bool) :=
  let c := composition n
  if (List.range c.length).map (fun k => as.count k) == c && as.length == 1024 then
    let r := rankOf as c (arrangements c)
    if r < 2 ^ dmBits n then some (bitsMsb (dmBits n) r) else none
  else none

/-! ### Power (R47, R78) -/

/-- A real component of a symbol: its sign, and its square in units of the mean payload power per real dimension. -/
structure Level where
  minus : Bool
  square : Rat
deriving DecidableEq, Repr

/-- R78: the mean square of an index's amplitudes over a block, before scaling. -/
def meanSquare (n : Nat) : Rat :=
  let total : Nat := (((composition n).zip (amplitudes n)).map (fun e => e.1 * e.2 ^ 2)).sum
  (total : Rat) / 1024

/-- R78: a payload component: scaled so that the mean payload power is the same at every index. -/
def payloadLevel (n place : Nat) (minus : Bool) : Level :=
  let a : Nat := (amplitudes n).getD place 1
  { minus := minus, square := (a ^ 2 : Rat) / meanSquare n }

/-- R47: a component of a sync, header or pilot symbol: bit 0 is +a, bit 1 is −a, at the mean payload power. -/
def knownLevel (bit : Bool) : Level := { minus := bit, square := 1 }

/-! ### Shift registers (R47, R48, R160, R297) -/

/-- `n` more bits of the sequence whose bits are each the sum of the bits `taps` before it, after those in `h`, the latest
first. -/
def shiftMore (taps : List Nat) : Nat → List Bool → List Bool
  | 0, h => h
  | n + 1, h => shiftMore taps n ((taps.map (fun t => h.getD (t - 1) true)).foldl (· != ·) false :: h)

/-- The first `n` bits of the sequence of a generator, given by its exponents, seeded with all ones: the seed's ones come first
(assumption 63). -/
def shiftBits (taps : List Nat) (n : Nat) : List Bool :=
  (shiftMore taps (n - taps.headD 0) (List.replicate (taps.headD 0) true)).reverse.take n

end Sys2Proof.Machine
end

