-- ==== Sys2Proof/Machine/Coding.lean ====
section
/-!
DEFINITION. The 64B/66B blocks of a line channel: the blocks of a frame, the control blocks of a segment, and the container
that carries them (R63, R71, R72, R256 to R260). The block type codes and the order of a block's bits are those of IEEE 802.3
(PRESUMED, assumption 69).
-/

namespace Sys2Proof.Machine

/-! ### Bytes -/

/-- A number in `n` bytes, the most significant first. -/
def bytesMsb (n v : Nat) : List Nat := (List.range n).map (fun k => v / 256 ^ (n - 1 - k) % 256)

/-- Bytes from bits, the first bit the most significant. -/
def packBytes : List Bool → List Nat
  | a :: b :: c :: d :: e :: f :: g :: h :: bs =>
    [a, b, c, d, e, f, g, h].foldl (fun v x => 2 * v + bitNat x) 0 :: packBytes bs
  | _ => []

/-- One step of the CRC-32 of RFC 1662 and of Ethernet, least significant bit first. -/
def fcsBit (c : Nat) : Nat := if c.testBit 0 then c / 2 ^^^ 0xEDB88320 else c / 2

/-- R237, R297: the CRC-32 of RFC 1662 and of Ethernet. -/
def fcs32 (bs : List Nat) : Nat :=
  bs.foldl (fun c b => (List.range 8).foldl (fun c _ => fcsBit c) (c ^^^ b)) 0xFFFFFFFF ^^^ 0xFFFFFFFF

/-! ### Frames (R281, R297) -/

/-- R297: the bytes of a test frame up to its FCS: an Ethernet header, the sequence number and the PRBS31 payload, which starts
with the seed's ones (assumption 69). -/
def testBody (f : Frame) (n : Nat) : List Nat :=
  let k := f.len - 22
  let free := (List.range f.len).map (fun i => Config.frameByte f.ident i % 256)
  free.take 14 ++ bytesMsb 4 n ++ (if f.payOk then packBytes (shiftBits [31, 28] (8 * k)) else (free.drop 18).take k)

/-- The bytes of a frame up to its FCS. -/
def frameBody (f : Frame) : List Nat :=
  match f.testSeq with
  | some n => testBody f n
  | none => (List.range (f.len - 4)).map (fun i => Config.frameByte f.ident i % 256)

/-- The bytes of a frame: what its FCS is where it is bad, nothing states. -/
def frameBytes (f : Frame) : List Nat :=
  let body := frameBody f
  body ++ (if f.fcsOk then (bytesMsb 4 (fcs32 body)).reverse
    else (List.range 4).map (fun i => Config.frameByte f.ident (f.len - 4 + i) % 256))

/-! ### Blocks (R71) -/

/-- A control block, sync header 0b10. -/
def ctlBlock (body : List Nat) : Block66 := ⟨2, body⟩

/-- A data block, sync header 0b01. -/
def dataBlock (body : List Nat) : Block66 := ⟨1, body⟩

/-- R71: an idle block. -/
def idleBlock : Block66 := ctlBlock (0x1E :: List.replicate 7 0)

/-- R71: the start block: the start character and the seven preamble and SFD bytes. -/
def startBlock : Block66 := ctlBlock (0x78 :: (List.replicate 6 0x55 ++ [0xD5]))

/-- The types of the terminate blocks with 0 to 7 data bytes. -/
def termTypes : List Nat := [0x87, 0x99, 0xAA, 0xB4, 0xCC, 0xD2, 0xE1, 0xFF]

/-- R71: the terminate block with 0 to 7 data bytes. -/
def termBlock (bs : List Nat) : Block66 := ctlBlock ((termTypes.getD bs.length 0 :: bs) ++ List.replicate (7 - bs.length) 0)

/-- R71: the data blocks of the first 8 × n of a frame's bytes. -/
def dataBlocks : Nat → List Nat → List Block66
  | 0, _ => []
  | n + 1, bs => dataBlock (bs.take 8) :: dataBlocks n (bs.drop 8)

/-- R71: the blocks of a frame: 1 + ⌈(L + 1) / 8⌉. -/
def frameBlocks (bs : List Nat) : List Block66 :=
  startBlock :: (dataBlocks (bs.length / 8) bs ++ [termBlock (bs.drop (8 * (bs.length / 8)))])

/-- The bits of a byte, least significant first. -/
def bitsLsb (v : Nat) : List Bool := (List.range 8).map v.testBit

/-- The 66 bits of a block in the order sent: the sync header, then each byte from its least significant bit. -/
def blockBits (b : Block66) : List Bool := bitsMsb 2 b.head ++ b.body.flatMap bitsLsb

/-! ### Segments (R257 to R260) -/

/-- R258: the payload of a segment start block. -/
def ssbBytes (kp void : Bool) (counter segLen : Nat) : List Nat :=
  [0xE1, 128 * bitNat kp + 64 * bitNat void] ++ bytesMsb 4 (counter % 2 ^ 32) ++ bytesMsb 2 (segLen % 2 ^ 11)

/-- A byte of a block's payload. -/
def blockByte (b : Block66) (k : Nat) : Nat := b.body.getD k 0

/-- A control block of a type. -/
def isControl (type : Nat) (b : Block66) : Bool := b.head == 2 && blockByte b 0 == type

/-- R258: the key phase that an SSB names. -/
def ssbKp (b : Block66) : Bool := (blockByte b 1).testBit 7

/-- R258: an SSB of a void segment. -/
def ssbVoid (b : Block66) : Bool := (blockByte b 1).testBit 6

/-- R258: the counter of an SSB. -/
def ssbCounter (b : Block66) : Nat :=
  ((blockByte b 2 * 256 + blockByte b 3) * 256 + blockByte b 4) * 256 + blockByte b 5

/-- R258: the SEG_LEN of an SSB. -/
def ssbLen (b : Block66) : Nat := (blockByte b 6 * 256 + blockByte b 7) % 2048

/-- R261: a valid SSB: its sync header and type, reserved bits 0 and SEG_LEN from 63 to 2,047. -/
def ssbOk (b : Block66) : Bool :=
  isControl 0xE1 b && blockByte b 1 % 64 == 0 && blockByte b 6 / 8 == 0 && decide (63 ≤ ssbLen b)

/-- R261: the position of a segment is confirmed: TB1 to TB3 and the next SSB stand where they belong. -/
def segConfirmed (x : Segment) : Bool :=
  ssbOk x.ssb && isControl 0xE2 (x.tags.getD 0 ⟨0, []⟩) && isControl 0xE3 (x.tags.getD 1 ⟨0, []⟩) &&
    isControl 0xE4 (x.tags.getD 2 ⟨0, []⟩) && ssbOk x.next

/-- R258: the three tag blocks of a 16-byte tag. -/
def tagBlocks (tag : List Nat) : List Block66 :=
  [ctlBlock (0xE2 :: tag.take 7), ctlBlock (0xE3 :: (tag.drop 7).take 7),
   ctlBlock (0xE4 :: ((tag.drop 14).take 2 ++ List.replicate 5 0))]

/-- R259: the IV: the slot's 32-bit salt and the 64-bit segment counter. -/
def segmentIv (salt counter : Nat) : Nat := salt % 2 ^ 32 * 2 ^ 64 + counter % 2 ^ 64

/-- The bytes of a list, eight at a time. -/
def bodies : Nat → List Nat → List (List Nat)
  | 0, _ => []
  | n + 1, bs => bs.take 8 :: bodies n (bs.drop 8)

/-- R257 to R259: a segment under a slot's material (the 256-bit key followed by the 32-bit salt): the SSB, the blocks with
their payloads encrypted and their sync headers in clear, and the tag. -/
def sealedSegment (material : Nat) (kp : Bool) (counter segLen : Nat) (plain : List Block66) : List Block66 :=
  let ssb := ssbBytes kp false counter segLen
  let r := Config.gcm (material / 2 ^ 32) (segmentIv material counter) ssb (plain.flatMap (·.body))
  ctlBlock ssb :: ((plain.zip (bodies plain.length r.1)).map (fun p => ⟨p.1.head, p.2⟩) ++ tagBlocks r.2)

/-- R258: the tag that three tag blocks carry. -/
def tagOf (bs : List Block66) : List Nat :=
  let body (k n : Nat) := (((bs.getD k ⟨0, []⟩).body).drop 1).take n
  body 0 7 ++ body 1 7 ++ body 2 2

/-- R259, R262: a received segment's tag verifies under a slot's material: no bit of it is marked, and the tag is that of its
SSB and plaintext. GCM adds a keystream, so the plaintext is what it makes of the ciphertext. -/
def tagVerifies (material : Nat) (x : Segment) : Bool :=
  let gcm := Config.gcm (material / 2 ^ 32) (segmentIv material (ssbCounter x.ssb)) x.ssb.body
  !x.marked && x.body.length == ssbLen x.ssb + 1 && (gcm (gcm (x.body.flatMap (·.body))).1).2 == tagOf x.tags

/-- R260: a void segment. -/
def voidBlocks (segLen : Nat) : List Block66 :=
  ctlBlock (ssbBytes false true 0 segLen) ::
    (List.replicate (segLen + 1) idleBlock ++ tagBlocks (List.replicate 16 0))

/-! ### GCC0 (R237) -/

/-- R237: octet stuffing. -/
def stuffed (bs : List Nat) : List Nat := bs.flatMap (fun b => if b = 0x7E || b == 0x7D then [0x7D, b ^^^ 0x20] else [b])

/-- R237: a message between its flags. -/
def hdlcFrame (bs : List Nat) : List Nat := 0x7E :: (stuffed (bs ++ (bytesMsb 4 (fcs32 bs)).reverse) ++ [0x7E])

/-- R270: a KE_INIT or KE_RESP as far as its signature covers it: session number (its place, like the whole layout, is not stated),
nonce, certificate, and key or ciphertext. -/
def keBody (kind session : Nat) (m : KeMsg) : List Nat := Config.gccBytes kind [bytesMsb 2 session, m.nonce, m.cert, m.kem]

/-- R270, R271: the bytes of a message. -/
def gccBody : GccMsg → List Nat
  | .keInit n m => keBody 0 n m ++ m.signature
  | .keResp n m => keBody 1 n m ++ m.signature
  | .keFin n mac => Config.gccBytes 2 [bytesMsb 2 n, mac]
  | .keAbort n => Config.gccBytes 3 [bytesMsb 2 n]
  | .keyReady ch n gen => Config.gccBytes 4 [[ch], bytesMsb 2 n, bytesMsb 2 gen]

/-- R237: a message is handed to GCC0 of a wing. -/
def State.sendGcc (s : State) (w : Wing) (m : GccMsg) : State :=
  (s.say (.gcc w m)).onOtn w (fun o => { o with gcc := o.gcc ++ hdlcFrame (gccBody m) })

/-- R237: the GCC0 bytes of the next frame; flags fill the stream between messages. -/
def gccPair (bs : List Nat) : List Nat := [bs.getD 0 0x7E, bs.getD 1 0x7E]

/-! ### Containers (R63, R71, R72) -/

/-- R71: blocks wait for a channel's container. -/
def State.putBlocks (s : State) (ch : Nat) (bs : List Block66) : State :=
  let c := chanNum ch
  s.onOtn (chanWing ch) (fun o => { o with wait := tabSet [] o.wait c (tabGet [] o.wait c ++ bs) })

/-- R71, R256: the next `n` blocks of a channel, idle blocks where none waits, and what still waits. -/
def State.nextBlocks (s : State) (ch n : Nat) : List Block66 × State :=
  let c := chanNum ch
  let bs := tabGet [] (s.otn.get (chanWing ch)).wait c
  (bs.take n ++ List.replicate (n - bs.length) idleBlock,
    s.onOtn (chanWing ch) (fun o => { o with wait := tabSet [] o.wait c (bs.drop n) }))

/-- R257: blocks enter a channel's container. -/
def State.boxBlocks (s : State) (ch : Nat) (bs : List Block66) : State :=
  let c := chanNum ch
  s.onOtn (chanWing ch) (fun o => { o with box := tabSet [] o.box c (tabGet [] o.box c ++ bs.flatMap blockBits) })

/-- R62: the OTUC instances of a signal of M slots. -/
def otucCount (m : Nat) : Nat := ceilDiv m 20

/-- R62: the OTUC instance and tributary slot of a slot. -/
def tributary (slot : Nat) : Nat × Nat := (slot / 20 + 1, slot % 20 + 1)

/-- R62: the tributary slots of the instances that are transmitted. -/
def sentTributaries (m : Nat) : List (Nat × Nat) := ((List.range (20 * otucCount m)).filter (· < m)).map tributary

/-- R63: the slots of a channel's container, in increasing order. -/
def containerSlots (map : List Nat) (c : Nat) : List Nat := (List.range map.length).filter (fun j => map.getD j 63 == c)

/-- R225, R226: even bit-interleaved parity over bytes. -/
def bip8 (bs : List Nat) : Nat := bs.foldl (· ^^^ ·) 0

/-- Bits followed by as many idle blocks as make `need` of them. -/
def padIdle (bits : List Bool) (need : Nat) : List Bool :=
  bits ++ (List.replicate (ceilDiv (need - bits.length) 66) idleBlock).flatMap blockBits

/-- R71, R228, R256: the bits of a channel's container from now on, `need` of them at least, and those that a LCK holds back: what
stands in it, on a channel in clear the blocks that wait, and idle blocks; under LCK the rest of the block in progress and
then idle blocks only, while the other blocks wait. -/
def State.containerBits (s : State) (w : Wing) (c need : Nat) (lck : Bool) : List Bool × List Bool :=
  let o := s.otn.get w
  let box := tabGet [] o.box c
  if lck then (padIdle (box.take (box.length % 66)) need, box.drop (box.length % 66))
  else if s.chanCipher (chanIndex w c) then (padIdle box need, [])
  else (padIdle (box ++ (tabGet [] o.wait c).flatMap blockBits) need, [])

/-- R63, R215: a channel's container gives a frame 760 bytes for each of its k slots. -/
def State.fillFrame (s : State) (w : Wing) (c k : Nat) (lck : Bool) : List Nat × State :=
  let need := 6080 * k
  let r := s.containerBits w c need lck
  (packBytes (r.1.take need), s.onOtn w (fun o => { o with
    box := tabSet [] o.box c (r.1.drop need ++ r.2)
    wait := if lck || s.chanCipher (chanIndex w c) then o.wait else tabErase o.wait c }))

end Sys2Proof.Machine
end

