-- ==== Sys2Proof/Machine/Sched.lean ====
section
/-!
DEFINITION. The scheduler: eligibility, selection and the gate control lists (R302 to R317).
-/

namespace Sys2Proof.Machine

/-! ### Eligibility (R303) -/

/-- R260, R24, R38: an encrypted channel takes frames: its segments are under a key, the Cipher block runs and a segment
context is free. -/
def State.keyedOut (s : State) (ch : Nat) : Bool :=
  let slot := 4 * ch + s.rd .CIP_CH_STAT_TX_KP [ch]
  !s.chanCipher ch || (!s.flag .CIP_CH_STAT_TX_VOID [ch] && !s.halted 4 &&
    (s.rd .CIP_SLOT_STAT_STATE [slot] == 3 || s.rd .CIP_SLOT_STAT_STATE [slot] == 4) &&
    decide (s.cip.contexts.length < 4096))

/-- R295, R303, R357, R366: an egress queue is eligible; the channels of a wing that does not run, and a channel without a
mapped port, drain nothing. -/
def State.eligibleOut (s : State) (q : Nat) : Bool :=
  let ch := q / 8
  s.wingRuns (chanWing ch) && (s.chanPort ch).isSome && s.chanSlots ch != 0 && s.chanEnabled ch && !s.halted 3 &&
    (s.gates ch).testBit (q % 8) && !s.inGuard q && !s.shaped q && s.keyedOut ch

/-- R294: the class is paused by the router. -/
def State.pausedIn (s : State) (q : Nat) : Bool :=
  (s.rd .CLI_PORT_STAT_PAUSED [(q - 512) / 8]).testBit (q % 8)

/-- R303, R356: an ingress queue is eligible, whatever the Switch block does; the scheduler is clocked in Run. -/
def State.eligibleIn (s : State) (q : Nat) : Bool :=
  let p := (q - 512) / 8
  s.power.state == 0 && s.flag .CLI_PORT_STAT_LINK [p] && s.flag .CLI_PORT_CFG_ENABLE [p] && s.portSends p &&
    !s.shaped q && !s.pausedIn q

/-- R303: the queue is eligible at a decision point. -/
def State.eligible (s : State) (q : Nat) : Bool :=
  (match s.queue q with
    | [] => false
    | x :: _ => x.waits.isEmpty) && (if q < 512 then s.eligibleOut q else s.eligibleIn q)

/-- R305, R306: of two eligible queues, the one that is served: the higher group, then the smaller start tag, then the
higher class. -/
def State.served (s : State) (best q : Nat) : Nat :=
  let g := s.groupQ q
  let gb := s.groupQ best
  let a := tabGet 0 s.sched.tagS q
  let b := tabGet 0 s.sched.tagS best
  if gb < g then q
  else if g < gb then best
  else if tagLt b a then best
  else q

/-- R305, R318: the queue that an instance serves; a stopped Switch block selects nothing. -/
def State.choose (s : State) (inst : Nat) : Option Nat :=
  if s.halted 3 then none
  else (((List.range 8).map (8 * inst + ·)).filter s.eligible).foldl
    (fun b q => match b with
      | none => some q
      | some x => some (s.served x q)) none

/-! ### Selection (R304 to R307, R373, R374) -/

/-- The time in ns that a frame takes in its channel's container. -/
def State.containerTime (s : State) (ch len : Nat) : Nat :=
  ceilDiv (s.blocksOf ch len * 66) (5 * max 1 (s.chanSlots ch))

/-- R243: another copy of a bridged frame is still to be read from its cells. -/
def State.copyLeft (s : State) (x : Queued) : Bool :=
  match x.bridge.bind (tabFind s.pan.bridges) with
  | some b => decide (1 < b.copies)
  | none => false

/-- R373: an uncorrectable error of a frame's cells; the other copy of a bridged frame will meet it too. -/
def State.cellsBad (s : State) (x : Queued) (l : MemLine) : State :=
  let t := (s.uncorrectable l).evt .RAS_EVT_UE_DATA
  if s.copyLeft x then { t with ras := { t.ras with injected := (l, true) :: t.ras.injected } } else t

/-- R370, R373: the cells of a frame are read: a frame with an uncorrectable error ends with a bad FCS. -/
def State.readCells (s : State) (x : Queued) (line : MemLine) (found : EccRead) : Frame × State :=
  let l := if line.mem.val = 0 && found ≠ .clean then line else lineAt 0 x.place
  let e := s.foundAt l (if line.mem.val = 0 then found else .clean)
  match e with
  | .clean => (x.frame, s)
  | .single => (x.frame, s.correct l)
  | .double => ({ x.frame with fcsOk := false }, s.cellsBad x l)

/-- The descriptor of a frame is read. -/
def State.descFound (s : State) (x : Queued) (line : MemLine) (found : EccRead) : MemLine × EccRead :=
  let l := if line.mem.val = 1 && found ≠ .clean then line else lineAt 1 x.descPlace
  (l, s.foundAt l (if line.mem.val = 1 then found else .clean))

/-- R71, R73: a frame is mapped into its channel's container. MAP_FILL counts its own blocks: the start and tag blocks of an
encrypted channel's segments (R257) are no part of it (DESIGN CHOICE: R73 does not say whether they are; assumption 80). -/
def State.mapFrame (s : State) (ch : Nat) (f : Frame) : State :=
  let m := tabGet (0, 0) s.sched.mapped ch
  let s := s.putBlocks ch (frameBlocks (frameBytes f))
  { s with sched := { s.sched with
    mapped := tabSet (0, 0) s.sched.mapped ch (m.1 + 1, m.2 + 1 + ceilDiv (f.len + 1) 8) } }

/-- R388: the tag of a frame handed on passes its last points and is released. -/
def State.tagOut (s : State) (q : Nat) (tag : Option Nat) : State :=
  if q < 512 then
    let baud := max 1 (s.rd .TXW_RATE_BAUD [(chanWing (q / 8)).n])
    (((((s.passPoint tag 2).passWithin tag 3 600).passWithin tag 4 350).passWithin tag 5
      (1400 * 1360 / baud)).releaseTag tag false)
  else (((s.passPoint tag 10).passWithin tag 11 220).releaseTag tag false)

/-- A frame leaves the scheduler: into its channel's container, or to its port's MAC. -/
def State.handOn (s : State) (q : Nat) (f : Frame) : State :=
  if q < 512 then (s.mapFrame (q / 8) f).say (.lineFrame (q / 8) f)
  else
    let p := (q - 512) / 8
    let s := (s.count .CLI_TX_FRAMES_COUNT [p]).checkTest true p f
    s.when (!s.patterned p) (·.say (.portFrame p f))

/-- R306, R307: the selection is charged: V takes the start tag, the tokens fall by the counted length. -/
def State.charge (s : State) (q len : Nat) : State :=
  let v := tabSet 0 s.sched.virt (virtKey q (s.groupQ q)) (tabGet 0 s.sched.tagS q)
  let t := (({ s with sched := { s.sched with virt := v } }).setTokens q (s.tokens q - 256 * s.lenC q len)).countQ
    .SCH_EQ_DEQ_COUNT .SCH_IQ_DEQ_COUNT q
  (t.native 5 q 1).native 6 q len

/-- The instance is busy with a frame of a class until its end. -/
def State.busyWith (s : State) (q len : Nat) : State :=
  if q < 512 then
    let e := (q % 8, s.gateNow (q / 8) + s.containerTime (q / 8) len)
    { s with sched := { s.sched with handing := tabSet (8, 0) s.sched.handing (instOf q) e } }
  else s

/-- R306: the head of a queue is handed on. -/
def State.select (s : State) (q : Nat) (line : MemLine) (found : EccRead) : State :=
  match s.queue q with
  | [] => s
  | x :: _ =>
    let d := s.descFound x line found
    match d.2 with
    | .double => (s.ueControl d.1).flushDamaged q x.descPlace
    | r =>
      let r := (s.when (r = .single) (·.correct d.1)).readCells x line found
      (((((r.2.charge q x.frame.len).busyWith q x.frame.len).pop q).handOn q r.1).tagOut q x.tag)

/-! ### Pass-through (R289) -/

/-- R289: a frame that has just found its egress queue empty passes straight through: the scheduler would select the
queue at once, and the channel is no faster than the port. -/
def State.passesThrough (s t : State) (p q : Nat) : Bool :=
  (s.queue q).isEmpty && (t.queue q).length == 1 && t.choose (instOf q) == some q &&
    decide ((tabGet (8, 0) t.sched.handing (instOf q)).2 ≤ t.gateNow (q / 8)) &&
    decide (t.drainRate q ≤ t.drainRate (512 + 8 * p))

/-- R289: the head of a queue passes straight through, as it was received: counted, and handed on at once. -/
def State.passOn (s : State) (q : Nat) : State :=
  match s.queue q with
  | [] => s
  | x :: _ =>
    let s := ((s.native 8 q 1).charge q x.frame.len).busyWith q x.frame.len
    ((s.pop q).handOn q x.frame).tagOut q x.tag

/-- R289: the frames in pass-through that a client frame led to. -/
def State.passThrough (s t : State) (p c : Nat) : State :=
  (t.portChans p).foldl (fun u ch => u.when (s.passesThrough t p (8 * ch + c)) (·.passOn (8 * ch + c))) t

/-- R281: CLIENT_FRAME_RX. -/
def execClientFrameRx (port : Fin 32) (f : Frame) (macControl : Bool) (s : State) : Result :=
  let s := s.begin
  .next (s.passThrough (s.clientFrame port f macControl) port (s.classOf port f))

/-- R306: SCHED_SELECT. -/
def execSchedSelect (inst : Fin 96) (line : MemLine) (found : EccRead) (s : State) : Result :=
  let s := s.begin
  .next (match s.choose inst with
    | none => s
    | some q => s.select q line found)

/-! ### Gate control lists (R311 to R317) -/

/-- R316: a frame still being handed on when its class's gate closes. -/
def State.overrun (s : State) (ch oldGates newGates at_ : Nat) : State :=
  let h := tabGet (8, 0) s.sched.handing ch
  if oldGates.testBit h.1 && !newGates.testBit h.1 && decide (h.1 < 8) && decide (at_ < h.2) then
    (s.countWrap .SCH_GATE_OVR_COUNT [ch]).evt .SCH_EVT_GATE_OVR
  else s

/-- Show the entry and gates in force. -/
def State.showGates (s : State) (ch : Nat) : State :=
  (s.wr .SCH_GCL_STAT_GATES [ch] (s.gates ch)).wr .SCH_GCL_STAT_ENTRY [ch]
    ((s.gateList ch).at_ (s.gateNow ch)).1

/-- The scheduler's time for a channel reaches the start of an entry. -/
def State.setEntryAt (s : State) (ch t : Nat) : State :=
  { s with sched := { s.sched with entryAt := tabSet 0 s.sched.entryAt ch t } }

/-- R312: the channel's next entry starts. -/
def State.nextEntry (s : State) (ch : Nat) : State :=
  let l := s.gateList ch
  let t := s.gateNow ch + (l.at_ (s.gateNow ch)).2.2
  let old := s.gates ch
  let s := s.setEntryAt ch t
  let u := s.when (l.offset t = 0) (·.takeGateEn ch)
  ((u.overrun ch old (u.gates ch) t).when (u.sched.gated != s.sched.gated) (·.reguard ch)).showGates ch

/-- R314: what a channel's scheduler keeps of its time when module time steps by itself: a frame being handed on keeps
its remaining time, and no entry's start stands. -/
def State.shiftGate (s was : State) (ch : Nat) : State :=
  let h := tabGet (8, 0) s.sched.handing ch
  let e := (h.1, s.mt + (h.2 - was.gateNow ch))
  { s with sched := { s.sched with
    handing := if h.1 < 8 then tabSet (8, 0) s.sched.handing ch e else s.sched.handing
    entryAt := tabErase s.sched.entryAt ch } }

/-- R314, R316: after a step of module time the schedule continues from the position of the new time, and a closure that
it thereby reaches is overrun by a frame in progress. -/
def State.stepGate (s was : State) (ch : Nat) : State :=
  let t := s.shiftGate was ch
  (t.overrun ch (was.gates ch) (t.gates ch) t.mt).showGates ch

/-- R312: GCL_ENTRY_START. -/
def execGclEntryStart (ch : Fin 64) (s : State) : Result := .next (s.begin.nextEntry ch)

/-- R313: T_new: the first BASE + j × CYCLE of the staged values at least 1 µs from now. -/
def State.newTime (s : State) (ch : Nat) : Nat :=
  let t := s.gateNow ch + 1000
  let off := (s.stagedList ch).offset t
  if off = 0 then t else t + (s.rd .SCH_GCL_CYCLE_CYCLE [ch] - off)

/-- R313: the staged bank is to become operative at T_new. -/
def State.activateGates (s : State) (ch : Nat) : State :=
  let t := s.wrb .SCH_GCL_STAT_PENDING [ch] true
  { t with sched := { t.sched with tNew := tabSet 0 t.sched.tNew ch (s.newTime ch) } }

/-- R313: GCL_ACTIVATE. -/
def execGclActivate (req : Req) (ch : Fin 64) (s : State) : Result := .next (s.begin.via req (·.activateGates ch))

/-- R313, R317: the staged cycle or base is written; a pending activation computes T_new afresh. -/
def State.gateTiming (s : State) (ch : Nat) (cycle base : Option Nat) : State :=
  let s := match cycle with
    | some c => s.wr .SCH_GCL_CYCLE_CYCLE [ch] (max 1000 (min 1000000000 c))
    | none => s
  let s := match base with
    | some b => s.wrWide .SCH_GCL_BASE_LO_BASE .SCH_GCL_BASE_HI_BASE [ch] (b % 2 ^ 64)
    | none => s
  s.when (s.flag .SCH_GCL_STAT_PENDING [ch]) (·.activateGates ch)

/-- R313: GCL_TIMING_WRITE. -/
def execGclTimingWrite (req : Req) (ch : Fin 64) (cycle base : Option Nat) (s : State) : Result :=
  .next (s.begin.via req (·.gateTiming ch cycle base))

/-- R313: at T_new the staged list becomes operative from its entry 0. -/
def State.swapGates (s : State) (ch : Nat) : State :=
  if !s.flag .SCH_GCL_STAT_PENDING [ch] then s
  else
    let t := max s.mt (tabGet 0 s.sched.tNew ch)
    let old := s.gates ch
    let s := (s.wrb .SCH_GCL_STAT_PENDING [ch] false).setEntryAt ch t
    let s := { s with sched := { s.sched with
      oper := tabSet GateList.open_ s.sched.oper ch (s.stagedList ch), tNew := tabErase s.sched.tNew ch } }
    let s := s.takeGateEn ch
    (((s.overrun ch old (s.gates ch) t).reguard ch).showGates ch).evt .SCH_EVT_GCL_SWAPPED

/-- R313: GCL_SWAP. -/
def execGclSwap (ch : Fin 64) (s : State) : Result := .next (s.begin.swapGates ch)

/-- R317: entry IDX of the staged bank is stored, and IDX advances. -/
def State.storeEntry (s : State) (ivl : Nat) : State :=
  let ch := s.rd .SCH_GCL_WSEL_CH
  let i := s.rd .SCH_GCL_WSEL_IDX
  let e := (s.rd .SCH_GCL_WGATE_GATES, max 1 (min 1000000000 ivl))
  ({ s with sched := { s.sched with staged := tabSet (0, 0) s.sched.staged (256 * ch + i) e } }).wr
    .SCH_GCL_WSEL_IDX [] (i + 1)

/-- R317: GCL_WIVL_WRITE. -/
def execGclWivlWrite (req : Req) (ivl : Nat) (s : State) : Result := .next (s.begin.via req (·.storeEntry ivl))

end Sys2Proof.Machine
end

