-- ==== Sys2Proof/Machine/Overhead.lean ====
section
/-!
DEFINITION. A transmitted OTN frame as it stands in the information bits: its overhead block, its slots, the scrambler and
the gap (R61, R62, R215 to R219).
-/

namespace Sys2Proof.Machine

/-- R219: the overhead block, row by row. -/
def OtnSent.block (o : OtnSent) : List (List Nat) :=
  [[0xF6, 0xF6, 0xF6, 0x28, 0x28, 0x28, o.mfas, o.tti, o.bip, 16 * o.bei + 8 * bitNat o.bdi + 4 * bitNat o.iae + o.ais] ++
      o.gcc ++ [0, o.mfx, 0, 0],
   List.replicate 16 0,
   List.replicate 9 0 ++ [o.pmTti, o.pmBip, 16 * o.pmBei + 8 * bitNat o.pmBdi + o.pmStat] ++ List.replicate 4 0,
   List.replicate 4 0 ++ bytesMsb 4 o.aps ++ List.replicate 8 0]

/-- R61, R63, R215: the 190 bytes of a slot in a row: those of its channel's container in the order of its slots, zero bytes
in an unassigned slot. -/
def OtnSent.slotBytes (o : OtnSent) (row slot : Nat) : List Nat :=
  let c := o.map.getD slot 63
  let bs := (o.cont.find? (fun e => e.1 == c)).map (·.2)
  let k := slotCount o.map c
  let j := slotCount (o.map.take slot) c
  (List.range 190).map (fun i => (bs.getD []).getD (190 * (row * k + j) + i) 0)

/-- R215: a row: its overhead bytes and the slots in order. -/
def OtnSent.row (o : OtnSent) (row : Nat) : List Nat :=
  o.block.getD row [] ++ (List.range o.slots).flatMap (o.slotBytes row)

/-- R215: the L_F = 64 + 760M bytes of a frame. -/
def OtnSent.bytes (o : OtnSent) : List Nat := (List.range 4).flatMap o.row

/-- R217: the bits of the scrambler from the first bit of the MFAS byte on. -/
def scramblerBits (n : Nat) : List Bool := shiftBits [16, 12, 3, 1] n

/-- R216, R217: the information bits from a frame start to the next: the FAS in clear, then the rest of the frame and the zero
gap, scrambled. -/
def OtnSent.wire (o : OtnSent) : List Bool :=
  let bits := o.bytes.flatMap (bitsMsb 8)
  let rest := bits.drop 48 ++ List.replicate (o.spacing - bits.length) false
  bits.take 48 ++ List.zipWith (· != ·) rest (scramblerBits rest.length)

end Sys2Proof.Machine
end

