-- ==== Sys2Proof/Machine/Protect.lean ====
section
/-!
DEFINITION. Line protection between the wings: conditions, requests, selection, APS and the commands (R242 to R255).
-/

namespace Sys2Proof.Machine

/-! ### Conditions as the selector takes them (R245, R246) -/

/-- The COND field of a member. -/
def condRow : Wing → Row
  | .a => .HAL_PG_STAT_COND_A
  | .b => .HAL_PG_STAT_COND_B

/-- R254: the HOLD bit of a member: [21] CH_A, [20] CH_B. -/
def holdBit : Wing → Nat
  | .a => 1
  | .b => 0

/-- R246: the member's hold-off timer runs. -/
def State.holding (s : State) (g : Nat) (w : Wing) : Bool := (s.rd .HAL_PG_STAT_HOLD [g]).testBit (holdBit w)

/-- R246: the condition that the selector acts on: OK during hold-off. -/
def State.taken (s : State) (g : Nat) (w : Wing) : Nat := if s.holding g w then 0 else s.rd (condRow w) [g]

/-- R242: the working member. -/
def State.working (s : State) (g : Nat) : Wing := if s.flag .HAL_PG_CFG_WORK_B [g] then .b else .a

/-! ### Requests (R248) -/

/-- A request: its priority, its code, and whether it selects protection. -/
structure Ask where
  prio : Nat
  code : Nat
  protection : Bool
deriving DecidableEq, Repr

/-- R248: the highest-priority request that is present. -/
def State.localAsk (s : State) (g : Nat) : Ask :=
  let held := s.rd .HAL_PG_STAT_CMD_HELD [g]
  let w := s.taken g (s.working g)
  let p := s.taken g (s.working g).other
  if held = 2 then ⟨1, 15, false⟩
  else if p = 2 then ⟨2, 14, false⟩
  else if held = 3 then ⟨3, 13, true⟩
  else if w = 2 then ⟨4, 11, true⟩
  else if p = 1 then ⟨5, 9, false⟩
  else if w = 1 then ⟨6, 9, true⟩
  else if held = 4 then ⟨7, 7, true⟩
  else if held = 5 then ⟨7, 7, false⟩
  else if s.flag .HAL_PG_STAT_WTR_RUN [g] then ⟨8, 5, true⟩
  else if (tabGet Group.reset s.groups g).dnr then ⟨9, 1, true⟩
  else ⟨10, 0, false⟩

/-- R250: the accepted APS value that the group goes by, if there is one. -/
def State.farValue (s : State) (g : Nat) : Option Nat :=
  let x := tabGet Group.reset s.groups g
  let one (w : Wing) : Option Nat :=
    let ch := s.memberChan g w
    if x.seen.get w && !s.ssfChan w (chanNum ch) then some (s.rd .OHD_APS_RX_VALUE [w.n, chanNum ch]) else none
  match one x.later with
  | some v => some v
  | none => one x.later.other

/-- R248, R251: a far request by its code and requested signal. -/
def askOf (v : Nat) : Ask :=
  let code := v / 2 ^ 28 % 16
  let sig := v / 2 ^ 16 % 256 == 1
  match code with
  | 15 => ⟨1, 15, false⟩
  | 14 => ⟨2, 14, false⟩
  | 13 => ⟨3, 13, true⟩
  | 11 => ⟨4, 11, true⟩
  | 9 => if sig then ⟨6, 9, true⟩ else ⟨5, 9, false⟩
  | 7 => ⟨7, 7, sig⟩
  | 5 => ⟨8, 5, true⟩
  | 1 => ⟨9, 1, true⟩
  | _ => ⟨10, code, false⟩

/-- R250: the far request. -/
def State.farAsk (s : State) (g : Nat) : Ask :=
  match s.farValue g with
  | some v => askOf v
  | none => ⟨10, 0, false⟩

/-- R251: whether protection is to be selected. -/
def State.wantProtection (s : State) (g : Nat) : Bool :=
  let l := s.localAsk g
  let f := s.farAsk g
  let now := s.selected g != s.working g
  if s.flag .HAL_PG_CFG_BIDIR [g] && !s.flag .HAL_PG_STAT_FOP [g] then
    if f.prio < l.prio then f.protection
    else if l.prio < f.prio then l.protection
    else if l.protection == f.protection then l.protection
    else now
  else l.protection

/-- R250: the APS/PCC bytes that both members send. -/
def State.apsValue (s : State) (g : Nat) : Nat :=
  let l := s.localAsk g
  let sig := if l.code = 9 then l.protection else s.selected g != s.working g
  (16 * l.code + 8 + 2 * s.rd .HAL_PG_CFG_BIDIR [g] + s.rd .HAL_PG_CFG_REVERT [g]) * 2 ^ 24 +
    bitNat sig * 2 ^ 16 + 2 ^ 8

/-- R250: show the requests and the bytes to send. -/
def State.showAsks (s : State) (g : Nat) : State :=
  let v := s.apsValue g
  (((s.wr .HAL_PG_STAT_LOCAL_REQ [g] (s.localAsk g).code).wr .HAL_PG_STAT_FAR_REQ [g] (s.farAsk g).code).wr
    .OHD_APS_TX_VALUE [0, chanNum (s.memberChan g .a)] v).wr .OHD_APS_TX_VALUE [1, chanNum (s.memberChan g .b)] v

/-! ### Selection (R247, R249, R251) -/

/-- R247, R301: the selection changes to a member, and PFC follows. -/
def State.selectMember (s : State) (g : Nat) (w : Wing) : State :=
  let p := s.rd .HAL_PG_MEMBERS_PORT [g]
  ((((s.wrb .HAL_PG_STAT_SEL_B [g] (w = .b)).countWrap .HAL_PG_CNT_SWITCHES [g]).evt .HAL_PG_EVT_SEL_CHANGE [] g)).upTo
    8 (fun s c => s.watchClass p c true)

/-- R248: a manual switch is removed when a request of priority 1 to 6 arises. -/
def State.dropManual (s : State) (g : Nat) : State :=
  if (s.localAsk g).prio ≤ 6 && decide (4 ≤ s.rd .HAL_PG_STAT_CMD_HELD [g]) then
    s.wr .HAL_PG_STAT_CMD_HELD [g] 0
  else s

/-- R249: a request of priority 1 to 6 ends wait-to-restore; a request that selects working ends do-not-revert. -/
def State.endWaits (s : State) (g : Nat) : State :=
  let l := s.localAsk g
  let s := s.when (decide (l.prio ≤ 6)) (·.wrb .HAL_PG_STAT_WTR_RUN [g] false)
  if !l.protection && decide (l.prio ≤ 7) then
    { s with groups := tabSet Group.reset s.groups g { tabGet Group.reset s.groups g with dnr := false } }
  else s

/-- R248 to R251: the group's requests are evaluated again, and the selection follows unless the Switch block is
stopped. -/
def State.reselect (s : State) (g : Nat) : State :=
  if !s.flag .HAL_PG_MEMBERS_VALID [g] then s
  else
    let s := (s.dropManual g).endWaits g
    let w := if s.wantProtection g then (s.working g).other else s.working g
    let s := s.when (!s.halted 3 && s.selected g != w) (·.selectMember g w)
    s.showAsks g

/-- R249: the working member returned to OK from a condition that had selected protection. -/
def State.startRestore (s : State) (g : Nat) : State :=
  if s.flag .HAL_PG_CFG_REVERT [g] then s.wrb .HAL_PG_STAT_WTR_RUN [g] true
  else { s with groups := tabSet Group.reset s.groups g { tabGet Group.reset s.groups g with dnr := true } }

/-- R246, R249: a member's condition is taken, and the requests are evaluated. -/
def State.takeCond (s : State) (g : Nat) (w : Wing) (cond : Nat) : State :=
  let before := s.localAsk g
  let t := (s.wr (condRow w) [g] cond).unbit .HAL_PG_STAT_HOLD [g] (holdBit w)
  let back := w == s.working g && cond == 0 && (before.prio == 4 || before.prio == 6) &&
    s.selected g != s.working g
  (t.when back (·.startRestore g)).reselect g

/-- R246: a source of a member's condition changes. Where the condition stays as it is, the far request may still come
from the other member (R250), so the requests are evaluated all the same. -/
def State.condChange (s : State) (g : Nat) (w : Wing) : State :=
  let new := s.memberCond g w
  let old := s.rd (condRow w) [g]
  if !s.flag .HAL_PG_MEMBERS_VALID [g] || s.halted 3 then s
  else if new = old then s.reselect g
  else if s.holding g w then
    if new = 0 then s.takeCond g w 0 else (s.wr (condRow w) [g] new).reselect g
  else if old = 0 && s.rd .HAL_PG_CFG_HOLDOFF [g] != 0 then
    ((s.wr (condRow w) [g] new).bit .HAL_PG_STAT_HOLD [g] (holdBit w)).reselect g
  else s.takeCond g w new

/-- R246: PG_CONDITION_CHANGE. -/
def execPgConditionChange (g : Fin 8) (m : Wing) (s : State) : Result := .next (s.begin.condChange g m)

/-- R246: HOLDOFF_EXPIRY: the condition is taken as it then stands. -/
def execHoldoffExpiry (g : Fin 8) (m : Wing) (s : State) : Result :=
  let s := s.begin
  .next (if s.holding g m && !s.halted 3 then s.takeCond g m (s.memberCond g m) else s)

/-- R249: WTR_EXPIRY: the group reverts to working. -/
def execWtrExpiry (g : Fin 8) (s : State) : Result :=
  let s := s.begin
  .next (if s.flag .HAL_PG_STAT_WTR_RUN [g] && !s.halted 3 then
    (s.wrb .HAL_PG_STAT_WTR_RUN [g] false).reselect g
  else s)

/-! ### Commands (R248) -/

/-- R248: a command is taken if it outranks the present local request, and otherwise refused. -/
def State.pgCommand (s : State) (g held prio : Nat) : State :=
  if !s.flag .HAL_PG_MEMBERS_VALID [g] then s
  else if prio < (s.localAsk g).prio then (s.wr .HAL_PG_STAT_CMD_HELD [g] held).reselect g
  else s.wrb .HAL_PG_STAT_CMD_REFUSED [g] true

/-- R248: PG_CLEAR. -/
def execPgClear (req : Req) (g : Fin 8) (s : State) : Result :=
  .next (s.begin.via req (fun s =>
    ((s.wr .HAL_PG_STAT_CMD_HELD [g] 0).wrb .HAL_PG_STAT_WTR_RUN [g] false).reselect g))

/-- R248: PG_LOCKOUT. -/
def execPgLockout (req : Req) (g : Fin 8) (s : State) : Result := .next (s.begin.via req (·.pgCommand g 2 1))

/-- R248: PG_FORCE. -/
def execPgForce (req : Req) (g : Fin 8) (s : State) : Result := .next (s.begin.via req (·.pgCommand g 3 3))

/-- R248: PG_MANUAL_P. -/
def execPgManualP (req : Req) (g : Fin 8) (s : State) : Result := .next (s.begin.via req (·.pgCommand g 4 7))

/-- R248: PG_MANUAL_W. -/
def execPgManualW (req : Req) (g : Fin 8) (s : State) : Result := .next (s.begin.via req (·.pgCommand g 5 7))

/-! ### Failure of protocol (R252) -/

/-- R252: a cause of failure of protocol is present: the far D or R bit differs, or its requested signal. -/
def State.fopCause (s : State) (g : Nat) : Bool :=
  match s.farValue g with
  | none => false
  | some v =>
    (v.testBit 25 != s.flag .HAL_PG_CFG_BIDIR [g]) || (v.testBit 24 != s.flag .HAL_PG_CFG_REVERT [g]) ||
      ((v / 2 ^ 16 % 256 == 1) != (s.selected g != s.working g))

/-- R252: FOP_RAISE; the timers of a stopped Switch block stand still (R255). -/
def execFopRaise (g : Fin 8) (s : State) : Result :=
  let s := s.begin
  .next (if s.flag .HAL_PG_CFG_BIDIR [g] && s.fopCause g && !s.flag .HAL_PG_STAT_FOP [g] && !s.halted 3 then
    ((((s.wrb .HAL_PG_STAT_FOP [g] true).countWrap .HAL_PG_CNT_FOP [g]).evt .HAL_PG_EVT_FOP [] g)).reselect g
  else s)

/-- R252: FOP_CLEAR. -/
def execFopClear (g : Fin 8) (s : State) : Result :=
  let s := s.begin
  .next (if s.flag .HAL_PG_STAT_FOP [g] && (!s.fopCause g || !s.flag .HAL_PG_CFG_BIDIR [g]) && !s.halted 3 then
    (s.wrb .HAL_PG_STAT_FOP [g] false).reselect g
  else s)

end Sys2Proof.Machine
end

