-- ==== Sys2Proof/Machine/Otn.lean ====
section
/-!
DEFINITION. The overhead processor: frames, alignment, error monitoring, defects, failures and APS acceptance (R215 to
R239).
-/

namespace Sys2Proof.Machine

/-- R158: the information bits of a superframe. -/
def infoBits (n fec : Nat) : Nat := codeRate fec * (32 + n) * 8225280 / 16000

/-- R216: S in 2⁻²⁴ bits, with the symbol rate in 0.25 GBd units. -/
def spacingS (baud n fec : Nat) : Nat := infoBits n fec * 1216 * baud

/-- One byte of a trace held in registers of 4 bytes, the first in the highest bits. -/
def wordByte (word i : Nat) : Nat := word / 2 ^ (8 * (3 - i % 4)) % 256

/-- Four bytes as a word. -/
def byteWord (bs : List Nat) (k : Nat) : Nat :=
  ((bs.getD (4 * k) 0 * 256 + bs.getD (4 * k + 1) 0) * 256 + bs.getD (4 * k + 2) 0) * 256 + bs.getD (4 * k + 3) 0

/-! ### Transmission (R215 to R220, R225 to R229) -/

/-- R235: the channel is a member of a protection group. -/
def State.isMember (s : State) (w : Wing) (c : Nat) : Bool := (s.groupOf (chanIndex w c)).isSome

/-- R215, R225 to R229: the next frame, with the bytes of the containers that it carries. -/
def State.nextFrame (s : State) (w : Wing) (map : List Nat) (cont : List (Nat × List Nat)) : OtnSent :=
  let o := s.otn.get w
  let c := o.mfas % 32
  let i := [w.n]
  let step := spacingS (s.rd .TXW_LINE_CUR_BAUD i) (s.rd .TXW_LINE_CUR_H_IDX i) (s.rd .TXW_LINE_CUR_FEC i)
  let pi := (o.mfas / 32 + 8 * o.mfx) % 64
  { slots := slotsOf (s.rd .TXW_LINE_CUR_BAUD i) (s.rd .TXW_LINE_CUR_H_IDX i) (s.rd .TXW_LINE_CUR_FEC i)
    map := map
    cont := cont
    bip := o.parity.getD 1 0
    gcc := gccPair o.gcc
    pmBip := tabGet 0 o.pmParity c
    mfas := o.mfas
    mfx := o.mfx
    tti := wordByte (s.rd .OHD_SM_TTI_TX_BYTES [w.n, o.mfas % 64 / 4]) (o.mfas % 64)
    bei := if s.flag .OHD_SM_DEF_IAE i then 11 else o.bei
    bdi := s.smBdi w
    iae := o.iae != 0
    ais := if s.flag .OHD_SM_CFG_TX_AIS i then 3 else 0
    pmTti := wordByte (s.rd .OHD_TTI_TX_BYTES [w.n, c, pi / 4]) pi
    pmBei := (s.pm w c).bei
    pmBdi := s.ssfChan w c
    pmStat := s.pmStat w c
    aps := if s.isMember w c then s.rd .OHD_APS_TX_VALUE [w.n, c] else 0
    spacing := (o.phi % 2 ^ 24 + step) / 2 ^ 24 }

/-- R228, R240: the STAT in force for a channel at the start of a frame: a new one waits for the channel's PM frame. -/
def State.sentStat (s : State) (w : Wing) (c : Nat) : Nat :=
  if (s.otn.get w).mfas % 32 = c then s.pmStat w c else s.rd .OHD_PM_TX_STAT [w.n, c]

/-- R63, R215: the containers give the frame the bytes of their slots, channel by channel. -/
def State.fillSlots (s : State) (w : Wing) (map : List Nat) : Nat → List (Nat × List Nat) × State
  | 0 => ([], s)
  | c + 1 =>
    let r := s.fillSlots w map c
    let k := slotCount map c
    if k = 0 then r
    else
      let f := r.2.fillFrame w c k (s.sentStat w c == 5)
      (r.1 ++ [(c, f.1)], f.2)

/-- R225, R226: the parity of a frame's slot bytes joins those that later frames carry; the PM frame of channel `c` starts a new
count for it. -/
def Otn.addParity (o : Otn) (c : Nat) (cont : List (Nat × List Nat)) : Otn :=
  { o with
    parity := [bip8 (cont.map (fun e => bip8 e.2)), o.parity.headD 0]
    pmParity := cont.foldl (fun t e => tabSet 0 t e.1 (tabGet 0 t e.1 ^^^ bip8 e.2)) (tabErase o.pmParity c) }

/-- R158, R216: bits of the OTUCn-M-structured signal join the superframe in progress; those beyond its I bits are the first of the
next one (`State.carry`). -/
def State.supply (s : State) (w : Wing) (bits : List Bool) : State :=
  s.onTx w (fun t => { t with sent := t.sent.modifyHead (fun c => { c with info := c.info ++ bits }) })

/-- R158, R218: the superframe in progress takes another frame: the next one starts within its information bits. -/
def State.takesFrame (s : State) (w : Wing) : Bool :=
  match (s.tx.get w).sent with
  | c :: _ => decide (c.info.length < infoBits c.n c.fec)
  | [] => false

/-- R257: what a channel that holds slots in the map has for the next frame: an encrypted channel's container holds segments
without a gap. -/
def State.filled (s : State) (w : Wing) (map : List Nat) (c : Nat) : Bool :=
  !s.chanCipher (chanIndex w c) || s.sentStat w c == 5 ||
    decide (6080 * slotCount map c ≤ (tabGet [] (s.otn.get w).box c).length)

/-- R216, R224, R227: what the start of a frame leaves. -/
def State.sendFrame (s : State) (w : Wing) : State :=
  let map := s.txMap w
  let r := s.fillSlots w map 32
  let f := s.nextFrame w map r.1
  let c := f.mfas % 32
  let i := [w.n]
  let step := spacingS (s.rd .TXW_LINE_CUR_BAUD i) (s.rd .TXW_LINE_CUR_H_IDX i) (s.rd .TXW_LINE_CUR_FEC i)
  let s := (((r.2.wrb .OHD_PM_TX_BDI [w.n, c] f.pmBdi).wr .OHD_PM_TX_STAT [w.n, c] f.pmStat).say (.otn w f)).supply w f.wire
  (s.onPm w c (fun p => { p with bei := 0 })).onOtn w (fun o => { o.addParity c r.1 with
    gcc := o.gcc.drop 2
    phi := (o.phi + step) % 2 ^ 24
    mfas := (o.mfas + 1) % 256
    mfx := if o.mfas = 255 then (o.mfx + 1) % 256 else o.mfx
    iae := o.iae - 1
    bei := 0 })

/-- R216: OTN_FRAME_TX. -/
def execOtnFrameTx (w : Wing) (s : State) : Result :=
  let s := s.begin
  .next (if s.wingRuns w && s.takesFrame w && (List.range 32).all (s.filled w (s.txMap w)) then s.sendFrame w else s)

/-! ### aSSF over a second (R231) -/

/-- R232: a channel's aSSF as it is now; where it has begun, a frame in progress is to be discarded. -/
def State.seeSsf (s : State) (w : Wing) (c : Nat) : State :=
  let on := s.ssfChan w c
  s.when ((s.pm w c).ssf != on) (·.onPm w c (fun p => { p with ssf := on, cutting := on }))

/-- R231, R232: note that aSSF holds now, for the second and the 100 ms in progress. -/
def State.noteSsf (s : State) (w : Wing) : State :=
  let t := s.when (s.ssfSection w) (·.onOtn w (fun o => { o with ssfSecond := true, ssfTenth := true }))
  t.upTo 32 (fun t c =>
    (t.seeSsf w c).when (t.ssfChan w c && !t.ssfSection w)
      (·.onPm w c (fun p => { p with ssfSecond := true, ssfTenth := true })))

/-! ### Alignment (R222 to R224) -/

/-- R216: S in 2⁻²⁴ bits. -/
def Era.spacing (e : Era) : Nat := spacingS e.baud e.n e.fec

/-- R218: the parameters of a frame that starts at a bit of the received stream. -/
def Otn.eraAt (o : Otn) (p : Nat) : Era :=
  ((o.eras.filter (fun e => decide (e.start ≤ p))).getLast?).getD (o.eras.headD ⟨0, 0, 0, 0, []⟩)

/-- R218: the parameters of the bits that arrive next; new ones begin an era. -/
def Otn.noteEra (o : Otn) (baud n fec : Nat) (map : List Nat) : Otn :=
  let e : Era := ⟨o.pos + o.line.length, baud, n, fec, map⟩
  match o.eras.getLast? with
  | some x => if x = { e with start := x.start } then o else { o with eras := o.eras ++ [e] }
  | none => { o with eras := [e] }

/-- The parameters that no frame start lies under any more are forgotten. -/
def Otn.forget (o : Otn) (p : Nat) : Otn :=
  { o with eras := o.eras.filter (fun e => decide (p ≤ e.start) || e == o.eraAt p) }

/-- R219: the bits of a FAS. -/
def fasBits : List Bool := [0xF6, 0xF6, 0xF6, 0x28, 0x28, 0x28].flatMap (bitsMsb 8)

/-- R222: the FAS stands at the head of the stream. -/
def fasAt (xs : List (Bool × Bool)) : Bool := (xs.take 48).map (·.1) == fasBits

/-- R223: the FAS at the head is not errored: bytes 3 to 5 are as they should be. -/
def fasGood (xs : List (Bool × Bool)) : Bool := ((xs.drop 16).take 24).map (·.1) == (fasBits.drop 16).take 24

/-- R222: the stream from the next FAS on, or from where one can still begin, and how many bits were passed. -/
def seekFas : List (Bool × Bool) → Nat → List (Bool × Bool) × Nat
  | [], k => ([], k)
  | x :: xs, k => if fasAt (x :: xs) || (xs.drop 46).isEmpty then (x :: xs, k) else seekFas xs (k + 1)

/-- R222: a candidate's position. -/
def Candidate.pos (c : Candidate) : Nat := c.lo / 2 ^ 24

/-- R222: the first of the two positions at which a candidate is confirmed. -/
def Otn.due (o : Otn) (c : Candidate) : Nat := c.pos + (o.eraAt c.pos).spacing / 2 ^ 24

/-- R222: the search holds these candidates. -/
def State.setCands (s : State) (w : Wing) (cs : List Candidate) : State :=
  (s.onOtn w (fun o => { o with cands := cs })).wr .OHD_FR_STAT_CANDS [w.n] cs.length

/-- R222: a candidate is discarded and counted once both positions that could confirm it have been passed. -/
def State.dropMissed (s : State) (w : Wing) : State :=
  let o := s.otn.get w
  let live := o.cands.filter (fun c => decide (o.pos ≤ o.due c + 1))
  (s.count .OHD_SMC_FAS_FALSE_COUNT [w.n] (o.cands.length - live.length)).setCands w live

/-- R222: the search goes on to the next FAS among the bits received. -/
def State.seek (s : State) (w : Wing) : State :=
  (s.onOtn w (fun o =>
    let r := seekFas o.line 0
    { o with line := r.1, pos := o.pos + r.2 })).dropMissed w

/-- R223: the framer passes the bits before the next frame start. -/
def Otn.trim (o : Otn) : Otn :=
  let k := min (o.lo / 2 ^ 24 - o.pos) o.line.length
  { o with line := o.line.drop k, pos := o.pos + k }

/-- R222, R223: the framer takes what has been received. -/
def State.advance (s : State) (w : Wing) : State :=
  if s.flag .OHD_FR_STAT_IF [w.n] then s.onOtn w Otn.trim
  else if s.flag .OHD_FR_STAT_SEARCHING [w.n] then s.seek w
  else s

/-- R168, R173, R218, R222: information bits of a superframe reach the framer, which receives them only while LOCKED; `era` where
they are of the present superframe, whose parameters are in use. -/
def State.otnTake (s : State) (w : Wing) (era : Option (Nat × Nat)) (info : List (Bool × Bool)) : State :=
  if !s.flag .FEC_STAT_LOCKED [w.n] then s
  else
    let map := (s.rx.get w).active
    let baud := s.rd .RXW_LINE_CUR_BAUD [w.n]
    (s.onOtn w (fun o =>
      let o := match era with
        | some p => o.noteEra baud p.1 p.2 map
        | none => o
      { o with line := o.line ++ info })).advance w

/-- R222: the framer searches. -/
def State.startSearch (s : State) (w : Wing) : State :=
  ((s.wrb .OHD_FR_STAT_SEARCHING [w.n] true).setCands w []).seek w

/-- R222: a stream begins when LOCKED rises. -/
def State.openStream (s : State) (w : Wing) : State :=
  (s.onOtn w (fun o => { o with line := [], pos := 0, eras := [] })).startSearch w

/-- R222: the framer has no bits to search. -/
def State.stopSearch (s : State) (w : Wing) : State :=
  ((s.wrb .OHD_FR_STAT_SEARCHING [w.n] false).setCands w []).onOtn w (fun o => { o with line := [] })

/-- R222: in-frame is declared, with the frame start that confirmed the candidate twice. -/
def State.declareIf (s : State) (w : Wing) (c : Candidate) : State :=
  ((((s.setCands w []).wrb .OHD_FR_STAT_SEARCHING [w.n] false).wrb .OHD_FR_STAT_IF [w.n] true).evt .OHD_EVT_IF_CHANGE
    [w.n]).onOtn w (fun o => { o with
      badFas := 0, badMfas := 0, goodMfas := 0, lastMfx := none, gccIn := none, lo := c.lo, hi := c.hi })

/-- R216, R222: a frame start, in 2⁻²⁴ bits between these bounds, stands at bit `p`; where the schedule did not allow that, only
its place is known. -/
def narrow (lo hi p : Nat) : Nat × Nat :=
  let a := max lo (p * 2 ^ 24)
  let b := min hi ((p + 1) * 2 ^ 24)
  if a < b then (a, b) else (p * 2 ^ 24, (p + 1) * 2 ^ 24)

/-- R222: a candidate that a FAS at bit `p` confirms. -/
def Otn.confirm (o : Otn) (c : Candidate) (p : Nat) : Candidate :=
  let sp := (o.eraAt c.pos).spacing
  let r := narrow (c.lo + sp) (c.hi + sp) p
  ⟨r.1, r.2, c.hits + 1⟩

/-- R222: the search goes on behind a FAS. -/
def State.pastFas (s : State) (w : Wing) : State :=
  (s.onOtn w (fun o => { o with line := o.line.drop 1, pos := o.pos + 1 })).seek w

/-- R222: the FAS at the head of the stream confirms a candidate, or opens one. -/
def State.fasMatch (s : State) (w : Wing) : State :=
  let o := s.otn.get w
  let p := o.pos
  match o.cands.find? (fun c => p == o.due c || p == o.due c + 1) with
  | some c =>
    let x := o.confirm c p
    if c.hits = 1 then s.declareIf w x else (s.setCands w (o.cands.map (fun y => if y = c then x else y))).pastFas w
  | none => (s.when (decide (o.cands.length < 8)) (·.setCands w (o.cands ++ [⟨p * 2 ^ 24, (p + 1) * 2 ^ 24, 0⟩]))).pastFas w

/-- R222: FAS_SEARCH_MATCH. -/
def execFasSearchMatch (w : Wing) (s : State) : Result :=
  let s := s.begin
  .next (if s.flag .FEC_STAT_LOCKED [w.n] && !s.flag .OHD_FR_STAT_IF [w.n] && fasAt (s.otn.get w).line then s.fasMatch w else s)

/-- R223, R224: out of frame, and so out of multiframe. -/
def State.outOfFrame (s : State) (w : Wing) : State :=
  if !s.flag .OHD_FR_STAT_IF [w.n] then s
  else
    let s := (((s.wrb .OHD_FR_STAT_IF [w.n] false).wrb .OHD_FR_STAT_IM [w.n] false).wrb .OHD_FR_STAT_MFX_VALID [w.n]
      false).count .OHD_SMC_OOF_EV_COUNT [w.n]
    ((s.evt .OHD_EVT_IF_CHANGE [w.n]).onOtn w (fun o => { o with
      badFas := 0, lastMfx := none, heard := [], pmHeard := [], gccIn := none })).noteSsf w

/-- R223: OOF_DECLARE: the new search begins with the expected position. -/
def execOofDeclare (w : Wing) (s : State) : Result :=
  let s := s.begin
  .next (if s.flag .OHD_FR_STAT_IF [w.n] && decide (5 ≤ (s.otn.get w).badFas) then (s.outOfFrame w).startSearch w else s)

/-- R224: OOM_DECLARE. -/
def execOomDeclare (w : Wing) (s : State) : Result :=
  let s := s.begin
  .next (if s.flag .OHD_FR_STAT_IM [w.n] && decide (5 ≤ (s.otn.get w).badMfas) then
    (((s.wrb .OHD_FR_STAT_IM [w.n] false).wrb .OHD_FR_STAT_MFX_VALID [w.n] false).onOtn w (fun o => { o with
      badMfas := 0, expect := (s.rd .OHD_FR_STAT_MFAS [w.n] + 1) % 256, lastMfx := none,
      pmHeard := [] })).noteSsf w
  else s)

/-! ### The frame at the head of the stream (R215 to R219, R223, R238) -/

/-- R215 to R238: what a received OTN frame holds: its overhead, which bytes of it are marked, and the slot bytes of each channel
that the map gives slots. -/
structure OtnFrame where
  fasErrored : Bool
  mfas : Nat
  mfx : Nat
  tti : Nat
  bip : Nat
  bei : Nat
  bdi : Bool
  iae : Bool
  ais : Nat
  gcc : List Nat
  pmTti : Nat
  pmBip : Nat
  pmBei : Nat
  pmBdi : Bool
  pmStat : Nat
  aps : Nat
  smMarked : Bool
  ttiMarked : Bool
  pmMarked : Bool
  pmTtiMarked : Bool
  apsMarked : Bool
  cont : List (Nat × List Nat)
deriving DecidableEq, Repr

/-- R215: M of an era's frames. -/
def Era.slots (e : Era) : Nat := slotsOf e.baud e.n e.fec

/-- R215: the bits of an era's frame, the gap left out. -/
def Era.frameBits (e : Era) : Nat := 8 * (64 + 760 * e.slots)

/-- R173: bytes, the first bit the most significant, with a mark where one of the bits has it. -/
def markedBytes : Nat → List (Bool × Bool) → List (Nat × Bool)
  | 0, _ => []
  | k + 1, xs => (valueOf ((xs.take 8).map (·.1)), (xs.take 8).any (·.2)) :: markedBytes k (xs.drop 8)

/-- R217: a frame's bits with the scrambling removed. -/
def descrambled (xs : List (Bool × Bool)) : List (Bool × Bool) :=
  xs.take 48 ++ List.zipWith (fun x b => (x.1 != b, x.2)) (xs.drop 48) (scramblerBits (xs.length - 48))

/-- R63, R215: the slot bytes of a channel in a frame's bytes, row by row in the order of its slots. -/
def channelBytes (m : Nat) (map : List Nat) (bytes : List (Nat × Bool)) (c : Nat) : List Nat :=
  (List.range 4).flatMap (fun row => (containerSlots (map.take m) c).flatMap (fun j =>
    ((bytes.drop (row * (16 + 190 * m) + 16 + 190 * j)).take 190).map (·.1)))

/-- R219: the overhead and the slot bytes that stand in a frame's bytes. -/
def Era.parse (e : Era) (errored : Bool) (bytes : List (Nat × Bool)) : OtnFrame :=
  let m := e.slots
  let at_ (row col : Nat) := bytes.getD ((row - 1) * (16 + 190 * m) + col - 1) (0, false)
  let sm := at_ 1 10
  let pm := at_ 3 12
  let aps := [5, 6, 7, 8].map (at_ 4)
  { fasErrored := errored
    mfas := (at_ 1 7).1
    mfx := (at_ 1 14).1
    tti := (at_ 1 8).1
    bip := (at_ 1 9).1
    bei := sm.1 / 16
    bdi := sm.1.testBit 3
    iae := sm.1.testBit 2
    ais := sm.1 % 4
    gcc := [(at_ 1 11).1, (at_ 1 12).1]
    pmTti := (at_ 3 10).1
    pmBip := (at_ 3 11).1
    pmBei := pm.1 / 16
    pmBdi := pm.1.testBit 3
    pmStat := pm.1 % 8
    aps := byteWord (aps.map (·.1)) 0
    smMarked := sm.2
    ttiMarked := (at_ 1 8).2
    pmMarked := pm.2
    pmTtiMarked := (at_ 3 10).2
    apsMarked := aps.any (·.2)
    cont := (List.range 32).filterMap (fun c =>
      if slotCount (e.map.take m) c = 0 then none else some (c, channelBytes m e.map bytes c)) }

/-- R216, R223: the schedule leaves at most two positions for a frame start; the FAS tells them apart. -/
def Otn.aim (o : Otn) : Otn :=
  let a := o.lo / 2 ^ 24
  let b := (o.hi - 1) / 2 ^ 24
  if a = b then o
  else if fasGood o.line then { o with hi := min o.hi ((a + 1) * 2 ^ 24) }
  else if fasGood (o.line.drop 1) then { o with lo := max o.lo (b * 2 ^ 24), line := o.line.drop 1, pos := o.pos + 1 }
  else o

/-- R223: the frame at the expected start, once all its bits, and the one behind them, have been received. -/
def Otn.frameHere (o : Otn) : Option OtnFrame :=
  let e := o.eraAt o.pos
  if o.pos = o.lo / 2 ^ 24 ∧ e.frameBits < o.line.length then
    let x := o.aim
    some (e.parse (!fasGood x.line) (markedBytes (64 + 760 * e.slots) (descrambled (x.line.take e.frameBits))))
  else none

/-- R223: the frame that the framer examines while it is in frame. -/
def State.rxFrame (s : State) (w : Wing) : Option OtnFrame :=
  if s.flag .OHD_FR_STAT_IF [w.n] && decide ((s.otn.get w).badFas < 5) then (s.otn.get w).frameHere else none

/-- R216, R218, R223: the framer goes on to the next frame start, one spacing of this frame's parameters on. -/
def Otn.nextStart (o : Otn) : Otn :=
  let sp := (o.eraAt o.pos).spacing
  let x := o.aim
  let x : Otn := { x with lo := x.lo + sp, hi := x.hi + sp }
  (x.forget x.pos).trim

/-! ### A received frame (R221, R223 to R227, R230, R235, R238, R239) -/

/-- A value's persistence advances. -/
def Run.step (r : Run) (on : Bool) : Run := if on then ⟨r.on + 1, 0⟩ else ⟨0, r.off + 1⟩

/-- R221: a byte of a trace arrives at an index; the state of the collection. -/
def Trace.byte (t : Trace) (i b : Nat) : Trace :=
  let part := if i = 0 then [b] else if t.part.length = i then t.part ++ [b] else []
  if part.length = 64 then
    { t with part := [], last := part, same := if part = t.last then t.same + 1 else 1 }
  else { t with part := part }

/-- R224: what the frame's MFAS does to multiframe alignment. -/
def State.takeMfas (s : State) (w : Wing) (m : Nat) : State :=
  let o := s.otn.get w
  let im := s.flag .OHD_FR_STAT_IM [w.n]
  let s := s.wr .OHD_FR_STAT_MFAS [w.n] m
  if o.goodMfas = 0 then s.onOtn w (fun o => { o with goodMfas := 1, expect := (m + 1) % 256 })
  else if m = o.expect then
    (s.wrb .OHD_FR_STAT_IM [w.n] true).onOtn w (fun o => { o with badMfas := 0, expect := (m + 1) % 256 })
  else s.onOtn w (fun o => { o with
    badMfas := o.badMfas + 1, expect := if im then (o.expect + 1) % 256 else (m + 1) % 256 })

/-- R224: MFX, from the frame after a wrap of MFAS. -/
def State.takeMfx (s : State) (w : Wing) (m x : Nat) : State :=
  if m != 0 || !s.flag .OHD_FR_STAT_IM [w.n] then s
  else
    let ok := s.flag .OHD_FR_STAT_MFX_VALID [w.n] || (s.otn.get w).lastMfx == some ((x + 255) % 256)
    let s := s.onOtn w (fun o => { o with lastMfx := some x })
    s.when ok (fun s => (s.wrb .OHD_FR_STAT_MFX_VALID [w.n] true).wr .OHD_FR_STAT_MFX [w.n] x)

/-- R225, R226: the violations between a received BIP-8 and the parity of the bytes it covers; none where those bytes were not
received (assumption 77). -/
def violationsOf (bip : Nat) : Option Nat → Nat
  | some p => (List.range 8).countP (fun k => (bip ^^^ p).testBit k)
  | none => 0

/-- R225: the section's violations in a received frame: its BIP-8 covers the frame two before. -/
def Otn.violations (o : Otn) (f : OtnFrame) : Nat := violationsOf f.bip (o.heard.drop 1).head?

/-- R226: a channel's violations in its PM frame. -/
def Otn.pmViolations (o : Otn) (c : Nat) (f : OtnFrame) : Nat := violationsOf f.pmBip (tabFind o.pmHeard c)

/-- R226: the parity of a channel's slot bytes in a frame. -/
def channelParity (f : OtnFrame) (c : Nat) : Nat := bip8 ((f.cont.filter (fun e => e.1 == c)).map (fun e => bip8 e.2))

/-- R225, R226: the parity of a received frame's slot bytes; in multiframe, the PM frame of a channel starts a new count for
it. -/
def Otn.hear (o : Otn) (f : OtnFrame) (im : Bool) : Otn :=
  { o with
    heard := (bip8 (f.cont.map (fun e => bip8 e.2)) :: o.heard).take 2
    pmHeard := if im then (tabInsert (f.mfas % 32) 0 (tabErase o.pmHeard (f.mfas % 32))).map
      (fun e => (e.1, e.2 ^^^ channelParity f e.1)) else [] }

/-- R224: between wraps MFX stands as taken. R225: the section's block. -/
def State.smBlock (s : State) (w : Wing) (f : OtnFrame) : State :=
  let i := [w.n]
  let near := !s.flag .OHD_SM_DEF_IAE i
  let far := !s.flag .OHD_SM_DEF_BIAE i && !f.smMarked && decide (f.bei ≤ 8)
  let n := (s.otn.get w).violations f
  let v := if near then n else 0
  let b := if far then f.bei else 0
  ((((s.count .OHD_SMC_FRAMES_COUNT i).count .OHD_SMC_NE_BIP_COUNT i v).count .OHD_SMC_NE_EB_COUNT i
    (bitNat (v != 0))).count .OHD_SMC_FE_BEI_COUNT i b).count .OHD_SMC_FE_EB_COUNT i (bitNat (b != 0)) |>.onOtn w
      (fun o => { o with bei := n, tenth := (o.tenth.1 + 1, o.tenth.2 + bitNat (v != 0)) })

/-- R230: the section's status persists. -/
def State.smStatus (s : State) (w : Wing) (f : OtnFrame) : State :=
  if f.smMarked then s
  else s.onOtn w (fun o => { o with
    ais := o.ais.step (f.ais == 3), bdi := o.bdi.step f.bdi, iaeRun := o.iaeRun.step f.iae,
    biae := o.biae.step (f.bei == 11) })

/-- R221: the section's trace. -/
def State.smTrace (s : State) (w : Wing) (f : OtnFrame) : State :=
  if !s.flag .OHD_FR_STAT_IM [w.n] then s
  else if f.ttiMarked then s.onOtn w (fun o => { o with trace := { o.trace with part := [] } })
  else
    let t := (s.otn.get w).trace.byte (f.mfas % 64) f.tti
    let held := (List.range 16).map (fun k => s.rd .OHD_SM_TTI_ACC_BYTES [w.n, k])
    let new := (List.range 16).map (byteWord t.last)
    let s := s.onOtn w (fun o => { o with trace := t })
    if 3 ≤ t.same && (!t.accepted || held != new) then
      ((s.upTo 16 (fun s k => s.wr .OHD_SM_TTI_ACC_BYTES [w.n, k] (new.getD k 0))).onOtn w
        (fun o => { o with trace := { t with accepted := true } })).evt .OHD_EVT_TTI_ACC [w.n]
    else s

/-- R226: a channel's PM block. -/
def State.pmBlock (s : State) (w : Wing) (c : Nat) (f : OtnFrame) : State :=
  let i := [w.n, c]
  let b := if f.pmMarked || decide (8 < f.pmBei) then 0 else f.pmBei
  let v := (s.otn.get w).pmViolations c f
  ((((s.count .OHD_PMC_BLOCKS_COUNT i).count .OHD_PMC_NE_BIP_COUNT i v).count .OHD_PMC_NE_EB_COUNT i
    (bitNat (v != 0))).count .OHD_PMC_FE_BEI_COUNT i b).count .OHD_PMC_FE_EB_COUNT i (bitNat (b != 0)) |>.onPm w c
      (fun p => { p with bei := v, tenth := (p.tenth.1 + 1, p.tenth.2 + bitNat (v != 0)) })

/-- R230: a channel's status persists. -/
def State.pmStatus (s : State) (w : Wing) (c : Nat) (f : OtnFrame) : State :=
  if f.pmMarked then s
  else s.onPm w c (fun p => { p with
    ais := p.ais.step (f.pmStat == 7), oci := p.oci.step (f.pmStat == 6), lck := p.lck.step (f.pmStat == 5),
    bdi := p.bdi.step f.pmBdi })

/-- R235: a member channel's APS/PCC bytes. -/
def State.pmAps (s : State) (w : Wing) (c : Nat) (f : OtnFrame) : State :=
  if f.apsMarked || !s.isMember w c then s
  else
    let p := s.pm w c
    if f.aps = p.aps then s.onPm w c (fun p => { p with apsRun := p.apsRun + 1 })
    else
      let lost := p.aps != s.rd .OHD_APS_RX_VALUE [w.n, c] && decide (0 < p.apsRun && p.apsRun < 3)
      (s.when lost (·.countWrap .OHD_APS_CNT_INCONSISTENT [w.n, c])).onPm w c
        (fun p => { p with aps := f.aps, apsRun := 1 })

/-- R221: a channel's trace, once MFX is known. -/
def State.pmTrace (s : State) (w : Wing) (c : Nat) (f : OtnFrame) : State :=
  if !s.flag .OHD_FR_STAT_MFX_VALID [w.n] then s
  else if f.pmTtiMarked then s.onPm w c (fun p => { p with trace := { p.trace with part := [] } })
  else
    let t := (s.pm w c).trace.byte ((f.mfas / 32 + 8 * s.rd .OHD_FR_STAT_MFX [w.n]) % 64) f.pmTti
    let held := (List.range 16).map (fun k => s.rd .OHD_TTI_ACC_BYTES [w.n, c, k])
    let new := (List.range 16).map (byteWord t.last)
    let s := s.onPm w c (fun p => { p with trace := t })
    if 3 ≤ t.same && (!t.accepted || held != new) then
      ((s.upTo 16 (fun s k => s.wr .OHD_TTI_ACC_BYTES [w.n, c, k] (new.getD k 0))).onPm w c
        (fun p => { p with trace := { t with accepted := true } })).evt .OHD_EVT_TTI_ACC [w.n]
    else s

/-- R237: a byte of the GCC0 stream: a flag ends the message before it. -/
def Otn.gccByte (o : Otn) (b : Nat) : Otn :=
  if b = 0x7E then match o.gccIn with
    | some (x :: xs) => { o with gccIn := some [], gccMsgs := o.gccMsgs ++ [x :: xs] }
    | _ => { o with gccIn := some [] }
  else { o with gccIn := o.gccIn.map (· ++ [b]) }

/-- R223 to R239: a frame received while in frame. -/
def State.receiveFrame (s : State) (w : Wing) (f : OtnFrame) : State :=
  let c := f.mfas % 32
  let s := ((((s.takeMfas w f.mfas).takeMfx w f.mfas f.mfx).smBlock w f).smStatus w f).smTrace w f
  let s := s.pmBlock w c f
  let im := s.flag .OHD_FR_STAT_IM [w.n]
  let s := if im then (((s.pmStatus w c f).pmAps w c f).pmTrace w c f) else s
  s.onOtn w (fun o => f.gcc.foldl Otn.gccByte (o.hear f im))

/-- R223: the frame at the expected start is examined; with the fifth errored FAS in succession the framer waits there for
OOF_DECLARE. -/
def State.examine (s : State) (w : Wing) (f : OtnFrame) : State :=
  let bad := if f.fasErrored then (s.otn.get w).badFas + 1 else 0
  let s := s.onOtn w (fun o => { o with badFas := bad })
  if 5 ≤ bad then s else (s.receiveFrame w f).onOtn w Otn.nextStart

/-- R223: OTN_FRAME_RX. -/
def execOtnFrameRx (w : Wing) (s : State) : Result :=
  let s := s.begin
  .next (match s.rxFrame w with
    | some f => s.examine w f
    | none => s)

/-! ### Defects (R230, R231) -/

/-- R221: the accepted trace differs from the expected SAPI, DAPI or both; `acc` and `exp` in words of 4 bytes. -/
def traceDiffers (mode : Nat) (acc exp : Nat → Nat) : Bool :=
  (mode.testBit 0 && (List.range 4).any (fun k => acc k != exp k)) ||
    (mode.testBit 1 && (List.range 4).any (fun k => acc (4 + k) != exp (4 + k)))

/-- A defect enters (some true), exits (some false) or holds its state, by its persistence. -/
def Run.verdict (r : Run) (n : Nat) : Option Bool :=
  if n ≤ r.on then some true else if n ≤ r.off then some false else none

/-- R230: what the section's raw defect of an index becomes. -/
def State.smVerdict (s : State) (w : Wing) (d : Nat) : Option Bool :=
  let o := s.otn.get w
  let aligned := s.flag .OHD_FR_STAT_IF [w.n]
  let im := s.flag .OHD_FR_STAT_IM [w.n]
  match d with
  | 0 => some (!aligned)
  | 1 => if im then some false else if aligned then some true else none
  | 2 => if aligned then o.ais.verdict 3 else none
  | 3 =>
    let mode := s.rd .OHD_SM_CFG_TIM_MODE [w.n]
    if !aligned then none
    else if mode = 0 then some false
    else if !o.trace.accepted then none
    else some (traceDiffers mode (fun k => s.rd .OHD_SM_TTI_ACC_BYTES [w.n, k])
      (fun k => s.rd .OHD_SM_TTI_EXP_BYTES [w.n, k]))
  | 4 => if aligned then o.bdi.verdict 5 else none
  | 6 => if aligned then o.iaeRun.verdict 5 else none
  | 7 => if aligned then o.biae.verdict 3 else none
  | _ => none

/-- R230: what a channel's raw defect of an index (8 to 13) becomes. -/
def State.pmVerdict (s : State) (w : Wing) (c d : Nat) : Option Bool :=
  let p := s.pm w c
  if !s.flag .OHD_FR_STAT_IF [w.n] || !s.flag .OHD_FR_STAT_IM [w.n] then none
  else match d with
    | 8 => p.ais.verdict 3
    | 9 => p.oci.verdict 3
    | 10 => p.lck.verdict 3
    | 11 =>
      let mode := s.rd .OHD_PM_CFG_TIM_MODE [w.n, c]
      if mode = 0 then some false
      else if !p.trace.accepted then none
      else some (traceDiffers mode (fun k => s.rd .OHD_TTI_ACC_BYTES [w.n, c, k])
        (fun k => s.rd .OHD_TTI_EXP_BYTES [w.n, c, k]))
    | 12 => p.bdi.verdict 5
    | _ => none

/-- The SM_DEF field of a defect index. -/
def smDefRow (d : Nat) : Row :=
  match d with
  | 0 => .OHD_SM_DEF_LOF
  | 1 => .OHD_SM_DEF_LOM
  | 2 => .OHD_SM_DEF_AIS
  | 3 => .OHD_SM_DEF_TIM
  | 4 => .OHD_SM_DEF_BDI
  | 5 => .OHD_SM_DEF_DEG
  | 6 => .OHD_SM_DEF_IAE
  | _ => .OHD_SM_DEF_BIAE

/-- The SM_FAIL field of a defect index. -/
def smFailRow (d : Nat) : Row :=
  match d with
  | 0 => .OHD_SM_FAIL_LOF
  | 1 => .OHD_SM_FAIL_LOM
  | 2 => .OHD_SM_FAIL_AIS
  | 3 => .OHD_SM_FAIL_TIM
  | 4 => .OHD_SM_FAIL_BDI
  | 5 => .OHD_SM_FAIL_DEG
  | 6 => .OHD_SM_FAIL_IAE
  | _ => .OHD_SM_FAIL_BIAE

/-- R239: DEF_SEEN takes a defect that is present, or was until now: SM in the layout of SM_DEF. -/
def State.setSm (s : State) (w : Wing) (d : Nat) (on : Bool) : State :=
  ((s.wrb (smDefRow d) [w.n] on).when (on || s.flag (smDefRow d) [w.n]) (·.bit .OHD_SMC_DEF_SEEN_DEFS [w.n] (7 - d))).noteSsf w

/-- R239: DEF_SEEN starts with the defects that are present. -/
def State.restartSeen (s : State) (w : Wing) : State :=
  let s := s.upTo 8 (fun s d => s.when (s.flag (smDefRow d) [w.n]) (·.bit .OHD_SMC_DEF_SEEN_DEFS [w.n] (7 - d)))
  s.upTo 32 (fun s c => s.wr .OHD_PMC_DEF_SEEN_DEFS [w.n, c] (s.rd .OHD_PM_DEF_DEF [w.n, c]))

/-- The same for a channel's defect. -/
def State.setPm (s : State) (w : Wing) (c d : Nat) (on : Bool) : State :=
  let b := 13 - d
  (if on then (s.bit .OHD_PM_DEF_DEF [w.n, c] b).bit .OHD_PMC_DEF_SEEN_DEFS [w.n, c] b
    else s.unbit .OHD_PM_DEF_DEF [w.n, c] b).noteSsf w

/-- R230: DEFECT_CHANGE. -/
def execDefectChange (w : Wing) (d : Fin 14) (ch : Fin 32) (s : State) : Result :=
  let s := s.begin
  .next (if d.val < 8 then
      match s.smVerdict w d with
      | some on => s.setSm w d on
      | none => s
    else
      match s.pmVerdict w ch d with
      | some on => s.setPm w ch d on
      | none => s)

/-- R231 burst mode: the runs of bad and good seconds. -/
def degSecond (r : Run) (skip : Bool) (errored thr : Nat) : Run := if skip then r else r.step (decide (thr < errored))

/-- R231 rate mode: a window's verdict. -/
def degRate (win : List (Nat × Nat)) (m e : Nat) : Option Bool :=
  let n := (win.map (·.1)).sum
  let k := (win.map (·.2)).sum
  if n = 0 then none
  else if m * n < k * 10 ^ e then some true
  else if k * 10 ^ (e + 1) ≤ m * n then some false
  else none

/-- R231: dDEG of the section after a completed second. -/
def State.smDegSecond (s : State) (w : Wing) : State :=
  let i := [w.n, 0]
  let o := s.otn.get w
  let r := degSecond o.degRun o.ssfLast (s.rd .OHD_SMC_PS_NE_EB_COUNT [w.n]) (s.rd .OHD_DEG_CFG_DEGTHR i)
  let t := s.onOtn w (fun o => { o with degRun := r })
  match r.verdict (max 1 (s.rd .OHD_DEG_CFG_DEGM i)) with
  | some on => t.setSm w 5 on
  | none => t

/-- R231: dDEG of the section after 100 ms. -/
def State.smDegTenth (s : State) (w : Wing) : State :=
  let i := [w.n, 0]
  let o := s.otn.get w
  let win := if o.ssfTenth then o.window else (o.tenth :: o.window).take (max 1 (s.rd .OHD_DEG_RATE_WIN i))
  let t := s.onOtn w (fun o => { o with window := win, tenth := (0, 0), ssfTenth := s.ssfSection w })
  if !s.flag .OHD_DEG_CFG_MODE i || o.ssfTenth then t
  else match degRate win (s.rd .OHD_DEG_RATE_RATE_M i) (s.rd .OHD_DEG_RATE_RATE_E i) with
    | some on => t.setSm w 5 on
    | none => t

/-- R231: dDEG of a channel after a completed second. -/
def State.pmDegSecond (s : State) (w : Wing) (c : Nat) : State :=
  let i := [w.n, 1]
  let p := s.pm w c
  let r := degSecond p.degRun (p.ssfLast || (s.otn.get w).ssfLast) (s.rd .OHD_PMC_PS_NE_EB_COUNT [w.n, c])
    (s.rd .OHD_DEG_CFG_DEGTHR i)
  let t := s.onPm w c (fun p => { p with degRun := r })
  match r.verdict (max 1 (s.rd .OHD_DEG_CFG_DEGM i)) with
  | some on => t.setPm w c 13 on
  | none => t

/-- R231: dDEG of a channel after 100 ms; `skip` when aSSF of the section held. -/
def State.pmDegTenth (s : State) (w : Wing) (skip : Bool) (c : Nat) : State :=
  let i := [w.n, 1]
  let p := s.pm w c
  let out := skip || p.ssfTenth
  let win := if out then p.window else (p.tenth :: p.window).take (max 1 (s.rd .OHD_DEG_RATE_WIN i))
  let t := s.onPm w c (fun p => { p with window := win, tenth := (0, 0), ssfTenth := s.ssfChan w c })
  if !s.flag .OHD_DEG_CFG_MODE i || out then t
  else match degRate win (s.rd .OHD_DEG_RATE_RATE_M i) (s.rd .OHD_DEG_RATE_RATE_E i) with
    | some on => t.setPm w c 13 on
    | none => t

/-- R231: dDEG is evaluated, after a completed second (whose counts the previous-second banks hold) or after 100 ms. -/
def State.degrade (s : State) (w : Wing) (second : Bool) : State :=
  if second then
    let s := s.when (!s.flag .OHD_DEG_CFG_MODE [w.n, 0]) (·.smDegSecond w)
    s.when (!s.flag .OHD_DEG_CFG_MODE [w.n, 1]) (·.upTo 32 (fun s c => s.pmDegSecond w c))
  else
    let skip := (s.otn.get w).ssfTenth
    (s.smDegTenth w).upTo 32 (fun s c => s.pmDegTenth w skip c)

/-- R231: DEG_EVAL. -/
def execDegEval (w : Wing) (second : Bool) (s : State) : Result := .next (s.begin.degrade w second)

/-! ### Failures (R233, R234) -/

/-- R234: the section's failures as reported; bit d of the argument is the declared failure of index d. -/
def smReported (f : Nat) : Nat :=
  if f.testBit 0 then 1
  else if f.testBit 1 then 2
  else if f.testBit 2 then 4
  else if f.testBit 3 then clearBit f 5
  else f

/-- R234: the section suppresses every PM failure of the wing. -/
def State.pmSuppressed (s : State) (w : Wing) : Bool :=
  let f := (s.otn.get w).fail
  f.testBit 0 || f.testBit 1 || f.testBit 2 || (f.testBit 3 && s.flag .OHD_SM_CFG_TIM_ACT [w.n])

/-- R234: a channel's failures as reported, in PM_DEF's layout. -/
def pmReported (f : Nat) : Nat :=
  if f.testBit 5 || f.testBit 4 || f.testBit 3 then clearMask f 7
  else if f.testBit 2 then clearBit f 0
  else f

/-- R233, R234: show the section's reported failures, and ring when one changed. -/
def State.showSmFail (s : State) (w : Wing) : State :=
  let new := smReported (s.otn.get w).fail
  let changed := (List.range 8).any (fun d => s.flag (smFailRow d) [w.n] != new.testBit d)
  (s.upTo 8 (fun s d => s.wrb (smFailRow d) [w.n] (new.testBit d))).when changed (·.evt .OHD_EVT_SM_FAIL [w.n])

/-- R233, R234: show a channel's reported failures, and ring when one changed. -/
def State.showPmFail (s : State) (w : Wing) (c : Nat) : State :=
  let new := if s.pmSuppressed w then 0 else pmReported (s.pm w c).fail
  if s.rd .OHD_PM_FAIL_FAIL [w.n, c] = new then s
  else (s.wr .OHD_PM_FAIL_FAIL [w.n, c] new).evt .OHD_EVT_PM_FAIL [w.n]

/-- R234: what a change of declared failures shows. -/
def State.showFails (s : State) (w : Wing) : State := (s.showSmFail w).upTo 32 (fun s c => s.showPmFail w c)

/-- R230: the raw defect of an index is present. -/
def State.defectOn (s : State) (w : Wing) (d c : Nat) : Bool :=
  if d < 8 then s.flag (smDefRow d) [w.n] else s.pmDef w c (13 - d)

/-- R233: a failure is declared or cleared. -/
def State.setFail (s : State) (w : Wing) (d c : Nat) (on : Bool) : State :=
  let put (f b : Nat) : Nat := if on then setBit f b else clearBit f b
  (if d < 8 then s.onOtn w (fun o => { o with fail := put o.fail d })
    else s.onPm w c (fun p => { p with fail := put p.fail (13 - d) })).showFails w

/-- R233: FAILURE_DECLARE. -/
def execFailureDeclare (w : Wing) (d : Fin 14) (ch : Fin 32) (s : State) : Result :=
  let s := s.begin
  .next (if s.defectOn w d ch then s.setFail w d ch true else s)

/-- R233: FAILURE_CLEAR. -/
def execFailureClear (w : Wing) (d : Fin 14) (ch : Fin 32) (s : State) : Result :=
  let s := s.begin
  .next (if s.defectOn w d ch then s else s.setFail w d ch false)

/-! ### APS and GCC0 (R235, R237) -/

/-- R235, R250: a member channel accepts a value, and its group evaluates its requests. -/
def State.acceptAps (s : State) (w : Wing) (c g : Nat) : State :=
  let v := (s.pm w c).aps
  let t := ((s.wr .OHD_APS_RX_VALUE [w.n, c] v).countWrap .OHD_APS_CNT_CHANGES [w.n, c]).evt .OHD_EVT_APS_RX [w.n]
  let x := tabGet Group.reset t.groups g
  ({ t with groups := tabSet Group.reset t.groups g { x with later := w, seen := x.seen.set w true } }).reselect g

/-- R235: APS_ACCEPT. -/
def execApsAccept (w : Wing) (ch : Fin 32) (s : State) : Result :=
  let s := s.begin
  .next (match s.groupOf (chanIndex w ch) with
    | some g =>
      let p := s.pm w ch
      if 3 ≤ p.apsRun && (p.aps != s.rd .OHD_APS_RX_VALUE [w.n, ch] ||
          !(tabGet Group.reset s.groups g).seen.get w) then s.acceptAps w ch g
      else s
    | none => s)

/-- R237: octet stuffing undone. -/
def unstuffed : List Nat → List Nat
  | [] => []
  | 0x7D :: b :: bs => (b ^^^ 0x20) :: unstuffed bs
  | b :: bs => b :: unstuffed bs

/-- R237: the octets of a message end with their CRC-32. -/
def gccGood (m : List Nat) : Bool :=
  let bs := unstuffed m
  let n := bs.length - 4
  (bytesMsb 4 (fcs32 (bs.take n))).reverse == bs.drop n

/-- R237: GCC0_MSG_RX: the oldest message that has ended. -/
def execGcc0MsgRx (w : Wing) (s : State) : Result :=
  let s := s.begin
  .next (match (s.otn.get w).gccMsgs with
    | m :: ms => (if gccGood m then s.countWrap .OHD_GCC_STAT_RX_MSG [w.n] else s.countWrap .OHD_GCC_STAT_CRC_ERR [w.n]).onOtn w
        (fun o => { o with gccMsgs := ms })
    | [] => s)

end Sys2Proof.Machine
end

