-- ==== Sys2Proof/Machine/Ubmus.lean ====
section
/-!
DEFINITION. The Ubmus code and the place of its bits: the accounting of a superframe, where parity and information bits
stand, and the encoder (R156 to R163).
-/

namespace Sys2Proof.Machine

/-! ### Bit accounting (R158 to R162) -/

/-- R161: the blocks of a superframe. -/
def fecBlocks (n : Nat) : Nat := if n = 0 then 502 else if n ≤ 32 then 1004 else 1506

/-- R162: the parity bits of a superframe. -/
def parityBits (n fec : Nat) : Nat := 16449536 + 16064 * dmBits n - infoBits n fec

/-- R162: the parity bits of block j. -/
def blockParity (n fec j : Nat) : Nat :=
  (j + 1) * parityBits n fec / fecBlocks n - j * parityBits n fec / fecBlocks n

/-- R161: the coded bits of an amplitude: its label bits, then its sign bit. -/
def amplitudeBits (n : Nat) : Nat := labelBits n + 1

/-- R161: a coded bit, numbered within its superframe, is a sign bit. -/
def isSignBit (n q : Nat) : Bool := q % amplitudeBits n + 1 == amplitudeBits n

/-- R162: a coded bit is a parity bit: one of the last sign positions of its block. -/
def isParityBit (n fec q : Nat) : Bool :=
  let m := amplitudeBits n
  let j := q / 32768
  isSignBit n q && decide ((32768 * (j + 1)) / m - q / m ≤ blockParity n fec j)

/-! ### The place of the information bits (R163) -/

/-- The next bits of a sequence, 0 where it has ended. -/
def takeBits (k : Nat) (bs : List Bool) : List Bool := (List.range k).map (fun i => bs.getD i false)

/-- R163: `k` amplitudes from amplitude `a` take information bits; a parity position stays open. `seq` holds what is left
of the matcher's block. -/
def placeFrom (n fec : Nat) : Nat → Nat → List Bool → List Nat → List (Option Bool)
  | 0, _, _, _ => []
  | k + 1, a, info, seq =>
    let fresh := a % 1024 == 0 && !uniformIndex n
    let seq := if fresh then matchBits n (takeBits (dmBits n) info) else seq
    let info := if fresh then info.drop (dmBits n) else info
    let label := if uniformIndex n then takeBits (labelBits n) info else grayLabel n (seq.headD 0)
    let info := if uniformIndex n then info.drop (labelBits n) else info
    let parity := isParityBit n fec (a * amplitudeBits n + labelBits n)
    let sign := if parity then none else some (info.headD false)
    label.map some ++ sign :: placeFrom n fec k (a + 1) (if parity then info else info.drop 1) seq.tail

/-- R160, R161, R163: the coded sequence of a superframe's data blocks, its parity positions open. -/
def placeInfo (n fec : Nat) (info : List Bool) : List (Option Bool) := placeFrom n fec (16064 * 1024) 0 info []

/-! ### The encoder (R156, R157) -/

/-- The open positions of a block take its parity bits in order. -/
def fillParity (parity : Nat → Bool) : Nat → List (Option Bool) → List Bool
  | _, [] => []
  | k, none :: xs => parity k :: fillParity parity (k + 1) xs
  | k, some b :: xs => b :: fillParity parity k xs

/-- R156: the eight blocks that a block is coupled with, the latest first. -/
def couple (chain : List (List Bool)) (b : List Bool) : List (List Bool) := (b :: chain).take 8

/-- R156, R157, R162: block j with its parity bits. -/
def encodeBlock (n fec j : Nat) (chain : List (List Bool)) (xs : List (Option Bool)) : List Bool :=
  fillParity (Config.ubmusParity fec (blockParity n fec j) (xs.filterMap id) chain) 0 xs

/-- R156, R161: the blocks of a superframe, from block j on, after the blocks before them. -/
def encodeFrom (n fec : Nat) : Nat → Nat → List (List Bool) → List (Option Bool) → List (List Bool)
  | 0, _, _, _ => []
  | k + 1, j, chain, xs =>
    let b := encodeBlock n fec j chain (xs.take 32768)
    b :: encodeFrom n fec k (j + 1) (couple chain b) (xs.drop 32768)

/-- R156, R161: the coded blocks of a superframe. -/
def encode (n fec : Nat) (chain : List (List Bool)) (info : List Bool) : List (List Bool) :=
  encodeFrom n fec (fecBlocks n) 0 chain (placeInfo n fec info)

/-- R156: the syndrome of block j is zero: its parity bits are those of its other bits and the blocks before it. -/
def syndromeZero (n fec j : Nat) (chain : List (List Bool)) (xs : List Bool) : Bool :=
  encodeBlock n fec j chain
    (xs.mapIdx (fun k b => if isParityBit n fec (32768 * j + k) then none else some b)) == xs

/-! ### The chain of a wing (R156) -/

/-- R156: the coded blocks that the superframes carried since the wing's start leave for the next one to couple with,
the latest first. -/
def chainAfter : List Carried → List (List Bool)
  | [] => []
  | c :: cs => ((encode c.n c.fec (chainAfter cs) c.info).foldl couple (chainAfter cs))

end Sys2Proof.Machine
end

