-- ==== Sys2Proof/Machine/Demap.lean ====
section
/-!
DEFINITION. Soft demapping and dematching: what the receive DSP hands to the decoder for a coded bit, and what the decoder
hands to the overhead processor (R109, R110, R164, R168, R173).
-/

namespace Sys2Proof.Machine

/-! ### Soft values (R109, R164) -/

/-- R109: a point that a component may have been sent as: how far, squared, it lies from what was received, and its prior
weight. -/
def hypothesis (n : Nat) (prior : Bool) (y : Int) (place : Nat) (minus : Bool) : Nat × Nat :=
  let a : Int := 1024 * ((amplitudes n).getD place 1 : Int)
  (((y - (if minus then -a else a)) ^ 2).toNat, if prior then (composition n).getD place 0 else 1)

/-- R77, R161: bit `k` of a component: a label bit, or the sign bit. -/
def pointBit (n place : Nat) (minus : Bool) (k : Nat) : Bool :=
  if k < labelBits n then (grayLabel n place).getD k false else minus

/-- R109: the points of the base on whose bit `k` stands `b`. -/
def hypotheses (n : Nat) (prior : Bool) (y : Int) (k : Nat) (b : Bool) : List (Nat × Nat) :=
  (List.range (amplitudes n).length).flatMap (fun place =>
    [false, true].filterMap (fun minus => if pointBit n place minus k == b then some (hypothesis n prior y place minus) else none))

/-- R164: 6 bits, from −16.0 to +15.5 in units of 0.5. -/
def softLimit (v : Int) : Int := max (-32) (min 31 v)

/-- R109, R164: the log-likelihood ratio of bit `k` of a component received as `y`, in 1/1024 of the base's unit, under a
noise variance in the square of that unit. -/
def softBit (n : Nat) (prior : Bool) (noise : Nat) (y : Int) (k : Nat) : Int :=
  softLimit (Config.softRatio noise (hypotheses n prior y k false) (hypotheses n prior y k true))

/-- R175: FEC.INJ inverts the sign of one value in every 2^EXP. -/
def injected (exp count : Nat) (v : Int) : Int :=
  if count % 2 ^ exp = Config.injectAt (count / 2 ^ exp) % 2 ^ exp then softLimit (-v) else v

/-- R164, R170: the hard decision on a value: positive favours 0. -/
def hardBit (v : Int) : Bool := decide (v < 0)

/-! ### Dematching (R168, R173) -/

/-- R168: the amplitudes, by their places, of a matcher block's coded bits. -/
def placesOf (n : Nat) : Nat → List DecodedBit → List Nat
  | 0, _ => []
  | k + 1, xs => labelPlace n ((xs.take (labelBits n)).map (·.bit)) :: placesOf n k (xs.drop (amplitudeBits n))

/-- R163: the sign bits of a matcher block that are information bits, with their marks. -/
def signInfo (n : Nat) : Nat → List DecodedBit → List (Bool × Bool)
  | 0, _ => []
  | k + 1, xs =>
    ((xs.drop (labelBits n)).take 1).filterMap (fun x => if x.parity then none else some (x.bit, x.mark)) ++
      signInfo n k (xs.drop (amplitudeBits n))

/-- R168, R173: what one matcher block's coded bits hand on, with marks, and whether the dematcher rejects it. -/
def dematchBlock (n : Nat) (xs : List DecodedBit) : List (Bool × Bool) × Bool :=
  if uniformIndex n then (xs.filterMap (fun x => if x.parity then none else some (x.bit, x.mark)), false)
  else
    let mark := (xs.mapIdx (fun k x => !isSignBit n k && x.mark)).any id
    match dematch n (placesOf n 1024 xs) with
    | some bs => (bs.map (fun b => (b, mark)) ++ signInfo n 1024 xs, false)
    | none => (List.replicate (dmBits n) (false, true) ++ signInfo n 1024 xs, true)

/-- R168: the matcher blocks, at most `k`, that are complete among the bits held; what they hand on, how many are rejected,
and the bits that are left. -/
def dematchAll (n : Nat) : Nat → List DecodedBit → List (Bool × Bool) × Nat × List DecodedBit
  | 0, xs => ([], 0, xs)
  | k + 1, xs =>
    let size := 1024 * amplitudeBits n
    if xs.length < size then ([], 0, xs)
    else
      let b := dematchBlock n (xs.take size)
      let r := dematchAll n k (xs.drop size)
      (b.1 ++ r.1, r.2.1 + bitNat b.2, r.2.2)

end Sys2Proof.Machine
end

