-- ==== Sys2Proof/Machine/Equaliser.lean ====
section
/-!
DEFINITION. Stages 1 and 5 of the receive DSP: the front-end correction of a dimension's samples (R96), and the polarisation
equaliser, its output and its taps: how they start, adapt, and are made orthogonal (R106, R107).
-/

namespace Sys2Proof.Machine

/-- R96: stage 1 on the samples of an ADC dimension: skew and gain from the wing's OPTICAL section (assumption 60). -/
def State.frontEnd (s : State) (w : Wing) (d : Nat) (xs : List Int) : List Int :=
  let o := (s.opt.get w).sec
  Config.gainTrim (o.rxGain.getD d 0) (Config.delayTrim (o.rxSkew.getD d 0) xs)

/-- The product of two complex numbers. -/
def timesC (a b : Int × Int) : Int × Int := (a.1 * b.1 - a.2 * b.2, a.1 * b.2 + a.2 * b.1)

/-- R106: the output of a complex FIR filter whose taps are in 2^−24, on the samples that stand at its taps. -/
def firC (ts xs : List (Int × Int)) : Int × Int :=
  let ps := (ts.zip xs).map (fun e => timesC e.1 e.2)
  ((ps.map (·.1)).sum / 2 ^ 24, (ps.map (·.2)).sum / 2 ^ 24)

/-- R106: the 2×2 butterfly: the outputs of X and Y from the samples of both polarisations. -/
def butterfly (t : Taps) (xs ys : List (Int × Int)) : (Int × Int) × (Int × Int) :=
  let plus (a b : Int × Int) : Int × Int := (a.1 + b.1, a.2 + b.2)
  (plus (firC t.xx xs) (firC t.xy ys), plus (firC t.yx xs) (firC t.yy ys))

/-- R106: what leaks from a part of a tap at each update: 2^−(LEAK + 16) of it, or nothing. -/
def leakPart (leak : Nat) (v : Int) : Int := if leak = 0 then 0 else v / 2 ^ (leak + 16)

/-- R106: a tap follows the correlation found for it with step size 2^−mu. -/
def adaptTap (mu leak : Nat) (t push : Int × Int) : Int × Int :=
  (t.1 - leakPart leak t.1 + push.1 / 2 ^ mu, t.2 - leakPart leak t.2 + push.2 / 2 ^ mu)

/-- R106: a filter adapts to the correlations of its taps. -/
def adaptFilter (mu leak : Nat) (ts push : List (Int × Int)) : List (Int × Int) :=
  ts.mapIdx (fun i t => adaptTap mu leak t (push.getD i (0, 0)))

/-- The conjugate of a complex number. -/
def conjC (a : Int × Int) : Int × Int := (a.1, -a.2)

/-- The square of a complex number's modulus. -/
def squareC (a : Int × Int) : Nat := a.1.natAbs ^ 2 + a.2.natAbs ^ 2

/-- R106: the correlation of an output's error with the samples at the taps; error and samples are in 1/1024, taps in 2⁻²⁴. -/
def pushOf (e : Int × Int) (xs : List (Int × Int)) : List (Int × Int) :=
  xs.map (fun x => (16 * (timesC e (conjC x)).1, 16 * (timesC e (conjC x)).2))

/-- R106: the four filters adapt to the errors of the X and the Y output. -/
def adaptTaps (mu leak : Nat) (t : Taps) (e : Jones) (xs ys : List (Int × Int)) : Taps :=
  { xx := adaptFilter mu leak t.xx (pushOf e.1 xs)
    xy := adaptFilter mu leak t.xy (pushOf e.1 ys)
    yx := adaptFilter mu leak t.yx (pushOf e.2 xs)
    yy := adaptFilter mu leak t.yy (pushOf e.2 ys) }

/-- R106: the Y filters orthogonal to the X filters: their conjugates in reverse order, crossed, one of them negated
(assumption 64). -/
def orthogonal (t : Taps) : Taps :=
  { t with
    yx := t.xy.reverse.map (fun c => (-c.1, c.2))
    yy := t.xx.reverse.map (fun c => (c.1, -c.2)) }

/-- R106: the taps that a cold convergence starts from: each polarisation straight through (assumption 64). -/
def straightTaps (len : Nat) : Taps :=
  let none := List.replicate len ((0, 0) : Int × Int)
  let one := none.set (len / 2) (2 ^ 24, 0)
  ⟨one, none, none, one⟩

end Sys2Proof.Machine
end

