-- ==== Sys2Proof/Machine/Symbols.lean ====
section
/-!
DEFINITION. The sequences that the spec generates by shift registers, the use of the symbol positions of a carrier frame, and
its known symbols (R46 to R48, R160).
-/

namespace Sys2Proof.Machine

/-! ### Sequences (R47, R48, R160) -/

/-- R47: the bits of the sync word. -/
def syncBits : List Bool := shiftBits [11, 9] 512

/-- R48: the bits of a carrier frame's 1,020 pilots. -/
def pilotBits : List Bool := shiftBits [15, 14] 4080

/-- R160: the signs of a filler block. -/
def fillerSigns : List Bool := shiftBits [15, 14] 1024

/-! ### Positions (R46) -/

/-- R46: what a symbol position of a carrier frame holds: the number of its sync symbol, of its header symbol, of its pilot
or of its payload symbol. -/
inductive Place where
  | sync (j : Nat)
  | header (j : Nat)
  | pilot (k : Nat)
  | payload (i : Nat)
deriving DecidableEq, Repr

/-- R46: the use of the positions 0 to 65,535. -/
def placeOf (p : Nat) : Place :=
  if p < 128 then .sync p
  else if p < 256 then .header (p - 128)
  else if p % 64 = 0 then .pilot (p / 64 - 4)
  else .payload (63 * (p / 64 - 4) + p % 64 - 1)

/-! ### Known symbols (R47, R48) -/

/-- A symbol: its component in each dimension. -/
structure Symbol where
  xi : Level
  xq : Level
  yi : Level
  yq : Level
deriving DecidableEq, Repr

/-- One bit of a field. -/
def bitOf (bs : List Bool) (k : Nat) : Bool := bs.getD k false

/-- Four bits as a symbol of the known kind. -/
def knownSymbol (bs : List Bool) (xi xq yi yq : Nat) : Symbol :=
  ⟨knownLevel (bitOf bs xi), knownLevel (bitOf bs xq), knownLevel (bitOf bs yi), knownLevel (bitOf bs yq)⟩

/-- R47: sync symbol j: bits 0 to 255 form X, bits 256 to 511 Y. -/
def syncSymbol (j : Nat) : Symbol := knownSymbol syncBits (2 * j) (2 * j + 1) (256 + 2 * j) (256 + 2 * j + 1)

/-- R48: pilot k takes four bits. -/
def pilotSymbol (k : Nat) : Symbol := knownSymbol pilotBits (4 * k) (4 * k + 1) (4 * k + 2) (4 * k + 3)

end Sys2Proof.Machine
end

