-- ==== Sys2Proof/Machine/Dsp.lean ====
section
/-!
DEFINITION. The stages of the receive DSP in their order, carrier frame by carrier frame, and the second pass over the samples
that stage 4 left (R96, R100, R101, R105 to R109, R111). Parts of samples and symbols are in 1/1024 of the rms level of a
dimension.
-/

namespace Sys2Proof.Machine

/-! ### Complex numbers -/

/-- The product with a number whose parts are in 2⁻²⁴. -/
def turnC (a u : Int × Int) : Int × Int := ((timesC a u).1 / 2 ^ 24, (timesC a u).2 / 2 ^ 24)

/-- The sum of complex numbers. -/
def sumC (xs : List (Int × Int)) : Int × Int := ((xs.map (·.1)).sum, (xs.map (·.2)).sum)

/-- The point of the unit circle, in 2⁻²⁴, at the phase of a number; 1 at the phase of zero (DESIGN CHOICE: the spec states no
phase there; assumption 83). -/
def unitC (a : Int × Int) : Int × Int :=
  let r : Nat := rootOf (squareC a) 64 0
  if r = 0 then (2 ^ 24, 0) else (a.1 * 2 ^ 24 / r, a.2 * 2 ^ 24 / r)

/-- A component of both polarisations: XI, XQ, YI, YQ. -/
def jonesPart (v : Jones) (d : Nat) : Int :=
  match d with
  | 0 => v.1.1
  | 1 => v.1.2
  | 2 => v.2.1
  | _ => v.2.2

/-- A frame of which nothing is held. -/
def DspFrame.empty : DspFrame := ⟨[], [], []⟩

/-- The sample at a place; zero beyond both ends (DESIGN CHOICE: what stands in the filters before the first sample is not stated;
assumption 83). -/
def sampleIn (xs : List Jones) (k : Int) : Jones := if k < 0 then ((0, 0), (0, 0)) else xs.getD k.toNat ((0, 0), (0, 0))

/-! ### Stages 1 to 4 (R96, R100, R101, R105) -/

/-- R96: stage 1: skew and gain of each ADC dimension, then the quadrature correction of each polarisation. -/
def State.stageOne (s : State) (w : Wing) (adc : List (List Int)) : List Jones × Int × Int :=
  let dim (k : Nat) := s.frontEnd w k (adc.getD k [])
  let d := (s.rx.get w).dsp
  let x := Config.quadrature d.quadX ((dim 0).zip (dim 1))
  let y := Config.quadrature d.quadY ((dim 2).zip (dim 3))
  (x.2.zip y.2, x.1, y.1)

/-- R100: the phase, in 2⁻³² turns, by which a frequency offset in MHz turns the carrier from one sample to the next, 9/8 samples
per symbol. -/
def phaseStep (offset : Int) (baud : Nat) : Int := offset * 2 ^ 32 * 32 / (9000 * max 1 baud)

/-- R96, R100: stage 2: the offset is removed. -/
def stageTwo (from_ : Nat) (step : Int) (xs : List Jones) : List Jones :=
  xs.mapIdx (fun k v =>
    let u := Config.unitCircle ((-((from_ : Int) + k * step)) % 2 ^ 32).toNat
    (turnC v.1 u, turnC v.2 u))

/-- R96, R101: stage 3: the dispersion filter of `taps` taps; `past` are the samples before these. -/
def stageThree (cd : Int) (baud taps : Nat) (past xs : List Jones) : List Jones :=
  let all := past ++ xs
  let ts := (List.range taps).map (Config.dispersionTap cd baud)
  (List.range xs.length).map (fun k =>
    let at_ := (List.range taps).map (fun i => sampleIn all ((past.length + k : Int) - i))
    (firC ts (at_.map (·.1)), firC ts (at_.map (·.2))))

/-! ### Decisions (R47, R77, R78) -/

/-- R78: the root of an index's mean square amplitude, in 2⁻¹⁰. -/
def rmsRoot (n : Nat) : Nat := rootOf (meanSquare n * 2 ^ 20).floor.toNat 16 0

/-- R77, R78: a component in 1/1024 of R77's amplitude 1. -/
def toBase (n : Nat) (v : Int) : Int := v * rmsRoot n / 1024

/-- R77, R78: a component of amplitude `a`. -/
def levelOf (n : Nat) (minus : Bool) (a : Nat) : Int :=
  let v : Int := 1024 * 1024 * a / (max 1 (rmsRoot n) : Nat)
  if minus then -v else v

/-- R77: how far a component's magnitude lies from an amplitude. -/
def levelGap (n : Nat) (v : Int) (a : Nat) : Nat := (((toBase n v).natAbs : Int) - 1024 * (a : Int)).natAbs

/-- R77: the nearest amplitude of the base; halfway the one that the base lists first (DESIGN CHOICE: the spec states no decision
there; assumption 83). -/
def nearest (n : Nat) (v : Int) : Nat :=
  (amplitudes n).foldl (fun b a => if levelGap n v a < levelGap n v b then a else b) ((amplitudes n).headD 1)

/-- R106, R108: the tentative decision on a payload component. -/
def decidePart (n : Nat) (v : Int) : Int := levelOf n (decide (v < 0)) (nearest n v)

/-- R47: the decision on a component of a header symbol. -/
def decideKnown (v : Int) : Int := if v < 0 then -1024 else 1024

/-- A component of a known symbol. -/
def Level.known (l : Level) : Int := if l.minus then -1024 else 1024

/-- A known symbol in both polarisations. -/
def Symbol.known (x : Symbol) : Jones := ((x.xi.known, x.xq.known), (x.yi.known, x.yq.known))

/-- R46, R106: the symbol known at a position: sync word or pilot. -/
def knownAt (p : Nat) : Option Jones :=
  match placeOf p with
  | .sync j => some (syncSymbol j).known
  | .pilot k => some (pilotSymbol k).known
  | _ => none

/-- R106, R108: what the receiver takes a symbol at a position for: what is known there, or the decision on it. -/
def decideAt (n p : Nat) (v : Jones) : Jones :=
  match knownAt p with
  | some k => k
  | none =>
    if p < 256 then ((decideKnown v.1.1, decideKnown v.1.2), (decideKnown v.2.1, decideKnown v.2.2))
    else ((decidePart n v.1.1, decidePart n v.1.2), (decidePart n v.2.1, decidePart n v.2.2))

/-! ### Stage 5 (R106) -/

/-- R106: what the equaliser adapts to at a position, from the output turned back by the carrier phase: nothing, or a symbol. -/
def aimAt (mode n p : Nat) (v : Jones) : Option Jones := if mode = 1 then knownAt p else some (decideAt n p v)

/-- R106: the error of the constant-modulus criterion. -/
def modulusError (v : Int × Int) : Int × Int :=
  let r : Int := ((Config.modulus : Int) - squareC v) / 1024
  (v.1 * r / 1024, v.2 * r / 1024)

/-- The equaliser along a carrier frame: its taps, its outputs, newest first, and the sum of its squared errors. -/
structure EqRun where
  taps : Taps
  outs : List Jones
  error : Nat
deriving DecidableEq, Repr

/-- R106: the error of an output at a position in a mode; `phase` is the carrier phase of X and Y last estimated, by which
decisions are turned (DESIGN CHOICE: the spec does not say by which; assumption 83). -/
def errorOf (blind : Bool) (aim : Option Jones) (phase v : Jones) : Jones :=
  if blind then (modulusError v.1, modulusError v.2)
  else match aim with
    | some a =>
      let x := turnC a.1 phase.1
      let y := turnC a.2 phase.2
      ((x.1 - v.1.1, x.2 - v.1.2), (y.1 - v.2.1, y.2 - v.2.2))
    | none => ((0, 0), (0, 0))

/-- R106: the equaliser puts out the symbol at a position, and adapts; `all` are stage 4's samples, of which `start` come before
the frame's. -/
def EqRun.next (x : EqRun) (blind : Bool) (aim : Nat → Jones → Option Jones) (mu leak : Nat) (phase : Jones) (all : List Jones)
    (start p : Nat) : EqRun :=
  let len := x.taps.xx.length
  let at_ := (List.range len).map (fun i => sampleIn all ((start + 9 * p / 8 + len / 2 : Int) - i))
  let xs := at_.map (·.1)
  let ys := at_.map (·.2)
  let v := butterfly x.taps xs ys
  let e := errorOf blind (aim p (turnC v.1 (conjC phase.1), turnC v.2 (conjC phase.2))) phase v
  { taps := adaptTaps mu leak x.taps e xs ys
    outs := v :: x.outs
    error := x.error + squareC e.1 + squareC e.2 }

/-- R96, R106: stage 5 over the positions of a carrier frame. -/
def stageFive (taps : Taps) (blind : Bool) (aim : Nat → Jones → Option Jones) (mu leak : Nat) (phase : Jones)
    (past xs : List Jones) (positions : List Nat) : EqRun :=
  positions.foldl (fun x p => x.next blind aim mu leak phase (past ++ xs) past.length p) ⟨taps, [], 0⟩

/-- R106: the squared cross-correlation of the two outputs over a frame, and their energies. -/
def crossOf (ys : List Jones) : Nat × Nat × Nat :=
  (squareC (sumC (ys.map (fun v => timesC v.1 (conjC v.2)))), (ys.map (fun v => squareC v.1)).sum,
    (ys.map (fun v => squareC v.2)).sum)

/-! ### Stage 6 (R108) -/

/-- The quarter-turns of a number's phase, to the nearest. -/
def quarterOf (a : Int × Int) : Nat :=
  if a.2.natAbs ≤ a.1.natAbs then (if 0 ≤ a.1 then 0 else 2) else (if 0 ≤ a.2 then 1 else 3)

/-- A number turned back by quarter-turns. -/
def turnBack (q : Nat) (a : Int × Int) : Int × Int :=
  match q with
  | 0 => a
  | 1 => (a.2, -a.1)
  | 2 => (-a.1, -a.2)
  | _ => (-a.2, a.1)

/-- R108: what a 64-symbol block of one polarisation tells of the carrier phase: the phase of its known symbol, its
decision-directed sum turned back to it, and whether that took a turn, which is a cycle slip. `want` is what a symbol is taken
for, once turned back. -/
def blockPhase (want : Nat → Int × Int → Int × Int) (first : Nat) (ys : List (Int × Int)) : (Int × Int) × (Int × Int) × Bool :=
  let v := ys.headD (0, 0)
  let anchor := timesC v (conjC (want first v))
  let u := unitC anchor
  let sum := sumC ((ys.drop 1).mapIdx (fun k y => timesC y (conjC (want (first + 1 + k) (turnC y (conjC u))))))
  let q := quarterOf (timesC sum (conjC anchor))
  (anchor, turnBack q sum, q != 0)

/-- The elements of a list, 64 at a time. -/
def blocksOf {α : Type} : Nat → List α → List (List α)
  | 0, _ => []
  | k + 1, xs => if xs.isEmpty then [] else xs.take 64 :: blocksOf k (xs.drop 64)

/-- R96, R108: stage 6 on one polarisation of a carrier frame: the symbols turned back block by block, the cycle slips, and the
phase last estimated. A window ends with its carrier frame (DESIGN CHOICE: the model holds no symbols beyond it; assumption
83). -/
def stageSix (win : Nat) (dd : Bool) (want : Nat → Int × Int → Int × Int) (ys : List (Int × Int)) (phase : Int × Int) :
    List (Int × Int) × Nat × (Int × Int) :=
  let bs := blocksOf 1024 ys
  let es := bs.mapIdx (fun j b => blockPhase want (64 * j) b)
  let us := (List.range bs.length).map (fun j =>
    let near := (es.drop (j - win)).take (min j win + win + 1)
    unitC (sumC (near.map (fun e => if dd then sumC [e.1, e.2.1] else e.1))))
  ((bs.zip us).flatMap (fun e => e.1.map (fun y => turnC y (conjC e.2))), if dd then es.countP (·.2.2) else 0,
    us.getLastD phase)

/-- R108: stage 6 on both polarisations. -/
def recoverPhase (win : Nat) (dd : Bool) (want : Nat → Jones → Jones) (ys : List Jones) (phase : Jones) :
    List Jones × Nat × Jones :=
  let x := stageSix win dd (fun p v => (want p (v, v)).1) (ys.map (·.1)) phase.1
  let y := stageSix win dd (fun p v => (want p (v, v)).2) (ys.map (·.2)) phase.2
  (x.1.zip y.1, x.2.1 + y.2.1, (x.2.2, y.2.2))

/-! ### Stage 7 (R109) -/

/-- R109: the summed squared deviation of the 1,148 known symbols of a frame, in a dimension. -/
def knownNoise (ys : List Jones) (d : Nat) : Nat :=
  (ys.mapIdx (fun p v => match knownAt p with
    | some k => (jonesPart v d - jonesPart k d).natAbs ^ 2
    | none => 0)).sum

/-- R77, R78, R109: a noise variance in the square of 1/1024 of R77's amplitude 1. -/
def noiseBase (n v : Nat) : Nat := (v * meanSquare n).floor.toNat

/-- R75, R161: where a coded bit's component stands: the carrier frame of its superframe, the position in it and the dimension. -/
def bitPlace (n q : Nat) : Nat × Nat × Nat :=
  let a := q / amplitudeBits n
  let i := a / 4 % 64260
  (a / 4 / 64260, 64 * (i / 63 + 4) + i % 63 + 1, a % 4)

/-! ### A carrier frame through the stages (R96) -/

/-- R96 to R109: a carrier frame's samples pass stages 1 to 6. In pilot mode the equaliser adapts with MU_TRK and LEAK too (DESIGN
CHOICE: R106 gives them for the decision-directed mode; assumption 80). What is left in the DSP, the equaliser's taps, the cycle slips, and
the equaliser's mean squared error. -/
def State.frameThrough (s : State) (w : Wing) (adc : List (List Int)) : Dsp × Taps × Nat × Nat :=
  let i := [w.n]
  let r := s.rx.get w
  let d := r.dsp
  let baud := s.rd .RXW_RATE_BAUD i
  let n := s.rd .RXW_LINE_CUR_H_IDX i
  let one := s.stageOne w adc
  let step := phaseStep (s.rdS .RXW_FR_STAT_OFFSET i) baud
  let two := stageTwo d.turned step one.1
  let three := stageThree (s.rdS .RXW_CD_STAT_CD_EST i) baud (s.rd .RXW_TAP_STAT_USED i) d.past two
  let four := Config.interpolate r.timingBw d.timing three
  let mode := s.rd .RXW_EQ_STAT_MODE i
  let blind := mode == 0
  let phase : Jones := (d.phaseX, d.phaseY)
  let positions := List.range (four.2.length * 8 / 9)
  let mu := if blind then r.muAcq else s.rd .RXW_EQ_ADAPT_MU_TRK i
  let five := stageFive r.taps blind (aimAt mode n) mu (if blind then 0 else s.rd .RXW_EQ_ADAPT_LEAK i) phase
    (d.frames.headD DspFrame.empty).inputs four.2 positions
  let raw := five.outs.reverse
  let six := recoverPhase (max 1 (s.rd .RXW_PR_CFG_WIN i)) (s.flag .RXW_PR_CFG_BLIND_EN i) (decideAt n) raw phase
  ({ d with
    quadX := one.2.1
    quadY := one.2.2
    turned := (((d.turned : Int) + one.1.length * step) % 2 ^ 32).toNat
    past := two
    timing := four.1
    phaseX := six.2.2.1
    phaseY := six.2.2.2
    frames := (⟨four.2, raw, six.1⟩ :: d.frames).take 64
    count := d.count + 1 }, five.taps, six.2.1, five.error / max 1 positions.length)

/-- R106: the outputs of the latest frame are on one polarisation. -/
def Dsp.singular (d : Dsp) : Bool :=
  match d.frames with
  | [] => false
  | f :: _ =>
    let c := crossOf f.raw
    Config.onePolarisation c.1 c.2.1 c.2.2

/-! ### The second pass (R111) -/

/-- R111, R161: the reference that a block's decoded bits give for a component of its superframe, by its amplitude's number; none
where the block does not hold the whole amplitude. -/
def referencePart (n number : Nat) (bits : List Bool) (a : Nat) : Option Int :=
  let m := amplitudeBits n
  let k := m * a - 32768 * number
  if m * a < 32768 * number || bits.length < k + m then none
  else some (levelOf n (bits.getD (k + labelBits n) false) ((amplitudes n).getD (labelPlace n ((bits.drop k).take (labelBits n))) 1))

/-- R111: the reference symbol at a position of carrier frame `f` of a superframe; none where the block does not give all of it. -/
def referenceAt (n number : Nat) (bits : List Bool) (f p : Nat) : Option Jones :=
  match placeOf p with
  | .payload i =>
    let a := 4 * (64260 * f + i)
    match referencePart n number bits a, referencePart n number bits (a + 1), referencePart n number bits (a + 2),
        referencePart n number bits (a + 3) with
    | some xi, some xq, some yi, some yq => some ((xi, xq), (yi, yq))
    | _, _, _, _ => none
  | _ => knownAt p

/-- R111: stages 5 and 6 run again over the samples of a carrier frame, towards the references where there are any; the other
symbols keep their first-pass outputs. The new taps and the new output. -/
def rerunFrame (taps : Taps) (mu leak win : Nat) (n : Nat) (ref : Nat → Option Jones) (phase : Jones) (past : List Jones)
    (x : DspFrame) : Taps × List Jones :=
  let positions := (List.range x.raw.length).filter (fun p => (ref p).isSome)
  let run := stageFive taps false (fun p _ => ref p) mu leak phase past x.inputs positions
  let raw := (positions.zip run.outs.reverse).foldl (fun ys e => ys.set e.1 e.2) x.raw
  (run.taps, (recoverPhase win true (fun p v => (ref p).getD (decideAt n p v)) raw phase).1)

/-- R161: the carrier frames of its superframe, the first and the last, that carry a block's bits. -/
def framesOf (n number : Nat) : Nat × Nat := ((bitPlace n (32768 * number)).1, (bitPlace n (32768 * number + 32767)).1)

/-- R111: the noise of a dimension measured again, against the references of a frame. -/
def referenceNoise (ref : Nat → Option Jones) (ys : List Jones) (d : Nat) : Nat :=
  let es := ys.mapIdx (fun p v => match ref p with
    | some r => some ((jonesPart v d - jonesPart r d).natAbs ^ 2)
    | none => none)
  (es.filterMap id).sum / max 1 (es.filterMap id).length

end Sys2Proof.Machine
end

