-- ==== Sys2Proof/Machine/IcmQueue.lean ====
section
/-!
DEFINITION. The intercom's transmit queue: what enters it, in which order it is served, and the messages that a change of
the wing's condition queues (R202, R203).
-/

namespace Sys2Proof.Machine

/-- Change a wing's intercom. -/
def State.onIcm (s : State) (w : Wing) (f : IcmSide → IcmSide) : State := { s with icm := s.icm.set w (f (s.icm.get w)) }

/-- R203: the priority of a message, 0 first. -/
def icmRank : IcmMsg → Nat
  | .ack _ => 0
  | .alarm _ _ => 1
  | .announce _ _ _ _ => 2
  | .advice _ _ _ _ => 3
  | .bringup _ _ _ _ _ _ _ _ => 4
  | .tag _ => 5
  | .user _ => 6

/-- The queued messages of one rank. -/
def ofRank (q : List IcmMsg) (r : Nat) : List IcmMsg := q.filter (fun m => icmRank m == r)

/-- R203: an ACK enters: a fifth one replaces the oldest. -/
def putAck (q : List IcmMsg) (m : IcmMsg) : List IcmMsg :=
  match ofRank q 0 with
  | old :: rest => if 3 ≤ rest.length then q.erase old ++ [m] else q ++ [m]
  | [] => q ++ [m]

/-- R203: a message enters the queue. ACK and USER messages are kept; any other replaces the queued one of its type. -/
def icmPut (q : List IcmMsg) (m : IcmMsg) : List IcmMsg :=
  match icmRank m with
  | 0 => putAck q m
  | 6 => q ++ [m]
  | r => q.filter (fun x => icmRank x != r) ++ [m]

/-- R203: the message that is served next. -/
def icmHead (q : List IcmMsg) : Option IcmMsg := (List.range 7).findSome? (fun r => (ofRank q r).head?)

/-- R203, R211, R213: the USER messages in the queue, where the one that a burst carries stays until the burst has ended. -/
def IcmSide.users (i : IcmSide) : Nat :=
  (ofRank i.queue 6).length + (match i.burst with
    | some (.user _) => 1
    | _ => 0)

/-- R212: the number of queued USER messages is shown. -/
def State.showQueued (s : State) (w : Wing) : State := s.wr .ICM_USER_TX_CTL_QUEUED [w.n] (s.icm.get w).users

/-- R203: queue a message on a wing. -/
def State.icmQueue (s : State) (w : Wing) (m : IcmMsg) : State :=
  (s.onIcm w (fun i => { i with queue := icmPut i.queue m })).showQueued w

/-! ### Alarms and bring-up (R202) -/

/-- R202: the alarm bitmap. -/
def State.alarmBits (s : State) (w : Wing) : Nat :=
  let i := [w.n]
  bitNat (s.flag .OPT_RX_STAT_LOS i) + 2 * bitNat (s.rd .RXW_RX_STAT_STATE i != 11) +
    4 * bitNat (s.flag .RXW_HDR_STAT_HDR_LOSS_TX i) + 8 * bitNat (s.flag .FEC_STAT_SF i) +
    16 * bitNat (s.rd .OPT_TX_STAT_STATE i == 6) + 32 * bitNat (s.rd .ELC_HS_STAT_STATE i == 6)

/-- R202: the ALARM message: an unchanged bitmap keeps its ALM_SEQ. -/
def State.queueAlarm (s : State) (w : Wing) : State :=
  let bits := s.alarmBits w
  let i := s.icm.get w
  let seq := if bits = i.alarmBits then i.alarmSeq else (i.alarmSeq + 1) % 256
  (s.onIcm w (fun i => { i with alarmBits := bits, alarmSeq := seq })).icmQueue w (.alarm bits seq)

/-- R202: the fields of BRINGUP other than RX_STATE. -/
def State.bringupFields (s : State) (w : Wing) : List Nat :=
  let i := [w.n]
  [bitNat (s.icm.get w).heard, s.rd .TXW_RATE_BAUD i, s.rd .RXW_RATE_BAUD i, s.rd .ELC_FLOOR_BAUD i,
    s.rd .ELC_FLOOR_H_IDX i, s.rd .ELC_FLOOR_FEC i, s.rd .OPT_TX_FREQ_CH i]

/-- R202: the BRINGUP message as it would start now. -/
def State.bringupMsg (s : State) (w : Wing) : IcmMsg :=
  let i := [w.n]
  .bringup (s.icm.get w).heard (s.rd .TXW_RATE_BAUD i) (s.rd .RXW_RATE_BAUD i) (s.rd .RXW_RX_STAT_STATE i)
    (s.rd .ELC_FLOOR_BAUD i) (s.rd .ELC_FLOOR_H_IDX i) (s.rd .ELC_FLOOR_FEC i) (s.rd .OPT_TX_FREQ_CH i)

/-- R202: queue a BRINGUP. -/
def State.queueBringup (s : State) (w : Wing) : State :=
  (s.onIcm w (fun i => { i with lastBringup := s.bringupFields w })).icmQueue w (s.bringupMsg w)

/-- R22, R202: ALARM on each change of the bitmap, and BRINGUP when a field other than RX_STATE changes; while the control core
does not run, nothing is queued. -/
def State.icmRefresh (s : State) (w : Wing) : State :=
  if !s.wingEnabled w || !s.coreRuns then s
  else
    let s := s.when (s.alarmBits w != (s.icm.get w).alarmBits) (·.queueAlarm w)
    s.when (s.bringupFields w != (s.icm.get w).lastBringup) (·.queueBringup w)

/-! ### Interruptions (R207, R213) -/

/-- R203, R213: an abandoned message is head of its type again, unless a newer one has replaced it: of the ACKs, a fifth
replaces the oldest, which the abandoned one is. -/
def putBack (q : List IcmMsg) (m : IcmMsg) : List IcmMsg :=
  let n := (ofRank q (icmRank m)).length
  let kept := if icmRank m = 6 then true else if icmRank m = 0 then decide (n < 4) else decide (n = 0)
  if kept then m :: q else q

/-- R213: a burst in progress is abandoned. -/
def State.icmAbort (s : State) (w : Wing) : State :=
  match (s.icm.get w).burst with
  | none => s
  | some m =>
    let s := s.onIcm w (fun i => { i with burst := none, wave := none, queue := putBack i.queue m })
    ((s.countWrap .ICM_CNT4_TX_ABORT [w.n]).evt .ICM_EVT_TX_ABORT [w.n]).showQueued w

/-- R207: reception of a frame ends and the search resumes with its AGC released. -/
def State.icmSearch (s : State) (w : Wing) : State :=
  ((s.wr .ICM_RX_STAT_STATE [w.n] 0).wrb .ICM_RX_STAT_AGC_FROZEN [w.n] false).onIcm w
    (fun i => { i with chirps := [], outputs := 0, holes := [] })

/-! ### The receiver's input (R196, R206, R209) -/

/-- R212: a value of SF or DEPTH outside its range is taken as the nearer limit. -/
def between (lo hi v : Nat) : Nat := max lo (min hi v)

/-- R196: the spreading factor that the receiver listens at. -/
def State.rxSf (s : State) (w : Wing) : Nat := between 7 12 (s.rd .ICM_RX_CFG_SF [w.n])

/-- R206: a level tracks the magnitude of the outputs with a time constant of 4 chips, 16 outputs. -/
def track (level : Nat) (v : Int) : Nat := (15 * level + v.natAbs) / 16

/-- R206, R208: an output moves the receiver's level unless it is frozen, and the parallel detector's. -/
def IcmSide.hearOutput (i : IcmSide) (frozen receiving : Bool) (v : Int) : IcmSide :=
  { i with
    level := if frozen then i.level else track i.level v
    side := track i.side v
    outputs := if receiving then i.outputs + 1 else i.outputs }

/-- R196, R209: an output of the wing's context reaches the intercom receiver; the chirp of a frame that it falls in is erased
when it is unsettled. -/
def State.icmOutput (s : State) (w : Wing) (v : Int) (unsettled : Bool) : State :=
  let i := s.icm.get w
  let receiving := s.rd .ICM_RX_STAT_STATE [w.n] != 0
  let k := i.outputs / 2 ^ (2 + s.rxSf w)
  let s := s.onIcm w (·.hearOutput (s.flag .ICM_RX_STAT_AGC_FROZEN [w.n]) receiving v)
  if receiving && unsettled && !i.holes.contains k then
    (s.countWrap .ICM_CNT5_ERASED [w.n]).onIcm w (fun i => { i with holes := i.holes ++ [k] })
  else s

end Sys2Proof.Machine
end

