-- ==== Sys2Proof/Machine/Fec.lean ====
section
/-!
DEFINITION. The Ubmus decoder: blocks, lock, the two raw defects and the bit accounting (R156 to R177).
-/

namespace Sys2Proof.Machine

/-- Change a wing's decoder. -/
def State.onDec (s : State) (w : Wing) (f : Decoder → Decoder) : State := { s with dec := s.dec.set w (f (s.dec.get w)) }

/-- R175: ACCT[t] for the present superframe. -/
def State.showAcct (s : State) (w : Wing) (t n fec : Nat) : State :=
  (((s.wr .FEC_ACCT_A_DM_BITS [w.n, t] (dmBits n)).wr .FEC_ACCT_A_BLOCKS [w.n, t] (fecBlocks n)).wr
    .FEC_ACCT_P_PARITY [w.n, t] (parityBits n fec)).wr .FEC_ACCT_I_INFO [w.n, t] (infoBits n fec)

/-- R174: BER_REQ in 10⁻⁶: the thresholds of R157 at the uniform indices, else the table that the spec does not list. -/
def berReq (n fec : Nat) : Nat :=
  if n = 0 || n = 32 || n = 64 then (if fec = 0 then 26000 else 42000) else Config.berReq n fec

/-! ### Blocks (R164 to R170) -/

/-- What the decoder makes of a block: whether its final syndrome is zero, whether the first pass left it so, the first-pass
hard-decision errors, the iterations that a zero syndrome needs, the rejections of the dematcher, the information bits with
their marks, and the bits of the matcher block that is not complete. -/
structure BlockResult where
  zero : Bool
  firstZero : Bool
  errBits : Nat
  iterations : Nat
  rejected : Nat
  info : List (Bool × Bool)
  rest : List DecodedBit
deriving DecidableEq, Repr

/-- The superframe that held the carrier frame `back` before the latest one lies before the present one. -/
def RxLine.before (r : RxLine) (back : Nat) : Bool := decide (r.inSf ≤ back)

/-- R166, R408: the index and profile of the superframe that held the carrier frame `back` before the latest one. -/
def State.pairAt (s : State) (w : Wing) (back : Nat) : Nat × Nat :=
  let r := s.rx.get w
  if r.before back then r.earlier else (s.rd .RXW_LINE_CUR_H_IDX [w.n], s.rd .RXW_LINE_CUR_FEC [w.n])

/-- R109: the noise variance of a dimension: its own, or with NOISE_DIM = 0 that of its polarisation, the mean of its two
dimensions' (DESIGN CHOICE: the spec does not say how the one variance is formed; assumption 80). -/
def FrameNote.noiseOf (f : FrameNote) (d : Nat) : Nat :=
  let v (k : Nat) := f.noise.getD k 0
  if f.perDim then v d else (v (d / 2 * 2) + v (d / 2 * 2 + 1)) / 2

/-- R45, R161: the carrier frame of its superframe that carries coded bit `q`: 64,260 payload symbols of four amplitudes. -/
def frameOf (n q : Nat) : Nat := q / amplitudeBits n / 257040

/-- R109: what was taken for the carrier frame that carried coded bit `q` of a block's superframe. -/
def RxLine.noteOf (r : RxLine) (n : Nat) (b : BlockRx) (q : Nat) : FrameNote :=
  r.notes.getD (b.back - (frameOf n q - frameOf n (32768 * b.number))) ⟨[], false, false⟩

/-- R75, R96, R161: what the component that carries coded bit `q` of a block's superframe was received as, in 1/1024 of R77's
amplitude 1. -/
def RxLine.received (r : RxLine) (n : Nat) (b : BlockRx) (q : Nat) : Int :=
  let p := bitPlace n q
  let x := r.dsp.frames.getD (b.back - (p.1 - frameOf n (32768 * b.number))) DspFrame.empty
  toBase n (jonesPart (x.out.getD p.2.1 ((0, 0), (0, 0))) p.2.2)

/-- R109, R164, R175: the value that the demapper delivers for coded bit `q` of a superframe, from what its component was
received as; the injector inverts some. `k` counts the values within the block. -/
def State.softOf (s : State) (w : Wing) (n : Nat) (b : BlockRx) (k : Nat) : Int :=
  let m := amplitudeBits n
  let q := 32768 * b.number + k
  let r := s.rx.get w
  let f := r.noteOf n b q
  let v := softBit n f.prior (noiseBase n (f.noiseOf (q / m % 4))) (r.received n b q) (q % m)
  if s.use .FEC_INJ_EN [w.n] = 1 then injected (clampNat 6 30 (s.use .FEC_INJ_EXP [w.n])) ((s.dec.get w).seen + k) v else v

/-- R164, R166: the block that enters the window. -/
def State.entering (s : State) (w : Wing) (b : BlockRx) : HeldBlock :=
  let p := s.pairAt w b.back
  let sf := (s.dec.get w).sfNo
  { number := b.number
    sf := if (s.rx.get w).before b.back then sf - 1 else sf
    n := p.1
    fec := p.2
    frame := (s.rx.get w).dsp.count - b.back
    llr := (List.range 32768).map (s.softOf w p.1 b) }

/-- R170: the bits whose first-pass hard decision, the sign of the value delivered, differs from the decoded value. -/
def HeldBlock.hardErrors (h : HeldBlock) (bits : List Bool) : Nat :=
  ((h.llr.zip bits).map (fun e => hardBit e.1 != e.2)).count true

/-- R162, R173: a block's decoded bits, marked where the block is uncorrectable. -/
def markBits (n fec number : Nat) (zero : Bool) (bits : List Bool) : List DecodedBit :=
  bits.mapIdx (fun k x => ⟨x, isParityBit n fec (32768 * number + k), !zero⟩)

/-- R168: the bits of a matcher block at the head of a block whose earlier bits never left the window: a sequence is missing, so
only a uniform index gives information bits (DESIGN CHOICE: the spec does not say what becomes of them; assumption 80). -/
def headBits (n : Nat) (xs : List DecodedBit) : List (Bool × Bool) :=
  if uniformIndex n then (dematchBlock n xs).1 else []

/-- R168: what the dematcher makes of a block's bits: matcher blocks are counted from the superframe's first bit, so a block can
begin within one, of which `rest` is held. -/
def dematchFrom (n number : Nat) (rest xs : List DecodedBit) : List (Bool × Bool) × Nat × List DecodedBit :=
  let size := 1024 * amplitudeBits n
  let at0 := 32768 * number % size
  if at0 = 0 then dematchAll n 32 xs
  else if rest.length = at0 then dematchAll n 33 (rest ++ xs)
  else
    let r := dematchAll n 32 (xs.drop (size - at0))
    (headBits n (xs.take (size - at0)) ++ r.1, r.2)

/-- R165, R168, R170: what comes of a block leaving the window with the hard decisions `bits`, those of the first pass `first`;
with loss of signal it leaves uncorrectable (R176). -/
def State.judgeBlock (s : State) (w : Wing) (h : HeldBlock) (first bits : List Bool) (iterations : Nat) : BlockResult :=
  let d := s.dec.get w
  let zero := syndromeZero h.n h.fec h.number d.chain bits && !s.flag .OPT_RX_STAT_LOS [w.n]
  let r := dematchFrom h.n h.number d.rest (markBits h.n h.fec h.number zero bits)
  { zero := zero
    firstZero := syndromeZero h.n h.fec h.number d.chain first
    errBits := h.hardErrors bits
    iterations := iterations
    rejected := r.2.1
    info := r.1
    rest := r.2.2 }

/-- R176: what comes of a block that is in the window when the receiver stops: it is delivered uncorrectable and marked, with the
hard decisions on the values held (DESIGN CHOICE: the spec does not give its bits; assumption 80). -/
def State.dropBlock (s : State) (w : Wing) (h : HeldBlock) : BlockResult :=
  let r := dematchFrom h.n h.number (s.dec.get w).rest (markBits h.n h.fec h.number false (h.llr.map hardBit))
  { zero := false
    firstZero := false
    errBits := 0
    iterations := 0
    rejected := r.2.1
    info := r.1
    rest := r.2.2 }

/-- R165: the iterations run at a window position. -/
def State.iterations (s : State) (w : Wing) (b : BlockResult) : Nat :=
  let m := s.use .FEC_CFG_ITER_MAX [w.n]
  if s.use .FEC_CFG_EARLY_STOP [w.n] = 1 && b.zero then max 1 (min b.iterations m) else m

/-- R170: the counts that a block leaving the window advances. -/
def State.countBlock (s : State) (w : Wing) (b : BlockResult) : State :=
  let i := [w.n]
  let zero := b.zero
  let p1 := if s.flag .RXW_SP2_STAT_ACTIVE i then b.firstZero else zero
  let t := (s.countWide .FEC_BLOCKS_LO_BLOCKS .FEC_BLOCKS_HI_BLOCKS i).countWide .FEC_UNCORR_LO_UNCORR
    .FEC_UNCORR_HI_UNCORR i (bitNat !zero)
  let t := t.countWide .FEC_UNCORR_P1_LO_UNCORR_P1 .FEC_UNCORR_P1_HI_UNCORR_P1 i (bitNat !p1)
  let t := t.countWide .FEC_BITS_LO_BITS .FEC_BITS_HI_BITS i (if zero then 32768 else 0)
  let t := t.countWide .FEC_ERR_BITS_LO_ERR_BITS .FEC_ERR_BITS_HI_ERR_BITS i (if zero then b.errBits else 0)
  let t := t.countWide .FEC_DEMATCH_LO_DEMATCH_ERR .FEC_DEMATCH_HI_DEMATCH_ERR i b.rejected
  t.countWide .FEC_ITER_LO_ITER_SUM .FEC_ITER_HI_ITER_SUM i (s.iterations w b)

/-- R174: the superframe whose blocks are leaving the window began after LOCKED rose. -/
def Decoder.counts (d : Decoder) : Bool := d.window.isSome && decide (d.lockedAt < d.leaving)

/-- R169, R174: what the decoder remembers of a block. -/
def Decoder.seeBlock (d : Decoder) (zero : Bool) (errBits ref : Nat) : Decoder :=
  let counts := d.counts && zero
  { d with
    zeros := if zero then min 256 (d.zeros + 1) else 0
    uncorr := d.uncorr + bitNat !zero
    good := d.good || zero
    errs := if counts then d.errs + errBits else d.errs
    bits := if counts then d.bits + 32768 else d.bits
    ref := if counts then d.ref + ref * 32768 else d.ref }

/-- R169, R174: a received superframe's last block has left: its uncorrectable blocks count towards both defects. One of which
no block was decoded counts towards none. -/
def Decoder.endSuperframe (d : Decoder) (th : Nat) : Decoder :=
  if !d.good && d.uncorr == 0 then d
  else
    let bad := decide (th ≤ d.uncorr)
    { d with
      dead := if d.good then 0 else d.dead + 1
      failing := if bad then d.failing + 1 else 0
      clean := if d.counts && !bad then d.clean + 1 else 0
      window := if d.counts then d.window.map (· + 1) else d.window
      uncorr := 0
      good := false }

/-- R174: a block of a superframe leaves: the superframe whose blocks left before it has ended. -/
def Decoder.toSuperframe (d : Decoder) (sf th : Nat) : Decoder :=
  if d.leaving = sf then d else { d.endSuperframe th with leaving := sf }

/-- R14, R388: the decoder remembers when a block left it. -/
def Decoder.leave (d : Decoder) (mt : Nat) : Decoder := { d with outAt := (mt :: d.outAt).take 64 }

/-- R156, R168, R175: the decoder keeps the block for the chain and the bits of an incomplete matcher block. -/
def Decoder.pass (d : Decoder) (bits : List Bool) (r : BlockResult) : Decoder :=
  { d with chain := couple d.chain bits, rest := r.rest }

/-- R169, R174: what the decoder makes of a block that leaves: its superframe ends with the last of its blocks. -/
def Decoder.take (d : Decoder) (h : HeldBlock) (th : Nat) (r : BlockResult) : Decoder :=
  let d := (d.toSuperframe h.sf th).seeBlock r.zero r.errBits (berReq h.n h.fec)
  if h.number + 1 = fecBlocks h.n then d.endSuperframe th else d

/-- R165 to R170: a block leaves the window with its decisions. -/
def State.blockOut (s : State) (w : Wing) (h : HeldBlock) (bits : List Bool) (r : BlockResult) : State :=
  let th := s.rd .FEC_SF_CFG_SF_TH [w.n]
  (((s.countBlock w r).wr .FEC_STAT_PROFILE_RX [w.n] h.fec).onDec w
    (fun d => ((d.take h th r).leave s.mt).pass bits r)).say (.infoBits w r.info) |>.otnTake w
      (if h.sf = (s.dec.get w).sfNo then some (h.n, h.fec) else none) r.info

/-! ### The second pass (R111) -/

/-- R111: a frame of the superframe of a block that the window holds, by how many came after it. -/
def State.heldIndex (s : State) (w : Wing) (h : HeldBlock) (f : Nat) : Nat :=
  (s.rx.get w).dsp.count - h.frame - (f - (framesOf h.n h.number).1)

/-- R111: the second pass over one carrier frame: the new taps and the new output. -/
def State.rerun (s : State) (w : Wing) (h : HeldBlock) (bits : List Bool) (taps : Taps) (f : Nat) : Taps × List Jones :=
  let i := [w.n]
  let d := (s.rx.get w).dsp
  let k := s.heldIndex w h f
  rerunFrame taps (s.rd .RXW_EQ_ADAPT_MU_TRK i) (s.rd .RXW_EQ_ADAPT_LEAK i) (max 1 (s.rd .RXW_PR_CFG_WIN i)) h.n
    (referenceAt h.n h.number bits f) (d.phaseX, d.phaseY) (d.frames.getD (k + 1) DspFrame.empty).inputs
    (d.frames.getD k DspFrame.empty)

/-- R111: stages 5 and 6 run again over a block that decoded without residual syndrome: the taps converged to, and the new
outputs of its carrier frames. -/
def State.rerunBlock (s : State) (w : Wing) (h : HeldBlock) (bits : List Bool) : Taps × List (List Jones) :=
  let f := framesOf h.n h.number
  let a := s.rerun w h bits (s.rx.get w).taps f.1
  if f.2 = f.1 then (a.1, [a.2]) else ((s.rerun w h bits a.1 f.2).1, [a.2, (s.rerun w h bits a.1 f.2).2])

/-- R111: stage 7 again: the new value of bit `k` of a block, under the noise measured against the references. -/
def State.softAgain (s : State) (w : Wing) (h : HeldBlock) (bits : List Bool) (outs : List (List Jones)) (k : Nat) : Int :=
  let m := amplitudeBits h.n
  let q := 32768 * h.number + k
  let p := bitPlace h.n q
  let ys := outs.getD (p.1 - (framesOf h.n h.number).1) []
  let f := (s.rx.get w).notes.getD (s.heldIndex w h p.1) ⟨[], false, false⟩
  let f := { f with noise := (List.range 4).map (referenceNoise (referenceAt h.n h.number bits p.1) ys) }
  softBit h.n f.prior (noiseBase h.n (f.noiseOf p.2.2)) (toBase h.n (jonesPart (ys.getD p.2.1 ((0, 0), (0, 0))) p.2.2)) (q % m)

/-- R111, R121: the second pass over a block that leaves the window, after the first decode: the decoder takes the new values, and
the taps carry forward. A block that did not decode keeps its first-pass estimates, and the second decode runs on them. -/
def State.passAgain (s : State) (w : Wing) (h : HeldBlock) (first : List Bool) (firstZero : Bool) : State :=
  if !s.flag .RXW_SP2_STAT_ACTIVE [w.n] then s.onDec w (fun d => { d with again := [] })
  else if firstZero then
    let t := s.rerunBlock w h first
    let again := (List.range 32768).map (s.softAgain w h first t.2)
    ({ s with rx := s.rx.set w { s.rx.get w with taps := t.1 } }).onDec w (fun d => { d with again := again })
  else s.onDec w (fun d => { d with again := h.llr })

/-- R165: the oldest block leaves a window of 24. -/
def State.oldestOut (s : State) (w : Wing) (b : BlockRx) : State :=
  match (s.dec.get w).held with
  | h :: rest =>
    if 23 ≤ rest.length then
      let r := s.judgeBlock w h b.first b.bits b.iterations
      ((s.passAgain w h b.first r.firstZero).blockOut w h b.bits r).onDec w (fun d => { d with held := rest })
    else s
  | [] => s

/-- R165: a block enters the window. -/
def State.blockIn (s : State) (w : Wing) (b : BlockRx) : State :=
  let h := s.entering w b
  s.onDec w (fun d => { d with held := d.held ++ [h], seen := d.seen + 32768 })

/-- R117: the receiver's acquisition has reached the decoder, or is complete. -/
def State.rxAtFec (s : State) (w : Wing) : Bool :=
  s.rd .RXW_RX_STAT_STATE [w.n] == 10 || s.rd .RXW_RX_STAT_STATE [w.n] == 11

/-- R117, R169: the decoder decodes: from MAP_VALID on, and through READY. -/
def State.decodes (s : State) (w : Wing) : Bool :=
  s.wingRuns w && (s.flag .RXW_HDR_STAT_MAP_VALID [w.n] || s.rxAtFec w)

/-- R165 to R170: FEC_BLOCK_DECODE. -/
def execFecBlockDecode (w : Wing) (b : BlockRx) (s : State) : Result :=
  let s := s.begin
  .next (if s.decodes w then (s.blockIn w b).oldestOut w b else s)

/-- R176: the blocks in the window when the receiver stops. -/
def State.flushBlocks (s : State) (w : Wing) : State :=
  ((s.dec.get w).held.foldl (fun s h => s.blockOut w h (h.llr.map hardBit) (s.dropBlock w h)) s).onDec w
    (fun d => { d with held := [], rest := [] })

/-! ### Lock (R169) -/

/-- R169: FEC_LOCK. -/
def execFecLock (w : Wing) (s : State) : Result :=
  let s := s.begin
  .next (if !s.flag .FEC_STAT_LOCKED [w.n] && s.flag .RXW_HDR_STAT_MAP_VALID [w.n] && (s.dec.get w).zeros == 256 then
      (((s.wrb .FEC_STAT_LOCKED [w.n] true).evt .FEC_EVT_LOCK [w.n]).onDec w
        (fun d => { d with
          dead := 0, failing := 0, clean := 0, window := some 0, lockedAt := d.sfNo, errs := 0, bits := 0, ref := 0 })).openStream w
    else s)

/-- R186 cause 4: dFEC_SF rises at most `n` received superframe boundaries after a switch boundary. -/
def State.sfMismatch (s : State) (w : Wing) (n : Nat) : State :=
  let r := s.rx.get w
  if decide (r.sinceSwitch ≤ n) && r.mismatch == 0 then { s with rx := s.rx.set w { r with mismatch := 4 } } else s

/-- R174: dFEC_SF takes a value, with its doorbell; R186: its rise at most `n` boundaries after a switch is a mismatch. -/
def State.setFecSf (s : State) (w : Wing) (on : Bool) (n : Nat) : State :=
  if s.flag .FEC_STAT_SF [w.n] = on then s
  else (((s.wrb .FEC_STAT_SF [w.n] on).evt .FEC_EVT_SF_CHANGE [w.n]).icmRefresh w).when on (·.sfMismatch w n)

/-- R169, R174, R232: LOCKED falls, the window in progress is discarded and the framer loses its frames. -/
def State.fecUnlock (s : State) (w : Wing) : State :=
  if !s.flag .FEC_STAT_LOCKED [w.n] then s
  else
    let s := (s.wrb .FEC_STAT_LOCKED [w.n] false).evt .FEC_EVT_LOCK_LOSS [w.n]
    let s := s.onDec w (fun d => { d with zeros := 0, dead := 0, window := none, errs := 0, bits := 0, ref := 0, low := 0 })
    (((s.setFecSf w true 3).outOfFrame w).stopSearch w).noteSsf w

/-- R169: FEC_LOCK_LOSS. -/
def execFecLockLoss (w : Wing) (s : State) : Result :=
  let s := s.begin
  .next (if decide (4 ≤ (s.dec.get w).dead) || !s.rxAtFec w || s.flag .OPT_RX_STAT_LOS [w.n] then s.fecUnlock w else s)

/-! ### Defects (R174) -/

/-- R175: ACCT[1] for the present received superframe, under the values in use. -/
def State.showRxAcct (s : State) (w : Wing) : State :=
  s.showAcct w 1 (s.rd .RXW_LINE_CUR_H_IDX [w.n]) (s.rd .RXW_LINE_CUR_FEC [w.n])

/-- R174, R175: the decoder's part of a received superframe boundary. -/
def State.fecBoundary (s : State) (w : Wing) : State :=
  (s.showRxAcct w).onDec w (fun d => { d with sfNo := d.sfNo + 1 })

/-- R174: DFEC_SF_CHANGE, which comes when the last block of a superframe has left the window. -/
def execDfecSfChange (w : Wing) (s : State) : Result :=
  let s := s.begin
  let d := s.dec.get w
  .next (if s.flag .FEC_STAT_SF [w.n] then
      (if s.flag .FEC_STAT_LOCKED [w.n] && decide (8 ≤ d.clean) then s.setFecSf w false 4 else s)
    else if decide (2 ≤ d.failing) then s.setFecSf w true 4
    else s)

/-- R174: dFEC_SD takes a value, with its doorbell. -/
def State.setFecSd (s : State) (w : Wing) (on : Bool) : State :=
  if s.flag .FEC_STAT_SD [w.n] = on then s else (s.wrb .FEC_STAT_SD [w.n] on).evt .FEC_EVT_SD_CHANGE [w.n]

/-- R174: a window's ERR_BITS / BITS exceeds SD_TH / 64 of its degrade reference. -/
def Decoder.degraded (d : Decoder) (th : Nat) : Bool := decide (th * d.ref < d.errs * 64000000)

/-- R174: the end of a window. -/
def State.sdWindow (s : State) (w : Wing) : State :=
  let d := s.dec.get w
  let next (low : Nat) (d : Decoder) : Decoder := { d with window := some 0, errs := 0, bits := 0, ref := 0, low := low }
  if d.bits = 0 then s.onDec w (next d.low)
  else if d.degraded (s.rd .FEC_SF_CFG_SD_TH [w.n]) then (s.setFecSd w true).onDec w (next 0)
  else if 1 ≤ d.low then (s.setFecSd w false).onDec w (next (d.low + 1))
  else s.onDec w (next 1)

/-- R174: DFEC_SD_WINDOW. -/
def execDfecSdWindow (w : Wing) (s : State) : Result :=
  let s := s.begin
  .next (match (s.dec.get w).window with
    | some n => if 64 ≤ n then s.sdWindow w else s
    | none => s)

end Sys2Proof.Machine
end

