-- ==== Sys2Proof/Machine/Header.lean ====
section
/-!
DEFINITION. The carrier frame's header information field: its bits, its CRC, what makes it valid, and the header that a
wing sends (R50 to R52, R55, R79).
-/

namespace Sys2Proof.Machine

/-- R51: one bit through the generator x¹⁶ + x¹² + x⁵ + 1. -/
def crcStep (c : Nat) (b : Bool) : Nat :=
  let c' := c * 2 % 65536
  if c.testBit 15 != b then c' ^^^ 0x1021 else c'

/-- R51: the CRC-16 of a bit sequence. -/
def crc16 (bs : List Bool) : Nat := bs.foldl crcStep 0xFFFF

/-- R50: bits 0 to 239 of the field in transmission order. -/
def headerBits (h : Header) : List Bool :=
  bitsMsb 6 h.frameNo ++ bitsMsb 1 h.wing ++ [h.rsv.testBit 19] ++ bitsMsb 11 h.baud ++ bitsMsb 7 h.hCur ++ bitsMsb 1 h.fecCur ++
  bitsMsb 10 h.slotsCur ++ [h.annValid] ++ bitsMsb 4 h.annSeq ++ bitsMsb 7 h.hNext ++ bitsMsb 1 h.fecNext ++
  bitsMsb 10 h.slotsNext ++ bitsMsb 8 h.countdown ++ [h.ackValid] ++ bitsMsb 4 h.ackSeq ++ [h.advValid] ++
  bitsMsb 4 h.advSeq ++ bitsMsb 7 h.advH ++ bitsMsb 1 h.advFec ++ bitsMsb 8 h.advMargin ++ bitsMsb 4 h.ql ++
  [h.floor, h.icmRc, h.hdrLoss] ++ bitsMsb 3 (h.rsv / 65536) ++ (h.map.take 20).flatMap (bitsMsb 6) ++
  bitsMsb 16 h.rsv

/-- R51: the whole field: the CRC follows in bits 240 to 255, its most significant bit in bit 240. -/
def headerField (h : Header) : List Bool := headerBits h ++ bitsMsb 16 h.crc

/-- The number whose bits stand in a field, most significant first: `n` bits from bit `k`. -/
def fieldAt (bs : List Bool) (k n : Nat) : Nat := ((bs.drop k).take n).foldl (fun v b => 2 * v + bitNat b) 0

/-- R50: the header that 256 received bits spell. -/
def readHeader (bs : List Bool) : Header where
  frameNo := fieldAt bs 0 6
  wing := fieldAt bs 6 1
  baud := fieldAt bs 8 11
  hCur := fieldAt bs 19 7
  fecCur := fieldAt bs 26 1
  slotsCur := fieldAt bs 27 10
  annValid := bitOf bs 37
  annSeq := fieldAt bs 38 4
  hNext := fieldAt bs 42 7
  fecNext := fieldAt bs 49 1
  slotsNext := fieldAt bs 50 10
  countdown := fieldAt bs 60 8
  ackValid := bitOf bs 68
  ackSeq := fieldAt bs 69 4
  advValid := bitOf bs 73
  advSeq := fieldAt bs 74 4
  advH := fieldAt bs 78 7
  advFec := fieldAt bs 85 1
  advMargin := fieldAt bs 86 8
  ql := fieldAt bs 94 4
  floor := bitOf bs 98
  icmRc := bitOf bs 99
  hdrLoss := bitOf bs 100
  map := (List.range 20).map (fun k => fieldAt bs (104 + 6 * k) 6)
  rsv := fieldAt bs 7 1 * 2 ^ 19 + fieldAt bs 101 3 * 2 ^ 16 + fieldAt bs 224 16
  crc := fieldAt bs 240 16

/-- R49: both copies of each bit are combined, with equal weight, before the bit is decided (assumption 57). -/
def rxBits (h : HeaderRx) : List Bool := (h.x.zip h.y).map (fun e => decide (e.1 + e.2 < 0))

/-- R49, R50: the header that was received. -/
def rxHeader (h : HeaderRx) : Header := readHeader (rxBits h)

/-- R50, R55: every field lies in its stated range (COUNTDOWN while an announcement is in force). -/
def headerInRange (h : Header) : Bool :=
  decide (h.frameNo < 64 && h.wing < 2 && 224 ≤ h.baud && h.baud ≤ 1360 && h.hCur ≤ 64 && h.fecCur < 2 &&
    h.slotsCur ≤ 640 && h.annSeq < 16 && h.hNext ≤ 64 && h.fecNext < 2 && h.slotsNext ≤ 640 && h.countdown < 256 &&
    h.ackSeq < 16 && h.advSeq < 16 && h.advH ≤ 64 && h.advFec < 2 && h.advMargin < 256 && h.ql < 16) &&
  (!h.annValid || h.countdown != 0) && h.map.length == 20 && h.map.all entryOk

/-- R50, R51: the header is valid. -/
def headerOk (h : Header) : Bool := headerInRange h && h.crc == crc16 (headerBits h)

/-- R50, R53: the fields that are the same in all 64 headers of a superframe; reserved bits are ignored. -/
def headerFields (h : Header) : Header := { h with frameNo := 0, map := [], rsv := 0, crc := 0 }

/-- R116: ADV_MARGIN: the live MARGIN rounded towards minus infinity to 0.1 dB and limited. -/
def State.advMargin (s : State) (w : Wing) : Nat :=
  ofSigned 8 (max (-128) (min 127 (s.rdS .RXW_FOM_MARGIN_MARGIN [w.n] / 10)))

/-- R55: the MAP segment of a carrier frame. -/
def State.mapSegment (s : State) (w : Wing) (frame : Nat) : List Nat :=
  let m := if 32 ≤ frame && s.flag .TXW_LINE_NEXT_ANN_VALID [w.n] then (s.tx.get w).annMap else s.txMap w
  (List.range 20).map (fun k => m.getD (20 * (frame % 32) + k) 63)

/-- R50, R79, R343: the header without its CRC. -/
def State.headerBody (s : State) (w : Wing) (frame : Nat) : Header :=
  let i := [w.n]
  { frameNo := frame
    wing := w.n
    baud := s.rd .TXW_RATE_BAUD i
    hCur := s.rd .TXW_LINE_CUR_H_IDX i
    fecCur := s.rd .TXW_LINE_CUR_FEC i
    slotsCur := s.rd .TXW_LINE_CUR_SLOTS i
    annValid := s.flag .TXW_LINE_NEXT_ANN_VALID i
    annSeq := s.rd .TXW_LINE_NEXT_ANN_SEQ i
    hNext := s.rd .TXW_LINE_NEXT_H_IDX i
    fecNext := s.rd .TXW_LINE_NEXT_FEC i
    slotsNext := s.rd .TXW_LINE_NEXT_SLOTS i
    countdown := s.rd .TXW_LINE_NEXT_COUNTDOWN i
    ackValid := (s.tx.get w).ackSent.isSome
    ackSeq := (s.tx.get w).ackSent.getD 0
    advValid := s.flag .ELC_ADV_TX_VALID i
    advSeq := s.rd .ELC_ADV_TX_SEQ i
    advH := s.rd .ELC_ADV_TX_H_IDX i
    advFec := s.rd .ELC_ADV_TX_FEC i
    advMargin := s.advMargin w
    ql := s.qlWing w
    floor := s.flag .ELC_HS_STAT_FLOOR_TX i
    icmRc := s.flag .ELC_HS_STAT_ICM_RC i
    hdrLoss := s.flag .RXW_HDR_STAT_HDR_LOSS_TX i
    map := s.mapSegment w frame
    rsv := 0
    crc := 0 }

/-- R50, R51: the header of a carrier frame. -/
def State.txHeader (s : State) (w : Wing) (frame : Nat) : Header :=
  let h := s.headerBody w frame
  { h with crc := crc16 (headerBits h) }

/-- R50, R52, R55, R79: the headers of the 64 carrier frames of a superframe are fixed at its boundary, or as an event of
the same boundary leaves them (assumption 2). -/
def State.sendHeader (s : State) (w : Wing) : State :=
  let hs := (List.range 64).map (s.txHeader w)
  ({ s with tx := s.tx.set w { s.tx.get w with headers := hs } }).say (.headers w hs)

end Sys2Proof.Machine
end

