-- ==== Sys2Proof/Machine/Chirp.lean ====
section
/-!
DEFINITION. The intercom's bursts: the bytes of its messages, the code, the chirps and the power envelope (R194, R197 to
R202), and how a receiver reads the sync chirps (R199).
-/

namespace Sys2Proof.Machine

/-! ### Messages as bytes (R200, R202) -/

/-- R202: the TYPE of a message. -/
def icmType : IcmMsg → Nat
  | .advice _ _ _ _ => 1
  | .announce _ _ _ _ => 2
  | .ack _ => 3
  | .bringup _ _ _ _ _ _ _ _ => 4
  | .tag _ => 5
  | .alarm _ _ => 6
  | .user _ => 7

/-- R202: the payload of a message. -/
def icmPayload : IcmMsg → List Nat
  | .advice seq h fec margin => [seq % 16, h % 128, fec % 2, ofSigned 8 margin]
  | .announce seq h fec slots => [seq % 16, h % 128, fec % 2] ++ bytesMsb 2 (slots % 1024)
  | .ack seq => [seq % 16]
  | .bringup heard tb rb st fb fh ff ch =>
    [0x10 + bitNat heard] ++ bytesMsb 2 tb ++ bytesMsb 2 rb ++ [st] ++ bytesMsb 2 fb ++ [fh, ff] ++ bytesMsb 2 ch
  | .tag bs => bs
  | .alarm bitmap seq => [bitmap % 64, seq % 256, 0, 0]
  | .user bs => bs

/-- The bits of bytes, the most significant first. -/
def byteBits (bs : List Nat) : List Bool := bs.flatMap (bitsMsb 8)

/-- R200: bytes followed by their CRC-16. -/
def withCrc (bs : List Nat) : List Nat := bs ++ bytesMsb 2 (crc16 (byteBits bs))

/-- R200: the header of a message of a type and length. -/
def icmHeader (w : Wing) (type len mseq : Nat) : List Nat := withCrc [16 * type + 8 * w.n, len, mseq]

/-! ### The code (R197) -/

/-- R197: the two output bits for an input bit; `m` holds the six memory cells, the latest first: generators 133 and 171. -/
def encoderOut (b : Bool) (m : List Bool) : List Bool :=
  let d (k : Nat) : Bool := m.getD (k - 1) false
  let odd (xs : List Bool) : Bool := xs.foldl (· != ·) false
  [odd [b, d 2, d 3, d 5, d 6], odd [b, d 1, d 2, d 3, d 6]]

/-- R197: the encoder over the bits that remain. -/
def encodeRun : List Bool → List Bool → List Bool
  | [], _ => []
  | b :: bs, m => encoderOut b m ++ encodeRun bs ((b :: m).take 6)

/-- R197: the tail-biting code: the memory is first loaded with the field's last six bits. -/
def convolve (bs : List Bool) : List Bool := encodeRun bs (bs.reverse.take 6)

/-- R197: zeros up to a multiple of `n`. -/
def padTo (n : Nat) (bs : List Bool) : List Bool := bs ++ List.replicate (ceilDiv bs.length n * n - bs.length) false

/-- R197: the Gray code of a number. -/
def grayCode (v : Nat) : Nat := v ^^^ (v / 2)

/-- R197: symbol `i` of a block of 8 symbols: its bits are the coded bits i, i + 8, i + 16 and so on, the first the most
significant. -/
def blockSymbol (sf : Nat) (bs : List Bool) (i : Nat) : Nat :=
  grayCode ((List.range sf).foldl (fun v k => 2 * v + bitNat (bs.getD (8 * k + i) false)) 0)

/-- R197: the symbol values of `n` blocks. -/
def blockSymbols (sf : Nat) : Nat → List Bool → List Nat
  | 0, _ => []
  | n + 1, bs => (List.range 8).map (blockSymbol sf bs) ++ blockSymbols sf n (bs.drop (8 * sf))

/-- R197: the symbol values of a field. -/
def fieldSymbols (sf : Nat) (bytes : List Nat) : List Nat :=
  let bits := padTo (8 * sf) (convolve (byteBits bytes))
  blockSymbols sf (bits.length / (8 * sf)) bits

/-! ### The chirps of a burst (R194, R198, R199) -/

/-- R194: differential symbols as shifts, from a reference on. -/
def shiftsFrom (sf : Nat) : Nat → List Nat → List Nat
  | _, [] => []
  | r, u :: us =>
    let v := (r + u) % 2 ^ sf
    v :: shiftsFrom sf v us

/-- R199: the shifts of the sync chirps of a network ID. -/
def syncShifts (sf id : Nat) : List Nat :=
  let step := 2 ^ (sf - 5)
  [id / 32 % 32 * step, (id / 32 % 32 + id % 32) * step % 2 ^ sf]

/-- R198: the burst of a header and a payload, each with its CRC. -/
def burstChirps (sf id : Nat) (header payload : List Nat) : List Chirp :=
  let rest (n : Nat) : List Chirp := List.replicate n (.up 0)
  rest 16 ++ (syncShifts sf id).map .up ++ [.down, .down] ++
    (shiftsFrom sf 0 (fieldSymbols sf header ++ fieldSymbols sf payload)).map .up ++ rest 4

/-! ### The power envelope (R194, R198) -/

/-- A cosine of an angle of `a` / `b` turns in 2⁻³⁰, to the twelfth power of the angle, which is at most a quarter turn. -/
def cosHalf (a b : Nat) : Int :=
  let t : Int := 6746518852 * (a : Int) / (b : Int)
  let q : Int := t * t / 2 ^ 30
  let step (v : Int) (k : Int) : Int := 2 ^ 30 - q * v / 2 ^ 30 / (k * (k + 1))
  [11, 9, 7, 5, 3, 1].foldl step (2 ^ 30)

/-- A cosine of an angle of `a` / `b` turns in 2⁻³⁰. -/
def cosTurns (a b : Nat) : Int :=
  let r := a % b
  let r := if b < 2 * r then b - r else r
  if b < 4 * r then -(cosHalf (b - 2 * r) (2 * b)) else cosHalf r b

/-- R194: the phase of a chirp at sample `x` of its period, four samples to a chip, in turns: an up-chirp sweeps from 0.25 to
2.25 MHz, a down-chirp back. -/
def chirpPhase (sf x : Nat) : Chirp → Nat × Nat
  | .up shift =>
    let n := 2 ^ sf
    let y := (x + 4 * n - 4 * shift % (4 * n)) % (4 * n)
    (y * (n + y), 32 * n)
  | .down => (x * (9 * 2 ^ sf - x), 32 * 2 ^ sf)

/-- R198: the depth at sample `x` of chirp `k` of a burst of `n` chirps, in 2⁻³⁰ of m: a raised cosine over the first and the
last four chirps. -/
def depthAt (sf n k x : Nat) : Int :=
  let span := 16 * 2 ^ sf
  let at_ := if k < 4 then 4 * 2 ^ sf * k + x else if n ≤ k + 4 then span - (4 * 2 ^ sf * (k + 4 - n) + x) else span
  (2 ^ 30 - cosTurns at_ (2 * span)) / 2

/-- R194: 1 + m × c(t) in 2⁻³⁰ at sample `x` of chirp `k` of a burst; m in 0.1 %. -/
def Burst.factor (b : Burst) (k x : Nat) : Int :=
  let p := chirpPhase b.sf x (b.chirps.getD k .down)
  2 ^ 30 + b.depth * (depthAt b.sf b.chirps.length k x * cosTurns p.1 p.2 / 2 ^ 30) / 1000

/-- R194: a sample after pulse shaping, scaled so that its power is multiplied by the burst's factor. -/
def Burst.scale (b : Burst) (k x : Nat) (v : Int) : Int := v * rootOf ((b.factor k x).toNat * 2 ^ 30) 32 0 / 2 ^ 30

/-- R194, R198: a sample that leaves the pulse shaping `ns` after the burst began: chirps follow each other at four samples to a
chip of 0.5 µs; outside the burst the sample stands. -/
def Burst.scaleAt (b : Burst) (ns : Int) (v : Int) : Int :=
  let n := 4 * 2 ^ b.sf
  let t := ns / 125
  if t < 0 || (n * b.chirps.length : Nat) ≤ t.toNat then v else b.scale (t.toNat / n) (t.toNat % n) v

/-- R198: the chirp periods of a burst, its four parts of fixed length, S_H and S_P. -/
def Burst.periods (b : Burst) : Nat := b.chirps.length

/-- R200: the burst of a message. -/
def burstOf (w : Wing) (sf depth id mseq : Nat) (m : IcmMsg) : Burst where
  sf := sf
  depth := depth
  mseq := mseq
  chirps :=
    let p := icmPayload m
    burstChirps sf id (icmHeader w (icmType m) p.length mseq) (withCrc p)

/-! ### Reading the sync chirps (R199) -/

/-- R199: the multiple of 2^(SF−5) that a shift lies within 2^(SF−7) of, modulo 32. -/
def readSync (sf v : Nat) : Option Nat :=
  let step := 2 ^ (sf - 5)
  let tol := 2 ^ (sf - 7)
  let k := (v + step / 2) / step
  if v + tol < k * step || k * step + tol < v then none else some (k % 32)

/-- R199: the network ID that two sync shifts carry, or a sync failure. -/
def syncId (sf s1 s2 : Nat) : Option Nat :=
  match readSync sf (s1 % 2 ^ sf), readSync sf ((s2 + 2 ^ sf - s1 % 2 ^ sf) % 2 ^ sf) with
  | some v1, some v2 => some (32 * v1 + v2)
  | _, _ => none

/-- R206: four correlations one chirp period apart, each above the threshold and at the same bin, ±1. -/
def preamble (sf th : Nat) (peaks : List (Nat × Nat)) : Bool :=
  let near (a b : Nat) : Bool :=
    let d := (a + 2 ^ sf - b % 2 ^ sf) % 2 ^ sf
    decide (d ≤ 1) || d + 1 == 2 ^ sf
  peaks.length == 4 && peaks.all (fun p => decide (th < p.2)) &&
    peaks.all (fun p => near p.1 (peaks.headD (0, 0)).1)

/-! ### Reading a frame (R194, R197, R200, R207, R209) -/

/-- R194, R209: a chirp as the receiver has it: whether it correlates as a down-chirp above the threshold, its shift relative to the
preamble's bin, unknown where the chirp is erased, and its peak. -/
structure HeardChirp where
  down : Bool
  shift : Option Nat
  peak : Nat
deriving DecidableEq, Repr

/-- R207, R209: the chirp of a period, from its correlations. -/
def heardChirp (sf th bin : Nat) (erased : Bool) (c : RxChirp) : HeardChirp :=
  { down := c.down && decide (th < c.peak) && !erased
    shift := if erased then none else some ((c.bin + 2 ^ sf - bin % 2 ^ sf) % 2 ^ sf)
    peak := c.peak }

/-- R194, R209: the symbol values of chirps after the chirp `r`, each with its weight, the two peaks behind it; an erased shift
gives two symbols no weight. -/
def symbolsFrom (sf : Nat) : HeardChirp → List HeardChirp → List (Nat × Nat)
  | _, [] => []
  | r, c :: cs => (match r.shift, c.shift with
    | some a, some b => ((b + 2 ^ sf - a % 2 ^ sf) % 2 ^ sf, r.peak + c.peak)
    | _, _ => (0, 0)) :: symbolsFrom sf c cs

/-- R197: the number whose Gray code a value is. -/
def grayValue (sf v : Nat) : Nat := (List.range sf).foldl (fun u k => u ^^^ v / 2 ^ k) 0

/-- R197: the coded bits of `n` blocks of 8 symbols, deinterleaved, with their weights. -/
def codedBits (sf : Nat) : Nat → List (Nat × Nat) → List (Bool × Nat)
  | 0, _ => []
  | n + 1, xs =>
    (List.range (8 * sf)).map (fun j =>
      let x := xs.getD (j % 8) (0, 0)
      ((grayValue sf x.1).testBit (sf - 1 - j / 8), x.2)) ++ codedBits sf n (xs.drop 8)

/-- R197: the input bits of which the coded bits, if they are a codeword, come: the code's feed-forward inverse. -/
def inverseCode (ys : List Bool) : List Bool :=
  let n := ys.length / 2
  let y (g i k : Nat) : Bool := ys.getD (2 * ((i + 4 * n - k) % n) + g) false
  (List.range n).map (fun i =>
    ([y 0 i 2, y 0 i 4] ++ [y 1 i 0, y 1 i 1, y 1 i 2, y 1 i 3, y 1 i 4]).foldl (· != ·) false)

/-- R197, R209: the `n` bytes of a field: where every bit has weight and the hard decisions are a codeword, no other is nearer;
otherwise what soft-decision decoding finds. -/
def decodeField (n : Nat) (ys : List (Bool × Nat)) : List Nat :=
  let ys := ys.take (16 * n)
  let hard := ys.map (·.1)
  let info := inverseCode hard
  let bits := if ys.all (fun y => decide (0 < y.2)) && convolve info == hard then info else Config.softDecode ys
  packBytes ((List.range (8 * n)).map (fun k => bits.getD k false))

/-- R200, R202: the LEN of a TYPE. -/
def lenOk (type len : Nat) : Bool :=
  match type with
  | 1 => len == 4
  | 2 => len == 5
  | 3 => len == 1
  | 4 => len == 12
  | 5 => len == 16
  | 6 => len == 4
  | 7 => decide (1 ≤ len) && decide (len ≤ 48)
  | _ => false

/-- R200: a header is valid. -/
def icmHeaderOk (h : List Nat) : Bool := withCrc (h.take 3) == h && lenOk (h.getD 0 0 / 16) (h.getD 1 0)

/-- R207: how far the receiver comes with the chirps of a frame: the state it stands in (RX_STAT.STATE), a failure, or a frame:
its network ID, TYPE, MSEQ and payload. -/
inductive IcmHeard where
  | going (state : Nat)
  | fail (why : IcmFail)
  | frame (id type mseq : Nat) (bytes : List Nat)
deriving DecidableEq, Repr

/-- R207: the payload. -/
def hearPayload (sf id : Nat) (h : List Nat) (r : HeardChirp) (cs : List HeardChirp) : IcmHeard :=
  let len := h.getD 1 0
  let n := ceilDiv (2 * (len + 2)) sf
  if cs.length < 8 * n then .going 3
  else
    let bs := decodeField (len + 2) (codedBits sf n (symbolsFrom sf r (cs.take (8 * n))))
    if withCrc (bs.take len) == bs then .frame id (h.getD 0 0 / 16) (h.getD 2 0) (bs.take len) else .fail .payload

/-- R207: the header, whose first chirp is referred to a shift of 0. -/
def hearHeader (sf id : Nat) (cs : List HeardChirp) : IcmHeard :=
  let n := ceilDiv 10 sf
  if cs.length < 8 * n then .going 2
  else
    let r : HeardChirp := ⟨false, some 0, 0⟩
    let h := decodeField 5 (codedBits sf n (symbolsFrom sf r (cs.take (8 * n))))
    if icmHeaderOk h then hearPayload sf id h ((cs.take (8 * n)).getLastD r) (cs.drop (8 * n)) else .fail .header

/-- R199, R207: the sync chirps are the two before the first down-chirp, which another follows. -/
def hearSync (sf : Nat) (accepts : Nat → Bool) (cs : List HeardChirp) : IcmHeard :=
  let d := (cs.take 16).findIdx (·.down)
  if 16 ≤ d then .fail .sync
  else if cs.length ≤ d then .going 1
  else if d < 2 then .fail .sync
  else match cs[d + 1]?, (cs.getD (d - 2) ⟨false, none, 0⟩).shift, (cs.getD (d - 1) ⟨false, none, 0⟩).shift with
    | none, _, _ => .going 1
    | some c, some s1, some s2 =>
      if !c.down then .fail .sync
      else match syncId sf s1 s2 with
        | none => .fail .sync
        | some id => if accepts id then hearHeader sf id (cs.drop (d + 2)) else .fail .netId
    | some _, _, _ => .fail .sync

end Sys2Proof.Machine
end

