-- ==== Sys2Proof/Machine/Sequence.lean ====
section
/-!
DEFINITION. The symbol that a wing sends at each position of a carrier frame (R49, R75 to R79, R160, R161).
-/

namespace Sys2Proof.Machine

/-! ### Symbols (R49, R75 to R79) -/

/-- R49: header symbol j carries field bits 2j and 2j + 1, the same on X and on Y. -/
def headerSymbol (h : Header) (j : Nat) : Symbol := knownSymbol (headerField h) (2 * j) (2 * j + 1) (2 * j) (2 * j + 1)

/-- R76, R160, R161: payload amplitude `a` of a superframe, as its component, from the coded bits; the last 1,024 are the
filler block. A sign bit of 1 makes the component negative (DESIGN CHOICE: R77 does not say which value does; assumption 80). -/
def payloadComponent (n : Nat) (coded : List Bool) (a : Nat) : Level :=
  let m := amplitudeBits n
  if a < 16064 * 1024 then
    payloadLevel n (labelPlace n ((coded.drop (m * a)).take (labelBits n))) (bitOf coded (m * a + labelBits n))
  else
    let k := a - 16064 * 1024
    let filler := if uniformIndex n then List.replicate 1024 0 else matchBits n []
    payloadLevel n (filler.getD k 0) (bitOf fillerSigns k)

/-- R75, R76: payload symbol `i` of carrier frame `f`: XI, XQ, YI and YQ in turn. -/
def payloadSymbol (n : Nat) (coded : List Bool) (f i : Nat) : Symbol :=
  let a := 4 * (64260 * f + i)
  ⟨payloadComponent n coded a, payloadComponent n coded (a + 1), payloadComponent n coded (a + 2),
    payloadComponent n coded (a + 3)⟩

/-- R79: the symbol that a superframe has at a position of carrier frame `f`. -/
def symbolAt (headers : List Header) (n : Nat) (coded : List Bool) (f p : Nat) : Option Symbol :=
  match placeOf p with
  | .sync j => some (syncSymbol j)
  | .header j => (headers[f]?).map (headerSymbol · j)
  | .pilot k => some (pilotSymbol k)
  | .payload i => some (payloadSymbol n coded f i)

/-- R79, R156: the symbol of the superframe that a wing sends at present. -/
def State.lineSymbol (s : State) (w : Wing) (f p : Nat) : Option Symbol :=
  let t := s.tx.get w
  match t.sent with
  | [] => none
  | c :: cs => symbolAt t.headers c.n (encode c.n c.fec (chainAfter cs) c.info).flatten f p

end Sys2Proof.Machine
end

