-- ==== Sys2Proof/Machine/Drive.lean ====
section
/-!
DEFINITION. From symbols to the DAC: pulse shaping, the intercom's power envelope, pre-compensation, trims and the clip level
(R78, R81, R83, R84, R194).
-/

namespace Sys2Proof.Machine

/-! ### Pulse shaping (R81) -/

/-- R78: a component in 0.01 of the rms level, rounded towards zero (DESIGN CHOICE: the spec does not say; assumption 49). -/
def Level.centi (l : Level) : Int :=
  let v : Nat := rootOf (l.square * 10000).floor.toNat 12 0
  if l.minus then -v else v

/-- A symbol's component in a dimension: XI, XQ, YI, YQ. -/
def Symbol.component (x : Symbol) (d : Nat) : Level :=
  match d with
  | 0 => x.xi
  | 1 => x.xq
  | 2 => x.yi
  | _ => x.yq

/-- R79: the component, in 0.01 of the rms level, that the present superframe has at symbol `n` in a dimension; beyond its ends
the model has none (assumption 49). -/
def State.componentAt (s : State) (w : Wing) (d : Nat) (n : Int) : Int :=
  if n < 0 || 4194304 ≤ n then 0
  else match s.lineSymbol w (n.toNat / 65536) (n.toNat % 65536) with
    | some x => (x.component d).centi
    | none => 0

/-- R81: sample `k` of a dimension, of 9 for every 8 symbols: the root-raised-cosine pulses of the symbols around it. -/
def State.shapedAt (s : State) (w : Wing) (d k : Nat) : Int :=
  let rolloff := s.rd .TXW_SHAPE_ROLLOFF [w.n]
  let n0 : Int := 8 * k / 9
  ((List.range (2 * Config.pulseReach + 1)).map (fun j =>
    let n := n0 + j - Config.pulseReach
    s.componentAt w d n * Config.pulse rolloff (8 * k - 9 * n))).sum / 16384

/-- R81, R194: the sample, scaled by the burst in progress; sample `k` stands 32k / 9 units of 0.25 / B ns after the superframe's
start. -/
def State.sampleAt (s : State) (w : Wing) (d k : Nat) : Int :=
  let v := s.shapedAt w d k
  match (s.icm.get w).wave, (s.tx.get w).sent with
  | some b, c :: _ => b.2.scaleAt ((c.start + 32 * k / (9 * max 1 (s.rd .TXW_LINE_CUR_BAUD [w.n])) : Nat) - b.1) v
  | _, _ => v

/-! ### Pre-compensation (R83) -/

/-- R83: a FIR filter whose taps are in 2^−14; before the first sample there is none, and a tap there finds zero (DESIGN CHOICE:
the spec does not say; assumption 49). -/
def firAt (taps xs : List Int) (k : Nat) : Int :=
  ((List.range taps.length).map (fun i => taps.getD i 0 * (if i ≤ k then xs.getD (k - i) 0 else 0))).sum / 16384

/-- R83: the response-equalising FIR. -/
def fir (taps xs : List Int) : List Int := (List.range xs.length).map (firAt taps xs)

/-- R83: the third-order polynomial of samples in 0.01 of the rms level, its coefficients in 2^−14. -/
def distort (c : List Int) (x : Int) : Int :=
  (c.getD 0 0 * x + c.getD 1 0 * x ^ 2 / 100 + c.getD 2 0 * x ^ 3 / 10000) / 16384

/-- R83: what a dimension's samples pass, in order: FIR, polynomial, skew and gain. -/
def State.precompensate (s : State) (w : Wing) (d : Nat) (xs : List Int) : List Int :=
  let o := (s.opt.get w).sec
  let xs := if s.flag .TXW_SHAPE_RESP_EN [w.n] then fir (o.fir.getD d []) xs else xs
  let xs := if s.flag .TXW_SHAPE_NLPD_EN [w.n] then xs.map (distort (o.poly.getD d [])) else xs
  Config.gainTrim (s.rdS .TXW_TRIM_GAIN [w.n, d]) (Config.delayTrim (s.rdS .TXW_TRIM_SKEW [w.n, d]) xs)

/-- R83: a polarisation's two dimensions, with its quadrature-phase trim, over the first `shaped` samples of the superframe. -/
def State.driveOf (s : State) (w : Wing) (p shaped : Nat) : List Int × List Int :=
  let dim (d : Nat) := s.precompensate w d ((List.range shaped).map (s.sampleAt w d))
  Config.phaseTrim (s.rdS .TXW_IQ_PHASE_PHASE [w.n, p]) (dim (2 * p)) (dim (2 * p + 1))

/-- R83: the drive of the four dimensions. -/
def State.drive (s : State) (w : Wing) (shaped : Nat) : List (List Int) :=
  let x := s.driveOf w 0 shaped
  let y := s.driveOf w 1 shaped
  [x.1, x.2, y.1, y.2]

/-! ### The clip level (R84) -/

/-- R84: the sum of the squares of a dimension's samples, whose mean is the square of its rms level. -/
def energy (xs : List Int) : Nat := (xs.map (fun v => v.natAbs ^ 2)).sum

/-- R84: a sample lies beyond CLIP × 0.1 times the rms level of its dimension. -/
def clipped (clip : Nat) (xs : List Int) (v : Int) : Bool := decide (clip ^ 2 * energy xs < 100 * v.natAbs ^ 2 * xs.length)

/-- R84: what the DAC takes for a sample. -/
def clipTo (clip : Nat) (xs : List Int) (v : Int) : Int :=
  if clipped clip xs v then
    let top : Nat := rootOf (clip ^ 2 * energy xs / (100 * xs.length)) 32 0
    if v < 0 then -top else top
  else v

/-- R84: the DAC's input, dimension by dimension. -/
def State.dacInput (s : State) (w : Wing) (shaped : Nat) : List (List Int) :=
  (s.drive w shaped).map (fun xs => xs.map (clipTo (s.use .TXW_SHAPE_CLIP [w.n]) xs))

/-- R84: the samples that are clipped in any dimension. -/
def State.clipCount (s : State) (w : Wing) (shaped : Nat) : Nat :=
  let ds := s.drive w shaped
  let clip := s.use .TXW_SHAPE_CLIP [w.n]
  (List.range shaped).countP (fun k => ds.any (fun xs => clipped clip xs (xs.getD k 0)))

/-- R81: the occupied bandwidth in units of 2.5 MHz: (1 + β) × B. -/
def occupied (rolloff baud : Nat) : Nat := (100 + rolloff) * baud

end Sys2Proof.Machine
end

