-- ==== Sys2Proof/Machine/Elastic.lean ====
section
/-!
DEFINITION. Rate control of the transmitter: what change is wanted, the announcement and its switch, the fall-back, the
intercom handshake and the host's commands (R178 to R193, R450).
-/

namespace Sys2Proof.Machine

/-- Change a wing's framing and header state. -/
def State.onRx (s : State) (w : Wing) (f : RxLine → RxLine) : State := { s with rx := s.rx.set w (f (s.rx.get w)) }

/-! ### Classes of change (R181) -/

/-- R181: a raise, a lowering or a map-only change. -/
inductive Change where
  | raise
  | lowering
  | mapOnly
deriving DecidableEq, Repr

/-- R181: how an announced pair compares with the present one. -/
def classify (baud h fec h' fec' : Nat) : Change :=
  if h' = h && fec' = fec then .mapOnly
  else
    let m := slotsOf baud h fec
    let m' := slotsOf baud h' fec'
    if m < m' then .raise
    else if m' < m then .lowering
    else if snrReq h fec < snrReq h' fec' then .raise
    else .lowering

/-- The present transmitted pair. -/
def State.curPair (s : State) (w : Wing) : Nat × Nat := (s.rd .TXW_LINE_CUR_H_IDX [w.n], s.rd .TXW_LINE_CUR_FEC [w.n])

/-- R181: the class of a wanted change. -/
def State.classOf_ (s : State) (w : Wing) (x : Wanted) : Change :=
  classify (s.rd .TXW_RATE_BAUD [w.n]) (s.curPair w).1 (s.curPair w).2 x.h x.fec

/-! ### What change is wanted (R180, R182, R192) -/

/-- R180: the latest advice, while it has not been acted on and the mode lets it act. -/
def State.adviceWant (s : State) (w : Wing) : Option Wanted :=
  if s.use .ELC_CTL_MODE [w.n] = 0 && s.flag .ELC_ADV_RX_VALID [w.n] &&
      (s.tx.get w).acted != some (s.rd .ELC_ADV_RX_SEQ [w.n]) then
    let p := s.clipPair w (s.rd .ELC_ADV_RX_H_IDX [w.n]) (s.rd .ELC_ADV_RX_FEC [w.n])
    if p = s.curPair w then none else some ⟨p.1, p.2, false⟩
  else none

/-- R180, R193: advice of the present pair has been acted on, unless a change is under way: then it waits. -/
def State.settleAdvice (s : State) (w : Wing) : State :=
  let p := s.clipPair w (s.rd .ELC_ADV_RX_H_IDX [w.n]) (s.rd .ELC_ADV_RX_FEC [w.n])
  if s.use .ELC_CTL_MODE [w.n] = 0 && s.flag .ELC_ADV_RX_VALID [w.n] && p == s.curPair w &&
      !([1, 2, 4].contains (s.rd .ELC_HS_STAT_STATE [w.n])) then
    s.onTx w (fun t => { t with acted := some (s.rd .ELC_ADV_RX_SEQ [w.n]) })
  else s

/-- R182, R188: the change of ENABLE bits that waits; bits that an intercom handshake failed for wait 10 s. -/
def State.enableWant (s : State) (w : Wing) : Option Wanted :=
  let t := s.tx.get w
  let en := s.enableBits w
  if en = t.enabled || t.mapRetry == some en then none else some ⟨(s.curPair w).1, (s.curPair w).2, true⟩

/-- R180, R182 step 5: a withdrawn change stands: in AUTO a change of the pair only while it is what the latest advice
says, which capacity is never raised above. -/
def State.stands (s : State) (w : Wing) (x : Wanted) : Bool :=
  x.mapOnly || s.use .ELC_CTL_MODE [w.n] != 0 || (s.flag .ELC_ADV_RX_VALID [w.n] &&
    (x.h, x.fec) == s.clipPair w (s.rd .ELC_ADV_RX_H_IDX [w.n]) (s.rd .ELC_ADV_RX_FEC [w.n]))

/-- R192: the modes that let a change run: in FROZEN only map-only changes do. R180: the profile is held while no advice
arrives; R187: at floor it is held until the policy resumes. -/
def State.mayChange (s : State) (w : Wing) (x : Wanted) : Bool :=
  x.mapOnly || (s.use .ELC_CTL_MODE [w.n] != 2 && !s.flag .ELC_HS_STAT_ADV_STALE [w.n] &&
    (!s.flag .ELC_HS_STAT_FLOOR_TX [w.n] || (s.tx.get w).resumed))

/-- R181: a change of the present pair is map-only. -/
def State.asChange (s : State) (w : Wing) (x : Wanted) : Wanted := { x with mapOnly := (x.h, x.fec) == s.curPair w }

/-- R182, R188: the change to begin next: what GO asked for, unacted advice, a withdrawn change that stands, a change of
ENABLE. -/
def State.wanted (s : State) (w : Wing) : Option Wanted :=
  let t := s.tx.get w
  [t.want, s.adviceWant w, t.now.filter (s.stands w), s.enableWant w].findSome? (fun x => match x with
    | some x => if s.mayChange w (s.asChange w x) then some (s.asChange w x) else none
    | none => none)

/-! ### The announcement (R181, R182, R190) -/

/-- R52, R181: the lead that HS_CFG gives a class of change, at least 16. -/
def State.leadCfg (s : State) (w : Wing) (x : Wanted) : Nat :=
  max 16 (match s.classOf_ w x with
    | .raise => s.rd .ELC_HS_CFG_LEAD_UP [w.n]
    | _ => s.rd .ELC_HS_CFG_LEAD_DOWN [w.n])

/-- R181: C0 and whether the switch is unconfirmed. -/
def State.leadOf (s : State) (w : Wing) (x : Wanted) : Nat × Bool :=
  let i := [w.n]
  let lead := s.leadCfg w x
  let loop := s.rd .ELC_HS_STAT_LOOP_SF i
  if !s.flag .ELC_HS_CFG_ACK_REQ i then (lead, true)
  else if loop = 0 then (255, false)
  else if 255 < max lead (loop + 6) then (255, true)
  else (max lead (loop + 6), false)

/-- R190, R191: the counts that a pair yields under ENABLE bits, and whether minimums were cut. -/
def State.countsFor (s : State) (w : Wing) (h fec enabled : Nat) : List Nat × Bool :=
  allocSlots (s.shares w enabled) (slotsOf (s.rd .TXW_RATE_BAUD [w.n]) h fec)

/-- R65: the map that follows from new counts. -/
def State.mapFor (s : State) (w : Wing) (h fec : Nat) (counts : List Nat) : List Nat :=
  placeMap (s.txMap w) (slotsOf (s.rd .TXW_RATE_BAUD [w.n]) h fec) counts

/-- R66: LINE_NEXT shows an announcement. -/
def State.showAnn (s : State) (w : Wing) (x : Wanted) (seq count slots : Nat) : State :=
  let i := [w.n]
  (((((s.wrb .TXW_LINE_NEXT_ANN_VALID i true).wr .TXW_LINE_NEXT_ANN_SEQ i seq).wr .TXW_LINE_NEXT_H_IDX i x.h).wr
    .TXW_LINE_NEXT_FEC i x.fec).wr .TXW_LINE_NEXT_COUNTDOWN i count).wr .TXW_LINE_NEXT_SLOTS i slots

/-- R182 step 1: an announcement begins, for a set of ENABLE bits. -/
def State.beginAnn (s : State) (w : Wing) (x : Wanted) (en seq count : Nat) : State :=
  let r := s.countsFor w x.h x.fec en
  let m := s.mapFor w x.h x.fec r.1
  let s := (s.showAnn w x seq count r.1.sum).showCounts w (s.curCounts w) r.1
  let s := (s.when r.2 (·.evt .ELC_EVT_MIN_BREACH [w.n])).countWrap .ELC_CNT0_ANNOUNCES [w.n]
  (s.evt .ELC_EVT_ANNOUNCE [w.n]).onTx w (fun t => { t with
    annSeq := seq, annMap := m, annCounts := r.1, annEnabled := en, now := some x, want := none, acked := false,
    elapsed := 1, fresh := false })

/-- R180: the advice that a change acts on is spent. -/
def State.spendAdvice (s : State) (w : Wing) (x : Wanted) : State :=
  if s.adviceWant w = some x then
    s.onTx w (fun t => { t with acted := some (s.rd .ELC_ADV_RX_SEQ [w.n]) })
  else s

/-- R182 step 1: announce a change in the header. -/
def State.announce (s : State) (w : Wing) (x : Wanted) : State :=
  let lead := s.leadOf w x
  let s := (s.spendAdvice w x).beginAnn w x (s.enableBits w) (((s.tx.get w).annSeq + 1) % 16) lead.1
  ((s.wr .ELC_HS_STAT_STATE [w.n] 1).wrb .ELC_HS_STAT_UNCONFIRMED [w.n] lead.2).sendHeader w

/-- R188 step 1: send an intercom ANNOUNCE; its counts follow from the ENABLE bits that it announces. -/
def State.sendAnnounce (s : State) (w : Wing) (x : Wanted) : State :=
  let r := s.countsFor w x.h x.fec (s.tx.get w).annEnabled
  s.icmQueue w (.announce (s.tx.get w).annSeq x.h x.fec r.1.sum)

/-- R188 step 1: begin an intercom handshake. -/
def State.announceIcm (s : State) (w : Wing) (x : Wanted) : State :=
  let en := s.enableBits w
  let s := (s.spendAdvice w x).onTx w (fun t => { t with
    annSeq := (t.annSeq + 1) % 16, annEnabled := en, now := some x, want := none, icmTries := 0 })
  (s.wr .ELC_HS_STAT_STATE [w.n] 4).sendAnnounce w x

/-- R182: the transmitter may begin a change: it is idle, or at floor. -/
def State.txReady (s : State) (w : Wing) : Bool :=
  s.wingRuns w && (s.rd .ELC_HS_STAT_STATE [w.n] == 0 || s.rd .ELC_HS_STAT_STATE [w.n] == 5)

/-- R182: ANNOUNCE_START. -/
def execAnnounceStart (w : Wing) (s : State) : Result :=
  let s := s.begin
  .next (if s.txReady w && !s.flag .ELC_HS_STAT_ICM_RC [w.n] then
      match s.wanted w with
      | some x => s.announce w x
      | none => s
    else s)

/-- R182: no announcement is transmitted any more. -/
def State.endAnn (s : State) (w : Wing) : State :=
  (((s.wrb .TXW_LINE_NEXT_ANN_VALID [w.n] false).wr .TXW_LINE_NEXT_COUNTDOWN [w.n] 0).wrb .ELC_HS_STAT_UNCONFIRMED [w.n]
    false).onTx w (fun t => { t with switchDue := false, fresh := false })

/-- R182 step 3: withdraw the announcement. -/
def State.withdraw (s : State) (w : Wing) : State :=
  let s := ((s.endAnn w).showCounts w (s.curCounts w) (s.curCounts w)).wr .ELC_HS_STAT_STATE [w.n] 3
  let s := ((s.countWrap .ELC_CNT1_WITHDRAWN [w.n]).wr .ELC_HS_STAT_RETRIES [w.n]
    (satAdd 3 (s.rd .ELC_HS_STAT_RETRIES [w.n]) 1)).evt .ELC_EVT_WITHDRAWN [w.n]
  (s.onTx w (fun t => { t with
    withdrawn := (t.annSeq, t.elapsed) :: t.withdrawn.filter (fun e => e.1 != t.annSeq), sinceWithdrawal := 0 })).sendHeader w

/-- R182: ANN_COMMIT_POINT. -/
def execAnnCommitPoint (w : Wing) (s : State) : Result :=
  let s := s.begin
  let i := [w.n]
  .next (if s.rd .ELC_HS_STAT_STATE i = 1 && s.flag .TXW_LINE_NEXT_ANN_VALID i &&
        s.rd .TXW_LINE_NEXT_COUNTDOWN i == 4 then
      (if (s.tx.get w).acked || s.flag .ELC_HS_STAT_UNCONFIRMED i then
        (s.wr .ELC_HS_STAT_STATE i 2).evt .ELC_EVT_COMMIT i
      else s.withdraw w)
    else s)

/-- R66, R67, R182, R310: the transmitted pair, map, counts and drain rates change at a boundary. -/
def State.switchTx (s : State) (w : Wing) (h fec enabled : Nat) (m counts : List Nat) : State :=
  let s := ((s.setLineCur w h fec counts.sum).setTxMap w m).showCounts w counts counts
  let s := s.onTx w (fun t => { t with sent := t.sent.modifyHead (fun c => { c with n := h, fec := fec }) })
  ((s.applyDrain w counts enabled).wr .FEC_STAT_PROFILE_TX [w.n] fec).showAcct w 0 h fec

/-- R182 step 4, R187: what the switch leaves of the handshake. -/
def State.afterSwitch (s : State) (w : Wing) (x : Wanted) : State :=
  let i := [w.n]
  let s := s.when (s.flag .ELC_HS_STAT_UNCONFIRMED i) (·.countWrap .ELC_CNT1_UNCONFIRMED i)
  let s := (s.endAnn w).when (!x.mapOnly) (·.wrb .ELC_HS_STAT_FLOOR_TX i false)
  let s := (s.wr .ELC_HS_STAT_STATE i (if s.flag .ELC_HS_STAT_FLOOR_TX i then 5 else 0)).wr .ELC_HS_STAT_RETRIES i 0
  (((s.countWrap .ELC_CNT0_SWITCHES i).evt .ELC_EVT_SWITCH i).onTx w (fun t => { t with
    now := none, annMap := [], annCounts := [], mapRetry := none })).settleAdvice w

/-- R182: RATE_SWITCH. -/
def execRateSwitch (w : Wing) (s : State) : Result :=
  let s := s.begin
  let t := s.tx.get w
  .next (match t.switchDue, t.now with
    | true, some x => ((s.switchTx w x.h x.fec t.annEnabled t.annMap t.annCounts).afterSwitch w x).sendHeader w
    | _, _ => s)

/-- R182 step 5: ANNOUNCE_RETRY. -/
def execAnnounceRetry (w : Wing) (s : State) : Result :=
  let s := s.begin
  .next (if s.wingRuns w && s.rd .ELC_HS_STAT_STATE [w.n] == 3 && decide (4 ≤ (s.tx.get w).sinceWithdrawal) then
      match s.wanted w with
      | some x =>
        if s.flag .ELC_HS_STAT_ICM_RC [w.n] ||
            decide (max 1 (s.rd .ELC_HS_CFG_RETRY_MAX [w.n]) ≤ s.rd .ELC_HS_STAT_RETRIES [w.n]) then s.announceIcm w x
        else s.announce w x
      | none =>
        let keep := (s.tx.get w).now.filter (s.stands w)
        ((s.wr .ELC_HS_STAT_STATE [w.n] (if s.flag .ELC_HS_STAT_FLOOR_TX [w.n] then 5 else 0)).onTx w
          (fun t => { t with now := keep })).settleAdvice w
    else s)

/-! ### Acknowledgement and advice received (R180, R181, R192) -/

/-- R181: LOOP_SF is measured. -/
def State.setLoop (s : State) (w : Wing) (n : Nat) : State := s.wr .ELC_HS_STAT_LOOP_SF [w.n] (min 1023 n)

/-- R181, R182 step 2: an acknowledgement arrives in a header. -/
def State.ackRx (s : State) (w : Wing) (seq : Nat) : State :=
  let t := s.tx.get w
  if s.flag .TXW_LINE_NEXT_ANN_VALID [w.n] && t.annSeq == seq then
    if t.acked then s else (s.setLoop w t.elapsed).onTx w (fun t => { t with acked := true })
  else match t.withdrawn.find? (fun e => e.1 == seq) with
    | some e => ((s.setLoop w e.2).countWrap .ELC_CNT2_LATE_ACKS [w.n]).onTx w
        (fun t => { t with withdrawn := t.withdrawn.filter (fun e => e.1 != seq) })
    | none => s

/-- R180, R192, R204: valid advice arrives; it is new when its ADV_SEQ is. -/
def State.adviceRx (s : State) (w : Wing) (icm : Bool) (seq h fec margin : Nat) : State :=
  let i := [w.n]
  let s := s.wrb .ELC_HS_STAT_ADV_STALE i false
  if s.flag .ELC_ADV_RX_VALID i && s.rd .ELC_ADV_RX_SEQ i == seq then
    s.when (s.flag .ELC_ADV_RX_VIA_ICM i == icm) (·.wr .ELC_ADV_RX_MARGIN i margin)
  else
    let s := ((s.wrb .ELC_ADV_RX_VALID i true).wrb .ELC_ADV_RX_VIA_ICM i icm).wr .ELC_ADV_RX_SEQ i seq
    let s := ((s.wr .ELC_ADV_RX_H_IDX i h).wr .ELC_ADV_RX_FEC i fec).wr .ELC_ADV_RX_MARGIN i margin
    (s.evt .ELC_EVT_ADV_RX i).settleAdvice w

/-- R180: ADV_STALE. -/
def execAdvStale (w : Wing) (s : State) : Result :=
  let s := s.begin
  .next (if s.wingRuns w then s.wrb .ELC_HS_STAT_ADV_STALE [w.n] true else s)

/-! ### Fall-back (R187, R189, R450) -/

/-- R69, R187: any announcement or intercom handshake is abandoned. -/
def State.abandon (s : State) (w : Wing) : State :=
  let s := (s.endAnn w).showCounts w (s.curCounts w) (s.curCounts w)
  (s.wr .ELC_HS_STAT_RETRIES [w.n] 0).onTx w (fun t => { t with
    now := none, want := none, annMap := [], annCounts := [], icmTries := 0, trigger := 0 })

/-- R187 step 1: floor index, profile and map, under the ENABLE bits in force. -/
def State.toFloor (s : State) (w : Wing) : State :=
  let p := s.floorPair w
  let en := (s.tx.get w).enabled
  let r := s.countsFor w p.1 p.2 en
  (s.switchTx w p.1 p.2 en (s.mapFor w p.1 p.2 r.1) r.1).when r.2 (·.evt .ELC_EVT_MIN_BREACH [w.n])

/-- R189: three fall-backs within 60 s hold the wing at floor. -/
def State.storm (s : State) (w : Wing) : State :=
  let recent := s.mt :: (s.tx.get w).falls.filter (fun t => decide (s.mt ≤ t + 60000000000))
  let s := s.onTx w (fun t => { t with falls := recent.take 3 })
  if 3 ≤ recent.length then (s.wr .ELC_HS_STAT_STATE [w.n] 6).evt .ELC_EVT_STORM [w.n] else s

/-- R179, R188: the conditions of ICM_RC. -/
def State.icmRcDue (s : State) (w : Wing) : Bool :=
  (s.tx.get w).wantHdrLoss || s.flag .ELC_HS_STAT_FLOOR_TX [w.n] ||
    decide (max 1 (s.rd .ELC_HS_CFG_RETRY_MAX [w.n]) ≤ s.rd .ELC_HS_STAT_RETRIES [w.n])

/-- R179: the condition under which advice also goes by the intercom. -/
def State.adviceByIcm (s : State) (w : Wing) : Bool :=
  s.flag .RXW_HDR_STAT_ICM_RC_RX [w.n] || s.flag .RXW_HDR_STAT_HDR_LOSS_TX [w.n]

/-- R188: ICM_RC takes its value at a transmitted boundary. -/
def State.setIcmRc (s : State) (w : Wing) : State :=
  let on := s.icmRcDue w
  if s.flag .ELC_HS_STAT_ICM_RC [w.n] = on then s
  else (s.wrb .ELC_HS_STAT_ICM_RC [w.n] on).evt .ELC_EVT_ICM_RC [w.n]

/-- R192: RX_HS shows the receiver's part of the handshake. -/
def State.showRxHs (s : State) (w : Wing) : State :=
  let r := s.rx.get w
  ((s.wr .ELC_RX_HS_RSTATE [w.n] r.rstate).wr .ELC_RX_HS_ANN_SEQ [w.n] r.annSeen).wrb .ELC_RX_HS_MAP_COMPLETE [w.n] r.complete

/-- R192: the receiver's part of the handshake changes; RX_HS shows it from the next received boundary, or at once while
no superframe is aligned (assumption 78). -/
def State.onRxHs (s : State) (w : Wing) (f : RxLine → RxLine) : State :=
  let s := s.onRx w f
  if s.flag .RXW_HDR_STAT_SF_ALIGNED [w.n] then s else s.showRxHs w

/-- R187: the receiver follows the far end's floor. -/
def RxLine.follow (r : RxLine) : RxLine := { r with following := true, rstate := 5 }

/-- R187 step 1: a fall-back with its cause. -/
def State.fallBack (s : State) (w : Wing) (cause : Nat) : State :=
  let i := [w.n]
  let s := ((s.abandon w).toFloor w).wr .ELC_RX_HS_CAUSE i cause
  let s := ((s.wrb .ELC_HS_STAT_FLOOR_TX i true).wr .ELC_HS_STAT_STATE i 5).onRxHs w RxLine.follow
  let s := ((s.countWrap .ELC_CNT2_FALLBACKS i).evt .ELC_EVT_FALLBACK i).onTx w (fun t => { t with resumed := false })
  (((s.storm w).setIcmRc w).icmRefresh w).sendHeader w

/-- R450: a trigger while the wing is already at floor. -/
def State.triggerAtFloor (s : State) (w : Wing) (cause : Nat) : State :=
  let s := (s.abandon w).wr .ELC_RX_HS_CAUSE [w.n] cause
  (s.wr .ELC_HS_STAT_STATE [w.n] 5).sendHeader w

/-- R187: FALLBACK. While HELD the wing is already at floor (R193). -/
def execFallback (w : Wing) (s : State) : Result :=
  let s := s.begin
  let c := (s.tx.get w).trigger
  .next (if c = 0 || !s.wingRuns w then s
    else if s.rd .ELC_HS_STAT_STATE [w.n] = 6 then s.onTx w (fun t => { t with trigger := 0 })
    else if s.flag .ELC_HS_STAT_FLOOR_TX [w.n] then s.triggerAtFloor w c
    else s.fallBack w c)

/-- A fall-back is wanted; the first cause stands. -/
def State.pull (s : State) (w : Wing) (cause : Nat) : State :=
  if (s.tx.get w).trigger = 0 then s.onTx w (fun t => { t with trigger := cause }) else s

/-- R187 steps 3 and 4, R189: both ends are at floor, acquired, and hear each other's headers; the far end's map is
adopted. -/
def State.floorMet (s : State) (w : Wing) : Bool :=
  let i := [w.n]
  s.flag .ELC_HS_STAT_FLOOR_TX i && s.flag .RXW_HDR_STAT_MAP_VALID i && s.flag .RXW_HDR_STAT_FLOOR_RX i &&
    s.rd .RXW_RX_STAT_STATE i == 11 && !s.flag .RXW_HDR_STAT_HDR_LOSS_RX i

/-- R187 step 4: POLICY_RESUME; R22: the policy is the control core's. -/
def execPolicyResume (w : Wing) (s : State) : Result :=
  let s := s.begin
  .next (if s.wingRuns w && s.coreRuns && s.floorMet w then s.onTx w (fun t => { t with resumed := true }) else s)

/-- R57, R268: the active received map becomes another; a channel that no longer holds a slot abandons its open segment. -/
def State.setActiveMap (s : State) (w : Wing) (m : List Nat) : State :=
  let old := (s.rx.get w).active
  (s.onRx w (fun r => { r with active := m })).upTo 32 (fun s c =>
    s.when (slotCount old c != 0 && slotCount m c == 0) (·.rxAbandon (chanIndex w c)))

/-- R186: MISMATCH_DECLARE. -/
def execMismatchDeclare (w : Wing) (s : State) : Result :=
  let s := s.begin
  let i := [w.n]
  let c := (s.rx.get w).mismatch
  .next (if c = 0 then s
    else
      let s := ((s.wrb .RXW_HDR_STAT_MAP_VALID i false).wr .ELC_RX_HS_CAUSE i c).countWrap .ELC_CNT3_MISMATCH i
      (((s.setActiveMap w []).onRxHs w (fun r => { r.follow with
        complete := false, mismatch := 0, cur := none, ann := none, record := none, expect := none, switchDue := false
        differ := 0 })).onTx w
        (fun t => { t with ackWant := none })).pull w c)

/-! ### The intercom handshake (R188) -/

/-- R188: ICM_ANNOUNCE_START; R22: the control core handles the intercom's messages. -/
def execIcmAnnounceStart (w : Wing) (s : State) : Result :=
  let s := s.begin
  .next (if s.coreRuns && (s.txReady w || (s.wingRuns w && s.rd .ELC_HS_STAT_STATE [w.n] == 3)) && s.flag .ELC_HS_STAT_ICM_RC [w.n] then
      match s.wanted w with
      | some x => s.announceIcm w x
      | none => s
    else s)

/-- R188, R210: the burst of the latest ANNOUNCE has ended: ICM_WAIT counts from there. -/
def State.announceSent (s : State) (w : Wing) : Bool :=
  let i := s.icm.get w
  !(i.queue ++ i.burst.toList).any (fun m => icmRank m == 2)

/-- R188: ICM_ANNOUNCE_RESEND; R22: the control core handles the intercom's messages. -/
def execIcmAnnounceResend (w : Wing) (s : State) : Result :=
  let s := s.begin
  let t := s.tx.get w
  .next (match t.now with
    | some x =>
      if s.coreRuns && s.rd .ELC_HS_STAT_STATE [w.n] == 4 && s.announceSent w && decide (t.icmTries < 3) then
        (s.sendAnnounce w x).onTx w (fun t => { t with icmTries := t.icmTries + 1 })
      else s
    | none => s)

/-- R188 step 4: the handshake failed. -/
def State.failIcm (s : State) (w : Wing) (x : Wanted) : State :=
  let rest := if s.flag .ELC_HS_STAT_FLOOR_TX [w.n] then 5 else 0
  let s := ((s.wr .ELC_HS_STAT_STATE [w.n] rest).evt .ELC_EVT_RC_FAIL [w.n]).onTx w (fun t => { t with
    now := none, icmTries := 0, mapRetry := if x.mapOnly then some t.annEnabled else t.mapRetry })
  if s.classOf_ w x = .lowering then s.pull w 7 else s

/-- R188: ICM_HANDSHAKE_FAIL. -/
def execIcmHandshakeFail (w : Wing) (s : State) : Result :=
  let s := s.begin
  let t := s.tx.get w
  .next (match t.now with
    | some x =>
      if s.rd .ELC_HS_STAT_STATE [w.n] = 4 && s.announceSent w && decide (3 ≤ t.icmTries) then s.failIcm w x else s
    | none => s)

/-- R188: ENABLE_CHANGE_RETRY. -/
def execEnableChangeRetry (w : Wing) (s : State) : Result :=
  .next (s.begin.onTx w (fun t => { t with mapRetry := none }))

/-- R188 step 3: the intercom ACK: a header announcement with that ANN_SEQ, committed at once, begins at the next
transmitted boundary. -/
def State.ackIcm (s : State) (w : Wing) (seq : Nat) : State :=
  let t := s.tx.get w
  match t.now with
  | some x =>
    if s.rd .ELC_HS_STAT_STATE [w.n] = 4 && t.annSeq == seq then
      let s := ((s.beginAnn w x t.annEnabled seq (s.leadCfg w x)).wr .ELC_HS_STAT_STATE [w.n] 2).evt .ELC_EVT_COMMIT [w.n]
      s.onTx w (fun t => { t with fresh := true, acked := true })
    else s
  | none => s

/-! ### The host's commands (R69, R187, R189, R192) -/

/-- R192: GO, in MANUAL only; for the present pair it asks for a map-only change. -/
def State.go (s : State) (w : Wing) : State :=
  let p := s.clipPair w (s.rd .ELC_CTL_H_IDX [w.n]) (s.rd .ELC_CTL_FEC [w.n])
  if s.rd .ELC_CTL_MODE [w.n] = 1 then s.onTx w (fun t => { t with want := some (s.asChange w ⟨p.1, p.2, false⟩) }) else s

/-- R192: GO. -/
def execGo (req : Req) (w : Wing) (s : State) : Result := .next (s.begin.via req (·.go w))

/-- R189: HELD is left. -/
def State.leaveHeld (s : State) (w : Wing) : State :=
  if s.rd .ELC_HS_STAT_STATE [w.n] = 6 then
    ((s.wr .ELC_HS_STAT_STATE [w.n] 5).onTx w (fun t => { t with falls := [] })).icmRefresh w
  else s

/-- R189, R192: RESUME acts at the transmitted boundary; of a stopped wing at once (R38). -/
def State.resumeHeld (s : State) (w : Wing) : State :=
  if s.wingStopped w then s.leaveHeld w else s.onTx w (fun t => { t with resume := true })

/-- R189: RESUME. -/
def execResume (req : Req) (w : Wing) (s : State) : Result := .next (s.begin.via req (·.resumeHeld w))

/-- R187, R193: FORCE_FLOOR, ignored while HELD. -/
def State.forceFloor (s : State) (w : Wing) : State := if s.rd .ELC_HS_STAT_STATE [w.n] = 6 then s else s.pull w 8

/-- R187: FORCE_FLOOR. -/
def execForceFloor (req : Req) (w : Wing) (s : State) : Result := .next (s.begin.via req (·.forceFloor w))

/-- R40, R192: ELC_MODE_SET: 0b11 is taken as FROZEN. A return to AUTO finds the latest unacted advice (`State.wanted`). -/
def execElcModeSet (req : Req) (w : Wing) (mode : Fin 4) (s : State) : Result :=
  .next (s.begin.via req (fun s =>
    (if s.wingStopped w then s.releaseOne .ELC_CTL_MODE [w.n] else s.keepUse .ELC_CTL_MODE [w.n]).wr .ELC_CTL_MODE
      [w.n] (min 2 mode)))

/-- R69: CHAN_ENABLE_WRITE: a channel number beyond the wing's channels is ignored. -/
def execChanEnableWrite (req : Req) (w : Wing) (n : Fin 32) (on : Bool) (s : State) : Result :=
  .next (s.begin.via req (fun s =>
    s.when (decide ((n : Nat) < s.chanCount w)) (·.wrb .ELC_CHAN_CFG_ENABLE [w.n, n] on)))

end Sys2Proof.Machine
end

