-- ==== Sys2Proof/Machine/Figures.lean ====
section
/-!
DEFINITION. The figures of merit: how the receiver computes them from what it measures in each superframe (R115, R116).
-/

namespace Sys2Proof.Machine

/-! ### Decibels -/

/-- The greatest `k` below 2^`bits` + `k0` with 10^`k` not above a/b, found bit by bit. -/
def decades (a b : Nat) : Nat → Nat → Nat
  | 0, k => k
  | i + 1, k => decades a b i (if b * 10 ^ (k + 2 ^ i) ≤ a then k + 2 ^ i else k)

/-- A power ratio a/b in 0.01 dB, rounded to the nearest; a ratio with a zero in it reads as the limit (assumption 62). -/
def centibel (a b : Nat) : Int :=
  if a = 0 || b == 0 then (if a = 0 then -10000 else 10000)
  else (((decades (a ^ 2000 * 10 ^ 20000) (b ^ 2000) 16 0 : Nat) : Int) - 20000 + 1) / 2

/-- R115: the linear harmonic mean of two ratios. -/
def harmonic (x y : Nat) : Nat := 2 * x * y / (x + y)

/-! ### One superframe (R115) -/

/-- R115: the bits that a symbol of the base carries per polarisation: 2, 4 or 6. -/
def baseBits (n : Nat) : Nat := 2 * (baseOf n + 1)

/-- R115: NGMI in 1/32,768, from GMI in 1/4,096 bit. -/
def ngmiOf (n gmi : Nat) : Nat := clampNat 0 32767 (32768 - ((32 + n) * 256 - gmi) * 8 / baseBits n)

/-- R115: a superframe of an index and profile joins a sum. -/
def FomSum.add (f : FomSum) (n fec : Nat) (m : SuperframeRx) : FomSum where
  n := f.n + 1
  x := f.x + m.snrX
  y := f.y + m.snrY
  eff := f.eff + harmonic m.snrX m.snrY
  p1 := f.p1 + harmonic m.firstX m.firstY
  gmi := f.gmi + m.gmi
  ngmi := f.ngmi + ngmiOf n m.gmi
  req := f.req + snrReq n fec

/-! ### A window or a second (R115, R116) -/

/-- R115: the figures in the units of the FOM registers. -/
structure Figures where
  snrX : Nat
  snrY : Nat
  snrEff : Nat
  snrP1 : Nat
  gmi : Nat
  ngmi : Nat
  osnr : Nat
  osnrSat : Bool
  req : Int
deriving DecidableEq, Repr

/-- An SNR, given as the sum of `n` linear ratios in 2^−16, as its register shows it: their mean in 0.01 dB. -/
def snrShown (sum n : Nat) : Nat := (max 0 (min 65535 (centibel sum (65536 * n)))).toNat

/-- R116: SNR_EFF lies within 0.1 dB of SNR_TRX or above it. -/
def osnrSaturates (sum n trx : Nat) : Bool := decide (centibel trx 65536 ≤ centibel sum (65536 * n) + 10)

/-- R115: OSNR_EST in 0.01 dB at a symbol rate in 0.25 GBd: 1/(1/SNR_EFF − 1/SNR_TRX), times B over 12.5 GBd. -/
def osnrShown (sum n trx baud : Nat) : Nat :=
  (max 0 (min 65535 (centibel (sum * trx * baud) ((trx * n - sum) * 65536 * 50)))).toNat

/-- R115: a sum divided by its count, to the nearest. -/
def meanOf (sum : Int) (n : Nat) : Int := (2 * sum + n) / (2 * n)

/-- R115: the figures of a sum, under the transceiver's SNR and the symbol rate. -/
def FomSum.figures (f : FomSum) (trx baud : Nat) : Figures where
  snrX := snrShown f.x f.n
  snrY := snrShown f.y f.n
  snrEff := snrShown f.eff f.n
  snrP1 := snrShown f.p1 f.n
  gmi := min 65535 (meanOf f.gmi f.n).toNat
  ngmi := min 32767 (meanOf f.ngmi f.n).toNat
  osnr := osnrShown f.eff f.n trx baud
  osnrSat := osnrSaturates f.eff f.n trx
  req := meanOf f.req f.n

/-- R115: the transceiver's SNR at the present BAUD, from the OPTICAL section. -/
def State.snrTrx (s : State) (w : Wing) : Nat := tabGet 0 (s.opt.get w).sec.snrTrx (s.rd .RXW_RATE_BAUD [w.n])

end Sys2Proof.Machine
end

