-- ==== Sys2Proof/Machine/Line.lean ====
section
/-!
DEFINITION. Carrier frames and superframes: the boundaries of both directions, the alignment, the headers and slot maps
received and the receiver's part of the handshake (R45 to R70, R183, R184, R187).
-/

namespace Sys2Proof.Machine

/-! ### The transmitted superframe boundary (R52, R53, R182, R183) -/

/-- R52: COUNTDOWN decrements; at the end of the superframe with COUNTDOWN = 1 the switch is due. -/
def State.countDown (s : State) (w : Wing) : State :=
  let t := s.tx.get w
  let c := s.rd .TXW_LINE_NEXT_COUNTDOWN [w.n]
  if !s.flag .TXW_LINE_NEXT_ANN_VALID [w.n] then s
  else if t.fresh then s.onTx w (fun t => { t with fresh := false })
  else
    let s := s.onTx w (fun t => { t with elapsed := t.elapsed + 1, switchDue := decide (c ≤ 1) })
    s.wr .TXW_LINE_NEXT_COUNTDOWN [w.n] (c - 1)

/-- R181, R182: what else counts transmitted boundaries. -/
def TxRate.boundary (t : TxRate) : TxRate :=
  { t with
    sinceWithdrawal := t.sinceWithdrawal + 1
    ackSent := t.ackWant
    withdrawn := (t.withdrawn.filter (fun e => decide (e.2 < 1023))).map (fun e => (e.1, e.2 + 1)) }

/-- R189, R192: a RESUME that waited. -/
def State.resumeDue (s : State) (w : Wing) : State :=
  s.when (s.tx.get w).resume (fun s => (s.leaveHeld w).onTx w (fun t => { t with resume := false }))

/-- R116, R192: ADV_TX shows the margin that the new headers carry; the intercom no longer carries advice that R179 does
not send there. -/
def State.showAdvTx (s : State) (w : Wing) : State :=
  let i := [w.n]
  let icm := s.flag .ELC_ADV_TX_VIA_ICM i && s.adviceByIcm w
  s.when (s.flag .ELC_ADV_TX_VALID i) (fun s =>
    (s.wr .ELC_ADV_TX_MARGIN i (s.advMargin w)).wrb .ELC_ADV_TX_VIA_ICM i icm)

/-- R52, R53: the header fields of the new superframe.  At the boundary of a due switch RATE_SWITCH sends the header:
COUNTDOWN is never sent as 0. -/
def State.txBoundary (s : State) (w : Wing) : State :=
  let s := ((s.releaseUse (0x10 + 0x10 * w.n)).releaseUse (0x15 + 0x10 * w.n)).countDown w
  let s := ((s.onTx w TxRate.boundary).wrb .RXW_HDR_STAT_HDR_LOSS_TX [w.n] (s.tx.get w).wantHdrLoss).showCand (2 + w.n)
  let s := ((((s.resumeDue w).showAdvTx w).setIcmRc w).showAcct w 0 (s.curPair w).1 (s.curPair w).2).icmRefresh w
  if (s.tx.get w).switchDue then s else s.sendHeader w

/-- R156, R158: a new superframe begins, under the pair in force (a switch at the same boundary changes the pair:
`State.switchTx`), with the information bits that the one before it had no room for. Bits that the overhead processor has not
supplied by then are 0 (DESIGN CHOICE: assumption 48). -/
def State.carry (s : State) (w : Wing) : State :=
  let left := match (s.tx.get w).sent with
    | c :: _ => c.info.drop (infoBits c.n c.fec)
    | [] => []
  s.onTx w (fun t => { t with sent := ⟨s.mt, (s.curPair w).1, (s.curPair w).2, left⟩ :: t.sent })

/-- R84: the samples of the superframe that are clipped in any dimension are counted. -/
def State.countClipped (s : State) (w : Wing) (shaped : Nat) : State :=
  s.count .TXW_CLIP_CNT_COUNT [w.n] (s.clipCount w shaped)

/-- R52: SUPERFRAME_BOUNDARY_TX; the DACs took the first `shaped` samples of the superframe that ends. -/
def execSuperframeBoundaryTx (w : Wing) (shaped : Nat) (s : State) : Result :=
  let s := s.begin
  .next (if s.wingRuns w then ((s.countClipped w shaped).carry w).txBoundary w else s)

/-- R53: HDR_LOSS_SET; the 2 superframes that clear it are still to come. -/
def execHdrLossSet (w : Wing) (s : State) : Result :=
  let s := s.begin
  .next (if decide (64 ≤ (s.rx.get w).noHeader) then
      (s.onTx w (fun t => { t with wantHdrLoss := true })).onRx w (fun r => { r with goodSf := 0 })
    else s)

/-- R53: HDR_LOSS_CLEAR. -/
def execHdrLossClear (w : Wing) (s : State) : Result :=
  let s := s.begin
  .next (if decide (2 ≤ (s.rx.get w).goodSf) then s.onTx w (fun t => { t with wantHdrLoss := false }) else s)

/-! ### Alignment (R54) -/

/-- R54: the correlation reaches 0.5 of its ideal peak, in thousandths. -/
def atPeak (corr : Nat) : Bool := decide (500 ≤ corr)

/-- R117: the receiver has reached the sync-word search, with light. -/
def State.searches (s : State) (w : Wing) : Bool :=
  let st := s.rd .RXW_RX_STAT_STATE [w.n]
  decide (6 ≤ st) && st != 15 && !s.flag .OPT_RX_STAT_LOS [w.n]

/-- R54, R70: while the receiver is aligned, a peak at another position is ignored. -/
def State.ignoresPeak (s : State) (w : Wing) (pos : Nat) : Bool :=
  s.flag .RXW_HDR_STAT_CF_ALIGNED [w.n] && pos != (s.rx.get w).position

/-- R54: one frame's correlation. -/
def State.alignFrame (s : State) (w : Wing) (pos corr : Nat) : State :=
  let r := s.rx.get w
  if s.flag .RXW_HDR_STAT_CF_ALIGNED [w.n] then
    s.onRx w (fun r => { r with
      frame := (r.frame + 1) % 64
      sfCount := if r.frame = 63 then r.sfCount + 1 else r.sfCount
      misses := if atPeak corr then 0 else r.misses + 1 })
  else if s.searches w && atPeak corr then
    if r.candidate = pos + 1 then
      (s.wrb .RXW_HDR_STAT_CF_ALIGNED [w.n] true).onRx w (fun r => { r with
        candidate := 0, position := pos, misses := 0, lastNo := none, stray := false })
    else s.onRx w (fun r => { r with candidate := pos + 1 })
  else s.onRx w (fun r => { r with candidate := 0 })

/-- R54: what a valid header's FRAME_NO does to superframe alignment. -/
def State.alignSf (s : State) (w : Wing) (no : Nat) : State :=
  let r := s.rx.get w
  let s := s.onRx w (fun r => { r with lastNo := some no })
  if !s.flag .RXW_HDR_STAT_SF_ALIGNED [w.n] then
    if r.lastNo = some ((no + 63) % 64) then
      (s.wrb .RXW_HDR_STAT_SF_ALIGNED [w.n] true).onRx w (fun r => { r with frame := no, stray := false })
    else s
  else if no = r.frame then s.onRx w (fun r => { r with stray := false })
  else if r.stray then
    (s.count .RXW_HDR_ERR_CF_SLIP [w.n]).onRx w (fun r => { r with frame := no, stray := false })
  else s.onRx w (fun r => { r with stray := true })

/-! ### The superframe's header (R53, R59, R68) -/

/-- R68: HDR_STAT shows the received fields. -/
def State.showHeader (s : State) (w : Wing) (h : Header) : State :=
  let i := [w.n]
  (((((s.wrb .RXW_HDR_STAT_FLOOR_RX i h.floor).wrb .RXW_HDR_STAT_ICM_RC_RX i h.icmRc).wrb
    .RXW_HDR_STAT_HDR_LOSS_RX i h.hdrLoss).wr .RXW_HDR_STAT_QL_RX i h.ql).wr .RXW_HDR_STAT_WING_RX i h.wing).showCand
    (2 + w.n)

/-- R59, R70: a header's BAUD that differs from the configured rate stops delivery until the wing is reacquired. -/
def State.checkBaud (s : State) (w : Wing) (h : Header) : State :=
  if h.baud = s.rd .RXW_RATE_BAUD [w.n] || s.flag .RXW_HDR_STAT_BAUD_MISM [w.n] then s
  else
    let s := (s.wrb .RXW_HDR_STAT_BAUD_MISM [w.n] true).onRx w (fun r => { r with baudStop := true })
    s.emit (wingIsland 9 w) 0 (evtCode .RXW_HDR_STAT_BAUD_MISM [w.n] 0)

/-- R184: the receiver holds no announcement any more. -/
def State.dropAnn (s : State) (w : Wing) (rest : Nat) : State :=
  (s.onRxHs w (fun r => { r with complete := false, rstate := rest, ann := none, record := none, switchDue := false })).onTx w
    (fun t => { t with ackWant := none })

/-- R187: the received parameters follow a header. -/
def State.takeCur (s : State) (w : Wing) (h : Header) : State := (s.setRxLineCur w h.baud h.hCur h.fecCur h.slotsCur).showRxAcct w

/-- R187 step 2: a header with FLOOR newly 1: its values and map are adopted afresh, and the own transmitter falls back
unless it is at floor already. -/
def State.followFloor (s : State) (w : Wing) (h : Header) : State :=
  let i := [w.n]
  let s := ((((s.takeCur w h).wrb .RXW_HDR_STAT_MAP_VALID i false).setActiveMap w []).dropAnn w 5).onRx w (fun r => { r with
    following := true, cur := none, expect := none, differ := 0, mismatch := 0 })
  if s.flag .ELC_HS_STAT_FLOOR_TX i || s.rd .ELC_HS_STAT_STATE i == 6 then s else s.pull w 5

/-- R187: floor values that differ from what BRINGUP gave. -/
def State.checkFloor (s : State) (w : Wing) (h : Header) : State :=
  let i := [w.n]
  s.when (h.floor && (s.rx.get w).following &&
    (h.hCur != s.rd .ELC_FLOOR_RX_H_IDX i || h.fecCur != s.rd .ELC_FLOOR_RX_FEC i))
    (·.wrb .ELC_RX_HS_FLOOR_MISM i true)

/-- The _CUR values of a header are those in use. -/
def State.sameCur (s : State) (w : Wing) (h : Header) : Bool :=
  let i := [w.n]
  h.hCur == s.rd .RXW_LINE_CUR_H_IDX i && h.fecCur == s.rd .RXW_LINE_CUR_FEC i &&
    h.slotsCur == s.rd .RXW_LINE_CUR_SLOTS i

/-- R186: a mismatch is found; the first cause stands. -/
def State.foundMismatch (s : State) (w : Wing) (cause : Nat) : State :=
  s.onRx w (fun r => { r with mismatch := if r.mismatch = 0 then cause else r.mismatch })

/-- R57, R186, R187: what a superframe's _CUR values do to the values in use. -/
def State.checkCur (s : State) (w : Wing) (h : Header) : State :=
  let r := s.rx.get w
  let s := s.onRx w (fun r => { r with expect := none })
  if r.following && !h.floor then s
  else if s.sameCur w h then s.onRx w (fun r => { r with differ := 0 })
  else if r.expect.isSome then s.foundMismatch w 1
  else if !s.flag .RXW_HDR_STAT_MAP_VALID [w.n] || h.floor then s.takeCur w h
  else
    let s := s.onRx w (fun r => { r with differ := r.differ + 1 })
    s.when (decide (1 ≤ r.differ)) (·.foundMismatch w 3)

/-- R183, R184: what a superframe's announcement fields do to the receiver's record. -/
def State.trackAnn (s : State) (w : Wing) (h : Header) : State :=
  let r := s.rx.get w
  if h.annValid then
    let s := s.onRxHs w (fun r => { r with annSeen := h.annSeq })
    let new := match r.record with
      | some a => a.seq != h.annSeq || a.h != h.hNext || a.fec != h.fecNext || a.slots != h.slotsNext
      | none => true
    let s := s.when new (fun s => (s.dropAnn w 1))
    s.onRx w (fun r => { r with record := some ⟨h.annSeq, h.hNext, h.fecNext, h.slotsNext, h.countdown⟩ })
  else if r.record.isSome then s.dropAnn w (if r.following then 5 else 0)
  else s

/-- R180, R182: advice and acknowledgement in a superframe's header. -/
def State.headerControl (s : State) (w : Wing) (h : Header) : State :=
  let s := s.when h.ackValid (·.ackRx w h.ackSeq)
  s.when h.advValid (·.adviceRx w false h.advSeq h.advH h.advFec h.advMargin)

/-- R53: the first valid header of a superframe is taken. -/
def State.takeHeader (s : State) (w : Wing) (h : Header) : State :=
  let rise := h.floor && !s.flag .RXW_HDR_STAT_FLOOR_RX [w.n]
  let s := ((s.showHeader w h).checkBaud w h).onRx w (fun r => { r with taken := some h, held := some h })
  let s := s.when rise (·.followFloor w h)
  (((s.checkCur w h).checkFloor w h).trackAnn w h).headerControl w h

/-! ### Slot maps received (R55 to R57, R183) -/

/-- R57: one segment joins a map that is being gathered; other announcement or values start it afresh. -/
def MapParts.join (p : Option MapParts) (seq h fec slots k : Nat) (seg : List Nat) : MapParts :=
  match p with
  | some m => if m.annSeq = seq && m.h == h && m.fec == fec && m.slots == slots then
      { m with segs := tabInsert k seg (tabErase m.segs k) } else ⟨seq, h, fec, slots, [(k, seg)]⟩
  | none => ⟨seq, h, fec, slots, [(k, seg)]⟩

/-- The map of 32 segments. -/
def MapParts.map (p : MapParts) : Option (List Nat) :=
  if p.segs.length = 32 then some (p.segs.flatMap (·.2)) else none

/-- R56: a complete map is consistent. -/
def State.rxMapOk (s : State) (w : Wing) (baud : Nat) (p : MapParts) (m : List Nat) : Bool :=
  mapConsistent m baud p.h p.fec p.slots (fun c => s.rd .ELC_CHAN_CFG_CEILING [w.n, c])

/-- R57: the active map is adopted, or MAP_BAD is set. -/
def State.adoptMap (s : State) (w : Wing) (h : Header) (p : MapParts) (m : List Nat) : State :=
  let s := s.onRx w (fun r => { r with cur := none })
  if s.rxMapOk w h.baud p m then
    (((s.setRxMap w m).wrb .RXW_HDR_STAT_MAP_VALID [w.n] true).setActiveMap w m).onDec w (fun d => { d with zeros := 0 })
  else s.wrb .RXW_HDR_STAT_MAP_BAD [w.n] true

/-- R55, R57: a current-map segment: frames 0 to 31, and frames 32 to 63 that repeat it. -/
def State.curSegment (s : State) (w : Wing) (h : Header) : State :=
  let r := s.rx.get w
  if s.flag .RXW_HDR_STAT_MAP_VALID [w.n] then
    if (r.active.drop (20 * (h.frameNo % 32))).take 20 = h.map then s
    else (s.wrb .RXW_HDR_STAT_MAP_DISAGREE [w.n] true).foundMismatch w 2
  else if !s.sameCur w h then s
  else
    let p := MapParts.join r.cur h.annSeq h.hCur h.fecCur h.slotsCur (h.frameNo % 32) h.map
    match p.map with
    | some m => s.adoptMap w h p m
    | none => s.onRx w (fun r => { r with cur := some p })

/-- R183: a change that the receiver's own advice lets it accept. -/
def State.acceptable (s : State) (w : Wing) (baud hc fc hn fn : Nat) : Bool :=
  let i := [w.n]
  match classify baud hc fc hn fn with
  | .raise =>
    s.flag .ELC_POLICY2_ACCEPT_ANY i || (s.flag .ELC_ADV_TX_VALID i &&
      decide (snrReq hn fn ≤ snrReq (s.rd .ELC_ADV_TX_H_IDX i) (s.rd .ELC_ADV_TX_FEC i)))
  | _ => true

/-- R56, R183: the receiver holds all of an announced map: it acknowledges, or refuses; an inconsistent map is not kept,
so that no switch adopts it. -/
def State.judgeAnn (s : State) (w : Wing) (h : Header) (p : MapParts) (m : List Nat) : State :=
  let i := [w.n]
  let s := s.onRxHs w (fun r => { r with complete := true })
  let ok := s.rxMapOk w h.baud p m
  let s := s.when (!ok) (·.wrb .RXW_HDR_STAT_MAP_BAD i true)
  if ok && s.acceptable w h.baud h.hCur h.fecCur h.hNext h.fecNext then
    (s.onRxHs w (fun r => { r with rstate := 2 })).onTx w (fun t => { t with ackWant := some h.annSeq })
  else (s.countWrap .ELC_CNT3_REFUSED i).onRxHs w
    (fun r => { r with rstate := 3, ann := if ok then r.ann else none })

/-- R57, R183: an announced-map segment. -/
def State.annSegment (s : State) (w : Wing) (h : Header) : State :=
  let r := s.rx.get w
  if !h.annValid || r.record.isNone || r.complete then s
  else
    let p := MapParts.join r.ann h.annSeq h.hNext h.fecNext h.slotsNext (h.frameNo - 32) h.map
    let s := s.onRx w (fun r => { r with ann := some p })
    match p.map with
    | some m => s.judgeAnn w h p m
    | none => s

/-- R55: the segment that a valid header carries.  While ANN_VALID is 0, frames 32 to 63 repeat the current map. -/
def State.takeSegment (s : State) (w : Wing) (h : Header) : State :=
  if h.frameNo < 32 || !h.annValid then s.curSegment w h else s.annSegment w h

/-! ### A received carrier frame (R53, R96, R106 to R109) -/

/-- R53: a valid header. -/
def State.goodHeader (s : State) (w : Wing) (h : Header) : State :=
  let s := (s.onRx w (fun r => { r with noHeader := 0 })).alignSf w h.frameNo
  if !s.flag .RXW_HDR_STAT_SF_ALIGNED [w.n] then s
  else match (s.rx.get w).taken with
    | none => (s.takeHeader w h).takeSegment w h
    | some t =>
      if headerFields t = headerFields h then s.takeSegment w h else s.count .RXW_HDR_ERR_HDR_DIFF [w.n]

/-- R53: a frame, or a period of 65,536 symbols, without a valid header. -/
def State.noHeader (s : State) (w : Wing) : State :=
  (s.when (s.flag .RXW_HDR_STAT_CF_ALIGNED [w.n]) (·.count .RXW_HDR_ERR_HDR_CRC [w.n])).onRx w
    (fun r => { r with noHeader := min 64 (r.noHeader + 1) })

/-- R49, R50, R53: the header that came with a carrier frame. -/
def State.frameHeader (s : State) (w : Wing) (hdr : Option HeaderRx) : State :=
  match hdr with
  | some f =>
    if s.flag .RXW_HDR_STAT_CF_ALIGNED [w.n] && headerOk (rxHeader f) then s.goodHeader w (rxHeader f) else s.noHeader w
  | none => s.noHeader w

/-- R14, R388: the time at which a carrier frame left the ADC is recorded. -/
def State.noteFrame (s : State) (w : Wing) : State := s.onRx w (fun r => { r with adcAt := (s.mt :: r.adcAt).take 64 })

/-- R107: the equaliser's run of frames above its convergence limit; a frame below it ends a stop of traffic that has not led
to a re-convergence. -/
def RxLine.judgeError (r : RxLine) (aligned converged : Bool) (error : Nat) : RxLine :=
  let above := aligned && decide (Config.convergenceLimit < error)
  { r with
    dsp := { r.dsp with overRun := if above then min 64 (r.dsp.overRun + 1) else 0 }
    eqStop := (converged && above) || (r.eqStop && (!converged || above)) }

/-- R109: the noise variance of each dimension, measured on the frame's 1,148 known symbols; the note that soft demapping takes
for the frame. -/
def State.measureNoise (s : State) (w : Wing) : State :=
  let ys := ((s.rx.get w).dsp.frames.headD DspFrame.empty).out
  let f : FrameNote := {
    noise := (List.range 4).map (fun d => knownNoise ys d / 1148)
    perDim := s.flag .RXW_DEMAP_CFG_NOISE_DIM [w.n]
    prior := s.flag .RXW_DEMAP_CFG_PRIOR_EN [w.n] }
  s.when (s.flag .RXW_HDR_STAT_CF_ALIGNED [w.n]) (·.onRx w (fun r => { r with notes := (f :: r.notes).take 64, inSf := r.inSf + 1 }))

/-- R96, R106 to R108: a carrier frame's samples pass the DSP from the equaliser's step on; the equaliser's taps and error and the
cycle slips are kept. -/
def State.passDsp (s : State) (w : Wing) (adc : List (List Int)) : State :=
  let i := [w.n]
  let t := s.frameThrough w adc
  let aligned := s.flag .RXW_HDR_STAT_CF_ALIGNED i
  let converged := s.flag .RXW_EQ_STAT_CONVERGED i
  (s.onRx w (fun r => RxLine.judgeError { r with dsp := t.1, taps := t.2.1 } aligned converged t.2.2.2)).when
    (s.flag .RXW_FR_STAT_LOCKED i) (·.count .RXW_PR_SLIP_COUNT i t.2.2.1)

/-- R96: the receiver has come to the equaliser's step, or further. -/
def State.dspRuns (s : State) (w : Wing) : Bool :=
  decide (5 ≤ s.rd .RXW_RX_STAT_STATE [w.n] ∧ s.rd .RXW_RX_STAT_STATE [w.n] ≤ 11)

/-- R96, R106 to R109: what the receive DSP makes of a carrier frame. -/
def State.frameSignal (s : State) (w : Wing) (adc : List (List Int)) : State :=
  (s.when (s.dspRuns w) (·.passDsp w adc)).measureNoise w

/-- R53: CARRIER_FRAME_RX. -/
def execCarrierFrameRx (w : Wing) (pos corr : Nat) (hdr : Option HeaderRx) (adc : List (List Int)) (s : State) :
    Result :=
  let s := s.begin
  .next (if !s.wingRuns w || s.ignoresPeak w pos then s
    else (((s.noteFrame w).alignFrame w pos corr).frameHeader w hdr).frameSignal w adc)

/-! ### The received superframe boundary (R53, R98, R184, R185) -/

/-- R185: the runs of superframes with HDR_LOSS received as 1 and as 0. -/
def State.lossRuns (s : State) (w : Wing) : State :=
  let on := s.flag .RXW_HDR_STAT_HDR_LOSS_RX [w.n]
  s.onRx w (fun r =>
    let clear := if on then 0 else r.clearRun + 1
    { r with
      lossRun := if on && r.taken.isSome then r.lossRun + 1 else 0
      clearRun := clear
      lossArmed := r.lossArmed || decide (4 ≤ clear) })

/-- R185: the fourth superframe with HDR_LOSS triggers one fall-back for the episode. -/
def State.lossTrigger (s : State) (w : Wing) : State :=
  let r := s.rx.get w
  if r.lossArmed && decide (4 ≤ r.lossRun) then
    (s.onRx w (fun r => { r with lossArmed := false, lossRun := 0 })).pull w 6
  else s

/-- R53, R184: the receiver's own count of COUNTDOWN. -/
def RxLine.boundary (r : RxLine) : RxLine :=
  { r with
    goodSf := if r.taken.isSome then r.goodSf + 1 else 0
    differ := if r.taken.isSome then r.differ else 0
    taken := none
    sinceSwitch := r.sinceSwitch + 1
    switchDue := match r.record with
      | some a => decide (a.countdown ≤ 1)
      | none => false
    record := match r.record with
      | some a => some { a with countdown := a.countdown - 1 }
      | none => none }

/-! ### The second pass is requested (R113) -/

/-- R113: a start of the second pass is requested: its domain waits in the sequencer's queue. -/
def State.sp2Request (s : State) (w : Wing) : State :=
  if s.flag .RXW_SP2_STAT_ACTIVE [w.n] || s.flag .RXW_SP2_STAT_WAIT_PWR [w.n] then s
  else
    let q := s.power.queue ++ [.secondPass w]
    ({ s with power := { s.power with queue := q } }).wrb .RXW_SP2_STAT_WAIT_PWR [w.n] true

/-- R113: a request that waits is withdrawn. -/
def State.sp2Cancel (s : State) (w : Wing) : State :=
  let q := s.power.queue.filter (· != .secondPass w)
  ({ s with power := { s.power with queue := q } }).wrb .RXW_SP2_STAT_WAIT_PWR [w.n] false

/-- R352: the VIN warning sheds the second passes. -/
def State.shedding (s : State) : Bool := s.flag .PWR_VIN_STAT_WARN && s.flag .PWR_VIN_CFG_SHED

/-- R98, R113: MODE takes force at the boundary: ON requests the pass whenever the wing is acquired and withdraws a stop,
OFF stops it, AUTO leaves it. -/
def State.sp2Mode (s : State) (w : Wing) : State :=
  let m := s.rd .RXW_SP2_CTL_MODE [w.n]
  if m = 1 then
    (s.onRx w (fun r => { r with sp2Stop := false })).when
      (s.rd .RXW_RX_STAT_STATE [w.n] == 11 && !s.flag .RXW_SP2_STAT_DRAINING [w.n] && !s.shedding) (·.sp2Request w)
  else if m = 2 then s
  else (s.sp2Cancel w).when (s.flag .RXW_SP2_STAT_ACTIVE [w.n]) (·.onRx w (fun r => { r with sp2Stop := true }))

/-! ### The boundary (R98, R100, R105, R115) -/

/-- R98: the received superframe boundary. -/
def State.rxBoundary (s : State) (w : Wing) : State :=
  let s := ((s.releaseUse (0x11 + 0x10 * w.n)).releaseUse (0x13 + 0x10 * w.n)).sp2Mode w
  let p := (s.rd .RXW_LINE_CUR_H_IDX [w.n], s.rd .RXW_LINE_CUR_FEC [w.n])
  ((((s.showRxHs w).lossRuns w).lossTrigger w).onRx w (fun r => { r.boundary with earlier := p, inSf := 0 })).fecBoundary w

/-- R115: a superframe that ended while READY counts towards the window and the second, the one under way when READY rose too
(DESIGN CHOICE: R115 does not say whether it is the first after READY; assumption 80). -/
def State.countFigures (s : State) (w : Wing) (m : SuperframeRx) : State :=
  let n := s.rd .RXW_LINE_CUR_H_IDX [w.n]
  let fec := s.rd .RXW_LINE_CUR_FEC [w.n]
  s.when (s.rd .RXW_RX_STAT_STATE [w.n] == 11) (·.onRx w (fun r => { r with
    window := r.window.add n fec m
    second := r.second.add n fec m }))

/-- R100, R105: the frequency and the timing loop follow the far end while they are locked. -/
def State.follow (s : State) (w : Wing) (m : SuperframeRx) : State :=
  let i := [w.n]
  (s.when (s.flag .RXW_FR_STAT_LOCKED i) (·.wrS .RXW_FR_STAT_OFFSET i (clampInt (-4096) 4095 m.freq))).when
    (s.flag .RXW_TR_STAT_LOCKED i) (·.wrS .RXW_TR_STAT_OFFSET i (clampInt (-32768) 32767 m.timing))

/-- R98: SUPERFRAME_BOUNDARY_RX. -/
def execSuperframeBoundaryRx (w : Wing) (m : SuperframeRx) (s : State) : Result :=
  let s := s.begin
  .next (if s.wingRuns w then ((s.countFigures w m).follow w m).rxBoundary w else s)

/-- R184: the receiver switches; without the announced map MAP_VALID falls. -/
def State.switchRx (s : State) (w : Wing) (a : AnnRecord) : State :=
  let i := [w.n]
  let r := s.rx.get w
  let rest := if s.flag .RXW_HDR_STAT_FLOOR_RX i && a.h == s.rd .RXW_LINE_CUR_H_IDX i &&
    a.fec == s.rd .RXW_LINE_CUR_FEC i then 5 else 0
  let m := match r.ann with
    | some p => p.map
    | none => none
  let s := (s.setRxLineCur w (s.rd .RXW_LINE_CUR_BAUD i) a.h a.fec a.slots).showRxAcct w
  let s := match m with
    | some m => (s.setRxMap w m).setActiveMap w m
    | none => (s.wrb .RXW_HDR_STAT_MAP_VALID i false).setActiveMap w []
  (s.dropAnn w rest).onRx w (fun r => { r with
    following := decide (rest = 5), cur := none, expect := some (a.h, a.fec, a.slots), sinceSwitch := 0, differ := 0
    lowWindows := 0, window := FomSum.zero })

/-- R184: RX_RATE_SWITCH. -/
def execRxRateSwitch (w : Wing) (s : State) : Result :=
  let s := s.begin
  let r := s.rx.get w
  .next (match r.switchDue, r.record with
    | true, some a => s.switchRx w a
    | _, _ => s)

end Sys2Proof.Machine
end

