-- ==== Sys2Proof/Machine/Supervisory.lean ====
section
/-!
DEFINITION. The supervisory converter and the decimation engine (R141 to R155).
-/

namespace Sys2Proof.Machine

/-- Change the supervisory converter. -/
def State.onSup (s : State) (f : Sup → Sup) : State := { s with sup := f s.sup }

/-- R141: the converter runs: the module is in Run or Idle. -/
def State.supRuns (s : State) : Bool := s.isRunning && decide (s.power.state ≤ 1) && !s.islandFailed 24

/-! ### Decimation contexts (R146 to R149) -/

/-- R146: a context's source: a channel code, 0x3C or 0x3D for a wing, 0x3F for none. -/
def State.ctxSource (s : State) (k : Nat) : Nat := s.rd .SUP_DEC_CFG_SOURCE [k]

/-- R148: the context belongs to a wing. -/
def State.wingCtx (s : State) (k : Nat) : Bool := s.ctxSource k == 0x3C || s.ctxSource k == 0x3D

/-- R146: the contexts of a source. -/
def State.ctxsOf (s : State) (src : Nat) : List Nat := (List.range 24).filter (fun k => s.ctxSource k == src)

/-- R147, R148: FIR decimation D: 1, 2 or 4. -/
def State.ctxD (s : State) (k : Nat) : Nat := if s.wingCtx k then 2 else 2 ^ min 2 (s.rd .SUP_DEC_CFG_FIR_D [k])

/-- R147, R148: CIC order N. -/
def State.ctxN (s : State) (k : Nat) : Nat := if s.wingCtx k then 4 else s.rd .SUP_DEC_CFG_ORDER [k] + 1

/-- R147, R148: CIC factor R; 0 is taken as 1. -/
def State.ctxR (s : State) (k : Nat) : Nat := if s.wingCtx k then 6 else max 1 (s.rd .SUP_DEC_CFG_R [k])

/-- R147, R148: the output shift; a wing context's is the module's choice (assumption 68). -/
def State.ctxShift (s : State) (k : Nat) : Nat :=
  if s.wingCtx k then Config.wingShift (s.ctxSource k - 0x3C) % 64 else s.rd .SUP_DEC_CFG_SHIFT [k]

/-- R149: the next N + ceil(32 / D) outputs of a context are unsettled. -/
def State.unsettle (s : State) (k : Nat) : State :=
  let n := s.ctxN k + ceilDiv 32 (s.ctxD k)
  s.onSup (fun p => { p with unsettled := tabSet 0 p.unsettled k n })

/-- R196: the wing of a wing context. -/
def State.ctxWing (s : State) (k : Nat) : Wing := if s.ctxSource k = 0x3C then .a else .b

/-- R149: a context starts over: its CIC and FIR are empty, and samples that it had not consumed are dropped (DESIGN CHOICE:
the rule names only the unsettled outputs; assumption 68). -/
def State.clearCtx (s : State) (k : Nat) : State :=
  (s.unsettle k).onSup (fun p => { p with filters := tabErase p.filters k, input := tabErase p.input k })

/-- R149: a context reset, of an unused context too. -/
def State.resetCtx (s : State) (k : Nat) : State := (s.clearCtx k).countWrap .SUP_DEC_STAT_RESETS [k]

/-- R149: every context is reset: the supervisory block restarts, or the SUP island wakes. -/
def State.resetContexts (s : State) : State := s.upTo 24 State.resetCtx

/-- R149: a step of a wing's power stream. -/
def State.wingStep (s : State) (w : Wing) : State := (s.ctxsOf (0x3C + w.n)).foldl State.unsettle s

/-- R149: the contexts of a mask are reset. -/
def State.resetMask (s : State) (mask : Nat) : State :=
  s.upTo 24 (fun s k => s.when (mask.testBit k) (·.resetCtx k))

/-- R40, R149, R153: DEC_RESET acts at the end of the conversion in progress; in a stopped block, and where no conversion is in
progress, at once. -/
def State.decReset (s : State) (mask : Nat) : State :=
  if s.supRuns && !s.halted 6 then s.onSup (fun p => { p with resetDue := p.resetDue ||| mask }) else s.resetMask mask

/-- R153: the conversion in progress has ended: the contexts that wait for it are reset. -/
def State.resetDueCtxs (s : State) : State := (s.resetMask s.sup.resetDue).onSup (fun p => { p with resetDue := 0 })

/-- R149: DEC_RESET. -/
def execDecReset (req : Req) (mask : Nat) (s : State) : Result := .next (s.begin.via req (·.decReset mask))

/-! ### Accumulators (R150) -/

/-- R150: one value enters a channel's accumulator and trackers. -/
def Accum.add (a : Accum) (v : Int) (sat injected : Bool) : Accum :=
  { a with
    sum := a.sum + v
    sq := a.sq + (v * v).toNat
    cnt := a.cnt + 1
    min := if a.cnt = 0 || v < a.min then v else a.min
    max := if a.cnt = 0 || a.max < v then v else a.max
    sat := a.sat || sat
    inj := a.inj + bitNat injected }

/-- R150, R152: the live statistics go on: the block is not stopped and no self-calibration runs. -/
def State.statsRun (s : State) : Bool := !s.halted 6 && !s.flag .SUP_CAL_CTL_BUSY

/-- R150, R152: the live statistics of a channel take a value. -/
def State.accumulate (s : State) (c : Nat) (v : Int) (sat injected : Bool) : State :=
  if !s.statsRun then s
  else s.onSup (fun p => { p with live := tabSet Accum.zero p.live c ((tabGet Accum.zero p.live c).add v sat injected) })

/-! ### Conversions (R142 to R145) -/

/-- R143, R89, R99: a photodiode of a wing is read: the transmit one (channel 0) while the carrier is lit or ramps, the
receive one (channel 1) while light is present. -/
def State.readDiode (s : State) (w : Wing) (c code : Nat) : State :=
  let o := (s.opt.get w).sec
  let st := s.rd .OPT_TX_STAT_STATE [w.n]
  if c = 0 then
    s.when (decide (2 ≤ st) && decide (st ≤ 4)) (·.wrS .OPT_TX_STAT_POWER_MEAS [w.n] (Config.photodiode o.txPd code))
  else s.when (!s.flag .OPT_RX_STAT_LOS [w.n]) (·.wrS .OPT_RX_STAT_POWER_MEAS [w.n] (Config.photodiode o.rxPd code))

/-- R143: the consumers that read a channel of the regular sequence straight from the converter. -/
def State.consume (s : State) (c code : Nat) : State :=
  if c = 0 || c == 1 then s.readDiode .a c code
  else if c = 6 || c == 7 then s.readDiode .b (c - 6) code
  else if c = 12 then s.wr .PWR_VIN_STAT_VIN [] (code * 2)
  else if 15 ≤ c && c ≤ 23 then s.onSup (fun p => { p with temps := tabSet 0 p.temps c ((code : Int) - 1024) })
  else s

/-- R143, R144: the result of an injected conversion goes to the consumer of the trigger's source: the wing's receive diode
after an edge of its LOS, its transmit diode on its ramp, and for the VIN warning the power entry's input voltage. -/
def State.consumeInjected (s : State) (src c code : Nat) : State :=
  let s := s.say (.injected src c code)
  match src, c with
  | 0, 1 => s.readDiode .a 1 code
  | 1, 7 => s.readDiode .b 1 code
  | 2, 0 => s.readDiode .a 0 code
  | 3, 6 => s.readDiode .b 0 code
  | 4, 12 => s.wr .PWR_VIN_STAT_VIN [] (code * 2)
  | _, _ => s

/-- R142: the channel that a regular slot converts: the lowest enabled slot that names it. -/
def State.slotChannel (s : State) (j : Nat) : Option Nat :=
  let c := s.rd .SUP_SEQ_SLOT_CH [j]
  let doubled := (List.range j).any (fun i => s.flag .SUP_SEQ_SLOT_EN [i] && s.rd .SUP_SEQ_SLOT_CH [i] == c)
  if s.flag .SUP_SEQ_SLOT_EN [j] && decide (c < 24) && !doubled then some c else none

/-- R150: a code enters the statistics of a channel that no context takes. -/
def State.gather (s : State) (c code : Nat) (injected : Bool) : State :=
  s.when (s.ctxsOf c).isEmpty (·.accumulate c code false injected)

/-- R146: a regular sample waits for the contexts of its channel. -/
def State.queueSample (s : State) (c code : Nat) : State :=
  (s.ctxsOf c).foldl (fun s k => s.onSup (fun p => { p with input := tabSet [] p.input k (tabGet [] p.input k ++ [(code : Int)]) })) s

/-- R142, R143, R146, R150: a regular conversion of a channel. -/
def State.convert (s : State) (c code : Nat) : State := ((s.consume c code).queueSample c code).gather c code false

/-- R144: an injected conversion of a channel. -/
def State.convertInjected (s : State) (src c code : Nat) : State := (s.consumeInjected src c code).gather c code true

/-- R149: the first regular sample after a self-calibration is a step. -/
def State.stepChannel (s : State) (c : Nat) : State :=
  if s.sup.stepped.contains c then
    ((s.ctxsOf c).foldl State.unsettle s).onSup (fun p => { p with stepped := p.stepped.erase c })
  else s

/-- R142: the regular slots; 0 and values above 16 are taken as 16. -/
def State.seqLen (s : State) : Nat :=
  let n := s.rd .SUP_SEQ_CTL_LEN
  if n = 0 || 16 < n then 16 else n

/-- R142: the regular slot that is due. -/
def State.regularSlot (s : State) (code : Nat) : State :=
  let j := s.sup.slot
  let s := s.onSup (fun p => { p with slot := if s.seqLen ≤ j + 1 then 0 else j + 1 })
  match s.slotChannel j with
  | some c => (s.stepChannel c).convert c code
  | none => s

/-- R145: the order in which pending triggers run. -/
def injOrder : List Nat := [4, 0, 1, 2, 3, 5]

/-- R144: the channels of the slots that include a trigger. -/
def State.injSlots (s : State) (src : Nat) : List Nat :=
  ((List.range 4).filter (fun j => (s.rd .SUP_INJ_SLOT_TRIG [j]).testBit src)).map (fun j => s.rd .SUP_INJ_SLOT_CH [j])

/-- R144, R145: the next pending trigger starts; one that selects no slot is counted as a run and passed over. -/
def State.startInj (s : State) : Nat → State
  | 0 => s
  | fuel + 1 =>
    match injOrder.find? (fun k => s.sup.pending.contains k) with
    | none => s
    | some k =>
      let slots := s.injSlots k
      let s := s.onSup (fun p => { p with pending := p.pending.erase k })
      if slots.isEmpty then (s.countWrap .SUP_INJ_STAT_RUNS []).startInj fuel
      else s.onSup (fun p => { p with running := some (k, slots) })

/-- R144: BUSY. -/
def State.showInj (s : State) : State :=
  s.wrb .SUP_INJ_STAT_BUSY [] (s.sup.running.isSome || !s.sup.pending.isEmpty)

/-- R154: the regular sequence starts a new cycle when no injected sequence runs any more after a commit changed LEN. -/
def State.newCycle (s : State) : State :=
  if s.sup.anew && s.sup.running.isNone then s.onSup (fun p => { p with slot := 0, anew := false }) else s

/-- R144: a slot of the injected sequence that runs. -/
def State.injectedSlot (s : State) (code : Nat) : State :=
  match s.sup.running with
  | some (k, c :: rest) =>
    let s := s.when (decide (c < 24)) (·.convertInjected k c code)
    if rest.isEmpty then
      (((s.onSup (fun p => { p with running := none })).countWrap .SUP_INJ_STAT_RUNS []).startInj 6).newCycle
    else s.onSup (fun p => { p with running := some (k, rest) })
  | _ => s

/-- R151, R152: a self-calibration starts: every CH_STAT block is stale. A START that runs at once during a ramp also drops an
automatic calibration that was deferred (DEDUCED: R151 counts the 10 s from the end of the previous calibration; assumption
47). -/
def State.supCal (s : State) : State :=
  let s := ((s.wrb .SUP_CAL_CTL_BUSY [] true).wrb .SUP_CAL_CTL_DEFERRED [] false).onSup (fun p => { p with calDue := false })
  s.upTo 24 (fun s c => s.wrb .SUP_CH_FLAGS_STALE [c] true)

/-- R151, R153: the conversion in progress has ended: a calibration that is due starts. -/
def State.startDueCal (s : State) : State := if s.sup.calDue then s.supCal else s

/-- R142, R144, R151: one conversion ends. -/
def State.conversion (s : State) (code : Nat) : State :=
  if s.sup.running.isSome then s.injectedSlot code
  else if s.flag .SUP_CAL_CTL_BUSY then (s.startInj 6).injectedSlot code
  else (s.regularSlot code).startInj 6

/-- R142: SUP_CONVERSION. -/
def execSupConversion (code : Nat) (s : State) : Result :=
  let s := s.begin
  .next (if s.supRuns then (((s.conversion (code % 4096)).startDueCal).resetDueCtxs).showInj else s)

/-- R144, R145: a trigger arrives. -/
def State.trigger (s : State) (src : Nat) : State :=
  if !s.supRuns then s
  else
    let busy := s.sup.pending.contains src || (match s.sup.running with
      | some (k, _) => k == src
      | none => false)
    if busy then s.countWrap .SUP_INJ_STAT_MERGED []
    else (s.onSup (fun p => { p with pending := p.pending ++ [src] })).showInj

/-- R144: INJ_TRIGGER, by the bit number of INJ_SLOT.TRIG. -/
def execInjTrigger (src : Fin 5) (s : State) : Result := .next (s.begin.trigger src)

/-- R144: INJ_GO. -/
def execInjGo (req : Req) (s : State) : Result := .next (s.begin.via req (·.trigger 5))

/-! ### The CIC and the FIR (R147) -/

/-- R147: the integrators, each adding what the one before it holds; the result leaves the last. -/
def integrate : List Int → Int → List Int × Int
  | [], x => ([], x)
  | a :: as, x =>
    let r := integrate as (a + x)
    ((a + x) :: r.1, r.2)

/-- R147: the combs, each the difference from the value before; the result leaves the last. -/
def combAll : List Int → Int → List Int × Int
  | [], x => ([], x)
  | d :: ds, x =>
    let r := combAll ds (x - d)
    (x :: r.1, r.2)

/-- `n` values of a list, absent ones 0. -/
def filled (n : Nat) (l : List Int) : List Int := (l ++ List.replicate n 0).take n

/-- R147: the FIR's coefficients at a decimation, in 2⁻²⁰: those of the ROM, and the one that makes the DC gain 1. -/
def firCoeffs (d : Nat) : List Int :=
  let cs := (List.range 31).map (Config.firRom d)
  cs ++ [2 ^ 20 - cs.sum]

/-- R147: a CIC output enters the FIR, whose output, in 2⁻²⁰, leaves at every D-th. -/
def DecFilter.fir (f : DecFilter) (d : Nat) (x : Int) : DecFilter × Option Int :=
  let line := (x :: f.line).take 32
  if d ≤ f.phase + 1 then
    ({ f with line := line, phase := 0 }, some ((List.zipWith (· * ·) line (firCoeffs d)).sum))
  else ({ f with line := line, phase := f.phase + 1 }, none)

/-- R147: a sample enters a context of order `n`, factor `r` and FIR decimation `d`. -/
def DecFilter.push (f : DecFilter) (n r d : Nat) (x : Int) : DecFilter × Option Int :=
  let i := integrate (filled n f.integ) x
  let f := { f with integ := i.1 }
  if r ≤ f.count + 1 then
    let c := combAll (filled n f.comb) i.2
    DecFilter.fir { f with comb := c.1, count := 0 } d c.2
  else ({ f with count := f.count + 1 }, none)

/-! ### The engine round (R146 to R149) -/

/-- R147: round(y × 2^−SHIFT), halves upwards. -/
def scaleOut (y : Int) (shift : Nat) : Int := (2 * y + 2 ^ shift) / 2 ^ (shift + 1)

/-- R147: a context's output: saturated to 16 bits, and whether it saturated. -/
def satOut (v : Int) : Int × Bool :=
  if v < -32768 then (-32768, true) else if 32767 < v then (32767, true) else (v, false)

/-- R147: a saturated output. -/
def State.markSat (s : State) (k : Nat) (sat : Bool) : State :=
  if sat then (s.wrb .SUP_DEC_STAT_SAT [k] true).evt .SUP_EVT_SAT else s

/-- R149, R150: an output excluded from a channel's statistics. -/
def State.exclude (s : State) (c : Nat) : State :=
  if !s.statsRun then s
  else
    let a := tabGet Accum.zero s.sup.live c
    s.onSup (fun p => { p with live := tabSet Accum.zero p.live c { a with unsettled := a.unsettled + 1 } })

/-- R148 to R150: where an output goes: to the intercom receiver of a wing, or into its channel's statistics. -/
def State.deliverOut (s : State) (k : Nat) (v : Int) (sat unsettled : Bool) : State :=
  let c := s.ctxSource k
  if s.wingCtx k then (s.icmOutput (s.ctxWing k) v unsettled).say (.power (s.ctxWing k) v sat unsettled)
  else if 24 ≤ c then s
  else if unsettled then s.exclude c
  else s.accumulate c v sat false

/-- R147, R149, R150: one output of a context; `y` is the FIR's, in 2⁻²⁰. -/
def State.ctxOutput (s : State) (k : Nat) (y : Int) : State :=
  let r := satOut (scaleOut y (s.ctxShift k + 20))
  let left := tabGet 0 s.sup.unsettled k
  let s := (s.markSat k r.2).onSup (fun p => { p with unsettled := tabSet 0 p.unsettled k (left - 1) })
  (s.wrb .SUP_DEC_STAT_UNSETTLED [k] (left != 0)).deliverOut k r.1 r.2 (left != 0)

/-- R147: a context consumes a sample. -/
def State.ctxFeed (s : State) (k : Nat) (x : Int) : State :=
  let r := (tabGet DecFilter.zero s.sup.filters k).push (s.ctxN k) (s.ctxR k) (s.ctxD k) x
  let s := s.onSup (fun p => { p with filters := tabSet DecFilter.zero p.filters k r.1 })
  match r.2 with
  | some y => s.ctxOutput k y
  | none => s

/-- R148: the power stream of a wing in Run. -/
def State.stream (s : State) (w : Wing) (m : RoundInput) : List Int :=
  if s.wingState w != 0 || s.islandFailed (wingIsland 9 w) then []
  else match w with
    | .a => m.powA
    | .b => m.powB

/-- R146: the samples that arrived since the context's previous slot. -/
def State.arrived (s : State) (k : Nat) (m : RoundInput) : List Int :=
  if s.wingCtx k then s.stream (Wing.num (s.ctxSource k - 0x3C)) m else tabGet [] s.sup.input k

/-- R146: a context's engine slot. -/
def State.engineSlot (s : State) (m : RoundInput) (k : Nat) : State :=
  if s.ctxSource k = 0x3F then s
  else (s.arrived k m).foldl (fun s x => s.ctxFeed k x) (s.onSup (fun p => { p with input := tabErase p.input k }))

/-- R146: DEC_ROUND: the contexts are served in their order. -/
def execDecRound (m : RoundInput) (s : State) : Result :=
  let s := s.begin
  .next (if s.supRuns && !s.halted 6 then
      ((s.when m.tiaA (·.wingStep .a)).when m.tiaB (·.wingStep .b)).upTo 24 (fun s k => s.engineSlot m k)
    else s)

/-! ### Self-calibration (R151, R152) -/

/-- R151, R153: a self-calibration is to start at the end of the conversion in progress; while one runs, it is none. -/
def State.askCal (s : State) : State :=
  if s.flag .SUP_CAL_CTL_BUSY || !s.supRuns then s else s.onSup (fun p => { p with calDue := true })

/-- R40, R151, R153: CAL_CTL.START acts at the end of the conversion in progress, and in a stopped block at once. -/
def State.startCal (s : State) : State :=
  if s.halted 6 && s.supRuns && !s.flag .SUP_CAL_CTL_BUSY then s.supCal else s.askCal

/-- R151: SUP_CAL_START. -/
def execSupCalStart (req : Req) (s : State) : Result := .next (s.begin.via req (·.startCal))

/-- R90: a wing ramps. -/
def State.ramping (s : State) : Bool :=
  [0, 1].any (fun w => s.rd .OPT_TX_STAT_STATE [w] == 2 || s.rd .OPT_TX_STAT_STATE [w] == 4)

/-- R151: SUP_CAL_AUTO. -/
def execSupCalAuto (s : State) : Result :=
  let s := s.begin
  .next (if !s.flag .SUP_CAL_CTL_AUTO_EN || s.flag .SUP_CAL_CTL_BUSY || !s.supRuns || !s.coreRuns then s
    else if s.ramping then s.wrb .SUP_CAL_CTL_DEFERRED [] true
    else s.askCal)

/-- R151: a deferred calibration starts once no ramp runs. -/
def State.runDeferred (s : State) : State :=
  if s.flag .SUP_CAL_CTL_DEFERRED && !s.ramping then s.askCal else s

/-- R151: the self-calibration goes on: no injected sequence runs or is about to run. -/
def State.calGoesOn (s : State) : Bool := s.flag .SUP_CAL_CTL_BUSY && s.sup.running.isNone && s.sup.pending.isEmpty

/-- R151, R152: SUP_CAL_DONE. -/
def execSupCalDone (s : State) : Result :=
  let s := s.begin
  .next (if s.calGoesOn then
      (((s.wrb .SUP_CAL_CTL_BUSY [] false).countWrap .SUP_CAL_CTL_COUNT []).evt .SUP_EVT_CAL_DONE).onSup
        (fun p => { p with stepped := List.range 24 })
    else s)

/-- R150, R152: the tick latches the live statistics, unless a self-calibration runs. -/
def State.latchSup (s : State) : State :=
  if s.flag .SUP_CAL_CTL_BUSY || !s.supRuns then s
  else
    let s := s.upTo 24 (fun s c =>
      let a := tabGet Accum.zero s.sup.live c
      let s := (s.wrWide .SUP_CH_SUM_LO_SUM .SUP_CH_SUM_HI_SUM [c] (ofSigned 64 a.sum)).wrWide .SUP_CH_SQ_LO_SQ
        .SUP_CH_SQ_HI_SQ [c] (a.sq % 2 ^ 64)
      let s := ((s.wr .SUP_CH_CNT_CNT [c] a.cnt).wrS .SUP_CH_MINMAX_MAX [c] a.max).wrS .SUP_CH_MINMAX_MIN [c] a.min
      let s := ((s.wrb .SUP_CH_FLAGS_STALE [c] false).wrb .SUP_CH_FLAGS_SAT [c] a.sat).wrb .SUP_CH_FLAGS_DECIMATED [c]
        (!(s.ctxsOf c).isEmpty)
      (s.wr .SUP_CH_FLAGS_UNSETTLED [c] (min 65535 a.unsettled)).wr .SUP_CH_INJ_COUNT [c] (min 65535 a.inj))
    s.onSup (fun p => { p with live := [] })

/-! ### Commits (R143, R149) -/

/-- R142: the enabled slots of the regular sequence. -/
def State.seqSlots (s : State) : List (Bool × Nat) :=
  (List.range s.seqLen).map (fun j => (s.flag .SUP_SEQ_SLOT_EN [j], s.rd .SUP_SEQ_SLOT_CH [j]))

/-- R153: the regular sequence stands at the start of a cycle. -/
def State.cycleStart (s : State) : Bool :=
  s.sup.slot == 0 && s.sup.running.isNone && s.sup.pending.isEmpty && !s.flag .SUP_CAL_CTL_BUSY

/-- R143: the enabled slots of a sequence cover VIN, and TX_PD and RX_PD of each enabled wing. -/
def seqCovers (s : State) (slots : List (Bool × Nat)) : Bool :=
  let has (c : Nat) : Bool := slots.any (fun e => e.1 && e.2 == c)
  has 12 && (!s.wingEnabled .a || (has 0 && has 1)) && (!s.wingEnabled .b || (has 6 && has 7))

end Sys2Proof.Machine
end

