-- ==== Sys2Proof/Machine/Converters.lean ====
section
/-!
DEFINITION. The line converters: sample clocks, foreground calibration, the rotation of the spare slice, parking, DAC
calibration and the converter statistics (R122 to R140).
-/

namespace Sys2Proof.Machine

/-- Change a wing's converters. -/
def State.onConv (s : State) (w : Wing) (f : Conv → Conv) : State := { s with conv := s.conv.set w (f (s.conv.get w)) }

/-- A converter dimension. -/
def State.dim (s : State) (w : Wing) (d : Nat) : ConvDim := tabGet ConvDim.reset (s.conv.get w).dims d

/-- Change a converter dimension. -/
def State.onDim (s : State) (w : Wing) (d : Nat) (f : ConvDim → ConvDim) : State :=
  s.onConv w (fun c => { c with dims := tabSet ConvDim.reset c.dims d (f (tabGet ConvDim.reset c.dims d)) })

/-- R122: a sample rate in MS/s, from the symbol rate in 0.25 GBd units, rounded down where it is no whole number (DESIGN
CHOICE: the spec gives no rounding; assumption 79). -/
def sampleRate (baud : Nat) : Nat := baud * 1125 / 4

/-- R129, R137: foreground calibration starts: no figures are valid and every block is stale. -/
def State.foreground (s : State) (w : Wing) : State :=
  let s := (s.onConv w (fun c => { c with foreground := true }))
  s.upTo 4 (fun s d =>
    let s := (s.onDim w d (fun x => { x with phase := .stopped, trims := none })).wrb .CNV_QUAL_VALID [w.n, d] false
    let s := ((s.wrb .CNV_CAL_STAT_ROTATING [w.n, d] false).wrb .CNV_CAL_STAT_CALIBRATING [w.n, d] false).wrb
      .CNV_DIM_FLAGS_STALE [w.n, d] true
    s.upTo 65 (fun s i => s.wrb .CNV_SLICE_FLAGS_STALE [w.n, d, i] true))

/-- R122, R129: SYNTH_LOCK. -/
def execSynthLock (w : Wing) (adc : Bool) (s : State) : Result :=
  let s := s.begin
  let i := [w.n]
  .next (if adc then
      (if s.flag .CNV_ADC_CLK_LOCKED i then s
      else ((s.wrb .CNV_ADC_CLK_LOCKED i true).wr .CNV_ADC_CLK_FS i (sampleRate (s.rd .RXW_RATE_BAUD i))).foreground w)
    else (s.wrb .CNV_DAC_CLK_LOCKED i true).wr .CNV_DAC_CLK_FS i (sampleRate (s.rd .TXW_RATE_BAUD i)))

/-! ### Trims and quality (R124, R131, R132) -/

/-- R124: the analogue offset trim that a result comes to, in steps of 1/16 LSB, at the nearer limit of its range. -/
def offsetTrim (t : Trims) : Int := clampInt (-128) 127 (t.offset / 16)

/-- R124: the analogue gain trim, in steps of 0.02 %. -/
def gainTrim (t : Trims) : Int := clampInt (-128) 127 (t.gain / 20)

/-- R124: the skew tap. -/
def tapTrim (t : Trims) : Nat := (clampInt 0 1023 t.tap).toNat

/-- R123, R124: the remainder that the digital residual correction carries, and what a calibration leaves. -/
def restOf (t : Trims) (skew : Int) : SliceRest where
  offset := t.offset - 16 * offsetTrim t
  gain := t.gain - 20 * gainTrim t
  skew := skew
  leftOffset := t.leftOffset
  leftGain := t.leftGain

/-- R124, R131: a slice's trims come into force. -/
def State.setTrim (s : State) (w : Wing) (d slice : Nat) (t : Trims) : State :=
  let i := [w.n, d, slice]
  let s := ((s.wrS .CNV_TRIM_OFFSET i (offsetTrim t)).wrS .CNV_TRIM_GAIN i (gainTrim t)).wr .CNV_TRIM_SKEW_TAP i (tapTrim t)
  s.onDim w d (fun c => { c with rest := tabSet SliceRest.zero c.rest slice (restOf t t.residual) })

/-- R132: the rms of residual skews in fs, rounded down, saturating. -/
def rmsSkew (rs : List SliceRest) : Nat := rootOf ((rs.map (fun r => r.skew.natAbs ^ 2)).sum / rs.length) 12 0

/-- R132: RES_SPUR of the residuals. -/
def spurOf (rs : List SliceRest) : Int := Config.spur (rs.map (fun r => (r.leftOffset, r.leftGain, r.skew)))

/-- R132: what the slices in service are left with. -/
def State.inService (s : State) (w : Wing) (d : Nat) : List SliceRest :=
  ((List.range 65).filter (· != s.rd .CNV_CAL_STAT_SPARE [w.n, d])).map (tabGet SliceRest.zero (s.dim w d).rest)

/-- R132: the quality figures of a dimension. -/
def State.setQual (s : State) (w : Wing) (d : Nat) : State :=
  let rs := s.inService w d
  ((s.wr .CNV_QUAL_RES_SKEW [w.n, d] (rmsSkew rs)).wrS .CNV_QUAL_RES_SPUR [w.n, d] (spurOf rs)).wrb .CNV_QUAL_VALID
    [w.n, d] true

/-! ### The rotation (R125 to R130) -/

/-- The spare of a dimension. -/
def State.spare (s : State) (w : Wing) (d : Nat) : Nat := s.rd .CNV_CAL_STAT_SPARE [w.n, d]

/-- R130: the slice that the host wants parked. -/
def State.parkTarget (s : State) (w : Wing) (d : Nat) : Option Nat :=
  if s.use .CNV_PARK_EN [w.n, d] = 1 then some (min 64 (s.use .CNV_PARK_SLICE [w.n, d])) else none

/-- R138: what was written to PARK takes force. -/
def State.takePark (s : State) (w : Wing) (d : Nat) : State :=
  (s.releaseOne .CNV_PARK_EN [w.n, d]).releaseOne .CNV_PARK_SLICE [w.n, d]

/-- R130: the rotation of a dimension stops at the parked slice. -/
def State.park (s : State) (w : Wing) (d : Nat) : State :=
  let i := [w.n, d]
  ((((s.onDim w d (fun x => { x with phase := .parked })).wrb .CNV_CAL_STAT_PARKED i true).wrb .CNV_CAL_STAT_ROTATING i
    false).wrb .CNV_CAL_STAT_CALIBRATING i false).evt .CNV_EVT_PARK_DONE [w.n]

/-- R125: step 1 begins on the spare; a result obtained before stays to be applied (R131). -/
def State.calibrate (s : State) (w : Wing) (d : Nat) : State :=
  ((s.onDim w d (fun x => { x with phase := .calibrating })).wrb .CNV_CAL_STAT_ROTATING [w.n, d] true).wrb
    .CNV_CAL_STAT_CALIBRATING [w.n, d] true

/-- R122, R125, R129: a dimension may rotate: BG_EN is set, the wing is in Run, its ADC clock is locked and foreground
calibration has completed. -/
def State.mayRotate (s : State) (w : Wing) (d : Nat) : Bool :=
  s.flag .CNV_CAL_CTL_BG_EN [w.n] && s.wingState w == 0 && s.flag .CNV_ADC_CLK_LOCKED [w.n] &&
    !(s.conv.get w).foreground && s.flag .CNV_QUAL_VALID [w.n, d]

/-- R125, R130, R139: the rotation of a dimension runs from its spare, in a direction, or rests while it may not; a spare
that is the park target parks.  A run from an end counts as `whole` while it keeps its direction (R126).  Towards a park target the walk goes its way even where R129 gives the rising direction
(DEDUCED: R130 gives the walk its aim; assumption 67). -/
def State.rotate (s : State) (w : Wing) (d : Nat) (rising whole : Bool) : State :=
  let i := [w.n, d]
  if s.parkTarget w d = some (s.spare w d) then s.park w d
  else
    let up := match s.parkTarget w d with
      | some k => decide (s.spare w d < k)
      | none => rising
    let end_ := s.spare w d == 0 || s.spare w d == 64
    let s := (s.wrb .CNV_CAL_STAT_RISING i up).wrb .CNV_CAL_STAT_PARKED i false
    let s := s.onDim w d (fun x => { x with whole := whole && (end_ || up == rising) })
    if s.mayRotate w d then s.calibrate w d
    else ((s.onDim w d (fun x => { x with phase := .stopped })).wrb .CNV_CAL_STAT_ROTATING i false).wrb
      .CNV_CAL_STAT_CALIBRATING i false

/-- R129: FG_CAL_COMPLETE. -/
def execFgCalComplete (w : Wing) (trims : List SliceTrim) (s : State) : Result :=
  let s := s.begin
  if !(s.conv.get w).foreground || !s.flag .CNV_ADC_CLK_LOCKED [w.n] then .next s
  else
    let s := trims.foldl (fun s t => if t.dim < 4 && t.slice < 65 then s.setTrim w t.dim t.slice t.found else s) s
    let s := s.onConv w (fun c => { c with foreground := false })
    .next (s.upTo 4 (fun s d => (((s.wr .CNV_CAL_STAT_SPARE [w.n, d] 64).setQual w d).takePark w d).rotate w d false true))

/-- R129, R139: RESTART on a running wing: every dimension that is not parked starts over, rising; a spare at 64 cannot
rise, and its walk falls (DEDUCED: R126; assumption 67). -/
def State.restartDim (s : State) (w : Wing) (d : Nat) : State :=
  if (s.dim w d).phase = .parked then s
  else
    let k := s.spare w d
    (s.wr .CNV_CAL_STAT_SWEEPS [w.n, d] 0).rotate w d (k != 64) (k == 0 || k == 64)

/-- R138: a dimension of the wing rotates, with BG_EN set: hand-overs are the boundary. -/
def State.handsOver (s : State) (w : Wing) : Bool :=
  s.flag .CNV_CAL_CTL_BG_EN [w.n] && (List.range 4).any (fun d => s.flag .CNV_CAL_STAT_ROTATING [w.n, d])

/-- R129: RESTART.  In Idle or Sleep the wing counts as stopped for it (DESIGN CHOICE: R122 sets "stopped" apart from Idle and
Sleep, and R129 does not say; assumption 79). -/
def State.restartCal (s : State) (w : Wing) : State :=
  if s.wingStopped w then s.when (s.flag .CNV_ADC_CLK_LOCKED [w.n]) (·.foreground w)
  else if (s.conv.get w).foreground then s
  else s.upTo 4 (fun s d => s.restartDim w d)

/-- R129, R138: RESTART is written: it acts at the next hand-over of any dimension while hand-overs come, and a stopped wing
takes it at once (R40). -/
def State.restartWrite (s : State) (w : Wing) : State :=
  if s.handsOver w && !s.wingStopped w then s.onConv w (fun c => { c with restartDue := true }) else s.restartCal w

/-- R129: CAL_RESTART. -/
def execCalRestart (req : Req) (w : Wing) (s : State) : Result := .next (s.begin.via req (·.restartWrite w))

/-- R128, R131: what a slice's latest skew calibration found: a result that still waits for its hand-over, or the trim in
force. -/
def State.skewFound (s : State) (w : Wing) (d : Nat) : Int × Int :=
  match (s.dim w d).trims with
  | some t => (t.tap, t.residual)
  | none => (s.rd .CNV_TRIM_SKEW_TAP [w.n, d, s.spare w d], (tabGet SliceRest.zero (s.dim w d).rest (s.spare w d)).skew)

/-- R125, R128: what steps 1 and 2 found; without light the skew tap and its residual stay as they were. -/
def State.calFound (s : State) (w : Wing) (d : Nat) (found : Trims) : Trims :=
  if s.flag .OPT_RX_STAT_LOS [w.n] then { found with tap := (s.skewFound w d).1, residual := (s.skewFound w d).2 } else found

/-- R19, R125, R139: the converters of a wing work: the wing is in Run, stopped or not, and their island is not failed. -/
def State.convWorks (s : State) (w : Wing) : Bool :=
  s.isRunning && s.wingEnabled w && s.wingState w == 0 && !s.islandFailed (wingIsland 13 w)

/-- R125, R128, R130: SPARE_CAL_COMPLETE. -/
def execSpareCalComplete (w : Wing) (d : Fin 4) (found : Trims) (s : State) : Result :=
  let s := s.begin
  let i := [w.n, (d : Nat)]
  if (s.dim w d).phase ≠ .calibrating || !s.convWorks w then .next s
  else
    let los := s.flag .OPT_RX_STAT_LOS [w.n]
    let t := s.calFound w d found
    let s := (s.when los (·.countWrap .CNV_CAL_STAT_SKEW_SKIPPED i)).wrb .CNV_CAL_STAT_CALIBRATING i false
    let s := s.onDim w d (fun x => { x with phase := .overlap, trims := some t })
    .next (if s.parkTarget w d = some (s.spare w d) then s.park w d else s)

/-- R126: a run ends when the spare arrives at an end; a run from end to end is a sweep. -/
def State.endRun (s : State) (w : Wing) (d : Nat) : State :=
  let k := s.spare w d
  if k = 0 || k = 64 then
    let done := (s.dim w d).whole
    let s := s.when done (fun s => (s.countWrap .CNV_CAL_STAT_SWEEPS [w.n, d]).evt .CNV_EVT_SWEEP_DONE [w.n])
    (s.wrb .CNV_CAL_STAT_RISING [w.n, d] (k == 0)).onDim w d (fun x => { x with whole := true })
  else s

/-- R130, R139: a walk towards a park target turns at a hand-over. -/
def State.steer (s : State) (w : Wing) (d : Nat) : State :=
  match s.parkTarget w d with
  | none => s
  | some k =>
    if k = s.spare w d then s.park w d
    else
      let up := decide (s.spare w d < k)
      if s.flag .CNV_CAL_STAT_RISING [w.n, d] = up then s
      else (s.wrb .CNV_CAL_STAT_RISING [w.n, d] up).onDim w d (fun x => { x with whole := false })

/-- R139: the rotation of a dimension stops; a calibration in progress is abandoned, a result already obtained stays (R131). -/
def State.stopDim (s : State) (w : Wing) (d : Nat) : State :=
  ((s.onDim w d (fun x => { x with phase := .stopped })).wrb .CNV_CAL_STAT_ROTATING [w.n, d] false).wrb
    .CNV_CAL_STAT_CALIBRATING [w.n, d] false

/-- R125, R126, R131: the spare hands over to its neighbour. -/
def State.handover (s : State) (w : Wing) (d : Nat) : State :=
  let k := s.spare w d
  let s := match (s.dim w d).trims with
    | some t => s.setTrim w d k t
    | none => s
  let next := if s.flag .CNV_CAL_STAT_RISING [w.n, d] then min 64 (k + 1) else k - 1
  let s := (s.wr .CNV_CAL_STAT_SPARE [w.n, d] next).onDim w d (fun x => { x with phase := .dwell, trims := none })
  (((s.endRun w d).takePark w d).steer w d).setQual w d

/-- R133: DAC calibration runs. -/
def State.startDac (s : State) (w : Wing) : State := s.wrb .CNV_DAC_CAL_BUSY [w.n] true

/-- R133: START while the carrier is dark, otherwise refused. -/
def State.dacCal (s : State) (w : Wing) : State :=
  if s.rd .OPT_TX_STAT_STATE [w.n] = 0 || s.rd .OPT_TX_STAT_STATE [w.n] == 1 then s.startDac w
  else s.wrb .CNV_DAC_CAL_REFUSED [w.n] true

/-- R138: what waited for a hand-over of any dimension takes force. -/
def State.afterHandover (s : State) (w : Wing) : State :=
  let c := s.conv.get w
  let s := s.onConv w (fun c => { c with restartDue := false, dacDue := false })
  (s.when c.dacDue (·.dacCal w)).when c.restartDue (·.restartCal w)

/-- R125, R138: SLICE_HANDOVER; with BG_EN = 0 the rotation then stops. -/
def execSliceHandover (w : Wing) (d : Fin 4) (s : State) : Result :=
  let s := s.begin
  .next (if (s.dim w d).phase = .overlap then
      let s := s.handover w d
      (s.when (!s.flag .CNV_CAL_CTL_BG_EN [w.n] && (s.dim w d).phase != .parked) (·.stopDim w d)).afterHandover w
    else s)

/-- R125: DWELL_EXPIRY. -/
def execDwellExpiry (w : Wing) (d : Fin 4) (s : State) : Result :=
  let s := s.begin
  .next (if (s.dim w d).phase = .dwell && s.mayRotate w d && s.convWorks w && s.coreRuns then s.calibrate w d else s)

/-- R130: PARK acts: on the spare at once, a calibration in progress being completed first. -/
def State.parkWrite (s : State) (w : Wing) (d : Nat) : State :=
  let x := s.dim w d
  match s.parkTarget w d with
  | some k =>
    if k = s.spare w d && x.phase != .calibrating && x.phase != .parked && !(s.conv.get w).foreground then s.park w d
    else if x.phase = .parked && k != s.spare w d then s.rotate w d (decide (s.spare w d < k)) (s.spare w d == 0 || s.spare w d == 64)
    else s
  | none =>
    if x.phase = .parked then
      let k := s.spare w d
      s.rotate w d (k != 64) (k == 0 || k == 64)
    else s

/-- R130, R138: PARK is written: it acts at the dimension's next hand-over while the dimension rotates, unless it names the
spare; otherwise at once. -/
def State.parkRow (s : State) (w : Wing) (d : Nat) : State :=
  let i := [w.n, d]
  let onSpare := s.flag .CNV_PARK_EN i && min 64 (s.rd .CNV_PARK_SLICE i) == s.spare w d
  if s.flag .CNV_CAL_STAT_ROTATING i && s.flag .CNV_CAL_CTL_BG_EN [w.n] && !s.wingStopped w && !onSpare then s
  else (s.takePark w d).parkWrite w d

/-- R130, R139: the rotation of a dimension stops: a cycle in progress is abandoned, and a spare that is to be parked is. -/
def State.haltDim (s : State) (w : Wing) (d : Nat) : State :=
  if (s.dim w d).phase = .parked then s
  else
    let s := s.stopDim w d
    s.when (s.parkTarget w d == some (s.spare w d) && s.flag .CNV_ADC_CLK_LOCKED [w.n] && !(s.conv.get w).foreground)
      (·.park w d)

/-- R139: the rotation of a dimension resumes from its spare and goes on with its run. -/
def State.resumeDim (s : State) (w : Wing) (d : Nat) : State :=
  let k := s.spare w d
  if (s.dim w d).phase = .stopped && s.flag .CNV_QUAL_VALID [w.n, d] then
    s.rotate w d (k != 64 && (k == 0 || s.flag .CNV_CAL_STAT_RISING [w.n, d])) (k == 0 || k == 64 || (s.dim w d).whole)
  else s

/-- R138, R139: BG_EN has changed. Cleared, it makes the next slice-clock cycle the boundary: what waited for a hand-over takes
force. Cleared in step 1 or 2 it abandons the calibration; a result already obtained is applied at the
hand-over that follows (R131). R139 lets it act within the steps, although R138 puts the boundary of S fields at the next
hand-over: the model acts where PENDING_SET_APPLY arrives (DEDUCED: assumption 67). -/
def State.bgChange (s : State) (w : Wing) : State :=
  s.upTo 4 (fun s d =>
    if s.flag .CNV_CAL_CTL_BG_EN [w.n] then s.resumeDim w d
    else
      let s := s.takePark w d
      if (s.dim w d).phase = .overlap then s else s.haltDim w d)
  |>.when (!s.flag .CNV_CAL_CTL_BG_EN [w.n]) (·.afterHandover w)

/-- R139: the wing leaves Run. -/
def State.haltConv (s : State) (w : Wing) : State := s.upTo 4 (fun s d => s.haltDim w d)

/-- R139: the wing returns to Run. -/
def State.resumeConv (s : State) (w : Wing) : State := s.when (s.flag .CNV_CAL_CTL_BG_EN [w.n]) (·.bgChange w)

/-- R122, R139: a new receive symbol rate unlocks the ADC synthesiser. -/
def State.unlockAdc (s : State) (w : Wing) : State :=
  (s.wrb .CNV_ADC_CLK_LOCKED [w.n] false).upTo 4 (fun s d => (s.haltDim w d).wrb .CNV_QUAL_VALID [w.n, d] false)

/-- R122: a new transmit symbol rate unlocks the DAC synthesiser. -/
def State.unlockDac (s : State) (w : Wing) : State := s.wrb .CNV_DAC_CLK_LOCKED [w.n] false

/-! ### DAC calibration (R133, R134) -/

/-- R133, R138: a START is written: while hand-overs come it acts at the next one. -/
def State.dacWrite (s : State) (w : Wing) : State :=
  if s.handsOver w && !s.wingStopped w then s.onConv w (fun c => { c with dacDue := true }) else s.dacCal w

/-- R133: DAC_CAL_START. -/
def execDacCalStart (req : Req) (w : Wing) (s : State) : Result := .next (s.begin.via req (·.dacWrite w))

/-- R133: the trims of the sub-DACs. -/
def State.setDac (s : State) (w : Wing) (trims : List SliceTrim) : State :=
  s.onConv w (fun c => { c with dac := trims.foldl (fun t x =>
    if x.dim < 4 && x.slice < 4 then tabInsert (4 * x.dim + x.slice) x.found (tabErase t (4 * x.dim + x.slice)) else t) c.dac })

/-- R134: what the four sub-DACs of a dimension are left with. -/
def State.dacRest (s : State) (w : Wing) (d : Nat) : List SliceRest :=
  (List.range 4).map (fun k => match tabFind (s.conv.get w).dac (4 * d + k) with
    | some t => restOf t t.residual
    | none => SliceRest.zero)

/-- R134: the results of a DAC calibration. -/
def State.dacDone (s : State) (w : Wing) (trims : List SliceTrim) : State :=
  let s := (s.setDac w trims).upTo 4 (fun s d =>
    let rs := s.dacRest w d
    ((s.wr .CNV_DAC_QUAL_RES_SKEW [w.n, d] (rmsSkew rs)).wrS .CNV_DAC_QUAL_RES_SPUR [w.n, d] (spurOf rs)).wrb
      .CNV_DAC_QUAL_VALID [w.n, d] true)
  (((s.wrb .CNV_DAC_CAL_BUSY [w.n] false).wrb .CNV_DAC_CAL_DONE [w.n] true).evt .CNV_EVT_DAC_CAL_DONE [w.n])

/-! ### Statistics (R136, R137) -/

/-- R136: codes join a live statistic. -/
def CodeSum.add (a : CodeSum) (c : CodeStats) : CodeSum where
  sum := a.sum + c.sum
  sq := a.sq + c.sq
  cnt := a.cnt + c.cnt
  max := if a.cnt = 0 then c.max else if c.cnt = 0 then a.max else (if a.max < c.max then c.max else a.max)
  min := if a.cnt = 0 then c.min else if c.cnt = 0 then a.min else (if c.min < a.min then c.min else a.min)
  full := a.full + c.fullScale

/-- R136: the live statistic that a block's codes belong to. -/
def statBlock (c : CodeStats) : Nat := c.slice.getD 65

/-- R136, R137: the codes of the second join the live statistics, except during foreground calibration. -/
def State.collect (s : State) (c : CodeStats) : State :=
  let w := Wing.num c.wing
  let k := statBlock c
  if 2 ≤ c.wing || 4 ≤ c.dim || 65 < k || (s.conv.get w).foreground then s
  else s.onDim w c.dim (fun x => { x with live := tabSet CodeSum.zero x.live k ((tabGet CodeSum.zero x.live k).add c) })

/-- R136: the latched statistic restarts. -/
def State.restartLive (s : State) (w : Wing) (d k : Nat) : State :=
  s.onDim w d (fun x => { x with live := tabErase x.live k })

/-- R136: a dimension's block is latched.  Before its first latch IN_SERVICE reads its reset value 0, although the table also
says that it is always 1 (DEDUCED: the table gives both; assumption 67). -/
def State.latchDim (s : State) (w : Wing) (d : Nat) : State :=
  let i := [w.n, d]
  let c := tabGet CodeSum.zero (s.dim w d).live 65
  let s := (s.wrWide .CNV_DIM_SUM_LO_SUM .CNV_DIM_SUM_HI_SUM i (ofSigned 64 c.sum)).wrWide .CNV_DIM_SQ_LO_SQ
    .CNV_DIM_SQ_HI_SQ i c.sq
  let s := ((s.wrWide .CNV_DIM_CNT_LO_CNT .CNV_DIM_CNT_HI_CNT i c.cnt).wrS .CNV_DIM_MINMAX_MAX i c.max).wrS
    .CNV_DIM_MINMAX_MIN i c.min
  (((s.wrb .CNV_DIM_FLAGS_STALE i false).wrb .CNV_DIM_FLAGS_IN_SERVICE i true).wr .CNV_DIM_FLAGS_FULL_SCALE i
    (min 16777215 c.full)).restartLive w d 65

/-- R123: the position that a slice serves. -/
def positionOf (spare slice : Nat) : Nat := if slice < spare then slice else slice - 1

/-- R136: the block of a slice in service is latched. -/
def State.latchSlice (s : State) (w : Wing) (d k : Nat) : State :=
  let i := [w.n, d, k]
  let c := tabGet CodeSum.zero (s.dim w d).live k
  let s := (s.wrWide .CNV_SLICE_SUM_LO_SUM .CNV_SLICE_SUM_HI_SUM i (ofSigned 64 c.sum)).wrWide .CNV_SLICE_SQ_LO_SQ
    .CNV_SLICE_SQ_HI_SQ i c.sq
  let s := ((s.wrWide .CNV_SLICE_CNT_LO_CNT .CNV_SLICE_CNT_HI_CNT i c.cnt).wrS .CNV_SLICE_MINMAX_MAX i c.max).wrS
    .CNV_SLICE_MINMAX_MIN i c.min
  ((((s.wrb .CNV_SLICE_FLAGS_STALE i false).wrb .CNV_SLICE_FLAGS_IN_SERVICE i true).wr .CNV_SLICE_FLAGS_POSITION i
    (positionOf (s.spare w d) k)).wr .CNV_SLICE_FLAGS_FULL_SCALE i (min 16777215 c.full)).restartLive w d k

/-- R137: a slice that is out of service at the tick. -/
def State.staleSlice (s : State) (w : Wing) (d k : Nat) : State :=
  ((s.wrb .CNV_SLICE_FLAGS_STALE [w.n, d, k] true).wrb .CNV_SLICE_FLAGS_IN_SERVICE [w.n, d, k] false).wr
    .CNV_SLICE_FLAGS_POSITION [w.n, d, k] 0

/-- R136, R137: a dimension at the tick: its block and those of the slices in service are latched, the spare goes stale. -/
def State.latchBlocks (s : State) (w : Wing) (d : Nat) : State :=
  (s.latchDim w d).upTo 65 (fun s k => if k = s.spare w d then s.staleSlice w d k else s.latchSlice w d k)

/-- R136, R137: the tick for a wing's converters; during foreground calibration the blocks keep their values. -/
def State.latchConv (s : State) (w : Wing) : State :=
  s.when (s.wingEnabled w && !(s.conv.get w).foreground) (fun s => s.upTo 4 (fun s d => s.latchBlocks w d))

end Sys2Proof.Machine
end

