-- ==== Sys2Proof/Machine/Receive.lean ====
section
/-!
DEFINITION. The receiver: loss of signal, acquisition, dispersion tracking, re-convergence, the second pass, the figures of
merit and the advice that follows from them (R96 to R121, R178, R179).
-/

namespace Sys2Proof.Machine

/-! ### Dispersion (R101) -/

/-- R101: the taps that a dispersion needs. -/
def tapsFor (cd : Int) (baud : Nat) : Nat := ceilDiv (cd.natAbs * baud * baud * 9) 16000000 + 512

/-- R101: the reach of an allocation. -/
def reachOf (alloc baud : Nat) : Nat := min 200000 ((alloc - 512) * 16000000 / (9 * baud * baud))

/-- R101: the wing's reach. -/
def State.reach (s : State) (w : Wing) : Nat := reachOf (s.rd .RXW_TAP_STAT_ALLOC [w.n]) (s.rd .RXW_RATE_BAUD [w.n])

/-- R101: CD_REACH for the present BAUD. -/
def State.showReach (s : State) (w : Wing) : State := s.wr .RXW_CD_REACH_REACH [w.n] (s.reach w)

/-- R368: the wing's dispersion tap memory. -/
def tapMemory : Wing → Fin 6
  | .a => 3
  | .b => 4

/-- R101: the dispersion applied, and the taps in use; the tap bank is written for it (R368). -/
def State.setCd (s : State) (w : Wing) (cd : Int) : State :=
  (((s.tapsWrite (tapMemory w)).wrS .RXW_CD_STAT_CD_EST [w.n] cd).wrb .RXW_CD_STAT_VALID [w.n] true).wr .RXW_TAP_STAT_USED [w.n]
    (tapsFor cd (s.rd .RXW_RATE_BAUD [w.n]))

/-! ### The second pass (R111 to R114) -/

/-- R114: the second pass is no longer active, and its domain goes down. -/
def State.sp2End (s : State) (w : Wing) : State :=
  let up := s.power.up.filter (· != .secondPass w)
  ((({ s with power := { s.power with up := up } }).onRx w (fun r => { r with sp2Stop := false })).wrb
    .RXW_SP2_STAT_ACTIVE [w.n] false).evt .RXW_RX_EVT_SP2_CHANGE [w.n]

/-- R121: the second pass is abandoned with its buffered output. -/
def State.sp2Off (s : State) (w : Wing) : State :=
  (s.when (s.flag .RXW_SP2_STAT_ACTIVE [w.n]) (·.sp2End w)).wrb .RXW_SP2_STAT_DRAINING [w.n] false


/-- R121: neither draining nor waiting for power. -/
def State.sp2Calm (s : State) (w : Wing) : Bool :=
  !s.flag .RXW_SP2_STAT_DRAINING [w.n] && !s.flag .RXW_SP2_STAT_WAIT_PWR [w.n]

/-- R113: the first-pass margin in 0.01 dB. -/
def State.firstMargin (s : State) (w : Wing) : Int :=
  (s.rd .RXW_FOM_EFF_SNR_P1 [w.n] : Int) - s.rd .RXW_FOM_MARGIN_SNR_REQ [w.n]

/-- R113: SP2_AUTO_ON. -/
def execSp2AutoOn (w : Wing) (s : State) : Result :=
  let s := s.begin
  .next (if s.use .RXW_SP2_CTL_MODE [w.n] = 2 && s.rd .RXW_RX_STAT_STATE [w.n] == 11 && s.sp2Calm w &&
        decide (s.rdS .RXW_FOM_MARGIN_MARGIN [w.n] < 10 * s.useS .RXW_SP2_CTL_ON_TH [w.n]) then s.sp2Request w
    else s)

/-- R113: OFF_TH as it acts. -/
def State.offTh (s : State) (w : Wing) : Int :=
  max (s.useS .RXW_SP2_CTL_OFF_TH [w.n]) (s.useS .RXW_SP2_CTL_ON_TH [w.n] + 5)

/-- R113: SP2_AUTO_OFF. -/
def execSp2AutoOff (w : Wing) (s : State) : Result :=
  let s := s.begin
  .next (if s.use .RXW_SP2_CTL_MODE [w.n] = 2 && s.flag .RXW_SP2_STAT_ACTIVE [w.n] && s.sp2Calm w &&
        decide (10 * s.offTh w < s.firstMargin w) then s.onRx w (fun r => { r with sp2Stop := true })
    else s)

/-- R114: from the start of the second pass the receive output pauses for the added latency of R112, 2.6 × 340 / B µs. -/
def State.pauseOutput (s : State) (w : Wing) : State :=
  s.onRx w (fun r => { r with pausedTo := s.mt + ceilDiv 3536000 (s.rd .RXW_RATE_BAUD [w.n]) })

/-- R114: SP2_START: the domain is admitted and the wing acquired. -/
def execSp2Start (w : Wing) (s : State) : Result :=
  let s := s.begin
  .next (if s.flag .RXW_SP2_STAT_WAIT_PWR [w.n] && s.power.up.contains (.secondPass w) &&
        s.rd .RXW_RX_STAT_STATE [w.n] == 11 then
      (((s.wrb .RXW_SP2_STAT_WAIT_PWR [w.n] false).wrb .RXW_SP2_STAT_ACTIVE [w.n] true).evt .RXW_RX_EVT_SP2_CHANGE
        [w.n]).pauseOutput w
    else s)

/-- R114: SP2_STOP. -/
def execSp2Stop (w : Wing) (s : State) : Result :=
  let s := s.begin
  .next (if s.flag .RXW_SP2_STAT_ACTIVE [w.n] && ((s.rx.get w).sp2Stop || s.shedding) then
      (s.sp2End w).wrb .RXW_SP2_STAT_DRAINING [w.n] true
    else s)

/-- R114: SP2_DRAIN_DONE. -/
def execSp2DrainDone (w : Wing) (s : State) : Result := .next (s.begin.wrb .RXW_SP2_STAT_DRAINING [w.n] false)

/-! ### Acquisition (R117 to R119) -/

/-- The receiver's state (R119's RX_STAT.STATE). -/
def State.rxState (s : State) (w : Wing) : Nat := s.rd .RXW_RX_STAT_STATE [w.n]

/-- R119, R333: a new state of the receiver: leaving READY rings, ends the second pass and disqualifies the wing's line
clock. -/
def State.setRx (s : State) (w : Wing) (st : Nat) : State :=
  let was := s.rxState w
  let s := s.wr .RXW_RX_STAT_STATE [w.n] st
  if was = 11 && st != 11 then (((s.evt .RXW_RX_EVT_READY_FALL [w.n]).sp2Off w).icmRefresh w).loseCand (2 + w.n) true
  else s

/-- Fields of one instance to 0. -/
def State.zero (s : State) (rs : List Row) (i : List Nat) : State := rs.foldl (fun s r => s.wr r i 0) s

/-- R117: what an acquisition finds before its first step; the blocks still in the decoder's window leave it (R176). -/
def State.clearRx (s : State) (w : Wing) : State :=
  let i := [w.n]
  let s := s.zero [.RXW_HDR_STAT_CF_ALIGNED, .RXW_HDR_STAT_SF_ALIGNED, .RXW_HDR_STAT_MAP_VALID,
    .RXW_HDR_STAT_BAUD_MISM, .RXW_TR_STAT_LOCKED, .RXW_FR_STAT_LOCKED, .RXW_CD_STAT_VALID, .RXW_EQ_STAT_CONVERGED,
    .RXW_EQ_STAT_MODE] i
  (((s.flushBlocks w).setActiveMap w []).dropAnn w (if (s.rx.get w).following then 5 else 0)).onRx w (fun r => { r with
    candidate := 0, misses := 0, goodSf := 0, lastNo := none, stray := false, taken := none, cur := none
    expect := none, mismatch := 0, differ := 0, baudStop := false, eqStop := false })

/-- R117, R118: an acquisition starts; a warm one needs stored values. -/
def State.startAcq (s : State) (w : Wing) (warm : Bool) : State :=
  let stored := if warm then (s.rx.get w).stored else none
  let s := ((s.setRx w 1).clearRx w).countWrap .RXW_RX_STAT_ACQ_COUNT [w.n]
  let s := match stored with
    | some v => s.wrS .RXW_FR_STAT_OFFSET [w.n] v.offset
    | none => s
  s.onRx w (fun r => { r with warm := stored.isSome })

/-- R117: the conditions of step 1: light, the local oscillator locked, the converters calibrated (R129). -/
def State.canAcquire (s : State) (w : Wing) : Bool :=
  s.wingRuns w && !s.flag .OPT_RX_STAT_LOS [w.n] && s.flag .OPT_TX_STAT_LO_LOCKED [w.n] &&
    s.flag .CNV_ADC_CLK_LOCKED [w.n] && !(s.conv.get w).foreground

/-- R99, R118: the receiver waits for light, or for its local oscillator. -/
def State.toWait (s : State) (w : Wing) : State := ((s.setRx w 0).clearRx w).icmSearch w

/-- R117: ACQ_START. -/
def execAcqStart (w : Wing) (s : State) : Result :=
  let s := s.begin
  .next (if s.rxState w = 0 && s.canAcquire w && s.coreRuns then s.startAcq w true else s)

/-- R119: acquisition ends with a reason. -/
def State.failAcq (s : State) (w : Wing) (reason : Nat) : State :=
  let i := [w.n]
  let s := (((s.flushBlocks w).setRx w 15).wr .RXW_RX_STAT_FAIL_REASON i reason).evt .RXW_RX_EVT_ACQ_FAIL i
  let s := s.when (reason == 2) (·.evt .RXW_RX_EVT_CD_RANGE i)
  s.emit (wingIsland 9 w) 0 (reasonCode (0x11 + 0x10 * w.n) reason)

/-- R119: the reasons that a step of acquisition can fail with: those of its own, and a timeout of any other step. -/
def stepReasons (st : Nat) : List Nat :=
  match st with
  | 1 | 7 | 9 | 10 => [7]
  | 2 => [1, 7]
  | 3 => [2, 7, 8]
  | 4 => [3]
  | 5 => [4]
  | 6 => [5]
  | 8 => [6, 7]
  | _ => []

/-- R119: ACQ_FAIL. -/
def execAcqFail (w : Wing) (reason : Fin 16) (s : State) : Result :=
  let s := s.begin
  .next (if (stepReasons (s.rxState w)).contains reason && s.coreRuns then s.failAcq w reason else s)

/-- R119: ACQ_RETRY. -/
def execAcqRetry (w : Wing) (s : State) : Result :=
  let s := s.begin
  .next (if s.rxState w = 15 && s.canAcquire w && s.coreRuns then s.startAcq w false else s)

/-- R22, R119, R121: REACQ; the control core sequences acquisition. -/
def State.reacquire (s : State) (w : Wing) (warm : Bool) : State :=
  if s.canAcquire w && s.coreRuns then s.startAcq w warm else s

/-- R119: REACQ. -/
def execReacq (req : Req) (w : Wing) (warm : Bool) (s : State) : Result := .next (s.begin.via req (·.reacquire w warm))

/-- R98: the dispersion step reads its parameters when it starts. -/
def State.enterCd (s : State) (w : Wing) : State :=
  let a := (s.flag .RXW_CD_CFG_MODE [w.n], s.rdS .RXW_CD_CFG_CD_VALUE [w.n], s.rd .RXW_CD_WIN_HALF_WIDTH [w.n])
  (s.setRx w 3).onRx w (fun r => { r with cdArgs := a })

/-- R100: step 2 completes. An offset that OFFSET does not hold is shown by its lowest 13 bits (DESIGN CHOICE: the spec does not say
what OFFSET reads then; assumption 79). -/
def State.stepFreq (s : State) (w : Wing) (m : AcqInput) : State :=
  let s := s.wrS .RXW_FR_STAT_OFFSET [w.n] m.freqOffset
  if 3500 < m.freqOffset.natAbs then s.failAcq w 1 else s.enterCd w

/-- R102, R103: step 3 of a cold acquisition: the dispersion found, or the reason for the failure. -/
def State.findCd (s : State) (w : Wing) (m : AcqInput) : Except Nat Int :=
  let a := (s.rx.get w).cdArgs
  let reach : Int := s.reach w
  if a.1 then
    if s.rd .RXW_TAP_STAT_ALLOC [w.n] < tapsFor a.2.1 (s.rd .RXW_RATE_BAUD [w.n]) then .error 2
    else if 500 < m.residual.natAbs then .error 8
    else .ok a.2.1
  else
    let lo := max (-reach) (a.2.1 - 10 * a.2.2)
    let hi := min reach (a.2.1 + 10 * a.2.2)
    if lo ≤ m.cd && m.cd ≤ hi then .ok m.cd else .error 2

/-- R98, R105: the timing step reads BW when it starts. -/
def State.enterTiming (s : State) (w : Wing) : State :=
  let bw := s.rd .RXW_TR_CFG_BW [w.n]
  (s.setRx w 4).onRx w (fun r => { r with timingBw := bw })

/-- R117: step 3 completes. -/
def State.stepCd (s : State) (w : Wing) (m : AcqInput) : State :=
  let r := s.rx.get w
  match r.warm, r.stored with
  | true, some v => (s.setCd w v.cd).enterTiming w
  | _, _ =>
    match s.findCd w m with
    | .ok cd => (s.setCd w cd).enterTiming w
    | .error e => s.failAcq w e

/-- R98, R106, R117: the equaliser's step reads MU_ACQ and LEN when it starts; a warm acquisition starts from the stored taps, also
where BAUD or LEN was changed since they were stored (DESIGN CHOICE: the spec does not say what such an attempt starts from;
assumption 80). -/
def State.enterEq (s : State) (w : Wing) : State :=
  let mu := s.rd .RXW_EQ_ADAPT_MU_ACQ [w.n]
  let cold := straightTaps (s.rd .RXW_EQ_CFG_LEN [w.n])
  (s.setRx w 5).onRx w (fun r => { r with
    muAcq := mu
    taps := match r.warm, r.stored with
      | true, some v => v.taps
      | _, _ => cold })

/-- R105: step 4 completes. -/
def State.stepTiming (s : State) (w : Wing) (m : AcqInput) : State :=
  if 5000 < m.timing.natAbs then s.failAcq w 3
  else ((s.wrS .RXW_TR_STAT_OFFSET [w.n] m.timing).wrb .RXW_TR_STAT_LOCKED [w.n] true).enterEq w

/-- R106, R118: step 5 completes; with both outputs on one polarisation the Y filters start again; a warm attempt that
does not converge goes on cold from step 3. -/
def State.stepEq (s : State) (w : Wing) (m : AcqInput) : State :=
  if (s.rx.get w).dsp.singular then s.onRx w (fun r => { r with taps := orthogonal r.taps })
  else if (s.rx.get w).warm && (!m.warmOk || decide (500 < m.residual.natAbs)) then
    (s.onRx w (fun r => { r with warm := false })).enterCd w
  else
    (((s.wrb .RXW_EQ_STAT_CONVERGED [w.n] true).wr .RXW_EQ_STAT_DGD_EST [w.n] (min 255 m.dgd)).wr .RXW_EQ_STAT_PDL_EST
      [w.n] (min 255 m.pdl)).setRx w 6

/-- R117: step 10 completes: READY. -/
def State.reachReady (s : State) (w : Wing) : State :=
  let i := [w.n]
  let r := s.rx.get w
  let v : Stored := ⟨s.rdS .RXW_FR_STAT_OFFSET i, s.rdS .RXW_CD_STAT_CD_EST i, r.taps⟩
  let s := ((s.setRx w 11).wrb .RXW_RX_STAT_WARM_USED i r.warm).wr .RXW_RX_STAT_FAIL_REASON i 0
  let s := (s.evt .RXW_RX_EVT_READY_RISE i).onRx w (fun r => { r with
    stored := some v, lowWindows := 0, highSince := none, window := FomSum.zero })
  (s.when (s.use .RXW_SP2_CTL_MODE i == 1) (·.sp2Request w)).icmRefresh w

/-- R117: the later steps, once the framing or the decoder has done its part. -/
def State.stepLate (s : State) (w : Wing) : State :=
  let i := [w.n]
  match s.rxState w with
  | 6 => if s.flag .RXW_HDR_STAT_CF_ALIGNED i then (s.wr .RXW_EQ_STAT_MODE i 1).setRx w 7 else s
  | 7 => ((s.wr .RXW_EQ_STAT_MODE i 2).wrb .RXW_FR_STAT_LOCKED i true).setRx w 8
  | 8 =>
    if s.flag .RXW_HDR_STAT_BAUD_MISM i then s.failAcq w 6
    else if s.flag .RXW_HDR_STAT_SF_ALIGNED i then s.setRx w 9 else s
  | 9 => if s.flag .RXW_HDR_STAT_MAP_VALID i then s.setRx w 10 else s
  | 10 => if s.flag .FEC_STAT_LOCKED i then s.reachReady w else s
  | _ => s

/-- R117: an acquisition step completes. -/
def State.acqStep (s : State) (w : Wing) (m : AcqInput) : State :=
  match s.rxState w with
  | 1 => s.setRx w 2
  | 2 => s.stepFreq w m
  | 3 => s.stepCd w m
  | 4 => s.stepTiming w m
  | 5 => s.stepEq w m
  | _ => s.stepLate w

/-- R117: ACQ_STEP_COMPLETE. -/
def execAcqStepComplete (w : Wing) (m : AcqInput) (s : State) : Result :=
  let s := s.begin
  .next (if s.canAcquire w && s.coreRuns then s.acqStep w m else s)

/-! ### Loss of signal and of alignment (R54, R99, R118) -/

/-- R99: at the comparator's update the values written to OPT.RX_LOS take force. -/
def State.updateLos (s : State) (w : Wing) : State :=
  (s.releaseOne .OPT_RX_LOS_LOS_TH [w.n]).releaseOne .OPT_RX_LOS_HYST [w.n]

/-- R99: LOS_ASSERT: the received power, in 0.01 dBm, lies below LOS_TH. -/
def execLosAssert (w : Wing) (power : Int) (s : State) : Result :=
  let s := s.begin.updateLos w
  if s.flag .OPT_RX_STAT_LOS [w.n] || decide (s.rdS .OPT_RX_LOS_LOS_TH [w.n] ≤ power) then .next s
  else
    let s := (s.wrb .OPT_RX_STAT_LOS [w.n] true).wrS .OPT_RX_STAT_POWER_MEAS [w.n] (-4096)
    let s := { s with pins := { s.pins with los := s.pins.los.set w true } }
    .next ((((s.toWait w).trigger w.n).wingStep w).icmRefresh w)

/-- R99: LOS_CLEAR: a warm acquisition follows through ACQ_START. POWER_MEAS keeps what it reads under loss of signal until the
converter reads the photodiode (R143; DESIGN CHOICE: the spec does not say what it reads until then; assumption 79). -/
def execLosClear (w : Wing) (power : Int) (s : State) : Result :=
  let s := s.begin.updateLos w
  let i := [w.n]
  if !s.flag .OPT_RX_STAT_LOS i || !s.wingEnabled w ||
      decide (power ≤ s.rdS .OPT_RX_LOS_LOS_TH i + 10 * s.rd .OPT_RX_LOS_HYST i) then .next s
  else
    let s := s.wrb .OPT_RX_STAT_LOS i false
    let s := { s with pins := { s.pins with los := s.pins.los.set w false } }
    .next (((s.trigger w.n).wingStep w).icmRefresh w)

/-- R22, R54, R118: CF_ALIGN_LOSS: with light present a warm acquisition starts, once the control core runs. -/
def execCfAlignLoss (w : Wing) (s : State) : Result :=
  let s := s.begin
  if !s.flag .RXW_HDR_STAT_CF_ALIGNED [w.n] || decide ((s.rx.get w).misses < 4) then .next s
  else
    let s := s.count .RXW_HDR_ERR_CF_SLIP [w.n]
    .next (if s.canAcquire w && s.coreRuns then s.startAcq w true else s.toWait w)

/-! ### Tracking and re-convergence (R104, R107) -/

/-- R104: a residual rounded to 10 ps/nm, one that lies halfway towards plus infinity (DESIGN CHOICE: the spec does not say;
assumption 65). -/
def roundTen (r : Int) : Int := (r + 5) / 10 * 10

/-- R104: CD_TRACK_MOVE. -/
def execCdTrackMove (w : Wing) (residual : Int) (s : State) : Result :=
  let s := s.begin
  if s.rxState w ≠ 11 || !s.flag .RXW_CD_CFG_TRACK_EN [w.n] || decide (residual.natAbs ≤ 50) then .next s
  else
    let reach : Int := s.reach w
    let want := s.rdS .RXW_CD_STAT_CD_EST [w.n] + roundTen residual
    .next ((s.setCd w (clampInt (-reach) reach want)).when (decide (reach < want.natAbs))
      (·.evt .RXW_RX_EVT_CD_RANGE [w.n]))

/-- R107: EQ_RECONV, after 64 consecutive carrier frames above the convergence limit. -/
def execEqReconv (w : Wing) (s : State) : Result :=
  let s := s.begin
  .next (if s.flag .RXW_HDR_STAT_CF_ALIGNED [w.n] && s.flag .RXW_EQ_STAT_CONVERGED [w.n] &&
      decide (64 ≤ (s.rx.get w).dsp.overRun) then
      ((s.wrb .RXW_EQ_STAT_CONVERGED [w.n] false).evt .RXW_RX_EVT_EQ_RECONV [w.n]).onRx w
        (fun r => { r with
          eqStop := true
          taps := match r.stored with
            | some v => v.taps
            | none => r.taps })
    else s)

/-- R107: EQ_RECONV_DONE: the error is within the limit again. -/
def execEqReconvDone (w : Wing) (s : State) : Result :=
  let s := s.begin
  .next (if (s.rx.get w).eqStop && (s.rx.get w).dsp.overRun == 0 then
      (s.wrb .RXW_EQ_STAT_CONVERGED [w.n] true).onRx w (fun r => { r with eqStop := false })
    else s)

/-! ### Figures of merit (R115, R116) -/

/-- R115: the live figures of a window. -/
def State.showFigures (s : State) (w : Wing) (f : Figures) : State :=
  let i := [w.n]
  let s := (((s.wr .RXW_FOM_SNR_SNR_X i f.snrX).wr .RXW_FOM_SNR_SNR_Y i f.snrY).wr .RXW_FOM_EFF_SNR_EFF i f.snrEff).wr
    .RXW_FOM_EFF_SNR_P1 i f.snrP1
  let s := (s.wr .RXW_FOM_GMI_GMI i f.gmi).wr .RXW_FOM_GMI_NGMI i f.ngmi
  let s := (s.wrb .RXW_FOM_OSNR_SAT i f.osnrSat).wr .RXW_FOM_OSNR_OSNR_EST i (if f.osnrSat then 0xFFFF else f.osnr)
  (s.wrS .RXW_FOM_MARGIN_SNR_REQ i f.req).wrS .RXW_FOM_MARGIN_MARGIN i ((f.snrEff : Int) - f.req)

/-- R115: the present window holds 2^AVG superframes. -/
def State.windowFull (s : State) (w : Wing) : Bool :=
  decide (2 ^ min 10 (s.use .RXW_FOM_CFG_AVG [w.n]) ≤ (s.rx.get w).window.n)

/-- R115: the live figures take the window's averages, and the next window begins. -/
def State.endWindow (s : State) (w : Wing) : State :=
  (s.showFigures w ((s.rx.get w).window.figures (s.snrTrx w) (s.rd .RXW_RATE_BAUD [w.n]))).onRx w
    (fun r => { r with window := FomSum.zero })

/-! ### Advice (R178, R179) -/

/-- R178: a profile that POLICY2.PROFILE permits. -/
def profileOk (sel fec : Nat) : Bool := if sel = 1 then fec == 0 else if sel = 2 then fec == 1 else true

/-- R178: the pair is eligible at an index limit. -/
def State.eligiblePair (s : State) (w : Wing) (top : Nat) (p : Nat × Nat) : Bool :=
  let i := [w.n]
  decide (p.1 ≤ top) && decide (p.1 ≤ s.rd .ELC_POLICY2_MAX_IDX i) && profileOk (s.rd .ELC_POLICY2_PROFILE i) p.2 &&
    decide (snrReq p.1 p.2 ≤ (s.rd .RXW_FOM_EFF_SNR_EFF i : Int) - 10 * s.rd .ELC_POLICY_TGT i)

/-- R178: of two eligible pairs the better: the larger M, then the lower SNR_REQ, then Ubmus-15. -/
def betterPair (baud : Nat) (a b : Nat × Nat) : Bool :=
  let ma := slotsOf baud a.1 a.2
  let mb := slotsOf baud b.1 b.2
  if ma ≠ mb then decide (mb < ma)
  else if snrReq a.1 a.2 = snrReq b.1 b.2 then decide (a.2 < b.2) else decide (snrReq a.1 a.2 < snrReq b.1 b.2)

/-- R178: all pairs. -/
def allPairs : List (Nat × Nat) := (List.range 65).flatMap (fun n => [(n, 0), (n, 1)])

/-- R178: the best eligible pair, or the far end's floor profile. -/
def State.bestPair (s : State) (w : Wing) (top : Nat) : Nat × Nat :=
  let best := (allPairs.filter (s.eligiblePair w top)).foldl (fun b p => match b with
    | none => some p
    | some q => if betterPair (s.rd .RXW_RATE_BAUD [w.n]) p q then some p else some q) none
  best.getD (s.rd .ELC_FLOOR_RX_H_IDX [w.n], s.rd .ELC_FLOOR_RX_FEC [w.n])

/-- R179: the ADVICE message. -/
def State.queueAdvice (s : State) (w : Wing) : State :=
  let i := [w.n]
  s.icmQueue w (.advice (s.rd .ELC_ADV_TX_SEQ i) (s.rd .ELC_ADV_TX_H_IDX i) (s.rd .ELC_ADV_TX_FEC i)
    (toSigned 8 (s.advMargin w)))

/-- R178, R179: new advice, when the pair differs from the advice in force. -/
def State.advise (s : State) (w : Wing) (p : Nat × Nat) : State :=
  let i := [w.n]
  if s.flag .ELC_ADV_TX_VALID i && p == (s.rd .ELC_ADV_TX_H_IDX i, s.rd .ELC_ADV_TX_FEC i) then s
  else
    let s := (s.wrb .ELC_ADV_TX_VALID i true).wr .ELC_ADV_TX_SEQ i (s.rd .ELC_ADV_TX_SEQ i + 1)
    let s := ((s.wr .ELC_ADV_TX_H_IDX i p.1).wr .ELC_ADV_TX_FEC i p.2).wr .ELC_ADV_TX_MARGIN i (s.advMargin w)
    let s := s.wrb .ELC_ADV_TX_VIA_ICM i (s.adviceByIcm w)
    s.when (s.adviceByIcm w) (·.queueAdvice w)

/-- R178: the runs behind the two conditions after a window. -/
def State.marginRuns (s : State) (w : Wing) : State :=
  let i := [w.n]
  let m := s.rdS .RXW_FOM_MARGIN_MARGIN i
  let tgt := s.rd .ELC_POLICY_TGT i
  let low := decide (m < 10 * ((tgt : Int) - s.rd .ELC_POLICY_DOWN_HYST i))
  let high := decide (10 * (tgt + s.rd .ELC_POLICY_UP_HYST i : Int) ≤ m)
  s.onRx w (fun r => { r with
    lowWindows := if low then r.lowWindows + 1 else 0
    highSince := if high then some (r.highSince.getD s.mt) else none })

/-- R178: the Raise condition has held for UP_HOLD seconds. -/
def State.raiseHeld (s : State) (w : Wing) : Bool :=
  match (s.rx.get w).highSince with
  | some t => decide (t + max 1 (s.rd .ELC_POLICY_UP_HOLD [w.n]) * 1000000000 ≤ s.mt)
  | none => false

/-- R178: the Hold case: the advice is the present profile, and ADV_SEQ stays. -/
def State.holdAdvice (s : State) (w : Wing) : State :=
  let i := [w.n]
  let s := (s.wrb .ELC_ADV_TX_VALID i true).wr .ELC_ADV_TX_H_IDX i (s.rd .RXW_LINE_CUR_H_IDX i)
  (s.wr .ELC_ADV_TX_FEC i (s.rd .RXW_LINE_CUR_FEC i)).wr .ELC_ADV_TX_MARGIN i (s.advMargin w)

/-- R178: the policy at the end of a window.  A Raise that R179 withholds, and a pair that is the advice in force already,
leave the advice as it is (assumption 78). -/
def State.policy (s : State) (w : Wing) : State :=
  let i := [w.n]
  let s := s.marginRuns w
  if decide (max 1 (s.rd .ELC_POLICY_DOWN_HOLD i) ≤ (s.rx.get w).lowWindows) ||
      decide (s.rdS .RXW_FOM_MARGIN_MARGIN i < 0) then s.advise w (s.bestPair w 64)
  else if s.raiseHeld w then
    s.when (s.sp2Calm w) (·.advise w (s.bestPair w (s.rd .RXW_LINE_CUR_H_IDX i + max 1 (s.rd .ELC_POLICY2_UP_STEP i))))
  else s.holdAdvice w

/-- R22, R178, R187, R192: the policy runs: not in MANUAL, not while the control cores restart, and after a fall-back or a
start only once it has resumed. -/
def State.policyRuns (s : State) (w : Wing) : Bool :=
  s.use .ELC_CTL_MODE [w.n] != 1 && s.coreRuns && (!s.flag .ELC_HS_STAT_FLOOR_TX [w.n] || (s.tx.get w).resumed)

/-- R115, R178: FOM_WINDOW_END. While the policy does not run no window counts towards its conditions (assumption 78). -/
def execFomWindowEnd (w : Wing) (s : State) : Result :=
  let s := s.begin
  if s.rxState w ≠ 11 || !s.windowFull w then .next s
  else
    let s := s.endWindow w
    .next (if s.policyRuns w then s.policy w else s.onRx w (fun r => { r with lowWindows := 0, highSince := none }))

end Sys2Proof.Machine
end

