-- ==== Sys2Proof/Machine/Optics.lean ====
section
/-!
DEFINITION. The optical engine: the two lasers, the ramp, the power loop and the TX_DIS pin (R86 to R95), with the
calibration of the DACs that a ramp-up waits for (R133).
-/

namespace Sys2Proof.Machine

/-- Change a wing's optical engine. -/
def State.onOpt (s : State) (w : Wing) (f : Optics → Optics) : State := { s with opt := s.opt.set w (f (s.opt.get w)) }

/-- R92: OPT.TX_STAT.STATE. -/
def State.optState (s : State) (w : Wing) : Nat := s.rd .OPT_TX_STAT_STATE [w.n]

/-- R92: a new state of the transmitter; the intercom reports FAULT (R202). -/
def State.setOpt (s : State) (w : Wing) (st : Nat) : State := (s.wr .OPT_TX_STAT_STATE [w.n] st).icmRefresh w

/-- R89, R90: the level of the target, in 10⁻⁸ dBm: POWER in force. -/
def State.target (s : State) (w : Wing) : Int := s.useS .OPT_TX_CTL_POWER [w.n] * 1000000

/-- R90: the dark level: the target minus 30 dB. -/
def State.darkLevel (s : State) (w : Wing) : Int := s.target w - 3000000000

/-- R90: what the VOA moves in 10 µs, in 10⁻⁸ dB: 30 dB in RAMP_MS ms, rounded up where that does not divide (DESIGN CHOICE:
the spec gives no rounding; assumption 79). -/
def rampStep (ms : Nat) : Nat := ceilDiv 30000000 (max 1 ms)

/-- R357: the state that a wing is in, or on its way to while a transition runs: the lower-powered of its request and the
transition's target. -/
def State.wingWanted (s : State) (w : Wing) : Nat :=
  let req := match w with
    | .a => s.rd .PWR_STATE_CTL_WING_A
    | .b => s.rd .PWR_STATE_CTL_WING_B
  match s.power.trans with
  | some t => max (min 2 req) (min 2 t)
  | none => s.wingState w

/-- R357, R430: the wing's lasers are on: its start has reached step 2, and it is not in Sleep. -/
def State.opticsOn (s : State) (w : Wing) : Bool := decide (2 ≤ s.boot.wing.get w) && s.wingState w != 2

/-- R36, R431: an ACTIVATE that restarts the wing runs. -/
def State.restartDue (s : State) (w : Wing) : Bool :=
  let scope := s.rd .SEC_IMG_STAT_SCOPE
  decide (s.image.cmd = some .activate) && decide (scope < 4) && scope.testBit w.n

/-- R91, R133: the carrier is to be lit. -/
def State.mayLight (s : State) (w : Wing) : Bool :=
  let i := [w.n]
  let o := s.opt.get w
  s.use .OPT_TX_CTL_ENABLE i == 1 && !s.pins.txDis.get w && s.wingOn w && !s.restartDue w && !s.flag .GLB_BLK_CTL_STOPPING i &&
    s.wingWanted w == 0 && s.flag .OPT_TX_STAT_FREQ_LOCKED i && !o.retune && !o.dacDue && !s.flag .CNV_DAC_CAL_BUSY i &&
    s.flag .CNV_DAC_CLK_LOCKED i && s.opticsOn w

/-- R91: a condition of R91 has changed: the ramp starts or reverses. -/
def State.optEval (s : State) (w : Wing) : State :=
  match s.optState w with
  | 0 => if s.mayLight w then (s.onOpt w (fun o => { o with level := s.darkLevel w, offMs := 0 })).setOpt w 2 else s
  | 2 => if s.mayLight w then s else s.setOpt w 4
  | 3 => if s.mayLight w then s else s.setOpt w 4
  | 4 => if s.mayLight w then s.setOpt w 2 else s
  | _ => s

/-! ### Tuning (R86 to R88) -/

/-- R86: the tuning range of the code. -/
def State.chRange (s : State) : Int × Int := if s.rd .GLB_ID_VARIANT = 3 then (-2304, -704) else (-624, 976)

/-- R86: a CH lies in the code's range. -/
def State.chOk (s : State) (ch : Int) : Bool := decide (s.chRange.1 ≤ ch) && decide (ch ≤ s.chRange.2)

/-- R87, R92: the laser is retuned, dark; under TX_DIS its lock cannot be confirmed. -/
def State.tune (s : State) (w : Wing) : State :=
  let s := (s.onOpt w (fun o => { o with tuning := true, retune := false, lockHeld := false })).wrb
    .OPT_TX_STAT_FREQ_LOCKED [w.n] false
  if s.optState w = 5 then s else (s.setOpt w 1).startDac w

/-- R87, R95: a new CH starts a dark retune, through a ramp-down where light is on; during a ramp-down or a tuning the
latest CH becomes the target. Before the lasers' step of a start, a lock kept from before it is given up. -/
def State.retune (s : State) (w : Wing) : State :=
  if !s.opticsOn w then s.onOpt w (fun o => { o with keptTx := false })
  else match s.optState w with
    | 1 => s
    | 2 => (s.onOpt w (fun o => { o with retune := true })).setOpt w 4
    | 3 => (s.onOpt w (fun o => { o with retune := true })).setOpt w 4
    | 4 => s.onOpt w (fun o => { o with retune := true })
    | _ => s.tune w

/-- R86, R93: a write of OPT.TX_FREQ. -/
def State.txFreq (s : State) (w : Wing) (ch fine : Int) : State :=
  let i := [w.n]
  let s := s.wrS .OPT_TX_FREQ_FINE i (clampInt (-1500) 1500 fine)
  if !s.chOk ch then s.evt .OPT_TX_EVT_TUNE_FAIL i
  else if s.rdS .OPT_TX_FREQ_CH i = ch then s
  else ((s.wrS .OPT_TX_FREQ_CH i ch).retune w).icmRefresh w

/-- R86: the frequency that a laser stands at, in kHz. -/
def laserKhz (ch fine : Int) : Int := 193100000000 + ch * 3125000 + fine

/-- R86, R87: the transmit laser's present frequency. -/
def State.txKhz (s : State) (w : Wing) : Int := laserKhz (s.rdS .OPT_TX_FREQ_CH [w.n]) (s.opt.get w).fine

/-- R86: TX_FREQ_WRITE. -/
def execTxFreqWrite (req : Req) (w : Wing) (ch fine : Int) (s : State) : Result := .next (s.begin.via req (·.txFreq w ch fine))

/-- R88: the local oscillator is tuned. -/
def State.tuneLo (s : State) (w : Wing) : State :=
  (s.wrb .OPT_TX_STAT_LO_LOCKED [w.n] false).onOpt w (fun o => { o with loTuning := true })

/-- R88: a write of OPT.LO_FREQ: a new CH makes the receiver reacquire; before the lasers' step of a start, a lock kept from
before it is given up. -/
def State.loFreq (s : State) (w : Wing) (ch fine : Int) : State :=
  let i := [w.n]
  let s := s.wrS .OPT_LO_FREQ_FINE i (clampInt (-1500) 1500 fine)
  if !s.chOk ch then s.evt .OPT_TX_EVT_LO_TUNE_FAIL i
  else if s.rdS .OPT_LO_FREQ_CH i = ch then s
  else
    let s := s.wrS .OPT_LO_FREQ_CH i ch
    if s.opticsOn w then ((s.tuneLo w).toWait w).icmRefresh w else s.onOpt w (fun o => { o with keptLo := false })

/-- R88: LO_FREQ_WRITE. -/
def execLoFreqWrite (req : Req) (w : Wing) (ch fine : Int) (s : State) : Result := .next (s.begin.via req (·.loFreq w ch fine))

/-- R92: TX_LASER_LOCK. -/
def execTxLaserLock (w : Wing) (s : State) : Result :=
  let s := s.begin
  .next (if s.optState w = 1 then
      let fine := 1000 * s.rdS .OPT_TX_FREQ_FINE [w.n]
      let s := (s.onOpt w (fun o => { o with tuning := false, fine := fine })).wrb .OPT_TX_STAT_FREQ_LOCKED [w.n] true
      ((s.evt .OPT_TX_EVT_TUNE_DONE [w.n]).setOpt w 0).optEval w
    else s)

/-- R92: TX_TUNE_TIMEOUT. -/
def execTxTuneTimeout (w : Wing) (s : State) : Result :=
  let s := s.begin
  .next (if s.optState w = 1 then
      ((s.onOpt w (fun o => { o with tuning := false })).evt .OPT_TX_EVT_TUNE_FAIL [w.n]).setOpt w 6
    else s)

/-- R88: LO_TUNE_DONE. -/
def execLoTuneDone (w : Wing) (s : State) : Result :=
  let s := s.begin
  .next (if (s.opt.get w).loTuning then
      let fine := 1000 * s.rdS .OPT_LO_FREQ_FINE [w.n]
      ((s.onOpt w (fun o => { o with loTuning := false, loFine := fine })).wrb .OPT_TX_STAT_LO_LOCKED [w.n] true).evt
        .OPT_TX_EVT_LO_TUNE_DONE [w.n]
    else s)

/-- R88: LO_TUNE_FAIL. -/
def execLoTuneFail (w : Wing) (s : State) : Result :=
  let s := s.begin
  .next (if (s.opt.get w).loTuning then
      (s.onOpt w (fun o => { o with loTuning := false })).evt .OPT_TX_EVT_LO_TUNE_FAIL [w.n]
    else s)

/-! ### The ramp and the power loop (R89 to R93) -/

/-- The fields of OPT.TX_CTL. -/
def txCtlRows : List Row := [.OPT_TX_CTL_ENABLE, .OPT_TX_CTL_RAMP_MS, .OPT_TX_CTL_POWER]

/-- R93: the values written to OPT.TX_CTL take force at the next ramp update. -/
def State.takeTxCtl (s : State) (w : Wing) : State := txCtlRows.foldl (fun s r => s.releaseOne r [w.n]) s

/-- R91, R93: a write of OPT.TX_CTL; a stopped wing takes it at once (R40). -/
def State.txCtl (s : State) (w : Wing) (enable : Bool) (rampMs : Nat) (power : Int) : State :=
  let i := [w.n]
  let s := txCtlRows.foldl (fun s r => s.keepUse r i) s
  let s := (s.wrS .OPT_TX_CTL_POWER i (clampInt (-1000) 400 power)).wr .OPT_TX_CTL_RAMP_MS i (max 1 (min 500 rampMs))
  (s.wrb .OPT_TX_CTL_ENABLE i enable).when (s.wingStopped w) (·.takeTxCtl w)

/-- R91: TX_CTL_WRITE. -/
def execTxCtlWrite (req : Req) (w : Wing) (enable : Bool) (rampMs : Nat) (power : Int) (s : State) : Result :=
  .next (s.begin.via req (·.txCtl w enable rampMs power))

/-- R90, R151, R213: the VOA is closed: dark, or the retune that waited for it. -/
def State.goDark (s : State) (w : Wing) : State :=
  let i := [w.n]
  let s := ((s.onOpt w (fun o => { o with level := s.darkLevel w, offMs := 0 })).wrS .OPT_TX_STAT_POWER_MEAS i (-4096)).icmAbort w
  (if (s.opt.get w).retune then s.tune w else s.setOpt w 0).runDeferred

/-- R90: the end of a ramp-up: the closed loop begins. -/
def State.goLit (s : State) (w : Wing) : State :=
  (((s.onOpt w (fun o => { o with offMs := 0 })).evt .OPT_TX_EVT_RAMP_DONE [w.n]).setOpt w 3).runDeferred

/-- A level moves towards another by at most a step. -/
def towards (l dest step : Int) : Int := if l < dest then min dest (l + step) else max dest (l - step)

/-- R90, R95: one update of a ramp: towards the target, or down to the dark level. -/
def State.ramp (s : State) (w : Wing) : State :=
  let step := rampStep (s.use .OPT_TX_CTL_RAMP_MS [w.n])
  let up := s.optState w == 2
  let dest := if up then s.target w else s.darkLevel w
  let l := if up then towards (s.opt.get w).level dest step else max dest ((s.opt.get w).level - step)
  let s := s.onOpt w (fun o => { o with level := l })
  if l ≠ dest then s else if up then s.goLit w else (s.evt .OPT_TX_EVT_RAMP_DONE [w.n]).goDark w

/-- R90: the carrier is on a ramp. -/
def State.onRamp (s : State) (w : Wing) : Bool := s.optState w == 2 || s.optState w == 4

/-- R90, R93: RAMP_UPDATE: what was written takes force, and a ramp makes its step with the injected sequence. -/
def execRampUpdate (w : Wing) (s : State) : Result :=
  let s := s.begin
  let was := s.onRamp w
  let s := (s.takeTxCtl w).optEval w
  .next (if was && s.onRamp w then (s.trigger (2 + w.n)).ramp w else s)

/-- R89, R143: the closed loop rests on the photodiode as the supervisory converter's regular sequence last read it; what
the level moves in 1 ms of slewing is 100 updates of the ramp. -/
def State.powerLoop (s : State) (w : Wing) : State :=
  let i := [w.n]
  let off := decide (100 < (s.rdS .OPT_TX_STAT_POWER_MEAS i - s.useS .OPT_TX_CTL_POWER i).natAbs)
  let dest := s.target w
  let step : Int := 100 * rampStep (s.use .OPT_TX_CTL_RAMP_MS i)
  let s := s.onOpt w (fun o => { o with
    level := towards o.level dest step
    offMs := if off then o.offMs + 1 else 0 })
  s.when (decide (10 ≤ (s.opt.get w).offMs)) (·.evt .OPT_TX_EVT_POWER_OOR i)

/-- R89, R92: POWER_LOOP_UPDATE. -/
def execPowerLoopUpdate (w : Wing) (s : State) : Result :=
  let s := s.begin
  .next (if s.optState w = 3 then s.powerLoop w else s)

/-! ### TX_DIS (R92) -/

/-- R92: the wing is held dark by its pin. -/
def State.disable (s : State) (w : Wing) : State :=
  let i := [w.n]
  let held := s.flag .OPT_TX_STAT_FREQ_LOCKED i && !(s.opt.get w).retune
  let s := s.onOpt w (fun o => { o with
    level := s.darkLevel w, offMs := 0, lockHeld := held, tuning := o.tuning || o.retune, retune := false })
  let s := ((s.wrb .OPT_TX_STAT_FREQ_LOCKED i false).wrS .OPT_TX_STAT_POWER_MEAS i (-4096)).icmAbort w
  ((s.setOpt w 5).evt .OPT_TX_EVT_TXDIS_EDGE i).runDeferred

/-- R92: TX_DIS_ASSERT. -/
def execTxDisAssert (w : Wing) (s : State) : Result :=
  let s := s.begin
  if s.pins.txDis.get w then .next s
  else
    let s := { s with pins := { s.pins with txDis := s.pins.txDis.set w true } }
    let s := s.wrb .OPT_TX_STAT_TXDIS_PIN [w.n] true
    .next (if s.isRunning && s.wingEnabled w then s.disable w else s)

/-- R92: the pin releases the wing: a held lock is confirmed where the locker finds the frequency on its target, otherwise
the laser locks again. -/
def State.enableOut (s : State) (w : Wing) (onTarget : Bool) : State :=
  if s.optState w ≠ 5 then s
  else if !s.opticsOn w then s.setOpt w 0
  else if (s.opt.get w).lockHeld && onTarget then ((s.wrb .OPT_TX_STAT_FREQ_LOCKED [w.n] true).setOpt w 0).optEval w
  else ((s.onOpt w (fun o => { o with tuning := true, lockHeld := false })).setOpt w 1).startDac w

/-- R92: TX_DIS_DEASSERT. -/
def execTxDisDeassert (w : Wing) (onTarget : Bool) (s : State) : Result :=
  let s := s.begin
  let s := { s with pins := { s.pins with txDis := s.pins.txDis.set w false } }
  .next ((s.wrb .OPT_TX_STAT_TXDIS_PIN [w.n] false).enableOut w onTarget)

/-! ### Fine tuning (R87, R88) -/

/-- R87, R93: a laser that is locked slews to its FINE by 10 MHz per ms, that is 10 kHz per µs. -/
def State.slewFine (s : State) (w : Wing) (us : Nat) : State :=
  let i := [w.n]
  let step : Int := 10 * us
  let fine := 1000 * s.rdS .OPT_TX_FREQ_FINE i
  let lo := 1000 * s.rdS .OPT_LO_FREQ_FINE i
  let on := s.flag .OPT_TX_STAT_FREQ_LOCKED i
  let loOn := s.flag .OPT_TX_STAT_LO_LOCKED i
  s.onOpt w (fun o => { o with
    fine := if on then towards o.fine fine step else o.fine
    loFine := if loOn then towards o.loFine lo step else o.loFine })

/-! ### DAC calibration (R133, R134) -/

/-- R122, R133, R134: DAC_CAL_COMPLETE, once the DAC clock is locked: a ramp-up that waited may start. -/
def execDacCalComplete (w : Wing) (trims : List SliceTrim) (s : State) : Result :=
  let s := s.begin
  .next (if s.flag .CNV_DAC_CAL_BUSY [w.n] && s.flag .CNV_DAC_CLK_LOCKED [w.n] then
      ((s.dacDone w trims).onOpt w (fun o => { o with dacDue := false })).optEval w
    else s)

/-! ### The lasers at a wing start (R430 step 2) -/

/-- R430, R431: the local oscillator tunes, or reports the lock that it kept. -/
def State.startLo (s : State) (w : Wing) : State :=
  if (s.opt.get w).keptLo then s.wrb .OPT_TX_STAT_LO_LOCKED [w.n] true else s.tuneLo w

/-- R92, R430, R431: both lasers tune, one that kept its lock reports it, and the DACs are calibrated in the dark. -/
def State.startLasers (s : State) (w : Wing) : State :=
  let kept := (s.opt.get w).keptTx
  let dis := s.pins.txDis.get w
  let s := s.startLo w
  let s := s.onOpt w (fun o => { o with
    tuning := !kept, retune := false, lockHeld := kept && dis, dacDue := true, keptTx := false, keptLo := false })
  let s := (s.wrb .OPT_TX_STAT_FREQ_LOCKED [w.n] (kept && !dis)).startDac w
  if dis then (s.onOpt w (fun o => { o with level := s.darkLevel w })).setOpt w 5 else s.setOpt w (if kept then 0 else 1)

/-- R92, R430: the transmitter as a wing start begins: dark, or held by its pin. -/
def State.resetOptics (s : State) (w : Wing) : State :=
  let i := [w.n]
  let s := s.onOpt w (fun o => { Optics.reset with
    sec := o.sec, keptTx := o.keptTx, keptLo := o.keptLo
    fine := if o.keptTx then o.fine else 0
    loFine := if o.keptLo then o.loFine else 0 })
  let s := ((s.wrS .OPT_TX_STAT_POWER_MEAS i (-4096)).wrb .OPT_TX_STAT_FREQ_LOCKED i false).wrb .OPT_TX_STAT_LO_LOCKED i
    false
  if s.pins.txDis.get w then
    ((s.wrb .OPT_TX_STAT_TXDIS_PIN i true).setOpt w 5).evt .OPT_TX_EVT_TXDIS_EDGE i
  else (s.wrb .OPT_TX_STAT_TXDIS_PIN i false).setOpt w 0

end Sys2Proof.Machine
end

