-- ==== Sys2Proof/Machine/Intercom.lean ====
section
/-!
DEFINITION. The intercom: bursts, the timers that queue messages, reception and the mailbox (R194 to R213).
-/

namespace Sys2Proof.Machine

/-! ### Sending (R195, R198, R202, R203) -/

/-- R19, R195: the intercom transmitter may send; its chirps pass the wing's transmit and converter islands. -/
def State.icmSends (s : State) (w : Wing) : Bool :=
  !s.islandFailed (wingIsland 7 w) && !s.islandFailed (wingIsland 13 w) && !s.islandFailed 24 && decide (2 ≤ s.optState w && s.optState w ≤ 4) && s.flag .ICM_TX_CFG_EN [w.n] && (s.icm.get w).burst.isNone

/-- R202: every BRINGUP carries the RX_STATE of the moment it starts. -/
def State.startMsg (s : State) (w : Wing) : IcmMsg → IcmMsg
  | .bringup heard tb rb _ fb fh ff ch => .bringup heard tb rb (s.rd .RXW_RX_STAT_STATE [w.n]) fb fh ff ch
  | m => m

/-- R194, R198 to R200: the burst that a message starts as. -/
def State.burst (s : State) (w : Wing) (m : IcmMsg) : Burst :=
  burstOf w (between 7 12 (s.rd .ICM_TX_CFG_SF [w.n])) (between 5 40 (s.rd .ICM_TX_CFG_DEPTH [w.n])) (s.rd .ICM_NET_CFG_TX_ID [w.n])
    (s.icm.get w).mseq m

/-- R200, R203: the burst of a message starts. -/
def State.startBurst (s : State) (w : Wing) (m : IcmMsg) : State :=
  let msg := s.startMsg w m
  let b := s.burst w msg
  let t := s.mt
  let s := s.onIcm w (fun i => { i with
    queue := i.queue.erase m, burst := some msg, wave := some (t, b), mseq := (i.mseq + 1) % 256 })
  (((s.countWrap .ICM_CNT4_TX_FRAMES [w.n]).showQueued w).say (.burst w msg b))

/-- R203: ICM_BURST_START. -/
def execIcmBurstStart (w : Wing) (s : State) : Result :=
  let s := s.begin
  .next (if s.icmSends w then
      match icmHead (s.icm.get w).queue with
      | some m => s.startBurst w m
      | none => s
    else s)

/-- R198: ICM_BURST_END. -/
def execIcmBurstEnd (w : Wing) (s : State) : Result :=
  .next ((s.begin.onIcm w (fun i => { i with burst := none, wave := none })).showQueued w)

/-- R179, R192: the advice is sent by the intercom again, with the margin as it is now. -/
def State.repeatAdvice (s : State) (w : Wing) : State :=
  ((s.wrb .ELC_ADV_TX_VIA_ICM [w.n] true).wr .ELC_ADV_TX_MARGIN [w.n] (s.advMargin w)).queueAdvice w

/-- R179: ICM_ADVICE_REPEAT. -/
def execIcmAdviceRepeat (w : Wing) (s : State) : Result :=
  let s := s.begin
  .next (if s.coreRuns && s.wingRuns w && s.flag .ELC_ADV_TX_VALID [w.n] && s.adviceByIcm w then s.repeatAdvice w else s)

/-- R202: ICM_BRINGUP_TIMER. -/
def execIcmBringupTimer (w : Wing) (s : State) : Result :=
  let s := s.begin
  .next (if s.coreRuns && s.isRunning && s.wingEnabled w then s.queueBringup w else s)

/-- R202: the 16 bytes of a TAG. -/
def State.tagBytes (s : State) (w : Wing) : List Nat :=
  bytesMsb 8 (s.rdWide .SEC_DEV_ID_LO_ID .SEC_DEV_ID_HI_ID) ++ [w.n] ++
    bytesMsb 2 (ofSigned 16 (s.rdS .OPT_TX_FREQ_CH [w.n])) ++ bytesMsb 4 (s.rd .ICM_TAG_LABEL_LABEL [w.n]) ++ [0]

/-- R202: ICM_TAG_TIMER. -/
def execIcmTagTimer (w : Wing) (s : State) : Result :=
  let s := s.begin
  .next (if s.coreRuns && s.isRunning && s.wingEnabled w && s.rd .ICM_TAG_CFG_PERIOD [w.n] != 0 then
      s.icmQueue w (.tag (s.tagBytes w))
    else s)

/-- R202: ICM_ALARM_REPEAT. -/
def execIcmAlarmRepeat (w : Wing) (s : State) : Result :=
  let s := s.begin
  .next (if s.coreRuns && s.isRunning && s.wingEnabled w && s.alarmBits w != 0 then s.queueAlarm w else s)

/-! ### Receiving (R196, R206 to R208) -/

/-- R19, R196, R213: the intercom receiver receives; what it hears passes the wing's converter and receive islands. -/
def State.icmHears (s : State) (w : Wing) : Bool :=
  s.isRunning && s.wingEnabled w && s.wingState w == 0 && s.flag .CNV_ADC_CLK_LOCKED [w.n] &&
    !s.flag .OPT_RX_STAT_LOS [w.n] && s.flag .OPT_TX_STAT_LO_LOCKED [w.n] && s.flag .ICM_RX_CFG_EN [w.n] &&
    !s.islandFailed (wingIsland 9 w) && !s.islandFailed (wingIsland 13 w) && !s.halted 6

/-- R206: a preamble is declared: its latest correlation gives the bin and the peak. -/
def State.icmSync (s : State) (w : Wing) (p : Nat × Nat) : State :=
  ((s.wr .ICM_RX_STAT_STATE [w.n] 1).wrb .ICM_RX_STAT_AGC_FROZEN [w.n] true).onIcm w (fun i => { i with
    bin := p.1 % 2 ^ s.rxSf w, peak := p.2, chirps := [], outputs := 0, holes := [] })

/-- R209: the outputs that the receiver searches are settled. -/
def State.icmSettled (s : State) (w : Wing) : Bool :=
  (s.ctxsOf (0x3C + w.n)).all (fun k => !s.flag .SUP_DEC_STAT_UNSETTLED [k])

/-- R206: four correlations make a preamble. -/
def State.icmPreamble (s : State) (w : Wing) (peaks : List (Nat × Nat)) : Bool :=
  preamble (s.rxSf w) (s.rd .ICM_RX_CFG_DET_TH [w.n]) peaks

/-- R206: ICM_PREAMBLE_DETECT: four correlations, each its bin and its peak-to-mean in 0.25 dB. -/
def execIcmPreambleDetect (w : Wing) (peaks : List (Nat × Nat)) (s : State) : Result :=
  let s := s.begin
  .next (if s.icmHears w && s.rd .ICM_RX_STAT_STATE [w.n] == 0 && s.icmSettled w && s.icmPreamble w peaks then
      (s.countWrap .ICM_CNT0_DETECT [w.n]).icmSync w (peaks.getLastD (0, 0))
    else s)

/-- R199: the network ID is accepted. -/
def State.icmAccepts (s : State) (w : Wing) (id : Nat) : Bool :=
  id == s.rd .ICM_NET_CFG_RX_ID [w.n] || s.flag .ICM_NET_CFG_RX_ANY [w.n]

/-- R207: how far the receiver comes with the chirps that it has taken and `more`. -/
def State.icmHeard (s : State) (w : Wing) (more : List RxChirp) : IcmHeard :=
  let i := s.icm.get w
  hearSync (s.rxSf w) (s.icmAccepts w) ((i.chirps ++ more).mapIdx (fun k c =>
    heardChirp (s.rxSf w) (s.rd .ICM_RX_CFG_DET_TH [w.n]) i.bin (i.holes.contains k) c))

/-- R207: the receiver takes chirps and stands in a state. -/
def State.icmTake (s : State) (w : Wing) (more : List RxChirp) (st : Nat) : State :=
  (s.wr .ICM_RX_STAT_STATE [w.n] st).onIcm w (fun i => { i with chirps := i.chirps ++ more })

/-- R207: the count of a failure. -/
def failRow : IcmFail → Row
  | .sync => .ICM_CNT1_SYNC_FAIL
  | .netId => .ICM_CNT1_NETID_MISM
  | .header => .ICM_CNT2_HDR_FAIL
  | .payload => .ICM_CNT2_PAY_FAIL

/-- R207: a frame is abandoned. -/
def State.icmFail (s : State) (w : Wing) (why : IcmFail) : State := (s.countWrap (failRow why) [w.n]).icmSearch w

/-- R207: ICM_FRAME_ABANDON: the chirps with which a frame fails. -/
def execIcmFrameAbandon (w : Wing) (rx : IcmRx) (s : State) : Result :=
  let s := s.begin
  .next (if s.rd .ICM_RX_STAT_STATE [w.n] = 0 || !s.icmHears w then s
    else match s.icmHeard w rx.chirps with
      | .going st => s.icmTake w rx.chirps st
      | .fail why => s.icmFail w why
      | .frame _ _ _ _ => s)

/-- R208: two bins are more than 1 apart, modulo 2^SF. -/
def binsApart (sf a b : Nat) : Bool :=
  let n := 2 ^ sf
  let d := (a + n - b % n) % n
  decide (1 < d) && decide (d + 1 < n)

/-- R208: the parallel detector's preamble: at another bin, and stronger by CAPTURE_MARGIN, in 0.5 dB. -/
def State.icmStronger (s : State) (w : Wing) (p : Nat × Nat) : Bool :=
  let i := s.icm.get w
  binsApart (s.rxSf w) p.1 i.bin && decide (i.peak + 2 * min 40 (s.rd .ICM_RX_CFG_CAPTURE_MARGIN [w.n]) ≤ p.2)

/-- R208: a frame is captured: the receiver enters sync with the parallel detector's level. -/
def State.icmCapture (s : State) (w : Wing) (p : Nat × Nat) : State :=
  ((s.countWrap .ICM_CNT3_CAPTURED [w.n]).icmSync w p).onIcm w (fun i => { i with level := i.side })

/-- R207, R208: ICM_CAPTURE: a preamble while a frame has come as far as `chirps`; in PAYLOAD its header is validated. -/
def execIcmCapture (w : Wing) (peaks : List (Nat × Nat)) (chirps : List RxChirp) (s : State) : Result :=
  let s := s.begin
  let p := peaks.getLastD (0, 0)
  .next (if s.rd .ICM_RX_STAT_STATE [w.n] = 0 || !s.icmHears w || !s.icmPreamble w peaks || !s.icmStronger w p then s
    else match s.icmHeard w chirps with
      | .going 3 =>
        if s.flag .ICM_RX_CFG_CAPTURE [w.n] then s.icmCapture w p
        else (s.countWrap .ICM_CNT3_CAPT_IGNORED [w.n]).icmTake w chirps 3
      | .going _ => s.icmCapture w p
      | _ => s)

/-- R22, R207: a frame whose header and payload are valid is delivered out of the state machine only, not while it searches, and
to the control core. -/
def State.icmReceives (s : State) (w : Wing) : Bool := s.icmHears w && s.rd .ICM_RX_STAT_STATE [w.n] != 0 && s.coreRuns

/-- R204, R207: the chirps that complete a frame of a TYPE; those that leave it incomplete are taken, and those with which it fails
end it. -/
def State.icmFrame (s : State) (w : Wing) (type : Nat) (rx : IcmRx) (act : State → Nat → List Nat → State) : State :=
  let i := [w.n]
  if !s.icmReceives w then s
  else match s.icmHeard w rx.chirps with
    | .going st => s.icmTake w rx.chirps st
    | .fail why => s.icmFail w why
    | .frame id t mseq bytes =>
      if t = type then
        act ((((s.countWrap .ICM_CNT0_RX_OK i).wr .ICM_RX_STAT_LAST_ID i id).wrS .ICM_RX_STAT_LAST_SNR i
          rx.snr).icmSearch w) mseq bytes
      else s

/-- Bytes as a number, the most significant first. -/
def bytesValue (bs : List Nat) : Nat := bs.foldl (fun v b => 256 * v + b) 0

/-- R204: ICM_ADVICE_RX. -/
def execIcmAdviceRx (w : Wing) (rx : IcmRx) (s : State) : Result :=
  .next (s.begin.icmFrame w 1 rx
    (fun s _ bs => s.adviceRx w true (bs.getD 0 0 % 16) (bs.getD 1 0 % 128) (bs.getD 2 0 % 2) (bs.getD 3 0)))

/-- R188 step 3, R204: an ANNOUNCE is accepted and acknowledged, or refused. -/
def State.announceRx (s : State) (w : Wing) (seq h fec : Nat) : State :=
  let i := [w.n]
  if s.acceptable w (s.rd .RXW_RATE_BAUD i) (s.rd .RXW_LINE_CUR_H_IDX i) (s.rd .RXW_LINE_CUR_FEC i) h fec then
    s.icmQueue w (.ack seq)
  else s.countWrap .ELC_CNT3_REFUSED i

/-- R204: ICM_ANNOUNCE_RX. -/
def execIcmAnnounceRx (w : Wing) (rx : IcmRx) (s : State) : Result :=
  .next (s.begin.icmFrame w 2 rx (fun s _ bs => s.announceRx w (bs.getD 0 0 % 16) (bs.getD 1 0 % 128) (bs.getD 2 0 % 2)))

/-- R204: ICM_ACK_RX. -/
def execIcmAckRx (w : Wing) (rx : IcmRx) (s : State) : Result :=
  .next (s.begin.icmFrame w 3 rx (fun s _ bs => s.ackIcm w (bs.getD 0 0 % 16)))

/-! ### Bring-up, tags, alarms (R204, R205) -/

/-- R205: BAUD_DIFF. -/
def State.showBaudDiff (s : State) (w : Wing) : State :=
  s.wrb .ICM_BR0_BAUD_DIFF [w.n]
    (s.flag .ICM_BR0_VALID [w.n] && s.rd .ICM_BR0_TX_BAUD [w.n] != s.rd .RXW_RATE_BAUD [w.n])

/-- The records that a BRINGUP fills. -/
def brRows : List Row :=
  [.ICM_BR0_VALID, .ICM_BR0_HEARD, .ICM_BR0_TX_BAUD, .ICM_BR0_RX_BAUD, .ICM_BR0_RX_STATE, .ICM_BR1_FLOOR_BAUD,
    .ICM_BR1_FLOOR_H, .ICM_BR1_FLOOR_FEC, .ICM_BR1_TX_CH]

/-- Write one instance of several fields. -/
def State.wrAll (s : State) (rs : List Row) (i vs : List Nat) : State :=
  (rs.zip vs).foldl (fun s p => s.wr p.1 i p.2) s

/-- R204: a BRINGUP, as the values of its records. -/
def State.bringupRx (s : State) (w : Wing) (vals : List Nat) : State :=
  let i := [w.n]
  let was := brRows.map (fun r => s.rd r i)
  let s := (s.wrAll brRows i vals).showBaudDiff w
  let s := s.wrAll [.ELC_FLOOR_RX_BAUD, .ELC_FLOOR_RX_H_IDX, .ELC_FLOOR_RX_FEC] i
    [s.rd .ICM_BR1_FLOOR_BAUD i, s.rd .ICM_BR1_FLOOR_H i, s.rd .ICM_BR1_FLOOR_FEC i]
  let s := s.when (brRows.map (fun r => s.rd r i) != was) (·.evt .ICM_EVT_BRINGUP_RX i)
  (s.onIcm w (fun m => { m with heard := true, heardBack := m.heardBack || s.flag .ICM_BR0_HEARD i })).icmRefresh w

/-- R202: the values of a BRINGUP's payload. -/
def bringupValues (bs : List Nat) : List Nat :=
  let at2 (k : Nat) := bytesValue ((bs.drop k).take 2)
  [1, bs.getD 0 0 % 2, at2 1, at2 3, bs.getD 5 0, at2 6, bs.getD 8 0, bs.getD 9 0, at2 10]

/-- R204: ICM_BRINGUP_RX. -/
def execIcmBringupRx (w : Wing) (rx : IcmRx) (s : State) : Result :=
  .next (s.begin.icmFrame w 4 rx (fun s _ bs => s.bringupRx w (bringupValues bs)))

/-- The four words of up to 16 bytes. -/
def wordsOf (n : Nat) (bs : List Nat) : List Nat :=
  (List.range n).map (fun k => (List.range 4).foldl (fun v j => v * 256 + bs.getD (4 * k + j) 0 % 256) 0)

/-- Show words in an array of registers. -/
def State.wrWords (s : State) (w : Wing) (r : Row) (ws : List Nat) : State :=
  (ws.zip (List.range ws.length)).foldl (fun s p => s.wr r [w.n, p.2] p.1) s

/-- R204: TAG_RX takes the 16 bytes of a TAG. -/
def State.tagRx (s : State) (w : Wing) (bytes : List Nat) : State :=
  let was := (List.range 4).map (fun k => s.rd .ICM_TAG_RX_BYTES [w.n, k])
  let new := wordsOf 4 bytes
  (s.wrWords w .ICM_TAG_RX_BYTES new).when (new != was) (·.evt .ICM_EVT_TAG_RX [w.n])

/-- R204: ICM_TAG_RX. -/
def execIcmTagRx (w : Wing) (rx : IcmRx) (s : State) : Result := .next (s.begin.icmFrame w 5 rx (fun s _ bs => s.tagRx w bs))

/-- R204, R205: the far end's alarms. -/
def State.setAlarms (s : State) (w : Wing) (bits : Nat) : State :=
  let was := s.rd .ICM_FAR_ALARM_ALARMS [w.n]
  (s.wr .ICM_FAR_ALARM_ALARMS [w.n] bits).when (bits % 64 != was) (·.evt .ICM_EVT_ALARM_RX [w.n])

/-- R204: ICM_ALARM_RX. -/
def execIcmAlarmRx (w : Wing) (rx : IcmRx) (s : State) : Result :=
  .next (s.begin.icmFrame w 6 rx (fun s _ bs => s.setAlarms w (bs.getD 0 0 % 64)))

/-- R205: FAR_ALARM_TIMEOUT. -/
def execFarAlarmTimeout (w : Wing) (s : State) : Result := .next (s.begin.setAlarms w 0)

/-! ### Host messages (R211) -/

/-- R211: the oldest message of the mailbox is shown. -/
def State.showMail (s : State) (w : Wing) : State :=
  let i := [w.n]
  let box := (s.icm.get w).mailbox
  let s := (s.wrb .ICM_USER_RX_CTL_VALID i !box.isEmpty).wr .ICM_USER_RX_CTL_COUNT i box.length
  let m := box.headD (0, [])
  ((s.wr .ICM_USER_RX_CTL_MSEQ i m.1).wr .ICM_USER_RX_CTL_LEN i m.2.length).wrWords w .ICM_USER_RX_DATA_BYTES
    (wordsOf 12 m.2)

/-- R211: a USER message enters the mailbox, or is dropped. -/
def State.userRx (s : State) (w : Wing) (mseq : Nat) (bytes : List Nat) : State :=
  let i := [w.n]
  if 4 ≤ (s.icm.get w).mailbox.length then (s.countWrap .ICM_CNT5_USER_OVF i).evt .ICM_EVT_USER_OVF i
  else ((s.onIcm w (fun m => { m with mailbox := m.mailbox ++ [(mseq % 256, bytes)] })).showMail w).evt .ICM_EVT_USER_RX i

/-- R211: ICM_USER_RX. -/
def execIcmUserRx (w : Wing) (rx : IcmRx) (s : State) : Result :=
  .next (s.begin.icmFrame w 7 rx (fun s mseq bs => s.userRx w mseq bs))

/-- R211: the bytes that the host has written. -/
def State.userBytes (s : State) (w : Wing) : List Nat :=
  let len := max 1 (min 48 (s.rd .ICM_USER_TX_CTL_LEN [w.n]))
  ((List.range 12).flatMap (fun k => bytesMsb 4 (s.rd .ICM_USER_TX_DATA_BYTES [w.n, k]))).take len

/-- R211: SEND. -/
def State.sendUser (s : State) (w : Wing) : State :=
  if 4 ≤ (s.icm.get w).users then s.evt .ICM_EVT_USER_REFUSED [w.n]
  else s.icmQueue w (.user (s.userBytes w))

/-- R211: USER_SEND. -/
def execUserSend (req : Req) (w : Wing) (s : State) : Result := .next (s.begin.via req (·.sendUser w))

/-- R211: POP. -/
def State.popUser (s : State) (w : Wing) : State := (s.onIcm w (fun m => { m with mailbox := m.mailbox.drop 1 })).showMail w

/-- R211: USER_POP. -/
def execUserPop (req : Req) (w : Wing) (s : State) : Result := .next (s.begin.via req (·.popUser w))

end Sys2Proof.Machine
end

