-- ==== Sys2Proof/Machine/Keys.lean ====
section
/-!
DEFINITION. The cupboard's cryptography: HMAC and HKDF over SHA-256, the wrapped blobs and the KEK, the certificate and the
messages of a session (R269 to R272, R274).
-/

namespace Sys2Proof.Machine

/-- A number from bytes, the first the most significant. -/
def numberOf (bs : List Nat) : Nat := bs.foldl (fun v b => 256 * v + b) 0

/-- The 32 bytes of a SHA-256. -/
def sha256Bytes (bs : List Nat) : List Nat := bytesMsb 32 (Config.sha256 bs)

/-- R272, R277: SEC.DEV_ID. -/
def State.devId (s : State) : Nat := s.rdWide .SEC_DEV_ID_LO_ID .SEC_DEV_ID_HI_ID

/-! ### HMAC and HKDF (R269 to R271) -/

/-- R270: HMAC-SHA-256 of RFC 2104. -/
def hmac (key msg : List Nat) : List Nat :=
  let k := if 64 < key.length then sha256Bytes key else key
  let k := k ++ List.replicate (64 - k.length) 0
  sha256Bytes (k.map (· ^^^ 0x5C) ++ sha256Bytes (k.map (· ^^^ 0x36) ++ msg))

/-- R270: HKDF-Extract of RFC 5869. -/
def hkdfExtract (salt ikm : List Nat) : List Nat := hmac salt ikm

/-- R271: `n` bytes of HKDF-Expand of RFC 5869. -/
def hkdfExpand (prk info : List Nat) (n : Nat) : List Nat :=
  ((List.range (ceilDiv n 32)).foldl (fun t k =>
    let b := hmac prk (t.1 ++ info ++ [k + 1])
    (b, t.2 ++ b)) (([] : List Nat), ([] : List Nat))).2.take n

/-! ### The KEK and the blobs (R269) -/

/-- The bytes of "DK6432M-KEK". -/
def kekInfo : List Nat := [0x44, 0x4B, 0x36, 0x34, 0x33, 0x32, 0x4D, 0x2D, 0x4B, 0x45, 0x4B]

/-- R269: the KEK of a fetched ciphertext: HKDF-SHA-256 of the decapsulated shared secret, with the salt of RFC 5869 where none
is given. -/
def State.kekOf (s : State) (ciphertext : List Nat) : List Nat :=
  hkdfExpand (hkdfExtract (List.replicate 32 0) (Config.decapsulate (Config.kekKey s.devId) ciphertext)) kekInfo 32

/-- R269, R277: the 48-byte blob of KEY_DATA. -/
def State.blob (s : State) : List Nat := (List.range 12).flatMap (fun k => bytesMsb 4 (s.rd .SEC_KEY_DATA_BYTES [k]))

/-- R269: the key and salt that the KEK unwraps from the blob; none when the integrity check fails or the 4 zero bytes are not
zero. -/
def State.unwrapped (s : State) : Option Nat :=
  match s.cip.kek.bind (fun k => Config.keyUnwrap k s.blob) with
  | some v => if v % 2 ^ 32 = 0 then some (v / 2 ^ 32) else none
  | none => none

/-! ### Identity (R272) -/

/-- R269: the device's KEK encapsulation key, 1,568 bytes. -/
def State.kekPublic (s : State) : List Nat := Config.kemPublic (Config.kekKey s.devId)

/-- R272, R274: the 7,856-byte signature of a body under a key. -/
def signatureOf (key : Nat) (body : List Nat) : List Nat := bytesMsb 7856 (Config.signature key body)

/-- R272, R274: a body followed by its signature. -/
def signed (key : Nat) (body : List Nat) : List Nat := body ++ signatureOf key body

/-- R272: the 128-byte body of the identity certificate (byte order: assumption 75). -/
def State.certBody (s : State) : List Nat :=
  [0x44, 0x4B, 0x49, 0x43] ++ bytesMsb 2 1 ++ bytesMsb 2 0x6432 ++ bytesMsb 8 s.devId ++
    bytesMsb 32 (Config.identityKey s.devId) ++ bytesMsb 32 (Config.issuerKey s.devId) ++ sha256Bytes s.kekPublic ++
    List.replicate 16 0

/-- R272: the identity certificate. -/
def State.certificate (s : State) : List Nat := signed (Config.issuerKey s.devId) s.certBody

/-- Bytes of a certificate. -/
def certField (cert : List Nat) (offset size : Nat) : List Nat := (cert.drop offset).take size

/-- R272: the DEV_ID that a certificate names. -/
def certId (cert : List Nat) : Nat := numberOf (certField cert 8 8)

/-- R272: why a peer does not pass, 0 when it does; `covered` is what its message's signature is over. A bad CA hash or a bad
signature of the certificate is reported as 0x1 (DESIGN CHOICE, assumption 82). -/
def State.peerReason (s : State) (w : Wing) (m : KeMsg) (covered : List Nat) : Nat :=
  let ca := certField m.cert 0x30 32
  if sha256Bytes ca != bytesMsb 32 s.fuses.caHash || !Config.verifies (numberOf ca) (m.cert.take 128) (m.cert.drop 128) then 1
  else if !Config.verifies (numberOf (certField m.cert 16 32)) covered m.signature then 2
  else if s.use .SEC_SES_CFG_PEER_CHK [w.n] != 0 &&
    certId m.cert != s.rdWide .SEC_PEER_ID_LO_ID .SEC_PEER_ID_HI_ID [w.n] then 3
  else 0

/-! ### Sessions (R270, R271) -/

/-- R270: the SHA-256 transcript of both messages: the KE_INIT whole, and the KE_RESP as far as its signature covers it
(DESIGN CHOICE, assumption 82). -/
def transcript (init resp : List Nat) : List Nat := sha256Bytes (init ++ resp)

/-- R270: SS. -/
def sessionSecret (transcript shared : List Nat) : List Nat := hkdfExtract transcript shared

/-- R270: the HMAC of a role under SS. -/
def roleMac (secret : List Nat) (initiator : Bool) : List Nat := hmac secret (Config.roleBytes initiator)

/-- The bytes of "DK6432M-CH". -/
def chanInfo : List Nat := [0x44, 0x4B, 0x36, 0x34, 0x33, 0x32, 0x4D, 0x2D, 0x43, 0x48]

/-- R271: the key and salt of a channel, under the DEV_ID of the end that transmits with it. -/
def channelKey (secret : List Nat) (devId chan session gen : Nat) : Nat :=
  numberOf (hkdfExpand secret (chanInfo ++ bytesMsb 8 devId ++ [chan] ++ bytesMsb 2 session ++ bytesMsb 2 gen) 36)

end Sys2Proof.Machine
end

