-- ==== Sys2Proof/Machine/Cipher.lean ====
section
/-!
DEFINITION. Channel encryption and the cupboard: segments, slots, rollover, retirement, wrapped keys, sessions and the
pipelines (R256 to R279).
-/

namespace Sys2Proof.Machine

/-! ### Slots (R263, R264) -/

/-- R264: a slot's state: 0 EMPTY, 1 PENDING, 2 NEXT, 3 CURRENT, 4 RETIRING, 5 BLOCKED. -/
def State.slotState (s : State) (n : Nat) : Nat := s.rd .CIP_SLOT_STAT_STATE [n]

/-- R266: RX_BLOCKED of the channel of a slot. -/
def State.showBlocked (s : State) (n : Nat) : State :=
  let ch := n / 4
  s.wrb .CIP_CH_STAT_RX_BLOCKED [ch] (s.slotState (slotOf ch 1 0) == 5 || s.slotState (slotOf ch 1 1) == 5)

/-- R264: a slot takes a state. -/
def State.setSlot (s : State) (n st : Nat) : State := (s.wr .CIP_SLOT_STAT_STATE [n] st).showBlocked n

/-- R263: a slot's key, salt and what goes with them. -/
def State.keySlot (s : State) (n : Nat) : KeySlot := tabGet KeySlot.empty s.cip.slots n

/-- Change a slot. -/
def State.onSlot (s : State) (n : Nat) (f : KeySlot → KeySlot) : State :=
  s.onCip (fun c => { c with slots := tabSet KeySlot.empty c.slots n (f (tabGet KeySlot.empty c.slots n)) })

/-- R263: a slot is zeroised. -/
def State.zeroSlot (s : State) (n : Nat) : State :=
  (((s.onSlot n (fun _ => KeySlot.empty)).wr .CIP_SLOT_STAT_GEN [n] 0).wr .CIP_SLOT_USAGE_USAGE [n] 0).setSlot n 0

/-- R267, R369: new material is written into a slot, with usage count 0. -/
def State.fillSlot (s : State) (n key gen session st : Nat) : State :=
  ((((s.onSlot n (fun _ => ⟨key, none, session⟩)).wr .CIP_SLOT_STAT_GEN [n] gen).wr .CIP_SLOT_USAGE_USAGE [n] 0).slotWrite
    n).setSlot n st

/-- R264, R267: a slot retires, to be written with new material or left empty. -/
def State.retire (s : State) (n : Nat) (next : Option Nat) : State :=
  (s.onSlot n (fun k => { k with next := next })).setSlot n 4

/-- R276: an event that names a slot. -/
def State.slotEvt (s : State) (r : Row) (n : Nat) : State := (s.wr .CIP_EVT_LAST_SLOT [] n).evt r

/-- R265: the soft limit in invocations. -/
def State.softLimit (s : State) : Nat := s.rd .CIP_LIMIT_SOFT * 2 ^ 20

/-- R265, R266: a slot's usage count rises: on a CURRENT slot the soft limit rings and the hard limit blocks. -/
def State.useSlot (s : State) (n usage : Nat) : State :=
  let old := s.rd .CIP_SLOT_USAGE_USAGE [n]
  let current := s.slotState n == 3
  let s := s.wr .CIP_SLOT_USAGE_USAGE [n] (min (2 ^ 31) usage)
  let s := s.when (current && decide (old < s.softLimit && s.softLimit ≤ usage)) (·.evt .CIP_EVT_ROLL_REQ)
  if current && decide (2 ^ 31 ≤ usage) then (s.setSlot n 5).slotEvt .CIP_EVT_BLOCKED n else s

/-! ### Derivation (R271) -/

/-- R271: the channel is in KEM mode. -/
def State.isKem (s : State) (ch : Nat) : Bool := s.flag .CIP_CH_CFG_MODE [ch]

/-- Change a wing's session. -/
def State.onSes (s : State) (w : Wing) (f : Session → Session) : State :=
  s.onCip (fun c => { c with sessions := c.sessions.set w (f (c.sessions.get w)) })

/-- R271: the next generation is derived into a slot, under the DEV_ID of the end that transmits with it; a filled receive slot
tells the far end. -/
def State.derive (s : State) (n : Nat) : State :=
  let w := chanWing (n / 4)
  let x := s.cip.sessions.get w
  let gen := tabGet 0 x.gens (n / 2)
  let key := channelKey x.secret (if n / 2 % 2 = 0 then s.devId else x.farId) (chanNum (n / 4)) x.number gen
  let s := s.onSes w (fun x => { x with gens := tabSet 0 x.gens (n / 2) (gen + 1) })
  if n / 2 % 2 = 0 then s.fillSlot n key gen x.number 1
  else (s.fillSlot n key gen x.number 2).sendGcc w (.keyReady (chanNum (n / 4)) x.number gen)

/-- R271: after the retirement of a KEM-mode slot, with a session. -/
def State.rederive (s : State) (n : Nat) : State :=
  let x := s.cip.sessions.get (chanWing (n / 4))
  if s.isKem (n / 4) && x.number != 0 && !s.isC0 then s.derive n else s

/-! ### Errors of the key and context memories (R370, R374) -/

/-- R265, R374: the transmit slot that a channel sends on is lost while the other phase is NEXT: a rollover is due. -/
def State.lostSlot (s : State) (n : Nat) : State :=
  let other := slotOf (n / 4) 0 (1 - n % 2)
  if n / 2 % 2 = 0 && (s.slotState n == 3 || s.slotState n == 5) && s.slotState other == 2 then
    s.onCip (fun c => { c with rollDue := n / 4 :: c.rollDue.erase (n / 4) })
  else s

/-- R374 m = 5: the slot ends EMPTY at once; what was open on it is abandoned. -/
def State.slotDamaged (s : State) (n : Nat) : State :=
  let s := s.lostSlot n
  let s := (s.ueControl (lineAt 5 n)).spoil (fun c => c.slot == n)
  ((s.zeroSlot n).slotEvt .CIP_EVT_RETIRED n).rederive n

/-- R370, R374: the key of a slot is read; true when it is damaged. -/
def State.readSlot (s : State) (n : Nat) : Bool × State :=
  match s.foundAt (lineAt 5 n) .clean with
  | .clean => (false, s)
  | .single => (false, s.correct (lineAt 5 n))
  | .double => (true, s.slotDamaged n)

/-- R374 m = 2: the segment that uses a context is abandoned. -/
def State.ctxDamaged (s : State) (l : MemLine) : State :=
  (s.ueControl l).spoil (fun c => lineAt 2 c.place == l)

/-! ### The pipelines (R273) -/

/-- R24, R273: up to 1,024 bytes of a context have been run: it is ready again, or closes; a received segment stays open
until its tag has been checked. -/
def State.ranCtx (s : State) (id : Nat) : State :=
  match s.cip.contexts.find? (fun c => c.id == id) with
  | none => s
  | some c =>
    if c.bytes ≤ 1024 && c.isRx then
      s.onCip (fun x => { x with contexts := x.contexts.map (fun y => if y.id = id then { y with bytes := 0 } else y) })
    else if c.bytes ≤ 1024 then (s.closeCtx (fun x => x.id == id)).native 11 c.ch 1
    else s.onCip (fun x => { x with
      contexts := x.contexts.map (fun y => if y.id = id then { y with bytes := y.bytes - 1024 } else y)
      ready := x.ready ++ [id] })

/-- R273: a run ends: a suspended context resumes, otherwise the pipeline takes the next ready one. -/
def State.runEnd (s : State) (p : Nat) : State :=
  let x := s.pipe p
  match x.run with
  | none => s
  | some k => ((s.setPipe p ⟨x.suspended, none⟩).ranCtx k).feedAll

/-- R370, R374, R273: PIPELINE_RUN_END: the context is read, and may be damaged. -/
def execPipelineRunEnd (p : Fin 16) (s : State) : Result :=
  let s := s.begin
  .next (if s.halted 4 then s
    else match (s.pipe p).run.bind (fun k => s.cip.contexts.find? (fun c => c.id == k)) with
      | none => s
      | some c =>
        match s.foundAt (lineAt 2 c.place) .clean with
        | .clean => s.runEnd p
        | .single => (s.correct (lineAt 2 c.place)).runEnd p
        | .double => s.ctxDamaged (lineAt 2 c.place))

/-- R273: the pipeline that an urgent context preempts: a bulk run with no suspended context, with the most bytes
left. -/
def State.victim (s : State) (left : List Nat) : Option Nat :=
  ((List.range 16).filter (fun p =>
    let x := s.pipe p
    x.suspended.isNone && (match x.run with
      | some k => !s.ctxUrgent k
      | none => false))).foldl
    (fun b p => match b with
      | none => some p
      | some q => if left.getD q 0 < left.getD p 0 then some p else some q) none

/-- R273: PREEMPT. -/
def execPreempt (left : List Nat) (s : State) : Result :=
  let s := s.begin
  let allBusy := (List.range 16).all (fun p => (s.pipe p).run.isSome)
  .next (if s.halted 4 || !allBusy then s
    else match s.cip.ready.find? s.ctxUrgent, s.victim left with
      | some k, some p =>
        (((s.setPipe p ⟨some k, (s.pipe p).run⟩).onCip (fun c => { c with ready := c.ready.erase k })).countWrap
          .CIP_PREEMPTS_COUNT []).showCtx
      | _, _ => s)

/-! ### Transmit segments (R256 to R260, R265) -/

/-- The phase of a channel's transmit direction whose slot is in a state; phase 0 first. -/
def State.txPhase (s : State) (ch st : Nat) : Option Nat :=
  [0, 1].find? (fun k => s.slotState (slotOf ch 0 k) == st)

/-- R260: a void segment, which carries KP = 0; R265: a rollover that was forced for this segment's start is ignored. -/
def State.voidSegment (s : State) (ch : Nat) : State :=
  let s := s.onCip (fun c => { c with rollDue := c.rollDue.erase ch })
  (((s.wrb .CIP_CH_STAT_TX_VOID [ch] true).wrb .CIP_CH_STAT_TX_KP [ch] false).say (.segment ch true 0 0)).boxBlocks ch
    (voidBlocks (s.rd .CIP_CH_CFG_SEG_LEN [ch]))

/-- R256 to R259: the next SEG_LEN + 1 blocks of a channel enter its container as a segment under a slot and counter; the model
takes them when the segment opens (assumption 69). -/
def State.sealNext (s : State) (ch n k counter : Nat) : State :=
  let len := s.rd .CIP_CH_CFG_SEG_LEN [ch]
  let r := s.nextBlocks ch (len + 1)
  r.2.boxBlocks ch (sealedSegment (tabGet KeySlot.empty s.cip.slots n).material (k == 1) counter len r.1)

/-- R265: a segment opens on the CURRENT slot of a phase: an invocation. -/
def State.keyedSegment (s : State) (ch k : Nat) : State :=
  let n := slotOf ch 0 k
  let usage := s.rd .CIP_SLOT_USAGE_USAGE [n]
  let s := ((s.wrb .CIP_CH_STAT_TX_VOID [ch] false).wr .CIP_CH_STAT_TX_KP [ch] k).openCtx ch n
  let s := ((s.say (.segment ch false n usage)).sealNext ch n k usage).useSlot n (usage + 1)
  s.when (decide (s.softLimit ≤ usage + 1) && s.slotState (slotOf ch 0 (1 - k)) != 2)
    (·.wrb .CIP_CH_STAT_ROLL_PEND [ch] true)

/-- R265: the slot of a phase becomes CURRENT; the other one, if it was in use, retires. -/
def State.rollTo (s : State) (ch k : Nat) : State :=
  let n := slotOf ch 0 k
  let o := slotOf ch 0 (1 - k)
  let st := s.slotState o
  let s := s.when (st == 3 || st == 5) (·.retire o none)
  let rolled := st == 3 || st == 5 || (st == 4 && !s.flag .CIP_CH_STAT_TX_VOID [ch]) || s.cip.rollDue.contains ch
  let s := (s.setSlot n 3).onCip (fun c => { c with rollDue := c.rollDue.erase ch })
  let s := s.wrb .CIP_CH_STAT_ROLL_PEND [ch] false
  s.when rolled (·.slotEvt .CIP_EVT_ROLLED n)

/-- R265: the phase that the next segment starts on, after a rollover where one is due; none for a void segment. -/
def State.openPhase (s : State) (ch : Nat) : Option Nat × State :=
  match s.txPhase ch 3, s.txPhase ch 5 with
  | some k, _ =>
    let due := s.cip.rollDue.contains ch || decide (s.softLimit ≤ s.rd .CIP_SLOT_USAGE_USAGE [slotOf ch 0 k])
    if due && s.slotState (slotOf ch 0 (1 - k)) == 2 then (some (1 - k), s.rollTo ch (1 - k))
    else (some k, s.onCip (fun c => { c with rollDue := c.rollDue.erase ch }))
  | none, some k =>
    if s.slotState (slotOf ch 0 (1 - k)) = 2 then (some (1 - k), s.rollTo ch (1 - k)) else (none, s)
  | none, none =>
    match s.txPhase ch 2 with
    | some k => (some k, s.rollTo ch k)
    | none => (none, s)

/-- R265: a transmit segment starts. -/
def State.txSegment (s : State) (ch : Nat) : State :=
  if s.halted 4 then s.voidSegment ch
  else
    let o := s.openPhase ch
    match o.1 with
    | none => o.2.voidSegment ch
    | some k =>
      let r := o.2.readSlot (slotOf ch 0 k)
      if r.1 then r.2.voidSegment ch else r.2.keyedSegment ch k

/-- R24, R228, R265, R276: SEGMENT_TX_START: the channel's L fields take their values. Under LCK the container takes no
segment. -/
def execSegmentTxStart (ch : Fin 64) (s : State) : Result :=
  let s := s.begin
  .next (if s.isC0 || !s.chanCipher ch || !s.chanEnabled ch || s.chanSlots ch == 0 || !s.wingRuns (chanWing ch) ||
        decide (4096 ≤ s.cip.contexts.length) || s.sentStat (chanWing ch) (chanNum ch) == 5 then s
    else
      let key := Row.key .CIP_CH_CFG_URGENT [ch]
      ({ s with inuse := tabErase s.inuse key }).txSegment ch)

/-- R265: ROLL. -/
def State.roll (s : State) (ch : Nat) : State :=
  match s.txPhase ch 3 with
  | some k =>
    if s.slotState (slotOf ch 0 (1 - k)) = 2 then
      s.onCip (fun c => { c with rollDue := ch :: c.rollDue.erase ch })
    else s
  | none => s

/-- R265: ROLL. -/
def execRoll (req : Req) (ch : Fin 64) (s : State) : Result := .next (s.begin.via req (·.roll ch))

/-! ### Received segments (R261, R262, R266) -/

/-- R267, R374: the present segment has no usable key: it is discarded, and counted once. -/
def State.noKey (s : State) (ch : Nat) : State :=
  (s.when (!s.cip.spoiled.contains ch) (·.count .CIP_NO_KEY_COUNT [ch])).endSegment ch false

/-- R261: the receiver aligns to segments. -/
def State.alignSegment (s : State) (ch : Nat) (confirmed : Bool) : State :=
  let n := if confirmed then tabGet 0 s.cip.confirms ch + 1 else 0
  let s := s.onCip (fun c => { c with confirms := tabSet 0 c.confirms ch n })
  if 2 ≤ n then
    (s.wrb .CIP_CH_STAT_SEG_LOCK [ch] true).onCip (fun c => { c with missed := tabErase c.missed ch })
  else s

/-- R266: the first segment with this phase on a NEXT slot makes it CURRENT, and the other one retires. -/
def State.rxRoll (s : State) (ch k : Nat) : State :=
  let n := slotOf ch 1 k
  let o := slotOf ch 1 (1 - k)
  if s.slotState n ≠ 2 then s
  else (s.when (s.slotState o == 3 || s.slotState o == 5) (·.retire o none)).setSlot n 3

/-- R261, R262, R266: a segment is decrypted and its tag checked. -/
def State.decrypt (s : State) (ch : Nat) (seg : Segment) : State :=
  let k := bitNat (ssbKp seg.ssb)
  let n := slotOf ch 1 k
  let s := s.rxRoll ch k
  if tagVerifies (tabGet KeySlot.empty s.cip.slots n).material seg then
    ((((s.count .CIP_SEG_OK_COUNT [ch]).wr .CIP_CH_STAT_RX_KP [ch] k).useSlot n (ssbCounter seg.ssb + 1)).endSegment ch true)
  else ((s.count .CIP_AUTH_FAIL_COUNT [ch]).evt .CIP_EVT_AUTH_FAIL).endSegment ch false

/-- R267: the channel's open receive segment was opened on a slot: it finishes on it, though the slot retires. -/
def State.openOn (s : State) (ch n : Nat) : Bool :=
  s.slotState n == 4 && s.cip.contexts.any (fun c => c.ch == ch && c.slot == n)

/-- R24, R261, R267: a segment at an expected position is decrypted, or discarded under its count; where no context is free it
waits. -/
def State.openSegment (s : State) (ch : Nat) (seg : Segment) : State :=
  let n := slotOf ch 1 (bitNat (ssbKp seg.ssb))
  let st := s.slotState n
  if s.cip.spoiled.contains ch then s.endSegment ch false
  else if ssbVoid seg.ssb then (s.wrb .CIP_CH_STAT_RX_VOID [ch] true).endSegment ch false
  else
    let s := s.wrb .CIP_CH_STAT_RX_VOID [ch] false
    if st ≠ 2 && st != 3 && !s.openOn ch n then s.noKey ch
    else if ssbCounter seg.ssb < s.rd .CIP_SLOT_USAGE_USAGE [n] then (s.count .CIP_SEQ_ERR_COUNT [ch]).endSegment ch false
    else if !s.rxCtx ch && decide (4096 ≤ s.cip.contexts.length) then s
    else
      let r := s.readSlot n
      if r.1 then r.2.noKey ch else (r.2.rxOpen ch).decrypt ch seg

/-- R261: a received segment. -/
def State.rxSegment (s : State) (ch : Nat) (seg : Segment) : State :=
  if !s.flag .CIP_CH_STAT_SEG_LOCK [ch] then (s.alignSegment ch (segConfirmed seg)).endSegment ch false
  else if !ssbOk seg.ssb then
    (s.onCip (fun c => { c with missed := tabSet 0 c.missed ch (tabGet 0 c.missed ch + 1) })).endSegment ch false
  else (s.onCip (fun c => { c with missed := tabErase c.missed ch })).openSegment ch seg

/-- R261: SEGMENT_RX. -/
def execSegmentRx (ch : Fin 64) (seg : Segment) (s : State) : Result :=
  let s := s.begin
  let w := chanWing ch
  .next (if s.isC0 || !s.chanCipher ch || !s.delivers w || s.rxSlots w (chanNum ch) == 0 || !s.wingRuns w ||
        s.halted 4 then s
    else s.rxSegment ch seg)

/-- R261: SEG_LOCK_LOSS. -/
def execSegLockLoss (ch : Fin 64) (s : State) : Result :=
  let s := s.begin
  .next (if s.flag .CIP_CH_STAT_SEG_LOCK [ch] && decide (3 ≤ tabGet 0 s.cip.missed ch) then
      ((((s.endSegment ch false).wrb .CIP_CH_STAT_SEG_LOCK [ch] false).wrb .CIP_CH_STAT_RX_VOID [ch] false).onCip
        (fun c => { c with confirms := tabErase c.confirms ch })).evt .CIP_EVT_SEG_LOSS
    else s)

/-! ### Retirement (R264, R267) -/

/-- R264: the end state after a LOAD: CURRENT when the channel direction has no other CURRENT slot. -/
def State.endState (s : State) (n : Nat) : Nat := if s.slotState (n ^^^ 1) = 3 then 2 else 3

/-- R264, R265: a slot whose retirement ends CURRENT: a BLOCKED slot of the other phase retires, and no rollover awaits NEXT any
more. -/
def State.becameCurrent (s : State) (n : Nat) : State :=
  let o := n ^^^ 1
  let s := s.when (s.slotState o == 5) (·.retire o none)
  s.when (n / 2 % 2 == 0) (·.wrb .CIP_CH_STAT_ROLL_PEND [n / 4] false)

/-- R267: a retirement completes. -/
def State.retired (s : State) (n : Nat) : State :=
  let next := (s.keySlot n).next
  let s := s.zeroSlot n
  let s := match next with
    | some key =>
      let e := s.endState n
      (s.fillSlot n key 0 0 e).when (e == 3) (·.becameCurrent n)
    | none => s
  let s := s.slotEvt .CIP_EVT_RETIRED n
  if next.isNone then s.rederive n else s

/-- R267: RETIREMENT_COMPLETE: nothing is open on the slot any more. -/
def execRetirementComplete (slot : Fin 256) (s : State) : Result :=
  let s := s.begin
  .next (if s.secRuns && s.slotState slot = 4 && !s.cip.contexts.any (fun c => c.slot == slot) then s.retired slot else s)

/-! ### The cupboard's commands (R269, R272, R274) -/

/-- R269: a command is refused. -/
def State.refuseKey (s : State) (reason : Nat) : State :=
  (s.wrb .SEC_KEY_STAT_REFUSED [] true).wr .SEC_KEY_STAT_REASON [] reason

/-- R407: a command of the cupboard transfers data at XFER_ADDR, through engine 7. -/
def usesDma (op : Nat) : Bool := decide (3 ≤ op)

/-- R269: a command that takes time runs. -/
def State.runKey (s : State) (op : Nat) : State :=
  ((s.wrb .SEC_KEY_STAT_BUSY [] true).onCip (fun c => { c with cmd := op })).when (usesDma op) (·.askDma .xfer)

/-- R264: a LOAD's material reaches a slot. -/
def State.loadSlot (s : State) (n key : Nat) : State :=
  match s.slotState n with
  | 0 => s.fillSlot n key 0 0 2
  | 3 => s.retire n (some key)
  | 4 => s.retire n (some key)
  | 5 => s.retire n (some key)
  | st => s.fillSlot n key 0 0 st

/-- R269: the first of the conditions on a LOAD that holds. -/
def State.loadReason (s : State) (slot : Nat) : Option Nat :=
  if s.isC0 then some 4
  else if s.flag .SEC_KEY_STAT_BUSY then some 6
  else if 255 < slot then some 2
  else if s.isKem (slot / 4) then some 5
  else if s.cip.kek.isNone then some 3
  else if s.unwrapped.isNone then some 1
  else none

/-- R269: a LOAD of the key and salt in KEY_DATA. -/
def State.keyLoad (s : State) (slot : Nat) : State :=
  match s.loadReason slot with
  | some r => s.refuseKey r
  | none => (s.loadSlot slot (s.unwrapped.getD 0)).runKey 1

/-- R269: KEY_LOAD. -/
def execKeyLoad (req : Req) (slot : Fin 512) (s : State) : Result := .next (s.begin.viaSec req (·.keyLoad slot))

/-- R264, R267, R269: an ERASE. -/
def State.keyErase (s : State) (n : Nat) : State :=
  if s.isC0 then s.refuseKey 4
  else if s.flag .SEC_KEY_STAT_BUSY then s.refuseKey 6
  else if 255 < n then s.refuseKey 2
  else if 3 ≤ s.slotState n then s.retire n none
  else s.zeroSlot n

/-- R267: KEY_ERASE. -/
def execKeyErase (req : Req) (slot : Fin 512) (s : State) : Result := .next (s.begin.viaSec req (·.keyErase slot))

/-- R269: LOAD_KEK of a fetched ciphertext; there is none when the DMA transfer is aborted or meets a read error. -/
def State.loadKek (s : State) (fetched : Option (List Nat)) : State :=
  if s.isC0 then s.refuseKey 4
  else if s.flag .SEC_KEY_STAT_BUSY then s.refuseKey 6
  else match fetched with
    | none => s.refuseKey 7
    | some c => (s.onCip (fun x => { x with kek := some (s.kekOf c), oldKek := x.kek })).runKey 3

/-- R269: LOAD_KEK. -/
def execLoadKek (req : Req) (fetched : Option (List Nat)) (s : State) : Result :=
  .next (s.begin.viaSec req (·.loadKek fetched))

/-- R269: a command that only reports; refused while the cupboard is busy. -/
def State.report (s : State) (op : Nat) : State :=
  if s.flag .SEC_KEY_STAT_BUSY then s.refuseKey 6 else s.runKey op

/-- R274: an ATTEST that is not refused takes its nonce from KEY_DATA[0] to [7]. -/
def State.takeNonce (s : State) : State :=
  if s.flag .SEC_KEY_STAT_BUSY then s
  else s.onCip (fun c => { c with nonce := (List.range 8).map (fun k => s.rd .SEC_KEY_DATA_BYTES [k]) })

/-- R274: an ATTEST. -/
def State.attest (s : State) : State := s.takeNonce.report 4

/-- R274: ATTEST. -/
def execAttest (req : Req) (s : State) : Result := .next (s.begin.viaSec req (·.attest))

/-- R272: GET_CERT. -/
def execGetCert (req : Req) (s : State) : Result := .next (s.begin.viaSec req (·.report 5))

/-- R269: GET_KEK_PUB. -/
def execGetKekPub (req : Req) (s : State) : Result := .next (s.begin.viaSec req (·.report 6))

/-- R4: GLB.ID. -/
def State.idWord (s : State) : Nat :=
  s.rd .GLB_ID_PART * 65536 + s.rd .GLB_ID_VARIANT * 4096 + s.rd .GLB_ID_STEPPING * 256 + s.rd .GLB_ID_CIPHER_FUSED

/-- R37: GLB.FP_INFO. -/
def State.fpWord (s : State) : Nat :=
  s.rd .GLB_FP_INFO_BUILD * 65536 + s.rd .GLB_FP_INFO_SVN * 1024 + s.rd .GLB_FP_INFO_SOURCE * 256 +
    s.rd .GLB_FP_INFO_TRIALS * 16 + s.rd .GLB_FP_INFO_CONFIRMED

/-- R274: the 256-byte body of an attestation (byte order: assumption 75). -/
def State.attestBody (s : State) : List Nat :=
  [0x44, 0x4B, 0x41, 0x54] ++ bytesMsb 4 s.idWord ++ bytesMsb 8 s.devId ++
    (List.range 8).flatMap (fun k => bytesMsb 4 (s.rd .GLB_FP_HASH_HASH [k])) ++ bytesMsb 4 s.fpWord ++
    bytesMsb 4 (s.fuses.svn * 2 ^ 24) ++ bytesMsb 8 s.mt ++ s.cip.nonce.flatMap (bytesMsb 4) ++ sha256Bytes s.kekPublic ++
    sha256Bytes ((List.range 256).map s.slotState) ++ List.replicate 96 0

/-- R269, R272, R274: what a command writes to host memory: an attestation, the certificate or the encapsulation key. -/
def State.reportData (s : State) (op : Nat) : Option (List Nat) :=
  match op with
  | 4 => some (signed (Config.identityKey s.devId) s.attestBody)
  | 5 => some s.certificate
  | 6 => some s.kekPublic
  | _ => none

/-- R277: the address that SEC reads and writes at. -/
def State.xferAddr (s : State) : Nat := s.rdWide .SEC_XFER_ADDR_LO_ADDR .SEC_XFER_ADDR_HI_ADDR

/-- R269, R272, R274: a command's data goes to host memory. -/
def State.writeReport (s : State) : State :=
  match s.reportData s.cip.cmd with
  | some data => s.say (.hostBlock s.xferAddr data)
  | none => s

/-- R269, R404: the key command that runs ends. -/
def State.endKey (s : State) : State :=
  (((s.when (usesDma s.cip.cmd) (·.endDma .xfer)).wrb .SEC_KEY_STAT_BUSY [] false).onCip
    (fun c => { c with cmd := 0, oldKek := none })).ring 5

/-- R24, R269: KEY_COMMAND_DONE: a command that transfers data completes once engine 7 serves it. -/
def execKeyCommandDone (s : State) : Result :=
  let s := s.begin
  .next (if s.secRuns && s.flag .SEC_KEY_STAT_BUSY && (!usesDma s.cip.cmd || s.dmaServes .xfer) then s.writeReport.endKey
    else s)

/-- R269, R400: host DMA breaks during a command of the cupboard: a LOAD_KEK is refused and keeps the previous KEK; what the
others do is not stated: they end without writing (DESIGN CHOICE, assumption 82). -/
def State.breakXfer (s : State) : State :=
  if !usesDma s.cip.cmd then s
  else if s.cip.cmd = 3 then ((s.onCip (fun c => { c with kek := c.oldKek })).refuseKey 7).endKey
  else s.endKey

/-! ### Sessions (R270 to R272) -/

/-- R404: SES_STAT.STATE takes a value; a change rings. -/
def State.setSes (s : State) (w : Wing) (st : Nat) : State :=
  if s.rd .SEC_SES_STAT_STATE [w.n] = st then s else (s.wr .SEC_SES_STAT_STATE [w.n] st).ring 5

/-- R19, R237, R270, R275: the wing may hold a session. -/
def State.sesMay (s : State) (w : Wing) (en : Bool) : Bool :=
  !s.isC0 && s.secRuns && en && s.flag .OHD_FR_STAT_IF [w.n] && s.wingRuns w

/-- R277: a session may start: SES_CFG applies from here on. -/
def State.sesOn (s : State) (w : Wing) : Bool := s.sesMay w (s.flag .SEC_SES_CFG_EN [w.n])

/-- R277: the session under way goes on under the SES_CFG that it started with. -/
def State.sesGoes (s : State) (w : Wing) : Bool := s.sesMay w (s.use .SEC_SES_CFG_EN [w.n] != 0)

/-- R277: SES_CFG takes force at the start of a session. -/
def State.takeSesCfg (s : State) (w : Wing) : State :=
  (s.releaseOne .SEC_SES_CFG_EN [w.n]).releaseOne .SEC_SES_CFG_PEER_CHK [w.n]

/-- R202, R272: the far end's DEV_ID, as far as it is known: from its certificate, else from the TAG of the intercom, else the
PEER_ID that the host expects; 0 when nothing tells it (DESIGN CHOICE, assumption 82). -/
def State.farDev (s : State) (w : Wing) : Nat :=
  let far := (s.cip.sessions.get w).farId
  let tag := s.rd .ICM_TAG_RX_BYTES [w.n, 0] * 2 ^ 32 + s.rd .ICM_TAG_RX_BYTES [w.n, 1]
  if far ≠ 0 then far
  else if tag ≠ 0 then tag
  else s.rdWide .SEC_PEER_ID_LO_ID .SEC_PEER_ID_HI_ID [w.n]

/-- R270: this end initiates: its DEV_ID is the lower one. -/
def State.initiates (s : State) (w : Wing) : Bool := decide (s.devId < s.farDev w)

/-- R270 step 1: the KE_INIT of a session: a nonce, the certificate, a fresh encapsulation key and the signature. The nonce and
the key pair are free values. -/
def State.makeInit (s : State) (w : Wing) (session : Nat) : KeMsg × State :=
  let nonce := s.fresh (2 ^ 256)
  let key := nonce.2.fresh (2 ^ 512)
  let m : KeMsg := ⟨bytesMsb 32 nonce.1, s.certificate, Config.kemPublic key.1, []⟩
  let m := { m with signature := signatureOf (Config.identityKey s.devId) (keBody 0 session m) }
  (m, key.2.onSes w (fun x => { x with step := 1, fault := 0, init := gccBody (.keInit session m), kem := key.1 }))

/-- R270 step 1: KE_INIT is sent. -/
def State.initSession (s : State) (w : Wing) : State :=
  let n := (s.rd .SEC_SES_STAT_SESSION [w.n] + 1) % 65536
  let r := (s.takeSesCfg w).makeInit w n
  ((r.2.wr .SEC_SES_STAT_SESSION [w.n] n).setSes w 1).sendGcc w (.keInit n r.1)

/-- R270: KE_INIT_SEND: in frame, enabled, no session and none being established. -/
def execKeInitSend (w : Wing) (s : State) : Result :=
  let s := s.begin
  .next (if s.sesOn w && s.initiates w && s.rd .SEC_SES_STAT_STATE [w.n] == 0 then s.initSession w else s)

/-- R270: SESSION_LIFE_EXPIRY. -/
def execSessionLifeExpiry (w : Wing) (s : State) : Result :=
  let s := s.begin
  .next (if s.sesOn w && s.initiates w && s.rd .SEC_SES_STAT_STATE [w.n] == 2 then s.initSession w else s)

/-- R270: a failed check waits for its KE_ABORT. -/
def State.sesFault (s : State) (w : Wing) (reason : Nat) : State :=
  (s.onSes w (fun x => { x with fault := reason })).setSes w 1

/-- R270 steps 2 and 3: the answer to a KE_INIT: the responder encapsulates to the key it carries, and SS follows. The nonce and
the encapsulation's randomness are free values. -/
def State.makeResp (s : State) (w : Wing) (session : Nat) (p : KeMsg) : KeMsg × State :=
  let nonce := s.fresh (2 ^ 256)
  let rand := nonce.2.fresh (2 ^ 256)
  let e := Config.encapsulate p.kem rand.1
  let init := gccBody (.keInit session p)
  let m : KeMsg := ⟨bytesMsb 32 nonce.1, s.certificate, e.1, []⟩
  let t := transcript init (keBody 1 session m)
  ({ m with signature := signatureOf (Config.identityKey s.devId) t }, rand.2.onSes w (fun x => { x with
    step := 2, newSecret := sessionSecret t e.2, farId := certId p.cert, fault := 0, init := init }))

/-- R270 step 2: KE_INIT_RX. The end with the lower DEV_ID initiates: a KE_INIT from an end whose DEV_ID is not the lower one is
not answered (DESIGN CHOICE, assumption 82). -/
def execKeInitRx (w : Wing) (session : Nat) (p : KeMsg) (s : State) : Result :=
  let s := s.begin
  let r := (s.takeSesCfg w).peerReason w p (keBody 0 session p)
  .next (if !s.sesOn w || decide (s.devId ≤ certId p.cert) then s
    else if r ≠ 0 then (s.takeSesCfg w).sesFault w r
    else
      let m := (s.takeSesCfg w).makeResp w session p
      ((m.2.wr .SEC_SES_STAT_SESSION [w.n] session).setSes w 1).sendGcc w (.keResp session m.1))

/-- R270 step 3: KE_RESP_RX: the signature is over the transcript; the initiator decapsulates, SS follows, and KE_FIN is sent. -/
def execKeRespRx (w : Wing) (p : KeMsg) (s : State) : Result :=
  let s := s.begin
  let x := s.cip.sessions.get w
  let n := s.rd .SEC_SES_STAT_SESSION [w.n]
  let t := transcript x.init (keBody 1 n p)
  let r := s.peerReason w p t
  .next (if !s.sesGoes w || x.step != 1 then s
    else if r ≠ 0 then s.sesFault w r
    else
      let ss := sessionSecret t (Config.decapsulate x.kem p.kem)
      (s.onSes w (fun x => { x with step := 3, newSecret := ss, farId := certId p.cert })).sendGcc w (.keFin n (roleMac ss true)))

/-- R271: the first generations go to the empty slots of a KEM-mode channel. -/
def State.deriveChan (s : State) (ch : Nat) : State :=
  if s.chanCipher ch && s.isKem ch then
    [0, 1, 2, 3].foldl (fun s k => if s.slotState (4 * ch + k) = 0 then s.derive (4 * ch + k) else s) s
  else s

/-- R270 step 4: the session is up, and keys are derived. -/
def State.sessionUp (s : State) (w : Wing) : State :=
  let n := s.rd .SEC_SES_STAT_SESSION [w.n]
  let s := s.onSes w (fun x => { x with step := 4, number := n, secret := x.newSecret, fault := 0, gens := [] })
  ((s.wr .SEC_SES_STAT_REASON [w.n] 0).setSes w 2).upTo 32 (fun s c => s.deriveChan (chanIndex w c))

/-- R270: KE_FIN_RX: the HMAC of the far end's role; the responder answers with its own KE_FIN. -/
def execKeFinRx (w : Wing) (mac : List Nat) (s : State) : Result :=
  let s := s.begin
  let x := s.cip.sessions.get w
  .next (if !s.sesGoes w || (x.step != 2 && x.step != 3) then s
    else if mac != roleMac x.newSecret (x.step == 2) then s.sesFault w 4
    else (s.when (x.step == 2) (·.sendGcc w (.keFin (s.rd .SEC_SES_STAT_SESSION [w.n]) (roleMac x.newSecret false)))).sessionUp w)

/-- R270: KE_ABORT, after a failed check or 4 s. -/
def execKeAbort (w : Wing) (s : State) : Result :=
  let s := s.begin
  let f := (s.cip.sessions.get w).fault
  .next (if s.secRuns && s.rd .SEC_SES_STAT_STATE [w.n] == 1 then
      let s := s.onSes w (fun x => { x with step := 0, fault := 0 })
      ((s.wr .SEC_SES_STAT_REASON [w.n] (if f = 0 then 5 else f)).setSes w 3).sendGcc w
        (.keAbort (s.rd .SEC_SES_STAT_SESSION [w.n]))
    else s)

/-- R270: SESSION_RETRY. -/
def execSessionRetry (w : Wing) (s : State) : Result :=
  let s := s.begin
  .next (if !s.secRuns || s.rd .SEC_SES_STAT_STATE [w.n] != 3 then s
    else if s.sesOn w && s.initiates w then s.initSession w
    else s.setSes w 0)

/-- R271: a PENDING transmit slot whose generation and session match becomes NEXT. -/
def State.keyReady (s : State) (n session gen : Nat) : State :=
  if s.slotState n = 1 && s.rd .CIP_SLOT_STAT_GEN [n] == gen && (s.keySlot n).session == session then s.setSlot n 2 else s

/-- R271: KEY_READY_RX. -/
def execKeyReadyRx (w : Wing) (ch : Fin 32) (session gen : Nat) (s : State) : Result :=
  let s := s.begin
  let c := chanIndex w ch
  .next (if s.sesGoes w then (s.keyReady (slotOf c 0 0) session gen).keyReady (slotOf c 0 1) session gen else s)

/-! ### Zeroisation (R263) -/

/-- R263, R275: a wing's 128 slots are zeroised and its session ends; the frames that await one of its tags are discarded. -/
def State.zeroiseWing (s : State) (w : Wing) : State :=
  let s := (s.upTo 32 (fun s c => s.endSegment (chanIndex w c) false)).closeCtx (fun c => chanWing c.ch == w)
  let s := s.upTo 128 (fun s k => s.zeroSlot (128 * w.n + k))
  let s := s.upTo 32 (fun s c => s.zero [.CIP_CH_STAT_SEG_LOCK, .CIP_CH_STAT_TX_VOID, .CIP_CH_STAT_RX_VOID,
    .CIP_CH_STAT_TX_KP, .CIP_CH_STAT_RX_KP, .CIP_CH_STAT_ROLL_PEND] [chanIndex w c])
  let s := s.onCip (fun c => { c with
    confirms := c.confirms.filter (fun e => chanWing e.1 != w)
    missed := c.missed.filter (fun e => chanWing e.1 != w)
    rollDue := c.rollDue.filter (fun ch => chanWing ch != w)
    spoiled := c.spoiled.filter (fun ch => chanWing ch != w) })
  ((s.onSes w (fun _ => Session.reset)).zero [.SEC_SES_STAT_REASON, .SEC_SES_STAT_SESSION] [w.n]).when (!s.isC0) (·.setSes w 0)

/-- R263, R269: every slot and the KEK are zeroised. -/
def State.zeroise (s : State) : State := ((s.zeroiseWing .a).zeroiseWing .b).onCip (fun c => { c with kek := none })

end Sys2Proof.Machine
end

