-- ==== Sys2Proof/Machine/Lanes.lean ====
section
/-!
DEFINITION. The client and corridor lanes: bring-up, figures of merit, failures and the states of their halves (R319 to
R331).
-/

namespace Sys2Proof.Machine

/-- The row of a client lane's field, or of a corridor lane's. -/
def laneRow (cor : Bool) (sds corr : Row) : Row := if cor then corr else sds

/-- R319: how many lanes the family has. -/
def laneCount (cor : Bool) : Nat := if cor then 16 else 32

/-- The lanes' own records. -/
def State.laneSet (s : State) (cor : Bool) : LaneSet := if cor then s.corLanes else s.sds

/-- Change the lanes' own records. -/
def State.onLanes (s : State) (cor : Bool) (f : LaneSet → LaneSet) : State :=
  if cor then { s with corLanes := f s.corLanes } else { s with sds := f s.sds }

/-- One bit of a bitmap. -/
def putBit (m l : Nat) (b : Bool) : Nat := if b then setBit m l else clearBit m l

/-- R321: LANE_STAT.STAGE. -/
def State.stage (s : State) (cor : Bool) (l : Nat) : Nat := s.rd (laneRow cor .SDS_LANE_STAT_STAGE .COR_LANE_STAT_STAGE) [l]

/-- R327: the receive half: 0 ON, 1 QUIET, 2 OFF. -/
def State.rxHalf (s : State) (cor : Bool) (l : Nat) : Nat :=
  s.rd (laneRow cor .SDS_LANE_STAT_RX_HALF .COR_LANE_STAT_RX_HALF) [l]

/-- R324, R412: the lanes of the port that a lane belongs to; none when it belongs to no port. -/
def State.portMates (s : State) (cor : Bool) (l : Nat) : List Nat :=
  if cor then (List.range 4).map (4 * (l / 4) + ·)
  else match (List.range 32).find? (fun p => s.portDefined p && (s.portLanes p).contains l) with
    | some p => s.portLanes p
    | none => []

/-- R282: the link of a client lane's port follows. -/
def State.laneLink (s : State) (cor : Bool) (l : Nat) : State :=
  if cor then s
  else match (List.range 32).find? (fun p => s.portDefined p && (s.portLanes p).contains l) with
    | some p => s.refreshLink p
    | none => s

/-- R330: UP_CHANGE of a lane. -/
def State.upChange (s : State) (cor : Bool) (l : Nat) : State :=
  (s.evt (laneRow cor .SDS_EVT_UP_CHANGE .COR_LANE_EVT_UP_CHANGE) [] l).laneLink cor l

/-- R321, R326: a lane's stage; entering or leaving UP rings. -/
def State.setStage (s : State) (cor : Bool) (l st : Nat) : State :=
  let was := s.stage cor l
  let s := s.wr (laneRow cor .SDS_LANE_STAT_STAGE .COR_LANE_STAT_STAGE) [l] st
  if (was = 7) = (st = 7) then s else s.upChange cor l

/-- A lane's own records. -/
def State.markLane (s : State) (cor : Bool) (l : Nat) (waiting kept warm : Bool) : State :=
  s.onLanes cor (fun x => { x with
    waiting := putBit x.waiting l waiting, kept := putBit x.kept l kept, warm := putBit x.warm l warm })

/-- R323: the adapted taps, from the list of all 24. -/
def State.setTaps (s : State) (cor : Bool) (l : Nat) (taps : List Int) : State :=
  s.upTo 6 (fun s k =>
    let t (m : Nat) : Int := taps.getD (4 * k + m) 0
    (((s.wrS (laneRow cor .SDS_DFE_ADAPT_TAP_0 .COR_DFE_ADAPT_TAP_0) [l, k] (t 0)).wrS
      (laneRow cor .SDS_DFE_ADAPT_TAP_1 .COR_DFE_ADAPT_TAP_1) [l, k] (t 1)).wrS
      (laneRow cor .SDS_DFE_ADAPT_TAP_2 .COR_DFE_ADAPT_TAP_2) [l, k] (t 2)).wrS
      (laneRow cor .SDS_DFE_ADAPT_TAP_3 .COR_DFE_ADAPT_TAP_3) [l, k] (t 3))

/-- R323: the adapted taps. -/
def State.taps (s : State) (cor : Bool) (l : Nat) : List Int :=
  (List.range 6).flatMap (fun k =>
    [s.rdS (laneRow cor .SDS_DFE_ADAPT_TAP_0 .COR_DFE_ADAPT_TAP_0) [l, k],
      s.rdS (laneRow cor .SDS_DFE_ADAPT_TAP_1 .COR_DFE_ADAPT_TAP_1) [l, k],
      s.rdS (laneRow cor .SDS_DFE_ADAPT_TAP_2 .COR_DFE_ADAPT_TAP_2) [l, k],
      s.rdS (laneRow cor .SDS_DFE_ADAPT_TAP_3 .COR_DFE_ADAPT_TAP_3) [l, k]])

/-- R321, R323: the CTLE index in use. -/
def State.setCtle (s : State) (cor : Bool) (l i : Nat) : State := s.onLanes cor (fun x => { x with ctle := tabSet 0 x.ctle l i })

/-- R323: the three fixed taps. -/
def State.fixedTaps (s : State) (cor : Bool) (l : Nat) : List Int :=
  [s.rdS (laneRow cor .SDS_DFE_FIX_T1 .COR_DFE_FIX_T1) [l], s.rdS (laneRow cor .SDS_DFE_FIX_T2 .COR_DFE_FIX_T2) [l],
    s.rdS (laneRow cor .SDS_DFE_FIX_T3 .COR_DFE_FIX_T3) [l]]

/-- R321 step 1: a lane starts over. -/
def State.laneStart (s : State) (cor : Bool) (l : Nat) : State :=
  let s := (s.markLane cor l false false false).zero
    [laneRow cor .SDS_LANE_STAT_RX_INV .COR_LANE_STAT_RX_INV, laneRow cor .SDS_LANE_STAT_ADAPTIVE .COR_LANE_STAT_ADAPTIVE,
      laneRow cor .SDS_LANE_STAT_REVERSED .COR_LANE_STAT_REVERSED] [l]
  s.setStage cor l 0

/-- R16: the island of a lane. -/
def laneIsland (cor : Bool) (l : Nat) : Nat := if cor then 23 else if l < 16 then 21 else 22

/-- The lane is enabled with its receive half ON, and its island is not failed. -/
def State.laneRuns (s : State) (cor : Bool) (l : Nat) : Bool :=
  decide (l < laneCount cor) && !s.islandFailed (laneIsland cor l) && s.flag (laneRow cor .SDS_LANE_CTL_ENABLE .COR_LANE_CTL_ENABLE) [l] &&
    s.rxHalf cor l == 0

/-- R22: the control core sequences the bring-up of a lane that runs. -/
def State.laneSeq (s : State) (cor : Bool) (l : Nat) : Bool := s.laneRuns cor l && s.coreRuns

/-- R321: LANE_SIGNAL_DETECT: the CDR starts with the CTLE at mid index. -/
def execLaneSignalDetect (cor : Bool) (l : Fin 32) (s : State) : Result :=
  let s := s.begin
  .next (if s.laneSeq cor l && s.stage cor l == 0 then (s.setCtle cor l 16).setStage cor l 1 else s)

/-! ### Steps (R321 to R324) -/

/-- R321: step 6 is complete on every lane of the port: the waiting ones go to step 7. -/
def State.deskew (s : State) (cor : Bool) (l : Nat) : State :=
  let mates := s.portMates cor l
  if mates.isEmpty || !mates.all (fun m => (s.laneSet cor).waiting.testBit m || s.stage cor m == 7) then s
  else (mates.filter ((s.laneSet cor).waiting.testBit ·)).foldl (fun s m => s.setStage cor m 6) s

/-- R321: a lane has completed step 6. -/
def State.passSix (s : State) (cor : Bool) (l : Nat) : State :=
  ((s.onLanes cor (fun x => { x with waiting := setBit x.waiting l }))).deskew cor l

/-- R322: FOM_MIN, in 0.01 dB. -/
def State.fomMin (s : State) (cor : Bool) (l : Nat) : Int := 10 * s.rd (laneRow cor .SDS_RXEQ_FOM_MIN .COR_RXEQ_FOM_MIN) [l]

/-- R322: the FOM of a measurement in 0.01 dB: 10 log10(5 / mean(e²)). -/
def fomOf (m : SlicerRun) : Int := centibel (5 * 2 ^ 40) m.errSq

/-- R322: a FOM measurement replaces LANE_FOM. -/
def State.setFom (s : State) (cor : Bool) (l : Nat) (m : SlicerRun) : State :=
  s.wrS (laneRow cor .SDS_LANE_FOM_FOM .COR_LANE_FOM_FOM) [l] (fomOf m)

/-- R323: the taps move within the ranges of DFE_ADAPT, and the CTLE index by at most one step. -/
def State.adaptBy (s : State) (cor : Bool) (l : Nat) (m : SlicerRun) : State :=
  let i : Int := tabGet 0 (s.laneSet cor).ctle l + clampInt (-1) 1 m.ctle
  (s.setTaps cor l ((s.taps cor l).mapIdx (fun k t => clampInt (-128) 127 (t + m.moves.getD k 0)))).setCtle cor l
    (clampInt 0 31 i).toNat

/-- R323: the DFE of a lane adapts from its fixed taps. -/
def State.adapt (s : State) (cor : Bool) (l : Nat) : State :=
  (s.wrb (laneRow cor .SDS_LANE_STAT_ADAPTIVE .COR_LANE_STAT_ADAPTIVE) [l] true).setTaps cor l (s.fixedTaps cor l)

/-- R321 step 5: the FOM decides between step 7 and adapting. -/
def State.stepFom (s : State) (cor : Bool) (l : Nat) (r : LaneResult) : State :=
  let s := s.setFom cor l r.run
  if fomOf r.run < s.fomMin cor l || s.flag (laneRow cor .SDS_LANE_CTL_FORCE_ADAPT .COR_LANE_CTL_FORCE_ADAPT) [l] then
    (s.adapt cor l).setStage cor l 5
  else s.passSix cor l

/-- R321 step 6, R323: a measurement after adapting. -/
def State.stepAdapt (s : State) (cor : Bool) (l : Nat) (r : LaneResult) : State :=
  let s := (s.setFom cor l r.run).adaptBy cor l r.run
  if fomOf r.run < s.fomMin cor l then s else s.passSix cor l

/-- R325: a lane fails with a reason. -/
def State.failLane (s : State) (cor : Bool) (l reason : Nat) : State :=
  let s := (s.markLane cor l false false false).setStage cor l 15
  let s := (s.wr (laneRow cor .SDS_LANE_STAT_FAIL_REASON .COR_LANE_STAT_FAIL_REASON) [l] reason).countWrap
    (laneRow cor .SDS_LANE_CNT_FAILS .COR_LANE_CNT_FAILS) [l]
  s.emit (laneIsland cor l) l (reasonCode (if cor then 0xD else 0xC) reason)

/-- R325: a failed step 7 fails every lane of the port. -/
def State.failPort (s : State) (cor : Bool) (l reason : Nat) : State :=
  (s.portMates cor l).foldl (fun s m => s.failLane cor m reason) s

/-- R321 step 8: a lane is up. -/
def State.laneIsUp (s : State) (cor : Bool) (l : Nat) : State :=
  let s := (s.markLane cor l false false false).wr (laneRow cor .SDS_LANE_STAT_FAIL_REASON .COR_LANE_STAT_FAIL_REASON)
    [l] 0
  (s.countWrap (laneRow cor .SDS_LANE_CNT_BRINGUPS .COR_LANE_CNT_BRINGUPS) [l]).setStage cor l 7

/-- R324: the order of a port's lanes: 0 straight, 1 reversed, 2 any other. -/
def laneOrder (w : Nat) (marks : List Nat) : Nat :=
  if marks = List.range w then 0 else if marks = (List.range w).reverse then 1 else 2

/-- R321 step 7, R324: the port's lanes are deskewed and their order is checked. -/
def State.stepDeskew (s : State) (cor : Bool) (l : Nat) (r : LaneResult) : State :=
  let mates := s.portMates cor l
  let order := laneOrder mates.length r.marks
  if 2 ≤ order then s.failPort cor l 5
  else
    let s := mates.foldl (fun s m => s.wr (laneRow cor .SDS_LANE_STAT_REVERSED .COR_LANE_STAT_REVERSED) [m] order) s
    (mates.filter (fun m => s.stage cor m == 6)).foldl (fun s m => s.laneIsUp cor m) s

/-- R321: a step of a lane completes; a lane that waits for its port has none. -/
def State.laneStep (s : State) (cor : Bool) (l : Nat) (r : LaneResult) : State :=
  if (s.laneSet cor).waiting.testBit l && s.stage cor l != 6 then s
  else match s.stage cor l with
    | 1 => s.setStage cor l 2
    | 2 =>
      let s := s.wrb (laneRow cor .SDS_LANE_STAT_RX_INV .COR_LANE_STAT_RX_INV) [l] r.inverted
      if (s.laneSet cor).warm.testBit l then s.passSix cor l else s.setStage cor l 3
    | 3 => (s.setCtle cor l (s.rd (laneRow cor .SDS_RXEQ_CTLE .COR_RXEQ_CTLE) [l])).setStage cor l 4
    | 4 => s.stepFom cor l r
    | 5 => s.stepAdapt cor l r
    | 6 => s.stepDeskew cor l r
    | _ => s

/-- R321: LANE_STEP_COMPLETE. -/
def execLaneStepComplete (cor : Bool) (l : Fin 32) (r : LaneResult) (s : State) : Result :=
  let s := s.begin
  .next (if s.laneSeq cor l then s.laneStep cor l r else s)

/-- R325: the stage in which a reason arises. -/
def failStage (reason : Nat) : Nat :=
  match reason with
  | 1 => 1
  | 2 => 2
  | 3 => 5
  | _ => 6

/-- R325: LANE_FAIL. -/
def execLaneFail (cor : Bool) (l : Fin 32) (reason : Fin 16) (s : State) : Result :=
  let s := s.begin
  let r : Nat := reason
  .next (if !s.laneSeq cor l || r = 0 || decide (5 < r) || s.stage cor l != failStage r then s
    else if 4 ≤ r then s.failPort cor l r
    else s.failLane cor l r)

/-- R325: after a failure the lane restarts, or for LANE_ORDER and DESKEW the whole port. -/
def State.retryLane (s : State) (cor : Bool) (l : Nat) : State :=
  let again (s : State) (m : Nat) : State :=
    if s.laneRuns cor m && s.stage cor m == 15 then s.laneStart cor m else s
  if 4 ≤ s.rd (laneRow cor .SDS_LANE_STAT_FAIL_REASON .COR_LANE_STAT_FAIL_REASON) [l] then
    (s.portMates cor l).foldl again s
  else again s l

/-- R325: LANE_RETRY. -/
def execLaneRetry (cor : Bool) (l : Fin 32) (s : State) : Result :=
  let s := s.begin
  .next (if s.stage cor l == 15 && s.coreRuns then s.retryLane cor l else s)

/-- R325: RESTART. -/
def State.restartLane (s : State) (cor : Bool) (l : Nat) : State := s.when (s.laneRuns cor l) (·.laneStart cor l)

/-- R325: LANE_RESTART. -/
def execLaneRestart (req : Req) (cor : Bool) (l : Fin 32) (s : State) : Result := .next (s.begin.via req (·.restartLane cor l))

/-- R326, R331: LANE_DOWN: an up lane starts over; a quiet one loses its kept state. -/
def execLaneDown (cor : Bool) (l : Fin 32) (s : State) : Result :=
  let s := s.begin
  .next (if s.laneRuns cor l && s.stage cor l == 7 then s.laneStart cor l
    else if s.rxHalf cor l = 1 then s.markLane cor l false false false
    else s)

/-- R322, R323: after step 5 each result replaces FOM, and an adaptive DFE goes on adapting. -/
def State.measureLane (s : State) (cor : Bool) (l : Nat) (m : SlicerRun) : State :=
  let st := s.stage cor l
  if decide (5 ≤ st && st ≤ 7) || (s.laneSet cor).waiting.testBit l then
    (s.setFom cor l m).when (s.flag (laneRow cor .SDS_LANE_STAT_ADAPTIVE .COR_LANE_STAT_ADAPTIVE) [l]) (·.adaptBy cor l m)
  else s

/-! ### Test patterns (R329) -/

/-- R329: one symbol of the pattern checker: whether it is locked, its run and the errors counted. -/
def checkSymbol (c : Bool × Nat × Nat) (bad : Bool) : Bool × Nat × Nat :=
  match c with
  | (true, run, n) => if bad then (if 63 ≤ run then (false, 0, n + 1) else (true, run + 1, n + 1)) else (true, 0, n)
  | (false, run, n) => if bad then (false, 0, n) else if 63 ≤ run then (true, 0, n) else (false, run + 1, n)

/-- R329: the checker of a lane sees the symbols of a measurement; with its pattern off it holds no lock. -/
def State.checkPattern (s : State) (cor : Bool) (l : Nat) (m : SlicerRun) : State :=
  let lock := laneRow cor .SDS_LANE_STAT_PRBS_LOCK .COR_LANE_STAT_PRBS_LOCK
  if s.rd (laneRow cor .SDS_PRBS_CTL_RX_PAT .COR_PRBS_CTL_RX_PAT) [l] = 0 then
    (s.wrb lock [l] false).onLanes cor (fun x => { x with prbs := tabErase x.prbs l })
  else
    let c := m.errored.foldl checkSymbol (s.flag lock [l], tabGet 0 (s.laneSet cor).prbs l, 0)
    ((s.wrb lock [l] c.1).count (laneRow cor .SDS_PRBS_ERR_COUNT .COR_PRBS_ERR_COUNT) [l] c.2.2).onLanes cor
      (fun x => { x with prbs := tabSet 0 x.prbs l c.2.1 })

/-- R322, R329: FOM_MEASURE. -/
def execFomMeasure (cor : Bool) (l : Fin 32) (run : SlicerRun) (s : State) : Result :=
  let s := s.begin
  .next (if s.laneRuns cor l then (s.measureLane cor l run).checkPattern cor l run else s)

/-- R329: Gray-coded PAM4 levels, 0 to 3, of bits. -/
def pam4 : List Bool → List Nat
  | a :: b :: bs => (if a then (if b then 2 else 3) else bitNat b) :: pam4 bs
  | _ => []

/-- R329: the first `n` symbols of a pattern; SSPRQ is Config's, and the square wave starts high (assumption 70). -/
def patternSymbols (pat n : Nat) : List Nat :=
  match pat with
  | 1 => pam4 (shiftBits [7, 6] (2 * n))
  | 2 => pam4 (shiftBits [9, 5] (2 * n))
  | 3 => pam4 (shiftBits [13, 12, 2, 1] (2 * n))
  | 4 => pam4 (shiftBits [31, 28] (2 * n))
  | 5 => (List.range n).map (fun k => Config.ssprq k % 4)
  | _ => (List.range n).map (fun k => if k % 8 < 4 then 3 else 0)

/-- R324, R327, R329: what a lane's pattern generator sends, `n` symbols from its start, in its transmit polarity; none when
the lane sends traffic or its transmit half is not ON. -/
def State.laneSends (s : State) (cor : Bool) (l n : Nat) : Option (List Nat) :=
  let pat := s.rd (laneRow cor .SDS_PRBS_CTL_TX_PAT .COR_PRBS_CTL_TX_PAT) [l]
  if pat = 0 || s.rd (laneRow cor .SDS_LANE_STAT_TX_HALF .COR_LANE_STAT_TX_HALF) [l] != 0 then none
  else some ((patternSymbols pat n).map (fun x =>
    if s.flag (laneRow cor .SDS_LANE_CTL_TX_INV .COR_LANE_CTL_TX_INV) [l] then 3 - x else x))

/-- R323: LANE_ADAPT_START. -/
def execLaneAdaptStart (cor : Bool) (l : Fin 32) (s : State) : Result :=
  let s := s.begin
  .next (if s.laneSeq cor l && s.stage cor l == 7 &&
        !s.flag (laneRow cor .SDS_LANE_STAT_ADAPTIVE .COR_LANE_STAT_ADAPTIVE) [l] &&
        decide (s.rdS (laneRow cor .SDS_LANE_FOM_FOM .COR_LANE_FOM_FOM) [l] < s.fomMin cor l) then s.adapt cor l
    else s)

/-! ### Halves (R327, R328) -/

/-- R328: the lanes' settings apply: Run or Idle, once the lanes have begun their bring-up. -/
def State.lanesPowered (s : State) : Bool := s.isRunning && decide (s.power.state ≤ 1)

/-- R327: the state that a half is to be in. -/
def State.halfWanted (s : State) (cor : Bool) (l : Nat) (sds corr : Row) : Nat :=
  if s.lanesPowered && s.flag (laneRow cor .SDS_LANE_CTL_ENABLE .COR_LANE_CTL_ENABLE) [l] then
    min 2 (s.rd (laneRow cor sds corr) [l])
  else 2

/-- R327: the receive half changes. -/
def State.setRxHalf (s : State) (cor : Bool) (l st : Nat) : State :=
  let was := s.rxHalf cor l
  let s := s.wr (laneRow cor .SDS_LANE_STAT_RX_HALF .COR_LANE_STAT_RX_HALF) [l] st
  if was = st then s
  else match st with
    | 0 =>
      if (s.laneSet cor).kept.testBit l then (s.markLane cor l false false true).setStage cor l 1
      else s.laneStart cor l
    | 1 =>
      let kept := s.stage cor l == 7
      (s.setStage cor l 0).markLane cor l false kept false
    | _ => (s.setStage cor l 8).markLane cor l false false false

/-- R327, R328: a lane's halves take the states that its settings and the module's state give. -/
def State.applyLane (s : State) (cor : Bool) (l : Nat) : State :=
  let tx := s.halfWanted cor l .SDS_LANE_CTL_TX_STATE .COR_LANE_CTL_TX_STATE
  let rx := s.halfWanted cor l .SDS_LANE_CTL_RX_STATE .COR_LANE_CTL_RX_STATE
  (((s.wr (laneRow cor .SDS_LANE_STAT_TX_HALF .COR_LANE_STAT_TX_HALF) [l] tx).setRxHalf cor l rx)).laneLink cor l

/-- R321, R328: every lane. -/
def State.applyLanes (s : State) : State := (s.upTo 32 (fun s l => s.applyLane false l)).upTo 16 (fun s l => s.applyLane true l)

end Sys2Proof.Machine
end

