-- ==== Sys2Proof/Machine/References.lean ====
section
/-!
DEFINITION. The DPLL: candidates, selection, holdover, transmitted quality and the REFOUT pins (R333 to R344, R349).
Offsets of candidates are in 0.01 ppm, the output's in 0.001 ppm, as their registers hold them.
-/

namespace Sys2Proof.Machine

/-- R342: REF.STAT.STATE: 0 free-run, 1 acquiring, 2 locked, 3 and 4 holdover, 5 switching, 7 fault. -/
def State.refState (s : State) : Nat := s.rd .REF_STAT_STATE

/-- R342: the pins REF_STATE[2:0]. -/
def State.refStatePins (s : State) : Nat := s.refState

/-- R342: the pins REF_ACT[2:0]. -/
def State.refActPins (s : State) : Nat := s.rd .REF_STAT_ACTIVE

/-- R342: a new state rings. -/
def State.setRef (s : State) (st : Nat) : State :=
  if st = s.refState then s else (s.wr .REF_STAT_STATE [] st).evt .REF_EVT_STATE_CHANGE

/-- R342: ACTIVE takes a value; a change rings. -/
def State.setActive (s : State) (a : Nat) : State :=
  if a = s.rd .REF_STAT_ACTIVE then s else (s.wr .REF_STAT_ACTIVE [] a).evt .REF_EVT_ACT_CHANGE

/-- R343: the transmitted QL. -/
def State.txQl (s : State) : Nat :=
  if s.refState = 2 then s.candQl (s.rd .REF_STAT_ACTIVE)
  else if s.refState = 5 then s.candQl (s.rd .REF_STAT_TARGET)
  else if s.flag .REF_CFG_QL_OPT then 10 else 11

/-- R343: TX_QL follows; a change rings. -/
def State.showQl (s : State) : State :=
  if s.txQl = s.rd .REF_STAT_TX_QL then s else (s.wr .REF_STAT_TX_QL [] s.txQl).evt .REF_EVT_TX_QL_CHANGE

/-- R344: the REFOUT pin of a number carries its frequency, and is neither off nor squelched. -/
def State.refoutOn (s : State) (j : Nat) : Bool :=
  let st := s.refState
  s.flag .REF_OUT_CFG_EN [j] && st != 7 &&
    !(s.flag .REF_OUT_CFG_SQ_HO [j] && (st == 0 || st == 1 || st == 4)) &&
    !(s.flag .REF_OUT_CFG_SQ_QL [j] && decide (s.rankQl (s.rd .REF_CFG_QL_MIN) < s.rankQl (s.rd .REF_STAT_TX_QL)))

/-! ### Selection (R337 to R339) -/

/-- A candidate's place among the eligible ones: its QL rank, then its PRIO; the smaller is the better. -/
def State.candRank (s : State) (i : Nat) : Nat := 16 * s.rankQl (s.candQl i) + s.rd .REF_CAND_PRIO [i]

/-- The eligible candidates. -/
def State.eligibleCands (s : State) : List Nat := (List.range 8).filter s.candEligible

/-- R337: the candidates of the best rank. -/
def State.bestCands (s : State) : List Nat :=
  let e := s.eligibleCands
  e.filter (fun i => e.all (fun j => decide (s.candRank i ≤ s.candRank j)))

/-- A candidate's offset. -/
def State.candOffset (s : State) (i : Nat) : Int := s.rdS .REF_CAND_STAT_OFFSET [i]

/-- R337: DISAGREE_TH in 0.01 ppm. -/
def State.disagreeTh (s : State) : Nat := 10 * max 1 (s.rd .REF_CFG_DISAGREE_TH)

/-- R337: two members of the best set differ by more than DISAGREE_TH. -/
def State.disagree (s : State) (b : List Nat) : Bool :=
  b.any (fun i => b.any (fun j => decide (s.disagreeTh < (s.candOffset i - s.candOffset j).natAbs)))

/-- R337: the local oscillator's estimate, in 0.001 ppm. -/
def State.estimate (s : State) : Int :=
  if s.refState = 3 || s.refState == 4 then s.rdS .REF_STAT_OFFSET else 0

/-- R337: the member of a set whose offset is nearest the estimate; of several, the lowest-numbered. -/
def State.nearest (s : State) : List Nat → Option Nat
  | [] => none
  | i :: rest =>
    some (rest.foldl (fun b j =>
      if (10 * s.candOffset j - s.estimate).natAbs < (10 * s.candOffset b - s.estimate).natAbs then j else b) i)

/-- R337: FORCE_SEL is in force. -/
def State.forced (s : State) : Option Nat :=
  let f := s.rd .REF_CFG_FORCE_SEL
  if s.flag .REF_CFG_FORCE_EN && s.flag .REF_CAND_STAT_QUALIFIED [f] && s.rd .REF_CAND_PRIO [f] != 0 then some f
  else none

/-- R337: the candidate that the DPLL follows, if it follows one. -/
def State.activeCand (s : State) : Option Nat := if s.follows then some (s.rd .REF_STAT_ACTIVE) else none

/-- R337: the active candidate stays the target. -/
def State.keepsActive (s : State) (a : Nat) : Bool :=
  s.candEligible a && (!s.flag .REF_CFG_REVERT || s.bestCands.contains a)

/-- R337: want_target(). -/
def State.wantTarget (s : State) : Option Nat :=
  match s.forced with
  | some f => some f
  | none =>
    let b := s.bestCands
    match s.activeCand with
    | some a => if s.keepsActive a then some a else if s.disagree b then s.nearest b else b.head?
    | none => if s.disagree b then s.nearest b else b.head?

/-- R337: DISAGREE follows the present best set, and rings when it rises. -/
def State.showDisagree (s : State) : State :=
  let d := s.disagree s.bestCands
  (s.wrb .REF_STAT_DISAGREE [] d).when (d && !s.flag .REF_STAT_DISAGREE) (·.evt .REF_EVT_DISAGREE)

/-- R339, R340: the output's frequency, and what OFFSET shows of it. -/
def State.setFreq (s : State) (f : Int) : State :=
  (s.onDpll (fun d => { d with freq := f })).wrS .REF_STAT_OFFSET [] (clampInt (-32768) 32767 (f / 1000000))

/-- R340: the frequency averaged over the 1 s that ended 100 ms ago; the present one where none was recorded then. -/
def State.averaged (s : State) : Int :=
  let xs := s.dpll.hist.filter (fun e => decide (e.1 + 100000 ≤ s.uptime && s.uptime ≤ e.1 + 1100000))
  if xs.isEmpty then s.dpll.freq else (xs.map (·.2)).sum / xs.length

/-- R340: the cold-plate temperature, in 0.0625 °C. -/
def State.coldPlate (s : State) : Int := tabGet 0 s.sup.temps 15

/-- R340: the DPLL holds a frequency; without a lock since reset it runs free at the nominal frequency. -/
def State.holdover (s : State) (f : Int) : State :=
  if !s.dpll.everLocked then (s.setFreq 0).setRef 0
  else
    ((s.setFreq f).onDpll (fun d => { d with entry := f, entryT := s.coldPlate, entryAt := s.uptime })).setRef
      (if s.flag .REF_STAT_HO_VALID then 3 else 4)

/-- R338: a hitless switch to a candidate begins, or takes a new target. -/
def State.switchTo (s : State) (c : Nat) : State :=
  (s.wr .REF_STAT_TARGET [] c).setRef 5

/-- R339: the DPLL leaves free-run. -/
def State.acquire (s : State) (c : Nat) : State :=
  ((s.wr .REF_STAT_TARGET [] c).setActive c).setRef 1

/-- R338: during a switch: a target that is lost is chosen again; with REVERT, a candidate above it takes its place. -/
def State.reTarget (s : State) : State :=
  let t := s.rd .REF_STAT_TARGET
  if s.forced = some t then s
  else if !s.candEligible t then
    match s.wantTarget with
    | some c => s.switchTo c
    | none => s.holdover s.dpll.freq
  else
    match s.wantTarget with
    | some c => s.when (s.flag .REF_CFG_REVERT && decide (s.candRank c < s.candRank t)) (·.switchTo c)
    | none => s

/-- R337, R338: what the selector does with want_target(). -/
def State.evaluate (s : State) : State :=
  let st := s.refState
  if st = 5 then s.reTarget
  else if st = 7 then s
  else match s.wantTarget with
    | some c =>
      if st ≤ 1 then s.acquire c
      else if st = 2 && c == s.rd .REF_STAT_ACTIVE then s
      else s.switchTo c
    | none => s.when (st == 1 || st == 2) (fun s => s.holdover s.averaged)

/-- A candidate's frequency against the local oscillator, in 10⁻⁹ ppm. -/
def State.candFreq (s : State) (i : Nat) : Int := 10000000 * s.candOffset i

/-- R339: a loop of a bandwidth in 0.1 Hz moves towards a goal over a time in µs, as a first-order loop (assumption 71). -/
def loopStep (bw dt : Nat) (now goal : Int) : Int :=
  let k := 628318 * bw * dt
  if 10 ^ 12 ≤ k then goal else now + (goal - now) * k / 10 ^ 12

/-- R339: in a switch the output moves at no more than 2 ppm/s over a time in µs. -/
def slewStep (dt : Nat) (now goal : Int) : Int :=
  if now ≤ goal then min goal (now + 2000 * dt) else max goal (now - 2000 * dt)

/-- R340: a1 (T − T0) + a2 (T − T0)² + b t, with t in µs. -/
def modelAt (m : HoModel) (t0 temp : Int) (t : Nat) : Int :=
  m.a1 * (temp - t0) + m.a2 * (temp - t0) ^ 2 + m.b * t / 3600000000

/-- R340: the frequency in holdover with a valid model. -/
def State.modelled (s : State) : Int :=
  let d := s.dpll
  let t0 := s.rdS .REF_HO_STAT_T0
  d.entry + (modelAt d.model t0 s.coldPlate s.uptime - modelAt d.model t0 d.entryT d.entryAt)

/-- R339, R340: where the output's frequency has moved to since it was last accounted for. -/
def State.nextFreq (s : State) : Int :=
  let dt := s.uptime - s.dpll.slewAt
  let now := s.dpll.freq
  match s.refState with
  | 1 => loopStep (s.rd .REF_CFG_BW) dt now (s.candFreq (s.rd .REF_STAT_TARGET))
  | 2 => loopStep (s.rd .REF_CFG_BW) dt now (s.candFreq (s.rd .REF_STAT_ACTIVE))
  | 3 => s.modelled
  | 5 => slewStep dt now (s.candFreq (s.rd .REF_STAT_TARGET))
  | _ => now

/-- R339, R340: the output moves; what it followed is recorded, and the learning takes the temperature. -/
def State.moveOutput (s : State) : State :=
  (s.setFreq s.nextFreq).onDpll (fun d => { d with
    slewAt := s.uptime
    hist := if s.follows then ((s.uptime, d.freq) :: d.hist).take 1200 else d.hist
    sumT := if s.refState = 2 then d.sumT + s.coldPlate else d.sumT
    sumN := if s.refState = 2 then d.sumN + 1 else d.sumN })

/-- R105, R333: the measured offset of a candidate in 0.01 ppm; a line's is that of its timing loop, against the output. -/
def State.seenOffset (s : State) (i : Nat) (v : Int) : Int :=
  if i = 2 || i == 3 then s.rdS .RXW_TR_STAT_OFFSET [i - 2] + s.dpll.freq / 10000000 else v

/-- R348: the candidates' offsets are measured, of those whose condition holds. -/
def State.measureCands (s : State) (offsets : List (Option Int)) : State :=
  s.upTo 8 (fun s i =>
    match offsets.getD i none with
    | some v => s.when (s.candCond i) (·.wrS .REF_CAND_STAT_OFFSET [i] (clampInt (-32768) 32767 (s.seenOffset i v)))
    | none => s)

/-- R16, R356, R379: the REF island is up: Run, Idle and Sleep, and not failed. -/
def State.refUp (s : State) : Bool := decide (s.power.state ≤ 2) && !s.islandFailed 6

/-- R22, R337, R339: REF_SELECT: the output moves; the selection is the control core's. -/
def execRefSelect (offsets : List (Option Int)) (s : State) : Result :=
  let s := s.begin
  .next (s.when s.refUp (fun s =>
    ((((s.measureCands offsets).checkCands.moveOutput).showDisagree).when s.coreRuns State.evaluate).showQl))

/-! ### Candidates (R334, R336) -/

/-- R334: a candidate is qualified; one that had lost qualification runs wait-to-restore. -/
def State.qualify (s : State) (i : Nat) (offset : Int) : State :=
  let minutes := min 12 (s.rd .REF_CAND_WTR [i])
  let wtr := s.dpll.lost.testBit i && minutes != 0
  let s := (s.wrb .REF_CAND_STAT_QUALIFIED [i] true).wrS .REF_CAND_STAT_OFFSET [i] offset
  let s := s.onDpll (fun d => { d with
    wtrEnd := if wtr then tabSet 0 d.wtrEnd i (s.uptime + 60000000 * minutes) else tabErase d.wtrEnd i })
  ((s.wrb .REF_CAND_STAT_WTR_RUN [i] wtr).evt .REF_EVT_CAND_CHANGE).showCand i

/-- R334: CAND_QUALIFY. -/
def execCandQualify (i : Fin 8) (offset : Int) (s : State) : Result :=
  let s := s.begin
  let o := s.seenOffset i offset
  .next (s.when (s.refUp && !s.flag .REF_CAND_STAT_QUALIFIED [i] && s.candCond i && decide (o.natAbs ≤ 1000))
    (·.qualify i o))

/-- R334: CAND_DISQUALIFY: an offset beyond ±12 ppm, or missing periods of a REFIN. -/
def execCandDisqualify (i : Fin 8) (offset : Int) (s : State) : Result :=
  let s := s.begin
  let o := s.seenOffset i offset
  let out := decide (1200 < o.natAbs)
  let s := s.when out (·.wrS .REF_CAND_STAT_OFFSET [i] (clampInt (-32768) 32767 o))
  .next (s.when (out || decide (i.val < 2) || !s.candCond i) (·.loseCand i true))

/-- R334: CAND_WTR_EXPIRY. -/
def execCandWtrExpiry (i : Fin 8) (s : State) : Result :=
  let s := s.begin
  .next (s.when (s.flag .REF_CAND_STAT_WTR_RUN [i]) (fun s =>
    (((s.wrb .REF_CAND_STAT_WTR_RUN [i] false).onDpll (fun d => { d with
      lost := clearBit d.lost i, wtrEnd := tabErase d.wtrEnd i })).evt .REF_EVT_CAND_CHANGE).showCand i))

/-- R348: WTR_LEFT: what remains of a wait-to-restore, in 5 s units. -/
def State.wtrLeft (s : State) (i : Nat) : Nat := ceilDiv (tabGet 0 s.dpll.wtrEnd i - s.uptime) 5000000

/-- R281, R336: ESMC_RX. -/
def execEsmcRx (port : Fin 32) (len : Nat) (fcsOk : Bool) (ql : Fin 16) (s : State) : Result :=
  .next (s.begin.macConsume port len fcsOk (fun s =>
    (s.onDpll (fun d => { d with
      esmc := tabSet 15 d.esmc port ql, esmcFailed := clearBit d.esmcFailed port })).checkCands))

/-- R336: ESMC_TIMEOUT: of a client candidate. -/
def execEsmcTimeout (i : Fin 8) (s : State) : Result :=
  let s := s.begin
  .next (s.when (s.candClient i) (fun s =>
    (s.onDpll (fun d => { d with esmcFailed := setBit d.esmcFailed (s.candPort i) })).checkCands))

/-- R349: a commit changed FREQ or PORT of a candidate. -/
def State.candMoved (s : State) (i : Nat) : State :=
  (s.loseCand i false).onDpll (fun d => { d with lost := clearBit d.lost i })

/-- R343: ESMC_TX: an information or event PDU on every port chosen. -/
def execEsmcTx (event : Bool) (s : State) : Result :=
  .next (s.begin.upTo 32 (fun s p =>
    s.when ((s.rd .REF_ESMC_TX_PORTS).testBit p && s.portSends p && !s.patterned p) (·.say (.esmc p (s.qlPort p) event))))

/-! ### Lock, fault, the holdover model (R339 to R341) -/

/-- R339, R342, R345: the switch or the acquisition ends. -/
def State.lock (s : State) : State :=
  let s := (s.wrb .REF_STAT_MT_COARSE [] false).onDpll (fun d => { d with everLocked := true })
  (s.setActive (s.rd .REF_STAT_TARGET)).setRef 2

/-- R339: the output stands within 0.01 ppm of the target. -/
def State.nearTarget (s : State) : Bool :=
  decide ((s.dpll.freq - s.candFreq (s.rd .REF_STAT_TARGET)).natAbs ≤ 10000000)

/-- R339: REF_LOCK. -/
def execRefLock (s : State) : Result :=
  let s := s.begin
  .next (s.when ((s.refState == 1 || s.refState == 5) && s.nearTarget) (fun s => s.lock.showQl))

/-- R341, R378: the DPLL's fault. -/
def State.dpllFail (s : State) : State :=
  let s := ({ s with ras := { s.ras with dpllFault := true } }.setRef 7).recordFault 6 6 0
  ((s.emit 6 0 (evtCode .REF_EVT_STATE_CHANGE [] 0)).assertFault.ring 0).showQl

/-- R341: DPLL_FAULT. -/
def execDpllFault (s : State) : Result :=
  let s := s.begin
  .next (s.when (s.refUp && s.refState != 7) State.dpllFail)

/-- R341: DPLL_RELOCK. -/
def execDpllRelock (s : State) : Result :=
  let s := s.begin
  .next (s.when (s.refState == 7) (fun s =>
    (({ s with ras := { s.ras with dpllFault := false } }.setFreq 0).setRef 0).releaseFault.showQl))

/-- R340: the model is discarded; holdover goes on at the frequency of its entry. -/
def State.relearn (s : State) : State :=
  let s := ((s.wr .REF_HO_STAT_LEARN_H [] 0).wr .REF_HO_STAT_T0 [] 0).wrb .REF_STAT_HO_VALID [] false
  let s := s.onDpll (fun d => { d with model := ⟨0, 0, 0⟩, sumT := 0, sumN := 0 })
  s.when (s.refState == 3) (fun s => (s.setFreq s.dpll.entry).setRef 4)

/-- R340: HO_RELEARN. -/
def execHoRelearn (req : Req) (s : State) : Result := .next (s.begin.via req (·.relearn))

/-- R340: HOLDOVER_LEARN_HOUR: the operand is what the learning's fit yields, whose method is not stated (assumption 71). -/
def execHoldoverLearnHour (fit : HoModel) (s : State) : Result :=
  let s := s.begin
  .next (s.when (s.refState == 2) (fun s =>
    let h := satAdd 16 (s.rd .REF_HO_STAT_LEARN_H) 1
    let t0 := if s.dpll.sumN = 0 then s.coldPlate else s.dpll.sumT / s.dpll.sumN
    (((s.wr .REF_HO_STAT_LEARN_H [] h).wrS .REF_HO_STAT_T0 [] t0).wrb .REF_STAT_HO_VALID [] (decide (72 ≤ h))).onDpll
      (fun d => { d with model := fit })))

/-- R347: MT_STEP: the step waits for the next update. -/
def execMtStep (req : Req) (s : State) : Result :=
  .next (s.begin.via req (·.onDpll (fun d => { d with stepDue := true })))

end Sys2Proof.Machine
end

