-- ==== Sys2Proof/Machine/Configure.lean ====
section
/-!
DEFINITION. Where the FP fields take their values from, and the configuration of the islands from an image's sections
(R10, R29, R37, R424 step 6, R449).
-/

namespace Sys2Proof.Machine

/-- R401: the rows of a wing's regions. -/
def wingRows : List Row := rowsTXW ++ rowsRXW ++ rowsCNV ++ rowsFEC ++ rowsOHD ++ rowsELC ++ rowsOPT

/-- R401: every row of every region. -/
def allRows : List Row :=
  rowsGLB ++ rowsPWR ++ rowsREF ++ rowsHST ++ rowsATT ++ rowsPMU ++ rowsSEC ++ rowsCIP ++ rowsHAL ++ rowsPAN ++ rowsSCH ++
    rowsCLI ++ rowsSDS ++ rowsCOR ++ rowsSUP ++ rowsICM ++ wingRows ++ rowsRAS ++ rowsCOMMIT

/-- How many instances a row has. -/
def Row.count (r : Row) : Nat := (r.dims.map (·.1)).prod

/-- How many instances one wing has of a row of the wing regions. -/
def Row.perWing (r : Row) : Nat := (r.dims.tail.map (·.1)).prod

/-- R29: the lane fields that the BOARD section carries. -/
def boardRows : List Row :=
  [.SDS_LANE_CTL_FORCE_ADAPT, .SDS_LANE_CTL_TX_INV, .SDS_LANE_CTL_TX_REV, .SDS_TXEQ_CM2, .SDS_TXEQ_CM1, .SDS_TXEQ_C0,
   .SDS_TXEQ_CP1, .SDS_RXEQ_CTLE, .SDS_RXEQ_GAIN, .SDS_RXEQ_FOM_MIN, .SDS_DFE_FIX_T1, .SDS_DFE_FIX_T2, .SDS_DFE_FIX_T3,
   .COR_LANE_CTL_FORCE_ADAPT, .COR_LANE_CTL_TX_INV, .COR_LANE_CTL_TX_REV, .COR_TXEQ_CM2, .COR_TXEQ_CM1, .COR_TXEQ_C0,
   .COR_TXEQ_CP1, .COR_RXEQ_CTLE, .COR_RXEQ_GAIN, .COR_RXEQ_FOM_MIN, .COR_DFE_FIX_T1, .COR_DFE_FIX_T2, .COR_DFE_FIX_T3]

/-- R29, R83: the fields that the OPTICAL section carries. -/
def opticalRows : List Row := [.OPT_TX_CTL_POWER, .TXW_TRIM_SKEW, .TXW_TRIM_GAIN, .TXW_IQ_PHASE_PHASE]

/-- R10, R29: the field takes its floor-plan value from DEFAULTS: every FP field but the read-only ones, which report
items of other sections, the lanes' BOARD fields, and the OPTICAL section's transmit power and trims (R83). -/
def Row.fromDefaults (r : Row) : Bool :=
  decide (r.src = .fp) && decide (r.acc ≠ .ro) && !opticalRows.any (fun b => b.id == r.id) && !boardRows.any (fun b => b.id == r.id)

/-- Write one instance of a row by its number. -/
def State.setFlat (s : State) (r : Row) (n v : Nat) : State := { s with store := storeSet s.store r n v }

/-- R10, R40: give a field the value that a section has for it, taken as a write of it would be (assumption 52). -/
def State.setField (s : State) (rows : List Row) (f : FieldValue) : State :=
  match rows.find? (fun r => r.id == f.row) with
  | some r => s.setFlat r f.inst (r.norm.take r.width r.rst f.value)
  | none => s

/-- R365: the rows that keep their values through Deep sleep, Watch and Off and across the reset of a wake. -/
def retainedRows : List Row :=
  [.PWR_WAKE_REC_CAUSE, .PWR_WAKE_REC_FROM, .PWR_WAKE_REC_FLAG, .PWR_WAKE_REC_WATCH_LAST, .PWR_SLEEP_LO_N,
   .PWR_SLEEP_HI_N, .PWR_WAKE_CFG_SMB_EN, .PWR_WAKE_CFG_TIMER, .PWR_WATCH_CFG_EN, .PWR_WATCH_CFG_WINGS,
   .PWR_WATCH_CFG_CONFIRM, .PWR_WATCH_CFG_PERIOD, .PWR_WATCH_CFG_TH]

/-- The rows that DEFAULTS gives at a start; a wake keeps the retained ones (R449). -/
def startRows (wake : Bool) : List Row :=
  allRows.filter (fun r => r.fromDefaults && !(wake && retainedRows.any (fun x => x.id == r.id)))

/-! ### One wing (R29, R431) -/

/-- The fields of one wing back to their reset values. -/
def State.clearWingRow (s : State) (w : Wing) (r : Row) : State :=
  let kept := (tabGet [] s.store r.id).filter (fun e => e.1 / r.perWing != w.n)
  { s with store := tabSet [] s.store r.id kept }

/-- Every register of a wing's regions back to its reset value. -/
def State.clearWing (s : State) (w : Wing) : State := wingRows.foldl (fun s r => s.clearWingRow w r) s

/-- R29: one channel's entry of the WING section. -/
def State.configureChan (s : State) (w : Wing) (c : Nat) (x : ChanSec) : State :=
  let i := [w.n, c]
  (((s.wr .ELC_CHAN_CFG_CEILING i x.ceiling).wr .ELC_CHAN_CFG_MINIMUM i x.minimum).wr .ELC_CHAN_CFG_RANK i x.rank).wrb
    .ELC_CHAN_CFG_CIPHER_EN i x.cipher

/-- R451: ELC.FLOOR_RX holds this wing's own floor until a BRINGUP arrives. -/
def State.ownFloor (s : State) (w : Wing) : State :=
  let i := [w.n]
  ((s.wr .ELC_FLOOR_RX_BAUD i (s.rd .ELC_FLOOR_BAUD i)).wr .ELC_FLOOR_RX_H_IDX i (s.rd .ELC_FLOOR_H_IDX i)).wr
    .ELC_FLOOR_RX_FEC i (s.rd .ELC_FLOOR_FEC i)

/-- R83: the trims of the OPTICAL section. -/
def State.configureTrims (s : State) (w : Wing) (o : OpticalSec) : State :=
  let s := s.upTo 4 (fun s d =>
    let t := o.trims.getD d (0, 0)
    (s.wrS .TXW_TRIM_SKEW [w.n, d] t.1).wrS .TXW_TRIM_GAIN [w.n, d] t.2)
  s.upTo 2 (fun s p => s.wrS .TXW_IQ_PHASE_PHASE [w.n, p] (o.phases.getD p 0))

/-- R29: the WING and OPTICAL sections' items. -/
def State.configureSec (s : State) (w : Wing) (x : WingSec) : State :=
  let i := [w.n]
  let s := ((s.wr .ELC_FLOOR_BAUD i x.floorBaud).wr .ELC_FLOOR_H_IDX i x.floorH).wr .ELC_FLOOR_FEC i x.floorFec
  let s := (s.wr .RXW_TAP_STAT_ALLOC i x.taps).wrS .OPT_TX_CTL_POWER i x.optical.power
  let s := (s.onOpt w (fun o => { o with sec := x.optical })).configureTrims w x.optical
  (x.chans.zipIdx.foldl (fun s e => s.configureChan w e.2 e.1) s).ownFloor w

/-- R10: the DEFAULTS values of one wing's registers. -/
def State.wingDefaults (s : State) (w : Wing) (ds : List FieldValue) : State :=
  let rows := wingRows.filter Row.fromDefaults
  ds.foldl (fun s f => match rows.find? (fun r => r.id == f.row) with
    | some r => if f.inst / r.perWing = w.n then s.setFlat r f.inst (r.norm.take r.width r.rst f.value) else s
    | none => s) s

/-! ### The shared islands (R424 step 6) -/

/-- R29, R149: the MODULE section's items; the outputs of its contexts are unsettled at first. -/
def State.configureModule (s : State) (m : ModuleSec) : State :=
  let s := ((s.wrb .RAS_STAT_SWEEP_EN [] m.sweep).wrb .RAS_STAT_DWTO_EN [] m.doorwayTimeout).wr .COR_CTL_PORT_EN []
    m.corPorts
  s.upTo 24 (fun s k => s.wr .SUP_DEC_CFG_SOURCE [k]
    (match m.decim.find? (fun e => e.1 == k) with
      | some e => e.2
      | none => 0x3F)) |>.upTo 24 State.unsettle

/-- R146: an enabled wing has a wing context; where the section names none, it is the lowest one that the section leaves unused
(DESIGN CHOICE: assumption 68). -/
def State.giveCtx (s : State) (w : Wing) (x : Option WingSec) : State :=
  if !((x.map (·.enable)).getD false) || (List.range 24).any (fun k => s.rd .SUP_DEC_CFG_SOURCE [k] == 0x3C + w.n) then s
  else match (List.range 24).find? (fun k => s.rd .SUP_DEC_CFG_SOURCE [k] == 0x3F) with
    | some k => (s.wr .SUP_DEC_CFG_SOURCE [k] (0x3C + w.n)).unsettle k
    | none => s

/-- R280: a port of the CLIENT section. -/
def State.configurePort (s : State) (p : PortSec) : State :=
  ((s.wr .CLI_PORT_CFG_RATE [p.num] p.rate).wr .CLI_PORT_CFG_WIDTH [p.num] p.width).wr .CLI_PORT_CFG_LANE0 [p.num] p.lane0

/-- R296: a port's target. -/
def State.configureMap (s : State) (p : Nat) : MapTarget → State
  | .chan c => ((s.wrb .HAL_MAP_VALID [p] true).wrb .HAL_MAP_PROT [p] false).wr .HAL_MAP_CHAN [p] c
  | .group g => ((s.wrb .HAL_MAP_VALID [p] true).wrb .HAL_MAP_PROT [p] true).wr .HAL_MAP_GROUP [p] g

/-- R242, R247: a protection group, whose working member is selected. -/
def State.configureGroup (s : State) (g : Nat) (x : GroupSec) : State :=
  let s := (((s.wrb .HAL_PG_MEMBERS_VALID [g] true).wr .HAL_PG_MEMBERS_PORT [g] x.port).wr .HAL_PG_MEMBERS_CH_A [g]
    x.chA).wr .HAL_PG_MEMBERS_CH_B [g] x.chB
  (s.wrb .HAL_PG_STAT_SEL_B [g] (s.flag .HAL_PG_CFG_WORK_B [g])).showAsks g

/-- R29: the HALLWAY section's items. -/
def State.configureHall (s : State) (h : HallSec) : State :=
  h.groups.zipIdx.foldl (fun s e => s.configureGroup e.2 e.1) (h.maps.foldl (fun s e => s.configureMap e.1 e.2) s)

/-- R286: the PANTRY section's items. -/
def State.configurePantry (s : State) (p : PantrySec) : State :=
  let s := p.reserves.foldl (fun s e =>
    if e.1 < 512 then s.wr .PAN_EQ_CFG_RESERVE [e.1] e.2 else s.wr .PAN_IQ_CFG_RESERVE [e.1 - 512] e.2) s
  let s := ((s.wr .PAN_PART_RES_SIZE [0] p.partA).wr .PAN_PART_RES_SIZE [1] p.partB).wr .PAN_PART_RES_SIZE [2] p.partIn
  (s.wr .PAN_SHARED_FREE [] p.shared).showDesc

/-- R29: the ROM default entry of every lane. -/
def State.romLanes (s : State) : State :=
  let s := s.upTo 32 (fun s l =>
    (((((s.wrS .SDS_TXEQ_CM1 [l] (-6)).wr .SDS_TXEQ_C0 [l] 52).wrS .SDS_TXEQ_CP1 [l] (-6)).wr .SDS_RXEQ_CTLE [l] 16).wr
      .SDS_RXEQ_GAIN [l] 16).wr .SDS_RXEQ_FOM_MIN [l] 180 |>.wrb .SDS_LANE_CTL_FORCE_ADAPT [l] true)
  s.upTo 16 (fun s l =>
    (((((s.wrS .COR_TXEQ_CM1 [l] (-6)).wr .COR_TXEQ_C0 [l] 52).wrS .COR_TXEQ_CP1 [l] (-6)).wr .COR_RXEQ_CTLE [l] 16).wr
      .COR_RXEQ_GAIN [l] 16).wr .COR_RXEQ_FOM_MIN [l] 180 |>.wrb .COR_LANE_CTL_FORCE_ADAPT [l] true)

/-- R29: the BOARD section's entries, or the ROM default entry. -/
def State.configureBoard (s : State) : Option (List FieldValue) → State
  | some fs => fs.foldl (fun s f => s.setField boardRows f) s
  | none => s.romLanes

/-- R37: the running image is shown; SOURCE is 0 or 1 for a flash bank and 2 for the host. -/
def State.showImage (s : State) (i : Image) (source trials : Nat) (confirmed : Bool) : State :=
  let s := (((s.wr .GLB_FP_INFO_BUILD [] i.build).wr .GLB_FP_INFO_SVN [] i.svn).wr .GLB_FP_INFO_SOURCE [] source).wr
    .GLB_FP_INFO_TRIALS [] trials
  (s.wrb .GLB_FP_INFO_CONFIRMED [] confirmed).upTo 8 (fun s n =>
    s.wr .GLB_FP_HASH_HASH [n] (i.headHash / 2 ^ (32 * (7 - n))))

/-- R29: what an image's optional WING section gives a wing. -/
def State.configureWing (s : State) (w : Wing) : Option WingSec → State
  | some x => s.configureSec w x
  | none => s

/-- R277: on a C0 the sessions are disabled. -/
def State.disableSessions (s : State) : State :=
  s.when s.isC0 (fun s => (s.wr .SEC_SES_STAT_STATE [0] 7).wr .SEC_SES_STAT_STATE [1] 7)

/-- R424 step 6: every island takes its values from the running image's sections. -/
def State.configure (s : State) (i : Image) (wake : Bool) : State :=
  let rows := startRows wake
  let s := i.defaults.foldl (fun s f => s.setField rows f) s
  let s := (((s.configureModule i.modul).giveCtx .a i.wingA).giveCtx .b i.wingB).configureBoard i.board
  let s := ((i.ports.foldl State.configurePort s).configureHall i.hall).configurePantry i.pantry
  let s := ((s.configureWing .a i.wingA).configureWing .b i.wingB).disableSessions
  (((((s.upTo 64 State.takeGateEn).upTo 64 State.reguard).checkCands).showQl).restartSeen .a).restartSeen .b

end Sys2Proof.Machine
end

