-- ==== Sys2Proof/Machine/Wing.lean ====
section
/-!
DEFINITION. The start of a wing, a wing's way out of Run and back, and the wing restart (R357, R379, R430, R431).
-/

namespace Sys2Proof.Machine

/-- R430: the step of a wing's start. -/
def State.setBootWing (s : State) (w : Wing) (k : Nat) : State :=
  { s with boot := { s.boot with wing := s.boot.wing.set w k } }

/-- R189, R430 step 1: the transmitter starts at its floor profile with FLOOR = 1, under the ENABLE bits as written. -/
def State.startFloor (s : State) (w : Wing) : State :=
  let i := [w.n]
  let s := s.onTx w (fun t => { TxRate.reset with enabled := t.enabled })
  let s := (((s.wr .ELC_HS_STAT_STATE i 5).wrb .ELC_HS_STAT_FLOOR_TX i true).wrb .ELC_HS_STAT_ICM_RC i true).wr
    .ELC_HS_STAT_RETRIES i 0
  let s := ((s.wrb .ELC_HS_STAT_UNCONFIRMED i false).wrb .ELC_HS_STAT_ADV_STALE i false).wrb .TXW_LINE_NEXT_ANN_VALID i false
  let p := s.floorPair w
  let en := s.enableBits w
  let r := s.countsFor w p.1 p.2 en
  (s.switchTx w p.1 p.2 en (s.mapFor w p.1 p.2 r.1) r.1).when r.2 (·.evt .ELC_EVT_MIN_BREACH [w.n])

/-- R189, R202, R212, R451: the intercom's exchange with the far end starts over. -/
def State.startIcm (s : State) (w : Wing) : State :=
  ((s.onIcm w (fun x => { x with heard := false, heardBack := false, lastBringup := [] })).wrb .ICM_BR0_VALID [w.n]
    false).showBaudDiff w |>.ownFloor w

/-- R216, R227: the frame schedule starts again at Φ = 0, and the next 16 frames carry IAE. -/
def State.startFrames (s : State) (w : Wing) : State := s.onOtn w (fun o => { o with phi := 0, iae := 16 })

/-- R430: a wing start begins with step 1: the converters' clocks lock, the receiver waits, rate control is at floor. -/
def State.beginWing (s : State) (w : Wing) : State :=
  let s := (((s.setBootWing w 1).resetOptics w).toWait w).onRx w (fun _ => RxLine.reset)
  let s := ((s.fecUnlock w).onDec w (fun _ => Decoder.reset)).wrb .RXW_HDR_STAT_HDR_LOSS_TX [w.n] true
  ((((((s.unlockAdc w).unlockDac w).showReach w).showRxHs w).startFloor w).startFrames w).startIcm w |>.icmRefresh w

/-- R430 step 1 is done: clocks locked and foreground calibration finished. -/
def State.convReady (s : State) (w : Wing) : Bool :=
  s.flag .CNV_ADC_CLK_LOCKED [w.n] && s.flag .CNV_DAC_CLK_LOCKED [w.n] && !(s.conv.get w).foreground

/-- R430 step 2 is done: both lasers report lock (the transmit laser of a wing held by TX_DIS cannot) and the DACs are
calibrated. -/
def State.lasersReady (s : State) (w : Wing) : Bool :=
  (s.flag .OPT_TX_STAT_FREQ_LOCKED [w.n] || s.optState w == 5) && s.flag .OPT_TX_STAT_LO_LOCKED [w.n] &&
    !(s.opt.get w).dacDue && !s.flag .CNV_DAC_CAL_BUSY [w.n]

/-- R237, R430 step 6: the wing has a session to establish. -/
def State.sessionDue (s : State) (w : Wing) : Bool := !s.isC0 && s.flag .SEC_SES_CFG_EN [w.n]

/-- R430: the step in progress is done. A wing whose carrier is not to be lit under R91 does not wait for its ramp. -/
def State.wingStepReady (s : State) (w : Wing) : Bool :=
  match s.boot.wing.get w with
  | 1 => s.convReady w
  | 2 => s.lasersReady w
  | 3 => s.optState w == 3 || !s.mayLight w
  | 4 => s.rxState w == 11
  | 5 => s.flag .OHD_FR_STAT_IF [w.n] && !s.flag .OHD_SM_DEF_LOF [w.n]
  | 6 => !s.sessionDue w || (s.cip.sessions.get w).step == 4
  | 7 => s.flag .RXW_HDR_STAT_MAP_VALID [w.n] && s.flag .RXW_HDR_STAT_FLOOR_RX [w.n]
  | _ => false

/-- R430: what the next step begins with. -/
def State.wingStepNext (s : State) (w : Wing) : State :=
  let k := s.boot.wing.get w
  let s := s.setBootWing w (k + 1)
  if k = 1 then s.startLasers w else if k = 2 then s.optEval w else s

/-- R430: WING_START_STEP_DONE. -/
def execWingStartStepDone (w : Wing) (s : State) : Result :=
  let s := s.begin
  .next (s.when (s.isRunning && s.wingEnabled w && s.wingState w == 0 && s.wingStepReady w) (·.wingStepNext w))

/-! ### Out of Run and back (R357) -/

/-- R354: the domains of a wing's DSP islands, in order of admission; `optics` with its optical engine. -/
def wingDomains (w : Wing) (optics : Bool) : List Domain :=
  [.regWing w, .dsp w 0, .dsp w 1, .dsp w 2, .fec w, .conv w, .overhead w] ++ (if optics then [.optics w] else [])

/-- Domains that go down. -/
def State.powerDown (s : State) (ds : List Domain) : State :=
  { s with power := { s.power with
    up := s.power.up.filter (fun d => !ds.contains d)
    queue := s.power.queue.filter (fun d => !ds.contains d) } }

/-- R92, R357: both lasers of a wing go off. -/
def State.lasersOff (s : State) (w : Wing) : State :=
  let i := [w.n]
  let s := (s.wrb .OPT_TX_STAT_FREQ_LOCKED i false).wrb .OPT_TX_STAT_LO_LOCKED i false
  let s := s.onOpt w (fun o => { o with
    tuning := false, loTuning := false, retune := false, lockHeld := false, keptTx := false, keptLo := false })
  s.when (s.optState w != 5) (·.setOpt w 0)

/-- R357: a wing leaves Run: its islands lose their clocks; its second pass ends, its receiver stops. -/
def State.leaveRun (s : State) (w : Wing) : State :=
  (((((s.haltConv w).sp2Off w).sp2Cancel w).toWait w).icmAbort w).powerDown (.secondPass w :: wingDomains w false)

/-- R357: a wing takes its effective state: 0 Run, 1 Idle, 2 Sleep. -/
def State.setWingState (s : State) (w : Wing) (st : Nat) : State :=
  match w with
  | .a => s.wr .PWR_STATE_STAT_WING_A [] st
  | .b => s.wr .PWR_STATE_STAT_WING_B [] st

/-- R118, R139, R357, R430: a wing enters Run: from Idle its converters resume and its carrier ramps up; from Sleep it
starts. -/
def State.enterRun (s : State) (w : Wing) : State :=
  if s.boot.wing.get w = 0 then s.beginWing w else (s.resumeConv w).optEval w

/-- R357: a wing's effective state changes. -/
def State.moveWing (s : State) (w : Wing) (st : Nat) : State :=
  let old := s.wingState w
  if st = old || !s.wingEnabled w then s.setWingState w st
  else
    let s := s.when (old == 0) (·.leaveRun w)
    let s := s.setWingState w st
    let s := s.when (st == 2) (fun s => ((s.lasersOff w).powerDown [.optics w]).setBootWing w 0)
    s.when (st == 0) (·.enterRun w)

/-! ### The wing restart (R431) -/

/-- R431 step 1: the carrier is dark. -/
def State.darken (s : State) (w : Wing) : State := (s.onOpt w (fun o => { o with level := s.darkLevel w, retune := false })).icmAbort w

/-- R431 step 3: the queues of the wing's channels are flushed. -/
def State.flushWing (s : State) (w : Wing) : State := s.upTo 256 (fun s k => s.flushQueue (256 * w.n + k))

/-- R369, R371, R431 step 5: the valid bits and the remap entries of the wing's tap memory are cleared. -/
def State.clearTaps (s : State) (w : Wing) : State :=
  let m := 3 + w.n
  let r := s.ras
  let r := { r with
    written := tabErase r.written m
    remapped := r.remapped.filter (fun l => l.mem.val != m)
    corrected := r.corrected.filter (fun e => e.1.mem.val != m)
    full := r.full.filter (fun e => e.1 != m)
    injected := r.injected.filter (fun e => e.1.mem.val != m) }
  ({ s with ras := r }.wr .RAS_MEM_REMAP_USED [m] 0).wr .RAS_MEM_REMAP_BANKS_FULL [m] 0

/-- R44: the staged and pending sets of the wing's regions are discarded. -/
def State.dropSets (s : State) (w : Wing) : State :=
  let lo := 0x100000 * (1 + w.n)
  let out := fun a => decide (a < lo) || decide (lo + 0x100000 ≤ a)
  { s with
    staged := s.staged.filter (fun e => out e.1)
    pend := s.pend.filter (fun e => out e.1)
    inuse := s.inuse.filter (fun e => out (e.1 / 32)) }

/-- R379: the wing's islands are recovered. -/
def State.recoverWing (s : State) (w : Wing) : State :=
  let mask := 2 ^ (7 + w.n) + 2 ^ (9 + w.n) + 2 ^ (11 + w.n) + 2 ^ (13 + w.n) + 2 ^ (15 + w.n)
  let left := clearMask (s.rd .RAS_STAT_FAILED_MAP) mask
  ((s.wr .RAS_STAT_FAILED_MAP [] left).wrb .RAS_STAT_FAILED [] (left != 0)).releaseFault

/-- R99, R431: the wing's islands are reset and configured from the running image; its LOS pin shows the loss of signal
that the reset leaves. -/
def State.reloadWing (s : State) (w : Wing) : State :=
  let s := (s.dropSets w).clearWing w
  let s := { s with pins := { s.pins with los := s.pins.los.set w true } }
  let s := { s with conv := s.conv.set w Conv.reset, otn := s.otn.set w Otn.reset, dec := s.dec.set w Decoder.reset }
  let s := match s.image.running with
    | some i =>
      let x := match w with
        | .a => i.wingA
        | .b => i.wingB
      ((s.wingDefaults w i.defaults).configureWing w x).giveCtx w x
    | none => s
  let s := ((s.upTo 32 (fun s c => s.reguard (chanIndex w c))).restartSeen w).showBaudDiff w |>.icmRefresh w
  s.upTo 8 (fun s g => s.when (s.flag .HAL_PG_MEMBERS_VALID [g]) (·.showAsks g))

/-- R245, R431 step 2: the groups see that their member is SF. -/
def State.groupsSf (s : State) (w : Wing) : State :=
  s.upTo 8 (fun s g => s.when (s.flag .HAL_PG_MEMBERS_VALID [g]) (·.condChange g w))

/-- R26: a wing restart shows in the attic; what its record's CODE and SOURCE are is not stated: the source is taken as
the wing's transmit DSP, the code a free value (assumption 54). -/
def State.recordRestart (s : State) (w : Wing) : State :=
  let f := s.fresh 65536
  f.2.emit (7 + w.n) w.n f.1

/-- R431: which lasers stay locked: those that were, and whose CH the reload leaves as it was. -/
def State.keepLasers (s old : State) (w : Wing) : State :=
  let i := [w.n]
  let same := fun (r : Row) => s.rdS r i == old.rdS r i
  s.onOpt w (fun o => { o with
    keptTx := old.flag .OPT_TX_STAT_FREQ_LOCKED i && same .OPT_TX_FREQ_CH
    keptLo := old.flag .OPT_TX_STAT_LO_LOCKED i && same .OPT_LO_FREQ_CH })

/-- R26, R431: a wing restart. -/
def State.restartWing (s : State) (w : Wing) : State :=
  let old := s
  let s := s.recordRestart w
  let s := ((((s.darken w).toWait w).setBootWing w 1).groupsSf w).flushWing w
  let s := ((((s.zeroiseWing w).clearTaps w).reloadWing w).recoverWing w).keepLasers old w
  if s.wingEnabled w && s.wingState w == 0 then s.beginWing w else s.setBootWing w 0

end Sys2Proof.Machine
end

