-- ==== Sys2Proof/Machine/Power.lean ====
section
/-!
DEFINITION. Power entry, the current-step budget, the power states, wake on access, the wakes and module reset (R351 to
R366, R432, R440).
-/

namespace Sys2Proof.Machine

/-- Change the sequencer. -/
def State.onPower (s : State) (f : Power → Power) : State := { s with power := f s.power }

/-! ### Module reset (R10, R26, R361, R435) -/

/-- Rows that keep what they hold across a change of state. -/
def State.keepRows (new old : State) (rows : List Row) : State :=
  rows.foldl (fun t r => { t with store := tabSet [] t.store r.id (tabGet [] old.store r.id) }) new

/-- R10: the fields read from fuses. -/
def fuseRows : List Row := allRows.filter (fun r => decide (r.src = .fuse))

/-- R396: the attic's fields, which keep their values across every reset as the attic does. -/
def atticRows : List Row :=
  [.ATT_STAT_SEALED_FULL, .ATT_STAT_WRAPPED, .ATT_STAT_SEALED_USED, .ATT_STAT_WR_PTR, .ATT_LOST_COUNT]

/-- What a reset keeps beside the rows: the commands that wait, the model's own clock and counter, fuses, flash banks and
the board's pins; the attic, the straps' origin and AON's self-test record where AON stays powered. -/
def State.resetBase (s : State) (aon : Bool) : State :=
  let b := { State.reset with pending := s.pending, out := s.out, free := s.free, uptime := s.uptime, fuses := s.fuses }
  { b with
    image := { ImageState.reset with bankA := s.image.bankA, bankB := s.image.bankB }
    pins := { Pins.reset with
      txDis := s.pins.txDis, perst := s.pins.perst, smbAlert := aon && s.pins.smbAlert }
    attic := if aon then { s.attic with armed := false } else Attic.reset
    boot := { Boot.reset with selfTestPassed := aon && s.boot.selfTestPassed } }

/-- R92: TX_STAT.TXDIS_PIN shows the pin. -/
def State.showTxDis (s : State) : State :=
  (s.wrb .OPT_TX_STAT_TXDIS_PIN [0] s.pins.txDis.a).wrb .OPT_TX_STAT_TXDIS_PIN [1] s.pins.txDis.b

/-- R10, R361, R396: a module reset; `aon` when the AON island stays powered, `keep` the further rows that stay. -/
def State.resetModule (s : State) (aon : Bool) (keep : List Row) : State :=
  let rows := fuseRows ++ (if aon then atticRows else []) ++ [.PWR_VIN_STAT_VIN] ++ keep
  ((s.resetBase aon).keepRows s rows).showTxDis

/-- R361: WAKE_REC takes its cause, origin and flag. -/
def State.wakeRec (s : State) (cause origin : Nat) (flag : Bool) : State :=
  ((s.wr .PWR_WAKE_REC_CAUSE [] cause).wr .PWR_WAKE_REC_FROM [] origin).wrb .PWR_WAKE_REC_FLAG [] flag

/-- R424: a start begins at a step. -/
def State.startAt (s : State) (step : Nat) (wake hostMode : Bool) : State :=
  { s with boot := { s.boot with step := step, wake := wake, hostMode := hostMode } }

/-- R361: a module reset by pin or command: cause 0x6 or 0x7, no flag, the attic kept. In Deep sleep and Watch the power
entry starts first. -/
def State.commandReset (s : State) (cause : Nat) (hostMode : Bool) : State :=
  let step := if s.power.state ≤ 2 then 2 else 1
  ((s.resetModule true []).wakeRec cause 7 false).startAt step false hostMode

/-- R345, R363: module time takes a value. -/
def State.setMt (s : State) (ns : Nat) : State := s.wrWide .REF_MT_LO_MT .REF_MT_HI_MT [] (ns % 2 ^ 64)

/-- R363: module time after a sleep of `n` counts of the 32.768 kHz clock. -/
def State.restoreMt (s : State) (saved n : Nat) : State :=
  let s := (s.wr .PWR_SLEEP_LO_N [] (n % 2 ^ 32)).wr .PWR_SLEEP_HI_N [] (n / 2 ^ 32)
  (s.setMt (saved + n * 1000000000 / 32768)).wrb .REF_STAT_MT_COARSE [] true

/-- R361, R363, R432: a wake from Deep sleep, Watch or Off. The sleep count is a free value (assumption 4). -/
def State.wake (s : State) (cause : Nat) : State :=
  let origin := s.power.state
  let saved := s.power.mtSave.getD 0
  let f := s.fresh (2 ^ 48)
  let t := (f.2.resetModule (origin != 4) retainedRows).wakeRec cause origin true
  let s := t.onPower (fun p => { p with wokeAt := s.uptime, watch := s.power.watch })
  ((s.restoreMt saved f.1).startAt 1 (origin != 4) false).alert

/-- R361: the place of a wake cause in the list of sources. -/
def wakeRank (cause : Nat) : Nat := ([1, 2, 4, 5, 3].findIdx? (· == cause)).getD 5

/-- R361: of several sources that act in the same 1 ms the cause recorded is the one highest in the list. -/
def State.recause (s : State) (cause : Nat) : State :=
  s.when (s.flag .PWR_WAKE_REC_FLAG && decide (s.uptime < s.power.wokeAt + 1000) &&
    decide (wakeRank cause < wakeRank (s.rd .PWR_WAKE_REC_CAUSE))) (·.wr .PWR_WAKE_REC_CAUSE [] cause)

/-- R351: every domain goes unpowered, the attic and the wake domain with them. -/
def State.losePower (s : State) (latch : Bool) : State :=
  let s := (s.resetModule false []).startAt 0 false false
  { s with
    power := { s.power with state := 6, thermalLatch := latch }
    pins := { s.pins with pgood := false, smbAlert := false } }

/-- R351: VIN_START: above 34 V and below 76 V, the stop of R440 not latched. -/
def execVinStart (vin : Nat) (s : State) : Result :=
  let s := s.begin
  .next (s.when (s.power.state == 6 && !s.power.thermalLatch && decide (3400 < vin) && decide (vin < 7600)) (fun s =>
    (((s.onPower (fun p => { p with state := 0 })).startAt 1 false false).wr .PWR_VIN_STAT_VIN [] vin).wrb
      .REF_STAT_MT_COARSE [] true))

/-- R351: POWER_LOSS. -/
def execPowerLoss (s : State) : Result := .next (s.begin.losePower false)

/-- R440: THERMAL_TRIP, in every state except Off. -/
def execThermalTrip (s : State) : Result :=
  let s := s.begin
  .next (s.when (s.power.state != 4 && s.power.state != 6) (·.losePower true))

/-- R361, R441: MOD_RESET: the pin is ignored in Deep sleep, Watch and Off. -/
def execModReset (s : State) : Result :=
  let s := s.begin
  .next (s.when (decide (s.power.state ≤ 2)) (·.commandReset 6 false))

/-! ### The current-step budget (R352, R354, R355) -/

/-- R354: a register stage. -/
def Domain.isReg : Domain → Bool
  | .regWing _ => true
  | .regShared => true
  | _ => false

/-- R354: the load of a domain's stage, in 0.1 W. -/
def Domain.load : Domain → Nat
  | .regWing _ => 12
  | .regShared => 8
  | .dsp _ part => if part = 2 then 15 else 80
  | .fec _ => 55
  | .secondPass _ => 55
  | .conv _ => 45
  | .overhead _ => 8
  | .optics _ => 80
  | .cipher => 42
  | .switch => 48
  | .client _ => 60
  | .corridor => 19
  | .supervisory => 3

/-- R354: the step of a stage in µA at the present input voltage. -/
def State.stepOf (s : State) (d : Domain) : Nat := d.load * 1000000000 / (95 * max 1 (s.rd .PWR_VIN_STAT_VIN))

/-- R354: the limit in µA that a stage is admitted under. -/
def Domain.limit (d : Domain) : Nat := if d.isReg then 500000 else 400000

/-- R354: the stages admitted less than 100 µs ago. -/
def State.recentStages (s : State) : List (Nat × Nat) := s.power.window.filter (fun e => decide (s.uptime < e.1 + 100))

/-- R354: the sum of their steps, in µA. -/
def State.windowSum (s : State) : Nat := (s.recentStages.map (·.2)).sum

/-- R352: DEFERRED shows that stages are held. -/
def State.showDeferred (s : State) : State :=
  s.wrb .PWR_STATE_STAT_DEFERRED [] (s.shedding && s.power.queue.any (fun d => !d.isReg))

/-- R352, R355: the stage that is admitted next: the head, or under the VIN warning's shedding the first register
stage. -/
def State.headStage (s : State) : Option Domain := if s.shedding then s.power.queue.find? (·.isReg) else s.power.queue.head?

/-- R354: a stage is admitted. -/
def State.admitStage (s : State) (d : Domain) : State :=
  let now := s.recentStages ++ [(s.uptime, s.stepOf d)]
  (s.onPower (fun p => { p with
    queue := p.queue.erase d, window := now, up := d :: p.up.filter (fun x => decide (x ≠ d)) })).showDeferred

/-- R354, R355: STAGE_ADMIT: the head stage, once it fits in the window. -/
def execStageAdmit (s : State) : Result :=
  let s := s.begin
  .next (match s.headStage with
    | some d => s.when (decide (s.windowSum + s.stepOf d ≤ d.limit)) (·.admitStage d)
    | none => s)

/-- R355: the stages of one request enter the queue, register stages first. -/
def State.enqueueStages (s : State) (ds : List Domain) : State :=
  (s.onPower (fun p => { p with queue := p.queue ++ ds.filter (·.isReg) ++ ds.filter (fun d => !d.isReg) })).showDeferred

/-- R143, R352: the input voltage as the power entry's monitor sees it: the supervisory converter's latest reading, and while
that does not run the power entry's own, `vin`. -/
def State.vinSeen (s : State) (vin : Nat) : Nat := if s.supRuns then s.rd .PWR_VIN_STAT_VIN else vin

/-- R352: VIN_WARN_RISE: the power entry runs in every state but Off. -/
def execVinWarnRise (vin : Nat) (s : State) : Result :=
  let s := s.begin
  let v := s.vinSeen vin
  .next (s.when (decide (s.power.state ≤ 3) && !s.flag .PWR_VIN_STAT_WARN && decide (v < 10 * s.rd .PWR_VIN_CFG_WARN_TH))
    (fun s => ((((s.wr .PWR_VIN_STAT_VIN [] v).wrb .PWR_VIN_STAT_WARN [] true).trigger 4).evtLog .PWR_EVT_VIN_WARN [] 1
      0).alert.showDeferred))

/-- R352: VIN_WARN_CLEAR. -/
def execVinWarnClear (vin : Nat) (s : State) : Result :=
  let s := s.begin
  let th := 10 * (s.rd .PWR_VIN_CFG_WARN_TH + s.rd .PWR_VIN_CFG_HYST)
  let v := s.vinSeen vin
  .next (s.when (s.flag .PWR_VIN_STAT_WARN && decide (th < v)) (fun s =>
    ((s.wr .PWR_VIN_STAT_VIN [] v).wrb .PWR_VIN_STAT_WARN [] false).showDeferred))

/-! ### Transitions (R356 to R359) -/

/-- R357: a wing's effective state under a module state. -/
def State.wingUnder (s : State) (w : Wing) (t : Nat) : Nat :=
  max (min 2 (match w with
    | .a => s.rd .PWR_STATE_CTL_WING_A
    | .b => s.rd .PWR_STATE_CTL_WING_B)) (min 2 t)

/-- R355: the stages that a wing's return to Run asks for. -/
def State.wingStages (s : State) (w : Wing) (t : Nat) : List Domain :=
  if s.wingEnabled w && s.wingUnder w t == 0 && s.wingState w != 0 then
    wingDomains w (!s.power.up.contains (.optics w))
  else []

/-- R355: the stages of the shared islands that a rise of the module's state asks for. -/
def State.sharedStages (s : State) (t : Nat) : List Domain :=
  let now := s.power.state
  (if t < now then [.regShared] else []) ++
    (if t = 0 && 0 < now then (if s.isC0 then [.switch] else [.cipher, .switch]) else []) ++
    (if t ≤ 1 && 2 ≤ now then [.client false, .client true, .corridor, .supervisory] else [])

/-- R358: a transition to a module state, or of the wings alone, begins. -/
def State.startTransition (s : State) (t : Nat) : State :=
  let ds := s.wingStages .a t ++ s.wingStages .b t ++ s.sharedStages t
  let s := (s.onPower (fun p => { p with trans := some t })).wrb .PWR_STATE_STAT_BUSY [] true
  ((s.enqueueStages ds).optEval .a).optEval .b

/-- R359: LAST_REFUSE, the island's counts, the event and the attic record of a refusal or an abort. -/
def State.refuse (s : State) (island reason t : Nat) (abort : Bool) : State :=
  let s := (((s.wrb .PWR_LAST_REFUSE_VALID [] true).wr .PWR_LAST_REFUSE_ISLAND [] island).wr .PWR_LAST_REFUSE_REASON []
    reason).wrb .PWR_LAST_REFUSE_ABORT [] abort
  let s := (s.wr .PWR_LAST_REFUSE_TARGET [] t).countWrap (if abort then .PWR_REFUSE_CNT_ABORTED else
    .PWR_REFUSE_CNT_REFUSED) [island]
  (s.emit island 0 (reasonCode 1 reason)).evt .PWR_EVT_REFUSED

/-- R356: the lowest island whose clock a state stops. -/
def firstStopped (t : Nat) : Nat :=
  match t with
  | 1 => 7
  | 2 => 7
  | 3 => 2
  | _ => 0

/-- R356, R357: the entry stops the island's clock: with the module's state, or with its wing's. -/
def State.stopsIsland (s : State) (t i : Nat) : Bool :=
  let w := Wing.num ((i - 7) % 2)
  (decide (s.power.state < t) && decide (firstStopped t ≤ i) && !(t == 1 && decide (21 ≤ i))) ||
    (decide (7 ≤ i) && decide (i ≤ 16) && s.wingEnabled w && s.wingState w == 0 && s.wingUnder w t != 0)

/-- R359: an island that the entry stops has been declared failed. -/
def State.failedStop (s : State) (t : Nat) : Option Nat :=
  (List.range 25).find? (fun i => s.islandFailed i && s.stopsIsland t i)

/-- R359: SEC executes an image or key command. -/
def State.secBusy (s : State) : Bool := s.flag .SEC_IMG_STAT_BUSY || s.flag .SEC_KEY_STAT_BUSY

/-- R359, R423: a capture engine is enabled. -/
def State.dmaActive (s : State) : Bool := (List.range 7).any (fun e => s.flag .HST_DMA_CTL_EN [e])

/-- R359: the refusal that an entry meets before it starts. -/
def State.refusal (s : State) (t : Nat) : Option (Nat × Nat) :=
  if 3 ≤ t && s.secBusy then some (2, 2)
  else if 3 ≤ t && s.dmaActive then some (5, 7)
  else (s.failedStop t).map (fun i => (i, 5))

/-- R358: another module state is requested, with no transition in progress. -/
def State.requestState (s : State) (t : Nat) : State :=
  if t = s.power.state then s
  else match s.refusal t with
    | some r => s.refuse r.1 r.2 t false
    | none => s.startTransition t

/-- R357: the wings' requests differ from their states. -/
def State.wingsDiffer (s : State) : Bool :=
  let t := s.power.state
  (s.wingEnabled .a && s.wingUnder .a t != s.wingState .a) || (s.wingEnabled .b && s.wingUnder .b t != s.wingState .b)

/-- R357, R359: the wings' requests are acted on with the module's state unchanged; a failed island refuses. -/
def State.requestWings (s : State) : State :=
  if !s.wingsDiffer then s
  else match s.failedStop s.power.state with
    | some i => s.refuse i 5 s.power.state false
    | none => s.startTransition s.power.state

/-- R358: what follows the end of a transition: a held TARGET, or wing requests made meanwhile. -/
def State.afterTransition (s : State) : State :=
  match s.power.heldTarget with
  | some t => (s.onPower (fun p => { p with heldTarget := none })).requestState t
  | none => s.requestWings

/-- R22, R358: a TARGET arrives: held during a transition, and while the control core, which makes the sequencing
requests, is restarting; other values than 0 to 4 are ignored. -/
def State.targetWrite (s : State) (t : Nat) : State :=
  if 4 < t then s
  else
    let s := s.wr .PWR_STATE_CTL_TARGET [] t
    if s.power.trans.isSome || !s.coreRuns then s.onPower (fun p => { p with heldTarget := some t }) else s.requestState t

/-- R358: STATE_TARGET_WRITE: from Run, Idle and Sleep. -/
def execStateTargetWrite (req : Req) (target : Fin 8) (s : State) : Result :=
  .next (s.begin.via req (·.targetWrite target))

/-- R22, R357: the wings' requests; 0b11 is taken as Sleep. -/
def State.wingWrite (s : State) (a b : Nat) : State :=
  let s := (s.wr .PWR_STATE_CTL_WING_A [] (min 2 a)).wr .PWR_STATE_CTL_WING_B [] (min 2 b)
  s.when (s.power.trans.isNone && s.coreRuns) State.requestWings

/-- R357: WING_STATE_WRITE. -/
def execWingStateWrite (req : Req) (wingA wingB : Fin 4) (s : State) : Result :=
  .next (s.begin.via req (·.wingWrite wingA wingB))

/-- R91: the wing's carrier is dark. -/
def State.dark (s : State) (w : Wing) : Bool :=
  let st := s.optState w
  decide (st < 2) || decide (4 < st)

/-- R358: the carriers of the wings that leave Run are dark, and every ordinary stage asked for is admitted. -/
def State.entryReady (s : State) (t : Nat) : Bool :=
  (s.wingUnder .a t == 0 || s.dark .a) && (s.wingUnder .b t == 0 || s.dark .b) &&
    s.power.queue.all (fun d => d == .secondPass .a || d == .secondPass .b)

/-- R356: the shared domains that a state keeps down. -/
def sharedDown (t : Nat) : List Domain :=
  (if 1 ≤ t then [.cipher, .switch] else []) ++
    (if 2 ≤ t then [.client false, .client true, .corridor, .supervisory] else [])

/-- R328, R358, R363: the further steps of Deep sleep and Off: the cupboard zeroises, MT is saved, the link goes down. -/
def State.deepSteps (s : State) : State :=
  let s := s.zeroise.onPower (fun p => { p with mtSave := some s.mt })
  ((s.wrb .HST_LINK_UP [] false).wr .HST_LINK_GEN [] 0).wr .HST_LINK_WIDTH [] 0

/-- R351, R361: in Off the attic and AON's record are lost, and PGOOD is low. -/
def State.enterOff (s : State) : State :=
  let s := s.clearRows atticRows
  { s with
    attic := Attic.reset
    pins := { s.pins with pgood := false, smbAlert := false }
    boot := { s.boot with selfTestPassed := false } }

/-- R358: the module state changes. -/
def State.enterState (s : State) (t : Nat) : State :=
  let changed := t != s.power.state
  let watch := t == 3 && s.flag .PWR_WATCH_CFG_EN
  let s := s.onPower (fun p => { p with state := if watch then 5 else t, trans := none, watch := PerWing.both 0 })
  let s := ((s.wr .PWR_STATE_STAT_STATE [] t).wrb .PWR_STATE_STAT_BUSY [] false).powerDown (sharedDown t)
  let s := (s.applyLanes.when (decide (3 ≤ t)) State.deepSteps).evt .PWR_EVT_STATE_DONE
  (s.when changed State.alert).when (t == 4) State.enterOff

/-- R149, R357, R358: the transition completes; out of Sleep the SUP island wakes. -/
def State.entryDone (s : State) (t : Nat) : State :=
  let s := (s.moveWing .a (s.wingUnder .a t)).moveWing .b (s.wingUnder .b t)
  let woken := s.power.state == 2 && decide (t < 2)
  ((s.enterState t).when woken State.resetContexts).when (decide (t < 3)) State.afterTransition

/-- R358: STATE_ENTRY_DONE. -/
def execStateEntryDone (s : State) : Result :=
  let s := s.begin
  .next (match s.power.trans with
    | some t => s.when (s.entryReady t) (·.entryDone t)
    | none => s)

/-- R359: an island may refuse or abort the transition for a reason. -/
def State.mayRefuse (s : State) (t island reason : Nat) : Bool :=
  match reason with
  | 1 => true
  | 2 => island == 2 && decide (3 ≤ t) && s.secBusy
  | 3 => island == 0 && decide (3 ≤ t)
  | 4 => (island == 13 && !s.dark .a) || (island == 14 && !s.dark .b)
  | 5 => s.islandFailed island
  | 6 => island == 1
  | 7 => island == 5 && decide (3 ≤ t) && s.dmaActive
  | _ => false

/-- R359: the reasons that abort an entry already in progress. -/
def abortsEntry (reason : Nat) : Bool := reason == 1 || reason == 4 || reason == 5

/-- R359: what a return to the previous state takes down again. -/
def State.unraise (s : State) : State :=
  let s := s.powerDown (sharedDown s.power.state)
  let s := s.when (s.wingState .a != 0) (·.powerDown (wingDomains .a (s.wingState .a == 2)))
  s.when (s.wingState .b != 0) (·.powerDown (wingDomains .b (s.wingState .b == 2)))

/-- R359: the module returns to the previous state. -/
def State.returnState (s : State) : State :=
  let s := ((s.onPower (fun p => { p with trans := none })).wrb .PWR_STATE_STAT_BUSY [] false).unraise
  (s.optEval .a).optEval .b

/-- R358: after a refusal only a held TARGET is acted on. -/
def State.actHeld (s : State) : State := s.when s.power.heldTarget.isSome State.afterTransition

/-- R19, R26: a close handshake that timed out is a doorway fault of the receiving island; which island was at the
doorway's other end is a free value (assumption 4). -/
def State.closeTimeout (s : State) (island : Nat) : State :=
  let f := s.fresh 25
  f.2.declareFailed 2 island f.1

/-- R26, R359: STATE_ENTRY_REFUSE. -/
def execStateEntryRefuse (island : Fin 25) (reason : Fin 16) (s : State) : Result :=
  let s := s.begin
  .next (match s.power.trans with
    | some t => s.when (s.mayRefuse t island reason) (fun s =>
        (((s.when (reason.val == 1) (·.closeTimeout island)).returnState).refuse island reason t
          (abortsEntry reason)).actHeld)
    | none => s)

/-! ### Wake on access (R360) -/

/-- R16, R354: the register stage of an island from 7 on: 0 wing A, 1 wing B, 2 shared. -/
def stageGroup (island : Nat) : Nat := if island ≤ 16 then (island - 7) % 2 else 2

/-- R354: the domain of a register stage. -/
def groupDomain (g : Nat) : Domain := if g = 2 then .regShared else .regWing (Wing.num g)

/-- R356: the island's clock runs by the power state alone. -/
def State.stateClocks (s : State) (island : Nat) : Bool :=
  if 6 < island && island ≤ 16 then s.wingState (Wing.num ((island - 7) % 2)) == 0
  else if island = 0 then s.power.state != 4 && s.power.state != 6
  else if island = 1 then decide (s.power.state ≤ 3)
  else if island ≤ 6 then decide (s.power.state ≤ 2)
  else if island ≤ 20 then s.power.state == 0
  else decide (s.power.state ≤ 1)

/-- R356, R360: the island is clocked. -/
def State.clocked (s : State) (island : Nat) : Bool :=
  s.stateClocks island || s.power.woken.contains (stageGroup island)

/-- R360: an access wakes an island's register stage; `stall` in 0.1 µs. -/
def State.wakeIsland (s : State) (island stall : Nat) : State :=
  let g := stageGroup island
  let s := (s.admitStage (groupDomain g)).onPower (fun p => { p with woken := g :: p.woken.filter (· != g) })
  let s := s.countWrap .PWR_WOA_CNT_WAKES []
  (s.wr .PWR_WOA_CNT_MAX_STALL [] (max stall (s.rd .PWR_WOA_CNT_MAX_STALL))).native 0x0F 0 (100 * stall)

/-- R360: WAKE_ON_ACCESS: of an unclocked island, with a stall of at most 60 µs. -/
def execWakeOnAccess (island : Fin 25) (stall : Nat) (s : State) : Result :=
  let s := s.begin
  .next (s.when (decide (s.power.state ≤ 2) && s.isRunning && !s.clocked island && decide (stall ≤ 600))
    (·.wakeIsland island stall))

/-- R360: WOA_LINGER_EXPIRY: the register stage stops again. -/
def execWoaLingerExpiry (group : Fin 3) (s : State) : Result :=
  let s := s.begin
  .next (s.onPower (fun p => { p with woken := p.woken.filter (· != group.val) }))

/-! ### Wakes (R361, R362) -/

/-- R361: Deep sleep or Watch. -/
def State.asleep (s : State) : Bool := s.power.state == 3 || s.power.state == 5

/-- R361, R366: WAKE_N_ASSERT: a wake; during an entry to Deep sleep or Off a refusal by AON. -/
def execWakeNAssert (s : State) : Result :=
  let s := s.begin
  .next (if s.asleep || s.power.state == 4 then s.wake 1
    else match s.power.trans with
      | some t => s.when (decide (3 ≤ t)) (fun s => (s.returnState.refuse 0 3 t false).actHeld)
      | none => s.recause 1)

/-- R361: WAKE_TIMER_EXPIRY. -/
def execWakeTimerExpiry (s : State) : Result :=
  let s := s.begin
  .next (s.when (s.asleep && s.rd .PWR_WAKE_CFG_TIMER != 0) (·.wake 3))

/-- R362: one wing's measurement in Watch. -/
def State.watchWing (s : State) (w : Wing) (mean : Nat) : State :=
  if !(s.rd .PWR_WATCH_CFG_WINGS).testBit w.n then s
  else
    let n := if s.rd .PWR_WATCH_CFG_TH < mean then s.power.watch.get w + 1 else 0
    (s.onPower (fun p => { p with watch := p.watch.set w n })).wr .PWR_WAKE_REC_WATCH_LAST [] mean

/-- R362: the wing has exceeded the threshold often enough. -/
def State.watchHit (s : State) (w : Wing) : Bool := decide (s.rd .PWR_WATCH_CFG_CONFIRM < s.power.watch.get w)

/-- R362, R366: light wakes the module, or is the cause recorded where another source has just done so. -/
def State.lightFound (s : State) (cause : Nat) : State := if s.power.state = 5 then s.wake cause else s.recause cause

/-- R362: a measurement in Watch. -/
def State.watchCycle (s : State) (meanA meanB : Nat) : State :=
  let s := (s.watchWing .a meanA).watchWing .b meanB
  if s.watchHit .a then (s.wr .PWR_WAKE_REC_WATCH_LAST [] meanA).lightFound 4
  else if s.watchHit .b then s.lightFound 5
  else s

/-- R366: a cycle during which another source has woken the module out of Watch. -/
def State.wokeInCycle (s : State) : Bool :=
  s.flag .PWR_WAKE_REC_FLAG && s.rd .PWR_WAKE_REC_FROM == 5 && decide (s.uptime < s.power.wokeAt + 1000)

/-- R362, R366: WATCH_CYCLE: the mean codes of the selected wings. -/
def execWatchCycle (meanA meanB : Nat) (s : State) : Result :=
  let s := s.begin
  .next (s.when (s.power.state == 5 || s.wokeInCycle) (·.watchCycle meanA meanB))

/-! ### Workers under a manager (R364) -/

/-- R364: the request goes to one worker. -/
def State.sendHier (s : State) (addr : Nat) : State :=
  (s.sendCell addr (.hier s.power.hierTarget)).wr .PWR_HIER_STAT_DONE [] (s.rd .PWR_HIER_STAT_DONE + 1)

/-- R364: a request is forwarded to the workers that the corridor reaches; one that raises power, to the first. -/
def State.hierGo (s : State) (reachable : List Nat) : State :=
  let t := s.rd .PWR_HIER_CTL_TARGET
  let known := s.cor.nodes.map (·.1)
  let hit := known.filter (fun a => reachable.contains a)
  let s := (s.wr .PWR_HIER_STAT_SKIPPED [] (known.length - hit.length)).wr .PWR_HIER_STAT_DONE [] 0
  let s := s.onPower (fun p => { p with hierTarget := t, hierLeft := [] })
  if t = 0 then
    match hit with
    | a :: rest => ((s.sendHier a).onPower (fun p => { p with hierLeft := rest })).wrb .PWR_HIER_STAT_BUSY []
        (!rest.isEmpty)
    | [] => s
  else hit.foldl State.sendHier s

/-- R364: HIER_GO: of a manager, with no forwarding in progress. -/
def execHierGo (req : Req) (reachable : List Nat) (s : State) : Result :=
  .next (s.begin.via req (fun s =>
    s.when (s.flag .COR_CTL_MANAGER && !s.flag .PWR_HIER_STAT_BUSY && !s.halted 5 &&
      decide (s.rd .PWR_HIER_CTL_TARGET ≤ 4)) (·.hierGo reachable)))

/-- R38, R364: HIER_FORWARD_NEXT: no cell is sent while the Corridor block is stopped. -/
def execHierForwardNext (s : State) : Result :=
  let s := s.begin
  .next (if s.halted 5 then s else match s.power.hierLeft with
    | a :: rest => ((s.sendHier a).onPower (fun p => { p with hierLeft := rest })).wrb .PWR_HIER_STAT_BUSY []
        (!rest.isEmpty)
    | [] => s)

end Sys2Proof.Machine
end

