-- ==== Sys2Proof/Machine/Image.lean ====
section
/-!
DEFINITION. Floor-plan images: the checks of R25 and R28, the image commands of R36, and the flash banks (R31, R33, R34).
-/

namespace Sys2Proof.Machine

/-! ### Check 1: the format (R27, R28, R29) -/

/-- R29: a section type is present. -/
def Image.has (i : Image) (ty : Nat) : Bool := i.entries.any (fun e => e.ty == ty)

/-- R29: the sections that must be present. -/
def requiredTypes : List Nat := [1, 2, 3, 7, 9, 10, 11]

/-- R29: the pairing of WING and OPTICAL sections. -/
def pairsOk (i : Image) : Bool := (Image.has i 3 == Image.has i 5) && (Image.has i 4 == Image.has i 6)

/-- R28: two sections do not overlap. -/
def apart (x y : SecEntry) : Bool := decide (x.offset + x.length ≤ y.offset) || decide (y.offset + y.length ≤ x.offset)

/-- R28: no two sections overlap. -/
def allApart : List SecEntry → Bool
  | [] => true
  | e :: es => es.all (apart e) && allApart es

/-- R27: the length of the signature. -/
def sigLen : Nat := 7856

/-- R28: an entry of the section table is well formed and its section lies before the signature. -/
def entryFormOk (len : Nat) (e : SecEntry) : Bool :=
  decide (1 ≤ e.ty) && decide (e.ty ≤ 11) && e.flags == 0 && e.rsv == 0 && decide (e.offset + e.length + sigLen ≤ len)

/-- R28: check 1. -/
def formatOk (i : Image) (supplied : Nat) : Bool :=
  i.magic == 0x444B4650 && i.format == 1 && decide (1 ≤ i.entries.length) && decide (i.entries.length ≤ 32) &&
    i.imageLen == supplied && decide (i.imageLen ≤ 67108864) && i.entries.all (entryFormOk i.imageLen) &&
    decide (i.entries.map (·.ty)).Nodup && requiredTypes.all (Image.has i) && pairsOk i && allApart i.entries &&
    i.rsvZero && decide (i.variantMask < 8)

/-! ### Check 2: the target -/

/-- R4, R28: the bit of VARIANT_MASK of the module's code. -/
def State.variantBit (s : State) : Nat := s.rd .GLB_ID_VARIANT - 1

/-- R28: check 2. -/
def State.targetOk (s : State) (i : Image) : Bool :=
  i.part == 0x6432 && i.variantMask.testBit s.variantBit && decide (i.minStepping ≤ s.rd .GLB_ID_STEPPING)

/-! ### Check 7: the rules of R25 -/

/-- The WING sections of an image. -/
def Image.wings (i : Image) : List WingSec := i.wingA.toList ++ i.wingB.toList

/-- R25: the tap pool. -/
def tapsOk (i : Image) : Bool :=
  decide (((Image.wings i).map (·.taps)).sum ≤ 65536) && (Image.wings i).all (fun w => !w.enable || decide (4096 ≤ w.taps))

/-- R25: a channel's ceiling and minimum. -/
def chanOk (c : ChanSec) : Bool := decide (c.ceiling ≤ 640) && decide (c.minimum ≤ c.ceiling)

/-- R25: a wing's channels. -/
def wingChansOk (w : WingSec) : Bool :=
  decide (w.chans.length ≤ 32) && w.chans.all chanOk &&
    decide ((w.chans.map (·.minimum)).sum ≤ slotsOf w.floorBaud w.floorH w.floorFec)

/-- R280: a defined combination of width and lane rate (212.5, 106.25 or 53.125 Gb/s). -/
def comboOk (p : PortSec) : Bool :=
  match p.rate with
  | 0 => decide (p.width ≤ 3)
  | 1 => decide (1 ≤ p.width) && decide (p.width ≤ 3)
  | 2 => decide (2 ≤ p.width) && decide (p.width ≤ 3)
  | _ => false

/-- R280: the lanes of a port. -/
def PortSec.lanes (p : PortSec) : List Nat := (List.range (2 ^ p.width)).map (p.lane0 + ·)

/-- R25: client ports and lanes. -/
def portsOk (ps : List PortSec) : Bool :=
  ps.all (fun p => comboOk p && decide (p.num < 32) && p.lane0 % 2 ^ p.width == 0 && decide (p.lane0 + 2 ^ p.width ≤ 32)) &&
    decide (ps.map (·.num)).Nodup && decide (ps.map PortSec.lanes).flatten.Nodup && decide (ps.length ≤ 32)

/-- The channel count of a wing's section; 0 when it is absent. -/
def chanTotal : Option WingSec → Nat
  | some w => w.chans.length
  | none => 0

/-- R25: a channel index lies within the channel count of an enabled wing. -/
def Image.chanThere (i : Image) (c : Nat) : Bool :=
  let w := if c < 32 then i.wingA else i.wingB
  (w.map (·.enable)).getD false && decide (c % 32 < chanTotal w)

/-- R25: a port's target exists. -/
def mapOk (i : Image) (e : Nat × MapTarget) : Bool :=
  match e.2 with
  | .chan c => Image.chanThere i c
  | .group g => match i.hall.groups[g]? with
    | some x => x.port == e.1
    | none => false

/-- The channels that the Hallway map names, by port or by group. -/
def HallSec.chans (h : HallSec) : List Nat :=
  h.maps.filterMap (fun e => match e.2 with
    | .chan c => some c
    | .group _ => none) ++ h.groups.map (·.chA) ++ h.groups.map (fun g => 32 + g.chB)

/-- R25: a group names a defined port and channels within the wings' counts. -/
def groupOk (i : Image) (g : GroupSec) : Bool :=
  i.ports.any (fun p => p.num == g.port) && decide (g.chA < chanTotal i.wingA) && decide (g.chB < chanTotal i.wingB) &&
    i.hall.maps.all (fun e => match e.2 with
      | .chan _ => e.1 != g.port
      | .group _ => true)

/-- R25: the Hallway map. -/
def hallOk (i : Image) : Bool :=
  let h := i.hall
  decide (h.maps.map (·.1)).Nodup && h.maps.all (mapOk i) && decide (h.groups.length ≤ 8) && h.groups.all (groupOk i) &&
    decide (h.groups.map (·.port)).Nodup && decide (HallSec.chans h).Nodup

/-- R25: pantry cells and descriptors. -/
def pantryOk (p : PantrySec) : Bool :=
  (p.reserves.map (·.2)).sum + p.partA + p.partB + p.partIn + p.shared == 786432 &&
    p.descEgress + p.descIngress + p.descShared == 524288

/-- R25: decimation contexts. -/
def decimOk (i : Image) : Bool :=
  decide ((i.modul.decim.filter (fun e => decide (e.2 < 24))).length + (Image.wings i).countP (·.enable) ≤ 24)

/-- R16: the clock of an island in kHz; for the TX, RX and CV islands that at the wing's maximum symbol rate (in 0.25 GBd
units). -/
def islandClock (maxBaud island : Nat) : Nat :=
  match island with
  | 5 => 1000000
  | 6 => 625000
  | 11 => 1600000
  | 12 => 1600000
  | 15 => 1000000
  | 16 => 1000000
  | 17 => 1750000
  | 18 => 1600000
  | 19 => 1000000
  | 20 => 1200000
  | 21 => 1330000
  | 22 => 1330000
  | 23 => 830000
  | 24 => 200000
  | 13 => maxBaud * 2250000 / 512
  | 14 => maxBaud * 2250000 / 512
  | n => if 7 ≤ n && n ≤ 10 then maxBaud * 2250000 / 2048 else 0

/-- R25: each island's frequency is at most the clock given for it. -/
def freqsOk (i : Image) : Bool :=
  i.modul.freqs.all (fun e => decide (e.2 ≤ islandClock 0 e.1)) &&
    (Image.wings i).all (fun w => w.freqs.all (fun e => decide (e.2 ≤ islandClock w.maxBaud e.1)))

/-- How often DEFAULTS holds a field's instance. -/
def timesGiven (ds : List FieldValue) (row inst : Nat) : Nat := ds.countP (fun f => f.row == row && f.inst == inst)

/-- R10, R25: DEFAULTS has one entry for each field that takes its value from it and none for any other. -/
def defaultsOk (ds : List FieldValue) : Bool :=
  let rows := allRows.filter Row.fromDefaults
  ds.all (fun f => rows.any (fun r => r.id == f.row && decide (f.inst < r.count))) &&
    rows.all (fun r => (List.range r.count).all (fun n => timesGiven ds r.id n == 1))

/-- R25, R86: the DEFAULTS frequencies of an enabled wing lie within the code's range. -/
def State.tuningOk (s : State) (i : Image) (w : Wing) : Bool :=
  let sec := match w with
    | .a => i.wingA
    | .b => i.wingB
  !(sec.map (·.enable)).getD false || i.defaults.all (fun f =>
    !((f.row == Row.OPT_TX_FREQ_CH.id || f.row == Row.OPT_LO_FREQ_CH.id) && f.inst == w.n) ||
      s.chOk (toSigned Row.OPT_TX_FREQ_CH.width f.value))

/-- R28: check 7. -/
def State.resourcesOk (s : State) (i : Image) : Bool :=
  tapsOk i && (Image.wings i).all wingChansOk && portsOk i.ports && hallOk i && pantryOk i.pantry && decimOk i && freqsOk i &&
    defaultsOk i.defaults && s.tuningOk i .a && s.tuningOk i .b

/-- R3, R28: an image sets a cipher enable (check 8). -/
def Image.cipherOn (i : Image) : Bool := i.modul.cipher || (Image.wings i).any (fun w => w.chans.any (·.cipher))

/-- R28: the reason code of the first check that fails, 0 when every check passes. -/
def State.verify (s : State) (i : Image) (supplied : Nat) : Nat :=
  if !formatOk i supplied then 1
  else if !s.targetOk i then 2
  else if i.rootHash != s.fuses.rootHash then 3
  else if !i.sigOk then 4
  else if i.svn < s.fuses.svn then 5
  else if i.entries.any (fun e => e.digest != e.hashed) then 6
  else if !s.resourcesOk i then 7
  else if s.isC0 && Image.cipherOn i then 8
  else 0

/-! ### The restart scope (R29, R36) -/

/-- R29: the scope of a change in a section: bit 2 module, bit 1 wing B, bit 0 wing A. -/
def typeScope (ty : Nat) : Nat :=
  match ty with
  | 3 => 1
  | 5 => 1
  | 4 => 2
  | 6 => 2
  | 11 => 0
  | _ => 4

/-- A section's digest, if the image has the section. -/
def Image.digestOf (i : Image) (ty : Nat) : Option Nat := (i.entries.find? (fun e => e.ty == ty)).map (·.digest)

/-- R29: the sections in which two images differ. -/
def changedTypes (x y : Image) : List Nat :=
  ((List.range 12).drop 1).filter (fun ty => decide (Image.digestOf x ty ≠ Image.digestOf y ty))

/-- R29, R36: SCOPE of a staged image. -/
def State.scopeOf (s : State) (i : Image) : Nat :=
  match s.image.running with
  | none => 4
  | some r =>
    let ts := changedTypes r i
    if ts.any (fun t => typeScope t == 4) then 4
    else bitNat (ts.any (fun t => typeScope t == 1)) + 2 * bitNat (ts.any (fun t => typeScope t == 2))

/-! ### The image commands (R36) -/

/-- Change what SEC holds of images. -/
def State.onImage (s : State) (f : ImageState → ImageState) : State := { s with image := f s.image }

/-- R36: a command is refused. -/
def State.refuseImg (s : State) : State := s.wrb .SEC_IMG_STAT_REFUSED [] true

/-- R28: a reason code is recorded. -/
def State.imgReason (s : State) (reason : Nat) : State :=
  (s.wr .SEC_IMG_STAT_REASON [] reason).emit 2 0 (reasonCode 6 reason)

/-- R36: a command other than ABORT is refused while another executes. -/
def State.imgBlocked (s : State) : Bool := s.flag .SEC_IMG_STAT_BUSY

/-- R407: the command fetches from host memory, through engine 7. -/
def ImgCmd.fetches (c : ImgCmd) : Bool := c == .loadVerify || c == .activate || c == .program

/-- R36: a command runs. -/
def State.startImg (s : State) (c : ImgCmd) : State :=
  (((s.onImage (fun x => { x with cmd := some c })).wrb .SEC_IMG_STAT_BUSY [] true).wr .SEC_IMG_STAT_PROGRESS [] 0).when
    c.fetches (·.askDma .image)

/-- R24: the running command's transfer, if it has one, is carried out. -/
def State.imgServed (s : State) : Bool :=
  match s.image.cmd with
  | some c => !c.fetches || s.dmaServes .image
  | none => true

/-- R24: the running command's transfer ends with it. -/
def State.endFetch (s : State) : State := s.when (s.host.engine7.contains .image) (·.endDma .image)

/-- R36, R404: the running command ends, BUSY falls and the security vector is requested. -/
def State.endImg (s : State) : State :=
  ((s.endFetch.onImage (fun x => { x with cmd := none, target := none })).wrb .SEC_IMG_STAT_BUSY [] false).ring 5

/-- R36: no image is staged any more. -/
def State.unstage (s : State) : State :=
  ((s.onImage (fun x => { x with staged := none })).wrb .SEC_IMG_STAT_STAGED [] false).wr .SEC_IMG_STAT_SCOPE [] 0

/-- R36: LOAD_VERIFY. Nothing is staged from its start on (DESIGN CHOICE, assumption 51). -/
def State.loadVerify (s : State) : State := if s.imgBlocked then s.refuseImg else (s.unstage).startImg .loadVerify

/-- R36: LOAD_VERIFY. -/
def execLoadVerify (req : Req) (s : State) : Result := .next (s.begin.viaSec req (·.loadVerify))

/-- R28, R36: a verification of the host's image succeeds. -/
def State.stageImage (s : State) (i : Image) : State :=
  (((s.onImage (fun x => { x with staged := some i })).wrb .SEC_IMG_STAT_STAGED [] true).wr .SEC_IMG_STAT_SCOPE []
    (s.scopeOf i)).wr .SEC_IMG_STAT_PROGRESS [] 100

/-- R28: LOAD_VERIFY ends; no image when its transfer was aborted or host memory could not be read. -/
def State.loadVerified (s : State) : Option Image → State
  | none => (s.imgReason 10).endImg
  | some i =>
    let r := s.verify i (s.rd .SEC_IMG_LEN_LEN)
    if r = 0 then (s.stageImage i).endImg else (s.imgReason r).endImg

/-- R28: LOAD_VERIFY_DONE. -/
def execLoadVerifyDone (img : Option Image) (s : State) : Result :=
  let s := s.begin
  .next (if s.image.cmd = some .loadVerify && s.imgServed then s.loadVerified img else s)

/-- R36: SEC's refetch of the sections did not match their hashes. -/
def State.refetchFailed (s : State) : State := (s.wr .SEC_IMG_STAT_REASON [] 6).refuseImg

/-- R37: the host's image becomes the running one. -/
def State.runStaged (s : State) (i : Image) : State :=
  ((s.onImage (fun x => { x with running := some i })).showImage i 2 0 true).unstage

/-- R354, R355, R424 step 6: the stages of every domain that a start needs. -/
def State.startStages (s : State) (i : Image) : State :=
  let on := fun (w : Option WingSec) => (w.map (·.enable)).getD false
  let ds := (if on i.wingA then wingDomains .a true else []) ++ (if on i.wingB then wingDomains .b true else []) ++
    [.regShared, .switch, .client false, .client true, .corridor, .supervisory] ++ (if s.isC0 then [] else [.cipher])
  s.enqueueStages ds

/-- R424: step 6 begins: the islands are configured. -/
def State.beginConfigure (s : State) (i : Image) : State :=
  let s := (s.wr .GLB_BOOT_STAT_STAGE [] 4).startStages i
  { s with boot := { s.boot with step := 6 } }

/-- R36, R429: an ACTIVATE that is not refused, of an image staged with a scope. -/
def State.activateAs (s : State) (i : Image) (scope : Nat) : State :=
  if s.image.running.isNone then ((s.startImg .activate).runStaged i).beginConfigure i
  else if scope = 4 then s.commandReset 7 true
  else if scope = 0 then (s.startImg .activate).runStaged i
  else ((s.startImg .activate).optEval .a).optEval .b

/-- R36: ACTIVATE. SEC refetches what it adopts, but for the module scope, which resets. -/
def State.activate (s : State) (refetchOk : Bool) : State :=
  match s.image.staged with
  | none => s.refuseImg
  | some i =>
    let scope := s.rd .SEC_IMG_STAT_SCOPE
    if s.imgBlocked then s.refuseImg
    else if !refetchOk && (scope != 4 || s.image.running.isNone) then s.refetchFailed
    else s.activateAs i scope

/-- R36: ACTIVATE. -/
def execActivate (req : Req) (refetchOk : Bool) (s : State) : Result := .next (s.begin.viaSec req (·.activate refetchOk))

/-- R36, R431: the carriers of the wings that an ACTIVATE restarts are dark. -/
def State.activateReady (s : State) : Bool :=
  (!s.restartDue .a || s.dark .a) && (!s.restartDue .b || s.dark .b)

/-- R36: an ACTIVATE of wing scope completes: the image is adopted and the wings restart. -/
def State.adoptWings (s : State) : State :=
  match s.image.staged with
  | none => s
  | some i =>
    let a := s.restartDue .a
    let b := s.restartDue .b
    let s := (s.onImage (fun x => { x with cmd := none })).runStaged i
    (s.when a (·.restartWing .a)).when b (·.restartWing .b)

/-- R36: IMAGE_COMMAND_DONE, for ACTIVATE, CONFIRM and ADVANCE_SVN. -/
def State.imageDone (s : State) : State :=
  match s.image.cmd with
  | some .activate => if s.activateReady && s.imgServed then ((s.adoptWings).wr .SEC_IMG_STAT_PROGRESS [] 100).endImg else s
  | some .confirm => (s.wr .SEC_IMG_STAT_PROGRESS [] 100).endImg
  | some .advanceSvn => (s.wr .SEC_IMG_STAT_PROGRESS [] 100).endImg
  | _ => s

/-- R36: IMAGE_COMMAND_DONE. -/
def execImageCommandDone (s : State) : Result := .next s.begin.imageDone

/-! ### Flash banks (R31, R33, R34) -/

/-- A bank: false is A, true is B. -/
def ImageState.bank (x : ImageState) (b : Bool) : Bank := if b then x.bankB else x.bankA

/-- Write a bank. -/
def ImageState.setBank (x : ImageState) (b : Bool) (k : Bank) : ImageState :=
  if b then { x with bankB := k } else { x with bankA := k }

/-- Write a bank. -/
def State.setBank (s : State) (b : Bool) (k : Bank) : State := s.onImage (fun x => x.setBank b k)

/-- R31: a bank may be tried. -/
def Bank.eligible (k : Bank) : Bool := k.state == .new || k.state == .good

/-- R33: the bank that PROGRAM writes. -/
def State.programTarget (s : State) : Bool :=
  let x := s.image
  match s.rd .GLB_FP_INFO_SOURCE with
  | 0 => true
  | 1 => false
  | _ =>
    if !x.bankA.eligible then false
    else if !x.bankB.eligible then true
    else decide (x.bankB.seq < x.bankA.seq)

/-- R33: PROGRAM of a staged image that verifies: the target's record reads EMPTY. -/
def State.programBank (s : State) : State :=
  let b := s.programTarget
  ((s.startImg .program).setBank b Bank.blank).onImage (fun x => { x with target := some b })

/-- R33, R36: PROGRAM. -/
def State.program (s : State) : State :=
  match s.image.staged with
  | none => s.refuseImg
  | some i =>
    if s.imgBlocked then s.refuseImg
    else
      let r := s.verify i i.imageLen
      if r = 0 then s.programBank else s.imgReason r

/-- R33: PROGRAM. -/
def execProgram (req : Req) (s : State) : Result := .next (s.begin.viaSec req (·.program))

/-- R33: the sequence number of a new record; the field's 32 bits wrap (DESIGN CHOICE, assumption 51). -/
def ImageState.nextSeq (x : ImageState) : Nat := (max x.bankA.seq x.bankB.seq + 1) % 2 ^ 32

/-- R33: the target bank's record is written. -/
def State.programmed (s : State) : State :=
  match s.image.cmd, s.image.target, s.image.staged with
  | some .program, some b, some i =>
    ((s.setBank b ⟨.new, s.image.nextSeq, 0, some i⟩).wr .SEC_IMG_STAT_PROGRESS [] 100).endImg
  | _, _, _ => s

/-- R33: PROGRAM_DONE. -/
def execProgramDone (s : State) : Result :=
  let s := s.begin
  .next (s.when s.imgServed (·.programmed))

/-- R34: the running bank, if the image came from flash. -/
def State.runningBank (s : State) : Option Bool :=
  match s.rd .GLB_FP_INFO_SOURCE with
  | 0 => some false
  | 1 => some true
  | _ => none

/-- R34: a running NEW bank becomes GOOD. -/
def State.confirmBank (s : State) : State :=
  match s.runningBank with
  | some b =>
    let k := s.image.bank b
    if k.state = .new then (s.setBank b { k with state := .good }).wrb .GLB_FP_INFO_CONFIRMED [] true else s
  | none => s

/-- R34: CONFIRM. -/
def State.confirm (s : State) : State := if s.imgBlocked then s.refuseImg else (s.startImg .confirm).confirmBank

/-- R34: CONFIRM. -/
def execConfirm (req : Req) (s : State) : Result := .next (s.begin.viaSec req (·.confirm))

/-- R34: ADVANCE_SVN: only for a confirmed running image; the fused version never returns to a lower value. -/
def State.advanceSvn (s : State) : State :=
  if s.imgBlocked || s.image.running.isNone || !s.flag .GLB_FP_INFO_CONFIRMED then s.refuseImg
  else
    let s := s.startImg .advanceSvn
    { s with fuses := { s.fuses with svn := max s.fuses.svn (s.rd .GLB_FP_INFO_SVN) } }

/-- R34: ADVANCE_SVN. -/
def execAdvanceSvn (req : Req) (s : State) : Result := .next (s.begin.viaSec req (·.advanceSvn))

/-- R36: ABORT stops a running LOAD_VERIFY or PROGRAM and clears STAGED; it is ignored while another command runs. -/
def State.abortImg (s : State) : State :=
  match s.image.cmd with
  | none => s.unstage
  | some .loadVerify => (s.unstage).endImg
  | some .program => (s.unstage).endImg
  | _ => s

/-- R36: ABORT. -/
def execAbort (req : Req) (s : State) : Result := .next (s.begin.viaSec req (·.abortImg))

/-- R36: a write of SEC.IMG_CTL.OP; other values are ignored. `ok` is the outcome of an ACTIVATE's refetch. -/
def State.imgCtl (s : State) (op : Nat) (ok : Bool) : State :=
  match op with
  | 1 => s.loadVerify
  | 2 => s.activate ok
  | 3 => s.program
  | 4 => s.confirm
  | 5 => s.advanceSvn
  | 6 => s.abortImg
  | _ => s

/-- R37: no image runs: FP_INFO reads SOURCE = 0b11 and shows nothing of an image. -/
def State.showNone (s : State) : State :=
  (((s.onImage (fun x => { x with running := none })).clearRows
    [.GLB_FP_INFO_BUILD, .GLB_FP_INFO_SVN, .GLB_FP_INFO_TRIALS, .GLB_FP_INFO_CONFIRMED, .GLB_FP_HASH_HASH]).wr
    .GLB_FP_INFO_SOURCE [] 3)

/-- R400, R435: PERST_N breaks host DMA: a LOAD_VERIFY or a direct ACTIVATE ends with reason 0xA and SEC waits for the
host again. -/
def State.breakFetch (s : State) : State :=
  match s.image.cmd with
  | some .loadVerify => (s.imgReason 10).endImg
  | some .program => (s.imgReason 10).endImg
  | some .activate =>
    if s.boot.step = 6 then
      let s := ((s.showNone.imgReason 10).endImg).wr .GLB_BOOT_STAT_STAGE [] 3
      { s with boot := { s.boot with step := 5 } }
    else s
  | _ => s

end Sys2Proof.Machine
end

