-- ==== Sys2Proof/Machine/Boot.lean ====
section
/-!
DEFINITION. The sequence of a full or wake start (R424 to R429, R432, R433) and the choice of a flash bank (R31, R32).
-/

namespace Sys2Proof.Machine

/-- R424: the start reaches a step, whose STAGE is shown. -/
def State.bootTo (s : State) (step stage : Nat) : State :=
  ({ s with boot := { s.boot with step := step } }).wr .GLB_BOOT_STAT_STAGE [] stage

/-- R425: the straps are sampled; a manager has address 0. -/
def State.sampleStraps (s : State) (b : BootInput) : State :=
  let s := (s.wrb .GLB_BOOT_STAT_BOOT_SRC [] b.bootSrcHost).wrb .GLB_BOOT_STAT_MGR_SEL [] b.mgrSel
  (s.wrb .COR_CTL_MANAGER [] b.mgrSel).wr .COR_STAT_ADDR [] (if b.mgrSel then 0 else 0xFFFF)

/-- R32, R429: the boot ROM waits for the host, with one attic record. -/
def State.waitHost (s : State) : State :=
  ((s.bootTo 5 3).wr .GLB_FP_INFO_SOURCE [] 3).emit 2 0 (reasonCode 0 3)

/-- R31, R32: step 5 begins: the flash banks are tried, or the host supplies the image. -/
def State.beginLoad (s : State) : State :=
  if s.boot.hostMode || s.flag .GLB_BOOT_STAT_BOOT_SRC then s.waitHost else s.bootTo 5 2

/-- R428: step 4 ends: the self-test has passed, or the start ends here. -/
def State.selfTested (s : State) (ok : Bool) : State :=
  if ok then ({ s with boot := { s.boot with selfTestPassed := true } }).beginLoad
  else ((s.wr .GLB_BOOT_STAT_STAGE [] 15).emit 2 0 (reasonCode 0 15)).assertFault

/-- R427, R428: step 3 ends: HST is configured, and the self-test runs or is skipped. -/
def State.hostUp (s : State) : State :=
  let s := { s with host := { s.host with training := !s.pins.perst } }
  if s.boot.wake && s.boot.selfTestPassed then (s.wrb .GLB_BOOT_STAT_SELF_TEST_SKIPPED [] true).beginLoad
  else s.bootTo 4 1

/-! ### The flash banks (R31) -/

/-- R31, R33: which banks are tried, in order: the one with the higher sequence number first, and of two equal ones bank A
last. -/
def State.bankOrder (s : State) : List Bool :=
  if s.image.bankB.seq < s.image.bankA.seq then [false, true] else [true, false]

/-- R433: a bank's reason code. -/
def State.bankReason (s : State) (b : Bool) (reason : Nat) : State :=
  let s := if b then s.wr .GLB_BOOT_STAT_REASON_B [] reason else s.wr .GLB_BOOT_STAT_REASON_A [] reason
  s.imgReason reason

/-- R31: a bank is marked BAD. -/
def State.markBad (s : State) (b : Bool) : State := s.setBank b { s.image.bank b with state := .bad }

/-- R28: what the verification of a bank answers; a bank without an image fails as format. -/
def State.bankCheck (s : State) (k : Bank) (flashErr : Bool) : Nat :=
  if flashErr then 9
  else match k.image with
    | some i => s.verify i i.supplied
    | none => 1

/-- R37: a bank's image becomes the running one. -/
def State.runBank (s : State) (b : Bool) : State :=
  let k := s.image.bank b
  match k.image with
  | some i =>
    let s := (s.onImage (fun x => { x with running := some i })).showImage i (bitNat b) k.trials (k.state == .good)
    s.beginConfigure i
  | none => s

/-- R31: before a NEW bank is booted its trial count is incremented. -/
def State.countTrial (s : State) (b : Bool) : State :=
  let k := s.image.bank b
  if k.state = .new then s.setBank b { k with trials := k.trials + 1 } else s

/-- R31: one bank is tried; the answer says whether its image runs. -/
def State.tryBank (s : State) (b flashErr : Bool) : State × Bool :=
  let k := s.image.bank b
  if !k.eligible then (s, false)
  else if k.state = .new && decide (3 ≤ k.trials) then (s.markBad b, false)
  else
    let s := s.countTrial b
    let r := s.bankCheck k flashErr
    if r = 0 then (s.runBank b, true) else ((s.markBad b).bankReason b r, false)

/-- R31: the banks in turn; when none runs, the boot ROM waits for the host. -/
def State.tryBanks (s : State) (errA errB : Bool) : List Bool → State
  | [] => s.waitHost
  | b :: rest =>
    let r := s.tryBank b (if b then errB else errA)
    if r.2 then r.1 else r.1.tryBanks errA errB rest

/-- R31: step 5 ends, for a start from flash. -/
def State.flashBoot (s : State) (b : BootInput) : State :=
  if s.rd .GLB_BOOT_STAT_STAGE = 2 then s.tryBanks b.flashErrA b.flashErrB s.bankOrder else s

/-! ### Steps 6 and 7 -/

/-- R424, R430: the islands are configured: RUNNING; the lanes begin their bring-up, each enabled wing its start. -/
def State.goRunning (s : State) (i : Image) (ms : Nat) : State :=
  let s := (s.configure i s.boot.wake).bootTo 7 5
  let s := (s.wr .GLB_BOOT_STAT_BOOT_MS [] (min 65535 ms)).applyLanes
  (s.when (s.wingEnabled .a) (·.beginWing .a)).when (s.wingEnabled .b) (·.beginWing .b)

/-- R424: step 6 ends once its power stages are admitted. -/
def State.configured (s : State) (ms : Nat) : State :=
  match s.image.running with
  | some i => if s.power.queue.isEmpty then s.goRunning i ms else s
  | none => s

/-- R424: the step in progress ends. -/
def State.bootNext (s : State) (b : BootInput) : State :=
  match s.boot.step with
  | 1 => ({ s with pins := { s.pins with pgood := true } }).bootTo 2 0
  | 2 => (s.sampleStraps b).bootTo 3 0
  | 3 => s.hostUp
  | 4 => if s.rd .GLB_BOOT_STAT_STAGE = 1 then s.selfTested b.selfTestOk else s
  | 5 => s.flashBoot b
  | 6 => s.configured b.ms
  | _ => s

/-- R424: BOOT_STEP_DONE. -/
def execBootStepDone (b : BootInput) (s : State) : Result := .next (s.begin.bootNext b)

end Sys2Proof.Machine
end

