-- ==== Sys2Proof/Machine/Reliability.lean ====
section
/-!
DEFINITION. Patrol scrub, the configuration sweep, the clock and doorway watches, lockstep, recovery and error
injection (R374 to R381, R19, R437).
-/

namespace Sys2Proof.Machine

/-! ### Memories (R374, R375) -/

/-- R374: DESC_AUDIT_DONE. -/
def execDescAuditDone (s : State) : Result := .next s.begin.auditDone

/-- R373: a frame of which a cell is damaged ends with a bad FCS; `n` is the cell's number. -/
def Queued.damagedBy (x : Queued) (n : Nat) : Queued :=
  if (n + memSpan 0 - x.place) % memSpan 0 < x.cells then { x with frame := { x.frame with fcsOk := false } } else x

/-- R373, R375: an uncorrectable error of a pantry cell: counted, and the frame that holds the cell is sent with a bad
FCS. -/
def State.cellDamaged (s : State) (l : MemLine) : State :=
  let n := lineNumber l
  let t := { s with pan := { s.pan with
    queues := s.pan.queues.map (fun (e : Nat × List Queued) => (e.1, e.2.map (fun x => Queued.damagedBy x n))) } }
  (t.uncorrectable l).evt .RAS_EVT_UE_DATA

/-- R374: what an uncorrectable error of a memory leads to. -/
def State.lineDamaged (s : State) (l : MemLine) : State :=
  match l.mem.val with
  | 0 => s.cellDamaged l
  | 1 =>
    let t := s.ueControl l
    match s.queueOfDesc (lineNumber l) with
    | some q => t.flushDamaged q (lineNumber l)
    | none => t
  | 2 => s.ctxDamaged l
  | 5 => s.slotDamaged l.line
  | _ => (s.ueControl l).tapsWrite l.mem

/-- R375: the patrol scrub reads a valid line, and treats an error as a demand read would. -/
def State.scrub (s : State) (l : MemLine) (found : EccRead) : State :=
  if !s.flag .RAS_SCRUB_EN then s
  else match s.foundAt l found with
    | .clean => s
    | .single => s.correct l
    | .double => s.lineDamaged l

/-- R375: SCRUB_READ. -/
def execScrubRead (line : MemLine) (found : EccRead) (s : State) : Result := .next (s.begin.scrub line found)

/-! ### Failed islands (R19, R376, R377, R379) -/

/-- R26, R359, R382: a fault of an island that the sequencer is stopping aborts the stop; so does the timeout of a
doorway of such an island, at either end, with reason DOORWAY. -/
def State.abortStop (s : State) (kind i peer : Nat) : State :=
  match s.power.trans with
  | some t => s.when (s.stopsIsland t i || (kind == 2 && s.stopsIsland t peer))
      (fun s => (s.returnState.refuse i (if kind = 2 then 1 else 5) t true).actHeld)
  | none => s

/-- R19, R378, R379: an island fails. -/
def State.islandFails (s : State) (kind i peer : Nat) : State :=
  if s.islandFailed i then s else (s.declareFailed kind i peer).abortStop kind i peer

/-- R376: PARITY_MISMATCH: an island that is clocked and swept. -/
def execParityMismatch (island : Fin 25) (s : State) : Result :=
  let s := s.begin
  .next (s.when (s.flag .RAS_STAT_SWEEP_EN && s.clocked island) (·.islandFails 1 island 0))

/-- R377: an island's clock is watched: the sequencer holds it clocked, and a CV island's synthesiser reports lock. -/
def State.clockWatched (s : State) (i : Nat) : Bool :=
  s.clocked i && (i != 13 || (s.flag .CNV_ADC_CLK_LOCKED [0] && s.flag .CNV_DAC_CLK_LOCKED [0])) &&
    (i != 14 || (s.flag .CNV_ADC_CLK_LOCKED [1] && s.flag .CNV_DAC_CLK_LOCKED [1]))

/-- R377: CLOCK_LOSS. -/
def execClockLoss (island : Fin 25) (s : State) : Result :=
  let s := s.begin
  .next (s.when (s.clockWatched island) (·.islandFails 3 island 0))

/-- R377: SLOW_CLK_LOSS. -/
def execSlowClkLoss (s : State) : Result := .next (s.begin.evtLog .RAS_EVT_SLOW_CLK [] 0 0)

/-- R19, R377: DOORWAY_TIMEOUT, between islands that are both clocked. -/
def execDoorwayTimeout (sender receiver : Fin 25) (s : State) : Result :=
  let s := s.begin
  .next (s.when (s.flag .RAS_STAT_DWTO_EN && s.clocked sender && s.clocked receiver)
    (·.islandFails 2 receiver sender))

/-! ### The control core (R378) -/

/-- R378: a miscompare of the running cores restarts them. -/
def State.miscompare (s : State) : State :=
  if s.ras.coreDown || !s.clocked 3 then s
  else
    let s := ({ s with ras := { s.ras with coreDown := true } }).recordFault 5 3 0
    (s.countWrap .RAS_LOCKSTEP_MISCOMPARE []).evtLog .RAS_EVT_LOCKSTEP [] 3 0

/-- R378: LOCKSTEP_MISCOMPARE. -/
def execLockstepMiscompare (s : State) : Result := .next s.begin.miscompare

/-- R22, R378: the cores run again: what was asked of the sequencing meanwhile begins. -/
def State.coreBack (s : State) : State :=
  let s := ({ s with ras := { s.ras with coreDown := false } }).countWrap .RAS_LOCKSTEP_RESTARTS []
  ((s.when (s.power.trans.isNone && s.coreRuns) State.afterTransition).icmRefresh .a).icmRefresh .b

/-- R378: CORE_RESTART_DONE. -/
def execCoreRestartDone (s : State) : Result :=
  let s := s.begin
  .next (s.when s.ras.coreDown State.coreBack)

/-! ### Recovery (R379) -/

/-- R16: the islands of a wing, as a bitmap. -/
def wingMask (w : Wing) : Nat := 2 ^ (7 + w.n) + 2 ^ (9 + w.n) + 2 ^ (11 + w.n) + 2 ^ (13 + w.n) + 2 ^ (15 + w.n)

/-- R379: the islands that a scope covers. -/
def scopeMask (scope : Nat) : Nat :=
  match scope with
  | 0 => wingMask .a
  | 1 => wingMask .b
  | 2 => wingMask .a + wingMask .b
  | _ => 2 ^ 25 - 1

/-- R379, R382: a RECOVER is refused: its scope misses a failed island, or an ACTIVATE restarts a wing. -/
def State.recoverRefused (s : State) : Bool :=
  clearMask (s.rd .RAS_STAT_FAILED_MAP) (scopeMask (s.rd .RAS_CTL_SCOPE)) != 0 || s.restartDue .a || s.restartDue .b

/-- R379: the recovery of a scope; a wing is restarted from the running image. -/
def State.recoverScope (s : State) (scope : Nat) : State :=
  if scope = 3 then s.commandReset 7 false
  else if s.image.running.isNone then s
  else (s.when (scope != 1) (·.restartWing .a)).when (scope != 0) (·.restartWing .b)

/-- R379: RECOVER. -/
def State.recover (s : State) : State :=
  if s.recoverRefused then s.wrb .RAS_CTL_REFUSED [] true else s.recoverScope (s.rd .RAS_CTL_SCOPE)

/-- R379: RECOVER. -/
def execRecover (req : Req) (s : State) : Result := .next (s.begin.via req (·.recover))

/-! ### Injection and the fault record (R381) -/

/-- R381: ARM; the memory indices 6 and 7 are ignored. -/
def State.armInjection (s : State) : State := s.when (decide (s.rd .RAS_INJ_MEM < 6)) (·.wrb .RAS_INJ_ARMED [] true)

/-- R381: ECC_INJECT_ARM. -/
def execEccInjectArm (req : Req) (s : State) : Result := .next (s.begin.via req (·.armInjection))

/-- R381: the fault record is cleared. -/
def State.clearFault (s : State) : State :=
  (((s.wrb .RAS_FAULT_VALID [] false).wr .RAS_FAULT_KIND [] 0).wr .RAS_FAULT_ISLAND [] 0).wr .RAS_FAULT_PEER [] 0

/-- R381: FAULT_CLEAR. -/
def execFaultClear (req : Req) (s : State) : Result := .next (s.begin.via req (·.clearFault))

/-! ### The conditions of the guarantee (R380, R437) -/

/-- R437: RATINGS: VIN from 36 to 75 V, the cold plate from −40 to +85 °C. -/
def State.ratings (s : State) : Bool :=
  let t := tabGet 0 s.sup.temps 15
  decide (3600 ≤ s.rd .PWR_VIN_STAT_VIN) && decide (s.rd .PWR_VIN_STAT_VIN ≤ 7500) && decide (-640 ≤ t) &&
    decide (t ≤ 1360)

/-- R380: GUARANTEE. -/
def State.guarantee (s : State) : Bool := s.flag .RAS_STAT_SWEEP_EN && s.flag .RAS_STAT_DWTO_EN && s.ratings

end Sys2Proof.Machine
end

