-- ==== Sys2Proof/Machine/Observe.lean ====
section
/-!
DEFINITION. Module time and its one-second tick (R345 to R347), the general counters, freezing (R384 to R386), tags and
histograms as software reaches them (R389, R390), and the attic (R391 to R394).
-/

namespace Sys2Proof.Machine

/-- Change the counters' hidden state. -/
def State.onPmu (s : State) (f : Pmu → Pmu) : State := { s with pmu := f s.pmu }

/-! ### The general counters (R385, R386) -/

/-- R385: counter n holds the low words of a chained pair. -/
def State.chains (s : State) (n : Nat) : Bool := n % 2 == 0 && s.flag .PMU_CNT_CFG_CHAIN [n]

/-- R385: counter n is the upper half of a chained pair. -/
def State.chained (s : State) (n : Nat) : Bool := n % 2 == 1 && s.flag .PMU_CNT_CFG_CHAIN [n - 1]

/-- R385: the width of counter n. -/
def State.counterBits (s : State) (n : Nat) : Nat := if s.chains n then 96 else 48

/-- R385: the value of a pair of counter banks' words. -/
def State.counterOf (s : State) (lo hi : Row) (n : Nat) : Nat :=
  s.rdWide lo hi [n] + (if s.chains n then 2 ^ 64 * s.rd lo [n + 1] else 0)

/-- R385: write a counter's words. -/
def State.setCounter (s : State) (lo hi : Row) (n v : Nat) : State :=
  let s := (s.wr lo [n] (v % 2 ^ 32)).wr hi [n] (v / 2 ^ 32 % 2 ^ 32)
  s.when (s.chains n) (fun s => (s.wr lo [n + 1] (v / 2 ^ 64)).wr hi [n + 1] 0)

/-- R385: OVF bit of a counter. -/
def State.overflow (s : State) (n : Nat) : State :=
  let s := if n < 32 then s.bit .PMU_OVF_LO_BITS [] n else s.bit .PMU_OVF_HI_BITS [] (n - 32)
  s.evt .PMU_EVT_OVF

/-- R385: a counter adds up. -/
def State.addCounter (s : State) (n k : Nat) : State :=
  if k = 0 then s
  else
    let v := s.counterOf .PMU_CNT_LO_COUNT .PMU_CNT_HI_COUNT n
    let w := 2 ^ s.counterBits n
    let s := (s.setCounter .PMU_CNT_LO_COUNT .PMU_CNT_HI_COUNT n ((v + k) % w)).mirrored .PMU_CNT_LO_COUNT [n] k
    s.when (decide (w ≤ v + k)) (·.overflow n)

/-- R386: the largest INST of a native event; none where the CODE is undefined. -/
def nativeMax (code : Nat) : Option Nat :=
  match code with
  | 0x01 => some 24
  | 0x02 => some 24
  | 0x03 => some 767
  | 0x04 => some 767
  | 0x05 => some 767
  | 0x06 => some 767
  | 0x07 => some 767
  | 0x08 => some 511
  | 0x09 => some 255
  | 0x0A => some 255
  | 0x0B => some 63
  | 0x0C => some 511
  | 0x0D => some 63
  | 0x0E => some 3
  | 0x0F => some 0
  | 0x10 => some 0
  | 0x11 => some 0
  | _ => none

/-- R386: the word address names a live-bank count. -/
def namesLive (word : Nat) : Bool := allRows.any (fun r => decide (r.cnt = .live ∨ r.cnt = .attic) && (r.index? (4 * word)).isSome)

/-- R386: BAD_SRC of a source. -/
def badSource (mirror : Bool) (source : Nat) : Bool :=
  if mirror then !namesLive source
  else match nativeMax (source / 65536 % 128) with
    | some m => decide (m < source % 65536)
    | none => true

/-- R16: the frequency of an island in kHz; AON at its 4 MHz clock, the transmit DSP at the transmitted symbol rate, the
receive DSP and the converters (at the slice clock f_s/64 of the ADC, R122) at the received one. -/
def State.islandKhz (s : State) (i : Nat) : Nat :=
  let fixed := [4000, 25000, 800000, 1200000, 500000, 1000000, 625000]
  if i < 7 then fixed.getD i 0
  else if i ≤ 16 then
    let w := Wing.num ((i - 7) % 2)
    let baud := if i ≤ 8 then s.rd .TXW_RATE_BAUD [w.n] else s.rd .RXW_RATE_BAUD [w.n]
    match (s.wingSec w).bind (fun x => x.freqs.find? (fun e => e.1 == i)) with
    | some e => if i == 11 || i == 12 || 14 < i then e.2 else islandClock baud i
    | none => islandClock baud i
  else match s.image.running.bind (fun x => x.modul.freqs.find? (fun e => e.1 == i)) with
    | some e => e.2
    | none => islandClock 0 i

/-- R386: the clock cycles of an island in the `ns` from the present uptime on. -/
def State.cycles (s : State) (i ns : Nat) : Nat :=
  let t := s.uptime * 1000
  if s.clocked i then s.islandKhz i * (t + ns) / 1000000 - s.islandKhz i * t / 1000000 else 0

/-- R386: for how many of the `left` ns from module time `t` on a class's gate is closed. -/
def closedNs (l : GateList) (c : Nat) : Nat → Nat → Nat → Nat
  | 0, _, _ => 0
  | _ + 1, _, 0 => 0
  | fuel + 1, t, left + 1 =>
    let e := l.at_ t
    let step := min (left + 1) e.2.2
    (if e.2.1.testBit c then 0 else step) + closedNs l c fuel (t + step) (left + 1 - step)

/-- R386: the events of a native source in the `ns` that pass now. The number of doorway transfers is a free value
(assumption 4). -/
def State.nativeCount (s : State) (code inst ns : Nat) : Nat :=
  if code = 1 then s.cycles inst ns
  else if code = 2 then Config.freeValue (s.free + inst) % (s.cycles inst ns + 1)
  else if code = 0x0C then
    if s.gatesActive (inst / 8) then closedNs (s.gateList (inst / 8)) (inst % 8) (ns + 1) s.mt ns else 0
  else ((s.pmu.events.filter (fun e => e.1 == code && e.2.1 == inst)).map (·.2.2)).sum

/-- R386: what counter n's source adds in the `ns` that pass now. -/
def State.sourceCount (s : State) (n ns : Nat) : Nat :=
  let src := s.rd .PMU_CNT_CFG_SOURCE [n]
  if s.flag .PMU_CNT_CFG_MODE [n] then ((s.pmu.mirror.filter (fun e => e.1 == src)).map (·.2)).sum
  else if badSource false src then 0
  else s.nativeCount (src / 65536 % 128) (src % 65536) ns

/-- R395: counter n counts: enabled since before this update, and not the upper half of a pair. -/
def State.counts (s : State) (n : Nat) : Bool := s.use .PMU_CNT_CFG_EN [n] != 0 && !s.chained n

/-- R384, R386: an update folds the events since the last one into the counters. -/
def State.foldCounters (s : State) (ns : Nat) : State :=
  let t := { s with pmu := { s.pmu with events := [], mirror := [] }, free := s.free + 25 }
  if s.halted 7 then t
  else t.upTo 64 (fun t n => t.when (s.counts n) (·.addCounter n (s.sourceCount n ns)))

/-- R384: FREEZE and THAW take hold. -/
def State.freezeNow (s : State) : State :=
  let s := if s.pmu.freezeReq && s.pmu.frozen.isNone then
    (s.onPmu (fun p => { p with frozen := some s.store })).wrb .PMU_CTL_FROZEN [] true else s
  let s := if s.pmu.thawReq then (s.onPmu (fun p => { p with frozen := none })).wrb .PMU_CTL_FROZEN [] false else s
  s.onPmu (fun p => { p with freezeReq := false, thawReq := false })

/-- R384: what a register reads as: a count that is frozen reads the value of that instant. -/
def State.seen (s : State) (r : Row) (ix : List Nat := []) : Nat :=
  match s.pmu.frozen with
  | some st => if r.cnt = .no ∨ r.cnt = .attic then s.rd r ix else (tabGet 0 (tabGet [] st r.id) (r.flat ix)) ^^^ r.rst
  | none => s.rd r ix

/-- R384: FREEZE. -/
def execFreeze (req : Req) (s : State) : Result :=
  .next (s.begin.via req (·.onPmu (fun p => { p with freezeReq := true, thawReq := false })))

/-- R384: THAW. -/
def execThaw (req : Req) (s : State) : Result :=
  .next (s.begin.via req (·.onPmu (fun p => { p with thawReq := true, freezeReq := false })))

/-- R385: the live and previous-second banks go to zero. -/
def State.clearCounters (s : State) : State :=
  (s.clearRows [.PMU_CNT_LO_COUNT, .PMU_CNT_HI_COUNT, .PMU_CNT_PS_LO_COUNT, .PMU_CNT_PS_HI_COUNT]).onPmu
    (fun p => { p with events := [], mirror := [], atTick := [] })

/-- R385, R395: CLEAR_ALL is written: it acts at the next update, in the stopped block at once (R40). -/
def State.askClear (s : State) : State :=
  if s.blockStopped 7 then s.clearCounters else s.onPmu (fun p => { p with clearReq := true })

/-- R385: CLEAR_ALL. -/
def execClearAll (req : Req) (s : State) : Result := .next (s.begin.via req (·.askClear))

/-- R390: one histogram goes to zero. -/
def State.clearHist (s : State) (h : Nat) : State :=
  let s := (s.wr .PMU_HIST_UNDER_COUNT [h] 0).wr .PMU_HIST_OVER_COUNT [h] 0
  s.upTo 64 (fun s b => s.wr .PMU_HIST_BIN_COUNT [h, b] 0)

/-- R390: the histograms of a mask go to zero. -/
def State.clearHists (s : State) (mask : Nat) : State := s.upTo 16 (fun s h => s.when (mask.testBit h) (·.clearHist h))

/-- R390, R395: HIST_CLR is written: it acts at the next update, in the stopped block at once (R40). -/
def State.askHistClear (s : State) (mask : Nat) : State :=
  if s.blockStopped 7 then s.clearHists mask else s.onPmu (fun p => { p with histReq := p.histReq ||| mask % 65536 })

/-- R385, R389, R390, R395: at an update the clears and the pops that were asked for act. -/
def State.clearDue (s : State) : State :=
  let s := ((s.when s.pmu.clearReq (·.clearCounters)).clearHists s.pmu.histReq).when (s.pmu.popReq != 0) (fun s =>
    (s.onPmu (fun p => { p with fifo := p.fifo.drop p.popReq })).showTags)
  s.onPmu (fun p => { p with clearReq := false, histReq := 0, popReq := 0 })

/-! ### Module time (R345, R347) -/

/-- R410: the capture engines' write budget refills at 32 GB/s. -/
def State.refillBudget (s : State) (ns : Nat) : State :=
  { s with host := { s.host with budgetUsed := s.host.budgetUsed - 32 * ns } }

/-- R87, R345, R384, R395: module time advances by `ns`: the counters take what happened, what waits for the update
applies, and the lasers slew. -/
def State.advanceMt (s : State) (ns : Nat) : State :=
  let s := (((s.foldCounters ns).freezeNow).clearDue).releaseUse 5
  let s := (s.setMt (s.mt + ns)).refillBudget ns
  let s := (s.slewFine .a (ns / 1000)).slewFine .b (ns / 1000)
  { s with uptime := s.uptime + ns / 1000, dpll := { s.dpll with advanced := s.dpll.advanced + ns } }

/-- R314, R347, R388: MT takes MT_SET; the gate schedules continue from the new time; tags in flight are marked. -/
def State.stepMt (s : State) : State :=
  let t := s.setMt (s.rdWide .REF_MT_SET_LO_VALUE .REF_MT_SET_HI_VALUE)
  let s := (t.upTo 64 (fun t ch => t.stepGate s ch)).onDpll (fun d => { d with stepDue := false })
  (s.onPmu (fun p => { p with tags := p.tags.map (fun t => { t with stepped := true }) })).evt .REF_EVT_MT_STEP

/-- R345: MT_UPDATE, while the REF island runs. -/
def execMtUpdate (s : State) : Result :=
  let s := s.begin
  .next (s.when s.refUp (fun s =>
    let t := s.advanceMt 1000
    t.when t.dpll.stepDue State.stepMt))

/-! ### The one-second tick (R346) -/

/-- R346: the instances of a row that a test selects move from the live bank to the previous-second bank, and the live
bank restarts. -/
def State.latchRow (s : State) (sel : Nat → Bool) (live ps : Row) : State :=
  let now := tabGet [] s.store live.id
  let kept := (tabGet [] s.store ps.id).filter (fun e => !sel e.1)
  let t := (now.filter (fun e => sel e.1)).foldl (fun t e => tabSet 0 t e.1 e.2) kept
  let st := tabSet [] s.store live.id (now.filter (fun e => !sel e.1))
  { s with store := tabSet [] st ps.id t }

/-- Pairs of rows, one after the other. -/
def State.latchRows (s : State) (sel : Nat → Bool) (ps : List (Row × Row)) : State :=
  ps.foldl (fun s p => s.latchRow sel p.1 p.2) s

/-- The instances of one wing. -/
def ofWing (w : Wing) (r : Row) (n : Nat) : Bool := n / r.perWing == w.n

/-- The pairs of a wing's rows. -/
def State.latchWing (s : State) (w : Wing) (ps : List (Row × Row)) : State :=
  ps.foldl (fun s p => s.latchRow (ofWing w p.1) p.1 p.2) s

/-- R239: the section's and the channels' banks. -/
def otnPairs : List (Row × Row) :=
  [(.OHD_SMC_FRAMES_COUNT, .OHD_SMC_PS_FRAMES_COUNT), (.OHD_SMC_NE_BIP_COUNT, .OHD_SMC_PS_NE_BIP_COUNT),
   (.OHD_SMC_NE_EB_COUNT, .OHD_SMC_PS_NE_EB_COUNT), (.OHD_SMC_FE_BEI_COUNT, .OHD_SMC_PS_FE_BEI_COUNT),
   (.OHD_SMC_FE_EB_COUNT, .OHD_SMC_PS_FE_EB_COUNT), (.OHD_SMC_FAS_FALSE_COUNT, .OHD_SMC_PS_FAS_FALSE_COUNT),
   (.OHD_SMC_OOF_EV_COUNT, .OHD_SMC_PS_OOF_EV_COUNT), (.OHD_SMC_DEF_SEEN_DEFS, .OHD_SMC_PS_DEF_SEEN_DEFS),
   (.OHD_PMC_BLOCKS_COUNT, .OHD_PMC_PS_BLOCKS_COUNT), (.OHD_PMC_NE_BIP_COUNT, .OHD_PMC_PS_NE_BIP_COUNT),
   (.OHD_PMC_NE_EB_COUNT, .OHD_PMC_PS_NE_EB_COUNT), (.OHD_PMC_FE_BEI_COUNT, .OHD_PMC_PS_FE_BEI_COUNT),
   (.OHD_PMC_FE_EB_COUNT, .OHD_PMC_PS_FE_EB_COUNT), (.OHD_PMC_DEMAP_ERR_COUNT, .OHD_PMC_PS_DEMAP_ERR_COUNT),
   (.OHD_PMC_DEF_SEEN_DEFS, .OHD_PMC_PS_DEF_SEEN_DEFS)]

/-- R171: the decoder's banks. -/
def fecPairs : List (Row × Row) :=
  [(.FEC_BLOCKS_LO_BLOCKS, .FEC_BLOCKS_PS_LO_BLOCKS), (.FEC_BLOCKS_HI_BLOCKS, .FEC_BLOCKS_PS_HI_BLOCKS),
   (.FEC_UNCORR_LO_UNCORR, .FEC_UNCORR_PS_LO_UNCORR), (.FEC_UNCORR_HI_UNCORR, .FEC_UNCORR_PS_HI_UNCORR),
   (.FEC_UNCORR_P1_LO_UNCORR_P1, .FEC_UNCORR_P1_PS_LO_UNCORR_P1),
   (.FEC_UNCORR_P1_HI_UNCORR_P1, .FEC_UNCORR_P1_PS_HI_UNCORR_P1),
   (.FEC_BITS_LO_BITS, .FEC_BITS_PS_LO_BITS), (.FEC_BITS_HI_BITS, .FEC_BITS_PS_HI_BITS),
   (.FEC_ERR_BITS_LO_ERR_BITS, .FEC_ERR_BITS_PS_LO_ERR_BITS), (.FEC_ERR_BITS_HI_ERR_BITS, .FEC_ERR_BITS_PS_HI_ERR_BITS),
   (.FEC_DEMATCH_LO_DEMATCH_ERR, .FEC_DEMATCH_PS_LO_DEMATCH_ERR),
   (.FEC_DEMATCH_HI_DEMATCH_ERR, .FEC_DEMATCH_PS_HI_DEMATCH_ERR),
   (.FEC_ITER_LO_ITER_SUM, .FEC_ITER_PS_LO_ITER_SUM), (.FEC_ITER_HI_ITER_SUM, .FEC_ITER_PS_HI_ITER_SUM)]

/-- The receiver's banks that count (chapters 03 and 05). -/
def rxPairs : List (Row × Row) :=
  [(.RXW_HDR_ERR_CF_SLIP, .RXW_HDR_ERR_PS_CF_SLIP), (.RXW_HDR_ERR_HDR_DIFF, .RXW_HDR_ERR_PS_HDR_DIFF),
   (.RXW_HDR_ERR_HDR_CRC, .RXW_HDR_ERR_PS_HDR_CRC), (.RXW_PR_SLIP_COUNT, .RXW_PR_SLIP_PS_COUNT)]

/-- The cipher's banks (chapter 13). -/
def cipPairs : List (Row × Row) :=
  [(.CIP_SEG_OK_COUNT, .CIP_SEG_OK_PS_COUNT), (.CIP_AUTH_FAIL_COUNT, .CIP_AUTH_FAIL_PS_COUNT),
   (.CIP_NO_KEY_COUNT, .CIP_NO_KEY_PS_COUNT), (.CIP_SEQ_ERR_COUNT, .CIP_SEQ_ERR_PS_COUNT)]

/-- The client ports' banks (chapter 14). -/
def cliPairs : List (Row × Row) :=
  [(.CLI_RX_FRAMES_COUNT, .CLI_RX_FRAMES_PS_COUNT), (.CLI_RX_FCS_ERR_COUNT, .CLI_RX_FCS_ERR_PS_COUNT),
   (.CLI_RX_RUNT_COUNT, .CLI_RX_RUNT_PS_COUNT), (.CLI_RX_OVERSIZE_COUNT, .CLI_RX_OVERSIZE_PS_COUNT),
   (.CLI_RX_MACCTL_COUNT, .CLI_RX_MACCTL_PS_COUNT), (.CLI_TX_FRAMES_COUNT, .CLI_TX_FRAMES_PS_COUNT),
   (.CLI_PFC_RX_COUNT, .CLI_PFC_RX_PS_COUNT), (.CLI_PFC_TX_COUNT, .CLI_PFC_TX_PS_COUNT),
   (.CLI_POL_RED_COUNT, .CLI_POL_RED_PS_COUNT), (.CLI_POL_YELLOW_COUNT, .CLI_POL_YELLOW_PS_COUNT),
   (.CLI_RX_NOMAP_COUNT, .CLI_RX_NOMAP_PS_COUNT)]

/-- R231: the completed second's aSSF. -/
def State.turnSsf (s : State) (w : Wing) : State :=
  let s := s.onOtn w (fun o => { o with
    ssfLast := o.ssfSecond, ssfSecond := false,
    pm := o.pm.map (fun e => (e.1, { e.2 with ssfLast := e.2.ssfSecond, ssfSecond := false })) })
  s.noteSsf w

/-- R73: MAP_FILL of a channel. -/
def State.latchFill (s : State) (ch : Nat) : State :=
  let s := s.accrueSlots ch
  let m := tabGet (0, 0) s.sched.mapped ch
  let us := tabGet 0 s.sched.slotUs ch
  let i := [ch / 32, ch % 32]
  let fill := if us = 0 then 0 else min 1000 (m.2 * 66000 / (us * 5000))
  let s := (s.wr .OHD_MAP_FILL_FILL i fill).wr .OHD_MAP_FILL_FRAMES_K i (min 65535 (m.1 / 1000))
  { s with sched := { s.sched with
    mapped := tabErase s.sched.mapped ch, slotUs := tabErase s.sched.slotUs ch } }

/-- R115: the registers of the previous second's figures. -/
def figureRows : List Row :=
  [.RXW_FOM_SNR_PS_SNR_X, .RXW_FOM_SNR_PS_SNR_Y, .RXW_FOM_EFF_PS_SNR_EFF, .RXW_FOM_EFF_PS_SNR_P1, .RXW_FOM_GMI_PS_GMI,
   .RXW_FOM_GMI_PS_NGMI, .RXW_FOM_OSNR_PS_SAT, .RXW_FOM_OSNR_PS_OSNR_EST, .RXW_FOM_MARGIN_PS_SNR_REQ,
   .RXW_FOM_MARGIN_PS_MARGIN, .RXW_SP2_STAT_GAIN]

/-- R115: the previous second shows figures. -/
def State.showSecond (s : State) (w : Wing) (f : Figures) : State :=
  let i := [w.n]
  let s := ((s.wr .RXW_FOM_SNR_PS_SNR_X i f.snrX).wr .RXW_FOM_SNR_PS_SNR_Y i f.snrY).wr .RXW_FOM_EFF_PS_SNR_EFF i f.snrEff
  let s := ((s.wr .RXW_FOM_EFF_PS_SNR_P1 i f.snrP1).wr .RXW_FOM_GMI_PS_GMI i f.gmi).wr .RXW_FOM_GMI_PS_NGMI i f.ngmi
  let s := (s.wrb .RXW_FOM_OSNR_PS_SAT i f.osnrSat).wr .RXW_FOM_OSNR_PS_OSNR_EST i (if f.osnrSat then 0xFFFF else f.osnr)
  let s := s.wrS .RXW_SP2_STAT_GAIN i ((f.snrEff : Int) - f.snrP1)
  (s.wrS .RXW_FOM_MARGIN_PS_SNR_REQ i f.req).wrS .RXW_FOM_MARGIN_PS_MARGIN i ((f.snrEff : Int) - f.req)

/-- R115: the previous second's figures; a second without a superframe in READY latches the reset values. -/
def State.latchFigures (s : State) (w : Wing) : State :=
  let f := (s.rx.get w).second
  let s := s.onRx w (fun r => { r with second := FomSum.zero })
  if f.n = 0 then figureRows.foldl (fun s row => s.clear row [w.n]) s
  else s.showSecond w (f.figures (s.snrTrx w) (s.rd .RXW_RATE_BAUD [w.n]))

/-- R346: the banks of a wing whose islands are clocked. -/
def State.latchWingBanks (s : State) (w : Wing) (sop : Nat) : State :=
  if !s.clocked (7 + w.n) then s
  else
    let s := (((s.latchWing w rxPairs).latchWing w [(.TXW_CLIP_CNT_COUNT, .TXW_CLIP_CNT_PS_COUNT)]).latchWing w
      fecPairs).latchWing w otnPairs
    let s := ((s.restartSeen w).turnSsf w).wr .RXW_SOP_PS_RATE [w.n] (min 65535 sop)
    (s.latchFigures w).upTo 32 (fun s c => s.latchFill (chanIndex w c))

/-- R385: the previous-second bank of the general counters. -/
def State.latchCounter (s : State) (n : Nat) : State :=
  if s.chained n then s
  else
    let v := s.counterOf .PMU_CNT_LO_COUNT .PMU_CNT_HI_COUNT n
    let w := 2 ^ s.counterBits n
    let d := (v + w - tabGet 0 s.pmu.atTick n % w) % w
    (s.setCounter .PMU_CNT_PS_LO_COUNT .PMU_CNT_PS_HI_COUNT n d).onPmu (fun p => { p with atTick := tabSet 0 p.atTick n v })

/-- R346: the banks of the shared islands that are clocked. -/
def State.latchShared (s : State) : State :=
  let all := fun (_ : Nat) => true
  let s := s.when (s.clocked 17) (·.latchRows all cipPairs)
  let s := s.when (s.clocked 19) (·.latchRow all .PAN_DROP_CNT_COUNT .PAN_DROP_PS_COUNT)
  let s := s.when (s.clocked 21) (·.latchRows all cliPairs)
  s.upTo 64 State.latchCounter

/-- R346, R347: every previous-second bank is latched. -/
def State.tick (s : State) (m : SecondStats) : State :=
  let s := (s.latchWingBanks .a m.sopA).latchWingBanks .b m.sopB
  let s := m.codes.foldl State.collect s.latchShared
  let s := (s.when (s.clocked 13) (·.latchConv .a)).when (s.clocked 14) (·.latchConv .b)
  let s := s.when (s.clocked 24 && !s.halted 6) State.latchSup
  let s := (s.wrb .REF_TICK_STAT_IRREG [] (s.dpll.advanced != 1000000000)).wr .REF_TICK_STAT_TICKS []
    (s.rd .REF_TICK_STAT_TICKS + 1)
  (s.onDpll (fun d => { d with advanced := 0 })).native 0x11 0 1

/-- R346: how far module time is from the tick's multiple of 10⁹: the first at or after the present time, and after the
latest tick. -/
def State.toTick (s : State) : Nat :=
  if s.mt % 1000000000 = 0 && s.dpll.advanced != 0 then 0 else 1000000000 - s.mt % 1000000000

/-- R346: ONE_SECOND_TICK: module time has reached the next multiple of 10⁹. -/
def execOneSecondTick (m : SecondStats) (s : State) : Result :=
  let s := s.begin
  .next (s.when s.refUp (fun s => (s.when (s.toTick != 0) (·.advanceMt s.toTick)).tick m))

/-! ### Tags and histograms (R389, R390) -/

/-- R389: the OFF word of a point. -/
def Tag.off (t : Tag) (p : Nat) : Nat := (tabFind t.points p).getD 0xFFFFFFFF

/-- R389: the points passed, as a bitmap. -/
def Tag.mask (t : Tag) : Nat := t.points.foldl (fun m e => setBit m e.1) 0

/-- R389: a word of a tag record. -/
def recordWord (t : Tag) (dropped : Bool) (w : Nat) : Nat :=
  match w with
  | 0 => 2 ^ 31 + bitNat t.ingress * 2 ^ 30 + t.id * 2 ^ 24 + bitNat dropped * 2 ^ 23 + bitNat t.stepped * 2 ^ 22 + t.mask
  | 1 => t.port * 2 ^ 26 + t.chan * 2 ^ 20 + t.cls * 2 ^ 17 + t.len % 2 ^ 14
  | 2 => t.t0 % 2 ^ 32
  | 3 => t.t0 / 2 ^ 32
  | w => t.off (w - 4)

/-- R389: the oldest record is copied into the window; an empty FIFO reads VALID = 0. -/
def State.copyTag (s : State) : State :=
  s.upTo 16 (fun t w => t.wr .PMU_TAG_WIN_WORD [w] (match s.pmu.fifo with
    | [] => 0
    | e :: _ => recordWord e.1 e.2 w))

/-- R389: TAG_WIN_READ. -/
def execTagWinRead (req : Req) (s : State) : Result :=
  .next (s.begin.via req (fun s =>
    let s := s.copyTag
    s.say (.data req 0x50800 (s.rd .PMU_TAG_WIN_WORD [0]))))

/-- R389, R395: TAG_POP removes the oldest record at the next update, in the stopped block at once (R40). -/
def State.popTag (s : State) : State :=
  if s.blockStopped 7 then (s.onPmu (fun p => { p with fifo := p.fifo.tail })).showTags
  else s.onPmu (fun p => { p with popReq := p.popReq + 1 })

/-- R389: TAG_POP. -/
def execTagPop (req : Req) (s : State) : Result := .next (s.begin.via req (·.popTag))

/-- R390: HIST_CLR. -/
def execHistClr (req : Req) (mask : Nat) (s : State) : Result := .next (s.begin.via req (·.askHistClear mask))

/-! ### The attic (R391 to R394) -/

/-- Change the attic. -/
def State.onAttic (s : State) (f : Attic → Attic) : State := { s with attic := f s.attic }

/-- R391: an empty record. -/
def Rec.empty : Rec := ⟨0, 0, 0, 0, false, 0, 0, 0⟩

/-- R391: the time that AON stamps records with, and COARSE: module time, or while it is stopped MT_SAVE with the
sleep counter's estimate (a free value, assumption 4). -/
def State.stamp (s : State) : (Nat × Bool) × State :=
  if s.refUp then ((s.mt, s.flag .REF_STAT_MT_COARSE), s)
  else
    let f := s.fresh (2 ^ 48)
    (((s.power.mtSave.getD 0 + f.1 * 1000000000 / 32768) % 2 ^ 64, true), f.2)

/-- Write a record at an index, which becomes its source's last. -/
def State.placeRec (s : State) (i : Nat) (r : Rec) : State :=
  s.onAttic (fun a => { a with recs := tabSet Rec.empty a.recs i r, lastOf := tabSet 0 a.lastOf r.source (i + 1) })

/-- R391: a record goes to the sealed area while it has room. -/
def State.sealRec (s : State) (r : Rec) : State :=
  let n := s.rd .ATT_STAT_SEALED_USED
  let s := (s.placeRec n r).wr .ATT_STAT_SEALED_USED [] (n + 1)
  s.when (n + 1 == 2048) (fun s => (s.wrb .ATT_STAT_SEALED_FULL [] true).evt .ATT_EVT_SEALED_FULL)

/-- R391: otherwise it overwrites the oldest of the circulating area. -/
def State.circulateRec (s : State) (r : Rec) : State :=
  let n := s.rd .ATT_STAT_WR_PTR
  let s := s.when (tabFind s.attic.recs n).isSome (·.wrb .ATT_STAT_WRAPPED [] true)
  (s.placeRec n r).wr .ATT_STAT_WR_PTR [] (if n = 4095 then 2048 else n + 1)

/-- R391: a new record. -/
def State.newRec (s : State) (r : Rec) : State :=
  if s.rd .ATT_STAT_SEALED_USED < 2048 then s.sealRec r else s.circulateRec r

/-- R392: the record that an arrival repeats: its source's last, not overwritten, with the same code. -/
def State.repeated (s : State) (x : Arrival) : Option (Nat × Rec) :=
  match tabGet 0 s.attic.lastOf x.source with
  | 0 => none
  | i + 1 => match tabFind s.attic.recs i with
    | some r => if r.source = x.source && r.code = x.code then some (i, r) else none
    | none => none

/-- R392: an arrival is counted as a repeat or written. -/
def State.takeRec (s : State) (x : Arrival) (t : Nat) (coarse : Bool) : State :=
  match s.repeated x with
  | some (i, r) => s.placeRec i { r with rep := min 65535 (r.rep + 1), last := t }
  | none => s.newRec ⟨t, x.source, x.code, 0, coarse, x.arg0, x.arg1, t⟩

/-- R391: the oldest arrival of the queue. -/
def State.nextRec (s : State) : State :=
  match s.attic.queue with
  | [] => s
  | x :: rest =>
    let r := (s.onAttic (fun a => { a with queue := rest })).stamp
    r.2.takeRec x r.1.1 r.1.2

/-- R391: ATTIC_RECORD. -/
def execAtticRecord (s : State) : Result := .next s.begin.nextRec

/-- R391: a word of a record. -/
def Rec.word (r : Rec) (w : Nat) : Nat :=
  match w with
  | 0 => r.first % 2 ^ 32
  | 1 => r.first / 2 ^ 32
  | 2 => r.source * 65536 + r.code
  | 3 => r.rep * 65536 + bitNat r.coarse * 32768
  | 4 => r.arg0 % 2 ^ 32
  | 5 => r.arg1 % 2 ^ 32
  | 6 => r.last % 2 ^ 32
  | _ => r.last / 2 ^ 32

/-- R393: the record at an index; an empty one reads as zero. -/
def State.recAt (s : State) (i : Nat) : Rec := tabGet Rec.empty s.attic.recs i

/-- R393: the record at CURSOR is copied into the window. -/
def State.copyRec (s : State) : State :=
  let r := s.recAt (s.rd .ATT_CURSOR_INDEX)
  s.upTo 8 (fun t w => t.wr .ATT_WIN_WORD [w] (r.word w))

/-- R393: ATTIC_WIN_READ. -/
def execAtticWinRead (req : Req) (s : State) : Result :=
  .next (s.begin.via req (fun s =>
    let s := s.copyRec
    s.say (.data req 0x40020 (s.rd .ATT_WIN_WORD [0]))))

/-- R393: with AUTO_INC the cursor advances, from 4,095 to 0. -/
def State.advanceCursor (s : State) : State :=
  s.when (s.flag .ATT_CURSOR_AUTO_INC) (·.wr .ATT_CURSOR_INDEX [] ((s.rd .ATT_CURSOR_INDEX + 1) % 4096))

/-- R393: ATTIC_WIN_LAST_READ. -/
def execAtticWinLastRead (req : Req) (s : State) : Result :=
  .next (s.begin.via req (fun s =>
    let s := s.advanceCursor
    s.say (.data req 0x4003C (s.rd .ATT_WIN_WORD [7]))))

/-- R394: a clear is armed, or is not. -/
def State.setArmed (s : State) (on : Bool) : State :=
  (s.onAttic (fun a => { a with armed := on })).wrb .ATT_STAT_ARMED [] on

/-- R394: the areas of a scope are emptied. -/
def State.emptyAttic (s : State) (both : Bool) : State :=
  let keep := fun (i : Nat) => !both && decide (2048 ≤ i)
  let s := s.onAttic (fun a => { a with
    recs := a.recs.filter (fun e => keep e.1), lastOf := a.lastOf.filter (fun e => keep (e.2 - 1)) })
  let s := (s.wr .ATT_STAT_SEALED_USED [] 0).wrb .ATT_STAT_SEALED_FULL [] false
  s.when both (fun s => (s.wr .ATT_STAT_WR_PTR [] 2048).wrb .ATT_STAT_WRAPPED [] false)

/-- R394: the clear, with its record at index 0. -/
def State.clearAttic (s : State) (req : Nat) (both : Bool) : State :=
  let r := ((s.setArmed false).emptyAttic both).stamp
  r.2.sealRec ⟨r.1.1, 0, 0x04FF, 0, r.1.2, req, 0, r.1.1⟩

/-- R394: a write of ATT.CLEAR.STEP: 0xA5 arms, 0x5A executes an armed clear, any other value disarms. -/
def State.clearStep (s : State) (req step : Nat) : State :=
  if step = 0xA5 then s.setArmed true
  else if step = 0x5A && s.attic.armed then s.clearAttic req (s.flag .ATT_CLEAR_SCOPE)
  else s.setArmed false

/-- R394: ATTIC_CLEAR_ARM. -/
def execAtticClearArm (req : Req) (scope : Bool) (s : State) : Result :=
  .next (s.begin.via req (fun s => (s.wrb .ATT_CLEAR_SCOPE [] scope).clearStep req.n 0xA5))

/-- R394: ATTIC_CLEAR_EXECUTE. -/
def execAtticClearExecute (req : Req) (scope : Bool) (s : State) : Result :=
  .next (s.begin.via req (fun s => (s.wrb .ATT_CLEAR_SCOPE [] scope).clearStep req.n 0x5A))

/-- R394: ATTIC_CLEAR_LAPSE. -/
def execAtticClearLapse (s : State) : Result := .next (s.begin.setArmed false)

end Sys2Proof.Machine
end

