-- ==== Sys2Proof/Machine/HostIf.lean ====
section
/-!
DEFINITION. The PCI Express functions, MSI-X and the capture engines (R398 to R400, R402, R405, R407 to R410, R423,
R427).
-/

namespace Sys2Proof.Machine

/-- Change the host interface. -/
def State.onHost (s : State) (f : HostIf → HostIf) : State := { s with host := f s.host }

/-! ### The functions (R398) -/

/-- R398: what a physical function presents: its device identifier, class code, BARs as (number, bytes, 64-bit), number of
MSI-X vectors and largest payload in bytes. Both carry Dorkai's vendor identifier, whose number the spec does not give. -/
structure PciFunction where
  device : Nat
  classCode : Nat
  bars : List (Nat × Nat × Bool)
  vectors : Nat
  maxPayload : Nat
deriving DecidableEq, Repr

/-- R398: PF0. -/
def pf0 : PciFunction := ⟨0x6432, 0x028000, [(0, 0x2000000, true), (4, 0x10000000, true)], 64, 512⟩

/-- R398: PF1. -/
def pf1 : PciFunction := ⟨0x6433, 0x118000, [(2, 0x1000, false)], 0, 128⟩

/-! ### Resets (R398, R400) -/

/-- The rows of the DMA engines. -/
def dmaRows : List Row :=
  [.HST_DMA_CTL_EN, .HST_DMA_CTL_WING, .HST_DMA_CTL_STAGE, .HST_DMA_CTL_INTERVAL, .HST_DMA_RING_LO_ADDR,
   .HST_DMA_RING_HI_ADDR, .HST_DMA_RING_SIZE_N, .HST_DMA_TAIL_IDX, .HST_DMA_HEAD_IDX, .HST_DMA_STAT_BUSY,
   .HST_DMA_STAT_ERR, .HST_DMA_SKIPPED_COUNT]

/-- R398, R400: engines 0 to 6 stop and their registers clear. -/
def State.clearDma (s : State) : State :=
  (s.upTo 7 (fun s e => dmaRows.foldl (fun s r => s.clear r [e]) s)).onHost (fun h => { h with capture := [] })

/-- R398, R400: the MSI-X state goes to that of reset. -/
def State.clearMsix (s : State) : State :=
  s.onHost (fun h => { h with
    msixEnable := false, functionMask := false, unmasked := 0, table := [], pba := 0, gapRun := 0, gapReq := 0 })

/-- R383: a requester's shadow is cleared. -/
def State.clearShadow (s : State) (r : Req) : State :=
  s.onHost (fun h => { h with shadowTag := tabErase h.shadowTag r.n, shadow := tabErase h.shadow r.n })

/-- R423: the results of the corridor requests in flight are discarded. -/
def State.discardRequests (s : State) : State :=
  { s with cor := { s.cor with requests := s.cor.requests.map (fun r => { r with discarded := true }) } }

/-- The link is down. -/
def State.linkDown (s : State) : State :=
  ((s.wrb .HST_LINK_UP [] false).wr .HST_LINK_GEN [] 0).wr .HST_LINK_WIDTH [] 0

/-- R400, R435: PERST_N resets the HST island only, and breaks host DMA. -/
def State.perst (s : State) : State :=
  let s := { s with pins := { s.pins with perst := true }, host := { s.host with training := false } }
  ((((s.linkDown).clearDma).clearMsix).discardRequests).breakFetch.breakXfer

/-- R400: PERST. -/
def execPerst (s : State) : Result := .next s.begin.perst

/-- R398: a function level reset of PF0. -/
def State.flr0 (s : State) : State :=
  let s := ((s.clearDma).clearMsix).clearShadow .pf0
  ((s.wr .HST_INTN_PEND_LO_VEC [] 0).wr .HST_INTN_PEND_HI_VEC [] 0).discardRequests

/-- R398: FLR_PF0. -/
def execFlrPf0 (s : State) : Result := .next s.begin.flr0

/-- R398: FLR_PF1. -/
def execFlrPf1 (s : State) : Result := .next (s.begin.clearShadow .pf1)

/-- R427: PERST_RELEASE: training begins once step 3 of the start has ended. -/
def execPerstRelease (s : State) : Result :=
  let s := s.begin
  .next { s with
    pins := { s.pins with perst := false }
    host := { s.host with training := decide (4 ≤ s.boot.step) && decide (s.power.state ≤ 2) && !s.islandFailed 5 } }

/-- R399: PCIE_LINK_UP: the link trains at a rate of 1 to 5 and up to 16 lanes. -/
def execPcieLinkUp (gen width : Nat) (s : State) : Result :=
  let s := s.begin
  .next (s.when (s.host.training && !s.pins.perst && decide (1 ≤ gen) && decide (gen ≤ 5) && decide (1 ≤ width) &&
      decide (width ≤ 16)) (fun s =>
    ((s.wrb .HST_LINK_UP [] true).wr .HST_LINK_GEN [] gen).wr .HST_LINK_WIDTH [] width))

/-- R402: BAD_ACCESS. -/
def execBadAccess (req : Req) (s : State) : Result :=
  .next ((s.begin.count .HST_UNMAPPED_BAD_BE []).say (.unsupported req))

/-! ### MSI-X (R405) -/

/-- R405: every pending vector that may be sent is sent. -/
def State.sendPending (s : State) : State :=
  s.upTo 64 (fun s v => s.when (s.host.pba.testBit v && s.msixOpen v) (·.sendMsix v))

/-- R405: software changes the masks. -/
def State.msixControl (s : State) (c : MsixCtl) : State :=
  (s.onHost (fun h => match c with
    | .vector v masked => { h with unmasked := if masked then clearBit h.unmasked v else setBit h.unmasked v }
    | .enable on => { h with msixEnable := on }
    | .functionMask on => { h with functionMask := on })).sendPending

/-- R405: MSIX_UNMASK. -/
def execMsixUnmask (c : MsixCtl) (s : State) : Result := .next (s.begin.msixControl c)

/-- R405: a vector's GAP ends: the requests merged during it are sent as one message. -/
def State.gapEnds (s : State) (v : Nat) : State :=
  let due := s.host.gapReq.testBit v
  let s := s.onHost (fun h => { h with gapRun := clearBit h.gapRun v, gapReq := clearBit h.gapReq v })
  s.when due (fun s =>
    if s.msixOpen v then s.sendMsix v else s.onHost (fun h => { h with pba := setBit h.pba v }))

/-- R405: VEC_MOD_GAP_EXPIRY. -/
def execVecModGapExpiry (v : Fin 64) (s : State) : Result :=
  let s := s.begin
  .next (s.when (s.host.gapRun.testBit v) (·.gapEnds v))

/-! ### Soft-symbol capture (R407 to R410) -/

/-- R408: the bytes of a block. -/
def blockBytes : Nat := 32832

/-- R410: the write budget's bucket. -/
def budgetBytes : Nat := 131072

/-- R407: the wing that an engine captures. -/
def State.captureWing (s : State) (e : Nat) : Wing := Wing.num (s.rd .HST_DMA_CTL_WING [e])

/-- R409: HEAD advances and the engine's vector is requested. -/
def State.advanceHead (s : State) (e : Nat) : State :=
  (s.wr .HST_DMA_HEAD_IDX [e] ((s.rd .HST_DMA_HEAD_IDX [e] + 1) % s.rd .HST_DMA_RING_SIZE_N [e])).ring (16 + e)

/-- R410: a host-memory write error stops the engine and raises AER. -/
def State.captureError (s : State) (e : Nat) : State :=
  ((s.wrb .HST_DMA_STAT_ERR [e] true).wrb .HST_DMA_CTL_EN [e] false).say .aer

/-- R408: the least significant `n` bytes of a value, the lowest first. -/
def bytesLsb (n v : Nat) : List Nat := (List.range n).map (fun k => v / 256 ^ k % 256)

/-- R408: carrier frames counted up to the one that held the block, by superframe count and FRAME_NO. -/
def State.blockFrame (s : State) (w : Wing) (m : SymbolBlock) : Nat :=
  64 * ((s.rx.get w).sfCount + 65535) + (s.rx.get w).frame + 64 - m.back

/-- R408: the module time of the block's first symbol at SP6. -/
def State.blockTime (s : State) (w : Wing) (m : SymbolBlock) : Nat :=
  (s.rx.get w).adcAt.getD m.back s.mt + 16384 * m.b / max 1 (s.rd .RXW_RATE_BAUD [w.n])

/-- R408: the 16 words of a block's header. -/
def State.blockHeader (s : State) (e : Nat) (w : Wing) (m : SymbolBlock) (seq : Nat) : List Nat :=
  let p := s.pairAt w m.back
  let n := s.blockFrame w m
  let t := s.blockTime w m
  [0x53590000 + 0x8000 * w.n + 0x4000 * s.rd .HST_DMA_CTL_STAGE [e] + p.1,
   0x10000 * (n / 64 % 65536) + 0x400 * (n % 64) + m.b, t % 2 ^ 32, t / 2 ^ 32 % 2 ^ 32, seq,
   2 ^ 31 * p.2 + s.rd .RXW_RATE_BAUD [w.n]] ++ List.replicate 10 0

/-- R408: a component of a symbol as a signed 16-bit value; a value beyond its range is limited (DESIGN CHOICE, assumption
42). -/
def sampleWord (v : Int) : Nat := ((clampInt (-32768) 32767 v) % 65536).toNat

/-- R407: a symbol that stage 5 or stage 6 put out. -/
def DspFrame.symbol (x : DspFrame) (stage p : Nat) : Jones := (if stage = 1 then x.out else x.raw).getD p ((0, 0), (0, 0))

/-- R408: the bytes of a block: its header, then 4,096 symbols. -/
def State.blockData (s : State) (e : Nat) (w : Wing) (m : SymbolBlock) (seq : Nat) : List Nat :=
  let x := (s.rx.get w).dsp.frames.getD m.back DspFrame.empty
  (s.blockHeader e w m seq).flatMap (bytesLsb 4) ++
    (List.range 4096).flatMap (fun k => (List.range 4).flatMap (fun d =>
      bytesLsb 2 (sampleWord (toBase (s.pairAt w m.back).1 (jonesPart (x.symbol (s.rd .HST_DMA_CTL_STAGE [e]) (4096 * m.b + k)) d)))))

/-- R409: the status word of the descriptor at HEAD. -/
def State.writeStatus (s : State) (e status : Nat) : State :=
  s.say (.hostWord (s.rdWide .HST_DMA_RING_LO_ADDR .HST_DMA_RING_HI_ADDR [e] + 16 * s.rd .HST_DMA_HEAD_IDX [e] + 12) status)

/-- R409: a block meets the descriptor at HEAD. Whether DONE goes with LEN_ERR is not stated: a free value. -/
def State.writeBlock (s : State) (e : Nat) (w : Wing) (d : Descriptor) (m : SymbolBlock) (seq : Nat) : State :=
  if !d.writeOk then s.captureError e
  else if d.len < blockBytes then
    let f := s.fresh 2
    (f.2.writeStatus e (2 ^ 30 + 2 ^ 31 * f.1)).advanceHead e
  else
    let data := s.blockData e w m seq
    let s := s.onHost (fun h => { h with budgetUsed := h.budgetUsed + blockBytes })
    ((s.say (.hostBlock d.addr data)).writeStatus e (2 ^ 31)).advanceHead e

/-- R410: the ring is empty, or the budget is exhausted. -/
def State.blockSkipped (s : State) (e : Nat) : Bool :=
  s.rd .HST_DMA_HEAD_IDX [e] == s.rd .HST_DMA_TAIL_IDX [e] || decide (budgetBytes < s.host.budgetUsed + blockBytes)

/-- R408, R410: an engine takes a block, whose sequence number is counted whether it is written or skipped. -/
def State.capture (s : State) (e : Nat) (d : Descriptor) (m : SymbolBlock) : State :=
  let seq := tabGet 0 s.host.capture e
  let s := s.onHost (fun h => { h with capture := tabSet 0 h.capture e ((seq + 1) % 2 ^ 32) })
  if s.blockSkipped e then s.count .HST_DMA_SKIPPED_COUNT [e] else s.writeBlock e (s.captureWing e) d m seq

/-- R19, R407: the engine takes the block: its island is not failed, it is on, its wing's receiver is in READY, and INTERVAL block periods have passed since
the last one, in a phase that the spec does not give (assumption 42). -/
def State.capturing (s : State) (e : Nat) (m : SymbolBlock) : Bool :=
  let w := s.captureWing e
  s.flag .HST_DMA_CTL_EN [e] && !s.islandFailed 5 && s.wingRuns w && s.rxState w == 11 &&
    (16 * s.blockFrame w m + m.b) % max 1 (s.rd .HST_DMA_CTL_INTERVAL [e]) == 0

/-- R409: CAPTURE_BLOCK. -/
def execCaptureBlock (e : Fin 7) (d : Descriptor) (m : SymbolBlock) (s : State) : Result :=
  let s := s.begin
  .next (s.when (s.capturing e m) (·.capture e d m))

end Sys2Proof.Machine
end

