-- ==== Sys2Proof/Machine/Corridor.lean ====
section
/-!
DEFINITION. The corridor: heartbeats and port states, enumeration, rings, windows, forwarded doorbells (R411 to R418,
R423).
-/

namespace Sys2Proof.Machine

/-- Change the corridor beside its registers. -/
def State.onCor (s : State) (f : Corridor → Corridor) : State := { s with cor := f s.cor }

/-- R38, R356: the corridor passes cells: its island is clocked and its block is neither stopped nor failed. -/
def State.corRuns (s : State) : Bool := s.isRunning && decide (s.power.state ≤ 1) && !s.halted 5

/-- The module is the manager. -/
def State.isManager (s : State) : Bool := s.flag .COR_CTL_MANAGER

/-! ### Ports (R412) -/

/-- R319, R412: the lanes of an enabled port are up. -/
def State.corLanesUp (s : State) (p : Nat) : Bool :=
  (s.rd .COR_CTL_PORT_EN).testBit p && (List.range 4).all (fun k => s.stage true (4 * p + k) == 7)

/-- R412, R329: every 500 ns a HEARTBEAT goes out on every port whose lanes are up and carry no test pattern. -/
def State.heartbeats (s : State) : State :=
  s.upTo 4 (fun s p => s.when (s.corLanesUp p && !s.corPatterned p) (·.say (.heartbeat p (s.qlCorridor p))))

/-- R412: HEARTBEAT_TX. -/
def execHeartbeatTx (s : State) : Result :=
  let s := s.begin
  .next (s.when s.corRuns State.heartbeats)

/-- R38, R412: a worker reports a change of its port to the manager; a stopped corridor sends nothing. -/
def State.reportPort (s : State) (p : Nat) (up : Bool) : State :=
  s.when (!s.isManager && s.flag .COR_STAT_UP_VALID && !s.halted 5) (·.sendCell 0 (.link (s.rd .COR_STAT_ADDR) p up))

/-- R413: an enumeration begins. -/
def State.beginEnum (s : State) : State := s.wrb .COR_STAT_ENUMERATING [] true

/-- R414: the routes of a ring change to a break, or back. -/
def State.setCut (s : State) (c : Option Nat) : State :=
  if s.cor.cut = c then s
  else
    let s := s.onCor (fun x => { x with cut := c })
    (s.wrb .COR_PORT_STAT_WRAPPED [s.cor.ringPorts.headD 0] c.isSome).evt .COR_EVT_WRAP

/-- R414: a ring breaks behind its first `k` workers; nothing changes when none lies beyond. -/
def State.breakRing (s : State) (k : Nat) : State :=
  s.when (decide (k < s.cor.ring.length) && s.cor.ringPorts.length == 2) (·.setCut (some k))

/-- R412, R413: a port is up. A manager enumerates when the first port comes up; the return of a ring port restores the
ring. -/
def State.portUp (s : State) (p : Nat) : State :=
  let s := ((s.wrb .COR_PORT_STAT_UP [p] true).evt .COR_EVT_LINK_CHANGE).reportPort p true
  let first := !s.cor.everUp
  let s := s.onCor (fun x => { x with everUp := true })
  s.when s.isManager (fun s =>
    (s.when first State.beginEnum).when (s.cor.cut == some 0 && s.cor.ringPorts.headD 4 == p) (·.setCut none))

/-- R412: a valid HEARTBEAT: the fourth in succession brings the port up; on the upstream port it carries the QL of
candidate 7. -/
def State.beat (s : State) (p ql : Nat) : State :=
  let n := tabGet 0 s.cor.beats p + 1
  let s := s.onCor (fun x => { x with beats := tabSet 0 x.beats p (min 4 n), beatQl := tabSet 15 x.beatQl p ql })
  (s.when (decide (4 ≤ n) && !s.flag .COR_PORT_STAT_UP [p]) (·.portUp p)).checkCands

/-- R412: COR_HEARTBEAT_RX. -/
def execCorHeartbeatRx (port : Fin 4) (ql : Fin 16) (s : State) : Result :=
  let s := s.begin
  .next (s.when (s.corRuns && s.corLanesUp port) (·.beat port ql))

/-- R412, R414: a port goes down; a manager's ring port sends its cells round the other way. -/
def State.portDown (s : State) (p : Nat) : State :=
  let s := s.onCor (fun x => { x with beats := tabErase x.beats p })
  if !s.flag .COR_PORT_STAT_UP [p] then s
  else
    let s := ((s.wrb .COR_PORT_STAT_UP [p] false).countWrap .COR_PORT_STAT_DOWN_CNT [p]).evt .COR_EVT_LINK_CHANGE
    let s := (s.reportPort p false).checkCands
    s.when (s.isManager && s.cor.ringPorts.headD 4 == p) (·.breakRing 0)

/-- R412: CORRIDOR_PORT_DOWN. -/
def execCorridorPortDown (port : Fin 4) (s : State) : Result := .next (s.begin.portDown port)

/-! ### Rings and routes (R414) -/

/-- R415, R418: the hops to a worker on the present route; a branch follows the ring's worker that it hangs on. -/
def Corridor.hops (c : Corridor) : Nat → Nat → Nat
  | 0, _ => 0
  | fuel + 1, a =>
    let i := c.place a
    if 0 < i then
      match c.cut with
      | some k => if k < i then c.ring.length + 1 - i else i
      | none => i
    else match tabFind c.nodes a with
      | some n => if n.parent = 0 then 1 else 1 + c.hops fuel n.parent
      | none => 0

/-- The hops to a worker. -/
def State.hopsTo (s : State) (a : Nat) : Nat := s.cor.hops (s.cor.nodes.length + 1) a

/-- R414: where a ring's worker says that its port is down: behind how many workers the ring is broken. -/
def Corridor.breakAt (c : Corridor) (a port : Nat) : Nat :=
  match tabFind c.nodes a with
  | some n => if n.upPort = port then c.place a - 1 else c.place a
  | none => c.ring.length

/-- R413, R414: a LINK cell reaches the manager. -/
def State.linkCell (s : State) (a port : Nat) (up restored : Bool) : State :=
  if up then if restored then s.setCut none else s.beginEnum
  else s.when (decide (0 < s.cor.place a)) (·.breakRing (s.cor.breakAt a port))

/-- R413: COR_LINK_RX. -/
def execCorLinkRx (worker : Nat) (port : Fin 4) (up restored : Bool) (s : State) : Result :=
  let s := s.begin
  .next (s.when (s.isManager && s.corRuns) (·.linkCell worker port up restored))

/-! ### Enumeration (R413) -/

/-- R413: what the manager knows while it walks the corridor: the next address, the workers found, and the ring closures as
(address, port, address behind it). -/
structure Walk where
  next : Nat
  nodes : List (Nat × Node)
  closed : List (Nat × Nat × Nat)
deriving DecidableEq, Repr

/-- R413: the address that a module has, if it has one. -/
def walkAddr (manager : Nat) (w : Walk) (ident : Nat) : Option Nat :=
  if ident = manager then some 0 else (w.nodes.find? (fun e => e.2.ident == ident)).map (·.1)

/-- R413: what is found behind a port of a module. -/
def neighbourAt (topo : List Neighbours) (ident p : Nat) : Option (Nat × Nat) :=
  match topo.find? (fun n => n.ident == ident) with
  | some n => (n.ports.getD p none)
  | none => none

/-- R413: visit(m, ports 0 to 3), depth first. -/
def visit (topo : List Neighbours) (manager : Nat) : Nat → Walk → Nat → Nat → Nat → Option Nat → Walk
  | 0, w, _, _, _, _ => w
  | fuel + 1, w, ident, addr, depth, up =>
    (List.range 4).foldl (fun w p =>
      if up = some p then w
      else match neighbourAt topo ident p with
        | none => w
        | some (n, np) => match walkAddr manager w n with
          | some b => { w with closed := w.closed ++ [(addr, p, b)] }
          | none =>
            if 0xFFFE < w.next then w
            else
              let a := w.next
              let w := { w with next := a + 1, nodes := w.nodes ++ [(a, ⟨n, addr, p, np, depth + 1⟩)] }
              visit topo manager fuel w n a (depth + 1) (some np)) w

/-- R413: the walk from the manager, the first module listed. -/
def enumWalk (topo : List Neighbours) : Walk :=
  match topo with
  | [] => ⟨1, [], []⟩
  | m :: _ => visit topo m.ident (topo.length + 1) ⟨1, [], []⟩ m.ident 0 0 none

/-- The workers from the manager down to one, by their parents. -/
def chainTo (nodes : List (Nat × Node)) : Nat → Nat → List Nat
  | 0, _ => []
  | fuel + 1, a =>
    if a = 0 then []
    else match tabFind nodes a with
      | some n => chainTo nodes fuel n.parent ++ [a]
      | none => []

/-- The manager's port towards a worker. -/
def rootPort (nodes : List (Nat × Node)) (ring : List Nat) : Nat :=
  match ring with
  | a :: _ => ((tabFind nodes a).map (·.parentPort)).getD 0
  | [] => 0

/-- R414: a closure at one of the manager's ports is a ring. -/
def Walk.ringOf (w : Walk) : List Nat × List Nat :=
  match w.closed.find? (fun c => c.1 == 0) with
  | some c =>
    let ring := chainTo w.nodes (w.nodes.length + 1) c.2.2
    (ring, [rootPort w.nodes ring, c.2.1])
  | none => ([], [])

/-- R413: the ENUM cells to the workers. -/
def State.sendEnums (s : State) (nodes : List (Nat × Node)) : State :=
  nodes.foldl (fun s e => s.sendCell e.1 (.enumerate e.1 e.2.upPort)) s

/-- R413, R418: the enumeration completes. -/
def State.enumerated (s : State) (w : Walk) : State :=
  let r := w.ringOf
  let s := s.onCor (fun x => { x with nodes := w.nodes, ring := r.1, ringPorts := r.2, cut := none })
  let s := s.upTo 4 (fun s p => (s.wrb .COR_PORT_STAT_RING_PORT [p]
    (r.2.contains p || w.closed.any (fun c => c.1 == 0 && c.2.1 == p))).wrb .COR_PORT_STAT_WRAPPED [p] false)
  let s := ((s.wr .COR_TOPO_WORKERS [] w.nodes.length).wr .COR_TOPO_DEPTH []
    (w.nodes.foldl (fun d e => max d e.2.depth) 0)).wrb .COR_STAT_RING [] (!w.closed.isEmpty)
  ((s.wrb .COR_STAT_ENUMERATING [] false).sendEnums w.nodes).evt .COR_EVT_ENUM_DONE

/-- R413: ENUMERATE. -/
def execEnumerate (topo : List Neighbours) (s : State) : Result :=
  let s := s.begin
  .next (s.when (s.isManager && s.corRuns) (·.enumerated (enumWalk topo)))

/-- R413: COR_ENUM_RX: a worker takes its address, its upstream port and the addresses that its ports serve. -/
def execCorEnumRx (addr : Nat) (port : Fin 4) (serves : List (Option (Nat × Nat))) (s : State) : Result :=
  let s := s.begin
  .next (s.when (!s.isManager && s.corRuns) (fun s =>
    let s := s.onCor (fun x => { x with serves := serves })
    (((s.wr .COR_STAT_ADDR [] addr).wr .COR_STAT_UP_PORT [] port).wrb .COR_STAT_UP_VALID [] true).checkCands))

/-! ### Windows (R415, R423) -/

/-- R415: the BAR4 offset of a window's offset. -/
def windowOffset (w addr : Nat) : Nat := w * 0x1000000 + addr

/-- R415: a read or a write ends expired: all ones, or a lost write. -/
def State.expire (s : State) (w addr : Nat) (isRead discarded : Bool) : State :=
  let s := s.countWrap (if isRead then .COR_WIN_STAT_TIMEOUTS else .COR_WIN_STAT_WR_LOST) [w]
  (s.when (isRead && !discarded) (·.say (.data .pf0 (windowOffset w addr) 0xFFFFFFFF))).evt .COR_EVT_TIMEOUT

/-- R415: the requests of a window in flight. -/
def State.inFlight (s : State) (w : Nat) : Nat := (s.cor.requests.filter (fun r => r.window == w)).length

/-- R415: a request goes out; without a route it waits for its deadline. -/
def State.sendRequest (s : State) (w addr : Nat) (data : Option Nat) : State :=
  let dest := s.rd .COR_WIN_CFG_WORKER [w]
  let id := s.cor.nextId
  let h := s.hopsTo dest
  let body := match data with
    | some v => CellBody.write id addr v
    | none => CellBody.read id addr
  let r : Request := ⟨id, w, addr, data.isNone, false, s.uptime * 1000 + 2000 + 320 * h, false⟩
  let s := s.onCor (fun x => { x with requests := x.requests ++ [r], nextId := id + 1 })
  s.when (s.corRuns && (tabFind s.cor.nodes dest).isSome) (·.sendCell dest body)

/-- R24: PF0's non-posted requests that have no completion yet. -/
def State.readsOut (s : State) : Nat := (s.cor.requests.filter (fun r => r.isRead && !r.discarded)).length

/-- R24, R415, R417, R423: an access to BAR4. With 64 reads outstanding the credits for a further one are withheld: it
stays with the host. A worker's BAR4, and a window that is not enabled, read as zero; a window with 16
requests in flight takes no further one yet. -/
def State.window (s : State) (w addr : Nat) (data : Option Nat) : State :=
  if !s.isManager || !s.flag .COR_WIN_CFG_EN [w] then
    s.when data.isNone (·.say (.data .pf0 (windowOffset w addr) 0))
  else if s.flag .COR_STAT_ENUMERATING then s.expire w addr data.isNone false
  else if 16 ≤ s.inFlight w || (data.isNone && decide (64 ≤ s.readsOut)) then s
  else s.sendRequest w addr data

/-- R415: WINDOW_ACCESS. -/
def execWindowAccess (w : Fin 16) (addr : Nat) (data : Option Nat) (s : State) : Result :=
  .next (s.begin.window w addr data)

/-- A request in flight. -/
def State.request (s : State) (id : Nat) (isRead : Bool) : Option Request :=
  s.cor.requests.find? (fun r => r.id == id && r.isRead == isRead)

/-- A request ends. -/
def State.endRequest (s : State) (id : Nat) : State :=
  s.onCor (fun x => { x with requests := x.requests.filter (fun r => r.id != id) })

/-- R38, R415: COR_READ_CPL_RX: a stopped corridor receives nothing. -/
def execCorReadCplRx (id data : Nat) (s : State) : Result :=
  let s := s.begin
  .next (match (if s.corRuns then s.request id true else none) with
    | some r => (s.endRequest id).when (!r.discarded) (·.say (.data .pf0 (windowOffset r.window r.addr) data))
    | none => s)

/-- R38, R415: COR_WRITE_ACK_RX. -/
def execCorWriteAckRx (id : Nat) (s : State) : Result :=
  let s := s.begin
  .next (s.when (s.corRuns && (s.request id false).isSome) (·.endRequest id))

/-- R38, R415: COR_STALL_RX: the first STALL extends the deadline by 100 µs. -/
def execCorStallRx (id : Nat) (s : State) : Result :=
  let s := s.begin
  .next (match s.cor.requests.find? (fun r => r.id == id && !r.stalled && s.corRuns) with
    | some r =>
      let f := fun (x : Request) => if x.id = id then { x with stalled := true, deadline := x.deadline + 100000 } else x
      (s.onCor (fun x => { x with requests := x.requests.map f })).countWrap .COR_WIN_STAT_STALLS [r.window]
    | none => s)

/-- R415: WINDOW_DEADLINE_EXPIRY. -/
def execWindowDeadlineExpiry (id : Nat) (s : State) : Result :=
  let s := s.begin
  .next (match s.cor.requests.find? (fun r => r.id == id) with
    | some r => (s.endRequest id).expire r.window r.addr r.isRead r.discarded
    | none => s)

/-! ### Forwarded doorbells and power requests (R416, R417) -/

/-- R416: the lowest enabled window that maps a worker. -/
def State.windowOf (s : State) (a : Nat) : Option Nat :=
  (List.range 16).find? (fun w => s.flag .COR_WIN_CFG_EN [w] && s.rd .COR_WIN_CFG_WORKER [w] == a)

/-- R416: the manager logs a DOORBELL and requests the window's vector. -/
def State.doorbellCell (s : State) (a v : Nat) : State :=
  let s := if s.cor.fwdLog.length < 64 then s.onCor (fun x => { x with fwdLog := x.fwdLog ++ [(a, v)] })
    else s.evt .COR_EVT_FWD_LOST
  match s.windowOf a with
  | some w => s.ring (48 + w)
  | none => s.evt .COR_EVT_FWD_UNMAPPED

/-- R416: COR_DOORBELL_RX. -/
def execCorDoorbellRx (worker : Nat) (v : Fin 64) (s : State) : Result :=
  let s := s.begin
  .next (s.when (s.isManager && s.corRuns) (·.doorbellCell worker v))

/-- R364, R417: COR_HIER_RX: a worker applies the requested power state. -/
def execCorHierRx (target : Fin 8) (s : State) : Result :=
  let s := s.begin
  .next (s.when (!s.isManager && s.corRuns) (·.targetWrite target))

/-- R418: the word of FWD_LOG, whose read removes the oldest entry. -/
def State.popFwd (s : State) : Nat × State :=
  match s.cor.fwdLog with
  | e :: rest => if s.isManager then (2 ^ 31 + e.2 * 2 ^ 24 + e.1, s.onCor (fun x => { x with fwdLog := rest })) else (0, s)
  | [] => (0, s)

/-- R418: FWD_LOG_READ. -/
def execFwdLogRead (req : Req) (s : State) : Result :=
  .next (s.begin.via req (fun s =>
    let r := s.popFwd
    r.2.say (.data req 0xD0038 r.1)))

end Sys2Proof.Machine
end

