-- ==== Sys2Proof/Machine/Smbus.lean ====
section
/-!
DEFINITION. The board manager's SMBus commands (R420).
-/

namespace Sys2Proof.Machine

/-- R420: AON answers in every state except Off (and without input power). -/
def State.smbUp (s : State) : Bool := s.power.state != 4 && s.power.state != 6

/-- R420: in Deep sleep and Watch sensor values are the last ones before entry. -/
def State.smbStale (s : State) : Bool := s.power.state == 3 || s.power.state == 5

/-- A word as SMBus carries it, low byte first. -/
def wordBytes (v : Nat) : List Nat := [v % 256, v / 256 % 256]

/-- R420: an answer, where the module answers. -/
def State.smbAnswer (s : State) (bytes : List Nat) : State := s.when s.smbUp (·.say (.smbus bytes))

/-- R420: the STATUS word. -/
def State.smbStatusWord (s : State) : Nat :=
  s.power.state * 8192 + bitNat s.pins.faultN * 4096 + s.rd .PWR_VIN_STAT_WARN * 2048 + s.rd .PWR_WAKE_REC_FLAG * 1024 +
    bitNat s.smbStale * 512 + bitNat s.pins.smbAlert * 256

/-- R420: SMB_STATUS. -/
def execSmbStatus (s : State) : Result :=
  let s := s.begin
  .next (s.smbAnswer (wordBytes s.smbStatusWord))

/-- R420: SMB_VIN. -/
def execSmbVin (s : State) : Result :=
  let s := s.begin
  .next (s.smbAnswer (wordBytes (s.rd .PWR_VIN_STAT_VIN)))

/-- R420: a reading replaces what the sensor of a channel last read. -/
def State.noteTemp (s : State) (ch : Nat) (v : Int) : State :=
  { s with sup := { s.sup with temps := tabSet 0 s.sup.temps ch v } }

/-- R420: the highest of the die sensors' last readings. -/
def State.dieTemp (s : State) : Int :=
  (List.range 8).foldl (fun m k => max m (tabGet 0 s.sup.temps (16 + k))) (tabGet 0 s.sup.temps 16)

/-- R420: the highest die reading is `v`: no sensor reads above it, and one reads it. -/
def State.noteDie (s : State) (v : Int) : State :=
  (s.upTo 8 (fun s k => s.noteTemp (16 + k) (min v (tabGet 0 s.sup.temps (16 + k))))).noteTemp 16 v

/-- R420: SMB_TCP. -/
def execSmbTcp (v : Int) (s : State) : Result :=
  let s := s.begin
  let s := s.when (decide (s.power.state ≤ 2)) (·.noteTemp 15 v)
  .next (s.smbAnswer (wordBytes (ofSigned 16 (tabGet 0 s.sup.temps 15))))

/-- R420: SMB_TDIE. -/
def execSmbTdie (v : Int) (s : State) : Result :=
  let s := s.begin
  let s := s.when (decide (s.power.state ≤ 2)) (·.noteDie v)
  .next (s.smbAnswer (wordBytes (ofSigned 16 s.dieTemp)))

/-- R420: SMB_WAKE. -/
def execSmbWake (s : State) : Result :=
  let s := s.begin
  .next (s.smbAnswer (wordBytes
    (s.rd .PWR_WAKE_REC_CAUSE * 4096 + s.rd .PWR_WAKE_REC_FROM * 512 + s.rd .PWR_WAKE_REC_FLAG * 256)))

/-- R420: SMB_ID. -/
def execSmbId (s : State) : Result :=
  let s := s.begin
  .next (s.smbAnswer (bytesMsb 4 s.idWord ++ bytesMsb 4 (s.rd .SEC_DEV_ID_HI_ID) ++ bytesMsb 4 (s.rd .SEC_DEV_ID_LO_ID)))

/-- R361, R420: WAKE_CMD: wakes the module from Deep sleep and Watch, or is refused. -/
def State.smbWakeUp (s : State) : State :=
  if !s.smbUp then s
  else if !s.flag .PWR_WAKE_CFG_SMB_EN then s.say .smbusNack
  else if s.asleep then s.wake 2
  else match s.power.trans with
    | some t => s.when (decide (3 ≤ t)) (fun s => (s.returnState.refuse 0 3 t false).actHeld)
    | none => s.recause 2

/-- R420: SMB_WAKE_CMD. -/
def execSmbWakeCmd (s : State) : Result := .next s.begin.smbWakeUp

/-- R420: SMB_ALERT_N is released. -/
def State.releaseAlert (s : State) : State := { s with pins := { s.pins with smbAlert := false } }

/-- R420: SMB_ALERT_CLR. -/
def execSmbAlertClr (s : State) : Result :=
  let s := s.begin
  .next (s.when s.smbUp State.releaseAlert)

/-- R420: SMB_ALERT_RESPONSE: a module that asserts SMB_ALERT_N answers with its address and releases it. -/
def execSmbAlertResponse (s : State) : Result :=
  let s := s.begin
  .next (s.when (s.smbUp && s.pins.smbAlert) (fun s => s.releaseAlert.say (.smbus [0x9C])))

/-- R420: SMB_ATTIC_CUR. -/
def execSmbAtticCur (index : Nat) (s : State) : Result :=
  let s := s.begin
  .next (s.when s.smbUp (·.onAttic (fun a => { a with boardCursor := index % 4096 })))

/-- R391, R420: the record at the board's cursor. -/
def State.boardRecord (s : State) : List Nat :=
  ((List.range 8).map (fun w => bytesMsb 4 ((s.recAt s.attic.boardCursor).word w))).flatten

/-- R420: SMB_ATTIC_REC: the cursor then advances, wrapping at 4,095. -/
def execSmbAtticRec (s : State) : Result :=
  let s := s.begin
  .next (s.when s.smbUp (fun s =>
    (s.say (.smbus s.boardRecord)).onAttic (fun a => { a with boardCursor := (a.boardCursor + 1) % 4096 })))

/-- R420: the commands that are defined. -/
def smbCodes : List Nat := [0x01, 0x02, 0x03, 0x04, 0x05, 0x06, 0x10, 0x11, 0x20, 0x21]

/-- R420: SMB_UNDEFINED. -/
def execSmbUndefined (code : Nat) (s : State) : Result :=
  let s := s.begin
  .next (s.when (s.smbUp && !smbCodes.contains code) (·.say .smbusNack))

end Sys2Proof.Machine
end

