-- ==== Sys2Proof/Machine/Reads.lean ====
section
/-!
DEFINITION. Reads of BAR0: which registers lie at an offset, what a field reads as, and what a read does (R5 to R7,
R41, R383, R384, R389, R393, R401, R402, R407, R418).
-/

namespace Sys2Proof.Machine

/-! ### The register map (R401) -/

/-- R401: a region's number within wing A, for a region of either wing. -/
def wingRegion (n : Nat) : Nat := if 0x20 ≤ n then n - 0x10 else n

/-- R401: the rows of the shared regions. -/
def sharedRows : Nat → List Row
  | 0x00 => rowsGLB
  | 0x01 => rowsPWR
  | 0x02 => rowsREF
  | 0x03 => rowsHST
  | 0x04 => rowsATT
  | 0x05 => rowsPMU
  | 0x06 => rowsSEC
  | 0x07 => rowsCIP
  | 0x08 => rowsHAL
  | 0x09 => rowsPAN
  | 0x0A => rowsSCH
  | 0x0B => rowsCLI
  | 0x0C => rowsSDS
  | 0x0D => rowsCOR
  | 0x0E => rowsSUP
  | 0x0F => rowsICM
  | 0x30 => rowsRAS
  | _ => []

/-- R401: the rows of a wing's regions. -/
def lineRows : Nat → List Row
  | 0x10 => rowsTXW
  | 0x11 => rowsRXW
  | 0x12 => rowsCNV
  | 0x13 => rowsFEC
  | 0x14 => rowsOHD
  | 0x15 => rowsELC
  | 0x16 => rowsOPT
  | _ => []

/-- R42: every region that holds S fields, and GLB, has a COMMIT register. -/
def commitRegions : List Nat :=
  [0x00, 0x02, 0x07, 0x08, 0x09, 0x0A, 0x0B, 0x0E, 0x0F, 0x10, 0x11, 0x12, 0x13, 0x14, 0x15]

/-- R401: the rows of a region, from its number. -/
def regionRows (n : Nat) : List Row :=
  if 0x10 ≤ n && n ≤ 0x26 then lineRows (wingRegion n) else sharedRows n

/-- The fields of the register at an offset: each field's row and its instance. -/
def rowsAt (addr : Nat) : List (Row × List Nat) :=
  let n := addr / 0x10000
  let rs := if addr % 0x10000 = 0xFFF0 then (if commitRegions.contains (wingRegion n) then rowsCOMMIT else [])
    else regionRows n
  rs.filterMap (fun r => (r.index? addr).map (fun ix => (r, ix)))

/-- R398: the MSI-X table of 64 entries of 16 bytes, and the pending bit array. -/
def isMsix (addr : Nat) : Bool :=
  addr % 4 == 0 && ((0x38000 ≤ addr && addr < 0x38400) || addr == 0x39000 || addr == 0x39004)

/-- R16, R401: the island that holds a region, from an offset in it. -/
def State.islandOf (s : State) (addr : Nat) : Nat :=
  let n := addr / 0x10000
  if 0x10 ≤ n && n ≤ 0x26 then
    [7, 9, 13, 11, 15, 7, 13].getD (wingRegion n - 0x10) 7 + (if 0x20 ≤ n then 1 else 0)
  else if n = 0x0B then (if s.rd .CLI_PORT_CFG_LANE0 [addr % 0x10000 / 0x200 % 32] < 16 then 21 else 22)
  else if n = 0x0C then (if addr % 0x10000 / 0x100 < 16 then 21 else 22)
  else [4, 1, 6, 5, 0, 4, 2, 17, 18, 19, 20, 21, 21, 23, 24, 24].getD n 4

/-- R401, R402, R433: the region responds: before RUNNING only those of the always running islands do, and an absent
WING_B section leaves wing B's regions unmapped. -/
def State.regionUp (s : State) (n : Nat) : Bool :=
  if s.isRunning then decide (n < 0x20) || n == 0x30 || s.image.running.isNone || (s.wingSec .b).isSome
  else [0x00, 0x01, 0x03, 0x04, 0x06, 0x30].contains n

/-- R317: the GUARD registers of an ingress queue's block, which read as zero and ignore writes. -/
def isIngressGuard (addr : Nat) : Bool :=
  decide (0xA8000 ≤ addr) && decide (addr < 0xAA000) && (addr % 0x20 == 0x10 || addr % 0x20 == 0x14)

/-- R402: an access to the offset finds a register. -/
def State.assigned (s : State) (addr : Nat) : Bool :=
  s.regionUp (addr / 0x10000) && (isMsix addr || !(rowsAt addr).isEmpty || isIngressGuard addr)

/-! ### Fields that read zero and ignore writes -/

/-- R418: the fields marked "manager". -/
def managerRows : List Row :=
  [.COR_TOPO_WORKERS, .COR_TOPO_DEPTH, .COR_PORT_STAT_WRAPPED, .COR_FWD_LOG_VALID, .COR_FWD_LOG_VECTOR,
   .COR_FWD_LOG_WORKER, .COR_WKR_SEL_ADDR, .COR_WKR_INFO_PRESENT, .COR_WKR_INFO_PARENT_PORT, .COR_WKR_INFO_DEPTH,
   .COR_WKR_INFO_PARENT, .COR_WIN_CFG_EN]

/-- R69: the rows of a wing's channels. -/
def chanRows : List Row :=
  rowsELC.filter (fun r => decide (0x150400 ≤ r.base) && decide (r.base < 0x150500))

/-- A row belongs to a list. -/
def Row.among (r : Row) (rs : List Row) : Bool := rs.any (fun x => x.id == r.id)

/-- R69, R275, R298, R395, R407, R418: the field reads zero and ignores writes, which are recorded nowhere: the CIP region
and SES_CFG.EN on a C0, the block and loopback of a port that does not exist, the channels beyond the wing's count, CHAIN
of an odd counter, engine 7 but for BUSY, and the manager's fields on a worker. -/
def State.hidden (s : State) (r : Row) (ix : List Nat) : Bool :=
  let n := r.base / 0x10000
  if n = 0x07 || r.id == Row.SEC_SES_CFG_EN.id || (decide (r.addr ix / 0x10000 = 0x07)) then s.isC0
  else if n = 0x0B || r.id == Row.HAL_LB_MODE.id then !s.portDefined (ix.headD 0)
  else if n = 0x15 && r.among chanRows then decide (s.chanCount (Wing.num (ix.headD 0)) ≤ ix.getD 1 0)
  else if r.id = Row.PMU_CNT_CFG_CHAIN.id then ix.headD 0 % 2 == 1
  else if n = 0x03 && r.among dmaRows then ix == [7] && r.id != Row.HST_DMA_STAT_BUSY.id
  else if n = 0x0D && r.among managerRows then !s.isManager
  else false

/-! ### Status that is computed when it is read -/

/-- R418: WKR_INFO of the worker selected. -/
def State.workerInfo (s : State) (r : Row) : Option Nat :=
  let a := s.rd .COR_WKR_SEL_ADDR
  match tabFind s.cor.nodes a with
  | none => if r.base = 0xD0044 then some 0 else none
  | some n =>
    if r.id = Row.COR_WKR_INFO_PRESENT.id then some 1
    else if r.id = Row.COR_WKR_INFO_PARENT_PORT.id then some n.parentPort
    else if r.id = Row.COR_WKR_INFO_DEPTH.id then some (s.hopsTo a)
    else if r.id = Row.COR_WKR_INFO_PARENT.id then some n.parent
    else none

/-- R303, R307, R317: the status of a queue. -/
def State.queueStat (s : State) (q : Nat) (lsb : Nat) : Nat :=
  bitNat (match lsb with
    | 31 => s.eligible q
    | 30 => decide (512 ≤ q) || !s.gatesActive (q / 8) || (s.gates (q / 8)).testBit (q % 8)
    | 29 => decide (q < 512) && s.inGuard q
    | 28 => decide (s.tokens q ≤ 0)
    | _ => decide (512 ≤ q) && s.pausedIn q)

/-- R317: the scheduler's computed fields. -/
def State.schedStat (s : State) (r : Row) (ix : List Nat) : Option Nat :=
  let k := ix.headD 0
  let e := s.stagedEntry (s.rd .SCH_GCL_WSEL_CH) (s.rd .SCH_GCL_WSEL_IDX)
  if r.base = 0xA0104 then some e.1
  else if r.base = 0xA0108 then some e.2
  else if r.base = 0xA401C then some (s.queueStat k r.lsb)
  else if r.base = 0xA801C then some (s.queueStat (512 + k) r.lsb)
  else if r.base = 0xA400C then some (ofSigned 32 (s.tokens k / 256))
  else if r.base = 0xA800C then some (ofSigned 32 (s.tokens (512 + k) / 256))
  else none

/-- R282: local fault is being sent towards the router. -/
def State.localFault (s : State) (p : Nat) : Bool :=
  s.flag .CLI_PORT_CFG_SSF_ACT [p] && (match s.portChan p with
    | some ch => s.ssfChan (chanWing ch) (chanNum ch)
    | none => false) && (List.range 8).all (fun c => (s.queue (512 + 8 * p + c)).isEmpty)

/-- R451: M_floor of the floor profile that FLOOR or FLOOR_RX holds, at the present symbol rate. -/
def State.floorM (s : State) (r : Row) (ix : List Nat) : Option Nat :=
  if r.id = Row.ELC_FLOOR_SLOTS.id then
    some (slotsOf (s.rd .TXW_RATE_BAUD ix) (s.rd .ELC_FLOOR_H_IDX ix) (s.rd .ELC_FLOOR_FEC ix))
  else if r.id = Row.ELC_FLOOR_RX_SLOTS.id then
    some (slotsOf (s.rd .RXW_RATE_BAUD ix) (s.rd .ELC_FLOOR_RX_H_IDX ix) (s.rd .ELC_FLOOR_RX_FEC ix))
  else none

/-- R148: the CIC and FIR parameters of a wing context. -/
def State.wingCfg (s : State) (r : Row) (ix : List Nat) : Option Nat :=
  if s.wingCtx (ix.headD 0) then
    if r.id = Row.SUP_DEC_CFG_ORDER.id then some 3
    else if r.id = Row.SUP_DEC_CFG_FIR_D.id then some 1
    else if r.id = Row.SUP_DEC_CFG_R.id then some 6
    else if r.id = Row.SUP_DEC_CFG_SHIFT.id then some (s.ctxShift (ix.headD 0))
    else none
  else none

/-- R352, R354, R380: the power queue and the guarantee. -/
def State.moduleStat (s : State) (r : Row) : Option Nat :=
  if r.id = Row.PWR_BUDGET_STAT_QUEUED.id then some s.power.queue.length
  else if r.id = Row.PWR_BUDGET_STAT_WINDOW.id then some (s.windowSum / 1000)
  else if r.id = Row.RAS_STAT_GUARANTEE.id then some (bitNat s.guarantee)
  else if r.id = Row.RAS_STAT_RATINGS.id then some (bitNat s.ratings)
  else none

/-- R42: the region of an instance of COMMIT holds staged writes, or a pending set. -/
def holds (t : Tab Nat) (n : Nat) : Nat := bitNat (t.any (fun e => e.1 / 0x10000 == n))

/-- The fields whose value the module works out when they are read. -/
def State.computed (s : State) (r : Row) (ix : List Nat) : Option Nat :=
  match r.base / 0x10000 with
  | 0x00 =>
    if r.id = Row.COMMIT_STAGED.id then some (holds s.staged (ix.headD 0))
    else if r.id = Row.COMMIT_PENDING.id then some (holds s.pend (ix.headD 0))
    else none
  | 0x01 => s.moduleStat r
  | 0x02 => if r.id = Row.REF_CAND_STAT_WTR_LEFT.id then some (s.wtrLeft (ix.headD 0)) else none
  | 0x06 => if r.id = Row.SEC_SES_STAT_STATE.id && s.isC0 then some 7 else none
  | 0x05 =>
    if r.among [.PMU_CNT_HI_COUNT, .PMU_CNT_PS_HI_COUNT] && s.chained (ix.headD 0) then some 0 else none
  | 0x0A => s.schedStat r ix
  | 0x0B => if r.id = Row.CLI_PORT_STAT_LF_TX.id then some (bitNat (s.localFault (ix.headD 0))) else none
  | 0x0D => s.workerInfo r
  | 0x0E => s.wingCfg r ix
  | 0x15 => s.floorM r ix
  | 0x30 => s.moduleStat r
  | _ => none

/-! ### What a register reads as -/

/-- R41: the value that a read of an S field returns: the staged, else the pending, else the active value; with
VIEW_ACTIVE the active value. -/
def State.viewS (s : State) (r : Row) (ix : List Nat) : Nat :=
  let a := r.addr ix
  if s.flag .COMMIT_VIEW_ACTIVE [a / 0x10000] then s.rd r ix
  else match tabFind s.staged a with
    | some v => bitsAt v r.lsb r.width
    | none => match tabFind s.pend a with
      | some v => bitsAt v r.lsb r.width
      | none => s.rd r ix

/-- R7: what a read of a field returns. -/
def State.fieldRead (s : State) (r : Row) (ix : List Nat) : Nat :=
  if s.hidden r ix then 0
  else match s.computed r ix with
    | some v => v % 2 ^ r.width
    | none => match r.acc, r.cls with
      | .wo, _ => 0
      | _, .shadowed => s.viewS r ix
      | _, _ => s.seen r ix

/-- R5, R6: what a register reads as; reserved bits read as zero. -/
def State.word (s : State) (addr : Nat) : Nat :=
  (rowsAt addr).foldl (fun v e => v + s.fieldRead e.1 e.2 * 2 ^ e.1.lsb) 0

/-! ### Wide values (R383) -/

/-- R383: the _LO registers of the read-only pairs. -/
def loRows : List Row :=
  [.SUP_CH_SUM_LO_SUM, .SUP_CH_SQ_LO_SQ, .CNV_DIM_SUM_LO_SUM, .CNV_DIM_SQ_LO_SQ, .CNV_DIM_CNT_LO_CNT,
   .CNV_SLICE_SUM_LO_SUM, .CNV_SLICE_SQ_LO_SQ, .CNV_SLICE_CNT_LO_CNT, .FEC_BLOCKS_LO_BLOCKS, .FEC_UNCORR_LO_UNCORR,
   .FEC_UNCORR_P1_LO_UNCORR_P1, .FEC_BITS_LO_BITS, .FEC_ERR_BITS_LO_ERR_BITS, .FEC_DEMATCH_LO_DEMATCH_ERR,
   .FEC_ITER_LO_ITER_SUM, .FEC_BLOCKS_PS_LO_BLOCKS, .FEC_UNCORR_PS_LO_UNCORR, .FEC_UNCORR_P1_PS_LO_UNCORR_P1,
   .FEC_BITS_PS_LO_BITS, .FEC_ERR_BITS_PS_LO_ERR_BITS, .FEC_DEMATCH_PS_LO_DEMATCH_ERR, .FEC_ITER_PS_LO_ITER_SUM,
   .SEC_DEV_ID_LO_ID, .REF_MT_LO_MT, .PWR_SLEEP_LO_N, .PMU_CNT_LO_COUNT, .PMU_CNT_PS_LO_COUNT]

/-- R383: the offset is that of a _LO register of a read-only pair; its _HI register follows it. -/
def isLo (addr : Nat) : Bool := (rowsAt addr).any (fun e => e.1.among loRows)

/-- R385: the general counter whose words lie at an offset. -/
def counterAt (addr : Nat) : Option Nat :=
  if 0x50200 ≤ addr && addr < 0x50600 then some ((addr - 0x50200) % 0x200 / 8) else none

/-- R385: the counter whose words lie at an offset is the lower one, or the upper one, of a chained pair. -/
def State.chainsAt (s : State) (addr : Nat) : Bool :=
  match counterAt addr with
  | some n => s.chains n
  | none => false

/-- R385: the upper one. -/
def State.chainedAt (s : State) (addr : Nat) : Bool :=
  match counterAt addr with
  | some n => s.chained n
  | none => false

/-- R383: the _LO register that an upper word belongs to, and where the word lies in what the shadow holds. -/
def State.upperOf (s : State) (addr : Nat) : Option (Nat × Nat) :=
  if isLo addr then (if s.chainedAt addr then some (addr - 8, 32) else none)
  else if 4 ≤ addr && isLo (addr - 4) && !s.chainedAt addr then some (addr - 4, 0)
  else none

/-- R383, R385: what a read of a _LO register stores in the shadow: the rest of the value. -/
def State.restOf (s : State) (addr : Nat) : Nat :=
  s.word (addr + 4) + (if s.chainsAt addr then s.word (addr + 8) * 2 ^ 32 else 0)

/-- R383: a read of a _LO register fills the requester's shadow. -/
def State.fillShadow (s : State) (req : Req) (addr : Nat) : State :=
  s.onHost (fun h => { h with
    shadowTag := tabSet 0 h.shadowTag req.n (addr + 1)
    shadow := tabSet 0 h.shadow req.n (s.restOf addr) })

/-- R383: a read fills the shadow when it is of a _LO register that is no chained upper word. -/
def State.takeShadow (s : State) (req : Req) (addr : Nat) : State :=
  s.when (isLo addr && !s.chainedAt addr) (·.fillShadow req addr)

/-- R383: what the shadow answers to a read of an upper word whose tag matches. -/
def State.fromShadow (s : State) (req : Req) (addr : Nat) : Option Nat :=
  match s.upperOf addr with
  | some p =>
    if tabGet 0 s.host.shadowTag req.n = p.1 + 1 then some (bitsAt (tabGet 0 s.host.shadow req.n) p.2 32) else none
  | none => none

/-- R383: the value of a read of one word. -/
def State.valueFor (s : State) (req : Req) (addr : Nat) : Nat :=
  match s.fromShadow req addr with
  | some v => v
  | none => s.word addr

/-! ### What a read does -/

/-- R384: the frozen copy of a count goes to zero, so that it is not returned twice. -/
def State.clearFrozen (s : State) (r : Row) (ix : List Nat) : State :=
  match s.pmu.frozen with
  | some st => s.onPmu (fun p => { p with frozen := some (storeSet st r (r.flat ix) 0) })
  | none => s

/-- R7, R384: a read clears an RC field; while frozen, what was returned is taken from the live count. -/
def State.clearRc (s : State) (r : Row) (ix : List Nat) : State :=
  if s.pmu.frozen.isSome && r.cnt != .no && r.cnt != .attic then (s.wr r ix (s.rd r ix - s.seen r ix)).clearFrozen r ix
  else s.wr r ix 0

/-- R7: the RC fields of a register clear in the access that reads them. -/
def State.clearRcAt (s : State) (addr : Nat) : State :=
  (rowsAt addr).foldl (fun s e => s.when (e.1.acc == .rc && !s.hidden e.1 e.2) (·.clearRc e.1 e.2)) s

/-- R405: a word of the MSI-X table (word 3 of an entry holds its mask bit) or of the pending bit array. -/
def State.msixWord (s : State) (addr : Nat) : Nat :=
  if addr = 0x39000 then bitsAt s.host.pba 0 32
  else if addr = 0x39004 then bitsAt s.host.pba 32 32
  else
    let k := (addr - 0x38000) / 4
    if k % 4 = 3 then bitNat (!s.host.unmasked.testBit (k / 4)) else tabGet 0 s.host.table k

/-- R389, R393, R418: the reads that copy a record, move a cursor or take an entry; then R383 and R7. -/
def State.readWord (s : State) (req : Req) (addr : Nat) : Nat × State :=
  if addr = 0x50800 then let t := s.copyTag; (t.word addr, t)
  else if addr = 0x40020 then let t := s.copyRec; (t.word addr, t)
  else if addr = 0x4003C then (s.word addr, s.advanceCursor)
  else if addr = 0xD0038 then s.popFwd
  else if isMsix addr then (s.msixWord addr, s)
  else (s.valueFor req addr, (s.takeShadow req addr).clearRcAt addr)

/-- R402: an access to an unassigned offset is counted. -/
def State.unmapped (s : State) : State := s.count .HST_UNMAPPED_COUNT []

/-- R360, R386: an access is counted for its requester, and wakes an unclocked island: the stall is a free value of at most
60 µs (assumption 4). -/
def State.reachIsland (s : State) (req : Req) (addr : Nat) : State :=
  let s := s.native 0x0E req.n 1
  let i := s.islandOf addr
  if !s.isRunning || s.clocked i then s
  else
    let f := s.fresh 601
    f.2.wakeIsland i f.1

/-- R402: a read of one word by a requester, with the word it returns. -/
def State.regRead (s : State) (req : Req) (addr : Nat) : Nat × State :=
  if !s.assigned addr then (0, s.unmapped) else (s.reachIsland req addr).readWord req addr

/-- The completion of a read, when the fabric takes accesses. -/
def State.readFor (s : State) (req : Req) (addr : Nat) : State :=
  if !s.takesFrom req then s
  else
    let r := s.regRead req addr
    r.2.say (.data req addr r.1)

/-- R7: RC_READ: of an RC field. -/
def execRcRead (req : Req) (addr : Nat) (s : State) : Result := .next (s.begin.readFor req addr)

/-- R383: LO_HALF_READ: of a _LO register. -/
def execLoHalfRead (req : Req) (addr : Nat) (s : State) : Result := .next (s.begin.readFor req addr)

/-! ### The user page (R387) -/

/-- R387: the BAR0 offset of a word of the user page. -/
def userAddr (off : Nat) : Option Nat :=
  if off % 4 != 0 then none
  else if off < 0x400 then some (0x50200 + off)
  else if off = 0x400 then some 0x20080
  else if off = 0x404 then some 0x20084
  else if off = 0x408 then some 0x20094
  else none

/-- R387: a read of the user page is permitted. -/
def State.userMay (s : State) (off : Nat) : Bool :=
  s.use .PMU_CTL_USER_EN != 0 && (decide (0x400 ≤ off) || s.use .PMU_CNT_CFG_USER [off % 0x200 / 8] != 0)

/-- R38, R387: a violation; a stopped PMU counts nothing. -/
def State.userViolation (s : State) : State :=
  (s.when (!s.halted 7) (·.count .PMU_USER_VIOL_COUNT [])).evt .PMU_EVT_USER_VIOL

/-- R387: what a permitted read of the user page returns; TICK_STAT shows only TICKS. -/
def State.userRead (s : State) (off : Nat) : Nat × State :=
  match userAddr off with
  | none => (0, s)
  | some a =>
    if a = 0x20094 then (s.rd .REF_TICK_STAT_TICKS, s) else (s.valueFor .pf1 a, s.takeShadow .pf1 a)

/-- R387: USER_PAGE_ACCESS. -/
def State.userAccess (s : State) (off : Nat) (isWrite : Bool) : State :=
  let s := s.native 0x0E Req.pf1.n 1
  if isWrite then s.userViolation
  else if !s.userMay off then s.userViolation.say (.data .pf1 off 0)
  else
    let r := s.userRead off
    r.2.say (.data .pf1 off r.1)

/-- R387: USER_PAGE_ACCESS. -/
def execUserPageAccess (offset : Nat) (isWrite : Bool) (s : State) : Result :=
  let s := s.begin
  .next (s.when (s.takesFrom .pf1 && s.isRunning) (·.userAccess offset isWrite))

end Sys2Proof.Machine
end

