-- ==== Sys2Proof/Machine/Blocks.lean ====
section
/-!
DEFINITION. Staged and pending writes (R41, R44), the record of rejected writes (R42, R43), and the stop and run of a
block (R38).
-/

namespace Sys2Proof.Machine

/-! ### Blocks and their regions (R38) -/

/-- R38: the block that a region belongs to. -/
def regionBlock (n : Nat) : Option Nat :=
  if 0x10 ≤ n && n ≤ 0x16 then some 0
  else if 0x20 ≤ n && n ≤ 0x26 then some 1
  else if n = 0x0B || n == 0x0C then some 2
  else if n = 0x08 || n == 0x09 || n == 0x0A then some 3
  else if n = 0x07 then some 4
  else if n = 0x0D then some 5
  else if n = 0x0E || n == 0x0F then some 6
  else if n = 0x05 then some 7
  else none

/-- R38: the regions of a block that hold S fields. -/
def blockRegions (b : Nat) : List Nat :=
  (commitRegions ++ [0x20, 0x21, 0x22, 0x23, 0x24, 0x25]).filter (fun n => regionBlock n == some b)

/-- R38, R42, R357: the block counts as stopped. -/
def State.counted (s : State) (b : Nat) : Bool :=
  if b < 2 then s.wingStopped (Wing.num b) else s.blockStopped b

/-- R38, R41: the block of a region is stopped. -/
def State.regionStopped (s : State) (n : Nat) : Bool :=
  match regionBlock n with
  | some b => s.counted b
  | none => false

/-! ### The pending set (R41) -/

/-- The S fields of the register at an offset. -/
def sFields (addr : Nat) : List (Row × List Nat) := (rowsAt addr).filter (fun e => e.1.cls == .shadowed)

/-- R213: the fields whose boundary is the start of the wing's next burst. -/
def burstRows : List Row :=
  [.ICM_NET_CFG_TX_ID, .ICM_TX_CFG_EN, .ICM_TX_CFG_SF, .ICM_TX_CFG_DEPTH, .ICM_TAG_CFG_PERIOD, .ICM_TAG_LABEL_LABEL]

/-- R41: the instance whose boundary applies a field: a port, a group, a queue (ingress from 512), a scheduler instance, a
context (24: the regular cycle, 25: the conversion in progress), an intercom half (2 × wing, plus 1 for the receiver), a channel of the
overhead processor
(33 + channel for its transmitted trace, 67 + channel for its expected one; 32 the section, 65 and 66 its traces); 0 where the
region has one boundary. -/
def fieldInst (r : Row) (ix : List Nat) : Nat :=
  let k := ix.headD 0
  match r.base / 0x10000 with
  | 0x08 => k
  | 0x0B => k
  | 0x09 => if r.base < 0x93000 then k else 512 + k
  | 0x0A => if r.base < 0xA8000 then k / 8 else 64 + k / 8
  | 0x0E => if 0xE0100 ≤ r.base then k else if r.base = 0xE0080 then 25 else 24
  | 0x0F => 2 * k + (if r.among burstRows then 0 else 1)
  | 0x14 =>
    if r.base < 0x140200 then 32
    else if r.base < 0x140240 then 65
    else if r.base < 0x144000 then 66
    else if r.base < 0x144040 then ix.getD 1 0
    else if r.base < 0x144080 then 33 + ix.getD 1 0
    else 67 + ix.getD 1 0
  | _ => 0

/-- The field belongs to the part of the pending set that applies. -/
def partOf_ (inst : Option Nat) (e : Row × List Nat) : Bool :=
  match inst with
  | some k => fieldInst e.1 e.2 == k
  | none => true

/-- R41: the part of a pending register takes effect. -/
def State.applyReg (s : State) (inst : Option Nat) (p : Nat × Nat) : State :=
  ((sFields p.1).filter (partOf_ inst)).foldl (fun s e => s.wr e.1 e.2 (bitsAt p.2 e.1.lsb e.1.width)) s

/-- Every S field of a pending register holds its pending value. -/
def State.settled (s : State) (p : Nat × Nat) : Bool :=
  (sFields p.1).all (fun e => s.rd e.1 e.2 == bitsAt p.2 e.1.lsb e.1.width)

/-! ### What a commit changes besides the fields -/

/-- R149: the slots that convert a channel. -/
def State.slotsFor (s : State) (c : Nat) : List Nat :=
  (List.range 16).filter (fun j => s.flag .SUP_SEQ_SLOT_EN [j] && s.rd .SUP_SEQ_SLOT_CH [j] == c)

/-- R149: a channel switch: the context's channel has other slots, or the sequence another length. -/
def State.channelSwitch (s old : State) : State :=
  s.upTo 24 (fun s k =>
    let c := s.ctxSource k
    s.when (decide (c < 24) && (s.slotsFor c != old.slotsFor c || s.seqLen != old.seqLen))
      (·.unsettle k))

/-- R333, R348, R349: a commit to a candidate; FREQ counts only for a REFIN, PORT only for a client candidate. -/
def State.candCommit (s old : State) (i : Nat) : State :=
  let moved := (decide (i < 2) && s.rd .REF_CAND_FREQ [i] != old.rd .REF_CAND_FREQ [i]) ||
    (s.candClient i && s.rd .REF_CAND_PORT [i] != old.rd .REF_CAND_PORT [i])
  ((s.when moved (·.candMoved i)).showCand i).showQl

/-- R309, R315: a commit to a queue's registers in SCH; `off` is the offset in the queue's block. -/
def State.schedCommit (s : State) (q off : Nat) : State :=
  if off = 4 || off == 8 then s.tokensOnChange q else s.when (decide (q < 512)) (·.reguard (q / 8))

/-- R290: the classes that TX_EN no longer names take no part: they leave XOFF, and no PFC frame is due for them
(assumption 79). -/
def State.dropPfc (s : State) (p : Nat) : State :=
  let en := s.rd .CLI_PFC_CFG_TX_EN [p]
  ({ s with pan := { s.pan with
    pfcXoff := tabSet 0 s.pan.pfcXoff p (tabGet 0 s.pan.pfcXoff p &&& en)
    pfcDue := tabSet 0 s.pan.pfcDue p (tabGet 0 s.pan.pfcDue p &&& en) } }).wr .CLI_PORT_STAT_XOFF [p]
      (s.rd .CLI_PORT_STAT_XOFF [p] &&& en)

/-- R284, R290: a commit to a port's registers; `off` is the offset in the port's block. -/
def State.portCommit (s : State) (p off : Nat) : State :=
  if 0x40 ≤ off && off < 0xC0 then s.when (decide (off % 16 = 4) || off % 16 == 8) (·.refillPolicer p ((off - 0x40) / 16))
  else if off = 0x100 then s.dropPfc p
  else s

/-- R245, R248: a commit to a protection group: its conditions and requests are evaluated. -/
def State.groupCommit (s : State) (g : Nat) : State :=
  s.when (s.flag .HAL_PG_MEMBERS_VALID [g] && !s.halted 3) (fun s => ((s.condChange g .a).condChange g .b).reselect g)

/-- What follows when a pending register has taken effect; `old` is the state before the commit applied. -/
def State.applied (s old : State) (addr : Nat) : State :=
  let n := addr / 0x10000
  let off := addr % 0x10000
  let w := if n < 0x20 then Wing.a else Wing.b
  match wingRegion n with
  | 0x02 => if 0x100 ≤ off && off < 0x120 then s.candCommit old ((off - 0x100) / 4) else (s.checkCands).showQl
  | 0x08 => s.when (decide (0x2000 ≤ off) && decide (off < 0x2200)) (·.groupCommit ((off - 0x2000) / 0x40))
  | 0x09 => s.when (decide (off < 0x3000)) (·.watch ((off - 0x1000) / 16) false)
  | 0x0A => if off < 0x8000 then s.schedCommit ((off - 0x4000) / 32) (off % 32)
    else s.schedCommit (512 + (off - 0x8000) / 32) (off % 32)
  | 0x0B => s.portCommit (off / 0x200) (off % 0x200)
  | 0x0E => s.when (decide (0x100 ≤ off) && decide (off < 0x160)) (·.resetCtx ((off - 0x100) / 4))
  | 0x14 => (s.noteSsf w).showFails w
  | 0x12 => s.when (s.rd .CNV_CAL_CTL_BG_EN [w.n] != old.rd .CNV_CAL_CTL_BG_EN [w.n]) (·.bgChange w)
  | _ => s

/-- R142: the register belongs to the regular sequence. -/
def isSeq (addr : Nat) : Bool := 0xE0000 ≤ addr && addr < 0xE0050

/-- R44: no write of a region waits any more, or none is pending. -/
def dropRegion (t : Tab Nat) (n : Nat) : Tab Nat := t.filter (fun e => e.1 / 0x10000 != n)

/-- R42: a pending set has applied: SEQ advances. -/
def State.seqUp (s : State) (n : Nat) : State :=
  s.when (holds s.pend n == 0) (·.wr .COMMIT_SEQ [n] (s.rd .COMMIT_SEQ [n] + 1))

/-- R41: the registers of the pending set that have a field in the part due. -/
def State.duePart (s : State) (n : Nat) (inst : Option Nat) : Tab Nat :=
  s.pend.filter (fun e => e.1 / 0x10000 == n && (sFields e.1).any (partOf_ inst))

/-- R41: a part of the pending set takes effect in one step, with what follows from it. -/
def State.commitPart (s : State) (n : Nat) (inst : Option Nat) (due : Tab Nat) : State :=
  let t := due.foldl (fun t e => t.applyReg inst e) s
  let t := { t with pend := t.pend.filter (fun e => !(due.contains e && t.settled e)) }
  let t := due.foldl (fun t e => t.applied s e.1) (t.seqUp n)
  t.when (due.any (fun e => isSeq e.1)) (·.channelSwitch s)

/-- R143: the pending set would leave the regular sequence without a channel it must convert. -/
def State.seqRefused (s : State) : Bool :=
  let set := s.pend.filter (fun e => e.1 / 0x10000 == 0x0E)
  let t := set.foldl (fun t e => t.applyReg none e) s
  set.any (fun e => isSeq e.1) && !seqCovers t t.seqSlots

/-- R154: a pending set that is not refused changes the length of the regular sequence. -/
def State.lenChanges (s : State) : Bool :=
  match tabFind s.pend 0xE0000 with
  | some v => v % 32 != s.rd .SUP_SEQ_CTL_LEN && !s.seqRefused
  | none => false

/-- R41, R143: the pending set of a region, or the part of one instance, reaches its boundary. -/
def State.applyPending (s : State) (n : Nat) (inst : Option Nat) : State :=
  let due := s.duePart n inst
  if due.isEmpty then s
  else if n = 0x0E && s.seqRefused then { s with pend := dropRegion s.pend n }.evt .SUP_EVT_SEQ_REFUSED
  else s.commitPart n inst due

/-- R44: the region's block is stopping: its pending set waits for the boundary where the stop completes. -/
def State.stopPending (s : State) (n : Nat) : Bool :=
  match regionBlock n with
  | some b => s.flag .GLB_BLK_CTL_STOPPING [b]
  | none => false

/-- R153: the sequences of SUP take a commit only at the start of a regular cycle, while the converter runs. -/
def State.midCycle (s : State) (n : Nat) (inst : Option Nat) : Bool :=
  n == 0x0E && s.supRuns && !s.cycleStart && (inst == some 24 || inst == none)

/-- R221, R240: the next frame carries byte 0 of the transmitted trace that an instance of the overhead region's pending set is
for: the section's (65), or a channel's, in its PM frame. -/
def State.traceStarts (s : State) (w : Wing) (k : Nat) : Bool :=
  let o := s.otn.get w
  if k = 65 then o.mfas % 64 == 0
  else if k < 33 || decide (65 < k) then true
  else o.mfas % 32 == k - 33 && (o.mfas / 32 + 8 * o.mfx) % 64 == 0

/-- R221: a transmitted trace that the pending set would replace has not ended. -/
def State.midTrace (s : State) (n : Nat) (inst : Option Nat) : Bool :=
  let w := if n < 0x20 then Wing.a else Wing.b
  (n == 0x14 || n == 0x24) && (s.duePart n inst).any (fun e =>
    ((sFields e.1).filter (partOf_ inst)).any (fun f => !s.traceStarts w (fieldInst f.1 f.2)))

/-- R41: PENDING_SET_APPLY. -/
def execPendingSetApply (region : Nat) (inst : Option Nat) (s : State) : Result :=
  let s := s.begin
  .next (s.when (!s.stopPending region && !s.midCycle region inst && !s.midTrace region inst) (·.applyPending region inst))

/-! ### COMMIT (R41, R42, R44) -/

/-- R41, R44: APPLY: the staging set merges into the pending set, the newer value winning; in a stopped block it applies
at once. -/
def State.commit (s : State) (n : Nat) : State :=
  let set := s.staged.filter (fun e => e.1 / 0x10000 == n)
  let s := { s with
    staged := dropRegion s.staged n
    pend := set.foldl (fun (t : Tab Nat) (e : Nat × Nat) => tabInsert e.1 e.2 (tabErase t e.1)) s.pend }
  let s := s.when (n == 0x0E && s.lenChanges && s.sup.running.isSome) (·.onSup (fun p => { p with anew := true }))
  s.when (s.regionStopped n) (·.applyPending n none)

/-- R41: APPLY. -/
def execApply (req : Req) (region : Nat) (s : State) : Result := .next (s.begin.via req (·.commit region))

/-- R42: DISCARD empties the staging set; with APPLY it is ignored. -/
def State.discardSet (s : State) (n : Nat) : State := { s with staged := dropRegion s.staged n }

/-- R42: a write of COMMIT's two bits. -/
def State.commitWrite (s : State) (n : Nat) (apply discard : Bool) : State :=
  if apply then s.commit n else s.when discard (·.discardSet n)

/-- R42: DISCARD. -/
def execDiscard (req : Req) (region : Nat) (alsoApply : Bool) (s : State) : Result :=
  .next (s.begin.via req (·.commitWrite region alsoApply true))

/-! ### Rejected writes (R42, R43) -/

/-- R42, R43: a rejected write is recorded; the first one writes an attic record with its address. -/
def State.reject (s : State) (addr : Nat) : State :=
  if s.flag .GLB_WR_REJECT_VALID then s.count .GLB_WR_REJECT_COUNT []
  else
    let s := ((s.wrb .GLB_WR_REJECT_VALID [] true).wr .GLB_WR_REJECT_WORD_ADDR [] (addr / 4)).count
      .GLB_WR_REJECT_COUNT []
    s.emit 4 0 (evtCode .GLB_WR_REJECT_VALID [] 0) (addr / 4)

/-- R42: writing 1 to VALID clears VALID, COUNT and WORD_ADDR. -/
def State.clearReject (s : State) : State :=
  ((s.wrb .GLB_WR_REJECT_VALID [] false).wr .GLB_WR_REJECT_COUNT [] 0).wr .GLB_WR_REJECT_WORD_ADDR [] 0

/-- R42: WR_REJECT_CLEAR. -/
def execWrRejectClear (req : Req) (s : State) : Result := .next (s.begin.via req (·.clearReject))

/-! ### Stop and run (R38, R44) -/

/-- R245, R255: the protection groups see what a stop or a run changes. -/
def State.groupsSee (s : State) : State :=
  s.upTo 8 (fun s g => s.when (s.flag .HAL_PG_MEMBERS_VALID [g]) (fun s => (s.condChange g .a).condChange g .b))

/-- R38: a stop is requested; a wing's carrier begins its disable ramp. -/
def State.stopBlock (s : State) (n : Nat) : State :=
  let s := s.wrb .GLB_BLK_CTL_STOP [n] true
  if s.blockStopped n || s.flag .GLB_BLK_CTL_STOPPING [n] then s
  else
    let s := s.wrb .GLB_BLK_CTL_STOPPING [n] true
    s.when (decide (n < 2)) (·.optEval (Wing.num n))

/-- R38: BLOCK_STOP. -/
def execBlockStop (req : Req) (n : Fin 8) (s : State) : Result := .next (s.begin.via req (·.stopBlock n))

/-- R38, R149, R255: what a block that was stopped does when it runs again. -/
def State.restartBlock (s : State) (n : Nat) : State :=
  if n = 6 then s.resetContexts
  else if n = 3 then s.upTo 8 (fun s g => s.groupCommit g)
  else s.when (decide (n < 2)) State.groupsSee

/-- R38, R44: a stopped block runs again, or a stop is abandoned; a wing's carrier may ramp up. -/
def State.runBlock (s : State) (n : Nat) : State :=
  let was := s.blockStopped n
  let s := ((s.wrb .GLB_BLK_CTL_STOP [n] false).wrb .GLB_BLK_CTL_STOPPING [n] false).wrb .GLB_BLK_CTL_STOPPED [n] false
  (s.when (decide (n < 2)) (·.optEval (Wing.num n))).when was (·.restartBlock n)

/-- R38: BLOCK_RUN. -/
def execBlockRun (req : Req) (n : Fin 8) (s : State) : Result := .next (s.begin.via req (·.runBlock n))

/-- R38: the block is at the boundary where its stop completes: a wing's only once its carrier is dark. -/
def State.stopReady (s : State) (n : Nat) : Bool :=
  s.flag .GLB_BLK_CTL_STOPPING [n] && (decide (2 ≤ n) || s.dark (Wing.num n))

/-- R38: what a stopped block no longer does: a wing receives nothing and its channels are out of service; the
supervisory block's intercom reception ends (R213). -/
def State.haltBlock (s : State) (n : Nat) : State :=
  if n < 2 then (((s.sp2Off (Wing.num n)).toWait (Wing.num n)).icmAbort (Wing.num n)).groupsSee
  else s.when (n == 6) (fun s => (s.icmSearch .a).icmSearch .b)

/-- R40: at the boundary where a block stops, its L fields take the values written. -/
def State.releaseBlock (s : State) (n : Nat) : State :=
  ((List.range 0x27).filter (fun r => regionBlock r == some n)).foldl (fun s r => s.releaseUse r) s

/-- R38, R44: a stop completes: the pending sets apply, then the block stops. -/
def State.stopDone (s : State) (n : Nat) : State :=
  let s := (blockRegions n).foldl (fun s r => s.applyPending r none) (s.releaseBlock n)
  ((s.wrb .GLB_BLK_CTL_STOPPING [n] false).wrb .GLB_BLK_CTL_STOPPED [n] true).haltBlock n

/-- R38: BLOCK_STOP_COMPLETE. -/
def execBlockStopComplete (n : Fin 8) (s : State) : Result :=
  let s := s.begin
  .next (s.when (s.stopReady n) (·.stopDone n))

end Sys2Proof.Machine
end

