-- ==== Sys2Proof/Machine/Writes.lean ====
section
/-!
DEFINITION. Writes of BAR0: what a written value is taken as (R40), which writes an F field refuses (R42), and what a
register does when it is written (R7).
-/

namespace Sys2Proof.Machine

/-! ### What a written value is taken as (R40) -/

/-- R80, R97: the symbol rate that a wing's floor plan allows. -/
def State.maxBaud (s : State) (w : Wing) : Nat :=
  match s.wingSec w with
  | some x => x.maxBaud
  | none => 1360

/-- R40, R113: an OFF_TH that is not at least 0.5 dB above the ON_TH of the same word is taken as ON_TH + 0.5 dB, at most
what the field holds. -/
def offThTaken (word : Nat) : Nat :=
  ofSigned 8 (max (toSigned 8 (bitsAt word 0 8)) (min 127 (toSigned 8 (bitsAt word 8 8) + 5)))

/-- R330: the magnitude of a coefficient of a TXEQ word, from its lowest bit. -/
def txeqMag (word lsb : Nat) : Nat := (toSigned 8 (bitsAt word lsb 8)).natAbs

/-- R330: what a coefficient of a TXEQ word is taken as: a set whose magnitudes sum above 64 is scaled down to a sum of 64.
Each but the main one is cut towards zero, and the main one takes the rest (assumption 56). -/
def txeqTaken (word lsb : Nat) : Nat :=
  let sum := txeqMag word 24 + txeqMag word 16 + txeqMag word 8 + txeqMag word 0
  let scaled := fun l => txeqMag word l * 64 / sum
  let m := if sum ≤ 64 then txeqMag word lsb
    else if lsb = 8 then 64 - (scaled 24 + scaled 16 + scaled 0) else scaled lsb
  ofSigned 8 (if toSigned 8 (bitsAt word lsb 8) < 0 then -(m : Int) else m)

/-- R330: the coefficients of the transmit equalisers. -/
def txeqRows : List Row :=
  [.SDS_TXEQ_CM2, .SDS_TXEQ_CM1, .SDS_TXEQ_C0, .SDS_TXEQ_CP1, .COR_TXEQ_CM2, .COR_TXEQ_CM1, .COR_TXEQ_C0, .COR_TXEQ_CP1]

/-- R40: what a field takes from a written word. OFF_TH (R113), the equaliser coefficients (R330), LEN of the regular
sequence (R142), a REL shaper's rate (R308) and the
symbol rates (R80, R97) have rules of their own. -/
def State.takes (s : State) (r : Row) (ix : List Nat) (word : Nat) : Nat :=
  let v := bitsAt word r.lsb r.width
  let t := r.norm.take r.width (s.rd r ix) v
  if r.id = Row.SUP_SEQ_CTL_LEN.id then (if v = 0 || decide (16 < v) then 16 else v)
  else if r.id = Row.SCH_EQ_SHP_CFG_RATE.id || r.id == Row.SCH_IQ_SHP_CFG_RATE.id then
    (if bitsAt word 30 1 = 1 then min 1024 t else t)
  else if r.id = Row.RXW_SP2_CTL_OFF_TH.id then offThTaken word
  else if r.id = Row.PAN_EQ_PFC_TH_XON_TH.id then min v (bitsAt word 16 16 - 1)
  else if r.among txeqRows then txeqTaken word r.lsb
  else if r.id = Row.TXW_RATE_BAUD.id || r.id == Row.RXW_RATE_BAUD.id then min (s.maxBaud (Wing.num (ix.headD 0))) t
  else t

/-! ### Fields (R7, R8, R40 to R42) -/

/-- R8, R40: the L fields that the block uses from its boundary on, and reads through `State.use`. The others' boundaries
are a frame, a cell, a sample or an evaluation that no command marks: those act at the write (assumption 55). -/
def heldRows : List Row :=
  [.PMU_CTL_USER_EN, .PMU_CNT_CFG_USER, .TXW_SHAPE_CLIP, .RXW_FOM_CFG_AVG, .OPT_RX_LOS_LOS_TH, .OPT_RX_LOS_HYST,
   .CNV_PARK_EN, .CNV_PARK_SLICE, .FEC_INJ_EN, .FEC_INJ_EXP, .SEC_SES_CFG_EN, .SEC_SES_CFG_PEER_CHK,
   .CIP_CH_CFG_URGENT, .ELC_CTL_MODE, .ELC_CTL_H_IDX, .ELC_CTL_FEC, .FEC_CFG_ITER_MAX, .FEC_CFG_EARLY_STOP,
   .RXW_SP2_CTL_MODE, .RXW_SP2_CTL_ON_TH, .RXW_SP2_CTL_OFF_TH, .PMU_CNT_CFG_EN, .PMU_TAG_CFG_EN, .PMU_TAG_CFG_SCOPE,
   .PMU_TAG_CFG_K, .PMU_TAG_CFG_TARGET, .PMU_TAG_CFG_DIR, .PMU_TAG_CFG_CLASS_MASK, .PMU_TAG_CFG_NOTIFY,
   .PMU_HIST_CFG_EN, .PMU_HIST_CFG_LOG2, .PMU_HIST_CFG_FROM, .PMU_HIST_CFG_TO, .PMU_HIST_CFG_SHIFT, .PMU_HIST_CFG_BASE]

/-- The fields that the register's own operation writes. -/
def ownRows : List Row :=
  [.OPT_TX_FREQ_CH, .OPT_TX_FREQ_FINE, .OPT_LO_FREQ_CH, .OPT_LO_FREQ_FINE, .OPT_TX_CTL_ENABLE, .OPT_TX_CTL_RAMP_MS,
   .OPT_TX_CTL_POWER, .GLB_BLK_CTL_STOP, .PWR_STATE_CTL_TARGET, .PWR_STATE_CTL_WING_A, .PWR_STATE_CTL_WING_B,
   .SCH_GCL_CYCLE_CYCLE, .SCH_GCL_BASE_LO_BASE, .SCH_GCL_BASE_HI_BASE]

/-- R40: an L field is written; in a stopped block it takes effect at once. -/
def State.writeLive (s : State) (r : Row) (ix : List Nat) (v : Nat) : State :=
  if r.among ownRows then s
  else if s.regionStopped (r.addr ix / 0x10000) then (s.releaseOne r ix).wr r ix v
  else (s.when (r.among heldRows) (·.keepUse r ix)).wr r ix v

/-- R7: one field of a written register; `writable` says that its F fields may be written. -/
def State.writeField (s : State) (writable : Bool) (word : Nat) (e : Row × List Nat) : State :=
  let r := e.1
  let raw := bitsAt word r.lsb r.width
  match r.acc, r.cls with
  | .rw, .live => s.writeLive r e.2 (s.takes r e.2 word)
  | .rw, .frozen => s.when writable (·.wr r e.2 (s.takes r e.2 word))
  | .w1c, _ => s.wr r e.2 (clearMask (s.rd r e.2) raw)
  | .w1s, _ => s.wr r e.2 (s.rd r e.2 ||| raw)
  | _, _ => s.when (r.id == Row.SEC_KEY_DATA_BYTES.id) (·.wr r e.2 raw)

/-- R39, R42, R276, R330, R395, R419: the F fields of a register may be written, as it stands before the access. -/
def State.mayFreeze (s : State) (addr : Nat) : Bool :=
  let n := addr / 0x10000
  let off := addr % 0x10000
  s.regionStopped n || (match n with
    | 0x03 => !s.flag .HST_DMA_CTL_EN [(off - 0x1000) / 0x40]
    | 0x05 => !s.flag .PMU_CNT_CFG_EN [(off - 0x100) / 4]
    | 0x07 => !s.chanEnabled ((off - 0x100) / 4)
    | 0x0C => !s.flag .SDS_LANE_CTL_ENABLE [off / 0x100]
    | 0x0D => !s.flag .COR_LANE_CTL_ENABLE [(off - 0x8000) / 0x100]
    | _ => false)

/-- R42: the F value written differs from the present one. -/
def State.wouldChange (s : State) (word : Nat) (e : Row × List Nat) : Bool :=
  e.1.cls == .frozen && s.takes e.1 e.2 word != s.rd e.1 e.2

/-- A field that a write may set. -/
def Row.writable (r : Row) : Bool := r.acc != .ro && r.acc != .rc

/-- R42, R419: an F value of the write is dropped. In a register that holds only F fields every write is; elsewhere, and in
an engine's registers, one that would change a field. -/
def State.drops (s : State) (addr word : Nat) (fs : List (Row × List Nat)) : Bool :=
  let ws := fs.filter (fun e => e.1.writable)
  let pure := !ws.isEmpty && ws.all (fun e => e.1.cls == .frozen) && addr / 0x10000 != 0x03
  !s.mayFreeze addr && (pure || ws.any (s.wouldChange word))

/-- R41: the staged value of a register, from a written word. -/
def State.stagedWord (s : State) (word : Nat) (fs : List (Row × List Nat)) : Nat :=
  fs.foldl (fun v e => v + s.takes e.1 e.2 word * 2 ^ e.1.lsb) 0

/-- R148: DEC_CFG of a wing context, whose writes are ignored. -/
def State.wingDec (s : State) (addr : Nat) : Bool :=
  let src := s.ctxSource ((addr - 0xE0100) / 4)
  decide (0xE0100 ≤ addr) && decide (addr < 0xE0160) && (src == 0x3C || src == 0x3D)

/-- R41: a write of S fields is staged, a whole register at a time. -/
def State.stageWrite (s : State) (addr word : Nat) (fs : List (Row × List Nat)) : State :=
  let ss := fs.filter (fun e => e.1.cls == .shadowed)
  if ss.isEmpty || s.wingDec addr then s
  else { s with staged := tabInsert addr (s.stagedWord word ss) (tabErase s.staged addr) }

/-! ### What a register does when it is written -/

/-- R414: a known worker is reached on the present routes: the manager's port towards it is up. -/
def State.reaches (s : State) (a : Nat) : Bool :=
  if 0 < s.cor.place a then s.cor.ringPorts.any (fun p => s.flag .COR_PORT_STAT_UP [p])
  else match chainTo s.cor.nodes (s.cor.nodes.length + 1) a with
    | c :: _ => s.flag .COR_PORT_STAT_UP [((tabFind s.cor.nodes c).map (·.parentPort)).getD 0]
    | [] => false

/-- R364: HIER_CTL.GO. -/
def State.hierWrite (s : State) : State :=
  s.when (s.isManager && !s.flag .PWR_HIER_STAT_BUSY && !s.halted 5 && decide (s.rd .PWR_HIER_CTL_TARGET ≤ 4))
    (·.hierGo ((s.cor.nodes.map (·.1)).filter s.reaches))

/-- R357, R358: a write of STATE_CTL. -/
def State.stateCtl (s : State) (word : Nat) : State :=
  let a := min 2 (bitsAt word 0 2)
  let b := min 2 (bitsAt word 2 2)
  let s := ((s.wr .PWR_STATE_CTL_WING_A [] a).wr .PWR_STATE_CTL_WING_B [] b).targetWrite (bitsAt word 28 3)
  s.wingWrite a b

/-- Registers of PWR. -/
def State.pwrAct (s : State) (off word : Nat) : State :=
  if off = 0 then s.stateCtl word
  else if off = 0x300 then s.when (word.testBit 31) (·.hierWrite)
  else s

/-- Registers of REF. -/
def State.refAct (s : State) (off word : Nat) : State :=
  if off = 0x14 then s.when (word.testBit 0) (·.relearn)
  else if off = 0x90 then s.when (word.testBit 0) (·.onDpll (fun d => { d with stepDue := true }))
  else s

/-- R384, R385: PMU.CTL: of FREEZE and THAW in one access THAW is acted on. -/
def State.pmuCtl (s : State) (word : Nat) : State :=
  let s := s.when (word.testBit 27) (·.askClear)
  if word.testBit 30 then s.onPmu (fun p => { p with thawReq := true, freezeReq := false })
  else s.when (word.testBit 31) (·.onPmu (fun p => { p with freezeReq := true, thawReq := false }))

/-- R386: BAD_SRC follows the source of a counter. -/
def State.showBadSource (s : State) (n : Nat) : State :=
  s.wrb .PMU_CNT_CFG_BAD_SRC [n] (badSource (s.flag .PMU_CNT_CFG_MODE [n]) (s.rd .PMU_CNT_CFG_SOURCE [n]))

/-- Registers of PMU. -/
def State.pmuAct (s : State) (off word : Nat) : State :=
  if off = 0 then s.pmuCtl word
  else if 0x100 ≤ off && off < 0x200 then s.showBadSource ((off - 0x100) / 4)
  else if off = 0x610 then s.when (word.testBit 0) (·.popTag)
  else if off = 0x740 then s.askHistClear word
  else s

/-- R269, R274: a write of KEY_CMD. What LOAD_KEK finds in host memory, and whether its transfer succeeds, are free values
(assumption 4). -/
def State.keyCtl (s : State) (word : Nat) : State :=
  let slot := bitsAt word 0 9
  match bitsAt word 28 4 with
  | 1 => s.keyLoad slot
  | 2 => s.keyErase slot
  | 3 =>
    let ok := s.fresh 2
    let c := ok.2.fresh (2 ^ 12544)
    c.2.loadKek (if ok.1 = 1 then some (bytesMsb 1568 c.1) else none)
  | 4 => s.attest
  | 5 => s.report 5
  | 6 => s.report 6
  | _ => s

/-- R36: a write of IMG_CTL; whether SEC's refetch of an ACTIVATE succeeds is a free value (assumption 4). -/
def State.imgWrite (s : State) (op : Nat) : State :=
  if op = 2 then
    let f := s.fresh 2
    f.2.imgCtl op (f.1 == 1)
  else s.imgCtl op true

/-- R19: registers of SEC; a failed island carries nothing out. -/
def State.secAct (s : State) (off word : Nat) : State :=
  if !s.secRuns then s
  else if off = 0x10C then s.imgWrite (bitsAt word 0 4)
  else if off = 0x240 then s.keyCtl word
  else s

/-- R248: a write of PG_CMD. -/
def State.pgWrite (s : State) (g cmd : Nat) : State :=
  match cmd with
  | 1 => ((s.wr .HAL_PG_STAT_CMD_HELD [g] 0).wrb .HAL_PG_STAT_WTR_RUN [g] false).reselect g
  | 2 => s.pgCommand g 2 1
  | 3 => s.pgCommand g 3 3
  | 4 => s.pgCommand g 4 7
  | 5 => s.pgCommand g 5 7
  | _ => s

/-- Registers of HAL. -/
def State.halAct (s : State) (off word : Nat) : State :=
  s.when (decide (0x2000 ≤ off) && decide (off < 0x2200) && (off - 0x2000) % 0x40 == 8)
    (·.pgWrite ((off - 0x2000) / 0x40) (word % 8))

/-- R313: a write of GCL_BASE: one half of the staged base. -/
def State.baseWrite (s : State) (ch word : Nat) (high : Bool) : State :=
  let b := s.rdWide .SCH_GCL_BASE_LO_BASE .SCH_GCL_BASE_HI_BASE [ch]
  s.gateTiming ch none (some (if high then b % 2 ^ 32 + word * 2 ^ 32 else b / 2 ^ 32 * 2 ^ 32 + word))

/-- Registers of SCH. -/
def State.schAct (s : State) (off word : Nat) : State :=
  let ch := (off - 0x1000) / 0x40
  if off = 0x108 then s.storeEntry (bitsAt word 0 30)
  else if 0x1000 ≤ off && off < 0x2000 then
    match (off - 0x1000) % 0x40 with
    | 0x00 => s.when (word.testBit 30) (·.activateGates ch)
    | 0x08 => s.gateTiming ch (some (bitsAt word 0 30)) none
    | 0x0C => s.baseWrite ch word false
    | 0x10 => s.baseWrite ch word true
    | _ => s
  else s

/-- R282, R295, R306: a port's ENABLE has changed: its ingress queues are flushed, or start afresh. -/
def State.portEnable (s : State) (p : Nat) : State :=
  if s.flag .CLI_PORT_CFG_ENABLE [p] then s.enableInst (64 + p) else s.flushInst (64 + p)

/-- Registers of CLI; `old` is the state before the access. -/
def State.cliAct (s old : State) (off : Nat) : State :=
  let p := off / 0x200
  s.when (off % 0x200 == 0 && s.flag .CLI_PORT_CFG_ENABLE [p] != old.flag .CLI_PORT_CFG_ENABLE [p])
    (fun s => (s.portEnable p).refreshLink p)

/-- R325, R327: LANE_CTL of a lane. -/
def State.laneAct (s : State) (cor : Bool) (off word : Nat) : State :=
  s.when (off % 0x100 == 0) (fun s =>
    (s.applyLane cor (off / 0x100)).when (word.testBit 20) (·.restartLane cor (off / 0x100)))

/-- Registers of COR. -/
def State.corAct (s : State) (off word : Nat) : State :=
  if off = 0 then s.when (word.testBit 30 && s.isManager && s.corRuns) (·.beginEnum)
  else s.when (decide (0x8000 ≤ off) && decide (off < 0x9000)) (·.laneAct true (off - 0x8000) word)

/-- Registers of SUP. -/
def State.supAct (s : State) (off word : Nat) : State :=
  if off = 0x70 then s.when (word.testBit 0) (·.trigger 5)
  else if off = 0x1F0 then s.decReset (word % 2 ^ 24)
  else if off = 0x80 then s.when (word.testBit 30) (·.startCal)
  else s

/-- Registers of ICM. -/
def State.icmAct (s : State) (off word : Nat) : State :=
  let w := Wing.num (off / 0x1000)
  if off % 0x1000 = 0x130 then s.when (word.testBit 31) (·.sendUser w)
  else if off % 0x1000 = 0x170 then s.when (word.testBit 31) (·.popUser w)
  else s

/-- R56, R190: the counts and the map of an announcement in force are computed anew for a new M. -/
def State.redoAnn (s : State) (w : Wing) : State :=
  match (s.tx.get w).now with
  | some x =>
    if s.flag .TXW_LINE_NEXT_ANN_VALID [w.n] then
      let r := s.countsFor w x.h x.fec (s.tx.get w).annEnabled
      let m := s.mapFor w x.h x.fec r.1
      let s := (s.wr .TXW_LINE_NEXT_SLOTS [w.n] r.1.sum).showCounts w (s.curCounts w) r.1
      (s.onTx w (fun t => { t with annMap := m, annCounts := r.1 })).when r.2 (·.evt .ELC_EVT_MIN_BREACH [w.n])
    else s
  | none => s

/-- R80: a new transmit symbol rate: the synthesiser relocks, DAC calibration follows, and the slots and maps of the present
pair and of an announced one are computed anew. -/
def State.txRate (s : State) (w : Wing) : State :=
  let s := (s.unlockDac w).startDac w
  let p := s.curPair w
  let en := (s.tx.get w).enabled
  let r := s.countsFor w p.1 p.2 en
  let s := (s.switchTx w p.1 p.2 en (s.mapFor w p.1 p.2 r.1) r.1).when r.2 (·.evt .ELC_EVT_MIN_BREACH [w.n])
  (s.redoAnn w).icmRefresh w

/-- R97, R101, R205: a new receive symbol rate. -/
def State.rxRate (s : State) (w : Wing) : State := (((s.unlockAdc w).showReach w).showBaudDiff w).icmRefresh w

/-- Registers of OPT. -/
def State.optAct (s : State) (w : Wing) (off word : Nat) : State :=
  match off with
  | 0x00 => s.txFreq w (toSigned 13 (bitsAt word 16 13)) (toSigned 12 (bitsAt word 0 12))
  | 0x04 => s.loFreq w (toSigned 13 (bitsAt word 16 13)) (toSigned 12 (bitsAt word 0 12))
  | 0x10 => s.txCtl w (word.testBit 31) (bitsAt word 16 9) (toSigned 12 (bitsAt word 0 12))
  | _ => s

/-- Registers of RXW. -/
def State.rxwAct (s old : State) (w : Wing) (off word : Nat) : State :=
  if off = 0x000 then s.when (word.testBit 0) (·.reacquire w (word.testBit 1))
  else if off = 0x010 then s.when (s.rd .RXW_RATE_BAUD [w.n] != old.rd .RXW_RATE_BAUD [w.n]) (·.rxRate w)
  else if off = 0x600 then s.when (s.wingStopped w) (·.sp2Mode w)
  else s

/-- Registers of CNV. -/
def State.cnvAct (s : State) (w : Wing) (off word : Nat) : State :=
  if off = 0x10 then s.when (word.testBit 30) (·.restartWrite w)
  else if 0x30 ≤ off && off < 0x40 then s.parkRow w ((off - 0x30) / 4)
  else if off = 0x60 then s.when (word.testBit 0) (·.dacWrite w)
  else s

/-- R187, R189, R192: ELC.CTL. -/
def State.elcCtl (s : State) (w : Wing) (word : Nat) : State :=
  ((s.when (word.testBit 29) (·.go w)).when (word.testBit 28) (·.resumeHeld w)).when (word.testBit 27) (·.forceFloor w)

/-- Registers of a wing's regions; `n` is the region's number within wing A. -/
def State.wingAct (s old : State) (w : Wing) (n off word : Nat) : State :=
  match n with
  | 0x10 => s.when (off == 0x10 && s.rd .TXW_RATE_BAUD [w.n] != old.rd .TXW_RATE_BAUD [w.n]) (·.txRate w)
  | 0x11 => s.rxwAct old w off word
  | 0x12 => s.cnvAct w off word
  | 0x15 => s.when (off == 0x0C) (·.elcCtl w word)
  | 0x16 => s.optAct w off word
  | _ => s

/-- Registers of RAS. -/
def State.rasAct (s : State) (off word : Nat) : State :=
  if off = 0x04 then s.when (word.testBit 31) (·.clearFault)
  else if off = 0x0C then s.when (word.testBit 31) (·.recover)
  else if off = 0x10 then s.when (word.testBit 31) (·.armInjection)
  else s

/-- Registers of GLB. -/
def State.glbAct (s : State) (off word : Nat) : State :=
  if off = 0x40 then s.when (word.testBit 31) (·.clearReject)
  else if 0x100 ≤ off && off < 0x120 then
    let n := (off - 0x100) / 4
    if word.testBit 0 then s.stopBlock n else s.runBlock n
  else s

/-- R7: the register acts on the word written; `old` is the state before the access. -/
def State.act (s old : State) (req : Req) (addr word : Nat) : State :=
  let n := addr / 0x10000
  let off := addr % 0x10000
  if off = 0xFFF0 then s.commitWrite n (word.testBit 31) (word.testBit 30)
  else match n with
    | 0x00 => s.glbAct off word
    | 0x01 => s.pwrAct off word
    | 0x02 => s.refAct off word
    | 0x04 => s.when (off == 0x0C) (·.clearStep req.n (bitsAt word 24 8))
    | 0x05 => s.pmuAct off word
    | 0x06 => s.secAct off word
    | 0x07 => s.when (decide (0x200 ≤ off) && decide (off < 0x300) && word.testBit 0) (·.roll ((off - 0x200) / 4))
    | 0x08 => s.halAct off word
    | 0x0A => s.schAct off word
    | 0x0B => s.cliAct old off
    | 0x0C => s.when (decide (off < 0x2000)) (·.laneAct false off word)
    | 0x0D => s.corAct off word
    | 0x0E => s.supAct off word
    | 0x0F => s.icmAct off word
    | 0x30 => s.rasAct off word
    | _ => s.wingAct old (if n < 0x20 then .a else .b) (wingRegion n) off word

/-! ### A write of one word -/

/-- R405: a write of the MSI-X table: word 3 of an entry masks its vector with bit 0; the pending bit array is read-only. -/
def State.msixWrite (s : State) (addr word : Nat) : State :=
  let k := (addr - 0x38000) / 4
  if 0x39000 ≤ addr then s
  else if h : k % 4 = 3 ∧ k / 4 < 64 then s.msixControl (.vector ⟨k / 4, h.2⟩ (word.testBit 0))
  else s.onHost (fun h => { h with table := tabSet 0 h.table k word })

/-- R7, R40 to R43: the fields of a register are written, its S fields staged, a dropped F value recorded, and the register
acts. A register whose every field is hidden ignores the write. -/
def State.writeWord (s : State) (req : Req) (addr word : Nat) : State :=
  let fs := (rowsAt addr).filter (fun e => !s.hidden e.1 e.2)
  if fs.isEmpty then s
  else
    let open_ := s.mayFreeze addr
    let t := (fs.foldl (fun t e => t.writeField open_ word e) s).stageWrite addr word fs
    (t.when (s.drops addr word fs) (·.reject addr)).act s req addr word

/-- R402: a write of one word by a requester. -/
def State.regWrite (s : State) (req : Req) (addr word : Nat) : State :=
  let word := word % 2 ^ 32
  if !s.assigned addr then s.unmapped
  else
    let s := s.reachIsland req addr
    if isMsix addr then s.msixWrite addr word else s.writeWord req addr word

/-- R40: REGISTER_WRITE. -/
def execRegisterWrite (req : Req) (addr word : Nat) (s : State) : Result :=
  let s := s.begin
  .next (s.when (s.takesFrom req) (·.regWrite req addr word))

/-- R402: UNMAPPED_ACCESS: of an offset that no register has, or of a region that does not respond yet. -/
def execUnmappedAccess (req : Req) (addr : Nat) (isWrite : Bool) (s : State) : Result :=
  let s := s.begin
  .next (if !s.takesFrom req || s.assigned addr then s
    else if isWrite then s.unmapped else s.unmapped.say (.data req addr 0))

end Sys2Proof.Machine
end

