-- ==== Sys2Proof/Machine/Access.lean ====
section
/-!
DEFINITION. Accesses that arrive over the corridor (R411, R415, R417).
-/

namespace Sys2Proof.Machine

/-- R360, R415: the access would stall for wake on access. -/
def State.stalls (s : State) (addr : Nat) : Bool :=
  s.isRunning && s.assigned addr && !s.clocked (s.islandOf addr)

/-- R415: a worker whose target island stalls says so before the access completes. -/
def State.sendStall (s : State) (id addr port : Nat) : State := s.when (s.stalls addr) (·.sayCell port 0 (.stall id))

/-- R417: a worker performs accesses that arrive over the corridor. -/
def State.serves (s : State) : Bool := !s.isManager && s.corRuns

/-- R414, R417: a worker performs a read and returns its result on the port on which the request arrived. -/
def State.corRead (s : State) (id addr port : Nat) : State :=
  let r := (s.sendStall id addr port).regRead .corridor addr
  r.2.sayCell port 0 (.readCpl id r.1)

/-- R417: COR_READ_RX. -/
def execCorReadRx (id addr : Nat) (port : Fin 4) (s : State) : Result :=
  let s := s.begin
  .next (s.when s.serves (·.corRead id addr port))

/-- R414, R417: a worker performs a write and acknowledges it on the port on which the request arrived. -/
def State.corWrite (s : State) (id addr word port : Nat) : State :=
  ((s.sendStall id addr port).regWrite .corridor addr word).sayCell port 0 (.writeAck id)

/-- R417: COR_WRITE_RX. -/
def execCorWriteRx (id addr word : Nat) (port : Fin 4) (s : State) : Result :=
  let s := s.begin
  .next (s.when s.serves (·.corWrite id addr word port))

end Sys2Proof.Machine
end

