-- ==== Sys2Proof/Machine/Monitor.lean ====
section
/-!
DEFINITION. The Ilulo monitor (R421). A printed answer is recorded as the numbers that it prints.
-/

namespace Sys2Proof.Machine

/-- R421: the MODULE section enables the monitor; with ROM defaults it is enabled. -/
def State.monEnabled (s : State) : Bool :=
  match s.image.running with
  | some i => i.modul.monitor
  | none => true

/-- R421: the UART's baud rate, at 8 data bits, no parity and 1 stop bit. -/
def State.uartBaud (s : State) : Nat :=
  match s.image.running with
  | some i => if i.modul.slowUart then 115200 else 921600
  | none => 921600

/-- R421: the prompt and the end of a line. -/
def monPrompt : String := "ilulo> "

/-- R421: the end of a line, CR and LF. -/
def monLineEnd : List Nat := [0x0D, 0x0A]

/-- R378, R421: the monitor takes commands: in Run, Idle and Sleep, while the control core runs and the monitor is
enabled. -/
def State.monUp (s : State) : Bool := s.takesFrom .monitor && s.monEnabled && s.coreRuns

/-- R421: print numbers. -/
def State.print (s : State) (ws : List Nat) : State := s.say (.monitor ws)

/-- R421: "ERR" and a one-digit code, a free value (assumption 4). -/
def State.printErr (s : State) : State :=
  let f := s.fresh 10
  f.2.say (.monitorErr f.1)

/-- R421: a command runs when the monitor takes it. -/
def State.monitored (s : State) (f : State → State) : State := s.when s.monUp f

/-- R383, R402, R421: `n` words are read from an offset on, each as an access of the monitor. -/
def State.peek (s : State) (addr : Nat) : Nat → List Nat × State
  | 0 => ([], s)
  | n + 1 =>
    let r := s.regRead .monitor addr
    let rest := r.2.peek (addr + 4) n
    (r.1 :: rest.1, rest.2)

/-- R421: peek of 1 to 64 words; any other number is an unknown argument. -/
def State.monPeek (s : State) (addr n : Nat) : State :=
  if n = 0 || 64 < n then s.printErr
  else
    let r := s.peek addr n
    r.2.print r.1

/-- R421: MON_PEEK. -/
def execMonPeek (addr n : Nat) (s : State) : Result := .next (s.begin.monitored (·.monPeek addr n))

/-- R42, R421: MON_POKE: one word is written under its change class. -/
def execMonPoke (addr word : Nat) (s : State) : Result :=
  .next (s.begin.monitored (fun s => (s.regWrite .monitor addr word).print []))

/-- R391: the eight words of a record. -/
def Rec.words (r : Rec) : List Nat := (List.range 8).map r.word

/-- R421: `n` records from an index on; after 4,095 follows 0. The cursor does not move. -/
def State.monRecords (s : State) (index n : Nat) : List Nat :=
  ((List.range n).map (fun k => (s.recAt ((index + k) % 4096)).words)).flatten

/-- R421: attic, of 1 to 64 records. -/
def State.monAttic (s : State) (index n : Nat) : State :=
  if n = 0 || 64 < n || 4095 < index then s.printErr else s.print (s.monRecords index n)

/-- R421: MON_ATTIC. -/
def execMonAttic (index n : Nat) (s : State) : Result := .next (s.begin.monitored (·.monAttic index n))

/-- R421: MON_STATE: STATE_STAT, WAKE_REC and LAST_REFUSE. -/
def execMonState (s : State) : Result :=
  .next (s.begin.monitored (fun s => s.print [s.word 0x10004, s.word 0x10200, s.word 0x10030]))

/-- R421: one island: clocked, failed, REFUSE_CNT. -/
def State.islandLine (s : State) (i : Nat) : List Nat :=
  [bitNat (s.clocked i), bitNat (s.islandFailed i), s.word (0x10100 + 4 * i)]

/-- R421: MON_ISLANDS. -/
def execMonIslands (s : State) : Result :=
  .next (s.begin.monitored (fun s => s.print ((List.range 25).map s.islandLine).flatten))

/-- R28: an entry of the section table, without its hash. -/
def secLine (e : SecEntry) : List Nat := [e.ty, e.flags, e.offset, e.length]

/-- R421: the running image's section table; without an image there is none. -/
def State.sectionTable (s : State) : List Nat :=
  match s.image.running with
  | some i => (i.entries.map secLine).flatten
  | none => []

/-- R421: MON_FP: FP_INFO, FP_HASH and the section table. -/
def execMonFp (s : State) : Result :=
  .next (s.begin.monitored (fun s =>
    s.print (s.word 0x10 :: (List.range 8).map (fun n => s.word (0x20 + 4 * n)) ++ s.sectionTable)))

/-- R421: one lane: STAGE, FOM, FAIL_REASON. -/
def State.laneLine (s : State) (cor : Bool) (l : Nat) : List Nat :=
  [s.rd (laneRow cor .SDS_LANE_STAT_STAGE .COR_LANE_STAT_STAGE) [l],
   s.rd (laneRow cor .SDS_LANE_FOM_FOM .COR_LANE_FOM_FOM) [l],
   s.rd (laneRow cor .SDS_LANE_STAT_FAIL_REASON .COR_LANE_STAT_FAIL_REASON) [l]]

/-- R421: every lane of a family. -/
def State.laneLines (s : State) (cor : Bool) : List Nat := ((List.range (laneCount cor)).map (s.laneLine cor)).flatten

/-- R421: MON_LANES: client, corridor, or without an argument both. -/
def execMonLanes (client : Option Bool) (s : State) : Result :=
  .next (s.begin.monitored (fun s => s.print (match client with
    | some c => s.laneLines (!c)
    | none => s.laneLines false ++ s.laneLines true)))

/-- R421: MON_WING: RX_STAT, LINE_CUR of both directions, FOM_MARGIN and HS_STAT. -/
def execMonWing (w : Wing) (s : State) : Result :=
  let b := 0x100000 * w.n
  .next (s.begin.monitored (fun s =>
    s.print [s.word (b + 0x110004), s.word (b + 0x100C00), s.word (b + 0x110C00), s.word (b + 0x110820),
      s.word (b + 0x150010)]))

/-- R421: MON_REF: REF.STAT and each CAND_STAT. -/
def execMonRef (s : State) : Result :=
  .next (s.begin.monitored (fun s => s.print (s.word 0x20004 :: (List.range 8).map (fun i => s.word (0x20140 + 4 * i)))))

/-- R421: the commands. -/
def monCommands : List String :=
  ["peek ADDR [N]", "poke ADDR VALUE", "attic [INDEX [N]]", "state", "islands", "fp", "lanes [client|corridor]", "wing A|B",
   "ref", "help"]

/-- R421: MON_HELP: the commands are listed. -/
def execMonHelp (s : State) : Result := .next (s.begin.monitored (·.say (.monitorLines monCommands)))

/-- R421: MON_UNKNOWN. -/
def execMonUnknown (s : State) : Result := .next (s.begin.monitored State.printErr)

end Sys2Proof.Machine
end

