-- ==== Sys2Proof/Machine/Dispatch.lean ====
section
/-!
DEFINITION. The dispatch: one arm per command, one direct call of its meaning.
-/

namespace Sys2Proof.Machine

def exec (i : Instr) (s : State) : Host.Outcome State Fault Refusal :=
  match i with
  | .registerWrite req addr word => Sys2Proof.Machine.execRegisterWrite req addr word s
  | .rcRead req addr => Sys2Proof.Machine.execRcRead req addr s
  | .wrRejectClear req => Sys2Proof.Machine.execWrRejectClear req s
  | .apply req region => Sys2Proof.Machine.execApply req region s
  | .discard req region alsoApply => Sys2Proof.Machine.execDiscard req region alsoApply s
  | .pendingSetApply region inst => Sys2Proof.Machine.execPendingSetApply region inst s
  | .blockStop req n => Sys2Proof.Machine.execBlockStop req n s
  | .blockRun req n => Sys2Proof.Machine.execBlockRun req n s
  | .blockStopComplete n => Sys2Proof.Machine.execBlockStopComplete n s
  | .loadVerify req => Sys2Proof.Machine.execLoadVerify req s
  | .loadVerifyDone img => Sys2Proof.Machine.execLoadVerifyDone img s
  | .activate req refetchOk => Sys2Proof.Machine.execActivate req refetchOk s
  | .program req => Sys2Proof.Machine.execProgram req s
  | .programDone => Sys2Proof.Machine.execProgramDone s
  | .confirm req => Sys2Proof.Machine.execConfirm req s
  | .advanceSvn req => Sys2Proof.Machine.execAdvanceSvn req s
  | .abort req => Sys2Proof.Machine.execAbort req s
  | .superframeBoundaryTx w n => Sys2Proof.Machine.execSuperframeBoundaryTx w n s
  | .carrierFrameRx w pos corr hdr adc => Sys2Proof.Machine.execCarrierFrameRx w pos corr hdr adc s
  | .cfAlignLoss w => Sys2Proof.Machine.execCfAlignLoss w s
  | .hdrLossSet w => Sys2Proof.Machine.execHdrLossSet w s
  | .hdrLossClear w => Sys2Proof.Machine.execHdrLossClear w s
  | .superframeBoundaryRx w m => Sys2Proof.Machine.execSuperframeBoundaryRx w m s
  | .chanEnableWrite req w n on => Sys2Proof.Machine.execChanEnableWrite req w n on s
  | .txFreqWrite req w ch fine => Sys2Proof.Machine.execTxFreqWrite req w ch fine s
  | .loFreqWrite req w ch fine => Sys2Proof.Machine.execLoFreqWrite req w ch fine s
  | .txLaserLock w => Sys2Proof.Machine.execTxLaserLock w s
  | .txTuneTimeout w => Sys2Proof.Machine.execTxTuneTimeout w s
  | .loTuneDone w => Sys2Proof.Machine.execLoTuneDone w s
  | .loTuneFail w => Sys2Proof.Machine.execLoTuneFail w s
  | .txCtlWrite req w enable rampMs power => Sys2Proof.Machine.execTxCtlWrite req w enable rampMs power s
  | .rampUpdate w => Sys2Proof.Machine.execRampUpdate w s
  | .powerLoopUpdate w => Sys2Proof.Machine.execPowerLoopUpdate w s
  | .txDisAssert w => Sys2Proof.Machine.execTxDisAssert w s
  | .txDisDeassert w onTarget => Sys2Proof.Machine.execTxDisDeassert w onTarget s
  | .losAssert w power => Sys2Proof.Machine.execLosAssert w power s
  | .losClear w power => Sys2Proof.Machine.execLosClear w power s
  | .acqStart w => Sys2Proof.Machine.execAcqStart w s
  | .acqStepComplete w m => Sys2Proof.Machine.execAcqStepComplete w m s
  | .acqFail w reason => Sys2Proof.Machine.execAcqFail w reason s
  | .acqRetry w => Sys2Proof.Machine.execAcqRetry w s
  | .reacq req w warm => Sys2Proof.Machine.execReacq req w warm s
  | .cdTrackMove w residual => Sys2Proof.Machine.execCdTrackMove w residual s
  | .eqReconv w => Sys2Proof.Machine.execEqReconv w s
  | .sp2AutoOn w => Sys2Proof.Machine.execSp2AutoOn w s
  | .sp2AutoOff w => Sys2Proof.Machine.execSp2AutoOff w s
  | .sp2Start w => Sys2Proof.Machine.execSp2Start w s
  | .sp2Stop w => Sys2Proof.Machine.execSp2Stop w s
  | .sp2DrainDone w => Sys2Proof.Machine.execSp2DrainDone w s
  | .fomWindowEnd w => Sys2Proof.Machine.execFomWindowEnd w s
  | .synthLock w adc => Sys2Proof.Machine.execSynthLock w adc s
  | .fgCalComplete w trims => Sys2Proof.Machine.execFgCalComplete w trims s
  | .calRestart req w => Sys2Proof.Machine.execCalRestart req w s
  | .spareCalComplete w d found => Sys2Proof.Machine.execSpareCalComplete w d found s
  | .sliceHandover w d => Sys2Proof.Machine.execSliceHandover w d s
  | .dwellExpiry w d => Sys2Proof.Machine.execDwellExpiry w d s
  | .dacCalStart req w => Sys2Proof.Machine.execDacCalStart req w s
  | .dacCalComplete w trims => Sys2Proof.Machine.execDacCalComplete w trims s
  | .supConversion code => Sys2Proof.Machine.execSupConversion code s
  | .injTrigger src => Sys2Proof.Machine.execInjTrigger src s
  | .injGo req => Sys2Proof.Machine.execInjGo req s
  | .decRound m => Sys2Proof.Machine.execDecRound m s
  | .decReset req mask => Sys2Proof.Machine.execDecReset req mask s
  | .supCalStart req => Sys2Proof.Machine.execSupCalStart req s
  | .supCalAuto => Sys2Proof.Machine.execSupCalAuto s
  | .supCalDone => Sys2Proof.Machine.execSupCalDone s
  | .fecBlockDecode w b => Sys2Proof.Machine.execFecBlockDecode w b s
  | .fecLock w => Sys2Proof.Machine.execFecLock w s
  | .fecLockLoss w => Sys2Proof.Machine.execFecLockLoss w s
  | .dfecSfChange w => Sys2Proof.Machine.execDfecSfChange w s
  | .dfecSdWindow w => Sys2Proof.Machine.execDfecSdWindow w s
  | .advStale w => Sys2Proof.Machine.execAdvStale w s
  | .announceStart w => Sys2Proof.Machine.execAnnounceStart w s
  | .annCommitPoint w => Sys2Proof.Machine.execAnnCommitPoint w s
  | .rateSwitch w => Sys2Proof.Machine.execRateSwitch w s
  | .announceRetry w => Sys2Proof.Machine.execAnnounceRetry w s
  | .rxRateSwitch w => Sys2Proof.Machine.execRxRateSwitch w s
  | .mismatchDeclare w => Sys2Proof.Machine.execMismatchDeclare w s
  | .fallback w => Sys2Proof.Machine.execFallback w s
  | .policyResume w => Sys2Proof.Machine.execPolicyResume w s
  | .icmAnnounceStart w => Sys2Proof.Machine.execIcmAnnounceStart w s
  | .icmAnnounceResend w => Sys2Proof.Machine.execIcmAnnounceResend w s
  | .icmHandshakeFail w => Sys2Proof.Machine.execIcmHandshakeFail w s
  | .enableChangeRetry w => Sys2Proof.Machine.execEnableChangeRetry w s
  | .go req w => Sys2Proof.Machine.execGo req w s
  | .resume req w => Sys2Proof.Machine.execResume req w s
  | .forceFloor req w => Sys2Proof.Machine.execForceFloor req w s
  | .elcModeSet req w mode => Sys2Proof.Machine.execElcModeSet req w mode s
  | .icmBurstStart w => Sys2Proof.Machine.execIcmBurstStart w s
  | .icmBurstEnd w => Sys2Proof.Machine.execIcmBurstEnd w s
  | .icmAdviceRepeat w => Sys2Proof.Machine.execIcmAdviceRepeat w s
  | .icmBringupTimer w => Sys2Proof.Machine.execIcmBringupTimer w s
  | .icmTagTimer w => Sys2Proof.Machine.execIcmTagTimer w s
  | .icmAlarmRepeat w => Sys2Proof.Machine.execIcmAlarmRepeat w s
  | .icmPreambleDetect w peaks => Sys2Proof.Machine.execIcmPreambleDetect w peaks s
  | .icmFrameAbandon w rx => Sys2Proof.Machine.execIcmFrameAbandon w rx s
  | .icmCapture w peaks chirps => Sys2Proof.Machine.execIcmCapture w peaks chirps s
  | .icmAdviceRx w rx => Sys2Proof.Machine.execIcmAdviceRx w rx s
  | .icmAnnounceRx w rx => Sys2Proof.Machine.execIcmAnnounceRx w rx s
  | .icmAckRx w rx => Sys2Proof.Machine.execIcmAckRx w rx s
  | .icmBringupRx w rx => Sys2Proof.Machine.execIcmBringupRx w rx s
  | .icmTagRx w rx => Sys2Proof.Machine.execIcmTagRx w rx s
  | .icmAlarmRx w rx => Sys2Proof.Machine.execIcmAlarmRx w rx s
  | .icmUserRx w rx => Sys2Proof.Machine.execIcmUserRx w rx s
  | .farAlarmTimeout w => Sys2Proof.Machine.execFarAlarmTimeout w s
  | .userSend req w => Sys2Proof.Machine.execUserSend req w s
  | .userPop req w => Sys2Proof.Machine.execUserPop req w s
  | .otnFrameTx w => Sys2Proof.Machine.execOtnFrameTx w s
  | .fasSearchMatch w => Sys2Proof.Machine.execFasSearchMatch w s
  | .otnFrameRx w => Sys2Proof.Machine.execOtnFrameRx w s
  | .oofDeclare w => Sys2Proof.Machine.execOofDeclare w s
  | .oomDeclare w => Sys2Proof.Machine.execOomDeclare w s
  | .defectChange w d ch => Sys2Proof.Machine.execDefectChange w d ch s
  | .degEval w second => Sys2Proof.Machine.execDegEval w second s
  | .failureDeclare w d ch => Sys2Proof.Machine.execFailureDeclare w d ch s
  | .failureClear w d ch => Sys2Proof.Machine.execFailureClear w d ch s
  | .apsAccept w ch => Sys2Proof.Machine.execApsAccept w ch s
  | .gcc0MsgRx w => Sys2Proof.Machine.execGcc0MsgRx w s
  | .pgConditionChange g m => Sys2Proof.Machine.execPgConditionChange g m s
  | .holdoffExpiry g m => Sys2Proof.Machine.execHoldoffExpiry g m s
  | .wtrExpiry g => Sys2Proof.Machine.execWtrExpiry g s
  | .pgClear req g => Sys2Proof.Machine.execPgClear req g s
  | .pgLockout req g => Sys2Proof.Machine.execPgLockout req g s
  | .pgForce req g => Sys2Proof.Machine.execPgForce req g s
  | .pgManualP req g => Sys2Proof.Machine.execPgManualP req g s
  | .pgManualW req g => Sys2Proof.Machine.execPgManualW req g s
  | .fopRaise g => Sys2Proof.Machine.execFopRaise g s
  | .fopClear g => Sys2Proof.Machine.execFopClear g s
  | .segmentTxStart ch => Sys2Proof.Machine.execSegmentTxStart ch s
  | .segmentRx ch seg => Sys2Proof.Machine.execSegmentRx ch seg s
  | .segLockLoss ch => Sys2Proof.Machine.execSegLockLoss ch s
  | .roll req ch => Sys2Proof.Machine.execRoll req ch s
  | .pipelineRunEnd p => Sys2Proof.Machine.execPipelineRunEnd p s
  | .preempt left => Sys2Proof.Machine.execPreempt left s
  | .keyLoad req slot => Sys2Proof.Machine.execKeyLoad req slot s
  | .keyErase req slot => Sys2Proof.Machine.execKeyErase req slot s
  | .loadKek req fetched => Sys2Proof.Machine.execLoadKek req fetched s
  | .attest req => Sys2Proof.Machine.execAttest req s
  | .getCert req => Sys2Proof.Machine.execGetCert req s
  | .getKekPub req => Sys2Proof.Machine.execGetKekPub req s
  | .retirementComplete slot => Sys2Proof.Machine.execRetirementComplete slot s
  | .keInitSend w => Sys2Proof.Machine.execKeInitSend w s
  | .sessionLifeExpiry w => Sys2Proof.Machine.execSessionLifeExpiry w s
  | .keInitRx w session m => Sys2Proof.Machine.execKeInitRx w session m s
  | .keRespRx w m => Sys2Proof.Machine.execKeRespRx w m s
  | .keFinRx w mac => Sys2Proof.Machine.execKeFinRx w mac s
  | .keAbort w => Sys2Proof.Machine.execKeAbort w s
  | .sessionRetry w => Sys2Proof.Machine.execSessionRetry w s
  | .keyReadyRx w ch session gen => Sys2Proof.Machine.execKeyReadyRx w ch session gen s
  | .clientFrameRx port f macControl => Sys2Proof.Machine.execClientFrameRx port f macControl s
  | .pfcFrameTx port => Sys2Proof.Machine.execPfcFrameTx port s
  | .pfcXoffRepeat port cls => Sys2Proof.Machine.execPfcXoffRepeat port cls s
  | .pfcRx port len fcsOk vector times => Sys2Proof.Machine.execPfcRx port len fcsOk vector times s
  | .pfcPauseExpiry port cls => Sys2Proof.Machine.execPfcPauseExpiry port cls s
  | .esmcRx port len fcsOk ql => Sys2Proof.Machine.execEsmcRx port len fcsOk ql s
  | .esmcTx event => Sys2Proof.Machine.execEsmcTx event s
  | .portLinkChange port pcsAligned lf rf => Sys2Proof.Machine.execPortLinkChange port pcsAligned lf rf s
  | .lineFrameDemap w ch f later cut first => Sys2Proof.Machine.execLineFrameDemap w ch f later cut first s
  | .tpgFrame => Sys2Proof.Machine.execTpgFrame s
  | .schedSelect inst line found => Sys2Proof.Machine.execSchedSelect inst line found s
  | .gclEntryStart ch => Sys2Proof.Machine.execGclEntryStart ch s
  | .gclActivate req ch => Sys2Proof.Machine.execGclActivate req ch s
  | .gclTimingWrite req ch cycle base => Sys2Proof.Machine.execGclTimingWrite req ch cycle base s
  | .gclSwap ch => Sys2Proof.Machine.execGclSwap ch s
  | .gclWivlWrite req ivl => Sys2Proof.Machine.execGclWivlWrite req ivl s
  | .laneSignalDetect cor l => Sys2Proof.Machine.execLaneSignalDetect cor l s
  | .laneStepComplete cor l r => Sys2Proof.Machine.execLaneStepComplete cor l r s
  | .laneFail cor l reason => Sys2Proof.Machine.execLaneFail cor l reason s
  | .laneRetry cor l => Sys2Proof.Machine.execLaneRetry cor l s
  | .laneRestart req cor l => Sys2Proof.Machine.execLaneRestart req cor l s
  | .laneDown cor l => Sys2Proof.Machine.execLaneDown cor l s
  | .fomMeasure cor l run => Sys2Proof.Machine.execFomMeasure cor l run s
  | .laneAdaptStart cor l => Sys2Proof.Machine.execLaneAdaptStart cor l s
  | .refSelect offsets => Sys2Proof.Machine.execRefSelect offsets s
  | .candQualify n offset => Sys2Proof.Machine.execCandQualify n offset s
  | .candDisqualify n offset => Sys2Proof.Machine.execCandDisqualify n offset s
  | .candWtrExpiry n => Sys2Proof.Machine.execCandWtrExpiry n s
  | .esmcTimeout n => Sys2Proof.Machine.execEsmcTimeout n s
  | .refLock => Sys2Proof.Machine.execRefLock s
  | .dpllFault => Sys2Proof.Machine.execDpllFault s
  | .dpllRelock => Sys2Proof.Machine.execDpllRelock s
  | .hoRelearn req => Sys2Proof.Machine.execHoRelearn req s
  | .mtUpdate => Sys2Proof.Machine.execMtUpdate s
  | .mtStep req => Sys2Proof.Machine.execMtStep req s
  | .oneSecondTick m => Sys2Proof.Machine.execOneSecondTick m s
  | .vinStart vin => Sys2Proof.Machine.execVinStart vin s
  | .powerLoss => Sys2Proof.Machine.execPowerLoss s
  | .vinWarnRise vin => Sys2Proof.Machine.execVinWarnRise vin s
  | .vinWarnClear vin => Sys2Proof.Machine.execVinWarnClear vin s
  | .stageAdmit => Sys2Proof.Machine.execStageAdmit s
  | .stateTargetWrite req target => Sys2Proof.Machine.execStateTargetWrite req target s
  | .wingStateWrite req wingA wingB => Sys2Proof.Machine.execWingStateWrite req wingA wingB s
  | .stateEntryDone => Sys2Proof.Machine.execStateEntryDone s
  | .stateEntryRefuse island reason => Sys2Proof.Machine.execStateEntryRefuse island reason s
  | .wakeOnAccess island stall => Sys2Proof.Machine.execWakeOnAccess island stall s
  | .woaLingerExpiry group => Sys2Proof.Machine.execWoaLingerExpiry group s
  | .wakeNAssert => Sys2Proof.Machine.execWakeNAssert s
  | .wakeTimerExpiry => Sys2Proof.Machine.execWakeTimerExpiry s
  | .watchCycle meanA meanB => Sys2Proof.Machine.execWatchCycle meanA meanB s
  | .modReset => Sys2Proof.Machine.execModReset s
  | .hierGo req reachable => Sys2Proof.Machine.execHierGo req reachable s
  | .hierForwardNext => Sys2Proof.Machine.execHierForwardNext s
  | .thermalTrip => Sys2Proof.Machine.execThermalTrip s
  | .descAuditDone => Sys2Proof.Machine.execDescAuditDone s
  | .scrubRead line found => Sys2Proof.Machine.execScrubRead line found s
  | .parityMismatch island => Sys2Proof.Machine.execParityMismatch island s
  | .clockLoss island => Sys2Proof.Machine.execClockLoss island s
  | .slowClkLoss => Sys2Proof.Machine.execSlowClkLoss s
  | .doorwayTimeout sender receiver => Sys2Proof.Machine.execDoorwayTimeout sender receiver s
  | .lockstepMiscompare => Sys2Proof.Machine.execLockstepMiscompare s
  | .coreRestartDone => Sys2Proof.Machine.execCoreRestartDone s
  | .recover req => Sys2Proof.Machine.execRecover req s
  | .eccInjectArm req => Sys2Proof.Machine.execEccInjectArm req s
  | .faultClear req => Sys2Proof.Machine.execFaultClear req s
  | .freeze req => Sys2Proof.Machine.execFreeze req s
  | .thaw req => Sys2Proof.Machine.execThaw req s
  | .clearAll req => Sys2Proof.Machine.execClearAll req s
  | .loHalfRead req addr => Sys2Proof.Machine.execLoHalfRead req addr s
  | .userPageAccess offset isWrite => Sys2Proof.Machine.execUserPageAccess offset isWrite s
  | .tagWinRead req => Sys2Proof.Machine.execTagWinRead req s
  | .tagPop req => Sys2Proof.Machine.execTagPop req s
  | .histClr req mask => Sys2Proof.Machine.execHistClr req mask s
  | .atticRecord => Sys2Proof.Machine.execAtticRecord s
  | .atticWinRead req => Sys2Proof.Machine.execAtticWinRead req s
  | .atticWinLastRead req => Sys2Proof.Machine.execAtticWinLastRead req s
  | .atticClearArm req scope => Sys2Proof.Machine.execAtticClearArm req scope s
  | .atticClearExecute req scope => Sys2Proof.Machine.execAtticClearExecute req scope s
  | .atticClearLapse => Sys2Proof.Machine.execAtticClearLapse s
  | .perst => Sys2Proof.Machine.execPerst s
  | .flrPf0 => Sys2Proof.Machine.execFlrPf0 s
  | .flrPf1 => Sys2Proof.Machine.execFlrPf1 s
  | .badAccess req => Sys2Proof.Machine.execBadAccess req s
  | .msixUnmask c => Sys2Proof.Machine.execMsixUnmask c s
  | .vecModGapExpiry v => Sys2Proof.Machine.execVecModGapExpiry v s
  | .captureBlock e d m => Sys2Proof.Machine.execCaptureBlock e d m s
  | .heartbeatTx => Sys2Proof.Machine.execHeartbeatTx s
  | .corHeartbeatRx port ql => Sys2Proof.Machine.execCorHeartbeatRx port ql s
  | .corridorPortDown port => Sys2Proof.Machine.execCorridorPortDown port s
  | .corLinkRx worker port up restored => Sys2Proof.Machine.execCorLinkRx worker port up restored s
  | .enumerate topo => Sys2Proof.Machine.execEnumerate topo s
  | .corEnumRx addr port serves => Sys2Proof.Machine.execCorEnumRx addr port serves s
  | .windowAccess w addr data => Sys2Proof.Machine.execWindowAccess w addr data s
  | .corReadRx id addr port => Sys2Proof.Machine.execCorReadRx id addr port s
  | .corWriteRx id addr word port => Sys2Proof.Machine.execCorWriteRx id addr word port s
  | .corReadCplRx id data => Sys2Proof.Machine.execCorReadCplRx id data s
  | .corWriteAckRx id => Sys2Proof.Machine.execCorWriteAckRx id s
  | .corStallRx id => Sys2Proof.Machine.execCorStallRx id s
  | .windowDeadlineExpiry id => Sys2Proof.Machine.execWindowDeadlineExpiry id s
  | .corDoorbellRx worker v => Sys2Proof.Machine.execCorDoorbellRx worker v s
  | .corHierRx target => Sys2Proof.Machine.execCorHierRx target s
  | .fwdLogRead req => Sys2Proof.Machine.execFwdLogRead req s
  | .smbStatus => Sys2Proof.Machine.execSmbStatus s
  | .smbVin => Sys2Proof.Machine.execSmbVin s
  | .smbTcp v => Sys2Proof.Machine.execSmbTcp v s
  | .smbTdie v => Sys2Proof.Machine.execSmbTdie v s
  | .smbWake => Sys2Proof.Machine.execSmbWake s
  | .smbId => Sys2Proof.Machine.execSmbId s
  | .smbWakeCmd => Sys2Proof.Machine.execSmbWakeCmd s
  | .smbAlertClr => Sys2Proof.Machine.execSmbAlertClr s
  | .smbAlertResponse => Sys2Proof.Machine.execSmbAlertResponse s
  | .smbAtticCur index => Sys2Proof.Machine.execSmbAtticCur index s
  | .smbAtticRec => Sys2Proof.Machine.execSmbAtticRec s
  | .smbUndefined code => Sys2Proof.Machine.execSmbUndefined code s
  | .monPeek addr n => Sys2Proof.Machine.execMonPeek addr n s
  | .monPoke addr word => Sys2Proof.Machine.execMonPoke addr word s
  | .monAttic index n => Sys2Proof.Machine.execMonAttic index n s
  | .monState => Sys2Proof.Machine.execMonState s
  | .monIslands => Sys2Proof.Machine.execMonIslands s
  | .monFp => Sys2Proof.Machine.execMonFp s
  | .monLanes client => Sys2Proof.Machine.execMonLanes client s
  | .monWing w => Sys2Proof.Machine.execMonWing w s
  | .monRef => Sys2Proof.Machine.execMonRef s
  | .monHelp => Sys2Proof.Machine.execMonHelp s
  | .monUnknown => Sys2Proof.Machine.execMonUnknown s
  | .bootStepDone b => Sys2Proof.Machine.execBootStepDone b s
  | .wingStartStepDone w => Sys2Proof.Machine.execWingStartStepDone w s
  | .perstRelease => Sys2Proof.Machine.execPerstRelease s
  | .pcieLinkUp gen width => Sys2Proof.Machine.execPcieLinkUp gen width s
  | .unmappedAccess req addr isWrite => Sys2Proof.Machine.execUnmappedAccess req addr isWrite s
  | .keyCommandDone => Sys2Proof.Machine.execKeyCommandDone s
  | .imageCommandDone => Sys2Proof.Machine.execImageCommandDone s
  | .eqReconvDone w => Sys2Proof.Machine.execEqReconvDone w s
  | .holdoverLearnHour fit => Sys2Proof.Machine.execHoldoverLearnHour fit s

end Sys2Proof.Machine
end

