-- ==== Sys2Proof/Safety.lean ====
section
/-!
DEFINITION. The terms in which claims are made: a command's answer, what a command leaves alone, the canonical form of
the stores, what holds between the states before and after any command, and what the two wings do not share.
-/

namespace Sys2Proof.Machine

/-- The keys of a table strictly rise. -/
abbrev tabSorted {α : Type} (t : Tab α) : Prop := List.Pairwise (fun x y => x.1 < y.1) t

/-- The canonical form of the register store: both levels are sorted, no field is listed at its reset value and no row
is listed without a field. -/
abbrev storeWf (st : Tab (Tab Nat)) : Prop :=
  tabSorted st ∧ ∀ e ∈ st, e.2 ≠ [] ∧ tabSorted e.2 ∧ ∀ f ∈ e.2, f.2 ≠ 0

/-- The canonical form of everything that is kept by key: the register store, the staged and the pending sets and the
values in use. -/
abbrev State.wf (s : State) : Prop := storeWf s.store ∧ tabSorted s.staged ∧ tabSorted s.pend ∧ tabSorted s.inuse

/-- What holds between the states before and after any command: the queue is as it was, the canonical form stays, the
fused security version never returns to a lower value (R34), the root hash of the fuses stays, and the model's own
counters never go back. -/
structure State.Onward (s t : State) : Prop where
  pending : t.pending = s.pending
  svn : s.fuses.svn ≤ t.fuses.svn
  root : t.fuses.rootHash = s.fuses.rootHash
  free : s.free ≤ t.free
  uptime : s.uptime ≤ t.uptime
  wf : s.wf → t.wf

/-- The command answers a next state of which `P` holds. -/
def Answers (i : Instr) (s : State) (P : State → Prop) : Prop := ∃ t, exec i s = .next t ∧ P t

/-- Every register field outside the rows `rs` reads as before. Rows share no storage, so this says which fields a
command may have written. -/
def State.KeepsBut (s t : State) (rs : List Row) : Prop :=
  ∀ (r : Row) (ix : List Nat), (∀ x ∈ rs, x.id ≠ r.id) → t.rd r ix = s.rd r ix

/-- The parts of the state beside the registers and the queue. -/
inductive Part where
  | staged
  | pend
  | inuse
  | out
  | free
  | uptime
  | pins
  | host
  | attic
  | pmu
  | image
  | fuses
  | boot
  | power
  | ras
  | cor
  | rx
  | tx
  | opt
  | icm
  | pan
  | sched
  | conv
  | sup
  | dec
  | otn
  | groups
  | cip
  | sds
  | corLanes
  | dpll
deriving DecidableEq, Repr

/-- The part is the same in two states. -/
def Part.same (s t : State) : Part → Prop
  | .staged => t.staged = s.staged
  | .pend => t.pend = s.pend
  | .inuse => t.inuse = s.inuse
  | .out => t.out = s.out
  | .free => t.free = s.free
  | .uptime => t.uptime = s.uptime
  | .pins => t.pins = s.pins
  | .host => t.host = s.host
  | .attic => t.attic = s.attic
  | .pmu => t.pmu = s.pmu
  | .image => t.image = s.image
  | .fuses => t.fuses = s.fuses
  | .boot => t.boot = s.boot
  | .power => t.power = s.power
  | .ras => t.ras = s.ras
  | .cor => t.cor = s.cor
  | .rx => t.rx = s.rx
  | .tx => t.tx = s.tx
  | .opt => t.opt = s.opt
  | .icm => t.icm = s.icm
  | .pan => t.pan = s.pan
  | .sched => t.sched = s.sched
  | .conv => t.conv = s.conv
  | .sup => t.sup = s.sup
  | .dec => t.dec = s.dec
  | .otn => t.otn = s.otn
  | .groups => t.groups = s.groups
  | .cip => t.cip = s.cip
  | .sds => t.sds = s.sds
  | .corLanes => t.corLanes = s.corLanes
  | .dpll => t.dpll = s.dpll

/-- A command's frame: no register field outside the rows and no part outside the list has changed. -/
def State.Framed (s t : State) (rs : List Row) (ps : List Part) : Prop :=
  s.KeepsBut t rs ∧ ∀ p, p ∉ ps → p.same s t

/-! ### Rows that one operation shows (for the frames) -/

/-- R404, R406: what a request of a vector may set. -/
def bellRows : List Row :=
  [.HST_INTN_PEND_LO_VEC, .HST_INTN_PEND_HI_VEC]

/-- R391: what a lost attic record changes. -/
def lostRows : List Row :=
  [.ATT_LOST_COUNT, .ATT_EVT_LOST]

/-- R333: what the candidates' evaluation shows. -/
def candRows : List Row :=
  [.REF_EVT_CAND_CHANGE, .REF_CAND_STAT_QUALIFIED, .REF_CAND_STAT_ELIGIBLE, .REF_CAND_STAT_WTR_RUN,
   .REF_CAND_STAT_QL_FAILED, .REF_CAND_STAT_QL]

/-- R245, R248: what the evaluation of a protection group shows. -/
def groupRows : List Row :=
  [.OHD_APS_TX_VALUE, .HAL_PG_STAT_LOCAL_REQ, .HAL_PG_STAT_FAR_REQ, .HAL_PG_STAT_SEL_B, .HAL_PG_STAT_WTR_RUN,
   .HAL_PG_STAT_HOLD, .HAL_PG_STAT_COND_A, .HAL_PG_STAT_COND_B, .HAL_PG_STAT_CMD_HELD, .HAL_PG_CNT_SWITCHES,
   .HAL_PG_EVT_SEL_CHANGE]

/-- R295: what the flush of a scheduler instance changes. -/
def flushRows : List Row :=
  [.PMU_EVT_TAG_READY, .PMU_TAG_STAT_IN_FLIGHT, .PMU_TAG_STAT_FILL, .PMU_TAG_LOST_COUNT, .PMU_HIST_BIN_COUNT,
   .PMU_HIST_UNDER_COUNT, .PMU_HIST_OVER_COUNT, .CLI_PORT_STAT_XOFF, .PAN_EQ_OCC_CELLS, .PAN_EQ_DROPS_COUNT,
   .PAN_IQ_OCC_CELLS, .PAN_IQ_DROPS_COUNT, .PAN_PART_USE_USED, .PAN_SHARED_FREE, .PAN_DESC_FREE_FREE,
   .PAN_DROP_CNT_COUNT]

/-- R119: what a new state of a receiver changes. -/
def receiverRows : List Row :=
  [.RXW_SP2_STAT_ACTIVE, .RXW_SP2_STAT_DRAINING, .RXW_RX_STAT_STATE, .RXW_RX_EVT_SP2_CHANGE, .RXW_RX_EVT_READY_FALL,
   .ICM_USER_TX_CTL_QUEUED]

/-! ### The two wings -/

/-- Every register field of the instances of one wing, and what the wing holds beside its registers, is the same in two
states. -/
def State.WingSame (w : Wing) (s t : State) : Prop :=
  (∀ r ∈ rowsTXW ++ rowsRXW ++ rowsCNV ++ rowsFEC ++ rowsOHD ++ rowsELC ++ rowsOPT, ∀ ix : List Nat,
    ofWing w r (r.flat ix) = true → t.rd r ix = s.rd r ix) ∧
  t.rx.get w = s.rx.get w ∧ t.tx.get w = s.tx.get w ∧ t.opt.get w = s.opt.get w ∧ t.icm.get w = s.icm.get w ∧
    t.conv.get w = s.conv.get w ∧ t.dec.get w = s.dec.get w ∧ t.otn.get w = s.otn.get w

end Sys2Proof.Machine
end

