-- ==== Sys2Proof/Certificates/Slice0/Obligations.lean ====
section
/-!
DEFINITION. The statements for the provers.
-/

open Sys2Proof Sys2Proof.Machine

/-- A step runs the command at the front of the queue. With a command at the front of its queue, a step is that
command's effect on the state with the queue's rest; with an empty queue the step changes nothing (the model's own
choice, assumption 1). (the block form of the commands: opcode_table.json; notes/assumptions/1.md) -/
def Obligations.StepRunsTheFrontCommand : Prop :=
  (∀ (c : Instr) (rest : List Instr) (s : State),
    step { s with pending := c :: rest } = exec c { s with pending := rest }) ∧
  ∀ s : State, s.pending = [] → step s = .next s

/-- Every command completes and leaves the queue alone. Whatever the state, every command answers a next state, never a
fault or a refusal, and does not touch the queue of the commands that wait. (opcode_table.json: every row has an
effect; 01_architecture.md: R26) -/
def Obligations.EveryCommandCompletes : Prop :=
  ∀ (c : Instr) (s : State), ∃ t, exec c s = .next t ∧ t.pending = s.pending

/-- Every step keeps the canonical form of what is kept by key. From every state in which the register store, the staged
and the pending writes and the values in use are in canonical form (keys strictly rising, no field listed at its
reset value), a step leads to a state in which they are. (02_floor_plan.md: R41 (staging and pending sets);
00_scope.md: R10 (reset values)) -/
def Obligations.CanonicalFormKept : Prop :=
  ∀ s t : State, s.wf → step s = .next t → t.wf

/-- The module right after reset. At reset the queue is empty, the stores are in canonical form, and these fields hold
the values that the register tables give them. (00_scope.md: R10; the Reset columns of R4, R67, R137, R175, R192,
R212, R240, R276, R298, R300, R317, R330, R348, R365, R381, R395, R396, R419) -/
def Obligations.ResetValues : Prop :=
  State.reset.pending = [] ∧ State.reset.wf ∧
  (∀ (r : Row) (ix : List Nat), State.reset.rd r ix = r.rst) ∧
  State.reset.rd .GLB_ID_PART = 25650 ∧
  State.reset.rd .REF_CFG_DISAGREE_TH = 20 ∧
  State.reset.rd .REF_CAND_STAT_QL = 15 ∧
  State.reset.rd .PWR_VIN_CFG_WARN_TH = 350 ∧
  State.reset.rd .PWR_VIN_CFG_HYST = 5 ∧
  State.reset.rd .PWR_WOA_CFG_LINGER = 10 ∧
  State.reset.rd .PWR_WATCH_CFG_TH = 4095 ∧
  State.reset.rd .RAS_SCRUB_PERIOD = 24 ∧
  State.reset.rd .PMU_TAG_CFG_K = 16 ∧
  State.reset.rd .PMU_TAG_CFG_CLASS_MASK = 255 ∧
  State.reset.rd .ATT_CURSOR_AUTO_INC = 1 ∧
  State.reset.rd .HST_DMA_RING_SIZE_N = 16 ∧
  State.reset.rd .OPT_RX_STAT_LOS = 1 ∧
  State.reset.rd .RXW_FOM_OSNR_OSNR_EST = 65535 ∧
  State.reset.rd .CNV_CAL_STAT_SPARE = 64 ∧
  State.reset.rd .CNV_TRIM_SKEW_TAP = 512 ∧
  State.reset.rd .FEC_STAT_SF = 1 ∧
  State.reset.rd .ELC_HS_STAT_STATE = 5 ∧
  State.reset.rd .ELC_RX_HS_RSTATE = 5 ∧
  State.reset.rd .OHD_SM_DEF_LOF = 1 ∧
  State.reset.rd .CIP_LIMIT_SOFT = 1024 ∧
  State.reset.rd .CLI_PFC_CFG_QUANTA = 65535 ∧
  State.reset.rd .HAL_TPG_CFG_LEN = 64 ∧
  State.reset.rd .SCH_GCL_CYCLE_CYCLE = 1000000 ∧
  State.reset.rd .SUP_CH_FLAGS_STALE = 1 ∧
  State.reset.rd .ICM_RX_CFG_CAPTURE_MARGIN = 12 ∧
  State.reset.rd .SDS_LANE_STAT_TX_HALF = 2 ∧
  State.reset.rd .COR_LANE_STAT_RX_HALF = 2

/-- The fused security version never returns to a lower value. No step, whatever command it runs, lowers the fused
security version or changes the root hash of the fuses. (02_floor_plan.md: R34, its last sentence) -/
def Obligations.SecurityVersionNeverFalls : Prop :=
  ∀ s t : State, step s = .next t → s.fuses.svn ≤ t.fuses.svn ∧ t.fuses.rootHash = s.fuses.rootHash

/-- INT_N and INTN_PEND. INT_N is driven low exactly while a bit of INTN_PEND is 1. A request of a vector sets its bit
of INTN_PEND when its bit of INTN_SEL is set, whatever the state of MSI-X, and changes no other bit of INTN_PEND.
(R406) -/
def Obligations.IntNFollowsRequests : Prop :=
  (∀ s : State, s.intN = true ↔ s.rd .HST_INTN_PEND_LO_VEC ≠ 0 ∨ s.rd .HST_INTN_PEND_HI_VEC ≠ 0) ∧
  (∀ (s : State) (v k : Nat), v < 32 → k < 32 →
    ((s.ring v).rd .HST_INTN_PEND_LO_VEC).testBit k =
      ((s.rd .HST_INTN_PEND_LO_VEC).testBit k || (decide (k = v) && (s.rd .HST_INTN_SEL_LO_VEC).testBit v)) ∧
    (s.ring v).rd .HST_INTN_PEND_HI_VEC = s.rd .HST_INTN_PEND_HI_VEC) ∧
  (∀ (s : State) (v k : Nat), v < 32 → k < 32 →
    ((s.ring (32 + v)).rd .HST_INTN_PEND_HI_VEC).testBit k =
      ((s.rd .HST_INTN_PEND_HI_VEC).testBit k || (decide (k = v) && (s.rd .HST_INTN_SEL_HI_VEC).testBit v)) ∧
    (s.ring (32 + v)).rd .HST_INTN_PEND_LO_VEC = s.rd .HST_INTN_PEND_LO_VEC)

/-- The record of rejected writes. When VALID changes from 0 to 1 an attic record with the rejected address leaves for
the attic (it is lost only when the attic's queue is full, R391); a further rejection increases COUNT, up to its
width, and changes nothing else. (R43) -/
def Obligations.RejectedWrites : Prop :=
  ∀ (s : State) (addr : Nat),
    (s.flag .GLB_WR_REJECT_VALID = false → s.attic.queue.length < 16 →
      (s.reject addr).flag .GLB_WR_REJECT_VALID = true ∧
      (s.reject addr).rd .GLB_WR_REJECT_WORD_ADDR = addr / 4 % 2 ^ 23 ∧
      (s.reject addr).attic.queue =
        s.attic.queue ++ [⟨4 * 2048, evtCode .GLB_WR_REJECT_VALID [] 0, addr / 4, 0⟩]) ∧
    (s.flag .GLB_WR_REJECT_VALID = true →
      (s.reject addr).rd .GLB_WR_REJECT_COUNT = satAdd 8 (s.rd .GLB_WR_REJECT_COUNT) 1 % 2 ^ 8 ∧
      s.Framed (s.reject addr) [.GLB_WR_REJECT_COUNT] [])

/-- A command of one wing leaves the other wing alone. These commands of a wing's lasers, power loop and decoder change
no register field of the other wing's instances and nothing else that the other wing holds. (01_architecture.md: R11
(each wing has its own islands and optical engine)) -/
def Obligations.WingsApart : Prop :=
  ∀ (s : State) (w : Wing),
    (Answers (.txLaserLock w) s (fun t => s.WingSame w.other t)) ∧
    (Answers (.txTuneTimeout w) s (fun t => s.WingSame w.other t)) ∧
    (Answers (.loTuneDone w) s (fun t => s.WingSame w.other t)) ∧
    (Answers (.loTuneFail w) s (fun t => s.WingSame w.other t)) ∧
    (∀ (req : Req) (enable : Bool) (rampMs : Nat) (power : Int),
      Answers (.txCtlWrite req w enable rampMs power) s (fun t => s.WingSame w.other t)) ∧
    (Answers (.powerLoopUpdate w) s (fun t => s.WingSame w.other t)) ∧
    (∀ (b : BlockRx), Answers (.fecBlockDecode w b) s (fun t => s.WingSame w.other t)) ∧
    (Answers (.fecLock w) s (fun t => s.WingSame w.other t)) ∧
    (Answers (.dfecSfChange w) s (fun t => s.WingSame w.other t)) ∧
    (Answers (.dfecSdWindow w) s (fun t => s.WingSame w.other t))

/-- The image commands: verify, activate, program, confirm, advance, abort. Every command but ABORT is refused while SEC
is busy. LOAD_VERIFY clears the stage and runs; its end stages an image that passes every check with its scope, or
records the first failing check's reason. ACTIVATE without a staged image is refused, with none running it adopts
the image and configuration begins, at module scope it resets with cause 7. PROGRAM empties the target bank, whose
record is written last as NEW with the highest sequence number. CONFIRM makes a running NEW bank GOOD. ADVANCE_SVN
raises the fused version to the running image's, only when confirmed and running. ABORT clears the stage and ends a
running LOAD_VERIFY or PROGRAM. (02_floor_plan.md: verification and the image commands (R28, R33 to R37);
22_startup.md: R429, R435) -/
def Obligations.ImageCommands : Prop :=
  ∀ s : State,
    (∀ (req : Req), s.takesFrom req = true → s.secRuns = true →
      Answers (.loadVerify req) s (fun t => if s.imgBlocked then t.flag .SEC_IMG_STAT_REFUSED = true ∧ t.image =
        s.image
        else t.image.cmd = some .loadVerify ∧ t.flag .SEC_IMG_STAT_BUSY = true ∧ t.flag .SEC_IMG_STAT_STAGED =
          false ∧ t.image.staged = none)) ∧
    (∀ (i : Image), s.image.cmd = some .loadVerify → s.dmaServes .image = true →
      Answers (.loadVerifyDone (some i)) s (fun t => t.image.cmd = none ∧ t.flag .SEC_IMG_STAT_BUSY = false ∧
        (if s.verify i (s.rd .SEC_IMG_LEN_LEN) = 0 then t.image.staged = some i ∧ t.flag .SEC_IMG_STAT_STAGED =
          true ∧ t.rd .SEC_IMG_STAT_SCOPE = s.scopeOf i
        else t.image.staged = s.image.staged ∧ t.rd .SEC_IMG_STAT_REASON =
          s.verify i (s.rd .SEC_IMG_LEN_LEN) % 16))) ∧
    (s.image.cmd = some .loadVerify → s.dmaServes .image = true →
      Answers (.loadVerifyDone none) s (fun t => t.image.cmd = none ∧ t.flag .SEC_IMG_STAT_BUSY = false ∧
        t.rd .SEC_IMG_STAT_REASON = 10)) ∧
    (∀ (req : Req) (refetchOk : Bool), s.takesFrom req = true → s.secRuns = true → s.image.staged =
      none ∨ s.imgBlocked = true →
      Answers (.activate req refetchOk) s (fun t => t.flag .SEC_IMG_STAT_REFUSED = true ∧ t.image = s.image)) ∧
    (∀ (req : Req) (i : Image), s.takesFrom req = true → s.secRuns = true → s.image.staged = some i →
      s.imgBlocked = false → s.image.running = none →
      Answers (.activate req true) s (fun t => t.image.running = some i ∧ t.image.staged = none ∧
        t.rd .GLB_BOOT_STAT_STAGE = 4 ∧ t.boot.step = 6 ∧ t.rd .GLB_FP_INFO_SOURCE = 2 ∧
          t.flag .SEC_IMG_STAT_BUSY = true)) ∧
    (∀ (req : Req) (refetchOk : Bool) (i r : Image), s.takesFrom req = true → s.secRuns = true → s.image.staged =
      some i → s.imgBlocked = false → s.image.running = some r → s.rd .SEC_IMG_STAT_SCOPE = 4 →
      Answers (.activate req refetchOk) s (fun t => t.rd .PWR_WAKE_REC_CAUSE = 7 ∧ t.flag .PWR_WAKE_REC_FLAG =
        false ∧ t.boot.hostMode = true ∧ t.image.running = none ∧ t.image.bankA = s.image.bankA)) ∧
    (s.image.cmd = some .confirm ∨ s.image.cmd = some .advanceSvn →
      Answers (.imageCommandDone) s (fun t => t.image.cmd = none ∧ t.flag .SEC_IMG_STAT_BUSY = false ∧
        t.rd .SEC_IMG_STAT_PROGRESS = 100)) ∧
    (s.image.cmd = some .activate → s.activateReady = true → s.image.staged = none → s.dmaServes .image = true →
      Answers (.imageCommandDone) s (fun t => t.image.cmd = none ∧ t.flag .SEC_IMG_STAT_BUSY = false)) ∧
    (∀ (req : Req) (i : Image), s.takesFrom req = true → s.secRuns = true → s.image.staged = some i →
      s.imgBlocked = false →
      Answers (.program req) s (fun t => if s.verify i i.imageLen = 0 then t.image.cmd = some .program ∧
        t.image.target = some s.programTarget ∧ t.image.bank s.programTarget = Bank.blank ∧
          t.flag .SEC_IMG_STAT_BUSY = true
        else t.rd .SEC_IMG_STAT_REASON = s.verify i i.imageLen % 16 ∧ t.image = s.image)) ∧
    (∀ (b : Bool) (i : Image), s.image.cmd = some .program → s.image.target = some b → s.image.staged = some i →
      s.dmaServes .image = true →
      Answers (.programDone) s (fun t => t.image.cmd = none ∧ (t.image.bank b).state = .new ∧
        (t.image.bank b).image = some i ∧ (t.image.bank b).seq = s.image.nextSeq % 2 ^ 32 ∧ t.image.bank (!b) =
          s.image.bank (!b) ∧ t.flag .SEC_IMG_STAT_BUSY = false)) ∧
    (∀ (req : Req) (b : Bool), s.takesFrom req = true → s.secRuns = true → s.imgBlocked = false →
      Answers (.confirm req) s (fun t => t.image.cmd = some .confirm ∧ (s.runningBank = some b →
        (s.image.bank b).state = .new → (t.image.bank b).state = .good ∧ t.flag .GLB_FP_INFO_CONFIRMED = true))) ∧
    (∀ (req : Req), s.takesFrom req = true → s.secRuns = true →
      Answers (.advanceSvn req) s (fun t => if s.imgBlocked || s.image.running.isNone || !s.flag
        .GLB_FP_INFO_CONFIRMED then t.flag .SEC_IMG_STAT_REFUSED = true ∧ t.fuses = s.fuses
        else t.fuses.svn = max s.fuses.svn (s.rd .GLB_FP_INFO_SVN) ∧ t.image.cmd = some .advanceSvn)) ∧
    (∀ (req : Req), s.takesFrom req = true → s.secRuns = true → s.image.cmd = none ∨ s.image.cmd =
      some .loadVerify ∨ s.image.cmd = some .program →
      Answers (.abort req) s (fun t => t.image.cmd = none ∧ t.image.staged = none ∧ t.flag .SEC_IMG_STAT_STAGED =
        false))

/-- The start sequence and the wings' start. Step 1 ends with PGOOD; step 2 samples the straps, and a manager has
address 0; step 3 lets the link train and begins the self-test, which a wake after a passed one skips; a failed
self-test is STAGE 0xF with FAULT_N; a passed one begins the load, which waits for the host when the strap says so.
When no flash bank is eligible the boot ROM waits for the host. Configuration ends in RUNNING once every stage is
admitted. A wing start's step that is ready moves to the next. (22_startup.md: the start sequence and the wing start
(R424 to R430); 02_floor_plan.md: R31, R32) -/
def Obligations.StartUp : Prop :=
  ∀ s : State,
    (∀ (b : BootInput), s.boot.step = 1 →
      Answers (.bootStepDone b) s (fun t => t.boot.step = 2 ∧ t.pins.pgood = true)) ∧
    (∀ (b : BootInput), s.boot.step = 2 →
      Answers (.bootStepDone b) s (fun t => t.boot.step = 3 ∧ t.flag .GLB_BOOT_STAT_MGR_SEL = b.mgrSel ∧
        t.flag .GLB_BOOT_STAT_BOOT_SRC = b.bootSrcHost ∧ t.flag .COR_CTL_MANAGER = b.mgrSel ∧ t.rd .COR_STAT_ADDR =
          (if b.mgrSel then 0 else 0xFFFF))) ∧
    (∀ (b : BootInput), s.boot.step = 3 →
      Answers (.bootStepDone b) s (fun t => t.host.training = !s.pins.perst ∧ (s.boot.wake = false → t.boot.step =
        4 ∧ t.rd .GLB_BOOT_STAT_STAGE = 1) ∧
        (s.boot.wake = true → s.boot.selfTestPassed = true → t.flag .GLB_BOOT_STAT_SELF_TEST_SKIPPED = true ∧
          t.boot.step = 5))) ∧
    (∀ (b : BootInput), s.boot.step = 4 → s.rd .GLB_BOOT_STAT_STAGE = 1 →
      Answers (.bootStepDone b) s (fun t => if b.selfTestOk then t.boot.selfTestPassed = true ∧ t.boot.step = 5 ∧
        t.rd .GLB_BOOT_STAT_STAGE = (if s.boot.hostMode || s.flag .GLB_BOOT_STAT_BOOT_SRC then 3 else 2)
        else t.rd .GLB_BOOT_STAT_STAGE = 15 ∧ t.pins.faultN = true)) ∧
    (∀ (b : BootInput), s.boot.step = 5 → s.rd .GLB_BOOT_STAT_STAGE = 2 → s.image.bankA.eligible = false →
      s.image.bankB.eligible = false →
      Answers (.bootStepDone b) s (fun t => t.rd .GLB_BOOT_STAT_STAGE = 3 ∧ t.rd .GLB_FP_INFO_SOURCE = 3 ∧
        t.image = s.image)) ∧
    (∀ (b : BootInput) (i : Image), s.boot.step = 6 → s.image.running = some i → s.power.queue = [] →
      Answers (.bootStepDone b) s (fun t => t.rd .GLB_BOOT_STAT_STAGE = 5 ∧ t.boot.step = 7 ∧
        t.rd .GLB_BOOT_STAT_BOOT_MS = min 65535 b.ms ∧ t.isRunning = true)) ∧
    (∀ (w : Wing), s.isRunning = true → s.wingEnabled w = true → s.wingState w = 0 → s.wingStepReady w = true →
      Answers (.wingStartStepDone w) s (fun t => t.boot.wing.get w = s.boot.wing.get w + 1 ∧ (s.boot.wing.get w =
        1 → (t.opt.get w).tuning = true ∧ (t.opt.get w).loTuning = true ∧ t.flag .CNV_DAC_CAL_BUSY [w.n] = true)))

/-- The superframe boundaries and the received carrier frames. A transmitted boundary decrements a standing
announcement's COUNTDOWN, makes the switch due at its end, sends HDR_LOSS as wanted and puts the new header on the
line. HDR_LOSS is wanted after 64 frames without a valid header and no more after two superframes with one. It notes
what the superframe carries and counts its clipped samples. An aligned receiver ignores a peak at another position;
at the expected one a frame below threshold counts as a miss, and one without a valid header counts HDR_CRC; two
frames in succession at one peak give carrier-frame alignment. A received boundary counts the receiver's own
COUNTDOWN; a due receiver switch puts the recorded pair in force. (03_line_format.md: carrier frames, superframes
and headers (R52 to R54, R68, R70); 09_elastic_capacity.md: R179, R184, R188) -/
def Obligations.CarrierFramesAndSuperframes : Prop :=
  ∀ (s : State) (w : Wing),
    (∀ (shaped : Nat), s.wingRuns w = true → s.flag .TXW_LINE_NEXT_ANN_VALID [w.n] = true → (s.tx.get w).fresh =
      false →
      Answers (.superframeBoundaryTx w shaped) s (fun t => t.rd .TXW_LINE_NEXT_COUNTDOWN [w.n] =
        (s.rd .TXW_LINE_NEXT_COUNTDOWN [w.n] - 1) % 256 ∧
        (t.tx.get w).switchDue = decide (s.rd .TXW_LINE_NEXT_COUNTDOWN [w.n] ≤ 1) ∧
        t.flag .RXW_HDR_STAT_HDR_LOSS_TX [w.n] = (s.tx.get w).wantHdrLoss ∧
        (t.tx.get w).ackSent = (s.tx.get w).ackWant ∧ t.flag .ELC_HS_STAT_ICM_RC [w.n] = s.icmRcDue w ∧
        (t.tx.get w).sent.head? = some ⟨s.mt, (s.curPair w).1, (s.curPair w).2,
          ((s.tx.get w).sent.head?.map (fun c => c.info.drop (infoBits c.n c.fec))).getD []⟩ ∧
        (1 < s.rd .TXW_LINE_NEXT_COUNTDOWN [w.n] → (t.tx.get w).headers = (List.range 64).map (t.txHeader w)) ∧
        t.rd .TXW_CLIP_CNT_COUNT [w.n] =
          satAdd Row.TXW_CLIP_CNT_COUNT.width (s.rd .TXW_CLIP_CNT_COUNT [w.n]) (s.clipCount w shaped))) ∧
    (∀ (shaped : Nat), s.wingRuns w = true → s.flag .TXW_LINE_NEXT_ANN_VALID [w.n] = false →
      Answers (.superframeBoundaryTx w shaped) s (fun t => (t.tx.get w).switchDue = (s.tx.get w).switchDue ∧
        (t.tx.get w).ackSent = (s.tx.get w).ackWant ∧
        (t.tx.get w).sent.head? = some ⟨s.mt, (s.curPair w).1, (s.curPair w).2,
          ((s.tx.get w).sent.head?.map (fun c => c.info.drop (infoBits c.n c.fec))).getD []⟩ ∧
        t.rd .TXW_CLIP_CNT_COUNT [w.n] =
          satAdd Row.TXW_CLIP_CNT_COUNT.width (s.rd .TXW_CLIP_CNT_COUNT [w.n]) (s.clipCount w shaped))) ∧
    (64 ≤ (s.rx.get w).noHeader →
      Answers (.hdrLossSet w) s (fun t => (t.tx.get w).wantHdrLoss = true)) ∧
    (2 ≤ (s.rx.get w).goodSf →
      Answers (.hdrLossClear w) s (fun t => (t.tx.get w).wantHdrLoss = false)) ∧
    (∀ (pos corr : Nat) (m : List (List Int)), s.wingRuns w = true → s.flag .RXW_HDR_STAT_CF_ALIGNED [w.n] = true →
      pos = (s.rx.get w).position →
      Answers (.carrierFrameRx w pos corr none m) s (fun t => (t.rx.get w).misses = (if 500 ≤ corr then 0 else
        (s.rx.get w).misses + 1) ∧
        (t.rx.get w).noHeader = min 64 ((s.rx.get w).noHeader + 1) ∧ (t.rx.get w).frame = ((s.rx.get w).frame +
          1) % 64 ∧
        t.rd .RXW_HDR_ERR_HDR_CRC [w.n] = satAdd Row.RXW_HDR_ERR_HDR_CRC.width (s.rd .RXW_HDR_ERR_HDR_CRC [w.n]) 1 ∧
        (t.rx.get w).notes.head?.map (fun f => f.prior) = some (s.flag .RXW_DEMAP_CFG_PRIOR_EN [w.n]))) ∧
    (∀ (pos corr : Nat) (hdr : Option HeaderRx) (m : List (List Int)), s.flag .RXW_HDR_STAT_CF_ALIGNED [w.n] =
      true → pos ≠ (s.rx.get w).position →
      Answers (.carrierFrameRx w pos corr hdr m) s (fun t => t.rx = s.rx ∧ t.store = s.store)) ∧
    (∀ (pos corr : Nat) (m : List (List Int)), s.wingRuns w = true → s.flag .RXW_HDR_STAT_CF_ALIGNED [w.n] =
      false → s.searches w = true → 500 ≤ corr → (s.rx.get w).candidate = pos + 1 →
      Answers (.carrierFrameRx w pos corr none m) s (fun t => t.flag .RXW_HDR_STAT_CF_ALIGNED [w.n] = true ∧
        (t.rx.get w).position = pos)) ∧
    (∀ (pos corr : Nat) (f : HeaderRx) (m : List (List Int)), s.wingRuns w = true →
      s.flag .RXW_HDR_STAT_CF_ALIGNED [w.n] = true → pos = (s.rx.get w).position → headerOk (rxHeader f) = true →
        s.flag .RXW_HDR_STAT_SF_ALIGNED [w.n] = true → (s.rx.get w).taken = none →
      Answers (.carrierFrameRx w pos corr (some f) m) s (fun t => (t.rx.get w).noHeader = 0 ∧ (t.rx.get w).taken =
        some (rxHeader f) ∧
        t.flag .RXW_HDR_STAT_HDR_LOSS_RX [w.n] = (rxHeader f).hdrLoss ∧ t.rd .RXW_HDR_STAT_QL_RX [w.n] =
          (rxHeader f).ql % 16 ∧
        ((rxHeader f).baud ≠ s.rd .RXW_RATE_BAUD [w.n] → t.flag .RXW_HDR_STAT_BAUD_MISM [w.n] = true))) ∧
    (∀ (m : SuperframeRx), s.wingRuns w = true →
      Answers (.superframeBoundaryRx w m) s (fun t => (t.rx.get w).taken = none ∧ (t.rx.get w).goodSf =
        (if (s.rx.get w).taken.isSome then (s.rx.get w).goodSf + 1 else 0) ∧
        (t.rx.get w).record = (s.rx.get w).record.map (fun a => { a with countdown := a.countdown - 1 }) ∧
        (t.rx.get w).switchDue = (s.rx.get w).record.any (fun a => decide (a.countdown ≤ 1)))) ∧
    (∀ (a : AnnRecord), (s.rx.get w).switchDue = true → (s.rx.get w).record = some a →
      Answers (.rxRateSwitch w) s (fun t => t.rd .RXW_LINE_CUR_H_IDX [w.n] = a.h % 128 ∧
        t.rd .RXW_LINE_CUR_FEC [w.n] = a.fec % 2 ∧
        (t.rx.get w).record = none ∧ (t.rx.get w).sinceSwitch = 0 ∧
        ((s.rx.get w).ann = none → t.flag .RXW_HDR_STAT_MAP_VALID [w.n] = false)))

/-- The two lasers: tuning commands and their outcome. A write of TX_FREQ or LO_FREQ whose CH lies outside the code's
range leaves CH as it is and rings its TUNE_FAIL, while FINE is taken at the nearer limit; a CH inside the range is
stored, and a new one while the transmitter is lit starts its ramp-down. The laser locks from TUNING: FREQ_LOCKED,
TUNE_DONE, and dark or ramping up; a timeout there is FAULT with TUNE_FAIL. The local oscillator's tuning ends
locked or failed. (04_transmit_path.md: the lasers (R86 to R88, R92)) -/
def Obligations.LasersAndTuning : Prop :=
  ∀ (s : State) (w : Wing),
    (∀ (req : Req) (ch fine : Int), s.takesFrom req = true →
      Answers (.txFreqWrite req w ch fine) s (fun t => t.rdS .OPT_TX_FREQ_FINE [w.n] = clampInt (-1500) 1500 fine ∧
        (if s.chOk ch then t.rdS .OPT_TX_FREQ_CH [w.n] = ch
          else t.rd .OPT_TX_FREQ_CH [w.n] = s.rd .OPT_TX_FREQ_CH [w.n] ∧ t.flag .OPT_TX_EVT_TUNE_FAIL [w.n] =
          true))) ∧
    (∀ (req : Req) (ch fine : Int), s.takesFrom req = true → s.opticsOn w = true → s.chOk ch = true →
      s.rdS .OPT_TX_FREQ_CH [w.n] ≠ ch → s.optState w = 3 →
      Answers (.txFreqWrite req w ch fine) s (fun t => t.rd .OPT_TX_STAT_STATE [w.n] = 4 ∧ (t.opt.get w).retune =
        true)) ∧
    (∀ (req : Req) (ch fine : Int), s.takesFrom req = true →
      Answers (.loFreqWrite req w ch fine) s (fun t => t.rdS .OPT_LO_FREQ_FINE [w.n] = clampInt (-1500) 1500 fine ∧
        (if s.chOk ch then t.rdS .OPT_LO_FREQ_CH [w.n] = ch ∧
            (s.opticsOn w = true → s.rdS .OPT_LO_FREQ_CH [w.n] ≠ ch →
              t.flag .OPT_TX_STAT_LO_LOCKED [w.n] = false ∧ t.rd .RXW_RX_STAT_STATE [w.n] = 0)
          else t.rd .OPT_LO_FREQ_CH [w.n] = s.rd .OPT_LO_FREQ_CH [w.n] ∧ t.flag .OPT_TX_EVT_LO_TUNE_FAIL [w.n] =
          true))) ∧
    (s.optState w = 1 →
      Answers (.txLaserLock w) s (fun t => t.flag .OPT_TX_STAT_FREQ_LOCKED [w.n] = true ∧
        t.flag .OPT_TX_EVT_TUNE_DONE [w.n] = true ∧
        (t.rd .OPT_TX_STAT_STATE [w.n] = 0 ∨ t.rd .OPT_TX_STAT_STATE [w.n] = 2))) ∧
    (s.optState w = 1 →
      Answers (.txTuneTimeout w) s (fun t => t.rd .OPT_TX_STAT_STATE [w.n] = 6 ∧
        t.flag .OPT_TX_EVT_TUNE_FAIL [w.n] = true)) ∧
    ((s.opt.get w).loTuning = true →
      Answers (.loTuneDone w) s (fun t => t.flag .OPT_TX_STAT_LO_LOCKED [w.n] = true ∧
        t.flag .OPT_TX_EVT_LO_TUNE_DONE [w.n] = true ∧
        (t.opt.get w).loTuning = false) ∧
      Answers (.loTuneFail w) s (fun t => t.flag .OPT_TX_EVT_LO_TUNE_FAIL [w.n] = true ∧ (t.opt.get w).loTuning =
        false))

/-- The ramp, the power loop and the TX_DIS pin. A write of TX_CTL stores ENABLE, the power and the ramp time at their
limits. They take force at the next ramp update. A ramp moves the level by its step towards the target or the dark
level, sets RAMP_DONE at its end, and ends lit or dark. A power-loop update moves the level towards the target and
rings POWER_OOR after ten updates in which the power measured is more than 1 dB off. TX_DIS darkens an enabled wing
at once and shows in TXDIS_PIN; its release leaves the pin state. A completed DAC calibration clears BUSY and sets
DONE. (04_transmit_path.md: the ramp, the power loop and TX_DIS (R89 to R93); 06_line_converters.md: R133, R134) -/
def Obligations.LightAndPower : Prop :=
  ∀ (s : State) (w : Wing),
    (∀ (req : Req) (enable : Bool) (rampMs : Nat) (power : Int), s.takesFrom req = true →
      Answers (.txCtlWrite req w enable rampMs power) s (fun t => t.flag .OPT_TX_CTL_ENABLE [w.n] = enable ∧
        t.rd .OPT_TX_CTL_RAMP_MS [w.n] = max 1 (min 500 rampMs) ∧
        t.rdS .OPT_TX_CTL_POWER [w.n] = clampInt (-1000) 400 power)) ∧
    (s.optState w = 2 → (s.takeTxCtl w).mayLight w = true →
      Answers (.rampUpdate w) s (fun t =>
        (let l := towards (s.opt.get w).level (s.rdS .OPT_TX_CTL_POWER [w.n] * 1000000) (rampStep (s.rd
          .OPT_TX_CTL_RAMP_MS [w.n]));
        (t.opt.get w).level = l ∧
        (if l = s.rdS .OPT_TX_CTL_POWER [w.n] * 1000000 then t.rd .OPT_TX_STAT_STATE [w.n] = 3 ∧
          t.flag .OPT_TX_EVT_RAMP_DONE [w.n] = true
        else t.rd .OPT_TX_STAT_STATE [w.n] = 2)))) ∧
    (s.optState w = 4 → (s.takeTxCtl w).mayLight w = false →
      Answers (.rampUpdate w) s (fun t =>
        (let d := s.rdS .OPT_TX_CTL_POWER [w.n] * 1000000 - 3000000000;
        let l := max d ((s.opt.get w).level - rampStep (s.rd .OPT_TX_CTL_RAMP_MS [w.n]));
        (t.opt.get w).level = l ∧
        (if l = d then t.flag .OPT_TX_EVT_RAMP_DONE [w.n] = true ∧ t.rd .OPT_TX_STAT_STATE [w.n] =
          (if (s.opt.get w).retune then 1 else 0)
        else t.rd .OPT_TX_STAT_STATE [w.n] = 4)))) ∧
    (s.optState w = 3 →
      Answers (.powerLoopUpdate w) s (fun t => (t.opt.get w).level =
        towards (s.opt.get w).level (s.target w) (100 * rampStep (s.use .OPT_TX_CTL_RAMP_MS [w.n])) ∧
        (t.opt.get w).offMs =
          (if 100 < (s.rdS .OPT_TX_STAT_POWER_MEAS [w.n] - s.useS .OPT_TX_CTL_POWER [w.n]).natAbs then
          (s.opt.get w).offMs + 1 else 0) ∧
        (10 ≤ (t.opt.get w).offMs → t.flag .OPT_TX_EVT_POWER_OOR [w.n] = true))) ∧
    (s.pins.txDis.get w = false →
      Answers (.txDisAssert w) s (fun t => t.pins.txDis.get w = true ∧ t.flag .OPT_TX_STAT_TXDIS_PIN [w.n] = true ∧
        (s.isRunning = true → s.wingEnabled w = true → t.rd .OPT_TX_STAT_STATE [w.n] = 5 ∧
          t.flag .OPT_TX_EVT_TXDIS_EDGE [w.n] = true ∧ (t.opt.get w).level = s.darkLevel w ∧
          t.flag .OPT_TX_STAT_FREQ_LOCKED [w.n] = false))) ∧
    (∀ (onTarget : Bool),
      Answers (.txDisDeassert w onTarget) s (fun t => t.pins.txDis.get w = false ∧
        t.flag .OPT_TX_STAT_TXDIS_PIN [w.n] = false ∧ t.rd .OPT_TX_STAT_STATE [w.n] ≠ 5 ∧
        (s.optState w = 5 → s.opticsOn w = true →
          (t.flag .OPT_TX_STAT_FREQ_LOCKED [w.n] = true ∨ t.rd .OPT_TX_STAT_STATE [w.n] = 1 ∧
          (t.opt.get w).tuning = true)))) ∧
    (∀ (trims : List SliceTrim), s.flag .CNV_DAC_CAL_BUSY [w.n] = true → s.flag .CNV_DAC_CLK_LOCKED [w.n] = true →
      Answers (.dacCalComplete w trims) s (fun t => t.flag .CNV_DAC_CAL_BUSY [w.n] = false ∧
        t.flag .CNV_DAC_CAL_DONE [w.n] = true ∧ (t.opt.get w).dacDue = false ∧
        (t.conv.get w).dac = ((s.setDac w trims).conv.get w).dac ∧ t.flag .CNV_DAC_QUAL_VALID [w.n, 0] = true ∧
        t.rd .CNV_DAC_QUAL_RES_SKEW [w.n, 0] = rmsSkew (t.dacRest w 0) % 2 ^ Row.CNV_DAC_QUAL_RES_SKEW.width))

/-- The second pass and the figures of merit. In AUTO a calm READY wing whose margin is below ON_TH asks for the second
pass, and one whose first-pass margin is above OFF_TH asks for its stop; an admitted start makes it ACTIVE; a stop
drains it; a finished drain clears DRAINING. The end of a window of a READY wing shows the measured figures and
MARGIN as SNR_EFF less the required SNR. (05_receive_path.md: the second pass and the figures of merit (R113 to
R116)) -/
def Obligations.SecondPassAndWindow : Prop :=
  ∀ (s : State) (w : Wing),
    (s.use .RXW_SP2_CTL_MODE [w.n] = 2 → s.rd .RXW_RX_STAT_STATE [w.n] = 11 → s.sp2Calm w = true →
      s.rdS .RXW_FOM_MARGIN_MARGIN [w.n] < 10 * s.useS .RXW_SP2_CTL_ON_TH [w.n] →
        s.flag .RXW_SP2_STAT_ACTIVE [w.n] = false →
      Answers (.sp2AutoOn w) s (fun t => t.flag .RXW_SP2_STAT_WAIT_PWR [w.n] = true ∧ t.power.queue =
        s.power.queue ++ [.secondPass w])) ∧
    (s.use .RXW_SP2_CTL_MODE [w.n] = 2 → s.flag .RXW_SP2_STAT_ACTIVE [w.n] = true → s.sp2Calm w = true →
      10 * s.offTh w < s.firstMargin w →
      Answers (.sp2AutoOff w) s (fun t => (t.rx.get w).sp2Stop = true)) ∧
    (s.flag .RXW_SP2_STAT_WAIT_PWR [w.n] = true → s.power.up.contains (.secondPass w) = true →
      s.rd .RXW_RX_STAT_STATE [w.n] = 11 →
      Answers (.sp2Start w) s (fun t => t.flag .RXW_SP2_STAT_ACTIVE [w.n] = true ∧
        t.flag .RXW_SP2_STAT_WAIT_PWR [w.n] = false ∧
        t.flag .RXW_RX_EVT_SP2_CHANGE [w.n] = true ∧ (t.rx.get w).pausedTo = t.mt +
          ceilDiv 3536000 (s.rd .RXW_RATE_BAUD [w.n]))) ∧
    (s.flag .RXW_SP2_STAT_ACTIVE [w.n] = true → ((s.rx.get w).sp2Stop || s.shedding) = true →
      Answers (.sp2Stop w) s (fun t => t.flag .RXW_SP2_STAT_ACTIVE [w.n] = false ∧
        t.flag .RXW_SP2_STAT_DRAINING [w.n] = true ∧
        t.power.up.contains (.secondPass w) = false)) ∧
    (Answers (.sp2DrainDone w) s (fun t => t.flag .RXW_SP2_STAT_DRAINING [w.n] = false)) ∧
    (s.rxState w = 11 → s.windowFull w = true →
      Answers (.fomWindowEnd w) s (fun t =>
        (let f := (s.rx.get w).window.figures (s.snrTrx w) (s.rd .RXW_RATE_BAUD [w.n]);
        t.rd .RXW_FOM_SNR_SNR_X [w.n] = f.snrX % 65536 ∧ t.rd .RXW_FOM_EFF_SNR_EFF [w.n] = f.snrEff % 65536 ∧
        t.rd .RXW_FOM_GMI_NGMI [w.n] = f.ngmi % 32768 ∧ t.flag .RXW_FOM_OSNR_SAT [w.n] = f.osnrSat ∧
        t.rd .RXW_FOM_OSNR_OSNR_EST [w.n] = (if f.osnrSat then 65535 else f.osnr % 65536) ∧
        t.rdS .RXW_FOM_MARGIN_MARGIN [w.n] = toSigned 16 (ofSigned 16 ((f.snrEff : Int) - f.req)) ∧
        (t.rx.get w).window = FomSum.zero)))

/-- Acquisition: start, steps, failure and retry. A waiting receiver with light, its oscillator locked and its
converters calibrated starts an acquisition, which is counted and warm when values are stored; a failed one starts
cold; REACQ starts one at once. A failure in steps 1 to 10 shows FAIL with its reason and rings. Step 2 fails beyond
3.5 GHz of offset, step 4 beyond 50 ppm; step 6 waits for frame alignment, step 8 for superframe alignment, step 9
for the map; step 10 with the decoder locked is READY. (05_receive_path.md: acquisition (R98, R100, R105, R106, R117
to R119)) -/
def Obligations.AcquisitionSteps : Prop :=
  ∀ (s : State) (w : Wing),
    (s.coreRuns = true → s.rxState w = 0 → s.canAcquire w = true →
      Answers (.acqStart w) s (fun t => t.rd .RXW_RX_STAT_STATE [w.n] = 1 ∧ t.rd .RXW_RX_STAT_ACQ_COUNT [w.n] =
        (s.rd .RXW_RX_STAT_ACQ_COUNT [w.n] + 1) % 65536 ∧
        (t.rx.get w).warm = (s.rx.get w).stored.isSome)) ∧
    (s.coreRuns = true → s.rxState w = 15 → s.canAcquire w = true →
      Answers (.acqRetry w) s (fun t => t.rd .RXW_RX_STAT_STATE [w.n] = 1 ∧ (t.rx.get w).warm = false)) ∧
    (∀ (req : Req) (warm : Bool), s.takesFrom req = true → s.canAcquire w = true → s.coreRuns = true →
      Answers (.reacq req w warm) s (fun t => t.rd .RXW_RX_STAT_STATE [w.n] = 1 ∧ (t.rx.get w).warm =
        (warm && (s.rx.get w).stored.isSome))) ∧
    (∀ (reason : Fin 16), s.coreRuns = true → (stepReasons (s.rxState w)).contains reason = true →
      Answers (.acqFail w reason) s (fun t => t.rd .RXW_RX_STAT_STATE [w.n] = 15 ∧
        t.rd .RXW_RX_STAT_FAIL_REASON [w.n] = reason ∧
        t.flag .RXW_RX_EVT_ACQ_FAIL [w.n] = true)) ∧
    (∀ (m : AcqInput), s.coreRuns = true → s.canAcquire w = true →
      Answers (.acqStepComplete w m) s (fun t => (s.rxState w = 1 → t.rd .RXW_RX_STAT_STATE [w.n] = 2) ∧
        (s.rxState w = 2 → t.rd .RXW_RX_STAT_STATE [w.n] = if 3500 < m.freqOffset.natAbs then 15 else 3) ∧
        (s.rxState w = 4 → t.rd .RXW_RX_STAT_STATE [w.n] = if 5000 < m.timing.natAbs then 15 else 5) ∧
        (s.rxState w = 5 → (s.rx.get w).warm = false → (s.rx.get w).dsp.singular = false →
          t.rd .RXW_RX_STAT_STATE [w.n] = 6 ∧
          t.flag .RXW_EQ_STAT_CONVERGED [w.n] = true ∧ (t.rx.get w).taps = (s.rx.get w).taps) ∧
        (s.rxState w = 5 → (s.rx.get w).dsp.singular = true → t.rd .RXW_RX_STAT_STATE [w.n] = 5 ∧
          (t.rx.get w).taps = orthogonal (s.rx.get w).taps) ∧
        (s.rxState w = 6 → t.rd .RXW_RX_STAT_STATE [w.n] = if s.flag .RXW_HDR_STAT_CF_ALIGNED [w.n] then 7 else 6) ∧
        (s.rxState w = 7 → t.rd .RXW_RX_STAT_STATE [w.n] = 8) ∧
        (s.rxState w = 8 → t.rd .RXW_RX_STAT_STATE [w.n] =
          if s.flag .RXW_HDR_STAT_BAUD_MISM [w.n] then 15 else if s.flag .RXW_HDR_STAT_SF_ALIGNED [w.n] then 9 else
          8) ∧
        (s.rxState w = 9 → t.rd .RXW_RX_STAT_STATE [w.n] = if s.flag .RXW_HDR_STAT_MAP_VALID [w.n] then 10 else 9) ∧
        (s.rxState w = 10 → t.rd .RXW_RX_STAT_STATE [w.n] = (if s.flag .FEC_STAT_LOCKED [w.n] then 11 else 10) ∧
          (s.flag .FEC_STAT_LOCKED [w.n] = true → t.flag .RXW_RX_EVT_READY_RISE [w.n] = true))))

/-- Loss of signal and of alignment, dispersion tracking and re-convergence. Loss of signal sets LOS, shows the lowest
power and sends the receiver to WAIT with its framing cleared; its end needs a power above LOS_TH plus HYST. Four
missed frames are a loss of carrier-frame alignment, counted in CF_SLIP. A READY receiver that tracks follows a
residual of more than 50 ps/nm in steps of 10, at most to its reach. After 64 frames above the convergence limit a
re-convergence stops delivery and rings; it ends with CONVERGED once the error is within the limit.
(05_receive_path.md: R54 (03_line_format.md), R99, R104, R107, R118) -/
def Obligations.LossAndTracking : Prop :=
  ∀ (s : State) (w : Wing),
    (∀ (power : Int), s.flag .OPT_RX_STAT_LOS [w.n] = false → power < s.rdS .OPT_RX_LOS_LOS_TH [w.n] →
      Answers (.losAssert w power) s (fun t => t.flag .OPT_RX_STAT_LOS [w.n] = true ∧ t.pins.los.get w = true ∧
        t.rdS .OPT_RX_STAT_POWER_MEAS [w.n] = -4096 ∧
        t.rd .RXW_RX_STAT_STATE [w.n] = 0 ∧ t.flag .RXW_HDR_STAT_CF_ALIGNED [w.n] = false)) ∧
    (∀ (power : Int), s.flag .OPT_RX_STAT_LOS [w.n] = true → s.wingEnabled w = true →
      s.rdS .OPT_RX_LOS_LOS_TH [w.n] + 10 * s.rd .OPT_RX_LOS_HYST [w.n] < power →
      Answers (.losClear w power) s (fun t => t.flag .OPT_RX_STAT_LOS [w.n] = false ∧ t.pins.los.get w = false)) ∧
    (s.coreRuns = true → s.flag .RXW_HDR_STAT_CF_ALIGNED [w.n] = true → 4 ≤ (s.rx.get w).misses →
      Answers (.cfAlignLoss w) s (fun t => t.rd .RXW_HDR_ERR_CF_SLIP [w.n] =
        satAdd Row.RXW_HDR_ERR_CF_SLIP.width (s.rd .RXW_HDR_ERR_CF_SLIP [w.n]) 1 ∧
        t.flag .RXW_HDR_STAT_CF_ALIGNED [w.n] = false ∧ t.rd .RXW_RX_STAT_STATE [w.n] = (if s.canAcquire w then
          1 else 0))) ∧
    (∀ (residual : Int), s.rxState w = 11 → s.flag .RXW_CD_CFG_TRACK_EN [w.n] = true → 50 < residual.natAbs →
      Answers (.cdTrackMove w residual) s (fun t => t.rdS .RXW_CD_STAT_CD_EST [w.n] =
        toSigned 20 (ofSigned 20 (clampInt (-(s.reach w : Int)) (s.reach w)
          (s.rdS .RXW_CD_STAT_CD_EST [w.n] + roundTen residual))))) ∧
    (s.flag .RXW_HDR_STAT_CF_ALIGNED [w.n] = true → s.flag .RXW_EQ_STAT_CONVERGED [w.n] = true →
      64 ≤ (s.rx.get w).dsp.overRun →
      Answers (.eqReconv w) s (fun t => t.flag .RXW_EQ_STAT_CONVERGED [w.n] = false ∧
        t.flag .RXW_RX_EVT_EQ_RECONV [w.n] = true ∧ t.delivers w = false)) ∧
    ((s.rx.get w).eqStop = true → (s.rx.get w).dsp.overRun = 0 →
      Answers (.eqReconvDone w) s (fun t => t.flag .RXW_EQ_STAT_CONVERGED [w.n] = true ∧ (t.rx.get w).eqStop = false))

/-- Sample clocks, foreground calibration and the rotation of the spare slice. A locked synthesiser shows its sample
rate, 1.125 times the symbol rate, and a newly locked ADC clock starts a foreground calibration, whose end makes the
figures valid with the spare at slice 64, except that nothing is valid while it runs. RESTART on a stopped wing with
its clock locked is a foreground calibration, and waits for a hand-over where hand-overs come. A calibrated spare
waits for its hand-over with new trims, the skew step skipped and counted without light; the hand-over brings the
trims into force at their limits with the digital residual carrying the rest, moves the spare one slice along the
walk and shows the residuals; after the dwell the next calibration begins. A DAC calibration runs in the dark and is
refused in the light. (06_line_converters.md: sample clocks, calibration and rotation (R122 to R133)) -/
def Obligations.ConvertersAndRotation : Prop :=
  ∀ (s : State) (w : Wing),
    (s.flag .CNV_ADC_CLK_LOCKED [w.n] = false →
      Answers (.synthLock w true) s (fun t => t.flag .CNV_ADC_CLK_LOCKED [w.n] = true ∧
        t.rd .CNV_ADC_CLK_FS [w.n] = sampleRate (s.rd .RXW_RATE_BAUD [w.n]) % 2 ^ Row.CNV_ADC_CLK_FS.width ∧
        (t.conv.get w).foreground = true ∧ ∀ d : Fin 4, t.flag .CNV_QUAL_VALID [w.n, d] = false)) ∧
    (Answers (.synthLock w false) s (fun t => t.flag .CNV_DAC_CLK_LOCKED [w.n] = true ∧
      t.rd .CNV_DAC_CLK_FS [w.n] = sampleRate (s.rd .TXW_RATE_BAUD [w.n]) % 2 ^ Row.CNV_DAC_CLK_FS.width)) ∧
    (∀ (trims : List SliceTrim), (s.conv.get w).foreground = true → s.flag .CNV_ADC_CLK_LOCKED [w.n] = true →
      Answers (.fgCalComplete w trims) s (fun t => (t.conv.get w).foreground = false ∧ ∀ d : Fin 4,
        t.flag .CNV_QUAL_VALID [w.n, d] = true ∧ t.rd .CNV_CAL_STAT_SPARE [w.n, d] = 64 ∧
        t.rd .CNV_QUAL_RES_SKEW [w.n, d] = rmsSkew (t.inService w d) % 2 ^ Row.CNV_QUAL_RES_SKEW.width ∧
        t.rdS .CNV_QUAL_RES_SPUR [w.n, d] =
          toSigned Row.CNV_QUAL_RES_SPUR.width (ofSigned Row.CNV_QUAL_RES_SPUR.width (spurOf (t.inService w d))))) ∧
    (∀ (req : Req), s.takesFrom req = true → s.wingStopped w = true → s.flag .CNV_ADC_CLK_LOCKED [w.n] = true →
      Answers (.calRestart req w) s (fun t => (t.conv.get w).foreground = true ∧ ∀ d : Fin 4,
        t.flag .CNV_QUAL_VALID [w.n, d] = false)) ∧
    (∀ (req : Req), s.takesFrom req = true → s.wingStopped w = false → (s.conv.get w).foreground = false →
      s.handsOver w = false →
      Answers (.calRestart req w) s (fun t => ∀ d : Fin 4, (s.dim w d).phase ≠ .parked →
        t.rd .CNV_CAL_STAT_SWEEPS [w.n, d] = 0)) ∧
    (∀ (req : Req), s.takesFrom req = true → s.wingStopped w = false → s.handsOver w = true →
      Answers (.calRestart req w) s (fun t => (t.conv.get w).restartDue = true ∧ ∀ d : Fin 4,
        t.rd .CNV_CAL_STAT_SWEEPS [w.n, d] = s.rd .CNV_CAL_STAT_SWEEPS [w.n, d])) ∧
    (∀ (d : Fin 4) (found : Trims), (s.dim w d).phase = .calibrating → s.convWorks w = true → s.parkTarget w d =
      none →
      Answers (.spareCalComplete w d found) s (fun t => (t.dim w d).phase = .overlap ∧
        t.flag .CNV_CAL_STAT_CALIBRATING [w.n, d] = false ∧
        (t.dim w d).trims = some (s.calFound w d found) ∧
        (s.flag .OPT_RX_STAT_LOS [w.n] = true → (s.calFound w d found).tap = (s.skewFound w d).1) ∧
        t.rd .CNV_CAL_STAT_SKEW_SKIPPED [w.n, d] = (if s.flag .OPT_RX_STAT_LOS [w.n]
          then (s.rd .CNV_CAL_STAT_SKEW_SKIPPED [w.n, d] + 1) % 2 ^ Row.CNV_CAL_STAT_SKEW_SKIPPED.width else
          s.rd .CNV_CAL_STAT_SKEW_SKIPPED [w.n, d]))) ∧
    (∀ (d : Fin 4), (s.dim w d).phase = .overlap → s.wingStopped w = false →
      Answers (.sliceHandover w d) s (fun t => t.rd .CNV_CAL_STAT_SPARE [w.n, d] =
        (if s.flag .CNV_CAL_STAT_RISING [w.n, d] then min 64 (s.spare w d + 1) else s.spare w d - 1) % 128 ∧
        t.rd .CNV_QUAL_RES_SKEW [w.n, d] = rmsSkew (t.inService w d) % 2 ^ Row.CNV_QUAL_RES_SKEW.width ∧
          t.flag .CNV_QUAL_VALID [w.n, d] = true ∧
        (∀ x : Trims, (s.dim w d).trims = some x → s.spare w d < 65 →
          t.rdS .CNV_TRIM_OFFSET [w.n, d, s.spare w d] = offsetTrim x ∧ t.rdS .CNV_TRIM_GAIN [w.n, d,
          s.spare w d] = gainTrim x ∧
          t.rd .CNV_TRIM_SKEW_TAP [w.n, d, s.spare w d] = tapTrim x ∧
          tabGet SliceRest.zero (t.dim w d).rest (s.spare w d) = restOf x x.residual))) ∧
    (∀ (d : Fin 4), (s.dim w d).phase = .dwell → s.mayRotate w d = true → s.convWorks w = true → s.coreRuns = true →
      Answers (.dwellExpiry w d) s (fun t => (t.dim w d).phase = .calibrating ∧
        t.flag .CNV_CAL_STAT_CALIBRATING [w.n, d] = true)) ∧
    (∀ (req : Req), s.takesFrom req = true → (s.handsOver w && !s.wingStopped w) = false →
      Answers (.dacCalStart req w) s (fun t => if s.rd .OPT_TX_STAT_STATE [w.n] =
        0 ∨ s.rd .OPT_TX_STAT_STATE [w.n] = 1 then t.flag .CNV_DAC_CAL_BUSY [w.n] = true
        else t.flag .CNV_DAC_CAL_REFUSED [w.n] = true)) ∧
    (∀ (req : Req), s.takesFrom req = true → s.handsOver w = true → s.wingStopped w = false →
      Answers (.dacCalStart req w) s (fun t => (t.conv.get w).dacDue = true ∧ t.flag .CNV_DAC_CAL_BUSY [w.n] =
        s.flag .CNV_DAC_CAL_BUSY [w.n]))

/-- The supervisory converter: the regular sequence and the injected ones. While the converter runs: a regular
conversion moves on to the next slot, the first again after the last; channel 12 shows VIN as twice its code, a
temperature channel its reading; its code joins the contexts of its channel, or the live statistics where no context
takes it; a calibration that is due then starts. An injected conversion takes the next slot, and at the end of its
sequence counts a run. A trigger, or GO, waits; one that is pending or running already is merged and counted.
(07_supervisory.md: the regular and injected sequences (R142 to R145, R150, R151)) -/
def Obligations.SupervisorySequence : Prop :=
  ∀ s : State,
    (∀ (code : Nat), s.supRuns = true → s.sup.running = none → s.flag .SUP_CAL_CTL_BUSY = false →
      Answers (.supConversion code) s (fun t => t.sup.slot = (if s.seqLen ≤ s.sup.slot + 1 then 0 else s.sup.slot +
        1) ∧
        (s.slotChannel s.sup.slot = some 12 → t.rd .PWR_VIN_STAT_VIN = code % 4096 * 2) ∧
        (∀ ch : Fin 24, s.slotChannel s.sup.slot = some (ch : Nat) →
          (15 ≤ (ch : Nat) → tabGet 0 t.sup.temps ch = ((code % 4096 : Nat) : Int) - 1024) ∧
          (∀ k : Fin 24, s.ctxSource k = ch → tabGet [] t.sup.input k =
          tabGet [] s.sup.input k ++ [((code % 4096 : Nat) : Int)]) ∧
          ((s.ctxsOf ch).isEmpty = true → s.statsRun = true →
            tabGet Accum.zero t.sup.live ch =
            (tabGet Accum.zero s.sup.live ch).add ((code % 4096 : Nat) : Int) false false)) ∧
        (s.sup.calDue = true → t.flag .SUP_CAL_CTL_BUSY = true ∧ t.flag .SUP_CAL_CTL_DEFERRED = false ∧
          t.sup.calDue = false ∧
          ∀ ch : Fin 24, t.flag .SUP_CH_FLAGS_STALE [ch] = true))) ∧
    (∀ (code k ch : Nat), s.supRuns = true → s.sup.running = some (k, [ch]) → s.sup.pending = [] →
      Answers (.supConversion code) s (fun t => t.sup.running = none ∧ t.flag .SUP_INJ_STAT_BUSY = false ∧
        t.rd .SUP_INJ_STAT_RUNS = (s.rd .SUP_INJ_STAT_RUNS + 1) % 2 ^ Row.SUP_INJ_STAT_RUNS.width ∧ t.sup.slot =
          (if s.sup.anew then 0 else s.sup.slot))) ∧
    (∀ (code k ch : Nat) (rest : List Nat), s.supRuns = true → s.sup.running = some (k, ch :: rest) → rest ≠ [] →
      Answers (.supConversion code) s (fun t => t.sup.running = some (k, rest) ∧ t.flag .SUP_INJ_STAT_BUSY = true ∧
        t.sup.slot = s.sup.slot ∧
        t.rd .SUP_INJ_STAT_RUNS = s.rd .SUP_INJ_STAT_RUNS)) ∧
    (∀ (src : Fin 5), s.supRuns = true →
      Answers (.injTrigger src) s (fun t => t.sup.running = s.sup.running ∧
        (if s.sup.pending.contains (src : Nat) ∨ s.sup.running.map (·.1) = some (src : Nat) then
          t.sup.pending = s.sup.pending ∧ t.rd .SUP_INJ_STAT_MERGED = (s.rd .SUP_INJ_STAT_MERGED +
          1) % 2 ^ Row.SUP_INJ_STAT_MERGED.width
        else t.sup.pending = s.sup.pending ++ [(src : Nat)] ∧ t.flag .SUP_INJ_STAT_BUSY = true))) ∧
    (∀ (req : Req), s.takesFrom req = true → s.supRuns = true →
      Answers (.injGo req) s (fun t => t.sup.running = s.sup.running ∧
        (if s.sup.pending.contains 5 ∨ s.sup.running.map (·.1) = some 5 then
          t.sup.pending = s.sup.pending ∧ t.rd .SUP_INJ_STAT_MERGED = (s.rd .SUP_INJ_STAT_MERGED +
          1) % 2 ^ Row.SUP_INJ_STAT_MERGED.width
        else t.sup.pending = s.sup.pending ++ [5] ∧ t.flag .SUP_INJ_STAT_BUSY = true)))

/-- The decimation engine and the self-calibration of the supervisory converter. An engine round passes the samples that
wait for a context through its CIC and FIR, leaving none; an output of the FIR is marked UNSETTLED, and SAT where it
saturates. DEC_RESET is due at the end of the conversion in progress, and acts at once in a stopped block: a context
reset counts, empties the filter and marks the next N + ceil(32 / D) outputs. A START of the self-calibration is due
at the end of the conversion in progress; so is an automatic one, which is deferred while a wing ramps. Its end
clears BUSY, counts, and rings. (07_supervisory.md: contexts and self-calibration (R146 to R152)) -/
def Obligations.DecimationAndSelfCalibration : Prop :=
  ∀ s : State,
    (∀ (m : RoundInput), s.supRuns = true → s.halted 6 = false →
      Answers (.decRound m) s (fun t => ∀ k : Fin 24, s.ctxSource k < 24 → tabGet [] t.sup.input k = [] ∧
        tabGet DecFilter.zero t.sup.filters k = (tabGet [] s.sup.input k).foldl
          (fun f x => (f.push (s.ctxN k) (s.ctxR k) (s.ctxD k) x).1) (tabGet DecFilter.zero s.sup.filters k))) ∧
    (∀ (m : RoundInput) (k : Fin 24) (x : Int), s.supRuns = true → s.halted 6 = false → s.ctxSource k < 24 →
      tabGet [] s.sup.input k = [x] →
        ((tabGet DecFilter.zero s.sup.filters k).push (s.ctxN k) (s.ctxR k) (s.ctxD k) x).2.isSome = true →
      Answers (.decRound m) s (fun t => t.flag .SUP_DEC_STAT_UNSETTLED [k] = decide (tabGet 0 s.sup.unsettled k ≠ 0) ∧
        tabGet 0 t.sup.unsettled k = tabGet 0 s.sup.unsettled k - 1 ∧
        ((satOut (scaleOut (((tabGet DecFilter.zero s.sup.filters k).push (s.ctxN k) (s.ctxR k) (s.ctxD k) x).2.getD
          0) (s.ctxShift k + 20))).2 = true → t.flag .SUP_DEC_STAT_SAT [k] = true ∧ t.flag .SUP_EVT_SAT = true))) ∧
    (∀ (req : Req) (mask : Nat), s.takesFrom req = true → s.supRuns = true → s.halted 6 = false →
      Answers (.decReset req mask) s (fun t => t.sup.resetDue = s.sup.resetDue ||| mask ∧ t.sup.filters =
        s.sup.filters)) ∧
    (∀ (req : Req) (mask : Nat), s.takesFrom req = true → (s.supRuns && !s.halted 6) = false →
      Answers (.decReset req mask) s (fun t => ∀ k : Fin 24, if mask.testBit k then
          t.rd .SUP_DEC_STAT_RESETS [k] = (s.rd .SUP_DEC_STAT_RESETS [k] + 1) % 2 ^ Row.SUP_DEC_STAT_RESETS.width ∧
          tabGet DecFilter.zero t.sup.filters k = DecFilter.zero ∧ tabGet 0 t.sup.unsettled k = s.ctxN k +
          ceilDiv 32 (s.ctxD k)
        else t.rd .SUP_DEC_STAT_RESETS [k] = s.rd .SUP_DEC_STAT_RESETS [k] ∧
          tabGet DecFilter.zero t.sup.filters k = tabGet DecFilter.zero s.sup.filters k)) ∧
    (∀ (req : Req), s.takesFrom req = true → s.supRuns = true → s.halted 6 = false →
      Answers (.supCalStart req) s (fun t => t.sup.calDue = (s.sup.calDue || !s.flag .SUP_CAL_CTL_BUSY) ∧
        t.flag .SUP_CAL_CTL_BUSY = s.flag .SUP_CAL_CTL_BUSY)) ∧
    (s.coreRuns = true → s.supRuns = true → s.flag .SUP_CAL_CTL_AUTO_EN = true → s.flag .SUP_CAL_CTL_BUSY = false →
      Answers (.supCalAuto) s (fun t => if s.ramping then t.flag .SUP_CAL_CTL_DEFERRED = true ∧ t.sup.calDue =
        s.sup.calDue else t.sup.calDue = true)) ∧
    (s.flag .SUP_CAL_CTL_BUSY = true → s.sup.running = none → s.sup.pending = [] →
      Answers (.supCalDone) s (fun t => t.flag .SUP_CAL_CTL_BUSY = false ∧ t.rd .SUP_CAL_CTL_COUNT =
        (s.rd .SUP_CAL_CTL_COUNT + 1) % 2 ^ Row.SUP_CAL_CTL_COUNT.width ∧
        t.flag .SUP_EVT_CAL_DONE = true ∧ t.sup.stepped = List.range 24))

/-- The decoder: blocks, lock and the two raw defects. A block of a decoding receiver enters a window of 24; the oldest
one leaves and is counted; one with loss of signal or a non-zero syndrome is uncorrectable and ends the run of zero
syndromes. The decoder locks after 256 zero syndromes in succession. It loses lock after four superframes without a
correct block, outside the READY acquisition or without light, and then dFEC_SF is set. dFEC_SF rises after two
failing superframes and falls after eight clean ones. A window above the degrade level sets dFEC_SD.
(08_ubmus_fec.md: decoding, lock and defects (R165 to R174)) -/
def Obligations.UbmusDecoder : Prop :=
  ∀ (s : State) (w : Wing),
    (∀ (b : BlockRx) (h : HeldBlock) (rest : List HeldBlock), s.decodes w = true → (s.dec.get w).held = h :: rest →
      22 ≤ rest.length →
      Answers (.fecBlockDecode w b) s (fun t => t.rdWide .FEC_BLOCKS_LO_BLOCKS .FEC_BLOCKS_HI_BLOCKS [w.n] =
        (s.rdWide .FEC_BLOCKS_LO_BLOCKS .FEC_BLOCKS_HI_BLOCKS [w.n] + 1) % 2 ^ 64 ∧
        t.rdWide .FEC_UNCORR_LO_UNCORR .FEC_UNCORR_HI_UNCORR [w.n] =
          (s.rdWide .FEC_UNCORR_LO_UNCORR .FEC_UNCORR_HI_UNCORR [w.n] +
          (if (s.judgeBlock w h b.first b.bits b.iterations).zero then 0 else 1)) % 2 ^ 64 ∧
        (t.dec.get w).zeros = (if (s.judgeBlock w h b.first b.bits b.iterations).zero then
          min 256 ((s.dec.get w).zeros + 1) else 0) ∧
        t.rd .FEC_STAT_PROFILE_RX [w.n] = h.fec % 2 ^ Row.FEC_STAT_PROFILE_RX.width ∧
        (t.dec.get w).chain = couple (s.dec.get w).chain b.bits ∧ (t.dec.get w).held = rest ++ [s.entering w b] ∧
        (s.flag .OPT_RX_STAT_LOS [w.n] = true → (t.dec.get w).zeros = 0))) ∧
    (∀ (b : BlockRx), s.decodes w = true → (s.dec.get w).held.length < 23 →
      Answers (.fecBlockDecode w b) s (fun t => (t.dec.get w).held = (s.dec.get w).held ++ [s.entering w b] ∧
        t.store = s.store)) ∧
    (s.flag .FEC_STAT_LOCKED [w.n] = false → s.flag .RXW_HDR_STAT_MAP_VALID [w.n] = true → (s.dec.get w).zeros =
      256 →
      Answers (.fecLock w) s (fun t => t.flag .FEC_STAT_LOCKED [w.n] = true ∧ t.flag .FEC_EVT_LOCK [w.n] = true)) ∧
    (s.flag .FEC_STAT_LOCKED [w.n] = true →
      (decide (4 ≤ (s.dec.get w).dead) || !s.rxAtFec w || s.flag .OPT_RX_STAT_LOS [w.n]) = true →
      Answers (.fecLockLoss w) s (fun t => t.flag .FEC_STAT_LOCKED [w.n] = false ∧
        t.flag .FEC_EVT_LOCK_LOSS [w.n] = true ∧ t.flag .FEC_STAT_SF [w.n] = true ∧ (t.dec.get w).zeros = 0)) ∧
    (s.flag .FEC_STAT_SF [w.n] = false → 2 ≤ (s.dec.get w).failing →
      Answers (.dfecSfChange w) s (fun t => t.flag .FEC_STAT_SF [w.n] = true ∧ t.flag .FEC_EVT_SF_CHANGE [w.n] =
        true)) ∧
    (s.flag .FEC_STAT_SF [w.n] = true → s.flag .FEC_STAT_LOCKED [w.n] = true → 8 ≤ (s.dec.get w).clean →
      Answers (.dfecSfChange w) s (fun t => t.flag .FEC_STAT_SF [w.n] = false ∧ t.flag .FEC_EVT_SF_CHANGE [w.n] =
        true)) ∧
    (∀ (n : Nat), (s.dec.get w).window = some n → 64 ≤ n → (s.dec.get w).bits ≠ 0 →
      Answers (.dfecSdWindow w) s (fun t => t.flag .FEC_STAT_SD [w.n] =
        (if (s.dec.get w).degraded (s.rd .FEC_SF_CFG_SD_TH [w.n]) then true
          else if 1 ≤ (s.dec.get w).low then false else s.flag .FEC_STAT_SD [w.n]) ∧ (t.dec.get w).window =
          some 0 ∧ (t.dec.get w).errs = 0))

/-- The transmitter's announcement: begin, commit or withdraw, switch, retry. A ready transmitter that is not on the
intercom and wants a change announces it: STATE = ANNOUNCING, ANN_VALID with the next ANN_SEQ and the countdown of
R181, ANNOUNCE rung. At COUNTDOWN = 4 it commits with the acknowledgement or when unconfirmed, and withdraws
otherwise. A due switch puts the announced pair in force, counts it, rings SWITCH and leaves STATE IDLE, or FLOOR
while FLOOR is still sent. Four superframes after a withdrawal the change is announced again, or moves to the
intercom after RETRY_MAX withdrawals. ADV_STALE is set when no advice arrives. (09_elastic_capacity.md: the
handshake (R180 to R182, R185)) -/
def Obligations.AnnouncementHandshake : Prop :=
  ∀ (s : State) (w : Wing),
    (∀ (x : Wanted), s.txReady w = true → s.flag .ELC_HS_STAT_ICM_RC [w.n] = false → s.wanted w = some x →
      Answers (.announceStart w) s (fun t => t.rd .ELC_HS_STAT_STATE [w.n] = 1 ∧
        t.flag .TXW_LINE_NEXT_ANN_VALID [w.n] = true ∧
        t.rd .TXW_LINE_NEXT_ANN_SEQ [w.n] = ((s.tx.get w).annSeq + 1) % 16 ∧
        t.rd .TXW_LINE_NEXT_COUNTDOWN [w.n] = (s.leadOf w x).1 % 256 ∧
        t.flag .ELC_HS_STAT_UNCONFIRMED [w.n] = (s.leadOf w x).2 ∧ t.flag .ELC_EVT_ANNOUNCE [w.n] = true ∧
        (t.tx.get w).now = some x)) ∧
    (s.rd .ELC_HS_STAT_STATE [w.n] = 1 → s.flag .TXW_LINE_NEXT_ANN_VALID [w.n] = true →
      s.rd .TXW_LINE_NEXT_COUNTDOWN [w.n] = 4 →
      Answers (.annCommitPoint w) s (fun t => if (s.tx.get w).acked || s.flag .ELC_HS_STAT_UNCONFIRMED [w.n] then
          t.rd .ELC_HS_STAT_STATE [w.n] = 2 ∧ t.flag .ELC_EVT_COMMIT [w.n] = true
        else t.rd .ELC_HS_STAT_STATE [w.n] = 3 ∧ t.flag .TXW_LINE_NEXT_ANN_VALID [w.n] = false ∧
          t.flag .ELC_EVT_WITHDRAWN [w.n] = true)) ∧
    (∀ (x : Wanted), (s.tx.get w).switchDue = true → (s.tx.get w).now = some x →
      Answers (.rateSwitch w) s (fun t => t.rd .TXW_LINE_CUR_H_IDX [w.n] = x.h % 128 ∧
        t.rd .TXW_LINE_CUR_FEC [w.n] = x.fec % 2 ∧
        t.flag .TXW_LINE_NEXT_ANN_VALID [w.n] = false ∧ t.flag .ELC_EVT_SWITCH [w.n] = true ∧
        t.rd .ELC_HS_STAT_STATE [w.n] = (if x.mapOnly && s.flag .ELC_HS_STAT_FLOOR_TX [w.n] then 5 else 0) ∧
        (t.tx.get w).enabled = (s.tx.get w).annEnabled)) ∧
    (∀ (x : Wanted), s.wingRuns w = true → s.rd .ELC_HS_STAT_STATE [w.n] = 3 → 4 ≤ (s.tx.get w).sinceWithdrawal →
      s.wanted w = some x →
      Answers (.announceRetry w) s (fun t => if s.flag .ELC_HS_STAT_ICM_RC [w.n] ||
            decide (max 1 (s.rd .ELC_HS_CFG_RETRY_MAX [w.n]) ≤ s.rd .ELC_HS_STAT_RETRIES [w.n]) then
          t.rd .ELC_HS_STAT_STATE [w.n] = 4 ∧ (t.tx.get w).annSeq = ((s.tx.get w).annSeq + 1) % 16
        else t.rd .ELC_HS_STAT_STATE [w.n] = 1 ∧ t.flag .TXW_LINE_NEXT_ANN_VALID [w.n] = true ∧
          t.rd .TXW_LINE_NEXT_COUNTDOWN [w.n] = (s.leadOf w x).1 % 256)) ∧
    (s.wingRuns w = true →
      Answers (.advStale w) s (fun t => t.flag .ELC_HS_STAT_ADV_STALE [w.n] = true))

/-- Fall-back to the floor profile, mismatch and what follows. A trigger of a running wing that sends FLOOR = 0 takes
the transmitter to its floor pair with FLOOR = 1, records the cause, rings FALLBACK, counts it and leaves STATE
FLOOR, or HELD when it is the third within 60 s of module time; a trigger while FLOOR = 1 is already sent only
records its cause and abandons the change; while HELD it does nothing. A declared mismatch clears MAP_VALID and
enters FLOOR_FOLLOW with its cause. The policy resumes once both ends are at floor, acquired, and receive each
other's headers. RESUME leaves HELD at the transmitted boundary, and at once while the wing is stopped. FORCE_FLOOR
asks for a fall-back with cause 8. (09_elastic_capacity.md: mismatch and fall-back (R186, R187, R189, R193, R450)) -/
def Obligations.FallBackAndFloor : Prop :=
  ∀ (s : State) (w : Wing),
    (s.wingRuns w = true → (s.tx.get w).trigger ≠ 0 → s.rd .ELC_HS_STAT_STATE [w.n] ≠ 6 →
      s.flag .ELC_HS_STAT_FLOOR_TX [w.n] = false →
      Answers (.fallback w) s (fun t => t.flag .ELC_HS_STAT_FLOOR_TX [w.n] = true ∧ t.rd .ELC_RX_HS_CAUSE [w.n] =
        (s.tx.get w).trigger % 16 ∧
        (t.rx.get w).rstate = 5 ∧ (t.rx.get w).following = true ∧ t.flag .ELC_EVT_FALLBACK [w.n] = true ∧
        t.rd .ELC_CNT2_FALLBACKS [w.n] = (s.rd .ELC_CNT2_FALLBACKS [w.n] + 1) % 65536 ∧
        t.rd .TXW_LINE_CUR_H_IDX [w.n] = s.rd .ELC_FLOOR_H_IDX [w.n] % 128 ∧
        t.flag .TXW_LINE_NEXT_ANN_VALID [w.n] = false ∧
        t.rd .ELC_HS_STAT_STATE [w.n] =
          (if 2 ≤ ((s.tx.get w).falls.filter (fun x => decide (s.mt ≤ x + 60000000000))).length then 6 else 5))) ∧
    (s.wingRuns w = true → (s.tx.get w).trigger ≠ 0 → s.rd .ELC_HS_STAT_STATE [w.n] ≠ 6 →
      s.flag .ELC_HS_STAT_FLOOR_TX [w.n] = true →
      Answers (.fallback w) s (fun t => t.rd .ELC_RX_HS_CAUSE [w.n] = (s.tx.get w).trigger % 16 ∧
        t.rd .ELC_HS_STAT_STATE [w.n] = 5 ∧
        (t.tx.get w).now = none ∧ t.rd .ELC_CNT2_FALLBACKS [w.n] = s.rd .ELC_CNT2_FALLBACKS [w.n] ∧
        (t.tx.get w).falls = (s.tx.get w).falls)) ∧
    ((s.rx.get w).mismatch ≠ 0 →
      Answers (.mismatchDeclare w) s (fun t => t.flag .RXW_HDR_STAT_MAP_VALID [w.n] = false ∧ (t.rx.get w).rstate =
        5 ∧ (t.rx.get w).following = true ∧
        t.rd .ELC_RX_HS_CAUSE [w.n] = (s.rx.get w).mismatch % 16 ∧
        t.rd .ELC_CNT3_MISMATCH [w.n] = (s.rd .ELC_CNT3_MISMATCH [w.n] + 1) % 65536)) ∧
    (s.coreRuns = true → s.wingRuns w = true → s.floorMet w = true →
      Answers (.policyResume w) s (fun t => (t.tx.get w).resumed = true)) ∧
    (∀ (req : Req), s.takesFrom req = true → s.rd .ELC_HS_STAT_STATE [w.n] = 6 → s.wingStopped w = true →
      Answers (.resume req w) s (fun t => t.rd .ELC_HS_STAT_STATE [w.n] = 5 ∧ (t.tx.get w).falls = [])) ∧
    (∀ (req : Req), s.takesFrom req = true → s.wingStopped w = false →
      Answers (.resume req w) s (fun t => (t.tx.get w).resume = true ∧ t.rd .ELC_HS_STAT_STATE [w.n] =
        s.rd .ELC_HS_STAT_STATE [w.n])) ∧
    (∀ (req : Req), s.takesFrom req = true → s.rd .ELC_HS_STAT_STATE [w.n] ≠ 6 → (s.tx.get w).trigger = 0 →
      Answers (.forceFloor req w) s (fun t => (t.tx.get w).trigger = 8)) ∧
    (∀ (req : Req), s.takesFrom req = true → s.rd .ELC_HS_STAT_STATE [w.n] = 6 →
      Answers (.forceFloor req w) s (fun t => t.rd .ELC_HS_STAT_STATE [w.n] = 6 ∧ t.tx = s.tx))

/-- The intercom handshake and the host's rate commands. A ready transmitter on the intercom that wants a change enters
ICM_WAIT with the next ANN_SEQ and queues an ANNOUNCE; it resends it while fewer than three resends were made; after
the third the change fails with RC_FAIL, and a failed lowering asks for a fall-back with cause 7. The retry of a
failed ENABLE change is released. GO in MANUAL mode asks for the pair of ELC.CTL clipped to the floor and MAX_IDX,
which for the present pair is a map-only change; the mode field takes 0b11 as FROZEN; an ENABLE write of an existing
channel is stored. (09_elastic_capacity.md: the intercom handshake and the host's commands (R188, R192);
03_line_format.md: R69) -/
def Obligations.IntercomRateControl : Prop :=
  ∀ (s : State) (w : Wing),
    (∀ (x : Wanted), s.coreRuns = true → s.txReady w = true → s.flag .ELC_HS_STAT_ICM_RC [w.n] = true →
      s.wanted w = some x →
      Answers (.icmAnnounceStart w) s (fun t => t.rd .ELC_HS_STAT_STATE [w.n] = 4 ∧ (t.tx.get w).now = some x ∧
        (t.tx.get w).annSeq = ((s.tx.get w).annSeq + 1) % 16 ∧ (t.tx.get w).icmTries = 0 ∧
        (t.icm.get w).queue.any (fun m => icmRank m == 2) = true)) ∧
    (∀ (x : Wanted), s.coreRuns = true → (s.tx.get w).now = some x → s.rd .ELC_HS_STAT_STATE [w.n] = 4 →
      (s.tx.get w).icmTries < 3 → s.announceSent w = true →
      Answers (.icmAnnounceResend w) s (fun t => (t.tx.get w).icmTries = (s.tx.get w).icmTries + 1 ∧
        (t.icm.get w).queue.any (fun m => icmRank m == 2) = true)) ∧
    (∀ (x : Wanted), (s.tx.get w).now = some x → s.rd .ELC_HS_STAT_STATE [w.n] = 4 → 3 ≤ (s.tx.get w).icmTries →
      s.announceSent w = true →
      Answers (.icmHandshakeFail w) s (fun t => t.rd .ELC_HS_STAT_STATE [w.n] =
        (if s.flag .ELC_HS_STAT_FLOOR_TX [w.n] then 5 else 0) ∧
        t.flag .ELC_EVT_RC_FAIL [w.n] = true ∧ (t.tx.get w).now = none ∧
        ((s.tx.get w).trigger = 0 → (t.tx.get w).trigger = if s.classOf_ w x = .lowering then 7 else 0))) ∧
    (Answers (.enableChangeRetry w) s (fun t => (t.tx.get w).mapRetry = none)) ∧
    (∀ (req : Req), s.takesFrom req = true → s.rd .ELC_CTL_MODE [w.n] = 1 →
      Answers (.go req w) s (fun t => (t.tx.get w).want =
        some (s.asChange w ⟨(s.clipPair w (s.rd .ELC_CTL_H_IDX [w.n]) (s.rd .ELC_CTL_FEC [w.n])).1,
        (s.clipPair w (s.rd .ELC_CTL_H_IDX [w.n]) (s.rd .ELC_CTL_FEC [w.n])).2, false⟩))) ∧
    (∀ (req : Req) (mode : Fin 4), s.takesFrom req = true →
      Answers (.elcModeSet req w mode) s (fun t => t.rd .ELC_CTL_MODE [w.n] = min 2 (mode : Nat))) ∧
    (∀ (req : Req) (n : Fin 32) (on : Bool), s.takesFrom req = true → (n : Nat) < s.chanCount w →
      Answers (.chanEnableWrite req w n on) s (fun t => t.flag .ELC_CHAN_CFG_ENABLE [w.n, n] = on))

/-- The intercom transmitter: bursts and the timers that queue messages. A transmitter that may send takes the head
message of its queue into a burst, counts it and advances MSEQ; the burst ends. The advice, bring-up, tag and alarm
timers queue a message of their kind. SEND queues a USER message, and refuses a fifth with USER_REFUSED.
(10_intercom.md: sending (R195, R198, R200, R202, R203, R211); 09_elastic_capacity.md: R179) -/
def Obligations.IntercomSending : Prop :=
  ∀ (s : State) (w : Wing),
    (∀ (m : IcmMsg), s.icmSends w = true → icmHead (s.icm.get w).queue = some m →
      Answers (.icmBurstStart w) s (fun t => (t.icm.get w).burst = some (s.startMsg w m) ∧ t.out =
        [.burst w (s.startMsg w m) (s.burst w (s.startMsg w m))] ∧
        (t.icm.get w).queue = (s.icm.get w).queue.erase m ∧ (t.icm.get w).mseq = ((s.icm.get w).mseq + 1) % 256 ∧
        t.rd .ICM_CNT4_TX_FRAMES [w.n] = (s.rd .ICM_CNT4_TX_FRAMES [w.n] + 1) % 65536)) ∧
    (Answers (.icmBurstEnd w) s (fun t => (t.icm.get w).burst = none)) ∧
    (s.coreRuns = true → s.wingRuns w = true → s.flag .ELC_ADV_TX_VALID [w.n] = true → s.adviceByIcm w = true →
      Answers (.icmAdviceRepeat w) s (fun t => (t.icm.get w).queue.any (fun m => icmRank m == 3) = true)) ∧
    (s.coreRuns = true → s.isRunning = true → s.wingEnabled w = true →
      Answers (.icmBringupTimer w) s (fun t => (t.icm.get w).queue.any (fun m => icmRank m == 4) = true)) ∧
    (s.coreRuns = true → s.isRunning = true → s.wingEnabled w = true → s.rd .ICM_TAG_CFG_PERIOD [w.n] ≠ 0 →
      Answers (.icmTagTimer w) s (fun t => (t.icm.get w).queue.contains (.tag (s.tagBytes w)) = true)) ∧
    (s.coreRuns = true → s.isRunning = true → s.wingEnabled w = true → s.alarmBits w ≠ 0 →
      Answers (.icmAlarmRepeat w) s (fun t => (t.icm.get w).queue.any (fun m => icmRank m == 1) = true ∧
        (t.icm.get w).alarmBits = s.alarmBits w)) ∧
    (∀ (req : Req), s.takesFrom req = true →
      Answers (.userSend req w) s (fun t => if 4 ≤ (ofRank (s.icm.get w).queue 6).length then
        t.flag .ICM_EVT_USER_REFUSED [w.n] = true ∧ (t.icm.get w).queue = (s.icm.get w).queue
        else (t.icm.get w).queue = (s.icm.get w).queue ++ [.user (s.userBytes w)]))

/-- The intercom receiver: preambles, failures, capture and the messages. A listening receiver that searches declares a
preamble and freezes its AGC; chirps that leave a frame incomplete move the receiver on; a frame abandoned counts
its failure and returns to the search; a stronger preamble captures the receiver. A valid frame of the own network
counts in RX_OK and acts: advice that is new is recorded and rings, an acceptable ANNOUNCE is acknowledged, an ACK
of the announcement that waits commits it, BRINGUP shows the far floor, TAG, ALARM and USER are shown.
(10_intercom.md: receiving (R196, R204 to R208, R211)) -/
def Obligations.IntercomReceiving : Prop :=
  ∀ (s : State) (w : Wing),
    (∀ (peaks : List (Nat × Nat)), s.icmHears w = true → s.rd .ICM_RX_STAT_STATE [w.n] = 0 →
      preamble (s.rxSf w) (s.rd .ICM_RX_CFG_DET_TH [w.n]) peaks = true →
      Answers (.icmPreambleDetect w peaks) s (fun t => t.rd .ICM_RX_STAT_STATE [w.n] = 1 ∧
        t.flag .ICM_RX_STAT_AGC_FROZEN [w.n] = true ∧ (t.icm.get w).bin = (peaks.getLastD (0, 0)).1 % 2 ^ s.rxSf w ∧
        t.rd .ICM_CNT0_DETECT [w.n] = (s.rd .ICM_CNT0_DETECT [w.n] + 1) % 65536)) ∧
    (∀ (rx : IcmRx) (why : IcmFail), s.rd .ICM_RX_STAT_STATE [w.n] ≠ 0 → s.icmHears w = true →
      s.icmHeard w rx.chirps = .fail why →
      Answers (.icmFrameAbandon w rx) s (fun t => t.rd .ICM_RX_STAT_STATE [w.n] = 0 ∧
        t.flag .ICM_RX_STAT_AGC_FROZEN [w.n] = false ∧ t.rd (failRow why) [w.n] = (s.rd (failRow why) [w.n] +
          1) % 65536)) ∧
    (∀ (rx : IcmRx) (k : Nat), s.rd .ICM_RX_STAT_STATE [w.n] ≠ 0 → s.icmHears w = true → s.icmHeard w rx.chirps =
      .going k → k < 4 →
      Answers (.icmFrameAbandon w rx) s (fun t => t.rd .ICM_RX_STAT_STATE [w.n] = k ∧ (t.icm.get w).chirps =
        (s.icm.get w).chirps ++ rx.chirps)) ∧
    (∀ (peaks : List (Nat × Nat)) (chirps : List RxChirp) (k : Nat), s.rd .ICM_RX_STAT_STATE [w.n] ≠ 0 →
      s.icmHears w = true → s.icmPreamble w peaks = true → s.icmStronger w (peaks.getLastD (0, 0)) = true →
        s.icmHeard w chirps = .going k →
      Answers (.icmCapture w peaks chirps) s (fun t => if s.icmHeard w chirps = .going 3 ∧
        s.flag .ICM_RX_CFG_CAPTURE [w.n] = false then
          t.rd .ICM_CNT3_CAPT_IGNORED [w.n] = (s.rd .ICM_CNT3_CAPT_IGNORED [w.n] + 1) % 65536 ∧
          t.rd .ICM_RX_STAT_STATE [w.n] = 3
        else t.rd .ICM_CNT3_CAPTURED [w.n] = (s.rd .ICM_CNT3_CAPTURED [w.n] + 1) % 65536 ∧
          (t.icm.get w).bin = (peaks.getLastD (0, 0)).1 % 2 ^ s.rxSf w ∧ (t.icm.get w).chirps = [])) ∧
    (∀ (rx : IcmRx) (id mseq : Nat) (bytes : List Nat) , s.icmReceives w = true → s.icmHeard w rx.chirps =
      .frame id 1 mseq bytes → s.flag .ELC_ADV_RX_VALID [w.n] = false →
      Answers (.icmAdviceRx w rx) s (fun t => t.flag .ELC_HS_STAT_ADV_STALE [w.n] = false ∧
        t.flag .ELC_ADV_RX_VALID [w.n] = true ∧ t.rd .ELC_ADV_RX_SEQ [w.n] = bytes.getD 0 0 % 16 ∧
        t.rd .ELC_ADV_RX_H_IDX [w.n] = bytes.getD 1 0 % 128 ∧ t.flag .ELC_EVT_ADV_RX [w.n] = true ∧
          t.rd .ICM_RX_STAT_STATE [w.n] = 0 ∧
        t.rd .ICM_CNT0_RX_OK [w.n] = (s.rd .ICM_CNT0_RX_OK [w.n] + 1) % 65536)) ∧
    (∀ (rx : IcmRx) (id mseq : Nat) (bytes : List Nat) , s.icmReceives w = true → s.icmHeard w rx.chirps =
      .frame id 2 mseq bytes →
      Answers (.icmAnnounceRx w rx) s (fun t => (if s.acceptable w (s.rd .RXW_RATE_BAUD [w.n]) (s.rd
        .RXW_LINE_CUR_H_IDX [w.n]) (s.rd .RXW_LINE_CUR_FEC [w.n]) (bytes.getD 1 0 % 128) (bytes.getD 2 0 % 2) then
          (t.icm.get w).queue.contains (.ack (bytes.getD 0 0 % 16)) = true
        else t.rd .ELC_CNT3_REFUSED [w.n] = (s.rd .ELC_CNT3_REFUSED [w.n] + 1) % 65536) ∧
          t.rd .ICM_RX_STAT_STATE [w.n] = 0 ∧
        t.rd .ICM_CNT0_RX_OK [w.n] = (s.rd .ICM_CNT0_RX_OK [w.n] + 1) % 65536)) ∧
    (∀ (rx : IcmRx) (id mseq : Nat) (bytes : List Nat) (x : Wanted), s.icmReceives w = true →
      s.icmHeard w rx.chirps = .frame id 3 mseq bytes → s.rd .ELC_HS_STAT_STATE [w.n] = 4 → (s.tx.get w).now =
        some x → (s.tx.get w).annSeq = bytes.getD 0 0 % 16 →
      Answers (.icmAckRx w rx) s (fun t => t.rd .ELC_HS_STAT_STATE [w.n] = 2 ∧ t.flag .ELC_EVT_COMMIT [w.n] =
        true ∧ t.flag .TXW_LINE_NEXT_ANN_VALID [w.n] = true ∧
        t.rd .TXW_LINE_NEXT_ANN_SEQ [w.n] = (s.tx.get w).annSeq % 16 ∧ t.rd .ICM_RX_STAT_STATE [w.n] = 0 ∧
        t.rd .ICM_CNT0_RX_OK [w.n] = (s.rd .ICM_CNT0_RX_OK [w.n] + 1) % 65536)) ∧
    (∀ (rx : IcmRx) (id mseq : Nat) (bytes : List Nat) , s.icmReceives w = true → s.icmHeard w rx.chirps =
      .frame id 4 mseq bytes →
      Answers (.icmBringupRx w rx) s (fun t => t.flag .ICM_BR0_VALID [w.n] = true ∧ t.flag .ICM_BR0_HEARD [w.n] =
        decide (bytes.getD 0 0 % 2 = 1) ∧ t.rd .ELC_FLOOR_RX_H_IDX [w.n] = bytes.getD 8 0 % 128 ∧
        t.rd .ELC_FLOOR_RX_FEC [w.n] = bytes.getD 9 0 % 2 ∧ (t.icm.get w).heard = true ∧
          t.rd .ICM_RX_STAT_STATE [w.n] = 0 ∧
        t.rd .ICM_CNT0_RX_OK [w.n] = (s.rd .ICM_CNT0_RX_OK [w.n] + 1) % 65536)) ∧
    (∀ (rx : IcmRx) (id mseq : Nat) (bytes : List Nat) , s.icmReceives w = true → s.icmHeard w rx.chirps =
      .frame id 5 mseq bytes →
      Answers (.icmTagRx w rx) s (fun t => (∀ k : Fin 4, t.rd .ICM_TAG_RX_BYTES [w.n, k] =
        (wordsOf 4 bytes).getD k 0) ∧ t.rd .ICM_RX_STAT_STATE [w.n] = 0 ∧
        t.rd .ICM_CNT0_RX_OK [w.n] = (s.rd .ICM_CNT0_RX_OK [w.n] + 1) % 65536)) ∧
    (∀ (rx : IcmRx) (id mseq : Nat) (bytes : List Nat) , s.icmReceives w = true → s.icmHeard w rx.chirps =
      .frame id 6 mseq bytes →
      Answers (.icmAlarmRx w rx) s (fun t => t.rd .ICM_FAR_ALARM_ALARMS [w.n] = bytes.getD 0 0 % 64 ∧
        (bytes.getD 0 0 % 64 ≠ s.rd .ICM_FAR_ALARM_ALARMS [w.n] → t.flag .ICM_EVT_ALARM_RX [w.n] = true) ∧
          t.rd .ICM_RX_STAT_STATE [w.n] = 0 ∧
        t.rd .ICM_CNT0_RX_OK [w.n] = (s.rd .ICM_CNT0_RX_OK [w.n] + 1) % 65536)) ∧
    (∀ (rx : IcmRx) (id mseq : Nat) (bytes : List Nat) , s.icmReceives w = true → s.icmHeard w rx.chirps =
      .frame id 7 mseq bytes →
      Answers (.icmUserRx w rx) s (fun t => (if 4 ≤ (s.icm.get w).mailbox.length then
        t.flag .ICM_EVT_USER_OVF [w.n] = true ∧ (t.icm.get w).mailbox = (s.icm.get w).mailbox
        else t.flag .ICM_EVT_USER_RX [w.n] = true ∧ (t.icm.get w).mailbox = (s.icm.get w).mailbox ++ [(mseq % 256,
          bytes)]) ∧ t.rd .ICM_RX_STAT_STATE [w.n] = 0 ∧
        t.rd .ICM_CNT0_RX_OK [w.n] = (s.rd .ICM_CNT0_RX_OK [w.n] + 1) % 65536)) ∧
    (Answers (.farAlarmTimeout w) s (fun t => t.rd .ICM_FAR_ALARM_ALARMS [w.n] = 0)) ∧
    (∀ (req : Req), s.takesFrom req = true →
      Answers (.userPop req w) s (fun t => (t.icm.get w).mailbox = (s.icm.get w).mailbox.drop 1 ∧
        t.flag .ICM_USER_RX_CTL_VALID [w.n] = !((s.icm.get w).mailbox.drop 1).isEmpty))

/-- Overhead frames, alignment, defects, failures and APS acceptance. A running wing whose superframe has room, and
whose encrypted channels have enough to send, sends a frame with its MFAS and advances it modulo 256. A FAS match
that confirms a candidate for the second time is in-frame; five frames with an errored FAS are out of frame, and out
of multiframe; five unexpected MFAS are out of multiframe. The frame at the expected start of the stream is counted
with its BIP violations, and its errored FAS counts. A defect takes its verdict; a failure is declared while its
defect is present and cleared while it is not. A member's APS value is accepted after three equal frames. A GCC0
message counts, or its CRC error does. (11_otn_overhead.md: frames, alignment, defects, failures and APS (R216 to
R237)) -/
def Obligations.OverheadProcessor : Prop :=
  ∀ (s : State) (w : Wing),
    (s.wingRuns w = true → s.takesFrame w = true → (List.range 32).all (s.filled w (s.txMap w)) = true →
      Answers (.otnFrameTx w) s (fun t =>
        (let f := s.begin.nextFrame w (s.txMap w) (s.begin.fillSlots w (s.txMap w) 32).1;
        t.out.getLast? = some (.otn w f) ∧ f.mfas = (s.otn.get w).mfas ∧ (t.otn.get w).mfas = ((s.otn.get w).mfas +
          1) % 256 ∧
        t.flag .OHD_PM_TX_BDI [w.n, f.mfas % 32] = f.pmBdi ∧
        (t.otn.get w).phi = ((s.otn.get w).phi +
          spacingS (s.rd .TXW_LINE_CUR_BAUD [w.n]) (s.rd .TXW_LINE_CUR_H_IDX [w.n])
          (s.rd .TXW_LINE_CUR_FEC [w.n])) % 2 ^ 24))) ∧
    (∀ (x : Candidate), s.flag .FEC_STAT_LOCKED [w.n] = true → s.flag .OHD_FR_STAT_IF [w.n] = false →
      fasAt (s.otn.get w).line = true →
        (s.otn.get w).cands.find? (fun c => (s.otn.get w).pos == (s.otn.get w).due c || (s.otn.get w).pos ==
          (s.otn.get w).due c + 1) = some x → x.hits = 1 →
      Answers (.fasSearchMatch w) s (fun t => t.flag .OHD_FR_STAT_IF [w.n] = true ∧
        t.flag .OHD_FR_STAT_SEARCHING [w.n] = false ∧ t.flag .OHD_EVT_IF_CHANGE [w.n] = true ∧
          t.rd .OHD_FR_STAT_CANDS [w.n] = 0)) ∧
    (s.flag .OHD_FR_STAT_IF [w.n] = true → 5 ≤ (s.otn.get w).badFas →
      Answers (.oofDeclare w) s (fun t => t.flag .OHD_FR_STAT_IF [w.n] = false ∧ t.flag .OHD_FR_STAT_IM [w.n] =
        false ∧ t.flag .OHD_FR_STAT_SEARCHING [w.n] = true ∧ t.flag .OHD_EVT_IF_CHANGE [w.n] = true)) ∧
    (s.flag .OHD_FR_STAT_IM [w.n] = true → 5 ≤ (s.otn.get w).badMfas →
      Answers (.oomDeclare w) s (fun t => t.flag .OHD_FR_STAT_IM [w.n] = false ∧
        t.flag .OHD_FR_STAT_MFX_VALID [w.n] = false ∧ (t.otn.get w).badMfas = 0)) ∧
    (∀ (f : OtnFrame), s.rxFrame w = some f → f.fasErrored = false ∨ (s.otn.get w).badFas < 4 →
      Answers (.otnFrameRx w) s (fun t => t.rd .OHD_FR_STAT_MFAS [w.n] = f.mfas % 256 ∧ (t.otn.get w).badFas =
        (if f.fasErrored then (s.otn.get w).badFas + 1 else 0) ∧ (t.otn.get w).bei = (s.otn.get w).violations f ∧
        t.rd .OHD_SMC_FRAMES_COUNT [w.n] =
          satAdd Row.OHD_SMC_FRAMES_COUNT.width (s.rd .OHD_SMC_FRAMES_COUNT [w.n]) 1 ∧
        (s.flag .OHD_SM_DEF_IAE [w.n] = false → t.rd .OHD_SMC_NE_BIP_COUNT [w.n] =
          satAdd Row.OHD_SMC_NE_BIP_COUNT.width (s.rd .OHD_SMC_NE_BIP_COUNT [w.n]) ((s.otn.get w).violations f)) ∧
        (t.otn.get w).heard = (bip8 (f.cont.map (fun e => bip8 e.2)) :: (s.otn.get w).heard).take 2)) ∧
    (∀ (f : OtnFrame), s.rxFrame w = some f → f.fasErrored = true → (s.otn.get w).badFas = 4 →
      Answers (.otnFrameRx w) s (fun t => (t.otn.get w).badFas = 5 ∧ t.store = s.store)) ∧
    (∀ (d : Fin 14) (ch : Fin 32) (on : Bool), (d : Nat) < 8 → s.smVerdict w d = some on →
      Answers (.defectChange w d ch) s (fun t => t.flag (smDefRow d) [w.n] = on)) ∧
    (∀ (d : Fin 14) (ch : Fin 32) (on : Bool), 8 ≤ (d : Nat) → s.pmVerdict w ch d = some on →
      Answers (.defectChange w d ch) s (fun t => t.pmDef w ch (13 - d) = on)) ∧
    (Answers (.degEval w false) s (fun t => (t.otn.get w).tenth = (0, 0) ∧ (t.otn.get w).window =
      (if (s.otn.get w).ssfTenth then (s.otn.get w).window
          else ((s.otn.get w).tenth :: (s.otn.get w).window).take (max 1 (s.rd .OHD_DEG_RATE_WIN [w.n, 0]))))) ∧
    (s.flag .OHD_DEG_CFG_MODE [w.n, 0] = false →
      Answers (.degEval w true) s (fun t => (t.otn.get w).degRun =
        degSecond (s.otn.get w).degRun (s.otn.get w).ssfLast (s.rd .OHD_SMC_PS_NE_EB_COUNT [w.n]) (s.rd
          .OHD_DEG_CFG_DEGTHR [w.n, 0]))) ∧
    (∀ (d : Fin 14) (ch : Fin 32), (d : Nat) < 8 → s.defectOn w d ch = true →
      Answers (.failureDeclare w d ch) s (fun t => (t.otn.get w).fail.testBit d = true ∧ t.rd (smFailRow d) [w.n] =
        bitNat ((smReported (t.otn.get w).fail).testBit d))) ∧
    (∀ (d : Fin 14) (ch : Fin 32), (d : Nat) < 8 → s.defectOn w d ch = false →
      Answers (.failureClear w d ch) s (fun t => (t.otn.get w).fail.testBit d = false ∧
        t.flag (smFailRow d) [w.n] = false)) ∧
    (∀ (ch : Fin 32) (g : Nat), s.groupOf (chanIndex w ch) = some g → 3 ≤ (s.pm w ch).apsRun →
      (s.pm w ch).aps ≠ s.rd .OHD_APS_RX_VALUE [w.n, ch] →
      Answers (.apsAccept w ch) s (fun t => t.rd .OHD_APS_RX_VALUE [w.n, ch] = (s.pm w ch).aps % 2 ^ 32 ∧
        t.flag .OHD_EVT_APS_RX [w.n] = true ∧ (tabGet Group.reset t.groups g).later = w)) ∧
    (∀ (m : List Nat) (rest : List (List Nat)), (s.otn.get w).gccMsgs = m :: rest →
      Answers (.gcc0MsgRx w) s (fun t => (t.otn.get w).gccMsgs = rest ∧ (if gccGood m then
        t.rd .OHD_GCC_STAT_RX_MSG [w.n] = (s.rd .OHD_GCC_STAT_RX_MSG [w.n] + 1) % 2 ^ Row.OHD_GCC_STAT_RX_MSG.width
        else t.rd .OHD_GCC_STAT_CRC_ERR [w.n] = (s.rd .OHD_GCC_STAT_CRC_ERR [w.n] +
          1) % 2 ^ Row.OHD_GCC_STAT_CRC_ERR.width)))

/-- Protection groups: conditions, commands and the failure of protocol. A member condition that leaves OK while no
hold-off applies is taken and the requests are evaluated; with a hold-off it is held first. A hold-off that ends
takes the condition as it stands. Every command that outranks the local request of its group is held, and any other
is refused; CLEAR ends the command and wait-to-restore. Lockout of protection and a forced switch select working and
protection at once in a group without bidirectional switching. A failure of protocol is raised and cleared with its
cause. (12_line_protection.md: conditions, requests, commands and failure of protocol (R245 to R252)) -/
def Obligations.LineProtection : Prop :=
  ∀ (s : State) (g : Fin 8),
    (∀ (m : Wing), s.flag .HAL_PG_MEMBERS_VALID [g] = true → s.halted 3 = false → s.holding g m = false →
      s.rd (condRow m) [g] = 0 → s.memberCond g m ≠ 0 →
      Answers (.pgConditionChange g m) s (fun t => if s.rd .HAL_PG_CFG_HOLDOFF [g] = 0 then t.rd (condRow m) [g] =
        s.memberCond g m ∧ t.holding g m = false
        else t.rd (condRow m) [g] = s.memberCond g m ∧ t.holding g m = true)) ∧
    (∀ (m : Wing), s.holding g m = true → s.halted 3 = false →
      Answers (.holdoffExpiry g m) s (fun t => t.holding g m = false ∧ t.rd (condRow m) [g] = s.memberCond g m)) ∧
    (s.flag .HAL_PG_STAT_WTR_RUN [g] = true → s.halted 3 = false →
      Answers (.wtrExpiry g) s (fun t => t.flag .HAL_PG_STAT_WTR_RUN [g] = false)) ∧
    (∀ (req : Req), s.takesFrom req = true →
      Answers (.pgClear req g) s (fun t => t.rd .HAL_PG_STAT_CMD_HELD [g] = 0 ∧ t.flag .HAL_PG_STAT_WTR_RUN [g] =
        false)) ∧
    (∀ (req : Req), s.takesFrom req = true → s.flag .HAL_PG_MEMBERS_VALID [g] = true →
      Answers (.pgLockout req g) s (fun t => (if 1 < (s.localAsk g).prio then t.rd .HAL_PG_STAT_CMD_HELD [g] = 2 ∧
        (s.flag .HAL_PG_CFG_BIDIR [g] = false → s.halted 3 = false → t.selected g = t.working g)
          else t.flag .HAL_PG_STAT_CMD_REFUSED [g] = true)) ∧
      Answers (.pgForce req g) s (fun t => (if 3 < (s.localAsk g).prio then t.rd .HAL_PG_STAT_CMD_HELD [g] = 3 ∧
        (s.flag .HAL_PG_CFG_BIDIR [g] = false → s.halted 3 = false → t.selected g = (t.working g).other)
          else t.flag .HAL_PG_STAT_CMD_REFUSED [g] = true)) ∧
      Answers (.pgManualP req g) s (fun t => (if 7 < (s.localAsk g).prio then t.rd .HAL_PG_STAT_CMD_HELD [g] = 4 ∧
        (s.flag .HAL_PG_CFG_BIDIR [g] = false → s.halted 3 = false → t.selected g = (t.working g).other)
          else t.flag .HAL_PG_STAT_CMD_REFUSED [g] = true)) ∧
      Answers (.pgManualW req g) s (fun t => (if 7 < (s.localAsk g).prio then t.rd .HAL_PG_STAT_CMD_HELD [g] = 5 ∧
        (s.flag .HAL_PG_CFG_BIDIR [g] = false → s.halted 3 = false → t.selected g = t.working g)
          else t.flag .HAL_PG_STAT_CMD_REFUSED [g] = true))) ∧
    (s.flag .HAL_PG_CFG_BIDIR [g] = true → s.fopCause g = true → s.flag .HAL_PG_STAT_FOP [g] = false → s.halted 3 =
      false →
      Answers (.fopRaise g) s (fun t => t.flag .HAL_PG_STAT_FOP [g] = true ∧ (t.rd .HAL_PG_EVT_FOP).testBit g =
        true ∧ t.rd .HAL_PG_CNT_FOP [g] = (s.rd .HAL_PG_CNT_FOP [g] + 1) % 65536)) ∧
    (s.flag .HAL_PG_STAT_FOP [g] = true → s.fopCause g = false → s.halted 3 = false →
      Answers (.fopClear g) s (fun t => t.flag .HAL_PG_STAT_FOP [g] = false))

/-- Segments and pipelines: opening, verifying, rolling and retiring. A transmit segment of an enabled enciphered
channel without a usable key is void and carries phase 0; one on the CURRENT slot counts an invocation and opens a
context. A received segment while unaligned confirms or not, and two in succession align; an aligned channel whose
slot is CURRENT decrypts it, counting SEG_OK or AUTH_FAIL. Alignment is lost after three missed positions, and void
segments are no longer shown as received. ROLL marks a due rollover when the other slot is NEXT. A RETIRING slot
with nothing open ends EMPTY, or holds the material that waited, and rings. A run that ends frees its pipeline; an
urgent context preempts a bulk run. (13_cipher_cupboard.md: segments, rollover, retirement and pipelines (R256 to
R267, R273)) -/
def Obligations.SegmentsAndPipelines : Prop :=
  ∀ s : State,
    (∀ (ch : Fin 64), s.isC0 = false → s.chanCipher ch = true → s.chanEnabled ch = true → s.chanSlots ch ≠ 0 →
      s.wingRuns (chanWing ch) = true → s.cip.contexts.length < 4096 → s.sentStat (chanWing ch) (chanNum ch) ≠ 5 →
        (s.halted 4 = true ∨ (∀ k : Fin 2, s.slotState (slotOf ch 0 k) = 0)) →
      Answers (.segmentTxStart ch) s (fun t => t.flag .CIP_CH_STAT_TX_VOID [ch] = true ∧
        t.rd .CIP_CH_STAT_TX_KP [ch] = 0 ∧ t.out = [.segment ch true 0 0])) ∧
    (∀ (ch : Fin 64), s.isC0 = false → s.chanCipher ch = true → s.chanEnabled ch = true → s.chanSlots ch ≠ 0 →
      s.wingRuns (chanWing ch) = true → s.cip.contexts.length < 4096 → s.sentStat (chanWing ch) (chanNum ch) ≠ 5 →
        s.halted 4 = false → s.slotState (slotOf ch 0 0) = 3 → s.slotState (slotOf ch 0 1) = 0 → s.ras.injected =
          [] → s.cip.rollDue = [] → s.foundAt (lineAt 5 (slotOf ch 0 0)) .clean = .clean →
      Answers (.segmentTxStart ch) s (fun t => t.flag .CIP_CH_STAT_TX_VOID [ch] = false ∧
        t.rd .CIP_CH_STAT_TX_KP [ch] = 0 ∧ t.cip.nextId = s.cip.nextId + 1 ∧
        t.rd .CIP_SLOT_USAGE_USAGE [slotOf ch 0 0] = min (2 ^ 31) (s.rd .CIP_SLOT_USAGE_USAGE [slotOf ch 0 0] + 1))) ∧
    (∀ (ch : Fin 64) (seg : Segment), s.isC0 = false → s.chanCipher ch = true → s.delivers (chanWing ch) = true →
      s.rxSlots (chanWing ch) (chanNum ch) ≠ 0 → s.wingRuns (chanWing ch) = true → s.halted 4 = false →
        s.flag .CIP_CH_STAT_SEG_LOCK [ch] = false →
      Answers (.segmentRx ch seg) s (fun t => t.flag .CIP_CH_STAT_SEG_LOCK [ch] =
        decide (2 ≤ (if segConfirmed seg then tabGet 0 s.cip.confirms ch + 1 else 0)) ∧ tabGet 0 t.cip.segs ch =
          tabGet 0 s.cip.segs ch + 1)) ∧
    (∀ (ch : Fin 64) (seg : Segment), s.isC0 = false → s.chanCipher ch = true → s.delivers (chanWing ch) = true →
      s.rxSlots (chanWing ch) (chanNum ch) ≠ 0 → s.wingRuns (chanWing ch) = true → s.halted 4 = false →
        s.flag .CIP_CH_STAT_SEG_LOCK [ch] = true → ssbOk seg.ssb = true → ssbVoid seg.ssb = false →
          s.cip.spoiled.contains (ch : Nat) = false → s.slotState (slotOf ch 1 (bitNat (ssbKp seg.ssb))) = 3 →
          s.rd .CIP_SLOT_USAGE_USAGE [slotOf ch 1 (bitNat (ssbKp seg.ssb))] ≤ ssbCounter seg.ssb →
          s.foundAt (lineAt 5 (slotOf ch 1 (bitNat (ssbKp seg.ssb)))) .clean = .clean → s.rxCtx ch =
          true ∨ s.cip.contexts.length < 4096 →
      Answers (.segmentRx ch seg) s (fun t => (if tagVerifies (tabGet KeySlot.empty s.cip.slots (slotOf ch 1 (bitNat
        (ssbKp seg.ssb)))).material seg then t.rd .CIP_SEG_OK_COUNT [ch] =
          satAdd Row.CIP_SEG_OK_COUNT.width (s.rd .CIP_SEG_OK_COUNT [ch]) 1
        else t.rd .CIP_AUTH_FAIL_COUNT [ch] =
          satAdd Row.CIP_AUTH_FAIL_COUNT.width (s.rd .CIP_AUTH_FAIL_COUNT [ch]) 1 ∧ t.flag .CIP_EVT_AUTH_FAIL =
          true))) ∧
    (∀ (ch : Fin 64), s.flag .CIP_CH_STAT_SEG_LOCK [ch] = true → 3 ≤ tabGet 0 s.cip.missed ch →
      Answers (.segLockLoss ch) s (fun t => t.flag .CIP_CH_STAT_SEG_LOCK [ch] = false ∧
        t.flag .CIP_CH_STAT_RX_VOID [ch] = false ∧ t.flag .CIP_EVT_SEG_LOSS = true)) ∧
    (∀ (req : Req) (ch : Fin 64), s.takesFrom req = true → s.slotState (slotOf ch 0 0) = 3 →
      s.slotState (slotOf ch 0 1) = 2 →
      Answers (.roll req ch) s (fun t => t.cip.rollDue.contains (ch : Nat) = true)) ∧
    (∀ (slot : Fin 256), s.secRuns = true → s.slotState slot = 4 → s.cip.contexts = [] → (s.keySlot slot).next =
      none →
      Answers (.retirementComplete slot) s (fun t => (s.isKem ((slot : Nat) / 4) = false → t.slotState slot = 0 ∧
        (t.keySlot slot).material = 0) ∧ t.flag .CIP_EVT_RETIRED = true)) ∧
    (∀ (slot : Fin 256) (key : Nat), s.secRuns = true → s.slotState slot = 4 → s.cip.contexts = [] →
      (s.keySlot slot).next = some key →
      Answers (.retirementComplete slot) s (fun t => t.slotState slot = (if s.slotState ((slot : Nat) ^^^ 1) =
        3 then 2 else 3) ∧ (t.keySlot slot).material = key ∧ t.rd .CIP_SLOT_USAGE_USAGE [slot] = 0 ∧
          t.flag .CIP_EVT_RETIRED = true)) ∧
    (∀ (p : Fin 16) (k : Nat) (x : Context), s.halted 4 = false → s.cip.pipes = [((p : Nat), ⟨some k, none⟩)] →
      s.cip.contexts = [x] → x.id = k → x.isRx = false → x.bytes ≤ 1024 → s.cip.ready = [] →
        s.foundAt (lineAt 2 x.place) .clean = .clean →
      Answers (.pipelineRunEnd p) s (fun t => t.cip.pipes = [] ∧ t.cip.contexts = [])) ∧
    (∀ (left : List Nat) (k p : Nat), s.halted 4 = false → (List.range 16).all (fun p => (s.pipe p).run.isSome) =
      true → s.cip.ready.find? s.ctxUrgent = some k → s.victim left = some p →
      Answers (.preempt left) s (fun t => (t.pipe p).run = some k ∧ (t.pipe p).suspended = (s.pipe p).run ∧
        t.rd .CIP_PREEMPTS_COUNT = (s.rd .CIP_PREEMPTS_COUNT + 1) % 2 ^ Row.CIP_PREEMPTS_COUNT.width))

/-- The cupboard's commands: load, erase and report. A LOAD is refused with the first reason of R269 that holds, and
otherwise its material reaches the slot and BUSY is set; an ERASE of an EMPTY, PENDING or NEXT slot zeroises it and
of a slot in use retires it; LOAD_KEK keeps the KEK or reports its failed transfer; the reporting commands run while
the cupboard is not busy, and an ATTEST takes its nonce. When the command is done BUSY falls and the attestation,
certificate or key reported has gone to host memory. (13_cipher_cupboard.md: the cupboard (R263 to R269, R272,
R274)) -/
def Obligations.CupboardCommands : Prop :=
  ∀ s : State,
    (∀ (req : Req) (slot : Fin 512) (r : Nat), s.takesFrom req = true → s.secRuns = true → s.loadReason slot =
      some r →
      Answers (.keyLoad req slot) s (fun t => t.flag .SEC_KEY_STAT_REFUSED = true ∧ t.rd .SEC_KEY_STAT_REASON =
        r % 16 ∧ t.cip = s.cip)) ∧
    (∀ (req : Req) (slot : Fin 512), s.takesFrom req = true → s.secRuns = true → s.isC0 = false →
      s.flag .SEC_KEY_STAT_BUSY = false → (slot : Nat) ≤ 255 → s.isKem ((slot : Nat) / 4) = false →
        s.cip.kek.isSome = true →
      Answers (.keyLoad req slot) s (fun t => (s.unwrapped = none → t.flag .SEC_KEY_STAT_REFUSED = true ∧
        t.rd .SEC_KEY_STAT_REASON = 1 ∧ t.cip = s.cip) ∧
        (∀ key ∈ s.unwrapped, t.flag .SEC_KEY_STAT_BUSY = true ∧ (s.slotState slot = 0 → t.slotState slot = 2 ∧
          (t.keySlot slot).material = key) ∧
          (3 ≤ s.slotState slot → s.slotState slot ≤ 5 → t.slotState slot = 4 ∧ (t.keySlot slot).next = some key)))) ∧
    (∀ (req : Req) (slot : Fin 512), s.takesFrom req = true → s.secRuns = true → s.isC0 = false →
      s.flag .SEC_KEY_STAT_BUSY = false → (slot : Nat) ≤ 255 →
      Answers (.keyErase req slot) s (fun t => if 3 ≤ s.slotState slot then t.slotState slot = 4 ∧
        (t.keySlot slot).next = none else t.slotState slot = 0 ∧ (t.keySlot slot).material = 0)) ∧
    (∀ (req : Req) (fetched : Option (List Nat)), s.takesFrom req = true → s.secRuns = true → s.isC0 = false →
      s.flag .SEC_KEY_STAT_BUSY = false →
      Answers (.loadKek req fetched) s (fun t => (fetched = none → t.flag .SEC_KEY_STAT_REFUSED = true ∧
        t.rd .SEC_KEY_STAT_REASON = 7 ∧ t.cip.kek = s.cip.kek) ∧
        (∀ c ∈ fetched, t.flag .SEC_KEY_STAT_BUSY = true ∧ t.cip.kek = some (s.kekOf c)))) ∧
    (∀ (req : Req), s.takesFrom req = true → s.secRuns = true → s.flag .SEC_KEY_STAT_BUSY = false →
      Answers (.attest req) s (fun t => t.flag .SEC_KEY_STAT_BUSY = true ∧ t.cip.cmd = 4 ∧ t.cip.nonce =
        (List.range 8).map (fun k => s.rd .SEC_KEY_DATA_BYTES [k])) ∧
      Answers (.getCert req) s (fun t => t.flag .SEC_KEY_STAT_BUSY = true ∧ t.cip.cmd = 5) ∧
      Answers (.getKekPub req) s (fun t => t.flag .SEC_KEY_STAT_BUSY = true ∧ t.cip.cmd = 6)) ∧
    (s.secRuns = true → s.flag .SEC_KEY_STAT_BUSY = true → (!usesDma s.cip.cmd || s.dmaServes .xfer) = true →
      Answers (.keyCommandDone) s (fun t => t.flag .SEC_KEY_STAT_BUSY = false ∧ t.cip.cmd = 0 ∧
        (∀ data ∈ s.reportData s.cip.cmd, t.out.head? = some (.hostBlock s.xferAddr data))))

/-- Sessions between the ends. An initiator without a session, or whose session's life ended, sends KE_INIT and is
establishing; a responder that accepts a KE_INIT answers KE_RESP; an initiator that accepts the KE_RESP answers
KE_FIN; a good KE_FIN brings the session up, a bad one is a fault to report. An abort records the fault, or a
timeout, and is FAILED; a retry starts over or goes to NONE. A peer that does not pass leaves its reason for the
abort. KEY_READY of the matching generation makes a PENDING slot NEXT. (13_cipher_cupboard.md: sessions and key
derivation (R270 to R272)) -/
def Obligations.Sessions : Prop :=
  ∀ (s : State) (w : Wing),
    (s.sesOn w = true → s.initiates w = true → s.rd .SEC_SES_STAT_STATE [w.n] = 0 →
      Answers (.keInitSend w) s (fun t => t.rd .SEC_SES_STAT_STATE [w.n] = 1 ∧ (t.cip.sessions.get w).step = 1 ∧
        t.out.getLast? = some (.gcc w (.keInit ((s.rd .SEC_SES_STAT_SESSION [w.n] + 1) % 65536)
          ((s.takeSesCfg w).makeInit w ((s.rd .SEC_SES_STAT_SESSION [w.n] + 1) % 65536)).1)))) ∧
    (s.sesOn w = true → s.initiates w = true → s.rd .SEC_SES_STAT_STATE [w.n] = 2 →
      Answers (.sessionLifeExpiry w) s (fun t => t.rd .SEC_SES_STAT_STATE [w.n] = 1 ∧ (t.cip.sessions.get w).step =
        1 ∧
        t.out.getLast? = some (.gcc w (.keInit ((s.rd .SEC_SES_STAT_SESSION [w.n] + 1) % 65536)
          ((s.takeSesCfg w).makeInit w ((s.rd .SEC_SES_STAT_SESSION [w.n] + 1) % 65536)).1)))) ∧
    (∀ (session : Nat) (p : KeMsg), s.sesOn w = true → certId p.cert < s.devId →
      Answers (.keInitRx w session p) s (fun t => if (s.takeSesCfg w).peerReason w p (keBody 0 session p) = 0 then
        (t.cip.sessions.get w).step = 2 ∧ (t.cip.sessions.get w).init = gccBody (.keInit session p) ∧
          t.out.getLast? = some (.gcc w (.keResp session ((s.takeSesCfg w).makeResp w session p).1))
        else (t.cip.sessions.get w).fault = (s.takeSesCfg w).peerReason w p (keBody 0 session p))) ∧
    (∀ (p : KeMsg), s.sesGoes w = true → (s.cip.sessions.get w).step = 1 →
      Answers (.keRespRx w p) s (fun t => if s.peerReason w p (transcript (s.cip.sessions.get w).init (keBody 1 (s.rd
        .SEC_SES_STAT_SESSION [w.n]) p)) = 0 then (t.cip.sessions.get w).step = 3 ∧
          t.out = [.gcc w (.keFin (s.rd .SEC_SES_STAT_SESSION [w.n]) (roleMac (sessionSecret (transcript
          (s.cip.sessions.get w).init (keBody 1 (s.rd .SEC_SES_STAT_SESSION [w.n]) p)) (Config.decapsulate
          (s.cip.sessions.get w).kem p.kem)) true))]
        else (t.cip.sessions.get w).fault =
          s.peerReason w p (transcript (s.cip.sessions.get w).init (keBody 1 (s.rd .SEC_SES_STAT_SESSION [w.n]) p))))
          ∧
    (∀ (mac : List Nat), s.sesGoes w = true → (s.cip.sessions.get w).step = 2 ∨ (s.cip.sessions.get w).step = 3 →
      Answers (.keFinRx w mac) s (fun t => if mac =
        roleMac (s.cip.sessions.get w).newSecret (decide ((s.cip.sessions.get w).step = 2)) then
          t.rd .SEC_SES_STAT_STATE [w.n] = 2 ∧ (t.cip.sessions.get w).step = 4 ∧ (t.cip.sessions.get w).secret =
          (s.cip.sessions.get w).newSecret
        else (t.cip.sessions.get w).fault = 4)) ∧
    (s.secRuns = true → s.rd .SEC_SES_STAT_STATE [w.n] = 1 →
      Answers (.keAbort w) s (fun t => t.rd .SEC_SES_STAT_STATE [w.n] = 3 ∧ t.rd .SEC_SES_STAT_REASON [w.n] =
        (if (s.cip.sessions.get w).fault = 0 then 5 else
          (s.cip.sessions.get w).fault) % 2 ^ Row.SEC_SES_STAT_REASON.width ∧ (t.cip.sessions.get w).step = 0)) ∧
    (s.secRuns = true → s.rd .SEC_SES_STAT_STATE [w.n] = 3 →
      Answers (.sessionRetry w) s (fun t => t.rd .SEC_SES_STAT_STATE [w.n] = if s.sesOn w && s.initiates w then
        1 else 0)) ∧
    (∀ (ch : Fin 32) (session gen : Nat), s.sesGoes w = true → s.slotState (slotOf (chanIndex w ch) 0 0) = 1 →
      s.rd .CIP_SLOT_STAT_GEN [slotOf (chanIndex w ch) 0 0] = gen →
        (s.keySlot (slotOf (chanIndex w ch) 0 0)).session = session →
      Answers (.keyReadyRx w ch session gen) s (fun t => t.slotState (slotOf (chanIndex w ch) 0 0) = 2))

/-- Client ports: what a frame, a PFC frame and a link change do. A received frame that is no MAC control frame is
counted in RX_FRAMES; a MAC control frame of at least 64 bytes that the running Client block receives is counted in
RX_MACCTL and goes no further; a PFC frame due for a class that TX_EN lets take part is sent once, unless a test
pattern stands in place of the lanes' traffic, and counted; such a class in XOFF becomes due again; a received PFC
frame of at least 64 bytes is counted, and each class that it names and RX_EN allows is paused when its time is not
0 and released when it is 0; an expired pause ends; a link change shows LF and RF. (14_clients_pantry.md: reception,
links and PFC (R281, R282, R290 to R294)) -/
def Obligations.ClientPorts : Prop :=
  ∀ (s : State) (port : Fin 32),
    (∀ (f : Frame), s.isRunning = true → s.flag .CLI_PORT_STAT_LINK [port] = true → s.rd .HAL_LB_MODE [port] ≠ 2 →
      s.portFailed port = false →
      Answers (.clientFrameRx port f false) s (fun t => t.rd .CLI_RX_FRAMES_COUNT [port] =
        satAdd Row.CLI_RX_FRAMES_COUNT.width (s.rd .CLI_RX_FRAMES_COUNT [port]) 1)) ∧
    (∀ (f : Frame), s.isRunning = true → s.flag .CLI_PORT_STAT_LINK [port] = true → s.rd .HAL_LB_MODE [port] ≠ 2 →
      s.portFailed port = false → 64 ≤ f.len → s.blockStopped 2 = false →
      Answers (.clientFrameRx port f true) s (fun t => t.rd .CLI_RX_MACCTL_COUNT [port] =
        satAdd Row.CLI_RX_MACCTL_COUNT.width (s.rd .CLI_RX_MACCTL_COUNT [port]) 1 ∧ t.pan.queues = s.pan.queues)) ∧
    (tabGet 0 s.pan.pfcDue port &&& s.rd .CLI_PFC_CFG_TX_EN [port] ≠ 0 → s.portSends port = true →
      Answers (.pfcFrameTx port) s (fun t => t.out = (if s.patterned port then [] else
        [.pfc port (tabGet 0 s.pan.pfcDue port &&& s.rd .CLI_PFC_CFG_TX_EN [port]) (tabGet 0 s.pan.pfcDue port &&&
          s.rd .CLI_PFC_CFG_TX_EN [port] &&& tabGet 0 s.pan.pfcXoff port) (s.rd .CLI_PFC_CFG_QUANTA [port])]) ∧
        tabGet 0 t.pan.pfcDue port = 0 ∧ t.rd .CLI_PFC_TX_COUNT [port] =
          satAdd Row.CLI_PFC_TX_COUNT.width (s.rd .CLI_PFC_TX_COUNT [port]) 1)) ∧
    (∀ (cls : Fin 8), (tabGet 0 s.pan.pfcXoff port).testBit cls = true →
      (s.rd .CLI_PFC_CFG_TX_EN [port]).testBit cls = true →
      Answers (.pfcXoffRepeat port cls) s (fun t => (tabGet 0 t.pan.pfcDue port).testBit cls = true)) ∧
    (∀ (len : Nat) (fcsOk : Bool) (vector : Nat) (times : List Nat) (cls : Fin 8), s.isRunning = true →
      s.flag .CLI_PORT_STAT_LINK [port] = true → s.rd .HAL_LB_MODE [port] ≠ 2 → s.portFailed port = false →
        64 ≤ len → s.blockStopped 2 = false →
      Answers (.pfcRx port len fcsOk vector times) s (fun t => t.rd .CLI_PFC_RX_COUNT [port] =
        satAdd Row.CLI_PFC_RX_COUNT.width (s.rd .CLI_PFC_RX_COUNT [port]) 1 ∧
        (t.rd .CLI_PORT_STAT_PAUSED [port]).testBit cls =
          (if vector.testBit cls && (s.rd .CLI_PFC_CFG_RX_EN [port]).testBit cls then times.getD cls 0 != 0
           else (s.rd .CLI_PORT_STAT_PAUSED [port]).testBit cls))) ∧
    (∀ (cls : Fin 8),
      Answers (.pfcPauseExpiry port cls) s (fun t => (t.rd .CLI_PORT_STAT_PAUSED [port]).testBit cls = false)) ∧
    (∀ (pcs lf rf : Bool), s.portDefined port = true →
      Answers (.portLinkChange port pcs lf rf) s (fun t => t.flag .CLI_PORT_STAT_LF_RX [port] = lf ∧
        t.flag .CLI_PORT_STAT_RF_RX [port] = rf ∧ t.pan.aligned.testBit port = pcs))

/-- An admitted frame stands at the end of its queue. A frame of an enabled, unpoliced, unprotected port whose queue
finds a descriptor and cells is put at the end of that egress queue; the test generator puts its frame at the end of
its target queue and advances its sequence number; a frame from a channel without cipher is put at the end of its
port's ingress queue. (14_clients_pantry.md: admission and the test generator (R281, R285, R287, R295 to R297);
03_line_format.md and 12_line_protection.md: delivery from the line (R73, R247)) -/
def Obligations.FramesEnterQueues : Prop :=
  ∀ s : State,
    (∀ (port : Fin 32) (f : Frame) (q : Nat) (d : Bool) (src : CellSource), s.isRunning = true →
      s.flag .CLI_PORT_STAT_LINK [port] = true → s.rd .HAL_LB_MODE [port] = 0 → s.portFailed port = false →
        64 ≤ f.len → f.len ≤ 16000 → s.power.state = 0 → s.blockFailed 3 = false → s.blockStopped 2 = false →
          s.flag .CLI_POL_CTL_EN [port, s.classOf port f] = false → s.flag .HAL_MAP_VALID [port] = true →
          s.flag .HAL_MAP_PROT [port] = false → s.flag .CLI_PORT_CFG_ENABLE [port] = true → q =
          8 * s.rd .HAL_MAP_CHAN [port] + s.classOf port f → s.queueStopped q = false → s.descFor q = some d →
          (s.sourceFor q (cellsOf f.len) false).toOption = some src →
      Answers (.clientFrameRx port f false) s (fun t => (t.queue q).map (fun x => x.frame) =
        (s.queue q).map (fun x => x.frame) ++ [f])) ∧
    (∀ (q : Nat) (d : Bool) (src : CellSource), s.flag .HAL_TPG_CFG_EN = true → q =
      (if s.flag .HAL_TPG_CFG_DIR then 512 + (8 * s.rd .HAL_TPG_CFG_TARGET + s.rd .HAL_TPG_CFG_CLASS) % 256
        else 8 * s.rd .HAL_TPG_CFG_TARGET + s.rd .HAL_TPG_CFG_CLASS) → s.queueStopped q = false → s.descFor q =
          some d → (s.sourceFor q (cellsOf (s.rd .HAL_TPG_CFG_LEN)) false).toOption = some src →
      Answers (.tpgFrame) s (fun t => (t.queue q).map (fun x => x.frame) =
        (s.queue q).map (fun x => x.frame) ++ [⟨s.pan.tpgSeq, s.rd .HAL_TPG_CFG_LEN, true, none, none, none,
          some s.pan.tpgSeq, true⟩] ∧
        t.pan.tpgSeq = (s.pan.tpgSeq + 1) % 2 ^ 32)) ∧
    (∀ (w : Wing) (ch : Fin 32) (f : Frame) (p : Nat) (q : Nat) (d : Bool) (src : CellSource), s.delivers w =
      true → s.rxSlots w ch ≠ 0 → s.wingRuns w = true → s.ssfChan w ch = false → s.chanCipher (chanIndex w ch) =
        false → s.chanPort (chanIndex w ch) = some p → s.groupOf (chanIndex w ch) = none →
          s.rd .HAL_LB_MODE [p] ≠ 2 → q = 512 + 8 * p + s.classOf p f → s.queueStopped q = false → s.descFor q =
          some d → (s.sourceFor q (cellsOf f.len) false).toOption = some src →
      Answers (.lineFrameDemap w ch f 0 false ⟨0, 0⟩) s (fun t => (t.queue q).map (fun x => x.frame) =
        (s.queue q).map (fun x => x.frame) ++ [f]))

/-- The scheduler and the gate control lists. A selection whose descriptor reads without an uncorrectable error removes
the head of the chosen queue; an entry start advances the channel's gate time to the next entry; ACTIVATE sets
PENDING and the swap time; a write of the staged cycle or base takes the nearer limit or the value; at the swap the
staged list is operative, PENDING falls and GCL_SWAPPED is set; a write of GCL_WIVL stores the staged entry and
advances IDX. (15_scheduling.md: selection and time gates (R304 to R307, R311 to R313, R317)) -/
def Obligations.SchedulerAndGates : Prop :=
  ∀ s : State,
    (∀ (inst : Fin 96) (line : MemLine) (found : EccRead) (q : Nat) (x : Queued) (rest : List Queued),
      s.choose inst = some q → s.queue q = x :: rest → (s.descFound x line found).2 ≠ .double →
      Answers (.schedSelect inst line found) s (fun t => t.queue q = rest)) ∧
    (∀ (ch : Fin 64),
      Answers (.gclEntryStart ch) s (fun t => tabGet 0 t.sched.entryAt ch = s.gateNow ch +
        ((s.gateList ch).at_ (s.gateNow ch)).2.2)) ∧
    (∀ (req : Req) (ch : Fin 64), s.takesFrom req = true →
      Answers (.gclActivate req ch) s (fun t => t.flag .SCH_GCL_STAT_PENDING [ch] = true ∧
        tabGet 0 t.sched.tNew ch = s.newTime ch)) ∧
    (∀ (req : Req) (ch : Fin 64) (c b : Nat), s.takesFrom req = true →
      Answers (.gclTimingWrite req ch (some c) none) s (fun t => t.rd .SCH_GCL_CYCLE_CYCLE [ch] =
        max 1000 (min 1000000000 c)) ∧
      Answers (.gclTimingWrite req ch none (some b)) s (fun t => t.rdWide .SCH_GCL_BASE_LO_BASE .SCH_GCL_BASE_HI_BASE
        [ch] = b % 2 ^ 64)) ∧
    (∀ (ch : Fin 64), s.flag .SCH_GCL_STAT_PENDING [ch] = true →
      Answers (.gclSwap ch) s (fun t => t.flag .SCH_GCL_STAT_PENDING [ch] = false ∧ t.gateList ch =
        s.stagedList ch ∧ t.flag .SCH_EVT_GCL_SWAPPED = true)) ∧
    (∀ (req : Req) (ivl : Nat), s.takesFrom req = true →
      Answers (.gclWivlWrite req ivl) s (fun t => t.stagedEntry (s.rd .SCH_GCL_WSEL_CH) (s.rd .SCH_GCL_WSEL_IDX) =
        (s.rd .SCH_GCL_WGATE_GATES, max 1 (min 1000000000 ivl)) ∧
        t.rd .SCH_GCL_WSEL_IDX = (s.rd .SCH_GCL_WSEL_IDX + 1) % 2 ^ Row.SCH_GCL_WSEL_IDX.width))

/-- Client and corridor lanes: bring-up, failure, restart and figures of merit. An enabled lane with its receive half ON
goes from OFF of signal to CDR on detection, and step by step on; step 3 keeps whether the marker was complemented;
a FOM below FOM_MIN adapts. A failure of a single lane shows FAIL with its reason and counts; a retry or RESTART
starts the lane over; an up lane that loses its signal starts over. A FOM measurement after step 5 replaces the
figure, and its symbols pass the pattern checker; an up lane below FOM_MIN that is not adaptive begins to adapt from
its fixed taps. (16_electrical_lanes.md: bring-up, failures and figures of merit (R321 to R326, R330)) -/
def Obligations.ElectricalLanes : Prop :=
  ∀ (s : State) (cor : Bool) (l : Fin 32),
    (s.laneSeq cor l = true → s.stage cor l = 0 →
      Answers (.laneSignalDetect cor l) s (fun t => t.stage cor l = 1)) ∧
    (∀ (r : LaneResult), s.laneSeq cor l = true → (s.laneSet cor).waiting.testBit l = false →
      Answers (.laneStepComplete cor l r) s (fun t => (s.stage cor l = 1 → t.stage cor l = 2) ∧ (s.stage cor l =
        3 → t.stage cor l = 4) ∧
        (s.stage cor l = 2 → t.flag (laneRow cor .SDS_LANE_STAT_RX_INV .COR_LANE_STAT_RX_INV) [l] = r.inverted ∧
          ((s.laneSet cor).warm.testBit l = false → t.stage cor l = 3)) ∧
        (s.stage cor l = 4 → fomOf r.run < s.fomMin cor l → t.stage cor l = 5 ∧
          t.flag (laneRow cor .SDS_LANE_STAT_ADAPTIVE .COR_LANE_STAT_ADAPTIVE) [l] = true))) ∧
    (∀ (reason : Fin 16), s.laneSeq cor l = true → 1 ≤ (reason : Nat) → (reason : Nat) ≤ 3 → s.stage cor l =
      failStage reason →
      Answers (.laneFail cor l reason) s (fun t => t.stage cor l = 15 ∧
        t.rd (laneRow cor .SDS_LANE_STAT_FAIL_REASON .COR_LANE_STAT_FAIL_REASON) [l] = reason ∧
        t.rd (laneRow cor .SDS_LANE_CNT_FAILS .COR_LANE_CNT_FAILS) [l] =
          (s.rd (laneRow cor .SDS_LANE_CNT_FAILS .COR_LANE_CNT_FAILS) [l] + 1) % 65536)) ∧
    (s.coreRuns = true → s.stage cor l = 15 → s.laneRuns cor l = true →
      s.rd (laneRow cor .SDS_LANE_STAT_FAIL_REASON .COR_LANE_STAT_FAIL_REASON) [l] < 4 →
      Answers (.laneRetry cor l) s (fun t => t.stage cor l = 0)) ∧
    (∀ (req : Req), s.takesFrom req = true → s.laneRuns cor l = true →
      Answers (.laneRestart req cor l) s (fun t => t.stage cor l = 0 ∧ (s.stage cor l = 7 →
        (t.rd (laneRow cor .SDS_EVT_UP_CHANGE .COR_LANE_EVT_UP_CHANGE)).testBit l = true))) ∧
    (s.laneRuns cor l = true → s.stage cor l = 7 →
      Answers (.laneDown cor l) s (fun t => t.stage cor l = 0 ∧
        (t.rd (laneRow cor .SDS_EVT_UP_CHANGE .COR_LANE_EVT_UP_CHANGE)).testBit l = true)) ∧
    (∀ (m : SlicerRun), s.laneRuns cor l = true → 5 ≤ s.stage cor l → s.stage cor l ≤ 7 →
      Answers (.fomMeasure cor l m) s (fun t => t.rdS (laneRow cor .SDS_LANE_FOM_FOM .COR_LANE_FOM_FOM) [l] =
        toSigned 16 (ofSigned 16 (fomOf m)) ∧
        (s.rd (laneRow cor .SDS_PRBS_CTL_RX_PAT .COR_PRBS_CTL_RX_PAT) [l] = 0 →
          t.flag (laneRow cor .SDS_LANE_STAT_PRBS_LOCK .COR_LANE_STAT_PRBS_LOCK) [l] = false) ∧
        (s.rd (laneRow cor .SDS_PRBS_CTL_RX_PAT .COR_PRBS_CTL_RX_PAT) [l] ≠ 0 →
          t.rd (laneRow cor .SDS_PRBS_ERR_COUNT .COR_PRBS_ERR_COUNT) [l] =
          satAdd (laneRow cor .SDS_PRBS_ERR_COUNT .COR_PRBS_ERR_COUNT).width
            (s.rd (laneRow cor .SDS_PRBS_ERR_COUNT .COR_PRBS_ERR_COUNT) [l])
            (m.errored.foldl checkSymbol (s.flag (laneRow cor .SDS_LANE_STAT_PRBS_LOCK .COR_LANE_STAT_PRBS_LOCK) [l],
            tabGet 0 (s.laneSet cor).prbs l, 0)).2.2))) ∧
    (s.laneSeq cor l = true → s.stage cor l = 7 →
      s.flag (laneRow cor .SDS_LANE_STAT_ADAPTIVE .COR_LANE_STAT_ADAPTIVE) [l] = false →
        s.rdS (laneRow cor .SDS_LANE_FOM_FOM .COR_LANE_FOM_FOM) [l] < s.fomMin cor l →
          -128 ≤ (s.fixedTaps cor l).getD 1 0 → (s.fixedTaps cor l).getD 1 0 ≤ 127 →
      Answers (.laneAdaptStart cor l) s (fun t => t.flag (laneRow cor .SDS_LANE_STAT_ADAPTIVE
        .COR_LANE_STAT_ADAPTIVE) [l] = true ∧ t.rdS (laneRow cor .SDS_DFE_ADAPT_TAP_1 .COR_DFE_ADAPT_TAP_1) [l,
          0] = (s.fixedTaps cor l).getD 1 0))

/-- The DPLL: candidates, selection, lock, fault, holdover and the step of module time. A candidate whose condition
holds within 10 ppm is qualified with its offset and rings; one beyond 12 ppm is shown and loses its qualification;
wait-to-restore ends. A received ESMC PDU gives its port's QL, and five seconds without one fail the candidate. The
selector with an eligible candidate and no lock acquires it, switches to another one that it wants, and with none
holds over, or runs free if it never locked. REF_LOCK ends an acquisition or a switch within 0.01 ppm of the target
in locked. A DPLL fault is STATE 7 with FAULT_N; a relock restarts from free-run. RELEARN discards the model; an
hour learned while locked counts, and 72 make it valid. A step waits for the next update. (17_references.md:
candidates, selection, holdover and module time (R333 to R347)) -/
def Obligations.References : Prop :=
  ∀ s : State,
    (∀ (i : Fin 8) (offset : Int), s.refUp = true → s.flag .REF_CAND_STAT_QUALIFIED [i] = false → s.candCond i =
      true → (s.seenOffset i offset).natAbs ≤ 1000 →
      Answers (.candQualify i offset) s (fun t => t.flag .REF_CAND_STAT_QUALIFIED [i] = true ∧
        t.rdS .REF_CAND_STAT_OFFSET [i] = s.seenOffset i offset ∧ t.flag .REF_EVT_CAND_CHANGE = true ∧
        t.flag .REF_CAND_STAT_WTR_RUN [i] = (s.dpll.lost.testBit i && min 12 (s.rd .REF_CAND_WTR [i]) != 0))) ∧
    (∀ (i : Fin 8) (offset : Int), s.flag .REF_CAND_STAT_QUALIFIED [i] = true →
      1200 < (s.seenOffset i offset).natAbs →
      Answers (.candDisqualify i offset) s (fun t => t.flag .REF_CAND_STAT_QUALIFIED [i] = false ∧
        t.rdS .REF_CAND_STAT_OFFSET [i] = clampInt (-32768) 32767 (s.seenOffset i offset) ∧ t.dpll.lost.testBit i =
          true ∧ t.flag .REF_EVT_CAND_CHANGE = true)) ∧
    (∀ (i : Fin 8), s.flag .REF_CAND_STAT_WTR_RUN [i] = true →
      Answers (.candWtrExpiry i) s (fun t => t.flag .REF_CAND_STAT_WTR_RUN [i] = false ∧ t.dpll.lost.testBit i =
        false ∧ t.flag .REF_EVT_CAND_CHANGE = true)) ∧
    (∀ (port : Fin 32) (len : Nat) (fcsOk : Bool) (ql : Fin 16), s.isRunning = true →
      s.flag .CLI_PORT_STAT_LINK [port] = true → s.rd .HAL_LB_MODE [port] ≠ 2 → s.portFailed port = false →
        64 ≤ len → s.blockStopped 2 = false →
      Answers (.esmcRx port len fcsOk ql) s (fun t => tabGet 15 t.dpll.esmc port = ql ∧
        t.dpll.esmcFailed.testBit port = false)) ∧
    (∀ (i : Fin 8), s.candClient i = true →
      Answers (.esmcTimeout i) s (fun t => t.dpll.esmcFailed.testBit (s.candPort i) = true ∧ t.candFailed i = true)) ∧
    (∀ (event : Bool) (p : Fin 32), (s.rd .REF_ESMC_TX_PORTS).testBit p = true → s.portSends p = true →
      Answers (.esmcTx event) s (fun t => t.out.contains (.esmc p (s.qlPort p) event) = !s.patterned p)) ∧
    (∀ (offsets : List (Option Int)) (x : Nat), s.coreRuns = true → s.refUp = true → s.refState ≤ 1 →
      ((s.begin.measureCands offsets).checkCands.moveOutput).showDisagree.wantTarget = some x → x < 8 →
      Answers (.refSelect offsets) s (fun t => t.rd .REF_STAT_TARGET = x ∧ t.rd .REF_STAT_ACTIVE = x ∧ t.refState =
        1)) ∧
    (∀ (offsets : List (Option Int)) (x : Nat), s.coreRuns = true → s.refUp = true → s.refState = 2 →
      ((s.begin.measureCands offsets).checkCands.moveOutput).showDisagree.wantTarget = some x → x < 8 →
        x ≠ s.rd .REF_STAT_ACTIVE →
      Answers (.refSelect offsets) s (fun t => t.refState = 5 ∧ t.rd .REF_STAT_TARGET = x ∧ t.rd .REF_STAT_ACTIVE =
        s.rd .REF_STAT_ACTIVE)) ∧
    (∀ (offsets : List (Option Int)), s.coreRuns = true → s.refUp = true → s.refState = 2 →
      ((s.begin.measureCands offsets).checkCands.moveOutput).showDisagree.wantTarget = none →
      Answers (.refSelect offsets) s (fun t => t.refState = (if s.dpll.everLocked then
        (if s.flag .REF_STAT_HO_VALID then 3 else 4) else 0))) ∧
    (s.refState = 1 ∨ s.refState = 5 → s.nearTarget = true → s.rd .REF_STAT_TARGET < 8 →
      Answers (.refLock) s (fun t => t.refState = 2 ∧ t.rd .REF_STAT_ACTIVE = s.rd .REF_STAT_TARGET ∧
        t.flag .REF_STAT_MT_COARSE = false ∧ t.dpll.everLocked = true)) ∧
    (s.refUp = true → s.refState ≠ 7 →
      Answers (.dpllFault) s (fun t => t.refState = 7 ∧ t.pins.faultN = true ∧ t.ras.dpllFault = true ∧
        t.flag .RAS_FAULT_VALID = true ∧ ∀ j : Fin 4, t.refoutOn j = false)) ∧
    (s.refState = 7 →
      Answers (.dpllRelock) s (fun t => t.refState = 0 ∧ t.ras.dpllFault = false ∧ t.rdS .REF_STAT_OFFSET = 0 ∧
        t.dpll.freq = 0)) ∧
    (∀ (req : Req), s.takesFrom req = true →
      Answers (.hoRelearn req) s (fun t => t.rd .REF_HO_STAT_LEARN_H = 0 ∧ t.flag .REF_STAT_HO_VALID = false ∧
        t.refState = (if s.refState = 3 then 4 else s.refState))) ∧
    (∀ (fit : HoModel), s.refState = 2 →
      Answers (.holdoverLearnHour fit) s (fun t => t.rd .REF_HO_STAT_LEARN_H =
        satAdd 16 (s.rd .REF_HO_STAT_LEARN_H) 1 ∧ t.flag .REF_STAT_HO_VALID =
          decide (72 ≤ satAdd 16 (s.rd .REF_HO_STAT_LEARN_H) 1) ∧ t.dpll.model = fit)) ∧
    (∀ (req : Req), s.takesFrom req = true →
      Answers (.mtStep req) s (fun t => t.dpll.stepDue = true))

/-- Power entry, warnings and the current-step budget. An input between 34 and 76 V starts the power entry out of its
stop, unless the thermal stop is latched. A loss of power makes every domain unpowered, with the queue and the fuses
kept, the attic emptied and PGOOD low; a thermal trip does the same and latches. A module reset in Run, Idle or
Sleep keeps the attic and starts with cause 6, and in a deeper state does nothing. The head stage is admitted when
it fits the window. The VIN warning, raised on the voltage of the supervisory converter while that runs, rings with
an attic record and its alert; it clears above its hysteresis. (18_power.md: power entry and the budget (R351 to
R355, R361); 23_ratings.md: R440) -/
def Obligations.PowerEntryAndStages : Prop :=
  ∀ s : State,
    (∀ (vin : Nat), s.power.state = 6 → s.power.thermalLatch = false → 3400 < vin → vin < 7600 →
      Answers (.vinStart vin) s (fun t => t.power.state = 0 ∧ t.boot.step = 1 ∧ t.rd .PWR_VIN_STAT_VIN = vin)) ∧
    (Answers (.powerLoss) s (fun t => t.power.state = 6 ∧ t.power.thermalLatch = false ∧ t.boot.step = 0 ∧
      t.pins.pgood = false ∧ t.attic.recs = [] ∧ t.fuses = s.fuses ∧ t.image.bankA = s.image.bankA ∧
        t.rd .GLB_BOOT_STAT_STAGE = 0)) ∧
    (s.power.state ≠ 4 → s.power.state ≠ 6 →
      Answers (.thermalTrip) s (fun t => t.power.state = 6 ∧ t.power.thermalLatch = true ∧ t.pins.pgood = false ∧
        t.boot.step = 0)) ∧
    (s.power.state ≤ 2 →
      Answers (.modReset) s (fun t => t.rd .PWR_WAKE_REC_CAUSE = 6 ∧ t.flag .PWR_WAKE_REC_FLAG = false ∧
        t.boot.step = 2 ∧ t.attic.recs = s.attic.recs ∧ t.image.running = none ∧ t.power.state = 0)) ∧
    (3 ≤ s.power.state →
      Answers (.modReset) s (fun t => t.power = s.power ∧ t.boot = s.boot ∧ t.rd .PWR_WAKE_REC_CAUSE =
        s.rd .PWR_WAKE_REC_CAUSE)) ∧
    (∀ (d : Domain), s.headStage = some d → s.windowSum + s.stepOf d ≤ d.limit →
      Answers (.stageAdmit) s (fun t => t.power.queue = s.power.queue.erase d ∧ t.power.up.contains d = true ∧
        t.power.window = s.recentStages ++ [(s.uptime, s.stepOf d)])) ∧
    (∀ (vin : Nat), s.power.state ≤ 3 → s.flag .PWR_VIN_STAT_WARN = false →
      s.vinSeen vin < 10 * s.rd .PWR_VIN_CFG_WARN_TH →
      Answers (.vinWarnRise vin) s (fun t => t.flag .PWR_VIN_STAT_WARN = true ∧ t.flag .PWR_EVT_VIN_WARN = true ∧
        t.pins.smbAlert = true ∧ t.rd .PWR_VIN_STAT_VIN = s.vinSeen vin % 2 ^ Row.PWR_VIN_STAT_VIN.width)) ∧
    (∀ (vin : Nat), s.flag .PWR_VIN_STAT_WARN = true → 10 * (s.rd .PWR_VIN_CFG_WARN_TH +
      s.rd .PWR_VIN_CFG_HYST) < s.vinSeen vin →
      Answers (.vinWarnClear vin) s (fun t => t.flag .PWR_VIN_STAT_WARN = false ∧ t.flag .PWR_STATE_STAT_DEFERRED =
        false))

/-- Transitions between the power states. A TARGET between transitions that differs from the state is refused with its
island and reason, or starts a transition with BUSY; during one it is held; above 4 it is ignored. A wing request
that differs starts a transition. A completed transition takes the state, clears BUSY and rings STATE_DONE; a
refusal or abort returns to the previous state with LAST_REFUSE and rings REFUSED. (18_power.md: the power states
(R356 to R359)) -/
def Obligations.PowerStates : Prop :=
  ∀ s : State,
    (∀ (req : Req) (target : Fin 8), s.takesFrom req = true → s.power.state ≤ 2 → s.coreRuns = true →
      (target : Nat) ≤ 4 → s.power.trans = none → (target : Nat) ≠ s.power.state →
      Answers (.stateTargetWrite req target) s (fun t => (s.refusal target = none → t.power.trans =
        some (target : Nat) ∧ t.flag .PWR_STATE_STAT_BUSY = true) ∧
        (s.refusal target ≠ none → t.power.trans = none ∧ t.flag .PWR_LAST_REFUSE_VALID = true ∧
          t.flag .PWR_EVT_REFUSED = true ∧
          some (t.rd .PWR_LAST_REFUSE_REASON) = (s.refusal target).map (·.2)))) ∧
    (∀ (req : Req) (target : Fin 8), s.takesFrom req = true → s.power.state ≤ 2 → (target : Nat) ≤ 4 →
      (s.power.trans ≠ none ∨ s.coreRuns = false) →
      Answers (.stateTargetWrite req target) s (fun t => t.power.heldTarget = some (target : Nat) ∧ t.power.trans =
        s.power.trans)) ∧
    (∀ (req : Req) (target : Fin 8), s.takesFrom req = true → 4 < (target : Nat) →
      Answers (.stateTargetWrite req target) s (fun t => t.power = s.power ∧ t.rd .PWR_STATE_CTL_TARGET =
        s.rd .PWR_STATE_CTL_TARGET)) ∧
    (∀ (req : Req) (wingA wingB : Fin 4), s.takesFrom req = true → s.power.state ≤ 2 →
      Answers (.wingStateWrite req wingA wingB) s (fun t => t.rd .PWR_STATE_CTL_WING_A = min 2 (wingA : Nat) ∧
        t.rd .PWR_STATE_CTL_WING_B = min 2 (wingB : Nat))) ∧
    (∀ (x : Nat), s.power.trans = some x → s.entryReady x = true → s.power.heldTarget = none → x ≤ 4 →
      Answers (.stateEntryDone) s (fun t => t.rd .PWR_STATE_STAT_STATE = x ∧ t.power.state = (if x = 3 ∧
        s.flag .PWR_WATCH_CFG_EN = true then 5 else x) ∧ t.flag .PWR_EVT_STATE_DONE = true ∧
        (s.power.state ≠ x → x ≠ 4 → t.pins.smbAlert = true))) ∧
    (∀ (island : Fin 25) (reason : Fin 16) (x : Nat), s.power.trans = some x → s.mayRefuse x island reason = true →
      s.power.heldTarget = none →
      Answers (.stateEntryRefuse island reason) s (fun t => t.power.trans = none ∧ t.flag .PWR_STATE_STAT_BUSY =
        false ∧ t.rd .PWR_LAST_REFUSE_ISLAND = island ∧ t.rd .PWR_LAST_REFUSE_REASON = reason ∧
        t.flag .PWR_LAST_REFUSE_ABORT = abortsEntry reason ∧ t.flag .PWR_EVT_REFUSED = true))

/-- Wake on access, the wakes and the requests to the workers. An access to an unclocked island wakes its register
stage, which counts, and the stage stops again after its linger. WAKE_N and the timer wake a sleeping module: a
start with the cause, the flag and the origin, coarse module time and an alert. A watch cycle in Watch counts a
wing's exceedances and wakes after enough of them. GO on a manager sends the request to the workers reached, and the
next one in turn when it raises power; a cell leaves unless a test pattern stands in place of the port's traffic.
(18_power.md: wake on access, wakes and workers (R360 to R366)) -/
def Obligations.WakesAndHierarchy : Prop :=
  ∀ s : State,
    (∀ (island : Fin 25) (stall : Nat), s.power.state ≤ 2 → s.isRunning = true → s.clocked island = false →
      stall ≤ 600 →
      Answers (.wakeOnAccess island stall) s (fun t => t.power.woken.contains (stageGroup island) = true ∧
        t.clocked island = true ∧ t.rd .PWR_WOA_CNT_WAKES = (s.rd .PWR_WOA_CNT_WAKES +
          1) % 2 ^ Row.PWR_WOA_CNT_WAKES.width)) ∧
    (∀ (group : Fin 3),
      Answers (.woaLingerExpiry group) s (fun t => t.power.woken.contains (group : Nat) = false)) ∧
    (s.asleep = true ∨ s.power.state = 4 →
      Answers (.wakeNAssert) s (fun t => t.rd .PWR_WAKE_REC_CAUSE = 1 ∧ t.flag .PWR_WAKE_REC_FLAG = true ∧
        t.rd .PWR_WAKE_REC_FROM = s.power.state % 8 ∧ t.boot.step = 1 ∧ t.boot.wake = decide (s.power.state ≠ 4) ∧
        t.power.state = 0 ∧ t.flag .REF_STAT_MT_COARSE = true ∧ t.pins.smbAlert = true)) ∧
    (s.asleep = true → s.rd .PWR_WAKE_CFG_TIMER ≠ 0 →
      Answers (.wakeTimerExpiry) s (fun t => t.rd .PWR_WAKE_REC_CAUSE = 3 ∧ t.flag .PWR_WAKE_REC_FLAG = true ∧
        t.boot.step = 1 ∧ t.power.state = 0)) ∧
    (∀ (meanA meanB : Nat), s.power.state = 5 → s.rd .PWR_WATCH_CFG_WINGS = 1 → s.power.watch.b = 0 →
      Answers (.watchCycle meanA meanB) s (fun t => if s.rd .PWR_WATCH_CFG_CONFIRM ≤ s.power.watch.a ∧
        s.rd .PWR_WATCH_CFG_TH < meanA then t.rd .PWR_WAKE_REC_CAUSE = 4 ∧ t.power.state = 0
        else t.power.state = 5 ∧ t.power.watch.a = (if s.rd .PWR_WATCH_CFG_TH < meanA then s.power.watch.a + 1 else
          0))) ∧
    (∀ (req : Req) (reachable : List Nat) (x : Nat), s.takesFrom req = true → s.flag .COR_CTL_MANAGER = true →
      s.flag .PWR_HIER_STAT_BUSY = false → s.halted 5 = false → s.rd .PWR_HIER_CTL_TARGET ≤ 4 →
        s.cor.nodes.map (·.1) = [x] → reachable.contains x = true → s.corPatterned (s.cor.managerPort x) = false →
      Answers (.hierGo req reachable) s (fun t => t.out.getLast? =
        some (.cell (s.cor.managerPort x) x (.hier (s.rd .PWR_HIER_CTL_TARGET))) ∧ t.rd .PWR_HIER_STAT_DONE = 1 ∧
          t.rd .PWR_HIER_STAT_SKIPPED = 0 ∧ t.flag .PWR_HIER_STAT_BUSY = false)) ∧
    (∀ (x : Nat) (rest : List Nat), s.halted 5 = false → s.power.hierLeft = x :: rest →
      Answers (.hierForwardNext) s (fun t => t.out = (if s.corPatterned (s.routePort x) then [] else
        [.cell (s.routePort x) x (.hier s.power.hierTarget)]) ∧ t.power.hierLeft = rest ∧
          t.flag .PWR_HIER_STAT_BUSY = !rest.isEmpty))

/-- Failed islands, the control core, scrub, recovery and injection. A parity mismatch of a swept clocked island, a lost
watched clock and a doorway timeout of two clocked islands declare the island failed: its bit of FAILED_MAP, FAULT
rung and FAULT_N asserted. A lost slow clock rings. A lockstep miscompare stops the policy and counts; the restart
counts and it resumes. A scrub read that finds a single error in a valid line counts and corrects it. An audit frees
the damaged descriptors. RECOVER with module scope resets the module with cause 7; one whose scope misses a failed
island is refused. ARM of a known memory arms; FAULT_CLEAR clears the record. (19_reliability.md: protection,
watches, lockstep, recovery and injection (R370 to R381); 01_architecture.md: R19) -/
def Obligations.FaultsAndRecovery : Prop :=
  ∀ s : State,
    (∀ (i : Fin 25), s.flag .RAS_STAT_SWEEP_EN = true → s.clocked i = true → s.islandFailed i = false →
      Answers (.parityMismatch i) s (fun t => t.islandFailed i = true ∧ t.flag .RAS_STAT_FAILED = true ∧
        t.flag .RAS_EVT_FAULT = true ∧ t.pins.faultN = true)) ∧
    (∀ (i : Fin 25), s.clockWatched i = true → s.islandFailed i = false →
      Answers (.clockLoss i) s (fun t => t.islandFailed i = true ∧ t.flag .RAS_STAT_FAILED = true ∧
        t.flag .RAS_EVT_FAULT = true ∧ t.pins.faultN = true)) ∧
    (∀ (sender i : Fin 25), s.flag .RAS_STAT_DWTO_EN = true → s.clocked sender = true → s.clocked i = true →
      s.islandFailed i = false →
      Answers (.doorwayTimeout sender i) s (fun t => t.islandFailed i = true ∧ t.flag .RAS_STAT_FAILED = true ∧
        t.flag .RAS_EVT_FAULT = true ∧ t.pins.faultN = true ∧ (s.flag .RAS_FAULT_VALID = false →
          t.rd .RAS_FAULT_ISLAND = i ∧ t.rd .RAS_FAULT_PEER = sender))) ∧
    (Answers (.slowClkLoss) s (fun t => t.flag .RAS_EVT_SLOW_CLK = true)) ∧
    (s.ras.coreDown = false → s.clocked 3 = true →
      Answers (.lockstepMiscompare) s (fun t => t.ras.coreDown = true ∧ t.flag .RAS_EVT_LOCKSTEP = true ∧
        t.rd .RAS_LOCKSTEP_MISCOMPARE = (s.rd .RAS_LOCKSTEP_MISCOMPARE +
          1) % 2 ^ Row.RAS_LOCKSTEP_MISCOMPARE.width)) ∧
    (s.ras.coreDown = true →
      Answers (.coreRestartDone) s (fun t => t.ras.coreDown = false ∧ t.rd .RAS_LOCKSTEP_RESTARTS =
        (s.rd .RAS_LOCKSTEP_RESTARTS + 1) % 2 ^ Row.RAS_LOCKSTEP_RESTARTS.width)) ∧
    (Answers (.descAuditDone) s (fun t => t.ras.audit = [])) ∧
    (∀ (l : MemLine) (found : EccRead), s.flag .RAS_SCRUB_EN = true → s.foundAt l found = .single →
      Answers (.scrubRead l found) s (fun t => t.rd .RAS_MEM_CE_COUNT [l.mem] =
        satAdd Row.RAS_MEM_CE_COUNT.width (s.rd .RAS_MEM_CE_COUNT [l.mem]) 1 ∧ t.rd .RAS_MEM_LAST_TYPE [l.mem] =
          1 ∧ t.rd .RAS_MEM_LAST_BANK [l.mem] = l.bank % 2 ^ Row.RAS_MEM_LAST_BANK.width)) ∧
    (∀ (l : MemLine) (found : EccRead), s.flag .RAS_SCRUB_EN = true → s.foundAt l found = .double → l.mem = 0 →
      Answers (.scrubRead l found) s (fun t => t.rd .RAS_MEM_UE_COUNT [l.mem] =
        satAdd Row.RAS_MEM_UE_COUNT.width (s.rd .RAS_MEM_UE_COUNT [l.mem]) 1 ∧ t.flag .RAS_EVT_UE_DATA = true ∧
          t.pan.queues.map (·.1) = s.pan.queues.map (·.1))) ∧
    (∀ (req : Req), s.takesFrom req = true → s.recoverRefused = true →
      Answers (.recover req) s (fun t => t.flag .RAS_CTL_REFUSED = true ∧ t.rd .RAS_STAT_FAILED_MAP =
        s.rd .RAS_STAT_FAILED_MAP)) ∧
    (∀ (req : Req), s.takesFrom req = true → s.recoverRefused = false → s.rd .RAS_CTL_SCOPE = 3 →
      Answers (.recover req) s (fun t => t.rd .PWR_WAKE_REC_CAUSE = 7 ∧ t.rd .RAS_STAT_FAILED_MAP = 0 ∧
        t.image.running = none ∧ t.attic.recs = s.attic.recs)) ∧
    (∀ (req : Req), s.takesFrom req = true → s.rd .RAS_INJ_MEM < 6 →
      Answers (.eccInjectArm req) s (fun t => t.flag .RAS_INJ_ARMED = true)) ∧
    (∀ (req : Req), s.takesFrom req = true →
      Answers (.faultClear req) s (fun t => t.flag .RAS_FAULT_VALID = false ∧ t.rd .RAS_FAULT_KIND = 0))

/-- Freeze, thaw, clear, the update of module time and the one-second tick. FREEZE and THAW are noted and take hold at
the next update, of both the later; CLEAR_ALL empties the general counters at the next update, or at once in the
stopped block. An update advances module time by a microsecond, or, when a step is due, sets it to MT_SET with
MT_STEP and marks the tags in flight. The tick comes at a multiple of a second, counts in TICKS and moves every live
bank of a clocked island to its previous-second bank. (17_references.md: module time and the tick (R345 to R347);
20_observability.md: freezing and the general counters (R384, R385)) -/
def Obligations.ModuleTimeAndCounters : Prop :=
  ∀ s : State,
    (∀ (req : Req), s.takesFrom req = true →
      Answers (.freeze req) s (fun t => t.pmu.freezeReq = true ∧ t.pmu.thawReq = false ∧ t.pmu.frozen =
        s.pmu.frozen)) ∧
    (∀ (req : Req), s.takesFrom req = true →
      Answers (.thaw req) s (fun t => t.pmu.thawReq = true ∧ t.pmu.freezeReq = false ∧ t.pmu.frozen = s.pmu.frozen)) ∧
    (∀ (req : Req) (n : Fin 64), s.takesFrom req = true →
      Answers (.clearAll req) s (fun t => if s.blockStopped 7 then t.rd .PMU_CNT_LO_COUNT [n] = 0 ∧
        t.rd .PMU_CNT_HI_COUNT [n] = 0 ∧ t.rd .PMU_CNT_PS_LO_COUNT [n] = 0 ∧ t.rd .PMU_CNT_PS_HI_COUNT [n] = 0
        else t.pmu.clearReq = true)) ∧
    (∀ (n : Fin 64), s.refUp = true → s.pmu.clearReq = true →
      Answers (.mtUpdate) s (fun t => t.rd .PMU_CNT_LO_COUNT [n] = 0 ∧ t.rd .PMU_CNT_HI_COUNT [n] = 0 ∧
        t.rd .PMU_CNT_PS_LO_COUNT [n] = 0 ∧ t.rd .PMU_CNT_PS_HI_COUNT [n] = 0 ∧ t.pmu.clearReq = false)) ∧
    (s.refUp = true → s.dpll.stepDue = false →
      Answers (.mtUpdate) s (fun t => t.mt = (s.mt + 1000) % 2 ^ 64 ∧ t.uptime = s.uptime + 1)) ∧
    (s.refUp = true → s.dpll.stepDue = true →
      Answers (.mtUpdate) s (fun t => t.mt = s.rdWide .REF_MT_SET_LO_VALUE .REF_MT_SET_HI_VALUE % 2 ^ 64 ∧
        t.flag .REF_EVT_MT_STEP = true ∧ t.dpll.stepDue = false ∧
        t.pmu.tags.all (fun x => x.stepped) = true)) ∧
    (s.refUp = true → s.pmu.thawReq = false →
      Answers (.mtUpdate) s (fun t => (t.pmu.frozen.isSome ↔ s.pmu.frozen.isSome = true ∨ s.pmu.freezeReq = true) ∧
        t.pmu.freezeReq = false ∧
        (s.pmu.freezeReq = true → t.flag .PMU_CTL_FROZEN = true ∨ s.pmu.frozen.isSome = true))) ∧
    (s.refUp = true → s.pmu.thawReq = true →
      Answers (.mtUpdate) s (fun t => t.pmu.frozen = none ∧ t.flag .PMU_CTL_FROZEN = false ∧ t.pmu.thawReq = false)) ∧
    (∀ (m : SecondStats) (p : Fin 32), s.wf → s.refUp = true → s.clocked 21 = true → s.mt + 1000000000 < 2 ^ 64 →
      Answers (.oneSecondTick m) s (fun t => t.mt % 1000000000 = 0 ∧ t.rd .REF_TICK_STAT_TICKS =
        (s.rd .REF_TICK_STAT_TICKS + 1) % 2 ^ Row.REF_TICK_STAT_TICKS.width ∧
        t.rd .CLI_RX_FRAMES_PS_COUNT [p] = s.rd .CLI_RX_FRAMES_COUNT [p] ∧ t.rd .CLI_RX_FRAMES_COUNT [p] = 0))

/-- Tag records and histograms. A read of the tag window copies the oldest record into it; TAG_POP removes the oldest,
in the running block at the next update of module time and in the stopped block at once; HIST_CLR sets every count
of the chosen histograms to zero at the next update, or at once in the stopped block. (20_observability.md: tags and
histograms (R388 to R390)) -/
def Obligations.TagsAndHistograms : Prop :=
  ∀ s : State,
    (∀ (req : Req) (w : Fin 16) (x : Tag × Bool) (rest : List (Tag × Bool)), s.takesFrom req = true → s.pmu.fifo =
      x :: rest →
      Answers (.tagWinRead req) s (fun t => t.rd .PMU_TAG_WIN_WORD [w] = recordWord x.1 x.2 w % 2 ^ 32 ∧ t.out =
        [.data req 0x50800 (recordWord x.1 x.2 0 % 2 ^ 32)])) ∧
    (∀ (req : Req) (w : Fin 16), s.takesFrom req = true → s.pmu.fifo = [] →
      Answers (.tagWinRead req) s (fun t => t.rd .PMU_TAG_WIN_WORD [w] = 0 ∧ t.out = [.data req 0x50800 0])) ∧
    (∀ (req : Req), s.takesFrom req = true → s.blockStopped 7 = true →
      Answers (.tagPop req) s (fun t => t.pmu.fifo = s.pmu.fifo.tail)) ∧
    (∀ (req : Req), s.takesFrom req = true → s.blockStopped 7 = false →
      Answers (.tagPop req) s (fun t => t.pmu.popReq = s.pmu.popReq + 1 ∧ t.pmu.fifo = s.pmu.fifo)) ∧
    (s.refUp = true →
      Answers (.mtUpdate) s (fun t => t.pmu.fifo = s.pmu.fifo.drop s.pmu.popReq ∧ t.pmu.popReq = 0)) ∧
    (∀ (req : Req) (mask : Nat) (h : Fin 16) (b : Fin 64), s.takesFrom req = true → s.blockStopped 7 = true →
      Answers (.histClr req mask) s (fun t => t.rd .PMU_HIST_UNDER_COUNT [h] = (if mask.testBit h then 0 else
        s.rd .PMU_HIST_UNDER_COUNT [h]) ∧
        t.rd .PMU_HIST_OVER_COUNT [h] = (if mask.testBit h then 0 else s.rd .PMU_HIST_OVER_COUNT [h]) ∧
        t.rd .PMU_HIST_BIN_COUNT [h, b] = (if mask.testBit h then 0 else s.rd .PMU_HIST_BIN_COUNT [h, b]))) ∧
    (∀ (req : Req) (mask : Nat) (h : Fin 16) (b : Fin 64), s.takesFrom req = true → s.blockStopped 7 = false →
      Answers (.histClr req mask) s (fun t => t.pmu.histReq = s.pmu.histReq ||| mask % 65536 ∧
        t.rd .PMU_HIST_BIN_COUNT [h, b] = s.rd .PMU_HIST_BIN_COUNT [h, b])) ∧
    (∀ (h : Fin 16) (b : Fin 64), s.refUp = true →
      Answers (.mtUpdate) s (fun t => t.rd .PMU_HIST_UNDER_COUNT [h] = (if s.pmu.histReq.testBit h then 0 else
        s.rd .PMU_HIST_UNDER_COUNT [h]) ∧
        t.rd .PMU_HIST_OVER_COUNT [h] = (if s.pmu.histReq.testBit h then 0 else s.rd .PMU_HIST_OVER_COUNT [h]) ∧
        t.rd .PMU_HIST_BIN_COUNT [h, b] = (if s.pmu.histReq.testBit h then 0 else s.rd .PMU_HIST_BIN_COUNT [h, b])))

/-- The attic: new records and repeats. The oldest arrival becomes a record with the time, its source, code and
arguments: in the sealed area while it has room, then at the circulating write pointer; an arrival that repeats its
source's last record advances REP and LAST instead. (20_observability.md: the attic (R391, R392)) -/
def Obligations.AtticRecords : Prop :=
  ∀ s : State,
    (∀ (x : Arrival) (rest : List Arrival), s.refUp = true → s.rd .ATT_STAT_SEALED_USED < 2048 → s.attic.queue =
      x :: rest → s.repeated x = none →
      Answers (.atticRecord) s (fun t => t.recAt (s.rd .ATT_STAT_SEALED_USED) = ⟨s.mt, x.source, x.code, 0,
        s.flag .REF_STAT_MT_COARSE, x.arg0, x.arg1, s.mt⟩ ∧
        t.rd .ATT_STAT_SEALED_USED = s.rd .ATT_STAT_SEALED_USED + 1 ∧ t.attic.queue = rest)) ∧
    (∀ (x : Arrival) (rest : List Arrival), s.refUp = true → 2048 ≤ s.rd .ATT_STAT_SEALED_USED → s.attic.queue =
      x :: rest → s.repeated x = none →
      Answers (.atticRecord) s (fun t => t.recAt (s.rd .ATT_STAT_WR_PTR) = ⟨s.mt, x.source, x.code, 0,
        s.flag .REF_STAT_MT_COARSE, x.arg0, x.arg1, s.mt⟩ ∧
        t.rd .ATT_STAT_WR_PTR = (if s.rd .ATT_STAT_WR_PTR = 4095 then 2048 else s.rd .ATT_STAT_WR_PTR +
          1) % 2 ^ Row.ATT_STAT_WR_PTR.width ∧ t.attic.queue = rest)) ∧
    (∀ (x : Arrival) (rest : List Arrival) (i : Nat) (r : Rec), s.refUp = true → s.attic.queue = x :: rest →
      s.repeated x = some (i, r) →
      Answers (.atticRecord) s (fun t => t.recAt i = { r with rep := min 65535 (r.rep + 1), last := s.mt } ∧
        t.rd .ATT_STAT_SEALED_USED = s.rd .ATT_STAT_SEALED_USED ∧ t.attic.queue = rest))

/-- The attic window. A read of WIN[0] copies the record at the cursor into the window, whose other words then return
that copy; with AUTO_INC a read of WIN[7] advances the cursor by one, from 4,095 to 0; an empty record reads as all
zero. (R393) -/
def Obligations.AtticWindow : Prop :=
  ∀ s : State,
    (∀ (req : Req) (w : Fin 8), s.takesFrom req = true →
      Answers (.atticWinRead req) s (fun t => t.word (0x40020 + 4 * w) = t.rd .ATT_WIN_WORD [w] ∧
        t.rd .ATT_WIN_WORD [w] = (s.recAt (s.rd .ATT_CURSOR_INDEX)).word w % 2 ^ 32 ∧ t.out =
          [.data req 0x40020 ((s.recAt (s.rd .ATT_CURSOR_INDEX)).word 0 % 2 ^ 32)])) ∧
    (∀ (req : Req), s.takesFrom req = true →
      Answers (.atticWinLastRead req) s (fun t => t.out = [.data req 0x4003C (s.rd .ATT_WIN_WORD [7])] ∧
        t.rd .ATT_CURSOR_INDEX = (if s.flag .ATT_CURSOR_AUTO_INC then (s.rd .ATT_CURSOR_INDEX + 1) % 4096 else
          s.rd .ATT_CURSOR_INDEX))) ∧
    (∀ (req : Req) (w : Fin 8), s.takesFrom req = true → tabFind s.attic.recs (s.rd .ATT_CURSOR_INDEX) = none →
      Answers (.atticWinRead req) s (fun t => t.rd .ATT_WIN_WORD [w] = 0 ∧ t.out = [.data req 0x40020 0]))

/-- The attic clear: armed, executed, lapsed. A write of 0xA5 arms the clear; 0x5A executes an armed one; any other
value, or the lapse of 100 ms, disarms it. The clear empties the areas that SCOPE selects and leaves one record with
SOURCE 0x0000, CODE 0x04FF and the requester as ARG0 at index 0. (R394) -/
def Obligations.AtticClear : Prop :=
  ∀ s : State,
    (∀ (req : Req) (scope : Bool), s.takesFrom req = true →
      Answers (.atticClearArm req scope) s (fun t => t.attic.armed = true ∧ t.flag .ATT_STAT_ARMED = true ∧
        t.flag .ATT_CLEAR_SCOPE = scope ∧ t.attic.recs = s.attic.recs)) ∧
    (∀ (req : Req) (scope : Bool) (i : Nat), s.takesFrom req = true → s.attic.armed = true → s.refUp = true →
      Answers (.atticClearExecute req scope) s (fun t => t.attic.armed = false ∧ t.rd .ATT_STAT_SEALED_USED = 1 ∧
        t.recAt 0 = ⟨s.mt, 0, 0x04FF, 0, s.flag .REF_STAT_MT_COARSE, req.n, 0, s.mt⟩ ∧
        (0 < i → t.recAt i = (if scope = false ∧ 2048 ≤ i then s.recAt i else Rec.empty)))) ∧
    (∀ (req : Req) (scope : Bool), s.takesFrom req = true → s.attic.armed = false →
      Answers (.atticClearExecute req scope) s (fun t => t.attic.recs = s.attic.recs ∧ t.attic.armed = false)) ∧
    (Answers (.atticClearLapse) s (fun t => t.attic.armed = false ∧ t.flag .ATT_STAT_ARMED = false ∧ t.attic.recs =
      s.attic.recs)) ∧
    (∀ (req : Req) (word : Nat), s.takesFrom req = true → bitsAt word 24 8 ≠ 0xA5 → bitsAt word 24 8 ≠ 0x5A →
      Answers (.registerWrite req 0x4000C word) s (fun t => t.attic.armed = false ∧ t.flag .ATT_STAT_ARMED =
        false ∧ t.attic.recs = s.attic.recs)) ∧
    (∀ (req : Req) (word : Nat), s.takesFrom req = true → bitsAt word 24 8 = 0xA5 →
      Answers (.registerWrite req 0x4000C word) s (fun t => t.attic.armed = true ∧ t.flag .ATT_STAT_ARMED = true ∧
        t.attic.recs = s.attic.recs))

/-- Resets of the functions, the link and MSI-X. PERST takes the link down, stops the capture engines, puts MSI-X back
to reset and discards the corridor's results; its release lets the link train once step 3 of the start has ended.
FLR of PF0 does the same to the engines, MSI-X and results, clears its shadow and INTN_PEND; FLR of PF1 clears only
its shadow. A forbidden access is answered as unsupported and counted. An unmasked vector that is pending is sent;
the requests merged during a GAP are sent as one message. (21_host_corridor.md: resets, the link, MSI-X (R398 to
R400, R402, R405); 22_startup.md: R427) -/
def Obligations.HostInterface : Prop :=
  ∀ s : State,
    (∀ (e : Fin 7),
      Answers (.perst) s (fun t => t.flag .HST_LINK_UP = false ∧ t.rd .HST_LINK_GEN = 0 ∧ t.rd .HST_LINK_WIDTH =
        0 ∧ t.pins.perst = true ∧ t.host.training = false ∧ t.host.msixEnable = false ∧ t.host.pba = 0 ∧
        t.flag .HST_DMA_CTL_EN [e] = false ∧ t.rd .HST_DMA_HEAD_IDX [e] = 0 ∧
          t.cor.requests.all (fun r => r.discarded) = true)) ∧
    (∀ (e : Fin 7),
      Answers (.flrPf0) s (fun t => t.flag .HST_DMA_CTL_EN [e] = false ∧ t.host.msixEnable = false ∧ t.host.pba =
        0 ∧ t.rd .HST_INTN_PEND_LO_VEC = 0 ∧ t.rd .HST_INTN_PEND_HI_VEC = 0 ∧
        tabGet 0 t.host.shadowTag Req.pf0.n = 0 ∧ t.cor.requests.all (fun r => r.discarded) = true ∧
          t.flag .HST_LINK_UP = s.flag .HST_LINK_UP)) ∧
    (Answers (.flrPf1) s (fun t => tabGet 0 t.host.shadowTag Req.pf1.n = 0 ∧ t.store = s.store ∧
      t.host.msixEnable = s.host.msixEnable)) ∧
    (4 ≤ s.boot.step → s.refUp = true →
      Answers (.perstRelease) s (fun t => t.pins.perst = false ∧ t.host.training = true)) ∧
    (∀ (gen width : Nat), s.host.training = true → s.pins.perst = false → 1 ≤ gen → gen ≤ 5 → 1 ≤ width →
      width ≤ 16 →
      Answers (.pcieLinkUp gen width) s (fun t => t.flag .HST_LINK_UP = true ∧ t.rd .HST_LINK_GEN = gen ∧
        t.rd .HST_LINK_WIDTH = width)) ∧
    (∀ (req : Req),
      Answers (.badAccess req) s (fun t => t.rd .HST_UNMAPPED_BAD_BE =
        satAdd Row.HST_UNMAPPED_BAD_BE.width (s.rd .HST_UNMAPPED_BAD_BE) 1 ∧ t.out = [.unsupported req])) ∧
    (∀ (v : Fin 64), s.host.msixEnable = true → s.host.functionMask = false → s.host.pba = 2 ^ (v : Nat) →
      Answers (.msixUnmask (.vector v false)) s (fun t => t.out = [.msix v] ∧ t.host.pba.testBit v = false ∧
        t.host.unmasked.testBit v = true)) ∧
    (∀ (v : Fin 64) (masked on : Bool),
      Answers (.msixUnmask (.vector v masked)) s (fun t => t.host.unmasked.testBit v = !masked) ∧
      Answers (.msixUnmask (.enable on)) s (fun t => t.host.msixEnable = on) ∧
      Answers (.msixUnmask (.functionMask on)) s (fun t => t.host.functionMask = on)) ∧
    (∀ (v : Fin 64), s.host.gapRun.testBit v = true → s.host.gapReq.testBit v = true → s.msixOpen v = true →
      Answers (.vecModGapExpiry v) s (fun t => t.out = [.msix v] ∧ t.host.gapReq.testBit v = false)) ∧
    (∀ (v : Fin 64), s.host.gapReq.testBit v = false →
      Answers (.vecModGapExpiry v) s (fun t => t.out = [] ∧ t.host.gapRun.testBit v = false ∧ t.host.pba =
        s.host.pba))

/-- What a capture engine does with a block. A block of an engine that captures is numbered. With an empty ring or an
exhausted budget it is skipped and counted; a write error stops the engine; otherwise HEAD advances around the ring,
and a buffer that is long enough takes the block of 32,832 bytes. (21_host_corridor.md: soft-symbol capture (R407 to
R410)) -/
def Obligations.CaptureEngines : Prop :=
  ∀ s : State,
    (∀ (e : Fin 7) (d : Descriptor) (m : SymbolBlock), s.capturing e m = true → s.blockSkipped e = false →
      d.writeOk = true →
      Answers (.captureBlock e d m) s (fun t => t.rd .HST_DMA_HEAD_IDX [e] = (s.rd .HST_DMA_HEAD_IDX [e] +
        1) % s.rd .HST_DMA_RING_SIZE_N [e] % 2 ^ Row.HST_DMA_HEAD_IDX.width ∧
        tabGet 0 t.host.capture e = (tabGet 0 s.host.capture e + 1) % 2 ^ 32 ∧
        (blockBytes ≤ d.len → t.out.head? =
          some (.hostBlock d.addr (s.blockData e (s.captureWing e) m (tabGet 0 s.host.capture e))) ∧
          t.host.budgetUsed = s.host.budgetUsed + blockBytes))) ∧
    (∀ (e : Fin 7) (d : Descriptor) (m : SymbolBlock), s.capturing e m = true → s.blockSkipped e = false →
      d.writeOk = false →
      Answers (.captureBlock e d m) s (fun t => t.flag .HST_DMA_STAT_ERR [e] = true ∧ t.flag .HST_DMA_CTL_EN [e] =
        false)) ∧
    (∀ (e : Fin 7) (d : Descriptor) (m : SymbolBlock), s.capturing e m = true → s.blockSkipped e = true →
      Answers (.captureBlock e d m) s (fun t => t.rd .HST_DMA_SKIPPED_COUNT [e] =
        satAdd Row.HST_DMA_SKIPPED_COUNT.width (s.rd .HST_DMA_SKIPPED_COUNT [e]) 1 ∧ t.rd .HST_DMA_HEAD_IDX [e] =
          s.rd .HST_DMA_HEAD_IDX [e] ∧ t.out = [] ∧
        tabGet 0 t.host.capture e = (tabGet 0 s.host.capture e + 1) % 2 ^ 32))

/-- Heartbeats and the corridor's ports. A heartbeat goes out on a port whose lanes are up and carry no test pattern;
the fourth valid heartbeat in succession brings a port up with LINK_CHANGE, and on a manager the first port starts
an enumeration. A port that goes down is counted with LINK_CHANGE. A worker that gets an ENUM cell takes its address
and upstream port. A LINK cell that says up makes a manager enumerate, or restores the ring. (21_host_corridor.md:
ports, enumeration and rings (R412 to R414)) -/
def Obligations.CorridorPorts : Prop :=
  ∀ s : State,
    (∀ (p : Nat), s.corRuns = true → (List.range 4).filter s.corLanesUp = [p] →
      Answers (.heartbeatTx) s (fun t => t.out = (if s.corPatterned p then [] else
        [.heartbeat p (s.qlCorridor p)]))) ∧
    (∀ (port : Fin 4) (ql : Fin 16), s.corRuns = true → s.corLanesUp port = true → tabGet 0 s.cor.beats port = 3 →
      s.flag .COR_PORT_STAT_UP [port] = false →
      Answers (.corHeartbeatRx port ql) s (fun t => t.flag .COR_PORT_STAT_UP [port] = true ∧
        t.flag .COR_EVT_LINK_CHANGE = true ∧ tabGet 15 t.cor.beatQl port = ql ∧
        (s.isManager = true → s.cor.everUp = false → t.flag .COR_STAT_ENUMERATING = true))) ∧
    (∀ (port : Fin 4) (ql : Fin 16), s.corRuns = true → s.corLanesUp port = true → tabGet 0 s.cor.beats port < 3 →
      Answers (.corHeartbeatRx port ql) s (fun t => tabGet 0 t.cor.beats port = tabGet 0 s.cor.beats port + 1 ∧
        t.flag .COR_PORT_STAT_UP [port] = s.flag .COR_PORT_STAT_UP [port])) ∧
    (∀ (port : Fin 4), s.flag .COR_PORT_STAT_UP [port] = true →
      Answers (.corridorPortDown port) s (fun t => t.flag .COR_PORT_STAT_UP [port] = false ∧
        t.flag .COR_EVT_LINK_CHANGE = true ∧ tabGet 0 t.cor.beats port = 0 ∧
        t.rd .COR_PORT_STAT_DOWN_CNT [port] = (s.rd .COR_PORT_STAT_DOWN_CNT [port] +
          1) % 2 ^ Row.COR_PORT_STAT_DOWN_CNT.width)) ∧
    (∀ (addr : Nat) (port : Fin 4) (serves : List (Option (Nat × Nat))), s.isManager = false → s.corRuns = true →
      Answers (.corEnumRx addr port serves) s (fun t => t.rd .COR_STAT_ADDR = addr % 2 ^ Row.COR_STAT_ADDR.width ∧
        t.rd .COR_STAT_UP_PORT = port ∧ t.flag .COR_STAT_UP_VALID = true ∧ t.cor.serves = serves)) ∧
    (∀ (worker : Nat) (port : Fin 4), s.isManager = true → s.corRuns = true →
      Answers (.corLinkRx worker port true false) s (fun t => t.flag .COR_STAT_ENUMERATING = true)) ∧
    (∀ (worker : Nat) (port : Fin 4), s.isManager = true → s.corRuns = true →
      Answers (.corLinkRx worker port true true) s (fun t => t.cor.cut = none ∧ (s.cor.cut ≠ none →
        t.flag .COR_EVT_WRAP = true))) ∧
    (∀ (worker : Nat) (port : Fin 4) (restored : Bool), s.isManager = true → s.corRuns = true → s.cor.cut = none →
      0 < s.cor.place worker → s.cor.breakAt worker port < s.cor.ring.length → s.cor.ringPorts.length = 2 →
      Answers (.corLinkRx worker port false restored) s (fun t => t.cor.cut = some (s.cor.breakAt worker port) ∧
        t.flag .COR_PORT_STAT_WRAPPED [s.cor.ringPorts.headD 0] = true))

/-- Windows, forwarded doorbells and the requests to workers. An enumeration numbers the workers that it finds, counts
them and rings ENUM_DONE. A window access on a manager goes to its worker as a request with a deadline, whose cell
leaves unless a test pattern stands in place of the port's traffic; a worker's BAR4, or a disabled window, reads
zero; while the corridor is being enumerated it ends expired. A completion or acknowledgement ends its request, the
first STALL extends it by 100 µs, and an expired read returns all ones. A forwarded doorbell is logged and requests
the vector of its window; a power request is applied by a worker; FWD_LOG gives its oldest entry.
(21_host_corridor.md: enumeration, windows, doorbells, power requests (R413 to R418, R423)) -/
def Obligations.CorridorWindows : Prop :=
  ∀ s : State,
    (∀ (topo : List Neighbours), s.isManager = true → s.corRuns = true →
      Answers (.enumerate topo) s (fun t => t.cor.nodes = (enumWalk topo).nodes ∧ t.rd .COR_TOPO_WORKERS =
        (enumWalk topo).nodes.length % 2 ^ Row.COR_TOPO_WORKERS.width ∧
        t.flag .COR_STAT_ENUMERATING = false ∧ t.flag .COR_EVT_ENUM_DONE = true ∧ t.cor.cut = none ∧ t.cor.ring =
          (enumWalk topo).ringOf.1)) ∧
    (∀ (w : Fin 16) (addr : Nat) (data : Option Nat) (x : Nat), s.isManager = true → s.flag .COR_WIN_CFG_EN [w] =
      true → s.flag .COR_STAT_ENUMERATING = false → s.inFlight w < 16 → (data = none → s.readsOut < 64) →
        s.corRuns = true → s.rd .COR_WIN_CFG_WORKER [w] = x → (tabFind s.cor.nodes x).isSome = true →
      Answers (.windowAccess w addr data) s (fun t => t.out = (if s.corPatterned (t.cor.managerPort x) then [] else
        [.cell (t.cor.managerPort x) x (match data with
          | some v => .write s.cor.nextId addr v
          | none => .read s.cor.nextId addr)]) ∧
        t.cor.requests = s.cor.requests ++ [⟨s.cor.nextId, w, addr, data.isNone, false, s.uptime * 1000 + 2000 +
          320 * s.hopsTo x, false⟩])) ∧
    (∀ (w : Fin 16) (addr : Nat), s.isManager = false ∨ s.flag .COR_WIN_CFG_EN [w] = false →
      Answers (.windowAccess w addr none) s (fun t => t.out = [.data .pf0 (windowOffset w addr) 0] ∧
        t.cor.requests = s.cor.requests)) ∧
    (∀ (w : Fin 16) (addr : Nat), s.isManager = true → s.flag .COR_WIN_CFG_EN [w] = true →
      s.flag .COR_STAT_ENUMERATING = true →
      Answers (.windowAccess w addr none) s (fun t => t.out.head? =
        some (.data .pf0 (windowOffset w addr) 0xFFFFFFFF) ∧ t.flag .COR_EVT_TIMEOUT = true ∧ t.cor.requests =
          s.cor.requests)) ∧
    (∀ (id data : Nat) (r : Request), s.corRuns = true → s.request id true = some r →
      Answers (.corReadCplRx id data) s (fun t => t.out = (if r.discarded then [] else
        [.data .pf0 (windowOffset r.window r.addr) data]) ∧ t.cor.requests.all (fun x => x.id != id) = true)) ∧
    (∀ (id : Nat), s.corRuns = true → (s.request id false).isSome = true →
      Answers (.corWriteAckRx id) s (fun t => t.cor.requests.all (fun x => x.id != id) = true)) ∧
    (∀ (id : Nat) (r : Request), s.corRuns = true → s.cor.requests = [r] → r.id = id → r.stalled = false →
      Answers (.corStallRx id) s (fun t => t.cor.requests = [{ r with stalled := true, deadline := r.deadline +
        100000 }] ∧
        t.rd .COR_WIN_STAT_STALLS [r.window] = (s.rd .COR_WIN_STAT_STALLS [r.window] +
          1) % 2 ^ Row.COR_WIN_STAT_STALLS.width)) ∧
    (∀ (id : Nat) (r : Request), s.cor.requests.find? (fun x => x.id == id) = some r → r.isRead = true →
      r.discarded = false →
      Answers (.windowDeadlineExpiry id) s (fun t => t.out.head? =
        some (.data .pf0 (windowOffset r.window r.addr) 0xFFFFFFFF) ∧ t.flag .COR_EVT_TIMEOUT = true ∧
          t.cor.requests.all (fun x => x.id != id) = true)) ∧
    (∀ (id : Nat) (r : Request), s.cor.requests.find? (fun x => x.id == id) = some r → r.isRead = false →
      Answers (.windowDeadlineExpiry id) s (fun t => t.rd .COR_WIN_STAT_WR_LOST [r.window] =
        (s.rd .COR_WIN_STAT_WR_LOST [r.window] + 1) % 2 ^ Row.COR_WIN_STAT_WR_LOST.width ∧
          t.flag .COR_EVT_TIMEOUT = true)) ∧
    (∀ (worker : Nat) (v : Fin 64) (w : Nat), s.isManager = true → s.corRuns = true → s.cor.fwdLog.length < 64 →
      s.windowOf worker = some w →
      Answers (.corDoorbellRx worker v) s (fun t => t.cor.fwdLog = s.cor.fwdLog ++ [(worker, (v : Nat))] ∧
        t.pmu.events.contains (0x0D, 48 + w, 1) = true)) ∧
    (∀ (worker : Nat) (v : Fin 64), s.isManager = true → s.corRuns = true → 64 ≤ s.cor.fwdLog.length →
      Answers (.corDoorbellRx worker v) s (fun t => t.flag .COR_EVT_FWD_LOST = true ∧ t.cor.fwdLog = s.cor.fwdLog)) ∧
    (∀ (target : Fin 8), s.isManager = false → s.corRuns = true → s.coreRuns = true → (target : Nat) ≤ 4 →
      s.power.trans = none → (target : Nat) ≠ s.power.state →
      Answers (.corHierRx target) s (fun t => (s.refusal target = none → t.power.trans = some (target : Nat) ∧
        t.flag .PWR_STATE_STAT_BUSY = true) ∧
        (s.refusal target ≠ none → t.power.trans = none ∧ t.flag .PWR_LAST_REFUSE_VALID = true ∧
          t.flag .PWR_EVT_REFUSED = true))) ∧
    (∀ (req : Req) (e : Nat × Nat) (rest : List (Nat × Nat)), s.takesFrom req = true → s.isManager = true →
      s.cor.fwdLog = e :: rest →
      Answers (.fwdLogRead req) s (fun t => t.out = [.data req 0xD0038 (2 ^ 31 + e.2 * 2 ^ 24 + e.1)] ∧
        t.cor.fwdLog = rest)) ∧
    (∀ (req : Req), s.takesFrom req = true → s.isManager = false ∨ s.cor.fwdLog = [] →
      Answers (.fwdLogRead req) s (fun t => t.out = [.data req 0xD0038 0] ∧ t.cor = s.cor))

/-- The board manager's SMBus commands. Where AON answers, each read command returns its word or bytes; TCP and TDIE
return the last readings, in Run to Sleep those just taken; WAKE_CMD wakes a sleeping module when SMB_EN allows it
and is otherwise refused; ALERT_CLR and the alert response release SMB_ALERT_N; the attic cursor is set and advances
with each record read; an undefined code is refused. In Off nothing answers. (21_host_corridor.md: the board manager
(R420); 18_power.md: R361) -/
def Obligations.BoardManager : Prop :=
  ∀ s : State,
    (s.smbUp = true →
      Answers (.smbStatus) s (fun t => t.out = [.smbus (wordBytes s.smbStatusWord)]) ∧
      Answers (.smbVin) s (fun t => t.out = [.smbus (wordBytes (s.rd .PWR_VIN_STAT_VIN))]) ∧
      Answers (.smbWake) s (fun t => t.out = [.smbus (wordBytes (s.rd .PWR_WAKE_REC_CAUSE * 4096 +
        s.rd .PWR_WAKE_REC_FROM * 512 + s.rd .PWR_WAKE_REC_FLAG * 256))]) ∧
      Answers (.smbId) s (fun t => t.out =
        [.smbus (bytesMsb 4 s.idWord ++ bytesMsb 4 (s.rd .SEC_DEV_ID_HI_ID) ++ bytesMsb 4 (s.rd
          .SEC_DEV_ID_LO_ID))])) ∧
    (∀ (v : Int), s.power.state ≤ 2 →
      Answers (.smbTcp v) s (fun t => t.out = [.smbus (wordBytes (ofSigned 16 v))]) ∧
      Answers (.smbTdie v) s (fun t => t.out = [.smbus (wordBytes (ofSigned 16 v))])) ∧
    (∀ (v : Int), s.smbStale = true →
      Answers (.smbTcp v) s (fun t => t.out = [.smbus (wordBytes (ofSigned 16 (tabGet 0 s.sup.temps 15)))]) ∧
      Answers (.smbTdie v) s (fun t => t.out = [.smbus (wordBytes (ofSigned 16 s.dieTemp))])) ∧
    (s.asleep = true → s.flag .PWR_WAKE_CFG_SMB_EN = true →
      Answers (.smbWakeCmd) s (fun t => t.rd .PWR_WAKE_REC_CAUSE = 2 ∧ t.flag .PWR_WAKE_REC_FLAG = true ∧
        t.power.state = 0 ∧ t.boot.step = 1)) ∧
    (s.smbUp = true → s.flag .PWR_WAKE_CFG_SMB_EN = false →
      Answers (.smbWakeCmd) s (fun t => t.out = [.smbusNack] ∧ t.power = s.power ∧ t.store = s.store)) ∧
    (s.smbUp = true →
      Answers (.smbAlertClr) s (fun t => t.pins.smbAlert = false ∧ t.store = s.store)) ∧
    (s.smbUp = true → s.pins.smbAlert = true →
      Answers (.smbAlertResponse) s (fun t => t.pins.smbAlert = false ∧ t.out = [.smbus [0x9C]])) ∧
    (∀ (index : Nat), s.smbUp = true →
      Answers (.smbAtticCur index) s (fun t => t.attic.boardCursor = index % 4096 ∧ t.attic.recs = s.attic.recs)) ∧
    (s.smbUp = true →
      Answers (.smbAtticRec) s (fun t => t.out = [.smbus s.boardRecord] ∧ t.attic.boardCursor =
        (s.attic.boardCursor + 1) % 4096)) ∧
    (∀ (code : Nat), s.smbUp = true → smbCodes.contains code = false →
      Answers (.smbUndefined code) s (fun t => t.out = [.smbusNack] ∧ t.store = s.store)) ∧
    (s.power.state = 4 →
      Answers (.smbStatus) s (fun t => t.out = []) ∧
      Answers (.smbVin) s (fun t => t.out = []) ∧
      Answers (.smbId) s (fun t => t.out = []) ∧
      Answers (.smbWakeCmd) s (fun t => t.out = [] ∧ t.power = s.power) ∧
      Answers (.smbUndefined 7) s (fun t => t.out = []))

/-- The Ilulo monitor. Where the monitor takes commands, each command prints what its table names: the words read, the
records, the registers of its subject; a poke writes one word under its change class; an unknown command, and a
count outside 1 to 64, prints an error. Otherwise nothing is printed. (21_host_corridor.md: the monitor (R421);
19_reliability.md: R378) -/
def Obligations.Monitor : Prop :=
  ∀ s : State,
    (s.monUp = true → s.isRunning = true →
      Answers (.monPeek 0x20080 2) s (fun t => t.out = [.monitor [s.rd .REF_MT_LO_MT,
        s.rd .REF_MT_HI_MT % 2 ^ 32]])) ∧
    (∀ (addr : Nat), s.monUp = true → s.assigned addr = false →
      Answers (.monPeek addr 1) s (fun t => t.out = [.monitor [0]] ∧ t.rd .HST_UNMAPPED_COUNT =
        satAdd Row.HST_UNMAPPED_COUNT.width (s.rd .HST_UNMAPPED_COUNT) 1)) ∧
    (∀ (addr n : Nat), s.monUp = true → n = 0 ∨ 64 < n →
      Answers (.monPeek addr n) s (fun t => t.out.length = 1 ∧ t.store = s.store ∧ t.free = s.free + 1)) ∧
    (∀ (v : Fin 64) (word : Nat), s.monUp = true →
      Answers (.monPoke (0x30100 + 4 * v) word) s (fun t => t.rd .HST_VEC_MOD_GAP [v] = min 1000 (word % 1024) ∧
        t.out = [.monitor []])) ∧
    (∀ (index n : Nat), s.monUp = true → 1 ≤ n → n ≤ 64 → index ≤ 4095 →
      Answers (.monAttic index n) s (fun t => t.out = [.monitor (s.monRecords index n)] ∧ t.rd .ATT_CURSOR_INDEX =
        s.rd .ATT_CURSOR_INDEX)) ∧
    (s.monUp = true →
      Answers (.monState) s (fun t => t.out = [.monitor [s.word 0x10004, s.word 0x10200, s.word 0x10030]]) ∧
      Answers (.monIslands) s (fun t => t.out = [.monitor ((List.range 25).map s.islandLine).flatten]) ∧
      Answers (.monFp) s (fun t => t.out = [.monitor (s.word 0x10 :: (List.range 8).map (fun n => s.word (0x20 +
        4 * n)) ++ s.sectionTable)]) ∧
      Answers (.monRef) s (fun t => t.out = [.monitor (s.word 0x20004 ::
        (List.range 8).map (fun i => s.word (0x20140 + 4 * i)))]) ∧
      Answers (.monHelp) s (fun t => t.out = [.monitorLines monCommands]) ∧
      Answers (.monLanes none) s (fun t => t.out = [.monitor (s.laneLines false ++ s.laneLines true)])) ∧
    (∀ (client : Bool), s.monUp = true →
      Answers (.monLanes (some client)) s (fun t => t.out = [.monitor (s.laneLines (!client))])) ∧
    (∀ (w : Wing), s.monUp = true →
      Answers (.monWing w) s (fun t => t.out = [.monitor [s.word (0x100000 * w.n + 0x110004),
        s.word (0x100000 * w.n + 0x100C00), s.word (0x100000 * w.n + 0x110C00),
        s.word (0x100000 * w.n + 0x110820), s.word (0x100000 * w.n + 0x150010)]])) ∧
    (s.monUp = true →
      Answers (.monUnknown) s (fun t => t.out = [.monitorErr (Config.freeValue s.free % 10)] ∧ t.store = s.store)) ∧
    (s.monUp = false →
      Answers (.monState) s (fun t => t.out = []) ∧
      Answers (.monHelp) s (fun t => t.out = []) ∧
      Answers (.monUnknown) s (fun t => t.out = []) ∧
      Answers (.monPoke 0x30100 5) s (fun t => t.out = [] ∧ t.store = s.store))

/-- Writes of registers: live, write-1-to-clear, shadowed and frozen fields, and accesses that find no register. A write
of an L field takes the clamped value at once; a W1C field is cleared where 1 is written; a write of an S register
is staged and leaves the active value; a write of an F field takes the value when the block is stopped, and
otherwise is dropped and recorded in WR_REJECT, whose clear empties it. An access to an unassigned offset reads
zero, writes nothing and is counted. (01_overview_registers.md and 02_floor_plan_config.md: access codes and change
classes (R7, R8, R40 to R42); 20_host.md: R402) -/
def Obligations.RegisterWrites : Prop :=
  ∀ s : State,
    (∀ (req : Req) (v : Fin 64) (word : Nat), s.takesFrom req = true →
      Answers (.registerWrite req (0x30100 + 4 * v) word) s (fun t => t.rd .HST_VEC_MOD_GAP [v] =
        min 1000 (word % 1024) ∧
        s.KeepsBut t [.HST_VEC_MOD_GAP, .PWR_STATE_STAT_DEFERRED, .PWR_WOA_CNT_MAX_STALL, .PWR_WOA_CNT_WAKES])) ∧
    (∀ (req : Req) (word : Nat), s.takesFrom req = true →
      Answers (.registerWrite req 0x40008 word) s (fun t => t.rd .ATT_EVT_LOST = (if word.testBit 1 then 0 else
        s.rd .ATT_EVT_LOST % 2))) ∧
    (∀ (req : Req) (word : Nat), s.takesFrom req = true → s.isRunning = true →
      Answers (.registerWrite req 0x110104 word) s (fun t => tabFind t.staged 0x110104 = some (word % 65536) ∧
        t.rd .RXW_CD_WIN_HALF_WIDTH [0] = s.rd .RXW_CD_WIN_HALF_WIDTH [0] ∧
        s.KeepsBut t [.PWR_STATE_STAT_DEFERRED, .PWR_WOA_CNT_MAX_STALL, .PWR_WOA_CNT_WAKES])) ∧
    (∀ (req : Req) (word : Nat), s.takesFrom req = true → s.isRunning = true → s.blockStopped 0 = true →
      Answers (.registerWrite req 0x100010 word) s (fun t => t.rd .TXW_RATE_BAUD [0] =
        min (s.maxBaud .a) (max 224 (min 1360 (word % 2048))))) ∧
    (∀ (req : Req) (word : Nat), s.takesFrom req = true → s.isRunning = true → s.mayFreeze 0x100010 = false →
      s.flag .GLB_WR_REJECT_VALID = false →
      Answers (.registerWrite req 0x100010 word) s (fun t => t.rd .TXW_RATE_BAUD [0] = s.rd .TXW_RATE_BAUD [0] ∧
        t.flag .GLB_WR_REJECT_VALID = true ∧ t.rd .GLB_WR_REJECT_COUNT =
          satAdd Row.GLB_WR_REJECT_COUNT.width (s.rd .GLB_WR_REJECT_COUNT) 1 ∧
        t.rd .GLB_WR_REJECT_WORD_ADDR = 0x100010 / 4)) ∧
    (∀ (req : Req), s.takesFrom req = true →
      Answers (.wrRejectClear req) s (fun t => t.flag .GLB_WR_REJECT_VALID = false ∧ t.rd .GLB_WR_REJECT_COUNT =
        0 ∧ t.rd .GLB_WR_REJECT_WORD_ADDR = 0)) ∧
    (∀ (req : Req) (addr : Nat) (isWrite : Bool), s.takesFrom req = true → s.assigned addr = false →
      Answers (.unmappedAccess req addr isWrite) s (fun t => t.rd .HST_UNMAPPED_COUNT =
        satAdd Row.HST_UNMAPPED_COUNT.width (s.rd .HST_UNMAPPED_COUNT) 1 ∧
        t.out = (if isWrite then [] else [.data req addr 0])))

/-- Reads that act: RC fields, wide values, the user page and the corridor's accesses. A read of an RC count returns it
and clears it, or while frozen takes what it returned from the live count. A read of a _LO register returns it and
keeps the upper word for its requester. The user page returns module time to a user when USER_EN is set; otherwise,
and for a write, it counts a violation. A worker reads or writes for the manager and answers with READ_CPL or
WRITE_ACK, unless a test pattern stands in place of the port's traffic. (20_observability.md: wide values and the
user page (R7, R383, R384, R387); 21_host_corridor.md: accesses over the corridor (R402, R415, R417)) -/
def Obligations.ReadsThatAct : Prop :=
  ∀ s : State,
    (∀ (req : Req) (k : Fin 6), s.takesFrom req = true → s.pmu.frozen = none →
      Answers (.rcRead req (0x300100 + 16 * k)) s (fun t => t.out = [.data req (0x300100 +
        16 * k) (s.rd .RAS_MEM_CE_COUNT [k])] ∧ t.rd .RAS_MEM_CE_COUNT [k] = 0)) ∧
    (∀ (req : Req) (k : Fin 6) (st : Tab (Tab Nat)), s.takesFrom req = true → s.pmu.frozen = some st →
      Answers (.rcRead req (0x300100 + 16 * k)) s (fun t => t.out = [.data req (0x300100 +
        16 * k) (s.seen .RAS_MEM_CE_COUNT [k])] ∧
        t.rd .RAS_MEM_CE_COUNT [k] =
          (s.rd .RAS_MEM_CE_COUNT [k] - s.seen .RAS_MEM_CE_COUNT [k]) % 2 ^ Row.RAS_MEM_CE_COUNT.width ∧
          t.seen .RAS_MEM_CE_COUNT [k] = 0)) ∧
    (∀ (req : Req), s.takesFrom req = true → s.isRunning = true →
      Answers (.loHalfRead req 0x20080) s (fun t => t.out = [.data req 0x20080 (s.rd .REF_MT_LO_MT)] ∧
        tabGet 0 t.host.shadowTag req.n = 0x20081 ∧
        tabGet 0 t.host.shadow req.n = s.rd .REF_MT_HI_MT)) ∧
    (s.takesFrom .pf1 = true → s.isRunning = true → s.use .PMU_CTL_USER_EN ≠ 0 →
      Answers (.userPageAccess 0x400 false) s (fun t => t.out = [.data .pf1 0x400 (s.rd .REF_MT_LO_MT)] ∧
        t.rd .PMU_USER_VIOL_COUNT = s.rd .PMU_USER_VIOL_COUNT)) ∧
    (∀ (offset : Nat), s.takesFrom .pf1 = true → s.halted 7 = false → s.isRunning = true → s.use .PMU_CTL_USER_EN =
      0 →
      Answers (.userPageAccess offset false) s (fun t => t.out.getLast? = some (.data .pf1 offset 0) ∧
        t.flag .PMU_EVT_USER_VIOL = true ∧
        t.rd .PMU_USER_VIOL_COUNT = satAdd Row.PMU_USER_VIOL_COUNT.width (s.rd .PMU_USER_VIOL_COUNT) 1)) ∧
    (∀ (offset : Nat), s.takesFrom .pf1 = true → s.halted 7 = false → s.isRunning = true →
      Answers (.userPageAccess offset true) s (fun t => t.flag .PMU_EVT_USER_VIOL = true ∧
        t.rd .PMU_USER_VIOL_COUNT = satAdd Row.PMU_USER_VIOL_COUNT.width (s.rd .PMU_USER_VIOL_COUNT) 1)) ∧
    (∀ (id : Nat) (port : Fin 4), s.isManager = false → s.corRuns = true → s.clocked 6 = true →
      Answers (.corReadRx id 0x20080 port) s (fun t => t.out = (if s.corPatterned port then [] else
        [.cell port 0 (.readCpl id (s.rd .REF_MT_LO_MT))]))) ∧
    (∀ (id addr : Nat) (port : Fin 4), s.isManager = false → s.corRuns = true → s.assigned addr = false →
      Answers (.corReadRx id addr port) s (fun t => t.out = (if s.corPatterned port then [] else
        [.cell port 0 (.readCpl id 0)]) ∧ t.rd .HST_UNMAPPED_COUNT =
          satAdd Row.HST_UNMAPPED_COUNT.width (s.rd .HST_UNMAPPED_COUNT) 1)) ∧
    (∀ (id : Nat) (v : Fin 64) (word : Nat) (port : Fin 4), s.isManager = false → s.corRuns = true →
      s.corPatterned port = false →
      Answers (.corWriteRx id (0x30100 + 4 * v) word port) s (fun t => t.rd .HST_VEC_MOD_GAP [v] =
        min 1000 (word % 1024) ∧ t.out.getLast? = some (.cell port 0 (.writeAck id))))

/-- Commits, and the stop and run of a block. APPLY moves the staged registers of a region to its pending set, also when
DISCARD is written with it; DISCARD alone empties the staged set and leaves the pending one. At the boundary the
pending value becomes the active one and SEQ advances. A stop is shown as STOPPING and, at the boundary, as STOPPED;
a run clears both. (02_floor_plan.md: blocks, change classes and commits (R38, R41, R42, R44)) -/
def Obligations.CommitsAndBlocks : Prop :=
  ∀ s : State,
    (∀ (req : Req) (region a v : Nat), s.takesFrom req = true → s.wf → s.regionStopped region = false →
      tabFind s.staged a = some v → a / 0x10000 = region →
      Answers (.apply req region) s (fun t => tabFind t.pend a = some v ∧ tabFind t.staged a = none)) ∧
    (∀ (req : Req) (region a : Nat), s.takesFrom req = true → s.wf →
      Answers (.discard req region false) s (fun t => (tabFind s.staged a ≠ none → (a / 0x10000 =
        region ↔ tabFind t.staged a = none)) ∧ t.pend = s.pend)) ∧
    (∀ (req : Req) (region a v : Nat), s.takesFrom req = true → s.wf → s.regionStopped region = false →
      tabFind s.staged a = some v → a / 0x10000 = region →
      Answers (.discard req region true) s (fun t => tabFind t.pend a = some v ∧ tabFind t.staged a = none)) ∧
    (∀ (v : Nat), s.pend.filter (fun e => e.1 / 0x10000 == 0x11) = [(0x110104, v)] →
      Answers (.pendingSetApply 0x11 none) s (fun t => t.rd .RXW_CD_WIN_HALF_WIDTH [0] = v % 65536 ∧
        tabFind t.pend 0x110104 = none ∧
        t.rd .COMMIT_SEQ [0x11] = (s.rd .COMMIT_SEQ [0x11] + 1) % 2 ^ Row.COMMIT_SEQ.width)) ∧
    (∀ (req : Req) (n : Fin 8), s.takesFrom req = true →
      Answers (.blockStop req n) s (fun t => t.flag .GLB_BLK_CTL_STOP [n] = true ∧ (s.blockStopped n = false →
        t.flag .GLB_BLK_CTL_STOPPING [n] = true))) ∧
    (∀ (req : Req) (n : Fin 8), s.takesFrom req = true →
      Answers (.blockRun req n) s (fun t => t.flag .GLB_BLK_CTL_STOP [n] = false ∧
        t.flag .GLB_BLK_CTL_STOPPING [n] = false ∧ t.blockStopped n = false)) ∧
    (∀ (n : Fin 8), s.stopReady n = true →
      Answers (.blockStopComplete n) s (fun t => t.blockStopped n = true ∧ t.flag .GLB_BLK_CTL_STOPPING [n] = false))

/-- What the commands of the line, the optics and the receiver leave alone. Each of these commands answers a next state
in which no register field outside the rows named and no other part of the state has changed; for a command that may
restart the module or access any register, the parts named stay. (the Registers section of each chapter: the fields
its operations write; 20_observability.md: R386, R391 (counted events, attic records); 21_host_corridor.md: R404 to
R406 (doorbells)) -/
def Obligations.LineAndReceiverFrames : Prop :=
  ∀ s : State,
    (∀ (w : Wing) (shaped : Nat), Answers (.superframeBoundaryTx w shaped) s (fun t => s.Framed t (bellRows.append
      [.REF_EVT_CAND_CHANGE, .REF_CAND_STAT_ELIGIBLE, .REF_CAND_STAT_QL_FAILED, .REF_CAND_STAT_QL,
      .TXW_LINE_NEXT_COUNTDOWN, .RXW_HDR_STAT_HDR_LOSS_TX, .TXW_CLIP_CNT_COUNT, .FEC_ACCT_A_DM_BITS,
      .FEC_ACCT_A_BLOCKS, .FEC_ACCT_P_PARITY, .FEC_ACCT_I_INFO, .ELC_HS_STAT_STATE, .ELC_HS_STAT_ICM_RC,
      .ELC_EVT_ICM_RC, .ELC_ADV_TX_VIA_ICM, .ELC_ADV_TX_MARGIN, .ICM_USER_TX_CTL_QUEUED]) [.inuse, .out, .host,
      .pmu, .tx, .icm])) ∧
    (∀ (w : Wing) (pos corr : Nat) (hdr : Option HeaderRx) (adc : List (List Int)), Answers (.carrierFrameRx w pos
      corr hdr adc) s (fun t => s.Framed t (bellRows.append (lostRows.append [.REF_EVT_CAND_CHANGE,
      .REF_CAND_STAT_ELIGIBLE, .REF_CAND_STAT_QL_FAILED, .REF_CAND_STAT_QL, .PMU_EVT_TAG_READY,
      .PMU_TAG_STAT_IN_FLIGHT, .PMU_TAG_STAT_FILL, .PMU_TAG_LOST_COUNT, .PMU_HIST_BIN_COUNT, .PMU_HIST_UNDER_COUNT,
      .PMU_HIST_OVER_COUNT, .RXW_LINE_CUR_BAUD, .RXW_LINE_CUR_H_IDX, .RXW_LINE_CUR_FEC, .RXW_LINE_CUR_BASE,
      .RXW_LINE_CUR_SLOTS, .RXW_SLOT_MAP_E3, .RXW_SLOT_MAP_E2, .RXW_SLOT_MAP_E1, .RXW_SLOT_MAP_E0,
      .RXW_HDR_STAT_CF_ALIGNED, .RXW_HDR_STAT_SF_ALIGNED, .RXW_HDR_STAT_MAP_VALID, .RXW_HDR_STAT_MAP_BAD,
      .RXW_HDR_STAT_MAP_DISAGREE, .RXW_HDR_STAT_BAUD_MISM, .RXW_HDR_STAT_FLOOR_RX, .RXW_HDR_STAT_ICM_RC_RX,
      .RXW_HDR_STAT_HDR_LOSS_RX, .RXW_HDR_STAT_QL_RX, .RXW_HDR_STAT_WING_RX, .RXW_HDR_ERR_CF_SLIP,
      .RXW_HDR_ERR_HDR_DIFF, .RXW_HDR_ERR_HDR_CRC, .RXW_PR_SLIP_COUNT, .FEC_ACCT_A_DM_BITS, .FEC_ACCT_A_BLOCKS,
      .FEC_ACCT_P_PARITY, .FEC_ACCT_I_INFO, .ELC_HS_STAT_ADV_STALE, .ELC_HS_STAT_LOOP_SF, .ELC_RX_HS_RSTATE,
      .ELC_RX_HS_ANN_SEQ, .ELC_RX_HS_MAP_COMPLETE, .ELC_RX_HS_FLOOR_MISM, .ELC_EVT_ADV_RX, .ELC_ADV_RX_VALID,
      .ELC_ADV_RX_VIA_ICM, .ELC_ADV_RX_SEQ, .ELC_ADV_RX_H_IDX, .ELC_ADV_RX_FEC, .ELC_ADV_RX_MARGIN,
      .ELC_CNT2_LATE_ACKS, .ELC_CNT3_REFUSED, .CIP_PIPE_STAT_ACTIVE, .CIP_PIPE_STAT_SUSPENDED, .CIP_CTX_STAT_USED,
      .CIP_NO_KEY_COUNT, .CLI_PORT_STAT_XOFF, .PAN_EQ_OCC_CELLS, .PAN_IQ_OCC_CELLS, .PAN_PART_USE_USED,
      .PAN_SHARED_FREE, .PAN_DESC_FREE_FREE])) [.out, .host, .attic, .pmu, .rx, .tx, .pan, .sched, .dec, .cip])) ∧
    (∀ (w : Wing), Answers (.cfAlignLoss w) s (fun t => s.Framed t (bellRows.append (candRows.append
      (receiverRows.append [.PMU_EVT_TAG_READY, .PMU_TAG_STAT_IN_FLIGHT, .PMU_TAG_STAT_FILL, .PMU_TAG_LOST_COUNT,
      .PMU_HIST_BIN_COUNT, .PMU_HIST_UNDER_COUNT, .PMU_HIST_OVER_COUNT, .RXW_HDR_STAT_CF_ALIGNED,
      .RXW_HDR_STAT_SF_ALIGNED, .RXW_HDR_STAT_MAP_VALID, .RXW_HDR_STAT_BAUD_MISM, .RXW_HDR_ERR_CF_SLIP,
      .RXW_FR_STAT_LOCKED, .RXW_FR_STAT_OFFSET, .RXW_CD_STAT_VALID, .RXW_TR_STAT_LOCKED, .RXW_EQ_STAT_CONVERGED,
      .RXW_EQ_STAT_MODE, .RXW_RX_STAT_ACQ_COUNT, .FEC_STAT_PROFILE_RX, .FEC_BLOCKS_LO_BLOCKS, .FEC_BLOCKS_HI_BLOCKS,
      .FEC_UNCORR_LO_UNCORR, .FEC_UNCORR_HI_UNCORR, .FEC_UNCORR_P1_LO_UNCORR_P1, .FEC_UNCORR_P1_HI_UNCORR_P1,
      .FEC_BITS_LO_BITS, .FEC_BITS_HI_BITS, .FEC_ERR_BITS_LO_ERR_BITS, .FEC_ERR_BITS_HI_ERR_BITS,
      .FEC_DEMATCH_LO_DEMATCH_ERR, .FEC_DEMATCH_HI_DEMATCH_ERR, .FEC_ITER_LO_ITER_SUM, .FEC_ITER_HI_ITER_SUM,
      .ELC_RX_HS_RSTATE, .ELC_RX_HS_ANN_SEQ, .ELC_RX_HS_MAP_COMPLETE, .OHD_FR_STAT_CANDS, .OHD_SMC_FAS_FALSE_COUNT,
      .CIP_PIPE_STAT_ACTIVE, .CIP_PIPE_STAT_SUSPENDED, .CIP_CTX_STAT_USED, .CIP_NO_KEY_COUNT, .CLI_PORT_STAT_XOFF,
      .PAN_EQ_OCC_CELLS, .PAN_IQ_OCC_CELLS, .PAN_PART_USE_USED, .PAN_SHARED_FREE, .PAN_DESC_FREE_FREE,
      .ICM_RX_STAT_STATE, .ICM_RX_STAT_AGC_FROZEN]))) [.out, .host, .pmu, .power, .rx, .tx, .icm, .pan, .sched,
      .dec, .otn, .cip, .dpll])) ∧
    (∀ (w : Wing), Answers (.hdrLossSet w) s (fun t => s.Framed t [] [.out, .rx, .tx])) ∧
    (∀ (w : Wing), Answers (.hdrLossClear w) s (fun t => s.Framed t [] [.out, .tx])) ∧
    (∀ (w : Wing) (m : SuperframeRx), Answers (.superframeBoundaryRx w m) s (fun t => s.Framed t
      [.RXW_FR_STAT_OFFSET, .RXW_TR_STAT_OFFSET, .RXW_SP2_STAT_WAIT_PWR, .FEC_ACCT_A_DM_BITS, .FEC_ACCT_A_BLOCKS,
      .FEC_ACCT_P_PARITY, .FEC_ACCT_I_INFO, .ELC_RX_HS_RSTATE, .ELC_RX_HS_ANN_SEQ, .ELC_RX_HS_MAP_COMPLETE] [.inuse,
      .out, .power, .rx, .tx, .dec])) ∧
    (∀ (req : Req) (w : Wing) (ch fine : Int), Answers (.txFreqWrite req w ch fine) s (fun t => s.Framed t
      (bellRows.append [.OPT_TX_FREQ_CH, .OPT_TX_FREQ_FINE, .OPT_TX_STAT_STATE, .OPT_TX_STAT_FREQ_LOCKED,
      .OPT_TX_EVT_TUNE_FAIL, .CNV_DAC_CAL_BUSY, .ICM_USER_TX_CTL_QUEUED]) [.out, .host, .pmu, .opt, .icm])) ∧
    (∀ (req : Req) (w : Wing) (ch fine : Int), Answers (.loFreqWrite req w ch fine) s (fun t => s.Framed t
      (bellRows.append (candRows.append (receiverRows.append [.PMU_EVT_TAG_READY, .PMU_TAG_STAT_IN_FLIGHT,
      .PMU_TAG_STAT_FILL, .PMU_TAG_LOST_COUNT, .PMU_HIST_BIN_COUNT, .PMU_HIST_UNDER_COUNT, .PMU_HIST_OVER_COUNT,
      .RXW_HDR_STAT_CF_ALIGNED, .RXW_HDR_STAT_SF_ALIGNED, .RXW_HDR_STAT_MAP_VALID, .RXW_HDR_STAT_BAUD_MISM,
      .OPT_LO_FREQ_CH, .OPT_LO_FREQ_FINE, .OPT_TX_STAT_LO_LOCKED, .OPT_TX_EVT_LO_TUNE_FAIL, .RXW_FR_STAT_LOCKED,
      .RXW_CD_STAT_VALID, .RXW_TR_STAT_LOCKED, .RXW_EQ_STAT_CONVERGED, .RXW_EQ_STAT_MODE, .FEC_STAT_PROFILE_RX,
      .FEC_BLOCKS_LO_BLOCKS, .FEC_BLOCKS_HI_BLOCKS, .FEC_UNCORR_LO_UNCORR, .FEC_UNCORR_HI_UNCORR,
      .FEC_UNCORR_P1_LO_UNCORR_P1, .FEC_UNCORR_P1_HI_UNCORR_P1, .FEC_BITS_LO_BITS, .FEC_BITS_HI_BITS,
      .FEC_ERR_BITS_LO_ERR_BITS, .FEC_ERR_BITS_HI_ERR_BITS, .FEC_DEMATCH_LO_DEMATCH_ERR,
      .FEC_DEMATCH_HI_DEMATCH_ERR, .FEC_ITER_LO_ITER_SUM, .FEC_ITER_HI_ITER_SUM, .ELC_RX_HS_RSTATE,
      .ELC_RX_HS_ANN_SEQ, .ELC_RX_HS_MAP_COMPLETE, .OHD_FR_STAT_CANDS, .OHD_SMC_FAS_FALSE_COUNT,
      .CIP_PIPE_STAT_ACTIVE, .CIP_PIPE_STAT_SUSPENDED, .CIP_CTX_STAT_USED, .CIP_NO_KEY_COUNT, .CLI_PORT_STAT_XOFF,
      .PAN_EQ_OCC_CELLS, .PAN_IQ_OCC_CELLS, .PAN_PART_USE_USED, .PAN_SHARED_FREE, .PAN_DESC_FREE_FREE,
      .ICM_RX_STAT_STATE, .ICM_RX_STAT_AGC_FROZEN]))) [.out, .host, .pmu, .power, .rx, .tx, .opt, .icm, .pan,
      .sched, .dec, .otn, .cip, .dpll])) ∧
    (∀ (w : Wing), Answers (.txLaserLock w) s (fun t => s.Framed t (bellRows.append [.OPT_TX_STAT_STATE,
      .OPT_TX_STAT_FREQ_LOCKED, .OPT_TX_EVT_TUNE_DONE, .ICM_USER_TX_CTL_QUEUED]) [.out, .host, .pmu, .opt, .icm])) ∧
    (∀ (w : Wing), Answers (.txTuneTimeout w) s (fun t => s.Framed t (bellRows.append [.OPT_TX_STAT_STATE,
      .OPT_TX_EVT_TUNE_FAIL, .ICM_USER_TX_CTL_QUEUED]) [.out, .host, .pmu, .opt, .icm])) ∧
    (∀ (w : Wing), Answers (.loTuneDone w) s (fun t => s.Framed t (bellRows.append [.OPT_TX_STAT_LO_LOCKED,
      .OPT_TX_EVT_LO_TUNE_DONE]) [.out, .host, .pmu, .opt])) ∧
    (∀ (w : Wing), Answers (.loTuneFail w) s (fun t => s.Framed t (bellRows.append [.OPT_TX_EVT_LO_TUNE_FAIL])
      [.out, .host, .pmu, .opt])) ∧
    (∀ (req : Req) (w : Wing) (enable : Bool) (rampMs : Nat) (power : Int), Answers (.txCtlWrite req w enable rampMs
      power) s (fun t => s.Framed t [.OPT_TX_CTL_ENABLE, .OPT_TX_CTL_RAMP_MS, .OPT_TX_CTL_POWER] [.inuse, .out])) ∧
    (∀ (w : Wing), Answers (.rampUpdate w) s (fun t => s.Framed t (bellRows.append [.OPT_TX_CTL_ENABLE,
      .OPT_TX_CTL_RAMP_MS, .OPT_TX_CTL_POWER, .OPT_TX_STAT_STATE, .OPT_TX_STAT_FREQ_LOCKED, .OPT_TX_STAT_POWER_MEAS,
      .OPT_TX_EVT_RAMP_DONE, .CNV_DAC_CAL_BUSY, .SUP_INJ_STAT_BUSY, .SUP_INJ_STAT_MERGED, .ICM_EVT_TX_ABORT,
      .ICM_CNT4_TX_ABORT, .ICM_USER_TX_CTL_QUEUED]) [.inuse, .out, .host, .pmu, .opt, .icm, .sup])) ∧
    (∀ (w : Wing), Answers (.powerLoopUpdate w) s (fun t => s.Framed t (bellRows.append [.OPT_TX_EVT_POWER_OOR])
      [.out, .host, .pmu, .opt])) ∧
    (∀ (w : Wing), Answers (.txDisAssert w) s (fun t => s.Framed t (bellRows.append [.OPT_TX_STAT_STATE,
      .OPT_TX_STAT_TXDIS_PIN, .OPT_TX_STAT_FREQ_LOCKED, .OPT_TX_STAT_POWER_MEAS, .OPT_TX_EVT_TXDIS_EDGE,
      .ICM_EVT_TX_ABORT, .ICM_CNT4_TX_ABORT, .ICM_USER_TX_CTL_QUEUED]) [.out, .pins, .host, .pmu, .opt, .icm,
      .sup])) ∧
    (∀ (w : Wing) (onTarget : Bool), Answers (.txDisDeassert w onTarget) s (fun t => s.Framed t [.OPT_TX_STAT_STATE,
      .OPT_TX_STAT_TXDIS_PIN, .OPT_TX_STAT_FREQ_LOCKED, .CNV_DAC_CAL_BUSY, .ICM_USER_TX_CTL_QUEUED] [.out, .pins,
      .opt, .icm])) ∧
    (∀ (w : Wing) (power : Int), Answers (.losAssert w power) s (fun t => s.Framed t (bellRows.append
      (candRows.append (receiverRows.append [.PMU_EVT_TAG_READY, .PMU_TAG_STAT_IN_FLIGHT, .PMU_TAG_STAT_FILL,
      .PMU_TAG_LOST_COUNT, .PMU_HIST_BIN_COUNT, .PMU_HIST_UNDER_COUNT, .PMU_HIST_OVER_COUNT,
      .RXW_HDR_STAT_CF_ALIGNED, .RXW_HDR_STAT_SF_ALIGNED, .RXW_HDR_STAT_MAP_VALID, .RXW_HDR_STAT_BAUD_MISM,
      .OPT_RX_LOS_HYST, .OPT_RX_LOS_LOS_TH, .OPT_RX_STAT_LOS, .OPT_RX_STAT_POWER_MEAS, .RXW_FR_STAT_LOCKED,
      .RXW_CD_STAT_VALID, .RXW_TR_STAT_LOCKED, .RXW_EQ_STAT_CONVERGED, .RXW_EQ_STAT_MODE, .FEC_STAT_PROFILE_RX,
      .FEC_BLOCKS_LO_BLOCKS, .FEC_BLOCKS_HI_BLOCKS, .FEC_UNCORR_LO_UNCORR, .FEC_UNCORR_HI_UNCORR,
      .FEC_UNCORR_P1_LO_UNCORR_P1, .FEC_UNCORR_P1_HI_UNCORR_P1, .FEC_BITS_LO_BITS, .FEC_BITS_HI_BITS,
      .FEC_ERR_BITS_LO_ERR_BITS, .FEC_ERR_BITS_HI_ERR_BITS, .FEC_DEMATCH_LO_DEMATCH_ERR,
      .FEC_DEMATCH_HI_DEMATCH_ERR, .FEC_ITER_LO_ITER_SUM, .FEC_ITER_HI_ITER_SUM, .ELC_RX_HS_RSTATE,
      .ELC_RX_HS_ANN_SEQ, .ELC_RX_HS_MAP_COMPLETE, .OHD_FR_STAT_CANDS, .OHD_SMC_FAS_FALSE_COUNT,
      .CIP_PIPE_STAT_ACTIVE, .CIP_PIPE_STAT_SUSPENDED, .CIP_CTX_STAT_USED, .CIP_NO_KEY_COUNT, .CLI_PORT_STAT_XOFF,
      .PAN_EQ_OCC_CELLS, .PAN_IQ_OCC_CELLS, .PAN_PART_USE_USED, .PAN_SHARED_FREE, .PAN_DESC_FREE_FREE,
      .SUP_INJ_STAT_BUSY, .SUP_INJ_STAT_MERGED, .ICM_RX_STAT_STATE, .ICM_RX_STAT_AGC_FROZEN]))) [.inuse, .out,
      .pins, .host, .pmu, .power, .rx, .tx, .icm, .pan, .sched, .sup, .dec, .otn, .cip, .dpll])) ∧
    (∀ (w : Wing) (power : Int), Answers (.losClear w power) s (fun t => s.Framed t [.OPT_RX_LOS_HYST,
      .OPT_RX_LOS_LOS_TH, .OPT_RX_STAT_LOS, .SUP_INJ_STAT_BUSY, .SUP_INJ_STAT_MERGED, .ICM_USER_TX_CTL_QUEUED]
      [.inuse, .out, .pins, .pmu, .icm, .sup])) ∧
    (∀ (w : Wing), Answers (.acqStart w) s (fun t => s.Framed t (bellRows.append (candRows.append
      (receiverRows.append [.PMU_EVT_TAG_READY, .PMU_TAG_STAT_IN_FLIGHT, .PMU_TAG_STAT_FILL, .PMU_TAG_LOST_COUNT,
      .PMU_HIST_BIN_COUNT, .PMU_HIST_UNDER_COUNT, .PMU_HIST_OVER_COUNT, .RXW_HDR_STAT_CF_ALIGNED,
      .RXW_HDR_STAT_SF_ALIGNED, .RXW_HDR_STAT_MAP_VALID, .RXW_HDR_STAT_BAUD_MISM, .RXW_FR_STAT_LOCKED,
      .RXW_FR_STAT_OFFSET, .RXW_CD_STAT_VALID, .RXW_TR_STAT_LOCKED, .RXW_EQ_STAT_CONVERGED, .RXW_EQ_STAT_MODE,
      .RXW_RX_STAT_ACQ_COUNT, .FEC_STAT_PROFILE_RX, .FEC_BLOCKS_LO_BLOCKS, .FEC_BLOCKS_HI_BLOCKS,
      .FEC_UNCORR_LO_UNCORR, .FEC_UNCORR_HI_UNCORR, .FEC_UNCORR_P1_LO_UNCORR_P1, .FEC_UNCORR_P1_HI_UNCORR_P1,
      .FEC_BITS_LO_BITS, .FEC_BITS_HI_BITS, .FEC_ERR_BITS_LO_ERR_BITS, .FEC_ERR_BITS_HI_ERR_BITS,
      .FEC_DEMATCH_LO_DEMATCH_ERR, .FEC_DEMATCH_HI_DEMATCH_ERR, .FEC_ITER_LO_ITER_SUM, .FEC_ITER_HI_ITER_SUM,
      .ELC_RX_HS_RSTATE, .ELC_RX_HS_ANN_SEQ, .ELC_RX_HS_MAP_COMPLETE, .OHD_FR_STAT_CANDS, .OHD_SMC_FAS_FALSE_COUNT,
      .CIP_PIPE_STAT_ACTIVE, .CIP_PIPE_STAT_SUSPENDED, .CIP_CTX_STAT_USED, .CIP_NO_KEY_COUNT, .CLI_PORT_STAT_XOFF,
      .PAN_EQ_OCC_CELLS, .PAN_IQ_OCC_CELLS, .PAN_PART_USE_USED, .PAN_SHARED_FREE, .PAN_DESC_FREE_FREE]))) [.out,
      .host, .pmu, .power, .rx, .tx, .icm, .pan, .sched, .dec, .otn, .cip, .dpll])) ∧
    (∀ (w : Wing) (m : AcqInput), Answers (.acqStepComplete w m) s (fun t => s.Framed t (bellRows.append
      (lostRows.append (candRows.append (receiverRows.append [.RAS_INJ_ARMED, .RXW_FR_STAT_LOCKED,
      .RXW_FR_STAT_OFFSET, .RXW_CD_STAT_VALID, .RXW_CD_STAT_CD_EST, .RXW_TAP_STAT_USED, .RXW_TR_STAT_LOCKED,
      .RXW_TR_STAT_OFFSET, .RXW_EQ_STAT_CONVERGED, .RXW_EQ_STAT_MODE, .RXW_EQ_STAT_DGD_EST, .RXW_EQ_STAT_PDL_EST,
      .RXW_SP2_STAT_WAIT_PWR, .RXW_RX_STAT_FAIL_REASON, .RXW_RX_STAT_WARM_USED, .RXW_RX_EVT_CD_RANGE,
      .RXW_RX_EVT_ACQ_FAIL, .RXW_RX_EVT_READY_RISE, .FEC_STAT_PROFILE_RX, .FEC_BLOCKS_LO_BLOCKS,
      .FEC_BLOCKS_HI_BLOCKS, .FEC_UNCORR_LO_UNCORR, .FEC_UNCORR_HI_UNCORR, .FEC_UNCORR_P1_LO_UNCORR_P1,
      .FEC_UNCORR_P1_HI_UNCORR_P1, .FEC_BITS_LO_BITS, .FEC_BITS_HI_BITS, .FEC_ERR_BITS_LO_ERR_BITS,
      .FEC_ERR_BITS_HI_ERR_BITS, .FEC_DEMATCH_LO_DEMATCH_ERR, .FEC_DEMATCH_HI_DEMATCH_ERR, .FEC_ITER_LO_ITER_SUM,
      .FEC_ITER_HI_ITER_SUM, .OHD_FR_STAT_CANDS, .OHD_SMC_FAS_FALSE_COUNT])))) [.out, .host, .attic, .pmu, .power,
      .ras, .rx, .icm, .dec, .otn, .dpll])) ∧
    (∀ (w : Wing) (reason : Fin 16), Answers (.acqFail w reason) s (fun t => s.Framed t (bellRows.append
      (lostRows.append (candRows.append (receiverRows.append [.RXW_RX_STAT_FAIL_REASON, .RXW_RX_EVT_CD_RANGE,
      .RXW_RX_EVT_ACQ_FAIL, .FEC_STAT_PROFILE_RX, .FEC_BLOCKS_LO_BLOCKS, .FEC_BLOCKS_HI_BLOCKS,
      .FEC_UNCORR_LO_UNCORR, .FEC_UNCORR_HI_UNCORR, .FEC_UNCORR_P1_LO_UNCORR_P1, .FEC_UNCORR_P1_HI_UNCORR_P1,
      .FEC_BITS_LO_BITS, .FEC_BITS_HI_BITS, .FEC_ERR_BITS_LO_ERR_BITS, .FEC_ERR_BITS_HI_ERR_BITS,
      .FEC_DEMATCH_LO_DEMATCH_ERR, .FEC_DEMATCH_HI_DEMATCH_ERR, .FEC_ITER_LO_ITER_SUM, .FEC_ITER_HI_ITER_SUM,
      .OHD_FR_STAT_CANDS, .OHD_SMC_FAS_FALSE_COUNT])))) [.out, .host, .attic, .pmu, .power, .rx, .icm, .dec, .otn,
      .dpll])) ∧
    (∀ (w : Wing), Answers (.acqRetry w) s (fun t => s.Framed t (bellRows.append (candRows.append
      (receiverRows.append [.PMU_EVT_TAG_READY, .PMU_TAG_STAT_IN_FLIGHT, .PMU_TAG_STAT_FILL, .PMU_TAG_LOST_COUNT,
      .PMU_HIST_BIN_COUNT, .PMU_HIST_UNDER_COUNT, .PMU_HIST_OVER_COUNT, .RXW_HDR_STAT_CF_ALIGNED,
      .RXW_HDR_STAT_SF_ALIGNED, .RXW_HDR_STAT_MAP_VALID, .RXW_HDR_STAT_BAUD_MISM, .RXW_FR_STAT_LOCKED,
      .RXW_FR_STAT_OFFSET, .RXW_CD_STAT_VALID, .RXW_TR_STAT_LOCKED, .RXW_EQ_STAT_CONVERGED, .RXW_EQ_STAT_MODE,
      .RXW_RX_STAT_ACQ_COUNT, .FEC_STAT_PROFILE_RX, .FEC_BLOCKS_LO_BLOCKS, .FEC_BLOCKS_HI_BLOCKS,
      .FEC_UNCORR_LO_UNCORR, .FEC_UNCORR_HI_UNCORR, .FEC_UNCORR_P1_LO_UNCORR_P1, .FEC_UNCORR_P1_HI_UNCORR_P1,
      .FEC_BITS_LO_BITS, .FEC_BITS_HI_BITS, .FEC_ERR_BITS_LO_ERR_BITS, .FEC_ERR_BITS_HI_ERR_BITS,
      .FEC_DEMATCH_LO_DEMATCH_ERR, .FEC_DEMATCH_HI_DEMATCH_ERR, .FEC_ITER_LO_ITER_SUM, .FEC_ITER_HI_ITER_SUM,
      .ELC_RX_HS_RSTATE, .ELC_RX_HS_ANN_SEQ, .ELC_RX_HS_MAP_COMPLETE, .OHD_FR_STAT_CANDS, .OHD_SMC_FAS_FALSE_COUNT,
      .CIP_PIPE_STAT_ACTIVE, .CIP_PIPE_STAT_SUSPENDED, .CIP_CTX_STAT_USED, .CIP_NO_KEY_COUNT, .CLI_PORT_STAT_XOFF,
      .PAN_EQ_OCC_CELLS, .PAN_IQ_OCC_CELLS, .PAN_PART_USE_USED, .PAN_SHARED_FREE, .PAN_DESC_FREE_FREE]))) [.out,
      .host, .pmu, .power, .rx, .tx, .icm, .pan, .sched, .dec, .otn, .cip, .dpll])) ∧
    (∀ (req : Req) (w : Wing) (warm : Bool), Answers (.reacq req w warm) s (fun t => s.Framed t (bellRows.append
      (candRows.append (receiverRows.append [.PMU_EVT_TAG_READY, .PMU_TAG_STAT_IN_FLIGHT, .PMU_TAG_STAT_FILL,
      .PMU_TAG_LOST_COUNT, .PMU_HIST_BIN_COUNT, .PMU_HIST_UNDER_COUNT, .PMU_HIST_OVER_COUNT,
      .RXW_HDR_STAT_CF_ALIGNED, .RXW_HDR_STAT_SF_ALIGNED, .RXW_HDR_STAT_MAP_VALID, .RXW_HDR_STAT_BAUD_MISM,
      .RXW_FR_STAT_LOCKED, .RXW_FR_STAT_OFFSET, .RXW_CD_STAT_VALID, .RXW_TR_STAT_LOCKED, .RXW_EQ_STAT_CONVERGED,
      .RXW_EQ_STAT_MODE, .RXW_RX_STAT_ACQ_COUNT, .FEC_STAT_PROFILE_RX, .FEC_BLOCKS_LO_BLOCKS, .FEC_BLOCKS_HI_BLOCKS,
      .FEC_UNCORR_LO_UNCORR, .FEC_UNCORR_HI_UNCORR, .FEC_UNCORR_P1_LO_UNCORR_P1, .FEC_UNCORR_P1_HI_UNCORR_P1,
      .FEC_BITS_LO_BITS, .FEC_BITS_HI_BITS, .FEC_ERR_BITS_LO_ERR_BITS, .FEC_ERR_BITS_HI_ERR_BITS,
      .FEC_DEMATCH_LO_DEMATCH_ERR, .FEC_DEMATCH_HI_DEMATCH_ERR, .FEC_ITER_LO_ITER_SUM, .FEC_ITER_HI_ITER_SUM,
      .ELC_RX_HS_RSTATE, .ELC_RX_HS_ANN_SEQ, .ELC_RX_HS_MAP_COMPLETE, .OHD_FR_STAT_CANDS, .OHD_SMC_FAS_FALSE_COUNT,
      .CIP_PIPE_STAT_ACTIVE, .CIP_PIPE_STAT_SUSPENDED, .CIP_CTX_STAT_USED, .CIP_NO_KEY_COUNT, .CLI_PORT_STAT_XOFF,
      .PAN_EQ_OCC_CELLS, .PAN_IQ_OCC_CELLS, .PAN_PART_USE_USED, .PAN_SHARED_FREE, .PAN_DESC_FREE_FREE]))) [.out,
      .host, .pmu, .power, .rx, .tx, .icm, .pan, .sched, .dec, .otn, .cip, .dpll])) ∧
    (∀ (w : Wing) (residual : Int), Answers (.cdTrackMove w residual) s (fun t => s.Framed t (bellRows.append
      [.RAS_INJ_ARMED, .RXW_CD_STAT_VALID, .RXW_CD_STAT_CD_EST, .RXW_TAP_STAT_USED, .RXW_RX_EVT_CD_RANGE]) [.out,
      .host, .pmu, .ras])) ∧
    (∀ (w : Wing), Answers (.eqReconv w) s (fun t => s.Framed t (bellRows.append [.RXW_EQ_STAT_CONVERGED,
      .RXW_RX_EVT_EQ_RECONV]) [.out, .host, .pmu, .rx])) ∧
    (∀ (w : Wing), Answers (.sp2AutoOn w) s (fun t => s.Framed t [.RXW_SP2_STAT_WAIT_PWR] [.out, .power])) ∧
    (∀ (w : Wing), Answers (.sp2AutoOff w) s (fun t => s.Framed t [] [.out, .rx])) ∧
    (∀ (w : Wing), Answers (.sp2Start w) s (fun t => s.Framed t (bellRows.append [.RXW_SP2_STAT_ACTIVE,
      .RXW_SP2_STAT_WAIT_PWR, .RXW_RX_EVT_SP2_CHANGE]) [.out, .host, .pmu, .rx])) ∧
    (∀ (w : Wing), Answers (.sp2Stop w) s (fun t => s.Framed t (bellRows.append [.RXW_SP2_STAT_ACTIVE,
      .RXW_SP2_STAT_DRAINING, .RXW_RX_EVT_SP2_CHANGE]) [.out, .host, .pmu, .power, .rx])) ∧
    (∀ (w : Wing), Answers (.sp2DrainDone w) s (fun t => s.Framed t [.RXW_SP2_STAT_DRAINING] [.out])) ∧
    (∀ (w : Wing), Answers (.fomWindowEnd w) s (fun t => s.Framed t [.RXW_FOM_SNR_SNR_X, .RXW_FOM_SNR_SNR_Y,
      .RXW_FOM_EFF_SNR_EFF, .RXW_FOM_EFF_SNR_P1, .RXW_FOM_GMI_GMI, .RXW_FOM_GMI_NGMI, .RXW_FOM_OSNR_SAT,
      .RXW_FOM_OSNR_OSNR_EST, .RXW_FOM_MARGIN_SNR_REQ, .RXW_FOM_MARGIN_MARGIN, .ELC_ADV_TX_VALID,
      .ELC_ADV_TX_VIA_ICM, .ELC_ADV_TX_SEQ, .ELC_ADV_TX_H_IDX, .ELC_ADV_TX_FEC, .ELC_ADV_TX_MARGIN,
      .ICM_USER_TX_CTL_QUEUED] [.out, .rx, .icm])) ∧
    (∀ (w : Wing) (trims : List SliceTrim), Answers (.dacCalComplete w trims) s (fun t => s.Framed t
      (bellRows.append [.OPT_TX_STAT_STATE, .CNV_DAC_QUAL_VALID, .CNV_DAC_QUAL_RES_SKEW, .CNV_DAC_QUAL_RES_SPUR,
      .CNV_DAC_CAL_BUSY, .CNV_DAC_CAL_DONE, .CNV_EVT_DAC_CAL_DONE, .ICM_USER_TX_CTL_QUEUED]) [.out, .host, .pmu,
      .opt, .icm, .conv])) ∧
    (∀ (w : Wing), Answers (.rxRateSwitch w) s (fun t => s.Framed t (bellRows.append [.PMU_EVT_TAG_READY,
      .PMU_TAG_STAT_IN_FLIGHT, .PMU_TAG_STAT_FILL, .PMU_TAG_LOST_COUNT, .PMU_HIST_BIN_COUNT, .PMU_HIST_UNDER_COUNT,
      .PMU_HIST_OVER_COUNT, .RXW_LINE_CUR_BAUD, .RXW_LINE_CUR_H_IDX, .RXW_LINE_CUR_FEC, .RXW_LINE_CUR_BASE,
      .RXW_LINE_CUR_SLOTS, .RXW_SLOT_MAP_E3, .RXW_SLOT_MAP_E2, .RXW_SLOT_MAP_E1, .RXW_SLOT_MAP_E0,
      .RXW_HDR_STAT_MAP_VALID, .FEC_ACCT_A_DM_BITS, .FEC_ACCT_A_BLOCKS, .FEC_ACCT_P_PARITY, .FEC_ACCT_I_INFO,
      .ELC_RX_HS_RSTATE, .ELC_RX_HS_ANN_SEQ, .ELC_RX_HS_MAP_COMPLETE, .CIP_PIPE_STAT_ACTIVE,
      .CIP_PIPE_STAT_SUSPENDED, .CIP_CTX_STAT_USED, .CIP_NO_KEY_COUNT, .CLI_PORT_STAT_XOFF, .PAN_EQ_OCC_CELLS,
      .PAN_IQ_OCC_CELLS, .PAN_PART_USE_USED, .PAN_SHARED_FREE, .PAN_DESC_FREE_FREE]) [.out, .host, .pmu, .rx, .tx,
      .pan, .sched, .cip])) ∧
    (∀ (w : Wing), Answers (.wingStartStepDone w) s (fun t => s.Framed t [.OPT_TX_STAT_STATE,
      .OPT_TX_STAT_FREQ_LOCKED, .OPT_TX_STAT_LO_LOCKED, .CNV_DAC_CAL_BUSY, .ICM_USER_TX_CTL_QUEUED] [.out, .boot,
      .opt, .icm])) ∧
    (∀ (w : Wing), Answers (.eqReconvDone w) s (fun t => s.Framed t [.RXW_EQ_STAT_CONVERGED] [.out, .rx]))

/-- What the commands of the converters, the supervisory converter and the decoder leave alone. Each of these commands
answers a next state in which no register field outside the rows named and no other part of the state has changed;
for a command that may restart the module or access any register, the parts named stay. (the Registers section of
each chapter: the fields its operations write; 20_observability.md: R386, R391 (counted events, attic records);
21_host_corridor.md: R404 to R406 (doorbells)) -/
def Obligations.ConverterAndDecoderFrames : Prop :=
  ∀ s : State,
    (∀ (w : Wing) (adc : Bool), Answers (.synthLock w adc) s (fun t => s.Framed t [.CNV_ADC_CLK_LOCKED,
      .CNV_DAC_CLK_LOCKED, .CNV_ADC_CLK_FS, .CNV_DAC_CLK_FS, .CNV_CAL_STAT_ROTATING, .CNV_CAL_STAT_CALIBRATING,
      .CNV_QUAL_VALID, .CNV_DIM_FLAGS_STALE, .CNV_SLICE_FLAGS_STALE] [.out, .conv])) ∧
    (∀ (w : Wing) (trims : List SliceTrim), Answers (.fgCalComplete w trims) s (fun t => s.Framed t (bellRows.append
      [.CNV_CAL_STAT_ROTATING, .CNV_CAL_STAT_PARKED, .CNV_CAL_STAT_RISING, .CNV_CAL_STAT_CALIBRATING,
      .CNV_CAL_STAT_SPARE, .CNV_PARK_EN, .CNV_PARK_SLICE, .CNV_QUAL_VALID, .CNV_QUAL_RES_SKEW, .CNV_QUAL_RES_SPUR,
      .CNV_EVT_PARK_DONE, .CNV_TRIM_SKEW_TAP, .CNV_TRIM_GAIN, .CNV_TRIM_OFFSET]) [.inuse, .out, .host, .pmu,
      .conv])) ∧
    (∀ (req : Req) (w : Wing), Answers (.calRestart req w) s (fun t => s.Framed t (bellRows.append
      [.CNV_CAL_STAT_ROTATING, .CNV_CAL_STAT_PARKED, .CNV_CAL_STAT_RISING, .CNV_CAL_STAT_CALIBRATING,
      .CNV_CAL_STAT_SWEEPS, .CNV_QUAL_VALID, .CNV_EVT_PARK_DONE, .CNV_DIM_FLAGS_STALE, .CNV_SLICE_FLAGS_STALE])
      [.out, .host, .pmu, .conv])) ∧
    (∀ (w : Wing) (d : Fin 4) (found : Trims), Answers (.spareCalComplete w d found) s (fun t => s.Framed t
      (bellRows.append [.CNV_CAL_STAT_ROTATING, .CNV_CAL_STAT_PARKED, .CNV_CAL_STAT_CALIBRATING,
      .CNV_CAL_STAT_SKEW_SKIPPED, .CNV_EVT_PARK_DONE]) [.out, .host, .pmu, .conv])) ∧
    (∀ (w : Wing) (d : Fin 4), Answers (.sliceHandover w d) s (fun t => s.Framed t (bellRows.append
      [.CNV_CAL_STAT_ROTATING, .CNV_CAL_STAT_PARKED, .CNV_CAL_STAT_RISING, .CNV_CAL_STAT_CALIBRATING,
      .CNV_CAL_STAT_SPARE, .CNV_CAL_STAT_SWEEPS, .CNV_PARK_EN, .CNV_PARK_SLICE, .CNV_QUAL_VALID, .CNV_QUAL_RES_SKEW,
      .CNV_QUAL_RES_SPUR, .CNV_DAC_CAL_BUSY, .CNV_DAC_CAL_REFUSED, .CNV_EVT_PARK_DONE, .CNV_EVT_SWEEP_DONE,
      .CNV_TRIM_SKEW_TAP, .CNV_TRIM_GAIN, .CNV_TRIM_OFFSET, .CNV_DIM_FLAGS_STALE, .CNV_SLICE_FLAGS_STALE]) [.inuse,
      .out, .host, .pmu, .conv])) ∧
    (∀ (w : Wing) (d : Fin 4), Answers (.dwellExpiry w d) s (fun t => s.Framed t [.CNV_CAL_STAT_ROTATING,
      .CNV_CAL_STAT_CALIBRATING] [.out, .conv])) ∧
    (∀ (req : Req) (w : Wing), Answers (.dacCalStart req w) s (fun t => s.Framed t [.CNV_DAC_CAL_BUSY,
      .CNV_DAC_CAL_REFUSED] [.out, .conv])) ∧
    (∀ (code : Nat), Answers (.supConversion code) s (fun t => s.Framed t [.PWR_VIN_STAT_VIN,
      .OPT_TX_STAT_POWER_MEAS, .OPT_RX_STAT_POWER_MEAS, .SUP_INJ_STAT_BUSY, .SUP_INJ_STAT_RUNS,
      .SUP_DEC_STAT_RESETS, .SUP_CAL_CTL_BUSY, .SUP_CAL_CTL_DEFERRED, .SUP_CH_FLAGS_STALE] [.out, .pmu, .sup])) ∧
    (∀ (src : Fin 5), Answers (.injTrigger src) s (fun t => s.Framed t [.SUP_INJ_STAT_BUSY, .SUP_INJ_STAT_MERGED]
      [.out, .pmu, .sup])) ∧
    (∀ (req : Req), Answers (.injGo req) s (fun t => s.Framed t [.SUP_INJ_STAT_BUSY, .SUP_INJ_STAT_MERGED] [.out,
      .pmu, .sup])) ∧
    (∀ (m : RoundInput), Answers (.decRound m) s (fun t => s.Framed t (bellRows.append [.SUP_DEC_STAT_SAT,
      .SUP_DEC_STAT_UNSETTLED, .SUP_EVT_SAT, .ICM_CNT5_ERASED]) [.out, .host, .pmu, .icm, .sup])) ∧
    (∀ (req : Req) (mask : Nat), Answers (.decReset req mask) s (fun t => s.Framed t [.SUP_DEC_STAT_RESETS] [.out,
      .pmu, .sup])) ∧
    (∀ (req : Req), Answers (.supCalStart req) s (fun t => s.Framed t [.SUP_CAL_CTL_BUSY, .SUP_CAL_CTL_DEFERRED,
      .SUP_CH_FLAGS_STALE] [.out, .sup])) ∧
    (Answers (.supCalAuto) s (fun t => s.Framed t [.SUP_CAL_CTL_DEFERRED] [.out, .sup])) ∧
    (Answers (.supCalDone) s (fun t => s.Framed t (bellRows.append [.SUP_CAL_CTL_BUSY, .SUP_CAL_CTL_COUNT,
      .SUP_EVT_CAL_DONE]) [.out, .host, .pmu, .sup])) ∧
    (∀ (w : Wing) (b : BlockRx), Answers (.fecBlockDecode w b) s (fun t => s.Framed t [.FEC_STAT_PROFILE_RX,
      .FEC_BLOCKS_LO_BLOCKS, .FEC_BLOCKS_HI_BLOCKS, .FEC_UNCORR_LO_UNCORR, .FEC_UNCORR_HI_UNCORR,
      .FEC_UNCORR_P1_LO_UNCORR_P1, .FEC_UNCORR_P1_HI_UNCORR_P1, .FEC_BITS_LO_BITS, .FEC_BITS_HI_BITS,
      .FEC_ERR_BITS_LO_ERR_BITS, .FEC_ERR_BITS_HI_ERR_BITS, .FEC_DEMATCH_LO_DEMATCH_ERR,
      .FEC_DEMATCH_HI_DEMATCH_ERR, .FEC_ITER_LO_ITER_SUM, .FEC_ITER_HI_ITER_SUM, .OHD_FR_STAT_CANDS,
      .OHD_SMC_FAS_FALSE_COUNT] [.out, .pmu, .rx, .dec, .otn])) ∧
    (∀ (w : Wing), Answers (.fecLock w) s (fun t => s.Framed t (bellRows.append [.FEC_STAT_LOCKED, .FEC_EVT_LOCK,
      .OHD_FR_STAT_SEARCHING, .OHD_FR_STAT_CANDS, .OHD_SMC_FAS_FALSE_COUNT]) [.out, .host, .pmu, .dec, .otn])) ∧
    (∀ (w : Wing), Answers (.fecLockLoss w) s (fun t => s.Framed t (bellRows.append [.FEC_STAT_LOCKED, .FEC_STAT_SF,
      .FEC_EVT_LOCK_LOSS, .FEC_EVT_SF_CHANGE, .OHD_FR_STAT_IF, .OHD_FR_STAT_IM, .OHD_FR_STAT_SEARCHING,
      .OHD_FR_STAT_MFX_VALID, .OHD_FR_STAT_CANDS, .OHD_EVT_IF_CHANGE, .OHD_SMC_OOF_EV_COUNT,
      .ICM_USER_TX_CTL_QUEUED]) [.out, .host, .pmu, .rx, .icm, .dec, .otn])) ∧
    (∀ (w : Wing), Answers (.dfecSfChange w) s (fun t => s.Framed t (bellRows.append [.FEC_STAT_SF,
      .FEC_EVT_SF_CHANGE, .ICM_USER_TX_CTL_QUEUED]) [.out, .host, .pmu, .rx, .icm])) ∧
    (∀ (w : Wing), Answers (.dfecSdWindow w) s (fun t => s.Framed t (bellRows.append [.FEC_STAT_SD,
      .FEC_EVT_SD_CHANGE]) [.out, .host, .pmu, .dec]))

/-- What the commands of the elastic capacity and the intercom leave alone. Each of these commands answers a next state
in which no register field outside the rows named and no other part of the state has changed; for a command that may
restart the module or access any register, the parts named stay. (the Registers section of each chapter: the fields
its operations write; 20_observability.md: R386, R391 (counted events, attic records); 21_host_corridor.md: R404 to
R406 (doorbells)) -/
def Obligations.CapacityAndIntercomFrames : Prop :=
  ∀ s : State,
    (∀ (req : Req) (w : Wing) (n : Fin 32) (on : Bool), Answers (.chanEnableWrite req w n on) s (fun t => s.Framed t
      [.ELC_CHAN_CFG_ENABLE] [.out])) ∧
    (∀ (w : Wing), Answers (.advStale w) s (fun t => s.Framed t [.ELC_HS_STAT_ADV_STALE] [.out])) ∧
    (∀ (w : Wing), Answers (.announceStart w) s (fun t => s.Framed t (bellRows.append [.TXW_LINE_NEXT_ANN_VALID,
      .TXW_LINE_NEXT_ANN_SEQ, .TXW_LINE_NEXT_H_IDX, .TXW_LINE_NEXT_FEC, .TXW_LINE_NEXT_COUNTDOWN,
      .TXW_LINE_NEXT_SLOTS, .ELC_CHAN_STAT_AT_MIN, .ELC_CHAN_STAT_AT_CEIL, .ELC_CHAN_STAT_SLOTS_NEXT,
      .ELC_CHAN_STAT_SLOTS_CUR, .ELC_HS_STAT_STATE, .ELC_HS_STAT_UNCONFIRMED, .ELC_EVT_MIN_BREACH,
      .ELC_EVT_ANNOUNCE, .ELC_CNT0_ANNOUNCES]) [.out, .host, .pmu, .tx])) ∧
    (∀ (w : Wing), Answers (.annCommitPoint w) s (fun t => s.Framed t (bellRows.append [.TXW_LINE_NEXT_ANN_VALID,
      .TXW_LINE_NEXT_COUNTDOWN, .ELC_CHAN_STAT_AT_MIN, .ELC_CHAN_STAT_AT_CEIL, .ELC_CHAN_STAT_SLOTS_NEXT,
      .ELC_CHAN_STAT_SLOTS_CUR, .ELC_HS_STAT_STATE, .ELC_HS_STAT_UNCONFIRMED, .ELC_HS_STAT_RETRIES,
      .ELC_EVT_WITHDRAWN, .ELC_EVT_COMMIT, .ELC_CNT1_WITHDRAWN]) [.out, .host, .pmu, .tx])) ∧
    (∀ (w : Wing), Answers (.rateSwitch w) s (fun t => s.Framed t (bellRows.append (flushRows.append
      [.TXW_LINE_CUR_BAUD, .TXW_LINE_CUR_H_IDX, .TXW_LINE_CUR_FEC, .TXW_LINE_CUR_BASE, .TXW_LINE_CUR_SLOTS,
      .TXW_LINE_NEXT_ANN_VALID, .TXW_LINE_NEXT_COUNTDOWN, .TXW_SLOT_MAP_E3, .TXW_SLOT_MAP_E2, .TXW_SLOT_MAP_E1,
      .TXW_SLOT_MAP_E0, .ELC_CHAN_STAT_AT_MIN, .ELC_CHAN_STAT_AT_CEIL, .ELC_CHAN_STAT_SLOTS_NEXT,
      .ELC_CHAN_STAT_SLOTS_CUR, .FEC_STAT_PROFILE_TX, .FEC_ACCT_A_DM_BITS, .FEC_ACCT_A_BLOCKS, .FEC_ACCT_P_PARITY,
      .FEC_ACCT_I_INFO, .ELC_HS_STAT_STATE, .ELC_HS_STAT_FLOOR_TX, .ELC_HS_STAT_UNCONFIRMED, .ELC_HS_STAT_RETRIES,
      .ELC_EVT_SWITCH, .ELC_CNT0_SWITCHES, .ELC_CNT1_UNCONFIRMED, .CIP_PIPE_STAT_ACTIVE, .CIP_PIPE_STAT_SUSPENDED,
      .CIP_CTX_STAT_USED, .SCH_EVT_GUARD_STARVE, .SCH_CH_RATE_SLOTS, .SCH_EQ_GUARD_CUR_G])) [.out, .host, .pmu, .tx,
      .pan, .sched, .otn, .cip])) ∧
    (∀ (w : Wing), Answers (.announceRetry w) s (fun t => s.Framed t (bellRows.append [.TXW_LINE_NEXT_ANN_VALID,
      .TXW_LINE_NEXT_ANN_SEQ, .TXW_LINE_NEXT_H_IDX, .TXW_LINE_NEXT_FEC, .TXW_LINE_NEXT_COUNTDOWN,
      .TXW_LINE_NEXT_SLOTS, .ELC_CHAN_STAT_AT_MIN, .ELC_CHAN_STAT_AT_CEIL, .ELC_CHAN_STAT_SLOTS_NEXT,
      .ELC_CHAN_STAT_SLOTS_CUR, .ELC_HS_STAT_STATE, .ELC_HS_STAT_UNCONFIRMED, .ELC_EVT_MIN_BREACH,
      .ELC_EVT_ANNOUNCE, .ELC_CNT0_ANNOUNCES, .ICM_USER_TX_CTL_QUEUED]) [.out, .host, .pmu, .tx, .icm])) ∧
    (∀ (w : Wing), Answers (.mismatchDeclare w) s (fun t => s.Framed t (bellRows.append [.PMU_EVT_TAG_READY,
      .PMU_TAG_STAT_IN_FLIGHT, .PMU_TAG_STAT_FILL, .PMU_TAG_LOST_COUNT, .PMU_HIST_BIN_COUNT, .PMU_HIST_UNDER_COUNT,
      .PMU_HIST_OVER_COUNT, .RXW_HDR_STAT_MAP_VALID, .ELC_RX_HS_RSTATE, .ELC_RX_HS_ANN_SEQ, .ELC_RX_HS_MAP_COMPLETE,
      .ELC_RX_HS_CAUSE, .ELC_CNT3_MISMATCH, .CIP_PIPE_STAT_ACTIVE, .CIP_PIPE_STAT_SUSPENDED, .CIP_CTX_STAT_USED,
      .CIP_NO_KEY_COUNT, .CLI_PORT_STAT_XOFF, .PAN_EQ_OCC_CELLS, .PAN_IQ_OCC_CELLS, .PAN_PART_USE_USED,
      .PAN_SHARED_FREE, .PAN_DESC_FREE_FREE]) [.out, .host, .pmu, .rx, .tx, .pan, .sched, .cip])) ∧
    (∀ (w : Wing), Answers (.fallback w) s (fun t => s.Framed t (bellRows.append (flushRows.append
      [.TXW_LINE_CUR_BAUD, .TXW_LINE_CUR_H_IDX, .TXW_LINE_CUR_FEC, .TXW_LINE_CUR_BASE, .TXW_LINE_CUR_SLOTS,
      .TXW_LINE_NEXT_ANN_VALID, .TXW_LINE_NEXT_COUNTDOWN, .TXW_SLOT_MAP_E3, .TXW_SLOT_MAP_E2, .TXW_SLOT_MAP_E1,
      .TXW_SLOT_MAP_E0, .ELC_CHAN_STAT_AT_MIN, .ELC_CHAN_STAT_AT_CEIL, .ELC_CHAN_STAT_SLOTS_NEXT,
      .ELC_CHAN_STAT_SLOTS_CUR, .FEC_STAT_PROFILE_TX, .FEC_ACCT_A_DM_BITS, .FEC_ACCT_A_BLOCKS, .FEC_ACCT_P_PARITY,
      .FEC_ACCT_I_INFO, .ELC_HS_STAT_STATE, .ELC_HS_STAT_ICM_RC, .ELC_HS_STAT_FLOOR_TX, .ELC_HS_STAT_UNCONFIRMED,
      .ELC_HS_STAT_RETRIES, .ELC_RX_HS_RSTATE, .ELC_RX_HS_ANN_SEQ, .ELC_RX_HS_MAP_COMPLETE, .ELC_RX_HS_CAUSE,
      .ELC_EVT_MIN_BREACH, .ELC_EVT_STORM, .ELC_EVT_ICM_RC, .ELC_EVT_FALLBACK, .ELC_CNT2_FALLBACKS,
      .CIP_PIPE_STAT_ACTIVE, .CIP_PIPE_STAT_SUSPENDED, .CIP_CTX_STAT_USED, .SCH_EVT_GUARD_STARVE,
      .SCH_CH_RATE_SLOTS, .SCH_EQ_GUARD_CUR_G, .ICM_USER_TX_CTL_QUEUED])) [.out, .host, .pmu, .rx, .tx, .icm, .pan,
      .sched, .otn, .cip])) ∧
    (∀ (w : Wing), Answers (.policyResume w) s (fun t => s.Framed t [] [.out, .tx])) ∧
    (∀ (w : Wing), Answers (.icmAnnounceStart w) s (fun t => s.Framed t [.ELC_HS_STAT_STATE,
      .ICM_USER_TX_CTL_QUEUED] [.out, .tx, .icm])) ∧
    (∀ (w : Wing), Answers (.icmAnnounceResend w) s (fun t => s.Framed t [.ICM_USER_TX_CTL_QUEUED] [.out, .tx,
      .icm])) ∧
    (∀ (w : Wing), Answers (.icmHandshakeFail w) s (fun t => s.Framed t (bellRows.append [.ELC_HS_STAT_STATE,
      .ELC_EVT_RC_FAIL]) [.out, .host, .pmu, .tx])) ∧
    (∀ (w : Wing), Answers (.enableChangeRetry w) s (fun t => s.Framed t [] [.out, .tx])) ∧
    (∀ (req : Req) (w : Wing), Answers (.go req w) s (fun t => s.Framed t [] [.out, .tx])) ∧
    (∀ (req : Req) (w : Wing), Answers (.resume req w) s (fun t => s.Framed t [.ELC_HS_STAT_STATE,
      .ICM_USER_TX_CTL_QUEUED] [.out, .tx, .icm])) ∧
    (∀ (req : Req) (w : Wing), Answers (.forceFloor req w) s (fun t => s.Framed t [] [.out, .tx])) ∧
    (∀ (req : Req) (w : Wing) (mode : Fin 4), Answers (.elcModeSet req w mode) s (fun t => s.Framed t
      [.ELC_CTL_MODE] [.inuse, .out])) ∧
    (∀ (w : Wing), Answers (.icmBurstStart w) s (fun t => s.Framed t [.ICM_CNT4_TX_FRAMES, .ICM_USER_TX_CTL_QUEUED]
      [.out, .pmu, .icm])) ∧
    (∀ (w : Wing), Answers (.icmBurstEnd w) s (fun t => s.Framed t [.ICM_USER_TX_CTL_QUEUED] [.out, .icm])) ∧
    (∀ (w : Wing), Answers (.icmAdviceRepeat w) s (fun t => s.Framed t [.ELC_ADV_TX_VIA_ICM, .ELC_ADV_TX_MARGIN,
      .ICM_USER_TX_CTL_QUEUED] [.out, .icm])) ∧
    (∀ (w : Wing), Answers (.icmBringupTimer w) s (fun t => s.Framed t [.ICM_USER_TX_CTL_QUEUED] [.out, .icm])) ∧
    (∀ (w : Wing), Answers (.icmTagTimer w) s (fun t => s.Framed t [.ICM_USER_TX_CTL_QUEUED] [.out, .icm])) ∧
    (∀ (w : Wing), Answers (.icmAlarmRepeat w) s (fun t => s.Framed t [.ICM_USER_TX_CTL_QUEUED] [.out, .icm])) ∧
    (∀ (w : Wing) (peaks : List (Nat × Nat)), Answers (.icmPreambleDetect w peaks) s (fun t => s.Framed t
      [.ICM_RX_STAT_STATE, .ICM_RX_STAT_AGC_FROZEN, .ICM_CNT0_DETECT] [.out, .pmu, .icm])) ∧
    (∀ (w : Wing) (rx : IcmRx), Answers (.icmFrameAbandon w rx) s (fun t => s.Framed t [.ICM_RX_STAT_STATE,
      .ICM_RX_STAT_AGC_FROZEN, .ICM_CNT1_SYNC_FAIL, .ICM_CNT1_NETID_MISM, .ICM_CNT2_HDR_FAIL, .ICM_CNT2_PAY_FAIL]
      [.out, .pmu, .icm])) ∧
    (∀ (w : Wing) (peaks : List (Nat × Nat)) (chirps : List RxChirp), Answers (.icmCapture w peaks chirps) s (fun t
      => s.Framed t [.ICM_RX_STAT_STATE, .ICM_RX_STAT_AGC_FROZEN, .ICM_CNT3_CAPTURED, .ICM_CNT3_CAPT_IGNORED] [.out,
      .pmu, .icm])) ∧
    (∀ (w : Wing) (rx : IcmRx), Answers (.icmAdviceRx w rx) s (fun t => s.Framed t (bellRows.append
      [.ELC_HS_STAT_ADV_STALE, .ELC_EVT_ADV_RX, .ELC_ADV_RX_VALID, .ELC_ADV_RX_VIA_ICM, .ELC_ADV_RX_SEQ,
      .ELC_ADV_RX_H_IDX, .ELC_ADV_RX_FEC, .ELC_ADV_RX_MARGIN, .ICM_RX_STAT_STATE, .ICM_RX_STAT_AGC_FROZEN,
      .ICM_RX_STAT_LAST_ID, .ICM_RX_STAT_LAST_SNR, .ICM_CNT0_RX_OK, .ICM_CNT1_SYNC_FAIL, .ICM_CNT1_NETID_MISM,
      .ICM_CNT2_HDR_FAIL, .ICM_CNT2_PAY_FAIL]) [.out, .host, .pmu, .tx, .icm])) ∧
    (∀ (w : Wing) (rx : IcmRx), Answers (.icmAnnounceRx w rx) s (fun t => s.Framed t [.ELC_CNT3_REFUSED,
      .ICM_RX_STAT_STATE, .ICM_RX_STAT_AGC_FROZEN, .ICM_RX_STAT_LAST_ID, .ICM_RX_STAT_LAST_SNR, .ICM_CNT0_RX_OK,
      .ICM_CNT1_SYNC_FAIL, .ICM_CNT1_NETID_MISM, .ICM_CNT2_HDR_FAIL, .ICM_CNT2_PAY_FAIL, .ICM_USER_TX_CTL_QUEUED]
      [.out, .pmu, .icm])) ∧
    (∀ (w : Wing) (rx : IcmRx), Answers (.icmAckRx w rx) s (fun t => s.Framed t (bellRows.append
      [.TXW_LINE_NEXT_ANN_VALID, .TXW_LINE_NEXT_ANN_SEQ, .TXW_LINE_NEXT_H_IDX, .TXW_LINE_NEXT_FEC,
      .TXW_LINE_NEXT_COUNTDOWN, .TXW_LINE_NEXT_SLOTS, .ELC_CHAN_STAT_AT_MIN, .ELC_CHAN_STAT_AT_CEIL,
      .ELC_CHAN_STAT_SLOTS_NEXT, .ELC_CHAN_STAT_SLOTS_CUR, .ELC_HS_STAT_STATE, .ELC_EVT_MIN_BREACH, .ELC_EVT_COMMIT,
      .ELC_EVT_ANNOUNCE, .ELC_CNT0_ANNOUNCES, .ICM_RX_STAT_STATE, .ICM_RX_STAT_AGC_FROZEN, .ICM_RX_STAT_LAST_ID,
      .ICM_RX_STAT_LAST_SNR, .ICM_CNT0_RX_OK, .ICM_CNT1_SYNC_FAIL, .ICM_CNT1_NETID_MISM, .ICM_CNT2_HDR_FAIL,
      .ICM_CNT2_PAY_FAIL]) [.out, .host, .pmu, .tx, .icm])) ∧
    (∀ (w : Wing) (rx : IcmRx), Answers (.icmBringupRx w rx) s (fun t => s.Framed t (bellRows.append
      [.ELC_FLOOR_RX_BAUD, .ELC_FLOOR_RX_H_IDX, .ELC_FLOOR_RX_FEC, .ICM_RX_STAT_STATE, .ICM_RX_STAT_AGC_FROZEN,
      .ICM_RX_STAT_LAST_ID, .ICM_RX_STAT_LAST_SNR, .ICM_EVT_BRINGUP_RX, .ICM_CNT0_RX_OK, .ICM_CNT1_SYNC_FAIL,
      .ICM_CNT1_NETID_MISM, .ICM_CNT2_HDR_FAIL, .ICM_CNT2_PAY_FAIL, .ICM_BR0_VALID, .ICM_BR0_HEARD,
      .ICM_BR0_BAUD_DIFF, .ICM_BR0_RX_STATE, .ICM_BR0_TX_BAUD, .ICM_BR0_RX_BAUD, .ICM_BR1_FLOOR_BAUD,
      .ICM_BR1_FLOOR_H, .ICM_BR1_FLOOR_FEC, .ICM_BR1_TX_CH, .ICM_USER_TX_CTL_QUEUED]) [.out, .host, .pmu, .icm])) ∧
    (∀ (w : Wing) (rx : IcmRx), Answers (.icmTagRx w rx) s (fun t => s.Framed t (bellRows.append
      [.ICM_RX_STAT_STATE, .ICM_RX_STAT_AGC_FROZEN, .ICM_RX_STAT_LAST_ID, .ICM_RX_STAT_LAST_SNR, .ICM_EVT_TAG_RX,
      .ICM_CNT0_RX_OK, .ICM_CNT1_SYNC_FAIL, .ICM_CNT1_NETID_MISM, .ICM_CNT2_HDR_FAIL, .ICM_CNT2_PAY_FAIL,
      .ICM_TAG_RX_BYTES]) [.out, .host, .pmu, .icm])) ∧
    (∀ (w : Wing) (rx : IcmRx), Answers (.icmAlarmRx w rx) s (fun t => s.Framed t (bellRows.append
      [.ICM_RX_STAT_STATE, .ICM_RX_STAT_AGC_FROZEN, .ICM_RX_STAT_LAST_ID, .ICM_RX_STAT_LAST_SNR, .ICM_EVT_ALARM_RX,
      .ICM_CNT0_RX_OK, .ICM_CNT1_SYNC_FAIL, .ICM_CNT1_NETID_MISM, .ICM_CNT2_HDR_FAIL, .ICM_CNT2_PAY_FAIL,
      .ICM_FAR_ALARM_ALARMS]) [.out, .host, .pmu, .icm])) ∧
    (∀ (w : Wing) (rx : IcmRx), Answers (.icmUserRx w rx) s (fun t => s.Framed t (bellRows.append
      [.ICM_RX_STAT_STATE, .ICM_RX_STAT_AGC_FROZEN, .ICM_RX_STAT_LAST_ID, .ICM_RX_STAT_LAST_SNR, .ICM_EVT_USER_OVF,
      .ICM_EVT_USER_RX, .ICM_CNT0_RX_OK, .ICM_CNT1_SYNC_FAIL, .ICM_CNT1_NETID_MISM, .ICM_CNT2_HDR_FAIL,
      .ICM_CNT2_PAY_FAIL, .ICM_CNT5_USER_OVF, .ICM_USER_RX_DATA_BYTES, .ICM_USER_RX_CTL_VALID,
      .ICM_USER_RX_CTL_COUNT, .ICM_USER_RX_CTL_MSEQ, .ICM_USER_RX_CTL_LEN]) [.out, .host, .pmu, .icm])) ∧
    (∀ (w : Wing), Answers (.farAlarmTimeout w) s (fun t => s.Framed t (bellRows.append [.ICM_EVT_ALARM_RX,
      .ICM_FAR_ALARM_ALARMS]) [.out, .host, .pmu])) ∧
    (∀ (req : Req) (w : Wing), Answers (.userSend req w) s (fun t => s.Framed t (bellRows.append
      [.ICM_EVT_USER_REFUSED, .ICM_USER_TX_CTL_QUEUED]) [.out, .host, .pmu, .icm])) ∧
    (∀ (req : Req) (w : Wing), Answers (.userPop req w) s (fun t => s.Framed t [.ICM_USER_RX_DATA_BYTES,
      .ICM_USER_RX_CTL_VALID, .ICM_USER_RX_CTL_COUNT, .ICM_USER_RX_CTL_MSEQ, .ICM_USER_RX_CTL_LEN] [.out, .icm]))

/-- What the commands of the overhead processor, line protection and the cipher leave alone. Each of these commands
answers a next state in which no register field outside the rows named and no other part of the state has changed;
for a command that may restart the module or access any register, the parts named stay. (the Registers section of
each chapter: the fields its operations write; 20_observability.md: R386, R391 (counted events, attic records);
21_host_corridor.md: R404 to R406 (doorbells)) -/
def Obligations.OverheadProtectionAndCipherFrames : Prop :=
  ∀ s : State,
    (∀ (w : Wing), Answers (.otnFrameTx w) s (fun t => s.Framed t [.OHD_PM_TX_BDI, .OHD_PM_TX_STAT] [.out, .tx,
      .otn])) ∧
    (∀ (w : Wing), Answers (.fasSearchMatch w) s (fun t => s.Framed t (bellRows.append [.OHD_FR_STAT_IF,
      .OHD_FR_STAT_SEARCHING, .OHD_FR_STAT_CANDS, .OHD_EVT_IF_CHANGE, .OHD_SMC_FAS_FALSE_COUNT]) [.out, .host, .pmu,
      .otn])) ∧
    (∀ (w : Wing), Answers (.otnFrameRx w) s (fun t => s.Framed t (bellRows.append [.OHD_FR_STAT_IM,
      .OHD_FR_STAT_MFX_VALID, .OHD_FR_STAT_MFX, .OHD_FR_STAT_MFAS, .OHD_EVT_TTI_ACC, .OHD_SM_TTI_ACC_BYTES,
      .OHD_APS_CNT_INCONSISTENT, .OHD_TTI_ACC_BYTES, .OHD_SMC_FRAMES_COUNT, .OHD_SMC_NE_BIP_COUNT,
      .OHD_SMC_NE_EB_COUNT, .OHD_SMC_FE_BEI_COUNT, .OHD_SMC_FE_EB_COUNT, .OHD_PMC_BLOCKS_COUNT,
      .OHD_PMC_NE_BIP_COUNT, .OHD_PMC_NE_EB_COUNT, .OHD_PMC_FE_BEI_COUNT, .OHD_PMC_FE_EB_COUNT]) [.out, .host, .pmu,
      .otn])) ∧
    (∀ (w : Wing), Answers (.oofDeclare w) s (fun t => s.Framed t (bellRows.append [.OHD_FR_STAT_IF,
      .OHD_FR_STAT_IM, .OHD_FR_STAT_SEARCHING, .OHD_FR_STAT_MFX_VALID, .OHD_FR_STAT_CANDS, .OHD_EVT_IF_CHANGE,
      .OHD_SMC_FAS_FALSE_COUNT, .OHD_SMC_OOF_EV_COUNT]) [.out, .host, .pmu, .otn])) ∧
    (∀ (w : Wing), Answers (.oomDeclare w) s (fun t => s.Framed t [.OHD_FR_STAT_IM, .OHD_FR_STAT_MFX_VALID] [.out,
      .otn])) ∧
    (∀ (w : Wing) (d : Fin 14) (ch : Fin 32), Answers (.defectChange w d ch) s (fun t => s.Framed t
      [.OHD_SM_DEF_LOF, .OHD_SM_DEF_LOM, .OHD_SM_DEF_AIS, .OHD_SM_DEF_TIM, .OHD_SM_DEF_BDI, .OHD_SM_DEF_DEG,
      .OHD_SM_DEF_IAE, .OHD_SM_DEF_BIAE, .OHD_PM_DEF_DEF, .OHD_SMC_DEF_SEEN_DEFS, .OHD_PMC_DEF_SEEN_DEFS] [.out,
      .otn])) ∧
    (∀ (w : Wing) (second : Bool), Answers (.degEval w second) s (fun t => s.Framed t [.OHD_SM_DEF_LOF,
      .OHD_SM_DEF_LOM, .OHD_SM_DEF_AIS, .OHD_SM_DEF_TIM, .OHD_SM_DEF_BDI, .OHD_SM_DEF_DEG, .OHD_SM_DEF_IAE,
      .OHD_SM_DEF_BIAE, .OHD_PM_DEF_DEF, .OHD_SMC_DEF_SEEN_DEFS, .OHD_PMC_DEF_SEEN_DEFS] [.out, .otn])) ∧
    (∀ (w : Wing) (d : Fin 14) (ch : Fin 32), Answers (.failureDeclare w d ch) s (fun t => s.Framed t
      (bellRows.append [.OHD_EVT_PM_FAIL, .OHD_EVT_SM_FAIL, .OHD_SM_FAIL_LOF, .OHD_SM_FAIL_LOM, .OHD_SM_FAIL_AIS,
      .OHD_SM_FAIL_TIM, .OHD_SM_FAIL_BDI, .OHD_SM_FAIL_DEG, .OHD_SM_FAIL_IAE, .OHD_SM_FAIL_BIAE, .OHD_PM_FAIL_FAIL])
      [.out, .host, .pmu, .otn])) ∧
    (∀ (w : Wing) (d : Fin 14) (ch : Fin 32), Answers (.failureClear w d ch) s (fun t => s.Framed t (bellRows.append
      [.OHD_EVT_PM_FAIL, .OHD_EVT_SM_FAIL, .OHD_SM_FAIL_LOF, .OHD_SM_FAIL_LOM, .OHD_SM_FAIL_AIS, .OHD_SM_FAIL_TIM,
      .OHD_SM_FAIL_BDI, .OHD_SM_FAIL_DEG, .OHD_SM_FAIL_IAE, .OHD_SM_FAIL_BIAE, .OHD_PM_FAIL_FAIL]) [.out, .host,
      .pmu, .otn])) ∧
    (∀ (w : Wing) (ch : Fin 32), Answers (.apsAccept w ch) s (fun t => s.Framed t (bellRows.append [.OHD_EVT_APS_RX,
      .OHD_APS_TX_VALUE, .OHD_APS_RX_VALUE, .OHD_APS_CNT_CHANGES, .HAL_PG_STAT_LOCAL_REQ, .HAL_PG_STAT_FAR_REQ,
      .HAL_PG_STAT_SEL_B, .HAL_PG_STAT_WTR_RUN, .HAL_PG_STAT_CMD_HELD, .HAL_PG_CNT_SWITCHES, .HAL_PG_EVT_SEL_CHANGE,
      .CLI_PORT_STAT_XOFF]) [.out, .host, .pmu, .pan, .groups])) ∧
    (∀ (w : Wing), Answers (.gcc0MsgRx w) s (fun t => s.Framed t [.OHD_GCC_STAT_RX_MSG, .OHD_GCC_STAT_CRC_ERR]
      [.out, .pmu, .otn])) ∧
    (∀ (g : Fin 8) (m : Wing), Answers (.pgConditionChange g m) s (fun t => s.Framed t (bellRows.append
      (groupRows.append [.CLI_PORT_STAT_XOFF])) [.out, .host, .pmu, .pan, .groups])) ∧
    (∀ (g : Fin 8) (m : Wing), Answers (.holdoffExpiry g m) s (fun t => s.Framed t (bellRows.append
      (groupRows.append [.CLI_PORT_STAT_XOFF])) [.out, .host, .pmu, .pan, .groups])) ∧
    (∀ (g : Fin 8), Answers (.wtrExpiry g) s (fun t => s.Framed t (bellRows.append [.OHD_APS_TX_VALUE,
      .HAL_PG_STAT_LOCAL_REQ, .HAL_PG_STAT_FAR_REQ, .HAL_PG_STAT_SEL_B, .HAL_PG_STAT_WTR_RUN, .HAL_PG_STAT_CMD_HELD,
      .HAL_PG_CNT_SWITCHES, .HAL_PG_EVT_SEL_CHANGE, .CLI_PORT_STAT_XOFF]) [.out, .host, .pmu, .pan, .groups])) ∧
    (∀ (req : Req) (g : Fin 8), Answers (.pgClear req g) s (fun t => s.Framed t (bellRows.append [.OHD_APS_TX_VALUE,
      .HAL_PG_STAT_LOCAL_REQ, .HAL_PG_STAT_FAR_REQ, .HAL_PG_STAT_SEL_B, .HAL_PG_STAT_WTR_RUN, .HAL_PG_STAT_CMD_HELD,
      .HAL_PG_CNT_SWITCHES, .HAL_PG_EVT_SEL_CHANGE, .CLI_PORT_STAT_XOFF]) [.out, .host, .pmu, .pan, .groups])) ∧
    (∀ (req : Req) (g : Fin 8), Answers (.pgLockout req g) s (fun t => s.Framed t (bellRows.append
      [.OHD_APS_TX_VALUE, .HAL_PG_STAT_LOCAL_REQ, .HAL_PG_STAT_FAR_REQ, .HAL_PG_STAT_SEL_B, .HAL_PG_STAT_WTR_RUN,
      .HAL_PG_STAT_CMD_HELD, .HAL_PG_STAT_CMD_REFUSED, .HAL_PG_CNT_SWITCHES, .HAL_PG_EVT_SEL_CHANGE,
      .CLI_PORT_STAT_XOFF]) [.out, .host, .pmu, .pan, .groups])) ∧
    (∀ (req : Req) (g : Fin 8), Answers (.pgForce req g) s (fun t => s.Framed t (bellRows.append [.OHD_APS_TX_VALUE,
      .HAL_PG_STAT_LOCAL_REQ, .HAL_PG_STAT_FAR_REQ, .HAL_PG_STAT_SEL_B, .HAL_PG_STAT_WTR_RUN, .HAL_PG_STAT_CMD_HELD,
      .HAL_PG_STAT_CMD_REFUSED, .HAL_PG_CNT_SWITCHES, .HAL_PG_EVT_SEL_CHANGE, .CLI_PORT_STAT_XOFF]) [.out, .host,
      .pmu, .pan, .groups])) ∧
    (∀ (req : Req) (g : Fin 8), Answers (.pgManualP req g) s (fun t => s.Framed t (bellRows.append
      [.OHD_APS_TX_VALUE, .HAL_PG_STAT_LOCAL_REQ, .HAL_PG_STAT_FAR_REQ, .HAL_PG_STAT_SEL_B, .HAL_PG_STAT_WTR_RUN,
      .HAL_PG_STAT_CMD_HELD, .HAL_PG_STAT_CMD_REFUSED, .HAL_PG_CNT_SWITCHES, .HAL_PG_EVT_SEL_CHANGE,
      .CLI_PORT_STAT_XOFF]) [.out, .host, .pmu, .pan, .groups])) ∧
    (∀ (req : Req) (g : Fin 8), Answers (.pgManualW req g) s (fun t => s.Framed t (bellRows.append
      [.OHD_APS_TX_VALUE, .HAL_PG_STAT_LOCAL_REQ, .HAL_PG_STAT_FAR_REQ, .HAL_PG_STAT_SEL_B, .HAL_PG_STAT_WTR_RUN,
      .HAL_PG_STAT_CMD_HELD, .HAL_PG_STAT_CMD_REFUSED, .HAL_PG_CNT_SWITCHES, .HAL_PG_EVT_SEL_CHANGE,
      .CLI_PORT_STAT_XOFF]) [.out, .host, .pmu, .pan, .groups])) ∧
    (∀ (g : Fin 8), Answers (.fopRaise g) s (fun t => s.Framed t (bellRows.append [.OHD_APS_TX_VALUE,
      .HAL_PG_STAT_LOCAL_REQ, .HAL_PG_STAT_FAR_REQ, .HAL_PG_STAT_SEL_B, .HAL_PG_STAT_WTR_RUN, .HAL_PG_STAT_CMD_HELD,
      .HAL_PG_STAT_FOP, .HAL_PG_CNT_SWITCHES, .HAL_PG_CNT_FOP, .HAL_PG_EVT_FOP, .HAL_PG_EVT_SEL_CHANGE,
      .CLI_PORT_STAT_XOFF]) [.out, .host, .pmu, .pan, .groups])) ∧
    (∀ (g : Fin 8), Answers (.fopClear g) s (fun t => s.Framed t (bellRows.append [.OHD_APS_TX_VALUE,
      .HAL_PG_STAT_LOCAL_REQ, .HAL_PG_STAT_FAR_REQ, .HAL_PG_STAT_SEL_B, .HAL_PG_STAT_WTR_RUN, .HAL_PG_STAT_CMD_HELD,
      .HAL_PG_STAT_FOP, .HAL_PG_CNT_SWITCHES, .HAL_PG_EVT_SEL_CHANGE, .CLI_PORT_STAT_XOFF]) [.out, .host, .pmu,
      .pan, .groups])) ∧
    (∀ (ch : Fin 64), Answers (.segmentTxStart ch) s (fun t => s.Framed t (bellRows.append (lostRows.append
      [.RAS_FAULT_VALID, .RAS_FAULT_KIND, .RAS_FAULT_ISLAND, .RAS_FAULT_PEER, .RAS_EVT_REMAP_FULL, .RAS_EVT_REMAP,
      .RAS_EVT_UE_CTL, .RAS_INJ_ARMED, .RAS_MEM_CE_COUNT, .RAS_MEM_UE_COUNT, .RAS_MEM_REMAP_BANKS_FULL,
      .RAS_MEM_REMAP_USED, .RAS_MEM_LAST_TYPE, .RAS_MEM_LAST_BANK, .RAS_MEM_LAST_LINE, .CIP_EVT_LAST_SLOT,
      .CIP_EVT_BLOCKED, .CIP_EVT_RETIRED, .CIP_EVT_ROLLED, .CIP_EVT_ROLL_REQ, .CIP_PIPE_STAT_ACTIVE,
      .CIP_PIPE_STAT_SUSPENDED, .CIP_CTX_STAT_FULL, .CIP_CTX_STAT_USED, .CIP_CH_STAT_TX_VOID, .CIP_CH_STAT_TX_KP,
      .CIP_CH_STAT_RX_BLOCKED, .CIP_CH_STAT_ROLL_PEND, .CIP_SLOT_STAT_STATE, .CIP_SLOT_STAT_GEN,
      .CIP_SLOT_USAGE_USAGE, .CIP_NO_KEY_COUNT])) [.inuse, .out, .host, .attic, .pmu, .ras, .otn, .cip])) ∧
    (∀ (ch : Fin 64) (seg : Segment), Answers (.segmentRx ch seg) s (fun t => s.Framed t (bellRows.append
      (lostRows.append [.RAS_FAULT_VALID, .RAS_FAULT_KIND, .RAS_FAULT_ISLAND, .RAS_FAULT_PEER, .RAS_EVT_REMAP_FULL,
      .RAS_EVT_REMAP, .RAS_EVT_UE_CTL, .RAS_INJ_ARMED, .RAS_MEM_CE_COUNT, .RAS_MEM_UE_COUNT,
      .RAS_MEM_REMAP_BANKS_FULL, .RAS_MEM_REMAP_USED, .RAS_MEM_LAST_TYPE, .RAS_MEM_LAST_BANK, .RAS_MEM_LAST_LINE,
      .PMU_EVT_TAG_READY, .PMU_TAG_STAT_IN_FLIGHT, .PMU_TAG_STAT_FILL, .PMU_TAG_LOST_COUNT, .PMU_HIST_BIN_COUNT,
      .PMU_HIST_UNDER_COUNT, .PMU_HIST_OVER_COUNT, .CIP_EVT_LAST_SLOT, .CIP_EVT_AUTH_FAIL, .CIP_EVT_BLOCKED,
      .CIP_EVT_RETIRED, .CIP_EVT_ROLL_REQ, .CIP_PIPE_STAT_ACTIVE, .CIP_PIPE_STAT_SUSPENDED, .CIP_CTX_STAT_FULL,
      .CIP_CTX_STAT_USED, .CIP_CH_STAT_SEG_LOCK, .CIP_CH_STAT_RX_VOID, .CIP_CH_STAT_RX_KP, .CIP_CH_STAT_RX_BLOCKED,
      .CIP_SLOT_STAT_STATE, .CIP_SLOT_STAT_GEN, .CIP_SLOT_USAGE_USAGE, .CIP_SEG_OK_COUNT, .CIP_AUTH_FAIL_COUNT,
      .CIP_NO_KEY_COUNT, .CIP_SEQ_ERR_COUNT, .CLI_PORT_STAT_XOFF, .PAN_EQ_OCC_CELLS, .PAN_IQ_OCC_CELLS,
      .PAN_PART_USE_USED, .PAN_SHARED_FREE, .PAN_DESC_FREE_FREE])) [.out, .host, .attic, .pmu, .ras, .pan, .sched,
      .otn, .cip])) ∧
    (∀ (ch : Fin 64), Answers (.segLockLoss ch) s (fun t => s.Framed t (bellRows.append [.PMU_EVT_TAG_READY,
      .PMU_TAG_STAT_IN_FLIGHT, .PMU_TAG_STAT_FILL, .PMU_TAG_LOST_COUNT, .PMU_HIST_BIN_COUNT, .PMU_HIST_UNDER_COUNT,
      .PMU_HIST_OVER_COUNT, .CIP_EVT_SEG_LOSS, .CIP_PIPE_STAT_ACTIVE, .CIP_PIPE_STAT_SUSPENDED, .CIP_CTX_STAT_USED,
      .CIP_CH_STAT_SEG_LOCK, .CIP_CH_STAT_RX_VOID, .CLI_PORT_STAT_XOFF, .PAN_EQ_OCC_CELLS, .PAN_IQ_OCC_CELLS,
      .PAN_PART_USE_USED, .PAN_SHARED_FREE, .PAN_DESC_FREE_FREE]) [.out, .host, .pmu, .pan, .sched, .cip])) ∧
    (∀ (req : Req) (ch : Fin 64), Answers (.roll req ch) s (fun t => s.Framed t [] [.out, .cip])) ∧
    (∀ (p : Fin 16), Answers (.pipelineRunEnd p) s (fun t => s.Framed t (bellRows.append (lostRows.append
      [.RAS_FAULT_VALID, .RAS_FAULT_KIND, .RAS_FAULT_ISLAND, .RAS_FAULT_PEER, .RAS_EVT_REMAP_FULL, .RAS_EVT_REMAP,
      .RAS_EVT_UE_CTL, .RAS_MEM_CE_COUNT, .RAS_MEM_UE_COUNT, .RAS_MEM_REMAP_BANKS_FULL, .RAS_MEM_REMAP_USED,
      .RAS_MEM_LAST_TYPE, .RAS_MEM_LAST_BANK, .RAS_MEM_LAST_LINE, .CIP_PIPE_STAT_ACTIVE, .CIP_PIPE_STAT_SUSPENDED,
      .CIP_CTX_STAT_USED, .CIP_NO_KEY_COUNT])) [.out, .host, .attic, .pmu, .ras, .cip])) ∧
    (∀ (left : List Nat), Answers (.preempt left) s (fun t => s.Framed t [.CIP_PIPE_STAT_ACTIVE,
      .CIP_PIPE_STAT_SUSPENDED, .CIP_CTX_STAT_USED, .CIP_PREEMPTS_COUNT] [.out, .pmu, .cip])) ∧
    (∀ (req : Req) (slot : Fin 512), Answers (.keyLoad req slot) s (fun t => s.Framed t [.SEC_KEY_STAT_BUSY,
      .SEC_KEY_STAT_REFUSED, .SEC_KEY_STAT_REASON, .RAS_INJ_ARMED, .HST_DMA_STAT_BUSY, .CIP_CH_STAT_RX_BLOCKED,
      .CIP_SLOT_STAT_STATE, .CIP_SLOT_STAT_GEN, .CIP_SLOT_USAGE_USAGE] [.out, .host, .ras, .cip])) ∧
    (∀ (req : Req) (slot : Fin 512), Answers (.keyErase req slot) s (fun t => s.Framed t [.SEC_KEY_STAT_REFUSED,
      .SEC_KEY_STAT_REASON, .CIP_CH_STAT_RX_BLOCKED, .CIP_SLOT_STAT_STATE, .CIP_SLOT_STAT_GEN,
      .CIP_SLOT_USAGE_USAGE] [.out, .cip])) ∧
    (∀ (req : Req) (fetched : Option (List Nat)), Answers (.loadKek req fetched) s (fun t => s.Framed t
      [.SEC_KEY_STAT_BUSY, .SEC_KEY_STAT_REFUSED, .SEC_KEY_STAT_REASON, .HST_DMA_STAT_BUSY] [.out, .host, .cip])) ∧
    (∀ (req : Req), Answers (.attest req) s (fun t => s.Framed t [.SEC_KEY_STAT_BUSY, .SEC_KEY_STAT_REFUSED,
      .SEC_KEY_STAT_REASON, .HST_DMA_STAT_BUSY] [.out, .host, .cip])) ∧
    (∀ (req : Req), Answers (.getCert req) s (fun t => s.Framed t [.SEC_KEY_STAT_BUSY, .SEC_KEY_STAT_REFUSED,
      .SEC_KEY_STAT_REASON, .HST_DMA_STAT_BUSY] [.out, .host, .cip])) ∧
    (∀ (req : Req), Answers (.getKekPub req) s (fun t => s.Framed t [.SEC_KEY_STAT_BUSY, .SEC_KEY_STAT_REFUSED,
      .SEC_KEY_STAT_REASON, .HST_DMA_STAT_BUSY] [.out, .host, .cip])) ∧
    (∀ (slot : Fin 256), Answers (.retirementComplete slot) s (fun t => s.Framed t (bellRows.append [.RAS_INJ_ARMED,
      .CIP_EVT_LAST_SLOT, .CIP_EVT_RETIRED, .CIP_CH_STAT_RX_BLOCKED, .CIP_CH_STAT_ROLL_PEND, .CIP_SLOT_STAT_STATE,
      .CIP_SLOT_STAT_GEN, .CIP_SLOT_USAGE_USAGE]) [.out, .host, .pmu, .ras, .otn, .cip])) ∧
    (∀ (w : Wing), Answers (.keInitSend w) s (fun t => s.Framed t (bellRows.append [.SEC_SES_CFG_EN,
      .SEC_SES_CFG_PEER_CHK, .SEC_SES_STAT_STATE, .SEC_SES_STAT_SESSION]) [.inuse, .out, .free, .host, .pmu, .otn,
      .cip])) ∧
    (∀ (w : Wing), Answers (.sessionLifeExpiry w) s (fun t => s.Framed t (bellRows.append [.SEC_SES_CFG_EN,
      .SEC_SES_CFG_PEER_CHK, .SEC_SES_STAT_STATE, .SEC_SES_STAT_SESSION]) [.inuse, .out, .free, .host, .pmu, .otn,
      .cip])) ∧
    (∀ (w : Wing) (session : Nat) (m : KeMsg), Answers (.keInitRx w session m) s (fun t => s.Framed t
      (bellRows.append [.SEC_SES_CFG_EN, .SEC_SES_CFG_PEER_CHK, .SEC_SES_STAT_STATE, .SEC_SES_STAT_SESSION])
      [.inuse, .out, .free, .host, .pmu, .otn, .cip])) ∧
    (∀ (w : Wing) (m : KeMsg), Answers (.keRespRx w m) s (fun t => s.Framed t (bellRows.append
      [.SEC_SES_STAT_STATE]) [.out, .host, .pmu, .otn, .cip])) ∧
    (∀ (w : Wing) (mac : List Nat), Answers (.keFinRx w mac) s (fun t => s.Framed t (bellRows.append
      [.SEC_SES_STAT_STATE, .SEC_SES_STAT_REASON, .RAS_INJ_ARMED, .CIP_CH_STAT_RX_BLOCKED, .CIP_SLOT_STAT_STATE,
      .CIP_SLOT_STAT_GEN, .CIP_SLOT_USAGE_USAGE]) [.out, .host, .pmu, .ras, .otn, .cip])) ∧
    (∀ (w : Wing), Answers (.keAbort w) s (fun t => s.Framed t (bellRows.append [.SEC_SES_STAT_STATE,
      .SEC_SES_STAT_REASON]) [.out, .host, .pmu, .otn, .cip])) ∧
    (∀ (w : Wing), Answers (.sessionRetry w) s (fun t => s.Framed t (bellRows.append [.SEC_SES_CFG_EN,
      .SEC_SES_CFG_PEER_CHK, .SEC_SES_STAT_STATE, .SEC_SES_STAT_SESSION]) [.inuse, .out, .free, .host, .pmu, .otn,
      .cip])) ∧
    (∀ (w : Wing) (ch : Fin 32) (session gen : Nat), Answers (.keyReadyRx w ch session gen) s (fun t => s.Framed t
      [.CIP_CH_STAT_RX_BLOCKED, .CIP_SLOT_STAT_STATE] [.out])) ∧
    (Answers (.keyCommandDone) s (fun t => s.Framed t (bellRows.append [.SEC_KEY_STAT_BUSY, .HST_DMA_STAT_BUSY])
      [.out, .host, .pmu, .cip]))

/-- What the commands of the clients, the scheduler, the electrical lanes and the references leave alone. Each of these
commands answers a next state in which no register field outside the rows named and no other part of the state has
changed; for a command that may restart the module or access any register, the parts named stay. (the Registers
section of each chapter: the fields its operations write; 20_observability.md: R386, R391 (counted events, attic
records); 21_host_corridor.md: R404 to R406 (doorbells)) -/
def Obligations.ClientAndLaneFrames : Prop :=
  ∀ s : State,
    (∀ (port : Fin 32) (f : Frame) (macControl : Bool), Answers (.clientFrameRx port f macControl) s (fun t =>
      s.Framed t (bellRows.append (flushRows.append [.RAS_INJ_ARMED, .PMU_TAG_SKIP_COUNT, .HAL_PG_DROP_DROP,
      .CLI_RX_FRAMES_COUNT, .CLI_RX_FCS_ERR_COUNT, .CLI_RX_RUNT_COUNT, .CLI_RX_OVERSIZE_COUNT, .CLI_RX_MACCTL_COUNT,
      .CLI_TX_FRAMES_COUNT, .CLI_POL_RED_COUNT, .CLI_POL_YELLOW_COUNT, .CLI_RX_NOMAP_COUNT, .HAL_TPC_FRAMES_COUNT,
      .HAL_TPC_ERR_SEQ_GAP, .HAL_TPC_ERR_PAY_ERR, .SCH_EQ_DEQ_COUNT, .SCH_IQ_DEQ_COUNT])) [.out, .free, .host, .pmu,
      .ras, .pan, .sched, .otn])) ∧
    (∀ (port : Fin 32), Answers (.pfcFrameTx port) s (fun t => s.Framed t [.CLI_PORT_STAT_XOFF, .CLI_PFC_TX_COUNT]
      [.out, .pmu, .pan])) ∧
    (∀ (port : Fin 32) (cls : Fin 8), Answers (.pfcXoffRepeat port cls) s (fun t => s.Framed t [] [.out, .pan])) ∧
    (∀ (port : Fin 32) (len : Nat) (fcsOk : Bool) (vector : Nat) (times : List Nat), Answers (.pfcRx port len fcsOk
      vector times) s (fun t => s.Framed t [.CLI_PORT_STAT_PAUSED, .CLI_RX_FRAMES_COUNT, .CLI_RX_FCS_ERR_COUNT,
      .CLI_RX_RUNT_COUNT, .CLI_RX_OVERSIZE_COUNT, .CLI_PFC_RX_COUNT] [.out, .pmu])) ∧
    (∀ (port : Fin 32) (cls : Fin 8), Answers (.pfcPauseExpiry port cls) s (fun t => s.Framed t
      [.CLI_PORT_STAT_PAUSED] [.out])) ∧
    (∀ (port : Fin 32) (len : Nat) (fcsOk : Bool) (ql : Fin 16), Answers (.esmcRx port len fcsOk ql) s (fun t =>
      s.Framed t (bellRows.append (candRows.append [.CLI_RX_FRAMES_COUNT, .CLI_RX_FCS_ERR_COUNT, .CLI_RX_RUNT_COUNT,
      .CLI_RX_OVERSIZE_COUNT])) [.out, .host, .pmu, .dpll])) ∧
    (∀ (event : Bool), Answers (.esmcTx event) s (fun t => s.Framed t [] [.out])) ∧
    (∀ (port : Fin 32) (pcsAligned lf rf : Bool), Answers (.portLinkChange port pcsAligned lf rf) s (fun t =>
      s.Framed t (bellRows.append (candRows.append [.CLI_PORT_STAT_LINK, .CLI_PORT_STAT_LF_RX,
      .CLI_PORT_STAT_RF_RX])) [.out, .host, .pmu, .pan, .dpll])) ∧
    (∀ (w : Wing) (ch : Fin 32) (f : Frame) (later : Fin 64) (cut : Bool) (first : FirstByte), Answers
      (.lineFrameDemap w ch f later cut first) s (fun t => s.Framed t (bellRows.append (flushRows.append
      [.RAS_INJ_ARMED, .PMU_TAG_SKIP_COUNT, .OHD_PMC_DEMAP_ERR_COUNT, .CIP_PIPE_STAT_ACTIVE,
      .CIP_PIPE_STAT_SUSPENDED, .CIP_CTX_STAT_FULL, .CIP_CTX_STAT_USED, .HAL_TPC_FRAMES_COUNT, .HAL_TPC_ERR_SEQ_GAP,
      .HAL_TPC_ERR_PAY_ERR])) [.out, .free, .host, .pmu, .ras, .pan, .sched, .otn, .cip])) ∧
    (Answers (.tpgFrame) s (fun t => s.Framed t (bellRows.append (flushRows.append [.RAS_INJ_ARMED])) [.out, .host,
      .pmu, .ras, .pan, .sched])) ∧
    (∀ (inst : Fin 96) (line : MemLine) (found : EccRead), Answers (.schedSelect inst line found) s (fun t =>
      s.Framed t (bellRows.append (lostRows.append (flushRows.append [.RAS_FAULT_VALID, .RAS_FAULT_KIND,
      .RAS_FAULT_ISLAND, .RAS_FAULT_PEER, .RAS_EVT_REMAP_FULL, .RAS_EVT_REMAP, .RAS_EVT_UE_CTL, .RAS_EVT_UE_DATA,
      .RAS_MEM_CE_COUNT, .RAS_MEM_UE_COUNT, .RAS_MEM_REMAP_BANKS_FULL, .RAS_MEM_REMAP_USED, .RAS_MEM_LAST_TYPE,
      .RAS_MEM_LAST_BANK, .RAS_MEM_LAST_LINE, .CLI_TX_FRAMES_COUNT, .HAL_TPC_FRAMES_COUNT, .HAL_TPC_ERR_SEQ_GAP,
      .HAL_TPC_ERR_PAY_ERR, .SCH_EQ_DEQ_COUNT, .SCH_IQ_DEQ_COUNT]))) [.out, .free, .host, .attic, .pmu, .ras, .pan,
      .sched, .otn])) ∧
    (∀ (ch : Fin 64), Answers (.gclEntryStart ch) s (fun t => s.Framed t (bellRows.append [.SCH_EVT_GUARD_STARVE,
      .SCH_EVT_GATE_OVR, .SCH_GCL_STAT_GATES, .SCH_GCL_STAT_ENTRY, .SCH_GATE_OVR_COUNT, .SCH_EQ_GUARD_CUR_G]) [.out,
      .host, .pmu, .sched])) ∧
    (∀ (req : Req) (ch : Fin 64), Answers (.gclActivate req ch) s (fun t => s.Framed t [.SCH_GCL_STAT_PENDING]
      [.out, .sched])) ∧
    (∀ (req : Req) (ch : Fin 64) (cycle : Option Nat) (base : Option Nat), Answers (.gclTimingWrite req ch cycle
      base) s (fun t => s.Framed t [.SCH_GCL_CYCLE_CYCLE, .SCH_GCL_BASE_LO_BASE, .SCH_GCL_BASE_HI_BASE,
      .SCH_GCL_STAT_PENDING] [.out, .sched])) ∧
    (∀ (ch : Fin 64), Answers (.gclSwap ch) s (fun t => s.Framed t (bellRows.append [.SCH_EVT_GUARD_STARVE,
      .SCH_EVT_GCL_SWAPPED, .SCH_EVT_GATE_OVR, .SCH_GCL_STAT_PENDING, .SCH_GCL_STAT_GATES, .SCH_GCL_STAT_ENTRY,
      .SCH_GATE_OVR_COUNT, .SCH_EQ_GUARD_CUR_G]) [.out, .host, .pmu, .sched])) ∧
    (∀ (req : Req) (ivl : Nat), Answers (.gclWivlWrite req ivl) s (fun t => s.Framed t [.SCH_GCL_WSEL_IDX] [.out,
      .sched])) ∧
    (∀ (cor : Bool) (l : Fin 32), Answers (.laneSignalDetect cor l) s (fun t => s.Framed t (bellRows.append
      (candRows.append [.CLI_PORT_STAT_LINK, .SDS_LANE_STAT_STAGE, .COR_LANE_STAT_STAGE, .SDS_EVT_UP_CHANGE,
      .COR_LANE_EVT_UP_CHANGE])) [.out, .host, .pmu, .sds, .corLanes, .dpll])) ∧
    (∀ (cor : Bool) (l : Fin 32) (r : LaneResult), Answers (.laneStepComplete cor l r) s (fun t => s.Framed t
      (bellRows.append (lostRows.append (candRows.append [.CLI_PORT_STAT_LINK, .SDS_LANE_STAT_STAGE,
      .SDS_LANE_STAT_FAIL_REASON, .SDS_LANE_STAT_RX_INV, .SDS_LANE_STAT_ADAPTIVE, .SDS_LANE_STAT_REVERSED,
      .SDS_LANE_FOM_FOM, .SDS_DFE_ADAPT_TAP_0, .SDS_DFE_ADAPT_TAP_1, .SDS_DFE_ADAPT_TAP_2, .SDS_DFE_ADAPT_TAP_3,
      .SDS_LANE_CNT_BRINGUPS, .SDS_LANE_CNT_FAILS, .COR_LANE_STAT_STAGE, .COR_LANE_STAT_FAIL_REASON,
      .COR_LANE_STAT_RX_INV, .COR_LANE_STAT_ADAPTIVE, .COR_LANE_STAT_REVERSED, .COR_LANE_FOM_FOM,
      .COR_DFE_ADAPT_TAP_0, .COR_DFE_ADAPT_TAP_1, .COR_DFE_ADAPT_TAP_2, .COR_DFE_ADAPT_TAP_3,
      .COR_LANE_CNT_BRINGUPS, .COR_LANE_CNT_FAILS, .SDS_EVT_UP_CHANGE, .COR_LANE_EVT_UP_CHANGE]))) [.out, .host,
      .attic, .pmu, .sds, .corLanes, .dpll])) ∧
    (∀ (cor : Bool) (l : Fin 32) (reason : Fin 16), Answers (.laneFail cor l reason) s (fun t => s.Framed t
      (bellRows.append (lostRows.append (candRows.append [.CLI_PORT_STAT_LINK, .SDS_LANE_STAT_STAGE,
      .SDS_LANE_STAT_FAIL_REASON, .SDS_LANE_CNT_FAILS, .COR_LANE_STAT_STAGE, .COR_LANE_STAT_FAIL_REASON,
      .COR_LANE_CNT_FAILS, .SDS_EVT_UP_CHANGE, .COR_LANE_EVT_UP_CHANGE]))) [.out, .host, .attic, .pmu, .sds,
      .corLanes, .dpll])) ∧
    (∀ (cor : Bool) (l : Fin 32), Answers (.laneRetry cor l) s (fun t => s.Framed t (bellRows.append
      (candRows.append [.CLI_PORT_STAT_LINK, .SDS_LANE_STAT_STAGE, .SDS_LANE_STAT_RX_INV, .SDS_LANE_STAT_ADAPTIVE,
      .SDS_LANE_STAT_REVERSED, .COR_LANE_STAT_STAGE, .COR_LANE_STAT_RX_INV, .COR_LANE_STAT_ADAPTIVE,
      .COR_LANE_STAT_REVERSED, .SDS_EVT_UP_CHANGE, .COR_LANE_EVT_UP_CHANGE])) [.out, .host, .pmu, .sds, .corLanes,
      .dpll])) ∧
    (∀ (req : Req) (cor : Bool) (l : Fin 32), Answers (.laneRestart req cor l) s (fun t => s.Framed t
      (bellRows.append (candRows.append [.CLI_PORT_STAT_LINK, .SDS_LANE_STAT_STAGE, .SDS_LANE_STAT_RX_INV,
      .SDS_LANE_STAT_ADAPTIVE, .SDS_LANE_STAT_REVERSED, .COR_LANE_STAT_STAGE, .COR_LANE_STAT_RX_INV,
      .COR_LANE_STAT_ADAPTIVE, .COR_LANE_STAT_REVERSED, .SDS_EVT_UP_CHANGE, .COR_LANE_EVT_UP_CHANGE])) [.out, .host,
      .pmu, .sds, .corLanes, .dpll])) ∧
    (∀ (cor : Bool) (l : Fin 32), Answers (.laneDown cor l) s (fun t => s.Framed t (bellRows.append (candRows.append
      [.CLI_PORT_STAT_LINK, .SDS_LANE_STAT_STAGE, .SDS_LANE_STAT_RX_INV, .SDS_LANE_STAT_ADAPTIVE,
      .SDS_LANE_STAT_REVERSED, .COR_LANE_STAT_STAGE, .COR_LANE_STAT_RX_INV, .COR_LANE_STAT_ADAPTIVE,
      .COR_LANE_STAT_REVERSED, .SDS_EVT_UP_CHANGE, .COR_LANE_EVT_UP_CHANGE])) [.out, .host, .pmu, .sds, .corLanes,
      .dpll])) ∧
    (∀ (cor : Bool) (l : Fin 32) (run : SlicerRun), Answers (.fomMeasure cor l run) s (fun t => s.Framed t
      [.SDS_LANE_STAT_PRBS_LOCK, .SDS_LANE_FOM_FOM, .SDS_DFE_ADAPT_TAP_0, .SDS_DFE_ADAPT_TAP_1,
      .SDS_DFE_ADAPT_TAP_2, .SDS_DFE_ADAPT_TAP_3, .SDS_PRBS_ERR_COUNT, .COR_LANE_STAT_PRBS_LOCK, .COR_LANE_FOM_FOM,
      .COR_DFE_ADAPT_TAP_0, .COR_DFE_ADAPT_TAP_1, .COR_DFE_ADAPT_TAP_2, .COR_DFE_ADAPT_TAP_3, .COR_PRBS_ERR_COUNT]
      [.out, .pmu, .sds, .corLanes])) ∧
    (∀ (cor : Bool) (l : Fin 32), Answers (.laneAdaptStart cor l) s (fun t => s.Framed t [.SDS_LANE_STAT_ADAPTIVE,
      .SDS_DFE_ADAPT_TAP_0, .SDS_DFE_ADAPT_TAP_1, .SDS_DFE_ADAPT_TAP_2, .SDS_DFE_ADAPT_TAP_3,
      .COR_LANE_STAT_ADAPTIVE, .COR_DFE_ADAPT_TAP_0, .COR_DFE_ADAPT_TAP_1, .COR_DFE_ADAPT_TAP_2,
      .COR_DFE_ADAPT_TAP_3] [.out])) ∧
    (∀ (offsets : List (Option Int)), Answers (.refSelect offsets) s (fun t => s.Framed t (bellRows.append
      (candRows.append [.REF_STAT_STATE, .REF_STAT_ACTIVE, .REF_STAT_TARGET, .REF_STAT_DISAGREE, .REF_STAT_TX_QL,
      .REF_STAT_OFFSET, .REF_EVT_TX_QL_CHANGE, .REF_EVT_DISAGREE, .REF_EVT_ACT_CHANGE, .REF_EVT_STATE_CHANGE,
      .REF_CAND_STAT_OFFSET])) [.out, .host, .pmu, .dpll])) ∧
    (∀ (n : Fin 8) (offset : Int), Answers (.candQualify n offset) s (fun t => s.Framed t (bellRows.append
      (candRows.append [.REF_CAND_STAT_OFFSET])) [.out, .host, .pmu, .dpll])) ∧
    (∀ (n : Fin 8) (offset : Int), Answers (.candDisqualify n offset) s (fun t => s.Framed t (bellRows.append
      (candRows.append [.REF_CAND_STAT_OFFSET])) [.out, .host, .pmu, .dpll])) ∧
    (∀ (n : Fin 8), Answers (.candWtrExpiry n) s (fun t => s.Framed t (bellRows.append [.REF_EVT_CAND_CHANGE,
      .REF_CAND_STAT_ELIGIBLE, .REF_CAND_STAT_WTR_RUN, .REF_CAND_STAT_QL_FAILED, .REF_CAND_STAT_QL]) [.out, .host,
      .pmu, .dpll])) ∧
    (∀ (n : Fin 8), Answers (.esmcTimeout n) s (fun t => s.Framed t (bellRows.append candRows) [.out, .host, .pmu,
      .dpll])) ∧
    (Answers (.refLock) s (fun t => s.Framed t (bellRows.append [.REF_STAT_STATE, .REF_STAT_ACTIVE,
      .REF_STAT_MT_COARSE, .REF_STAT_TX_QL, .REF_EVT_TX_QL_CHANGE, .REF_EVT_ACT_CHANGE, .REF_EVT_STATE_CHANGE])
      [.out, .host, .pmu, .dpll])) ∧
    (Answers (.dpllFault) s (fun t => s.Framed t (bellRows.append (lostRows.append [.REF_STAT_STATE,
      .REF_STAT_TX_QL, .REF_EVT_TX_QL_CHANGE, .REF_EVT_STATE_CHANGE, .RAS_FAULT_VALID, .RAS_FAULT_KIND,
      .RAS_FAULT_ISLAND, .RAS_FAULT_PEER])) [.out, .pins, .host, .attic, .pmu, .ras])) ∧
    (Answers (.dpllRelock) s (fun t => s.Framed t (bellRows.append [.REF_STAT_STATE, .REF_STAT_TX_QL,
      .REF_STAT_OFFSET, .REF_EVT_TX_QL_CHANGE, .REF_EVT_STATE_CHANGE]) [.out, .pins, .host, .pmu, .ras, .dpll])) ∧
    (∀ (req : Req), Answers (.hoRelearn req) s (fun t => s.Framed t (bellRows.append [.REF_STAT_STATE,
      .REF_STAT_HO_VALID, .REF_STAT_OFFSET, .REF_EVT_STATE_CHANGE, .REF_HO_STAT_LEARN_H, .REF_HO_STAT_T0]) [.out,
      .host, .pmu, .dpll])) ∧
    (∀ (req : Req), Answers (.mtStep req) s (fun t => s.Framed t [] [.out, .dpll])) ∧
    (∀ (fit : HoModel), Answers (.holdoverLearnHour fit) s (fun t => s.Framed t [.REF_STAT_HO_VALID,
      .REF_HO_STAT_LEARN_H, .REF_HO_STAT_T0] [.out, .dpll]))

/-- What the commands of power, reliability, images and the start leave alone. Each of these commands answers a next
state in which no register field outside the rows named and no other part of the state has changed; for a command
that may restart the module or access any register, the parts named stay. (the Registers section of each chapter:
the fields its operations write; 20_observability.md: R386, R391 (counted events, attic records);
21_host_corridor.md: R404 to R406 (doorbells)) -/
def Obligations.ModuleFrames : Prop :=
  ∀ s : State,
    (∀ (req : Req), Answers (.loadVerify req) s (fun t => s.Framed t [.SEC_IMG_STAT_BUSY, .SEC_IMG_STAT_STAGED,
      .SEC_IMG_STAT_REFUSED, .SEC_IMG_STAT_SCOPE, .SEC_IMG_STAT_PROGRESS, .HST_DMA_STAT_BUSY] [.out, .host,
      .image])) ∧
    (∀ (img : Option Image), Answers (.loadVerifyDone img) s (fun t => s.Framed t (bellRows.append (lostRows.append
      [.SEC_IMG_STAT_BUSY, .SEC_IMG_STAT_STAGED, .SEC_IMG_STAT_REASON, .SEC_IMG_STAT_SCOPE, .SEC_IMG_STAT_PROGRESS,
      .HST_DMA_STAT_BUSY])) [.out, .host, .attic, .pmu, .image])) ∧
    (∀ (req : Req) (refetchOk : Bool), Answers (.activate req refetchOk) s (fun t => ∀ p ∈ [Part.free, Part.uptime,
      Part.fuses], p.same s t)) ∧
    (∀ (req : Req), Answers (.program req) s (fun t => s.Framed t (bellRows.append (lostRows.append
      [.SEC_IMG_STAT_BUSY, .SEC_IMG_STAT_REFUSED, .SEC_IMG_STAT_REASON, .SEC_IMG_STAT_PROGRESS,
      .HST_DMA_STAT_BUSY])) [.out, .host, .attic, .pmu, .image])) ∧
    (Answers (.programDone) s (fun t => s.Framed t (bellRows.append [.SEC_IMG_STAT_BUSY, .SEC_IMG_STAT_PROGRESS,
      .HST_DMA_STAT_BUSY]) [.out, .host, .pmu, .image])) ∧
    (∀ (req : Req), Answers (.confirm req) s (fun t => s.Framed t [.SEC_IMG_STAT_BUSY, .SEC_IMG_STAT_REFUSED,
      .SEC_IMG_STAT_PROGRESS, .GLB_FP_INFO_CONFIRMED, .HST_DMA_STAT_BUSY] [.out, .host, .image])) ∧
    (∀ (req : Req), Answers (.advanceSvn req) s (fun t => s.Framed t [.SEC_IMG_STAT_BUSY, .SEC_IMG_STAT_REFUSED,
      .SEC_IMG_STAT_PROGRESS, .HST_DMA_STAT_BUSY] [.out, .host, .image, .fuses])) ∧
    (∀ (req : Req), Answers (.abort req) s (fun t => s.Framed t (bellRows.append [.SEC_IMG_STAT_BUSY,
      .SEC_IMG_STAT_STAGED, .SEC_IMG_STAT_SCOPE, .HST_DMA_STAT_BUSY]) [.out, .host, .pmu, .image])) ∧
    (∀ (vin : Nat), Answers (.vinStart vin) s (fun t => s.Framed t [.REF_STAT_MT_COARSE, .PWR_VIN_STAT_VIN] [.out,
      .boot, .power])) ∧
    (Answers (.powerLoss) s (fun t => ∀ p ∈ [Part.free, Part.uptime, Part.fuses], p.same s t)) ∧
    (∀ (vin : Nat), Answers (.vinWarnRise vin) s (fun t => s.Framed t (bellRows.append (lostRows.append
      [.PWR_STATE_STAT_DEFERRED, .PWR_EVT_VIN_WARN, .PWR_VIN_STAT_WARN, .PWR_VIN_STAT_VIN, .SUP_INJ_STAT_BUSY,
      .SUP_INJ_STAT_MERGED])) [.out, .pins, .host, .attic, .pmu, .sup])) ∧
    (∀ (vin : Nat), Answers (.vinWarnClear vin) s (fun t => s.Framed t [.PWR_STATE_STAT_DEFERRED,
      .PWR_VIN_STAT_WARN, .PWR_VIN_STAT_VIN] [.out])) ∧
    (Answers (.stageAdmit) s (fun t => s.Framed t [.PWR_STATE_STAT_DEFERRED] [.out, .power])) ∧
    (∀ (req : Req) (target : Fin 8), Answers (.stateTargetWrite req target) s (fun t => s.Framed t (bellRows.append
      (lostRows.append [.PWR_STATE_CTL_TARGET, .PWR_STATE_STAT_BUSY, .PWR_STATE_STAT_DEFERRED, .PWR_EVT_REFUSED,
      .PWR_LAST_REFUSE_VALID, .PWR_LAST_REFUSE_ISLAND, .PWR_LAST_REFUSE_REASON, .PWR_LAST_REFUSE_ABORT,
      .PWR_LAST_REFUSE_TARGET, .PWR_REFUSE_CNT_REFUSED, .PWR_REFUSE_CNT_ABORTED, .OPT_TX_STAT_STATE,
      .ICM_USER_TX_CTL_QUEUED])) [.out, .host, .attic, .pmu, .power, .opt, .icm])) ∧
    (∀ (req : Req) (wingA wingB : Fin 4), Answers (.wingStateWrite req wingA wingB) s (fun t => s.Framed t
      (bellRows.append (lostRows.append [.PWR_STATE_CTL_WING_B, .PWR_STATE_CTL_WING_A, .PWR_STATE_STAT_BUSY,
      .PWR_STATE_STAT_DEFERRED, .PWR_EVT_REFUSED, .PWR_LAST_REFUSE_VALID, .PWR_LAST_REFUSE_ISLAND,
      .PWR_LAST_REFUSE_REASON, .PWR_LAST_REFUSE_ABORT, .PWR_LAST_REFUSE_TARGET, .PWR_REFUSE_CNT_REFUSED,
      .PWR_REFUSE_CNT_ABORTED, .OPT_TX_STAT_STATE, .ICM_USER_TX_CTL_QUEUED])) [.out, .host, .attic, .pmu, .power,
      .opt, .icm])) ∧
    (Answers (.stateEntryDone) s (fun t => s.Framed t (bellRows.append (lostRows.append (candRows.append
      (flushRows.append (receiverRows.append [.SEC_SES_STAT_STATE, .SEC_SES_STAT_REASON, .SEC_SES_STAT_SESSION,
      .PWR_STATE_STAT_STATE, .PWR_STATE_STAT_BUSY, .PWR_STATE_STAT_DEFERRED, .PWR_STATE_STAT_WING_B,
      .PWR_STATE_STAT_WING_A, .PWR_EVT_REFUSED, .PWR_EVT_STATE_DONE, .PWR_LAST_REFUSE_VALID,
      .PWR_LAST_REFUSE_ISLAND, .PWR_LAST_REFUSE_REASON, .PWR_LAST_REFUSE_ABORT, .PWR_LAST_REFUSE_TARGET,
      .PWR_REFUSE_CNT_REFUSED, .PWR_REFUSE_CNT_ABORTED, .ATT_STAT_SEALED_FULL, .ATT_STAT_WRAPPED,
      .ATT_STAT_SEALED_USED, .ATT_STAT_WR_PTR, .HST_LINK_UP, .HST_LINK_GEN, .HST_LINK_WIDTH, .TXW_LINE_CUR_BAUD,
      .TXW_LINE_CUR_H_IDX, .TXW_LINE_CUR_FEC, .TXW_LINE_CUR_BASE, .TXW_LINE_CUR_SLOTS, .TXW_LINE_NEXT_ANN_VALID,
      .TXW_SLOT_MAP_E3, .TXW_SLOT_MAP_E2, .TXW_SLOT_MAP_E1, .TXW_SLOT_MAP_E0, .RXW_HDR_STAT_CF_ALIGNED,
      .RXW_HDR_STAT_SF_ALIGNED, .RXW_HDR_STAT_MAP_VALID, .RXW_HDR_STAT_BAUD_MISM, .RXW_HDR_STAT_HDR_LOSS_TX,
      .ELC_CHAN_STAT_AT_MIN, .ELC_CHAN_STAT_AT_CEIL, .ELC_CHAN_STAT_SLOTS_NEXT, .ELC_CHAN_STAT_SLOTS_CUR,
      .OPT_TX_STAT_STATE, .OPT_TX_STAT_TXDIS_PIN, .OPT_TX_STAT_FREQ_LOCKED, .OPT_TX_STAT_LO_LOCKED,
      .OPT_TX_STAT_POWER_MEAS, .OPT_TX_EVT_TXDIS_EDGE, .RXW_FR_STAT_LOCKED, .RXW_CD_STAT_VALID, .RXW_CD_REACH_REACH,
      .RXW_TR_STAT_LOCKED, .RXW_EQ_STAT_CONVERGED, .RXW_EQ_STAT_MODE, .RXW_SP2_STAT_WAIT_PWR, .CNV_ADC_CLK_LOCKED,
      .CNV_DAC_CLK_LOCKED, .CNV_CAL_STAT_ROTATING, .CNV_CAL_STAT_PARKED, .CNV_CAL_STAT_RISING,
      .CNV_CAL_STAT_CALIBRATING, .CNV_CAL_STAT_SWEEPS, .CNV_PARK_EN, .CNV_PARK_SLICE, .CNV_QUAL_VALID,
      .CNV_DAC_CAL_BUSY, .CNV_DAC_CAL_REFUSED, .CNV_EVT_PARK_DONE, .CNV_DIM_FLAGS_STALE, .CNV_SLICE_FLAGS_STALE,
      .FEC_STAT_LOCKED, .FEC_STAT_SF, .FEC_STAT_PROFILE_RX, .FEC_STAT_PROFILE_TX, .FEC_EVT_LOCK_LOSS,
      .FEC_EVT_SF_CHANGE, .FEC_ACCT_A_DM_BITS, .FEC_ACCT_A_BLOCKS, .FEC_ACCT_P_PARITY, .FEC_ACCT_I_INFO,
      .FEC_BLOCKS_LO_BLOCKS, .FEC_BLOCKS_HI_BLOCKS, .FEC_UNCORR_LO_UNCORR, .FEC_UNCORR_HI_UNCORR,
      .FEC_UNCORR_P1_LO_UNCORR_P1, .FEC_UNCORR_P1_HI_UNCORR_P1, .FEC_BITS_LO_BITS, .FEC_BITS_HI_BITS,
      .FEC_ERR_BITS_LO_ERR_BITS, .FEC_ERR_BITS_HI_ERR_BITS, .FEC_DEMATCH_LO_DEMATCH_ERR,
      .FEC_DEMATCH_HI_DEMATCH_ERR, .FEC_ITER_LO_ITER_SUM, .FEC_ITER_HI_ITER_SUM, .ELC_HS_STAT_STATE,
      .ELC_HS_STAT_ICM_RC, .ELC_HS_STAT_FLOOR_TX, .ELC_HS_STAT_UNCONFIRMED, .ELC_HS_STAT_ADV_STALE,
      .ELC_HS_STAT_RETRIES, .ELC_RX_HS_RSTATE, .ELC_RX_HS_ANN_SEQ, .ELC_RX_HS_MAP_COMPLETE, .ELC_EVT_MIN_BREACH,
      .ELC_FLOOR_RX_BAUD, .ELC_FLOOR_RX_H_IDX, .ELC_FLOOR_RX_FEC, .OHD_FR_STAT_IF, .OHD_FR_STAT_IM,
      .OHD_FR_STAT_SEARCHING, .OHD_FR_STAT_MFX_VALID, .OHD_FR_STAT_CANDS, .OHD_EVT_IF_CHANGE,
      .OHD_SMC_FAS_FALSE_COUNT, .OHD_SMC_OOF_EV_COUNT, .CIP_PIPE_STAT_ACTIVE, .CIP_PIPE_STAT_SUSPENDED,
      .CIP_CTX_STAT_USED, .CIP_CH_STAT_SEG_LOCK, .CIP_CH_STAT_TX_VOID, .CIP_CH_STAT_RX_VOID, .CIP_CH_STAT_TX_KP,
      .CIP_CH_STAT_RX_KP, .CIP_CH_STAT_RX_BLOCKED, .CIP_CH_STAT_ROLL_PEND, .CIP_SLOT_STAT_STATE, .CIP_SLOT_STAT_GEN,
      .CIP_SLOT_USAGE_USAGE, .CIP_NO_KEY_COUNT, .CLI_PORT_STAT_LINK, .SCH_EVT_GUARD_STARVE, .SCH_CH_RATE_SLOTS,
      .SCH_EQ_GUARD_CUR_G, .SUP_DEC_STAT_RESETS, .ICM_RX_STAT_STATE, .ICM_RX_STAT_AGC_FROZEN, .ICM_EVT_TX_ABORT,
      .ICM_CNT4_TX_ABORT, .ICM_BR0_VALID, .ICM_BR0_BAUD_DIFF, .SDS_LANE_STAT_STAGE, .SDS_LANE_STAT_RX_INV,
      .SDS_LANE_STAT_ADAPTIVE, .SDS_LANE_STAT_REVERSED, .SDS_LANE_STAT_TX_HALF, .SDS_LANE_STAT_RX_HALF,
      .COR_LANE_STAT_STAGE, .COR_LANE_STAT_RX_INV, .COR_LANE_STAT_ADAPTIVE, .COR_LANE_STAT_REVERSED,
      .COR_LANE_STAT_TX_HALF, .COR_LANE_STAT_RX_HALF, .SDS_EVT_UP_CHANGE, .COR_LANE_EVT_UP_CHANGE]))))) [.inuse,
      .out, .pins, .host, .attic, .pmu, .boot, .power, .rx, .tx, .opt, .icm, .pan, .sched, .conv, .sup, .dec, .otn,
      .cip, .sds, .corLanes, .dpll])) ∧
    (∀ (island : Fin 25) (reason : Fin 16), Answers (.stateEntryRefuse island reason) s (fun t => s.Framed t
      (bellRows.append (lostRows.append [.PWR_STATE_STAT_BUSY, .PWR_STATE_STAT_DEFERRED, .PWR_EVT_REFUSED,
      .PWR_LAST_REFUSE_VALID, .PWR_LAST_REFUSE_ISLAND, .PWR_LAST_REFUSE_REASON, .PWR_LAST_REFUSE_ABORT,
      .PWR_LAST_REFUSE_TARGET, .PWR_REFUSE_CNT_REFUSED, .PWR_REFUSE_CNT_ABORTED, .RAS_STAT_FAILED,
      .RAS_STAT_FAILED_MAP, .RAS_FAULT_VALID, .RAS_FAULT_KIND, .RAS_FAULT_ISLAND, .RAS_FAULT_PEER, .RAS_EVT_FAULT,
      .OPT_TX_STAT_STATE, .ICM_USER_TX_CTL_QUEUED])) [.out, .free, .pins, .host, .attic, .pmu, .power, .opt, .icm])) ∧
    (∀ (island : Fin 25) (stall : Nat), Answers (.wakeOnAccess island stall) s (fun t => s.Framed t
      [.PWR_STATE_STAT_DEFERRED, .PWR_WOA_CNT_MAX_STALL, .PWR_WOA_CNT_WAKES] [.out, .pmu, .power])) ∧
    (∀ (group : Fin 3), Answers (.woaLingerExpiry group) s (fun t => s.Framed t [] [.out, .power])) ∧
    (Answers (.wakeNAssert) s (fun t => ∀ p ∈ [Part.uptime, Part.fuses], p.same s t)) ∧
    (Answers (.wakeTimerExpiry) s (fun t => ∀ p ∈ [Part.uptime, Part.fuses], p.same s t)) ∧
    (∀ (meanA meanB : Nat), Answers (.watchCycle meanA meanB) s (fun t => ∀ p ∈ [Part.uptime, Part.fuses], p.same s
      t)) ∧
    (Answers (.modReset) s (fun t => ∀ p ∈ [Part.free, Part.uptime, Part.fuses], p.same s t)) ∧
    (∀ (req : Req) (reachable : List Nat), Answers (.hierGo req reachable) s (fun t => s.Framed t
      [.PWR_HIER_STAT_BUSY, .PWR_HIER_STAT_SKIPPED, .PWR_HIER_STAT_DONE] [.out, .power])) ∧
    (Answers (.hierForwardNext) s (fun t => s.Framed t [.PWR_HIER_STAT_BUSY, .PWR_HIER_STAT_DONE] [.out, .power])) ∧
    (Answers (.thermalTrip) s (fun t => ∀ p ∈ [Part.free, Part.uptime, Part.fuses], p.same s t)) ∧
    (Answers (.descAuditDone) s (fun t => s.Framed t [.PAN_PART_USE_USED, .PAN_SHARED_FREE, .PAN_DESC_FREE_FREE]
      [.out, .ras, .pan])) ∧
    (∀ (line : MemLine) (found : EccRead), Answers (.scrubRead line found) s (fun t => s.Framed t (bellRows.append
      (lostRows.append (flushRows.append [.RAS_FAULT_VALID, .RAS_FAULT_KIND, .RAS_FAULT_ISLAND, .RAS_FAULT_PEER,
      .RAS_EVT_REMAP_FULL, .RAS_EVT_REMAP, .RAS_EVT_UE_CTL, .RAS_EVT_UE_DATA, .RAS_INJ_ARMED, .RAS_MEM_CE_COUNT,
      .RAS_MEM_UE_COUNT, .RAS_MEM_REMAP_BANKS_FULL, .RAS_MEM_REMAP_USED, .RAS_MEM_LAST_TYPE, .RAS_MEM_LAST_BANK,
      .RAS_MEM_LAST_LINE, .CIP_EVT_LAST_SLOT, .CIP_EVT_RETIRED, .CIP_PIPE_STAT_ACTIVE, .CIP_PIPE_STAT_SUSPENDED,
      .CIP_CTX_STAT_USED, .CIP_CH_STAT_RX_BLOCKED, .CIP_SLOT_STAT_STATE, .CIP_SLOT_STAT_GEN, .CIP_SLOT_USAGE_USAGE,
      .CIP_NO_KEY_COUNT]))) [.out, .host, .attic, .pmu, .ras, .pan, .sched, .otn, .cip])) ∧
    (∀ (island : Fin 25), Answers (.parityMismatch island) s (fun t => s.Framed t (bellRows.append (lostRows.append
      [.PWR_STATE_STAT_BUSY, .PWR_STATE_STAT_DEFERRED, .PWR_EVT_REFUSED, .PWR_LAST_REFUSE_VALID,
      .PWR_LAST_REFUSE_ISLAND, .PWR_LAST_REFUSE_REASON, .PWR_LAST_REFUSE_ABORT, .PWR_LAST_REFUSE_TARGET,
      .PWR_REFUSE_CNT_REFUSED, .PWR_REFUSE_CNT_ABORTED, .RAS_STAT_FAILED, .RAS_STAT_FAILED_MAP, .RAS_FAULT_VALID,
      .RAS_FAULT_KIND, .RAS_FAULT_ISLAND, .RAS_FAULT_PEER, .RAS_EVT_FAULT, .OPT_TX_STAT_STATE,
      .ICM_USER_TX_CTL_QUEUED])) [.out, .pins, .host, .attic, .pmu, .power, .opt, .icm])) ∧
    (∀ (island : Fin 25), Answers (.clockLoss island) s (fun t => s.Framed t (bellRows.append (lostRows.append
      [.PWR_STATE_STAT_BUSY, .PWR_STATE_STAT_DEFERRED, .PWR_EVT_REFUSED, .PWR_LAST_REFUSE_VALID,
      .PWR_LAST_REFUSE_ISLAND, .PWR_LAST_REFUSE_REASON, .PWR_LAST_REFUSE_ABORT, .PWR_LAST_REFUSE_TARGET,
      .PWR_REFUSE_CNT_REFUSED, .PWR_REFUSE_CNT_ABORTED, .RAS_STAT_FAILED, .RAS_STAT_FAILED_MAP, .RAS_FAULT_VALID,
      .RAS_FAULT_KIND, .RAS_FAULT_ISLAND, .RAS_FAULT_PEER, .RAS_EVT_FAULT, .OPT_TX_STAT_STATE,
      .ICM_USER_TX_CTL_QUEUED])) [.out, .pins, .host, .attic, .pmu, .power, .opt, .icm])) ∧
    (Answers (.slowClkLoss) s (fun t => s.Framed t (bellRows.append (lostRows.append [.RAS_EVT_SLOW_CLK])) [.out,
      .host, .attic, .pmu])) ∧
    (∀ (sender receiver : Fin 25), Answers (.doorwayTimeout sender receiver) s (fun t => s.Framed t (bellRows.append
      (lostRows.append [.PWR_STATE_STAT_BUSY, .PWR_STATE_STAT_DEFERRED, .PWR_EVT_REFUSED, .PWR_LAST_REFUSE_VALID,
      .PWR_LAST_REFUSE_ISLAND, .PWR_LAST_REFUSE_REASON, .PWR_LAST_REFUSE_ABORT, .PWR_LAST_REFUSE_TARGET,
      .PWR_REFUSE_CNT_REFUSED, .PWR_REFUSE_CNT_ABORTED, .RAS_STAT_FAILED, .RAS_STAT_FAILED_MAP, .RAS_FAULT_VALID,
      .RAS_FAULT_KIND, .RAS_FAULT_ISLAND, .RAS_FAULT_PEER, .RAS_EVT_FAULT, .OPT_TX_STAT_STATE,
      .ICM_USER_TX_CTL_QUEUED])) [.out, .pins, .host, .attic, .pmu, .power, .opt, .icm])) ∧
    (Answers (.lockstepMiscompare) s (fun t => s.Framed t (bellRows.append (lostRows.append [.RAS_FAULT_VALID,
      .RAS_FAULT_KIND, .RAS_FAULT_ISLAND, .RAS_FAULT_PEER, .RAS_EVT_LOCKSTEP, .RAS_LOCKSTEP_MISCOMPARE])) [.out,
      .host, .attic, .pmu, .ras])) ∧
    (Answers (.coreRestartDone) s (fun t => s.Framed t (bellRows.append (lostRows.append [.PWR_STATE_STAT_BUSY,
      .PWR_STATE_STAT_DEFERRED, .PWR_EVT_REFUSED, .PWR_LAST_REFUSE_VALID, .PWR_LAST_REFUSE_ISLAND,
      .PWR_LAST_REFUSE_REASON, .PWR_LAST_REFUSE_ABORT, .PWR_LAST_REFUSE_TARGET, .PWR_REFUSE_CNT_REFUSED,
      .PWR_REFUSE_CNT_ABORTED, .RAS_LOCKSTEP_RESTARTS, .OPT_TX_STAT_STATE, .ICM_USER_TX_CTL_QUEUED])) [.out, .host,
      .attic, .pmu, .power, .ras, .opt, .icm])) ∧
    (∀ (req : Req), Answers (.recover req) s (fun t => ∀ p ∈ [Part.uptime, Part.fuses], p.same s t)) ∧
    (∀ (req : Req), Answers (.eccInjectArm req) s (fun t => s.Framed t [.RAS_INJ_ARMED] [.out])) ∧
    (∀ (req : Req), Answers (.faultClear req) s (fun t => s.Framed t [.RAS_FAULT_VALID, .RAS_FAULT_KIND,
      .RAS_FAULT_ISLAND, .RAS_FAULT_PEER] [.out])) ∧
    (∀ (b : BootInput), Answers (.bootStepDone b) s (fun t => ∀ p ∈ [Part.staged, Part.pend, Part.inuse, Part.free,
      Part.uptime, Part.fuses, Part.ras, Part.cor, Part.groups], p.same s t)) ∧
    (Answers (.imageCommandDone) s (fun t => ∀ p ∈ [Part.uptime, Part.fuses, Part.cor, Part.sds, Part.corLanes],
      p.same s t))

/-- What the commands of the host interface, the corridor, the board, the monitor and observability leave alone. Each of
these commands answers a next state in which no register field outside the rows named and no other part of the state
has changed; for a command that may restart the module or access any register, the parts named stay. (the Registers
section of each chapter: the fields its operations write; 20_observability.md: R386, R391 (counted events, attic
records); 21_host_corridor.md: R404 to R406 (doorbells)) -/
def Obligations.HostSideFrames : Prop :=
  ∀ s : State,
    (∀ (req : Req) (addr word : Nat), Answers (.registerWrite req addr word) s (fun t => ∀ p ∈ [Part.uptime], p.same
      s t)) ∧
    (∀ (req : Req) (addr : Nat), Answers (.rcRead req addr) s (fun t => ∀ p ∈ [Part.staged, Part.pend, Part.inuse,
      Part.uptime, Part.pins, Part.attic, Part.image, Part.fuses, Part.boot, Part.ras, Part.rx, Part.tx, Part.opt,
      Part.icm, Part.pan, Part.sched, Part.conv, Part.sup, Part.dec, Part.otn, Part.groups, Part.cip, Part.sds,
      Part.corLanes, Part.dpll], p.same s t)) ∧
    (∀ (req : Req), Answers (.wrRejectClear req) s (fun t => s.Framed t [.GLB_WR_REJECT_VALID, .GLB_WR_REJECT_COUNT,
      .GLB_WR_REJECT_WORD_ADDR] [.out])) ∧
    (∀ (req : Req) (region : Nat), Answers (.apply req region) s (fun t => ∀ p ∈ [Part.free, Part.uptime, Part.pins,
      Part.attic, Part.image, Part.fuses, Part.boot, Part.power, Part.ras, Part.cor, Part.rx, Part.tx, Part.opt,
      Part.icm, Part.dec, Part.cip, Part.sds, Part.corLanes], p.same s t)) ∧
    (∀ (req : Req) (region : Nat) (alsoApply : Bool), Answers (.discard req region alsoApply) s (fun t => ∀ p ∈
      [Part.free, Part.uptime, Part.pins, Part.attic, Part.image, Part.fuses, Part.boot, Part.power, Part.ras,
      Part.cor, Part.rx, Part.tx, Part.opt, Part.icm, Part.dec, Part.cip, Part.sds, Part.corLanes], p.same s t)) ∧
    (∀ (region : Nat) (inst : Option Nat), Answers (.pendingSetApply region inst) s (fun t => ∀ p ∈ [Part.staged,
      Part.free, Part.uptime, Part.pins, Part.attic, Part.image, Part.fuses, Part.boot, Part.power, Part.ras,
      Part.cor, Part.rx, Part.tx, Part.opt, Part.icm, Part.dec, Part.cip, Part.sds, Part.corLanes], p.same s t)) ∧
    (∀ (req : Req) (n : Fin 8), Answers (.blockStop req n) s (fun t => s.Framed t [.GLB_BLK_CTL_STOPPING,
      .GLB_BLK_CTL_STOP, .OPT_TX_STAT_STATE, .ICM_USER_TX_CTL_QUEUED] [.out, .opt, .icm])) ∧
    (∀ (req : Req) (n : Fin 8), Answers (.blockRun req n) s (fun t => s.Framed t (bellRows.append (groupRows.append
      [.GLB_BLK_CTL_STOPPING, .GLB_BLK_CTL_STOPPED, .GLB_BLK_CTL_STOP, .OPT_TX_STAT_STATE, .CLI_PORT_STAT_XOFF,
      .SUP_DEC_STAT_RESETS, .ICM_USER_TX_CTL_QUEUED])) [.out, .host, .pmu, .opt, .icm, .pan, .sup, .groups])) ∧
    (∀ (n : Fin 8), Answers (.blockStopComplete n) s (fun t => ∀ p ∈ [Part.staged, Part.free, Part.uptime,
      Part.pins, Part.attic, Part.image, Part.fuses, Part.boot, Part.ras, Part.cor, Part.opt, Part.sds,
      Part.corLanes], p.same s t)) ∧
    (Answers (.mtUpdate) s (fun t => s.Framed t (bellRows.append [.REF_EVT_MT_STEP, .REF_MT_LO_MT, .REF_MT_HI_MT,
      .PMU_CTL_FROZEN, .PMU_EVT_OVF, .PMU_OVF_LO_BITS, .PMU_OVF_HI_BITS, .PMU_CNT_LO_COUNT, .PMU_CNT_HI_COUNT,
      .PMU_CNT_PS_LO_COUNT, .PMU_CNT_PS_HI_COUNT, .PMU_TAG_STAT_IN_FLIGHT, .PMU_TAG_STAT_FILL, .PMU_HIST_BIN_COUNT,
      .PMU_HIST_UNDER_COUNT, .PMU_HIST_OVER_COUNT, .SCH_EVT_GATE_OVR, .SCH_GCL_STAT_GATES, .SCH_GCL_STAT_ENTRY,
      .SCH_GATE_OVR_COUNT]) [.inuse, .out, .free, .uptime, .host, .pmu, .opt, .sched, .dpll])) ∧
    (∀ (m : SecondStats), Answers (.oneSecondTick m) s (fun t => ∀ p ∈ [Part.staged, Part.pend, Part.pins,
      Part.attic, Part.image, Part.fuses, Part.boot, Part.power, Part.ras, Part.cor, Part.tx, Part.icm, Part.pan,
      Part.dec, Part.groups, Part.cip, Part.sds, Part.corLanes], p.same s t)) ∧
    (∀ (req : Req), Answers (.freeze req) s (fun t => s.Framed t [] [.out, .pmu])) ∧
    (∀ (req : Req), Answers (.thaw req) s (fun t => s.Framed t [] [.out, .pmu])) ∧
    (∀ (req : Req), Answers (.clearAll req) s (fun t => s.Framed t [.PMU_CNT_LO_COUNT, .PMU_CNT_HI_COUNT,
      .PMU_CNT_PS_LO_COUNT, .PMU_CNT_PS_HI_COUNT] [.out, .pmu])) ∧
    (∀ (req : Req) (addr : Nat), Answers (.loHalfRead req addr) s (fun t => ∀ p ∈ [Part.staged, Part.pend,
      Part.inuse, Part.uptime, Part.pins, Part.attic, Part.image, Part.fuses, Part.boot, Part.ras, Part.rx, Part.tx,
      Part.opt, Part.icm, Part.pan, Part.sched, Part.conv, Part.sup, Part.dec, Part.otn, Part.groups, Part.cip,
      Part.sds, Part.corLanes, Part.dpll], p.same s t)) ∧
    (∀ (offset : Nat) (isWrite : Bool), Answers (.userPageAccess offset isWrite) s (fun t => s.Framed t
      (bellRows.append [.PMU_USER_VIOL_COUNT, .PMU_EVT_USER_VIOL]) [.out, .host, .pmu])) ∧
    (∀ (req : Req), Answers (.tagWinRead req) s (fun t => s.Framed t [.PMU_TAG_WIN_WORD] [.out])) ∧
    (∀ (req : Req), Answers (.tagPop req) s (fun t => s.Framed t [.PMU_TAG_STAT_IN_FLIGHT, .PMU_TAG_STAT_FILL]
      [.out, .pmu])) ∧
    (∀ (req : Req) (mask : Nat), Answers (.histClr req mask) s (fun t => s.Framed t [.PMU_HIST_BIN_COUNT,
      .PMU_HIST_UNDER_COUNT, .PMU_HIST_OVER_COUNT] [.out, .pmu])) ∧
    (Answers (.atticRecord) s (fun t => s.Framed t (bellRows.append [.ATT_STAT_SEALED_FULL, .ATT_STAT_WRAPPED,
      .ATT_STAT_SEALED_USED, .ATT_STAT_WR_PTR, .ATT_EVT_SEALED_FULL]) [.out, .free, .host, .attic, .pmu])) ∧
    (∀ (req : Req), Answers (.atticWinRead req) s (fun t => s.Framed t [.ATT_WIN_WORD] [.out])) ∧
    (∀ (req : Req), Answers (.atticWinLastRead req) s (fun t => s.Framed t [.ATT_CURSOR_INDEX] [.out])) ∧
    (∀ (req : Req) (scope : Bool), Answers (.atticClearArm req scope) s (fun t => s.Framed t (bellRows.append
      [.ATT_STAT_SEALED_FULL, .ATT_STAT_WRAPPED, .ATT_STAT_ARMED, .ATT_STAT_SEALED_USED, .ATT_STAT_WR_PTR,
      .ATT_EVT_SEALED_FULL, .ATT_CLEAR_SCOPE]) [.out, .free, .host, .attic, .pmu])) ∧
    (∀ (req : Req) (scope : Bool), Answers (.atticClearExecute req scope) s (fun t => s.Framed t (bellRows.append
      [.ATT_STAT_SEALED_FULL, .ATT_STAT_WRAPPED, .ATT_STAT_ARMED, .ATT_STAT_SEALED_USED, .ATT_STAT_WR_PTR,
      .ATT_EVT_SEALED_FULL, .ATT_CLEAR_SCOPE]) [.out, .free, .host, .attic, .pmu])) ∧
    (Answers (.atticClearLapse) s (fun t => s.Framed t [.ATT_STAT_ARMED] [.out, .attic])) ∧
    (Answers (.perst) s (fun t => s.Framed t (bellRows.append (lostRows.append [.SEC_IMG_STAT_BUSY,
      .SEC_IMG_STAT_REASON, .GLB_FP_INFO_BUILD, .GLB_FP_INFO_SVN, .GLB_FP_INFO_SOURCE, .GLB_FP_INFO_TRIALS,
      .GLB_FP_INFO_CONFIRMED, .GLB_FP_HASH_HASH, .SEC_KEY_STAT_BUSY, .SEC_KEY_STAT_REFUSED, .SEC_KEY_STAT_REASON,
      .HST_LINK_UP, .HST_LINK_GEN, .HST_LINK_WIDTH, .HST_DMA_CTL_EN, .HST_DMA_CTL_WING, .HST_DMA_CTL_STAGE,
      .HST_DMA_CTL_INTERVAL, .HST_DMA_RING_LO_ADDR, .HST_DMA_RING_HI_ADDR, .HST_DMA_RING_SIZE_N, .HST_DMA_TAIL_IDX,
      .HST_DMA_HEAD_IDX, .HST_DMA_STAT_BUSY, .HST_DMA_STAT_ERR, .HST_DMA_SKIPPED_COUNT, .GLB_BOOT_STAT_STAGE]))
      [.out, .pins, .host, .attic, .pmu, .image, .boot, .cor, .cip])) ∧
    (Answers (.flrPf0) s (fun t => s.Framed t (bellRows.append [.HST_DMA_CTL_EN, .HST_DMA_CTL_WING,
      .HST_DMA_CTL_STAGE, .HST_DMA_CTL_INTERVAL, .HST_DMA_RING_LO_ADDR, .HST_DMA_RING_HI_ADDR, .HST_DMA_RING_SIZE_N,
      .HST_DMA_TAIL_IDX, .HST_DMA_HEAD_IDX, .HST_DMA_STAT_BUSY, .HST_DMA_STAT_ERR, .HST_DMA_SKIPPED_COUNT]) [.out,
      .host, .cor])) ∧
    (Answers (.flrPf1) s (fun t => s.Framed t [] [.out, .host])) ∧
    (∀ (req : Req), Answers (.badAccess req) s (fun t => s.Framed t [.HST_UNMAPPED_BAD_BE] [.out, .pmu])) ∧
    (∀ (c : MsixCtl), Answers (.msixUnmask c) s (fun t => s.Framed t [] [.out, .host])) ∧
    (∀ (v : Fin 64), Answers (.vecModGapExpiry v) s (fun t => s.Framed t [] [.out, .host])) ∧
    (∀ (e : Fin 7) (d : Descriptor) (m : SymbolBlock), Answers (.captureBlock e d m) s (fun t => s.Framed t
      (bellRows.append [.HST_DMA_CTL_EN, .HST_DMA_HEAD_IDX, .HST_DMA_STAT_ERR, .HST_DMA_SKIPPED_COUNT]) [.out,
      .free, .host, .pmu])) ∧
    (Answers (.heartbeatTx) s (fun t => s.Framed t [] [.out])) ∧
    (∀ (port : Fin 4) (ql : Fin 16), Answers (.corHeartbeatRx port ql) s (fun t => s.Framed t (bellRows.append
      (candRows.append [.COR_STAT_ENUMERATING, .COR_PORT_STAT_UP, .COR_PORT_STAT_WRAPPED, .COR_EVT_WRAP,
      .COR_EVT_LINK_CHANGE])) [.out, .host, .pmu, .cor, .dpll])) ∧
    (∀ (port : Fin 4), Answers (.corridorPortDown port) s (fun t => s.Framed t (bellRows.append (candRows.append
      [.COR_PORT_STAT_UP, .COR_PORT_STAT_WRAPPED, .COR_PORT_STAT_DOWN_CNT, .COR_EVT_WRAP, .COR_EVT_LINK_CHANGE]))
      [.out, .host, .pmu, .cor, .dpll])) ∧
    (∀ (worker : Nat) (port : Fin 4) (up restored : Bool), Answers (.corLinkRx worker port up restored) s (fun t =>
      s.Framed t (bellRows.append [.COR_STAT_ENUMERATING, .COR_PORT_STAT_WRAPPED, .COR_EVT_WRAP]) [.out, .host,
      .pmu, .cor])) ∧
    (∀ (topo : List Neighbours), Answers (.enumerate topo) s (fun t => s.Framed t (bellRows.append [.COR_STAT_RING,
      .COR_STAT_ENUMERATING, .COR_TOPO_WORKERS, .COR_TOPO_DEPTH, .COR_PORT_STAT_RING_PORT, .COR_PORT_STAT_WRAPPED,
      .COR_EVT_ENUM_DONE]) [.out, .host, .pmu, .cor])) ∧
    (∀ (addr : Nat) (port : Fin 4) (serves : List (Option (Nat × Nat))), Answers (.corEnumRx addr port serves) s
      (fun t => s.Framed t (bellRows.append (candRows.append [.COR_STAT_UP_PORT, .COR_STAT_UP_VALID,
      .COR_STAT_ADDR])) [.out, .host, .pmu, .cor, .dpll])) ∧
    (∀ (w : Fin 16) (addr : Nat) (data : Option Nat), Answers (.windowAccess w addr data) s (fun t => s.Framed t
      (bellRows.append [.COR_EVT_TIMEOUT, .COR_WIN_STAT_TIMEOUTS, .COR_WIN_STAT_WR_LOST]) [.out, .host, .pmu,
      .cor])) ∧
    (∀ (id addr : Nat) (port : Fin 4), Answers (.corReadRx id addr port) s (fun t => ∀ p ∈ [Part.staged, Part.pend,
      Part.inuse, Part.uptime, Part.pins, Part.attic, Part.image, Part.fuses, Part.boot, Part.ras, Part.rx, Part.tx,
      Part.opt, Part.icm, Part.pan, Part.sched, Part.conv, Part.sup, Part.dec, Part.otn, Part.groups, Part.cip,
      Part.sds, Part.corLanes, Part.dpll], p.same s t)) ∧
    (∀ (id addr word : Nat) (port : Fin 4), Answers (.corWriteRx id addr word port) s (fun t => ∀ p ∈ [Part.uptime],
      p.same s t)) ∧
    (∀ (id data : Nat), Answers (.corReadCplRx id data) s (fun t => s.Framed t [] [.out, .cor])) ∧
    (∀ (id : Nat), Answers (.corWriteAckRx id) s (fun t => s.Framed t [] [.out, .cor])) ∧
    (∀ (id : Nat), Answers (.corStallRx id) s (fun t => s.Framed t [.COR_WIN_STAT_STALLS] [.out, .pmu, .cor])) ∧
    (∀ (id : Nat), Answers (.windowDeadlineExpiry id) s (fun t => s.Framed t (bellRows.append [.COR_EVT_TIMEOUT,
      .COR_WIN_STAT_TIMEOUTS, .COR_WIN_STAT_WR_LOST]) [.out, .host, .pmu, .cor])) ∧
    (∀ (worker : Nat) (v : Fin 64), Answers (.corDoorbellRx worker v) s (fun t => s.Framed t (bellRows.append
      [.COR_EVT_FWD_LOST, .COR_EVT_FWD_UNMAPPED]) [.out, .host, .pmu, .cor])) ∧
    (∀ (target : Fin 8), Answers (.corHierRx target) s (fun t => s.Framed t (bellRows.append (lostRows.append
      [.PWR_STATE_CTL_TARGET, .PWR_STATE_STAT_BUSY, .PWR_STATE_STAT_DEFERRED, .PWR_EVT_REFUSED,
      .PWR_LAST_REFUSE_VALID, .PWR_LAST_REFUSE_ISLAND, .PWR_LAST_REFUSE_REASON, .PWR_LAST_REFUSE_ABORT,
      .PWR_LAST_REFUSE_TARGET, .PWR_REFUSE_CNT_REFUSED, .PWR_REFUSE_CNT_ABORTED, .OPT_TX_STAT_STATE,
      .ICM_USER_TX_CTL_QUEUED])) [.out, .host, .attic, .pmu, .power, .opt, .icm])) ∧
    (∀ (req : Req), Answers (.fwdLogRead req) s (fun t => s.Framed t [] [.out, .cor])) ∧
    (Answers (.smbStatus) s (fun t => s.Framed t [] [.out])) ∧
    (Answers (.smbVin) s (fun t => s.Framed t [] [.out])) ∧
    (∀ (v : Int), Answers (.smbTcp v) s (fun t => s.Framed t [] [.out, .sup])) ∧
    (∀ (v : Int), Answers (.smbTdie v) s (fun t => s.Framed t [] [.out, .sup])) ∧
    (Answers (.smbWake) s (fun t => s.Framed t [] [.out])) ∧
    (Answers (.smbId) s (fun t => s.Framed t [] [.out])) ∧
    (Answers (.smbWakeCmd) s (fun t => ∀ p ∈ [Part.uptime, Part.fuses], p.same s t)) ∧
    (Answers (.smbAlertClr) s (fun t => s.Framed t [] [.out, .pins])) ∧
    (Answers (.smbAlertResponse) s (fun t => s.Framed t [] [.out, .pins])) ∧
    (∀ (index : Nat), Answers (.smbAtticCur index) s (fun t => s.Framed t [] [.out, .attic])) ∧
    (Answers (.smbAtticRec) s (fun t => s.Framed t [] [.out, .attic])) ∧
    (∀ (code : Nat), Answers (.smbUndefined code) s (fun t => s.Framed t [] [.out])) ∧
    (∀ (addr n : Nat), Answers (.monPeek addr n) s (fun t => ∀ p ∈ [Part.staged, Part.pend, Part.inuse, Part.uptime,
      Part.pins, Part.attic, Part.image, Part.fuses, Part.boot, Part.ras, Part.rx, Part.tx, Part.opt, Part.icm,
      Part.pan, Part.sched, Part.conv, Part.sup, Part.dec, Part.otn, Part.groups, Part.cip, Part.sds, Part.corLanes,
      Part.dpll], p.same s t)) ∧
    (∀ (addr word : Nat), Answers (.monPoke addr word) s (fun t => ∀ p ∈ [Part.uptime], p.same s t)) ∧
    (∀ (index n : Nat), Answers (.monAttic index n) s (fun t => s.Framed t [] [.out, .free])) ∧
    (Answers (.monState) s (fun t => s.Framed t [] [.out])) ∧
    (Answers (.monIslands) s (fun t => s.Framed t [] [.out])) ∧
    (Answers (.monFp) s (fun t => s.Framed t [] [.out])) ∧
    (∀ (client : Option Bool), Answers (.monLanes client) s (fun t => s.Framed t [] [.out])) ∧
    (∀ (w : Wing), Answers (.monWing w) s (fun t => s.Framed t [] [.out])) ∧
    (Answers (.monRef) s (fun t => s.Framed t [] [.out])) ∧
    (Answers (.monHelp) s (fun t => s.Framed t [] [.out])) ∧
    (Answers (.monUnknown) s (fun t => s.Framed t [] [.out, .free])) ∧
    (Answers (.perstRelease) s (fun t => s.Framed t [] [.out, .pins, .host])) ∧
    (∀ (gen : Nat) (width : Nat), Answers (.pcieLinkUp gen width) s (fun t => s.Framed t [.HST_LINK_UP,
      .HST_LINK_GEN, .HST_LINK_WIDTH] [.out])) ∧
    (∀ (req : Req) (addr : Nat) (isWrite : Bool), Answers (.unmappedAccess req addr isWrite) s (fun t => s.Framed t
      [.HST_UNMAPPED_COUNT] [.out, .pmu]))
end

