-- ==== Sys2Proof/Laws/Exec.lean ====
section
/-!
SUPPORT. What each command runs: one equation per constructor of `Instr`.
-/

namespace Sys2Proof.Machine

@[simp] theorem exec_registerWrite (req : Req) (addr word : Nat) (s : State) :
    exec (.registerWrite req addr word) s = execRegisterWrite req addr word s := rfl

@[simp] theorem exec_rcRead (req : Req) (addr : Nat) (s : State) :
    exec (.rcRead req addr) s = execRcRead req addr s := rfl

@[simp] theorem exec_wrRejectClear (req : Req) (s : State) :
    exec (.wrRejectClear req) s = execWrRejectClear req s := rfl

@[simp] theorem exec_apply (req : Req) (region : Nat) (s : State) :
    exec (.apply req region) s = execApply req region s := rfl

@[simp] theorem exec_discard (req : Req) (region : Nat) (alsoApply : Bool) (s : State) :
    exec (.discard req region alsoApply) s = execDiscard req region alsoApply s := rfl

@[simp] theorem exec_pendingSetApply (region : Nat) (inst : Option Nat) (s : State) :
    exec (.pendingSetApply region inst) s = execPendingSetApply region inst s := rfl

@[simp] theorem exec_blockStop (req : Req) (n : Fin 8) (s : State) :
    exec (.blockStop req n) s = execBlockStop req n s := rfl

@[simp] theorem exec_blockRun (req : Req) (n : Fin 8) (s : State) :
    exec (.blockRun req n) s = execBlockRun req n s := rfl

@[simp] theorem exec_blockStopComplete (n : Fin 8) (s : State) :
    exec (.blockStopComplete n) s = execBlockStopComplete n s := rfl

@[simp] theorem exec_loadVerify (req : Req) (s : State) :
    exec (.loadVerify req) s = execLoadVerify req s := rfl

@[simp] theorem exec_loadVerifyDone (img : Option Image) (s : State) :
    exec (.loadVerifyDone img) s = execLoadVerifyDone img s := rfl

@[simp] theorem exec_activate (req : Req) (refetchOk : Bool) (s : State) :
    exec (.activate req refetchOk) s = execActivate req refetchOk s := rfl

@[simp] theorem exec_program (req : Req) (s : State) :
    exec (.program req) s = execProgram req s := rfl

@[simp] theorem exec_programDone (s : State) :
    exec .programDone s = execProgramDone s := rfl

@[simp] theorem exec_confirm (req : Req) (s : State) :
    exec (.confirm req) s = execConfirm req s := rfl

@[simp] theorem exec_advanceSvn (req : Req) (s : State) :
    exec (.advanceSvn req) s = execAdvanceSvn req s := rfl

@[simp] theorem exec_abort (req : Req) (s : State) :
    exec (.abort req) s = execAbort req s := rfl

@[simp] theorem exec_superframeBoundaryTx (w : Wing) (shaped : Nat) (s : State) :
    exec (.superframeBoundaryTx w shaped) s = execSuperframeBoundaryTx w shaped s := rfl

@[simp] theorem exec_carrierFrameRx (w : Wing) (pos corr : Nat) (hdr : Option HeaderRx) (adc : List (List Int))
    (s : State) :
    exec (.carrierFrameRx w pos corr hdr adc) s = execCarrierFrameRx w pos corr hdr adc s := rfl

@[simp] theorem exec_cfAlignLoss (w : Wing) (s : State) :
    exec (.cfAlignLoss w) s = execCfAlignLoss w s := rfl

@[simp] theorem exec_hdrLossSet (w : Wing) (s : State) :
    exec (.hdrLossSet w) s = execHdrLossSet w s := rfl

@[simp] theorem exec_hdrLossClear (w : Wing) (s : State) :
    exec (.hdrLossClear w) s = execHdrLossClear w s := rfl

@[simp] theorem exec_superframeBoundaryRx (w : Wing) (m : SuperframeRx) (s : State) :
    exec (.superframeBoundaryRx w m) s = execSuperframeBoundaryRx w m s := rfl

@[simp] theorem exec_chanEnableWrite (req : Req) (w : Wing) (n : Fin 32) (on : Bool) (s : State) :
    exec (.chanEnableWrite req w n on) s = execChanEnableWrite req w n on s := rfl

@[simp] theorem exec_txFreqWrite (req : Req) (w : Wing) (ch fine : Int) (s : State) :
    exec (.txFreqWrite req w ch fine) s = execTxFreqWrite req w ch fine s := rfl

@[simp] theorem exec_loFreqWrite (req : Req) (w : Wing) (ch fine : Int) (s : State) :
    exec (.loFreqWrite req w ch fine) s = execLoFreqWrite req w ch fine s := rfl

@[simp] theorem exec_txLaserLock (w : Wing) (s : State) :
    exec (.txLaserLock w) s = execTxLaserLock w s := rfl

@[simp] theorem exec_txTuneTimeout (w : Wing) (s : State) :
    exec (.txTuneTimeout w) s = execTxTuneTimeout w s := rfl

@[simp] theorem exec_loTuneDone (w : Wing) (s : State) :
    exec (.loTuneDone w) s = execLoTuneDone w s := rfl

@[simp] theorem exec_loTuneFail (w : Wing) (s : State) :
    exec (.loTuneFail w) s = execLoTuneFail w s := rfl

@[simp] theorem exec_txCtlWrite (req : Req) (w : Wing) (enable : Bool) (rampMs : Nat) (power : Int) (s : State) :
    exec (.txCtlWrite req w enable rampMs power) s = execTxCtlWrite req w enable rampMs power s := rfl

@[simp] theorem exec_rampUpdate (w : Wing) (s : State) :
    exec (.rampUpdate w) s = execRampUpdate w s := rfl

@[simp] theorem exec_powerLoopUpdate (w : Wing) (s : State) :
    exec (.powerLoopUpdate w) s = execPowerLoopUpdate w s := rfl

@[simp] theorem exec_txDisAssert (w : Wing) (s : State) :
    exec (.txDisAssert w) s = execTxDisAssert w s := rfl

@[simp] theorem exec_txDisDeassert (w : Wing) (onTarget : Bool) (s : State) :
    exec (.txDisDeassert w onTarget) s = execTxDisDeassert w onTarget s := rfl

@[simp] theorem exec_losAssert (w : Wing) (power : Int) (s : State) :
    exec (.losAssert w power) s = execLosAssert w power s := rfl

@[simp] theorem exec_losClear (w : Wing) (power : Int) (s : State) :
    exec (.losClear w power) s = execLosClear w power s := rfl

@[simp] theorem exec_acqStart (w : Wing) (s : State) :
    exec (.acqStart w) s = execAcqStart w s := rfl

@[simp] theorem exec_acqStepComplete (w : Wing) (m : AcqInput) (s : State) :
    exec (.acqStepComplete w m) s = execAcqStepComplete w m s := rfl

@[simp] theorem exec_acqFail (w : Wing) (reason : Fin 16) (s : State) :
    exec (.acqFail w reason) s = execAcqFail w reason s := rfl

@[simp] theorem exec_acqRetry (w : Wing) (s : State) :
    exec (.acqRetry w) s = execAcqRetry w s := rfl

@[simp] theorem exec_reacq (req : Req) (w : Wing) (warm : Bool) (s : State) :
    exec (.reacq req w warm) s = execReacq req w warm s := rfl

@[simp] theorem exec_cdTrackMove (w : Wing) (residual : Int) (s : State) :
    exec (.cdTrackMove w residual) s = execCdTrackMove w residual s := rfl

@[simp] theorem exec_eqReconv (w : Wing) (s : State) :
    exec (.eqReconv w) s = execEqReconv w s := rfl

@[simp] theorem exec_sp2AutoOn (w : Wing) (s : State) :
    exec (.sp2AutoOn w) s = execSp2AutoOn w s := rfl

@[simp] theorem exec_sp2AutoOff (w : Wing) (s : State) :
    exec (.sp2AutoOff w) s = execSp2AutoOff w s := rfl

@[simp] theorem exec_sp2Start (w : Wing) (s : State) :
    exec (.sp2Start w) s = execSp2Start w s := rfl

@[simp] theorem exec_sp2Stop (w : Wing) (s : State) :
    exec (.sp2Stop w) s = execSp2Stop w s := rfl

@[simp] theorem exec_sp2DrainDone (w : Wing) (s : State) :
    exec (.sp2DrainDone w) s = execSp2DrainDone w s := rfl

@[simp] theorem exec_fomWindowEnd (w : Wing) (s : State) :
    exec (.fomWindowEnd w) s = execFomWindowEnd w s := rfl

@[simp] theorem exec_synthLock (w : Wing) (adc : Bool) (s : State) :
    exec (.synthLock w adc) s = execSynthLock w adc s := rfl

@[simp] theorem exec_fgCalComplete (w : Wing) (trims : List SliceTrim) (s : State) :
    exec (.fgCalComplete w trims) s = execFgCalComplete w trims s := rfl

@[simp] theorem exec_calRestart (req : Req) (w : Wing) (s : State) :
    exec (.calRestart req w) s = execCalRestart req w s := rfl

@[simp] theorem exec_spareCalComplete (w : Wing) (d : Fin 4) (found : Trims) (s : State) :
    exec (.spareCalComplete w d found) s = execSpareCalComplete w d found s := rfl

@[simp] theorem exec_sliceHandover (w : Wing) (d : Fin 4) (s : State) :
    exec (.sliceHandover w d) s = execSliceHandover w d s := rfl

@[simp] theorem exec_dwellExpiry (w : Wing) (d : Fin 4) (s : State) :
    exec (.dwellExpiry w d) s = execDwellExpiry w d s := rfl

@[simp] theorem exec_dacCalStart (req : Req) (w : Wing) (s : State) :
    exec (.dacCalStart req w) s = execDacCalStart req w s := rfl

@[simp] theorem exec_dacCalComplete (w : Wing) (trims : List SliceTrim) (s : State) :
    exec (.dacCalComplete w trims) s = execDacCalComplete w trims s := rfl

@[simp] theorem exec_supConversion (code : Nat) (s : State) :
    exec (.supConversion code) s = execSupConversion code s := rfl

@[simp] theorem exec_injTrigger (src : Fin 5) (s : State) :
    exec (.injTrigger src) s = execInjTrigger src s := rfl

@[simp] theorem exec_injGo (req : Req) (s : State) :
    exec (.injGo req) s = execInjGo req s := rfl

@[simp] theorem exec_decRound (m : RoundInput) (s : State) :
    exec (.decRound m) s = execDecRound m s := rfl

@[simp] theorem exec_decReset (req : Req) (mask : Nat) (s : State) :
    exec (.decReset req mask) s = execDecReset req mask s := rfl

@[simp] theorem exec_supCalStart (req : Req) (s : State) :
    exec (.supCalStart req) s = execSupCalStart req s := rfl

@[simp] theorem exec_supCalAuto (s : State) :
    exec .supCalAuto s = execSupCalAuto s := rfl

@[simp] theorem exec_supCalDone (s : State) :
    exec .supCalDone s = execSupCalDone s := rfl

@[simp] theorem exec_fecBlockDecode (w : Wing) (b : BlockRx) (s : State) :
    exec (.fecBlockDecode w b) s = execFecBlockDecode w b s := rfl

@[simp] theorem exec_fecLock (w : Wing) (s : State) :
    exec (.fecLock w) s = execFecLock w s := rfl

@[simp] theorem exec_fecLockLoss (w : Wing) (s : State) :
    exec (.fecLockLoss w) s = execFecLockLoss w s := rfl

@[simp] theorem exec_dfecSfChange (w : Wing) (s : State) :
    exec (.dfecSfChange w) s = execDfecSfChange w s := rfl

@[simp] theorem exec_dfecSdWindow (w : Wing) (s : State) :
    exec (.dfecSdWindow w) s = execDfecSdWindow w s := rfl

@[simp] theorem exec_advStale (w : Wing) (s : State) :
    exec (.advStale w) s = execAdvStale w s := rfl

@[simp] theorem exec_announceStart (w : Wing) (s : State) :
    exec (.announceStart w) s = execAnnounceStart w s := rfl

@[simp] theorem exec_annCommitPoint (w : Wing) (s : State) :
    exec (.annCommitPoint w) s = execAnnCommitPoint w s := rfl

@[simp] theorem exec_rateSwitch (w : Wing) (s : State) :
    exec (.rateSwitch w) s = execRateSwitch w s := rfl

@[simp] theorem exec_announceRetry (w : Wing) (s : State) :
    exec (.announceRetry w) s = execAnnounceRetry w s := rfl

@[simp] theorem exec_rxRateSwitch (w : Wing) (s : State) :
    exec (.rxRateSwitch w) s = execRxRateSwitch w s := rfl

@[simp] theorem exec_mismatchDeclare (w : Wing) (s : State) :
    exec (.mismatchDeclare w) s = execMismatchDeclare w s := rfl

@[simp] theorem exec_fallback (w : Wing) (s : State) :
    exec (.fallback w) s = execFallback w s := rfl

@[simp] theorem exec_policyResume (w : Wing) (s : State) :
    exec (.policyResume w) s = execPolicyResume w s := rfl

@[simp] theorem exec_icmAnnounceStart (w : Wing) (s : State) :
    exec (.icmAnnounceStart w) s = execIcmAnnounceStart w s := rfl

@[simp] theorem exec_icmAnnounceResend (w : Wing) (s : State) :
    exec (.icmAnnounceResend w) s = execIcmAnnounceResend w s := rfl

@[simp] theorem exec_icmHandshakeFail (w : Wing) (s : State) :
    exec (.icmHandshakeFail w) s = execIcmHandshakeFail w s := rfl

@[simp] theorem exec_enableChangeRetry (w : Wing) (s : State) :
    exec (.enableChangeRetry w) s = execEnableChangeRetry w s := rfl

@[simp] theorem exec_go (req : Req) (w : Wing) (s : State) :
    exec (.go req w) s = execGo req w s := rfl

@[simp] theorem exec_resume (req : Req) (w : Wing) (s : State) :
    exec (.resume req w) s = execResume req w s := rfl

@[simp] theorem exec_forceFloor (req : Req) (w : Wing) (s : State) :
    exec (.forceFloor req w) s = execForceFloor req w s := rfl

@[simp] theorem exec_elcModeSet (req : Req) (w : Wing) (mode : Fin 4) (s : State) :
    exec (.elcModeSet req w mode) s = execElcModeSet req w mode s := rfl

@[simp] theorem exec_icmBurstStart (w : Wing) (s : State) :
    exec (.icmBurstStart w) s = execIcmBurstStart w s := rfl

@[simp] theorem exec_icmBurstEnd (w : Wing) (s : State) :
    exec (.icmBurstEnd w) s = execIcmBurstEnd w s := rfl

@[simp] theorem exec_icmAdviceRepeat (w : Wing) (s : State) :
    exec (.icmAdviceRepeat w) s = execIcmAdviceRepeat w s := rfl

@[simp] theorem exec_icmBringupTimer (w : Wing) (s : State) :
    exec (.icmBringupTimer w) s = execIcmBringupTimer w s := rfl

@[simp] theorem exec_icmTagTimer (w : Wing) (s : State) :
    exec (.icmTagTimer w) s = execIcmTagTimer w s := rfl

@[simp] theorem exec_icmAlarmRepeat (w : Wing) (s : State) :
    exec (.icmAlarmRepeat w) s = execIcmAlarmRepeat w s := rfl

@[simp] theorem exec_icmPreambleDetect (w : Wing) (peaks : List (Nat × Nat)) (s : State) :
    exec (.icmPreambleDetect w peaks) s = execIcmPreambleDetect w peaks s := rfl

@[simp] theorem exec_icmFrameAbandon (w : Wing) (rx : IcmRx) (s : State) :
    exec (.icmFrameAbandon w rx) s = execIcmFrameAbandon w rx s := rfl

@[simp] theorem exec_icmCapture (w : Wing) (peaks : List (Nat × Nat)) (chirps : List RxChirp) (s : State) :
    exec (.icmCapture w peaks chirps) s = execIcmCapture w peaks chirps s := rfl

@[simp] theorem exec_icmAdviceRx (w : Wing) (rx : IcmRx) (s : State) :
    exec (.icmAdviceRx w rx) s = execIcmAdviceRx w rx s := rfl

@[simp] theorem exec_icmAnnounceRx (w : Wing) (rx : IcmRx) (s : State) :
    exec (.icmAnnounceRx w rx) s = execIcmAnnounceRx w rx s := rfl

@[simp] theorem exec_icmAckRx (w : Wing) (rx : IcmRx) (s : State) :
    exec (.icmAckRx w rx) s = execIcmAckRx w rx s := rfl

@[simp] theorem exec_icmBringupRx (w : Wing) (rx : IcmRx) (s : State) :
    exec (.icmBringupRx w rx) s = execIcmBringupRx w rx s := rfl

@[simp] theorem exec_icmTagRx (w : Wing) (rx : IcmRx) (s : State) :
    exec (.icmTagRx w rx) s = execIcmTagRx w rx s := rfl

@[simp] theorem exec_icmAlarmRx (w : Wing) (rx : IcmRx) (s : State) :
    exec (.icmAlarmRx w rx) s = execIcmAlarmRx w rx s := rfl

@[simp] theorem exec_icmUserRx (w : Wing) (rx : IcmRx) (s : State) :
    exec (.icmUserRx w rx) s = execIcmUserRx w rx s := rfl

@[simp] theorem exec_farAlarmTimeout (w : Wing) (s : State) :
    exec (.farAlarmTimeout w) s = execFarAlarmTimeout w s := rfl

@[simp] theorem exec_userSend (req : Req) (w : Wing) (s : State) :
    exec (.userSend req w) s = execUserSend req w s := rfl

@[simp] theorem exec_userPop (req : Req) (w : Wing) (s : State) :
    exec (.userPop req w) s = execUserPop req w s := rfl

@[simp] theorem exec_otnFrameTx (w : Wing) (s : State) :
    exec (.otnFrameTx w) s = execOtnFrameTx w s := rfl

@[simp] theorem exec_fasSearchMatch (w : Wing) (s : State) :
    exec (.fasSearchMatch w) s = execFasSearchMatch w s := rfl

@[simp] theorem exec_otnFrameRx (w : Wing) (s : State) :
    exec (.otnFrameRx w) s = execOtnFrameRx w s := rfl

@[simp] theorem exec_oofDeclare (w : Wing) (s : State) :
    exec (.oofDeclare w) s = execOofDeclare w s := rfl

@[simp] theorem exec_oomDeclare (w : Wing) (s : State) :
    exec (.oomDeclare w) s = execOomDeclare w s := rfl

@[simp] theorem exec_defectChange (w : Wing) (d : Fin 14) (ch : Fin 32) (s : State) :
    exec (.defectChange w d ch) s = execDefectChange w d ch s := rfl

@[simp] theorem exec_degEval (w : Wing) (second : Bool) (s : State) :
    exec (.degEval w second) s = execDegEval w second s := rfl

@[simp] theorem exec_failureDeclare (w : Wing) (d : Fin 14) (ch : Fin 32) (s : State) :
    exec (.failureDeclare w d ch) s = execFailureDeclare w d ch s := rfl

@[simp] theorem exec_failureClear (w : Wing) (d : Fin 14) (ch : Fin 32) (s : State) :
    exec (.failureClear w d ch) s = execFailureClear w d ch s := rfl

@[simp] theorem exec_apsAccept (w : Wing) (ch : Fin 32) (s : State) :
    exec (.apsAccept w ch) s = execApsAccept w ch s := rfl

@[simp] theorem exec_gcc0MsgRx (w : Wing) (s : State) :
    exec (.gcc0MsgRx w) s = execGcc0MsgRx w s := rfl

@[simp] theorem exec_pgConditionChange (g : Fin 8) (m : Wing) (s : State) :
    exec (.pgConditionChange g m) s = execPgConditionChange g m s := rfl

@[simp] theorem exec_holdoffExpiry (g : Fin 8) (m : Wing) (s : State) :
    exec (.holdoffExpiry g m) s = execHoldoffExpiry g m s := rfl

@[simp] theorem exec_wtrExpiry (g : Fin 8) (s : State) :
    exec (.wtrExpiry g) s = execWtrExpiry g s := rfl

@[simp] theorem exec_pgClear (req : Req) (g : Fin 8) (s : State) :
    exec (.pgClear req g) s = execPgClear req g s := rfl

@[simp] theorem exec_pgLockout (req : Req) (g : Fin 8) (s : State) :
    exec (.pgLockout req g) s = execPgLockout req g s := rfl

@[simp] theorem exec_pgForce (req : Req) (g : Fin 8) (s : State) :
    exec (.pgForce req g) s = execPgForce req g s := rfl

@[simp] theorem exec_pgManualP (req : Req) (g : Fin 8) (s : State) :
    exec (.pgManualP req g) s = execPgManualP req g s := rfl

@[simp] theorem exec_pgManualW (req : Req) (g : Fin 8) (s : State) :
    exec (.pgManualW req g) s = execPgManualW req g s := rfl

@[simp] theorem exec_fopRaise (g : Fin 8) (s : State) :
    exec (.fopRaise g) s = execFopRaise g s := rfl

@[simp] theorem exec_fopClear (g : Fin 8) (s : State) :
    exec (.fopClear g) s = execFopClear g s := rfl

@[simp] theorem exec_segmentTxStart (ch : Fin 64) (s : State) :
    exec (.segmentTxStart ch) s = execSegmentTxStart ch s := rfl

@[simp] theorem exec_segmentRx (ch : Fin 64) (seg : Segment) (s : State) :
    exec (.segmentRx ch seg) s = execSegmentRx ch seg s := rfl

@[simp] theorem exec_segLockLoss (ch : Fin 64) (s : State) :
    exec (.segLockLoss ch) s = execSegLockLoss ch s := rfl

@[simp] theorem exec_roll (req : Req) (ch : Fin 64) (s : State) :
    exec (.roll req ch) s = execRoll req ch s := rfl

@[simp] theorem exec_pipelineRunEnd (p : Fin 16) (s : State) :
    exec (.pipelineRunEnd p) s = execPipelineRunEnd p s := rfl

@[simp] theorem exec_preempt (left : List Nat) (s : State) :
    exec (.preempt left) s = execPreempt left s := rfl

@[simp] theorem exec_keyLoad (req : Req) (slot : Fin 512) (s : State) :
    exec (.keyLoad req slot) s = execKeyLoad req slot s := rfl

@[simp] theorem exec_keyErase (req : Req) (slot : Fin 512) (s : State) :
    exec (.keyErase req slot) s = execKeyErase req slot s := rfl

@[simp] theorem exec_loadKek (req : Req) (fetched : Option (List Nat)) (s : State) :
    exec (.loadKek req fetched) s = execLoadKek req fetched s := rfl

@[simp] theorem exec_attest (req : Req) (s : State) :
    exec (.attest req) s = execAttest req s := rfl

@[simp] theorem exec_getCert (req : Req) (s : State) :
    exec (.getCert req) s = execGetCert req s := rfl

@[simp] theorem exec_getKekPub (req : Req) (s : State) :
    exec (.getKekPub req) s = execGetKekPub req s := rfl

@[simp] theorem exec_retirementComplete (slot : Fin 256) (s : State) :
    exec (.retirementComplete slot) s = execRetirementComplete slot s := rfl

@[simp] theorem exec_keInitSend (w : Wing) (s : State) :
    exec (.keInitSend w) s = execKeInitSend w s := rfl

@[simp] theorem exec_sessionLifeExpiry (w : Wing) (s : State) :
    exec (.sessionLifeExpiry w) s = execSessionLifeExpiry w s := rfl

@[simp] theorem exec_keInitRx (w : Wing) (session : Nat) (m : KeMsg) (s : State) :
    exec (.keInitRx w session m) s = execKeInitRx w session m s := rfl

@[simp] theorem exec_keRespRx (w : Wing) (m : KeMsg) (s : State) :
    exec (.keRespRx w m) s = execKeRespRx w m s := rfl

@[simp] theorem exec_keFinRx (w : Wing) (mac : List Nat) (s : State) :
    exec (.keFinRx w mac) s = execKeFinRx w mac s := rfl

@[simp] theorem exec_keAbort (w : Wing) (s : State) :
    exec (.keAbort w) s = execKeAbort w s := rfl

@[simp] theorem exec_sessionRetry (w : Wing) (s : State) :
    exec (.sessionRetry w) s = execSessionRetry w s := rfl

@[simp] theorem exec_keyReadyRx (w : Wing) (ch : Fin 32) (session gen : Nat) (s : State) :
    exec (.keyReadyRx w ch session gen) s = execKeyReadyRx w ch session gen s := rfl

@[simp] theorem exec_clientFrameRx (port : Fin 32) (f : Frame) (macControl : Bool) (s : State) :
    exec (.clientFrameRx port f macControl) s = execClientFrameRx port f macControl s := rfl

@[simp] theorem exec_pfcFrameTx (port : Fin 32) (s : State) :
    exec (.pfcFrameTx port) s = execPfcFrameTx port s := rfl

@[simp] theorem exec_pfcXoffRepeat (port : Fin 32) (cls : Fin 8) (s : State) :
    exec (.pfcXoffRepeat port cls) s = execPfcXoffRepeat port cls s := rfl

@[simp] theorem exec_pfcRx (port : Fin 32) (len : Nat) (fcsOk : Bool) (vector : Nat) (times : List Nat) (s : State) :
    exec (.pfcRx port len fcsOk vector times) s = execPfcRx port len fcsOk vector times s := rfl

@[simp] theorem exec_pfcPauseExpiry (port : Fin 32) (cls : Fin 8) (s : State) :
    exec (.pfcPauseExpiry port cls) s = execPfcPauseExpiry port cls s := rfl

@[simp] theorem exec_esmcRx (port : Fin 32) (len : Nat) (fcsOk : Bool) (ql : Fin 16) (s : State) :
    exec (.esmcRx port len fcsOk ql) s = execEsmcRx port len fcsOk ql s := rfl

@[simp] theorem exec_esmcTx (event : Bool) (s : State) :
    exec (.esmcTx event) s = execEsmcTx event s := rfl

@[simp] theorem exec_portLinkChange (port : Fin 32) (pcsAligned lf rf : Bool) (s : State) :
    exec (.portLinkChange port pcsAligned lf rf) s = execPortLinkChange port pcsAligned lf rf s := rfl

@[simp] theorem exec_lineFrameDemap (w : Wing) (ch : Fin 32) (f : Frame) (later : Fin 64) (cut : Bool)
    (first : FirstByte) (s : State) :
    exec (.lineFrameDemap w ch f later cut first) s = execLineFrameDemap w ch f later cut first s := rfl

@[simp] theorem exec_tpgFrame (s : State) :
    exec .tpgFrame s = execTpgFrame s := rfl

@[simp] theorem exec_schedSelect (inst : Fin 96) (line : MemLine) (found : EccRead) (s : State) :
    exec (.schedSelect inst line found) s = execSchedSelect inst line found s := rfl

@[simp] theorem exec_gclEntryStart (ch : Fin 64) (s : State) :
    exec (.gclEntryStart ch) s = execGclEntryStart ch s := rfl

@[simp] theorem exec_gclActivate (req : Req) (ch : Fin 64) (s : State) :
    exec (.gclActivate req ch) s = execGclActivate req ch s := rfl

@[simp] theorem exec_gclTimingWrite (req : Req) (ch : Fin 64) (cycle : Option Nat) (base : Option Nat) (s : State) :
    exec (.gclTimingWrite req ch cycle base) s = execGclTimingWrite req ch cycle base s := rfl

@[simp] theorem exec_gclSwap (ch : Fin 64) (s : State) :
    exec (.gclSwap ch) s = execGclSwap ch s := rfl

@[simp] theorem exec_gclWivlWrite (req : Req) (ivl : Nat) (s : State) :
    exec (.gclWivlWrite req ivl) s = execGclWivlWrite req ivl s := rfl

@[simp] theorem exec_laneSignalDetect (cor : Bool) (l : Fin 32) (s : State) :
    exec (.laneSignalDetect cor l) s = execLaneSignalDetect cor l s := rfl

@[simp] theorem exec_laneStepComplete (cor : Bool) (l : Fin 32) (r : LaneResult) (s : State) :
    exec (.laneStepComplete cor l r) s = execLaneStepComplete cor l r s := rfl

@[simp] theorem exec_laneFail (cor : Bool) (l : Fin 32) (reason : Fin 16) (s : State) :
    exec (.laneFail cor l reason) s = execLaneFail cor l reason s := rfl

@[simp] theorem exec_laneRetry (cor : Bool) (l : Fin 32) (s : State) :
    exec (.laneRetry cor l) s = execLaneRetry cor l s := rfl

@[simp] theorem exec_laneRestart (req : Req) (cor : Bool) (l : Fin 32) (s : State) :
    exec (.laneRestart req cor l) s = execLaneRestart req cor l s := rfl

@[simp] theorem exec_laneDown (cor : Bool) (l : Fin 32) (s : State) :
    exec (.laneDown cor l) s = execLaneDown cor l s := rfl

@[simp] theorem exec_fomMeasure (cor : Bool) (l : Fin 32) (run : SlicerRun) (s : State) :
    exec (.fomMeasure cor l run) s = execFomMeasure cor l run s := rfl

@[simp] theorem exec_laneAdaptStart (cor : Bool) (l : Fin 32) (s : State) :
    exec (.laneAdaptStart cor l) s = execLaneAdaptStart cor l s := rfl

@[simp] theorem exec_refSelect (offsets : List (Option Int)) (s : State) :
    exec (.refSelect offsets) s = execRefSelect offsets s := rfl

@[simp] theorem exec_candQualify (n : Fin 8) (offset : Int) (s : State) :
    exec (.candQualify n offset) s = execCandQualify n offset s := rfl

@[simp] theorem exec_candDisqualify (n : Fin 8) (offset : Int) (s : State) :
    exec (.candDisqualify n offset) s = execCandDisqualify n offset s := rfl

@[simp] theorem exec_candWtrExpiry (n : Fin 8) (s : State) :
    exec (.candWtrExpiry n) s = execCandWtrExpiry n s := rfl

@[simp] theorem exec_esmcTimeout (n : Fin 8) (s : State) :
    exec (.esmcTimeout n) s = execEsmcTimeout n s := rfl

@[simp] theorem exec_refLock (s : State) :
    exec .refLock s = execRefLock s := rfl

@[simp] theorem exec_dpllFault (s : State) :
    exec .dpllFault s = execDpllFault s := rfl

@[simp] theorem exec_dpllRelock (s : State) :
    exec .dpllRelock s = execDpllRelock s := rfl

@[simp] theorem exec_hoRelearn (req : Req) (s : State) :
    exec (.hoRelearn req) s = execHoRelearn req s := rfl

@[simp] theorem exec_mtUpdate (s : State) :
    exec .mtUpdate s = execMtUpdate s := rfl

@[simp] theorem exec_mtStep (req : Req) (s : State) :
    exec (.mtStep req) s = execMtStep req s := rfl

@[simp] theorem exec_oneSecondTick (m : SecondStats) (s : State) :
    exec (.oneSecondTick m) s = execOneSecondTick m s := rfl

@[simp] theorem exec_vinStart (vin : Nat) (s : State) :
    exec (.vinStart vin) s = execVinStart vin s := rfl

@[simp] theorem exec_powerLoss (s : State) :
    exec .powerLoss s = execPowerLoss s := rfl

@[simp] theorem exec_vinWarnRise (vin : Nat) (s : State) :
    exec (.vinWarnRise vin) s = execVinWarnRise vin s := rfl

@[simp] theorem exec_vinWarnClear (vin : Nat) (s : State) :
    exec (.vinWarnClear vin) s = execVinWarnClear vin s := rfl

@[simp] theorem exec_stageAdmit (s : State) :
    exec .stageAdmit s = execStageAdmit s := rfl

@[simp] theorem exec_stateTargetWrite (req : Req) (target : Fin 8) (s : State) :
    exec (.stateTargetWrite req target) s = execStateTargetWrite req target s := rfl

@[simp] theorem exec_wingStateWrite (req : Req) (wingA wingB : Fin 4) (s : State) :
    exec (.wingStateWrite req wingA wingB) s = execWingStateWrite req wingA wingB s := rfl

@[simp] theorem exec_stateEntryDone (s : State) :
    exec .stateEntryDone s = execStateEntryDone s := rfl

@[simp] theorem exec_stateEntryRefuse (island : Fin 25) (reason : Fin 16) (s : State) :
    exec (.stateEntryRefuse island reason) s = execStateEntryRefuse island reason s := rfl

@[simp] theorem exec_wakeOnAccess (island : Fin 25) (stall : Nat) (s : State) :
    exec (.wakeOnAccess island stall) s = execWakeOnAccess island stall s := rfl

@[simp] theorem exec_woaLingerExpiry (group : Fin 3) (s : State) :
    exec (.woaLingerExpiry group) s = execWoaLingerExpiry group s := rfl

@[simp] theorem exec_wakeNAssert (s : State) :
    exec .wakeNAssert s = execWakeNAssert s := rfl

@[simp] theorem exec_wakeTimerExpiry (s : State) :
    exec .wakeTimerExpiry s = execWakeTimerExpiry s := rfl

@[simp] theorem exec_watchCycle (meanA meanB : Nat) (s : State) :
    exec (.watchCycle meanA meanB) s = execWatchCycle meanA meanB s := rfl

@[simp] theorem exec_modReset (s : State) :
    exec .modReset s = execModReset s := rfl

@[simp] theorem exec_hierGo (req : Req) (reachable : List Nat) (s : State) :
    exec (.hierGo req reachable) s = execHierGo req reachable s := rfl

@[simp] theorem exec_hierForwardNext (s : State) :
    exec .hierForwardNext s = execHierForwardNext s := rfl

@[simp] theorem exec_thermalTrip (s : State) :
    exec .thermalTrip s = execThermalTrip s := rfl

@[simp] theorem exec_descAuditDone (s : State) :
    exec .descAuditDone s = execDescAuditDone s := rfl

@[simp] theorem exec_scrubRead (line : MemLine) (found : EccRead) (s : State) :
    exec (.scrubRead line found) s = execScrubRead line found s := rfl

@[simp] theorem exec_parityMismatch (island : Fin 25) (s : State) :
    exec (.parityMismatch island) s = execParityMismatch island s := rfl

@[simp] theorem exec_clockLoss (island : Fin 25) (s : State) :
    exec (.clockLoss island) s = execClockLoss island s := rfl

@[simp] theorem exec_slowClkLoss (s : State) :
    exec .slowClkLoss s = execSlowClkLoss s := rfl

@[simp] theorem exec_doorwayTimeout (sender receiver : Fin 25) (s : State) :
    exec (.doorwayTimeout sender receiver) s = execDoorwayTimeout sender receiver s := rfl

@[simp] theorem exec_lockstepMiscompare (s : State) :
    exec .lockstepMiscompare s = execLockstepMiscompare s := rfl

@[simp] theorem exec_coreRestartDone (s : State) :
    exec .coreRestartDone s = execCoreRestartDone s := rfl

@[simp] theorem exec_recover (req : Req) (s : State) :
    exec (.recover req) s = execRecover req s := rfl

@[simp] theorem exec_eccInjectArm (req : Req) (s : State) :
    exec (.eccInjectArm req) s = execEccInjectArm req s := rfl

@[simp] theorem exec_faultClear (req : Req) (s : State) :
    exec (.faultClear req) s = execFaultClear req s := rfl

@[simp] theorem exec_freeze (req : Req) (s : State) :
    exec (.freeze req) s = execFreeze req s := rfl

@[simp] theorem exec_thaw (req : Req) (s : State) :
    exec (.thaw req) s = execThaw req s := rfl

@[simp] theorem exec_clearAll (req : Req) (s : State) :
    exec (.clearAll req) s = execClearAll req s := rfl

@[simp] theorem exec_loHalfRead (req : Req) (addr : Nat) (s : State) :
    exec (.loHalfRead req addr) s = execLoHalfRead req addr s := rfl

@[simp] theorem exec_userPageAccess (offset : Nat) (isWrite : Bool) (s : State) :
    exec (.userPageAccess offset isWrite) s = execUserPageAccess offset isWrite s := rfl

@[simp] theorem exec_tagWinRead (req : Req) (s : State) :
    exec (.tagWinRead req) s = execTagWinRead req s := rfl

@[simp] theorem exec_tagPop (req : Req) (s : State) :
    exec (.tagPop req) s = execTagPop req s := rfl

@[simp] theorem exec_histClr (req : Req) (mask : Nat) (s : State) :
    exec (.histClr req mask) s = execHistClr req mask s := rfl

@[simp] theorem exec_atticRecord (s : State) :
    exec .atticRecord s = execAtticRecord s := rfl

@[simp] theorem exec_atticWinRead (req : Req) (s : State) :
    exec (.atticWinRead req) s = execAtticWinRead req s := rfl

@[simp] theorem exec_atticWinLastRead (req : Req) (s : State) :
    exec (.atticWinLastRead req) s = execAtticWinLastRead req s := rfl

@[simp] theorem exec_atticClearArm (req : Req) (scope : Bool) (s : State) :
    exec (.atticClearArm req scope) s = execAtticClearArm req scope s := rfl

@[simp] theorem exec_atticClearExecute (req : Req) (scope : Bool) (s : State) :
    exec (.atticClearExecute req scope) s = execAtticClearExecute req scope s := rfl

@[simp] theorem exec_atticClearLapse (s : State) :
    exec .atticClearLapse s = execAtticClearLapse s := rfl

@[simp] theorem exec_perst (s : State) :
    exec .perst s = execPerst s := rfl

@[simp] theorem exec_flrPf0 (s : State) :
    exec .flrPf0 s = execFlrPf0 s := rfl

@[simp] theorem exec_flrPf1 (s : State) :
    exec .flrPf1 s = execFlrPf1 s := rfl

@[simp] theorem exec_badAccess (req : Req) (s : State) :
    exec (.badAccess req) s = execBadAccess req s := rfl

@[simp] theorem exec_msixUnmask (c : MsixCtl) (s : State) :
    exec (.msixUnmask c) s = execMsixUnmask c s := rfl

@[simp] theorem exec_vecModGapExpiry (v : Fin 64) (s : State) :
    exec (.vecModGapExpiry v) s = execVecModGapExpiry v s := rfl

@[simp] theorem exec_captureBlock (e : Fin 7) (d : Descriptor) (m : SymbolBlock) (s : State) :
    exec (.captureBlock e d m) s = execCaptureBlock e d m s := rfl

@[simp] theorem exec_heartbeatTx (s : State) :
    exec .heartbeatTx s = execHeartbeatTx s := rfl

@[simp] theorem exec_corHeartbeatRx (port : Fin 4) (ql : Fin 16) (s : State) :
    exec (.corHeartbeatRx port ql) s = execCorHeartbeatRx port ql s := rfl

@[simp] theorem exec_corridorPortDown (port : Fin 4) (s : State) :
    exec (.corridorPortDown port) s = execCorridorPortDown port s := rfl

@[simp] theorem exec_corLinkRx (worker : Nat) (port : Fin 4) (up restored : Bool) (s : State) :
    exec (.corLinkRx worker port up restored) s = execCorLinkRx worker port up restored s := rfl

@[simp] theorem exec_enumerate (topo : List Neighbours) (s : State) :
    exec (.enumerate topo) s = execEnumerate topo s := rfl

@[simp] theorem exec_corEnumRx (addr : Nat) (port : Fin 4) (serves : List (Option (Nat × Nat))) (s : State) :
    exec (.corEnumRx addr port serves) s = execCorEnumRx addr port serves s := rfl

@[simp] theorem exec_windowAccess (w : Fin 16) (addr : Nat) (data : Option Nat) (s : State) :
    exec (.windowAccess w addr data) s = execWindowAccess w addr data s := rfl

@[simp] theorem exec_corReadRx (id addr : Nat) (port : Fin 4) (s : State) :
    exec (.corReadRx id addr port) s = execCorReadRx id addr port s := rfl

@[simp] theorem exec_corWriteRx (id addr word : Nat) (port : Fin 4) (s : State) :
    exec (.corWriteRx id addr word port) s = execCorWriteRx id addr word port s := rfl

@[simp] theorem exec_corReadCplRx (id data : Nat) (s : State) :
    exec (.corReadCplRx id data) s = execCorReadCplRx id data s := rfl

@[simp] theorem exec_corWriteAckRx (id : Nat) (s : State) :
    exec (.corWriteAckRx id) s = execCorWriteAckRx id s := rfl

@[simp] theorem exec_corStallRx (id : Nat) (s : State) :
    exec (.corStallRx id) s = execCorStallRx id s := rfl

@[simp] theorem exec_windowDeadlineExpiry (id : Nat) (s : State) :
    exec (.windowDeadlineExpiry id) s = execWindowDeadlineExpiry id s := rfl

@[simp] theorem exec_corDoorbellRx (worker : Nat) (v : Fin 64) (s : State) :
    exec (.corDoorbellRx worker v) s = execCorDoorbellRx worker v s := rfl

@[simp] theorem exec_corHierRx (target : Fin 8) (s : State) :
    exec (.corHierRx target) s = execCorHierRx target s := rfl

@[simp] theorem exec_fwdLogRead (req : Req) (s : State) :
    exec (.fwdLogRead req) s = execFwdLogRead req s := rfl

@[simp] theorem exec_smbStatus (s : State) :
    exec .smbStatus s = execSmbStatus s := rfl

@[simp] theorem exec_smbVin (s : State) :
    exec .smbVin s = execSmbVin s := rfl

@[simp] theorem exec_smbTcp (v : Int) (s : State) :
    exec (.smbTcp v) s = execSmbTcp v s := rfl

@[simp] theorem exec_smbTdie (v : Int) (s : State) :
    exec (.smbTdie v) s = execSmbTdie v s := rfl

@[simp] theorem exec_smbWake (s : State) :
    exec .smbWake s = execSmbWake s := rfl

@[simp] theorem exec_smbId (s : State) :
    exec .smbId s = execSmbId s := rfl

@[simp] theorem exec_smbWakeCmd (s : State) :
    exec .smbWakeCmd s = execSmbWakeCmd s := rfl

@[simp] theorem exec_smbAlertClr (s : State) :
    exec .smbAlertClr s = execSmbAlertClr s := rfl

@[simp] theorem exec_smbAlertResponse (s : State) :
    exec .smbAlertResponse s = execSmbAlertResponse s := rfl

@[simp] theorem exec_smbAtticCur (index : Nat) (s : State) :
    exec (.smbAtticCur index) s = execSmbAtticCur index s := rfl

@[simp] theorem exec_smbAtticRec (s : State) :
    exec .smbAtticRec s = execSmbAtticRec s := rfl

@[simp] theorem exec_smbUndefined (code : Nat) (s : State) :
    exec (.smbUndefined code) s = execSmbUndefined code s := rfl

@[simp] theorem exec_monPeek (addr n : Nat) (s : State) :
    exec (.monPeek addr n) s = execMonPeek addr n s := rfl

@[simp] theorem exec_monPoke (addr word : Nat) (s : State) :
    exec (.monPoke addr word) s = execMonPoke addr word s := rfl

@[simp] theorem exec_monAttic (index n : Nat) (s : State) :
    exec (.monAttic index n) s = execMonAttic index n s := rfl

@[simp] theorem exec_monState (s : State) :
    exec .monState s = execMonState s := rfl

@[simp] theorem exec_monIslands (s : State) :
    exec .monIslands s = execMonIslands s := rfl

@[simp] theorem exec_monFp (s : State) :
    exec .monFp s = execMonFp s := rfl

@[simp] theorem exec_monLanes (client : Option Bool) (s : State) :
    exec (.monLanes client) s = execMonLanes client s := rfl

@[simp] theorem exec_monWing (w : Wing) (s : State) :
    exec (.monWing w) s = execMonWing w s := rfl

@[simp] theorem exec_monRef (s : State) :
    exec .monRef s = execMonRef s := rfl

@[simp] theorem exec_monHelp (s : State) :
    exec .monHelp s = execMonHelp s := rfl

@[simp] theorem exec_monUnknown (s : State) :
    exec .monUnknown s = execMonUnknown s := rfl

@[simp] theorem exec_bootStepDone (b : BootInput) (s : State) :
    exec (.bootStepDone b) s = execBootStepDone b s := rfl

@[simp] theorem exec_wingStartStepDone (w : Wing) (s : State) :
    exec (.wingStartStepDone w) s = execWingStartStepDone w s := rfl

@[simp] theorem exec_perstRelease (s : State) :
    exec .perstRelease s = execPerstRelease s := rfl

@[simp] theorem exec_pcieLinkUp (gen : Nat) (width : Nat) (s : State) :
    exec (.pcieLinkUp gen width) s = execPcieLinkUp gen width s := rfl

@[simp] theorem exec_unmappedAccess (req : Req) (addr : Nat) (isWrite : Bool) (s : State) :
    exec (.unmappedAccess req addr isWrite) s = execUnmappedAccess req addr isWrite s := rfl

@[simp] theorem exec_keyCommandDone (s : State) :
    exec .keyCommandDone s = execKeyCommandDone s := rfl

@[simp] theorem exec_imageCommandDone (s : State) :
    exec .imageCommandDone s = execImageCommandDone s := rfl

@[simp] theorem exec_eqReconvDone (w : Wing) (s : State) :
    exec (.eqReconvDone w) s = execEqReconvDone w s := rfl

@[simp] theorem exec_holdoverLearnHour (fit : HoModel) (s : State) :
    exec (.holdoverLearnHour fit) s = execHoldoverLearnHour fit s := rfl

end Sys2Proof.Machine
end

