-- ==== Sys2Proof/Laws/Tab.lean ====
section
/-!
SUPPORT. What the table operations do: reading after writing, and the canonical form.
-/

namespace Sys2Proof.Machine

variable {α : Type}

theorem tabFind_nil (k : Nat) : tabFind ([] : Tab α) k = none := rfl

theorem tabFind_cons (e : Nat × α) (t : Tab α) (k : Nat) :
    tabFind (e :: t) k = if e.1 = k then some e.2 else tabFind t k := by
  unfold tabFind
  by_cases h : e.1 = k <;> simp [h]

theorem tabFind_erase_self (t : Tab α) (k : Nat) : tabFind (tabErase t k) k = none := by
  simp [tabFind, tabErase, List.find?_eq_none]

theorem tabFind_erase_ne (t : Tab α) {k k' : Nat} (h : k' ≠ k) : tabFind (tabErase t k) k' = tabFind t k' := by
  induction t with
  | nil => rfl
  | cons e t ih =>
    by_cases he : e.1 = k
    · have hk : e.1 ≠ k' := fun x => h (x ▸ he)
      have : tabErase (e :: t) k = tabErase t k := by simp [tabErase, he]
      rw [this, ih, tabFind_cons, if_neg hk]
    · have : tabErase (e :: t) k = e :: tabErase t k := by simp [tabErase, he]
      rw [this, tabFind_cons, tabFind_cons, ih]

theorem tabFind_insert_self (t : Tab α) (k : Nat) (v : α) (h : tabFind t k = none) :
    tabFind (tabInsert k v t) k = some v := by
  induction t with
  | nil => simp [tabInsert, tabFind_cons]
  | cons e t ih =>
    rw [tabFind_cons] at h
    split at h
    · cases h
    · rename_i hne
      unfold tabInsert
      split
      · simp [tabFind_cons]
      · rw [tabFind_cons, if_neg hne, ih h]

theorem tabFind_insert_ne (t : Tab α) {k k' : Nat} (v : α) (h : k' ≠ k) :
    tabFind (tabInsert k v t) k' = tabFind t k' := by
  induction t with
  | nil => simp [tabInsert, tabFind_cons, Ne.symm h, tabFind_nil]
  | cons e t ih =>
    unfold tabInsert
    split
    · rw [tabFind_cons, if_neg (Ne.symm h)]
    · rw [tabFind_cons, tabFind_cons, ih]

/-- A write is what the key then reads as. -/
theorem tabGet_set_self [DecidableEq α] (d : α) (t : Tab α) (k : Nat) (v : α) : tabGet d (tabSet d t k v) k = v := by
  unfold tabGet tabSet
  split
  · rename_i h; simp [tabFind_erase_self, h]
  · simp [tabFind_insert_self _ _ _ (tabFind_erase_self t k)]

/-- A write leaves every other key alone. -/
theorem tabGet_set_ne [DecidableEq α] (d : α) (t : Tab α) {k k' : Nat} (v : α) (h : k' ≠ k) :
    tabGet d (tabSet d t k v) k' = tabGet d t k' := by
  unfold tabGet tabSet
  split
  · rw [tabFind_erase_ne t h]
  · rw [tabFind_insert_ne _ v h, tabFind_erase_ne t h]

theorem tabGet_erase_self (d : α) (t : Tab α) (k : Nat) : tabGet d (tabErase t k) k = d := by
  simp [tabGet, tabFind_erase_self]

theorem tabGet_erase_ne (d : α) (t : Tab α) {k k' : Nat} (h : k' ≠ k) :
    tabGet d (tabErase t k) k' = tabGet d t k' := by
  simp [tabGet, tabFind_erase_ne t h]

/-! ### The canonical form -/

theorem tabSorted_filter {t : Tab α} (p : Nat × α → Bool) (h : tabSorted t) : tabSorted (t.filter p) := h.filter p

theorem tabSorted_erase {t : Tab α} (k : Nat) (h : tabSorted t) : tabSorted (tabErase t k) := h.filter _

theorem mem_tabInsert {k : Nat} {v : α} {t : Tab α} {e : Nat × α} :
    e ∈ tabInsert k v t ↔ e = (k, v) ∨ e ∈ t := by
  induction t with
  | nil => simp [tabInsert]
  | cons x t ih =>
    unfold tabInsert
    split
    · simp
    · simp only [List.mem_cons, ih]; tauto

theorem tabSorted_insert {t : Tab α} {k : Nat} (v : α) (h : tabSorted t) (hk : ∀ e ∈ t, e.1 ≠ k) :
    tabSorted (tabInsert k v t) := by
  induction t with
  | nil => simp [tabInsert]
  | cons x t ih =>
    have hx := List.pairwise_cons.mp h
    unfold tabInsert
    split
    · rename_i hlt
      refine List.pairwise_cons.mpr ⟨?_, h⟩
      intro e he
      rcases List.mem_cons.mp he with rfl | he
      · exact hlt
      · exact Nat.lt_trans hlt (hx.1 e he)
    · rename_i hge
      refine List.pairwise_cons.mpr ⟨?_, ih hx.2 (fun e he => hk e (List.mem_cons_of_mem _ he))⟩
      intro e he
      rcases mem_tabInsert.mp he with rfl | he
      · have := hk x (List.mem_cons_self ..)
        show x.1 < k
        omega
      · exact hx.1 e he

theorem key_ne_of_find {t : Tab α} {k : Nat} (h : tabFind t k = none) : ∀ e ∈ t, e.1 ≠ k := by
  intro e he hk
  simp only [tabFind, Option.map_eq_none_iff, List.find?_eq_none] at h
  exact h e he (by simp [hk])

theorem key_ne_erase (t : Tab α) (k : Nat) : ∀ e ∈ tabErase t k, e.1 ≠ k :=
  key_ne_of_find (tabFind_erase_self t k)

theorem tabSorted_insert_erase {t : Tab α} (k : Nat) (v : α) (h : tabSorted t) :
    tabSorted (tabInsert k v (tabErase t k)) :=
  tabSorted_insert v (tabSorted_erase k h) (key_ne_erase t k)

theorem mem_tabErase {t : Tab α} {k : Nat} {e : Nat × α} (h : e ∈ tabErase t k) : e ∈ t := (List.mem_filter.mp h).1

theorem tabSorted_set [DecidableEq α] (d : α) {t : Tab α} (k : Nat) (v : α) (h : tabSorted t) :
    tabSorted (tabSet d t k v) := by
  unfold tabSet
  split
  · exact tabSorted_erase k h
  · exact tabSorted_insert_erase k v h

theorem mem_tabSet [DecidableEq α] {d : α} {t : Tab α} {k : Nat} {v : α} {e : Nat × α} (h : e ∈ tabSet d t k v) :
    e ∈ t ∨ (e = (k, v) ∧ v ≠ d) := by
  unfold tabSet at h
  split at h
  · exact .inl (mem_tabErase h)
  · rename_i hv
    rcases mem_tabInsert.mp h with rfl | h
    · exact .inr ⟨rfl, hv⟩
    · exact .inl (mem_tabErase h)

/-- What a key reads as in a canonical store is canonical. -/
theorem row_wf {st : Tab (Tab Nat)} (h : storeWf st) (k : Nat) :
    tabSorted (tabGet [] st k) ∧ ∀ f ∈ tabGet [] st k, f.2 ≠ 0 := by
  unfold tabGet tabFind
  cases hf : st.find? (fun e => e.1 == k) with
  | none => simp
  | some e => exact (h.2 e (List.mem_of_find?_eq_some hf)).2

theorem storeWf_erase {st : Tab (Tab Nat)} (h : storeWf st) (k : Nat) : storeWf (tabErase st k) :=
  ⟨tabSorted_erase k h.1, fun e he => h.2 e (mem_tabErase he)⟩

/-- A row that is canonical itself may be put into a canonical store. -/
theorem storeWf_set {st : Tab (Tab Nat)} (h : storeWf st) (k : Nat) {t : Tab Nat}
    (ht : tabSorted t ∧ ∀ f ∈ t, f.2 ≠ 0) : storeWf (tabSet [] st k t) := by
  refine ⟨tabSorted_set [] k t h.1, fun e he => ?_⟩
  rcases mem_tabSet he with he | ⟨rfl, hv⟩
  · exact h.2 e he
  · exact ⟨hv, ht.1, ht.2⟩

/-- R10: a write of a field keeps the canonical form of the store. -/
theorem storeWf_storeSet {st : Tab (Tab Nat)} (h : storeWf st) (r : Row) (n v : Nat) : storeWf (storeSet st r n v) := by
  have hr := row_wf h r.id
  refine storeWf_set h _ ⟨tabSorted_set 0 n _ hr.1, fun f hf => ?_⟩
  rcases mem_tabSet hf with hf | ⟨rfl, hv⟩
  · exact hr.2 f hf
  · exact hv

end Sys2Proof.Machine
end

