-- ==== Sys2Proof/Laws/Within.lean ====
section
/-!
SUPPORT. What the named operations may write (`Within`): a set of rows and of parts, kept as the bits of a number, so that
unions and inclusions are cheap. Each lemma carries the set over one operation.
-/

namespace Sys2Proof.Machine

/-- The part's number. -/
def Part.n : Part → Nat
  | .staged => 0
  | .pend => 1
  | .inuse => 2
  | .out => 3
  | .free => 4
  | .uptime => 5
  | .pins => 6
  | .host => 7
  | .attic => 8
  | .pmu => 9
  | .image => 10
  | .fuses => 11
  | .boot => 12
  | .power => 13
  | .ras => 14
  | .cor => 15
  | .rx => 16
  | .tx => 17
  | .opt => 18
  | .icm => 19
  | .pan => 20
  | .sched => 21
  | .conv => 22
  | .sup => 23
  | .dec => 24
  | .otn => 25
  | .groups => 26
  | .cip => 27
  | .sds => 28
  | .corLanes => 29
  | .dpll => 30

/-- The bit of a row. -/
def Row.bit (r : Row) : Nat := 2 ^ (32 + r.id)

/-- The bit of a part. -/
def Part.bit (p : Part) : Nat := 2 ^ p.n

/-- The bit that stands for every row. -/
def anyBit : Nat := 2 ^ 31

/-- The union of sets. -/
def union (l : List Nat) : Nat := l.foldr (fun a b => a ||| b) 0

/-- The set `a` lies in the set `M`. -/
def Covers (M a : Nat) : Prop := a ||| M = M

theorem covers_or {M a b : Nat} : Covers M (a ||| b) ↔ Covers M a ∧ Covers M b := by
  unfold Covers
  constructor
  · intro h
    constructor
    · apply Nat.eq_of_testBit_eq; intro i
      have := congrArg (·.testBit i) h
      simp only [Nat.testBit_or] at this ⊢
      revert this; cases a.testBit i <;> cases b.testBit i <;> cases M.testBit i <;> simp
    · apply Nat.eq_of_testBit_eq; intro i
      have := congrArg (·.testBit i) h
      simp only [Nat.testBit_or] at this ⊢
      revert this; cases a.testBit i <;> cases b.testBit i <;> cases M.testBit i <;> simp
  · rintro ⟨ha, hb⟩
    rw [Nat.or_assoc, hb, ha]

theorem covers_union {M a : Nat} {l : List Nat} : Covers M (union (a :: l)) ↔ Covers M a ∧ Covers M (union l) := covers_or

theorem covers_nil {M : Nat} : Covers M (union []) := by simp [Covers, union]

theorem covers_trans {M N a : Nat} (h : Covers M N) (k : Covers N a) : Covers M a := by
  unfold Covers at *; rw [← h, ← Nat.or_assoc, k]

theorem covers_bit {M n : Nat} (h : Covers M (2 ^ n)) : M.testBit n = true := by
  have := congrArg (·.testBit n) h
  simpa [Nat.testBit_or, Nat.testBit_two_pow_self] using this.symm

/-- The row, or every row, lies in the set. -/
def May (M : Nat) (r : Row) : Prop := Covers M r.bit ∨ Covers M anyBit

/-- Between `s` and `t`, no register field outside the rows of `M` and no part outside its parts has changed. -/
def Within (M : Nat) (s t : State) : Prop :=
  (M.testBit 31 = false → ∀ (r : Row) (ix : List Nat), M.testBit (32 + r.id) = false → t.rd r ix = s.rd r ix) ∧
    ∀ p : Part, M.testBit p.n = false → p.same s t

theorem Part.same_refl (s : State) (p : Part) : p.same s s := by cases p <;> rfl

theorem Part.same_trans {s t u : State} {p : Part} (h : p.same s t) (k : p.same t u) : p.same s u := by
  cases p <;> exact Eq.trans k h

theorem Within.refl (M : Nat) (s : State) : Within M s s := ⟨fun _ _ _ _ => rfl, fun p _ => p.same_refl s⟩

theorem Within.trans {M : Nat} {s t u : State} (h : Within M s t) (k : Within M t u) : Within M s u :=
  ⟨fun hm r ix hr => (k.1 hm r ix hr).trans (h.1 hm r ix hr), fun p hp => Part.same_trans (h.2 p hp) (k.2 p hp)⟩

theorem Within.mono {M N : Nat} {s t : State} (h : Within N s t) (k : Covers M N) : Within M s t := by
  have sub : ∀ i, M.testBit i = false → N.testBit i = false := by
    intro i hi
    have := congrArg (·.testBit i) k
    simp only [Nat.testBit_or, hi, Bool.or_false] at this
    exact this
  exact ⟨fun hm r ix hr => h.1 (sub _ hm) r ix (sub _ hr), fun p hp => h.2 p (sub _ hp)⟩

/-- A state that differs from `s` in one part at most. -/
theorem within_part {M : Nat} {s₀ s t : State} (h : Within M s₀ s) (p : Part) (k : Covers M p.bit)
    (hr : t.store = s.store) (hq : ∀ q, q ≠ p → q.same s t) : Within M s₀ t := by
  refine h.trans ⟨fun _ r ix _ => by unfold State.rd; rw [hr], fun q hqM => hq q ?_⟩
  rintro rfl
  rw [covers_bit k] at hqM
  cases hqM

/-- A state that differs from `s` in the store. -/
theorem within_rows {M : Nat} {s₀ s t : State} (h : Within M s₀ s)
    (hr : M.testBit 31 = false → ∀ (r : Row) (ix : List Nat), M.testBit (32 + r.id) = false → t.rd r ix = s.rd r ix) (hq : ∀ q : Part, q.same s t) :
    Within M s₀ t := h.trans ⟨hr, fun q _ => hq q⟩

theorem within_staged {M : Nat} {s₀ s : State} (h : Within M s₀ s) (k : Covers M Part.staged.bit) (x : Tab Nat) :
    Within M s₀ { s with staged := x } :=
  within_part h .staged k rfl (fun q hq => by cases q <;> first | rfl | exact absurd rfl hq)

theorem within_pend {M : Nat} {s₀ s : State} (h : Within M s₀ s) (k : Covers M Part.pend.bit) (x : Tab Nat) :
    Within M s₀ { s with pend := x } :=
  within_part h .pend k rfl (fun q hq => by cases q <;> first | rfl | exact absurd rfl hq)

theorem within_inuse {M : Nat} {s₀ s : State} (h : Within M s₀ s) (k : Covers M Part.inuse.bit) (x : Tab Nat) :
    Within M s₀ { s with inuse := x } :=
  within_part h .inuse k rfl (fun q hq => by cases q <;> first | rfl | exact absurd rfl hq)

theorem within_out {M : Nat} {s₀ s : State} (h : Within M s₀ s) (k : Covers M Part.out.bit) (x : List Out) :
    Within M s₀ { s with out := x } :=
  within_part h .out k rfl (fun q hq => by cases q <;> first | rfl | exact absurd rfl hq)

theorem within_free {M : Nat} {s₀ s : State} (h : Within M s₀ s) (k : Covers M Part.free.bit) (x : Nat) :
    Within M s₀ { s with free := x } :=
  within_part h .free k rfl (fun q hq => by cases q <;> first | rfl | exact absurd rfl hq)

theorem within_uptime {M : Nat} {s₀ s : State} (h : Within M s₀ s) (k : Covers M Part.uptime.bit) (x : Nat) :
    Within M s₀ { s with uptime := x } :=
  within_part h .uptime k rfl (fun q hq => by cases q <;> first | rfl | exact absurd rfl hq)

theorem within_pins {M : Nat} {s₀ s : State} (h : Within M s₀ s) (k : Covers M Part.pins.bit) (x : Pins) :
    Within M s₀ { s with pins := x } :=
  within_part h .pins k rfl (fun q hq => by cases q <;> first | rfl | exact absurd rfl hq)

theorem within_host {M : Nat} {s₀ s : State} (h : Within M s₀ s) (k : Covers M Part.host.bit) (x : HostIf) :
    Within M s₀ { s with host := x } :=
  within_part h .host k rfl (fun q hq => by cases q <;> first | rfl | exact absurd rfl hq)

theorem within_attic {M : Nat} {s₀ s : State} (h : Within M s₀ s) (k : Covers M Part.attic.bit) (x : Attic) :
    Within M s₀ { s with attic := x } :=
  within_part h .attic k rfl (fun q hq => by cases q <;> first | rfl | exact absurd rfl hq)

theorem within_pmu {M : Nat} {s₀ s : State} (h : Within M s₀ s) (k : Covers M Part.pmu.bit) (x : Pmu) :
    Within M s₀ { s with pmu := x } :=
  within_part h .pmu k rfl (fun q hq => by cases q <;> first | rfl | exact absurd rfl hq)

theorem within_image {M : Nat} {s₀ s : State} (h : Within M s₀ s) (k : Covers M Part.image.bit) (x : ImageState) :
    Within M s₀ { s with image := x } :=
  within_part h .image k rfl (fun q hq => by cases q <;> first | rfl | exact absurd rfl hq)

theorem within_fuses {M : Nat} {s₀ s : State} (h : Within M s₀ s) (k : Covers M Part.fuses.bit) (x : Fuses) :
    Within M s₀ { s with fuses := x } :=
  within_part h .fuses k rfl (fun q hq => by cases q <;> first | rfl | exact absurd rfl hq)

theorem within_boot {M : Nat} {s₀ s : State} (h : Within M s₀ s) (k : Covers M Part.boot.bit) (x : Boot) :
    Within M s₀ { s with boot := x } :=
  within_part h .boot k rfl (fun q hq => by cases q <;> first | rfl | exact absurd rfl hq)

theorem within_power {M : Nat} {s₀ s : State} (h : Within M s₀ s) (k : Covers M Part.power.bit) (x : Power) :
    Within M s₀ { s with power := x } :=
  within_part h .power k rfl (fun q hq => by cases q <;> first | rfl | exact absurd rfl hq)

theorem within_ras {M : Nat} {s₀ s : State} (h : Within M s₀ s) (k : Covers M Part.ras.bit) (x : Reliability) :
    Within M s₀ { s with ras := x } :=
  within_part h .ras k rfl (fun q hq => by cases q <;> first | rfl | exact absurd rfl hq)

theorem within_cor {M : Nat} {s₀ s : State} (h : Within M s₀ s) (k : Covers M Part.cor.bit) (x : Corridor) :
    Within M s₀ { s with cor := x } :=
  within_part h .cor k rfl (fun q hq => by cases q <;> first | rfl | exact absurd rfl hq)

theorem within_rx {M : Nat} {s₀ s : State} (h : Within M s₀ s) (k : Covers M Part.rx.bit) (x : PerWing RxLine) :
    Within M s₀ { s with rx := x } :=
  within_part h .rx k rfl (fun q hq => by cases q <;> first | rfl | exact absurd rfl hq)

theorem within_tx {M : Nat} {s₀ s : State} (h : Within M s₀ s) (k : Covers M Part.tx.bit) (x : PerWing TxRate) :
    Within M s₀ { s with tx := x } :=
  within_part h .tx k rfl (fun q hq => by cases q <;> first | rfl | exact absurd rfl hq)

theorem within_opt {M : Nat} {s₀ s : State} (h : Within M s₀ s) (k : Covers M Part.opt.bit) (x : PerWing Optics) :
    Within M s₀ { s with opt := x } :=
  within_part h .opt k rfl (fun q hq => by cases q <;> first | rfl | exact absurd rfl hq)

theorem within_icm {M : Nat} {s₀ s : State} (h : Within M s₀ s) (k : Covers M Part.icm.bit) (x : PerWing IcmSide) :
    Within M s₀ { s with icm := x } :=
  within_part h .icm k rfl (fun q hq => by cases q <;> first | rfl | exact absurd rfl hq)

theorem within_pan {M : Nat} {s₀ s : State} (h : Within M s₀ s) (k : Covers M Part.pan.bit) (x : Pantry) :
    Within M s₀ { s with pan := x } :=
  within_part h .pan k rfl (fun q hq => by cases q <;> first | rfl | exact absurd rfl hq)

theorem within_sched {M : Nat} {s₀ s : State} (h : Within M s₀ s) (k : Covers M Part.sched.bit) (x : Sched) :
    Within M s₀ { s with sched := x } :=
  within_part h .sched k rfl (fun q hq => by cases q <;> first | rfl | exact absurd rfl hq)

theorem within_conv {M : Nat} {s₀ s : State} (h : Within M s₀ s) (k : Covers M Part.conv.bit) (x : PerWing Conv) :
    Within M s₀ { s with conv := x } :=
  within_part h .conv k rfl (fun q hq => by cases q <;> first | rfl | exact absurd rfl hq)

theorem within_sup {M : Nat} {s₀ s : State} (h : Within M s₀ s) (k : Covers M Part.sup.bit) (x : Sup) :
    Within M s₀ { s with sup := x } :=
  within_part h .sup k rfl (fun q hq => by cases q <;> first | rfl | exact absurd rfl hq)

theorem within_dec {M : Nat} {s₀ s : State} (h : Within M s₀ s) (k : Covers M Part.dec.bit) (x : PerWing Decoder) :
    Within M s₀ { s with dec := x } :=
  within_part h .dec k rfl (fun q hq => by cases q <;> first | rfl | exact absurd rfl hq)

theorem within_otn {M : Nat} {s₀ s : State} (h : Within M s₀ s) (k : Covers M Part.otn.bit) (x : PerWing Otn) :
    Within M s₀ { s with otn := x } :=
  within_part h .otn k rfl (fun q hq => by cases q <;> first | rfl | exact absurd rfl hq)

theorem within_groups {M : Nat} {s₀ s : State} (h : Within M s₀ s) (k : Covers M Part.groups.bit) (x : Tab Group) :
    Within M s₀ { s with groups := x } :=
  within_part h .groups k rfl (fun q hq => by cases q <;> first | rfl | exact absurd rfl hq)

theorem within_cip {M : Nat} {s₀ s : State} (h : Within M s₀ s) (k : Covers M Part.cip.bit) (x : Cipher) :
    Within M s₀ { s with cip := x } :=
  within_part h .cip k rfl (fun q hq => by cases q <;> first | rfl | exact absurd rfl hq)

theorem within_sds {M : Nat} {s₀ s : State} (h : Within M s₀ s) (k : Covers M Part.sds.bit) (x : LaneSet) :
    Within M s₀ { s with sds := x } :=
  within_part h .sds k rfl (fun q hq => by cases q <;> first | rfl | exact absurd rfl hq)

theorem within_corLanes {M : Nat} {s₀ s : State} (h : Within M s₀ s) (k : Covers M Part.corLanes.bit) (x : LaneSet) :
    Within M s₀ { s with corLanes := x } :=
  within_part h .corLanes k rfl (fun q hq => by cases q <;> first | rfl | exact absurd rfl hq)

theorem within_dpll {M : Nat} {s₀ s : State} (h : Within M s₀ s) (k : Covers M Part.dpll.bit) (x : Dpll) :
    Within M s₀ { s with dpll := x } :=
  within_part h .dpll k rfl (fun q hq => by cases q <;> first | rfl | exact absurd rfl hq)

/-- A state that differs in several parts. -/
theorem within_mk {M : Nat} {s₀ s : State} (h : Within M s₀ s)
    (staged : Tab Nat) (pend : Tab Nat) (inuse : Tab Nat) (out : List Out) (free : Nat) (uptime : Nat)
    (pins : Pins) (host : HostIf) (attic : Attic) (pmu : Pmu) (image : ImageState) (fuses : Fuses) (boot : Boot)
    (power : Power) (ras : Reliability) (cor : Corridor) (rx : PerWing RxLine) (tx : PerWing TxRate)
    (opt : PerWing Optics) (icm : PerWing IcmSide) (pan : Pantry) (sched : Sched) (conv : PerWing Conv) (sup : Sup)
    (dec : PerWing Decoder) (otn : PerWing Otn) (groups : Tab Group) (cip : Cipher) (sds : LaneSet)
    (corLanes : LaneSet) (dpll : Dpll)
    (h_staged : staged = s.staged ∨ Covers M Part.staged.bit)
    (h_pend : pend = s.pend ∨ Covers M Part.pend.bit)
    (h_inuse : inuse = s.inuse ∨ Covers M Part.inuse.bit)
    (h_out : out = s.out ∨ Covers M Part.out.bit)
    (h_free : free = s.free ∨ Covers M Part.free.bit)
    (h_uptime : uptime = s.uptime ∨ Covers M Part.uptime.bit)
    (h_pins : pins = s.pins ∨ Covers M Part.pins.bit)
    (h_host : host = s.host ∨ Covers M Part.host.bit)
    (h_attic : attic = s.attic ∨ Covers M Part.attic.bit)
    (h_pmu : pmu = s.pmu ∨ Covers M Part.pmu.bit)
    (h_image : image = s.image ∨ Covers M Part.image.bit)
    (h_fuses : fuses = s.fuses ∨ Covers M Part.fuses.bit)
    (h_boot : boot = s.boot ∨ Covers M Part.boot.bit)
    (h_power : power = s.power ∨ Covers M Part.power.bit)
    (h_ras : ras = s.ras ∨ Covers M Part.ras.bit)
    (h_cor : cor = s.cor ∨ Covers M Part.cor.bit)
    (h_rx : rx = s.rx ∨ Covers M Part.rx.bit)
    (h_tx : tx = s.tx ∨ Covers M Part.tx.bit)
    (h_opt : opt = s.opt ∨ Covers M Part.opt.bit)
    (h_icm : icm = s.icm ∨ Covers M Part.icm.bit)
    (h_pan : pan = s.pan ∨ Covers M Part.pan.bit)
    (h_sched : sched = s.sched ∨ Covers M Part.sched.bit)
    (h_conv : conv = s.conv ∨ Covers M Part.conv.bit)
    (h_sup : sup = s.sup ∨ Covers M Part.sup.bit)
    (h_dec : dec = s.dec ∨ Covers M Part.dec.bit)
    (h_otn : otn = s.otn ∨ Covers M Part.otn.bit)
    (h_groups : groups = s.groups ∨ Covers M Part.groups.bit)
    (h_cip : cip = s.cip ∨ Covers M Part.cip.bit)
    (h_sds : sds = s.sds ∨ Covers M Part.sds.bit)
    (h_corLanes : corLanes = s.corLanes ∨ Covers M Part.corLanes.bit)
    (h_dpll : dpll = s.dpll ∨ Covers M Part.dpll.bit) :
    Within M s₀
      ⟨s.pending, s.store, staged, pend, inuse, out, free, uptime, pins, host, attic, pmu, image, fuses, boot,
        power, ras, cor, rx, tx, opt, icm, pan, sched, conv, sup, dec, otn, groups, cip, sds, corLanes, dpll⟩ := by
  refine h.trans ⟨fun _ _ _ _ => rfl, fun q hq => ?_⟩
  cases q
  · exact h_staged.resolve_right (fun k => by rw [Part.bit] at k; rw [covers_bit k] at hq; cases hq)
  · exact h_pend.resolve_right (fun k => by rw [Part.bit] at k; rw [covers_bit k] at hq; cases hq)
  · exact h_inuse.resolve_right (fun k => by rw [Part.bit] at k; rw [covers_bit k] at hq; cases hq)
  · exact h_out.resolve_right (fun k => by rw [Part.bit] at k; rw [covers_bit k] at hq; cases hq)
  · exact h_free.resolve_right (fun k => by rw [Part.bit] at k; rw [covers_bit k] at hq; cases hq)
  · exact h_uptime.resolve_right (fun k => by rw [Part.bit] at k; rw [covers_bit k] at hq; cases hq)
  · exact h_pins.resolve_right (fun k => by rw [Part.bit] at k; rw [covers_bit k] at hq; cases hq)
  · exact h_host.resolve_right (fun k => by rw [Part.bit] at k; rw [covers_bit k] at hq; cases hq)
  · exact h_attic.resolve_right (fun k => by rw [Part.bit] at k; rw [covers_bit k] at hq; cases hq)
  · exact h_pmu.resolve_right (fun k => by rw [Part.bit] at k; rw [covers_bit k] at hq; cases hq)
  · exact h_image.resolve_right (fun k => by rw [Part.bit] at k; rw [covers_bit k] at hq; cases hq)
  · exact h_fuses.resolve_right (fun k => by rw [Part.bit] at k; rw [covers_bit k] at hq; cases hq)
  · exact h_boot.resolve_right (fun k => by rw [Part.bit] at k; rw [covers_bit k] at hq; cases hq)
  · exact h_power.resolve_right (fun k => by rw [Part.bit] at k; rw [covers_bit k] at hq; cases hq)
  · exact h_ras.resolve_right (fun k => by rw [Part.bit] at k; rw [covers_bit k] at hq; cases hq)
  · exact h_cor.resolve_right (fun k => by rw [Part.bit] at k; rw [covers_bit k] at hq; cases hq)
  · exact h_rx.resolve_right (fun k => by rw [Part.bit] at k; rw [covers_bit k] at hq; cases hq)
  · exact h_tx.resolve_right (fun k => by rw [Part.bit] at k; rw [covers_bit k] at hq; cases hq)
  · exact h_opt.resolve_right (fun k => by rw [Part.bit] at k; rw [covers_bit k] at hq; cases hq)
  · exact h_icm.resolve_right (fun k => by rw [Part.bit] at k; rw [covers_bit k] at hq; cases hq)
  · exact h_pan.resolve_right (fun k => by rw [Part.bit] at k; rw [covers_bit k] at hq; cases hq)
  · exact h_sched.resolve_right (fun k => by rw [Part.bit] at k; rw [covers_bit k] at hq; cases hq)
  · exact h_conv.resolve_right (fun k => by rw [Part.bit] at k; rw [covers_bit k] at hq; cases hq)
  · exact h_sup.resolve_right (fun k => by rw [Part.bit] at k; rw [covers_bit k] at hq; cases hq)
  · exact h_dec.resolve_right (fun k => by rw [Part.bit] at k; rw [covers_bit k] at hq; cases hq)
  · exact h_otn.resolve_right (fun k => by rw [Part.bit] at k; rw [covers_bit k] at hq; cases hq)
  · exact h_groups.resolve_right (fun k => by rw [Part.bit] at k; rw [covers_bit k] at hq; cases hq)
  · exact h_cip.resolve_right (fun k => by rw [Part.bit] at k; rw [covers_bit k] at hq; cases hq)
  · exact h_sds.resolve_right (fun k => by rw [Part.bit] at k; rw [covers_bit k] at hq; cases hq)
  · exact h_corLanes.resolve_right (fun k => by rw [Part.bit] at k; rw [covers_bit k] at hq; cases hq)
  · exact h_dpll.resolve_right (fun k => by rw [Part.bit] at k; rw [covers_bit k] at hq; cases hq)

/-- A loop over a list. -/
theorem within_foldl {α : Type} {M : Nat} {s₀ s : State} {f : State → α → State} (h : Within M s₀ s)
    (hf : ∀ (t : State) (x : α), Within M t (f t x)) (l : List α) : Within M s₀ (l.foldl f s) := by
  induction l generalizing s with
  | nil => exact h
  | cons x l ih => exact ih (h.trans (hf s x))

/-- A loop over a list, of whose elements something is known. -/
theorem within_foldl_mem {α : Type} {M : Nat} {s₀ s : State} {f : State → α → State} (h : Within M s₀ s) (l : List α)
    (hf : ∀ (t : State) (x : α), x ∈ l → Within M t (f t x)) : Within M s₀ (l.foldl f s) := by
  induction l generalizing s with
  | nil => exact h
  | cons x l ih =>
    exact ih (h.trans (hf s x (List.mem_cons_self ..))) (fun t y hy => hf t y (List.mem_cons_of_mem _ hy))

theorem State.when_within {M : Nat} {s₀ s : State} {f : State → State} (h : Within M s₀ s)
    (hf : ∀ t : State, Within M t (f t)) (c : Bool) : Within M s₀ (s.when c f) := by
  unfold State.when
  split
  · exact h.trans (hf s)
  · exact h

theorem State.upTo_within {M : Nat} {s₀ s : State} {f : State → Nat → State} (h : Within M s₀ s)
    (hf : ∀ (t : State) (n : Nat), Within M t (f t n)) (n : Nat) : Within M s₀ (s.upTo n f) := within_foldl h hf _

theorem rd_of_row {s t : State} {r : Row} {ix : List Nat} (h : tabGet [] t.store r.id = tabGet [] s.store r.id) :
    t.rd r ix = s.rd r ix := by unfold State.rd; rw [h]

/-- A change of one row of the store. -/
theorem within_row {M : Nat} {s₀ s : State} (h : Within M s₀ s) {r : Row} (k : May M r) {st : Tab (Tab Nat)}
    (hs : ∀ m, m ≠ r.id → tabGet [] st m = tabGet [] s.store m) : Within M s₀ { s with store := st } := by
  refine within_rows h (fun hm x ix hx => rd_of_row (hs x.id ?_)) (fun q => by cases q <;> rfl)
  intro hid
  rcases k with k | k
  · rw [hid, covers_bit k] at hx; cases hx
  · rw [covers_bit k] at hm; cases hm

/-- Any change of the store. -/
theorem within_any {M : Nat} {s₀ s : State} (h : Within M s₀ s) (k : Covers M anyBit) (st : Tab (Tab Nat)) :
    Within M s₀ { s with store := st } :=
  within_rows h (fun hm => by rw [covers_bit k] at hm; cases hm) (fun q => by cases q <;> rfl)

theorem State.wr_within {M : Nat} {s₀ s : State} (h : Within M s₀ s) (r : Row) (kr : May M r) (ix : List Nat)
    (v : Nat) : Within M s₀ (s.wr r ix v) :=
  within_row h kr (fun _ hm => tabGet_set_ne [] _ _ hm)

theorem State.clearRow_within {M : Nat} {s₀ s : State} (h : Within M s₀ s) (r : Row) (kr : May M r) :
    Within M s₀ (s.clearRow r) :=
  within_row h kr (fun _ hm => tabGet_erase_ne [] _ hm)

theorem State.keepUse_within {M : Nat} {s₀ s : State} (h : Within M s₀ s) (k : Covers M Part.inuse.bit) (r : Row)
    (ix : List Nat) : Within M s₀ (s.keepUse r ix) := by
  unfold State.keepUse
  split
  · exact h
  · exact within_inuse h k _

theorem State.releaseUse_within {M : Nat} {s₀ s : State} (h : Within M s₀ s) (k : Covers M Part.inuse.bit) (n : Nat) :
    Within M s₀ (s.releaseUse n) := within_inuse h k _

theorem State.releaseOne_within {M : Nat} {s₀ s : State} (h : Within M s₀ s) (k : Covers M Part.inuse.bit) (r : Row)
    (ix : List Nat) : Within M s₀ (s.releaseOne r ix) := within_inuse h k _

theorem State.fresh_within {M : Nat} {s₀ s : State} (h : Within M s₀ s) (k : Covers M Part.free.bit) (n : Nat) :
    Within M s₀ (s.fresh n).2 := within_free h k _

/-- Rows of a list that all lie in the set. -/
def MayAll (M : Nat) (rs : List Row) : Prop := ∀ r ∈ rs, May M r

theorem mayAll_nil (M : Nat) : MayAll M [] := by intro r h; cases h

theorem mayAll_cons {M : Nat} {r : Row} {rs : List Row} (h : May M r) (hs : MayAll M rs) : MayAll M (r :: rs) := by
  intro x hx
  rcases List.mem_cons.mp hx with rfl | hx
  · exact h
  · exact hs x hx

theorem mayAll_any {M : Nat} (k : Covers M anyBit) (rs : List Row) : MayAll M rs := fun _ _ => .inr k

/-- What a command answers: a next state, with no change outside `M`. -/
def Answered (M : Nat) (s : State) (r : Result) : Prop := ∃ t, r = .next t ∧ Within M s t

theorem answered_next {M : Nat} {s t : State} (h : Within M s t) : Answered M s (.next t) := ⟨t, rfl, h⟩

theorem may_row {M : Nat} {r : Row} (k : Covers M r.bit) : May M r := .inl k

theorem may_any {M : Nat} (k : Covers M anyBit) (r : Row) : May M r := .inr k

/-- What a module reset may write: every row, and every part but four. -/
def resetBits : Nat :=
  union [anyBit, Part.staged.bit, Part.pend.bit, Part.inuse.bit, Part.pins.bit, Part.host.bit, Part.attic.bit,
    Part.pmu.bit, Part.image.bit, Part.boot.bit, Part.power.bit, Part.ras.bit, Part.cor.bit, Part.rx.bit,
    Part.tx.bit, Part.opt.bit, Part.icm.bit, Part.pan.bit, Part.sched.bit, Part.conv.bit, Part.sup.bit,
    Part.dec.bit, Part.otn.bit, Part.groups.bit, Part.cip.bit, Part.sds.bit, Part.corLanes.bit, Part.dpll.bit]

theorem within_reset {M : Nat} {s₀ s t : State} (h : Within M s₀ s) (k : Covers M resetBits) (ho : t.out = s.out)
    (hf : t.free = s.free) (hu : t.uptime = s.uptime) (hs : t.fuses = s.fuses) : Within M s₀ t := by
  simp only [resetBits, covers_union] at k
  obtain ⟨k0, k_staged, k_pend, k_inuse, k_pins, k_host, k_attic, k_pmu, k_image, k_boot, k_power, k_ras, k_cor,
    k_rx, k_tx, k_opt, k_icm, k_pan, k_sched, k_conv, k_sup, k_dec, k_otn, k_groups, k_cip, k_sds, k_corLanes,
    k_dpll, _⟩ := k
  refine h.trans ⟨fun hm => (by rw [covers_bit k0] at hm; cases hm), fun q hq => ?_⟩
  cases q
  · rw [Part.bit] at k_staged; rw [covers_bit k_staged] at hq; cases hq
  · rw [Part.bit] at k_pend; rw [covers_bit k_pend] at hq; cases hq
  · rw [Part.bit] at k_inuse; rw [covers_bit k_inuse] at hq; cases hq
  · exact ho
  · exact hf
  · exact hu
  · rw [Part.bit] at k_pins; rw [covers_bit k_pins] at hq; cases hq
  · rw [Part.bit] at k_host; rw [covers_bit k_host] at hq; cases hq
  · rw [Part.bit] at k_attic; rw [covers_bit k_attic] at hq; cases hq
  · rw [Part.bit] at k_pmu; rw [covers_bit k_pmu] at hq; cases hq
  · rw [Part.bit] at k_image; rw [covers_bit k_image] at hq; cases hq
  · exact hs
  · rw [Part.bit] at k_boot; rw [covers_bit k_boot] at hq; cases hq
  · rw [Part.bit] at k_power; rw [covers_bit k_power] at hq; cases hq
  · rw [Part.bit] at k_ras; rw [covers_bit k_ras] at hq; cases hq
  · rw [Part.bit] at k_cor; rw [covers_bit k_cor] at hq; cases hq
  · rw [Part.bit] at k_rx; rw [covers_bit k_rx] at hq; cases hq
  · rw [Part.bit] at k_tx; rw [covers_bit k_tx] at hq; cases hq
  · rw [Part.bit] at k_opt; rw [covers_bit k_opt] at hq; cases hq
  · rw [Part.bit] at k_icm; rw [covers_bit k_icm] at hq; cases hq
  · rw [Part.bit] at k_pan; rw [covers_bit k_pan] at hq; cases hq
  · rw [Part.bit] at k_sched; rw [covers_bit k_sched] at hq; cases hq
  · rw [Part.bit] at k_conv; rw [covers_bit k_conv] at hq; cases hq
  · rw [Part.bit] at k_sup; rw [covers_bit k_sup] at hq; cases hq
  · rw [Part.bit] at k_dec; rw [covers_bit k_dec] at hq; cases hq
  · rw [Part.bit] at k_otn; rw [covers_bit k_otn] at hq; cases hq
  · rw [Part.bit] at k_groups; rw [covers_bit k_groups] at hq; cases hq
  · rw [Part.bit] at k_cip; rw [covers_bit k_cip] at hq; cases hq
  · rw [Part.bit] at k_sds; rw [covers_bit k_sds] at hq; cases hq
  · rw [Part.bit] at k_corLanes; rw [covers_bit k_corLanes] at hq; cases hq
  · rw [Part.bit] at k_dpll; rw [covers_bit k_dpll] at hq; cases hq

theorem covers_self (M : Nat) : Covers M M := Nat.or_self M

/-- Reading a row outside the set. -/
theorem Within.rd {M : Nat} {s t : State} (h : Within M s t) {r : Row} (ix : List Nat) (ha : M.testBit 31 = false)
    (hr : M.testBit (32 + r.id) = false) : t.rd r ix = s.rd r ix := h.1 ha r ix hr

/-- A part outside the set. -/
theorem Within.part {M : Nat} {s t : State} (h : Within M s t) (p : Part) (hp : M.testBit p.n = false) :
    p.same s t := h.2 p hp

/-- The set that lists of rows and parts spell. -/
def bitsOf (rs : List Row) (ps : List Part) : Nat :=
  rs.foldr (fun r m => r.bit ||| m) (ps.foldr (fun p m => p.bit ||| m) 0)

theorem testBit_bitsOf {rs : List Row} {ps : List Part} {n : Nat} (hr : ∀ r ∈ rs, 32 + r.id ≠ n)
    (hp : ∀ p ∈ ps, p.n ≠ n) : (bitsOf rs ps).testBit n = false := by
  unfold bitsOf
  induction rs with
  | nil =>
    induction ps with
    | nil => simp
    | cons p ps ih =>
      simp only [List.foldr_cons, List.foldr_nil, Nat.testBit_or, Bool.or_eq_false_iff] at ih ⊢
      refine ⟨?_, ih (fun q hq => hp q (List.mem_cons_of_mem _ hq))⟩
      rw [Part.bit, Nat.testBit_two_pow]
      simpa using hp p (List.mem_cons_self ..)
  | cons r rs ih =>
    simp only [List.foldr_cons, Nat.testBit_or, Bool.or_eq_false_iff]
    refine ⟨?_, ih (fun q hq => hr q (List.mem_cons_of_mem _ hq))⟩
    rw [Row.bit, Nat.testBit_two_pow]
    simpa using hr r (List.mem_cons_self ..)

theorem Part.n_lt (p : Part) : p.n < 31 := by cases p <;> decide

theorem Part.n_inj {p q : Part} (h : p.n = q.n) : p = q := by cases p <;> cases q <;> first | rfl | cases h

/-- A command's frame from what it may write. -/
theorem Within.framed {rs : List Row} {ps : List Part} {s t : State} (h : Within (bitsOf rs ps) s t) :
    s.Framed t rs ps := by
  refine ⟨fun r ix hx => h.rd ix ?_ ?_, fun p hp => h.part p ?_⟩
  · exact testBit_bitsOf (fun x _ => by omega) (fun p _ => by have := p.n_lt; omega)
  · exact testBit_bitsOf (fun x hxm => by have := hx x hxm; omega) (fun p _ => by have := p.n_lt; omega)
  · exact testBit_bitsOf (fun x _ => by have := p.n_lt; omega) (fun q hq hn => hp (Part.n_inj hn ▸ hq))

theorem State.wrb_within {M : Nat} {s₀ s : State} (h : Within M s₀ s) (r : Row) (kr : May M r) (ix : List Nat)
    (b : Bool) :
    Within M s₀ (State.wrb s r ix b) := by
  unfold State.wrb
  repeat' first | with_reducible assumption | with_reducible exact .refl _ _ | with_reducible apply State.wr_within

theorem State.wrS_within {M : Nat} {s₀ s : State} (h : Within M s₀ s) (r : Row) (kr : May M r) (ix : List Nat)
    (i : Int) :
    Within M s₀ (State.wrS s r ix i) := by
  unfold State.wrS
  repeat' first | with_reducible assumption | with_reducible exact .refl _ _ | with_reducible apply State.wr_within

theorem State.bit_within {M : Nat} {s₀ s : State} (h : Within M s₀ s) (r : Row) (kr : May M r) (ix : List Nat)
    (b : Nat) :
    Within M s₀ (State.bit s r ix b) := by
  unfold State.bit
  repeat' first | with_reducible assumption | with_reducible exact .refl _ _ | with_reducible apply State.wr_within

theorem State.unbit_within {M : Nat} {s₀ s : State} (h : Within M s₀ s) (r : Row) (kr : May M r) (ix : List Nat)
    (b : Nat) :
    Within M s₀ (State.unbit s r ix b) := by
  unfold State.unbit
  repeat' first | with_reducible assumption | with_reducible exact .refl _ _ | with_reducible apply State.wr_within

theorem State.clearRows_within {M : Nat} {s₀ s : State} (h : Within M s₀ s) (rs : List Row) (krs : MayAll M rs) :
    Within M s₀ (State.clearRows s rs) := by
  unfold State.clearRows
  repeat' first
    | with_reducible assumption | with_reducible exact .refl _ _ | with_reducible apply State.clearRow_within
    | with_reducible apply within_foldl_mem | exact krs _ (by with_reducible assumption)
    | with_reducible exact may_row (by with_reducible assumption) | intro _

theorem State.clear_within {M : Nat} {s₀ s : State} (h : Within M s₀ s) (r : Row) (kr : May M r) (ix : List Nat) :
    Within M s₀ (State.clear s r ix) := by
  unfold State.clear
  repeat' first | with_reducible assumption | with_reducible exact .refl _ _ | with_reducible apply State.wr_within

/-- What `State.native` may write. -/
def State.native_touch : Nat :=
  union [Part.pmu.bit]

theorem State.native_within {M : Nat} {s₀ s : State} (h : Within M s₀ s) (k : Covers M State.native_touch)
    (code : Nat) (inst : Nat) (n : Nat) :
    Within M s₀ (State.native s code inst n) := by
  simp only [State.native_touch, covers_union] at k
  obtain ⟨k0, _⟩ := k
  unfold State.native
  repeat' first | with_reducible assumption | with_reducible exact .refl _ _ | split | with_reducible apply within_pmu

/-- What `State.mirrored` may write. -/
def State.mirrored_touch : Nat :=
  union [Part.pmu.bit]

theorem State.mirrored_within {M : Nat} {s₀ s : State} (h : Within M s₀ s) (k : Covers M State.mirrored_touch)
    (r : Row) (kr : May M r) (ix : List Nat) (n : Nat) :
    Within M s₀ (State.mirrored s r ix n) := by
  simp only [State.mirrored_touch, covers_union] at k
  obtain ⟨k0, _⟩ := k
  unfold State.mirrored
  repeat' first
    | with_reducible assumption | with_reducible exact .refl _ _
    | with_reducible exact may_row (by with_reducible assumption) | split | with_reducible apply within_pmu

/-- What `State.count` may write. -/
def State.count_touch : Nat :=
  union [State.mirrored_touch]

theorem State.count_within {M : Nat} {s₀ s : State} (h : Within M s₀ s) (k : Covers M State.count_touch) (r : Row)
    (kr : May M r) (ix : List Nat) (n : Nat) :
    Within M s₀ (State.count s r ix n) := by
  simp only [State.count_touch, covers_union] at k
  obtain ⟨k0, _⟩ := k
  unfold State.count
  repeat' first
    | with_reducible assumption | with_reducible exact .refl _ _ | with_reducible apply State.mirrored_within
    | with_reducible apply State.wr_within

/-- What `State.countWrap` may write. -/
def State.countWrap_touch : Nat :=
  union [State.mirrored_touch]

theorem State.countWrap_within {M : Nat} {s₀ s : State} (h : Within M s₀ s) (k : Covers M State.countWrap_touch)
    (r : Row) (kr : May M r) (ix : List Nat) (n : Nat) :
    Within M s₀ (State.countWrap s r ix n) := by
  simp only [State.countWrap_touch, covers_union] at k
  obtain ⟨k0, _⟩ := k
  unfold State.countWrap
  repeat' first
    | with_reducible assumption | with_reducible exact .refl _ _ | with_reducible apply State.mirrored_within
    | with_reducible apply State.wr_within

theorem State.wrWide_within {M : Nat} {s₀ s : State} (h : Within M s₀ s) (lo : Row) (klo : May M lo) (hi : Row)
    (khi : May M hi) (ix : List Nat) (v : Nat) :
    Within M s₀ (State.wrWide s lo hi ix v) := by
  unfold State.wrWide
  repeat' first | with_reducible assumption | with_reducible exact .refl _ _ | with_reducible apply State.wr_within

/-- What `State.countWide` may write. -/
def State.countWide_touch : Nat :=
  union [State.mirrored_touch]

theorem State.countWide_within {M : Nat} {s₀ s : State} (h : Within M s₀ s) (k : Covers M State.countWide_touch)
    (lo : Row) (klo : May M lo) (hi : Row) (khi : May M hi) (ix : List Nat) (n : Nat) :
    Within M s₀ (State.countWide s lo hi ix n) := by
  simp only [State.countWide_touch, covers_union] at k
  obtain ⟨k0, _⟩ := k
  unfold State.countWide
  dsimp only
  repeat' first
    | with_reducible assumption | with_reducible exact .refl _ _ | with_reducible apply State.mirrored_within
    | with_reducible apply State.wrWide_within

/-- What `State.say` may write. -/
def State.say_touch : Nat :=
  union [Part.out.bit]

theorem State.say_within {M : Nat} {s₀ s : State} (h : Within M s₀ s) (k : Covers M State.say_touch) (o : Out) :
    Within M s₀ (State.say s o) := by
  simp only [State.say_touch, covers_union] at k
  obtain ⟨k0, _⟩ := k
  unfold State.say
  repeat' first | with_reducible assumption | with_reducible exact .refl _ _ | with_reducible apply within_out

/-- What `State.wrFree` may write. -/
def State.wrFree_touch : Nat :=
  union [Part.free.bit]

theorem State.wrFree_within {M : Nat} {s₀ s : State} (h : Within M s₀ s) (k : Covers M State.wrFree_touch) (r : Row)
    (kr : May M r) (ix : List Nat) :
    Within M s₀ (State.wrFree s r ix) := by
  simp only [State.wrFree_touch, covers_union] at k
  obtain ⟨k0, _⟩ := k
  unfold State.wrFree
  dsimp only
  repeat' first
    | with_reducible assumption | with_reducible exact .refl _ _ | with_reducible apply State.fresh_within
    | with_reducible apply State.wr_within

/-- What `State.begin` may write. -/
def State.begin_touch : Nat :=
  union [Part.out.bit]

theorem State.begin_within {M : Nat} {s₀ s : State} (h : Within M s₀ s) (k : Covers M State.begin_touch) :
    Within M s₀ (State.begin s) := by
  simp only [State.begin_touch, covers_union] at k
  obtain ⟨k0, _⟩ := k
  unfold State.begin
  repeat' first | with_reducible assumption | with_reducible exact .refl _ _ | with_reducible apply within_out

end Sys2Proof.Machine
end

