-- ==== Sys2Proof/Laws/Frames.lean ====
section
/-!
SUPPORT. From what a command may write (`Answered`) to its frame, with the inclusion of sets as a Boolean test.
-/

namespace Sys2Proof.Machine

/-- The set `a` lies in the set `M`, as a test. -/
@[irreducible] def coversB (M a : Nat) : Bool := (a ||| M) == M

theorem covers_of_test {M a : Nat} (h : coversB M a = true) : Covers M a := by
  unfold coversB at h
  exact eq_of_beq h

/-- None of the parts lies in the set, as a test. -/
@[irreducible] def partsOutB (M : Nat) (ps : List Part) : Bool := ps.all (fun p => !M.testBit p.n)

/-- A command that writes inside a set has the frame that the set's lists spell. -/
theorem Answered.frames {i : Instr} {s : State} {rs : List Row} {ps : List Part} {r : Result}
    (e : exec i s = r) (h : Answered (bitsOf rs ps) s r) : Answers i s (fun t => s.Framed t rs ps) := by
  obtain ⟨t, ht, hw⟩ := h
  exact ⟨t, e.trans ht, hw.framed⟩

/-- A command that writes inside a set keeps the parts outside it. -/
theorem Answered.keeps {i : Instr} {s : State} {M : Nat} {ps : List Part} {r : Result} (e : exec i s = r)
    (h : Answered M s r) (k : partsOutB M ps = true) : Answers i s (fun t => ∀ p ∈ ps, p.same s t) := by
  obtain ⟨t, ht, hw⟩ := h
  refine ⟨t, e.trans ht, fun p hp => hw.part p ?_⟩
  unfold partsOutB at k
  have := List.all_eq_true.mp k p hp
  simpa using this

end Sys2Proof.Machine
end

