-- ==== Sys2Proof/Laws/Onward.lean ====
section
/-!
SUPPORT. What holds between the states before and after the named operations (`State.Onward`). Each lemma carries the
relation from an earlier state over one operation, so that a meaning's proof follows its text.
-/

namespace Sys2Proof.Machine

theorem State.Onward.refl (s : State) : s.Onward s := ⟨rfl, Nat.le_refl _, rfl, Nat.le_refl _, Nat.le_refl _, id⟩

theorem State.Onward.trans {s t u : State} (h : s.Onward t) (k : t.Onward u) : s.Onward u :=
  ⟨k.pending.trans h.pending, Nat.le_trans h.svn k.svn, k.root.trans h.root, Nat.le_trans h.free k.free,
    Nat.le_trans h.uptime k.uptime, fun x => k.wf (h.wf x)⟩

/-- A state that differs in none of the fields that the relation speaks of. -/
theorem onward_mk {s₀ s : State} (h : s₀.Onward s)
    (out : List Out) (pins : Pins) (host : HostIf) (attic : Attic) (pmu : Pmu) (image : ImageState) (boot : Boot)
    (power : Power) (ras : Reliability)
   
    (cor : Corridor)
    (rx : PerWing RxLine) (tx : PerWing TxRate) (opt : PerWing Optics) (icm : PerWing IcmSide) (pan : Pantry) (sched : Sched)
    (conv : PerWing Conv)
    (sup : Sup) (dec : PerWing Decoder)
    (otn : PerWing Otn) (groups : Tab Group) (cip : Cipher) (sds : LaneSet) (corLanes : LaneSet) (dpll : Dpll) :
    s₀.Onward ⟨s.pending, s.store, s.staged, s.pend, s.inuse, out, s.free, s.uptime, pins, host, attic, pmu, image,
      s.fuses, boot, power, ras, cor, rx, tx, opt, icm, pan, sched, conv, sup, dec, otn, groups, cip, sds, corLanes, dpll⟩ :=
  h.trans ⟨rfl, Nat.le_refl _, rfl, Nat.le_refl _, Nat.le_refl _, id⟩

/-- A state that differs in the kept tables, which stay canonical. -/
theorem onward_of {s₀ s t : State} (h : s₀.Onward s) (hp : t.pending = s.pending) (hf : t.fuses = s.fuses)
    (hn : s.free ≤ t.free) (hu : s.uptime ≤ t.uptime) (hw : s.wf → t.wf) : s₀.Onward t :=
  h.trans ⟨hp, hf ▸ Nat.le_refl _, hf ▸ rfl, hn, hu, hw⟩

/-- A loop over a list. -/
theorem onward_foldl {α : Type} {s₀ s : State} {f : State → α → State} (h : s₀.Onward s)
    (hf : ∀ (t : State) (x : α), t.Onward (f t x)) (l : List α) : s₀.Onward (l.foldl f s) := by
  induction l generalizing s with
  | nil => exact h
  | cons x l ih => exact ih (h.trans (hf s x))

theorem State.when_onward {s₀ s : State} {f : State → State} (h : s₀.Onward s) (hf : ∀ t : State, t.Onward (f t)) (c : Bool) :
    s₀.Onward (s.when c f) := by
  unfold State.when
  split
  · exact h.trans (hf s)
  · exact h

theorem State.upTo_onward {s₀ s : State} {f : State → Nat → State} (h : s₀.Onward s) (hf : ∀ (t : State) (n : Nat), t.Onward (f t n))
    (n : Nat) : s₀.Onward (s.upTo n f) := onward_foldl h hf _

theorem State.wr_onward {s₀ s : State} (h : s₀.Onward s) (r : Row) (ix : List Nat) (v : Nat) :
    s₀.Onward (s.wr r ix v) :=
  onward_of h rfl rfl (Nat.le_refl _) (Nat.le_refl _) (fun w => ⟨storeWf_storeSet w.1 r _ v, w.2⟩)

theorem State.keepUse_onward {s₀ s : State} (h : s₀.Onward s) (r : Row) (ix : List Nat) :
    s₀.Onward (s.keepUse r ix) := by
  unfold State.keepUse
  split
  · exact h
  · rename_i hn
    exact onward_of h rfl rfl (Nat.le_refl _) (Nat.le_refl _)
      (fun w => ⟨w.1, w.2.1, w.2.2.1, tabSorted_insert _ w.2.2.2 (key_ne_of_find hn)⟩)

theorem State.releaseUse_onward {s₀ s : State} (h : s₀.Onward s) (n : Nat) : s₀.Onward (s.releaseUse n) :=
  onward_of h rfl rfl (Nat.le_refl _) (Nat.le_refl _) (fun w => ⟨w.1, w.2.1, w.2.2.1, tabSorted_filter _ w.2.2.2⟩)

theorem State.releaseOne_onward {s₀ s : State} (h : s₀.Onward s) (r : Row) (ix : List Nat) :
    s₀.Onward (s.releaseOne r ix) :=
  onward_of h rfl rfl (Nat.le_refl _) (Nat.le_refl _) (fun w => ⟨w.1, w.2.1, w.2.2.1, tabSorted_filter _ w.2.2.2⟩)

theorem State.clearRow_onward {s₀ s : State} (h : s₀.Onward s) (r : Row) : s₀.Onward (s.clearRow r) :=
  onward_of h rfl rfl (Nat.le_refl _) (Nat.le_refl _) (fun w => ⟨storeWf_erase w.1 _, w.2⟩)

theorem State.fresh_onward {s₀ s : State} (h : s₀.Onward s) (n : Nat) : s₀.Onward (s.fresh n).2 :=
  onward_of h rfl rfl (Nat.le_succ _) (Nat.le_refl _) id

theorem tabInsert_all_sorted (l : Tab Nat) {t : Tab Nat} (h : tabSorted t) :
    tabSorted (l.foldl (fun (t : Tab Nat) (e : Nat × Nat) => tabInsert e.1 e.2 (tabErase t e.1)) t) := by
  induction l generalizing t with
  | nil => exact h
  | cons e l ih => exact ih (tabSorted_insert_erase _ _ h)

/-- What a command answers: a next state, onward from the one before. -/
def Completes (s : State) (r : Result) : Prop := ∃ t, r = .next t ∧ s.Onward t

theorem completes_next {s t : State} (h : s.Onward t) : Completes s (.next t) := ⟨t, rfl, h⟩

theorem onward_store {s₀ s : State} (h : s₀.Onward s) {st : Tab (Tab Nat)} (hs : storeWf s.store → storeWf st) :
    s₀.Onward { s with store := st } :=
  onward_of h rfl rfl (Nat.le_refl _) (Nat.le_refl _) (fun w => ⟨hs w.1, w.2⟩)

theorem onward_staged {s₀ s : State} (h : s₀.Onward s) {t : Tab Nat} (ht : tabSorted s.staged → tabSorted t) :
    s₀.Onward { s with staged := t } :=
  onward_of h rfl rfl (Nat.le_refl _) (Nat.le_refl _) (fun w => ⟨w.1, ht w.2.1, w.2.2⟩)

theorem onward_pend {s₀ s : State} (h : s₀.Onward s) {t : Tab Nat} (ht : tabSorted s.pend → tabSorted t) :
    s₀.Onward { s with pend := t } :=
  onward_of h rfl rfl (Nat.le_refl _) (Nat.le_refl _) (fun w => ⟨w.1, w.2.1, ht w.2.2.1, w.2.2.2⟩)

theorem onward_inuse {s₀ s : State} (h : s₀.Onward s) {t : Tab Nat} (ht : tabSorted s.inuse → tabSorted t) :
    s₀.Onward { s with inuse := t } :=
  onward_of h rfl rfl (Nat.le_refl _) (Nat.le_refl _) (fun w => ⟨w.1, w.2.1, w.2.2.1, ht w.2.2.2⟩)

theorem tabSorted_setAll (l : List (Nat × Nat)) {t : Tab Nat} (h : tabSorted t ∧ ∀ f ∈ t, f.2 ≠ 0) :
    tabSorted (l.foldl (fun t e => tabSet 0 t e.1 e.2) t) ∧ ∀ f ∈ l.foldl (fun t e => tabSet 0 t e.1 e.2) t, f.2 ≠ 0 := by
  induction l generalizing t with
  | nil => exact h
  | cons e l ih =>
    refine ih ⟨tabSorted_set 0 _ _ h.1, fun f hf => ?_⟩
    rcases mem_tabSet hf with hf | ⟨rfl, hv⟩
    · exact h.2 f hf
    · exact hv

theorem row_filter {t : Tab Nat} (p : Nat × Nat → Bool) (h : tabSorted t ∧ ∀ f ∈ t, f.2 ≠ 0) :
    tabSorted (t.filter p) ∧ ∀ f ∈ t.filter p, f.2 ≠ 0 :=
  ⟨tabSorted_filter p h.1, fun f hf => h.2 f (List.mem_filter.mp hf).1⟩

theorem State.wrb_onward {s₀ s : State} (h : s₀.Onward s) (r : Row) (ix : List Nat) (b : Bool) :
    s₀.Onward (State.wrb s r ix b) := by
  unfold State.wrb
  repeat' first
    | with_reducible exact h | with_reducible exact .refl _ | with_reducible apply State.wr_onward

theorem State.wrS_onward {s₀ s : State} (h : s₀.Onward s) (r : Row) (ix : List Nat) (i : Int) :
    s₀.Onward (State.wrS s r ix i) := by
  unfold State.wrS
  repeat' first
    | with_reducible exact h | with_reducible exact .refl _ | with_reducible apply State.wr_onward

theorem State.bit_onward {s₀ s : State} (h : s₀.Onward s) (r : Row) (ix : List Nat) (b : Nat) :
    s₀.Onward (State.bit s r ix b) := by
  unfold State.bit
  repeat' first
    | with_reducible exact h | with_reducible exact .refl _ | with_reducible apply State.wr_onward

theorem State.unbit_onward {s₀ s : State} (h : s₀.Onward s) (r : Row) (ix : List Nat) (b : Nat) :
    s₀.Onward (State.unbit s r ix b) := by
  unfold State.unbit
  repeat' first
    | with_reducible exact h | with_reducible exact .refl _ | with_reducible apply State.wr_onward

theorem State.clearRows_onward {s₀ s : State} (h : s₀.Onward s) (rs : List Row) :
    s₀.Onward (State.clearRows s rs) := by
  unfold State.clearRows
  repeat' first
    | with_reducible exact h | with_reducible exact .refl _ | with_reducible apply State.clearRow_onward
    | with_reducible apply onward_foldl | intro _

theorem State.clear_onward {s₀ s : State} (h : s₀.Onward s) (r : Row) (ix : List Nat) :
    s₀.Onward (State.clear s r ix) := by
  unfold State.clear
  repeat' first
    | with_reducible exact h | with_reducible exact .refl _ | with_reducible apply State.wr_onward

theorem State.native_onward {s₀ s : State} (h : s₀.Onward s) (code : Nat) (inst : Nat) (n : Nat) :
    s₀.Onward (State.native s code inst n) := by
  unfold State.native
  repeat' first
    | with_reducible exact h | with_reducible exact .refl _ | split | with_reducible apply onward_mk

theorem State.mirrored_onward {s₀ s : State} (h : s₀.Onward s) (r : Row) (ix : List Nat) (n : Nat) :
    s₀.Onward (State.mirrored s r ix n) := by
  unfold State.mirrored
  repeat' first
    | with_reducible exact h | with_reducible exact .refl _ | split | with_reducible apply onward_mk

theorem State.count_onward {s₀ s : State} (h : s₀.Onward s) (r : Row) (ix : List Nat) (n : Nat) :
    s₀.Onward (State.count s r ix n) := by
  unfold State.count
  repeat' first
    | with_reducible exact h | with_reducible exact .refl _ | with_reducible apply State.wr_onward
    | with_reducible apply State.mirrored_onward

theorem State.countWrap_onward {s₀ s : State} (h : s₀.Onward s) (r : Row) (ix : List Nat) (n : Nat) :
    s₀.Onward (State.countWrap s r ix n) := by
  unfold State.countWrap
  repeat' first
    | with_reducible exact h | with_reducible exact .refl _ | with_reducible apply State.wr_onward
    | with_reducible apply State.mirrored_onward

theorem State.wrWide_onward {s₀ s : State} (h : s₀.Onward s) (lo : Row) (hi : Row) (ix : List Nat) (v : Nat) :
    s₀.Onward (State.wrWide s lo hi ix v) := by
  unfold State.wrWide
  repeat' first
    | with_reducible exact h | with_reducible exact .refl _ | with_reducible apply State.wr_onward

theorem State.countWide_onward {s₀ s : State} (h : s₀.Onward s) (lo : Row) (hi : Row) (ix : List Nat) (n : Nat) :
    s₀.Onward (State.countWide s lo hi ix n) := by
  unfold State.countWide
  dsimp only
  repeat' first
    | with_reducible exact h | with_reducible exact .refl _ | with_reducible apply State.wrWide_onward
    | with_reducible apply State.mirrored_onward

theorem State.say_onward {s₀ s : State} (h : s₀.Onward s) (o : Out) :
    s₀.Onward (State.say s o) := by
  unfold State.say
  repeat' first
    | with_reducible exact h | with_reducible exact .refl _ | with_reducible apply onward_mk

theorem State.wrFree_onward {s₀ s : State} (h : s₀.Onward s) (r : Row) (ix : List Nat) :
    s₀.Onward (State.wrFree s r ix) := by
  unfold State.wrFree
  dsimp only
  repeat' first
    | with_reducible exact h | with_reducible exact .refl _ | with_reducible apply State.fresh_onward
    | with_reducible apply State.wr_onward

theorem State.begin_onward {s₀ s : State} (h : s₀.Onward s) :
    s₀.Onward (State.begin s) := by
  unfold State.begin
  repeat' first
    | with_reducible exact h | with_reducible exact .refl _ | with_reducible apply onward_mk

end Sys2Proof.Machine
end

