-- ==== Sys2Proof/Laws/OnwardFlags.lean ====
section
/-!
SUPPORT. `State.Onward` over the operations of Machine/Flags.lean.
-/

namespace Sys2Proof.Machine

theorem State.via_onward {s₀ s : State} (h : s₀.Onward s) (req : Req) (f : State → State) (hf : ∀ t : State, t.Onward (f t)) :
    s₀.Onward (State.via s req f) := by
  unfold State.via
  repeat' first
    | with_reducible exact h | with_reducible exact .refl _ | with_reducible refine State.Onward.trans ?_ (hf _)
    | split

theorem State.viaSec_onward {s₀ s : State} (h : s₀.Onward s) (req : Req) (f : State → State) (hf : ∀ t : State, t.Onward (f t)) :
    s₀.Onward (State.viaSec s req f) := by
  unfold State.viaSec
  repeat' first
    | with_reducible exact h | with_reducible exact .refl _ | with_reducible apply State.via_onward
    | with_reducible refine State.Onward.trans ?_ (hf _) | intro _ | split

theorem State.sendMsix_onward {s₀ s : State} (h : s₀.Onward s) (v : Nat) :
    s₀.Onward (State.sendMsix s v) := by
  unfold State.sendMsix
  dsimp only
  repeat' first
    | with_reducible exact h | with_reducible exact .refl _ | split | with_reducible apply onward_mk

theorem State.requestMsix_onward {s₀ s : State} (h : s₀.Onward s) (v : Nat) :
    s₀.Onward (State.requestMsix s v) := by
  unfold State.requestMsix
  repeat' first
    | with_reducible exact h | with_reducible exact .refl _ | with_reducible apply State.sendMsix_onward | split
    | with_reducible apply onward_mk

theorem State.setEngine7_onward {s₀ s : State} (h : s₀.Onward s) (q : List Transfer) :
    s₀.Onward (State.setEngine7 s q) := by
  unfold State.setEngine7
  repeat' first
    | with_reducible exact h | with_reducible exact .refl _ | with_reducible apply State.wrb_onward
    | with_reducible apply onward_mk

theorem State.askDma_onward {s₀ s : State} (h : s₀.Onward s) (k : Transfer) :
    s₀.Onward (State.askDma s k) := by
  unfold State.askDma
  repeat' first
    | with_reducible exact h | with_reducible exact .refl _ | with_reducible apply State.setEngine7_onward

theorem State.endDma_onward {s₀ s : State} (h : s₀.Onward s) (k : Transfer) :
    s₀.Onward (State.endDma s k) := by
  unfold State.endDma
  repeat' first
    | with_reducible exact h | with_reducible exact .refl _ | with_reducible apply State.setEngine7_onward

theorem State.requestIntn_onward {s₀ s : State} (h : s₀.Onward s) (v : Nat) :
    s₀.Onward (State.requestIntn s v) := by
  unfold State.requestIntn
  repeat' first
    | with_reducible exact h | with_reducible exact .refl _ | with_reducible apply State.bit_onward | split

theorem State.sayCell_onward {s₀ s : State} (h : s₀.Onward s) (p : Nat) (dest : Nat) (c : CellBody) :
    s₀.Onward (State.sayCell s p dest c) := by
  unfold State.sayCell
  repeat' first
    | with_reducible exact h | with_reducible exact .refl _ | with_reducible apply State.when_onward
    | with_reducible apply State.say_onward | intro _

theorem State.sendCell_onward {s₀ s : State} (h : s₀.Onward s) (dest : Nat) (c : CellBody) :
    s₀.Onward (State.sendCell s dest c) := by
  unfold State.sendCell
  repeat' first
    | with_reducible exact h | with_reducible exact .refl _ | with_reducible apply State.sayCell_onward

theorem State.forwardDoorbell_onward {s₀ s : State} (h : s₀.Onward s) (v : Nat) :
    s₀.Onward (State.forwardDoorbell s v) := by
  unfold State.forwardDoorbell
  dsimp only
  repeat' first
    | with_reducible exact h | with_reducible exact .refl _ | with_reducible apply State.sendCell_onward | split

theorem State.ring_onward {s₀ s : State} (h : s₀.Onward s) (v : Nat) :
    s₀.Onward (State.ring s v) := by
  unfold State.ring
  repeat' first
    | with_reducible exact h | with_reducible exact .refl _ | with_reducible apply State.native_onward
    | with_reducible apply State.requestIntn_onward | with_reducible apply State.forwardDoorbell_onward
    | with_reducible apply State.requestMsix_onward

theorem State.evt_onward {s₀ s : State} (h : s₀.Onward s) (r : Row) (ix : List Nat) (b : Nat) :
    s₀.Onward (State.evt s r ix b) := by
  unfold State.evt
  repeat' first
    | with_reducible exact h | with_reducible exact .refl _ | with_reducible apply State.bit_onward
    | with_reducible apply State.ring_onward | split

theorem State.emit_onward {s₀ s : State} (h : s₀.Onward s) (island : Nat) (subunit : Nat) (code : Nat) (arg0 : Nat) (arg1 : Nat) :
    s₀.Onward (State.emit s island subunit code arg0 arg1) := by
  unfold State.emit
  repeat' first
    | with_reducible exact h | with_reducible exact .refl _ | with_reducible apply State.count_onward
    | with_reducible apply State.evt_onward | split | with_reducible apply onward_mk

theorem State.evtLog_onward {s₀ s : State} (h : s₀.Onward s) (r : Row) (ix : List Nat) (island : Nat) (subunit : Nat) (arg0 : Nat) (arg1 : Nat) :
    s₀.Onward (State.evtLog s r ix island subunit arg0 arg1) := by
  unfold State.evtLog
  repeat' first
    | with_reducible exact h | with_reducible exact .refl _ | with_reducible apply State.evt_onward
    | with_reducible apply State.emit_onward

theorem State.alert_onward {s₀ s : State} (h : s₀.Onward s) :
    s₀.Onward (State.alert s) := by
  unfold State.alert
  repeat' first
    | with_reducible exact h | with_reducible exact .refl _ | with_reducible apply onward_mk

theorem State.assertFault_onward {s₀ s : State} (h : s₀.Onward s) :
    s₀.Onward (State.assertFault s) := by
  unfold State.assertFault
  repeat' first
    | with_reducible exact h | with_reducible exact .refl _ | split | with_reducible apply onward_mk

theorem State.releaseFault_onward {s₀ s : State} (h : s₀.Onward s) :
    s₀.Onward (State.releaseFault s) := by
  unfold State.releaseFault
  repeat' first
    | with_reducible exact h | with_reducible exact .refl _ | split | with_reducible apply onward_mk

theorem State.recordFault_onward {s₀ s : State} (h : s₀.Onward s) (kind : Nat) (island : Nat) (peer : Nat) :
    s₀.Onward (State.recordFault s kind island peer) := by
  unfold State.recordFault
  repeat' first
    | with_reducible exact h | with_reducible exact .refl _ | with_reducible apply State.wrb_onward
    | with_reducible apply State.wr_onward | split

theorem State.declareFailed_onward {s₀ s : State} (h : s₀.Onward s) (kind : Nat) (i : Nat) (peer : Nat) :
    s₀.Onward (State.declareFailed s kind i peer) := by
  unfold State.declareFailed
  dsimp only
  repeat' first
    | with_reducible exact h | with_reducible exact .refl _ | with_reducible apply State.recordFault_onward
    | with_reducible apply State.wr_onward | with_reducible apply State.wrb_onward
    | with_reducible apply State.emit_onward | with_reducible apply State.evt_onward
    | with_reducible apply State.assertFault_onward | split

end Sys2Proof.Machine
end

