-- ==== Sys2Proof/Laws/OnwardCapacity.lean ====
section
/-!
SUPPORT. `State.Onward` over the operations of Machine/Capacity.lean.
-/

namespace Sys2Proof.Machine

theorem State.writeMap_onward {s₀ s : State} (h : s₀.Onward s) (e0 : Row) (e1 : Row) (e2 : Row) (e3 : Row) (w : Wing) (m : List Nat) :
    s₀.Onward (State.writeMap s e0 e1 e2 e3 w m) := by
  unfold State.writeMap
  repeat' first
    | with_reducible exact h | with_reducible exact .refl _ | with_reducible apply State.upTo_onward
    | with_reducible apply State.wr_onward | intro _

theorem State.setTxMap_onward {s₀ s : State} (h : s₀.Onward s) (w : Wing) (m : List Nat) :
    s₀.Onward (State.setTxMap s w m) := by
  unfold State.setTxMap
  repeat' first
    | with_reducible exact h | with_reducible exact .refl _ | with_reducible apply State.writeMap_onward

theorem State.setRxMap_onward {s₀ s : State} (h : s₀.Onward s) (w : Wing) (m : List Nat) :
    s₀.Onward (State.setRxMap s w m) := by
  unfold State.setRxMap
  repeat' first
    | with_reducible exact h | with_reducible exact .refl _ | with_reducible apply State.writeMap_onward

theorem State.setLineCur_onward {s₀ s : State} (h : s₀.Onward s) (w : Wing) (h' : Nat) (fec : Nat) (slots : Nat) :
    s₀.Onward (State.setLineCur s w h' fec slots) := by
  unfold State.setLineCur
  repeat' first
    | with_reducible exact h | with_reducible exact .refl _ | with_reducible apply State.wr_onward

theorem State.setRxLineCur_onward {s₀ s : State} (h : s₀.Onward s) (w : Wing) (baud : Nat) (h' : Nat) (fec : Nat) (slots : Nat) :
    s₀.Onward (State.setRxLineCur s w baud h' fec slots) := by
  unfold State.setRxLineCur
  repeat' first
    | with_reducible exact h | with_reducible exact .refl _ | with_reducible apply State.wr_onward

theorem State.showCounts_onward {s₀ s : State} (h : s₀.Onward s) (w : Wing) (cur : List Nat) (next : List Nat) :
    s₀.Onward (State.showCounts s w cur next) := by
  unfold State.showCounts
  dsimp only
  repeat' first
    | with_reducible exact h | with_reducible exact .refl _ | with_reducible apply State.upTo_onward
    | with_reducible apply State.wr_onward | with_reducible apply State.wrb_onward | intro _

end Sys2Proof.Machine
end

