-- ==== Sys2Proof/Laws/OnwardConditions.lean ====
section
/-!
SUPPORT. `State.Onward` over the operations of Machine/Conditions.lean.
-/

namespace Sys2Proof.Machine

theorem State.onTx_onward {s₀ s : State} (h : s₀.Onward s) (w : Wing) (f : TxRate → TxRate) :
    s₀.Onward (State.onTx s w f) := by
  unfold State.onTx
  repeat' first
    | with_reducible exact h | with_reducible exact .refl _ | with_reducible apply onward_mk

theorem State.onOtn_onward {s₀ s : State} (h : s₀.Onward s) (w : Wing) (f : Otn → Otn) :
    s₀.Onward (State.onOtn s w f) := by
  unfold State.onOtn
  repeat' first
    | with_reducible exact h | with_reducible exact .refl _ | with_reducible apply onward_mk

theorem State.onPm_onward {s₀ s : State} (h : s₀.Onward s) (w : Wing) (c : Nat) (f : PmRx → PmRx) :
    s₀.Onward (State.onPm s w c f) := by
  unfold State.onPm
  repeat' first
    | with_reducible exact h | with_reducible exact .refl _ | with_reducible apply State.onOtn_onward | intro _
    | with_reducible apply onward_mk

theorem State.showCand_onward {s₀ s : State} (h : s₀.Onward s) (i : Nat) :
    s₀.Onward (State.showCand s i) := by
  unfold State.showCand
  dsimp only
  repeat' first
    | with_reducible exact h | with_reducible exact .refl _ | with_reducible apply State.wr_onward
    | with_reducible apply State.wrb_onward | with_reducible apply State.evt_onward | split

theorem State.onDpll_onward {s₀ s : State} (h : s₀.Onward s) (f : Dpll → Dpll) :
    s₀.Onward (State.onDpll s f) := by
  unfold State.onDpll
  repeat' first
    | with_reducible exact h | with_reducible exact .refl _ | with_reducible apply onward_mk

theorem State.loseCand_onward {s₀ s : State} (h : s₀.Onward s) (i : Nat) (lost : Bool) :
    s₀.Onward (State.loseCand s i lost) := by
  unfold State.loseCand
  dsimp only
  repeat' first
    | with_reducible exact h | with_reducible exact .refl _ | with_reducible apply State.wrb_onward
    | with_reducible apply State.onDpll_onward | with_reducible apply State.evt_onward
    | with_reducible apply State.showCand_onward | intro _ | split | with_reducible apply onward_mk

theorem State.checkCands_onward {s₀ s : State} (h : s₀.Onward s) :
    s₀.Onward (State.checkCands s) := by
  unfold State.checkCands
  repeat' first
    | with_reducible exact h | with_reducible exact .refl _ | with_reducible apply State.upTo_onward
    | with_reducible apply State.when_onward | with_reducible apply State.loseCand_onward
    | with_reducible apply State.showCand_onward | intro _

theorem State.refreshLink_onward {s₀ s : State} (h : s₀.Onward s) (p : Nat) :
    s₀.Onward (State.refreshLink s p) := by
  unfold State.refreshLink
  repeat' first
    | with_reducible exact h | with_reducible exact .refl _ | with_reducible apply State.wrb_onward
    | with_reducible apply State.checkCands_onward

end Sys2Proof.Machine
end

