-- ==== Sys2Proof/Laws/OnwardTags.lean ====
section
/-!
SUPPORT. `State.Onward` over the operations of Machine/Tags.lean.
-/

namespace Sys2Proof.Machine

theorem State.showTags_onward {s₀ s : State} (h : s₀.Onward s) :
    s₀.Onward (State.showTags s) := by
  unfold State.showTags
  repeat' first
    | with_reducible exact h | with_reducible exact .refl _ | with_reducible apply State.wr_onward

theorem State.drawTag_onward {s₀ s : State} (h : s₀.Onward s) (ingress : Bool) (port : Nat) (chan : Nat) (cls : Nat) (len : Nat) (t0 : Nat) :
    s₀.Onward (State.drawTag s ingress port chan cls len t0).2 := by
  unfold State.drawTag
  dsimp only
  repeat' first
    | with_reducible exact h | with_reducible exact .refl _ | with_reducible apply State.when_onward
    | with_reducible apply State.count_onward | with_reducible apply State.native_onward
    | with_reducible apply State.showTags_onward | intro _ | split | with_reducible apply onward_mk

theorem State.onTag_onward {s₀ s : State} (h : s₀.Onward s) (k : Nat) (f : Tag → Tag) :
    s₀.Onward (State.onTag s k f) := by
  unfold State.onTag
  repeat' first
    | with_reducible exact h | with_reducible exact .refl _ | intro _ | split | with_reducible apply onward_mk

theorem State.passAt_onward {s₀ s : State} (h : s₀.Onward s) (k : Option Nat) (point : Nat) (time : Nat) :
    s₀.Onward (State.passAt s k point time) := by
  unfold State.passAt
  repeat' first
    | with_reducible exact h | with_reducible exact .refl _ | with_reducible apply State.onTag_onward | intro _
    | split

theorem State.passPoint_onward {s₀ s : State} (h : s₀.Onward s) (k : Option Nat) (point : Nat) :
    s₀.Onward (State.passPoint s k point) := by
  unfold State.passPoint
  repeat' first
    | with_reducible exact h | with_reducible exact .refl _ | with_reducible apply State.onTag_onward | intro _
    | split

theorem State.passWithin_onward {s₀ s : State} (h : s₀.Onward s) (k : Option Nat) (point : Nat) (bound : Nat) :
    s₀.Onward (State.passWithin s k point bound) := by
  unfold State.passWithin
  dsimp only
  repeat' first
    | with_reducible exact h | with_reducible exact .refl _ | with_reducible apply State.fresh_onward
    | with_reducible apply State.onTag_onward | intro _ | split | with_reducible apply onward_mk

theorem State.histSee_onward {s₀ s : State} (h : s₀.Onward s) (t : Tag) (h' : Nat) :
    s₀.Onward (State.histSee s t h') := by
  unfold State.histSee
  dsimp only
  repeat' first
    | with_reducible exact h | with_reducible exact .refl _ | with_reducible apply State.count_onward | split

theorem State.pushTag_onward {s₀ s : State} (h : s₀.Onward s) (t : Tag) (dropped : Bool) :
    s₀.Onward (State.pushTag s t dropped) := by
  unfold State.pushTag
  repeat' first
    | with_reducible exact h | with_reducible exact .refl _ | with_reducible apply State.when_onward
    | with_reducible apply State.count_onward | intro _ | split | with_reducible apply onward_mk

theorem State.notifyTags_onward {s₀ s : State} (h : s₀.Onward s) :
    s₀.Onward (State.notifyTags s) := by
  unfold State.notifyTags
  repeat' first
    | with_reducible exact h | with_reducible exact .refl _ | with_reducible apply State.evt_onward | split

theorem State.dropTag_onward {s₀ s : State} (h : s₀.Onward s) (k : Nat) :
    s₀.Onward (State.dropTag s k) := by
  unfold State.dropTag
  repeat' first
    | with_reducible exact h | with_reducible exact .refl _ | intro _ | with_reducible apply onward_mk

theorem State.releaseTag_onward {s₀ s : State} (h : s₀.Onward s) (k : Option Nat) (dropped : Bool) :
    s₀.Onward (State.releaseTag s k dropped) := by
  unfold State.releaseTag
  repeat' first
    | with_reducible exact h | with_reducible exact .refl _ | with_reducible apply State.dropTag_onward
    | with_reducible apply State.upTo_onward | with_reducible apply State.histSee_onward
    | with_reducible apply State.pushTag_onward | with_reducible apply State.notifyTags_onward
    | with_reducible apply State.showTags_onward | intro _ | split

end Sys2Proof.Machine
end

