-- ==== Sys2Proof/Laws/OnwardQueues.lean ====
section
/-!
SUPPORT. `State.Onward` over the operations of Machine/Queues.lean.
-/

namespace Sys2Proof.Machine

theorem State.wrQ_onward {s₀ s : State} (h : s₀.Onward s) (e : Row) (i : Row) (q : Nat) (v : Nat) :
    s₀.Onward (State.wrQ s e i q v) := by
  unfold State.wrQ
  repeat' first
    | with_reducible exact h | with_reducible exact .refl _ | with_reducible apply State.wr_onward | split

theorem State.countQ_onward {s₀ s : State} (h : s₀.Onward s) (e : Row) (i : Row) (q : Nat) :
    s₀.Onward (State.countQ s e i q) := by
  unfold State.countQ
  repeat' first
    | with_reducible exact h | with_reducible exact .refl _ | with_reducible apply State.count_onward | split

theorem State.setQueue_onward {s₀ s : State} (h : s₀.Onward s) (q : Nat) (fs : List Queued) :
    s₀.Onward (State.setQueue s q fs) := by
  unfold State.setQueue
  repeat' first
    | with_reducible exact h | with_reducible exact .refl _ | with_reducible apply State.wrQ_onward
    | with_reducible apply onward_mk

theorem State.countDrop_onward {s₀ s : State} (h : s₀.Onward s) (q : Nat) (reason : Nat) :
    s₀.Onward (State.countDrop s q reason) := by
  unfold State.countDrop
  repeat' first
    | with_reducible exact h | with_reducible exact .refl _ | with_reducible apply State.count_onward
    | with_reducible apply State.countQ_onward | with_reducible apply State.native_onward

theorem State.drawCells_onward {s₀ s : State} (h : s₀.Onward s) (q : Nat) (n : Nat) (a0 : CellSource) :
    s₀.Onward (State.drawCells s q n a0) := by
  unfold State.drawCells
  repeat' first
    | with_reducible exact h | with_reducible exact .refl _ | with_reducible apply State.wr_onward | split

theorem State.freeCells_onward {s₀ s : State} (h : s₀.Onward s) (q : Nat) (n : Nat) (a0 : CellSource) :
    s₀.Onward (State.freeCells s q n a0) := by
  unfold State.freeCells
  repeat' first
    | with_reducible exact h | with_reducible exact .refl _ | with_reducible apply State.wr_onward | split

theorem State.showDesc_onward {s₀ s : State} (h : s₀.Onward s) :
    s₀.Onward (State.showDesc s) := by
  unfold State.showDesc
  dsimp only
  repeat' first
    | with_reducible exact h | with_reducible exact .refl _ | with_reducible apply State.wr_onward

theorem State.moveDesc_onward {s₀ s : State} (h : s₀.Onward s) (q : Nat) (fromReserve : Bool) (d : Nat → Nat) :
    s₀.Onward (State.moveDesc s q fromReserve d) := by
  unfold State.moveDesc
  dsimp only
  repeat' first
    | with_reducible exact h | with_reducible exact .refl _ | with_reducible apply State.showDesc_onward | split
    | with_reducible apply onward_mk

theorem State.headTag_onward {s₀ s : State} (h : s₀.Onward s) (q : Nat) (start : Nat) :
    s₀.Onward (State.headTag s q start) := by
  unfold State.headTag
  dsimp only
  repeat' first
    | with_reducible exact h | with_reducible exact .refl _ | split | with_reducible apply onward_mk

theorem State.restGroup_onward {s₀ s : State} (h : s₀.Onward s) (q : Nat) :
    s₀.Onward (State.restGroup s q) := by
  unfold State.restGroup
  dsimp only
  repeat' first
    | with_reducible exact h | with_reducible exact .refl _ | with_reducible apply onward_foldl | intro _ | split
    | with_reducible apply onward_mk

theorem State.clearTags_onward {s₀ s : State} (h : s₀.Onward s) (inst : Nat) :
    s₀.Onward (State.clearTags s inst) := by
  unfold State.clearTags
  repeat' first
    | with_reducible exact h | with_reducible exact .refl _ | with_reducible apply State.upTo_onward | intro _
    | with_reducible apply onward_mk

theorem State.setTokens_onward {s₀ s : State} (h : s₀.Onward s) (q : Nat) (t : Int) :
    s₀.Onward (State.setTokens s q t) := by
  unfold State.setTokens
  repeat' first
    | with_reducible exact h | with_reducible exact .refl _ | with_reducible apply onward_mk

theorem State.fillTokens_onward {s₀ s : State} (h : s₀.Onward s) (q : Nat) :
    s₀.Onward (State.fillTokens s q) := by
  unfold State.fillTokens
  repeat' first
    | with_reducible exact h | with_reducible exact .refl _ | with_reducible apply onward_mk

theorem State.tokensOnChange_onward {s₀ s : State} (h : s₀.Onward s) (q : Nat) :
    s₀.Onward (State.tokensOnChange s q) := by
  unfold State.tokensOnChange
  repeat' first
    | with_reducible exact h | with_reducible exact .refl _ | with_reducible apply State.fillTokens_onward
    | with_reducible apply State.setTokens_onward | split

theorem State.takeGateEn_onward {s₀ s : State} (h : s₀.Onward s) (ch : Nat) :
    s₀.Onward (State.takeGateEn s ch) := by
  unfold State.takeGateEn
  repeat' first
    | with_reducible exact h | with_reducible exact .refl _ | split | with_reducible apply onward_mk

theorem State.reguard_onward {s₀ s : State} (h : s₀.Onward s) (ch : Nat) :
    s₀.Onward (State.reguard s ch) := by
  unfold State.reguard
  dsimp only
  repeat' first
    | with_reducible exact h | with_reducible exact .refl _ | with_reducible apply State.upTo_onward
    | with_reducible apply State.wr_onward | with_reducible apply State.when_onward
    | with_reducible apply State.evt_onward | intro _

theorem State.setXoff_onward {s₀ s : State} (h : s₀.Onward s) (p : Nat) (c : Nat) (off : Bool) :
    s₀.Onward (State.setXoff s p c off) := by
  unfold State.setXoff
  dsimp only
  repeat' first
    | with_reducible exact h | with_reducible exact .refl _ | with_reducible apply State.when_onward
    | with_reducible apply State.bit_onward | intro _ | split | with_reducible apply onward_mk

theorem State.watchClass_onward {s₀ s : State} (h : s₀.Onward s) (p : Nat) (c : Nat) (rise : Bool) :
    s₀.Onward (State.watchClass s p c rise) := by
  unfold State.watchClass
  dsimp only
  repeat' first
    | with_reducible exact h | with_reducible exact .refl _ | with_reducible apply State.setXoff_onward | split

theorem State.watch_onward {s₀ s : State} (h : s₀.Onward s) (q : Nat) (rise : Bool) :
    s₀.Onward (State.watch s q rise) := by
  unfold State.watch
  repeat' first
    | with_reducible exact h | with_reducible exact .refl _ | with_reducible apply State.watchClass_onward | split

theorem State.enqueue_onward {s₀ s : State} (h : s₀.Onward s) (q : Nat) (x : Queued) :
    s₀.Onward (State.enqueue s q x) := by
  unfold State.enqueue
  dsimp only
  repeat' first
    | with_reducible exact h | with_reducible exact .refl _ | with_reducible apply State.setQueue_onward
    | with_reducible apply State.when_onward | with_reducible apply State.headTag_onward
    | with_reducible apply State.watch_onward | with_reducible apply State.native_onward | intro _

theorem State.releaseFrame_onward {s₀ s : State} (h : s₀.Onward s) (q : Nat) (x : Queued) :
    s₀.Onward (State.releaseFrame s q x) := by
  unfold State.releaseFrame
  dsimp only
  repeat' first
    | with_reducible exact h | with_reducible exact .refl _ | with_reducible apply State.moveDesc_onward
    | with_reducible apply State.freeCells_onward | intro _ | split | with_reducible apply onward_mk

theorem State.pop_onward {s₀ s : State} (h : s₀.Onward s) (q : Nat) :
    s₀.Onward (State.pop s q) := by
  unfold State.pop
  repeat' first
    | with_reducible exact h | with_reducible exact .refl _ | with_reducible apply State.setQueue_onward
    | with_reducible apply State.releaseFrame_onward | with_reducible apply State.headTag_onward
    | with_reducible apply State.restGroup_onward | with_reducible apply State.watch_onward | split

theorem State.dropFrame_onward {s₀ s : State} (h : s₀.Onward s) (q : Nat) (reason : Nat) (x : Queued) :
    s₀.Onward (State.dropFrame s q reason x) := by
  unfold State.dropFrame
  repeat' first
    | with_reducible exact h | with_reducible exact .refl _ | with_reducible apply State.countDrop_onward
    | with_reducible apply State.releaseFrame_onward | with_reducible apply State.releaseTag_onward

theorem State.flushQueue_onward {s₀ s : State} (h : s₀.Onward s) (q : Nat) :
    s₀.Onward (State.flushQueue s q) := by
  unfold State.flushQueue
  dsimp only
  repeat' first
    | with_reducible exact h | with_reducible exact .refl _ | with_reducible apply State.dropFrame_onward
    | with_reducible apply State.setQueue_onward | with_reducible apply State.restGroup_onward
    | with_reducible apply State.watch_onward | with_reducible apply onward_foldl | intro _ | split

theorem State.flushInst_onward {s₀ s : State} (h : s₀.Onward s) (inst : Nat) :
    s₀.Onward (State.flushInst s inst) := by
  unfold State.flushInst
  repeat' first
    | with_reducible exact h | with_reducible exact .refl _ | with_reducible apply State.upTo_onward
    | with_reducible apply State.flushQueue_onward | intro _

theorem State.enableInst_onward {s₀ s : State} (h : s₀.Onward s) (inst : Nat) :
    s₀.Onward (State.enableInst s inst) := by
  unfold State.enableInst
  repeat' first
    | with_reducible exact h | with_reducible exact .refl _ | with_reducible apply State.clearTags_onward
    | with_reducible apply State.upTo_onward | with_reducible apply State.fillTokens_onward | intro _

theorem State.accrueSlots_onward {s₀ s : State} (h : s₀.Onward s) (ch : Nat) :
    s₀.Onward (State.accrueSlots s ch) := by
  unfold State.accrueSlots
  dsimp only
  repeat' first
    | with_reducible exact h | with_reducible exact .refl _ | with_reducible apply onward_mk

theorem State.showCtx_onward {s₀ s : State} (h : s₀.Onward s) :
    s₀.Onward (State.showCtx s) := by
  unfold State.showCtx
  dsimp only
  repeat' first
    | with_reducible exact h | with_reducible exact .refl _ | with_reducible apply State.wr_onward | intro _

theorem State.onCip_onward {s₀ s : State} (h : s₀.Onward s) (f : Cipher → Cipher) :
    s₀.Onward (State.onCip s f) := by
  unfold State.onCip
  repeat' first
    | with_reducible exact h | with_reducible exact .refl _ | with_reducible apply onward_mk

theorem State.setPipe_onward {s₀ s : State} (h : s₀.Onward s) (p : Nat) (x : Pipe) :
    s₀.Onward (State.setPipe s p x) := by
  unfold State.setPipe
  repeat' first
    | with_reducible exact h | with_reducible exact .refl _ | with_reducible apply State.onCip_onward | intro _
    | with_reducible apply onward_mk

theorem State.feed_onward {s₀ s : State} (h : s₀.Onward s) (p : Nat) :
    s₀.Onward (State.feed s p) := by
  unfold State.feed
  repeat' first
    | with_reducible exact h | with_reducible exact .refl _ | with_reducible apply State.setPipe_onward
    | with_reducible apply State.onCip_onward | intro _ | split | with_reducible apply onward_mk

theorem State.feedAll_onward {s₀ s : State} (h : s₀.Onward s) :
    s₀.Onward (State.feedAll s) := by
  unfold State.feedAll
  repeat' first
    | with_reducible exact h | with_reducible exact .refl _ | with_reducible apply State.upTo_onward
    | with_reducible apply State.feed_onward | with_reducible apply State.showCtx_onward | intro _

theorem State.closeCtx_onward {s₀ s : State} (h : s₀.Onward s) (gone : Context → Bool) :
    s₀.Onward (State.closeCtx s gone) := by
  unfold State.closeCtx
  dsimp only
  repeat' first
    | with_reducible exact h | with_reducible exact .refl _ | with_reducible apply State.feedAll_onward | intro _
    | split | with_reducible apply onward_mk

theorem State.unbox_onward {s₀ s : State} (h : s₀.Onward s) (ch : Nat) :
    s₀.Onward (State.unbox s ch) := by
  unfold State.unbox
  dsimp only
  repeat' first
    | with_reducible exact h | with_reducible exact .refl _ | with_reducible apply State.onOtn_onward | intro _
    | with_reducible apply onward_mk

theorem State.abandonSegment_onward {s₀ s : State} (h : s₀.Onward s) (ch : Nat) :
    s₀.Onward (State.abandonSegment s ch) := by
  unfold State.abandonSegment
  repeat' first
    | with_reducible exact h | with_reducible exact .refl _ | with_reducible apply State.closeCtx_onward
    | with_reducible apply State.unbox_onward | intro _ | split

theorem State.retime_onward {s₀ s : State} (h : s₀.Onward s) (ch : Nat) (slots : Nat) :
    s₀.Onward (State.retime s ch slots) := by
  unfold State.retime
  dsimp only
  repeat' first
    | with_reducible exact h | with_reducible exact .refl _ | split | with_reducible apply onward_mk

theorem State.setDrain_onward {s₀ s : State} (h : s₀.Onward s) (ch : Nat) (slots : Nat) :
    s₀.Onward (State.setDrain s ch slots) := by
  unfold State.setDrain
  dsimp only
  repeat' first
    | with_reducible exact h | with_reducible exact .refl _ | with_reducible apply State.accrueSlots_onward
    | with_reducible apply State.retime_onward | with_reducible apply State.wr_onward
    | with_reducible apply State.when_onward | with_reducible apply State.abandonSegment_onward
    | with_reducible apply State.upTo_onward | with_reducible apply State.setTokens_onward
    | with_reducible apply State.reguard_onward | intro _ | split

theorem State.applyDrain_onward {s₀ s : State} (h : s₀.Onward s) (w : Wing) (counts : List Nat) (enabled : Nat) :
    s₀.Onward (State.applyDrain s w counts enabled) := by
  unfold State.applyDrain
  dsimp only
  repeat' first
    | with_reducible exact h | with_reducible exact .refl _ | with_reducible apply State.upTo_onward
    | with_reducible apply State.setDrain_onward | with_reducible apply State.when_onward
    | with_reducible apply State.flushInst_onward | with_reducible apply State.enableInst_onward | intro _ | split
    | with_reducible apply onward_mk

end Sys2Proof.Machine
end

