-- ==== Sys2Proof/Laws/OnwardMemory.lean ====
section
/-!
SUPPORT. `State.Onward` over the operations of Machine/Memory.lean.
-/

namespace Sys2Proof.Machine

theorem State.injectAt_onward {s₀ s : State} (h : s₀.Onward s) (l : MemLine) :
    s₀.Onward (State.injectAt s l) := by
  unfold State.injectAt
  dsimp only
  repeat' first
    | with_reducible exact h | with_reducible exact .refl _ | with_reducible apply State.wrb_onward | split
    | with_reducible apply onward_mk

theorem State.memWrite_onward {s₀ s : State} (h : s₀.Onward s) (m : Fin 6) (n : Nat) :
    s₀.Onward (State.memWrite s m n).2 := by
  unfold State.memWrite
  dsimp only
  repeat' first
    | with_reducible exact h | with_reducible exact .refl _ | with_reducible apply State.injectAt_onward
    | with_reducible apply onward_mk

theorem State.tapsWrite_onward {s₀ s : State} (h : s₀.Onward s) (m : Fin 6) :
    s₀.Onward (State.tapsWrite s m) := by
  unfold State.tapsWrite
  repeat' first
    | with_reducible exact h | with_reducible exact .refl _ | with_reducible apply State.memWrite_onward

theorem State.slotWrite_onward {s₀ s : State} (h : s₀.Onward s) (slot : Nat) :
    s₀.Onward (State.slotWrite s slot) := by
  unfold State.slotWrite
  dsimp only
  repeat' first
    | with_reducible exact h | with_reducible exact .refl _ | with_reducible apply State.injectAt_onward | intro _
    | with_reducible apply onward_mk

theorem State.healed_onward {s₀ s : State} (h : s₀.Onward s) (l : MemLine) :
    s₀.Onward (State.healed s l) := by
  unfold State.healed
  repeat' first
    | with_reducible exact h | with_reducible exact .refl _ | intro _ | with_reducible apply onward_mk

theorem State.lastError_onward {s₀ s : State} (h : s₀.Onward s) (l : MemLine) (type : Nat) :
    s₀.Onward (State.lastError s l type) := by
  unfold State.lastError
  repeat' first
    | with_reducible exact h | with_reducible exact .refl _ | with_reducible apply State.wr_onward

theorem State.remap_onward {s₀ s : State} (h : s₀.Onward s) (l : MemLine) :
    s₀.Onward (State.remap s l) := by
  unfold State.remap
  dsimp only
  repeat' first
    | with_reducible exact h | with_reducible exact .refl _ | with_reducible apply State.wr_onward
    | with_reducible apply State.evtLog_onward | with_reducible apply State.evt_onward | intro _ | split
    | with_reducible apply onward_mk

theorem State.correct_onward {s₀ s : State} (h : s₀.Onward s) (l : MemLine) :
    s₀.Onward (State.correct s l) := by
  unfold State.correct
  dsimp only
  repeat' first
    | with_reducible exact h | with_reducible exact .refl _ | with_reducible apply State.healed_onward
    | with_reducible apply State.count_onward | with_reducible apply State.lastError_onward
    | with_reducible apply State.when_onward | with_reducible apply State.remap_onward | intro _
    | with_reducible apply onward_mk

theorem State.uncorrectable_onward {s₀ s : State} (h : s₀.Onward s) (l : MemLine) :
    s₀.Onward (State.uncorrectable s l) := by
  unfold State.uncorrectable
  repeat' first
    | with_reducible exact h | with_reducible exact .refl _ | with_reducible apply State.healed_onward
    | with_reducible apply State.count_onward | with_reducible apply State.lastError_onward

theorem State.ueControl_onward {s₀ s : State} (h : s₀.Onward s) (l : MemLine) :
    s₀.Onward (State.ueControl s l) := by
  unfold State.ueControl
  dsimp only
  repeat' first
    | with_reducible exact h | with_reducible exact .refl _ | with_reducible apply State.uncorrectable_onward
    | with_reducible apply State.recordFault_onward | with_reducible apply State.emit_onward
    | with_reducible apply State.evt_onward

theorem State.flushDamaged_onward {s₀ s : State} (h : s₀.Onward s) (q : Nat) (place : Nat) :
    s₀.Onward (State.flushDamaged s q place) := by
  unfold State.flushDamaged
  dsimp only
  repeat' first
    | with_reducible exact h | with_reducible exact .refl _ | with_reducible apply State.dropFrame_onward
    | with_reducible apply State.setQueue_onward | with_reducible apply State.countDrop_onward
    | with_reducible apply State.releaseTag_onward | with_reducible apply State.restGroup_onward
    | with_reducible apply State.watch_onward | with_reducible apply onward_foldl | intro _
    | with_reducible apply onward_mk

theorem State.auditDone_onward {s₀ s : State} (h : s₀.Onward s) :
    s₀.Onward (State.auditDone s) := by
  unfold State.auditDone
  repeat' first
    | with_reducible exact h | with_reducible exact .refl _ | with_reducible apply State.releaseFrame_onward
    | with_reducible apply onward_foldl | intro _ | with_reducible apply onward_mk

theorem State.openCtx_onward {s₀ s : State} (h : s₀.Onward s) (ch : Nat) (slot : Nat) :
    s₀.Onward (State.openCtx s ch slot) := by
  unfold State.openCtx
  dsimp only
  repeat' first
    | with_reducible exact h | with_reducible exact .refl _ | with_reducible apply State.memWrite_onward
    | with_reducible apply State.onCip_onward | with_reducible apply State.when_onward
    | with_reducible apply State.countWrap_onward | with_reducible apply State.feedAll_onward | intro _
    | with_reducible apply onward_mk

theorem State.rxOpen_onward {s₀ s : State} (h : s₀.Onward s) (ch : Nat) :
    s₀.Onward (State.rxOpen s ch) := by
  unfold State.rxOpen
  dsimp only
  repeat' first
    | with_reducible exact h | with_reducible exact .refl _ | with_reducible apply State.openCtx_onward | split

theorem State.rxClose_onward {s₀ s : State} (h : s₀.Onward s) (ch : Nat) :
    s₀.Onward (State.rxClose s ch) := by
  unfold State.rxClose
  repeat' first
    | with_reducible exact h | with_reducible exact .refl _ | with_reducible apply State.closeCtx_onward
    | with_reducible apply State.native_onward | intro _ | split

theorem State.verifyQueue_onward {s₀ s : State} (h : s₀.Onward s) (id : Nat) (q : Nat) :
    s₀.Onward (State.verifyQueue s id q) := by
  unfold State.verifyQueue
  dsimp only
  repeat' first
    | with_reducible exact h | with_reducible exact .refl _ | with_reducible apply State.setQueue_onward
    | with_reducible apply State.passPoint_onward | with_reducible apply onward_foldl | intro _

theorem State.failQueue_onward {s₀ s : State} (h : s₀.Onward s) (id : Nat) (q : Nat) :
    s₀.Onward (State.failQueue s id q) := by
  unfold State.failQueue
  dsimp only
  repeat' first
    | with_reducible exact h | with_reducible exact .refl _ | with_reducible apply State.setQueue_onward
    | with_reducible apply State.releaseFrame_onward | with_reducible apply State.releaseTag_onward
    | with_reducible apply State.restGroup_onward | with_reducible apply State.watch_onward
    | with_reducible apply onward_foldl | intro _

theorem State.endSegment_onward {s₀ s : State} (h : s₀.Onward s) (ch : Nat) (ok : Bool) :
    s₀.Onward (State.endSegment s ch ok) := by
  unfold State.endSegment
  dsimp only
  repeat' first
    | with_reducible exact h | with_reducible exact .refl _ | with_reducible apply State.verifyQueue_onward
    | with_reducible apply State.failQueue_onward | with_reducible apply State.rxClose_onward
    | with_reducible apply State.onCip_onward | with_reducible apply onward_foldl | intro _ | split
    | with_reducible apply onward_mk

theorem State.rxAbandon_onward {s₀ s : State} (h : s₀.Onward s) (ch : Nat) :
    s₀.Onward (State.rxAbandon s ch) := by
  unfold State.rxAbandon
  repeat' first
    | with_reducible exact h | with_reducible exact .refl _ | with_reducible apply State.when_onward
    | with_reducible apply State.count_onward | with_reducible apply State.endSegment_onward | intro _ | split

theorem State.spoil_onward {s₀ s : State} (h : s₀.Onward s) (gone : Context → Bool) :
    s₀.Onward (State.spoil s gone) := by
  unfold State.spoil
  dsimp only
  repeat' first
    | with_reducible exact h | with_reducible exact .refl _ | with_reducible apply State.count_onward
    | with_reducible apply State.closeCtx_onward | with_reducible apply State.onCip_onward
    | with_reducible apply onward_foldl | intro _ | with_reducible apply onward_mk

end Sys2Proof.Machine
end

