-- ==== Sys2Proof/Laws/OnwardClients.lean ====
section
/-!
SUPPORT. `State.Onward` over the operations of Machine/Clients.lean.
-/

namespace Sys2Proof.Machine

theorem State.police_onward {s₀ s : State} (h : s₀.Onward s) (p : Nat) (c : Nat) (len : Nat) :
    s₀.Onward (State.police s p c len).2 := by
  unfold State.police
  dsimp only
  repeat' first
    | with_reducible exact h | with_reducible exact .refl _ | split | with_reducible apply onward_mk

theorem State.refillPolicer_onward {s₀ s : State} (h : s₀.Onward s) (p : Nat) (c : Nat) :
    s₀.Onward (State.refillPolicer s p c) := by
  unfold State.refillPolicer
  repeat' first
    | with_reducible exact h | with_reducible exact .refl _ | with_reducible apply onward_mk

theorem State.refuseFrame_onward {s₀ s : State} (h : s₀.Onward s) (q : Nat) (reason : Nat) (tag : Option Nat) :
    s₀.Onward (State.refuseFrame s q reason tag) := by
  unfold State.refuseFrame
  repeat' first
    | with_reducible exact h | with_reducible exact .refl _ | with_reducible apply State.countDrop_onward
    | with_reducible apply State.releaseTag_onward

theorem State.admitFrame_onward {s₀ s : State} (h : s₀.Onward s) (q : Nat) (f : Frame) (yellow : Bool) (waits : List Nat) (tag : Option Nat) :
    s₀.Onward (State.admitFrame s q f yellow waits tag) := by
  unfold State.admitFrame
  dsimp only
  repeat' first
    | with_reducible exact h | with_reducible exact .refl _ | with_reducible apply State.refuseFrame_onward
    | with_reducible apply State.drawCells_onward | with_reducible apply State.memWrite_onward
    | with_reducible apply State.moveDesc_onward | with_reducible apply State.enqueue_onward
    | with_reducible apply State.when_onward | with_reducible apply State.passPoint_onward | intro _ | split

theorem State.enterCopy_onward {s₀ s : State} (h : s₀.Onward s) (q : Nat) (f : Frame) (d : Bool) (src : CellSource) (b : Nat) (tag : Option Nat) :
    s₀.Onward (State.enterCopy s q f d src b tag) := by
  unfold State.enterCopy
  dsimp only
  repeat' first
    | with_reducible exact h | with_reducible exact .refl _ | with_reducible apply State.drawCells_onward
    | with_reducible apply State.memWrite_onward | with_reducible apply State.moveDesc_onward
    | with_reducible apply State.enqueue_onward | with_reducible apply State.passPoint_onward | intro _ | split
    | with_reducible apply onward_mk

theorem State.admitBridged_onward {s₀ s : State} (h : s₀.Onward s) (g : Nat) (f : Frame) (c : Nat) (yellow : Bool) (tag : Option Nat) :
    s₀.Onward (State.admitBridged s g f c yellow tag) := by
  unfold State.admitBridged
  dsimp only
  repeat' first
    | with_reducible exact h | with_reducible exact .refl _ | with_reducible apply State.enterCopy_onward
    | with_reducible apply State.refuseFrame_onward | with_reducible apply State.count_onward
    | with_reducible apply State.releaseTag_onward | split | with_reducible apply onward_mk

theorem State.macCount_onward {s₀ s : State} (h : s₀.Onward s) (p : Nat) (len : Nat) (fcsOk : Bool) :
    s₀.Onward (State.macCount s p len fcsOk) := by
  unfold State.macCount
  repeat' first
    | with_reducible exact h | with_reducible exact .refl _ | with_reducible apply State.count_onward
    | with_reducible apply State.when_onward | intro _

theorem State.macConsume_onward {s₀ s : State} (h : s₀.Onward s) (p : Nat) (len : Nat) (fcsOk : Bool) (act : State → State) (hf : ∀ t : State, t.Onward (act t)) :
    s₀.Onward (State.macConsume s p len fcsOk act) := by
  unfold State.macConsume
  dsimp only
  repeat' first
    | with_reducible exact h | with_reducible exact .refl _ | with_reducible apply State.macCount_onward
    | with_reducible apply State.act_onward | with_reducible refine State.Onward.trans ?_ (hf _) | split

theorem State.forwardEgress_onward {s₀ s : State} (h : s₀.Onward s) (p : Nat) (c : Nat) (f : Frame) (yellow : Bool) (tag : Option Nat) :
    s₀.Onward (State.forwardEgress s p c f yellow tag) := by
  unfold State.forwardEgress
  repeat' first
    | with_reducible exact h | with_reducible exact .refl _ | with_reducible apply State.refuseFrame_onward
    | with_reducible apply State.admitFrame_onward | with_reducible apply State.passPoint_onward
    | with_reducible apply State.releaseTag_onward | with_reducible apply State.admitBridged_onward | split

theorem State.policedFrame_onward {s₀ s : State} (h : s₀.Onward s) (p : Nat) (c : Nat) (f : Frame) :
    s₀.Onward (State.policedFrame s p c f) := by
  unfold State.policedFrame
  dsimp only
  repeat' first
    | with_reducible exact h | with_reducible exact .refl _ | with_reducible apply State.drawTag_onward
    | with_reducible apply State.police_onward | with_reducible apply State.count_onward
    | with_reducible apply State.refuseFrame_onward | with_reducible apply State.releaseTag_onward
    | with_reducible apply State.when_onward | with_reducible apply State.forwardEgress_onward | intro _ | split

theorem State.clientFrame_onward {s₀ s : State} (h : s₀.Onward s) (p : Nat) (f : Frame) (macControl : Bool) :
    s₀.Onward (State.clientFrame s p f macControl) := by
  unfold State.clientFrame
  dsimp only
  repeat' first
    | with_reducible exact h | with_reducible exact .refl _ | with_reducible apply State.macConsume_onward
    | with_reducible apply State.count_onward | with_reducible apply State.macCount_onward
    | with_reducible apply State.policedFrame_onward | intro _ | split

theorem State.sendPfc_onward {s₀ s : State} (h : s₀.Onward s) (p : Nat) :
    s₀.Onward (State.sendPfc s p) := by
  unfold State.sendPfc
  dsimp only
  repeat' first
    | with_reducible exact h | with_reducible exact .refl _ | with_reducible apply State.upTo_onward
    | with_reducible apply State.when_onward | with_reducible apply State.native_onward
    | with_reducible apply State.count_onward | with_reducible apply State.wr_onward
    | with_reducible apply State.say_onward | intro _ | split | with_reducible apply onward_mk

theorem execPfcFrameTx_onward (s : State) (port : Fin 32) :
    Completes s (execPfcFrameTx port s) := by
  unfold execPfcFrameTx
  repeat' first
    | apply completes_next | with_reducible exact .refl _ | with_reducible apply State.sendPfc_onward
    | with_reducible apply State.begin_onward

theorem State.repeatXoff_onward {s₀ s : State} (h : s₀.Onward s) (p : Nat) (c : Nat) :
    s₀.Onward (State.repeatXoff s p c) := by
  unfold State.repeatXoff
  repeat' first
    | with_reducible exact h | with_reducible exact .refl _ | split | with_reducible apply onward_mk

theorem execPfcXoffRepeat_onward (s : State) (port : Fin 32) (cls : Fin 8) :
    Completes s (execPfcXoffRepeat port cls s) := by
  unfold execPfcXoffRepeat
  repeat' first
    | apply completes_next | with_reducible exact .refl _ | with_reducible apply State.repeatXoff_onward
    | with_reducible apply State.begin_onward

theorem State.pauseClass_onward {s₀ s : State} (h : s₀.Onward s) (p : Nat) (vector : Nat) (times : List Nat) (c : Nat) :
    s₀.Onward (State.pauseClass s p vector times c) := by
  unfold State.pauseClass
  repeat' first
    | with_reducible exact h | with_reducible exact .refl _ | with_reducible apply State.unbit_onward
    | with_reducible apply State.bit_onward | with_reducible apply State.native_onward | split

theorem execPfcRx_onward (s : State) (port : Fin 32) (len : Nat) (fcsOk : Bool) (vector : Nat) (times : List Nat) :
    Completes s (execPfcRx port len fcsOk vector times s) := by
  unfold execPfcRx
  repeat' first
    | apply completes_next | with_reducible exact .refl _ | with_reducible apply State.macConsume_onward
    | with_reducible apply State.count_onward | with_reducible apply State.upTo_onward
    | with_reducible apply State.pauseClass_onward | with_reducible apply State.begin_onward | intro _

theorem execPfcPauseExpiry_onward (s : State) (port : Fin 32) (cls : Fin 8) :
    Completes s (execPfcPauseExpiry port cls s) := by
  unfold execPfcPauseExpiry
  repeat' first
    | apply completes_next | with_reducible exact .refl _ | with_reducible apply State.unbit_onward
    | with_reducible apply State.begin_onward

theorem State.portLink_onward {s₀ s : State} (h : s₀.Onward s) (p : Nat) (pcs : Bool) (lf : Bool) (rf : Bool) :
    s₀.Onward (State.portLink s p pcs lf rf) := by
  unfold State.portLink
  dsimp only
  repeat' first
    | with_reducible exact h | with_reducible exact .refl _ | with_reducible apply State.wrb_onward
    | with_reducible apply State.refreshLink_onward | split | with_reducible apply onward_mk

theorem execPortLinkChange_onward (s : State) (port : Fin 32) (pcsAligned : Bool) (lf : Bool) (rf : Bool) :
    Completes s (execPortLinkChange port pcsAligned lf rf s) := by
  unfold execPortLinkChange
  repeat' first
    | apply completes_next | with_reducible exact .refl _ | with_reducible apply State.portLink_onward
    | with_reducible apply State.begin_onward

theorem State.checkTest_onward {s₀ s : State} (h : s₀.Onward s) (atPort : Bool) (place : Nat) (f : Frame) :
    s₀.Onward (State.checkTest s atPort place f) := by
  unfold State.checkTest
  dsimp only
  repeat' first
    | with_reducible exact h | with_reducible exact .refl _ | with_reducible apply State.count_onward
    | with_reducible apply State.when_onward | intro _ | split | with_reducible apply onward_mk

theorem State.generate_onward {s₀ s : State} (h : s₀.Onward s) :
    s₀.Onward (State.generate s) := by
  unfold State.generate
  dsimp only
  repeat' first
    | with_reducible exact h | with_reducible exact .refl _ | with_reducible apply State.admitFrame_onward | split
    | with_reducible apply onward_mk

theorem execTpgFrame_onward (s : State) :
    Completes s (execTpgFrame s) := by
  unfold execTpgFrame
  repeat' first
    | apply completes_next | with_reducible exact .refl _ | with_reducible apply State.generate_onward
    | with_reducible apply State.begin_onward

theorem State.passEight_onward {s₀ s : State} (h : s₀.Onward s) (k : Option Nat) (first : Bool) :
    s₀.Onward (State.passEight s k first) := by
  unfold State.passEight
  repeat' first
    | with_reducible exact h | with_reducible exact .refl _ | with_reducible apply State.passWithin_onward
    | with_reducible apply State.passPoint_onward | split

theorem State.deliver_onward {s₀ s : State} (h : s₀.Onward s) (w : Wing) (ch : Nat) (f : Frame) (waits : List Nat) (from_ : FirstByte) :
    s₀.Onward (State.deliver s w ch f waits from_) := by
  unfold State.deliver
  dsimp only
  repeat' first
    | with_reducible exact h | with_reducible exact .refl _ | with_reducible apply State.drawTag_onward
    | with_reducible apply State.passAt_onward | with_reducible apply State.passEight_onward
    | with_reducible apply State.admitFrame_onward | with_reducible apply State.when_onward
    | with_reducible apply State.passWithin_onward | intro _ | split

theorem State.cutFrame_onward {s₀ s : State} (h : s₀.Onward s) (w : Wing) (c : Nat) :
    s₀.Onward (State.cutFrame s w c) := by
  unfold State.cutFrame
  repeat' first
    | with_reducible exact h | with_reducible exact .refl _ | with_reducible apply State.count_onward
    | with_reducible apply State.onPm_onward | intro _ | split | with_reducible apply onward_mk

theorem State.demap_onward {s₀ s : State} (h : s₀.Onward s) (w : Wing) (c : Nat) (f : Frame) (later : Nat) (cut : Bool) (from_ : FirstByte) :
    s₀.Onward (State.demap s w c f later cut from_) := by
  unfold State.demap
  dsimp only
  repeat' first
    | with_reducible exact h | with_reducible exact .refl _ | with_reducible apply State.cutFrame_onward
    | with_reducible apply State.when_onward | with_reducible apply State.count_onward
    | with_reducible apply State.rxOpen_onward | with_reducible apply State.checkTest_onward
    | with_reducible apply State.deliver_onward | intro _ | split | with_reducible apply onward_mk

theorem execLineFrameDemap_onward (s : State) (w : Wing) (ch : Fin 32) (f : Frame) (later : Fin 64) (cut : Bool) (from_ : FirstByte) :
    Completes s (execLineFrameDemap w ch f later cut from_ s) := by
  unfold execLineFrameDemap
  repeat' first
    | apply completes_next | with_reducible exact .refl _ | with_reducible apply State.demap_onward
    | with_reducible apply State.begin_onward

end Sys2Proof.Machine
end

