-- ==== Sys2Proof/Laws/OnwardCoding.lean ====
section
/-!
SUPPORT. `State.Onward` over the operations of Machine/Coding.lean.
-/

namespace Sys2Proof.Machine

theorem State.sendGcc_onward {s₀ s : State} (h : s₀.Onward s) (w : Wing) (m : GccMsg) :
    s₀.Onward (State.sendGcc s w m) := by
  unfold State.sendGcc
  repeat' first
    | with_reducible exact h | with_reducible exact .refl _ | with_reducible apply State.say_onward
    | with_reducible apply State.onOtn_onward | intro _ | with_reducible apply onward_mk

theorem State.putBlocks_onward {s₀ s : State} (h : s₀.Onward s) (ch : Nat) (bs : List Block66) :
    s₀.Onward (State.putBlocks s ch bs) := by
  unfold State.putBlocks
  dsimp only
  repeat' first
    | with_reducible exact h | with_reducible exact .refl _ | with_reducible apply State.onOtn_onward | intro _
    | with_reducible apply onward_mk

theorem State.nextBlocks_onward {s₀ s : State} (h : s₀.Onward s) (ch : Nat) (n : Nat) :
    s₀.Onward (State.nextBlocks s ch n).2 := by
  unfold State.nextBlocks
  dsimp only
  repeat' first
    | with_reducible exact h | with_reducible exact .refl _ | with_reducible apply State.onOtn_onward | intro _
    | with_reducible apply onward_mk

theorem State.boxBlocks_onward {s₀ s : State} (h : s₀.Onward s) (ch : Nat) (bs : List Block66) :
    s₀.Onward (State.boxBlocks s ch bs) := by
  unfold State.boxBlocks
  dsimp only
  repeat' first
    | with_reducible exact h | with_reducible exact .refl _ | with_reducible apply State.onOtn_onward | intro _
    | with_reducible apply onward_mk

theorem State.fillFrame_onward {s₀ s : State} (h : s₀.Onward s) (w : Wing) (c : Nat) (k : Nat) (lck : Bool) :
    s₀.Onward (State.fillFrame s w c k lck).2 := by
  unfold State.fillFrame
  dsimp only
  repeat' first
    | with_reducible exact h | with_reducible exact .refl _ | with_reducible apply State.onOtn_onward | intro _
    | split | with_reducible apply onward_mk

end Sys2Proof.Machine
end

