-- ==== Sys2Proof/Laws/OnwardSched.lean ====
section
/-!
SUPPORT. `State.Onward` over the operations of Machine/Sched.lean.
-/

namespace Sys2Proof.Machine

theorem State.cellsBad_onward {s₀ s : State} (h : s₀.Onward s) (x : Queued) (l : MemLine) :
    s₀.Onward (State.cellsBad s x l) := by
  unfold State.cellsBad
  dsimp only
  repeat' first
    | with_reducible exact h | with_reducible exact .refl _ | with_reducible apply State.uncorrectable_onward
    | with_reducible apply State.evt_onward | split | with_reducible apply onward_mk

theorem State.readCells_onward {s₀ s : State} (h : s₀.Onward s) (x : Queued) (line : MemLine) (found : EccRead) :
    s₀.Onward (State.readCells s x line found).2 := by
  unfold State.readCells
  dsimp only
  repeat' first
    | with_reducible exact h | with_reducible exact .refl _ | with_reducible apply State.correct_onward
    | with_reducible apply State.cellsBad_onward | split | with_reducible apply onward_mk

theorem State.mapFrame_onward {s₀ s : State} (h : s₀.Onward s) (ch : Nat) (f : Frame) :
    s₀.Onward (State.mapFrame s ch f) := by
  unfold State.mapFrame
  dsimp only
  repeat' first
    | with_reducible exact h | with_reducible exact .refl _ | with_reducible apply State.putBlocks_onward
    | with_reducible apply onward_mk

theorem State.tagOut_onward {s₀ s : State} (h : s₀.Onward s) (q : Nat) (tag : Option Nat) :
    s₀.Onward (State.tagOut s q tag) := by
  unfold State.tagOut
  dsimp only
  repeat' first
    | with_reducible exact h | with_reducible exact .refl _ | with_reducible apply State.passPoint_onward
    | with_reducible apply State.passWithin_onward | with_reducible apply State.releaseTag_onward | split

theorem State.handOn_onward {s₀ s : State} (h : s₀.Onward s) (q : Nat) (f : Frame) :
    s₀.Onward (State.handOn s q f) := by
  unfold State.handOn
  dsimp only
  repeat' first
    | with_reducible exact h | with_reducible exact .refl _ | with_reducible apply State.mapFrame_onward
    | with_reducible apply State.say_onward | with_reducible apply State.count_onward
    | with_reducible apply State.checkTest_onward | with_reducible apply State.when_onward | intro _ | split

theorem State.charge_onward {s₀ s : State} (h : s₀.Onward s) (q : Nat) (len : Nat) :
    s₀.Onward (State.charge s q len) := by
  unfold State.charge
  dsimp only
  repeat' first
    | with_reducible exact h | with_reducible exact .refl _ | with_reducible apply State.setTokens_onward
    | with_reducible apply State.countQ_onward | with_reducible apply State.native_onward
    | with_reducible apply onward_mk

theorem State.busyWith_onward {s₀ s : State} (h : s₀.Onward s) (q : Nat) (len : Nat) :
    s₀.Onward (State.busyWith s q len) := by
  unfold State.busyWith
  dsimp only
  repeat' first
    | with_reducible exact h | with_reducible exact .refl _ | split | with_reducible apply onward_mk

theorem State.select_onward {s₀ s : State} (h : s₀.Onward s) (q : Nat) (line : MemLine) (found : EccRead) :
    s₀.Onward (State.select s q line found) := by
  unfold State.select
  dsimp only
  repeat' first
    | with_reducible exact h | with_reducible exact .refl _ | with_reducible apply State.ueControl_onward
    | with_reducible apply State.flushDamaged_onward | with_reducible apply State.when_onward
    | with_reducible apply State.correct_onward | with_reducible apply State.readCells_onward
    | with_reducible apply State.charge_onward | with_reducible apply State.busyWith_onward
    | with_reducible apply State.pop_onward | with_reducible apply State.handOn_onward
    | with_reducible apply State.tagOut_onward | intro _ | split

theorem State.passOn_onward {s₀ s : State} (h : s₀.Onward s) (q : Nat) :
    s₀.Onward (State.passOn s q) := by
  unfold State.passOn
  dsimp only
  repeat' first
    | with_reducible exact h | with_reducible exact .refl _ | with_reducible apply State.native_onward
    | with_reducible apply State.charge_onward | with_reducible apply State.busyWith_onward
    | with_reducible apply State.pop_onward | with_reducible apply State.handOn_onward
    | with_reducible apply State.tagOut_onward | split

theorem State.passThrough_onward {s₀ s : State} (h : s₀.Onward s) (s' : State) (p : Nat) (c : Nat) :
    s₀.Onward (State.passThrough s' s p c) := by
  unfold State.passThrough
  repeat' first
    | with_reducible exact h | with_reducible exact .refl _ | with_reducible apply State.when_onward
    | with_reducible apply State.passOn_onward | with_reducible apply onward_foldl | intro _

theorem execClientFrameRx_onward (s : State) (port : Fin 32) (f : Frame) (macControl : Bool) :
    Completes s (execClientFrameRx port f macControl s) := by
  unfold execClientFrameRx
  dsimp only
  repeat' first
    | apply completes_next | with_reducible exact .refl _ | with_reducible apply State.begin_onward
    | with_reducible apply State.passThrough_onward | with_reducible apply State.clientFrame_onward

theorem execSchedSelect_onward (s : State) (inst : Fin 96) (line : MemLine) (found : EccRead) :
    Completes s (execSchedSelect inst line found s) := by
  unfold execSchedSelect
  dsimp only
  repeat' first
    | apply completes_next | with_reducible exact .refl _ | with_reducible apply State.begin_onward
    | with_reducible apply State.select_onward | split

theorem State.overrun_onward {s₀ s : State} (h : s₀.Onward s) (ch : Nat) (oldGates : Nat) (newGates : Nat) (at_ : Nat) :
    s₀.Onward (State.overrun s ch oldGates newGates at_) := by
  unfold State.overrun
  dsimp only
  repeat' first
    | with_reducible exact h | with_reducible exact .refl _ | with_reducible apply State.countWrap_onward
    | with_reducible apply State.evt_onward | split

theorem State.showGates_onward {s₀ s : State} (h : s₀.Onward s) (ch : Nat) :
    s₀.Onward (State.showGates s ch) := by
  unfold State.showGates
  repeat' first
    | with_reducible exact h | with_reducible exact .refl _ | with_reducible apply State.wr_onward

theorem State.setEntryAt_onward {s₀ s : State} (h : s₀.Onward s) (ch : Nat) (t : Nat) :
    s₀.Onward (State.setEntryAt s ch t) := by
  unfold State.setEntryAt
  repeat' first
    | with_reducible exact h | with_reducible exact .refl _ | with_reducible apply onward_mk

theorem State.nextEntry_onward {s₀ s : State} (h : s₀.Onward s) (ch : Nat) :
    s₀.Onward (State.nextEntry s ch) := by
  unfold State.nextEntry
  dsimp only
  repeat' first
    | with_reducible exact h | with_reducible exact .refl _ | with_reducible apply State.setEntryAt_onward
    | with_reducible apply State.when_onward | with_reducible apply State.takeGateEn_onward
    | with_reducible apply State.overrun_onward | with_reducible apply State.reguard_onward
    | with_reducible apply State.showGates_onward | intro _

theorem State.shiftGate_onward {s₀ s : State} (h : s₀.Onward s) (was : State) (ch : Nat) :
    s₀.Onward (State.shiftGate s was ch) := by
  unfold State.shiftGate
  dsimp only
  repeat' first
    | with_reducible exact h | with_reducible exact .refl _ | split | with_reducible apply onward_mk

theorem State.stepGate_onward {s₀ s : State} (h : s₀.Onward s) (was : State) (ch : Nat) :
    s₀.Onward (State.stepGate s was ch) := by
  unfold State.stepGate
  dsimp only
  repeat' first
    | with_reducible exact h | with_reducible exact .refl _ | with_reducible apply State.shiftGate_onward
    | with_reducible apply State.overrun_onward | with_reducible apply State.showGates_onward

theorem execGclEntryStart_onward (s : State) (ch : Fin 64) :
    Completes s (execGclEntryStart ch s) := by
  unfold execGclEntryStart
  repeat' first
    | apply completes_next | with_reducible exact .refl _ | with_reducible apply State.nextEntry_onward
    | with_reducible apply State.begin_onward

theorem State.activateGates_onward {s₀ s : State} (h : s₀.Onward s) (ch : Nat) :
    s₀.Onward (State.activateGates s ch) := by
  unfold State.activateGates
  dsimp only
  repeat' first
    | with_reducible exact h | with_reducible exact .refl _ | with_reducible apply State.wrb_onward
    | with_reducible apply onward_mk

theorem execGclActivate_onward (s : State) (req : Req) (ch : Fin 64) :
    Completes s (execGclActivate req ch s) := by
  unfold execGclActivate
  repeat' first
    | apply completes_next | with_reducible exact .refl _ | with_reducible apply State.via_onward
    | with_reducible apply State.activateGates_onward | with_reducible apply State.begin_onward | intro _

theorem State.gateTiming_onward {s₀ s : State} (h : s₀.Onward s) (ch : Nat) (cycle : Option Nat) (base : Option Nat) :
    s₀.Onward (State.gateTiming s ch cycle base) := by
  unfold State.gateTiming
  dsimp only
  repeat' first
    | with_reducible exact h | with_reducible exact .refl _ | with_reducible apply State.wr_onward
    | with_reducible apply State.wrWide_onward | with_reducible apply State.when_onward
    | with_reducible apply State.activateGates_onward | intro _ | split

theorem execGclTimingWrite_onward (s : State) (req : Req) (ch : Fin 64) (cycle : Option Nat) (base : Option Nat) :
    Completes s (execGclTimingWrite req ch cycle base s) := by
  unfold execGclTimingWrite
  repeat' first
    | apply completes_next | with_reducible exact .refl _ | with_reducible apply State.via_onward
    | with_reducible apply State.gateTiming_onward | with_reducible apply State.begin_onward | intro _

theorem State.swapGates_onward {s₀ s : State} (h : s₀.Onward s) (ch : Nat) :
    s₀.Onward (State.swapGates s ch) := by
  unfold State.swapGates
  dsimp only
  repeat' first
    | with_reducible exact h | with_reducible exact .refl _ | with_reducible apply State.wrb_onward
    | with_reducible apply State.setEntryAt_onward | with_reducible apply State.takeGateEn_onward
    | with_reducible apply State.overrun_onward | with_reducible apply State.reguard_onward
    | with_reducible apply State.showGates_onward | with_reducible apply State.evt_onward | split
    | with_reducible apply onward_mk

theorem execGclSwap_onward (s : State) (ch : Fin 64) :
    Completes s (execGclSwap ch s) := by
  unfold execGclSwap
  repeat' first
    | apply completes_next | with_reducible exact .refl _ | with_reducible apply State.swapGates_onward
    | with_reducible apply State.begin_onward

theorem State.storeEntry_onward {s₀ s : State} (h : s₀.Onward s) (ivl : Nat) :
    s₀.Onward (State.storeEntry s ivl) := by
  unfold State.storeEntry
  dsimp only
  repeat' first
    | with_reducible exact h | with_reducible exact .refl _ | with_reducible apply State.wr_onward
    | with_reducible apply onward_mk

theorem execGclWivlWrite_onward (s : State) (req : Req) (ivl : Nat) :
    Completes s (execGclWivlWrite req ivl s) := by
  unfold execGclWivlWrite
  repeat' first
    | apply completes_next | with_reducible exact .refl _ | with_reducible apply State.via_onward
    | with_reducible apply State.storeEntry_onward | with_reducible apply State.begin_onward | intro _

end Sys2Proof.Machine
end

