-- ==== Sys2Proof/Laws/OnwardProtect.lean ====
section
/-!
SUPPORT. `State.Onward` over the operations of Machine/Protect.lean.
-/

namespace Sys2Proof.Machine

theorem State.showAsks_onward {s₀ s : State} (h : s₀.Onward s) (g : Nat) :
    s₀.Onward (State.showAsks s g) := by
  unfold State.showAsks
  dsimp only
  repeat' first
    | with_reducible exact h | with_reducible exact .refl _ | with_reducible apply State.wr_onward

theorem State.selectMember_onward {s₀ s : State} (h : s₀.Onward s) (g : Nat) (w : Wing) :
    s₀.Onward (State.selectMember s g w) := by
  unfold State.selectMember
  dsimp only
  repeat' first
    | with_reducible exact h | with_reducible exact .refl _ | with_reducible apply State.wrb_onward
    | with_reducible apply State.countWrap_onward | with_reducible apply State.evt_onward
    | with_reducible apply State.upTo_onward | with_reducible apply State.watchClass_onward | intro _

theorem State.dropManual_onward {s₀ s : State} (h : s₀.Onward s) (g : Nat) :
    s₀.Onward (State.dropManual s g) := by
  unfold State.dropManual
  repeat' first
    | with_reducible exact h | with_reducible exact .refl _ | with_reducible apply State.wr_onward | split

theorem State.endWaits_onward {s₀ s : State} (h : s₀.Onward s) (g : Nat) :
    s₀.Onward (State.endWaits s g) := by
  unfold State.endWaits
  dsimp only
  repeat' first
    | with_reducible exact h | with_reducible exact .refl _ | with_reducible apply State.when_onward
    | with_reducible apply State.wrb_onward | intro _ | split | with_reducible apply onward_mk

theorem State.reselect_onward {s₀ s : State} (h : s₀.Onward s) (g : Nat) :
    s₀.Onward (State.reselect s g) := by
  unfold State.reselect
  dsimp only
  repeat' first
    | with_reducible exact h | with_reducible exact .refl _ | with_reducible apply State.dropManual_onward
    | with_reducible apply State.endWaits_onward | with_reducible apply State.when_onward
    | with_reducible apply State.selectMember_onward | with_reducible apply State.showAsks_onward | intro _ | split

theorem State.startRestore_onward {s₀ s : State} (h : s₀.Onward s) (g : Nat) :
    s₀.Onward (State.startRestore s g) := by
  unfold State.startRestore
  repeat' first
    | with_reducible exact h | with_reducible exact .refl _ | with_reducible apply State.wrb_onward | split
    | with_reducible apply onward_mk

theorem State.takeCond_onward {s₀ s : State} (h : s₀.Onward s) (g : Nat) (w : Wing) (cond : Nat) :
    s₀.Onward (State.takeCond s g w cond) := by
  unfold State.takeCond
  dsimp only
  repeat' first
    | with_reducible exact h | with_reducible exact .refl _ | with_reducible apply State.wr_onward
    | with_reducible apply State.unbit_onward | with_reducible apply State.when_onward
    | with_reducible apply State.startRestore_onward | with_reducible apply State.reselect_onward | intro _

theorem State.condChange_onward {s₀ s : State} (h : s₀.Onward s) (g : Nat) (w : Wing) :
    s₀.Onward (State.condChange s g w) := by
  unfold State.condChange
  dsimp only
  repeat' first
    | with_reducible exact h | with_reducible exact .refl _ | with_reducible apply State.reselect_onward
    | with_reducible apply State.takeCond_onward | with_reducible apply State.wr_onward
    | with_reducible apply State.bit_onward | split

theorem execPgConditionChange_onward (s : State) (g : Fin 8) (m : Wing) :
    Completes s (execPgConditionChange g m s) := by
  unfold execPgConditionChange
  repeat' first
    | apply completes_next | with_reducible exact .refl _ | with_reducible apply State.condChange_onward
    | with_reducible apply State.begin_onward

theorem execHoldoffExpiry_onward (s : State) (g : Fin 8) (m : Wing) :
    Completes s (execHoldoffExpiry g m s) := by
  unfold execHoldoffExpiry
  dsimp only
  repeat' first
    | apply completes_next | with_reducible exact .refl _ | with_reducible apply State.begin_onward
    | with_reducible apply State.takeCond_onward | split

theorem execWtrExpiry_onward (s : State) (g : Fin 8) :
    Completes s (execWtrExpiry g s) := by
  unfold execWtrExpiry
  dsimp only
  repeat' first
    | apply completes_next | with_reducible exact .refl _ | with_reducible apply State.begin_onward
    | with_reducible apply State.wrb_onward | with_reducible apply State.reselect_onward | split

theorem State.pgCommand_onward {s₀ s : State} (h : s₀.Onward s) (g : Nat) (held : Nat) (prio : Nat) :
    s₀.Onward (State.pgCommand s g held prio) := by
  unfold State.pgCommand
  repeat' first
    | with_reducible exact h | with_reducible exact .refl _ | with_reducible apply State.wr_onward
    | with_reducible apply State.reselect_onward | with_reducible apply State.wrb_onward | split

theorem execPgClear_onward (s : State) (req : Req) (g : Fin 8) :
    Completes s (execPgClear req g s) := by
  unfold execPgClear
  repeat' first
    | apply completes_next | with_reducible exact .refl _ | with_reducible apply State.via_onward
    | with_reducible apply State.wr_onward | with_reducible apply State.wrb_onward
    | with_reducible apply State.reselect_onward | with_reducible apply State.begin_onward | intro _

theorem execPgLockout_onward (s : State) (req : Req) (g : Fin 8) :
    Completes s (execPgLockout req g s) := by
  unfold execPgLockout
  repeat' first
    | apply completes_next | with_reducible exact .refl _ | with_reducible apply State.via_onward
    | with_reducible apply State.pgCommand_onward | with_reducible apply State.begin_onward | intro _

theorem execPgForce_onward (s : State) (req : Req) (g : Fin 8) :
    Completes s (execPgForce req g s) := by
  unfold execPgForce
  repeat' first
    | apply completes_next | with_reducible exact .refl _ | with_reducible apply State.via_onward
    | with_reducible apply State.pgCommand_onward | with_reducible apply State.begin_onward | intro _

theorem execPgManualP_onward (s : State) (req : Req) (g : Fin 8) :
    Completes s (execPgManualP req g s) := by
  unfold execPgManualP
  repeat' first
    | apply completes_next | with_reducible exact .refl _ | with_reducible apply State.via_onward
    | with_reducible apply State.pgCommand_onward | with_reducible apply State.begin_onward | intro _

theorem execPgManualW_onward (s : State) (req : Req) (g : Fin 8) :
    Completes s (execPgManualW req g s) := by
  unfold execPgManualW
  repeat' first
    | apply completes_next | with_reducible exact .refl _ | with_reducible apply State.via_onward
    | with_reducible apply State.pgCommand_onward | with_reducible apply State.begin_onward | intro _

theorem execFopRaise_onward (s : State) (g : Fin 8) :
    Completes s (execFopRaise g s) := by
  unfold execFopRaise
  dsimp only
  repeat' first
    | apply completes_next | with_reducible exact .refl _ | with_reducible apply State.begin_onward
    | with_reducible apply State.wrb_onward | with_reducible apply State.countWrap_onward
    | with_reducible apply State.evt_onward | with_reducible apply State.reselect_onward | split

theorem execFopClear_onward (s : State) (g : Fin 8) :
    Completes s (execFopClear g s) := by
  unfold execFopClear
  dsimp only
  repeat' first
    | apply completes_next | with_reducible exact .refl _ | with_reducible apply State.begin_onward
    | with_reducible apply State.wrb_onward | with_reducible apply State.reselect_onward | split

end Sys2Proof.Machine
end

