-- ==== Sys2Proof/Laws/OnwardOtn.lean ====
section
/-!
SUPPORT. `State.Onward` over the operations of Machine/Otn.lean.
-/

namespace Sys2Proof.Machine

theorem State.fillSlots_onward {s₀ s : State} (h : s₀.Onward s) (w : Wing) (map : List Nat) (a0 : Nat) :
    s₀.Onward (State.fillSlots s w map a0).2 := by
  induction a0 generalizing s w map with
  | zero =>
    rw [State.fillSlots]
    try dsimp only
    repeat' first
      | with_reducible exact h | with_reducible exact .refl _ | with_reducible apply State.fillFrame_onward | split
  | succ n ih =>
    rw [State.fillSlots]
    try dsimp only
    repeat' first
      | with_reducible apply ih
      | with_reducible exact h | with_reducible exact .refl _ | with_reducible apply State.fillFrame_onward | split

theorem State.supply_onward {s₀ s : State} (h : s₀.Onward s) (w : Wing) (bits : List Bool) :
    s₀.Onward (State.supply s w bits) := by
  unfold State.supply
  repeat' first
    | with_reducible exact h | with_reducible exact .refl _ | with_reducible apply State.onTx_onward | intro _
    | with_reducible apply onward_mk

theorem State.sendFrame_onward {s₀ s : State} (h : s₀.Onward s) (w : Wing) :
    s₀.Onward (State.sendFrame s w) := by
  unfold State.sendFrame
  dsimp only
  repeat' first
    | with_reducible exact h | with_reducible exact .refl _ | with_reducible apply State.fillSlots_onward
    | with_reducible apply State.wrb_onward | with_reducible apply State.wr_onward
    | with_reducible apply State.say_onward | with_reducible apply State.supply_onward
    | with_reducible apply State.onPm_onward | with_reducible apply State.onOtn_onward | intro _ | split
    | with_reducible apply onward_mk

theorem execOtnFrameTx_onward (s : State) (w : Wing) :
    Completes s (execOtnFrameTx w s) := by
  unfold execOtnFrameTx
  dsimp only
  repeat' first
    | apply completes_next | with_reducible exact .refl _ | with_reducible apply State.begin_onward
    | with_reducible apply State.sendFrame_onward | split

theorem State.seeSsf_onward {s₀ s : State} (h : s₀.Onward s) (w : Wing) (c : Nat) :
    s₀.Onward (State.seeSsf s w c) := by
  unfold State.seeSsf
  dsimp only
  repeat' first
    | with_reducible exact h | with_reducible exact .refl _ | with_reducible apply State.when_onward
    | with_reducible apply State.onPm_onward | intro _ | with_reducible apply onward_mk

theorem State.noteSsf_onward {s₀ s : State} (h : s₀.Onward s) (w : Wing) :
    s₀.Onward (State.noteSsf s w) := by
  unfold State.noteSsf
  dsimp only
  repeat' first
    | with_reducible exact h | with_reducible exact .refl _ | with_reducible apply State.when_onward
    | with_reducible apply State.onOtn_onward | with_reducible apply State.upTo_onward
    | with_reducible apply State.seeSsf_onward | with_reducible apply State.onPm_onward | intro _
    | with_reducible apply onward_mk

theorem State.setCands_onward {s₀ s : State} (h : s₀.Onward s) (w : Wing) (cs : List Candidate) :
    s₀.Onward (State.setCands s w cs) := by
  unfold State.setCands
  repeat' first
    | with_reducible exact h | with_reducible exact .refl _ | with_reducible apply State.onOtn_onward
    | with_reducible apply State.wr_onward | intro _ | with_reducible apply onward_mk

theorem State.dropMissed_onward {s₀ s : State} (h : s₀.Onward s) (w : Wing) :
    s₀.Onward (State.dropMissed s w) := by
  unfold State.dropMissed
  dsimp only
  repeat' first
    | with_reducible exact h | with_reducible exact .refl _ | with_reducible apply State.count_onward
    | with_reducible apply State.setCands_onward | intro _

theorem State.seek_onward {s₀ s : State} (h : s₀.Onward s) (w : Wing) :
    s₀.Onward (State.seek s w) := by
  unfold State.seek
  dsimp only
  repeat' first
    | with_reducible exact h | with_reducible exact .refl _ | with_reducible apply State.onOtn_onward
    | with_reducible apply State.dropMissed_onward | intro _ | with_reducible apply onward_mk

theorem State.advance_onward {s₀ s : State} (h : s₀.Onward s) (w : Wing) :
    s₀.Onward (State.advance s w) := by
  unfold State.advance
  repeat' first
    | with_reducible exact h | with_reducible exact .refl _ | with_reducible apply State.onOtn_onward
    | with_reducible apply State.seek_onward | split

theorem State.otnTake_onward {s₀ s : State} (h : s₀.Onward s) (w : Wing) (era : Option (Nat × Nat)) (info : List (Bool × Bool)) :
    s₀.Onward (State.otnTake s w era info) := by
  unfold State.otnTake
  dsimp only
  repeat' first
    | with_reducible exact h | with_reducible exact .refl _ | with_reducible apply State.onOtn_onward
    | with_reducible apply State.advance_onward | intro _ | split | with_reducible apply onward_mk

theorem State.startSearch_onward {s₀ s : State} (h : s₀.Onward s) (w : Wing) :
    s₀.Onward (State.startSearch s w) := by
  unfold State.startSearch
  repeat' first
    | with_reducible exact h | with_reducible exact .refl _ | with_reducible apply State.wrb_onward
    | with_reducible apply State.setCands_onward | with_reducible apply State.seek_onward

theorem State.openStream_onward {s₀ s : State} (h : s₀.Onward s) (w : Wing) :
    s₀.Onward (State.openStream s w) := by
  unfold State.openStream
  repeat' first
    | with_reducible exact h | with_reducible exact .refl _ | with_reducible apply State.onOtn_onward
    | with_reducible apply State.startSearch_onward | intro _ | with_reducible apply onward_mk

theorem State.stopSearch_onward {s₀ s : State} (h : s₀.Onward s) (w : Wing) :
    s₀.Onward (State.stopSearch s w) := by
  unfold State.stopSearch
  repeat' first
    | with_reducible exact h | with_reducible exact .refl _ | with_reducible apply State.wrb_onward
    | with_reducible apply State.setCands_onward | with_reducible apply State.onOtn_onward | intro _
    | with_reducible apply onward_mk

theorem State.declareIf_onward {s₀ s : State} (h : s₀.Onward s) (w : Wing) (c : Candidate) :
    s₀.Onward (State.declareIf s w c) := by
  unfold State.declareIf
  repeat' first
    | with_reducible exact h | with_reducible exact .refl _ | with_reducible apply State.setCands_onward
    | with_reducible apply State.wrb_onward | with_reducible apply State.evt_onward
    | with_reducible apply State.onOtn_onward | intro _ | with_reducible apply onward_mk

theorem State.pastFas_onward {s₀ s : State} (h : s₀.Onward s) (w : Wing) :
    s₀.Onward (State.pastFas s w) := by
  unfold State.pastFas
  repeat' first
    | with_reducible exact h | with_reducible exact .refl _ | with_reducible apply State.onOtn_onward
    | with_reducible apply State.seek_onward | intro _ | with_reducible apply onward_mk

theorem State.fasMatch_onward {s₀ s : State} (h : s₀.Onward s) (w : Wing) :
    s₀.Onward (State.fasMatch s w) := by
  unfold State.fasMatch
  dsimp only
  repeat' first
    | with_reducible exact h | with_reducible exact .refl _ | with_reducible apply State.confirm_onward
    | with_reducible apply State.declareIf_onward | with_reducible apply State.setCands_onward
    | with_reducible apply State.pastFas_onward | with_reducible apply State.when_onward | intro _ | split

theorem execFasSearchMatch_onward (s : State) (w : Wing) :
    Completes s (execFasSearchMatch w s) := by
  unfold execFasSearchMatch
  dsimp only
  repeat' first
    | apply completes_next | with_reducible exact .refl _ | with_reducible apply State.begin_onward
    | with_reducible apply State.fasMatch_onward | split

theorem State.outOfFrame_onward {s₀ s : State} (h : s₀.Onward s) (w : Wing) :
    s₀.Onward (State.outOfFrame s w) := by
  unfold State.outOfFrame
  dsimp only
  repeat' first
    | with_reducible exact h | with_reducible exact .refl _ | with_reducible apply State.wrb_onward
    | with_reducible apply State.count_onward | with_reducible apply State.evt_onward
    | with_reducible apply State.onOtn_onward | with_reducible apply State.noteSsf_onward | intro _ | split
    | with_reducible apply onward_mk

theorem execOofDeclare_onward (s : State) (w : Wing) :
    Completes s (execOofDeclare w s) := by
  unfold execOofDeclare
  dsimp only
  repeat' first
    | apply completes_next | with_reducible exact .refl _ | with_reducible apply State.begin_onward
    | with_reducible apply State.outOfFrame_onward | with_reducible apply State.startSearch_onward | split

theorem execOomDeclare_onward (s : State) (w : Wing) :
    Completes s (execOomDeclare w s) := by
  unfold execOomDeclare
  dsimp only
  repeat' first
    | apply completes_next | with_reducible exact .refl _ | with_reducible apply State.begin_onward
    | with_reducible apply State.wrb_onward | with_reducible apply State.onOtn_onward
    | with_reducible apply State.noteSsf_onward | intro _ | split | with_reducible apply onward_mk

theorem State.takeMfas_onward {s₀ s : State} (h : s₀.Onward s) (w : Wing) (m : Nat) :
    s₀.Onward (State.takeMfas s w m) := by
  unfold State.takeMfas
  dsimp only
  repeat' first
    | with_reducible exact h | with_reducible exact .refl _ | with_reducible apply State.wr_onward
    | with_reducible apply State.onOtn_onward | with_reducible apply State.wrb_onward | intro _ | split
    | with_reducible apply onward_mk

theorem State.takeMfx_onward {s₀ s : State} (h : s₀.Onward s) (w : Wing) (m : Nat) (x : Nat) :
    s₀.Onward (State.takeMfx s w m x) := by
  unfold State.takeMfx
  dsimp only
  repeat' first
    | with_reducible exact h | with_reducible exact .refl _ | with_reducible apply State.onOtn_onward
    | with_reducible apply State.when_onward | with_reducible apply State.wrb_onward
    | with_reducible apply State.wr_onward | intro _ | split | with_reducible apply onward_mk

theorem State.smBlock_onward {s₀ s : State} (h : s₀.Onward s) (w : Wing) (f : OtnFrame) :
    s₀.Onward (State.smBlock s w f) := by
  unfold State.smBlock
  dsimp only
  repeat' first
    | with_reducible exact h | with_reducible exact .refl _ | with_reducible apply State.count_onward
    | with_reducible apply State.onOtn_onward | intro _ | split | with_reducible apply onward_mk

theorem State.smStatus_onward {s₀ s : State} (h : s₀.Onward s) (w : Wing) (f : OtnFrame) :
    s₀.Onward (State.smStatus s w f) := by
  unfold State.smStatus
  repeat' first
    | with_reducible exact h | with_reducible exact .refl _ | with_reducible apply State.onOtn_onward | intro _
    | split | with_reducible apply onward_mk

theorem State.smTrace_onward {s₀ s : State} (h : s₀.Onward s) (w : Wing) (f : OtnFrame) :
    s₀.Onward (State.smTrace s w f) := by
  unfold State.smTrace
  dsimp only
  repeat' first
    | with_reducible exact h | with_reducible exact .refl _ | with_reducible apply State.onOtn_onward
    | with_reducible apply State.upTo_onward | with_reducible apply State.wr_onward
    | with_reducible apply State.evt_onward | intro _ | split | with_reducible apply onward_mk

theorem State.pmBlock_onward {s₀ s : State} (h : s₀.Onward s) (w : Wing) (c : Nat) (f : OtnFrame) :
    s₀.Onward (State.pmBlock s w c f) := by
  unfold State.pmBlock
  dsimp only
  repeat' first
    | with_reducible exact h | with_reducible exact .refl _ | with_reducible apply State.count_onward
    | with_reducible apply State.onPm_onward | intro _ | split | with_reducible apply onward_mk

theorem State.pmStatus_onward {s₀ s : State} (h : s₀.Onward s) (w : Wing) (c : Nat) (f : OtnFrame) :
    s₀.Onward (State.pmStatus s w c f) := by
  unfold State.pmStatus
  repeat' first
    | with_reducible exact h | with_reducible exact .refl _ | with_reducible apply State.onPm_onward | intro _ | split
    | with_reducible apply onward_mk

theorem State.pmAps_onward {s₀ s : State} (h : s₀.Onward s) (w : Wing) (c : Nat) (f : OtnFrame) :
    s₀.Onward (State.pmAps s w c f) := by
  unfold State.pmAps
  dsimp only
  repeat' first
    | with_reducible exact h | with_reducible exact .refl _ | with_reducible apply State.onPm_onward
    | with_reducible apply State.when_onward | with_reducible apply State.countWrap_onward | intro _ | split
    | with_reducible apply onward_mk

theorem State.pmTrace_onward {s₀ s : State} (h : s₀.Onward s) (w : Wing) (c : Nat) (f : OtnFrame) :
    s₀.Onward (State.pmTrace s w c f) := by
  unfold State.pmTrace
  dsimp only
  repeat' first
    | with_reducible exact h | with_reducible exact .refl _ | with_reducible apply State.onPm_onward
    | with_reducible apply State.upTo_onward | with_reducible apply State.wr_onward
    | with_reducible apply State.evt_onward | intro _ | split | with_reducible apply onward_mk

theorem State.receiveFrame_onward {s₀ s : State} (h : s₀.Onward s) (w : Wing) (f : OtnFrame) :
    s₀.Onward (State.receiveFrame s w f) := by
  unfold State.receiveFrame
  dsimp only
  repeat' first
    | with_reducible exact h | with_reducible exact .refl _ | with_reducible apply State.takeMfas_onward
    | with_reducible apply State.takeMfx_onward | with_reducible apply State.smBlock_onward
    | with_reducible apply State.smStatus_onward | with_reducible apply State.smTrace_onward
    | with_reducible apply State.pmBlock_onward | with_reducible apply State.pmStatus_onward
    | with_reducible apply State.pmAps_onward | with_reducible apply State.pmTrace_onward
    | with_reducible apply State.onOtn_onward | with_reducible apply onward_foldl | intro _ | split

theorem State.examine_onward {s₀ s : State} (h : s₀.Onward s) (w : Wing) (f : OtnFrame) :
    s₀.Onward (State.examine s w f) := by
  unfold State.examine
  dsimp only
  repeat' first
    | with_reducible exact h | with_reducible exact .refl _ | with_reducible apply State.onOtn_onward
    | with_reducible apply State.receiveFrame_onward | intro _ | split | with_reducible apply onward_mk

theorem execOtnFrameRx_onward (s : State) (w : Wing) :
    Completes s (execOtnFrameRx w s) := by
  unfold execOtnFrameRx
  dsimp only
  repeat' first
    | apply completes_next | with_reducible exact .refl _ | with_reducible apply State.begin_onward
    | with_reducible apply State.examine_onward | split

theorem State.setSm_onward {s₀ s : State} (h : s₀.Onward s) (w : Wing) (d : Nat) (on : Bool) :
    s₀.Onward (State.setSm s w d on) := by
  unfold State.setSm
  repeat' first
    | with_reducible exact h | with_reducible exact .refl _ | with_reducible apply State.wrb_onward
    | with_reducible apply State.when_onward | with_reducible apply State.bit_onward
    | with_reducible apply State.noteSsf_onward | intro _

theorem State.restartSeen_onward {s₀ s : State} (h : s₀.Onward s) (w : Wing) :
    s₀.Onward (State.restartSeen s w) := by
  unfold State.restartSeen
  dsimp only
  repeat' first
    | with_reducible exact h | with_reducible exact .refl _ | with_reducible apply State.upTo_onward
    | with_reducible apply State.when_onward | with_reducible apply State.bit_onward
    | with_reducible apply State.wr_onward | intro _

theorem State.setPm_onward {s₀ s : State} (h : s₀.Onward s) (w : Wing) (c : Nat) (d : Nat) (on : Bool) :
    s₀.Onward (State.setPm s w c d on) := by
  unfold State.setPm
  dsimp only
  repeat' first
    | with_reducible exact h | with_reducible exact .refl _ | with_reducible apply State.bit_onward
    | with_reducible apply State.unbit_onward | with_reducible apply State.noteSsf_onward | split

theorem execDefectChange_onward (s : State) (w : Wing) (d : Fin 14) (ch : Fin 32) :
    Completes s (execDefectChange w d ch s) := by
  unfold execDefectChange
  dsimp only
  repeat' first
    | apply completes_next | with_reducible exact .refl _ | with_reducible apply State.begin_onward
    | with_reducible apply State.setSm_onward | with_reducible apply State.setPm_onward | split

theorem State.smDegSecond_onward {s₀ s : State} (h : s₀.Onward s) (w : Wing) :
    s₀.Onward (State.smDegSecond s w) := by
  unfold State.smDegSecond
  dsimp only
  repeat' first
    | with_reducible exact h | with_reducible exact .refl _ | with_reducible apply State.onOtn_onward
    | with_reducible apply State.setSm_onward | intro _ | split | with_reducible apply onward_mk

theorem State.smDegTenth_onward {s₀ s : State} (h : s₀.Onward s) (w : Wing) :
    s₀.Onward (State.smDegTenth s w) := by
  unfold State.smDegTenth
  dsimp only
  repeat' first
    | with_reducible exact h | with_reducible exact .refl _ | with_reducible apply State.window_onward
    | with_reducible apply State.onOtn_onward | with_reducible apply State.setSm_onward | intro _ | split
    | with_reducible apply onward_mk

theorem State.pmDegSecond_onward {s₀ s : State} (h : s₀.Onward s) (w : Wing) (c : Nat) :
    s₀.Onward (State.pmDegSecond s w c) := by
  unfold State.pmDegSecond
  dsimp only
  repeat' first
    | with_reducible exact h | with_reducible exact .refl _ | with_reducible apply State.onPm_onward
    | with_reducible apply State.setPm_onward | intro _ | split | with_reducible apply onward_mk

theorem State.pmDegTenth_onward {s₀ s : State} (h : s₀.Onward s) (w : Wing) (skip : Bool) (c : Nat) :
    s₀.Onward (State.pmDegTenth s w skip c) := by
  unfold State.pmDegTenth
  dsimp only
  repeat' first
    | with_reducible exact h | with_reducible exact .refl _ | with_reducible apply State.window_onward
    | with_reducible apply State.onPm_onward | with_reducible apply State.setPm_onward | intro _ | split
    | with_reducible apply onward_mk

theorem State.degrade_onward {s₀ s : State} (h : s₀.Onward s) (w : Wing) (second : Bool) :
    s₀.Onward (State.degrade s w second) := by
  unfold State.degrade
  dsimp only
  repeat' first
    | with_reducible exact h | with_reducible exact .refl _ | with_reducible apply State.when_onward
    | with_reducible apply State.smDegSecond_onward | with_reducible apply State.upTo_onward
    | with_reducible apply State.pmDegSecond_onward | with_reducible apply State.smDegTenth_onward
    | with_reducible apply State.pmDegTenth_onward | intro _ | split

theorem execDegEval_onward (s : State) (w : Wing) (second : Bool) :
    Completes s (execDegEval w second s) := by
  unfold execDegEval
  repeat' first
    | apply completes_next | with_reducible exact .refl _ | with_reducible apply State.degrade_onward
    | with_reducible apply State.begin_onward

theorem State.showSmFail_onward {s₀ s : State} (h : s₀.Onward s) (w : Wing) :
    s₀.Onward (State.showSmFail s w) := by
  unfold State.showSmFail
  dsimp only
  repeat' first
    | with_reducible exact h | with_reducible exact .refl _ | with_reducible apply State.upTo_onward
    | with_reducible apply State.wrb_onward | with_reducible apply State.when_onward
    | with_reducible apply State.evt_onward | intro _

theorem State.showPmFail_onward {s₀ s : State} (h : s₀.Onward s) (w : Wing) (c : Nat) :
    s₀.Onward (State.showPmFail s w c) := by
  unfold State.showPmFail
  dsimp only
  repeat' first
    | with_reducible exact h | with_reducible exact .refl _ | with_reducible apply State.wr_onward
    | with_reducible apply State.evt_onward | split

theorem State.showFails_onward {s₀ s : State} (h : s₀.Onward s) (w : Wing) :
    s₀.Onward (State.showFails s w) := by
  unfold State.showFails
  repeat' first
    | with_reducible exact h | with_reducible exact .refl _ | with_reducible apply State.showSmFail_onward
    | with_reducible apply State.upTo_onward | with_reducible apply State.showPmFail_onward | intro _

theorem State.setFail_onward {s₀ s : State} (h : s₀.Onward s) (w : Wing) (d : Nat) (c : Nat) (on : Bool) :
    s₀.Onward (State.setFail s w d c on) := by
  unfold State.setFail
  dsimp only
  repeat' first
    | with_reducible exact h | with_reducible exact .refl _ | with_reducible apply State.onOtn_onward
    | with_reducible apply State.onPm_onward | with_reducible apply State.showFails_onward | intro _ | split
    | with_reducible apply onward_mk

theorem execFailureDeclare_onward (s : State) (w : Wing) (d : Fin 14) (ch : Fin 32) :
    Completes s (execFailureDeclare w d ch s) := by
  unfold execFailureDeclare
  dsimp only
  repeat' first
    | apply completes_next | with_reducible exact .refl _ | with_reducible apply State.begin_onward
    | with_reducible apply State.setFail_onward | split

theorem execFailureClear_onward (s : State) (w : Wing) (d : Fin 14) (ch : Fin 32) :
    Completes s (execFailureClear w d ch s) := by
  unfold execFailureClear
  dsimp only
  repeat' first
    | apply completes_next | with_reducible exact .refl _ | with_reducible apply State.begin_onward
    | with_reducible apply State.setFail_onward | split

theorem State.acceptAps_onward {s₀ s : State} (h : s₀.Onward s) (w : Wing) (c : Nat) (g : Nat) :
    s₀.Onward (State.acceptAps s w c g) := by
  unfold State.acceptAps
  dsimp only
  repeat' first
    | with_reducible exact h | with_reducible exact .refl _ | with_reducible apply State.wr_onward
    | with_reducible apply State.countWrap_onward | with_reducible apply State.evt_onward
    | with_reducible apply State.reselect_onward | with_reducible apply onward_mk

theorem execApsAccept_onward (s : State) (w : Wing) (ch : Fin 32) :
    Completes s (execApsAccept w ch s) := by
  unfold execApsAccept
  dsimp only
  repeat' first
    | apply completes_next | with_reducible exact .refl _ | with_reducible apply State.begin_onward
    | with_reducible apply State.acceptAps_onward | split

theorem execGcc0MsgRx_onward (s : State) (w : Wing) :
    Completes s (execGcc0MsgRx w s) := by
  unfold execGcc0MsgRx
  dsimp only
  repeat' first
    | apply completes_next | with_reducible exact .refl _ | with_reducible apply State.begin_onward
    | with_reducible apply State.countWrap_onward | with_reducible apply State.onOtn_onward | intro _ | split
    | with_reducible apply onward_mk

end Sys2Proof.Machine
end

