-- ==== Sys2Proof/Laws/OnwardIcmQueue.lean ====
section
/-!
SUPPORT. `State.Onward` over the operations of Machine/IcmQueue.lean.
-/

namespace Sys2Proof.Machine

theorem State.onIcm_onward {s₀ s : State} (h : s₀.Onward s) (w : Wing) (f : IcmSide → IcmSide) :
    s₀.Onward (State.onIcm s w f) := by
  unfold State.onIcm
  repeat' first
    | with_reducible exact h | with_reducible exact .refl _ | with_reducible apply onward_mk

theorem State.showQueued_onward {s₀ s : State} (h : s₀.Onward s) (w : Wing) :
    s₀.Onward (State.showQueued s w) := by
  unfold State.showQueued
  repeat' first
    | with_reducible exact h | with_reducible exact .refl _ | with_reducible apply State.wr_onward

theorem State.icmQueue_onward {s₀ s : State} (h : s₀.Onward s) (w : Wing) (m : IcmMsg) :
    s₀.Onward (State.icmQueue s w m) := by
  unfold State.icmQueue
  repeat' first
    | with_reducible exact h | with_reducible exact .refl _ | with_reducible apply State.onIcm_onward
    | with_reducible apply State.showQueued_onward | intro _ | with_reducible apply onward_mk

theorem State.queueAlarm_onward {s₀ s : State} (h : s₀.Onward s) (w : Wing) :
    s₀.Onward (State.queueAlarm s w) := by
  unfold State.queueAlarm
  dsimp only
  repeat' first
    | with_reducible exact h | with_reducible exact .refl _ | with_reducible apply State.onIcm_onward
    | with_reducible apply State.icmQueue_onward | intro _ | split | with_reducible apply onward_mk

theorem State.queueBringup_onward {s₀ s : State} (h : s₀.Onward s) (w : Wing) :
    s₀.Onward (State.queueBringup s w) := by
  unfold State.queueBringup
  repeat' first
    | with_reducible exact h | with_reducible exact .refl _ | with_reducible apply State.onIcm_onward
    | with_reducible apply State.icmQueue_onward | intro _ | with_reducible apply onward_mk

theorem State.icmRefresh_onward {s₀ s : State} (h : s₀.Onward s) (w : Wing) :
    s₀.Onward (State.icmRefresh s w) := by
  unfold State.icmRefresh
  dsimp only
  repeat' first
    | with_reducible exact h | with_reducible exact .refl _ | with_reducible apply State.when_onward
    | with_reducible apply State.queueAlarm_onward | with_reducible apply State.queueBringup_onward | intro _ | split

theorem State.icmAbort_onward {s₀ s : State} (h : s₀.Onward s) (w : Wing) :
    s₀.Onward (State.icmAbort s w) := by
  unfold State.icmAbort
  dsimp only
  repeat' first
    | with_reducible exact h | with_reducible exact .refl _ | with_reducible apply State.onIcm_onward
    | with_reducible apply State.countWrap_onward | with_reducible apply State.evt_onward
    | with_reducible apply State.showQueued_onward | intro _ | split | with_reducible apply onward_mk

theorem State.icmSearch_onward {s₀ s : State} (h : s₀.Onward s) (w : Wing) :
    s₀.Onward (State.icmSearch s w) := by
  unfold State.icmSearch
  repeat' first
    | with_reducible exact h | with_reducible exact .refl _ | with_reducible apply State.wr_onward
    | with_reducible apply State.wrb_onward | with_reducible apply State.onIcm_onward | intro _
    | with_reducible apply onward_mk

theorem State.icmOutput_onward {s₀ s : State} (h : s₀.Onward s) (w : Wing) (v : Int) (unsettled : Bool) :
    s₀.Onward (State.icmOutput s w v unsettled) := by
  unfold State.icmOutput
  dsimp only
  repeat' first
    | with_reducible exact h | with_reducible exact .refl _ | with_reducible apply State.onIcm_onward
    | with_reducible apply State.countWrap_onward | intro _ | split | with_reducible apply onward_mk

end Sys2Proof.Machine
end

