-- ==== Sys2Proof/Laws/OnwardFec.lean ====
section
/-!
SUPPORT. `State.Onward` over the operations of Machine/Fec.lean.
-/

namespace Sys2Proof.Machine

theorem State.onDec_onward {s₀ s : State} (h : s₀.Onward s) (w : Wing) (f : Decoder → Decoder) :
    s₀.Onward (State.onDec s w f) := by
  unfold State.onDec
  repeat' first
    | with_reducible exact h | with_reducible exact .refl _ | with_reducible apply onward_mk

theorem State.showAcct_onward {s₀ s : State} (h : s₀.Onward s) (w : Wing) (t : Nat) (n : Nat) (fec : Nat) :
    s₀.Onward (State.showAcct s w t n fec) := by
  unfold State.showAcct
  repeat' first
    | with_reducible exact h | with_reducible exact .refl _ | with_reducible apply State.wr_onward

theorem State.countBlock_onward {s₀ s : State} (h : s₀.Onward s) (w : Wing) (b : BlockResult) :
    s₀.Onward (State.countBlock s w b) := by
  unfold State.countBlock
  dsimp only
  repeat' first
    | with_reducible exact h | with_reducible exact .refl _ | with_reducible apply State.zero_onward
    | with_reducible apply State.countWide_onward | split

theorem State.blockOut_onward {s₀ s : State} (h : s₀.Onward s) (w : Wing) (h' : HeldBlock) (bits : List Bool) (r : BlockResult) :
    s₀.Onward (State.blockOut s w h' bits r) := by
  unfold State.blockOut
  dsimp only
  repeat' first
    | with_reducible exact h | with_reducible exact .refl _ | with_reducible apply State.countBlock_onward
    | with_reducible apply State.wr_onward | with_reducible apply State.onDec_onward
    | with_reducible apply State.say_onward | with_reducible apply State.otnTake_onward | intro _ | split

theorem State.passAgain_onward {s₀ s : State} (h : s₀.Onward s) (w : Wing) (h' : HeldBlock) (first : List Bool) (firstZero : Bool) :
    s₀.Onward (State.passAgain s w h' first firstZero) := by
  unfold State.passAgain
  dsimp only
  repeat' first
    | with_reducible exact h | with_reducible exact .refl _ | with_reducible apply State.onDec_onward | intro _
    | split | with_reducible apply onward_mk

theorem State.oldestOut_onward {s₀ s : State} (h : s₀.Onward s) (w : Wing) (b : BlockRx) :
    s₀.Onward (State.oldestOut s w b) := by
  unfold State.oldestOut
  dsimp only
  repeat' first
    | with_reducible exact h | with_reducible exact .refl _ | with_reducible apply State.passAgain_onward
    | with_reducible apply State.blockOut_onward | with_reducible apply State.onDec_onward | intro _ | split
    | with_reducible apply onward_mk

theorem State.blockIn_onward {s₀ s : State} (h : s₀.Onward s) (w : Wing) (b : BlockRx) :
    s₀.Onward (State.blockIn s w b) := by
  unfold State.blockIn
  dsimp only
  repeat' first
    | with_reducible exact h | with_reducible exact .refl _ | with_reducible apply State.onDec_onward | intro _
    | with_reducible apply onward_mk

theorem execFecBlockDecode_onward (s : State) (w : Wing) (b : BlockRx) :
    Completes s (execFecBlockDecode w b s) := by
  unfold execFecBlockDecode
  dsimp only
  repeat' first
    | apply completes_next | with_reducible exact .refl _ | with_reducible apply State.begin_onward
    | with_reducible apply State.blockIn_onward | with_reducible apply State.oldestOut_onward | split

theorem State.flushBlocks_onward {s₀ s : State} (h : s₀.Onward s) (w : Wing) :
    s₀.Onward (State.flushBlocks s w) := by
  unfold State.flushBlocks
  repeat' first
    | with_reducible exact h | with_reducible exact .refl _ | with_reducible apply State.blockOut_onward
    | with_reducible apply State.onDec_onward | with_reducible apply onward_foldl | intro _
    | with_reducible apply onward_mk

theorem execFecLock_onward (s : State) (w : Wing) :
    Completes s (execFecLock w s) := by
  unfold execFecLock
  dsimp only
  repeat' first
    | apply completes_next | with_reducible exact .refl _ | with_reducible apply State.begin_onward
    | with_reducible apply State.wrb_onward | with_reducible apply State.evt_onward
    | with_reducible apply State.onDec_onward | with_reducible apply State.window_onward
    | with_reducible apply State.openStream_onward | intro _ | split | with_reducible apply onward_mk

theorem State.sfMismatch_onward {s₀ s : State} (h : s₀.Onward s) (w : Wing) (n : Nat) :
    s₀.Onward (State.sfMismatch s w n) := by
  unfold State.sfMismatch
  dsimp only
  repeat' first
    | with_reducible exact h | with_reducible exact .refl _ | split | with_reducible apply onward_mk

theorem State.setFecSf_onward {s₀ s : State} (h : s₀.Onward s) (w : Wing) (on : Bool) (n : Nat) :
    s₀.Onward (State.setFecSf s w on n) := by
  unfold State.setFecSf
  repeat' first
    | with_reducible exact h | with_reducible exact .refl _ | with_reducible apply State.wrb_onward
    | with_reducible apply State.evt_onward | with_reducible apply State.icmRefresh_onward
    | with_reducible apply State.when_onward | with_reducible apply State.sfMismatch_onward | intro _ | split

theorem State.fecUnlock_onward {s₀ s : State} (h : s₀.Onward s) (w : Wing) :
    s₀.Onward (State.fecUnlock s w) := by
  unfold State.fecUnlock
  dsimp only
  repeat' first
    | with_reducible exact h | with_reducible exact .refl _ | with_reducible apply State.wrb_onward
    | with_reducible apply State.evt_onward | with_reducible apply State.onDec_onward
    | with_reducible apply State.window_onward | with_reducible apply State.setFecSf_onward
    | with_reducible apply State.outOfFrame_onward | with_reducible apply State.stopSearch_onward
    | with_reducible apply State.noteSsf_onward | intro _ | split | with_reducible apply onward_mk

theorem execFecLockLoss_onward (s : State) (w : Wing) :
    Completes s (execFecLockLoss w s) := by
  unfold execFecLockLoss
  dsimp only
  repeat' first
    | apply completes_next | with_reducible exact .refl _ | with_reducible apply State.begin_onward
    | with_reducible apply State.fecUnlock_onward | split

theorem State.showRxAcct_onward {s₀ s : State} (h : s₀.Onward s) (w : Wing) :
    s₀.Onward (State.showRxAcct s w) := by
  unfold State.showRxAcct
  repeat' first
    | with_reducible exact h | with_reducible exact .refl _ | with_reducible apply State.showAcct_onward

theorem State.fecBoundary_onward {s₀ s : State} (h : s₀.Onward s) (w : Wing) :
    s₀.Onward (State.fecBoundary s w) := by
  unfold State.fecBoundary
  repeat' first
    | with_reducible exact h | with_reducible exact .refl _ | with_reducible apply State.showRxAcct_onward
    | with_reducible apply State.onDec_onward | intro _ | with_reducible apply onward_mk

theorem execDfecSfChange_onward (s : State) (w : Wing) :
    Completes s (execDfecSfChange w s) := by
  unfold execDfecSfChange
  dsimp only
  repeat' first
    | apply completes_next | with_reducible exact .refl _ | with_reducible apply State.begin_onward
    | with_reducible apply State.setFecSf_onward | split

theorem State.setFecSd_onward {s₀ s : State} (h : s₀.Onward s) (w : Wing) (on : Bool) :
    s₀.Onward (State.setFecSd s w on) := by
  unfold State.setFecSd
  repeat' first
    | with_reducible exact h | with_reducible exact .refl _ | with_reducible apply State.wrb_onward
    | with_reducible apply State.evt_onward | split

theorem State.sdWindow_onward {s₀ s : State} (h : s₀.Onward s) (w : Wing) :
    s₀.Onward (State.sdWindow s w) := by
  unfold State.sdWindow
  dsimp only
  repeat' first
    | with_reducible exact h | with_reducible exact .refl _ | with_reducible apply State.window_onward
    | with_reducible apply State.onDec_onward | with_reducible apply State.setFecSd_onward | split
    | with_reducible apply onward_mk

theorem execDfecSdWindow_onward (s : State) (w : Wing) :
    Completes s (execDfecSdWindow w s) := by
  unfold execDfecSdWindow
  dsimp only
  repeat' first
    | apply completes_next | with_reducible exact .refl _ | with_reducible apply State.begin_onward
    | with_reducible apply State.window_onward | with_reducible apply State.sdWindow_onward | split

end Sys2Proof.Machine
end

