-- ==== Sys2Proof/Laws/OnwardHeader.lean ====
section
/-!
SUPPORT. `State.Onward` over the operations of Machine/Header.lean.
-/

namespace Sys2Proof.Machine

theorem State.sendHeader_onward {s₀ s : State} (h : s₀.Onward s) (w : Wing) :
    s₀.Onward (State.sendHeader s w) := by
  unfold State.sendHeader
  dsimp only
  repeat' first
    | with_reducible exact h | with_reducible exact .refl _ | with_reducible apply State.say_onward
    | with_reducible apply onward_mk

end Sys2Proof.Machine
end

