-- ==== Sys2Proof/Laws/OnwardElastic.lean ====
section
/-!
SUPPORT. `State.Onward` over the operations of Machine/Elastic.lean.
-/

namespace Sys2Proof.Machine

theorem State.onRx_onward {s₀ s : State} (h : s₀.Onward s) (w : Wing) (f : RxLine → RxLine) :
    s₀.Onward (State.onRx s w f) := by
  unfold State.onRx
  repeat' first
    | with_reducible exact h | with_reducible exact .refl _ | with_reducible apply onward_mk

theorem State.settleAdvice_onward {s₀ s : State} (h : s₀.Onward s) (w : Wing) :
    s₀.Onward (State.settleAdvice s w) := by
  unfold State.settleAdvice
  dsimp only
  repeat' first
    | with_reducible exact h | with_reducible exact .refl _ | with_reducible apply State.onTx_onward | intro _ | split
    | with_reducible apply onward_mk

theorem State.showAnn_onward {s₀ s : State} (h : s₀.Onward s) (w : Wing) (x : Wanted) (seq : Nat) (count : Nat) (slots : Nat) :
    s₀.Onward (State.showAnn s w x seq count slots) := by
  unfold State.showAnn
  dsimp only
  repeat' first
    | with_reducible exact h | with_reducible exact .refl _ | with_reducible apply State.wrb_onward
    | with_reducible apply State.wr_onward | with_reducible apply State.count_onward

theorem State.beginAnn_onward {s₀ s : State} (h : s₀.Onward s) (w : Wing) (x : Wanted) (en : Nat) (seq : Nat) (count : Nat) :
    s₀.Onward (State.beginAnn s w x en seq count) := by
  unfold State.beginAnn
  dsimp only
  repeat' first
    | with_reducible exact h | with_reducible exact .refl _ | with_reducible apply State.showAnn_onward
    | with_reducible apply State.count_onward | with_reducible apply State.showCounts_onward
    | with_reducible apply State.when_onward | with_reducible apply State.evt_onward
    | with_reducible apply State.countWrap_onward | with_reducible apply State.onTx_onward
    | with_reducible apply State.fresh_onward | intro _ | with_reducible apply onward_mk

theorem State.spendAdvice_onward {s₀ s : State} (h : s₀.Onward s) (w : Wing) (x : Wanted) :
    s₀.Onward (State.spendAdvice s w x) := by
  unfold State.spendAdvice
  repeat' first
    | with_reducible exact h | with_reducible exact .refl _ | with_reducible apply State.onTx_onward | intro _ | split
    | with_reducible apply onward_mk

theorem State.announce_onward {s₀ s : State} (h : s₀.Onward s) (w : Wing) (x : Wanted) :
    s₀.Onward (State.announce s w x) := by
  unfold State.announce
  dsimp only
  repeat' first
    | with_reducible exact h | with_reducible exact .refl _ | with_reducible apply State.spendAdvice_onward
    | with_reducible apply State.beginAnn_onward | with_reducible apply State.wr_onward
    | with_reducible apply State.wrb_onward | with_reducible apply State.sendHeader_onward

theorem State.sendAnnounce_onward {s₀ s : State} (h : s₀.Onward s) (w : Wing) (x : Wanted) :
    s₀.Onward (State.sendAnnounce s w x) := by
  unfold State.sendAnnounce
  dsimp only
  repeat' first
    | with_reducible exact h | with_reducible exact .refl _ | with_reducible apply State.icmQueue_onward
    | with_reducible apply State.announce_onward

theorem State.announceIcm_onward {s₀ s : State} (h : s₀.Onward s) (w : Wing) (x : Wanted) :
    s₀.Onward (State.announceIcm s w x) := by
  unfold State.announceIcm
  dsimp only
  repeat' first
    | with_reducible exact h | with_reducible exact .refl _ | with_reducible apply State.spendAdvice_onward
    | with_reducible apply State.onTx_onward | with_reducible apply State.wr_onward
    | with_reducible apply State.sendAnnounce_onward | intro _ | with_reducible apply onward_mk

theorem execAnnounceStart_onward (s : State) (w : Wing) :
    Completes s (execAnnounceStart w s) := by
  unfold execAnnounceStart
  dsimp only
  repeat' first
    | apply completes_next | with_reducible exact .refl _ | with_reducible apply State.begin_onward
    | with_reducible apply State.announce_onward | split

theorem State.endAnn_onward {s₀ s : State} (h : s₀.Onward s) (w : Wing) :
    s₀.Onward (State.endAnn s w) := by
  unfold State.endAnn
  repeat' first
    | with_reducible exact h | with_reducible exact .refl _ | with_reducible apply State.wrb_onward
    | with_reducible apply State.wr_onward | with_reducible apply State.onTx_onward
    | with_reducible apply State.fresh_onward | intro _ | with_reducible apply onward_mk

theorem State.withdraw_onward {s₀ s : State} (h : s₀.Onward s) (w : Wing) :
    s₀.Onward (State.withdraw s w) := by
  unfold State.withdraw
  dsimp only
  repeat' first
    | with_reducible exact h | with_reducible exact .refl _ | with_reducible apply State.endAnn_onward
    | with_reducible apply State.showCounts_onward | with_reducible apply State.wr_onward
    | with_reducible apply State.countWrap_onward | with_reducible apply State.evt_onward
    | with_reducible apply State.onTx_onward | with_reducible apply State.sendHeader_onward | intro _
    | with_reducible apply onward_mk

theorem execAnnCommitPoint_onward (s : State) (w : Wing) :
    Completes s (execAnnCommitPoint w s) := by
  unfold execAnnCommitPoint
  dsimp only
  repeat' first
    | apply completes_next | with_reducible exact .refl _ | with_reducible apply State.begin_onward
    | with_reducible apply State.wr_onward | with_reducible apply State.evt_onward
    | with_reducible apply State.withdraw_onward | split

theorem State.switchTx_onward {s₀ s : State} (h : s₀.Onward s) (w : Wing) (h' : Nat) (fec : Nat) (enabled : Nat) (m : List Nat) (counts : List Nat) :
    s₀.Onward (State.switchTx s w h' fec enabled m counts) := by
  unfold State.switchTx
  dsimp only
  repeat' first
    | with_reducible exact h | with_reducible exact .refl _ | with_reducible apply State.setLineCur_onward
    | with_reducible apply State.setTxMap_onward | with_reducible apply State.showCounts_onward
    | with_reducible apply State.onTx_onward | with_reducible apply State.applyDrain_onward
    | with_reducible apply State.wr_onward | with_reducible apply State.showAcct_onward | intro _
    | with_reducible apply onward_mk

theorem State.afterSwitch_onward {s₀ s : State} (h : s₀.Onward s) (w : Wing) (x : Wanted) :
    s₀.Onward (State.afterSwitch s w x) := by
  unfold State.afterSwitch
  dsimp only
  repeat' first
    | with_reducible exact h | with_reducible exact .refl _ | with_reducible apply State.when_onward
    | with_reducible apply State.countWrap_onward | with_reducible apply State.endAnn_onward
    | with_reducible apply State.wrb_onward | with_reducible apply State.wr_onward
    | with_reducible apply State.evt_onward | with_reducible apply State.onTx_onward
    | with_reducible apply State.settleAdvice_onward | intro _ | split | with_reducible apply onward_mk

theorem execRateSwitch_onward (s : State) (w : Wing) :
    Completes s (execRateSwitch w s) := by
  unfold execRateSwitch
  dsimp only
  repeat' first
    | apply completes_next | with_reducible exact .refl _ | with_reducible apply State.begin_onward
    | with_reducible apply State.switchTx_onward | with_reducible apply State.afterSwitch_onward
    | with_reducible apply State.sendHeader_onward | split

theorem execAnnounceRetry_onward (s : State) (w : Wing) :
    Completes s (execAnnounceRetry w s) := by
  unfold execAnnounceRetry
  dsimp only
  repeat' first
    | apply completes_next | with_reducible exact .refl _ | with_reducible apply State.begin_onward
    | with_reducible apply State.announceIcm_onward | with_reducible apply State.announce_onward
    | with_reducible apply State.wr_onward | with_reducible apply State.onTx_onward
    | with_reducible apply State.settleAdvice_onward | intro _ | split | with_reducible apply onward_mk

theorem State.setLoop_onward {s₀ s : State} (h : s₀.Onward s) (w : Wing) (n : Nat) :
    s₀.Onward (State.setLoop s w n) := by
  unfold State.setLoop
  repeat' first
    | with_reducible exact h | with_reducible exact .refl _ | with_reducible apply State.wr_onward

theorem State.ackRx_onward {s₀ s : State} (h : s₀.Onward s) (w : Wing) (seq : Nat) :
    s₀.Onward (State.ackRx s w seq) := by
  unfold State.ackRx
  dsimp only
  repeat' first
    | with_reducible exact h | with_reducible exact .refl _ | with_reducible apply State.setLoop_onward
    | with_reducible apply State.onTx_onward | with_reducible apply State.countWrap_onward | intro _ | split
    | with_reducible apply onward_mk

theorem State.adviceRx_onward {s₀ s : State} (h : s₀.Onward s) (w : Wing) (icm : Bool) (seq : Nat) (h' : Nat) (fec : Nat) (margin : Nat) :
    s₀.Onward (State.adviceRx s w icm seq h' fec margin) := by
  unfold State.adviceRx
  dsimp only
  repeat' first
    | with_reducible exact h | with_reducible exact .refl _ | with_reducible apply State.wrb_onward
    | with_reducible apply State.when_onward | with_reducible apply State.wr_onward
    | with_reducible apply State.evt_onward | with_reducible apply State.settleAdvice_onward | intro _ | split

theorem execAdvStale_onward (s : State) (w : Wing) :
    Completes s (execAdvStale w s) := by
  unfold execAdvStale
  dsimp only
  repeat' first
    | apply completes_next | with_reducible exact .refl _ | with_reducible apply State.begin_onward
    | with_reducible apply State.wrb_onward | split

theorem State.abandon_onward {s₀ s : State} (h : s₀.Onward s) (w : Wing) :
    s₀.Onward (State.abandon s w) := by
  unfold State.abandon
  dsimp only
  repeat' first
    | with_reducible exact h | with_reducible exact .refl _ | with_reducible apply State.endAnn_onward
    | with_reducible apply State.showCounts_onward | with_reducible apply State.wr_onward
    | with_reducible apply State.onTx_onward | with_reducible apply State.trigger_onward | intro _
    | with_reducible apply onward_mk

theorem State.toFloor_onward {s₀ s : State} (h : s₀.Onward s) (w : Wing) :
    s₀.Onward (State.toFloor s w) := by
  unfold State.toFloor
  dsimp only
  repeat' first
    | with_reducible exact h | with_reducible exact .refl _ | with_reducible apply State.switchTx_onward
    | with_reducible apply State.when_onward | with_reducible apply State.evt_onward | intro _

theorem State.storm_onward {s₀ s : State} (h : s₀.Onward s) (w : Wing) :
    s₀.Onward (State.storm s w) := by
  unfold State.storm
  dsimp only
  repeat' first
    | with_reducible exact h | with_reducible exact .refl _ | with_reducible apply State.onTx_onward
    | with_reducible apply State.wr_onward | with_reducible apply State.evt_onward | intro _ | split
    | with_reducible apply onward_mk

theorem State.setIcmRc_onward {s₀ s : State} (h : s₀.Onward s) (w : Wing) :
    s₀.Onward (State.setIcmRc s w) := by
  unfold State.setIcmRc
  dsimp only
  repeat' first
    | with_reducible exact h | with_reducible exact .refl _ | with_reducible apply State.wrb_onward
    | with_reducible apply State.evt_onward | split

theorem State.showRxHs_onward {s₀ s : State} (h : s₀.Onward s) (w : Wing) :
    s₀.Onward (State.showRxHs s w) := by
  unfold State.showRxHs
  dsimp only
  repeat' first
    | with_reducible exact h | with_reducible exact .refl _ | with_reducible apply State.wr_onward
    | with_reducible apply State.wrb_onward

theorem State.onRxHs_onward {s₀ s : State} (h : s₀.Onward s) (w : Wing) (f : RxLine → RxLine) :
    s₀.Onward (State.onRxHs s w f) := by
  unfold State.onRxHs
  dsimp only
  repeat' first
    | with_reducible exact h | with_reducible exact .refl _ | with_reducible apply State.onRx_onward
    | with_reducible apply State.showRxHs_onward | split

theorem State.fallBack_onward {s₀ s : State} (h : s₀.Onward s) (w : Wing) (cause : Nat) :
    s₀.Onward (State.fallBack s w cause) := by
  unfold State.fallBack
  dsimp only
  repeat' first
    | with_reducible exact h | with_reducible exact .refl _ | with_reducible apply State.abandon_onward
    | with_reducible apply State.toFloor_onward | with_reducible apply State.wr_onward
    | with_reducible apply State.wrb_onward | with_reducible apply State.onRxHs_onward
    | with_reducible apply State.follow_onward | with_reducible apply State.countWrap_onward
    | with_reducible apply State.evt_onward | with_reducible apply State.onTx_onward
    | with_reducible apply State.storm_onward | with_reducible apply State.setIcmRc_onward
    | with_reducible apply State.icmRefresh_onward | with_reducible apply State.sendHeader_onward | intro _
    | with_reducible apply onward_mk

theorem State.triggerAtFloor_onward {s₀ s : State} (h : s₀.Onward s) (w : Wing) (cause : Nat) :
    s₀.Onward (State.triggerAtFloor s w cause) := by
  unfold State.triggerAtFloor
  dsimp only
  repeat' first
    | with_reducible exact h | with_reducible exact .refl _ | with_reducible apply State.abandon_onward
    | with_reducible apply State.wr_onward | with_reducible apply State.sendHeader_onward

theorem execFallback_onward (s : State) (w : Wing) :
    Completes s (execFallback w s) := by
  unfold execFallback
  dsimp only
  repeat' first
    | apply completes_next | with_reducible exact .refl _ | with_reducible apply State.begin_onward
    | with_reducible apply State.trigger_onward | with_reducible apply State.onTx_onward
    | with_reducible apply State.triggerAtFloor_onward | with_reducible apply State.fallBack_onward | intro _ | split
    | with_reducible apply onward_mk

theorem State.pull_onward {s₀ s : State} (h : s₀.Onward s) (w : Wing) (cause : Nat) :
    s₀.Onward (State.pull s w cause) := by
  unfold State.pull
  repeat' first
    | with_reducible exact h | with_reducible exact .refl _ | with_reducible apply State.trigger_onward
    | with_reducible apply State.onTx_onward | intro _ | split | with_reducible apply onward_mk

theorem execPolicyResume_onward (s : State) (w : Wing) :
    Completes s (execPolicyResume w s) := by
  unfold execPolicyResume
  dsimp only
  repeat' first
    | apply completes_next | with_reducible exact .refl _ | with_reducible apply State.begin_onward
    | with_reducible apply State.onTx_onward | intro _ | split | with_reducible apply onward_mk

theorem State.setActiveMap_onward {s₀ s : State} (h : s₀.Onward s) (w : Wing) (m : List Nat) :
    s₀.Onward (State.setActiveMap s w m) := by
  unfold State.setActiveMap
  dsimp only
  repeat' first
    | with_reducible exact h | with_reducible exact .refl _ | with_reducible apply State.onRx_onward
    | with_reducible apply State.upTo_onward | with_reducible apply State.when_onward
    | with_reducible apply State.rxAbandon_onward | intro _ | with_reducible apply onward_mk

theorem execMismatchDeclare_onward (s : State) (w : Wing) :
    Completes s (execMismatchDeclare w s) := by
  unfold execMismatchDeclare
  dsimp only
  repeat' first
    | apply completes_next | with_reducible exact .refl _ | with_reducible apply State.begin_onward
    | with_reducible apply State.wrb_onward | with_reducible apply State.wr_onward
    | with_reducible apply State.countWrap_onward | with_reducible apply State.setActiveMap_onward
    | with_reducible apply State.onRxHs_onward | with_reducible apply State.follow_onward
    | with_reducible apply State.onTx_onward | with_reducible apply State.pull_onward | intro _ | split
    | with_reducible apply onward_mk

theorem execIcmAnnounceStart_onward (s : State) (w : Wing) :
    Completes s (execIcmAnnounceStart w s) := by
  unfold execIcmAnnounceStart
  dsimp only
  repeat' first
    | apply completes_next | with_reducible exact .refl _ | with_reducible apply State.begin_onward
    | with_reducible apply State.announceIcm_onward | split

theorem execIcmAnnounceResend_onward (s : State) (w : Wing) :
    Completes s (execIcmAnnounceResend w s) := by
  unfold execIcmAnnounceResend
  dsimp only
  repeat' first
    | apply completes_next | with_reducible exact .refl _ | with_reducible apply State.begin_onward
    | with_reducible apply State.sendAnnounce_onward | with_reducible apply State.onTx_onward | intro _ | split
    | with_reducible apply onward_mk

theorem State.failIcm_onward {s₀ s : State} (h : s₀.Onward s) (w : Wing) (x : Wanted) :
    s₀.Onward (State.failIcm s w x) := by
  unfold State.failIcm
  dsimp only
  repeat' first
    | with_reducible exact h | with_reducible exact .refl _ | with_reducible apply State.wr_onward
    | with_reducible apply State.evt_onward | with_reducible apply State.onTx_onward
    | with_reducible apply State.pull_onward | intro _ | split | with_reducible apply onward_mk

theorem execIcmHandshakeFail_onward (s : State) (w : Wing) :
    Completes s (execIcmHandshakeFail w s) := by
  unfold execIcmHandshakeFail
  dsimp only
  repeat' first
    | apply completes_next | with_reducible exact .refl _ | with_reducible apply State.begin_onward
    | with_reducible apply State.failIcm_onward | split

theorem execEnableChangeRetry_onward (s : State) (w : Wing) :
    Completes s (execEnableChangeRetry w s) := by
  unfold execEnableChangeRetry
  repeat' first
    | apply completes_next | with_reducible exact .refl _ | with_reducible apply State.onTx_onward
    | with_reducible apply State.begin_onward | intro _ | with_reducible apply onward_mk

theorem State.ackIcm_onward {s₀ s : State} (h : s₀.Onward s) (w : Wing) (seq : Nat) :
    s₀.Onward (State.ackIcm s w seq) := by
  unfold State.ackIcm
  dsimp only
  repeat' first
    | with_reducible exact h | with_reducible exact .refl _ | with_reducible apply State.beginAnn_onward
    | with_reducible apply State.wr_onward | with_reducible apply State.evt_onward
    | with_reducible apply State.onTx_onward | with_reducible apply State.fresh_onward | intro _ | split
    | with_reducible apply onward_mk

theorem State.go_onward {s₀ s : State} (h : s₀.Onward s) (w : Wing) :
    s₀.Onward (State.go s w) := by
  unfold State.go
  dsimp only
  repeat' first
    | with_reducible exact h | with_reducible exact .refl _ | with_reducible apply State.onTx_onward | intro _ | split
    | with_reducible apply onward_mk

theorem execGo_onward (s : State) (req : Req) (w : Wing) :
    Completes s (execGo req w s) := by
  unfold execGo
  repeat' first
    | apply completes_next | with_reducible exact .refl _ | with_reducible apply State.via_onward
    | with_reducible apply State.go_onward | with_reducible apply State.begin_onward | intro _

theorem State.leaveHeld_onward {s₀ s : State} (h : s₀.Onward s) (w : Wing) :
    s₀.Onward (State.leaveHeld s w) := by
  unfold State.leaveHeld
  repeat' first
    | with_reducible exact h | with_reducible exact .refl _ | with_reducible apply State.wr_onward
    | with_reducible apply State.onTx_onward | with_reducible apply State.icmRefresh_onward | intro _ | split
    | with_reducible apply onward_mk

theorem State.resumeHeld_onward {s₀ s : State} (h : s₀.Onward s) (w : Wing) :
    s₀.Onward (State.resumeHeld s w) := by
  unfold State.resumeHeld
  repeat' first
    | with_reducible exact h | with_reducible exact .refl _ | with_reducible apply State.leaveHeld_onward
    | with_reducible apply State.onTx_onward | intro _ | split | with_reducible apply onward_mk

theorem execResume_onward (s : State) (req : Req) (w : Wing) :
    Completes s (execResume req w s) := by
  unfold execResume
  repeat' first
    | apply completes_next | with_reducible exact .refl _ | with_reducible apply State.via_onward
    | with_reducible apply State.resumeHeld_onward | with_reducible apply State.begin_onward | intro _

theorem State.forceFloor_onward {s₀ s : State} (h : s₀.Onward s) (w : Wing) :
    s₀.Onward (State.forceFloor s w) := by
  unfold State.forceFloor
  repeat' first
    | with_reducible exact h | with_reducible exact .refl _ | with_reducible apply State.pull_onward | split

theorem execForceFloor_onward (s : State) (req : Req) (w : Wing) :
    Completes s (execForceFloor req w s) := by
  unfold execForceFloor
  repeat' first
    | apply completes_next | with_reducible exact .refl _ | with_reducible apply State.via_onward
    | with_reducible apply State.forceFloor_onward | with_reducible apply State.begin_onward | intro _

theorem execElcModeSet_onward (s : State) (req : Req) (w : Wing) (mode : Fin 4) :
    Completes s (execElcModeSet req w mode s) := by
  unfold execElcModeSet
  repeat' first
    | apply completes_next | with_reducible exact .refl _ | with_reducible apply State.via_onward
    | with_reducible apply State.releaseOne_onward | with_reducible apply State.keepUse_onward
    | with_reducible apply State.wr_onward | with_reducible apply State.begin_onward | intro _ | split

theorem execChanEnableWrite_onward (s : State) (req : Req) (w : Wing) (n : Fin 32) (on : Bool) :
    Completes s (execChanEnableWrite req w n on s) := by
  unfold execChanEnableWrite
  repeat' first
    | apply completes_next | with_reducible exact .refl _ | with_reducible apply State.via_onward
    | with_reducible apply State.when_onward | with_reducible apply State.wrb_onward
    | with_reducible apply State.begin_onward | intro _

end Sys2Proof.Machine
end

