-- ==== Sys2Proof/Laws/OnwardLine.lean ====
section
/-!
SUPPORT. `State.Onward` over the operations of Machine/Line.lean.
-/

namespace Sys2Proof.Machine

theorem State.countDown_onward {s₀ s : State} (h : s₀.Onward s) (w : Wing) :
    s₀.Onward (State.countDown s w) := by
  unfold State.countDown
  dsimp only
  repeat' first
    | with_reducible exact h | with_reducible exact .refl _ | with_reducible apply State.fresh_onward
    | with_reducible apply State.onTx_onward | with_reducible apply State.wr_onward | intro _ | split
    | with_reducible apply onward_mk

theorem State.resumeDue_onward {s₀ s : State} (h : s₀.Onward s) (w : Wing) :
    s₀.Onward (State.resumeDue s w) := by
  unfold State.resumeDue
  repeat' first
    | with_reducible exact h | with_reducible exact .refl _ | with_reducible apply State.when_onward
    | with_reducible apply State.leaveHeld_onward | with_reducible apply State.onTx_onward | intro _
    | with_reducible apply onward_mk

theorem State.showAdvTx_onward {s₀ s : State} (h : s₀.Onward s) (w : Wing) :
    s₀.Onward (State.showAdvTx s w) := by
  unfold State.showAdvTx
  dsimp only
  repeat' first
    | with_reducible exact h | with_reducible exact .refl _ | with_reducible apply State.when_onward
    | with_reducible apply State.wr_onward | with_reducible apply State.wrb_onward | intro _

theorem State.txBoundary_onward {s₀ s : State} (h : s₀.Onward s) (w : Wing) :
    s₀.Onward (State.txBoundary s w) := by
  unfold State.txBoundary
  dsimp only
  repeat' first
    | with_reducible exact h | with_reducible exact .refl _ | with_reducible apply State.releaseUse_onward
    | with_reducible apply State.countDown_onward | with_reducible apply State.onTx_onward
    | with_reducible apply State.wrb_onward | with_reducible apply State.showCand_onward
    | with_reducible apply State.resumeDue_onward | with_reducible apply State.showAdvTx_onward
    | with_reducible apply State.setIcmRc_onward | with_reducible apply State.showAcct_onward
    | with_reducible apply State.icmRefresh_onward | with_reducible apply State.sendHeader_onward | split

theorem State.carry_onward {s₀ s : State} (h : s₀.Onward s) (w : Wing) :
    s₀.Onward (State.carry s w) := by
  unfold State.carry
  dsimp only
  repeat' first
    | with_reducible exact h | with_reducible exact .refl _ | with_reducible apply State.onTx_onward | intro _ | split
    | with_reducible apply onward_mk

theorem State.countClipped_onward {s₀ s : State} (h : s₀.Onward s) (w : Wing) (shaped : Nat) :
    s₀.Onward (State.countClipped s w shaped) := by
  unfold State.countClipped
  repeat' first
    | with_reducible exact h | with_reducible exact .refl _ | with_reducible apply State.count_onward

theorem execSuperframeBoundaryTx_onward (s : State) (w : Wing) (shaped : Nat) :
    Completes s (execSuperframeBoundaryTx w shaped s) := by
  unfold execSuperframeBoundaryTx
  dsimp only
  repeat' first
    | apply completes_next | with_reducible exact .refl _ | with_reducible apply State.begin_onward
    | with_reducible apply State.countClipped_onward | with_reducible apply State.carry_onward
    | with_reducible apply State.txBoundary_onward | split

theorem execHdrLossSet_onward (s : State) (w : Wing) :
    Completes s (execHdrLossSet w s) := by
  unfold execHdrLossSet
  dsimp only
  repeat' first
    | apply completes_next | with_reducible exact .refl _ | with_reducible apply State.begin_onward
    | with_reducible apply State.noHeader_onward | with_reducible apply State.onTx_onward
    | with_reducible apply State.onRx_onward | intro _ | split | with_reducible apply onward_mk

theorem execHdrLossClear_onward (s : State) (w : Wing) :
    Completes s (execHdrLossClear w s) := by
  unfold execHdrLossClear
  dsimp only
  repeat' first
    | apply completes_next | with_reducible exact .refl _ | with_reducible apply State.begin_onward
    | with_reducible apply State.onTx_onward | intro _ | split | with_reducible apply onward_mk

theorem State.alignFrame_onward {s₀ s : State} (h : s₀.Onward s) (w : Wing) (pos : Nat) (corr : Nat) :
    s₀.Onward (State.alignFrame s w pos corr) := by
  unfold State.alignFrame
  dsimp only
  repeat' first
    | with_reducible exact h | with_reducible exact .refl _ | with_reducible apply State.onRx_onward
    | with_reducible apply State.wrb_onward | intro _ | split | with_reducible apply onward_mk

theorem State.alignSf_onward {s₀ s : State} (h : s₀.Onward s) (w : Wing) (no : Nat) :
    s₀.Onward (State.alignSf s w no) := by
  unfold State.alignSf
  dsimp only
  repeat' first
    | with_reducible exact h | with_reducible exact .refl _ | with_reducible apply State.onRx_onward
    | with_reducible apply State.wrb_onward | with_reducible apply State.count_onward | intro _ | split
    | with_reducible apply onward_mk

theorem State.showHeader_onward {s₀ s : State} (h : s₀.Onward s) (w : Wing) (h' : Header) :
    s₀.Onward (State.showHeader s w h') := by
  unfold State.showHeader
  dsimp only
  repeat' first
    | with_reducible exact h | with_reducible exact .refl _ | with_reducible apply State.wrb_onward
    | with_reducible apply State.wr_onward | with_reducible apply State.showCand_onward

theorem State.checkBaud_onward {s₀ s : State} (h : s₀.Onward s) (w : Wing) (h' : Header) :
    s₀.Onward (State.checkBaud s w h') := by
  unfold State.checkBaud
  dsimp only
  repeat' first
    | with_reducible exact h | with_reducible exact .refl _ | with_reducible apply State.wrb_onward
    | with_reducible apply State.onRx_onward | with_reducible apply State.emit_onward | intro _ | split
    | with_reducible apply onward_mk

theorem State.dropAnn_onward {s₀ s : State} (h : s₀.Onward s) (w : Wing) (rest : Nat) :
    s₀.Onward (State.dropAnn s w rest) := by
  unfold State.dropAnn
  repeat' first
    | with_reducible exact h | with_reducible exact .refl _ | with_reducible apply State.onRxHs_onward
    | with_reducible apply State.onTx_onward | intro _ | with_reducible apply onward_mk

theorem State.takeCur_onward {s₀ s : State} (h : s₀.Onward s) (w : Wing) (h' : Header) :
    s₀.Onward (State.takeCur s w h') := by
  unfold State.takeCur
  repeat' first
    | with_reducible exact h | with_reducible exact .refl _ | with_reducible apply State.setRxLineCur_onward
    | with_reducible apply State.showRxAcct_onward

theorem State.followFloor_onward {s₀ s : State} (h : s₀.Onward s) (w : Wing) (h' : Header) :
    s₀.Onward (State.followFloor s w h') := by
  unfold State.followFloor
  dsimp only
  repeat' first
    | with_reducible exact h | with_reducible exact .refl _ | with_reducible apply State.takeCur_onward
    | with_reducible apply State.wrb_onward | with_reducible apply State.setActiveMap_onward
    | with_reducible apply State.dropAnn_onward | with_reducible apply State.onRx_onward
    | with_reducible apply State.pull_onward | intro _ | split | with_reducible apply onward_mk

theorem State.checkFloor_onward {s₀ s : State} (h : s₀.Onward s) (w : Wing) (h' : Header) :
    s₀.Onward (State.checkFloor s w h') := by
  unfold State.checkFloor
  dsimp only
  repeat' first
    | with_reducible exact h | with_reducible exact .refl _ | with_reducible apply State.when_onward
    | with_reducible apply State.wrb_onward | intro _

theorem State.foundMismatch_onward {s₀ s : State} (h : s₀.Onward s) (w : Wing) (cause : Nat) :
    s₀.Onward (State.foundMismatch s w cause) := by
  unfold State.foundMismatch
  repeat' first
    | with_reducible exact h | with_reducible exact .refl _ | with_reducible apply State.onRx_onward | intro _ | split
    | with_reducible apply onward_mk

theorem State.checkCur_onward {s₀ s : State} (h : s₀.Onward s) (w : Wing) (h' : Header) :
    s₀.Onward (State.checkCur s w h') := by
  unfold State.checkCur
  dsimp only
  repeat' first
    | with_reducible exact h | with_reducible exact .refl _ | with_reducible apply State.onRx_onward
    | with_reducible apply State.foundMismatch_onward | with_reducible apply State.takeCur_onward
    | with_reducible apply State.when_onward | intro _ | split | with_reducible apply onward_mk

theorem State.trackAnn_onward {s₀ s : State} (h : s₀.Onward s) (w : Wing) (h' : Header) :
    s₀.Onward (State.trackAnn s w h') := by
  unfold State.trackAnn
  dsimp only
  repeat' first
    | with_reducible exact h | with_reducible exact .refl _ | with_reducible apply State.onRxHs_onward
    | with_reducible apply State.when_onward | with_reducible apply State.dropAnn_onward
    | with_reducible apply State.onRx_onward | intro _ | split | with_reducible apply onward_mk

theorem State.headerControl_onward {s₀ s : State} (h : s₀.Onward s) (w : Wing) (h' : Header) :
    s₀.Onward (State.headerControl s w h') := by
  unfold State.headerControl
  dsimp only
  repeat' first
    | with_reducible exact h | with_reducible exact .refl _ | with_reducible apply State.when_onward
    | with_reducible apply State.ackRx_onward | with_reducible apply State.adviceRx_onward | intro _

theorem State.takeHeader_onward {s₀ s : State} (h : s₀.Onward s) (w : Wing) (h' : Header) :
    s₀.Onward (State.takeHeader s w h') := by
  unfold State.takeHeader
  dsimp only
  repeat' first
    | with_reducible exact h | with_reducible exact .refl _ | with_reducible apply State.showHeader_onward
    | with_reducible apply State.checkBaud_onward | with_reducible apply State.onRx_onward
    | with_reducible apply State.when_onward | with_reducible apply State.followFloor_onward
    | with_reducible apply State.checkCur_onward | with_reducible apply State.checkFloor_onward
    | with_reducible apply State.trackAnn_onward | with_reducible apply State.headerControl_onward | intro _
    | with_reducible apply onward_mk

theorem State.adoptMap_onward {s₀ s : State} (h : s₀.Onward s) (w : Wing) (h' : Header) (p : MapParts) (m : List Nat) :
    s₀.Onward (State.adoptMap s w h' p m) := by
  unfold State.adoptMap
  dsimp only
  repeat' first
    | with_reducible exact h | with_reducible exact .refl _ | with_reducible apply State.onRx_onward
    | with_reducible apply State.setRxMap_onward | with_reducible apply State.wrb_onward
    | with_reducible apply State.setActiveMap_onward | with_reducible apply State.onDec_onward | intro _ | split
    | with_reducible apply onward_mk

theorem State.curSegment_onward {s₀ s : State} (h : s₀.Onward s) (w : Wing) (h' : Header) :
    s₀.Onward (State.curSegment s w h') := by
  unfold State.curSegment
  dsimp only
  repeat' first
    | with_reducible exact h | with_reducible exact .refl _ | with_reducible apply State.wrb_onward
    | with_reducible apply State.foundMismatch_onward | with_reducible apply State.adoptMap_onward
    | with_reducible apply State.onRx_onward | intro _ | split | with_reducible apply onward_mk

theorem State.judgeAnn_onward {s₀ s : State} (h : s₀.Onward s) (w : Wing) (h' : Header) (p : MapParts) (m : List Nat) :
    s₀.Onward (State.judgeAnn s w h' p m) := by
  unfold State.judgeAnn
  dsimp only
  repeat' first
    | with_reducible exact h | with_reducible exact .refl _ | with_reducible apply State.onRxHs_onward
    | with_reducible apply State.when_onward | with_reducible apply State.wrb_onward
    | with_reducible apply State.onTx_onward | with_reducible apply State.countWrap_onward | intro _ | split
    | with_reducible apply onward_mk

theorem State.annSegment_onward {s₀ s : State} (h : s₀.Onward s) (w : Wing) (h' : Header) :
    s₀.Onward (State.annSegment s w h') := by
  unfold State.annSegment
  dsimp only
  repeat' first
    | with_reducible exact h | with_reducible exact .refl _ | with_reducible apply State.onRx_onward
    | with_reducible apply State.judgeAnn_onward | intro _ | split | with_reducible apply onward_mk

theorem State.takeSegment_onward {s₀ s : State} (h : s₀.Onward s) (w : Wing) (h' : Header) :
    s₀.Onward (State.takeSegment s w h') := by
  unfold State.takeSegment
  repeat' first
    | with_reducible exact h | with_reducible exact .refl _ | with_reducible apply State.curSegment_onward
    | with_reducible apply State.annSegment_onward | split

theorem State.goodHeader_onward {s₀ s : State} (h : s₀.Onward s) (w : Wing) (h' : Header) :
    s₀.Onward (State.goodHeader s w h') := by
  unfold State.goodHeader
  dsimp only
  repeat' first
    | with_reducible exact h | with_reducible exact .refl _ | with_reducible apply State.onRx_onward
    | with_reducible apply State.noHeader_onward | with_reducible apply State.alignSf_onward
    | with_reducible apply State.takeHeader_onward | with_reducible apply State.takeSegment_onward
    | with_reducible apply State.count_onward | intro _ | split | with_reducible apply onward_mk

theorem State.noHeader_onward {s₀ s : State} (h : s₀.Onward s) (w : Wing) :
    s₀.Onward (State.noHeader s w) := by
  unfold State.noHeader
  repeat' first
    | with_reducible exact h | with_reducible exact .refl _ | with_reducible apply State.when_onward
    | with_reducible apply State.count_onward | with_reducible apply State.onRx_onward | intro _
    | with_reducible apply onward_mk

theorem State.frameHeader_onward {s₀ s : State} (h : s₀.Onward s) (w : Wing) (hdr : Option HeaderRx) :
    s₀.Onward (State.frameHeader s w hdr) := by
  unfold State.frameHeader
  repeat' first
    | with_reducible exact h | with_reducible exact .refl _ | with_reducible apply State.goodHeader_onward
    | with_reducible apply State.noHeader_onward | split

theorem State.noteFrame_onward {s₀ s : State} (h : s₀.Onward s) (w : Wing) :
    s₀.Onward (State.noteFrame s w) := by
  unfold State.noteFrame
  repeat' first
    | with_reducible exact h | with_reducible exact .refl _ | with_reducible apply State.onRx_onward | intro _
    | with_reducible apply onward_mk

theorem State.measureNoise_onward {s₀ s : State} (h : s₀.Onward s) (w : Wing) :
    s₀.Onward (State.measureNoise s w) := by
  unfold State.measureNoise
  dsimp only
  repeat' first
    | with_reducible exact h | with_reducible exact .refl _ | with_reducible apply State.when_onward
    | with_reducible apply State.onRx_onward | intro _ | with_reducible apply onward_mk

theorem State.passDsp_onward {s₀ s : State} (h : s₀.Onward s) (w : Wing) (adc : List (List Int)) :
    s₀.Onward (State.passDsp s w adc) := by
  unfold State.passDsp
  dsimp only
  repeat' first
    | with_reducible exact h | with_reducible exact .refl _ | with_reducible apply State.onRx_onward
    | with_reducible apply State.when_onward | with_reducible apply State.count_onward | intro _
    | with_reducible apply onward_mk

theorem State.frameSignal_onward {s₀ s : State} (h : s₀.Onward s) (w : Wing) (adc : List (List Int)) :
    s₀.Onward (State.frameSignal s w adc) := by
  unfold State.frameSignal
  repeat' first
    | with_reducible exact h | with_reducible exact .refl _ | with_reducible apply State.when_onward
    | with_reducible apply State.passDsp_onward | with_reducible apply State.measureNoise_onward | intro _

theorem execCarrierFrameRx_onward (s : State) (w : Wing) (pos : Nat) (corr : Nat) (hdr : Option HeaderRx) (adc : List (List Int)) :
    Completes s (execCarrierFrameRx w pos corr hdr adc s) := by
  unfold execCarrierFrameRx
  dsimp only
  repeat' first
    | apply completes_next | with_reducible exact .refl _ | with_reducible apply State.begin_onward
    | with_reducible apply State.noteFrame_onward | with_reducible apply State.alignFrame_onward
    | with_reducible apply State.frameHeader_onward | with_reducible apply State.frameSignal_onward | split

theorem State.lossRuns_onward {s₀ s : State} (h : s₀.Onward s) (w : Wing) :
    s₀.Onward (State.lossRuns s w) := by
  unfold State.lossRuns
  dsimp only
  repeat' first
    | with_reducible exact h | with_reducible exact .refl _ | with_reducible apply State.onRx_onward
    | with_reducible apply State.clear_onward | intro _ | split | with_reducible apply onward_mk

theorem State.lossTrigger_onward {s₀ s : State} (h : s₀.Onward s) (w : Wing) :
    s₀.Onward (State.lossTrigger s w) := by
  unfold State.lossTrigger
  dsimp only
  repeat' first
    | with_reducible exact h | with_reducible exact .refl _ | with_reducible apply State.onRx_onward
    | with_reducible apply State.pull_onward | intro _ | split | with_reducible apply onward_mk

theorem State.sp2Request_onward {s₀ s : State} (h : s₀.Onward s) (w : Wing) :
    s₀.Onward (State.sp2Request s w) := by
  unfold State.sp2Request
  dsimp only
  repeat' first
    | with_reducible exact h | with_reducible exact .refl _ | with_reducible apply State.wrb_onward | split
    | with_reducible apply onward_mk

theorem State.sp2Cancel_onward {s₀ s : State} (h : s₀.Onward s) (w : Wing) :
    s₀.Onward (State.sp2Cancel s w) := by
  unfold State.sp2Cancel
  dsimp only
  repeat' first
    | with_reducible exact h | with_reducible exact .refl _ | with_reducible apply State.wrb_onward | intro _
    | with_reducible apply onward_mk

theorem State.sp2Mode_onward {s₀ s : State} (h : s₀.Onward s) (w : Wing) :
    s₀.Onward (State.sp2Mode s w) := by
  unfold State.sp2Mode
  dsimp only
  repeat' first
    | with_reducible exact h | with_reducible exact .refl _ | with_reducible apply State.onRx_onward
    | with_reducible apply State.when_onward | with_reducible apply State.sp2Request_onward
    | with_reducible apply State.sp2Cancel_onward | intro _ | split | with_reducible apply onward_mk

theorem State.rxBoundary_onward {s₀ s : State} (h : s₀.Onward s) (w : Wing) :
    s₀.Onward (State.rxBoundary s w) := by
  unfold State.rxBoundary
  dsimp only
  repeat' first
    | with_reducible exact h | with_reducible exact .refl _ | with_reducible apply State.releaseUse_onward
    | with_reducible apply State.sp2Mode_onward | with_reducible apply State.showRxHs_onward
    | with_reducible apply State.lossRuns_onward | with_reducible apply State.lossTrigger_onward
    | with_reducible apply State.onRx_onward | with_reducible apply State.fecBoundary_onward | intro _
    | with_reducible apply onward_mk

theorem State.countFigures_onward {s₀ s : State} (h : s₀.Onward s) (w : Wing) (m : SuperframeRx) :
    s₀.Onward (State.countFigures s w m) := by
  unfold State.countFigures
  dsimp only
  repeat' first
    | with_reducible exact h | with_reducible exact .refl _ | with_reducible apply State.when_onward
    | with_reducible apply State.onRx_onward | with_reducible apply State.window_onward | intro _
    | with_reducible apply onward_mk

theorem State.follow_onward {s₀ s : State} (h : s₀.Onward s) (w : Wing) (m : SuperframeRx) :
    s₀.Onward (State.follow s w m) := by
  unfold State.follow
  dsimp only
  repeat' first
    | with_reducible exact h | with_reducible exact .refl _ | with_reducible apply State.when_onward
    | with_reducible apply State.wrS_onward | intro _

theorem execSuperframeBoundaryRx_onward (s : State) (w : Wing) (m : SuperframeRx) :
    Completes s (execSuperframeBoundaryRx w m s) := by
  unfold execSuperframeBoundaryRx
  dsimp only
  repeat' first
    | apply completes_next | with_reducible exact .refl _ | with_reducible apply State.begin_onward
    | with_reducible apply State.countFigures_onward | with_reducible apply State.follow_onward
    | with_reducible apply State.rxBoundary_onward | split

theorem State.switchRx_onward {s₀ s : State} (h : s₀.Onward s) (w : Wing) (a : AnnRecord) :
    s₀.Onward (State.switchRx s w a) := by
  unfold State.switchRx
  dsimp only
  repeat' first
    | with_reducible exact h | with_reducible exact .refl _ | with_reducible apply State.setRxLineCur_onward
    | with_reducible apply State.showRxAcct_onward | with_reducible apply State.setRxMap_onward
    | with_reducible apply State.setActiveMap_onward | with_reducible apply State.wrb_onward
    | with_reducible apply State.dropAnn_onward | with_reducible apply State.onRx_onward
    | with_reducible apply State.window_onward | with_reducible apply State.zero_onward | intro _ | split
    | with_reducible apply onward_mk

theorem execRxRateSwitch_onward (s : State) (w : Wing) :
    Completes s (execRxRateSwitch w s) := by
  unfold execRxRateSwitch
  dsimp only
  repeat' first
    | apply completes_next | with_reducible exact .refl _ | with_reducible apply State.begin_onward
    | with_reducible apply State.switchRx_onward | split

end Sys2Proof.Machine
end

