-- ==== Sys2Proof/Laws/OnwardSupervisory.lean ====
section
/-!
SUPPORT. `State.Onward` over the operations of Machine/Supervisory.lean.
-/

namespace Sys2Proof.Machine

theorem State.onSup_onward {s₀ s : State} (h : s₀.Onward s) (f : Sup → Sup) :
    s₀.Onward (State.onSup s f) := by
  unfold State.onSup
  repeat' first
    | with_reducible exact h | with_reducible exact .refl _ | with_reducible apply onward_mk

theorem State.unsettle_onward {s₀ s : State} (h : s₀.Onward s) (k : Nat) :
    s₀.Onward (State.unsettle s k) := by
  unfold State.unsettle
  dsimp only
  repeat' first
    | with_reducible exact h | with_reducible exact .refl _ | with_reducible apply State.onSup_onward | intro _
    | with_reducible apply onward_mk

theorem State.clearCtx_onward {s₀ s : State} (h : s₀.Onward s) (k : Nat) :
    s₀.Onward (State.clearCtx s k) := by
  unfold State.clearCtx
  repeat' first
    | with_reducible exact h | with_reducible exact .refl _ | with_reducible apply State.unsettle_onward
    | with_reducible apply State.onSup_onward | intro _ | with_reducible apply onward_mk

theorem State.resetCtx_onward {s₀ s : State} (h : s₀.Onward s) (k : Nat) :
    s₀.Onward (State.resetCtx s k) := by
  unfold State.resetCtx
  repeat' first
    | with_reducible exact h | with_reducible exact .refl _ | with_reducible apply State.clearCtx_onward
    | with_reducible apply State.countWrap_onward

theorem State.resetContexts_onward {s₀ s : State} (h : s₀.Onward s) :
    s₀.Onward (State.resetContexts s) := by
  unfold State.resetContexts
  repeat' first
    | with_reducible exact h | with_reducible exact .refl _ | with_reducible apply State.upTo_onward
    | with_reducible apply State.resetCtx_onward | intro _

theorem State.wingStep_onward {s₀ s : State} (h : s₀.Onward s) (w : Wing) :
    s₀.Onward (State.wingStep s w) := by
  unfold State.wingStep
  repeat' first
    | with_reducible exact h | with_reducible exact .refl _ | with_reducible apply State.unsettle_onward
    | with_reducible apply onward_foldl | intro _

theorem State.resetMask_onward {s₀ s : State} (h : s₀.Onward s) (mask : Nat) :
    s₀.Onward (State.resetMask s mask) := by
  unfold State.resetMask
  repeat' first
    | with_reducible exact h | with_reducible exact .refl _ | with_reducible apply State.upTo_onward
    | with_reducible apply State.when_onward | with_reducible apply State.resetCtx_onward | intro _

theorem State.decReset_onward {s₀ s : State} (h : s₀.Onward s) (mask : Nat) :
    s₀.Onward (State.decReset s mask) := by
  unfold State.decReset
  repeat' first
    | with_reducible exact h | with_reducible exact .refl _ | with_reducible apply State.onSup_onward
    | with_reducible apply State.resetMask_onward | intro _ | split | with_reducible apply onward_mk

theorem State.resetDueCtxs_onward {s₀ s : State} (h : s₀.Onward s) :
    s₀.Onward (State.resetDueCtxs s) := by
  unfold State.resetDueCtxs
  repeat' first
    | with_reducible exact h | with_reducible exact .refl _ | with_reducible apply State.resetMask_onward
    | with_reducible apply State.onSup_onward | intro _ | with_reducible apply onward_mk

theorem execDecReset_onward (s : State) (req : Req) (mask : Nat) :
    Completes s (execDecReset req mask s) := by
  unfold execDecReset
  repeat' first
    | apply completes_next | with_reducible exact .refl _ | with_reducible apply State.via_onward
    | with_reducible apply State.decReset_onward | with_reducible apply State.begin_onward | intro _

theorem State.accumulate_onward {s₀ s : State} (h : s₀.Onward s) (c : Nat) (v : Int) (sat : Bool) (injected : Bool) :
    s₀.Onward (State.accumulate s c v sat injected) := by
  unfold State.accumulate
  repeat' first
    | with_reducible exact h | with_reducible exact .refl _ | with_reducible apply State.onSup_onward
    | with_reducible apply State.zero_onward | intro _ | split | with_reducible apply onward_mk

theorem State.readDiode_onward {s₀ s : State} (h : s₀.Onward s) (w : Wing) (c : Nat) (code : Nat) :
    s₀.Onward (State.readDiode s w c code) := by
  unfold State.readDiode
  dsimp only
  repeat' first
    | with_reducible exact h | with_reducible exact .refl _ | with_reducible apply State.when_onward
    | with_reducible apply State.wrS_onward | intro _ | split

theorem State.consume_onward {s₀ s : State} (h : s₀.Onward s) (c : Nat) (code : Nat) :
    s₀.Onward (State.consume s c code) := by
  unfold State.consume
  repeat' first
    | with_reducible exact h | with_reducible exact .refl _ | with_reducible apply State.readDiode_onward
    | with_reducible apply State.wr_onward | with_reducible apply State.onSup_onward | intro _ | split
    | with_reducible apply onward_mk

theorem State.consumeInjected_onward {s₀ s : State} (h : s₀.Onward s) (src : Nat) (c : Nat) (code : Nat) :
    s₀.Onward (State.consumeInjected s src c code) := by
  unfold State.consumeInjected
  dsimp only
  repeat' first
    | with_reducible exact h | with_reducible exact .refl _ | with_reducible apply State.say_onward
    | with_reducible apply State.readDiode_onward | with_reducible apply State.wr_onward | split

theorem State.gather_onward {s₀ s : State} (h : s₀.Onward s) (c : Nat) (code : Nat) (injected : Bool) :
    s₀.Onward (State.gather s c code injected) := by
  unfold State.gather
  repeat' first
    | with_reducible exact h | with_reducible exact .refl _ | with_reducible apply State.when_onward
    | with_reducible apply State.accumulate_onward | intro _

theorem State.queueSample_onward {s₀ s : State} (h : s₀.Onward s) (c : Nat) (code : Nat) :
    s₀.Onward (State.queueSample s c code) := by
  unfold State.queueSample
  repeat' first
    | with_reducible exact h | with_reducible exact .refl _ | with_reducible apply State.onSup_onward
    | with_reducible apply onward_foldl | intro _ | with_reducible apply onward_mk

theorem State.convert_onward {s₀ s : State} (h : s₀.Onward s) (c : Nat) (code : Nat) :
    s₀.Onward (State.convert s c code) := by
  unfold State.convert
  repeat' first
    | with_reducible exact h | with_reducible exact .refl _ | with_reducible apply State.consume_onward
    | with_reducible apply State.queueSample_onward | with_reducible apply State.gather_onward

theorem State.convertInjected_onward {s₀ s : State} (h : s₀.Onward s) (src : Nat) (c : Nat) (code : Nat) :
    s₀.Onward (State.convertInjected s src c code) := by
  unfold State.convertInjected
  repeat' first
    | with_reducible exact h | with_reducible exact .refl _ | with_reducible apply State.consumeInjected_onward
    | with_reducible apply State.gather_onward

theorem State.stepChannel_onward {s₀ s : State} (h : s₀.Onward s) (c : Nat) :
    s₀.Onward (State.stepChannel s c) := by
  unfold State.stepChannel
  repeat' first
    | with_reducible exact h | with_reducible exact .refl _ | with_reducible apply State.unsettle_onward
    | with_reducible apply State.onSup_onward | with_reducible apply onward_foldl | intro _ | split
    | with_reducible apply onward_mk

theorem State.regularSlot_onward {s₀ s : State} (h : s₀.Onward s) (code : Nat) :
    s₀.Onward (State.regularSlot s code) := by
  unfold State.regularSlot
  dsimp only
  repeat' first
    | with_reducible exact h | with_reducible exact .refl _ | with_reducible apply State.onSup_onward
    | with_reducible apply State.stepChannel_onward | with_reducible apply State.convert_onward | intro _ | split
    | with_reducible apply onward_mk

theorem State.startInj_onward {s₀ s : State} (h : s₀.Onward s) (a0 : Nat) :
    s₀.Onward (State.startInj s a0) := by
  induction a0 generalizing s  with
  | zero =>
    rw [State.startInj]
    try dsimp only
    repeat' first
      | with_reducible exact h | with_reducible exact .refl _ | with_reducible apply State.onSup_onward
      | with_reducible apply State.countWrap_onward | intro _ | split | with_reducible apply onward_mk
  | succ n ih =>
    rw [State.startInj]
    try dsimp only
    repeat' first
      | with_reducible apply ih
      | with_reducible exact h | with_reducible exact .refl _ | with_reducible apply State.onSup_onward
      | with_reducible apply State.countWrap_onward | intro _ | split | with_reducible apply onward_mk

theorem State.showInj_onward {s₀ s : State} (h : s₀.Onward s) :
    s₀.Onward (State.showInj s) := by
  unfold State.showInj
  repeat' first
    | with_reducible exact h | with_reducible exact .refl _ | with_reducible apply State.wrb_onward

theorem State.newCycle_onward {s₀ s : State} (h : s₀.Onward s) :
    s₀.Onward (State.newCycle s) := by
  unfold State.newCycle
  repeat' first
    | with_reducible exact h | with_reducible exact .refl _ | with_reducible apply State.onSup_onward | intro _
    | split | with_reducible apply onward_mk

theorem State.injectedSlot_onward {s₀ s : State} (h : s₀.Onward s) (code : Nat) :
    s₀.Onward (State.injectedSlot s code) := by
  unfold State.injectedSlot
  dsimp only
  repeat' first
    | with_reducible exact h | with_reducible exact .refl _ | with_reducible apply State.when_onward
    | with_reducible apply State.convertInjected_onward | with_reducible apply State.onSup_onward
    | with_reducible apply State.countWrap_onward | with_reducible apply State.startInj_onward
    | with_reducible apply State.newCycle_onward | intro _ | split | with_reducible apply onward_mk

theorem State.supCal_onward {s₀ s : State} (h : s₀.Onward s) :
    s₀.Onward (State.supCal s) := by
  unfold State.supCal
  dsimp only
  repeat' first
    | with_reducible exact h | with_reducible exact .refl _ | with_reducible apply State.wrb_onward
    | with_reducible apply State.onSup_onward | with_reducible apply State.upTo_onward | intro _
    | with_reducible apply onward_mk

theorem State.startDueCal_onward {s₀ s : State} (h : s₀.Onward s) :
    s₀.Onward (State.startDueCal s) := by
  unfold State.startDueCal
  repeat' first
    | with_reducible exact h | with_reducible exact .refl _ | with_reducible apply State.supCal_onward | split

theorem State.conversion_onward {s₀ s : State} (h : s₀.Onward s) (code : Nat) :
    s₀.Onward (State.conversion s code) := by
  unfold State.conversion
  repeat' first
    | with_reducible exact h | with_reducible exact .refl _ | with_reducible apply State.injectedSlot_onward
    | with_reducible apply State.startInj_onward | with_reducible apply State.regularSlot_onward | split

theorem execSupConversion_onward (s : State) (code : Nat) :
    Completes s (execSupConversion code s) := by
  unfold execSupConversion
  dsimp only
  repeat' first
    | apply completes_next | with_reducible exact .refl _ | with_reducible apply State.begin_onward
    | with_reducible apply State.conversion_onward | with_reducible apply State.startDueCal_onward
    | with_reducible apply State.resetDueCtxs_onward | with_reducible apply State.showInj_onward | split

theorem State.trigger_onward {s₀ s : State} (h : s₀.Onward s) (src : Nat) :
    s₀.Onward (State.trigger s src) := by
  unfold State.trigger
  dsimp only
  repeat' first
    | with_reducible exact h | with_reducible exact .refl _ | with_reducible apply State.countWrap_onward
    | with_reducible apply State.onSup_onward | with_reducible apply State.showInj_onward | intro _ | split
    | with_reducible apply onward_mk

theorem execInjTrigger_onward (s : State) (src : Fin 5) :
    Completes s (execInjTrigger src s) := by
  unfold execInjTrigger
  repeat' first
    | apply completes_next | with_reducible exact .refl _ | with_reducible apply State.trigger_onward
    | with_reducible apply State.begin_onward

theorem execInjGo_onward (s : State) (req : Req) :
    Completes s (execInjGo req s) := by
  unfold execInjGo
  repeat' first
    | apply completes_next | with_reducible exact .refl _ | with_reducible apply State.via_onward
    | with_reducible apply State.trigger_onward | with_reducible apply State.begin_onward | intro _

theorem State.markSat_onward {s₀ s : State} (h : s₀.Onward s) (k : Nat) (sat : Bool) :
    s₀.Onward (State.markSat s k sat) := by
  unfold State.markSat
  repeat' first
    | with_reducible exact h | with_reducible exact .refl _ | with_reducible apply State.wrb_onward
    | with_reducible apply State.evt_onward | split

theorem State.exclude_onward {s₀ s : State} (h : s₀.Onward s) (c : Nat) :
    s₀.Onward (State.exclude s c) := by
  unfold State.exclude
  dsimp only
  repeat' first
    | with_reducible exact h | with_reducible exact .refl _ | with_reducible apply State.zero_onward
    | with_reducible apply State.onSup_onward | intro _ | split | with_reducible apply onward_mk

theorem State.deliverOut_onward {s₀ s : State} (h : s₀.Onward s) (k : Nat) (v : Int) (sat : Bool) (unsettled : Bool) :
    s₀.Onward (State.deliverOut s k v sat unsettled) := by
  unfold State.deliverOut
  dsimp only
  repeat' first
    | with_reducible exact h | with_reducible exact .refl _ | with_reducible apply State.icmOutput_onward
    | with_reducible apply State.say_onward | with_reducible apply State.exclude_onward
    | with_reducible apply State.accumulate_onward | split

theorem State.ctxOutput_onward {s₀ s : State} (h : s₀.Onward s) (k : Nat) (y : Int) :
    s₀.Onward (State.ctxOutput s k y) := by
  unfold State.ctxOutput
  dsimp only
  repeat' first
    | with_reducible exact h | with_reducible exact .refl _ | with_reducible apply State.markSat_onward
    | with_reducible apply State.onSup_onward | with_reducible apply State.wrb_onward
    | with_reducible apply State.deliverOut_onward | intro _ | with_reducible apply onward_mk

theorem State.ctxFeed_onward {s₀ s : State} (h : s₀.Onward s) (k : Nat) (x : Int) :
    s₀.Onward (State.ctxFeed s k x) := by
  unfold State.ctxFeed
  dsimp only
  repeat' first
    | with_reducible exact h | with_reducible exact .refl _ | with_reducible apply State.zero_onward
    | with_reducible apply State.onSup_onward | with_reducible apply State.ctxOutput_onward | intro _ | split
    | with_reducible apply onward_mk

theorem State.engineSlot_onward {s₀ s : State} (h : s₀.Onward s) (m : RoundInput) (k : Nat) :
    s₀.Onward (State.engineSlot s m k) := by
  unfold State.engineSlot
  repeat' first
    | with_reducible exact h | with_reducible exact .refl _ | with_reducible apply State.ctxFeed_onward
    | with_reducible apply State.onSup_onward | with_reducible apply onward_foldl | intro _ | split
    | with_reducible apply onward_mk

theorem execDecRound_onward (s : State) (m : RoundInput) :
    Completes s (execDecRound m s) := by
  unfold execDecRound
  dsimp only
  repeat' first
    | apply completes_next | with_reducible exact .refl _ | with_reducible apply State.begin_onward
    | with_reducible apply State.when_onward | with_reducible apply State.wingStep_onward
    | with_reducible apply State.upTo_onward | with_reducible apply State.engineSlot_onward | intro _ | split

theorem State.askCal_onward {s₀ s : State} (h : s₀.Onward s) :
    s₀.Onward (State.askCal s) := by
  unfold State.askCal
  repeat' first
    | with_reducible exact h | with_reducible exact .refl _ | with_reducible apply State.onSup_onward | intro _
    | split | with_reducible apply onward_mk

theorem State.startCal_onward {s₀ s : State} (h : s₀.Onward s) :
    s₀.Onward (State.startCal s) := by
  unfold State.startCal
  repeat' first
    | with_reducible exact h | with_reducible exact .refl _ | with_reducible apply State.supCal_onward
    | with_reducible apply State.askCal_onward | split

theorem execSupCalStart_onward (s : State) (req : Req) :
    Completes s (execSupCalStart req s) := by
  unfold execSupCalStart
  repeat' first
    | apply completes_next | with_reducible exact .refl _ | with_reducible apply State.via_onward
    | with_reducible apply State.startCal_onward | with_reducible apply State.begin_onward | intro _

theorem execSupCalAuto_onward (s : State) :
    Completes s (execSupCalAuto s) := by
  unfold execSupCalAuto
  dsimp only
  repeat' first
    | apply completes_next | with_reducible exact .refl _ | with_reducible apply State.begin_onward
    | with_reducible apply State.wrb_onward | with_reducible apply State.askCal_onward | split

theorem State.runDeferred_onward {s₀ s : State} (h : s₀.Onward s) :
    s₀.Onward (State.runDeferred s) := by
  unfold State.runDeferred
  repeat' first
    | with_reducible exact h | with_reducible exact .refl _ | with_reducible apply State.askCal_onward | split

theorem execSupCalDone_onward (s : State) :
    Completes s (execSupCalDone s) := by
  unfold execSupCalDone
  dsimp only
  repeat' first
    | apply completes_next | with_reducible exact .refl _ | with_reducible apply State.begin_onward
    | with_reducible apply State.wrb_onward | with_reducible apply State.countWrap_onward
    | with_reducible apply State.evt_onward | with_reducible apply State.onSup_onward | intro _ | split
    | with_reducible apply onward_mk

theorem State.latchSup_onward {s₀ s : State} (h : s₀.Onward s) :
    s₀.Onward (State.latchSup s) := by
  unfold State.latchSup
  dsimp only
  repeat' first
    | with_reducible exact h | with_reducible exact .refl _ | with_reducible apply State.upTo_onward
    | with_reducible apply State.zero_onward | with_reducible apply State.wrWide_onward
    | with_reducible apply State.wr_onward | with_reducible apply State.wrS_onward
    | with_reducible apply State.wrb_onward | with_reducible apply State.onSup_onward | intro _ | split
    | with_reducible apply onward_mk

end Sys2Proof.Machine
end

