-- ==== Sys2Proof/Laws/OnwardConverters.lean ====
section
/-!
SUPPORT. `State.Onward` over the operations of Machine/Converters.lean.
-/

namespace Sys2Proof.Machine

theorem State.onConv_onward {s₀ s : State} (h : s₀.Onward s) (w : Wing) (f : Conv → Conv) :
    s₀.Onward (State.onConv s w f) := by
  unfold State.onConv
  repeat' first
    | with_reducible exact h | with_reducible exact .refl _ | with_reducible apply onward_mk

theorem State.onDim_onward {s₀ s : State} (h : s₀.Onward s) (w : Wing) (d : Nat) (f : ConvDim → ConvDim) :
    s₀.Onward (State.onDim s w d f) := by
  unfold State.onDim
  repeat' first
    | with_reducible exact h | with_reducible exact .refl _ | with_reducible apply State.onConv_onward | intro _
    | with_reducible apply onward_mk

theorem State.foreground_onward {s₀ s : State} (h : s₀.Onward s) (w : Wing) :
    s₀.Onward (State.foreground s w) := by
  unfold State.foreground
  dsimp only
  repeat' first
    | with_reducible exact h | with_reducible exact .refl _ | with_reducible apply State.onConv_onward
    | with_reducible apply State.upTo_onward | with_reducible apply State.onDim_onward
    | with_reducible apply State.wrb_onward | intro _ | with_reducible apply onward_mk

theorem execSynthLock_onward (s : State) (w : Wing) (adc : Bool) :
    Completes s (execSynthLock w adc s) := by
  unfold execSynthLock
  dsimp only
  repeat' first
    | apply completes_next | with_reducible exact .refl _ | with_reducible apply State.begin_onward
    | with_reducible apply State.wrb_onward | with_reducible apply State.wr_onward
    | with_reducible apply State.foreground_onward | split

theorem State.setTrim_onward {s₀ s : State} (h : s₀.Onward s) (w : Wing) (d : Nat) (slice : Nat) (t : Trims) :
    s₀.Onward (State.setTrim s w d slice t) := by
  unfold State.setTrim
  dsimp only
  repeat' first
    | with_reducible exact h | with_reducible exact .refl _ | with_reducible apply State.wrS_onward
    | with_reducible apply State.wr_onward | with_reducible apply State.onDim_onward
    | with_reducible apply State.zero_onward | intro _ | with_reducible apply onward_mk

theorem State.setQual_onward {s₀ s : State} (h : s₀.Onward s) (w : Wing) (d : Nat) :
    s₀.Onward (State.setQual s w d) := by
  unfold State.setQual
  dsimp only
  repeat' first
    | with_reducible exact h | with_reducible exact .refl _ | with_reducible apply State.wr_onward
    | with_reducible apply State.wrS_onward | with_reducible apply State.wrb_onward

theorem State.takePark_onward {s₀ s : State} (h : s₀.Onward s) (w : Wing) (d : Nat) :
    s₀.Onward (State.takePark s w d) := by
  unfold State.takePark
  repeat' first
    | with_reducible exact h | with_reducible exact .refl _ | with_reducible apply State.releaseOne_onward

theorem State.park_onward {s₀ s : State} (h : s₀.Onward s) (w : Wing) (d : Nat) :
    s₀.Onward (State.park s w d) := by
  unfold State.park
  dsimp only
  repeat' first
    | with_reducible exact h | with_reducible exact .refl _ | with_reducible apply State.onDim_onward
    | with_reducible apply State.wrb_onward | with_reducible apply State.evt_onward | intro _
    | with_reducible apply onward_mk

theorem State.calibrate_onward {s₀ s : State} (h : s₀.Onward s) (w : Wing) (d : Nat) :
    s₀.Onward (State.calibrate s w d) := by
  unfold State.calibrate
  repeat' first
    | with_reducible exact h | with_reducible exact .refl _ | with_reducible apply State.onDim_onward
    | with_reducible apply State.wrb_onward | intro _ | with_reducible apply onward_mk

theorem State.rotate_onward {s₀ s : State} (h : s₀.Onward s) (w : Wing) (d : Nat) (rising : Bool) (whole : Bool) :
    s₀.Onward (State.rotate s w d rising whole) := by
  unfold State.rotate
  dsimp only
  repeat' first
    | with_reducible exact h | with_reducible exact .refl _ | with_reducible apply State.park_onward
    | with_reducible apply State.wrb_onward | with_reducible apply State.onDim_onward
    | with_reducible apply State.calibrate_onward | intro _ | split | with_reducible apply onward_mk

theorem execFgCalComplete_onward (s : State) (w : Wing) (trims : List SliceTrim) :
    Completes s (execFgCalComplete w trims s) := by
  unfold execFgCalComplete
  dsimp only
  repeat' first
    | apply completes_next | with_reducible exact .refl _ | with_reducible apply State.begin_onward
    | with_reducible apply State.foreground_onward | with_reducible apply State.setTrim_onward
    | with_reducible apply State.onConv_onward | with_reducible apply State.upTo_onward
    | with_reducible apply State.wr_onward | with_reducible apply State.setQual_onward
    | with_reducible apply State.takePark_onward | with_reducible apply State.rotate_onward
    | with_reducible apply onward_foldl | intro _ | split | with_reducible apply onward_mk

theorem State.restartDim_onward {s₀ s : State} (h : s₀.Onward s) (w : Wing) (d : Nat) :
    s₀.Onward (State.restartDim s w d) := by
  unfold State.restartDim
  dsimp only
  repeat' first
    | with_reducible exact h | with_reducible exact .refl _ | with_reducible apply State.wr_onward
    | with_reducible apply State.rotate_onward | split

theorem State.restartCal_onward {s₀ s : State} (h : s₀.Onward s) (w : Wing) :
    s₀.Onward (State.restartCal s w) := by
  unfold State.restartCal
  repeat' first
    | with_reducible exact h | with_reducible exact .refl _ | with_reducible apply State.when_onward
    | with_reducible apply State.foreground_onward | with_reducible apply State.upTo_onward
    | with_reducible apply State.restartDim_onward | intro _ | split

theorem State.restartWrite_onward {s₀ s : State} (h : s₀.Onward s) (w : Wing) :
    s₀.Onward (State.restartWrite s w) := by
  unfold State.restartWrite
  repeat' first
    | with_reducible exact h | with_reducible exact .refl _ | with_reducible apply State.onConv_onward
    | with_reducible apply State.restartCal_onward | intro _ | split | with_reducible apply onward_mk

theorem execCalRestart_onward (s : State) (req : Req) (w : Wing) :
    Completes s (execCalRestart req w s) := by
  unfold execCalRestart
  repeat' first
    | apply completes_next | with_reducible exact .refl _ | with_reducible apply State.via_onward
    | with_reducible apply State.restartWrite_onward | with_reducible apply State.begin_onward | intro _

theorem execSpareCalComplete_onward (s : State) (w : Wing) (d : Fin 4) (found : Trims) :
    Completes s (execSpareCalComplete w d found s) := by
  unfold execSpareCalComplete
  dsimp only
  repeat' first
    | apply completes_next | with_reducible exact .refl _ | with_reducible apply State.begin_onward
    | with_reducible apply State.when_onward | with_reducible apply State.countWrap_onward
    | with_reducible apply State.wrb_onward | with_reducible apply State.onDim_onward
    | with_reducible apply State.park_onward | intro _ | split | with_reducible apply onward_mk

theorem State.endRun_onward {s₀ s : State} (h : s₀.Onward s) (w : Wing) (d : Nat) :
    s₀.Onward (State.endRun s w d) := by
  unfold State.endRun
  dsimp only
  repeat' first
    | with_reducible exact h | with_reducible exact .refl _ | with_reducible apply State.when_onward
    | with_reducible apply State.countWrap_onward | with_reducible apply State.evt_onward
    | with_reducible apply State.wrb_onward | with_reducible apply State.onDim_onward | intro _ | split
    | with_reducible apply onward_mk

theorem State.steer_onward {s₀ s : State} (h : s₀.Onward s) (w : Wing) (d : Nat) :
    s₀.Onward (State.steer s w d) := by
  unfold State.steer
  dsimp only
  repeat' first
    | with_reducible exact h | with_reducible exact .refl _ | with_reducible apply State.park_onward
    | with_reducible apply State.wrb_onward | with_reducible apply State.onDim_onward | intro _ | split
    | with_reducible apply onward_mk

theorem State.stopDim_onward {s₀ s : State} (h : s₀.Onward s) (w : Wing) (d : Nat) :
    s₀.Onward (State.stopDim s w d) := by
  unfold State.stopDim
  repeat' first
    | with_reducible exact h | with_reducible exact .refl _ | with_reducible apply State.onDim_onward
    | with_reducible apply State.wrb_onward | intro _ | with_reducible apply onward_mk

theorem State.handover_onward {s₀ s : State} (h : s₀.Onward s) (w : Wing) (d : Nat) :
    s₀.Onward (State.handover s w d) := by
  unfold State.handover
  dsimp only
  repeat' first
    | with_reducible exact h | with_reducible exact .refl _ | with_reducible apply State.setTrim_onward
    | with_reducible apply State.wr_onward | with_reducible apply State.onDim_onward
    | with_reducible apply State.endRun_onward | with_reducible apply State.takePark_onward
    | with_reducible apply State.steer_onward | with_reducible apply State.setQual_onward | intro _ | split
    | with_reducible apply onward_mk

theorem State.startDac_onward {s₀ s : State} (h : s₀.Onward s) (w : Wing) :
    s₀.Onward (State.startDac s w) := by
  unfold State.startDac
  repeat' first
    | with_reducible exact h | with_reducible exact .refl _ | with_reducible apply State.wrb_onward

theorem State.dacCal_onward {s₀ s : State} (h : s₀.Onward s) (w : Wing) :
    s₀.Onward (State.dacCal s w) := by
  unfold State.dacCal
  repeat' first
    | with_reducible exact h | with_reducible exact .refl _ | with_reducible apply State.startDac_onward
    | with_reducible apply State.wrb_onward | split

theorem State.afterHandover_onward {s₀ s : State} (h : s₀.Onward s) (w : Wing) :
    s₀.Onward (State.afterHandover s w) := by
  unfold State.afterHandover
  dsimp only
  repeat' first
    | with_reducible exact h | with_reducible exact .refl _ | with_reducible apply State.onConv_onward
    | with_reducible apply State.when_onward | with_reducible apply State.dacCal_onward
    | with_reducible apply State.restartCal_onward | intro _ | with_reducible apply onward_mk

theorem execSliceHandover_onward (s : State) (w : Wing) (d : Fin 4) :
    Completes s (execSliceHandover w d s) := by
  unfold execSliceHandover
  dsimp only
  repeat' first
    | apply completes_next | with_reducible exact .refl _ | with_reducible apply State.begin_onward
    | with_reducible apply State.handover_onward | with_reducible apply State.when_onward
    | with_reducible apply State.stopDim_onward | with_reducible apply State.afterHandover_onward | intro _ | split

theorem execDwellExpiry_onward (s : State) (w : Wing) (d : Fin 4) :
    Completes s (execDwellExpiry w d s) := by
  unfold execDwellExpiry
  dsimp only
  repeat' first
    | apply completes_next | with_reducible exact .refl _ | with_reducible apply State.begin_onward
    | with_reducible apply State.calibrate_onward | split

theorem State.parkWrite_onward {s₀ s : State} (h : s₀.Onward s) (w : Wing) (d : Nat) :
    s₀.Onward (State.parkWrite s w d) := by
  unfold State.parkWrite
  dsimp only
  repeat' first
    | with_reducible exact h | with_reducible exact .refl _ | with_reducible apply State.foreground_onward
    | with_reducible apply State.park_onward | with_reducible apply State.rotate_onward | split

theorem State.parkRow_onward {s₀ s : State} (h : s₀.Onward s) (w : Wing) (d : Nat) :
    s₀.Onward (State.parkRow s w d) := by
  unfold State.parkRow
  dsimp only
  repeat' first
    | with_reducible exact h | with_reducible exact .refl _ | with_reducible apply State.takePark_onward
    | with_reducible apply State.parkWrite_onward | split

theorem State.haltDim_onward {s₀ s : State} (h : s₀.Onward s) (w : Wing) (d : Nat) :
    s₀.Onward (State.haltDim s w d) := by
  unfold State.haltDim
  dsimp only
  repeat' first
    | with_reducible exact h | with_reducible exact .refl _ | with_reducible apply State.stopDim_onward
    | with_reducible apply State.when_onward | with_reducible apply State.foreground_onward
    | with_reducible apply State.park_onward | intro _ | split

theorem State.resumeDim_onward {s₀ s : State} (h : s₀.Onward s) (w : Wing) (d : Nat) :
    s₀.Onward (State.resumeDim s w d) := by
  unfold State.resumeDim
  dsimp only
  repeat' first
    | with_reducible exact h | with_reducible exact .refl _ | with_reducible apply State.rotate_onward | split

theorem State.bgChange_onward {s₀ s : State} (h : s₀.Onward s) (w : Wing) :
    s₀.Onward (State.bgChange s w) := by
  unfold State.bgChange
  dsimp only
  repeat' first
    | with_reducible exact h | with_reducible exact .refl _ | with_reducible apply State.upTo_onward
    | with_reducible apply State.resumeDim_onward | with_reducible apply State.takePark_onward
    | with_reducible apply State.haltDim_onward | with_reducible apply State.when_onward
    | with_reducible apply State.afterHandover_onward | intro _ | split

theorem State.haltConv_onward {s₀ s : State} (h : s₀.Onward s) (w : Wing) :
    s₀.Onward (State.haltConv s w) := by
  unfold State.haltConv
  repeat' first
    | with_reducible exact h | with_reducible exact .refl _ | with_reducible apply State.upTo_onward
    | with_reducible apply State.haltDim_onward | intro _

theorem State.resumeConv_onward {s₀ s : State} (h : s₀.Onward s) (w : Wing) :
    s₀.Onward (State.resumeConv s w) := by
  unfold State.resumeConv
  repeat' first
    | with_reducible exact h | with_reducible exact .refl _ | with_reducible apply State.when_onward
    | with_reducible apply State.bgChange_onward | intro _

theorem State.unlockAdc_onward {s₀ s : State} (h : s₀.Onward s) (w : Wing) :
    s₀.Onward (State.unlockAdc s w) := by
  unfold State.unlockAdc
  repeat' first
    | with_reducible exact h | with_reducible exact .refl _ | with_reducible apply State.wrb_onward
    | with_reducible apply State.upTo_onward | with_reducible apply State.haltDim_onward | intro _

theorem State.unlockDac_onward {s₀ s : State} (h : s₀.Onward s) (w : Wing) :
    s₀.Onward (State.unlockDac s w) := by
  unfold State.unlockDac
  repeat' first
    | with_reducible exact h | with_reducible exact .refl _ | with_reducible apply State.wrb_onward

theorem State.dacWrite_onward {s₀ s : State} (h : s₀.Onward s) (w : Wing) :
    s₀.Onward (State.dacWrite s w) := by
  unfold State.dacWrite
  repeat' first
    | with_reducible exact h | with_reducible exact .refl _ | with_reducible apply State.onConv_onward
    | with_reducible apply State.dacCal_onward | intro _ | split | with_reducible apply onward_mk

theorem execDacCalStart_onward (s : State) (req : Req) (w : Wing) :
    Completes s (execDacCalStart req w s) := by
  unfold execDacCalStart
  repeat' first
    | apply completes_next | with_reducible exact .refl _ | with_reducible apply State.via_onward
    | with_reducible apply State.dacWrite_onward | with_reducible apply State.begin_onward | intro _

theorem State.setDac_onward {s₀ s : State} (h : s₀.Onward s) (w : Wing) (trims : List SliceTrim) :
    s₀.Onward (State.setDac s w trims) := by
  unfold State.setDac
  repeat' first
    | with_reducible exact h | with_reducible exact .refl _ | with_reducible apply State.onConv_onward
    | with_reducible apply onward_foldl | intro _ | split | with_reducible apply onward_mk

theorem State.dacDone_onward {s₀ s : State} (h : s₀.Onward s) (w : Wing) (trims : List SliceTrim) :
    s₀.Onward (State.dacDone s w trims) := by
  unfold State.dacDone
  dsimp only
  repeat' first
    | with_reducible exact h | with_reducible exact .refl _ | with_reducible apply State.setDac_onward
    | with_reducible apply State.upTo_onward | with_reducible apply State.wr_onward
    | with_reducible apply State.wrS_onward | with_reducible apply State.wrb_onward
    | with_reducible apply State.evt_onward | intro _

theorem State.collect_onward {s₀ s : State} (h : s₀.Onward s) (c : CodeStats) :
    s₀.Onward (State.collect s c) := by
  unfold State.collect
  dsimp only
  repeat' first
    | with_reducible exact h | with_reducible exact .refl _ | with_reducible apply State.foreground_onward
    | with_reducible apply State.onDim_onward | with_reducible apply State.zero_onward | intro _ | split
    | with_reducible apply onward_mk

theorem State.restartLive_onward {s₀ s : State} (h : s₀.Onward s) (w : Wing) (d : Nat) (k : Nat) :
    s₀.Onward (State.restartLive s w d k) := by
  unfold State.restartLive
  repeat' first
    | with_reducible exact h | with_reducible exact .refl _ | with_reducible apply State.onDim_onward | intro _
    | with_reducible apply onward_mk

theorem State.latchDim_onward {s₀ s : State} (h : s₀.Onward s) (w : Wing) (d : Nat) :
    s₀.Onward (State.latchDim s w d) := by
  unfold State.latchDim
  dsimp only
  repeat' first
    | with_reducible exact h | with_reducible exact .refl _ | with_reducible apply State.zero_onward
    | with_reducible apply State.wrWide_onward | with_reducible apply State.wrS_onward
    | with_reducible apply State.wrb_onward | with_reducible apply State.wr_onward
    | with_reducible apply State.restartLive_onward

theorem State.latchSlice_onward {s₀ s : State} (h : s₀.Onward s) (w : Wing) (d : Nat) (k : Nat) :
    s₀.Onward (State.latchSlice s w d k) := by
  unfold State.latchSlice
  dsimp only
  repeat' first
    | with_reducible exact h | with_reducible exact .refl _ | with_reducible apply State.zero_onward
    | with_reducible apply State.wrWide_onward | with_reducible apply State.wrS_onward
    | with_reducible apply State.wrb_onward | with_reducible apply State.wr_onward
    | with_reducible apply State.restartLive_onward

theorem State.staleSlice_onward {s₀ s : State} (h : s₀.Onward s) (w : Wing) (d : Nat) (k : Nat) :
    s₀.Onward (State.staleSlice s w d k) := by
  unfold State.staleSlice
  repeat' first
    | with_reducible exact h | with_reducible exact .refl _ | with_reducible apply State.wrb_onward
    | with_reducible apply State.wr_onward

theorem State.latchBlocks_onward {s₀ s : State} (h : s₀.Onward s) (w : Wing) (d : Nat) :
    s₀.Onward (State.latchBlocks s w d) := by
  unfold State.latchBlocks
  repeat' first
    | with_reducible exact h | with_reducible exact .refl _ | with_reducible apply State.latchDim_onward
    | with_reducible apply State.upTo_onward | with_reducible apply State.staleSlice_onward
    | with_reducible apply State.latchSlice_onward | intro _ | split

theorem State.latchConv_onward {s₀ s : State} (h : s₀.Onward s) (w : Wing) :
    s₀.Onward (State.latchConv s w) := by
  unfold State.latchConv
  repeat' first
    | with_reducible exact h | with_reducible exact .refl _ | with_reducible apply State.when_onward
    | with_reducible apply State.foreground_onward | with_reducible apply State.upTo_onward
    | with_reducible apply State.latchBlocks_onward | intro _

end Sys2Proof.Machine
end

