-- ==== Sys2Proof/Laws/OnwardReceive.lean ====
section
/-!
SUPPORT. `State.Onward` over the operations of Machine/Receive.lean.
-/

namespace Sys2Proof.Machine

theorem State.showReach_onward {s₀ s : State} (h : s₀.Onward s) (w : Wing) :
    s₀.Onward (State.showReach s w) := by
  unfold State.showReach
  repeat' first
    | with_reducible exact h | with_reducible exact .refl _ | with_reducible apply State.wr_onward

theorem State.setCd_onward {s₀ s : State} (h : s₀.Onward s) (w : Wing) (cd : Int) :
    s₀.Onward (State.setCd s w cd) := by
  unfold State.setCd
  repeat' first
    | with_reducible exact h | with_reducible exact .refl _ | with_reducible apply State.tapsWrite_onward
    | with_reducible apply State.wrS_onward | with_reducible apply State.wrb_onward
    | with_reducible apply State.wr_onward

theorem State.sp2End_onward {s₀ s : State} (h : s₀.Onward s) (w : Wing) :
    s₀.Onward (State.sp2End s w) := by
  unfold State.sp2End
  dsimp only
  repeat' first
    | with_reducible exact h | with_reducible exact .refl _ | with_reducible apply State.onRx_onward
    | with_reducible apply State.wrb_onward | with_reducible apply State.evt_onward | intro _
    | with_reducible apply onward_mk

theorem State.sp2Off_onward {s₀ s : State} (h : s₀.Onward s) (w : Wing) :
    s₀.Onward (State.sp2Off s w) := by
  unfold State.sp2Off
  repeat' first
    | with_reducible exact h | with_reducible exact .refl _ | with_reducible apply State.when_onward
    | with_reducible apply State.sp2End_onward | with_reducible apply State.wrb_onward | intro _

theorem execSp2AutoOn_onward (s : State) (w : Wing) :
    Completes s (execSp2AutoOn w s) := by
  unfold execSp2AutoOn
  dsimp only
  repeat' first
    | apply completes_next | with_reducible exact .refl _ | with_reducible apply State.begin_onward
    | with_reducible apply State.sp2Request_onward | split

theorem execSp2AutoOff_onward (s : State) (w : Wing) :
    Completes s (execSp2AutoOff w s) := by
  unfold execSp2AutoOff
  dsimp only
  repeat' first
    | apply completes_next | with_reducible exact .refl _ | with_reducible apply State.begin_onward
    | with_reducible apply State.onRx_onward | intro _ | split | with_reducible apply onward_mk

theorem State.pauseOutput_onward {s₀ s : State} (h : s₀.Onward s) (w : Wing) :
    s₀.Onward (State.pauseOutput s w) := by
  unfold State.pauseOutput
  repeat' first
    | with_reducible exact h | with_reducible exact .refl _ | with_reducible apply State.onRx_onward | intro _
    | with_reducible apply onward_mk

theorem execSp2Start_onward (s : State) (w : Wing) :
    Completes s (execSp2Start w s) := by
  unfold execSp2Start
  dsimp only
  repeat' first
    | apply completes_next | with_reducible exact .refl _ | with_reducible apply State.begin_onward
    | with_reducible apply State.wrb_onward | with_reducible apply State.evt_onward
    | with_reducible apply State.pauseOutput_onward | split

theorem execSp2Stop_onward (s : State) (w : Wing) :
    Completes s (execSp2Stop w s) := by
  unfold execSp2Stop
  dsimp only
  repeat' first
    | apply completes_next | with_reducible exact .refl _ | with_reducible apply State.begin_onward
    | with_reducible apply State.sp2End_onward | with_reducible apply State.wrb_onward | split

theorem execSp2DrainDone_onward (s : State) (w : Wing) :
    Completes s (execSp2DrainDone w s) := by
  unfold execSp2DrainDone
  repeat' first
    | apply completes_next | with_reducible exact .refl _ | with_reducible apply State.wrb_onward
    | with_reducible apply State.begin_onward

theorem State.setRx_onward {s₀ s : State} (h : s₀.Onward s) (w : Wing) (st : Nat) :
    s₀.Onward (State.setRx s w st) := by
  unfold State.setRx
  dsimp only
  repeat' first
    | with_reducible exact h | with_reducible exact .refl _ | with_reducible apply State.wr_onward
    | with_reducible apply State.evt_onward | with_reducible apply State.sp2Off_onward
    | with_reducible apply State.icmRefresh_onward | with_reducible apply State.loseCand_onward | split

theorem State.zero_onward {s₀ s : State} (h : s₀.Onward s) (rs : List Row) (i : List Nat) :
    s₀.Onward (State.zero s rs i) := by
  unfold State.zero
  repeat' first
    | with_reducible exact h | with_reducible exact .refl _ | with_reducible apply State.wr_onward
    | with_reducible apply onward_foldl | intro _

theorem State.clearRx_onward {s₀ s : State} (h : s₀.Onward s) (w : Wing) :
    s₀.Onward (State.clearRx s w) := by
  unfold State.clearRx
  dsimp only
  repeat' first
    | with_reducible exact h | with_reducible exact .refl _ | with_reducible apply State.zero_onward
    | with_reducible apply State.flushBlocks_onward | with_reducible apply State.setActiveMap_onward
    | with_reducible apply State.dropAnn_onward | with_reducible apply State.onRx_onward | intro _ | split
    | with_reducible apply onward_mk

theorem State.startAcq_onward {s₀ s : State} (h : s₀.Onward s) (w : Wing) (warm : Bool) :
    s₀.Onward (State.startAcq s w warm) := by
  unfold State.startAcq
  dsimp only
  repeat' first
    | with_reducible exact h | with_reducible exact .refl _ | with_reducible apply State.setRx_onward
    | with_reducible apply State.clearRx_onward | with_reducible apply State.countWrap_onward
    | with_reducible apply State.wrS_onward | with_reducible apply State.onRx_onward | intro _ | split
    | with_reducible apply onward_mk

theorem State.toWait_onward {s₀ s : State} (h : s₀.Onward s) (w : Wing) :
    s₀.Onward (State.toWait s w) := by
  unfold State.toWait
  repeat' first
    | with_reducible exact h | with_reducible exact .refl _ | with_reducible apply State.setRx_onward
    | with_reducible apply State.clearRx_onward | with_reducible apply State.icmSearch_onward

theorem execAcqStart_onward (s : State) (w : Wing) :
    Completes s (execAcqStart w s) := by
  unfold execAcqStart
  dsimp only
  repeat' first
    | apply completes_next | with_reducible exact .refl _ | with_reducible apply State.begin_onward
    | with_reducible apply State.startAcq_onward | split

theorem State.failAcq_onward {s₀ s : State} (h : s₀.Onward s) (w : Wing) (reason : Nat) :
    s₀.Onward (State.failAcq s w reason) := by
  unfold State.failAcq
  dsimp only
  repeat' first
    | with_reducible exact h | with_reducible exact .refl _ | with_reducible apply State.flushBlocks_onward
    | with_reducible apply State.setRx_onward | with_reducible apply State.wr_onward
    | with_reducible apply State.evt_onward | with_reducible apply State.when_onward
    | with_reducible apply State.emit_onward | intro _

theorem execAcqFail_onward (s : State) (w : Wing) (reason : Fin 16) :
    Completes s (execAcqFail w reason s) := by
  unfold execAcqFail
  dsimp only
  repeat' first
    | apply completes_next | with_reducible exact .refl _ | with_reducible apply State.begin_onward
    | with_reducible apply State.failAcq_onward | split

theorem execAcqRetry_onward (s : State) (w : Wing) :
    Completes s (execAcqRetry w s) := by
  unfold execAcqRetry
  dsimp only
  repeat' first
    | apply completes_next | with_reducible exact .refl _ | with_reducible apply State.begin_onward
    | with_reducible apply State.startAcq_onward | split

theorem State.reacquire_onward {s₀ s : State} (h : s₀.Onward s) (w : Wing) (warm : Bool) :
    s₀.Onward (State.reacquire s w warm) := by
  unfold State.reacquire
  repeat' first
    | with_reducible exact h | with_reducible exact .refl _ | with_reducible apply State.startAcq_onward | split

theorem execReacq_onward (s : State) (req : Req) (w : Wing) (warm : Bool) :
    Completes s (execReacq req w warm s) := by
  unfold execReacq
  repeat' first
    | apply completes_next | with_reducible exact .refl _ | with_reducible apply State.via_onward
    | with_reducible apply State.reacquire_onward | with_reducible apply State.begin_onward | intro _

theorem State.enterCd_onward {s₀ s : State} (h : s₀.Onward s) (w : Wing) :
    s₀.Onward (State.enterCd s w) := by
  unfold State.enterCd
  dsimp only
  repeat' first
    | with_reducible exact h | with_reducible exact .refl _ | with_reducible apply State.setRx_onward
    | with_reducible apply State.onRx_onward | intro _ | with_reducible apply onward_mk

theorem State.stepFreq_onward {s₀ s : State} (h : s₀.Onward s) (w : Wing) (m : AcqInput) :
    s₀.Onward (State.stepFreq s w m) := by
  unfold State.stepFreq
  dsimp only
  repeat' first
    | with_reducible exact h | with_reducible exact .refl _ | with_reducible apply State.wrS_onward
    | with_reducible apply State.failAcq_onward | with_reducible apply State.enterCd_onward | split

theorem State.enterTiming_onward {s₀ s : State} (h : s₀.Onward s) (w : Wing) :
    s₀.Onward (State.enterTiming s w) := by
  unfold State.enterTiming
  dsimp only
  repeat' first
    | with_reducible exact h | with_reducible exact .refl _ | with_reducible apply State.setRx_onward
    | with_reducible apply State.onRx_onward | intro _ | with_reducible apply onward_mk

theorem State.stepCd_onward {s₀ s : State} (h : s₀.Onward s) (w : Wing) (m : AcqInput) :
    s₀.Onward (State.stepCd s w m) := by
  unfold State.stepCd
  dsimp only
  repeat' first
    | with_reducible exact h | with_reducible exact .refl _ | with_reducible apply State.setCd_onward
    | with_reducible apply State.enterTiming_onward | with_reducible apply State.failAcq_onward | split

theorem State.enterEq_onward {s₀ s : State} (h : s₀.Onward s) (w : Wing) :
    s₀.Onward (State.enterEq s w) := by
  unfold State.enterEq
  dsimp only
  repeat' first
    | with_reducible exact h | with_reducible exact .refl _ | with_reducible apply State.setRx_onward
    | with_reducible apply State.onRx_onward | intro _ | split | with_reducible apply onward_mk

theorem State.stepTiming_onward {s₀ s : State} (h : s₀.Onward s) (w : Wing) (m : AcqInput) :
    s₀.Onward (State.stepTiming s w m) := by
  unfold State.stepTiming
  repeat' first
    | with_reducible exact h | with_reducible exact .refl _ | with_reducible apply State.failAcq_onward
    | with_reducible apply State.wrS_onward | with_reducible apply State.wrb_onward
    | with_reducible apply State.enterEq_onward | split

theorem State.stepEq_onward {s₀ s : State} (h : s₀.Onward s) (w : Wing) (m : AcqInput) :
    s₀.Onward (State.stepEq s w m) := by
  unfold State.stepEq
  repeat' first
    | with_reducible exact h | with_reducible exact .refl _ | with_reducible apply State.onRx_onward
    | with_reducible apply State.enterCd_onward | with_reducible apply State.wrb_onward
    | with_reducible apply State.wr_onward | with_reducible apply State.setRx_onward | intro _ | split
    | with_reducible apply onward_mk

theorem State.reachReady_onward {s₀ s : State} (h : s₀.Onward s) (w : Wing) :
    s₀.Onward (State.reachReady s w) := by
  unfold State.reachReady
  dsimp only
  repeat' first
    | with_reducible exact h | with_reducible exact .refl _ | with_reducible apply State.setRx_onward
    | with_reducible apply State.wrb_onward | with_reducible apply State.wr_onward
    | with_reducible apply State.evt_onward | with_reducible apply State.onRx_onward
    | with_reducible apply State.window_onward | with_reducible apply State.zero_onward
    | with_reducible apply State.when_onward | with_reducible apply State.sp2Request_onward
    | with_reducible apply State.icmRefresh_onward | intro _ | with_reducible apply onward_mk

theorem State.stepLate_onward {s₀ s : State} (h : s₀.Onward s) (w : Wing) :
    s₀.Onward (State.stepLate s w) := by
  unfold State.stepLate
  dsimp only
  repeat' first
    | with_reducible exact h | with_reducible exact .refl _ | with_reducible apply State.wr_onward
    | with_reducible apply State.setRx_onward | with_reducible apply State.wrb_onward
    | with_reducible apply State.failAcq_onward | with_reducible apply State.reachReady_onward | split

theorem State.acqStep_onward {s₀ s : State} (h : s₀.Onward s) (w : Wing) (m : AcqInput) :
    s₀.Onward (State.acqStep s w m) := by
  unfold State.acqStep
  repeat' first
    | with_reducible exact h | with_reducible exact .refl _ | with_reducible apply State.setRx_onward
    | with_reducible apply State.stepFreq_onward | with_reducible apply State.stepCd_onward
    | with_reducible apply State.stepTiming_onward | with_reducible apply State.stepEq_onward
    | with_reducible apply State.stepLate_onward | split

theorem execAcqStepComplete_onward (s : State) (w : Wing) (m : AcqInput) :
    Completes s (execAcqStepComplete w m s) := by
  unfold execAcqStepComplete
  dsimp only
  repeat' first
    | apply completes_next | with_reducible exact .refl _ | with_reducible apply State.begin_onward
    | with_reducible apply State.acqStep_onward | split

theorem State.updateLos_onward {s₀ s : State} (h : s₀.Onward s) (w : Wing) :
    s₀.Onward (State.updateLos s w) := by
  unfold State.updateLos
  repeat' first
    | with_reducible exact h | with_reducible exact .refl _ | with_reducible apply State.releaseOne_onward

theorem execLosAssert_onward (s : State) (w : Wing) (power : Int) :
    Completes s (execLosAssert w power s) := by
  unfold execLosAssert
  dsimp only
  repeat' first
    | apply completes_next | with_reducible exact .refl _ | with_reducible apply State.updateLos_onward
    | with_reducible apply State.wrb_onward | with_reducible apply State.wrS_onward
    | with_reducible apply State.toWait_onward | with_reducible apply State.trigger_onward
    | with_reducible apply State.wingStep_onward | with_reducible apply State.icmRefresh_onward
    | with_reducible apply State.begin_onward | split | with_reducible apply onward_mk

theorem execLosClear_onward (s : State) (w : Wing) (power : Int) :
    Completes s (execLosClear w power s) := by
  unfold execLosClear
  dsimp only
  repeat' first
    | apply completes_next | with_reducible exact .refl _ | with_reducible apply State.updateLos_onward
    | with_reducible apply State.wrb_onward | with_reducible apply State.trigger_onward
    | with_reducible apply State.wingStep_onward | with_reducible apply State.icmRefresh_onward
    | with_reducible apply State.begin_onward | split | with_reducible apply onward_mk

theorem execCfAlignLoss_onward (s : State) (w : Wing) :
    Completes s (execCfAlignLoss w s) := by
  unfold execCfAlignLoss
  dsimp only
  repeat' first
    | apply completes_next | with_reducible exact .refl _ | with_reducible apply State.begin_onward
    | with_reducible apply State.count_onward | with_reducible apply State.startAcq_onward
    | with_reducible apply State.toWait_onward | split

theorem execCdTrackMove_onward (s : State) (w : Wing) (residual : Int) :
    Completes s (execCdTrackMove w residual s) := by
  unfold execCdTrackMove
  dsimp only
  repeat' first
    | apply completes_next | with_reducible exact .refl _ | with_reducible apply State.begin_onward
    | with_reducible apply State.setCd_onward | with_reducible apply State.when_onward
    | with_reducible apply State.evt_onward | intro _ | split

theorem execEqReconv_onward (s : State) (w : Wing) :
    Completes s (execEqReconv w s) := by
  unfold execEqReconv
  dsimp only
  repeat' first
    | apply completes_next | with_reducible exact .refl _ | with_reducible apply State.begin_onward
    | with_reducible apply State.wrb_onward | with_reducible apply State.evt_onward
    | with_reducible apply State.onRx_onward | intro _ | split | with_reducible apply onward_mk

theorem execEqReconvDone_onward (s : State) (w : Wing) :
    Completes s (execEqReconvDone w s) := by
  unfold execEqReconvDone
  dsimp only
  repeat' first
    | apply completes_next | with_reducible exact .refl _ | with_reducible apply State.begin_onward
    | with_reducible apply State.wrb_onward | with_reducible apply State.onRx_onward | intro _ | split
    | with_reducible apply onward_mk

theorem State.showFigures_onward {s₀ s : State} (h : s₀.Onward s) (w : Wing) (f : Figures) :
    s₀.Onward (State.showFigures s w f) := by
  unfold State.showFigures
  dsimp only
  repeat' first
    | with_reducible exact h | with_reducible exact .refl _ | with_reducible apply State.wr_onward
    | with_reducible apply State.wrb_onward | with_reducible apply State.wrS_onward | split

theorem State.endWindow_onward {s₀ s : State} (h : s₀.Onward s) (w : Wing) :
    s₀.Onward (State.endWindow s w) := by
  unfold State.endWindow
  repeat' first
    | with_reducible exact h | with_reducible exact .refl _ | with_reducible apply State.showFigures_onward
    | with_reducible apply State.window_onward | with_reducible apply State.onRx_onward
    | with_reducible apply State.zero_onward | intro _ | with_reducible apply onward_mk

theorem State.queueAdvice_onward {s₀ s : State} (h : s₀.Onward s) (w : Wing) :
    s₀.Onward (State.queueAdvice s w) := by
  unfold State.queueAdvice
  dsimp only
  repeat' first
    | with_reducible exact h | with_reducible exact .refl _ | with_reducible apply State.icmQueue_onward

theorem State.advise_onward {s₀ s : State} (h : s₀.Onward s) (w : Wing) (p : Nat × Nat) :
    s₀.Onward (State.advise s w p) := by
  unfold State.advise
  dsimp only
  repeat' first
    | with_reducible exact h | with_reducible exact .refl _ | with_reducible apply State.wrb_onward
    | with_reducible apply State.wr_onward | with_reducible apply State.when_onward
    | with_reducible apply State.queueAdvice_onward | intro _ | split

theorem State.marginRuns_onward {s₀ s : State} (h : s₀.Onward s) (w : Wing) :
    s₀.Onward (State.marginRuns s w) := by
  unfold State.marginRuns
  dsimp only
  repeat' first
    | with_reducible exact h | with_reducible exact .refl _ | with_reducible apply State.onRx_onward | intro _ | split
    | with_reducible apply onward_mk

theorem State.holdAdvice_onward {s₀ s : State} (h : s₀.Onward s) (w : Wing) :
    s₀.Onward (State.holdAdvice s w) := by
  unfold State.holdAdvice
  dsimp only
  repeat' first
    | with_reducible exact h | with_reducible exact .refl _ | with_reducible apply State.wrb_onward
    | with_reducible apply State.wr_onward

theorem State.policy_onward {s₀ s : State} (h : s₀.Onward s) (w : Wing) :
    s₀.Onward (State.policy s w) := by
  unfold State.policy
  dsimp only
  repeat' first
    | with_reducible exact h | with_reducible exact .refl _ | with_reducible apply State.marginRuns_onward
    | with_reducible apply State.advise_onward | with_reducible apply State.when_onward
    | with_reducible apply State.holdAdvice_onward | intro _ | split

theorem execFomWindowEnd_onward (s : State) (w : Wing) :
    Completes s (execFomWindowEnd w s) := by
  unfold execFomWindowEnd
  dsimp only
  repeat' first
    | apply completes_next | with_reducible exact .refl _ | with_reducible apply State.begin_onward
    | with_reducible apply State.endWindow_onward | with_reducible apply State.policy_onward
    | with_reducible apply State.onRx_onward | intro _ | split | with_reducible apply onward_mk

end Sys2Proof.Machine
end

