-- ==== Sys2Proof/Laws/OnwardOptics.lean ====
section
/-!
SUPPORT. `State.Onward` over the operations of Machine/Optics.lean.
-/

namespace Sys2Proof.Machine

theorem State.onOpt_onward {s₀ s : State} (h : s₀.Onward s) (w : Wing) (f : Optics → Optics) :
    s₀.Onward (State.onOpt s w f) := by
  unfold State.onOpt
  repeat' first
    | with_reducible exact h | with_reducible exact .refl _ | with_reducible apply onward_mk

theorem State.setOpt_onward {s₀ s : State} (h : s₀.Onward s) (w : Wing) (st : Nat) :
    s₀.Onward (State.setOpt s w st) := by
  unfold State.setOpt
  repeat' first
    | with_reducible exact h | with_reducible exact .refl _ | with_reducible apply State.wr_onward
    | with_reducible apply State.icmRefresh_onward

theorem State.optEval_onward {s₀ s : State} (h : s₀.Onward s) (w : Wing) :
    s₀.Onward (State.optEval s w) := by
  unfold State.optEval
  repeat' first
    | with_reducible exact h | with_reducible exact .refl _ | with_reducible apply State.onOpt_onward
    | with_reducible apply State.setOpt_onward | intro _ | split | with_reducible apply onward_mk

theorem State.tune_onward {s₀ s : State} (h : s₀.Onward s) (w : Wing) :
    s₀.Onward (State.tune s w) := by
  unfold State.tune
  dsimp only
  repeat' first
    | with_reducible exact h | with_reducible exact .refl _ | with_reducible apply State.onOpt_onward
    | with_reducible apply State.retune_onward | with_reducible apply State.wrb_onward
    | with_reducible apply State.setOpt_onward | with_reducible apply State.startDac_onward | intro _ | split
    | with_reducible apply onward_mk

theorem State.retune_onward {s₀ s : State} (h : s₀.Onward s) (w : Wing) :
    s₀.Onward (State.retune s w) := by
  unfold State.retune
  repeat' first
    | with_reducible exact h | with_reducible exact .refl _ | with_reducible apply State.onOpt_onward
    | with_reducible apply State.setOpt_onward | with_reducible apply State.tune_onward | intro _ | split
    | with_reducible apply onward_mk

theorem State.txFreq_onward {s₀ s : State} (h : s₀.Onward s) (w : Wing) (ch : Int) (fine : Int) :
    s₀.Onward (State.txFreq s w ch fine) := by
  unfold State.txFreq
  dsimp only
  repeat' first
    | with_reducible exact h | with_reducible exact .refl _ | with_reducible apply State.wrS_onward
    | with_reducible apply State.evt_onward | with_reducible apply State.retune_onward
    | with_reducible apply State.icmRefresh_onward | split

theorem execTxFreqWrite_onward (s : State) (req : Req) (w : Wing) (ch : Int) (fine : Int) :
    Completes s (execTxFreqWrite req w ch fine s) := by
  unfold execTxFreqWrite
  repeat' first
    | apply completes_next | with_reducible exact .refl _ | with_reducible apply State.via_onward
    | with_reducible apply State.txFreq_onward | with_reducible apply State.begin_onward | intro _

theorem State.tuneLo_onward {s₀ s : State} (h : s₀.Onward s) (w : Wing) :
    s₀.Onward (State.tuneLo s w) := by
  unfold State.tuneLo
  repeat' first
    | with_reducible exact h | with_reducible exact .refl _ | with_reducible apply State.wrb_onward
    | with_reducible apply State.onOpt_onward | intro _ | with_reducible apply onward_mk

theorem State.loFreq_onward {s₀ s : State} (h : s₀.Onward s) (w : Wing) (ch : Int) (fine : Int) :
    s₀.Onward (State.loFreq s w ch fine) := by
  unfold State.loFreq
  dsimp only
  repeat' first
    | with_reducible exact h | with_reducible exact .refl _ | with_reducible apply State.wrS_onward
    | with_reducible apply State.evt_onward | with_reducible apply State.tuneLo_onward
    | with_reducible apply State.toWait_onward | with_reducible apply State.icmRefresh_onward
    | with_reducible apply State.onOpt_onward | intro _ | split | with_reducible apply onward_mk

theorem execLoFreqWrite_onward (s : State) (req : Req) (w : Wing) (ch : Int) (fine : Int) :
    Completes s (execLoFreqWrite req w ch fine s) := by
  unfold execLoFreqWrite
  repeat' first
    | apply completes_next | with_reducible exact .refl _ | with_reducible apply State.via_onward
    | with_reducible apply State.loFreq_onward | with_reducible apply State.begin_onward | intro _

theorem execTxLaserLock_onward (s : State) (w : Wing) :
    Completes s (execTxLaserLock w s) := by
  unfold execTxLaserLock
  dsimp only
  repeat' first
    | apply completes_next | with_reducible exact .refl _ | with_reducible apply State.begin_onward
    | with_reducible apply State.onOpt_onward | with_reducible apply State.wrb_onward
    | with_reducible apply State.evt_onward | with_reducible apply State.setOpt_onward
    | with_reducible apply State.optEval_onward | intro _ | split | with_reducible apply onward_mk

theorem execTxTuneTimeout_onward (s : State) (w : Wing) :
    Completes s (execTxTuneTimeout w s) := by
  unfold execTxTuneTimeout
  dsimp only
  repeat' first
    | apply completes_next | with_reducible exact .refl _ | with_reducible apply State.begin_onward
    | with_reducible apply State.onOpt_onward | with_reducible apply State.evt_onward
    | with_reducible apply State.setOpt_onward | intro _ | split | with_reducible apply onward_mk

theorem execLoTuneDone_onward (s : State) (w : Wing) :
    Completes s (execLoTuneDone w s) := by
  unfold execLoTuneDone
  dsimp only
  repeat' first
    | apply completes_next | with_reducible exact .refl _ | with_reducible apply State.begin_onward
    | with_reducible apply State.onOpt_onward | with_reducible apply State.wrb_onward
    | with_reducible apply State.evt_onward | intro _ | split | with_reducible apply onward_mk

theorem execLoTuneFail_onward (s : State) (w : Wing) :
    Completes s (execLoTuneFail w s) := by
  unfold execLoTuneFail
  dsimp only
  repeat' first
    | apply completes_next | with_reducible exact .refl _ | with_reducible apply State.begin_onward
    | with_reducible apply State.onOpt_onward | with_reducible apply State.evt_onward | intro _ | split
    | with_reducible apply onward_mk

theorem State.takeTxCtl_onward {s₀ s : State} (h : s₀.Onward s) (w : Wing) :
    s₀.Onward (State.takeTxCtl s w) := by
  unfold State.takeTxCtl
  repeat' first
    | with_reducible exact h | with_reducible exact .refl _ | with_reducible apply State.releaseOne_onward
    | with_reducible apply onward_foldl | intro _

theorem State.txCtl_onward {s₀ s : State} (h : s₀.Onward s) (w : Wing) (enable : Bool) (rampMs : Nat) (power : Int) :
    s₀.Onward (State.txCtl s w enable rampMs power) := by
  unfold State.txCtl
  dsimp only
  repeat' first
    | with_reducible exact h | with_reducible exact .refl _ | with_reducible apply State.keepUse_onward
    | with_reducible apply State.wrS_onward | with_reducible apply State.wr_onward
    | with_reducible apply State.wrb_onward | with_reducible apply State.when_onward
    | with_reducible apply State.takeTxCtl_onward | with_reducible apply onward_foldl | intro _

theorem execTxCtlWrite_onward (s : State) (req : Req) (w : Wing) (enable : Bool) (rampMs : Nat) (power : Int) :
    Completes s (execTxCtlWrite req w enable rampMs power s) := by
  unfold execTxCtlWrite
  repeat' first
    | apply completes_next | with_reducible exact .refl _ | with_reducible apply State.via_onward
    | with_reducible apply State.txCtl_onward | with_reducible apply State.begin_onward | intro _

theorem State.goDark_onward {s₀ s : State} (h : s₀.Onward s) (w : Wing) :
    s₀.Onward (State.goDark s w) := by
  unfold State.goDark
  dsimp only
  repeat' first
    | with_reducible exact h | with_reducible exact .refl _ | with_reducible apply State.onOpt_onward
    | with_reducible apply State.wrS_onward | with_reducible apply State.icmAbort_onward
    | with_reducible apply State.retune_onward | with_reducible apply State.tune_onward
    | with_reducible apply State.setOpt_onward | with_reducible apply State.runDeferred_onward | intro _ | split
    | with_reducible apply onward_mk

theorem State.goLit_onward {s₀ s : State} (h : s₀.Onward s) (w : Wing) :
    s₀.Onward (State.goLit s w) := by
  unfold State.goLit
  repeat' first
    | with_reducible exact h | with_reducible exact .refl _ | with_reducible apply State.onOpt_onward
    | with_reducible apply State.evt_onward | with_reducible apply State.setOpt_onward
    | with_reducible apply State.runDeferred_onward | intro _ | with_reducible apply onward_mk

theorem State.ramp_onward {s₀ s : State} (h : s₀.Onward s) (w : Wing) :
    s₀.Onward (State.ramp s w) := by
  unfold State.ramp
  dsimp only
  repeat' first
    | with_reducible exact h | with_reducible exact .refl _ | with_reducible apply State.onOpt_onward
    | with_reducible apply State.goLit_onward | with_reducible apply State.evt_onward
    | with_reducible apply State.goDark_onward | intro _ | split | with_reducible apply onward_mk

theorem execRampUpdate_onward (s : State) (w : Wing) :
    Completes s (execRampUpdate w s) := by
  unfold execRampUpdate
  dsimp only
  repeat' first
    | apply completes_next | with_reducible exact .refl _ | with_reducible apply State.begin_onward
    | with_reducible apply State.takeTxCtl_onward | with_reducible apply State.optEval_onward
    | with_reducible apply State.trigger_onward | with_reducible apply State.ramp_onward | split

theorem State.powerLoop_onward {s₀ s : State} (h : s₀.Onward s) (w : Wing) :
    s₀.Onward (State.powerLoop s w) := by
  unfold State.powerLoop
  dsimp only
  repeat' first
    | with_reducible exact h | with_reducible exact .refl _ | with_reducible apply State.onOpt_onward
    | with_reducible apply State.when_onward | with_reducible apply State.evt_onward | intro _ | split
    | with_reducible apply onward_mk

theorem execPowerLoopUpdate_onward (s : State) (w : Wing) :
    Completes s (execPowerLoopUpdate w s) := by
  unfold execPowerLoopUpdate
  dsimp only
  repeat' first
    | apply completes_next | with_reducible exact .refl _ | with_reducible apply State.begin_onward
    | with_reducible apply State.powerLoop_onward | split

theorem State.disable_onward {s₀ s : State} (h : s₀.Onward s) (w : Wing) :
    s₀.Onward (State.disable s w) := by
  unfold State.disable
  dsimp only
  repeat' first
    | with_reducible exact h | with_reducible exact .refl _ | with_reducible apply State.retune_onward
    | with_reducible apply State.onOpt_onward | with_reducible apply State.wrb_onward
    | with_reducible apply State.wrS_onward | with_reducible apply State.icmAbort_onward
    | with_reducible apply State.setOpt_onward | with_reducible apply State.evt_onward
    | with_reducible apply State.runDeferred_onward | intro _ | with_reducible apply onward_mk

theorem execTxDisAssert_onward (s : State) (w : Wing) :
    Completes s (execTxDisAssert w s) := by
  unfold execTxDisAssert
  dsimp only
  repeat' first
    | apply completes_next | with_reducible exact .refl _ | with_reducible apply State.begin_onward
    | with_reducible apply State.wrb_onward | with_reducible apply State.disable_onward | split
    | with_reducible apply onward_mk

theorem State.enableOut_onward {s₀ s : State} (h : s₀.Onward s) (w : Wing) (onTarget : Bool) :
    s₀.Onward (State.enableOut s w onTarget) := by
  unfold State.enableOut
  repeat' first
    | with_reducible exact h | with_reducible exact .refl _ | with_reducible apply State.setOpt_onward
    | with_reducible apply State.wrb_onward | with_reducible apply State.optEval_onward
    | with_reducible apply State.onOpt_onward | with_reducible apply State.startDac_onward | intro _ | split
    | with_reducible apply onward_mk

theorem execTxDisDeassert_onward (s : State) (w : Wing) (onTarget : Bool) :
    Completes s (execTxDisDeassert w onTarget s) := by
  unfold execTxDisDeassert
  dsimp only
  repeat' first
    | apply completes_next | with_reducible exact .refl _ | with_reducible apply State.begin_onward
    | with_reducible apply State.wrb_onward | with_reducible apply State.enableOut_onward
    | with_reducible apply onward_mk

theorem State.slewFine_onward {s₀ s : State} (h : s₀.Onward s) (w : Wing) (us : Nat) :
    s₀.Onward (State.slewFine s w us) := by
  unfold State.slewFine
  dsimp only
  repeat' first
    | with_reducible exact h | with_reducible exact .refl _ | with_reducible apply State.onOpt_onward | intro _
    | split | with_reducible apply onward_mk

theorem execDacCalComplete_onward (s : State) (w : Wing) (trims : List SliceTrim) :
    Completes s (execDacCalComplete w trims s) := by
  unfold execDacCalComplete
  dsimp only
  repeat' first
    | apply completes_next | with_reducible exact .refl _ | with_reducible apply State.begin_onward
    | with_reducible apply State.dacDone_onward | with_reducible apply State.onOpt_onward
    | with_reducible apply State.optEval_onward | intro _ | split | with_reducible apply onward_mk

theorem State.startLo_onward {s₀ s : State} (h : s₀.Onward s) (w : Wing) :
    s₀.Onward (State.startLo s w) := by
  unfold State.startLo
  repeat' first
    | with_reducible exact h | with_reducible exact .refl _ | with_reducible apply State.wrb_onward
    | with_reducible apply State.tuneLo_onward | split

theorem State.startLasers_onward {s₀ s : State} (h : s₀.Onward s) (w : Wing) :
    s₀.Onward (State.startLasers s w) := by
  unfold State.startLasers
  dsimp only
  repeat' first
    | with_reducible exact h | with_reducible exact .refl _ | with_reducible apply State.startLo_onward
    | with_reducible apply State.onOpt_onward | with_reducible apply State.retune_onward
    | with_reducible apply State.wrb_onward | with_reducible apply State.startDac_onward
    | with_reducible apply State.setOpt_onward | intro _ | split | with_reducible apply onward_mk

theorem State.resetOptics_onward {s₀ s : State} (h : s₀.Onward s) (w : Wing) :
    s₀.Onward (State.resetOptics s w) := by
  unfold State.resetOptics
  dsimp only
  repeat' first
    | with_reducible exact h | with_reducible exact .refl _ | with_reducible apply State.onOpt_onward
    | with_reducible apply State.wrS_onward | with_reducible apply State.wrb_onward
    | with_reducible apply State.setOpt_onward | with_reducible apply State.evt_onward | intro _ | split
    | with_reducible apply onward_mk

end Sys2Proof.Machine
end

