-- ==== Sys2Proof/Laws/OnwardIntercom.lean ====
section
/-!
SUPPORT. `State.Onward` over the operations of Machine/Intercom.lean.
-/

namespace Sys2Proof.Machine

theorem State.startBurst_onward {s₀ s : State} (h : s₀.Onward s) (w : Wing) (m : IcmMsg) :
    s₀.Onward (State.startBurst s w m) := by
  unfold State.startBurst
  dsimp only
  repeat' first
    | with_reducible exact h | with_reducible exact .refl _ | with_reducible apply State.onIcm_onward
    | with_reducible apply State.countWrap_onward | with_reducible apply State.showQueued_onward
    | with_reducible apply State.say_onward | intro _ | with_reducible apply onward_mk

theorem execIcmBurstStart_onward (s : State) (w : Wing) :
    Completes s (execIcmBurstStart w s) := by
  unfold execIcmBurstStart
  dsimp only
  repeat' first
    | apply completes_next | with_reducible exact .refl _ | with_reducible apply State.begin_onward
    | with_reducible apply State.startBurst_onward | split

theorem execIcmBurstEnd_onward (s : State) (w : Wing) :
    Completes s (execIcmBurstEnd w s) := by
  unfold execIcmBurstEnd
  repeat' first
    | apply completes_next | with_reducible exact .refl _ | with_reducible apply State.onIcm_onward
    | with_reducible apply State.showQueued_onward | with_reducible apply State.begin_onward | intro _
    | with_reducible apply onward_mk

theorem State.repeatAdvice_onward {s₀ s : State} (h : s₀.Onward s) (w : Wing) :
    s₀.Onward (State.repeatAdvice s w) := by
  unfold State.repeatAdvice
  repeat' first
    | with_reducible exact h | with_reducible exact .refl _ | with_reducible apply State.wrb_onward
    | with_reducible apply State.wr_onward | with_reducible apply State.queueAdvice_onward

theorem execIcmAdviceRepeat_onward (s : State) (w : Wing) :
    Completes s (execIcmAdviceRepeat w s) := by
  unfold execIcmAdviceRepeat
  dsimp only
  repeat' first
    | apply completes_next | with_reducible exact .refl _ | with_reducible apply State.begin_onward
    | with_reducible apply State.repeatAdvice_onward | split

theorem execIcmBringupTimer_onward (s : State) (w : Wing) :
    Completes s (execIcmBringupTimer w s) := by
  unfold execIcmBringupTimer
  dsimp only
  repeat' first
    | apply completes_next | with_reducible exact .refl _ | with_reducible apply State.begin_onward
    | with_reducible apply State.queueBringup_onward | split

theorem execIcmTagTimer_onward (s : State) (w : Wing) :
    Completes s (execIcmTagTimer w s) := by
  unfold execIcmTagTimer
  dsimp only
  repeat' first
    | apply completes_next | with_reducible exact .refl _ | with_reducible apply State.begin_onward
    | with_reducible apply State.icmQueue_onward | split

theorem execIcmAlarmRepeat_onward (s : State) (w : Wing) :
    Completes s (execIcmAlarmRepeat w s) := by
  unfold execIcmAlarmRepeat
  dsimp only
  repeat' first
    | apply completes_next | with_reducible exact .refl _ | with_reducible apply State.begin_onward
    | with_reducible apply State.queueAlarm_onward | split

theorem State.icmSync_onward {s₀ s : State} (h : s₀.Onward s) (w : Wing) (p : Nat × Nat) :
    s₀.Onward (State.icmSync s w p) := by
  unfold State.icmSync
  repeat' first
    | with_reducible exact h | with_reducible exact .refl _ | with_reducible apply State.wr_onward
    | with_reducible apply State.wrb_onward | with_reducible apply State.onIcm_onward | intro _
    | with_reducible apply onward_mk

theorem execIcmPreambleDetect_onward (s : State) (w : Wing) (peaks : List (Nat × Nat)) :
    Completes s (execIcmPreambleDetect w peaks s) := by
  unfold execIcmPreambleDetect
  dsimp only
  repeat' first
    | apply completes_next | with_reducible exact .refl _ | with_reducible apply State.begin_onward
    | with_reducible apply State.countWrap_onward | with_reducible apply State.icmSync_onward | split

theorem State.icmTake_onward {s₀ s : State} (h : s₀.Onward s) (w : Wing) (more : List RxChirp) (st : Nat) :
    s₀.Onward (State.icmTake s w more st) := by
  unfold State.icmTake
  repeat' first
    | with_reducible exact h | with_reducible exact .refl _ | with_reducible apply State.wr_onward
    | with_reducible apply State.onIcm_onward | intro _ | with_reducible apply onward_mk

theorem State.icmFail_onward {s₀ s : State} (h : s₀.Onward s) (w : Wing) (why : IcmFail) :
    s₀.Onward (State.icmFail s w why) := by
  unfold State.icmFail
  repeat' first
    | with_reducible exact h | with_reducible exact .refl _ | with_reducible apply State.countWrap_onward
    | with_reducible apply State.icmSearch_onward

theorem execIcmFrameAbandon_onward (s : State) (w : Wing) (rx : IcmRx) :
    Completes s (execIcmFrameAbandon w rx s) := by
  unfold execIcmFrameAbandon
  dsimp only
  repeat' first
    | apply completes_next | with_reducible exact .refl _ | with_reducible apply State.begin_onward
    | with_reducible apply State.icmTake_onward | with_reducible apply State.icmFail_onward | split

theorem State.icmCapture_onward {s₀ s : State} (h : s₀.Onward s) (w : Wing) (p : Nat × Nat) :
    s₀.Onward (State.icmCapture s w p) := by
  unfold State.icmCapture
  repeat' first
    | with_reducible exact h | with_reducible exact .refl _ | with_reducible apply State.countWrap_onward
    | with_reducible apply State.icmSync_onward | with_reducible apply State.onIcm_onward | intro _
    | with_reducible apply onward_mk

theorem execIcmCapture_onward (s : State) (w : Wing) (peaks : List (Nat × Nat)) (chirps : List RxChirp) :
    Completes s (execIcmCapture w peaks chirps s) := by
  unfold execIcmCapture
  dsimp only
  repeat' first
    | apply completes_next | with_reducible exact .refl _ | with_reducible apply State.begin_onward
    | with_reducible apply State.icmCapture_onward | with_reducible apply State.countWrap_onward
    | with_reducible apply State.icmTake_onward | split

theorem State.icmFrame_onward {s₀ s : State} (h : s₀.Onward s) (w : Wing) (type : Nat) (rx : IcmRx) (act : State → Nat → List Nat → State) (hf : ∀ (t : State) (a : Nat) (b : List Nat), t.Onward (act t a b)) :
    s₀.Onward (State.icmFrame s w type rx act) := by
  unfold State.icmFrame
  dsimp only
  repeat' first
    | with_reducible exact h | with_reducible exact .refl _ | with_reducible apply State.icmTake_onward
    | with_reducible apply State.icmFail_onward | with_reducible apply State.act_onward
    | with_reducible apply State.countWrap_onward | with_reducible apply State.wr_onward
    | with_reducible apply State.wrS_onward | with_reducible apply State.icmSearch_onward
    | with_reducible refine State.Onward.trans ?_ (hf _ _ _) | split

theorem execIcmAdviceRx_onward (s : State) (w : Wing) (rx : IcmRx) :
    Completes s (execIcmAdviceRx w rx s) := by
  unfold execIcmAdviceRx
  repeat' first
    | apply completes_next | with_reducible exact .refl _ | with_reducible apply State.icmFrame_onward
    | with_reducible apply State.adviceRx_onward | with_reducible apply State.begin_onward | intro _

theorem State.announceRx_onward {s₀ s : State} (h : s₀.Onward s) (w : Wing) (seq : Nat) (h' : Nat) (fec : Nat) :
    s₀.Onward (State.announceRx s w seq h' fec) := by
  unfold State.announceRx
  dsimp only
  repeat' first
    | with_reducible exact h | with_reducible exact .refl _ | with_reducible apply State.icmQueue_onward
    | with_reducible apply State.countWrap_onward | split

theorem execIcmAnnounceRx_onward (s : State) (w : Wing) (rx : IcmRx) :
    Completes s (execIcmAnnounceRx w rx s) := by
  unfold execIcmAnnounceRx
  repeat' first
    | apply completes_next | with_reducible exact .refl _ | with_reducible apply State.icmFrame_onward
    | with_reducible apply State.announceRx_onward | with_reducible apply State.begin_onward | intro _

theorem execIcmAckRx_onward (s : State) (w : Wing) (rx : IcmRx) :
    Completes s (execIcmAckRx w rx s) := by
  unfold execIcmAckRx
  repeat' first
    | apply completes_next | with_reducible exact .refl _ | with_reducible apply State.icmFrame_onward
    | with_reducible apply State.ackIcm_onward | with_reducible apply State.begin_onward | intro _

theorem State.showBaudDiff_onward {s₀ s : State} (h : s₀.Onward s) (w : Wing) :
    s₀.Onward (State.showBaudDiff s w) := by
  unfold State.showBaudDiff
  repeat' first
    | with_reducible exact h | with_reducible exact .refl _ | with_reducible apply State.wrb_onward

theorem State.wrAll_onward {s₀ s : State} (h : s₀.Onward s) (rs : List Row) (i : List Nat) (vs : List Nat) :
    s₀.Onward (State.wrAll s rs i vs) := by
  unfold State.wrAll
  repeat' first
    | with_reducible exact h | with_reducible exact .refl _ | with_reducible apply State.wr_onward
    | with_reducible apply onward_foldl | intro _

theorem State.bringupRx_onward {s₀ s : State} (h : s₀.Onward s) (w : Wing) (vals : List Nat) :
    s₀.Onward (State.bringupRx s w vals) := by
  unfold State.bringupRx
  dsimp only
  repeat' first
    | with_reducible exact h | with_reducible exact .refl _ | with_reducible apply State.wrAll_onward
    | with_reducible apply State.showBaudDiff_onward | with_reducible apply State.when_onward
    | with_reducible apply State.evt_onward | with_reducible apply State.onIcm_onward
    | with_reducible apply State.icmRefresh_onward | intro _ | with_reducible apply onward_mk

theorem execIcmBringupRx_onward (s : State) (w : Wing) (rx : IcmRx) :
    Completes s (execIcmBringupRx w rx s) := by
  unfold execIcmBringupRx
  repeat' first
    | apply completes_next | with_reducible exact .refl _ | with_reducible apply State.icmFrame_onward
    | with_reducible apply State.bringupRx_onward | with_reducible apply State.begin_onward | intro _

theorem State.wrWords_onward {s₀ s : State} (h : s₀.Onward s) (w : Wing) (r : Row) (ws : List Nat) :
    s₀.Onward (State.wrWords s w r ws) := by
  unfold State.wrWords
  repeat' first
    | with_reducible exact h | with_reducible exact .refl _ | with_reducible apply State.wr_onward
    | with_reducible apply onward_foldl | intro _

theorem State.tagRx_onward {s₀ s : State} (h : s₀.Onward s) (w : Wing) (bytes : List Nat) :
    s₀.Onward (State.tagRx s w bytes) := by
  unfold State.tagRx
  dsimp only
  repeat' first
    | with_reducible exact h | with_reducible exact .refl _ | with_reducible apply State.wrWords_onward
    | with_reducible apply State.when_onward | with_reducible apply State.evt_onward | intro _

theorem execIcmTagRx_onward (s : State) (w : Wing) (rx : IcmRx) :
    Completes s (execIcmTagRx w rx s) := by
  unfold execIcmTagRx
  repeat' first
    | apply completes_next | with_reducible exact .refl _ | with_reducible apply State.icmFrame_onward
    | with_reducible apply State.tagRx_onward | with_reducible apply State.begin_onward | intro _

theorem State.setAlarms_onward {s₀ s : State} (h : s₀.Onward s) (w : Wing) (bits : Nat) :
    s₀.Onward (State.setAlarms s w bits) := by
  unfold State.setAlarms
  dsimp only
  repeat' first
    | with_reducible exact h | with_reducible exact .refl _ | with_reducible apply State.wr_onward
    | with_reducible apply State.when_onward | with_reducible apply State.evt_onward | intro _

theorem execIcmAlarmRx_onward (s : State) (w : Wing) (rx : IcmRx) :
    Completes s (execIcmAlarmRx w rx s) := by
  unfold execIcmAlarmRx
  repeat' first
    | apply completes_next | with_reducible exact .refl _ | with_reducible apply State.icmFrame_onward
    | with_reducible apply State.setAlarms_onward | with_reducible apply State.begin_onward | intro _

theorem execFarAlarmTimeout_onward (s : State) (w : Wing) :
    Completes s (execFarAlarmTimeout w s) := by
  unfold execFarAlarmTimeout
  repeat' first
    | apply completes_next | with_reducible exact .refl _ | with_reducible apply State.setAlarms_onward
    | with_reducible apply State.begin_onward

theorem State.showMail_onward {s₀ s : State} (h : s₀.Onward s) (w : Wing) :
    s₀.Onward (State.showMail s w) := by
  unfold State.showMail
  dsimp only
  repeat' first
    | with_reducible exact h | with_reducible exact .refl _ | with_reducible apply State.wrb_onward
    | with_reducible apply State.wr_onward | with_reducible apply State.wrWords_onward

theorem State.userRx_onward {s₀ s : State} (h : s₀.Onward s) (w : Wing) (mseq : Nat) (bytes : List Nat) :
    s₀.Onward (State.userRx s w mseq bytes) := by
  unfold State.userRx
  dsimp only
  repeat' first
    | with_reducible exact h | with_reducible exact .refl _ | with_reducible apply State.countWrap_onward
    | with_reducible apply State.evt_onward | with_reducible apply State.onIcm_onward
    | with_reducible apply State.showMail_onward | intro _ | split | with_reducible apply onward_mk

theorem execIcmUserRx_onward (s : State) (w : Wing) (rx : IcmRx) :
    Completes s (execIcmUserRx w rx s) := by
  unfold execIcmUserRx
  repeat' first
    | apply completes_next | with_reducible exact .refl _ | with_reducible apply State.icmFrame_onward
    | with_reducible apply State.userRx_onward | with_reducible apply State.begin_onward | intro _

theorem State.sendUser_onward {s₀ s : State} (h : s₀.Onward s) (w : Wing) :
    s₀.Onward (State.sendUser s w) := by
  unfold State.sendUser
  repeat' first
    | with_reducible exact h | with_reducible exact .refl _ | with_reducible apply State.evt_onward
    | with_reducible apply State.icmQueue_onward | split

theorem execUserSend_onward (s : State) (req : Req) (w : Wing) :
    Completes s (execUserSend req w s) := by
  unfold execUserSend
  repeat' first
    | apply completes_next | with_reducible exact .refl _ | with_reducible apply State.via_onward
    | with_reducible apply State.sendUser_onward | with_reducible apply State.begin_onward | intro _

theorem State.popUser_onward {s₀ s : State} (h : s₀.Onward s) (w : Wing) :
    s₀.Onward (State.popUser s w) := by
  unfold State.popUser
  repeat' first
    | with_reducible exact h | with_reducible exact .refl _ | with_reducible apply State.onIcm_onward
    | with_reducible apply State.showMail_onward | intro _ | with_reducible apply onward_mk

theorem execUserPop_onward (s : State) (req : Req) (w : Wing) :
    Completes s (execUserPop req w s) := by
  unfold execUserPop
  repeat' first
    | apply completes_next | with_reducible exact .refl _ | with_reducible apply State.via_onward
    | with_reducible apply State.popUser_onward | with_reducible apply State.begin_onward | intro _

end Sys2Proof.Machine
end

