-- ==== Sys2Proof/Laws/OnwardCipher.lean ====
section
/-!
SUPPORT. `State.Onward` over the operations of Machine/Cipher.lean.
-/

namespace Sys2Proof.Machine

theorem State.showBlocked_onward {s₀ s : State} (h : s₀.Onward s) (n : Nat) :
    s₀.Onward (State.showBlocked s n) := by
  unfold State.showBlocked
  dsimp only
  repeat' first
    | with_reducible exact h | with_reducible exact .refl _ | with_reducible apply State.wrb_onward

theorem State.setSlot_onward {s₀ s : State} (h : s₀.Onward s) (n : Nat) (st : Nat) :
    s₀.Onward (State.setSlot s n st) := by
  unfold State.setSlot
  repeat' first
    | with_reducible exact h | with_reducible exact .refl _ | with_reducible apply State.wr_onward
    | with_reducible apply State.showBlocked_onward

theorem State.onSlot_onward {s₀ s : State} (h : s₀.Onward s) (n : Nat) (f : KeySlot → KeySlot) :
    s₀.Onward (State.onSlot s n f) := by
  unfold State.onSlot
  repeat' first
    | with_reducible exact h | with_reducible exact .refl _ | with_reducible apply State.onCip_onward | intro _
    | with_reducible apply onward_mk

theorem State.zeroSlot_onward {s₀ s : State} (h : s₀.Onward s) (n : Nat) :
    s₀.Onward (State.zeroSlot s n) := by
  unfold State.zeroSlot
  repeat' first
    | with_reducible exact h | with_reducible exact .refl _ | with_reducible apply State.onSlot_onward
    | with_reducible apply State.wr_onward | with_reducible apply State.setSlot_onward | intro _

theorem State.fillSlot_onward {s₀ s : State} (h : s₀.Onward s) (n : Nat) (key : Nat) (gen : Nat) (session : Nat) (st : Nat) :
    s₀.Onward (State.fillSlot s n key gen session st) := by
  unfold State.fillSlot
  repeat' first
    | with_reducible exact h | with_reducible exact .refl _ | with_reducible apply State.onSlot_onward
    | with_reducible apply State.wr_onward | with_reducible apply State.slotWrite_onward
    | with_reducible apply State.setSlot_onward | intro _

theorem State.retire_onward {s₀ s : State} (h : s₀.Onward s) (n : Nat) (next : Option Nat) :
    s₀.Onward (State.retire s n next) := by
  unfold State.retire
  repeat' first
    | with_reducible exact h | with_reducible exact .refl _ | with_reducible apply State.onSlot_onward
    | with_reducible apply State.setSlot_onward | intro _ | with_reducible apply onward_mk

theorem State.slotEvt_onward {s₀ s : State} (h : s₀.Onward s) (r : Row) (n : Nat) :
    s₀.Onward (State.slotEvt s r n) := by
  unfold State.slotEvt
  repeat' first
    | with_reducible exact h | with_reducible exact .refl _ | with_reducible apply State.wr_onward
    | with_reducible apply State.evt_onward

theorem State.useSlot_onward {s₀ s : State} (h : s₀.Onward s) (n : Nat) (usage : Nat) :
    s₀.Onward (State.useSlot s n usage) := by
  unfold State.useSlot
  dsimp only
  repeat' first
    | with_reducible exact h | with_reducible exact .refl _ | with_reducible apply State.wr_onward
    | with_reducible apply State.when_onward | with_reducible apply State.evt_onward
    | with_reducible apply State.setSlot_onward | with_reducible apply State.slotEvt_onward | intro _ | split

theorem State.onSes_onward {s₀ s : State} (h : s₀.Onward s) (w : Wing) (f : Session → Session) :
    s₀.Onward (State.onSes s w f) := by
  unfold State.onSes
  repeat' first
    | with_reducible exact h | with_reducible exact .refl _ | with_reducible apply State.onCip_onward | intro _
    | with_reducible apply onward_mk

theorem State.derive_onward {s₀ s : State} (h : s₀.Onward s) (n : Nat) :
    s₀.Onward (State.derive s n) := by
  unfold State.derive
  dsimp only
  repeat' first
    | with_reducible exact h | with_reducible exact .refl _ | with_reducible apply State.onSes_onward
    | with_reducible apply State.fillSlot_onward | with_reducible apply State.sendGcc_onward
    | with_reducible apply State.keyReady_onward | intro _ | split | with_reducible apply onward_mk

theorem State.rederive_onward {s₀ s : State} (h : s₀.Onward s) (n : Nat) :
    s₀.Onward (State.rederive s n) := by
  unfold State.rederive
  dsimp only
  repeat' first
    | with_reducible exact h | with_reducible exact .refl _ | with_reducible apply State.derive_onward | split

theorem State.lostSlot_onward {s₀ s : State} (h : s₀.Onward s) (n : Nat) :
    s₀.Onward (State.lostSlot s n) := by
  unfold State.lostSlot
  dsimp only
  repeat' first
    | with_reducible exact h | with_reducible exact .refl _ | with_reducible apply State.onCip_onward | intro _
    | split | with_reducible apply onward_mk

theorem State.slotDamaged_onward {s₀ s : State} (h : s₀.Onward s) (n : Nat) :
    s₀.Onward (State.slotDamaged s n) := by
  unfold State.slotDamaged
  dsimp only
  repeat' first
    | with_reducible exact h | with_reducible exact .refl _ | with_reducible apply State.lostSlot_onward
    | with_reducible apply State.ueControl_onward | with_reducible apply State.spoil_onward
    | with_reducible apply State.zeroSlot_onward | with_reducible apply State.slotEvt_onward
    | with_reducible apply State.rederive_onward | intro _

theorem State.readSlot_onward {s₀ s : State} (h : s₀.Onward s) (n : Nat) :
    s₀.Onward (State.readSlot s n).2 := by
  unfold State.readSlot
  repeat' first
    | with_reducible exact h | with_reducible exact .refl _ | with_reducible apply State.correct_onward
    | with_reducible apply State.slotDamaged_onward | split

theorem State.ctxDamaged_onward {s₀ s : State} (h : s₀.Onward s) (l : MemLine) :
    s₀.Onward (State.ctxDamaged s l) := by
  unfold State.ctxDamaged
  repeat' first
    | with_reducible exact h | with_reducible exact .refl _ | with_reducible apply State.ueControl_onward
    | with_reducible apply State.spoil_onward | intro _

theorem State.ranCtx_onward {s₀ s : State} (h : s₀.Onward s) (id : Nat) :
    s₀.Onward (State.ranCtx s id) := by
  unfold State.ranCtx
  repeat' first
    | with_reducible exact h | with_reducible exact .refl _ | with_reducible apply State.onCip_onward
    | with_reducible apply State.closeCtx_onward | with_reducible apply State.native_onward | intro _ | split
    | with_reducible apply onward_mk

theorem State.runEnd_onward {s₀ s : State} (h : s₀.Onward s) (p : Nat) :
    s₀.Onward (State.runEnd s p) := by
  unfold State.runEnd
  dsimp only
  repeat' first
    | with_reducible exact h | with_reducible exact .refl _ | with_reducible apply State.setPipe_onward
    | with_reducible apply State.ranCtx_onward | with_reducible apply State.feedAll_onward | split

theorem execPipelineRunEnd_onward (s : State) (p : Fin 16) :
    Completes s (execPipelineRunEnd p s) := by
  unfold execPipelineRunEnd
  dsimp only
  repeat' first
    | apply completes_next | with_reducible exact .refl _ | with_reducible apply State.begin_onward
    | with_reducible apply State.runEnd_onward | with_reducible apply State.correct_onward
    | with_reducible apply State.ctxDamaged_onward | intro _ | split

theorem execPreempt_onward (s : State) (left : List Nat) :
    Completes s (execPreempt left s) := by
  unfold execPreempt
  dsimp only
  repeat' first
    | apply completes_next | with_reducible exact .refl _ | with_reducible apply State.begin_onward
    | with_reducible apply State.setPipe_onward | with_reducible apply State.onCip_onward
    | with_reducible apply State.countWrap_onward | with_reducible apply State.showCtx_onward | intro _ | split
    | with_reducible apply onward_mk

theorem State.voidSegment_onward {s₀ s : State} (h : s₀.Onward s) (ch : Nat) :
    s₀.Onward (State.voidSegment s ch) := by
  unfold State.voidSegment
  dsimp only
  repeat' first
    | with_reducible exact h | with_reducible exact .refl _ | with_reducible apply State.onCip_onward
    | with_reducible apply State.wrb_onward | with_reducible apply State.say_onward
    | with_reducible apply State.boxBlocks_onward | intro _ | with_reducible apply onward_mk

theorem State.sealNext_onward {s₀ s : State} (h : s₀.Onward s) (ch : Nat) (n : Nat) (k : Nat) (counter : Nat) :
    s₀.Onward (State.sealNext s ch n k counter) := by
  unfold State.sealNext
  dsimp only
  repeat' first
    | with_reducible exact h | with_reducible exact .refl _ | with_reducible apply State.nextBlocks_onward
    | with_reducible apply State.boxBlocks_onward

theorem State.keyedSegment_onward {s₀ s : State} (h : s₀.Onward s) (ch : Nat) (k : Nat) :
    s₀.Onward (State.keyedSegment s ch k) := by
  unfold State.keyedSegment
  dsimp only
  repeat' first
    | with_reducible exact h | with_reducible exact .refl _ | with_reducible apply State.wrb_onward
    | with_reducible apply State.wr_onward | with_reducible apply State.openCtx_onward
    | with_reducible apply State.say_onward | with_reducible apply State.sealNext_onward
    | with_reducible apply State.useSlot_onward | with_reducible apply State.when_onward | intro _

theorem State.rollTo_onward {s₀ s : State} (h : s₀.Onward s) (ch : Nat) (k : Nat) :
    s₀.Onward (State.rollTo s ch k) := by
  unfold State.rollTo
  dsimp only
  repeat' first
    | with_reducible exact h | with_reducible exact .refl _ | with_reducible apply State.when_onward
    | with_reducible apply State.retire_onward | with_reducible apply State.setSlot_onward
    | with_reducible apply State.onCip_onward | with_reducible apply State.wrb_onward
    | with_reducible apply State.slotEvt_onward | intro _ | with_reducible apply onward_mk

theorem State.openPhase_onward {s₀ s : State} (h : s₀.Onward s) (ch : Nat) :
    s₀.Onward (State.openPhase s ch).2 := by
  unfold State.openPhase
  dsimp only
  repeat' first
    | with_reducible exact h | with_reducible exact .refl _ | with_reducible apply State.rollTo_onward
    | with_reducible apply State.onCip_onward | intro _ | split | with_reducible apply onward_mk

theorem State.txSegment_onward {s₀ s : State} (h : s₀.Onward s) (ch : Nat) :
    s₀.Onward (State.txSegment s ch) := by
  unfold State.txSegment
  dsimp only
  repeat' first
    | with_reducible exact h | with_reducible exact .refl _ | with_reducible apply State.voidSegment_onward
    | with_reducible apply State.openPhase_onward | with_reducible apply State.readSlot_onward
    | with_reducible apply State.keyedSegment_onward | split

theorem execSegmentTxStart_onward (s : State) (ch : Fin 64) :
    Completes s (execSegmentTxStart ch s) := by
  unfold execSegmentTxStart
  dsimp only
  repeat' first
    | apply completes_next | with_reducible exact .refl _ | with_reducible apply State.begin_onward
    | with_reducible apply State.txSegment_onward
    | with_reducible refine onward_inuse ?_ (fun w => tabSorted_erase _ w) | split | with_reducible apply onward_mk

theorem State.roll_onward {s₀ s : State} (h : s₀.Onward s) (ch : Nat) :
    s₀.Onward (State.roll s ch) := by
  unfold State.roll
  repeat' first
    | with_reducible exact h | with_reducible exact .refl _ | with_reducible apply State.onCip_onward | intro _
    | split | with_reducible apply onward_mk

theorem execRoll_onward (s : State) (req : Req) (ch : Fin 64) :
    Completes s (execRoll req ch s) := by
  unfold execRoll
  repeat' first
    | apply completes_next | with_reducible exact .refl _ | with_reducible apply State.via_onward
    | with_reducible apply State.roll_onward | with_reducible apply State.begin_onward | intro _

theorem State.noKey_onward {s₀ s : State} (h : s₀.Onward s) (ch : Nat) :
    s₀.Onward (State.noKey s ch) := by
  unfold State.noKey
  repeat' first
    | with_reducible exact h | with_reducible exact .refl _ | with_reducible apply State.when_onward
    | with_reducible apply State.count_onward | with_reducible apply State.endSegment_onward | intro _

theorem State.alignSegment_onward {s₀ s : State} (h : s₀.Onward s) (ch : Nat) (confirmed : Bool) :
    s₀.Onward (State.alignSegment s ch confirmed) := by
  unfold State.alignSegment
  dsimp only
  repeat' first
    | with_reducible exact h | with_reducible exact .refl _ | with_reducible apply State.onCip_onward
    | with_reducible apply State.wrb_onward | intro _ | split | with_reducible apply onward_mk

theorem State.rxRoll_onward {s₀ s : State} (h : s₀.Onward s) (ch : Nat) (k : Nat) :
    s₀.Onward (State.rxRoll s ch k) := by
  unfold State.rxRoll
  dsimp only
  repeat' first
    | with_reducible exact h | with_reducible exact .refl _ | with_reducible apply State.when_onward
    | with_reducible apply State.retire_onward | with_reducible apply State.setSlot_onward | intro _ | split

theorem State.decrypt_onward {s₀ s : State} (h : s₀.Onward s) (ch : Nat) (seg : Segment) :
    s₀.Onward (State.decrypt s ch seg) := by
  unfold State.decrypt
  dsimp only
  repeat' first
    | with_reducible exact h | with_reducible exact .refl _ | with_reducible apply State.rxRoll_onward
    | with_reducible apply State.count_onward | with_reducible apply State.wr_onward
    | with_reducible apply State.useSlot_onward | with_reducible apply State.endSegment_onward
    | with_reducible apply State.evt_onward | split

theorem State.openSegment_onward {s₀ s : State} (h : s₀.Onward s) (ch : Nat) (seg : Segment) :
    s₀.Onward (State.openSegment s ch seg) := by
  unfold State.openSegment
  dsimp only
  repeat' first
    | with_reducible exact h | with_reducible exact .refl _ | with_reducible apply State.endSegment_onward
    | with_reducible apply State.wrb_onward | with_reducible apply State.noKey_onward
    | with_reducible apply State.count_onward | with_reducible apply State.readSlot_onward
    | with_reducible apply State.rxOpen_onward | with_reducible apply State.decrypt_onward | split

theorem State.rxSegment_onward {s₀ s : State} (h : s₀.Onward s) (ch : Nat) (seg : Segment) :
    s₀.Onward (State.rxSegment s ch seg) := by
  unfold State.rxSegment
  repeat' first
    | with_reducible exact h | with_reducible exact .refl _ | with_reducible apply State.alignSegment_onward
    | with_reducible apply State.endSegment_onward | with_reducible apply State.onCip_onward
    | with_reducible apply State.openSegment_onward | intro _ | split | with_reducible apply onward_mk

theorem execSegmentRx_onward (s : State) (ch : Fin 64) (seg : Segment) :
    Completes s (execSegmentRx ch seg s) := by
  unfold execSegmentRx
  dsimp only
  repeat' first
    | apply completes_next | with_reducible exact .refl _ | with_reducible apply State.begin_onward
    | with_reducible apply State.rxSegment_onward | split

theorem execSegLockLoss_onward (s : State) (ch : Fin 64) :
    Completes s (execSegLockLoss ch s) := by
  unfold execSegLockLoss
  dsimp only
  repeat' first
    | apply completes_next | with_reducible exact .refl _ | with_reducible apply State.begin_onward
    | with_reducible apply State.endSegment_onward | with_reducible apply State.wrb_onward
    | with_reducible apply State.onCip_onward | with_reducible apply State.evt_onward | intro _ | split
    | with_reducible apply onward_mk

theorem State.becameCurrent_onward {s₀ s : State} (h : s₀.Onward s) (n : Nat) :
    s₀.Onward (State.becameCurrent s n) := by
  unfold State.becameCurrent
  dsimp only
  repeat' first
    | with_reducible exact h | with_reducible exact .refl _ | with_reducible apply State.when_onward
    | with_reducible apply State.retire_onward | with_reducible apply State.wrb_onward | intro _

theorem State.retired_onward {s₀ s : State} (h : s₀.Onward s) (n : Nat) :
    s₀.Onward (State.retired s n) := by
  unfold State.retired
  dsimp only
  repeat' first
    | with_reducible exact h | with_reducible exact .refl _ | with_reducible apply State.zeroSlot_onward
    | with_reducible apply State.fillSlot_onward | with_reducible apply State.when_onward
    | with_reducible apply State.becameCurrent_onward | with_reducible apply State.slotEvt_onward
    | with_reducible apply State.rederive_onward | intro _ | split

theorem execRetirementComplete_onward (s : State) (slot : Fin 256) :
    Completes s (execRetirementComplete slot s) := by
  unfold execRetirementComplete
  dsimp only
  repeat' first
    | apply completes_next | with_reducible exact .refl _ | with_reducible apply State.begin_onward
    | with_reducible apply State.retired_onward | intro _ | split

theorem State.refuseKey_onward {s₀ s : State} (h : s₀.Onward s) (reason : Nat) :
    s₀.Onward (State.refuseKey s reason) := by
  unfold State.refuseKey
  repeat' first
    | with_reducible exact h | with_reducible exact .refl _ | with_reducible apply State.wrb_onward
    | with_reducible apply State.wr_onward

theorem State.runKey_onward {s₀ s : State} (h : s₀.Onward s) (op : Nat) :
    s₀.Onward (State.runKey s op) := by
  unfold State.runKey
  repeat' first
    | with_reducible exact h | with_reducible exact .refl _ | with_reducible apply State.wrb_onward
    | with_reducible apply State.onCip_onward | with_reducible apply State.when_onward
    | with_reducible apply State.askDma_onward | intro _ | with_reducible apply onward_mk

theorem State.loadSlot_onward {s₀ s : State} (h : s₀.Onward s) (n : Nat) (key : Nat) :
    s₀.Onward (State.loadSlot s n key) := by
  unfold State.loadSlot
  repeat' first
    | with_reducible exact h | with_reducible exact .refl _ | with_reducible apply State.fillSlot_onward
    | with_reducible apply State.retire_onward | split

theorem State.keyLoad_onward {s₀ s : State} (h : s₀.Onward s) (slot : Nat) :
    s₀.Onward (State.keyLoad s slot) := by
  unfold State.keyLoad
  repeat' first
    | with_reducible exact h | with_reducible exact .refl _ | with_reducible apply State.refuseKey_onward
    | with_reducible apply State.loadSlot_onward | with_reducible apply State.runKey_onward | split

theorem execKeyLoad_onward (s : State) (req : Req) (slot : Fin 512) :
    Completes s (execKeyLoad req slot s) := by
  unfold execKeyLoad
  repeat' first
    | apply completes_next | with_reducible exact .refl _ | with_reducible apply State.viaSec_onward
    | with_reducible apply State.keyLoad_onward | with_reducible apply State.begin_onward | intro _

theorem State.keyErase_onward {s₀ s : State} (h : s₀.Onward s) (n : Nat) :
    s₀.Onward (State.keyErase s n) := by
  unfold State.keyErase
  repeat' first
    | with_reducible exact h | with_reducible exact .refl _ | with_reducible apply State.refuseKey_onward
    | with_reducible apply State.retire_onward | with_reducible apply State.zeroSlot_onward | split

theorem execKeyErase_onward (s : State) (req : Req) (slot : Fin 512) :
    Completes s (execKeyErase req slot s) := by
  unfold execKeyErase
  repeat' first
    | apply completes_next | with_reducible exact .refl _ | with_reducible apply State.viaSec_onward
    | with_reducible apply State.keyErase_onward | with_reducible apply State.begin_onward | intro _

theorem State.loadKek_onward {s₀ s : State} (h : s₀.Onward s) (fetched : Option (List Nat)) :
    s₀.Onward (State.loadKek s fetched) := by
  unfold State.loadKek
  repeat' first
    | with_reducible exact h | with_reducible exact .refl _ | with_reducible apply State.refuseKey_onward
    | with_reducible apply State.onCip_onward | with_reducible apply State.runKey_onward | intro _ | split
    | with_reducible apply onward_mk

theorem execLoadKek_onward (s : State) (req : Req) (fetched : Option (List Nat)) :
    Completes s (execLoadKek req fetched s) := by
  unfold execLoadKek
  repeat' first
    | apply completes_next | with_reducible exact .refl _ | with_reducible apply State.viaSec_onward
    | with_reducible apply State.loadKek_onward | with_reducible apply State.begin_onward | intro _

theorem State.report_onward {s₀ s : State} (h : s₀.Onward s) (op : Nat) :
    s₀.Onward (State.report s op) := by
  unfold State.report
  repeat' first
    | with_reducible exact h | with_reducible exact .refl _ | with_reducible apply State.refuseKey_onward
    | with_reducible apply State.runKey_onward | split

theorem State.takeNonce_onward {s₀ s : State} (h : s₀.Onward s) :
    s₀.Onward (State.takeNonce s) := by
  unfold State.takeNonce
  repeat' first
    | with_reducible exact h | with_reducible exact .refl _ | with_reducible apply State.onCip_onward | intro _
    | split | with_reducible apply onward_mk

theorem State.attest_onward {s₀ s : State} (h : s₀.Onward s) :
    s₀.Onward (State.attest s) := by
  unfold State.attest
  repeat' first
    | with_reducible exact h | with_reducible exact .refl _ | with_reducible apply State.report_onward
    | with_reducible apply State.takeNonce_onward

theorem execAttest_onward (s : State) (req : Req) :
    Completes s (execAttest req s) := by
  unfold execAttest
  repeat' first
    | apply completes_next | with_reducible exact .refl _ | with_reducible apply State.viaSec_onward
    | with_reducible apply State.attest_onward | with_reducible apply State.begin_onward | intro _

theorem execGetCert_onward (s : State) (req : Req) :
    Completes s (execGetCert req s) := by
  unfold execGetCert
  repeat' first
    | apply completes_next | with_reducible exact .refl _ | with_reducible apply State.viaSec_onward
    | with_reducible apply State.report_onward | with_reducible apply State.begin_onward | intro _

theorem execGetKekPub_onward (s : State) (req : Req) :
    Completes s (execGetKekPub req s) := by
  unfold execGetKekPub
  repeat' first
    | apply completes_next | with_reducible exact .refl _ | with_reducible apply State.viaSec_onward
    | with_reducible apply State.report_onward | with_reducible apply State.begin_onward | intro _

theorem State.writeReport_onward {s₀ s : State} (h : s₀.Onward s) :
    s₀.Onward (State.writeReport s) := by
  unfold State.writeReport
  repeat' first
    | with_reducible exact h | with_reducible exact .refl _ | with_reducible apply State.say_onward | split

theorem State.endKey_onward {s₀ s : State} (h : s₀.Onward s) :
    s₀.Onward (State.endKey s) := by
  unfold State.endKey
  repeat' first
    | with_reducible exact h | with_reducible exact .refl _ | with_reducible apply State.when_onward
    | with_reducible apply State.endDma_onward | with_reducible apply State.wrb_onward
    | with_reducible apply State.onCip_onward | with_reducible apply State.ring_onward | intro _
    | with_reducible apply onward_mk

theorem execKeyCommandDone_onward (s : State) :
    Completes s (execKeyCommandDone s) := by
  unfold execKeyCommandDone
  dsimp only
  repeat' first
    | apply completes_next | with_reducible exact .refl _ | with_reducible apply State.begin_onward
    | with_reducible apply State.endKey_onward | with_reducible apply State.writeReport_onward | split

theorem State.breakXfer_onward {s₀ s : State} (h : s₀.Onward s) :
    s₀.Onward (State.breakXfer s) := by
  unfold State.breakXfer
  repeat' first
    | with_reducible exact h | with_reducible exact .refl _ | with_reducible apply State.onCip_onward
    | with_reducible apply State.refuseKey_onward | with_reducible apply State.endKey_onward | intro _ | split
    | with_reducible apply onward_mk

theorem State.setSes_onward {s₀ s : State} (h : s₀.Onward s) (w : Wing) (st : Nat) :
    s₀.Onward (State.setSes s w st) := by
  unfold State.setSes
  repeat' first
    | with_reducible exact h | with_reducible exact .refl _ | with_reducible apply State.wr_onward
    | with_reducible apply State.ring_onward | split

theorem State.takeSesCfg_onward {s₀ s : State} (h : s₀.Onward s) (w : Wing) :
    s₀.Onward (State.takeSesCfg s w) := by
  unfold State.takeSesCfg
  repeat' first
    | with_reducible exact h | with_reducible exact .refl _ | with_reducible apply State.releaseOne_onward

theorem State.makeInit_onward {s₀ s : State} (h : s₀.Onward s) (w : Wing) (session : Nat) :
    s₀.Onward (State.makeInit s w session).2 := by
  unfold State.makeInit
  dsimp only
  repeat' first
    | with_reducible exact h | with_reducible exact .refl _ | with_reducible apply State.fresh_onward
    | with_reducible apply State.onSes_onward | intro _ | with_reducible apply onward_mk

theorem State.initSession_onward {s₀ s : State} (h : s₀.Onward s) (w : Wing) :
    s₀.Onward (State.initSession s w) := by
  unfold State.initSession
  dsimp only
  repeat' first
    | with_reducible exact h | with_reducible exact .refl _ | with_reducible apply State.takeSesCfg_onward
    | with_reducible apply State.makeInit_onward | with_reducible apply State.wr_onward
    | with_reducible apply State.setSes_onward | with_reducible apply State.sendGcc_onward

theorem execKeInitSend_onward (s : State) (w : Wing) :
    Completes s (execKeInitSend w s) := by
  unfold execKeInitSend
  dsimp only
  repeat' first
    | apply completes_next | with_reducible exact .refl _ | with_reducible apply State.begin_onward
    | with_reducible apply State.initSession_onward | split

theorem execSessionLifeExpiry_onward (s : State) (w : Wing) :
    Completes s (execSessionLifeExpiry w s) := by
  unfold execSessionLifeExpiry
  dsimp only
  repeat' first
    | apply completes_next | with_reducible exact .refl _ | with_reducible apply State.begin_onward
    | with_reducible apply State.initSession_onward | split

theorem State.sesFault_onward {s₀ s : State} (h : s₀.Onward s) (w : Wing) (reason : Nat) :
    s₀.Onward (State.sesFault s w reason) := by
  unfold State.sesFault
  repeat' first
    | with_reducible exact h | with_reducible exact .refl _ | with_reducible apply State.onSes_onward
    | with_reducible apply State.setSes_onward | intro _ | with_reducible apply onward_mk

theorem State.makeResp_onward {s₀ s : State} (h : s₀.Onward s) (w : Wing) (session : Nat) (p : KeMsg) :
    s₀.Onward (State.makeResp s w session p).2 := by
  unfold State.makeResp
  dsimp only
  repeat' first
    | with_reducible exact h | with_reducible exact .refl _ | with_reducible apply State.fresh_onward
    | with_reducible apply State.onSes_onward | intro _ | with_reducible apply onward_mk

theorem execKeInitRx_onward (s : State) (w : Wing) (session : Nat) (p : KeMsg) :
    Completes s (execKeInitRx w session p s) := by
  unfold execKeInitRx
  dsimp only
  repeat' first
    | apply completes_next | with_reducible exact .refl _ | with_reducible apply State.begin_onward
    | with_reducible apply State.takeSesCfg_onward | with_reducible apply State.sesFault_onward
    | with_reducible apply State.makeResp_onward | with_reducible apply State.wr_onward
    | with_reducible apply State.setSes_onward | with_reducible apply State.sendGcc_onward | split

theorem execKeRespRx_onward (s : State) (w : Wing) (p : KeMsg) :
    Completes s (execKeRespRx w p s) := by
  unfold execKeRespRx
  dsimp only
  repeat' first
    | apply completes_next | with_reducible exact .refl _ | with_reducible apply State.begin_onward
    | with_reducible apply State.sesFault_onward | with_reducible apply State.onSes_onward
    | with_reducible apply State.sendGcc_onward | intro _ | split | with_reducible apply onward_mk

theorem State.deriveChan_onward {s₀ s : State} (h : s₀.Onward s) (ch : Nat) :
    s₀.Onward (State.deriveChan s ch) := by
  unfold State.deriveChan
  repeat' first
    | with_reducible exact h | with_reducible exact .refl _ | with_reducible apply State.derive_onward
    | with_reducible apply onward_foldl | intro _ | split

theorem State.sessionUp_onward {s₀ s : State} (h : s₀.Onward s) (w : Wing) :
    s₀.Onward (State.sessionUp s w) := by
  unfold State.sessionUp
  dsimp only
  repeat' first
    | with_reducible exact h | with_reducible exact .refl _ | with_reducible apply State.onSes_onward
    | with_reducible apply State.wr_onward | with_reducible apply State.setSes_onward
    | with_reducible apply State.upTo_onward | with_reducible apply State.deriveChan_onward | intro _
    | with_reducible apply onward_mk

theorem execKeFinRx_onward (s : State) (w : Wing) (mac : List Nat) :
    Completes s (execKeFinRx w mac s) := by
  unfold execKeFinRx
  dsimp only
  repeat' first
    | apply completes_next | with_reducible exact .refl _ | with_reducible apply State.begin_onward
    | with_reducible apply State.sesFault_onward | with_reducible apply State.when_onward
    | with_reducible apply State.sendGcc_onward | with_reducible apply State.sessionUp_onward | intro _ | split

theorem execKeAbort_onward (s : State) (w : Wing) :
    Completes s (execKeAbort w s) := by
  unfold execKeAbort
  dsimp only
  repeat' first
    | apply completes_next | with_reducible exact .refl _ | with_reducible apply State.begin_onward
    | with_reducible apply State.onSes_onward | with_reducible apply State.wr_onward
    | with_reducible apply State.setSes_onward | with_reducible apply State.sendGcc_onward | intro _ | split
    | with_reducible apply onward_mk

theorem execSessionRetry_onward (s : State) (w : Wing) :
    Completes s (execSessionRetry w s) := by
  unfold execSessionRetry
  dsimp only
  repeat' first
    | apply completes_next | with_reducible exact .refl _ | with_reducible apply State.begin_onward
    | with_reducible apply State.initSession_onward | with_reducible apply State.setSes_onward | split

theorem State.keyReady_onward {s₀ s : State} (h : s₀.Onward s) (n : Nat) (session : Nat) (gen : Nat) :
    s₀.Onward (State.keyReady s n session gen) := by
  unfold State.keyReady
  repeat' first
    | with_reducible exact h | with_reducible exact .refl _ | with_reducible apply State.setSlot_onward | split

theorem execKeyReadyRx_onward (s : State) (w : Wing) (ch : Fin 32) (session : Nat) (gen : Nat) :
    Completes s (execKeyReadyRx w ch session gen s) := by
  unfold execKeyReadyRx
  dsimp only
  repeat' first
    | apply completes_next | with_reducible exact .refl _ | with_reducible apply State.begin_onward
    | with_reducible apply State.keyReady_onward | split

theorem State.zeroiseWing_onward {s₀ s : State} (h : s₀.Onward s) (w : Wing) :
    s₀.Onward (State.zeroiseWing s w) := by
  unfold State.zeroiseWing
  dsimp only
  repeat' first
    | with_reducible exact h | with_reducible exact .refl _ | with_reducible apply State.upTo_onward
    | with_reducible apply State.endSegment_onward | with_reducible apply State.closeCtx_onward
    | with_reducible apply State.zeroSlot_onward | with_reducible apply State.zero_onward
    | with_reducible apply State.onCip_onward | with_reducible apply State.onSes_onward
    | with_reducible apply State.when_onward | with_reducible apply State.setSes_onward | intro _
    | with_reducible apply onward_mk

theorem State.zeroise_onward {s₀ s : State} (h : s₀.Onward s) :
    s₀.Onward (State.zeroise s) := by
  unfold State.zeroise
  repeat' first
    | with_reducible exact h | with_reducible exact .refl _ | with_reducible apply State.zeroiseWing_onward
    | with_reducible apply State.onCip_onward | intro _ | with_reducible apply onward_mk

end Sys2Proof.Machine
end

