-- ==== Sys2Proof/Laws/OnwardLanes.lean ====
section
/-!
SUPPORT. `State.Onward` over the operations of Machine/Lanes.lean.
-/

namespace Sys2Proof.Machine

theorem State.onLanes_onward {s₀ s : State} (h : s₀.Onward s) (cor : Bool) (f : LaneSet → LaneSet) :
    s₀.Onward (State.onLanes s cor f) := by
  unfold State.onLanes
  repeat' first
    | with_reducible exact h | with_reducible exact .refl _ | split | with_reducible apply onward_mk

theorem State.laneLink_onward {s₀ s : State} (h : s₀.Onward s) (cor : Bool) (l : Nat) :
    s₀.Onward (State.laneLink s cor l) := by
  unfold State.laneLink
  repeat' first
    | with_reducible exact h | with_reducible exact .refl _ | with_reducible apply State.refreshLink_onward | intro _
    | split

theorem State.upChange_onward {s₀ s : State} (h : s₀.Onward s) (cor : Bool) (l : Nat) :
    s₀.Onward (State.upChange s cor l) := by
  unfold State.upChange
  repeat' first
    | with_reducible exact h | with_reducible exact .refl _ | with_reducible apply State.evt_onward
    | with_reducible apply State.laneLink_onward

theorem State.setStage_onward {s₀ s : State} (h : s₀.Onward s) (cor : Bool) (l : Nat) (st : Nat) :
    s₀.Onward (State.setStage s cor l st) := by
  unfold State.setStage
  dsimp only
  repeat' first
    | with_reducible exact h | with_reducible exact .refl _ | with_reducible apply State.wr_onward
    | with_reducible apply State.upChange_onward | split

theorem State.markLane_onward {s₀ s : State} (h : s₀.Onward s) (cor : Bool) (l : Nat) (waiting : Bool) (kept : Bool) (warm : Bool) :
    s₀.Onward (State.markLane s cor l waiting kept warm) := by
  unfold State.markLane
  repeat' first
    | with_reducible exact h | with_reducible exact .refl _ | with_reducible apply State.onLanes_onward | intro _
    | with_reducible apply onward_mk

theorem State.setTaps_onward {s₀ s : State} (h : s₀.Onward s) (cor : Bool) (l : Nat) (taps : List Int) :
    s₀.Onward (State.setTaps s cor l taps) := by
  unfold State.setTaps
  dsimp only
  repeat' first
    | with_reducible exact h | with_reducible exact .refl _ | with_reducible apply State.upTo_onward
    | with_reducible apply State.wrS_onward | intro _

theorem State.setCtle_onward {s₀ s : State} (h : s₀.Onward s) (cor : Bool) (l : Nat) (i : Nat) :
    s₀.Onward (State.setCtle s cor l i) := by
  unfold State.setCtle
  repeat' first
    | with_reducible exact h | with_reducible exact .refl _ | with_reducible apply State.onLanes_onward | intro _
    | with_reducible apply onward_mk

theorem State.laneStart_onward {s₀ s : State} (h : s₀.Onward s) (cor : Bool) (l : Nat) :
    s₀.Onward (State.laneStart s cor l) := by
  unfold State.laneStart
  dsimp only
  repeat' first
    | with_reducible exact h | with_reducible exact .refl _ | with_reducible apply State.markLane_onward
    | with_reducible apply State.zero_onward | with_reducible apply State.setStage_onward

theorem execLaneSignalDetect_onward (s : State) (cor : Bool) (l : Fin 32) :
    Completes s (execLaneSignalDetect cor l s) := by
  unfold execLaneSignalDetect
  dsimp only
  repeat' first
    | apply completes_next | with_reducible exact .refl _ | with_reducible apply State.begin_onward
    | with_reducible apply State.setCtle_onward | with_reducible apply State.setStage_onward | split

theorem State.deskew_onward {s₀ s : State} (h : s₀.Onward s) (cor : Bool) (l : Nat) :
    s₀.Onward (State.deskew s cor l) := by
  unfold State.deskew
  dsimp only
  repeat' first
    | with_reducible exact h | with_reducible exact .refl _ | with_reducible apply State.setStage_onward
    | with_reducible apply onward_foldl | intro _ | split

theorem State.passSix_onward {s₀ s : State} (h : s₀.Onward s) (cor : Bool) (l : Nat) :
    s₀.Onward (State.passSix s cor l) := by
  unfold State.passSix
  repeat' first
    | with_reducible exact h | with_reducible exact .refl _ | with_reducible apply State.onLanes_onward
    | with_reducible apply State.deskew_onward | intro _ | with_reducible apply onward_mk

theorem State.setFom_onward {s₀ s : State} (h : s₀.Onward s) (cor : Bool) (l : Nat) (m : SlicerRun) :
    s₀.Onward (State.setFom s cor l m) := by
  unfold State.setFom
  repeat' first
    | with_reducible exact h | with_reducible exact .refl _ | with_reducible apply State.wrS_onward

theorem State.adaptBy_onward {s₀ s : State} (h : s₀.Onward s) (cor : Bool) (l : Nat) (m : SlicerRun) :
    s₀.Onward (State.adaptBy s cor l m) := by
  unfold State.adaptBy
  dsimp only
  repeat' first
    | with_reducible exact h | with_reducible exact .refl _ | with_reducible apply State.setTaps_onward
    | with_reducible apply State.setCtle_onward | intro _

theorem State.adapt_onward {s₀ s : State} (h : s₀.Onward s) (cor : Bool) (l : Nat) :
    s₀.Onward (State.adapt s cor l) := by
  unfold State.adapt
  repeat' first
    | with_reducible exact h | with_reducible exact .refl _ | with_reducible apply State.wrb_onward
    | with_reducible apply State.setTaps_onward

theorem State.stepFom_onward {s₀ s : State} (h : s₀.Onward s) (cor : Bool) (l : Nat) (r : LaneResult) :
    s₀.Onward (State.stepFom s cor l r) := by
  unfold State.stepFom
  dsimp only
  repeat' first
    | with_reducible exact h | with_reducible exact .refl _ | with_reducible apply State.setFom_onward
    | with_reducible apply State.adapt_onward | with_reducible apply State.setStage_onward
    | with_reducible apply State.passSix_onward | split

theorem State.stepAdapt_onward {s₀ s : State} (h : s₀.Onward s) (cor : Bool) (l : Nat) (r : LaneResult) :
    s₀.Onward (State.stepAdapt s cor l r) := by
  unfold State.stepAdapt
  dsimp only
  repeat' first
    | with_reducible exact h | with_reducible exact .refl _ | with_reducible apply State.setFom_onward
    | with_reducible apply State.adaptBy_onward | with_reducible apply State.passSix_onward | split

theorem State.failLane_onward {s₀ s : State} (h : s₀.Onward s) (cor : Bool) (l : Nat) (reason : Nat) :
    s₀.Onward (State.failLane s cor l reason) := by
  unfold State.failLane
  dsimp only
  repeat' first
    | with_reducible exact h | with_reducible exact .refl _ | with_reducible apply State.markLane_onward
    | with_reducible apply State.setStage_onward | with_reducible apply State.wr_onward
    | with_reducible apply State.countWrap_onward | with_reducible apply State.emit_onward | split

theorem State.failPort_onward {s₀ s : State} (h : s₀.Onward s) (cor : Bool) (l : Nat) (reason : Nat) :
    s₀.Onward (State.failPort s cor l reason) := by
  unfold State.failPort
  repeat' first
    | with_reducible exact h | with_reducible exact .refl _ | with_reducible apply State.failLane_onward
    | with_reducible apply onward_foldl | intro _

theorem State.laneIsUp_onward {s₀ s : State} (h : s₀.Onward s) (cor : Bool) (l : Nat) :
    s₀.Onward (State.laneIsUp s cor l) := by
  unfold State.laneIsUp
  dsimp only
  repeat' first
    | with_reducible exact h | with_reducible exact .refl _ | with_reducible apply State.markLane_onward
    | with_reducible apply State.wr_onward | with_reducible apply State.countWrap_onward
    | with_reducible apply State.setStage_onward

theorem State.stepDeskew_onward {s₀ s : State} (h : s₀.Onward s) (cor : Bool) (l : Nat) (r : LaneResult) :
    s₀.Onward (State.stepDeskew s cor l r) := by
  unfold State.stepDeskew
  dsimp only
  repeat' first
    | with_reducible exact h | with_reducible exact .refl _ | with_reducible apply State.failPort_onward
    | with_reducible apply State.wr_onward | with_reducible apply State.laneIsUp_onward
    | with_reducible apply onward_foldl | intro _ | split

theorem State.laneStep_onward {s₀ s : State} (h : s₀.Onward s) (cor : Bool) (l : Nat) (r : LaneResult) :
    s₀.Onward (State.laneStep s cor l r) := by
  unfold State.laneStep
  dsimp only
  repeat' first
    | with_reducible exact h | with_reducible exact .refl _ | with_reducible apply State.setStage_onward
    | with_reducible apply State.wrb_onward | with_reducible apply State.passSix_onward
    | with_reducible apply State.setCtle_onward | with_reducible apply State.stepFom_onward
    | with_reducible apply State.stepAdapt_onward | with_reducible apply State.stepDeskew_onward | split

theorem execLaneStepComplete_onward (s : State) (cor : Bool) (l : Fin 32) (r : LaneResult) :
    Completes s (execLaneStepComplete cor l r s) := by
  unfold execLaneStepComplete
  dsimp only
  repeat' first
    | apply completes_next | with_reducible exact .refl _ | with_reducible apply State.begin_onward
    | with_reducible apply State.laneStep_onward | split

theorem execLaneFail_onward (s : State) (cor : Bool) (l : Fin 32) (reason : Fin 16) :
    Completes s (execLaneFail cor l reason s) := by
  unfold execLaneFail
  dsimp only
  repeat' first
    | apply completes_next | with_reducible exact .refl _ | with_reducible apply State.begin_onward
    | with_reducible apply State.failPort_onward | with_reducible apply State.failLane_onward | split

theorem State.retryLane_onward {s₀ s : State} (h : s₀.Onward s) (cor : Bool) (l : Nat) :
    s₀.Onward (State.retryLane s cor l) := by
  unfold State.retryLane
  dsimp only
  repeat' first
    | with_reducible exact h | with_reducible exact .refl _ | with_reducible apply State.laneStart_onward
    | with_reducible apply onward_foldl | intro _ | split

theorem execLaneRetry_onward (s : State) (cor : Bool) (l : Fin 32) :
    Completes s (execLaneRetry cor l s) := by
  unfold execLaneRetry
  dsimp only
  repeat' first
    | apply completes_next | with_reducible exact .refl _ | with_reducible apply State.begin_onward
    | with_reducible apply State.retryLane_onward | split

theorem State.restartLane_onward {s₀ s : State} (h : s₀.Onward s) (cor : Bool) (l : Nat) :
    s₀.Onward (State.restartLane s cor l) := by
  unfold State.restartLane
  repeat' first
    | with_reducible exact h | with_reducible exact .refl _ | with_reducible apply State.when_onward
    | with_reducible apply State.laneStart_onward | intro _

theorem execLaneRestart_onward (s : State) (req : Req) (cor : Bool) (l : Fin 32) :
    Completes s (execLaneRestart req cor l s) := by
  unfold execLaneRestart
  repeat' first
    | apply completes_next | with_reducible exact .refl _ | with_reducible apply State.via_onward
    | with_reducible apply State.restartLane_onward | with_reducible apply State.begin_onward | intro _

theorem execLaneDown_onward (s : State) (cor : Bool) (l : Fin 32) :
    Completes s (execLaneDown cor l s) := by
  unfold execLaneDown
  dsimp only
  repeat' first
    | apply completes_next | with_reducible exact .refl _ | with_reducible apply State.begin_onward
    | with_reducible apply State.laneStart_onward | with_reducible apply State.markLane_onward | split

theorem State.measureLane_onward {s₀ s : State} (h : s₀.Onward s) (cor : Bool) (l : Nat) (m : SlicerRun) :
    s₀.Onward (State.measureLane s cor l m) := by
  unfold State.measureLane
  dsimp only
  repeat' first
    | with_reducible exact h | with_reducible exact .refl _ | with_reducible apply State.setFom_onward
    | with_reducible apply State.when_onward | with_reducible apply State.adaptBy_onward | intro _ | split

theorem State.checkPattern_onward {s₀ s : State} (h : s₀.Onward s) (cor : Bool) (l : Nat) (m : SlicerRun) :
    s₀.Onward (State.checkPattern s cor l m) := by
  unfold State.checkPattern
  dsimp only
  repeat' first
    | with_reducible exact h | with_reducible exact .refl _ | with_reducible apply State.lock_onward
    | with_reducible apply State.wrb_onward | with_reducible apply State.onLanes_onward
    | with_reducible apply State.count_onward | with_reducible apply onward_foldl | intro _ | split
    | with_reducible apply onward_mk

theorem execFomMeasure_onward (s : State) (cor : Bool) (l : Fin 32) (run : SlicerRun) :
    Completes s (execFomMeasure cor l run s) := by
  unfold execFomMeasure
  dsimp only
  repeat' first
    | apply completes_next | with_reducible exact .refl _ | with_reducible apply State.begin_onward
    | with_reducible apply State.measureLane_onward | with_reducible apply State.checkPattern_onward | split

theorem execLaneAdaptStart_onward (s : State) (cor : Bool) (l : Fin 32) :
    Completes s (execLaneAdaptStart cor l s) := by
  unfold execLaneAdaptStart
  dsimp only
  repeat' first
    | apply completes_next | with_reducible exact .refl _ | with_reducible apply State.begin_onward
    | with_reducible apply State.adapt_onward | split

theorem State.setRxHalf_onward {s₀ s : State} (h : s₀.Onward s) (cor : Bool) (l : Nat) (st : Nat) :
    s₀.Onward (State.setRxHalf s cor l st) := by
  unfold State.setRxHalf
  dsimp only
  repeat' first
    | with_reducible exact h | with_reducible exact .refl _ | with_reducible apply State.wr_onward
    | with_reducible apply State.markLane_onward | with_reducible apply State.setStage_onward
    | with_reducible apply State.laneStart_onward | split

theorem State.applyLane_onward {s₀ s : State} (h : s₀.Onward s) (cor : Bool) (l : Nat) :
    s₀.Onward (State.applyLane s cor l) := by
  unfold State.applyLane
  dsimp only
  repeat' first
    | with_reducible exact h | with_reducible exact .refl _ | with_reducible apply State.wr_onward
    | with_reducible apply State.setRxHalf_onward | with_reducible apply State.laneLink_onward

theorem State.applyLanes_onward {s₀ s : State} (h : s₀.Onward s) :
    s₀.Onward (State.applyLanes s) := by
  unfold State.applyLanes
  repeat' first
    | with_reducible exact h | with_reducible exact .refl _ | with_reducible apply State.upTo_onward
    | with_reducible apply State.applyLane_onward | intro _

end Sys2Proof.Machine
end

