-- ==== Sys2Proof/Laws/OnwardReferences.lean ====
section
/-!
SUPPORT. `State.Onward` over the operations of Machine/References.lean.
-/

namespace Sys2Proof.Machine

theorem State.setRef_onward {s₀ s : State} (h : s₀.Onward s) (st : Nat) :
    s₀.Onward (State.setRef s st) := by
  unfold State.setRef
  repeat' first
    | with_reducible exact h | with_reducible exact .refl _ | with_reducible apply State.wr_onward
    | with_reducible apply State.evt_onward | split

theorem State.setActive_onward {s₀ s : State} (h : s₀.Onward s) (a : Nat) :
    s₀.Onward (State.setActive s a) := by
  unfold State.setActive
  repeat' first
    | with_reducible exact h | with_reducible exact .refl _ | with_reducible apply State.wr_onward
    | with_reducible apply State.evt_onward | split

theorem State.showQl_onward {s₀ s : State} (h : s₀.Onward s) :
    s₀.Onward (State.showQl s) := by
  unfold State.showQl
  repeat' first
    | with_reducible exact h | with_reducible exact .refl _ | with_reducible apply State.wr_onward
    | with_reducible apply State.evt_onward | split

theorem State.showDisagree_onward {s₀ s : State} (h : s₀.Onward s) :
    s₀.Onward (State.showDisagree s) := by
  unfold State.showDisagree
  dsimp only
  repeat' first
    | with_reducible exact h | with_reducible exact .refl _ | with_reducible apply State.wrb_onward
    | with_reducible apply State.when_onward | with_reducible apply State.evt_onward | intro _

theorem State.setFreq_onward {s₀ s : State} (h : s₀.Onward s) (f : Int) :
    s₀.Onward (State.setFreq s f) := by
  unfold State.setFreq
  repeat' first
    | with_reducible exact h | with_reducible exact .refl _ | with_reducible apply State.onDpll_onward
    | with_reducible apply State.wrS_onward | intro _ | with_reducible apply onward_mk

theorem State.holdover_onward {s₀ s : State} (h : s₀.Onward s) (f : Int) :
    s₀.Onward (State.holdover s f) := by
  unfold State.holdover
  repeat' first
    | with_reducible exact h | with_reducible exact .refl _ | with_reducible apply State.setFreq_onward
    | with_reducible apply State.setRef_onward | with_reducible apply State.onDpll_onward | intro _ | split
    | with_reducible apply onward_mk

theorem State.switchTo_onward {s₀ s : State} (h : s₀.Onward s) (c : Nat) :
    s₀.Onward (State.switchTo s c) := by
  unfold State.switchTo
  repeat' first
    | with_reducible exact h | with_reducible exact .refl _ | with_reducible apply State.wr_onward
    | with_reducible apply State.setRef_onward

theorem State.acquire_onward {s₀ s : State} (h : s₀.Onward s) (c : Nat) :
    s₀.Onward (State.acquire s c) := by
  unfold State.acquire
  repeat' first
    | with_reducible exact h | with_reducible exact .refl _ | with_reducible apply State.wr_onward
    | with_reducible apply State.setActive_onward | with_reducible apply State.setRef_onward

theorem State.reTarget_onward {s₀ s : State} (h : s₀.Onward s) :
    s₀.Onward (State.reTarget s) := by
  unfold State.reTarget
  dsimp only
  repeat' first
    | with_reducible exact h | with_reducible exact .refl _ | with_reducible apply State.switchTo_onward
    | with_reducible apply State.holdover_onward | with_reducible apply State.when_onward | intro _ | split

theorem State.evaluate_onward {s₀ s : State} (h : s₀.Onward s) :
    s₀.Onward (State.evaluate s) := by
  unfold State.evaluate
  dsimp only
  repeat' first
    | with_reducible exact h | with_reducible exact .refl _ | with_reducible apply State.reTarget_onward
    | with_reducible apply State.acquire_onward | with_reducible apply State.switchTo_onward
    | with_reducible apply State.when_onward | with_reducible apply State.holdover_onward | intro _ | split

theorem State.moveOutput_onward {s₀ s : State} (h : s₀.Onward s) :
    s₀.Onward (State.moveOutput s) := by
  unfold State.moveOutput
  repeat' first
    | with_reducible exact h | with_reducible exact .refl _ | with_reducible apply State.setFreq_onward
    | with_reducible apply State.onDpll_onward | intro _ | split | with_reducible apply onward_mk

theorem State.measureCands_onward {s₀ s : State} (h : s₀.Onward s) (offsets : List (Option Int)) :
    s₀.Onward (State.measureCands s offsets) := by
  unfold State.measureCands
  repeat' first
    | with_reducible exact h | with_reducible exact .refl _ | with_reducible apply State.upTo_onward
    | with_reducible apply State.when_onward | with_reducible apply State.wrS_onward | intro _ | split

theorem execRefSelect_onward (s : State) (offsets : List (Option Int)) :
    Completes s (execRefSelect offsets s) := by
  unfold execRefSelect
  dsimp only
  repeat' first
    | apply completes_next | with_reducible exact .refl _ | with_reducible apply State.begin_onward
    | with_reducible apply State.when_onward | with_reducible apply State.measureCands_onward
    | with_reducible apply State.checkCands_onward | with_reducible apply State.moveOutput_onward
    | with_reducible apply State.showDisagree_onward | with_reducible apply State.evaluate_onward
    | with_reducible apply State.showQl_onward | intro _

theorem State.qualify_onward {s₀ s : State} (h : s₀.Onward s) (i : Nat) (offset : Int) :
    s₀.Onward (State.qualify s i offset) := by
  unfold State.qualify
  dsimp only
  repeat' first
    | with_reducible exact h | with_reducible exact .refl _ | with_reducible apply State.wrb_onward
    | with_reducible apply State.wrS_onward | with_reducible apply State.onDpll_onward
    | with_reducible apply State.evt_onward | with_reducible apply State.showCand_onward | intro _ | split
    | with_reducible apply onward_mk

theorem execCandQualify_onward (s : State) (i : Fin 8) (offset : Int) :
    Completes s (execCandQualify i offset s) := by
  unfold execCandQualify
  dsimp only
  repeat' first
    | apply completes_next | with_reducible exact .refl _ | with_reducible apply State.begin_onward
    | with_reducible apply State.when_onward | with_reducible apply State.qualify_onward | intro _

theorem execCandDisqualify_onward (s : State) (i : Fin 8) (offset : Int) :
    Completes s (execCandDisqualify i offset s) := by
  unfold execCandDisqualify
  dsimp only
  repeat' first
    | apply completes_next | with_reducible exact .refl _ | with_reducible apply State.begin_onward
    | with_reducible apply State.when_onward | with_reducible apply State.wrS_onward
    | with_reducible apply State.loseCand_onward | intro _

theorem execCandWtrExpiry_onward (s : State) (i : Fin 8) :
    Completes s (execCandWtrExpiry i s) := by
  unfold execCandWtrExpiry
  dsimp only
  repeat' first
    | apply completes_next | with_reducible exact .refl _ | with_reducible apply State.begin_onward
    | with_reducible apply State.when_onward | with_reducible apply State.wrb_onward
    | with_reducible apply State.onDpll_onward | with_reducible apply State.evt_onward
    | with_reducible apply State.showCand_onward | intro _ | with_reducible apply onward_mk

theorem execEsmcRx_onward (s : State) (port : Fin 32) (len : Nat) (fcsOk : Bool) (ql : Fin 16) :
    Completes s (execEsmcRx port len fcsOk ql s) := by
  unfold execEsmcRx
  repeat' first
    | apply completes_next | with_reducible exact .refl _ | with_reducible apply State.macConsume_onward
    | with_reducible apply State.onDpll_onward | with_reducible apply State.checkCands_onward
    | with_reducible apply State.begin_onward | intro _ | with_reducible apply onward_mk

theorem execEsmcTimeout_onward (s : State) (i : Fin 8) :
    Completes s (execEsmcTimeout i s) := by
  unfold execEsmcTimeout
  dsimp only
  repeat' first
    | apply completes_next | with_reducible exact .refl _ | with_reducible apply State.begin_onward
    | with_reducible apply State.when_onward | with_reducible apply State.onDpll_onward
    | with_reducible apply State.checkCands_onward | intro _ | with_reducible apply onward_mk

theorem State.candMoved_onward {s₀ s : State} (h : s₀.Onward s) (i : Nat) :
    s₀.Onward (State.candMoved s i) := by
  unfold State.candMoved
  repeat' first
    | with_reducible exact h | with_reducible exact .refl _ | with_reducible apply State.loseCand_onward
    | with_reducible apply State.onDpll_onward | intro _ | with_reducible apply onward_mk

theorem execEsmcTx_onward (s : State) (event : Bool) :
    Completes s (execEsmcTx event s) := by
  unfold execEsmcTx
  repeat' first
    | apply completes_next | with_reducible exact .refl _ | with_reducible apply State.upTo_onward
    | with_reducible apply State.when_onward | with_reducible apply State.say_onward
    | with_reducible apply State.begin_onward | intro _

theorem State.lock_onward {s₀ s : State} (h : s₀.Onward s) :
    s₀.Onward (State.lock s) := by
  unfold State.lock
  dsimp only
  repeat' first
    | with_reducible exact h | with_reducible exact .refl _ | with_reducible apply State.wrb_onward
    | with_reducible apply State.onDpll_onward | with_reducible apply State.setActive_onward
    | with_reducible apply State.setRef_onward | intro _ | with_reducible apply onward_mk

theorem execRefLock_onward (s : State) :
    Completes s (execRefLock s) := by
  unfold execRefLock
  dsimp only
  repeat' first
    | apply completes_next | with_reducible exact .refl _ | with_reducible apply State.begin_onward
    | with_reducible apply State.when_onward | with_reducible apply State.showQl_onward
    | with_reducible apply State.lock_onward | intro _

theorem State.dpllFail_onward {s₀ s : State} (h : s₀.Onward s) :
    s₀.Onward (State.dpllFail s) := by
  unfold State.dpllFail
  dsimp only
  repeat' first
    | with_reducible exact h | with_reducible exact .refl _ | with_reducible apply State.setRef_onward
    | with_reducible apply State.recordFault_onward | with_reducible apply State.emit_onward
    | with_reducible apply State.assertFault_onward | with_reducible apply State.ring_onward
    | with_reducible apply State.showQl_onward | with_reducible apply onward_mk

theorem execDpllFault_onward (s : State) :
    Completes s (execDpllFault s) := by
  unfold execDpllFault
  dsimp only
  repeat' first
    | apply completes_next | with_reducible exact .refl _ | with_reducible apply State.begin_onward
    | with_reducible apply State.when_onward | with_reducible apply State.dpllFail_onward | intro _

theorem execDpllRelock_onward (s : State) :
    Completes s (execDpllRelock s) := by
  unfold execDpllRelock
  dsimp only
  repeat' first
    | apply completes_next | with_reducible exact .refl _ | with_reducible apply State.begin_onward
    | with_reducible apply State.when_onward | with_reducible apply State.setFreq_onward
    | with_reducible apply State.setRef_onward | with_reducible apply State.releaseFault_onward
    | with_reducible apply State.showQl_onward | intro _ | with_reducible apply onward_mk

theorem State.relearn_onward {s₀ s : State} (h : s₀.Onward s) :
    s₀.Onward (State.relearn s) := by
  unfold State.relearn
  dsimp only
  repeat' first
    | with_reducible exact h | with_reducible exact .refl _ | with_reducible apply State.wr_onward
    | with_reducible apply State.wrb_onward | with_reducible apply State.onDpll_onward
    | with_reducible apply State.when_onward | with_reducible apply State.setFreq_onward
    | with_reducible apply State.setRef_onward | intro _ | with_reducible apply onward_mk

theorem execHoRelearn_onward (s : State) (req : Req) :
    Completes s (execHoRelearn req s) := by
  unfold execHoRelearn
  repeat' first
    | apply completes_next | with_reducible exact .refl _ | with_reducible apply State.via_onward
    | with_reducible apply State.relearn_onward | with_reducible apply State.begin_onward | intro _

theorem execHoldoverLearnHour_onward (s : State) (fit : HoModel) :
    Completes s (execHoldoverLearnHour fit s) := by
  unfold execHoldoverLearnHour
  dsimp only
  repeat' first
    | apply completes_next | with_reducible exact .refl _ | with_reducible apply State.begin_onward
    | with_reducible apply State.when_onward | with_reducible apply State.wr_onward
    | with_reducible apply State.wrS_onward | with_reducible apply State.wrb_onward
    | with_reducible apply State.onDpll_onward | intro _ | split | with_reducible apply onward_mk

theorem execMtStep_onward (s : State) (req : Req) :
    Completes s (execMtStep req s) := by
  unfold execMtStep
  repeat' first
    | apply completes_next | with_reducible exact .refl _ | with_reducible apply State.via_onward
    | with_reducible apply State.onDpll_onward | with_reducible apply State.begin_onward | intro _
    | with_reducible apply onward_mk

end Sys2Proof.Machine
end

