-- ==== Sys2Proof/Laws/OnwardConfigure.lean ====
section
/-!
SUPPORT. `State.Onward` over the operations of Machine/Configure.lean.
-/

namespace Sys2Proof.Machine

theorem State.setFlat_onward {s₀ s : State} (h : s₀.Onward s) (r : Row) (n v : Nat) :
    s₀.Onward (State.setFlat s r n v) :=
  onward_store h (fun w => storeWf_storeSet w r n v)


theorem State.setField_onward {s₀ s : State} (h : s₀.Onward s) (rows : List Row) (f : FieldValue) :
    s₀.Onward (State.setField s rows f) := by
  unfold State.setField
  repeat' first
    | with_reducible exact h | with_reducible exact .refl _ | with_reducible apply State.setFlat_onward | intro _
    | split

theorem State.clearWingRow_onward {s₀ s : State} (h : s₀.Onward s) (w : Wing) (r : Row) :
    s₀.Onward (State.clearWingRow s w r) :=
  onward_store h (fun hw => storeWf_set hw _ (row_filter _ (row_wf hw r.id)))


theorem State.clearWing_onward {s₀ s : State} (h : s₀.Onward s) (w : Wing) :
    s₀.Onward (State.clearWing s w) := by
  unfold State.clearWing
  repeat' first
    | with_reducible exact h | with_reducible exact .refl _ | with_reducible apply State.clearWingRow_onward
    | with_reducible apply onward_foldl | intro _

theorem State.configureChan_onward {s₀ s : State} (h : s₀.Onward s) (w : Wing) (c : Nat) (x : ChanSec) :
    s₀.Onward (State.configureChan s w c x) := by
  unfold State.configureChan
  dsimp only
  repeat' first
    | with_reducible exact h | with_reducible exact .refl _ | with_reducible apply State.wr_onward
    | with_reducible apply State.wrb_onward

theorem State.ownFloor_onward {s₀ s : State} (h : s₀.Onward s) (w : Wing) :
    s₀.Onward (State.ownFloor s w) := by
  unfold State.ownFloor
  dsimp only
  repeat' first
    | with_reducible exact h | with_reducible exact .refl _ | with_reducible apply State.wr_onward

theorem State.configureTrims_onward {s₀ s : State} (h : s₀.Onward s) (w : Wing) (o : OpticalSec) :
    s₀.Onward (State.configureTrims s w o) := by
  unfold State.configureTrims
  dsimp only
  repeat' first
    | with_reducible exact h | with_reducible exact .refl _ | with_reducible apply State.upTo_onward
    | with_reducible apply State.wrS_onward | intro _

theorem State.configureSec_onward {s₀ s : State} (h : s₀.Onward s) (w : Wing) (x : WingSec) :
    s₀.Onward (State.configureSec s w x) := by
  unfold State.configureSec
  dsimp only
  repeat' first
    | with_reducible exact h | with_reducible exact .refl _ | with_reducible apply State.wr_onward
    | with_reducible apply State.wrS_onward | with_reducible apply State.onOpt_onward
    | with_reducible apply State.configureTrims_onward | with_reducible apply State.configureChan_onward
    | with_reducible apply State.ownFloor_onward | with_reducible apply onward_foldl | intro _
    | with_reducible apply onward_mk

theorem State.wingDefaults_onward {s₀ s : State} (h : s₀.Onward s) (w : Wing) (ds : List FieldValue) :
    s₀.Onward (State.wingDefaults s w ds) := by
  unfold State.wingDefaults
  dsimp only
  repeat' first
    | with_reducible exact h | with_reducible exact .refl _ | with_reducible apply State.setFlat_onward
    | with_reducible apply onward_foldl | intro _ | split

theorem State.configureModule_onward {s₀ s : State} (h : s₀.Onward s) (m : ModuleSec) :
    s₀.Onward (State.configureModule s m) := by
  unfold State.configureModule
  dsimp only
  repeat' first
    | with_reducible exact h | with_reducible exact .refl _ | with_reducible apply State.wrb_onward
    | with_reducible apply State.wr_onward | with_reducible apply State.upTo_onward
    | with_reducible apply State.unsettle_onward | intro _ | split

theorem State.giveCtx_onward {s₀ s : State} (h : s₀.Onward s) (w : Wing) (x : Option WingSec) :
    s₀.Onward (State.giveCtx s w x) := by
  unfold State.giveCtx
  repeat' first
    | with_reducible exact h | with_reducible exact .refl _ | with_reducible apply State.wr_onward
    | with_reducible apply State.unsettle_onward | intro _ | split

theorem State.configurePort_onward {s₀ s : State} (h : s₀.Onward s) (p : PortSec) :
    s₀.Onward (State.configurePort s p) := by
  unfold State.configurePort
  repeat' first
    | with_reducible exact h | with_reducible exact .refl _ | with_reducible apply State.wr_onward

theorem State.configureMap_onward {s₀ s : State} (h : s₀.Onward s) (p : Nat) (a0 : MapTarget) :
    s₀.Onward (State.configureMap s p a0) := by
  unfold State.configureMap
  repeat' first
    | with_reducible exact h | with_reducible exact .refl _ | with_reducible apply State.wrb_onward
    | with_reducible apply State.wr_onward | split

theorem State.configureGroup_onward {s₀ s : State} (h : s₀.Onward s) (g : Nat) (x : GroupSec) :
    s₀.Onward (State.configureGroup s g x) := by
  unfold State.configureGroup
  dsimp only
  repeat' first
    | with_reducible exact h | with_reducible exact .refl _ | with_reducible apply State.wrb_onward
    | with_reducible apply State.wr_onward | with_reducible apply State.showAsks_onward

theorem State.configureHall_onward {s₀ s : State} (h : s₀.Onward s) (h' : HallSec) :
    s₀.Onward (State.configureHall s h') := by
  unfold State.configureHall
  repeat' first
    | with_reducible exact h | with_reducible exact .refl _ | with_reducible apply State.configureGroup_onward
    | with_reducible apply State.configureMap_onward | with_reducible apply onward_foldl | intro _

theorem State.configurePantry_onward {s₀ s : State} (h : s₀.Onward s) (p : PantrySec) :
    s₀.Onward (State.configurePantry s p) := by
  unfold State.configurePantry
  dsimp only
  repeat' first
    | with_reducible exact h | with_reducible exact .refl _ | with_reducible apply State.wr_onward
    | with_reducible apply State.showDesc_onward | with_reducible apply onward_foldl | intro _ | split

theorem State.romLanes_onward {s₀ s : State} (h : s₀.Onward s) :
    s₀.Onward (State.romLanes s) := by
  unfold State.romLanes
  dsimp only
  repeat' first
    | with_reducible exact h | with_reducible exact .refl _ | with_reducible apply State.upTo_onward
    | with_reducible apply State.wrS_onward | with_reducible apply State.wr_onward
    | with_reducible apply State.wrb_onward | intro _

theorem State.configureBoard_onward {s₀ s : State} (h : s₀.Onward s) (a0 : Option (List FieldValue)) :
    s₀.Onward (State.configureBoard s a0) := by
  unfold State.configureBoard
  repeat' first
    | with_reducible exact h | with_reducible exact .refl _ | with_reducible apply State.setField_onward
    | with_reducible apply State.romLanes_onward | with_reducible apply onward_foldl | intro _ | split

theorem State.showImage_onward {s₀ s : State} (h : s₀.Onward s) (i : Image) (source : Nat) (trials : Nat) (confirmed : Bool) :
    s₀.Onward (State.showImage s i source trials confirmed) := by
  unfold State.showImage
  dsimp only
  repeat' first
    | with_reducible exact h | with_reducible exact .refl _ | with_reducible apply State.wr_onward
    | with_reducible apply State.wrb_onward | with_reducible apply State.upTo_onward | intro _

theorem State.configureWing_onward {s₀ s : State} (h : s₀.Onward s) (w : Wing) (a0 : Option WingSec) :
    s₀.Onward (State.configureWing s w a0) := by
  unfold State.configureWing
  repeat' first
    | with_reducible exact h | with_reducible exact .refl _ | with_reducible apply State.configureSec_onward | split

theorem State.disableSessions_onward {s₀ s : State} (h : s₀.Onward s) :
    s₀.Onward (State.disableSessions s) := by
  unfold State.disableSessions
  repeat' first
    | with_reducible exact h | with_reducible exact .refl _ | with_reducible apply State.when_onward
    | with_reducible apply State.wr_onward | intro _

theorem State.configure_onward {s₀ s : State} (h : s₀.Onward s) (i : Image) (wake : Bool) :
    s₀.Onward (State.configure s i wake) := by
  unfold State.configure
  dsimp only
  repeat' first
    | with_reducible exact h | with_reducible exact .refl _ | with_reducible apply State.wake_onward
    | with_reducible apply State.setField_onward | with_reducible apply State.configureModule_onward
    | with_reducible apply State.giveCtx_onward | with_reducible apply State.configureBoard_onward
    | with_reducible apply State.configurePort_onward | with_reducible apply State.configureHall_onward
    | with_reducible apply State.configurePantry_onward | with_reducible apply State.configureWing_onward
    | with_reducible apply State.disableSessions_onward | with_reducible apply State.upTo_onward
    | with_reducible apply State.takeGateEn_onward | with_reducible apply State.reguard_onward
    | with_reducible apply State.checkCands_onward | with_reducible apply State.showQl_onward
    | with_reducible apply State.restartSeen_onward | with_reducible apply onward_foldl | intro _

end Sys2Proof.Machine
end

