-- ==== Sys2Proof/Laws/OnwardWing.lean ====
section
/-!
SUPPORT. `State.Onward` over the operations of Machine/Wing.lean.
-/

namespace Sys2Proof.Machine

theorem State.setBootWing_onward {s₀ s : State} (h : s₀.Onward s) (w : Wing) (k : Nat) :
    s₀.Onward (State.setBootWing s w k) := by
  unfold State.setBootWing
  repeat' first
    | with_reducible exact h | with_reducible exact .refl _ | with_reducible apply onward_mk

theorem State.startFloor_onward {s₀ s : State} (h : s₀.Onward s) (w : Wing) :
    s₀.Onward (State.startFloor s w) := by
  unfold State.startFloor
  dsimp only
  repeat' first
    | with_reducible exact h | with_reducible exact .refl _ | with_reducible apply State.onTx_onward
    | with_reducible apply State.wr_onward | with_reducible apply State.wrb_onward
    | with_reducible apply State.switchTx_onward | with_reducible apply State.when_onward
    | with_reducible apply State.evt_onward | intro _ | with_reducible apply onward_mk

theorem State.startIcm_onward {s₀ s : State} (h : s₀.Onward s) (w : Wing) :
    s₀.Onward (State.startIcm s w) := by
  unfold State.startIcm
  repeat' first
    | with_reducible exact h | with_reducible exact .refl _ | with_reducible apply State.onIcm_onward
    | with_reducible apply State.wrb_onward | with_reducible apply State.showBaudDiff_onward
    | with_reducible apply State.ownFloor_onward | intro _ | with_reducible apply onward_mk

theorem State.startFrames_onward {s₀ s : State} (h : s₀.Onward s) (w : Wing) :
    s₀.Onward (State.startFrames s w) := by
  unfold State.startFrames
  repeat' first
    | with_reducible exact h | with_reducible exact .refl _ | with_reducible apply State.onOtn_onward | intro _
    | with_reducible apply onward_mk

theorem State.beginWing_onward {s₀ s : State} (h : s₀.Onward s) (w : Wing) :
    s₀.Onward (State.beginWing s w) := by
  unfold State.beginWing
  dsimp only
  repeat' first
    | with_reducible exact h | with_reducible exact .refl _ | with_reducible apply State.setBootWing_onward
    | with_reducible apply State.resetOptics_onward | with_reducible apply State.toWait_onward
    | with_reducible apply State.onRx_onward | with_reducible apply State.fecUnlock_onward
    | with_reducible apply State.onDec_onward | with_reducible apply State.wrb_onward
    | with_reducible apply State.unlockAdc_onward | with_reducible apply State.unlockDac_onward
    | with_reducible apply State.showReach_onward | with_reducible apply State.showRxHs_onward
    | with_reducible apply State.startFloor_onward | with_reducible apply State.startFrames_onward
    | with_reducible apply State.startIcm_onward | with_reducible apply State.icmRefresh_onward | intro _

theorem State.wingStepNext_onward {s₀ s : State} (h : s₀.Onward s) (w : Wing) :
    s₀.Onward (State.wingStepNext s w) := by
  unfold State.wingStepNext
  dsimp only
  repeat' first
    | with_reducible exact h | with_reducible exact .refl _ | with_reducible apply State.setBootWing_onward
    | with_reducible apply State.startLasers_onward | with_reducible apply State.optEval_onward | split

theorem execWingStartStepDone_onward (s : State) (w : Wing) :
    Completes s (execWingStartStepDone w s) := by
  unfold execWingStartStepDone
  dsimp only
  repeat' first
    | apply completes_next | with_reducible exact .refl _ | with_reducible apply State.begin_onward
    | with_reducible apply State.when_onward | with_reducible apply State.wingStepNext_onward | intro _

theorem State.powerDown_onward {s₀ s : State} (h : s₀.Onward s) (ds : List Domain) :
    s₀.Onward (State.powerDown s ds) := by
  unfold State.powerDown
  repeat' first
    | with_reducible exact h | with_reducible exact .refl _ | intro _ | with_reducible apply onward_mk

theorem State.lasersOff_onward {s₀ s : State} (h : s₀.Onward s) (w : Wing) :
    s₀.Onward (State.lasersOff s w) := by
  unfold State.lasersOff
  dsimp only
  repeat' first
    | with_reducible exact h | with_reducible exact .refl _ | with_reducible apply State.wrb_onward
    | with_reducible apply State.onOpt_onward | with_reducible apply State.retune_onward
    | with_reducible apply State.when_onward | with_reducible apply State.setOpt_onward | intro _
    | with_reducible apply onward_mk

theorem State.leaveRun_onward {s₀ s : State} (h : s₀.Onward s) (w : Wing) :
    s₀.Onward (State.leaveRun s w) := by
  unfold State.leaveRun
  repeat' first
    | with_reducible exact h | with_reducible exact .refl _ | with_reducible apply State.haltConv_onward
    | with_reducible apply State.sp2Off_onward | with_reducible apply State.sp2Cancel_onward
    | with_reducible apply State.toWait_onward | with_reducible apply State.icmAbort_onward
    | with_reducible apply State.powerDown_onward

theorem State.setWingState_onward {s₀ s : State} (h : s₀.Onward s) (w : Wing) (st : Nat) :
    s₀.Onward (State.setWingState s w st) := by
  unfold State.setWingState
  repeat' first
    | with_reducible exact h | with_reducible exact .refl _ | with_reducible apply State.wr_onward | split

theorem State.enterRun_onward {s₀ s : State} (h : s₀.Onward s) (w : Wing) :
    s₀.Onward (State.enterRun s w) := by
  unfold State.enterRun
  repeat' first
    | with_reducible exact h | with_reducible exact .refl _ | with_reducible apply State.beginWing_onward
    | with_reducible apply State.resumeConv_onward | with_reducible apply State.optEval_onward | split

theorem State.moveWing_onward {s₀ s : State} (h : s₀.Onward s) (w : Wing) (st : Nat) :
    s₀.Onward (State.moveWing s w st) := by
  unfold State.moveWing
  dsimp only
  repeat' first
    | with_reducible exact h | with_reducible exact .refl _ | with_reducible apply State.setWingState_onward
    | with_reducible apply State.when_onward | with_reducible apply State.leaveRun_onward
    | with_reducible apply State.lasersOff_onward | with_reducible apply State.powerDown_onward
    | with_reducible apply State.setBootWing_onward | with_reducible apply State.enterRun_onward | intro _ | split

theorem State.darken_onward {s₀ s : State} (h : s₀.Onward s) (w : Wing) :
    s₀.Onward (State.darken s w) := by
  unfold State.darken
  repeat' first
    | with_reducible exact h | with_reducible exact .refl _ | with_reducible apply State.onOpt_onward
    | with_reducible apply State.retune_onward | with_reducible apply State.icmAbort_onward | intro _
    | with_reducible apply onward_mk

theorem State.flushWing_onward {s₀ s : State} (h : s₀.Onward s) (w : Wing) :
    s₀.Onward (State.flushWing s w) := by
  unfold State.flushWing
  repeat' first
    | with_reducible exact h | with_reducible exact .refl _ | with_reducible apply State.upTo_onward
    | with_reducible apply State.flushQueue_onward | intro _

theorem State.clearTaps_onward {s₀ s : State} (h : s₀.Onward s) (w : Wing) :
    s₀.Onward (State.clearTaps s w) := by
  unfold State.clearTaps
  dsimp only
  repeat' first
    | with_reducible exact h | with_reducible exact .refl _ | with_reducible apply State.wr_onward | intro _
    | with_reducible apply onward_mk

theorem State.dropSets_onward {s₀ s : State} (h : s₀.Onward s) (w : Wing) : s₀.Onward (State.dropSets s w) :=
  onward_of h rfl rfl (Nat.le_refl _) (Nat.le_refl _) (fun k =>
    ⟨k.1, tabSorted_filter _ k.2.1, tabSorted_filter _ k.2.2.1, tabSorted_filter _ k.2.2.2⟩)


theorem State.recoverWing_onward {s₀ s : State} (h : s₀.Onward s) (w : Wing) :
    s₀.Onward (State.recoverWing s w) := by
  unfold State.recoverWing
  dsimp only
  repeat' first
    | with_reducible exact h | with_reducible exact .refl _ | with_reducible apply State.wr_onward
    | with_reducible apply State.wrb_onward | with_reducible apply State.releaseFault_onward

theorem State.reloadWing_onward {s₀ s : State} (h : s₀.Onward s) (w : Wing) :
    s₀.Onward (State.reloadWing s w) := by
  unfold State.reloadWing
  dsimp only
  repeat' first
    | with_reducible exact h | with_reducible exact .refl _ | with_reducible apply State.dropSets_onward
    | with_reducible apply State.clearWing_onward | with_reducible apply State.wingDefaults_onward
    | with_reducible apply State.configureWing_onward | with_reducible apply State.giveCtx_onward
    | with_reducible apply State.upTo_onward | with_reducible apply State.reguard_onward
    | with_reducible apply State.restartSeen_onward | with_reducible apply State.showBaudDiff_onward
    | with_reducible apply State.icmRefresh_onward | with_reducible apply State.when_onward
    | with_reducible apply State.showAsks_onward | intro _ | split | with_reducible apply onward_mk

theorem State.groupsSf_onward {s₀ s : State} (h : s₀.Onward s) (w : Wing) :
    s₀.Onward (State.groupsSf s w) := by
  unfold State.groupsSf
  repeat' first
    | with_reducible exact h | with_reducible exact .refl _ | with_reducible apply State.upTo_onward
    | with_reducible apply State.when_onward | with_reducible apply State.condChange_onward | intro _

theorem State.recordRestart_onward {s₀ s : State} (h : s₀.Onward s) (w : Wing) :
    s₀.Onward (State.recordRestart s w) := by
  unfold State.recordRestart
  dsimp only
  repeat' first
    | with_reducible exact h | with_reducible exact .refl _ | with_reducible apply State.fresh_onward
    | with_reducible apply State.emit_onward

theorem State.keepLasers_onward {s₀ s : State} (h : s₀.Onward s) (old : State) (w : Wing) :
    s₀.Onward (State.keepLasers s old w) := by
  unfold State.keepLasers
  dsimp only
  repeat' first
    | with_reducible exact h | with_reducible exact .refl _ | with_reducible apply State.onOpt_onward | intro _
    | with_reducible apply onward_mk

theorem State.restartWing_onward {s₀ s : State} (h : s₀.Onward s) (w : Wing) :
    s₀.Onward (State.restartWing s w) := by
  unfold State.restartWing
  dsimp only
  repeat' first
    | with_reducible exact h | with_reducible exact .refl _ | with_reducible apply State.recordRestart_onward
    | with_reducible apply State.darken_onward | with_reducible apply State.toWait_onward
    | with_reducible apply State.setBootWing_onward | with_reducible apply State.groupsSf_onward
    | with_reducible apply State.flushWing_onward | with_reducible apply State.zeroiseWing_onward
    | with_reducible apply State.clearTaps_onward | with_reducible apply State.reloadWing_onward
    | with_reducible apply State.recoverWing_onward | with_reducible apply State.keepLasers_onward
    | with_reducible apply State.beginWing_onward | split

end Sys2Proof.Machine
end

