-- ==== Sys2Proof/Laws/OnwardPower.lean ====
section
/-!
SUPPORT. `State.Onward` over the operations of Machine/Power.lean.
-/

namespace Sys2Proof.Machine

theorem State.onPower_onward {s₀ s : State} (h : s₀.Onward s) (f : Power → Power) :
    s₀.Onward (State.onPower s f) := by
  unfold State.onPower
  repeat' first
    | with_reducible exact h | with_reducible exact .refl _ | with_reducible apply onward_mk



theorem State.resetBase_onward {s₀ s : State} (h : s₀.Onward s) (aon : Bool) :
    s₀.Onward (State.resetBase s aon) := by
  refine onward_of h rfl rfl (Nat.le_refl _) (Nat.le_refl _) (fun _ => ?_)
  exact (by decide : (storeWf ([] : Tab (Tab Nat)) ∧ tabSorted ([] : Tab Nat) ∧ tabSorted ([] : Tab Nat) ∧
    tabSorted ([] : Tab Nat)))

theorem keepRows_wf {new old : State} (hn : new.wf) (ho : old.wf) (rows : List Row) : (new.keepRows old rows).wf := by
  unfold State.keepRows
  induction rows generalizing new with
  | nil => exact hn
  | cons r rows ih => exact ih ⟨storeWf_set hn.1 _ (row_wf ho.1 r.id), hn.2⟩

theorem keepRows_keeps (new old : State) (rows : List Row) : (new.keepRows old rows).pending = new.pending ∧
    (new.keepRows old rows).fuses = new.fuses ∧ (new.keepRows old rows).free = new.free ∧
    (new.keepRows old rows).uptime = new.uptime := by
  unfold State.keepRows
  induction rows generalizing new with
  | nil => exact ⟨rfl, rfl, rfl, rfl⟩
  | cons r rows ih => exact ih _

/-- R10, R361: what a module reset keeps of the state before it. -/
theorem State.keepRows_onward {s₀ s : State} (h : s₀.Onward s) (aon : Bool) (rows : List Row) :
    s₀.Onward ((s.resetBase aon).keepRows s rows) := by
  have k := keepRows_keeps (s.resetBase aon) s rows
  exact onward_of h k.1 k.2.1 (Nat.le_of_eq k.2.2.1.symm) (Nat.le_of_eq k.2.2.2.symm)
    (fun w => keepRows_wf ((State.resetBase_onward (State.Onward.refl s) aon).wf w) w rows)


theorem State.showTxDis_onward {s₀ s : State} (h : s₀.Onward s) :
    s₀.Onward (State.showTxDis s) := by
  unfold State.showTxDis
  repeat' first
    | with_reducible exact h | with_reducible exact .refl _ | with_reducible apply State.wrb_onward

theorem State.resetModule_onward {s₀ s : State} (h : s₀.Onward s) (aon : Bool) (keep : List Row) :
    s₀.Onward (State.resetModule s aon keep) := by
  unfold State.resetModule
  dsimp only
  repeat' first
    | with_reducible exact h | with_reducible exact .refl _ | with_reducible apply State.resetBase_onward
    | with_reducible apply State.keepRows_onward | with_reducible apply State.showTxDis_onward | split

theorem State.wakeRec_onward {s₀ s : State} (h : s₀.Onward s) (cause : Nat) (origin : Nat) (flag : Bool) :
    s₀.Onward (State.wakeRec s cause origin flag) := by
  unfold State.wakeRec
  repeat' first
    | with_reducible exact h | with_reducible exact .refl _ | with_reducible apply State.wr_onward
    | with_reducible apply State.wrb_onward

theorem State.startAt_onward {s₀ s : State} (h : s₀.Onward s) (step : Nat) (wake : Bool) (hostMode : Bool) :
    s₀.Onward (State.startAt s step wake hostMode) := by
  unfold State.startAt
  repeat' first
    | with_reducible exact h | with_reducible exact .refl _ | with_reducible apply State.wake_onward
    | with_reducible apply onward_mk

theorem State.commandReset_onward {s₀ s : State} (h : s₀.Onward s) (cause : Nat) (hostMode : Bool) :
    s₀.Onward (State.commandReset s cause hostMode) := by
  unfold State.commandReset
  dsimp only
  repeat' first
    | with_reducible exact h | with_reducible exact .refl _ | with_reducible apply State.resetModule_onward
    | with_reducible apply State.wakeRec_onward | with_reducible apply State.startAt_onward | split

theorem State.setMt_onward {s₀ s : State} (h : s₀.Onward s) (ns : Nat) :
    s₀.Onward (State.setMt s ns) := by
  unfold State.setMt
  repeat' first
    | with_reducible exact h | with_reducible exact .refl _ | with_reducible apply State.wrWide_onward

theorem State.restoreMt_onward {s₀ s : State} (h : s₀.Onward s) (saved : Nat) (n : Nat) :
    s₀.Onward (State.restoreMt s saved n) := by
  unfold State.restoreMt
  dsimp only
  repeat' first
    | with_reducible exact h | with_reducible exact .refl _ | with_reducible apply State.wr_onward
    | with_reducible apply State.setMt_onward | with_reducible apply State.wrb_onward

theorem State.wake_onward {s₀ s : State} (h : s₀.Onward s) (cause : Nat) :
    s₀.Onward (State.wake s cause) := by
  unfold State.wake
  dsimp only
  repeat' first
    | with_reducible exact h | with_reducible exact .refl _ | with_reducible apply State.fresh_onward
    | with_reducible apply State.resetModule_onward | with_reducible apply State.wakeRec_onward
    | with_reducible apply State.onPower_onward | with_reducible apply State.watch_onward
    | with_reducible apply State.restoreMt_onward | with_reducible apply State.startAt_onward
    | with_reducible apply State.alert_onward | intro _ | with_reducible apply onward_mk

theorem State.recause_onward {s₀ s : State} (h : s₀.Onward s) (cause : Nat) :
    s₀.Onward (State.recause s cause) := by
  unfold State.recause
  repeat' first
    | with_reducible exact h | with_reducible exact .refl _ | with_reducible apply State.when_onward
    | with_reducible apply State.wr_onward | intro _

theorem State.losePower_onward {s₀ s : State} (h : s₀.Onward s) (latch : Bool) :
    s₀.Onward (State.losePower s latch) := by
  unfold State.losePower
  dsimp only
  repeat' first
    | with_reducible exact h | with_reducible exact .refl _ | with_reducible apply State.resetModule_onward
    | with_reducible apply State.startAt_onward | with_reducible apply onward_mk

theorem execVinStart_onward (s : State) (vin : Nat) :
    Completes s (execVinStart vin s) := by
  unfold execVinStart
  dsimp only
  repeat' first
    | apply completes_next | with_reducible exact .refl _ | with_reducible apply State.begin_onward
    | with_reducible apply State.when_onward | with_reducible apply State.onPower_onward
    | with_reducible apply State.startAt_onward | with_reducible apply State.wr_onward
    | with_reducible apply State.wrb_onward | intro _ | with_reducible apply onward_mk

theorem execPowerLoss_onward (s : State) :
    Completes s (execPowerLoss s) := by
  unfold execPowerLoss
  repeat' first
    | apply completes_next | with_reducible exact .refl _ | with_reducible apply State.losePower_onward
    | with_reducible apply State.begin_onward

theorem execThermalTrip_onward (s : State) :
    Completes s (execThermalTrip s) := by
  unfold execThermalTrip
  dsimp only
  repeat' first
    | apply completes_next | with_reducible exact .refl _ | with_reducible apply State.begin_onward
    | with_reducible apply State.when_onward | with_reducible apply State.losePower_onward | intro _

theorem execModReset_onward (s : State) :
    Completes s (execModReset s) := by
  unfold execModReset
  dsimp only
  repeat' first
    | apply completes_next | with_reducible exact .refl _ | with_reducible apply State.begin_onward
    | with_reducible apply State.when_onward | with_reducible apply State.commandReset_onward | intro _

theorem State.showDeferred_onward {s₀ s : State} (h : s₀.Onward s) :
    s₀.Onward (State.showDeferred s) := by
  unfold State.showDeferred
  repeat' first
    | with_reducible exact h | with_reducible exact .refl _ | with_reducible apply State.wrb_onward | intro _

theorem State.admitStage_onward {s₀ s : State} (h : s₀.Onward s) (d : Domain) :
    s₀.Onward (State.admitStage s d) := by
  unfold State.admitStage
  dsimp only
  repeat' first
    | with_reducible exact h | with_reducible exact .refl _ | with_reducible apply State.onPower_onward
    | with_reducible apply State.window_onward | with_reducible apply State.showDeferred_onward | intro _
    | with_reducible apply onward_mk

theorem execStageAdmit_onward (s : State) :
    Completes s (execStageAdmit s) := by
  unfold execStageAdmit
  dsimp only
  repeat' first
    | apply completes_next | with_reducible exact .refl _ | with_reducible apply State.begin_onward
    | with_reducible apply State.when_onward | with_reducible apply State.admitStage_onward | intro _ | split

theorem State.enqueueStages_onward {s₀ s : State} (h : s₀.Onward s) (ds : List Domain) :
    s₀.Onward (State.enqueueStages s ds) := by
  unfold State.enqueueStages
  repeat' first
    | with_reducible exact h | with_reducible exact .refl _ | with_reducible apply State.onPower_onward
    | with_reducible apply State.showDeferred_onward | intro _ | with_reducible apply onward_mk

theorem execVinWarnRise_onward (s : State) (vin : Nat) :
    Completes s (execVinWarnRise vin s) := by
  unfold execVinWarnRise
  dsimp only
  repeat' first
    | apply completes_next | with_reducible exact .refl _ | with_reducible apply State.begin_onward
    | with_reducible apply State.when_onward | with_reducible apply State.wr_onward
    | with_reducible apply State.wrb_onward | with_reducible apply State.trigger_onward
    | with_reducible apply State.evtLog_onward | with_reducible apply State.alert_onward
    | with_reducible apply State.showDeferred_onward | intro _

theorem execVinWarnClear_onward (s : State) (vin : Nat) :
    Completes s (execVinWarnClear vin s) := by
  unfold execVinWarnClear
  dsimp only
  repeat' first
    | apply completes_next | with_reducible exact .refl _ | with_reducible apply State.begin_onward
    | with_reducible apply State.when_onward | with_reducible apply State.wr_onward
    | with_reducible apply State.wrb_onward | with_reducible apply State.showDeferred_onward | intro _

theorem State.startTransition_onward {s₀ s : State} (h : s₀.Onward s) (t : Nat) :
    s₀.Onward (State.startTransition s t) := by
  unfold State.startTransition
  dsimp only
  repeat' first
    | with_reducible exact h | with_reducible exact .refl _ | with_reducible apply State.onPower_onward
    | with_reducible apply State.wrb_onward | with_reducible apply State.enqueueStages_onward
    | with_reducible apply State.optEval_onward | intro _ | with_reducible apply onward_mk

theorem State.refuse_onward {s₀ s : State} (h : s₀.Onward s) (island : Nat) (reason : Nat) (t : Nat) (abort : Bool) :
    s₀.Onward (State.refuse s island reason t abort) := by
  unfold State.refuse
  dsimp only
  repeat' first
    | with_reducible exact h | with_reducible exact .refl _ | with_reducible apply State.wrb_onward
    | with_reducible apply State.wr_onward | with_reducible apply State.countWrap_onward
    | with_reducible apply State.emit_onward | with_reducible apply State.evt_onward | split

theorem State.requestState_onward {s₀ s : State} (h : s₀.Onward s) (t : Nat) :
    s₀.Onward (State.requestState s t) := by
  unfold State.requestState
  repeat' first
    | with_reducible exact h | with_reducible exact .refl _ | with_reducible apply State.refuse_onward
    | with_reducible apply State.startTransition_onward | split

theorem State.requestWings_onward {s₀ s : State} (h : s₀.Onward s) :
    s₀.Onward (State.requestWings s) := by
  unfold State.requestWings
  repeat' first
    | with_reducible exact h | with_reducible exact .refl _ | with_reducible apply State.refuse_onward
    | with_reducible apply State.startTransition_onward | split

theorem State.afterTransition_onward {s₀ s : State} (h : s₀.Onward s) :
    s₀.Onward (State.afterTransition s) := by
  unfold State.afterTransition
  repeat' first
    | with_reducible exact h | with_reducible exact .refl _ | with_reducible apply State.onPower_onward
    | with_reducible apply State.requestState_onward | with_reducible apply State.requestWings_onward | intro _
    | split | with_reducible apply onward_mk

theorem State.targetWrite_onward {s₀ s : State} (h : s₀.Onward s) (t : Nat) :
    s₀.Onward (State.targetWrite s t) := by
  unfold State.targetWrite
  dsimp only
  repeat' first
    | with_reducible exact h | with_reducible exact .refl _ | with_reducible apply State.wr_onward
    | with_reducible apply State.onPower_onward | with_reducible apply State.requestState_onward | intro _ | split
    | with_reducible apply onward_mk

theorem execStateTargetWrite_onward (s : State) (req : Req) (target : Fin 8) :
    Completes s (execStateTargetWrite req target s) := by
  unfold execStateTargetWrite
  repeat' first
    | apply completes_next | with_reducible exact .refl _ | with_reducible apply State.via_onward
    | with_reducible apply State.targetWrite_onward | with_reducible apply State.begin_onward | intro _

theorem State.wingWrite_onward {s₀ s : State} (h : s₀.Onward s) (a : Nat) (b : Nat) :
    s₀.Onward (State.wingWrite s a b) := by
  unfold State.wingWrite
  dsimp only
  repeat' first
    | with_reducible exact h | with_reducible exact .refl _ | with_reducible apply State.wr_onward
    | with_reducible apply State.when_onward | with_reducible apply State.requestWings_onward | intro _

theorem execWingStateWrite_onward (s : State) (req : Req) (wingA : Fin 4) (wingB : Fin 4) :
    Completes s (execWingStateWrite req wingA wingB s) := by
  unfold execWingStateWrite
  repeat' first
    | apply completes_next | with_reducible exact .refl _ | with_reducible apply State.via_onward
    | with_reducible apply State.wingWrite_onward | with_reducible apply State.begin_onward | intro _

theorem State.deepSteps_onward {s₀ s : State} (h : s₀.Onward s) :
    s₀.Onward (State.deepSteps s) := by
  unfold State.deepSteps
  dsimp only
  repeat' first
    | with_reducible exact h | with_reducible exact .refl _ | with_reducible apply State.onPower_onward
    | with_reducible apply State.wrb_onward | with_reducible apply State.wr_onward
    | with_reducible apply State.zeroise_onward | intro _ | with_reducible apply onward_mk

theorem State.enterOff_onward {s₀ s : State} (h : s₀.Onward s) :
    s₀.Onward (State.enterOff s) := by
  unfold State.enterOff
  dsimp only
  repeat' first
    | with_reducible exact h | with_reducible exact .refl _ | with_reducible apply State.clearRows_onward
    | with_reducible apply onward_mk

theorem State.enterState_onward {s₀ s : State} (h : s₀.Onward s) (t : Nat) :
    s₀.Onward (State.enterState s t) := by
  unfold State.enterState
  dsimp only
  repeat' first
    | with_reducible exact h | with_reducible exact .refl _ | with_reducible apply State.watch_onward
    | with_reducible apply State.onPower_onward | with_reducible apply State.wr_onward
    | with_reducible apply State.wrb_onward | with_reducible apply State.powerDown_onward
    | with_reducible apply State.when_onward | with_reducible apply State.deepSteps_onward
    | with_reducible apply State.evt_onward | with_reducible apply State.alert_onward
    | with_reducible apply State.enterOff_onward | with_reducible apply State.applyLanes_onward | intro _ | split
    | with_reducible apply onward_mk

theorem State.entryDone_onward {s₀ s : State} (h : s₀.Onward s) (t : Nat) :
    s₀.Onward (State.entryDone s t) := by
  unfold State.entryDone
  dsimp only
  repeat' first
    | with_reducible exact h | with_reducible exact .refl _ | with_reducible apply State.moveWing_onward
    | with_reducible apply State.enterState_onward | with_reducible apply State.when_onward
    | with_reducible apply State.resetContexts_onward | with_reducible apply State.afterTransition_onward | intro _

theorem execStateEntryDone_onward (s : State) :
    Completes s (execStateEntryDone s) := by
  unfold execStateEntryDone
  dsimp only
  repeat' first
    | apply completes_next | with_reducible exact .refl _ | with_reducible apply State.begin_onward
    | with_reducible apply State.when_onward | with_reducible apply State.entryDone_onward | intro _ | split

theorem State.unraise_onward {s₀ s : State} (h : s₀.Onward s) :
    s₀.Onward (State.unraise s) := by
  unfold State.unraise
  dsimp only
  repeat' first
    | with_reducible exact h | with_reducible exact .refl _ | with_reducible apply State.powerDown_onward
    | with_reducible apply State.when_onward | intro _

theorem State.returnState_onward {s₀ s : State} (h : s₀.Onward s) :
    s₀.Onward (State.returnState s) := by
  unfold State.returnState
  dsimp only
  repeat' first
    | with_reducible exact h | with_reducible exact .refl _ | with_reducible apply State.onPower_onward
    | with_reducible apply State.wrb_onward | with_reducible apply State.unraise_onward
    | with_reducible apply State.optEval_onward | intro _ | with_reducible apply onward_mk

theorem State.actHeld_onward {s₀ s : State} (h : s₀.Onward s) :
    s₀.Onward (State.actHeld s) := by
  unfold State.actHeld
  repeat' first
    | with_reducible exact h | with_reducible exact .refl _ | with_reducible apply State.when_onward
    | with_reducible apply State.afterTransition_onward | intro _

theorem State.closeTimeout_onward {s₀ s : State} (h : s₀.Onward s) (island : Nat) :
    s₀.Onward (State.closeTimeout s island) := by
  unfold State.closeTimeout
  dsimp only
  repeat' first
    | with_reducible exact h | with_reducible exact .refl _ | with_reducible apply State.fresh_onward
    | with_reducible apply State.declareFailed_onward

theorem execStateEntryRefuse_onward (s : State) (island : Fin 25) (reason : Fin 16) :
    Completes s (execStateEntryRefuse island reason s) := by
  unfold execStateEntryRefuse
  dsimp only
  repeat' first
    | apply completes_next | with_reducible exact .refl _ | with_reducible apply State.begin_onward
    | with_reducible apply State.when_onward | with_reducible apply State.closeTimeout_onward
    | with_reducible apply State.returnState_onward | with_reducible apply State.refuse_onward
    | with_reducible apply State.actHeld_onward | intro _ | split

theorem State.wakeIsland_onward {s₀ s : State} (h : s₀.Onward s) (island : Nat) (stall : Nat) :
    s₀.Onward (State.wakeIsland s island stall) := by
  unfold State.wakeIsland
  dsimp only
  repeat' first
    | with_reducible exact h | with_reducible exact .refl _ | with_reducible apply State.admitStage_onward
    | with_reducible apply State.onPower_onward | with_reducible apply State.countWrap_onward
    | with_reducible apply State.wr_onward | with_reducible apply State.native_onward | intro _
    | with_reducible apply onward_mk

theorem execWakeOnAccess_onward (s : State) (island : Fin 25) (stall : Nat) :
    Completes s (execWakeOnAccess island stall s) := by
  unfold execWakeOnAccess
  dsimp only
  repeat' first
    | apply completes_next | with_reducible exact .refl _ | with_reducible apply State.begin_onward
    | with_reducible apply State.when_onward | with_reducible apply State.wakeIsland_onward | intro _

theorem execWoaLingerExpiry_onward (s : State) (group : Fin 3) :
    Completes s (execWoaLingerExpiry group s) := by
  unfold execWoaLingerExpiry
  dsimp only
  repeat' first
    | apply completes_next | with_reducible exact .refl _ | with_reducible apply State.begin_onward
    | with_reducible apply State.onPower_onward | intro _ | with_reducible apply onward_mk

theorem execWakeNAssert_onward (s : State) :
    Completes s (execWakeNAssert s) := by
  unfold execWakeNAssert
  dsimp only
  repeat' first
    | apply completes_next | with_reducible exact .refl _ | with_reducible apply State.begin_onward
    | with_reducible apply State.wake_onward | with_reducible apply State.when_onward
    | with_reducible apply State.refuse_onward | with_reducible apply State.actHeld_onward
    | with_reducible apply State.recause_onward | with_reducible apply State.returnState_onward | intro _ | split

theorem execWakeTimerExpiry_onward (s : State) :
    Completes s (execWakeTimerExpiry s) := by
  unfold execWakeTimerExpiry
  dsimp only
  repeat' first
    | apply completes_next | with_reducible exact .refl _ | with_reducible apply State.begin_onward
    | with_reducible apply State.when_onward | with_reducible apply State.wake_onward | intro _

theorem State.watchWing_onward {s₀ s : State} (h : s₀.Onward s) (w : Wing) (mean : Nat) :
    s₀.Onward (State.watchWing s w mean) := by
  unfold State.watchWing
  dsimp only
  repeat' first
    | with_reducible exact h | with_reducible exact .refl _ | with_reducible apply State.onPower_onward
    | with_reducible apply State.watch_onward | with_reducible apply State.wr_onward | intro _ | split
    | with_reducible apply onward_mk

theorem State.lightFound_onward {s₀ s : State} (h : s₀.Onward s) (cause : Nat) :
    s₀.Onward (State.lightFound s cause) := by
  unfold State.lightFound
  repeat' first
    | with_reducible exact h | with_reducible exact .refl _ | with_reducible apply State.wake_onward
    | with_reducible apply State.recause_onward | split

theorem State.watchCycle_onward {s₀ s : State} (h : s₀.Onward s) (meanA : Nat) (meanB : Nat) :
    s₀.Onward (State.watchCycle s meanA meanB) := by
  unfold State.watchCycle
  dsimp only
  repeat' first
    | with_reducible exact h | with_reducible exact .refl _ | with_reducible apply State.watchWing_onward
    | with_reducible apply State.wr_onward | with_reducible apply State.lightFound_onward | split

theorem execWatchCycle_onward (s : State) (meanA : Nat) (meanB : Nat) :
    Completes s (execWatchCycle meanA meanB s) := by
  unfold execWatchCycle
  dsimp only
  repeat' first
    | apply completes_next | with_reducible exact .refl _ | with_reducible apply State.begin_onward
    | with_reducible apply State.when_onward | with_reducible apply State.watchCycle_onward | intro _

theorem State.sendHier_onward {s₀ s : State} (h : s₀.Onward s) (addr : Nat) :
    s₀.Onward (State.sendHier s addr) := by
  unfold State.sendHier
  repeat' first
    | with_reducible exact h | with_reducible exact .refl _ | with_reducible apply State.sendCell_onward
    | with_reducible apply State.wr_onward

theorem State.hierGo_onward {s₀ s : State} (h : s₀.Onward s) (reachable : List Nat) :
    s₀.Onward (State.hierGo s reachable) := by
  unfold State.hierGo
  dsimp only
  repeat' first
    | with_reducible exact h | with_reducible exact .refl _ | with_reducible apply State.wr_onward
    | with_reducible apply State.onPower_onward | with_reducible apply State.sendHier_onward
    | with_reducible apply State.wrb_onward | with_reducible apply onward_foldl | intro _ | split
    | with_reducible apply onward_mk

theorem execHierGo_onward (s : State) (req : Req) (reachable : List Nat) :
    Completes s (execHierGo req reachable s) := by
  unfold execHierGo
  repeat' first
    | apply completes_next | with_reducible exact .refl _ | with_reducible apply State.via_onward
    | with_reducible apply State.when_onward | with_reducible apply State.hierGo_onward
    | with_reducible apply State.begin_onward | intro _

theorem execHierForwardNext_onward (s : State) :
    Completes s (execHierForwardNext s) := by
  unfold execHierForwardNext
  dsimp only
  repeat' first
    | apply completes_next | with_reducible exact .refl _ | with_reducible apply State.begin_onward
    | with_reducible apply State.sendHier_onward | with_reducible apply State.onPower_onward
    | with_reducible apply State.wrb_onward | intro _ | split | with_reducible apply onward_mk

end Sys2Proof.Machine
end

