-- ==== Sys2Proof/Laws/OnwardImage.lean ====
section
/-!
SUPPORT. `State.Onward` over the operations of Machine/Image.lean.
-/

namespace Sys2Proof.Machine

theorem State.onImage_onward {s₀ s : State} (h : s₀.Onward s) (f : ImageState → ImageState) :
    s₀.Onward (State.onImage s f) := by
  unfold State.onImage
  repeat' first
    | with_reducible exact h | with_reducible exact .refl _ | with_reducible apply onward_mk

theorem State.refuseImg_onward {s₀ s : State} (h : s₀.Onward s) :
    s₀.Onward (State.refuseImg s) := by
  unfold State.refuseImg
  repeat' first
    | with_reducible exact h | with_reducible exact .refl _ | with_reducible apply State.wrb_onward

theorem State.imgReason_onward {s₀ s : State} (h : s₀.Onward s) (reason : Nat) :
    s₀.Onward (State.imgReason s reason) := by
  unfold State.imgReason
  repeat' first
    | with_reducible exact h | with_reducible exact .refl _ | with_reducible apply State.wr_onward
    | with_reducible apply State.emit_onward

theorem State.startImg_onward {s₀ s : State} (h : s₀.Onward s) (c : ImgCmd) :
    s₀.Onward (State.startImg s c) := by
  unfold State.startImg
  repeat' first
    | with_reducible exact h | with_reducible exact .refl _ | with_reducible apply State.onImage_onward
    | with_reducible apply State.wrb_onward | with_reducible apply State.wr_onward
    | with_reducible apply State.when_onward | with_reducible apply State.askDma_onward | intro _
    | with_reducible apply onward_mk

theorem State.endFetch_onward {s₀ s : State} (h : s₀.Onward s) :
    s₀.Onward (State.endFetch s) := by
  unfold State.endFetch
  repeat' first
    | with_reducible exact h | with_reducible exact .refl _ | with_reducible apply State.when_onward
    | with_reducible apply State.endDma_onward | intro _

theorem State.endImg_onward {s₀ s : State} (h : s₀.Onward s) :
    s₀.Onward (State.endImg s) := by
  unfold State.endImg
  repeat' first
    | with_reducible exact h | with_reducible exact .refl _ | with_reducible apply State.onImage_onward
    | with_reducible apply State.wrb_onward | with_reducible apply State.ring_onward
    | with_reducible apply State.endFetch_onward | intro _ | with_reducible apply onward_mk

theorem State.unstage_onward {s₀ s : State} (h : s₀.Onward s) :
    s₀.Onward (State.unstage s) := by
  unfold State.unstage
  repeat' first
    | with_reducible exact h | with_reducible exact .refl _ | with_reducible apply State.onImage_onward
    | with_reducible apply State.wrb_onward | with_reducible apply State.wr_onward | intro _
    | with_reducible apply onward_mk

theorem State.loadVerify_onward {s₀ s : State} (h : s₀.Onward s) :
    s₀.Onward (State.loadVerify s) := by
  unfold State.loadVerify
  repeat' first
    | with_reducible exact h | with_reducible exact .refl _ | with_reducible apply State.refuseImg_onward
    | with_reducible apply State.unstage_onward | with_reducible apply State.startImg_onward | split

theorem execLoadVerify_onward (s : State) (req : Req) :
    Completes s (execLoadVerify req s) := by
  unfold execLoadVerify
  repeat' first
    | apply completes_next | with_reducible exact .refl _ | with_reducible apply State.viaSec_onward
    | with_reducible apply State.loadVerify_onward | with_reducible apply State.begin_onward | intro _

theorem State.stageImage_onward {s₀ s : State} (h : s₀.Onward s) (i : Image) :
    s₀.Onward (State.stageImage s i) := by
  unfold State.stageImage
  repeat' first
    | with_reducible exact h | with_reducible exact .refl _ | with_reducible apply State.onImage_onward
    | with_reducible apply State.wrb_onward | with_reducible apply State.wr_onward | intro _
    | with_reducible apply onward_mk

theorem State.loadVerified_onward {s₀ s : State} (h : s₀.Onward s) (a0 : Option Image) :
    s₀.Onward (State.loadVerified s a0) := by
  unfold State.loadVerified
  dsimp only
  repeat' first
    | with_reducible exact h | with_reducible exact .refl _ | with_reducible apply State.imgReason_onward
    | with_reducible apply State.endImg_onward | with_reducible apply State.stageImage_onward | split

theorem execLoadVerifyDone_onward (s : State) (img : Option Image) :
    Completes s (execLoadVerifyDone img s) := by
  unfold execLoadVerifyDone
  dsimp only
  repeat' first
    | apply completes_next | with_reducible exact .refl _ | with_reducible apply State.begin_onward
    | with_reducible apply State.loadVerify_onward | with_reducible apply State.loadVerified_onward | split

theorem State.refetchFailed_onward {s₀ s : State} (h : s₀.Onward s) :
    s₀.Onward (State.refetchFailed s) := by
  unfold State.refetchFailed
  repeat' first
    | with_reducible exact h | with_reducible exact .refl _ | with_reducible apply State.wr_onward
    | with_reducible apply State.refuseImg_onward

theorem State.runStaged_onward {s₀ s : State} (h : s₀.Onward s) (i : Image) :
    s₀.Onward (State.runStaged s i) := by
  unfold State.runStaged
  repeat' first
    | with_reducible exact h | with_reducible exact .refl _ | with_reducible apply State.onImage_onward
    | with_reducible apply State.showImage_onward | with_reducible apply State.unstage_onward | intro _
    | with_reducible apply onward_mk

theorem State.startStages_onward {s₀ s : State} (h : s₀.Onward s) (i : Image) :
    s₀.Onward (State.startStages s i) := by
  unfold State.startStages
  dsimp only
  repeat' first
    | with_reducible exact h | with_reducible exact .refl _ | with_reducible apply State.enqueueStages_onward
    | intro _ | split

theorem State.beginConfigure_onward {s₀ s : State} (h : s₀.Onward s) (i : Image) :
    s₀.Onward (State.beginConfigure s i) := by
  unfold State.beginConfigure
  dsimp only
  repeat' first
    | with_reducible exact h | with_reducible exact .refl _ | with_reducible apply State.wr_onward
    | with_reducible apply State.startStages_onward | with_reducible apply onward_mk

theorem State.activateAs_onward {s₀ s : State} (h : s₀.Onward s) (i : Image) (scope : Nat) :
    s₀.Onward (State.activateAs s i scope) := by
  unfold State.activateAs
  repeat' first
    | with_reducible exact h | with_reducible exact .refl _ | with_reducible apply State.startImg_onward
    | with_reducible apply State.activate_onward | with_reducible apply State.runStaged_onward
    | with_reducible apply State.beginConfigure_onward | with_reducible apply State.commandReset_onward
    | with_reducible apply State.optEval_onward | split

theorem State.activate_onward {s₀ s : State} (h : s₀.Onward s) (refetchOk : Bool) :
    s₀.Onward (State.activate s refetchOk) := by
  unfold State.activate
  dsimp only
  repeat' first
    | with_reducible exact h | with_reducible exact .refl _ | with_reducible apply State.refuseImg_onward
    | with_reducible apply State.refetchFailed_onward | with_reducible apply State.activateAs_onward | split

theorem execActivate_onward (s : State) (req : Req) (refetchOk : Bool) :
    Completes s (execActivate req refetchOk s) := by
  unfold execActivate
  repeat' first
    | apply completes_next | with_reducible exact .refl _ | with_reducible apply State.viaSec_onward
    | with_reducible apply State.activate_onward | with_reducible apply State.begin_onward | intro _

theorem State.adoptWings_onward {s₀ s : State} (h : s₀.Onward s) :
    s₀.Onward (State.adoptWings s) := by
  unfold State.adoptWings
  dsimp only
  repeat' first
    | with_reducible exact h | with_reducible exact .refl _ | with_reducible apply State.onImage_onward
    | with_reducible apply State.runStaged_onward | with_reducible apply State.when_onward
    | with_reducible apply State.restartWing_onward | intro _ | split | with_reducible apply onward_mk

theorem State.imageDone_onward {s₀ s : State} (h : s₀.Onward s) :
    s₀.Onward (State.imageDone s) := by
  unfold State.imageDone
  repeat' first
    | with_reducible exact h | with_reducible exact .refl _ | with_reducible apply State.activate_onward
    | with_reducible apply State.adoptWings_onward | with_reducible apply State.wr_onward
    | with_reducible apply State.endImg_onward | with_reducible apply State.confirm_onward
    | with_reducible apply State.advanceSvn_onward | split

theorem execImageCommandDone_onward (s : State) :
    Completes s (execImageCommandDone s) := by
  unfold execImageCommandDone
  repeat' first
    | apply completes_next | with_reducible exact .refl _ | with_reducible apply State.imageDone_onward
    | with_reducible apply State.begin_onward

theorem State.setBank_onward {s₀ s : State} (h : s₀.Onward s) (b : Bool) (k : Bank) :
    s₀.Onward (State.setBank s b k) := by
  unfold State.setBank
  repeat' first
    | with_reducible exact h | with_reducible exact .refl _ | with_reducible apply State.onImage_onward | intro _

theorem State.programBank_onward {s₀ s : State} (h : s₀.Onward s) :
    s₀.Onward (State.programBank s) := by
  unfold State.programBank
  dsimp only
  repeat' first
    | with_reducible exact h | with_reducible exact .refl _ | with_reducible apply State.startImg_onward
    | with_reducible apply State.program_onward | with_reducible apply State.setBank_onward
    | with_reducible apply State.onImage_onward | intro _ | with_reducible apply onward_mk

theorem State.program_onward {s₀ s : State} (h : s₀.Onward s) :
    s₀.Onward (State.program s) := by
  unfold State.program
  dsimp only
  repeat' first
    | with_reducible exact h | with_reducible exact .refl _ | with_reducible apply State.refuseImg_onward
    | with_reducible apply State.programBank_onward | with_reducible apply State.imgReason_onward | split

theorem execProgram_onward (s : State) (req : Req) :
    Completes s (execProgram req s) := by
  unfold execProgram
  repeat' first
    | apply completes_next | with_reducible exact .refl _ | with_reducible apply State.viaSec_onward
    | with_reducible apply State.program_onward | with_reducible apply State.begin_onward | intro _

theorem State.programmed_onward {s₀ s : State} (h : s₀.Onward s) :
    s₀.Onward (State.programmed s) := by
  unfold State.programmed
  repeat' first
    | with_reducible exact h | with_reducible exact .refl _ | with_reducible apply State.program_onward
    | with_reducible apply State.setBank_onward | with_reducible apply State.wr_onward
    | with_reducible apply State.endImg_onward | split

theorem execProgramDone_onward (s : State) :
    Completes s (execProgramDone s) := by
  unfold execProgramDone
  dsimp only
  repeat' first
    | apply completes_next | with_reducible exact .refl _ | with_reducible apply State.begin_onward
    | with_reducible apply State.when_onward | with_reducible apply State.programmed_onward | intro _

theorem State.confirmBank_onward {s₀ s : State} (h : s₀.Onward s) :
    s₀.Onward (State.confirmBank s) := by
  unfold State.confirmBank
  dsimp only
  repeat' first
    | with_reducible exact h | with_reducible exact .refl _ | with_reducible apply State.setBank_onward
    | with_reducible apply State.wrb_onward | split | with_reducible apply onward_mk

theorem State.confirm_onward {s₀ s : State} (h : s₀.Onward s) :
    s₀.Onward (State.confirm s) := by
  unfold State.confirm
  repeat' first
    | with_reducible exact h | with_reducible exact .refl _ | with_reducible apply State.refuseImg_onward
    | with_reducible apply State.startImg_onward | with_reducible apply State.confirmBank_onward | split

theorem execConfirm_onward (s : State) (req : Req) :
    Completes s (execConfirm req s) := by
  unfold execConfirm
  repeat' first
    | apply completes_next | with_reducible exact .refl _ | with_reducible apply State.viaSec_onward
    | with_reducible apply State.confirm_onward | with_reducible apply State.begin_onward | intro _

theorem State.advanceSvn_onward {s₀ s : State} (h : s₀.Onward s) : s₀.Onward (State.advanceSvn s) := by
  unfold State.advanceSvn
  split
  · exact State.refuseImg_onward h
  · refine (State.startImg_onward h .advanceSvn).trans ?_
    exact ⟨rfl, Nat.le_max_left _ _, rfl, Nat.le_refl _, Nat.le_refl _, id⟩


theorem execAdvanceSvn_onward (s : State) (req : Req) :
    Completes s (execAdvanceSvn req s) := by
  unfold execAdvanceSvn
  repeat' first
    | apply completes_next | with_reducible exact .refl _ | with_reducible apply State.viaSec_onward
    | with_reducible apply State.advanceSvn_onward | with_reducible apply State.begin_onward | intro _

theorem State.abortImg_onward {s₀ s : State} (h : s₀.Onward s) :
    s₀.Onward (State.abortImg s) := by
  unfold State.abortImg
  repeat' first
    | with_reducible exact h | with_reducible exact .refl _ | with_reducible apply State.unstage_onward
    | with_reducible apply State.loadVerify_onward | with_reducible apply State.endImg_onward
    | with_reducible apply State.program_onward | split

theorem execAbort_onward (s : State) (req : Req) :
    Completes s (execAbort req s) := by
  unfold execAbort
  repeat' first
    | apply completes_next | with_reducible exact .refl _ | with_reducible apply State.viaSec_onward
    | with_reducible apply State.abortImg_onward | with_reducible apply State.begin_onward | intro _

theorem State.imgCtl_onward {s₀ s : State} (h : s₀.Onward s) (op : Nat) (ok : Bool) :
    s₀.Onward (State.imgCtl s op ok) := by
  unfold State.imgCtl
  repeat' first
    | with_reducible exact h | with_reducible exact .refl _ | with_reducible apply State.loadVerify_onward
    | with_reducible apply State.activate_onward | with_reducible apply State.program_onward
    | with_reducible apply State.confirm_onward | with_reducible apply State.advanceSvn_onward
    | with_reducible apply State.abortImg_onward | split

theorem State.showNone_onward {s₀ s : State} (h : s₀.Onward s) :
    s₀.Onward (State.showNone s) := by
  unfold State.showNone
  repeat' first
    | with_reducible exact h | with_reducible exact .refl _ | with_reducible apply State.onImage_onward
    | with_reducible apply State.clearRows_onward | with_reducible apply State.wr_onward | intro _
    | with_reducible apply onward_mk

theorem State.breakFetch_onward {s₀ s : State} (h : s₀.Onward s) :
    s₀.Onward (State.breakFetch s) := by
  unfold State.breakFetch
  dsimp only
  repeat' first
    | with_reducible exact h | with_reducible exact .refl _ | with_reducible apply State.loadVerify_onward
    | with_reducible apply State.imgReason_onward | with_reducible apply State.endImg_onward
    | with_reducible apply State.program_onward | with_reducible apply State.activate_onward
    | with_reducible apply State.wr_onward | with_reducible apply State.showNone_onward | split
    | with_reducible apply onward_mk

end Sys2Proof.Machine
end

