-- ==== Sys2Proof/Laws/OnwardBoot.lean ====
section
/-!
SUPPORT. `State.Onward` over the operations of Machine/Boot.lean.
-/

namespace Sys2Proof.Machine

theorem State.bootTo_onward {s₀ s : State} (h : s₀.Onward s) (step : Nat) (stage : Nat) :
    s₀.Onward (State.bootTo s step stage) := by
  unfold State.bootTo
  repeat' first
    | with_reducible exact h | with_reducible exact .refl _ | with_reducible apply State.wr_onward
    | with_reducible apply onward_mk

theorem State.sampleStraps_onward {s₀ s : State} (h : s₀.Onward s) (b : BootInput) :
    s₀.Onward (State.sampleStraps s b) := by
  unfold State.sampleStraps
  dsimp only
  repeat' first
    | with_reducible exact h | with_reducible exact .refl _ | with_reducible apply State.wrb_onward
    | with_reducible apply State.wr_onward | split

theorem State.waitHost_onward {s₀ s : State} (h : s₀.Onward s) :
    s₀.Onward (State.waitHost s) := by
  unfold State.waitHost
  repeat' first
    | with_reducible exact h | with_reducible exact .refl _ | with_reducible apply State.bootTo_onward
    | with_reducible apply State.wr_onward | with_reducible apply State.emit_onward

theorem State.beginLoad_onward {s₀ s : State} (h : s₀.Onward s) :
    s₀.Onward (State.beginLoad s) := by
  unfold State.beginLoad
  repeat' first
    | with_reducible exact h | with_reducible exact .refl _ | with_reducible apply State.waitHost_onward
    | with_reducible apply State.bootTo_onward | split

theorem State.selfTested_onward {s₀ s : State} (h : s₀.Onward s) (ok : Bool) :
    s₀.Onward (State.selfTested s ok) := by
  unfold State.selfTested
  repeat' first
    | with_reducible exact h | with_reducible exact .refl _ | with_reducible apply State.beginLoad_onward
    | with_reducible apply State.wr_onward | with_reducible apply State.emit_onward
    | with_reducible apply State.assertFault_onward | split | with_reducible apply onward_mk

theorem State.hostUp_onward {s₀ s : State} (h : s₀.Onward s) :
    s₀.Onward (State.hostUp s) := by
  unfold State.hostUp
  dsimp only
  repeat' first
    | with_reducible exact h | with_reducible exact .refl _ | with_reducible apply State.perst_onward
    | with_reducible apply State.wake_onward | with_reducible apply State.wrb_onward
    | with_reducible apply State.beginLoad_onward | with_reducible apply State.bootTo_onward | split
    | with_reducible apply onward_mk

theorem State.bankReason_onward {s₀ s : State} (h : s₀.Onward s) (b : Bool) (reason : Nat) :
    s₀.Onward (State.bankReason s b reason) := by
  unfold State.bankReason
  dsimp only
  repeat' first
    | with_reducible exact h | with_reducible exact .refl _ | with_reducible apply State.wr_onward
    | with_reducible apply State.imgReason_onward | split

theorem State.markBad_onward {s₀ s : State} (h : s₀.Onward s) (b : Bool) :
    s₀.Onward (State.markBad s b) := by
  unfold State.markBad
  repeat' first
    | with_reducible exact h | with_reducible exact .refl _ | with_reducible apply State.setBank_onward
    | with_reducible apply onward_mk

theorem State.runBank_onward {s₀ s : State} (h : s₀.Onward s) (b : Bool) :
    s₀.Onward (State.runBank s b) := by
  unfold State.runBank
  dsimp only
  repeat' first
    | with_reducible exact h | with_reducible exact .refl _ | with_reducible apply State.onImage_onward
    | with_reducible apply State.showImage_onward | with_reducible apply State.beginConfigure_onward | intro _ | split
    | with_reducible apply onward_mk

theorem State.countTrial_onward {s₀ s : State} (h : s₀.Onward s) (b : Bool) :
    s₀.Onward (State.countTrial s b) := by
  unfold State.countTrial
  dsimp only
  repeat' first
    | with_reducible exact h | with_reducible exact .refl _ | with_reducible apply State.setBank_onward | split
    | with_reducible apply onward_mk

theorem State.tryBank_onward {s₀ s : State} (h : s₀.Onward s) (b : Bool) (flashErr : Bool) :
    s₀.Onward (State.tryBank s b flashErr).1 := by
  unfold State.tryBank
  dsimp only
  repeat' first
    | with_reducible exact h | with_reducible exact .refl _ | with_reducible apply State.markBad_onward
    | with_reducible apply State.countTrial_onward | with_reducible apply State.runBank_onward
    | with_reducible apply State.bankReason_onward | split

theorem State.tryBanks_onward {s₀ s : State} (h : s₀.Onward s) (errA : Bool) (errB : Bool) (a0 : List Bool) :
    s₀.Onward (State.tryBanks s errA errB a0) := by
  induction a0 generalizing s errA errB with
  | nil =>
    rw [State.tryBanks]
    try dsimp only
    repeat' first
      | with_reducible exact h | with_reducible exact .refl _ | with_reducible apply State.waitHost_onward
      | with_reducible apply State.tryBank_onward | split
  | cons b l ih =>
    rw [State.tryBanks]
    try dsimp only
    repeat' first
      | with_reducible apply ih
      | with_reducible exact h | with_reducible exact .refl _ | with_reducible apply State.waitHost_onward
      | with_reducible apply State.tryBank_onward | split

theorem State.flashBoot_onward {s₀ s : State} (h : s₀.Onward s) (b : BootInput) :
    s₀.Onward (State.flashBoot s b) := by
  unfold State.flashBoot
  repeat' first
    | with_reducible exact h | with_reducible exact .refl _ | with_reducible apply State.tryBanks_onward | split

theorem State.goRunning_onward {s₀ s : State} (h : s₀.Onward s) (i : Image) (ms : Nat) :
    s₀.Onward (State.goRunning s i ms) := by
  unfold State.goRunning
  dsimp only
  repeat' first
    | with_reducible exact h | with_reducible exact .refl _ | with_reducible apply State.configure_onward
    | with_reducible apply State.wake_onward | with_reducible apply State.bootTo_onward
    | with_reducible apply State.wr_onward | with_reducible apply State.applyLanes_onward
    | with_reducible apply State.when_onward | with_reducible apply State.beginWing_onward | intro _

theorem State.configured_onward {s₀ s : State} (h : s₀.Onward s) (ms : Nat) :
    s₀.Onward (State.configured s ms) := by
  unfold State.configured
  repeat' first
    | with_reducible exact h | with_reducible exact .refl _ | with_reducible apply State.goRunning_onward | split

theorem State.bootNext_onward {s₀ s : State} (h : s₀.Onward s) (b : BootInput) :
    s₀.Onward (State.bootNext s b) := by
  unfold State.bootNext
  repeat' first
    | with_reducible exact h | with_reducible exact .refl _ | with_reducible apply State.bootTo_onward
    | with_reducible apply State.sampleStraps_onward | with_reducible apply State.hostUp_onward
    | with_reducible apply State.selfTested_onward | with_reducible apply State.flashBoot_onward
    | with_reducible apply State.configured_onward | split | with_reducible apply onward_mk

theorem execBootStepDone_onward (s : State) (b : BootInput) :
    Completes s (execBootStepDone b s) := by
  unfold execBootStepDone
  repeat' first
    | apply completes_next | with_reducible exact .refl _ | with_reducible apply State.bootNext_onward
    | with_reducible apply State.begin_onward

end Sys2Proof.Machine
end

