-- ==== Sys2Proof/Laws/OnwardReliability.lean ====
section
/-!
SUPPORT. `State.Onward` over the operations of Machine/Reliability.lean.
-/

namespace Sys2Proof.Machine

theorem execDescAuditDone_onward (s : State) :
    Completes s (execDescAuditDone s) := by
  unfold execDescAuditDone
  repeat' first
    | apply completes_next | with_reducible exact .refl _ | with_reducible apply State.auditDone_onward
    | with_reducible apply State.begin_onward

theorem State.cellDamaged_onward {s₀ s : State} (h : s₀.Onward s) (l : MemLine) :
    s₀.Onward (State.cellDamaged s l) := by
  unfold State.cellDamaged
  dsimp only
  repeat' first
    | with_reducible exact h | with_reducible exact .refl _ | with_reducible apply State.uncorrectable_onward
    | with_reducible apply State.evt_onward | intro _ | with_reducible apply onward_mk

theorem State.lineDamaged_onward {s₀ s : State} (h : s₀.Onward s) (l : MemLine) :
    s₀.Onward (State.lineDamaged s l) := by
  unfold State.lineDamaged
  dsimp only
  repeat' first
    | with_reducible exact h | with_reducible exact .refl _ | with_reducible apply State.cellDamaged_onward
    | with_reducible apply State.ueControl_onward | with_reducible apply State.flushDamaged_onward
    | with_reducible apply State.ctxDamaged_onward | with_reducible apply State.slotDamaged_onward
    | with_reducible apply State.tapsWrite_onward | split

theorem State.scrub_onward {s₀ s : State} (h : s₀.Onward s) (l : MemLine) (found : EccRead) :
    s₀.Onward (State.scrub s l found) := by
  unfold State.scrub
  repeat' first
    | with_reducible exact h | with_reducible exact .refl _ | with_reducible apply State.correct_onward
    | with_reducible apply State.lineDamaged_onward | split

theorem execScrubRead_onward (s : State) (line : MemLine) (found : EccRead) :
    Completes s (execScrubRead line found s) := by
  unfold execScrubRead
  repeat' first
    | apply completes_next | with_reducible exact .refl _ | with_reducible apply State.scrub_onward
    | with_reducible apply State.begin_onward

theorem State.abortStop_onward {s₀ s : State} (h : s₀.Onward s) (kind : Nat) (i : Nat) (peer : Nat) :
    s₀.Onward (State.abortStop s kind i peer) := by
  unfold State.abortStop
  repeat' first
    | with_reducible exact h | with_reducible exact .refl _ | with_reducible apply State.when_onward
    | with_reducible apply State.refuse_onward | with_reducible apply State.actHeld_onward
    | with_reducible apply State.returnState_onward | intro _ | split

theorem State.islandFails_onward {s₀ s : State} (h : s₀.Onward s) (kind : Nat) (i : Nat) (peer : Nat) :
    s₀.Onward (State.islandFails s kind i peer) := by
  unfold State.islandFails
  repeat' first
    | with_reducible exact h | with_reducible exact .refl _ | with_reducible apply State.declareFailed_onward
    | with_reducible apply State.abortStop_onward | split

theorem execParityMismatch_onward (s : State) (island : Fin 25) :
    Completes s (execParityMismatch island s) := by
  unfold execParityMismatch
  dsimp only
  repeat' first
    | apply completes_next | with_reducible exact .refl _ | with_reducible apply State.begin_onward
    | with_reducible apply State.when_onward | with_reducible apply State.islandFails_onward | intro _

theorem execClockLoss_onward (s : State) (island : Fin 25) :
    Completes s (execClockLoss island s) := by
  unfold execClockLoss
  dsimp only
  repeat' first
    | apply completes_next | with_reducible exact .refl _ | with_reducible apply State.begin_onward
    | with_reducible apply State.when_onward | with_reducible apply State.islandFails_onward | intro _

theorem execSlowClkLoss_onward (s : State) :
    Completes s (execSlowClkLoss s) := by
  unfold execSlowClkLoss
  repeat' first
    | apply completes_next | with_reducible exact .refl _ | with_reducible apply State.evtLog_onward
    | with_reducible apply State.begin_onward

theorem execDoorwayTimeout_onward (s : State) (sender : Fin 25) (receiver : Fin 25) :
    Completes s (execDoorwayTimeout sender receiver s) := by
  unfold execDoorwayTimeout
  dsimp only
  repeat' first
    | apply completes_next | with_reducible exact .refl _ | with_reducible apply State.begin_onward
    | with_reducible apply State.when_onward | with_reducible apply State.islandFails_onward | intro _

theorem State.miscompare_onward {s₀ s : State} (h : s₀.Onward s) :
    s₀.Onward (State.miscompare s) := by
  unfold State.miscompare
  dsimp only
  repeat' first
    | with_reducible exact h | with_reducible exact .refl _ | with_reducible apply State.recordFault_onward
    | with_reducible apply State.countWrap_onward | with_reducible apply State.evtLog_onward | split
    | with_reducible apply onward_mk

theorem execLockstepMiscompare_onward (s : State) :
    Completes s (execLockstepMiscompare s) := by
  unfold execLockstepMiscompare
  repeat' first
    | apply completes_next | with_reducible exact .refl _ | with_reducible apply State.miscompare_onward
    | with_reducible apply State.begin_onward

theorem State.coreBack_onward {s₀ s : State} (h : s₀.Onward s) :
    s₀.Onward (State.coreBack s) := by
  unfold State.coreBack
  dsimp only
  repeat' first
    | with_reducible exact h | with_reducible exact .refl _ | with_reducible apply State.countWrap_onward
    | with_reducible apply State.when_onward | with_reducible apply State.afterTransition_onward
    | with_reducible apply State.icmRefresh_onward | intro _ | with_reducible apply onward_mk

theorem execCoreRestartDone_onward (s : State) :
    Completes s (execCoreRestartDone s) := by
  unfold execCoreRestartDone
  dsimp only
  repeat' first
    | apply completes_next | with_reducible exact .refl _ | with_reducible apply State.begin_onward
    | with_reducible apply State.when_onward | with_reducible apply State.coreBack_onward | intro _

theorem State.recoverScope_onward {s₀ s : State} (h : s₀.Onward s) (scope : Nat) :
    s₀.Onward (State.recoverScope s scope) := by
  unfold State.recoverScope
  repeat' first
    | with_reducible exact h | with_reducible exact .refl _ | with_reducible apply State.commandReset_onward
    | with_reducible apply State.when_onward | with_reducible apply State.restartWing_onward | intro _ | split

theorem State.recover_onward {s₀ s : State} (h : s₀.Onward s) :
    s₀.Onward (State.recover s) := by
  unfold State.recover
  repeat' first
    | with_reducible exact h | with_reducible exact .refl _ | with_reducible apply State.wrb_onward
    | with_reducible apply State.recoverScope_onward | split

theorem execRecover_onward (s : State) (req : Req) :
    Completes s (execRecover req s) := by
  unfold execRecover
  repeat' first
    | apply completes_next | with_reducible exact .refl _ | with_reducible apply State.via_onward
    | with_reducible apply State.recover_onward | with_reducible apply State.begin_onward | intro _

theorem State.armInjection_onward {s₀ s : State} (h : s₀.Onward s) :
    s₀.Onward (State.armInjection s) := by
  unfold State.armInjection
  repeat' first
    | with_reducible exact h | with_reducible exact .refl _ | with_reducible apply State.when_onward
    | with_reducible apply State.wrb_onward | intro _

theorem execEccInjectArm_onward (s : State) (req : Req) :
    Completes s (execEccInjectArm req s) := by
  unfold execEccInjectArm
  repeat' first
    | apply completes_next | with_reducible exact .refl _ | with_reducible apply State.via_onward
    | with_reducible apply State.armInjection_onward | with_reducible apply State.begin_onward | intro _

theorem State.clearFault_onward {s₀ s : State} (h : s₀.Onward s) :
    s₀.Onward (State.clearFault s) := by
  unfold State.clearFault
  repeat' first
    | with_reducible exact h | with_reducible exact .refl _ | with_reducible apply State.wrb_onward
    | with_reducible apply State.wr_onward

theorem execFaultClear_onward (s : State) (req : Req) :
    Completes s (execFaultClear req s) := by
  unfold execFaultClear
  repeat' first
    | apply completes_next | with_reducible exact .refl _ | with_reducible apply State.via_onward
    | with_reducible apply State.clearFault_onward | with_reducible apply State.begin_onward | intro _

end Sys2Proof.Machine
end

