-- ==== Sys2Proof/Laws/OnwardObserve.lean ====
section
/-!
SUPPORT. `State.Onward` over the operations of Machine/Observe.lean.
-/

namespace Sys2Proof.Machine

theorem State.onPmu_onward {s₀ s : State} (h : s₀.Onward s) (f : Pmu → Pmu) :
    s₀.Onward (State.onPmu s f) := by
  unfold State.onPmu
  repeat' first
    | with_reducible exact h | with_reducible exact .refl _ | with_reducible apply onward_mk

theorem State.setCounter_onward {s₀ s : State} (h : s₀.Onward s) (lo : Row) (hi : Row) (n : Nat) (v : Nat) :
    s₀.Onward (State.setCounter s lo hi n v) := by
  unfold State.setCounter
  dsimp only
  repeat' first
    | with_reducible exact h | with_reducible exact .refl _ | with_reducible apply State.wr_onward
    | with_reducible apply State.when_onward | intro _

theorem State.overflow_onward {s₀ s : State} (h : s₀.Onward s) (n : Nat) :
    s₀.Onward (State.overflow s n) := by
  unfold State.overflow
  dsimp only
  repeat' first
    | with_reducible exact h | with_reducible exact .refl _ | with_reducible apply State.bit_onward
    | with_reducible apply State.evt_onward | split

theorem State.addCounter_onward {s₀ s : State} (h : s₀.Onward s) (n : Nat) (k : Nat) :
    s₀.Onward (State.addCounter s n k) := by
  unfold State.addCounter
  dsimp only
  repeat' first
    | with_reducible exact h | with_reducible exact .refl _ | with_reducible apply State.setCounter_onward
    | with_reducible apply State.mirrored_onward | with_reducible apply State.when_onward
    | with_reducible apply State.overflow_onward | intro _ | split

theorem State.foldCounters_onward {s₀ s : State} (h : s₀.Onward s) (ns : Nat) :
    s₀.Onward (State.foldCounters s ns) := by
  unfold State.foldCounters
  have k : s₀.Onward { s with pmu := { s.pmu with events := [], mirror := [] }, free := s.free + 25 } :=
    onward_of h rfl rfl (Nat.le_add_right _ _) (Nat.le_refl _) id
  dsimp only
  split
  · exact k
  · exact State.upTo_onward k (fun t n => State.when_onward (.refl t) (fun u => State.addCounter_onward (.refl u) n _) _) _


theorem State.freezeNow_onward {s₀ s : State} (h : s₀.Onward s) :
    s₀.Onward (State.freezeNow s) := by
  unfold State.freezeNow
  dsimp only
  repeat' first
    | with_reducible exact h | with_reducible exact .refl _ | with_reducible apply State.onPmu_onward
    | with_reducible apply State.wrb_onward | intro _ | split | with_reducible apply onward_mk

theorem execFreeze_onward (s : State) (req : Req) :
    Completes s (execFreeze req s) := by
  unfold execFreeze
  repeat' first
    | apply completes_next | with_reducible exact .refl _ | with_reducible apply State.via_onward
    | with_reducible apply State.onPmu_onward | with_reducible apply State.begin_onward | intro _
    | with_reducible apply onward_mk

theorem execThaw_onward (s : State) (req : Req) :
    Completes s (execThaw req s) := by
  unfold execThaw
  repeat' first
    | apply completes_next | with_reducible exact .refl _ | with_reducible apply State.via_onward
    | with_reducible apply State.onPmu_onward | with_reducible apply State.begin_onward | intro _
    | with_reducible apply onward_mk

theorem State.clearCounters_onward {s₀ s : State} (h : s₀.Onward s) :
    s₀.Onward (State.clearCounters s) := by
  unfold State.clearCounters
  repeat' first
    | with_reducible exact h | with_reducible exact .refl _ | with_reducible apply State.clearRows_onward
    | with_reducible apply State.onPmu_onward | intro _ | with_reducible apply onward_mk

theorem State.askClear_onward {s₀ s : State} (h : s₀.Onward s) :
    s₀.Onward (State.askClear s) := by
  unfold State.askClear
  repeat' first
    | with_reducible exact h | with_reducible exact .refl _ | with_reducible apply State.clearCounters_onward
    | with_reducible apply State.onPmu_onward | intro _ | split | with_reducible apply onward_mk

theorem execClearAll_onward (s : State) (req : Req) :
    Completes s (execClearAll req s) := by
  unfold execClearAll
  repeat' first
    | apply completes_next | with_reducible exact .refl _ | with_reducible apply State.via_onward
    | with_reducible apply State.askClear_onward | with_reducible apply State.begin_onward | intro _

theorem State.clearHist_onward {s₀ s : State} (h : s₀.Onward s) (h' : Nat) :
    s₀.Onward (State.clearHist s h') := by
  unfold State.clearHist
  dsimp only
  repeat' first
    | with_reducible exact h | with_reducible exact .refl _ | with_reducible apply State.wr_onward
    | with_reducible apply State.upTo_onward | intro _

theorem State.clearHists_onward {s₀ s : State} (h : s₀.Onward s) (mask : Nat) :
    s₀.Onward (State.clearHists s mask) := by
  unfold State.clearHists
  repeat' first
    | with_reducible exact h | with_reducible exact .refl _ | with_reducible apply State.upTo_onward
    | with_reducible apply State.when_onward | with_reducible apply State.clearHist_onward | intro _

theorem State.askHistClear_onward {s₀ s : State} (h : s₀.Onward s) (mask : Nat) :
    s₀.Onward (State.askHistClear s mask) := by
  unfold State.askHistClear
  repeat' first
    | with_reducible exact h | with_reducible exact .refl _ | with_reducible apply State.clearHists_onward
    | with_reducible apply State.onPmu_onward | intro _ | split | with_reducible apply onward_mk

theorem State.clearDue_onward {s₀ s : State} (h : s₀.Onward s) :
    s₀.Onward (State.clearDue s) := by
  unfold State.clearDue
  dsimp only
  repeat' first
    | with_reducible exact h | with_reducible exact .refl _ | with_reducible apply State.when_onward
    | with_reducible apply State.clearCounters_onward | with_reducible apply State.clearHists_onward
    | with_reducible apply State.onPmu_onward | with_reducible apply State.showTags_onward | intro _
    | with_reducible apply onward_mk

theorem State.refillBudget_onward {s₀ s : State} (h : s₀.Onward s) (ns : Nat) :
    s₀.Onward (State.refillBudget s ns) := by
  unfold State.refillBudget
  repeat' first
    | with_reducible exact h | with_reducible exact .refl _ | with_reducible apply onward_mk

theorem pass_onward {s₀ u : State} (h : s₀.Onward u) (us ns : Nat) :
    s₀.Onward { u with uptime := u.uptime + us, dpll := { u.dpll with advanced := u.dpll.advanced + ns } } :=
  onward_of h rfl rfl (Nat.le_refl _) (Nat.le_add_right _ _) id

theorem State.advanceMt_onward {s₀ s : State} (h : s₀.Onward s) (ns : Nat) : s₀.Onward (State.advanceMt s ns) := by
  unfold State.advanceMt
  refine pass_onward ?_ _ _
  with_reducible refine State.slewFine_onward (State.slewFine_onward (State.refillBudget_onward (State.setMt_onward
    (State.releaseUse_onward (State.clearDue_onward (State.freezeNow_onward (State.foldCounters_onward h ns))) 5) _) ns) _ _) _ _


theorem State.stepMt_onward {s₀ s : State} (h : s₀.Onward s) :
    s₀.Onward (State.stepMt s) := by
  unfold State.stepMt
  dsimp only
  repeat' first
    | with_reducible exact h | with_reducible exact .refl _ | with_reducible apply State.setMt_onward
    | with_reducible apply State.upTo_onward | with_reducible apply State.stepGate_onward
    | with_reducible apply State.onDpll_onward | with_reducible apply State.onPmu_onward
    | with_reducible apply State.evt_onward | intro _ | with_reducible apply onward_mk

theorem execMtUpdate_onward (s : State) :
    Completes s (execMtUpdate s) := by
  unfold execMtUpdate
  dsimp only
  repeat' first
    | apply completes_next | with_reducible exact .refl _ | with_reducible apply State.begin_onward
    | with_reducible apply State.when_onward | with_reducible apply State.advanceMt_onward
    | with_reducible apply State.stepMt_onward | intro _

theorem State.latchRow_onward {s₀ s : State} (h : s₀.Onward s) (sel : Nat → Bool) (live ps : Row) :
    s₀.Onward (State.latchRow s sel live ps) := by
  unfold State.latchRow
  refine onward_store h (fun w => ?_)
  exact storeWf_set (storeWf_set w _ (row_filter _ (row_wf w live.id))) _
    (tabSorted_setAll _ (row_filter _ (row_wf w ps.id)))


theorem State.latchRows_onward {s₀ s : State} (h : s₀.Onward s) (sel : Nat → Bool) (ps : List (Row × Row)) :
    s₀.Onward (State.latchRows s sel ps) := by
  unfold State.latchRows
  repeat' first
    | with_reducible exact h | with_reducible exact .refl _ | with_reducible apply State.latchRow_onward
    | with_reducible apply onward_foldl | intro _

theorem State.latchWing_onward {s₀ s : State} (h : s₀.Onward s) (w : Wing) (ps : List (Row × Row)) :
    s₀.Onward (State.latchWing s w ps) := by
  unfold State.latchWing
  repeat' first
    | with_reducible exact h | with_reducible exact .refl _ | with_reducible apply State.latchRow_onward
    | with_reducible apply onward_foldl | intro _

theorem State.turnSsf_onward {s₀ s : State} (h : s₀.Onward s) (w : Wing) :
    s₀.Onward (State.turnSsf s w) := by
  unfold State.turnSsf
  dsimp only
  repeat' first
    | with_reducible exact h | with_reducible exact .refl _ | with_reducible apply State.onOtn_onward
    | with_reducible apply State.noteSsf_onward | intro _ | with_reducible apply onward_mk

theorem State.latchFill_onward {s₀ s : State} (h : s₀.Onward s) (ch : Nat) :
    s₀.Onward (State.latchFill s ch) := by
  unfold State.latchFill
  dsimp only
  repeat' first
    | with_reducible exact h | with_reducible exact .refl _ | with_reducible apply State.accrueSlots_onward
    | with_reducible apply State.wr_onward | split | with_reducible apply onward_mk

theorem State.showSecond_onward {s₀ s : State} (h : s₀.Onward s) (w : Wing) (f : Figures) :
    s₀.Onward (State.showSecond s w f) := by
  unfold State.showSecond
  dsimp only
  repeat' first
    | with_reducible exact h | with_reducible exact .refl _ | with_reducible apply State.wr_onward
    | with_reducible apply State.wrb_onward | with_reducible apply State.wrS_onward | split

theorem State.latchFigures_onward {s₀ s : State} (h : s₀.Onward s) (w : Wing) :
    s₀.Onward (State.latchFigures s w) := by
  unfold State.latchFigures
  dsimp only
  repeat' first
    | with_reducible exact h | with_reducible exact .refl _ | with_reducible apply State.onRx_onward
    | with_reducible apply State.zero_onward | with_reducible apply State.clear_onward
    | with_reducible apply State.showSecond_onward | with_reducible apply onward_foldl | intro _ | split
    | with_reducible apply onward_mk

theorem State.latchWingBanks_onward {s₀ s : State} (h : s₀.Onward s) (w : Wing) (sop : Nat) :
    s₀.Onward (State.latchWingBanks s w sop) := by
  unfold State.latchWingBanks
  dsimp only
  repeat' first
    | with_reducible exact h | with_reducible exact .refl _ | with_reducible apply State.latchWing_onward
    | with_reducible apply State.restartSeen_onward | with_reducible apply State.turnSsf_onward
    | with_reducible apply State.wr_onward | with_reducible apply State.latchFigures_onward
    | with_reducible apply State.upTo_onward | with_reducible apply State.latchFill_onward | intro _ | split

theorem State.latchCounter_onward {s₀ s : State} (h : s₀.Onward s) (n : Nat) :
    s₀.Onward (State.latchCounter s n) := by
  unfold State.latchCounter
  dsimp only
  repeat' first
    | with_reducible exact h | with_reducible exact .refl _ | with_reducible apply State.setCounter_onward
    | with_reducible apply State.onPmu_onward | intro _ | split | with_reducible apply onward_mk

theorem State.latchShared_onward {s₀ s : State} (h : s₀.Onward s) :
    s₀.Onward (State.latchShared s) := by
  unfold State.latchShared
  dsimp only
  repeat' first
    | with_reducible exact h | with_reducible exact .refl _ | with_reducible apply State.when_onward
    | with_reducible apply State.latchRows_onward | with_reducible apply State.latchRow_onward
    | with_reducible apply State.upTo_onward | with_reducible apply State.latchCounter_onward | intro _

theorem State.tick_onward {s₀ s : State} (h : s₀.Onward s) (m : SecondStats) :
    s₀.Onward (State.tick s m) := by
  unfold State.tick
  dsimp only
  repeat' first
    | with_reducible exact h | with_reducible exact .refl _ | with_reducible apply State.latchWingBanks_onward
    | with_reducible apply State.collect_onward | with_reducible apply State.latchShared_onward
    | with_reducible apply State.when_onward | with_reducible apply State.latchConv_onward
    | with_reducible apply State.latchSup_onward | with_reducible apply State.wrb_onward
    | with_reducible apply State.wr_onward | with_reducible apply State.onDpll_onward
    | with_reducible apply State.native_onward | with_reducible apply onward_foldl | intro _
    | with_reducible apply onward_mk

theorem execOneSecondTick_onward (s : State) (m : SecondStats) :
    Completes s (execOneSecondTick m s) := by
  unfold execOneSecondTick
  dsimp only
  repeat' first
    | apply completes_next | with_reducible exact .refl _ | with_reducible apply State.begin_onward
    | with_reducible apply State.when_onward | with_reducible apply State.advanceMt_onward
    | with_reducible apply State.tick_onward | intro _

theorem State.copyTag_onward {s₀ s : State} (h : s₀.Onward s) :
    s₀.Onward (State.copyTag s) := by
  unfold State.copyTag
  repeat' first
    | with_reducible exact h | with_reducible exact .refl _ | with_reducible apply State.upTo_onward
    | with_reducible apply State.wr_onward | intro _ | split

theorem execTagWinRead_onward (s : State) (req : Req) :
    Completes s (execTagWinRead req s) := by
  unfold execTagWinRead
  dsimp only
  repeat' first
    | apply completes_next | with_reducible exact .refl _ | with_reducible apply State.via_onward
    | with_reducible apply State.copyTag_onward | with_reducible apply State.say_onward
    | with_reducible apply State.begin_onward | intro _

theorem State.popTag_onward {s₀ s : State} (h : s₀.Onward s) :
    s₀.Onward (State.popTag s) := by
  unfold State.popTag
  repeat' first
    | with_reducible exact h | with_reducible exact .refl _ | with_reducible apply State.onPmu_onward
    | with_reducible apply State.showTags_onward | intro _ | split | with_reducible apply onward_mk

theorem execTagPop_onward (s : State) (req : Req) :
    Completes s (execTagPop req s) := by
  unfold execTagPop
  repeat' first
    | apply completes_next | with_reducible exact .refl _ | with_reducible apply State.via_onward
    | with_reducible apply State.popTag_onward | with_reducible apply State.begin_onward | intro _

theorem execHistClr_onward (s : State) (req : Req) (mask : Nat) :
    Completes s (execHistClr req mask s) := by
  unfold execHistClr
  repeat' first
    | apply completes_next | with_reducible exact .refl _ | with_reducible apply State.via_onward
    | with_reducible apply State.askHistClear_onward | with_reducible apply State.begin_onward | intro _

theorem State.onAttic_onward {s₀ s : State} (h : s₀.Onward s) (f : Attic → Attic) :
    s₀.Onward (State.onAttic s f) := by
  unfold State.onAttic
  repeat' first
    | with_reducible exact h | with_reducible exact .refl _ | with_reducible apply onward_mk

theorem State.stamp_onward {s₀ s : State} (h : s₀.Onward s) :
    s₀.Onward (State.stamp s).2 := by
  unfold State.stamp
  dsimp only
  repeat' first
    | with_reducible exact h | with_reducible exact .refl _ | with_reducible apply State.fresh_onward | split

theorem State.placeRec_onward {s₀ s : State} (h : s₀.Onward s) (i : Nat) (r : Rec) :
    s₀.Onward (State.placeRec s i r) := by
  unfold State.placeRec
  repeat' first
    | with_reducible exact h | with_reducible exact .refl _ | with_reducible apply State.onAttic_onward | intro _
    | with_reducible apply onward_mk

theorem State.sealRec_onward {s₀ s : State} (h : s₀.Onward s) (r : Rec) :
    s₀.Onward (State.sealRec s r) := by
  unfold State.sealRec
  dsimp only
  repeat' first
    | with_reducible exact h | with_reducible exact .refl _ | with_reducible apply State.placeRec_onward
    | with_reducible apply State.wr_onward | with_reducible apply State.when_onward
    | with_reducible apply State.wrb_onward | with_reducible apply State.evt_onward | intro _

theorem State.circulateRec_onward {s₀ s : State} (h : s₀.Onward s) (r : Rec) :
    s₀.Onward (State.circulateRec s r) := by
  unfold State.circulateRec
  dsimp only
  repeat' first
    | with_reducible exact h | with_reducible exact .refl _ | with_reducible apply State.when_onward
    | with_reducible apply State.wrb_onward | with_reducible apply State.placeRec_onward
    | with_reducible apply State.wr_onward | intro _ | split

theorem State.newRec_onward {s₀ s : State} (h : s₀.Onward s) (r : Rec) :
    s₀.Onward (State.newRec s r) := by
  unfold State.newRec
  repeat' first
    | with_reducible exact h | with_reducible exact .refl _ | with_reducible apply State.sealRec_onward
    | with_reducible apply State.circulateRec_onward | split

theorem State.takeRec_onward {s₀ s : State} (h : s₀.Onward s) (x : Arrival) (t : Nat) (coarse : Bool) :
    s₀.Onward (State.takeRec s x t coarse) := by
  unfold State.takeRec
  repeat' first
    | with_reducible exact h | with_reducible exact .refl _ | with_reducible apply State.placeRec_onward
    | with_reducible apply State.newRec_onward | split | with_reducible apply onward_mk

theorem State.nextRec_onward {s₀ s : State} (h : s₀.Onward s) :
    s₀.Onward (State.nextRec s) := by
  unfold State.nextRec
  dsimp only
  repeat' first
    | with_reducible exact h | with_reducible exact .refl _ | with_reducible apply State.onAttic_onward
    | with_reducible apply State.stamp_onward | with_reducible apply State.takeRec_onward | intro _ | split
    | with_reducible apply onward_mk

theorem execAtticRecord_onward (s : State) :
    Completes s (execAtticRecord s) := by
  unfold execAtticRecord
  repeat' first
    | apply completes_next | with_reducible exact .refl _ | with_reducible apply State.nextRec_onward
    | with_reducible apply State.begin_onward

theorem State.copyRec_onward {s₀ s : State} (h : s₀.Onward s) :
    s₀.Onward (State.copyRec s) := by
  unfold State.copyRec
  dsimp only
  repeat' first
    | with_reducible exact h | with_reducible exact .refl _ | with_reducible apply State.upTo_onward
    | with_reducible apply State.wr_onward | intro _

theorem execAtticWinRead_onward (s : State) (req : Req) :
    Completes s (execAtticWinRead req s) := by
  unfold execAtticWinRead
  dsimp only
  repeat' first
    | apply completes_next | with_reducible exact .refl _ | with_reducible apply State.via_onward
    | with_reducible apply State.copyRec_onward | with_reducible apply State.say_onward
    | with_reducible apply State.begin_onward | intro _

theorem State.advanceCursor_onward {s₀ s : State} (h : s₀.Onward s) :
    s₀.Onward (State.advanceCursor s) := by
  unfold State.advanceCursor
  repeat' first
    | with_reducible exact h | with_reducible exact .refl _ | with_reducible apply State.when_onward
    | with_reducible apply State.wr_onward | intro _

theorem execAtticWinLastRead_onward (s : State) (req : Req) :
    Completes s (execAtticWinLastRead req s) := by
  unfold execAtticWinLastRead
  dsimp only
  repeat' first
    | apply completes_next | with_reducible exact .refl _ | with_reducible apply State.via_onward
    | with_reducible apply State.advanceCursor_onward | with_reducible apply State.say_onward
    | with_reducible apply State.begin_onward | intro _

theorem State.setArmed_onward {s₀ s : State} (h : s₀.Onward s) (on : Bool) :
    s₀.Onward (State.setArmed s on) := by
  unfold State.setArmed
  repeat' first
    | with_reducible exact h | with_reducible exact .refl _ | with_reducible apply State.onAttic_onward
    | with_reducible apply State.wrb_onward | intro _ | with_reducible apply onward_mk

theorem State.emptyAttic_onward {s₀ s : State} (h : s₀.Onward s) (both : Bool) :
    s₀.Onward (State.emptyAttic s both) := by
  unfold State.emptyAttic
  dsimp only
  repeat' first
    | with_reducible exact h | with_reducible exact .refl _ | with_reducible apply State.onAttic_onward
    | with_reducible apply State.wr_onward | with_reducible apply State.wrb_onward
    | with_reducible apply State.when_onward | intro _ | with_reducible apply onward_mk

theorem State.clearAttic_onward {s₀ s : State} (h : s₀.Onward s) (req : Nat) (both : Bool) :
    s₀.Onward (State.clearAttic s req both) := by
  unfold State.clearAttic
  dsimp only
  repeat' first
    | with_reducible exact h | with_reducible exact .refl _ | with_reducible apply State.setArmed_onward
    | with_reducible apply State.emptyAttic_onward | with_reducible apply State.stamp_onward
    | with_reducible apply State.sealRec_onward

theorem State.clearStep_onward {s₀ s : State} (h : s₀.Onward s) (req : Nat) (step : Nat) :
    s₀.Onward (State.clearStep s req step) := by
  unfold State.clearStep
  repeat' first
    | with_reducible exact h | with_reducible exact .refl _ | with_reducible apply State.setArmed_onward
    | with_reducible apply State.clearAttic_onward | split

theorem execAtticClearArm_onward (s : State) (req : Req) (scope : Bool) :
    Completes s (execAtticClearArm req scope s) := by
  unfold execAtticClearArm
  repeat' first
    | apply completes_next | with_reducible exact .refl _ | with_reducible apply State.via_onward
    | with_reducible apply State.wrb_onward | with_reducible apply State.clearStep_onward
    | with_reducible apply State.begin_onward | intro _

theorem execAtticClearExecute_onward (s : State) (req : Req) (scope : Bool) :
    Completes s (execAtticClearExecute req scope s) := by
  unfold execAtticClearExecute
  repeat' first
    | apply completes_next | with_reducible exact .refl _ | with_reducible apply State.via_onward
    | with_reducible apply State.wrb_onward | with_reducible apply State.clearStep_onward
    | with_reducible apply State.begin_onward | intro _

theorem execAtticClearLapse_onward (s : State) :
    Completes s (execAtticClearLapse s) := by
  unfold execAtticClearLapse
  repeat' first
    | apply completes_next | with_reducible exact .refl _ | with_reducible apply State.setArmed_onward
    | with_reducible apply State.begin_onward

end Sys2Proof.Machine
end

