-- ==== Sys2Proof/Laws/OnwardHostIf.lean ====
section
/-!
SUPPORT. `State.Onward` over the operations of Machine/HostIf.lean.
-/

namespace Sys2Proof.Machine

theorem State.onHost_onward {s₀ s : State} (h : s₀.Onward s) (f : HostIf → HostIf) :
    s₀.Onward (State.onHost s f) := by
  unfold State.onHost
  repeat' first
    | with_reducible exact h | with_reducible exact .refl _ | with_reducible apply onward_mk

theorem State.clearDma_onward {s₀ s : State} (h : s₀.Onward s) :
    s₀.Onward (State.clearDma s) := by
  unfold State.clearDma
  repeat' first
    | with_reducible exact h | with_reducible exact .refl _ | with_reducible apply State.upTo_onward
    | with_reducible apply State.clear_onward | with_reducible apply State.onHost_onward
    | with_reducible apply State.capture_onward | with_reducible apply onward_foldl | intro _
    | with_reducible apply onward_mk

theorem State.clearMsix_onward {s₀ s : State} (h : s₀.Onward s) :
    s₀.Onward (State.clearMsix s) := by
  unfold State.clearMsix
  repeat' first
    | with_reducible exact h | with_reducible exact .refl _ | with_reducible apply State.onHost_onward | intro _
    | with_reducible apply onward_mk

theorem State.clearShadow_onward {s₀ s : State} (h : s₀.Onward s) (r : Req) :
    s₀.Onward (State.clearShadow s r) := by
  unfold State.clearShadow
  repeat' first
    | with_reducible exact h | with_reducible exact .refl _ | with_reducible apply State.onHost_onward | intro _
    | with_reducible apply onward_mk

theorem State.discardRequests_onward {s₀ s : State} (h : s₀.Onward s) :
    s₀.Onward (State.discardRequests s) := by
  unfold State.discardRequests
  repeat' first
    | with_reducible exact h | with_reducible exact .refl _ | intro _ | with_reducible apply onward_mk

theorem State.linkDown_onward {s₀ s : State} (h : s₀.Onward s) :
    s₀.Onward (State.linkDown s) := by
  unfold State.linkDown
  repeat' first
    | with_reducible exact h | with_reducible exact .refl _ | with_reducible apply State.wrb_onward
    | with_reducible apply State.wr_onward

theorem State.perst_onward {s₀ s : State} (h : s₀.Onward s) :
    s₀.Onward (State.perst s) := by
  unfold State.perst
  dsimp only
  repeat' first
    | with_reducible exact h | with_reducible exact .refl _ | with_reducible apply State.linkDown_onward
    | with_reducible apply State.clearDma_onward | with_reducible apply State.clearMsix_onward
    | with_reducible apply State.discardRequests_onward | with_reducible apply State.breakFetch_onward
    | with_reducible apply State.breakXfer_onward | with_reducible apply onward_mk

theorem execPerst_onward (s : State) :
    Completes s (execPerst s) := by
  unfold execPerst
  repeat' first
    | apply completes_next | with_reducible exact .refl _ | with_reducible apply State.perst_onward
    | with_reducible apply State.begin_onward

theorem State.flr0_onward {s₀ s : State} (h : s₀.Onward s) :
    s₀.Onward (State.flr0 s) := by
  unfold State.flr0
  dsimp only
  repeat' first
    | with_reducible exact h | with_reducible exact .refl _ | with_reducible apply State.clearDma_onward
    | with_reducible apply State.clearMsix_onward | with_reducible apply State.clearShadow_onward
    | with_reducible apply State.wr_onward | with_reducible apply State.discardRequests_onward

theorem execFlrPf0_onward (s : State) :
    Completes s (execFlrPf0 s) := by
  unfold execFlrPf0
  repeat' first
    | apply completes_next | with_reducible exact .refl _ | with_reducible apply State.flr0_onward
    | with_reducible apply State.begin_onward

theorem execFlrPf1_onward (s : State) :
    Completes s (execFlrPf1 s) := by
  unfold execFlrPf1
  repeat' first
    | apply completes_next | with_reducible exact .refl _ | with_reducible apply State.clearShadow_onward
    | with_reducible apply State.begin_onward

theorem execPerstRelease_onward (s : State) :
    Completes s (execPerstRelease s) := by
  unfold execPerstRelease
  dsimp only
  repeat' first
    | apply completes_next | with_reducible exact .refl _ | with_reducible apply State.begin_onward
    | with_reducible apply State.perst_onward | with_reducible apply onward_mk

theorem execPcieLinkUp_onward (s : State) (gen : Nat) (width : Nat) :
    Completes s (execPcieLinkUp gen width s) := by
  unfold execPcieLinkUp
  dsimp only
  repeat' first
    | apply completes_next | with_reducible exact .refl _ | with_reducible apply State.begin_onward
    | with_reducible apply State.when_onward | with_reducible apply State.perst_onward
    | with_reducible apply State.wrb_onward | with_reducible apply State.wr_onward | intro _

theorem execBadAccess_onward (s : State) (req : Req) :
    Completes s (execBadAccess req s) := by
  unfold execBadAccess
  repeat' first
    | apply completes_next | with_reducible exact .refl _ | with_reducible apply State.count_onward
    | with_reducible apply State.say_onward | with_reducible apply State.begin_onward

theorem State.sendPending_onward {s₀ s : State} (h : s₀.Onward s) :
    s₀.Onward (State.sendPending s) := by
  unfold State.sendPending
  repeat' first
    | with_reducible exact h | with_reducible exact .refl _ | with_reducible apply State.upTo_onward
    | with_reducible apply State.when_onward | with_reducible apply State.sendMsix_onward | intro _

theorem State.msixControl_onward {s₀ s : State} (h : s₀.Onward s) (c : MsixCtl) :
    s₀.Onward (State.msixControl s c) := by
  unfold State.msixControl
  repeat' first
    | with_reducible exact h | with_reducible exact .refl _ | with_reducible apply State.onHost_onward
    | with_reducible apply State.sendPending_onward | intro _ | split | with_reducible apply onward_mk

theorem execMsixUnmask_onward (s : State) (c : MsixCtl) :
    Completes s (execMsixUnmask c s) := by
  unfold execMsixUnmask
  repeat' first
    | apply completes_next | with_reducible exact .refl _ | with_reducible apply State.msixControl_onward
    | with_reducible apply State.begin_onward

theorem State.gapEnds_onward {s₀ s : State} (h : s₀.Onward s) (v : Nat) :
    s₀.Onward (State.gapEnds s v) := by
  unfold State.gapEnds
  dsimp only
  repeat' first
    | with_reducible exact h | with_reducible exact .refl _ | with_reducible apply State.onHost_onward
    | with_reducible apply State.when_onward | with_reducible apply State.sendMsix_onward | intro _ | split
    | with_reducible apply onward_mk

theorem execVecModGapExpiry_onward (s : State) (v : Fin 64) :
    Completes s (execVecModGapExpiry v s) := by
  unfold execVecModGapExpiry
  dsimp only
  repeat' first
    | apply completes_next | with_reducible exact .refl _ | with_reducible apply State.begin_onward
    | with_reducible apply State.when_onward | with_reducible apply State.gapEnds_onward | intro _

theorem State.advanceHead_onward {s₀ s : State} (h : s₀.Onward s) (e : Nat) :
    s₀.Onward (State.advanceHead s e) := by
  unfold State.advanceHead
  repeat' first
    | with_reducible exact h | with_reducible exact .refl _ | with_reducible apply State.wr_onward
    | with_reducible apply State.ring_onward

theorem State.captureError_onward {s₀ s : State} (h : s₀.Onward s) (e : Nat) :
    s₀.Onward (State.captureError s e) := by
  unfold State.captureError
  repeat' first
    | with_reducible exact h | with_reducible exact .refl _ | with_reducible apply State.wrb_onward
    | with_reducible apply State.say_onward

theorem State.writeStatus_onward {s₀ s : State} (h : s₀.Onward s) (e : Nat) (status : Nat) :
    s₀.Onward (State.writeStatus s e status) := by
  unfold State.writeStatus
  repeat' first
    | with_reducible exact h | with_reducible exact .refl _ | with_reducible apply State.say_onward

theorem State.writeBlock_onward {s₀ s : State} (h : s₀.Onward s) (e : Nat) (w : Wing) (d : Descriptor) (m : SymbolBlock) (seq : Nat) :
    s₀.Onward (State.writeBlock s e w d m seq) := by
  unfold State.writeBlock
  dsimp only
  repeat' first
    | with_reducible exact h | with_reducible exact .refl _ | with_reducible apply State.captureError_onward
    | with_reducible apply State.fresh_onward | with_reducible apply State.writeStatus_onward
    | with_reducible apply State.advanceHead_onward | with_reducible apply State.onHost_onward
    | with_reducible apply State.say_onward | intro _ | split | with_reducible apply onward_mk

theorem State.capture_onward {s₀ s : State} (h : s₀.Onward s) (e : Nat) (d : Descriptor) (m : SymbolBlock) :
    s₀.Onward (State.capture s e d m) := by
  unfold State.capture
  dsimp only
  repeat' first
    | with_reducible exact h | with_reducible exact .refl _ | with_reducible apply State.onHost_onward
    | with_reducible apply State.count_onward | with_reducible apply State.writeBlock_onward | intro _ | split
    | with_reducible apply onward_mk

theorem execCaptureBlock_onward (s : State) (e : Fin 7) (d : Descriptor) (m : SymbolBlock) :
    Completes s (execCaptureBlock e d m s) := by
  unfold execCaptureBlock
  dsimp only
  repeat' first
    | apply completes_next | with_reducible exact .refl _ | with_reducible apply State.begin_onward
    | with_reducible apply State.when_onward | with_reducible apply State.capture_onward | intro _

end Sys2Proof.Machine
end

