-- ==== Sys2Proof/Laws/OnwardCorridor.lean ====
section
/-!
SUPPORT. `State.Onward` over the operations of Machine/Corridor.lean.
-/

namespace Sys2Proof.Machine

theorem State.onCor_onward {s₀ s : State} (h : s₀.Onward s) (f : Corridor → Corridor) :
    s₀.Onward (State.onCor s f) := by
  unfold State.onCor
  repeat' first
    | with_reducible exact h | with_reducible exact .refl _ | with_reducible apply onward_mk

theorem State.heartbeats_onward {s₀ s : State} (h : s₀.Onward s) :
    s₀.Onward (State.heartbeats s) := by
  unfold State.heartbeats
  repeat' first
    | with_reducible exact h | with_reducible exact .refl _ | with_reducible apply State.upTo_onward
    | with_reducible apply State.when_onward | with_reducible apply State.say_onward | intro _

theorem execHeartbeatTx_onward (s : State) :
    Completes s (execHeartbeatTx s) := by
  unfold execHeartbeatTx
  dsimp only
  repeat' first
    | apply completes_next | with_reducible exact .refl _ | with_reducible apply State.begin_onward
    | with_reducible apply State.when_onward | with_reducible apply State.heartbeats_onward | intro _

theorem State.reportPort_onward {s₀ s : State} (h : s₀.Onward s) (p : Nat) (up : Bool) :
    s₀.Onward (State.reportPort s p up) := by
  unfold State.reportPort
  repeat' first
    | with_reducible exact h | with_reducible exact .refl _ | with_reducible apply State.when_onward
    | with_reducible apply State.sendCell_onward | intro _

theorem State.beginEnum_onward {s₀ s : State} (h : s₀.Onward s) :
    s₀.Onward (State.beginEnum s) := by
  unfold State.beginEnum
  repeat' first
    | with_reducible exact h | with_reducible exact .refl _ | with_reducible apply State.wrb_onward

theorem State.setCut_onward {s₀ s : State} (h : s₀.Onward s) (c : Option Nat) :
    s₀.Onward (State.setCut s c) := by
  unfold State.setCut
  dsimp only
  repeat' first
    | with_reducible exact h | with_reducible exact .refl _ | with_reducible apply State.onCor_onward
    | with_reducible apply State.wrb_onward | with_reducible apply State.evt_onward | intro _ | split
    | with_reducible apply onward_mk

theorem State.breakRing_onward {s₀ s : State} (h : s₀.Onward s) (k : Nat) :
    s₀.Onward (State.breakRing s k) := by
  unfold State.breakRing
  repeat' first
    | with_reducible exact h | with_reducible exact .refl _ | with_reducible apply State.when_onward
    | with_reducible apply State.setCut_onward | with_reducible apply State.ring_onward | intro _

theorem State.portUp_onward {s₀ s : State} (h : s₀.Onward s) (p : Nat) :
    s₀.Onward (State.portUp s p) := by
  unfold State.portUp
  dsimp only
  repeat' first
    | with_reducible exact h | with_reducible exact .refl _ | with_reducible apply State.wrb_onward
    | with_reducible apply State.evt_onward | with_reducible apply State.reportPort_onward
    | with_reducible apply State.onCor_onward | with_reducible apply State.when_onward
    | with_reducible apply State.beginEnum_onward | with_reducible apply State.setCut_onward | intro _
    | with_reducible apply onward_mk

theorem State.beat_onward {s₀ s : State} (h : s₀.Onward s) (p : Nat) (ql : Nat) :
    s₀.Onward (State.beat s p ql) := by
  unfold State.beat
  dsimp only
  repeat' first
    | with_reducible exact h | with_reducible exact .refl _ | with_reducible apply State.onCor_onward
    | with_reducible apply State.when_onward | with_reducible apply State.portUp_onward
    | with_reducible apply State.checkCands_onward | intro _ | with_reducible apply onward_mk

theorem execCorHeartbeatRx_onward (s : State) (port : Fin 4) (ql : Fin 16) :
    Completes s (execCorHeartbeatRx port ql s) := by
  unfold execCorHeartbeatRx
  dsimp only
  repeat' first
    | apply completes_next | with_reducible exact .refl _ | with_reducible apply State.begin_onward
    | with_reducible apply State.when_onward | with_reducible apply State.beat_onward | intro _

theorem State.portDown_onward {s₀ s : State} (h : s₀.Onward s) (p : Nat) :
    s₀.Onward (State.portDown s p) := by
  unfold State.portDown
  dsimp only
  repeat' first
    | with_reducible exact h | with_reducible exact .refl _ | with_reducible apply State.onCor_onward
    | with_reducible apply State.wrb_onward | with_reducible apply State.countWrap_onward
    | with_reducible apply State.evt_onward | with_reducible apply State.reportPort_onward
    | with_reducible apply State.checkCands_onward | with_reducible apply State.when_onward
    | with_reducible apply State.breakRing_onward | intro _ | split | with_reducible apply onward_mk

theorem execCorridorPortDown_onward (s : State) (port : Fin 4) :
    Completes s (execCorridorPortDown port s) := by
  unfold execCorridorPortDown
  repeat' first
    | apply completes_next | with_reducible exact .refl _ | with_reducible apply State.portDown_onward
    | with_reducible apply State.begin_onward

theorem State.linkCell_onward {s₀ s : State} (h : s₀.Onward s) (a : Nat) (port : Nat) (up : Bool) (restored : Bool) :
    s₀.Onward (State.linkCell s a port up restored) := by
  unfold State.linkCell
  repeat' first
    | with_reducible exact h | with_reducible exact .refl _ | with_reducible apply State.setCut_onward
    | with_reducible apply State.beginEnum_onward | with_reducible apply State.when_onward
    | with_reducible apply State.breakRing_onward | intro _ | split

theorem execCorLinkRx_onward (s : State) (worker : Nat) (port : Fin 4) (up : Bool) (restored : Bool) :
    Completes s (execCorLinkRx worker port up restored s) := by
  unfold execCorLinkRx
  dsimp only
  repeat' first
    | apply completes_next | with_reducible exact .refl _ | with_reducible apply State.begin_onward
    | with_reducible apply State.when_onward | with_reducible apply State.linkCell_onward | intro _

theorem State.sendEnums_onward {s₀ s : State} (h : s₀.Onward s) (nodes : List (Nat × Node)) :
    s₀.Onward (State.sendEnums s nodes) := by
  unfold State.sendEnums
  repeat' first
    | with_reducible exact h | with_reducible exact .refl _ | with_reducible apply State.sendCell_onward
    | with_reducible apply onward_foldl | intro _

theorem State.enumerated_onward {s₀ s : State} (h : s₀.Onward s) (w : Walk) :
    s₀.Onward (State.enumerated s w) := by
  unfold State.enumerated
  dsimp only
  repeat' first
    | with_reducible exact h | with_reducible exact .refl _ | with_reducible apply State.onCor_onward
    | with_reducible apply State.ring_onward | with_reducible apply State.upTo_onward
    | with_reducible apply State.wrb_onward | with_reducible apply State.wr_onward
    | with_reducible apply State.sendEnums_onward | with_reducible apply State.evt_onward
    | with_reducible apply onward_foldl | intro _ | with_reducible apply onward_mk

theorem execEnumerate_onward (s : State) (topo : List Neighbours) :
    Completes s (execEnumerate topo s) := by
  unfold execEnumerate
  dsimp only
  repeat' first
    | apply completes_next | with_reducible exact .refl _ | with_reducible apply State.begin_onward
    | with_reducible apply State.when_onward | with_reducible apply State.enumerated_onward | intro _

theorem execCorEnumRx_onward (s : State) (addr : Nat) (port : Fin 4) (serves : List (Option (Nat × Nat))) :
    Completes s (execCorEnumRx addr port serves s) := by
  unfold execCorEnumRx
  dsimp only
  repeat' first
    | apply completes_next | with_reducible exact .refl _ | with_reducible apply State.begin_onward
    | with_reducible apply State.when_onward | with_reducible apply State.onCor_onward
    | with_reducible apply State.wr_onward | with_reducible apply State.wrb_onward
    | with_reducible apply State.checkCands_onward | intro _ | with_reducible apply onward_mk

theorem State.expire_onward {s₀ s : State} (h : s₀.Onward s) (w : Nat) (addr : Nat) (isRead : Bool) (discarded : Bool) :
    s₀.Onward (State.expire s w addr isRead discarded) := by
  unfold State.expire
  dsimp only
  repeat' first
    | with_reducible exact h | with_reducible exact .refl _ | with_reducible apply State.countWrap_onward
    | with_reducible apply State.when_onward | with_reducible apply State.say_onward
    | with_reducible apply State.evt_onward | intro _ | split

theorem State.sendRequest_onward {s₀ s : State} (h : s₀.Onward s) (w : Nat) (addr : Nat) (data : Option Nat) :
    s₀.Onward (State.sendRequest s w addr data) := by
  unfold State.sendRequest
  dsimp only
  repeat' first
    | with_reducible exact h | with_reducible exact .refl _ | with_reducible apply State.onCor_onward
    | with_reducible apply State.when_onward | with_reducible apply State.sendCell_onward | intro _ | split
    | with_reducible apply onward_mk

theorem State.window_onward {s₀ s : State} (h : s₀.Onward s) (w : Nat) (addr : Nat) (data : Option Nat) :
    s₀.Onward (State.window s w addr data) := by
  unfold State.window
  repeat' first
    | with_reducible exact h | with_reducible exact .refl _ | with_reducible apply State.when_onward
    | with_reducible apply State.say_onward | with_reducible apply State.expire_onward
    | with_reducible apply State.sendRequest_onward | intro _ | split

theorem execWindowAccess_onward (s : State) (w : Fin 16) (addr : Nat) (data : Option Nat) :
    Completes s (execWindowAccess w addr data s) := by
  unfold execWindowAccess
  repeat' first
    | apply completes_next | with_reducible exact .refl _ | with_reducible apply State.window_onward
    | with_reducible apply State.begin_onward

theorem State.endRequest_onward {s₀ s : State} (h : s₀.Onward s) (id : Nat) :
    s₀.Onward (State.endRequest s id) := by
  unfold State.endRequest
  repeat' first
    | with_reducible exact h | with_reducible exact .refl _ | with_reducible apply State.onCor_onward | intro _
    | with_reducible apply onward_mk

theorem execCorReadCplRx_onward (s : State) (id : Nat) (data : Nat) :
    Completes s (execCorReadCplRx id data s) := by
  unfold execCorReadCplRx
  dsimp only
  repeat' first
    | apply completes_next | with_reducible exact .refl _ | with_reducible apply State.begin_onward
    | with_reducible apply State.endRequest_onward | with_reducible apply State.when_onward
    | with_reducible apply State.say_onward | with_reducible apply State.window_onward | intro _ | split

theorem execCorWriteAckRx_onward (s : State) (id : Nat) :
    Completes s (execCorWriteAckRx id s) := by
  unfold execCorWriteAckRx
  dsimp only
  repeat' first
    | apply completes_next | with_reducible exact .refl _ | with_reducible apply State.begin_onward
    | with_reducible apply State.when_onward | with_reducible apply State.endRequest_onward | intro _

theorem execCorStallRx_onward (s : State) (id : Nat) :
    Completes s (execCorStallRx id s) := by
  unfold execCorStallRx
  dsimp only
  repeat' first
    | apply completes_next | with_reducible exact .refl _ | with_reducible apply State.begin_onward
    | with_reducible apply State.onCor_onward | with_reducible apply State.countWrap_onward
    | with_reducible apply State.window_onward | intro _ | split | with_reducible apply onward_mk

theorem execWindowDeadlineExpiry_onward (s : State) (id : Nat) :
    Completes s (execWindowDeadlineExpiry id s) := by
  unfold execWindowDeadlineExpiry
  dsimp only
  repeat' first
    | apply completes_next | with_reducible exact .refl _ | with_reducible apply State.begin_onward
    | with_reducible apply State.endRequest_onward | with_reducible apply State.expire_onward
    | with_reducible apply State.window_onward | intro _ | split

theorem State.doorbellCell_onward {s₀ s : State} (h : s₀.Onward s) (a : Nat) (v : Nat) :
    s₀.Onward (State.doorbellCell s a v) := by
  unfold State.doorbellCell
  dsimp only
  repeat' first
    | with_reducible exact h | with_reducible exact .refl _ | with_reducible apply State.onCor_onward
    | with_reducible apply State.evt_onward | with_reducible apply State.ring_onward | intro _ | split
    | with_reducible apply onward_mk

theorem execCorDoorbellRx_onward (s : State) (worker : Nat) (v : Fin 64) :
    Completes s (execCorDoorbellRx worker v s) := by
  unfold execCorDoorbellRx
  dsimp only
  repeat' first
    | apply completes_next | with_reducible exact .refl _ | with_reducible apply State.begin_onward
    | with_reducible apply State.when_onward | with_reducible apply State.doorbellCell_onward | intro _

theorem execCorHierRx_onward (s : State) (target : Fin 8) :
    Completes s (execCorHierRx target s) := by
  unfold execCorHierRx
  dsimp only
  repeat' first
    | apply completes_next | with_reducible exact .refl _ | with_reducible apply State.begin_onward
    | with_reducible apply State.when_onward | with_reducible apply State.targetWrite_onward | intro _

theorem State.popFwd_onward {s₀ s : State} (h : s₀.Onward s) :
    s₀.Onward (State.popFwd s).2 := by
  unfold State.popFwd
  repeat' first
    | with_reducible exact h | with_reducible exact .refl _ | with_reducible apply State.onCor_onward | intro _
    | split | with_reducible apply onward_mk

theorem execFwdLogRead_onward (s : State) (req : Req) :
    Completes s (execFwdLogRead req s) := by
  unfold execFwdLogRead
  dsimp only
  repeat' first
    | apply completes_next | with_reducible exact .refl _ | with_reducible apply State.via_onward
    | with_reducible apply State.popFwd_onward | with_reducible apply State.say_onward
    | with_reducible apply State.begin_onward | intro _

end Sys2Proof.Machine
end

