-- ==== Sys2Proof/Laws/OnwardSmbus.lean ====
section
/-!
SUPPORT. `State.Onward` over the operations of Machine/Smbus.lean.
-/

namespace Sys2Proof.Machine

theorem State.smbAnswer_onward {s₀ s : State} (h : s₀.Onward s) (bytes : List Nat) :
    s₀.Onward (State.smbAnswer s bytes) := by
  unfold State.smbAnswer
  repeat' first
    | with_reducible exact h | with_reducible exact .refl _ | with_reducible apply State.when_onward
    | with_reducible apply State.say_onward | intro _

theorem execSmbStatus_onward (s : State) :
    Completes s (execSmbStatus s) := by
  unfold execSmbStatus
  dsimp only
  repeat' first
    | apply completes_next | with_reducible exact .refl _ | with_reducible apply State.begin_onward
    | with_reducible apply State.smbAnswer_onward

theorem execSmbVin_onward (s : State) :
    Completes s (execSmbVin s) := by
  unfold execSmbVin
  dsimp only
  repeat' first
    | apply completes_next | with_reducible exact .refl _ | with_reducible apply State.begin_onward
    | with_reducible apply State.smbAnswer_onward

theorem State.noteTemp_onward {s₀ s : State} (h : s₀.Onward s) (ch : Nat) (v : Int) :
    s₀.Onward (State.noteTemp s ch v) := by
  unfold State.noteTemp
  repeat' first
    | with_reducible exact h | with_reducible exact .refl _ | with_reducible apply onward_mk

theorem State.noteDie_onward {s₀ s : State} (h : s₀.Onward s) (v : Int) :
    s₀.Onward (State.noteDie s v) := by
  unfold State.noteDie
  repeat' first
    | with_reducible exact h | with_reducible exact .refl _ | with_reducible apply State.upTo_onward
    | with_reducible apply State.noteTemp_onward | intro _

theorem execSmbTcp_onward (s : State) (v : Int) :
    Completes s (execSmbTcp v s) := by
  unfold execSmbTcp
  dsimp only
  repeat' first
    | apply completes_next | with_reducible exact .refl _ | with_reducible apply State.begin_onward
    | with_reducible apply State.when_onward | with_reducible apply State.noteTemp_onward
    | with_reducible apply State.smbAnswer_onward | intro _

theorem execSmbTdie_onward (s : State) (v : Int) :
    Completes s (execSmbTdie v s) := by
  unfold execSmbTdie
  dsimp only
  repeat' first
    | apply completes_next | with_reducible exact .refl _ | with_reducible apply State.begin_onward
    | with_reducible apply State.when_onward | with_reducible apply State.noteDie_onward
    | with_reducible apply State.smbAnswer_onward | intro _

theorem execSmbWake_onward (s : State) :
    Completes s (execSmbWake s) := by
  unfold execSmbWake
  dsimp only
  repeat' first
    | apply completes_next | with_reducible exact .refl _ | with_reducible apply State.begin_onward
    | with_reducible apply State.smbAnswer_onward

theorem execSmbId_onward (s : State) :
    Completes s (execSmbId s) := by
  unfold execSmbId
  dsimp only
  repeat' first
    | apply completes_next | with_reducible exact .refl _ | with_reducible apply State.begin_onward
    | with_reducible apply State.smbAnswer_onward

theorem State.smbWakeUp_onward {s₀ s : State} (h : s₀.Onward s) :
    s₀.Onward (State.smbWakeUp s) := by
  unfold State.smbWakeUp
  repeat' first
    | with_reducible exact h | with_reducible exact .refl _ | with_reducible apply State.say_onward
    | with_reducible apply State.wake_onward | with_reducible apply State.when_onward
    | with_reducible apply State.refuse_onward | with_reducible apply State.actHeld_onward
    | with_reducible apply State.recause_onward | with_reducible apply State.returnState_onward | intro _ | split

theorem execSmbWakeCmd_onward (s : State) :
    Completes s (execSmbWakeCmd s) := by
  unfold execSmbWakeCmd
  repeat' first
    | apply completes_next | with_reducible exact .refl _ | with_reducible apply State.smbWakeUp_onward
    | with_reducible apply State.begin_onward

theorem State.releaseAlert_onward {s₀ s : State} (h : s₀.Onward s) :
    s₀.Onward (State.releaseAlert s) := by
  unfold State.releaseAlert
  repeat' first
    | with_reducible exact h | with_reducible exact .refl _ | with_reducible apply onward_mk

theorem execSmbAlertClr_onward (s : State) :
    Completes s (execSmbAlertClr s) := by
  unfold execSmbAlertClr
  dsimp only
  repeat' first
    | apply completes_next | with_reducible exact .refl _ | with_reducible apply State.begin_onward
    | with_reducible apply State.when_onward | with_reducible apply State.releaseAlert_onward | intro _

theorem execSmbAlertResponse_onward (s : State) :
    Completes s (execSmbAlertResponse s) := by
  unfold execSmbAlertResponse
  dsimp only
  repeat' first
    | apply completes_next | with_reducible exact .refl _ | with_reducible apply State.begin_onward
    | with_reducible apply State.when_onward | with_reducible apply State.say_onward
    | with_reducible apply State.releaseAlert_onward | intro _

theorem execSmbAtticCur_onward (s : State) (index : Nat) :
    Completes s (execSmbAtticCur index s) := by
  unfold execSmbAtticCur
  dsimp only
  repeat' first
    | apply completes_next | with_reducible exact .refl _ | with_reducible apply State.begin_onward
    | with_reducible apply State.when_onward | with_reducible apply State.onAttic_onward | intro _
    | with_reducible apply onward_mk

theorem execSmbAtticRec_onward (s : State) :
    Completes s (execSmbAtticRec s) := by
  unfold execSmbAtticRec
  dsimp only
  repeat' first
    | apply completes_next | with_reducible exact .refl _ | with_reducible apply State.begin_onward
    | with_reducible apply State.when_onward | with_reducible apply State.say_onward
    | with_reducible apply State.onAttic_onward | intro _ | with_reducible apply onward_mk

theorem execSmbUndefined_onward (s : State) (code : Nat) :
    Completes s (execSmbUndefined code s) := by
  unfold execSmbUndefined
  dsimp only
  repeat' first
    | apply completes_next | with_reducible exact .refl _ | with_reducible apply State.begin_onward
    | with_reducible apply State.when_onward | with_reducible apply State.say_onward | intro _

end Sys2Proof.Machine
end

