-- ==== Sys2Proof/Laws/OnwardReads.lean ====
section
/-!
SUPPORT. `State.Onward` over the operations of Machine/Reads.lean.
-/

namespace Sys2Proof.Machine

theorem State.fillShadow_onward {s₀ s : State} (h : s₀.Onward s) (req : Req) (addr : Nat) :
    s₀.Onward (State.fillShadow s req addr) := by
  unfold State.fillShadow
  repeat' first
    | with_reducible exact h | with_reducible exact .refl _ | with_reducible apply State.onHost_onward | intro _
    | with_reducible apply onward_mk

theorem State.takeShadow_onward {s₀ s : State} (h : s₀.Onward s) (req : Req) (addr : Nat) :
    s₀.Onward (State.takeShadow s req addr) := by
  unfold State.takeShadow
  repeat' first
    | with_reducible exact h | with_reducible exact .refl _ | with_reducible apply State.when_onward
    | with_reducible apply State.fillShadow_onward | intro _

theorem State.clearFrozen_onward {s₀ s : State} (h : s₀.Onward s) (r : Row) (ix : List Nat) :
    s₀.Onward (State.clearFrozen s r ix) := by
  unfold State.clearFrozen
  repeat' first
    | with_reducible exact h | with_reducible exact .refl _ | with_reducible apply State.onPmu_onward | intro _
    | split | with_reducible apply onward_mk

theorem State.clearRc_onward {s₀ s : State} (h : s₀.Onward s) (r : Row) (ix : List Nat) :
    s₀.Onward (State.clearRc s r ix) := by
  unfold State.clearRc
  repeat' first
    | with_reducible exact h | with_reducible exact .refl _ | with_reducible apply State.wr_onward
    | with_reducible apply State.clearFrozen_onward | split

theorem State.clearRcAt_onward {s₀ s : State} (h : s₀.Onward s) (addr : Nat) :
    s₀.Onward (State.clearRcAt s addr) := by
  unfold State.clearRcAt
  repeat' first
    | with_reducible exact h | with_reducible exact .refl _ | with_reducible apply State.when_onward
    | with_reducible apply State.clearRc_onward | with_reducible apply onward_foldl | intro _

theorem State.readWord_onward {s₀ s : State} (h : s₀.Onward s) (req : Req) (addr : Nat) :
    s₀.Onward (State.readWord s req addr).2 := by
  unfold State.readWord
  dsimp only
  repeat' first
    | with_reducible exact h | with_reducible exact .refl _ | with_reducible apply State.copyTag_onward
    | with_reducible apply State.copyRec_onward | with_reducible apply State.advanceCursor_onward
    | with_reducible apply State.popFwd_onward | with_reducible apply State.takeShadow_onward
    | with_reducible apply State.clearRcAt_onward | split

theorem State.unmapped_onward {s₀ s : State} (h : s₀.Onward s) :
    s₀.Onward (State.unmapped s) := by
  unfold State.unmapped
  repeat' first
    | with_reducible exact h | with_reducible exact .refl _ | with_reducible apply State.count_onward

theorem State.reachIsland_onward {s₀ s : State} (h : s₀.Onward s) (req : Req) (addr : Nat) :
    s₀.Onward (State.reachIsland s req addr) := by
  unfold State.reachIsland
  dsimp only
  repeat' first
    | with_reducible exact h | with_reducible exact .refl _ | with_reducible apply State.native_onward
    | with_reducible apply State.fresh_onward | with_reducible apply State.wakeIsland_onward | split

theorem State.regRead_onward {s₀ s : State} (h : s₀.Onward s) (req : Req) (addr : Nat) :
    s₀.Onward (State.regRead s req addr).2 := by
  unfold State.regRead
  repeat' first
    | with_reducible exact h | with_reducible exact .refl _ | with_reducible apply State.unmapped_onward
    | with_reducible apply State.reachIsland_onward | with_reducible apply State.readWord_onward | split

theorem State.readFor_onward {s₀ s : State} (h : s₀.Onward s) (req : Req) (addr : Nat) :
    s₀.Onward (State.readFor s req addr) := by
  unfold State.readFor
  dsimp only
  repeat' first
    | with_reducible exact h | with_reducible exact .refl _ | with_reducible apply State.regRead_onward
    | with_reducible apply State.say_onward | split

theorem execRcRead_onward (s : State) (req : Req) (addr : Nat) :
    Completes s (execRcRead req addr s) := by
  unfold execRcRead
  repeat' first
    | apply completes_next | with_reducible exact .refl _ | with_reducible apply State.readFor_onward
    | with_reducible apply State.begin_onward

theorem execLoHalfRead_onward (s : State) (req : Req) (addr : Nat) :
    Completes s (execLoHalfRead req addr s) := by
  unfold execLoHalfRead
  repeat' first
    | apply completes_next | with_reducible exact .refl _ | with_reducible apply State.readFor_onward
    | with_reducible apply State.begin_onward

theorem State.userViolation_onward {s₀ s : State} (h : s₀.Onward s) :
    s₀.Onward (State.userViolation s) := by
  unfold State.userViolation
  repeat' first
    | with_reducible exact h | with_reducible exact .refl _ | with_reducible apply State.when_onward
    | with_reducible apply State.count_onward | with_reducible apply State.evt_onward | intro _

theorem State.userRead_onward {s₀ s : State} (h : s₀.Onward s) (off : Nat) :
    s₀.Onward (State.userRead s off).2 := by
  unfold State.userRead
  repeat' first
    | with_reducible exact h | with_reducible exact .refl _ | with_reducible apply State.takeShadow_onward | split

theorem State.userAccess_onward {s₀ s : State} (h : s₀.Onward s) (off : Nat) (isWrite : Bool) :
    s₀.Onward (State.userAccess s off isWrite) := by
  unfold State.userAccess
  dsimp only
  repeat' first
    | with_reducible exact h | with_reducible exact .refl _ | with_reducible apply State.native_onward
    | with_reducible apply State.userViolation_onward | with_reducible apply State.say_onward
    | with_reducible apply State.userRead_onward | split

theorem execUserPageAccess_onward (s : State) (offset : Nat) (isWrite : Bool) :
    Completes s (execUserPageAccess offset isWrite s) := by
  unfold execUserPageAccess
  dsimp only
  repeat' first
    | apply completes_next | with_reducible exact .refl _ | with_reducible apply State.begin_onward
    | with_reducible apply State.when_onward | with_reducible apply State.userAccess_onward | intro _

end Sys2Proof.Machine
end

