-- ==== Sys2Proof/Laws/OnwardBlocks.lean ====
section
/-!
SUPPORT. `State.Onward` over the operations of Machine/Blocks.lean.
-/

namespace Sys2Proof.Machine

theorem State.applyReg_onward {s₀ s : State} (h : s₀.Onward s) (inst : Option Nat) (p : Nat × Nat) :
    s₀.Onward (State.applyReg s inst p) := by
  unfold State.applyReg
  repeat' first
    | with_reducible exact h | with_reducible exact .refl _ | with_reducible apply State.wr_onward
    | with_reducible apply onward_foldl | intro _

theorem State.channelSwitch_onward {s₀ s : State} (h : s₀.Onward s) (old : State) :
    s₀.Onward (State.channelSwitch s old) := by
  unfold State.channelSwitch
  dsimp only
  repeat' first
    | with_reducible exact h | with_reducible exact .refl _ | with_reducible apply State.upTo_onward
    | with_reducible apply State.when_onward | with_reducible apply State.unsettle_onward | intro _

theorem State.candCommit_onward {s₀ s : State} (h : s₀.Onward s) (old : State) (i : Nat) :
    s₀.Onward (State.candCommit s old i) := by
  unfold State.candCommit
  dsimp only
  repeat' first
    | with_reducible exact h | with_reducible exact .refl _ | with_reducible apply State.when_onward
    | with_reducible apply State.candMoved_onward | with_reducible apply State.showCand_onward
    | with_reducible apply State.showQl_onward | intro _

theorem State.schedCommit_onward {s₀ s : State} (h : s₀.Onward s) (q : Nat) (off : Nat) :
    s₀.Onward (State.schedCommit s q off) := by
  unfold State.schedCommit
  repeat' first
    | with_reducible exact h | with_reducible exact .refl _ | with_reducible apply State.tokensOnChange_onward
    | with_reducible apply State.when_onward | with_reducible apply State.reguard_onward | intro _ | split

theorem State.dropPfc_onward {s₀ s : State} (h : s₀.Onward s) (p : Nat) :
    s₀.Onward (State.dropPfc s p) := by
  unfold State.dropPfc
  dsimp only
  repeat' first
    | with_reducible exact h | with_reducible exact .refl _ | with_reducible apply State.wr_onward
    | with_reducible apply onward_mk

theorem State.portCommit_onward {s₀ s : State} (h : s₀.Onward s) (p : Nat) (off : Nat) :
    s₀.Onward (State.portCommit s p off) := by
  unfold State.portCommit
  repeat' first
    | with_reducible exact h | with_reducible exact .refl _ | with_reducible apply State.when_onward
    | with_reducible apply State.refillPolicer_onward | with_reducible apply State.dropPfc_onward | intro _ | split

theorem State.groupCommit_onward {s₀ s : State} (h : s₀.Onward s) (g : Nat) :
    s₀.Onward (State.groupCommit s g) := by
  unfold State.groupCommit
  repeat' first
    | with_reducible exact h | with_reducible exact .refl _ | with_reducible apply State.when_onward
    | with_reducible apply State.condChange_onward | with_reducible apply State.reselect_onward | intro _

theorem State.applied_onward {s₀ s : State} (h : s₀.Onward s) (old : State) (addr : Nat) :
    s₀.Onward (State.applied s old addr) := by
  unfold State.applied
  dsimp only
  repeat' first
    | with_reducible exact h | with_reducible exact .refl _ | with_reducible apply State.candCommit_onward
    | with_reducible apply State.checkCands_onward | with_reducible apply State.showQl_onward
    | with_reducible apply State.when_onward | with_reducible apply State.groupCommit_onward
    | with_reducible apply State.watch_onward | with_reducible apply State.schedCommit_onward
    | with_reducible apply State.portCommit_onward | with_reducible apply State.resetCtx_onward
    | with_reducible apply State.noteSsf_onward | with_reducible apply State.showFails_onward
    | with_reducible apply State.bgChange_onward | intro _ | split

theorem State.seqUp_onward {s₀ s : State} (h : s₀.Onward s) (n : Nat) :
    s₀.Onward (State.seqUp s n) := by
  unfold State.seqUp
  repeat' first
    | with_reducible exact h | with_reducible exact .refl _ | with_reducible apply State.when_onward
    | with_reducible apply State.wr_onward | intro _

theorem State.commitPart_onward {s₀ s : State} (h : s₀.Onward s) (n : Nat) (inst : Option Nat) (due : Tab Nat) :
    s₀.Onward (State.commitPart s n inst due) := by
  unfold State.commitPart
  dsimp only
  repeat' first
    | with_reducible exact h | with_reducible exact .refl _ | with_reducible apply State.applyReg_onward
    | with_reducible apply State.applied_onward | with_reducible apply State.seqUp_onward
    | with_reducible apply State.when_onward | with_reducible apply State.channelSwitch_onward
    | with_reducible refine onward_pend ?_ (fun w => tabSorted_filter _ w) | with_reducible apply onward_foldl
    | intro _ | with_reducible apply onward_mk

theorem State.applyPending_onward {s₀ s : State} (h : s₀.Onward s) (n : Nat) (inst : Option Nat) :
    s₀.Onward (State.applyPending s n inst) := by
  unfold State.applyPending
  dsimp only
  repeat' first
    | with_reducible exact h | with_reducible exact .refl _ | with_reducible apply State.evt_onward
    | with_reducible apply State.commitPart_onward | refine onward_pend ?_ (fun w => tabSorted_filter _ w) | split
    | with_reducible apply onward_mk

theorem execPendingSetApply_onward (s : State) (region : Nat) (inst : Option Nat) :
    Completes s (execPendingSetApply region inst s) := by
  unfold execPendingSetApply
  dsimp only
  repeat' first
    | apply completes_next | with_reducible exact .refl _ | with_reducible apply State.begin_onward
    | with_reducible apply State.when_onward | with_reducible apply State.applyPending_onward | intro _

theorem State.commit_onward {s₀ s : State} (h : s₀.Onward s) (n : Nat) : s₀.Onward (State.commit s n) := by
  unfold State.commit
  refine State.when_onward ?_ (fun t => State.applyPending_onward (.refl t) n none) _
  refine State.when_onward ?_ (fun t => State.onSup_onward (.refl t) _) _
  exact onward_of h rfl rfl (Nat.le_refl _) (Nat.le_refl _) (fun w =>
    ⟨w.1, tabSorted_filter _ w.2.1, tabInsert_all_sorted _ w.2.2.1, w.2.2.2⟩)


theorem execApply_onward (s : State) (req : Req) (region : Nat) :
    Completes s (execApply req region s) := by
  unfold execApply
  repeat' first
    | apply completes_next | with_reducible exact .refl _ | with_reducible apply State.via_onward
    | with_reducible apply State.commit_onward | with_reducible apply State.begin_onward | intro _

theorem State.discardSet_onward {s₀ s : State} (h : s₀.Onward s) (n : Nat) : s₀.Onward (State.discardSet s n) :=
  onward_staged h (fun w => tabSorted_filter _ w)


theorem State.commitWrite_onward {s₀ s : State} (h : s₀.Onward s) (n : Nat) (apply : Bool) (discard : Bool) :
    s₀.Onward (State.commitWrite s n apply discard) := by
  unfold State.commitWrite
  repeat' first
    | with_reducible exact h | with_reducible exact .refl _ | with_reducible apply State.commit_onward
    | with_reducible apply State.when_onward | with_reducible apply State.discardSet_onward | intro _ | split

theorem execDiscard_onward (s : State) (req : Req) (region : Nat) (alsoApply : Bool) :
    Completes s (execDiscard req region alsoApply s) := by
  unfold execDiscard
  repeat' first
    | apply completes_next | with_reducible exact .refl _ | with_reducible apply State.via_onward
    | with_reducible apply State.commitWrite_onward | with_reducible apply State.begin_onward | intro _

theorem State.reject_onward {s₀ s : State} (h : s₀.Onward s) (addr : Nat) :
    s₀.Onward (State.reject s addr) := by
  unfold State.reject
  dsimp only
  repeat' first
    | with_reducible exact h | with_reducible exact .refl _ | with_reducible apply State.count_onward
    | with_reducible apply State.wrb_onward | with_reducible apply State.wr_onward
    | with_reducible apply State.emit_onward | split

theorem State.clearReject_onward {s₀ s : State} (h : s₀.Onward s) :
    s₀.Onward (State.clearReject s) := by
  unfold State.clearReject
  repeat' first
    | with_reducible exact h | with_reducible exact .refl _ | with_reducible apply State.wrb_onward
    | with_reducible apply State.wr_onward

theorem execWrRejectClear_onward (s : State) (req : Req) :
    Completes s (execWrRejectClear req s) := by
  unfold execWrRejectClear
  repeat' first
    | apply completes_next | with_reducible exact .refl _ | with_reducible apply State.via_onward
    | with_reducible apply State.clearReject_onward | with_reducible apply State.begin_onward | intro _

theorem State.groupsSee_onward {s₀ s : State} (h : s₀.Onward s) :
    s₀.Onward (State.groupsSee s) := by
  unfold State.groupsSee
  repeat' first
    | with_reducible exact h | with_reducible exact .refl _ | with_reducible apply State.upTo_onward
    | with_reducible apply State.when_onward | with_reducible apply State.condChange_onward | intro _

theorem State.stopBlock_onward {s₀ s : State} (h : s₀.Onward s) (n : Nat) :
    s₀.Onward (State.stopBlock s n) := by
  unfold State.stopBlock
  dsimp only
  repeat' first
    | with_reducible exact h | with_reducible exact .refl _ | with_reducible apply State.wrb_onward
    | with_reducible apply State.when_onward | with_reducible apply State.optEval_onward | intro _ | split

theorem execBlockStop_onward (s : State) (req : Req) (n : Fin 8) :
    Completes s (execBlockStop req n s) := by
  unfold execBlockStop
  repeat' first
    | apply completes_next | with_reducible exact .refl _ | with_reducible apply State.via_onward
    | with_reducible apply State.stopBlock_onward | with_reducible apply State.begin_onward | intro _

theorem State.restartBlock_onward {s₀ s : State} (h : s₀.Onward s) (n : Nat) :
    s₀.Onward (State.restartBlock s n) := by
  unfold State.restartBlock
  repeat' first
    | with_reducible exact h | with_reducible exact .refl _ | with_reducible apply State.resetContexts_onward
    | with_reducible apply State.upTo_onward | with_reducible apply State.groupCommit_onward
    | with_reducible apply State.when_onward | with_reducible apply State.groupsSee_onward | intro _ | split

theorem State.runBlock_onward {s₀ s : State} (h : s₀.Onward s) (n : Nat) :
    s₀.Onward (State.runBlock s n) := by
  unfold State.runBlock
  dsimp only
  repeat' first
    | with_reducible exact h | with_reducible exact .refl _ | with_reducible apply State.wrb_onward
    | with_reducible apply State.when_onward | with_reducible apply State.optEval_onward
    | with_reducible apply State.restartBlock_onward | intro _

theorem execBlockRun_onward (s : State) (req : Req) (n : Fin 8) :
    Completes s (execBlockRun req n s) := by
  unfold execBlockRun
  repeat' first
    | apply completes_next | with_reducible exact .refl _ | with_reducible apply State.via_onward
    | with_reducible apply State.runBlock_onward | with_reducible apply State.begin_onward | intro _

theorem State.haltBlock_onward {s₀ s : State} (h : s₀.Onward s) (n : Nat) :
    s₀.Onward (State.haltBlock s n) := by
  unfold State.haltBlock
  repeat' first
    | with_reducible exact h | with_reducible exact .refl _ | with_reducible apply State.sp2Off_onward
    | with_reducible apply State.toWait_onward | with_reducible apply State.icmAbort_onward
    | with_reducible apply State.groupsSee_onward | with_reducible apply State.when_onward
    | with_reducible apply State.icmSearch_onward | intro _ | split

theorem State.releaseBlock_onward {s₀ s : State} (h : s₀.Onward s) (n : Nat) :
    s₀.Onward (State.releaseBlock s n) := by
  unfold State.releaseBlock
  repeat' first
    | with_reducible exact h | with_reducible exact .refl _ | with_reducible apply State.releaseUse_onward
    | with_reducible apply onward_foldl | intro _

theorem State.stopDone_onward {s₀ s : State} (h : s₀.Onward s) (n : Nat) :
    s₀.Onward (State.stopDone s n) := by
  unfold State.stopDone
  dsimp only
  repeat' first
    | with_reducible exact h | with_reducible exact .refl _ | with_reducible apply State.applyPending_onward
    | with_reducible apply State.releaseBlock_onward | with_reducible apply State.wrb_onward
    | with_reducible apply State.haltBlock_onward | with_reducible apply onward_foldl | intro _

theorem execBlockStopComplete_onward (s : State) (n : Fin 8) :
    Completes s (execBlockStopComplete n s) := by
  unfold execBlockStopComplete
  dsimp only
  repeat' first
    | apply completes_next | with_reducible exact .refl _ | with_reducible apply State.begin_onward
    | with_reducible apply State.when_onward | with_reducible apply State.stopDone_onward | intro _

end Sys2Proof.Machine
end

