-- ==== Sys2Proof/Laws/OnwardWrites.lean ====
section
/-!
SUPPORT. `State.Onward` over the operations of Machine/Writes.lean.
-/

namespace Sys2Proof.Machine

theorem State.writeLive_onward {s₀ s : State} (h : s₀.Onward s) (r : Row) (ix : List Nat) (v : Nat) :
    s₀.Onward (State.writeLive s r ix v) := by
  unfold State.writeLive
  repeat' first
    | with_reducible exact h | with_reducible exact .refl _ | with_reducible apply State.releaseOne_onward
    | with_reducible apply State.wr_onward | with_reducible apply State.when_onward
    | with_reducible apply State.keepUse_onward | intro _ | split

theorem State.writeField_onward {s₀ s : State} (h : s₀.Onward s) (writable : Bool) (word : Nat) (e : Row × List Nat) :
    s₀.Onward (State.writeField s writable word e) := by
  unfold State.writeField
  dsimp only
  repeat' first
    | with_reducible exact h | with_reducible exact .refl _ | with_reducible apply State.writeLive_onward
    | with_reducible apply State.when_onward | with_reducible apply State.wr_onward | intro _ | split

theorem State.stageWrite_onward {s₀ s : State} (h : s₀.Onward s) (addr : Nat) (word : Nat) (fs : List (Row × List Nat)) :
    s₀.Onward (State.stageWrite s addr word fs) := by
  unfold State.stageWrite
  dsimp only
  repeat' first
    | with_reducible exact h | with_reducible exact .refl _
    | with_reducible refine onward_staged ?_ (fun w => tabSorted_insert_erase _ _ w) | intro _ | split
    | with_reducible apply onward_mk

theorem State.hierWrite_onward {s₀ s : State} (h : s₀.Onward s) :
    s₀.Onward (State.hierWrite s) := by
  unfold State.hierWrite
  repeat' first
    | with_reducible exact h | with_reducible exact .refl _ | with_reducible apply State.when_onward
    | with_reducible apply State.hierGo_onward | intro _

theorem State.stateCtl_onward {s₀ s : State} (h : s₀.Onward s) (word : Nat) :
    s₀.Onward (State.stateCtl s word) := by
  unfold State.stateCtl
  dsimp only
  repeat' first
    | with_reducible exact h | with_reducible exact .refl _ | with_reducible apply State.wr_onward
    | with_reducible apply State.targetWrite_onward | with_reducible apply State.wingWrite_onward

theorem State.pwrAct_onward {s₀ s : State} (h : s₀.Onward s) (off : Nat) (word : Nat) :
    s₀.Onward (State.pwrAct s off word) := by
  unfold State.pwrAct
  repeat' first
    | with_reducible exact h | with_reducible exact .refl _ | with_reducible apply State.stateCtl_onward
    | with_reducible apply State.when_onward | with_reducible apply State.hierWrite_onward | intro _ | split

theorem State.refAct_onward {s₀ s : State} (h : s₀.Onward s) (off : Nat) (word : Nat) :
    s₀.Onward (State.refAct s off word) := by
  unfold State.refAct
  repeat' first
    | with_reducible exact h | with_reducible exact .refl _ | with_reducible apply State.when_onward
    | with_reducible apply State.relearn_onward | with_reducible apply State.onDpll_onward | intro _ | split
    | with_reducible apply onward_mk

theorem State.pmuCtl_onward {s₀ s : State} (h : s₀.Onward s) (word : Nat) :
    s₀.Onward (State.pmuCtl s word) := by
  unfold State.pmuCtl
  dsimp only
  repeat' first
    | with_reducible exact h | with_reducible exact .refl _ | with_reducible apply State.when_onward
    | with_reducible apply State.askClear_onward | with_reducible apply State.onPmu_onward | intro _ | split
    | with_reducible apply onward_mk

theorem State.showBadSource_onward {s₀ s : State} (h : s₀.Onward s) (n : Nat) :
    s₀.Onward (State.showBadSource s n) := by
  unfold State.showBadSource
  repeat' first
    | with_reducible exact h | with_reducible exact .refl _ | with_reducible apply State.wrb_onward

theorem State.pmuAct_onward {s₀ s : State} (h : s₀.Onward s) (off : Nat) (word : Nat) :
    s₀.Onward (State.pmuAct s off word) := by
  unfold State.pmuAct
  repeat' first
    | with_reducible exact h | with_reducible exact .refl _ | with_reducible apply State.pmuCtl_onward
    | with_reducible apply State.showBadSource_onward | with_reducible apply State.when_onward
    | with_reducible apply State.popTag_onward | with_reducible apply State.askHistClear_onward | intro _ | split

theorem State.keyCtl_onward {s₀ s : State} (h : s₀.Onward s) (word : Nat) :
    s₀.Onward (State.keyCtl s word) := by
  unfold State.keyCtl
  dsimp only
  repeat' first
    | with_reducible exact h | with_reducible exact .refl _ | with_reducible apply State.keyLoad_onward
    | with_reducible apply State.keyErase_onward | with_reducible apply State.fresh_onward
    | with_reducible apply State.loadKek_onward | with_reducible apply State.attest_onward
    | with_reducible apply State.report_onward | split

theorem State.imgWrite_onward {s₀ s : State} (h : s₀.Onward s) (op : Nat) :
    s₀.Onward (State.imgWrite s op) := by
  unfold State.imgWrite
  dsimp only
  repeat' first
    | with_reducible exact h | with_reducible exact .refl _ | with_reducible apply State.fresh_onward
    | with_reducible apply State.imgCtl_onward | split

theorem State.secAct_onward {s₀ s : State} (h : s₀.Onward s) (off : Nat) (word : Nat) :
    s₀.Onward (State.secAct s off word) := by
  unfold State.secAct
  repeat' first
    | with_reducible exact h | with_reducible exact .refl _ | with_reducible apply State.imgWrite_onward
    | with_reducible apply State.keyCtl_onward | split

theorem State.pgWrite_onward {s₀ s : State} (h : s₀.Onward s) (g : Nat) (cmd : Nat) :
    s₀.Onward (State.pgWrite s g cmd) := by
  unfold State.pgWrite
  repeat' first
    | with_reducible exact h | with_reducible exact .refl _ | with_reducible apply State.wr_onward
    | with_reducible apply State.wrb_onward | with_reducible apply State.reselect_onward
    | with_reducible apply State.pgCommand_onward | split

theorem State.halAct_onward {s₀ s : State} (h : s₀.Onward s) (off : Nat) (word : Nat) :
    s₀.Onward (State.halAct s off word) := by
  unfold State.halAct
  repeat' first
    | with_reducible exact h | with_reducible exact .refl _ | with_reducible apply State.when_onward
    | with_reducible apply State.pgWrite_onward | intro _

theorem State.baseWrite_onward {s₀ s : State} (h : s₀.Onward s) (ch : Nat) (word : Nat) (high : Bool) :
    s₀.Onward (State.baseWrite s ch word high) := by
  unfold State.baseWrite
  dsimp only
  repeat' first
    | with_reducible exact h | with_reducible exact .refl _ | with_reducible apply State.gateTiming_onward | split

theorem State.schAct_onward {s₀ s : State} (h : s₀.Onward s) (off : Nat) (word : Nat) :
    s₀.Onward (State.schAct s off word) := by
  unfold State.schAct
  dsimp only
  repeat' first
    | with_reducible exact h | with_reducible exact .refl _ | with_reducible apply State.storeEntry_onward
    | with_reducible apply State.when_onward | with_reducible apply State.activateGates_onward
    | with_reducible apply State.gateTiming_onward | with_reducible apply State.baseWrite_onward | intro _ | split

theorem State.portEnable_onward {s₀ s : State} (h : s₀.Onward s) (p : Nat) :
    s₀.Onward (State.portEnable s p) := by
  unfold State.portEnable
  repeat' first
    | with_reducible exact h | with_reducible exact .refl _ | with_reducible apply State.enableInst_onward
    | with_reducible apply State.flushInst_onward | split

theorem State.cliAct_onward {s₀ s : State} (h : s₀.Onward s) (old : State) (off : Nat) :
    s₀.Onward (State.cliAct s old off) := by
  unfold State.cliAct
  dsimp only
  repeat' first
    | with_reducible exact h | with_reducible exact .refl _ | with_reducible apply State.when_onward
    | with_reducible apply State.portEnable_onward | with_reducible apply State.refreshLink_onward | intro _

theorem State.laneAct_onward {s₀ s : State} (h : s₀.Onward s) (cor : Bool) (off : Nat) (word : Nat) :
    s₀.Onward (State.laneAct s cor off word) := by
  unfold State.laneAct
  repeat' first
    | with_reducible exact h | with_reducible exact .refl _ | with_reducible apply State.when_onward
    | with_reducible apply State.applyLane_onward | with_reducible apply State.restartLane_onward | intro _

theorem State.corAct_onward {s₀ s : State} (h : s₀.Onward s) (off : Nat) (word : Nat) :
    s₀.Onward (State.corAct s off word) := by
  unfold State.corAct
  repeat' first
    | with_reducible exact h | with_reducible exact .refl _ | with_reducible apply State.when_onward
    | with_reducible apply State.beginEnum_onward | with_reducible apply State.laneAct_onward | intro _ | split

theorem State.supAct_onward {s₀ s : State} (h : s₀.Onward s) (off : Nat) (word : Nat) :
    s₀.Onward (State.supAct s off word) := by
  unfold State.supAct
  repeat' first
    | with_reducible exact h | with_reducible exact .refl _ | with_reducible apply State.when_onward
    | with_reducible apply State.trigger_onward | with_reducible apply State.decReset_onward
    | with_reducible apply State.startCal_onward | intro _ | split

theorem State.icmAct_onward {s₀ s : State} (h : s₀.Onward s) (off : Nat) (word : Nat) :
    s₀.Onward (State.icmAct s off word) := by
  unfold State.icmAct
  dsimp only
  repeat' first
    | with_reducible exact h | with_reducible exact .refl _ | with_reducible apply State.when_onward
    | with_reducible apply State.sendUser_onward | with_reducible apply State.popUser_onward | intro _ | split

theorem State.redoAnn_onward {s₀ s : State} (h : s₀.Onward s) (w : Wing) :
    s₀.Onward (State.redoAnn s w) := by
  unfold State.redoAnn
  dsimp only
  repeat' first
    | with_reducible exact h | with_reducible exact .refl _ | with_reducible apply State.wr_onward
    | with_reducible apply State.showCounts_onward | with_reducible apply State.onTx_onward
    | with_reducible apply State.when_onward | with_reducible apply State.evt_onward | intro _ | split
    | with_reducible apply onward_mk

theorem State.txRate_onward {s₀ s : State} (h : s₀.Onward s) (w : Wing) :
    s₀.Onward (State.txRate s w) := by
  unfold State.txRate
  dsimp only
  repeat' first
    | with_reducible exact h | with_reducible exact .refl _ | with_reducible apply State.unlockDac_onward
    | with_reducible apply State.startDac_onward | with_reducible apply State.switchTx_onward
    | with_reducible apply State.when_onward | with_reducible apply State.evt_onward
    | with_reducible apply State.redoAnn_onward | with_reducible apply State.icmRefresh_onward | intro _

theorem State.rxRate_onward {s₀ s : State} (h : s₀.Onward s) (w : Wing) :
    s₀.Onward (State.rxRate s w) := by
  unfold State.rxRate
  repeat' first
    | with_reducible exact h | with_reducible exact .refl _ | with_reducible apply State.unlockAdc_onward
    | with_reducible apply State.showReach_onward | with_reducible apply State.showBaudDiff_onward
    | with_reducible apply State.icmRefresh_onward

theorem State.optAct_onward {s₀ s : State} (h : s₀.Onward s) (w : Wing) (off : Nat) (word : Nat) :
    s₀.Onward (State.optAct s w off word) := by
  unfold State.optAct
  repeat' first
    | with_reducible exact h | with_reducible exact .refl _ | with_reducible apply State.txFreq_onward
    | with_reducible apply State.loFreq_onward | with_reducible apply State.txCtl_onward | split

theorem State.rxwAct_onward {s₀ s : State} (h : s₀.Onward s) (old : State) (w : Wing) (off : Nat) (word : Nat) :
    s₀.Onward (State.rxwAct s old w off word) := by
  unfold State.rxwAct
  repeat' first
    | with_reducible exact h | with_reducible exact .refl _ | with_reducible apply State.when_onward
    | with_reducible apply State.reacquire_onward | with_reducible apply State.rxRate_onward
    | with_reducible apply State.sp2Mode_onward | intro _ | split

theorem State.cnvAct_onward {s₀ s : State} (h : s₀.Onward s) (w : Wing) (off : Nat) (word : Nat) :
    s₀.Onward (State.cnvAct s w off word) := by
  unfold State.cnvAct
  repeat' first
    | with_reducible exact h | with_reducible exact .refl _ | with_reducible apply State.when_onward
    | with_reducible apply State.restartWrite_onward | with_reducible apply State.parkRow_onward
    | with_reducible apply State.dacWrite_onward | intro _ | split

theorem State.elcCtl_onward {s₀ s : State} (h : s₀.Onward s) (w : Wing) (word : Nat) :
    s₀.Onward (State.elcCtl s w word) := by
  unfold State.elcCtl
  repeat' first
    | with_reducible exact h | with_reducible exact .refl _ | with_reducible apply State.when_onward
    | with_reducible apply State.go_onward | with_reducible apply State.resumeHeld_onward
    | with_reducible apply State.forceFloor_onward | intro _

theorem State.wingAct_onward {s₀ s : State} (h : s₀.Onward s) (old : State) (w : Wing) (n : Nat) (off : Nat) (word : Nat) :
    s₀.Onward (State.wingAct s old w n off word) := by
  unfold State.wingAct
  repeat' first
    | with_reducible exact h | with_reducible exact .refl _ | with_reducible apply State.when_onward
    | with_reducible apply State.txRate_onward | with_reducible apply State.rxwAct_onward
    | with_reducible apply State.cnvAct_onward | with_reducible apply State.elcCtl_onward
    | with_reducible apply State.optAct_onward | intro _ | split

theorem State.rasAct_onward {s₀ s : State} (h : s₀.Onward s) (off : Nat) (word : Nat) :
    s₀.Onward (State.rasAct s off word) := by
  unfold State.rasAct
  repeat' first
    | with_reducible exact h | with_reducible exact .refl _ | with_reducible apply State.when_onward
    | with_reducible apply State.clearFault_onward | with_reducible apply State.recover_onward
    | with_reducible apply State.armInjection_onward | intro _ | split

theorem State.glbAct_onward {s₀ s : State} (h : s₀.Onward s) (off : Nat) (word : Nat) :
    s₀.Onward (State.glbAct s off word) := by
  unfold State.glbAct
  dsimp only
  repeat' first
    | with_reducible exact h | with_reducible exact .refl _ | with_reducible apply State.when_onward
    | with_reducible apply State.clearReject_onward | with_reducible apply State.stopBlock_onward
    | with_reducible apply State.runBlock_onward | intro _ | split

theorem State.act_onward {s₀ s : State} (h : s₀.Onward s) (old : State) (req : Req) (addr : Nat) (word : Nat) :
    s₀.Onward (State.act s old req addr word) := by
  unfold State.act
  dsimp only
  repeat' first
    | with_reducible exact h | with_reducible exact .refl _ | with_reducible apply State.commitWrite_onward
    | with_reducible apply State.glbAct_onward | with_reducible apply State.pwrAct_onward
    | with_reducible apply State.refAct_onward | with_reducible apply State.when_onward
    | with_reducible apply State.clearStep_onward | with_reducible apply State.pmuAct_onward
    | with_reducible apply State.secAct_onward | with_reducible apply State.roll_onward
    | with_reducible apply State.halAct_onward | with_reducible apply State.schAct_onward
    | with_reducible apply State.cliAct_onward | with_reducible apply State.laneAct_onward
    | with_reducible apply State.corAct_onward | with_reducible apply State.supAct_onward
    | with_reducible apply State.icmAct_onward | with_reducible apply State.rasAct_onward
    | with_reducible apply State.wingAct_onward | intro _ | split

theorem State.msixWrite_onward {s₀ s : State} (h : s₀.Onward s) (addr : Nat) (word : Nat) :
    s₀.Onward (State.msixWrite s addr word) := by
  unfold State.msixWrite
  dsimp only
  repeat' first
    | with_reducible exact h | with_reducible exact .refl _ | with_reducible apply State.msixControl_onward
    | with_reducible apply State.onHost_onward | intro _ | split | with_reducible apply onward_mk

theorem State.writeWord_onward {s₀ s : State} (h : s₀.Onward s) (req : Req) (addr : Nat) (word : Nat) :
    s₀.Onward (State.writeWord s req addr word) := by
  unfold State.writeWord
  dsimp only
  repeat' first
    | with_reducible exact h | with_reducible exact .refl _ | with_reducible apply State.writeField_onward
    | with_reducible apply State.stageWrite_onward | with_reducible apply State.when_onward
    | with_reducible apply State.reject_onward | with_reducible apply State.act_onward
    | with_reducible apply onward_foldl | intro _ | split

theorem State.regWrite_onward {s₀ s : State} (h : s₀.Onward s) (req : Req) (addr : Nat) (word : Nat) :
    s₀.Onward (State.regWrite s req addr word) := by
  unfold State.regWrite
  dsimp only
  repeat' first
    | with_reducible exact h | with_reducible exact .refl _ | with_reducible apply State.unmapped_onward
    | with_reducible apply State.reachIsland_onward | with_reducible apply State.msixWrite_onward
    | with_reducible apply State.writeWord_onward | split

theorem execRegisterWrite_onward (s : State) (req : Req) (addr : Nat) (word : Nat) :
    Completes s (execRegisterWrite req addr word s) := by
  unfold execRegisterWrite
  dsimp only
  repeat' first
    | apply completes_next | with_reducible exact .refl _ | with_reducible apply State.begin_onward
    | with_reducible apply State.when_onward | with_reducible apply State.regWrite_onward | intro _

theorem execUnmappedAccess_onward (s : State) (req : Req) (addr : Nat) (isWrite : Bool) :
    Completes s (execUnmappedAccess req addr isWrite s) := by
  unfold execUnmappedAccess
  dsimp only
  repeat' first
    | apply completes_next | with_reducible exact .refl _ | with_reducible apply State.begin_onward
    | with_reducible apply State.unmapped_onward | with_reducible apply State.say_onward | split

end Sys2Proof.Machine
end

