-- ==== Sys2Proof/Laws/OnwardAccess.lean ====
section
/-!
SUPPORT. `State.Onward` over the operations of Machine/Access.lean.
-/

namespace Sys2Proof.Machine

theorem State.sendStall_onward {s₀ s : State} (h : s₀.Onward s) (id : Nat) (addr : Nat) (port : Nat) :
    s₀.Onward (State.sendStall s id addr port) := by
  unfold State.sendStall
  repeat' first
    | with_reducible exact h | with_reducible exact .refl _ | with_reducible apply State.when_onward
    | with_reducible apply State.sayCell_onward | intro _

theorem State.corRead_onward {s₀ s : State} (h : s₀.Onward s) (id : Nat) (addr : Nat) (port : Nat) :
    s₀.Onward (State.corRead s id addr port) := by
  unfold State.corRead
  dsimp only
  repeat' first
    | with_reducible exact h | with_reducible exact .refl _ | with_reducible apply State.sendStall_onward
    | with_reducible apply State.regRead_onward | with_reducible apply State.sayCell_onward

theorem execCorReadRx_onward (s : State) (id : Nat) (addr : Nat) (port : Fin 4) :
    Completes s (execCorReadRx id addr port s) := by
  unfold execCorReadRx
  dsimp only
  repeat' first
    | apply completes_next | with_reducible exact .refl _ | with_reducible apply State.begin_onward
    | with_reducible apply State.when_onward | with_reducible apply State.corRead_onward | intro _

theorem State.corWrite_onward {s₀ s : State} (h : s₀.Onward s) (id : Nat) (addr : Nat) (word : Nat) (port : Nat) :
    s₀.Onward (State.corWrite s id addr word port) := by
  unfold State.corWrite
  repeat' first
    | with_reducible exact h | with_reducible exact .refl _ | with_reducible apply State.sendStall_onward
    | with_reducible apply State.regWrite_onward | with_reducible apply State.sayCell_onward

theorem execCorWriteRx_onward (s : State) (id : Nat) (addr : Nat) (word : Nat) (port : Fin 4) :
    Completes s (execCorWriteRx id addr word port s) := by
  unfold execCorWriteRx
  dsimp only
  repeat' first
    | apply completes_next | with_reducible exact .refl _ | with_reducible apply State.begin_onward
    | with_reducible apply State.when_onward | with_reducible apply State.corWrite_onward | intro _

end Sys2Proof.Machine
end

