-- ==== Sys2Proof/Laws/OnwardMonitor.lean ====
section
/-!
SUPPORT. `State.Onward` over the operations of Machine/Monitor.lean.
-/

namespace Sys2Proof.Machine

theorem State.print_onward {s₀ s : State} (h : s₀.Onward s) (ws : List Nat) :
    s₀.Onward (State.print s ws) := by
  unfold State.print
  repeat' first
    | with_reducible exact h | with_reducible exact .refl _ | with_reducible apply State.say_onward

theorem State.printErr_onward {s₀ s : State} (h : s₀.Onward s) :
    s₀.Onward (State.printErr s) := by
  unfold State.printErr
  dsimp only
  repeat' first
    | with_reducible exact h | with_reducible exact .refl _ | with_reducible apply State.fresh_onward
    | with_reducible apply State.say_onward

theorem State.monitored_onward {s₀ s : State} (h : s₀.Onward s) (f : State → State) (hf : ∀ t : State, t.Onward (f t)) :
    s₀.Onward (State.monitored s f) := by
  unfold State.monitored
  repeat' first
    | with_reducible exact h | with_reducible exact .refl _ | with_reducible apply State.when_onward
    | with_reducible refine State.Onward.trans ?_ (hf _) | intro _

theorem State.peek_onward {s₀ s : State} (h : s₀.Onward s) (addr : Nat) (a0 : Nat) :
    s₀.Onward (State.peek s addr a0).2 := by
  induction a0 generalizing s addr with
  | zero =>
    rw [State.peek]
    try dsimp only
    repeat' first
      | with_reducible exact h | with_reducible exact .refl _ | with_reducible apply State.regRead_onward | split
  | succ n ih =>
    rw [State.peek]
    try dsimp only
    repeat' first
      | with_reducible apply ih
      | with_reducible exact h | with_reducible exact .refl _ | with_reducible apply State.regRead_onward | split

theorem State.monPeek_onward {s₀ s : State} (h : s₀.Onward s) (addr : Nat) (n : Nat) :
    s₀.Onward (State.monPeek s addr n) := by
  unfold State.monPeek
  dsimp only
  repeat' first
    | with_reducible exact h | with_reducible exact .refl _ | with_reducible apply State.printErr_onward
    | with_reducible apply State.peek_onward | with_reducible apply State.print_onward | split

theorem execMonPeek_onward (s : State) (addr : Nat) (n : Nat) :
    Completes s (execMonPeek addr n s) := by
  unfold execMonPeek
  repeat' first
    | apply completes_next | with_reducible exact .refl _ | with_reducible apply State.monitored_onward
    | with_reducible apply State.monPeek_onward | with_reducible apply State.begin_onward | intro _

theorem execMonPoke_onward (s : State) (addr : Nat) (word : Nat) :
    Completes s (execMonPoke addr word s) := by
  unfold execMonPoke
  repeat' first
    | apply completes_next | with_reducible exact .refl _ | with_reducible apply State.monitored_onward
    | with_reducible apply State.regWrite_onward | with_reducible apply State.print_onward
    | with_reducible apply State.begin_onward | intro _

theorem State.monAttic_onward {s₀ s : State} (h : s₀.Onward s) (index : Nat) (n : Nat) :
    s₀.Onward (State.monAttic s index n) := by
  unfold State.monAttic
  repeat' first
    | with_reducible exact h | with_reducible exact .refl _ | with_reducible apply State.printErr_onward
    | with_reducible apply State.print_onward | split

theorem execMonAttic_onward (s : State) (index : Nat) (n : Nat) :
    Completes s (execMonAttic index n s) := by
  unfold execMonAttic
  repeat' first
    | apply completes_next | with_reducible exact .refl _ | with_reducible apply State.monitored_onward
    | with_reducible apply State.monAttic_onward | with_reducible apply State.begin_onward | intro _

theorem execMonState_onward (s : State) :
    Completes s (execMonState s) := by
  unfold execMonState
  repeat' first
    | apply completes_next | with_reducible exact .refl _ | with_reducible apply State.monitored_onward
    | with_reducible apply State.print_onward | with_reducible apply State.begin_onward | intro _

theorem execMonIslands_onward (s : State) :
    Completes s (execMonIslands s) := by
  unfold execMonIslands
  repeat' first
    | apply completes_next | with_reducible exact .refl _ | with_reducible apply State.monitored_onward
    | with_reducible apply State.print_onward | with_reducible apply State.begin_onward | intro _

theorem execMonFp_onward (s : State) :
    Completes s (execMonFp s) := by
  unfold execMonFp
  repeat' first
    | apply completes_next | with_reducible exact .refl _ | with_reducible apply State.monitored_onward
    | with_reducible apply State.print_onward | with_reducible apply State.begin_onward | intro _

theorem execMonLanes_onward (s : State) (client : Option Bool) :
    Completes s (execMonLanes client s) := by
  unfold execMonLanes
  repeat' first
    | apply completes_next | with_reducible exact .refl _ | with_reducible apply State.monitored_onward
    | with_reducible apply State.print_onward | with_reducible apply State.begin_onward | intro _ | split

theorem execMonWing_onward (s : State) (w : Wing) :
    Completes s (execMonWing w s) := by
  unfold execMonWing
  dsimp only
  repeat' first
    | apply completes_next | with_reducible exact .refl _ | with_reducible apply State.monitored_onward
    | with_reducible apply State.print_onward | with_reducible apply State.begin_onward | intro _

theorem execMonRef_onward (s : State) :
    Completes s (execMonRef s) := by
  unfold execMonRef
  repeat' first
    | apply completes_next | with_reducible exact .refl _ | with_reducible apply State.monitored_onward
    | with_reducible apply State.print_onward | with_reducible apply State.begin_onward | intro _

theorem execMonHelp_onward (s : State) :
    Completes s (execMonHelp s) := by
  unfold execMonHelp
  repeat' first
    | apply completes_next | with_reducible exact .refl _ | with_reducible apply State.monitored_onward
    | with_reducible apply State.say_onward | with_reducible apply State.begin_onward | intro _

theorem execMonUnknown_onward (s : State) :
    Completes s (execMonUnknown s) := by
  unfold execMonUnknown
  repeat' first
    | apply completes_next | with_reducible exact .refl _ | with_reducible apply State.monitored_onward
    | with_reducible apply State.printErr_onward | with_reducible apply State.begin_onward | intro _

end Sys2Proof.Machine
end

