-- ==== Sys2Proof/Laws/State.lean ====
section
/-!
SUPPORT. What the elementary updates of the state leave alone, field by field, and reading a register after writing one.
-/

namespace Sys2Proof.Machine

/-! ### Registers -/

/-- R40: a written field reads the value cut to its width. -/
@[simp] theorem State.rd_wr_self (s : State) (r : Row) (ix : List Nat) (v : Nat) :
    (s.wr r ix v).rd r ix = v % 2 ^ r.width := by
  simp [State.rd, State.wr, storeSet, tabGet_set_self]

/-- A write of one row leaves every other row alone. -/
theorem State.rd_wr_ne (s : State) {r x : Row} (h : r.id ≠ x.id) (ix jx : List Nat) (v : Nat) :
    (s.wr r ix v).rd x jx = s.rd x jx := by
  simp only [State.rd, State.wr, storeSet, tabGet_set_ne [] _ _ (Ne.symm h)]

/-- A write of one instance leaves the row's other instances alone. -/
theorem State.rd_wr_inst (s : State) (r : Row) {ix jx : List Nat} (h : r.flat ix ≠ r.flat jx) (v : Nat) :
    (s.wr r ix v).rd r jx = s.rd r jx := by
  simp only [State.rd, State.wr, storeSet, tabGet_set_self, tabGet_set_ne 0 _ _ (Ne.symm h)]

/-- Two states with one store read alike. -/
theorem State.rd_of_store {s t : State} (h : t.store = s.store) (r : Row) (ix : List Nat) : t.rd r ix = s.rd r ix := by
  unfold State.rd; rw [h]

/-- R10: a cleared row reads its reset value. -/
theorem State.rd_clearRow_self (s : State) (r : Row) (ix : List Nat) : (s.clearRow r).rd r ix = r.rst := by
  simp only [State.rd, State.clearRow, tabGet_erase_self]
  simp [tabGet, tabFind]

theorem State.rd_clearRow_ne (s : State) {r x : Row} (h : r.id ≠ x.id) (ix : List Nat) :
    (s.clearRow r).rd x ix = s.rd x ix := by
  simp only [State.rd, State.clearRow, tabGet_erase_ne [] _ (Ne.symm h)]

/-- A one-bit field after it has been written. -/
theorem State.flag_wrb_self (s : State) (r : Row) (ix : List Nat) (b : Bool) (h : 0 < r.width) :
    (s.wrb r ix b).flag r ix = b := by
  have : 1 % 2 ^ r.width = 1 := Nat.mod_eq_of_lt (Nat.one_lt_two_pow (by omega))
  cases b <;> simp [State.wrb, State.flag, bitNat, this]

/-! ### begin -/

@[simp] theorem State.begin_pending (s : State) : s.begin.pending = s.pending := rfl
@[simp] theorem State.begin_store (s : State) : s.begin.store = s.store := rfl
@[simp] theorem State.begin_staged (s : State) : s.begin.staged = s.staged := rfl
@[simp] theorem State.begin_pend (s : State) : s.begin.pend = s.pend := rfl
@[simp] theorem State.begin_inuse (s : State) : s.begin.inuse = s.inuse := rfl
@[simp] theorem State.begin_free (s : State) : s.begin.free = s.free := rfl
@[simp] theorem State.begin_uptime (s : State) : s.begin.uptime = s.uptime := rfl
@[simp] theorem State.begin_pins (s : State) : s.begin.pins = s.pins := rfl
@[simp] theorem State.begin_host (s : State) : s.begin.host = s.host := rfl
@[simp] theorem State.begin_attic (s : State) : s.begin.attic = s.attic := rfl
@[simp] theorem State.begin_pmu (s : State) : s.begin.pmu = s.pmu := rfl
@[simp] theorem State.begin_image (s : State) : s.begin.image = s.image := rfl
@[simp] theorem State.begin_fuses (s : State) : s.begin.fuses = s.fuses := rfl
@[simp] theorem State.begin_boot (s : State) : s.begin.boot = s.boot := rfl
@[simp] theorem State.begin_power (s : State) : s.begin.power = s.power := rfl
@[simp] theorem State.begin_ras (s : State) : s.begin.ras = s.ras := rfl
@[simp] theorem State.begin_cor (s : State) : s.begin.cor = s.cor := rfl
@[simp] theorem State.begin_rx (s : State) : s.begin.rx = s.rx := rfl
@[simp] theorem State.begin_tx (s : State) : s.begin.tx = s.tx := rfl
@[simp] theorem State.begin_opt (s : State) : s.begin.opt = s.opt := rfl
@[simp] theorem State.begin_icm (s : State) : s.begin.icm = s.icm := rfl
@[simp] theorem State.begin_pan (s : State) : s.begin.pan = s.pan := rfl
@[simp] theorem State.begin_sched (s : State) : s.begin.sched = s.sched := rfl
@[simp] theorem State.begin_conv (s : State) : s.begin.conv = s.conv := rfl
@[simp] theorem State.begin_sup (s : State) : s.begin.sup = s.sup := rfl
@[simp] theorem State.begin_dec (s : State) : s.begin.dec = s.dec := rfl
@[simp] theorem State.begin_otn (s : State) : s.begin.otn = s.otn := rfl
@[simp] theorem State.begin_groups (s : State) : s.begin.groups = s.groups := rfl
@[simp] theorem State.begin_cip (s : State) : s.begin.cip = s.cip := rfl
@[simp] theorem State.begin_sds (s : State) : s.begin.sds = s.sds := rfl
@[simp] theorem State.begin_corLanes (s : State) : s.begin.corLanes = s.corLanes := rfl
@[simp] theorem State.begin_dpll (s : State) : s.begin.dpll = s.dpll := rfl
@[simp] theorem State.begin_rd (s : State) (x : Row) (jx : List Nat) :
    s.begin.rd x jx = s.rd x jx := rfl
@[simp] theorem State.begin_flag (s : State) (x : Row) (jx : List Nat) :
    s.begin.flag x jx = s.flag x jx := rfl

/-! ### say -/

@[simp] theorem State.say_pending (s : State) (o : Out) : (s.say o).pending = s.pending := rfl
@[simp] theorem State.say_store (s : State) (o : Out) : (s.say o).store = s.store := rfl
@[simp] theorem State.say_staged (s : State) (o : Out) : (s.say o).staged = s.staged := rfl
@[simp] theorem State.say_pend (s : State) (o : Out) : (s.say o).pend = s.pend := rfl
@[simp] theorem State.say_inuse (s : State) (o : Out) : (s.say o).inuse = s.inuse := rfl
@[simp] theorem State.say_free (s : State) (o : Out) : (s.say o).free = s.free := rfl
@[simp] theorem State.say_uptime (s : State) (o : Out) : (s.say o).uptime = s.uptime := rfl
@[simp] theorem State.say_pins (s : State) (o : Out) : (s.say o).pins = s.pins := rfl
@[simp] theorem State.say_host (s : State) (o : Out) : (s.say o).host = s.host := rfl
@[simp] theorem State.say_attic (s : State) (o : Out) : (s.say o).attic = s.attic := rfl
@[simp] theorem State.say_pmu (s : State) (o : Out) : (s.say o).pmu = s.pmu := rfl
@[simp] theorem State.say_image (s : State) (o : Out) : (s.say o).image = s.image := rfl
@[simp] theorem State.say_fuses (s : State) (o : Out) : (s.say o).fuses = s.fuses := rfl
@[simp] theorem State.say_boot (s : State) (o : Out) : (s.say o).boot = s.boot := rfl
@[simp] theorem State.say_power (s : State) (o : Out) : (s.say o).power = s.power := rfl
@[simp] theorem State.say_ras (s : State) (o : Out) : (s.say o).ras = s.ras := rfl
@[simp] theorem State.say_cor (s : State) (o : Out) : (s.say o).cor = s.cor := rfl
@[simp] theorem State.say_rx (s : State) (o : Out) : (s.say o).rx = s.rx := rfl
@[simp] theorem State.say_tx (s : State) (o : Out) : (s.say o).tx = s.tx := rfl
@[simp] theorem State.say_opt (s : State) (o : Out) : (s.say o).opt = s.opt := rfl
@[simp] theorem State.say_icm (s : State) (o : Out) : (s.say o).icm = s.icm := rfl
@[simp] theorem State.say_pan (s : State) (o : Out) : (s.say o).pan = s.pan := rfl
@[simp] theorem State.say_sched (s : State) (o : Out) : (s.say o).sched = s.sched := rfl
@[simp] theorem State.say_conv (s : State) (o : Out) : (s.say o).conv = s.conv := rfl
@[simp] theorem State.say_sup (s : State) (o : Out) : (s.say o).sup = s.sup := rfl
@[simp] theorem State.say_dec (s : State) (o : Out) : (s.say o).dec = s.dec := rfl
@[simp] theorem State.say_otn (s : State) (o : Out) : (s.say o).otn = s.otn := rfl
@[simp] theorem State.say_groups (s : State) (o : Out) : (s.say o).groups = s.groups := rfl
@[simp] theorem State.say_cip (s : State) (o : Out) : (s.say o).cip = s.cip := rfl
@[simp] theorem State.say_sds (s : State) (o : Out) : (s.say o).sds = s.sds := rfl
@[simp] theorem State.say_corLanes (s : State) (o : Out) : (s.say o).corLanes = s.corLanes := rfl
@[simp] theorem State.say_dpll (s : State) (o : Out) : (s.say o).dpll = s.dpll := rfl
@[simp] theorem State.say_rd (s : State) (o : Out) (x : Row) (jx : List Nat) :
    (s.say o).rd x jx = s.rd x jx := rfl
@[simp] theorem State.say_flag (s : State) (o : Out) (x : Row) (jx : List Nat) :
    (s.say o).flag x jx = s.flag x jx := rfl

/-! ### fresh -/

@[simp] theorem State.fresh_pending (s : State) (n : Nat) : (s.fresh n).2.pending = s.pending := rfl
@[simp] theorem State.fresh_store (s : State) (n : Nat) : (s.fresh n).2.store = s.store := rfl
@[simp] theorem State.fresh_staged (s : State) (n : Nat) : (s.fresh n).2.staged = s.staged := rfl
@[simp] theorem State.fresh_pend (s : State) (n : Nat) : (s.fresh n).2.pend = s.pend := rfl
@[simp] theorem State.fresh_inuse (s : State) (n : Nat) : (s.fresh n).2.inuse = s.inuse := rfl
@[simp] theorem State.fresh_out (s : State) (n : Nat) : (s.fresh n).2.out = s.out := rfl
@[simp] theorem State.fresh_uptime (s : State) (n : Nat) : (s.fresh n).2.uptime = s.uptime := rfl
@[simp] theorem State.fresh_pins (s : State) (n : Nat) : (s.fresh n).2.pins = s.pins := rfl
@[simp] theorem State.fresh_host (s : State) (n : Nat) : (s.fresh n).2.host = s.host := rfl
@[simp] theorem State.fresh_attic (s : State) (n : Nat) : (s.fresh n).2.attic = s.attic := rfl
@[simp] theorem State.fresh_pmu (s : State) (n : Nat) : (s.fresh n).2.pmu = s.pmu := rfl
@[simp] theorem State.fresh_image (s : State) (n : Nat) : (s.fresh n).2.image = s.image := rfl
@[simp] theorem State.fresh_fuses (s : State) (n : Nat) : (s.fresh n).2.fuses = s.fuses := rfl
@[simp] theorem State.fresh_boot (s : State) (n : Nat) : (s.fresh n).2.boot = s.boot := rfl
@[simp] theorem State.fresh_power (s : State) (n : Nat) : (s.fresh n).2.power = s.power := rfl
@[simp] theorem State.fresh_ras (s : State) (n : Nat) : (s.fresh n).2.ras = s.ras := rfl
@[simp] theorem State.fresh_cor (s : State) (n : Nat) : (s.fresh n).2.cor = s.cor := rfl
@[simp] theorem State.fresh_rx (s : State) (n : Nat) : (s.fresh n).2.rx = s.rx := rfl
@[simp] theorem State.fresh_tx (s : State) (n : Nat) : (s.fresh n).2.tx = s.tx := rfl
@[simp] theorem State.fresh_opt (s : State) (n : Nat) : (s.fresh n).2.opt = s.opt := rfl
@[simp] theorem State.fresh_icm (s : State) (n : Nat) : (s.fresh n).2.icm = s.icm := rfl
@[simp] theorem State.fresh_pan (s : State) (n : Nat) : (s.fresh n).2.pan = s.pan := rfl
@[simp] theorem State.fresh_sched (s : State) (n : Nat) : (s.fresh n).2.sched = s.sched := rfl
@[simp] theorem State.fresh_conv (s : State) (n : Nat) : (s.fresh n).2.conv = s.conv := rfl
@[simp] theorem State.fresh_sup (s : State) (n : Nat) : (s.fresh n).2.sup = s.sup := rfl
@[simp] theorem State.fresh_dec (s : State) (n : Nat) : (s.fresh n).2.dec = s.dec := rfl
@[simp] theorem State.fresh_otn (s : State) (n : Nat) : (s.fresh n).2.otn = s.otn := rfl
@[simp] theorem State.fresh_groups (s : State) (n : Nat) : (s.fresh n).2.groups = s.groups := rfl
@[simp] theorem State.fresh_cip (s : State) (n : Nat) : (s.fresh n).2.cip = s.cip := rfl
@[simp] theorem State.fresh_sds (s : State) (n : Nat) : (s.fresh n).2.sds = s.sds := rfl
@[simp] theorem State.fresh_corLanes (s : State) (n : Nat) : (s.fresh n).2.corLanes = s.corLanes := rfl
@[simp] theorem State.fresh_dpll (s : State) (n : Nat) : (s.fresh n).2.dpll = s.dpll := rfl
@[simp] theorem State.fresh_rd (s : State) (n : Nat) (x : Row) (jx : List Nat) :
    (s.fresh n).2.rd x jx = s.rd x jx := rfl
@[simp] theorem State.fresh_flag (s : State) (n : Nat) (x : Row) (jx : List Nat) :
    (s.fresh n).2.flag x jx = s.flag x jx := rfl

/-! ### wr -/

@[simp] theorem State.wr_pending (s : State) (r : Row) (ix : List Nat) (v : Nat) : (s.wr r ix v).pending = s.pending := rfl
@[simp] theorem State.wr_staged (s : State) (r : Row) (ix : List Nat) (v : Nat) : (s.wr r ix v).staged = s.staged := rfl
@[simp] theorem State.wr_pend (s : State) (r : Row) (ix : List Nat) (v : Nat) : (s.wr r ix v).pend = s.pend := rfl
@[simp] theorem State.wr_inuse (s : State) (r : Row) (ix : List Nat) (v : Nat) : (s.wr r ix v).inuse = s.inuse := rfl
@[simp] theorem State.wr_out (s : State) (r : Row) (ix : List Nat) (v : Nat) : (s.wr r ix v).out = s.out := rfl
@[simp] theorem State.wr_free (s : State) (r : Row) (ix : List Nat) (v : Nat) : (s.wr r ix v).free = s.free := rfl
@[simp] theorem State.wr_uptime (s : State) (r : Row) (ix : List Nat) (v : Nat) : (s.wr r ix v).uptime = s.uptime := rfl
@[simp] theorem State.wr_pins (s : State) (r : Row) (ix : List Nat) (v : Nat) : (s.wr r ix v).pins = s.pins := rfl
@[simp] theorem State.wr_host (s : State) (r : Row) (ix : List Nat) (v : Nat) : (s.wr r ix v).host = s.host := rfl
@[simp] theorem State.wr_attic (s : State) (r : Row) (ix : List Nat) (v : Nat) : (s.wr r ix v).attic = s.attic := rfl
@[simp] theorem State.wr_pmu (s : State) (r : Row) (ix : List Nat) (v : Nat) : (s.wr r ix v).pmu = s.pmu := rfl
@[simp] theorem State.wr_image (s : State) (r : Row) (ix : List Nat) (v : Nat) : (s.wr r ix v).image = s.image := rfl
@[simp] theorem State.wr_fuses (s : State) (r : Row) (ix : List Nat) (v : Nat) : (s.wr r ix v).fuses = s.fuses := rfl
@[simp] theorem State.wr_boot (s : State) (r : Row) (ix : List Nat) (v : Nat) : (s.wr r ix v).boot = s.boot := rfl
@[simp] theorem State.wr_power (s : State) (r : Row) (ix : List Nat) (v : Nat) : (s.wr r ix v).power = s.power := rfl
@[simp] theorem State.wr_ras (s : State) (r : Row) (ix : List Nat) (v : Nat) : (s.wr r ix v).ras = s.ras := rfl
@[simp] theorem State.wr_cor (s : State) (r : Row) (ix : List Nat) (v : Nat) : (s.wr r ix v).cor = s.cor := rfl
@[simp] theorem State.wr_rx (s : State) (r : Row) (ix : List Nat) (v : Nat) : (s.wr r ix v).rx = s.rx := rfl
@[simp] theorem State.wr_tx (s : State) (r : Row) (ix : List Nat) (v : Nat) : (s.wr r ix v).tx = s.tx := rfl
@[simp] theorem State.wr_opt (s : State) (r : Row) (ix : List Nat) (v : Nat) : (s.wr r ix v).opt = s.opt := rfl
@[simp] theorem State.wr_icm (s : State) (r : Row) (ix : List Nat) (v : Nat) : (s.wr r ix v).icm = s.icm := rfl
@[simp] theorem State.wr_pan (s : State) (r : Row) (ix : List Nat) (v : Nat) : (s.wr r ix v).pan = s.pan := rfl
@[simp] theorem State.wr_sched (s : State) (r : Row) (ix : List Nat) (v : Nat) : (s.wr r ix v).sched = s.sched := rfl
@[simp] theorem State.wr_conv (s : State) (r : Row) (ix : List Nat) (v : Nat) : (s.wr r ix v).conv = s.conv := rfl
@[simp] theorem State.wr_sup (s : State) (r : Row) (ix : List Nat) (v : Nat) : (s.wr r ix v).sup = s.sup := rfl
@[simp] theorem State.wr_dec (s : State) (r : Row) (ix : List Nat) (v : Nat) : (s.wr r ix v).dec = s.dec := rfl
@[simp] theorem State.wr_otn (s : State) (r : Row) (ix : List Nat) (v : Nat) : (s.wr r ix v).otn = s.otn := rfl
@[simp] theorem State.wr_groups (s : State) (r : Row) (ix : List Nat) (v : Nat) : (s.wr r ix v).groups = s.groups := rfl
@[simp] theorem State.wr_cip (s : State) (r : Row) (ix : List Nat) (v : Nat) : (s.wr r ix v).cip = s.cip := rfl
@[simp] theorem State.wr_sds (s : State) (r : Row) (ix : List Nat) (v : Nat) : (s.wr r ix v).sds = s.sds := rfl
@[simp] theorem State.wr_corLanes (s : State) (r : Row) (ix : List Nat) (v : Nat) : (s.wr r ix v).corLanes = s.corLanes := rfl
@[simp] theorem State.wr_dpll (s : State) (r : Row) (ix : List Nat) (v : Nat) : (s.wr r ix v).dpll = s.dpll := rfl

/-! ### onTx -/

@[simp] theorem State.onTx_pending (s : State) (w : Wing) (f : TxRate → TxRate) : (s.onTx w f).pending = s.pending := rfl
@[simp] theorem State.onTx_store (s : State) (w : Wing) (f : TxRate → TxRate) : (s.onTx w f).store = s.store := rfl
@[simp] theorem State.onTx_staged (s : State) (w : Wing) (f : TxRate → TxRate) : (s.onTx w f).staged = s.staged := rfl
@[simp] theorem State.onTx_pend (s : State) (w : Wing) (f : TxRate → TxRate) : (s.onTx w f).pend = s.pend := rfl
@[simp] theorem State.onTx_inuse (s : State) (w : Wing) (f : TxRate → TxRate) : (s.onTx w f).inuse = s.inuse := rfl
@[simp] theorem State.onTx_out (s : State) (w : Wing) (f : TxRate → TxRate) : (s.onTx w f).out = s.out := rfl
@[simp] theorem State.onTx_free (s : State) (w : Wing) (f : TxRate → TxRate) : (s.onTx w f).free = s.free := rfl
@[simp] theorem State.onTx_uptime (s : State) (w : Wing) (f : TxRate → TxRate) : (s.onTx w f).uptime = s.uptime := rfl
@[simp] theorem State.onTx_pins (s : State) (w : Wing) (f : TxRate → TxRate) : (s.onTx w f).pins = s.pins := rfl
@[simp] theorem State.onTx_host (s : State) (w : Wing) (f : TxRate → TxRate) : (s.onTx w f).host = s.host := rfl
@[simp] theorem State.onTx_attic (s : State) (w : Wing) (f : TxRate → TxRate) : (s.onTx w f).attic = s.attic := rfl
@[simp] theorem State.onTx_pmu (s : State) (w : Wing) (f : TxRate → TxRate) : (s.onTx w f).pmu = s.pmu := rfl
@[simp] theorem State.onTx_image (s : State) (w : Wing) (f : TxRate → TxRate) : (s.onTx w f).image = s.image := rfl
@[simp] theorem State.onTx_fuses (s : State) (w : Wing) (f : TxRate → TxRate) : (s.onTx w f).fuses = s.fuses := rfl
@[simp] theorem State.onTx_boot (s : State) (w : Wing) (f : TxRate → TxRate) : (s.onTx w f).boot = s.boot := rfl
@[simp] theorem State.onTx_power (s : State) (w : Wing) (f : TxRate → TxRate) : (s.onTx w f).power = s.power := rfl
@[simp] theorem State.onTx_ras (s : State) (w : Wing) (f : TxRate → TxRate) : (s.onTx w f).ras = s.ras := rfl
@[simp] theorem State.onTx_cor (s : State) (w : Wing) (f : TxRate → TxRate) : (s.onTx w f).cor = s.cor := rfl
@[simp] theorem State.onTx_rx (s : State) (w : Wing) (f : TxRate → TxRate) : (s.onTx w f).rx = s.rx := rfl
@[simp] theorem State.onTx_opt (s : State) (w : Wing) (f : TxRate → TxRate) : (s.onTx w f).opt = s.opt := rfl
@[simp] theorem State.onTx_icm (s : State) (w : Wing) (f : TxRate → TxRate) : (s.onTx w f).icm = s.icm := rfl
@[simp] theorem State.onTx_pan (s : State) (w : Wing) (f : TxRate → TxRate) : (s.onTx w f).pan = s.pan := rfl
@[simp] theorem State.onTx_sched (s : State) (w : Wing) (f : TxRate → TxRate) : (s.onTx w f).sched = s.sched := rfl
@[simp] theorem State.onTx_conv (s : State) (w : Wing) (f : TxRate → TxRate) : (s.onTx w f).conv = s.conv := rfl
@[simp] theorem State.onTx_sup (s : State) (w : Wing) (f : TxRate → TxRate) : (s.onTx w f).sup = s.sup := rfl
@[simp] theorem State.onTx_dec (s : State) (w : Wing) (f : TxRate → TxRate) : (s.onTx w f).dec = s.dec := rfl
@[simp] theorem State.onTx_otn (s : State) (w : Wing) (f : TxRate → TxRate) : (s.onTx w f).otn = s.otn := rfl
@[simp] theorem State.onTx_groups (s : State) (w : Wing) (f : TxRate → TxRate) : (s.onTx w f).groups = s.groups := rfl
@[simp] theorem State.onTx_cip (s : State) (w : Wing) (f : TxRate → TxRate) : (s.onTx w f).cip = s.cip := rfl
@[simp] theorem State.onTx_sds (s : State) (w : Wing) (f : TxRate → TxRate) : (s.onTx w f).sds = s.sds := rfl
@[simp] theorem State.onTx_corLanes (s : State) (w : Wing) (f : TxRate → TxRate) : (s.onTx w f).corLanes = s.corLanes := rfl
@[simp] theorem State.onTx_dpll (s : State) (w : Wing) (f : TxRate → TxRate) : (s.onTx w f).dpll = s.dpll := rfl
@[simp] theorem State.onTx_rd (s : State) (w : Wing) (f : TxRate → TxRate) (x : Row) (jx : List Nat) :
    (s.onTx w f).rd x jx = s.rd x jx := rfl
@[simp] theorem State.onTx_flag (s : State) (w : Wing) (f : TxRate → TxRate) (x : Row) (jx : List Nat) :
    (s.onTx w f).flag x jx = s.flag x jx := rfl
@[simp] theorem State.onTx_tx (s : State) (w : Wing) (f : TxRate → TxRate) :
    (s.onTx w f).tx = s.tx.set w (f (s.tx.get w)) := rfl

/-! ### onOtn -/

@[simp] theorem State.onOtn_pending (s : State) (w : Wing) (f : Otn → Otn) : (s.onOtn w f).pending = s.pending := rfl
@[simp] theorem State.onOtn_store (s : State) (w : Wing) (f : Otn → Otn) : (s.onOtn w f).store = s.store := rfl
@[simp] theorem State.onOtn_staged (s : State) (w : Wing) (f : Otn → Otn) : (s.onOtn w f).staged = s.staged := rfl
@[simp] theorem State.onOtn_pend (s : State) (w : Wing) (f : Otn → Otn) : (s.onOtn w f).pend = s.pend := rfl
@[simp] theorem State.onOtn_inuse (s : State) (w : Wing) (f : Otn → Otn) : (s.onOtn w f).inuse = s.inuse := rfl
@[simp] theorem State.onOtn_out (s : State) (w : Wing) (f : Otn → Otn) : (s.onOtn w f).out = s.out := rfl
@[simp] theorem State.onOtn_free (s : State) (w : Wing) (f : Otn → Otn) : (s.onOtn w f).free = s.free := rfl
@[simp] theorem State.onOtn_uptime (s : State) (w : Wing) (f : Otn → Otn) : (s.onOtn w f).uptime = s.uptime := rfl
@[simp] theorem State.onOtn_pins (s : State) (w : Wing) (f : Otn → Otn) : (s.onOtn w f).pins = s.pins := rfl
@[simp] theorem State.onOtn_host (s : State) (w : Wing) (f : Otn → Otn) : (s.onOtn w f).host = s.host := rfl
@[simp] theorem State.onOtn_attic (s : State) (w : Wing) (f : Otn → Otn) : (s.onOtn w f).attic = s.attic := rfl
@[simp] theorem State.onOtn_pmu (s : State) (w : Wing) (f : Otn → Otn) : (s.onOtn w f).pmu = s.pmu := rfl
@[simp] theorem State.onOtn_image (s : State) (w : Wing) (f : Otn → Otn) : (s.onOtn w f).image = s.image := rfl
@[simp] theorem State.onOtn_fuses (s : State) (w : Wing) (f : Otn → Otn) : (s.onOtn w f).fuses = s.fuses := rfl
@[simp] theorem State.onOtn_boot (s : State) (w : Wing) (f : Otn → Otn) : (s.onOtn w f).boot = s.boot := rfl
@[simp] theorem State.onOtn_power (s : State) (w : Wing) (f : Otn → Otn) : (s.onOtn w f).power = s.power := rfl
@[simp] theorem State.onOtn_ras (s : State) (w : Wing) (f : Otn → Otn) : (s.onOtn w f).ras = s.ras := rfl
@[simp] theorem State.onOtn_cor (s : State) (w : Wing) (f : Otn → Otn) : (s.onOtn w f).cor = s.cor := rfl
@[simp] theorem State.onOtn_rx (s : State) (w : Wing) (f : Otn → Otn) : (s.onOtn w f).rx = s.rx := rfl
@[simp] theorem State.onOtn_tx (s : State) (w : Wing) (f : Otn → Otn) : (s.onOtn w f).tx = s.tx := rfl
@[simp] theorem State.onOtn_opt (s : State) (w : Wing) (f : Otn → Otn) : (s.onOtn w f).opt = s.opt := rfl
@[simp] theorem State.onOtn_icm (s : State) (w : Wing) (f : Otn → Otn) : (s.onOtn w f).icm = s.icm := rfl
@[simp] theorem State.onOtn_pan (s : State) (w : Wing) (f : Otn → Otn) : (s.onOtn w f).pan = s.pan := rfl
@[simp] theorem State.onOtn_sched (s : State) (w : Wing) (f : Otn → Otn) : (s.onOtn w f).sched = s.sched := rfl
@[simp] theorem State.onOtn_conv (s : State) (w : Wing) (f : Otn → Otn) : (s.onOtn w f).conv = s.conv := rfl
@[simp] theorem State.onOtn_sup (s : State) (w : Wing) (f : Otn → Otn) : (s.onOtn w f).sup = s.sup := rfl
@[simp] theorem State.onOtn_dec (s : State) (w : Wing) (f : Otn → Otn) : (s.onOtn w f).dec = s.dec := rfl
@[simp] theorem State.onOtn_groups (s : State) (w : Wing) (f : Otn → Otn) : (s.onOtn w f).groups = s.groups := rfl
@[simp] theorem State.onOtn_cip (s : State) (w : Wing) (f : Otn → Otn) : (s.onOtn w f).cip = s.cip := rfl
@[simp] theorem State.onOtn_sds (s : State) (w : Wing) (f : Otn → Otn) : (s.onOtn w f).sds = s.sds := rfl
@[simp] theorem State.onOtn_corLanes (s : State) (w : Wing) (f : Otn → Otn) : (s.onOtn w f).corLanes = s.corLanes := rfl
@[simp] theorem State.onOtn_dpll (s : State) (w : Wing) (f : Otn → Otn) : (s.onOtn w f).dpll = s.dpll := rfl
@[simp] theorem State.onOtn_rd (s : State) (w : Wing) (f : Otn → Otn) (x : Row) (jx : List Nat) :
    (s.onOtn w f).rd x jx = s.rd x jx := rfl
@[simp] theorem State.onOtn_flag (s : State) (w : Wing) (f : Otn → Otn) (x : Row) (jx : List Nat) :
    (s.onOtn w f).flag x jx = s.flag x jx := rfl
@[simp] theorem State.onOtn_otn (s : State) (w : Wing) (f : Otn → Otn) :
    (s.onOtn w f).otn = s.otn.set w (f (s.otn.get w)) := rfl

/-! ### onDpll -/

@[simp] theorem State.onDpll_pending (s : State) (f : Dpll → Dpll) : (s.onDpll f).pending = s.pending := rfl
@[simp] theorem State.onDpll_store (s : State) (f : Dpll → Dpll) : (s.onDpll f).store = s.store := rfl
@[simp] theorem State.onDpll_staged (s : State) (f : Dpll → Dpll) : (s.onDpll f).staged = s.staged := rfl
@[simp] theorem State.onDpll_pend (s : State) (f : Dpll → Dpll) : (s.onDpll f).pend = s.pend := rfl
@[simp] theorem State.onDpll_inuse (s : State) (f : Dpll → Dpll) : (s.onDpll f).inuse = s.inuse := rfl
@[simp] theorem State.onDpll_out (s : State) (f : Dpll → Dpll) : (s.onDpll f).out = s.out := rfl
@[simp] theorem State.onDpll_free (s : State) (f : Dpll → Dpll) : (s.onDpll f).free = s.free := rfl
@[simp] theorem State.onDpll_uptime (s : State) (f : Dpll → Dpll) : (s.onDpll f).uptime = s.uptime := rfl
@[simp] theorem State.onDpll_pins (s : State) (f : Dpll → Dpll) : (s.onDpll f).pins = s.pins := rfl
@[simp] theorem State.onDpll_host (s : State) (f : Dpll → Dpll) : (s.onDpll f).host = s.host := rfl
@[simp] theorem State.onDpll_attic (s : State) (f : Dpll → Dpll) : (s.onDpll f).attic = s.attic := rfl
@[simp] theorem State.onDpll_pmu (s : State) (f : Dpll → Dpll) : (s.onDpll f).pmu = s.pmu := rfl
@[simp] theorem State.onDpll_image (s : State) (f : Dpll → Dpll) : (s.onDpll f).image = s.image := rfl
@[simp] theorem State.onDpll_fuses (s : State) (f : Dpll → Dpll) : (s.onDpll f).fuses = s.fuses := rfl
@[simp] theorem State.onDpll_boot (s : State) (f : Dpll → Dpll) : (s.onDpll f).boot = s.boot := rfl
@[simp] theorem State.onDpll_power (s : State) (f : Dpll → Dpll) : (s.onDpll f).power = s.power := rfl
@[simp] theorem State.onDpll_ras (s : State) (f : Dpll → Dpll) : (s.onDpll f).ras = s.ras := rfl
@[simp] theorem State.onDpll_cor (s : State) (f : Dpll → Dpll) : (s.onDpll f).cor = s.cor := rfl
@[simp] theorem State.onDpll_rx (s : State) (f : Dpll → Dpll) : (s.onDpll f).rx = s.rx := rfl
@[simp] theorem State.onDpll_tx (s : State) (f : Dpll → Dpll) : (s.onDpll f).tx = s.tx := rfl
@[simp] theorem State.onDpll_opt (s : State) (f : Dpll → Dpll) : (s.onDpll f).opt = s.opt := rfl
@[simp] theorem State.onDpll_icm (s : State) (f : Dpll → Dpll) : (s.onDpll f).icm = s.icm := rfl
@[simp] theorem State.onDpll_pan (s : State) (f : Dpll → Dpll) : (s.onDpll f).pan = s.pan := rfl
@[simp] theorem State.onDpll_sched (s : State) (f : Dpll → Dpll) : (s.onDpll f).sched = s.sched := rfl
@[simp] theorem State.onDpll_conv (s : State) (f : Dpll → Dpll) : (s.onDpll f).conv = s.conv := rfl
@[simp] theorem State.onDpll_sup (s : State) (f : Dpll → Dpll) : (s.onDpll f).sup = s.sup := rfl
@[simp] theorem State.onDpll_dec (s : State) (f : Dpll → Dpll) : (s.onDpll f).dec = s.dec := rfl
@[simp] theorem State.onDpll_otn (s : State) (f : Dpll → Dpll) : (s.onDpll f).otn = s.otn := rfl
@[simp] theorem State.onDpll_groups (s : State) (f : Dpll → Dpll) : (s.onDpll f).groups = s.groups := rfl
@[simp] theorem State.onDpll_cip (s : State) (f : Dpll → Dpll) : (s.onDpll f).cip = s.cip := rfl
@[simp] theorem State.onDpll_sds (s : State) (f : Dpll → Dpll) : (s.onDpll f).sds = s.sds := rfl
@[simp] theorem State.onDpll_corLanes (s : State) (f : Dpll → Dpll) : (s.onDpll f).corLanes = s.corLanes := rfl
@[simp] theorem State.onDpll_rd (s : State) (f : Dpll → Dpll) (x : Row) (jx : List Nat) :
    (s.onDpll f).rd x jx = s.rd x jx := rfl
@[simp] theorem State.onDpll_flag (s : State) (f : Dpll → Dpll) (x : Row) (jx : List Nat) :
    (s.onDpll f).flag x jx = s.flag x jx := rfl
@[simp] theorem State.onDpll_dpll (s : State) (f : Dpll → Dpll) : (s.onDpll f).dpll = f s.dpll := rfl

/-! ### onConv -/

@[simp] theorem State.onConv_pending (s : State) (w : Wing) (f : Conv → Conv) : (s.onConv w f).pending = s.pending := rfl
@[simp] theorem State.onConv_store (s : State) (w : Wing) (f : Conv → Conv) : (s.onConv w f).store = s.store := rfl
@[simp] theorem State.onConv_staged (s : State) (w : Wing) (f : Conv → Conv) : (s.onConv w f).staged = s.staged := rfl
@[simp] theorem State.onConv_pend (s : State) (w : Wing) (f : Conv → Conv) : (s.onConv w f).pend = s.pend := rfl
@[simp] theorem State.onConv_inuse (s : State) (w : Wing) (f : Conv → Conv) : (s.onConv w f).inuse = s.inuse := rfl
@[simp] theorem State.onConv_out (s : State) (w : Wing) (f : Conv → Conv) : (s.onConv w f).out = s.out := rfl
@[simp] theorem State.onConv_free (s : State) (w : Wing) (f : Conv → Conv) : (s.onConv w f).free = s.free := rfl
@[simp] theorem State.onConv_uptime (s : State) (w : Wing) (f : Conv → Conv) : (s.onConv w f).uptime = s.uptime := rfl
@[simp] theorem State.onConv_pins (s : State) (w : Wing) (f : Conv → Conv) : (s.onConv w f).pins = s.pins := rfl
@[simp] theorem State.onConv_host (s : State) (w : Wing) (f : Conv → Conv) : (s.onConv w f).host = s.host := rfl
@[simp] theorem State.onConv_attic (s : State) (w : Wing) (f : Conv → Conv) : (s.onConv w f).attic = s.attic := rfl
@[simp] theorem State.onConv_pmu (s : State) (w : Wing) (f : Conv → Conv) : (s.onConv w f).pmu = s.pmu := rfl
@[simp] theorem State.onConv_image (s : State) (w : Wing) (f : Conv → Conv) : (s.onConv w f).image = s.image := rfl
@[simp] theorem State.onConv_fuses (s : State) (w : Wing) (f : Conv → Conv) : (s.onConv w f).fuses = s.fuses := rfl
@[simp] theorem State.onConv_boot (s : State) (w : Wing) (f : Conv → Conv) : (s.onConv w f).boot = s.boot := rfl
@[simp] theorem State.onConv_power (s : State) (w : Wing) (f : Conv → Conv) : (s.onConv w f).power = s.power := rfl
@[simp] theorem State.onConv_ras (s : State) (w : Wing) (f : Conv → Conv) : (s.onConv w f).ras = s.ras := rfl
@[simp] theorem State.onConv_cor (s : State) (w : Wing) (f : Conv → Conv) : (s.onConv w f).cor = s.cor := rfl
@[simp] theorem State.onConv_rx (s : State) (w : Wing) (f : Conv → Conv) : (s.onConv w f).rx = s.rx := rfl
@[simp] theorem State.onConv_tx (s : State) (w : Wing) (f : Conv → Conv) : (s.onConv w f).tx = s.tx := rfl
@[simp] theorem State.onConv_opt (s : State) (w : Wing) (f : Conv → Conv) : (s.onConv w f).opt = s.opt := rfl
@[simp] theorem State.onConv_icm (s : State) (w : Wing) (f : Conv → Conv) : (s.onConv w f).icm = s.icm := rfl
@[simp] theorem State.onConv_pan (s : State) (w : Wing) (f : Conv → Conv) : (s.onConv w f).pan = s.pan := rfl
@[simp] theorem State.onConv_sched (s : State) (w : Wing) (f : Conv → Conv) : (s.onConv w f).sched = s.sched := rfl
@[simp] theorem State.onConv_sup (s : State) (w : Wing) (f : Conv → Conv) : (s.onConv w f).sup = s.sup := rfl
@[simp] theorem State.onConv_dec (s : State) (w : Wing) (f : Conv → Conv) : (s.onConv w f).dec = s.dec := rfl
@[simp] theorem State.onConv_otn (s : State) (w : Wing) (f : Conv → Conv) : (s.onConv w f).otn = s.otn := rfl
@[simp] theorem State.onConv_groups (s : State) (w : Wing) (f : Conv → Conv) : (s.onConv w f).groups = s.groups := rfl
@[simp] theorem State.onConv_cip (s : State) (w : Wing) (f : Conv → Conv) : (s.onConv w f).cip = s.cip := rfl
@[simp] theorem State.onConv_sds (s : State) (w : Wing) (f : Conv → Conv) : (s.onConv w f).sds = s.sds := rfl
@[simp] theorem State.onConv_corLanes (s : State) (w : Wing) (f : Conv → Conv) : (s.onConv w f).corLanes = s.corLanes := rfl
@[simp] theorem State.onConv_dpll (s : State) (w : Wing) (f : Conv → Conv) : (s.onConv w f).dpll = s.dpll := rfl
@[simp] theorem State.onConv_rd (s : State) (w : Wing) (f : Conv → Conv) (x : Row) (jx : List Nat) :
    (s.onConv w f).rd x jx = s.rd x jx := rfl
@[simp] theorem State.onConv_flag (s : State) (w : Wing) (f : Conv → Conv) (x : Row) (jx : List Nat) :
    (s.onConv w f).flag x jx = s.flag x jx := rfl
@[simp] theorem State.onConv_conv (s : State) (w : Wing) (f : Conv → Conv) :
    (s.onConv w f).conv = s.conv.set w (f (s.conv.get w)) := rfl

/-! ### onCor -/

@[simp] theorem State.onCor_pending (s : State) (f : Corridor → Corridor) : (s.onCor f).pending = s.pending := rfl
@[simp] theorem State.onCor_store (s : State) (f : Corridor → Corridor) : (s.onCor f).store = s.store := rfl
@[simp] theorem State.onCor_staged (s : State) (f : Corridor → Corridor) : (s.onCor f).staged = s.staged := rfl
@[simp] theorem State.onCor_pend (s : State) (f : Corridor → Corridor) : (s.onCor f).pend = s.pend := rfl
@[simp] theorem State.onCor_inuse (s : State) (f : Corridor → Corridor) : (s.onCor f).inuse = s.inuse := rfl
@[simp] theorem State.onCor_out (s : State) (f : Corridor → Corridor) : (s.onCor f).out = s.out := rfl
@[simp] theorem State.onCor_free (s : State) (f : Corridor → Corridor) : (s.onCor f).free = s.free := rfl
@[simp] theorem State.onCor_uptime (s : State) (f : Corridor → Corridor) : (s.onCor f).uptime = s.uptime := rfl
@[simp] theorem State.onCor_pins (s : State) (f : Corridor → Corridor) : (s.onCor f).pins = s.pins := rfl
@[simp] theorem State.onCor_host (s : State) (f : Corridor → Corridor) : (s.onCor f).host = s.host := rfl
@[simp] theorem State.onCor_attic (s : State) (f : Corridor → Corridor) : (s.onCor f).attic = s.attic := rfl
@[simp] theorem State.onCor_pmu (s : State) (f : Corridor → Corridor) : (s.onCor f).pmu = s.pmu := rfl
@[simp] theorem State.onCor_image (s : State) (f : Corridor → Corridor) : (s.onCor f).image = s.image := rfl
@[simp] theorem State.onCor_fuses (s : State) (f : Corridor → Corridor) : (s.onCor f).fuses = s.fuses := rfl
@[simp] theorem State.onCor_boot (s : State) (f : Corridor → Corridor) : (s.onCor f).boot = s.boot := rfl
@[simp] theorem State.onCor_power (s : State) (f : Corridor → Corridor) : (s.onCor f).power = s.power := rfl
@[simp] theorem State.onCor_ras (s : State) (f : Corridor → Corridor) : (s.onCor f).ras = s.ras := rfl
@[simp] theorem State.onCor_rx (s : State) (f : Corridor → Corridor) : (s.onCor f).rx = s.rx := rfl
@[simp] theorem State.onCor_tx (s : State) (f : Corridor → Corridor) : (s.onCor f).tx = s.tx := rfl
@[simp] theorem State.onCor_opt (s : State) (f : Corridor → Corridor) : (s.onCor f).opt = s.opt := rfl
@[simp] theorem State.onCor_icm (s : State) (f : Corridor → Corridor) : (s.onCor f).icm = s.icm := rfl
@[simp] theorem State.onCor_pan (s : State) (f : Corridor → Corridor) : (s.onCor f).pan = s.pan := rfl
@[simp] theorem State.onCor_sched (s : State) (f : Corridor → Corridor) : (s.onCor f).sched = s.sched := rfl
@[simp] theorem State.onCor_conv (s : State) (f : Corridor → Corridor) : (s.onCor f).conv = s.conv := rfl
@[simp] theorem State.onCor_sup (s : State) (f : Corridor → Corridor) : (s.onCor f).sup = s.sup := rfl
@[simp] theorem State.onCor_dec (s : State) (f : Corridor → Corridor) : (s.onCor f).dec = s.dec := rfl
@[simp] theorem State.onCor_otn (s : State) (f : Corridor → Corridor) : (s.onCor f).otn = s.otn := rfl
@[simp] theorem State.onCor_groups (s : State) (f : Corridor → Corridor) : (s.onCor f).groups = s.groups := rfl
@[simp] theorem State.onCor_cip (s : State) (f : Corridor → Corridor) : (s.onCor f).cip = s.cip := rfl
@[simp] theorem State.onCor_sds (s : State) (f : Corridor → Corridor) : (s.onCor f).sds = s.sds := rfl
@[simp] theorem State.onCor_corLanes (s : State) (f : Corridor → Corridor) : (s.onCor f).corLanes = s.corLanes := rfl
@[simp] theorem State.onCor_dpll (s : State) (f : Corridor → Corridor) : (s.onCor f).dpll = s.dpll := rfl
@[simp] theorem State.onCor_rd (s : State) (f : Corridor → Corridor) (x : Row) (jx : List Nat) :
    (s.onCor f).rd x jx = s.rd x jx := rfl
@[simp] theorem State.onCor_flag (s : State) (f : Corridor → Corridor) (x : Row) (jx : List Nat) :
    (s.onCor f).flag x jx = s.flag x jx := rfl
@[simp] theorem State.onCor_cor (s : State) (f : Corridor → Corridor) : (s.onCor f).cor = f s.cor := rfl

/-! ### onRx -/

@[simp] theorem State.onRx_pending (s : State) (w : Wing) (f : RxLine → RxLine) : (s.onRx w f).pending = s.pending := rfl
@[simp] theorem State.onRx_store (s : State) (w : Wing) (f : RxLine → RxLine) : (s.onRx w f).store = s.store := rfl
@[simp] theorem State.onRx_staged (s : State) (w : Wing) (f : RxLine → RxLine) : (s.onRx w f).staged = s.staged := rfl
@[simp] theorem State.onRx_pend (s : State) (w : Wing) (f : RxLine → RxLine) : (s.onRx w f).pend = s.pend := rfl
@[simp] theorem State.onRx_inuse (s : State) (w : Wing) (f : RxLine → RxLine) : (s.onRx w f).inuse = s.inuse := rfl
@[simp] theorem State.onRx_out (s : State) (w : Wing) (f : RxLine → RxLine) : (s.onRx w f).out = s.out := rfl
@[simp] theorem State.onRx_free (s : State) (w : Wing) (f : RxLine → RxLine) : (s.onRx w f).free = s.free := rfl
@[simp] theorem State.onRx_uptime (s : State) (w : Wing) (f : RxLine → RxLine) : (s.onRx w f).uptime = s.uptime := rfl
@[simp] theorem State.onRx_pins (s : State) (w : Wing) (f : RxLine → RxLine) : (s.onRx w f).pins = s.pins := rfl
@[simp] theorem State.onRx_host (s : State) (w : Wing) (f : RxLine → RxLine) : (s.onRx w f).host = s.host := rfl
@[simp] theorem State.onRx_attic (s : State) (w : Wing) (f : RxLine → RxLine) : (s.onRx w f).attic = s.attic := rfl
@[simp] theorem State.onRx_pmu (s : State) (w : Wing) (f : RxLine → RxLine) : (s.onRx w f).pmu = s.pmu := rfl
@[simp] theorem State.onRx_image (s : State) (w : Wing) (f : RxLine → RxLine) : (s.onRx w f).image = s.image := rfl
@[simp] theorem State.onRx_fuses (s : State) (w : Wing) (f : RxLine → RxLine) : (s.onRx w f).fuses = s.fuses := rfl
@[simp] theorem State.onRx_boot (s : State) (w : Wing) (f : RxLine → RxLine) : (s.onRx w f).boot = s.boot := rfl
@[simp] theorem State.onRx_power (s : State) (w : Wing) (f : RxLine → RxLine) : (s.onRx w f).power = s.power := rfl
@[simp] theorem State.onRx_ras (s : State) (w : Wing) (f : RxLine → RxLine) : (s.onRx w f).ras = s.ras := rfl
@[simp] theorem State.onRx_cor (s : State) (w : Wing) (f : RxLine → RxLine) : (s.onRx w f).cor = s.cor := rfl
@[simp] theorem State.onRx_tx (s : State) (w : Wing) (f : RxLine → RxLine) : (s.onRx w f).tx = s.tx := rfl
@[simp] theorem State.onRx_opt (s : State) (w : Wing) (f : RxLine → RxLine) : (s.onRx w f).opt = s.opt := rfl
@[simp] theorem State.onRx_icm (s : State) (w : Wing) (f : RxLine → RxLine) : (s.onRx w f).icm = s.icm := rfl
@[simp] theorem State.onRx_pan (s : State) (w : Wing) (f : RxLine → RxLine) : (s.onRx w f).pan = s.pan := rfl
@[simp] theorem State.onRx_sched (s : State) (w : Wing) (f : RxLine → RxLine) : (s.onRx w f).sched = s.sched := rfl
@[simp] theorem State.onRx_conv (s : State) (w : Wing) (f : RxLine → RxLine) : (s.onRx w f).conv = s.conv := rfl
@[simp] theorem State.onRx_sup (s : State) (w : Wing) (f : RxLine → RxLine) : (s.onRx w f).sup = s.sup := rfl
@[simp] theorem State.onRx_dec (s : State) (w : Wing) (f : RxLine → RxLine) : (s.onRx w f).dec = s.dec := rfl
@[simp] theorem State.onRx_otn (s : State) (w : Wing) (f : RxLine → RxLine) : (s.onRx w f).otn = s.otn := rfl
@[simp] theorem State.onRx_groups (s : State) (w : Wing) (f : RxLine → RxLine) : (s.onRx w f).groups = s.groups := rfl
@[simp] theorem State.onRx_cip (s : State) (w : Wing) (f : RxLine → RxLine) : (s.onRx w f).cip = s.cip := rfl
@[simp] theorem State.onRx_sds (s : State) (w : Wing) (f : RxLine → RxLine) : (s.onRx w f).sds = s.sds := rfl
@[simp] theorem State.onRx_corLanes (s : State) (w : Wing) (f : RxLine → RxLine) : (s.onRx w f).corLanes = s.corLanes := rfl
@[simp] theorem State.onRx_dpll (s : State) (w : Wing) (f : RxLine → RxLine) : (s.onRx w f).dpll = s.dpll := rfl
@[simp] theorem State.onRx_rd (s : State) (w : Wing) (f : RxLine → RxLine) (x : Row) (jx : List Nat) :
    (s.onRx w f).rd x jx = s.rd x jx := rfl
@[simp] theorem State.onRx_flag (s : State) (w : Wing) (f : RxLine → RxLine) (x : Row) (jx : List Nat) :
    (s.onRx w f).flag x jx = s.flag x jx := rfl
@[simp] theorem State.onRx_rx (s : State) (w : Wing) (f : RxLine → RxLine) :
    (s.onRx w f).rx = s.rx.set w (f (s.rx.get w)) := rfl

/-! ### onDec -/

@[simp] theorem State.onDec_pending (s : State) (w : Wing) (f : Decoder → Decoder) : (s.onDec w f).pending = s.pending := rfl
@[simp] theorem State.onDec_store (s : State) (w : Wing) (f : Decoder → Decoder) : (s.onDec w f).store = s.store := rfl
@[simp] theorem State.onDec_staged (s : State) (w : Wing) (f : Decoder → Decoder) : (s.onDec w f).staged = s.staged := rfl
@[simp] theorem State.onDec_pend (s : State) (w : Wing) (f : Decoder → Decoder) : (s.onDec w f).pend = s.pend := rfl
@[simp] theorem State.onDec_inuse (s : State) (w : Wing) (f : Decoder → Decoder) : (s.onDec w f).inuse = s.inuse := rfl
@[simp] theorem State.onDec_out (s : State) (w : Wing) (f : Decoder → Decoder) : (s.onDec w f).out = s.out := rfl
@[simp] theorem State.onDec_free (s : State) (w : Wing) (f : Decoder → Decoder) : (s.onDec w f).free = s.free := rfl
@[simp] theorem State.onDec_uptime (s : State) (w : Wing) (f : Decoder → Decoder) : (s.onDec w f).uptime = s.uptime := rfl
@[simp] theorem State.onDec_pins (s : State) (w : Wing) (f : Decoder → Decoder) : (s.onDec w f).pins = s.pins := rfl
@[simp] theorem State.onDec_host (s : State) (w : Wing) (f : Decoder → Decoder) : (s.onDec w f).host = s.host := rfl
@[simp] theorem State.onDec_attic (s : State) (w : Wing) (f : Decoder → Decoder) : (s.onDec w f).attic = s.attic := rfl
@[simp] theorem State.onDec_pmu (s : State) (w : Wing) (f : Decoder → Decoder) : (s.onDec w f).pmu = s.pmu := rfl
@[simp] theorem State.onDec_image (s : State) (w : Wing) (f : Decoder → Decoder) : (s.onDec w f).image = s.image := rfl
@[simp] theorem State.onDec_fuses (s : State) (w : Wing) (f : Decoder → Decoder) : (s.onDec w f).fuses = s.fuses := rfl
@[simp] theorem State.onDec_boot (s : State) (w : Wing) (f : Decoder → Decoder) : (s.onDec w f).boot = s.boot := rfl
@[simp] theorem State.onDec_power (s : State) (w : Wing) (f : Decoder → Decoder) : (s.onDec w f).power = s.power := rfl
@[simp] theorem State.onDec_ras (s : State) (w : Wing) (f : Decoder → Decoder) : (s.onDec w f).ras = s.ras := rfl
@[simp] theorem State.onDec_cor (s : State) (w : Wing) (f : Decoder → Decoder) : (s.onDec w f).cor = s.cor := rfl
@[simp] theorem State.onDec_rx (s : State) (w : Wing) (f : Decoder → Decoder) : (s.onDec w f).rx = s.rx := rfl
@[simp] theorem State.onDec_tx (s : State) (w : Wing) (f : Decoder → Decoder) : (s.onDec w f).tx = s.tx := rfl
@[simp] theorem State.onDec_opt (s : State) (w : Wing) (f : Decoder → Decoder) : (s.onDec w f).opt = s.opt := rfl
@[simp] theorem State.onDec_icm (s : State) (w : Wing) (f : Decoder → Decoder) : (s.onDec w f).icm = s.icm := rfl
@[simp] theorem State.onDec_pan (s : State) (w : Wing) (f : Decoder → Decoder) : (s.onDec w f).pan = s.pan := rfl
@[simp] theorem State.onDec_sched (s : State) (w : Wing) (f : Decoder → Decoder) : (s.onDec w f).sched = s.sched := rfl
@[simp] theorem State.onDec_conv (s : State) (w : Wing) (f : Decoder → Decoder) : (s.onDec w f).conv = s.conv := rfl
@[simp] theorem State.onDec_sup (s : State) (w : Wing) (f : Decoder → Decoder) : (s.onDec w f).sup = s.sup := rfl
@[simp] theorem State.onDec_otn (s : State) (w : Wing) (f : Decoder → Decoder) : (s.onDec w f).otn = s.otn := rfl
@[simp] theorem State.onDec_groups (s : State) (w : Wing) (f : Decoder → Decoder) : (s.onDec w f).groups = s.groups := rfl
@[simp] theorem State.onDec_cip (s : State) (w : Wing) (f : Decoder → Decoder) : (s.onDec w f).cip = s.cip := rfl
@[simp] theorem State.onDec_sds (s : State) (w : Wing) (f : Decoder → Decoder) : (s.onDec w f).sds = s.sds := rfl
@[simp] theorem State.onDec_corLanes (s : State) (w : Wing) (f : Decoder → Decoder) : (s.onDec w f).corLanes = s.corLanes := rfl
@[simp] theorem State.onDec_dpll (s : State) (w : Wing) (f : Decoder → Decoder) : (s.onDec w f).dpll = s.dpll := rfl
@[simp] theorem State.onDec_rd (s : State) (w : Wing) (f : Decoder → Decoder) (x : Row) (jx : List Nat) :
    (s.onDec w f).rd x jx = s.rd x jx := rfl
@[simp] theorem State.onDec_flag (s : State) (w : Wing) (f : Decoder → Decoder) (x : Row) (jx : List Nat) :
    (s.onDec w f).flag x jx = s.flag x jx := rfl
@[simp] theorem State.onDec_dec (s : State) (w : Wing) (f : Decoder → Decoder) :
    (s.onDec w f).dec = s.dec.set w (f (s.dec.get w)) := rfl

/-! ### onHost -/

@[simp] theorem State.onHost_pending (s : State) (f : HostIf → HostIf) : (s.onHost f).pending = s.pending := rfl
@[simp] theorem State.onHost_store (s : State) (f : HostIf → HostIf) : (s.onHost f).store = s.store := rfl
@[simp] theorem State.onHost_staged (s : State) (f : HostIf → HostIf) : (s.onHost f).staged = s.staged := rfl
@[simp] theorem State.onHost_pend (s : State) (f : HostIf → HostIf) : (s.onHost f).pend = s.pend := rfl
@[simp] theorem State.onHost_inuse (s : State) (f : HostIf → HostIf) : (s.onHost f).inuse = s.inuse := rfl
@[simp] theorem State.onHost_out (s : State) (f : HostIf → HostIf) : (s.onHost f).out = s.out := rfl
@[simp] theorem State.onHost_free (s : State) (f : HostIf → HostIf) : (s.onHost f).free = s.free := rfl
@[simp] theorem State.onHost_uptime (s : State) (f : HostIf → HostIf) : (s.onHost f).uptime = s.uptime := rfl
@[simp] theorem State.onHost_pins (s : State) (f : HostIf → HostIf) : (s.onHost f).pins = s.pins := rfl
@[simp] theorem State.onHost_attic (s : State) (f : HostIf → HostIf) : (s.onHost f).attic = s.attic := rfl
@[simp] theorem State.onHost_pmu (s : State) (f : HostIf → HostIf) : (s.onHost f).pmu = s.pmu := rfl
@[simp] theorem State.onHost_image (s : State) (f : HostIf → HostIf) : (s.onHost f).image = s.image := rfl
@[simp] theorem State.onHost_fuses (s : State) (f : HostIf → HostIf) : (s.onHost f).fuses = s.fuses := rfl
@[simp] theorem State.onHost_boot (s : State) (f : HostIf → HostIf) : (s.onHost f).boot = s.boot := rfl
@[simp] theorem State.onHost_power (s : State) (f : HostIf → HostIf) : (s.onHost f).power = s.power := rfl
@[simp] theorem State.onHost_ras (s : State) (f : HostIf → HostIf) : (s.onHost f).ras = s.ras := rfl
@[simp] theorem State.onHost_cor (s : State) (f : HostIf → HostIf) : (s.onHost f).cor = s.cor := rfl
@[simp] theorem State.onHost_rx (s : State) (f : HostIf → HostIf) : (s.onHost f).rx = s.rx := rfl
@[simp] theorem State.onHost_tx (s : State) (f : HostIf → HostIf) : (s.onHost f).tx = s.tx := rfl
@[simp] theorem State.onHost_opt (s : State) (f : HostIf → HostIf) : (s.onHost f).opt = s.opt := rfl
@[simp] theorem State.onHost_icm (s : State) (f : HostIf → HostIf) : (s.onHost f).icm = s.icm := rfl
@[simp] theorem State.onHost_pan (s : State) (f : HostIf → HostIf) : (s.onHost f).pan = s.pan := rfl
@[simp] theorem State.onHost_sched (s : State) (f : HostIf → HostIf) : (s.onHost f).sched = s.sched := rfl
@[simp] theorem State.onHost_conv (s : State) (f : HostIf → HostIf) : (s.onHost f).conv = s.conv := rfl
@[simp] theorem State.onHost_sup (s : State) (f : HostIf → HostIf) : (s.onHost f).sup = s.sup := rfl
@[simp] theorem State.onHost_dec (s : State) (f : HostIf → HostIf) : (s.onHost f).dec = s.dec := rfl
@[simp] theorem State.onHost_otn (s : State) (f : HostIf → HostIf) : (s.onHost f).otn = s.otn := rfl
@[simp] theorem State.onHost_groups (s : State) (f : HostIf → HostIf) : (s.onHost f).groups = s.groups := rfl
@[simp] theorem State.onHost_cip (s : State) (f : HostIf → HostIf) : (s.onHost f).cip = s.cip := rfl
@[simp] theorem State.onHost_sds (s : State) (f : HostIf → HostIf) : (s.onHost f).sds = s.sds := rfl
@[simp] theorem State.onHost_corLanes (s : State) (f : HostIf → HostIf) : (s.onHost f).corLanes = s.corLanes := rfl
@[simp] theorem State.onHost_dpll (s : State) (f : HostIf → HostIf) : (s.onHost f).dpll = s.dpll := rfl
@[simp] theorem State.onHost_rd (s : State) (f : HostIf → HostIf) (x : Row) (jx : List Nat) :
    (s.onHost f).rd x jx = s.rd x jx := rfl
@[simp] theorem State.onHost_flag (s : State) (f : HostIf → HostIf) (x : Row) (jx : List Nat) :
    (s.onHost f).flag x jx = s.flag x jx := rfl
@[simp] theorem State.onHost_host (s : State) (f : HostIf → HostIf) : (s.onHost f).host = f s.host := rfl

/-! ### onIcm -/

@[simp] theorem State.onIcm_pending (s : State) (w : Wing) (f : IcmSide → IcmSide) : (s.onIcm w f).pending = s.pending := rfl
@[simp] theorem State.onIcm_store (s : State) (w : Wing) (f : IcmSide → IcmSide) : (s.onIcm w f).store = s.store := rfl
@[simp] theorem State.onIcm_staged (s : State) (w : Wing) (f : IcmSide → IcmSide) : (s.onIcm w f).staged = s.staged := rfl
@[simp] theorem State.onIcm_pend (s : State) (w : Wing) (f : IcmSide → IcmSide) : (s.onIcm w f).pend = s.pend := rfl
@[simp] theorem State.onIcm_inuse (s : State) (w : Wing) (f : IcmSide → IcmSide) : (s.onIcm w f).inuse = s.inuse := rfl
@[simp] theorem State.onIcm_out (s : State) (w : Wing) (f : IcmSide → IcmSide) : (s.onIcm w f).out = s.out := rfl
@[simp] theorem State.onIcm_free (s : State) (w : Wing) (f : IcmSide → IcmSide) : (s.onIcm w f).free = s.free := rfl
@[simp] theorem State.onIcm_uptime (s : State) (w : Wing) (f : IcmSide → IcmSide) : (s.onIcm w f).uptime = s.uptime := rfl
@[simp] theorem State.onIcm_pins (s : State) (w : Wing) (f : IcmSide → IcmSide) : (s.onIcm w f).pins = s.pins := rfl
@[simp] theorem State.onIcm_host (s : State) (w : Wing) (f : IcmSide → IcmSide) : (s.onIcm w f).host = s.host := rfl
@[simp] theorem State.onIcm_attic (s : State) (w : Wing) (f : IcmSide → IcmSide) : (s.onIcm w f).attic = s.attic := rfl
@[simp] theorem State.onIcm_pmu (s : State) (w : Wing) (f : IcmSide → IcmSide) : (s.onIcm w f).pmu = s.pmu := rfl
@[simp] theorem State.onIcm_image (s : State) (w : Wing) (f : IcmSide → IcmSide) : (s.onIcm w f).image = s.image := rfl
@[simp] theorem State.onIcm_fuses (s : State) (w : Wing) (f : IcmSide → IcmSide) : (s.onIcm w f).fuses = s.fuses := rfl
@[simp] theorem State.onIcm_boot (s : State) (w : Wing) (f : IcmSide → IcmSide) : (s.onIcm w f).boot = s.boot := rfl
@[simp] theorem State.onIcm_power (s : State) (w : Wing) (f : IcmSide → IcmSide) : (s.onIcm w f).power = s.power := rfl
@[simp] theorem State.onIcm_ras (s : State) (w : Wing) (f : IcmSide → IcmSide) : (s.onIcm w f).ras = s.ras := rfl
@[simp] theorem State.onIcm_cor (s : State) (w : Wing) (f : IcmSide → IcmSide) : (s.onIcm w f).cor = s.cor := rfl
@[simp] theorem State.onIcm_rx (s : State) (w : Wing) (f : IcmSide → IcmSide) : (s.onIcm w f).rx = s.rx := rfl
@[simp] theorem State.onIcm_tx (s : State) (w : Wing) (f : IcmSide → IcmSide) : (s.onIcm w f).tx = s.tx := rfl
@[simp] theorem State.onIcm_opt (s : State) (w : Wing) (f : IcmSide → IcmSide) : (s.onIcm w f).opt = s.opt := rfl
@[simp] theorem State.onIcm_pan (s : State) (w : Wing) (f : IcmSide → IcmSide) : (s.onIcm w f).pan = s.pan := rfl
@[simp] theorem State.onIcm_sched (s : State) (w : Wing) (f : IcmSide → IcmSide) : (s.onIcm w f).sched = s.sched := rfl
@[simp] theorem State.onIcm_conv (s : State) (w : Wing) (f : IcmSide → IcmSide) : (s.onIcm w f).conv = s.conv := rfl
@[simp] theorem State.onIcm_sup (s : State) (w : Wing) (f : IcmSide → IcmSide) : (s.onIcm w f).sup = s.sup := rfl
@[simp] theorem State.onIcm_dec (s : State) (w : Wing) (f : IcmSide → IcmSide) : (s.onIcm w f).dec = s.dec := rfl
@[simp] theorem State.onIcm_otn (s : State) (w : Wing) (f : IcmSide → IcmSide) : (s.onIcm w f).otn = s.otn := rfl
@[simp] theorem State.onIcm_groups (s : State) (w : Wing) (f : IcmSide → IcmSide) : (s.onIcm w f).groups = s.groups := rfl
@[simp] theorem State.onIcm_cip (s : State) (w : Wing) (f : IcmSide → IcmSide) : (s.onIcm w f).cip = s.cip := rfl
@[simp] theorem State.onIcm_sds (s : State) (w : Wing) (f : IcmSide → IcmSide) : (s.onIcm w f).sds = s.sds := rfl
@[simp] theorem State.onIcm_corLanes (s : State) (w : Wing) (f : IcmSide → IcmSide) : (s.onIcm w f).corLanes = s.corLanes := rfl
@[simp] theorem State.onIcm_dpll (s : State) (w : Wing) (f : IcmSide → IcmSide) : (s.onIcm w f).dpll = s.dpll := rfl
@[simp] theorem State.onIcm_rd (s : State) (w : Wing) (f : IcmSide → IcmSide) (x : Row) (jx : List Nat) :
    (s.onIcm w f).rd x jx = s.rd x jx := rfl
@[simp] theorem State.onIcm_flag (s : State) (w : Wing) (f : IcmSide → IcmSide) (x : Row) (jx : List Nat) :
    (s.onIcm w f).flag x jx = s.flag x jx := rfl
@[simp] theorem State.onIcm_icm (s : State) (w : Wing) (f : IcmSide → IcmSide) :
    (s.onIcm w f).icm = s.icm.set w (f (s.icm.get w)) := rfl

/-! ### onImage -/

@[simp] theorem State.onImage_pending (s : State) (f : ImageState → ImageState) : (s.onImage f).pending = s.pending := rfl
@[simp] theorem State.onImage_store (s : State) (f : ImageState → ImageState) : (s.onImage f).store = s.store := rfl
@[simp] theorem State.onImage_staged (s : State) (f : ImageState → ImageState) : (s.onImage f).staged = s.staged := rfl
@[simp] theorem State.onImage_pend (s : State) (f : ImageState → ImageState) : (s.onImage f).pend = s.pend := rfl
@[simp] theorem State.onImage_inuse (s : State) (f : ImageState → ImageState) : (s.onImage f).inuse = s.inuse := rfl
@[simp] theorem State.onImage_out (s : State) (f : ImageState → ImageState) : (s.onImage f).out = s.out := rfl
@[simp] theorem State.onImage_free (s : State) (f : ImageState → ImageState) : (s.onImage f).free = s.free := rfl
@[simp] theorem State.onImage_uptime (s : State) (f : ImageState → ImageState) : (s.onImage f).uptime = s.uptime := rfl
@[simp] theorem State.onImage_pins (s : State) (f : ImageState → ImageState) : (s.onImage f).pins = s.pins := rfl
@[simp] theorem State.onImage_host (s : State) (f : ImageState → ImageState) : (s.onImage f).host = s.host := rfl
@[simp] theorem State.onImage_attic (s : State) (f : ImageState → ImageState) : (s.onImage f).attic = s.attic := rfl
@[simp] theorem State.onImage_pmu (s : State) (f : ImageState → ImageState) : (s.onImage f).pmu = s.pmu := rfl
@[simp] theorem State.onImage_fuses (s : State) (f : ImageState → ImageState) : (s.onImage f).fuses = s.fuses := rfl
@[simp] theorem State.onImage_boot (s : State) (f : ImageState → ImageState) : (s.onImage f).boot = s.boot := rfl
@[simp] theorem State.onImage_power (s : State) (f : ImageState → ImageState) : (s.onImage f).power = s.power := rfl
@[simp] theorem State.onImage_ras (s : State) (f : ImageState → ImageState) : (s.onImage f).ras = s.ras := rfl
@[simp] theorem State.onImage_cor (s : State) (f : ImageState → ImageState) : (s.onImage f).cor = s.cor := rfl
@[simp] theorem State.onImage_rx (s : State) (f : ImageState → ImageState) : (s.onImage f).rx = s.rx := rfl
@[simp] theorem State.onImage_tx (s : State) (f : ImageState → ImageState) : (s.onImage f).tx = s.tx := rfl
@[simp] theorem State.onImage_opt (s : State) (f : ImageState → ImageState) : (s.onImage f).opt = s.opt := rfl
@[simp] theorem State.onImage_icm (s : State) (f : ImageState → ImageState) : (s.onImage f).icm = s.icm := rfl
@[simp] theorem State.onImage_pan (s : State) (f : ImageState → ImageState) : (s.onImage f).pan = s.pan := rfl
@[simp] theorem State.onImage_sched (s : State) (f : ImageState → ImageState) : (s.onImage f).sched = s.sched := rfl
@[simp] theorem State.onImage_conv (s : State) (f : ImageState → ImageState) : (s.onImage f).conv = s.conv := rfl
@[simp] theorem State.onImage_sup (s : State) (f : ImageState → ImageState) : (s.onImage f).sup = s.sup := rfl
@[simp] theorem State.onImage_dec (s : State) (f : ImageState → ImageState) : (s.onImage f).dec = s.dec := rfl
@[simp] theorem State.onImage_otn (s : State) (f : ImageState → ImageState) : (s.onImage f).otn = s.otn := rfl
@[simp] theorem State.onImage_groups (s : State) (f : ImageState → ImageState) : (s.onImage f).groups = s.groups := rfl
@[simp] theorem State.onImage_cip (s : State) (f : ImageState → ImageState) : (s.onImage f).cip = s.cip := rfl
@[simp] theorem State.onImage_sds (s : State) (f : ImageState → ImageState) : (s.onImage f).sds = s.sds := rfl
@[simp] theorem State.onImage_corLanes (s : State) (f : ImageState → ImageState) : (s.onImage f).corLanes = s.corLanes := rfl
@[simp] theorem State.onImage_dpll (s : State) (f : ImageState → ImageState) : (s.onImage f).dpll = s.dpll := rfl
@[simp] theorem State.onImage_rd (s : State) (f : ImageState → ImageState) (x : Row) (jx : List Nat) :
    (s.onImage f).rd x jx = s.rd x jx := rfl
@[simp] theorem State.onImage_flag (s : State) (f : ImageState → ImageState) (x : Row) (jx : List Nat) :
    (s.onImage f).flag x jx = s.flag x jx := rfl
@[simp] theorem State.onImage_image (s : State) (f : ImageState → ImageState) : (s.onImage f).image = f s.image := rfl

/-! ### onPmu -/

@[simp] theorem State.onPmu_pending (s : State) (f : Pmu → Pmu) : (s.onPmu f).pending = s.pending := rfl
@[simp] theorem State.onPmu_store (s : State) (f : Pmu → Pmu) : (s.onPmu f).store = s.store := rfl
@[simp] theorem State.onPmu_staged (s : State) (f : Pmu → Pmu) : (s.onPmu f).staged = s.staged := rfl
@[simp] theorem State.onPmu_pend (s : State) (f : Pmu → Pmu) : (s.onPmu f).pend = s.pend := rfl
@[simp] theorem State.onPmu_inuse (s : State) (f : Pmu → Pmu) : (s.onPmu f).inuse = s.inuse := rfl
@[simp] theorem State.onPmu_out (s : State) (f : Pmu → Pmu) : (s.onPmu f).out = s.out := rfl
@[simp] theorem State.onPmu_free (s : State) (f : Pmu → Pmu) : (s.onPmu f).free = s.free := rfl
@[simp] theorem State.onPmu_uptime (s : State) (f : Pmu → Pmu) : (s.onPmu f).uptime = s.uptime := rfl
@[simp] theorem State.onPmu_pins (s : State) (f : Pmu → Pmu) : (s.onPmu f).pins = s.pins := rfl
@[simp] theorem State.onPmu_host (s : State) (f : Pmu → Pmu) : (s.onPmu f).host = s.host := rfl
@[simp] theorem State.onPmu_attic (s : State) (f : Pmu → Pmu) : (s.onPmu f).attic = s.attic := rfl
@[simp] theorem State.onPmu_image (s : State) (f : Pmu → Pmu) : (s.onPmu f).image = s.image := rfl
@[simp] theorem State.onPmu_fuses (s : State) (f : Pmu → Pmu) : (s.onPmu f).fuses = s.fuses := rfl
@[simp] theorem State.onPmu_boot (s : State) (f : Pmu → Pmu) : (s.onPmu f).boot = s.boot := rfl
@[simp] theorem State.onPmu_power (s : State) (f : Pmu → Pmu) : (s.onPmu f).power = s.power := rfl
@[simp] theorem State.onPmu_ras (s : State) (f : Pmu → Pmu) : (s.onPmu f).ras = s.ras := rfl
@[simp] theorem State.onPmu_cor (s : State) (f : Pmu → Pmu) : (s.onPmu f).cor = s.cor := rfl
@[simp] theorem State.onPmu_rx (s : State) (f : Pmu → Pmu) : (s.onPmu f).rx = s.rx := rfl
@[simp] theorem State.onPmu_tx (s : State) (f : Pmu → Pmu) : (s.onPmu f).tx = s.tx := rfl
@[simp] theorem State.onPmu_opt (s : State) (f : Pmu → Pmu) : (s.onPmu f).opt = s.opt := rfl
@[simp] theorem State.onPmu_icm (s : State) (f : Pmu → Pmu) : (s.onPmu f).icm = s.icm := rfl
@[simp] theorem State.onPmu_pan (s : State) (f : Pmu → Pmu) : (s.onPmu f).pan = s.pan := rfl
@[simp] theorem State.onPmu_sched (s : State) (f : Pmu → Pmu) : (s.onPmu f).sched = s.sched := rfl
@[simp] theorem State.onPmu_conv (s : State) (f : Pmu → Pmu) : (s.onPmu f).conv = s.conv := rfl
@[simp] theorem State.onPmu_sup (s : State) (f : Pmu → Pmu) : (s.onPmu f).sup = s.sup := rfl
@[simp] theorem State.onPmu_dec (s : State) (f : Pmu → Pmu) : (s.onPmu f).dec = s.dec := rfl
@[simp] theorem State.onPmu_otn (s : State) (f : Pmu → Pmu) : (s.onPmu f).otn = s.otn := rfl
@[simp] theorem State.onPmu_groups (s : State) (f : Pmu → Pmu) : (s.onPmu f).groups = s.groups := rfl
@[simp] theorem State.onPmu_cip (s : State) (f : Pmu → Pmu) : (s.onPmu f).cip = s.cip := rfl
@[simp] theorem State.onPmu_sds (s : State) (f : Pmu → Pmu) : (s.onPmu f).sds = s.sds := rfl
@[simp] theorem State.onPmu_corLanes (s : State) (f : Pmu → Pmu) : (s.onPmu f).corLanes = s.corLanes := rfl
@[simp] theorem State.onPmu_dpll (s : State) (f : Pmu → Pmu) : (s.onPmu f).dpll = s.dpll := rfl
@[simp] theorem State.onPmu_rd (s : State) (f : Pmu → Pmu) (x : Row) (jx : List Nat) :
    (s.onPmu f).rd x jx = s.rd x jx := rfl
@[simp] theorem State.onPmu_flag (s : State) (f : Pmu → Pmu) (x : Row) (jx : List Nat) :
    (s.onPmu f).flag x jx = s.flag x jx := rfl
@[simp] theorem State.onPmu_pmu (s : State) (f : Pmu → Pmu) : (s.onPmu f).pmu = f s.pmu := rfl

/-! ### onAttic -/

@[simp] theorem State.onAttic_pending (s : State) (f : Attic → Attic) : (s.onAttic f).pending = s.pending := rfl
@[simp] theorem State.onAttic_store (s : State) (f : Attic → Attic) : (s.onAttic f).store = s.store := rfl
@[simp] theorem State.onAttic_staged (s : State) (f : Attic → Attic) : (s.onAttic f).staged = s.staged := rfl
@[simp] theorem State.onAttic_pend (s : State) (f : Attic → Attic) : (s.onAttic f).pend = s.pend := rfl
@[simp] theorem State.onAttic_inuse (s : State) (f : Attic → Attic) : (s.onAttic f).inuse = s.inuse := rfl
@[simp] theorem State.onAttic_out (s : State) (f : Attic → Attic) : (s.onAttic f).out = s.out := rfl
@[simp] theorem State.onAttic_free (s : State) (f : Attic → Attic) : (s.onAttic f).free = s.free := rfl
@[simp] theorem State.onAttic_uptime (s : State) (f : Attic → Attic) : (s.onAttic f).uptime = s.uptime := rfl
@[simp] theorem State.onAttic_pins (s : State) (f : Attic → Attic) : (s.onAttic f).pins = s.pins := rfl
@[simp] theorem State.onAttic_host (s : State) (f : Attic → Attic) : (s.onAttic f).host = s.host := rfl
@[simp] theorem State.onAttic_pmu (s : State) (f : Attic → Attic) : (s.onAttic f).pmu = s.pmu := rfl
@[simp] theorem State.onAttic_image (s : State) (f : Attic → Attic) : (s.onAttic f).image = s.image := rfl
@[simp] theorem State.onAttic_fuses (s : State) (f : Attic → Attic) : (s.onAttic f).fuses = s.fuses := rfl
@[simp] theorem State.onAttic_boot (s : State) (f : Attic → Attic) : (s.onAttic f).boot = s.boot := rfl
@[simp] theorem State.onAttic_power (s : State) (f : Attic → Attic) : (s.onAttic f).power = s.power := rfl
@[simp] theorem State.onAttic_ras (s : State) (f : Attic → Attic) : (s.onAttic f).ras = s.ras := rfl
@[simp] theorem State.onAttic_cor (s : State) (f : Attic → Attic) : (s.onAttic f).cor = s.cor := rfl
@[simp] theorem State.onAttic_rx (s : State) (f : Attic → Attic) : (s.onAttic f).rx = s.rx := rfl
@[simp] theorem State.onAttic_tx (s : State) (f : Attic → Attic) : (s.onAttic f).tx = s.tx := rfl
@[simp] theorem State.onAttic_opt (s : State) (f : Attic → Attic) : (s.onAttic f).opt = s.opt := rfl
@[simp] theorem State.onAttic_icm (s : State) (f : Attic → Attic) : (s.onAttic f).icm = s.icm := rfl
@[simp] theorem State.onAttic_pan (s : State) (f : Attic → Attic) : (s.onAttic f).pan = s.pan := rfl
@[simp] theorem State.onAttic_sched (s : State) (f : Attic → Attic) : (s.onAttic f).sched = s.sched := rfl
@[simp] theorem State.onAttic_conv (s : State) (f : Attic → Attic) : (s.onAttic f).conv = s.conv := rfl
@[simp] theorem State.onAttic_sup (s : State) (f : Attic → Attic) : (s.onAttic f).sup = s.sup := rfl
@[simp] theorem State.onAttic_dec (s : State) (f : Attic → Attic) : (s.onAttic f).dec = s.dec := rfl
@[simp] theorem State.onAttic_otn (s : State) (f : Attic → Attic) : (s.onAttic f).otn = s.otn := rfl
@[simp] theorem State.onAttic_groups (s : State) (f : Attic → Attic) : (s.onAttic f).groups = s.groups := rfl
@[simp] theorem State.onAttic_cip (s : State) (f : Attic → Attic) : (s.onAttic f).cip = s.cip := rfl
@[simp] theorem State.onAttic_sds (s : State) (f : Attic → Attic) : (s.onAttic f).sds = s.sds := rfl
@[simp] theorem State.onAttic_corLanes (s : State) (f : Attic → Attic) : (s.onAttic f).corLanes = s.corLanes := rfl
@[simp] theorem State.onAttic_dpll (s : State) (f : Attic → Attic) : (s.onAttic f).dpll = s.dpll := rfl
@[simp] theorem State.onAttic_rd (s : State) (f : Attic → Attic) (x : Row) (jx : List Nat) :
    (s.onAttic f).rd x jx = s.rd x jx := rfl
@[simp] theorem State.onAttic_flag (s : State) (f : Attic → Attic) (x : Row) (jx : List Nat) :
    (s.onAttic f).flag x jx = s.flag x jx := rfl
@[simp] theorem State.onAttic_attic (s : State) (f : Attic → Attic) : (s.onAttic f).attic = f s.attic := rfl

/-! ### onOpt -/

@[simp] theorem State.onOpt_pending (s : State) (w : Wing) (f : Optics → Optics) : (s.onOpt w f).pending = s.pending := rfl
@[simp] theorem State.onOpt_store (s : State) (w : Wing) (f : Optics → Optics) : (s.onOpt w f).store = s.store := rfl
@[simp] theorem State.onOpt_staged (s : State) (w : Wing) (f : Optics → Optics) : (s.onOpt w f).staged = s.staged := rfl
@[simp] theorem State.onOpt_pend (s : State) (w : Wing) (f : Optics → Optics) : (s.onOpt w f).pend = s.pend := rfl
@[simp] theorem State.onOpt_inuse (s : State) (w : Wing) (f : Optics → Optics) : (s.onOpt w f).inuse = s.inuse := rfl
@[simp] theorem State.onOpt_out (s : State) (w : Wing) (f : Optics → Optics) : (s.onOpt w f).out = s.out := rfl
@[simp] theorem State.onOpt_free (s : State) (w : Wing) (f : Optics → Optics) : (s.onOpt w f).free = s.free := rfl
@[simp] theorem State.onOpt_uptime (s : State) (w : Wing) (f : Optics → Optics) : (s.onOpt w f).uptime = s.uptime := rfl
@[simp] theorem State.onOpt_pins (s : State) (w : Wing) (f : Optics → Optics) : (s.onOpt w f).pins = s.pins := rfl
@[simp] theorem State.onOpt_host (s : State) (w : Wing) (f : Optics → Optics) : (s.onOpt w f).host = s.host := rfl
@[simp] theorem State.onOpt_attic (s : State) (w : Wing) (f : Optics → Optics) : (s.onOpt w f).attic = s.attic := rfl
@[simp] theorem State.onOpt_pmu (s : State) (w : Wing) (f : Optics → Optics) : (s.onOpt w f).pmu = s.pmu := rfl
@[simp] theorem State.onOpt_image (s : State) (w : Wing) (f : Optics → Optics) : (s.onOpt w f).image = s.image := rfl
@[simp] theorem State.onOpt_fuses (s : State) (w : Wing) (f : Optics → Optics) : (s.onOpt w f).fuses = s.fuses := rfl
@[simp] theorem State.onOpt_boot (s : State) (w : Wing) (f : Optics → Optics) : (s.onOpt w f).boot = s.boot := rfl
@[simp] theorem State.onOpt_power (s : State) (w : Wing) (f : Optics → Optics) : (s.onOpt w f).power = s.power := rfl
@[simp] theorem State.onOpt_ras (s : State) (w : Wing) (f : Optics → Optics) : (s.onOpt w f).ras = s.ras := rfl
@[simp] theorem State.onOpt_cor (s : State) (w : Wing) (f : Optics → Optics) : (s.onOpt w f).cor = s.cor := rfl
@[simp] theorem State.onOpt_rx (s : State) (w : Wing) (f : Optics → Optics) : (s.onOpt w f).rx = s.rx := rfl
@[simp] theorem State.onOpt_tx (s : State) (w : Wing) (f : Optics → Optics) : (s.onOpt w f).tx = s.tx := rfl
@[simp] theorem State.onOpt_icm (s : State) (w : Wing) (f : Optics → Optics) : (s.onOpt w f).icm = s.icm := rfl
@[simp] theorem State.onOpt_pan (s : State) (w : Wing) (f : Optics → Optics) : (s.onOpt w f).pan = s.pan := rfl
@[simp] theorem State.onOpt_sched (s : State) (w : Wing) (f : Optics → Optics) : (s.onOpt w f).sched = s.sched := rfl
@[simp] theorem State.onOpt_conv (s : State) (w : Wing) (f : Optics → Optics) : (s.onOpt w f).conv = s.conv := rfl
@[simp] theorem State.onOpt_sup (s : State) (w : Wing) (f : Optics → Optics) : (s.onOpt w f).sup = s.sup := rfl
@[simp] theorem State.onOpt_dec (s : State) (w : Wing) (f : Optics → Optics) : (s.onOpt w f).dec = s.dec := rfl
@[simp] theorem State.onOpt_otn (s : State) (w : Wing) (f : Optics → Optics) : (s.onOpt w f).otn = s.otn := rfl
@[simp] theorem State.onOpt_groups (s : State) (w : Wing) (f : Optics → Optics) : (s.onOpt w f).groups = s.groups := rfl
@[simp] theorem State.onOpt_cip (s : State) (w : Wing) (f : Optics → Optics) : (s.onOpt w f).cip = s.cip := rfl
@[simp] theorem State.onOpt_sds (s : State) (w : Wing) (f : Optics → Optics) : (s.onOpt w f).sds = s.sds := rfl
@[simp] theorem State.onOpt_corLanes (s : State) (w : Wing) (f : Optics → Optics) : (s.onOpt w f).corLanes = s.corLanes := rfl
@[simp] theorem State.onOpt_dpll (s : State) (w : Wing) (f : Optics → Optics) : (s.onOpt w f).dpll = s.dpll := rfl
@[simp] theorem State.onOpt_rd (s : State) (w : Wing) (f : Optics → Optics) (x : Row) (jx : List Nat) :
    (s.onOpt w f).rd x jx = s.rd x jx := rfl
@[simp] theorem State.onOpt_flag (s : State) (w : Wing) (f : Optics → Optics) (x : Row) (jx : List Nat) :
    (s.onOpt w f).flag x jx = s.flag x jx := rfl
@[simp] theorem State.onOpt_opt (s : State) (w : Wing) (f : Optics → Optics) :
    (s.onOpt w f).opt = s.opt.set w (f (s.opt.get w)) := rfl

/-! ### onPower -/

@[simp] theorem State.onPower_pending (s : State) (f : Power → Power) : (s.onPower f).pending = s.pending := rfl
@[simp] theorem State.onPower_store (s : State) (f : Power → Power) : (s.onPower f).store = s.store := rfl
@[simp] theorem State.onPower_staged (s : State) (f : Power → Power) : (s.onPower f).staged = s.staged := rfl
@[simp] theorem State.onPower_pend (s : State) (f : Power → Power) : (s.onPower f).pend = s.pend := rfl
@[simp] theorem State.onPower_inuse (s : State) (f : Power → Power) : (s.onPower f).inuse = s.inuse := rfl
@[simp] theorem State.onPower_out (s : State) (f : Power → Power) : (s.onPower f).out = s.out := rfl
@[simp] theorem State.onPower_free (s : State) (f : Power → Power) : (s.onPower f).free = s.free := rfl
@[simp] theorem State.onPower_uptime (s : State) (f : Power → Power) : (s.onPower f).uptime = s.uptime := rfl
@[simp] theorem State.onPower_pins (s : State) (f : Power → Power) : (s.onPower f).pins = s.pins := rfl
@[simp] theorem State.onPower_host (s : State) (f : Power → Power) : (s.onPower f).host = s.host := rfl
@[simp] theorem State.onPower_attic (s : State) (f : Power → Power) : (s.onPower f).attic = s.attic := rfl
@[simp] theorem State.onPower_pmu (s : State) (f : Power → Power) : (s.onPower f).pmu = s.pmu := rfl
@[simp] theorem State.onPower_image (s : State) (f : Power → Power) : (s.onPower f).image = s.image := rfl
@[simp] theorem State.onPower_fuses (s : State) (f : Power → Power) : (s.onPower f).fuses = s.fuses := rfl
@[simp] theorem State.onPower_boot (s : State) (f : Power → Power) : (s.onPower f).boot = s.boot := rfl
@[simp] theorem State.onPower_ras (s : State) (f : Power → Power) : (s.onPower f).ras = s.ras := rfl
@[simp] theorem State.onPower_cor (s : State) (f : Power → Power) : (s.onPower f).cor = s.cor := rfl
@[simp] theorem State.onPower_rx (s : State) (f : Power → Power) : (s.onPower f).rx = s.rx := rfl
@[simp] theorem State.onPower_tx (s : State) (f : Power → Power) : (s.onPower f).tx = s.tx := rfl
@[simp] theorem State.onPower_opt (s : State) (f : Power → Power) : (s.onPower f).opt = s.opt := rfl
@[simp] theorem State.onPower_icm (s : State) (f : Power → Power) : (s.onPower f).icm = s.icm := rfl
@[simp] theorem State.onPower_pan (s : State) (f : Power → Power) : (s.onPower f).pan = s.pan := rfl
@[simp] theorem State.onPower_sched (s : State) (f : Power → Power) : (s.onPower f).sched = s.sched := rfl
@[simp] theorem State.onPower_conv (s : State) (f : Power → Power) : (s.onPower f).conv = s.conv := rfl
@[simp] theorem State.onPower_sup (s : State) (f : Power → Power) : (s.onPower f).sup = s.sup := rfl
@[simp] theorem State.onPower_dec (s : State) (f : Power → Power) : (s.onPower f).dec = s.dec := rfl
@[simp] theorem State.onPower_otn (s : State) (f : Power → Power) : (s.onPower f).otn = s.otn := rfl
@[simp] theorem State.onPower_groups (s : State) (f : Power → Power) : (s.onPower f).groups = s.groups := rfl
@[simp] theorem State.onPower_cip (s : State) (f : Power → Power) : (s.onPower f).cip = s.cip := rfl
@[simp] theorem State.onPower_sds (s : State) (f : Power → Power) : (s.onPower f).sds = s.sds := rfl
@[simp] theorem State.onPower_corLanes (s : State) (f : Power → Power) : (s.onPower f).corLanes = s.corLanes := rfl
@[simp] theorem State.onPower_dpll (s : State) (f : Power → Power) : (s.onPower f).dpll = s.dpll := rfl
@[simp] theorem State.onPower_rd (s : State) (f : Power → Power) (x : Row) (jx : List Nat) :
    (s.onPower f).rd x jx = s.rd x jx := rfl
@[simp] theorem State.onPower_flag (s : State) (f : Power → Power) (x : Row) (jx : List Nat) :
    (s.onPower f).flag x jx = s.flag x jx := rfl
@[simp] theorem State.onPower_power (s : State) (f : Power → Power) : (s.onPower f).power = f s.power := rfl

/-! ### onCip -/

@[simp] theorem State.onCip_pending (s : State) (f : Cipher → Cipher) : (s.onCip f).pending = s.pending := rfl
@[simp] theorem State.onCip_store (s : State) (f : Cipher → Cipher) : (s.onCip f).store = s.store := rfl
@[simp] theorem State.onCip_staged (s : State) (f : Cipher → Cipher) : (s.onCip f).staged = s.staged := rfl
@[simp] theorem State.onCip_pend (s : State) (f : Cipher → Cipher) : (s.onCip f).pend = s.pend := rfl
@[simp] theorem State.onCip_inuse (s : State) (f : Cipher → Cipher) : (s.onCip f).inuse = s.inuse := rfl
@[simp] theorem State.onCip_out (s : State) (f : Cipher → Cipher) : (s.onCip f).out = s.out := rfl
@[simp] theorem State.onCip_free (s : State) (f : Cipher → Cipher) : (s.onCip f).free = s.free := rfl
@[simp] theorem State.onCip_uptime (s : State) (f : Cipher → Cipher) : (s.onCip f).uptime = s.uptime := rfl
@[simp] theorem State.onCip_pins (s : State) (f : Cipher → Cipher) : (s.onCip f).pins = s.pins := rfl
@[simp] theorem State.onCip_host (s : State) (f : Cipher → Cipher) : (s.onCip f).host = s.host := rfl
@[simp] theorem State.onCip_attic (s : State) (f : Cipher → Cipher) : (s.onCip f).attic = s.attic := rfl
@[simp] theorem State.onCip_pmu (s : State) (f : Cipher → Cipher) : (s.onCip f).pmu = s.pmu := rfl
@[simp] theorem State.onCip_image (s : State) (f : Cipher → Cipher) : (s.onCip f).image = s.image := rfl
@[simp] theorem State.onCip_fuses (s : State) (f : Cipher → Cipher) : (s.onCip f).fuses = s.fuses := rfl
@[simp] theorem State.onCip_boot (s : State) (f : Cipher → Cipher) : (s.onCip f).boot = s.boot := rfl
@[simp] theorem State.onCip_power (s : State) (f : Cipher → Cipher) : (s.onCip f).power = s.power := rfl
@[simp] theorem State.onCip_ras (s : State) (f : Cipher → Cipher) : (s.onCip f).ras = s.ras := rfl
@[simp] theorem State.onCip_cor (s : State) (f : Cipher → Cipher) : (s.onCip f).cor = s.cor := rfl
@[simp] theorem State.onCip_rx (s : State) (f : Cipher → Cipher) : (s.onCip f).rx = s.rx := rfl
@[simp] theorem State.onCip_tx (s : State) (f : Cipher → Cipher) : (s.onCip f).tx = s.tx := rfl
@[simp] theorem State.onCip_opt (s : State) (f : Cipher → Cipher) : (s.onCip f).opt = s.opt := rfl
@[simp] theorem State.onCip_icm (s : State) (f : Cipher → Cipher) : (s.onCip f).icm = s.icm := rfl
@[simp] theorem State.onCip_pan (s : State) (f : Cipher → Cipher) : (s.onCip f).pan = s.pan := rfl
@[simp] theorem State.onCip_sched (s : State) (f : Cipher → Cipher) : (s.onCip f).sched = s.sched := rfl
@[simp] theorem State.onCip_conv (s : State) (f : Cipher → Cipher) : (s.onCip f).conv = s.conv := rfl
@[simp] theorem State.onCip_sup (s : State) (f : Cipher → Cipher) : (s.onCip f).sup = s.sup := rfl
@[simp] theorem State.onCip_dec (s : State) (f : Cipher → Cipher) : (s.onCip f).dec = s.dec := rfl
@[simp] theorem State.onCip_otn (s : State) (f : Cipher → Cipher) : (s.onCip f).otn = s.otn := rfl
@[simp] theorem State.onCip_groups (s : State) (f : Cipher → Cipher) : (s.onCip f).groups = s.groups := rfl
@[simp] theorem State.onCip_sds (s : State) (f : Cipher → Cipher) : (s.onCip f).sds = s.sds := rfl
@[simp] theorem State.onCip_corLanes (s : State) (f : Cipher → Cipher) : (s.onCip f).corLanes = s.corLanes := rfl
@[simp] theorem State.onCip_dpll (s : State) (f : Cipher → Cipher) : (s.onCip f).dpll = s.dpll := rfl
@[simp] theorem State.onCip_rd (s : State) (f : Cipher → Cipher) (x : Row) (jx : List Nat) :
    (s.onCip f).rd x jx = s.rd x jx := rfl
@[simp] theorem State.onCip_flag (s : State) (f : Cipher → Cipher) (x : Row) (jx : List Nat) :
    (s.onCip f).flag x jx = s.flag x jx := rfl
@[simp] theorem State.onCip_cip (s : State) (f : Cipher → Cipher) : (s.onCip f).cip = f s.cip := rfl

/-! ### onSup -/

@[simp] theorem State.onSup_pending (s : State) (f : Sup → Sup) : (s.onSup f).pending = s.pending := rfl
@[simp] theorem State.onSup_store (s : State) (f : Sup → Sup) : (s.onSup f).store = s.store := rfl
@[simp] theorem State.onSup_staged (s : State) (f : Sup → Sup) : (s.onSup f).staged = s.staged := rfl
@[simp] theorem State.onSup_pend (s : State) (f : Sup → Sup) : (s.onSup f).pend = s.pend := rfl
@[simp] theorem State.onSup_inuse (s : State) (f : Sup → Sup) : (s.onSup f).inuse = s.inuse := rfl
@[simp] theorem State.onSup_out (s : State) (f : Sup → Sup) : (s.onSup f).out = s.out := rfl
@[simp] theorem State.onSup_free (s : State) (f : Sup → Sup) : (s.onSup f).free = s.free := rfl
@[simp] theorem State.onSup_uptime (s : State) (f : Sup → Sup) : (s.onSup f).uptime = s.uptime := rfl
@[simp] theorem State.onSup_pins (s : State) (f : Sup → Sup) : (s.onSup f).pins = s.pins := rfl
@[simp] theorem State.onSup_host (s : State) (f : Sup → Sup) : (s.onSup f).host = s.host := rfl
@[simp] theorem State.onSup_attic (s : State) (f : Sup → Sup) : (s.onSup f).attic = s.attic := rfl
@[simp] theorem State.onSup_pmu (s : State) (f : Sup → Sup) : (s.onSup f).pmu = s.pmu := rfl
@[simp] theorem State.onSup_image (s : State) (f : Sup → Sup) : (s.onSup f).image = s.image := rfl
@[simp] theorem State.onSup_fuses (s : State) (f : Sup → Sup) : (s.onSup f).fuses = s.fuses := rfl
@[simp] theorem State.onSup_boot (s : State) (f : Sup → Sup) : (s.onSup f).boot = s.boot := rfl
@[simp] theorem State.onSup_power (s : State) (f : Sup → Sup) : (s.onSup f).power = s.power := rfl
@[simp] theorem State.onSup_ras (s : State) (f : Sup → Sup) : (s.onSup f).ras = s.ras := rfl
@[simp] theorem State.onSup_cor (s : State) (f : Sup → Sup) : (s.onSup f).cor = s.cor := rfl
@[simp] theorem State.onSup_rx (s : State) (f : Sup → Sup) : (s.onSup f).rx = s.rx := rfl
@[simp] theorem State.onSup_tx (s : State) (f : Sup → Sup) : (s.onSup f).tx = s.tx := rfl
@[simp] theorem State.onSup_opt (s : State) (f : Sup → Sup) : (s.onSup f).opt = s.opt := rfl
@[simp] theorem State.onSup_icm (s : State) (f : Sup → Sup) : (s.onSup f).icm = s.icm := rfl
@[simp] theorem State.onSup_pan (s : State) (f : Sup → Sup) : (s.onSup f).pan = s.pan := rfl
@[simp] theorem State.onSup_sched (s : State) (f : Sup → Sup) : (s.onSup f).sched = s.sched := rfl
@[simp] theorem State.onSup_conv (s : State) (f : Sup → Sup) : (s.onSup f).conv = s.conv := rfl
@[simp] theorem State.onSup_dec (s : State) (f : Sup → Sup) : (s.onSup f).dec = s.dec := rfl
@[simp] theorem State.onSup_otn (s : State) (f : Sup → Sup) : (s.onSup f).otn = s.otn := rfl
@[simp] theorem State.onSup_groups (s : State) (f : Sup → Sup) : (s.onSup f).groups = s.groups := rfl
@[simp] theorem State.onSup_cip (s : State) (f : Sup → Sup) : (s.onSup f).cip = s.cip := rfl
@[simp] theorem State.onSup_sds (s : State) (f : Sup → Sup) : (s.onSup f).sds = s.sds := rfl
@[simp] theorem State.onSup_corLanes (s : State) (f : Sup → Sup) : (s.onSup f).corLanes = s.corLanes := rfl
@[simp] theorem State.onSup_dpll (s : State) (f : Sup → Sup) : (s.onSup f).dpll = s.dpll := rfl
@[simp] theorem State.onSup_rd (s : State) (f : Sup → Sup) (x : Row) (jx : List Nat) :
    (s.onSup f).rd x jx = s.rd x jx := rfl
@[simp] theorem State.onSup_flag (s : State) (f : Sup → Sup) (x : Row) (jx : List Nat) :
    (s.onSup f).flag x jx = s.flag x jx := rfl
@[simp] theorem State.onSup_sup (s : State) (f : Sup → Sup) : (s.onSup f).sup = f s.sup := rfl

/-! ### Values held once for each wing -/

@[simp] theorem get_set {α : Type} (p : PerWing α) (w : Wing) (v : α) : (p.set w v).get w = v := by cases w <;> rfl

theorem get_set_ne {α : Type} (p : PerWing α) {w x : Wing} (h : x ≠ w) (v : α) : (p.set w v).get x = p.get x := by
  cases w <;> cases x <;> first | rfl | exact absurd rfl h

@[simp] theorem get_set_other {α : Type} (p : PerWing α) (w : Wing) (v : α) :
    (p.set w v).get w.other = p.get w.other := by cases w <;> rfl

end Sys2Proof.Machine
end

