-- ==== Sys2Proof/Laws/WithinFlags.lean ====
section
/-!
SUPPORT. `Within` over the operations of Machine/Flags.lean.
-/

namespace Sys2Proof.Machine

theorem State.via_within {M : Nat} {s₀ s : State} (h : Within M s₀ s) (req : Req) (f : State → State)
    (hf : ∀ t : State, Within M t (f t)) :
    Within M s₀ (State.via s req f) := by
  unfold State.via
  repeat' first
    | with_reducible assumption | with_reducible exact .refl _ _ | split
    | with_reducible refine Within.trans ?_ (hf _)

theorem State.viaSec_within {M : Nat} {s₀ s : State} (h : Within M s₀ s) (req : Req) (f : State → State)
    (hf : ∀ t : State, Within M t (f t)) :
    Within M s₀ (State.viaSec s req f) := by
  unfold State.viaSec
  repeat' first
    | with_reducible assumption | with_reducible exact .refl _ _ | with_reducible apply State.via_within | intro _
    | split | with_reducible refine Within.trans ?_ (hf _)

/-- What `State.sendMsix` may write. -/
def State.sendMsix_touch : Nat :=
  union [Part.host.bit, Part.out.bit]

theorem State.sendMsix_within {M : Nat} {s₀ s : State} (h : Within M s₀ s) (k : Covers M State.sendMsix_touch)
    (v : Nat) :
    Within M s₀ (State.sendMsix s v) := by
  simp only [State.sendMsix_touch, covers_union] at k
  obtain ⟨k0, k1, _⟩ := k
  unfold State.sendMsix
  dsimp only
  repeat' first
    | with_reducible assumption | with_reducible exact .refl _ _
    | with_reducible exact may_row (by with_reducible assumption) | split | with_reducible apply within_host
    | with_reducible apply within_out | with_reducible apply within_mk | exact Or.inr (by with_reducible assumption)
    | with_reducible exact Or.inl rfl

/-- What `State.requestMsix` may write. -/
def State.requestMsix_touch : Nat :=
  union [Part.host.bit, State.sendMsix_touch]

theorem State.requestMsix_within {M : Nat} {s₀ s : State} (h : Within M s₀ s) (k : Covers M State.requestMsix_touch)
    (v : Nat) :
    Within M s₀ (State.requestMsix s v) := by
  simp only [State.requestMsix_touch, covers_union] at k
  obtain ⟨k0, k1, _⟩ := k
  unfold State.requestMsix
  repeat' first
    | with_reducible assumption | with_reducible exact .refl _ _ | with_reducible apply State.sendMsix_within | split
    | with_reducible apply within_host

/-- What `State.setEngine7` may write. -/
def State.setEngine7_touch : Nat :=
  union [Row.HST_DMA_STAT_BUSY.bit, Part.host.bit]

theorem State.setEngine7_within {M : Nat} {s₀ s : State} (h : Within M s₀ s) (k : Covers M State.setEngine7_touch)
    (q : List Transfer) :
    Within M s₀ (State.setEngine7 s q) := by
  simp only [State.setEngine7_touch, covers_union] at k
  obtain ⟨k0, k1, _⟩ := k
  unfold State.setEngine7
  repeat' first
    | with_reducible assumption | with_reducible exact .refl _ _ | with_reducible apply State.wrb_within
    | with_reducible exact may_row (by with_reducible assumption) | with_reducible apply within_host

/-- What `State.askDma` may write. -/
def State.askDma_touch : Nat :=
  union [State.setEngine7_touch]

theorem State.askDma_within {M : Nat} {s₀ s : State} (h : Within M s₀ s) (k : Covers M State.askDma_touch)
    (k' : Transfer) :
    Within M s₀ (State.askDma s k') := by
  simp only [State.askDma_touch, covers_union] at k
  obtain ⟨k0, _⟩ := k
  unfold State.askDma
  repeat' first
    | with_reducible assumption | with_reducible exact .refl _ _ | with_reducible apply State.setEngine7_within

/-- What `State.endDma` may write. -/
def State.endDma_touch : Nat :=
  union [State.setEngine7_touch]

theorem State.endDma_within {M : Nat} {s₀ s : State} (h : Within M s₀ s) (k : Covers M State.endDma_touch)
    (k' : Transfer) :
    Within M s₀ (State.endDma s k') := by
  simp only [State.endDma_touch, covers_union] at k
  obtain ⟨k0, _⟩ := k
  unfold State.endDma
  repeat' first
    | with_reducible assumption | with_reducible exact .refl _ _ | with_reducible apply State.setEngine7_within

/-- What `State.requestIntn` may write. -/
def State.requestIntn_touch : Nat :=
  union [Row.HST_INTN_PEND_HI_VEC.bit, Row.HST_INTN_PEND_LO_VEC.bit]

theorem State.requestIntn_within {M : Nat} {s₀ s : State} (h : Within M s₀ s) (k : Covers M State.requestIntn_touch)
    (v : Nat) :
    Within M s₀ (State.requestIntn s v) := by
  simp only [State.requestIntn_touch, covers_union] at k
  obtain ⟨k0, k1, _⟩ := k
  unfold State.requestIntn
  repeat' first
    | with_reducible assumption | with_reducible exact .refl _ _ | with_reducible apply State.bit_within
    | with_reducible exact may_row (by with_reducible assumption) | split

/-- What `State.sayCell` may write. -/
def State.sayCell_touch : Nat :=
  union [State.say_touch]

theorem State.sayCell_within {M : Nat} {s₀ s : State} (h : Within M s₀ s) (k : Covers M State.sayCell_touch)
    (p : Nat) (dest : Nat) (c : CellBody) :
    Within M s₀ (State.sayCell s p dest c) := by
  simp only [State.sayCell_touch, covers_union] at k
  obtain ⟨k0, _⟩ := k
  unfold State.sayCell
  repeat' first
    | with_reducible assumption | with_reducible exact .refl _ _ | with_reducible apply State.say_within
    | with_reducible apply State.when_within | intro _

/-- What `State.sendCell` may write. -/
def State.sendCell_touch : Nat :=
  union [State.sayCell_touch]

theorem State.sendCell_within {M : Nat} {s₀ s : State} (h : Within M s₀ s) (k : Covers M State.sendCell_touch)
    (dest : Nat) (c : CellBody) :
    Within M s₀ (State.sendCell s dest c) := by
  simp only [State.sendCell_touch, covers_union] at k
  obtain ⟨k0, _⟩ := k
  unfold State.sendCell
  repeat' first
    | with_reducible assumption | with_reducible exact .refl _ _ | with_reducible apply State.sayCell_within

/-- What `State.forwardDoorbell` may write. -/
def State.forwardDoorbell_touch : Nat :=
  union [State.sendCell_touch]

theorem State.forwardDoorbell_within {M : Nat} {s₀ s : State} (h : Within M s₀ s)
    (k : Covers M State.forwardDoorbell_touch) (v : Nat) :
    Within M s₀ (State.forwardDoorbell s v) := by
  simp only [State.forwardDoorbell_touch, covers_union] at k
  obtain ⟨k0, _⟩ := k
  unfold State.forwardDoorbell
  dsimp only
  repeat' first
    | with_reducible assumption | with_reducible exact .refl _ _ | with_reducible apply State.sendCell_within
    | with_reducible exact may_row (by with_reducible assumption) | split

/-- What `State.ring` may write. -/
def State.ring_touch : Nat :=
  union [State.native_touch, State.forwardDoorbell_touch, State.requestMsix_touch, State.requestIntn_touch]

theorem State.ring_within {M : Nat} {s₀ s : State} (h : Within M s₀ s) (k : Covers M State.ring_touch) (v : Nat) :
    Within M s₀ (State.ring s v) := by
  simp only [State.ring_touch, covers_union] at k
  obtain ⟨k0, k1, k2, k3, _⟩ := k
  unfold State.ring
  repeat' first
    | with_reducible assumption | with_reducible exact .refl _ _ | with_reducible apply State.native_within
    | with_reducible apply State.forwardDoorbell_within | with_reducible apply State.requestMsix_within
    | with_reducible apply State.requestIntn_within

/-- What `State.evt` may write. -/
def State.evt_touch : Nat :=
  union [State.ring_touch]

theorem State.evt_within {M : Nat} {s₀ s : State} (h : Within M s₀ s) (k : Covers M State.evt_touch) (r : Row)
    (kr : May M r) (ix : List Nat) (b : Nat) :
    Within M s₀ (State.evt s r ix b) := by
  simp only [State.evt_touch, covers_union] at k
  obtain ⟨k0, _⟩ := k
  unfold State.evt
  repeat' first
    | with_reducible assumption | with_reducible exact .refl _ _ | with_reducible apply State.ring_within
    | with_reducible apply State.bit_within | with_reducible exact may_row (by with_reducible assumption) | split

/-- What `State.emit` may write. -/
def State.emit_touch : Nat :=
  union [Row.ATT_EVT_LOST.bit, Row.ATT_LOST_COUNT.bit, Part.attic.bit, State.evt_touch, State.count_touch]

theorem State.emit_within {M : Nat} {s₀ s : State} (h : Within M s₀ s) (k : Covers M State.emit_touch)
    (island : Nat) (subunit : Nat) (code : Nat) (arg0 : Nat) (arg1 : Nat) :
    Within M s₀ (State.emit s island subunit code arg0 arg1) := by
  simp only [State.emit_touch, covers_union] at k
  obtain ⟨k0, k1, k2, k3, k4, _⟩ := k
  unfold State.emit
  repeat' first
    | with_reducible assumption | with_reducible exact .refl _ _ | with_reducible apply State.evt_within
    | with_reducible apply State.count_within | with_reducible exact may_row (by with_reducible assumption) | split
    | with_reducible apply within_attic

/-- What `State.evtLog` may write. -/
def State.evtLog_touch : Nat :=
  union [State.evt_touch, State.emit_touch]

theorem State.evtLog_within {M : Nat} {s₀ s : State} (h : Within M s₀ s) (k : Covers M State.evtLog_touch) (r : Row)
    (kr : May M r) (ix : List Nat) (island : Nat) (subunit : Nat) (arg0 : Nat) (arg1 : Nat) :
    Within M s₀ (State.evtLog s r ix island subunit arg0 arg1) := by
  simp only [State.evtLog_touch, covers_union] at k
  obtain ⟨k0, k1, _⟩ := k
  unfold State.evtLog
  repeat' first
    | with_reducible assumption | with_reducible exact .refl _ _ | with_reducible apply State.evt_within
    | with_reducible apply State.emit_within

/-- What `State.alert` may write. -/
def State.alert_touch : Nat :=
  union [Part.pins.bit]

theorem State.alert_within {M : Nat} {s₀ s : State} (h : Within M s₀ s) (k : Covers M State.alert_touch) :
    Within M s₀ (State.alert s) := by
  simp only [State.alert_touch, covers_union] at k
  obtain ⟨k0, _⟩ := k
  unfold State.alert
  repeat' first | with_reducible assumption | with_reducible exact .refl _ _ | with_reducible apply within_pins

/-- What `State.assertFault` may write. -/
def State.assertFault_touch : Nat :=
  union [Part.pins.bit]

theorem State.assertFault_within {M : Nat} {s₀ s : State} (h : Within M s₀ s) (k : Covers M State.assertFault_touch) :
    Within M s₀ (State.assertFault s) := by
  simp only [State.assertFault_touch, covers_union] at k
  obtain ⟨k0, _⟩ := k
  unfold State.assertFault
  repeat' first
    | with_reducible assumption | with_reducible exact .refl _ _ | split | with_reducible apply within_pins

/-- What `State.releaseFault` may write. -/
def State.releaseFault_touch : Nat :=
  union [Part.pins.bit]

theorem State.releaseFault_within {M : Nat} {s₀ s : State} (h : Within M s₀ s)
    (k : Covers M State.releaseFault_touch) :
    Within M s₀ (State.releaseFault s) := by
  simp only [State.releaseFault_touch, covers_union] at k
  obtain ⟨k0, _⟩ := k
  unfold State.releaseFault
  repeat' first
    | with_reducible assumption | with_reducible exact .refl _ _
    | with_reducible exact may_row (by with_reducible assumption) | split | with_reducible apply within_pins

/-- What `State.recordFault` may write. -/
def State.recordFault_touch : Nat :=
  union [Row.RAS_FAULT_ISLAND.bit, Row.RAS_FAULT_KIND.bit, Row.RAS_FAULT_PEER.bit, Row.RAS_FAULT_VALID.bit]

theorem State.recordFault_within {M : Nat} {s₀ s : State} (h : Within M s₀ s) (k : Covers M State.recordFault_touch)
    (kind : Nat) (island : Nat) (peer : Nat) :
    Within M s₀ (State.recordFault s kind island peer) := by
  simp only [State.recordFault_touch, covers_union] at k
  obtain ⟨k0, k1, k2, k3, _⟩ := k
  unfold State.recordFault
  repeat' first
    | with_reducible assumption | with_reducible exact .refl _ _ | with_reducible apply State.wr_within
    | with_reducible apply State.wrb_within | with_reducible exact may_row (by with_reducible assumption) | split

/-- What `State.declareFailed` may write. -/
def State.declareFailed_touch : Nat :=
  union [Row.RAS_EVT_FAULT.bit, Row.RAS_STAT_FAILED.bit, Row.RAS_STAT_FAILED_MAP.bit, State.recordFault_touch,
    State.assertFault_touch, State.evt_touch, State.emit_touch]

theorem State.declareFailed_within {M : Nat} {s₀ s : State} (h : Within M s₀ s)
    (k : Covers M State.declareFailed_touch) (kind : Nat) (i : Nat) (peer : Nat) :
    Within M s₀ (State.declareFailed s kind i peer) := by
  simp only [State.declareFailed_touch, covers_union] at k
  obtain ⟨k0, k1, k2, k3, k4, k5, k6, _⟩ := k
  unfold State.declareFailed
  dsimp only
  repeat' first
    | with_reducible assumption | with_reducible exact .refl _ _ | with_reducible apply State.recordFault_within
    | with_reducible apply State.wr_within | with_reducible apply State.assertFault_within
    | with_reducible apply State.evt_within | with_reducible apply State.wrb_within
    | with_reducible apply State.emit_within | with_reducible exact may_row (by with_reducible assumption) | split

end Sys2Proof.Machine
end

