-- ==== Sys2Proof/Laws/WithinCapacity.lean ====
section
/-!
SUPPORT. `Within` over the operations of Machine/Capacity.lean.
-/

namespace Sys2Proof.Machine

theorem State.writeMap_within {M : Nat} {s₀ s : State} (h : Within M s₀ s) (e0 : Row) (ke0 : May M e0) (e1 : Row)
    (ke1 : May M e1) (e2 : Row) (ke2 : May M e2) (e3 : Row) (ke3 : May M e3) (w : Wing) (m : List Nat) :
    Within M s₀ (State.writeMap s e0 e1 e2 e3 w m) := by
  unfold State.writeMap
  repeat' first
    | with_reducible assumption | with_reducible exact .refl _ _ | with_reducible apply State.wr_within
    | with_reducible apply State.upTo_within | with_reducible exact may_row (by with_reducible assumption) | intro _

/-- What `State.setTxMap` may write. -/
def State.setTxMap_touch : Nat :=
  union [Row.TXW_SLOT_MAP_E0.bit, Row.TXW_SLOT_MAP_E1.bit, Row.TXW_SLOT_MAP_E2.bit, Row.TXW_SLOT_MAP_E3.bit]

theorem State.setTxMap_within {M : Nat} {s₀ s : State} (h : Within M s₀ s) (k : Covers M State.setTxMap_touch)
    (w : Wing) (m : List Nat) :
    Within M s₀ (State.setTxMap s w m) := by
  simp only [State.setTxMap_touch, covers_union] at k
  obtain ⟨k0, k1, k2, k3, _⟩ := k
  unfold State.setTxMap
  repeat' first
    | with_reducible assumption | with_reducible exact .refl _ _ | with_reducible apply State.writeMap_within
    | with_reducible exact may_row (by with_reducible assumption)

/-- What `State.setRxMap` may write. -/
def State.setRxMap_touch : Nat :=
  union [Row.RXW_SLOT_MAP_E0.bit, Row.RXW_SLOT_MAP_E1.bit, Row.RXW_SLOT_MAP_E2.bit, Row.RXW_SLOT_MAP_E3.bit]

theorem State.setRxMap_within {M : Nat} {s₀ s : State} (h : Within M s₀ s) (k : Covers M State.setRxMap_touch)
    (w : Wing) (m : List Nat) :
    Within M s₀ (State.setRxMap s w m) := by
  simp only [State.setRxMap_touch, covers_union] at k
  obtain ⟨k0, k1, k2, k3, _⟩ := k
  unfold State.setRxMap
  repeat' first
    | with_reducible assumption | with_reducible exact .refl _ _ | with_reducible apply State.writeMap_within
    | with_reducible exact may_row (by with_reducible assumption)

/-- What `State.setLineCur` may write. -/
def State.setLineCur_touch : Nat :=
  union [Row.TXW_LINE_CUR_BASE.bit, Row.TXW_LINE_CUR_BAUD.bit, Row.TXW_LINE_CUR_FEC.bit,
    Row.TXW_LINE_CUR_H_IDX.bit, Row.TXW_LINE_CUR_SLOTS.bit]

theorem State.setLineCur_within {M : Nat} {s₀ s : State} (h : Within M s₀ s) (k : Covers M State.setLineCur_touch)
    (w : Wing) (h' : Nat) (fec : Nat) (slots : Nat) :
    Within M s₀ (State.setLineCur s w h' fec slots) := by
  simp only [State.setLineCur_touch, covers_union] at k
  obtain ⟨k0, k1, k2, k3, k4, _⟩ := k
  unfold State.setLineCur
  repeat' first
    | with_reducible assumption | with_reducible exact .refl _ _ | with_reducible apply State.wr_within
    | with_reducible exact may_row (by with_reducible assumption)

/-- What `State.setRxLineCur` may write. -/
def State.setRxLineCur_touch : Nat :=
  union [Row.RXW_LINE_CUR_BASE.bit, Row.RXW_LINE_CUR_BAUD.bit, Row.RXW_LINE_CUR_FEC.bit,
    Row.RXW_LINE_CUR_H_IDX.bit, Row.RXW_LINE_CUR_SLOTS.bit]

theorem State.setRxLineCur_within {M : Nat} {s₀ s : State} (h : Within M s₀ s)
    (k : Covers M State.setRxLineCur_touch) (w : Wing) (baud : Nat) (h' : Nat) (fec : Nat) (slots : Nat) :
    Within M s₀ (State.setRxLineCur s w baud h' fec slots) := by
  simp only [State.setRxLineCur_touch, covers_union] at k
  obtain ⟨k0, k1, k2, k3, k4, _⟩ := k
  unfold State.setRxLineCur
  repeat' first
    | with_reducible assumption | with_reducible exact .refl _ _ | with_reducible apply State.wr_within
    | with_reducible exact may_row (by with_reducible assumption)

/-- What `State.showCounts` may write. -/
def State.showCounts_touch : Nat :=
  union [Row.ELC_CHAN_STAT_AT_CEIL.bit, Row.ELC_CHAN_STAT_AT_MIN.bit, Row.ELC_CHAN_STAT_SLOTS_CUR.bit,
    Row.ELC_CHAN_STAT_SLOTS_NEXT.bit]

theorem State.showCounts_within {M : Nat} {s₀ s : State} (h : Within M s₀ s) (k : Covers M State.showCounts_touch)
    (w : Wing) (cur : List Nat) (next : List Nat) :
    Within M s₀ (State.showCounts s w cur next) := by
  simp only [State.showCounts_touch, covers_union] at k
  obtain ⟨k0, k1, k2, k3, _⟩ := k
  unfold State.showCounts
  dsimp only
  repeat' first
    | with_reducible assumption | with_reducible exact .refl _ _ | with_reducible apply State.wr_within
    | with_reducible apply State.wrb_within | with_reducible apply State.upTo_within
    | with_reducible exact may_row (by with_reducible assumption) | intro _

end Sys2Proof.Machine
end

