-- ==== Sys2Proof/Laws/WithinConditions.lean ====
section
/-!
SUPPORT. `Within` over the operations of Machine/Conditions.lean.
-/

namespace Sys2Proof.Machine

/-- What `State.onTx` may write. -/
def State.onTx_touch : Nat :=
  union [Part.tx.bit]

theorem State.onTx_within {M : Nat} {s₀ s : State} (h : Within M s₀ s) (k : Covers M State.onTx_touch) (w : Wing)
    (f : TxRate → TxRate) :
    Within M s₀ (State.onTx s w f) := by
  simp only [State.onTx_touch, covers_union] at k
  obtain ⟨k0, _⟩ := k
  unfold State.onTx
  repeat' first | with_reducible assumption | with_reducible exact .refl _ _ | with_reducible apply within_tx

/-- What `State.onOtn` may write. -/
def State.onOtn_touch : Nat :=
  union [Part.otn.bit]

theorem State.onOtn_within {M : Nat} {s₀ s : State} (h : Within M s₀ s) (k : Covers M State.onOtn_touch) (w : Wing)
    (f : Otn → Otn) :
    Within M s₀ (State.onOtn s w f) := by
  simp only [State.onOtn_touch, covers_union] at k
  obtain ⟨k0, _⟩ := k
  unfold State.onOtn
  repeat' first | with_reducible assumption | with_reducible exact .refl _ _ | with_reducible apply within_otn

/-- What `State.onPm` may write. -/
def State.onPm_touch : Nat :=
  union [State.onOtn_touch]

theorem State.onPm_within {M : Nat} {s₀ s : State} (h : Within M s₀ s) (k : Covers M State.onPm_touch) (w : Wing)
    (c : Nat) (f : PmRx → PmRx) :
    Within M s₀ (State.onPm s w c f) := by
  simp only [State.onPm_touch, covers_union] at k
  obtain ⟨k0, _⟩ := k
  unfold State.onPm
  repeat' first | with_reducible assumption | with_reducible exact .refl _ _ | with_reducible apply State.onOtn_within

/-- What `State.showCand` may write. -/
def State.showCand_touch : Nat :=
  union [Row.REF_CAND_STAT_ELIGIBLE.bit, Row.REF_CAND_STAT_QL.bit, Row.REF_CAND_STAT_QL_FAILED.bit,
    Row.REF_EVT_CAND_CHANGE.bit, State.evt_touch]

theorem State.showCand_within {M : Nat} {s₀ s : State} (h : Within M s₀ s) (k : Covers M State.showCand_touch)
    (i : Nat) :
    Within M s₀ (State.showCand s i) := by
  simp only [State.showCand_touch, covers_union] at k
  obtain ⟨k0, k1, k2, k3, k4, _⟩ := k
  unfold State.showCand
  dsimp only
  repeat' first
    | with_reducible assumption | with_reducible exact .refl _ _ | with_reducible apply State.wr_within
    | with_reducible apply State.evt_within | with_reducible apply State.wrb_within
    | with_reducible exact may_row (by with_reducible assumption) | split

/-- What `State.onDpll` may write. -/
def State.onDpll_touch : Nat :=
  union [Part.dpll.bit]

theorem State.onDpll_within {M : Nat} {s₀ s : State} (h : Within M s₀ s) (k : Covers M State.onDpll_touch)
    (f : Dpll → Dpll) :
    Within M s₀ (State.onDpll s f) := by
  simp only [State.onDpll_touch, covers_union] at k
  obtain ⟨k0, _⟩ := k
  unfold State.onDpll
  repeat' first | with_reducible assumption | with_reducible exact .refl _ _ | with_reducible apply within_dpll

/-- What `State.loseCand` may write. -/
def State.loseCand_touch : Nat :=
  union [Row.REF_CAND_STAT_QUALIFIED.bit, Row.REF_CAND_STAT_WTR_RUN.bit, Row.REF_EVT_CAND_CHANGE.bit,
    State.showCand_touch, State.evt_touch, State.onDpll_touch]

theorem State.loseCand_within {M : Nat} {s₀ s : State} (h : Within M s₀ s) (k : Covers M State.loseCand_touch)
    (i : Nat) (lost : Bool) :
    Within M s₀ (State.loseCand s i lost) := by
  simp only [State.loseCand_touch, covers_union] at k
  obtain ⟨k0, k1, k2, k3, k4, k5, _⟩ := k
  unfold State.loseCand
  dsimp only
  repeat' first
    | with_reducible assumption | with_reducible exact .refl _ _ | with_reducible apply State.showCand_within
    | with_reducible apply State.evt_within | with_reducible apply State.onDpll_within
    | with_reducible apply State.wrb_within | with_reducible exact may_row (by with_reducible assumption) | intro _
    | split

/-- What `State.checkCands` may write. -/
def State.checkCands_touch : Nat :=
  union [State.loseCand_touch, State.showCand_touch]

theorem State.checkCands_within {M : Nat} {s₀ s : State} (h : Within M s₀ s) (k : Covers M State.checkCands_touch) :
    Within M s₀ (State.checkCands s) := by
  simp only [State.checkCands_touch, covers_union] at k
  obtain ⟨k0, k1, _⟩ := k
  unfold State.checkCands
  repeat' first
    | with_reducible assumption | with_reducible exact .refl _ _ | with_reducible apply State.loseCand_within
    | with_reducible apply State.showCand_within | with_reducible apply State.when_within
    | with_reducible apply State.upTo_within | intro _

/-- What `State.refreshLink` may write. -/
def State.refreshLink_touch : Nat :=
  union [Row.CLI_PORT_STAT_LINK.bit, State.checkCands_touch]

theorem State.refreshLink_within {M : Nat} {s₀ s : State} (h : Within M s₀ s) (k : Covers M State.refreshLink_touch)
    (p : Nat) :
    Within M s₀ (State.refreshLink s p) := by
  simp only [State.refreshLink_touch, covers_union] at k
  obtain ⟨k0, k1, _⟩ := k
  unfold State.refreshLink
  repeat' first
    | with_reducible assumption | with_reducible exact .refl _ _ | with_reducible apply State.checkCands_within
    | with_reducible apply State.wrb_within | with_reducible exact may_row (by with_reducible assumption)

end Sys2Proof.Machine
end

