-- ==== Sys2Proof/Laws/WithinTags.lean ====
section
/-!
SUPPORT. `Within` over the operations of Machine/Tags.lean.
-/

namespace Sys2Proof.Machine

/-- What `State.showTags` may write. -/
def State.showTags_touch : Nat :=
  union [Row.PMU_TAG_STAT_FILL.bit, Row.PMU_TAG_STAT_IN_FLIGHT.bit]

theorem State.showTags_within {M : Nat} {s₀ s : State} (h : Within M s₀ s) (k : Covers M State.showTags_touch) :
    Within M s₀ (State.showTags s) := by
  simp only [State.showTags_touch, covers_union] at k
  obtain ⟨k0, k1, _⟩ := k
  unfold State.showTags
  repeat' first
    | with_reducible assumption | with_reducible exact .refl _ _ | with_reducible apply State.wr_within
    | with_reducible exact may_row (by with_reducible assumption)

/-- What `State.drawTag` may write. -/
def State.drawTag_touch : Nat :=
  union [Row.PMU_TAG_SKIP_COUNT.bit, Part.pmu.bit, State.native_touch, State.count_touch, State.showTags_touch]

theorem State.drawTag_within {M : Nat} {s₀ s : State} (h : Within M s₀ s) (k : Covers M State.drawTag_touch)
    (ingress : Bool) (port : Nat) (chan : Nat) (cls : Nat) (len : Nat) (t0 : Nat) :
    Within M s₀ (State.drawTag s ingress port chan cls len t0).2 := by
  simp only [State.drawTag_touch, covers_union] at k
  obtain ⟨k0, k1, k2, k3, k4, _⟩ := k
  unfold State.drawTag
  dsimp only
  repeat' first
    | with_reducible assumption | with_reducible exact .refl _ _ | with_reducible apply State.native_within
    | with_reducible apply State.when_within | with_reducible apply State.count_within
    | with_reducible apply State.showTags_within | with_reducible exact may_row (by with_reducible assumption)
    | intro _ | split | with_reducible apply within_pmu

/-- What `State.onTag` may write. -/
def State.onTag_touch : Nat :=
  union [Part.pmu.bit]

theorem State.onTag_within {M : Nat} {s₀ s : State} (h : Within M s₀ s) (k : Covers M State.onTag_touch) (k' : Nat)
    (f : Tag → Tag) :
    Within M s₀ (State.onTag s k' f) := by
  simp only [State.onTag_touch, covers_union] at k
  obtain ⟨k0, _⟩ := k
  unfold State.onTag
  repeat' first
    | with_reducible assumption | with_reducible exact .refl _ _ | intro _ | split | with_reducible apply within_pmu

/-- What `State.passAt` may write. -/
def State.passAt_touch : Nat :=
  union [State.onTag_touch]

theorem State.passAt_within {M : Nat} {s₀ s : State} (h : Within M s₀ s) (k : Covers M State.passAt_touch)
    (k' : Option Nat) (point : Nat) (time : Nat) :
    Within M s₀ (State.passAt s k' point time) := by
  simp only [State.passAt_touch, covers_union] at k
  obtain ⟨k0, _⟩ := k
  unfold State.passAt
  repeat' first
    | with_reducible assumption | with_reducible exact .refl _ _ | with_reducible apply State.onTag_within | intro _
    | split

/-- What `State.passPoint` may write. -/
def State.passPoint_touch : Nat :=
  union [State.onTag_touch]

theorem State.passPoint_within {M : Nat} {s₀ s : State} (h : Within M s₀ s) (k : Covers M State.passPoint_touch)
    (k' : Option Nat) (point : Nat) :
    Within M s₀ (State.passPoint s k' point) := by
  simp only [State.passPoint_touch, covers_union] at k
  obtain ⟨k0, _⟩ := k
  unfold State.passPoint
  repeat' first
    | with_reducible assumption | with_reducible exact .refl _ _ | with_reducible apply State.onTag_within | intro _
    | split

/-- What `State.passWithin` may write. -/
def State.passWithin_touch : Nat :=
  union [Part.free.bit, State.onTag_touch]

theorem State.passWithin_within {M : Nat} {s₀ s : State} (h : Within M s₀ s) (k : Covers M State.passWithin_touch)
    (k' : Option Nat) (point : Nat) (bound : Nat) :
    Within M s₀ (State.passWithin s k' point bound) := by
  simp only [State.passWithin_touch, covers_union] at k
  obtain ⟨k0, k1, _⟩ := k
  unfold State.passWithin
  dsimp only
  repeat' first
    | with_reducible assumption | with_reducible exact .refl _ _ | with_reducible apply State.fresh_within
    | with_reducible apply State.onTag_within | intro _ | split

/-- What `State.histSee` may write. -/
def State.histSee_touch : Nat :=
  union [Row.PMU_HIST_BIN_COUNT.bit, Row.PMU_HIST_OVER_COUNT.bit, Row.PMU_HIST_UNDER_COUNT.bit, State.count_touch]

theorem State.histSee_within {M : Nat} {s₀ s : State} (h : Within M s₀ s) (k : Covers M State.histSee_touch)
    (t : Tag) (h' : Nat) :
    Within M s₀ (State.histSee s t h') := by
  simp only [State.histSee_touch, covers_union] at k
  obtain ⟨k0, k1, k2, k3, _⟩ := k
  unfold State.histSee
  dsimp only
  repeat' first
    | with_reducible assumption | with_reducible exact .refl _ _ | with_reducible apply State.count_within
    | with_reducible exact may_row (by with_reducible assumption) | split

/-- What `State.pushTag` may write. -/
def State.pushTag_touch : Nat :=
  union [Row.PMU_TAG_LOST_COUNT.bit, Part.pmu.bit, State.count_touch]

theorem State.pushTag_within {M : Nat} {s₀ s : State} (h : Within M s₀ s) (k : Covers M State.pushTag_touch)
    (t : Tag) (dropped : Bool) :
    Within M s₀ (State.pushTag s t dropped) := by
  simp only [State.pushTag_touch, covers_union] at k
  obtain ⟨k0, k1, k2, _⟩ := k
  unfold State.pushTag
  repeat' first
    | with_reducible assumption | with_reducible exact .refl _ _ | with_reducible apply State.when_within
    | with_reducible apply State.count_within | with_reducible exact may_row (by with_reducible assumption) | intro _
    | split | with_reducible apply within_pmu

/-- What `State.notifyTags` may write. -/
def State.notifyTags_touch : Nat :=
  union [Row.PMU_EVT_TAG_READY.bit, State.evt_touch]

theorem State.notifyTags_within {M : Nat} {s₀ s : State} (h : Within M s₀ s) (k : Covers M State.notifyTags_touch) :
    Within M s₀ (State.notifyTags s) := by
  simp only [State.notifyTags_touch, covers_union] at k
  obtain ⟨k0, k1, _⟩ := k
  unfold State.notifyTags
  repeat' first
    | with_reducible assumption | with_reducible exact .refl _ _ | with_reducible apply State.evt_within
    | with_reducible exact may_row (by with_reducible assumption) | split

/-- What `State.dropTag` may write. -/
def State.dropTag_touch : Nat :=
  union [Part.pmu.bit]

theorem State.dropTag_within {M : Nat} {s₀ s : State} (h : Within M s₀ s) (k : Covers M State.dropTag_touch)
    (k' : Nat) :
    Within M s₀ (State.dropTag s k') := by
  simp only [State.dropTag_touch, covers_union] at k
  obtain ⟨k0, _⟩ := k
  unfold State.dropTag
  repeat' first
    | with_reducible assumption | with_reducible exact .refl _ _ | intro _ | with_reducible apply within_pmu

/-- What `State.releaseTag` may write. -/
def State.releaseTag_touch : Nat :=
  union [State.pushTag_touch, State.notifyTags_touch, State.dropTag_touch, State.showTags_touch,
    State.histSee_touch]

theorem State.releaseTag_within {M : Nat} {s₀ s : State} (h : Within M s₀ s) (k : Covers M State.releaseTag_touch)
    (k' : Option Nat) (dropped : Bool) :
    Within M s₀ (State.releaseTag s k' dropped) := by
  simp only [State.releaseTag_touch, covers_union] at k
  obtain ⟨k0, k1, k2, k3, k4, _⟩ := k
  unfold State.releaseTag
  repeat' first
    | with_reducible assumption | with_reducible exact .refl _ _ | with_reducible apply State.pushTag_within
    | with_reducible apply State.notifyTags_within | with_reducible apply State.dropTag_within
    | with_reducible apply State.showTags_within | with_reducible apply State.upTo_within
    | with_reducible apply State.histSee_within | intro _ | split

end Sys2Proof.Machine
end

