-- ==== Sys2Proof/Laws/WithinQueues.lean ====
section
/-!
SUPPORT. `Within` over the operations of Machine/Queues.lean.
-/

namespace Sys2Proof.Machine

theorem State.wrQ_within {M : Nat} {s₀ s : State} (h : Within M s₀ s) (e : Row) (ke : May M e) (i : Row)
    (ki : May M i) (q : Nat) (v : Nat) :
    Within M s₀ (State.wrQ s e i q v) := by
  unfold State.wrQ
  repeat' first
    | with_reducible assumption | with_reducible exact .refl _ _ | with_reducible apply State.wr_within
    | with_reducible exact may_row (by with_reducible assumption) | split

/-- What `State.countQ` may write. -/
def State.countQ_touch : Nat :=
  union [State.count_touch]

theorem State.countQ_within {M : Nat} {s₀ s : State} (h : Within M s₀ s) (k : Covers M State.countQ_touch) (e : Row)
    (ke : May M e) (i : Row) (ki : May M i) (q : Nat) :
    Within M s₀ (State.countQ s e i q) := by
  simp only [State.countQ_touch, covers_union] at k
  obtain ⟨k0, _⟩ := k
  unfold State.countQ
  repeat' first
    | with_reducible assumption | with_reducible exact .refl _ _ | with_reducible apply State.count_within
    | with_reducible exact may_row (by with_reducible assumption) | split

/-- What `State.setQueue` may write. -/
def State.setQueue_touch : Nat :=
  union [Row.PAN_EQ_OCC_CELLS.bit, Row.PAN_IQ_OCC_CELLS.bit, Part.pan.bit]

theorem State.setQueue_within {M : Nat} {s₀ s : State} (h : Within M s₀ s) (k : Covers M State.setQueue_touch)
    (q : Nat) (fs : List Queued) :
    Within M s₀ (State.setQueue s q fs) := by
  simp only [State.setQueue_touch, covers_union] at k
  obtain ⟨k0, k1, k2, _⟩ := k
  unfold State.setQueue
  repeat' first
    | with_reducible assumption | with_reducible exact .refl _ _ | with_reducible apply State.wrQ_within
    | with_reducible exact may_row (by with_reducible assumption) | with_reducible apply within_pan

/-- What `State.countDrop` may write. -/
def State.countDrop_touch : Nat :=
  union [Row.PAN_DROP_CNT_COUNT.bit, Row.PAN_EQ_DROPS_COUNT.bit, Row.PAN_IQ_DROPS_COUNT.bit, State.native_touch,
    State.countQ_touch, State.count_touch]

theorem State.countDrop_within {M : Nat} {s₀ s : State} (h : Within M s₀ s) (k : Covers M State.countDrop_touch)
    (q : Nat) (reason : Nat) :
    Within M s₀ (State.countDrop s q reason) := by
  simp only [State.countDrop_touch, covers_union] at k
  obtain ⟨k0, k1, k2, k3, k4, k5, _⟩ := k
  unfold State.countDrop
  repeat' first
    | with_reducible assumption | with_reducible exact .refl _ _ | with_reducible apply State.native_within
    | with_reducible apply State.countQ_within | with_reducible apply State.count_within
    | with_reducible exact may_row (by with_reducible assumption)

/-- What `State.drawCells` may write. -/
def State.drawCells_touch : Nat :=
  union [Row.PAN_PART_USE_USED.bit, Row.PAN_SHARED_FREE.bit]

theorem State.drawCells_within {M : Nat} {s₀ s : State} (h : Within M s₀ s) (k : Covers M State.drawCells_touch)
    (q : Nat) (n : Nat) (a0 : CellSource) :
    Within M s₀ (State.drawCells s q n a0) := by
  simp only [State.drawCells_touch, covers_union] at k
  obtain ⟨k0, k1, _⟩ := k
  unfold State.drawCells
  repeat' first
    | with_reducible assumption | with_reducible exact .refl _ _ | with_reducible apply State.wr_within
    | with_reducible exact may_row (by with_reducible assumption) | split

/-- What `State.freeCells` may write. -/
def State.freeCells_touch : Nat :=
  union [Row.PAN_PART_USE_USED.bit, Row.PAN_SHARED_FREE.bit]

theorem State.freeCells_within {M : Nat} {s₀ s : State} (h : Within M s₀ s) (k : Covers M State.freeCells_touch)
    (q : Nat) (n : Nat) (a0 : CellSource) :
    Within M s₀ (State.freeCells s q n a0) := by
  simp only [State.freeCells_touch, covers_union] at k
  obtain ⟨k0, k1, _⟩ := k
  unfold State.freeCells
  repeat' first
    | with_reducible assumption | with_reducible exact .refl _ _ | with_reducible apply State.wr_within
    | with_reducible exact may_row (by with_reducible assumption) | split

/-- What `State.showDesc` may write. -/
def State.showDesc_touch : Nat :=
  union [Row.PAN_DESC_FREE_FREE.bit]

theorem State.showDesc_within {M : Nat} {s₀ s : State} (h : Within M s₀ s) (k : Covers M State.showDesc_touch) :
    Within M s₀ (State.showDesc s) := by
  simp only [State.showDesc_touch, covers_union] at k
  obtain ⟨k0, _⟩ := k
  unfold State.showDesc
  dsimp only
  repeat' first
    | with_reducible assumption | with_reducible exact .refl _ _ | with_reducible apply State.wr_within
    | with_reducible exact may_row (by with_reducible assumption)

/-- What `State.moveDesc` may write. -/
def State.moveDesc_touch : Nat :=
  union [Part.pan.bit, State.showDesc_touch]

theorem State.moveDesc_within {M : Nat} {s₀ s : State} (h : Within M s₀ s) (k : Covers M State.moveDesc_touch)
    (q : Nat) (fromReserve : Bool) (d : Nat → Nat) :
    Within M s₀ (State.moveDesc s q fromReserve d) := by
  simp only [State.moveDesc_touch, covers_union] at k
  obtain ⟨k0, k1, _⟩ := k
  unfold State.moveDesc
  dsimp only
  repeat' first
    | with_reducible assumption | with_reducible exact .refl _ _ | with_reducible apply State.showDesc_within | split
    | with_reducible apply within_pan

/-- What `State.headTag` may write. -/
def State.headTag_touch : Nat :=
  union [Part.sched.bit]

theorem State.headTag_within {M : Nat} {s₀ s : State} (h : Within M s₀ s) (k : Covers M State.headTag_touch)
    (q : Nat) (start : Nat) :
    Within M s₀ (State.headTag s q start) := by
  simp only [State.headTag_touch, covers_union] at k
  obtain ⟨k0, _⟩ := k
  unfold State.headTag
  dsimp only
  repeat' first
    | with_reducible assumption | with_reducible exact .refl _ _ | split | with_reducible apply within_sched

/-- What `State.restGroup` may write. -/
def State.restGroup_touch : Nat :=
  union [Part.sched.bit]

theorem State.restGroup_within {M : Nat} {s₀ s : State} (h : Within M s₀ s) (k : Covers M State.restGroup_touch)
    (q : Nat) :
    Within M s₀ (State.restGroup s q) := by
  simp only [State.restGroup_touch, covers_union] at k
  obtain ⟨k0, _⟩ := k
  unfold State.restGroup
  dsimp only
  repeat' first
    | with_reducible assumption | with_reducible exact .refl _ _ | with_reducible apply within_foldl | intro _
    | split | with_reducible apply within_sched

/-- What `State.clearTags` may write. -/
def State.clearTags_touch : Nat :=
  union [Part.sched.bit]

theorem State.clearTags_within {M : Nat} {s₀ s : State} (h : Within M s₀ s) (k : Covers M State.clearTags_touch)
    (inst : Nat) :
    Within M s₀ (State.clearTags s inst) := by
  simp only [State.clearTags_touch, covers_union] at k
  obtain ⟨k0, _⟩ := k
  unfold State.clearTags
  repeat' first
    | with_reducible assumption | with_reducible exact .refl _ _ | with_reducible apply State.upTo_within | intro _
    | with_reducible apply within_sched

/-- What `State.setTokens` may write. -/
def State.setTokens_touch : Nat :=
  union [Part.sched.bit]

theorem State.setTokens_within {M : Nat} {s₀ s : State} (h : Within M s₀ s) (k : Covers M State.setTokens_touch)
    (q : Nat) (t : Int) :
    Within M s₀ (State.setTokens s q t) := by
  simp only [State.setTokens_touch, covers_union] at k
  obtain ⟨k0, _⟩ := k
  unfold State.setTokens
  repeat' first | with_reducible assumption | with_reducible exact .refl _ _ | with_reducible apply within_sched

/-- What `State.fillTokens` may write. -/
def State.fillTokens_touch : Nat :=
  union [Part.sched.bit]

theorem State.fillTokens_within {M : Nat} {s₀ s : State} (h : Within M s₀ s) (k : Covers M State.fillTokens_touch)
    (q : Nat) :
    Within M s₀ (State.fillTokens s q) := by
  simp only [State.fillTokens_touch, covers_union] at k
  obtain ⟨k0, _⟩ := k
  unfold State.fillTokens
  repeat' first | with_reducible assumption | with_reducible exact .refl _ _ | with_reducible apply within_sched

/-- What `State.tokensOnChange` may write. -/
def State.tokensOnChange_touch : Nat :=
  union [State.setTokens_touch, State.fillTokens_touch]

theorem State.tokensOnChange_within {M : Nat} {s₀ s : State} (h : Within M s₀ s)
    (k : Covers M State.tokensOnChange_touch) (q : Nat) :
    Within M s₀ (State.tokensOnChange s q) := by
  simp only [State.tokensOnChange_touch, covers_union] at k
  obtain ⟨k0, k1, _⟩ := k
  unfold State.tokensOnChange
  repeat' first
    | with_reducible assumption | with_reducible exact .refl _ _ | with_reducible apply State.setTokens_within
    | with_reducible apply State.fillTokens_within | with_reducible exact may_row (by with_reducible assumption)
    | split

/-- What `State.takeGateEn` may write. -/
def State.takeGateEn_touch : Nat :=
  union [Part.sched.bit]

theorem State.takeGateEn_within {M : Nat} {s₀ s : State} (h : Within M s₀ s) (k : Covers M State.takeGateEn_touch)
    (ch : Nat) :
    Within M s₀ (State.takeGateEn s ch) := by
  simp only [State.takeGateEn_touch, covers_union] at k
  obtain ⟨k0, _⟩ := k
  unfold State.takeGateEn
  repeat' first
    | with_reducible assumption | with_reducible exact .refl _ _
    | with_reducible exact may_row (by with_reducible assumption) | split | with_reducible apply within_sched

/-- What `State.reguard` may write. -/
def State.reguard_touch : Nat :=
  union [Row.SCH_EQ_GUARD_CUR_G.bit, Row.SCH_EVT_GUARD_STARVE.bit, State.evt_touch]

theorem State.reguard_within {M : Nat} {s₀ s : State} (h : Within M s₀ s) (k : Covers M State.reguard_touch)
    (ch : Nat) :
    Within M s₀ (State.reguard s ch) := by
  simp only [State.reguard_touch, covers_union] at k
  obtain ⟨k0, k1, k2, _⟩ := k
  unfold State.reguard
  dsimp only
  repeat' first
    | with_reducible assumption | with_reducible exact .refl _ _ | with_reducible apply State.wr_within
    | with_reducible apply State.evt_within | with_reducible apply State.when_within
    | with_reducible apply State.upTo_within | with_reducible exact may_row (by with_reducible assumption) | intro _

/-- What `State.setXoff` may write. -/
def State.setXoff_touch : Nat :=
  union [Row.CLI_PORT_STAT_XOFF.bit, Part.pan.bit]

theorem State.setXoff_within {M : Nat} {s₀ s : State} (h : Within M s₀ s) (k : Covers M State.setXoff_touch)
    (p : Nat) (c : Nat) (off : Bool) :
    Within M s₀ (State.setXoff s p c off) := by
  simp only [State.setXoff_touch, covers_union] at k
  obtain ⟨k0, k1, _⟩ := k
  unfold State.setXoff
  dsimp only
  repeat' first
    | with_reducible assumption | with_reducible exact .refl _ _ | with_reducible apply State.bit_within
    | with_reducible apply State.when_within | with_reducible exact may_row (by with_reducible assumption) | intro _
    | split | with_reducible apply within_pan

/-- What `State.watchClass` may write. -/
def State.watchClass_touch : Nat :=
  union [State.setXoff_touch]

theorem State.watchClass_within {M : Nat} {s₀ s : State} (h : Within M s₀ s) (k : Covers M State.watchClass_touch)
    (p : Nat) (c : Nat) (rise : Bool) :
    Within M s₀ (State.watchClass s p c rise) := by
  simp only [State.watchClass_touch, covers_union] at k
  obtain ⟨k0, _⟩ := k
  unfold State.watchClass
  dsimp only
  repeat' first
    | with_reducible assumption | with_reducible exact .refl _ _ | with_reducible apply State.setXoff_within
    | with_reducible exact may_row (by with_reducible assumption) | split

/-- What `State.watch` may write. -/
def State.watch_touch : Nat :=
  union [State.watchClass_touch]

theorem State.watch_within {M : Nat} {s₀ s : State} (h : Within M s₀ s) (k : Covers M State.watch_touch) (q : Nat)
    (rise : Bool) :
    Within M s₀ (State.watch s q rise) := by
  simp only [State.watch_touch, covers_union] at k
  obtain ⟨k0, _⟩ := k
  unfold State.watch
  repeat' first
    | with_reducible assumption | with_reducible exact .refl _ _ | with_reducible apply State.watchClass_within
    | split

/-- What `State.enqueue` may write. -/
def State.enqueue_touch : Nat :=
  union [State.setQueue_touch, State.native_touch, State.watch_touch, State.headTag_touch]

theorem State.enqueue_within {M : Nat} {s₀ s : State} (h : Within M s₀ s) (k : Covers M State.enqueue_touch)
    (q : Nat) (x : Queued) :
    Within M s₀ (State.enqueue s q x) := by
  simp only [State.enqueue_touch, covers_union] at k
  obtain ⟨k0, k1, k2, k3, _⟩ := k
  unfold State.enqueue
  dsimp only
  repeat' first
    | with_reducible assumption | with_reducible exact .refl _ _ | with_reducible apply State.setQueue_within
    | with_reducible apply State.native_within | with_reducible apply State.watch_within
    | with_reducible apply State.when_within | with_reducible apply State.headTag_within | intro _

/-- What `State.releaseFrame` may write. -/
def State.releaseFrame_touch : Nat :=
  union [Part.pan.bit, State.freeCells_touch, State.moveDesc_touch]

theorem State.releaseFrame_within {M : Nat} {s₀ s : State} (h : Within M s₀ s)
    (k : Covers M State.releaseFrame_touch) (q : Nat) (x : Queued) :
    Within M s₀ (State.releaseFrame s q x) := by
  simp only [State.releaseFrame_touch, covers_union] at k
  obtain ⟨k0, k1, k2, _⟩ := k
  unfold State.releaseFrame
  dsimp only
  repeat' first
    | with_reducible assumption | with_reducible exact .refl _ _ | with_reducible apply State.freeCells_within
    | with_reducible apply State.moveDesc_within | intro _ | split | with_reducible apply within_pan

/-- What `State.pop` may write. -/
def State.pop_touch : Nat :=
  union [State.setQueue_touch, State.watch_touch, State.restGroup_touch, State.releaseFrame_touch,
    State.headTag_touch]

theorem State.pop_within {M : Nat} {s₀ s : State} (h : Within M s₀ s) (k : Covers M State.pop_touch) (q : Nat) :
    Within M s₀ (State.pop s q) := by
  simp only [State.pop_touch, covers_union] at k
  obtain ⟨k0, k1, k2, k3, k4, _⟩ := k
  unfold State.pop
  repeat' first
    | with_reducible assumption | with_reducible exact .refl _ _ | with_reducible apply State.setQueue_within
    | with_reducible apply State.watch_within | with_reducible apply State.restGroup_within
    | with_reducible apply State.releaseFrame_within | with_reducible apply State.headTag_within | split

/-- What `State.dropFrame` may write. -/
def State.dropFrame_touch : Nat :=
  union [State.releaseTag_touch, State.countDrop_touch, State.releaseFrame_touch]

theorem State.dropFrame_within {M : Nat} {s₀ s : State} (h : Within M s₀ s) (k : Covers M State.dropFrame_touch)
    (q : Nat) (reason : Nat) (x : Queued) :
    Within M s₀ (State.dropFrame s q reason x) := by
  simp only [State.dropFrame_touch, covers_union] at k
  obtain ⟨k0, k1, k2, _⟩ := k
  unfold State.dropFrame
  repeat' first
    | with_reducible assumption | with_reducible exact .refl _ _ | with_reducible apply State.releaseTag_within
    | with_reducible apply State.countDrop_within | with_reducible apply State.releaseFrame_within

/-- What `State.flushQueue` may write. -/
def State.flushQueue_touch : Nat :=
  union [State.dropFrame_touch, State.setQueue_touch, State.watch_touch, State.restGroup_touch]

theorem State.flushQueue_within {M : Nat} {s₀ s : State} (h : Within M s₀ s) (k : Covers M State.flushQueue_touch)
    (q : Nat) :
    Within M s₀ (State.flushQueue s q) := by
  simp only [State.flushQueue_touch, covers_union] at k
  obtain ⟨k0, k1, k2, k3, _⟩ := k
  unfold State.flushQueue
  dsimp only
  repeat' first
    | with_reducible assumption | with_reducible exact .refl _ _ | with_reducible apply State.dropFrame_within
    | with_reducible apply State.setQueue_within | with_reducible apply State.watch_within
    | with_reducible apply State.restGroup_within | with_reducible apply within_foldl | intro _ | split

/-- What `State.flushInst` may write. -/
def State.flushInst_touch : Nat :=
  union [State.flushQueue_touch]

theorem State.flushInst_within {M : Nat} {s₀ s : State} (h : Within M s₀ s) (k : Covers M State.flushInst_touch)
    (inst : Nat) :
    Within M s₀ (State.flushInst s inst) := by
  simp only [State.flushInst_touch, covers_union] at k
  obtain ⟨k0, _⟩ := k
  unfold State.flushInst
  repeat' first
    | with_reducible assumption | with_reducible exact .refl _ _ | with_reducible apply State.flushQueue_within
    | with_reducible apply State.upTo_within | intro _

/-- What `State.enableInst` may write. -/
def State.enableInst_touch : Nat :=
  union [State.clearTags_touch, State.fillTokens_touch]

theorem State.enableInst_within {M : Nat} {s₀ s : State} (h : Within M s₀ s) (k : Covers M State.enableInst_touch)
    (inst : Nat) :
    Within M s₀ (State.enableInst s inst) := by
  simp only [State.enableInst_touch, covers_union] at k
  obtain ⟨k0, k1, _⟩ := k
  unfold State.enableInst
  repeat' first
    | with_reducible assumption | with_reducible exact .refl _ _ | with_reducible apply State.clearTags_within
    | with_reducible apply State.fillTokens_within | with_reducible apply State.upTo_within | intro _

/-- What `State.accrueSlots` may write. -/
def State.accrueSlots_touch : Nat :=
  union [Part.sched.bit]

theorem State.accrueSlots_within {M : Nat} {s₀ s : State} (h : Within M s₀ s) (k : Covers M State.accrueSlots_touch)
    (ch : Nat) :
    Within M s₀ (State.accrueSlots s ch) := by
  simp only [State.accrueSlots_touch, covers_union] at k
  obtain ⟨k0, _⟩ := k
  unfold State.accrueSlots
  dsimp only
  repeat' first | with_reducible assumption | with_reducible exact .refl _ _ | with_reducible apply within_sched

/-- What `State.showCtx` may write. -/
def State.showCtx_touch : Nat :=
  union [Row.CIP_CTX_STAT_USED.bit, Row.CIP_PIPE_STAT_ACTIVE.bit, Row.CIP_PIPE_STAT_SUSPENDED.bit]

theorem State.showCtx_within {M : Nat} {s₀ s : State} (h : Within M s₀ s) (k : Covers M State.showCtx_touch) :
    Within M s₀ (State.showCtx s) := by
  simp only [State.showCtx_touch, covers_union] at k
  obtain ⟨k0, k1, k2, _⟩ := k
  unfold State.showCtx
  dsimp only
  repeat' first
    | with_reducible assumption | with_reducible exact .refl _ _ | with_reducible apply State.wr_within
    | with_reducible exact may_row (by with_reducible assumption)

/-- What `State.onCip` may write. -/
def State.onCip_touch : Nat :=
  union [Part.cip.bit]

theorem State.onCip_within {M : Nat} {s₀ s : State} (h : Within M s₀ s) (k : Covers M State.onCip_touch)
    (f : Cipher → Cipher) :
    Within M s₀ (State.onCip s f) := by
  simp only [State.onCip_touch, covers_union] at k
  obtain ⟨k0, _⟩ := k
  unfold State.onCip
  repeat' first | with_reducible assumption | with_reducible exact .refl _ _ | with_reducible apply within_cip

/-- What `State.setPipe` may write. -/
def State.setPipe_touch : Nat :=
  union [State.onCip_touch]

theorem State.setPipe_within {M : Nat} {s₀ s : State} (h : Within M s₀ s) (k : Covers M State.setPipe_touch)
    (p : Nat) (x : Pipe) :
    Within M s₀ (State.setPipe s p x) := by
  simp only [State.setPipe_touch, covers_union] at k
  obtain ⟨k0, _⟩ := k
  unfold State.setPipe
  repeat' first | with_reducible assumption | with_reducible exact .refl _ _ | with_reducible apply State.onCip_within

/-- What `State.feed` may write. -/
def State.feed_touch : Nat :=
  union [State.setPipe_touch, State.onCip_touch]

theorem State.feed_within {M : Nat} {s₀ s : State} (h : Within M s₀ s) (k : Covers M State.feed_touch) (p : Nat) :
    Within M s₀ (State.feed s p) := by
  simp only [State.feed_touch, covers_union] at k
  obtain ⟨k0, k1, _⟩ := k
  unfold State.feed
  repeat' first
    | with_reducible assumption | with_reducible exact .refl _ _ | with_reducible apply State.setPipe_within
    | with_reducible apply State.onCip_within | intro _ | split

/-- What `State.feedAll` may write. -/
def State.feedAll_touch : Nat :=
  union [State.feed_touch, State.showCtx_touch]

theorem State.feedAll_within {M : Nat} {s₀ s : State} (h : Within M s₀ s) (k : Covers M State.feedAll_touch) :
    Within M s₀ (State.feedAll s) := by
  simp only [State.feedAll_touch, covers_union] at k
  obtain ⟨k0, k1, _⟩ := k
  unfold State.feedAll
  repeat' first
    | with_reducible assumption | with_reducible exact .refl _ _ | with_reducible apply State.feed_within
    | with_reducible apply State.upTo_within | with_reducible apply State.showCtx_within | intro _

/-- What `State.closeCtx` may write. -/
def State.closeCtx_touch : Nat :=
  union [Part.cip.bit, State.feedAll_touch]

theorem State.closeCtx_within {M : Nat} {s₀ s : State} (h : Within M s₀ s) (k : Covers M State.closeCtx_touch)
    (gone : Context → Bool) :
    Within M s₀ (State.closeCtx s gone) := by
  simp only [State.closeCtx_touch, covers_union] at k
  obtain ⟨k0, k1, _⟩ := k
  unfold State.closeCtx
  dsimp only
  repeat' first
    | with_reducible assumption | with_reducible exact .refl _ _ | with_reducible apply State.feedAll_within
    | intro _ | split | with_reducible apply within_cip

/-- What `State.unbox` may write. -/
def State.unbox_touch : Nat :=
  union [State.onOtn_touch]

theorem State.unbox_within {M : Nat} {s₀ s : State} (h : Within M s₀ s) (k : Covers M State.unbox_touch) (ch : Nat) :
    Within M s₀ (State.unbox s ch) := by
  simp only [State.unbox_touch, covers_union] at k
  obtain ⟨k0, _⟩ := k
  unfold State.unbox
  dsimp only
  repeat' first | with_reducible assumption | with_reducible exact .refl _ _ | with_reducible apply State.onOtn_within

/-- What `State.abandonSegment` may write. -/
def State.abandonSegment_touch : Nat :=
  union [State.closeCtx_touch, State.unbox_touch]

theorem State.abandonSegment_within {M : Nat} {s₀ s : State} (h : Within M s₀ s)
    (k : Covers M State.abandonSegment_touch) (ch : Nat) :
    Within M s₀ (State.abandonSegment s ch) := by
  simp only [State.abandonSegment_touch, covers_union] at k
  obtain ⟨k0, k1, _⟩ := k
  unfold State.abandonSegment
  repeat' first
    | with_reducible assumption | with_reducible exact .refl _ _ | with_reducible apply State.closeCtx_within
    | with_reducible apply State.unbox_within | intro _ | split

/-- What `State.retime` may write. -/
def State.retime_touch : Nat :=
  union [Part.sched.bit]

theorem State.retime_within {M : Nat} {s₀ s : State} (h : Within M s₀ s) (k : Covers M State.retime_touch)
    (ch : Nat) (slots : Nat) :
    Within M s₀ (State.retime s ch slots) := by
  simp only [State.retime_touch, covers_union] at k
  obtain ⟨k0, _⟩ := k
  unfold State.retime
  dsimp only
  repeat' first
    | with_reducible assumption | with_reducible exact .refl _ _ | split | with_reducible apply within_sched

/-- What `State.setDrain` may write. -/
def State.setDrain_touch : Nat :=
  union [Row.SCH_CH_RATE_SLOTS.bit, State.reguard_touch, State.abandonSegment_touch, State.setTokens_touch,
    State.accrueSlots_touch, State.retime_touch]

theorem State.setDrain_within {M : Nat} {s₀ s : State} (h : Within M s₀ s) (k : Covers M State.setDrain_touch)
    (ch : Nat) (slots : Nat) :
    Within M s₀ (State.setDrain s ch slots) := by
  simp only [State.setDrain_touch, covers_union] at k
  obtain ⟨k0, k1, k2, k3, k4, k5, _⟩ := k
  unfold State.setDrain
  dsimp only
  repeat' first
    | with_reducible assumption | with_reducible exact .refl _ _ | with_reducible apply State.reguard_within
    | with_reducible apply State.wr_within | with_reducible apply State.abandonSegment_within
    | with_reducible apply State.setTokens_within | with_reducible apply State.accrueSlots_within
    | with_reducible apply State.when_within | with_reducible apply State.upTo_within
    | with_reducible apply State.retime_within | with_reducible exact may_row (by with_reducible assumption)
    | intro _ | split

/-- What `State.applyDrain` may write. -/
def State.applyDrain_touch : Nat :=
  union [Part.tx.bit, State.setDrain_touch, State.flushInst_touch, State.enableInst_touch]

theorem State.applyDrain_within {M : Nat} {s₀ s : State} (h : Within M s₀ s) (k : Covers M State.applyDrain_touch)
    (w : Wing) (counts : List Nat) (enabled : Nat) :
    Within M s₀ (State.applyDrain s w counts enabled) := by
  simp only [State.applyDrain_touch, covers_union] at k
  obtain ⟨k0, k1, k2, k3, _⟩ := k
  unfold State.applyDrain
  dsimp only
  repeat' first
    | with_reducible assumption | with_reducible exact .refl _ _ | with_reducible apply State.setDrain_within
    | with_reducible apply State.when_within | with_reducible apply State.upTo_within
    | with_reducible apply State.flushInst_within | with_reducible apply State.enableInst_within | intro _ | split
    | with_reducible apply within_tx

end Sys2Proof.Machine
end

