-- ==== Sys2Proof/Laws/WithinMemory.lean ====
section
/-!
SUPPORT. `Within` over the operations of Machine/Memory.lean.
-/

namespace Sys2Proof.Machine

/-- What `State.injectAt` may write. -/
def State.injectAt_touch : Nat :=
  union [Row.RAS_INJ_ARMED.bit, Part.ras.bit]

theorem State.injectAt_within {M : Nat} {s₀ s : State} (h : Within M s₀ s) (k : Covers M State.injectAt_touch)
    (l : MemLine) :
    Within M s₀ (State.injectAt s l) := by
  simp only [State.injectAt_touch, covers_union] at k
  obtain ⟨k0, k1, _⟩ := k
  unfold State.injectAt
  dsimp only
  repeat' first
    | with_reducible assumption | with_reducible exact .refl _ _ | with_reducible apply State.wrb_within
    | with_reducible exact may_row (by with_reducible assumption) | split | with_reducible apply within_ras

/-- What `State.memWrite` may write. -/
def State.memWrite_touch : Nat :=
  union [Part.ras.bit, State.injectAt_touch]

theorem State.memWrite_within {M : Nat} {s₀ s : State} (h : Within M s₀ s) (k : Covers M State.memWrite_touch)
    (m : Fin 6) (n : Nat) :
    Within M s₀ (State.memWrite s m n).2 := by
  simp only [State.memWrite_touch, covers_union] at k
  obtain ⟨k0, k1, _⟩ := k
  unfold State.memWrite
  dsimp only
  repeat' first
    | with_reducible assumption | with_reducible exact .refl _ _ | with_reducible apply State.injectAt_within
    | with_reducible apply within_ras

/-- What `State.tapsWrite` may write. -/
def State.tapsWrite_touch : Nat :=
  union [State.memWrite_touch]

theorem State.tapsWrite_within {M : Nat} {s₀ s : State} (h : Within M s₀ s) (k : Covers M State.tapsWrite_touch)
    (m : Fin 6) :
    Within M s₀ (State.tapsWrite s m) := by
  simp only [State.tapsWrite_touch, covers_union] at k
  obtain ⟨k0, _⟩ := k
  unfold State.tapsWrite
  repeat' first
    | with_reducible assumption | with_reducible exact .refl _ _ | with_reducible apply State.memWrite_within

/-- What `State.slotWrite` may write. -/
def State.slotWrite_touch : Nat :=
  union [Part.ras.bit, State.injectAt_touch]

theorem State.slotWrite_within {M : Nat} {s₀ s : State} (h : Within M s₀ s) (k : Covers M State.slotWrite_touch)
    (slot : Nat) :
    Within M s₀ (State.slotWrite s slot) := by
  simp only [State.slotWrite_touch, covers_union] at k
  obtain ⟨k0, k1, _⟩ := k
  unfold State.slotWrite
  dsimp only
  repeat' first
    | with_reducible assumption | with_reducible exact .refl _ _ | with_reducible apply State.injectAt_within
    | intro _ | with_reducible apply within_ras

/-- What `State.healed` may write. -/
def State.healed_touch : Nat :=
  union [Part.ras.bit]

theorem State.healed_within {M : Nat} {s₀ s : State} (h : Within M s₀ s) (k : Covers M State.healed_touch)
    (l : MemLine) :
    Within M s₀ (State.healed s l) := by
  simp only [State.healed_touch, covers_union] at k
  obtain ⟨k0, _⟩ := k
  unfold State.healed
  repeat' first
    | with_reducible assumption | with_reducible exact .refl _ _ | intro _ | with_reducible apply within_ras

/-- What `State.lastError` may write. -/
def State.lastError_touch : Nat :=
  union [Row.RAS_MEM_LAST_BANK.bit, Row.RAS_MEM_LAST_LINE.bit, Row.RAS_MEM_LAST_TYPE.bit]

theorem State.lastError_within {M : Nat} {s₀ s : State} (h : Within M s₀ s) (k : Covers M State.lastError_touch)
    (l : MemLine) (type : Nat) :
    Within M s₀ (State.lastError s l type) := by
  simp only [State.lastError_touch, covers_union] at k
  obtain ⟨k0, k1, k2, _⟩ := k
  unfold State.lastError
  repeat' first
    | with_reducible assumption | with_reducible exact .refl _ _ | with_reducible apply State.wr_within
    | with_reducible exact may_row (by with_reducible assumption)

/-- What `State.remap` may write. -/
def State.remap_touch : Nat :=
  union [Row.RAS_EVT_REMAP.bit, Row.RAS_EVT_REMAP_FULL.bit, Row.RAS_MEM_REMAP_BANKS_FULL.bit,
    Row.RAS_MEM_REMAP_USED.bit, Part.ras.bit, State.evtLog_touch, State.evt_touch]

theorem State.remap_within {M : Nat} {s₀ s : State} (h : Within M s₀ s) (k : Covers M State.remap_touch)
    (l : MemLine) :
    Within M s₀ (State.remap s l) := by
  simp only [State.remap_touch, covers_union] at k
  obtain ⟨k0, k1, k2, k3, k4, k5, k6, _⟩ := k
  unfold State.remap
  dsimp only
  repeat' first
    | with_reducible assumption | with_reducible exact .refl _ _ | with_reducible apply State.evtLog_within
    | with_reducible apply State.wr_within | with_reducible apply State.evt_within
    | with_reducible exact may_row (by with_reducible assumption) | intro _ | split | with_reducible apply within_ras

/-- What `State.correct` may write. -/
def State.correct_touch : Nat :=
  union [Row.RAS_MEM_CE_COUNT.bit, Part.ras.bit, State.lastError_touch, State.healed_touch, State.count_touch,
    State.remap_touch]

theorem State.correct_within {M : Nat} {s₀ s : State} (h : Within M s₀ s) (k : Covers M State.correct_touch)
    (l : MemLine) :
    Within M s₀ (State.correct s l) := by
  simp only [State.correct_touch, covers_union] at k
  obtain ⟨k0, k1, k2, k3, k4, k5, _⟩ := k
  unfold State.correct
  dsimp only
  repeat' first
    | with_reducible assumption | with_reducible exact .refl _ _ | with_reducible apply State.lastError_within
    | with_reducible apply State.healed_within | with_reducible apply State.when_within
    | with_reducible apply State.count_within | with_reducible apply State.remap_within
    | with_reducible exact may_row (by with_reducible assumption) | intro _ | with_reducible apply within_ras

/-- What `State.uncorrectable` may write. -/
def State.uncorrectable_touch : Nat :=
  union [Row.RAS_MEM_UE_COUNT.bit, State.lastError_touch, State.healed_touch, State.count_touch]

theorem State.uncorrectable_within {M : Nat} {s₀ s : State} (h : Within M s₀ s)
    (k : Covers M State.uncorrectable_touch) (l : MemLine) :
    Within M s₀ (State.uncorrectable s l) := by
  simp only [State.uncorrectable_touch, covers_union] at k
  obtain ⟨k0, k1, k2, k3, _⟩ := k
  unfold State.uncorrectable
  repeat' first
    | with_reducible assumption | with_reducible exact .refl _ _ | with_reducible apply State.lastError_within
    | with_reducible apply State.healed_within | with_reducible apply State.count_within
    | with_reducible exact may_row (by with_reducible assumption)

/-- What `State.ueControl` may write. -/
def State.ueControl_touch : Nat :=
  union [Row.RAS_EVT_UE_CTL.bit, State.recordFault_touch, State.evt_touch, State.uncorrectable_touch,
    State.emit_touch]

theorem State.ueControl_within {M : Nat} {s₀ s : State} (h : Within M s₀ s) (k : Covers M State.ueControl_touch)
    (l : MemLine) :
    Within M s₀ (State.ueControl s l) := by
  simp only [State.ueControl_touch, covers_union] at k
  obtain ⟨k0, k1, k2, k3, k4, _⟩ := k
  unfold State.ueControl
  dsimp only
  repeat' first
    | with_reducible assumption | with_reducible exact .refl _ _ | with_reducible apply State.recordFault_within
    | with_reducible apply State.evt_within | with_reducible apply State.uncorrectable_within
    | with_reducible apply State.emit_within | with_reducible exact may_row (by with_reducible assumption)

/-- What `State.flushDamaged` may write. -/
def State.flushDamaged_touch : Nat :=
  union [Part.ras.bit, State.dropFrame_touch, State.setQueue_touch, State.releaseTag_touch, State.watch_touch,
    State.restGroup_touch, State.countDrop_touch]

theorem State.flushDamaged_within {M : Nat} {s₀ s : State} (h : Within M s₀ s)
    (k : Covers M State.flushDamaged_touch) (q : Nat) (place : Nat) :
    Within M s₀ (State.flushDamaged s q place) := by
  simp only [State.flushDamaged_touch, covers_union] at k
  obtain ⟨k0, k1, k2, k3, k4, k5, k6, _⟩ := k
  unfold State.flushDamaged
  dsimp only
  repeat' first
    | with_reducible assumption | with_reducible exact .refl _ _ | with_reducible apply State.dropFrame_within
    | with_reducible apply State.setQueue_within | with_reducible apply State.releaseTag_within
    | with_reducible apply State.watch_within | with_reducible apply State.restGroup_within
    | with_reducible apply State.countDrop_within | with_reducible apply within_foldl | intro _
    | with_reducible apply within_ras

/-- What `State.auditDone` may write. -/
def State.auditDone_touch : Nat :=
  union [Part.ras.bit, State.releaseFrame_touch]

theorem State.auditDone_within {M : Nat} {s₀ s : State} (h : Within M s₀ s) (k : Covers M State.auditDone_touch) :
    Within M s₀ (State.auditDone s) := by
  simp only [State.auditDone_touch, covers_union] at k
  obtain ⟨k0, k1, _⟩ := k
  unfold State.auditDone
  repeat' first
    | with_reducible assumption | with_reducible exact .refl _ _ | with_reducible apply State.releaseFrame_within
    | with_reducible apply within_foldl | intro _ | with_reducible apply within_ras

/-- What `State.openCtx` may write. -/
def State.openCtx_touch : Nat :=
  union [Row.CIP_CTX_STAT_FULL.bit, State.countWrap_touch, State.feedAll_touch, State.memWrite_touch,
    State.onCip_touch]

theorem State.openCtx_within {M : Nat} {s₀ s : State} (h : Within M s₀ s) (k : Covers M State.openCtx_touch)
    (ch : Nat) (slot : Nat) :
    Within M s₀ (State.openCtx s ch slot) := by
  simp only [State.openCtx_touch, covers_union] at k
  obtain ⟨k0, k1, k2, k3, k4, _⟩ := k
  unfold State.openCtx
  dsimp only
  repeat' first
    | with_reducible assumption | with_reducible exact .refl _ _ | with_reducible apply State.countWrap_within
    | with_reducible apply State.feedAll_within | with_reducible apply State.memWrite_within
    | with_reducible apply State.when_within | with_reducible apply State.onCip_within
    | with_reducible exact may_row (by with_reducible assumption) | intro _

/-- What `State.rxOpen` may write. -/
def State.rxOpen_touch : Nat :=
  union [State.openCtx_touch]

theorem State.rxOpen_within {M : Nat} {s₀ s : State} (h : Within M s₀ s) (k : Covers M State.rxOpen_touch)
    (ch : Nat) :
    Within M s₀ (State.rxOpen s ch) := by
  simp only [State.rxOpen_touch, covers_union] at k
  obtain ⟨k0, _⟩ := k
  unfold State.rxOpen
  dsimp only
  repeat' first
    | with_reducible assumption | with_reducible exact .refl _ _ | with_reducible apply State.openCtx_within
    | with_reducible exact may_row (by with_reducible assumption) | split

/-- What `State.rxClose` may write. -/
def State.rxClose_touch : Nat :=
  union [State.closeCtx_touch, State.native_touch]

theorem State.rxClose_within {M : Nat} {s₀ s : State} (h : Within M s₀ s) (k : Covers M State.rxClose_touch)
    (ch : Nat) :
    Within M s₀ (State.rxClose s ch) := by
  simp only [State.rxClose_touch, covers_union] at k
  obtain ⟨k0, k1, _⟩ := k
  unfold State.rxClose
  repeat' first
    | with_reducible assumption | with_reducible exact .refl _ _ | with_reducible apply State.closeCtx_within
    | with_reducible apply State.native_within | intro _ | split

/-- What `State.verifyQueue` may write. -/
def State.verifyQueue_touch : Nat :=
  union [State.passPoint_touch, State.setQueue_touch]

theorem State.verifyQueue_within {M : Nat} {s₀ s : State} (h : Within M s₀ s) (k : Covers M State.verifyQueue_touch)
    (id : Nat) (q : Nat) :
    Within M s₀ (State.verifyQueue s id q) := by
  simp only [State.verifyQueue_touch, covers_union] at k
  obtain ⟨k0, k1, _⟩ := k
  unfold State.verifyQueue
  dsimp only
  repeat' first
    | with_reducible assumption | with_reducible exact .refl _ _ | with_reducible apply State.passPoint_within
    | with_reducible apply State.setQueue_within | with_reducible apply within_foldl | intro _

/-- What `State.failQueue` may write. -/
def State.failQueue_touch : Nat :=
  union [State.setQueue_touch, State.releaseTag_touch, State.watch_touch, State.restGroup_touch,
    State.releaseFrame_touch]

theorem State.failQueue_within {M : Nat} {s₀ s : State} (h : Within M s₀ s) (k : Covers M State.failQueue_touch)
    (id : Nat) (q : Nat) :
    Within M s₀ (State.failQueue s id q) := by
  simp only [State.failQueue_touch, covers_union] at k
  obtain ⟨k0, k1, k2, k3, k4, _⟩ := k
  unfold State.failQueue
  dsimp only
  repeat' first
    | with_reducible assumption | with_reducible exact .refl _ _ | with_reducible apply State.setQueue_within
    | with_reducible apply State.releaseTag_within | with_reducible apply State.watch_within
    | with_reducible apply State.restGroup_within | with_reducible apply State.releaseFrame_within
    | with_reducible apply within_foldl | intro _

/-- What `State.endSegment` may write. -/
def State.endSegment_touch : Nat :=
  union [State.rxClose_touch, State.verifyQueue_touch, State.failQueue_touch, State.onCip_touch]

theorem State.endSegment_within {M : Nat} {s₀ s : State} (h : Within M s₀ s) (k : Covers M State.endSegment_touch)
    (ch : Nat) (ok : Bool) :
    Within M s₀ (State.endSegment s ch ok) := by
  simp only [State.endSegment_touch, covers_union] at k
  obtain ⟨k0, k1, k2, k3, _⟩ := k
  unfold State.endSegment
  dsimp only
  repeat' first
    | with_reducible assumption | with_reducible exact .refl _ _ | with_reducible apply State.rxClose_within
    | with_reducible apply State.verifyQueue_within | with_reducible apply State.failQueue_within
    | with_reducible apply State.onCip_within | with_reducible apply within_foldl | intro _ | split

/-- What `State.rxAbandon` may write. -/
def State.rxAbandon_touch : Nat :=
  union [Row.CIP_NO_KEY_COUNT.bit, State.count_touch, State.endSegment_touch]

theorem State.rxAbandon_within {M : Nat} {s₀ s : State} (h : Within M s₀ s) (k : Covers M State.rxAbandon_touch)
    (ch : Nat) :
    Within M s₀ (State.rxAbandon s ch) := by
  simp only [State.rxAbandon_touch, covers_union] at k
  obtain ⟨k0, k1, k2, _⟩ := k
  unfold State.rxAbandon
  repeat' first
    | with_reducible assumption | with_reducible exact .refl _ _ | with_reducible apply State.when_within
    | with_reducible apply State.count_within | with_reducible apply State.endSegment_within
    | with_reducible exact may_row (by with_reducible assumption) | intro _ | split

/-- What `State.spoil` may write. -/
def State.spoil_touch : Nat :=
  union [Row.CIP_NO_KEY_COUNT.bit, State.closeCtx_touch, State.count_touch, State.onCip_touch]

theorem State.spoil_within {M : Nat} {s₀ s : State} (h : Within M s₀ s) (k : Covers M State.spoil_touch)
    (gone : Context → Bool) :
    Within M s₀ (State.spoil s gone) := by
  simp only [State.spoil_touch, covers_union] at k
  obtain ⟨k0, k1, k2, k3, _⟩ := k
  unfold State.spoil
  dsimp only
  repeat' first
    | with_reducible assumption | with_reducible exact .refl _ _ | with_reducible apply State.closeCtx_within
    | with_reducible apply State.count_within | with_reducible apply State.onCip_within
    | with_reducible apply within_foldl | with_reducible exact may_row (by with_reducible assumption) | intro _

end Sys2Proof.Machine
end

