-- ==== Sys2Proof/Laws/WithinClients.lean ====
section
/-!
SUPPORT. `Within` over the operations of Machine/Clients.lean.
-/

namespace Sys2Proof.Machine

/-- What `State.police` may write. -/
def State.police_touch : Nat :=
  union [Part.pan.bit]

theorem State.police_within {M : Nat} {s₀ s : State} (h : Within M s₀ s) (k : Covers M State.police_touch) (p : Nat)
    (c : Nat) (len : Nat) :
    Within M s₀ (State.police s p c len).2 := by
  simp only [State.police_touch, covers_union] at k
  obtain ⟨k0, _⟩ := k
  unfold State.police
  dsimp only
  repeat' first
    | with_reducible assumption | with_reducible exact .refl _ _
    | with_reducible exact may_row (by with_reducible assumption) | split | with_reducible apply within_pan

/-- What `State.refillPolicer` may write. -/
def State.refillPolicer_touch : Nat :=
  union [Part.pan.bit]

theorem State.refillPolicer_within {M : Nat} {s₀ s : State} (h : Within M s₀ s)
    (k : Covers M State.refillPolicer_touch) (p : Nat) (c : Nat) :
    Within M s₀ (State.refillPolicer s p c) := by
  simp only [State.refillPolicer_touch, covers_union] at k
  obtain ⟨k0, _⟩ := k
  unfold State.refillPolicer
  repeat' first | with_reducible assumption | with_reducible exact .refl _ _ | with_reducible apply within_pan

/-- What `State.refuseFrame` may write. -/
def State.refuseFrame_touch : Nat :=
  union [State.releaseTag_touch, State.countDrop_touch]

theorem State.refuseFrame_within {M : Nat} {s₀ s : State} (h : Within M s₀ s) (k : Covers M State.refuseFrame_touch)
    (q : Nat) (reason : Nat) (tag : Option Nat) :
    Within M s₀ (State.refuseFrame s q reason tag) := by
  simp only [State.refuseFrame_touch, covers_union] at k
  obtain ⟨k0, k1, _⟩ := k
  unfold State.refuseFrame
  repeat' first
    | with_reducible assumption | with_reducible exact .refl _ _ | with_reducible apply State.releaseTag_within
    | with_reducible apply State.countDrop_within

/-- What `State.admitFrame` may write. -/
def State.admitFrame_touch : Nat :=
  union [State.passPoint_touch, State.enqueue_touch, State.refuseFrame_touch, State.drawCells_touch,
    State.memWrite_touch, State.moveDesc_touch]

theorem State.admitFrame_within {M : Nat} {s₀ s : State} (h : Within M s₀ s) (k : Covers M State.admitFrame_touch)
    (q : Nat) (f : Frame) (yellow : Bool) (waits : List Nat) (tag : Option Nat) :
    Within M s₀ (State.admitFrame s q f yellow waits tag) := by
  simp only [State.admitFrame_touch, covers_union] at k
  obtain ⟨k0, k1, k2, k3, k4, k5, _⟩ := k
  unfold State.admitFrame
  dsimp only
  repeat' first
    | with_reducible assumption | with_reducible exact .refl _ _ | with_reducible apply State.passPoint_within
    | with_reducible apply State.enqueue_within | with_reducible apply State.refuseFrame_within
    | with_reducible apply State.drawCells_within | with_reducible apply State.memWrite_within
    | with_reducible apply State.when_within | with_reducible apply State.moveDesc_within | intro _ | split

/-- What `State.enterCopy` may write. -/
def State.enterCopy_touch : Nat :=
  union [Part.pan.bit, State.passPoint_touch, State.enqueue_touch, State.drawCells_touch, State.memWrite_touch,
    State.moveDesc_touch]

theorem State.enterCopy_within {M : Nat} {s₀ s : State} (h : Within M s₀ s) (k : Covers M State.enterCopy_touch)
    (q : Nat) (f : Frame) (d : Bool) (src : CellSource) (b : Nat) (tag : Option Nat) :
    Within M s₀ (State.enterCopy s q f d src b tag) := by
  simp only [State.enterCopy_touch, covers_union] at k
  obtain ⟨k0, k1, k2, k3, k4, k5, _⟩ := k
  unfold State.enterCopy
  dsimp only
  repeat' first
    | with_reducible assumption | with_reducible exact .refl _ _ | with_reducible apply State.passPoint_within
    | with_reducible apply State.enqueue_within | with_reducible apply State.drawCells_within
    | with_reducible apply State.memWrite_within | with_reducible apply State.moveDesc_within | intro _ | split
    | with_reducible apply within_pan

/-- What `State.admitBridged` may write. -/
def State.admitBridged_touch : Nat :=
  union [Row.HAL_PG_DROP_DROP.bit, Part.pan.bit, State.releaseTag_touch, State.refuseFrame_touch,
    State.count_touch, State.enterCopy_touch]

theorem State.admitBridged_within {M : Nat} {s₀ s : State} (h : Within M s₀ s)
    (k : Covers M State.admitBridged_touch) (g : Nat) (f : Frame) (c : Nat) (yellow : Bool) (tag : Option Nat) :
    Within M s₀ (State.admitBridged s g f c yellow tag) := by
  simp only [State.admitBridged_touch, covers_union] at k
  obtain ⟨k0, k1, k2, k3, k4, k5, _⟩ := k
  unfold State.admitBridged
  dsimp only
  repeat' first
    | with_reducible assumption | with_reducible exact .refl _ _ | with_reducible apply State.releaseTag_within
    | with_reducible apply State.refuseFrame_within | with_reducible apply State.count_within
    | with_reducible apply State.enterCopy_within | with_reducible exact may_row (by with_reducible assumption)
    | split | with_reducible apply within_pan

/-- What `State.macCount` may write. -/
def State.macCount_touch : Nat :=
  union [Row.CLI_RX_FCS_ERR_COUNT.bit, Row.CLI_RX_FRAMES_COUNT.bit, Row.CLI_RX_OVERSIZE_COUNT.bit,
    Row.CLI_RX_RUNT_COUNT.bit, State.count_touch]

theorem State.macCount_within {M : Nat} {s₀ s : State} (h : Within M s₀ s) (k : Covers M State.macCount_touch)
    (p : Nat) (len : Nat) (fcsOk : Bool) :
    Within M s₀ (State.macCount s p len fcsOk) := by
  simp only [State.macCount_touch, covers_union] at k
  obtain ⟨k0, k1, k2, k3, k4, _⟩ := k
  unfold State.macCount
  repeat' first
    | with_reducible assumption | with_reducible exact .refl _ _ | with_reducible apply State.when_within
    | with_reducible apply State.count_within | with_reducible exact may_row (by with_reducible assumption) | intro _

/-- What `State.macConsume` may write. -/
def State.macConsume_touch : Nat :=
  union [State.macCount_touch]

theorem State.macConsume_within {M : Nat} {s₀ s : State} (h : Within M s₀ s) (k : Covers M State.macConsume_touch)
    (p : Nat) (len : Nat) (fcsOk : Bool) (act : State → State) (hf : ∀ t : State, Within M t (act t)) :
    Within M s₀ (State.macConsume s p len fcsOk act) := by
  simp only [State.macConsume_touch, covers_union] at k
  obtain ⟨k0, _⟩ := k
  unfold State.macConsume
  dsimp only
  repeat' first
    | with_reducible assumption | with_reducible exact .refl _ _ | with_reducible apply State.macCount_within | split
    | with_reducible refine Within.trans ?_ (hf _)

/-- What `State.forwardEgress` may write. -/
def State.forwardEgress_touch : Nat :=
  union [State.passPoint_touch, State.releaseTag_touch, State.refuseFrame_touch, State.admitFrame_touch,
    State.admitBridged_touch]

theorem State.forwardEgress_within {M : Nat} {s₀ s : State} (h : Within M s₀ s)
    (k : Covers M State.forwardEgress_touch) (p : Nat) (c : Nat) (f : Frame) (yellow : Bool) (tag : Option Nat) :
    Within M s₀ (State.forwardEgress s p c f yellow tag) := by
  simp only [State.forwardEgress_touch, covers_union] at k
  obtain ⟨k0, k1, k2, k3, k4, _⟩ := k
  unfold State.forwardEgress
  repeat' first
    | with_reducible assumption | with_reducible exact .refl _ _ | with_reducible apply State.passPoint_within
    | with_reducible apply State.releaseTag_within | with_reducible apply State.refuseFrame_within
    | with_reducible apply State.admitFrame_within | with_reducible apply State.admitBridged_within
    | with_reducible exact may_row (by with_reducible assumption) | split

/-- What `State.policedFrame` may write. -/
def State.policedFrame_touch : Nat :=
  union [Row.CLI_POL_RED_COUNT.bit, Row.CLI_POL_YELLOW_COUNT.bit, Row.CLI_RX_NOMAP_COUNT.bit,
    State.forwardEgress_touch, State.releaseTag_touch, State.refuseFrame_touch, State.drawTag_touch,
    State.police_touch, State.count_touch]

theorem State.policedFrame_within {M : Nat} {s₀ s : State} (h : Within M s₀ s)
    (k : Covers M State.policedFrame_touch) (p : Nat) (c : Nat) (f : Frame) :
    Within M s₀ (State.policedFrame s p c f) := by
  simp only [State.policedFrame_touch, covers_union] at k
  obtain ⟨k0, k1, k2, k3, k4, k5, k6, k7, k8, _⟩ := k
  unfold State.policedFrame
  dsimp only
  repeat' first
    | with_reducible assumption | with_reducible exact .refl _ _ | with_reducible apply State.forwardEgress_within
    | with_reducible apply State.releaseTag_within | with_reducible apply State.refuseFrame_within
    | with_reducible apply State.drawTag_within | with_reducible apply State.police_within
    | with_reducible apply State.when_within | with_reducible apply State.count_within
    | with_reducible exact may_row (by with_reducible assumption) | intro _ | split

/-- What `State.clientFrame` may write. -/
def State.clientFrame_touch : Nat :=
  union [Row.CLI_RX_MACCTL_COUNT.bit, State.macConsume_touch, State.macCount_touch, State.policedFrame_touch,
    State.count_touch]

theorem State.clientFrame_within {M : Nat} {s₀ s : State} (h : Within M s₀ s) (k : Covers M State.clientFrame_touch)
    (p : Nat) (f : Frame) (macControl : Bool) :
    Within M s₀ (State.clientFrame s p f macControl) := by
  simp only [State.clientFrame_touch, covers_union] at k
  obtain ⟨k0, k1, k2, k3, k4, _⟩ := k
  unfold State.clientFrame
  dsimp only
  repeat' first
    | with_reducible assumption | with_reducible exact .refl _ _ | with_reducible apply State.macConsume_within
    | with_reducible apply State.macCount_within | with_reducible apply State.policedFrame_within
    | with_reducible apply State.count_within | with_reducible exact may_row (by with_reducible assumption) | intro _
    | split

/-- What `State.sendPfc` may write. -/
def State.sendPfc_touch : Nat :=
  union [Row.CLI_PFC_TX_COUNT.bit, Row.CLI_PORT_STAT_XOFF.bit, Part.pan.bit, State.native_touch, State.say_touch,
    State.count_touch]

theorem State.sendPfc_within {M : Nat} {s₀ s : State} (h : Within M s₀ s) (k : Covers M State.sendPfc_touch)
    (p : Nat) :
    Within M s₀ (State.sendPfc s p) := by
  simp only [State.sendPfc_touch, covers_union] at k
  obtain ⟨k0, k1, k2, k3, k4, k5, _⟩ := k
  unfold State.sendPfc
  dsimp only
  repeat' first
    | with_reducible assumption | with_reducible exact .refl _ _ | with_reducible apply State.native_within
    | with_reducible apply State.wr_within | with_reducible apply State.say_within
    | with_reducible apply State.when_within | with_reducible apply State.count_within
    | with_reducible apply State.upTo_within | with_reducible exact may_row (by with_reducible assumption) | intro _
    | split | with_reducible apply within_pan

/-- What `execPfcFrameTx` may write. -/
def execPfcFrameTx_touch : Nat :=
  union [State.sendPfc_touch, State.begin_touch]

theorem execPfcFrameTx_within {M : Nat} (s : State) (k : Covers M execPfcFrameTx_touch) (port : Fin 32) :
    Answered M s (execPfcFrameTx port s) := by
  simp only [execPfcFrameTx_touch, covers_union] at k
  obtain ⟨k0, k1, _⟩ := k
  unfold execPfcFrameTx
  repeat' first
    | apply answered_next | with_reducible assumption | with_reducible exact .refl _ _
    | with_reducible apply State.sendPfc_within | with_reducible apply State.begin_within

/-- What `State.repeatXoff` may write. -/
def State.repeatXoff_touch : Nat :=
  union [Part.pan.bit]

theorem State.repeatXoff_within {M : Nat} {s₀ s : State} (h : Within M s₀ s) (k : Covers M State.repeatXoff_touch)
    (p : Nat) (c : Nat) :
    Within M s₀ (State.repeatXoff s p c) := by
  simp only [State.repeatXoff_touch, covers_union] at k
  obtain ⟨k0, _⟩ := k
  unfold State.repeatXoff
  repeat' first
    | with_reducible assumption | with_reducible exact .refl _ _
    | with_reducible exact may_row (by with_reducible assumption) | split | with_reducible apply within_pan

/-- What `execPfcXoffRepeat` may write. -/
def execPfcXoffRepeat_touch : Nat :=
  union [State.repeatXoff_touch, State.begin_touch]

theorem execPfcXoffRepeat_within {M : Nat} (s : State) (k : Covers M execPfcXoffRepeat_touch) (port : Fin 32)
    (cls : Fin 8) :
    Answered M s (execPfcXoffRepeat port cls s) := by
  simp only [execPfcXoffRepeat_touch, covers_union] at k
  obtain ⟨k0, k1, _⟩ := k
  unfold execPfcXoffRepeat
  repeat' first
    | apply answered_next | with_reducible assumption | with_reducible exact .refl _ _
    | with_reducible apply State.repeatXoff_within | with_reducible apply State.begin_within

/-- What `State.pauseClass` may write. -/
def State.pauseClass_touch : Nat :=
  union [Row.CLI_PORT_STAT_PAUSED.bit, State.native_touch]

theorem State.pauseClass_within {M : Nat} {s₀ s : State} (h : Within M s₀ s) (k : Covers M State.pauseClass_touch)
    (p : Nat) (vector : Nat) (times : List Nat) (c : Nat) :
    Within M s₀ (State.pauseClass s p vector times c) := by
  simp only [State.pauseClass_touch, covers_union] at k
  obtain ⟨k0, k1, _⟩ := k
  unfold State.pauseClass
  repeat' first
    | with_reducible assumption | with_reducible exact .refl _ _ | with_reducible apply State.unbit_within
    | with_reducible apply State.native_within | with_reducible apply State.bit_within
    | with_reducible exact may_row (by with_reducible assumption) | split

/-- What `execPfcRx` may write. -/
def execPfcRx_touch : Nat :=
  union [Row.CLI_PFC_RX_COUNT.bit, State.macConsume_touch, State.pauseClass_touch, State.begin_touch,
    State.count_touch]

theorem execPfcRx_within {M : Nat} (s : State) (k : Covers M execPfcRx_touch) (port : Fin 32) (len : Nat)
    (fcsOk : Bool) (vector : Nat) (times : List Nat) :
    Answered M s (execPfcRx port len fcsOk vector times s) := by
  simp only [execPfcRx_touch, covers_union] at k
  obtain ⟨k0, k1, k2, k3, k4, _⟩ := k
  unfold execPfcRx
  repeat' first
    | apply answered_next | with_reducible assumption | with_reducible exact .refl _ _
    | with_reducible apply State.macConsume_within | with_reducible apply State.pauseClass_within
    | with_reducible apply State.begin_within | with_reducible apply State.count_within
    | with_reducible apply State.upTo_within | with_reducible exact may_row (by with_reducible assumption) | intro _

/-- What `execPfcPauseExpiry` may write. -/
def execPfcPauseExpiry_touch : Nat :=
  union [Row.CLI_PORT_STAT_PAUSED.bit, State.begin_touch]

theorem execPfcPauseExpiry_within {M : Nat} (s : State) (k : Covers M execPfcPauseExpiry_touch) (port : Fin 32)
    (cls : Fin 8) :
    Answered M s (execPfcPauseExpiry port cls s) := by
  simp only [execPfcPauseExpiry_touch, covers_union] at k
  obtain ⟨k0, k1, _⟩ := k
  unfold execPfcPauseExpiry
  repeat' first
    | apply answered_next | with_reducible assumption | with_reducible exact .refl _ _
    | with_reducible apply State.unbit_within | with_reducible apply State.begin_within
    | with_reducible exact may_row (by with_reducible assumption)

/-- What `State.portLink` may write. -/
def State.portLink_touch : Nat :=
  union [Row.CLI_PORT_STAT_LF_RX.bit, Row.CLI_PORT_STAT_RF_RX.bit, Part.pan.bit, State.refreshLink_touch]

theorem State.portLink_within {M : Nat} {s₀ s : State} (h : Within M s₀ s) (k : Covers M State.portLink_touch)
    (p : Nat) (pcs : Bool) (lf : Bool) (rf : Bool) :
    Within M s₀ (State.portLink s p pcs lf rf) := by
  simp only [State.portLink_touch, covers_union] at k
  obtain ⟨k0, k1, k2, k3, _⟩ := k
  unfold State.portLink
  dsimp only
  repeat' first
    | with_reducible assumption | with_reducible exact .refl _ _ | with_reducible apply State.refreshLink_within
    | with_reducible apply State.wrb_within | with_reducible exact may_row (by with_reducible assumption) | split
    | with_reducible apply within_pan

/-- What `execPortLinkChange` may write. -/
def execPortLinkChange_touch : Nat :=
  union [State.portLink_touch, State.begin_touch]

theorem execPortLinkChange_within {M : Nat} (s : State) (k : Covers M execPortLinkChange_touch) (port : Fin 32)
    (pcsAligned : Bool) (lf : Bool) (rf : Bool) :
    Answered M s (execPortLinkChange port pcsAligned lf rf s) := by
  simp only [execPortLinkChange_touch, covers_union] at k
  obtain ⟨k0, k1, _⟩ := k
  unfold execPortLinkChange
  repeat' first
    | apply answered_next | with_reducible assumption | with_reducible exact .refl _ _
    | with_reducible apply State.portLink_within | with_reducible apply State.begin_within

/-- What `State.checkTest` may write. -/
def State.checkTest_touch : Nat :=
  union [Row.HAL_TPC_ERR_PAY_ERR.bit, Row.HAL_TPC_ERR_SEQ_GAP.bit, Row.HAL_TPC_FRAMES_COUNT.bit, Part.pan.bit,
    State.count_touch]

theorem State.checkTest_within {M : Nat} {s₀ s : State} (h : Within M s₀ s) (k : Covers M State.checkTest_touch)
    (atPort : Bool) (place : Nat) (f : Frame) :
    Within M s₀ (State.checkTest s atPort place f) := by
  simp only [State.checkTest_touch, covers_union] at k
  obtain ⟨k0, k1, k2, k3, k4, _⟩ := k
  unfold State.checkTest
  dsimp only
  repeat' first
    | with_reducible assumption | with_reducible exact .refl _ _ | with_reducible apply State.when_within
    | with_reducible apply State.count_within | with_reducible exact may_row (by with_reducible assumption) | intro _
    | split | with_reducible apply within_pan

/-- What `State.generate` may write. -/
def State.generate_touch : Nat :=
  union [Part.pan.bit, State.admitFrame_touch]

theorem State.generate_within {M : Nat} {s₀ s : State} (h : Within M s₀ s) (k : Covers M State.generate_touch) :
    Within M s₀ (State.generate s) := by
  simp only [State.generate_touch, covers_union] at k
  obtain ⟨k0, k1, _⟩ := k
  unfold State.generate
  dsimp only
  repeat' first
    | with_reducible assumption | with_reducible exact .refl _ _ | with_reducible apply State.admitFrame_within
    | with_reducible exact may_row (by with_reducible assumption) | split | with_reducible apply within_pan

/-- What `execTpgFrame` may write. -/
def execTpgFrame_touch : Nat :=
  union [State.generate_touch, State.begin_touch]

theorem execTpgFrame_within {M : Nat} (s : State) (k : Covers M execTpgFrame_touch) :
    Answered M s (execTpgFrame s) := by
  simp only [execTpgFrame_touch, covers_union] at k
  obtain ⟨k0, k1, _⟩ := k
  unfold execTpgFrame
  repeat' first
    | apply answered_next | with_reducible assumption | with_reducible exact .refl _ _
    | with_reducible apply State.generate_within | with_reducible apply State.begin_within

/-- What `State.passEight` may write. -/
def State.passEight_touch : Nat :=
  union [State.passPoint_touch, State.passWithin_touch]

theorem State.passEight_within {M : Nat} {s₀ s : State} (h : Within M s₀ s) (k : Covers M State.passEight_touch)
    (k' : Option Nat) (first : Bool) :
    Within M s₀ (State.passEight s k' first) := by
  simp only [State.passEight_touch, covers_union] at k
  obtain ⟨k0, k1, _⟩ := k
  unfold State.passEight
  repeat' first
    | with_reducible assumption | with_reducible exact .refl _ _ | with_reducible apply State.passPoint_within
    | with_reducible apply State.passWithin_within | split

/-- What `State.deliver` may write. -/
def State.deliver_touch : Nat :=
  union [State.passAt_touch, State.admitFrame_touch, State.drawTag_touch, State.passEight_touch,
    State.passWithin_touch]

theorem State.deliver_within {M : Nat} {s₀ s : State} (h : Within M s₀ s) (k : Covers M State.deliver_touch)
    (w : Wing) (ch : Nat) (f : Frame) (waits : List Nat) (from_ : FirstByte) :
    Within M s₀ (State.deliver s w ch f waits from_) := by
  simp only [State.deliver_touch, covers_union] at k
  obtain ⟨k0, k1, k2, k3, k4, _⟩ := k
  unfold State.deliver
  dsimp only
  repeat' first
    | with_reducible assumption | with_reducible exact .refl _ _ | with_reducible apply State.passAt_within
    | with_reducible apply State.admitFrame_within | with_reducible apply State.drawTag_within
    | with_reducible apply State.when_within | with_reducible apply State.passEight_within
    | with_reducible apply State.passWithin_within | with_reducible exact may_row (by with_reducible assumption)
    | intro _ | split

/-- What `State.cutFrame` may write. -/
def State.cutFrame_touch : Nat :=
  union [Row.OHD_PMC_DEMAP_ERR_COUNT.bit, State.onPm_touch, State.count_touch]

theorem State.cutFrame_within {M : Nat} {s₀ s : State} (h : Within M s₀ s) (k : Covers M State.cutFrame_touch)
    (w : Wing) (c : Nat) :
    Within M s₀ (State.cutFrame s w c) := by
  simp only [State.cutFrame_touch, covers_union] at k
  obtain ⟨k0, k1, k2, _⟩ := k
  unfold State.cutFrame
  repeat' first
    | with_reducible assumption | with_reducible exact .refl _ _ | with_reducible apply State.onPm_within
    | with_reducible apply State.count_within | with_reducible exact may_row (by with_reducible assumption) | intro _
    | split

/-- What `State.demap` may write. -/
def State.demap_touch : Nat :=
  union [Row.OHD_PMC_DEMAP_ERR_COUNT.bit, State.cutFrame_touch, State.checkTest_touch, State.deliver_touch,
    State.rxOpen_touch, State.count_touch]

theorem State.demap_within {M : Nat} {s₀ s : State} (h : Within M s₀ s) (k : Covers M State.demap_touch) (w : Wing)
    (c : Nat) (f : Frame) (later : Nat) (cut : Bool) (from_ : FirstByte) :
    Within M s₀ (State.demap s w c f later cut from_) := by
  simp only [State.demap_touch, covers_union] at k
  obtain ⟨k0, k1, k2, k3, k4, k5, _⟩ := k
  unfold State.demap
  dsimp only
  repeat' first
    | with_reducible assumption | with_reducible exact .refl _ _ | with_reducible apply State.cutFrame_within
    | with_reducible apply State.checkTest_within | with_reducible apply State.deliver_within
    | with_reducible apply State.rxOpen_within | with_reducible apply State.when_within
    | with_reducible apply State.count_within | with_reducible exact may_row (by with_reducible assumption) | intro _
    | split

/-- What `execLineFrameDemap` may write. -/
def execLineFrameDemap_touch : Nat :=
  union [State.begin_touch, State.demap_touch]

theorem execLineFrameDemap_within {M : Nat} (s : State) (k : Covers M execLineFrameDemap_touch) (w : Wing)
    (ch : Fin 32) (f : Frame) (later : Fin 64) (cut : Bool) (from_ : FirstByte) :
    Answered M s (execLineFrameDemap w ch f later cut from_ s) := by
  simp only [execLineFrameDemap_touch, covers_union] at k
  obtain ⟨k0, k1, _⟩ := k
  unfold execLineFrameDemap
  repeat' first
    | apply answered_next | with_reducible assumption | with_reducible exact .refl _ _
    | with_reducible apply State.begin_within | with_reducible apply State.demap_within

end Sys2Proof.Machine
end

