-- ==== Sys2Proof/Laws/WithinCoding.lean ====
section
/-!
SUPPORT. `Within` over the operations of Machine/Coding.lean.
-/

namespace Sys2Proof.Machine

/-- What `State.sendGcc` may write. -/
def State.sendGcc_touch : Nat :=
  union [State.onOtn_touch, State.say_touch]

theorem State.sendGcc_within {M : Nat} {s₀ s : State} (h : Within M s₀ s) (k : Covers M State.sendGcc_touch)
    (w : Wing) (m : GccMsg) :
    Within M s₀ (State.sendGcc s w m) := by
  simp only [State.sendGcc_touch, covers_union] at k
  obtain ⟨k0, k1, _⟩ := k
  unfold State.sendGcc
  repeat' first
    | with_reducible assumption | with_reducible exact .refl _ _ | with_reducible apply State.onOtn_within
    | with_reducible apply State.say_within

/-- What `State.putBlocks` may write. -/
def State.putBlocks_touch : Nat :=
  union [State.onOtn_touch]

theorem State.putBlocks_within {M : Nat} {s₀ s : State} (h : Within M s₀ s) (k : Covers M State.putBlocks_touch)
    (ch : Nat) (bs : List Block66) :
    Within M s₀ (State.putBlocks s ch bs) := by
  simp only [State.putBlocks_touch, covers_union] at k
  obtain ⟨k0, _⟩ := k
  unfold State.putBlocks
  dsimp only
  repeat' first | with_reducible assumption | with_reducible exact .refl _ _ | with_reducible apply State.onOtn_within

/-- What `State.nextBlocks` may write. -/
def State.nextBlocks_touch : Nat :=
  union [State.onOtn_touch]

theorem State.nextBlocks_within {M : Nat} {s₀ s : State} (h : Within M s₀ s) (k : Covers M State.nextBlocks_touch)
    (ch : Nat) (n : Nat) :
    Within M s₀ (State.nextBlocks s ch n).2 := by
  simp only [State.nextBlocks_touch, covers_union] at k
  obtain ⟨k0, _⟩ := k
  unfold State.nextBlocks
  dsimp only
  repeat' first | with_reducible assumption | with_reducible exact .refl _ _ | with_reducible apply State.onOtn_within

/-- What `State.boxBlocks` may write. -/
def State.boxBlocks_touch : Nat :=
  union [State.onOtn_touch]

theorem State.boxBlocks_within {M : Nat} {s₀ s : State} (h : Within M s₀ s) (k : Covers M State.boxBlocks_touch)
    (ch : Nat) (bs : List Block66) :
    Within M s₀ (State.boxBlocks s ch bs) := by
  simp only [State.boxBlocks_touch, covers_union] at k
  obtain ⟨k0, _⟩ := k
  unfold State.boxBlocks
  dsimp only
  repeat' first | with_reducible assumption | with_reducible exact .refl _ _ | with_reducible apply State.onOtn_within

/-- What `State.fillFrame` may write. -/
def State.fillFrame_touch : Nat :=
  union [State.onOtn_touch]

theorem State.fillFrame_within {M : Nat} {s₀ s : State} (h : Within M s₀ s) (k : Covers M State.fillFrame_touch)
    (w : Wing) (c : Nat) (k' : Nat) (lck : Bool) :
    Within M s₀ (State.fillFrame s w c k' lck).2 := by
  simp only [State.fillFrame_touch, covers_union] at k
  obtain ⟨k0, _⟩ := k
  unfold State.fillFrame
  dsimp only
  repeat' first | with_reducible assumption | with_reducible exact .refl _ _ | with_reducible apply State.onOtn_within

end Sys2Proof.Machine
end

