-- ==== Sys2Proof/Laws/WithinSched.lean ====
section
/-!
SUPPORT. `Within` over the operations of Machine/Sched.lean.
-/

namespace Sys2Proof.Machine

/-- What `State.cellsBad` may write. -/
def State.cellsBad_touch : Nat :=
  union [Row.RAS_EVT_UE_DATA.bit, Part.ras.bit, State.evt_touch, State.uncorrectable_touch]

theorem State.cellsBad_within {M : Nat} {s₀ s : State} (h : Within M s₀ s) (k : Covers M State.cellsBad_touch)
    (x : Queued) (l : MemLine) :
    Within M s₀ (State.cellsBad s x l) := by
  simp only [State.cellsBad_touch, covers_union] at k
  obtain ⟨k0, k1, k2, k3, _⟩ := k
  unfold State.cellsBad
  dsimp only
  repeat' first
    | with_reducible assumption | with_reducible exact .refl _ _ | with_reducible apply State.evt_within
    | with_reducible apply State.uncorrectable_within | with_reducible exact may_row (by with_reducible assumption)
    | split | with_reducible apply within_ras

/-- What `State.readCells` may write. -/
def State.readCells_touch : Nat :=
  union [State.cellsBad_touch, State.correct_touch]

theorem State.readCells_within {M : Nat} {s₀ s : State} (h : Within M s₀ s) (k : Covers M State.readCells_touch)
    (x : Queued) (line : MemLine) (found : EccRead) :
    Within M s₀ (State.readCells s x line found).2 := by
  simp only [State.readCells_touch, covers_union] at k
  obtain ⟨k0, k1, _⟩ := k
  unfold State.readCells
  dsimp only
  repeat' first
    | with_reducible assumption | with_reducible exact .refl _ _ | with_reducible apply State.cellsBad_within
    | with_reducible apply State.correct_within | split

/-- What `State.mapFrame` may write. -/
def State.mapFrame_touch : Nat :=
  union [Part.sched.bit, State.putBlocks_touch]

theorem State.mapFrame_within {M : Nat} {s₀ s : State} (h : Within M s₀ s) (k : Covers M State.mapFrame_touch)
    (ch : Nat) (f : Frame) :
    Within M s₀ (State.mapFrame s ch f) := by
  simp only [State.mapFrame_touch, covers_union] at k
  obtain ⟨k0, k1, _⟩ := k
  unfold State.mapFrame
  dsimp only
  repeat' first
    | with_reducible assumption | with_reducible exact .refl _ _ | with_reducible apply State.putBlocks_within
    | with_reducible apply within_sched

/-- What `State.tagOut` may write. -/
def State.tagOut_touch : Nat :=
  union [State.passPoint_touch, State.releaseTag_touch, State.passWithin_touch]

theorem State.tagOut_within {M : Nat} {s₀ s : State} (h : Within M s₀ s) (k : Covers M State.tagOut_touch) (q : Nat)
    (tag : Option Nat) :
    Within M s₀ (State.tagOut s q tag) := by
  simp only [State.tagOut_touch, covers_union] at k
  obtain ⟨k0, k1, k2, _⟩ := k
  unfold State.tagOut
  dsimp only
  repeat' first
    | with_reducible assumption | with_reducible exact .refl _ _ | with_reducible apply State.passPoint_within
    | with_reducible apply State.releaseTag_within | with_reducible apply State.passWithin_within
    | with_reducible exact may_row (by with_reducible assumption) | split

/-- What `State.handOn` may write. -/
def State.handOn_touch : Nat :=
  union [Row.CLI_TX_FRAMES_COUNT.bit, State.mapFrame_touch, State.say_touch, State.checkTest_touch,
    State.count_touch]

theorem State.handOn_within {M : Nat} {s₀ s : State} (h : Within M s₀ s) (k : Covers M State.handOn_touch) (q : Nat)
    (f : Frame) :
    Within M s₀ (State.handOn s q f) := by
  simp only [State.handOn_touch, covers_union] at k
  obtain ⟨k0, k1, k2, k3, k4, _⟩ := k
  unfold State.handOn
  dsimp only
  repeat' first
    | with_reducible assumption | with_reducible exact .refl _ _ | with_reducible apply State.mapFrame_within
    | with_reducible apply State.say_within | with_reducible apply State.checkTest_within
    | with_reducible apply State.when_within | with_reducible apply State.count_within
    | with_reducible exact may_row (by with_reducible assumption) | intro _ | split

/-- What `State.charge` may write. -/
def State.charge_touch : Nat :=
  union [Row.SCH_EQ_DEQ_COUNT.bit, Row.SCH_IQ_DEQ_COUNT.bit, Part.sched.bit, State.native_touch,
    State.countQ_touch, State.setTokens_touch]

theorem State.charge_within {M : Nat} {s₀ s : State} (h : Within M s₀ s) (k : Covers M State.charge_touch) (q : Nat)
    (len : Nat) :
    Within M s₀ (State.charge s q len) := by
  simp only [State.charge_touch, covers_union] at k
  obtain ⟨k0, k1, k2, k3, k4, k5, _⟩ := k
  unfold State.charge
  dsimp only
  repeat' first
    | with_reducible assumption | with_reducible exact .refl _ _ | with_reducible apply State.native_within
    | with_reducible apply State.countQ_within | with_reducible apply State.setTokens_within
    | with_reducible exact may_row (by with_reducible assumption) | with_reducible apply within_sched

/-- What `State.busyWith` may write. -/
def State.busyWith_touch : Nat :=
  union [Part.sched.bit]

theorem State.busyWith_within {M : Nat} {s₀ s : State} (h : Within M s₀ s) (k : Covers M State.busyWith_touch)
    (q : Nat) (len : Nat) :
    Within M s₀ (State.busyWith s q len) := by
  simp only [State.busyWith_touch, covers_union] at k
  obtain ⟨k0, _⟩ := k
  unfold State.busyWith
  dsimp only
  repeat' first
    | with_reducible assumption | with_reducible exact .refl _ _ | split | with_reducible apply within_sched

/-- What `State.select` may write. -/
def State.select_touch : Nat :=
  union [State.ueControl_touch, State.busyWith_touch, State.tagOut_touch, State.flushDamaged_touch,
    State.charge_touch, State.pop_touch, State.correct_touch, State.readCells_touch, State.handOn_touch]

theorem State.select_within {M : Nat} {s₀ s : State} (h : Within M s₀ s) (k : Covers M State.select_touch) (q : Nat)
    (line : MemLine) (found : EccRead) :
    Within M s₀ (State.select s q line found) := by
  simp only [State.select_touch, covers_union] at k
  obtain ⟨k0, k1, k2, k3, k4, k5, k6, k7, k8, _⟩ := k
  unfold State.select
  dsimp only
  repeat' first
    | with_reducible assumption | with_reducible exact .refl _ _ | with_reducible apply State.ueControl_within
    | with_reducible apply State.busyWith_within | with_reducible apply State.tagOut_within
    | with_reducible apply State.flushDamaged_within | with_reducible apply State.charge_within
    | with_reducible apply State.pop_within | with_reducible apply State.correct_within
    | with_reducible apply State.when_within | with_reducible apply State.readCells_within
    | with_reducible apply State.handOn_within | intro _ | split

/-- What `State.passOn` may write. -/
def State.passOn_touch : Nat :=
  union [State.busyWith_touch, State.native_touch, State.tagOut_touch, State.charge_touch, State.pop_touch,
    State.handOn_touch]

theorem State.passOn_within {M : Nat} {s₀ s : State} (h : Within M s₀ s) (k : Covers M State.passOn_touch) (q : Nat) :
    Within M s₀ (State.passOn s q) := by
  simp only [State.passOn_touch, covers_union] at k
  obtain ⟨k0, k1, k2, k3, k4, k5, _⟩ := k
  unfold State.passOn
  dsimp only
  repeat' first
    | with_reducible assumption | with_reducible exact .refl _ _ | with_reducible apply State.busyWith_within
    | with_reducible apply State.native_within | with_reducible apply State.tagOut_within
    | with_reducible apply State.charge_within | with_reducible apply State.pop_within
    | with_reducible apply State.handOn_within | split

/-- What `State.passThrough` may write. -/
def State.passThrough_touch : Nat :=
  union [State.passOn_touch]

theorem State.passThrough_within {M : Nat} {s₀ s : State} (h : Within M s₀ s) (k : Covers M State.passThrough_touch)
    (s' : State) (p : Nat) (c : Nat) :
    Within M s₀ (State.passThrough s' s p c) := by
  simp only [State.passThrough_touch, covers_union] at k
  obtain ⟨k0, _⟩ := k
  unfold State.passThrough
  repeat' first
    | with_reducible assumption | with_reducible exact .refl _ _ | with_reducible apply State.passOn_within
    | with_reducible apply State.when_within | with_reducible apply within_foldl | intro _

/-- What `execClientFrameRx` may write. -/
def execClientFrameRx_touch : Nat :=
  union [State.clientFrame_touch, State.passThrough_touch, State.begin_touch]

theorem execClientFrameRx_within {M : Nat} (s : State) (k : Covers M execClientFrameRx_touch) (port : Fin 32)
    (f : Frame) (macControl : Bool) :
    Answered M s (execClientFrameRx port f macControl s) := by
  simp only [execClientFrameRx_touch, covers_union] at k
  obtain ⟨k0, k1, k2, _⟩ := k
  unfold execClientFrameRx
  dsimp only
  repeat' first
    | apply answered_next | with_reducible assumption | with_reducible exact .refl _ _
    | with_reducible apply State.clientFrame_within | with_reducible apply State.passThrough_within
    | with_reducible apply State.begin_within

/-- What `execSchedSelect` may write. -/
def execSchedSelect_touch : Nat :=
  union [State.select_touch, State.begin_touch]

theorem execSchedSelect_within {M : Nat} (s : State) (k : Covers M execSchedSelect_touch) (inst : Fin 96)
    (line : MemLine) (found : EccRead) :
    Answered M s (execSchedSelect inst line found s) := by
  simp only [execSchedSelect_touch, covers_union] at k
  obtain ⟨k0, k1, _⟩ := k
  unfold execSchedSelect
  dsimp only
  repeat' first
    | apply answered_next | with_reducible assumption | with_reducible exact .refl _ _
    | with_reducible apply State.select_within | with_reducible apply State.begin_within | split

/-- What `State.overrun` may write. -/
def State.overrun_touch : Nat :=
  union [Row.SCH_EVT_GATE_OVR.bit, Row.SCH_GATE_OVR_COUNT.bit, State.countWrap_touch, State.evt_touch]

theorem State.overrun_within {M : Nat} {s₀ s : State} (h : Within M s₀ s) (k : Covers M State.overrun_touch)
    (ch : Nat) (oldGates : Nat) (newGates : Nat) (at_ : Nat) :
    Within M s₀ (State.overrun s ch oldGates newGates at_) := by
  simp only [State.overrun_touch, covers_union] at k
  obtain ⟨k0, k1, k2, k3, _⟩ := k
  unfold State.overrun
  dsimp only
  repeat' first
    | with_reducible assumption | with_reducible exact .refl _ _ | with_reducible apply State.countWrap_within
    | with_reducible apply State.evt_within | with_reducible exact may_row (by with_reducible assumption) | split

/-- What `State.showGates` may write. -/
def State.showGates_touch : Nat :=
  union [Row.SCH_GCL_STAT_ENTRY.bit, Row.SCH_GCL_STAT_GATES.bit]

theorem State.showGates_within {M : Nat} {s₀ s : State} (h : Within M s₀ s) (k : Covers M State.showGates_touch)
    (ch : Nat) :
    Within M s₀ (State.showGates s ch) := by
  simp only [State.showGates_touch, covers_union] at k
  obtain ⟨k0, k1, _⟩ := k
  unfold State.showGates
  repeat' first
    | with_reducible assumption | with_reducible exact .refl _ _ | with_reducible apply State.wr_within
    | with_reducible exact may_row (by with_reducible assumption)

/-- What `State.setEntryAt` may write. -/
def State.setEntryAt_touch : Nat :=
  union [Part.sched.bit]

theorem State.setEntryAt_within {M : Nat} {s₀ s : State} (h : Within M s₀ s) (k : Covers M State.setEntryAt_touch)
    (ch : Nat) (t : Nat) :
    Within M s₀ (State.setEntryAt s ch t) := by
  simp only [State.setEntryAt_touch, covers_union] at k
  obtain ⟨k0, _⟩ := k
  unfold State.setEntryAt
  repeat' first | with_reducible assumption | with_reducible exact .refl _ _ | with_reducible apply within_sched

/-- What `State.nextEntry` may write. -/
def State.nextEntry_touch : Nat :=
  union [State.reguard_touch, State.overrun_touch, State.showGates_touch, State.takeGateEn_touch,
    State.setEntryAt_touch]

theorem State.nextEntry_within {M : Nat} {s₀ s : State} (h : Within M s₀ s) (k : Covers M State.nextEntry_touch)
    (ch : Nat) :
    Within M s₀ (State.nextEntry s ch) := by
  simp only [State.nextEntry_touch, covers_union] at k
  obtain ⟨k0, k1, k2, k3, k4, _⟩ := k
  unfold State.nextEntry
  dsimp only
  repeat' first
    | with_reducible assumption | with_reducible exact .refl _ _ | with_reducible apply State.reguard_within
    | with_reducible apply State.overrun_within | with_reducible apply State.showGates_within
    | with_reducible apply State.takeGateEn_within | with_reducible apply State.setEntryAt_within
    | with_reducible apply State.when_within | intro _

/-- What `State.shiftGate` may write. -/
def State.shiftGate_touch : Nat :=
  union [Part.sched.bit]

theorem State.shiftGate_within {M : Nat} {s₀ s : State} (h : Within M s₀ s) (k : Covers M State.shiftGate_touch)
    (was : State) (ch : Nat) :
    Within M s₀ (State.shiftGate s was ch) := by
  simp only [State.shiftGate_touch, covers_union] at k
  obtain ⟨k0, _⟩ := k
  unfold State.shiftGate
  dsimp only
  repeat' first
    | with_reducible assumption | with_reducible exact .refl _ _ | split | with_reducible apply within_sched

/-- What `State.stepGate` may write. -/
def State.stepGate_touch : Nat :=
  union [State.overrun_touch, State.shiftGate_touch, State.showGates_touch]

theorem State.stepGate_within {M : Nat} {s₀ s : State} (h : Within M s₀ s) (k : Covers M State.stepGate_touch)
    (was : State) (ch : Nat) :
    Within M s₀ (State.stepGate s was ch) := by
  simp only [State.stepGate_touch, covers_union] at k
  obtain ⟨k0, k1, k2, _⟩ := k
  unfold State.stepGate
  dsimp only
  repeat' first
    | with_reducible assumption | with_reducible exact .refl _ _ | with_reducible apply State.overrun_within
    | with_reducible apply State.shiftGate_within | with_reducible apply State.showGates_within

/-- What `execGclEntryStart` may write. -/
def execGclEntryStart_touch : Nat :=
  union [State.nextEntry_touch, State.begin_touch]

theorem execGclEntryStart_within {M : Nat} (s : State) (k : Covers M execGclEntryStart_touch) (ch : Fin 64) :
    Answered M s (execGclEntryStart ch s) := by
  simp only [execGclEntryStart_touch, covers_union] at k
  obtain ⟨k0, k1, _⟩ := k
  unfold execGclEntryStart
  repeat' first
    | apply answered_next | with_reducible assumption | with_reducible exact .refl _ _
    | with_reducible apply State.nextEntry_within | with_reducible apply State.begin_within

/-- What `State.activateGates` may write. -/
def State.activateGates_touch : Nat :=
  union [Row.SCH_GCL_STAT_PENDING.bit, Part.sched.bit]

theorem State.activateGates_within {M : Nat} {s₀ s : State} (h : Within M s₀ s)
    (k : Covers M State.activateGates_touch) (ch : Nat) :
    Within M s₀ (State.activateGates s ch) := by
  simp only [State.activateGates_touch, covers_union] at k
  obtain ⟨k0, k1, _⟩ := k
  unfold State.activateGates
  dsimp only
  repeat' first
    | with_reducible assumption | with_reducible exact .refl _ _ | with_reducible apply State.wrb_within
    | with_reducible exact may_row (by with_reducible assumption) | with_reducible apply within_sched

/-- What `execGclActivate` may write. -/
def execGclActivate_touch : Nat :=
  union [State.activateGates_touch, State.begin_touch]

theorem execGclActivate_within {M : Nat} (s : State) (k : Covers M execGclActivate_touch) (req : Req) (ch : Fin 64) :
    Answered M s (execGclActivate req ch s) := by
  simp only [execGclActivate_touch, covers_union] at k
  obtain ⟨k0, k1, _⟩ := k
  unfold execGclActivate
  repeat' first
    | apply answered_next | with_reducible assumption | with_reducible exact .refl _ _
    | with_reducible apply State.activateGates_within | with_reducible apply State.via_within
    | with_reducible apply State.begin_within | intro _

/-- What `State.gateTiming` may write. -/
def State.gateTiming_touch : Nat :=
  union [Row.SCH_GCL_BASE_HI_BASE.bit, Row.SCH_GCL_BASE_LO_BASE.bit, Row.SCH_GCL_CYCLE_CYCLE.bit,
    State.activateGates_touch]

theorem State.gateTiming_within {M : Nat} {s₀ s : State} (h : Within M s₀ s) (k : Covers M State.gateTiming_touch)
    (ch : Nat) (cycle : Option Nat) (base : Option Nat) :
    Within M s₀ (State.gateTiming s ch cycle base) := by
  simp only [State.gateTiming_touch, covers_union] at k
  obtain ⟨k0, k1, k2, k3, _⟩ := k
  unfold State.gateTiming
  dsimp only
  repeat' first
    | with_reducible assumption | with_reducible exact .refl _ _ | with_reducible apply State.activateGates_within
    | with_reducible apply State.wrWide_within | with_reducible apply State.wr_within
    | with_reducible apply State.when_within | with_reducible exact may_row (by with_reducible assumption) | intro _
    | split

/-- What `execGclTimingWrite` may write. -/
def execGclTimingWrite_touch : Nat :=
  union [State.gateTiming_touch, State.begin_touch]

theorem execGclTimingWrite_within {M : Nat} (s : State) (k : Covers M execGclTimingWrite_touch) (req : Req)
    (ch : Fin 64) (cycle : Option Nat) (base : Option Nat) :
    Answered M s (execGclTimingWrite req ch cycle base s) := by
  simp only [execGclTimingWrite_touch, covers_union] at k
  obtain ⟨k0, k1, _⟩ := k
  unfold execGclTimingWrite
  repeat' first
    | apply answered_next | with_reducible assumption | with_reducible exact .refl _ _
    | with_reducible apply State.gateTiming_within | with_reducible apply State.via_within
    | with_reducible apply State.begin_within | intro _

/-- What `State.swapGates` may write. -/
def State.swapGates_touch : Nat :=
  union [Row.SCH_EVT_GCL_SWAPPED.bit, Row.SCH_GCL_STAT_PENDING.bit, Part.sched.bit, State.reguard_touch,
    State.overrun_touch, State.showGates_touch, State.takeGateEn_touch, State.evt_touch, State.setEntryAt_touch]

theorem State.swapGates_within {M : Nat} {s₀ s : State} (h : Within M s₀ s) (k : Covers M State.swapGates_touch)
    (ch : Nat) :
    Within M s₀ (State.swapGates s ch) := by
  simp only [State.swapGates_touch, covers_union] at k
  obtain ⟨k0, k1, k2, k3, k4, k5, k6, k7, k8, _⟩ := k
  unfold State.swapGates
  dsimp only
  repeat' first
    | with_reducible assumption | with_reducible exact .refl _ _ | with_reducible apply State.reguard_within
    | with_reducible apply State.overrun_within | with_reducible apply State.showGates_within
    | with_reducible apply State.takeGateEn_within | with_reducible apply State.evt_within
    | with_reducible apply State.setEntryAt_within | with_reducible apply State.wrb_within
    | with_reducible exact may_row (by with_reducible assumption) | split | with_reducible apply within_sched

/-- What `execGclSwap` may write. -/
def execGclSwap_touch : Nat :=
  union [State.swapGates_touch, State.begin_touch]

theorem execGclSwap_within {M : Nat} (s : State) (k : Covers M execGclSwap_touch) (ch : Fin 64) :
    Answered M s (execGclSwap ch s) := by
  simp only [execGclSwap_touch, covers_union] at k
  obtain ⟨k0, k1, _⟩ := k
  unfold execGclSwap
  repeat' first
    | apply answered_next | with_reducible assumption | with_reducible exact .refl _ _
    | with_reducible apply State.swapGates_within | with_reducible apply State.begin_within

/-- What `State.storeEntry` may write. -/
def State.storeEntry_touch : Nat :=
  union [Row.SCH_GCL_WSEL_IDX.bit, Part.sched.bit]

theorem State.storeEntry_within {M : Nat} {s₀ s : State} (h : Within M s₀ s) (k : Covers M State.storeEntry_touch)
    (ivl : Nat) :
    Within M s₀ (State.storeEntry s ivl) := by
  simp only [State.storeEntry_touch, covers_union] at k
  obtain ⟨k0, k1, _⟩ := k
  unfold State.storeEntry
  dsimp only
  repeat' first
    | with_reducible assumption | with_reducible exact .refl _ _ | with_reducible apply State.wr_within
    | with_reducible exact may_row (by with_reducible assumption) | with_reducible apply within_sched

/-- What `execGclWivlWrite` may write. -/
def execGclWivlWrite_touch : Nat :=
  union [State.storeEntry_touch, State.begin_touch]

theorem execGclWivlWrite_within {M : Nat} (s : State) (k : Covers M execGclWivlWrite_touch) (req : Req) (ivl : Nat) :
    Answered M s (execGclWivlWrite req ivl s) := by
  simp only [execGclWivlWrite_touch, covers_union] at k
  obtain ⟨k0, k1, _⟩ := k
  unfold execGclWivlWrite
  repeat' first
    | apply answered_next | with_reducible assumption | with_reducible exact .refl _ _
    | with_reducible apply State.storeEntry_within | with_reducible apply State.via_within
    | with_reducible apply State.begin_within | intro _

end Sys2Proof.Machine
end

