-- ==== Sys2Proof/Laws/WithinProtect.lean ====
section
/-!
SUPPORT. `Within` over the operations of Machine/Protect.lean.
-/

namespace Sys2Proof.Machine

/-- What `State.showAsks` may write. -/
def State.showAsks_touch : Nat :=
  union [Row.HAL_PG_STAT_FAR_REQ.bit, Row.HAL_PG_STAT_LOCAL_REQ.bit, Row.OHD_APS_TX_VALUE.bit]

theorem State.showAsks_within {M : Nat} {s₀ s : State} (h : Within M s₀ s) (k : Covers M State.showAsks_touch)
    (g : Nat) :
    Within M s₀ (State.showAsks s g) := by
  simp only [State.showAsks_touch, covers_union] at k
  obtain ⟨k0, k1, k2, _⟩ := k
  unfold State.showAsks
  dsimp only
  repeat' first
    | with_reducible assumption | with_reducible exact .refl _ _ | with_reducible apply State.wr_within
    | with_reducible exact may_row (by with_reducible assumption)

/-- What `State.selectMember` may write. -/
def State.selectMember_touch : Nat :=
  union [Row.HAL_PG_CNT_SWITCHES.bit, Row.HAL_PG_EVT_SEL_CHANGE.bit, Row.HAL_PG_STAT_SEL_B.bit,
    State.countWrap_touch, State.watchClass_touch, State.evt_touch]

theorem State.selectMember_within {M : Nat} {s₀ s : State} (h : Within M s₀ s)
    (k : Covers M State.selectMember_touch) (g : Nat) (w : Wing) :
    Within M s₀ (State.selectMember s g w) := by
  simp only [State.selectMember_touch, covers_union] at k
  obtain ⟨k0, k1, k2, k3, k4, k5, _⟩ := k
  unfold State.selectMember
  dsimp only
  repeat' first
    | with_reducible assumption | with_reducible exact .refl _ _ | with_reducible apply State.countWrap_within
    | with_reducible apply State.watchClass_within | with_reducible apply State.evt_within
    | with_reducible apply State.wrb_within | with_reducible apply State.upTo_within
    | with_reducible exact may_row (by with_reducible assumption) | intro _

/-- What `State.dropManual` may write. -/
def State.dropManual_touch : Nat :=
  union [Row.HAL_PG_STAT_CMD_HELD.bit]

theorem State.dropManual_within {M : Nat} {s₀ s : State} (h : Within M s₀ s) (k : Covers M State.dropManual_touch)
    (g : Nat) :
    Within M s₀ (State.dropManual s g) := by
  simp only [State.dropManual_touch, covers_union] at k
  obtain ⟨k0, _⟩ := k
  unfold State.dropManual
  repeat' first
    | with_reducible assumption | with_reducible exact .refl _ _ | with_reducible apply State.wr_within
    | with_reducible exact may_row (by with_reducible assumption) | split

/-- What `State.endWaits` may write. -/
def State.endWaits_touch : Nat :=
  union [Row.HAL_PG_STAT_WTR_RUN.bit, Part.groups.bit]

theorem State.endWaits_within {M : Nat} {s₀ s : State} (h : Within M s₀ s) (k : Covers M State.endWaits_touch)
    (g : Nat) :
    Within M s₀ (State.endWaits s g) := by
  simp only [State.endWaits_touch, covers_union] at k
  obtain ⟨k0, k1, _⟩ := k
  unfold State.endWaits
  dsimp only
  repeat' first
    | with_reducible assumption | with_reducible exact .refl _ _ | with_reducible apply State.when_within
    | with_reducible apply State.wrb_within | with_reducible exact may_row (by with_reducible assumption) | intro _
    | split | with_reducible apply within_groups

/-- What `State.reselect` may write. -/
def State.reselect_touch : Nat :=
  union [State.dropManual_touch, State.showAsks_touch, State.selectMember_touch, State.endWaits_touch]

theorem State.reselect_within {M : Nat} {s₀ s : State} (h : Within M s₀ s) (k : Covers M State.reselect_touch)
    (g : Nat) :
    Within M s₀ (State.reselect s g) := by
  simp only [State.reselect_touch, covers_union] at k
  obtain ⟨k0, k1, k2, k3, _⟩ := k
  unfold State.reselect
  dsimp only
  repeat' first
    | with_reducible assumption | with_reducible exact .refl _ _ | with_reducible apply State.dropManual_within
    | with_reducible apply State.showAsks_within | with_reducible apply State.when_within
    | with_reducible apply State.selectMember_within | with_reducible apply State.endWaits_within
    | with_reducible exact may_row (by with_reducible assumption) | intro _ | split

/-- What `State.startRestore` may write. -/
def State.startRestore_touch : Nat :=
  union [Row.HAL_PG_STAT_WTR_RUN.bit, Part.groups.bit]

theorem State.startRestore_within {M : Nat} {s₀ s : State} (h : Within M s₀ s)
    (k : Covers M State.startRestore_touch) (g : Nat) :
    Within M s₀ (State.startRestore s g) := by
  simp only [State.startRestore_touch, covers_union] at k
  obtain ⟨k0, k1, _⟩ := k
  unfold State.startRestore
  repeat' first
    | with_reducible assumption | with_reducible exact .refl _ _ | with_reducible apply State.wrb_within
    | with_reducible exact may_row (by with_reducible assumption) | split | with_reducible apply within_groups

/-- What `State.takeCond` may write. -/
def State.takeCond_touch : Nat :=
  union [Row.HAL_PG_STAT_COND_A.bit, Row.HAL_PG_STAT_COND_B.bit, Row.HAL_PG_STAT_HOLD.bit, State.reselect_touch,
    State.startRestore_touch]

theorem State.takeCond_within {M : Nat} {s₀ s : State} (h : Within M s₀ s) (k : Covers M State.takeCond_touch)
    (g : Nat) (w : Wing) (cond : Nat) :
    Within M s₀ (State.takeCond s g w cond) := by
  simp only [State.takeCond_touch, covers_union] at k
  obtain ⟨k0, k1, k2, k3, k4, _⟩ := k
  unfold State.takeCond
  dsimp only
  repeat' first
    | with_reducible assumption | with_reducible exact .refl _ _ | with_reducible apply State.unbit_within
    | with_reducible apply State.wr_within | with_reducible apply State.reselect_within
    | with_reducible apply State.startRestore_within | with_reducible apply State.when_within
    | with_reducible exact may_row (by with_reducible assumption) | unfold condRow | intro _ | split

/-- What `State.condChange` may write. -/
def State.condChange_touch : Nat :=
  union [Row.HAL_PG_STAT_COND_A.bit, Row.HAL_PG_STAT_COND_B.bit, Row.HAL_PG_STAT_HOLD.bit, State.takeCond_touch,
    State.reselect_touch]

theorem State.condChange_within {M : Nat} {s₀ s : State} (h : Within M s₀ s) (k : Covers M State.condChange_touch)
    (g : Nat) (w : Wing) :
    Within M s₀ (State.condChange s g w) := by
  simp only [State.condChange_touch, covers_union] at k
  obtain ⟨k0, k1, k2, k3, k4, _⟩ := k
  unfold State.condChange
  dsimp only
  repeat' first
    | with_reducible assumption | with_reducible exact .refl _ _ | with_reducible apply State.wr_within
    | with_reducible apply State.takeCond_within | with_reducible apply State.bit_within
    | with_reducible apply State.reselect_within | with_reducible exact may_row (by with_reducible assumption)
    | unfold condRow | split

/-- What `execPgConditionChange` may write. -/
def execPgConditionChange_touch : Nat :=
  union [State.condChange_touch, State.begin_touch]

theorem execPgConditionChange_within {M : Nat} (s : State) (k : Covers M execPgConditionChange_touch) (g : Fin 8)
    (m : Wing) :
    Answered M s (execPgConditionChange g m s) := by
  simp only [execPgConditionChange_touch, covers_union] at k
  obtain ⟨k0, k1, _⟩ := k
  unfold execPgConditionChange
  repeat' first
    | apply answered_next | with_reducible assumption | with_reducible exact .refl _ _
    | with_reducible apply State.condChange_within | with_reducible apply State.begin_within

/-- What `execHoldoffExpiry` may write. -/
def execHoldoffExpiry_touch : Nat :=
  union [State.takeCond_touch, State.begin_touch]

theorem execHoldoffExpiry_within {M : Nat} (s : State) (k : Covers M execHoldoffExpiry_touch) (g : Fin 8) (m : Wing) :
    Answered M s (execHoldoffExpiry g m s) := by
  simp only [execHoldoffExpiry_touch, covers_union] at k
  obtain ⟨k0, k1, _⟩ := k
  unfold execHoldoffExpiry
  dsimp only
  repeat' first
    | apply answered_next | with_reducible assumption | with_reducible exact .refl _ _
    | with_reducible apply State.takeCond_within | with_reducible apply State.begin_within | split

/-- What `execWtrExpiry` may write. -/
def execWtrExpiry_touch : Nat :=
  union [Row.HAL_PG_STAT_WTR_RUN.bit, State.reselect_touch, State.begin_touch]

theorem execWtrExpiry_within {M : Nat} (s : State) (k : Covers M execWtrExpiry_touch) (g : Fin 8) :
    Answered M s (execWtrExpiry g s) := by
  simp only [execWtrExpiry_touch, covers_union] at k
  obtain ⟨k0, k1, k2, _⟩ := k
  unfold execWtrExpiry
  dsimp only
  repeat' first
    | apply answered_next | with_reducible assumption | with_reducible exact .refl _ _
    | with_reducible apply State.reselect_within | with_reducible apply State.begin_within
    | with_reducible apply State.wrb_within | with_reducible exact may_row (by with_reducible assumption) | split

/-- What `State.pgCommand` may write. -/
def State.pgCommand_touch : Nat :=
  union [Row.HAL_PG_STAT_CMD_HELD.bit, Row.HAL_PG_STAT_CMD_REFUSED.bit, State.reselect_touch]

theorem State.pgCommand_within {M : Nat} {s₀ s : State} (h : Within M s₀ s) (k : Covers M State.pgCommand_touch)
    (g : Nat) (held : Nat) (prio : Nat) :
    Within M s₀ (State.pgCommand s g held prio) := by
  simp only [State.pgCommand_touch, covers_union] at k
  obtain ⟨k0, k1, k2, _⟩ := k
  unfold State.pgCommand
  repeat' first
    | with_reducible assumption | with_reducible exact .refl _ _ | with_reducible apply State.wr_within
    | with_reducible apply State.reselect_within | with_reducible apply State.wrb_within
    | with_reducible exact may_row (by with_reducible assumption) | split

/-- What `execPgClear` may write. -/
def execPgClear_touch : Nat :=
  union [Row.HAL_PG_STAT_CMD_HELD.bit, Row.HAL_PG_STAT_WTR_RUN.bit, State.reselect_touch, State.begin_touch]

theorem execPgClear_within {M : Nat} (s : State) (k : Covers M execPgClear_touch) (req : Req) (g : Fin 8) :
    Answered M s (execPgClear req g s) := by
  simp only [execPgClear_touch, covers_union] at k
  obtain ⟨k0, k1, k2, k3, _⟩ := k
  unfold execPgClear
  repeat' first
    | apply answered_next | with_reducible assumption | with_reducible exact .refl _ _
    | with_reducible apply State.wr_within | with_reducible apply State.reselect_within
    | with_reducible apply State.via_within | with_reducible apply State.begin_within
    | with_reducible apply State.wrb_within | with_reducible exact may_row (by with_reducible assumption) | intro _

/-- What `execPgLockout` may write. -/
def execPgLockout_touch : Nat :=
  union [State.pgCommand_touch, State.begin_touch]

theorem execPgLockout_within {M : Nat} (s : State) (k : Covers M execPgLockout_touch) (req : Req) (g : Fin 8) :
    Answered M s (execPgLockout req g s) := by
  simp only [execPgLockout_touch, covers_union] at k
  obtain ⟨k0, k1, _⟩ := k
  unfold execPgLockout
  repeat' first
    | apply answered_next | with_reducible assumption | with_reducible exact .refl _ _
    | with_reducible apply State.pgCommand_within | with_reducible apply State.via_within
    | with_reducible apply State.begin_within | intro _

/-- What `execPgForce` may write. -/
def execPgForce_touch : Nat :=
  union [State.pgCommand_touch, State.begin_touch]

theorem execPgForce_within {M : Nat} (s : State) (k : Covers M execPgForce_touch) (req : Req) (g : Fin 8) :
    Answered M s (execPgForce req g s) := by
  simp only [execPgForce_touch, covers_union] at k
  obtain ⟨k0, k1, _⟩ := k
  unfold execPgForce
  repeat' first
    | apply answered_next | with_reducible assumption | with_reducible exact .refl _ _
    | with_reducible apply State.pgCommand_within | with_reducible apply State.via_within
    | with_reducible apply State.begin_within | intro _

/-- What `execPgManualP` may write. -/
def execPgManualP_touch : Nat :=
  union [State.pgCommand_touch, State.begin_touch]

theorem execPgManualP_within {M : Nat} (s : State) (k : Covers M execPgManualP_touch) (req : Req) (g : Fin 8) :
    Answered M s (execPgManualP req g s) := by
  simp only [execPgManualP_touch, covers_union] at k
  obtain ⟨k0, k1, _⟩ := k
  unfold execPgManualP
  repeat' first
    | apply answered_next | with_reducible assumption | with_reducible exact .refl _ _
    | with_reducible apply State.pgCommand_within | with_reducible apply State.via_within
    | with_reducible apply State.begin_within | intro _

/-- What `execPgManualW` may write. -/
def execPgManualW_touch : Nat :=
  union [State.pgCommand_touch, State.begin_touch]

theorem execPgManualW_within {M : Nat} (s : State) (k : Covers M execPgManualW_touch) (req : Req) (g : Fin 8) :
    Answered M s (execPgManualW req g s) := by
  simp only [execPgManualW_touch, covers_union] at k
  obtain ⟨k0, k1, _⟩ := k
  unfold execPgManualW
  repeat' first
    | apply answered_next | with_reducible assumption | with_reducible exact .refl _ _
    | with_reducible apply State.pgCommand_within | with_reducible apply State.via_within
    | with_reducible apply State.begin_within | intro _

/-- What `execFopRaise` may write. -/
def execFopRaise_touch : Nat :=
  union [Row.HAL_PG_CNT_FOP.bit, Row.HAL_PG_EVT_FOP.bit, Row.HAL_PG_STAT_FOP.bit, State.countWrap_touch,
    State.evt_touch, State.reselect_touch, State.begin_touch]

theorem execFopRaise_within {M : Nat} (s : State) (k : Covers M execFopRaise_touch) (g : Fin 8) :
    Answered M s (execFopRaise g s) := by
  simp only [execFopRaise_touch, covers_union] at k
  obtain ⟨k0, k1, k2, k3, k4, k5, k6, _⟩ := k
  unfold execFopRaise
  dsimp only
  repeat' first
    | apply answered_next | with_reducible assumption | with_reducible exact .refl _ _
    | with_reducible apply State.countWrap_within | with_reducible apply State.evt_within
    | with_reducible apply State.reselect_within | with_reducible apply State.begin_within
    | with_reducible apply State.wrb_within | with_reducible exact may_row (by with_reducible assumption) | split

/-- What `execFopClear` may write. -/
def execFopClear_touch : Nat :=
  union [Row.HAL_PG_STAT_FOP.bit, State.reselect_touch, State.begin_touch]

theorem execFopClear_within {M : Nat} (s : State) (k : Covers M execFopClear_touch) (g : Fin 8) :
    Answered M s (execFopClear g s) := by
  simp only [execFopClear_touch, covers_union] at k
  obtain ⟨k0, k1, k2, _⟩ := k
  unfold execFopClear
  dsimp only
  repeat' first
    | apply answered_next | with_reducible assumption | with_reducible exact .refl _ _
    | with_reducible apply State.reselect_within | with_reducible apply State.begin_within
    | with_reducible apply State.wrb_within | with_reducible exact may_row (by with_reducible assumption) | split

end Sys2Proof.Machine
end

