-- ==== Sys2Proof/Laws/WithinOtn.lean ====
section
/-!
SUPPORT. `Within` over the operations of Machine/Otn.lean.
-/

namespace Sys2Proof.Machine

/-- What `State.fillSlots` may write. -/
def State.fillSlots_touch : Nat :=
  union [State.fillFrame_touch]

theorem State.fillSlots_within {M : Nat} {s₀ s : State} (h : Within M s₀ s) (k : Covers M State.fillSlots_touch)
    (w : Wing) (map : List Nat) (a0 : Nat) :
    Within M s₀ (State.fillSlots s w map a0).2 := by
  simp only [State.fillSlots_touch, covers_union] at k
  obtain ⟨k0, _⟩ := k
  induction a0 generalizing s w map with
  | zero =>
    rw [State.fillSlots]
    try dsimp only
    repeat' first | with_reducible assumption
  | succ n ih =>
    rw [State.fillSlots]
    try dsimp only
    repeat' first
      | with_reducible apply ih | with_reducible assumption | with_reducible exact .refl _ _
      | with_reducible apply State.fillFrame_within | split

/-- What `State.supply` may write. -/
def State.supply_touch : Nat :=
  union [State.onTx_touch]

theorem State.supply_within {M : Nat} {s₀ s : State} (h : Within M s₀ s) (k : Covers M State.supply_touch)
    (w : Wing) (bits : List Bool) :
    Within M s₀ (State.supply s w bits) := by
  simp only [State.supply_touch, covers_union] at k
  obtain ⟨k0, _⟩ := k
  unfold State.supply
  repeat' first | with_reducible assumption | with_reducible exact .refl _ _ | with_reducible apply State.onTx_within

/-- What `State.sendFrame` may write. -/
def State.sendFrame_touch : Nat :=
  union [Row.OHD_PM_TX_BDI.bit, Row.OHD_PM_TX_STAT.bit, State.onOtn_touch, State.fillSlots_touch, State.say_touch,
    State.supply_touch, State.onPm_touch]

theorem State.sendFrame_within {M : Nat} {s₀ s : State} (h : Within M s₀ s) (k : Covers M State.sendFrame_touch)
    (w : Wing) :
    Within M s₀ (State.sendFrame s w) := by
  simp only [State.sendFrame_touch, covers_union] at k
  obtain ⟨k0, k1, k2, k3, k4, k5, k6, _⟩ := k
  unfold State.sendFrame
  dsimp only
  repeat' first
    | with_reducible assumption | with_reducible exact .refl _ _ | with_reducible apply State.onOtn_within
    | with_reducible apply State.fillSlots_within | with_reducible apply State.wr_within
    | with_reducible apply State.say_within | with_reducible apply State.supply_within
    | with_reducible apply State.onPm_within | with_reducible apply State.wrb_within
    | with_reducible exact may_row (by with_reducible assumption)

/-- What `execOtnFrameTx` may write. -/
def execOtnFrameTx_touch : Nat :=
  union [State.sendFrame_touch, State.begin_touch]

theorem execOtnFrameTx_within {M : Nat} (s : State) (k : Covers M execOtnFrameTx_touch) (w : Wing) :
    Answered M s (execOtnFrameTx w s) := by
  simp only [execOtnFrameTx_touch, covers_union] at k
  obtain ⟨k0, k1, _⟩ := k
  unfold execOtnFrameTx
  dsimp only
  repeat' first
    | apply answered_next | with_reducible assumption | with_reducible exact .refl _ _
    | with_reducible apply State.sendFrame_within | with_reducible apply State.begin_within | split

/-- What `State.seeSsf` may write. -/
def State.seeSsf_touch : Nat :=
  union [State.onPm_touch]

theorem State.seeSsf_within {M : Nat} {s₀ s : State} (h : Within M s₀ s) (k : Covers M State.seeSsf_touch)
    (w : Wing) (c : Nat) :
    Within M s₀ (State.seeSsf s w c) := by
  simp only [State.seeSsf_touch, covers_union] at k
  obtain ⟨k0, _⟩ := k
  unfold State.seeSsf
  dsimp only
  repeat' first
    | with_reducible assumption | with_reducible exact .refl _ _ | with_reducible apply State.onPm_within
    | with_reducible apply State.when_within | intro _

/-- What `State.noteSsf` may write. -/
def State.noteSsf_touch : Nat :=
  union [State.seeSsf_touch, State.onOtn_touch, State.onPm_touch]

theorem State.noteSsf_within {M : Nat} {s₀ s : State} (h : Within M s₀ s) (k : Covers M State.noteSsf_touch)
    (w : Wing) :
    Within M s₀ (State.noteSsf s w) := by
  simp only [State.noteSsf_touch, covers_union] at k
  obtain ⟨k0, k1, k2, _⟩ := k
  unfold State.noteSsf
  dsimp only
  repeat' first
    | with_reducible assumption | with_reducible exact .refl _ _ | with_reducible apply State.seeSsf_within
    | with_reducible apply State.onOtn_within | with_reducible apply State.onPm_within
    | with_reducible apply State.when_within | with_reducible apply State.upTo_within | intro _

/-- What `State.setCands` may write. -/
def State.setCands_touch : Nat :=
  union [Row.OHD_FR_STAT_CANDS.bit, State.onOtn_touch]

theorem State.setCands_within {M : Nat} {s₀ s : State} (h : Within M s₀ s) (k : Covers M State.setCands_touch)
    (w : Wing) (cs : List Candidate) :
    Within M s₀ (State.setCands s w cs) := by
  simp only [State.setCands_touch, covers_union] at k
  obtain ⟨k0, k1, _⟩ := k
  unfold State.setCands
  repeat' first
    | with_reducible assumption | with_reducible exact .refl _ _ | with_reducible apply State.onOtn_within
    | with_reducible apply State.wr_within | with_reducible exact may_row (by with_reducible assumption)

/-- What `State.dropMissed` may write. -/
def State.dropMissed_touch : Nat :=
  union [Row.OHD_SMC_FAS_FALSE_COUNT.bit, State.count_touch, State.setCands_touch]

theorem State.dropMissed_within {M : Nat} {s₀ s : State} (h : Within M s₀ s) (k : Covers M State.dropMissed_touch)
    (w : Wing) :
    Within M s₀ (State.dropMissed s w) := by
  simp only [State.dropMissed_touch, covers_union] at k
  obtain ⟨k0, k1, k2, _⟩ := k
  unfold State.dropMissed
  dsimp only
  repeat' first
    | with_reducible assumption | with_reducible exact .refl _ _ | with_reducible apply State.count_within
    | with_reducible apply State.setCands_within | with_reducible exact may_row (by with_reducible assumption)

/-- What `State.seek` may write. -/
def State.seek_touch : Nat :=
  union [State.dropMissed_touch, State.onOtn_touch]

theorem State.seek_within {M : Nat} {s₀ s : State} (h : Within M s₀ s) (k : Covers M State.seek_touch) (w : Wing) :
    Within M s₀ (State.seek s w) := by
  simp only [State.seek_touch, covers_union] at k
  obtain ⟨k0, k1, _⟩ := k
  unfold State.seek
  dsimp only
  repeat' first
    | with_reducible assumption | with_reducible exact .refl _ _ | with_reducible apply State.dropMissed_within
    | with_reducible apply State.onOtn_within

/-- What `State.advance` may write. -/
def State.advance_touch : Nat :=
  union [State.seek_touch, State.onOtn_touch]

theorem State.advance_within {M : Nat} {s₀ s : State} (h : Within M s₀ s) (k : Covers M State.advance_touch)
    (w : Wing) :
    Within M s₀ (State.advance s w) := by
  simp only [State.advance_touch, covers_union] at k
  obtain ⟨k0, k1, _⟩ := k
  unfold State.advance
  repeat' first
    | with_reducible assumption | with_reducible exact .refl _ _ | with_reducible apply State.seek_within
    | with_reducible apply State.onOtn_within | with_reducible exact may_row (by with_reducible assumption) | split

/-- What `State.otnTake` may write. -/
def State.otnTake_touch : Nat :=
  union [State.onOtn_touch, State.advance_touch]

theorem State.otnTake_within {M : Nat} {s₀ s : State} (h : Within M s₀ s) (k : Covers M State.otnTake_touch)
    (w : Wing) (era : Option (Nat × Nat)) (info : List (Bool × Bool)) :
    Within M s₀ (State.otnTake s w era info) := by
  simp only [State.otnTake_touch, covers_union] at k
  obtain ⟨k0, k1, _⟩ := k
  unfold State.otnTake
  dsimp only
  repeat' first
    | with_reducible assumption | with_reducible exact .refl _ _ | with_reducible apply State.onOtn_within
    | with_reducible apply State.advance_within | with_reducible exact may_row (by with_reducible assumption)
    | intro _ | split

/-- What `State.startSearch` may write. -/
def State.startSearch_touch : Nat :=
  union [Row.OHD_FR_STAT_SEARCHING.bit, State.seek_touch, State.setCands_touch]

theorem State.startSearch_within {M : Nat} {s₀ s : State} (h : Within M s₀ s) (k : Covers M State.startSearch_touch)
    (w : Wing) :
    Within M s₀ (State.startSearch s w) := by
  simp only [State.startSearch_touch, covers_union] at k
  obtain ⟨k0, k1, k2, _⟩ := k
  unfold State.startSearch
  repeat' first
    | with_reducible assumption | with_reducible exact .refl _ _ | with_reducible apply State.seek_within
    | with_reducible apply State.wrb_within | with_reducible apply State.setCands_within
    | with_reducible exact may_row (by with_reducible assumption)

/-- What `State.openStream` may write. -/
def State.openStream_touch : Nat :=
  union [State.onOtn_touch, State.startSearch_touch]

theorem State.openStream_within {M : Nat} {s₀ s : State} (h : Within M s₀ s) (k : Covers M State.openStream_touch)
    (w : Wing) :
    Within M s₀ (State.openStream s w) := by
  simp only [State.openStream_touch, covers_union] at k
  obtain ⟨k0, k1, _⟩ := k
  unfold State.openStream
  repeat' first
    | with_reducible assumption | with_reducible exact .refl _ _ | with_reducible apply State.onOtn_within
    | with_reducible apply State.startSearch_within

/-- What `State.stopSearch` may write. -/
def State.stopSearch_touch : Nat :=
  union [Row.OHD_FR_STAT_SEARCHING.bit, State.onOtn_touch, State.setCands_touch]

theorem State.stopSearch_within {M : Nat} {s₀ s : State} (h : Within M s₀ s) (k : Covers M State.stopSearch_touch)
    (w : Wing) :
    Within M s₀ (State.stopSearch s w) := by
  simp only [State.stopSearch_touch, covers_union] at k
  obtain ⟨k0, k1, k2, _⟩ := k
  unfold State.stopSearch
  repeat' first
    | with_reducible assumption | with_reducible exact .refl _ _ | with_reducible apply State.onOtn_within
    | with_reducible apply State.wrb_within | with_reducible apply State.setCands_within
    | with_reducible exact may_row (by with_reducible assumption)

/-- What `State.declareIf` may write. -/
def State.declareIf_touch : Nat :=
  union [Row.OHD_EVT_IF_CHANGE.bit, Row.OHD_FR_STAT_IF.bit, Row.OHD_FR_STAT_SEARCHING.bit, State.onOtn_touch,
    State.evt_touch, State.setCands_touch]

theorem State.declareIf_within {M : Nat} {s₀ s : State} (h : Within M s₀ s) (k : Covers M State.declareIf_touch)
    (w : Wing) (c : Candidate) :
    Within M s₀ (State.declareIf s w c) := by
  simp only [State.declareIf_touch, covers_union] at k
  obtain ⟨k0, k1, k2, k3, k4, k5, _⟩ := k
  unfold State.declareIf
  repeat' first
    | with_reducible assumption | with_reducible exact .refl _ _ | with_reducible apply State.onOtn_within
    | with_reducible apply State.evt_within | with_reducible apply State.wrb_within
    | with_reducible apply State.setCands_within | with_reducible exact may_row (by with_reducible assumption)

/-- What `State.pastFas` may write. -/
def State.pastFas_touch : Nat :=
  union [State.seek_touch, State.onOtn_touch]

theorem State.pastFas_within {M : Nat} {s₀ s : State} (h : Within M s₀ s) (k : Covers M State.pastFas_touch)
    (w : Wing) :
    Within M s₀ (State.pastFas s w) := by
  simp only [State.pastFas_touch, covers_union] at k
  obtain ⟨k0, k1, _⟩ := k
  unfold State.pastFas
  repeat' first
    | with_reducible assumption | with_reducible exact .refl _ _ | with_reducible apply State.seek_within
    | with_reducible apply State.onOtn_within

/-- What `State.fasMatch` may write. -/
def State.fasMatch_touch : Nat :=
  union [State.pastFas_touch, State.declareIf_touch, State.setCands_touch]

theorem State.fasMatch_within {M : Nat} {s₀ s : State} (h : Within M s₀ s) (k : Covers M State.fasMatch_touch)
    (w : Wing) :
    Within M s₀ (State.fasMatch s w) := by
  simp only [State.fasMatch_touch, covers_union] at k
  obtain ⟨k0, k1, k2, _⟩ := k
  unfold State.fasMatch
  dsimp only
  repeat' first
    | with_reducible assumption | with_reducible exact .refl _ _ | with_reducible apply State.pastFas_within
    | with_reducible apply State.declareIf_within | with_reducible apply State.when_within
    | with_reducible apply State.setCands_within | intro _ | split

/-- What `execFasSearchMatch` may write. -/
def execFasSearchMatch_touch : Nat :=
  union [State.fasMatch_touch, State.begin_touch]

theorem execFasSearchMatch_within {M : Nat} (s : State) (k : Covers M execFasSearchMatch_touch) (w : Wing) :
    Answered M s (execFasSearchMatch w s) := by
  simp only [execFasSearchMatch_touch, covers_union] at k
  obtain ⟨k0, k1, _⟩ := k
  unfold execFasSearchMatch
  dsimp only
  repeat' first
    | apply answered_next | with_reducible assumption | with_reducible exact .refl _ _
    | with_reducible apply State.fasMatch_within | with_reducible apply State.begin_within
    | with_reducible exact may_row (by with_reducible assumption) | split

/-- What `State.outOfFrame` may write. -/
def State.outOfFrame_touch : Nat :=
  union [Row.OHD_EVT_IF_CHANGE.bit, Row.OHD_FR_STAT_IF.bit, Row.OHD_FR_STAT_IM.bit, Row.OHD_FR_STAT_MFX_VALID.bit,
    Row.OHD_SMC_OOF_EV_COUNT.bit, State.onOtn_touch, State.noteSsf_touch, State.evt_touch, State.count_touch]

theorem State.outOfFrame_within {M : Nat} {s₀ s : State} (h : Within M s₀ s) (k : Covers M State.outOfFrame_touch)
    (w : Wing) :
    Within M s₀ (State.outOfFrame s w) := by
  simp only [State.outOfFrame_touch, covers_union] at k
  obtain ⟨k0, k1, k2, k3, k4, k5, k6, k7, k8, _⟩ := k
  unfold State.outOfFrame
  dsimp only
  repeat' first
    | with_reducible assumption | with_reducible exact .refl _ _ | with_reducible apply State.onOtn_within
    | with_reducible apply State.noteSsf_within | with_reducible apply State.evt_within
    | with_reducible apply State.count_within | with_reducible apply State.wrb_within
    | with_reducible exact may_row (by with_reducible assumption) | intro _ | split

/-- What `execOofDeclare` may write. -/
def execOofDeclare_touch : Nat :=
  union [State.outOfFrame_touch, State.begin_touch, State.startSearch_touch]

theorem execOofDeclare_within {M : Nat} (s : State) (k : Covers M execOofDeclare_touch) (w : Wing) :
    Answered M s (execOofDeclare w s) := by
  simp only [execOofDeclare_touch, covers_union] at k
  obtain ⟨k0, k1, k2, _⟩ := k
  unfold execOofDeclare
  dsimp only
  repeat' first
    | apply answered_next | with_reducible assumption | with_reducible exact .refl _ _
    | with_reducible apply State.outOfFrame_within | with_reducible apply State.begin_within
    | with_reducible apply State.startSearch_within | with_reducible exact may_row (by with_reducible assumption)
    | split

/-- What `execOomDeclare` may write. -/
def execOomDeclare_touch : Nat :=
  union [Row.OHD_FR_STAT_IM.bit, Row.OHD_FR_STAT_MFX_VALID.bit, State.onOtn_touch, State.noteSsf_touch,
    State.begin_touch]

theorem execOomDeclare_within {M : Nat} (s : State) (k : Covers M execOomDeclare_touch) (w : Wing) :
    Answered M s (execOomDeclare w s) := by
  simp only [execOomDeclare_touch, covers_union] at k
  obtain ⟨k0, k1, k2, k3, k4, _⟩ := k
  unfold execOomDeclare
  dsimp only
  repeat' first
    | apply answered_next | with_reducible assumption | with_reducible exact .refl _ _
    | with_reducible apply State.onOtn_within | with_reducible apply State.noteSsf_within
    | with_reducible apply State.begin_within | with_reducible apply State.wrb_within
    | with_reducible exact may_row (by with_reducible assumption) | intro _ | split

/-- What `State.takeMfas` may write. -/
def State.takeMfas_touch : Nat :=
  union [Row.OHD_FR_STAT_IM.bit, Row.OHD_FR_STAT_MFAS.bit, State.onOtn_touch]

theorem State.takeMfas_within {M : Nat} {s₀ s : State} (h : Within M s₀ s) (k : Covers M State.takeMfas_touch)
    (w : Wing) (m : Nat) :
    Within M s₀ (State.takeMfas s w m) := by
  simp only [State.takeMfas_touch, covers_union] at k
  obtain ⟨k0, k1, k2, _⟩ := k
  unfold State.takeMfas
  dsimp only
  repeat' first
    | with_reducible assumption | with_reducible exact .refl _ _ | with_reducible apply State.onOtn_within
    | with_reducible apply State.wr_within | with_reducible apply State.wrb_within
    | with_reducible exact may_row (by with_reducible assumption) | intro _ | split

/-- What `State.takeMfx` may write. -/
def State.takeMfx_touch : Nat :=
  union [Row.OHD_FR_STAT_MFX.bit, Row.OHD_FR_STAT_MFX_VALID.bit, State.onOtn_touch]

theorem State.takeMfx_within {M : Nat} {s₀ s : State} (h : Within M s₀ s) (k : Covers M State.takeMfx_touch)
    (w : Wing) (m : Nat) (x : Nat) :
    Within M s₀ (State.takeMfx s w m x) := by
  simp only [State.takeMfx_touch, covers_union] at k
  obtain ⟨k0, k1, k2, _⟩ := k
  unfold State.takeMfx
  dsimp only
  repeat' first
    | with_reducible assumption | with_reducible exact .refl _ _ | with_reducible apply State.onOtn_within
    | with_reducible apply State.wr_within | with_reducible apply State.when_within
    | with_reducible apply State.wrb_within | with_reducible exact may_row (by with_reducible assumption) | intro _
    | split

/-- What `State.smBlock` may write. -/
def State.smBlock_touch : Nat :=
  union [Row.OHD_SMC_FE_BEI_COUNT.bit, Row.OHD_SMC_FE_EB_COUNT.bit, Row.OHD_SMC_FRAMES_COUNT.bit,
    Row.OHD_SMC_NE_BIP_COUNT.bit, Row.OHD_SMC_NE_EB_COUNT.bit, State.onOtn_touch, State.count_touch]

theorem State.smBlock_within {M : Nat} {s₀ s : State} (h : Within M s₀ s) (k : Covers M State.smBlock_touch)
    (w : Wing) (f : OtnFrame) :
    Within M s₀ (State.smBlock s w f) := by
  simp only [State.smBlock_touch, covers_union] at k
  obtain ⟨k0, k1, k2, k3, k4, k5, k6, _⟩ := k
  unfold State.smBlock
  dsimp only
  repeat' first
    | with_reducible assumption | with_reducible exact .refl _ _ | with_reducible apply State.onOtn_within
    | with_reducible apply State.count_within | with_reducible exact may_row (by with_reducible assumption)

/-- What `State.smStatus` may write. -/
def State.smStatus_touch : Nat :=
  union [State.onOtn_touch]

theorem State.smStatus_within {M : Nat} {s₀ s : State} (h : Within M s₀ s) (k : Covers M State.smStatus_touch)
    (w : Wing) (f : OtnFrame) :
    Within M s₀ (State.smStatus s w f) := by
  simp only [State.smStatus_touch, covers_union] at k
  obtain ⟨k0, _⟩ := k
  unfold State.smStatus
  repeat' first
    | with_reducible assumption | with_reducible exact .refl _ _ | with_reducible apply State.onOtn_within | intro _
    | split

/-- What `State.smTrace` may write. -/
def State.smTrace_touch : Nat :=
  union [Row.OHD_EVT_TTI_ACC.bit, Row.OHD_SM_TTI_ACC_BYTES.bit, State.onOtn_touch, State.evt_touch]

theorem State.smTrace_within {M : Nat} {s₀ s : State} (h : Within M s₀ s) (k : Covers M State.smTrace_touch)
    (w : Wing) (f : OtnFrame) :
    Within M s₀ (State.smTrace s w f) := by
  simp only [State.smTrace_touch, covers_union] at k
  obtain ⟨k0, k1, k2, k3, _⟩ := k
  unfold State.smTrace
  dsimp only
  repeat' first
    | with_reducible assumption | with_reducible exact .refl _ _ | with_reducible apply State.onOtn_within
    | with_reducible apply State.wr_within | with_reducible apply State.evt_within
    | with_reducible apply State.upTo_within | with_reducible exact may_row (by with_reducible assumption) | intro _
    | split

/-- What `State.pmBlock` may write. -/
def State.pmBlock_touch : Nat :=
  union [Row.OHD_PMC_BLOCKS_COUNT.bit, Row.OHD_PMC_FE_BEI_COUNT.bit, Row.OHD_PMC_FE_EB_COUNT.bit,
    Row.OHD_PMC_NE_BIP_COUNT.bit, Row.OHD_PMC_NE_EB_COUNT.bit, State.onPm_touch, State.count_touch]

theorem State.pmBlock_within {M : Nat} {s₀ s : State} (h : Within M s₀ s) (k : Covers M State.pmBlock_touch)
    (w : Wing) (c : Nat) (f : OtnFrame) :
    Within M s₀ (State.pmBlock s w c f) := by
  simp only [State.pmBlock_touch, covers_union] at k
  obtain ⟨k0, k1, k2, k3, k4, k5, k6, _⟩ := k
  unfold State.pmBlock
  dsimp only
  repeat' first
    | with_reducible assumption | with_reducible exact .refl _ _ | with_reducible apply State.onPm_within
    | with_reducible apply State.count_within | with_reducible exact may_row (by with_reducible assumption)

/-- What `State.pmStatus` may write. -/
def State.pmStatus_touch : Nat :=
  union [State.onPm_touch]

theorem State.pmStatus_within {M : Nat} {s₀ s : State} (h : Within M s₀ s) (k : Covers M State.pmStatus_touch)
    (w : Wing) (c : Nat) (f : OtnFrame) :
    Within M s₀ (State.pmStatus s w c f) := by
  simp only [State.pmStatus_touch, covers_union] at k
  obtain ⟨k0, _⟩ := k
  unfold State.pmStatus
  repeat' first
    | with_reducible assumption | with_reducible exact .refl _ _ | with_reducible apply State.onPm_within | intro _
    | split

/-- What `State.pmAps` may write. -/
def State.pmAps_touch : Nat :=
  union [Row.OHD_APS_CNT_INCONSISTENT.bit, State.countWrap_touch, State.onPm_touch]

theorem State.pmAps_within {M : Nat} {s₀ s : State} (h : Within M s₀ s) (k : Covers M State.pmAps_touch) (w : Wing)
    (c : Nat) (f : OtnFrame) :
    Within M s₀ (State.pmAps s w c f) := by
  simp only [State.pmAps_touch, covers_union] at k
  obtain ⟨k0, k1, k2, _⟩ := k
  unfold State.pmAps
  dsimp only
  repeat' first
    | with_reducible assumption | with_reducible exact .refl _ _ | with_reducible apply State.countWrap_within
    | with_reducible apply State.onPm_within | with_reducible apply State.when_within
    | with_reducible exact may_row (by with_reducible assumption) | intro _ | split

/-- What `State.pmTrace` may write. -/
def State.pmTrace_touch : Nat :=
  union [Row.OHD_EVT_TTI_ACC.bit, Row.OHD_TTI_ACC_BYTES.bit, State.evt_touch, State.onPm_touch]

theorem State.pmTrace_within {M : Nat} {s₀ s : State} (h : Within M s₀ s) (k : Covers M State.pmTrace_touch)
    (w : Wing) (c : Nat) (f : OtnFrame) :
    Within M s₀ (State.pmTrace s w c f) := by
  simp only [State.pmTrace_touch, covers_union] at k
  obtain ⟨k0, k1, k2, k3, _⟩ := k
  unfold State.pmTrace
  dsimp only
  repeat' first
    | with_reducible assumption | with_reducible exact .refl _ _ | with_reducible apply State.wr_within
    | with_reducible apply State.evt_within | with_reducible apply State.onPm_within
    | with_reducible apply State.upTo_within | with_reducible exact may_row (by with_reducible assumption) | intro _
    | split

/-- What `State.receiveFrame` may write. -/
def State.receiveFrame_touch : Nat :=
  union [State.takeMfas_touch, State.smStatus_touch, State.pmAps_touch, State.pmStatus_touch, State.onOtn_touch,
    State.takeMfx_touch, State.pmBlock_touch, State.pmTrace_touch, State.smBlock_touch, State.smTrace_touch]

theorem State.receiveFrame_within {M : Nat} {s₀ s : State} (h : Within M s₀ s)
    (k : Covers M State.receiveFrame_touch) (w : Wing) (f : OtnFrame) :
    Within M s₀ (State.receiveFrame s w f) := by
  simp only [State.receiveFrame_touch, covers_union] at k
  obtain ⟨k0, k1, k2, k3, k4, k5, k6, k7, k8, k9, _⟩ := k
  unfold State.receiveFrame
  dsimp only
  repeat' first
    | with_reducible assumption | with_reducible exact .refl _ _ | with_reducible apply State.takeMfas_within
    | with_reducible apply State.smStatus_within | with_reducible apply State.pmAps_within
    | with_reducible apply State.pmStatus_within | with_reducible apply State.onOtn_within
    | with_reducible apply State.takeMfx_within | with_reducible apply State.pmBlock_within
    | with_reducible apply State.pmTrace_within | with_reducible apply State.smBlock_within
    | with_reducible apply State.smTrace_within | with_reducible apply within_foldl
    | with_reducible exact may_row (by with_reducible assumption) | intro _ | split

/-- What `State.examine` may write. -/
def State.examine_touch : Nat :=
  union [State.onOtn_touch, State.receiveFrame_touch]

theorem State.examine_within {M : Nat} {s₀ s : State} (h : Within M s₀ s) (k : Covers M State.examine_touch)
    (w : Wing) (f : OtnFrame) :
    Within M s₀ (State.examine s w f) := by
  simp only [State.examine_touch, covers_union] at k
  obtain ⟨k0, k1, _⟩ := k
  unfold State.examine
  dsimp only
  repeat' first
    | with_reducible assumption | with_reducible exact .refl _ _ | with_reducible apply State.onOtn_within
    | with_reducible apply State.receiveFrame_within | intro _ | split

/-- What `execOtnFrameRx` may write. -/
def execOtnFrameRx_touch : Nat :=
  union [State.begin_touch, State.examine_touch]

theorem execOtnFrameRx_within {M : Nat} (s : State) (k : Covers M execOtnFrameRx_touch) (w : Wing) :
    Answered M s (execOtnFrameRx w s) := by
  simp only [execOtnFrameRx_touch, covers_union] at k
  obtain ⟨k0, k1, _⟩ := k
  unfold execOtnFrameRx
  dsimp only
  repeat' first
    | apply answered_next | with_reducible assumption | with_reducible exact .refl _ _
    | with_reducible apply State.begin_within | with_reducible apply State.examine_within | split

/-- What `State.setSm` may write. -/
def State.setSm_touch : Nat :=
  union [Row.OHD_SMC_DEF_SEEN_DEFS.bit, Row.OHD_SM_DEF_AIS.bit, Row.OHD_SM_DEF_BDI.bit, Row.OHD_SM_DEF_BIAE.bit,
    Row.OHD_SM_DEF_DEG.bit, Row.OHD_SM_DEF_IAE.bit, Row.OHD_SM_DEF_LOF.bit, Row.OHD_SM_DEF_LOM.bit,
    Row.OHD_SM_DEF_TIM.bit, State.noteSsf_touch]

theorem State.setSm_within {M : Nat} {s₀ s : State} (h : Within M s₀ s) (k : Covers M State.setSm_touch) (w : Wing)
    (d : Nat) (on : Bool) :
    Within M s₀ (State.setSm s w d on) := by
  simp only [State.setSm_touch, covers_union] at k
  obtain ⟨k0, k1, k2, k3, k4, k5, k6, k7, k8, k9, _⟩ := k
  unfold State.setSm
  repeat' first
    | with_reducible assumption | with_reducible exact .refl _ _ | with_reducible apply State.noteSsf_within
    | with_reducible apply State.bit_within | with_reducible apply State.when_within
    | with_reducible apply State.wrb_within | with_reducible exact may_row (by with_reducible assumption)
    | unfold smDefRow | intro _ | split

/-- What `State.restartSeen` may write. -/
def State.restartSeen_touch : Nat :=
  union [Row.OHD_PMC_DEF_SEEN_DEFS.bit, Row.OHD_SMC_DEF_SEEN_DEFS.bit]

theorem State.restartSeen_within {M : Nat} {s₀ s : State} (h : Within M s₀ s) (k : Covers M State.restartSeen_touch)
    (w : Wing) :
    Within M s₀ (State.restartSeen s w) := by
  simp only [State.restartSeen_touch, covers_union] at k
  obtain ⟨k0, k1, _⟩ := k
  unfold State.restartSeen
  dsimp only
  repeat' first
    | with_reducible assumption | with_reducible exact .refl _ _ | with_reducible apply State.wr_within
    | with_reducible apply State.bit_within | with_reducible apply State.when_within
    | with_reducible apply State.upTo_within | with_reducible exact may_row (by with_reducible assumption) | intro _

/-- What `State.setPm` may write. -/
def State.setPm_touch : Nat :=
  union [Row.OHD_PMC_DEF_SEEN_DEFS.bit, Row.OHD_PM_DEF_DEF.bit, State.noteSsf_touch]

theorem State.setPm_within {M : Nat} {s₀ s : State} (h : Within M s₀ s) (k : Covers M State.setPm_touch) (w : Wing)
    (c : Nat) (d : Nat) (on : Bool) :
    Within M s₀ (State.setPm s w c d on) := by
  simp only [State.setPm_touch, covers_union] at k
  obtain ⟨k0, k1, k2, _⟩ := k
  unfold State.setPm
  dsimp only
  repeat' first
    | with_reducible assumption | with_reducible exact .refl _ _ | with_reducible apply State.unbit_within
    | with_reducible apply State.noteSsf_within | with_reducible apply State.bit_within
    | with_reducible exact may_row (by with_reducible assumption) | split

/-- What `execDefectChange` may write. -/
def execDefectChange_touch : Nat :=
  union [State.setSm_touch, State.setPm_touch, State.begin_touch]

theorem execDefectChange_within {M : Nat} (s : State) (k : Covers M execDefectChange_touch) (w : Wing) (d : Fin 14)
    (ch : Fin 32) :
    Answered M s (execDefectChange w d ch s) := by
  simp only [execDefectChange_touch, covers_union] at k
  obtain ⟨k0, k1, k2, _⟩ := k
  unfold execDefectChange
  dsimp only
  repeat' first
    | apply answered_next | with_reducible assumption | with_reducible exact .refl _ _
    | with_reducible apply State.setSm_within | with_reducible apply State.setPm_within
    | with_reducible apply State.begin_within | split

/-- What `State.smDegSecond` may write. -/
def State.smDegSecond_touch : Nat :=
  union [State.setSm_touch, State.onOtn_touch]

theorem State.smDegSecond_within {M : Nat} {s₀ s : State} (h : Within M s₀ s) (k : Covers M State.smDegSecond_touch)
    (w : Wing) :
    Within M s₀ (State.smDegSecond s w) := by
  simp only [State.smDegSecond_touch, covers_union] at k
  obtain ⟨k0, k1, _⟩ := k
  unfold State.smDegSecond
  dsimp only
  repeat' first
    | with_reducible assumption | with_reducible exact .refl _ _ | with_reducible apply State.setSm_within
    | with_reducible apply State.onOtn_within | with_reducible exact may_row (by with_reducible assumption) | intro _
    | split

/-- What `State.smDegTenth` may write. -/
def State.smDegTenth_touch : Nat :=
  union [State.setSm_touch, State.onOtn_touch]

theorem State.smDegTenth_within {M : Nat} {s₀ s : State} (h : Within M s₀ s) (k : Covers M State.smDegTenth_touch)
    (w : Wing) :
    Within M s₀ (State.smDegTenth s w) := by
  simp only [State.smDegTenth_touch, covers_union] at k
  obtain ⟨k0, k1, _⟩ := k
  unfold State.smDegTenth
  dsimp only
  repeat' first
    | with_reducible assumption | with_reducible exact .refl _ _ | with_reducible apply State.setSm_within
    | with_reducible apply State.onOtn_within | with_reducible exact may_row (by with_reducible assumption) | intro _
    | split

/-- What `State.pmDegSecond` may write. -/
def State.pmDegSecond_touch : Nat :=
  union [State.setPm_touch, State.onPm_touch]

theorem State.pmDegSecond_within {M : Nat} {s₀ s : State} (h : Within M s₀ s) (k : Covers M State.pmDegSecond_touch)
    (w : Wing) (c : Nat) :
    Within M s₀ (State.pmDegSecond s w c) := by
  simp only [State.pmDegSecond_touch, covers_union] at k
  obtain ⟨k0, k1, _⟩ := k
  unfold State.pmDegSecond
  dsimp only
  repeat' first
    | with_reducible assumption | with_reducible exact .refl _ _ | with_reducible apply State.setPm_within
    | with_reducible apply State.onPm_within | with_reducible exact may_row (by with_reducible assumption) | intro _
    | split

/-- What `State.pmDegTenth` may write. -/
def State.pmDegTenth_touch : Nat :=
  union [State.setPm_touch, State.onPm_touch]

theorem State.pmDegTenth_within {M : Nat} {s₀ s : State} (h : Within M s₀ s) (k : Covers M State.pmDegTenth_touch)
    (w : Wing) (skip : Bool) (c : Nat) :
    Within M s₀ (State.pmDegTenth s w skip c) := by
  simp only [State.pmDegTenth_touch, covers_union] at k
  obtain ⟨k0, k1, _⟩ := k
  unfold State.pmDegTenth
  dsimp only
  repeat' first
    | with_reducible assumption | with_reducible exact .refl _ _ | with_reducible apply State.setPm_within
    | with_reducible apply State.onPm_within | with_reducible exact may_row (by with_reducible assumption) | intro _
    | split

/-- What `State.degrade` may write. -/
def State.degrade_touch : Nat :=
  union [State.pmDegTenth_touch, State.smDegSecond_touch, State.smDegTenth_touch, State.pmDegSecond_touch]

theorem State.degrade_within {M : Nat} {s₀ s : State} (h : Within M s₀ s) (k : Covers M State.degrade_touch)
    (w : Wing) (second : Bool) :
    Within M s₀ (State.degrade s w second) := by
  simp only [State.degrade_touch, covers_union] at k
  obtain ⟨k0, k1, k2, k3, _⟩ := k
  unfold State.degrade
  dsimp only
  repeat' first
    | with_reducible assumption | with_reducible exact .refl _ _ | with_reducible apply State.pmDegTenth_within
    | with_reducible apply State.smDegSecond_within | with_reducible apply State.smDegTenth_within
    | with_reducible apply State.pmDegSecond_within | with_reducible apply State.when_within
    | with_reducible apply State.upTo_within | with_reducible exact may_row (by with_reducible assumption) | intro _
    | split

/-- What `execDegEval` may write. -/
def execDegEval_touch : Nat :=
  union [State.degrade_touch, State.begin_touch]

theorem execDegEval_within {M : Nat} (s : State) (k : Covers M execDegEval_touch) (w : Wing) (second : Bool) :
    Answered M s (execDegEval w second s) := by
  simp only [execDegEval_touch, covers_union] at k
  obtain ⟨k0, k1, _⟩ := k
  unfold execDegEval
  repeat' first
    | apply answered_next | with_reducible assumption | with_reducible exact .refl _ _
    | with_reducible apply State.degrade_within | with_reducible apply State.begin_within

/-- What `State.showSmFail` may write. -/
def State.showSmFail_touch : Nat :=
  union [Row.OHD_EVT_SM_FAIL.bit, Row.OHD_SM_FAIL_AIS.bit, Row.OHD_SM_FAIL_BDI.bit, Row.OHD_SM_FAIL_BIAE.bit,
    Row.OHD_SM_FAIL_DEG.bit, Row.OHD_SM_FAIL_IAE.bit, Row.OHD_SM_FAIL_LOF.bit, Row.OHD_SM_FAIL_LOM.bit,
    Row.OHD_SM_FAIL_TIM.bit, State.evt_touch]

theorem State.showSmFail_within {M : Nat} {s₀ s : State} (h : Within M s₀ s) (k : Covers M State.showSmFail_touch)
    (w : Wing) :
    Within M s₀ (State.showSmFail s w) := by
  simp only [State.showSmFail_touch, covers_union] at k
  obtain ⟨k0, k1, k2, k3, k4, k5, k6, k7, k8, k9, _⟩ := k
  unfold State.showSmFail
  dsimp only
  repeat' first
    | with_reducible assumption | with_reducible exact .refl _ _ | with_reducible apply State.evt_within
    | with_reducible apply State.when_within | with_reducible apply State.wrb_within
    | with_reducible apply State.upTo_within | with_reducible exact may_row (by with_reducible assumption)
    | unfold smFailRow | intro _ | split

/-- What `State.showPmFail` may write. -/
def State.showPmFail_touch : Nat :=
  union [Row.OHD_EVT_PM_FAIL.bit, Row.OHD_PM_FAIL_FAIL.bit, State.evt_touch]

theorem State.showPmFail_within {M : Nat} {s₀ s : State} (h : Within M s₀ s) (k : Covers M State.showPmFail_touch)
    (w : Wing) (c : Nat) :
    Within M s₀ (State.showPmFail s w c) := by
  simp only [State.showPmFail_touch, covers_union] at k
  obtain ⟨k0, k1, k2, _⟩ := k
  unfold State.showPmFail
  dsimp only
  repeat' first
    | with_reducible assumption | with_reducible exact .refl _ _ | with_reducible apply State.wr_within
    | with_reducible apply State.evt_within | with_reducible exact may_row (by with_reducible assumption) | split

/-- What `State.showFails` may write. -/
def State.showFails_touch : Nat :=
  union [State.showSmFail_touch, State.showPmFail_touch]

theorem State.showFails_within {M : Nat} {s₀ s : State} (h : Within M s₀ s) (k : Covers M State.showFails_touch)
    (w : Wing) :
    Within M s₀ (State.showFails s w) := by
  simp only [State.showFails_touch, covers_union] at k
  obtain ⟨k0, k1, _⟩ := k
  unfold State.showFails
  repeat' first
    | with_reducible assumption | with_reducible exact .refl _ _ | with_reducible apply State.showSmFail_within
    | with_reducible apply State.showPmFail_within | with_reducible apply State.upTo_within | intro _

/-- What `State.setFail` may write. -/
def State.setFail_touch : Nat :=
  union [State.onOtn_touch, State.showFails_touch, State.onPm_touch]

theorem State.setFail_within {M : Nat} {s₀ s : State} (h : Within M s₀ s) (k : Covers M State.setFail_touch)
    (w : Wing) (d : Nat) (c : Nat) (on : Bool) :
    Within M s₀ (State.setFail s w d c on) := by
  simp only [State.setFail_touch, covers_union] at k
  obtain ⟨k0, k1, k2, _⟩ := k
  unfold State.setFail
  dsimp only
  repeat' first
    | with_reducible assumption | with_reducible exact .refl _ _ | with_reducible apply State.onOtn_within
    | with_reducible apply State.showFails_within | with_reducible apply State.onPm_within | intro _ | split

/-- What `execFailureDeclare` may write. -/
def execFailureDeclare_touch : Nat :=
  union [State.begin_touch, State.setFail_touch]

theorem execFailureDeclare_within {M : Nat} (s : State) (k : Covers M execFailureDeclare_touch) (w : Wing)
    (d : Fin 14) (ch : Fin 32) :
    Answered M s (execFailureDeclare w d ch s) := by
  simp only [execFailureDeclare_touch, covers_union] at k
  obtain ⟨k0, k1, _⟩ := k
  unfold execFailureDeclare
  dsimp only
  repeat' first
    | apply answered_next | with_reducible assumption | with_reducible exact .refl _ _
    | with_reducible apply State.begin_within | with_reducible apply State.setFail_within | split

/-- What `execFailureClear` may write. -/
def execFailureClear_touch : Nat :=
  union [State.begin_touch, State.setFail_touch]

theorem execFailureClear_within {M : Nat} (s : State) (k : Covers M execFailureClear_touch) (w : Wing) (d : Fin 14)
    (ch : Fin 32) :
    Answered M s (execFailureClear w d ch s) := by
  simp only [execFailureClear_touch, covers_union] at k
  obtain ⟨k0, k1, _⟩ := k
  unfold execFailureClear
  dsimp only
  repeat' first
    | apply answered_next | with_reducible assumption | with_reducible exact .refl _ _
    | with_reducible apply State.begin_within | with_reducible apply State.setFail_within | split

/-- What `State.acceptAps` may write. -/
def State.acceptAps_touch : Nat :=
  union [Row.OHD_APS_CNT_CHANGES.bit, Row.OHD_APS_RX_VALUE.bit, Row.OHD_EVT_APS_RX.bit, Part.groups.bit,
    State.countWrap_touch, State.evt_touch, State.reselect_touch]

theorem State.acceptAps_within {M : Nat} {s₀ s : State} (h : Within M s₀ s) (k : Covers M State.acceptAps_touch)
    (w : Wing) (c : Nat) (g : Nat) :
    Within M s₀ (State.acceptAps s w c g) := by
  simp only [State.acceptAps_touch, covers_union] at k
  obtain ⟨k0, k1, k2, k3, k4, k5, k6, _⟩ := k
  unfold State.acceptAps
  dsimp only
  repeat' first
    | with_reducible assumption | with_reducible exact .refl _ _ | with_reducible apply State.countWrap_within
    | with_reducible apply State.wr_within | with_reducible apply State.evt_within
    | with_reducible apply State.reselect_within | with_reducible exact may_row (by with_reducible assumption)
    | with_reducible apply within_groups

/-- What `execApsAccept` may write. -/
def execApsAccept_touch : Nat :=
  union [State.acceptAps_touch, State.begin_touch]

theorem execApsAccept_within {M : Nat} (s : State) (k : Covers M execApsAccept_touch) (w : Wing) (ch : Fin 32) :
    Answered M s (execApsAccept w ch s) := by
  simp only [execApsAccept_touch, covers_union] at k
  obtain ⟨k0, k1, _⟩ := k
  unfold execApsAccept
  dsimp only
  repeat' first
    | apply answered_next | with_reducible assumption | with_reducible exact .refl _ _
    | with_reducible apply State.acceptAps_within | with_reducible apply State.begin_within
    | with_reducible exact may_row (by with_reducible assumption) | split

/-- What `execGcc0MsgRx` may write. -/
def execGcc0MsgRx_touch : Nat :=
  union [Row.OHD_GCC_STAT_CRC_ERR.bit, Row.OHD_GCC_STAT_RX_MSG.bit, State.countWrap_touch, State.onOtn_touch,
    State.begin_touch]

theorem execGcc0MsgRx_within {M : Nat} (s : State) (k : Covers M execGcc0MsgRx_touch) (w : Wing) :
    Answered M s (execGcc0MsgRx w s) := by
  simp only [execGcc0MsgRx_touch, covers_union] at k
  obtain ⟨k0, k1, k2, k3, k4, _⟩ := k
  unfold execGcc0MsgRx
  dsimp only
  repeat' first
    | apply answered_next | with_reducible assumption | with_reducible exact .refl _ _
    | with_reducible apply State.countWrap_within | with_reducible apply State.onOtn_within
    | with_reducible apply State.begin_within | with_reducible exact may_row (by with_reducible assumption) | intro _
    | split

end Sys2Proof.Machine
end

