-- ==== Sys2Proof/Laws/WithinIcmQueue.lean ====
section
/-!
SUPPORT. `Within` over the operations of Machine/IcmQueue.lean.
-/

namespace Sys2Proof.Machine

/-- What `State.onIcm` may write. -/
def State.onIcm_touch : Nat :=
  union [Part.icm.bit]

theorem State.onIcm_within {M : Nat} {s₀ s : State} (h : Within M s₀ s) (k : Covers M State.onIcm_touch) (w : Wing)
    (f : IcmSide → IcmSide) :
    Within M s₀ (State.onIcm s w f) := by
  simp only [State.onIcm_touch, covers_union] at k
  obtain ⟨k0, _⟩ := k
  unfold State.onIcm
  repeat' first | with_reducible assumption | with_reducible exact .refl _ _ | with_reducible apply within_icm

/-- What `State.showQueued` may write. -/
def State.showQueued_touch : Nat :=
  union [Row.ICM_USER_TX_CTL_QUEUED.bit]

theorem State.showQueued_within {M : Nat} {s₀ s : State} (h : Within M s₀ s) (k : Covers M State.showQueued_touch)
    (w : Wing) :
    Within M s₀ (State.showQueued s w) := by
  simp only [State.showQueued_touch, covers_union] at k
  obtain ⟨k0, _⟩ := k
  unfold State.showQueued
  repeat' first
    | with_reducible assumption | with_reducible exact .refl _ _ | with_reducible apply State.wr_within
    | with_reducible exact may_row (by with_reducible assumption)

/-- What `State.icmQueue` may write. -/
def State.icmQueue_touch : Nat :=
  union [State.onIcm_touch, State.showQueued_touch]

theorem State.icmQueue_within {M : Nat} {s₀ s : State} (h : Within M s₀ s) (k : Covers M State.icmQueue_touch)
    (w : Wing) (m : IcmMsg) :
    Within M s₀ (State.icmQueue s w m) := by
  simp only [State.icmQueue_touch, covers_union] at k
  obtain ⟨k0, k1, _⟩ := k
  unfold State.icmQueue
  repeat' first
    | with_reducible assumption | with_reducible exact .refl _ _ | with_reducible apply State.onIcm_within
    | with_reducible apply State.showQueued_within

/-- What `State.queueAlarm` may write. -/
def State.queueAlarm_touch : Nat :=
  union [State.icmQueue_touch, State.onIcm_touch]

theorem State.queueAlarm_within {M : Nat} {s₀ s : State} (h : Within M s₀ s) (k : Covers M State.queueAlarm_touch)
    (w : Wing) :
    Within M s₀ (State.queueAlarm s w) := by
  simp only [State.queueAlarm_touch, covers_union] at k
  obtain ⟨k0, k1, _⟩ := k
  unfold State.queueAlarm
  dsimp only
  repeat' first
    | with_reducible assumption | with_reducible exact .refl _ _ | with_reducible apply State.icmQueue_within
    | with_reducible apply State.onIcm_within

/-- What `State.queueBringup` may write. -/
def State.queueBringup_touch : Nat :=
  union [State.icmQueue_touch, State.onIcm_touch]

theorem State.queueBringup_within {M : Nat} {s₀ s : State} (h : Within M s₀ s)
    (k : Covers M State.queueBringup_touch) (w : Wing) :
    Within M s₀ (State.queueBringup s w) := by
  simp only [State.queueBringup_touch, covers_union] at k
  obtain ⟨k0, k1, _⟩ := k
  unfold State.queueBringup
  repeat' first
    | with_reducible assumption | with_reducible exact .refl _ _ | with_reducible apply State.icmQueue_within
    | with_reducible apply State.onIcm_within

/-- What `State.icmRefresh` may write. -/
def State.icmRefresh_touch : Nat :=
  union [State.queueBringup_touch, State.queueAlarm_touch]

theorem State.icmRefresh_within {M : Nat} {s₀ s : State} (h : Within M s₀ s) (k : Covers M State.icmRefresh_touch)
    (w : Wing) :
    Within M s₀ (State.icmRefresh s w) := by
  simp only [State.icmRefresh_touch, covers_union] at k
  obtain ⟨k0, k1, _⟩ := k
  unfold State.icmRefresh
  dsimp only
  repeat' first
    | with_reducible assumption | with_reducible exact .refl _ _ | with_reducible apply State.queueBringup_within
    | with_reducible apply State.queueAlarm_within | with_reducible apply State.when_within | intro _ | split

/-- What `State.icmAbort` may write. -/
def State.icmAbort_touch : Nat :=
  union [Row.ICM_CNT4_TX_ABORT.bit, Row.ICM_EVT_TX_ABORT.bit, State.countWrap_touch, State.evt_touch,
    State.onIcm_touch, State.showQueued_touch]

theorem State.icmAbort_within {M : Nat} {s₀ s : State} (h : Within M s₀ s) (k : Covers M State.icmAbort_touch)
    (w : Wing) :
    Within M s₀ (State.icmAbort s w) := by
  simp only [State.icmAbort_touch, covers_union] at k
  obtain ⟨k0, k1, k2, k3, k4, k5, _⟩ := k
  unfold State.icmAbort
  dsimp only
  repeat' first
    | with_reducible assumption | with_reducible exact .refl _ _ | with_reducible apply State.countWrap_within
    | with_reducible apply State.evt_within | with_reducible apply State.onIcm_within
    | with_reducible apply State.showQueued_within | with_reducible exact may_row (by with_reducible assumption)
    | intro _ | split

/-- What `State.icmSearch` may write. -/
def State.icmSearch_touch : Nat :=
  union [Row.ICM_RX_STAT_AGC_FROZEN.bit, Row.ICM_RX_STAT_STATE.bit, State.onIcm_touch]

theorem State.icmSearch_within {M : Nat} {s₀ s : State} (h : Within M s₀ s) (k : Covers M State.icmSearch_touch)
    (w : Wing) :
    Within M s₀ (State.icmSearch s w) := by
  simp only [State.icmSearch_touch, covers_union] at k
  obtain ⟨k0, k1, k2, _⟩ := k
  unfold State.icmSearch
  repeat' first
    | with_reducible assumption | with_reducible exact .refl _ _ | with_reducible apply State.wr_within
    | with_reducible apply State.onIcm_within | with_reducible apply State.wrb_within
    | with_reducible exact may_row (by with_reducible assumption)

/-- What `State.icmOutput` may write. -/
def State.icmOutput_touch : Nat :=
  union [Row.ICM_CNT5_ERASED.bit, State.countWrap_touch, State.onIcm_touch]

theorem State.icmOutput_within {M : Nat} {s₀ s : State} (h : Within M s₀ s) (k : Covers M State.icmOutput_touch)
    (w : Wing) (v : Int) (unsettled : Bool) :
    Within M s₀ (State.icmOutput s w v unsettled) := by
  simp only [State.icmOutput_touch, covers_union] at k
  obtain ⟨k0, k1, k2, _⟩ := k
  unfold State.icmOutput
  dsimp only
  repeat' first
    | with_reducible assumption | with_reducible exact .refl _ _ | with_reducible apply State.countWrap_within
    | with_reducible apply State.onIcm_within | with_reducible exact may_row (by with_reducible assumption) | intro _
    | split

end Sys2Proof.Machine
end

