-- ==== Sys2Proof/Laws/WithinFec.lean ====
section
/-!
SUPPORT. `Within` over the operations of Machine/Fec.lean.
-/

namespace Sys2Proof.Machine

/-- What `State.onDec` may write. -/
def State.onDec_touch : Nat :=
  union [Part.dec.bit]

theorem State.onDec_within {M : Nat} {s₀ s : State} (h : Within M s₀ s) (k : Covers M State.onDec_touch) (w : Wing)
    (f : Decoder → Decoder) :
    Within M s₀ (State.onDec s w f) := by
  simp only [State.onDec_touch, covers_union] at k
  obtain ⟨k0, _⟩ := k
  unfold State.onDec
  repeat' first | with_reducible assumption | with_reducible exact .refl _ _ | with_reducible apply within_dec

/-- What `State.showAcct` may write. -/
def State.showAcct_touch : Nat :=
  union [Row.FEC_ACCT_A_BLOCKS.bit, Row.FEC_ACCT_A_DM_BITS.bit, Row.FEC_ACCT_I_INFO.bit, Row.FEC_ACCT_P_PARITY.bit]

theorem State.showAcct_within {M : Nat} {s₀ s : State} (h : Within M s₀ s) (k : Covers M State.showAcct_touch)
    (w : Wing) (t : Nat) (n : Nat) (fec : Nat) :
    Within M s₀ (State.showAcct s w t n fec) := by
  simp only [State.showAcct_touch, covers_union] at k
  obtain ⟨k0, k1, k2, k3, _⟩ := k
  unfold State.showAcct
  repeat' first
    | with_reducible assumption | with_reducible exact .refl _ _ | with_reducible apply State.wr_within
    | with_reducible exact may_row (by with_reducible assumption)

/-- What `State.countBlock` may write. -/
def State.countBlock_touch : Nat :=
  union [Row.FEC_BITS_HI_BITS.bit, Row.FEC_BITS_LO_BITS.bit, Row.FEC_BLOCKS_HI_BLOCKS.bit,
    Row.FEC_BLOCKS_LO_BLOCKS.bit, Row.FEC_DEMATCH_HI_DEMATCH_ERR.bit, Row.FEC_DEMATCH_LO_DEMATCH_ERR.bit,
    Row.FEC_ERR_BITS_HI_ERR_BITS.bit, Row.FEC_ERR_BITS_LO_ERR_BITS.bit, Row.FEC_ITER_HI_ITER_SUM.bit,
    Row.FEC_ITER_LO_ITER_SUM.bit, Row.FEC_UNCORR_HI_UNCORR.bit, Row.FEC_UNCORR_LO_UNCORR.bit,
    Row.FEC_UNCORR_P1_HI_UNCORR_P1.bit, Row.FEC_UNCORR_P1_LO_UNCORR_P1.bit, State.countWide_touch]

theorem State.countBlock_within {M : Nat} {s₀ s : State} (h : Within M s₀ s) (k : Covers M State.countBlock_touch)
    (w : Wing) (b : BlockResult) :
    Within M s₀ (State.countBlock s w b) := by
  simp only [State.countBlock_touch, covers_union] at k
  obtain ⟨k0, k1, k2, k3, k4, k5, k6, k7, k8, k9, k10, k11, k12, k13, k14, _⟩ := k
  unfold State.countBlock
  dsimp only
  repeat' first
    | with_reducible assumption | with_reducible exact .refl _ _ | with_reducible apply State.countWide_within
    | with_reducible exact may_row (by with_reducible assumption)

/-- What `State.blockOut` may write. -/
def State.blockOut_touch : Nat :=
  union [Row.FEC_STAT_PROFILE_RX.bit, State.otnTake_touch, State.countBlock_touch, State.onDec_touch,
    State.say_touch]

theorem State.blockOut_within {M : Nat} {s₀ s : State} (h : Within M s₀ s) (k : Covers M State.blockOut_touch)
    (w : Wing) (h' : HeldBlock) (bits : List Bool) (r : BlockResult) :
    Within M s₀ (State.blockOut s w h' bits r) := by
  simp only [State.blockOut_touch, covers_union] at k
  obtain ⟨k0, k1, k2, k3, k4, _⟩ := k
  unfold State.blockOut
  dsimp only
  repeat' first
    | with_reducible assumption | with_reducible exact .refl _ _ | with_reducible apply State.otnTake_within
    | with_reducible apply State.countBlock_within | with_reducible apply State.onDec_within
    | with_reducible apply State.wr_within | with_reducible apply State.say_within
    | with_reducible exact may_row (by with_reducible assumption)

/-- What `State.passAgain` may write. -/
def State.passAgain_touch : Nat :=
  union [Part.rx.bit, State.onDec_touch]

theorem State.passAgain_within {M : Nat} {s₀ s : State} (h : Within M s₀ s) (k : Covers M State.passAgain_touch)
    (w : Wing) (h' : HeldBlock) (first : List Bool) (firstZero : Bool) :
    Within M s₀ (State.passAgain s w h' first firstZero) := by
  simp only [State.passAgain_touch, covers_union] at k
  obtain ⟨k0, k1, _⟩ := k
  unfold State.passAgain
  dsimp only
  repeat' first
    | with_reducible assumption | with_reducible exact .refl _ _ | with_reducible apply State.onDec_within
    | with_reducible exact may_row (by with_reducible assumption) | intro _ | split | with_reducible apply within_rx

/-- What `State.oldestOut` may write. -/
def State.oldestOut_touch : Nat :=
  union [State.blockOut_touch, State.onDec_touch, State.passAgain_touch]

theorem State.oldestOut_within {M : Nat} {s₀ s : State} (h : Within M s₀ s) (k : Covers M State.oldestOut_touch)
    (w : Wing) (b : BlockRx) :
    Within M s₀ (State.oldestOut s w b) := by
  simp only [State.oldestOut_touch, covers_union] at k
  obtain ⟨k0, k1, k2, _⟩ := k
  unfold State.oldestOut
  dsimp only
  repeat' first
    | with_reducible assumption | with_reducible exact .refl _ _ | with_reducible apply State.blockOut_within
    | with_reducible apply State.onDec_within | with_reducible apply State.passAgain_within | intro _ | split

/-- What `State.blockIn` may write. -/
def State.blockIn_touch : Nat :=
  union [State.onDec_touch]

theorem State.blockIn_within {M : Nat} {s₀ s : State} (h : Within M s₀ s) (k : Covers M State.blockIn_touch)
    (w : Wing) (b : BlockRx) :
    Within M s₀ (State.blockIn s w b) := by
  simp only [State.blockIn_touch, covers_union] at k
  obtain ⟨k0, _⟩ := k
  unfold State.blockIn
  dsimp only
  repeat' first | with_reducible assumption | with_reducible exact .refl _ _ | with_reducible apply State.onDec_within

/-- What `execFecBlockDecode` may write. -/
def execFecBlockDecode_touch : Nat :=
  union [State.blockIn_touch, State.begin_touch, State.oldestOut_touch]

theorem execFecBlockDecode_within {M : Nat} (s : State) (k : Covers M execFecBlockDecode_touch) (w : Wing)
    (b : BlockRx) :
    Answered M s (execFecBlockDecode w b s) := by
  simp only [execFecBlockDecode_touch, covers_union] at k
  obtain ⟨k0, k1, k2, _⟩ := k
  unfold execFecBlockDecode
  dsimp only
  repeat' first
    | apply answered_next | with_reducible assumption | with_reducible exact .refl _ _
    | with_reducible apply State.blockIn_within | with_reducible apply State.begin_within
    | with_reducible apply State.oldestOut_within | split

/-- What `State.flushBlocks` may write. -/
def State.flushBlocks_touch : Nat :=
  union [State.blockOut_touch, State.onDec_touch]

theorem State.flushBlocks_within {M : Nat} {s₀ s : State} (h : Within M s₀ s) (k : Covers M State.flushBlocks_touch)
    (w : Wing) :
    Within M s₀ (State.flushBlocks s w) := by
  simp only [State.flushBlocks_touch, covers_union] at k
  obtain ⟨k0, k1, _⟩ := k
  unfold State.flushBlocks
  repeat' first
    | with_reducible assumption | with_reducible exact .refl _ _ | with_reducible apply State.blockOut_within
    | with_reducible apply State.onDec_within | with_reducible apply within_foldl | intro _

/-- What `execFecLock` may write. -/
def execFecLock_touch : Nat :=
  union [Row.FEC_EVT_LOCK.bit, Row.FEC_STAT_LOCKED.bit, State.openStream_touch, State.onDec_touch, State.evt_touch,
    State.begin_touch]

theorem execFecLock_within {M : Nat} (s : State) (k : Covers M execFecLock_touch) (w : Wing) :
    Answered M s (execFecLock w s) := by
  simp only [execFecLock_touch, covers_union] at k
  obtain ⟨k0, k1, k2, k3, k4, k5, _⟩ := k
  unfold execFecLock
  dsimp only
  repeat' first
    | apply answered_next | with_reducible assumption | with_reducible exact .refl _ _
    | with_reducible apply State.openStream_within | with_reducible apply State.onDec_within
    | with_reducible apply State.evt_within | with_reducible apply State.begin_within
    | with_reducible apply State.wrb_within | with_reducible exact may_row (by with_reducible assumption) | intro _
    | split

/-- What `State.sfMismatch` may write. -/
def State.sfMismatch_touch : Nat :=
  union [Part.rx.bit]

theorem State.sfMismatch_within {M : Nat} {s₀ s : State} (h : Within M s₀ s) (k : Covers M State.sfMismatch_touch)
    (w : Wing) (n : Nat) :
    Within M s₀ (State.sfMismatch s w n) := by
  simp only [State.sfMismatch_touch, covers_union] at k
  obtain ⟨k0, _⟩ := k
  unfold State.sfMismatch
  dsimp only
  repeat' first | with_reducible assumption | with_reducible exact .refl _ _ | split | with_reducible apply within_rx

/-- What `State.setFecSf` may write. -/
def State.setFecSf_touch : Nat :=
  union [Row.FEC_EVT_SF_CHANGE.bit, Row.FEC_STAT_SF.bit, State.sfMismatch_touch, State.evt_touch,
    State.icmRefresh_touch]

theorem State.setFecSf_within {M : Nat} {s₀ s : State} (h : Within M s₀ s) (k : Covers M State.setFecSf_touch)
    (w : Wing) (on : Bool) (n : Nat) :
    Within M s₀ (State.setFecSf s w on n) := by
  simp only [State.setFecSf_touch, covers_union] at k
  obtain ⟨k0, k1, k2, k3, k4, _⟩ := k
  unfold State.setFecSf
  repeat' first
    | with_reducible assumption | with_reducible exact .refl _ _ | with_reducible apply State.sfMismatch_within
    | with_reducible apply State.evt_within | with_reducible apply State.icmRefresh_within
    | with_reducible apply State.when_within | with_reducible apply State.wrb_within
    | with_reducible exact may_row (by with_reducible assumption) | intro _ | split

/-- What `State.fecUnlock` may write. -/
def State.fecUnlock_touch : Nat :=
  union [Row.FEC_EVT_LOCK_LOSS.bit, Row.FEC_STAT_LOCKED.bit, State.stopSearch_touch, State.noteSsf_touch,
    State.onDec_touch, State.setFecSf_touch, State.outOfFrame_touch, State.evt_touch]

theorem State.fecUnlock_within {M : Nat} {s₀ s : State} (h : Within M s₀ s) (k : Covers M State.fecUnlock_touch)
    (w : Wing) :
    Within M s₀ (State.fecUnlock s w) := by
  simp only [State.fecUnlock_touch, covers_union] at k
  obtain ⟨k0, k1, k2, k3, k4, k5, k6, k7, _⟩ := k
  unfold State.fecUnlock
  dsimp only
  repeat' first
    | with_reducible assumption | with_reducible exact .refl _ _ | with_reducible apply State.stopSearch_within
    | with_reducible apply State.noteSsf_within | with_reducible apply State.onDec_within
    | with_reducible apply State.setFecSf_within | with_reducible apply State.outOfFrame_within
    | with_reducible apply State.evt_within | with_reducible apply State.wrb_within
    | with_reducible exact may_row (by with_reducible assumption) | intro _ | split

/-- What `execFecLockLoss` may write. -/
def execFecLockLoss_touch : Nat :=
  union [State.fecUnlock_touch, State.begin_touch]

theorem execFecLockLoss_within {M : Nat} (s : State) (k : Covers M execFecLockLoss_touch) (w : Wing) :
    Answered M s (execFecLockLoss w s) := by
  simp only [execFecLockLoss_touch, covers_union] at k
  obtain ⟨k0, k1, _⟩ := k
  unfold execFecLockLoss
  dsimp only
  repeat' first
    | apply answered_next | with_reducible assumption | with_reducible exact .refl _ _
    | with_reducible apply State.fecUnlock_within | with_reducible apply State.begin_within
    | with_reducible exact may_row (by with_reducible assumption) | split

/-- What `State.showRxAcct` may write. -/
def State.showRxAcct_touch : Nat :=
  union [State.showAcct_touch]

theorem State.showRxAcct_within {M : Nat} {s₀ s : State} (h : Within M s₀ s) (k : Covers M State.showRxAcct_touch)
    (w : Wing) :
    Within M s₀ (State.showRxAcct s w) := by
  simp only [State.showRxAcct_touch, covers_union] at k
  obtain ⟨k0, _⟩ := k
  unfold State.showRxAcct
  repeat' first
    | with_reducible assumption | with_reducible exact .refl _ _ | with_reducible apply State.showAcct_within

/-- What `State.fecBoundary` may write. -/
def State.fecBoundary_touch : Nat :=
  union [State.showRxAcct_touch, State.onDec_touch]

theorem State.fecBoundary_within {M : Nat} {s₀ s : State} (h : Within M s₀ s) (k : Covers M State.fecBoundary_touch)
    (w : Wing) :
    Within M s₀ (State.fecBoundary s w) := by
  simp only [State.fecBoundary_touch, covers_union] at k
  obtain ⟨k0, k1, _⟩ := k
  unfold State.fecBoundary
  repeat' first
    | with_reducible assumption | with_reducible exact .refl _ _ | with_reducible apply State.showRxAcct_within
    | with_reducible apply State.onDec_within

/-- What `execDfecSfChange` may write. -/
def execDfecSfChange_touch : Nat :=
  union [State.setFecSf_touch, State.begin_touch]

theorem execDfecSfChange_within {M : Nat} (s : State) (k : Covers M execDfecSfChange_touch) (w : Wing) :
    Answered M s (execDfecSfChange w s) := by
  simp only [execDfecSfChange_touch, covers_union] at k
  obtain ⟨k0, k1, _⟩ := k
  unfold execDfecSfChange
  dsimp only
  repeat' first
    | apply answered_next | with_reducible assumption | with_reducible exact .refl _ _
    | with_reducible apply State.setFecSf_within | with_reducible apply State.begin_within
    | with_reducible exact may_row (by with_reducible assumption) | split

/-- What `State.setFecSd` may write. -/
def State.setFecSd_touch : Nat :=
  union [Row.FEC_EVT_SD_CHANGE.bit, Row.FEC_STAT_SD.bit, State.evt_touch]

theorem State.setFecSd_within {M : Nat} {s₀ s : State} (h : Within M s₀ s) (k : Covers M State.setFecSd_touch)
    (w : Wing) (on : Bool) :
    Within M s₀ (State.setFecSd s w on) := by
  simp only [State.setFecSd_touch, covers_union] at k
  obtain ⟨k0, k1, k2, _⟩ := k
  unfold State.setFecSd
  repeat' first
    | with_reducible assumption | with_reducible exact .refl _ _ | with_reducible apply State.evt_within
    | with_reducible apply State.wrb_within | with_reducible exact may_row (by with_reducible assumption) | split

/-- What `State.sdWindow` may write. -/
def State.sdWindow_touch : Nat :=
  union [State.setFecSd_touch, State.onDec_touch]

theorem State.sdWindow_within {M : Nat} {s₀ s : State} (h : Within M s₀ s) (k : Covers M State.sdWindow_touch)
    (w : Wing) :
    Within M s₀ (State.sdWindow s w) := by
  simp only [State.sdWindow_touch, covers_union] at k
  obtain ⟨k0, k1, _⟩ := k
  unfold State.sdWindow
  dsimp only
  repeat' first
    | with_reducible assumption | with_reducible exact .refl _ _ | with_reducible apply State.setFecSd_within
    | with_reducible apply State.onDec_within | with_reducible exact may_row (by with_reducible assumption) | split

/-- What `execDfecSdWindow` may write. -/
def execDfecSdWindow_touch : Nat :=
  union [State.sdWindow_touch, State.begin_touch]

theorem execDfecSdWindow_within {M : Nat} (s : State) (k : Covers M execDfecSdWindow_touch) (w : Wing) :
    Answered M s (execDfecSdWindow w s) := by
  simp only [execDfecSdWindow_touch, covers_union] at k
  obtain ⟨k0, k1, _⟩ := k
  unfold execDfecSdWindow
  dsimp only
  repeat' first
    | apply answered_next | with_reducible assumption | with_reducible exact .refl _ _
    | with_reducible apply State.sdWindow_within | with_reducible apply State.begin_within | split

end Sys2Proof.Machine
end

