-- ==== Sys2Proof/Laws/WithinHeader.lean ====
section
/-!
SUPPORT. `Within` over the operations of Machine/Header.lean.
-/

namespace Sys2Proof.Machine

/-- What `State.sendHeader` may write. -/
def State.sendHeader_touch : Nat :=
  union [Part.tx.bit, State.say_touch]

theorem State.sendHeader_within {M : Nat} {s₀ s : State} (h : Within M s₀ s) (k : Covers M State.sendHeader_touch)
    (w : Wing) :
    Within M s₀ (State.sendHeader s w) := by
  simp only [State.sendHeader_touch, covers_union] at k
  obtain ⟨k0, k1, _⟩ := k
  unfold State.sendHeader
  dsimp only
  repeat' first
    | with_reducible assumption | with_reducible exact .refl _ _ | with_reducible apply State.say_within
    | with_reducible apply within_tx

end Sys2Proof.Machine
end

