-- ==== Sys2Proof/Laws/WithinElastic.lean ====
section
/-!
SUPPORT. `Within` over the operations of Machine/Elastic.lean.
-/

namespace Sys2Proof.Machine

/-- What `State.onRx` may write. -/
def State.onRx_touch : Nat :=
  union [Part.rx.bit]

theorem State.onRx_within {M : Nat} {s₀ s : State} (h : Within M s₀ s) (k : Covers M State.onRx_touch) (w : Wing)
    (f : RxLine → RxLine) :
    Within M s₀ (State.onRx s w f) := by
  simp only [State.onRx_touch, covers_union] at k
  obtain ⟨k0, _⟩ := k
  unfold State.onRx
  repeat' first | with_reducible assumption | with_reducible exact .refl _ _ | with_reducible apply within_rx

/-- What `State.settleAdvice` may write. -/
def State.settleAdvice_touch : Nat :=
  union [State.onTx_touch]

theorem State.settleAdvice_within {M : Nat} {s₀ s : State} (h : Within M s₀ s)
    (k : Covers M State.settleAdvice_touch) (w : Wing) :
    Within M s₀ (State.settleAdvice s w) := by
  simp only [State.settleAdvice_touch, covers_union] at k
  obtain ⟨k0, _⟩ := k
  unfold State.settleAdvice
  dsimp only
  repeat' first
    | with_reducible assumption | with_reducible exact .refl _ _ | with_reducible apply State.onTx_within
    | with_reducible exact may_row (by with_reducible assumption) | intro _ | split

/-- What `State.showAnn` may write. -/
def State.showAnn_touch : Nat :=
  union [Row.TXW_LINE_NEXT_ANN_SEQ.bit, Row.TXW_LINE_NEXT_ANN_VALID.bit, Row.TXW_LINE_NEXT_COUNTDOWN.bit,
    Row.TXW_LINE_NEXT_FEC.bit, Row.TXW_LINE_NEXT_H_IDX.bit, Row.TXW_LINE_NEXT_SLOTS.bit]

theorem State.showAnn_within {M : Nat} {s₀ s : State} (h : Within M s₀ s) (k : Covers M State.showAnn_touch)
    (w : Wing) (x : Wanted) (seq : Nat) (count : Nat) (slots : Nat) :
    Within M s₀ (State.showAnn s w x seq count slots) := by
  simp only [State.showAnn_touch, covers_union] at k
  obtain ⟨k0, k1, k2, k3, k4, k5, _⟩ := k
  unfold State.showAnn
  dsimp only
  repeat' first
    | with_reducible assumption | with_reducible exact .refl _ _ | with_reducible apply State.wr_within
    | with_reducible apply State.wrb_within | with_reducible exact may_row (by with_reducible assumption)

/-- What `State.beginAnn` may write. -/
def State.beginAnn_touch : Nat :=
  union [Row.ELC_CNT0_ANNOUNCES.bit, Row.ELC_EVT_ANNOUNCE.bit, Row.ELC_EVT_MIN_BREACH.bit, State.showCounts_touch,
    State.onTx_touch, State.countWrap_touch, State.showAnn_touch, State.evt_touch]

theorem State.beginAnn_within {M : Nat} {s₀ s : State} (h : Within M s₀ s) (k : Covers M State.beginAnn_touch)
    (w : Wing) (x : Wanted) (en : Nat) (seq : Nat) (count : Nat) :
    Within M s₀ (State.beginAnn s w x en seq count) := by
  simp only [State.beginAnn_touch, covers_union] at k
  obtain ⟨k0, k1, k2, k3, k4, k5, k6, k7, _⟩ := k
  unfold State.beginAnn
  dsimp only
  repeat' first
    | with_reducible assumption | with_reducible exact .refl _ _ | with_reducible apply State.showCounts_within
    | with_reducible apply State.onTx_within | with_reducible apply State.countWrap_within
    | with_reducible apply State.showAnn_within | with_reducible apply State.evt_within
    | with_reducible apply State.when_within | with_reducible exact may_row (by with_reducible assumption) | intro _

/-- What `State.spendAdvice` may write. -/
def State.spendAdvice_touch : Nat :=
  union [State.onTx_touch]

theorem State.spendAdvice_within {M : Nat} {s₀ s : State} (h : Within M s₀ s) (k : Covers M State.spendAdvice_touch)
    (w : Wing) (x : Wanted) :
    Within M s₀ (State.spendAdvice s w x) := by
  simp only [State.spendAdvice_touch, covers_union] at k
  obtain ⟨k0, _⟩ := k
  unfold State.spendAdvice
  repeat' first
    | with_reducible assumption | with_reducible exact .refl _ _ | with_reducible apply State.onTx_within
    | with_reducible exact may_row (by with_reducible assumption) | intro _ | split

/-- What `State.announce` may write. -/
def State.announce_touch : Nat :=
  union [Row.ELC_HS_STAT_STATE.bit, Row.ELC_HS_STAT_UNCONFIRMED.bit, State.beginAnn_touch, State.sendHeader_touch,
    State.spendAdvice_touch]

theorem State.announce_within {M : Nat} {s₀ s : State} (h : Within M s₀ s) (k : Covers M State.announce_touch)
    (w : Wing) (x : Wanted) :
    Within M s₀ (State.announce s w x) := by
  simp only [State.announce_touch, covers_union] at k
  obtain ⟨k0, k1, k2, k3, k4, _⟩ := k
  unfold State.announce
  dsimp only
  repeat' first
    | with_reducible assumption | with_reducible exact .refl _ _ | with_reducible apply State.beginAnn_within
    | with_reducible apply State.sendHeader_within | with_reducible apply State.wr_within
    | with_reducible apply State.spendAdvice_within | with_reducible apply State.wrb_within
    | with_reducible exact may_row (by with_reducible assumption)

/-- What `State.sendAnnounce` may write. -/
def State.sendAnnounce_touch : Nat :=
  union [State.icmQueue_touch]

theorem State.sendAnnounce_within {M : Nat} {s₀ s : State} (h : Within M s₀ s)
    (k : Covers M State.sendAnnounce_touch) (w : Wing) (x : Wanted) :
    Within M s₀ (State.sendAnnounce s w x) := by
  simp only [State.sendAnnounce_touch, covers_union] at k
  obtain ⟨k0, _⟩ := k
  unfold State.sendAnnounce
  dsimp only
  repeat' first
    | with_reducible assumption | with_reducible exact .refl _ _ | with_reducible apply State.icmQueue_within

/-- What `State.announceIcm` may write. -/
def State.announceIcm_touch : Nat :=
  union [Row.ELC_HS_STAT_STATE.bit, State.onTx_touch, State.sendAnnounce_touch, State.spendAdvice_touch]

theorem State.announceIcm_within {M : Nat} {s₀ s : State} (h : Within M s₀ s) (k : Covers M State.announceIcm_touch)
    (w : Wing) (x : Wanted) :
    Within M s₀ (State.announceIcm s w x) := by
  simp only [State.announceIcm_touch, covers_union] at k
  obtain ⟨k0, k1, k2, k3, _⟩ := k
  unfold State.announceIcm
  dsimp only
  repeat' first
    | with_reducible assumption | with_reducible exact .refl _ _ | with_reducible apply State.onTx_within
    | with_reducible apply State.wr_within | with_reducible apply State.sendAnnounce_within
    | with_reducible apply State.spendAdvice_within | with_reducible exact may_row (by with_reducible assumption)

/-- What `execAnnounceStart` may write. -/
def execAnnounceStart_touch : Nat :=
  union [State.announce_touch, State.begin_touch]

theorem execAnnounceStart_within {M : Nat} (s : State) (k : Covers M execAnnounceStart_touch) (w : Wing) :
    Answered M s (execAnnounceStart w s) := by
  simp only [execAnnounceStart_touch, covers_union] at k
  obtain ⟨k0, k1, _⟩ := k
  unfold execAnnounceStart
  dsimp only
  repeat' first
    | apply answered_next | with_reducible assumption | with_reducible exact .refl _ _
    | with_reducible apply State.announce_within | with_reducible apply State.begin_within
    | with_reducible exact may_row (by with_reducible assumption) | split

/-- What `State.endAnn` may write. -/
def State.endAnn_touch : Nat :=
  union [Row.ELC_HS_STAT_UNCONFIRMED.bit, Row.TXW_LINE_NEXT_ANN_VALID.bit, Row.TXW_LINE_NEXT_COUNTDOWN.bit,
    State.onTx_touch]

theorem State.endAnn_within {M : Nat} {s₀ s : State} (h : Within M s₀ s) (k : Covers M State.endAnn_touch)
    (w : Wing) :
    Within M s₀ (State.endAnn s w) := by
  simp only [State.endAnn_touch, covers_union] at k
  obtain ⟨k0, k1, k2, k3, _⟩ := k
  unfold State.endAnn
  repeat' first
    | with_reducible assumption | with_reducible exact .refl _ _ | with_reducible apply State.onTx_within
    | with_reducible apply State.wr_within | with_reducible apply State.wrb_within
    | with_reducible exact may_row (by with_reducible assumption)

/-- What `State.withdraw` may write. -/
def State.withdraw_touch : Nat :=
  union [Row.ELC_CNT1_WITHDRAWN.bit, Row.ELC_EVT_WITHDRAWN.bit, Row.ELC_HS_STAT_RETRIES.bit,
    Row.ELC_HS_STAT_STATE.bit, State.showCounts_touch, State.onTx_touch, State.sendHeader_touch,
    State.countWrap_touch, State.evt_touch, State.endAnn_touch]

theorem State.withdraw_within {M : Nat} {s₀ s : State} (h : Within M s₀ s) (k : Covers M State.withdraw_touch)
    (w : Wing) :
    Within M s₀ (State.withdraw s w) := by
  simp only [State.withdraw_touch, covers_union] at k
  obtain ⟨k0, k1, k2, k3, k4, k5, k6, k7, k8, k9, _⟩ := k
  unfold State.withdraw
  dsimp only
  repeat' first
    | with_reducible assumption | with_reducible exact .refl _ _ | with_reducible apply State.showCounts_within
    | with_reducible apply State.onTx_within | with_reducible apply State.sendHeader_within
    | with_reducible apply State.countWrap_within | with_reducible apply State.wr_within
    | with_reducible apply State.evt_within | with_reducible apply State.endAnn_within
    | with_reducible exact may_row (by with_reducible assumption)

/-- What `execAnnCommitPoint` may write. -/
def execAnnCommitPoint_touch : Nat :=
  union [Row.ELC_EVT_COMMIT.bit, Row.ELC_HS_STAT_STATE.bit, State.withdraw_touch, State.evt_touch,
    State.begin_touch]

theorem execAnnCommitPoint_within {M : Nat} (s : State) (k : Covers M execAnnCommitPoint_touch) (w : Wing) :
    Answered M s (execAnnCommitPoint w s) := by
  simp only [execAnnCommitPoint_touch, covers_union] at k
  obtain ⟨k0, k1, k2, k3, k4, _⟩ := k
  unfold execAnnCommitPoint
  dsimp only
  repeat' first
    | apply answered_next | with_reducible assumption | with_reducible exact .refl _ _
    | with_reducible apply State.wr_within | with_reducible apply State.withdraw_within
    | with_reducible apply State.evt_within | with_reducible apply State.begin_within
    | with_reducible exact may_row (by with_reducible assumption) | split

/-- What `State.switchTx` may write. -/
def State.switchTx_touch : Nat :=
  union [Row.FEC_STAT_PROFILE_TX.bit, State.showCounts_touch, State.setTxMap_touch, State.onTx_touch,
    State.showAcct_touch, State.setLineCur_touch, State.applyDrain_touch]

theorem State.switchTx_within {M : Nat} {s₀ s : State} (h : Within M s₀ s) (k : Covers M State.switchTx_touch)
    (w : Wing) (h' : Nat) (fec : Nat) (enabled : Nat) (m : List Nat) (counts : List Nat) :
    Within M s₀ (State.switchTx s w h' fec enabled m counts) := by
  simp only [State.switchTx_touch, covers_union] at k
  obtain ⟨k0, k1, k2, k3, k4, k5, k6, _⟩ := k
  unfold State.switchTx
  dsimp only
  repeat' first
    | with_reducible assumption | with_reducible exact .refl _ _ | with_reducible apply State.showCounts_within
    | with_reducible apply State.setTxMap_within | with_reducible apply State.onTx_within
    | with_reducible apply State.showAcct_within | with_reducible apply State.wr_within
    | with_reducible apply State.setLineCur_within | with_reducible apply State.applyDrain_within
    | with_reducible exact may_row (by with_reducible assumption)

/-- What `State.afterSwitch` may write. -/
def State.afterSwitch_touch : Nat :=
  union [Row.ELC_CNT0_SWITCHES.bit, Row.ELC_CNT1_UNCONFIRMED.bit, Row.ELC_EVT_SWITCH.bit,
    Row.ELC_HS_STAT_FLOOR_TX.bit, Row.ELC_HS_STAT_RETRIES.bit, Row.ELC_HS_STAT_STATE.bit, State.settleAdvice_touch,
    State.onTx_touch, State.countWrap_touch, State.evt_touch, State.endAnn_touch]

theorem State.afterSwitch_within {M : Nat} {s₀ s : State} (h : Within M s₀ s) (k : Covers M State.afterSwitch_touch)
    (w : Wing) (x : Wanted) :
    Within M s₀ (State.afterSwitch s w x) := by
  simp only [State.afterSwitch_touch, covers_union] at k
  obtain ⟨k0, k1, k2, k3, k4, k5, k6, k7, k8, k9, k10, _⟩ := k
  unfold State.afterSwitch
  dsimp only
  repeat' first
    | with_reducible assumption | with_reducible exact .refl _ _ | with_reducible apply State.settleAdvice_within
    | with_reducible apply State.onTx_within | with_reducible apply State.countWrap_within
    | with_reducible apply State.wr_within | with_reducible apply State.evt_within
    | with_reducible apply State.endAnn_within | with_reducible apply State.when_within
    | with_reducible apply State.wrb_within | with_reducible exact may_row (by with_reducible assumption) | intro _

/-- What `execRateSwitch` may write. -/
def execRateSwitch_touch : Nat :=
  union [State.afterSwitch_touch, State.sendHeader_touch, State.switchTx_touch, State.begin_touch]

theorem execRateSwitch_within {M : Nat} (s : State) (k : Covers M execRateSwitch_touch) (w : Wing) :
    Answered M s (execRateSwitch w s) := by
  simp only [execRateSwitch_touch, covers_union] at k
  obtain ⟨k0, k1, k2, k3, _⟩ := k
  unfold execRateSwitch
  dsimp only
  repeat' first
    | apply answered_next | with_reducible assumption | with_reducible exact .refl _ _
    | with_reducible apply State.afterSwitch_within | with_reducible apply State.sendHeader_within
    | with_reducible apply State.switchTx_within | with_reducible apply State.begin_within | split

/-- What `execAnnounceRetry` may write. -/
def execAnnounceRetry_touch : Nat :=
  union [Row.ELC_HS_STAT_STATE.bit, State.settleAdvice_touch, State.announce_touch, State.onTx_touch,
    State.announceIcm_touch, State.begin_touch]

theorem execAnnounceRetry_within {M : Nat} (s : State) (k : Covers M execAnnounceRetry_touch) (w : Wing) :
    Answered M s (execAnnounceRetry w s) := by
  simp only [execAnnounceRetry_touch, covers_union] at k
  obtain ⟨k0, k1, k2, k3, k4, k5, _⟩ := k
  unfold execAnnounceRetry
  dsimp only
  repeat' first
    | apply answered_next | with_reducible assumption | with_reducible exact .refl _ _
    | with_reducible apply State.settleAdvice_within | with_reducible apply State.announce_within
    | with_reducible apply State.onTx_within | with_reducible apply State.wr_within
    | with_reducible apply State.announceIcm_within | with_reducible apply State.begin_within
    | with_reducible exact may_row (by with_reducible assumption) | intro _ | split

/-- What `State.setLoop` may write. -/
def State.setLoop_touch : Nat :=
  union [Row.ELC_HS_STAT_LOOP_SF.bit]

theorem State.setLoop_within {M : Nat} {s₀ s : State} (h : Within M s₀ s) (k : Covers M State.setLoop_touch)
    (w : Wing) (n : Nat) :
    Within M s₀ (State.setLoop s w n) := by
  simp only [State.setLoop_touch, covers_union] at k
  obtain ⟨k0, _⟩ := k
  unfold State.setLoop
  repeat' first
    | with_reducible assumption | with_reducible exact .refl _ _ | with_reducible apply State.wr_within
    | with_reducible exact may_row (by with_reducible assumption)

/-- What `State.ackRx` may write. -/
def State.ackRx_touch : Nat :=
  union [Row.ELC_CNT2_LATE_ACKS.bit, State.onTx_touch, State.countWrap_touch, State.setLoop_touch]

theorem State.ackRx_within {M : Nat} {s₀ s : State} (h : Within M s₀ s) (k : Covers M State.ackRx_touch) (w : Wing)
    (seq : Nat) :
    Within M s₀ (State.ackRx s w seq) := by
  simp only [State.ackRx_touch, covers_union] at k
  obtain ⟨k0, k1, k2, k3, _⟩ := k
  unfold State.ackRx
  dsimp only
  repeat' first
    | with_reducible assumption | with_reducible exact .refl _ _ | with_reducible apply State.onTx_within
    | with_reducible apply State.countWrap_within | with_reducible apply State.setLoop_within
    | with_reducible exact may_row (by with_reducible assumption) | intro _ | split

/-- What `State.adviceRx` may write. -/
def State.adviceRx_touch : Nat :=
  union [Row.ELC_ADV_RX_FEC.bit, Row.ELC_ADV_RX_H_IDX.bit, Row.ELC_ADV_RX_MARGIN.bit, Row.ELC_ADV_RX_SEQ.bit,
    Row.ELC_ADV_RX_VALID.bit, Row.ELC_ADV_RX_VIA_ICM.bit, Row.ELC_EVT_ADV_RX.bit, Row.ELC_HS_STAT_ADV_STALE.bit,
    State.settleAdvice_touch, State.evt_touch]

theorem State.adviceRx_within {M : Nat} {s₀ s : State} (h : Within M s₀ s) (k : Covers M State.adviceRx_touch)
    (w : Wing) (icm : Bool) (seq : Nat) (h' : Nat) (fec : Nat) (margin : Nat) :
    Within M s₀ (State.adviceRx s w icm seq h' fec margin) := by
  simp only [State.adviceRx_touch, covers_union] at k
  obtain ⟨k0, k1, k2, k3, k4, k5, k6, k7, k8, k9, _⟩ := k
  unfold State.adviceRx
  dsimp only
  repeat' first
    | with_reducible assumption | with_reducible exact .refl _ _ | with_reducible apply State.settleAdvice_within
    | with_reducible apply State.wr_within | with_reducible apply State.evt_within
    | with_reducible apply State.when_within | with_reducible apply State.wrb_within
    | with_reducible exact may_row (by with_reducible assumption) | intro _ | split

/-- What `execAdvStale` may write. -/
def execAdvStale_touch : Nat :=
  union [Row.ELC_HS_STAT_ADV_STALE.bit, State.begin_touch]

theorem execAdvStale_within {M : Nat} (s : State) (k : Covers M execAdvStale_touch) (w : Wing) :
    Answered M s (execAdvStale w s) := by
  simp only [execAdvStale_touch, covers_union] at k
  obtain ⟨k0, k1, _⟩ := k
  unfold execAdvStale
  dsimp only
  repeat' first
    | apply answered_next | with_reducible assumption | with_reducible exact .refl _ _
    | with_reducible apply State.begin_within | with_reducible apply State.wrb_within
    | with_reducible exact may_row (by with_reducible assumption) | split

/-- What `State.abandon` may write. -/
def State.abandon_touch : Nat :=
  union [Row.ELC_HS_STAT_RETRIES.bit, State.showCounts_touch, State.onTx_touch, State.endAnn_touch]

theorem State.abandon_within {M : Nat} {s₀ s : State} (h : Within M s₀ s) (k : Covers M State.abandon_touch)
    (w : Wing) :
    Within M s₀ (State.abandon s w) := by
  simp only [State.abandon_touch, covers_union] at k
  obtain ⟨k0, k1, k2, k3, _⟩ := k
  unfold State.abandon
  dsimp only
  repeat' first
    | with_reducible assumption | with_reducible exact .refl _ _ | with_reducible apply State.showCounts_within
    | with_reducible apply State.onTx_within | with_reducible apply State.wr_within
    | with_reducible apply State.endAnn_within | with_reducible exact may_row (by with_reducible assumption)

/-- What `State.toFloor` may write. -/
def State.toFloor_touch : Nat :=
  union [Row.ELC_EVT_MIN_BREACH.bit, State.switchTx_touch, State.evt_touch]

theorem State.toFloor_within {M : Nat} {s₀ s : State} (h : Within M s₀ s) (k : Covers M State.toFloor_touch)
    (w : Wing) :
    Within M s₀ (State.toFloor s w) := by
  simp only [State.toFloor_touch, covers_union] at k
  obtain ⟨k0, k1, k2, _⟩ := k
  unfold State.toFloor
  dsimp only
  repeat' first
    | with_reducible assumption | with_reducible exact .refl _ _ | with_reducible apply State.switchTx_within
    | with_reducible apply State.evt_within | with_reducible apply State.when_within
    | with_reducible exact may_row (by with_reducible assumption) | intro _

/-- What `State.storm` may write. -/
def State.storm_touch : Nat :=
  union [Row.ELC_EVT_STORM.bit, Row.ELC_HS_STAT_STATE.bit, State.onTx_touch, State.evt_touch]

theorem State.storm_within {M : Nat} {s₀ s : State} (h : Within M s₀ s) (k : Covers M State.storm_touch) (w : Wing) :
    Within M s₀ (State.storm s w) := by
  simp only [State.storm_touch, covers_union] at k
  obtain ⟨k0, k1, k2, k3, _⟩ := k
  unfold State.storm
  dsimp only
  repeat' first
    | with_reducible assumption | with_reducible exact .refl _ _ | with_reducible apply State.onTx_within
    | with_reducible apply State.wr_within | with_reducible apply State.evt_within
    | with_reducible exact may_row (by with_reducible assumption) | intro _ | split

/-- What `State.setIcmRc` may write. -/
def State.setIcmRc_touch : Nat :=
  union [Row.ELC_EVT_ICM_RC.bit, Row.ELC_HS_STAT_ICM_RC.bit, State.evt_touch]

theorem State.setIcmRc_within {M : Nat} {s₀ s : State} (h : Within M s₀ s) (k : Covers M State.setIcmRc_touch)
    (w : Wing) :
    Within M s₀ (State.setIcmRc s w) := by
  simp only [State.setIcmRc_touch, covers_union] at k
  obtain ⟨k0, k1, k2, _⟩ := k
  unfold State.setIcmRc
  dsimp only
  repeat' first
    | with_reducible assumption | with_reducible exact .refl _ _ | with_reducible apply State.evt_within
    | with_reducible apply State.wrb_within | with_reducible exact may_row (by with_reducible assumption) | split

/-- What `State.showRxHs` may write. -/
def State.showRxHs_touch : Nat :=
  union [Row.ELC_RX_HS_ANN_SEQ.bit, Row.ELC_RX_HS_MAP_COMPLETE.bit, Row.ELC_RX_HS_RSTATE.bit]

theorem State.showRxHs_within {M : Nat} {s₀ s : State} (h : Within M s₀ s) (k : Covers M State.showRxHs_touch)
    (w : Wing) :
    Within M s₀ (State.showRxHs s w) := by
  simp only [State.showRxHs_touch, covers_union] at k
  obtain ⟨k0, k1, k2, _⟩ := k
  unfold State.showRxHs
  dsimp only
  repeat' first
    | with_reducible assumption | with_reducible exact .refl _ _ | with_reducible apply State.wr_within
    | with_reducible apply State.wrb_within | with_reducible exact may_row (by with_reducible assumption)

/-- What `State.onRxHs` may write. -/
def State.onRxHs_touch : Nat :=
  union [State.onRx_touch, State.showRxHs_touch]

theorem State.onRxHs_within {M : Nat} {s₀ s : State} (h : Within M s₀ s) (k : Covers M State.onRxHs_touch)
    (w : Wing) (f : RxLine → RxLine) :
    Within M s₀ (State.onRxHs s w f) := by
  simp only [State.onRxHs_touch, covers_union] at k
  obtain ⟨k0, k1, _⟩ := k
  unfold State.onRxHs
  dsimp only
  repeat' first
    | with_reducible assumption | with_reducible exact .refl _ _ | with_reducible apply State.onRx_within
    | with_reducible apply State.showRxHs_within | with_reducible exact may_row (by with_reducible assumption)
    | split

/-- What `State.fallBack` may write. -/
def State.fallBack_touch : Nat :=
  union [Row.ELC_CNT2_FALLBACKS.bit, Row.ELC_EVT_FALLBACK.bit, Row.ELC_HS_STAT_FLOOR_TX.bit,
    Row.ELC_HS_STAT_STATE.bit, Row.ELC_RX_HS_CAUSE.bit, State.setIcmRc_touch, State.onTx_touch,
    State.sendHeader_touch, State.toFloor_touch, State.countWrap_touch, State.storm_touch, State.evt_touch,
    State.abandon_touch, State.icmRefresh_touch, State.onRxHs_touch]

theorem State.fallBack_within {M : Nat} {s₀ s : State} (h : Within M s₀ s) (k : Covers M State.fallBack_touch)
    (w : Wing) (cause : Nat) :
    Within M s₀ (State.fallBack s w cause) := by
  simp only [State.fallBack_touch, covers_union] at k
  obtain ⟨k0, k1, k2, k3, k4, k5, k6, k7, k8, k9, k10, k11, k12, k13, k14, _⟩ := k
  unfold State.fallBack
  dsimp only
  repeat' first
    | with_reducible assumption | with_reducible exact .refl _ _ | with_reducible apply State.setIcmRc_within
    | with_reducible apply State.onTx_within | with_reducible apply State.sendHeader_within
    | with_reducible apply State.toFloor_within | with_reducible apply State.countWrap_within
    | with_reducible apply State.wr_within | with_reducible apply State.storm_within
    | with_reducible apply State.evt_within | with_reducible apply State.abandon_within
    | with_reducible apply State.icmRefresh_within | with_reducible apply State.onRxHs_within
    | with_reducible apply State.wrb_within | with_reducible exact may_row (by with_reducible assumption)

/-- What `State.triggerAtFloor` may write. -/
def State.triggerAtFloor_touch : Nat :=
  union [Row.ELC_HS_STAT_STATE.bit, Row.ELC_RX_HS_CAUSE.bit, State.sendHeader_touch, State.abandon_touch]

theorem State.triggerAtFloor_within {M : Nat} {s₀ s : State} (h : Within M s₀ s)
    (k : Covers M State.triggerAtFloor_touch) (w : Wing) (cause : Nat) :
    Within M s₀ (State.triggerAtFloor s w cause) := by
  simp only [State.triggerAtFloor_touch, covers_union] at k
  obtain ⟨k0, k1, k2, k3, _⟩ := k
  unfold State.triggerAtFloor
  dsimp only
  repeat' first
    | with_reducible assumption | with_reducible exact .refl _ _ | with_reducible apply State.sendHeader_within
    | with_reducible apply State.wr_within | with_reducible apply State.abandon_within
    | with_reducible exact may_row (by with_reducible assumption)

/-- What `execFallback` may write. -/
def execFallback_touch : Nat :=
  union [State.onTx_touch, State.triggerAtFloor_touch, State.fallBack_touch, State.begin_touch]

theorem execFallback_within {M : Nat} (s : State) (k : Covers M execFallback_touch) (w : Wing) :
    Answered M s (execFallback w s) := by
  simp only [execFallback_touch, covers_union] at k
  obtain ⟨k0, k1, k2, k3, _⟩ := k
  unfold execFallback
  dsimp only
  repeat' first
    | apply answered_next | with_reducible assumption | with_reducible exact .refl _ _
    | with_reducible apply State.onTx_within | with_reducible apply State.triggerAtFloor_within
    | with_reducible apply State.fallBack_within | with_reducible apply State.begin_within
    | with_reducible exact may_row (by with_reducible assumption) | intro _ | split

/-- What `State.pull` may write. -/
def State.pull_touch : Nat :=
  union [State.onTx_touch]

theorem State.pull_within {M : Nat} {s₀ s : State} (h : Within M s₀ s) (k : Covers M State.pull_touch) (w : Wing)
    (cause : Nat) :
    Within M s₀ (State.pull s w cause) := by
  simp only [State.pull_touch, covers_union] at k
  obtain ⟨k0, _⟩ := k
  unfold State.pull
  repeat' first
    | with_reducible assumption | with_reducible exact .refl _ _ | with_reducible apply State.onTx_within | intro _
    | split

/-- What `execPolicyResume` may write. -/
def execPolicyResume_touch : Nat :=
  union [State.onTx_touch, State.begin_touch]

theorem execPolicyResume_within {M : Nat} (s : State) (k : Covers M execPolicyResume_touch) (w : Wing) :
    Answered M s (execPolicyResume w s) := by
  simp only [execPolicyResume_touch, covers_union] at k
  obtain ⟨k0, k1, _⟩ := k
  unfold execPolicyResume
  dsimp only
  repeat' first
    | apply answered_next | with_reducible assumption | with_reducible exact .refl _ _
    | with_reducible apply State.onTx_within | with_reducible apply State.begin_within | intro _ | split

/-- What `State.setActiveMap` may write. -/
def State.setActiveMap_touch : Nat :=
  union [State.rxAbandon_touch, State.onRx_touch]

theorem State.setActiveMap_within {M : Nat} {s₀ s : State} (h : Within M s₀ s)
    (k : Covers M State.setActiveMap_touch) (w : Wing) (m : List Nat) :
    Within M s₀ (State.setActiveMap s w m) := by
  simp only [State.setActiveMap_touch, covers_union] at k
  obtain ⟨k0, k1, _⟩ := k
  unfold State.setActiveMap
  dsimp only
  repeat' first
    | with_reducible assumption | with_reducible exact .refl _ _ | with_reducible apply State.rxAbandon_within
    | with_reducible apply State.onRx_within | with_reducible apply State.when_within
    | with_reducible apply State.upTo_within | intro _

/-- What `execMismatchDeclare` may write. -/
def execMismatchDeclare_touch : Nat :=
  union [Row.ELC_CNT3_MISMATCH.bit, Row.ELC_RX_HS_CAUSE.bit, Row.RXW_HDR_STAT_MAP_VALID.bit, State.onTx_touch,
    State.countWrap_touch, State.pull_touch, State.onRxHs_touch, State.begin_touch, State.setActiveMap_touch]

theorem execMismatchDeclare_within {M : Nat} (s : State) (k : Covers M execMismatchDeclare_touch) (w : Wing) :
    Answered M s (execMismatchDeclare w s) := by
  simp only [execMismatchDeclare_touch, covers_union] at k
  obtain ⟨k0, k1, k2, k3, k4, k5, k6, k7, k8, _⟩ := k
  unfold execMismatchDeclare
  dsimp only
  repeat' first
    | apply answered_next | with_reducible assumption | with_reducible exact .refl _ _
    | with_reducible apply State.onTx_within | with_reducible apply State.countWrap_within
    | with_reducible apply State.wr_within | with_reducible apply State.pull_within
    | with_reducible apply State.onRxHs_within | with_reducible apply State.begin_within
    | with_reducible apply State.setActiveMap_within | with_reducible apply State.wrb_within
    | with_reducible exact may_row (by with_reducible assumption) | intro _ | split

/-- What `execIcmAnnounceStart` may write. -/
def execIcmAnnounceStart_touch : Nat :=
  union [State.announceIcm_touch, State.begin_touch]

theorem execIcmAnnounceStart_within {M : Nat} (s : State) (k : Covers M execIcmAnnounceStart_touch) (w : Wing) :
    Answered M s (execIcmAnnounceStart w s) := by
  simp only [execIcmAnnounceStart_touch, covers_union] at k
  obtain ⟨k0, k1, _⟩ := k
  unfold execIcmAnnounceStart
  dsimp only
  repeat' first
    | apply answered_next | with_reducible assumption | with_reducible exact .refl _ _
    | with_reducible apply State.announceIcm_within | with_reducible apply State.begin_within
    | with_reducible exact may_row (by with_reducible assumption) | split

/-- What `execIcmAnnounceResend` may write. -/
def execIcmAnnounceResend_touch : Nat :=
  union [State.onTx_touch, State.sendAnnounce_touch, State.begin_touch]

theorem execIcmAnnounceResend_within {M : Nat} (s : State) (k : Covers M execIcmAnnounceResend_touch) (w : Wing) :
    Answered M s (execIcmAnnounceResend w s) := by
  simp only [execIcmAnnounceResend_touch, covers_union] at k
  obtain ⟨k0, k1, k2, _⟩ := k
  unfold execIcmAnnounceResend
  dsimp only
  repeat' first
    | apply answered_next | with_reducible assumption | with_reducible exact .refl _ _
    | with_reducible apply State.onTx_within | with_reducible apply State.sendAnnounce_within
    | with_reducible apply State.begin_within | with_reducible exact may_row (by with_reducible assumption) | intro _
    | split

/-- What `State.failIcm` may write. -/
def State.failIcm_touch : Nat :=
  union [Row.ELC_EVT_RC_FAIL.bit, Row.ELC_HS_STAT_STATE.bit, State.onTx_touch, State.pull_touch, State.evt_touch]

theorem State.failIcm_within {M : Nat} {s₀ s : State} (h : Within M s₀ s) (k : Covers M State.failIcm_touch)
    (w : Wing) (x : Wanted) :
    Within M s₀ (State.failIcm s w x) := by
  simp only [State.failIcm_touch, covers_union] at k
  obtain ⟨k0, k1, k2, k3, k4, _⟩ := k
  unfold State.failIcm
  dsimp only
  repeat' first
    | with_reducible assumption | with_reducible exact .refl _ _ | with_reducible apply State.onTx_within
    | with_reducible apply State.wr_within | with_reducible apply State.pull_within
    | with_reducible apply State.evt_within | with_reducible exact may_row (by with_reducible assumption) | intro _
    | split

/-- What `execIcmHandshakeFail` may write. -/
def execIcmHandshakeFail_touch : Nat :=
  union [State.failIcm_touch, State.begin_touch]

theorem execIcmHandshakeFail_within {M : Nat} (s : State) (k : Covers M execIcmHandshakeFail_touch) (w : Wing) :
    Answered M s (execIcmHandshakeFail w s) := by
  simp only [execIcmHandshakeFail_touch, covers_union] at k
  obtain ⟨k0, k1, _⟩ := k
  unfold execIcmHandshakeFail
  dsimp only
  repeat' first
    | apply answered_next | with_reducible assumption | with_reducible exact .refl _ _
    | with_reducible apply State.failIcm_within | with_reducible apply State.begin_within
    | with_reducible exact may_row (by with_reducible assumption) | split

/-- What `execEnableChangeRetry` may write. -/
def execEnableChangeRetry_touch : Nat :=
  union [State.onTx_touch, State.begin_touch]

theorem execEnableChangeRetry_within {M : Nat} (s : State) (k : Covers M execEnableChangeRetry_touch) (w : Wing) :
    Answered M s (execEnableChangeRetry w s) := by
  simp only [execEnableChangeRetry_touch, covers_union] at k
  obtain ⟨k0, k1, _⟩ := k
  unfold execEnableChangeRetry
  repeat' first
    | apply answered_next | with_reducible assumption | with_reducible exact .refl _ _
    | with_reducible apply State.onTx_within | with_reducible apply State.begin_within

/-- What `State.ackIcm` may write. -/
def State.ackIcm_touch : Nat :=
  union [Row.ELC_EVT_COMMIT.bit, Row.ELC_HS_STAT_STATE.bit, State.beginAnn_touch, State.onTx_touch, State.evt_touch]

theorem State.ackIcm_within {M : Nat} {s₀ s : State} (h : Within M s₀ s) (k : Covers M State.ackIcm_touch)
    (w : Wing) (seq : Nat) :
    Within M s₀ (State.ackIcm s w seq) := by
  simp only [State.ackIcm_touch, covers_union] at k
  obtain ⟨k0, k1, k2, k3, k4, _⟩ := k
  unfold State.ackIcm
  dsimp only
  repeat' first
    | with_reducible assumption | with_reducible exact .refl _ _ | with_reducible apply State.beginAnn_within
    | with_reducible apply State.onTx_within | with_reducible apply State.wr_within
    | with_reducible apply State.evt_within | with_reducible exact may_row (by with_reducible assumption) | intro _
    | split

/-- What `State.go` may write. -/
def State.go_touch : Nat :=
  union [State.onTx_touch]

theorem State.go_within {M : Nat} {s₀ s : State} (h : Within M s₀ s) (k : Covers M State.go_touch) (w : Wing) :
    Within M s₀ (State.go s w) := by
  simp only [State.go_touch, covers_union] at k
  obtain ⟨k0, _⟩ := k
  unfold State.go
  dsimp only
  repeat' first
    | with_reducible assumption | with_reducible exact .refl _ _ | with_reducible apply State.onTx_within
    | with_reducible exact may_row (by with_reducible assumption) | intro _ | split

/-- What `execGo` may write. -/
def execGo_touch : Nat :=
  union [State.begin_touch, State.go_touch]

theorem execGo_within {M : Nat} (s : State) (k : Covers M execGo_touch) (req : Req) (w : Wing) :
    Answered M s (execGo req w s) := by
  simp only [execGo_touch, covers_union] at k
  obtain ⟨k0, k1, _⟩ := k
  unfold execGo
  repeat' first
    | apply answered_next | with_reducible assumption | with_reducible exact .refl _ _
    | with_reducible apply State.via_within | with_reducible apply State.begin_within
    | with_reducible apply State.go_within | intro _

/-- What `State.leaveHeld` may write. -/
def State.leaveHeld_touch : Nat :=
  union [Row.ELC_HS_STAT_STATE.bit, State.onTx_touch, State.icmRefresh_touch]

theorem State.leaveHeld_within {M : Nat} {s₀ s : State} (h : Within M s₀ s) (k : Covers M State.leaveHeld_touch)
    (w : Wing) :
    Within M s₀ (State.leaveHeld s w) := by
  simp only [State.leaveHeld_touch, covers_union] at k
  obtain ⟨k0, k1, k2, _⟩ := k
  unfold State.leaveHeld
  repeat' first
    | with_reducible assumption | with_reducible exact .refl _ _ | with_reducible apply State.onTx_within
    | with_reducible apply State.wr_within | with_reducible apply State.icmRefresh_within
    | with_reducible exact may_row (by with_reducible assumption) | intro _ | split

/-- What `State.resumeHeld` may write. -/
def State.resumeHeld_touch : Nat :=
  union [State.onTx_touch, State.leaveHeld_touch]

theorem State.resumeHeld_within {M : Nat} {s₀ s : State} (h : Within M s₀ s) (k : Covers M State.resumeHeld_touch)
    (w : Wing) :
    Within M s₀ (State.resumeHeld s w) := by
  simp only [State.resumeHeld_touch, covers_union] at k
  obtain ⟨k0, k1, _⟩ := k
  unfold State.resumeHeld
  repeat' first
    | with_reducible assumption | with_reducible exact .refl _ _ | with_reducible apply State.onTx_within
    | with_reducible apply State.leaveHeld_within | intro _ | split

/-- What `execResume` may write. -/
def execResume_touch : Nat :=
  union [State.resumeHeld_touch, State.begin_touch]

theorem execResume_within {M : Nat} (s : State) (k : Covers M execResume_touch) (req : Req) (w : Wing) :
    Answered M s (execResume req w s) := by
  simp only [execResume_touch, covers_union] at k
  obtain ⟨k0, k1, _⟩ := k
  unfold execResume
  repeat' first
    | apply answered_next | with_reducible assumption | with_reducible exact .refl _ _
    | with_reducible apply State.resumeHeld_within | with_reducible apply State.via_within
    | with_reducible apply State.begin_within | intro _

/-- What `State.forceFloor` may write. -/
def State.forceFloor_touch : Nat :=
  union [State.pull_touch]

theorem State.forceFloor_within {M : Nat} {s₀ s : State} (h : Within M s₀ s) (k : Covers M State.forceFloor_touch)
    (w : Wing) :
    Within M s₀ (State.forceFloor s w) := by
  simp only [State.forceFloor_touch, covers_union] at k
  obtain ⟨k0, _⟩ := k
  unfold State.forceFloor
  repeat' first
    | with_reducible assumption | with_reducible exact .refl _ _ | with_reducible apply State.pull_within
    | with_reducible exact may_row (by with_reducible assumption) | split

/-- What `execForceFloor` may write. -/
def execForceFloor_touch : Nat :=
  union [State.forceFloor_touch, State.begin_touch]

theorem execForceFloor_within {M : Nat} (s : State) (k : Covers M execForceFloor_touch) (req : Req) (w : Wing) :
    Answered M s (execForceFloor req w s) := by
  simp only [execForceFloor_touch, covers_union] at k
  obtain ⟨k0, k1, _⟩ := k
  unfold execForceFloor
  repeat' first
    | apply answered_next | with_reducible assumption | with_reducible exact .refl _ _
    | with_reducible apply State.forceFloor_within | with_reducible apply State.via_within
    | with_reducible apply State.begin_within | intro _

/-- What `execElcModeSet` may write. -/
def execElcModeSet_touch : Nat :=
  union [Row.ELC_CTL_MODE.bit, Part.inuse.bit, State.begin_touch]

theorem execElcModeSet_within {M : Nat} (s : State) (k : Covers M execElcModeSet_touch) (req : Req) (w : Wing)
    (mode : Fin 4) :
    Answered M s (execElcModeSet req w mode s) := by
  simp only [execElcModeSet_touch, covers_union] at k
  obtain ⟨k0, k1, k2, _⟩ := k
  unfold execElcModeSet
  repeat' first
    | apply answered_next | with_reducible assumption | with_reducible exact .refl _ _
    | with_reducible apply State.wr_within | with_reducible apply State.keepUse_within
    | with_reducible apply State.releaseOne_within | with_reducible apply State.via_within
    | with_reducible apply State.begin_within | with_reducible exact may_row (by with_reducible assumption) | intro _
    | split

/-- What `execChanEnableWrite` may write. -/
def execChanEnableWrite_touch : Nat :=
  union [Row.ELC_CHAN_CFG_ENABLE.bit, State.begin_touch]

theorem execChanEnableWrite_within {M : Nat} (s : State) (k : Covers M execChanEnableWrite_touch) (req : Req)
    (w : Wing) (n : Fin 32) (on : Bool) :
    Answered M s (execChanEnableWrite req w n on s) := by
  simp only [execChanEnableWrite_touch, covers_union] at k
  obtain ⟨k0, k1, _⟩ := k
  unfold execChanEnableWrite
  repeat' first
    | apply answered_next | with_reducible assumption | with_reducible exact .refl _ _
    | with_reducible apply State.via_within | with_reducible apply State.begin_within
    | with_reducible apply State.when_within | with_reducible apply State.wrb_within
    | with_reducible exact may_row (by with_reducible assumption) | intro _

end Sys2Proof.Machine
end

