-- ==== Sys2Proof/Laws/WithinLine.lean ====
section
/-!
SUPPORT. `Within` over the operations of Machine/Line.lean.
-/

namespace Sys2Proof.Machine

/-- What `State.countDown` may write. -/
def State.countDown_touch : Nat :=
  union [Row.TXW_LINE_NEXT_COUNTDOWN.bit, State.onTx_touch]

theorem State.countDown_within {M : Nat} {s₀ s : State} (h : Within M s₀ s) (k : Covers M State.countDown_touch)
    (w : Wing) :
    Within M s₀ (State.countDown s w) := by
  simp only [State.countDown_touch, covers_union] at k
  obtain ⟨k0, k1, _⟩ := k
  unfold State.countDown
  dsimp only
  repeat' first
    | with_reducible assumption | with_reducible exact .refl _ _ | with_reducible apply State.onTx_within
    | with_reducible apply State.wr_within | with_reducible exact may_row (by with_reducible assumption) | intro _
    | split

/-- What `State.resumeDue` may write. -/
def State.resumeDue_touch : Nat :=
  union [State.onTx_touch, State.leaveHeld_touch]

theorem State.resumeDue_within {M : Nat} {s₀ s : State} (h : Within M s₀ s) (k : Covers M State.resumeDue_touch)
    (w : Wing) :
    Within M s₀ (State.resumeDue s w) := by
  simp only [State.resumeDue_touch, covers_union] at k
  obtain ⟨k0, k1, _⟩ := k
  unfold State.resumeDue
  repeat' first
    | with_reducible assumption | with_reducible exact .refl _ _ | with_reducible apply State.onTx_within
    | with_reducible apply State.leaveHeld_within | with_reducible apply State.when_within | intro _

/-- What `State.showAdvTx` may write. -/
def State.showAdvTx_touch : Nat :=
  union [Row.ELC_ADV_TX_MARGIN.bit, Row.ELC_ADV_TX_VIA_ICM.bit]

theorem State.showAdvTx_within {M : Nat} {s₀ s : State} (h : Within M s₀ s) (k : Covers M State.showAdvTx_touch)
    (w : Wing) :
    Within M s₀ (State.showAdvTx s w) := by
  simp only [State.showAdvTx_touch, covers_union] at k
  obtain ⟨k0, k1, _⟩ := k
  unfold State.showAdvTx
  dsimp only
  repeat' first
    | with_reducible assumption | with_reducible exact .refl _ _ | with_reducible apply State.wr_within
    | with_reducible apply State.when_within | with_reducible apply State.wrb_within
    | with_reducible exact may_row (by with_reducible assumption) | intro _

/-- What `State.txBoundary` may write. -/
def State.txBoundary_touch : Nat :=
  union [Row.RXW_HDR_STAT_HDR_LOSS_TX.bit, State.setIcmRc_touch, State.onTx_touch, State.sendHeader_touch,
    State.showAcct_touch, State.showCand_touch, State.showAdvTx_touch, State.countDown_touch, Part.inuse.bit,
    State.icmRefresh_touch, State.resumeDue_touch]

theorem State.txBoundary_within {M : Nat} {s₀ s : State} (h : Within M s₀ s) (k : Covers M State.txBoundary_touch)
    (w : Wing) :
    Within M s₀ (State.txBoundary s w) := by
  simp only [State.txBoundary_touch, covers_union] at k
  obtain ⟨k0, k1, k2, k3, k4, k5, k6, k7, k8, k9, k10, _⟩ := k
  unfold State.txBoundary
  dsimp only
  repeat' first
    | with_reducible assumption | with_reducible exact .refl _ _ | with_reducible apply State.setIcmRc_within
    | with_reducible apply State.onTx_within | with_reducible apply State.sendHeader_within
    | with_reducible apply State.showAcct_within | with_reducible apply State.showCand_within
    | with_reducible apply State.showAdvTx_within | with_reducible apply State.countDown_within
    | with_reducible apply State.releaseUse_within | with_reducible apply State.icmRefresh_within
    | with_reducible apply State.wrb_within | with_reducible apply State.resumeDue_within
    | with_reducible exact may_row (by with_reducible assumption) | split

/-- What `State.carry` may write. -/
def State.carry_touch : Nat :=
  union [State.onTx_touch]

theorem State.carry_within {M : Nat} {s₀ s : State} (h : Within M s₀ s) (k : Covers M State.carry_touch) (w : Wing) :
    Within M s₀ (State.carry s w) := by
  simp only [State.carry_touch, covers_union] at k
  obtain ⟨k0, _⟩ := k
  unfold State.carry
  dsimp only
  repeat' first | with_reducible assumption | with_reducible exact .refl _ _ | with_reducible apply State.onTx_within

/-- What `State.countClipped` may write. -/
def State.countClipped_touch : Nat :=
  union [Row.TXW_CLIP_CNT_COUNT.bit, State.count_touch]

theorem State.countClipped_within {M : Nat} {s₀ s : State} (h : Within M s₀ s)
    (k : Covers M State.countClipped_touch) (w : Wing) (shaped : Nat) :
    Within M s₀ (State.countClipped s w shaped) := by
  simp only [State.countClipped_touch, covers_union] at k
  obtain ⟨k0, k1, _⟩ := k
  unfold State.countClipped
  repeat' first
    | with_reducible assumption | with_reducible exact .refl _ _ | with_reducible apply State.count_within
    | with_reducible exact may_row (by with_reducible assumption)

/-- What `execSuperframeBoundaryTx` may write. -/
def execSuperframeBoundaryTx_touch : Nat :=
  union [State.carry_touch, State.countClipped_touch, State.txBoundary_touch, State.begin_touch]

theorem execSuperframeBoundaryTx_within {M : Nat} (s : State) (k : Covers M execSuperframeBoundaryTx_touch)
    (w : Wing) (shaped : Nat) :
    Answered M s (execSuperframeBoundaryTx w shaped s) := by
  simp only [execSuperframeBoundaryTx_touch, covers_union] at k
  obtain ⟨k0, k1, k2, k3, _⟩ := k
  unfold execSuperframeBoundaryTx
  dsimp only
  repeat' first
    | apply answered_next | with_reducible assumption | with_reducible exact .refl _ _
    | with_reducible apply State.carry_within | with_reducible apply State.countClipped_within
    | with_reducible apply State.txBoundary_within | with_reducible apply State.begin_within | split

/-- What `execHdrLossSet` may write. -/
def execHdrLossSet_touch : Nat :=
  union [State.onTx_touch, State.onRx_touch, State.begin_touch]

theorem execHdrLossSet_within {M : Nat} (s : State) (k : Covers M execHdrLossSet_touch) (w : Wing) :
    Answered M s (execHdrLossSet w s) := by
  simp only [execHdrLossSet_touch, covers_union] at k
  obtain ⟨k0, k1, k2, _⟩ := k
  unfold execHdrLossSet
  dsimp only
  repeat' first
    | apply answered_next | with_reducible assumption | with_reducible exact .refl _ _
    | with_reducible apply State.onTx_within | with_reducible apply State.onRx_within
    | with_reducible apply State.begin_within | intro _ | split

/-- What `execHdrLossClear` may write. -/
def execHdrLossClear_touch : Nat :=
  union [State.onTx_touch, State.begin_touch]

theorem execHdrLossClear_within {M : Nat} (s : State) (k : Covers M execHdrLossClear_touch) (w : Wing) :
    Answered M s (execHdrLossClear w s) := by
  simp only [execHdrLossClear_touch, covers_union] at k
  obtain ⟨k0, k1, _⟩ := k
  unfold execHdrLossClear
  dsimp only
  repeat' first
    | apply answered_next | with_reducible assumption | with_reducible exact .refl _ _
    | with_reducible apply State.onTx_within | with_reducible apply State.begin_within | intro _ | split

/-- What `State.alignFrame` may write. -/
def State.alignFrame_touch : Nat :=
  union [Row.RXW_HDR_STAT_CF_ALIGNED.bit, State.onRx_touch]

theorem State.alignFrame_within {M : Nat} {s₀ s : State} (h : Within M s₀ s) (k : Covers M State.alignFrame_touch)
    (w : Wing) (pos : Nat) (corr : Nat) :
    Within M s₀ (State.alignFrame s w pos corr) := by
  simp only [State.alignFrame_touch, covers_union] at k
  obtain ⟨k0, k1, _⟩ := k
  unfold State.alignFrame
  dsimp only
  repeat' first
    | with_reducible assumption | with_reducible exact .refl _ _ | with_reducible apply State.onRx_within
    | with_reducible apply State.wrb_within | with_reducible exact may_row (by with_reducible assumption) | intro _
    | split

/-- What `State.alignSf` may write. -/
def State.alignSf_touch : Nat :=
  union [Row.RXW_HDR_ERR_CF_SLIP.bit, Row.RXW_HDR_STAT_SF_ALIGNED.bit, State.onRx_touch, State.count_touch]

theorem State.alignSf_within {M : Nat} {s₀ s : State} (h : Within M s₀ s) (k : Covers M State.alignSf_touch)
    (w : Wing) (no : Nat) :
    Within M s₀ (State.alignSf s w no) := by
  simp only [State.alignSf_touch, covers_union] at k
  obtain ⟨k0, k1, k2, k3, _⟩ := k
  unfold State.alignSf
  dsimp only
  repeat' first
    | with_reducible assumption | with_reducible exact .refl _ _ | with_reducible apply State.onRx_within
    | with_reducible apply State.count_within | with_reducible apply State.wrb_within
    | with_reducible exact may_row (by with_reducible assumption) | intro _ | split

/-- What `State.showHeader` may write. -/
def State.showHeader_touch : Nat :=
  union [Row.RXW_HDR_STAT_FLOOR_RX.bit, Row.RXW_HDR_STAT_HDR_LOSS_RX.bit, Row.RXW_HDR_STAT_ICM_RC_RX.bit,
    Row.RXW_HDR_STAT_QL_RX.bit, Row.RXW_HDR_STAT_WING_RX.bit, State.showCand_touch]

theorem State.showHeader_within {M : Nat} {s₀ s : State} (h : Within M s₀ s) (k : Covers M State.showHeader_touch)
    (w : Wing) (h' : Header) :
    Within M s₀ (State.showHeader s w h') := by
  simp only [State.showHeader_touch, covers_union] at k
  obtain ⟨k0, k1, k2, k3, k4, k5, _⟩ := k
  unfold State.showHeader
  dsimp only
  repeat' first
    | with_reducible assumption | with_reducible exact .refl _ _ | with_reducible apply State.wr_within
    | with_reducible apply State.showCand_within | with_reducible apply State.wrb_within
    | with_reducible exact may_row (by with_reducible assumption)

/-- What `State.checkBaud` may write. -/
def State.checkBaud_touch : Nat :=
  union [Row.RXW_HDR_STAT_BAUD_MISM.bit, State.onRx_touch, State.emit_touch]

theorem State.checkBaud_within {M : Nat} {s₀ s : State} (h : Within M s₀ s) (k : Covers M State.checkBaud_touch)
    (w : Wing) (h' : Header) :
    Within M s₀ (State.checkBaud s w h') := by
  simp only [State.checkBaud_touch, covers_union] at k
  obtain ⟨k0, k1, k2, _⟩ := k
  unfold State.checkBaud
  dsimp only
  repeat' first
    | with_reducible assumption | with_reducible exact .refl _ _ | with_reducible apply State.onRx_within
    | with_reducible apply State.wrb_within | with_reducible apply State.emit_within
    | with_reducible exact may_row (by with_reducible assumption) | intro _ | split

/-- What `State.dropAnn` may write. -/
def State.dropAnn_touch : Nat :=
  union [State.onTx_touch, State.onRxHs_touch]

theorem State.dropAnn_within {M : Nat} {s₀ s : State} (h : Within M s₀ s) (k : Covers M State.dropAnn_touch)
    (w : Wing) (rest : Nat) :
    Within M s₀ (State.dropAnn s w rest) := by
  simp only [State.dropAnn_touch, covers_union] at k
  obtain ⟨k0, k1, _⟩ := k
  unfold State.dropAnn
  repeat' first
    | with_reducible assumption | with_reducible exact .refl _ _ | with_reducible apply State.onTx_within
    | with_reducible apply State.onRxHs_within

/-- What `State.takeCur` may write. -/
def State.takeCur_touch : Nat :=
  union [State.showRxAcct_touch, State.setRxLineCur_touch]

theorem State.takeCur_within {M : Nat} {s₀ s : State} (h : Within M s₀ s) (k : Covers M State.takeCur_touch)
    (w : Wing) (h' : Header) :
    Within M s₀ (State.takeCur s w h') := by
  simp only [State.takeCur_touch, covers_union] at k
  obtain ⟨k0, k1, _⟩ := k
  unfold State.takeCur
  repeat' first
    | with_reducible assumption | with_reducible exact .refl _ _ | with_reducible apply State.showRxAcct_within
    | with_reducible apply State.setRxLineCur_within

/-- What `State.followFloor` may write. -/
def State.followFloor_touch : Nat :=
  union [Row.RXW_HDR_STAT_MAP_VALID.bit, State.dropAnn_touch, State.onRx_touch, State.pull_touch,
    State.takeCur_touch, State.setActiveMap_touch]

theorem State.followFloor_within {M : Nat} {s₀ s : State} (h : Within M s₀ s) (k : Covers M State.followFloor_touch)
    (w : Wing) (h' : Header) :
    Within M s₀ (State.followFloor s w h') := by
  simp only [State.followFloor_touch, covers_union] at k
  obtain ⟨k0, k1, k2, k3, k4, k5, _⟩ := k
  unfold State.followFloor
  dsimp only
  repeat' first
    | with_reducible assumption | with_reducible exact .refl _ _ | with_reducible apply State.dropAnn_within
    | with_reducible apply State.onRx_within | with_reducible apply State.pull_within
    | with_reducible apply State.takeCur_within | with_reducible apply State.setActiveMap_within
    | with_reducible apply State.wrb_within | with_reducible exact may_row (by with_reducible assumption) | intro _
    | split

/-- What `State.checkFloor` may write. -/
def State.checkFloor_touch : Nat :=
  union [Row.ELC_RX_HS_FLOOR_MISM.bit]

theorem State.checkFloor_within {M : Nat} {s₀ s : State} (h : Within M s₀ s) (k : Covers M State.checkFloor_touch)
    (w : Wing) (h' : Header) :
    Within M s₀ (State.checkFloor s w h') := by
  simp only [State.checkFloor_touch, covers_union] at k
  obtain ⟨k0, _⟩ := k
  unfold State.checkFloor
  dsimp only
  repeat' first
    | with_reducible assumption | with_reducible exact .refl _ _ | with_reducible apply State.when_within
    | with_reducible apply State.wrb_within | with_reducible exact may_row (by with_reducible assumption) | intro _

/-- What `State.foundMismatch` may write. -/
def State.foundMismatch_touch : Nat :=
  union [State.onRx_touch]

theorem State.foundMismatch_within {M : Nat} {s₀ s : State} (h : Within M s₀ s)
    (k : Covers M State.foundMismatch_touch) (w : Wing) (cause : Nat) :
    Within M s₀ (State.foundMismatch s w cause) := by
  simp only [State.foundMismatch_touch, covers_union] at k
  obtain ⟨k0, _⟩ := k
  unfold State.foundMismatch
  repeat' first | with_reducible assumption | with_reducible exact .refl _ _ | with_reducible apply State.onRx_within

/-- What `State.checkCur` may write. -/
def State.checkCur_touch : Nat :=
  union [State.foundMismatch_touch, State.onRx_touch, State.takeCur_touch]

theorem State.checkCur_within {M : Nat} {s₀ s : State} (h : Within M s₀ s) (k : Covers M State.checkCur_touch)
    (w : Wing) (h' : Header) :
    Within M s₀ (State.checkCur s w h') := by
  simp only [State.checkCur_touch, covers_union] at k
  obtain ⟨k0, k1, k2, _⟩ := k
  unfold State.checkCur
  dsimp only
  repeat' first
    | with_reducible assumption | with_reducible exact .refl _ _ | with_reducible apply State.foundMismatch_within
    | with_reducible apply State.onRx_within | with_reducible apply State.takeCur_within
    | with_reducible apply State.when_within | with_reducible exact may_row (by with_reducible assumption) | intro _
    | split

/-- What `State.trackAnn` may write. -/
def State.trackAnn_touch : Nat :=
  union [State.dropAnn_touch, State.onRx_touch, State.onRxHs_touch]

theorem State.trackAnn_within {M : Nat} {s₀ s : State} (h : Within M s₀ s) (k : Covers M State.trackAnn_touch)
    (w : Wing) (h' : Header) :
    Within M s₀ (State.trackAnn s w h') := by
  simp only [State.trackAnn_touch, covers_union] at k
  obtain ⟨k0, k1, k2, _⟩ := k
  unfold State.trackAnn
  dsimp only
  repeat' first
    | with_reducible assumption | with_reducible exact .refl _ _ | with_reducible apply State.dropAnn_within
    | with_reducible apply State.onRx_within | with_reducible apply State.onRxHs_within
    | with_reducible apply State.when_within | intro _ | split

/-- What `State.headerControl` may write. -/
def State.headerControl_touch : Nat :=
  union [State.adviceRx_touch, State.ackRx_touch]

theorem State.headerControl_within {M : Nat} {s₀ s : State} (h : Within M s₀ s)
    (k : Covers M State.headerControl_touch) (w : Wing) (h' : Header) :
    Within M s₀ (State.headerControl s w h') := by
  simp only [State.headerControl_touch, covers_union] at k
  obtain ⟨k0, k1, _⟩ := k
  unfold State.headerControl
  dsimp only
  repeat' first
    | with_reducible assumption | with_reducible exact .refl _ _ | with_reducible apply State.adviceRx_within
    | with_reducible apply State.when_within | with_reducible apply State.ackRx_within | intro _

/-- What `State.takeHeader` may write. -/
def State.takeHeader_touch : Nat :=
  union [State.headerControl_touch, State.onRx_touch, State.followFloor_touch, State.checkCur_touch,
    State.checkBaud_touch, State.trackAnn_touch, State.checkFloor_touch, State.showHeader_touch]

theorem State.takeHeader_within {M : Nat} {s₀ s : State} (h : Within M s₀ s) (k : Covers M State.takeHeader_touch)
    (w : Wing) (h' : Header) :
    Within M s₀ (State.takeHeader s w h') := by
  simp only [State.takeHeader_touch, covers_union] at k
  obtain ⟨k0, k1, k2, k3, k4, k5, k6, k7, _⟩ := k
  unfold State.takeHeader
  dsimp only
  repeat' first
    | with_reducible assumption | with_reducible exact .refl _ _ | with_reducible apply State.headerControl_within
    | with_reducible apply State.onRx_within | with_reducible apply State.followFloor_within
    | with_reducible apply State.checkCur_within | with_reducible apply State.checkBaud_within
    | with_reducible apply State.when_within | with_reducible apply State.trackAnn_within
    | with_reducible apply State.checkFloor_within | with_reducible apply State.showHeader_within
    | with_reducible exact may_row (by with_reducible assumption) | intro _

/-- What `State.adoptMap` may write. -/
def State.adoptMap_touch : Nat :=
  union [Row.RXW_HDR_STAT_MAP_BAD.bit, Row.RXW_HDR_STAT_MAP_VALID.bit, State.onRx_touch, State.onDec_touch,
    State.setRxMap_touch, State.setActiveMap_touch]

theorem State.adoptMap_within {M : Nat} {s₀ s : State} (h : Within M s₀ s) (k : Covers M State.adoptMap_touch)
    (w : Wing) (h' : Header) (p : MapParts) (m : List Nat) :
    Within M s₀ (State.adoptMap s w h' p m) := by
  simp only [State.adoptMap_touch, covers_union] at k
  obtain ⟨k0, k1, k2, k3, k4, k5, _⟩ := k
  unfold State.adoptMap
  dsimp only
  repeat' first
    | with_reducible assumption | with_reducible exact .refl _ _ | with_reducible apply State.onRx_within
    | with_reducible apply State.onDec_within | with_reducible apply State.setRxMap_within
    | with_reducible apply State.setActiveMap_within | with_reducible apply State.wrb_within
    | with_reducible exact may_row (by with_reducible assumption) | intro _ | split

/-- What `State.curSegment` may write. -/
def State.curSegment_touch : Nat :=
  union [Row.RXW_HDR_STAT_MAP_DISAGREE.bit, State.foundMismatch_touch, State.adoptMap_touch, State.onRx_touch]

theorem State.curSegment_within {M : Nat} {s₀ s : State} (h : Within M s₀ s) (k : Covers M State.curSegment_touch)
    (w : Wing) (h' : Header) :
    Within M s₀ (State.curSegment s w h') := by
  simp only [State.curSegment_touch, covers_union] at k
  obtain ⟨k0, k1, k2, k3, _⟩ := k
  unfold State.curSegment
  dsimp only
  repeat' first
    | with_reducible assumption | with_reducible exact .refl _ _ | with_reducible apply State.foundMismatch_within
    | with_reducible apply State.adoptMap_within | with_reducible apply State.onRx_within
    | with_reducible apply State.wrb_within | with_reducible exact may_row (by with_reducible assumption) | intro _
    | split

/-- What `State.judgeAnn` may write. -/
def State.judgeAnn_touch : Nat :=
  union [Row.ELC_CNT3_REFUSED.bit, Row.RXW_HDR_STAT_MAP_BAD.bit, State.onTx_touch, State.countWrap_touch,
    State.onRxHs_touch]

theorem State.judgeAnn_within {M : Nat} {s₀ s : State} (h : Within M s₀ s) (k : Covers M State.judgeAnn_touch)
    (w : Wing) (h' : Header) (p : MapParts) (m : List Nat) :
    Within M s₀ (State.judgeAnn s w h' p m) := by
  simp only [State.judgeAnn_touch, covers_union] at k
  obtain ⟨k0, k1, k2, k3, k4, _⟩ := k
  unfold State.judgeAnn
  dsimp only
  repeat' first
    | with_reducible assumption | with_reducible exact .refl _ _ | with_reducible apply State.onTx_within
    | with_reducible apply State.countWrap_within | with_reducible apply State.onRxHs_within
    | with_reducible apply State.when_within | with_reducible apply State.wrb_within
    | with_reducible exact may_row (by with_reducible assumption) | intro _ | split

/-- What `State.annSegment` may write. -/
def State.annSegment_touch : Nat :=
  union [State.judgeAnn_touch, State.onRx_touch]

theorem State.annSegment_within {M : Nat} {s₀ s : State} (h : Within M s₀ s) (k : Covers M State.annSegment_touch)
    (w : Wing) (h' : Header) :
    Within M s₀ (State.annSegment s w h') := by
  simp only [State.annSegment_touch, covers_union] at k
  obtain ⟨k0, k1, _⟩ := k
  unfold State.annSegment
  dsimp only
  repeat' first
    | with_reducible assumption | with_reducible exact .refl _ _ | with_reducible apply State.judgeAnn_within
    | with_reducible apply State.onRx_within | intro _ | split

/-- What `State.takeSegment` may write. -/
def State.takeSegment_touch : Nat :=
  union [State.curSegment_touch, State.annSegment_touch]

theorem State.takeSegment_within {M : Nat} {s₀ s : State} (h : Within M s₀ s) (k : Covers M State.takeSegment_touch)
    (w : Wing) (h' : Header) :
    Within M s₀ (State.takeSegment s w h') := by
  simp only [State.takeSegment_touch, covers_union] at k
  obtain ⟨k0, k1, _⟩ := k
  unfold State.takeSegment
  repeat' first
    | with_reducible assumption | with_reducible exact .refl _ _ | with_reducible apply State.curSegment_within
    | with_reducible apply State.annSegment_within | split

/-- What `State.goodHeader` may write. -/
def State.goodHeader_touch : Nat :=
  union [Row.RXW_HDR_ERR_HDR_DIFF.bit, State.alignSf_touch, State.takeSegment_touch, State.onRx_touch,
    State.takeHeader_touch, State.count_touch]

theorem State.goodHeader_within {M : Nat} {s₀ s : State} (h : Within M s₀ s) (k : Covers M State.goodHeader_touch)
    (w : Wing) (h' : Header) :
    Within M s₀ (State.goodHeader s w h') := by
  simp only [State.goodHeader_touch, covers_union] at k
  obtain ⟨k0, k1, k2, k3, k4, k5, _⟩ := k
  unfold State.goodHeader
  dsimp only
  repeat' first
    | with_reducible assumption | with_reducible exact .refl _ _ | with_reducible apply State.alignSf_within
    | with_reducible apply State.takeSegment_within | with_reducible apply State.onRx_within
    | with_reducible apply State.takeHeader_within | with_reducible apply State.count_within
    | with_reducible exact may_row (by with_reducible assumption) | intro _ | split

/-- What `State.noHeader` may write. -/
def State.noHeader_touch : Nat :=
  union [Row.RXW_HDR_ERR_HDR_CRC.bit, State.onRx_touch, State.count_touch]

theorem State.noHeader_within {M : Nat} {s₀ s : State} (h : Within M s₀ s) (k : Covers M State.noHeader_touch)
    (w : Wing) :
    Within M s₀ (State.noHeader s w) := by
  simp only [State.noHeader_touch, covers_union] at k
  obtain ⟨k0, k1, k2, _⟩ := k
  unfold State.noHeader
  repeat' first
    | with_reducible assumption | with_reducible exact .refl _ _ | with_reducible apply State.onRx_within
    | with_reducible apply State.when_within | with_reducible apply State.count_within
    | with_reducible exact may_row (by with_reducible assumption) | intro _

/-- What `State.frameHeader` may write. -/
def State.frameHeader_touch : Nat :=
  union [State.goodHeader_touch, State.noHeader_touch]

theorem State.frameHeader_within {M : Nat} {s₀ s : State} (h : Within M s₀ s) (k : Covers M State.frameHeader_touch)
    (w : Wing) (hdr : Option HeaderRx) :
    Within M s₀ (State.frameHeader s w hdr) := by
  simp only [State.frameHeader_touch, covers_union] at k
  obtain ⟨k0, k1, _⟩ := k
  unfold State.frameHeader
  repeat' first
    | with_reducible assumption | with_reducible exact .refl _ _ | with_reducible apply State.goodHeader_within
    | with_reducible apply State.noHeader_within | with_reducible exact may_row (by with_reducible assumption)
    | split

/-- What `State.noteFrame` may write. -/
def State.noteFrame_touch : Nat :=
  union [State.onRx_touch]

theorem State.noteFrame_within {M : Nat} {s₀ s : State} (h : Within M s₀ s) (k : Covers M State.noteFrame_touch)
    (w : Wing) :
    Within M s₀ (State.noteFrame s w) := by
  simp only [State.noteFrame_touch, covers_union] at k
  obtain ⟨k0, _⟩ := k
  unfold State.noteFrame
  repeat' first | with_reducible assumption | with_reducible exact .refl _ _ | with_reducible apply State.onRx_within

/-- What `State.measureNoise` may write. -/
def State.measureNoise_touch : Nat :=
  union [State.onRx_touch]

theorem State.measureNoise_within {M : Nat} {s₀ s : State} (h : Within M s₀ s)
    (k : Covers M State.measureNoise_touch) (w : Wing) :
    Within M s₀ (State.measureNoise s w) := by
  simp only [State.measureNoise_touch, covers_union] at k
  obtain ⟨k0, _⟩ := k
  unfold State.measureNoise
  dsimp only
  repeat' first
    | with_reducible assumption | with_reducible exact .refl _ _ | with_reducible apply State.onRx_within
    | with_reducible apply State.when_within | with_reducible exact may_row (by with_reducible assumption) | intro _

/-- What `State.passDsp` may write. -/
def State.passDsp_touch : Nat :=
  union [Row.RXW_PR_SLIP_COUNT.bit, State.onRx_touch, State.count_touch]

theorem State.passDsp_within {M : Nat} {s₀ s : State} (h : Within M s₀ s) (k : Covers M State.passDsp_touch)
    (w : Wing) (adc : List (List Int)) :
    Within M s₀ (State.passDsp s w adc) := by
  simp only [State.passDsp_touch, covers_union] at k
  obtain ⟨k0, k1, k2, _⟩ := k
  unfold State.passDsp
  dsimp only
  repeat' first
    | with_reducible assumption | with_reducible exact .refl _ _ | with_reducible apply State.onRx_within
    | with_reducible apply State.when_within | with_reducible apply State.count_within
    | with_reducible exact may_row (by with_reducible assumption) | intro _

/-- What `State.frameSignal` may write. -/
def State.frameSignal_touch : Nat :=
  union [State.measureNoise_touch, State.passDsp_touch]

theorem State.frameSignal_within {M : Nat} {s₀ s : State} (h : Within M s₀ s) (k : Covers M State.frameSignal_touch)
    (w : Wing) (adc : List (List Int)) :
    Within M s₀ (State.frameSignal s w adc) := by
  simp only [State.frameSignal_touch, covers_union] at k
  obtain ⟨k0, k1, _⟩ := k
  unfold State.frameSignal
  repeat' first
    | with_reducible assumption | with_reducible exact .refl _ _ | with_reducible apply State.measureNoise_within
    | with_reducible apply State.passDsp_within | with_reducible apply State.when_within | intro _

/-- What `execCarrierFrameRx` may write. -/
def execCarrierFrameRx_touch : Nat :=
  union [State.frameHeader_touch, State.frameSignal_touch, State.alignFrame_touch, State.noteFrame_touch,
    State.begin_touch]

theorem execCarrierFrameRx_within {M : Nat} (s : State) (k : Covers M execCarrierFrameRx_touch) (w : Wing)
    (pos : Nat) (corr : Nat) (hdr : Option HeaderRx) (adc : List (List Int)) :
    Answered M s (execCarrierFrameRx w pos corr hdr adc s) := by
  simp only [execCarrierFrameRx_touch, covers_union] at k
  obtain ⟨k0, k1, k2, k3, k4, _⟩ := k
  unfold execCarrierFrameRx
  dsimp only
  repeat' first
    | apply answered_next | with_reducible assumption | with_reducible exact .refl _ _
    | with_reducible apply State.frameHeader_within | with_reducible apply State.frameSignal_within
    | with_reducible apply State.alignFrame_within | with_reducible apply State.noteFrame_within
    | with_reducible apply State.begin_within | split

/-- What `State.lossRuns` may write. -/
def State.lossRuns_touch : Nat :=
  union [State.onRx_touch]

theorem State.lossRuns_within {M : Nat} {s₀ s : State} (h : Within M s₀ s) (k : Covers M State.lossRuns_touch)
    (w : Wing) :
    Within M s₀ (State.lossRuns s w) := by
  simp only [State.lossRuns_touch, covers_union] at k
  obtain ⟨k0, _⟩ := k
  unfold State.lossRuns
  dsimp only
  repeat' first | with_reducible assumption | with_reducible exact .refl _ _ | with_reducible apply State.onRx_within

/-- What `State.lossTrigger` may write. -/
def State.lossTrigger_touch : Nat :=
  union [State.onRx_touch, State.pull_touch]

theorem State.lossTrigger_within {M : Nat} {s₀ s : State} (h : Within M s₀ s) (k : Covers M State.lossTrigger_touch)
    (w : Wing) :
    Within M s₀ (State.lossTrigger s w) := by
  simp only [State.lossTrigger_touch, covers_union] at k
  obtain ⟨k0, k1, _⟩ := k
  unfold State.lossTrigger
  dsimp only
  repeat' first
    | with_reducible assumption | with_reducible exact .refl _ _ | with_reducible apply State.onRx_within
    | with_reducible apply State.pull_within | intro _ | split

/-- What `State.sp2Request` may write. -/
def State.sp2Request_touch : Nat :=
  union [Row.RXW_SP2_STAT_WAIT_PWR.bit, Part.power.bit]

theorem State.sp2Request_within {M : Nat} {s₀ s : State} (h : Within M s₀ s) (k : Covers M State.sp2Request_touch)
    (w : Wing) :
    Within M s₀ (State.sp2Request s w) := by
  simp only [State.sp2Request_touch, covers_union] at k
  obtain ⟨k0, k1, _⟩ := k
  unfold State.sp2Request
  dsimp only
  repeat' first
    | with_reducible assumption | with_reducible exact .refl _ _ | with_reducible apply State.wrb_within
    | with_reducible exact may_row (by with_reducible assumption) | split | with_reducible apply within_power

/-- What `State.sp2Cancel` may write. -/
def State.sp2Cancel_touch : Nat :=
  union [Row.RXW_SP2_STAT_WAIT_PWR.bit, Part.power.bit]

theorem State.sp2Cancel_within {M : Nat} {s₀ s : State} (h : Within M s₀ s) (k : Covers M State.sp2Cancel_touch)
    (w : Wing) :
    Within M s₀ (State.sp2Cancel s w) := by
  simp only [State.sp2Cancel_touch, covers_union] at k
  obtain ⟨k0, k1, _⟩ := k
  unfold State.sp2Cancel
  dsimp only
  repeat' first
    | with_reducible assumption | with_reducible exact .refl _ _ | with_reducible apply State.wrb_within
    | with_reducible exact may_row (by with_reducible assumption) | intro _ | with_reducible apply within_power

/-- What `State.sp2Mode` may write. -/
def State.sp2Mode_touch : Nat :=
  union [State.onRx_touch, State.sp2Cancel_touch, State.sp2Request_touch]

theorem State.sp2Mode_within {M : Nat} {s₀ s : State} (h : Within M s₀ s) (k : Covers M State.sp2Mode_touch)
    (w : Wing) :
    Within M s₀ (State.sp2Mode s w) := by
  simp only [State.sp2Mode_touch, covers_union] at k
  obtain ⟨k0, k1, k2, _⟩ := k
  unfold State.sp2Mode
  dsimp only
  repeat' first
    | with_reducible assumption | with_reducible exact .refl _ _ | with_reducible apply State.onRx_within
    | with_reducible apply State.sp2Cancel_within | with_reducible apply State.sp2Request_within
    | with_reducible apply State.when_within | with_reducible exact may_row (by with_reducible assumption) | intro _
    | split

/-- What `State.rxBoundary` may write. -/
def State.rxBoundary_touch : Nat :=
  union [State.onRx_touch, State.sp2Mode_touch, State.fecBoundary_touch, State.lossTrigger_touch,
    State.lossRuns_touch, Part.inuse.bit, State.showRxHs_touch]

theorem State.rxBoundary_within {M : Nat} {s₀ s : State} (h : Within M s₀ s) (k : Covers M State.rxBoundary_touch)
    (w : Wing) :
    Within M s₀ (State.rxBoundary s w) := by
  simp only [State.rxBoundary_touch, covers_union] at k
  obtain ⟨k0, k1, k2, k3, k4, k5, k6, _⟩ := k
  unfold State.rxBoundary
  dsimp only
  repeat' first
    | with_reducible assumption | with_reducible exact .refl _ _ | with_reducible apply State.onRx_within
    | with_reducible apply State.sp2Mode_within | with_reducible apply State.fecBoundary_within
    | with_reducible apply State.lossTrigger_within | with_reducible apply State.lossRuns_within
    | with_reducible apply State.releaseUse_within | with_reducible apply State.showRxHs_within

/-- What `State.countFigures` may write. -/
def State.countFigures_touch : Nat :=
  union [State.onRx_touch]

theorem State.countFigures_within {M : Nat} {s₀ s : State} (h : Within M s₀ s)
    (k : Covers M State.countFigures_touch) (w : Wing) (m : SuperframeRx) :
    Within M s₀ (State.countFigures s w m) := by
  simp only [State.countFigures_touch, covers_union] at k
  obtain ⟨k0, _⟩ := k
  unfold State.countFigures
  dsimp only
  repeat' first
    | with_reducible assumption | with_reducible exact .refl _ _ | with_reducible apply State.onRx_within
    | with_reducible apply State.when_within | with_reducible exact may_row (by with_reducible assumption) | intro _

/-- What `State.follow` may write. -/
def State.follow_touch : Nat :=
  union [Row.RXW_FR_STAT_OFFSET.bit, Row.RXW_TR_STAT_OFFSET.bit]

theorem State.follow_within {M : Nat} {s₀ s : State} (h : Within M s₀ s) (k : Covers M State.follow_touch)
    (w : Wing) (m : SuperframeRx) :
    Within M s₀ (State.follow s w m) := by
  simp only [State.follow_touch, covers_union] at k
  obtain ⟨k0, k1, _⟩ := k
  unfold State.follow
  dsimp only
  repeat' first
    | with_reducible assumption | with_reducible exact .refl _ _ | with_reducible apply State.wrS_within
    | with_reducible apply State.when_within | with_reducible exact may_row (by with_reducible assumption) | intro _

/-- What `execSuperframeBoundaryRx` may write. -/
def execSuperframeBoundaryRx_touch : Nat :=
  union [State.countFigures_touch, State.follow_touch, State.rxBoundary_touch, State.begin_touch]

theorem execSuperframeBoundaryRx_within {M : Nat} (s : State) (k : Covers M execSuperframeBoundaryRx_touch)
    (w : Wing) (m : SuperframeRx) :
    Answered M s (execSuperframeBoundaryRx w m s) := by
  simp only [execSuperframeBoundaryRx_touch, covers_union] at k
  obtain ⟨k0, k1, k2, k3, _⟩ := k
  unfold execSuperframeBoundaryRx
  dsimp only
  repeat' first
    | apply answered_next | with_reducible assumption | with_reducible exact .refl _ _
    | with_reducible apply State.countFigures_within | with_reducible apply State.follow_within
    | with_reducible apply State.rxBoundary_within | with_reducible apply State.begin_within | split

/-- What `State.switchRx` may write. -/
def State.switchRx_touch : Nat :=
  union [Row.RXW_HDR_STAT_MAP_VALID.bit, State.dropAnn_touch, State.showRxAcct_touch, State.onRx_touch,
    State.setRxMap_touch, State.setRxLineCur_touch, State.setActiveMap_touch]

theorem State.switchRx_within {M : Nat} {s₀ s : State} (h : Within M s₀ s) (k : Covers M State.switchRx_touch)
    (w : Wing) (a : AnnRecord) :
    Within M s₀ (State.switchRx s w a) := by
  simp only [State.switchRx_touch, covers_union] at k
  obtain ⟨k0, k1, k2, k3, k4, k5, k6, _⟩ := k
  unfold State.switchRx
  dsimp only
  repeat' first
    | with_reducible assumption | with_reducible exact .refl _ _ | with_reducible apply State.dropAnn_within
    | with_reducible apply State.showRxAcct_within | with_reducible apply State.onRx_within
    | with_reducible apply State.setRxMap_within | with_reducible apply State.setRxLineCur_within
    | with_reducible apply State.setActiveMap_within | with_reducible apply State.wrb_within
    | with_reducible exact may_row (by with_reducible assumption) | intro _ | split

/-- What `execRxRateSwitch` may write. -/
def execRxRateSwitch_touch : Nat :=
  union [State.switchRx_touch, State.begin_touch]

theorem execRxRateSwitch_within {M : Nat} (s : State) (k : Covers M execRxRateSwitch_touch) (w : Wing) :
    Answered M s (execRxRateSwitch w s) := by
  simp only [execRxRateSwitch_touch, covers_union] at k
  obtain ⟨k0, k1, _⟩ := k
  unfold execRxRateSwitch
  dsimp only
  repeat' first
    | apply answered_next | with_reducible assumption | with_reducible exact .refl _ _
    | with_reducible apply State.switchRx_within | with_reducible apply State.begin_within | split

end Sys2Proof.Machine
end

