-- ==== Sys2Proof/Laws/WithinSupervisory.lean ====
section
/-!
SUPPORT. `Within` over the operations of Machine/Supervisory.lean.
-/

namespace Sys2Proof.Machine

/-- What `State.onSup` may write. -/
def State.onSup_touch : Nat :=
  union [Part.sup.bit]

theorem State.onSup_within {M : Nat} {s₀ s : State} (h : Within M s₀ s) (k : Covers M State.onSup_touch)
    (f : Sup → Sup) :
    Within M s₀ (State.onSup s f) := by
  simp only [State.onSup_touch, covers_union] at k
  obtain ⟨k0, _⟩ := k
  unfold State.onSup
  repeat' first | with_reducible assumption | with_reducible exact .refl _ _ | with_reducible apply within_sup

/-- What `State.unsettle` may write. -/
def State.unsettle_touch : Nat :=
  union [State.onSup_touch]

theorem State.unsettle_within {M : Nat} {s₀ s : State} (h : Within M s₀ s) (k : Covers M State.unsettle_touch)
    (k' : Nat) :
    Within M s₀ (State.unsettle s k') := by
  simp only [State.unsettle_touch, covers_union] at k
  obtain ⟨k0, _⟩ := k
  unfold State.unsettle
  dsimp only
  repeat' first | with_reducible assumption | with_reducible exact .refl _ _ | with_reducible apply State.onSup_within

/-- What `State.clearCtx` may write. -/
def State.clearCtx_touch : Nat :=
  union [State.unsettle_touch, State.onSup_touch]

theorem State.clearCtx_within {M : Nat} {s₀ s : State} (h : Within M s₀ s) (k : Covers M State.clearCtx_touch)
    (k' : Nat) :
    Within M s₀ (State.clearCtx s k') := by
  simp only [State.clearCtx_touch, covers_union] at k
  obtain ⟨k0, k1, _⟩ := k
  unfold State.clearCtx
  repeat' first
    | with_reducible assumption | with_reducible exact .refl _ _ | with_reducible apply State.unsettle_within
    | with_reducible apply State.onSup_within

/-- What `State.resetCtx` may write. -/
def State.resetCtx_touch : Nat :=
  union [Row.SUP_DEC_STAT_RESETS.bit, State.clearCtx_touch, State.countWrap_touch]

theorem State.resetCtx_within {M : Nat} {s₀ s : State} (h : Within M s₀ s) (k : Covers M State.resetCtx_touch)
    (k' : Nat) :
    Within M s₀ (State.resetCtx s k') := by
  simp only [State.resetCtx_touch, covers_union] at k
  obtain ⟨k0, k1, k2, _⟩ := k
  unfold State.resetCtx
  repeat' first
    | with_reducible assumption | with_reducible exact .refl _ _ | with_reducible apply State.clearCtx_within
    | with_reducible apply State.countWrap_within | with_reducible exact may_row (by with_reducible assumption)

/-- What `State.resetContexts` may write. -/
def State.resetContexts_touch : Nat :=
  union [State.resetCtx_touch]

theorem State.resetContexts_within {M : Nat} {s₀ s : State} (h : Within M s₀ s)
    (k : Covers M State.resetContexts_touch) :
    Within M s₀ (State.resetContexts s) := by
  simp only [State.resetContexts_touch, covers_union] at k
  obtain ⟨k0, _⟩ := k
  unfold State.resetContexts
  repeat' first
    | with_reducible assumption | with_reducible exact .refl _ _ | with_reducible apply State.resetCtx_within
    | with_reducible apply State.upTo_within | intro _

/-- What `State.wingStep` may write. -/
def State.wingStep_touch : Nat :=
  union [State.unsettle_touch]

theorem State.wingStep_within {M : Nat} {s₀ s : State} (h : Within M s₀ s) (k : Covers M State.wingStep_touch)
    (w : Wing) :
    Within M s₀ (State.wingStep s w) := by
  simp only [State.wingStep_touch, covers_union] at k
  obtain ⟨k0, _⟩ := k
  unfold State.wingStep
  repeat' first
    | with_reducible assumption | with_reducible exact .refl _ _ | with_reducible apply State.unsettle_within
    | with_reducible apply within_foldl | intro _

/-- What `State.resetMask` may write. -/
def State.resetMask_touch : Nat :=
  union [State.resetCtx_touch]

theorem State.resetMask_within {M : Nat} {s₀ s : State} (h : Within M s₀ s) (k : Covers M State.resetMask_touch)
    (mask : Nat) :
    Within M s₀ (State.resetMask s mask) := by
  simp only [State.resetMask_touch, covers_union] at k
  obtain ⟨k0, _⟩ := k
  unfold State.resetMask
  repeat' first
    | with_reducible assumption | with_reducible exact .refl _ _ | with_reducible apply State.resetCtx_within
    | with_reducible apply State.when_within | with_reducible apply State.upTo_within | intro _

/-- What `State.decReset` may write. -/
def State.decReset_touch : Nat :=
  union [State.resetMask_touch, State.onSup_touch]

theorem State.decReset_within {M : Nat} {s₀ s : State} (h : Within M s₀ s) (k : Covers M State.decReset_touch)
    (mask : Nat) :
    Within M s₀ (State.decReset s mask) := by
  simp only [State.decReset_touch, covers_union] at k
  obtain ⟨k0, k1, _⟩ := k
  unfold State.decReset
  repeat' first
    | with_reducible assumption | with_reducible exact .refl _ _ | with_reducible apply State.resetMask_within
    | with_reducible apply State.onSup_within | intro _ | split

/-- What `State.resetDueCtxs` may write. -/
def State.resetDueCtxs_touch : Nat :=
  union [State.resetMask_touch, State.onSup_touch]

theorem State.resetDueCtxs_within {M : Nat} {s₀ s : State} (h : Within M s₀ s)
    (k : Covers M State.resetDueCtxs_touch) :
    Within M s₀ (State.resetDueCtxs s) := by
  simp only [State.resetDueCtxs_touch, covers_union] at k
  obtain ⟨k0, k1, _⟩ := k
  unfold State.resetDueCtxs
  repeat' first
    | with_reducible assumption | with_reducible exact .refl _ _ | with_reducible apply State.resetMask_within
    | with_reducible apply State.onSup_within

/-- What `execDecReset` may write. -/
def execDecReset_touch : Nat :=
  union [State.decReset_touch, State.begin_touch]

theorem execDecReset_within {M : Nat} (s : State) (k : Covers M execDecReset_touch) (req : Req) (mask : Nat) :
    Answered M s (execDecReset req mask s) := by
  simp only [execDecReset_touch, covers_union] at k
  obtain ⟨k0, k1, _⟩ := k
  unfold execDecReset
  repeat' first
    | apply answered_next | with_reducible assumption | with_reducible exact .refl _ _
    | with_reducible apply State.decReset_within | with_reducible apply State.via_within
    | with_reducible apply State.begin_within | intro _

/-- What `State.accumulate` may write. -/
def State.accumulate_touch : Nat :=
  union [State.onSup_touch]

theorem State.accumulate_within {M : Nat} {s₀ s : State} (h : Within M s₀ s) (k : Covers M State.accumulate_touch)
    (c : Nat) (v : Int) (sat : Bool) (injected : Bool) :
    Within M s₀ (State.accumulate s c v sat injected) := by
  simp only [State.accumulate_touch, covers_union] at k
  obtain ⟨k0, _⟩ := k
  unfold State.accumulate
  repeat' first
    | with_reducible assumption | with_reducible exact .refl _ _ | with_reducible apply State.onSup_within | intro _
    | split

/-- What `State.readDiode` may write. -/
def State.readDiode_touch : Nat :=
  union [Row.OPT_RX_STAT_POWER_MEAS.bit, Row.OPT_TX_STAT_POWER_MEAS.bit]

theorem State.readDiode_within {M : Nat} {s₀ s : State} (h : Within M s₀ s) (k : Covers M State.readDiode_touch)
    (w : Wing) (c : Nat) (code : Nat) :
    Within M s₀ (State.readDiode s w c code) := by
  simp only [State.readDiode_touch, covers_union] at k
  obtain ⟨k0, k1, _⟩ := k
  unfold State.readDiode
  dsimp only
  repeat' first
    | with_reducible assumption | with_reducible exact .refl _ _ | with_reducible apply State.wrS_within
    | with_reducible apply State.when_within | with_reducible exact may_row (by with_reducible assumption) | intro _
    | split

/-- What `State.consume` may write. -/
def State.consume_touch : Nat :=
  union [Row.PWR_VIN_STAT_VIN.bit, State.readDiode_touch, State.onSup_touch]

theorem State.consume_within {M : Nat} {s₀ s : State} (h : Within M s₀ s) (k : Covers M State.consume_touch)
    (c : Nat) (code : Nat) :
    Within M s₀ (State.consume s c code) := by
  simp only [State.consume_touch, covers_union] at k
  obtain ⟨k0, k1, k2, _⟩ := k
  unfold State.consume
  repeat' first
    | with_reducible assumption | with_reducible exact .refl _ _ | with_reducible apply State.readDiode_within
    | with_reducible apply State.wr_within | with_reducible apply State.onSup_within
    | with_reducible exact may_row (by with_reducible assumption) | intro _ | split

/-- What `State.consumeInjected` may write. -/
def State.consumeInjected_touch : Nat :=
  union [Row.PWR_VIN_STAT_VIN.bit, State.readDiode_touch, State.say_touch]

theorem State.consumeInjected_within {M : Nat} {s₀ s : State} (h : Within M s₀ s)
    (k : Covers M State.consumeInjected_touch) (src : Nat) (c : Nat) (code : Nat) :
    Within M s₀ (State.consumeInjected s src c code) := by
  simp only [State.consumeInjected_touch, covers_union] at k
  obtain ⟨k0, k1, k2, _⟩ := k
  unfold State.consumeInjected
  dsimp only
  repeat' first
    | with_reducible assumption | with_reducible exact .refl _ _ | with_reducible apply State.readDiode_within
    | with_reducible apply State.wr_within | with_reducible apply State.say_within
    | with_reducible exact may_row (by with_reducible assumption) | split

/-- What `State.gather` may write. -/
def State.gather_touch : Nat :=
  union [State.accumulate_touch]

theorem State.gather_within {M : Nat} {s₀ s : State} (h : Within M s₀ s) (k : Covers M State.gather_touch) (c : Nat)
    (code : Nat) (injected : Bool) :
    Within M s₀ (State.gather s c code injected) := by
  simp only [State.gather_touch, covers_union] at k
  obtain ⟨k0, _⟩ := k
  unfold State.gather
  repeat' first
    | with_reducible assumption | with_reducible exact .refl _ _ | with_reducible apply State.accumulate_within
    | with_reducible apply State.when_within | intro _

/-- What `State.queueSample` may write. -/
def State.queueSample_touch : Nat :=
  union [State.onSup_touch]

theorem State.queueSample_within {M : Nat} {s₀ s : State} (h : Within M s₀ s) (k : Covers M State.queueSample_touch)
    (c : Nat) (code : Nat) :
    Within M s₀ (State.queueSample s c code) := by
  simp only [State.queueSample_touch, covers_union] at k
  obtain ⟨k0, _⟩ := k
  unfold State.queueSample
  repeat' first
    | with_reducible assumption | with_reducible exact .refl _ _ | with_reducible apply State.onSup_within
    | with_reducible apply within_foldl | intro _

/-- What `State.convert` may write. -/
def State.convert_touch : Nat :=
  union [State.consume_touch, State.queueSample_touch, State.gather_touch]

theorem State.convert_within {M : Nat} {s₀ s : State} (h : Within M s₀ s) (k : Covers M State.convert_touch)
    (c : Nat) (code : Nat) :
    Within M s₀ (State.convert s c code) := by
  simp only [State.convert_touch, covers_union] at k
  obtain ⟨k0, k1, k2, _⟩ := k
  unfold State.convert
  repeat' first
    | with_reducible assumption | with_reducible exact .refl _ _ | with_reducible apply State.consume_within
    | with_reducible apply State.queueSample_within | with_reducible apply State.gather_within

/-- What `State.convertInjected` may write. -/
def State.convertInjected_touch : Nat :=
  union [State.consumeInjected_touch, State.gather_touch]

theorem State.convertInjected_within {M : Nat} {s₀ s : State} (h : Within M s₀ s)
    (k : Covers M State.convertInjected_touch) (src : Nat) (c : Nat) (code : Nat) :
    Within M s₀ (State.convertInjected s src c code) := by
  simp only [State.convertInjected_touch, covers_union] at k
  obtain ⟨k0, k1, _⟩ := k
  unfold State.convertInjected
  repeat' first
    | with_reducible assumption | with_reducible exact .refl _ _ | with_reducible apply State.consumeInjected_within
    | with_reducible apply State.gather_within

/-- What `State.stepChannel` may write. -/
def State.stepChannel_touch : Nat :=
  union [State.unsettle_touch, State.onSup_touch]

theorem State.stepChannel_within {M : Nat} {s₀ s : State} (h : Within M s₀ s) (k : Covers M State.stepChannel_touch)
    (c : Nat) :
    Within M s₀ (State.stepChannel s c) := by
  simp only [State.stepChannel_touch, covers_union] at k
  obtain ⟨k0, k1, _⟩ := k
  unfold State.stepChannel
  repeat' first
    | with_reducible assumption | with_reducible exact .refl _ _ | with_reducible apply State.unsettle_within
    | with_reducible apply State.onSup_within | with_reducible apply within_foldl | intro _ | split

/-- What `State.regularSlot` may write. -/
def State.regularSlot_touch : Nat :=
  union [State.convert_touch, State.stepChannel_touch, State.onSup_touch]

theorem State.regularSlot_within {M : Nat} {s₀ s : State} (h : Within M s₀ s) (k : Covers M State.regularSlot_touch)
    (code : Nat) :
    Within M s₀ (State.regularSlot s code) := by
  simp only [State.regularSlot_touch, covers_union] at k
  obtain ⟨k0, k1, k2, _⟩ := k
  unfold State.regularSlot
  dsimp only
  repeat' first
    | with_reducible assumption | with_reducible exact .refl _ _ | with_reducible apply State.convert_within
    | with_reducible apply State.stepChannel_within | with_reducible apply State.onSup_within | intro _ | split

/-- What `State.startInj` may write. -/
def State.startInj_touch : Nat :=
  union [Row.SUP_INJ_STAT_RUNS.bit, State.onSup_touch, State.countWrap_touch]

theorem State.startInj_within {M : Nat} {s₀ s : State} (h : Within M s₀ s) (k : Covers M State.startInj_touch)
    (a0 : Nat) :
    Within M s₀ (State.startInj s a0) := by
  simp only [State.startInj_touch, covers_union] at k
  obtain ⟨k0, k1, k2, _⟩ := k
  induction a0 generalizing s  with
  | zero =>
    rw [State.startInj]
    try dsimp only
    repeat' first | with_reducible assumption
  | succ n ih =>
    rw [State.startInj]
    try dsimp only
    repeat' first
      | with_reducible apply ih | with_reducible assumption | with_reducible exact .refl _ _
      | with_reducible apply State.onSup_within | with_reducible apply State.countWrap_within
      | with_reducible exact may_row (by with_reducible assumption) | intro _ | split

/-- What `State.showInj` may write. -/
def State.showInj_touch : Nat :=
  union [Row.SUP_INJ_STAT_BUSY.bit]

theorem State.showInj_within {M : Nat} {s₀ s : State} (h : Within M s₀ s) (k : Covers M State.showInj_touch) :
    Within M s₀ (State.showInj s) := by
  simp only [State.showInj_touch, covers_union] at k
  obtain ⟨k0, _⟩ := k
  unfold State.showInj
  repeat' first
    | with_reducible assumption | with_reducible exact .refl _ _ | with_reducible apply State.wrb_within
    | with_reducible exact may_row (by with_reducible assumption)

/-- What `State.newCycle` may write. -/
def State.newCycle_touch : Nat :=
  union [State.onSup_touch]

theorem State.newCycle_within {M : Nat} {s₀ s : State} (h : Within M s₀ s) (k : Covers M State.newCycle_touch) :
    Within M s₀ (State.newCycle s) := by
  simp only [State.newCycle_touch, covers_union] at k
  obtain ⟨k0, _⟩ := k
  unfold State.newCycle
  repeat' first
    | with_reducible assumption | with_reducible exact .refl _ _ | with_reducible apply State.onSup_within | intro _
    | split

/-- What `State.injectedSlot` may write. -/
def State.injectedSlot_touch : Nat :=
  union [Row.SUP_INJ_STAT_RUNS.bit, State.countWrap_touch, State.startInj_touch, State.newCycle_touch,
    State.convertInjected_touch, State.onSup_touch]

theorem State.injectedSlot_within {M : Nat} {s₀ s : State} (h : Within M s₀ s)
    (k : Covers M State.injectedSlot_touch) (code : Nat) :
    Within M s₀ (State.injectedSlot s code) := by
  simp only [State.injectedSlot_touch, covers_union] at k
  obtain ⟨k0, k1, k2, k3, k4, k5, _⟩ := k
  unfold State.injectedSlot
  dsimp only
  repeat' first
    | with_reducible assumption | with_reducible exact .refl _ _ | with_reducible apply State.countWrap_within
    | with_reducible apply State.startInj_within | with_reducible apply State.newCycle_within
    | with_reducible apply State.convertInjected_within | with_reducible apply State.onSup_within
    | with_reducible apply State.when_within | with_reducible exact may_row (by with_reducible assumption) | intro _
    | split

/-- What `State.supCal` may write. -/
def State.supCal_touch : Nat :=
  union [Row.SUP_CAL_CTL_BUSY.bit, Row.SUP_CAL_CTL_DEFERRED.bit, Row.SUP_CH_FLAGS_STALE.bit, State.onSup_touch]

theorem State.supCal_within {M : Nat} {s₀ s : State} (h : Within M s₀ s) (k : Covers M State.supCal_touch) :
    Within M s₀ (State.supCal s) := by
  simp only [State.supCal_touch, covers_union] at k
  obtain ⟨k0, k1, k2, k3, _⟩ := k
  unfold State.supCal
  dsimp only
  repeat' first
    | with_reducible assumption | with_reducible exact .refl _ _ | with_reducible apply State.onSup_within
    | with_reducible apply State.wrb_within | with_reducible apply State.upTo_within
    | with_reducible exact may_row (by with_reducible assumption) | intro _

/-- What `State.startDueCal` may write. -/
def State.startDueCal_touch : Nat :=
  union [State.supCal_touch]

theorem State.startDueCal_within {M : Nat} {s₀ s : State} (h : Within M s₀ s) (k : Covers M State.startDueCal_touch) :
    Within M s₀ (State.startDueCal s) := by
  simp only [State.startDueCal_touch, covers_union] at k
  obtain ⟨k0, _⟩ := k
  unfold State.startDueCal
  repeat' first
    | with_reducible assumption | with_reducible exact .refl _ _ | with_reducible apply State.supCal_within | split

/-- What `State.conversion` may write. -/
def State.conversion_touch : Nat :=
  union [State.startInj_touch, State.regularSlot_touch, State.injectedSlot_touch]

theorem State.conversion_within {M : Nat} {s₀ s : State} (h : Within M s₀ s) (k : Covers M State.conversion_touch)
    (code : Nat) :
    Within M s₀ (State.conversion s code) := by
  simp only [State.conversion_touch, covers_union] at k
  obtain ⟨k0, k1, k2, _⟩ := k
  unfold State.conversion
  repeat' first
    | with_reducible assumption | with_reducible exact .refl _ _ | with_reducible apply State.startInj_within
    | with_reducible apply State.regularSlot_within | with_reducible apply State.injectedSlot_within
    | with_reducible exact may_row (by with_reducible assumption) | split

/-- What `execSupConversion` may write. -/
def execSupConversion_touch : Nat :=
  union [State.conversion_touch, State.startDueCal_touch, State.resetDueCtxs_touch, State.showInj_touch,
    State.begin_touch]

theorem execSupConversion_within {M : Nat} (s : State) (k : Covers M execSupConversion_touch) (code : Nat) :
    Answered M s (execSupConversion code s) := by
  simp only [execSupConversion_touch, covers_union] at k
  obtain ⟨k0, k1, k2, k3, k4, _⟩ := k
  unfold execSupConversion
  dsimp only
  repeat' first
    | apply answered_next | with_reducible assumption | with_reducible exact .refl _ _
    | with_reducible apply State.conversion_within | with_reducible apply State.startDueCal_within
    | with_reducible apply State.resetDueCtxs_within | with_reducible apply State.showInj_within
    | with_reducible apply State.begin_within | split

/-- What `State.trigger` may write. -/
def State.trigger_touch : Nat :=
  union [Row.SUP_INJ_STAT_MERGED.bit, State.countWrap_touch, State.showInj_touch, State.onSup_touch]

theorem State.trigger_within {M : Nat} {s₀ s : State} (h : Within M s₀ s) (k : Covers M State.trigger_touch)
    (src : Nat) :
    Within M s₀ (State.trigger s src) := by
  simp only [State.trigger_touch, covers_union] at k
  obtain ⟨k0, k1, k2, k3, _⟩ := k
  unfold State.trigger
  dsimp only
  repeat' first
    | with_reducible assumption | with_reducible exact .refl _ _ | with_reducible apply State.countWrap_within
    | with_reducible apply State.showInj_within | with_reducible apply State.onSup_within
    | with_reducible exact may_row (by with_reducible assumption) | intro _ | split

/-- What `execInjTrigger` may write. -/
def execInjTrigger_touch : Nat :=
  union [State.trigger_touch, State.begin_touch]

theorem execInjTrigger_within {M : Nat} (s : State) (k : Covers M execInjTrigger_touch) (src : Fin 5) :
    Answered M s (execInjTrigger src s) := by
  simp only [execInjTrigger_touch, covers_union] at k
  obtain ⟨k0, k1, _⟩ := k
  unfold execInjTrigger
  repeat' first
    | apply answered_next | with_reducible assumption | with_reducible exact .refl _ _
    | with_reducible apply State.trigger_within | with_reducible apply State.begin_within

/-- What `execInjGo` may write. -/
def execInjGo_touch : Nat :=
  union [State.trigger_touch, State.begin_touch]

theorem execInjGo_within {M : Nat} (s : State) (k : Covers M execInjGo_touch) (req : Req) :
    Answered M s (execInjGo req s) := by
  simp only [execInjGo_touch, covers_union] at k
  obtain ⟨k0, k1, _⟩ := k
  unfold execInjGo
  repeat' first
    | apply answered_next | with_reducible assumption | with_reducible exact .refl _ _
    | with_reducible apply State.trigger_within | with_reducible apply State.via_within
    | with_reducible apply State.begin_within | intro _

/-- What `State.markSat` may write. -/
def State.markSat_touch : Nat :=
  union [Row.SUP_DEC_STAT_SAT.bit, Row.SUP_EVT_SAT.bit, State.evt_touch]

theorem State.markSat_within {M : Nat} {s₀ s : State} (h : Within M s₀ s) (k : Covers M State.markSat_touch)
    (k' : Nat) (sat : Bool) :
    Within M s₀ (State.markSat s k' sat) := by
  simp only [State.markSat_touch, covers_union] at k
  obtain ⟨k0, k1, k2, _⟩ := k
  unfold State.markSat
  repeat' first
    | with_reducible assumption | with_reducible exact .refl _ _ | with_reducible apply State.evt_within
    | with_reducible apply State.wrb_within | with_reducible exact may_row (by with_reducible assumption) | split

/-- What `State.exclude` may write. -/
def State.exclude_touch : Nat :=
  union [State.onSup_touch]

theorem State.exclude_within {M : Nat} {s₀ s : State} (h : Within M s₀ s) (k : Covers M State.exclude_touch)
    (c : Nat) :
    Within M s₀ (State.exclude s c) := by
  simp only [State.exclude_touch, covers_union] at k
  obtain ⟨k0, _⟩ := k
  unfold State.exclude
  dsimp only
  repeat' first
    | with_reducible assumption | with_reducible exact .refl _ _ | with_reducible apply State.onSup_within | intro _
    | split

/-- What `State.deliverOut` may write. -/
def State.deliverOut_touch : Nat :=
  union [State.exclude_touch, State.accumulate_touch, State.say_touch, State.icmOutput_touch]

theorem State.deliverOut_within {M : Nat} {s₀ s : State} (h : Within M s₀ s) (k : Covers M State.deliverOut_touch)
    (k' : Nat) (v : Int) (sat : Bool) (unsettled : Bool) :
    Within M s₀ (State.deliverOut s k' v sat unsettled) := by
  simp only [State.deliverOut_touch, covers_union] at k
  obtain ⟨k0, k1, k2, k3, _⟩ := k
  unfold State.deliverOut
  dsimp only
  repeat' first
    | with_reducible assumption | with_reducible exact .refl _ _ | with_reducible apply State.exclude_within
    | with_reducible apply State.accumulate_within | with_reducible apply State.say_within
    | with_reducible apply State.icmOutput_within | split

/-- What `State.ctxOutput` may write. -/
def State.ctxOutput_touch : Nat :=
  union [Row.SUP_DEC_STAT_UNSETTLED.bit, State.deliverOut_touch, State.markSat_touch, State.onSup_touch]

theorem State.ctxOutput_within {M : Nat} {s₀ s : State} (h : Within M s₀ s) (k : Covers M State.ctxOutput_touch)
    (k' : Nat) (y : Int) :
    Within M s₀ (State.ctxOutput s k' y) := by
  simp only [State.ctxOutput_touch, covers_union] at k
  obtain ⟨k0, k1, k2, k3, _⟩ := k
  unfold State.ctxOutput
  dsimp only
  repeat' first
    | with_reducible assumption | with_reducible exact .refl _ _ | with_reducible apply State.deliverOut_within
    | with_reducible apply State.markSat_within | with_reducible apply State.onSup_within
    | with_reducible apply State.wrb_within | with_reducible exact may_row (by with_reducible assumption)

/-- What `State.ctxFeed` may write. -/
def State.ctxFeed_touch : Nat :=
  union [State.onSup_touch, State.ctxOutput_touch]

theorem State.ctxFeed_within {M : Nat} {s₀ s : State} (h : Within M s₀ s) (k : Covers M State.ctxFeed_touch)
    (k' : Nat) (x : Int) :
    Within M s₀ (State.ctxFeed s k' x) := by
  simp only [State.ctxFeed_touch, covers_union] at k
  obtain ⟨k0, k1, _⟩ := k
  unfold State.ctxFeed
  dsimp only
  repeat' first
    | with_reducible assumption | with_reducible exact .refl _ _ | with_reducible apply State.onSup_within
    | with_reducible apply State.ctxOutput_within | intro _ | split

/-- What `State.engineSlot` may write. -/
def State.engineSlot_touch : Nat :=
  union [State.ctxFeed_touch, State.onSup_touch]

theorem State.engineSlot_within {M : Nat} {s₀ s : State} (h : Within M s₀ s) (k : Covers M State.engineSlot_touch)
    (m : RoundInput) (k' : Nat) :
    Within M s₀ (State.engineSlot s m k') := by
  simp only [State.engineSlot_touch, covers_union] at k
  obtain ⟨k0, k1, _⟩ := k
  unfold State.engineSlot
  repeat' first
    | with_reducible assumption | with_reducible exact .refl _ _ | with_reducible apply State.ctxFeed_within
    | with_reducible apply State.onSup_within | with_reducible apply within_foldl | intro _ | split

/-- What `execDecRound` may write. -/
def execDecRound_touch : Nat :=
  union [State.wingStep_touch, State.engineSlot_touch, State.begin_touch]

theorem execDecRound_within {M : Nat} (s : State) (k : Covers M execDecRound_touch) (m : RoundInput) :
    Answered M s (execDecRound m s) := by
  simp only [execDecRound_touch, covers_union] at k
  obtain ⟨k0, k1, k2, _⟩ := k
  unfold execDecRound
  dsimp only
  repeat' first
    | apply answered_next | with_reducible assumption | with_reducible exact .refl _ _
    | with_reducible apply State.wingStep_within | with_reducible apply State.engineSlot_within
    | with_reducible apply State.begin_within | with_reducible apply State.when_within
    | with_reducible apply State.upTo_within | intro _ | split

/-- What `State.askCal` may write. -/
def State.askCal_touch : Nat :=
  union [State.onSup_touch]

theorem State.askCal_within {M : Nat} {s₀ s : State} (h : Within M s₀ s) (k : Covers M State.askCal_touch) :
    Within M s₀ (State.askCal s) := by
  simp only [State.askCal_touch, covers_union] at k
  obtain ⟨k0, _⟩ := k
  unfold State.askCal
  repeat' first
    | with_reducible assumption | with_reducible exact .refl _ _ | with_reducible apply State.onSup_within
    | with_reducible exact may_row (by with_reducible assumption) | intro _ | split

/-- What `State.startCal` may write. -/
def State.startCal_touch : Nat :=
  union [State.supCal_touch, State.askCal_touch]

theorem State.startCal_within {M : Nat} {s₀ s : State} (h : Within M s₀ s) (k : Covers M State.startCal_touch) :
    Within M s₀ (State.startCal s) := by
  simp only [State.startCal_touch, covers_union] at k
  obtain ⟨k0, k1, _⟩ := k
  unfold State.startCal
  repeat' first
    | with_reducible assumption | with_reducible exact .refl _ _ | with_reducible apply State.supCal_within
    | with_reducible apply State.askCal_within | with_reducible exact may_row (by with_reducible assumption) | split

/-- What `execSupCalStart` may write. -/
def execSupCalStart_touch : Nat :=
  union [State.startCal_touch, State.begin_touch]

theorem execSupCalStart_within {M : Nat} (s : State) (k : Covers M execSupCalStart_touch) (req : Req) :
    Answered M s (execSupCalStart req s) := by
  simp only [execSupCalStart_touch, covers_union] at k
  obtain ⟨k0, k1, _⟩ := k
  unfold execSupCalStart
  repeat' first
    | apply answered_next | with_reducible assumption | with_reducible exact .refl _ _
    | with_reducible apply State.startCal_within | with_reducible apply State.via_within
    | with_reducible apply State.begin_within | intro _

/-- What `execSupCalAuto` may write. -/
def execSupCalAuto_touch : Nat :=
  union [Row.SUP_CAL_CTL_DEFERRED.bit, State.askCal_touch, State.begin_touch]

theorem execSupCalAuto_within {M : Nat} (s : State) (k : Covers M execSupCalAuto_touch) :
    Answered M s (execSupCalAuto s) := by
  simp only [execSupCalAuto_touch, covers_union] at k
  obtain ⟨k0, k1, k2, _⟩ := k
  unfold execSupCalAuto
  dsimp only
  repeat' first
    | apply answered_next | with_reducible assumption | with_reducible exact .refl _ _
    | with_reducible apply State.askCal_within | with_reducible apply State.begin_within
    | with_reducible apply State.wrb_within | with_reducible exact may_row (by with_reducible assumption) | split

/-- What `State.runDeferred` may write. -/
def State.runDeferred_touch : Nat :=
  union [State.askCal_touch]

theorem State.runDeferred_within {M : Nat} {s₀ s : State} (h : Within M s₀ s) (k : Covers M State.runDeferred_touch) :
    Within M s₀ (State.runDeferred s) := by
  simp only [State.runDeferred_touch, covers_union] at k
  obtain ⟨k0, _⟩ := k
  unfold State.runDeferred
  repeat' first
    | with_reducible assumption | with_reducible exact .refl _ _ | with_reducible apply State.askCal_within
    | with_reducible exact may_row (by with_reducible assumption) | split

/-- What `execSupCalDone` may write. -/
def execSupCalDone_touch : Nat :=
  union [Row.SUP_CAL_CTL_BUSY.bit, Row.SUP_CAL_CTL_COUNT.bit, Row.SUP_EVT_CAL_DONE.bit, State.countWrap_touch,
    State.evt_touch, State.onSup_touch, State.begin_touch]

theorem execSupCalDone_within {M : Nat} (s : State) (k : Covers M execSupCalDone_touch) :
    Answered M s (execSupCalDone s) := by
  simp only [execSupCalDone_touch, covers_union] at k
  obtain ⟨k0, k1, k2, k3, k4, k5, k6, _⟩ := k
  unfold execSupCalDone
  dsimp only
  repeat' first
    | apply answered_next | with_reducible assumption | with_reducible exact .refl _ _
    | with_reducible apply State.countWrap_within | with_reducible apply State.evt_within
    | with_reducible apply State.onSup_within | with_reducible apply State.begin_within
    | with_reducible apply State.wrb_within | with_reducible exact may_row (by with_reducible assumption) | intro _
    | split

/-- What `State.latchSup` may write. -/
def State.latchSup_touch : Nat :=
  union [Row.SUP_CH_CNT_CNT.bit, Row.SUP_CH_FLAGS_DECIMATED.bit, Row.SUP_CH_FLAGS_SAT.bit,
    Row.SUP_CH_FLAGS_STALE.bit, Row.SUP_CH_FLAGS_UNSETTLED.bit, Row.SUP_CH_INJ_COUNT.bit,
    Row.SUP_CH_MINMAX_MAX.bit, Row.SUP_CH_MINMAX_MIN.bit, Row.SUP_CH_SQ_HI_SQ.bit, Row.SUP_CH_SQ_LO_SQ.bit,
    Row.SUP_CH_SUM_HI_SUM.bit, Row.SUP_CH_SUM_LO_SUM.bit, State.onSup_touch]

theorem State.latchSup_within {M : Nat} {s₀ s : State} (h : Within M s₀ s) (k : Covers M State.latchSup_touch) :
    Within M s₀ (State.latchSup s) := by
  simp only [State.latchSup_touch, covers_union] at k
  obtain ⟨k0, k1, k2, k3, k4, k5, k6, k7, k8, k9, k10, k11, k12, _⟩ := k
  unfold State.latchSup
  dsimp only
  repeat' first
    | with_reducible assumption | with_reducible exact .refl _ _ | with_reducible apply State.wrWide_within
    | with_reducible apply State.wr_within | with_reducible apply State.wrS_within
    | with_reducible apply State.onSup_within | with_reducible apply State.wrb_within
    | with_reducible apply State.upTo_within | with_reducible exact may_row (by with_reducible assumption) | intro _
    | split

end Sys2Proof.Machine
end

