-- ==== Sys2Proof/Laws/WithinConverters.lean ====
section
/-!
SUPPORT. `Within` over the operations of Machine/Converters.lean.
-/

namespace Sys2Proof.Machine

/-- What `State.onConv` may write. -/
def State.onConv_touch : Nat :=
  union [Part.conv.bit]

theorem State.onConv_within {M : Nat} {s₀ s : State} (h : Within M s₀ s) (k : Covers M State.onConv_touch)
    (w : Wing) (f : Conv → Conv) :
    Within M s₀ (State.onConv s w f) := by
  simp only [State.onConv_touch, covers_union] at k
  obtain ⟨k0, _⟩ := k
  unfold State.onConv
  repeat' first | with_reducible assumption | with_reducible exact .refl _ _ | with_reducible apply within_conv

/-- What `State.onDim` may write. -/
def State.onDim_touch : Nat :=
  union [State.onConv_touch]

theorem State.onDim_within {M : Nat} {s₀ s : State} (h : Within M s₀ s) (k : Covers M State.onDim_touch) (w : Wing)
    (d : Nat) (f : ConvDim → ConvDim) :
    Within M s₀ (State.onDim s w d f) := by
  simp only [State.onDim_touch, covers_union] at k
  obtain ⟨k0, _⟩ := k
  unfold State.onDim
  repeat' first
    | with_reducible assumption | with_reducible exact .refl _ _ | with_reducible apply State.onConv_within

/-- What `State.foreground` may write. -/
def State.foreground_touch : Nat :=
  union [Row.CNV_CAL_STAT_CALIBRATING.bit, Row.CNV_CAL_STAT_ROTATING.bit, Row.CNV_DIM_FLAGS_STALE.bit,
    Row.CNV_QUAL_VALID.bit, Row.CNV_SLICE_FLAGS_STALE.bit, State.onConv_touch, State.onDim_touch]

theorem State.foreground_within {M : Nat} {s₀ s : State} (h : Within M s₀ s) (k : Covers M State.foreground_touch)
    (w : Wing) :
    Within M s₀ (State.foreground s w) := by
  simp only [State.foreground_touch, covers_union] at k
  obtain ⟨k0, k1, k2, k3, k4, k5, k6, _⟩ := k
  unfold State.foreground
  dsimp only
  repeat' first
    | with_reducible assumption | with_reducible exact .refl _ _ | with_reducible apply State.onConv_within
    | with_reducible apply State.onDim_within | with_reducible apply State.wrb_within
    | with_reducible apply State.upTo_within | with_reducible exact may_row (by with_reducible assumption) | intro _

/-- What `execSynthLock` may write. -/
def execSynthLock_touch : Nat :=
  union [Row.CNV_ADC_CLK_FS.bit, Row.CNV_ADC_CLK_LOCKED.bit, Row.CNV_DAC_CLK_FS.bit, Row.CNV_DAC_CLK_LOCKED.bit,
    State.begin_touch, State.foreground_touch]

theorem execSynthLock_within {M : Nat} (s : State) (k : Covers M execSynthLock_touch) (w : Wing) (adc : Bool) :
    Answered M s (execSynthLock w adc s) := by
  simp only [execSynthLock_touch, covers_union] at k
  obtain ⟨k0, k1, k2, k3, k4, k5, _⟩ := k
  unfold execSynthLock
  dsimp only
  repeat' first
    | apply answered_next | with_reducible assumption | with_reducible exact .refl _ _
    | with_reducible apply State.wr_within | with_reducible apply State.begin_within
    | with_reducible apply State.wrb_within | with_reducible apply State.foreground_within
    | with_reducible exact may_row (by with_reducible assumption) | split

/-- What `State.setTrim` may write. -/
def State.setTrim_touch : Nat :=
  union [Row.CNV_TRIM_GAIN.bit, Row.CNV_TRIM_OFFSET.bit, Row.CNV_TRIM_SKEW_TAP.bit, State.onDim_touch]

theorem State.setTrim_within {M : Nat} {s₀ s : State} (h : Within M s₀ s) (k : Covers M State.setTrim_touch)
    (w : Wing) (d : Nat) (slice : Nat) (t : Trims) :
    Within M s₀ (State.setTrim s w d slice t) := by
  simp only [State.setTrim_touch, covers_union] at k
  obtain ⟨k0, k1, k2, k3, _⟩ := k
  unfold State.setTrim
  dsimp only
  repeat' first
    | with_reducible assumption | with_reducible exact .refl _ _ | with_reducible apply State.wr_within
    | with_reducible apply State.onDim_within | with_reducible apply State.wrS_within
    | with_reducible exact may_row (by with_reducible assumption)

/-- What `State.setQual` may write. -/
def State.setQual_touch : Nat :=
  union [Row.CNV_QUAL_RES_SKEW.bit, Row.CNV_QUAL_RES_SPUR.bit, Row.CNV_QUAL_VALID.bit]

theorem State.setQual_within {M : Nat} {s₀ s : State} (h : Within M s₀ s) (k : Covers M State.setQual_touch)
    (w : Wing) (d : Nat) :
    Within M s₀ (State.setQual s w d) := by
  simp only [State.setQual_touch, covers_union] at k
  obtain ⟨k0, k1, k2, _⟩ := k
  unfold State.setQual
  dsimp only
  repeat' first
    | with_reducible assumption | with_reducible exact .refl _ _ | with_reducible apply State.wr_within
    | with_reducible apply State.wrS_within | with_reducible apply State.wrb_within
    | with_reducible exact may_row (by with_reducible assumption)

/-- What `State.takePark` may write. -/
def State.takePark_touch : Nat :=
  union [Row.CNV_PARK_EN.bit, Row.CNV_PARK_SLICE.bit, Part.inuse.bit]

theorem State.takePark_within {M : Nat} {s₀ s : State} (h : Within M s₀ s) (k : Covers M State.takePark_touch)
    (w : Wing) (d : Nat) :
    Within M s₀ (State.takePark s w d) := by
  simp only [State.takePark_touch, covers_union] at k
  obtain ⟨k0, k1, k2, _⟩ := k
  unfold State.takePark
  repeat' first
    | with_reducible assumption | with_reducible exact .refl _ _ | with_reducible apply State.releaseOne_within

/-- What `State.park` may write. -/
def State.park_touch : Nat :=
  union [Row.CNV_CAL_STAT_CALIBRATING.bit, Row.CNV_CAL_STAT_PARKED.bit, Row.CNV_CAL_STAT_ROTATING.bit,
    Row.CNV_EVT_PARK_DONE.bit, State.onDim_touch, State.evt_touch]

theorem State.park_within {M : Nat} {s₀ s : State} (h : Within M s₀ s) (k : Covers M State.park_touch) (w : Wing)
    (d : Nat) :
    Within M s₀ (State.park s w d) := by
  simp only [State.park_touch, covers_union] at k
  obtain ⟨k0, k1, k2, k3, k4, k5, _⟩ := k
  unfold State.park
  dsimp only
  repeat' first
    | with_reducible assumption | with_reducible exact .refl _ _ | with_reducible apply State.onDim_within
    | with_reducible apply State.evt_within | with_reducible apply State.wrb_within
    | with_reducible exact may_row (by with_reducible assumption)

/-- What `State.calibrate` may write. -/
def State.calibrate_touch : Nat :=
  union [Row.CNV_CAL_STAT_CALIBRATING.bit, Row.CNV_CAL_STAT_ROTATING.bit, State.onDim_touch]

theorem State.calibrate_within {M : Nat} {s₀ s : State} (h : Within M s₀ s) (k : Covers M State.calibrate_touch)
    (w : Wing) (d : Nat) :
    Within M s₀ (State.calibrate s w d) := by
  simp only [State.calibrate_touch, covers_union] at k
  obtain ⟨k0, k1, k2, _⟩ := k
  unfold State.calibrate
  repeat' first
    | with_reducible assumption | with_reducible exact .refl _ _ | with_reducible apply State.onDim_within
    | with_reducible apply State.wrb_within | with_reducible exact may_row (by with_reducible assumption)

/-- What `State.rotate` may write. -/
def State.rotate_touch : Nat :=
  union [Row.CNV_CAL_STAT_CALIBRATING.bit, Row.CNV_CAL_STAT_PARKED.bit, Row.CNV_CAL_STAT_RISING.bit,
    Row.CNV_CAL_STAT_ROTATING.bit, State.onDim_touch, State.park_touch, State.calibrate_touch]

theorem State.rotate_within {M : Nat} {s₀ s : State} (h : Within M s₀ s) (k : Covers M State.rotate_touch)
    (w : Wing) (d : Nat) (rising : Bool) (whole : Bool) :
    Within M s₀ (State.rotate s w d rising whole) := by
  simp only [State.rotate_touch, covers_union] at k
  obtain ⟨k0, k1, k2, k3, k4, k5, k6, _⟩ := k
  unfold State.rotate
  dsimp only
  repeat' first
    | with_reducible assumption | with_reducible exact .refl _ _ | with_reducible apply State.onDim_within
    | with_reducible apply State.wrb_within | with_reducible apply State.park_within
    | with_reducible apply State.calibrate_within | with_reducible exact may_row (by with_reducible assumption)
    | intro _ | split

/-- What `execFgCalComplete` may write. -/
def execFgCalComplete_touch : Nat :=
  union [Row.CNV_CAL_STAT_SPARE.bit, State.takePark_touch, State.setTrim_touch, State.onConv_touch,
    State.setQual_touch, State.rotate_touch, State.begin_touch]

theorem execFgCalComplete_within {M : Nat} (s : State) (k : Covers M execFgCalComplete_touch) (w : Wing)
    (trims : List SliceTrim) :
    Answered M s (execFgCalComplete w trims s) := by
  simp only [execFgCalComplete_touch, covers_union] at k
  obtain ⟨k0, k1, k2, k3, k4, k5, k6, _⟩ := k
  unfold execFgCalComplete
  dsimp only
  repeat' first
    | apply answered_next | with_reducible assumption | with_reducible exact .refl _ _
    | with_reducible apply State.takePark_within | with_reducible apply State.setTrim_within
    | with_reducible apply State.onConv_within | with_reducible apply State.wr_within
    | with_reducible apply State.setQual_within | with_reducible apply State.rotate_within
    | with_reducible apply State.begin_within | with_reducible apply State.upTo_within
    | with_reducible apply within_foldl | with_reducible exact may_row (by with_reducible assumption) | intro _
    | split

/-- What `State.restartDim` may write. -/
def State.restartDim_touch : Nat :=
  union [Row.CNV_CAL_STAT_SWEEPS.bit, State.rotate_touch]

theorem State.restartDim_within {M : Nat} {s₀ s : State} (h : Within M s₀ s) (k : Covers M State.restartDim_touch)
    (w : Wing) (d : Nat) :
    Within M s₀ (State.restartDim s w d) := by
  simp only [State.restartDim_touch, covers_union] at k
  obtain ⟨k0, k1, _⟩ := k
  unfold State.restartDim
  dsimp only
  repeat' first
    | with_reducible assumption | with_reducible exact .refl _ _ | with_reducible apply State.wr_within
    | with_reducible apply State.rotate_within | with_reducible exact may_row (by with_reducible assumption) | split

/-- What `State.restartCal` may write. -/
def State.restartCal_touch : Nat :=
  union [State.restartDim_touch, State.foreground_touch]

theorem State.restartCal_within {M : Nat} {s₀ s : State} (h : Within M s₀ s) (k : Covers M State.restartCal_touch)
    (w : Wing) :
    Within M s₀ (State.restartCal s w) := by
  simp only [State.restartCal_touch, covers_union] at k
  obtain ⟨k0, k1, _⟩ := k
  unfold State.restartCal
  repeat' first
    | with_reducible assumption | with_reducible exact .refl _ _ | with_reducible apply State.restartDim_within
    | with_reducible apply State.when_within | with_reducible apply State.upTo_within
    | with_reducible apply State.foreground_within | with_reducible exact may_row (by with_reducible assumption)
    | intro _ | split

/-- What `State.restartWrite` may write. -/
def State.restartWrite_touch : Nat :=
  union [State.onConv_touch, State.restartCal_touch]

theorem State.restartWrite_within {M : Nat} {s₀ s : State} (h : Within M s₀ s)
    (k : Covers M State.restartWrite_touch) (w : Wing) :
    Within M s₀ (State.restartWrite s w) := by
  simp only [State.restartWrite_touch, covers_union] at k
  obtain ⟨k0, k1, _⟩ := k
  unfold State.restartWrite
  repeat' first
    | with_reducible assumption | with_reducible exact .refl _ _ | with_reducible apply State.onConv_within
    | with_reducible apply State.restartCal_within | intro _ | split

/-- What `execCalRestart` may write. -/
def execCalRestart_touch : Nat :=
  union [State.restartWrite_touch, State.begin_touch]

theorem execCalRestart_within {M : Nat} (s : State) (k : Covers M execCalRestart_touch) (req : Req) (w : Wing) :
    Answered M s (execCalRestart req w s) := by
  simp only [execCalRestart_touch, covers_union] at k
  obtain ⟨k0, k1, _⟩ := k
  unfold execCalRestart
  repeat' first
    | apply answered_next | with_reducible assumption | with_reducible exact .refl _ _
    | with_reducible apply State.restartWrite_within | with_reducible apply State.via_within
    | with_reducible apply State.begin_within | intro _

/-- What `execSpareCalComplete` may write. -/
def execSpareCalComplete_touch : Nat :=
  union [Row.CNV_CAL_STAT_CALIBRATING.bit, Row.CNV_CAL_STAT_SKEW_SKIPPED.bit, State.countWrap_touch,
    State.onDim_touch, State.begin_touch, State.park_touch]

theorem execSpareCalComplete_within {M : Nat} (s : State) (k : Covers M execSpareCalComplete_touch) (w : Wing)
    (d : Fin 4) (found : Trims) :
    Answered M s (execSpareCalComplete w d found s) := by
  simp only [execSpareCalComplete_touch, covers_union] at k
  obtain ⟨k0, k1, k2, k3, k4, k5, _⟩ := k
  unfold execSpareCalComplete
  dsimp only
  repeat' first
    | apply answered_next | with_reducible assumption | with_reducible exact .refl _ _
    | with_reducible apply State.countWrap_within | with_reducible apply State.onDim_within
    | with_reducible apply State.begin_within | with_reducible apply State.when_within
    | with_reducible apply State.wrb_within | with_reducible apply State.park_within
    | with_reducible exact may_row (by with_reducible assumption) | intro _ | split

/-- What `State.endRun` may write. -/
def State.endRun_touch : Nat :=
  union [Row.CNV_CAL_STAT_RISING.bit, Row.CNV_CAL_STAT_SWEEPS.bit, Row.CNV_EVT_SWEEP_DONE.bit,
    State.countWrap_touch, State.onDim_touch, State.evt_touch]

theorem State.endRun_within {M : Nat} {s₀ s : State} (h : Within M s₀ s) (k : Covers M State.endRun_touch)
    (w : Wing) (d : Nat) :
    Within M s₀ (State.endRun s w d) := by
  simp only [State.endRun_touch, covers_union] at k
  obtain ⟨k0, k1, k2, k3, k4, k5, _⟩ := k
  unfold State.endRun
  dsimp only
  repeat' first
    | with_reducible assumption | with_reducible exact .refl _ _ | with_reducible apply State.countWrap_within
    | with_reducible apply State.onDim_within | with_reducible apply State.evt_within
    | with_reducible apply State.when_within | with_reducible apply State.wrb_within
    | with_reducible exact may_row (by with_reducible assumption) | intro _ | split

/-- What `State.steer` may write. -/
def State.steer_touch : Nat :=
  union [Row.CNV_CAL_STAT_RISING.bit, State.onDim_touch, State.park_touch]

theorem State.steer_within {M : Nat} {s₀ s : State} (h : Within M s₀ s) (k : Covers M State.steer_touch) (w : Wing)
    (d : Nat) :
    Within M s₀ (State.steer s w d) := by
  simp only [State.steer_touch, covers_union] at k
  obtain ⟨k0, k1, k2, _⟩ := k
  unfold State.steer
  dsimp only
  repeat' first
    | with_reducible assumption | with_reducible exact .refl _ _ | with_reducible apply State.onDim_within
    | with_reducible apply State.wrb_within | with_reducible apply State.park_within
    | with_reducible exact may_row (by with_reducible assumption) | intro _ | split

/-- What `State.stopDim` may write. -/
def State.stopDim_touch : Nat :=
  union [Row.CNV_CAL_STAT_CALIBRATING.bit, Row.CNV_CAL_STAT_ROTATING.bit, State.onDim_touch]

theorem State.stopDim_within {M : Nat} {s₀ s : State} (h : Within M s₀ s) (k : Covers M State.stopDim_touch)
    (w : Wing) (d : Nat) :
    Within M s₀ (State.stopDim s w d) := by
  simp only [State.stopDim_touch, covers_union] at k
  obtain ⟨k0, k1, k2, _⟩ := k
  unfold State.stopDim
  repeat' first
    | with_reducible assumption | with_reducible exact .refl _ _ | with_reducible apply State.onDim_within
    | with_reducible apply State.wrb_within | with_reducible exact may_row (by with_reducible assumption)

/-- What `State.handover` may write. -/
def State.handover_touch : Nat :=
  union [Row.CNV_CAL_STAT_SPARE.bit, State.takePark_touch, State.setTrim_touch, State.onDim_touch,
    State.setQual_touch, State.endRun_touch, State.steer_touch]

theorem State.handover_within {M : Nat} {s₀ s : State} (h : Within M s₀ s) (k : Covers M State.handover_touch)
    (w : Wing) (d : Nat) :
    Within M s₀ (State.handover s w d) := by
  simp only [State.handover_touch, covers_union] at k
  obtain ⟨k0, k1, k2, k3, k4, k5, k6, _⟩ := k
  unfold State.handover
  dsimp only
  repeat' first
    | with_reducible assumption | with_reducible exact .refl _ _ | with_reducible apply State.takePark_within
    | with_reducible apply State.setTrim_within | with_reducible apply State.wr_within
    | with_reducible apply State.onDim_within | with_reducible apply State.setQual_within
    | with_reducible apply State.endRun_within | with_reducible apply State.steer_within
    | with_reducible exact may_row (by with_reducible assumption) | intro _ | split

/-- What `State.startDac` may write. -/
def State.startDac_touch : Nat :=
  union [Row.CNV_DAC_CAL_BUSY.bit]

theorem State.startDac_within {M : Nat} {s₀ s : State} (h : Within M s₀ s) (k : Covers M State.startDac_touch)
    (w : Wing) :
    Within M s₀ (State.startDac s w) := by
  simp only [State.startDac_touch, covers_union] at k
  obtain ⟨k0, _⟩ := k
  unfold State.startDac
  repeat' first
    | with_reducible assumption | with_reducible exact .refl _ _ | with_reducible apply State.wrb_within
    | with_reducible exact may_row (by with_reducible assumption)

/-- What `State.dacCal` may write. -/
def State.dacCal_touch : Nat :=
  union [Row.CNV_DAC_CAL_REFUSED.bit, State.startDac_touch]

theorem State.dacCal_within {M : Nat} {s₀ s : State} (h : Within M s₀ s) (k : Covers M State.dacCal_touch)
    (w : Wing) :
    Within M s₀ (State.dacCal s w) := by
  simp only [State.dacCal_touch, covers_union] at k
  obtain ⟨k0, k1, _⟩ := k
  unfold State.dacCal
  repeat' first
    | with_reducible assumption | with_reducible exact .refl _ _ | with_reducible apply State.wrb_within
    | with_reducible apply State.startDac_within | with_reducible exact may_row (by with_reducible assumption)
    | split

/-- What `State.afterHandover` may write. -/
def State.afterHandover_touch : Nat :=
  union [State.dacCal_touch, State.onConv_touch, State.restartCal_touch]

theorem State.afterHandover_within {M : Nat} {s₀ s : State} (h : Within M s₀ s)
    (k : Covers M State.afterHandover_touch) (w : Wing) :
    Within M s₀ (State.afterHandover s w) := by
  simp only [State.afterHandover_touch, covers_union] at k
  obtain ⟨k0, k1, k2, _⟩ := k
  unfold State.afterHandover
  dsimp only
  repeat' first
    | with_reducible assumption | with_reducible exact .refl _ _ | with_reducible apply State.dacCal_within
    | with_reducible apply State.onConv_within | with_reducible apply State.when_within
    | with_reducible apply State.restartCal_within | intro _

/-- What `execSliceHandover` may write. -/
def execSliceHandover_touch : Nat :=
  union [State.stopDim_touch, State.handover_touch, State.afterHandover_touch, State.begin_touch]

theorem execSliceHandover_within {M : Nat} (s : State) (k : Covers M execSliceHandover_touch) (w : Wing) (d : Fin 4) :
    Answered M s (execSliceHandover w d s) := by
  simp only [execSliceHandover_touch, covers_union] at k
  obtain ⟨k0, k1, k2, k3, _⟩ := k
  unfold execSliceHandover
  dsimp only
  repeat' first
    | apply answered_next | with_reducible assumption | with_reducible exact .refl _ _
    | with_reducible apply State.stopDim_within | with_reducible apply State.handover_within
    | with_reducible apply State.afterHandover_within | with_reducible apply State.begin_within
    | with_reducible apply State.when_within | with_reducible exact may_row (by with_reducible assumption) | intro _
    | split

/-- What `execDwellExpiry` may write. -/
def execDwellExpiry_touch : Nat :=
  union [State.begin_touch, State.calibrate_touch]

theorem execDwellExpiry_within {M : Nat} (s : State) (k : Covers M execDwellExpiry_touch) (w : Wing) (d : Fin 4) :
    Answered M s (execDwellExpiry w d s) := by
  simp only [execDwellExpiry_touch, covers_union] at k
  obtain ⟨k0, k1, _⟩ := k
  unfold execDwellExpiry
  dsimp only
  repeat' first
    | apply answered_next | with_reducible assumption | with_reducible exact .refl _ _
    | with_reducible apply State.begin_within | with_reducible apply State.calibrate_within | split

/-- What `State.parkWrite` may write. -/
def State.parkWrite_touch : Nat :=
  union [State.rotate_touch, State.park_touch]

theorem State.parkWrite_within {M : Nat} {s₀ s : State} (h : Within M s₀ s) (k : Covers M State.parkWrite_touch)
    (w : Wing) (d : Nat) :
    Within M s₀ (State.parkWrite s w d) := by
  simp only [State.parkWrite_touch, covers_union] at k
  obtain ⟨k0, k1, _⟩ := k
  unfold State.parkWrite
  dsimp only
  repeat' first
    | with_reducible assumption | with_reducible exact .refl _ _ | with_reducible apply State.rotate_within
    | with_reducible apply State.park_within | split

/-- What `State.parkRow` may write. -/
def State.parkRow_touch : Nat :=
  union [State.takePark_touch, State.parkWrite_touch]

theorem State.parkRow_within {M : Nat} {s₀ s : State} (h : Within M s₀ s) (k : Covers M State.parkRow_touch)
    (w : Wing) (d : Nat) :
    Within M s₀ (State.parkRow s w d) := by
  simp only [State.parkRow_touch, covers_union] at k
  obtain ⟨k0, k1, _⟩ := k
  unfold State.parkRow
  dsimp only
  repeat' first
    | with_reducible assumption | with_reducible exact .refl _ _ | with_reducible apply State.takePark_within
    | with_reducible apply State.parkWrite_within | with_reducible exact may_row (by with_reducible assumption)
    | split

/-- What `State.haltDim` may write. -/
def State.haltDim_touch : Nat :=
  union [State.stopDim_touch, State.park_touch]

theorem State.haltDim_within {M : Nat} {s₀ s : State} (h : Within M s₀ s) (k : Covers M State.haltDim_touch)
    (w : Wing) (d : Nat) :
    Within M s₀ (State.haltDim s w d) := by
  simp only [State.haltDim_touch, covers_union] at k
  obtain ⟨k0, k1, _⟩ := k
  unfold State.haltDim
  dsimp only
  repeat' first
    | with_reducible assumption | with_reducible exact .refl _ _ | with_reducible apply State.stopDim_within
    | with_reducible apply State.when_within | with_reducible apply State.park_within
    | with_reducible exact may_row (by with_reducible assumption) | intro _ | split

/-- What `State.resumeDim` may write. -/
def State.resumeDim_touch : Nat :=
  union [State.rotate_touch]

theorem State.resumeDim_within {M : Nat} {s₀ s : State} (h : Within M s₀ s) (k : Covers M State.resumeDim_touch)
    (w : Wing) (d : Nat) :
    Within M s₀ (State.resumeDim s w d) := by
  simp only [State.resumeDim_touch, covers_union] at k
  obtain ⟨k0, _⟩ := k
  unfold State.resumeDim
  dsimp only
  repeat' first
    | with_reducible assumption | with_reducible exact .refl _ _ | with_reducible apply State.rotate_within
    | with_reducible exact may_row (by with_reducible assumption) | split

/-- What `State.bgChange` may write. -/
def State.bgChange_touch : Nat :=
  union [State.takePark_touch, State.resumeDim_touch, State.afterHandover_touch, State.haltDim_touch]

theorem State.bgChange_within {M : Nat} {s₀ s : State} (h : Within M s₀ s) (k : Covers M State.bgChange_touch)
    (w : Wing) :
    Within M s₀ (State.bgChange s w) := by
  simp only [State.bgChange_touch, covers_union] at k
  obtain ⟨k0, k1, k2, k3, _⟩ := k
  unfold State.bgChange
  dsimp only
  repeat' first
    | with_reducible assumption | with_reducible exact .refl _ _ | with_reducible apply State.takePark_within
    | with_reducible apply State.resumeDim_within | with_reducible apply State.afterHandover_within
    | with_reducible apply State.haltDim_within | with_reducible apply State.when_within
    | with_reducible apply State.upTo_within | with_reducible exact may_row (by with_reducible assumption) | intro _
    | split

/-- What `State.haltConv` may write. -/
def State.haltConv_touch : Nat :=
  union [State.haltDim_touch]

theorem State.haltConv_within {M : Nat} {s₀ s : State} (h : Within M s₀ s) (k : Covers M State.haltConv_touch)
    (w : Wing) :
    Within M s₀ (State.haltConv s w) := by
  simp only [State.haltConv_touch, covers_union] at k
  obtain ⟨k0, _⟩ := k
  unfold State.haltConv
  repeat' first
    | with_reducible assumption | with_reducible exact .refl _ _ | with_reducible apply State.haltDim_within
    | with_reducible apply State.upTo_within | intro _

/-- What `State.resumeConv` may write. -/
def State.resumeConv_touch : Nat :=
  union [State.bgChange_touch]

theorem State.resumeConv_within {M : Nat} {s₀ s : State} (h : Within M s₀ s) (k : Covers M State.resumeConv_touch)
    (w : Wing) :
    Within M s₀ (State.resumeConv s w) := by
  simp only [State.resumeConv_touch, covers_union] at k
  obtain ⟨k0, _⟩ := k
  unfold State.resumeConv
  repeat' first
    | with_reducible assumption | with_reducible exact .refl _ _ | with_reducible apply State.bgChange_within
    | with_reducible apply State.when_within | with_reducible exact may_row (by with_reducible assumption) | intro _

/-- What `State.unlockAdc` may write. -/
def State.unlockAdc_touch : Nat :=
  union [Row.CNV_ADC_CLK_LOCKED.bit, Row.CNV_QUAL_VALID.bit, State.haltDim_touch]

theorem State.unlockAdc_within {M : Nat} {s₀ s : State} (h : Within M s₀ s) (k : Covers M State.unlockAdc_touch)
    (w : Wing) :
    Within M s₀ (State.unlockAdc s w) := by
  simp only [State.unlockAdc_touch, covers_union] at k
  obtain ⟨k0, k1, k2, _⟩ := k
  unfold State.unlockAdc
  repeat' first
    | with_reducible assumption | with_reducible exact .refl _ _ | with_reducible apply State.haltDim_within
    | with_reducible apply State.wrb_within | with_reducible apply State.upTo_within
    | with_reducible exact may_row (by with_reducible assumption) | intro _

/-- What `State.unlockDac` may write. -/
def State.unlockDac_touch : Nat :=
  union [Row.CNV_DAC_CLK_LOCKED.bit]

theorem State.unlockDac_within {M : Nat} {s₀ s : State} (h : Within M s₀ s) (k : Covers M State.unlockDac_touch)
    (w : Wing) :
    Within M s₀ (State.unlockDac s w) := by
  simp only [State.unlockDac_touch, covers_union] at k
  obtain ⟨k0, _⟩ := k
  unfold State.unlockDac
  repeat' first
    | with_reducible assumption | with_reducible exact .refl _ _ | with_reducible apply State.wrb_within
    | with_reducible exact may_row (by with_reducible assumption)

/-- What `State.dacWrite` may write. -/
def State.dacWrite_touch : Nat :=
  union [State.dacCal_touch, State.onConv_touch]

theorem State.dacWrite_within {M : Nat} {s₀ s : State} (h : Within M s₀ s) (k : Covers M State.dacWrite_touch)
    (w : Wing) :
    Within M s₀ (State.dacWrite s w) := by
  simp only [State.dacWrite_touch, covers_union] at k
  obtain ⟨k0, k1, _⟩ := k
  unfold State.dacWrite
  repeat' first
    | with_reducible assumption | with_reducible exact .refl _ _ | with_reducible apply State.dacCal_within
    | with_reducible apply State.onConv_within | intro _ | split

/-- What `execDacCalStart` may write. -/
def execDacCalStart_touch : Nat :=
  union [State.dacWrite_touch, State.begin_touch]

theorem execDacCalStart_within {M : Nat} (s : State) (k : Covers M execDacCalStart_touch) (req : Req) (w : Wing) :
    Answered M s (execDacCalStart req w s) := by
  simp only [execDacCalStart_touch, covers_union] at k
  obtain ⟨k0, k1, _⟩ := k
  unfold execDacCalStart
  repeat' first
    | apply answered_next | with_reducible assumption | with_reducible exact .refl _ _
    | with_reducible apply State.dacWrite_within | with_reducible apply State.via_within
    | with_reducible apply State.begin_within | intro _

/-- What `State.setDac` may write. -/
def State.setDac_touch : Nat :=
  union [State.onConv_touch]

theorem State.setDac_within {M : Nat} {s₀ s : State} (h : Within M s₀ s) (k : Covers M State.setDac_touch)
    (w : Wing) (trims : List SliceTrim) :
    Within M s₀ (State.setDac s w trims) := by
  simp only [State.setDac_touch, covers_union] at k
  obtain ⟨k0, _⟩ := k
  unfold State.setDac
  repeat' first
    | with_reducible assumption | with_reducible exact .refl _ _ | with_reducible apply State.onConv_within

/-- What `State.dacDone` may write. -/
def State.dacDone_touch : Nat :=
  union [Row.CNV_DAC_CAL_BUSY.bit, Row.CNV_DAC_CAL_DONE.bit, Row.CNV_DAC_QUAL_RES_SKEW.bit,
    Row.CNV_DAC_QUAL_RES_SPUR.bit, Row.CNV_DAC_QUAL_VALID.bit, Row.CNV_EVT_DAC_CAL_DONE.bit, State.evt_touch,
    State.setDac_touch]

theorem State.dacDone_within {M : Nat} {s₀ s : State} (h : Within M s₀ s) (k : Covers M State.dacDone_touch)
    (w : Wing) (trims : List SliceTrim) :
    Within M s₀ (State.dacDone s w trims) := by
  simp only [State.dacDone_touch, covers_union] at k
  obtain ⟨k0, k1, k2, k3, k4, k5, k6, k7, _⟩ := k
  unfold State.dacDone
  dsimp only
  repeat' first
    | with_reducible assumption | with_reducible exact .refl _ _ | with_reducible apply State.wr_within
    | with_reducible apply State.wrS_within | with_reducible apply State.evt_within
    | with_reducible apply State.setDac_within | with_reducible apply State.wrb_within
    | with_reducible apply State.upTo_within | with_reducible exact may_row (by with_reducible assumption) | intro _

/-- What `State.collect` may write. -/
def State.collect_touch : Nat :=
  union [State.onDim_touch]

theorem State.collect_within {M : Nat} {s₀ s : State} (h : Within M s₀ s) (k : Covers M State.collect_touch)
    (c : CodeStats) :
    Within M s₀ (State.collect s c) := by
  simp only [State.collect_touch, covers_union] at k
  obtain ⟨k0, _⟩ := k
  unfold State.collect
  dsimp only
  repeat' first
    | with_reducible assumption | with_reducible exact .refl _ _ | with_reducible apply State.onDim_within | intro _
    | split

/-- What `State.restartLive` may write. -/
def State.restartLive_touch : Nat :=
  union [State.onDim_touch]

theorem State.restartLive_within {M : Nat} {s₀ s : State} (h : Within M s₀ s) (k : Covers M State.restartLive_touch)
    (w : Wing) (d : Nat) (k' : Nat) :
    Within M s₀ (State.restartLive s w d k') := by
  simp only [State.restartLive_touch, covers_union] at k
  obtain ⟨k0, _⟩ := k
  unfold State.restartLive
  repeat' first | with_reducible assumption | with_reducible exact .refl _ _ | with_reducible apply State.onDim_within

/-- What `State.latchDim` may write. -/
def State.latchDim_touch : Nat :=
  union [Row.CNV_DIM_CNT_HI_CNT.bit, Row.CNV_DIM_CNT_LO_CNT.bit, Row.CNV_DIM_FLAGS_FULL_SCALE.bit,
    Row.CNV_DIM_FLAGS_IN_SERVICE.bit, Row.CNV_DIM_FLAGS_STALE.bit, Row.CNV_DIM_MINMAX_MAX.bit,
    Row.CNV_DIM_MINMAX_MIN.bit, Row.CNV_DIM_SQ_HI_SQ.bit, Row.CNV_DIM_SQ_LO_SQ.bit, Row.CNV_DIM_SUM_HI_SUM.bit,
    Row.CNV_DIM_SUM_LO_SUM.bit, State.restartLive_touch]

theorem State.latchDim_within {M : Nat} {s₀ s : State} (h : Within M s₀ s) (k : Covers M State.latchDim_touch)
    (w : Wing) (d : Nat) :
    Within M s₀ (State.latchDim s w d) := by
  simp only [State.latchDim_touch, covers_union] at k
  obtain ⟨k0, k1, k2, k3, k4, k5, k6, k7, k8, k9, k10, k11, _⟩ := k
  unfold State.latchDim
  dsimp only
  repeat' first
    | with_reducible assumption | with_reducible exact .refl _ _ | with_reducible apply State.restartLive_within
    | with_reducible apply State.wrWide_within | with_reducible apply State.wr_within
    | with_reducible apply State.wrS_within | with_reducible apply State.wrb_within
    | with_reducible exact may_row (by with_reducible assumption)

/-- What `State.latchSlice` may write. -/
def State.latchSlice_touch : Nat :=
  union [Row.CNV_SLICE_CNT_HI_CNT.bit, Row.CNV_SLICE_CNT_LO_CNT.bit, Row.CNV_SLICE_FLAGS_FULL_SCALE.bit,
    Row.CNV_SLICE_FLAGS_IN_SERVICE.bit, Row.CNV_SLICE_FLAGS_POSITION.bit, Row.CNV_SLICE_FLAGS_STALE.bit,
    Row.CNV_SLICE_MINMAX_MAX.bit, Row.CNV_SLICE_MINMAX_MIN.bit, Row.CNV_SLICE_SQ_HI_SQ.bit,
    Row.CNV_SLICE_SQ_LO_SQ.bit, Row.CNV_SLICE_SUM_HI_SUM.bit, Row.CNV_SLICE_SUM_LO_SUM.bit, State.restartLive_touch]

theorem State.latchSlice_within {M : Nat} {s₀ s : State} (h : Within M s₀ s) (k : Covers M State.latchSlice_touch)
    (w : Wing) (d : Nat) (k' : Nat) :
    Within M s₀ (State.latchSlice s w d k') := by
  simp only [State.latchSlice_touch, covers_union] at k
  obtain ⟨k0, k1, k2, k3, k4, k5, k6, k7, k8, k9, k10, k11, k12, _⟩ := k
  unfold State.latchSlice
  dsimp only
  repeat' first
    | with_reducible assumption | with_reducible exact .refl _ _ | with_reducible apply State.restartLive_within
    | with_reducible apply State.wrWide_within | with_reducible apply State.wr_within
    | with_reducible apply State.wrS_within | with_reducible apply State.wrb_within
    | with_reducible exact may_row (by with_reducible assumption)

/-- What `State.staleSlice` may write. -/
def State.staleSlice_touch : Nat :=
  union [Row.CNV_SLICE_FLAGS_IN_SERVICE.bit, Row.CNV_SLICE_FLAGS_POSITION.bit, Row.CNV_SLICE_FLAGS_STALE.bit]

theorem State.staleSlice_within {M : Nat} {s₀ s : State} (h : Within M s₀ s) (k : Covers M State.staleSlice_touch)
    (w : Wing) (d : Nat) (k' : Nat) :
    Within M s₀ (State.staleSlice s w d k') := by
  simp only [State.staleSlice_touch, covers_union] at k
  obtain ⟨k0, k1, k2, _⟩ := k
  unfold State.staleSlice
  repeat' first
    | with_reducible assumption | with_reducible exact .refl _ _ | with_reducible apply State.wr_within
    | with_reducible apply State.wrb_within | with_reducible exact may_row (by with_reducible assumption)

/-- What `State.latchBlocks` may write. -/
def State.latchBlocks_touch : Nat :=
  union [State.latchSlice_touch, State.staleSlice_touch, State.latchDim_touch]

theorem State.latchBlocks_within {M : Nat} {s₀ s : State} (h : Within M s₀ s) (k : Covers M State.latchBlocks_touch)
    (w : Wing) (d : Nat) :
    Within M s₀ (State.latchBlocks s w d) := by
  simp only [State.latchBlocks_touch, covers_union] at k
  obtain ⟨k0, k1, k2, _⟩ := k
  unfold State.latchBlocks
  repeat' first
    | with_reducible assumption | with_reducible exact .refl _ _ | with_reducible apply State.latchSlice_within
    | with_reducible apply State.staleSlice_within | with_reducible apply State.latchDim_within
    | with_reducible apply State.upTo_within | intro _ | split

/-- What `State.latchConv` may write. -/
def State.latchConv_touch : Nat :=
  union [State.latchBlocks_touch]

theorem State.latchConv_within {M : Nat} {s₀ s : State} (h : Within M s₀ s) (k : Covers M State.latchConv_touch)
    (w : Wing) :
    Within M s₀ (State.latchConv s w) := by
  simp only [State.latchConv_touch, covers_union] at k
  obtain ⟨k0, _⟩ := k
  unfold State.latchConv
  repeat' first
    | with_reducible assumption | with_reducible exact .refl _ _ | with_reducible apply State.latchBlocks_within
    | with_reducible apply State.when_within | with_reducible apply State.upTo_within | intro _

end Sys2Proof.Machine
end

