-- ==== Sys2Proof/Laws/WithinReceive.lean ====
section
/-!
SUPPORT. `Within` over the operations of Machine/Receive.lean.
-/

namespace Sys2Proof.Machine

/-- What `State.showReach` may write. -/
def State.showReach_touch : Nat :=
  union [Row.RXW_CD_REACH_REACH.bit]

theorem State.showReach_within {M : Nat} {s₀ s : State} (h : Within M s₀ s) (k : Covers M State.showReach_touch)
    (w : Wing) :
    Within M s₀ (State.showReach s w) := by
  simp only [State.showReach_touch, covers_union] at k
  obtain ⟨k0, _⟩ := k
  unfold State.showReach
  repeat' first
    | with_reducible assumption | with_reducible exact .refl _ _ | with_reducible apply State.wr_within
    | with_reducible exact may_row (by with_reducible assumption)

/-- What `State.setCd` may write. -/
def State.setCd_touch : Nat :=
  union [Row.RXW_CD_STAT_CD_EST.bit, Row.RXW_CD_STAT_VALID.bit, Row.RXW_TAP_STAT_USED.bit, State.tapsWrite_touch]

theorem State.setCd_within {M : Nat} {s₀ s : State} (h : Within M s₀ s) (k : Covers M State.setCd_touch) (w : Wing)
    (cd : Int) :
    Within M s₀ (State.setCd s w cd) := by
  simp only [State.setCd_touch, covers_union] at k
  obtain ⟨k0, k1, k2, k3, _⟩ := k
  unfold State.setCd
  repeat' first
    | with_reducible assumption | with_reducible exact .refl _ _ | with_reducible apply State.wr_within
    | with_reducible apply State.wrS_within | with_reducible apply State.tapsWrite_within
    | with_reducible apply State.wrb_within | with_reducible exact may_row (by with_reducible assumption)

/-- What `State.sp2End` may write. -/
def State.sp2End_touch : Nat :=
  union [Row.RXW_RX_EVT_SP2_CHANGE.bit, Row.RXW_SP2_STAT_ACTIVE.bit, Part.power.bit, State.onRx_touch,
    State.evt_touch]

theorem State.sp2End_within {M : Nat} {s₀ s : State} (h : Within M s₀ s) (k : Covers M State.sp2End_touch)
    (w : Wing) :
    Within M s₀ (State.sp2End s w) := by
  simp only [State.sp2End_touch, covers_union] at k
  obtain ⟨k0, k1, k2, k3, k4, _⟩ := k
  unfold State.sp2End
  dsimp only
  repeat' first
    | with_reducible assumption | with_reducible exact .refl _ _ | with_reducible apply State.onRx_within
    | with_reducible apply State.evt_within | with_reducible apply State.wrb_within
    | with_reducible exact may_row (by with_reducible assumption) | intro _ | with_reducible apply within_power

/-- What `State.sp2Off` may write. -/
def State.sp2Off_touch : Nat :=
  union [Row.RXW_SP2_STAT_DRAINING.bit, State.sp2End_touch]

theorem State.sp2Off_within {M : Nat} {s₀ s : State} (h : Within M s₀ s) (k : Covers M State.sp2Off_touch)
    (w : Wing) :
    Within M s₀ (State.sp2Off s w) := by
  simp only [State.sp2Off_touch, covers_union] at k
  obtain ⟨k0, k1, _⟩ := k
  unfold State.sp2Off
  repeat' first
    | with_reducible assumption | with_reducible exact .refl _ _ | with_reducible apply State.when_within
    | with_reducible apply State.wrb_within | with_reducible apply State.sp2End_within
    | with_reducible exact may_row (by with_reducible assumption) | intro _

/-- What `execSp2AutoOn` may write. -/
def execSp2AutoOn_touch : Nat :=
  union [State.sp2Request_touch, State.begin_touch]

theorem execSp2AutoOn_within {M : Nat} (s : State) (k : Covers M execSp2AutoOn_touch) (w : Wing) :
    Answered M s (execSp2AutoOn w s) := by
  simp only [execSp2AutoOn_touch, covers_union] at k
  obtain ⟨k0, k1, _⟩ := k
  unfold execSp2AutoOn
  dsimp only
  repeat' first
    | apply answered_next | with_reducible assumption | with_reducible exact .refl _ _
    | with_reducible apply State.sp2Request_within | with_reducible apply State.begin_within
    | with_reducible exact may_row (by with_reducible assumption) | split

/-- What `execSp2AutoOff` may write. -/
def execSp2AutoOff_touch : Nat :=
  union [State.onRx_touch, State.begin_touch]

theorem execSp2AutoOff_within {M : Nat} (s : State) (k : Covers M execSp2AutoOff_touch) (w : Wing) :
    Answered M s (execSp2AutoOff w s) := by
  simp only [execSp2AutoOff_touch, covers_union] at k
  obtain ⟨k0, k1, _⟩ := k
  unfold execSp2AutoOff
  dsimp only
  repeat' first
    | apply answered_next | with_reducible assumption | with_reducible exact .refl _ _
    | with_reducible apply State.onRx_within | with_reducible apply State.begin_within
    | with_reducible exact may_row (by with_reducible assumption) | intro _ | split

/-- What `State.pauseOutput` may write. -/
def State.pauseOutput_touch : Nat :=
  union [State.onRx_touch]

theorem State.pauseOutput_within {M : Nat} {s₀ s : State} (h : Within M s₀ s) (k : Covers M State.pauseOutput_touch)
    (w : Wing) :
    Within M s₀ (State.pauseOutput s w) := by
  simp only [State.pauseOutput_touch, covers_union] at k
  obtain ⟨k0, _⟩ := k
  unfold State.pauseOutput
  repeat' first | with_reducible assumption | with_reducible exact .refl _ _ | with_reducible apply State.onRx_within

/-- What `execSp2Start` may write. -/
def execSp2Start_touch : Nat :=
  union [Row.RXW_RX_EVT_SP2_CHANGE.bit, Row.RXW_SP2_STAT_ACTIVE.bit, Row.RXW_SP2_STAT_WAIT_PWR.bit,
    State.pauseOutput_touch, State.evt_touch, State.begin_touch]

theorem execSp2Start_within {M : Nat} (s : State) (k : Covers M execSp2Start_touch) (w : Wing) :
    Answered M s (execSp2Start w s) := by
  simp only [execSp2Start_touch, covers_union] at k
  obtain ⟨k0, k1, k2, k3, k4, k5, _⟩ := k
  unfold execSp2Start
  dsimp only
  repeat' first
    | apply answered_next | with_reducible assumption | with_reducible exact .refl _ _
    | with_reducible apply State.pauseOutput_within | with_reducible apply State.evt_within
    | with_reducible apply State.begin_within | with_reducible apply State.wrb_within
    | with_reducible exact may_row (by with_reducible assumption) | split

/-- What `execSp2Stop` may write. -/
def execSp2Stop_touch : Nat :=
  union [Row.RXW_SP2_STAT_DRAINING.bit, State.begin_touch, State.sp2End_touch]

theorem execSp2Stop_within {M : Nat} (s : State) (k : Covers M execSp2Stop_touch) (w : Wing) :
    Answered M s (execSp2Stop w s) := by
  simp only [execSp2Stop_touch, covers_union] at k
  obtain ⟨k0, k1, k2, _⟩ := k
  unfold execSp2Stop
  dsimp only
  repeat' first
    | apply answered_next | with_reducible assumption | with_reducible exact .refl _ _
    | with_reducible apply State.begin_within | with_reducible apply State.wrb_within
    | with_reducible apply State.sp2End_within | with_reducible exact may_row (by with_reducible assumption) | split

/-- What `execSp2DrainDone` may write. -/
def execSp2DrainDone_touch : Nat :=
  union [Row.RXW_SP2_STAT_DRAINING.bit, State.begin_touch]

theorem execSp2DrainDone_within {M : Nat} (s : State) (k : Covers M execSp2DrainDone_touch) (w : Wing) :
    Answered M s (execSp2DrainDone w s) := by
  simp only [execSp2DrainDone_touch, covers_union] at k
  obtain ⟨k0, k1, _⟩ := k
  unfold execSp2DrainDone
  repeat' first
    | apply answered_next | with_reducible assumption | with_reducible exact .refl _ _
    | with_reducible apply State.begin_within | with_reducible apply State.wrb_within
    | with_reducible exact may_row (by with_reducible assumption)

/-- What `State.setRx` may write. -/
def State.setRx_touch : Nat :=
  union [Row.RXW_RX_EVT_READY_FALL.bit, Row.RXW_RX_STAT_STATE.bit, State.loseCand_touch, State.evt_touch,
    State.icmRefresh_touch, State.sp2Off_touch]

theorem State.setRx_within {M : Nat} {s₀ s : State} (h : Within M s₀ s) (k : Covers M State.setRx_touch) (w : Wing)
    (st : Nat) :
    Within M s₀ (State.setRx s w st) := by
  simp only [State.setRx_touch, covers_union] at k
  obtain ⟨k0, k1, k2, k3, k4, k5, _⟩ := k
  unfold State.setRx
  dsimp only
  repeat' first
    | with_reducible assumption | with_reducible exact .refl _ _ | with_reducible apply State.loseCand_within
    | with_reducible apply State.wr_within | with_reducible apply State.evt_within
    | with_reducible apply State.icmRefresh_within | with_reducible apply State.sp2Off_within
    | with_reducible exact may_row (by with_reducible assumption) | split

theorem State.zero_within {M : Nat} {s₀ s : State} (h : Within M s₀ s) (rs : List Row) (krs : MayAll M rs)
    (i : List Nat) :
    Within M s₀ (State.zero s rs i) := by
  unfold State.zero
  repeat' first
    | with_reducible assumption | with_reducible exact .refl _ _ | with_reducible apply State.wr_within
    | with_reducible apply within_foldl_mem | exact krs _ (by with_reducible assumption)
    | with_reducible exact may_row (by with_reducible assumption) | intro _

/-- What `State.clearRx` may write. -/
def State.clearRx_touch : Nat :=
  union [Row.RXW_CD_STAT_VALID.bit, Row.RXW_EQ_STAT_CONVERGED.bit, Row.RXW_EQ_STAT_MODE.bit,
    Row.RXW_FR_STAT_LOCKED.bit, Row.RXW_HDR_STAT_BAUD_MISM.bit, Row.RXW_HDR_STAT_CF_ALIGNED.bit,
    Row.RXW_HDR_STAT_MAP_VALID.bit, Row.RXW_HDR_STAT_SF_ALIGNED.bit, Row.RXW_TR_STAT_LOCKED.bit,
    State.dropAnn_touch, State.onRx_touch, State.setActiveMap_touch, State.flushBlocks_touch]

theorem State.clearRx_within {M : Nat} {s₀ s : State} (h : Within M s₀ s) (k : Covers M State.clearRx_touch)
    (w : Wing) :
    Within M s₀ (State.clearRx s w) := by
  simp only [State.clearRx_touch, covers_union] at k
  obtain ⟨k0, k1, k2, k3, k4, k5, k6, k7, k8, k9, k10, k11, k12, _⟩ := k
  unfold State.clearRx
  dsimp only
  repeat' first
    | with_reducible assumption | with_reducible exact .refl _ _ | with_reducible apply State.dropAnn_within
    | with_reducible apply State.onRx_within | with_reducible apply State.zero_within
    | with_reducible apply State.setActiveMap_within | with_reducible apply State.flushBlocks_within
    | with_reducible exact may_row (by with_reducible assumption) | with_reducible apply mayAll_cons
    | with_reducible exact mayAll_nil _

/-- What `State.startAcq` may write. -/
def State.startAcq_touch : Nat :=
  union [Row.RXW_FR_STAT_OFFSET.bit, Row.RXW_RX_STAT_ACQ_COUNT.bit, State.setRx_touch, State.onRx_touch,
    State.countWrap_touch, State.clearRx_touch]

theorem State.startAcq_within {M : Nat} {s₀ s : State} (h : Within M s₀ s) (k : Covers M State.startAcq_touch)
    (w : Wing) (warm : Bool) :
    Within M s₀ (State.startAcq s w warm) := by
  simp only [State.startAcq_touch, covers_union] at k
  obtain ⟨k0, k1, k2, k3, k4, k5, _⟩ := k
  unfold State.startAcq
  dsimp only
  repeat' first
    | with_reducible assumption | with_reducible exact .refl _ _ | with_reducible apply State.setRx_within
    | with_reducible apply State.onRx_within | with_reducible apply State.countWrap_within
    | with_reducible apply State.wrS_within | with_reducible apply State.clearRx_within
    | with_reducible exact may_row (by with_reducible assumption) | intro _ | split

/-- What `State.toWait` may write. -/
def State.toWait_touch : Nat :=
  union [State.setRx_touch, State.icmSearch_touch, State.clearRx_touch]

theorem State.toWait_within {M : Nat} {s₀ s : State} (h : Within M s₀ s) (k : Covers M State.toWait_touch)
    (w : Wing) :
    Within M s₀ (State.toWait s w) := by
  simp only [State.toWait_touch, covers_union] at k
  obtain ⟨k0, k1, k2, _⟩ := k
  unfold State.toWait
  repeat' first
    | with_reducible assumption | with_reducible exact .refl _ _ | with_reducible apply State.setRx_within
    | with_reducible apply State.icmSearch_within | with_reducible apply State.clearRx_within

/-- What `execAcqStart` may write. -/
def execAcqStart_touch : Nat :=
  union [State.startAcq_touch, State.begin_touch]

theorem execAcqStart_within {M : Nat} (s : State) (k : Covers M execAcqStart_touch) (w : Wing) :
    Answered M s (execAcqStart w s) := by
  simp only [execAcqStart_touch, covers_union] at k
  obtain ⟨k0, k1, _⟩ := k
  unfold execAcqStart
  dsimp only
  repeat' first
    | apply answered_next | with_reducible assumption | with_reducible exact .refl _ _
    | with_reducible apply State.startAcq_within | with_reducible apply State.begin_within | split

/-- What `State.failAcq` may write. -/
def State.failAcq_touch : Nat :=
  union [Row.RXW_RX_EVT_ACQ_FAIL.bit, Row.RXW_RX_EVT_CD_RANGE.bit, Row.RXW_RX_STAT_FAIL_REASON.bit,
    State.setRx_touch, State.evt_touch, State.flushBlocks_touch, State.emit_touch]

theorem State.failAcq_within {M : Nat} {s₀ s : State} (h : Within M s₀ s) (k : Covers M State.failAcq_touch)
    (w : Wing) (reason : Nat) :
    Within M s₀ (State.failAcq s w reason) := by
  simp only [State.failAcq_touch, covers_union] at k
  obtain ⟨k0, k1, k2, k3, k4, k5, k6, _⟩ := k
  unfold State.failAcq
  dsimp only
  repeat' first
    | with_reducible assumption | with_reducible exact .refl _ _ | with_reducible apply State.setRx_within
    | with_reducible apply State.wr_within | with_reducible apply State.evt_within
    | with_reducible apply State.when_within | with_reducible apply State.flushBlocks_within
    | with_reducible apply State.emit_within | with_reducible exact may_row (by with_reducible assumption) | intro _

/-- What `execAcqFail` may write. -/
def execAcqFail_touch : Nat :=
  union [State.failAcq_touch, State.begin_touch]

theorem execAcqFail_within {M : Nat} (s : State) (k : Covers M execAcqFail_touch) (w : Wing) (reason : Fin 16) :
    Answered M s (execAcqFail w reason s) := by
  simp only [execAcqFail_touch, covers_union] at k
  obtain ⟨k0, k1, _⟩ := k
  unfold execAcqFail
  dsimp only
  repeat' first
    | apply answered_next | with_reducible assumption | with_reducible exact .refl _ _
    | with_reducible apply State.failAcq_within | with_reducible apply State.begin_within | split

/-- What `execAcqRetry` may write. -/
def execAcqRetry_touch : Nat :=
  union [State.startAcq_touch, State.begin_touch]

theorem execAcqRetry_within {M : Nat} (s : State) (k : Covers M execAcqRetry_touch) (w : Wing) :
    Answered M s (execAcqRetry w s) := by
  simp only [execAcqRetry_touch, covers_union] at k
  obtain ⟨k0, k1, _⟩ := k
  unfold execAcqRetry
  dsimp only
  repeat' first
    | apply answered_next | with_reducible assumption | with_reducible exact .refl _ _
    | with_reducible apply State.startAcq_within | with_reducible apply State.begin_within | split

/-- What `State.reacquire` may write. -/
def State.reacquire_touch : Nat :=
  union [State.startAcq_touch]

theorem State.reacquire_within {M : Nat} {s₀ s : State} (h : Within M s₀ s) (k : Covers M State.reacquire_touch)
    (w : Wing) (warm : Bool) :
    Within M s₀ (State.reacquire s w warm) := by
  simp only [State.reacquire_touch, covers_union] at k
  obtain ⟨k0, _⟩ := k
  unfold State.reacquire
  repeat' first
    | with_reducible assumption | with_reducible exact .refl _ _ | with_reducible apply State.startAcq_within | split

/-- What `execReacq` may write. -/
def execReacq_touch : Nat :=
  union [State.reacquire_touch, State.begin_touch]

theorem execReacq_within {M : Nat} (s : State) (k : Covers M execReacq_touch) (req : Req) (w : Wing) (warm : Bool) :
    Answered M s (execReacq req w warm s) := by
  simp only [execReacq_touch, covers_union] at k
  obtain ⟨k0, k1, _⟩ := k
  unfold execReacq
  repeat' first
    | apply answered_next | with_reducible assumption | with_reducible exact .refl _ _
    | with_reducible apply State.reacquire_within | with_reducible apply State.via_within
    | with_reducible apply State.begin_within | intro _

/-- What `State.enterCd` may write. -/
def State.enterCd_touch : Nat :=
  union [State.setRx_touch, State.onRx_touch]

theorem State.enterCd_within {M : Nat} {s₀ s : State} (h : Within M s₀ s) (k : Covers M State.enterCd_touch)
    (w : Wing) :
    Within M s₀ (State.enterCd s w) := by
  simp only [State.enterCd_touch, covers_union] at k
  obtain ⟨k0, k1, _⟩ := k
  unfold State.enterCd
  dsimp only
  repeat' first
    | with_reducible assumption | with_reducible exact .refl _ _ | with_reducible apply State.setRx_within
    | with_reducible apply State.onRx_within

/-- What `State.stepFreq` may write. -/
def State.stepFreq_touch : Nat :=
  union [Row.RXW_FR_STAT_OFFSET.bit, State.enterCd_touch, State.failAcq_touch]

theorem State.stepFreq_within {M : Nat} {s₀ s : State} (h : Within M s₀ s) (k : Covers M State.stepFreq_touch)
    (w : Wing) (m : AcqInput) :
    Within M s₀ (State.stepFreq s w m) := by
  simp only [State.stepFreq_touch, covers_union] at k
  obtain ⟨k0, k1, k2, _⟩ := k
  unfold State.stepFreq
  dsimp only
  repeat' first
    | with_reducible assumption | with_reducible exact .refl _ _ | with_reducible apply State.enterCd_within
    | with_reducible apply State.wrS_within | with_reducible apply State.failAcq_within
    | with_reducible exact may_row (by with_reducible assumption) | split

/-- What `State.enterTiming` may write. -/
def State.enterTiming_touch : Nat :=
  union [State.setRx_touch, State.onRx_touch]

theorem State.enterTiming_within {M : Nat} {s₀ s : State} (h : Within M s₀ s) (k : Covers M State.enterTiming_touch)
    (w : Wing) :
    Within M s₀ (State.enterTiming s w) := by
  simp only [State.enterTiming_touch, covers_union] at k
  obtain ⟨k0, k1, _⟩ := k
  unfold State.enterTiming
  dsimp only
  repeat' first
    | with_reducible assumption | with_reducible exact .refl _ _ | with_reducible apply State.setRx_within
    | with_reducible apply State.onRx_within

/-- What `State.stepCd` may write. -/
def State.stepCd_touch : Nat :=
  union [State.setCd_touch, State.enterTiming_touch, State.failAcq_touch]

theorem State.stepCd_within {M : Nat} {s₀ s : State} (h : Within M s₀ s) (k : Covers M State.stepCd_touch)
    (w : Wing) (m : AcqInput) :
    Within M s₀ (State.stepCd s w m) := by
  simp only [State.stepCd_touch, covers_union] at k
  obtain ⟨k0, k1, k2, _⟩ := k
  unfold State.stepCd
  dsimp only
  repeat' first
    | with_reducible assumption | with_reducible exact .refl _ _ | with_reducible apply State.setCd_within
    | with_reducible apply State.enterTiming_within | with_reducible apply State.failAcq_within | split

/-- What `State.enterEq` may write. -/
def State.enterEq_touch : Nat :=
  union [State.setRx_touch, State.onRx_touch]

theorem State.enterEq_within {M : Nat} {s₀ s : State} (h : Within M s₀ s) (k : Covers M State.enterEq_touch)
    (w : Wing) :
    Within M s₀ (State.enterEq s w) := by
  simp only [State.enterEq_touch, covers_union] at k
  obtain ⟨k0, k1, _⟩ := k
  unfold State.enterEq
  dsimp only
  repeat' first
    | with_reducible assumption | with_reducible exact .refl _ _ | with_reducible apply State.setRx_within
    | with_reducible apply State.onRx_within

/-- What `State.stepTiming` may write. -/
def State.stepTiming_touch : Nat :=
  union [Row.RXW_TR_STAT_LOCKED.bit, Row.RXW_TR_STAT_OFFSET.bit, State.failAcq_touch, State.enterEq_touch]

theorem State.stepTiming_within {M : Nat} {s₀ s : State} (h : Within M s₀ s) (k : Covers M State.stepTiming_touch)
    (w : Wing) (m : AcqInput) :
    Within M s₀ (State.stepTiming s w m) := by
  simp only [State.stepTiming_touch, covers_union] at k
  obtain ⟨k0, k1, k2, k3, _⟩ := k
  unfold State.stepTiming
  repeat' first
    | with_reducible assumption | with_reducible exact .refl _ _ | with_reducible apply State.wrS_within
    | with_reducible apply State.failAcq_within | with_reducible apply State.enterEq_within
    | with_reducible apply State.wrb_within | with_reducible exact may_row (by with_reducible assumption) | split

/-- What `State.stepEq` may write. -/
def State.stepEq_touch : Nat :=
  union [Row.RXW_EQ_STAT_CONVERGED.bit, Row.RXW_EQ_STAT_DGD_EST.bit, Row.RXW_EQ_STAT_PDL_EST.bit,
    State.setRx_touch, State.onRx_touch, State.enterCd_touch]

theorem State.stepEq_within {M : Nat} {s₀ s : State} (h : Within M s₀ s) (k : Covers M State.stepEq_touch)
    (w : Wing) (m : AcqInput) :
    Within M s₀ (State.stepEq s w m) := by
  simp only [State.stepEq_touch, covers_union] at k
  obtain ⟨k0, k1, k2, k3, k4, k5, _⟩ := k
  unfold State.stepEq
  repeat' first
    | with_reducible assumption | with_reducible exact .refl _ _ | with_reducible apply State.setRx_within
    | with_reducible apply State.onRx_within | with_reducible apply State.enterCd_within
    | with_reducible apply State.wr_within | with_reducible apply State.wrb_within
    | with_reducible exact may_row (by with_reducible assumption) | intro _ | split

/-- What `State.reachReady` may write. -/
def State.reachReady_touch : Nat :=
  union [Row.RXW_RX_EVT_READY_RISE.bit, Row.RXW_RX_STAT_FAIL_REASON.bit, Row.RXW_RX_STAT_WARM_USED.bit,
    State.setRx_touch, State.onRx_touch, State.evt_touch, State.sp2Request_touch, State.icmRefresh_touch]

theorem State.reachReady_within {M : Nat} {s₀ s : State} (h : Within M s₀ s) (k : Covers M State.reachReady_touch)
    (w : Wing) :
    Within M s₀ (State.reachReady s w) := by
  simp only [State.reachReady_touch, covers_union] at k
  obtain ⟨k0, k1, k2, k3, k4, k5, k6, k7, _⟩ := k
  unfold State.reachReady
  dsimp only
  repeat' first
    | with_reducible assumption | with_reducible exact .refl _ _ | with_reducible apply State.setRx_within
    | with_reducible apply State.onRx_within | with_reducible apply State.wr_within
    | with_reducible apply State.evt_within | with_reducible apply State.sp2Request_within
    | with_reducible apply State.icmRefresh_within | with_reducible apply State.when_within
    | with_reducible apply State.wrb_within | with_reducible exact may_row (by with_reducible assumption) | intro _

/-- What `State.stepLate` may write. -/
def State.stepLate_touch : Nat :=
  union [Row.RXW_EQ_STAT_MODE.bit, Row.RXW_FR_STAT_LOCKED.bit, State.setRx_touch, State.failAcq_touch,
    State.reachReady_touch]

theorem State.stepLate_within {M : Nat} {s₀ s : State} (h : Within M s₀ s) (k : Covers M State.stepLate_touch)
    (w : Wing) :
    Within M s₀ (State.stepLate s w) := by
  simp only [State.stepLate_touch, covers_union] at k
  obtain ⟨k0, k1, k2, k3, k4, _⟩ := k
  unfold State.stepLate
  dsimp only
  repeat' first
    | with_reducible assumption | with_reducible exact .refl _ _ | with_reducible apply State.setRx_within
    | with_reducible apply State.wr_within | with_reducible apply State.failAcq_within
    | with_reducible apply State.reachReady_within | with_reducible apply State.wrb_within
    | with_reducible exact may_row (by with_reducible assumption) | split

/-- What `State.acqStep` may write. -/
def State.acqStep_touch : Nat :=
  union [State.stepEq_touch, State.setRx_touch, State.stepLate_touch, State.stepCd_touch, State.stepTiming_touch,
    State.stepFreq_touch]

theorem State.acqStep_within {M : Nat} {s₀ s : State} (h : Within M s₀ s) (k : Covers M State.acqStep_touch)
    (w : Wing) (m : AcqInput) :
    Within M s₀ (State.acqStep s w m) := by
  simp only [State.acqStep_touch, covers_union] at k
  obtain ⟨k0, k1, k2, k3, k4, k5, _⟩ := k
  unfold State.acqStep
  repeat' first
    | with_reducible assumption | with_reducible exact .refl _ _ | with_reducible apply State.stepEq_within
    | with_reducible apply State.setRx_within | with_reducible apply State.stepLate_within
    | with_reducible apply State.stepCd_within | with_reducible apply State.stepTiming_within
    | with_reducible apply State.stepFreq_within | split

/-- What `execAcqStepComplete` may write. -/
def execAcqStepComplete_touch : Nat :=
  union [State.acqStep_touch, State.begin_touch]

theorem execAcqStepComplete_within {M : Nat} (s : State) (k : Covers M execAcqStepComplete_touch) (w : Wing)
    (m : AcqInput) :
    Answered M s (execAcqStepComplete w m s) := by
  simp only [execAcqStepComplete_touch, covers_union] at k
  obtain ⟨k0, k1, _⟩ := k
  unfold execAcqStepComplete
  dsimp only
  repeat' first
    | apply answered_next | with_reducible assumption | with_reducible exact .refl _ _
    | with_reducible apply State.acqStep_within | with_reducible apply State.begin_within | split

/-- What `State.updateLos` may write. -/
def State.updateLos_touch : Nat :=
  union [Row.OPT_RX_LOS_HYST.bit, Row.OPT_RX_LOS_LOS_TH.bit, Part.inuse.bit]

theorem State.updateLos_within {M : Nat} {s₀ s : State} (h : Within M s₀ s) (k : Covers M State.updateLos_touch)
    (w : Wing) :
    Within M s₀ (State.updateLos s w) := by
  simp only [State.updateLos_touch, covers_union] at k
  obtain ⟨k0, k1, k2, _⟩ := k
  unfold State.updateLos
  repeat' first
    | with_reducible assumption | with_reducible exact .refl _ _ | with_reducible apply State.releaseOne_within

/-- What `execLosAssert` may write. -/
def execLosAssert_touch : Nat :=
  union [Row.OPT_RX_STAT_LOS.bit, Row.OPT_RX_STAT_POWER_MEAS.bit, Part.pins.bit, State.trigger_touch,
    State.toWait_touch, State.updateLos_touch, State.icmRefresh_touch, State.wingStep_touch, State.begin_touch]

theorem execLosAssert_within {M : Nat} (s : State) (k : Covers M execLosAssert_touch) (w : Wing) (power : Int) :
    Answered M s (execLosAssert w power s) := by
  simp only [execLosAssert_touch, covers_union] at k
  obtain ⟨k0, k1, k2, k3, k4, k5, k6, k7, k8, _⟩ := k
  unfold execLosAssert
  dsimp only
  repeat' first
    | apply answered_next | with_reducible assumption | with_reducible exact .refl _ _
    | with_reducible apply State.trigger_within | with_reducible apply State.toWait_within
    | with_reducible apply State.wrS_within | with_reducible apply State.updateLos_within
    | with_reducible apply State.icmRefresh_within | with_reducible apply State.wingStep_within
    | with_reducible apply State.begin_within | with_reducible apply State.wrb_within
    | with_reducible exact may_row (by with_reducible assumption) | split | with_reducible apply within_pins

/-- What `execLosClear` may write. -/
def execLosClear_touch : Nat :=
  union [Row.OPT_RX_STAT_LOS.bit, Part.pins.bit, State.trigger_touch, State.updateLos_touch,
    State.icmRefresh_touch, State.wingStep_touch, State.begin_touch]

theorem execLosClear_within {M : Nat} (s : State) (k : Covers M execLosClear_touch) (w : Wing) (power : Int) :
    Answered M s (execLosClear w power s) := by
  simp only [execLosClear_touch, covers_union] at k
  obtain ⟨k0, k1, k2, k3, k4, k5, k6, _⟩ := k
  unfold execLosClear
  dsimp only
  repeat' first
    | apply answered_next | with_reducible assumption | with_reducible exact .refl _ _
    | with_reducible apply State.trigger_within | with_reducible apply State.updateLos_within
    | with_reducible apply State.icmRefresh_within | with_reducible apply State.wingStep_within
    | with_reducible apply State.begin_within | with_reducible apply State.wrb_within
    | with_reducible exact may_row (by with_reducible assumption) | split | with_reducible apply within_pins

/-- What `execCfAlignLoss` may write. -/
def execCfAlignLoss_touch : Nat :=
  union [Row.RXW_HDR_ERR_CF_SLIP.bit, State.toWait_touch, State.startAcq_touch, State.begin_touch,
    State.count_touch]

theorem execCfAlignLoss_within {M : Nat} (s : State) (k : Covers M execCfAlignLoss_touch) (w : Wing) :
    Answered M s (execCfAlignLoss w s) := by
  simp only [execCfAlignLoss_touch, covers_union] at k
  obtain ⟨k0, k1, k2, k3, k4, _⟩ := k
  unfold execCfAlignLoss
  dsimp only
  repeat' first
    | apply answered_next | with_reducible assumption | with_reducible exact .refl _ _
    | with_reducible apply State.toWait_within | with_reducible apply State.startAcq_within
    | with_reducible apply State.begin_within | with_reducible apply State.count_within
    | with_reducible exact may_row (by with_reducible assumption) | split

/-- What `execCdTrackMove` may write. -/
def execCdTrackMove_touch : Nat :=
  union [Row.RXW_RX_EVT_CD_RANGE.bit, State.setCd_touch, State.evt_touch, State.begin_touch]

theorem execCdTrackMove_within {M : Nat} (s : State) (k : Covers M execCdTrackMove_touch) (w : Wing)
    (residual : Int) :
    Answered M s (execCdTrackMove w residual s) := by
  simp only [execCdTrackMove_touch, covers_union] at k
  obtain ⟨k0, k1, k2, k3, _⟩ := k
  unfold execCdTrackMove
  dsimp only
  repeat' first
    | apply answered_next | with_reducible assumption | with_reducible exact .refl _ _
    | with_reducible apply State.setCd_within | with_reducible apply State.evt_within
    | with_reducible apply State.begin_within | with_reducible apply State.when_within
    | with_reducible exact may_row (by with_reducible assumption) | intro _ | split

/-- What `execEqReconv` may write. -/
def execEqReconv_touch : Nat :=
  union [Row.RXW_EQ_STAT_CONVERGED.bit, Row.RXW_RX_EVT_EQ_RECONV.bit, State.onRx_touch, State.evt_touch,
    State.begin_touch]

theorem execEqReconv_within {M : Nat} (s : State) (k : Covers M execEqReconv_touch) (w : Wing) :
    Answered M s (execEqReconv w s) := by
  simp only [execEqReconv_touch, covers_union] at k
  obtain ⟨k0, k1, k2, k3, k4, _⟩ := k
  unfold execEqReconv
  dsimp only
  repeat' first
    | apply answered_next | with_reducible assumption | with_reducible exact .refl _ _
    | with_reducible apply State.onRx_within | with_reducible apply State.evt_within
    | with_reducible apply State.begin_within | with_reducible apply State.wrb_within
    | with_reducible exact may_row (by with_reducible assumption) | intro _ | split

/-- What `execEqReconvDone` may write. -/
def execEqReconvDone_touch : Nat :=
  union [Row.RXW_EQ_STAT_CONVERGED.bit, State.onRx_touch, State.begin_touch]

theorem execEqReconvDone_within {M : Nat} (s : State) (k : Covers M execEqReconvDone_touch) (w : Wing) :
    Answered M s (execEqReconvDone w s) := by
  simp only [execEqReconvDone_touch, covers_union] at k
  obtain ⟨k0, k1, k2, _⟩ := k
  unfold execEqReconvDone
  dsimp only
  repeat' first
    | apply answered_next | with_reducible assumption | with_reducible exact .refl _ _
    | with_reducible apply State.onRx_within | with_reducible apply State.begin_within
    | with_reducible apply State.wrb_within | with_reducible exact may_row (by with_reducible assumption) | intro _
    | split

/-- What `State.showFigures` may write. -/
def State.showFigures_touch : Nat :=
  union [Row.RXW_FOM_EFF_SNR_EFF.bit, Row.RXW_FOM_EFF_SNR_P1.bit, Row.RXW_FOM_GMI_GMI.bit,
    Row.RXW_FOM_GMI_NGMI.bit, Row.RXW_FOM_MARGIN_MARGIN.bit, Row.RXW_FOM_MARGIN_SNR_REQ.bit,
    Row.RXW_FOM_OSNR_OSNR_EST.bit, Row.RXW_FOM_OSNR_SAT.bit, Row.RXW_FOM_SNR_SNR_X.bit, Row.RXW_FOM_SNR_SNR_Y.bit]

theorem State.showFigures_within {M : Nat} {s₀ s : State} (h : Within M s₀ s) (k : Covers M State.showFigures_touch)
    (w : Wing) (f : Figures) :
    Within M s₀ (State.showFigures s w f) := by
  simp only [State.showFigures_touch, covers_union] at k
  obtain ⟨k0, k1, k2, k3, k4, k5, k6, k7, k8, k9, _⟩ := k
  unfold State.showFigures
  dsimp only
  repeat' first
    | with_reducible assumption | with_reducible exact .refl _ _ | with_reducible apply State.wr_within
    | with_reducible apply State.wrS_within | with_reducible apply State.wrb_within
    | with_reducible exact may_row (by with_reducible assumption)

/-- What `State.endWindow` may write. -/
def State.endWindow_touch : Nat :=
  union [State.onRx_touch, State.showFigures_touch]

theorem State.endWindow_within {M : Nat} {s₀ s : State} (h : Within M s₀ s) (k : Covers M State.endWindow_touch)
    (w : Wing) :
    Within M s₀ (State.endWindow s w) := by
  simp only [State.endWindow_touch, covers_union] at k
  obtain ⟨k0, k1, _⟩ := k
  unfold State.endWindow
  repeat' first
    | with_reducible assumption | with_reducible exact .refl _ _ | with_reducible apply State.onRx_within
    | with_reducible apply State.showFigures_within

/-- What `State.queueAdvice` may write. -/
def State.queueAdvice_touch : Nat :=
  union [State.icmQueue_touch]

theorem State.queueAdvice_within {M : Nat} {s₀ s : State} (h : Within M s₀ s) (k : Covers M State.queueAdvice_touch)
    (w : Wing) :
    Within M s₀ (State.queueAdvice s w) := by
  simp only [State.queueAdvice_touch, covers_union] at k
  obtain ⟨k0, _⟩ := k
  unfold State.queueAdvice
  dsimp only
  repeat' first
    | with_reducible assumption | with_reducible exact .refl _ _ | with_reducible apply State.icmQueue_within

/-- What `State.advise` may write. -/
def State.advise_touch : Nat :=
  union [Row.ELC_ADV_TX_FEC.bit, Row.ELC_ADV_TX_H_IDX.bit, Row.ELC_ADV_TX_MARGIN.bit, Row.ELC_ADV_TX_SEQ.bit,
    Row.ELC_ADV_TX_VALID.bit, Row.ELC_ADV_TX_VIA_ICM.bit, State.queueAdvice_touch]

theorem State.advise_within {M : Nat} {s₀ s : State} (h : Within M s₀ s) (k : Covers M State.advise_touch)
    (w : Wing) (p : Nat × Nat) :
    Within M s₀ (State.advise s w p) := by
  simp only [State.advise_touch, covers_union] at k
  obtain ⟨k0, k1, k2, k3, k4, k5, k6, _⟩ := k
  unfold State.advise
  dsimp only
  repeat' first
    | with_reducible assumption | with_reducible exact .refl _ _ | with_reducible apply State.wr_within
    | with_reducible apply State.queueAdvice_within | with_reducible apply State.when_within
    | with_reducible apply State.wrb_within | with_reducible exact may_row (by with_reducible assumption) | intro _
    | split

/-- What `State.marginRuns` may write. -/
def State.marginRuns_touch : Nat :=
  union [State.onRx_touch]

theorem State.marginRuns_within {M : Nat} {s₀ s : State} (h : Within M s₀ s) (k : Covers M State.marginRuns_touch)
    (w : Wing) :
    Within M s₀ (State.marginRuns s w) := by
  simp only [State.marginRuns_touch, covers_union] at k
  obtain ⟨k0, _⟩ := k
  unfold State.marginRuns
  dsimp only
  repeat' first | with_reducible assumption | with_reducible exact .refl _ _ | with_reducible apply State.onRx_within

/-- What `State.holdAdvice` may write. -/
def State.holdAdvice_touch : Nat :=
  union [Row.ELC_ADV_TX_FEC.bit, Row.ELC_ADV_TX_H_IDX.bit, Row.ELC_ADV_TX_MARGIN.bit, Row.ELC_ADV_TX_VALID.bit]

theorem State.holdAdvice_within {M : Nat} {s₀ s : State} (h : Within M s₀ s) (k : Covers M State.holdAdvice_touch)
    (w : Wing) :
    Within M s₀ (State.holdAdvice s w) := by
  simp only [State.holdAdvice_touch, covers_union] at k
  obtain ⟨k0, k1, k2, k3, _⟩ := k
  unfold State.holdAdvice
  dsimp only
  repeat' first
    | with_reducible assumption | with_reducible exact .refl _ _ | with_reducible apply State.wr_within
    | with_reducible apply State.wrb_within | with_reducible exact may_row (by with_reducible assumption)

/-- What `State.policy` may write. -/
def State.policy_touch : Nat :=
  union [State.marginRuns_touch, State.advise_touch, State.holdAdvice_touch]

theorem State.policy_within {M : Nat} {s₀ s : State} (h : Within M s₀ s) (k : Covers M State.policy_touch)
    (w : Wing) :
    Within M s₀ (State.policy s w) := by
  simp only [State.policy_touch, covers_union] at k
  obtain ⟨k0, k1, k2, _⟩ := k
  unfold State.policy
  dsimp only
  repeat' first
    | with_reducible assumption | with_reducible exact .refl _ _ | with_reducible apply State.marginRuns_within
    | with_reducible apply State.advise_within | with_reducible apply State.holdAdvice_within
    | with_reducible apply State.when_within | with_reducible exact may_row (by with_reducible assumption) | intro _
    | split

/-- What `execFomWindowEnd` may write. -/
def execFomWindowEnd_touch : Nat :=
  union [State.onRx_touch, State.policy_touch, State.begin_touch, State.endWindow_touch]

theorem execFomWindowEnd_within {M : Nat} (s : State) (k : Covers M execFomWindowEnd_touch) (w : Wing) :
    Answered M s (execFomWindowEnd w s) := by
  simp only [execFomWindowEnd_touch, covers_union] at k
  obtain ⟨k0, k1, k2, k3, _⟩ := k
  unfold execFomWindowEnd
  dsimp only
  repeat' first
    | apply answered_next | with_reducible assumption | with_reducible exact .refl _ _
    | with_reducible apply State.onRx_within | with_reducible apply State.policy_within
    | with_reducible apply State.begin_within | with_reducible apply State.endWindow_within | intro _ | split

end Sys2Proof.Machine
end

