-- ==== Sys2Proof/Laws/WithinOptics.lean ====
section
/-!
SUPPORT. `Within` over the operations of Machine/Optics.lean.
-/

namespace Sys2Proof.Machine

/-- What `State.onOpt` may write. -/
def State.onOpt_touch : Nat :=
  union [Part.opt.bit]

theorem State.onOpt_within {M : Nat} {s₀ s : State} (h : Within M s₀ s) (k : Covers M State.onOpt_touch) (w : Wing)
    (f : Optics → Optics) :
    Within M s₀ (State.onOpt s w f) := by
  simp only [State.onOpt_touch, covers_union] at k
  obtain ⟨k0, _⟩ := k
  unfold State.onOpt
  repeat' first | with_reducible assumption | with_reducible exact .refl _ _ | with_reducible apply within_opt

/-- What `State.setOpt` may write. -/
def State.setOpt_touch : Nat :=
  union [Row.OPT_TX_STAT_STATE.bit, State.icmRefresh_touch]

theorem State.setOpt_within {M : Nat} {s₀ s : State} (h : Within M s₀ s) (k : Covers M State.setOpt_touch)
    (w : Wing) (st : Nat) :
    Within M s₀ (State.setOpt s w st) := by
  simp only [State.setOpt_touch, covers_union] at k
  obtain ⟨k0, k1, _⟩ := k
  unfold State.setOpt
  repeat' first
    | with_reducible assumption | with_reducible exact .refl _ _ | with_reducible apply State.wr_within
    | with_reducible apply State.icmRefresh_within | with_reducible exact may_row (by with_reducible assumption)

/-- What `State.optEval` may write. -/
def State.optEval_touch : Nat :=
  union [State.onOpt_touch, State.setOpt_touch]

theorem State.optEval_within {M : Nat} {s₀ s : State} (h : Within M s₀ s) (k : Covers M State.optEval_touch)
    (w : Wing) :
    Within M s₀ (State.optEval s w) := by
  simp only [State.optEval_touch, covers_union] at k
  obtain ⟨k0, k1, _⟩ := k
  unfold State.optEval
  repeat' first
    | with_reducible assumption | with_reducible exact .refl _ _ | with_reducible apply State.onOpt_within
    | with_reducible apply State.setOpt_within | intro _ | split

/-- What `State.tune` may write. -/
def State.tune_touch : Nat :=
  union [Row.OPT_TX_STAT_FREQ_LOCKED.bit, State.onOpt_touch, State.setOpt_touch, State.startDac_touch]

theorem State.tune_within {M : Nat} {s₀ s : State} (h : Within M s₀ s) (k : Covers M State.tune_touch) (w : Wing) :
    Within M s₀ (State.tune s w) := by
  simp only [State.tune_touch, covers_union] at k
  obtain ⟨k0, k1, k2, k3, _⟩ := k
  unfold State.tune
  dsimp only
  repeat' first
    | with_reducible assumption | with_reducible exact .refl _ _ | with_reducible apply State.onOpt_within
    | with_reducible apply State.setOpt_within | with_reducible apply State.wrb_within
    | with_reducible apply State.startDac_within | with_reducible exact may_row (by with_reducible assumption)
    | intro _ | split

/-- What `State.retune` may write. -/
def State.retune_touch : Nat :=
  union [State.tune_touch, State.onOpt_touch, State.setOpt_touch]

theorem State.retune_within {M : Nat} {s₀ s : State} (h : Within M s₀ s) (k : Covers M State.retune_touch)
    (w : Wing) :
    Within M s₀ (State.retune s w) := by
  simp only [State.retune_touch, covers_union] at k
  obtain ⟨k0, k1, k2, _⟩ := k
  unfold State.retune
  repeat' first
    | with_reducible assumption | with_reducible exact .refl _ _ | with_reducible apply State.tune_within
    | with_reducible apply State.onOpt_within | with_reducible apply State.setOpt_within | intro _ | split

/-- What `State.txFreq` may write. -/
def State.txFreq_touch : Nat :=
  union [Row.OPT_TX_EVT_TUNE_FAIL.bit, Row.OPT_TX_FREQ_CH.bit, Row.OPT_TX_FREQ_FINE.bit, State.retune_touch,
    State.evt_touch, State.icmRefresh_touch]

theorem State.txFreq_within {M : Nat} {s₀ s : State} (h : Within M s₀ s) (k : Covers M State.txFreq_touch)
    (w : Wing) (ch : Int) (fine : Int) :
    Within M s₀ (State.txFreq s w ch fine) := by
  simp only [State.txFreq_touch, covers_union] at k
  obtain ⟨k0, k1, k2, k3, k4, k5, _⟩ := k
  unfold State.txFreq
  dsimp only
  repeat' first
    | with_reducible assumption | with_reducible exact .refl _ _ | with_reducible apply State.wrS_within
    | with_reducible apply State.retune_within | with_reducible apply State.evt_within
    | with_reducible apply State.icmRefresh_within | with_reducible exact may_row (by with_reducible assumption)
    | split

/-- What `execTxFreqWrite` may write. -/
def execTxFreqWrite_touch : Nat :=
  union [State.begin_touch, State.txFreq_touch]

theorem execTxFreqWrite_within {M : Nat} (s : State) (k : Covers M execTxFreqWrite_touch) (req : Req) (w : Wing)
    (ch : Int) (fine : Int) :
    Answered M s (execTxFreqWrite req w ch fine s) := by
  simp only [execTxFreqWrite_touch, covers_union] at k
  obtain ⟨k0, k1, _⟩ := k
  unfold execTxFreqWrite
  repeat' first
    | apply answered_next | with_reducible assumption | with_reducible exact .refl _ _
    | with_reducible apply State.via_within | with_reducible apply State.begin_within
    | with_reducible apply State.txFreq_within | intro _

/-- What `State.tuneLo` may write. -/
def State.tuneLo_touch : Nat :=
  union [Row.OPT_TX_STAT_LO_LOCKED.bit, State.onOpt_touch]

theorem State.tuneLo_within {M : Nat} {s₀ s : State} (h : Within M s₀ s) (k : Covers M State.tuneLo_touch)
    (w : Wing) :
    Within M s₀ (State.tuneLo s w) := by
  simp only [State.tuneLo_touch, covers_union] at k
  obtain ⟨k0, k1, _⟩ := k
  unfold State.tuneLo
  repeat' first
    | with_reducible assumption | with_reducible exact .refl _ _ | with_reducible apply State.onOpt_within
    | with_reducible apply State.wrb_within | with_reducible exact may_row (by with_reducible assumption)

/-- What `State.loFreq` may write. -/
def State.loFreq_touch : Nat :=
  union [Row.OPT_LO_FREQ_CH.bit, Row.OPT_LO_FREQ_FINE.bit, Row.OPT_TX_EVT_LO_TUNE_FAIL.bit, State.onOpt_touch,
    State.toWait_touch, State.tuneLo_touch, State.evt_touch, State.icmRefresh_touch]

theorem State.loFreq_within {M : Nat} {s₀ s : State} (h : Within M s₀ s) (k : Covers M State.loFreq_touch)
    (w : Wing) (ch : Int) (fine : Int) :
    Within M s₀ (State.loFreq s w ch fine) := by
  simp only [State.loFreq_touch, covers_union] at k
  obtain ⟨k0, k1, k2, k3, k4, k5, k6, k7, _⟩ := k
  unfold State.loFreq
  dsimp only
  repeat' first
    | with_reducible assumption | with_reducible exact .refl _ _ | with_reducible apply State.onOpt_within
    | with_reducible apply State.toWait_within | with_reducible apply State.wrS_within
    | with_reducible apply State.tuneLo_within | with_reducible apply State.evt_within
    | with_reducible apply State.icmRefresh_within | with_reducible exact may_row (by with_reducible assumption)
    | intro _ | split

/-- What `execLoFreqWrite` may write. -/
def execLoFreqWrite_touch : Nat :=
  union [State.loFreq_touch, State.begin_touch]

theorem execLoFreqWrite_within {M : Nat} (s : State) (k : Covers M execLoFreqWrite_touch) (req : Req) (w : Wing)
    (ch : Int) (fine : Int) :
    Answered M s (execLoFreqWrite req w ch fine s) := by
  simp only [execLoFreqWrite_touch, covers_union] at k
  obtain ⟨k0, k1, _⟩ := k
  unfold execLoFreqWrite
  repeat' first
    | apply answered_next | with_reducible assumption | with_reducible exact .refl _ _
    | with_reducible apply State.loFreq_within | with_reducible apply State.via_within
    | with_reducible apply State.begin_within | intro _

/-- What `execTxLaserLock` may write. -/
def execTxLaserLock_touch : Nat :=
  union [Row.OPT_TX_EVT_TUNE_DONE.bit, Row.OPT_TX_STAT_FREQ_LOCKED.bit, State.onOpt_touch, State.setOpt_touch,
    State.evt_touch, State.optEval_touch, State.begin_touch]

theorem execTxLaserLock_within {M : Nat} (s : State) (k : Covers M execTxLaserLock_touch) (w : Wing) :
    Answered M s (execTxLaserLock w s) := by
  simp only [execTxLaserLock_touch, covers_union] at k
  obtain ⟨k0, k1, k2, k3, k4, k5, k6, _⟩ := k
  unfold execTxLaserLock
  dsimp only
  repeat' first
    | apply answered_next | with_reducible assumption | with_reducible exact .refl _ _
    | with_reducible apply State.onOpt_within | with_reducible apply State.setOpt_within
    | with_reducible apply State.evt_within | with_reducible apply State.optEval_within
    | with_reducible apply State.begin_within | with_reducible apply State.wrb_within
    | with_reducible exact may_row (by with_reducible assumption) | intro _ | split

/-- What `execTxTuneTimeout` may write. -/
def execTxTuneTimeout_touch : Nat :=
  union [Row.OPT_TX_EVT_TUNE_FAIL.bit, State.onOpt_touch, State.setOpt_touch, State.evt_touch, State.begin_touch]

theorem execTxTuneTimeout_within {M : Nat} (s : State) (k : Covers M execTxTuneTimeout_touch) (w : Wing) :
    Answered M s (execTxTuneTimeout w s) := by
  simp only [execTxTuneTimeout_touch, covers_union] at k
  obtain ⟨k0, k1, k2, k3, k4, _⟩ := k
  unfold execTxTuneTimeout
  dsimp only
  repeat' first
    | apply answered_next | with_reducible assumption | with_reducible exact .refl _ _
    | with_reducible apply State.onOpt_within | with_reducible apply State.setOpt_within
    | with_reducible apply State.evt_within | with_reducible apply State.begin_within
    | with_reducible exact may_row (by with_reducible assumption) | intro _ | split

/-- What `execLoTuneDone` may write. -/
def execLoTuneDone_touch : Nat :=
  union [Row.OPT_TX_EVT_LO_TUNE_DONE.bit, Row.OPT_TX_STAT_LO_LOCKED.bit, State.onOpt_touch, State.evt_touch,
    State.begin_touch]

theorem execLoTuneDone_within {M : Nat} (s : State) (k : Covers M execLoTuneDone_touch) (w : Wing) :
    Answered M s (execLoTuneDone w s) := by
  simp only [execLoTuneDone_touch, covers_union] at k
  obtain ⟨k0, k1, k2, k3, k4, _⟩ := k
  unfold execLoTuneDone
  dsimp only
  repeat' first
    | apply answered_next | with_reducible assumption | with_reducible exact .refl _ _
    | with_reducible apply State.onOpt_within | with_reducible apply State.evt_within
    | with_reducible apply State.begin_within | with_reducible apply State.wrb_within
    | with_reducible exact may_row (by with_reducible assumption) | intro _ | split

/-- What `execLoTuneFail` may write. -/
def execLoTuneFail_touch : Nat :=
  union [Row.OPT_TX_EVT_LO_TUNE_FAIL.bit, State.onOpt_touch, State.evt_touch, State.begin_touch]

theorem execLoTuneFail_within {M : Nat} (s : State) (k : Covers M execLoTuneFail_touch) (w : Wing) :
    Answered M s (execLoTuneFail w s) := by
  simp only [execLoTuneFail_touch, covers_union] at k
  obtain ⟨k0, k1, k2, k3, _⟩ := k
  unfold execLoTuneFail
  dsimp only
  repeat' first
    | apply answered_next | with_reducible assumption | with_reducible exact .refl _ _
    | with_reducible apply State.onOpt_within | with_reducible apply State.evt_within
    | with_reducible apply State.begin_within | with_reducible exact may_row (by with_reducible assumption) | intro _
    | split

/-- What `State.takeTxCtl` may write. -/
def State.takeTxCtl_touch : Nat :=
  union [Row.OPT_TX_CTL_ENABLE.bit, Row.OPT_TX_CTL_POWER.bit, Row.OPT_TX_CTL_RAMP_MS.bit, Part.inuse.bit]

theorem State.takeTxCtl_within {M : Nat} {s₀ s : State} (h : Within M s₀ s) (k : Covers M State.takeTxCtl_touch)
    (w : Wing) :
    Within M s₀ (State.takeTxCtl s w) := by
  simp only [State.takeTxCtl_touch, covers_union] at k
  obtain ⟨k0, k1, k2, k3, _⟩ := k
  unfold State.takeTxCtl
  repeat' first
    | with_reducible assumption | with_reducible exact .refl _ _ | with_reducible apply State.releaseOne_within
    | with_reducible apply within_foldl | with_reducible exact may_row (by with_reducible assumption)
    | unfold txCtlRows | intro _

/-- What `State.txCtl` may write. -/
def State.txCtl_touch : Nat :=
  union [Row.OPT_TX_CTL_ENABLE.bit, Row.OPT_TX_CTL_POWER.bit, Row.OPT_TX_CTL_RAMP_MS.bit, Part.inuse.bit,
    State.takeTxCtl_touch]

theorem State.txCtl_within {M : Nat} {s₀ s : State} (h : Within M s₀ s) (k : Covers M State.txCtl_touch) (w : Wing)
    (enable : Bool) (rampMs : Nat) (power : Int) :
    Within M s₀ (State.txCtl s w enable rampMs power) := by
  simp only [State.txCtl_touch, covers_union] at k
  obtain ⟨k0, k1, k2, k3, k4, _⟩ := k
  unfold State.txCtl
  dsimp only
  repeat' first
    | with_reducible assumption | with_reducible exact .refl _ _ | with_reducible apply State.wr_within
    | with_reducible apply State.keepUse_within | with_reducible apply State.wrS_within
    | with_reducible apply State.takeTxCtl_within | with_reducible apply State.when_within
    | with_reducible apply State.wrb_within | with_reducible apply within_foldl
    | with_reducible exact may_row (by with_reducible assumption) | unfold txCtlRows | intro _

/-- What `execTxCtlWrite` may write. -/
def execTxCtlWrite_touch : Nat :=
  union [State.txCtl_touch, State.begin_touch]

theorem execTxCtlWrite_within {M : Nat} (s : State) (k : Covers M execTxCtlWrite_touch) (req : Req) (w : Wing)
    (enable : Bool) (rampMs : Nat) (power : Int) :
    Answered M s (execTxCtlWrite req w enable rampMs power s) := by
  simp only [execTxCtlWrite_touch, covers_union] at k
  obtain ⟨k0, k1, _⟩ := k
  unfold execTxCtlWrite
  repeat' first
    | apply answered_next | with_reducible assumption | with_reducible exact .refl _ _
    | with_reducible apply State.txCtl_within | with_reducible apply State.via_within
    | with_reducible apply State.begin_within | intro _

/-- What `State.goDark` may write. -/
def State.goDark_touch : Nat :=
  union [Row.OPT_TX_STAT_POWER_MEAS.bit, State.runDeferred_touch, State.tune_touch, State.onOpt_touch,
    State.icmAbort_touch, State.setOpt_touch]

theorem State.goDark_within {M : Nat} {s₀ s : State} (h : Within M s₀ s) (k : Covers M State.goDark_touch)
    (w : Wing) :
    Within M s₀ (State.goDark s w) := by
  simp only [State.goDark_touch, covers_union] at k
  obtain ⟨k0, k1, k2, k3, k4, k5, _⟩ := k
  unfold State.goDark
  dsimp only
  repeat' first
    | with_reducible assumption | with_reducible exact .refl _ _ | with_reducible apply State.runDeferred_within
    | with_reducible apply State.tune_within | with_reducible apply State.onOpt_within
    | with_reducible apply State.icmAbort_within | with_reducible apply State.setOpt_within
    | with_reducible apply State.wrS_within | with_reducible exact may_row (by with_reducible assumption) | intro _
    | split

/-- What `State.goLit` may write. -/
def State.goLit_touch : Nat :=
  union [Row.OPT_TX_EVT_RAMP_DONE.bit, State.runDeferred_touch, State.onOpt_touch, State.setOpt_touch,
    State.evt_touch]

theorem State.goLit_within {M : Nat} {s₀ s : State} (h : Within M s₀ s) (k : Covers M State.goLit_touch) (w : Wing) :
    Within M s₀ (State.goLit s w) := by
  simp only [State.goLit_touch, covers_union] at k
  obtain ⟨k0, k1, k2, k3, k4, _⟩ := k
  unfold State.goLit
  repeat' first
    | with_reducible assumption | with_reducible exact .refl _ _ | with_reducible apply State.runDeferred_within
    | with_reducible apply State.onOpt_within | with_reducible apply State.setOpt_within
    | with_reducible apply State.evt_within | with_reducible exact may_row (by with_reducible assumption)

/-- What `State.ramp` may write. -/
def State.ramp_touch : Nat :=
  union [Row.OPT_TX_EVT_RAMP_DONE.bit, State.goLit_touch, State.onOpt_touch, State.goDark_touch, State.evt_touch]

theorem State.ramp_within {M : Nat} {s₀ s : State} (h : Within M s₀ s) (k : Covers M State.ramp_touch) (w : Wing) :
    Within M s₀ (State.ramp s w) := by
  simp only [State.ramp_touch, covers_union] at k
  obtain ⟨k0, k1, k2, k3, k4, _⟩ := k
  unfold State.ramp
  dsimp only
  repeat' first
    | with_reducible assumption | with_reducible exact .refl _ _ | with_reducible apply State.goLit_within
    | with_reducible apply State.onOpt_within | with_reducible apply State.goDark_within
    | with_reducible apply State.evt_within | with_reducible exact may_row (by with_reducible assumption) | intro _
    | split

/-- What `execRampUpdate` may write. -/
def execRampUpdate_touch : Nat :=
  union [State.trigger_touch, State.optEval_touch, State.ramp_touch, State.takeTxCtl_touch, State.begin_touch]

theorem execRampUpdate_within {M : Nat} (s : State) (k : Covers M execRampUpdate_touch) (w : Wing) :
    Answered M s (execRampUpdate w s) := by
  simp only [execRampUpdate_touch, covers_union] at k
  obtain ⟨k0, k1, k2, k3, k4, _⟩ := k
  unfold execRampUpdate
  dsimp only
  repeat' first
    | apply answered_next | with_reducible assumption | with_reducible exact .refl _ _
    | with_reducible apply State.trigger_within | with_reducible apply State.optEval_within
    | with_reducible apply State.ramp_within | with_reducible apply State.takeTxCtl_within
    | with_reducible apply State.begin_within | split

/-- What `State.powerLoop` may write. -/
def State.powerLoop_touch : Nat :=
  union [Row.OPT_TX_EVT_POWER_OOR.bit, State.onOpt_touch, State.evt_touch]

theorem State.powerLoop_within {M : Nat} {s₀ s : State} (h : Within M s₀ s) (k : Covers M State.powerLoop_touch)
    (w : Wing) :
    Within M s₀ (State.powerLoop s w) := by
  simp only [State.powerLoop_touch, covers_union] at k
  obtain ⟨k0, k1, k2, _⟩ := k
  unfold State.powerLoop
  dsimp only
  repeat' first
    | with_reducible assumption | with_reducible exact .refl _ _ | with_reducible apply State.onOpt_within
    | with_reducible apply State.evt_within | with_reducible apply State.when_within
    | with_reducible exact may_row (by with_reducible assumption) | intro _

/-- What `execPowerLoopUpdate` may write. -/
def execPowerLoopUpdate_touch : Nat :=
  union [State.powerLoop_touch, State.begin_touch]

theorem execPowerLoopUpdate_within {M : Nat} (s : State) (k : Covers M execPowerLoopUpdate_touch) (w : Wing) :
    Answered M s (execPowerLoopUpdate w s) := by
  simp only [execPowerLoopUpdate_touch, covers_union] at k
  obtain ⟨k0, k1, _⟩ := k
  unfold execPowerLoopUpdate
  dsimp only
  repeat' first
    | apply answered_next | with_reducible assumption | with_reducible exact .refl _ _
    | with_reducible apply State.powerLoop_within | with_reducible apply State.begin_within | split

/-- What `State.disable` may write. -/
def State.disable_touch : Nat :=
  union [Row.OPT_TX_EVT_TXDIS_EDGE.bit, Row.OPT_TX_STAT_FREQ_LOCKED.bit, Row.OPT_TX_STAT_POWER_MEAS.bit,
    State.runDeferred_touch, State.onOpt_touch, State.icmAbort_touch, State.setOpt_touch, State.evt_touch]

theorem State.disable_within {M : Nat} {s₀ s : State} (h : Within M s₀ s) (k : Covers M State.disable_touch)
    (w : Wing) :
    Within M s₀ (State.disable s w) := by
  simp only [State.disable_touch, covers_union] at k
  obtain ⟨k0, k1, k2, k3, k4, k5, k6, k7, _⟩ := k
  unfold State.disable
  dsimp only
  repeat' first
    | with_reducible assumption | with_reducible exact .refl _ _ | with_reducible apply State.runDeferred_within
    | with_reducible apply State.onOpt_within | with_reducible apply State.icmAbort_within
    | with_reducible apply State.setOpt_within | with_reducible apply State.wrS_within
    | with_reducible apply State.evt_within | with_reducible apply State.wrb_within
    | with_reducible exact may_row (by with_reducible assumption)

/-- What `execTxDisAssert` may write. -/
def execTxDisAssert_touch : Nat :=
  union [Row.OPT_TX_STAT_TXDIS_PIN.bit, Part.pins.bit, State.disable_touch, State.begin_touch]

theorem execTxDisAssert_within {M : Nat} (s : State) (k : Covers M execTxDisAssert_touch) (w : Wing) :
    Answered M s (execTxDisAssert w s) := by
  simp only [execTxDisAssert_touch, covers_union] at k
  obtain ⟨k0, k1, k2, k3, _⟩ := k
  unfold execTxDisAssert
  dsimp only
  repeat' first
    | apply answered_next | with_reducible assumption | with_reducible exact .refl _ _
    | with_reducible apply State.disable_within | with_reducible apply State.begin_within
    | with_reducible apply State.wrb_within | with_reducible exact may_row (by with_reducible assumption) | split
    | with_reducible apply within_pins

/-- What `State.enableOut` may write. -/
def State.enableOut_touch : Nat :=
  union [Row.OPT_TX_STAT_FREQ_LOCKED.bit, State.onOpt_touch, State.setOpt_touch, State.optEval_touch,
    State.startDac_touch]

theorem State.enableOut_within {M : Nat} {s₀ s : State} (h : Within M s₀ s) (k : Covers M State.enableOut_touch)
    (w : Wing) (onTarget : Bool) :
    Within M s₀ (State.enableOut s w onTarget) := by
  simp only [State.enableOut_touch, covers_union] at k
  obtain ⟨k0, k1, k2, k3, k4, _⟩ := k
  unfold State.enableOut
  repeat' first
    | with_reducible assumption | with_reducible exact .refl _ _ | with_reducible apply State.onOpt_within
    | with_reducible apply State.setOpt_within | with_reducible apply State.optEval_within
    | with_reducible apply State.wrb_within | with_reducible apply State.startDac_within
    | with_reducible exact may_row (by with_reducible assumption) | intro _ | split

/-- What `execTxDisDeassert` may write. -/
def execTxDisDeassert_touch : Nat :=
  union [Row.OPT_TX_STAT_TXDIS_PIN.bit, Part.pins.bit, State.enableOut_touch, State.begin_touch]

theorem execTxDisDeassert_within {M : Nat} (s : State) (k : Covers M execTxDisDeassert_touch) (w : Wing)
    (onTarget : Bool) :
    Answered M s (execTxDisDeassert w onTarget s) := by
  simp only [execTxDisDeassert_touch, covers_union] at k
  obtain ⟨k0, k1, k2, k3, _⟩ := k
  unfold execTxDisDeassert
  dsimp only
  repeat' first
    | apply answered_next | with_reducible assumption | with_reducible exact .refl _ _
    | with_reducible apply State.enableOut_within | with_reducible apply State.begin_within
    | with_reducible apply State.wrb_within | with_reducible exact may_row (by with_reducible assumption)
    | with_reducible apply within_pins

/-- What `State.slewFine` may write. -/
def State.slewFine_touch : Nat :=
  union [State.onOpt_touch]

theorem State.slewFine_within {M : Nat} {s₀ s : State} (h : Within M s₀ s) (k : Covers M State.slewFine_touch)
    (w : Wing) (us : Nat) :
    Within M s₀ (State.slewFine s w us) := by
  simp only [State.slewFine_touch, covers_union] at k
  obtain ⟨k0, _⟩ := k
  unfold State.slewFine
  dsimp only
  repeat' first | with_reducible assumption | with_reducible exact .refl _ _ | with_reducible apply State.onOpt_within

/-- What `execDacCalComplete` may write. -/
def execDacCalComplete_touch : Nat :=
  union [State.dacDone_touch, State.onOpt_touch, State.optEval_touch, State.begin_touch]

theorem execDacCalComplete_within {M : Nat} (s : State) (k : Covers M execDacCalComplete_touch) (w : Wing)
    (trims : List SliceTrim) :
    Answered M s (execDacCalComplete w trims s) := by
  simp only [execDacCalComplete_touch, covers_union] at k
  obtain ⟨k0, k1, k2, k3, _⟩ := k
  unfold execDacCalComplete
  dsimp only
  repeat' first
    | apply answered_next | with_reducible assumption | with_reducible exact .refl _ _
    | with_reducible apply State.dacDone_within | with_reducible apply State.onOpt_within
    | with_reducible apply State.optEval_within | with_reducible apply State.begin_within
    | with_reducible exact may_row (by with_reducible assumption) | intro _ | split

/-- What `State.startLo` may write. -/
def State.startLo_touch : Nat :=
  union [Row.OPT_TX_STAT_LO_LOCKED.bit, State.tuneLo_touch]

theorem State.startLo_within {M : Nat} {s₀ s : State} (h : Within M s₀ s) (k : Covers M State.startLo_touch)
    (w : Wing) :
    Within M s₀ (State.startLo s w) := by
  simp only [State.startLo_touch, covers_union] at k
  obtain ⟨k0, k1, _⟩ := k
  unfold State.startLo
  repeat' first
    | with_reducible assumption | with_reducible exact .refl _ _ | with_reducible apply State.tuneLo_within
    | with_reducible apply State.wrb_within | with_reducible exact may_row (by with_reducible assumption) | split

/-- What `State.startLasers` may write. -/
def State.startLasers_touch : Nat :=
  union [Row.OPT_TX_STAT_FREQ_LOCKED.bit, State.onOpt_touch, State.setOpt_touch, State.startLo_touch,
    State.startDac_touch]

theorem State.startLasers_within {M : Nat} {s₀ s : State} (h : Within M s₀ s) (k : Covers M State.startLasers_touch)
    (w : Wing) :
    Within M s₀ (State.startLasers s w) := by
  simp only [State.startLasers_touch, covers_union] at k
  obtain ⟨k0, k1, k2, k3, k4, _⟩ := k
  unfold State.startLasers
  dsimp only
  repeat' first
    | with_reducible assumption | with_reducible exact .refl _ _ | with_reducible apply State.onOpt_within
    | with_reducible apply State.setOpt_within | with_reducible apply State.startLo_within
    | with_reducible apply State.wrb_within | with_reducible apply State.startDac_within
    | with_reducible exact may_row (by with_reducible assumption) | intro _ | split

/-- What `State.resetOptics` may write. -/
def State.resetOptics_touch : Nat :=
  union [Row.OPT_TX_EVT_TXDIS_EDGE.bit, Row.OPT_TX_STAT_FREQ_LOCKED.bit, Row.OPT_TX_STAT_LO_LOCKED.bit,
    Row.OPT_TX_STAT_POWER_MEAS.bit, Row.OPT_TX_STAT_TXDIS_PIN.bit, State.onOpt_touch, State.setOpt_touch,
    State.evt_touch]

theorem State.resetOptics_within {M : Nat} {s₀ s : State} (h : Within M s₀ s) (k : Covers M State.resetOptics_touch)
    (w : Wing) :
    Within M s₀ (State.resetOptics s w) := by
  simp only [State.resetOptics_touch, covers_union] at k
  obtain ⟨k0, k1, k2, k3, k4, k5, k6, k7, _⟩ := k
  unfold State.resetOptics
  dsimp only
  repeat' first
    | with_reducible assumption | with_reducible exact .refl _ _ | with_reducible apply State.onOpt_within
    | with_reducible apply State.setOpt_within | with_reducible apply State.wrS_within
    | with_reducible apply State.evt_within | with_reducible apply State.wrb_within
    | with_reducible exact may_row (by with_reducible assumption) | intro _ | split

end Sys2Proof.Machine
end

