-- ==== Sys2Proof/Laws/WithinIntercom.lean ====
section
/-!
SUPPORT. `Within` over the operations of Machine/Intercom.lean.
-/

namespace Sys2Proof.Machine

/-- What `State.startBurst` may write. -/
def State.startBurst_touch : Nat :=
  union [Row.ICM_CNT4_TX_FRAMES.bit, State.countWrap_touch, State.say_touch, State.onIcm_touch,
    State.showQueued_touch]

theorem State.startBurst_within {M : Nat} {s₀ s : State} (h : Within M s₀ s) (k : Covers M State.startBurst_touch)
    (w : Wing) (m : IcmMsg) :
    Within M s₀ (State.startBurst s w m) := by
  simp only [State.startBurst_touch, covers_union] at k
  obtain ⟨k0, k1, k2, k3, k4, _⟩ := k
  unfold State.startBurst
  dsimp only
  repeat' first
    | with_reducible assumption | with_reducible exact .refl _ _ | with_reducible apply State.countWrap_within
    | with_reducible apply State.say_within | with_reducible apply State.onIcm_within
    | with_reducible apply State.showQueued_within | with_reducible exact may_row (by with_reducible assumption)

/-- What `execIcmBurstStart` may write. -/
def execIcmBurstStart_touch : Nat :=
  union [State.startBurst_touch, State.begin_touch]

theorem execIcmBurstStart_within {M : Nat} (s : State) (k : Covers M execIcmBurstStart_touch) (w : Wing) :
    Answered M s (execIcmBurstStart w s) := by
  simp only [execIcmBurstStart_touch, covers_union] at k
  obtain ⟨k0, k1, _⟩ := k
  unfold execIcmBurstStart
  dsimp only
  repeat' first
    | apply answered_next | with_reducible assumption | with_reducible exact .refl _ _
    | with_reducible apply State.startBurst_within | with_reducible apply State.begin_within | split

/-- What `execIcmBurstEnd` may write. -/
def execIcmBurstEnd_touch : Nat :=
  union [State.onIcm_touch, State.showQueued_touch, State.begin_touch]

theorem execIcmBurstEnd_within {M : Nat} (s : State) (k : Covers M execIcmBurstEnd_touch) (w : Wing) :
    Answered M s (execIcmBurstEnd w s) := by
  simp only [execIcmBurstEnd_touch, covers_union] at k
  obtain ⟨k0, k1, k2, _⟩ := k
  unfold execIcmBurstEnd
  repeat' first
    | apply answered_next | with_reducible assumption | with_reducible exact .refl _ _
    | with_reducible apply State.onIcm_within | with_reducible apply State.showQueued_within
    | with_reducible apply State.begin_within

/-- What `State.repeatAdvice` may write. -/
def State.repeatAdvice_touch : Nat :=
  union [Row.ELC_ADV_TX_MARGIN.bit, Row.ELC_ADV_TX_VIA_ICM.bit, State.queueAdvice_touch]

theorem State.repeatAdvice_within {M : Nat} {s₀ s : State} (h : Within M s₀ s)
    (k : Covers M State.repeatAdvice_touch) (w : Wing) :
    Within M s₀ (State.repeatAdvice s w) := by
  simp only [State.repeatAdvice_touch, covers_union] at k
  obtain ⟨k0, k1, k2, _⟩ := k
  unfold State.repeatAdvice
  repeat' first
    | with_reducible assumption | with_reducible exact .refl _ _ | with_reducible apply State.wr_within
    | with_reducible apply State.queueAdvice_within | with_reducible apply State.wrb_within
    | with_reducible exact may_row (by with_reducible assumption)

/-- What `execIcmAdviceRepeat` may write. -/
def execIcmAdviceRepeat_touch : Nat :=
  union [State.repeatAdvice_touch, State.begin_touch]

theorem execIcmAdviceRepeat_within {M : Nat} (s : State) (k : Covers M execIcmAdviceRepeat_touch) (w : Wing) :
    Answered M s (execIcmAdviceRepeat w s) := by
  simp only [execIcmAdviceRepeat_touch, covers_union] at k
  obtain ⟨k0, k1, _⟩ := k
  unfold execIcmAdviceRepeat
  dsimp only
  repeat' first
    | apply answered_next | with_reducible assumption | with_reducible exact .refl _ _
    | with_reducible apply State.repeatAdvice_within | with_reducible apply State.begin_within
    | with_reducible exact may_row (by with_reducible assumption) | split

/-- What `execIcmBringupTimer` may write. -/
def execIcmBringupTimer_touch : Nat :=
  union [State.queueBringup_touch, State.begin_touch]

theorem execIcmBringupTimer_within {M : Nat} (s : State) (k : Covers M execIcmBringupTimer_touch) (w : Wing) :
    Answered M s (execIcmBringupTimer w s) := by
  simp only [execIcmBringupTimer_touch, covers_union] at k
  obtain ⟨k0, k1, _⟩ := k
  unfold execIcmBringupTimer
  dsimp only
  repeat' first
    | apply answered_next | with_reducible assumption | with_reducible exact .refl _ _
    | with_reducible apply State.queueBringup_within | with_reducible apply State.begin_within | split

/-- What `execIcmTagTimer` may write. -/
def execIcmTagTimer_touch : Nat :=
  union [State.icmQueue_touch, State.begin_touch]

theorem execIcmTagTimer_within {M : Nat} (s : State) (k : Covers M execIcmTagTimer_touch) (w : Wing) :
    Answered M s (execIcmTagTimer w s) := by
  simp only [execIcmTagTimer_touch, covers_union] at k
  obtain ⟨k0, k1, _⟩ := k
  unfold execIcmTagTimer
  dsimp only
  repeat' first
    | apply answered_next | with_reducible assumption | with_reducible exact .refl _ _
    | with_reducible apply State.icmQueue_within | with_reducible apply State.begin_within
    | with_reducible exact may_row (by with_reducible assumption) | split

/-- What `execIcmAlarmRepeat` may write. -/
def execIcmAlarmRepeat_touch : Nat :=
  union [State.queueAlarm_touch, State.begin_touch]

theorem execIcmAlarmRepeat_within {M : Nat} (s : State) (k : Covers M execIcmAlarmRepeat_touch) (w : Wing) :
    Answered M s (execIcmAlarmRepeat w s) := by
  simp only [execIcmAlarmRepeat_touch, covers_union] at k
  obtain ⟨k0, k1, _⟩ := k
  unfold execIcmAlarmRepeat
  dsimp only
  repeat' first
    | apply answered_next | with_reducible assumption | with_reducible exact .refl _ _
    | with_reducible apply State.queueAlarm_within | with_reducible apply State.begin_within | split

/-- What `State.icmSync` may write. -/
def State.icmSync_touch : Nat :=
  union [Row.ICM_RX_STAT_AGC_FROZEN.bit, Row.ICM_RX_STAT_STATE.bit, State.onIcm_touch]

theorem State.icmSync_within {M : Nat} {s₀ s : State} (h : Within M s₀ s) (k : Covers M State.icmSync_touch)
    (w : Wing) (p : Nat × Nat) :
    Within M s₀ (State.icmSync s w p) := by
  simp only [State.icmSync_touch, covers_union] at k
  obtain ⟨k0, k1, k2, _⟩ := k
  unfold State.icmSync
  repeat' first
    | with_reducible assumption | with_reducible exact .refl _ _ | with_reducible apply State.wr_within
    | with_reducible apply State.onIcm_within | with_reducible apply State.wrb_within
    | with_reducible exact may_row (by with_reducible assumption)

/-- What `execIcmPreambleDetect` may write. -/
def execIcmPreambleDetect_touch : Nat :=
  union [Row.ICM_CNT0_DETECT.bit, State.countWrap_touch, State.icmSync_touch, State.begin_touch]

theorem execIcmPreambleDetect_within {M : Nat} (s : State) (k : Covers M execIcmPreambleDetect_touch) (w : Wing)
    (peaks : List (Nat × Nat)) :
    Answered M s (execIcmPreambleDetect w peaks s) := by
  simp only [execIcmPreambleDetect_touch, covers_union] at k
  obtain ⟨k0, k1, k2, k3, _⟩ := k
  unfold execIcmPreambleDetect
  dsimp only
  repeat' first
    | apply answered_next | with_reducible assumption | with_reducible exact .refl _ _
    | with_reducible apply State.countWrap_within | with_reducible apply State.icmSync_within
    | with_reducible apply State.begin_within | with_reducible exact may_row (by with_reducible assumption) | split

/-- What `State.icmTake` may write. -/
def State.icmTake_touch : Nat :=
  union [Row.ICM_RX_STAT_STATE.bit, State.onIcm_touch]

theorem State.icmTake_within {M : Nat} {s₀ s : State} (h : Within M s₀ s) (k : Covers M State.icmTake_touch)
    (w : Wing) (more : List RxChirp) (st : Nat) :
    Within M s₀ (State.icmTake s w more st) := by
  simp only [State.icmTake_touch, covers_union] at k
  obtain ⟨k0, k1, _⟩ := k
  unfold State.icmTake
  repeat' first
    | with_reducible assumption | with_reducible exact .refl _ _ | with_reducible apply State.wr_within
    | with_reducible apply State.onIcm_within | with_reducible exact may_row (by with_reducible assumption)

/-- What `State.icmFail` may write. -/
def State.icmFail_touch : Nat :=
  union [Row.ICM_CNT1_NETID_MISM.bit, Row.ICM_CNT1_SYNC_FAIL.bit, Row.ICM_CNT2_HDR_FAIL.bit,
    Row.ICM_CNT2_PAY_FAIL.bit, State.icmSearch_touch, State.countWrap_touch]

theorem State.icmFail_within {M : Nat} {s₀ s : State} (h : Within M s₀ s) (k : Covers M State.icmFail_touch)
    (w : Wing) (why : IcmFail) :
    Within M s₀ (State.icmFail s w why) := by
  simp only [State.icmFail_touch, covers_union] at k
  obtain ⟨k0, k1, k2, k3, k4, k5, _⟩ := k
  unfold State.icmFail
  repeat' first
    | with_reducible assumption | with_reducible exact .refl _ _ | with_reducible apply State.icmSearch_within
    | with_reducible apply State.countWrap_within | with_reducible exact may_row (by with_reducible assumption)
    | unfold failRow | split

/-- What `execIcmFrameAbandon` may write. -/
def execIcmFrameAbandon_touch : Nat :=
  union [State.icmTake_touch, State.begin_touch, State.icmFail_touch]

theorem execIcmFrameAbandon_within {M : Nat} (s : State) (k : Covers M execIcmFrameAbandon_touch) (w : Wing)
    (rx : IcmRx) :
    Answered M s (execIcmFrameAbandon w rx s) := by
  simp only [execIcmFrameAbandon_touch, covers_union] at k
  obtain ⟨k0, k1, k2, _⟩ := k
  unfold execIcmFrameAbandon
  dsimp only
  repeat' first
    | apply answered_next | with_reducible assumption | with_reducible exact .refl _ _
    | with_reducible apply State.icmTake_within | with_reducible apply State.begin_within
    | with_reducible apply State.icmFail_within | with_reducible exact may_row (by with_reducible assumption) | split

/-- What `State.icmCapture` may write. -/
def State.icmCapture_touch : Nat :=
  union [Row.ICM_CNT3_CAPTURED.bit, State.countWrap_touch, State.icmSync_touch, State.onIcm_touch]

theorem State.icmCapture_within {M : Nat} {s₀ s : State} (h : Within M s₀ s) (k : Covers M State.icmCapture_touch)
    (w : Wing) (p : Nat × Nat) :
    Within M s₀ (State.icmCapture s w p) := by
  simp only [State.icmCapture_touch, covers_union] at k
  obtain ⟨k0, k1, k2, k3, _⟩ := k
  unfold State.icmCapture
  repeat' first
    | with_reducible assumption | with_reducible exact .refl _ _ | with_reducible apply State.countWrap_within
    | with_reducible apply State.icmSync_within | with_reducible apply State.onIcm_within
    | with_reducible exact may_row (by with_reducible assumption)

/-- What `execIcmCapture` may write. -/
def execIcmCapture_touch : Nat :=
  union [Row.ICM_CNT3_CAPT_IGNORED.bit, State.countWrap_touch, State.icmCapture_touch, State.icmTake_touch,
    State.begin_touch]

theorem execIcmCapture_within {M : Nat} (s : State) (k : Covers M execIcmCapture_touch) (w : Wing) (peaks : List
    (Nat × Nat)) (chirps : List RxChirp) :
    Answered M s (execIcmCapture w peaks chirps s) := by
  simp only [execIcmCapture_touch, covers_union] at k
  obtain ⟨k0, k1, k2, k3, k4, _⟩ := k
  unfold execIcmCapture
  dsimp only
  repeat' first
    | apply answered_next | with_reducible assumption | with_reducible exact .refl _ _
    | with_reducible apply State.countWrap_within | with_reducible apply State.icmCapture_within
    | with_reducible apply State.icmTake_within | with_reducible apply State.begin_within
    | with_reducible exact may_row (by with_reducible assumption) | split

/-- What `State.icmFrame` may write. -/
def State.icmFrame_touch : Nat :=
  union [Row.ICM_CNT0_RX_OK.bit, Row.ICM_RX_STAT_LAST_ID.bit, Row.ICM_RX_STAT_LAST_SNR.bit, State.icmSearch_touch,
    State.countWrap_touch, State.icmTake_touch, State.icmFail_touch]

theorem State.icmFrame_within {M : Nat} {s₀ s : State} (h : Within M s₀ s) (k : Covers M State.icmFrame_touch)
    (w : Wing) (type : Nat) (rx : IcmRx) (act : State → Nat → List Nat → State) (hf : ∀ (t : State) (a : Nat)
    (b : List Nat), Within M t (act t a b)) :
    Within M s₀ (State.icmFrame s w type rx act) := by
  simp only [State.icmFrame_touch, covers_union] at k
  obtain ⟨k0, k1, k2, k3, k4, k5, k6, _⟩ := k
  unfold State.icmFrame
  dsimp only
  repeat' first
    | with_reducible assumption | with_reducible exact .refl _ _ | with_reducible apply State.icmSearch_within
    | with_reducible apply State.countWrap_within | with_reducible apply State.wr_within
    | with_reducible apply State.wrS_within | with_reducible apply State.icmTake_within
    | with_reducible apply State.icmFail_within | with_reducible exact may_row (by with_reducible assumption) | split
    | with_reducible refine Within.trans ?_ (hf _ _ _)

/-- What `execIcmAdviceRx` may write. -/
def execIcmAdviceRx_touch : Nat :=
  union [State.adviceRx_touch, State.icmFrame_touch, State.begin_touch]

theorem execIcmAdviceRx_within {M : Nat} (s : State) (k : Covers M execIcmAdviceRx_touch) (w : Wing) (rx : IcmRx) :
    Answered M s (execIcmAdviceRx w rx s) := by
  simp only [execIcmAdviceRx_touch, covers_union] at k
  obtain ⟨k0, k1, k2, _⟩ := k
  unfold execIcmAdviceRx
  repeat' first
    | apply answered_next | with_reducible assumption | with_reducible exact .refl _ _
    | with_reducible apply State.adviceRx_within | with_reducible apply State.icmFrame_within
    | with_reducible apply State.begin_within | intro _

/-- What `State.announceRx` may write. -/
def State.announceRx_touch : Nat :=
  union [Row.ELC_CNT3_REFUSED.bit, State.countWrap_touch, State.icmQueue_touch]

theorem State.announceRx_within {M : Nat} {s₀ s : State} (h : Within M s₀ s) (k : Covers M State.announceRx_touch)
    (w : Wing) (seq : Nat) (h' : Nat) (fec : Nat) :
    Within M s₀ (State.announceRx s w seq h' fec) := by
  simp only [State.announceRx_touch, covers_union] at k
  obtain ⟨k0, k1, k2, _⟩ := k
  unfold State.announceRx
  dsimp only
  repeat' first
    | with_reducible assumption | with_reducible exact .refl _ _ | with_reducible apply State.countWrap_within
    | with_reducible apply State.icmQueue_within | with_reducible exact may_row (by with_reducible assumption)
    | split

/-- What `execIcmAnnounceRx` may write. -/
def execIcmAnnounceRx_touch : Nat :=
  union [State.icmFrame_touch, State.announceRx_touch, State.begin_touch]

theorem execIcmAnnounceRx_within {M : Nat} (s : State) (k : Covers M execIcmAnnounceRx_touch) (w : Wing)
    (rx : IcmRx) :
    Answered M s (execIcmAnnounceRx w rx s) := by
  simp only [execIcmAnnounceRx_touch, covers_union] at k
  obtain ⟨k0, k1, k2, _⟩ := k
  unfold execIcmAnnounceRx
  repeat' first
    | apply answered_next | with_reducible assumption | with_reducible exact .refl _ _
    | with_reducible apply State.icmFrame_within | with_reducible apply State.announceRx_within
    | with_reducible apply State.begin_within | intro _

/-- What `execIcmAckRx` may write. -/
def execIcmAckRx_touch : Nat :=
  union [State.ackIcm_touch, State.icmFrame_touch, State.begin_touch]

theorem execIcmAckRx_within {M : Nat} (s : State) (k : Covers M execIcmAckRx_touch) (w : Wing) (rx : IcmRx) :
    Answered M s (execIcmAckRx w rx s) := by
  simp only [execIcmAckRx_touch, covers_union] at k
  obtain ⟨k0, k1, k2, _⟩ := k
  unfold execIcmAckRx
  repeat' first
    | apply answered_next | with_reducible assumption | with_reducible exact .refl _ _
    | with_reducible apply State.ackIcm_within | with_reducible apply State.icmFrame_within
    | with_reducible apply State.begin_within | intro _

/-- What `State.showBaudDiff` may write. -/
def State.showBaudDiff_touch : Nat :=
  union [Row.ICM_BR0_BAUD_DIFF.bit]

theorem State.showBaudDiff_within {M : Nat} {s₀ s : State} (h : Within M s₀ s)
    (k : Covers M State.showBaudDiff_touch) (w : Wing) :
    Within M s₀ (State.showBaudDiff s w) := by
  simp only [State.showBaudDiff_touch, covers_union] at k
  obtain ⟨k0, _⟩ := k
  unfold State.showBaudDiff
  repeat' first
    | with_reducible assumption | with_reducible exact .refl _ _ | with_reducible apply State.wrb_within
    | with_reducible exact may_row (by with_reducible assumption)

theorem State.wrAll_within {M : Nat} {s₀ s : State} (h : Within M s₀ s) (rs : List Row) (krs : MayAll M rs)
    (i vs : List Nat) : Within M s₀ (State.wrAll s rs i vs) :=
  within_foldl_mem h _ (fun t p hp => State.wr_within (.refl _ t) _ (krs _ (List.of_mem_zip hp).1) _ _)


/-- What `State.bringupRx` may write. -/
def State.bringupRx_touch : Nat :=
  union [Row.ELC_FLOOR_RX_BAUD.bit, Row.ELC_FLOOR_RX_FEC.bit, Row.ELC_FLOOR_RX_H_IDX.bit, Row.ICM_BR0_HEARD.bit,
    Row.ICM_BR0_RX_BAUD.bit, Row.ICM_BR0_RX_STATE.bit, Row.ICM_BR0_TX_BAUD.bit, Row.ICM_BR0_VALID.bit,
    Row.ICM_BR1_FLOOR_BAUD.bit, Row.ICM_BR1_FLOOR_FEC.bit, Row.ICM_BR1_FLOOR_H.bit, Row.ICM_BR1_TX_CH.bit,
    Row.ICM_EVT_BRINGUP_RX.bit, State.showBaudDiff_touch, State.evt_touch, State.onIcm_touch,
    State.icmRefresh_touch]

theorem State.bringupRx_within {M : Nat} {s₀ s : State} (h : Within M s₀ s) (k : Covers M State.bringupRx_touch)
    (w : Wing) (vals : List Nat) :
    Within M s₀ (State.bringupRx s w vals) := by
  simp only [State.bringupRx_touch, covers_union] at k
  obtain ⟨k0, k1, k2, k3, k4, k5, k6, k7, k8, k9, k10, k11, k12, k13, k14, k15, k16, _⟩ := k
  unfold State.bringupRx
  dsimp only
  repeat' first
    | with_reducible assumption | with_reducible exact .refl _ _ | with_reducible apply State.showBaudDiff_within
    | with_reducible apply State.evt_within | with_reducible apply State.onIcm_within
    | with_reducible apply State.icmRefresh_within | with_reducible apply State.when_within
    | with_reducible apply State.wrAll_within | with_reducible exact may_row (by with_reducible assumption)
    | with_reducible apply mayAll_cons | with_reducible exact mayAll_nil _ | unfold brRows | intro _

/-- What `execIcmBringupRx` may write. -/
def execIcmBringupRx_touch : Nat :=
  union [State.bringupRx_touch, State.icmFrame_touch, State.begin_touch]

theorem execIcmBringupRx_within {M : Nat} (s : State) (k : Covers M execIcmBringupRx_touch) (w : Wing) (rx : IcmRx) :
    Answered M s (execIcmBringupRx w rx s) := by
  simp only [execIcmBringupRx_touch, covers_union] at k
  obtain ⟨k0, k1, k2, _⟩ := k
  unfold execIcmBringupRx
  repeat' first
    | apply answered_next | with_reducible assumption | with_reducible exact .refl _ _
    | with_reducible apply State.bringupRx_within | with_reducible apply State.icmFrame_within
    | with_reducible apply State.begin_within | intro _

theorem State.wrWords_within {M : Nat} {s₀ s : State} (h : Within M s₀ s) (w : Wing) (r : Row) (kr : May M r)
    (ws : List Nat) :
    Within M s₀ (State.wrWords s w r ws) := by
  unfold State.wrWords
  repeat' first
    | with_reducible assumption | with_reducible exact .refl _ _ | with_reducible apply State.wr_within
    | with_reducible apply within_foldl | with_reducible exact may_row (by with_reducible assumption) | intro _

/-- What `State.tagRx` may write. -/
def State.tagRx_touch : Nat :=
  union [Row.ICM_EVT_TAG_RX.bit, Row.ICM_TAG_RX_BYTES.bit, State.evt_touch]

theorem State.tagRx_within {M : Nat} {s₀ s : State} (h : Within M s₀ s) (k : Covers M State.tagRx_touch) (w : Wing)
    (bytes : List Nat) :
    Within M s₀ (State.tagRx s w bytes) := by
  simp only [State.tagRx_touch, covers_union] at k
  obtain ⟨k0, k1, k2, _⟩ := k
  unfold State.tagRx
  dsimp only
  repeat' first
    | with_reducible assumption | with_reducible exact .refl _ _ | with_reducible apply State.wrWords_within
    | with_reducible apply State.evt_within | with_reducible apply State.when_within
    | with_reducible exact may_row (by with_reducible assumption) | intro _

/-- What `execIcmTagRx` may write. -/
def execIcmTagRx_touch : Nat :=
  union [State.tagRx_touch, State.icmFrame_touch, State.begin_touch]

theorem execIcmTagRx_within {M : Nat} (s : State) (k : Covers M execIcmTagRx_touch) (w : Wing) (rx : IcmRx) :
    Answered M s (execIcmTagRx w rx s) := by
  simp only [execIcmTagRx_touch, covers_union] at k
  obtain ⟨k0, k1, k2, _⟩ := k
  unfold execIcmTagRx
  repeat' first
    | apply answered_next | with_reducible assumption | with_reducible exact .refl _ _
    | with_reducible apply State.tagRx_within | with_reducible apply State.icmFrame_within
    | with_reducible apply State.begin_within | intro _

/-- What `State.setAlarms` may write. -/
def State.setAlarms_touch : Nat :=
  union [Row.ICM_EVT_ALARM_RX.bit, Row.ICM_FAR_ALARM_ALARMS.bit, State.evt_touch]

theorem State.setAlarms_within {M : Nat} {s₀ s : State} (h : Within M s₀ s) (k : Covers M State.setAlarms_touch)
    (w : Wing) (bits : Nat) :
    Within M s₀ (State.setAlarms s w bits) := by
  simp only [State.setAlarms_touch, covers_union] at k
  obtain ⟨k0, k1, k2, _⟩ := k
  unfold State.setAlarms
  dsimp only
  repeat' first
    | with_reducible assumption | with_reducible exact .refl _ _ | with_reducible apply State.wr_within
    | with_reducible apply State.evt_within | with_reducible apply State.when_within
    | with_reducible exact may_row (by with_reducible assumption) | intro _

/-- What `execIcmAlarmRx` may write. -/
def execIcmAlarmRx_touch : Nat :=
  union [State.setAlarms_touch, State.icmFrame_touch, State.begin_touch]

theorem execIcmAlarmRx_within {M : Nat} (s : State) (k : Covers M execIcmAlarmRx_touch) (w : Wing) (rx : IcmRx) :
    Answered M s (execIcmAlarmRx w rx s) := by
  simp only [execIcmAlarmRx_touch, covers_union] at k
  obtain ⟨k0, k1, k2, _⟩ := k
  unfold execIcmAlarmRx
  repeat' first
    | apply answered_next | with_reducible assumption | with_reducible exact .refl _ _
    | with_reducible apply State.setAlarms_within | with_reducible apply State.icmFrame_within
    | with_reducible apply State.begin_within | intro _

/-- What `execFarAlarmTimeout` may write. -/
def execFarAlarmTimeout_touch : Nat :=
  union [State.setAlarms_touch, State.begin_touch]

theorem execFarAlarmTimeout_within {M : Nat} (s : State) (k : Covers M execFarAlarmTimeout_touch) (w : Wing) :
    Answered M s (execFarAlarmTimeout w s) := by
  simp only [execFarAlarmTimeout_touch, covers_union] at k
  obtain ⟨k0, k1, _⟩ := k
  unfold execFarAlarmTimeout
  repeat' first
    | apply answered_next | with_reducible assumption | with_reducible exact .refl _ _
    | with_reducible apply State.setAlarms_within | with_reducible apply State.begin_within

/-- What `State.showMail` may write. -/
def State.showMail_touch : Nat :=
  union [Row.ICM_USER_RX_CTL_COUNT.bit, Row.ICM_USER_RX_CTL_LEN.bit, Row.ICM_USER_RX_CTL_MSEQ.bit,
    Row.ICM_USER_RX_CTL_VALID.bit, Row.ICM_USER_RX_DATA_BYTES.bit]

theorem State.showMail_within {M : Nat} {s₀ s : State} (h : Within M s₀ s) (k : Covers M State.showMail_touch)
    (w : Wing) :
    Within M s₀ (State.showMail s w) := by
  simp only [State.showMail_touch, covers_union] at k
  obtain ⟨k0, k1, k2, k3, k4, _⟩ := k
  unfold State.showMail
  dsimp only
  repeat' first
    | with_reducible assumption | with_reducible exact .refl _ _ | with_reducible apply State.wrWords_within
    | with_reducible apply State.wr_within | with_reducible apply State.wrb_within
    | with_reducible exact may_row (by with_reducible assumption)

/-- What `State.userRx` may write. -/
def State.userRx_touch : Nat :=
  union [Row.ICM_CNT5_USER_OVF.bit, Row.ICM_EVT_USER_OVF.bit, Row.ICM_EVT_USER_RX.bit, State.showMail_touch,
    State.countWrap_touch, State.evt_touch, State.onIcm_touch]

theorem State.userRx_within {M : Nat} {s₀ s : State} (h : Within M s₀ s) (k : Covers M State.userRx_touch)
    (w : Wing) (mseq : Nat) (bytes : List Nat) :
    Within M s₀ (State.userRx s w mseq bytes) := by
  simp only [State.userRx_touch, covers_union] at k
  obtain ⟨k0, k1, k2, k3, k4, k5, k6, _⟩ := k
  unfold State.userRx
  dsimp only
  repeat' first
    | with_reducible assumption | with_reducible exact .refl _ _ | with_reducible apply State.showMail_within
    | with_reducible apply State.countWrap_within | with_reducible apply State.evt_within
    | with_reducible apply State.onIcm_within | with_reducible exact may_row (by with_reducible assumption) | intro _
    | split

/-- What `execIcmUserRx` may write. -/
def execIcmUserRx_touch : Nat :=
  union [State.icmFrame_touch, State.begin_touch, State.userRx_touch]

theorem execIcmUserRx_within {M : Nat} (s : State) (k : Covers M execIcmUserRx_touch) (w : Wing) (rx : IcmRx) :
    Answered M s (execIcmUserRx w rx s) := by
  simp only [execIcmUserRx_touch, covers_union] at k
  obtain ⟨k0, k1, k2, _⟩ := k
  unfold execIcmUserRx
  repeat' first
    | apply answered_next | with_reducible assumption | with_reducible exact .refl _ _
    | with_reducible apply State.icmFrame_within | with_reducible apply State.begin_within
    | with_reducible apply State.userRx_within | intro _

/-- What `State.sendUser` may write. -/
def State.sendUser_touch : Nat :=
  union [Row.ICM_EVT_USER_REFUSED.bit, State.icmQueue_touch, State.evt_touch]

theorem State.sendUser_within {M : Nat} {s₀ s : State} (h : Within M s₀ s) (k : Covers M State.sendUser_touch)
    (w : Wing) :
    Within M s₀ (State.sendUser s w) := by
  simp only [State.sendUser_touch, covers_union] at k
  obtain ⟨k0, k1, k2, _⟩ := k
  unfold State.sendUser
  repeat' first
    | with_reducible assumption | with_reducible exact .refl _ _ | with_reducible apply State.icmQueue_within
    | with_reducible apply State.evt_within | with_reducible exact may_row (by with_reducible assumption) | split

/-- What `execUserSend` may write. -/
def execUserSend_touch : Nat :=
  union [State.begin_touch, State.sendUser_touch]

theorem execUserSend_within {M : Nat} (s : State) (k : Covers M execUserSend_touch) (req : Req) (w : Wing) :
    Answered M s (execUserSend req w s) := by
  simp only [execUserSend_touch, covers_union] at k
  obtain ⟨k0, k1, _⟩ := k
  unfold execUserSend
  repeat' first
    | apply answered_next | with_reducible assumption | with_reducible exact .refl _ _
    | with_reducible apply State.via_within | with_reducible apply State.begin_within
    | with_reducible apply State.sendUser_within | intro _

/-- What `State.popUser` may write. -/
def State.popUser_touch : Nat :=
  union [State.showMail_touch, State.onIcm_touch]

theorem State.popUser_within {M : Nat} {s₀ s : State} (h : Within M s₀ s) (k : Covers M State.popUser_touch)
    (w : Wing) :
    Within M s₀ (State.popUser s w) := by
  simp only [State.popUser_touch, covers_union] at k
  obtain ⟨k0, k1, _⟩ := k
  unfold State.popUser
  repeat' first
    | with_reducible assumption | with_reducible exact .refl _ _ | with_reducible apply State.showMail_within
    | with_reducible apply State.onIcm_within

/-- What `execUserPop` may write. -/
def execUserPop_touch : Nat :=
  union [State.popUser_touch, State.begin_touch]

theorem execUserPop_within {M : Nat} (s : State) (k : Covers M execUserPop_touch) (req : Req) (w : Wing) :
    Answered M s (execUserPop req w s) := by
  simp only [execUserPop_touch, covers_union] at k
  obtain ⟨k0, k1, _⟩ := k
  unfold execUserPop
  repeat' first
    | apply answered_next | with_reducible assumption | with_reducible exact .refl _ _
    | with_reducible apply State.popUser_within | with_reducible apply State.via_within
    | with_reducible apply State.begin_within | intro _

end Sys2Proof.Machine
end

