-- ==== Sys2Proof/Laws/WithinCipher.lean ====
section
/-!
SUPPORT. `Within` over the operations of Machine/Cipher.lean.
-/

namespace Sys2Proof.Machine

/-- What `State.showBlocked` may write. -/
def State.showBlocked_touch : Nat :=
  union [Row.CIP_CH_STAT_RX_BLOCKED.bit]

theorem State.showBlocked_within {M : Nat} {s₀ s : State} (h : Within M s₀ s) (k : Covers M State.showBlocked_touch)
    (n : Nat) :
    Within M s₀ (State.showBlocked s n) := by
  simp only [State.showBlocked_touch, covers_union] at k
  obtain ⟨k0, _⟩ := k
  unfold State.showBlocked
  dsimp only
  repeat' first
    | with_reducible assumption | with_reducible exact .refl _ _ | with_reducible apply State.wrb_within
    | with_reducible exact may_row (by with_reducible assumption)

/-- What `State.setSlot` may write. -/
def State.setSlot_touch : Nat :=
  union [Row.CIP_SLOT_STAT_STATE.bit, State.showBlocked_touch]

theorem State.setSlot_within {M : Nat} {s₀ s : State} (h : Within M s₀ s) (k : Covers M State.setSlot_touch)
    (n : Nat) (st : Nat) :
    Within M s₀ (State.setSlot s n st) := by
  simp only [State.setSlot_touch, covers_union] at k
  obtain ⟨k0, k1, _⟩ := k
  unfold State.setSlot
  repeat' first
    | with_reducible assumption | with_reducible exact .refl _ _ | with_reducible apply State.showBlocked_within
    | with_reducible apply State.wr_within | with_reducible exact may_row (by with_reducible assumption)

/-- What `State.onSlot` may write. -/
def State.onSlot_touch : Nat :=
  union [State.onCip_touch]

theorem State.onSlot_within {M : Nat} {s₀ s : State} (h : Within M s₀ s) (k : Covers M State.onSlot_touch) (n : Nat)
    (f : KeySlot → KeySlot) :
    Within M s₀ (State.onSlot s n f) := by
  simp only [State.onSlot_touch, covers_union] at k
  obtain ⟨k0, _⟩ := k
  unfold State.onSlot
  repeat' first | with_reducible assumption | with_reducible exact .refl _ _ | with_reducible apply State.onCip_within

/-- What `State.zeroSlot` may write. -/
def State.zeroSlot_touch : Nat :=
  union [Row.CIP_SLOT_STAT_GEN.bit, Row.CIP_SLOT_USAGE_USAGE.bit, State.setSlot_touch, State.onSlot_touch]

theorem State.zeroSlot_within {M : Nat} {s₀ s : State} (h : Within M s₀ s) (k : Covers M State.zeroSlot_touch)
    (n : Nat) :
    Within M s₀ (State.zeroSlot s n) := by
  simp only [State.zeroSlot_touch, covers_union] at k
  obtain ⟨k0, k1, k2, k3, _⟩ := k
  unfold State.zeroSlot
  repeat' first
    | with_reducible assumption | with_reducible exact .refl _ _ | with_reducible apply State.wr_within
    | with_reducible apply State.setSlot_within | with_reducible apply State.onSlot_within
    | with_reducible exact may_row (by with_reducible assumption)

/-- What `State.fillSlot` may write. -/
def State.fillSlot_touch : Nat :=
  union [Row.CIP_SLOT_STAT_GEN.bit, Row.CIP_SLOT_USAGE_USAGE.bit, State.slotWrite_touch, State.setSlot_touch,
    State.onSlot_touch]

theorem State.fillSlot_within {M : Nat} {s₀ s : State} (h : Within M s₀ s) (k : Covers M State.fillSlot_touch)
    (n : Nat) (key : Nat) (gen : Nat) (session : Nat) (st : Nat) :
    Within M s₀ (State.fillSlot s n key gen session st) := by
  simp only [State.fillSlot_touch, covers_union] at k
  obtain ⟨k0, k1, k2, k3, k4, _⟩ := k
  unfold State.fillSlot
  repeat' first
    | with_reducible assumption | with_reducible exact .refl _ _ | with_reducible apply State.slotWrite_within
    | with_reducible apply State.wr_within | with_reducible apply State.setSlot_within
    | with_reducible apply State.onSlot_within | with_reducible exact may_row (by with_reducible assumption)

/-- What `State.retire` may write. -/
def State.retire_touch : Nat :=
  union [State.setSlot_touch, State.onSlot_touch]

theorem State.retire_within {M : Nat} {s₀ s : State} (h : Within M s₀ s) (k : Covers M State.retire_touch) (n : Nat)
    (next : Option Nat) :
    Within M s₀ (State.retire s n next) := by
  simp only [State.retire_touch, covers_union] at k
  obtain ⟨k0, k1, _⟩ := k
  unfold State.retire
  repeat' first
    | with_reducible assumption | with_reducible exact .refl _ _ | with_reducible apply State.setSlot_within
    | with_reducible apply State.onSlot_within

/-- What `State.slotEvt` may write. -/
def State.slotEvt_touch : Nat :=
  union [Row.CIP_EVT_LAST_SLOT.bit, State.evt_touch]

theorem State.slotEvt_within {M : Nat} {s₀ s : State} (h : Within M s₀ s) (k : Covers M State.slotEvt_touch)
    (r : Row) (kr : May M r) (n : Nat) :
    Within M s₀ (State.slotEvt s r n) := by
  simp only [State.slotEvt_touch, covers_union] at k
  obtain ⟨k0, k1, _⟩ := k
  unfold State.slotEvt
  repeat' first
    | with_reducible assumption | with_reducible exact .refl _ _ | with_reducible apply State.wr_within
    | with_reducible apply State.evt_within | with_reducible exact may_row (by with_reducible assumption)

/-- What `State.useSlot` may write. -/
def State.useSlot_touch : Nat :=
  union [Row.CIP_EVT_BLOCKED.bit, Row.CIP_EVT_ROLL_REQ.bit, Row.CIP_SLOT_USAGE_USAGE.bit, State.setSlot_touch,
    State.evt_touch, State.slotEvt_touch]

theorem State.useSlot_within {M : Nat} {s₀ s : State} (h : Within M s₀ s) (k : Covers M State.useSlot_touch)
    (n : Nat) (usage : Nat) :
    Within M s₀ (State.useSlot s n usage) := by
  simp only [State.useSlot_touch, covers_union] at k
  obtain ⟨k0, k1, k2, k3, k4, k5, _⟩ := k
  unfold State.useSlot
  dsimp only
  repeat' first
    | with_reducible assumption | with_reducible exact .refl _ _ | with_reducible apply State.wr_within
    | with_reducible apply State.setSlot_within | with_reducible apply State.evt_within
    | with_reducible apply State.slotEvt_within | with_reducible apply State.when_within
    | with_reducible exact may_row (by with_reducible assumption) | intro _ | split

/-- What `State.onSes` may write. -/
def State.onSes_touch : Nat :=
  union [State.onCip_touch]

theorem State.onSes_within {M : Nat} {s₀ s : State} (h : Within M s₀ s) (k : Covers M State.onSes_touch) (w : Wing)
    (f : Session → Session) :
    Within M s₀ (State.onSes s w f) := by
  simp only [State.onSes_touch, covers_union] at k
  obtain ⟨k0, _⟩ := k
  unfold State.onSes
  repeat' first | with_reducible assumption | with_reducible exact .refl _ _ | with_reducible apply State.onCip_within

/-- What `State.derive` may write. -/
def State.derive_touch : Nat :=
  union [State.onSes_touch, State.sendGcc_touch, State.fillSlot_touch]

theorem State.derive_within {M : Nat} {s₀ s : State} (h : Within M s₀ s) (k : Covers M State.derive_touch) (n : Nat) :
    Within M s₀ (State.derive s n) := by
  simp only [State.derive_touch, covers_union] at k
  obtain ⟨k0, k1, k2, _⟩ := k
  unfold State.derive
  dsimp only
  repeat' first
    | with_reducible assumption | with_reducible exact .refl _ _ | with_reducible apply State.onSes_within
    | with_reducible apply State.sendGcc_within | with_reducible apply State.fillSlot_within | intro _ | split

/-- What `State.rederive` may write. -/
def State.rederive_touch : Nat :=
  union [State.derive_touch]

theorem State.rederive_within {M : Nat} {s₀ s : State} (h : Within M s₀ s) (k : Covers M State.rederive_touch)
    (n : Nat) :
    Within M s₀ (State.rederive s n) := by
  simp only [State.rederive_touch, covers_union] at k
  obtain ⟨k0, _⟩ := k
  unfold State.rederive
  dsimp only
  repeat' first
    | with_reducible assumption | with_reducible exact .refl _ _ | with_reducible apply State.derive_within | split

/-- What `State.lostSlot` may write. -/
def State.lostSlot_touch : Nat :=
  union [State.onCip_touch]

theorem State.lostSlot_within {M : Nat} {s₀ s : State} (h : Within M s₀ s) (k : Covers M State.lostSlot_touch)
    (n : Nat) :
    Within M s₀ (State.lostSlot s n) := by
  simp only [State.lostSlot_touch, covers_union] at k
  obtain ⟨k0, _⟩ := k
  unfold State.lostSlot
  dsimp only
  repeat' first
    | with_reducible assumption | with_reducible exact .refl _ _ | with_reducible apply State.onCip_within | intro _
    | split

/-- What `State.slotDamaged` may write. -/
def State.slotDamaged_touch : Nat :=
  union [Row.CIP_EVT_RETIRED.bit, State.lostSlot_touch, State.ueControl_touch, State.rederive_touch,
    State.zeroSlot_touch, State.slotEvt_touch, State.spoil_touch]

theorem State.slotDamaged_within {M : Nat} {s₀ s : State} (h : Within M s₀ s) (k : Covers M State.slotDamaged_touch)
    (n : Nat) :
    Within M s₀ (State.slotDamaged s n) := by
  simp only [State.slotDamaged_touch, covers_union] at k
  obtain ⟨k0, k1, k2, k3, k4, k5, k6, _⟩ := k
  unfold State.slotDamaged
  dsimp only
  repeat' first
    | with_reducible assumption | with_reducible exact .refl _ _ | with_reducible apply State.lostSlot_within
    | with_reducible apply State.ueControl_within | with_reducible apply State.rederive_within
    | with_reducible apply State.zeroSlot_within | with_reducible apply State.slotEvt_within
    | with_reducible apply State.spoil_within | with_reducible exact may_row (by with_reducible assumption)

/-- What `State.readSlot` may write. -/
def State.readSlot_touch : Nat :=
  union [State.slotDamaged_touch, State.correct_touch]

theorem State.readSlot_within {M : Nat} {s₀ s : State} (h : Within M s₀ s) (k : Covers M State.readSlot_touch)
    (n : Nat) :
    Within M s₀ (State.readSlot s n).2 := by
  simp only [State.readSlot_touch, covers_union] at k
  obtain ⟨k0, k1, _⟩ := k
  unfold State.readSlot
  repeat' first
    | with_reducible assumption | with_reducible exact .refl _ _ | with_reducible apply State.slotDamaged_within
    | with_reducible apply State.correct_within | split

/-- What `State.ctxDamaged` may write. -/
def State.ctxDamaged_touch : Nat :=
  union [State.ueControl_touch, State.spoil_touch]

theorem State.ctxDamaged_within {M : Nat} {s₀ s : State} (h : Within M s₀ s) (k : Covers M State.ctxDamaged_touch)
    (l : MemLine) :
    Within M s₀ (State.ctxDamaged s l) := by
  simp only [State.ctxDamaged_touch, covers_union] at k
  obtain ⟨k0, k1, _⟩ := k
  unfold State.ctxDamaged
  repeat' first
    | with_reducible assumption | with_reducible exact .refl _ _ | with_reducible apply State.ueControl_within
    | with_reducible apply State.spoil_within

/-- What `State.ranCtx` may write. -/
def State.ranCtx_touch : Nat :=
  union [State.closeCtx_touch, State.native_touch, State.onCip_touch]

theorem State.ranCtx_within {M : Nat} {s₀ s : State} (h : Within M s₀ s) (k : Covers M State.ranCtx_touch)
    (id : Nat) :
    Within M s₀ (State.ranCtx s id) := by
  simp only [State.ranCtx_touch, covers_union] at k
  obtain ⟨k0, k1, k2, _⟩ := k
  unfold State.ranCtx
  repeat' first
    | with_reducible assumption | with_reducible exact .refl _ _ | with_reducible apply State.closeCtx_within
    | with_reducible apply State.native_within | with_reducible apply State.onCip_within | intro _ | split

/-- What `State.runEnd` may write. -/
def State.runEnd_touch : Nat :=
  union [State.feedAll_touch, State.setPipe_touch, State.ranCtx_touch]

theorem State.runEnd_within {M : Nat} {s₀ s : State} (h : Within M s₀ s) (k : Covers M State.runEnd_touch) (p : Nat) :
    Within M s₀ (State.runEnd s p) := by
  simp only [State.runEnd_touch, covers_union] at k
  obtain ⟨k0, k1, k2, _⟩ := k
  unfold State.runEnd
  dsimp only
  repeat' first
    | with_reducible assumption | with_reducible exact .refl _ _ | with_reducible apply State.feedAll_within
    | with_reducible apply State.setPipe_within | with_reducible apply State.ranCtx_within | split

/-- What `execPipelineRunEnd` may write. -/
def execPipelineRunEnd_touch : Nat :=
  union [State.runEnd_touch, State.correct_touch, State.begin_touch, State.ctxDamaged_touch]

theorem execPipelineRunEnd_within {M : Nat} (s : State) (k : Covers M execPipelineRunEnd_touch) (p : Fin 16) :
    Answered M s (execPipelineRunEnd p s) := by
  simp only [execPipelineRunEnd_touch, covers_union] at k
  obtain ⟨k0, k1, k2, k3, _⟩ := k
  unfold execPipelineRunEnd
  dsimp only
  repeat' first
    | apply answered_next | with_reducible assumption | with_reducible exact .refl _ _
    | with_reducible apply State.runEnd_within | with_reducible apply State.correct_within
    | with_reducible apply State.begin_within | with_reducible apply State.ctxDamaged_within | intro _ | split

/-- What `execPreempt` may write. -/
def execPreempt_touch : Nat :=
  union [Row.CIP_PREEMPTS_COUNT.bit, State.countWrap_touch, State.setPipe_touch, State.begin_touch,
    State.onCip_touch, State.showCtx_touch]

theorem execPreempt_within {M : Nat} (s : State) (k : Covers M execPreempt_touch) (left : List Nat) :
    Answered M s (execPreempt left s) := by
  simp only [execPreempt_touch, covers_union] at k
  obtain ⟨k0, k1, k2, k3, k4, k5, _⟩ := k
  unfold execPreempt
  dsimp only
  repeat' first
    | apply answered_next | with_reducible assumption | with_reducible exact .refl _ _
    | with_reducible apply State.countWrap_within | with_reducible apply State.setPipe_within
    | with_reducible apply State.begin_within | with_reducible apply State.onCip_within
    | with_reducible apply State.showCtx_within | with_reducible exact may_row (by with_reducible assumption)
    | intro _ | split

/-- What `State.voidSegment` may write. -/
def State.voidSegment_touch : Nat :=
  union [Row.CIP_CH_STAT_TX_KP.bit, Row.CIP_CH_STAT_TX_VOID.bit, State.say_touch, State.onCip_touch,
    State.boxBlocks_touch]

theorem State.voidSegment_within {M : Nat} {s₀ s : State} (h : Within M s₀ s) (k : Covers M State.voidSegment_touch)
    (ch : Nat) :
    Within M s₀ (State.voidSegment s ch) := by
  simp only [State.voidSegment_touch, covers_union] at k
  obtain ⟨k0, k1, k2, k3, k4, _⟩ := k
  unfold State.voidSegment
  dsimp only
  repeat' first
    | with_reducible assumption | with_reducible exact .refl _ _ | with_reducible apply State.say_within
    | with_reducible apply State.wrb_within | with_reducible apply State.onCip_within
    | with_reducible apply State.boxBlocks_within | with_reducible exact may_row (by with_reducible assumption)

/-- What `State.sealNext` may write. -/
def State.sealNext_touch : Nat :=
  union [State.nextBlocks_touch, State.boxBlocks_touch]

theorem State.sealNext_within {M : Nat} {s₀ s : State} (h : Within M s₀ s) (k : Covers M State.sealNext_touch)
    (ch : Nat) (n : Nat) (k' : Nat) (counter : Nat) :
    Within M s₀ (State.sealNext s ch n k' counter) := by
  simp only [State.sealNext_touch, covers_union] at k
  obtain ⟨k0, k1, _⟩ := k
  unfold State.sealNext
  dsimp only
  repeat' first
    | with_reducible assumption | with_reducible exact .refl _ _ | with_reducible apply State.nextBlocks_within
    | with_reducible apply State.boxBlocks_within

/-- What `State.keyedSegment` may write. -/
def State.keyedSegment_touch : Nat :=
  union [Row.CIP_CH_STAT_ROLL_PEND.bit, Row.CIP_CH_STAT_TX_KP.bit, Row.CIP_CH_STAT_TX_VOID.bit,
    State.useSlot_touch, State.say_touch, State.openCtx_touch, State.sealNext_touch]

theorem State.keyedSegment_within {M : Nat} {s₀ s : State} (h : Within M s₀ s)
    (k : Covers M State.keyedSegment_touch) (ch : Nat) (k' : Nat) :
    Within M s₀ (State.keyedSegment s ch k') := by
  simp only [State.keyedSegment_touch, covers_union] at k
  obtain ⟨k0, k1, k2, k3, k4, k5, k6, _⟩ := k
  unfold State.keyedSegment
  dsimp only
  repeat' first
    | with_reducible assumption | with_reducible exact .refl _ _ | with_reducible apply State.wr_within
    | with_reducible apply State.useSlot_within | with_reducible apply State.say_within
    | with_reducible apply State.openCtx_within | with_reducible apply State.sealNext_within
    | with_reducible apply State.when_within | with_reducible apply State.wrb_within
    | with_reducible exact may_row (by with_reducible assumption) | intro _

/-- What `State.rollTo` may write. -/
def State.rollTo_touch : Nat :=
  union [Row.CIP_CH_STAT_ROLL_PEND.bit, Row.CIP_EVT_ROLLED.bit, State.retire_touch, State.setSlot_touch,
    State.slotEvt_touch, State.onCip_touch]

theorem State.rollTo_within {M : Nat} {s₀ s : State} (h : Within M s₀ s) (k : Covers M State.rollTo_touch)
    (ch : Nat) (k' : Nat) :
    Within M s₀ (State.rollTo s ch k') := by
  simp only [State.rollTo_touch, covers_union] at k
  obtain ⟨k0, k1, k2, k3, k4, k5, _⟩ := k
  unfold State.rollTo
  dsimp only
  repeat' first
    | with_reducible assumption | with_reducible exact .refl _ _ | with_reducible apply State.retire_within
    | with_reducible apply State.setSlot_within | with_reducible apply State.slotEvt_within
    | with_reducible apply State.when_within | with_reducible apply State.wrb_within
    | with_reducible apply State.onCip_within | with_reducible exact may_row (by with_reducible assumption) | intro _

/-- What `State.openPhase` may write. -/
def State.openPhase_touch : Nat :=
  union [State.rollTo_touch, State.onCip_touch]

theorem State.openPhase_within {M : Nat} {s₀ s : State} (h : Within M s₀ s) (k : Covers M State.openPhase_touch)
    (ch : Nat) :
    Within M s₀ (State.openPhase s ch).2 := by
  simp only [State.openPhase_touch, covers_union] at k
  obtain ⟨k0, k1, _⟩ := k
  unfold State.openPhase
  dsimp only
  repeat' first
    | with_reducible assumption | with_reducible exact .refl _ _ | with_reducible apply State.rollTo_within
    | with_reducible apply State.onCip_within | with_reducible exact may_row (by with_reducible assumption) | intro _
    | split

/-- What `State.txSegment` may write. -/
def State.txSegment_touch : Nat :=
  union [State.readSlot_touch, State.openPhase_touch, State.keyedSegment_touch, State.voidSegment_touch]

theorem State.txSegment_within {M : Nat} {s₀ s : State} (h : Within M s₀ s) (k : Covers M State.txSegment_touch)
    (ch : Nat) :
    Within M s₀ (State.txSegment s ch) := by
  simp only [State.txSegment_touch, covers_union] at k
  obtain ⟨k0, k1, k2, k3, _⟩ := k
  unfold State.txSegment
  dsimp only
  repeat' first
    | with_reducible assumption | with_reducible exact .refl _ _ | with_reducible apply State.readSlot_within
    | with_reducible apply State.openPhase_within | with_reducible apply State.keyedSegment_within
    | with_reducible apply State.voidSegment_within | split

/-- What `execSegmentTxStart` may write. -/
def execSegmentTxStart_touch : Nat :=
  union [Part.inuse.bit, State.begin_touch, State.txSegment_touch]

theorem execSegmentTxStart_within {M : Nat} (s : State) (k : Covers M execSegmentTxStart_touch) (ch : Fin 64) :
    Answered M s (execSegmentTxStart ch s) := by
  simp only [execSegmentTxStart_touch, covers_union] at k
  obtain ⟨k0, k1, k2, _⟩ := k
  unfold execSegmentTxStart
  dsimp only
  repeat' first
    | apply answered_next | with_reducible assumption | with_reducible exact .refl _ _
    | with_reducible apply State.begin_within | with_reducible apply State.txSegment_within
    | with_reducible exact may_row (by with_reducible assumption) | split | with_reducible apply within_inuse

/-- What `State.roll` may write. -/
def State.roll_touch : Nat :=
  union [State.onCip_touch]

theorem State.roll_within {M : Nat} {s₀ s : State} (h : Within M s₀ s) (k : Covers M State.roll_touch) (ch : Nat) :
    Within M s₀ (State.roll s ch) := by
  simp only [State.roll_touch, covers_union] at k
  obtain ⟨k0, _⟩ := k
  unfold State.roll
  repeat' first
    | with_reducible assumption | with_reducible exact .refl _ _ | with_reducible apply State.onCip_within | intro _
    | split

/-- What `execRoll` may write. -/
def execRoll_touch : Nat :=
  union [State.roll_touch, State.begin_touch]

theorem execRoll_within {M : Nat} (s : State) (k : Covers M execRoll_touch) (req : Req) (ch : Fin 64) :
    Answered M s (execRoll req ch s) := by
  simp only [execRoll_touch, covers_union] at k
  obtain ⟨k0, k1, _⟩ := k
  unfold execRoll
  repeat' first
    | apply answered_next | with_reducible assumption | with_reducible exact .refl _ _
    | with_reducible apply State.roll_within | with_reducible apply State.via_within
    | with_reducible apply State.begin_within | intro _

/-- What `State.noKey` may write. -/
def State.noKey_touch : Nat :=
  union [Row.CIP_NO_KEY_COUNT.bit, State.count_touch, State.endSegment_touch]

theorem State.noKey_within {M : Nat} {s₀ s : State} (h : Within M s₀ s) (k : Covers M State.noKey_touch) (ch : Nat) :
    Within M s₀ (State.noKey s ch) := by
  simp only [State.noKey_touch, covers_union] at k
  obtain ⟨k0, k1, k2, _⟩ := k
  unfold State.noKey
  repeat' first
    | with_reducible assumption | with_reducible exact .refl _ _ | with_reducible apply State.when_within
    | with_reducible apply State.count_within | with_reducible apply State.endSegment_within
    | with_reducible exact may_row (by with_reducible assumption) | intro _

/-- What `State.alignSegment` may write. -/
def State.alignSegment_touch : Nat :=
  union [Row.CIP_CH_STAT_SEG_LOCK.bit, State.onCip_touch]

theorem State.alignSegment_within {M : Nat} {s₀ s : State} (h : Within M s₀ s)
    (k : Covers M State.alignSegment_touch) (ch : Nat) (confirmed : Bool) :
    Within M s₀ (State.alignSegment s ch confirmed) := by
  simp only [State.alignSegment_touch, covers_union] at k
  obtain ⟨k0, k1, _⟩ := k
  unfold State.alignSegment
  dsimp only
  repeat' first
    | with_reducible assumption | with_reducible exact .refl _ _ | with_reducible apply State.wrb_within
    | with_reducible apply State.onCip_within | with_reducible exact may_row (by with_reducible assumption) | intro _
    | split

/-- What `State.rxRoll` may write. -/
def State.rxRoll_touch : Nat :=
  union [State.retire_touch, State.setSlot_touch]

theorem State.rxRoll_within {M : Nat} {s₀ s : State} (h : Within M s₀ s) (k : Covers M State.rxRoll_touch)
    (ch : Nat) (k' : Nat) :
    Within M s₀ (State.rxRoll s ch k') := by
  simp only [State.rxRoll_touch, covers_union] at k
  obtain ⟨k0, k1, _⟩ := k
  unfold State.rxRoll
  dsimp only
  repeat' first
    | with_reducible assumption | with_reducible exact .refl _ _ | with_reducible apply State.retire_within
    | with_reducible apply State.setSlot_within | with_reducible apply State.when_within | intro _ | split

/-- What `State.decrypt` may write. -/
def State.decrypt_touch : Nat :=
  union [Row.CIP_AUTH_FAIL_COUNT.bit, Row.CIP_CH_STAT_RX_KP.bit, Row.CIP_EVT_AUTH_FAIL.bit,
    Row.CIP_SEG_OK_COUNT.bit, State.rxRoll_touch, State.useSlot_touch, State.evt_touch, State.count_touch,
    State.endSegment_touch]

theorem State.decrypt_within {M : Nat} {s₀ s : State} (h : Within M s₀ s) (k : Covers M State.decrypt_touch)
    (ch : Nat) (seg : Segment) :
    Within M s₀ (State.decrypt s ch seg) := by
  simp only [State.decrypt_touch, covers_union] at k
  obtain ⟨k0, k1, k2, k3, k4, k5, k6, k7, k8, _⟩ := k
  unfold State.decrypt
  dsimp only
  repeat' first
    | with_reducible assumption | with_reducible exact .refl _ _ | with_reducible apply State.rxRoll_within
    | with_reducible apply State.wr_within | with_reducible apply State.useSlot_within
    | with_reducible apply State.evt_within | with_reducible apply State.count_within
    | with_reducible apply State.endSegment_within | with_reducible exact may_row (by with_reducible assumption)
    | split

/-- What `State.openSegment` may write. -/
def State.openSegment_touch : Nat :=
  union [Row.CIP_CH_STAT_RX_VOID.bit, Row.CIP_SEQ_ERR_COUNT.bit, State.readSlot_touch, State.noKey_touch,
    State.decrypt_touch, State.rxOpen_touch, State.count_touch, State.endSegment_touch]

theorem State.openSegment_within {M : Nat} {s₀ s : State} (h : Within M s₀ s) (k : Covers M State.openSegment_touch)
    (ch : Nat) (seg : Segment) :
    Within M s₀ (State.openSegment s ch seg) := by
  simp only [State.openSegment_touch, covers_union] at k
  obtain ⟨k0, k1, k2, k3, k4, k5, k6, k7, _⟩ := k
  unfold State.openSegment
  dsimp only
  repeat' first
    | with_reducible assumption | with_reducible exact .refl _ _ | with_reducible apply State.readSlot_within
    | with_reducible apply State.noKey_within | with_reducible apply State.decrypt_within
    | with_reducible apply State.rxOpen_within | with_reducible apply State.count_within
    | with_reducible apply State.wrb_within | with_reducible apply State.endSegment_within
    | with_reducible exact may_row (by with_reducible assumption) | split

/-- What `State.rxSegment` may write. -/
def State.rxSegment_touch : Nat :=
  union [State.alignSegment_touch, State.openSegment_touch, State.onCip_touch, State.endSegment_touch]

theorem State.rxSegment_within {M : Nat} {s₀ s : State} (h : Within M s₀ s) (k : Covers M State.rxSegment_touch)
    (ch : Nat) (seg : Segment) :
    Within M s₀ (State.rxSegment s ch seg) := by
  simp only [State.rxSegment_touch, covers_union] at k
  obtain ⟨k0, k1, k2, k3, _⟩ := k
  unfold State.rxSegment
  repeat' first
    | with_reducible assumption | with_reducible exact .refl _ _ | with_reducible apply State.alignSegment_within
    | with_reducible apply State.openSegment_within | with_reducible apply State.onCip_within
    | with_reducible apply State.endSegment_within | with_reducible exact may_row (by with_reducible assumption)
    | intro _ | split

/-- What `execSegmentRx` may write. -/
def execSegmentRx_touch : Nat :=
  union [State.rxSegment_touch, State.begin_touch]

theorem execSegmentRx_within {M : Nat} (s : State) (k : Covers M execSegmentRx_touch) (ch : Fin 64) (seg : Segment) :
    Answered M s (execSegmentRx ch seg s) := by
  simp only [execSegmentRx_touch, covers_union] at k
  obtain ⟨k0, k1, _⟩ := k
  unfold execSegmentRx
  dsimp only
  repeat' first
    | apply answered_next | with_reducible assumption | with_reducible exact .refl _ _
    | with_reducible apply State.rxSegment_within | with_reducible apply State.begin_within | split

/-- What `execSegLockLoss` may write. -/
def execSegLockLoss_touch : Nat :=
  union [Row.CIP_CH_STAT_RX_VOID.bit, Row.CIP_CH_STAT_SEG_LOCK.bit, Row.CIP_EVT_SEG_LOSS.bit, State.evt_touch,
    State.begin_touch, State.onCip_touch, State.endSegment_touch]

theorem execSegLockLoss_within {M : Nat} (s : State) (k : Covers M execSegLockLoss_touch) (ch : Fin 64) :
    Answered M s (execSegLockLoss ch s) := by
  simp only [execSegLockLoss_touch, covers_union] at k
  obtain ⟨k0, k1, k2, k3, k4, k5, k6, _⟩ := k
  unfold execSegLockLoss
  dsimp only
  repeat' first
    | apply answered_next | with_reducible assumption | with_reducible exact .refl _ _
    | with_reducible apply State.evt_within | with_reducible apply State.begin_within
    | with_reducible apply State.wrb_within | with_reducible apply State.onCip_within
    | with_reducible apply State.endSegment_within | with_reducible exact may_row (by with_reducible assumption)
    | intro _ | split

/-- What `State.becameCurrent` may write. -/
def State.becameCurrent_touch : Nat :=
  union [Row.CIP_CH_STAT_ROLL_PEND.bit, State.retire_touch]

theorem State.becameCurrent_within {M : Nat} {s₀ s : State} (h : Within M s₀ s)
    (k : Covers M State.becameCurrent_touch) (n : Nat) :
    Within M s₀ (State.becameCurrent s n) := by
  simp only [State.becameCurrent_touch, covers_union] at k
  obtain ⟨k0, k1, _⟩ := k
  unfold State.becameCurrent
  dsimp only
  repeat' first
    | with_reducible assumption | with_reducible exact .refl _ _ | with_reducible apply State.retire_within
    | with_reducible apply State.when_within | with_reducible apply State.wrb_within
    | with_reducible exact may_row (by with_reducible assumption) | intro _

/-- What `State.retired` may write. -/
def State.retired_touch : Nat :=
  union [Row.CIP_EVT_RETIRED.bit, State.becameCurrent_touch, State.rederive_touch, State.zeroSlot_touch,
    State.slotEvt_touch, State.fillSlot_touch]

theorem State.retired_within {M : Nat} {s₀ s : State} (h : Within M s₀ s) (k : Covers M State.retired_touch)
    (n : Nat) :
    Within M s₀ (State.retired s n) := by
  simp only [State.retired_touch, covers_union] at k
  obtain ⟨k0, k1, k2, k3, k4, k5, _⟩ := k
  unfold State.retired
  dsimp only
  repeat' first
    | with_reducible assumption | with_reducible exact .refl _ _ | with_reducible apply State.becameCurrent_within
    | with_reducible apply State.rederive_within | with_reducible apply State.zeroSlot_within
    | with_reducible apply State.slotEvt_within | with_reducible apply State.when_within
    | with_reducible apply State.fillSlot_within | with_reducible exact may_row (by with_reducible assumption)
    | intro _ | split

/-- What `execRetirementComplete` may write. -/
def execRetirementComplete_touch : Nat :=
  union [State.retired_touch, State.begin_touch]

theorem execRetirementComplete_within {M : Nat} (s : State) (k : Covers M execRetirementComplete_touch)
    (slot : Fin 256) :
    Answered M s (execRetirementComplete slot s) := by
  simp only [execRetirementComplete_touch, covers_union] at k
  obtain ⟨k0, k1, _⟩ := k
  unfold execRetirementComplete
  dsimp only
  repeat' first
    | apply answered_next | with_reducible assumption | with_reducible exact .refl _ _
    | with_reducible apply State.retired_within | with_reducible apply State.begin_within | intro _ | split

/-- What `State.refuseKey` may write. -/
def State.refuseKey_touch : Nat :=
  union [Row.SEC_KEY_STAT_REASON.bit, Row.SEC_KEY_STAT_REFUSED.bit]

theorem State.refuseKey_within {M : Nat} {s₀ s : State} (h : Within M s₀ s) (k : Covers M State.refuseKey_touch)
    (reason : Nat) :
    Within M s₀ (State.refuseKey s reason) := by
  simp only [State.refuseKey_touch, covers_union] at k
  obtain ⟨k0, k1, _⟩ := k
  unfold State.refuseKey
  repeat' first
    | with_reducible assumption | with_reducible exact .refl _ _ | with_reducible apply State.wr_within
    | with_reducible apply State.wrb_within | with_reducible exact may_row (by with_reducible assumption)

/-- What `State.runKey` may write. -/
def State.runKey_touch : Nat :=
  union [Row.SEC_KEY_STAT_BUSY.bit, State.askDma_touch, State.onCip_touch]

theorem State.runKey_within {M : Nat} {s₀ s : State} (h : Within M s₀ s) (k : Covers M State.runKey_touch)
    (op : Nat) :
    Within M s₀ (State.runKey s op) := by
  simp only [State.runKey_touch, covers_union] at k
  obtain ⟨k0, k1, k2, _⟩ := k
  unfold State.runKey
  repeat' first
    | with_reducible assumption | with_reducible exact .refl _ _ | with_reducible apply State.askDma_within
    | with_reducible apply State.when_within | with_reducible apply State.wrb_within
    | with_reducible apply State.onCip_within | with_reducible exact may_row (by with_reducible assumption) | intro _

/-- What `State.loadSlot` may write. -/
def State.loadSlot_touch : Nat :=
  union [State.retire_touch, State.fillSlot_touch]

theorem State.loadSlot_within {M : Nat} {s₀ s : State} (h : Within M s₀ s) (k : Covers M State.loadSlot_touch)
    (n : Nat) (key : Nat) :
    Within M s₀ (State.loadSlot s n key) := by
  simp only [State.loadSlot_touch, covers_union] at k
  obtain ⟨k0, k1, _⟩ := k
  unfold State.loadSlot
  repeat' first
    | with_reducible assumption | with_reducible exact .refl _ _ | with_reducible apply State.retire_within
    | with_reducible apply State.fillSlot_within | split

/-- What `State.keyLoad` may write. -/
def State.keyLoad_touch : Nat :=
  union [State.loadSlot_touch, State.runKey_touch, State.refuseKey_touch]

theorem State.keyLoad_within {M : Nat} {s₀ s : State} (h : Within M s₀ s) (k : Covers M State.keyLoad_touch)
    (slot : Nat) :
    Within M s₀ (State.keyLoad s slot) := by
  simp only [State.keyLoad_touch, covers_union] at k
  obtain ⟨k0, k1, k2, _⟩ := k
  unfold State.keyLoad
  repeat' first
    | with_reducible assumption | with_reducible exact .refl _ _ | with_reducible apply State.loadSlot_within
    | with_reducible apply State.runKey_within | with_reducible apply State.refuseKey_within | split

/-- What `execKeyLoad` may write. -/
def execKeyLoad_touch : Nat :=
  union [State.keyLoad_touch, State.begin_touch]

theorem execKeyLoad_within {M : Nat} (s : State) (k : Covers M execKeyLoad_touch) (req : Req) (slot : Fin 512) :
    Answered M s (execKeyLoad req slot s) := by
  simp only [execKeyLoad_touch, covers_union] at k
  obtain ⟨k0, k1, _⟩ := k
  unfold execKeyLoad
  repeat' first
    | apply answered_next | with_reducible assumption | with_reducible exact .refl _ _
    | with_reducible apply State.viaSec_within | with_reducible apply State.keyLoad_within
    | with_reducible apply State.begin_within | intro _

/-- What `State.keyErase` may write. -/
def State.keyErase_touch : Nat :=
  union [State.retire_touch, State.zeroSlot_touch, State.refuseKey_touch]

theorem State.keyErase_within {M : Nat} {s₀ s : State} (h : Within M s₀ s) (k : Covers M State.keyErase_touch)
    (n : Nat) :
    Within M s₀ (State.keyErase s n) := by
  simp only [State.keyErase_touch, covers_union] at k
  obtain ⟨k0, k1, k2, _⟩ := k
  unfold State.keyErase
  repeat' first
    | with_reducible assumption | with_reducible exact .refl _ _ | with_reducible apply State.retire_within
    | with_reducible apply State.zeroSlot_within | with_reducible apply State.refuseKey_within
    | with_reducible exact may_row (by with_reducible assumption) | split

/-- What `execKeyErase` may write. -/
def execKeyErase_touch : Nat :=
  union [State.keyErase_touch, State.begin_touch]

theorem execKeyErase_within {M : Nat} (s : State) (k : Covers M execKeyErase_touch) (req : Req) (slot : Fin 512) :
    Answered M s (execKeyErase req slot s) := by
  simp only [execKeyErase_touch, covers_union] at k
  obtain ⟨k0, k1, _⟩ := k
  unfold execKeyErase
  repeat' first
    | apply answered_next | with_reducible assumption | with_reducible exact .refl _ _
    | with_reducible apply State.keyErase_within | with_reducible apply State.viaSec_within
    | with_reducible apply State.begin_within | intro _

/-- What `State.loadKek` may write. -/
def State.loadKek_touch : Nat :=
  union [State.runKey_touch, State.refuseKey_touch, State.onCip_touch]

theorem State.loadKek_within {M : Nat} {s₀ s : State} (h : Within M s₀ s) (k : Covers M State.loadKek_touch)
    (fetched : Option (List Nat)) :
    Within M s₀ (State.loadKek s fetched) := by
  simp only [State.loadKek_touch, covers_union] at k
  obtain ⟨k0, k1, k2, _⟩ := k
  unfold State.loadKek
  repeat' first
    | with_reducible assumption | with_reducible exact .refl _ _ | with_reducible apply State.runKey_within
    | with_reducible apply State.refuseKey_within | with_reducible apply State.onCip_within
    | with_reducible exact may_row (by with_reducible assumption) | intro _ | split

/-- What `execLoadKek` may write. -/
def execLoadKek_touch : Nat :=
  union [State.loadKek_touch, State.begin_touch]

theorem execLoadKek_within {M : Nat} (s : State) (k : Covers M execLoadKek_touch) (req : Req) (fetched : Option
    (List Nat)) :
    Answered M s (execLoadKek req fetched s) := by
  simp only [execLoadKek_touch, covers_union] at k
  obtain ⟨k0, k1, _⟩ := k
  unfold execLoadKek
  repeat' first
    | apply answered_next | with_reducible assumption | with_reducible exact .refl _ _
    | with_reducible apply State.loadKek_within | with_reducible apply State.viaSec_within
    | with_reducible apply State.begin_within | intro _

/-- What `State.report` may write. -/
def State.report_touch : Nat :=
  union [State.runKey_touch, State.refuseKey_touch]

theorem State.report_within {M : Nat} {s₀ s : State} (h : Within M s₀ s) (k : Covers M State.report_touch)
    (op : Nat) :
    Within M s₀ (State.report s op) := by
  simp only [State.report_touch, covers_union] at k
  obtain ⟨k0, k1, _⟩ := k
  unfold State.report
  repeat' first
    | with_reducible assumption | with_reducible exact .refl _ _ | with_reducible apply State.runKey_within
    | with_reducible apply State.refuseKey_within | with_reducible exact may_row (by with_reducible assumption)
    | split

/-- What `State.takeNonce` may write. -/
def State.takeNonce_touch : Nat :=
  union [State.onCip_touch]

theorem State.takeNonce_within {M : Nat} {s₀ s : State} (h : Within M s₀ s) (k : Covers M State.takeNonce_touch) :
    Within M s₀ (State.takeNonce s) := by
  simp only [State.takeNonce_touch, covers_union] at k
  obtain ⟨k0, _⟩ := k
  unfold State.takeNonce
  repeat' first
    | with_reducible assumption | with_reducible exact .refl _ _ | with_reducible apply State.onCip_within
    | with_reducible exact may_row (by with_reducible assumption) | intro _ | split

/-- What `State.attest` may write. -/
def State.attest_touch : Nat :=
  union [State.report_touch, State.takeNonce_touch]

theorem State.attest_within {M : Nat} {s₀ s : State} (h : Within M s₀ s) (k : Covers M State.attest_touch) :
    Within M s₀ (State.attest s) := by
  simp only [State.attest_touch, covers_union] at k
  obtain ⟨k0, k1, _⟩ := k
  unfold State.attest
  repeat' first
    | with_reducible assumption | with_reducible exact .refl _ _ | with_reducible apply State.report_within
    | with_reducible apply State.takeNonce_within

/-- What `execAttest` may write. -/
def execAttest_touch : Nat :=
  union [State.attest_touch, State.begin_touch]

theorem execAttest_within {M : Nat} (s : State) (k : Covers M execAttest_touch) (req : Req) :
    Answered M s (execAttest req s) := by
  simp only [execAttest_touch, covers_union] at k
  obtain ⟨k0, k1, _⟩ := k
  unfold execAttest
  repeat' first
    | apply answered_next | with_reducible assumption | with_reducible exact .refl _ _
    | with_reducible apply State.viaSec_within | with_reducible apply State.attest_within
    | with_reducible apply State.begin_within | intro _

/-- What `execGetCert` may write. -/
def execGetCert_touch : Nat :=
  union [State.report_touch, State.begin_touch]

theorem execGetCert_within {M : Nat} (s : State) (k : Covers M execGetCert_touch) (req : Req) :
    Answered M s (execGetCert req s) := by
  simp only [execGetCert_touch, covers_union] at k
  obtain ⟨k0, k1, _⟩ := k
  unfold execGetCert
  repeat' first
    | apply answered_next | with_reducible assumption | with_reducible exact .refl _ _
    | with_reducible apply State.viaSec_within | with_reducible apply State.report_within
    | with_reducible apply State.begin_within | intro _

/-- What `execGetKekPub` may write. -/
def execGetKekPub_touch : Nat :=
  union [State.report_touch, State.begin_touch]

theorem execGetKekPub_within {M : Nat} (s : State) (k : Covers M execGetKekPub_touch) (req : Req) :
    Answered M s (execGetKekPub req s) := by
  simp only [execGetKekPub_touch, covers_union] at k
  obtain ⟨k0, k1, _⟩ := k
  unfold execGetKekPub
  repeat' first
    | apply answered_next | with_reducible assumption | with_reducible exact .refl _ _
    | with_reducible apply State.viaSec_within | with_reducible apply State.report_within
    | with_reducible apply State.begin_within | intro _

/-- What `State.writeReport` may write. -/
def State.writeReport_touch : Nat :=
  union [State.say_touch]

theorem State.writeReport_within {M : Nat} {s₀ s : State} (h : Within M s₀ s) (k : Covers M State.writeReport_touch) :
    Within M s₀ (State.writeReport s) := by
  simp only [State.writeReport_touch, covers_union] at k
  obtain ⟨k0, _⟩ := k
  unfold State.writeReport
  repeat' first
    | with_reducible assumption | with_reducible exact .refl _ _ | with_reducible apply State.say_within | split

/-- What `State.endKey` may write. -/
def State.endKey_touch : Nat :=
  union [Row.SEC_KEY_STAT_BUSY.bit, State.ring_touch, State.endDma_touch, State.onCip_touch]

theorem State.endKey_within {M : Nat} {s₀ s : State} (h : Within M s₀ s) (k : Covers M State.endKey_touch) :
    Within M s₀ (State.endKey s) := by
  simp only [State.endKey_touch, covers_union] at k
  obtain ⟨k0, k1, k2, k3, _⟩ := k
  unfold State.endKey
  repeat' first
    | with_reducible assumption | with_reducible exact .refl _ _ | with_reducible apply State.ring_within
    | with_reducible apply State.endDma_within | with_reducible apply State.when_within
    | with_reducible apply State.wrb_within | with_reducible apply State.onCip_within
    | with_reducible exact may_row (by with_reducible assumption) | intro _

/-- What `execKeyCommandDone` may write. -/
def execKeyCommandDone_touch : Nat :=
  union [State.writeReport_touch, State.begin_touch, State.endKey_touch]

theorem execKeyCommandDone_within {M : Nat} (s : State) (k : Covers M execKeyCommandDone_touch) :
    Answered M s (execKeyCommandDone s) := by
  simp only [execKeyCommandDone_touch, covers_union] at k
  obtain ⟨k0, k1, k2, _⟩ := k
  unfold execKeyCommandDone
  dsimp only
  repeat' first
    | apply answered_next | with_reducible assumption | with_reducible exact .refl _ _
    | with_reducible apply State.writeReport_within | with_reducible apply State.begin_within
    | with_reducible apply State.endKey_within | with_reducible exact may_row (by with_reducible assumption) | split

/-- What `State.breakXfer` may write. -/
def State.breakXfer_touch : Nat :=
  union [State.refuseKey_touch, State.onCip_touch, State.endKey_touch]

theorem State.breakXfer_within {M : Nat} {s₀ s : State} (h : Within M s₀ s) (k : Covers M State.breakXfer_touch) :
    Within M s₀ (State.breakXfer s) := by
  simp only [State.breakXfer_touch, covers_union] at k
  obtain ⟨k0, k1, k2, _⟩ := k
  unfold State.breakXfer
  repeat' first
    | with_reducible assumption | with_reducible exact .refl _ _ | with_reducible apply State.refuseKey_within
    | with_reducible apply State.onCip_within | with_reducible apply State.endKey_within | intro _ | split

/-- What `State.setSes` may write. -/
def State.setSes_touch : Nat :=
  union [Row.SEC_SES_STAT_STATE.bit, State.ring_touch]

theorem State.setSes_within {M : Nat} {s₀ s : State} (h : Within M s₀ s) (k : Covers M State.setSes_touch)
    (w : Wing) (st : Nat) :
    Within M s₀ (State.setSes s w st) := by
  simp only [State.setSes_touch, covers_union] at k
  obtain ⟨k0, k1, _⟩ := k
  unfold State.setSes
  repeat' first
    | with_reducible assumption | with_reducible exact .refl _ _ | with_reducible apply State.ring_within
    | with_reducible apply State.wr_within | with_reducible exact may_row (by with_reducible assumption) | split

/-- What `State.takeSesCfg` may write. -/
def State.takeSesCfg_touch : Nat :=
  union [Row.SEC_SES_CFG_EN.bit, Row.SEC_SES_CFG_PEER_CHK.bit, Part.inuse.bit]

theorem State.takeSesCfg_within {M : Nat} {s₀ s : State} (h : Within M s₀ s) (k : Covers M State.takeSesCfg_touch)
    (w : Wing) :
    Within M s₀ (State.takeSesCfg s w) := by
  simp only [State.takeSesCfg_touch, covers_union] at k
  obtain ⟨k0, k1, k2, _⟩ := k
  unfold State.takeSesCfg
  repeat' first
    | with_reducible assumption | with_reducible exact .refl _ _ | with_reducible apply State.releaseOne_within

/-- What `State.makeInit` may write. -/
def State.makeInit_touch : Nat :=
  union [Part.free.bit, State.onSes_touch]

theorem State.makeInit_within {M : Nat} {s₀ s : State} (h : Within M s₀ s) (k : Covers M State.makeInit_touch)
    (w : Wing) (session : Nat) :
    Within M s₀ (State.makeInit s w session).2 := by
  simp only [State.makeInit_touch, covers_union] at k
  obtain ⟨k0, k1, _⟩ := k
  unfold State.makeInit
  dsimp only
  repeat' first
    | with_reducible assumption | with_reducible exact .refl _ _ | with_reducible apply State.fresh_within
    | with_reducible apply State.onSes_within

/-- What `State.initSession` may write. -/
def State.initSession_touch : Nat :=
  union [Row.SEC_SES_STAT_SESSION.bit, State.makeInit_touch, State.takeSesCfg_touch, State.setSes_touch,
    State.sendGcc_touch]

theorem State.initSession_within {M : Nat} {s₀ s : State} (h : Within M s₀ s) (k : Covers M State.initSession_touch)
    (w : Wing) :
    Within M s₀ (State.initSession s w) := by
  simp only [State.initSession_touch, covers_union] at k
  obtain ⟨k0, k1, k2, k3, k4, _⟩ := k
  unfold State.initSession
  dsimp only
  repeat' first
    | with_reducible assumption | with_reducible exact .refl _ _ | with_reducible apply State.wr_within
    | with_reducible apply State.makeInit_within | with_reducible apply State.takeSesCfg_within
    | with_reducible apply State.setSes_within | with_reducible apply State.sendGcc_within
    | with_reducible exact may_row (by with_reducible assumption)

/-- What `execKeInitSend` may write. -/
def execKeInitSend_touch : Nat :=
  union [State.initSession_touch, State.begin_touch]

theorem execKeInitSend_within {M : Nat} (s : State) (k : Covers M execKeInitSend_touch) (w : Wing) :
    Answered M s (execKeInitSend w s) := by
  simp only [execKeInitSend_touch, covers_union] at k
  obtain ⟨k0, k1, _⟩ := k
  unfold execKeInitSend
  dsimp only
  repeat' first
    | apply answered_next | with_reducible assumption | with_reducible exact .refl _ _
    | with_reducible apply State.initSession_within | with_reducible apply State.begin_within
    | with_reducible exact may_row (by with_reducible assumption) | split

/-- What `execSessionLifeExpiry` may write. -/
def execSessionLifeExpiry_touch : Nat :=
  union [State.initSession_touch, State.begin_touch]

theorem execSessionLifeExpiry_within {M : Nat} (s : State) (k : Covers M execSessionLifeExpiry_touch) (w : Wing) :
    Answered M s (execSessionLifeExpiry w s) := by
  simp only [execSessionLifeExpiry_touch, covers_union] at k
  obtain ⟨k0, k1, _⟩ := k
  unfold execSessionLifeExpiry
  dsimp only
  repeat' first
    | apply answered_next | with_reducible assumption | with_reducible exact .refl _ _
    | with_reducible apply State.initSession_within | with_reducible apply State.begin_within
    | with_reducible exact may_row (by with_reducible assumption) | split

/-- What `State.sesFault` may write. -/
def State.sesFault_touch : Nat :=
  union [State.onSes_touch, State.setSes_touch]

theorem State.sesFault_within {M : Nat} {s₀ s : State} (h : Within M s₀ s) (k : Covers M State.sesFault_touch)
    (w : Wing) (reason : Nat) :
    Within M s₀ (State.sesFault s w reason) := by
  simp only [State.sesFault_touch, covers_union] at k
  obtain ⟨k0, k1, _⟩ := k
  unfold State.sesFault
  repeat' first
    | with_reducible assumption | with_reducible exact .refl _ _ | with_reducible apply State.onSes_within
    | with_reducible apply State.setSes_within

/-- What `State.makeResp` may write. -/
def State.makeResp_touch : Nat :=
  union [Part.free.bit, State.onSes_touch]

theorem State.makeResp_within {M : Nat} {s₀ s : State} (h : Within M s₀ s) (k : Covers M State.makeResp_touch)
    (w : Wing) (session : Nat) (p : KeMsg) :
    Within M s₀ (State.makeResp s w session p).2 := by
  simp only [State.makeResp_touch, covers_union] at k
  obtain ⟨k0, k1, _⟩ := k
  unfold State.makeResp
  dsimp only
  repeat' first
    | with_reducible assumption | with_reducible exact .refl _ _ | with_reducible apply State.fresh_within
    | with_reducible apply State.onSes_within

/-- What `execKeInitRx` may write. -/
def execKeInitRx_touch : Nat :=
  union [Row.SEC_SES_STAT_SESSION.bit, State.makeResp_touch, State.takeSesCfg_touch, State.setSes_touch,
    State.begin_touch, State.sesFault_touch, State.sendGcc_touch]

theorem execKeInitRx_within {M : Nat} (s : State) (k : Covers M execKeInitRx_touch) (w : Wing) (session : Nat)
    (p : KeMsg) :
    Answered M s (execKeInitRx w session p s) := by
  simp only [execKeInitRx_touch, covers_union] at k
  obtain ⟨k0, k1, k2, k3, k4, k5, k6, _⟩ := k
  unfold execKeInitRx
  dsimp only
  repeat' first
    | apply answered_next | with_reducible assumption | with_reducible exact .refl _ _
    | with_reducible apply State.makeResp_within | with_reducible apply State.wr_within
    | with_reducible apply State.takeSesCfg_within | with_reducible apply State.setSes_within
    | with_reducible apply State.begin_within | with_reducible apply State.sesFault_within
    | with_reducible apply State.sendGcc_within | with_reducible exact may_row (by with_reducible assumption) | split

/-- What `execKeRespRx` may write. -/
def execKeRespRx_touch : Nat :=
  union [State.onSes_touch, State.begin_touch, State.sesFault_touch, State.sendGcc_touch]

theorem execKeRespRx_within {M : Nat} (s : State) (k : Covers M execKeRespRx_touch) (w : Wing) (p : KeMsg) :
    Answered M s (execKeRespRx w p s) := by
  simp only [execKeRespRx_touch, covers_union] at k
  obtain ⟨k0, k1, k2, k3, _⟩ := k
  unfold execKeRespRx
  dsimp only
  repeat' first
    | apply answered_next | with_reducible assumption | with_reducible exact .refl _ _
    | with_reducible apply State.onSes_within | with_reducible apply State.begin_within
    | with_reducible apply State.sesFault_within | with_reducible apply State.sendGcc_within
    | with_reducible exact may_row (by with_reducible assumption) | intro _ | split

/-- What `State.deriveChan` may write. -/
def State.deriveChan_touch : Nat :=
  union [State.derive_touch]

theorem State.deriveChan_within {M : Nat} {s₀ s : State} (h : Within M s₀ s) (k : Covers M State.deriveChan_touch)
    (ch : Nat) :
    Within M s₀ (State.deriveChan s ch) := by
  simp only [State.deriveChan_touch, covers_union] at k
  obtain ⟨k0, _⟩ := k
  unfold State.deriveChan
  repeat' first
    | with_reducible assumption | with_reducible exact .refl _ _ | with_reducible apply State.derive_within
    | with_reducible apply within_foldl | intro _ | split

/-- What `State.sessionUp` may write. -/
def State.sessionUp_touch : Nat :=
  union [Row.SEC_SES_STAT_REASON.bit, State.onSes_touch, State.setSes_touch, State.deriveChan_touch]

theorem State.sessionUp_within {M : Nat} {s₀ s : State} (h : Within M s₀ s) (k : Covers M State.sessionUp_touch)
    (w : Wing) :
    Within M s₀ (State.sessionUp s w) := by
  simp only [State.sessionUp_touch, covers_union] at k
  obtain ⟨k0, k1, k2, k3, _⟩ := k
  unfold State.sessionUp
  dsimp only
  repeat' first
    | with_reducible assumption | with_reducible exact .refl _ _ | with_reducible apply State.wr_within
    | with_reducible apply State.onSes_within | with_reducible apply State.setSes_within
    | with_reducible apply State.upTo_within | with_reducible apply State.deriveChan_within
    | with_reducible exact may_row (by with_reducible assumption) | intro _

/-- What `execKeFinRx` may write. -/
def execKeFinRx_touch : Nat :=
  union [State.sessionUp_touch, State.begin_touch, State.sesFault_touch, State.sendGcc_touch]

theorem execKeFinRx_within {M : Nat} (s : State) (k : Covers M execKeFinRx_touch) (w : Wing) (mac : List Nat) :
    Answered M s (execKeFinRx w mac s) := by
  simp only [execKeFinRx_touch, covers_union] at k
  obtain ⟨k0, k1, k2, k3, _⟩ := k
  unfold execKeFinRx
  dsimp only
  repeat' first
    | apply answered_next | with_reducible assumption | with_reducible exact .refl _ _
    | with_reducible apply State.sessionUp_within | with_reducible apply State.begin_within
    | with_reducible apply State.sesFault_within | with_reducible apply State.when_within
    | with_reducible apply State.sendGcc_within | with_reducible exact may_row (by with_reducible assumption)
    | intro _ | split

/-- What `execKeAbort` may write. -/
def execKeAbort_touch : Nat :=
  union [Row.SEC_SES_STAT_REASON.bit, State.onSes_touch, State.setSes_touch, State.begin_touch, State.sendGcc_touch]

theorem execKeAbort_within {M : Nat} (s : State) (k : Covers M execKeAbort_touch) (w : Wing) :
    Answered M s (execKeAbort w s) := by
  simp only [execKeAbort_touch, covers_union] at k
  obtain ⟨k0, k1, k2, k3, k4, _⟩ := k
  unfold execKeAbort
  dsimp only
  repeat' first
    | apply answered_next | with_reducible assumption | with_reducible exact .refl _ _
    | with_reducible apply State.wr_within | with_reducible apply State.onSes_within
    | with_reducible apply State.setSes_within | with_reducible apply State.begin_within
    | with_reducible apply State.sendGcc_within | with_reducible exact may_row (by with_reducible assumption)
    | intro _ | split

/-- What `execSessionRetry` may write. -/
def execSessionRetry_touch : Nat :=
  union [State.initSession_touch, State.setSes_touch, State.begin_touch]

theorem execSessionRetry_within {M : Nat} (s : State) (k : Covers M execSessionRetry_touch) (w : Wing) :
    Answered M s (execSessionRetry w s) := by
  simp only [execSessionRetry_touch, covers_union] at k
  obtain ⟨k0, k1, k2, _⟩ := k
  unfold execSessionRetry
  dsimp only
  repeat' first
    | apply answered_next | with_reducible assumption | with_reducible exact .refl _ _
    | with_reducible apply State.initSession_within | with_reducible apply State.setSes_within
    | with_reducible apply State.begin_within | with_reducible exact may_row (by with_reducible assumption) | split

/-- What `State.keyReady` may write. -/
def State.keyReady_touch : Nat :=
  union [State.setSlot_touch]

theorem State.keyReady_within {M : Nat} {s₀ s : State} (h : Within M s₀ s) (k : Covers M State.keyReady_touch)
    (n : Nat) (session : Nat) (gen : Nat) :
    Within M s₀ (State.keyReady s n session gen) := by
  simp only [State.keyReady_touch, covers_union] at k
  obtain ⟨k0, _⟩ := k
  unfold State.keyReady
  repeat' first
    | with_reducible assumption | with_reducible exact .refl _ _ | with_reducible apply State.setSlot_within
    | with_reducible exact may_row (by with_reducible assumption) | split

/-- What `execKeyReadyRx` may write. -/
def execKeyReadyRx_touch : Nat :=
  union [State.keyReady_touch, State.begin_touch]

theorem execKeyReadyRx_within {M : Nat} (s : State) (k : Covers M execKeyReadyRx_touch) (w : Wing) (ch : Fin 32)
    (session : Nat) (gen : Nat) :
    Answered M s (execKeyReadyRx w ch session gen s) := by
  simp only [execKeyReadyRx_touch, covers_union] at k
  obtain ⟨k0, k1, _⟩ := k
  unfold execKeyReadyRx
  dsimp only
  repeat' first
    | apply answered_next | with_reducible assumption | with_reducible exact .refl _ _
    | with_reducible apply State.keyReady_within | with_reducible apply State.begin_within | split

/-- What `State.zeroiseWing` may write. -/
def State.zeroiseWing_touch : Nat :=
  union [Row.CIP_CH_STAT_ROLL_PEND.bit, Row.CIP_CH_STAT_RX_KP.bit, Row.CIP_CH_STAT_RX_VOID.bit,
    Row.CIP_CH_STAT_SEG_LOCK.bit, Row.CIP_CH_STAT_TX_KP.bit, Row.CIP_CH_STAT_TX_VOID.bit,
    Row.SEC_SES_STAT_REASON.bit, Row.SEC_SES_STAT_SESSION.bit, State.closeCtx_touch, State.onSes_touch,
    State.zeroSlot_touch, State.setSes_touch, State.onCip_touch, State.endSegment_touch]

theorem State.zeroiseWing_within {M : Nat} {s₀ s : State} (h : Within M s₀ s) (k : Covers M State.zeroiseWing_touch)
    (w : Wing) :
    Within M s₀ (State.zeroiseWing s w) := by
  simp only [State.zeroiseWing_touch, covers_union] at k
  obtain ⟨k0, k1, k2, k3, k4, k5, k6, k7, k8, k9, k10, k11, k12, k13, _⟩ := k
  unfold State.zeroiseWing
  dsimp only
  repeat' first
    | with_reducible assumption | with_reducible exact .refl _ _ | with_reducible apply State.closeCtx_within
    | with_reducible apply State.zero_within | with_reducible apply State.onSes_within
    | with_reducible apply State.zeroSlot_within | with_reducible apply State.setSes_within
    | with_reducible apply State.when_within | with_reducible apply State.onCip_within
    | with_reducible apply State.upTo_within | with_reducible apply State.endSegment_within
    | with_reducible exact may_row (by with_reducible assumption) | with_reducible apply mayAll_cons
    | with_reducible exact mayAll_nil _ | intro _

/-- What `State.zeroise` may write. -/
def State.zeroise_touch : Nat :=
  union [State.onCip_touch, State.zeroiseWing_touch]

theorem State.zeroise_within {M : Nat} {s₀ s : State} (h : Within M s₀ s) (k : Covers M State.zeroise_touch) :
    Within M s₀ (State.zeroise s) := by
  simp only [State.zeroise_touch, covers_union] at k
  obtain ⟨k0, k1, _⟩ := k
  unfold State.zeroise
  repeat' first
    | with_reducible assumption | with_reducible exact .refl _ _ | with_reducible apply State.onCip_within
    | with_reducible apply State.zeroiseWing_within

end Sys2Proof.Machine
end

