-- ==== Sys2Proof/Laws/WithinLanes.lean ====
section
/-!
SUPPORT. `Within` over the operations of Machine/Lanes.lean.
-/

namespace Sys2Proof.Machine

/-- What `State.onLanes` may write. -/
def State.onLanes_touch : Nat :=
  union [Part.corLanes.bit, Part.sds.bit]

theorem State.onLanes_within {M : Nat} {s₀ s : State} (h : Within M s₀ s) (k : Covers M State.onLanes_touch)
    (cor : Bool) (f : LaneSet → LaneSet) :
    Within M s₀ (State.onLanes s cor f) := by
  simp only [State.onLanes_touch, covers_union] at k
  obtain ⟨k0, k1, _⟩ := k
  unfold State.onLanes
  repeat' first
    | with_reducible assumption | with_reducible exact .refl _ _ | split | with_reducible apply within_corLanes
    | with_reducible apply within_sds

/-- What `State.laneLink` may write. -/
def State.laneLink_touch : Nat :=
  union [State.refreshLink_touch]

theorem State.laneLink_within {M : Nat} {s₀ s : State} (h : Within M s₀ s) (k : Covers M State.laneLink_touch)
    (cor : Bool) (l : Nat) :
    Within M s₀ (State.laneLink s cor l) := by
  simp only [State.laneLink_touch, covers_union] at k
  obtain ⟨k0, _⟩ := k
  unfold State.laneLink
  repeat' first
    | with_reducible assumption | with_reducible exact .refl _ _ | with_reducible apply State.refreshLink_within
    | intro _ | split

/-- What `State.upChange` may write. -/
def State.upChange_touch : Nat :=
  union [Row.COR_LANE_EVT_UP_CHANGE.bit, Row.SDS_EVT_UP_CHANGE.bit, State.laneLink_touch, State.evt_touch]

theorem State.upChange_within {M : Nat} {s₀ s : State} (h : Within M s₀ s) (k : Covers M State.upChange_touch)
    (cor : Bool) (l : Nat) :
    Within M s₀ (State.upChange s cor l) := by
  simp only [State.upChange_touch, covers_union] at k
  obtain ⟨k0, k1, k2, k3, _⟩ := k
  unfold State.upChange
  repeat' first
    | with_reducible assumption | with_reducible exact .refl _ _ | with_reducible apply State.laneLink_within
    | with_reducible apply State.evt_within | with_reducible exact may_row (by with_reducible assumption)
    | unfold laneRow | split

/-- What `State.setStage` may write. -/
def State.setStage_touch : Nat :=
  union [Row.COR_LANE_STAT_STAGE.bit, Row.SDS_LANE_STAT_STAGE.bit, State.upChange_touch]

theorem State.setStage_within {M : Nat} {s₀ s : State} (h : Within M s₀ s) (k : Covers M State.setStage_touch)
    (cor : Bool) (l : Nat) (st : Nat) :
    Within M s₀ (State.setStage s cor l st) := by
  simp only [State.setStage_touch, covers_union] at k
  obtain ⟨k0, k1, k2, _⟩ := k
  unfold State.setStage
  dsimp only
  repeat' first
    | with_reducible assumption | with_reducible exact .refl _ _ | with_reducible apply State.upChange_within
    | with_reducible apply State.wr_within | with_reducible exact may_row (by with_reducible assumption)
    | unfold laneRow | split

/-- What `State.markLane` may write. -/
def State.markLane_touch : Nat :=
  union [State.onLanes_touch]

theorem State.markLane_within {M : Nat} {s₀ s : State} (h : Within M s₀ s) (k : Covers M State.markLane_touch)
    (cor : Bool) (l : Nat) (waiting : Bool) (kept : Bool) (warm : Bool) :
    Within M s₀ (State.markLane s cor l waiting kept warm) := by
  simp only [State.markLane_touch, covers_union] at k
  obtain ⟨k0, _⟩ := k
  unfold State.markLane
  repeat' first
    | with_reducible assumption | with_reducible exact .refl _ _ | with_reducible apply State.onLanes_within

/-- What `State.setTaps` may write. -/
def State.setTaps_touch : Nat :=
  union [Row.COR_DFE_ADAPT_TAP_0.bit, Row.COR_DFE_ADAPT_TAP_1.bit, Row.COR_DFE_ADAPT_TAP_2.bit,
    Row.COR_DFE_ADAPT_TAP_3.bit, Row.SDS_DFE_ADAPT_TAP_0.bit, Row.SDS_DFE_ADAPT_TAP_1.bit,
    Row.SDS_DFE_ADAPT_TAP_2.bit, Row.SDS_DFE_ADAPT_TAP_3.bit]

theorem State.setTaps_within {M : Nat} {s₀ s : State} (h : Within M s₀ s) (k : Covers M State.setTaps_touch)
    (cor : Bool) (l : Nat) (taps : List Int) :
    Within M s₀ (State.setTaps s cor l taps) := by
  simp only [State.setTaps_touch, covers_union] at k
  obtain ⟨k0, k1, k2, k3, k4, k5, k6, k7, _⟩ := k
  unfold State.setTaps
  dsimp only
  repeat' first
    | with_reducible assumption | with_reducible exact .refl _ _ | with_reducible apply State.wrS_within
    | with_reducible apply State.upTo_within | with_reducible exact may_row (by with_reducible assumption)
    | unfold laneRow | intro _ | split

/-- What `State.setCtle` may write. -/
def State.setCtle_touch : Nat :=
  union [State.onLanes_touch]

theorem State.setCtle_within {M : Nat} {s₀ s : State} (h : Within M s₀ s) (k : Covers M State.setCtle_touch)
    (cor : Bool) (l : Nat) (i : Nat) :
    Within M s₀ (State.setCtle s cor l i) := by
  simp only [State.setCtle_touch, covers_union] at k
  obtain ⟨k0, _⟩ := k
  unfold State.setCtle
  repeat' first
    | with_reducible assumption | with_reducible exact .refl _ _ | with_reducible apply State.onLanes_within

/-- What `State.laneStart` may write. -/
def State.laneStart_touch : Nat :=
  union [Row.COR_LANE_STAT_ADAPTIVE.bit, Row.COR_LANE_STAT_REVERSED.bit, Row.COR_LANE_STAT_RX_INV.bit,
    Row.SDS_LANE_STAT_ADAPTIVE.bit, Row.SDS_LANE_STAT_REVERSED.bit, Row.SDS_LANE_STAT_RX_INV.bit,
    State.setStage_touch, State.markLane_touch]

theorem State.laneStart_within {M : Nat} {s₀ s : State} (h : Within M s₀ s) (k : Covers M State.laneStart_touch)
    (cor : Bool) (l : Nat) :
    Within M s₀ (State.laneStart s cor l) := by
  simp only [State.laneStart_touch, covers_union] at k
  obtain ⟨k0, k1, k2, k3, k4, k5, k6, k7, _⟩ := k
  unfold State.laneStart
  dsimp only
  repeat' first
    | with_reducible assumption | with_reducible exact .refl _ _ | with_reducible apply State.zero_within
    | with_reducible apply State.setStage_within | with_reducible apply State.markLane_within
    | with_reducible exact may_row (by with_reducible assumption) | with_reducible apply mayAll_cons
    | with_reducible exact mayAll_nil _ | unfold laneRow | split

/-- What `execLaneSignalDetect` may write. -/
def execLaneSignalDetect_touch : Nat :=
  union [State.setCtle_touch, State.setStage_touch, State.begin_touch]

theorem execLaneSignalDetect_within {M : Nat} (s : State) (k : Covers M execLaneSignalDetect_touch) (cor : Bool)
    (l : Fin 32) :
    Answered M s (execLaneSignalDetect cor l s) := by
  simp only [execLaneSignalDetect_touch, covers_union] at k
  obtain ⟨k0, k1, k2, _⟩ := k
  unfold execLaneSignalDetect
  dsimp only
  repeat' first
    | apply answered_next | with_reducible assumption | with_reducible exact .refl _ _
    | with_reducible apply State.setCtle_within | with_reducible apply State.setStage_within
    | with_reducible apply State.begin_within | split

/-- What `State.deskew` may write. -/
def State.deskew_touch : Nat :=
  union [State.setStage_touch]

theorem State.deskew_within {M : Nat} {s₀ s : State} (h : Within M s₀ s) (k : Covers M State.deskew_touch)
    (cor : Bool) (l : Nat) :
    Within M s₀ (State.deskew s cor l) := by
  simp only [State.deskew_touch, covers_union] at k
  obtain ⟨k0, _⟩ := k
  unfold State.deskew
  dsimp only
  repeat' first
    | with_reducible assumption | with_reducible exact .refl _ _ | with_reducible apply State.setStage_within
    | with_reducible apply within_foldl | intro _ | split

/-- What `State.passSix` may write. -/
def State.passSix_touch : Nat :=
  union [State.onLanes_touch, State.deskew_touch]

theorem State.passSix_within {M : Nat} {s₀ s : State} (h : Within M s₀ s) (k : Covers M State.passSix_touch)
    (cor : Bool) (l : Nat) :
    Within M s₀ (State.passSix s cor l) := by
  simp only [State.passSix_touch, covers_union] at k
  obtain ⟨k0, k1, _⟩ := k
  unfold State.passSix
  repeat' first
    | with_reducible assumption | with_reducible exact .refl _ _ | with_reducible apply State.onLanes_within
    | with_reducible apply State.deskew_within

/-- What `State.setFom` may write. -/
def State.setFom_touch : Nat :=
  union [Row.COR_LANE_FOM_FOM.bit, Row.SDS_LANE_FOM_FOM.bit]

theorem State.setFom_within {M : Nat} {s₀ s : State} (h : Within M s₀ s) (k : Covers M State.setFom_touch)
    (cor : Bool) (l : Nat) (m : SlicerRun) :
    Within M s₀ (State.setFom s cor l m) := by
  simp only [State.setFom_touch, covers_union] at k
  obtain ⟨k0, k1, _⟩ := k
  unfold State.setFom
  repeat' first
    | with_reducible assumption | with_reducible exact .refl _ _ | with_reducible apply State.wrS_within
    | with_reducible exact may_row (by with_reducible assumption) | unfold laneRow | split

/-- What `State.adaptBy` may write. -/
def State.adaptBy_touch : Nat :=
  union [State.setCtle_touch, State.setTaps_touch]

theorem State.adaptBy_within {M : Nat} {s₀ s : State} (h : Within M s₀ s) (k : Covers M State.adaptBy_touch)
    (cor : Bool) (l : Nat) (m : SlicerRun) :
    Within M s₀ (State.adaptBy s cor l m) := by
  simp only [State.adaptBy_touch, covers_union] at k
  obtain ⟨k0, k1, _⟩ := k
  unfold State.adaptBy
  dsimp only
  repeat' first
    | with_reducible assumption | with_reducible exact .refl _ _ | with_reducible apply State.setCtle_within
    | with_reducible apply State.setTaps_within

/-- What `State.adapt` may write. -/
def State.adapt_touch : Nat :=
  union [Row.COR_LANE_STAT_ADAPTIVE.bit, Row.SDS_LANE_STAT_ADAPTIVE.bit, State.setTaps_touch]

theorem State.adapt_within {M : Nat} {s₀ s : State} (h : Within M s₀ s) (k : Covers M State.adapt_touch)
    (cor : Bool) (l : Nat) :
    Within M s₀ (State.adapt s cor l) := by
  simp only [State.adapt_touch, covers_union] at k
  obtain ⟨k0, k1, k2, _⟩ := k
  unfold State.adapt
  repeat' first
    | with_reducible assumption | with_reducible exact .refl _ _ | with_reducible apply State.setTaps_within
    | with_reducible apply State.wrb_within | with_reducible exact may_row (by with_reducible assumption)
    | unfold laneRow | split

/-- What `State.stepFom` may write. -/
def State.stepFom_touch : Nat :=
  union [State.adapt_touch, State.passSix_touch, State.setStage_touch, State.setFom_touch]

theorem State.stepFom_within {M : Nat} {s₀ s : State} (h : Within M s₀ s) (k : Covers M State.stepFom_touch)
    (cor : Bool) (l : Nat) (r : LaneResult) :
    Within M s₀ (State.stepFom s cor l r) := by
  simp only [State.stepFom_touch, covers_union] at k
  obtain ⟨k0, k1, k2, k3, _⟩ := k
  unfold State.stepFom
  dsimp only
  repeat' first
    | with_reducible assumption | with_reducible exact .refl _ _ | with_reducible apply State.adapt_within
    | with_reducible apply State.passSix_within | with_reducible apply State.setStage_within
    | with_reducible apply State.setFom_within | with_reducible exact may_row (by with_reducible assumption) | split

/-- What `State.stepAdapt` may write. -/
def State.stepAdapt_touch : Nat :=
  union [State.passSix_touch, State.setFom_touch, State.adaptBy_touch]

theorem State.stepAdapt_within {M : Nat} {s₀ s : State} (h : Within M s₀ s) (k : Covers M State.stepAdapt_touch)
    (cor : Bool) (l : Nat) (r : LaneResult) :
    Within M s₀ (State.stepAdapt s cor l r) := by
  simp only [State.stepAdapt_touch, covers_union] at k
  obtain ⟨k0, k1, k2, _⟩ := k
  unfold State.stepAdapt
  dsimp only
  repeat' first
    | with_reducible assumption | with_reducible exact .refl _ _ | with_reducible apply State.passSix_within
    | with_reducible apply State.setFom_within | with_reducible apply State.adaptBy_within | split

/-- What `State.failLane` may write. -/
def State.failLane_touch : Nat :=
  union [Row.COR_LANE_CNT_FAILS.bit, Row.COR_LANE_STAT_FAIL_REASON.bit, Row.SDS_LANE_CNT_FAILS.bit,
    Row.SDS_LANE_STAT_FAIL_REASON.bit, State.countWrap_touch, State.setStage_touch, State.markLane_touch,
    State.emit_touch]

theorem State.failLane_within {M : Nat} {s₀ s : State} (h : Within M s₀ s) (k : Covers M State.failLane_touch)
    (cor : Bool) (l : Nat) (reason : Nat) :
    Within M s₀ (State.failLane s cor l reason) := by
  simp only [State.failLane_touch, covers_union] at k
  obtain ⟨k0, k1, k2, k3, k4, k5, k6, k7, _⟩ := k
  unfold State.failLane
  dsimp only
  repeat' first
    | with_reducible assumption | with_reducible exact .refl _ _ | with_reducible apply State.countWrap_within
    | with_reducible apply State.wr_within | with_reducible apply State.setStage_within
    | with_reducible apply State.markLane_within | with_reducible apply State.emit_within
    | with_reducible exact may_row (by with_reducible assumption) | unfold laneRow | split

/-- What `State.failPort` may write. -/
def State.failPort_touch : Nat :=
  union [State.failLane_touch]

theorem State.failPort_within {M : Nat} {s₀ s : State} (h : Within M s₀ s) (k : Covers M State.failPort_touch)
    (cor : Bool) (l : Nat) (reason : Nat) :
    Within M s₀ (State.failPort s cor l reason) := by
  simp only [State.failPort_touch, covers_union] at k
  obtain ⟨k0, _⟩ := k
  unfold State.failPort
  repeat' first
    | with_reducible assumption | with_reducible exact .refl _ _ | with_reducible apply State.failLane_within
    | with_reducible apply within_foldl | intro _

/-- What `State.laneIsUp` may write. -/
def State.laneIsUp_touch : Nat :=
  union [Row.COR_LANE_CNT_BRINGUPS.bit, Row.COR_LANE_STAT_FAIL_REASON.bit, Row.SDS_LANE_CNT_BRINGUPS.bit,
    Row.SDS_LANE_STAT_FAIL_REASON.bit, State.countWrap_touch, State.setStage_touch, State.markLane_touch]

theorem State.laneIsUp_within {M : Nat} {s₀ s : State} (h : Within M s₀ s) (k : Covers M State.laneIsUp_touch)
    (cor : Bool) (l : Nat) :
    Within M s₀ (State.laneIsUp s cor l) := by
  simp only [State.laneIsUp_touch, covers_union] at k
  obtain ⟨k0, k1, k2, k3, k4, k5, k6, _⟩ := k
  unfold State.laneIsUp
  dsimp only
  repeat' first
    | with_reducible assumption | with_reducible exact .refl _ _ | with_reducible apply State.countWrap_within
    | with_reducible apply State.wr_within | with_reducible apply State.setStage_within
    | with_reducible apply State.markLane_within | with_reducible exact may_row (by with_reducible assumption)
    | unfold laneRow | split

/-- What `State.stepDeskew` may write. -/
def State.stepDeskew_touch : Nat :=
  union [Row.COR_LANE_STAT_REVERSED.bit, Row.SDS_LANE_STAT_REVERSED.bit, State.failPort_touch, State.laneIsUp_touch]

theorem State.stepDeskew_within {M : Nat} {s₀ s : State} (h : Within M s₀ s) (k : Covers M State.stepDeskew_touch)
    (cor : Bool) (l : Nat) (r : LaneResult) :
    Within M s₀ (State.stepDeskew s cor l r) := by
  simp only [State.stepDeskew_touch, covers_union] at k
  obtain ⟨k0, k1, k2, k3, _⟩ := k
  unfold State.stepDeskew
  dsimp only
  repeat' first
    | with_reducible assumption | with_reducible exact .refl _ _ | with_reducible apply State.failPort_within
    | with_reducible apply State.wr_within | with_reducible apply State.laneIsUp_within
    | with_reducible apply within_foldl | with_reducible exact may_row (by with_reducible assumption)
    | unfold laneRow | intro _ | split

/-- What `State.laneStep` may write. -/
def State.laneStep_touch : Nat :=
  union [Row.COR_LANE_STAT_RX_INV.bit, Row.SDS_LANE_STAT_RX_INV.bit, State.stepDeskew_touch, State.setCtle_touch,
    State.stepAdapt_touch, State.stepFom_touch, State.passSix_touch, State.setStage_touch]

theorem State.laneStep_within {M : Nat} {s₀ s : State} (h : Within M s₀ s) (k : Covers M State.laneStep_touch)
    (cor : Bool) (l : Nat) (r : LaneResult) :
    Within M s₀ (State.laneStep s cor l r) := by
  simp only [State.laneStep_touch, covers_union] at k
  obtain ⟨k0, k1, k2, k3, k4, k5, k6, k7, _⟩ := k
  unfold State.laneStep
  dsimp only
  repeat' first
    | with_reducible assumption | with_reducible exact .refl _ _ | with_reducible apply State.stepDeskew_within
    | with_reducible apply State.setCtle_within | with_reducible apply State.stepAdapt_within
    | with_reducible apply State.stepFom_within | with_reducible apply State.passSix_within
    | with_reducible apply State.setStage_within | with_reducible apply State.wrb_within
    | with_reducible exact may_row (by with_reducible assumption) | unfold laneRow | split

/-- What `execLaneStepComplete` may write. -/
def execLaneStepComplete_touch : Nat :=
  union [State.laneStep_touch, State.begin_touch]

theorem execLaneStepComplete_within {M : Nat} (s : State) (k : Covers M execLaneStepComplete_touch) (cor : Bool)
    (l : Fin 32) (r : LaneResult) :
    Answered M s (execLaneStepComplete cor l r s) := by
  simp only [execLaneStepComplete_touch, covers_union] at k
  obtain ⟨k0, k1, _⟩ := k
  unfold execLaneStepComplete
  dsimp only
  repeat' first
    | apply answered_next | with_reducible assumption | with_reducible exact .refl _ _
    | with_reducible apply State.laneStep_within | with_reducible apply State.begin_within | split

/-- What `execLaneFail` may write. -/
def execLaneFail_touch : Nat :=
  union [State.failPort_touch, State.begin_touch, State.failLane_touch]

theorem execLaneFail_within {M : Nat} (s : State) (k : Covers M execLaneFail_touch) (cor : Bool) (l : Fin 32)
    (reason : Fin 16) :
    Answered M s (execLaneFail cor l reason s) := by
  simp only [execLaneFail_touch, covers_union] at k
  obtain ⟨k0, k1, k2, _⟩ := k
  unfold execLaneFail
  dsimp only
  repeat' first
    | apply answered_next | with_reducible assumption | with_reducible exact .refl _ _
    | with_reducible apply State.failPort_within | with_reducible apply State.begin_within
    | with_reducible apply State.failLane_within | split

/-- What `State.retryLane` may write. -/
def State.retryLane_touch : Nat :=
  union [State.laneStart_touch]

theorem State.retryLane_within {M : Nat} {s₀ s : State} (h : Within M s₀ s) (k : Covers M State.retryLane_touch)
    (cor : Bool) (l : Nat) :
    Within M s₀ (State.retryLane s cor l) := by
  simp only [State.retryLane_touch, covers_union] at k
  obtain ⟨k0, _⟩ := k
  unfold State.retryLane
  dsimp only
  repeat' first
    | with_reducible assumption | with_reducible exact .refl _ _ | with_reducible apply State.laneStart_within
    | with_reducible apply within_foldl | with_reducible exact may_row (by with_reducible assumption) | intro _
    | split

/-- What `execLaneRetry` may write. -/
def execLaneRetry_touch : Nat :=
  union [State.retryLane_touch, State.begin_touch]

theorem execLaneRetry_within {M : Nat} (s : State) (k : Covers M execLaneRetry_touch) (cor : Bool) (l : Fin 32) :
    Answered M s (execLaneRetry cor l s) := by
  simp only [execLaneRetry_touch, covers_union] at k
  obtain ⟨k0, k1, _⟩ := k
  unfold execLaneRetry
  dsimp only
  repeat' first
    | apply answered_next | with_reducible assumption | with_reducible exact .refl _ _
    | with_reducible apply State.retryLane_within | with_reducible apply State.begin_within | split

/-- What `State.restartLane` may write. -/
def State.restartLane_touch : Nat :=
  union [State.laneStart_touch]

theorem State.restartLane_within {M : Nat} {s₀ s : State} (h : Within M s₀ s) (k : Covers M State.restartLane_touch)
    (cor : Bool) (l : Nat) :
    Within M s₀ (State.restartLane s cor l) := by
  simp only [State.restartLane_touch, covers_union] at k
  obtain ⟨k0, _⟩ := k
  unfold State.restartLane
  repeat' first
    | with_reducible assumption | with_reducible exact .refl _ _ | with_reducible apply State.laneStart_within
    | with_reducible apply State.when_within | intro _

/-- What `execLaneRestart` may write. -/
def execLaneRestart_touch : Nat :=
  union [State.restartLane_touch, State.begin_touch]

theorem execLaneRestart_within {M : Nat} (s : State) (k : Covers M execLaneRestart_touch) (req : Req) (cor : Bool)
    (l : Fin 32) :
    Answered M s (execLaneRestart req cor l s) := by
  simp only [execLaneRestart_touch, covers_union] at k
  obtain ⟨k0, k1, _⟩ := k
  unfold execLaneRestart
  repeat' first
    | apply answered_next | with_reducible assumption | with_reducible exact .refl _ _
    | with_reducible apply State.restartLane_within | with_reducible apply State.via_within
    | with_reducible apply State.begin_within | intro _

/-- What `execLaneDown` may write. -/
def execLaneDown_touch : Nat :=
  union [State.laneStart_touch, State.markLane_touch, State.begin_touch]

theorem execLaneDown_within {M : Nat} (s : State) (k : Covers M execLaneDown_touch) (cor : Bool) (l : Fin 32) :
    Answered M s (execLaneDown cor l s) := by
  simp only [execLaneDown_touch, covers_union] at k
  obtain ⟨k0, k1, k2, _⟩ := k
  unfold execLaneDown
  dsimp only
  repeat' first
    | apply answered_next | with_reducible assumption | with_reducible exact .refl _ _
    | with_reducible apply State.laneStart_within | with_reducible apply State.markLane_within
    | with_reducible apply State.begin_within | split

/-- What `State.measureLane` may write. -/
def State.measureLane_touch : Nat :=
  union [State.setFom_touch, State.adaptBy_touch]

theorem State.measureLane_within {M : Nat} {s₀ s : State} (h : Within M s₀ s) (k : Covers M State.measureLane_touch)
    (cor : Bool) (l : Nat) (m : SlicerRun) :
    Within M s₀ (State.measureLane s cor l m) := by
  simp only [State.measureLane_touch, covers_union] at k
  obtain ⟨k0, k1, _⟩ := k
  unfold State.measureLane
  dsimp only
  repeat' first
    | with_reducible assumption | with_reducible exact .refl _ _ | with_reducible apply State.setFom_within
    | with_reducible apply State.when_within | with_reducible apply State.adaptBy_within
    | with_reducible exact may_row (by with_reducible assumption) | intro _ | split

/-- What `State.checkPattern` may write. -/
def State.checkPattern_touch : Nat :=
  union [Row.COR_LANE_STAT_PRBS_LOCK.bit, Row.COR_PRBS_ERR_COUNT.bit, Row.SDS_LANE_STAT_PRBS_LOCK.bit,
    Row.SDS_PRBS_ERR_COUNT.bit, State.onLanes_touch, State.count_touch]

theorem State.checkPattern_within {M : Nat} {s₀ s : State} (h : Within M s₀ s)
    (k : Covers M State.checkPattern_touch) (cor : Bool) (l : Nat) (m : SlicerRun) :
    Within M s₀ (State.checkPattern s cor l m) := by
  simp only [State.checkPattern_touch, covers_union] at k
  obtain ⟨k0, k1, k2, k3, k4, k5, _⟩ := k
  unfold State.checkPattern
  dsimp only
  repeat' first
    | with_reducible assumption | with_reducible exact .refl _ _ | with_reducible apply State.onLanes_within
    | with_reducible apply State.count_within | with_reducible apply State.wrb_within
    | with_reducible apply within_foldl | with_reducible exact may_row (by with_reducible assumption)
    | unfold laneRow | intro _ | split

/-- What `execFomMeasure` may write. -/
def execFomMeasure_touch : Nat :=
  union [State.measureLane_touch, State.checkPattern_touch, State.begin_touch]

theorem execFomMeasure_within {M : Nat} (s : State) (k : Covers M execFomMeasure_touch) (cor : Bool) (l : Fin 32)
    (run : SlicerRun) :
    Answered M s (execFomMeasure cor l run s) := by
  simp only [execFomMeasure_touch, covers_union] at k
  obtain ⟨k0, k1, k2, _⟩ := k
  unfold execFomMeasure
  dsimp only
  repeat' first
    | apply answered_next | with_reducible assumption | with_reducible exact .refl _ _
    | with_reducible apply State.measureLane_within | with_reducible apply State.checkPattern_within
    | with_reducible apply State.begin_within | split

/-- What `execLaneAdaptStart` may write. -/
def execLaneAdaptStart_touch : Nat :=
  union [State.adapt_touch, State.begin_touch]

theorem execLaneAdaptStart_within {M : Nat} (s : State) (k : Covers M execLaneAdaptStart_touch) (cor : Bool)
    (l : Fin 32) :
    Answered M s (execLaneAdaptStart cor l s) := by
  simp only [execLaneAdaptStart_touch, covers_union] at k
  obtain ⟨k0, k1, _⟩ := k
  unfold execLaneAdaptStart
  dsimp only
  repeat' first
    | apply answered_next | with_reducible assumption | with_reducible exact .refl _ _
    | with_reducible apply State.adapt_within | with_reducible apply State.begin_within
    | with_reducible exact may_row (by with_reducible assumption) | split

/-- What `State.setRxHalf` may write. -/
def State.setRxHalf_touch : Nat :=
  union [Row.COR_LANE_STAT_RX_HALF.bit, Row.SDS_LANE_STAT_RX_HALF.bit, State.laneStart_touch, State.setStage_touch,
    State.markLane_touch]

theorem State.setRxHalf_within {M : Nat} {s₀ s : State} (h : Within M s₀ s) (k : Covers M State.setRxHalf_touch)
    (cor : Bool) (l : Nat) (st : Nat) :
    Within M s₀ (State.setRxHalf s cor l st) := by
  simp only [State.setRxHalf_touch, covers_union] at k
  obtain ⟨k0, k1, k2, k3, k4, _⟩ := k
  unfold State.setRxHalf
  dsimp only
  repeat' first
    | with_reducible assumption | with_reducible exact .refl _ _ | with_reducible apply State.laneStart_within
    | with_reducible apply State.wr_within | with_reducible apply State.setStage_within
    | with_reducible apply State.markLane_within | with_reducible exact may_row (by with_reducible assumption)
    | unfold laneRow | split

/-- What `State.applyLane` may write. -/
def State.applyLane_touch : Nat :=
  union [Row.COR_LANE_STAT_TX_HALF.bit, Row.SDS_LANE_STAT_TX_HALF.bit, State.setRxHalf_touch, State.laneLink_touch]

theorem State.applyLane_within {M : Nat} {s₀ s : State} (h : Within M s₀ s) (k : Covers M State.applyLane_touch)
    (cor : Bool) (l : Nat) :
    Within M s₀ (State.applyLane s cor l) := by
  simp only [State.applyLane_touch, covers_union] at k
  obtain ⟨k0, k1, k2, k3, _⟩ := k
  unfold State.applyLane
  dsimp only
  repeat' first
    | with_reducible assumption | with_reducible exact .refl _ _ | with_reducible apply State.setRxHalf_within
    | with_reducible apply State.wr_within | with_reducible apply State.laneLink_within
    | with_reducible exact may_row (by with_reducible assumption) | unfold laneRow | split

/-- What `State.applyLanes` may write. -/
def State.applyLanes_touch : Nat :=
  union [State.applyLane_touch]

theorem State.applyLanes_within {M : Nat} {s₀ s : State} (h : Within M s₀ s) (k : Covers M State.applyLanes_touch) :
    Within M s₀ (State.applyLanes s) := by
  simp only [State.applyLanes_touch, covers_union] at k
  obtain ⟨k0, _⟩ := k
  unfold State.applyLanes
  repeat' first
    | with_reducible assumption | with_reducible exact .refl _ _ | with_reducible apply State.applyLane_within
    | with_reducible apply State.upTo_within | intro _

end Sys2Proof.Machine
end

