-- ==== Sys2Proof/Laws/WithinReferences.lean ====
section
/-!
SUPPORT. `Within` over the operations of Machine/References.lean.
-/

namespace Sys2Proof.Machine

/-- What `State.setRef` may write. -/
def State.setRef_touch : Nat :=
  union [Row.REF_EVT_STATE_CHANGE.bit, Row.REF_STAT_STATE.bit, State.evt_touch]

theorem State.setRef_within {M : Nat} {s₀ s : State} (h : Within M s₀ s) (k : Covers M State.setRef_touch)
    (st : Nat) :
    Within M s₀ (State.setRef s st) := by
  simp only [State.setRef_touch, covers_union] at k
  obtain ⟨k0, k1, k2, _⟩ := k
  unfold State.setRef
  repeat' first
    | with_reducible assumption | with_reducible exact .refl _ _ | with_reducible apply State.wr_within
    | with_reducible apply State.evt_within | with_reducible exact may_row (by with_reducible assumption) | split

/-- What `State.setActive` may write. -/
def State.setActive_touch : Nat :=
  union [Row.REF_EVT_ACT_CHANGE.bit, Row.REF_STAT_ACTIVE.bit, State.evt_touch]

theorem State.setActive_within {M : Nat} {s₀ s : State} (h : Within M s₀ s) (k : Covers M State.setActive_touch)
    (a : Nat) :
    Within M s₀ (State.setActive s a) := by
  simp only [State.setActive_touch, covers_union] at k
  obtain ⟨k0, k1, k2, _⟩ := k
  unfold State.setActive
  repeat' first
    | with_reducible assumption | with_reducible exact .refl _ _ | with_reducible apply State.wr_within
    | with_reducible apply State.evt_within | with_reducible exact may_row (by with_reducible assumption) | split

/-- What `State.showQl` may write. -/
def State.showQl_touch : Nat :=
  union [Row.REF_EVT_TX_QL_CHANGE.bit, Row.REF_STAT_TX_QL.bit, State.evt_touch]

theorem State.showQl_within {M : Nat} {s₀ s : State} (h : Within M s₀ s) (k : Covers M State.showQl_touch) :
    Within M s₀ (State.showQl s) := by
  simp only [State.showQl_touch, covers_union] at k
  obtain ⟨k0, k1, k2, _⟩ := k
  unfold State.showQl
  repeat' first
    | with_reducible assumption | with_reducible exact .refl _ _ | with_reducible apply State.wr_within
    | with_reducible apply State.evt_within | with_reducible exact may_row (by with_reducible assumption) | split

/-- What `State.showDisagree` may write. -/
def State.showDisagree_touch : Nat :=
  union [Row.REF_EVT_DISAGREE.bit, Row.REF_STAT_DISAGREE.bit, State.evt_touch]

theorem State.showDisagree_within {M : Nat} {s₀ s : State} (h : Within M s₀ s)
    (k : Covers M State.showDisagree_touch) :
    Within M s₀ (State.showDisagree s) := by
  simp only [State.showDisagree_touch, covers_union] at k
  obtain ⟨k0, k1, k2, _⟩ := k
  unfold State.showDisagree
  dsimp only
  repeat' first
    | with_reducible assumption | with_reducible exact .refl _ _ | with_reducible apply State.evt_within
    | with_reducible apply State.when_within | with_reducible apply State.wrb_within
    | with_reducible exact may_row (by with_reducible assumption) | intro _

/-- What `State.setFreq` may write. -/
def State.setFreq_touch : Nat :=
  union [Row.REF_STAT_OFFSET.bit, State.onDpll_touch]

theorem State.setFreq_within {M : Nat} {s₀ s : State} (h : Within M s₀ s) (k : Covers M State.setFreq_touch)
    (f : Int) :
    Within M s₀ (State.setFreq s f) := by
  simp only [State.setFreq_touch, covers_union] at k
  obtain ⟨k0, k1, _⟩ := k
  unfold State.setFreq
  repeat' first
    | with_reducible assumption | with_reducible exact .refl _ _ | with_reducible apply State.wrS_within
    | with_reducible apply State.onDpll_within | with_reducible exact may_row (by with_reducible assumption)

/-- What `State.holdover` may write. -/
def State.holdover_touch : Nat :=
  union [State.setFreq_touch, State.setRef_touch, State.onDpll_touch]

theorem State.holdover_within {M : Nat} {s₀ s : State} (h : Within M s₀ s) (k : Covers M State.holdover_touch)
    (f : Int) :
    Within M s₀ (State.holdover s f) := by
  simp only [State.holdover_touch, covers_union] at k
  obtain ⟨k0, k1, k2, _⟩ := k
  unfold State.holdover
  repeat' first
    | with_reducible assumption | with_reducible exact .refl _ _ | with_reducible apply State.setFreq_within
    | with_reducible apply State.setRef_within | with_reducible apply State.onDpll_within
    | with_reducible exact may_row (by with_reducible assumption) | intro _ | split

/-- What `State.switchTo` may write. -/
def State.switchTo_touch : Nat :=
  union [Row.REF_STAT_TARGET.bit, State.setRef_touch]

theorem State.switchTo_within {M : Nat} {s₀ s : State} (h : Within M s₀ s) (k : Covers M State.switchTo_touch)
    (c : Nat) :
    Within M s₀ (State.switchTo s c) := by
  simp only [State.switchTo_touch, covers_union] at k
  obtain ⟨k0, k1, _⟩ := k
  unfold State.switchTo
  repeat' first
    | with_reducible assumption | with_reducible exact .refl _ _ | with_reducible apply State.wr_within
    | with_reducible apply State.setRef_within | with_reducible exact may_row (by with_reducible assumption)

/-- What `State.acquire` may write. -/
def State.acquire_touch : Nat :=
  union [Row.REF_STAT_TARGET.bit, State.setRef_touch, State.setActive_touch]

theorem State.acquire_within {M : Nat} {s₀ s : State} (h : Within M s₀ s) (k : Covers M State.acquire_touch)
    (c : Nat) :
    Within M s₀ (State.acquire s c) := by
  simp only [State.acquire_touch, covers_union] at k
  obtain ⟨k0, k1, k2, _⟩ := k
  unfold State.acquire
  repeat' first
    | with_reducible assumption | with_reducible exact .refl _ _ | with_reducible apply State.wr_within
    | with_reducible apply State.setRef_within | with_reducible apply State.setActive_within
    | with_reducible exact may_row (by with_reducible assumption)

/-- What `State.reTarget` may write. -/
def State.reTarget_touch : Nat :=
  union [State.holdover_touch, State.switchTo_touch]

theorem State.reTarget_within {M : Nat} {s₀ s : State} (h : Within M s₀ s) (k : Covers M State.reTarget_touch) :
    Within M s₀ (State.reTarget s) := by
  simp only [State.reTarget_touch, covers_union] at k
  obtain ⟨k0, k1, _⟩ := k
  unfold State.reTarget
  dsimp only
  repeat' first
    | with_reducible assumption | with_reducible exact .refl _ _ | with_reducible apply State.holdover_within
    | with_reducible apply State.switchTo_within | with_reducible apply State.when_within
    | with_reducible exact may_row (by with_reducible assumption) | intro _ | split

/-- What `State.evaluate` may write. -/
def State.evaluate_touch : Nat :=
  union [State.acquire_touch, State.holdover_touch, State.reTarget_touch, State.switchTo_touch]

theorem State.evaluate_within {M : Nat} {s₀ s : State} (h : Within M s₀ s) (k : Covers M State.evaluate_touch) :
    Within M s₀ (State.evaluate s) := by
  simp only [State.evaluate_touch, covers_union] at k
  obtain ⟨k0, k1, k2, k3, _⟩ := k
  unfold State.evaluate
  dsimp only
  repeat' first
    | with_reducible assumption | with_reducible exact .refl _ _ | with_reducible apply State.acquire_within
    | with_reducible apply State.holdover_within | with_reducible apply State.reTarget_within
    | with_reducible apply State.switchTo_within | with_reducible apply State.when_within
    | with_reducible exact may_row (by with_reducible assumption) | intro _ | split

/-- What `State.moveOutput` may write. -/
def State.moveOutput_touch : Nat :=
  union [State.setFreq_touch, State.onDpll_touch]

theorem State.moveOutput_within {M : Nat} {s₀ s : State} (h : Within M s₀ s) (k : Covers M State.moveOutput_touch) :
    Within M s₀ (State.moveOutput s) := by
  simp only [State.moveOutput_touch, covers_union] at k
  obtain ⟨k0, k1, _⟩ := k
  unfold State.moveOutput
  repeat' first
    | with_reducible assumption | with_reducible exact .refl _ _ | with_reducible apply State.setFreq_within
    | with_reducible apply State.onDpll_within

/-- What `State.measureCands` may write. -/
def State.measureCands_touch : Nat :=
  union [Row.REF_CAND_STAT_OFFSET.bit]

theorem State.measureCands_within {M : Nat} {s₀ s : State} (h : Within M s₀ s)
    (k : Covers M State.measureCands_touch) (offsets : List (Option Int)) :
    Within M s₀ (State.measureCands s offsets) := by
  simp only [State.measureCands_touch, covers_union] at k
  obtain ⟨k0, _⟩ := k
  unfold State.measureCands
  repeat' first
    | with_reducible assumption | with_reducible exact .refl _ _ | with_reducible apply State.wrS_within
    | with_reducible apply State.when_within | with_reducible apply State.upTo_within
    | with_reducible exact may_row (by with_reducible assumption) | intro _ | split

/-- What `execRefSelect` may write. -/
def execRefSelect_touch : Nat :=
  union [State.checkCands_touch, State.measureCands_touch, State.moveOutput_touch, State.showQl_touch,
    State.showDisagree_touch, State.evaluate_touch, State.begin_touch]

theorem execRefSelect_within {M : Nat} (s : State) (k : Covers M execRefSelect_touch) (offsets : List (Option Int)) :
    Answered M s (execRefSelect offsets s) := by
  simp only [execRefSelect_touch, covers_union] at k
  obtain ⟨k0, k1, k2, k3, k4, k5, k6, _⟩ := k
  unfold execRefSelect
  dsimp only
  repeat' first
    | apply answered_next | with_reducible assumption | with_reducible exact .refl _ _
    | with_reducible apply State.checkCands_within | with_reducible apply State.measureCands_within
    | with_reducible apply State.moveOutput_within | with_reducible apply State.showQl_within
    | with_reducible apply State.showDisagree_within | with_reducible apply State.evaluate_within
    | with_reducible apply State.begin_within | with_reducible apply State.when_within | intro _

/-- What `State.qualify` may write. -/
def State.qualify_touch : Nat :=
  union [Row.REF_CAND_STAT_OFFSET.bit, Row.REF_CAND_STAT_QUALIFIED.bit, Row.REF_CAND_STAT_WTR_RUN.bit,
    Row.REF_EVT_CAND_CHANGE.bit, State.showCand_touch, State.evt_touch, State.onDpll_touch]

theorem State.qualify_within {M : Nat} {s₀ s : State} (h : Within M s₀ s) (k : Covers M State.qualify_touch)
    (i : Nat) (offset : Int) :
    Within M s₀ (State.qualify s i offset) := by
  simp only [State.qualify_touch, covers_union] at k
  obtain ⟨k0, k1, k2, k3, k4, k5, k6, _⟩ := k
  unfold State.qualify
  dsimp only
  repeat' first
    | with_reducible assumption | with_reducible exact .refl _ _ | with_reducible apply State.showCand_within
    | with_reducible apply State.wrS_within | with_reducible apply State.evt_within
    | with_reducible apply State.onDpll_within | with_reducible apply State.wrb_within
    | with_reducible exact may_row (by with_reducible assumption)

/-- What `execCandQualify` may write. -/
def execCandQualify_touch : Nat :=
  union [State.qualify_touch, State.begin_touch]

theorem execCandQualify_within {M : Nat} (s : State) (k : Covers M execCandQualify_touch) (i : Fin 8) (offset : Int) :
    Answered M s (execCandQualify i offset s) := by
  simp only [execCandQualify_touch, covers_union] at k
  obtain ⟨k0, k1, _⟩ := k
  unfold execCandQualify
  dsimp only
  repeat' first
    | apply answered_next | with_reducible assumption | with_reducible exact .refl _ _
    | with_reducible apply State.qualify_within | with_reducible apply State.begin_within
    | with_reducible apply State.when_within | with_reducible exact may_row (by with_reducible assumption) | intro _

/-- What `execCandDisqualify` may write. -/
def execCandDisqualify_touch : Nat :=
  union [Row.REF_CAND_STAT_OFFSET.bit, State.loseCand_touch, State.begin_touch]

theorem execCandDisqualify_within {M : Nat} (s : State) (k : Covers M execCandDisqualify_touch) (i : Fin 8)
    (offset : Int) :
    Answered M s (execCandDisqualify i offset s) := by
  simp only [execCandDisqualify_touch, covers_union] at k
  obtain ⟨k0, k1, k2, _⟩ := k
  unfold execCandDisqualify
  dsimp only
  repeat' first
    | apply answered_next | with_reducible assumption | with_reducible exact .refl _ _
    | with_reducible apply State.loseCand_within | with_reducible apply State.wrS_within
    | with_reducible apply State.begin_within | with_reducible apply State.when_within
    | with_reducible exact may_row (by with_reducible assumption) | intro _

/-- What `execCandWtrExpiry` may write. -/
def execCandWtrExpiry_touch : Nat :=
  union [Row.REF_CAND_STAT_WTR_RUN.bit, Row.REF_EVT_CAND_CHANGE.bit, State.showCand_touch, State.evt_touch,
    State.onDpll_touch, State.begin_touch]

theorem execCandWtrExpiry_within {M : Nat} (s : State) (k : Covers M execCandWtrExpiry_touch) (i : Fin 8) :
    Answered M s (execCandWtrExpiry i s) := by
  simp only [execCandWtrExpiry_touch, covers_union] at k
  obtain ⟨k0, k1, k2, k3, k4, k5, _⟩ := k
  unfold execCandWtrExpiry
  dsimp only
  repeat' first
    | apply answered_next | with_reducible assumption | with_reducible exact .refl _ _
    | with_reducible apply State.showCand_within | with_reducible apply State.evt_within
    | with_reducible apply State.onDpll_within | with_reducible apply State.begin_within
    | with_reducible apply State.when_within | with_reducible apply State.wrb_within
    | with_reducible exact may_row (by with_reducible assumption) | intro _

/-- What `execEsmcRx` may write. -/
def execEsmcRx_touch : Nat :=
  union [State.macConsume_touch, State.checkCands_touch, State.onDpll_touch, State.begin_touch]

theorem execEsmcRx_within {M : Nat} (s : State) (k : Covers M execEsmcRx_touch) (port : Fin 32) (len : Nat)
    (fcsOk : Bool) (ql : Fin 16) :
    Answered M s (execEsmcRx port len fcsOk ql s) := by
  simp only [execEsmcRx_touch, covers_union] at k
  obtain ⟨k0, k1, k2, k3, _⟩ := k
  unfold execEsmcRx
  repeat' first
    | apply answered_next | with_reducible assumption | with_reducible exact .refl _ _
    | with_reducible apply State.macConsume_within | with_reducible apply State.checkCands_within
    | with_reducible apply State.onDpll_within | with_reducible apply State.begin_within | intro _

/-- What `execEsmcTimeout` may write. -/
def execEsmcTimeout_touch : Nat :=
  union [State.checkCands_touch, State.onDpll_touch, State.begin_touch]

theorem execEsmcTimeout_within {M : Nat} (s : State) (k : Covers M execEsmcTimeout_touch) (i : Fin 8) :
    Answered M s (execEsmcTimeout i s) := by
  simp only [execEsmcTimeout_touch, covers_union] at k
  obtain ⟨k0, k1, k2, _⟩ := k
  unfold execEsmcTimeout
  dsimp only
  repeat' first
    | apply answered_next | with_reducible assumption | with_reducible exact .refl _ _
    | with_reducible apply State.checkCands_within | with_reducible apply State.onDpll_within
    | with_reducible apply State.begin_within | with_reducible apply State.when_within | intro _

/-- What `State.candMoved` may write. -/
def State.candMoved_touch : Nat :=
  union [State.loseCand_touch, State.onDpll_touch]

theorem State.candMoved_within {M : Nat} {s₀ s : State} (h : Within M s₀ s) (k : Covers M State.candMoved_touch)
    (i : Nat) :
    Within M s₀ (State.candMoved s i) := by
  simp only [State.candMoved_touch, covers_union] at k
  obtain ⟨k0, k1, _⟩ := k
  unfold State.candMoved
  repeat' first
    | with_reducible assumption | with_reducible exact .refl _ _ | with_reducible apply State.loseCand_within
    | with_reducible apply State.onDpll_within

/-- What `execEsmcTx` may write. -/
def execEsmcTx_touch : Nat :=
  union [State.say_touch, State.begin_touch]

theorem execEsmcTx_within {M : Nat} (s : State) (k : Covers M execEsmcTx_touch) (event : Bool) :
    Answered M s (execEsmcTx event s) := by
  simp only [execEsmcTx_touch, covers_union] at k
  obtain ⟨k0, k1, _⟩ := k
  unfold execEsmcTx
  repeat' first
    | apply answered_next | with_reducible assumption | with_reducible exact .refl _ _
    | with_reducible apply State.say_within | with_reducible apply State.begin_within
    | with_reducible apply State.when_within | with_reducible apply State.upTo_within
    | with_reducible exact may_row (by with_reducible assumption) | intro _

/-- What `State.lock` may write. -/
def State.lock_touch : Nat :=
  union [Row.REF_STAT_MT_COARSE.bit, State.setRef_touch, State.onDpll_touch, State.setActive_touch]

theorem State.lock_within {M : Nat} {s₀ s : State} (h : Within M s₀ s) (k : Covers M State.lock_touch) :
    Within M s₀ (State.lock s) := by
  simp only [State.lock_touch, covers_union] at k
  obtain ⟨k0, k1, k2, k3, _⟩ := k
  unfold State.lock
  dsimp only
  repeat' first
    | with_reducible assumption | with_reducible exact .refl _ _ | with_reducible apply State.setRef_within
    | with_reducible apply State.onDpll_within | with_reducible apply State.wrb_within
    | with_reducible apply State.setActive_within | with_reducible exact may_row (by with_reducible assumption)

/-- What `execRefLock` may write. -/
def execRefLock_touch : Nat :=
  union [State.lock_touch, State.showQl_touch, State.begin_touch]

theorem execRefLock_within {M : Nat} (s : State) (k : Covers M execRefLock_touch) :
    Answered M s (execRefLock s) := by
  simp only [execRefLock_touch, covers_union] at k
  obtain ⟨k0, k1, k2, _⟩ := k
  unfold execRefLock
  dsimp only
  repeat' first
    | apply answered_next | with_reducible assumption | with_reducible exact .refl _ _
    | with_reducible apply State.lock_within | with_reducible apply State.showQl_within
    | with_reducible apply State.begin_within | with_reducible apply State.when_within | intro _

/-- What `State.dpllFail` may write. -/
def State.dpllFail_touch : Nat :=
  union [Part.ras.bit, State.ring_touch, State.recordFault_touch, State.assertFault_touch, State.showQl_touch,
    State.setRef_touch, State.emit_touch]

theorem State.dpllFail_within {M : Nat} {s₀ s : State} (h : Within M s₀ s) (k : Covers M State.dpllFail_touch) :
    Within M s₀ (State.dpllFail s) := by
  simp only [State.dpllFail_touch, covers_union] at k
  obtain ⟨k0, k1, k2, k3, k4, k5, k6, _⟩ := k
  unfold State.dpllFail
  dsimp only
  repeat' first
    | with_reducible assumption | with_reducible exact .refl _ _ | with_reducible apply State.ring_within
    | with_reducible apply State.recordFault_within | with_reducible apply State.assertFault_within
    | with_reducible apply State.showQl_within | with_reducible apply State.setRef_within
    | with_reducible apply State.emit_within | with_reducible exact may_row (by with_reducible assumption)
    | with_reducible apply within_ras

/-- What `execDpllFault` may write. -/
def execDpllFault_touch : Nat :=
  union [State.dpllFail_touch, State.begin_touch]

theorem execDpllFault_within {M : Nat} (s : State) (k : Covers M execDpllFault_touch) :
    Answered M s (execDpllFault s) := by
  simp only [execDpllFault_touch, covers_union] at k
  obtain ⟨k0, k1, _⟩ := k
  unfold execDpllFault
  dsimp only
  repeat' first
    | apply answered_next | with_reducible assumption | with_reducible exact .refl _ _
    | with_reducible apply State.dpllFail_within | with_reducible apply State.begin_within
    | with_reducible apply State.when_within | intro _

/-- What `execDpllRelock` may write. -/
def execDpllRelock_touch : Nat :=
  union [Part.ras.bit, State.releaseFault_touch, State.showQl_touch, State.setFreq_touch, State.setRef_touch,
    State.begin_touch]

theorem execDpllRelock_within {M : Nat} (s : State) (k : Covers M execDpllRelock_touch) :
    Answered M s (execDpllRelock s) := by
  simp only [execDpllRelock_touch, covers_union] at k
  obtain ⟨k0, k1, k2, k3, k4, k5, _⟩ := k
  unfold execDpllRelock
  dsimp only
  repeat' first
    | apply answered_next | with_reducible assumption | with_reducible exact .refl _ _
    | with_reducible apply State.releaseFault_within | with_reducible apply State.showQl_within
    | with_reducible apply State.setFreq_within | with_reducible apply State.setRef_within
    | with_reducible apply State.begin_within | with_reducible apply State.when_within | intro _
    | with_reducible apply within_ras

/-- What `State.relearn` may write. -/
def State.relearn_touch : Nat :=
  union [Row.REF_HO_STAT_LEARN_H.bit, Row.REF_HO_STAT_T0.bit, Row.REF_STAT_HO_VALID.bit, State.setFreq_touch,
    State.setRef_touch, State.onDpll_touch]

theorem State.relearn_within {M : Nat} {s₀ s : State} (h : Within M s₀ s) (k : Covers M State.relearn_touch) :
    Within M s₀ (State.relearn s) := by
  simp only [State.relearn_touch, covers_union] at k
  obtain ⟨k0, k1, k2, k3, k4, k5, _⟩ := k
  unfold State.relearn
  dsimp only
  repeat' first
    | with_reducible assumption | with_reducible exact .refl _ _ | with_reducible apply State.wr_within
    | with_reducible apply State.setFreq_within | with_reducible apply State.setRef_within
    | with_reducible apply State.onDpll_within | with_reducible apply State.when_within
    | with_reducible apply State.wrb_within | with_reducible exact may_row (by with_reducible assumption) | intro _

/-- What `execHoRelearn` may write. -/
def execHoRelearn_touch : Nat :=
  union [State.begin_touch, State.relearn_touch]

theorem execHoRelearn_within {M : Nat} (s : State) (k : Covers M execHoRelearn_touch) (req : Req) :
    Answered M s (execHoRelearn req s) := by
  simp only [execHoRelearn_touch, covers_union] at k
  obtain ⟨k0, k1, _⟩ := k
  unfold execHoRelearn
  repeat' first
    | apply answered_next | with_reducible assumption | with_reducible exact .refl _ _
    | with_reducible apply State.via_within | with_reducible apply State.begin_within
    | with_reducible apply State.relearn_within | intro _

/-- What `execHoldoverLearnHour` may write. -/
def execHoldoverLearnHour_touch : Nat :=
  union [Row.REF_HO_STAT_LEARN_H.bit, Row.REF_HO_STAT_T0.bit, Row.REF_STAT_HO_VALID.bit, State.onDpll_touch,
    State.begin_touch]

theorem execHoldoverLearnHour_within {M : Nat} (s : State) (k : Covers M execHoldoverLearnHour_touch)
    (fit : HoModel) :
    Answered M s (execHoldoverLearnHour fit s) := by
  simp only [execHoldoverLearnHour_touch, covers_union] at k
  obtain ⟨k0, k1, k2, k3, k4, _⟩ := k
  unfold execHoldoverLearnHour
  dsimp only
  repeat' first
    | apply answered_next | with_reducible assumption | with_reducible exact .refl _ _
    | with_reducible apply State.wr_within | with_reducible apply State.wrS_within
    | with_reducible apply State.onDpll_within | with_reducible apply State.begin_within
    | with_reducible apply State.when_within | with_reducible apply State.wrb_within
    | with_reducible exact may_row (by with_reducible assumption) | intro _

/-- What `execMtStep` may write. -/
def execMtStep_touch : Nat :=
  union [State.onDpll_touch, State.begin_touch]

theorem execMtStep_within {M : Nat} (s : State) (k : Covers M execMtStep_touch) (req : Req) :
    Answered M s (execMtStep req s) := by
  simp only [execMtStep_touch, covers_union] at k
  obtain ⟨k0, k1, _⟩ := k
  unfold execMtStep
  repeat' first
    | apply answered_next | with_reducible assumption | with_reducible exact .refl _ _
    | with_reducible apply State.onDpll_within | with_reducible apply State.via_within
    | with_reducible apply State.begin_within | intro _

end Sys2Proof.Machine
end

