-- ==== Sys2Proof/Laws/WithinConfigure.lean ====
section
/-!
SUPPORT. `Within` over the operations of Machine/Configure.lean.
-/

namespace Sys2Proof.Machine

theorem State.setFlat_within {M : Nat} {s₀ s : State} (h : Within M s₀ s) (r : Row) (kr : May M r) (n v : Nat) :
    Within M s₀ (State.setFlat s r n v) :=
  within_row h kr (fun _ hm => tabGet_set_ne [] _ _ hm)


theorem State.setField_within {M : Nat} {s₀ s : State} (h : Within M s₀ s) (rows : List Row) (krows : MayAll M rows)
    (f : FieldValue) : Within M s₀ (State.setField s rows f) := by
  unfold State.setField
  split
  · rename_i hf
    exact State.setFlat_within h _ (krows _ (List.mem_of_find?_eq_some hf)) _ _
  · exact h


theorem State.clearWingRow_within {M : Nat} {s₀ s : State} (h : Within M s₀ s) (w : Wing) (r : Row) (kr : May M r) :
    Within M s₀ (State.clearWingRow s w r) :=
  within_row h kr (fun _ hm => tabGet_set_ne [] _ _ hm)


/-- What `State.clearWing` may write. -/
def State.clearWing_touch : Nat :=
  union [anyBit]

theorem State.clearWing_within {M : Nat} {s₀ s : State} (h : Within M s₀ s) (k : Covers M State.clearWing_touch)
    (w : Wing) : Within M s₀ (State.clearWing s w) :=
  within_foldl h (fun t r => State.clearWingRow_within (.refl _ t) w r (may_any (covers_union.mp k).1 r)) _


/-- What `State.configureChan` may write. -/
def State.configureChan_touch : Nat :=
  union [Row.ELC_CHAN_CFG_CEILING.bit, Row.ELC_CHAN_CFG_CIPHER_EN.bit, Row.ELC_CHAN_CFG_MINIMUM.bit,
    Row.ELC_CHAN_CFG_RANK.bit]

theorem State.configureChan_within {M : Nat} {s₀ s : State} (h : Within M s₀ s)
    (k : Covers M State.configureChan_touch) (w : Wing) (c : Nat) (x : ChanSec) :
    Within M s₀ (State.configureChan s w c x) := by
  simp only [State.configureChan_touch, covers_union] at k
  obtain ⟨k0, k1, k2, k3, _⟩ := k
  unfold State.configureChan
  dsimp only
  repeat' first
    | with_reducible assumption | with_reducible exact .refl _ _ | with_reducible apply State.wr_within
    | with_reducible apply State.wrb_within | with_reducible exact may_row (by with_reducible assumption)

/-- What `State.ownFloor` may write. -/
def State.ownFloor_touch : Nat :=
  union [Row.ELC_FLOOR_RX_BAUD.bit, Row.ELC_FLOOR_RX_FEC.bit, Row.ELC_FLOOR_RX_H_IDX.bit]

theorem State.ownFloor_within {M : Nat} {s₀ s : State} (h : Within M s₀ s) (k : Covers M State.ownFloor_touch)
    (w : Wing) :
    Within M s₀ (State.ownFloor s w) := by
  simp only [State.ownFloor_touch, covers_union] at k
  obtain ⟨k0, k1, k2, _⟩ := k
  unfold State.ownFloor
  dsimp only
  repeat' first
    | with_reducible assumption | with_reducible exact .refl _ _ | with_reducible apply State.wr_within
    | with_reducible exact may_row (by with_reducible assumption)

/-- What `State.configureTrims` may write. -/
def State.configureTrims_touch : Nat :=
  union [Row.TXW_IQ_PHASE_PHASE.bit, Row.TXW_TRIM_GAIN.bit, Row.TXW_TRIM_SKEW.bit]

theorem State.configureTrims_within {M : Nat} {s₀ s : State} (h : Within M s₀ s)
    (k : Covers M State.configureTrims_touch) (w : Wing) (o : OpticalSec) :
    Within M s₀ (State.configureTrims s w o) := by
  simp only [State.configureTrims_touch, covers_union] at k
  obtain ⟨k0, k1, k2, _⟩ := k
  unfold State.configureTrims
  dsimp only
  repeat' first
    | with_reducible assumption | with_reducible exact .refl _ _ | with_reducible apply State.wrS_within
    | with_reducible apply State.upTo_within | with_reducible exact may_row (by with_reducible assumption) | intro _

/-- What `State.configureSec` may write. -/
def State.configureSec_touch : Nat :=
  union [Row.ELC_FLOOR_BAUD.bit, Row.ELC_FLOOR_FEC.bit, Row.ELC_FLOOR_H_IDX.bit, Row.OPT_TX_CTL_POWER.bit,
    Row.RXW_TAP_STAT_ALLOC.bit, State.configureTrims_touch, State.configureChan_touch, State.onOpt_touch,
    State.ownFloor_touch]

theorem State.configureSec_within {M : Nat} {s₀ s : State} (h : Within M s₀ s)
    (k : Covers M State.configureSec_touch) (w : Wing) (x : WingSec) :
    Within M s₀ (State.configureSec s w x) := by
  simp only [State.configureSec_touch, covers_union] at k
  obtain ⟨k0, k1, k2, k3, k4, k5, k6, k7, k8, _⟩ := k
  unfold State.configureSec
  dsimp only
  repeat' first
    | with_reducible assumption | with_reducible exact .refl _ _ | with_reducible apply State.configureTrims_within
    | with_reducible apply State.configureChan_within | with_reducible apply State.wr_within
    | with_reducible apply State.onOpt_within | with_reducible apply State.wrS_within
    | with_reducible apply State.ownFloor_within | with_reducible apply within_foldl
    | with_reducible exact may_row (by with_reducible assumption) | intro _

/-- What `State.wingDefaults` may write. -/
def State.wingDefaults_touch : Nat :=
  union [anyBit]

theorem State.wingDefaults_within {M : Nat} {s₀ s : State} (h : Within M s₀ s)
    (k : Covers M State.wingDefaults_touch) (w : Wing) (ds : List FieldValue) :
    Within M s₀ (State.wingDefaults s w ds) := by
  simp only [State.wingDefaults_touch, covers_union] at k
  obtain ⟨k0, _⟩ := k
  unfold State.wingDefaults
  dsimp only
  repeat' first
    | with_reducible assumption | with_reducible exact .refl _ _ | with_reducible apply State.setFlat_within
    | with_reducible apply within_foldl | with_reducible exact may_row (by with_reducible assumption)
    | with_reducible exact may_any (by with_reducible assumption) _
    | with_reducible exact mayAll_any (by with_reducible assumption) _ | intro _ | split

/-- What `State.configureModule` may write. -/
def State.configureModule_touch : Nat :=
  union [Row.COR_CTL_PORT_EN.bit, Row.RAS_STAT_DWTO_EN.bit, Row.RAS_STAT_SWEEP_EN.bit, Row.SUP_DEC_CFG_SOURCE.bit,
    State.unsettle_touch]

theorem State.configureModule_within {M : Nat} {s₀ s : State} (h : Within M s₀ s)
    (k : Covers M State.configureModule_touch) (m : ModuleSec) :
    Within M s₀ (State.configureModule s m) := by
  simp only [State.configureModule_touch, covers_union] at k
  obtain ⟨k0, k1, k2, k3, k4, _⟩ := k
  unfold State.configureModule
  dsimp only
  repeat' first
    | with_reducible assumption | with_reducible exact .refl _ _ | with_reducible apply State.unsettle_within
    | with_reducible apply State.wr_within | with_reducible apply State.wrb_within
    | with_reducible apply State.upTo_within | with_reducible exact may_row (by with_reducible assumption) | intro _

/-- What `State.giveCtx` may write. -/
def State.giveCtx_touch : Nat :=
  union [Row.SUP_DEC_CFG_SOURCE.bit, State.unsettle_touch]

theorem State.giveCtx_within {M : Nat} {s₀ s : State} (h : Within M s₀ s) (k : Covers M State.giveCtx_touch)
    (w : Wing) (x : Option WingSec) :
    Within M s₀ (State.giveCtx s w x) := by
  simp only [State.giveCtx_touch, covers_union] at k
  obtain ⟨k0, k1, _⟩ := k
  unfold State.giveCtx
  repeat' first
    | with_reducible assumption | with_reducible exact .refl _ _ | with_reducible apply State.unsettle_within
    | with_reducible apply State.wr_within | with_reducible exact may_row (by with_reducible assumption) | intro _
    | split

/-- What `State.configurePort` may write. -/
def State.configurePort_touch : Nat :=
  union [Row.CLI_PORT_CFG_LANE0.bit, Row.CLI_PORT_CFG_RATE.bit, Row.CLI_PORT_CFG_WIDTH.bit]

theorem State.configurePort_within {M : Nat} {s₀ s : State} (h : Within M s₀ s)
    (k : Covers M State.configurePort_touch) (p : PortSec) :
    Within M s₀ (State.configurePort s p) := by
  simp only [State.configurePort_touch, covers_union] at k
  obtain ⟨k0, k1, k2, _⟩ := k
  unfold State.configurePort
  repeat' first
    | with_reducible assumption | with_reducible exact .refl _ _ | with_reducible apply State.wr_within
    | with_reducible exact may_row (by with_reducible assumption)

/-- What `State.configureMap` may write. -/
def State.configureMap_touch : Nat :=
  union [Row.HAL_MAP_CHAN.bit, Row.HAL_MAP_GROUP.bit, Row.HAL_MAP_PROT.bit, Row.HAL_MAP_VALID.bit]

theorem State.configureMap_within {M : Nat} {s₀ s : State} (h : Within M s₀ s)
    (k : Covers M State.configureMap_touch) (p : Nat) (a0 : MapTarget) :
    Within M s₀ (State.configureMap s p a0) := by
  simp only [State.configureMap_touch, covers_union] at k
  obtain ⟨k0, k1, k2, k3, _⟩ := k
  unfold State.configureMap
  repeat' first
    | with_reducible assumption | with_reducible exact .refl _ _ | with_reducible apply State.wr_within
    | with_reducible apply State.wrb_within | with_reducible exact may_row (by with_reducible assumption) | split

/-- What `State.configureGroup` may write. -/
def State.configureGroup_touch : Nat :=
  union [Row.HAL_PG_MEMBERS_CH_A.bit, Row.HAL_PG_MEMBERS_CH_B.bit, Row.HAL_PG_MEMBERS_PORT.bit,
    Row.HAL_PG_MEMBERS_VALID.bit, Row.HAL_PG_STAT_SEL_B.bit, State.showAsks_touch]

theorem State.configureGroup_within {M : Nat} {s₀ s : State} (h : Within M s₀ s)
    (k : Covers M State.configureGroup_touch) (g : Nat) (x : GroupSec) :
    Within M s₀ (State.configureGroup s g x) := by
  simp only [State.configureGroup_touch, covers_union] at k
  obtain ⟨k0, k1, k2, k3, k4, k5, _⟩ := k
  unfold State.configureGroup
  dsimp only
  repeat' first
    | with_reducible assumption | with_reducible exact .refl _ _ | with_reducible apply State.wr_within
    | with_reducible apply State.showAsks_within | with_reducible apply State.wrb_within
    | with_reducible exact may_row (by with_reducible assumption)

/-- What `State.configureHall` may write. -/
def State.configureHall_touch : Nat :=
  union [State.configureMap_touch, State.configureGroup_touch]

theorem State.configureHall_within {M : Nat} {s₀ s : State} (h : Within M s₀ s)
    (k : Covers M State.configureHall_touch) (h' : HallSec) :
    Within M s₀ (State.configureHall s h') := by
  simp only [State.configureHall_touch, covers_union] at k
  obtain ⟨k0, k1, _⟩ := k
  unfold State.configureHall
  repeat' first
    | with_reducible assumption | with_reducible exact .refl _ _ | with_reducible apply State.configureMap_within
    | with_reducible apply State.configureGroup_within | with_reducible apply within_foldl | intro _

/-- What `State.configurePantry` may write. -/
def State.configurePantry_touch : Nat :=
  union [Row.PAN_EQ_CFG_RESERVE.bit, Row.PAN_IQ_CFG_RESERVE.bit, Row.PAN_PART_RES_SIZE.bit,
    Row.PAN_SHARED_FREE.bit, State.showDesc_touch]

theorem State.configurePantry_within {M : Nat} {s₀ s : State} (h : Within M s₀ s)
    (k : Covers M State.configurePantry_touch) (p : PantrySec) :
    Within M s₀ (State.configurePantry s p) := by
  simp only [State.configurePantry_touch, covers_union] at k
  obtain ⟨k0, k1, k2, k3, k4, _⟩ := k
  unfold State.configurePantry
  dsimp only
  repeat' first
    | with_reducible assumption | with_reducible exact .refl _ _ | with_reducible apply State.wr_within
    | with_reducible apply State.showDesc_within | with_reducible apply within_foldl
    | with_reducible exact may_row (by with_reducible assumption) | intro _ | split

/-- What `State.romLanes` may write. -/
def State.romLanes_touch : Nat :=
  union [Row.COR_LANE_CTL_FORCE_ADAPT.bit, Row.COR_RXEQ_CTLE.bit, Row.COR_RXEQ_FOM_MIN.bit, Row.COR_RXEQ_GAIN.bit,
    Row.COR_TXEQ_C0.bit, Row.COR_TXEQ_CM1.bit, Row.COR_TXEQ_CP1.bit, Row.SDS_LANE_CTL_FORCE_ADAPT.bit,
    Row.SDS_RXEQ_CTLE.bit, Row.SDS_RXEQ_FOM_MIN.bit, Row.SDS_RXEQ_GAIN.bit, Row.SDS_TXEQ_C0.bit,
    Row.SDS_TXEQ_CM1.bit, Row.SDS_TXEQ_CP1.bit]

theorem State.romLanes_within {M : Nat} {s₀ s : State} (h : Within M s₀ s) (k : Covers M State.romLanes_touch) :
    Within M s₀ (State.romLanes s) := by
  simp only [State.romLanes_touch, covers_union] at k
  obtain ⟨k0, k1, k2, k3, k4, k5, k6, k7, k8, k9, k10, k11, k12, k13, _⟩ := k
  unfold State.romLanes
  dsimp only
  repeat' first
    | with_reducible assumption | with_reducible exact .refl _ _ | with_reducible apply State.wr_within
    | with_reducible apply State.wrS_within | with_reducible apply State.wrb_within
    | with_reducible apply State.upTo_within | with_reducible exact may_row (by with_reducible assumption) | intro _

/-- What `State.configureBoard` may write. -/
def State.configureBoard_touch : Nat :=
  union [anyBit, State.romLanes_touch]

theorem State.configureBoard_within {M : Nat} {s₀ s : State} (h : Within M s₀ s)
    (k : Covers M State.configureBoard_touch) (a0 : Option (List FieldValue)) :
    Within M s₀ (State.configureBoard s a0) := by
  simp only [State.configureBoard_touch, covers_union] at k
  obtain ⟨k0, k1, _⟩ := k
  unfold State.configureBoard
  repeat' first
    | with_reducible assumption | with_reducible exact .refl _ _ | with_reducible apply State.setField_within
    | with_reducible apply State.romLanes_within | with_reducible apply within_foldl
    | with_reducible exact may_row (by with_reducible assumption)
    | with_reducible exact may_any (by with_reducible assumption) _ | with_reducible apply mayAll_cons
    | with_reducible exact mayAll_nil _ | with_reducible exact mayAll_any (by with_reducible assumption) _
    | unfold boardRows | intro _ | split

/-- What `State.showImage` may write. -/
def State.showImage_touch : Nat :=
  union [Row.GLB_FP_HASH_HASH.bit, Row.GLB_FP_INFO_BUILD.bit, Row.GLB_FP_INFO_CONFIRMED.bit,
    Row.GLB_FP_INFO_SOURCE.bit, Row.GLB_FP_INFO_SVN.bit, Row.GLB_FP_INFO_TRIALS.bit]

theorem State.showImage_within {M : Nat} {s₀ s : State} (h : Within M s₀ s) (k : Covers M State.showImage_touch)
    (i : Image) (source : Nat) (trials : Nat) (confirmed : Bool) :
    Within M s₀ (State.showImage s i source trials confirmed) := by
  simp only [State.showImage_touch, covers_union] at k
  obtain ⟨k0, k1, k2, k3, k4, k5, _⟩ := k
  unfold State.showImage
  dsimp only
  repeat' first
    | with_reducible assumption | with_reducible exact .refl _ _ | with_reducible apply State.wr_within
    | with_reducible apply State.wrb_within | with_reducible apply State.upTo_within
    | with_reducible exact may_row (by with_reducible assumption) | intro _

/-- What `State.configureWing` may write. -/
def State.configureWing_touch : Nat :=
  union [State.configureSec_touch]

theorem State.configureWing_within {M : Nat} {s₀ s : State} (h : Within M s₀ s)
    (k : Covers M State.configureWing_touch) (w : Wing) (a0 : Option WingSec) :
    Within M s₀ (State.configureWing s w a0) := by
  simp only [State.configureWing_touch, covers_union] at k
  obtain ⟨k0, _⟩ := k
  unfold State.configureWing
  repeat' first
    | with_reducible assumption | with_reducible exact .refl _ _ | with_reducible apply State.configureSec_within
    | split

/-- What `State.disableSessions` may write. -/
def State.disableSessions_touch : Nat :=
  union [Row.SEC_SES_STAT_STATE.bit]

theorem State.disableSessions_within {M : Nat} {s₀ s : State} (h : Within M s₀ s)
    (k : Covers M State.disableSessions_touch) :
    Within M s₀ (State.disableSessions s) := by
  simp only [State.disableSessions_touch, covers_union] at k
  obtain ⟨k0, _⟩ := k
  unfold State.disableSessions
  repeat' first
    | with_reducible assumption | with_reducible exact .refl _ _ | with_reducible apply State.wr_within
    | with_reducible apply State.when_within | with_reducible exact may_row (by with_reducible assumption) | intro _

/-- What `State.configure` may write. -/
def State.configure_touch : Nat :=
  union [anyBit, State.reguard_touch, State.checkCands_touch, State.giveCtx_touch, State.configureWing_touch,
    State.disableSessions_touch, State.restartSeen_touch, State.takeGateEn_touch, State.configureHall_touch,
    State.showQl_touch, State.configurePantry_touch, State.configurePort_touch, State.configureBoard_touch,
    State.configureModule_touch]

theorem State.configure_within {M : Nat} {s₀ s : State} (h : Within M s₀ s) (k : Covers M State.configure_touch)
    (i : Image) (wake : Bool) :
    Within M s₀ (State.configure s i wake) := by
  simp only [State.configure_touch, covers_union] at k
  obtain ⟨k0, k1, k2, k3, k4, k5, k6, k7, k8, k9, k10, k11, k12, k13, _⟩ := k
  unfold State.configure
  dsimp only
  repeat' first
    | with_reducible assumption | with_reducible exact .refl _ _ | with_reducible apply State.reguard_within
    | with_reducible apply State.setField_within | with_reducible apply State.checkCands_within
    | with_reducible apply State.giveCtx_within | with_reducible apply State.configureWing_within
    | with_reducible apply State.disableSessions_within | with_reducible apply State.restartSeen_within
    | with_reducible apply State.takeGateEn_within | with_reducible apply State.configureHall_within
    | with_reducible apply State.showQl_within | with_reducible apply State.configurePantry_within
    | with_reducible apply State.configurePort_within | with_reducible apply State.configureBoard_within
    | with_reducible apply State.configureModule_within | with_reducible apply State.upTo_within
    | with_reducible apply within_foldl | with_reducible exact may_row (by with_reducible assumption)
    | with_reducible exact may_any (by with_reducible assumption) _ | with_reducible apply mayAll_cons
    | with_reducible exact mayAll_nil _ | with_reducible exact mayAll_any (by with_reducible assumption) _ | intro _

end Sys2Proof.Machine
end

