-- ==== Sys2Proof/Laws/WithinWing.lean ====
section
/-!
SUPPORT. `Within` over the operations of Machine/Wing.lean.
-/

namespace Sys2Proof.Machine

/-- What `State.setBootWing` may write. -/
def State.setBootWing_touch : Nat :=
  union [Part.boot.bit]

theorem State.setBootWing_within {M : Nat} {s₀ s : State} (h : Within M s₀ s) (k : Covers M State.setBootWing_touch)
    (w : Wing) (k' : Nat) :
    Within M s₀ (State.setBootWing s w k') := by
  simp only [State.setBootWing_touch, covers_union] at k
  obtain ⟨k0, _⟩ := k
  unfold State.setBootWing
  repeat' first | with_reducible assumption | with_reducible exact .refl _ _ | with_reducible apply within_boot

/-- What `State.startFloor` may write. -/
def State.startFloor_touch : Nat :=
  union [Row.ELC_EVT_MIN_BREACH.bit, Row.ELC_HS_STAT_ADV_STALE.bit, Row.ELC_HS_STAT_FLOOR_TX.bit,
    Row.ELC_HS_STAT_ICM_RC.bit, Row.ELC_HS_STAT_RETRIES.bit, Row.ELC_HS_STAT_STATE.bit,
    Row.ELC_HS_STAT_UNCONFIRMED.bit, Row.TXW_LINE_NEXT_ANN_VALID.bit, State.onTx_touch, State.switchTx_touch,
    State.evt_touch]

theorem State.startFloor_within {M : Nat} {s₀ s : State} (h : Within M s₀ s) (k : Covers M State.startFloor_touch)
    (w : Wing) :
    Within M s₀ (State.startFloor s w) := by
  simp only [State.startFloor_touch, covers_union] at k
  obtain ⟨k0, k1, k2, k3, k4, k5, k6, k7, k8, k9, k10, _⟩ := k
  unfold State.startFloor
  dsimp only
  repeat' first
    | with_reducible assumption | with_reducible exact .refl _ _ | with_reducible apply State.onTx_within
    | with_reducible apply State.switchTx_within | with_reducible apply State.wr_within
    | with_reducible apply State.evt_within | with_reducible apply State.when_within
    | with_reducible apply State.wrb_within | with_reducible exact may_row (by with_reducible assumption) | intro _

/-- What `State.startIcm` may write. -/
def State.startIcm_touch : Nat :=
  union [Row.ICM_BR0_VALID.bit, State.showBaudDiff_touch, State.onIcm_touch, State.ownFloor_touch]

theorem State.startIcm_within {M : Nat} {s₀ s : State} (h : Within M s₀ s) (k : Covers M State.startIcm_touch)
    (w : Wing) :
    Within M s₀ (State.startIcm s w) := by
  simp only [State.startIcm_touch, covers_union] at k
  obtain ⟨k0, k1, k2, k3, _⟩ := k
  unfold State.startIcm
  repeat' first
    | with_reducible assumption | with_reducible exact .refl _ _ | with_reducible apply State.showBaudDiff_within
    | with_reducible apply State.onIcm_within | with_reducible apply State.ownFloor_within
    | with_reducible apply State.wrb_within | with_reducible exact may_row (by with_reducible assumption)

/-- What `State.startFrames` may write. -/
def State.startFrames_touch : Nat :=
  union [State.onOtn_touch]

theorem State.startFrames_within {M : Nat} {s₀ s : State} (h : Within M s₀ s) (k : Covers M State.startFrames_touch)
    (w : Wing) :
    Within M s₀ (State.startFrames s w) := by
  simp only [State.startFrames_touch, covers_union] at k
  obtain ⟨k0, _⟩ := k
  unfold State.startFrames
  repeat' first | with_reducible assumption | with_reducible exact .refl _ _ | with_reducible apply State.onOtn_within

/-- What `State.beginWing` may write. -/
def State.beginWing_touch : Nat :=
  union [Row.RXW_HDR_STAT_HDR_LOSS_TX.bit, State.unlockAdc_touch, State.showReach_touch, State.resetOptics_touch,
    State.onRx_touch, State.onDec_touch, State.startIcm_touch, State.toWait_touch, State.fecUnlock_touch,
    State.icmRefresh_touch, State.startFrames_touch, State.startFloor_touch, State.unlockDac_touch,
    State.setBootWing_touch, State.showRxHs_touch]

theorem State.beginWing_within {M : Nat} {s₀ s : State} (h : Within M s₀ s) (k : Covers M State.beginWing_touch)
    (w : Wing) :
    Within M s₀ (State.beginWing s w) := by
  simp only [State.beginWing_touch, covers_union] at k
  obtain ⟨k0, k1, k2, k3, k4, k5, k6, k7, k8, k9, k10, k11, k12, k13, k14, _⟩ := k
  unfold State.beginWing
  dsimp only
  repeat' first
    | with_reducible assumption | with_reducible exact .refl _ _ | with_reducible apply State.unlockAdc_within
    | with_reducible apply State.showReach_within | with_reducible apply State.resetOptics_within
    | with_reducible apply State.onRx_within | with_reducible apply State.onDec_within
    | with_reducible apply State.startIcm_within | with_reducible apply State.toWait_within
    | with_reducible apply State.fecUnlock_within | with_reducible apply State.icmRefresh_within
    | with_reducible apply State.startFrames_within | with_reducible apply State.startFloor_within
    | with_reducible apply State.unlockDac_within | with_reducible apply State.wrb_within
    | with_reducible apply State.setBootWing_within | with_reducible apply State.showRxHs_within
    | with_reducible exact may_row (by with_reducible assumption)

/-- What `State.wingStepNext` may write. -/
def State.wingStepNext_touch : Nat :=
  union [State.startLasers_touch, State.optEval_touch, State.setBootWing_touch]

theorem State.wingStepNext_within {M : Nat} {s₀ s : State} (h : Within M s₀ s)
    (k : Covers M State.wingStepNext_touch) (w : Wing) :
    Within M s₀ (State.wingStepNext s w) := by
  simp only [State.wingStepNext_touch, covers_union] at k
  obtain ⟨k0, k1, k2, _⟩ := k
  unfold State.wingStepNext
  dsimp only
  repeat' first
    | with_reducible assumption | with_reducible exact .refl _ _ | with_reducible apply State.startLasers_within
    | with_reducible apply State.optEval_within | with_reducible apply State.setBootWing_within | split

/-- What `execWingStartStepDone` may write. -/
def execWingStartStepDone_touch : Nat :=
  union [State.wingStepNext_touch, State.begin_touch]

theorem execWingStartStepDone_within {M : Nat} (s : State) (k : Covers M execWingStartStepDone_touch) (w : Wing) :
    Answered M s (execWingStartStepDone w s) := by
  simp only [execWingStartStepDone_touch, covers_union] at k
  obtain ⟨k0, k1, _⟩ := k
  unfold execWingStartStepDone
  dsimp only
  repeat' first
    | apply answered_next | with_reducible assumption | with_reducible exact .refl _ _
    | with_reducible apply State.wingStepNext_within | with_reducible apply State.begin_within
    | with_reducible apply State.when_within | intro _

/-- What `State.powerDown` may write. -/
def State.powerDown_touch : Nat :=
  union [Part.power.bit]

theorem State.powerDown_within {M : Nat} {s₀ s : State} (h : Within M s₀ s) (k : Covers M State.powerDown_touch)
    (ds : List Domain) :
    Within M s₀ (State.powerDown s ds) := by
  simp only [State.powerDown_touch, covers_union] at k
  obtain ⟨k0, _⟩ := k
  unfold State.powerDown
  repeat' first
    | with_reducible assumption | with_reducible exact .refl _ _ | intro _ | with_reducible apply within_power

/-- What `State.lasersOff` may write. -/
def State.lasersOff_touch : Nat :=
  union [Row.OPT_TX_STAT_FREQ_LOCKED.bit, Row.OPT_TX_STAT_LO_LOCKED.bit, State.onOpt_touch, State.setOpt_touch]

theorem State.lasersOff_within {M : Nat} {s₀ s : State} (h : Within M s₀ s) (k : Covers M State.lasersOff_touch)
    (w : Wing) :
    Within M s₀ (State.lasersOff s w) := by
  simp only [State.lasersOff_touch, covers_union] at k
  obtain ⟨k0, k1, k2, k3, _⟩ := k
  unfold State.lasersOff
  dsimp only
  repeat' first
    | with_reducible assumption | with_reducible exact .refl _ _ | with_reducible apply State.onOpt_within
    | with_reducible apply State.setOpt_within | with_reducible apply State.when_within
    | with_reducible apply State.wrb_within | with_reducible exact may_row (by with_reducible assumption) | intro _

/-- What `State.leaveRun` may write. -/
def State.leaveRun_touch : Nat :=
  union [State.sp2Cancel_touch, State.powerDown_touch, State.icmAbort_touch, State.toWait_touch,
    State.sp2Off_touch, State.haltConv_touch]

theorem State.leaveRun_within {M : Nat} {s₀ s : State} (h : Within M s₀ s) (k : Covers M State.leaveRun_touch)
    (w : Wing) :
    Within M s₀ (State.leaveRun s w) := by
  simp only [State.leaveRun_touch, covers_union] at k
  obtain ⟨k0, k1, k2, k3, k4, k5, _⟩ := k
  unfold State.leaveRun
  repeat' first
    | with_reducible assumption | with_reducible exact .refl _ _ | with_reducible apply State.sp2Cancel_within
    | with_reducible apply State.powerDown_within | with_reducible apply State.icmAbort_within
    | with_reducible apply State.toWait_within | with_reducible apply State.sp2Off_within
    | with_reducible apply State.haltConv_within

/-- What `State.setWingState` may write. -/
def State.setWingState_touch : Nat :=
  union [Row.PWR_STATE_STAT_WING_A.bit, Row.PWR_STATE_STAT_WING_B.bit]

theorem State.setWingState_within {M : Nat} {s₀ s : State} (h : Within M s₀ s)
    (k : Covers M State.setWingState_touch) (w : Wing) (st : Nat) :
    Within M s₀ (State.setWingState s w st) := by
  simp only [State.setWingState_touch, covers_union] at k
  obtain ⟨k0, k1, _⟩ := k
  unfold State.setWingState
  repeat' first
    | with_reducible assumption | with_reducible exact .refl _ _ | with_reducible apply State.wr_within
    | with_reducible exact may_row (by with_reducible assumption) | split

/-- What `State.enterRun` may write. -/
def State.enterRun_touch : Nat :=
  union [State.beginWing_touch, State.optEval_touch, State.resumeConv_touch]

theorem State.enterRun_within {M : Nat} {s₀ s : State} (h : Within M s₀ s) (k : Covers M State.enterRun_touch)
    (w : Wing) :
    Within M s₀ (State.enterRun s w) := by
  simp only [State.enterRun_touch, covers_union] at k
  obtain ⟨k0, k1, k2, _⟩ := k
  unfold State.enterRun
  repeat' first
    | with_reducible assumption | with_reducible exact .refl _ _ | with_reducible apply State.beginWing_within
    | with_reducible apply State.optEval_within | with_reducible apply State.resumeConv_within | split

/-- What `State.moveWing` may write. -/
def State.moveWing_touch : Nat :=
  union [State.lasersOff_touch, State.powerDown_touch, State.leaveRun_touch, State.setWingState_touch,
    State.enterRun_touch, State.setBootWing_touch]

theorem State.moveWing_within {M : Nat} {s₀ s : State} (h : Within M s₀ s) (k : Covers M State.moveWing_touch)
    (w : Wing) (st : Nat) :
    Within M s₀ (State.moveWing s w st) := by
  simp only [State.moveWing_touch, covers_union] at k
  obtain ⟨k0, k1, k2, k3, k4, k5, _⟩ := k
  unfold State.moveWing
  dsimp only
  repeat' first
    | with_reducible assumption | with_reducible exact .refl _ _ | with_reducible apply State.lasersOff_within
    | with_reducible apply State.powerDown_within | with_reducible apply State.leaveRun_within
    | with_reducible apply State.setWingState_within | with_reducible apply State.enterRun_within
    | with_reducible apply State.when_within | with_reducible apply State.setBootWing_within | intro _ | split

/-- What `State.darken` may write. -/
def State.darken_touch : Nat :=
  union [State.onOpt_touch, State.icmAbort_touch]

theorem State.darken_within {M : Nat} {s₀ s : State} (h : Within M s₀ s) (k : Covers M State.darken_touch)
    (w : Wing) :
    Within M s₀ (State.darken s w) := by
  simp only [State.darken_touch, covers_union] at k
  obtain ⟨k0, k1, _⟩ := k
  unfold State.darken
  repeat' first
    | with_reducible assumption | with_reducible exact .refl _ _ | with_reducible apply State.onOpt_within
    | with_reducible apply State.icmAbort_within

/-- What `State.flushWing` may write. -/
def State.flushWing_touch : Nat :=
  union [State.flushQueue_touch]

theorem State.flushWing_within {M : Nat} {s₀ s : State} (h : Within M s₀ s) (k : Covers M State.flushWing_touch)
    (w : Wing) :
    Within M s₀ (State.flushWing s w) := by
  simp only [State.flushWing_touch, covers_union] at k
  obtain ⟨k0, _⟩ := k
  unfold State.flushWing
  repeat' first
    | with_reducible assumption | with_reducible exact .refl _ _ | with_reducible apply State.flushQueue_within
    | with_reducible apply State.upTo_within | intro _

/-- What `State.clearTaps` may write. -/
def State.clearTaps_touch : Nat :=
  union [Row.RAS_MEM_REMAP_BANKS_FULL.bit, Row.RAS_MEM_REMAP_USED.bit, Part.ras.bit]

theorem State.clearTaps_within {M : Nat} {s₀ s : State} (h : Within M s₀ s) (k : Covers M State.clearTaps_touch)
    (w : Wing) :
    Within M s₀ (State.clearTaps s w) := by
  simp only [State.clearTaps_touch, covers_union] at k
  obtain ⟨k0, k1, k2, _⟩ := k
  unfold State.clearTaps
  dsimp only
  repeat' first
    | with_reducible assumption | with_reducible exact .refl _ _ | with_reducible apply State.wr_within
    | with_reducible exact may_row (by with_reducible assumption) | intro _ | with_reducible apply within_ras

/-- What `State.dropSets` may write. -/
def State.dropSets_touch : Nat :=
  union [Part.inuse.bit, Part.pend.bit, Part.staged.bit]

theorem State.dropSets_within {M : Nat} {s₀ s : State} (h : Within M s₀ s) (k : Covers M State.dropSets_touch)
    (w : Wing) :
    Within M s₀ (State.dropSets s w) := by
  simp only [State.dropSets_touch, covers_union] at k
  obtain ⟨k0, k1, k2, _⟩ := k
  unfold State.dropSets
  dsimp only
  repeat' first
    | with_reducible assumption | with_reducible exact .refl _ _ | intro _ | with_reducible apply within_inuse
    | with_reducible apply within_pend | with_reducible apply within_staged | with_reducible apply within_mk
    | exact Or.inr (by with_reducible assumption) | with_reducible exact Or.inl rfl

/-- What `State.recoverWing` may write. -/
def State.recoverWing_touch : Nat :=
  union [Row.RAS_STAT_FAILED.bit, Row.RAS_STAT_FAILED_MAP.bit, State.releaseFault_touch]

theorem State.recoverWing_within {M : Nat} {s₀ s : State} (h : Within M s₀ s) (k : Covers M State.recoverWing_touch)
    (w : Wing) :
    Within M s₀ (State.recoverWing s w) := by
  simp only [State.recoverWing_touch, covers_union] at k
  obtain ⟨k0, k1, k2, _⟩ := k
  unfold State.recoverWing
  dsimp only
  repeat' first
    | with_reducible assumption | with_reducible exact .refl _ _ | with_reducible apply State.releaseFault_within
    | with_reducible apply State.wr_within | with_reducible apply State.wrb_within
    | with_reducible exact may_row (by with_reducible assumption)

/-- What `State.reloadWing` may write. -/
def State.reloadWing_touch : Nat :=
  union [Part.pins.bit, Part.conv.bit, Part.dec.bit, Part.otn.bit, State.reguard_touch, State.showBaudDiff_touch,
    State.wingDefaults_touch, State.giveCtx_touch, State.configureWing_touch, State.restartSeen_touch,
    State.clearWing_touch, State.showAsks_touch, State.dropSets_touch, State.icmRefresh_touch]

theorem State.reloadWing_within {M : Nat} {s₀ s : State} (h : Within M s₀ s) (k : Covers M State.reloadWing_touch)
    (w : Wing) :
    Within M s₀ (State.reloadWing s w) := by
  simp only [State.reloadWing_touch, covers_union] at k
  obtain ⟨k0, k1, k2, k3, k4, k5, k6, k7, k8, k9, k10, k11, k12, k13, _⟩ := k
  unfold State.reloadWing
  dsimp only
  repeat' first
    | with_reducible assumption | with_reducible exact .refl _ _ | with_reducible apply State.reguard_within
    | with_reducible apply State.showBaudDiff_within | with_reducible apply State.wingDefaults_within
    | with_reducible apply State.giveCtx_within | with_reducible apply State.configureWing_within
    | with_reducible apply State.restartSeen_within | with_reducible apply State.clearWing_within
    | with_reducible apply State.showAsks_within | with_reducible apply State.dropSets_within
    | with_reducible apply State.icmRefresh_within | with_reducible apply State.when_within
    | with_reducible apply State.upTo_within | with_reducible exact may_row (by with_reducible assumption) | intro _
    | split | with_reducible apply within_pins | with_reducible apply within_conv | with_reducible apply within_dec
    | with_reducible apply within_otn | with_reducible apply within_mk | exact Or.inr (by with_reducible assumption)
    | with_reducible exact Or.inl rfl

/-- What `State.groupsSf` may write. -/
def State.groupsSf_touch : Nat :=
  union [State.condChange_touch]

theorem State.groupsSf_within {M : Nat} {s₀ s : State} (h : Within M s₀ s) (k : Covers M State.groupsSf_touch)
    (w : Wing) :
    Within M s₀ (State.groupsSf s w) := by
  simp only [State.groupsSf_touch, covers_union] at k
  obtain ⟨k0, _⟩ := k
  unfold State.groupsSf
  repeat' first
    | with_reducible assumption | with_reducible exact .refl _ _ | with_reducible apply State.condChange_within
    | with_reducible apply State.when_within | with_reducible apply State.upTo_within
    | with_reducible exact may_row (by with_reducible assumption) | intro _

/-- What `State.recordRestart` may write. -/
def State.recordRestart_touch : Nat :=
  union [Part.free.bit, State.emit_touch]

theorem State.recordRestart_within {M : Nat} {s₀ s : State} (h : Within M s₀ s)
    (k : Covers M State.recordRestart_touch) (w : Wing) :
    Within M s₀ (State.recordRestart s w) := by
  simp only [State.recordRestart_touch, covers_union] at k
  obtain ⟨k0, k1, _⟩ := k
  unfold State.recordRestart
  dsimp only
  repeat' first
    | with_reducible assumption | with_reducible exact .refl _ _ | with_reducible apply State.fresh_within
    | with_reducible apply State.emit_within

/-- What `State.keepLasers` may write. -/
def State.keepLasers_touch : Nat :=
  union [State.onOpt_touch]

theorem State.keepLasers_within {M : Nat} {s₀ s : State} (h : Within M s₀ s) (k : Covers M State.keepLasers_touch)
    (old : State) (w : Wing) :
    Within M s₀ (State.keepLasers s old w) := by
  simp only [State.keepLasers_touch, covers_union] at k
  obtain ⟨k0, _⟩ := k
  unfold State.keepLasers
  dsimp only
  repeat' first | with_reducible assumption | with_reducible exact .refl _ _ | with_reducible apply State.onOpt_within

/-- What `State.restartWing` may write. -/
def State.restartWing_touch : Nat :=
  union [State.darken_touch, State.clearTaps_touch, State.groupsSf_touch, State.recordRestart_touch,
    State.toWait_touch, State.beginWing_touch, State.keepLasers_touch, State.reloadWing_touch,
    State.recoverWing_touch, State.flushWing_touch, State.zeroiseWing_touch, State.setBootWing_touch]

theorem State.restartWing_within {M : Nat} {s₀ s : State} (h : Within M s₀ s) (k : Covers M State.restartWing_touch)
    (w : Wing) :
    Within M s₀ (State.restartWing s w) := by
  simp only [State.restartWing_touch, covers_union] at k
  obtain ⟨k0, k1, k2, k3, k4, k5, k6, k7, k8, k9, k10, k11, _⟩ := k
  unfold State.restartWing
  dsimp only
  repeat' first
    | with_reducible assumption | with_reducible exact .refl _ _ | with_reducible apply State.darken_within
    | with_reducible apply State.clearTaps_within | with_reducible apply State.groupsSf_within
    | with_reducible apply State.recordRestart_within | with_reducible apply State.toWait_within
    | with_reducible apply State.beginWing_within | with_reducible apply State.keepLasers_within
    | with_reducible apply State.reloadWing_within | with_reducible apply State.recoverWing_within
    | with_reducible apply State.flushWing_within | with_reducible apply State.zeroiseWing_within
    | with_reducible apply State.setBootWing_within | split

end Sys2Proof.Machine
end

