-- ==== Sys2Proof/Laws/WithinPower.lean ====
section
/-!
SUPPORT. `Within` over the operations of Machine/Power.lean.
-/

namespace Sys2Proof.Machine

/-- What `State.onPower` may write. -/
def State.onPower_touch : Nat :=
  union [Part.power.bit]

theorem State.onPower_within {M : Nat} {s₀ s : State} (h : Within M s₀ s) (k : Covers M State.onPower_touch)
    (f : Power → Power) :
    Within M s₀ (State.onPower s f) := by
  simp only [State.onPower_touch, covers_union] at k
  obtain ⟨k0, _⟩ := k
  unfold State.onPower
  repeat' first | with_reducible assumption | with_reducible exact .refl _ _ | with_reducible apply within_power

theorem State.keepRows_within {M : Nat} {s₀ s : State} (h : Within M s₀ s) (old : State) (rows : List Row)
    (krows : MayAll M rows) : Within M s₀ (State.keepRows s old rows) :=
  within_foldl_mem h _ (fun t r hr => within_row (.refl _ t) (krows r hr) (fun _ hm => tabGet_set_ne [] _ _ hm))


/-- What `State.resetBase` may write. -/
def State.resetBase_touch : Nat :=
  union [resetBits]

theorem State.resetBase_within {M : Nat} {s₀ s : State} (h : Within M s₀ s) (k : Covers M State.resetBase_touch)
    (aon : Bool) : Within M s₀ (State.resetBase s aon) :=
  within_reset h (covers_union.mp k).1 rfl rfl rfl rfl


/-- What `State.showTxDis` may write. -/
def State.showTxDis_touch : Nat :=
  union [Row.OPT_TX_STAT_TXDIS_PIN.bit]

theorem State.showTxDis_within {M : Nat} {s₀ s : State} (h : Within M s₀ s) (k : Covers M State.showTxDis_touch) :
    Within M s₀ (State.showTxDis s) := by
  simp only [State.showTxDis_touch, covers_union] at k
  obtain ⟨k0, _⟩ := k
  unfold State.showTxDis
  repeat' first
    | with_reducible assumption | with_reducible exact .refl _ _ | with_reducible apply State.wrb_within
    | with_reducible exact may_row (by with_reducible assumption)

/-- What `State.resetModule` may write. -/
def State.resetModule_touch : Nat :=
  union [State.showTxDis_touch, State.resetBase_touch]

theorem State.resetModule_within {M : Nat} {s₀ s : State} (h : Within M s₀ s) (k : Covers M State.resetModule_touch)
    (aon : Bool) (keep : List Row) : Within M s₀ (State.resetModule s aon keep) := by
  simp only [State.resetModule_touch, covers_union] at k
  obtain ⟨k0, k1, _⟩ := k
  have ka : Covers M anyBit := by
    simp only [State.resetBase_touch, resetBits, covers_union] at k1
    exact k1.1.1
  exact State.showTxDis_within (State.keepRows_within (State.resetBase_within h k1 aon) s _ (mayAll_any ka _)) k0


/-- What `State.wakeRec` may write. -/
def State.wakeRec_touch : Nat :=
  union [Row.PWR_WAKE_REC_CAUSE.bit, Row.PWR_WAKE_REC_FLAG.bit, Row.PWR_WAKE_REC_FROM.bit]

theorem State.wakeRec_within {M : Nat} {s₀ s : State} (h : Within M s₀ s) (k : Covers M State.wakeRec_touch)
    (cause : Nat) (origin : Nat) (flag : Bool) :
    Within M s₀ (State.wakeRec s cause origin flag) := by
  simp only [State.wakeRec_touch, covers_union] at k
  obtain ⟨k0, k1, k2, _⟩ := k
  unfold State.wakeRec
  repeat' first
    | with_reducible assumption | with_reducible exact .refl _ _ | with_reducible apply State.wr_within
    | with_reducible apply State.wrb_within | with_reducible exact may_row (by with_reducible assumption)

/-- What `State.startAt` may write. -/
def State.startAt_touch : Nat :=
  union [Part.boot.bit]

theorem State.startAt_within {M : Nat} {s₀ s : State} (h : Within M s₀ s) (k : Covers M State.startAt_touch)
    (step : Nat) (wake : Bool) (hostMode : Bool) :
    Within M s₀ (State.startAt s step wake hostMode) := by
  simp only [State.startAt_touch, covers_union] at k
  obtain ⟨k0, _⟩ := k
  unfold State.startAt
  repeat' first | with_reducible assumption | with_reducible exact .refl _ _ | with_reducible apply within_boot

/-- What `State.commandReset` may write. -/
def State.commandReset_touch : Nat :=
  union [State.resetModule_touch, State.wakeRec_touch, State.startAt_touch]

theorem State.commandReset_within {M : Nat} {s₀ s : State} (h : Within M s₀ s)
    (k : Covers M State.commandReset_touch) (cause : Nat) (hostMode : Bool) :
    Within M s₀ (State.commandReset s cause hostMode) := by
  simp only [State.commandReset_touch, covers_union] at k
  obtain ⟨k0, k1, k2, _⟩ := k
  unfold State.commandReset
  dsimp only
  repeat' first
    | with_reducible assumption | with_reducible exact .refl _ _ | with_reducible apply State.resetModule_within
    | with_reducible apply State.wakeRec_within | with_reducible apply State.startAt_within

/-- What `State.setMt` may write. -/
def State.setMt_touch : Nat :=
  union [Row.REF_MT_HI_MT.bit, Row.REF_MT_LO_MT.bit]

theorem State.setMt_within {M : Nat} {s₀ s : State} (h : Within M s₀ s) (k : Covers M State.setMt_touch) (ns : Nat) :
    Within M s₀ (State.setMt s ns) := by
  simp only [State.setMt_touch, covers_union] at k
  obtain ⟨k0, k1, _⟩ := k
  unfold State.setMt
  repeat' first
    | with_reducible assumption | with_reducible exact .refl _ _ | with_reducible apply State.wrWide_within
    | with_reducible exact may_row (by with_reducible assumption)

/-- What `State.restoreMt` may write. -/
def State.restoreMt_touch : Nat :=
  union [Row.PWR_SLEEP_HI_N.bit, Row.PWR_SLEEP_LO_N.bit, Row.REF_STAT_MT_COARSE.bit, State.setMt_touch]

theorem State.restoreMt_within {M : Nat} {s₀ s : State} (h : Within M s₀ s) (k : Covers M State.restoreMt_touch)
    (saved : Nat) (n : Nat) :
    Within M s₀ (State.restoreMt s saved n) := by
  simp only [State.restoreMt_touch, covers_union] at k
  obtain ⟨k0, k1, k2, k3, _⟩ := k
  unfold State.restoreMt
  dsimp only
  repeat' first
    | with_reducible assumption | with_reducible exact .refl _ _ | with_reducible apply State.setMt_within
    | with_reducible apply State.wr_within | with_reducible apply State.wrb_within
    | with_reducible exact may_row (by with_reducible assumption)

/-- What `State.wake` may write. -/
def State.wake_touch : Nat :=
  union [Row.PWR_SLEEP_HI_N.bit, Row.PWR_SLEEP_LO_N.bit, Row.PWR_WAKE_CFG_SMB_EN.bit, Row.PWR_WAKE_CFG_TIMER.bit,
    Row.PWR_WAKE_REC_CAUSE.bit, Row.PWR_WAKE_REC_FLAG.bit, Row.PWR_WAKE_REC_FROM.bit,
    Row.PWR_WAKE_REC_WATCH_LAST.bit, Row.PWR_WATCH_CFG_CONFIRM.bit, Row.PWR_WATCH_CFG_EN.bit,
    Row.PWR_WATCH_CFG_PERIOD.bit, Row.PWR_WATCH_CFG_TH.bit, Row.PWR_WATCH_CFG_WINGS.bit, Part.free.bit,
    State.resetModule_touch, State.alert_touch, State.onPower_touch, State.wakeRec_touch, State.startAt_touch,
    State.restoreMt_touch]

theorem State.wake_within {M : Nat} {s₀ s : State} (h : Within M s₀ s) (k : Covers M State.wake_touch) (cause : Nat) :
    Within M s₀ (State.wake s cause) := by
  simp only [State.wake_touch, covers_union] at k
  obtain ⟨k0, k1, k2, k3, k4, k5, k6, k7, k8, k9, k10, k11, k12, k13, k14, k15, k16, k17, k18, k19, _⟩ := k
  unfold State.wake
  dsimp only
  repeat' first
    | with_reducible assumption | with_reducible exact .refl _ _ | with_reducible apply State.fresh_within
    | with_reducible apply State.resetModule_within | with_reducible apply State.alert_within
    | with_reducible apply State.onPower_within | with_reducible apply State.wakeRec_within
    | with_reducible apply State.startAt_within | with_reducible apply State.restoreMt_within

/-- What `State.recause` may write. -/
def State.recause_touch : Nat :=
  union [Row.PWR_WAKE_REC_CAUSE.bit]

theorem State.recause_within {M : Nat} {s₀ s : State} (h : Within M s₀ s) (k : Covers M State.recause_touch)
    (cause : Nat) :
    Within M s₀ (State.recause s cause) := by
  simp only [State.recause_touch, covers_union] at k
  obtain ⟨k0, _⟩ := k
  unfold State.recause
  repeat' first
    | with_reducible assumption | with_reducible exact .refl _ _ | with_reducible apply State.wr_within
    | with_reducible apply State.when_within | with_reducible exact may_row (by with_reducible assumption) | intro _

/-- What `State.losePower` may write. -/
def State.losePower_touch : Nat :=
  union [Part.pins.bit, Part.power.bit, State.resetModule_touch, State.startAt_touch]

theorem State.losePower_within {M : Nat} {s₀ s : State} (h : Within M s₀ s) (k : Covers M State.losePower_touch)
    (latch : Bool) :
    Within M s₀ (State.losePower s latch) := by
  simp only [State.losePower_touch, covers_union] at k
  obtain ⟨k0, k1, k2, k3, _⟩ := k
  unfold State.losePower
  dsimp only
  repeat' first
    | with_reducible assumption | with_reducible exact .refl _ _ | with_reducible apply State.resetModule_within
    | with_reducible apply State.startAt_within | with_reducible exact may_row (by with_reducible assumption)
    | with_reducible apply mayAll_cons | with_reducible exact mayAll_nil _ | with_reducible apply within_pins
    | with_reducible apply within_power | with_reducible apply within_mk
    | exact Or.inr (by with_reducible assumption) | with_reducible exact Or.inl rfl

/-- What `execVinStart` may write. -/
def execVinStart_touch : Nat :=
  union [Row.PWR_VIN_STAT_VIN.bit, Row.REF_STAT_MT_COARSE.bit, State.onPower_touch, State.startAt_touch,
    State.begin_touch]

theorem execVinStart_within {M : Nat} (s : State) (k : Covers M execVinStart_touch) (vin : Nat) :
    Answered M s (execVinStart vin s) := by
  simp only [execVinStart_touch, covers_union] at k
  obtain ⟨k0, k1, k2, k3, k4, _⟩ := k
  unfold execVinStart
  dsimp only
  repeat' first
    | apply answered_next | with_reducible assumption | with_reducible exact .refl _ _
    | with_reducible apply State.wr_within | with_reducible apply State.onPower_within
    | with_reducible apply State.startAt_within | with_reducible apply State.begin_within
    | with_reducible apply State.when_within | with_reducible apply State.wrb_within
    | with_reducible exact may_row (by with_reducible assumption) | intro _

/-- What `execPowerLoss` may write. -/
def execPowerLoss_touch : Nat :=
  union [State.losePower_touch, State.begin_touch]

theorem execPowerLoss_within {M : Nat} (s : State) (k : Covers M execPowerLoss_touch) :
    Answered M s (execPowerLoss s) := by
  simp only [execPowerLoss_touch, covers_union] at k
  obtain ⟨k0, k1, _⟩ := k
  unfold execPowerLoss
  repeat' first
    | apply answered_next | with_reducible assumption | with_reducible exact .refl _ _
    | with_reducible apply State.losePower_within | with_reducible apply State.begin_within

/-- What `execThermalTrip` may write. -/
def execThermalTrip_touch : Nat :=
  union [State.losePower_touch, State.begin_touch]

theorem execThermalTrip_within {M : Nat} (s : State) (k : Covers M execThermalTrip_touch) :
    Answered M s (execThermalTrip s) := by
  simp only [execThermalTrip_touch, covers_union] at k
  obtain ⟨k0, k1, _⟩ := k
  unfold execThermalTrip
  dsimp only
  repeat' first
    | apply answered_next | with_reducible assumption | with_reducible exact .refl _ _
    | with_reducible apply State.losePower_within | with_reducible apply State.begin_within
    | with_reducible apply State.when_within | intro _

/-- What `execModReset` may write. -/
def execModReset_touch : Nat :=
  union [State.commandReset_touch, State.begin_touch]

theorem execModReset_within {M : Nat} (s : State) (k : Covers M execModReset_touch) :
    Answered M s (execModReset s) := by
  simp only [execModReset_touch, covers_union] at k
  obtain ⟨k0, k1, _⟩ := k
  unfold execModReset
  dsimp only
  repeat' first
    | apply answered_next | with_reducible assumption | with_reducible exact .refl _ _
    | with_reducible apply State.commandReset_within | with_reducible apply State.begin_within
    | with_reducible apply State.when_within | intro _

/-- What `State.showDeferred` may write. -/
def State.showDeferred_touch : Nat :=
  union [Row.PWR_STATE_STAT_DEFERRED.bit]

theorem State.showDeferred_within {M : Nat} {s₀ s : State} (h : Within M s₀ s)
    (k : Covers M State.showDeferred_touch) :
    Within M s₀ (State.showDeferred s) := by
  simp only [State.showDeferred_touch, covers_union] at k
  obtain ⟨k0, _⟩ := k
  unfold State.showDeferred
  repeat' first
    | with_reducible assumption | with_reducible exact .refl _ _ | with_reducible apply State.wrb_within
    | with_reducible exact may_row (by with_reducible assumption)

/-- What `State.admitStage` may write. -/
def State.admitStage_touch : Nat :=
  union [State.onPower_touch, State.showDeferred_touch]

theorem State.admitStage_within {M : Nat} {s₀ s : State} (h : Within M s₀ s) (k : Covers M State.admitStage_touch)
    (d : Domain) :
    Within M s₀ (State.admitStage s d) := by
  simp only [State.admitStage_touch, covers_union] at k
  obtain ⟨k0, k1, _⟩ := k
  unfold State.admitStage
  dsimp only
  repeat' first
    | with_reducible assumption | with_reducible exact .refl _ _ | with_reducible apply State.onPower_within
    | with_reducible apply State.showDeferred_within

/-- What `execStageAdmit` may write. -/
def execStageAdmit_touch : Nat :=
  union [State.begin_touch, State.admitStage_touch]

theorem execStageAdmit_within {M : Nat} (s : State) (k : Covers M execStageAdmit_touch) :
    Answered M s (execStageAdmit s) := by
  simp only [execStageAdmit_touch, covers_union] at k
  obtain ⟨k0, k1, _⟩ := k
  unfold execStageAdmit
  dsimp only
  repeat' first
    | apply answered_next | with_reducible assumption | with_reducible exact .refl _ _
    | with_reducible apply State.begin_within | with_reducible apply State.when_within
    | with_reducible apply State.admitStage_within | intro _ | split

/-- What `State.enqueueStages` may write. -/
def State.enqueueStages_touch : Nat :=
  union [State.onPower_touch, State.showDeferred_touch]

theorem State.enqueueStages_within {M : Nat} {s₀ s : State} (h : Within M s₀ s)
    (k : Covers M State.enqueueStages_touch) (ds : List Domain) :
    Within M s₀ (State.enqueueStages s ds) := by
  simp only [State.enqueueStages_touch, covers_union] at k
  obtain ⟨k0, k1, _⟩ := k
  unfold State.enqueueStages
  repeat' first
    | with_reducible assumption | with_reducible exact .refl _ _ | with_reducible apply State.onPower_within
    | with_reducible apply State.showDeferred_within

/-- What `execVinWarnRise` may write. -/
def execVinWarnRise_touch : Nat :=
  union [Row.PWR_EVT_VIN_WARN.bit, Row.PWR_VIN_STAT_VIN.bit, Row.PWR_VIN_STAT_WARN.bit, State.evtLog_touch,
    State.alert_touch, State.trigger_touch, State.showDeferred_touch, State.begin_touch]

theorem execVinWarnRise_within {M : Nat} (s : State) (k : Covers M execVinWarnRise_touch) (vin : Nat) :
    Answered M s (execVinWarnRise vin s) := by
  simp only [execVinWarnRise_touch, covers_union] at k
  obtain ⟨k0, k1, k2, k3, k4, k5, k6, k7, _⟩ := k
  unfold execVinWarnRise
  dsimp only
  repeat' first
    | apply answered_next | with_reducible assumption | with_reducible exact .refl _ _
    | with_reducible apply State.evtLog_within | with_reducible apply State.alert_within
    | with_reducible apply State.trigger_within | with_reducible apply State.wr_within
    | with_reducible apply State.showDeferred_within | with_reducible apply State.begin_within
    | with_reducible apply State.when_within | with_reducible apply State.wrb_within
    | with_reducible exact may_row (by with_reducible assumption) | intro _

/-- What `execVinWarnClear` may write. -/
def execVinWarnClear_touch : Nat :=
  union [Row.PWR_VIN_STAT_VIN.bit, Row.PWR_VIN_STAT_WARN.bit, State.showDeferred_touch, State.begin_touch]

theorem execVinWarnClear_within {M : Nat} (s : State) (k : Covers M execVinWarnClear_touch) (vin : Nat) :
    Answered M s (execVinWarnClear vin s) := by
  simp only [execVinWarnClear_touch, covers_union] at k
  obtain ⟨k0, k1, k2, k3, _⟩ := k
  unfold execVinWarnClear
  dsimp only
  repeat' first
    | apply answered_next | with_reducible assumption | with_reducible exact .refl _ _
    | with_reducible apply State.wr_within | with_reducible apply State.showDeferred_within
    | with_reducible apply State.begin_within | with_reducible apply State.when_within
    | with_reducible apply State.wrb_within | with_reducible exact may_row (by with_reducible assumption) | intro _

/-- What `State.startTransition` may write. -/
def State.startTransition_touch : Nat :=
  union [Row.PWR_STATE_STAT_BUSY.bit, State.onPower_touch, State.optEval_touch, State.enqueueStages_touch]

theorem State.startTransition_within {M : Nat} {s₀ s : State} (h : Within M s₀ s)
    (k : Covers M State.startTransition_touch) (t : Nat) :
    Within M s₀ (State.startTransition s t) := by
  simp only [State.startTransition_touch, covers_union] at k
  obtain ⟨k0, k1, k2, k3, _⟩ := k
  unfold State.startTransition
  dsimp only
  repeat' first
    | with_reducible assumption | with_reducible exact .refl _ _ | with_reducible apply State.onPower_within
    | with_reducible apply State.optEval_within | with_reducible apply State.wrb_within
    | with_reducible apply State.enqueueStages_within | with_reducible exact may_row (by with_reducible assumption)

/-- What `State.refuse` may write. -/
def State.refuse_touch : Nat :=
  union [Row.PWR_EVT_REFUSED.bit, Row.PWR_LAST_REFUSE_ABORT.bit, Row.PWR_LAST_REFUSE_ISLAND.bit,
    Row.PWR_LAST_REFUSE_REASON.bit, Row.PWR_LAST_REFUSE_TARGET.bit, Row.PWR_LAST_REFUSE_VALID.bit,
    Row.PWR_REFUSE_CNT_ABORTED.bit, Row.PWR_REFUSE_CNT_REFUSED.bit, State.countWrap_touch, State.evt_touch,
    State.emit_touch]

theorem State.refuse_within {M : Nat} {s₀ s : State} (h : Within M s₀ s) (k : Covers M State.refuse_touch)
    (island : Nat) (reason : Nat) (t : Nat) (abort : Bool) :
    Within M s₀ (State.refuse s island reason t abort) := by
  simp only [State.refuse_touch, covers_union] at k
  obtain ⟨k0, k1, k2, k3, k4, k5, k6, k7, k8, k9, k10, _⟩ := k
  unfold State.refuse
  dsimp only
  repeat' first
    | with_reducible assumption | with_reducible exact .refl _ _ | with_reducible apply State.countWrap_within
    | with_reducible apply State.wr_within | with_reducible apply State.evt_within
    | with_reducible apply State.wrb_within | with_reducible apply State.emit_within
    | with_reducible exact may_row (by with_reducible assumption) | split

/-- What `State.requestState` may write. -/
def State.requestState_touch : Nat :=
  union [State.refuse_touch, State.startTransition_touch]

theorem State.requestState_within {M : Nat} {s₀ s : State} (h : Within M s₀ s)
    (k : Covers M State.requestState_touch) (t : Nat) :
    Within M s₀ (State.requestState s t) := by
  simp only [State.requestState_touch, covers_union] at k
  obtain ⟨k0, k1, _⟩ := k
  unfold State.requestState
  repeat' first
    | with_reducible assumption | with_reducible exact .refl _ _ | with_reducible apply State.refuse_within
    | with_reducible apply State.startTransition_within | split

/-- What `State.requestWings` may write. -/
def State.requestWings_touch : Nat :=
  union [State.refuse_touch, State.startTransition_touch]

theorem State.requestWings_within {M : Nat} {s₀ s : State} (h : Within M s₀ s)
    (k : Covers M State.requestWings_touch) :
    Within M s₀ (State.requestWings s) := by
  simp only [State.requestWings_touch, covers_union] at k
  obtain ⟨k0, k1, _⟩ := k
  unfold State.requestWings
  repeat' first
    | with_reducible assumption | with_reducible exact .refl _ _ | with_reducible apply State.refuse_within
    | with_reducible apply State.startTransition_within | split

/-- What `State.afterTransition` may write. -/
def State.afterTransition_touch : Nat :=
  union [State.onPower_touch, State.requestWings_touch, State.requestState_touch]

theorem State.afterTransition_within {M : Nat} {s₀ s : State} (h : Within M s₀ s)
    (k : Covers M State.afterTransition_touch) :
    Within M s₀ (State.afterTransition s) := by
  simp only [State.afterTransition_touch, covers_union] at k
  obtain ⟨k0, k1, k2, _⟩ := k
  unfold State.afterTransition
  repeat' first
    | with_reducible assumption | with_reducible exact .refl _ _ | with_reducible apply State.onPower_within
    | with_reducible apply State.requestWings_within | with_reducible apply State.requestState_within | intro _
    | split

/-- What `State.targetWrite` may write. -/
def State.targetWrite_touch : Nat :=
  union [Row.PWR_STATE_CTL_TARGET.bit, State.onPower_touch, State.requestState_touch]

theorem State.targetWrite_within {M : Nat} {s₀ s : State} (h : Within M s₀ s) (k : Covers M State.targetWrite_touch)
    (t : Nat) :
    Within M s₀ (State.targetWrite s t) := by
  simp only [State.targetWrite_touch, covers_union] at k
  obtain ⟨k0, k1, k2, _⟩ := k
  unfold State.targetWrite
  dsimp only
  repeat' first
    | with_reducible assumption | with_reducible exact .refl _ _ | with_reducible apply State.wr_within
    | with_reducible apply State.onPower_within | with_reducible apply State.requestState_within
    | with_reducible exact may_row (by with_reducible assumption) | intro _ | split

/-- What `execStateTargetWrite` may write. -/
def execStateTargetWrite_touch : Nat :=
  union [State.targetWrite_touch, State.begin_touch]

theorem execStateTargetWrite_within {M : Nat} (s : State) (k : Covers M execStateTargetWrite_touch) (req : Req)
    (target : Fin 8) :
    Answered M s (execStateTargetWrite req target s) := by
  simp only [execStateTargetWrite_touch, covers_union] at k
  obtain ⟨k0, k1, _⟩ := k
  unfold execStateTargetWrite
  repeat' first
    | apply answered_next | with_reducible assumption | with_reducible exact .refl _ _
    | with_reducible apply State.targetWrite_within | with_reducible apply State.via_within
    | with_reducible apply State.begin_within | intro _

/-- What `State.wingWrite` may write. -/
def State.wingWrite_touch : Nat :=
  union [Row.PWR_STATE_CTL_WING_A.bit, Row.PWR_STATE_CTL_WING_B.bit, State.requestWings_touch]

theorem State.wingWrite_within {M : Nat} {s₀ s : State} (h : Within M s₀ s) (k : Covers M State.wingWrite_touch)
    (a : Nat) (b : Nat) :
    Within M s₀ (State.wingWrite s a b) := by
  simp only [State.wingWrite_touch, covers_union] at k
  obtain ⟨k0, k1, k2, _⟩ := k
  unfold State.wingWrite
  dsimp only
  repeat' first
    | with_reducible assumption | with_reducible exact .refl _ _ | with_reducible apply State.wr_within
    | with_reducible apply State.requestWings_within | with_reducible apply State.when_within
    | with_reducible exact may_row (by with_reducible assumption) | intro _

/-- What `execWingStateWrite` may write. -/
def execWingStateWrite_touch : Nat :=
  union [State.wingWrite_touch, State.begin_touch]

theorem execWingStateWrite_within {M : Nat} (s : State) (k : Covers M execWingStateWrite_touch) (req : Req)
    (wingA : Fin 4) (wingB : Fin 4) :
    Answered M s (execWingStateWrite req wingA wingB s) := by
  simp only [execWingStateWrite_touch, covers_union] at k
  obtain ⟨k0, k1, _⟩ := k
  unfold execWingStateWrite
  repeat' first
    | apply answered_next | with_reducible assumption | with_reducible exact .refl _ _
    | with_reducible apply State.wingWrite_within | with_reducible apply State.via_within
    | with_reducible apply State.begin_within | intro _

/-- What `State.deepSteps` may write. -/
def State.deepSteps_touch : Nat :=
  union [Row.HST_LINK_GEN.bit, Row.HST_LINK_UP.bit, Row.HST_LINK_WIDTH.bit, State.onPower_touch,
    State.zeroise_touch]

theorem State.deepSteps_within {M : Nat} {s₀ s : State} (h : Within M s₀ s) (k : Covers M State.deepSteps_touch) :
    Within M s₀ (State.deepSteps s) := by
  simp only [State.deepSteps_touch, covers_union] at k
  obtain ⟨k0, k1, k2, k3, k4, _⟩ := k
  unfold State.deepSteps
  dsimp only
  repeat' first
    | with_reducible assumption | with_reducible exact .refl _ _ | with_reducible apply State.wr_within
    | with_reducible apply State.onPower_within | with_reducible apply State.wrb_within
    | with_reducible apply State.zeroise_within | with_reducible exact may_row (by with_reducible assumption)

/-- What `State.enterOff` may write. -/
def State.enterOff_touch : Nat :=
  union [Row.ATT_LOST_COUNT.bit, Row.ATT_STAT_SEALED_FULL.bit, Row.ATT_STAT_SEALED_USED.bit,
    Row.ATT_STAT_WRAPPED.bit, Row.ATT_STAT_WR_PTR.bit, Part.pins.bit, Part.attic.bit, Part.boot.bit]

theorem State.enterOff_within {M : Nat} {s₀ s : State} (h : Within M s₀ s) (k : Covers M State.enterOff_touch) :
    Within M s₀ (State.enterOff s) := by
  simp only [State.enterOff_touch, covers_union] at k
  obtain ⟨k0, k1, k2, k3, k4, k5, k6, k7, _⟩ := k
  unfold State.enterOff
  dsimp only
  repeat' first
    | with_reducible assumption | with_reducible exact .refl _ _ | with_reducible apply State.clearRows_within
    | with_reducible exact may_row (by with_reducible assumption) | with_reducible apply mayAll_cons
    | with_reducible exact mayAll_nil _ | unfold atticRows | split | with_reducible apply within_pins
    | with_reducible apply within_attic | with_reducible apply within_boot | with_reducible apply within_mk
    | exact Or.inr (by with_reducible assumption) | with_reducible exact Or.inl rfl

/-- What `State.enterState` may write. -/
def State.enterState_touch : Nat :=
  union [Row.PWR_EVT_STATE_DONE.bit, Row.PWR_STATE_STAT_BUSY.bit, Row.PWR_STATE_STAT_STATE.bit,
    State.applyLanes_touch, State.alert_touch, State.powerDown_touch, State.onPower_touch, State.deepSteps_touch,
    State.evt_touch, State.enterOff_touch]

theorem State.enterState_within {M : Nat} {s₀ s : State} (h : Within M s₀ s) (k : Covers M State.enterState_touch)
    (t : Nat) :
    Within M s₀ (State.enterState s t) := by
  simp only [State.enterState_touch, covers_union] at k
  obtain ⟨k0, k1, k2, k3, k4, k5, k6, k7, k8, k9, _⟩ := k
  unfold State.enterState
  dsimp only
  repeat' first
    | with_reducible assumption | with_reducible exact .refl _ _ | with_reducible apply State.applyLanes_within
    | with_reducible apply State.alert_within | with_reducible apply State.powerDown_within
    | with_reducible apply State.wr_within | with_reducible apply State.onPower_within
    | with_reducible apply State.deepSteps_within | with_reducible apply State.evt_within
    | with_reducible apply State.when_within | with_reducible apply State.wrb_within
    | with_reducible apply State.enterOff_within | with_reducible exact may_row (by with_reducible assumption)
    | intro _

/-- What `State.entryDone` may write. -/
def State.entryDone_touch : Nat :=
  union [State.afterTransition_touch, State.enterState_touch, State.moveWing_touch, State.resetContexts_touch]

theorem State.entryDone_within {M : Nat} {s₀ s : State} (h : Within M s₀ s) (k : Covers M State.entryDone_touch)
    (t : Nat) :
    Within M s₀ (State.entryDone s t) := by
  simp only [State.entryDone_touch, covers_union] at k
  obtain ⟨k0, k1, k2, k3, _⟩ := k
  unfold State.entryDone
  dsimp only
  repeat' first
    | with_reducible assumption | with_reducible exact .refl _ _ | with_reducible apply State.afterTransition_within
    | with_reducible apply State.enterState_within | with_reducible apply State.moveWing_within
    | with_reducible apply State.when_within | with_reducible apply State.resetContexts_within | intro _

/-- What `execStateEntryDone` may write. -/
def execStateEntryDone_touch : Nat :=
  union [State.entryDone_touch, State.begin_touch]

theorem execStateEntryDone_within {M : Nat} (s : State) (k : Covers M execStateEntryDone_touch) :
    Answered M s (execStateEntryDone s) := by
  simp only [execStateEntryDone_touch, covers_union] at k
  obtain ⟨k0, k1, _⟩ := k
  unfold execStateEntryDone
  dsimp only
  repeat' first
    | apply answered_next | with_reducible assumption | with_reducible exact .refl _ _
    | with_reducible apply State.entryDone_within | with_reducible apply State.begin_within
    | with_reducible apply State.when_within | intro _ | split

/-- What `State.unraise` may write. -/
def State.unraise_touch : Nat :=
  union [State.powerDown_touch]

theorem State.unraise_within {M : Nat} {s₀ s : State} (h : Within M s₀ s) (k : Covers M State.unraise_touch) :
    Within M s₀ (State.unraise s) := by
  simp only [State.unraise_touch, covers_union] at k
  obtain ⟨k0, _⟩ := k
  unfold State.unraise
  dsimp only
  repeat' first
    | with_reducible assumption | with_reducible exact .refl _ _ | with_reducible apply State.powerDown_within
    | with_reducible apply State.when_within | intro _

/-- What `State.returnState` may write. -/
def State.returnState_touch : Nat :=
  union [Row.PWR_STATE_STAT_BUSY.bit, State.unraise_touch, State.onPower_touch, State.optEval_touch]

theorem State.returnState_within {M : Nat} {s₀ s : State} (h : Within M s₀ s) (k : Covers M State.returnState_touch) :
    Within M s₀ (State.returnState s) := by
  simp only [State.returnState_touch, covers_union] at k
  obtain ⟨k0, k1, k2, k3, _⟩ := k
  unfold State.returnState
  dsimp only
  repeat' first
    | with_reducible assumption | with_reducible exact .refl _ _ | with_reducible apply State.unraise_within
    | with_reducible apply State.onPower_within | with_reducible apply State.optEval_within
    | with_reducible apply State.wrb_within | with_reducible exact may_row (by with_reducible assumption)

/-- What `State.actHeld` may write. -/
def State.actHeld_touch : Nat :=
  union [State.afterTransition_touch]

theorem State.actHeld_within {M : Nat} {s₀ s : State} (h : Within M s₀ s) (k : Covers M State.actHeld_touch) :
    Within M s₀ (State.actHeld s) := by
  simp only [State.actHeld_touch, covers_union] at k
  obtain ⟨k0, _⟩ := k
  unfold State.actHeld
  repeat' first
    | with_reducible assumption | with_reducible exact .refl _ _ | with_reducible apply State.afterTransition_within
    | with_reducible apply State.when_within | intro _

/-- What `State.closeTimeout` may write. -/
def State.closeTimeout_touch : Nat :=
  union [Part.free.bit, State.declareFailed_touch]

theorem State.closeTimeout_within {M : Nat} {s₀ s : State} (h : Within M s₀ s)
    (k : Covers M State.closeTimeout_touch) (island : Nat) :
    Within M s₀ (State.closeTimeout s island) := by
  simp only [State.closeTimeout_touch, covers_union] at k
  obtain ⟨k0, k1, _⟩ := k
  unfold State.closeTimeout
  dsimp only
  repeat' first
    | with_reducible assumption | with_reducible exact .refl _ _ | with_reducible apply State.fresh_within
    | with_reducible apply State.declareFailed_within

/-- What `execStateEntryRefuse` may write. -/
def execStateEntryRefuse_touch : Nat :=
  union [State.returnState_touch, State.closeTimeout_touch, State.refuse_touch, State.actHeld_touch,
    State.begin_touch]

theorem execStateEntryRefuse_within {M : Nat} (s : State) (k : Covers M execStateEntryRefuse_touch)
    (island : Fin 25) (reason : Fin 16) :
    Answered M s (execStateEntryRefuse island reason s) := by
  simp only [execStateEntryRefuse_touch, covers_union] at k
  obtain ⟨k0, k1, k2, k3, k4, _⟩ := k
  unfold execStateEntryRefuse
  dsimp only
  repeat' first
    | apply answered_next | with_reducible assumption | with_reducible exact .refl _ _
    | with_reducible apply State.returnState_within | with_reducible apply State.closeTimeout_within
    | with_reducible apply State.refuse_within | with_reducible apply State.actHeld_within
    | with_reducible apply State.begin_within | with_reducible apply State.when_within | intro _ | split

/-- What `State.wakeIsland` may write. -/
def State.wakeIsland_touch : Nat :=
  union [Row.PWR_WOA_CNT_MAX_STALL.bit, Row.PWR_WOA_CNT_WAKES.bit, State.native_touch, State.countWrap_touch,
    State.onPower_touch, State.admitStage_touch]

theorem State.wakeIsland_within {M : Nat} {s₀ s : State} (h : Within M s₀ s) (k : Covers M State.wakeIsland_touch)
    (island : Nat) (stall : Nat) :
    Within M s₀ (State.wakeIsland s island stall) := by
  simp only [State.wakeIsland_touch, covers_union] at k
  obtain ⟨k0, k1, k2, k3, k4, k5, _⟩ := k
  unfold State.wakeIsland
  dsimp only
  repeat' first
    | with_reducible assumption | with_reducible exact .refl _ _ | with_reducible apply State.native_within
    | with_reducible apply State.countWrap_within | with_reducible apply State.wr_within
    | with_reducible apply State.onPower_within | with_reducible apply State.admitStage_within
    | with_reducible exact may_row (by with_reducible assumption)

/-- What `execWakeOnAccess` may write. -/
def execWakeOnAccess_touch : Nat :=
  union [State.wakeIsland_touch, State.begin_touch]

theorem execWakeOnAccess_within {M : Nat} (s : State) (k : Covers M execWakeOnAccess_touch) (island : Fin 25)
    (stall : Nat) :
    Answered M s (execWakeOnAccess island stall s) := by
  simp only [execWakeOnAccess_touch, covers_union] at k
  obtain ⟨k0, k1, _⟩ := k
  unfold execWakeOnAccess
  dsimp only
  repeat' first
    | apply answered_next | with_reducible assumption | with_reducible exact .refl _ _
    | with_reducible apply State.wakeIsland_within | with_reducible apply State.begin_within
    | with_reducible apply State.when_within | intro _

/-- What `execWoaLingerExpiry` may write. -/
def execWoaLingerExpiry_touch : Nat :=
  union [State.onPower_touch, State.begin_touch]

theorem execWoaLingerExpiry_within {M : Nat} (s : State) (k : Covers M execWoaLingerExpiry_touch) (group : Fin 3) :
    Answered M s (execWoaLingerExpiry group s) := by
  simp only [execWoaLingerExpiry_touch, covers_union] at k
  obtain ⟨k0, k1, _⟩ := k
  unfold execWoaLingerExpiry
  dsimp only
  repeat' first
    | apply answered_next | with_reducible assumption | with_reducible exact .refl _ _
    | with_reducible apply State.onPower_within | with_reducible apply State.begin_within

/-- What `execWakeNAssert` may write. -/
def execWakeNAssert_touch : Nat :=
  union [State.returnState_touch, State.wake_touch, State.refuse_touch, State.actHeld_touch, State.recause_touch,
    State.begin_touch]

theorem execWakeNAssert_within {M : Nat} (s : State) (k : Covers M execWakeNAssert_touch) :
    Answered M s (execWakeNAssert s) := by
  simp only [execWakeNAssert_touch, covers_union] at k
  obtain ⟨k0, k1, k2, k3, k4, k5, _⟩ := k
  unfold execWakeNAssert
  dsimp only
  repeat' first
    | apply answered_next | with_reducible assumption | with_reducible exact .refl _ _
    | with_reducible apply State.returnState_within | with_reducible apply State.wake_within
    | with_reducible apply State.refuse_within | with_reducible apply State.actHeld_within
    | with_reducible apply State.recause_within | with_reducible apply State.begin_within
    | with_reducible apply State.when_within | intro _ | split

/-- What `execWakeTimerExpiry` may write. -/
def execWakeTimerExpiry_touch : Nat :=
  union [State.wake_touch, State.begin_touch]

theorem execWakeTimerExpiry_within {M : Nat} (s : State) (k : Covers M execWakeTimerExpiry_touch) :
    Answered M s (execWakeTimerExpiry s) := by
  simp only [execWakeTimerExpiry_touch, covers_union] at k
  obtain ⟨k0, k1, _⟩ := k
  unfold execWakeTimerExpiry
  dsimp only
  repeat' first
    | apply answered_next | with_reducible assumption | with_reducible exact .refl _ _
    | with_reducible apply State.wake_within | with_reducible apply State.begin_within
    | with_reducible apply State.when_within | with_reducible exact may_row (by with_reducible assumption) | intro _

/-- What `State.watchWing` may write. -/
def State.watchWing_touch : Nat :=
  union [Row.PWR_WAKE_REC_WATCH_LAST.bit, State.onPower_touch]

theorem State.watchWing_within {M : Nat} {s₀ s : State} (h : Within M s₀ s) (k : Covers M State.watchWing_touch)
    (w : Wing) (mean : Nat) :
    Within M s₀ (State.watchWing s w mean) := by
  simp only [State.watchWing_touch, covers_union] at k
  obtain ⟨k0, k1, _⟩ := k
  unfold State.watchWing
  dsimp only
  repeat' first
    | with_reducible assumption | with_reducible exact .refl _ _ | with_reducible apply State.wr_within
    | with_reducible apply State.onPower_within | with_reducible exact may_row (by with_reducible assumption)
    | intro _ | split

/-- What `State.lightFound` may write. -/
def State.lightFound_touch : Nat :=
  union [State.wake_touch, State.recause_touch]

theorem State.lightFound_within {M : Nat} {s₀ s : State} (h : Within M s₀ s) (k : Covers M State.lightFound_touch)
    (cause : Nat) :
    Within M s₀ (State.lightFound s cause) := by
  simp only [State.lightFound_touch, covers_union] at k
  obtain ⟨k0, k1, _⟩ := k
  unfold State.lightFound
  repeat' first
    | with_reducible assumption | with_reducible exact .refl _ _ | with_reducible apply State.wake_within
    | with_reducible apply State.recause_within | split

/-- What `State.watchCycle` may write. -/
def State.watchCycle_touch : Nat :=
  union [Row.PWR_WAKE_REC_WATCH_LAST.bit, State.watchWing_touch, State.lightFound_touch]

theorem State.watchCycle_within {M : Nat} {s₀ s : State} (h : Within M s₀ s) (k : Covers M State.watchCycle_touch)
    (meanA : Nat) (meanB : Nat) :
    Within M s₀ (State.watchCycle s meanA meanB) := by
  simp only [State.watchCycle_touch, covers_union] at k
  obtain ⟨k0, k1, k2, _⟩ := k
  unfold State.watchCycle
  dsimp only
  repeat' first
    | with_reducible assumption | with_reducible exact .refl _ _ | with_reducible apply State.watchWing_within
    | with_reducible apply State.wr_within | with_reducible apply State.lightFound_within
    | with_reducible exact may_row (by with_reducible assumption) | split

/-- What `execWatchCycle` may write. -/
def execWatchCycle_touch : Nat :=
  union [State.watchCycle_touch, State.begin_touch]

theorem execWatchCycle_within {M : Nat} (s : State) (k : Covers M execWatchCycle_touch) (meanA : Nat) (meanB : Nat) :
    Answered M s (execWatchCycle meanA meanB s) := by
  simp only [execWatchCycle_touch, covers_union] at k
  obtain ⟨k0, k1, _⟩ := k
  unfold execWatchCycle
  dsimp only
  repeat' first
    | apply answered_next | with_reducible assumption | with_reducible exact .refl _ _
    | with_reducible apply State.watchCycle_within | with_reducible apply State.begin_within
    | with_reducible apply State.when_within | intro _

/-- What `State.sendHier` may write. -/
def State.sendHier_touch : Nat :=
  union [Row.PWR_HIER_STAT_DONE.bit, State.sendCell_touch]

theorem State.sendHier_within {M : Nat} {s₀ s : State} (h : Within M s₀ s) (k : Covers M State.sendHier_touch)
    (addr : Nat) :
    Within M s₀ (State.sendHier s addr) := by
  simp only [State.sendHier_touch, covers_union] at k
  obtain ⟨k0, k1, _⟩ := k
  unfold State.sendHier
  repeat' first
    | with_reducible assumption | with_reducible exact .refl _ _ | with_reducible apply State.sendCell_within
    | with_reducible apply State.wr_within | with_reducible exact may_row (by with_reducible assumption)

/-- What `State.hierGo` may write. -/
def State.hierGo_touch : Nat :=
  union [Row.PWR_HIER_STAT_BUSY.bit, Row.PWR_HIER_STAT_DONE.bit, Row.PWR_HIER_STAT_SKIPPED.bit,
    State.sendHier_touch, State.onPower_touch]

theorem State.hierGo_within {M : Nat} {s₀ s : State} (h : Within M s₀ s) (k : Covers M State.hierGo_touch)
    (reachable : List Nat) :
    Within M s₀ (State.hierGo s reachable) := by
  simp only [State.hierGo_touch, covers_union] at k
  obtain ⟨k0, k1, k2, k3, k4, _⟩ := k
  unfold State.hierGo
  dsimp only
  repeat' first
    | with_reducible assumption | with_reducible exact .refl _ _ | with_reducible apply State.sendHier_within
    | with_reducible apply State.wr_within | with_reducible apply State.onPower_within
    | with_reducible apply State.wrb_within | with_reducible apply within_foldl
    | with_reducible exact may_row (by with_reducible assumption) | intro _ | split

/-- What `execHierGo` may write. -/
def execHierGo_touch : Nat :=
  union [State.hierGo_touch, State.begin_touch]

theorem execHierGo_within {M : Nat} (s : State) (k : Covers M execHierGo_touch) (req : Req) (reachable : List Nat) :
    Answered M s (execHierGo req reachable s) := by
  simp only [execHierGo_touch, covers_union] at k
  obtain ⟨k0, k1, _⟩ := k
  unfold execHierGo
  repeat' first
    | apply answered_next | with_reducible assumption | with_reducible exact .refl _ _
    | with_reducible apply State.hierGo_within | with_reducible apply State.via_within
    | with_reducible apply State.begin_within | with_reducible apply State.when_within
    | with_reducible exact may_row (by with_reducible assumption) | intro _

/-- What `execHierForwardNext` may write. -/
def execHierForwardNext_touch : Nat :=
  union [Row.PWR_HIER_STAT_BUSY.bit, State.sendHier_touch, State.onPower_touch, State.begin_touch]

theorem execHierForwardNext_within {M : Nat} (s : State) (k : Covers M execHierForwardNext_touch) :
    Answered M s (execHierForwardNext s) := by
  simp only [execHierForwardNext_touch, covers_union] at k
  obtain ⟨k0, k1, k2, k3, _⟩ := k
  unfold execHierForwardNext
  dsimp only
  repeat' first
    | apply answered_next | with_reducible assumption | with_reducible exact .refl _ _
    | with_reducible apply State.sendHier_within | with_reducible apply State.onPower_within
    | with_reducible apply State.begin_within | with_reducible apply State.wrb_within
    | with_reducible exact may_row (by with_reducible assumption) | intro _ | split

end Sys2Proof.Machine
end

