-- ==== Sys2Proof/Laws/WithinImage.lean ====
section
/-!
SUPPORT. `Within` over the operations of Machine/Image.lean.
-/

namespace Sys2Proof.Machine

/-- What `State.onImage` may write. -/
def State.onImage_touch : Nat :=
  union [Part.image.bit]

theorem State.onImage_within {M : Nat} {s₀ s : State} (h : Within M s₀ s) (k : Covers M State.onImage_touch)
    (f : ImageState → ImageState) :
    Within M s₀ (State.onImage s f) := by
  simp only [State.onImage_touch, covers_union] at k
  obtain ⟨k0, _⟩ := k
  unfold State.onImage
  repeat' first | with_reducible assumption | with_reducible exact .refl _ _ | with_reducible apply within_image

/-- What `State.refuseImg` may write. -/
def State.refuseImg_touch : Nat :=
  union [Row.SEC_IMG_STAT_REFUSED.bit]

theorem State.refuseImg_within {M : Nat} {s₀ s : State} (h : Within M s₀ s) (k : Covers M State.refuseImg_touch) :
    Within M s₀ (State.refuseImg s) := by
  simp only [State.refuseImg_touch, covers_union] at k
  obtain ⟨k0, _⟩ := k
  unfold State.refuseImg
  repeat' first
    | with_reducible assumption | with_reducible exact .refl _ _ | with_reducible apply State.wrb_within
    | with_reducible exact may_row (by with_reducible assumption)

/-- What `State.imgReason` may write. -/
def State.imgReason_touch : Nat :=
  union [Row.SEC_IMG_STAT_REASON.bit, State.emit_touch]

theorem State.imgReason_within {M : Nat} {s₀ s : State} (h : Within M s₀ s) (k : Covers M State.imgReason_touch)
    (reason : Nat) :
    Within M s₀ (State.imgReason s reason) := by
  simp only [State.imgReason_touch, covers_union] at k
  obtain ⟨k0, k1, _⟩ := k
  unfold State.imgReason
  repeat' first
    | with_reducible assumption | with_reducible exact .refl _ _ | with_reducible apply State.wr_within
    | with_reducible apply State.emit_within | with_reducible exact may_row (by with_reducible assumption)

/-- What `State.startImg` may write. -/
def State.startImg_touch : Nat :=
  union [Row.SEC_IMG_STAT_BUSY.bit, Row.SEC_IMG_STAT_PROGRESS.bit, State.askDma_touch, State.onImage_touch]

theorem State.startImg_within {M : Nat} {s₀ s : State} (h : Within M s₀ s) (k : Covers M State.startImg_touch)
    (c : ImgCmd) :
    Within M s₀ (State.startImg s c) := by
  simp only [State.startImg_touch, covers_union] at k
  obtain ⟨k0, k1, k2, k3, _⟩ := k
  unfold State.startImg
  repeat' first
    | with_reducible assumption | with_reducible exact .refl _ _ | with_reducible apply State.askDma_within
    | with_reducible apply State.onImage_within | with_reducible apply State.wr_within
    | with_reducible apply State.when_within | with_reducible apply State.wrb_within
    | with_reducible exact may_row (by with_reducible assumption) | intro _

/-- What `State.endFetch` may write. -/
def State.endFetch_touch : Nat :=
  union [State.endDma_touch]

theorem State.endFetch_within {M : Nat} {s₀ s : State} (h : Within M s₀ s) (k : Covers M State.endFetch_touch) :
    Within M s₀ (State.endFetch s) := by
  simp only [State.endFetch_touch, covers_union] at k
  obtain ⟨k0, _⟩ := k
  unfold State.endFetch
  repeat' first
    | with_reducible assumption | with_reducible exact .refl _ _ | with_reducible apply State.endDma_within
    | with_reducible apply State.when_within | intro _

/-- What `State.endImg` may write. -/
def State.endImg_touch : Nat :=
  union [Row.SEC_IMG_STAT_BUSY.bit, State.ring_touch, State.onImage_touch, State.endFetch_touch]

theorem State.endImg_within {M : Nat} {s₀ s : State} (h : Within M s₀ s) (k : Covers M State.endImg_touch) :
    Within M s₀ (State.endImg s) := by
  simp only [State.endImg_touch, covers_union] at k
  obtain ⟨k0, k1, k2, k3, _⟩ := k
  unfold State.endImg
  repeat' first
    | with_reducible assumption | with_reducible exact .refl _ _ | with_reducible apply State.ring_within
    | with_reducible apply State.onImage_within | with_reducible apply State.endFetch_within
    | with_reducible apply State.wrb_within | with_reducible exact may_row (by with_reducible assumption)

/-- What `State.unstage` may write. -/
def State.unstage_touch : Nat :=
  union [Row.SEC_IMG_STAT_SCOPE.bit, Row.SEC_IMG_STAT_STAGED.bit, State.onImage_touch]

theorem State.unstage_within {M : Nat} {s₀ s : State} (h : Within M s₀ s) (k : Covers M State.unstage_touch) :
    Within M s₀ (State.unstage s) := by
  simp only [State.unstage_touch, covers_union] at k
  obtain ⟨k0, k1, k2, _⟩ := k
  unfold State.unstage
  repeat' first
    | with_reducible assumption | with_reducible exact .refl _ _ | with_reducible apply State.onImage_within
    | with_reducible apply State.wr_within | with_reducible apply State.wrb_within
    | with_reducible exact may_row (by with_reducible assumption)

/-- What `State.loadVerify` may write. -/
def State.loadVerify_touch : Nat :=
  union [State.refuseImg_touch, State.startImg_touch, State.unstage_touch]

theorem State.loadVerify_within {M : Nat} {s₀ s : State} (h : Within M s₀ s) (k : Covers M State.loadVerify_touch) :
    Within M s₀ (State.loadVerify s) := by
  simp only [State.loadVerify_touch, covers_union] at k
  obtain ⟨k0, k1, k2, _⟩ := k
  unfold State.loadVerify
  repeat' first
    | with_reducible assumption | with_reducible exact .refl _ _ | with_reducible apply State.refuseImg_within
    | with_reducible apply State.startImg_within | with_reducible apply State.unstage_within | split

/-- What `execLoadVerify` may write. -/
def execLoadVerify_touch : Nat :=
  union [State.loadVerify_touch, State.begin_touch]

theorem execLoadVerify_within {M : Nat} (s : State) (k : Covers M execLoadVerify_touch) (req : Req) :
    Answered M s (execLoadVerify req s) := by
  simp only [execLoadVerify_touch, covers_union] at k
  obtain ⟨k0, k1, _⟩ := k
  unfold execLoadVerify
  repeat' first
    | apply answered_next | with_reducible assumption | with_reducible exact .refl _ _
    | with_reducible apply State.viaSec_within | with_reducible apply State.loadVerify_within
    | with_reducible apply State.begin_within | intro _

/-- What `State.stageImage` may write. -/
def State.stageImage_touch : Nat :=
  union [Row.SEC_IMG_STAT_PROGRESS.bit, Row.SEC_IMG_STAT_SCOPE.bit, Row.SEC_IMG_STAT_STAGED.bit,
    State.onImage_touch]

theorem State.stageImage_within {M : Nat} {s₀ s : State} (h : Within M s₀ s) (k : Covers M State.stageImage_touch)
    (i : Image) :
    Within M s₀ (State.stageImage s i) := by
  simp only [State.stageImage_touch, covers_union] at k
  obtain ⟨k0, k1, k2, k3, _⟩ := k
  unfold State.stageImage
  repeat' first
    | with_reducible assumption | with_reducible exact .refl _ _ | with_reducible apply State.onImage_within
    | with_reducible apply State.wr_within | with_reducible apply State.wrb_within
    | with_reducible exact may_row (by with_reducible assumption)

/-- What `State.loadVerified` may write. -/
def State.loadVerified_touch : Nat :=
  union [State.endImg_touch, State.stageImage_touch, State.imgReason_touch]

theorem State.loadVerified_within {M : Nat} {s₀ s : State} (h : Within M s₀ s)
    (k : Covers M State.loadVerified_touch) (a0 : Option Image) :
    Within M s₀ (State.loadVerified s a0) := by
  simp only [State.loadVerified_touch, covers_union] at k
  obtain ⟨k0, k1, k2, _⟩ := k
  unfold State.loadVerified
  dsimp only
  repeat' first
    | with_reducible assumption | with_reducible exact .refl _ _ | with_reducible apply State.endImg_within
    | with_reducible apply State.stageImage_within | with_reducible apply State.imgReason_within
    | with_reducible exact may_row (by with_reducible assumption) | split

/-- What `execLoadVerifyDone` may write. -/
def execLoadVerifyDone_touch : Nat :=
  union [State.loadVerified_touch, State.begin_touch]

theorem execLoadVerifyDone_within {M : Nat} (s : State) (k : Covers M execLoadVerifyDone_touch) (img : Option Image) :
    Answered M s (execLoadVerifyDone img s) := by
  simp only [execLoadVerifyDone_touch, covers_union] at k
  obtain ⟨k0, k1, _⟩ := k
  unfold execLoadVerifyDone
  dsimp only
  repeat' first
    | apply answered_next | with_reducible assumption | with_reducible exact .refl _ _
    | with_reducible apply State.loadVerified_within | with_reducible apply State.begin_within | split

/-- What `State.refetchFailed` may write. -/
def State.refetchFailed_touch : Nat :=
  union [Row.SEC_IMG_STAT_REASON.bit, State.refuseImg_touch]

theorem State.refetchFailed_within {M : Nat} {s₀ s : State} (h : Within M s₀ s)
    (k : Covers M State.refetchFailed_touch) :
    Within M s₀ (State.refetchFailed s) := by
  simp only [State.refetchFailed_touch, covers_union] at k
  obtain ⟨k0, k1, _⟩ := k
  unfold State.refetchFailed
  repeat' first
    | with_reducible assumption | with_reducible exact .refl _ _ | with_reducible apply State.refuseImg_within
    | with_reducible apply State.wr_within | with_reducible exact may_row (by with_reducible assumption)

/-- What `State.runStaged` may write. -/
def State.runStaged_touch : Nat :=
  union [State.onImage_touch, State.showImage_touch, State.unstage_touch]

theorem State.runStaged_within {M : Nat} {s₀ s : State} (h : Within M s₀ s) (k : Covers M State.runStaged_touch)
    (i : Image) :
    Within M s₀ (State.runStaged s i) := by
  simp only [State.runStaged_touch, covers_union] at k
  obtain ⟨k0, k1, k2, _⟩ := k
  unfold State.runStaged
  repeat' first
    | with_reducible assumption | with_reducible exact .refl _ _ | with_reducible apply State.onImage_within
    | with_reducible apply State.showImage_within | with_reducible apply State.unstage_within

/-- What `State.startStages` may write. -/
def State.startStages_touch : Nat :=
  union [State.enqueueStages_touch]

theorem State.startStages_within {M : Nat} {s₀ s : State} (h : Within M s₀ s) (k : Covers M State.startStages_touch)
    (i : Image) :
    Within M s₀ (State.startStages s i) := by
  simp only [State.startStages_touch, covers_union] at k
  obtain ⟨k0, _⟩ := k
  unfold State.startStages
  dsimp only
  repeat' first
    | with_reducible assumption | with_reducible exact .refl _ _ | with_reducible apply State.enqueueStages_within

/-- What `State.beginConfigure` may write. -/
def State.beginConfigure_touch : Nat :=
  union [Row.GLB_BOOT_STAT_STAGE.bit, Part.boot.bit, State.startStages_touch]

theorem State.beginConfigure_within {M : Nat} {s₀ s : State} (h : Within M s₀ s)
    (k : Covers M State.beginConfigure_touch) (i : Image) :
    Within M s₀ (State.beginConfigure s i) := by
  simp only [State.beginConfigure_touch, covers_union] at k
  obtain ⟨k0, k1, k2, _⟩ := k
  unfold State.beginConfigure
  dsimp only
  repeat' first
    | with_reducible assumption | with_reducible exact .refl _ _ | with_reducible apply State.startStages_within
    | with_reducible apply State.wr_within | with_reducible exact may_row (by with_reducible assumption)
    | with_reducible apply within_boot

/-- What `State.activateAs` may write. -/
def State.activateAs_touch : Nat :=
  union [State.runStaged_touch, State.beginConfigure_touch, State.commandReset_touch, State.startImg_touch,
    State.optEval_touch]

theorem State.activateAs_within {M : Nat} {s₀ s : State} (h : Within M s₀ s) (k : Covers M State.activateAs_touch)
    (i : Image) (scope : Nat) :
    Within M s₀ (State.activateAs s i scope) := by
  simp only [State.activateAs_touch, covers_union] at k
  obtain ⟨k0, k1, k2, k3, k4, _⟩ := k
  unfold State.activateAs
  repeat' first
    | with_reducible assumption | with_reducible exact .refl _ _ | with_reducible apply State.runStaged_within
    | with_reducible apply State.beginConfigure_within | with_reducible apply State.commandReset_within
    | with_reducible apply State.startImg_within | with_reducible apply State.optEval_within | split

/-- What `State.activate` may write. -/
def State.activate_touch : Nat :=
  union [State.refetchFailed_touch, State.refuseImg_touch, State.activateAs_touch]

theorem State.activate_within {M : Nat} {s₀ s : State} (h : Within M s₀ s) (k : Covers M State.activate_touch)
    (refetchOk : Bool) :
    Within M s₀ (State.activate s refetchOk) := by
  simp only [State.activate_touch, covers_union] at k
  obtain ⟨k0, k1, k2, _⟩ := k
  unfold State.activate
  dsimp only
  repeat' first
    | with_reducible assumption | with_reducible exact .refl _ _ | with_reducible apply State.refetchFailed_within
    | with_reducible apply State.refuseImg_within | with_reducible apply State.activateAs_within
    | with_reducible exact may_row (by with_reducible assumption) | split

/-- What `execActivate` may write. -/
def execActivate_touch : Nat :=
  union [State.activate_touch, State.begin_touch]

theorem execActivate_within {M : Nat} (s : State) (k : Covers M execActivate_touch) (req : Req) (refetchOk : Bool) :
    Answered M s (execActivate req refetchOk s) := by
  simp only [execActivate_touch, covers_union] at k
  obtain ⟨k0, k1, _⟩ := k
  unfold execActivate
  repeat' first
    | apply answered_next | with_reducible assumption | with_reducible exact .refl _ _
    | with_reducible apply State.viaSec_within | with_reducible apply State.activate_within
    | with_reducible apply State.begin_within | intro _

/-- What `State.adoptWings` may write. -/
def State.adoptWings_touch : Nat :=
  union [State.runStaged_touch, State.onImage_touch, State.restartWing_touch]

theorem State.adoptWings_within {M : Nat} {s₀ s : State} (h : Within M s₀ s) (k : Covers M State.adoptWings_touch) :
    Within M s₀ (State.adoptWings s) := by
  simp only [State.adoptWings_touch, covers_union] at k
  obtain ⟨k0, k1, k2, _⟩ := k
  unfold State.adoptWings
  dsimp only
  repeat' first
    | with_reducible assumption | with_reducible exact .refl _ _ | with_reducible apply State.runStaged_within
    | with_reducible apply State.onImage_within | with_reducible apply State.restartWing_within
    | with_reducible apply State.when_within | intro _ | split

/-- What `State.imageDone` may write. -/
def State.imageDone_touch : Nat :=
  union [Row.SEC_IMG_STAT_PROGRESS.bit, State.adoptWings_touch, State.endImg_touch]

theorem State.imageDone_within {M : Nat} {s₀ s : State} (h : Within M s₀ s) (k : Covers M State.imageDone_touch) :
    Within M s₀ (State.imageDone s) := by
  simp only [State.imageDone_touch, covers_union] at k
  obtain ⟨k0, k1, k2, _⟩ := k
  unfold State.imageDone
  repeat' first
    | with_reducible assumption | with_reducible exact .refl _ _ | with_reducible apply State.adoptWings_within
    | with_reducible apply State.endImg_within | with_reducible apply State.wr_within
    | with_reducible exact may_row (by with_reducible assumption) | split

/-- What `execImageCommandDone` may write. -/
def execImageCommandDone_touch : Nat :=
  union [State.imageDone_touch, State.begin_touch]

theorem execImageCommandDone_within {M : Nat} (s : State) (k : Covers M execImageCommandDone_touch) :
    Answered M s (execImageCommandDone s) := by
  simp only [execImageCommandDone_touch, covers_union] at k
  obtain ⟨k0, k1, _⟩ := k
  unfold execImageCommandDone
  repeat' first
    | apply answered_next | with_reducible assumption | with_reducible exact .refl _ _
    | with_reducible apply State.imageDone_within | with_reducible apply State.begin_within

/-- What `State.setBank` may write. -/
def State.setBank_touch : Nat :=
  union [State.onImage_touch]

theorem State.setBank_within {M : Nat} {s₀ s : State} (h : Within M s₀ s) (k : Covers M State.setBank_touch)
    (b : Bool) (k' : Bank) :
    Within M s₀ (State.setBank s b k') := by
  simp only [State.setBank_touch, covers_union] at k
  obtain ⟨k0, _⟩ := k
  unfold State.setBank
  repeat' first
    | with_reducible assumption | with_reducible exact .refl _ _ | with_reducible apply State.onImage_within

/-- What `State.programBank` may write. -/
def State.programBank_touch : Nat :=
  union [State.startImg_touch, State.onImage_touch, State.setBank_touch]

theorem State.programBank_within {M : Nat} {s₀ s : State} (h : Within M s₀ s) (k : Covers M State.programBank_touch) :
    Within M s₀ (State.programBank s) := by
  simp only [State.programBank_touch, covers_union] at k
  obtain ⟨k0, k1, k2, _⟩ := k
  unfold State.programBank
  dsimp only
  repeat' first
    | with_reducible assumption | with_reducible exact .refl _ _ | with_reducible apply State.startImg_within
    | with_reducible apply State.onImage_within | with_reducible apply State.setBank_within

/-- What `State.program` may write. -/
def State.program_touch : Nat :=
  union [State.refuseImg_touch, State.imgReason_touch, State.programBank_touch]

theorem State.program_within {M : Nat} {s₀ s : State} (h : Within M s₀ s) (k : Covers M State.program_touch) :
    Within M s₀ (State.program s) := by
  simp only [State.program_touch, covers_union] at k
  obtain ⟨k0, k1, k2, _⟩ := k
  unfold State.program
  dsimp only
  repeat' first
    | with_reducible assumption | with_reducible exact .refl _ _ | with_reducible apply State.refuseImg_within
    | with_reducible apply State.imgReason_within | with_reducible apply State.programBank_within | split

/-- What `execProgram` may write. -/
def execProgram_touch : Nat :=
  union [State.begin_touch, State.program_touch]

theorem execProgram_within {M : Nat} (s : State) (k : Covers M execProgram_touch) (req : Req) :
    Answered M s (execProgram req s) := by
  simp only [execProgram_touch, covers_union] at k
  obtain ⟨k0, k1, _⟩ := k
  unfold execProgram
  repeat' first
    | apply answered_next | with_reducible assumption | with_reducible exact .refl _ _
    | with_reducible apply State.viaSec_within | with_reducible apply State.begin_within
    | with_reducible apply State.program_within | intro _

/-- What `State.programmed` may write. -/
def State.programmed_touch : Nat :=
  union [Row.SEC_IMG_STAT_PROGRESS.bit, State.endImg_touch, State.setBank_touch]

theorem State.programmed_within {M : Nat} {s₀ s : State} (h : Within M s₀ s) (k : Covers M State.programmed_touch) :
    Within M s₀ (State.programmed s) := by
  simp only [State.programmed_touch, covers_union] at k
  obtain ⟨k0, k1, k2, _⟩ := k
  unfold State.programmed
  repeat' first
    | with_reducible assumption | with_reducible exact .refl _ _ | with_reducible apply State.endImg_within
    | with_reducible apply State.wr_within | with_reducible apply State.setBank_within
    | with_reducible exact may_row (by with_reducible assumption) | split

/-- What `execProgramDone` may write. -/
def execProgramDone_touch : Nat :=
  union [State.programmed_touch, State.begin_touch]

theorem execProgramDone_within {M : Nat} (s : State) (k : Covers M execProgramDone_touch) :
    Answered M s (execProgramDone s) := by
  simp only [execProgramDone_touch, covers_union] at k
  obtain ⟨k0, k1, _⟩ := k
  unfold execProgramDone
  dsimp only
  repeat' first
    | apply answered_next | with_reducible assumption | with_reducible exact .refl _ _
    | with_reducible apply State.programmed_within | with_reducible apply State.begin_within
    | with_reducible apply State.when_within | intro _

/-- What `State.confirmBank` may write. -/
def State.confirmBank_touch : Nat :=
  union [Row.GLB_FP_INFO_CONFIRMED.bit, State.setBank_touch]

theorem State.confirmBank_within {M : Nat} {s₀ s : State} (h : Within M s₀ s) (k : Covers M State.confirmBank_touch) :
    Within M s₀ (State.confirmBank s) := by
  simp only [State.confirmBank_touch, covers_union] at k
  obtain ⟨k0, k1, _⟩ := k
  unfold State.confirmBank
  dsimp only
  repeat' first
    | with_reducible assumption | with_reducible exact .refl _ _ | with_reducible apply State.setBank_within
    | with_reducible apply State.wrb_within | with_reducible exact may_row (by with_reducible assumption) | split

/-- What `State.confirm` may write. -/
def State.confirm_touch : Nat :=
  union [State.refuseImg_touch, State.confirmBank_touch, State.startImg_touch]

theorem State.confirm_within {M : Nat} {s₀ s : State} (h : Within M s₀ s) (k : Covers M State.confirm_touch) :
    Within M s₀ (State.confirm s) := by
  simp only [State.confirm_touch, covers_union] at k
  obtain ⟨k0, k1, k2, _⟩ := k
  unfold State.confirm
  repeat' first
    | with_reducible assumption | with_reducible exact .refl _ _ | with_reducible apply State.refuseImg_within
    | with_reducible apply State.confirmBank_within | with_reducible apply State.startImg_within | split

/-- What `execConfirm` may write. -/
def execConfirm_touch : Nat :=
  union [State.confirm_touch, State.begin_touch]

theorem execConfirm_within {M : Nat} (s : State) (k : Covers M execConfirm_touch) (req : Req) :
    Answered M s (execConfirm req s) := by
  simp only [execConfirm_touch, covers_union] at k
  obtain ⟨k0, k1, _⟩ := k
  unfold execConfirm
  repeat' first
    | apply answered_next | with_reducible assumption | with_reducible exact .refl _ _
    | with_reducible apply State.viaSec_within | with_reducible apply State.confirm_within
    | with_reducible apply State.begin_within | intro _

/-- What `State.advanceSvn` may write. -/
def State.advanceSvn_touch : Nat :=
  union [Part.fuses.bit, State.refuseImg_touch, State.startImg_touch]

theorem State.advanceSvn_within {M : Nat} {s₀ s : State} (h : Within M s₀ s) (k : Covers M State.advanceSvn_touch) :
    Within M s₀ (State.advanceSvn s) := by
  simp only [State.advanceSvn_touch, covers_union] at k
  obtain ⟨k0, k1, k2, _⟩ := k
  unfold State.advanceSvn
  dsimp only
  repeat' first
    | with_reducible assumption | with_reducible exact .refl _ _ | with_reducible apply State.refuseImg_within
    | with_reducible apply State.startImg_within | with_reducible exact may_row (by with_reducible assumption)
    | split | with_reducible apply within_fuses

/-- What `execAdvanceSvn` may write. -/
def execAdvanceSvn_touch : Nat :=
  union [State.advanceSvn_touch, State.begin_touch]

theorem execAdvanceSvn_within {M : Nat} (s : State) (k : Covers M execAdvanceSvn_touch) (req : Req) :
    Answered M s (execAdvanceSvn req s) := by
  simp only [execAdvanceSvn_touch, covers_union] at k
  obtain ⟨k0, k1, _⟩ := k
  unfold execAdvanceSvn
  repeat' first
    | apply answered_next | with_reducible assumption | with_reducible exact .refl _ _
    | with_reducible apply State.advanceSvn_within | with_reducible apply State.viaSec_within
    | with_reducible apply State.begin_within | intro _

/-- What `State.abortImg` may write. -/
def State.abortImg_touch : Nat :=
  union [State.endImg_touch, State.unstage_touch]

theorem State.abortImg_within {M : Nat} {s₀ s : State} (h : Within M s₀ s) (k : Covers M State.abortImg_touch) :
    Within M s₀ (State.abortImg s) := by
  simp only [State.abortImg_touch, covers_union] at k
  obtain ⟨k0, k1, _⟩ := k
  unfold State.abortImg
  repeat' first
    | with_reducible assumption | with_reducible exact .refl _ _ | with_reducible apply State.endImg_within
    | with_reducible apply State.unstage_within | split

/-- What `execAbort` may write. -/
def execAbort_touch : Nat :=
  union [State.abortImg_touch, State.begin_touch]

theorem execAbort_within {M : Nat} (s : State) (k : Covers M execAbort_touch) (req : Req) :
    Answered M s (execAbort req s) := by
  simp only [execAbort_touch, covers_union] at k
  obtain ⟨k0, k1, _⟩ := k
  unfold execAbort
  repeat' first
    | apply answered_next | with_reducible assumption | with_reducible exact .refl _ _
    | with_reducible apply State.viaSec_within | with_reducible apply State.abortImg_within
    | with_reducible apply State.begin_within | intro _

/-- What `State.imgCtl` may write. -/
def State.imgCtl_touch : Nat :=
  union [State.advanceSvn_touch, State.abortImg_touch, State.activate_touch, State.confirm_touch,
    State.loadVerify_touch, State.program_touch]

theorem State.imgCtl_within {M : Nat} {s₀ s : State} (h : Within M s₀ s) (k : Covers M State.imgCtl_touch)
    (op : Nat) (ok : Bool) :
    Within M s₀ (State.imgCtl s op ok) := by
  simp only [State.imgCtl_touch, covers_union] at k
  obtain ⟨k0, k1, k2, k3, k4, k5, _⟩ := k
  unfold State.imgCtl
  repeat' first
    | with_reducible assumption | with_reducible exact .refl _ _ | with_reducible apply State.advanceSvn_within
    | with_reducible apply State.abortImg_within | with_reducible apply State.activate_within
    | with_reducible apply State.confirm_within | with_reducible apply State.loadVerify_within
    | with_reducible apply State.program_within | split

/-- What `State.showNone` may write. -/
def State.showNone_touch : Nat :=
  union [Row.GLB_FP_HASH_HASH.bit, Row.GLB_FP_INFO_BUILD.bit, Row.GLB_FP_INFO_CONFIRMED.bit,
    Row.GLB_FP_INFO_SOURCE.bit, Row.GLB_FP_INFO_SVN.bit, Row.GLB_FP_INFO_TRIALS.bit, State.onImage_touch]

theorem State.showNone_within {M : Nat} {s₀ s : State} (h : Within M s₀ s) (k : Covers M State.showNone_touch) :
    Within M s₀ (State.showNone s) := by
  simp only [State.showNone_touch, covers_union] at k
  obtain ⟨k0, k1, k2, k3, k4, k5, k6, _⟩ := k
  unfold State.showNone
  repeat' first
    | with_reducible assumption | with_reducible exact .refl _ _ | with_reducible apply State.onImage_within
    | with_reducible apply State.wr_within | with_reducible apply State.clearRows_within
    | with_reducible exact may_row (by with_reducible assumption) | with_reducible apply mayAll_cons
    | with_reducible exact mayAll_nil _

/-- What `State.breakFetch` may write. -/
def State.breakFetch_touch : Nat :=
  union [Row.GLB_BOOT_STAT_STAGE.bit, Part.boot.bit, State.showNone_touch, State.endImg_touch,
    State.imgReason_touch]

theorem State.breakFetch_within {M : Nat} {s₀ s : State} (h : Within M s₀ s) (k : Covers M State.breakFetch_touch) :
    Within M s₀ (State.breakFetch s) := by
  simp only [State.breakFetch_touch, covers_union] at k
  obtain ⟨k0, k1, k2, k3, k4, _⟩ := k
  unfold State.breakFetch
  dsimp only
  repeat' first
    | with_reducible assumption | with_reducible exact .refl _ _ | with_reducible apply State.showNone_within
    | with_reducible apply State.endImg_within | with_reducible apply State.wr_within
    | with_reducible apply State.imgReason_within | with_reducible exact may_row (by with_reducible assumption)
    | split | with_reducible apply within_boot

end Sys2Proof.Machine
end

