-- ==== Sys2Proof/Laws/WithinBoot.lean ====
section
/-!
SUPPORT. `Within` over the operations of Machine/Boot.lean.
-/

namespace Sys2Proof.Machine

/-- What `State.bootTo` may write. -/
def State.bootTo_touch : Nat :=
  union [Row.GLB_BOOT_STAT_STAGE.bit, Part.boot.bit]

theorem State.bootTo_within {M : Nat} {s₀ s : State} (h : Within M s₀ s) (k : Covers M State.bootTo_touch)
    (step : Nat) (stage : Nat) :
    Within M s₀ (State.bootTo s step stage) := by
  simp only [State.bootTo_touch, covers_union] at k
  obtain ⟨k0, k1, _⟩ := k
  unfold State.bootTo
  repeat' first
    | with_reducible assumption | with_reducible exact .refl _ _ | with_reducible apply State.wr_within
    | with_reducible exact may_row (by with_reducible assumption) | with_reducible apply within_boot

/-- What `State.sampleStraps` may write. -/
def State.sampleStraps_touch : Nat :=
  union [Row.COR_CTL_MANAGER.bit, Row.COR_STAT_ADDR.bit, Row.GLB_BOOT_STAT_BOOT_SRC.bit,
    Row.GLB_BOOT_STAT_MGR_SEL.bit]

theorem State.sampleStraps_within {M : Nat} {s₀ s : State} (h : Within M s₀ s)
    (k : Covers M State.sampleStraps_touch) (b : BootInput) :
    Within M s₀ (State.sampleStraps s b) := by
  simp only [State.sampleStraps_touch, covers_union] at k
  obtain ⟨k0, k1, k2, k3, _⟩ := k
  unfold State.sampleStraps
  dsimp only
  repeat' first
    | with_reducible assumption | with_reducible exact .refl _ _ | with_reducible apply State.wr_within
    | with_reducible apply State.wrb_within | with_reducible exact may_row (by with_reducible assumption)

/-- What `State.waitHost` may write. -/
def State.waitHost_touch : Nat :=
  union [Row.GLB_FP_INFO_SOURCE.bit, State.bootTo_touch, State.emit_touch]

theorem State.waitHost_within {M : Nat} {s₀ s : State} (h : Within M s₀ s) (k : Covers M State.waitHost_touch) :
    Within M s₀ (State.waitHost s) := by
  simp only [State.waitHost_touch, covers_union] at k
  obtain ⟨k0, k1, k2, _⟩ := k
  unfold State.waitHost
  repeat' first
    | with_reducible assumption | with_reducible exact .refl _ _ | with_reducible apply State.wr_within
    | with_reducible apply State.bootTo_within | with_reducible apply State.emit_within
    | with_reducible exact may_row (by with_reducible assumption)

/-- What `State.beginLoad` may write. -/
def State.beginLoad_touch : Nat :=
  union [State.waitHost_touch, State.bootTo_touch]

theorem State.beginLoad_within {M : Nat} {s₀ s : State} (h : Within M s₀ s) (k : Covers M State.beginLoad_touch) :
    Within M s₀ (State.beginLoad s) := by
  simp only [State.beginLoad_touch, covers_union] at k
  obtain ⟨k0, k1, _⟩ := k
  unfold State.beginLoad
  repeat' first
    | with_reducible assumption | with_reducible exact .refl _ _ | with_reducible apply State.waitHost_within
    | with_reducible apply State.bootTo_within | with_reducible exact may_row (by with_reducible assumption) | split

/-- What `State.selfTested` may write. -/
def State.selfTested_touch : Nat :=
  union [Row.GLB_BOOT_STAT_STAGE.bit, Part.boot.bit, State.assertFault_touch, State.beginLoad_touch,
    State.emit_touch]

theorem State.selfTested_within {M : Nat} {s₀ s : State} (h : Within M s₀ s) (k : Covers M State.selfTested_touch)
    (ok : Bool) :
    Within M s₀ (State.selfTested s ok) := by
  simp only [State.selfTested_touch, covers_union] at k
  obtain ⟨k0, k1, k2, k3, k4, _⟩ := k
  unfold State.selfTested
  repeat' first
    | with_reducible assumption | with_reducible exact .refl _ _ | with_reducible apply State.wr_within
    | with_reducible apply State.assertFault_within | with_reducible apply State.beginLoad_within
    | with_reducible apply State.emit_within | with_reducible exact may_row (by with_reducible assumption) | split
    | with_reducible apply within_boot

/-- What `State.hostUp` may write. -/
def State.hostUp_touch : Nat :=
  union [Row.GLB_BOOT_STAT_SELF_TEST_SKIPPED.bit, Part.host.bit, State.beginLoad_touch, State.bootTo_touch]

theorem State.hostUp_within {M : Nat} {s₀ s : State} (h : Within M s₀ s) (k : Covers M State.hostUp_touch) :
    Within M s₀ (State.hostUp s) := by
  simp only [State.hostUp_touch, covers_union] at k
  obtain ⟨k0, k1, k2, k3, _⟩ := k
  unfold State.hostUp
  dsimp only
  repeat' first
    | with_reducible assumption | with_reducible exact .refl _ _ | with_reducible apply State.beginLoad_within
    | with_reducible apply State.wrb_within | with_reducible apply State.bootTo_within
    | with_reducible exact may_row (by with_reducible assumption) | split | with_reducible apply within_host

/-- What `State.bankReason` may write. -/
def State.bankReason_touch : Nat :=
  union [Row.GLB_BOOT_STAT_REASON_A.bit, Row.GLB_BOOT_STAT_REASON_B.bit, State.imgReason_touch]

theorem State.bankReason_within {M : Nat} {s₀ s : State} (h : Within M s₀ s) (k : Covers M State.bankReason_touch)
    (b : Bool) (reason : Nat) :
    Within M s₀ (State.bankReason s b reason) := by
  simp only [State.bankReason_touch, covers_union] at k
  obtain ⟨k0, k1, k2, _⟩ := k
  unfold State.bankReason
  dsimp only
  repeat' first
    | with_reducible assumption | with_reducible exact .refl _ _ | with_reducible apply State.wr_within
    | with_reducible apply State.imgReason_within | with_reducible exact may_row (by with_reducible assumption)
    | split

/-- What `State.markBad` may write. -/
def State.markBad_touch : Nat :=
  union [State.setBank_touch]

theorem State.markBad_within {M : Nat} {s₀ s : State} (h : Within M s₀ s) (k : Covers M State.markBad_touch)
    (b : Bool) :
    Within M s₀ (State.markBad s b) := by
  simp only [State.markBad_touch, covers_union] at k
  obtain ⟨k0, _⟩ := k
  unfold State.markBad
  repeat' first
    | with_reducible assumption | with_reducible exact .refl _ _ | with_reducible apply State.setBank_within

/-- What `State.runBank` may write. -/
def State.runBank_touch : Nat :=
  union [State.beginConfigure_touch, State.onImage_touch, State.showImage_touch]

theorem State.runBank_within {M : Nat} {s₀ s : State} (h : Within M s₀ s) (k : Covers M State.runBank_touch)
    (b : Bool) :
    Within M s₀ (State.runBank s b) := by
  simp only [State.runBank_touch, covers_union] at k
  obtain ⟨k0, k1, k2, _⟩ := k
  unfold State.runBank
  dsimp only
  repeat' first
    | with_reducible assumption | with_reducible exact .refl _ _ | with_reducible apply State.beginConfigure_within
    | with_reducible apply State.onImage_within | with_reducible apply State.showImage_within | intro _ | split

/-- What `State.countTrial` may write. -/
def State.countTrial_touch : Nat :=
  union [State.setBank_touch]

theorem State.countTrial_within {M : Nat} {s₀ s : State} (h : Within M s₀ s) (k : Covers M State.countTrial_touch)
    (b : Bool) :
    Within M s₀ (State.countTrial s b) := by
  simp only [State.countTrial_touch, covers_union] at k
  obtain ⟨k0, _⟩ := k
  unfold State.countTrial
  dsimp only
  repeat' first
    | with_reducible assumption | with_reducible exact .refl _ _ | with_reducible apply State.setBank_within | split

/-- What `State.tryBank` may write. -/
def State.tryBank_touch : Nat :=
  union [State.bankReason_touch, State.countTrial_touch, State.markBad_touch, State.runBank_touch]

theorem State.tryBank_within {M : Nat} {s₀ s : State} (h : Within M s₀ s) (k : Covers M State.tryBank_touch)
    (b : Bool) (flashErr : Bool) :
    Within M s₀ (State.tryBank s b flashErr).1 := by
  simp only [State.tryBank_touch, covers_union] at k
  obtain ⟨k0, k1, k2, k3, _⟩ := k
  unfold State.tryBank
  dsimp only
  repeat' first
    | with_reducible assumption | with_reducible exact .refl _ _ | with_reducible apply State.bankReason_within
    | with_reducible apply State.countTrial_within | with_reducible apply State.markBad_within
    | with_reducible apply State.runBank_within | split

/-- What `State.tryBanks` may write. -/
def State.tryBanks_touch : Nat :=
  union [State.waitHost_touch, State.tryBank_touch]

theorem State.tryBanks_within {M : Nat} {s₀ s : State} (h : Within M s₀ s) (k : Covers M State.tryBanks_touch)
    (errA : Bool) (errB : Bool) (a0 : List Bool) :
    Within M s₀ (State.tryBanks s errA errB a0) := by
  simp only [State.tryBanks_touch, covers_union] at k
  obtain ⟨k0, k1, _⟩ := k
  induction a0 generalizing s errA errB with
  | nil =>
    rw [State.tryBanks]
    try dsimp only
    repeat' first
      | with_reducible assumption | with_reducible exact .refl _ _ | with_reducible apply State.waitHost_within
  | cons b l ih =>
    rw [State.tryBanks]
    try dsimp only
    repeat' first
      | with_reducible apply ih | with_reducible assumption | with_reducible exact .refl _ _
      | with_reducible apply State.waitHost_within | with_reducible apply State.tryBank_within | split

/-- What `State.flashBoot` may write. -/
def State.flashBoot_touch : Nat :=
  union [State.tryBanks_touch]

theorem State.flashBoot_within {M : Nat} {s₀ s : State} (h : Within M s₀ s) (k : Covers M State.flashBoot_touch)
    (b : BootInput) :
    Within M s₀ (State.flashBoot s b) := by
  simp only [State.flashBoot_touch, covers_union] at k
  obtain ⟨k0, _⟩ := k
  unfold State.flashBoot
  repeat' first
    | with_reducible assumption | with_reducible exact .refl _ _ | with_reducible apply State.tryBanks_within
    | with_reducible exact may_row (by with_reducible assumption) | split

/-- What `State.goRunning` may write. -/
def State.goRunning_touch : Nat :=
  union [Row.GLB_BOOT_STAT_BOOT_MS.bit, State.applyLanes_touch, State.configure_touch, State.beginWing_touch,
    State.bootTo_touch]

theorem State.goRunning_within {M : Nat} {s₀ s : State} (h : Within M s₀ s) (k : Covers M State.goRunning_touch)
    (i : Image) (ms : Nat) :
    Within M s₀ (State.goRunning s i ms) := by
  simp only [State.goRunning_touch, covers_union] at k
  obtain ⟨k0, k1, k2, k3, k4, _⟩ := k
  unfold State.goRunning
  dsimp only
  repeat' first
    | with_reducible assumption | with_reducible exact .refl _ _ | with_reducible apply State.applyLanes_within
    | with_reducible apply State.configure_within | with_reducible apply State.wr_within
    | with_reducible apply State.beginWing_within | with_reducible apply State.when_within
    | with_reducible apply State.bootTo_within | with_reducible exact may_row (by with_reducible assumption)
    | intro _

/-- What `State.configured` may write. -/
def State.configured_touch : Nat :=
  union [State.goRunning_touch]

theorem State.configured_within {M : Nat} {s₀ s : State} (h : Within M s₀ s) (k : Covers M State.configured_touch)
    (ms : Nat) :
    Within M s₀ (State.configured s ms) := by
  simp only [State.configured_touch, covers_union] at k
  obtain ⟨k0, _⟩ := k
  unfold State.configured
  repeat' first
    | with_reducible assumption | with_reducible exact .refl _ _ | with_reducible apply State.goRunning_within
    | split

/-- What `State.bootNext` may write. -/
def State.bootNext_touch : Nat :=
  union [Part.pins.bit, State.configured_touch, State.selfTested_touch, State.hostUp_touch,
    State.sampleStraps_touch, State.flashBoot_touch, State.bootTo_touch]

theorem State.bootNext_within {M : Nat} {s₀ s : State} (h : Within M s₀ s) (k : Covers M State.bootNext_touch)
    (b : BootInput) :
    Within M s₀ (State.bootNext s b) := by
  simp only [State.bootNext_touch, covers_union] at k
  obtain ⟨k0, k1, k2, k3, k4, k5, k6, _⟩ := k
  unfold State.bootNext
  repeat' first
    | with_reducible assumption | with_reducible exact .refl _ _ | with_reducible apply State.configured_within
    | with_reducible apply State.selfTested_within | with_reducible apply State.hostUp_within
    | with_reducible apply State.sampleStraps_within | with_reducible apply State.flashBoot_within
    | with_reducible apply State.bootTo_within | with_reducible exact may_row (by with_reducible assumption) | split
    | with_reducible apply within_pins

/-- What `execBootStepDone` may write. -/
def execBootStepDone_touch : Nat :=
  union [State.bootNext_touch, State.begin_touch]

theorem execBootStepDone_within {M : Nat} (s : State) (k : Covers M execBootStepDone_touch) (b : BootInput) :
    Answered M s (execBootStepDone b s) := by
  simp only [execBootStepDone_touch, covers_union] at k
  obtain ⟨k0, k1, _⟩ := k
  unfold execBootStepDone
  repeat' first
    | apply answered_next | with_reducible assumption | with_reducible exact .refl _ _
    | with_reducible apply State.bootNext_within | with_reducible apply State.begin_within

end Sys2Proof.Machine
end

