-- ==== Sys2Proof/Laws/WithinReliability.lean ====
section
/-!
SUPPORT. `Within` over the operations of Machine/Reliability.lean.
-/

namespace Sys2Proof.Machine

/-- What `execDescAuditDone` may write. -/
def execDescAuditDone_touch : Nat :=
  union [State.auditDone_touch, State.begin_touch]

theorem execDescAuditDone_within {M : Nat} (s : State) (k : Covers M execDescAuditDone_touch) :
    Answered M s (execDescAuditDone s) := by
  simp only [execDescAuditDone_touch, covers_union] at k
  obtain ⟨k0, k1, _⟩ := k
  unfold execDescAuditDone
  repeat' first
    | apply answered_next | with_reducible assumption | with_reducible exact .refl _ _
    | with_reducible apply State.auditDone_within | with_reducible apply State.begin_within

/-- What `State.cellDamaged` may write. -/
def State.cellDamaged_touch : Nat :=
  union [Row.RAS_EVT_UE_DATA.bit, Part.pan.bit, State.evt_touch, State.uncorrectable_touch]

theorem State.cellDamaged_within {M : Nat} {s₀ s : State} (h : Within M s₀ s) (k : Covers M State.cellDamaged_touch)
    (l : MemLine) :
    Within M s₀ (State.cellDamaged s l) := by
  simp only [State.cellDamaged_touch, covers_union] at k
  obtain ⟨k0, k1, k2, k3, _⟩ := k
  unfold State.cellDamaged
  dsimp only
  repeat' first
    | with_reducible assumption | with_reducible exact .refl _ _ | with_reducible apply State.evt_within
    | with_reducible apply State.uncorrectable_within | with_reducible exact may_row (by with_reducible assumption)
    | intro _ | with_reducible apply within_pan

/-- What `State.lineDamaged` may write. -/
def State.lineDamaged_touch : Nat :=
  union [State.ueControl_touch, State.slotDamaged_touch, State.flushDamaged_touch, State.cellDamaged_touch,
    State.tapsWrite_touch, State.ctxDamaged_touch]

theorem State.lineDamaged_within {M : Nat} {s₀ s : State} (h : Within M s₀ s) (k : Covers M State.lineDamaged_touch)
    (l : MemLine) :
    Within M s₀ (State.lineDamaged s l) := by
  simp only [State.lineDamaged_touch, covers_union] at k
  obtain ⟨k0, k1, k2, k3, k4, k5, _⟩ := k
  unfold State.lineDamaged
  dsimp only
  repeat' first
    | with_reducible assumption | with_reducible exact .refl _ _ | with_reducible apply State.ueControl_within
    | with_reducible apply State.slotDamaged_within | with_reducible apply State.flushDamaged_within
    | with_reducible apply State.cellDamaged_within | with_reducible apply State.tapsWrite_within
    | with_reducible apply State.ctxDamaged_within | split

/-- What `State.scrub` may write. -/
def State.scrub_touch : Nat :=
  union [State.lineDamaged_touch, State.correct_touch]

theorem State.scrub_within {M : Nat} {s₀ s : State} (h : Within M s₀ s) (k : Covers M State.scrub_touch)
    (l : MemLine) (found : EccRead) :
    Within M s₀ (State.scrub s l found) := by
  simp only [State.scrub_touch, covers_union] at k
  obtain ⟨k0, k1, _⟩ := k
  unfold State.scrub
  repeat' first
    | with_reducible assumption | with_reducible exact .refl _ _ | with_reducible apply State.lineDamaged_within
    | with_reducible apply State.correct_within | with_reducible exact may_row (by with_reducible assumption)
    | split

/-- What `execScrubRead` may write. -/
def execScrubRead_touch : Nat :=
  union [State.scrub_touch, State.begin_touch]

theorem execScrubRead_within {M : Nat} (s : State) (k : Covers M execScrubRead_touch) (line : MemLine)
    (found : EccRead) :
    Answered M s (execScrubRead line found s) := by
  simp only [execScrubRead_touch, covers_union] at k
  obtain ⟨k0, k1, _⟩ := k
  unfold execScrubRead
  repeat' first
    | apply answered_next | with_reducible assumption | with_reducible exact .refl _ _
    | with_reducible apply State.scrub_within | with_reducible apply State.begin_within

/-- What `State.abortStop` may write. -/
def State.abortStop_touch : Nat :=
  union [State.returnState_touch, State.refuse_touch, State.actHeld_touch]

theorem State.abortStop_within {M : Nat} {s₀ s : State} (h : Within M s₀ s) (k : Covers M State.abortStop_touch)
    (kind : Nat) (i : Nat) (peer : Nat) :
    Within M s₀ (State.abortStop s kind i peer) := by
  simp only [State.abortStop_touch, covers_union] at k
  obtain ⟨k0, k1, k2, _⟩ := k
  unfold State.abortStop
  repeat' first
    | with_reducible assumption | with_reducible exact .refl _ _ | with_reducible apply State.returnState_within
    | with_reducible apply State.refuse_within | with_reducible apply State.actHeld_within
    | with_reducible apply State.when_within | intro _ | split

/-- What `State.islandFails` may write. -/
def State.islandFails_touch : Nat :=
  union [State.declareFailed_touch, State.abortStop_touch]

theorem State.islandFails_within {M : Nat} {s₀ s : State} (h : Within M s₀ s) (k : Covers M State.islandFails_touch)
    (kind : Nat) (i : Nat) (peer : Nat) :
    Within M s₀ (State.islandFails s kind i peer) := by
  simp only [State.islandFails_touch, covers_union] at k
  obtain ⟨k0, k1, _⟩ := k
  unfold State.islandFails
  repeat' first
    | with_reducible assumption | with_reducible exact .refl _ _ | with_reducible apply State.declareFailed_within
    | with_reducible apply State.abortStop_within | split

/-- What `execParityMismatch` may write. -/
def execParityMismatch_touch : Nat :=
  union [State.islandFails_touch, State.begin_touch]

theorem execParityMismatch_within {M : Nat} (s : State) (k : Covers M execParityMismatch_touch) (island : Fin 25) :
    Answered M s (execParityMismatch island s) := by
  simp only [execParityMismatch_touch, covers_union] at k
  obtain ⟨k0, k1, _⟩ := k
  unfold execParityMismatch
  dsimp only
  repeat' first
    | apply answered_next | with_reducible assumption | with_reducible exact .refl _ _
    | with_reducible apply State.islandFails_within | with_reducible apply State.begin_within
    | with_reducible apply State.when_within | with_reducible exact may_row (by with_reducible assumption) | intro _

/-- What `execClockLoss` may write. -/
def execClockLoss_touch : Nat :=
  union [State.islandFails_touch, State.begin_touch]

theorem execClockLoss_within {M : Nat} (s : State) (k : Covers M execClockLoss_touch) (island : Fin 25) :
    Answered M s (execClockLoss island s) := by
  simp only [execClockLoss_touch, covers_union] at k
  obtain ⟨k0, k1, _⟩ := k
  unfold execClockLoss
  dsimp only
  repeat' first
    | apply answered_next | with_reducible assumption | with_reducible exact .refl _ _
    | with_reducible apply State.islandFails_within | with_reducible apply State.begin_within
    | with_reducible apply State.when_within | intro _

/-- What `execSlowClkLoss` may write. -/
def execSlowClkLoss_touch : Nat :=
  union [Row.RAS_EVT_SLOW_CLK.bit, State.evtLog_touch, State.begin_touch]

theorem execSlowClkLoss_within {M : Nat} (s : State) (k : Covers M execSlowClkLoss_touch) :
    Answered M s (execSlowClkLoss s) := by
  simp only [execSlowClkLoss_touch, covers_union] at k
  obtain ⟨k0, k1, k2, _⟩ := k
  unfold execSlowClkLoss
  repeat' first
    | apply answered_next | with_reducible assumption | with_reducible exact .refl _ _
    | with_reducible apply State.evtLog_within | with_reducible apply State.begin_within
    | with_reducible exact may_row (by with_reducible assumption)

/-- What `execDoorwayTimeout` may write. -/
def execDoorwayTimeout_touch : Nat :=
  union [State.islandFails_touch, State.begin_touch]

theorem execDoorwayTimeout_within {M : Nat} (s : State) (k : Covers M execDoorwayTimeout_touch) (sender : Fin 25)
    (receiver : Fin 25) :
    Answered M s (execDoorwayTimeout sender receiver s) := by
  simp only [execDoorwayTimeout_touch, covers_union] at k
  obtain ⟨k0, k1, _⟩ := k
  unfold execDoorwayTimeout
  dsimp only
  repeat' first
    | apply answered_next | with_reducible assumption | with_reducible exact .refl _ _
    | with_reducible apply State.islandFails_within | with_reducible apply State.begin_within
    | with_reducible apply State.when_within | with_reducible exact may_row (by with_reducible assumption) | intro _

/-- What `State.miscompare` may write. -/
def State.miscompare_touch : Nat :=
  union [Row.RAS_EVT_LOCKSTEP.bit, Row.RAS_LOCKSTEP_MISCOMPARE.bit, Part.ras.bit, State.evtLog_touch,
    State.recordFault_touch, State.countWrap_touch]

theorem State.miscompare_within {M : Nat} {s₀ s : State} (h : Within M s₀ s) (k : Covers M State.miscompare_touch) :
    Within M s₀ (State.miscompare s) := by
  simp only [State.miscompare_touch, covers_union] at k
  obtain ⟨k0, k1, k2, k3, k4, k5, _⟩ := k
  unfold State.miscompare
  dsimp only
  repeat' first
    | with_reducible assumption | with_reducible exact .refl _ _ | with_reducible apply State.evtLog_within
    | with_reducible apply State.recordFault_within | with_reducible apply State.countWrap_within
    | with_reducible exact may_row (by with_reducible assumption) | split | with_reducible apply within_ras

/-- What `execLockstepMiscompare` may write. -/
def execLockstepMiscompare_touch : Nat :=
  union [State.begin_touch, State.miscompare_touch]

theorem execLockstepMiscompare_within {M : Nat} (s : State) (k : Covers M execLockstepMiscompare_touch) :
    Answered M s (execLockstepMiscompare s) := by
  simp only [execLockstepMiscompare_touch, covers_union] at k
  obtain ⟨k0, k1, _⟩ := k
  unfold execLockstepMiscompare
  repeat' first
    | apply answered_next | with_reducible assumption | with_reducible exact .refl _ _
    | with_reducible apply State.begin_within | with_reducible apply State.miscompare_within

/-- What `State.coreBack` may write. -/
def State.coreBack_touch : Nat :=
  union [Row.RAS_LOCKSTEP_RESTARTS.bit, Part.ras.bit, State.afterTransition_touch, State.countWrap_touch,
    State.icmRefresh_touch]

theorem State.coreBack_within {M : Nat} {s₀ s : State} (h : Within M s₀ s) (k : Covers M State.coreBack_touch) :
    Within M s₀ (State.coreBack s) := by
  simp only [State.coreBack_touch, covers_union] at k
  obtain ⟨k0, k1, k2, k3, k4, _⟩ := k
  unfold State.coreBack
  dsimp only
  repeat' first
    | with_reducible assumption | with_reducible exact .refl _ _ | with_reducible apply State.afterTransition_within
    | with_reducible apply State.countWrap_within | with_reducible apply State.icmRefresh_within
    | with_reducible apply State.when_within | with_reducible exact may_row (by with_reducible assumption) | intro _
    | with_reducible apply within_ras

/-- What `execCoreRestartDone` may write. -/
def execCoreRestartDone_touch : Nat :=
  union [State.coreBack_touch, State.begin_touch]

theorem execCoreRestartDone_within {M : Nat} (s : State) (k : Covers M execCoreRestartDone_touch) :
    Answered M s (execCoreRestartDone s) := by
  simp only [execCoreRestartDone_touch, covers_union] at k
  obtain ⟨k0, k1, _⟩ := k
  unfold execCoreRestartDone
  dsimp only
  repeat' first
    | apply answered_next | with_reducible assumption | with_reducible exact .refl _ _
    | with_reducible apply State.coreBack_within | with_reducible apply State.begin_within
    | with_reducible apply State.when_within | intro _

/-- What `State.recoverScope` may write. -/
def State.recoverScope_touch : Nat :=
  union [State.commandReset_touch, State.restartWing_touch]

theorem State.recoverScope_within {M : Nat} {s₀ s : State} (h : Within M s₀ s)
    (k : Covers M State.recoverScope_touch) (scope : Nat) :
    Within M s₀ (State.recoverScope s scope) := by
  simp only [State.recoverScope_touch, covers_union] at k
  obtain ⟨k0, k1, _⟩ := k
  unfold State.recoverScope
  repeat' first
    | with_reducible assumption | with_reducible exact .refl _ _ | with_reducible apply State.commandReset_within
    | with_reducible apply State.restartWing_within | with_reducible apply State.when_within | intro _ | split

/-- What `State.recover` may write. -/
def State.recover_touch : Nat :=
  union [Row.RAS_CTL_REFUSED.bit, State.recoverScope_touch]

theorem State.recover_within {M : Nat} {s₀ s : State} (h : Within M s₀ s) (k : Covers M State.recover_touch) :
    Within M s₀ (State.recover s) := by
  simp only [State.recover_touch, covers_union] at k
  obtain ⟨k0, k1, _⟩ := k
  unfold State.recover
  repeat' first
    | with_reducible assumption | with_reducible exact .refl _ _ | with_reducible apply State.recoverScope_within
    | with_reducible apply State.wrb_within | with_reducible exact may_row (by with_reducible assumption) | split

/-- What `execRecover` may write. -/
def execRecover_touch : Nat :=
  union [State.begin_touch, State.recover_touch]

theorem execRecover_within {M : Nat} (s : State) (k : Covers M execRecover_touch) (req : Req) :
    Answered M s (execRecover req s) := by
  simp only [execRecover_touch, covers_union] at k
  obtain ⟨k0, k1, _⟩ := k
  unfold execRecover
  repeat' first
    | apply answered_next | with_reducible assumption | with_reducible exact .refl _ _
    | with_reducible apply State.via_within | with_reducible apply State.begin_within
    | with_reducible apply State.recover_within | intro _

/-- What `State.armInjection` may write. -/
def State.armInjection_touch : Nat :=
  union [Row.RAS_INJ_ARMED.bit]

theorem State.armInjection_within {M : Nat} {s₀ s : State} (h : Within M s₀ s)
    (k : Covers M State.armInjection_touch) :
    Within M s₀ (State.armInjection s) := by
  simp only [State.armInjection_touch, covers_union] at k
  obtain ⟨k0, _⟩ := k
  unfold State.armInjection
  repeat' first
    | with_reducible assumption | with_reducible exact .refl _ _ | with_reducible apply State.when_within
    | with_reducible apply State.wrb_within | with_reducible exact may_row (by with_reducible assumption) | intro _

/-- What `execEccInjectArm` may write. -/
def execEccInjectArm_touch : Nat :=
  union [State.armInjection_touch, State.begin_touch]

theorem execEccInjectArm_within {M : Nat} (s : State) (k : Covers M execEccInjectArm_touch) (req : Req) :
    Answered M s (execEccInjectArm req s) := by
  simp only [execEccInjectArm_touch, covers_union] at k
  obtain ⟨k0, k1, _⟩ := k
  unfold execEccInjectArm
  repeat' first
    | apply answered_next | with_reducible assumption | with_reducible exact .refl _ _
    | with_reducible apply State.armInjection_within | with_reducible apply State.via_within
    | with_reducible apply State.begin_within | intro _

/-- What `State.clearFault` may write. -/
def State.clearFault_touch : Nat :=
  union [Row.RAS_FAULT_ISLAND.bit, Row.RAS_FAULT_KIND.bit, Row.RAS_FAULT_PEER.bit, Row.RAS_FAULT_VALID.bit]

theorem State.clearFault_within {M : Nat} {s₀ s : State} (h : Within M s₀ s) (k : Covers M State.clearFault_touch) :
    Within M s₀ (State.clearFault s) := by
  simp only [State.clearFault_touch, covers_union] at k
  obtain ⟨k0, k1, k2, k3, _⟩ := k
  unfold State.clearFault
  repeat' first
    | with_reducible assumption | with_reducible exact .refl _ _ | with_reducible apply State.wr_within
    | with_reducible apply State.wrb_within | with_reducible exact may_row (by with_reducible assumption)

/-- What `execFaultClear` may write. -/
def execFaultClear_touch : Nat :=
  union [State.clearFault_touch, State.begin_touch]

theorem execFaultClear_within {M : Nat} (s : State) (k : Covers M execFaultClear_touch) (req : Req) :
    Answered M s (execFaultClear req s) := by
  simp only [execFaultClear_touch, covers_union] at k
  obtain ⟨k0, k1, _⟩ := k
  unfold execFaultClear
  repeat' first
    | apply answered_next | with_reducible assumption | with_reducible exact .refl _ _
    | with_reducible apply State.clearFault_within | with_reducible apply State.via_within
    | with_reducible apply State.begin_within | intro _

end Sys2Proof.Machine
end

