-- ==== Sys2Proof/Laws/WithinObserve.lean ====
section
/-!
SUPPORT. `Within` over the operations of Machine/Observe.lean.
-/

namespace Sys2Proof.Machine

/-- What `State.onPmu` may write. -/
def State.onPmu_touch : Nat :=
  union [Part.pmu.bit]

theorem State.onPmu_within {M : Nat} {s₀ s : State} (h : Within M s₀ s) (k : Covers M State.onPmu_touch)
    (f : Pmu → Pmu) :
    Within M s₀ (State.onPmu s f) := by
  simp only [State.onPmu_touch, covers_union] at k
  obtain ⟨k0, _⟩ := k
  unfold State.onPmu
  repeat' first | with_reducible assumption | with_reducible exact .refl _ _ | with_reducible apply within_pmu

theorem State.setCounter_within {M : Nat} {s₀ s : State} (h : Within M s₀ s) (lo : Row) (klo : May M lo) (hi : Row)
    (khi : May M hi) (n : Nat) (v : Nat) :
    Within M s₀ (State.setCounter s lo hi n v) := by
  unfold State.setCounter
  dsimp only
  repeat' first
    | with_reducible assumption | with_reducible exact .refl _ _ | with_reducible apply State.wr_within
    | with_reducible apply State.when_within | with_reducible exact may_row (by with_reducible assumption) | intro _

/-- What `State.overflow` may write. -/
def State.overflow_touch : Nat :=
  union [Row.PMU_EVT_OVF.bit, Row.PMU_OVF_HI_BITS.bit, Row.PMU_OVF_LO_BITS.bit, State.evt_touch]

theorem State.overflow_within {M : Nat} {s₀ s : State} (h : Within M s₀ s) (k : Covers M State.overflow_touch)
    (n : Nat) :
    Within M s₀ (State.overflow s n) := by
  simp only [State.overflow_touch, covers_union] at k
  obtain ⟨k0, k1, k2, k3, _⟩ := k
  unfold State.overflow
  dsimp only
  repeat' first
    | with_reducible assumption | with_reducible exact .refl _ _ | with_reducible apply State.evt_within
    | with_reducible apply State.bit_within | with_reducible exact may_row (by with_reducible assumption) | split

/-- What `State.addCounter` may write. -/
def State.addCounter_touch : Nat :=
  union [Row.PMU_CNT_HI_COUNT.bit, Row.PMU_CNT_LO_COUNT.bit, State.overflow_touch, State.mirrored_touch]

theorem State.addCounter_within {M : Nat} {s₀ s : State} (h : Within M s₀ s) (k : Covers M State.addCounter_touch)
    (n : Nat) (k' : Nat) :
    Within M s₀ (State.addCounter s n k') := by
  simp only [State.addCounter_touch, covers_union] at k
  obtain ⟨k0, k1, k2, k3, _⟩ := k
  unfold State.addCounter
  dsimp only
  repeat' first
    | with_reducible assumption | with_reducible exact .refl _ _ | with_reducible apply State.overflow_within
    | with_reducible apply State.setCounter_within | with_reducible apply State.mirrored_within
    | with_reducible apply State.when_within | with_reducible exact may_row (by with_reducible assumption) | intro _
    | split

/-- What `State.foldCounters` may write. -/
def State.foldCounters_touch : Nat :=
  union [Part.pmu.bit, Part.free.bit, State.addCounter_touch]

theorem State.foldCounters_within {M : Nat} {s₀ s : State} (h : Within M s₀ s)
    (k : Covers M State.foldCounters_touch) (ns : Nat) :
    Within M s₀ (State.foldCounters s ns) := by
  simp only [State.foldCounters_touch, covers_union] at k
  obtain ⟨k0, k1, k2, _⟩ := k
  unfold State.foldCounters
  dsimp only
  repeat' first
    | with_reducible assumption | with_reducible exact .refl _ _ | with_reducible apply State.addCounter_within
    | with_reducible apply State.when_within | with_reducible apply State.upTo_within | intro _ | split
    | with_reducible apply within_pmu | with_reducible apply within_free | with_reducible apply within_mk
    | exact Or.inr (by with_reducible assumption) | with_reducible exact Or.inl rfl

/-- What `State.freezeNow` may write. -/
def State.freezeNow_touch : Nat :=
  union [Row.PMU_CTL_FROZEN.bit, State.onPmu_touch]

theorem State.freezeNow_within {M : Nat} {s₀ s : State} (h : Within M s₀ s) (k : Covers M State.freezeNow_touch) :
    Within M s₀ (State.freezeNow s) := by
  simp only [State.freezeNow_touch, covers_union] at k
  obtain ⟨k0, k1, _⟩ := k
  unfold State.freezeNow
  dsimp only
  repeat' first
    | with_reducible assumption | with_reducible exact .refl _ _ | with_reducible apply State.onPmu_within
    | with_reducible apply State.wrb_within | with_reducible exact may_row (by with_reducible assumption) | intro _
    | split

/-- What `execFreeze` may write. -/
def execFreeze_touch : Nat :=
  union [State.onPmu_touch, State.begin_touch]

theorem execFreeze_within {M : Nat} (s : State) (k : Covers M execFreeze_touch) (req : Req) :
    Answered M s (execFreeze req s) := by
  simp only [execFreeze_touch, covers_union] at k
  obtain ⟨k0, k1, _⟩ := k
  unfold execFreeze
  repeat' first
    | apply answered_next | with_reducible assumption | with_reducible exact .refl _ _
    | with_reducible apply State.onPmu_within | with_reducible apply State.via_within
    | with_reducible apply State.begin_within | intro _

/-- What `execThaw` may write. -/
def execThaw_touch : Nat :=
  union [State.onPmu_touch, State.begin_touch]

theorem execThaw_within {M : Nat} (s : State) (k : Covers M execThaw_touch) (req : Req) :
    Answered M s (execThaw req s) := by
  simp only [execThaw_touch, covers_union] at k
  obtain ⟨k0, k1, _⟩ := k
  unfold execThaw
  repeat' first
    | apply answered_next | with_reducible assumption | with_reducible exact .refl _ _
    | with_reducible apply State.onPmu_within | with_reducible apply State.via_within
    | with_reducible apply State.begin_within | intro _

/-- What `State.clearCounters` may write. -/
def State.clearCounters_touch : Nat :=
  union [Row.PMU_CNT_HI_COUNT.bit, Row.PMU_CNT_LO_COUNT.bit, Row.PMU_CNT_PS_HI_COUNT.bit,
    Row.PMU_CNT_PS_LO_COUNT.bit, State.onPmu_touch]

theorem State.clearCounters_within {M : Nat} {s₀ s : State} (h : Within M s₀ s)
    (k : Covers M State.clearCounters_touch) :
    Within M s₀ (State.clearCounters s) := by
  simp only [State.clearCounters_touch, covers_union] at k
  obtain ⟨k0, k1, k2, k3, k4, _⟩ := k
  unfold State.clearCounters
  repeat' first
    | with_reducible assumption | with_reducible exact .refl _ _ | with_reducible apply State.onPmu_within
    | with_reducible apply State.clearRows_within | with_reducible exact may_row (by with_reducible assumption)
    | with_reducible apply mayAll_cons | with_reducible exact mayAll_nil _

/-- What `State.askClear` may write. -/
def State.askClear_touch : Nat :=
  union [State.onPmu_touch, State.clearCounters_touch]

theorem State.askClear_within {M : Nat} {s₀ s : State} (h : Within M s₀ s) (k : Covers M State.askClear_touch) :
    Within M s₀ (State.askClear s) := by
  simp only [State.askClear_touch, covers_union] at k
  obtain ⟨k0, k1, _⟩ := k
  unfold State.askClear
  repeat' first
    | with_reducible assumption | with_reducible exact .refl _ _ | with_reducible apply State.onPmu_within
    | with_reducible apply State.clearCounters_within | intro _ | split

/-- What `execClearAll` may write. -/
def execClearAll_touch : Nat :=
  union [State.askClear_touch, State.begin_touch]

theorem execClearAll_within {M : Nat} (s : State) (k : Covers M execClearAll_touch) (req : Req) :
    Answered M s (execClearAll req s) := by
  simp only [execClearAll_touch, covers_union] at k
  obtain ⟨k0, k1, _⟩ := k
  unfold execClearAll
  repeat' first
    | apply answered_next | with_reducible assumption | with_reducible exact .refl _ _
    | with_reducible apply State.askClear_within | with_reducible apply State.via_within
    | with_reducible apply State.begin_within | intro _

/-- What `State.clearHist` may write. -/
def State.clearHist_touch : Nat :=
  union [Row.PMU_HIST_BIN_COUNT.bit, Row.PMU_HIST_OVER_COUNT.bit, Row.PMU_HIST_UNDER_COUNT.bit]

theorem State.clearHist_within {M : Nat} {s₀ s : State} (h : Within M s₀ s) (k : Covers M State.clearHist_touch)
    (h' : Nat) :
    Within M s₀ (State.clearHist s h') := by
  simp only [State.clearHist_touch, covers_union] at k
  obtain ⟨k0, k1, k2, _⟩ := k
  unfold State.clearHist
  dsimp only
  repeat' first
    | with_reducible assumption | with_reducible exact .refl _ _ | with_reducible apply State.wr_within
    | with_reducible apply State.upTo_within | with_reducible exact may_row (by with_reducible assumption) | intro _

/-- What `State.clearHists` may write. -/
def State.clearHists_touch : Nat :=
  union [State.clearHist_touch]

theorem State.clearHists_within {M : Nat} {s₀ s : State} (h : Within M s₀ s) (k : Covers M State.clearHists_touch)
    (mask : Nat) :
    Within M s₀ (State.clearHists s mask) := by
  simp only [State.clearHists_touch, covers_union] at k
  obtain ⟨k0, _⟩ := k
  unfold State.clearHists
  repeat' first
    | with_reducible assumption | with_reducible exact .refl _ _ | with_reducible apply State.clearHist_within
    | with_reducible apply State.when_within | with_reducible apply State.upTo_within | intro _

/-- What `State.askHistClear` may write. -/
def State.askHistClear_touch : Nat :=
  union [State.clearHists_touch, State.onPmu_touch]

theorem State.askHistClear_within {M : Nat} {s₀ s : State} (h : Within M s₀ s)
    (k : Covers M State.askHistClear_touch) (mask : Nat) :
    Within M s₀ (State.askHistClear s mask) := by
  simp only [State.askHistClear_touch, covers_union] at k
  obtain ⟨k0, k1, _⟩ := k
  unfold State.askHistClear
  repeat' first
    | with_reducible assumption | with_reducible exact .refl _ _ | with_reducible apply State.clearHists_within
    | with_reducible apply State.onPmu_within | intro _ | split

/-- What `State.clearDue` may write. -/
def State.clearDue_touch : Nat :=
  union [State.clearHists_touch, State.onPmu_touch, State.clearCounters_touch, State.showTags_touch]

theorem State.clearDue_within {M : Nat} {s₀ s : State} (h : Within M s₀ s) (k : Covers M State.clearDue_touch) :
    Within M s₀ (State.clearDue s) := by
  simp only [State.clearDue_touch, covers_union] at k
  obtain ⟨k0, k1, k2, k3, _⟩ := k
  unfold State.clearDue
  dsimp only
  repeat' first
    | with_reducible assumption | with_reducible exact .refl _ _ | with_reducible apply State.clearHists_within
    | with_reducible apply State.onPmu_within | with_reducible apply State.clearCounters_within
    | with_reducible apply State.when_within | with_reducible apply State.showTags_within | intro _

/-- What `State.refillBudget` may write. -/
def State.refillBudget_touch : Nat :=
  union [Part.host.bit]

theorem State.refillBudget_within {M : Nat} {s₀ s : State} (h : Within M s₀ s)
    (k : Covers M State.refillBudget_touch) (ns : Nat) :
    Within M s₀ (State.refillBudget s ns) := by
  simp only [State.refillBudget_touch, covers_union] at k
  obtain ⟨k0, _⟩ := k
  unfold State.refillBudget
  repeat' first | with_reducible assumption | with_reducible exact .refl _ _ | with_reducible apply within_host

/-- What `State.advanceMt` may write. -/
def State.advanceMt_touch : Nat :=
  union [Part.uptime.bit, Part.dpll.bit, State.clearDue_touch, State.setMt_touch, State.freezeNow_touch,
    State.slewFine_touch, State.refillBudget_touch, Part.inuse.bit, State.foldCounters_touch]

theorem State.advanceMt_within {M : Nat} {s₀ s : State} (h : Within M s₀ s) (k : Covers M State.advanceMt_touch)
    (ns : Nat) :
    Within M s₀ (State.advanceMt s ns) := by
  simp only [State.advanceMt_touch, covers_union] at k
  obtain ⟨k0, k1, k2, k3, k4, k5, k6, k7, k8, _⟩ := k
  unfold State.advanceMt
  dsimp only
  repeat' first
    | with_reducible assumption | with_reducible exact .refl _ _ | with_reducible apply State.clearDue_within
    | with_reducible apply State.setMt_within | with_reducible apply State.freezeNow_within
    | with_reducible apply State.slewFine_within | with_reducible apply State.refillBudget_within
    | with_reducible apply State.releaseUse_within | with_reducible apply State.foldCounters_within
    | with_reducible apply within_uptime | with_reducible apply within_dpll | with_reducible apply within_mk
    | exact Or.inr (by with_reducible assumption) | with_reducible exact Or.inl rfl

/-- What `State.stepMt` may write. -/
def State.stepMt_touch : Nat :=
  union [Row.REF_EVT_MT_STEP.bit, State.stepGate_touch, State.setMt_touch, State.onPmu_touch, State.evt_touch,
    State.onDpll_touch]

theorem State.stepMt_within {M : Nat} {s₀ s : State} (h : Within M s₀ s) (k : Covers M State.stepMt_touch) :
    Within M s₀ (State.stepMt s) := by
  simp only [State.stepMt_touch, covers_union] at k
  obtain ⟨k0, k1, k2, k3, k4, k5, _⟩ := k
  unfold State.stepMt
  dsimp only
  repeat' first
    | with_reducible assumption | with_reducible exact .refl _ _ | with_reducible apply State.stepGate_within
    | with_reducible apply State.setMt_within | with_reducible apply State.onPmu_within
    | with_reducible apply State.evt_within | with_reducible apply State.onDpll_within
    | with_reducible apply State.upTo_within | with_reducible exact may_row (by with_reducible assumption) | intro _

/-- What `execMtUpdate` may write. -/
def execMtUpdate_touch : Nat :=
  union [State.advanceMt_touch, State.stepMt_touch, State.begin_touch]

theorem execMtUpdate_within {M : Nat} (s : State) (k : Covers M execMtUpdate_touch) :
    Answered M s (execMtUpdate s) := by
  simp only [execMtUpdate_touch, covers_union] at k
  obtain ⟨k0, k1, k2, _⟩ := k
  unfold execMtUpdate
  dsimp only
  repeat' first
    | apply answered_next | with_reducible assumption | with_reducible exact .refl _ _
    | with_reducible apply State.advanceMt_within | with_reducible apply State.stepMt_within
    | with_reducible apply State.begin_within | with_reducible apply State.when_within | intro _

theorem State.latchRow_within {M : Nat} {s₀ s : State} (h : Within M s₀ s) (sel : Nat → Bool) (live : Row)
    (klive : May M live) (ps : Row) (kps : May M ps) : Within M s₀ (State.latchRow s sel live ps) := by
  unfold State.latchRow
  exact (within_row h klive (fun _ hm => tabGet_set_ne [] _ _ hm)).trans
    (within_row (.refl _ _) kps (fun _ hm => tabGet_set_ne [] _ _ hm))


/-- What `State.latchRows` may write. -/
def State.latchRows_touch : Nat :=
  union [anyBit]

theorem State.latchRows_within {M : Nat} {s₀ s : State} (h : Within M s₀ s) (k : Covers M State.latchRows_touch)
    (sel : Nat → Bool) (ps : List (Row × Row)) :
    Within M s₀ (State.latchRows s sel ps) := by
  simp only [State.latchRows_touch, covers_union] at k
  obtain ⟨k0, _⟩ := k
  unfold State.latchRows
  repeat' first
    | with_reducible assumption | with_reducible exact .refl _ _ | with_reducible apply State.latchRow_within
    | with_reducible apply within_foldl | with_reducible exact may_row (by with_reducible assumption)
    | with_reducible exact may_any (by with_reducible assumption) _
    | with_reducible exact mayAll_any (by with_reducible assumption) _ | intro _

/-- What `State.latchWing` may write. -/
def State.latchWing_touch : Nat :=
  union [anyBit]

theorem State.latchWing_within {M : Nat} {s₀ s : State} (h : Within M s₀ s) (k : Covers M State.latchWing_touch)
    (w : Wing) (ps : List (Row × Row)) :
    Within M s₀ (State.latchWing s w ps) := by
  simp only [State.latchWing_touch, covers_union] at k
  obtain ⟨k0, _⟩ := k
  unfold State.latchWing
  repeat' first
    | with_reducible assumption | with_reducible exact .refl _ _ | with_reducible apply State.latchRow_within
    | with_reducible apply within_foldl | with_reducible exact may_row (by with_reducible assumption)
    | with_reducible exact may_any (by with_reducible assumption) _
    | with_reducible exact mayAll_any (by with_reducible assumption) _ | intro _

/-- What `State.turnSsf` may write. -/
def State.turnSsf_touch : Nat :=
  union [State.onOtn_touch, State.noteSsf_touch]

theorem State.turnSsf_within {M : Nat} {s₀ s : State} (h : Within M s₀ s) (k : Covers M State.turnSsf_touch)
    (w : Wing) :
    Within M s₀ (State.turnSsf s w) := by
  simp only [State.turnSsf_touch, covers_union] at k
  obtain ⟨k0, k1, _⟩ := k
  unfold State.turnSsf
  dsimp only
  repeat' first
    | with_reducible assumption | with_reducible exact .refl _ _ | with_reducible apply State.onOtn_within
    | with_reducible apply State.noteSsf_within

/-- What `State.latchFill` may write. -/
def State.latchFill_touch : Nat :=
  union [Row.OHD_MAP_FILL_FILL.bit, Row.OHD_MAP_FILL_FRAMES_K.bit, Part.sched.bit, State.accrueSlots_touch]

theorem State.latchFill_within {M : Nat} {s₀ s : State} (h : Within M s₀ s) (k : Covers M State.latchFill_touch)
    (ch : Nat) :
    Within M s₀ (State.latchFill s ch) := by
  simp only [State.latchFill_touch, covers_union] at k
  obtain ⟨k0, k1, k2, k3, _⟩ := k
  unfold State.latchFill
  dsimp only
  repeat' first
    | with_reducible assumption | with_reducible exact .refl _ _ | with_reducible apply State.wr_within
    | with_reducible apply State.accrueSlots_within | with_reducible exact may_row (by with_reducible assumption)
    | split | with_reducible apply within_sched

/-- What `State.showSecond` may write. -/
def State.showSecond_touch : Nat :=
  union [Row.RXW_FOM_EFF_PS_SNR_EFF.bit, Row.RXW_FOM_EFF_PS_SNR_P1.bit, Row.RXW_FOM_GMI_PS_GMI.bit,
    Row.RXW_FOM_GMI_PS_NGMI.bit, Row.RXW_FOM_MARGIN_PS_MARGIN.bit, Row.RXW_FOM_MARGIN_PS_SNR_REQ.bit,
    Row.RXW_FOM_OSNR_PS_OSNR_EST.bit, Row.RXW_FOM_OSNR_PS_SAT.bit, Row.RXW_FOM_SNR_PS_SNR_X.bit,
    Row.RXW_FOM_SNR_PS_SNR_Y.bit, Row.RXW_SP2_STAT_GAIN.bit]

theorem State.showSecond_within {M : Nat} {s₀ s : State} (h : Within M s₀ s) (k : Covers M State.showSecond_touch)
    (w : Wing) (f : Figures) :
    Within M s₀ (State.showSecond s w f) := by
  simp only [State.showSecond_touch, covers_union] at k
  obtain ⟨k0, k1, k2, k3, k4, k5, k6, k7, k8, k9, k10, _⟩ := k
  unfold State.showSecond
  dsimp only
  repeat' first
    | with_reducible assumption | with_reducible exact .refl _ _ | with_reducible apply State.wr_within
    | with_reducible apply State.wrS_within | with_reducible apply State.wrb_within
    | with_reducible exact may_row (by with_reducible assumption)

/-- What `State.latchFigures` may write. -/
def State.latchFigures_touch : Nat :=
  union [anyBit, State.onRx_touch, State.showSecond_touch]

theorem State.latchFigures_within {M : Nat} {s₀ s : State} (h : Within M s₀ s)
    (k : Covers M State.latchFigures_touch) (w : Wing) :
    Within M s₀ (State.latchFigures s w) := by
  simp only [State.latchFigures_touch, covers_union] at k
  obtain ⟨k0, k1, k2, _⟩ := k
  unfold State.latchFigures
  dsimp only
  repeat' first
    | with_reducible assumption | with_reducible exact .refl _ _ | with_reducible apply State.clear_within
    | with_reducible apply State.onRx_within | with_reducible apply State.showSecond_within
    | with_reducible apply within_foldl | with_reducible exact may_row (by with_reducible assumption)
    | with_reducible exact may_any (by with_reducible assumption) _
    | with_reducible exact mayAll_any (by with_reducible assumption) _ | unfold figureRows | intro _ | split

/-- What `State.latchWingBanks` may write. -/
def State.latchWingBanks_touch : Nat :=
  union [Row.FEC_BITS_HI_BITS.bit, Row.FEC_BITS_LO_BITS.bit, Row.FEC_BITS_PS_HI_BITS.bit,
    Row.FEC_BITS_PS_LO_BITS.bit, Row.FEC_BLOCKS_HI_BLOCKS.bit, Row.FEC_BLOCKS_LO_BLOCKS.bit,
    Row.FEC_BLOCKS_PS_HI_BLOCKS.bit, Row.FEC_BLOCKS_PS_LO_BLOCKS.bit, Row.FEC_DEMATCH_HI_DEMATCH_ERR.bit,
    Row.FEC_DEMATCH_LO_DEMATCH_ERR.bit, Row.FEC_DEMATCH_PS_HI_DEMATCH_ERR.bit,
    Row.FEC_DEMATCH_PS_LO_DEMATCH_ERR.bit, Row.FEC_ERR_BITS_HI_ERR_BITS.bit, Row.FEC_ERR_BITS_LO_ERR_BITS.bit,
    Row.FEC_ERR_BITS_PS_HI_ERR_BITS.bit, Row.FEC_ERR_BITS_PS_LO_ERR_BITS.bit, Row.FEC_ITER_HI_ITER_SUM.bit,
    Row.FEC_ITER_LO_ITER_SUM.bit, Row.FEC_ITER_PS_HI_ITER_SUM.bit, Row.FEC_ITER_PS_LO_ITER_SUM.bit,
    Row.FEC_UNCORR_HI_UNCORR.bit, Row.FEC_UNCORR_LO_UNCORR.bit, Row.FEC_UNCORR_P1_HI_UNCORR_P1.bit,
    Row.FEC_UNCORR_P1_LO_UNCORR_P1.bit, Row.FEC_UNCORR_P1_PS_HI_UNCORR_P1.bit,
    Row.FEC_UNCORR_P1_PS_LO_UNCORR_P1.bit, Row.FEC_UNCORR_PS_HI_UNCORR.bit, Row.FEC_UNCORR_PS_LO_UNCORR.bit,
    Row.OHD_PMC_BLOCKS_COUNT.bit, Row.OHD_PMC_DEF_SEEN_DEFS.bit, Row.OHD_PMC_DEMAP_ERR_COUNT.bit,
    Row.OHD_PMC_FE_BEI_COUNT.bit, Row.OHD_PMC_FE_EB_COUNT.bit, Row.OHD_PMC_NE_BIP_COUNT.bit,
    Row.OHD_PMC_NE_EB_COUNT.bit, Row.OHD_PMC_PS_BLOCKS_COUNT.bit, Row.OHD_PMC_PS_DEF_SEEN_DEFS.bit,
    Row.OHD_PMC_PS_DEMAP_ERR_COUNT.bit, Row.OHD_PMC_PS_FE_BEI_COUNT.bit, Row.OHD_PMC_PS_FE_EB_COUNT.bit,
    Row.OHD_PMC_PS_NE_BIP_COUNT.bit, Row.OHD_PMC_PS_NE_EB_COUNT.bit, Row.OHD_SMC_DEF_SEEN_DEFS.bit,
    Row.OHD_SMC_FAS_FALSE_COUNT.bit, Row.OHD_SMC_FE_BEI_COUNT.bit, Row.OHD_SMC_FE_EB_COUNT.bit,
    Row.OHD_SMC_FRAMES_COUNT.bit, Row.OHD_SMC_NE_BIP_COUNT.bit, Row.OHD_SMC_NE_EB_COUNT.bit,
    Row.OHD_SMC_OOF_EV_COUNT.bit, Row.OHD_SMC_PS_DEF_SEEN_DEFS.bit, Row.OHD_SMC_PS_FAS_FALSE_COUNT.bit,
    Row.OHD_SMC_PS_FE_BEI_COUNT.bit, Row.OHD_SMC_PS_FE_EB_COUNT.bit, Row.OHD_SMC_PS_FRAMES_COUNT.bit,
    Row.OHD_SMC_PS_NE_BIP_COUNT.bit, Row.OHD_SMC_PS_NE_EB_COUNT.bit, Row.OHD_SMC_PS_OOF_EV_COUNT.bit,
    Row.RXW_HDR_ERR_CF_SLIP.bit, Row.RXW_HDR_ERR_HDR_CRC.bit, Row.RXW_HDR_ERR_HDR_DIFF.bit,
    Row.RXW_HDR_ERR_PS_CF_SLIP.bit, Row.RXW_HDR_ERR_PS_HDR_CRC.bit, Row.RXW_HDR_ERR_PS_HDR_DIFF.bit,
    Row.RXW_PR_SLIP_COUNT.bit, Row.RXW_PR_SLIP_PS_COUNT.bit, Row.RXW_SOP_PS_RATE.bit, Row.TXW_CLIP_CNT_COUNT.bit,
    Row.TXW_CLIP_CNT_PS_COUNT.bit, State.latchWing_touch, State.restartSeen_touch, State.latchFill_touch,
    State.latchFigures_touch, State.turnSsf_touch]

theorem State.latchWingBanks_within {M : Nat} {s₀ s : State} (h : Within M s₀ s)
    (k : Covers M State.latchWingBanks_touch) (w : Wing) (sop : Nat) :
    Within M s₀ (State.latchWingBanks s w sop) := by
  simp only [State.latchWingBanks_touch, covers_union] at k
  obtain ⟨k0, k1, k2, k3, k4, k5, k6, k7, k8, k9, k10, k11, k12, k13, k14, k15, k16, k17, k18, k19, k20, k21,
    k22, k23, k24, k25, k26, k27, k28, k29, k30, k31, k32, k33, k34, k35, k36, k37, k38, k39, k40, k41, k42,
    k43, k44, k45, k46, k47, k48, k49, k50, k51, k52, k53, k54, k55, k56, k57, k58, k59, k60, k61, k62, k63,
    k64, k65, k66, k67, k68, k69, k70, k71, k72, k73, _⟩ := k
  unfold State.latchWingBanks
  dsimp only
  repeat' first
    | with_reducible assumption | with_reducible exact .refl _ _ | with_reducible apply State.latchWing_within
    | with_reducible apply State.wr_within | with_reducible apply State.restartSeen_within
    | with_reducible apply State.latchFill_within | with_reducible apply State.upTo_within
    | with_reducible apply State.latchFigures_within | with_reducible apply State.turnSsf_within
    | with_reducible exact may_row (by with_reducible assumption) | unfold fecPairs | unfold rxPairs
    | unfold otnPairs | intro _ | split

/-- What `State.latchCounter` may write. -/
def State.latchCounter_touch : Nat :=
  union [Row.PMU_CNT_PS_HI_COUNT.bit, Row.PMU_CNT_PS_LO_COUNT.bit, State.onPmu_touch]

theorem State.latchCounter_within {M : Nat} {s₀ s : State} (h : Within M s₀ s)
    (k : Covers M State.latchCounter_touch) (n : Nat) :
    Within M s₀ (State.latchCounter s n) := by
  simp only [State.latchCounter_touch, covers_union] at k
  obtain ⟨k0, k1, k2, _⟩ := k
  unfold State.latchCounter
  dsimp only
  repeat' first
    | with_reducible assumption | with_reducible exact .refl _ _ | with_reducible apply State.setCounter_within
    | with_reducible apply State.onPmu_within | with_reducible exact may_row (by with_reducible assumption) | intro _
    | split

/-- What `State.latchShared` may write. -/
def State.latchShared_touch : Nat :=
  union [Row.CIP_AUTH_FAIL_COUNT.bit, Row.CIP_AUTH_FAIL_PS_COUNT.bit, Row.CIP_NO_KEY_COUNT.bit,
    Row.CIP_NO_KEY_PS_COUNT.bit, Row.CIP_SEG_OK_COUNT.bit, Row.CIP_SEG_OK_PS_COUNT.bit, Row.CIP_SEQ_ERR_COUNT.bit,
    Row.CIP_SEQ_ERR_PS_COUNT.bit, Row.CLI_PFC_RX_COUNT.bit, Row.CLI_PFC_RX_PS_COUNT.bit, Row.CLI_PFC_TX_COUNT.bit,
    Row.CLI_PFC_TX_PS_COUNT.bit, Row.CLI_POL_RED_COUNT.bit, Row.CLI_POL_RED_PS_COUNT.bit,
    Row.CLI_POL_YELLOW_COUNT.bit, Row.CLI_POL_YELLOW_PS_COUNT.bit, Row.CLI_RX_FCS_ERR_COUNT.bit,
    Row.CLI_RX_FCS_ERR_PS_COUNT.bit, Row.CLI_RX_FRAMES_COUNT.bit, Row.CLI_RX_FRAMES_PS_COUNT.bit,
    Row.CLI_RX_MACCTL_COUNT.bit, Row.CLI_RX_MACCTL_PS_COUNT.bit, Row.CLI_RX_NOMAP_COUNT.bit,
    Row.CLI_RX_NOMAP_PS_COUNT.bit, Row.CLI_RX_OVERSIZE_COUNT.bit, Row.CLI_RX_OVERSIZE_PS_COUNT.bit,
    Row.CLI_RX_RUNT_COUNT.bit, Row.CLI_RX_RUNT_PS_COUNT.bit, Row.CLI_TX_FRAMES_COUNT.bit,
    Row.CLI_TX_FRAMES_PS_COUNT.bit, Row.PAN_DROP_CNT_COUNT.bit, Row.PAN_DROP_PS_COUNT.bit,
    State.latchCounter_touch, State.latchRows_touch]

theorem State.latchShared_within {M : Nat} {s₀ s : State} (h : Within M s₀ s) (k : Covers M State.latchShared_touch) :
    Within M s₀ (State.latchShared s) := by
  simp only [State.latchShared_touch, covers_union] at k
  obtain ⟨k0, k1, k2, k3, k4, k5, k6, k7, k8, k9, k10, k11, k12, k13, k14, k15, k16, k17, k18, k19, k20, k21,
    k22, k23, k24, k25, k26, k27, k28, k29, k30, k31, k32, k33, _⟩ := k
  unfold State.latchShared
  dsimp only
  repeat' first
    | with_reducible assumption | with_reducible exact .refl _ _ | with_reducible apply State.latchRow_within
    | with_reducible apply State.when_within | with_reducible apply State.latchCounter_within
    | with_reducible apply State.latchRows_within | with_reducible apply State.upTo_within
    | with_reducible exact may_row (by with_reducible assumption) | unfold cipPairs | unfold cliPairs | intro _

/-- What `State.tick` may write. -/
def State.tick_touch : Nat :=
  union [Row.REF_TICK_STAT_IRREG.bit, Row.REF_TICK_STAT_TICKS.bit, State.latchWingBanks_touch, State.native_touch,
    State.latchShared_touch, State.collect_touch, State.onDpll_touch, State.latchConv_touch, State.latchSup_touch]

theorem State.tick_within {M : Nat} {s₀ s : State} (h : Within M s₀ s) (k : Covers M State.tick_touch)
    (m : SecondStats) :
    Within M s₀ (State.tick s m) := by
  simp only [State.tick_touch, covers_union] at k
  obtain ⟨k0, k1, k2, k3, k4, k5, k6, k7, k8, _⟩ := k
  unfold State.tick
  dsimp only
  repeat' first
    | with_reducible assumption | with_reducible exact .refl _ _ | with_reducible apply State.latchWingBanks_within
    | with_reducible apply State.native_within | with_reducible apply State.wr_within
    | with_reducible apply State.latchShared_within | with_reducible apply State.collect_within
    | with_reducible apply State.onDpll_within | with_reducible apply State.latchConv_within
    | with_reducible apply State.when_within | with_reducible apply State.wrb_within
    | with_reducible apply State.latchSup_within | with_reducible apply within_foldl
    | with_reducible exact may_row (by with_reducible assumption) | intro _

/-- What `execOneSecondTick` may write. -/
def execOneSecondTick_touch : Nat :=
  union [State.advanceMt_touch, State.tick_touch, State.begin_touch]

theorem execOneSecondTick_within {M : Nat} (s : State) (k : Covers M execOneSecondTick_touch) (m : SecondStats) :
    Answered M s (execOneSecondTick m s) := by
  simp only [execOneSecondTick_touch, covers_union] at k
  obtain ⟨k0, k1, k2, _⟩ := k
  unfold execOneSecondTick
  dsimp only
  repeat' first
    | apply answered_next | with_reducible assumption | with_reducible exact .refl _ _
    | with_reducible apply State.advanceMt_within | with_reducible apply State.tick_within
    | with_reducible apply State.begin_within | with_reducible apply State.when_within | intro _

/-- What `State.copyTag` may write. -/
def State.copyTag_touch : Nat :=
  union [Row.PMU_TAG_WIN_WORD.bit]

theorem State.copyTag_within {M : Nat} {s₀ s : State} (h : Within M s₀ s) (k : Covers M State.copyTag_touch) :
    Within M s₀ (State.copyTag s) := by
  simp only [State.copyTag_touch, covers_union] at k
  obtain ⟨k0, _⟩ := k
  unfold State.copyTag
  repeat' first
    | with_reducible assumption | with_reducible exact .refl _ _ | with_reducible apply State.wr_within
    | with_reducible apply State.upTo_within | with_reducible exact may_row (by with_reducible assumption) | intro _

/-- What `execTagWinRead` may write. -/
def execTagWinRead_touch : Nat :=
  union [State.copyTag_touch, State.say_touch, State.begin_touch]

theorem execTagWinRead_within {M : Nat} (s : State) (k : Covers M execTagWinRead_touch) (req : Req) :
    Answered M s (execTagWinRead req s) := by
  simp only [execTagWinRead_touch, covers_union] at k
  obtain ⟨k0, k1, k2, _⟩ := k
  unfold execTagWinRead
  dsimp only
  repeat' first
    | apply answered_next | with_reducible assumption | with_reducible exact .refl _ _
    | with_reducible apply State.copyTag_within | with_reducible apply State.say_within
    | with_reducible apply State.via_within | with_reducible apply State.begin_within
    | with_reducible exact may_row (by with_reducible assumption) | intro _

/-- What `State.popTag` may write. -/
def State.popTag_touch : Nat :=
  union [State.onPmu_touch, State.showTags_touch]

theorem State.popTag_within {M : Nat} {s₀ s : State} (h : Within M s₀ s) (k : Covers M State.popTag_touch) :
    Within M s₀ (State.popTag s) := by
  simp only [State.popTag_touch, covers_union] at k
  obtain ⟨k0, k1, _⟩ := k
  unfold State.popTag
  repeat' first
    | with_reducible assumption | with_reducible exact .refl _ _ | with_reducible apply State.onPmu_within
    | with_reducible apply State.showTags_within | intro _ | split

/-- What `execTagPop` may write. -/
def execTagPop_touch : Nat :=
  union [State.popTag_touch, State.begin_touch]

theorem execTagPop_within {M : Nat} (s : State) (k : Covers M execTagPop_touch) (req : Req) :
    Answered M s (execTagPop req s) := by
  simp only [execTagPop_touch, covers_union] at k
  obtain ⟨k0, k1, _⟩ := k
  unfold execTagPop
  repeat' first
    | apply answered_next | with_reducible assumption | with_reducible exact .refl _ _
    | with_reducible apply State.popTag_within | with_reducible apply State.via_within
    | with_reducible apply State.begin_within | intro _

/-- What `execHistClr` may write. -/
def execHistClr_touch : Nat :=
  union [State.askHistClear_touch, State.begin_touch]

theorem execHistClr_within {M : Nat} (s : State) (k : Covers M execHistClr_touch) (req : Req) (mask : Nat) :
    Answered M s (execHistClr req mask s) := by
  simp only [execHistClr_touch, covers_union] at k
  obtain ⟨k0, k1, _⟩ := k
  unfold execHistClr
  repeat' first
    | apply answered_next | with_reducible assumption | with_reducible exact .refl _ _
    | with_reducible apply State.askHistClear_within | with_reducible apply State.via_within
    | with_reducible apply State.begin_within | intro _

/-- What `State.onAttic` may write. -/
def State.onAttic_touch : Nat :=
  union [Part.attic.bit]

theorem State.onAttic_within {M : Nat} {s₀ s : State} (h : Within M s₀ s) (k : Covers M State.onAttic_touch)
    (f : Attic → Attic) :
    Within M s₀ (State.onAttic s f) := by
  simp only [State.onAttic_touch, covers_union] at k
  obtain ⟨k0, _⟩ := k
  unfold State.onAttic
  repeat' first | with_reducible assumption | with_reducible exact .refl _ _ | with_reducible apply within_attic

/-- What `State.stamp` may write. -/
def State.stamp_touch : Nat :=
  union [Part.free.bit]

theorem State.stamp_within {M : Nat} {s₀ s : State} (h : Within M s₀ s) (k : Covers M State.stamp_touch) :
    Within M s₀ (State.stamp s).2 := by
  simp only [State.stamp_touch, covers_union] at k
  obtain ⟨k0, _⟩ := k
  unfold State.stamp
  dsimp only
  repeat' first
    | with_reducible assumption | with_reducible exact .refl _ _ | with_reducible apply State.fresh_within
    | with_reducible exact may_row (by with_reducible assumption) | split

/-- What `State.placeRec` may write. -/
def State.placeRec_touch : Nat :=
  union [State.onAttic_touch]

theorem State.placeRec_within {M : Nat} {s₀ s : State} (h : Within M s₀ s) (k : Covers M State.placeRec_touch)
    (i : Nat) (r : Rec) :
    Within M s₀ (State.placeRec s i r) := by
  simp only [State.placeRec_touch, covers_union] at k
  obtain ⟨k0, _⟩ := k
  unfold State.placeRec
  repeat' first
    | with_reducible assumption | with_reducible exact .refl _ _ | with_reducible apply State.onAttic_within

/-- What `State.sealRec` may write. -/
def State.sealRec_touch : Nat :=
  union [Row.ATT_EVT_SEALED_FULL.bit, Row.ATT_STAT_SEALED_FULL.bit, Row.ATT_STAT_SEALED_USED.bit,
    State.placeRec_touch, State.evt_touch]

theorem State.sealRec_within {M : Nat} {s₀ s : State} (h : Within M s₀ s) (k : Covers M State.sealRec_touch)
    (r : Rec) :
    Within M s₀ (State.sealRec s r) := by
  simp only [State.sealRec_touch, covers_union] at k
  obtain ⟨k0, k1, k2, k3, k4, _⟩ := k
  unfold State.sealRec
  dsimp only
  repeat' first
    | with_reducible assumption | with_reducible exact .refl _ _ | with_reducible apply State.wr_within
    | with_reducible apply State.placeRec_within | with_reducible apply State.evt_within
    | with_reducible apply State.when_within | with_reducible apply State.wrb_within
    | with_reducible exact may_row (by with_reducible assumption) | intro _

/-- What `State.circulateRec` may write. -/
def State.circulateRec_touch : Nat :=
  union [Row.ATT_STAT_WRAPPED.bit, Row.ATT_STAT_WR_PTR.bit, State.placeRec_touch]

theorem State.circulateRec_within {M : Nat} {s₀ s : State} (h : Within M s₀ s)
    (k : Covers M State.circulateRec_touch) (r : Rec) :
    Within M s₀ (State.circulateRec s r) := by
  simp only [State.circulateRec_touch, covers_union] at k
  obtain ⟨k0, k1, k2, _⟩ := k
  unfold State.circulateRec
  dsimp only
  repeat' first
    | with_reducible assumption | with_reducible exact .refl _ _ | with_reducible apply State.wr_within
    | with_reducible apply State.placeRec_within | with_reducible apply State.when_within
    | with_reducible apply State.wrb_within | with_reducible exact may_row (by with_reducible assumption) | intro _

/-- What `State.newRec` may write. -/
def State.newRec_touch : Nat :=
  union [State.circulateRec_touch, State.sealRec_touch]

theorem State.newRec_within {M : Nat} {s₀ s : State} (h : Within M s₀ s) (k : Covers M State.newRec_touch) (r : Rec) :
    Within M s₀ (State.newRec s r) := by
  simp only [State.newRec_touch, covers_union] at k
  obtain ⟨k0, k1, _⟩ := k
  unfold State.newRec
  repeat' first
    | with_reducible assumption | with_reducible exact .refl _ _ | with_reducible apply State.circulateRec_within
    | with_reducible apply State.sealRec_within | with_reducible exact may_row (by with_reducible assumption) | split

/-- What `State.takeRec` may write. -/
def State.takeRec_touch : Nat :=
  union [State.placeRec_touch, State.newRec_touch]

theorem State.takeRec_within {M : Nat} {s₀ s : State} (h : Within M s₀ s) (k : Covers M State.takeRec_touch)
    (x : Arrival) (t : Nat) (coarse : Bool) :
    Within M s₀ (State.takeRec s x t coarse) := by
  simp only [State.takeRec_touch, covers_union] at k
  obtain ⟨k0, k1, _⟩ := k
  unfold State.takeRec
  repeat' first
    | with_reducible assumption | with_reducible exact .refl _ _ | with_reducible apply State.placeRec_within
    | with_reducible apply State.newRec_within | split

/-- What `State.nextRec` may write. -/
def State.nextRec_touch : Nat :=
  union [State.stamp_touch, State.onAttic_touch, State.takeRec_touch]

theorem State.nextRec_within {M : Nat} {s₀ s : State} (h : Within M s₀ s) (k : Covers M State.nextRec_touch) :
    Within M s₀ (State.nextRec s) := by
  simp only [State.nextRec_touch, covers_union] at k
  obtain ⟨k0, k1, k2, _⟩ := k
  unfold State.nextRec
  dsimp only
  repeat' first
    | with_reducible assumption | with_reducible exact .refl _ _ | with_reducible apply State.stamp_within
    | with_reducible apply State.onAttic_within | with_reducible apply State.takeRec_within | intro _ | split

/-- What `execAtticRecord` may write. -/
def execAtticRecord_touch : Nat :=
  union [State.begin_touch, State.nextRec_touch]

theorem execAtticRecord_within {M : Nat} (s : State) (k : Covers M execAtticRecord_touch) :
    Answered M s (execAtticRecord s) := by
  simp only [execAtticRecord_touch, covers_union] at k
  obtain ⟨k0, k1, _⟩ := k
  unfold execAtticRecord
  repeat' first
    | apply answered_next | with_reducible assumption | with_reducible exact .refl _ _
    | with_reducible apply State.begin_within | with_reducible apply State.nextRec_within

/-- What `State.copyRec` may write. -/
def State.copyRec_touch : Nat :=
  union [Row.ATT_WIN_WORD.bit]

theorem State.copyRec_within {M : Nat} {s₀ s : State} (h : Within M s₀ s) (k : Covers M State.copyRec_touch) :
    Within M s₀ (State.copyRec s) := by
  simp only [State.copyRec_touch, covers_union] at k
  obtain ⟨k0, _⟩ := k
  unfold State.copyRec
  dsimp only
  repeat' first
    | with_reducible assumption | with_reducible exact .refl _ _ | with_reducible apply State.wr_within
    | with_reducible apply State.upTo_within | with_reducible exact may_row (by with_reducible assumption) | intro _

/-- What `execAtticWinRead` may write. -/
def execAtticWinRead_touch : Nat :=
  union [State.say_touch, State.begin_touch, State.copyRec_touch]

theorem execAtticWinRead_within {M : Nat} (s : State) (k : Covers M execAtticWinRead_touch) (req : Req) :
    Answered M s (execAtticWinRead req s) := by
  simp only [execAtticWinRead_touch, covers_union] at k
  obtain ⟨k0, k1, k2, _⟩ := k
  unfold execAtticWinRead
  dsimp only
  repeat' first
    | apply answered_next | with_reducible assumption | with_reducible exact .refl _ _
    | with_reducible apply State.say_within | with_reducible apply State.via_within
    | with_reducible apply State.begin_within | with_reducible apply State.copyRec_within
    | with_reducible exact may_row (by with_reducible assumption) | intro _

/-- What `State.advanceCursor` may write. -/
def State.advanceCursor_touch : Nat :=
  union [Row.ATT_CURSOR_INDEX.bit]

theorem State.advanceCursor_within {M : Nat} {s₀ s : State} (h : Within M s₀ s)
    (k : Covers M State.advanceCursor_touch) :
    Within M s₀ (State.advanceCursor s) := by
  simp only [State.advanceCursor_touch, covers_union] at k
  obtain ⟨k0, _⟩ := k
  unfold State.advanceCursor
  repeat' first
    | with_reducible assumption | with_reducible exact .refl _ _ | with_reducible apply State.wr_within
    | with_reducible apply State.when_within | with_reducible exact may_row (by with_reducible assumption) | intro _

/-- What `execAtticWinLastRead` may write. -/
def execAtticWinLastRead_touch : Nat :=
  union [State.advanceCursor_touch, State.say_touch, State.begin_touch]

theorem execAtticWinLastRead_within {M : Nat} (s : State) (k : Covers M execAtticWinLastRead_touch) (req : Req) :
    Answered M s (execAtticWinLastRead req s) := by
  simp only [execAtticWinLastRead_touch, covers_union] at k
  obtain ⟨k0, k1, k2, _⟩ := k
  unfold execAtticWinLastRead
  dsimp only
  repeat' first
    | apply answered_next | with_reducible assumption | with_reducible exact .refl _ _
    | with_reducible apply State.advanceCursor_within | with_reducible apply State.say_within
    | with_reducible apply State.via_within | with_reducible apply State.begin_within
    | with_reducible exact may_row (by with_reducible assumption) | intro _

/-- What `State.setArmed` may write. -/
def State.setArmed_touch : Nat :=
  union [Row.ATT_STAT_ARMED.bit, State.onAttic_touch]

theorem State.setArmed_within {M : Nat} {s₀ s : State} (h : Within M s₀ s) (k : Covers M State.setArmed_touch)
    (on : Bool) :
    Within M s₀ (State.setArmed s on) := by
  simp only [State.setArmed_touch, covers_union] at k
  obtain ⟨k0, k1, _⟩ := k
  unfold State.setArmed
  repeat' first
    | with_reducible assumption | with_reducible exact .refl _ _ | with_reducible apply State.onAttic_within
    | with_reducible apply State.wrb_within | with_reducible exact may_row (by with_reducible assumption)

/-- What `State.emptyAttic` may write. -/
def State.emptyAttic_touch : Nat :=
  union [Row.ATT_STAT_SEALED_FULL.bit, Row.ATT_STAT_SEALED_USED.bit, Row.ATT_STAT_WRAPPED.bit,
    Row.ATT_STAT_WR_PTR.bit, State.onAttic_touch]

theorem State.emptyAttic_within {M : Nat} {s₀ s : State} (h : Within M s₀ s) (k : Covers M State.emptyAttic_touch)
    (both : Bool) :
    Within M s₀ (State.emptyAttic s both) := by
  simp only [State.emptyAttic_touch, covers_union] at k
  obtain ⟨k0, k1, k2, k3, k4, _⟩ := k
  unfold State.emptyAttic
  dsimp only
  repeat' first
    | with_reducible assumption | with_reducible exact .refl _ _ | with_reducible apply State.onAttic_within
    | with_reducible apply State.wr_within | with_reducible apply State.when_within
    | with_reducible apply State.wrb_within | with_reducible exact may_row (by with_reducible assumption) | intro _

/-- What `State.clearAttic` may write. -/
def State.clearAttic_touch : Nat :=
  union [State.stamp_touch, State.emptyAttic_touch, State.sealRec_touch, State.setArmed_touch]

theorem State.clearAttic_within {M : Nat} {s₀ s : State} (h : Within M s₀ s) (k : Covers M State.clearAttic_touch)
    (req : Nat) (both : Bool) :
    Within M s₀ (State.clearAttic s req both) := by
  simp only [State.clearAttic_touch, covers_union] at k
  obtain ⟨k0, k1, k2, k3, _⟩ := k
  unfold State.clearAttic
  dsimp only
  repeat' first
    | with_reducible assumption | with_reducible exact .refl _ _ | with_reducible apply State.stamp_within
    | with_reducible apply State.emptyAttic_within | with_reducible apply State.sealRec_within
    | with_reducible apply State.setArmed_within

/-- What `State.clearStep` may write. -/
def State.clearStep_touch : Nat :=
  union [State.clearAttic_touch, State.setArmed_touch]

theorem State.clearStep_within {M : Nat} {s₀ s : State} (h : Within M s₀ s) (k : Covers M State.clearStep_touch)
    (req : Nat) (step : Nat) :
    Within M s₀ (State.clearStep s req step) := by
  simp only [State.clearStep_touch, covers_union] at k
  obtain ⟨k0, k1, _⟩ := k
  unfold State.clearStep
  repeat' first
    | with_reducible assumption | with_reducible exact .refl _ _ | with_reducible apply State.clearAttic_within
    | with_reducible apply State.setArmed_within | with_reducible exact may_row (by with_reducible assumption)
    | split

/-- What `execAtticClearArm` may write. -/
def execAtticClearArm_touch : Nat :=
  union [Row.ATT_CLEAR_SCOPE.bit, State.clearStep_touch, State.begin_touch]

theorem execAtticClearArm_within {M : Nat} (s : State) (k : Covers M execAtticClearArm_touch) (req : Req)
    (scope : Bool) :
    Answered M s (execAtticClearArm req scope s) := by
  simp only [execAtticClearArm_touch, covers_union] at k
  obtain ⟨k0, k1, k2, _⟩ := k
  unfold execAtticClearArm
  repeat' first
    | apply answered_next | with_reducible assumption | with_reducible exact .refl _ _
    | with_reducible apply State.clearStep_within | with_reducible apply State.via_within
    | with_reducible apply State.begin_within | with_reducible apply State.wrb_within
    | with_reducible exact may_row (by with_reducible assumption) | intro _

/-- What `execAtticClearExecute` may write. -/
def execAtticClearExecute_touch : Nat :=
  union [Row.ATT_CLEAR_SCOPE.bit, State.clearStep_touch, State.begin_touch]

theorem execAtticClearExecute_within {M : Nat} (s : State) (k : Covers M execAtticClearExecute_touch) (req : Req)
    (scope : Bool) :
    Answered M s (execAtticClearExecute req scope s) := by
  simp only [execAtticClearExecute_touch, covers_union] at k
  obtain ⟨k0, k1, k2, _⟩ := k
  unfold execAtticClearExecute
  repeat' first
    | apply answered_next | with_reducible assumption | with_reducible exact .refl _ _
    | with_reducible apply State.clearStep_within | with_reducible apply State.via_within
    | with_reducible apply State.begin_within | with_reducible apply State.wrb_within
    | with_reducible exact may_row (by with_reducible assumption) | intro _

/-- What `execAtticClearLapse` may write. -/
def execAtticClearLapse_touch : Nat :=
  union [State.begin_touch, State.setArmed_touch]

theorem execAtticClearLapse_within {M : Nat} (s : State) (k : Covers M execAtticClearLapse_touch) :
    Answered M s (execAtticClearLapse s) := by
  simp only [execAtticClearLapse_touch, covers_union] at k
  obtain ⟨k0, k1, _⟩ := k
  unfold execAtticClearLapse
  repeat' first
    | apply answered_next | with_reducible assumption | with_reducible exact .refl _ _
    | with_reducible apply State.begin_within | with_reducible apply State.setArmed_within

end Sys2Proof.Machine
end

