-- ==== Sys2Proof/Laws/WithinHostIf.lean ====
section
/-!
SUPPORT. `Within` over the operations of Machine/HostIf.lean.
-/

namespace Sys2Proof.Machine

/-- What `State.onHost` may write. -/
def State.onHost_touch : Nat :=
  union [Part.host.bit]

theorem State.onHost_within {M : Nat} {s₀ s : State} (h : Within M s₀ s) (k : Covers M State.onHost_touch)
    (f : HostIf → HostIf) :
    Within M s₀ (State.onHost s f) := by
  simp only [State.onHost_touch, covers_union] at k
  obtain ⟨k0, _⟩ := k
  unfold State.onHost
  repeat' first | with_reducible assumption | with_reducible exact .refl _ _ | with_reducible apply within_host

/-- What `State.clearDma` may write. -/
def State.clearDma_touch : Nat :=
  union [Row.HST_DMA_CTL_EN.bit, Row.HST_DMA_CTL_INTERVAL.bit, Row.HST_DMA_CTL_STAGE.bit, Row.HST_DMA_CTL_WING.bit,
    Row.HST_DMA_HEAD_IDX.bit, Row.HST_DMA_RING_HI_ADDR.bit, Row.HST_DMA_RING_LO_ADDR.bit,
    Row.HST_DMA_RING_SIZE_N.bit, Row.HST_DMA_SKIPPED_COUNT.bit, Row.HST_DMA_STAT_BUSY.bit,
    Row.HST_DMA_STAT_ERR.bit, Row.HST_DMA_TAIL_IDX.bit, State.onHost_touch]

theorem State.clearDma_within {M : Nat} {s₀ s : State} (h : Within M s₀ s) (k : Covers M State.clearDma_touch) :
    Within M s₀ (State.clearDma s) := by
  simp only [State.clearDma_touch, covers_union] at k
  obtain ⟨k0, k1, k2, k3, k4, k5, k6, k7, k8, k9, k10, k11, k12, _⟩ := k
  have kr : MayAll M dmaRows := by
    unfold dmaRows
    repeat' first
      | with_reducible apply mayAll_cons | with_reducible exact mayAll_nil _
      | with_reducible exact may_row (by with_reducible assumption)
  unfold State.clearDma
  refine State.onHost_within (State.upTo_within h (fun t e => ?_) 7) (by with_reducible assumption) _
  exact within_foldl_mem (.refl _ t) _ (fun u r hr => State.clear_within (.refl _ u) r (kr r hr) _)


/-- What `State.clearMsix` may write. -/
def State.clearMsix_touch : Nat :=
  union [State.onHost_touch]

theorem State.clearMsix_within {M : Nat} {s₀ s : State} (h : Within M s₀ s) (k : Covers M State.clearMsix_touch) :
    Within M s₀ (State.clearMsix s) := by
  simp only [State.clearMsix_touch, covers_union] at k
  obtain ⟨k0, _⟩ := k
  unfold State.clearMsix
  repeat' first
    | with_reducible assumption | with_reducible exact .refl _ _ | with_reducible apply State.onHost_within

/-- What `State.clearShadow` may write. -/
def State.clearShadow_touch : Nat :=
  union [State.onHost_touch]

theorem State.clearShadow_within {M : Nat} {s₀ s : State} (h : Within M s₀ s) (k : Covers M State.clearShadow_touch)
    (r : Req) :
    Within M s₀ (State.clearShadow s r) := by
  simp only [State.clearShadow_touch, covers_union] at k
  obtain ⟨k0, _⟩ := k
  unfold State.clearShadow
  repeat' first
    | with_reducible assumption | with_reducible exact .refl _ _ | with_reducible apply State.onHost_within

/-- What `State.discardRequests` may write. -/
def State.discardRequests_touch : Nat :=
  union [Part.cor.bit]

theorem State.discardRequests_within {M : Nat} {s₀ s : State} (h : Within M s₀ s)
    (k : Covers M State.discardRequests_touch) :
    Within M s₀ (State.discardRequests s) := by
  simp only [State.discardRequests_touch, covers_union] at k
  obtain ⟨k0, _⟩ := k
  unfold State.discardRequests
  repeat' first
    | with_reducible assumption | with_reducible exact .refl _ _ | intro _ | with_reducible apply within_cor

/-- What `State.linkDown` may write. -/
def State.linkDown_touch : Nat :=
  union [Row.HST_LINK_GEN.bit, Row.HST_LINK_UP.bit, Row.HST_LINK_WIDTH.bit]

theorem State.linkDown_within {M : Nat} {s₀ s : State} (h : Within M s₀ s) (k : Covers M State.linkDown_touch) :
    Within M s₀ (State.linkDown s) := by
  simp only [State.linkDown_touch, covers_union] at k
  obtain ⟨k0, k1, k2, _⟩ := k
  unfold State.linkDown
  repeat' first
    | with_reducible assumption | with_reducible exact .refl _ _ | with_reducible apply State.wr_within
    | with_reducible apply State.wrb_within | with_reducible exact may_row (by with_reducible assumption)

/-- What `State.perst` may write. -/
def State.perst_touch : Nat :=
  union [Part.pins.bit, Part.host.bit, State.linkDown_touch, State.clearDma_touch, State.breakFetch_touch,
    State.clearMsix_touch, State.discardRequests_touch, State.breakXfer_touch]

theorem State.perst_within {M : Nat} {s₀ s : State} (h : Within M s₀ s) (k : Covers M State.perst_touch) :
    Within M s₀ (State.perst s) := by
  simp only [State.perst_touch, covers_union] at k
  obtain ⟨k0, k1, k2, k3, k4, k5, k6, k7, _⟩ := k
  unfold State.perst
  dsimp only
  repeat' first
    | with_reducible assumption | with_reducible exact .refl _ _ | with_reducible apply State.linkDown_within
    | with_reducible apply State.clearDma_within | with_reducible apply State.breakFetch_within
    | with_reducible apply State.clearMsix_within | with_reducible apply State.discardRequests_within
    | with_reducible apply State.breakXfer_within | with_reducible apply within_pins
    | with_reducible apply within_host | with_reducible apply within_mk | exact Or.inr (by with_reducible assumption)
    | with_reducible exact Or.inl rfl

/-- What `execPerst` may write. -/
def execPerst_touch : Nat :=
  union [State.perst_touch, State.begin_touch]

theorem execPerst_within {M : Nat} (s : State) (k : Covers M execPerst_touch) :
    Answered M s (execPerst s) := by
  simp only [execPerst_touch, covers_union] at k
  obtain ⟨k0, k1, _⟩ := k
  unfold execPerst
  repeat' first
    | apply answered_next | with_reducible assumption | with_reducible exact .refl _ _
    | with_reducible apply State.perst_within | with_reducible apply State.begin_within

/-- What `State.flr0` may write. -/
def State.flr0_touch : Nat :=
  union [Row.HST_INTN_PEND_HI_VEC.bit, Row.HST_INTN_PEND_LO_VEC.bit, State.clearShadow_touch, State.clearDma_touch,
    State.clearMsix_touch, State.discardRequests_touch]

theorem State.flr0_within {M : Nat} {s₀ s : State} (h : Within M s₀ s) (k : Covers M State.flr0_touch) :
    Within M s₀ (State.flr0 s) := by
  simp only [State.flr0_touch, covers_union] at k
  obtain ⟨k0, k1, k2, k3, k4, k5, _⟩ := k
  unfold State.flr0
  dsimp only
  repeat' first
    | with_reducible assumption | with_reducible exact .refl _ _ | with_reducible apply State.wr_within
    | with_reducible apply State.clearShadow_within | with_reducible apply State.clearDma_within
    | with_reducible apply State.clearMsix_within | with_reducible apply State.discardRequests_within
    | with_reducible exact may_row (by with_reducible assumption)

/-- What `execFlrPf0` may write. -/
def execFlrPf0_touch : Nat :=
  union [State.flr0_touch, State.begin_touch]

theorem execFlrPf0_within {M : Nat} (s : State) (k : Covers M execFlrPf0_touch) :
    Answered M s (execFlrPf0 s) := by
  simp only [execFlrPf0_touch, covers_union] at k
  obtain ⟨k0, k1, _⟩ := k
  unfold execFlrPf0
  repeat' first
    | apply answered_next | with_reducible assumption | with_reducible exact .refl _ _
    | with_reducible apply State.flr0_within | with_reducible apply State.begin_within

/-- What `execFlrPf1` may write. -/
def execFlrPf1_touch : Nat :=
  union [State.clearShadow_touch, State.begin_touch]

theorem execFlrPf1_within {M : Nat} (s : State) (k : Covers M execFlrPf1_touch) :
    Answered M s (execFlrPf1 s) := by
  simp only [execFlrPf1_touch, covers_union] at k
  obtain ⟨k0, k1, _⟩ := k
  unfold execFlrPf1
  repeat' first
    | apply answered_next | with_reducible assumption | with_reducible exact .refl _ _
    | with_reducible apply State.clearShadow_within | with_reducible apply State.begin_within

/-- What `execPerstRelease` may write. -/
def execPerstRelease_touch : Nat :=
  union [Part.pins.bit, Part.host.bit, State.begin_touch]

theorem execPerstRelease_within {M : Nat} (s : State) (k : Covers M execPerstRelease_touch) :
    Answered M s (execPerstRelease s) := by
  simp only [execPerstRelease_touch, covers_union] at k
  obtain ⟨k0, k1, k2, _⟩ := k
  unfold execPerstRelease
  dsimp only
  repeat' first
    | apply answered_next | with_reducible assumption | with_reducible exact .refl _ _
    | with_reducible apply State.begin_within | with_reducible apply within_pins | with_reducible apply within_host
    | with_reducible apply within_mk | exact Or.inr (by with_reducible assumption) | with_reducible exact Or.inl rfl

/-- What `execPcieLinkUp` may write. -/
def execPcieLinkUp_touch : Nat :=
  union [Row.HST_LINK_GEN.bit, Row.HST_LINK_UP.bit, Row.HST_LINK_WIDTH.bit, State.begin_touch]

theorem execPcieLinkUp_within {M : Nat} (s : State) (k : Covers M execPcieLinkUp_touch) (gen : Nat) (width : Nat) :
    Answered M s (execPcieLinkUp gen width s) := by
  simp only [execPcieLinkUp_touch, covers_union] at k
  obtain ⟨k0, k1, k2, k3, _⟩ := k
  unfold execPcieLinkUp
  dsimp only
  repeat' first
    | apply answered_next | with_reducible assumption | with_reducible exact .refl _ _
    | with_reducible apply State.wr_within | with_reducible apply State.begin_within
    | with_reducible apply State.when_within | with_reducible apply State.wrb_within
    | with_reducible exact may_row (by with_reducible assumption) | intro _

/-- What `execBadAccess` may write. -/
def execBadAccess_touch : Nat :=
  union [Row.HST_UNMAPPED_BAD_BE.bit, State.say_touch, State.begin_touch, State.count_touch]

theorem execBadAccess_within {M : Nat} (s : State) (k : Covers M execBadAccess_touch) (req : Req) :
    Answered M s (execBadAccess req s) := by
  simp only [execBadAccess_touch, covers_union] at k
  obtain ⟨k0, k1, k2, k3, _⟩ := k
  unfold execBadAccess
  repeat' first
    | apply answered_next | with_reducible assumption | with_reducible exact .refl _ _
    | with_reducible apply State.say_within | with_reducible apply State.begin_within
    | with_reducible apply State.count_within | with_reducible exact may_row (by with_reducible assumption)

/-- What `State.sendPending` may write. -/
def State.sendPending_touch : Nat :=
  union [State.sendMsix_touch]

theorem State.sendPending_within {M : Nat} {s₀ s : State} (h : Within M s₀ s) (k : Covers M State.sendPending_touch) :
    Within M s₀ (State.sendPending s) := by
  simp only [State.sendPending_touch, covers_union] at k
  obtain ⟨k0, _⟩ := k
  unfold State.sendPending
  repeat' first
    | with_reducible assumption | with_reducible exact .refl _ _ | with_reducible apply State.sendMsix_within
    | with_reducible apply State.when_within | with_reducible apply State.upTo_within | intro _

/-- What `State.msixControl` may write. -/
def State.msixControl_touch : Nat :=
  union [State.onHost_touch, State.sendPending_touch]

theorem State.msixControl_within {M : Nat} {s₀ s : State} (h : Within M s₀ s) (k : Covers M State.msixControl_touch)
    (c : MsixCtl) :
    Within M s₀ (State.msixControl s c) := by
  simp only [State.msixControl_touch, covers_union] at k
  obtain ⟨k0, k1, _⟩ := k
  unfold State.msixControl
  repeat' first
    | with_reducible assumption | with_reducible exact .refl _ _ | with_reducible apply State.onHost_within
    | with_reducible apply State.sendPending_within

/-- What `execMsixUnmask` may write. -/
def execMsixUnmask_touch : Nat :=
  union [State.msixControl_touch, State.begin_touch]

theorem execMsixUnmask_within {M : Nat} (s : State) (k : Covers M execMsixUnmask_touch) (c : MsixCtl) :
    Answered M s (execMsixUnmask c s) := by
  simp only [execMsixUnmask_touch, covers_union] at k
  obtain ⟨k0, k1, _⟩ := k
  unfold execMsixUnmask
  repeat' first
    | apply answered_next | with_reducible assumption | with_reducible exact .refl _ _
    | with_reducible apply State.msixControl_within | with_reducible apply State.begin_within

/-- What `State.gapEnds` may write. -/
def State.gapEnds_touch : Nat :=
  union [State.onHost_touch, State.sendMsix_touch]

theorem State.gapEnds_within {M : Nat} {s₀ s : State} (h : Within M s₀ s) (k : Covers M State.gapEnds_touch)
    (v : Nat) :
    Within M s₀ (State.gapEnds s v) := by
  simp only [State.gapEnds_touch, covers_union] at k
  obtain ⟨k0, k1, _⟩ := k
  unfold State.gapEnds
  dsimp only
  repeat' first
    | with_reducible assumption | with_reducible exact .refl _ _ | with_reducible apply State.onHost_within
    | with_reducible apply State.sendMsix_within | with_reducible apply State.when_within | intro _ | split

/-- What `execVecModGapExpiry` may write. -/
def execVecModGapExpiry_touch : Nat :=
  union [State.gapEnds_touch, State.begin_touch]

theorem execVecModGapExpiry_within {M : Nat} (s : State) (k : Covers M execVecModGapExpiry_touch) (v : Fin 64) :
    Answered M s (execVecModGapExpiry v s) := by
  simp only [execVecModGapExpiry_touch, covers_union] at k
  obtain ⟨k0, k1, _⟩ := k
  unfold execVecModGapExpiry
  dsimp only
  repeat' first
    | apply answered_next | with_reducible assumption | with_reducible exact .refl _ _
    | with_reducible apply State.gapEnds_within | with_reducible apply State.begin_within
    | with_reducible apply State.when_within | intro _

/-- What `State.advanceHead` may write. -/
def State.advanceHead_touch : Nat :=
  union [Row.HST_DMA_HEAD_IDX.bit, State.ring_touch]

theorem State.advanceHead_within {M : Nat} {s₀ s : State} (h : Within M s₀ s) (k : Covers M State.advanceHead_touch)
    (e : Nat) :
    Within M s₀ (State.advanceHead s e) := by
  simp only [State.advanceHead_touch, covers_union] at k
  obtain ⟨k0, k1, _⟩ := k
  unfold State.advanceHead
  repeat' first
    | with_reducible assumption | with_reducible exact .refl _ _ | with_reducible apply State.ring_within
    | with_reducible apply State.wr_within | with_reducible exact may_row (by with_reducible assumption)

/-- What `State.captureError` may write. -/
def State.captureError_touch : Nat :=
  union [Row.HST_DMA_CTL_EN.bit, Row.HST_DMA_STAT_ERR.bit, State.say_touch]

theorem State.captureError_within {M : Nat} {s₀ s : State} (h : Within M s₀ s)
    (k : Covers M State.captureError_touch) (e : Nat) :
    Within M s₀ (State.captureError s e) := by
  simp only [State.captureError_touch, covers_union] at k
  obtain ⟨k0, k1, k2, _⟩ := k
  unfold State.captureError
  repeat' first
    | with_reducible assumption | with_reducible exact .refl _ _ | with_reducible apply State.say_within
    | with_reducible apply State.wrb_within | with_reducible exact may_row (by with_reducible assumption)

/-- What `State.writeStatus` may write. -/
def State.writeStatus_touch : Nat :=
  union [State.say_touch]

theorem State.writeStatus_within {M : Nat} {s₀ s : State} (h : Within M s₀ s) (k : Covers M State.writeStatus_touch)
    (e : Nat) (status : Nat) :
    Within M s₀ (State.writeStatus s e status) := by
  simp only [State.writeStatus_touch, covers_union] at k
  obtain ⟨k0, _⟩ := k
  unfold State.writeStatus
  repeat' first | with_reducible assumption | with_reducible exact .refl _ _ | with_reducible apply State.say_within

/-- What `State.writeBlock` may write. -/
def State.writeBlock_touch : Nat :=
  union [State.writeStatus_touch, Part.free.bit, State.onHost_touch, State.say_touch, State.advanceHead_touch,
    State.captureError_touch]

theorem State.writeBlock_within {M : Nat} {s₀ s : State} (h : Within M s₀ s) (k : Covers M State.writeBlock_touch)
    (e : Nat) (w : Wing) (d : Descriptor) (m : SymbolBlock) (seq : Nat) :
    Within M s₀ (State.writeBlock s e w d m seq) := by
  simp only [State.writeBlock_touch, covers_union] at k
  obtain ⟨k0, k1, k2, k3, k4, k5, _⟩ := k
  unfold State.writeBlock
  dsimp only
  repeat' first
    | with_reducible assumption | with_reducible exact .refl _ _ | with_reducible apply State.writeStatus_within
    | with_reducible apply State.fresh_within | with_reducible apply State.onHost_within
    | with_reducible apply State.say_within | with_reducible apply State.advanceHead_within
    | with_reducible apply State.captureError_within | intro _ | split

/-- What `State.capture` may write. -/
def State.capture_touch : Nat :=
  union [Row.HST_DMA_SKIPPED_COUNT.bit, State.writeBlock_touch, State.onHost_touch, State.count_touch]

theorem State.capture_within {M : Nat} {s₀ s : State} (h : Within M s₀ s) (k : Covers M State.capture_touch)
    (e : Nat) (d : Descriptor) (m : SymbolBlock) :
    Within M s₀ (State.capture s e d m) := by
  simp only [State.capture_touch, covers_union] at k
  obtain ⟨k0, k1, k2, k3, _⟩ := k
  unfold State.capture
  dsimp only
  repeat' first
    | with_reducible assumption | with_reducible exact .refl _ _ | with_reducible apply State.writeBlock_within
    | with_reducible apply State.onHost_within | with_reducible apply State.count_within
    | with_reducible exact may_row (by with_reducible assumption) | intro _ | split

/-- What `execCaptureBlock` may write. -/
def execCaptureBlock_touch : Nat :=
  union [State.begin_touch, State.capture_touch]

theorem execCaptureBlock_within {M : Nat} (s : State) (k : Covers M execCaptureBlock_touch) (e : Fin 7)
    (d : Descriptor) (m : SymbolBlock) :
    Answered M s (execCaptureBlock e d m s) := by
  simp only [execCaptureBlock_touch, covers_union] at k
  obtain ⟨k0, k1, _⟩ := k
  unfold execCaptureBlock
  dsimp only
  repeat' first
    | apply answered_next | with_reducible assumption | with_reducible exact .refl _ _
    | with_reducible apply State.begin_within | with_reducible apply State.when_within
    | with_reducible apply State.capture_within | intro _

end Sys2Proof.Machine
end

