-- ==== Sys2Proof/Laws/WithinCorridor.lean ====
section
/-!
SUPPORT. `Within` over the operations of Machine/Corridor.lean.
-/

namespace Sys2Proof.Machine

/-- What `State.onCor` may write. -/
def State.onCor_touch : Nat :=
  union [Part.cor.bit]

theorem State.onCor_within {M : Nat} {s₀ s : State} (h : Within M s₀ s) (k : Covers M State.onCor_touch)
    (f : Corridor → Corridor) :
    Within M s₀ (State.onCor s f) := by
  simp only [State.onCor_touch, covers_union] at k
  obtain ⟨k0, _⟩ := k
  unfold State.onCor
  repeat' first | with_reducible assumption | with_reducible exact .refl _ _ | with_reducible apply within_cor

/-- What `State.heartbeats` may write. -/
def State.heartbeats_touch : Nat :=
  union [State.say_touch]

theorem State.heartbeats_within {M : Nat} {s₀ s : State} (h : Within M s₀ s) (k : Covers M State.heartbeats_touch) :
    Within M s₀ (State.heartbeats s) := by
  simp only [State.heartbeats_touch, covers_union] at k
  obtain ⟨k0, _⟩ := k
  unfold State.heartbeats
  repeat' first
    | with_reducible assumption | with_reducible exact .refl _ _ | with_reducible apply State.say_within
    | with_reducible apply State.when_within | with_reducible apply State.upTo_within | intro _

/-- What `execHeartbeatTx` may write. -/
def execHeartbeatTx_touch : Nat :=
  union [State.heartbeats_touch, State.begin_touch]

theorem execHeartbeatTx_within {M : Nat} (s : State) (k : Covers M execHeartbeatTx_touch) :
    Answered M s (execHeartbeatTx s) := by
  simp only [execHeartbeatTx_touch, covers_union] at k
  obtain ⟨k0, k1, _⟩ := k
  unfold execHeartbeatTx
  dsimp only
  repeat' first
    | apply answered_next | with_reducible assumption | with_reducible exact .refl _ _
    | with_reducible apply State.heartbeats_within | with_reducible apply State.begin_within
    | with_reducible apply State.when_within | intro _

/-- What `State.reportPort` may write. -/
def State.reportPort_touch : Nat :=
  union [State.sendCell_touch]

theorem State.reportPort_within {M : Nat} {s₀ s : State} (h : Within M s₀ s) (k : Covers M State.reportPort_touch)
    (p : Nat) (up : Bool) :
    Within M s₀ (State.reportPort s p up) := by
  simp only [State.reportPort_touch, covers_union] at k
  obtain ⟨k0, _⟩ := k
  unfold State.reportPort
  repeat' first
    | with_reducible assumption | with_reducible exact .refl _ _ | with_reducible apply State.sendCell_within
    | with_reducible apply State.when_within | with_reducible exact may_row (by with_reducible assumption) | intro _

/-- What `State.beginEnum` may write. -/
def State.beginEnum_touch : Nat :=
  union [Row.COR_STAT_ENUMERATING.bit]

theorem State.beginEnum_within {M : Nat} {s₀ s : State} (h : Within M s₀ s) (k : Covers M State.beginEnum_touch) :
    Within M s₀ (State.beginEnum s) := by
  simp only [State.beginEnum_touch, covers_union] at k
  obtain ⟨k0, _⟩ := k
  unfold State.beginEnum
  repeat' first
    | with_reducible assumption | with_reducible exact .refl _ _ | with_reducible apply State.wrb_within
    | with_reducible exact may_row (by with_reducible assumption)

/-- What `State.setCut` may write. -/
def State.setCut_touch : Nat :=
  union [Row.COR_EVT_WRAP.bit, Row.COR_PORT_STAT_WRAPPED.bit, State.evt_touch, State.onCor_touch]

theorem State.setCut_within {M : Nat} {s₀ s : State} (h : Within M s₀ s) (k : Covers M State.setCut_touch)
    (c : Option Nat) :
    Within M s₀ (State.setCut s c) := by
  simp only [State.setCut_touch, covers_union] at k
  obtain ⟨k0, k1, k2, k3, _⟩ := k
  unfold State.setCut
  dsimp only
  repeat' first
    | with_reducible assumption | with_reducible exact .refl _ _ | with_reducible apply State.evt_within
    | with_reducible apply State.onCor_within | with_reducible apply State.wrb_within
    | with_reducible exact may_row (by with_reducible assumption) | intro _ | split

/-- What `State.breakRing` may write. -/
def State.breakRing_touch : Nat :=
  union [State.setCut_touch]

theorem State.breakRing_within {M : Nat} {s₀ s : State} (h : Within M s₀ s) (k : Covers M State.breakRing_touch)
    (k' : Nat) :
    Within M s₀ (State.breakRing s k') := by
  simp only [State.breakRing_touch, covers_union] at k
  obtain ⟨k0, _⟩ := k
  unfold State.breakRing
  repeat' first
    | with_reducible assumption | with_reducible exact .refl _ _ | with_reducible apply State.setCut_within
    | with_reducible apply State.when_within | intro _

/-- What `State.portUp` may write. -/
def State.portUp_touch : Nat :=
  union [Row.COR_EVT_LINK_CHANGE.bit, Row.COR_PORT_STAT_UP.bit, State.setCut_touch, State.evt_touch,
    State.beginEnum_touch, State.reportPort_touch, State.onCor_touch]

theorem State.portUp_within {M : Nat} {s₀ s : State} (h : Within M s₀ s) (k : Covers M State.portUp_touch) (p : Nat) :
    Within M s₀ (State.portUp s p) := by
  simp only [State.portUp_touch, covers_union] at k
  obtain ⟨k0, k1, k2, k3, k4, k5, k6, _⟩ := k
  unfold State.portUp
  dsimp only
  repeat' first
    | with_reducible assumption | with_reducible exact .refl _ _ | with_reducible apply State.setCut_within
    | with_reducible apply State.evt_within | with_reducible apply State.beginEnum_within
    | with_reducible apply State.when_within | with_reducible apply State.reportPort_within
    | with_reducible apply State.onCor_within | with_reducible apply State.wrb_within
    | with_reducible exact may_row (by with_reducible assumption) | intro _

/-- What `State.beat` may write. -/
def State.beat_touch : Nat :=
  union [State.portUp_touch, State.checkCands_touch, State.onCor_touch]

theorem State.beat_within {M : Nat} {s₀ s : State} (h : Within M s₀ s) (k : Covers M State.beat_touch) (p : Nat)
    (ql : Nat) :
    Within M s₀ (State.beat s p ql) := by
  simp only [State.beat_touch, covers_union] at k
  obtain ⟨k0, k1, k2, _⟩ := k
  unfold State.beat
  dsimp only
  repeat' first
    | with_reducible assumption | with_reducible exact .refl _ _ | with_reducible apply State.portUp_within
    | with_reducible apply State.checkCands_within | with_reducible apply State.when_within
    | with_reducible apply State.onCor_within | with_reducible exact may_row (by with_reducible assumption) | intro _

/-- What `execCorHeartbeatRx` may write. -/
def execCorHeartbeatRx_touch : Nat :=
  union [State.beat_touch, State.begin_touch]

theorem execCorHeartbeatRx_within {M : Nat} (s : State) (k : Covers M execCorHeartbeatRx_touch) (port : Fin 4)
    (ql : Fin 16) :
    Answered M s (execCorHeartbeatRx port ql s) := by
  simp only [execCorHeartbeatRx_touch, covers_union] at k
  obtain ⟨k0, k1, _⟩ := k
  unfold execCorHeartbeatRx
  dsimp only
  repeat' first
    | apply answered_next | with_reducible assumption | with_reducible exact .refl _ _
    | with_reducible apply State.beat_within | with_reducible apply State.begin_within
    | with_reducible apply State.when_within | intro _

/-- What `State.portDown` may write. -/
def State.portDown_touch : Nat :=
  union [Row.COR_EVT_LINK_CHANGE.bit, Row.COR_PORT_STAT_DOWN_CNT.bit, Row.COR_PORT_STAT_UP.bit,
    State.countWrap_touch, State.checkCands_touch, State.evt_touch, State.breakRing_touch, State.reportPort_touch,
    State.onCor_touch]

theorem State.portDown_within {M : Nat} {s₀ s : State} (h : Within M s₀ s) (k : Covers M State.portDown_touch)
    (p : Nat) :
    Within M s₀ (State.portDown s p) := by
  simp only [State.portDown_touch, covers_union] at k
  obtain ⟨k0, k1, k2, k3, k4, k5, k6, k7, k8, _⟩ := k
  unfold State.portDown
  dsimp only
  repeat' first
    | with_reducible assumption | with_reducible exact .refl _ _ | with_reducible apply State.countWrap_within
    | with_reducible apply State.checkCands_within | with_reducible apply State.evt_within
    | with_reducible apply State.breakRing_within | with_reducible apply State.when_within
    | with_reducible apply State.reportPort_within | with_reducible apply State.onCor_within
    | with_reducible apply State.wrb_within | with_reducible exact may_row (by with_reducible assumption) | intro _
    | split

/-- What `execCorridorPortDown` may write. -/
def execCorridorPortDown_touch : Nat :=
  union [State.portDown_touch, State.begin_touch]

theorem execCorridorPortDown_within {M : Nat} (s : State) (k : Covers M execCorridorPortDown_touch) (port : Fin 4) :
    Answered M s (execCorridorPortDown port s) := by
  simp only [execCorridorPortDown_touch, covers_union] at k
  obtain ⟨k0, k1, _⟩ := k
  unfold execCorridorPortDown
  repeat' first
    | apply answered_next | with_reducible assumption | with_reducible exact .refl _ _
    | with_reducible apply State.portDown_within | with_reducible apply State.begin_within

/-- What `State.linkCell` may write. -/
def State.linkCell_touch : Nat :=
  union [State.setCut_touch, State.breakRing_touch, State.beginEnum_touch]

theorem State.linkCell_within {M : Nat} {s₀ s : State} (h : Within M s₀ s) (k : Covers M State.linkCell_touch)
    (a : Nat) (port : Nat) (up : Bool) (restored : Bool) :
    Within M s₀ (State.linkCell s a port up restored) := by
  simp only [State.linkCell_touch, covers_union] at k
  obtain ⟨k0, k1, k2, _⟩ := k
  unfold State.linkCell
  repeat' first
    | with_reducible assumption | with_reducible exact .refl _ _ | with_reducible apply State.setCut_within
    | with_reducible apply State.breakRing_within | with_reducible apply State.beginEnum_within
    | with_reducible apply State.when_within | intro _ | split

/-- What `execCorLinkRx` may write. -/
def execCorLinkRx_touch : Nat :=
  union [State.linkCell_touch, State.begin_touch]

theorem execCorLinkRx_within {M : Nat} (s : State) (k : Covers M execCorLinkRx_touch) (worker : Nat) (port : Fin 4)
    (up : Bool) (restored : Bool) :
    Answered M s (execCorLinkRx worker port up restored s) := by
  simp only [execCorLinkRx_touch, covers_union] at k
  obtain ⟨k0, k1, _⟩ := k
  unfold execCorLinkRx
  dsimp only
  repeat' first
    | apply answered_next | with_reducible assumption | with_reducible exact .refl _ _
    | with_reducible apply State.linkCell_within | with_reducible apply State.begin_within
    | with_reducible apply State.when_within | intro _

/-- What `State.sendEnums` may write. -/
def State.sendEnums_touch : Nat :=
  union [State.sendCell_touch]

theorem State.sendEnums_within {M : Nat} {s₀ s : State} (h : Within M s₀ s) (k : Covers M State.sendEnums_touch)
    (nodes : List (Nat × Node)) :
    Within M s₀ (State.sendEnums s nodes) := by
  simp only [State.sendEnums_touch, covers_union] at k
  obtain ⟨k0, _⟩ := k
  unfold State.sendEnums
  repeat' first
    | with_reducible assumption | with_reducible exact .refl _ _ | with_reducible apply State.sendCell_within
    | with_reducible apply within_foldl | intro _

/-- What `State.enumerated` may write. -/
def State.enumerated_touch : Nat :=
  union [Row.COR_EVT_ENUM_DONE.bit, Row.COR_PORT_STAT_RING_PORT.bit, Row.COR_PORT_STAT_WRAPPED.bit,
    Row.COR_STAT_ENUMERATING.bit, Row.COR_STAT_RING.bit, Row.COR_TOPO_DEPTH.bit, Row.COR_TOPO_WORKERS.bit,
    State.sendEnums_touch, State.evt_touch, State.onCor_touch]

theorem State.enumerated_within {M : Nat} {s₀ s : State} (h : Within M s₀ s) (k : Covers M State.enumerated_touch)
    (w : Walk) :
    Within M s₀ (State.enumerated s w) := by
  simp only [State.enumerated_touch, covers_union] at k
  obtain ⟨k0, k1, k2, k3, k4, k5, k6, k7, k8, k9, _⟩ := k
  unfold State.enumerated
  dsimp only
  repeat' first
    | with_reducible assumption | with_reducible exact .refl _ _ | with_reducible apply State.wr_within
    | with_reducible apply State.sendEnums_within | with_reducible apply State.evt_within
    | with_reducible apply State.onCor_within | with_reducible apply State.wrb_within
    | with_reducible apply State.upTo_within | with_reducible apply within_foldl
    | with_reducible exact may_row (by with_reducible assumption) | intro _

/-- What `execEnumerate` may write. -/
def execEnumerate_touch : Nat :=
  union [State.enumerated_touch, State.begin_touch]

theorem execEnumerate_within {M : Nat} (s : State) (k : Covers M execEnumerate_touch) (topo : List Neighbours) :
    Answered M s (execEnumerate topo s) := by
  simp only [execEnumerate_touch, covers_union] at k
  obtain ⟨k0, k1, _⟩ := k
  unfold execEnumerate
  dsimp only
  repeat' first
    | apply answered_next | with_reducible assumption | with_reducible exact .refl _ _
    | with_reducible apply State.enumerated_within | with_reducible apply State.begin_within
    | with_reducible apply State.when_within | intro _

/-- What `execCorEnumRx` may write. -/
def execCorEnumRx_touch : Nat :=
  union [Row.COR_STAT_ADDR.bit, Row.COR_STAT_UP_PORT.bit, Row.COR_STAT_UP_VALID.bit, State.checkCands_touch,
    State.begin_touch, State.onCor_touch]

theorem execCorEnumRx_within {M : Nat} (s : State) (k : Covers M execCorEnumRx_touch) (addr : Nat) (port : Fin 4)
    (serves : List (Option (Nat × Nat))) :
    Answered M s (execCorEnumRx addr port serves s) := by
  simp only [execCorEnumRx_touch, covers_union] at k
  obtain ⟨k0, k1, k2, k3, k4, k5, _⟩ := k
  unfold execCorEnumRx
  dsimp only
  repeat' first
    | apply answered_next | with_reducible assumption | with_reducible exact .refl _ _
    | with_reducible apply State.checkCands_within | with_reducible apply State.wr_within
    | with_reducible apply State.begin_within | with_reducible apply State.when_within
    | with_reducible apply State.onCor_within | with_reducible apply State.wrb_within
    | with_reducible exact may_row (by with_reducible assumption) | intro _

/-- What `State.expire` may write. -/
def State.expire_touch : Nat :=
  union [Row.COR_EVT_TIMEOUT.bit, Row.COR_WIN_STAT_TIMEOUTS.bit, Row.COR_WIN_STAT_WR_LOST.bit,
    State.countWrap_touch, State.say_touch, State.evt_touch]

theorem State.expire_within {M : Nat} {s₀ s : State} (h : Within M s₀ s) (k : Covers M State.expire_touch) (w : Nat)
    (addr : Nat) (isRead : Bool) (discarded : Bool) :
    Within M s₀ (State.expire s w addr isRead discarded) := by
  simp only [State.expire_touch, covers_union] at k
  obtain ⟨k0, k1, k2, k3, k4, k5, _⟩ := k
  unfold State.expire
  dsimp only
  repeat' first
    | with_reducible assumption | with_reducible exact .refl _ _ | with_reducible apply State.countWrap_within
    | with_reducible apply State.say_within | with_reducible apply State.evt_within
    | with_reducible apply State.when_within | with_reducible exact may_row (by with_reducible assumption) | intro _
    | split

/-- What `State.sendRequest` may write. -/
def State.sendRequest_touch : Nat :=
  union [State.sendCell_touch, State.onCor_touch]

theorem State.sendRequest_within {M : Nat} {s₀ s : State} (h : Within M s₀ s) (k : Covers M State.sendRequest_touch)
    (w : Nat) (addr : Nat) (data : Option Nat) :
    Within M s₀ (State.sendRequest s w addr data) := by
  simp only [State.sendRequest_touch, covers_union] at k
  obtain ⟨k0, k1, _⟩ := k
  unfold State.sendRequest
  dsimp only
  repeat' first
    | with_reducible assumption | with_reducible exact .refl _ _ | with_reducible apply State.sendCell_within
    | with_reducible apply State.when_within | with_reducible apply State.onCor_within
    | with_reducible exact may_row (by with_reducible assumption) | intro _

/-- What `State.window` may write. -/
def State.window_touch : Nat :=
  union [State.expire_touch, State.say_touch, State.sendRequest_touch]

theorem State.window_within {M : Nat} {s₀ s : State} (h : Within M s₀ s) (k : Covers M State.window_touch) (w : Nat)
    (addr : Nat) (data : Option Nat) :
    Within M s₀ (State.window s w addr data) := by
  simp only [State.window_touch, covers_union] at k
  obtain ⟨k0, k1, k2, _⟩ := k
  unfold State.window
  repeat' first
    | with_reducible assumption | with_reducible exact .refl _ _ | with_reducible apply State.expire_within
    | with_reducible apply State.say_within | with_reducible apply State.sendRequest_within
    | with_reducible apply State.when_within | with_reducible exact may_row (by with_reducible assumption) | intro _
    | split

/-- What `execWindowAccess` may write. -/
def execWindowAccess_touch : Nat :=
  union [State.window_touch, State.begin_touch]

theorem execWindowAccess_within {M : Nat} (s : State) (k : Covers M execWindowAccess_touch) (w : Fin 16)
    (addr : Nat) (data : Option Nat) :
    Answered M s (execWindowAccess w addr data s) := by
  simp only [execWindowAccess_touch, covers_union] at k
  obtain ⟨k0, k1, _⟩ := k
  unfold execWindowAccess
  repeat' first
    | apply answered_next | with_reducible assumption | with_reducible exact .refl _ _
    | with_reducible apply State.window_within | with_reducible apply State.begin_within

/-- What `State.endRequest` may write. -/
def State.endRequest_touch : Nat :=
  union [State.onCor_touch]

theorem State.endRequest_within {M : Nat} {s₀ s : State} (h : Within M s₀ s) (k : Covers M State.endRequest_touch)
    (id : Nat) :
    Within M s₀ (State.endRequest s id) := by
  simp only [State.endRequest_touch, covers_union] at k
  obtain ⟨k0, _⟩ := k
  unfold State.endRequest
  repeat' first | with_reducible assumption | with_reducible exact .refl _ _ | with_reducible apply State.onCor_within

/-- What `execCorReadCplRx` may write. -/
def execCorReadCplRx_touch : Nat :=
  union [State.say_touch, State.begin_touch, State.endRequest_touch]

theorem execCorReadCplRx_within {M : Nat} (s : State) (k : Covers M execCorReadCplRx_touch) (id : Nat) (data : Nat) :
    Answered M s (execCorReadCplRx id data s) := by
  simp only [execCorReadCplRx_touch, covers_union] at k
  obtain ⟨k0, k1, k2, _⟩ := k
  unfold execCorReadCplRx
  dsimp only
  repeat' first
    | apply answered_next | with_reducible assumption | with_reducible exact .refl _ _
    | with_reducible apply State.say_within | with_reducible apply State.begin_within
    | with_reducible apply State.when_within | with_reducible apply State.endRequest_within | intro _ | split

/-- What `execCorWriteAckRx` may write. -/
def execCorWriteAckRx_touch : Nat :=
  union [State.begin_touch, State.endRequest_touch]

theorem execCorWriteAckRx_within {M : Nat} (s : State) (k : Covers M execCorWriteAckRx_touch) (id : Nat) :
    Answered M s (execCorWriteAckRx id s) := by
  simp only [execCorWriteAckRx_touch, covers_union] at k
  obtain ⟨k0, k1, _⟩ := k
  unfold execCorWriteAckRx
  dsimp only
  repeat' first
    | apply answered_next | with_reducible assumption | with_reducible exact .refl _ _
    | with_reducible apply State.begin_within | with_reducible apply State.when_within
    | with_reducible apply State.endRequest_within | intro _

/-- What `execCorStallRx` may write. -/
def execCorStallRx_touch : Nat :=
  union [Row.COR_WIN_STAT_STALLS.bit, State.countWrap_touch, State.begin_touch, State.onCor_touch]

theorem execCorStallRx_within {M : Nat} (s : State) (k : Covers M execCorStallRx_touch) (id : Nat) :
    Answered M s (execCorStallRx id s) := by
  simp only [execCorStallRx_touch, covers_union] at k
  obtain ⟨k0, k1, k2, k3, _⟩ := k
  unfold execCorStallRx
  dsimp only
  repeat' first
    | apply answered_next | with_reducible assumption | with_reducible exact .refl _ _
    | with_reducible apply State.countWrap_within | with_reducible apply State.begin_within
    | with_reducible apply State.onCor_within | with_reducible exact may_row (by with_reducible assumption) | intro _
    | split

/-- What `execWindowDeadlineExpiry` may write. -/
def execWindowDeadlineExpiry_touch : Nat :=
  union [State.expire_touch, State.begin_touch, State.endRequest_touch]

theorem execWindowDeadlineExpiry_within {M : Nat} (s : State) (k : Covers M execWindowDeadlineExpiry_touch)
    (id : Nat) :
    Answered M s (execWindowDeadlineExpiry id s) := by
  simp only [execWindowDeadlineExpiry_touch, covers_union] at k
  obtain ⟨k0, k1, k2, _⟩ := k
  unfold execWindowDeadlineExpiry
  dsimp only
  repeat' first
    | apply answered_next | with_reducible assumption | with_reducible exact .refl _ _
    | with_reducible apply State.expire_within | with_reducible apply State.begin_within
    | with_reducible apply State.endRequest_within | intro _ | split

/-- What `State.doorbellCell` may write. -/
def State.doorbellCell_touch : Nat :=
  union [Row.COR_EVT_FWD_LOST.bit, Row.COR_EVT_FWD_UNMAPPED.bit, State.ring_touch, State.evt_touch,
    State.onCor_touch]

theorem State.doorbellCell_within {M : Nat} {s₀ s : State} (h : Within M s₀ s)
    (k : Covers M State.doorbellCell_touch) (a : Nat) (v : Nat) :
    Within M s₀ (State.doorbellCell s a v) := by
  simp only [State.doorbellCell_touch, covers_union] at k
  obtain ⟨k0, k1, k2, k3, k4, _⟩ := k
  unfold State.doorbellCell
  dsimp only
  repeat' first
    | with_reducible assumption | with_reducible exact .refl _ _ | with_reducible apply State.ring_within
    | with_reducible apply State.evt_within | with_reducible apply State.onCor_within
    | with_reducible exact may_row (by with_reducible assumption) | intro _ | split

/-- What `execCorDoorbellRx` may write. -/
def execCorDoorbellRx_touch : Nat :=
  union [State.doorbellCell_touch, State.begin_touch]

theorem execCorDoorbellRx_within {M : Nat} (s : State) (k : Covers M execCorDoorbellRx_touch) (worker : Nat)
    (v : Fin 64) :
    Answered M s (execCorDoorbellRx worker v s) := by
  simp only [execCorDoorbellRx_touch, covers_union] at k
  obtain ⟨k0, k1, _⟩ := k
  unfold execCorDoorbellRx
  dsimp only
  repeat' first
    | apply answered_next | with_reducible assumption | with_reducible exact .refl _ _
    | with_reducible apply State.doorbellCell_within | with_reducible apply State.begin_within
    | with_reducible apply State.when_within | intro _

/-- What `execCorHierRx` may write. -/
def execCorHierRx_touch : Nat :=
  union [State.targetWrite_touch, State.begin_touch]

theorem execCorHierRx_within {M : Nat} (s : State) (k : Covers M execCorHierRx_touch) (target : Fin 8) :
    Answered M s (execCorHierRx target s) := by
  simp only [execCorHierRx_touch, covers_union] at k
  obtain ⟨k0, k1, _⟩ := k
  unfold execCorHierRx
  dsimp only
  repeat' first
    | apply answered_next | with_reducible assumption | with_reducible exact .refl _ _
    | with_reducible apply State.targetWrite_within | with_reducible apply State.begin_within
    | with_reducible apply State.when_within | intro _

/-- What `State.popFwd` may write. -/
def State.popFwd_touch : Nat :=
  union [State.onCor_touch]

theorem State.popFwd_within {M : Nat} {s₀ s : State} (h : Within M s₀ s) (k : Covers M State.popFwd_touch) :
    Within M s₀ (State.popFwd s).2 := by
  simp only [State.popFwd_touch, covers_union] at k
  obtain ⟨k0, _⟩ := k
  unfold State.popFwd
  repeat' first
    | with_reducible assumption | with_reducible exact .refl _ _ | with_reducible apply State.onCor_within | intro _
    | split

/-- What `execFwdLogRead` may write. -/
def execFwdLogRead_touch : Nat :=
  union [State.popFwd_touch, State.say_touch, State.begin_touch]

theorem execFwdLogRead_within {M : Nat} (s : State) (k : Covers M execFwdLogRead_touch) (req : Req) :
    Answered M s (execFwdLogRead req s) := by
  simp only [execFwdLogRead_touch, covers_union] at k
  obtain ⟨k0, k1, k2, _⟩ := k
  unfold execFwdLogRead
  dsimp only
  repeat' first
    | apply answered_next | with_reducible assumption | with_reducible exact .refl _ _
    | with_reducible apply State.popFwd_within | with_reducible apply State.say_within
    | with_reducible apply State.via_within | with_reducible apply State.begin_within | intro _

end Sys2Proof.Machine
end

