-- ==== Sys2Proof/Laws/WithinSmbus.lean ====
section
/-!
SUPPORT. `Within` over the operations of Machine/Smbus.lean.
-/

namespace Sys2Proof.Machine

/-- What `State.smbAnswer` may write. -/
def State.smbAnswer_touch : Nat :=
  union [State.say_touch]

theorem State.smbAnswer_within {M : Nat} {s₀ s : State} (h : Within M s₀ s) (k : Covers M State.smbAnswer_touch)
    (bytes : List Nat) :
    Within M s₀ (State.smbAnswer s bytes) := by
  simp only [State.smbAnswer_touch, covers_union] at k
  obtain ⟨k0, _⟩ := k
  unfold State.smbAnswer
  repeat' first
    | with_reducible assumption | with_reducible exact .refl _ _ | with_reducible apply State.say_within
    | with_reducible apply State.when_within | intro _

/-- What `execSmbStatus` may write. -/
def execSmbStatus_touch : Nat :=
  union [State.smbAnswer_touch, State.begin_touch]

theorem execSmbStatus_within {M : Nat} (s : State) (k : Covers M execSmbStatus_touch) :
    Answered M s (execSmbStatus s) := by
  simp only [execSmbStatus_touch, covers_union] at k
  obtain ⟨k0, k1, _⟩ := k
  unfold execSmbStatus
  dsimp only
  repeat' first
    | apply answered_next | with_reducible assumption | with_reducible exact .refl _ _
    | with_reducible apply State.smbAnswer_within | with_reducible apply State.begin_within

/-- What `execSmbVin` may write. -/
def execSmbVin_touch : Nat :=
  union [State.smbAnswer_touch, State.begin_touch]

theorem execSmbVin_within {M : Nat} (s : State) (k : Covers M execSmbVin_touch) :
    Answered M s (execSmbVin s) := by
  simp only [execSmbVin_touch, covers_union] at k
  obtain ⟨k0, k1, _⟩ := k
  unfold execSmbVin
  dsimp only
  repeat' first
    | apply answered_next | with_reducible assumption | with_reducible exact .refl _ _
    | with_reducible apply State.smbAnswer_within | with_reducible apply State.begin_within

/-- What `State.noteTemp` may write. -/
def State.noteTemp_touch : Nat :=
  union [Part.sup.bit]

theorem State.noteTemp_within {M : Nat} {s₀ s : State} (h : Within M s₀ s) (k : Covers M State.noteTemp_touch)
    (ch : Nat) (v : Int) :
    Within M s₀ (State.noteTemp s ch v) := by
  simp only [State.noteTemp_touch, covers_union] at k
  obtain ⟨k0, _⟩ := k
  unfold State.noteTemp
  repeat' first | with_reducible assumption | with_reducible exact .refl _ _ | with_reducible apply within_sup

/-- What `State.noteDie` may write. -/
def State.noteDie_touch : Nat :=
  union [State.noteTemp_touch]

theorem State.noteDie_within {M : Nat} {s₀ s : State} (h : Within M s₀ s) (k : Covers M State.noteDie_touch)
    (v : Int) :
    Within M s₀ (State.noteDie s v) := by
  simp only [State.noteDie_touch, covers_union] at k
  obtain ⟨k0, _⟩ := k
  unfold State.noteDie
  repeat' first
    | with_reducible assumption | with_reducible exact .refl _ _ | with_reducible apply State.noteTemp_within
    | with_reducible apply State.upTo_within | intro _

/-- What `execSmbTcp` may write. -/
def execSmbTcp_touch : Nat :=
  union [State.noteTemp_touch, State.smbAnswer_touch, State.begin_touch]

theorem execSmbTcp_within {M : Nat} (s : State) (k : Covers M execSmbTcp_touch) (v : Int) :
    Answered M s (execSmbTcp v s) := by
  simp only [execSmbTcp_touch, covers_union] at k
  obtain ⟨k0, k1, k2, _⟩ := k
  unfold execSmbTcp
  dsimp only
  repeat' first
    | apply answered_next | with_reducible assumption | with_reducible exact .refl _ _
    | with_reducible apply State.noteTemp_within | with_reducible apply State.smbAnswer_within
    | with_reducible apply State.begin_within | with_reducible apply State.when_within | intro _

/-- What `execSmbTdie` may write. -/
def execSmbTdie_touch : Nat :=
  union [State.noteDie_touch, State.smbAnswer_touch, State.begin_touch]

theorem execSmbTdie_within {M : Nat} (s : State) (k : Covers M execSmbTdie_touch) (v : Int) :
    Answered M s (execSmbTdie v s) := by
  simp only [execSmbTdie_touch, covers_union] at k
  obtain ⟨k0, k1, k2, _⟩ := k
  unfold execSmbTdie
  dsimp only
  repeat' first
    | apply answered_next | with_reducible assumption | with_reducible exact .refl _ _
    | with_reducible apply State.noteDie_within | with_reducible apply State.smbAnswer_within
    | with_reducible apply State.begin_within | with_reducible apply State.when_within | intro _

/-- What `execSmbWake` may write. -/
def execSmbWake_touch : Nat :=
  union [State.smbAnswer_touch, State.begin_touch]

theorem execSmbWake_within {M : Nat} (s : State) (k : Covers M execSmbWake_touch) :
    Answered M s (execSmbWake s) := by
  simp only [execSmbWake_touch, covers_union] at k
  obtain ⟨k0, k1, _⟩ := k
  unfold execSmbWake
  dsimp only
  repeat' first
    | apply answered_next | with_reducible assumption | with_reducible exact .refl _ _
    | with_reducible apply State.smbAnswer_within | with_reducible apply State.begin_within

/-- What `execSmbId` may write. -/
def execSmbId_touch : Nat :=
  union [State.smbAnswer_touch, State.begin_touch]

theorem execSmbId_within {M : Nat} (s : State) (k : Covers M execSmbId_touch) :
    Answered M s (execSmbId s) := by
  simp only [execSmbId_touch, covers_union] at k
  obtain ⟨k0, k1, _⟩ := k
  unfold execSmbId
  dsimp only
  repeat' first
    | apply answered_next | with_reducible assumption | with_reducible exact .refl _ _
    | with_reducible apply State.smbAnswer_within | with_reducible apply State.begin_within

/-- What `State.smbWakeUp` may write. -/
def State.smbWakeUp_touch : Nat :=
  union [State.returnState_touch, State.wake_touch, State.refuse_touch, State.actHeld_touch, State.say_touch,
    State.recause_touch]

theorem State.smbWakeUp_within {M : Nat} {s₀ s : State} (h : Within M s₀ s) (k : Covers M State.smbWakeUp_touch) :
    Within M s₀ (State.smbWakeUp s) := by
  simp only [State.smbWakeUp_touch, covers_union] at k
  obtain ⟨k0, k1, k2, k3, k4, k5, _⟩ := k
  unfold State.smbWakeUp
  repeat' first
    | with_reducible assumption | with_reducible exact .refl _ _ | with_reducible apply State.returnState_within
    | with_reducible apply State.wake_within | with_reducible apply State.refuse_within
    | with_reducible apply State.actHeld_within | with_reducible apply State.say_within
    | with_reducible apply State.recause_within | with_reducible apply State.when_within
    | with_reducible exact may_row (by with_reducible assumption) | intro _ | split

/-- What `execSmbWakeCmd` may write. -/
def execSmbWakeCmd_touch : Nat :=
  union [State.smbWakeUp_touch, State.begin_touch]

theorem execSmbWakeCmd_within {M : Nat} (s : State) (k : Covers M execSmbWakeCmd_touch) :
    Answered M s (execSmbWakeCmd s) := by
  simp only [execSmbWakeCmd_touch, covers_union] at k
  obtain ⟨k0, k1, _⟩ := k
  unfold execSmbWakeCmd
  repeat' first
    | apply answered_next | with_reducible assumption | with_reducible exact .refl _ _
    | with_reducible apply State.smbWakeUp_within | with_reducible apply State.begin_within

/-- What `State.releaseAlert` may write. -/
def State.releaseAlert_touch : Nat :=
  union [Part.pins.bit]

theorem State.releaseAlert_within {M : Nat} {s₀ s : State} (h : Within M s₀ s)
    (k : Covers M State.releaseAlert_touch) :
    Within M s₀ (State.releaseAlert s) := by
  simp only [State.releaseAlert_touch, covers_union] at k
  obtain ⟨k0, _⟩ := k
  unfold State.releaseAlert
  repeat' first | with_reducible assumption | with_reducible exact .refl _ _ | with_reducible apply within_pins

/-- What `execSmbAlertClr` may write. -/
def execSmbAlertClr_touch : Nat :=
  union [State.releaseAlert_touch, State.begin_touch]

theorem execSmbAlertClr_within {M : Nat} (s : State) (k : Covers M execSmbAlertClr_touch) :
    Answered M s (execSmbAlertClr s) := by
  simp only [execSmbAlertClr_touch, covers_union] at k
  obtain ⟨k0, k1, _⟩ := k
  unfold execSmbAlertClr
  dsimp only
  repeat' first
    | apply answered_next | with_reducible assumption | with_reducible exact .refl _ _
    | with_reducible apply State.releaseAlert_within | with_reducible apply State.begin_within
    | with_reducible apply State.when_within | intro _

/-- What `execSmbAlertResponse` may write. -/
def execSmbAlertResponse_touch : Nat :=
  union [State.releaseAlert_touch, State.say_touch, State.begin_touch]

theorem execSmbAlertResponse_within {M : Nat} (s : State) (k : Covers M execSmbAlertResponse_touch) :
    Answered M s (execSmbAlertResponse s) := by
  simp only [execSmbAlertResponse_touch, covers_union] at k
  obtain ⟨k0, k1, k2, _⟩ := k
  unfold execSmbAlertResponse
  dsimp only
  repeat' first
    | apply answered_next | with_reducible assumption | with_reducible exact .refl _ _
    | with_reducible apply State.releaseAlert_within | with_reducible apply State.say_within
    | with_reducible apply State.begin_within | with_reducible apply State.when_within | intro _

/-- What `execSmbAtticCur` may write. -/
def execSmbAtticCur_touch : Nat :=
  union [State.onAttic_touch, State.begin_touch]

theorem execSmbAtticCur_within {M : Nat} (s : State) (k : Covers M execSmbAtticCur_touch) (index : Nat) :
    Answered M s (execSmbAtticCur index s) := by
  simp only [execSmbAtticCur_touch, covers_union] at k
  obtain ⟨k0, k1, _⟩ := k
  unfold execSmbAtticCur
  dsimp only
  repeat' first
    | apply answered_next | with_reducible assumption | with_reducible exact .refl _ _
    | with_reducible apply State.onAttic_within | with_reducible apply State.begin_within
    | with_reducible apply State.when_within | intro _

/-- What `execSmbAtticRec` may write. -/
def execSmbAtticRec_touch : Nat :=
  union [State.onAttic_touch, State.say_touch, State.begin_touch]

theorem execSmbAtticRec_within {M : Nat} (s : State) (k : Covers M execSmbAtticRec_touch) :
    Answered M s (execSmbAtticRec s) := by
  simp only [execSmbAtticRec_touch, covers_union] at k
  obtain ⟨k0, k1, k2, _⟩ := k
  unfold execSmbAtticRec
  dsimp only
  repeat' first
    | apply answered_next | with_reducible assumption | with_reducible exact .refl _ _
    | with_reducible apply State.onAttic_within | with_reducible apply State.say_within
    | with_reducible apply State.begin_within | with_reducible apply State.when_within | intro _

/-- What `execSmbUndefined` may write. -/
def execSmbUndefined_touch : Nat :=
  union [State.say_touch, State.begin_touch]

theorem execSmbUndefined_within {M : Nat} (s : State) (k : Covers M execSmbUndefined_touch) (code : Nat) :
    Answered M s (execSmbUndefined code s) := by
  simp only [execSmbUndefined_touch, covers_union] at k
  obtain ⟨k0, k1, _⟩ := k
  unfold execSmbUndefined
  dsimp only
  repeat' first
    | apply answered_next | with_reducible assumption | with_reducible exact .refl _ _
    | with_reducible apply State.say_within | with_reducible apply State.begin_within
    | with_reducible apply State.when_within | intro _

end Sys2Proof.Machine
end

