-- ==== Sys2Proof/Laws/WithinReads.lean ====
section
/-!
SUPPORT. `Within` over the operations of Machine/Reads.lean.
-/

namespace Sys2Proof.Machine

/-- What `State.fillShadow` may write. -/
def State.fillShadow_touch : Nat :=
  union [State.onHost_touch]

theorem State.fillShadow_within {M : Nat} {s₀ s : State} (h : Within M s₀ s) (k : Covers M State.fillShadow_touch)
    (req : Req) (addr : Nat) :
    Within M s₀ (State.fillShadow s req addr) := by
  simp only [State.fillShadow_touch, covers_union] at k
  obtain ⟨k0, _⟩ := k
  unfold State.fillShadow
  repeat' first
    | with_reducible assumption | with_reducible exact .refl _ _ | with_reducible apply State.onHost_within

/-- What `State.takeShadow` may write. -/
def State.takeShadow_touch : Nat :=
  union [State.fillShadow_touch]

theorem State.takeShadow_within {M : Nat} {s₀ s : State} (h : Within M s₀ s) (k : Covers M State.takeShadow_touch)
    (req : Req) (addr : Nat) :
    Within M s₀ (State.takeShadow s req addr) := by
  simp only [State.takeShadow_touch, covers_union] at k
  obtain ⟨k0, _⟩ := k
  unfold State.takeShadow
  repeat' first
    | with_reducible assumption | with_reducible exact .refl _ _ | with_reducible apply State.fillShadow_within
    | with_reducible apply State.when_within | intro _

/-- What `State.clearFrozen` may write. -/
def State.clearFrozen_touch : Nat :=
  union [State.onPmu_touch]

theorem State.clearFrozen_within {M : Nat} {s₀ s : State} (h : Within M s₀ s) (k : Covers M State.clearFrozen_touch)
    (r : Row) (kr : May M r) (ix : List Nat) :
    Within M s₀ (State.clearFrozen s r ix) := by
  simp only [State.clearFrozen_touch, covers_union] at k
  obtain ⟨k0, _⟩ := k
  unfold State.clearFrozen
  repeat' first
    | with_reducible assumption | with_reducible exact .refl _ _ | with_reducible apply State.onPmu_within
    | with_reducible exact may_row (by with_reducible assumption) | intro _ | split

/-- What `State.clearRc` may write. -/
def State.clearRc_touch : Nat :=
  union [State.clearFrozen_touch]

theorem State.clearRc_within {M : Nat} {s₀ s : State} (h : Within M s₀ s) (k : Covers M State.clearRc_touch)
    (r : Row) (kr : May M r) (ix : List Nat) :
    Within M s₀ (State.clearRc s r ix) := by
  simp only [State.clearRc_touch, covers_union] at k
  obtain ⟨k0, _⟩ := k
  unfold State.clearRc
  repeat' first
    | with_reducible assumption | with_reducible exact .refl _ _ | with_reducible apply State.clearFrozen_within
    | with_reducible apply State.wr_within | with_reducible exact may_row (by with_reducible assumption) | split

/-- What `State.clearRcAt` may write. -/
def State.clearRcAt_touch : Nat :=
  union [anyBit, State.clearRc_touch]

theorem State.clearRcAt_within {M : Nat} {s₀ s : State} (h : Within M s₀ s) (k : Covers M State.clearRcAt_touch)
    (addr : Nat) :
    Within M s₀ (State.clearRcAt s addr) := by
  simp only [State.clearRcAt_touch, covers_union] at k
  obtain ⟨k0, k1, _⟩ := k
  unfold State.clearRcAt
  repeat' first
    | with_reducible assumption | with_reducible exact .refl _ _ | with_reducible apply State.clearRc_within
    | with_reducible apply State.when_within | with_reducible apply within_foldl
    | with_reducible exact may_row (by with_reducible assumption)
    | with_reducible exact may_any (by with_reducible assumption) _
    | with_reducible exact mayAll_any (by with_reducible assumption) _ | unfold rowsAt | intro _

/-- What `State.readWord` may write. -/
def State.readWord_touch : Nat :=
  union [State.advanceCursor_touch, State.copyTag_touch, State.popFwd_touch, State.takeShadow_touch,
    State.clearRcAt_touch, State.copyRec_touch]

theorem State.readWord_within {M : Nat} {s₀ s : State} (h : Within M s₀ s) (k : Covers M State.readWord_touch)
    (req : Req) (addr : Nat) :
    Within M s₀ (State.readWord s req addr).2 := by
  simp only [State.readWord_touch, covers_union] at k
  obtain ⟨k0, k1, k2, k3, k4, k5, _⟩ := k
  unfold State.readWord
  dsimp only
  repeat' first
    | with_reducible assumption | with_reducible exact .refl _ _ | with_reducible apply State.advanceCursor_within
    | with_reducible apply State.copyTag_within | with_reducible apply State.popFwd_within
    | with_reducible apply State.takeShadow_within | with_reducible apply State.clearRcAt_within
    | with_reducible apply State.copyRec_within | split

/-- What `State.unmapped` may write. -/
def State.unmapped_touch : Nat :=
  union [Row.HST_UNMAPPED_COUNT.bit, State.count_touch]

theorem State.unmapped_within {M : Nat} {s₀ s : State} (h : Within M s₀ s) (k : Covers M State.unmapped_touch) :
    Within M s₀ (State.unmapped s) := by
  simp only [State.unmapped_touch, covers_union] at k
  obtain ⟨k0, k1, _⟩ := k
  unfold State.unmapped
  repeat' first
    | with_reducible assumption | with_reducible exact .refl _ _ | with_reducible apply State.count_within
    | with_reducible exact may_row (by with_reducible assumption)

/-- What `State.reachIsland` may write. -/
def State.reachIsland_touch : Nat :=
  union [Part.free.bit, State.native_touch, State.wakeIsland_touch]

theorem State.reachIsland_within {M : Nat} {s₀ s : State} (h : Within M s₀ s) (k : Covers M State.reachIsland_touch)
    (req : Req) (addr : Nat) :
    Within M s₀ (State.reachIsland s req addr) := by
  simp only [State.reachIsland_touch, covers_union] at k
  obtain ⟨k0, k1, k2, _⟩ := k
  unfold State.reachIsland
  dsimp only
  repeat' first
    | with_reducible assumption | with_reducible exact .refl _ _ | with_reducible apply State.fresh_within
    | with_reducible apply State.native_within | with_reducible apply State.wakeIsland_within | split

/-- What `State.regRead` may write. -/
def State.regRead_touch : Nat :=
  union [State.unmapped_touch, State.reachIsland_touch, State.readWord_touch]

theorem State.regRead_within {M : Nat} {s₀ s : State} (h : Within M s₀ s) (k : Covers M State.regRead_touch)
    (req : Req) (addr : Nat) :
    Within M s₀ (State.regRead s req addr).2 := by
  simp only [State.regRead_touch, covers_union] at k
  obtain ⟨k0, k1, k2, _⟩ := k
  unfold State.regRead
  repeat' first
    | with_reducible assumption | with_reducible exact .refl _ _ | with_reducible apply State.unmapped_within
    | with_reducible apply State.reachIsland_within | with_reducible apply State.readWord_within | split

/-- What `State.readFor` may write. -/
def State.readFor_touch : Nat :=
  union [State.regRead_touch, State.say_touch]

theorem State.readFor_within {M : Nat} {s₀ s : State} (h : Within M s₀ s) (k : Covers M State.readFor_touch)
    (req : Req) (addr : Nat) :
    Within M s₀ (State.readFor s req addr) := by
  simp only [State.readFor_touch, covers_union] at k
  obtain ⟨k0, k1, _⟩ := k
  unfold State.readFor
  dsimp only
  repeat' first
    | with_reducible assumption | with_reducible exact .refl _ _ | with_reducible apply State.regRead_within
    | with_reducible apply State.say_within | split

/-- What `execRcRead` may write. -/
def execRcRead_touch : Nat :=
  union [State.readFor_touch, State.begin_touch]

theorem execRcRead_within {M : Nat} (s : State) (k : Covers M execRcRead_touch) (req : Req) (addr : Nat) :
    Answered M s (execRcRead req addr s) := by
  simp only [execRcRead_touch, covers_union] at k
  obtain ⟨k0, k1, _⟩ := k
  unfold execRcRead
  repeat' first
    | apply answered_next | with_reducible assumption | with_reducible exact .refl _ _
    | with_reducible apply State.readFor_within | with_reducible apply State.begin_within

/-- What `execLoHalfRead` may write. -/
def execLoHalfRead_touch : Nat :=
  union [State.readFor_touch, State.begin_touch]

theorem execLoHalfRead_within {M : Nat} (s : State) (k : Covers M execLoHalfRead_touch) (req : Req) (addr : Nat) :
    Answered M s (execLoHalfRead req addr s) := by
  simp only [execLoHalfRead_touch, covers_union] at k
  obtain ⟨k0, k1, _⟩ := k
  unfold execLoHalfRead
  repeat' first
    | apply answered_next | with_reducible assumption | with_reducible exact .refl _ _
    | with_reducible apply State.readFor_within | with_reducible apply State.begin_within

/-- What `State.userViolation` may write. -/
def State.userViolation_touch : Nat :=
  union [Row.PMU_EVT_USER_VIOL.bit, Row.PMU_USER_VIOL_COUNT.bit, State.evt_touch, State.count_touch]

theorem State.userViolation_within {M : Nat} {s₀ s : State} (h : Within M s₀ s)
    (k : Covers M State.userViolation_touch) :
    Within M s₀ (State.userViolation s) := by
  simp only [State.userViolation_touch, covers_union] at k
  obtain ⟨k0, k1, k2, k3, _⟩ := k
  unfold State.userViolation
  repeat' first
    | with_reducible assumption | with_reducible exact .refl _ _ | with_reducible apply State.evt_within
    | with_reducible apply State.when_within | with_reducible apply State.count_within
    | with_reducible exact may_row (by with_reducible assumption) | intro _

/-- What `State.userRead` may write. -/
def State.userRead_touch : Nat :=
  union [State.takeShadow_touch]

theorem State.userRead_within {M : Nat} {s₀ s : State} (h : Within M s₀ s) (k : Covers M State.userRead_touch)
    (off : Nat) :
    Within M s₀ (State.userRead s off).2 := by
  simp only [State.userRead_touch, covers_union] at k
  obtain ⟨k0, _⟩ := k
  unfold State.userRead
  repeat' first
    | with_reducible assumption | with_reducible exact .refl _ _ | with_reducible apply State.takeShadow_within
    | with_reducible exact may_row (by with_reducible assumption) | split

/-- What `State.userAccess` may write. -/
def State.userAccess_touch : Nat :=
  union [State.native_touch, State.userViolation_touch, State.say_touch, State.userRead_touch]

theorem State.userAccess_within {M : Nat} {s₀ s : State} (h : Within M s₀ s) (k : Covers M State.userAccess_touch)
    (off : Nat) (isWrite : Bool) :
    Within M s₀ (State.userAccess s off isWrite) := by
  simp only [State.userAccess_touch, covers_union] at k
  obtain ⟨k0, k1, k2, k3, _⟩ := k
  unfold State.userAccess
  dsimp only
  repeat' first
    | with_reducible assumption | with_reducible exact .refl _ _ | with_reducible apply State.native_within
    | with_reducible apply State.userViolation_within | with_reducible apply State.say_within
    | with_reducible apply State.userRead_within | split

/-- What `execUserPageAccess` may write. -/
def execUserPageAccess_touch : Nat :=
  union [State.userAccess_touch, State.begin_touch]

theorem execUserPageAccess_within {M : Nat} (s : State) (k : Covers M execUserPageAccess_touch) (offset : Nat)
    (isWrite : Bool) :
    Answered M s (execUserPageAccess offset isWrite s) := by
  simp only [execUserPageAccess_touch, covers_union] at k
  obtain ⟨k0, k1, _⟩ := k
  unfold execUserPageAccess
  dsimp only
  repeat' first
    | apply answered_next | with_reducible assumption | with_reducible exact .refl _ _
    | with_reducible apply State.userAccess_within | with_reducible apply State.begin_within
    | with_reducible apply State.when_within | intro _

end Sys2Proof.Machine
end

