-- ==== Sys2Proof/Laws/WithinBlocks.lean ====
section
/-!
SUPPORT. `Within` over the operations of Machine/Blocks.lean.
-/

namespace Sys2Proof.Machine

/-- What `State.applyReg` may write. -/
def State.applyReg_touch : Nat :=
  union [anyBit]

theorem State.applyReg_within {M : Nat} {s₀ s : State} (h : Within M s₀ s) (k : Covers M State.applyReg_touch)
    (inst : Option Nat) (p : Nat × Nat) :
    Within M s₀ (State.applyReg s inst p) := by
  simp only [State.applyReg_touch, covers_union] at k
  obtain ⟨k0, _⟩ := k
  unfold State.applyReg
  repeat' first
    | with_reducible assumption | with_reducible exact .refl _ _ | with_reducible apply State.wr_within
    | with_reducible apply within_foldl | with_reducible exact may_row (by with_reducible assumption)
    | with_reducible exact may_any (by with_reducible assumption) _
    | with_reducible exact mayAll_any (by with_reducible assumption) _ | unfold sFields | intro _

/-- What `State.channelSwitch` may write. -/
def State.channelSwitch_touch : Nat :=
  union [State.unsettle_touch]

theorem State.channelSwitch_within {M : Nat} {s₀ s : State} (h : Within M s₀ s)
    (k : Covers M State.channelSwitch_touch) (old : State) :
    Within M s₀ (State.channelSwitch s old) := by
  simp only [State.channelSwitch_touch, covers_union] at k
  obtain ⟨k0, _⟩ := k
  unfold State.channelSwitch
  dsimp only
  repeat' first
    | with_reducible assumption | with_reducible exact .refl _ _ | with_reducible apply State.unsettle_within
    | with_reducible apply State.when_within | with_reducible apply State.upTo_within | intro _

/-- What `State.candCommit` may write. -/
def State.candCommit_touch : Nat :=
  union [State.candMoved_touch, State.showCand_touch, State.showQl_touch]

theorem State.candCommit_within {M : Nat} {s₀ s : State} (h : Within M s₀ s) (k : Covers M State.candCommit_touch)
    (old : State) (i : Nat) :
    Within M s₀ (State.candCommit s old i) := by
  simp only [State.candCommit_touch, covers_union] at k
  obtain ⟨k0, k1, k2, _⟩ := k
  unfold State.candCommit
  dsimp only
  repeat' first
    | with_reducible assumption | with_reducible exact .refl _ _ | with_reducible apply State.candMoved_within
    | with_reducible apply State.showCand_within | with_reducible apply State.showQl_within
    | with_reducible apply State.when_within | with_reducible exact may_row (by with_reducible assumption) | intro _

/-- What `State.schedCommit` may write. -/
def State.schedCommit_touch : Nat :=
  union [State.reguard_touch, State.tokensOnChange_touch]

theorem State.schedCommit_within {M : Nat} {s₀ s : State} (h : Within M s₀ s) (k : Covers M State.schedCommit_touch)
    (q : Nat) (off : Nat) :
    Within M s₀ (State.schedCommit s q off) := by
  simp only [State.schedCommit_touch, covers_union] at k
  obtain ⟨k0, k1, _⟩ := k
  unfold State.schedCommit
  repeat' first
    | with_reducible assumption | with_reducible exact .refl _ _ | with_reducible apply State.reguard_within
    | with_reducible apply State.tokensOnChange_within | with_reducible apply State.when_within | intro _ | split

/-- What `State.dropPfc` may write. -/
def State.dropPfc_touch : Nat :=
  union [Row.CLI_PORT_STAT_XOFF.bit, Part.pan.bit]

theorem State.dropPfc_within {M : Nat} {s₀ s : State} (h : Within M s₀ s) (k : Covers M State.dropPfc_touch)
    (p : Nat) :
    Within M s₀ (State.dropPfc s p) := by
  simp only [State.dropPfc_touch, covers_union] at k
  obtain ⟨k0, k1, _⟩ := k
  unfold State.dropPfc
  dsimp only
  repeat' first
    | with_reducible assumption | with_reducible exact .refl _ _ | with_reducible apply State.wr_within
    | with_reducible exact may_row (by with_reducible assumption) | with_reducible apply within_pan

/-- What `State.portCommit` may write. -/
def State.portCommit_touch : Nat :=
  union [State.refillPolicer_touch, State.dropPfc_touch]

theorem State.portCommit_within {M : Nat} {s₀ s : State} (h : Within M s₀ s) (k : Covers M State.portCommit_touch)
    (p : Nat) (off : Nat) :
    Within M s₀ (State.portCommit s p off) := by
  simp only [State.portCommit_touch, covers_union] at k
  obtain ⟨k0, k1, _⟩ := k
  unfold State.portCommit
  repeat' first
    | with_reducible assumption | with_reducible exact .refl _ _ | with_reducible apply State.refillPolicer_within
    | with_reducible apply State.dropPfc_within | with_reducible apply State.when_within | intro _ | split

/-- What `State.groupCommit` may write. -/
def State.groupCommit_touch : Nat :=
  union [State.condChange_touch, State.reselect_touch]

theorem State.groupCommit_within {M : Nat} {s₀ s : State} (h : Within M s₀ s) (k : Covers M State.groupCommit_touch)
    (g : Nat) :
    Within M s₀ (State.groupCommit s g) := by
  simp only [State.groupCommit_touch, covers_union] at k
  obtain ⟨k0, k1, _⟩ := k
  unfold State.groupCommit
  repeat' first
    | with_reducible assumption | with_reducible exact .refl _ _ | with_reducible apply State.condChange_within
    | with_reducible apply State.reselect_within | with_reducible apply State.when_within
    | with_reducible exact may_row (by with_reducible assumption) | intro _

/-- What `State.applied` may write. -/
def State.applied_touch : Nat :=
  union [State.candCommit_touch, State.checkCands_touch, State.schedCommit_touch, State.noteSsf_touch,
    State.bgChange_touch, State.showQl_touch, State.watch_touch, State.groupCommit_touch, State.resetCtx_touch,
    State.portCommit_touch, State.showFails_touch]

theorem State.applied_within {M : Nat} {s₀ s : State} (h : Within M s₀ s) (k : Covers M State.applied_touch)
    (old : State) (addr : Nat) :
    Within M s₀ (State.applied s old addr) := by
  simp only [State.applied_touch, covers_union] at k
  obtain ⟨k0, k1, k2, k3, k4, k5, k6, k7, k8, k9, k10, _⟩ := k
  unfold State.applied
  dsimp only
  repeat' first
    | with_reducible assumption | with_reducible exact .refl _ _ | with_reducible apply State.candCommit_within
    | with_reducible apply State.checkCands_within | with_reducible apply State.schedCommit_within
    | with_reducible apply State.noteSsf_within | with_reducible apply State.bgChange_within
    | with_reducible apply State.showQl_within | with_reducible apply State.watch_within
    | with_reducible apply State.groupCommit_within | with_reducible apply State.resetCtx_within
    | with_reducible apply State.portCommit_within | with_reducible apply State.showFails_within
    | with_reducible apply State.when_within | with_reducible exact may_row (by with_reducible assumption) | intro _
    | split

/-- What `State.seqUp` may write. -/
def State.seqUp_touch : Nat :=
  union [Row.COMMIT_SEQ.bit]

theorem State.seqUp_within {M : Nat} {s₀ s : State} (h : Within M s₀ s) (k : Covers M State.seqUp_touch) (n : Nat) :
    Within M s₀ (State.seqUp s n) := by
  simp only [State.seqUp_touch, covers_union] at k
  obtain ⟨k0, _⟩ := k
  unfold State.seqUp
  repeat' first
    | with_reducible assumption | with_reducible exact .refl _ _ | with_reducible apply State.wr_within
    | with_reducible apply State.when_within | with_reducible exact may_row (by with_reducible assumption) | intro _

/-- What `State.commitPart` may write. -/
def State.commitPart_touch : Nat :=
  union [Part.pend.bit, State.seqUp_touch, State.applyReg_touch, State.applied_touch, State.channelSwitch_touch]

theorem State.commitPart_within {M : Nat} {s₀ s : State} (h : Within M s₀ s) (k : Covers M State.commitPart_touch)
    (n : Nat) (inst : Option Nat) (due : Tab Nat) :
    Within M s₀ (State.commitPart s n inst due) := by
  simp only [State.commitPart_touch, covers_union] at k
  obtain ⟨k0, k1, k2, k3, k4, _⟩ := k
  unfold State.commitPart
  dsimp only
  repeat' first
    | with_reducible assumption | with_reducible exact .refl _ _ | with_reducible apply State.seqUp_within
    | with_reducible apply State.applyReg_within | with_reducible apply State.applied_within
    | with_reducible apply State.when_within | with_reducible apply State.channelSwitch_within
    | with_reducible apply within_foldl | intro _ | with_reducible apply within_pend

/-- What `State.applyPending` may write. -/
def State.applyPending_touch : Nat :=
  union [Row.SUP_EVT_SEQ_REFUSED.bit, Part.pend.bit, State.commitPart_touch, State.evt_touch]

theorem State.applyPending_within {M : Nat} {s₀ s : State} (h : Within M s₀ s)
    (k : Covers M State.applyPending_touch) (n : Nat) (inst : Option Nat) :
    Within M s₀ (State.applyPending s n inst) := by
  simp only [State.applyPending_touch, covers_union] at k
  obtain ⟨k0, k1, k2, k3, _⟩ := k
  unfold State.applyPending
  dsimp only
  repeat' first
    | with_reducible assumption | with_reducible exact .refl _ _ | with_reducible apply State.commitPart_within
    | with_reducible apply State.evt_within | with_reducible exact may_row (by with_reducible assumption) | split
    | with_reducible apply within_pend

/-- What `execPendingSetApply` may write. -/
def execPendingSetApply_touch : Nat :=
  union [State.applyPending_touch, State.begin_touch]

theorem execPendingSetApply_within {M : Nat} (s : State) (k : Covers M execPendingSetApply_touch) (region : Nat)
    (inst : Option Nat) :
    Answered M s (execPendingSetApply region inst s) := by
  simp only [execPendingSetApply_touch, covers_union] at k
  obtain ⟨k0, k1, _⟩ := k
  unfold execPendingSetApply
  dsimp only
  repeat' first
    | apply answered_next | with_reducible assumption | with_reducible exact .refl _ _
    | with_reducible apply State.applyPending_within | with_reducible apply State.begin_within
    | with_reducible apply State.when_within | intro _

/-- What `State.commit` may write. -/
def State.commit_touch : Nat :=
  union [Part.pend.bit, Part.staged.bit, State.applyPending_touch, State.onSup_touch]

theorem State.commit_within {M : Nat} {s₀ s : State} (h : Within M s₀ s) (k : Covers M State.commit_touch) (n : Nat) :
    Within M s₀ (State.commit s n) := by
  simp only [State.commit_touch, covers_union] at k
  obtain ⟨k0, k1, k2, k3, _⟩ := k
  unfold State.commit
  dsimp only
  repeat' first
    | with_reducible assumption | with_reducible exact .refl _ _ | with_reducible apply State.applyPending_within
    | with_reducible apply State.onSup_within | with_reducible apply State.when_within
    | with_reducible apply within_foldl | intro _ | with_reducible apply within_pend
    | with_reducible apply within_staged | with_reducible apply within_mk
    | exact Or.inr (by with_reducible assumption) | with_reducible exact Or.inl rfl

/-- What `execApply` may write. -/
def execApply_touch : Nat :=
  union [State.begin_touch, State.commit_touch]

theorem execApply_within {M : Nat} (s : State) (k : Covers M execApply_touch) (req : Req) (region : Nat) :
    Answered M s (execApply req region s) := by
  simp only [execApply_touch, covers_union] at k
  obtain ⟨k0, k1, _⟩ := k
  unfold execApply
  repeat' first
    | apply answered_next | with_reducible assumption | with_reducible exact .refl _ _
    | with_reducible apply State.via_within | with_reducible apply State.begin_within
    | with_reducible apply State.commit_within | intro _

/-- What `State.discardSet` may write. -/
def State.discardSet_touch : Nat :=
  union [Part.staged.bit]

theorem State.discardSet_within {M : Nat} {s₀ s : State} (h : Within M s₀ s) (k : Covers M State.discardSet_touch)
    (n : Nat) :
    Within M s₀ (State.discardSet s n) := by
  simp only [State.discardSet_touch, covers_union] at k
  obtain ⟨k0, _⟩ := k
  unfold State.discardSet
  repeat' first | with_reducible assumption | with_reducible exact .refl _ _ | with_reducible apply within_staged

/-- What `State.commitWrite` may write. -/
def State.commitWrite_touch : Nat :=
  union [State.discardSet_touch, State.commit_touch]

theorem State.commitWrite_within {M : Nat} {s₀ s : State} (h : Within M s₀ s) (k : Covers M State.commitWrite_touch)
    (n : Nat) (apply : Bool) (discard : Bool) :
    Within M s₀ (State.commitWrite s n apply discard) := by
  simp only [State.commitWrite_touch, covers_union] at k
  obtain ⟨k0, k1, _⟩ := k
  unfold State.commitWrite
  repeat' first
    | with_reducible assumption | with_reducible exact .refl _ _ | with_reducible apply State.discardSet_within
    | with_reducible apply State.when_within | with_reducible apply State.commit_within | intro _ | split

/-- What `execDiscard` may write. -/
def execDiscard_touch : Nat :=
  union [State.commitWrite_touch, State.begin_touch]

theorem execDiscard_within {M : Nat} (s : State) (k : Covers M execDiscard_touch) (req : Req) (region : Nat)
    (alsoApply : Bool) :
    Answered M s (execDiscard req region alsoApply s) := by
  simp only [execDiscard_touch, covers_union] at k
  obtain ⟨k0, k1, _⟩ := k
  unfold execDiscard
  repeat' first
    | apply answered_next | with_reducible assumption | with_reducible exact .refl _ _
    | with_reducible apply State.commitWrite_within | with_reducible apply State.via_within
    | with_reducible apply State.begin_within | intro _

/-- What `State.reject` may write. -/
def State.reject_touch : Nat :=
  union [Row.GLB_WR_REJECT_COUNT.bit, Row.GLB_WR_REJECT_VALID.bit, Row.GLB_WR_REJECT_WORD_ADDR.bit,
    State.count_touch, State.emit_touch]

theorem State.reject_within {M : Nat} {s₀ s : State} (h : Within M s₀ s) (k : Covers M State.reject_touch)
    (addr : Nat) :
    Within M s₀ (State.reject s addr) := by
  simp only [State.reject_touch, covers_union] at k
  obtain ⟨k0, k1, k2, k3, k4, _⟩ := k
  unfold State.reject
  dsimp only
  repeat' first
    | with_reducible assumption | with_reducible exact .refl _ _ | with_reducible apply State.wr_within
    | with_reducible apply State.count_within | with_reducible apply State.wrb_within
    | with_reducible apply State.emit_within | with_reducible exact may_row (by with_reducible assumption) | split

/-- What `State.clearReject` may write. -/
def State.clearReject_touch : Nat :=
  union [Row.GLB_WR_REJECT_COUNT.bit, Row.GLB_WR_REJECT_VALID.bit, Row.GLB_WR_REJECT_WORD_ADDR.bit]

theorem State.clearReject_within {M : Nat} {s₀ s : State} (h : Within M s₀ s) (k : Covers M State.clearReject_touch) :
    Within M s₀ (State.clearReject s) := by
  simp only [State.clearReject_touch, covers_union] at k
  obtain ⟨k0, k1, k2, _⟩ := k
  unfold State.clearReject
  repeat' first
    | with_reducible assumption | with_reducible exact .refl _ _ | with_reducible apply State.wr_within
    | with_reducible apply State.wrb_within | with_reducible exact may_row (by with_reducible assumption)

/-- What `execWrRejectClear` may write. -/
def execWrRejectClear_touch : Nat :=
  union [State.begin_touch, State.clearReject_touch]

theorem execWrRejectClear_within {M : Nat} (s : State) (k : Covers M execWrRejectClear_touch) (req : Req) :
    Answered M s (execWrRejectClear req s) := by
  simp only [execWrRejectClear_touch, covers_union] at k
  obtain ⟨k0, k1, _⟩ := k
  unfold execWrRejectClear
  repeat' first
    | apply answered_next | with_reducible assumption | with_reducible exact .refl _ _
    | with_reducible apply State.via_within | with_reducible apply State.begin_within
    | with_reducible apply State.clearReject_within | intro _

/-- What `State.groupsSee` may write. -/
def State.groupsSee_touch : Nat :=
  union [State.condChange_touch]

theorem State.groupsSee_within {M : Nat} {s₀ s : State} (h : Within M s₀ s) (k : Covers M State.groupsSee_touch) :
    Within M s₀ (State.groupsSee s) := by
  simp only [State.groupsSee_touch, covers_union] at k
  obtain ⟨k0, _⟩ := k
  unfold State.groupsSee
  repeat' first
    | with_reducible assumption | with_reducible exact .refl _ _ | with_reducible apply State.condChange_within
    | with_reducible apply State.when_within | with_reducible apply State.upTo_within
    | with_reducible exact may_row (by with_reducible assumption) | intro _

/-- What `State.stopBlock` may write. -/
def State.stopBlock_touch : Nat :=
  union [Row.GLB_BLK_CTL_STOP.bit, Row.GLB_BLK_CTL_STOPPING.bit, State.optEval_touch]

theorem State.stopBlock_within {M : Nat} {s₀ s : State} (h : Within M s₀ s) (k : Covers M State.stopBlock_touch)
    (n : Nat) :
    Within M s₀ (State.stopBlock s n) := by
  simp only [State.stopBlock_touch, covers_union] at k
  obtain ⟨k0, k1, k2, _⟩ := k
  unfold State.stopBlock
  dsimp only
  repeat' first
    | with_reducible assumption | with_reducible exact .refl _ _ | with_reducible apply State.optEval_within
    | with_reducible apply State.when_within | with_reducible apply State.wrb_within
    | with_reducible exact may_row (by with_reducible assumption) | intro _ | split

/-- What `execBlockStop` may write. -/
def execBlockStop_touch : Nat :=
  union [State.begin_touch, State.stopBlock_touch]

theorem execBlockStop_within {M : Nat} (s : State) (k : Covers M execBlockStop_touch) (req : Req) (n : Fin 8) :
    Answered M s (execBlockStop req n s) := by
  simp only [execBlockStop_touch, covers_union] at k
  obtain ⟨k0, k1, _⟩ := k
  unfold execBlockStop
  repeat' first
    | apply answered_next | with_reducible assumption | with_reducible exact .refl _ _
    | with_reducible apply State.via_within | with_reducible apply State.begin_within
    | with_reducible apply State.stopBlock_within | intro _

/-- What `State.restartBlock` may write. -/
def State.restartBlock_touch : Nat :=
  union [State.groupsSee_touch, State.groupCommit_touch, State.resetContexts_touch]

theorem State.restartBlock_within {M : Nat} {s₀ s : State} (h : Within M s₀ s)
    (k : Covers M State.restartBlock_touch) (n : Nat) :
    Within M s₀ (State.restartBlock s n) := by
  simp only [State.restartBlock_touch, covers_union] at k
  obtain ⟨k0, k1, k2, _⟩ := k
  unfold State.restartBlock
  repeat' first
    | with_reducible assumption | with_reducible exact .refl _ _ | with_reducible apply State.groupsSee_within
    | with_reducible apply State.groupCommit_within | with_reducible apply State.when_within
    | with_reducible apply State.resetContexts_within | with_reducible apply State.upTo_within | intro _ | split

/-- What `State.runBlock` may write. -/
def State.runBlock_touch : Nat :=
  union [Row.GLB_BLK_CTL_STOP.bit, Row.GLB_BLK_CTL_STOPPED.bit, Row.GLB_BLK_CTL_STOPPING.bit,
    State.restartBlock_touch, State.optEval_touch]

theorem State.runBlock_within {M : Nat} {s₀ s : State} (h : Within M s₀ s) (k : Covers M State.runBlock_touch)
    (n : Nat) :
    Within M s₀ (State.runBlock s n) := by
  simp only [State.runBlock_touch, covers_union] at k
  obtain ⟨k0, k1, k2, k3, k4, _⟩ := k
  unfold State.runBlock
  dsimp only
  repeat' first
    | with_reducible assumption | with_reducible exact .refl _ _ | with_reducible apply State.restartBlock_within
    | with_reducible apply State.optEval_within | with_reducible apply State.when_within
    | with_reducible apply State.wrb_within | with_reducible exact may_row (by with_reducible assumption) | intro _

/-- What `execBlockRun` may write. -/
def execBlockRun_touch : Nat :=
  union [State.runBlock_touch, State.begin_touch]

theorem execBlockRun_within {M : Nat} (s : State) (k : Covers M execBlockRun_touch) (req : Req) (n : Fin 8) :
    Answered M s (execBlockRun req n s) := by
  simp only [execBlockRun_touch, covers_union] at k
  obtain ⟨k0, k1, _⟩ := k
  unfold execBlockRun
  repeat' first
    | apply answered_next | with_reducible assumption | with_reducible exact .refl _ _
    | with_reducible apply State.runBlock_within | with_reducible apply State.via_within
    | with_reducible apply State.begin_within | intro _

/-- What `State.haltBlock` may write. -/
def State.haltBlock_touch : Nat :=
  union [State.icmSearch_touch, State.icmAbort_touch, State.groupsSee_touch, State.toWait_touch, State.sp2Off_touch]

theorem State.haltBlock_within {M : Nat} {s₀ s : State} (h : Within M s₀ s) (k : Covers M State.haltBlock_touch)
    (n : Nat) :
    Within M s₀ (State.haltBlock s n) := by
  simp only [State.haltBlock_touch, covers_union] at k
  obtain ⟨k0, k1, k2, k3, k4, _⟩ := k
  unfold State.haltBlock
  repeat' first
    | with_reducible assumption | with_reducible exact .refl _ _ | with_reducible apply State.icmSearch_within
    | with_reducible apply State.icmAbort_within | with_reducible apply State.groupsSee_within
    | with_reducible apply State.toWait_within | with_reducible apply State.sp2Off_within
    | with_reducible apply State.when_within | intro _ | split

/-- What `State.releaseBlock` may write. -/
def State.releaseBlock_touch : Nat :=
  union [Part.inuse.bit]

theorem State.releaseBlock_within {M : Nat} {s₀ s : State} (h : Within M s₀ s)
    (k : Covers M State.releaseBlock_touch) (n : Nat) :
    Within M s₀ (State.releaseBlock s n) := by
  simp only [State.releaseBlock_touch, covers_union] at k
  obtain ⟨k0, _⟩ := k
  unfold State.releaseBlock
  repeat' first
    | with_reducible assumption | with_reducible exact .refl _ _ | with_reducible apply State.releaseUse_within
    | with_reducible apply within_foldl | intro _

/-- What `State.stopDone` may write. -/
def State.stopDone_touch : Nat :=
  union [Row.GLB_BLK_CTL_STOPPED.bit, Row.GLB_BLK_CTL_STOPPING.bit, State.applyPending_touch,
    State.releaseBlock_touch, State.haltBlock_touch]

theorem State.stopDone_within {M : Nat} {s₀ s : State} (h : Within M s₀ s) (k : Covers M State.stopDone_touch)
    (n : Nat) :
    Within M s₀ (State.stopDone s n) := by
  simp only [State.stopDone_touch, covers_union] at k
  obtain ⟨k0, k1, k2, k3, k4, _⟩ := k
  unfold State.stopDone
  dsimp only
  repeat' first
    | with_reducible assumption | with_reducible exact .refl _ _ | with_reducible apply State.applyPending_within
    | with_reducible apply State.releaseBlock_within | with_reducible apply State.wrb_within
    | with_reducible apply State.haltBlock_within | with_reducible apply within_foldl
    | with_reducible exact may_row (by with_reducible assumption) | intro _

/-- What `execBlockStopComplete` may write. -/
def execBlockStopComplete_touch : Nat :=
  union [State.stopDone_touch, State.begin_touch]

theorem execBlockStopComplete_within {M : Nat} (s : State) (k : Covers M execBlockStopComplete_touch) (n : Fin 8) :
    Answered M s (execBlockStopComplete n s) := by
  simp only [execBlockStopComplete_touch, covers_union] at k
  obtain ⟨k0, k1, _⟩ := k
  unfold execBlockStopComplete
  dsimp only
  repeat' first
    | apply answered_next | with_reducible assumption | with_reducible exact .refl _ _
    | with_reducible apply State.stopDone_within | with_reducible apply State.begin_within
    | with_reducible apply State.when_within | intro _

end Sys2Proof.Machine
end

