-- ==== Sys2Proof/Laws/WithinWrites.lean ====
section
/-!
SUPPORT. `Within` over the operations of Machine/Writes.lean.
-/

namespace Sys2Proof.Machine

/-- What `State.writeLive` may write. -/
def State.writeLive_touch : Nat :=
  union [Part.inuse.bit]

theorem State.writeLive_within {M : Nat} {s₀ s : State} (h : Within M s₀ s) (k : Covers M State.writeLive_touch)
    (r : Row) (kr : May M r) (ix : List Nat) (v : Nat) :
    Within M s₀ (State.writeLive s r ix v) := by
  simp only [State.writeLive_touch, covers_union] at k
  obtain ⟨k0, _⟩ := k
  unfold State.writeLive
  repeat' first
    | with_reducible assumption | with_reducible exact .refl _ _ | with_reducible apply State.wr_within
    | with_reducible apply State.keepUse_within | with_reducible apply State.releaseOne_within
    | with_reducible apply State.when_within | with_reducible exact may_row (by with_reducible assumption) | intro _
    | split

/-- What `State.writeField` may write. -/
def State.writeField_touch : Nat :=
  union [anyBit, State.writeLive_touch]

theorem State.writeField_within {M : Nat} {s₀ s : State} (h : Within M s₀ s) (k : Covers M State.writeField_touch)
    (writable : Bool) (word : Nat) (e : Row × List Nat) :
    Within M s₀ (State.writeField s writable word e) := by
  simp only [State.writeField_touch, covers_union] at k
  obtain ⟨k0, k1, _⟩ := k
  unfold State.writeField
  dsimp only
  repeat' first
    | with_reducible assumption | with_reducible exact .refl _ _ | with_reducible apply State.wr_within
    | with_reducible apply State.writeLive_within | with_reducible apply State.when_within
    | with_reducible exact may_row (by with_reducible assumption)
    | with_reducible exact may_any (by with_reducible assumption) _
    | with_reducible exact mayAll_any (by with_reducible assumption) _ | intro _ | split

/-- What `State.stageWrite` may write. -/
def State.stageWrite_touch : Nat :=
  union [Part.staged.bit]

theorem State.stageWrite_within {M : Nat} {s₀ s : State} (h : Within M s₀ s) (k : Covers M State.stageWrite_touch)
    (addr : Nat) (word : Nat) (fs : List (Row × List Nat)) :
    Within M s₀ (State.stageWrite s addr word fs) := by
  simp only [State.stageWrite_touch, covers_union] at k
  obtain ⟨k0, _⟩ := k
  unfold State.stageWrite
  dsimp only
  repeat' first
    | with_reducible assumption | with_reducible exact .refl _ _ | intro _ | split
    | with_reducible apply within_staged

/-- What `State.hierWrite` may write. -/
def State.hierWrite_touch : Nat :=
  union [State.hierGo_touch]

theorem State.hierWrite_within {M : Nat} {s₀ s : State} (h : Within M s₀ s) (k : Covers M State.hierWrite_touch) :
    Within M s₀ (State.hierWrite s) := by
  simp only [State.hierWrite_touch, covers_union] at k
  obtain ⟨k0, _⟩ := k
  unfold State.hierWrite
  repeat' first
    | with_reducible assumption | with_reducible exact .refl _ _ | with_reducible apply State.hierGo_within
    | with_reducible apply State.when_within | with_reducible exact may_row (by with_reducible assumption) | intro _

/-- What `State.stateCtl` may write. -/
def State.stateCtl_touch : Nat :=
  union [Row.PWR_STATE_CTL_WING_A.bit, Row.PWR_STATE_CTL_WING_B.bit, State.targetWrite_touch, State.wingWrite_touch]

theorem State.stateCtl_within {M : Nat} {s₀ s : State} (h : Within M s₀ s) (k : Covers M State.stateCtl_touch)
    (word : Nat) :
    Within M s₀ (State.stateCtl s word) := by
  simp only [State.stateCtl_touch, covers_union] at k
  obtain ⟨k0, k1, k2, k3, _⟩ := k
  unfold State.stateCtl
  dsimp only
  repeat' first
    | with_reducible assumption | with_reducible exact .refl _ _ | with_reducible apply State.targetWrite_within
    | with_reducible apply State.wingWrite_within | with_reducible apply State.wr_within
    | with_reducible exact may_row (by with_reducible assumption)

/-- What `State.pwrAct` may write. -/
def State.pwrAct_touch : Nat :=
  union [State.hierWrite_touch, State.stateCtl_touch]

theorem State.pwrAct_within {M : Nat} {s₀ s : State} (h : Within M s₀ s) (k : Covers M State.pwrAct_touch)
    (off : Nat) (word : Nat) :
    Within M s₀ (State.pwrAct s off word) := by
  simp only [State.pwrAct_touch, covers_union] at k
  obtain ⟨k0, k1, _⟩ := k
  unfold State.pwrAct
  repeat' first
    | with_reducible assumption | with_reducible exact .refl _ _ | with_reducible apply State.hierWrite_within
    | with_reducible apply State.when_within | with_reducible apply State.stateCtl_within | intro _ | split

/-- What `State.refAct` may write. -/
def State.refAct_touch : Nat :=
  union [State.onDpll_touch, State.relearn_touch]

theorem State.refAct_within {M : Nat} {s₀ s : State} (h : Within M s₀ s) (k : Covers M State.refAct_touch)
    (off : Nat) (word : Nat) :
    Within M s₀ (State.refAct s off word) := by
  simp only [State.refAct_touch, covers_union] at k
  obtain ⟨k0, k1, _⟩ := k
  unfold State.refAct
  repeat' first
    | with_reducible assumption | with_reducible exact .refl _ _ | with_reducible apply State.onDpll_within
    | with_reducible apply State.relearn_within | with_reducible apply State.when_within | intro _ | split

/-- What `State.pmuCtl` may write. -/
def State.pmuCtl_touch : Nat :=
  union [State.askClear_touch, State.onPmu_touch]

theorem State.pmuCtl_within {M : Nat} {s₀ s : State} (h : Within M s₀ s) (k : Covers M State.pmuCtl_touch)
    (word : Nat) :
    Within M s₀ (State.pmuCtl s word) := by
  simp only [State.pmuCtl_touch, covers_union] at k
  obtain ⟨k0, k1, _⟩ := k
  unfold State.pmuCtl
  dsimp only
  repeat' first
    | with_reducible assumption | with_reducible exact .refl _ _ | with_reducible apply State.askClear_within
    | with_reducible apply State.onPmu_within | with_reducible apply State.when_within | intro _ | split

/-- What `State.showBadSource` may write. -/
def State.showBadSource_touch : Nat :=
  union [Row.PMU_CNT_CFG_BAD_SRC.bit]

theorem State.showBadSource_within {M : Nat} {s₀ s : State} (h : Within M s₀ s)
    (k : Covers M State.showBadSource_touch) (n : Nat) :
    Within M s₀ (State.showBadSource s n) := by
  simp only [State.showBadSource_touch, covers_union] at k
  obtain ⟨k0, _⟩ := k
  unfold State.showBadSource
  repeat' first
    | with_reducible assumption | with_reducible exact .refl _ _ | with_reducible apply State.wrb_within
    | with_reducible exact may_row (by with_reducible assumption)

/-- What `State.pmuAct` may write. -/
def State.pmuAct_touch : Nat :=
  union [State.popTag_touch, State.showBadSource_touch, State.askHistClear_touch, State.pmuCtl_touch]

theorem State.pmuAct_within {M : Nat} {s₀ s : State} (h : Within M s₀ s) (k : Covers M State.pmuAct_touch)
    (off : Nat) (word : Nat) :
    Within M s₀ (State.pmuAct s off word) := by
  simp only [State.pmuAct_touch, covers_union] at k
  obtain ⟨k0, k1, k2, k3, _⟩ := k
  unfold State.pmuAct
  repeat' first
    | with_reducible assumption | with_reducible exact .refl _ _ | with_reducible apply State.popTag_within
    | with_reducible apply State.showBadSource_within | with_reducible apply State.askHistClear_within
    | with_reducible apply State.when_within | with_reducible apply State.pmuCtl_within | intro _ | split

/-- What `State.keyCtl` may write. -/
def State.keyCtl_touch : Nat :=
  union [State.keyErase_touch, State.loadKek_touch, Part.free.bit, State.keyLoad_touch, State.report_touch,
    State.attest_touch]

theorem State.keyCtl_within {M : Nat} {s₀ s : State} (h : Within M s₀ s) (k : Covers M State.keyCtl_touch)
    (word : Nat) :
    Within M s₀ (State.keyCtl s word) := by
  simp only [State.keyCtl_touch, covers_union] at k
  obtain ⟨k0, k1, k2, k3, k4, k5, _⟩ := k
  unfold State.keyCtl
  dsimp only
  repeat' first
    | with_reducible assumption | with_reducible exact .refl _ _ | with_reducible apply State.keyErase_within
    | with_reducible apply State.loadKek_within | with_reducible apply State.fresh_within
    | with_reducible apply State.keyLoad_within | with_reducible apply State.report_within
    | with_reducible apply State.attest_within | split

/-- What `State.imgWrite` may write. -/
def State.imgWrite_touch : Nat :=
  union [Part.free.bit, State.imgCtl_touch]

theorem State.imgWrite_within {M : Nat} {s₀ s : State} (h : Within M s₀ s) (k : Covers M State.imgWrite_touch)
    (op : Nat) :
    Within M s₀ (State.imgWrite s op) := by
  simp only [State.imgWrite_touch, covers_union] at k
  obtain ⟨k0, k1, _⟩ := k
  unfold State.imgWrite
  dsimp only
  repeat' first
    | with_reducible assumption | with_reducible exact .refl _ _ | with_reducible apply State.fresh_within
    | with_reducible apply State.imgCtl_within | split

/-- What `State.secAct` may write. -/
def State.secAct_touch : Nat :=
  union [State.keyCtl_touch, State.imgWrite_touch]

theorem State.secAct_within {M : Nat} {s₀ s : State} (h : Within M s₀ s) (k : Covers M State.secAct_touch)
    (off : Nat) (word : Nat) :
    Within M s₀ (State.secAct s off word) := by
  simp only [State.secAct_touch, covers_union] at k
  obtain ⟨k0, k1, _⟩ := k
  unfold State.secAct
  repeat' first
    | with_reducible assumption | with_reducible exact .refl _ _ | with_reducible apply State.keyCtl_within
    | with_reducible apply State.imgWrite_within | split

/-- What `State.pgWrite` may write. -/
def State.pgWrite_touch : Nat :=
  union [Row.HAL_PG_STAT_CMD_HELD.bit, Row.HAL_PG_STAT_WTR_RUN.bit, State.pgCommand_touch, State.reselect_touch]

theorem State.pgWrite_within {M : Nat} {s₀ s : State} (h : Within M s₀ s) (k : Covers M State.pgWrite_touch)
    (g : Nat) (cmd : Nat) :
    Within M s₀ (State.pgWrite s g cmd) := by
  simp only [State.pgWrite_touch, covers_union] at k
  obtain ⟨k0, k1, k2, k3, _⟩ := k
  unfold State.pgWrite
  repeat' first
    | with_reducible assumption | with_reducible exact .refl _ _ | with_reducible apply State.pgCommand_within
    | with_reducible apply State.wr_within | with_reducible apply State.reselect_within
    | with_reducible apply State.wrb_within | with_reducible exact may_row (by with_reducible assumption) | split

/-- What `State.halAct` may write. -/
def State.halAct_touch : Nat :=
  union [State.pgWrite_touch]

theorem State.halAct_within {M : Nat} {s₀ s : State} (h : Within M s₀ s) (k : Covers M State.halAct_touch)
    (off : Nat) (word : Nat) :
    Within M s₀ (State.halAct s off word) := by
  simp only [State.halAct_touch, covers_union] at k
  obtain ⟨k0, _⟩ := k
  unfold State.halAct
  repeat' first
    | with_reducible assumption | with_reducible exact .refl _ _ | with_reducible apply State.pgWrite_within
    | with_reducible apply State.when_within | intro _

/-- What `State.baseWrite` may write. -/
def State.baseWrite_touch : Nat :=
  union [State.gateTiming_touch]

theorem State.baseWrite_within {M : Nat} {s₀ s : State} (h : Within M s₀ s) (k : Covers M State.baseWrite_touch)
    (ch : Nat) (word : Nat) (high : Bool) :
    Within M s₀ (State.baseWrite s ch word high) := by
  simp only [State.baseWrite_touch, covers_union] at k
  obtain ⟨k0, _⟩ := k
  unfold State.baseWrite
  dsimp only
  repeat' first
    | with_reducible assumption | with_reducible exact .refl _ _ | with_reducible apply State.gateTiming_within

/-- What `State.schAct` may write. -/
def State.schAct_touch : Nat :=
  union [State.activateGates_touch, State.storeEntry_touch, State.gateTiming_touch, State.baseWrite_touch]

theorem State.schAct_within {M : Nat} {s₀ s : State} (h : Within M s₀ s) (k : Covers M State.schAct_touch)
    (off : Nat) (word : Nat) :
    Within M s₀ (State.schAct s off word) := by
  simp only [State.schAct_touch, covers_union] at k
  obtain ⟨k0, k1, k2, k3, _⟩ := k
  unfold State.schAct
  dsimp only
  repeat' first
    | with_reducible assumption | with_reducible exact .refl _ _ | with_reducible apply State.activateGates_within
    | with_reducible apply State.storeEntry_within | with_reducible apply State.gateTiming_within
    | with_reducible apply State.baseWrite_within | with_reducible apply State.when_within | intro _ | split

/-- What `State.portEnable` may write. -/
def State.portEnable_touch : Nat :=
  union [State.flushInst_touch, State.enableInst_touch]

theorem State.portEnable_within {M : Nat} {s₀ s : State} (h : Within M s₀ s) (k : Covers M State.portEnable_touch)
    (p : Nat) :
    Within M s₀ (State.portEnable s p) := by
  simp only [State.portEnable_touch, covers_union] at k
  obtain ⟨k0, k1, _⟩ := k
  unfold State.portEnable
  repeat' first
    | with_reducible assumption | with_reducible exact .refl _ _ | with_reducible apply State.flushInst_within
    | with_reducible apply State.enableInst_within | with_reducible exact may_row (by with_reducible assumption)
    | split

/-- What `State.cliAct` may write. -/
def State.cliAct_touch : Nat :=
  union [State.portEnable_touch, State.refreshLink_touch]

theorem State.cliAct_within {M : Nat} {s₀ s : State} (h : Within M s₀ s) (k : Covers M State.cliAct_touch)
    (old : State) (off : Nat) :
    Within M s₀ (State.cliAct s old off) := by
  simp only [State.cliAct_touch, covers_union] at k
  obtain ⟨k0, k1, _⟩ := k
  unfold State.cliAct
  dsimp only
  repeat' first
    | with_reducible assumption | with_reducible exact .refl _ _ | with_reducible apply State.portEnable_within
    | with_reducible apply State.when_within | with_reducible apply State.refreshLink_within
    | with_reducible exact may_row (by with_reducible assumption) | intro _

/-- What `State.laneAct` may write. -/
def State.laneAct_touch : Nat :=
  union [State.applyLane_touch, State.restartLane_touch]

theorem State.laneAct_within {M : Nat} {s₀ s : State} (h : Within M s₀ s) (k : Covers M State.laneAct_touch)
    (cor : Bool) (off : Nat) (word : Nat) :
    Within M s₀ (State.laneAct s cor off word) := by
  simp only [State.laneAct_touch, covers_union] at k
  obtain ⟨k0, k1, _⟩ := k
  unfold State.laneAct
  repeat' first
    | with_reducible assumption | with_reducible exact .refl _ _ | with_reducible apply State.applyLane_within
    | with_reducible apply State.restartLane_within | with_reducible apply State.when_within | intro _

/-- What `State.corAct` may write. -/
def State.corAct_touch : Nat :=
  union [State.beginEnum_touch, State.laneAct_touch]

theorem State.corAct_within {M : Nat} {s₀ s : State} (h : Within M s₀ s) (k : Covers M State.corAct_touch)
    (off : Nat) (word : Nat) :
    Within M s₀ (State.corAct s off word) := by
  simp only [State.corAct_touch, covers_union] at k
  obtain ⟨k0, k1, _⟩ := k
  unfold State.corAct
  repeat' first
    | with_reducible assumption | with_reducible exact .refl _ _ | with_reducible apply State.beginEnum_within
    | with_reducible apply State.laneAct_within | with_reducible apply State.when_within | intro _ | split

/-- What `State.supAct` may write. -/
def State.supAct_touch : Nat :=
  union [State.trigger_touch, State.decReset_touch, State.startCal_touch]

theorem State.supAct_within {M : Nat} {s₀ s : State} (h : Within M s₀ s) (k : Covers M State.supAct_touch)
    (off : Nat) (word : Nat) :
    Within M s₀ (State.supAct s off word) := by
  simp only [State.supAct_touch, covers_union] at k
  obtain ⟨k0, k1, k2, _⟩ := k
  unfold State.supAct
  repeat' first
    | with_reducible assumption | with_reducible exact .refl _ _ | with_reducible apply State.trigger_within
    | with_reducible apply State.decReset_within | with_reducible apply State.startCal_within
    | with_reducible apply State.when_within | intro _ | split

/-- What `State.icmAct` may write. -/
def State.icmAct_touch : Nat :=
  union [State.popUser_touch, State.sendUser_touch]

theorem State.icmAct_within {M : Nat} {s₀ s : State} (h : Within M s₀ s) (k : Covers M State.icmAct_touch)
    (off : Nat) (word : Nat) :
    Within M s₀ (State.icmAct s off word) := by
  simp only [State.icmAct_touch, covers_union] at k
  obtain ⟨k0, k1, _⟩ := k
  unfold State.icmAct
  dsimp only
  repeat' first
    | with_reducible assumption | with_reducible exact .refl _ _ | with_reducible apply State.popUser_within
    | with_reducible apply State.when_within | with_reducible apply State.sendUser_within | intro _ | split

/-- What `State.redoAnn` may write. -/
def State.redoAnn_touch : Nat :=
  union [Row.ELC_EVT_MIN_BREACH.bit, Row.TXW_LINE_NEXT_SLOTS.bit, State.showCounts_touch, State.onTx_touch,
    State.evt_touch]

theorem State.redoAnn_within {M : Nat} {s₀ s : State} (h : Within M s₀ s) (k : Covers M State.redoAnn_touch)
    (w : Wing) :
    Within M s₀ (State.redoAnn s w) := by
  simp only [State.redoAnn_touch, covers_union] at k
  obtain ⟨k0, k1, k2, k3, k4, _⟩ := k
  unfold State.redoAnn
  dsimp only
  repeat' first
    | with_reducible assumption | with_reducible exact .refl _ _ | with_reducible apply State.showCounts_within
    | with_reducible apply State.onTx_within | with_reducible apply State.wr_within
    | with_reducible apply State.evt_within | with_reducible apply State.when_within
    | with_reducible exact may_row (by with_reducible assumption) | intro _ | split

/-- What `State.txRate` may write. -/
def State.txRate_touch : Nat :=
  union [Row.ELC_EVT_MIN_BREACH.bit, State.switchTx_touch, State.redoAnn_touch, State.evt_touch,
    State.icmRefresh_touch, State.unlockDac_touch, State.startDac_touch]

theorem State.txRate_within {M : Nat} {s₀ s : State} (h : Within M s₀ s) (k : Covers M State.txRate_touch)
    (w : Wing) :
    Within M s₀ (State.txRate s w) := by
  simp only [State.txRate_touch, covers_union] at k
  obtain ⟨k0, k1, k2, k3, k4, k5, k6, _⟩ := k
  unfold State.txRate
  dsimp only
  repeat' first
    | with_reducible assumption | with_reducible exact .refl _ _ | with_reducible apply State.switchTx_within
    | with_reducible apply State.redoAnn_within | with_reducible apply State.evt_within
    | with_reducible apply State.icmRefresh_within | with_reducible apply State.unlockDac_within
    | with_reducible apply State.when_within | with_reducible apply State.startDac_within
    | with_reducible exact may_row (by with_reducible assumption) | intro _

/-- What `State.rxRate` may write. -/
def State.rxRate_touch : Nat :=
  union [State.unlockAdc_touch, State.showReach_touch, State.showBaudDiff_touch, State.icmRefresh_touch]

theorem State.rxRate_within {M : Nat} {s₀ s : State} (h : Within M s₀ s) (k : Covers M State.rxRate_touch)
    (w : Wing) :
    Within M s₀ (State.rxRate s w) := by
  simp only [State.rxRate_touch, covers_union] at k
  obtain ⟨k0, k1, k2, k3, _⟩ := k
  unfold State.rxRate
  repeat' first
    | with_reducible assumption | with_reducible exact .refl _ _ | with_reducible apply State.unlockAdc_within
    | with_reducible apply State.showReach_within | with_reducible apply State.showBaudDiff_within
    | with_reducible apply State.icmRefresh_within

/-- What `State.optAct` may write. -/
def State.optAct_touch : Nat :=
  union [State.txCtl_touch, State.loFreq_touch, State.txFreq_touch]

theorem State.optAct_within {M : Nat} {s₀ s : State} (h : Within M s₀ s) (k : Covers M State.optAct_touch)
    (w : Wing) (off : Nat) (word : Nat) :
    Within M s₀ (State.optAct s w off word) := by
  simp only [State.optAct_touch, covers_union] at k
  obtain ⟨k0, k1, k2, _⟩ := k
  unfold State.optAct
  repeat' first
    | with_reducible assumption | with_reducible exact .refl _ _ | with_reducible apply State.txCtl_within
    | with_reducible apply State.loFreq_within | with_reducible apply State.txFreq_within | split

/-- What `State.rxwAct` may write. -/
def State.rxwAct_touch : Nat :=
  union [State.sp2Mode_touch, State.reacquire_touch, State.rxRate_touch]

theorem State.rxwAct_within {M : Nat} {s₀ s : State} (h : Within M s₀ s) (k : Covers M State.rxwAct_touch)
    (old : State) (w : Wing) (off : Nat) (word : Nat) :
    Within M s₀ (State.rxwAct s old w off word) := by
  simp only [State.rxwAct_touch, covers_union] at k
  obtain ⟨k0, k1, k2, _⟩ := k
  unfold State.rxwAct
  repeat' first
    | with_reducible assumption | with_reducible exact .refl _ _ | with_reducible apply State.sp2Mode_within
    | with_reducible apply State.reacquire_within | with_reducible apply State.rxRate_within
    | with_reducible apply State.when_within | with_reducible exact may_row (by with_reducible assumption) | intro _
    | split

/-- What `State.cnvAct` may write. -/
def State.cnvAct_touch : Nat :=
  union [State.restartWrite_touch, State.parkRow_touch, State.dacWrite_touch]

theorem State.cnvAct_within {M : Nat} {s₀ s : State} (h : Within M s₀ s) (k : Covers M State.cnvAct_touch)
    (w : Wing) (off : Nat) (word : Nat) :
    Within M s₀ (State.cnvAct s w off word) := by
  simp only [State.cnvAct_touch, covers_union] at k
  obtain ⟨k0, k1, k2, _⟩ := k
  unfold State.cnvAct
  repeat' first
    | with_reducible assumption | with_reducible exact .refl _ _ | with_reducible apply State.restartWrite_within
    | with_reducible apply State.parkRow_within | with_reducible apply State.dacWrite_within
    | with_reducible apply State.when_within | intro _ | split

/-- What `State.elcCtl` may write. -/
def State.elcCtl_touch : Nat :=
  union [State.resumeHeld_touch, State.forceFloor_touch, State.go_touch]

theorem State.elcCtl_within {M : Nat} {s₀ s : State} (h : Within M s₀ s) (k : Covers M State.elcCtl_touch)
    (w : Wing) (word : Nat) :
    Within M s₀ (State.elcCtl s w word) := by
  simp only [State.elcCtl_touch, covers_union] at k
  obtain ⟨k0, k1, k2, _⟩ := k
  unfold State.elcCtl
  repeat' first
    | with_reducible assumption | with_reducible exact .refl _ _ | with_reducible apply State.resumeHeld_within
    | with_reducible apply State.forceFloor_within | with_reducible apply State.go_within
    | with_reducible apply State.when_within | intro _

/-- What `State.wingAct` may write. -/
def State.wingAct_touch : Nat :=
  union [State.optAct_touch, State.cnvAct_touch, State.elcCtl_touch, State.rxwAct_touch, State.txRate_touch]

theorem State.wingAct_within {M : Nat} {s₀ s : State} (h : Within M s₀ s) (k : Covers M State.wingAct_touch)
    (old : State) (w : Wing) (n : Nat) (off : Nat) (word : Nat) :
    Within M s₀ (State.wingAct s old w n off word) := by
  simp only [State.wingAct_touch, covers_union] at k
  obtain ⟨k0, k1, k2, k3, k4, _⟩ := k
  unfold State.wingAct
  repeat' first
    | with_reducible assumption | with_reducible exact .refl _ _ | with_reducible apply State.optAct_within
    | with_reducible apply State.cnvAct_within | with_reducible apply State.elcCtl_within
    | with_reducible apply State.rxwAct_within | with_reducible apply State.when_within
    | with_reducible apply State.txRate_within | with_reducible exact may_row (by with_reducible assumption)
    | intro _ | split

/-- What `State.rasAct` may write. -/
def State.rasAct_touch : Nat :=
  union [State.armInjection_touch, State.clearFault_touch, State.recover_touch]

theorem State.rasAct_within {M : Nat} {s₀ s : State} (h : Within M s₀ s) (k : Covers M State.rasAct_touch)
    (off : Nat) (word : Nat) :
    Within M s₀ (State.rasAct s off word) := by
  simp only [State.rasAct_touch, covers_union] at k
  obtain ⟨k0, k1, k2, _⟩ := k
  unfold State.rasAct
  repeat' first
    | with_reducible assumption | with_reducible exact .refl _ _ | with_reducible apply State.armInjection_within
    | with_reducible apply State.clearFault_within | with_reducible apply State.when_within
    | with_reducible apply State.recover_within | intro _ | split

/-- What `State.glbAct` may write. -/
def State.glbAct_touch : Nat :=
  union [State.runBlock_touch, State.clearReject_touch, State.stopBlock_touch]

theorem State.glbAct_within {M : Nat} {s₀ s : State} (h : Within M s₀ s) (k : Covers M State.glbAct_touch)
    (off : Nat) (word : Nat) :
    Within M s₀ (State.glbAct s off word) := by
  simp only [State.glbAct_touch, covers_union] at k
  obtain ⟨k0, k1, k2, _⟩ := k
  unfold State.glbAct
  dsimp only
  repeat' first
    | with_reducible assumption | with_reducible exact .refl _ _ | with_reducible apply State.runBlock_within
    | with_reducible apply State.when_within | with_reducible apply State.clearReject_within
    | with_reducible apply State.stopBlock_within | intro _ | split

/-- What `State.act` may write. -/
def State.act_touch : Nat :=
  union [State.clearStep_touch, State.commitWrite_touch, State.halAct_touch, State.wingAct_touch, State.roll_touch,
    State.schAct_touch, State.pwrAct_touch, State.pmuAct_touch, State.secAct_touch, State.refAct_touch,
    State.supAct_touch, State.cliAct_touch, State.glbAct_touch, State.corAct_touch, State.laneAct_touch,
    State.rasAct_touch, State.icmAct_touch]

theorem State.act_within {M : Nat} {s₀ s : State} (h : Within M s₀ s) (k : Covers M State.act_touch) (old : State)
    (req : Req) (addr : Nat) (word : Nat) :
    Within M s₀ (State.act s old req addr word) := by
  simp only [State.act_touch, covers_union] at k
  obtain ⟨k0, k1, k2, k3, k4, k5, k6, k7, k8, k9, k10, k11, k12, k13, k14, k15, k16, _⟩ := k
  unfold State.act
  dsimp only
  repeat' first
    | with_reducible assumption | with_reducible exact .refl _ _ | with_reducible apply State.clearStep_within
    | with_reducible apply State.commitWrite_within | with_reducible apply State.halAct_within
    | with_reducible apply State.wingAct_within | with_reducible apply State.roll_within
    | with_reducible apply State.schAct_within | with_reducible apply State.pwrAct_within
    | with_reducible apply State.pmuAct_within | with_reducible apply State.secAct_within
    | with_reducible apply State.refAct_within | with_reducible apply State.supAct_within
    | with_reducible apply State.cliAct_within | with_reducible apply State.glbAct_within
    | with_reducible apply State.corAct_within | with_reducible apply State.laneAct_within
    | with_reducible apply State.rasAct_within | with_reducible apply State.when_within
    | with_reducible apply State.icmAct_within | intro _ | split

/-- What `State.msixWrite` may write. -/
def State.msixWrite_touch : Nat :=
  union [State.onHost_touch, State.msixControl_touch]

theorem State.msixWrite_within {M : Nat} {s₀ s : State} (h : Within M s₀ s) (k : Covers M State.msixWrite_touch)
    (addr : Nat) (word : Nat) :
    Within M s₀ (State.msixWrite s addr word) := by
  simp only [State.msixWrite_touch, covers_union] at k
  obtain ⟨k0, k1, _⟩ := k
  unfold State.msixWrite
  dsimp only
  repeat' first
    | with_reducible assumption | with_reducible exact .refl _ _ | with_reducible apply State.onHost_within
    | with_reducible apply State.msixControl_within | intro _ | split

/-- What `State.writeWord` may write. -/
def State.writeWord_touch : Nat :=
  union [State.reject_touch, State.writeField_touch, State.stageWrite_touch, State.act_touch]

theorem State.writeWord_within {M : Nat} {s₀ s : State} (h : Within M s₀ s) (k : Covers M State.writeWord_touch)
    (req : Req) (addr : Nat) (word : Nat) :
    Within M s₀ (State.writeWord s req addr word) := by
  simp only [State.writeWord_touch, covers_union] at k
  obtain ⟨k0, k1, k2, k3, _⟩ := k
  unfold State.writeWord
  dsimp only
  repeat' first
    | with_reducible assumption | with_reducible exact .refl _ _ | with_reducible apply State.reject_within
    | with_reducible apply State.writeField_within | with_reducible apply State.stageWrite_within
    | with_reducible apply State.act_within | with_reducible apply State.when_within
    | with_reducible apply within_foldl | with_reducible exact may_row (by with_reducible assumption) | unfold rowsAt
    | intro _ | split

/-- What `State.regWrite` may write. -/
def State.regWrite_touch : Nat :=
  union [State.unmapped_touch, State.writeWord_touch, State.reachIsland_touch, State.msixWrite_touch]

theorem State.regWrite_within {M : Nat} {s₀ s : State} (h : Within M s₀ s) (k : Covers M State.regWrite_touch)
    (req : Req) (addr : Nat) (word : Nat) :
    Within M s₀ (State.regWrite s req addr word) := by
  simp only [State.regWrite_touch, covers_union] at k
  obtain ⟨k0, k1, k2, k3, _⟩ := k
  unfold State.regWrite
  dsimp only
  repeat' first
    | with_reducible assumption | with_reducible exact .refl _ _ | with_reducible apply State.unmapped_within
    | with_reducible apply State.writeWord_within | with_reducible apply State.reachIsland_within
    | with_reducible apply State.msixWrite_within | split

/-- What `execRegisterWrite` may write. -/
def execRegisterWrite_touch : Nat :=
  union [State.regWrite_touch, State.begin_touch]

theorem execRegisterWrite_within {M : Nat} (s : State) (k : Covers M execRegisterWrite_touch) (req : Req)
    (addr : Nat) (word : Nat) :
    Answered M s (execRegisterWrite req addr word s) := by
  simp only [execRegisterWrite_touch, covers_union] at k
  obtain ⟨k0, k1, _⟩ := k
  unfold execRegisterWrite
  dsimp only
  repeat' first
    | apply answered_next | with_reducible assumption | with_reducible exact .refl _ _
    | with_reducible apply State.regWrite_within | with_reducible apply State.begin_within
    | with_reducible apply State.when_within | intro _

/-- What `execUnmappedAccess` may write. -/
def execUnmappedAccess_touch : Nat :=
  union [State.unmapped_touch, State.say_touch, State.begin_touch]

theorem execUnmappedAccess_within {M : Nat} (s : State) (k : Covers M execUnmappedAccess_touch) (req : Req)
    (addr : Nat) (isWrite : Bool) :
    Answered M s (execUnmappedAccess req addr isWrite s) := by
  simp only [execUnmappedAccess_touch, covers_union] at k
  obtain ⟨k0, k1, k2, _⟩ := k
  unfold execUnmappedAccess
  dsimp only
  repeat' first
    | apply answered_next | with_reducible assumption | with_reducible exact .refl _ _
    | with_reducible apply State.unmapped_within | with_reducible apply State.say_within
    | with_reducible apply State.begin_within | split

end Sys2Proof.Machine
end

