-- ==== Sys2Proof/Laws/WithinAccess.lean ====
section
/-!
SUPPORT. `Within` over the operations of Machine/Access.lean.
-/

namespace Sys2Proof.Machine

/-- What `State.sendStall` may write. -/
def State.sendStall_touch : Nat :=
  union [State.sayCell_touch]

theorem State.sendStall_within {M : Nat} {s₀ s : State} (h : Within M s₀ s) (k : Covers M State.sendStall_touch)
    (id : Nat) (addr : Nat) (port : Nat) :
    Within M s₀ (State.sendStall s id addr port) := by
  simp only [State.sendStall_touch, covers_union] at k
  obtain ⟨k0, _⟩ := k
  unfold State.sendStall
  repeat' first
    | with_reducible assumption | with_reducible exact .refl _ _ | with_reducible apply State.sayCell_within
    | with_reducible apply State.when_within | intro _

/-- What `State.corRead` may write. -/
def State.corRead_touch : Nat :=
  union [State.sendStall_touch, State.sayCell_touch, State.regRead_touch]

theorem State.corRead_within {M : Nat} {s₀ s : State} (h : Within M s₀ s) (k : Covers M State.corRead_touch)
    (id : Nat) (addr : Nat) (port : Nat) :
    Within M s₀ (State.corRead s id addr port) := by
  simp only [State.corRead_touch, covers_union] at k
  obtain ⟨k0, k1, k2, _⟩ := k
  unfold State.corRead
  dsimp only
  repeat' first
    | with_reducible assumption | with_reducible exact .refl _ _ | with_reducible apply State.sendStall_within
    | with_reducible apply State.sayCell_within | with_reducible apply State.regRead_within

/-- What `execCorReadRx` may write. -/
def execCorReadRx_touch : Nat :=
  union [State.corRead_touch, State.begin_touch]

theorem execCorReadRx_within {M : Nat} (s : State) (k : Covers M execCorReadRx_touch) (id : Nat) (addr : Nat)
    (port : Fin 4) :
    Answered M s (execCorReadRx id addr port s) := by
  simp only [execCorReadRx_touch, covers_union] at k
  obtain ⟨k0, k1, _⟩ := k
  unfold execCorReadRx
  dsimp only
  repeat' first
    | apply answered_next | with_reducible assumption | with_reducible exact .refl _ _
    | with_reducible apply State.corRead_within | with_reducible apply State.begin_within
    | with_reducible apply State.when_within | intro _

/-- What `State.corWrite` may write. -/
def State.corWrite_touch : Nat :=
  union [State.sendStall_touch, State.sayCell_touch, State.regWrite_touch]

theorem State.corWrite_within {M : Nat} {s₀ s : State} (h : Within M s₀ s) (k : Covers M State.corWrite_touch)
    (id : Nat) (addr : Nat) (word : Nat) (port : Nat) :
    Within M s₀ (State.corWrite s id addr word port) := by
  simp only [State.corWrite_touch, covers_union] at k
  obtain ⟨k0, k1, k2, _⟩ := k
  unfold State.corWrite
  repeat' first
    | with_reducible assumption | with_reducible exact .refl _ _ | with_reducible apply State.sendStall_within
    | with_reducible apply State.sayCell_within | with_reducible apply State.regWrite_within

/-- What `execCorWriteRx` may write. -/
def execCorWriteRx_touch : Nat :=
  union [State.corWrite_touch, State.begin_touch]

theorem execCorWriteRx_within {M : Nat} (s : State) (k : Covers M execCorWriteRx_touch) (id : Nat) (addr : Nat)
    (word : Nat) (port : Fin 4) :
    Answered M s (execCorWriteRx id addr word port s) := by
  simp only [execCorWriteRx_touch, covers_union] at k
  obtain ⟨k0, k1, _⟩ := k
  unfold execCorWriteRx
  dsimp only
  repeat' first
    | apply answered_next | with_reducible assumption | with_reducible exact .refl _ _
    | with_reducible apply State.corWrite_within | with_reducible apply State.begin_within
    | with_reducible apply State.when_within | intro _

end Sys2Proof.Machine
end

