-- ==== Sys2Proof/Laws/WithinMonitor.lean ====
section
/-!
SUPPORT. `Within` over the operations of Machine/Monitor.lean.
-/

namespace Sys2Proof.Machine

/-- What `State.print` may write. -/
def State.print_touch : Nat :=
  union [State.say_touch]

theorem State.print_within {M : Nat} {s₀ s : State} (h : Within M s₀ s) (k : Covers M State.print_touch)
    (ws : List Nat) :
    Within M s₀ (State.print s ws) := by
  simp only [State.print_touch, covers_union] at k
  obtain ⟨k0, _⟩ := k
  unfold State.print
  repeat' first | with_reducible assumption | with_reducible exact .refl _ _ | with_reducible apply State.say_within

/-- What `State.printErr` may write. -/
def State.printErr_touch : Nat :=
  union [Part.free.bit, State.say_touch]

theorem State.printErr_within {M : Nat} {s₀ s : State} (h : Within M s₀ s) (k : Covers M State.printErr_touch) :
    Within M s₀ (State.printErr s) := by
  simp only [State.printErr_touch, covers_union] at k
  obtain ⟨k0, k1, _⟩ := k
  unfold State.printErr
  dsimp only
  repeat' first
    | with_reducible assumption | with_reducible exact .refl _ _ | with_reducible apply State.fresh_within
    | with_reducible apply State.say_within

theorem State.monitored_within {M : Nat} {s₀ s : State} (h : Within M s₀ s) (f : State → State)
    (hf : ∀ t : State, Within M t (f t)) :
    Within M s₀ (State.monitored s f) := by
  unfold State.monitored
  repeat' first | with_reducible assumption | with_reducible exact .refl _ _ | with_reducible apply State.when_within

/-- What `State.peek` may write. -/
def State.peek_touch : Nat :=
  union [State.regRead_touch]

theorem State.peek_within {M : Nat} {s₀ s : State} (h : Within M s₀ s) (k : Covers M State.peek_touch) (addr : Nat)
    (a0 : Nat) :
    Within M s₀ (State.peek s addr a0).2 := by
  simp only [State.peek_touch, covers_union] at k
  obtain ⟨k0, _⟩ := k
  induction a0 generalizing s addr with
  | zero =>
    rw [State.peek]
    try dsimp only
    repeat' first | with_reducible assumption
  | succ n ih =>
    rw [State.peek]
    try dsimp only
    repeat' first
      | with_reducible apply ih | with_reducible assumption | with_reducible exact .refl _ _
      | with_reducible apply State.regRead_within

/-- What `State.monPeek` may write. -/
def State.monPeek_touch : Nat :=
  union [State.printErr_touch, State.print_touch, State.peek_touch]

theorem State.monPeek_within {M : Nat} {s₀ s : State} (h : Within M s₀ s) (k : Covers M State.monPeek_touch)
    (addr : Nat) (n : Nat) :
    Within M s₀ (State.monPeek s addr n) := by
  simp only [State.monPeek_touch, covers_union] at k
  obtain ⟨k0, k1, k2, _⟩ := k
  unfold State.monPeek
  dsimp only
  repeat' first
    | with_reducible assumption | with_reducible exact .refl _ _ | with_reducible apply State.printErr_within
    | with_reducible apply State.print_within | with_reducible apply State.peek_within | split

/-- What `execMonPeek` may write. -/
def execMonPeek_touch : Nat :=
  union [State.monPeek_touch, State.begin_touch]

theorem execMonPeek_within {M : Nat} (s : State) (k : Covers M execMonPeek_touch) (addr : Nat) (n : Nat) :
    Answered M s (execMonPeek addr n s) := by
  simp only [execMonPeek_touch, covers_union] at k
  obtain ⟨k0, k1, _⟩ := k
  unfold execMonPeek
  repeat' first
    | apply answered_next | with_reducible assumption | with_reducible exact .refl _ _
    | with_reducible apply State.monitored_within | with_reducible apply State.monPeek_within
    | with_reducible apply State.begin_within | intro _

/-- What `execMonPoke` may write. -/
def execMonPoke_touch : Nat :=
  union [State.regWrite_touch, State.print_touch, State.begin_touch]

theorem execMonPoke_within {M : Nat} (s : State) (k : Covers M execMonPoke_touch) (addr : Nat) (word : Nat) :
    Answered M s (execMonPoke addr word s) := by
  simp only [execMonPoke_touch, covers_union] at k
  obtain ⟨k0, k1, k2, _⟩ := k
  unfold execMonPoke
  repeat' first
    | apply answered_next | with_reducible assumption | with_reducible exact .refl _ _
    | with_reducible apply State.monitored_within | with_reducible apply State.regWrite_within
    | with_reducible apply State.print_within | with_reducible apply State.begin_within | intro _

/-- What `State.monAttic` may write. -/
def State.monAttic_touch : Nat :=
  union [State.printErr_touch, State.print_touch]

theorem State.monAttic_within {M : Nat} {s₀ s : State} (h : Within M s₀ s) (k : Covers M State.monAttic_touch)
    (index : Nat) (n : Nat) :
    Within M s₀ (State.monAttic s index n) := by
  simp only [State.monAttic_touch, covers_union] at k
  obtain ⟨k0, k1, _⟩ := k
  unfold State.monAttic
  repeat' first
    | with_reducible assumption | with_reducible exact .refl _ _ | with_reducible apply State.printErr_within
    | with_reducible apply State.print_within | split

/-- What `execMonAttic` may write. -/
def execMonAttic_touch : Nat :=
  union [State.monAttic_touch, State.begin_touch]

theorem execMonAttic_within {M : Nat} (s : State) (k : Covers M execMonAttic_touch) (index : Nat) (n : Nat) :
    Answered M s (execMonAttic index n s) := by
  simp only [execMonAttic_touch, covers_union] at k
  obtain ⟨k0, k1, _⟩ := k
  unfold execMonAttic
  repeat' first
    | apply answered_next | with_reducible assumption | with_reducible exact .refl _ _
    | with_reducible apply State.monitored_within | with_reducible apply State.monAttic_within
    | with_reducible apply State.begin_within | intro _

/-- What `execMonState` may write. -/
def execMonState_touch : Nat :=
  union [State.print_touch, State.begin_touch]

theorem execMonState_within {M : Nat} (s : State) (k : Covers M execMonState_touch) :
    Answered M s (execMonState s) := by
  simp only [execMonState_touch, covers_union] at k
  obtain ⟨k0, k1, _⟩ := k
  unfold execMonState
  repeat' first
    | apply answered_next | with_reducible assumption | with_reducible exact .refl _ _
    | with_reducible apply State.monitored_within | with_reducible apply State.print_within
    | with_reducible apply State.begin_within | intro _

/-- What `execMonIslands` may write. -/
def execMonIslands_touch : Nat :=
  union [State.print_touch, State.begin_touch]

theorem execMonIslands_within {M : Nat} (s : State) (k : Covers M execMonIslands_touch) :
    Answered M s (execMonIslands s) := by
  simp only [execMonIslands_touch, covers_union] at k
  obtain ⟨k0, k1, _⟩ := k
  unfold execMonIslands
  repeat' first
    | apply answered_next | with_reducible assumption | with_reducible exact .refl _ _
    | with_reducible apply State.monitored_within | with_reducible apply State.print_within
    | with_reducible apply State.begin_within | intro _

/-- What `execMonFp` may write. -/
def execMonFp_touch : Nat :=
  union [State.print_touch, State.begin_touch]

theorem execMonFp_within {M : Nat} (s : State) (k : Covers M execMonFp_touch) :
    Answered M s (execMonFp s) := by
  simp only [execMonFp_touch, covers_union] at k
  obtain ⟨k0, k1, _⟩ := k
  unfold execMonFp
  repeat' first
    | apply answered_next | with_reducible assumption | with_reducible exact .refl _ _
    | with_reducible apply State.monitored_within | with_reducible apply State.print_within
    | with_reducible apply State.begin_within | intro _

/-- What `execMonLanes` may write. -/
def execMonLanes_touch : Nat :=
  union [State.print_touch, State.begin_touch]

theorem execMonLanes_within {M : Nat} (s : State) (k : Covers M execMonLanes_touch) (client : Option Bool) :
    Answered M s (execMonLanes client s) := by
  simp only [execMonLanes_touch, covers_union] at k
  obtain ⟨k0, k1, _⟩ := k
  unfold execMonLanes
  repeat' first
    | apply answered_next | with_reducible assumption | with_reducible exact .refl _ _
    | with_reducible apply State.monitored_within | with_reducible apply State.print_within
    | with_reducible apply State.begin_within | intro _

/-- What `execMonWing` may write. -/
def execMonWing_touch : Nat :=
  union [State.print_touch, State.begin_touch]

theorem execMonWing_within {M : Nat} (s : State) (k : Covers M execMonWing_touch) (w : Wing) :
    Answered M s (execMonWing w s) := by
  simp only [execMonWing_touch, covers_union] at k
  obtain ⟨k0, k1, _⟩ := k
  unfold execMonWing
  dsimp only
  repeat' first
    | apply answered_next | with_reducible assumption | with_reducible exact .refl _ _
    | with_reducible apply State.monitored_within | with_reducible apply State.print_within
    | with_reducible apply State.begin_within | intro _

/-- What `execMonRef` may write. -/
def execMonRef_touch : Nat :=
  union [State.print_touch, State.begin_touch]

theorem execMonRef_within {M : Nat} (s : State) (k : Covers M execMonRef_touch) :
    Answered M s (execMonRef s) := by
  simp only [execMonRef_touch, covers_union] at k
  obtain ⟨k0, k1, _⟩ := k
  unfold execMonRef
  repeat' first
    | apply answered_next | with_reducible assumption | with_reducible exact .refl _ _
    | with_reducible apply State.monitored_within | with_reducible apply State.print_within
    | with_reducible apply State.begin_within | intro _

/-- What `execMonHelp` may write. -/
def execMonHelp_touch : Nat :=
  union [State.say_touch, State.begin_touch]

theorem execMonHelp_within {M : Nat} (s : State) (k : Covers M execMonHelp_touch) :
    Answered M s (execMonHelp s) := by
  simp only [execMonHelp_touch, covers_union] at k
  obtain ⟨k0, k1, _⟩ := k
  unfold execMonHelp
  repeat' first
    | apply answered_next | with_reducible assumption | with_reducible exact .refl _ _
    | with_reducible apply State.monitored_within | with_reducible apply State.say_within
    | with_reducible apply State.begin_within | intro _

/-- What `execMonUnknown` may write. -/
def execMonUnknown_touch : Nat :=
  union [State.printErr_touch, State.begin_touch]

theorem execMonUnknown_within {M : Nat} (s : State) (k : Covers M execMonUnknown_touch) :
    Answered M s (execMonUnknown s) := by
  simp only [execMonUnknown_touch, covers_union] at k
  obtain ⟨k0, k1, _⟩ := k
  unfold execMonUnknown
  repeat' first
    | apply answered_next | with_reducible assumption | with_reducible exact .refl _ _
    | with_reducible apply State.monitored_within | with_reducible apply State.printErr_within
    | with_reducible apply State.begin_within | intro _

end Sys2Proof.Machine
end

