-- ==== Sys2Proof/WellFormed.lean ====
section
/-!
DEFINITION. The commands that the spec admits: which operands fit the widths and lengths that the spec gives. An operand
whose type already bounds it (a wing, a channel, a port) needs no check.
-/

namespace Sys2Proof

/-- R5: a word of a register or of a cell has 32 bits. -/
def isWord (v : Nat) : Bool := decide (v < 2 ^ 32)

/-- R398, R402: BAR0 has 32 MiB and its registers are words at multiples of four. -/
def isReg (addr : Nat) : Bool := decide (addr < 0x2000000) && decide (addr % 4 = 0)

/-- R401: the number of a register region within BAR0. -/
def isRegion (n : Nat) : Bool := decide (n < 512)

/-- R387: PF1's BAR2 has 4 KiB. -/
def isUserOffset (n : Nat) : Bool := decide (n < 4096) && decide (n % 4 = 0)

/-- R194, R196: a chirp has at most 2¹² bins. -/
def areChirps (cs : List RxChirp) : Bool := cs.all (fun c => decide (c.bin < 4096))

/-- R290, R294: a PFC frame has an enable bit and a 16-bit time for each of the 8 classes. -/
def isPfc (vector : Nat) (times : List Nat) : Bool :=
  decide (vector < 256) && decide (times.length = 8) && times.all (fun v => decide (v < 65536))

/-- R71: a 64B/66B block has a 2-bit header and 8 bytes. -/
def isBlock66 (b : Block66) : Bool := decide (b.head < 4) && decide (b.body.length = 8) && b.body.all (fun v => decide (v < 256))

/-- R256, R258: a segment has up to 2,048 blocks and three tag blocks. -/
def isSegment (x : Segment) : Bool :=
  isBlock66 x.ssb && isBlock66 x.next && decide (x.body.length ≤ 2048) && x.body.all isBlock66 &&
    decide (x.tags.length = 3) && x.tags.all isBlock66

/-- A string of `n` bytes. -/
def areBytes (n : Nat) (bs : List Nat) : Bool := decide (bs.length = n) && bs.all (fun v => decide (v < 256))

/-- R269: a fetched ML-KEM-1024 ciphertext, if there is one, has 1,568 bytes. -/
def isCiphertext (bs : List Nat) : Bool := bs.isEmpty || areBytes 1568 bs

/-- R270, R272: the lengths of what a KE_INIT or KE_RESP carries. -/
def isKeMsg (m : KeMsg) : Bool :=
  areBytes 32 m.nonce && areBytes 7984 m.cert && areBytes 1568 m.kem && areBytes 7856 m.signature

/-- R270: an HMAC-SHA-256. -/
def isMac (bs : List Nat) : Bool := areBytes 32 bs

/-- R391: the attic has 4,096 places; the board's cursor is a word of 16 bits. -/
def isCursor (n : Nat) : Bool := decide (n < 65536)

/-- R420: a command code of the SMBus is a byte. -/
def isByte (n : Nat) : Bool := decide (n < 256)

/-- R420: the board writes a signed word of 16 bits. -/
def isSword (v : Int) : Bool := decide (-32768 ≤ v) && decide (v < 32768)

/-- R413: worker addresses run from 0x0001 to 0xFFFE. -/
def isWorker (n : Nat) : Bool := decide (1 ≤ n) && decide (n ≤ 0xFFFE)

/-- R415: a window has 16 MiB. -/
def isWindow (addr : Nat) (data : Option Nat) : Bool :=
  decide (addr < 0x1000000) && decide (addr % 4 = 0) && isWord (data.getD 0)

/-- R54: a position within a carrier frame of 65,536 symbols. -/
def isCarrierPos (n : Nat) : Bool := decide (n < 65536)

/-- R390: HIST_CLR is a mask over 16 histograms. -/
def isMask (n : Nat) : Bool := decide (n < 65536)

/-- R149: DEC_RESET is a mask over the 24 decimation contexts. -/
def isContextMask (n : Nat) : Bool := decide (n < 2 ^ 24)

/-- R49: a soft value for each of the 256 bits on each polarisation. -/
def isHeaderRx (h : HeaderRx) : Bool := decide (h.x.length = 256) && decide (h.y.length = 256)

/-- R45, R81: a superframe of 4,194,304 symbols has 9/8 as many samples. -/
def isShaped (n : Nat) : Bool := decide (n ≤ 4718592)

/-- R45, R96: the samples of the four ADC dimensions over a carrier frame of 65,536 symbols, 9 for every 8 symbols. -/
def isAdc (adc : List (List Int)) : Bool := decide (adc.length = 4) && adc.all (fun xs => decide (xs.length ≤ 73728))

/-- R161: a block has 32,768 coded bits, and its superframe at most 1,506 blocks; it enters the window well within a superframe of
its reception (R167). -/
def isBlockRx (b : BlockRx) : Bool :=
  decide (b.number < 1506) && decide (b.back < 64) && decide (b.first.length = 32768) &&
    decide (b.bits.length = 32768)

/-- The operands of a command fit what the spec admits. -/
def Instr.wf : Instr → Bool
  | .registerWrite _ addr word => isReg addr && isWord word
  | .rcRead _ addr => isReg addr
  | .wrRejectClear _ => true
  | .apply _ region => isRegion region
  | .discard _ region _ => isRegion region
  | .pendingSetApply region _ => isRegion region
  | .blockStop _ _ => true
  | .blockRun _ _ => true
  | .blockStopComplete _ => true
  | .loadVerify _ => true
  | .loadVerifyDone _ => true
  | .activate _ _ => true
  | .program _ => true
  | .programDone => true
  | .confirm _ => true
  | .advanceSvn _ => true
  | .abort _ => true
  | .superframeBoundaryTx _ n => isShaped n
  | .carrierFrameRx _ pos _ hdr adc => isCarrierPos pos && hdr.all isHeaderRx && isAdc adc
  | .cfAlignLoss _ => true
  | .hdrLossSet _ => true
  | .hdrLossClear _ => true
  | .superframeBoundaryRx _ _ => true
  | .chanEnableWrite _ _ _ _ => true
  | .txFreqWrite _ _ _ _ => true
  | .loFreqWrite _ _ _ _ => true
  | .txLaserLock _ => true
  | .txTuneTimeout _ => true
  | .loTuneDone _ => true
  | .loTuneFail _ => true
  | .txCtlWrite _ _ _ _ _ => true
  | .rampUpdate _ => true
  | .powerLoopUpdate _ => true
  | .txDisAssert _ => true
  | .txDisDeassert _ _ => true
  | .losAssert _ _ => true
  | .losClear _ _ => true
  | .acqStart _ => true
  | .acqStepComplete _ _ => true
  | .acqFail _ _ => true
  | .acqRetry _ => true
  | .reacq _ _ _ => true
  | .cdTrackMove _ _ => true
  | .eqReconv _ => true
  | .sp2AutoOn _ => true
  | .sp2AutoOff _ => true
  | .sp2Start _ => true
  | .sp2Stop _ => true
  | .sp2DrainDone _ => true
  | .fomWindowEnd _ => true
  | .synthLock _ _ => true
  | .fgCalComplete _ _ => true
  | .calRestart _ _ => true
  | .spareCalComplete _ _ _ => true
  | .sliceHandover _ _ => true
  | .dwellExpiry _ _ => true
  | .dacCalStart _ _ => true
  | .dacCalComplete _ _ => true
  | .supConversion _ => true
  | .injTrigger _ => true
  | .injGo _ => true
  | .decRound _ => true
  | .decReset _ mask => isContextMask mask
  | .supCalStart _ => true
  | .supCalAuto => true
  | .supCalDone => true
  | .fecBlockDecode _ b => isBlockRx b
  | .fecLock _ => true
  | .fecLockLoss _ => true
  | .dfecSfChange _ => true
  | .dfecSdWindow _ => true
  | .advStale _ => true
  | .announceStart _ => true
  | .annCommitPoint _ => true
  | .rateSwitch _ => true
  | .announceRetry _ => true
  | .rxRateSwitch _ => true
  | .mismatchDeclare _ => true
  | .fallback _ => true
  | .policyResume _ => true
  | .icmAnnounceStart _ => true
  | .icmAnnounceResend _ => true
  | .icmHandshakeFail _ => true
  | .enableChangeRetry _ => true
  | .go _ _ => true
  | .resume _ _ => true
  | .forceFloor _ _ => true
  | .elcModeSet _ _ _ => true
  | .icmBurstStart _ => true
  | .icmBurstEnd _ => true
  | .icmAdviceRepeat _ => true
  | .icmBringupTimer _ => true
  | .icmTagTimer _ => true
  | .icmAlarmRepeat _ => true
  | .icmPreambleDetect _ _ => true
  | .icmFrameAbandon _ rx => areChirps rx.chirps
  | .icmCapture _ _ chirps => areChirps chirps
  | .icmAdviceRx _ rx => areChirps rx.chirps
  | .icmAnnounceRx _ rx => areChirps rx.chirps
  | .icmAckRx _ rx => areChirps rx.chirps
  | .icmBringupRx _ rx => areChirps rx.chirps
  | .icmTagRx _ rx => areChirps rx.chirps
  | .icmAlarmRx _ rx => areChirps rx.chirps
  | .icmUserRx _ rx => areChirps rx.chirps
  | .farAlarmTimeout _ => true
  | .userSend _ _ => true
  | .userPop _ _ => true
  | .otnFrameTx _ => true
  | .fasSearchMatch _ => true
  | .otnFrameRx _ => true
  | .oofDeclare _ => true
  | .oomDeclare _ => true
  | .defectChange _ _ _ => true
  | .degEval _ _ => true
  | .failureDeclare _ _ _ => true
  | .failureClear _ _ _ => true
  | .apsAccept _ _ => true
  | .gcc0MsgRx _ => true
  | .pgConditionChange _ _ => true
  | .holdoffExpiry _ _ => true
  | .wtrExpiry _ => true
  | .pgClear _ _ => true
  | .pgLockout _ _ => true
  | .pgForce _ _ => true
  | .pgManualP _ _ => true
  | .pgManualW _ _ => true
  | .fopRaise _ => true
  | .fopClear _ => true
  | .segmentTxStart _ => true
  | .segmentRx _ seg => isSegment seg
  | .segLockLoss _ => true
  | .roll _ _ => true
  | .pipelineRunEnd _ => true
  | .preempt _ => true
  | .keyLoad _ _ => true
  | .keyErase _ _ => true
  | .loadKek _ fetched => isCiphertext (fetched.getD [])
  | .attest _ => true
  | .getCert _ => true
  | .getKekPub _ => true
  | .retirementComplete _ => true
  | .keInitSend _ => true
  | .sessionLifeExpiry _ => true
  | .keInitRx _ session m => decide (session < 65536) && isKeMsg m
  | .keRespRx _ m => isKeMsg m
  | .keFinRx _ mac => isMac mac
  | .keAbort _ => true
  | .sessionRetry _ => true
  | .keyReadyRx _ _ _ _ => true
  | .clientFrameRx _ _ _ => true
  | .pfcFrameTx _ => true
  | .pfcXoffRepeat _ _ => true
  | .pfcRx _ _ _ vector times => isPfc vector times
  | .pfcPauseExpiry _ _ => true
  | .esmcRx _ _ _ _ => true
  | .esmcTx _ => true
  | .portLinkChange _ _ _ _ => true
  | .lineFrameDemap _ _ _ _ _ _ => true
  | .tpgFrame => true
  | .schedSelect _ _ _ => true
  | .gclEntryStart _ => true
  | .gclActivate _ _ => true
  | .gclTimingWrite _ _ _ _ => true
  | .gclSwap _ => true
  | .gclWivlWrite _ _ => true
  | .laneSignalDetect _ _ => true
  | .laneStepComplete _ _ _ => true
  | .laneFail _ _ _ => true
  | .laneRetry _ _ => true
  | .laneRestart _ _ _ => true
  | .laneDown _ _ => true
  | .fomMeasure _ _ _ => true
  | .laneAdaptStart _ _ => true
  | .refSelect _ => true
  | .candQualify _ _ => true
  | .candDisqualify _ _ => true
  | .candWtrExpiry _ => true
  | .esmcTimeout _ => true
  | .refLock => true
  | .dpllFault => true
  | .dpllRelock => true
  | .hoRelearn _ => true
  | .mtUpdate => true
  | .mtStep _ => true
  | .oneSecondTick _ => true
  | .vinStart _ => true
  | .powerLoss => true
  | .vinWarnRise _ => true
  | .vinWarnClear _ => true
  | .stageAdmit => true
  | .stateTargetWrite _ _ => true
  | .wingStateWrite _ _ _ => true
  | .stateEntryDone => true
  | .stateEntryRefuse _ _ => true
  | .wakeOnAccess _ _ => true
  | .woaLingerExpiry _ => true
  | .wakeNAssert => true
  | .wakeTimerExpiry => true
  | .watchCycle _ _ => true
  | .modReset => true
  | .hierGo _ _ => true
  | .hierForwardNext => true
  | .thermalTrip => true
  | .descAuditDone => true
  | .scrubRead _ _ => true
  | .parityMismatch _ => true
  | .clockLoss _ => true
  | .slowClkLoss => true
  | .doorwayTimeout _ _ => true
  | .lockstepMiscompare => true
  | .coreRestartDone => true
  | .recover _ => true
  | .eccInjectArm _ => true
  | .faultClear _ => true
  | .freeze _ => true
  | .thaw _ => true
  | .clearAll _ => true
  | .loHalfRead _ addr => isReg addr
  | .userPageAccess offset _ => isUserOffset offset
  | .tagWinRead _ => true
  | .tagPop _ => true
  | .histClr _ mask => isMask mask
  | .atticRecord => true
  | .atticWinRead _ => true
  | .atticWinLastRead _ => true
  | .atticClearArm _ _ => true
  | .atticClearExecute _ _ => true
  | .atticClearLapse => true
  | .perst => true
  | .flrPf0 => true
  | .flrPf1 => true
  | .badAccess _ => true
  | .msixUnmask _ => true
  | .vecModGapExpiry _ => true
  | .captureBlock _ _ _ => true
  | .heartbeatTx => true
  | .corHeartbeatRx _ _ => true
  | .corridorPortDown _ => true
  | .corLinkRx worker _ _ _ => isWorker worker
  | .enumerate _ => true
  | .corEnumRx _ _ _ => true
  | .windowAccess _ addr data => isWindow addr data
  | .corReadRx _ addr _ => isReg addr
  | .corWriteRx _ addr word _ => isReg addr && isWord word
  | .corReadCplRx _ data => isWord data
  | .corWriteAckRx _ => true
  | .corStallRx _ => true
  | .windowDeadlineExpiry _ => true
  | .corDoorbellRx worker _ => isWorker worker
  | .corHierRx _ => true
  | .fwdLogRead _ => true
  | .smbStatus => true
  | .smbVin => true
  | .smbTcp v => isSword v
  | .smbTdie v => isSword v
  | .smbWake => true
  | .smbId => true
  | .smbWakeCmd => true
  | .smbAlertClr => true
  | .smbAlertResponse => true
  | .smbAtticCur index => isCursor index
  | .smbAtticRec => true
  | .smbUndefined code => isByte code
  | .monPeek addr _ => isReg addr
  | .monPoke addr word => isReg addr && isWord word
  | .monAttic _ _ => true
  | .monState => true
  | .monIslands => true
  | .monFp => true
  | .monLanes _ => true
  | .monWing _ => true
  | .monRef => true
  | .monHelp => true
  | .monUnknown => true
  | .bootStepDone _ => true
  | .wingStartStepDone _ => true
  | .perstRelease => true
  | .pcieLinkUp _ _ => true
  | .unmappedAccess _ addr _ => isReg addr
  | .keyCommandDone => true
  | .imageCommandDone => true
  | .eqReconvDone _ => true
  | .holdoverLearnHour _ => true

/-- A command is well formed. -/
abbrev Instr.WellFormed (i : Instr) : Prop := i.wf = true

end Sys2Proof
end

