-- ==== Sys2Proof/Tests/Slice0.lean ====
section
/-!
SUPPORT. The small states that the witnesses are built from; ill-formed commands that `Instr.wf` refuses, one for each
check; the spec's worked examples; and for every statement with hypotheses, states and operands that meet them.
-/

namespace Sys2Proof.Tests

open Sys2Proof Sys2Proof.Machine

set_option Elab.async false

/-! ### States -/

/-- The state after reset with fields written. -/
def st (l : List (Row × List Nat × Nat)) : State := l.foldl (fun s e => s.wr e.1 e.2.1 e.2.2) State.reset

/-- An optical section that corrects nothing. -/
def opt0 : OpticalSec := ⟨0, [], [], [], [], [], [], [], [], []⟩

/-- A wing section with four channels, at 340 GBd, with its floor at index 32 of Ubmus-23. -/
def wing0 : WingSec :=
  ⟨true, 1360, 16384, [], [⟨80, 4, 5, false⟩, ⟨80, 0, 5, false⟩, ⟨80, 0, 5, false⟩, ⟨80, 0, 5, false⟩], 1360, 32, 1, opt0⟩

/-- A section table entry. -/
def entry0 (ty k : Nat) : SecEntry := ⟨ty, 0, 2048 + 64 * k, 64, 0, 7, 7⟩

/-- An image with both wings, two ports and no defaults. -/
def img0 : Image where
  magic := 0x444B4650
  format := 1
  part := 0x6432
  variantMask := 7
  minStepping := 0
  svn := 1
  rsvZero := true
  build := 5
  entries := [entry0 1 0, entry0 2 1, entry0 3 2, entry0 4 3, entry0 5 4, entry0 6 5, entry0 7 6, entry0 9 7,
    entry0 10 8, entry0 11 9]
  imageLen := 1000000
  supplied := 1000000
  rootHash := 0
  sigOk := true
  headHash := 0x1234
  modul := ⟨[], false, true, true, true, 4, [], false⟩
  wingA := some wing0
  wingB := some wing0
  ports := [⟨0, 0, 2, 0⟩, ⟨1, 4, 2, 0⟩]
  board := none
  hall := ⟨[(0, .chan 0), (1, .chan 32)], []⟩
  pantry := ⟨[(0, 1000)], 0, 0, 0, 785432, 524288, 0, 0⟩
  defaults := []

/-- A running module with both wings in Run, with fields written. -/
def running (l : List (Row × List Nat × Nat)) : State :=
  { st ((.GLB_BOOT_STAT_STAGE, [], 5) :: l) with
    image := { ImageState.reset with running := some img0 }
    boot := { Boot.reset with step := 0, wing := ⟨8, 8⟩ } }

/-- A client frame of 64 bytes. -/
def frame0 : Frame := ⟨0, 64, true, none, none, none, none, true⟩

/-- A header without announcement at 340 GBd. -/
def hdrBody0 : Header where
  frameNo := 0
  wing := 0
  baud := 1360
  hCur := 32
  fecCur := 1
  slotsCur := 0
  annValid := false
  annSeq := 0
  hNext := 0
  fecNext := 0
  slotsNext := 0
  countdown := 0
  ackValid := false
  ackSeq := 0
  advValid := false
  advSeq := 0
  advH := 0
  advFec := 0
  advMargin := 0
  ql := 2
  floor := true
  icmRc := true
  hdrLoss := false
  map := List.replicate 20 63
  rsv := 0
  crc := 0

/-- The same with its CRC. -/
def hdr0 : Header := { hdrBody0 with crc := crc16 (headerBits hdrBody0) }

/-- What is received of a header: soft values of ±1 on both polarisations. -/
def softOf (h : Header) : HeaderRx :=
  let soft := (headerField h).map (fun b => if b then (-1 : Int) else 1)
  ⟨soft, soft⟩

/-- A carrier frame of which nothing was sampled. -/
def quiet : List (List Int) := []

/-- What is heard of a message that wing A's far end sends with network ID 5 and MSEQ 1 at SF 9. -/
def heardOf (m : IcmMsg) : IcmRx :=
  ⟨((burstOf .a 9 10 5 1 m).chirps.drop 16).map (fun c => match c with
    | .up v => ⟨false, v, 300⟩
    | .down => ⟨true, 0, 300⟩), -30⟩

/-! ### Ill-formed commands are refused -/

theorem test_wf_isReg : Instr.wf (.rcRead .pf0 0x2) = false := by decide

theorem test_wf_isReg_range : Instr.wf (.rcRead .pf0 0x2000000) = false := by decide

theorem test_wf_isWord : Instr.wf (.registerWrite .pf0 0x10 (2 ^ 32)) = false := by decide

theorem test_wf_isRegion : Instr.wf (.apply .pf0 512) = false := by decide

theorem test_wf_isUserOffset : Instr.wf (.userPageAccess 4096 false) = false := by decide

theorem test_wf_areChirps : Instr.wf (.icmUserRx .a ⟨[⟨false, 4096, 0⟩], 0⟩) = false := by decide

theorem test_wf_isPfc : Instr.wf (.pfcRx 0 64 true 1 [0]) = false := by decide

theorem test_wf_isCursor : Instr.wf (.smbAtticCur 65536) = false := by decide

theorem test_wf_isByte : Instr.wf (.smbUndefined 256) = false := by decide

theorem test_wf_isSword : Instr.wf (.smbTcp 32768) = false := by decide

theorem test_wf_isWorker : Instr.wf (.corDoorbellRx 0 1) = false := by decide

theorem test_wf_isWindow : Instr.wf (.windowAccess 0 0x1000000 none) = false := by decide

theorem test_wf_isCarrierPos : Instr.wf (.carrierFrameRx .a 65536 0 none [[], [], [], []]) = false := by decide

theorem test_wf_isHeaderRx : Instr.wf (.carrierFrameRx .a 0 0 (some ⟨[], []⟩) [[], [], [], []]) = false := by decide

theorem test_wf_isAdc : Instr.wf (.carrierFrameRx .a 0 0 none []) = false := by decide

theorem test_wf_isShaped : Instr.wf (.superframeBoundaryTx .a 4718593) = false := by decide

theorem test_wf_isBlockRx : Instr.wf (.fecBlockDecode .a ⟨1506, 0, [], [], 0⟩) = false := by decide

theorem test_wf_isBlock66 : Instr.wf (.segmentRx 0 ⟨⟨4, []⟩, [], [], ⟨0, []⟩, false⟩) = false := by decide

theorem test_wf_isSegment : Instr.wf (.segmentRx 0 ⟨⟨1, List.replicate 8 0⟩, [], [], ⟨1, List.replicate 8 0⟩, false⟩) = false := by decide

theorem test_wf_isCiphertext : Instr.wf (.loadKek .pf0 (some [0])) = false := by decide

theorem test_wf_isKeMsg : Instr.wf (.keRespRx .a ⟨[], [], [], []⟩) = false := by decide

theorem test_wf_isMac : Instr.wf (.keFinRx .a []) = false := by decide

theorem test_wf_areBytes : Instr.wf (.keFinRx .a (List.replicate 32 256)) = false := by decide

theorem test_wf_isMask : Instr.wf (.histClr .pf0 65536) = false := by decide

theorem test_wf_isContextMask : Instr.wf (.decReset .pf0 (2 ^ 24)) = false := by decide

theorem test_wf_admits : Instr.wf (.registerWrite .pf0 0x110104 77) = true := by decide

/-- The last region's last register is a register of BAR0. -/
theorem test_wf_admits_edge : Instr.wf (.rcRead .corridor 0x1FFFFFC) = true := by decide

/-! ### Worked examples of the spec -/

/-- R60's example: at 340 GBd with Ubmus-15, n = 57 gives 640 slots and n = 56 gives 634. -/
theorem test_slots_340 : slotsOf 1360 57 0 = 640 ∧ slotsOf 1360 56 0 = 634 := by decide +kernel

/-- R60's example: at H = 6.0, 314.5 GBd gives 640 slots and 314.25 GBd gives 639. -/
theorem test_slots_edge : slotsOf 1258 64 0 = 640 ∧ slotsOf 1257 64 0 = 639 := by decide +kernel

/-- The example of chapter 08: n = 8 at 340 GBd gives 288 slots. -/
theorem test_slots_shaped : slotsOf 1360 8 0 = 288 := by decide +kernel

/-- The example of chapter 04: a frame of 64 bytes takes 10 blocks, one of 1,500 bytes 189. -/
theorem test_blocks : State.reset.blocksOf 0 64 = 10 ∧ State.reset.blocksOf 0 1500 = 189 := by decide +kernel

/-- The example of chapter 14: a frame of 129 bytes takes 2 cells. -/
theorem test_cells : cellsOf 129 = 2 ∧ cellsOf 128 = 1 := by decide

/-- The example of chapter 14: with 200,000 free shared cells and ALPHA = 3 the limit is 25,000, and 12,500 for yellow
frames with YEL_SHIFT = 1. -/
theorem test_limit :
    (st [(.PAN_SHARED_FREE, [], 200000), (.PAN_EQ_CFG_ALPHA, [51], 3), (.PAN_EQ_CFG_YEL_SHIFT, [51], 1)]).limitFor 51 false
      = 25000 ∧
    (st [(.PAN_SHARED_FREE, [], 200000), (.PAN_EQ_CFG_ALPHA, [51], 3), (.PAN_EQ_CFG_YEL_SHIFT, [51], 1)]).limitFor 51 true
      = 12500 := by
  decide +kernel

/-- The example of chapter 20: the bins of 2,010 ns and of 420 ns. -/
theorem test_bins : histBin false 5 64 2010 = 30 ∧ histBin true 0 0 2010 = 11 ∧ histBin false 4 0 420 = 26 := by
  decide +kernel

/-- The example of chapter 04: with RAMP_MS = 100 one update moves the carrier by 0.003 dB. -/
theorem test_ramp : rampStep 100 = 300000 := by decide

/-- R401: LINE_CUR of the receiver of wing B lies at 0x21_0C00. -/
theorem test_addr : Row.RXW_LINE_CUR_H_IDX.addr [1] = 0x210C00 := by decide

/-- R4: GLB.ID of a module fresh from reset reads 0x6432 in its upper half. -/
theorem test_id : State.reset.word 0 / 65536 = 0x6432 := by decide +kernel

/-! ### States and operands that meet the statements' hypotheses -/

theorem witness_StepRunsTheFrontCommand_0 :
    ∃ s : State, s.pending = [] :=
  ⟨State.reset, rfl⟩

theorem witness_CanonicalFormKept_0 :
    ∃ s t : State, s.wf ∧ step s = .next t :=
  ⟨State.reset, State.reset, by decide, rfl⟩

theorem witness_SecurityVersionNeverFalls_0 :
    ∃ s t : State, step s = .next t :=
  ⟨State.reset, State.reset, rfl⟩

theorem witness_IntNFollowsRequests_0 :
    ∃ v k : Nat, v < 32 ∧ k < 32 :=
  ⟨31, 0, by decide, by decide⟩

theorem witness_RejectedWrites_0 :
    ∃ s : State, s.flag .GLB_WR_REJECT_VALID = false ∧ s.attic.queue.length < 16 :=
  ⟨State.reset, by decide⟩

theorem witness_RejectedWrites_1 :
    ∃ s : State, s.flag .GLB_WR_REJECT_VALID = true :=
  ⟨st [(.GLB_WR_REJECT_VALID, [], 1)], by decide⟩

theorem witness_ImageCommands_0 :
    ∃ s : State, ∃ req : Req, s.takesFrom req = true ∧ s.secRuns = true :=
  ⟨running [], .pf0, by decide +kernel⟩

theorem witness_ImageCommands_0_1 :
    ∃ s : State, ∃ req : Req, s.takesFrom req = true ∧ s.secRuns = true :=
  ⟨{ st [] with boot := { Boot.reset with step := 5 } }, .pf0, by decide +kernel⟩

theorem witness_ImageCommands_0_2 :
    ∃ s : State, ∃ req : Req, s.takesFrom req = true ∧ s.secRuns = true :=
  ⟨running [(.SEC_IMG_STAT_BUSY, [], 1)], .pf0, by decide +kernel⟩

theorem witness_ImageCommands_1 :
    ∃ s : State, s.image.cmd = some .loadVerify ∧ s.dmaServes .image = true :=
  ⟨{ running [(.SEC_IMG_LEN_LEN, [], 1000000)] with
    image := { ImageState.reset with cmd := some .loadVerify }, host := { HostIf.reset with engine7 := [.image] } },
    by decide +kernel⟩

theorem witness_ImageCommands_1_1 :
    ∃ s : State, s.image.cmd = some .loadVerify ∧ s.dmaServes .image = true :=
  ⟨{ running [(.SEC_IMG_LEN_LEN, [], 1000000)] with
    image := { ImageState.reset with cmd := some .loadVerify }, host := { HostIf.reset with engine7 := [.image] } },
    by decide +kernel⟩

theorem witness_ImageCommands_1_2 :
    ∃ s : State, s.image.cmd = some .loadVerify ∧ s.dmaServes .image = true :=
  ⟨{ running [(.SEC_IMG_LEN_LEN, [], 1000000)] with
    image := { ImageState.reset with cmd := some .loadVerify }, host := { HostIf.reset with engine7 := [.image] } },
    by decide +kernel⟩

theorem witness_ImageCommands_2 :
    ∃ s : State, s.image.cmd = some .loadVerify ∧ s.dmaServes .image = true :=
  ⟨{ running [] with
    image := { ImageState.reset with cmd := some .loadVerify }, host := { HostIf.reset with engine7 := [.image] } },
    by decide +kernel⟩

theorem witness_ImageCommands_3 :
    ∃ s : State, ∃ req : Req, s.takesFrom req = true ∧ s.secRuns = true ∧ (s.image.staged = none ∨ s.imgBlocked =
    true) :=
  ⟨running [], .pf0, by decide +kernel⟩

theorem witness_ImageCommands_4 :
    ∃ s : State, ∃ req : Req, ∃ i : Image, s.takesFrom req = true ∧ s.secRuns = true ∧ s.image.staged = some i ∧
    s.imgBlocked = false ∧ s.image.running = none :=
  ⟨{ st [(.GLB_BOOT_STAT_STAGE, [], 3)] with
    boot := { Boot.reset with step := 5 }, image := { ImageState.reset with staged := some img0 } }, .pf0, img0,
    by decide +kernel⟩

theorem witness_ImageCommands_5 :
    ∃ s : State, ∃ req : Req, ∃ i : Image, ∃ r : Image, s.takesFrom req = true ∧ s.secRuns = true ∧ s.image.staged =
    some i ∧ s.imgBlocked = false ∧ s.image.running = some r ∧ s.rd .SEC_IMG_STAT_SCOPE = 4 :=
  ⟨{ running [(.SEC_IMG_STAT_SCOPE, [], 4)] with
    image := { ImageState.reset with staged := some img0, running := some img0 } }, .pf0, img0, img0,
    by decide +kernel⟩

theorem witness_ImageCommands_6 :
    ∃ s : State, (s.image.cmd = some .confirm ∨ s.image.cmd = some .advanceSvn) :=
  ⟨{ running [] with image := { ImageState.reset with cmd := some .confirm } }, by decide +kernel⟩

theorem witness_ImageCommands_7 :
    ∃ s : State, s.image.cmd = some .activate ∧ s.activateReady = true ∧ s.image.staged = none ∧ s.dmaServes .image =
    true :=
  ⟨{ running [] with
    image := { ImageState.reset with cmd := some .activate }, host := { HostIf.reset with engine7 := [.image] } },
    by decide +kernel⟩

theorem witness_ImageCommands_8 :
    ∃ s : State, ∃ req : Req, ∃ i : Image, s.takesFrom req = true ∧ s.secRuns = true ∧ s.image.staged = some i ∧
    s.imgBlocked = false :=
  ⟨{ running [] with image := { ImageState.reset with staged := some img0 } }, .pf0, img0, by decide +kernel⟩

theorem witness_ImageCommands_9 :
    ∃ s : State, ∃ b : Bool, ∃ i : Image, s.image.cmd = some .program ∧ s.image.target = some b ∧ s.image.staged =
    some i ∧ s.dmaServes .image = true :=
  ⟨{ running [] with
    image := { ImageState.reset with cmd := some .program, target := some true, staged := some img0 },
    host := { HostIf.reset with engine7 := [.image] } }, true, img0, by decide +kernel⟩

theorem witness_ImageCommands_10 :
    ∃ s : State, ∃ req : Req, s.takesFrom req = true ∧ s.secRuns = true ∧ s.imgBlocked = false :=
  ⟨{ running [(.GLB_FP_INFO_SOURCE, [], 0)] with
    image := { ImageState.reset with bankA := ⟨.new, 4, 1, some img0⟩ } }, .pf0, by decide +kernel⟩

theorem witness_ImageCommands_11 :
    ∃ s : State, ∃ req : Req, s.takesFrom req = true ∧ s.secRuns = true :=
  ⟨running [], .pf0, by decide +kernel⟩

theorem witness_ImageCommands_11_1 :
    ∃ s : State, ∃ req : Req, s.takesFrom req = true ∧ s.secRuns = true :=
  ⟨running [(.GLB_FP_INFO_CONFIRMED, [], 1), (.GLB_FP_INFO_SVN, [], 5)], .pf0, by decide +kernel⟩

theorem witness_ImageCommands_11_2 :
    ∃ s : State, ∃ req : Req, s.takesFrom req = true ∧ s.secRuns = true :=
  ⟨{ st [(.GLB_FP_INFO_CONFIRMED, [], 1)] with boot := { Boot.reset with step := 5 } }, .pf0, by decide +kernel⟩

theorem witness_ImageCommands_12 :
    ∃ s : State, ∃ req : Req, s.takesFrom req = true ∧ s.secRuns = true ∧ (s.image.cmd = none ∨ s.image.cmd =
    some .loadVerify ∨ s.image.cmd = some .program) :=
  ⟨{ running [] with image := { ImageState.reset with cmd := some .program, staged := some img0 } }, .pf0,
    by decide +kernel⟩

theorem witness_StartUp_0 :
    ∃ s : State, s.boot.step = 1 :=
  ⟨{ st [] with boot := { Boot.reset with step := 1 } }, by decide +kernel⟩

theorem witness_StartUp_1 :
    ∃ s : State, s.boot.step = 2 :=
  ⟨{ st [] with boot := { Boot.reset with step := 2 } }, by decide +kernel⟩

theorem witness_StartUp_1_1 :
    ∃ s : State, s.boot.step = 2 :=
  ⟨{ st [] with boot := { Boot.reset with step := 2 } }, by decide +kernel⟩

theorem witness_StartUp_2 :
    ∃ s : State, s.boot.step = 3 :=
  ⟨{ st [] with boot := { Boot.reset with step := 3 } }, by decide +kernel⟩

theorem witness_StartUp_2_1 :
    ∃ s : State, s.boot.step = 3 :=
  ⟨{ st [] with boot := { Boot.reset with step := 3, wake := true, selfTestPassed := true } }, by decide +kernel⟩

theorem witness_StartUp_2_2 :
    ∃ s : State, s.boot.step = 3 :=
  ⟨{ st [(.GLB_BOOT_STAT_BOOT_SRC, [], 1)] with
    boot := { Boot.reset with step := 3, wake := true, selfTestPassed := true } }, by decide +kernel⟩

theorem witness_StartUp_3 :
    ∃ s : State, s.boot.step = 4 ∧ s.rd .GLB_BOOT_STAT_STAGE = 1 :=
  ⟨{ st [(.GLB_BOOT_STAT_STAGE, [], 1)] with boot := { Boot.reset with step := 4 } }, by decide +kernel⟩

theorem witness_StartUp_3_1 :
    ∃ s : State, s.boot.step = 4 ∧ s.rd .GLB_BOOT_STAT_STAGE = 1 :=
  ⟨{ st [(.GLB_BOOT_STAT_STAGE, [], 1)] with boot := { Boot.reset with step := 4 } }, by decide +kernel⟩

theorem witness_StartUp_3_2 :
    ∃ s : State, s.boot.step = 4 ∧ s.rd .GLB_BOOT_STAT_STAGE = 1 :=
  ⟨{ st [(.GLB_BOOT_STAT_STAGE, [], 1), (.GLB_BOOT_STAT_BOOT_SRC, [], 1)] with
    boot := { Boot.reset with step := 4 } }, by decide +kernel⟩

theorem witness_StartUp_4 :
    ∃ s : State, s.boot.step = 5 ∧ s.rd .GLB_BOOT_STAT_STAGE = 2 ∧ s.image.bankA.eligible = false ∧
    s.image.bankB.eligible = false :=
  ⟨{ st [(.GLB_BOOT_STAT_STAGE, [], 2)] with boot := { Boot.reset with step := 5 } }, by decide +kernel⟩

theorem witness_StartUp_5 :
    ∃ s : State, ∃ i : Image, s.boot.step = 6 ∧ s.image.running = some i ∧ s.power.queue = [] :=
  ⟨{ { st [(.GLB_BOOT_STAT_STAGE, [], 4)] with boot := { Boot.reset with step := 6 } } with
    image := { ImageState.reset with running := some img0 } }, img0, by decide +kernel⟩

theorem witness_StartUp_6 :
    ∃ s : State, ∃ w : Wing, s.isRunning = true ∧ s.wingEnabled w = true ∧ s.wingState w = 0 ∧ s.wingStepReady w =
    true :=
  ⟨{ running [(.CNV_ADC_CLK_LOCKED, [0], 1), (.CNV_DAC_CLK_LOCKED, [0], 1)] with
    boot := { Boot.reset with step := 7, wing := ⟨1, 1⟩ } }, .a, by decide +kernel⟩

theorem witness_StartUp_6_1 :
    ∃ s : State, ∃ w : Wing, s.isRunning = true ∧ s.wingEnabled w = true ∧ s.wingState w = 0 ∧ s.wingStepReady w =
    true :=
  ⟨{ running [(.RXW_RX_STAT_STATE, [0], 11)] with boot := { Boot.reset with step := 7, wing := ⟨4, 1⟩ } }, .a,
    by decide +kernel⟩

theorem witness_CarrierFramesAndSuperframes_0 :
    ∃ s : State, ∃ w : Wing, s.wingRuns w = true ∧ s.flag .TXW_LINE_NEXT_ANN_VALID [w.n] = true ∧
    (s.tx.get w).fresh = false :=
  ⟨running [(.TXW_LINE_NEXT_ANN_VALID, [0], 1), (.TXW_LINE_NEXT_COUNTDOWN, [0], 1), (.TXW_SHAPE_CLIP, [0], 20)], .a,
    by decide +kernel⟩

theorem witness_CarrierFramesAndSuperframes_0_1 :
    ∃ s : State, ∃ w : Wing, s.wingRuns w = true ∧ s.flag .TXW_LINE_NEXT_ANN_VALID [w.n] = true ∧
    (s.tx.get w).fresh = false :=
  ⟨running [(.TXW_LINE_NEXT_ANN_VALID, [0], 1), (.TXW_LINE_NEXT_COUNTDOWN, [0], 17), (.TXW_SHAPE_CLIP, [0], 20)], .a,
    by decide +kernel⟩

theorem witness_CarrierFramesAndSuperframes_1 :
    ∃ s : State, ∃ w : Wing, s.wingRuns w = true ∧ s.flag .TXW_LINE_NEXT_ANN_VALID [w.n] = false :=
  ⟨running [], .a, by decide +kernel⟩

theorem witness_CarrierFramesAndSuperframes_2 :
    ∃ s : State, ∃ w : Wing, 64 ≤ (s.rx.get w).noHeader :=
  ⟨running [], .a, by decide +kernel⟩

theorem witness_CarrierFramesAndSuperframes_3 :
    ∃ s : State, ∃ w : Wing, 2 ≤ (s.rx.get w).goodSf :=
  ⟨{ running [] with rx := ⟨{ RxLine.reset with goodSf := 2 }, RxLine.reset⟩ }, .a, by decide +kernel⟩

theorem witness_CarrierFramesAndSuperframes_4 :
    ∃ s : State, ∃ w : Wing, ∃ pos : Nat, s.wingRuns w = true ∧ s.flag .RXW_HDR_STAT_CF_ALIGNED [w.n] = true ∧ pos =
    (s.rx.get w).position :=
  ⟨running [(.RXW_HDR_STAT_CF_ALIGNED, [0], 1)], .a, 0, by decide +kernel⟩

theorem witness_CarrierFramesAndSuperframes_4_1 :
    ∃ s : State, ∃ w : Wing, ∃ pos : Nat, s.wingRuns w = true ∧ s.flag .RXW_HDR_STAT_CF_ALIGNED [w.n] = true ∧ pos =
    (s.rx.get w).position :=
  ⟨running [(.RXW_HDR_STAT_CF_ALIGNED, [0], 1)], .a, 0, by decide +kernel⟩

theorem witness_CarrierFramesAndSuperframes_5 :
    ∃ s : State, ∃ w : Wing, ∃ pos : Nat, s.flag .RXW_HDR_STAT_CF_ALIGNED [w.n] = true ∧
    pos ≠ (s.rx.get w).position :=
  ⟨running [(.RXW_HDR_STAT_CF_ALIGNED, [0], 1)], .a, 1, by decide +kernel⟩

theorem witness_CarrierFramesAndSuperframes_6 :
    ∃ s : State, ∃ w : Wing, ∃ pos : Nat, ∃ corr : Nat, s.wingRuns w = true ∧ s.flag .RXW_HDR_STAT_CF_ALIGNED [w.n] =
    false ∧ s.searches w = true ∧ 500 ≤ corr ∧ (s.rx.get w).candidate = pos + 1 :=
  ⟨{ running [(.RXW_RX_STAT_STATE, [0], 6), (.OPT_RX_STAT_LOS, [0], 0)] with
    rx := ⟨{ RxLine.reset with candidate := 8 }, RxLine.reset⟩ }, .a, 7, 500, by decide +kernel⟩

theorem witness_CarrierFramesAndSuperframes_7 :
    ∃ s : State, ∃ w : Wing, ∃ pos : Nat, ∃ f : HeaderRx, s.wingRuns w = true ∧
    s.flag .RXW_HDR_STAT_CF_ALIGNED [w.n] = true ∧ pos = (s.rx.get w).position ∧ headerOk (rxHeader f) = true ∧
    s.flag .RXW_HDR_STAT_SF_ALIGNED [w.n] = true ∧ (s.rx.get w).taken = none :=
  ⟨running [(.RXW_HDR_STAT_CF_ALIGNED, [0], 1), (.RXW_HDR_STAT_SF_ALIGNED, [0], 1)], .a, 0, softOf hdr0,
    by decide +kernel⟩

theorem witness_CarrierFramesAndSuperframes_8 :
    ∃ s : State, ∃ w : Wing, s.wingRuns w = true :=
  ⟨running [], .a, by decide +kernel⟩

theorem witness_CarrierFramesAndSuperframes_9 :
    ∃ s : State, ∃ w : Wing, ∃ a : AnnRecord, (s.rx.get w).switchDue = true ∧ (s.rx.get w).record = some a :=
  ⟨{ running [] with
    rx := ⟨{ RxLine.reset with switchDue := true, record := some ⟨1, 40, 0, 100, 1⟩ }, RxLine.reset⟩ }, .a, ⟨1, 40,
    0, 100, 1⟩, by decide +kernel⟩

theorem witness_LasersAndTuning_0 :
    ∃ s : State, ∃ req : Req, s.takesFrom req = true :=
  ⟨running [], .pf0, by decide +kernel⟩

theorem witness_LasersAndTuning_0_1 :
    ∃ s : State, ∃ req : Req, s.takesFrom req = true :=
  ⟨running [], .pf0, by decide +kernel⟩

theorem witness_LasersAndTuning_0_2 :
    ∃ s : State, ∃ req : Req, s.takesFrom req = true :=
  ⟨running [], .pf0, by decide +kernel⟩

theorem witness_LasersAndTuning_0_3 :
    ∃ s : State, ∃ req : Req, s.takesFrom req = true :=
  ⟨running [], .pf0, by decide +kernel⟩

theorem witness_LasersAndTuning_0_4 :
    ∃ s : State, ∃ req : Req, s.takesFrom req = true :=
  ⟨running [], .pf0, by decide +kernel⟩

theorem witness_LasersAndTuning_1 :
    ∃ s : State, ∃ w : Wing, ∃ req : Req, ∃ ch : Int, s.takesFrom req = true ∧ s.opticsOn w = true ∧ s.chOk ch =
    true ∧ s.rdS .OPT_TX_FREQ_CH [w.n] ≠ ch ∧ s.optState w = 3 :=
  ⟨running [(.OPT_TX_STAT_STATE, [0], 3), (.OPT_TX_STAT_FREQ_LOCKED, [0], 1)], .a, .pf0, 100, by decide +kernel⟩

theorem witness_LasersAndTuning_2 :
    ∃ s : State, ∃ req : Req, s.takesFrom req = true :=
  ⟨running [], .pf0, by decide +kernel⟩

theorem witness_LasersAndTuning_2_1 :
    ∃ s : State, ∃ req : Req, s.takesFrom req = true :=
  ⟨running [], .pf0, by decide +kernel⟩

theorem witness_LasersAndTuning_2_2 :
    ∃ s : State, ∃ req : Req, s.takesFrom req = true :=
  ⟨running [], .pf0, by decide +kernel⟩

theorem witness_LasersAndTuning_2_3 :
    ∃ s : State, ∃ req : Req, s.takesFrom req = true :=
  ⟨running [], .pf0, by decide +kernel⟩

theorem witness_LasersAndTuning_3 :
    ∃ s : State, ∃ w : Wing, s.optState w = 1 :=
  ⟨running [(.OPT_TX_STAT_STATE, [0], 1)], .a, by decide +kernel⟩

theorem witness_LasersAndTuning_4 :
    ∃ s : State, ∃ w : Wing, s.optState w = 1 :=
  ⟨running [(.OPT_TX_STAT_STATE, [0], 1)], .a, by decide +kernel⟩

theorem witness_LasersAndTuning_5 :
    ∃ s : State, ∃ w : Wing, (s.opt.get w).loTuning = true :=
  ⟨{ running [] with opt := ⟨{ Optics.reset with loTuning := true }, Optics.reset⟩ }, .a, by decide +kernel⟩

theorem witness_LightAndPower_0 :
    ∃ s : State, ∃ req : Req, s.takesFrom req = true :=
  ⟨running [], .pf0, by decide +kernel⟩

theorem witness_LightAndPower_0_1 :
    ∃ s : State, ∃ req : Req, s.takesFrom req = true :=
  ⟨running [], .pf0, by decide +kernel⟩

theorem witness_LightAndPower_0_2 :
    ∃ s : State, ∃ req : Req, s.takesFrom req = true :=
  ⟨running [], .pf0, by decide +kernel⟩

theorem witness_LightAndPower_1 :
    ∃ s : State, ∃ w : Wing, s.optState w = 2 ∧ (s.takeTxCtl w).mayLight w = true :=
  ⟨{ running [(.OPT_TX_STAT_STATE, [0], 2), (.OPT_TX_STAT_FREQ_LOCKED, [0], 1), (.CNV_DAC_CLK_LOCKED, [0], 1),
    (.OPT_TX_CTL_RAMP_MS, [0], 20), (.OPT_TX_CTL_ENABLE, [0], 1)] with
    opt := ⟨{ Optics.reset with dacDue := false, level := -3000000000 }, Optics.reset⟩,
    pins := { Pins.reset with txDis := ⟨false, false⟩ } }, .a, by decide +kernel⟩

theorem witness_LightAndPower_1_1 :
    ∃ s : State, ∃ w : Wing, s.optState w = 2 ∧ (s.takeTxCtl w).mayLight w = true :=
  ⟨{ running [(.OPT_TX_STAT_STATE, [0], 2), (.OPT_TX_STAT_FREQ_LOCKED, [0], 1), (.CNV_DAC_CLK_LOCKED, [0], 1),
    (.OPT_TX_CTL_RAMP_MS, [0], 20), (.OPT_TX_CTL_ENABLE, [0], 1)] with
    opt := ⟨{ Optics.reset with dacDue := false, level := -5 }, Optics.reset⟩,
    pins := { Pins.reset with txDis := ⟨false, false⟩ } }, .a, by decide +kernel⟩

theorem witness_LightAndPower_2 :
    ∃ s : State, ∃ w : Wing, s.optState w = 4 ∧ (s.takeTxCtl w).mayLight w = false :=
  ⟨{ running [(.OPT_TX_STAT_STATE, [0], 4), (.OPT_TX_CTL_RAMP_MS, [0], 20)] with
    opt := ⟨{ Optics.reset with level := 0 }, Optics.reset⟩ }, .a, by decide +kernel⟩

theorem witness_LightAndPower_2_1 :
    ∃ s : State, ∃ w : Wing, s.optState w = 4 ∧ (s.takeTxCtl w).mayLight w = false :=
  ⟨{ running [(.OPT_TX_STAT_STATE, [0], 4), (.OPT_TX_CTL_RAMP_MS, [0], 20)] with
    opt := ⟨{ Optics.reset with level := -2999999999, retune := true }, Optics.reset⟩ }, .a, by decide +kernel⟩

theorem witness_LightAndPower_2_2 :
    ∃ s : State, ∃ w : Wing, s.optState w = 4 ∧ (s.takeTxCtl w).mayLight w = false :=
  ⟨{ running [(.OPT_TX_STAT_STATE, [0], 4), (.OPT_TX_CTL_RAMP_MS, [0], 20)] with
    opt := ⟨{ Optics.reset with level := -2999999999 }, Optics.reset⟩ }, .a, by decide +kernel⟩

theorem witness_LightAndPower_3 :
    ∃ s : State, ∃ w : Wing, s.optState w = 3 :=
  ⟨running [(.OPT_TX_STAT_STATE, [0], 3), (.OPT_TX_STAT_FREQ_LOCKED, [0], 1)], .a, by decide +kernel⟩

theorem witness_LightAndPower_3_1 :
    ∃ s : State, ∃ w : Wing, s.optState w = 3 :=
  ⟨{ running [(.OPT_TX_STAT_STATE, [0], 3), (.OPT_TX_STAT_FREQ_LOCKED, [0], 1)] with
    opt := ⟨{ Optics.reset with offMs := 9, level := 5 }, Optics.reset⟩ }, .a, by decide +kernel⟩

theorem witness_LightAndPower_3_2 :
    ∃ s : State, ∃ w : Wing, s.optState w = 3 :=
  ⟨{ running [(.OPT_TX_STAT_STATE, [0], 3), (.OPT_TX_STAT_POWER_MEAS, [0], 200)] with
    opt := ⟨{ Optics.reset with offMs := 9 }, Optics.reset⟩ }, .a, by decide +kernel⟩

theorem witness_LightAndPower_4 :
    ∃ s : State, ∃ w : Wing, s.pins.txDis.get w = false :=
  ⟨{ running [] with pins := { Pins.reset with txDis := ⟨false, false⟩ } }, .a, by decide +kernel⟩

theorem witness_LightAndPower_6 :
    ∃ s : State, ∃ w : Wing, s.flag .CNV_DAC_CAL_BUSY [w.n] = true ∧ s.flag .CNV_DAC_CLK_LOCKED [w.n] = true :=
  ⟨running [(.CNV_DAC_CAL_BUSY, [0], 1), (.CNV_DAC_CLK_LOCKED, [0], 1)], .a, by decide +kernel⟩

theorem witness_LightAndPower_6_1 :
    ∃ s : State, ∃ w : Wing, s.flag .CNV_DAC_CAL_BUSY [w.n] = true ∧ s.flag .CNV_DAC_CLK_LOCKED [w.n] = true :=
  ⟨running [(.CNV_DAC_CAL_BUSY, [0], 1), (.CNV_DAC_CLK_LOCKED, [0], 1)], .a, by decide +kernel⟩

theorem witness_SecondPassAndWindow_0 :
    ∃ s : State, ∃ w : Wing, s.use .RXW_SP2_CTL_MODE [w.n] = 2 ∧ s.rd .RXW_RX_STAT_STATE [w.n] = 11 ∧ s.sp2Calm w =
    true ∧ s.rdS .RXW_FOM_MARGIN_MARGIN [w.n] < 10 * s.useS .RXW_SP2_CTL_ON_TH [w.n] ∧
    s.flag .RXW_SP2_STAT_ACTIVE [w.n] = false :=
  ⟨running [(.RXW_RX_STAT_STATE, [0], 11), (.RXW_SP2_CTL_MODE, [0], 2), (.RXW_SP2_CTL_ON_TH, [0], 10)], .a,
    by decide +kernel⟩

theorem witness_SecondPassAndWindow_1 :
    ∃ s : State, ∃ w : Wing, s.use .RXW_SP2_CTL_MODE [w.n] = 2 ∧ s.flag .RXW_SP2_STAT_ACTIVE [w.n] = true ∧
    s.sp2Calm w = true ∧ 10 * s.offTh w < s.firstMargin w :=
  ⟨running [(.RXW_RX_STAT_STATE, [0], 11), (.RXW_SP2_CTL_MODE, [0], 2), (.RXW_SP2_STAT_ACTIVE, [0], 1),
    (.RXW_FOM_EFF_SNR_P1, [0], 6000)], .a, by decide +kernel⟩

theorem witness_SecondPassAndWindow_2 :
    ∃ s : State, ∃ w : Wing, s.flag .RXW_SP2_STAT_WAIT_PWR [w.n] = true ∧ s.power.up.contains (.secondPass w) =
    true ∧ s.rd .RXW_RX_STAT_STATE [w.n] = 11 :=
  ⟨{ running [(.RXW_RX_STAT_STATE, [0], 11), (.RXW_SP2_STAT_WAIT_PWR, [0], 1)] with
    power := { Power.reset with up := [.secondPass .a] } }, .a, by decide +kernel⟩

theorem witness_SecondPassAndWindow_3 :
    ∃ s : State, ∃ w : Wing, s.flag .RXW_SP2_STAT_ACTIVE [w.n] = true ∧ ((s.rx.get w).sp2Stop || s.shedding) = true :=
  ⟨{ running [(.RXW_RX_STAT_STATE, [0], 11), (.RXW_SP2_STAT_ACTIVE, [0], 1)] with
    rx := ⟨{ RxLine.reset with sp2Stop := true }, RxLine.reset⟩ }, .a, by decide +kernel⟩

theorem witness_SecondPassAndWindow_5 :
    ∃ s : State, ∃ w : Wing, s.rxState w = 11 ∧ s.windowFull w = true :=
  ⟨{ running [(.RXW_RX_STAT_STATE, [0], 11)] with
    rx := ⟨{ RxLine.reset with window := ⟨1, 6553600, 6553600, 6553600, 6553600, 9000, 30000, 1200⟩ },
    RxLine.reset⟩ }, .a, by decide +kernel⟩

theorem witness_SecondPassAndWindow_5_1 :
    ∃ s : State, ∃ w : Wing, s.rxState w = 11 ∧ s.windowFull w = true :=
  ⟨{ { running [(.RXW_RX_STAT_STATE, [0], 11), (.RXW_RATE_BAUD, [0], 1360)] with rx := ⟨{ RxLine.reset with window :=
    ⟨3, 16553600, 66553600, 9553600, 7553600, 9000, 30000, 3000⟩ }, RxLine.reset⟩ } with
    opt := ⟨{ Optics.reset with sec := { Optics.reset.sec with snrTrx := [(1360, 655360000)] } }, Optics.reset⟩ },
    .a, by decide +kernel⟩

theorem witness_AcquisitionSteps_0 :
    ∃ s : State, ∃ w : Wing, s.coreRuns = true ∧ s.rxState w = 0 ∧ s.canAcquire w = true :=
  ⟨running [(.RXW_RX_STAT_STATE, [0], 0), (.OPT_RX_STAT_LOS, [0], 0), (.OPT_TX_STAT_LO_LOCKED, [0], 1),
    (.CNV_ADC_CLK_LOCKED, [0], 1)], .a, by decide +kernel⟩

theorem witness_AcquisitionSteps_1 :
    ∃ s : State, ∃ w : Wing, s.coreRuns = true ∧ s.rxState w = 15 ∧ s.canAcquire w = true :=
  ⟨running [(.RXW_RX_STAT_STATE, [0], 15), (.OPT_RX_STAT_LOS, [0], 0), (.OPT_TX_STAT_LO_LOCKED, [0], 1),
    (.CNV_ADC_CLK_LOCKED, [0], 1)], .a, by decide +kernel⟩

theorem witness_AcquisitionSteps_2 :
    ∃ s : State, ∃ w : Wing, ∃ req : Req, s.takesFrom req = true ∧ s.canAcquire w = true ∧ s.coreRuns = true :=
  ⟨running [(.RXW_RX_STAT_STATE, [0], 11), (.OPT_RX_STAT_LOS, [0], 0), (.OPT_TX_STAT_LO_LOCKED, [0], 1),
    (.CNV_ADC_CLK_LOCKED, [0], 1)], .a, .pf0, by decide +kernel⟩

theorem witness_AcquisitionSteps_3 :
    ∃ s : State, ∃ w : Wing, ∃ reason : Fin 16, s.coreRuns = true ∧ (stepReasons (s.rxState w)).contains reason =
    true :=
  ⟨running [(.RXW_RX_STAT_STATE, [0], 10), (.OPT_RX_STAT_LOS, [0], 0), (.OPT_TX_STAT_LO_LOCKED, [0], 1),
    (.CNV_ADC_CLK_LOCKED, [0], 1)], .a, 7, by decide +kernel⟩

theorem witness_AcquisitionSteps_3_1 :
    ∃ s : State, ∃ w : Wing, ∃ reason : Fin 16, s.coreRuns = true ∧ (stepReasons (s.rxState w)).contains reason =
    true :=
  ⟨running [(.RXW_RX_STAT_STATE, [0], 3), (.OPT_RX_STAT_LOS, [0], 0), (.OPT_TX_STAT_LO_LOCKED, [0], 1),
    (.CNV_ADC_CLK_LOCKED, [0], 1)], .a, 2, by decide +kernel⟩

theorem witness_AcquisitionSteps_3_2 :
    ∃ s : State, ∃ w : Wing, ∃ reason : Fin 16, s.coreRuns = true ∧ (stepReasons (s.rxState w)).contains reason =
    true :=
  ⟨running [(.RXW_RX_STAT_STATE, [0], 1), (.OPT_RX_STAT_LOS, [0], 0), (.OPT_TX_STAT_LO_LOCKED, [0], 1),
    (.CNV_ADC_CLK_LOCKED, [0], 1)], .a, 7, by decide +kernel⟩

theorem witness_AcquisitionSteps_4 :
    ∃ s : State, ∃ w : Wing, s.coreRuns = true ∧ s.canAcquire w = true :=
  ⟨running [(.RXW_RX_STAT_STATE, [0], 10), (.OPT_RX_STAT_LOS, [0], 0), (.OPT_TX_STAT_LO_LOCKED, [0], 1),
    (.CNV_ADC_CLK_LOCKED, [0], 1)], .a, by decide +kernel⟩

theorem witness_AcquisitionSteps_4_1 :
    ∃ s : State, ∃ w : Wing, s.coreRuns = true ∧ s.canAcquire w = true :=
  ⟨running [(.RXW_RX_STAT_STATE, [0], 1), (.OPT_RX_STAT_LOS, [0], 0), (.OPT_TX_STAT_LO_LOCKED, [0], 1),
    (.CNV_ADC_CLK_LOCKED, [0], 1)], .a, by decide +kernel⟩

theorem witness_AcquisitionSteps_4_2 :
    ∃ s : State, ∃ w : Wing, s.coreRuns = true ∧ s.canAcquire w = true :=
  ⟨running [(.RXW_RX_STAT_STATE, [0], 2), (.OPT_RX_STAT_LOS, [0], 0), (.OPT_TX_STAT_LO_LOCKED, [0], 1),
    (.CNV_ADC_CLK_LOCKED, [0], 1)], .a, by decide +kernel⟩

theorem witness_AcquisitionSteps_4_3 :
    ∃ s : State, ∃ w : Wing, s.coreRuns = true ∧ s.canAcquire w = true :=
  ⟨running [(.RXW_RX_STAT_STATE, [0], 2), (.OPT_RX_STAT_LOS, [0], 0), (.OPT_TX_STAT_LO_LOCKED, [0], 1),
    (.CNV_ADC_CLK_LOCKED, [0], 1)], .a, by decide +kernel⟩

theorem witness_AcquisitionSteps_4_4 :
    ∃ s : State, ∃ w : Wing, s.coreRuns = true ∧ s.canAcquire w = true :=
  ⟨running [(.RXW_RX_STAT_STATE, [0], 2), (.OPT_RX_STAT_LOS, [0], 0), (.OPT_TX_STAT_LO_LOCKED, [0], 1),
    (.CNV_ADC_CLK_LOCKED, [0], 1)], .a, by decide +kernel⟩

theorem witness_AcquisitionSteps_4_5 :
    ∃ s : State, ∃ w : Wing, s.coreRuns = true ∧ s.canAcquire w = true :=
  ⟨running [(.RXW_RX_STAT_STATE, [0], 3), (.OPT_RX_STAT_LOS, [0], 0), (.OPT_TX_STAT_LO_LOCKED, [0], 1),
    (.CNV_ADC_CLK_LOCKED, [0], 1)], .a, by decide +kernel⟩

theorem witness_AcquisitionSteps_4_6 :
    ∃ s : State, ∃ w : Wing, s.coreRuns = true ∧ s.canAcquire w = true :=
  ⟨running [(.RXW_RX_STAT_STATE, [0], 4), (.OPT_RX_STAT_LOS, [0], 0), (.OPT_TX_STAT_LO_LOCKED, [0], 1),
    (.CNV_ADC_CLK_LOCKED, [0], 1)], .a, by decide +kernel⟩

theorem witness_AcquisitionSteps_4_7 :
    ∃ s : State, ∃ w : Wing, s.coreRuns = true ∧ s.canAcquire w = true :=
  ⟨running [(.RXW_RX_STAT_STATE, [0], 4), (.OPT_RX_STAT_LOS, [0], 0), (.OPT_TX_STAT_LO_LOCKED, [0], 1),
    (.CNV_ADC_CLK_LOCKED, [0], 1)], .a, by decide +kernel⟩

theorem witness_AcquisitionSteps_4_8 :
    ∃ s : State, ∃ w : Wing, s.coreRuns = true ∧ s.canAcquire w = true :=
  ⟨running [(.RXW_RX_STAT_STATE, [0], 4), (.OPT_RX_STAT_LOS, [0], 0), (.OPT_TX_STAT_LO_LOCKED, [0], 1),
    (.CNV_ADC_CLK_LOCKED, [0], 1)], .a, by decide +kernel⟩

theorem witness_AcquisitionSteps_4_9 :
    ∃ s : State, ∃ w : Wing, s.coreRuns = true ∧ s.canAcquire w = true :=
  ⟨running [(.RXW_RX_STAT_STATE, [0], 5), (.OPT_RX_STAT_LOS, [0], 0), (.OPT_TX_STAT_LO_LOCKED, [0], 1),
    (.CNV_ADC_CLK_LOCKED, [0], 1)], .a, by decide +kernel⟩

theorem witness_AcquisitionSteps_4_10 :
    ∃ s : State, ∃ w : Wing, s.coreRuns = true ∧ s.canAcquire w = true :=
  ⟨running [(.RXW_RX_STAT_STATE, [0], 5), (.OPT_RX_STAT_LOS, [0], 0), (.OPT_TX_STAT_LO_LOCKED, [0], 1),
    (.CNV_ADC_CLK_LOCKED, [0], 1)], .a, by decide +kernel⟩

theorem witness_AcquisitionSteps_4_11 :
    ∃ s : State, ∃ w : Wing, s.coreRuns = true ∧ s.canAcquire w = true :=
  ⟨running [(.RXW_RX_STAT_STATE, [0], 5), (.OPT_RX_STAT_LOS, [0], 0), (.OPT_TX_STAT_LO_LOCKED, [0], 1),
    (.CNV_ADC_CLK_LOCKED, [0], 1)], .a, by decide +kernel⟩

theorem witness_AcquisitionSteps_4_12 :
    ∃ s : State, ∃ w : Wing, s.coreRuns = true ∧ s.canAcquire w = true :=
  ⟨running [(.RXW_RX_STAT_STATE, [0], 6), (.OPT_RX_STAT_LOS, [0], 0), (.OPT_TX_STAT_LO_LOCKED, [0], 1),
    (.CNV_ADC_CLK_LOCKED, [0], 1)], .a, by decide +kernel⟩

theorem witness_AcquisitionSteps_4_13 :
    ∃ s : State, ∃ w : Wing, s.coreRuns = true ∧ s.canAcquire w = true :=
  ⟨running [(.RXW_RX_STAT_STATE, [0], 7), (.OPT_RX_STAT_LOS, [0], 0), (.OPT_TX_STAT_LO_LOCKED, [0], 1),
    (.CNV_ADC_CLK_LOCKED, [0], 1)], .a, by decide +kernel⟩

theorem witness_AcquisitionSteps_4_14 :
    ∃ s : State, ∃ w : Wing, s.coreRuns = true ∧ s.canAcquire w = true :=
  ⟨running [(.RXW_RX_STAT_STATE, [0], 8), (.OPT_RX_STAT_LOS, [0], 0), (.OPT_TX_STAT_LO_LOCKED, [0], 1),
    (.CNV_ADC_CLK_LOCKED, [0], 1)], .a, by decide +kernel⟩

theorem witness_AcquisitionSteps_4_15 :
    ∃ s : State, ∃ w : Wing, s.coreRuns = true ∧ s.canAcquire w = true :=
  ⟨running [(.RXW_RX_STAT_STATE, [0], 9), (.OPT_RX_STAT_LOS, [0], 0), (.OPT_TX_STAT_LO_LOCKED, [0], 1),
    (.CNV_ADC_CLK_LOCKED, [0], 1)], .a, by decide +kernel⟩

theorem witness_AcquisitionSteps_4_16 :
    ∃ s : State, ∃ w : Wing, s.coreRuns = true ∧ s.canAcquire w = true :=
  ⟨running [(.RXW_RX_STAT_STATE, [0], 10), (.OPT_RX_STAT_LOS, [0], 0), (.OPT_TX_STAT_LO_LOCKED, [0], 1),
    (.CNV_ADC_CLK_LOCKED, [0], 1)], .a, by decide +kernel⟩

theorem witness_LossAndTracking_0 :
    ∃ s : State, ∃ w : Wing, ∃ power : Int, s.flag .OPT_RX_STAT_LOS [w.n] = false ∧
    power < s.rdS .OPT_RX_LOS_LOS_TH [w.n] :=
  ⟨running [(.RXW_RX_STAT_STATE, [0], 11), (.OPT_RX_STAT_LOS, [0], 0), (.OPT_TX_STAT_LO_LOCKED, [0], 1),
    (.CNV_ADC_CLK_LOCKED, [0], 1)], .a, -9000, by decide +kernel⟩

theorem witness_LossAndTracking_1 :
    ∃ s : State, ∃ w : Wing, ∃ power : Int, s.flag .OPT_RX_STAT_LOS [w.n] = true ∧ s.wingEnabled w = true ∧
    s.rdS .OPT_RX_LOS_LOS_TH [w.n] + 10 * s.rd .OPT_RX_LOS_HYST [w.n] < power :=
  ⟨running [(.OPT_RX_STAT_LOS, [0], 1)], .a, 3000, by decide +kernel⟩

theorem witness_LossAndTracking_2 :
    ∃ s : State, ∃ w : Wing, s.coreRuns = true ∧ s.flag .RXW_HDR_STAT_CF_ALIGNED [w.n] = true ∧
    4 ≤ (s.rx.get w).misses :=
  ⟨{ running [(.RXW_RX_STAT_STATE, [0], 11), (.OPT_RX_STAT_LOS, [0], 0), (.OPT_TX_STAT_LO_LOCKED, [0], 1),
    (.CNV_ADC_CLK_LOCKED, [0], 1), (.RXW_HDR_STAT_CF_ALIGNED, [0], 1)] with
    rx := ⟨{ RxLine.reset with misses := 4 }, RxLine.reset⟩ }, .a, by decide +kernel⟩

theorem witness_LossAndTracking_3 :
    ∃ s : State, ∃ w : Wing, ∃ residual : Int, s.rxState w = 11 ∧ s.flag .RXW_CD_CFG_TRACK_EN [w.n] = true ∧
    50 < residual.natAbs :=
  ⟨running [(.RXW_RX_STAT_STATE, [0], 11), (.RXW_CD_CFG_TRACK_EN, [0], 1)], .a, 51, by decide +kernel⟩

theorem witness_LossAndTracking_3_1 :
    ∃ s : State, ∃ w : Wing, ∃ residual : Int, s.rxState w = 11 ∧ s.flag .RXW_CD_CFG_TRACK_EN [w.n] = true ∧
    50 < residual.natAbs :=
  ⟨running [(.RXW_RX_STAT_STATE, [0], 11), (.RXW_CD_CFG_TRACK_EN, [0], 1)], .a, -51, by decide +kernel⟩

theorem witness_LossAndTracking_3_2 :
    ∃ s : State, ∃ w : Wing, ∃ residual : Int, s.rxState w = 11 ∧ s.flag .RXW_CD_CFG_TRACK_EN [w.n] = true ∧
    50 < residual.natAbs :=
  ⟨running [(.RXW_RX_STAT_STATE, [0], 11), (.RXW_CD_CFG_TRACK_EN, [0], 1)], .a, 300000, by decide +kernel⟩

theorem witness_LossAndTracking_4 :
    ∃ s : State, ∃ w : Wing, s.flag .RXW_HDR_STAT_CF_ALIGNED [w.n] = true ∧ s.flag .RXW_EQ_STAT_CONVERGED [w.n] =
    true ∧ 64 ≤ (s.rx.get w).dsp.overRun :=
  ⟨{ running [(.RXW_RX_STAT_STATE, [0], 11), (.OPT_RX_STAT_LOS, [0], 0), (.OPT_TX_STAT_LO_LOCKED, [0], 1),
    (.CNV_ADC_CLK_LOCKED, [0], 1), (.RXW_HDR_STAT_CF_ALIGNED, [0], 1), (.RXW_EQ_STAT_CONVERGED, [0], 1)] with
    rx := ⟨{ RxLine.reset with dsp := { Dsp.reset with overRun := 64 } }, RxLine.reset⟩ }, .a, by decide +kernel⟩

theorem witness_LossAndTracking_5 :
    ∃ s : State, ∃ w : Wing, (s.rx.get w).eqStop = true ∧ (s.rx.get w).dsp.overRun = 0 :=
  ⟨{ running [(.RXW_RX_STAT_STATE, [0], 11), (.OPT_RX_STAT_LOS, [0], 0), (.OPT_TX_STAT_LO_LOCKED, [0], 1),
    (.CNV_ADC_CLK_LOCKED, [0], 1)] with rx := ⟨{ RxLine.reset with eqStop := true }, RxLine.reset⟩ }, .a,
    by decide +kernel⟩

theorem witness_ConvertersAndRotation_0 :
    ∃ s : State, ∃ w : Wing, s.flag .CNV_ADC_CLK_LOCKED [w.n] = false :=
  ⟨running [], .a, by decide +kernel⟩

theorem witness_ConvertersAndRotation_2 :
    ∃ s : State, ∃ w : Wing, (s.conv.get w).foreground = true ∧ s.flag .CNV_ADC_CLK_LOCKED [w.n] = true :=
  ⟨{ running [(.CNV_ADC_CLK_LOCKED, [0], 1)] with conv := ⟨{ Conv.reset with foreground := true }, Conv.reset⟩ }, .a,
    by decide +kernel⟩

theorem witness_ConvertersAndRotation_3 :
    ∃ s : State, ∃ w : Wing, ∃ req : Req, s.takesFrom req = true ∧ s.wingStopped w = true ∧
    s.flag .CNV_ADC_CLK_LOCKED [w.n] = true :=
  ⟨running [(.CNV_ADC_CLK_LOCKED, [0], 1), (.PWR_STATE_STAT_WING_A, [], 1)], .a, .pf0, by decide +kernel⟩

theorem witness_ConvertersAndRotation_4 :
    ∃ s : State, ∃ w : Wing, ∃ req : Req, s.takesFrom req = true ∧ s.wingStopped w = false ∧
    (s.conv.get w).foreground = false ∧ s.handsOver w = false :=
  ⟨running [(.CNV_ADC_CLK_LOCKED, [0], 1)], .a, .pf0, by decide +kernel⟩

theorem witness_ConvertersAndRotation_5 :
    ∃ s : State, ∃ w : Wing, ∃ req : Req, s.takesFrom req = true ∧ s.wingStopped w = false ∧ s.handsOver w = true :=
  ⟨running [(.CNV_ADC_CLK_LOCKED, [0], 1), (.CNV_CAL_CTL_BG_EN, [0], 1), (.CNV_CAL_STAT_ROTATING, [0, 2], 1)], .a,
    .pf0, by decide +kernel⟩

theorem witness_ConvertersAndRotation_6 :
    ∃ s : State, ∃ w : Wing, ∃ d : Fin 4, (s.dim w d).phase = .calibrating ∧ s.convWorks w = true ∧
    s.parkTarget w d = none :=
  ⟨{ running [] with
    conv := ⟨{ Conv.reset with dims := [(1, { ConvDim.reset with phase := .calibrating })] }, Conv.reset⟩ }, .a, 1,
    by decide +kernel⟩

theorem witness_ConvertersAndRotation_6_1 :
    ∃ s : State, ∃ w : Wing, ∃ d : Fin 4, (s.dim w d).phase = .calibrating ∧ s.convWorks w = true ∧
    s.parkTarget w d = none :=
  ⟨{ running [(.OPT_RX_STAT_LOS, [0], 0)] with
    conv := ⟨{ Conv.reset with dims := [(1, { ConvDim.reset with phase := .calibrating })] }, Conv.reset⟩ }, .a, 1,
    by decide +kernel⟩

theorem witness_ConvertersAndRotation_7 :
    ∃ s : State, ∃ w : Wing, ∃ d : Fin 4, (s.dim w d).phase = .overlap ∧ s.wingStopped w = false :=
  ⟨{ running [(.CNV_CAL_STAT_RISING, [0, 1], 1), (.CNV_CAL_STAT_SPARE, [0, 1], 5)] with
    conv := ⟨{ Conv.reset with
    dims := [(1, { ConvDim.reset with phase := .overlap, trims := some ⟨2005, -42, 3, 44, 2, 5⟩ })] }, Conv.reset⟩ },
    .a, 1, by decide +kernel⟩

theorem witness_ConvertersAndRotation_8 :
    ∃ s : State, ∃ w : Wing, ∃ d : Fin 4, (s.dim w d).phase = .dwell ∧ s.mayRotate w d = true ∧ s.convWorks w =
    true ∧ s.coreRuns = true :=
  ⟨{ running [(.CNV_CAL_CTL_BG_EN, [0], 1), (.CNV_ADC_CLK_LOCKED, [0], 1), (.CNV_QUAL_VALID, [0, 1], 1)] with
    conv := ⟨{ Conv.reset with dims := [(1, { ConvDim.reset with phase := .dwell })] }, Conv.reset⟩ }, .a, 1,
    by decide +kernel⟩

theorem witness_ConvertersAndRotation_9 :
    ∃ s : State, ∃ w : Wing, ∃ req : Req, s.takesFrom req = true ∧ (s.handsOver w && !s.wingStopped w) = false :=
  ⟨running [], .a, .pf0, by decide +kernel⟩

theorem witness_ConvertersAndRotation_10 :
    ∃ s : State, ∃ w : Wing, ∃ req : Req, s.takesFrom req = true ∧ s.handsOver w = true ∧ s.wingStopped w = false :=
  ⟨running [(.CNV_CAL_CTL_BG_EN, [0], 1), (.CNV_CAL_STAT_ROTATING, [0, 2], 1)], .a, .pf0, by decide +kernel⟩

theorem witness_SupervisorySequence_0 :
    ∃ s : State, s.supRuns = true ∧ s.sup.running = none ∧ s.flag .SUP_CAL_CTL_BUSY = false :=
  ⟨running [(.SUP_SEQ_SLOT_EN, [0], 1), (.SUP_SEQ_SLOT_CH, [0], 12), (.SUP_SEQ_CTL_LEN, [], 16)], by decide +kernel⟩

theorem witness_SupervisorySequence_0_1 :
    ∃ s : State, s.supRuns = true ∧ s.sup.running = none ∧ s.flag .SUP_CAL_CTL_BUSY = false :=
  ⟨{ running [(.SUP_SEQ_SLOT_EN, [0], 1), (.SUP_SEQ_SLOT_CH, [0], 17), (.SUP_DEC_CFG_SOURCE, [2], 17)] with
    sup := { Sup.reset with calDue := true, pending := [2] } }, by decide +kernel⟩

theorem witness_SupervisorySequence_0_2 :
    ∃ s : State, s.supRuns = true ∧ s.sup.running = none ∧ s.flag .SUP_CAL_CTL_BUSY = false :=
  ⟨running [(.SUP_SEQ_SLOT_EN, [0], 1), (.SUP_SEQ_SLOT_CH, [0], 17)], by decide +kernel⟩

theorem witness_SupervisorySequence_1 :
    ∃ s : State, ∃ k : Nat, ∃ ch : Nat, s.supRuns = true ∧ s.sup.running = some (k, [ch]) ∧ s.sup.pending = [] :=
  ⟨{ running [] with sup := { Sup.reset with running := some (2, [12]), slot := 3 } }, 2, 12, by decide +kernel⟩

theorem witness_SupervisorySequence_1_1 :
    ∃ s : State, ∃ k : Nat, ∃ ch : Nat, s.supRuns = true ∧ s.sup.running = some (k, [ch]) ∧ s.sup.pending = [] :=
  ⟨{ running [] with sup := { Sup.reset with running := some (2, [12]), slot := 3, anew := true } }, 2, 12,
    by decide +kernel⟩

theorem witness_SupervisorySequence_2 :
    ∃ s : State, ∃ k : Nat, ∃ ch : Nat, ∃ rest : List Nat, s.supRuns = true ∧ s.sup.running = some (k, ch :: rest) ∧
    rest ≠ [] :=
  ⟨{ running [] with sup := { Sup.reset with running := some (2, [12, 14]), slot := 3 } }, 2, 12, [14],
    by decide +kernel⟩

theorem witness_SupervisorySequence_3 :
    ∃ s : State, s.supRuns = true :=
  ⟨running [], by decide +kernel⟩

theorem witness_SupervisorySequence_3_1 :
    ∃ s : State, s.supRuns = true :=
  ⟨{ running [] with sup := { Sup.reset with pending := [4] } }, by decide +kernel⟩

theorem witness_SupervisorySequence_3_2 :
    ∃ s : State, s.supRuns = true :=
  ⟨{ running [] with sup := { Sup.reset with running := some (4, [1]) } }, by decide +kernel⟩

theorem witness_SupervisorySequence_4 :
    ∃ s : State, ∃ req : Req, s.takesFrom req = true ∧ s.supRuns = true :=
  ⟨running [], .pf0, by decide +kernel⟩

theorem witness_SupervisorySequence_4_1 :
    ∃ s : State, ∃ req : Req, s.takesFrom req = true ∧ s.supRuns = true :=
  ⟨{ running [] with sup := { Sup.reset with pending := [5] } }, .pf0, by decide +kernel⟩

theorem witness_DecimationAndSelfCalibration_0 :
    ∃ s : State, s.supRuns = true ∧ s.halted 6 = false :=
  ⟨{ running [(.SUP_DEC_CFG_SOURCE, [0], 12), (.SUP_DEC_CFG_SOURCE, [1], 0x3C)] with
    sup := { Sup.reset with input := [(0, [100, 200])], unsettled := [(0, 2)] } }, by decide +kernel⟩

theorem witness_DecimationAndSelfCalibration_1 :
    ∃ s : State, ∃ k : Fin 24, ∃ x : Int, s.supRuns = true ∧ s.halted 6 = false ∧ s.ctxSource k < 24 ∧
    tabGet [] s.sup.input k = [x] ∧
    ((tabGet DecFilter.zero s.sup.filters k).push (s.ctxN k) (s.ctxR k) (s.ctxD k) x).2.isSome = true :=
  ⟨{ running [(.SUP_DEC_CFG_SOURCE, [0], 12), (.SUP_DEC_CFG_R, [0], 1), (.SUP_DEC_CFG_FIR_D, [0], 0)] with
    sup := { Sup.reset with input := [(0, [100])], unsettled := [(0, 2)] } }, 0, 100, by decide +kernel⟩

theorem witness_DecimationAndSelfCalibration_1_1 :
    ∃ s : State, ∃ k : Fin 24, ∃ x : Int, s.supRuns = true ∧ s.halted 6 = false ∧ s.ctxSource k < 24 ∧
    tabGet [] s.sup.input k = [x] ∧
    ((tabGet DecFilter.zero s.sup.filters k).push (s.ctxN k) (s.ctxR k) (s.ctxD k) x).2.isSome = true :=
  ⟨{ running [(.SUP_DEC_CFG_SOURCE, [0], 12), (.SUP_DEC_CFG_R, [0], 1), (.SUP_DEC_CFG_FIR_D, [0], 0)] with
    sup := { Sup.reset with input := [(0, [10^9])] } }, 0, 10^9, by decide +kernel⟩

theorem witness_DecimationAndSelfCalibration_2 :
    ∃ s : State, ∃ req : Req, s.takesFrom req = true ∧ s.supRuns = true ∧ s.halted 6 = false :=
  ⟨running [], .pf0, by decide +kernel⟩

theorem witness_DecimationAndSelfCalibration_3 :
    ∃ s : State, ∃ req : Req, s.takesFrom req = true ∧ (s.supRuns && !s.halted 6) = false :=
  ⟨running [(.SUP_DEC_CFG_SOURCE, [0], 12), (.SUP_DEC_CFG_SOURCE, [1], 0x3F), (.GLB_BLK_CTL_STOPPED, [6], 1)], .pf0,
    by decide +kernel⟩

theorem witness_DecimationAndSelfCalibration_4 :
    ∃ s : State, ∃ req : Req, s.takesFrom req = true ∧ s.supRuns = true ∧ s.halted 6 = false :=
  ⟨running [], .pf0, by decide +kernel⟩

theorem witness_DecimationAndSelfCalibration_4_1 :
    ∃ s : State, ∃ req : Req, s.takesFrom req = true ∧ s.supRuns = true ∧ s.halted 6 = false :=
  ⟨running [(.SUP_CAL_CTL_BUSY, [], 1)], .pf0, by decide +kernel⟩

theorem witness_DecimationAndSelfCalibration_5 :
    ∃ s : State, s.coreRuns = true ∧ s.supRuns = true ∧ s.flag .SUP_CAL_CTL_AUTO_EN = true ∧
    s.flag .SUP_CAL_CTL_BUSY = false :=
  ⟨running [(.SUP_CAL_CTL_AUTO_EN, [], 1)], by decide +kernel⟩

theorem witness_DecimationAndSelfCalibration_5_1 :
    ∃ s : State, s.coreRuns = true ∧ s.supRuns = true ∧ s.flag .SUP_CAL_CTL_AUTO_EN = true ∧
    s.flag .SUP_CAL_CTL_BUSY = false :=
  ⟨running [(.SUP_CAL_CTL_AUTO_EN, [], 1), (.OPT_TX_STAT_STATE, [1], 2)], by decide +kernel⟩

theorem witness_DecimationAndSelfCalibration_6 :
    ∃ s : State, s.flag .SUP_CAL_CTL_BUSY = true ∧ s.sup.running = none ∧ s.sup.pending = [] :=
  ⟨running [(.SUP_CAL_CTL_BUSY, [], 1)], by decide +kernel⟩

theorem witness_UbmusDecoder_0 :
    ∃ s : State, ∃ w : Wing, ∃ h : HeldBlock, ∃ rest : List HeldBlock, s.decodes w = true ∧ (s.dec.get w).held =
    h :: rest ∧ 22 ≤ rest.length :=
  ⟨{ running [(.RXW_HDR_STAT_MAP_VALID, [0], 1), (.OPT_RX_STAT_LOS, [0], 0)] with
    dec := ⟨{ Decoder.reset with held := List.replicate 23 ⟨0, 1, 32, 1, 0, [5, -5]⟩ }, Decoder.reset⟩ }, .a, ⟨0, 1,
    32, 1, 0, [5, -5]⟩, List.replicate 22 ⟨0, 1, 32, 1, 0, [5, -5]⟩, by decide +kernel⟩

theorem witness_UbmusDecoder_0_1 :
    ∃ s : State, ∃ w : Wing, ∃ h : HeldBlock, ∃ rest : List HeldBlock, s.decodes w = true ∧ (s.dec.get w).held =
    h :: rest ∧ 22 ≤ rest.length :=
  ⟨{ running [(.RXW_HDR_STAT_MAP_VALID, [0], 1), (.OPT_RX_STAT_LOS, [0], 0)] with
    dec := ⟨{ Decoder.reset with held := List.replicate 23 ⟨0, 1, 32, 1, 0, [5, -5]⟩ }, Decoder.reset⟩ }, .a, ⟨0, 1,
    32, 1, 0, [5, -5]⟩, List.replicate 22 ⟨0, 1, 32, 1, 0, [5, -5]⟩, by decide +kernel⟩

theorem witness_UbmusDecoder_1 :
    ∃ s : State, ∃ w : Wing, s.decodes w = true ∧ (s.dec.get w).held.length < 23 :=
  ⟨running [(.RXW_HDR_STAT_MAP_VALID, [0], 1), (.OPT_RX_STAT_LOS, [0], 0)], .a, by decide +kernel⟩

theorem witness_UbmusDecoder_2 :
    ∃ s : State, ∃ w : Wing, s.flag .FEC_STAT_LOCKED [w.n] = false ∧ s.flag .RXW_HDR_STAT_MAP_VALID [w.n] = true ∧
    (s.dec.get w).zeros = 256 :=
  ⟨{ running [(.RXW_HDR_STAT_MAP_VALID, [0], 1)] with dec := ⟨{ Decoder.reset with zeros := 256 }, Decoder.reset⟩ },
    .a, by decide +kernel⟩

theorem witness_UbmusDecoder_3 :
    ∃ s : State, ∃ w : Wing, s.flag .FEC_STAT_LOCKED [w.n] = true ∧
    (decide (4 ≤ (s.dec.get w).dead) || !s.rxAtFec w || s.flag .OPT_RX_STAT_LOS [w.n]) = true :=
  ⟨{ running [(.FEC_STAT_LOCKED, [0], 1)] with dec := ⟨{ Decoder.reset with dead := 4 }, Decoder.reset⟩ }, .a,
    by decide +kernel⟩

theorem witness_UbmusDecoder_4 :
    ∃ s : State, ∃ w : Wing, s.flag .FEC_STAT_SF [w.n] = false ∧ 2 ≤ (s.dec.get w).failing :=
  ⟨{ running [(.FEC_STAT_SF, [0], 0)] with dec := ⟨{ Decoder.reset with failing := 2 }, Decoder.reset⟩ }, .a,
    by decide +kernel⟩

theorem witness_UbmusDecoder_5 :
    ∃ s : State, ∃ w : Wing, s.flag .FEC_STAT_SF [w.n] = true ∧ s.flag .FEC_STAT_LOCKED [w.n] = true ∧
    8 ≤ (s.dec.get w).clean :=
  ⟨{ running [(.FEC_STAT_SF, [0], 1), (.FEC_STAT_LOCKED, [0], 1)] with
    dec := ⟨{ Decoder.reset with clean := 8 }, Decoder.reset⟩ }, .a, by decide +kernel⟩

theorem witness_UbmusDecoder_6 :
    ∃ s : State, ∃ w : Wing, ∃ n : Nat, (s.dec.get w).window = some n ∧ 64 ≤ n ∧ (s.dec.get w).bits ≠ 0 :=
  ⟨{ running [] with
    dec := ⟨{ Decoder.reset with window := some 64, bits := 32768, errs := 9, ref := 1 }, Decoder.reset⟩ }, .a, 64,
    by decide +kernel⟩

theorem witness_UbmusDecoder_6_1 :
    ∃ s : State, ∃ w : Wing, ∃ n : Nat, (s.dec.get w).window = some n ∧ 64 ≤ n ∧ (s.dec.get w).bits ≠ 0 :=
  ⟨{ running [(.FEC_SF_CFG_SD_TH, [0], 64), (.FEC_STAT_SD, [0], 1)] with
    dec := ⟨{ Decoder.reset with window := some 64, bits := 32768, errs := 0, ref := 1, low := 1 }, Decoder.reset⟩ },
    .a, 64, by decide +kernel⟩

theorem witness_AnnouncementHandshake_0 :
    ∃ s : State, ∃ w : Wing, ∃ x : Wanted, s.txReady w = true ∧ s.flag .ELC_HS_STAT_ICM_RC [w.n] = false ∧
    s.wanted w = some x :=
  ⟨{ running [(.ELC_HS_STAT_STATE, [0], 0), (.ELC_HS_STAT_ICM_RC, [0], 0), (.ELC_HS_STAT_FLOOR_TX, [0], 0)] with
    tx := ⟨{ TxRate.reset with want := some ⟨40, 0, false⟩ }, TxRate.reset⟩ }, .a, ⟨40, 0, false⟩, by decide +kernel⟩

theorem witness_AnnouncementHandshake_1 :
    ∃ s : State, ∃ w : Wing, s.rd .ELC_HS_STAT_STATE [w.n] = 1 ∧ s.flag .TXW_LINE_NEXT_ANN_VALID [w.n] = true ∧
    s.rd .TXW_LINE_NEXT_COUNTDOWN [w.n] = 4 :=
  ⟨running [(.ELC_HS_STAT_STATE, [0], 1), (.TXW_LINE_NEXT_ANN_VALID, [0], 1), (.TXW_LINE_NEXT_COUNTDOWN, [0], 4)],
    .a, by decide +kernel⟩

theorem witness_AnnouncementHandshake_2 :
    ∃ s : State, ∃ w : Wing, ∃ x : Wanted, (s.tx.get w).switchDue = true ∧ (s.tx.get w).now = some x :=
  ⟨{ running [] with
    tx := ⟨{ TxRate.reset with
    switchDue := true, now := some ⟨40, 0, false⟩, annEnabled := 1, annMap := List.replicate 640 63,
    annCounts := List.replicate 32 0 }, TxRate.reset⟩ }, .a, ⟨40, 0, false⟩, by decide +kernel⟩

theorem witness_AnnouncementHandshake_3 :
    ∃ s : State, ∃ w : Wing, ∃ x : Wanted, s.wingRuns w = true ∧ s.rd .ELC_HS_STAT_STATE [w.n] = 3 ∧
    4 ≤ (s.tx.get w).sinceWithdrawal ∧ s.wanted w = some x :=
  ⟨{ running [(.ELC_HS_STAT_STATE, [0], 3), (.ELC_HS_STAT_ICM_RC, [0], 0), (.ELC_HS_STAT_FLOOR_TX, [0], 0)] with
    tx := ⟨{ TxRate.reset with want := some ⟨40, 0, false⟩, sinceWithdrawal := 4 }, TxRate.reset⟩ }, .a, ⟨40, 0,
    false⟩, by decide +kernel⟩

theorem witness_AnnouncementHandshake_4 :
    ∃ s : State, ∃ w : Wing, s.wingRuns w = true :=
  ⟨running [], .a, by decide +kernel⟩

theorem witness_FallBackAndFloor_0 :
    ∃ s : State, ∃ w : Wing, s.wingRuns w = true ∧ (s.tx.get w).trigger ≠ 0 ∧ s.rd .ELC_HS_STAT_STATE [w.n] ≠ 6 ∧
    s.flag .ELC_HS_STAT_FLOOR_TX [w.n] = false :=
  ⟨{ running [(.ELC_HS_STAT_STATE, [0], 0), (.ELC_HS_STAT_FLOOR_TX, [0], 0)] with
    tx := ⟨{ TxRate.reset with trigger := 8, falls := [0, 0] }, TxRate.reset⟩ }, .a, by decide +kernel⟩

theorem witness_FallBackAndFloor_1 :
    ∃ s : State, ∃ w : Wing, s.wingRuns w = true ∧ (s.tx.get w).trigger ≠ 0 ∧ s.rd .ELC_HS_STAT_STATE [w.n] ≠ 6 ∧
    s.flag .ELC_HS_STAT_FLOOR_TX [w.n] = true :=
  ⟨{ running [] with tx := ⟨{ TxRate.reset with trigger := 8 }, TxRate.reset⟩ }, .a, by decide +kernel⟩

theorem witness_FallBackAndFloor_2 :
    ∃ s : State, ∃ w : Wing, (s.rx.get w).mismatch ≠ 0 :=
  ⟨{ running [] with rx := ⟨{ RxLine.reset with mismatch := 3 }, RxLine.reset⟩ }, .a, by decide +kernel⟩

theorem witness_FallBackAndFloor_3 :
    ∃ s : State, ∃ w : Wing, s.coreRuns = true ∧ s.wingRuns w = true ∧ s.floorMet w = true :=
  ⟨running [(.RXW_HDR_STAT_MAP_VALID, [0], 1), (.RXW_HDR_STAT_FLOOR_RX, [0], 1), (.RXW_RX_STAT_STATE, [0], 11)], .a,
    by decide +kernel⟩

theorem witness_FallBackAndFloor_4 :
    ∃ s : State, ∃ w : Wing, ∃ req : Req, s.takesFrom req = true ∧ s.rd .ELC_HS_STAT_STATE [w.n] = 6 ∧
    s.wingStopped w = true :=
  ⟨running [(.ELC_HS_STAT_STATE, [0], 6), (.GLB_BLK_CTL_STOPPED, [0], 1)], .a, .pf0, by decide +kernel⟩

theorem witness_FallBackAndFloor_5 :
    ∃ s : State, ∃ w : Wing, ∃ req : Req, s.takesFrom req = true ∧ s.wingStopped w = false :=
  ⟨running [(.ELC_HS_STAT_STATE, [0], 6)], .a, .pf0, by decide +kernel⟩

theorem witness_FallBackAndFloor_6 :
    ∃ s : State, ∃ w : Wing, ∃ req : Req, s.takesFrom req = true ∧ s.rd .ELC_HS_STAT_STATE [w.n] ≠ 6 ∧
    (s.tx.get w).trigger = 0 :=
  ⟨running [], .a, .pf0, by decide +kernel⟩

theorem witness_FallBackAndFloor_7 :
    ∃ s : State, ∃ w : Wing, ∃ req : Req, s.takesFrom req = true ∧ s.rd .ELC_HS_STAT_STATE [w.n] = 6 :=
  ⟨running [(.ELC_HS_STAT_STATE, [0], 6)], .a, .pf0, by decide +kernel⟩

theorem witness_IntercomRateControl_0 :
    ∃ s : State, ∃ w : Wing, ∃ x : Wanted, s.coreRuns = true ∧ s.txReady w = true ∧
    s.flag .ELC_HS_STAT_ICM_RC [w.n] = true ∧ s.wanted w = some x :=
  ⟨{ running [(.ELC_HS_STAT_STATE, [0], 0), (.ELC_HS_STAT_FLOOR_TX, [0], 0)] with
    tx := ⟨{ TxRate.reset with want := some ⟨40, 0, false⟩ }, TxRate.reset⟩ }, .a, ⟨40, 0, false⟩, by decide +kernel⟩

theorem witness_IntercomRateControl_1 :
    ∃ s : State, ∃ w : Wing, ∃ x : Wanted, s.coreRuns = true ∧ (s.tx.get w).now = some x ∧
    s.rd .ELC_HS_STAT_STATE [w.n] = 4 ∧ (s.tx.get w).icmTries < 3 ∧ s.announceSent w = true :=
  ⟨{ running [(.ELC_HS_STAT_STATE, [0], 4)] with
    tx := ⟨{ TxRate.reset with now := some ⟨40, 0, false⟩ }, TxRate.reset⟩ }, .a, ⟨40, 0, false⟩, by decide +kernel⟩

theorem witness_IntercomRateControl_2 :
    ∃ s : State, ∃ w : Wing, ∃ x : Wanted, (s.tx.get w).now = some x ∧ s.rd .ELC_HS_STAT_STATE [w.n] = 4 ∧
    3 ≤ (s.tx.get w).icmTries ∧ s.announceSent w = true :=
  ⟨{ running [(.ELC_HS_STAT_STATE, [0], 4)] with
    tx := ⟨{ TxRate.reset with now := some ⟨40, 0, false⟩, icmTries := 3 }, TxRate.reset⟩ }, .a, ⟨40, 0, false⟩,
    by decide +kernel⟩

theorem witness_IntercomRateControl_4 :
    ∃ s : State, ∃ w : Wing, ∃ req : Req, s.takesFrom req = true ∧ s.rd .ELC_CTL_MODE [w.n] = 1 :=
  ⟨running [(.ELC_CTL_MODE, [0], 1), (.ELC_CTL_H_IDX, [0], 40), (.ELC_POLICY2_MAX_IDX, [0], 64)], .a, .pf0,
    by decide +kernel⟩

theorem witness_IntercomRateControl_5 :
    ∃ s : State, ∃ req : Req, s.takesFrom req = true :=
  ⟨running [], .pf0, by decide +kernel⟩

theorem witness_IntercomRateControl_6 :
    ∃ s : State, ∃ w : Wing, ∃ req : Req, ∃ n : Fin 32, s.takesFrom req = true ∧ (n : Nat) < s.chanCount w :=
  ⟨running [], .a, .pf0, 1, by decide +kernel⟩

theorem witness_IntercomSending_0 :
    ∃ s : State, ∃ w : Wing, ∃ m : IcmMsg, s.icmSends w = true ∧ icmHead (s.icm.get w).queue = some m :=
  ⟨{ running [(.OPT_TX_STAT_STATE, [0], 3), (.ICM_TX_CFG_EN, [0], 1)] with
    icm := ⟨{ IcmSide.reset with queue := [.user [1], .ack 3] }, IcmSide.reset⟩ }, .a, .ack 3, by decide +kernel⟩

theorem witness_IntercomSending_2 :
    ∃ s : State, ∃ w : Wing, s.coreRuns = true ∧ s.wingRuns w = true ∧ s.flag .ELC_ADV_TX_VALID [w.n] = true ∧
    s.adviceByIcm w = true :=
  ⟨running [(.ELC_ADV_TX_VALID, [0], 1), (.RXW_HDR_STAT_HDR_LOSS_TX, [0], 1)], .a, by decide +kernel⟩

theorem witness_IntercomSending_3 :
    ∃ s : State, ∃ w : Wing, s.coreRuns = true ∧ s.isRunning = true ∧ s.wingEnabled w = true :=
  ⟨running [], .a, by decide +kernel⟩

theorem witness_IntercomSending_4 :
    ∃ s : State, ∃ w : Wing, s.coreRuns = true ∧ s.isRunning = true ∧ s.wingEnabled w = true ∧
    s.rd .ICM_TAG_CFG_PERIOD [w.n] ≠ 0 :=
  ⟨running [(.ICM_TAG_CFG_PERIOD, [0], 2)], .a, by decide +kernel⟩

theorem witness_IntercomSending_5 :
    ∃ s : State, ∃ w : Wing, s.coreRuns = true ∧ s.isRunning = true ∧ s.wingEnabled w = true ∧ s.alarmBits w ≠ 0 :=
  ⟨running [(.RXW_HDR_STAT_HDR_LOSS_TX, [0], 1)], .a, by decide +kernel⟩

theorem witness_IntercomSending_6 :
    ∃ s : State, ∃ req : Req, s.takesFrom req = true :=
  ⟨running [], .pf0, by decide +kernel⟩

theorem witness_IntercomSending_6_1 :
    ∃ s : State, ∃ req : Req, s.takesFrom req = true :=
  ⟨{ running [] with
    icm := ⟨{ IcmSide.reset with queue := [.user [1], .user [2], .user [3], .user [4]] }, IcmSide.reset⟩ }, .pf0,
    by decide +kernel⟩

theorem witness_IntercomReceiving_0 :
    ∃ s : State, ∃ w : Wing, ∃ peaks : List (Nat × Nat), s.icmHears w = true ∧ s.rd .ICM_RX_STAT_STATE [w.n] = 0 ∧
    preamble (s.rxSf w) (s.rd .ICM_RX_CFG_DET_TH [w.n]) peaks = true :=
  ⟨running [(.CNV_ADC_CLK_LOCKED, [0], 1), (.OPT_RX_STAT_LOS, [0], 0), (.OPT_TX_STAT_LO_LOCKED, [0], 1),
    (.ICM_RX_CFG_EN, [0], 1), (.ICM_RX_STAT_STATE, [0], 0), (.ICM_NET_CFG_RX_ID, [0], 5), (.RXW_HDR_STAT_HDR_LOSS_TX,
    [0], 1), (.ICM_RX_CFG_SF, [0], 9)], .a, [(77, 300), (76, 300), (78, 300), (77, 300)], by decide +kernel⟩

theorem witness_IntercomReceiving_1 :
    ∃ s : State, ∃ w : Wing, ∃ rx : IcmRx, ∃ why : IcmFail, s.rd .ICM_RX_STAT_STATE [w.n] ≠ 0 ∧ s.icmHears w = true ∧
    s.icmHeard w rx.chirps = .fail why :=
  ⟨running [(.CNV_ADC_CLK_LOCKED, [0], 1), (.OPT_RX_STAT_LOS, [0], 0), (.OPT_TX_STAT_LO_LOCKED, [0], 1),
    (.ICM_RX_CFG_EN, [0], 1), (.ICM_RX_STAT_STATE, [0], 1), (.ICM_NET_CFG_RX_ID, [0], 5), (.RXW_HDR_STAT_HDR_LOSS_TX,
    [0], 1), (.ICM_RX_CFG_SF, [0], 9)], .a, ⟨List.replicate 16 ⟨false, 0, 300⟩, 0⟩, .sync, by decide +kernel⟩

theorem witness_IntercomReceiving_1_1 :
    ∃ s : State, ∃ w : Wing, ∃ rx : IcmRx, ∃ why : IcmFail, s.rd .ICM_RX_STAT_STATE [w.n] ≠ 0 ∧ s.icmHears w = true ∧
    s.icmHeard w rx.chirps = .fail why :=
  ⟨running [(.CNV_ADC_CLK_LOCKED, [0], 1), (.OPT_RX_STAT_LOS, [0], 0), (.OPT_TX_STAT_LO_LOCKED, [0], 1),
    (.ICM_RX_CFG_EN, [0], 1), (.ICM_RX_STAT_STATE, [0], 1), (.ICM_NET_CFG_RX_ID, [0], 6), (.RXW_HDR_STAT_HDR_LOSS_TX,
    [0], 1), (.ICM_RX_CFG_SF, [0], 9)], .a, heardOf (.ack 3), .netId, by decide +kernel⟩

theorem witness_IntercomReceiving_2 :
    ∃ s : State, ∃ w : Wing, ∃ rx : IcmRx, ∃ k : Nat, s.rd .ICM_RX_STAT_STATE [w.n] ≠ 0 ∧ s.icmHears w = true ∧
    s.icmHeard w rx.chirps = .going k ∧ k < 4 :=
  ⟨running [(.CNV_ADC_CLK_LOCKED, [0], 1), (.OPT_RX_STAT_LOS, [0], 0), (.OPT_TX_STAT_LO_LOCKED, [0], 1),
    (.ICM_RX_CFG_EN, [0], 1), (.ICM_RX_STAT_STATE, [0], 1), (.ICM_NET_CFG_RX_ID, [0], 5), (.RXW_HDR_STAT_HDR_LOSS_TX,
    [0], 1), (.ICM_RX_CFG_SF, [0], 9)], .a, ⟨[⟨false, 0, 300⟩], 0⟩, 1, by decide +kernel⟩

theorem witness_IntercomReceiving_2_1 :
    ∃ s : State, ∃ w : Wing, ∃ rx : IcmRx, ∃ k : Nat, s.rd .ICM_RX_STAT_STATE [w.n] ≠ 0 ∧ s.icmHears w = true ∧
    s.icmHeard w rx.chirps = .going k ∧ k < 4 :=
  ⟨running [(.CNV_ADC_CLK_LOCKED, [0], 1), (.OPT_RX_STAT_LOS, [0], 0), (.OPT_TX_STAT_LO_LOCKED, [0], 1),
    (.ICM_RX_CFG_EN, [0], 1), (.ICM_RX_STAT_STATE, [0], 1), (.ICM_NET_CFG_RX_ID, [0], 5), (.RXW_HDR_STAT_HDR_LOSS_TX,
    [0], 1), (.ICM_RX_CFG_SF, [0], 9)], .a, { heardOf (.ack 3) with chirps := (heardOf (.ack 3)).chirps.take 9 }, 2,
    by decide +kernel⟩

theorem witness_IntercomReceiving_3 :
    ∃ s : State, ∃ w : Wing, ∃ peaks : List (Nat × Nat), ∃ chirps : List RxChirp, ∃ k : Nat,
    s.rd .ICM_RX_STAT_STATE [w.n] ≠ 0 ∧ s.icmHears w = true ∧ s.icmPreamble w peaks = true ∧
    s.icmStronger w (peaks.getLastD (0, 0)) = true ∧ s.icmHeard w chirps = .going k :=
  ⟨running [(.CNV_ADC_CLK_LOCKED, [0], 1), (.OPT_RX_STAT_LOS, [0], 0), (.OPT_TX_STAT_LO_LOCKED, [0], 1),
    (.ICM_RX_CFG_EN, [0], 1), (.ICM_RX_STAT_STATE, [0], 1), (.ICM_NET_CFG_RX_ID, [0], 5), (.RXW_HDR_STAT_HDR_LOSS_TX,
    [0], 1), (.ICM_RX_CFG_SF, [0], 9)], .a, [(77, 300), (76, 300), (78, 300), (77, 300)], [], 1, by decide +kernel⟩

theorem witness_IntercomReceiving_3_1 :
    ∃ s : State, ∃ w : Wing, ∃ peaks : List (Nat × Nat), ∃ chirps : List RxChirp, ∃ k : Nat,
    s.rd .ICM_RX_STAT_STATE [w.n] ≠ 0 ∧ s.icmHears w = true ∧ s.icmPreamble w peaks = true ∧
    s.icmStronger w (peaks.getLastD (0, 0)) = true ∧ s.icmHeard w chirps = .going k :=
  ⟨running [(.CNV_ADC_CLK_LOCKED, [0], 1), (.OPT_RX_STAT_LOS, [0], 0), (.OPT_TX_STAT_LO_LOCKED, [0], 1),
    (.ICM_RX_CFG_EN, [0], 1), (.ICM_RX_STAT_STATE, [0], 1), (.ICM_NET_CFG_RX_ID, [0], 5), (.RXW_HDR_STAT_HDR_LOSS_TX,
    [0], 1), (.ICM_RX_CFG_SF, [0], 9)], .a, [(77, 300), (76, 300), (78, 300), (77, 300)],
    (heardOf (.ack 3)).chirps.take 24, 3, by decide +kernel⟩

theorem witness_IntercomReceiving_3_2 :
    ∃ s : State, ∃ w : Wing, ∃ peaks : List (Nat × Nat), ∃ chirps : List RxChirp, ∃ k : Nat,
    s.rd .ICM_RX_STAT_STATE [w.n] ≠ 0 ∧ s.icmHears w = true ∧ s.icmPreamble w peaks = true ∧
    s.icmStronger w (peaks.getLastD (0, 0)) = true ∧ s.icmHeard w chirps = .going k :=
  ⟨running [(.CNV_ADC_CLK_LOCKED, [0], 1), (.OPT_RX_STAT_LOS, [0], 0), (.OPT_TX_STAT_LO_LOCKED, [0], 1),
    (.ICM_RX_CFG_EN, [0], 1), (.ICM_RX_STAT_STATE, [0], 1), (.ICM_NET_CFG_RX_ID, [0], 5), (.RXW_HDR_STAT_HDR_LOSS_TX,
    [0], 1), (.ICM_RX_CFG_SF, [0], 9), (.ICM_RX_CFG_CAPTURE, [0], 1)], .a, [(77, 300), (76, 300), (78, 300), (77,
    300)], (heardOf (.ack 3)).chirps.take 24, 3, by decide +kernel⟩

theorem witness_IntercomReceiving_4 :
    ∃ s : State, ∃ w : Wing, ∃ rx : IcmRx, ∃ id : Nat, ∃ mseq : Nat, ∃ bytes : List Nat, s.icmReceives w = true ∧
    s.icmHeard w rx.chirps = .frame id 1 mseq bytes ∧ s.flag .ELC_ADV_RX_VALID [w.n] = false :=
  ⟨running [(.CNV_ADC_CLK_LOCKED, [0], 1), (.OPT_RX_STAT_LOS, [0], 0), (.OPT_TX_STAT_LO_LOCKED, [0], 1),
    (.ICM_RX_CFG_EN, [0], 1), (.ICM_RX_STAT_STATE, [0], 1), (.ICM_NET_CFG_RX_ID, [0], 5), (.RXW_HDR_STAT_HDR_LOSS_TX,
    [0], 1), (.ICM_RX_CFG_SF, [0], 9)], .a, heardOf (.advice 3 40 0 (-5)), 5, 1, [3, 40, 0, 251], by decide +kernel⟩

theorem witness_IntercomReceiving_5 :
    ∃ s : State, ∃ w : Wing, ∃ rx : IcmRx, ∃ id : Nat, ∃ mseq : Nat, ∃ bytes : List Nat, s.icmReceives w = true ∧
    s.icmHeard w rx.chirps = .frame id 2 mseq bytes :=
  ⟨running [(.CNV_ADC_CLK_LOCKED, [0], 1), (.OPT_RX_STAT_LOS, [0], 0), (.OPT_TX_STAT_LO_LOCKED, [0], 1),
    (.ICM_RX_CFG_EN, [0], 1), (.ICM_RX_STAT_STATE, [0], 1), (.ICM_NET_CFG_RX_ID, [0], 5), (.RXW_HDR_STAT_HDR_LOSS_TX,
    [0], 1), (.ICM_RX_CFG_SF, [0], 9)], .a, heardOf (.announce 3 0 1 10), 5, 1, [3, 0, 1, 0, 10], by decide +kernel⟩

theorem witness_IntercomReceiving_6 :
    ∃ s : State, ∃ w : Wing, ∃ rx : IcmRx, ∃ id : Nat, ∃ mseq : Nat, ∃ bytes : List Nat, ∃ x : Wanted,
    s.icmReceives w = true ∧ s.icmHeard w rx.chirps = .frame id 3 mseq bytes ∧ s.rd .ELC_HS_STAT_STATE [w.n] = 4 ∧
    (s.tx.get w).now = some x ∧ (s.tx.get w).annSeq = bytes.getD 0 0 % 16 :=
  ⟨{ running [(.CNV_ADC_CLK_LOCKED, [0], 1), (.OPT_RX_STAT_LOS, [0], 0), (.OPT_TX_STAT_LO_LOCKED, [0], 1),
    (.ICM_RX_CFG_EN, [0], 1), (.ICM_RX_STAT_STATE, [0], 1), (.ICM_NET_CFG_RX_ID, [0], 5), (.RXW_HDR_STAT_HDR_LOSS_TX,
    [0], 1), (.ICM_RX_CFG_SF, [0], 9), (.ELC_HS_STAT_STATE, [0], 4)] with
    tx := ⟨{ TxRate.reset with now := some ⟨40, 0, false⟩, annSeq := 3 }, TxRate.reset⟩ }, .a, heardOf (.ack 3), 5,
    1, [3], ⟨40, 0, false⟩, by decide +kernel⟩

theorem witness_IntercomReceiving_7 :
    ∃ s : State, ∃ w : Wing, ∃ rx : IcmRx, ∃ id : Nat, ∃ mseq : Nat, ∃ bytes : List Nat, s.icmReceives w = true ∧
    s.icmHeard w rx.chirps = .frame id 4 mseq bytes :=
  ⟨running [(.CNV_ADC_CLK_LOCKED, [0], 1), (.OPT_RX_STAT_LOS, [0], 0), (.OPT_TX_STAT_LO_LOCKED, [0], 1),
    (.ICM_RX_CFG_EN, [0], 1), (.ICM_RX_STAT_STATE, [0], 1), (.ICM_NET_CFG_RX_ID, [0], 5), (.RXW_HDR_STAT_HDR_LOSS_TX,
    [0], 1), (.ICM_RX_CFG_SF, [0], 9)], .a, heardOf (.bringup true 1360 1360 3 1360 32 1 100), 5, 1, [17, 5, 80, 5,
    80, 3, 5, 80, 32, 1, 0, 100], by decide +kernel⟩

theorem witness_IntercomReceiving_8 :
    ∃ s : State, ∃ w : Wing, ∃ rx : IcmRx, ∃ id : Nat, ∃ mseq : Nat, ∃ bytes : List Nat, s.icmReceives w = true ∧
    s.icmHeard w rx.chirps = .frame id 5 mseq bytes :=
  ⟨running [(.CNV_ADC_CLK_LOCKED, [0], 1), (.OPT_RX_STAT_LOS, [0], 0), (.OPT_TX_STAT_LO_LOCKED, [0], 1),
    (.ICM_RX_CFG_EN, [0], 1), (.ICM_RX_STAT_STATE, [0], 1), (.ICM_NET_CFG_RX_ID, [0], 5), (.RXW_HDR_STAT_HDR_LOSS_TX,
    [0], 1), (.ICM_RX_CFG_SF, [0], 9)], .a, heardOf (.tag (List.range 16)), 5, 1, List.range 16, by decide +kernel⟩

theorem witness_IntercomReceiving_9 :
    ∃ s : State, ∃ w : Wing, ∃ rx : IcmRx, ∃ id : Nat, ∃ mseq : Nat, ∃ bytes : List Nat, s.icmReceives w = true ∧
    s.icmHeard w rx.chirps = .frame id 6 mseq bytes :=
  ⟨running [(.CNV_ADC_CLK_LOCKED, [0], 1), (.OPT_RX_STAT_LOS, [0], 0), (.OPT_TX_STAT_LO_LOCKED, [0], 1),
    (.ICM_RX_CFG_EN, [0], 1), (.ICM_RX_STAT_STATE, [0], 1), (.ICM_NET_CFG_RX_ID, [0], 5), (.RXW_HDR_STAT_HDR_LOSS_TX,
    [0], 1), (.ICM_RX_CFG_SF, [0], 9)], .a, heardOf (.alarm 5 4), 5, 1, [5, 4, 0, 0], by decide +kernel⟩

theorem witness_IntercomReceiving_10 :
    ∃ s : State, ∃ w : Wing, ∃ rx : IcmRx, ∃ id : Nat, ∃ mseq : Nat, ∃ bytes : List Nat, s.icmReceives w = true ∧
    s.icmHeard w rx.chirps = .frame id 7 mseq bytes :=
  ⟨running [(.CNV_ADC_CLK_LOCKED, [0], 1), (.OPT_RX_STAT_LOS, [0], 0), (.OPT_TX_STAT_LO_LOCKED, [0], 1),
    (.ICM_RX_CFG_EN, [0], 1), (.ICM_RX_STAT_STATE, [0], 1), (.ICM_NET_CFG_RX_ID, [0], 5), (.RXW_HDR_STAT_HDR_LOSS_TX,
    [0], 1), (.ICM_RX_CFG_SF, [0], 9)], .a, heardOf (.user [7, 8]), 5, 1, [7, 8], by decide +kernel⟩

theorem witness_IntercomReceiving_12 :
    ∃ s : State, ∃ req : Req, s.takesFrom req = true :=
  ⟨running [], .pf0, by decide +kernel⟩

theorem witness_IntercomReceiving_12_1 :
    ∃ s : State, ∃ req : Req, s.takesFrom req = true :=
  ⟨{ running [] with icm := ⟨{ IcmSide.reset with mailbox := [(1, [2]), (3, [4])] }, IcmSide.reset⟩ }, .pf0,
    by decide +kernel⟩

theorem witness_OverheadProcessor_0 :
    ∃ s : State, ∃ w : Wing, s.wingRuns w = true ∧ s.takesFrame w = true ∧
    (List.range 32).all (s.filled w (s.txMap w)) = true :=
  ⟨{ running [(.TXW_LINE_CUR_BAUD, [0], 1360)] with
    tx := ⟨{ TxRate.reset with sent := [⟨0, 32, 1, []⟩] }, TxRate.reset⟩ }, .a, by decide +kernel⟩

theorem witness_OverheadProcessor_1 :
    ∃ s : State, ∃ w : Wing, ∃ x : Candidate, s.flag .FEC_STAT_LOCKED [w.n] = true ∧ s.flag .OHD_FR_STAT_IF [w.n] =
    false ∧ fasAt (s.otn.get w).line = true ∧
    (s.otn.get w).cands.find? (fun c => (s.otn.get w).pos == (s.otn.get w).due c || (s.otn.get w).pos == (s.otn.get
    w).due c + 1) = some x ∧ x.hits = 1 :=
  ⟨{ running [(.FEC_STAT_LOCKED, [0], 1)] with
    otn := ⟨{ Otn.reset with
    cands := [⟨7 * 2 ^ 24, 8 * 2 ^ 24, 1⟩], pos := 7, line := fasBits.map (fun b => (b, false)), eras := [⟨0, 0, 0,
    0, []⟩] }, Otn.reset⟩ }, .a, ⟨7 * 2 ^ 24, 8 * 2 ^ 24, 1⟩, by decide +kernel⟩

theorem witness_OverheadProcessor_2 :
    ∃ s : State, ∃ w : Wing, s.flag .OHD_FR_STAT_IF [w.n] = true ∧ 5 ≤ (s.otn.get w).badFas :=
  ⟨{ running [(.OHD_FR_STAT_IF, [0], 1)] with otn := ⟨{ Otn.reset with badFas := 5 }, Otn.reset⟩ }, .a,
    by decide +kernel⟩

theorem witness_OverheadProcessor_3 :
    ∃ s : State, ∃ w : Wing, s.flag .OHD_FR_STAT_IM [w.n] = true ∧ 5 ≤ (s.otn.get w).badMfas :=
  ⟨{ running [(.OHD_FR_STAT_IM, [0], 1)] with otn := ⟨{ Otn.reset with badMfas := 5 }, Otn.reset⟩ }, .a,
    by decide +kernel⟩

theorem witness_OverheadProcessor_4 :
    ∃ s : State, ∃ w : Wing, ∃ f : OtnFrame, s.rxFrame w = some f ∧ (f.fasErrored =
    false ∨ (s.otn.get w).badFas < 4) :=
  ⟨{ running [(.OHD_FR_STAT_IF, [0], 1)] with
    otn := ⟨{ Otn.reset with badFas := 1, heard := [5, 6], line := List.replicate 514 (false, false) }, Otn.reset⟩ },
    .a, Era.parse ⟨0, 0, 0, 0, []⟩ true (markedBytes 64 (descrambled (List.replicate 512 (false, false)))),
    by decide +kernel⟩

theorem witness_OverheadProcessor_5 :
    ∃ s : State, ∃ w : Wing, ∃ f : OtnFrame, s.rxFrame w = some f ∧ f.fasErrored = true ∧ (s.otn.get w).badFas = 4 :=
  ⟨{ running [(.OHD_FR_STAT_IF, [0], 1)] with
    otn := ⟨{ Otn.reset with badFas := 4, line := List.replicate 514 (false, false) }, Otn.reset⟩ }, .a,
    Era.parse ⟨0, 0, 0, 0, []⟩ true (markedBytes 64 (descrambled (List.replicate 512 (false, false)))),
    by decide +kernel⟩

theorem witness_OverheadProcessor_6 :
    ∃ s : State, ∃ w : Wing, ∃ d : Fin 14, ∃ on : Bool, (d : Nat) < 8 ∧ s.smVerdict w d = some on :=
  ⟨running [(.OHD_FR_STAT_IF, [0], 1)], .a, 1, true, by decide +kernel⟩

theorem witness_OverheadProcessor_6_1 :
    ∃ s : State, ∃ w : Wing, ∃ d : Fin 14, ∃ on : Bool, (d : Nat) < 8 ∧ s.smVerdict w d = some on :=
  ⟨running [], .a, 0, true, by decide +kernel⟩

theorem witness_OverheadProcessor_7 :
    ∃ s : State, ∃ w : Wing, ∃ d : Fin 14, ∃ ch : Fin 32, ∃ on : Bool, 8 ≤ (d : Nat) ∧ s.pmVerdict w ch d = some on :=
  ⟨{ running [(.OHD_FR_STAT_IF, [0], 1), (.OHD_FR_STAT_IM, [0], 1)] with
    otn := ⟨{ Otn.reset with pm := [(4, { PmRx.reset with ais := ⟨3, 0⟩ })] }, Otn.reset⟩ }, .a, 8, 4, true,
    by decide +kernel⟩

theorem witness_OverheadProcessor_9 :
    ∃ s : State, ∃ w : Wing, s.flag .OHD_DEG_CFG_MODE [w.n, 0] = false :=
  ⟨running [], .a, by decide +kernel⟩

theorem witness_OverheadProcessor_10 :
    ∃ s : State, ∃ w : Wing, ∃ d : Fin 14, ∃ ch : Fin 32, (d : Nat) < 8 ∧ s.defectOn w d ch = true :=
  ⟨running [(.OHD_SM_DEF_TIM, [0], 1)], .a, 3, 0, by decide +kernel⟩

theorem witness_OverheadProcessor_11 :
    ∃ s : State, ∃ w : Wing, ∃ d : Fin 14, ∃ ch : Fin 32, (d : Nat) < 8 ∧ s.defectOn w d ch = false :=
  ⟨{ running [] with otn := ⟨{ Otn.reset with fail := 8 }, Otn.reset⟩ }, .a, 3, 0, by decide +kernel⟩

theorem witness_OverheadProcessor_12 :
    ∃ s : State, ∃ w : Wing, ∃ ch : Fin 32, ∃ g : Nat, s.groupOf (chanIndex w ch) = some g ∧ 3 ≤ (s.pm w ch).apsRun ∧
    (s.pm w ch).aps ≠ s.rd .OHD_APS_RX_VALUE [w.n, ch] :=
  ⟨{ running [(.HAL_PG_MEMBERS_VALID, [0], 1), (.HAL_PG_MEMBERS_CH_A, [0], 2), (.HAL_PG_MEMBERS_CH_B, [0], 3)] with
    otn := ⟨{ Otn.reset with pm := [(2, { PmRx.reset with aps := 0xF0010100, apsRun := 3 })] }, Otn.reset⟩ }, .a, 2,
    0, by decide +kernel⟩

theorem witness_OverheadProcessor_13 :
    ∃ s : State, ∃ w : Wing, ∃ m : List Nat, ∃ rest : List (List Nat), (s.otn.get w).gccMsgs = m :: rest :=
  ⟨{ running [] with otn := ⟨{ Otn.reset with gccMsgs := [[0, 0, 0, 0], [1]] }, Otn.reset⟩ }, .a, [0, 0, 0, 0],
    [[1]], by decide +kernel⟩

theorem witness_OverheadProcessor_13_1 :
    ∃ s : State, ∃ w : Wing, ∃ m : List Nat, ∃ rest : List (List Nat), (s.otn.get w).gccMsgs = m :: rest :=
  ⟨{ running [] with otn := ⟨{ Otn.reset with gccMsgs := [[1, 2, 3, 4, 5]] }, Otn.reset⟩ }, .a, [1, 2, 3, 4, 5], [],
    by decide +kernel⟩

theorem witness_LineProtection_0 :
    ∃ s : State, ∃ g : Fin 8, ∃ m : Wing, s.flag .HAL_PG_MEMBERS_VALID [g] = true ∧ s.halted 3 = false ∧
    s.holding g m = false ∧ s.rd (condRow m) [g] = 0 ∧ s.memberCond g m ≠ 0 :=
  ⟨running [(.HAL_PG_MEMBERS_VALID, [1], 1), (.HAL_PG_MEMBERS_CH_A, [1], 2), (.HAL_PG_MEMBERS_CH_B, [1], 3)], 1, .a,
    by decide +kernel⟩

theorem witness_LineProtection_0_1 :
    ∃ s : State, ∃ g : Fin 8, ∃ m : Wing, s.flag .HAL_PG_MEMBERS_VALID [g] = true ∧ s.halted 3 = false ∧
    s.holding g m = false ∧ s.rd (condRow m) [g] = 0 ∧ s.memberCond g m ≠ 0 :=
  ⟨running [(.HAL_PG_MEMBERS_VALID, [1], 1), (.HAL_PG_MEMBERS_CH_A, [1], 2), (.HAL_PG_MEMBERS_CH_B, [1], 3),
    (.HAL_PG_CFG_HOLDOFF, [1], 5)], 1, .b, by decide +kernel⟩

theorem witness_LineProtection_1 :
    ∃ s : State, ∃ g : Fin 8, ∃ m : Wing, s.holding g m = true ∧ s.halted 3 = false :=
  ⟨running [(.HAL_PG_MEMBERS_VALID, [1], 1), (.HAL_PG_MEMBERS_CH_A, [1], 2), (.HAL_PG_MEMBERS_CH_B, [1], 3),
    (.HAL_PG_STAT_HOLD, [1], 3)], 1, .a, by decide +kernel⟩

theorem witness_LineProtection_2 :
    ∃ s : State, ∃ g : Fin 8, s.flag .HAL_PG_STAT_WTR_RUN [g] = true ∧ s.halted 3 = false :=
  ⟨running [(.HAL_PG_MEMBERS_VALID, [1], 1), (.HAL_PG_MEMBERS_CH_A, [1], 2), (.HAL_PG_MEMBERS_CH_B, [1], 3),
    (.HAL_PG_STAT_WTR_RUN, [1], 1)], 1, by decide +kernel⟩

theorem witness_LineProtection_3 :
    ∃ s : State, ∃ req : Req, s.takesFrom req = true :=
  ⟨running [], .pf0, by decide +kernel⟩

theorem witness_LineProtection_4 :
    ∃ s : State, ∃ g : Fin 8, ∃ req : Req, s.takesFrom req = true ∧ s.flag .HAL_PG_MEMBERS_VALID [g] = true :=
  ⟨running [(.HAL_PG_MEMBERS_VALID, [1], 1), (.HAL_PG_MEMBERS_CH_A, [1], 2), (.HAL_PG_MEMBERS_CH_B, [1], 3)], 1,
    .pf0, by decide +kernel⟩

theorem witness_LineProtection_4_1 :
    ∃ s : State, ∃ g : Fin 8, ∃ req : Req, s.takesFrom req = true ∧ s.flag .HAL_PG_MEMBERS_VALID [g] = true :=
  ⟨running [(.HAL_PG_MEMBERS_VALID, [1], 1), (.HAL_PG_MEMBERS_CH_A, [1], 2), (.HAL_PG_MEMBERS_CH_B, [1], 3),
    (.HAL_PG_STAT_CMD_HELD, [1], 2)], 1, .pf0, by decide +kernel⟩

theorem witness_LineProtection_4_2 :
    ∃ s : State, ∃ g : Fin 8, ∃ req : Req, s.takesFrom req = true ∧ s.flag .HAL_PG_MEMBERS_VALID [g] = true :=
  ⟨running [(.HAL_PG_MEMBERS_VALID, [1], 1), (.HAL_PG_MEMBERS_CH_A, [1], 2), (.HAL_PG_MEMBERS_CH_B, [1], 3),
    (.HAL_PG_STAT_CMD_HELD, [1], 3)], 1, .pf0, by decide +kernel⟩

theorem witness_LineProtection_4_3 :
    ∃ s : State, ∃ g : Fin 8, ∃ req : Req, s.takesFrom req = true ∧ s.flag .HAL_PG_MEMBERS_VALID [g] = true :=
  ⟨running [(.HAL_PG_MEMBERS_VALID, [1], 1), (.HAL_PG_MEMBERS_CH_A, [1], 2), (.HAL_PG_MEMBERS_CH_B, [1], 3),
    (.HAL_PG_STAT_WTR_RUN, [1], 1)], 1, .pf0, by decide +kernel⟩

theorem witness_LineProtection_5 :
    ∃ s : State, ∃ g : Fin 8, s.flag .HAL_PG_CFG_BIDIR [g] = true ∧ s.fopCause g = true ∧
    s.flag .HAL_PG_STAT_FOP [g] = false ∧ s.halted 3 = false :=
  ⟨{ running [(.HAL_PG_MEMBERS_VALID, [1], 1), (.HAL_PG_MEMBERS_CH_A, [1], 2), (.HAL_PG_MEMBERS_CH_B, [1], 3),
    (.HAL_PG_CFG_BIDIR, [1], 1), (.OHD_FR_STAT_IF, [0], 1), (.OHD_FR_STAT_IM, [0], 1), (.FEC_STAT_LOCKED, [0], 1),
    (.OHD_SM_DEF_LOF, [0], 0), (.OHD_SM_DEF_LOM, [0], 0)] with groups := [(1, ⟨false, .a, ⟨true, true⟩⟩)] }, 1,
    by decide +kernel⟩

theorem witness_LineProtection_6 :
    ∃ s : State, ∃ g : Fin 8, s.flag .HAL_PG_STAT_FOP [g] = true ∧ s.fopCause g = false ∧ s.halted 3 = false :=
  ⟨running [(.HAL_PG_MEMBERS_VALID, [1], 1), (.HAL_PG_MEMBERS_CH_A, [1], 2), (.HAL_PG_MEMBERS_CH_B, [1], 3),
    (.HAL_PG_STAT_FOP, [1], 1)], 1, by decide +kernel⟩

theorem witness_SegmentsAndPipelines_0 :
    ∃ s : State, ∃ ch : Fin 64, s.isC0 = false ∧ s.chanCipher ch = true ∧ s.chanEnabled ch = true ∧
    s.chanSlots ch ≠ 0 ∧ s.wingRuns (chanWing ch) = true ∧ s.cip.contexts.length < 4096 ∧
    s.sentStat (chanWing ch) (chanNum ch) ≠ 5 ∧ ((s.halted 4 = true ∨ (∀ k : Fin 2, s.slotState (slotOf ch 0 k) =
    0))) :=
  ⟨{ running [(.GLB_ID_VARIANT, [], 1), (.ELC_CHAN_CFG_CIPHER_EN, [0, 3], 1), (.SCH_CH_RATE_SLOTS, [3], 10)] with
    tx := ⟨{ TxRate.reset with enabled := 8 }, TxRate.reset⟩ }, 3, by decide +kernel⟩

theorem witness_SegmentsAndPipelines_1 :
    ∃ s : State, ∃ ch : Fin 64, s.isC0 = false ∧ s.chanCipher ch = true ∧ s.chanEnabled ch = true ∧
    s.chanSlots ch ≠ 0 ∧ s.wingRuns (chanWing ch) = true ∧ s.cip.contexts.length < 4096 ∧
    s.sentStat (chanWing ch) (chanNum ch) ≠ 5 ∧ s.halted 4 = false ∧ s.slotState (slotOf ch 0 0) = 3 ∧
    s.slotState (slotOf ch 0 1) = 0 ∧ s.ras.injected = [] ∧ s.cip.rollDue = [] ∧
    s.foundAt (lineAt 5 (slotOf ch 0 0)) .clean = .clean :=
  ⟨{ running [(.GLB_ID_VARIANT, [], 1), (.ELC_CHAN_CFG_CIPHER_EN, [0, 3], 1), (.SCH_CH_RATE_SLOTS, [3], 10),
    (.CIP_SLOT_STAT_STATE, [12], 3)] with tx := ⟨{ TxRate.reset with enabled := 8 }, TxRate.reset⟩ }, 3,
    by decide +kernel⟩

theorem witness_SegmentsAndPipelines_2 :
    ∃ s : State, ∃ ch : Fin 64, s.isC0 = false ∧ s.chanCipher ch = true ∧ s.delivers (chanWing ch) = true ∧
    s.rxSlots (chanWing ch) (chanNum ch) ≠ 0 ∧ s.wingRuns (chanWing ch) = true ∧ s.halted 4 = false ∧
    s.flag .CIP_CH_STAT_SEG_LOCK [ch] = false :=
  ⟨{ running [(.GLB_ID_VARIANT, [], 1), (.ELC_CHAN_CFG_CIPHER_EN, [0, 3], 1), (.RXW_RX_STAT_STATE, [0], 11),
    (.OPT_RX_STAT_LOS, [0], 0), (.RXW_HDR_STAT_MAP_VALID, [0], 1)] with
    rx := ⟨{ RxLine.reset with active := [3] }, RxLine.reset⟩, cip := { Cipher.reset with confirms := [(3, 1)] } },
    3, by decide +kernel⟩

theorem witness_SegmentsAndPipelines_2_1 :
    ∃ s : State, ∃ ch : Fin 64, s.isC0 = false ∧ s.chanCipher ch = true ∧ s.delivers (chanWing ch) = true ∧
    s.rxSlots (chanWing ch) (chanNum ch) ≠ 0 ∧ s.wingRuns (chanWing ch) = true ∧ s.halted 4 = false ∧
    s.flag .CIP_CH_STAT_SEG_LOCK [ch] = false :=
  ⟨{ running [(.GLB_ID_VARIANT, [], 1), (.ELC_CHAN_CFG_CIPHER_EN, [0, 3], 1), (.RXW_RX_STAT_STATE, [0], 11),
    (.OPT_RX_STAT_LOS, [0], 0), (.RXW_HDR_STAT_MAP_VALID, [0], 1)] with
    rx := ⟨{ RxLine.reset with active := [3] }, RxLine.reset⟩, cip := { Cipher.reset with confirms := [(3, 1)] } },
    3, by decide +kernel⟩

theorem witness_SegmentsAndPipelines_2_2 :
    ∃ s : State, ∃ ch : Fin 64, s.isC0 = false ∧ s.chanCipher ch = true ∧ s.delivers (chanWing ch) = true ∧
    s.rxSlots (chanWing ch) (chanNum ch) ≠ 0 ∧ s.wingRuns (chanWing ch) = true ∧ s.halted 4 = false ∧
    s.flag .CIP_CH_STAT_SEG_LOCK [ch] = false :=
  ⟨{ running [(.GLB_ID_VARIANT, [], 1), (.ELC_CHAN_CFG_CIPHER_EN, [0, 3], 1), (.RXW_RX_STAT_STATE, [0], 11),
    (.OPT_RX_STAT_LOS, [0], 0), (.RXW_HDR_STAT_MAP_VALID, [0], 1)] with
    rx := ⟨{ RxLine.reset with active := [3] }, RxLine.reset⟩ }, 3, by decide +kernel⟩

theorem witness_SegmentsAndPipelines_3 :
    ∃ s : State, ∃ ch : Fin 64, ∃ seg : Segment, s.isC0 = false ∧ s.chanCipher ch = true ∧ s.delivers (chanWing ch) =
    true ∧ s.rxSlots (chanWing ch) (chanNum ch) ≠ 0 ∧ s.wingRuns (chanWing ch) = true ∧ s.halted 4 = false ∧
    s.flag .CIP_CH_STAT_SEG_LOCK [ch] = true ∧ ssbOk seg.ssb = true ∧ ssbVoid seg.ssb = false ∧
    s.cip.spoiled.contains (ch : Nat) = false ∧ s.slotState (slotOf ch 1 (bitNat (ssbKp seg.ssb))) = 3 ∧
    s.rd .CIP_SLOT_USAGE_USAGE [slotOf ch 1 (bitNat (ssbKp seg.ssb))] ≤ ssbCounter seg.ssb ∧
    s.foundAt (lineAt 5 (slotOf ch 1 (bitNat (ssbKp seg.ssb)))) .clean = .clean ∧ (s.rxCtx ch =
    true ∨ s.cip.contexts.length < 4096) :=
  ⟨{ running [(.GLB_ID_VARIANT, [], 1), (.ELC_CHAN_CFG_CIPHER_EN, [0, 3], 1), (.RXW_RX_STAT_STATE, [0], 11),
    (.OPT_RX_STAT_LOS, [0], 0), (.RXW_HDR_STAT_MAP_VALID, [0], 1), (.CIP_CH_STAT_SEG_LOCK, [3], 1),
    (.CIP_SLOT_STAT_STATE, [14], 3)] with rx := ⟨{ RxLine.reset with active := [3] }, RxLine.reset⟩ }, 3, ⟨⟨2,
    ssbBytes false false 10 63⟩, [], [⟨2, [0xE2]⟩, ⟨2, [0xE3]⟩, ⟨2, [0xE4]⟩], ⟨2, ssbBytes false false 11 63⟩,
    false⟩, by decide +kernel⟩

theorem witness_SegmentsAndPipelines_3_1 :
    ∃ s : State, ∃ ch : Fin 64, ∃ seg : Segment, s.isC0 = false ∧ s.chanCipher ch = true ∧ s.delivers (chanWing ch) =
    true ∧ s.rxSlots (chanWing ch) (chanNum ch) ≠ 0 ∧ s.wingRuns (chanWing ch) = true ∧ s.halted 4 = false ∧
    s.flag .CIP_CH_STAT_SEG_LOCK [ch] = true ∧ ssbOk seg.ssb = true ∧ ssbVoid seg.ssb = false ∧
    s.cip.spoiled.contains (ch : Nat) = false ∧ s.slotState (slotOf ch 1 (bitNat (ssbKp seg.ssb))) = 3 ∧
    s.rd .CIP_SLOT_USAGE_USAGE [slotOf ch 1 (bitNat (ssbKp seg.ssb))] ≤ ssbCounter seg.ssb ∧
    s.foundAt (lineAt 5 (slotOf ch 1 (bitNat (ssbKp seg.ssb)))) .clean = .clean ∧ (s.rxCtx ch =
    true ∨ s.cip.contexts.length < 4096) :=
  ⟨{ running [(.GLB_ID_VARIANT, [], 1), (.ELC_CHAN_CFG_CIPHER_EN, [0, 3], 1), (.RXW_RX_STAT_STATE, [0], 11),
    (.OPT_RX_STAT_LOS, [0], 0), (.RXW_HDR_STAT_MAP_VALID, [0], 1), (.CIP_CH_STAT_SEG_LOCK, [3], 1),
    (.CIP_SLOT_STAT_STATE, [14], 3)] with rx := ⟨{ RxLine.reset with active := [3] }, RxLine.reset⟩ }, 3, ⟨⟨2,
    ssbBytes false false 10 63⟩, [], [⟨2, [0xE2]⟩, ⟨2, [0xE3]⟩, ⟨2, [0xE4]⟩], ⟨2, ssbBytes false false 11 63⟩, true⟩,
    by decide +kernel⟩

theorem witness_SegmentsAndPipelines_4 :
    ∃ s : State, ∃ ch : Fin 64, s.flag .CIP_CH_STAT_SEG_LOCK [ch] = true ∧ 3 ≤ tabGet 0 s.cip.missed ch :=
  ⟨{ running [(.CIP_CH_STAT_SEG_LOCK, [3], 1)] with cip := { Cipher.reset with missed := [(3, 3)] } }, 3,
    by decide +kernel⟩

theorem witness_SegmentsAndPipelines_5 :
    ∃ s : State, ∃ req : Req, ∃ ch : Fin 64, s.takesFrom req = true ∧ s.slotState (slotOf ch 0 0) = 3 ∧
    s.slotState (slotOf ch 0 1) = 2 :=
  ⟨running [(.CIP_SLOT_STAT_STATE, [12], 3), (.CIP_SLOT_STAT_STATE, [13], 2)], .pf0, 3, by decide +kernel⟩

theorem witness_SegmentsAndPipelines_6 :
    ∃ s : State, ∃ slot : Fin 256, s.secRuns = true ∧ s.slotState slot = 4 ∧ s.cip.contexts = [] ∧
    (s.keySlot slot).next = none :=
  ⟨running [(.CIP_SLOT_STAT_STATE, [12], 4)], 12, by decide +kernel⟩

theorem witness_SegmentsAndPipelines_7 :
    ∃ s : State, ∃ slot : Fin 256, ∃ key : Nat, s.secRuns = true ∧ s.slotState slot = 4 ∧ s.cip.contexts = [] ∧
    (s.keySlot slot).next = some key :=
  ⟨{ running [(.CIP_SLOT_STAT_STATE, [12], 4)] with cip := { Cipher.reset with slots := [(12, ⟨5, some 99, 0⟩)] } },
    12, 99, by decide +kernel⟩

theorem witness_SegmentsAndPipelines_8 :
    ∃ s : State, ∃ p : Fin 16, ∃ k : Nat, ∃ x : Context, s.halted 4 = false ∧ s.cip.pipes = [((p : Nat), ⟨some k,
    none⟩)] ∧ s.cip.contexts = [x] ∧ x.id = k ∧ x.isRx = false ∧ x.bytes ≤ 1024 ∧ s.cip.ready = [] ∧
    s.foundAt (lineAt 2 x.place) .clean = .clean :=
  ⟨{ running [] with
    cip := { Cipher.reset with pipes := [(2, ⟨some 7, none⟩)], contexts := [⟨7, 3, 12, 1024, 0⟩], nextId := 8 } }, 2,
    7, ⟨7, 3, 12, 1024, 0⟩, by decide +kernel⟩

theorem witness_SegmentsAndPipelines_9 :
    ∃ s : State, ∃ left : List Nat, ∃ k : Nat, ∃ p : Nat, s.halted 4 = false ∧
    (List.range 16).all (fun p => (s.pipe p).run.isSome) = true ∧ s.cip.ready.find? s.ctxUrgent = some k ∧
    s.victim left = some p :=
  ⟨{ running [(.CIP_CH_CFG_URGENT, [3], 1)] with
    cip := { Cipher.reset with
    pipes := (List.range 16).map (fun p => (p, ⟨some p, none⟩)), contexts := ⟨50, 3, 12, 512,
    0⟩ :: (List.range 16).map (fun p => ⟨p, 5, 20, 2048, 1⟩), ready := [50], nextId := 51 } }, (List.range 16), 50,
    15, by decide +kernel⟩

theorem witness_CupboardCommands_0 :
    ∃ s : State, ∃ req : Req, ∃ slot : Fin 512, ∃ r : Nat, s.takesFrom req = true ∧ s.secRuns = true ∧
    s.loadReason slot = some r :=
  ⟨running [(.GLB_ID_VARIANT, [], 1)], .pf0, 300, 2, by decide +kernel⟩

theorem witness_CupboardCommands_1 :
    ∃ s : State, ∃ req : Req, ∃ slot : Fin 512, s.takesFrom req = true ∧ s.secRuns = true ∧ s.isC0 = false ∧
    s.flag .SEC_KEY_STAT_BUSY = false ∧ (slot : Nat) ≤ 255 ∧ s.isKem ((slot : Nat) / 4) = false ∧ s.cip.kek.isSome =
    true :=
  ⟨{ running [(.GLB_ID_VARIANT, [], 1)] with cip := { Cipher.reset with kek := some [1] } }, .pf0, 12,
    by decide +kernel⟩

theorem witness_CupboardCommands_1_1 :
    ∃ s : State, ∃ req : Req, ∃ slot : Fin 512, s.takesFrom req = true ∧ s.secRuns = true ∧ s.isC0 = false ∧
    s.flag .SEC_KEY_STAT_BUSY = false ∧ (slot : Nat) ≤ 255 ∧ s.isKem ((slot : Nat) / 4) = false ∧ s.cip.kek.isSome =
    true :=
  ⟨{ running [(.GLB_ID_VARIANT, [], 1), (.CIP_SLOT_STAT_STATE, [12], 3)] with
    cip := { Cipher.reset with kek := some [1] } }, .pf0, 12, by decide +kernel⟩

theorem witness_CupboardCommands_1_2 :
    ∃ s : State, ∃ req : Req, ∃ slot : Fin 512, s.takesFrom req = true ∧ s.secRuns = true ∧ s.isC0 = false ∧
    s.flag .SEC_KEY_STAT_BUSY = false ∧ (slot : Nat) ≤ 255 ∧ s.isKem ((slot : Nat) / 4) = false ∧ s.cip.kek.isSome =
    true :=
  ⟨{ running [(.GLB_ID_VARIANT, [], 1), (.CIP_SLOT_STAT_STATE, [12], 5)] with
    cip := { Cipher.reset with kek := some [1] } }, .pf0, 12, by decide +kernel⟩

theorem witness_CupboardCommands_1_3 :
    ∃ s : State, ∃ req : Req, ∃ slot : Fin 512, s.takesFrom req = true ∧ s.secRuns = true ∧ s.isC0 = false ∧
    s.flag .SEC_KEY_STAT_BUSY = false ∧ (slot : Nat) ≤ 255 ∧ s.isKem ((slot : Nat) / 4) = false ∧ s.cip.kek.isSome =
    true :=
  ⟨{ running [(.GLB_ID_VARIANT, [], 1), (.CIP_SLOT_STAT_STATE, [12], 1)] with
    cip := { Cipher.reset with kek := some [1] } }, .pf0, 12, by decide +kernel⟩

theorem witness_CupboardCommands_2 :
    ∃ s : State, ∃ req : Req, ∃ slot : Fin 512, s.takesFrom req = true ∧ s.secRuns = true ∧ s.isC0 = false ∧
    s.flag .SEC_KEY_STAT_BUSY = false ∧ (slot : Nat) ≤ 255 :=
  ⟨running [(.GLB_ID_VARIANT, [], 1)], .pf0, 12, by decide +kernel⟩

theorem witness_CupboardCommands_2_1 :
    ∃ s : State, ∃ req : Req, ∃ slot : Fin 512, s.takesFrom req = true ∧ s.secRuns = true ∧ s.isC0 = false ∧
    s.flag .SEC_KEY_STAT_BUSY = false ∧ (slot : Nat) ≤ 255 :=
  ⟨running [(.GLB_ID_VARIANT, [], 1), (.CIP_SLOT_STAT_STATE, [12], 2)], .pf0, 12, by decide +kernel⟩

theorem witness_CupboardCommands_2_2 :
    ∃ s : State, ∃ req : Req, ∃ slot : Fin 512, s.takesFrom req = true ∧ s.secRuns = true ∧ s.isC0 = false ∧
    s.flag .SEC_KEY_STAT_BUSY = false ∧ (slot : Nat) ≤ 255 :=
  ⟨running [(.GLB_ID_VARIANT, [], 1), (.CIP_SLOT_STAT_STATE, [12], 3)], .pf0, 12, by decide +kernel⟩

theorem witness_CupboardCommands_2_3 :
    ∃ s : State, ∃ req : Req, ∃ slot : Fin 512, s.takesFrom req = true ∧ s.secRuns = true ∧ s.isC0 = false ∧
    s.flag .SEC_KEY_STAT_BUSY = false ∧ (slot : Nat) ≤ 255 :=
  ⟨running [(.GLB_ID_VARIANT, [], 1), (.CIP_SLOT_STAT_STATE, [12], 5)], .pf0, 12, by decide +kernel⟩

theorem witness_CupboardCommands_3 :
    ∃ s : State, ∃ req : Req, s.takesFrom req = true ∧ s.secRuns = true ∧ s.isC0 = false ∧
    s.flag .SEC_KEY_STAT_BUSY = false :=
  ⟨running [(.GLB_ID_VARIANT, [], 1)], .pf0, by decide +kernel⟩

theorem witness_CupboardCommands_3_1 :
    ∃ s : State, ∃ req : Req, s.takesFrom req = true ∧ s.secRuns = true ∧ s.isC0 = false ∧
    s.flag .SEC_KEY_STAT_BUSY = false :=
  ⟨running [(.GLB_ID_VARIANT, [], 1)], .pf0, by decide +kernel⟩

theorem witness_CupboardCommands_4 :
    ∃ s : State, ∃ req : Req, s.takesFrom req = true ∧ s.secRuns = true ∧ s.flag .SEC_KEY_STAT_BUSY = false :=
  ⟨running [], .pf0, by decide +kernel⟩

theorem witness_CupboardCommands_5 :
    ∃ s : State, s.secRuns = true ∧ s.flag .SEC_KEY_STAT_BUSY = true ∧ (!usesDma s.cip.cmd || s.dmaServes .xfer) =
    true :=
  ⟨running [(.SEC_KEY_STAT_BUSY, [], 1)], by decide +kernel⟩

theorem witness_CupboardCommands_5_1 :
    ∃ s : State, s.secRuns = true ∧ s.flag .SEC_KEY_STAT_BUSY = true ∧ (!usesDma s.cip.cmd || s.dmaServes .xfer) =
    true :=
  ⟨{ running [(.SEC_KEY_STAT_BUSY, [], 1)] with
    cip := { Cipher.reset with cmd := 4 }, host := { HostIf.reset with engine7 := [.xfer] } }, by decide +kernel⟩

theorem witness_Sessions_0 :
    ∃ s : State, ∃ w : Wing, s.sesOn w = true ∧ s.initiates w = true ∧ s.rd .SEC_SES_STAT_STATE [w.n] = 0 :=
  ⟨running [(.GLB_ID_VARIANT, [], 1), (.SEC_SES_CFG_EN, [0], 1), (.OHD_FR_STAT_IF, [0], 1), (.SEC_PEER_ID_LO_ID, [0],
    5)], .a, by decide +kernel⟩

theorem witness_Sessions_1 :
    ∃ s : State, ∃ w : Wing, s.sesOn w = true ∧ s.initiates w = true ∧ s.rd .SEC_SES_STAT_STATE [w.n] = 2 :=
  ⟨running [(.GLB_ID_VARIANT, [], 1), (.SEC_SES_CFG_EN, [0], 1), (.OHD_FR_STAT_IF, [0], 1), (.SEC_PEER_ID_LO_ID, [0],
    5), (.SEC_SES_STAT_STATE, [0], 2)], .a, by decide +kernel⟩

theorem witness_Sessions_2 :
    ∃ s : State, ∃ w : Wing, ∃ p : KeMsg, s.sesOn w = true ∧ certId p.cert < s.devId :=
  ⟨running [(.GLB_ID_VARIANT, [], 1), (.SEC_SES_CFG_EN, [0], 1), (.OHD_FR_STAT_IF, [0], 1), (.SEC_DEV_ID_LO_ID, [],
    5)], .a, ⟨[1], List.replicate 8 0, [2], [3]⟩, by decide +kernel⟩

theorem witness_Sessions_3 :
    ∃ s : State, ∃ w : Wing, s.sesGoes w = true ∧ (s.cip.sessions.get w).step = 1 :=
  ⟨{ running [(.GLB_ID_VARIANT, [], 1), (.SEC_SES_CFG_EN, [0], 1), (.OHD_FR_STAT_IF, [0], 1)] with
    cip := { Cipher.reset with sessions := ⟨{ Session.reset with step := 1 }, Session.reset⟩ } }, .a,
    by decide +kernel⟩

theorem witness_Sessions_4 :
    ∃ s : State, ∃ w : Wing, s.sesGoes w = true ∧ ((s.cip.sessions.get w).step = 2 ∨ (s.cip.sessions.get w).step =
    3) :=
  ⟨{ running [(.GLB_ID_VARIANT, [], 1), (.SEC_SES_CFG_EN, [0], 1), (.OHD_FR_STAT_IF, [0], 1)] with
    cip := { Cipher.reset with sessions := ⟨{ Session.reset with step := 3, newSecret := [8] }, Session.reset⟩ } },
    .a, by decide +kernel⟩

theorem witness_Sessions_4_1 :
    ∃ s : State, ∃ w : Wing, s.sesGoes w = true ∧ ((s.cip.sessions.get w).step = 2 ∨ (s.cip.sessions.get w).step =
    3) :=
  ⟨{ running [(.GLB_ID_VARIANT, [], 1), (.SEC_SES_CFG_EN, [0], 1), (.OHD_FR_STAT_IF, [0], 1)] with
    cip := { Cipher.reset with sessions := ⟨{ Session.reset with step := 3, newSecret := [8] }, Session.reset⟩ } },
    .a, by decide +kernel⟩

theorem witness_Sessions_5 :
    ∃ s : State, ∃ w : Wing, s.secRuns = true ∧ s.rd .SEC_SES_STAT_STATE [w.n] = 1 :=
  ⟨running [(.GLB_ID_VARIANT, [], 1), (.SEC_SES_CFG_EN, [0], 1), (.OHD_FR_STAT_IF, [0], 1), (.SEC_SES_STAT_STATE,
    [0], 1)], .a, by decide +kernel⟩

theorem witness_Sessions_6 :
    ∃ s : State, ∃ w : Wing, s.secRuns = true ∧ s.rd .SEC_SES_STAT_STATE [w.n] = 3 :=
  ⟨running [(.GLB_ID_VARIANT, [], 1), (.SEC_SES_CFG_EN, [0], 1), (.OHD_FR_STAT_IF, [0], 1), (.SEC_SES_STAT_STATE,
    [0], 3)], .a, by decide +kernel⟩

theorem witness_Sessions_6_1 :
    ∃ s : State, ∃ w : Wing, s.secRuns = true ∧ s.rd .SEC_SES_STAT_STATE [w.n] = 3 :=
  ⟨running [(.SEC_SES_STAT_STATE, [0], 3)], .a, by decide +kernel⟩

theorem witness_Sessions_7 :
    ∃ s : State, ∃ w : Wing, ∃ ch : Fin 32, ∃ session : Nat, ∃ gen : Nat, s.sesGoes w = true ∧
    s.slotState (slotOf (chanIndex w ch) 0 0) = 1 ∧ s.rd .CIP_SLOT_STAT_GEN [slotOf (chanIndex w ch) 0 0] = gen ∧
    (s.keySlot (slotOf (chanIndex w ch) 0 0)).session = session :=
  ⟨{ running [(.GLB_ID_VARIANT, [], 1), (.SEC_SES_CFG_EN, [0], 1), (.OHD_FR_STAT_IF, [0], 1), (.CIP_SLOT_STAT_STATE,
    [12], 1), (.CIP_SLOT_STAT_GEN, [12], 4)] with cip := { Cipher.reset with slots := [(12, ⟨5, none, 9⟩)] } }, .a,
    3, 9, 4, by decide +kernel⟩

theorem witness_ClientPorts_0 :
    ∃ s : State, ∃ port : Fin 32, s.isRunning = true ∧ s.flag .CLI_PORT_STAT_LINK [port] = true ∧
    s.rd .HAL_LB_MODE [port] ≠ 2 ∧ s.portFailed port = false :=
  ⟨{ running [(.CLI_PORT_STAT_LINK, [0], 1), (.HAL_MAP_VALID, [0], 1), (.CLI_PORT_CFG_ENABLE, [0], 1),
    (.PAN_SHARED_FREE, [], 1000), (.PAN_EQ_CFG_ALPHA, [0], 4)] with
    tx := ⟨{ TxRate.reset with enabled := 1 }, TxRate.reset⟩ }, 0, by decide +kernel⟩

theorem witness_ClientPorts_1 :
    ∃ s : State, ∃ port : Fin 32, ∃ f : Frame, s.isRunning = true ∧ s.flag .CLI_PORT_STAT_LINK [port] = true ∧
    s.rd .HAL_LB_MODE [port] ≠ 2 ∧ s.portFailed port = false ∧ 64 ≤ f.len ∧ s.blockStopped 2 = false :=
  ⟨{ running [(.CLI_PORT_STAT_LINK, [0], 1), (.HAL_MAP_VALID, [0], 1), (.CLI_PORT_CFG_ENABLE, [0], 1),
    (.PAN_SHARED_FREE, [], 1000), (.PAN_EQ_CFG_ALPHA, [0], 4)] with
    tx := ⟨{ TxRate.reset with enabled := 1 }, TxRate.reset⟩ }, 0, frame0, by decide +kernel⟩

theorem witness_ClientPorts_2 :
    ∃ s : State, ∃ port : Fin 32, tabGet 0 s.pan.pfcDue port &&& s.rd .CLI_PFC_CFG_TX_EN [port] ≠ 0 ∧
    s.portSends port = true :=
  ⟨{ running [(.CLI_PFC_CFG_TX_EN, [0], 7), (.SDS_LANE_STAT_TX_HALF, [0], 0), (.SDS_LANE_STAT_TX_HALF, [1], 0),
    (.SDS_LANE_STAT_TX_HALF, [2], 0), (.SDS_LANE_STAT_TX_HALF, [3], 0)] with
    pan := { Pantry.reset with pfcDue := [(0, 5)], pfcXoff := [(0, 1)] } }, 0, by decide +kernel⟩

theorem witness_ClientPorts_3 :
    ∃ s : State, ∃ port : Fin 32, ∃ cls : Fin 8, (tabGet 0 s.pan.pfcXoff port).testBit cls = true ∧
    (s.rd .CLI_PFC_CFG_TX_EN [port]).testBit cls = true :=
  ⟨{ running [(.CLI_PFC_CFG_TX_EN, [3], 4)] with pan := { Pantry.reset with pfcXoff := [(3, 4)] } }, 3, 2,
    by decide +kernel⟩

theorem witness_ClientPorts_4 :
    ∃ s : State, ∃ port : Fin 32, ∃ len : Nat, s.isRunning = true ∧ s.flag .CLI_PORT_STAT_LINK [port] = true ∧
    s.rd .HAL_LB_MODE [port] ≠ 2 ∧ s.portFailed port = false ∧ 64 ≤ len ∧ s.blockStopped 2 = false :=
  ⟨running [(.CLI_PORT_STAT_LINK, [0], 1), (.CLI_PFC_CFG_RX_EN, [0], 255), (.CLI_PORT_STAT_PAUSED, [0], 14)], 0, 64,
    by decide +kernel⟩

theorem witness_ClientPorts_4_1 :
    ∃ s : State, ∃ port : Fin 32, ∃ len : Nat, s.isRunning = true ∧ s.flag .CLI_PORT_STAT_LINK [port] = true ∧
    s.rd .HAL_LB_MODE [port] ≠ 2 ∧ s.portFailed port = false ∧ 64 ≤ len ∧ s.blockStopped 2 = false :=
  ⟨running [(.CLI_PORT_STAT_LINK, [0], 1), (.CLI_PFC_CFG_RX_EN, [0], 255), (.CLI_PORT_STAT_PAUSED, [0], 14)], 0, 64,
    by decide +kernel⟩

theorem witness_ClientPorts_4_2 :
    ∃ s : State, ∃ port : Fin 32, ∃ len : Nat, s.isRunning = true ∧ s.flag .CLI_PORT_STAT_LINK [port] = true ∧
    s.rd .HAL_LB_MODE [port] ≠ 2 ∧ s.portFailed port = false ∧ 64 ≤ len ∧ s.blockStopped 2 = false :=
  ⟨running [(.CLI_PORT_STAT_LINK, [0], 1), (.CLI_PFC_CFG_RX_EN, [0], 255), (.CLI_PORT_STAT_PAUSED, [0], 14)], 0, 64,
    by decide +kernel⟩

theorem witness_ClientPorts_6 :
    ∃ s : State, ∃ port : Fin 32, s.portDefined port = true :=
  ⟨running [], 0, by decide +kernel⟩

theorem witness_FramesEnterQueues_0 :
    ∃ s : State, ∃ port : Fin 32, ∃ f : Frame, ∃ q : Nat, ∃ d : Bool, ∃ src : CellSource, s.isRunning = true ∧
    s.flag .CLI_PORT_STAT_LINK [port] = true ∧ s.rd .HAL_LB_MODE [port] = 0 ∧ s.portFailed port = false ∧
    64 ≤ f.len ∧ f.len ≤ 16000 ∧ s.power.state = 0 ∧ s.blockFailed 3 = false ∧ s.blockStopped 2 = false ∧
    s.flag .CLI_POL_CTL_EN [port, s.classOf port f] = false ∧ s.flag .HAL_MAP_VALID [port] = true ∧
    s.flag .HAL_MAP_PROT [port] = false ∧ s.flag .CLI_PORT_CFG_ENABLE [port] = true ∧ q =
    8 * s.rd .HAL_MAP_CHAN [port] + s.classOf port f ∧ s.queueStopped q = false ∧ s.descFor q = some d ∧
    (s.sourceFor q (cellsOf f.len) false).toOption = some src :=
  ⟨{ running [(.CLI_PORT_STAT_LINK, [0], 1), (.HAL_MAP_VALID, [0], 1), (.CLI_PORT_CFG_ENABLE, [0], 1),
    (.PAN_SHARED_FREE, [], 1000), (.PAN_EQ_CFG_ALPHA, [0], 4), (.PAN_EQ_CFG_RESERVE, [0], 9)] with
    tx := ⟨{ TxRate.reset with enabled := 1 }, TxRate.reset⟩,
    image := { ImageState.reset with
    running := some { img0 with pantry := ⟨[(0, 1000)], 0, 0, 0, 785432, 1000, 1000, 1000⟩ } } }, 0, frame0, 0, true,
    .reserve, by decide +kernel⟩

theorem witness_FramesEnterQueues_0_1 :
    ∃ s : State, ∃ port : Fin 32, ∃ f : Frame, ∃ q : Nat, ∃ d : Bool, ∃ src : CellSource, s.isRunning = true ∧
    s.flag .CLI_PORT_STAT_LINK [port] = true ∧ s.rd .HAL_LB_MODE [port] = 0 ∧ s.portFailed port = false ∧
    64 ≤ f.len ∧ f.len ≤ 16000 ∧ s.power.state = 0 ∧ s.blockFailed 3 = false ∧ s.blockStopped 2 = false ∧
    s.flag .CLI_POL_CTL_EN [port, s.classOf port f] = false ∧ s.flag .HAL_MAP_VALID [port] = true ∧
    s.flag .HAL_MAP_PROT [port] = false ∧ s.flag .CLI_PORT_CFG_ENABLE [port] = true ∧ q =
    8 * s.rd .HAL_MAP_CHAN [port] + s.classOf port f ∧ s.queueStopped q = false ∧ s.descFor q = some d ∧
    (s.sourceFor q (cellsOf f.len) false).toOption = some src :=
  ⟨{ running [(.CLI_PORT_STAT_LINK, [0], 1), (.HAL_MAP_VALID, [0], 1), (.CLI_PORT_CFG_ENABLE, [0], 1),
    (.PAN_SHARED_FREE, [], 1000), (.PAN_EQ_CFG_ALPHA, [0], 4)] with
    tx := ⟨{ TxRate.reset with enabled := 1 }, TxRate.reset⟩,
    image := { ImageState.reset with
    running := some { img0 with pantry := ⟨[(0, 1000)], 0, 0, 0, 785432, 1000, 1000, 1000⟩ } } }, 0, frame0, 0, true,
    .shared, by decide +kernel⟩

theorem witness_FramesEnterQueues_1 :
    ∃ s : State, ∃ q : Nat, ∃ d : Bool, ∃ src : CellSource, s.flag .HAL_TPG_CFG_EN = true ∧ q =
    (if s.flag .HAL_TPG_CFG_DIR then 512 + (8 * s.rd .HAL_TPG_CFG_TARGET + s.rd .HAL_TPG_CFG_CLASS) % 256
        else 8 * s.rd .HAL_TPG_CFG_TARGET + s.rd .HAL_TPG_CFG_CLASS) ∧ s.queueStopped q = false ∧ s.descFor q =
        some d ∧ (s.sourceFor q (cellsOf (s.rd .HAL_TPG_CFG_LEN)) false).toOption = some src :=
  ⟨{ running [(.CLI_PORT_STAT_LINK, [0], 1), (.HAL_MAP_VALID, [0], 1), (.CLI_PORT_CFG_ENABLE, [0], 1),
    (.PAN_SHARED_FREE, [], 1000), (.PAN_EQ_CFG_ALPHA, [0], 4), (.HAL_TPG_CFG_EN, [], 1), (.HAL_TPG_CFG_LEN, [], 64)]
    with tx := ⟨{ TxRate.reset with enabled := 1 }, TxRate.reset⟩, image := { ImageState.reset with running := some {
    img0 with pantry := ⟨[(0, 1000)], 0, 0, 0, 785432, 1000, 1000, 1000⟩ } } }, 0, true, .shared, by decide +kernel⟩

theorem witness_FramesEnterQueues_2 :
    ∃ s : State, ∃ w : Wing, ∃ ch : Fin 32, ∃ f : Frame, ∃ p : Nat, ∃ q : Nat, ∃ d : Bool, ∃ src : CellSource,
    s.delivers w = true ∧ s.rxSlots w ch ≠ 0 ∧ s.wingRuns w = true ∧ s.ssfChan w ch = false ∧
    s.chanCipher (chanIndex w ch) = false ∧ s.chanPort (chanIndex w ch) = some p ∧ s.groupOf (chanIndex w ch) =
    none ∧ s.rd .HAL_LB_MODE [p] ≠ 2 ∧ q = 512 + 8 * p + s.classOf p f ∧ s.queueStopped q = false ∧ s.descFor q =
    some d ∧ (s.sourceFor q (cellsOf f.len) false).toOption = some src :=
  ⟨{ running [(.CLI_PORT_STAT_LINK, [0], 1), (.HAL_MAP_VALID, [0], 1), (.CLI_PORT_CFG_ENABLE, [0], 1),
    (.PAN_SHARED_FREE, [], 1000), (.PAN_EQ_CFG_ALPHA, [0], 4), (.PAN_IQ_CFG_ALPHA, [0], 4), (.RXW_RX_STAT_STATE, [0],
    11), (.OPT_RX_STAT_LOS, [0], 0), (.RXW_HDR_STAT_MAP_VALID, [0], 1), (.OHD_SM_DEF_LOF, [0], 0), (.OHD_FR_STAT_IF,
    [0], 1), (.OHD_FR_STAT_IM, [0], 1), (.FEC_STAT_LOCKED, [0], 1)] with
    tx := ⟨{ TxRate.reset with enabled := 1 }, TxRate.reset⟩,
    image := { ImageState.reset with
    running := some { img0 with pantry := ⟨[(0, 1000)], 0, 0, 0, 785432, 1000, 1000, 1000⟩ } },
    rx := ⟨{ RxLine.reset with active := List.replicate 20 0 }, RxLine.reset⟩ }, .a, 0, frame0, 0, 512, true,
    .shared, by decide +kernel⟩

theorem witness_SchedulerAndGates_0 :
    ∃ s : State, ∃ inst : Fin 96, ∃ line : MemLine, ∃ found : EccRead, ∃ q : Nat, ∃ x : Queued, ∃ rest : List Queued,
    s.choose inst = some q ∧ s.queue q = x :: rest ∧ (s.descFound x line found).2 ≠ .double :=
  ⟨{ running [(.CLI_PORT_STAT_LINK, [0], 1), (.CLI_PORT_CFG_ENABLE, [0], 1), (.SDS_LANE_STAT_TX_HALF, [0], 0),
    (.SDS_LANE_STAT_TX_HALF, [1], 0), (.SDS_LANE_STAT_TX_HALF, [2], 0), (.SDS_LANE_STAT_TX_HALF, [3], 0)] with
    pan := { Pantry.reset with queues := [(512, [⟨frame0, 1, .reserve, true, none, [], none, 0, 0⟩])] } }, 64, ⟨0, 0,
    0⟩, .clean, 512, ⟨frame0, 1, .reserve, true, none, [], none, 0, 0⟩, [], by decide +kernel⟩

theorem witness_SchedulerAndGates_2 :
    ∃ s : State, ∃ req : Req, s.takesFrom req = true :=
  ⟨running [(.REF_MT_LO_MT, [], 12345)], .pf0, by decide +kernel⟩

theorem witness_SchedulerAndGates_3 :
    ∃ s : State, ∃ req : Req, s.takesFrom req = true :=
  ⟨running [], .pf0, by decide +kernel⟩

theorem witness_SchedulerAndGates_3_1 :
    ∃ s : State, ∃ req : Req, s.takesFrom req = true :=
  ⟨running [], .pf0, by decide +kernel⟩

theorem witness_SchedulerAndGates_4 :
    ∃ s : State, ∃ ch : Fin 64, s.flag .SCH_GCL_STAT_PENDING [ch] = true :=
  ⟨{ running [(.SCH_GCL_STAT_PENDING, [5], 1)] with sched := { Sched.reset with staged := [(256 * 5, (3, 5000))] } },
    5, by decide +kernel⟩

theorem witness_SchedulerAndGates_5 :
    ∃ s : State, ∃ req : Req, s.takesFrom req = true :=
  ⟨running [(.SCH_GCL_WSEL_IDX, [], 255)], .pf0, by decide +kernel⟩

theorem witness_ElectricalLanes_0 :
    ∃ s : State, ∃ cor : Bool, ∃ l : Fin 32, s.laneSeq cor l = true ∧ s.stage cor l = 0 :=
  ⟨running [(.SDS_LANE_CTL_ENABLE, [2], 1), (.SDS_LANE_STAT_RX_HALF, [2], 0), (.SDS_LANE_STAT_STAGE, [2], 0)], false,
    2, by decide +kernel⟩

theorem witness_ElectricalLanes_0_1 :
    ∃ s : State, ∃ cor : Bool, ∃ l : Fin 32, s.laneSeq cor l = true ∧ s.stage cor l = 0 :=
  ⟨running [(.COR_LANE_CTL_ENABLE, [2], 1), (.COR_LANE_STAT_RX_HALF, [2], 0), (.COR_LANE_STAT_STAGE, [2], 0)], true,
    2, by decide +kernel⟩

theorem witness_ElectricalLanes_1 :
    ∃ s : State, ∃ cor : Bool, ∃ l : Fin 32, s.laneSeq cor l = true ∧ (s.laneSet cor).waiting.testBit l = false :=
  ⟨running [(.SDS_LANE_CTL_ENABLE, [2], 1), (.SDS_LANE_STAT_RX_HALF, [2], 0), (.SDS_LANE_STAT_STAGE, [2], 1)], false,
    2, by decide +kernel⟩

theorem witness_ElectricalLanes_1_1 :
    ∃ s : State, ∃ cor : Bool, ∃ l : Fin 32, s.laneSeq cor l = true ∧ (s.laneSet cor).waiting.testBit l = false :=
  ⟨running [(.SDS_LANE_CTL_ENABLE, [2], 1), (.SDS_LANE_STAT_RX_HALF, [2], 0), (.SDS_LANE_STAT_STAGE, [2], 2)], false,
    2, by decide +kernel⟩

theorem witness_ElectricalLanes_1_2 :
    ∃ s : State, ∃ cor : Bool, ∃ l : Fin 32, s.laneSeq cor l = true ∧ (s.laneSet cor).waiting.testBit l = false :=
  ⟨running [(.SDS_LANE_CTL_ENABLE, [2], 1), (.SDS_LANE_STAT_RX_HALF, [2], 0), (.SDS_LANE_STAT_STAGE, [2], 3)], false,
    2, by decide +kernel⟩

theorem witness_ElectricalLanes_1_3 :
    ∃ s : State, ∃ cor : Bool, ∃ l : Fin 32, s.laneSeq cor l = true ∧ (s.laneSet cor).waiting.testBit l = false :=
  ⟨running [(.SDS_LANE_CTL_ENABLE, [2], 1), (.SDS_LANE_STAT_RX_HALF, [2], 0), (.SDS_LANE_STAT_STAGE, [2], 4)], false,
    2, by decide +kernel⟩

theorem witness_ElectricalLanes_1_4 :
    ∃ s : State, ∃ cor : Bool, ∃ l : Fin 32, s.laneSeq cor l = true ∧ (s.laneSet cor).waiting.testBit l = false :=
  ⟨running [(.SDS_LANE_CTL_ENABLE, [2], 1), (.SDS_LANE_STAT_RX_HALF, [2], 0), (.SDS_LANE_STAT_STAGE, [2], 4),
    (.SDS_RXEQ_FOM_MIN, [2], 255)], false, 2, by decide +kernel⟩

theorem witness_ElectricalLanes_2 :
    ∃ s : State, ∃ cor : Bool, ∃ l : Fin 32, ∃ reason : Fin 16, s.laneSeq cor l = true ∧ 1 ≤ (reason : Nat) ∧
    (reason : Nat) ≤ 3 ∧ s.stage cor l = failStage reason :=
  ⟨running [(.SDS_LANE_CTL_ENABLE, [2], 1), (.SDS_LANE_STAT_RX_HALF, [2], 0), (.SDS_LANE_STAT_STAGE, [2], 2)], false,
    2, 2, by decide +kernel⟩

theorem witness_ElectricalLanes_2_1 :
    ∃ s : State, ∃ cor : Bool, ∃ l : Fin 32, ∃ reason : Fin 16, s.laneSeq cor l = true ∧ 1 ≤ (reason : Nat) ∧
    (reason : Nat) ≤ 3 ∧ s.stage cor l = failStage reason :=
  ⟨running [(.SDS_LANE_CTL_ENABLE, [2], 1), (.SDS_LANE_STAT_RX_HALF, [2], 0), (.SDS_LANE_STAT_STAGE, [2], 5)], false,
    2, 3, by decide +kernel⟩

theorem witness_ElectricalLanes_2_2 :
    ∃ s : State, ∃ cor : Bool, ∃ l : Fin 32, ∃ reason : Fin 16, s.laneSeq cor l = true ∧ 1 ≤ (reason : Nat) ∧
    (reason : Nat) ≤ 3 ∧ s.stage cor l = failStage reason :=
  ⟨running [(.SDS_LANE_CTL_ENABLE, [2], 1), (.SDS_LANE_STAT_RX_HALF, [2], 0), (.SDS_LANE_STAT_STAGE, [2], 1)], false,
    2, 1, by decide +kernel⟩

theorem witness_ElectricalLanes_3 :
    ∃ s : State, ∃ cor : Bool, ∃ l : Fin 32, s.coreRuns = true ∧ s.stage cor l = 15 ∧ s.laneRuns cor l = true ∧
    s.rd (laneRow cor .SDS_LANE_STAT_FAIL_REASON .COR_LANE_STAT_FAIL_REASON) [l] < 4 :=
  ⟨running [(.SDS_LANE_CTL_ENABLE, [2], 1), (.SDS_LANE_STAT_RX_HALF, [2], 0), (.SDS_LANE_STAT_STAGE, [2], 15),
    (.SDS_LANE_STAT_FAIL_REASON, [2], 2)], false, 2, by decide +kernel⟩

theorem witness_ElectricalLanes_4 :
    ∃ s : State, ∃ cor : Bool, ∃ l : Fin 32, ∃ req : Req, s.takesFrom req = true ∧ s.laneRuns cor l = true :=
  ⟨running [(.SDS_LANE_CTL_ENABLE, [2], 1), (.SDS_LANE_STAT_RX_HALF, [2], 0), (.SDS_LANE_STAT_STAGE, [2], 7)], false,
    2, .pf0, by decide +kernel⟩

theorem witness_ElectricalLanes_4_1 :
    ∃ s : State, ∃ cor : Bool, ∃ l : Fin 32, ∃ req : Req, s.takesFrom req = true ∧ s.laneRuns cor l = true :=
  ⟨running [(.SDS_LANE_CTL_ENABLE, [2], 1), (.SDS_LANE_STAT_RX_HALF, [2], 0), (.SDS_LANE_STAT_STAGE, [2], 3)], false,
    2, .pf0, by decide +kernel⟩

theorem witness_ElectricalLanes_5 :
    ∃ s : State, ∃ cor : Bool, ∃ l : Fin 32, s.laneRuns cor l = true ∧ s.stage cor l = 7 :=
  ⟨running [(.SDS_LANE_CTL_ENABLE, [2], 1), (.SDS_LANE_STAT_RX_HALF, [2], 0), (.SDS_LANE_STAT_STAGE, [2], 7)], false,
    2, by decide +kernel⟩

theorem witness_ElectricalLanes_6 :
    ∃ s : State, ∃ cor : Bool, ∃ l : Fin 32, s.laneRuns cor l = true ∧ 5 ≤ s.stage cor l ∧ s.stage cor l ≤ 7 :=
  ⟨running [(.SDS_LANE_CTL_ENABLE, [2], 1), (.SDS_LANE_STAT_RX_HALF, [2], 0), (.SDS_LANE_STAT_STAGE, [2], 7)], false,
    2, by decide +kernel⟩

theorem witness_ElectricalLanes_6_1 :
    ∃ s : State, ∃ cor : Bool, ∃ l : Fin 32, s.laneRuns cor l = true ∧ 5 ≤ s.stage cor l ∧ s.stage cor l ≤ 7 :=
  ⟨running [(.SDS_LANE_CTL_ENABLE, [2], 1), (.SDS_LANE_STAT_RX_HALF, [2], 0), (.SDS_LANE_STAT_STAGE, [2], 6),
    (.SDS_PRBS_CTL_RX_PAT, [2], 3), (.SDS_LANE_STAT_PRBS_LOCK, [2], 1)], false, 2, by decide +kernel⟩

theorem witness_ElectricalLanes_7 :
    ∃ s : State, ∃ cor : Bool, ∃ l : Fin 32, s.laneSeq cor l = true ∧ s.stage cor l = 7 ∧
    s.flag (laneRow cor .SDS_LANE_STAT_ADAPTIVE .COR_LANE_STAT_ADAPTIVE) [l] = false ∧
    s.rdS (laneRow cor .SDS_LANE_FOM_FOM .COR_LANE_FOM_FOM) [l] < s.fomMin cor l ∧
    -128 ≤ (s.fixedTaps cor l).getD 1 0 ∧ (s.fixedTaps cor l).getD 1 0 ≤ 127 :=
  ⟨running [(.SDS_LANE_CTL_ENABLE, [2], 1), (.SDS_LANE_STAT_RX_HALF, [2], 0), (.SDS_LANE_STAT_STAGE, [2], 7),
    (.SDS_RXEQ_FOM_MIN, [2], 255), (.SDS_LANE_FOM_FOM, [2], 5)], false, 2, by decide +kernel⟩

theorem witness_References_0 :
    ∃ s : State, ∃ i : Fin 8, ∃ offset : Int, s.refUp = true ∧ s.flag .REF_CAND_STAT_QUALIFIED [i] = false ∧
    s.candCond i = true ∧ (s.seenOffset i offset).natAbs ≤ 1000 :=
  ⟨running [], 0, -1000, by decide +kernel⟩

theorem witness_References_0_1 :
    ∃ s : State, ∃ i : Fin 8, ∃ offset : Int, s.refUp = true ∧ s.flag .REF_CAND_STAT_QUALIFIED [i] = false ∧
    s.candCond i = true ∧ (s.seenOffset i offset).natAbs ≤ 1000 :=
  ⟨{ running [(.REF_CAND_WTR, [0], 5)] with dpll := { Dpll.reset with lost := 1 } }, 0, -1000, by decide +kernel⟩

theorem witness_References_1 :
    ∃ s : State, ∃ i : Fin 8, ∃ offset : Int, s.flag .REF_CAND_STAT_QUALIFIED [i] = true ∧
    1200 < (s.seenOffset i offset).natAbs :=
  ⟨running [(.REF_CAND_STAT_QUALIFIED, [0], 1)], 0, 1201, by decide +kernel⟩

theorem witness_References_1_1 :
    ∃ s : State, ∃ i : Fin 8, ∃ offset : Int, s.flag .REF_CAND_STAT_QUALIFIED [i] = true ∧
    1200 < (s.seenOffset i offset).natAbs :=
  ⟨running [(.REF_CAND_STAT_QUALIFIED, [0], 1)], 0, -40000, by decide +kernel⟩

theorem witness_References_2 :
    ∃ s : State, ∃ i : Fin 8, s.flag .REF_CAND_STAT_WTR_RUN [i] = true :=
  ⟨running [(.REF_CAND_STAT_QUALIFIED, [0], 1), (.REF_CAND_STAT_WTR_RUN, [0], 1)], 0, by decide +kernel⟩

theorem witness_References_3 :
    ∃ s : State, ∃ port : Fin 32, ∃ len : Nat, s.isRunning = true ∧ s.flag .CLI_PORT_STAT_LINK [port] = true ∧
    s.rd .HAL_LB_MODE [port] ≠ 2 ∧ s.portFailed port = false ∧ 64 ≤ len ∧ s.blockStopped 2 = false :=
  ⟨running [(.CLI_PORT_STAT_LINK, [3], 1)], 3, 64, by decide +kernel⟩

theorem witness_References_4 :
    ∃ s : State, ∃ i : Fin 8, s.candClient i = true :=
  ⟨running [], 4, by decide +kernel⟩

theorem witness_References_5 :
    ∃ s : State, ∃ p : Fin 32, (s.rd .REF_ESMC_TX_PORTS).testBit p = true ∧ s.portSends p = true :=
  ⟨running [(.CLI_PORT_STAT_LINK, [0], 1), (.REF_ESMC_TX_PORTS, [], 1), (.SDS_LANE_STAT_TX_HALF, [0], 0),
    (.SDS_LANE_STAT_TX_HALF, [1], 0), (.SDS_LANE_STAT_TX_HALF, [2], 0), (.SDS_LANE_STAT_TX_HALF, [3], 0),
    (.CLI_PORT_CFG_WIDTH, [0], 2)], 0, by decide +kernel⟩

theorem witness_References_6 :
    ∃ s : State, ∃ offsets : List (Option Int), ∃ x : Nat, s.coreRuns = true ∧ s.refUp = true ∧ s.refState ≤ 1 ∧
    ((s.begin.measureCands offsets).checkCands.moveOutput).showDisagree.wantTarget = some x ∧ x < 8 :=
  ⟨running [(.REF_CAND_STAT_QUALIFIED, [0], 1), (.REF_CAND_PRIO, [0], 1), (.REF_CAND_QL_HOST, [0], 2),
    (.REF_CFG_QL_MIN, [], 11)], [], 0, by decide +kernel⟩

theorem witness_References_7 :
    ∃ s : State, ∃ offsets : List (Option Int), ∃ x : Nat, s.coreRuns = true ∧ s.refUp = true ∧ s.refState = 2 ∧
    ((s.begin.measureCands offsets).checkCands.moveOutput).showDisagree.wantTarget = some x ∧ x < 8 ∧
    x ≠ s.rd .REF_STAT_ACTIVE :=
  ⟨running [(.REF_CAND_STAT_QUALIFIED, [0], 1), (.REF_CAND_PRIO, [0], 1), (.REF_CAND_QL_HOST, [0], 2),
    (.REF_CFG_QL_MIN, [], 11), (.REF_STAT_STATE, [], 2), (.REF_STAT_ACTIVE, [], 1)], [], 0, by decide +kernel⟩

theorem witness_References_8 :
    ∃ s : State, ∃ offsets : List (Option Int), s.coreRuns = true ∧ s.refUp = true ∧ s.refState = 2 ∧
    ((s.begin.measureCands offsets).checkCands.moveOutput).showDisagree.wantTarget = none :=
  ⟨{ running [(.REF_STAT_STATE, [], 2)] with dpll := { Dpll.reset with everLocked := true } }, [], by decide +kernel⟩

theorem witness_References_9 :
    ∃ s : State, (s.refState = 1 ∨ s.refState = 5) ∧ s.nearTarget = true ∧ s.rd .REF_STAT_TARGET < 8 :=
  ⟨running [(.REF_STAT_STATE, [], 5), (.REF_STAT_TARGET, [], 2)], by decide +kernel⟩

theorem witness_References_10 :
    ∃ s : State, s.refUp = true ∧ s.refState ≠ 7 :=
  ⟨running [(.REF_STAT_STATE, [], 2)], by decide +kernel⟩

theorem witness_References_11 :
    ∃ s : State, s.refState = 7 :=
  ⟨running [(.REF_STAT_STATE, [], 7)], by decide +kernel⟩

theorem witness_References_12 :
    ∃ s : State, ∃ req : Req, s.takesFrom req = true :=
  ⟨running [(.REF_STAT_STATE, [], 3)], .pf0, by decide +kernel⟩

theorem witness_References_13 :
    ∃ s : State, s.refState = 2 :=
  ⟨running [(.REF_STAT_STATE, [], 2), (.REF_HO_STAT_LEARN_H, [], 71)], by decide +kernel⟩

theorem witness_References_13_1 :
    ∃ s : State, s.refState = 2 :=
  ⟨running [(.REF_STAT_STATE, [], 2), (.REF_HO_STAT_LEARN_H, [], 70)], by decide +kernel⟩

theorem witness_References_14 :
    ∃ s : State, ∃ req : Req, s.takesFrom req = true :=
  ⟨running [], .pf0, by decide +kernel⟩

theorem witness_PowerEntryAndStages_0 :
    ∃ s : State, ∃ vin : Nat, s.power.state = 6 ∧ s.power.thermalLatch = false ∧ 3400 < vin ∧ vin < 7600 :=
  ⟨{ st [] with power := { Power.reset with state := 6 } }, 4800, by decide +kernel⟩

theorem witness_PowerEntryAndStages_0_1 :
    ∃ s : State, ∃ vin : Nat, s.power.state = 6 ∧ s.power.thermalLatch = false ∧ 3400 < vin ∧ vin < 7600 :=
  ⟨{ st [] with power := { Power.reset with state := 6 } }, 3401, by decide +kernel⟩

theorem witness_PowerEntryAndStages_0_2 :
    ∃ s : State, ∃ vin : Nat, s.power.state = 6 ∧ s.power.thermalLatch = false ∧ 3400 < vin ∧ vin < 7600 :=
  ⟨{ st [] with power := { Power.reset with state := 6 } }, 7599, by decide +kernel⟩

theorem witness_PowerEntryAndStages_2 :
    ∃ s : State, s.power.state ≠ 4 ∧ s.power.state ≠ 6 :=
  ⟨running [], by decide +kernel⟩

theorem witness_PowerEntryAndStages_3 :
    ∃ s : State, s.power.state ≤ 2 :=
  ⟨running [], by decide +kernel⟩

theorem witness_PowerEntryAndStages_3_1 :
    ∃ s : State, s.power.state ≤ 2 :=
  ⟨{ running [] with power := { Power.reset with state := 2 } }, by decide +kernel⟩

theorem witness_PowerEntryAndStages_4 :
    ∃ s : State, 3 ≤ s.power.state :=
  ⟨{ running [] with power := { Power.reset with state := 3 } }, by decide +kernel⟩

theorem witness_PowerEntryAndStages_5 :
    ∃ s : State, ∃ d : Domain, s.headStage = some d ∧ s.windowSum + s.stepOf d ≤ d.limit :=
  ⟨{ running [(.PWR_VIN_STAT_VIN, [], 4800)] with power := { Power.reset with queue := [.switch, .cipher] } },
    .switch, by decide +kernel⟩

theorem witness_PowerEntryAndStages_6 :
    ∃ s : State, ∃ vin : Nat, s.power.state ≤ 3 ∧ s.flag .PWR_VIN_STAT_WARN = false ∧
    s.vinSeen vin < 10 * s.rd .PWR_VIN_CFG_WARN_TH :=
  ⟨running [(.PWR_VIN_CFG_WARN_TH, [], 400), (.PWR_VIN_STAT_VIN, [], 3999)], 3999, by decide +kernel⟩

theorem witness_PowerEntryAndStages_7 :
    ∃ s : State, ∃ vin : Nat, s.flag .PWR_VIN_STAT_WARN = true ∧
    10 * (s.rd .PWR_VIN_CFG_WARN_TH + s.rd .PWR_VIN_CFG_HYST) < s.vinSeen vin :=
  ⟨running [(.PWR_VIN_STAT_WARN, [], 1), (.PWR_VIN_CFG_WARN_TH, [], 400), (.PWR_VIN_STAT_VIN, [], 4800)], 4800,
    by decide +kernel⟩

theorem witness_PowerStates_0 :
    ∃ s : State, ∃ req : Req, ∃ target : Fin 8, s.takesFrom req = true ∧ s.power.state ≤ 2 ∧ s.coreRuns = true ∧
    (target : Nat) ≤ 4 ∧ s.power.trans = none ∧ (target : Nat) ≠ s.power.state :=
  ⟨running [], .pf0, 1, by decide +kernel⟩

theorem witness_PowerStates_0_1 :
    ∃ s : State, ∃ req : Req, ∃ target : Fin 8, s.takesFrom req = true ∧ s.power.state ≤ 2 ∧ s.coreRuns = true ∧
    (target : Nat) ≤ 4 ∧ s.power.trans = none ∧ (target : Nat) ≠ s.power.state :=
  ⟨running [(.SEC_KEY_STAT_BUSY, [], 1)], .pf0, 3, by decide +kernel⟩

theorem witness_PowerStates_0_2 :
    ∃ s : State, ∃ req : Req, ∃ target : Fin 8, s.takesFrom req = true ∧ s.power.state ≤ 2 ∧ s.coreRuns = true ∧
    (target : Nat) ≤ 4 ∧ s.power.trans = none ∧ (target : Nat) ≠ s.power.state :=
  ⟨running [(.HST_DMA_CTL_EN, [2], 1)], .pf0, 3, by decide +kernel⟩

theorem witness_PowerStates_0_3 :
    ∃ s : State, ∃ req : Req, ∃ target : Fin 8, s.takesFrom req = true ∧ s.power.state ≤ 2 ∧ s.coreRuns = true ∧
    (target : Nat) ≤ 4 ∧ s.power.trans = none ∧ (target : Nat) ≠ s.power.state :=
  ⟨running [(.RAS_STAT_FAILED_MAP, [], 1024)], .pf0, 2, by decide +kernel⟩

theorem witness_PowerStates_1 :
    ∃ s : State, ∃ req : Req, ∃ target : Fin 8, s.takesFrom req = true ∧ s.power.state ≤ 2 ∧ (target : Nat) ≤ 4 ∧
    ((s.power.trans ≠ none ∨ s.coreRuns = false)) :=
  ⟨{ running [] with power := { Power.reset with trans := some 1 } }, .pf0, 2, by decide +kernel⟩

theorem witness_PowerStates_2 :
    ∃ s : State, ∃ req : Req, ∃ target : Fin 8, s.takesFrom req = true ∧ 4 < (target : Nat) :=
  ⟨running [], .pf0, 5, by decide +kernel⟩

theorem witness_PowerStates_3 :
    ∃ s : State, ∃ req : Req, s.takesFrom req = true ∧ s.power.state ≤ 2 :=
  ⟨running [], .pf0, by decide +kernel⟩

theorem witness_PowerStates_4 :
    ∃ s : State, ∃ x : Nat, s.power.trans = some x ∧ s.entryReady x = true ∧ s.power.heldTarget = none ∧ x ≤ 4 :=
  ⟨{ running [] with power := { Power.reset with trans := some 1 } }, 1, by decide +kernel⟩

theorem witness_PowerStates_4_1 :
    ∃ s : State, ∃ x : Nat, s.power.trans = some x ∧ s.entryReady x = true ∧ s.power.heldTarget = none ∧ x ≤ 4 :=
  ⟨{ running [(.PWR_WATCH_CFG_EN, [], 1)] with power := { Power.reset with trans := some 3 } }, 3, by decide +kernel⟩

theorem witness_PowerStates_4_2 :
    ∃ s : State, ∃ x : Nat, s.power.trans = some x ∧ s.entryReady x = true ∧ s.power.heldTarget = none ∧ x ≤ 4 :=
  ⟨{ running [] with power := { Power.reset with trans := some 4 } }, 4, by decide +kernel⟩

theorem witness_PowerStates_4_3 :
    ∃ s : State, ∃ x : Nat, s.power.trans = some x ∧ s.entryReady x = true ∧ s.power.heldTarget = none ∧ x ≤ 4 :=
  ⟨{ running [] with power := { Power.reset with trans := some 2 } }, 2, by decide +kernel⟩

theorem witness_PowerStates_5 :
    ∃ s : State, ∃ island : Fin 25, ∃ reason : Fin 16, ∃ x : Nat, s.power.trans = some x ∧
    s.mayRefuse x island reason = true ∧ s.power.heldTarget = none :=
  ⟨{ running [] with power := { Power.reset with trans := some 1 } }, 9, 1, 1, by decide +kernel⟩

theorem witness_PowerStates_5_1 :
    ∃ s : State, ∃ island : Fin 25, ∃ reason : Fin 16, ∃ x : Nat, s.power.trans = some x ∧
    s.mayRefuse x island reason = true ∧ s.power.heldTarget = none :=
  ⟨{ running [] with power := { Power.reset with trans := some 1 } }, 1, 6, 1, by decide +kernel⟩

theorem witness_WakesAndHierarchy_0 :
    ∃ s : State, ∃ island : Fin 25, ∃ stall : Nat, s.power.state ≤ 2 ∧ s.isRunning = true ∧ s.clocked island =
    false ∧ stall ≤ 600 :=
  ⟨running [(.PWR_STATE_STAT_WING_A, [], 1)], 9, 100, by decide +kernel⟩

theorem witness_WakesAndHierarchy_2 :
    ∃ s : State, (s.asleep = true ∨ s.power.state = 4) :=
  ⟨{ st [(.PWR_WAKE_CFG_TIMER, [], 5)] with power := { Power.reset with state := 3 } }, by decide +kernel⟩

theorem witness_WakesAndHierarchy_2_1 :
    ∃ s : State, (s.asleep = true ∨ s.power.state = 4) :=
  ⟨{ st [(.PWR_WAKE_CFG_TIMER, [], 5)] with power := { Power.reset with state := 4 } }, by decide +kernel⟩

theorem witness_WakesAndHierarchy_2_2 :
    ∃ s : State, (s.asleep = true ∨ s.power.state = 4) :=
  ⟨{ st [(.PWR_WAKE_CFG_TIMER, [], 5)] with power := { Power.reset with state := 5 } }, by decide +kernel⟩

theorem witness_WakesAndHierarchy_3 :
    ∃ s : State, s.asleep = true ∧ s.rd .PWR_WAKE_CFG_TIMER ≠ 0 :=
  ⟨{ st [(.PWR_WAKE_CFG_TIMER, [], 5)] with power := { Power.reset with state := 3 } }, by decide +kernel⟩

theorem witness_WakesAndHierarchy_4 :
    ∃ s : State, s.power.state = 5 ∧ s.rd .PWR_WATCH_CFG_WINGS = 1 ∧ s.power.watch.b = 0 :=
  ⟨{ st [(.PWR_WAKE_CFG_TIMER, [], 5), (.PWR_WATCH_CFG_WINGS, [], 1), (.PWR_WATCH_CFG_TH, [], 100)] with
    power := { Power.reset with state := 5, watch := ⟨3, 0⟩ } }, by decide +kernel⟩

theorem witness_WakesAndHierarchy_4_1 :
    ∃ s : State, s.power.state = 5 ∧ s.rd .PWR_WATCH_CFG_WINGS = 1 ∧ s.power.watch.b = 0 :=
  ⟨{ st [(.PWR_WAKE_CFG_TIMER, [], 5), (.PWR_WATCH_CFG_WINGS, [], 1), (.PWR_WATCH_CFG_TH, [], 100)] with
    power := { Power.reset with state := 5, watch := ⟨3, 0⟩ } }, by decide +kernel⟩

theorem witness_WakesAndHierarchy_5 :
    ∃ s : State, ∃ req : Req, ∃ reachable : List Nat, ∃ x : Nat, s.takesFrom req = true ∧ s.flag .COR_CTL_MANAGER =
    true ∧ s.flag .PWR_HIER_STAT_BUSY = false ∧ s.halted 5 = false ∧ s.rd .PWR_HIER_CTL_TARGET ≤ 4 ∧
    s.cor.nodes.map (·.1) = [x] ∧ reachable.contains x = true ∧ s.corPatterned (s.cor.managerPort x) = false :=
  ⟨{ running [(.COR_CTL_MANAGER, [], 1), (.PWR_HIER_CTL_TARGET, [], 2)] with
    cor := { Corridor.reset with nodes := [(7, ⟨1, 0, 0, 0, 1⟩)] } }, .pf0, [7], 7, by decide +kernel⟩

theorem witness_WakesAndHierarchy_6 :
    ∃ s : State, ∃ x : Nat, ∃ rest : List Nat, s.halted 5 = false ∧ s.power.hierLeft = x :: rest :=
  ⟨{ running [] with power := { Power.reset with hierLeft := [4, 5] } }, 4, [5], by decide +kernel⟩

theorem witness_FaultsAndRecovery_0 :
    ∃ s : State, ∃ i : Fin 25, s.flag .RAS_STAT_SWEEP_EN = true ∧ s.clocked i = true ∧ s.islandFailed i = false :=
  ⟨running [(.RAS_STAT_SWEEP_EN, [], 1)], 19, by decide +kernel⟩

theorem witness_FaultsAndRecovery_1 :
    ∃ s : State, ∃ i : Fin 25, s.clockWatched i = true ∧ s.islandFailed i = false :=
  ⟨running [], 19, by decide +kernel⟩

theorem witness_FaultsAndRecovery_2 :
    ∃ s : State, ∃ sender : Fin 25, ∃ i : Fin 25, s.flag .RAS_STAT_DWTO_EN = true ∧ s.clocked sender = true ∧
    s.clocked i = true ∧ s.islandFailed i = false :=
  ⟨running [(.RAS_STAT_DWTO_EN, [], 1)], 9, 19, by decide +kernel⟩

theorem witness_FaultsAndRecovery_4 :
    ∃ s : State, s.ras.coreDown = false ∧ s.clocked 3 = true :=
  ⟨running [], by decide +kernel⟩

theorem witness_FaultsAndRecovery_5 :
    ∃ s : State, s.ras.coreDown = true :=
  ⟨{ running [] with ras := { Reliability.reset with coreDown := true } }, by decide +kernel⟩

theorem witness_FaultsAndRecovery_7 :
    ∃ s : State, ∃ l : MemLine, ∃ found : EccRead, s.flag .RAS_SCRUB_EN = true ∧ s.foundAt l found = .single :=
  ⟨{ running [(.RAS_SCRUB_EN, [], 1)] with ras := { Reliability.reset with written := [(3, 100)] } }, ⟨3, 2, 0⟩,
    .single, by decide +kernel⟩

theorem witness_FaultsAndRecovery_8 :
    ∃ s : State, ∃ l : MemLine, ∃ found : EccRead, s.flag .RAS_SCRUB_EN = true ∧ s.foundAt l found = .double ∧
    l.mem = 0 :=
  ⟨{ running [(.RAS_SCRUB_EN, [], 1)] with ras := { Reliability.reset with written := [(0, 1000)] } }, ⟨0, 2, 0⟩,
    .double, by decide +kernel⟩

theorem witness_FaultsAndRecovery_9 :
    ∃ s : State, ∃ req : Req, s.takesFrom req = true ∧ s.recoverRefused = true :=
  ⟨running [(.RAS_STAT_FAILED_MAP, [], 524288)], .pf0, by decide +kernel⟩

theorem witness_FaultsAndRecovery_10 :
    ∃ s : State, ∃ req : Req, s.takesFrom req = true ∧ s.recoverRefused = false ∧ s.rd .RAS_CTL_SCOPE = 3 :=
  ⟨running [(.RAS_STAT_FAILED_MAP, [], 524288), (.RAS_CTL_SCOPE, [], 3)], .pf0, by decide +kernel⟩

theorem witness_FaultsAndRecovery_11 :
    ∃ s : State, ∃ req : Req, s.takesFrom req = true ∧ s.rd .RAS_INJ_MEM < 6 :=
  ⟨running [(.RAS_INJ_MEM, [], 5)], .pf0, by decide +kernel⟩

theorem witness_FaultsAndRecovery_12 :
    ∃ s : State, ∃ req : Req, s.takesFrom req = true :=
  ⟨running [(.RAS_FAULT_VALID, [], 1)], .pf0, by decide +kernel⟩

theorem witness_ModuleTimeAndCounters_0 :
    ∃ s : State, ∃ req : Req, s.takesFrom req = true :=
  ⟨running [], .pf0, by decide +kernel⟩

theorem witness_ModuleTimeAndCounters_1 :
    ∃ s : State, ∃ req : Req, s.takesFrom req = true :=
  ⟨running [], .pf0, by decide +kernel⟩

theorem witness_ModuleTimeAndCounters_2 :
    ∃ s : State, ∃ req : Req, s.takesFrom req = true :=
  ⟨running [(.PMU_CNT_LO_COUNT, [4], 9)], .pf0, by decide +kernel⟩

theorem witness_ModuleTimeAndCounters_2_1 :
    ∃ s : State, ∃ req : Req, s.takesFrom req = true :=
  ⟨running [(.PMU_CNT_LO_COUNT, [4], 9), (.GLB_BLK_CTL_STOPPED, [7], 1)], .pf0, by decide +kernel⟩

theorem witness_ModuleTimeAndCounters_3 :
    ∃ s : State, s.refUp = true ∧ s.pmu.clearReq = true :=
  ⟨{ running [(.PMU_CNT_LO_COUNT, [4], 9)] with pmu := { Pmu.reset with clearReq := true } }, by decide +kernel⟩

theorem witness_ModuleTimeAndCounters_4 :
    ∃ s : State, s.refUp = true ∧ s.dpll.stepDue = false :=
  ⟨running [(.REF_MT_LO_MT, [], 4294967000)], by decide +kernel⟩

theorem witness_ModuleTimeAndCounters_5 :
    ∃ s : State, s.refUp = true ∧ s.dpll.stepDue = true :=
  ⟨{ running [(.REF_MT_SET_LO_VALUE, [], 700)] with dpll := { Dpll.reset with stepDue := true } }, by decide +kernel⟩

theorem witness_ModuleTimeAndCounters_6 :
    ∃ s : State, s.refUp = true ∧ s.pmu.thawReq = false :=
  ⟨{ running [] with pmu := { Pmu.reset with freezeReq := true } }, by decide +kernel⟩

theorem witness_ModuleTimeAndCounters_6_1 :
    ∃ s : State, s.refUp = true ∧ s.pmu.thawReq = false :=
  ⟨running [], by decide +kernel⟩

theorem witness_ModuleTimeAndCounters_7 :
    ∃ s : State, s.refUp = true ∧ s.pmu.thawReq = true :=
  ⟨{ running [(.PMU_CTL_FROZEN, [], 1)] with pmu := { Pmu.reset with thawReq := true, frozen := some [] } },
    by decide +kernel⟩

theorem witness_ModuleTimeAndCounters_8 :
    ∃ s : State, s.wf ∧ s.refUp = true ∧ s.clocked 21 = true ∧ s.mt + 1000000000 < 2 ^ 64 :=
  ⟨running [(.REF_MT_LO_MT, [], 999999000), (.CLI_RX_FRAMES_COUNT, [3], 8), (.CLI_RX_FRAMES_PS_COUNT, [3], 5)],
    by decide +kernel⟩

theorem witness_TagsAndHistograms_0 :
    ∃ s : State, ∃ req : Req, ∃ x : Tag × Bool, ∃ rest : List (Tag × Bool), s.takesFrom req = true ∧ s.pmu.fifo =
    x :: rest :=
  ⟨{ running [] with
    pmu := { Pmu.reset with fifo := [(⟨5, true, false, 2, 2, 1, 64, 1000, [(0, 0), (3, 40)]⟩, false)] } }, .pf0, (⟨5,
    true, false, 2, 2, 1, 64, 1000, [(0, 0), (3, 40)]⟩, false), [], by decide +kernel⟩

theorem witness_TagsAndHistograms_1 :
    ∃ s : State, ∃ req : Req, s.takesFrom req = true ∧ s.pmu.fifo = [] :=
  ⟨running [], .pf0, by decide +kernel⟩

theorem witness_TagsAndHistograms_2 :
    ∃ s : State, ∃ req : Req, s.takesFrom req = true ∧ s.blockStopped 7 = true :=
  ⟨{ running [(.GLB_BLK_CTL_STOPPED, [7], 1)] with
    pmu := { Pmu.reset with fifo := [(⟨5, true, false, 2, 2, 1, 64, 1000, [(0, 0), (3, 40)]⟩, false)] } }, .pf0,
    by decide +kernel⟩

theorem witness_TagsAndHistograms_3 :
    ∃ s : State, ∃ req : Req, s.takesFrom req = true ∧ s.blockStopped 7 = false :=
  ⟨{ running [] with
    pmu := { Pmu.reset with fifo := [(⟨5, true, false, 2, 2, 1, 64, 1000, [(0, 0), (3, 40)]⟩, false)] } }, .pf0,
    by decide +kernel⟩

theorem witness_TagsAndHistograms_4 :
    ∃ s : State, s.refUp = true :=
  ⟨{ running [] with
    pmu := { Pmu.reset with
    fifo := [(⟨5, true, false, 2, 2, 1, 64, 1000, [(0, 0), (3, 40)]⟩, false)], popReq := 1 } }, by decide +kernel⟩

theorem witness_TagsAndHistograms_5 :
    ∃ s : State, ∃ req : Req, s.takesFrom req = true ∧ s.blockStopped 7 = true :=
  ⟨running [(.PMU_HIST_BIN_COUNT, [2, 9], 9), (.PMU_HIST_OVER_COUNT, [2], 3), (.GLB_BLK_CTL_STOPPED, [7], 1)], .pf0,
    by decide +kernel⟩

theorem witness_TagsAndHistograms_5_1 :
    ∃ s : State, ∃ req : Req, s.takesFrom req = true ∧ s.blockStopped 7 = true :=
  ⟨running [(.PMU_HIST_BIN_COUNT, [2, 9], 9), (.PMU_HIST_OVER_COUNT, [2], 3), (.GLB_BLK_CTL_STOPPED, [7], 1)], .pf0,
    by decide +kernel⟩

theorem witness_TagsAndHistograms_6 :
    ∃ s : State, ∃ req : Req, s.takesFrom req = true ∧ s.blockStopped 7 = false :=
  ⟨running [(.PMU_HIST_BIN_COUNT, [2, 9], 9), (.PMU_HIST_OVER_COUNT, [2], 3)], .pf0, by decide +kernel⟩

theorem witness_TagsAndHistograms_7 :
    ∃ s : State, s.refUp = true :=
  ⟨{ running [(.PMU_HIST_BIN_COUNT, [2, 9], 9), (.PMU_HIST_OVER_COUNT, [2], 3)] with
    pmu := { Pmu.reset with histReq := 4 } }, by decide +kernel⟩

theorem witness_TagsAndHistograms_7_1 :
    ∃ s : State, s.refUp = true :=
  ⟨{ running [(.PMU_HIST_BIN_COUNT, [2, 9], 9), (.PMU_HIST_OVER_COUNT, [2], 3)] with
    pmu := { Pmu.reset with histReq := 4 } }, by decide +kernel⟩

theorem witness_AtticRecords_0 :
    ∃ s : State, ∃ x : Arrival, ∃ rest : List Arrival, s.refUp = true ∧ s.rd .ATT_STAT_SEALED_USED < 2048 ∧
    s.attic.queue = x :: rest ∧ s.repeated x = none :=
  ⟨{ running [] with attic := { Attic.reset with queue := [⟨4100, 0x0203, 7, 8⟩] } }, ⟨4100, 0x0203, 7, 8⟩, [],
    by decide +kernel⟩

theorem witness_AtticRecords_0_1 :
    ∃ s : State, ∃ x : Arrival, ∃ rest : List Arrival, s.refUp = true ∧ s.rd .ATT_STAT_SEALED_USED < 2048 ∧
    s.attic.queue = x :: rest ∧ s.repeated x = none :=
  ⟨{ running [(.ATT_STAT_SEALED_USED, [], 2047)] with
    attic := { Attic.reset with queue := [⟨4100, 0x0203, 7, 8⟩] } }, ⟨4100, 0x0203, 7, 8⟩, [], by decide +kernel⟩

theorem witness_AtticRecords_1 :
    ∃ s : State, ∃ x : Arrival, ∃ rest : List Arrival, s.refUp = true ∧ 2048 ≤ s.rd .ATT_STAT_SEALED_USED ∧
    s.attic.queue = x :: rest ∧ s.repeated x = none :=
  ⟨{ running [(.ATT_STAT_SEALED_USED, [], 2048)] with
    attic := { Attic.reset with queue := [⟨4100, 0x0203, 7, 8⟩] } }, ⟨4100, 0x0203, 7, 8⟩, [], by decide +kernel⟩

theorem witness_AtticRecords_1_1 :
    ∃ s : State, ∃ x : Arrival, ∃ rest : List Arrival, s.refUp = true ∧ 2048 ≤ s.rd .ATT_STAT_SEALED_USED ∧
    s.attic.queue = x :: rest ∧ s.repeated x = none :=
  ⟨{ running [(.ATT_STAT_SEALED_USED, [], 2048), (.ATT_STAT_WR_PTR, [], 4095)] with
    attic := { Attic.reset with queue := [⟨4100, 0x0203, 7, 8⟩] } }, ⟨4100, 0x0203, 7, 8⟩, [], by decide +kernel⟩

theorem witness_AtticRecords_2 :
    ∃ s : State, ∃ x : Arrival, ∃ rest : List Arrival, ∃ i : Nat, ∃ r : Rec, s.refUp = true ∧ s.attic.queue =
    x :: rest ∧ s.repeated x = some (i, r) :=
  ⟨{ running [] with
    attic := { Attic.reset with
    queue := [⟨4100, 0x0203, 7, 8⟩], recs := [(5, ⟨1, 4100, 0x0203, 0, false, 1, 2, 1⟩)], lastOf := [(4100, 6)] } },
    ⟨4100, 0x0203, 7, 8⟩, [], 5, ⟨1, 4100, 0x0203, 0, false, 1, 2, 1⟩, by decide +kernel⟩

theorem witness_AtticWindow_0 :
    ∃ s : State, ∃ req : Req, s.takesFrom req = true :=
  ⟨{ running [] with attic := { Attic.reset with recs := [(0, ⟨1, 4100, 0x0203, 0, false, 1, 2, 1⟩)] } }, .pf0,
    by decide +kernel⟩

theorem witness_AtticWindow_1 :
    ∃ s : State, ∃ req : Req, s.takesFrom req = true :=
  ⟨{ running [(.ATT_CURSOR_AUTO_INC, [], 1), (.ATT_CURSOR_INDEX, [], 4095)] with
    attic := { Attic.reset with armed := false } }, .pf0, by decide +kernel⟩

theorem witness_AtticWindow_2 :
    ∃ s : State, ∃ req : Req, s.takesFrom req = true ∧ tabFind s.attic.recs (s.rd .ATT_CURSOR_INDEX) = none :=
  ⟨running [], .pf0, by decide +kernel⟩

theorem witness_AtticClear_0 :
    ∃ s : State, ∃ req : Req, s.takesFrom req = true :=
  ⟨running [], .pf0, by decide +kernel⟩

theorem witness_AtticClear_1 :
    ∃ s : State, ∃ req : Req, s.takesFrom req = true ∧ s.attic.armed = true ∧ s.refUp = true :=
  ⟨{ running [] with
    attic := { Attic.reset with
    armed := true, recs := [(5, ⟨1, 4100, 0x0203, 0, false, 1, 2, 1⟩), (3000, ⟨1, 4100, 0x0203, 0, false, 1, 2,
    1⟩)] } }, .pf0, by decide +kernel⟩

theorem witness_AtticClear_1_1 :
    ∃ s : State, ∃ req : Req, s.takesFrom req = true ∧ s.attic.armed = true ∧ s.refUp = true :=
  ⟨{ running [] with
    attic := { Attic.reset with
    armed := true, recs := [(5, ⟨1, 4100, 0x0203, 0, false, 1, 2, 1⟩), (3000, ⟨1, 4100, 0x0203, 0, false, 1, 2,
    1⟩)] } }, .pf0, by decide +kernel⟩

theorem witness_AtticClear_1_2 :
    ∃ s : State, ∃ req : Req, s.takesFrom req = true ∧ s.attic.armed = true ∧ s.refUp = true :=
  ⟨{ running [] with
    attic := { Attic.reset with
    armed := true, recs := [(5, ⟨1, 4100, 0x0203, 0, false, 1, 2, 1⟩), (3000, ⟨1, 4100, 0x0203, 0, false, 1, 2,
    1⟩)] } }, .pf0, by decide +kernel⟩

theorem witness_AtticClear_2 :
    ∃ s : State, ∃ req : Req, s.takesFrom req = true ∧ s.attic.armed = false :=
  ⟨running [], .pf0, by decide +kernel⟩

theorem witness_AtticClear_4 :
    ∃ s : State, ∃ req : Req, ∃ word : Nat, s.takesFrom req = true ∧ bitsAt word 24 8 ≠ 0xA5 ∧
    bitsAt word 24 8 ≠ 0x5A :=
  ⟨{ running [(.ATT_STAT_ARMED, [], 1)] with attic := { Attic.reset with armed := true } }, .pf0, 0x11000000,
    by decide +kernel⟩

theorem witness_AtticClear_5 :
    ∃ s : State, ∃ req : Req, ∃ word : Nat, s.takesFrom req = true ∧ bitsAt word 24 8 = 0xA5 :=
  ⟨{ running [] with attic := { Attic.reset with armed := false } }, .pf0, 0xA5000000, by decide +kernel⟩

theorem witness_HostInterface_3 :
    ∃ s : State, 4 ≤ s.boot.step ∧ s.refUp = true :=
  ⟨{ st [] with boot := { Boot.reset with step := 4 } }, by decide +kernel⟩

theorem witness_HostInterface_4 :
    ∃ s : State, ∃ gen : Nat, ∃ width : Nat, s.host.training = true ∧ s.pins.perst = false ∧ 1 ≤ gen ∧ gen ≤ 5 ∧
    1 ≤ width ∧ width ≤ 16 :=
  ⟨{ running [] with host := { HostIf.reset with training := true }, pins := { Pins.reset with perst := false } }, 5,
    16, by decide +kernel⟩

theorem witness_HostInterface_4_1 :
    ∃ s : State, ∃ gen : Nat, ∃ width : Nat, s.host.training = true ∧ s.pins.perst = false ∧ 1 ≤ gen ∧ gen ≤ 5 ∧
    1 ≤ width ∧ width ≤ 16 :=
  ⟨{ running [] with host := { HostIf.reset with training := true }, pins := { Pins.reset with perst := false } }, 1,
    1, by decide +kernel⟩

theorem witness_HostInterface_6 :
    ∃ s : State, ∃ v : Fin 64, s.host.msixEnable = true ∧ s.host.functionMask = false ∧ s.host.pba = 2 ^ (v : Nat) :=
  ⟨{ running [] with host := { HostIf.reset with msixEnable := true, pba := 2 ^ 40 } }, 40, by decide +kernel⟩

theorem witness_HostInterface_8 :
    ∃ s : State, ∃ v : Fin 64, s.host.gapRun.testBit v = true ∧ s.host.gapReq.testBit v = true ∧ s.msixOpen v =
    true :=
  ⟨{ running [] with
    host := { HostIf.reset with msixEnable := true, unmasked := 2 ^ 40, gapRun := 2 ^ 40, gapReq := 2 ^ 40 } }, 40,
    by decide +kernel⟩

theorem witness_HostInterface_9 :
    ∃ s : State, ∃ v : Fin 64, s.host.gapReq.testBit v = false :=
  ⟨{ running [] with host := { HostIf.reset with gapRun := 2 ^ 40 } }, 40, by decide +kernel⟩

theorem witness_CaptureEngines_0 :
    ∃ s : State, ∃ e : Fin 7, ∃ d : Descriptor, ∃ m : SymbolBlock, s.capturing e m = true ∧ s.blockSkipped e =
    false ∧ d.writeOk = true :=
  ⟨running [(.HST_DMA_CTL_EN, [3], 1), (.HST_DMA_RING_SIZE_N, [3], 8), (.HST_DMA_TAIL_IDX, [3], 5),
    (.HST_DMA_HEAD_IDX, [3], 7), (.RXW_RX_STAT_STATE, [0], 11)], 3, ⟨4096, 32832, true⟩, ⟨1, 2⟩, by decide +kernel⟩

theorem witness_CaptureEngines_0_1 :
    ∃ s : State, ∃ e : Fin 7, ∃ d : Descriptor, ∃ m : SymbolBlock, s.capturing e m = true ∧ s.blockSkipped e =
    false ∧ d.writeOk = true :=
  ⟨running [(.HST_DMA_CTL_EN, [3], 1), (.HST_DMA_RING_SIZE_N, [3], 8), (.HST_DMA_TAIL_IDX, [3], 5),
    (.HST_DMA_HEAD_IDX, [3], 7), (.RXW_RX_STAT_STATE, [0], 11)], 3, ⟨4096, 32831, true⟩, ⟨1, 2⟩, by decide +kernel⟩

theorem witness_CaptureEngines_1 :
    ∃ s : State, ∃ e : Fin 7, ∃ d : Descriptor, ∃ m : SymbolBlock, s.capturing e m = true ∧ s.blockSkipped e =
    false ∧ d.writeOk = false :=
  ⟨running [(.HST_DMA_CTL_EN, [3], 1), (.HST_DMA_RING_SIZE_N, [3], 8), (.HST_DMA_TAIL_IDX, [3], 5),
    (.HST_DMA_HEAD_IDX, [3], 7), (.RXW_RX_STAT_STATE, [0], 11)], 3, ⟨4096, 32832, false⟩, ⟨1, 2⟩, by decide +kernel⟩

theorem witness_CaptureEngines_2 :
    ∃ s : State, ∃ e : Fin 7, ∃ m : SymbolBlock, s.capturing e m = true ∧ s.blockSkipped e = true :=
  ⟨running [(.HST_DMA_CTL_EN, [3], 1), (.HST_DMA_RING_SIZE_N, [3], 8), (.HST_DMA_TAIL_IDX, [3], 5),
    (.HST_DMA_HEAD_IDX, [3], 7), (.RXW_RX_STAT_STATE, [0], 11), (.HST_DMA_TAIL_IDX, [3], 7)], 3, ⟨1, 2⟩,
    by decide +kernel⟩

theorem witness_CorridorPorts_0 :
    ∃ s : State, ∃ p : Nat, s.corRuns = true ∧ (List.range 4).filter s.corLanesUp = [p] :=
  ⟨running [(.COR_CTL_PORT_EN, [], 15), (.COR_LANE_STAT_STAGE, [4], 7), (.COR_LANE_STAT_STAGE, [5], 7),
    (.COR_LANE_STAT_STAGE, [6], 7), (.COR_LANE_STAT_STAGE, [7], 7)], 1, by decide +kernel⟩

theorem witness_CorridorPorts_1 :
    ∃ s : State, ∃ port : Fin 4, s.corRuns = true ∧ s.corLanesUp port = true ∧ tabGet 0 s.cor.beats port = 3 ∧
    s.flag .COR_PORT_STAT_UP [port] = false :=
  ⟨{ running [(.COR_CTL_PORT_EN, [], 15), (.COR_LANE_STAT_STAGE, [4], 7), (.COR_LANE_STAT_STAGE, [5], 7),
    (.COR_LANE_STAT_STAGE, [6], 7), (.COR_LANE_STAT_STAGE, [7], 7)] with
    cor := { Corridor.reset with beats := [(1, 3)] } }, 1, by decide +kernel⟩

theorem witness_CorridorPorts_1_1 :
    ∃ s : State, ∃ port : Fin 4, s.corRuns = true ∧ s.corLanesUp port = true ∧ tabGet 0 s.cor.beats port = 3 ∧
    s.flag .COR_PORT_STAT_UP [port] = false :=
  ⟨{ running [(.COR_CTL_PORT_EN, [], 15), (.COR_LANE_STAT_STAGE, [4], 7), (.COR_LANE_STAT_STAGE, [5], 7),
    (.COR_LANE_STAT_STAGE, [6], 7), (.COR_LANE_STAT_STAGE, [7], 7), (.COR_CTL_MANAGER, [], 1)] with
    cor := { Corridor.reset with beats := [(1, 3)] } }, 1, by decide +kernel⟩

theorem witness_CorridorPorts_2 :
    ∃ s : State, ∃ port : Fin 4, s.corRuns = true ∧ s.corLanesUp port = true ∧ tabGet 0 s.cor.beats port < 3 :=
  ⟨{ running [(.COR_CTL_PORT_EN, [], 15), (.COR_LANE_STAT_STAGE, [4], 7), (.COR_LANE_STAT_STAGE, [5], 7),
    (.COR_LANE_STAT_STAGE, [6], 7), (.COR_LANE_STAT_STAGE, [7], 7)] with
    cor := { Corridor.reset with beats := [(1, 2)] } }, 1, by decide +kernel⟩

theorem witness_CorridorPorts_3 :
    ∃ s : State, ∃ port : Fin 4, s.flag .COR_PORT_STAT_UP [port] = true :=
  ⟨{ running [(.COR_PORT_STAT_UP, [1], 1), (.COR_PORT_STAT_DOWN_CNT, [1], 65535)] with
    cor := { Corridor.reset with beats := [(1, 4)] } }, 1, by decide +kernel⟩

theorem witness_CorridorPorts_4 :
    ∃ s : State, s.isManager = false ∧ s.corRuns = true :=
  ⟨running [], by decide +kernel⟩

theorem witness_CorridorPorts_5 :
    ∃ s : State, s.isManager = true ∧ s.corRuns = true :=
  ⟨running [(.COR_CTL_MANAGER, [], 1)], by decide +kernel⟩

theorem witness_CorridorPorts_6 :
    ∃ s : State, s.isManager = true ∧ s.corRuns = true :=
  ⟨{ running [(.COR_CTL_MANAGER, [], 1), (.COR_PORT_STAT_WRAPPED, [0], 1)] with
    cor := { Corridor.reset with ring := [1, 2, 3], ringPorts := [0, 1], cut := some 1 } }, by decide +kernel⟩

theorem witness_CorridorPorts_7 :
    ∃ s : State, ∃ worker : Nat, ∃ port : Fin 4, s.isManager = true ∧ s.corRuns = true ∧ s.cor.cut = none ∧
    0 < s.cor.place worker ∧ s.cor.breakAt worker port < s.cor.ring.length ∧ s.cor.ringPorts.length = 2 :=
  ⟨{ running [(.COR_CTL_MANAGER, [], 1)] with
    cor := { Corridor.reset with ring := [1, 2, 3], ringPorts := [0, 1], nodes := [(2, ⟨11, 1, 0, 0, 2⟩)] } }, 2, 1,
    by decide +kernel⟩

theorem witness_CorridorWindows_0 :
    ∃ s : State, s.isManager = true ∧ s.corRuns = true :=
  ⟨running [(.COR_CTL_MANAGER, [], 1), (.COR_STAT_ENUMERATING, [], 1)], by decide +kernel⟩

theorem witness_CorridorWindows_1 :
    ∃ s : State, ∃ w : Fin 16, ∃ data : Option Nat, ∃ x : Nat, s.isManager = true ∧ s.flag .COR_WIN_CFG_EN [w] =
    true ∧ s.flag .COR_STAT_ENUMERATING = false ∧ s.inFlight w < 16 ∧ ((data = none → s.readsOut < 64)) ∧ s.corRuns =
    true ∧ s.rd .COR_WIN_CFG_WORKER [w] = x ∧ (tabFind s.cor.nodes x).isSome = true :=
  ⟨{ running [(.COR_CTL_MANAGER, [], 1), (.COR_WIN_CFG_EN, [3], 1), (.COR_WIN_CFG_WORKER, [3], 7)] with
    cor := { Corridor.reset with nodes := [(7, ⟨11, 0, 1, 0, 1⟩)] } }, 3, none, 7, by decide +kernel⟩

theorem witness_CorridorWindows_1_1 :
    ∃ s : State, ∃ w : Fin 16, ∃ data : Option Nat, ∃ x : Nat, s.isManager = true ∧ s.flag .COR_WIN_CFG_EN [w] =
    true ∧ s.flag .COR_STAT_ENUMERATING = false ∧ s.inFlight w < 16 ∧ ((data = none → s.readsOut < 64)) ∧ s.corRuns =
    true ∧ s.rd .COR_WIN_CFG_WORKER [w] = x ∧ (tabFind s.cor.nodes x).isSome = true :=
  ⟨{ running [(.COR_CTL_MANAGER, [], 1), (.COR_WIN_CFG_EN, [3], 1), (.COR_WIN_CFG_WORKER, [3], 7)] with
    cor := { Corridor.reset with nodes := [(7, ⟨11, 0, 1, 0, 1⟩)] } }, 3, some 9, 7, by decide +kernel⟩

theorem witness_CorridorWindows_2 :
    ∃ s : State, ∃ w : Fin 16, (s.isManager = false ∨ s.flag .COR_WIN_CFG_EN [w] = false) :=
  ⟨running [], 3, by decide +kernel⟩

theorem witness_CorridorWindows_3 :
    ∃ s : State, ∃ w : Fin 16, s.isManager = true ∧ s.flag .COR_WIN_CFG_EN [w] = true ∧
    s.flag .COR_STAT_ENUMERATING = true :=
  ⟨running [(.COR_CTL_MANAGER, [], 1), (.COR_WIN_CFG_EN, [3], 1), (.COR_STAT_ENUMERATING, [], 1)], 3,
    by decide +kernel⟩

theorem witness_CorridorWindows_4 :
    ∃ s : State, ∃ id : Nat, ∃ r : Request, s.corRuns = true ∧ s.request id true = some r :=
  ⟨{ running [(.COR_CTL_MANAGER, [], 1)] with
    cor := { Corridor.reset with requests := [⟨5, 3, 0x40, true, false, 9000, false⟩] } }, 5, ⟨5, 3, 0x40, true,
    false, 9000, false⟩, by decide +kernel⟩

theorem witness_CorridorWindows_5 :
    ∃ s : State, ∃ id : Nat, s.corRuns = true ∧ (s.request id false).isSome = true :=
  ⟨{ running [(.COR_CTL_MANAGER, [], 1)] with
    cor := { Corridor.reset with requests := [⟨5, 3, 0x40, false, false, 9000, false⟩] } }, 5, by decide +kernel⟩

theorem witness_CorridorWindows_6 :
    ∃ s : State, ∃ id : Nat, ∃ r : Request, s.corRuns = true ∧ s.cor.requests = [r] ∧ r.id = id ∧ r.stalled = false :=
  ⟨{ running [(.COR_CTL_MANAGER, [], 1)] with
    cor := { Corridor.reset with requests := [⟨5, 3, 0x40, true, false, 9000, false⟩] } }, 5, ⟨5, 3, 0x40, true,
    false, 9000, false⟩, by decide +kernel⟩

theorem witness_CorridorWindows_7 :
    ∃ s : State, ∃ id : Nat, ∃ r : Request, s.cor.requests.find? (fun x => x.id == id) = some r ∧ r.isRead = true ∧
    r.discarded = false :=
  ⟨{ running [(.COR_CTL_MANAGER, [], 1)] with
    cor := { Corridor.reset with requests := [⟨5, 3, 0x40, true, false, 9000, false⟩] } }, 5, ⟨5, 3, 0x40, true,
    false, 9000, false⟩, by decide +kernel⟩

theorem witness_CorridorWindows_8 :
    ∃ s : State, ∃ id : Nat, ∃ r : Request, s.cor.requests.find? (fun x => x.id == id) = some r ∧ r.isRead = false :=
  ⟨{ running [(.COR_CTL_MANAGER, [], 1)] with
    cor := { Corridor.reset with requests := [⟨5, 3, 0x40, false, false, 9000, false⟩] } }, 5, ⟨5, 3, 0x40, false,
    false, 9000, false⟩, by decide +kernel⟩

theorem witness_CorridorWindows_9 :
    ∃ s : State, ∃ worker : Nat, ∃ w : Nat, s.isManager = true ∧ s.corRuns = true ∧ s.cor.fwdLog.length < 64 ∧
    s.windowOf worker = some w :=
  ⟨running [(.COR_CTL_MANAGER, [], 1), (.COR_WIN_CFG_EN, [3], 1), (.COR_WIN_CFG_WORKER, [3], 7)], 7, 3,
    by decide +kernel⟩

theorem witness_CorridorWindows_10 :
    ∃ s : State, s.isManager = true ∧ s.corRuns = true ∧ 64 ≤ s.cor.fwdLog.length :=
  ⟨{ running [(.COR_CTL_MANAGER, [], 1)] with cor := { Corridor.reset with fwdLog := List.replicate 64 (7, 1) } },
    by decide +kernel⟩

theorem witness_CorridorWindows_11 :
    ∃ s : State, ∃ target : Fin 8, s.isManager = false ∧ s.corRuns = true ∧ s.coreRuns = true ∧ (target : Nat) ≤ 4 ∧
    s.power.trans = none ∧ (target : Nat) ≠ s.power.state :=
  ⟨running [], 1, by decide +kernel⟩

theorem witness_CorridorWindows_11_1 :
    ∃ s : State, ∃ target : Fin 8, s.isManager = false ∧ s.corRuns = true ∧ s.coreRuns = true ∧ (target : Nat) ≤ 4 ∧
    s.power.trans = none ∧ (target : Nat) ≠ s.power.state :=
  ⟨running [(.SEC_KEY_STAT_BUSY, [], 1)], 3, by decide +kernel⟩

theorem witness_CorridorWindows_12 :
    ∃ s : State, ∃ req : Req, ∃ e : Nat × Nat, ∃ rest : List (Nat × Nat), s.takesFrom req = true ∧ s.isManager =
    true ∧ s.cor.fwdLog = e :: rest :=
  ⟨{ running [(.COR_CTL_MANAGER, [], 1)] with cor := { Corridor.reset with fwdLog := [(7, 1)] } }, .pf0, (7, 1), [],
    by decide +kernel⟩

theorem witness_CorridorWindows_13 :
    ∃ s : State, ∃ req : Req, s.takesFrom req = true ∧ (s.isManager = false ∨ s.cor.fwdLog = []) :=
  ⟨running [], .pf0, by decide +kernel⟩

theorem witness_BoardManager_0 :
    ∃ s : State, s.smbUp = true :=
  ⟨running [(.PWR_VIN_STAT_VIN, [], 4800)], by decide +kernel⟩

theorem witness_BoardManager_0_1 :
    ∃ s : State, s.smbUp = true :=
  ⟨{ st [] with power := { Power.reset with state := 3 } }, by decide +kernel⟩

theorem witness_BoardManager_1 :
    ∃ s : State, s.power.state ≤ 2 :=
  ⟨running [], by decide +kernel⟩

theorem witness_BoardManager_2 :
    ∃ s : State, s.smbStale = true :=
  ⟨{ st [] with power := { Power.reset with state := 3 } }, by decide +kernel⟩

theorem witness_BoardManager_2_1 :
    ∃ s : State, s.smbStale = true :=
  ⟨{ st [] with power := { Power.reset with state := 5 } }, by decide +kernel⟩

theorem witness_BoardManager_3 :
    ∃ s : State, s.asleep = true ∧ s.flag .PWR_WAKE_CFG_SMB_EN = true :=
  ⟨{ st [] with power := { Power.reset with state := 3 } }, by decide +kernel⟩

theorem witness_BoardManager_3_1 :
    ∃ s : State, s.asleep = true ∧ s.flag .PWR_WAKE_CFG_SMB_EN = true :=
  ⟨{ st [] with power := { Power.reset with state := 5 } }, by decide +kernel⟩

theorem witness_BoardManager_4 :
    ∃ s : State, s.smbUp = true ∧ s.flag .PWR_WAKE_CFG_SMB_EN = false :=
  ⟨{ st [(.PWR_WAKE_CFG_SMB_EN, [], 0)] with power := { Power.reset with state := 3 } }, by decide +kernel⟩

theorem witness_BoardManager_5 :
    ∃ s : State, s.smbUp = true :=
  ⟨{ running [] with pins := { Pins.reset with smbAlert := true } }, by decide +kernel⟩

theorem witness_BoardManager_6 :
    ∃ s : State, s.smbUp = true ∧ s.pins.smbAlert = true :=
  ⟨{ running [] with pins := { Pins.reset with smbAlert := true } }, by decide +kernel⟩

theorem witness_BoardManager_7 :
    ∃ s : State, s.smbUp = true :=
  ⟨running [], by decide +kernel⟩

theorem witness_BoardManager_8 :
    ∃ s : State, s.smbUp = true :=
  ⟨{ running [] with attic := { Attic.reset with boardCursor := 4095 } }, by decide +kernel⟩

theorem witness_BoardManager_9 :
    ∃ s : State, ∃ code : Nat, s.smbUp = true ∧ smbCodes.contains code = false :=
  ⟨running [], 7, by decide +kernel⟩

theorem witness_BoardManager_10 :
    ∃ s : State, s.power.state = 4 :=
  ⟨{ st [] with power := { Power.reset with state := 4 } }, by decide +kernel⟩

theorem witness_Monitor_0 :
    ∃ s : State, s.monUp = true ∧ s.isRunning = true :=
  ⟨running [(.REF_MT_LO_MT, [], 7), (.REF_MT_HI_MT, [], 8)], by decide +kernel⟩

theorem witness_Monitor_1 :
    ∃ s : State, ∃ addr : Nat, s.monUp = true ∧ s.assigned addr = false :=
  ⟨running [], 4, by decide +kernel⟩

theorem witness_Monitor_2 :
    ∃ s : State, ∃ n : Nat, s.monUp = true ∧ (n = 0 ∨ 64 < n) :=
  ⟨running [], 65, by decide +kernel⟩

theorem witness_Monitor_2_1 :
    ∃ s : State, ∃ n : Nat, s.monUp = true ∧ (n = 0 ∨ 64 < n) :=
  ⟨running [], 0, by decide +kernel⟩

theorem witness_Monitor_3 :
    ∃ s : State, s.monUp = true :=
  ⟨running [], by decide +kernel⟩

theorem witness_Monitor_4 :
    ∃ s : State, ∃ index : Nat, ∃ n : Nat, s.monUp = true ∧ 1 ≤ n ∧ n ≤ 64 ∧ index ≤ 4095 :=
  ⟨running [], 4095, 2, by decide +kernel⟩

theorem witness_Monitor_5 :
    ∃ s : State, s.monUp = true :=
  ⟨running [], by decide +kernel⟩

theorem witness_Monitor_6 :
    ∃ s : State, s.monUp = true :=
  ⟨running [], by decide +kernel⟩

theorem witness_Monitor_7 :
    ∃ s : State, s.monUp = true :=
  ⟨running [], by decide +kernel⟩

theorem witness_Monitor_8 :
    ∃ s : State, s.monUp = true :=
  ⟨running [], by decide +kernel⟩

theorem witness_Monitor_9 :
    ∃ s : State, s.monUp = false :=
  ⟨{ running [] with ras := { (running []).ras with coreDown := true } }, by decide +kernel⟩

theorem witness_RegisterWrites_0 :
    ∃ s : State, ∃ req : Req, s.takesFrom req = true :=
  ⟨running [], .pf0, by decide +kernel⟩

theorem witness_RegisterWrites_0_1 :
    ∃ s : State, ∃ req : Req, s.takesFrom req = true :=
  ⟨running [], .pf0, by decide +kernel⟩

theorem witness_RegisterWrites_0_2 :
    ∃ s : State, ∃ req : Req, s.takesFrom req = true :=
  ⟨running [], .pf0, by decide +kernel⟩

theorem witness_RegisterWrites_1 :
    ∃ s : State, ∃ req : Req, s.takesFrom req = true :=
  ⟨running [(.ATT_EVT_LOST, [], 1)], .pf0, by decide +kernel⟩

theorem witness_RegisterWrites_1_1 :
    ∃ s : State, ∃ req : Req, s.takesFrom req = true :=
  ⟨running [(.ATT_EVT_LOST, [], 1)], .pf0, by decide +kernel⟩

theorem witness_RegisterWrites_2 :
    ∃ s : State, ∃ req : Req, s.takesFrom req = true ∧ s.isRunning = true :=
  ⟨running [], .pf0, by decide +kernel⟩

theorem witness_RegisterWrites_3 :
    ∃ s : State, ∃ req : Req, s.takesFrom req = true ∧ s.isRunning = true ∧ s.blockStopped 0 = true :=
  ⟨running [(.GLB_BLK_CTL_STOPPED, [0], 1)], .pf0, by decide +kernel⟩

theorem witness_RegisterWrites_3_1 :
    ∃ s : State, ∃ req : Req, s.takesFrom req = true ∧ s.isRunning = true ∧ s.blockStopped 0 = true :=
  ⟨running [(.GLB_BLK_CTL_STOPPED, [0], 1)], .pf0, by decide +kernel⟩

theorem witness_RegisterWrites_4 :
    ∃ s : State, ∃ req : Req, s.takesFrom req = true ∧ s.isRunning = true ∧ s.mayFreeze 0x100010 = false ∧
    s.flag .GLB_WR_REJECT_VALID = false :=
  ⟨running [], .pf0, by decide +kernel⟩

theorem witness_RegisterWrites_5 :
    ∃ s : State, ∃ req : Req, s.takesFrom req = true :=
  ⟨running [(.GLB_WR_REJECT_VALID, [], 1), (.GLB_WR_REJECT_COUNT, [], 4)], .pf0, by decide +kernel⟩

theorem witness_RegisterWrites_6 :
    ∃ s : State, ∃ req : Req, ∃ addr : Nat, s.takesFrom req = true ∧ s.assigned addr = false :=
  ⟨running [], .pf0, 0x4, by decide +kernel⟩

theorem witness_RegisterWrites_6_1 :
    ∃ s : State, ∃ req : Req, ∃ addr : Nat, s.takesFrom req = true ∧ s.assigned addr = false :=
  ⟨running [], .pf0, 0x2FFFFC, by decide +kernel⟩

theorem witness_ReadsThatAct_0 :
    ∃ s : State, ∃ req : Req, s.takesFrom req = true ∧ s.pmu.frozen = none :=
  ⟨running [(.RAS_MEM_CE_COUNT, [3], 9)], .pf0, by decide +kernel⟩

theorem witness_ReadsThatAct_1 :
    ∃ s : State, ∃ req : Req, ∃ st : Tab (Tab Nat), s.takesFrom req = true ∧ s.pmu.frozen = some st :=
  ⟨{ running [(.RAS_MEM_CE_COUNT, [3], 9)] with
    pmu := { Pmu.reset with frozen := some (running [(.RAS_MEM_CE_COUNT, [3], 4)]).store } }, .pf0,
    (running [(.RAS_MEM_CE_COUNT, [3], 4)]).store, by decide +kernel⟩

theorem witness_ReadsThatAct_2 :
    ∃ s : State, ∃ req : Req, s.takesFrom req = true ∧ s.isRunning = true :=
  ⟨running [(.REF_MT_LO_MT, [], 7), (.REF_MT_HI_MT, [], 8)], .pf0, by decide +kernel⟩

theorem witness_ReadsThatAct_3 :
    ∃ s : State, s.takesFrom .pf1 = true ∧ s.isRunning = true ∧ s.use .PMU_CTL_USER_EN ≠ 0 :=
  ⟨running [(.REF_MT_LO_MT, [], 7), (.PMU_CTL_USER_EN, [], 1)], by decide +kernel⟩

theorem witness_ReadsThatAct_4 :
    ∃ s : State, s.takesFrom .pf1 = true ∧ s.halted 7 = false ∧ s.isRunning = true ∧ s.use .PMU_CTL_USER_EN = 0 :=
  ⟨running [], by decide +kernel⟩

theorem witness_ReadsThatAct_5 :
    ∃ s : State, s.takesFrom .pf1 = true ∧ s.halted 7 = false ∧ s.isRunning = true :=
  ⟨running [], by decide +kernel⟩

theorem witness_ReadsThatAct_6 :
    ∃ s : State, s.isManager = false ∧ s.corRuns = true ∧ s.clocked 6 = true :=
  ⟨running [(.REF_MT_LO_MT, [], 7)], by decide +kernel⟩

theorem witness_ReadsThatAct_7 :
    ∃ s : State, ∃ addr : Nat, s.isManager = false ∧ s.corRuns = true ∧ s.assigned addr = false :=
  ⟨running [], 4, by decide +kernel⟩

theorem witness_ReadsThatAct_8 :
    ∃ s : State, ∃ port : Fin 4, s.isManager = false ∧ s.corRuns = true ∧ s.corPatterned port = false :=
  ⟨running [], 1, by decide +kernel⟩

theorem witness_CommitsAndBlocks_0 :
    ∃ s : State, ∃ req : Req, ∃ region : Nat, ∃ a : Nat, ∃ v : Nat, s.takesFrom req = true ∧ s.wf ∧
    s.regionStopped region = false ∧ tabFind s.staged a = some v ∧ a / 0x10000 = region :=
  ⟨{ running [] with staged := [(0x110104, 9), (0x130010, 4)], pend := [(0x110100, 3), (0x110104, 4)] }, .pf0, 0x11,
    0x110104, 9, by decide +kernel⟩

theorem witness_CommitsAndBlocks_1 :
    ∃ s : State, ∃ req : Req, s.takesFrom req = true ∧ s.wf :=
  ⟨{ running [] with staged := [(0x110104, 9), (0x130010, 4)], pend := [(0x110104, 4)] }, .pf0, by decide +kernel⟩

theorem witness_CommitsAndBlocks_1_1 :
    ∃ s : State, ∃ req : Req, s.takesFrom req = true ∧ s.wf :=
  ⟨{ running [] with staged := [(0x110104, 9), (0x130010, 4)], pend := [(0x110104, 4)] }, .pf0, by decide +kernel⟩

theorem witness_CommitsAndBlocks_2 :
    ∃ s : State, ∃ req : Req, ∃ region : Nat, ∃ a : Nat, ∃ v : Nat, s.takesFrom req = true ∧ s.wf ∧
    s.regionStopped region = false ∧ tabFind s.staged a = some v ∧ a / 0x10000 = region :=
  ⟨{ running [] with staged := [(0x110104, 9), (0x130010, 4)] }, .pf0, 0x11, 0x110104, 9, by decide +kernel⟩

theorem witness_CommitsAndBlocks_3 :
    ∃ s : State, ∃ v : Nat, s.pend.filter (fun e => e.1 / 0x10000 == 0x11) = [(0x110104, v)] :=
  ⟨{ running [] with pend := [(0x80000, 1), (0x110104, 9), (0x130010, 4)] }, 9, by decide +kernel⟩

theorem witness_CommitsAndBlocks_4 :
    ∃ s : State, ∃ req : Req, s.takesFrom req = true :=
  ⟨running [], .pf0, by decide +kernel⟩

theorem witness_CommitsAndBlocks_5 :
    ∃ s : State, ∃ req : Req, s.takesFrom req = true :=
  ⟨running [(.GLB_BLK_CTL_STOPPED, [3], 1), (.GLB_BLK_CTL_STOP, [3], 1)], .pf0, by decide +kernel⟩

theorem witness_CommitsAndBlocks_5_1 :
    ∃ s : State, ∃ req : Req, s.takesFrom req = true :=
  ⟨running [(.GLB_BLK_CTL_STOPPED, [6], 1)], .pf0, by decide +kernel⟩

theorem witness_CommitsAndBlocks_6 :
    ∃ s : State, ∃ n : Fin 8, s.stopReady n = true :=
  ⟨running [(.GLB_BLK_CTL_STOPPING, [3], 1)], 3, by decide +kernel⟩

theorem witness_CommitsAndBlocks_6_1 :
    ∃ s : State, ∃ n : Fin 8, s.stopReady n = true :=
  ⟨running [(.GLB_BLK_CTL_STOPPING, [0], 1)], 0, by decide +kernel⟩

end Sys2Proof.Tests
end

section
/-!
The rules of the shared operations: conditionals, counts, event bits and what leaves the module.
-/

namespace Sys2Proof.Machine

/-! ### Conditionals -/

@[simp] theorem State.when_true (s : State) (f : State → State) : s.when true f = f s := rfl
@[simp] theorem State.when_false (s : State) (f : State → State) : s.when false f = s := rfl

theorem State.via_of_takesFrom {s : State} {req : Req} (h : s.takesFrom req = true) (f : State → State) :
    s.via req f = f s := by
  simp [State.via, h]

/-! ### Bits of a word -/

/-- A field that lies in the low 32 bits takes nothing from above them. -/
theorem bitsAt_mod_word {lsb width : Nat} (h : lsb + width ≤ 32) (word : Nat) :
    bitsAt (word % 2 ^ 32) lsb width = bitsAt word lsb width := by
  unfold bitsAt
  have split : 2 ^ 32 = 2 ^ lsb * 2 ^ (32 - lsb) := by rw [← Nat.pow_add]; congr 1; omega
  rw [split, Nat.mod_mul_right_div_self, Nat.mod_mod_of_dvd _ (Nat.pow_dvd_pow 2 (by omega))]

theorem satAdd_lt (width v n : Nat) : satAdd width v n < 2 ^ width := by
  have : 0 < 2 ^ width := Nat.two_pow_pos width
  unfold satAdd
  split <;> omega

/-! ### Frames -/

/-- A write of a row's field keeps every other row. -/
theorem State.KeepsBut.wr {s t : State} {rs : List Row} (h : s.KeepsBut t rs) (r : Row) (ix : List Nat) (v : Nat) :
    s.KeepsBut (t.wr r ix v) (r :: rs) := by
  intro x jx hx
  rw [State.rd_wr_ne _ (hx r (List.mem_cons_self ..)), h x jx (fun y hy => hx y (List.mem_cons_of_mem _ hy))]

/-- A state with the same store keeps the same rows. -/
theorem State.KeepsBut.of_store {s t u : State} {rs : List Row} (h : s.KeepsBut t rs) (hu : u.store = t.store) :
    s.KeepsBut u rs :=
  fun x jx hx => (State.rd_of_store hu x jx).trans (h x jx hx)

/-! ### Events for the general counters -/

theorem State.native_eq (s : State) (code inst n : Nat) :
    s.native code inst n = s ∨
      s.native code inst n = { s with pmu := { s.pmu with events := (code, inst, n) :: s.pmu.events } } := by
  unfold State.native
  split
  · exact .inl rfl
  · exact .inr rfl

theorem State.mirrored_eq (s : State) (r : Row) (ix : List Nat) (n : Nat) :
    s.mirrored r ix n = s ∨
      s.mirrored r ix n = { s with pmu := { s.pmu with mirror := (r.addr ix / 4, n) :: s.pmu.mirror } } := by
  unfold State.mirrored
  split
  · exact .inl rfl
  · exact .inr rfl

@[simp] theorem State.native_store (s : State) (code inst n : Nat) : (s.native code inst n).store = s.store := by
  obtain h | h := s.native_eq code inst n <;> rw [h]

@[simp] theorem State.native_rd (s : State) (code inst n : Nat) (r : Row) (ix : List Nat) :
    (s.native code inst n).rd r ix = s.rd r ix :=
  State.rd_of_store (State.native_store ..) r ix

@[simp] theorem State.native_frozen (s : State) (code inst n : Nat) :
    (s.native code inst n).pmu.frozen = s.pmu.frozen := by
  obtain h | h := s.native_eq code inst n <;> rw [h]

@[simp] theorem State.native_out (s : State) (code inst n : Nat) : (s.native code inst n).out = s.out := by
  obtain h | h := s.native_eq code inst n <;> rw [h]

@[simp] theorem State.native_inuse (s : State) (code inst n : Nat) : (s.native code inst n).inuse = s.inuse := by
  obtain h | h := s.native_eq code inst n <;> rw [h]

@[simp] theorem State.mirrored_store (s : State) (r : Row) (ix : List Nat) (n : Nat) :
    (s.mirrored r ix n).store = s.store := by
  obtain h | h := s.mirrored_eq r ix n <;> rw [h]

@[simp] theorem State.mirrored_rd (s : State) (r : Row) (ix : List Nat) (n : Nat) (x : Row) (jx : List Nat) :
    (s.mirrored r ix n).rd x jx = s.rd x jx :=
  State.rd_of_store (State.mirrored_store ..) x jx

@[simp] theorem State.mirrored_frozen (s : State) (r : Row) (ix : List Nat) (n : Nat) :
    (s.mirrored r ix n).pmu.frozen = s.pmu.frozen := by
  obtain h | h := s.mirrored_eq r ix n <;> rw [h]

@[simp] theorem State.mirrored_out (s : State) (r : Row) (ix : List Nat) (n : Nat) :
    (s.mirrored r ix n).out = s.out := by
  obtain h | h := s.mirrored_eq r ix n <;> rw [h]

/-! ### Counts -/

/-- R6: a count advances up to what its field holds. -/
@[simp] theorem State.rd_count_self (s : State) (r : Row) (ix : List Nat) (n : Nat) :
    (s.count r ix n).rd r ix = satAdd r.width (s.rd r ix) n := by
  unfold State.count
  rw [State.mirrored_rd, State.rd_wr_self, Nat.mod_eq_of_lt (satAdd_lt ..)]

theorem State.rd_count_ne (s : State) {r x : Row} (h : r.id ≠ x.id) (ix jx : List Nat) (n : Nat) :
    (s.count r ix n).rd x jx = s.rd x jx := by
  unfold State.count
  rw [State.mirrored_rd, State.rd_wr_ne _ h]

@[simp] theorem State.count_out (s : State) (r : Row) (ix : List Nat) (n : Nat) : (s.count r ix n).out = s.out := by
  simp [State.count]

/-! ### Event bits -/

/-- R405: the request of a vector writes the pending INTN bits and no other field. -/
theorem State.ring_keeps (s : State) (v : Nat) : s.KeepsBut (s.ring v) bellRows :=
  (Within.framed (ps := [.out, .host, .pmu])
    (State.ring_within (.refl _ s) (covers_of_test (by decide +kernel)) v)).1

/-- R405: an event writes its own row and the pending INTN bits. -/
theorem State.evt_keeps (s : State) (r : Row) (ix : List Nat) (b : Nat) :
    s.KeepsBut (s.evt r ix b) (r :: bellRows) := by
  intro x jx hx
  unfold State.evt
  split
  · rfl
  · rw [State.ring_keeps _ _ x jx (fun y hy => hx y (List.mem_cons_of_mem _ hy)), State.bit,
      State.rd_wr_ne _ (hx r (List.mem_cons_self ..))]

/-- R405: after an event its one-bit field is set. -/
theorem State.flag_evt_self (s : State) (r : Row) (ix : List Nat) (hw : r.width = 1)
    (hb : ∀ x ∈ bellRows, x.id ≠ r.id) : (s.evt r ix).flag r ix = true := by
  have nonzero : (s.evt r ix).rd r ix ≠ 0 := by
    unfold State.evt
    split
    · rename_i h
      intro h0
      simp [h0] at h
    · rw [State.ring_keeps _ _ r ix hb, State.bit, State.rd_wr_self, hw]
      have : (setBit (s.rd r ix) 0).testBit 0 = true := by simp [setBit]
      simp only [Nat.testBit_zero, decide_eq_true_eq] at this
      omega
  simpa [State.flag] using nonzero

/-! ### Attic records and rejected writes -/

/-- R391: a record for the attic writes no field but those of a lost one. -/
theorem State.emit_keeps (s : State) (island subunit code arg0 arg1 : Nat) :
    s.KeepsBut (s.emit island subunit code arg0 arg1) (lostRows ++ bellRows) :=
  (Within.framed (ps := [.out, .host, .pmu, .attic])
    (State.emit_within (.refl _ s) (covers_of_test (by decide +kernel)) island subunit code arg0 arg1)).1

/-- R43: what a rejected write may write. -/
abbrev rejectRows : List Row := [.GLB_WR_REJECT_VALID, .GLB_WR_REJECT_WORD_ADDR, .GLB_WR_REJECT_COUNT]

theorem State.reject_keeps (s : State) (addr : Nat) :
    s.KeepsBut (s.reject addr) (rejectRows ++ (lostRows ++ bellRows)) :=
  (Within.framed (ps := [.out, .host, .pmu, .attic])
    (State.reject_within (.refl _ s) (covers_of_test (by decide +kernel)) addr)).1

/-- R43: what the record holds after the first rejected write. -/
theorem State.reject_first {s : State} (h : s.flag .GLB_WR_REJECT_VALID = false) (addr : Nat) :
    (s.reject addr).flag .GLB_WR_REJECT_VALID = true ∧
      (s.reject addr).rd .GLB_WR_REJECT_COUNT =
        satAdd Row.GLB_WR_REJECT_COUNT.width (s.rd .GLB_WR_REJECT_COUNT) 1 ∧
      (s.reject addr).rd .GLB_WR_REJECT_WORD_ADDR = addr / 4 % 2 ^ 23 := by
  have first : s.reject addr = (((s.wrb .GLB_WR_REJECT_VALID [] true).wr .GLB_WR_REJECT_WORD_ADDR [] (addr / 4)).count
      .GLB_WR_REJECT_COUNT []).emit 4 0 (evtCode .GLB_WR_REJECT_VALID [] 0) (addr / 4) := by
    simp [State.reject, h]
  have emitted : ∀ r ∈ rejectRows, ∀ t : State, (t.emit 4 0 (evtCode .GLB_WR_REJECT_VALID [] 0) (addr / 4)).rd r =
      t.rd r := fun r hr t => t.emit_keeps _ _ _ _ _ r [] (by revert r; decide)
  rw [first]
  refine ⟨?_, ?_, ?_⟩
  · rw [State.flag, emitted _ (by decide), State.rd_count_ne _ (by decide), State.rd_wr_ne _ (by decide)]
    exact State.flag_wrb_self s _ [] true (by decide)
  · rw [emitted _ (by decide), State.rd_count_self, State.rd_wr_ne _ (by decide), State.wrb,
      State.rd_wr_ne _ (by decide)]
  · rw [emitted _ (by decide), State.rd_count_ne _ (by decide), State.rd_wr_self]
    rfl

/-- R42: the clear of VALID empties the record. -/
theorem State.clearReject_empties (s : State) :
    s.clearReject.flag .GLB_WR_REJECT_VALID = false ∧ s.clearReject.rd .GLB_WR_REJECT_COUNT = 0 ∧
      s.clearReject.rd .GLB_WR_REJECT_WORD_ADDR = 0 := by
  unfold State.clearReject
  refine ⟨?_, ?_, ?_⟩
  · rw [State.flag, State.rd_wr_ne _ (by decide), State.rd_wr_ne _ (by decide)]
    exact State.flag_wrb_self s _ [] false (by decide)
  · rw [State.rd_wr_ne _ (by decide), State.rd_wr_self, Nat.zero_mod]
  · rw [State.rd_wr_self, Nat.zero_mod]

/-! ### What leaves the module -/

@[simp] theorem State.begin_out (s : State) : s.begin.out = [] := rfl
@[simp] theorem State.say_out (s : State) (o : Out) : (s.say o).out = s.out ++ [o] := rfl

theorem State.sayCell_of_patterned {s : State} {p : Nat} (h : s.corPatterned p = true) (dest : Nat) (c : CellBody) :
    s.sayCell p dest c = s := by
  simp [State.sayCell, h]

theorem State.sayCell_of_not_patterned {s : State} {p : Nat} (h : s.corPatterned p = false) (dest : Nat)
    (c : CellBody) : s.sayCell p dest c = s.say (.cell p dest c) := by
  simp [State.sayCell, h]

/-- R329, R414: what a port's cell adds to what leaves. -/
theorem State.sayCell_out (s : State) (p dest : Nat) (c : CellBody) :
    (s.sayCell p dest c).out = s.out ++ (if s.corPatterned p then [] else [.cell p dest c]) := by
  cases h : s.corPatterned p
  · simp [State.sayCell_of_not_patterned h]
  · simp [State.sayCell_of_patterned h]

@[simp] theorem State.sayCell_rd (s : State) (p dest : Nat) (c : CellBody) (r : Row) (ix : List Nat) :
    (s.sayCell p dest c).rd r ix = s.rd r ix := by
  cases h : s.corPatterned p
  · rw [State.sayCell_of_not_patterned h, State.say_rd]
  · rw [State.sayCell_of_patterned h]

/-- R329: the pattern generators of a port are fields of COR.PRBS_CTL. -/
theorem State.corPatterned_congr {s t : State} (h : ∀ ix, t.rd .COR_PRBS_CTL_TX_PAT ix = s.rd .COR_PRBS_CTL_TX_PAT ix)
    (p : Nat) : t.corPatterned p = s.corPatterned p := by
  simp only [State.corPatterned, h]

end Sys2Proof.Machine
end

section
/-!
The rules of a register access: which register it finds, what reaching its island changes (R360), what a word reads
as, and what one field of a written register takes (R7, R40 to R42).
-/

namespace Sys2Proof.Machine

/-! ### Reaching the register's island (R360) -/

/-- R360: what the wake of an island's register stage writes. -/
abbrev wakeRows : List Row := [.PWR_STATE_STAT_DEFERRED, .PWR_WOA_CNT_MAX_STALL, .PWR_WOA_CNT_WAKES]

/-- R360: reaching an island changes the wake's rows, the power entry, the events and the free values. -/
theorem State.reachIsland_framed (s : State) (req : Req) (addr : Nat) :
    s.Framed (s.reachIsland req addr) wakeRows [.free, .pmu, .power] :=
  Within.framed (State.reachIsland_within (.refl _ s) (covers_of_test (by decide +kernel)) req addr)

theorem State.rd_reachIsland (s : State) (req : Req) (addr : Nat) {r : Row} (h : ∀ x ∈ wakeRows, x.id ≠ r.id)
    (ix : List Nat) : (s.reachIsland req addr).rd r ix = s.rd r ix :=
  (s.reachIsland_framed req addr).1 r ix h

@[simp] theorem State.reachIsland_out (s : State) (req : Req) (addr : Nat) : (s.reachIsland req addr).out = s.out :=
  (s.reachIsland_framed req addr).2 .out (by decide)

@[simp] theorem State.reachIsland_host (s : State) (req : Req) (addr : Nat) :
    (s.reachIsland req addr).host = s.host :=
  (s.reachIsland_framed req addr).2 .host (by decide)

@[simp] theorem State.reachIsland_image (s : State) (req : Req) (addr : Nat) :
    (s.reachIsland req addr).image = s.image :=
  (s.reachIsland_framed req addr).2 .image (by decide)

/-- R384: a wake leaves the frozen copy alone. -/
theorem State.wakeIsland_frozen (s : State) (island stall : Nat) :
    (s.wakeIsland island stall).pmu.frozen = s.pmu.frozen := by
  have admitted : ∀ d, (s.admitStage d).pmu = s.pmu := fun d =>
    (Within.framed (rs := [.PWR_STATE_STAT_DEFERRED]) (ps := [.power])
      (State.admitStage_within (.refl _ s) (covers_of_test (by decide +kernel)) d)).2 .pmu (by decide)
  simp [State.wakeIsland, State.countWrap, admitted]

/-- R384: an access leaves the frozen copy alone until the register is read. -/
@[simp] theorem State.reachIsland_frozen (s : State) (req : Req) (addr : Nat) :
    (s.reachIsland req addr).pmu.frozen = s.pmu.frozen := by
  unfold State.reachIsland
  dsimp only
  split
  · exact State.native_frozen ..
  · rw [State.wakeIsland_frozen]
    exact State.native_frozen ..

/-- R384: what a register reads as depends on the register and on the frozen copy. -/
theorem State.seen_congr {s t : State} {r : Row} {ix : List Nat} (hr : t.rd r ix = s.rd r ix)
    (hf : t.pmu.frozen = s.pmu.frozen) : t.seen r ix = s.seen r ix := by
  simp only [State.seen, hr, hf]

@[simp] theorem State.begin_seen (s : State) (r : Row) (ix : List Nat) : s.begin.seen r ix = s.seen r ix := rfl

/-- R384: without FREEZE a register reads as the field holds. -/
theorem State.seen_of_unfrozen {s : State} (h : s.pmu.frozen = none) (r : Row) (ix : List Nat) :
    s.seen r ix = s.rd r ix := by
  simp [State.seen, h]

/-- R384: what is no count is not frozen. -/
theorem State.seen_of_no_count (s : State) {r : Row} (h : r.cnt = .no) (ix : List Nat) : s.seen r ix = s.rd r ix := by
  unfold State.seen
  split
  · simp [h]
  · rfl

theorem State.seen_reachIsland (s : State) (req : Req) (addr : Nat) {r : Row} (h : ∀ x ∈ wakeRows, x.id ≠ r.id)
    (ix : List Nat) : (s.reachIsland req addr).seen r ix = s.seen r ix :=
  State.seen_congr (s.rd_reachIsland req addr h ix) (s.reachIsland_frozen req addr)

/-! ### Fields that no state hides -/

/-- None of the cases in which a field reads zero and ignores writes (`State.hidden`) can apply to it. -/
def Row.neverHidden (r : Row) (ix : List Nat) : Bool :=
  let n := r.base / 0x10000
  !(n = 0x07 || r.id == Row.SEC_SES_CFG_EN.id || decide (r.addr ix / 0x10000 = 0x07)) &&
    !(n = 0x0B || r.id == Row.HAL_LB_MODE.id) && !(n = 0x15 && r.among chanRows) &&
    !(r.id = Row.PMU_CNT_CFG_CHAIN.id) && !(n = 0x03 && r.among dmaRows) && !(n = 0x0D && r.among managerRows)

theorem State.hidden_of_never (s : State) {r : Row} {ix : List Nat} (h : r.neverHidden ix = true) :
    s.hidden r ix = false := by
  simp only [Row.neverHidden, Bool.and_eq_true, Bool.not_eq_true'] at h
  obtain ⟨⟨⟨⟨⟨cipher, port⟩, channel⟩, chain⟩, engine⟩, manager⟩ := h
  simp [State.hidden, cipher, port, channel, of_decide_eq_false chain, engine, manager]

/-! ### Which register an access finds (R401, R402) -/

/-- R401, R426: the regions that respond before RUNNING respond always. -/
theorem State.regionUp_early (s : State) {n : Nat} (h : n ∈ [0x00, 0x01, 0x03, 0x04, 0x06, 0x30]) :
    s.regionUp n = true := by
  have hn : decide (n < 0x20) || n == 0x30 := by revert n; decide
  unfold State.regionUp
  split
  · simp [hn]
  · simpa using h

/-- R401: the shared regions and wing A's respond once the module runs. -/
theorem State.regionUp_running {s : State} (h : s.isRunning = true) {n : Nat} (hn : n < 0x20) :
    s.regionUp n = true := by
  simp [State.regionUp, h, hn]

theorem State.assigned_of_rows {s : State} {addr : Nat} (hu : s.regionUp (addr / 0x10000) = true)
    (hr : rowsAt addr ≠ []) : s.assigned addr = true := by
  simp [State.assigned, hu, hr]

/-! ### Reads -/

/-- R402: a read that moves no cursor and is not of the MSI-X table. -/
theorem State.regRead_of_assigned {s : State} {req : Req} {addr : Nat} (ha : s.assigned addr = true)
    (hc : addr ∉ [0x50800, 0x40020, 0x4003C, 0xD0038]) (hm : isMsix addr = false) :
    s.regRead req addr = ((s.reachIsland req addr).valueFor req addr,
      ((s.reachIsland req addr).takeShadow req addr).clearRcAt addr) := by
  simp only [List.mem_cons, List.not_mem_nil, or_false, not_or] at hc
  obtain ⟨tag, rec, data, log⟩ := hc
  simp [State.regRead, ha, State.readWord, tag, rec, data, log, hm]

/-- R402: a read that finds no register returns zero and is counted. -/
theorem State.regRead_of_unassigned {s : State} {addr : Nat} (ha : s.assigned addr = false) (req : Req) :
    s.regRead req addr = (0, s.unmapped) := by
  simp [State.regRead, ha]

/-- A field that no state hides or computes, and that is not S, reads as it is seen. -/
theorem State.fieldRead_seen {s : State} {r : Row} {ix : List Nat} (hh : r.neverHidden ix = true)
    (hc : s.computed r ix = none) (hacc : r.acc ≠ .wo) (hcls : r.cls ≠ .shadowed) :
    s.fieldRead r ix = s.seen r ix := by
  simp [State.fieldRead, s.hidden_of_never hh, hc]

/-- R5: the word of a register that one field fills from bit 0. -/
theorem State.word_of_single {s : State} {addr : Nat} {r : Row} {ix : List Nat} (h : rowsAt addr = [(r, ix)])
    (hl : r.lsb = 0) : s.word addr = s.fieldRead r ix := by
  simp [State.word, h, hl]

/-- R383: an offset that is no upper word returns its word. -/
theorem State.valueFor_of_no_upper {s : State} {addr : Nat} (h : s.upperOf addr = none) (req : Req) :
    s.valueFor req addr = s.word addr := by
  simp [State.valueFor, State.fromShadow, h]

/-- R383: neither the offset nor the one before it is a _LO register's. -/
theorem State.upperOf_of_not_lo (s : State) {addr : Nat} (h : isLo addr = false) (hb : isLo (addr - 4) = false) :
    s.upperOf addr = none := by
  simp [State.upperOf, h, hb]

/-- R383: a _LO register outside the general counters. -/
theorem State.upperOf_of_lo (s : State) {addr : Nat} (h : isLo addr = true) (hc : counterAt addr = none) :
    s.upperOf addr = none := by
  simp [State.upperOf, h, State.chainedAt, hc]

theorem State.takeShadow_of_not_lo (s : State) {addr : Nat} (h : isLo addr = false) (req : Req) :
    s.takeShadow req addr = s := by
  simp [State.takeShadow, h]

theorem State.takeShadow_of_lo (s : State) {addr : Nat} (h : isLo addr = true) (hc : counterAt addr = none)
    (req : Req) : s.takeShadow req addr = s.fillShadow req addr := by
  simp [State.takeShadow, h, State.chainedAt, hc]

/-- R383: outside the general counters the shadow takes the _HI register that follows. -/
theorem State.restOf_unchained (s : State) {addr : Nat} (hc : counterAt addr = none) :
    s.restOf addr = s.word (addr + 4) := by
  simp [State.restOf, State.chainsAt, hc]

@[simp] theorem State.fillShadow_rd (s : State) (req : Req) (addr : Nat) (r : Row) (ix : List Nat) :
    (s.fillShadow req addr).rd r ix = s.rd r ix := rfl

@[simp] theorem State.fillShadow_out (s : State) (req : Req) (addr : Nat) : (s.fillShadow req addr).out = s.out := rfl

/-- R383: the shadow then holds the tag of the _LO register. -/
theorem State.fillShadow_tag (s : State) (req : Req) (addr : Nat) :
    tabGet 0 (s.fillShadow req addr).host.shadowTag req.n = addr + 1 := by
  simp [State.fillShadow, tabGet_set_self]

theorem State.fillShadow_value (s : State) (req : Req) (addr : Nat) :
    tabGet 0 (s.fillShadow req addr).host.shadow req.n = s.restOf addr := by
  simp [State.fillShadow, tabGet_set_self]

/-- R7: a register without an RC field is not changed by its read. -/
theorem State.clearRcAt_of_no_rc (s : State) {addr : Nat} {r : Row} {ix : List Nat} (h : rowsAt addr = [(r, ix)])
    (hacc : r.acc ≠ .rc) : s.clearRcAt addr = s := by
  simp [State.clearRcAt, h, beq_eq_false_iff_ne.mpr hacc]

/-- R7: the read of an RC register of one field clears it. -/
theorem State.clearRcAt_of_rc (s : State) {addr : Nat} {r : Row} {ix : List Nat} (h : rowsAt addr = [(r, ix)])
    (hacc : r.acc = .rc) (hh : r.neverHidden ix = true) : s.clearRcAt addr = s.clearRc r ix := by
  simp [State.clearRcAt, h, hacc, s.hidden_of_never hh]

theorem State.clearRc_unfrozen {s : State} (h : s.pmu.frozen = none) (r : Row) (ix : List Nat) :
    s.clearRc r ix = s.wr r ix 0 := by
  simp [State.clearRc, h]

/-- R384: while frozen, the count loses what the read returned, and the frozen copy goes to zero. -/
theorem State.clearRc_frozen {s : State} {st : Tab (Tab Nat)} (h : s.pmu.frozen = some st) {r : Row}
    (hc : r.cnt = .live) (ix : List Nat) :
    s.clearRc r ix = (s.wr r ix (s.rd r ix - s.seen r ix)).clearFrozen r ix := by
  simp [State.clearRc, h, hc]

@[simp] theorem State.clearFrozen_rd (s : State) (r : Row) (ix : List Nat) (x : Row) (jx : List Nat) :
    (s.clearFrozen r ix).rd x jx = s.rd x jx := by
  unfold State.clearFrozen
  split <;> rfl

@[simp] theorem State.clearFrozen_out (s : State) (r : Row) (ix : List Nat) : (s.clearFrozen r ix).out = s.out := by
  unfold State.clearFrozen
  split <;> rfl

/-- R384: a cleared frozen count reads zero. -/
theorem State.seen_clearFrozen_self {s : State} {st : Tab (Tab Nat)} (h : s.pmu.frozen = some st) {r : Row}
    (hc : r.cnt = .live) (ix : List Nat) : (s.clearFrozen r ix).seen r ix = 0 := by
  simp [State.clearFrozen, State.seen, h, hc, storeSet, tabGet_set_self]

/-! ### Writes -/

theorem State.regWrite_of_assigned {s : State} {addr : Nat} (ha : s.assigned addr = true) (hm : isMsix addr = false)
    (req : Req) (word : Nat) :
    s.regWrite req addr word = (s.reachIsland req addr).writeWord req addr (word % 2 ^ 32) := by
  simp [State.regWrite, ha, hm]

/-- R7, R40 to R43: a write of a register of one field that no state hides. -/
theorem State.writeWord_single (s : State) {addr : Nat} {r : Row} {ix : List Nat} (h : rowsAt addr = [(r, ix)])
    (hh : r.neverHidden ix = true) (req : Req) (word : Nat) :
    s.writeWord req addr word =
      ((((s.writeField (s.mayFreeze addr) word (r, ix)).stageWrite addr word [(r, ix)]).when
        (s.drops addr word [(r, ix)]) (·.reject addr)).act s req addr word) := by
  simp [State.writeWord, h, s.hidden_of_never hh]

/-- R8, R40: an L field of a running block, which the block uses at once, takes the value written. -/
theorem State.writeField_live (s : State) {r : Row} {ix : List Nat} (hacc : r.acc = .rw) (hcls : r.cls = .live)
    (hown : r.among ownRows = false) (hheld : r.among heldRows = false)
    (hrun : s.regionStopped (r.addr ix / 0x10000) = false) (open_ : Bool) (word : Nat) :
    s.writeField open_ word (r, ix) = s.wr r ix (s.takes r ix word) := by
  simp [State.writeField, hacc, hcls, State.writeLive, hown, hheld, hrun]

/-- R7: a W1C field is cleared where 1 is written. -/
theorem State.writeField_w1c (s : State) {r : Row} {ix : List Nat} (hacc : r.acc = .w1c) (open_ : Bool) (word : Nat) :
    s.writeField open_ word (r, ix) = s.wr r ix (clearMask (s.rd r ix) (bitsAt word r.lsb r.width)) := by
  unfold State.writeField
  dsimp only
  rw [hacc]

/-- R42: an F field takes the value when its fields may be written. -/
theorem State.writeField_frozen (s : State) {r : Row} {ix : List Nat} (hacc : r.acc = .rw) (hcls : r.cls = .frozen)
    (open_ : Bool) (word : Nat) :
    s.writeField open_ word (r, ix) = s.when open_ (·.wr r ix (s.takes r ix word)) := by
  simp [State.writeField, hacc, hcls]

/-- R41: the active value of an S field stays. -/
theorem State.writeField_shadowed (s : State) {r : Row} {ix : List Nat} (hacc : r.acc = .rw) (hcls : r.cls = .shadowed)
    (hkey : r.id ≠ Row.SEC_KEY_DATA_BYTES.id) (open_ : Bool) (word : Nat) :
    s.writeField open_ word (r, ix) = s := by
  simp [State.writeField, hacc, hcls, beq_eq_false_iff_ne.mpr hkey]

theorem State.stageWrite_of_no_shadowed (s : State) {fs : List (Row × List Nat)} (h : ∀ e ∈ fs, e.1.cls ≠ .shadowed)
    (addr word : Nat) : s.stageWrite addr word fs = s := by
  have none : fs.filter (fun e => e.1.cls == .shadowed) = [] := by simpa [List.filter_eq_nil_iff] using h
  simp [State.stageWrite, none]

/-- R41: a write of an S register of one field is staged. -/
theorem State.stageWrite_single (s : State) {addr : Nat} {r : Row} {ix : List Nat} (hcls : r.cls = .shadowed)
    (hl : r.lsb = 0) (hdec : s.wingDec addr = false) (word : Nat) :
    s.stageWrite addr word [(r, ix)] =
      { s with staged := tabInsert addr (s.takes r ix word) (tabErase s.staged addr) } := by
  simp [State.stageWrite, hcls, hdec, State.stagedWord, hl]

/-- R42: a write that names no F field drops nothing. -/
theorem State.drops_of_no_frozen (s : State) {fs : List (Row × List Nat)} (h : ∀ e ∈ fs, e.1.cls ≠ .frozen)
    (addr word : Nat) : s.drops addr word fs = false := by
  have kept : ∀ e ∈ fs.filter (fun e => e.1.writable), (e.1.cls == .frozen) = false :=
    fun e he => beq_eq_false_iff_ne.mpr (h e (List.mem_filter.mp he).1)
  unfold State.drops
  dsimp only
  generalize fs.filter (fun e => e.1.writable) = ws at kept
  have unchanged : ws.any (s.wouldChange word) = false := by
    simp only [List.any_eq_false, State.wouldChange]
    intro e he
    simp [kept e he]
  cases ws with
  | nil => simp
  | cons e ws => simp [unchanged, kept e (List.mem_cons_self ..)]

theorem State.drops_of_mayFreeze {s : State} {addr : Nat} (h : s.mayFreeze addr = true) (word : Nat)
    (fs : List (Row × List Nat)) : s.drops addr word fs = false := by
  simp [State.drops, h]

/-- R42: a write of a register of one F field, which may not be written, is dropped. -/
theorem State.drops_frozen_single {s : State} {addr : Nat} {r : Row} (h : s.mayFreeze addr = false) (hacc : r.acc = .rw)
    (hcls : r.cls = .frozen) (hn : addr / 0x10000 ≠ 0x03) (ix : List Nat) (word : Nat) :
    s.drops addr word [(r, ix)] = true := by
  simp [State.drops, h, Row.writable, hacc, hcls, hn]

/-! ### What a written value is taken as (R40) -/

/-- The fields for which `State.takes` has a rule beside the statement of the row. -/
def ruledRows : List Row :=
  [.SUP_SEQ_CTL_LEN, .SCH_EQ_SHP_CFG_RATE, .SCH_IQ_SHP_CFG_RATE, .RXW_SP2_CTL_OFF_TH, .PAN_EQ_PFC_TH_XON_TH,
   .TXW_RATE_BAUD, .RXW_RATE_BAUD] ++ txeqRows

/-- R40: every other field takes what its row states. -/
theorem State.takes_of_norm (s : State) {r : Row} (h : r.among ruledRows = false) (ix : List Nat) (word : Nat) :
    s.takes r ix word = r.norm.take r.width (s.rd r ix) (bitsAt word r.lsb r.width) := by
  simp only [Row.among, ruledRows, List.any_append, Bool.or_eq_false_iff] at h
  obtain ⟨ruled, txeq⟩ := h
  simp only [List.any_cons, List.any_nil, Bool.or_false, Bool.or_eq_false_iff, beq_eq_false_iff_ne] at ruled
  obtain ⟨len, egress, ingress, off, xon, txRate, rxRate⟩ := ruled
  simp [State.takes, Row.among, txeq, Ne.symm len, Ne.symm egress, Ne.symm ingress, Ne.symm off, Ne.symm xon,
    Ne.symm txRate, Ne.symm rxRate]

/-! ### A write of a register of one field, by the field's class -/

theorem State.regionStopped_of_no_block (s : State) {n : Nat} (h : regionBlock n = none) :
    s.regionStopped n = false := by
  simp [State.regionStopped, h]

/-- R8, R40: an L register. -/
theorem State.writeWord_live (s : State) {addr : Nat} {r : Row} {ix : List Nat} (h : rowsAt addr = [(r, ix)])
    (hh : r.neverHidden ix = true) (hacc : r.acc = .rw) (hcls : r.cls = .live) (hown : r.among ownRows = false)
    (hheld : r.among heldRows = false) (hrun : s.regionStopped (r.addr ix / 0x10000) = false) (req : Req) (word : Nat) :
    s.writeWord req addr word = (s.wr r ix (s.takes r ix word)).act s req addr word := by
  rw [s.writeWord_single h hh, s.writeField_live hacc hcls hown hheld hrun,
    State.stageWrite_of_no_shadowed _ (by simp [hcls]), s.drops_of_no_frozen (by simp [hcls]), State.when_false]

/-- R41: an S register. -/
theorem State.writeWord_shadowed (s : State) {addr : Nat} {r : Row} {ix : List Nat} (h : rowsAt addr = [(r, ix)])
    (hh : r.neverHidden ix = true) (hacc : r.acc = .rw) (hcls : r.cls = .shadowed)
    (hkey : r.id ≠ Row.SEC_KEY_DATA_BYTES.id) (hl : r.lsb = 0) (hdec : s.wingDec addr = false) (req : Req)
    (word : Nat) :
    s.writeWord req addr word =
      ({ s with
        staged := tabInsert addr (s.takes r ix word) (tabErase s.staged addr) } : State).act s req addr word := by
  rw [s.writeWord_single h hh, s.writeField_shadowed hacc hcls hkey, s.stageWrite_single hcls hl hdec,
    s.drops_of_no_frozen (by simp [hcls]), State.when_false]

/-- R42: an F register that may be written. -/
theorem State.writeWord_frozen_open (s : State) {addr : Nat} {r : Row} {ix : List Nat} (h : rowsAt addr = [(r, ix)])
    (hh : r.neverHidden ix = true) (hacc : r.acc = .rw) (hcls : r.cls = .frozen) (hopen : s.mayFreeze addr = true)
    (req : Req) (word : Nat) :
    s.writeWord req addr word = (s.wr r ix (s.takes r ix word)).act s req addr word := by
  rw [s.writeWord_single h hh, hopen, s.writeField_frozen hacc hcls, State.when_true,
    State.stageWrite_of_no_shadowed _ (by simp [hcls]), State.drops_of_mayFreeze hopen, State.when_false]

/-- R42: an F register that may not be written. -/
theorem State.writeWord_frozen_closed (s : State) {addr : Nat} {r : Row} {ix : List Nat} (h : rowsAt addr = [(r, ix)])
    (hh : r.neverHidden ix = true) (hacc : r.acc = .rw) (hcls : r.cls = .frozen) (hclosed : s.mayFreeze addr = false)
    (hn : addr / 0x10000 ≠ 0x03) (req : Req) (word : Nat) :
    s.writeWord req addr word = (s.reject addr).act s req addr word := by
  rw [s.writeWord_single h hh, hclosed, s.writeField_frozen hacc hcls, State.when_false,
    State.stageWrite_of_no_shadowed _ (by simp [hcls]), State.drops_frozen_single hclosed hacc hcls hn, State.when_true]

/-- R7: a register of W1C fields. -/
theorem State.writeWord_w1c (s : State) {addr : Nat} (hne : rowsAt addr ≠ [])
    (hh : ∀ e ∈ rowsAt addr, e.1.neverHidden e.2 = true) (hacc : ∀ e ∈ rowsAt addr, e.1.acc = .w1c ∧ e.1.cls = .live)
    (req : Req) (word : Nat) :
    s.writeWord req addr word = ((rowsAt addr).foldl
      (fun t e => t.wr e.1 e.2 (clearMask (t.rd e.1 e.2) (bitsAt word e.1.lsb e.1.width))) s).act s req addr word := by
  have shown : (rowsAt addr).filter (fun e => !s.hidden e.1 e.2) = rowsAt addr :=
    List.filter_eq_self.mpr fun e he => by simp [s.hidden_of_never (hh e he)]
  have cleared : (rowsAt addr).foldl (fun t e => t.writeField (s.mayFreeze addr) word e) s = (rowsAt addr).foldl
      (fun t e => t.wr e.1 e.2 (clearMask (t.rd e.1 e.2) (bitsAt word e.1.lsb e.1.width))) s :=
    List.foldl_ext _ _ _ fun t e he => t.writeField_w1c (hacc e he).1 _ _
  simp only [State.writeWord, shown, List.isEmpty_eq_false_iff.mpr hne, Bool.false_eq_true, if_false, cleared]
  rw [State.stageWrite_of_no_shadowed _ (fun e he => by simp [(hacc e he).2]),
    s.drops_of_no_frozen (fun e he => by simp [(hacc e he).2]), State.when_false]

end Sys2Proof.Machine
end

section
/-!
The module right after reset (R10): the empty store reads every field at its reset value.
-/

namespace Sys2Proof.Machine

/-- R10: at reset the store is empty, so every field reads what its row gives as its reset value. -/
@[simp] theorem State.rd_reset (r : Row) (ix : List Nat) : State.reset.rd r ix = r.rst := by
  simp [State.rd, State.reset, tabGet, tabFind]

/-- At reset nothing is kept by key. -/
theorem State.wf_reset : State.reset.wf := by
  simp [State.wf, storeWf, State.reset]

/-- Settles O4: the empty store reads each row's reset value, and each listed row's is the number named. -/
theorem resetValues : Obligations.ResetValues := by
  unfold Obligations.ResetValues
  refine ⟨rfl, State.wf_reset, State.rd_reset, ?_⟩
  simp only [State.rd_reset]
  decide

end Sys2Proof.Machine
end

section
/-!
Writes of registers (R7, R8, R40 to R43): what a write of one live, W1C, S or F register comes to, and O51.
-/

namespace Sys2Proof.Machine

/-! ### What each command runs when its requester reaches the registers -/

theorem registerWrite_answers {s : State} {req : Req} (h : s.takesFrom req = true) {addr word : Nat}
    {P : State → Prop} (hP : P (s.begin.regWrite req addr word)) : Answers (.registerWrite req addr word) s P := by
  have taken : s.begin.takesFrom req = true := h
  exact ⟨_, by simp [execRegisterWrite, taken], hP⟩

theorem wrRejectClear_answers {s : State} {req : Req} (h : s.takesFrom req = true) {P : State → Prop}
    (hP : P s.begin.clearReject) : Answers (.wrRejectClear req) s P := by
  have taken : s.begin.takesFrom req = true := h
  exact ⟨_, by rw [exec_wrRejectClear, execWrRejectClear, State.via_of_takesFrom taken], hP⟩

theorem unmappedAccess_answers {s : State} {req : Req} {addr : Nat} (h : s.takesFrom req = true)
    (ha : s.assigned addr = false) {isWrite : Bool} {P : State → Prop}
    (hP : P (if isWrite then s.begin.unmapped else s.begin.unmapped.say (.data req addr 0))) :
    Answers (.unmappedAccess req addr isWrite) s P := by
  have taken : s.begin.takesFrom req = true := h
  have missing : s.begin.assigned addr = false := ha
  exact ⟨_, by simp [execUnmappedAccess, taken, missing], hP⟩

/-! ### HST.VEC_MOD: a live register -/

theorem rowsAt_vecMod (v : Fin 64) : rowsAt (0x30100 + 4 * v) = [(.HST_VEC_MOD_GAP, [v.val])] := by
  revert v; decide +kernel

theorem neverHidden_vecMod (v : Fin 64) : Row.HST_VEC_MOD_GAP.neverHidden [v.val] = true := by
  revert v; decide +kernel

theorem isMsix_vecMod (v : Fin 64) : isMsix (0x30100 + 4 * v) = false := by
  revert v; decide

theorem region_vecMod (v : Fin 64) : (0x30100 + 4 * v.val) / 0x10000 = 0x03 := by omega

theorem State.assigned_vecMod (s : State) (v : Fin 64) : s.assigned (0x30100 + 4 * v) = true :=
  State.assigned_of_rows (by rw [region_vecMod]; exact s.regionUp_early (by decide))
    (by rw [rowsAt_vecMod]; exact List.cons_ne_nil _ _)

theorem regionBlock_vecMod (v : Fin 64) : regionBlock (Row.HST_VEC_MOD_GAP.addr [v.val] / 0x10000) = none := by
  revert v; decide

/-- R404: the gap is limited to 1,000. -/
theorem State.takes_vecMod (s : State) (ix : List Nat) (word : Nat) :
    s.takes .HST_VEC_MOD_GAP ix (word % 2 ^ 32) = min 1000 (word % 1024) := by
  have raw : bitsAt (word % 2 ^ 32) 0 10 = word % 1024 := by
    rw [bitsAt_mod_word (by decide)]
    simp [bitsAt]
  calc s.takes .HST_VEC_MOD_GAP ix (word % 2 ^ 32)
      = (Norm.clamp 0 1000).take 10 (s.rd .HST_VEC_MOD_GAP ix) (bitsAt (word % 2 ^ 32) 0 10) :=
        s.takes_of_norm (by decide) ix _
    _ = min 1000 (word % 1024) := by rw [raw]; simp [Norm.take, clampNat]

/-- A register of HST does nothing more when it is written. -/
theorem State.act_vecMod (s old : State) (req : Req) (v : Fin 64) (word : Nat) :
    s.act old req (0x30100 + 4 * v) word = s := by
  have region := region_vecMod v
  have off : (0x30100 + 4 * v.val) % 0x10000 ≠ 0xFFF0 := by omega
  simp [State.act, region, off, State.wingAct, wingRegion]

/-- R404: a write of VEC_MOD sets the vector's gap, after the access has reached HST. -/
theorem State.regWrite_vecMod (s : State) (req : Req) (v : Fin 64) (word : Nat) :
    s.regWrite req (0x30100 + 4 * v) word =
      (s.reachIsland req (0x30100 + 4 * v)).wr .HST_VEC_MOD_GAP [v.val] (min 1000 (word % 1024)) := by
  rw [State.regWrite_of_assigned (s.assigned_vecMod v) (isMsix_vecMod v),
    State.writeWord_live _ (rowsAt_vecMod v) (neverHidden_vecMod v) rfl rfl (by decide) (by decide)
      (State.regionStopped_of_no_block _ (regionBlock_vecMod v)),
    State.act_vecMod, State.takes_vecMod]

theorem State.rd_regWrite_vecMod (s : State) (req : Req) (v : Fin 64) (word : Nat) :
    (s.regWrite req (0x30100 + 4 * v) word).rd .HST_VEC_MOD_GAP [v.val] = min 1000 (word % 1024) := by
  have fits : min 1000 (word % 1024) < 2 ^ Row.HST_VEC_MOD_GAP.width :=
    Nat.lt_of_le_of_lt (Nat.min_le_left ..) (by decide)
  rw [State.regWrite_vecMod, State.rd_wr_self, Nat.mod_eq_of_lt fits]

theorem State.regWrite_vecMod_keeps (s : State) (req : Req) (v : Fin 64) (word : Nat) :
    s.KeepsBut (s.regWrite req (0x30100 + 4 * v) word) (.HST_VEC_MOD_GAP :: wakeRows) := by
  rw [State.regWrite_vecMod]
  exact State.KeepsBut.wr (s.reachIsland_framed req _).1 _ _ _

/-! ### ATT.EVT: write 1 to clear -/

/-- R7: what is left of a bit after a write of 1, or of 0, to clear it. -/
theorem clearMask_bit_mod (v : Nat) {m : Nat} (hm : m < 2) : clearMask v m % 2 = if m = 1 then 0 else v % 2 := by
  unfold clearMask
  obtain rfl | rfl : m = 0 ∨ m = 1 := by omega
  · simp
  · rw [Nat.and_one_is_mod]
    simp only [if_true]
    omega

theorem bitsAt_one_bit (word lsb : Nat) : bitsAt word lsb 1 = 1 ↔ word.testBit lsb = true := by
  simp [bitsAt, Nat.testBit_eq_decide_div_mod_eq]

theorem rowsAt_atticEvents : rowsAt 0x40008 = [(.ATT_EVT_LOST, []), (.ATT_EVT_SEALED_FULL, [])] := by decide

/-- R391: a write of ATT.EVT clears LOST where 1 is written. -/
theorem State.rd_regWrite_atticEvents (s : State) (req : Req) (word : Nat) :
    (s.regWrite req 0x40008 word).rd .ATT_EVT_LOST = if word.testBit 1 then 0 else s.rd .ATT_EVT_LOST % 2 := by
  have assigned : s.assigned 0x40008 = true :=
    State.assigned_of_rows (s.regionUp_early (by decide)) (by decide)
  have quiet : ∀ t old : State, t.act old req 0x40008 (word % 2 ^ 32) = t := fun t old => rfl
  rw [State.regWrite_of_assigned assigned (by decide), State.writeWord_w1c _ (by decide) (by decide) (by decide), quiet,
    rowsAt_atticEvents]
  simp only [List.foldl_cons, List.foldl_nil]
  rw [State.rd_wr_ne _ (by decide), State.rd_wr_self, s.rd_reachIsland req _ (by decide)]
  have one : bitsAt (word % 2 ^ 32) 1 1 < 2 := Nat.mod_lt _ (by decide)
  calc clearMask (s.rd .ATT_EVT_LOST) (bitsAt (word % 2 ^ 32) 1 1) % 2
      = if bitsAt (word % 2 ^ 32) 1 1 = 1 then 0 else s.rd .ATT_EVT_LOST % 2 := clearMask_bit_mod _ one
    _ = if word.testBit 1 then 0 else s.rd .ATT_EVT_LOST % 2 := by
        rw [bitsAt_mod_word (by decide)]; simp only [bitsAt_one_bit]

/-! ### RXW.CD_WIN: a shadowed register -/

theorem State.takes_cdWindow (s : State) (ix : List Nat) (word : Nat) :
    s.takes .RXW_CD_WIN_HALF_WIDTH ix (word % 2 ^ 32) = word % 65536 :=
  calc s.takes .RXW_CD_WIN_HALF_WIDTH ix (word % 2 ^ 32)
      = bitsAt (word % 2 ^ 32) 0 16 := s.takes_of_norm (by decide) ix _
    _ = word % 65536 := by rw [bitsAt_mod_word (by decide)]; simp [bitsAt]

/-- R41: a write of CD_WIN is staged, after the access has reached the receiver. -/
theorem State.regWrite_cdWindow {s : State} (hs : s.isRunning = true) (req : Req) (word : Nat) :
    s.regWrite req 0x110104 word =
      { s.reachIsland req 0x110104 with
        staged := tabInsert 0x110104 (word % 65536) (tabErase (s.reachIsland req 0x110104).staged 0x110104) } := by
  have assigned : s.assigned 0x110104 = true :=
    State.assigned_of_rows (State.regionUp_running hs (by decide)) (by decide)
  rw [State.regWrite_of_assigned assigned (by decide),
    State.writeWord_shadowed (r := .RXW_CD_WIN_HALF_WIDTH) (ix := [0]) _ (by decide) (by decide) rfl rfl (by decide) rfl
      (by simp [State.wingDec]),
    State.takes_cdWindow]
  rfl

theorem State.regWrite_cdWindow_keeps {s : State} (hs : s.isRunning = true) (req : Req) (word : Nat) :
    s.KeepsBut (s.regWrite req 0x110104 word) wakeRows := by
  rw [State.regWrite_cdWindow hs]
  exact State.KeepsBut.of_store (s.reachIsland_framed req 0x110104).1 rfl

/-! ### TXW.RATE: a frozen register -/

theorem State.wingStopped_reachIsland (s : State) (req : Req) (addr : Nat) (w : Wing) :
    (s.reachIsland req addr).wingStopped w = s.wingStopped w := by
  have kept {r : Row} (h : ∀ x ∈ wakeRows, x.id ≠ r.id) := s.rd_reachIsland req addr h
  cases w <;> simp only [State.wingStopped, State.blockStopped, State.flag, State.wingState,
    kept (r := .GLB_BLK_CTL_STOPPED) (by decide), kept (r := .PWR_STATE_STAT_WING_A) (by decide),
    kept (r := .PWR_STATE_STAT_WING_B) (by decide)]

/-- R42: TXW.RATE may be written exactly while the wing counts as stopped. -/
theorem State.mayFreeze_txRate (s : State) : s.mayFreeze 0x100010 = s.wingStopped .a := by
  simp [State.mayFreeze, State.regionStopped, regionBlock, State.counted, Wing.num]

theorem State.mayFreeze_txRate_reachIsland (s : State) (req : Req) (addr : Nat) :
    (s.reachIsland req addr).mayFreeze 0x100010 = s.mayFreeze 0x100010 := by
  simp only [State.mayFreeze_txRate, State.wingStopped_reachIsland]

/-- R80: the symbol rate is limited to its range and to what the floor plan allows. -/
theorem State.takes_txRate (s : State) (word : Nat) :
    s.takes .TXW_RATE_BAUD [0] (word % 2 ^ 32) = min (s.maxBaud .a) (max 224 (min 1360 (word % 2048))) := by
  have raw : bitsAt (word % 2 ^ 32) 0 11 = word % 2048 := by
    rw [bitsAt_mod_word (by decide)]
    simp [bitsAt]
  rw [← raw]
  rfl

theorem State.maxBaud_reachIsland (s : State) (req : Req) (addr : Nat) (w : Wing) :
    (s.reachIsland req addr).maxBaud w = s.maxBaud w := by
  simp only [State.maxBaud, State.wingSec, State.reachIsland_image]

/-- R80: what follows a new symbol rate leaves the symbol rates alone. -/
theorem State.rd_txRate (s : State) (w : Wing) (ix : List Nat) :
    (s.txRate w).rd .TXW_RATE_BAUD ix = s.rd .TXW_RATE_BAUD ix :=
  (State.txRate_within (.refl _ s) (covers_self _) w).rd ix (by decide +kernel) (by decide +kernel)

/-- R80: TXW.RATE acts when the symbol rate has changed. -/
theorem State.act_txRate (s old : State) (req : Req) (word : Nat) :
    s.act old req 0x100010 word =
      s.when (s.rd .TXW_RATE_BAUD [0] != old.rd .TXW_RATE_BAUD [0]) (·.txRate .a) := by
  simp [State.act, State.wingAct, wingRegion, Wing.n]

theorem State.rd_act_txRate (s old : State) (req : Req) (word : Nat) :
    (s.act old req 0x100010 word).rd .TXW_RATE_BAUD [0] = s.rd .TXW_RATE_BAUD [0] := by
  rw [State.act_txRate]
  unfold State.when
  split
  · exact s.rd_txRate .a [0]
  · rfl

theorem State.assigned_txRate {s : State} (hs : s.isRunning = true) : s.assigned 0x100010 = true :=
  State.assigned_of_rows (State.regionUp_running hs (by decide)) (by decide)

theorem rowsAt_txRate : rowsAt 0x100010 = [(.TXW_RATE_BAUD, [0])] := by decide

/-- R42, R80: while the wing counts as stopped, TXW.RATE takes the value. -/
theorem State.rd_regWrite_txRate_open {s : State} (hs : s.isRunning = true) (ho : s.mayFreeze 0x100010 = true)
    (req : Req) (word : Nat) :
    (s.regWrite req 0x100010 word).rd .TXW_RATE_BAUD [0] =
      min (s.maxBaud .a) (max 224 (min 1360 (word % 2048))) := by
  have fits : min (s.maxBaud .a) (max 224 (min 1360 (word % 2048))) < 2 ^ Row.TXW_RATE_BAUD.width :=
    Nat.lt_of_le_of_lt (Nat.min_le_right ..) (by simp [Row.TXW_RATE_BAUD])
  rw [State.regWrite_of_assigned (State.assigned_txRate hs) (by decide),
    State.writeWord_frozen_open _ rowsAt_txRate (by decide) rfl rfl (by rw [State.mayFreeze_txRate_reachIsland, ho]),
    State.rd_act_txRate, State.takes_txRate, State.maxBaud_reachIsland, State.rd_wr_self, Nat.mod_eq_of_lt fits]

/-- R42: otherwise the write is only recorded. -/
theorem State.regWrite_txRate_closed {s : State} (hs : s.isRunning = true) (hc : s.mayFreeze 0x100010 = false)
    (req : Req) (word : Nat) :
    s.regWrite req 0x100010 word = (s.reachIsland req 0x100010).reject 0x100010 := by
  have kept : ((s.reachIsland req 0x100010).reject 0x100010).rd .TXW_RATE_BAUD [0] =
      (s.reachIsland req 0x100010).rd .TXW_RATE_BAUD [0] := State.reject_keeps _ _ _ _ (by decide)
  rw [State.regWrite_of_assigned (State.assigned_txRate hs) (by decide),
    State.writeWord_frozen_closed _ rowsAt_txRate (by decide) rfl rfl
      (by rw [State.mayFreeze_txRate_reachIsland, hc]) (by decide),
    State.act_txRate, kept, bne_self_eq_false, State.when_false]

/-! ### Accesses that find no register -/

theorem State.rd_unmapped (s : State) : s.unmapped.rd .HST_UNMAPPED_COUNT =
    satAdd Row.HST_UNMAPPED_COUNT.width (s.rd .HST_UNMAPPED_COUNT) 1 :=
  s.rd_count_self ..

@[simp] theorem State.unmapped_out (s : State) : s.unmapped.out = s.out := s.count_out ..

/-! ### The obligation -/

/-- Settles O51: each clause by the rule of its field's class. -/
theorem registerWrites : Obligations.RegisterWrites := by
  unfold Obligations.RegisterWrites
  intro s
  refine ⟨?live, ?clear, ?staged, ?written, ?dropped, ?emptied, ?unassigned⟩
  case live =>
    intro req v word taken
    exact registerWrite_answers taken ⟨State.rd_regWrite_vecMod _ req v word, s.begin.regWrite_vecMod_keeps req v word⟩
  case clear =>
    intro req word taken
    exact registerWrite_answers taken (s.begin.rd_regWrite_atticEvents req word)
  case staged =>
    intro req word taken running
    have keeps := State.regWrite_cdWindow_keeps (s := s.begin) running req word
    refine registerWrite_answers taken ⟨?_, keeps .RXW_CD_WIN_HALF_WIDTH [0] (by decide), keeps⟩
    rw [State.regWrite_cdWindow (s := s.begin) running]
    exact tabFind_insert_self _ _ _ (tabFind_erase_self _ _)
  case written =>
    intro req word taken running stopped
    have open_ : s.begin.mayFreeze 0x100010 = true := by
      rw [State.mayFreeze_txRate, State.wingStopped]
      simp [State.blockStopped, Wing.n] at stopped ⊢
      simp [stopped]
    exact registerWrite_answers taken (State.rd_regWrite_txRate_open (s := s.begin) running open_ req word)
  case dropped =>
    intro req word taken running closed empty
    refine registerWrite_answers taken ?_
    rw [State.regWrite_txRate_closed (s := s.begin) running closed]
    have kept {r : Row} (h : ∀ x ∈ wakeRows, x.id ≠ r.id) := s.begin.rd_reachIsland req 0x100010 h
    have unset : (s.begin.reachIsland req 0x100010).flag .GLB_WR_REJECT_VALID = false := by
      rw [State.flag, kept (by decide)]; exact empty
    obtain ⟨valid, count, address⟩ := State.reject_first unset 0x100010
    refine ⟨?_, valid, ?_, address⟩
    · rw [State.reject_keeps _ _ _ _ (by decide), kept (by decide)]; rfl
    · rw [count, kept (by decide)]; rfl
  case emptied =>
    intro req taken
    exact wrRejectClear_answers taken s.begin.clearReject_empties
  case unassigned =>
    intro req addr isWrite taken missing
    refine unmappedAccess_answers taken missing ?_
    cases isWrite
    · exact ⟨s.begin.rd_unmapped, by simp⟩
    · exact ⟨s.begin.rd_unmapped, by simp⟩

end Sys2Proof.Machine
end

section
/-!
Reads that act (R7, R383, R384, R387, R417): the RC counts, the shadow of a wide value, the user page and the corridor's
accesses, and O52.
-/

namespace Sys2Proof.Machine

/-! ### What each command runs -/

/-- R402: a read returns its value to its requester. -/
theorem State.readFor_of_takesFrom {s : State} {req : Req} (h : s.takesFrom req = true) (addr : Nat) :
    s.readFor req addr = (s.regRead req addr).2.say (.data req addr (s.regRead req addr).1) := by
  simp [State.readFor, h]

theorem rcRead_answers {s : State} {req : Req} (h : s.takesFrom req = true) {addr : Nat} {P : State → Prop}
    (hP : P ((s.begin.regRead req addr).2.say (.data req addr (s.begin.regRead req addr).1))) :
    Answers (.rcRead req addr) s P := by
  have taken : s.begin.takesFrom req = true := h
  exact ⟨_, by rw [exec_rcRead, execRcRead, State.readFor_of_takesFrom taken], hP⟩

theorem loHalfRead_answers {s : State} {req : Req} (h : s.takesFrom req = true) {addr : Nat} {P : State → Prop}
    (hP : P ((s.begin.regRead req addr).2.say (.data req addr (s.begin.regRead req addr).1))) :
    Answers (.loHalfRead req addr) s P := by
  have taken : s.begin.takesFrom req = true := h
  exact ⟨_, by rw [exec_loHalfRead, execLoHalfRead, State.readFor_of_takesFrom taken], hP⟩

theorem userPageAccess_answers {s : State} (h : s.takesFrom .pf1 = true) (hs : s.isRunning = true) {off : Nat}
    {isWrite : Bool} {P : State → Prop} (hP : P (s.begin.userAccess off isWrite)) :
    Answers (.userPageAccess off isWrite) s P := by
  have taken : s.begin.takesFrom .pf1 = true := h
  have running : s.begin.isRunning = true := hs
  exact ⟨_, by simp [execUserPageAccess, taken, running], hP⟩

theorem State.serves_begin {s : State} (hm : s.isManager = false) (hc : s.corRuns = true) : s.begin.serves = true := by
  have worker : s.begin.isManager = false := hm
  have runs : s.begin.corRuns = true := hc
  simp [State.serves, worker, runs]

theorem corReadRx_answers {s : State} (hm : s.isManager = false) (hc : s.corRuns = true) {id addr : Nat} {port : Fin 4}
    {P : State → Prop} (hP : P (s.begin.corRead id addr port)) : Answers (.corReadRx id addr port) s P :=
  ⟨_, by simp [execCorReadRx, State.serves_begin hm hc], hP⟩

theorem corWriteRx_answers {s : State} (hm : s.isManager = false) (hc : s.corRuns = true) {id addr word : Nat}
    {port : Fin 4} {P : State → Prop} (hP : P (s.begin.corWrite id addr word port)) :
    Answers (.corWriteRx id addr word port) s P :=
  ⟨_, by simp [execCorWriteRx, State.serves_begin hm hc], hP⟩

/-! ### RAS.MEM.CE: an RC count -/

theorem rowsAt_memErrors (k : Fin 6) : rowsAt (0x300100 + 16 * k) = [(.RAS_MEM_CE_COUNT, [k.val])] := by
  revert k; decide +kernel

theorem neverHidden_memErrors (k : Fin 6) : Row.RAS_MEM_CE_COUNT.neverHidden [k.val] = true := by
  revert k; decide +kernel

theorem isLo_memErrors (k : Fin 6) : isLo (0x300100 + 16 * k) = false := by
  revert k; decide +kernel

theorem isLo_before_memErrors (k : Fin 6) : isLo (0x300100 + 16 * k - 4) = false := by
  revert k; decide +kernel

theorem State.assigned_memErrors (s : State) (k : Fin 6) : s.assigned (0x300100 + 16 * k) = true := by
  have region : (0x300100 + 16 * k.val) / 0x10000 = 0x30 := by omega
  exact State.assigned_of_rows (by rw [region]; exact s.regionUp_early (by decide))
    (by rw [rowsAt_memErrors]; exact List.cons_ne_nil _ _)

/-- R7, R384: a read of RAS.MEM.CE returns the count as it is seen and clears it. -/
theorem State.regRead_memErrors (s : State) (req : Req) (k : Fin 6) :
    s.regRead req (0x300100 + 16 * k) =
      (s.seen .RAS_MEM_CE_COUNT [k.val],
        (s.reachIsland req (0x300100 + 16 * k)).clearRc .RAS_MEM_CE_COUNT [k.val]) := by
  have plain : 0x300100 + 16 * k.val ∉ [0x50800, 0x40020, 0x4003C, 0xD0038] := by revert k; decide
  have entry : isMsix (0x300100 + 16 * k) = false := by revert k; decide
  rw [State.regRead_of_assigned (s.assigned_memErrors k) plain entry, State.takeShadow_of_not_lo _ (isLo_memErrors k),
    State.clearRcAt_of_rc _ (rowsAt_memErrors k) rfl (neverHidden_memErrors k),
    State.valueFor_of_no_upper (State.upperOf_of_not_lo _ (isLo_memErrors k) (isLo_before_memErrors k)),
    State.word_of_single (rowsAt_memErrors k) rfl,
    State.fieldRead_seen (neverHidden_memErrors k) rfl (by decide) (by decide),
    State.seen_reachIsland _ _ _ (by decide)]

/-! ### REF.MT: a wide value -/

theorem State.word_moduleTime (s : State) : s.word 0x20080 = s.rd .REF_MT_LO_MT := by
  rw [State.word_of_single (r := .REF_MT_LO_MT) (ix := []) (by decide) rfl,
    State.fieldRead_seen (by decide) rfl (by decide) (by decide), State.seen_of_no_count _ rfl]

theorem State.word_moduleTime_upper (s : State) : s.word 0x20084 = s.rd .REF_MT_HI_MT := by
  rw [State.word_of_single (r := .REF_MT_HI_MT) (ix := []) (by decide) rfl,
    State.fieldRead_seen (by decide) rfl (by decide) (by decide), State.seen_of_no_count _ rfl]

theorem isLo_moduleTime : isLo 0x20080 = true := by decide +kernel

theorem State.valueFor_moduleTime (s : State) (req : Req) : s.valueFor req 0x20080 = s.rd .REF_MT_LO_MT := by
  rw [State.valueFor_of_no_upper (State.upperOf_of_lo _ isLo_moduleTime rfl), State.word_moduleTime]

/-- R383: a read of module time returns its low word and fills the shadow. -/
theorem State.regRead_moduleTime {s : State} (hs : s.isRunning = true) (req : Req) :
    s.regRead req 0x20080 = (s.rd .REF_MT_LO_MT, (s.reachIsland req 0x20080).fillShadow req 0x20080) := by
  have assigned : s.assigned 0x20080 = true :=
    State.assigned_of_rows (State.regionUp_running hs (by decide)) (by decide)
  rw [State.regRead_of_assigned assigned (by decide) (by decide), State.valueFor_moduleTime,
    State.takeShadow_of_lo _ isLo_moduleTime rfl,
    State.clearRcAt_of_no_rc (r := .REF_MT_LO_MT) (ix := []) _ (by decide) (by decide),
    s.rd_reachIsland _ _ (by decide)]

/-- R383: the shadow holds the _LO register's tag and the upper word. -/
theorem State.fillShadow_moduleTime (s : State) (req : Req) :
    tabGet 0 (s.fillShadow req 0x20080).host.shadowTag req.n = 0x20081 ∧
      tabGet 0 (s.fillShadow req 0x20080).host.shadow req.n = s.rd .REF_MT_HI_MT := by
  refine ⟨s.fillShadow_tag req _, ?_⟩
  rw [State.fillShadow_value, s.restOf_unchained rfl, s.word_moduleTime_upper]

/-! ### The user page (R387) -/

theorem State.use_native (s : State) (code inst n : Nat) (r : Row) (ix : List Nat) :
    (s.native code inst n).use r ix = s.use r ix := by
  simp only [State.use, State.native_inuse, State.native_rd]

theorem State.halted_native (s : State) (code inst n b : Nat) : (s.native code inst n).halted b = s.halted b := by
  have failed : (s.native code inst n).islandFailed = s.islandFailed := by
    funext i
    rw [State.islandFailed, State.native_rd, State.islandFailed]
  simp only [State.halted, State.blockStopped, State.blockFailed, failed, State.flag, State.native_rd]

/-- R387: a violation sets its event and, while the PMU is not stopped, is counted. -/
theorem State.userViolation_shows {s : State} (h : s.halted 7 = false) :
    s.userViolation.flag .PMU_EVT_USER_VIOL = true ∧ s.userViolation.rd .PMU_USER_VIOL_COUNT =
      satAdd Row.PMU_USER_VIOL_COUNT.width (s.rd .PMU_USER_VIOL_COUNT) 1 := by
  unfold State.userViolation
  rw [h, Bool.not_false, State.when_true]
  refine ⟨State.flag_evt_self _ .PMU_EVT_USER_VIOL [] rfl (by decide), ?_⟩
  rw [State.evt_keeps _ _ _ _ _ _ (by decide)]
  exact s.rd_count_self ..

/-- R387: a permitted read of module time through the user page. -/
theorem State.userAccess_moduleTime {s : State} (h : s.use .PMU_CTL_USER_EN ≠ 0) :
    (s.userAccess 0x400 false).out = s.out ++ [.data .pf1 0x400 (s.rd .REF_MT_LO_MT)] ∧
      (s.userAccess 0x400 false).rd .PMU_USER_VIOL_COUNT = s.rd .PMU_USER_VIOL_COUNT := by
  have may : (s.native 0x0E Req.pf1.n 1).userMay 0x400 = true := by
    simp [State.userMay, State.use_native, h]
  have read : (s.native 0x0E Req.pf1.n 1).userRead 0x400 =
      (s.rd .REF_MT_LO_MT, (s.native 0x0E Req.pf1.n 1).fillShadow .pf1 0x20080) := by
    simp [State.userRead, userAddr, State.valueFor_moduleTime, State.takeShadow_of_lo _ isLo_moduleTime rfl]
  simp [State.userAccess, may, read]

/-- R387: without USER_EN a read is a violation and returns zero. -/
theorem State.userAccess_refused {s : State} (h : s.use .PMU_CTL_USER_EN = 0) (off : Nat) :
    s.userAccess off false = (s.native 0x0E Req.pf1.n 1).userViolation.say (.data .pf1 off 0) := by
  have may : (s.native 0x0E Req.pf1.n 1).userMay off = false := by
    simp [State.userMay, State.use_native, h]
  simp [State.userAccess, may]

/-! ### The corridor's accesses (R417) -/

@[simp] theorem State.sendStall_rd (s : State) (id addr port : Nat) (r : Row) (ix : List Nat) :
    (s.sendStall id addr port).rd r ix = s.rd r ix := by
  unfold State.sendStall State.when
  split
  · exact s.sayCell_rd ..
  · rfl

/-- R415: no STALL goes out for an access that does not stall. -/
theorem State.sendStall_of_not_stalls {s : State} {addr : Nat} (h : s.stalls addr = false) (id port : Nat) :
    s.sendStall id addr port = s := by
  simp [State.sendStall, h]

/-- R417: what the answer to a read that does not stall adds to what leaves. -/
theorem State.corRead_out {s : State} {addr : Nat} (hs : s.stalls addr = false)
    (hp : ∀ ix, (s.regRead .corridor addr).2.rd .COR_PRBS_CTL_TX_PAT ix = s.rd .COR_PRBS_CTL_TX_PAT ix)
    (ho : (s.regRead .corridor addr).2.out = s.out) (id port : Nat) :
    (s.corRead id addr port).out = s.out ++ (if s.corPatterned port then [] else
      [.cell port 0 (.readCpl id (s.regRead .corridor addr).1)]) := by
  rw [State.corRead, State.sendStall_of_not_stalls hs]
  simp only [State.sayCell_out, State.corPatterned_congr hp, ho]

/-- R360: module time's island is the one of the references. -/
theorem State.stalls_moduleTime {s : State} (h : s.clocked 6 = true) : s.stalls 0x20080 = false := by
  have island : s.islandOf 0x20080 = 6 := rfl
  simp [State.stalls, island, h]

theorem State.stalls_of_unassigned {s : State} {addr : Nat} (h : s.assigned addr = false) : s.stalls addr = false := by
  simp [State.stalls, h]

theorem State.isRunning_of_corRuns {s : State} (h : s.corRuns = true) : s.isRunning = true := by
  simp only [State.corRuns, Bool.and_eq_true] at h
  exact h.1.1

/-- R417: a write of VEC_MOD over the corridor is acknowledged on its port. -/
theorem State.corWrite_vecMod {s : State} {port : Nat} (hp : s.corPatterned port = false) (id : Nat) (v : Fin 64)
    (word : Nat) :
    (s.corWrite id (0x30100 + 4 * v) word port).rd .HST_VEC_MOD_GAP [v.val] = min 1000 (word % 1024) ∧
      (s.corWrite id (0x30100 + 4 * v) word port).out.getLast? = some (.cell port 0 (.writeAck id)) := by
  have free : ((s.sendStall id (0x30100 + 4 * v) port).regWrite .corridor (0x30100 + 4 * v) word).corPatterned port =
      false := by
    rw [State.corPatterned_congr (s := s) (fun ix => ?_), hp]
    rw [State.regWrite_vecMod_keeps _ _ _ _ _ _ (by decide), State.sendStall_rd]
  rw [State.corWrite, State.sayCell_of_not_patterned free]
  exact ⟨State.rd_regWrite_vecMod .., by simp⟩

/-! ### The obligation -/

/-- Settles O52: each clause by the rule of what its read or write does. -/
theorem readsThatAct : Obligations.ReadsThatAct := by
  unfold Obligations.ReadsThatAct
  intro s
  refine ⟨?count, ?frozen, ?wide, ?user, ?refused, ?userWrite, ?corRead, ?corNone, ?corWrite⟩
  case count =>
    intro req k taken unfrozen
    have unfrozen' : (s.begin.reachIsland req (0x300100 + 16 * k)).pmu.frozen = none := by
      rw [State.reachIsland_frozen]; exact unfrozen
    refine rcRead_answers taken ?_
    rw [State.regRead_memErrors, State.clearRc_unfrozen unfrozen', State.seen_of_unfrozen (s := s.begin) unfrozen]
    exact ⟨by simp, by simp⟩
  case frozen =>
    intro req k st taken frozen
    have frozen' : (s.begin.reachIsland req (0x300100 + 16 * k)).pmu.frozen = some st := by
      rw [State.reachIsland_frozen]; exact frozen
    refine rcRead_answers taken ?_
    rw [State.regRead_memErrors, State.clearRc_frozen frozen' rfl]
    refine ⟨by simp, ?_, ?_⟩
    · rw [State.say_rd, State.clearFrozen_rd, State.rd_wr_self, State.rd_reachIsland _ _ _ (by decide),
        State.seen_reachIsland _ _ _ (by decide)]
      rfl
    · exact State.seen_clearFrozen_self (s := State.wr _ _ _ _) (st := st) frozen' rfl [k.val]
  case wide =>
    intro req taken running
    refine loHalfRead_answers taken ?_
    rw [State.regRead_moduleTime (s := s.begin) running]
    obtain ⟨tag, upper⟩ := (s.begin.reachIsland req 0x20080).fillShadow_moduleTime req
    refine ⟨by simp, tag, upper.trans ?_⟩
    rw [State.rd_reachIsland _ _ _ (by decide), State.begin_rd]
  case user =>
    intro taken running enabled
    exact userPageAccess_answers taken running (State.userAccess_moduleTime (s := s.begin) enabled)
  case refused =>
    intro offset taken counting running disabled
    obtain ⟨event, count⟩ := State.userViolation_shows (s := s.begin.native 0x0E Req.pf1.n 1)
      ((State.halted_native ..).trans counting)
    refine userPageAccess_answers taken running ?_
    rw [State.userAccess_refused (s := s.begin) disabled]
    exact ⟨by simp, event, count.trans (by rw [State.native_rd, State.begin_rd])⟩
  case userWrite =>
    intro offset taken counting running
    obtain ⟨event, count⟩ := State.userViolation_shows (s := s.begin.native 0x0E Req.pf1.n 1)
      ((State.halted_native ..).trans counting)
    exact userPageAccess_answers taken running ⟨event, count.trans (by rw [State.native_rd, State.begin_rd])⟩
  case corRead =>
    intro id port worker runs clocked
    have read := State.regRead_moduleTime (s := s.begin) (State.isRunning_of_corRuns runs) .corridor
    refine corReadRx_answers worker runs ?_
    rw [State.corRead_out (State.stalls_moduleTime (s := s.begin) clocked)
      (fun ix => by rw [read]; exact State.rd_reachIsland _ _ _ (by decide) ix) (by rw [read]; simp), read]
    rfl
  case corNone =>
    intro id addr port worker runs missing
    have read := State.regRead_of_unassigned (s := s.begin) missing .corridor
    refine corReadRx_answers worker runs ⟨?_, ?_⟩
    · rw [State.corRead_out (State.stalls_of_unassigned (s := s.begin) missing)
        (fun ix => by rw [read]; exact State.rd_count_ne _ (by decide) _ ix _) (by rw [read]; simp), read]
      rfl
    · rw [State.corRead, State.sendStall_of_not_stalls (State.stalls_of_unassigned (s := s.begin) missing), read,
        State.sayCell_rd, State.rd_unmapped, State.begin_rd]
  case corWrite =>
    intro id v word port worker runs plain
    exact corWriteRx_answers worker runs (State.corWrite_vecMod (s := s.begin) plain id v word)

end Sys2Proof.Machine
end

section
/-!
Every command completes: `State.Onward` over `exec`, and O2.
-/

namespace Sys2Proof.Machine

/-- Whatever the command, it answers a next state, onward from the one before: each constructor by the law of its own
meaning. -/
theorem exec_completes (c : Instr) (s : State) : Completes s (exec c s) := by
  cases c with
  | registerWrite => exact execRegisterWrite_onward ..
  | rcRead => exact execRcRead_onward ..
  | wrRejectClear => exact execWrRejectClear_onward ..
  | apply => exact execApply_onward ..
  | discard => exact execDiscard_onward ..
  | pendingSetApply => exact execPendingSetApply_onward ..
  | blockStop => exact execBlockStop_onward ..
  | blockRun => exact execBlockRun_onward ..
  | blockStopComplete => exact execBlockStopComplete_onward ..
  | loadVerify => exact execLoadVerify_onward ..
  | loadVerifyDone => exact execLoadVerifyDone_onward ..
  | activate => exact execActivate_onward ..
  | program => exact execProgram_onward ..
  | programDone => exact execProgramDone_onward ..
  | confirm => exact execConfirm_onward ..
  | advanceSvn => exact execAdvanceSvn_onward ..
  | abort => exact execAbort_onward ..
  | superframeBoundaryTx => exact execSuperframeBoundaryTx_onward ..
  | carrierFrameRx => exact execCarrierFrameRx_onward ..
  | cfAlignLoss => exact execCfAlignLoss_onward ..
  | hdrLossSet => exact execHdrLossSet_onward ..
  | hdrLossClear => exact execHdrLossClear_onward ..
  | superframeBoundaryRx => exact execSuperframeBoundaryRx_onward ..
  | chanEnableWrite => exact execChanEnableWrite_onward ..
  | txFreqWrite => exact execTxFreqWrite_onward ..
  | loFreqWrite => exact execLoFreqWrite_onward ..
  | txLaserLock => exact execTxLaserLock_onward ..
  | txTuneTimeout => exact execTxTuneTimeout_onward ..
  | loTuneDone => exact execLoTuneDone_onward ..
  | loTuneFail => exact execLoTuneFail_onward ..
  | txCtlWrite => exact execTxCtlWrite_onward ..
  | rampUpdate => exact execRampUpdate_onward ..
  | powerLoopUpdate => exact execPowerLoopUpdate_onward ..
  | txDisAssert => exact execTxDisAssert_onward ..
  | txDisDeassert => exact execTxDisDeassert_onward ..
  | losAssert => exact execLosAssert_onward ..
  | losClear => exact execLosClear_onward ..
  | acqStart => exact execAcqStart_onward ..
  | acqStepComplete => exact execAcqStepComplete_onward ..
  | acqFail => exact execAcqFail_onward ..
  | acqRetry => exact execAcqRetry_onward ..
  | reacq => exact execReacq_onward ..
  | cdTrackMove => exact execCdTrackMove_onward ..
  | eqReconv => exact execEqReconv_onward ..
  | sp2AutoOn => exact execSp2AutoOn_onward ..
  | sp2AutoOff => exact execSp2AutoOff_onward ..
  | sp2Start => exact execSp2Start_onward ..
  | sp2Stop => exact execSp2Stop_onward ..
  | sp2DrainDone => exact execSp2DrainDone_onward ..
  | fomWindowEnd => exact execFomWindowEnd_onward ..
  | synthLock => exact execSynthLock_onward ..
  | fgCalComplete => exact execFgCalComplete_onward ..
  | calRestart => exact execCalRestart_onward ..
  | spareCalComplete => exact execSpareCalComplete_onward ..
  | sliceHandover => exact execSliceHandover_onward ..
  | dwellExpiry => exact execDwellExpiry_onward ..
  | dacCalStart => exact execDacCalStart_onward ..
  | dacCalComplete => exact execDacCalComplete_onward ..
  | supConversion => exact execSupConversion_onward ..
  | injTrigger => exact execInjTrigger_onward ..
  | injGo => exact execInjGo_onward ..
  | decRound => exact execDecRound_onward ..
  | decReset => exact execDecReset_onward ..
  | supCalStart => exact execSupCalStart_onward ..
  | supCalAuto => exact execSupCalAuto_onward ..
  | supCalDone => exact execSupCalDone_onward ..
  | fecBlockDecode => exact execFecBlockDecode_onward ..
  | fecLock => exact execFecLock_onward ..
  | fecLockLoss => exact execFecLockLoss_onward ..
  | dfecSfChange => exact execDfecSfChange_onward ..
  | dfecSdWindow => exact execDfecSdWindow_onward ..
  | advStale => exact execAdvStale_onward ..
  | announceStart => exact execAnnounceStart_onward ..
  | annCommitPoint => exact execAnnCommitPoint_onward ..
  | rateSwitch => exact execRateSwitch_onward ..
  | announceRetry => exact execAnnounceRetry_onward ..
  | rxRateSwitch => exact execRxRateSwitch_onward ..
  | mismatchDeclare => exact execMismatchDeclare_onward ..
  | fallback => exact execFallback_onward ..
  | policyResume => exact execPolicyResume_onward ..
  | icmAnnounceStart => exact execIcmAnnounceStart_onward ..
  | icmAnnounceResend => exact execIcmAnnounceResend_onward ..
  | icmHandshakeFail => exact execIcmHandshakeFail_onward ..
  | enableChangeRetry => exact execEnableChangeRetry_onward ..
  | go => exact execGo_onward ..
  | resume => exact execResume_onward ..
  | forceFloor => exact execForceFloor_onward ..
  | elcModeSet => exact execElcModeSet_onward ..
  | icmBurstStart => exact execIcmBurstStart_onward ..
  | icmBurstEnd => exact execIcmBurstEnd_onward ..
  | icmAdviceRepeat => exact execIcmAdviceRepeat_onward ..
  | icmBringupTimer => exact execIcmBringupTimer_onward ..
  | icmTagTimer => exact execIcmTagTimer_onward ..
  | icmAlarmRepeat => exact execIcmAlarmRepeat_onward ..
  | icmPreambleDetect => exact execIcmPreambleDetect_onward ..
  | icmFrameAbandon => exact execIcmFrameAbandon_onward ..
  | icmCapture => exact execIcmCapture_onward ..
  | icmAdviceRx => exact execIcmAdviceRx_onward ..
  | icmAnnounceRx => exact execIcmAnnounceRx_onward ..
  | icmAckRx => exact execIcmAckRx_onward ..
  | icmBringupRx => exact execIcmBringupRx_onward ..
  | icmTagRx => exact execIcmTagRx_onward ..
  | icmAlarmRx => exact execIcmAlarmRx_onward ..
  | icmUserRx => exact execIcmUserRx_onward ..
  | farAlarmTimeout => exact execFarAlarmTimeout_onward ..
  | userSend => exact execUserSend_onward ..
  | userPop => exact execUserPop_onward ..
  | otnFrameTx => exact execOtnFrameTx_onward ..
  | fasSearchMatch => exact execFasSearchMatch_onward ..
  | otnFrameRx => exact execOtnFrameRx_onward ..
  | oofDeclare => exact execOofDeclare_onward ..
  | oomDeclare => exact execOomDeclare_onward ..
  | defectChange => exact execDefectChange_onward ..
  | degEval => exact execDegEval_onward ..
  | failureDeclare => exact execFailureDeclare_onward ..
  | failureClear => exact execFailureClear_onward ..
  | apsAccept => exact execApsAccept_onward ..
  | gcc0MsgRx => exact execGcc0MsgRx_onward ..
  | pgConditionChange => exact execPgConditionChange_onward ..
  | holdoffExpiry => exact execHoldoffExpiry_onward ..
  | wtrExpiry => exact execWtrExpiry_onward ..
  | pgClear => exact execPgClear_onward ..
  | pgLockout => exact execPgLockout_onward ..
  | pgForce => exact execPgForce_onward ..
  | pgManualP => exact execPgManualP_onward ..
  | pgManualW => exact execPgManualW_onward ..
  | fopRaise => exact execFopRaise_onward ..
  | fopClear => exact execFopClear_onward ..
  | segmentTxStart => exact execSegmentTxStart_onward ..
  | segmentRx => exact execSegmentRx_onward ..
  | segLockLoss => exact execSegLockLoss_onward ..
  | roll => exact execRoll_onward ..
  | pipelineRunEnd => exact execPipelineRunEnd_onward ..
  | preempt => exact execPreempt_onward ..
  | keyLoad => exact execKeyLoad_onward ..
  | keyErase => exact execKeyErase_onward ..
  | loadKek => exact execLoadKek_onward ..
  | attest => exact execAttest_onward ..
  | getCert => exact execGetCert_onward ..
  | getKekPub => exact execGetKekPub_onward ..
  | retirementComplete => exact execRetirementComplete_onward ..
  | keInitSend => exact execKeInitSend_onward ..
  | sessionLifeExpiry => exact execSessionLifeExpiry_onward ..
  | keInitRx => exact execKeInitRx_onward ..
  | keRespRx => exact execKeRespRx_onward ..
  | keFinRx => exact execKeFinRx_onward ..
  | keAbort => exact execKeAbort_onward ..
  | sessionRetry => exact execSessionRetry_onward ..
  | keyReadyRx => exact execKeyReadyRx_onward ..
  | clientFrameRx => exact execClientFrameRx_onward ..
  | pfcFrameTx => exact execPfcFrameTx_onward ..
  | pfcXoffRepeat => exact execPfcXoffRepeat_onward ..
  | pfcRx => exact execPfcRx_onward ..
  | pfcPauseExpiry => exact execPfcPauseExpiry_onward ..
  | esmcRx => exact execEsmcRx_onward ..
  | esmcTx => exact execEsmcTx_onward ..
  | portLinkChange => exact execPortLinkChange_onward ..
  | lineFrameDemap => exact execLineFrameDemap_onward ..
  | tpgFrame => exact execTpgFrame_onward ..
  | schedSelect => exact execSchedSelect_onward ..
  | gclEntryStart => exact execGclEntryStart_onward ..
  | gclActivate => exact execGclActivate_onward ..
  | gclTimingWrite => exact execGclTimingWrite_onward ..
  | gclSwap => exact execGclSwap_onward ..
  | gclWivlWrite => exact execGclWivlWrite_onward ..
  | laneSignalDetect => exact execLaneSignalDetect_onward ..
  | laneStepComplete => exact execLaneStepComplete_onward ..
  | laneFail => exact execLaneFail_onward ..
  | laneRetry => exact execLaneRetry_onward ..
  | laneRestart => exact execLaneRestart_onward ..
  | laneDown => exact execLaneDown_onward ..
  | fomMeasure => exact execFomMeasure_onward ..
  | laneAdaptStart => exact execLaneAdaptStart_onward ..
  | refSelect => exact execRefSelect_onward ..
  | candQualify => exact execCandQualify_onward ..
  | candDisqualify => exact execCandDisqualify_onward ..
  | candWtrExpiry => exact execCandWtrExpiry_onward ..
  | esmcTimeout => exact execEsmcTimeout_onward ..
  | refLock => exact execRefLock_onward ..
  | dpllFault => exact execDpllFault_onward ..
  | dpllRelock => exact execDpllRelock_onward ..
  | hoRelearn => exact execHoRelearn_onward ..
  | mtUpdate => exact execMtUpdate_onward ..
  | mtStep => exact execMtStep_onward ..
  | oneSecondTick => exact execOneSecondTick_onward ..
  | vinStart => exact execVinStart_onward ..
  | powerLoss => exact execPowerLoss_onward ..
  | vinWarnRise => exact execVinWarnRise_onward ..
  | vinWarnClear => exact execVinWarnClear_onward ..
  | stageAdmit => exact execStageAdmit_onward ..
  | stateTargetWrite => exact execStateTargetWrite_onward ..
  | wingStateWrite => exact execWingStateWrite_onward ..
  | stateEntryDone => exact execStateEntryDone_onward ..
  | stateEntryRefuse => exact execStateEntryRefuse_onward ..
  | wakeOnAccess => exact execWakeOnAccess_onward ..
  | woaLingerExpiry => exact execWoaLingerExpiry_onward ..
  | wakeNAssert => exact execWakeNAssert_onward ..
  | wakeTimerExpiry => exact execWakeTimerExpiry_onward ..
  | watchCycle => exact execWatchCycle_onward ..
  | modReset => exact execModReset_onward ..
  | hierGo => exact execHierGo_onward ..
  | hierForwardNext => exact execHierForwardNext_onward ..
  | thermalTrip => exact execThermalTrip_onward ..
  | descAuditDone => exact execDescAuditDone_onward ..
  | scrubRead => exact execScrubRead_onward ..
  | parityMismatch => exact execParityMismatch_onward ..
  | clockLoss => exact execClockLoss_onward ..
  | slowClkLoss => exact execSlowClkLoss_onward ..
  | doorwayTimeout => exact execDoorwayTimeout_onward ..
  | lockstepMiscompare => exact execLockstepMiscompare_onward ..
  | coreRestartDone => exact execCoreRestartDone_onward ..
  | recover => exact execRecover_onward ..
  | eccInjectArm => exact execEccInjectArm_onward ..
  | faultClear => exact execFaultClear_onward ..
  | freeze => exact execFreeze_onward ..
  | thaw => exact execThaw_onward ..
  | clearAll => exact execClearAll_onward ..
  | loHalfRead => exact execLoHalfRead_onward ..
  | userPageAccess => exact execUserPageAccess_onward ..
  | tagWinRead => exact execTagWinRead_onward ..
  | tagPop => exact execTagPop_onward ..
  | histClr => exact execHistClr_onward ..
  | atticRecord => exact execAtticRecord_onward ..
  | atticWinRead => exact execAtticWinRead_onward ..
  | atticWinLastRead => exact execAtticWinLastRead_onward ..
  | atticClearArm => exact execAtticClearArm_onward ..
  | atticClearExecute => exact execAtticClearExecute_onward ..
  | atticClearLapse => exact execAtticClearLapse_onward ..
  | perst => exact execPerst_onward ..
  | flrPf0 => exact execFlrPf0_onward ..
  | flrPf1 => exact execFlrPf1_onward ..
  | badAccess => exact execBadAccess_onward ..
  | msixUnmask => exact execMsixUnmask_onward ..
  | vecModGapExpiry => exact execVecModGapExpiry_onward ..
  | captureBlock => exact execCaptureBlock_onward ..
  | heartbeatTx => exact execHeartbeatTx_onward ..
  | corHeartbeatRx => exact execCorHeartbeatRx_onward ..
  | corridorPortDown => exact execCorridorPortDown_onward ..
  | corLinkRx => exact execCorLinkRx_onward ..
  | enumerate => exact execEnumerate_onward ..
  | corEnumRx => exact execCorEnumRx_onward ..
  | windowAccess => exact execWindowAccess_onward ..
  | corReadRx => exact execCorReadRx_onward ..
  | corWriteRx => exact execCorWriteRx_onward ..
  | corReadCplRx => exact execCorReadCplRx_onward ..
  | corWriteAckRx => exact execCorWriteAckRx_onward ..
  | corStallRx => exact execCorStallRx_onward ..
  | windowDeadlineExpiry => exact execWindowDeadlineExpiry_onward ..
  | corDoorbellRx => exact execCorDoorbellRx_onward ..
  | corHierRx => exact execCorHierRx_onward ..
  | fwdLogRead => exact execFwdLogRead_onward ..
  | smbStatus => exact execSmbStatus_onward ..
  | smbVin => exact execSmbVin_onward ..
  | smbTcp => exact execSmbTcp_onward ..
  | smbTdie => exact execSmbTdie_onward ..
  | smbWake => exact execSmbWake_onward ..
  | smbId => exact execSmbId_onward ..
  | smbWakeCmd => exact execSmbWakeCmd_onward ..
  | smbAlertClr => exact execSmbAlertClr_onward ..
  | smbAlertResponse => exact execSmbAlertResponse_onward ..
  | smbAtticCur => exact execSmbAtticCur_onward ..
  | smbAtticRec => exact execSmbAtticRec_onward ..
  | smbUndefined => exact execSmbUndefined_onward ..
  | monPeek => exact execMonPeek_onward ..
  | monPoke => exact execMonPoke_onward ..
  | monAttic => exact execMonAttic_onward ..
  | monState => exact execMonState_onward ..
  | monIslands => exact execMonIslands_onward ..
  | monFp => exact execMonFp_onward ..
  | monLanes => exact execMonLanes_onward ..
  | monWing => exact execMonWing_onward ..
  | monRef => exact execMonRef_onward ..
  | monHelp => exact execMonHelp_onward ..
  | monUnknown => exact execMonUnknown_onward ..
  | bootStepDone => exact execBootStepDone_onward ..
  | wingStartStepDone => exact execWingStartStepDone_onward ..
  | perstRelease => exact execPerstRelease_onward ..
  | pcieLinkUp => exact execPcieLinkUp_onward ..
  | unmappedAccess => exact execUnmappedAccess_onward ..
  | keyCommandDone => exact execKeyCommandDone_onward ..
  | imageCommandDone => exact execImageCommandDone_onward ..
  | eqReconvDone => exact execEqReconvDone_onward ..
  | holdoverLearnHour => exact execHoldoverLearnHour_onward ..

/-- Settles O2: what is onward from a state has its queue. That an event whose condition does not hold leaves the state
as it is, and so answers as well, is the model's own choice (assumption 10). -/
theorem everyCommandCompletes : Obligations.EveryCommandCompletes := by
  unfold Obligations.EveryCommandCompletes
  intro c s
  obtain ⟨t, answered, onward⟩ := exec_completes c s
  exact ⟨t, answered, onward.pending⟩

end Sys2Proof.Machine
end

section
/-!
The two wings side by side (R11): what the operations of one wing's optical engine, intercom queue, framer and decoder
leave alone of the other wing (`State.WingSame`), and O8. Each lemma carries the relation from an earlier state over one
operation of wing `w`.
-/

namespace Sys2Proof.Machine

-- The row tests below are large kernel evaluations: one theorem at a time bounds the memory of the whole text's check.
set_option Elab.async false

section

variable {w : Wing} {s₀ s : State}

/-! ### The relation -/

theorem State.WingSame.refl (x : Wing) (s : State) : s.WingSame x s :=
  ⟨fun _ _ _ _ => rfl, rfl, rfl, rfl, rfl, rfl, rfl, rfl⟩

theorem State.WingSame.trans {x : Wing} {t u : State} (h : s.WingSame x t) (k : t.WingSame x u) : s.WingSame x u := by
  obtain ⟨rows, rx, tx, opt, icm, conv, dec, otn⟩ := h
  obtain ⟨rows', rx', tx', opt', icm', conv', dec', otn'⟩ := k
  exact ⟨fun r hr ix hx => (rows' r hr ix hx).trans (rows r hr ix hx), rx'.trans rx, tx'.trans tx, opt'.trans opt,
    icm'.trans icm, conv'.trans conv, dec'.trans dec, otn'.trans otn⟩

theorem State.WingSame.when {x : Wing} {f : State → State} (h : s₀.WingSame x s)
    (hf : ∀ {t : State}, s₀.WingSame x t → s₀.WingSame x (f t)) (c : Bool) : s₀.WingSame x (s.when c f) := by
  cases c
  · exact h
  · exact hf h

theorem State.WingSame.via {x : Wing} {f : State → State} (h : s₀.WingSame x s)
    (hf : ∀ {t : State}, s₀.WingSame x t → s₀.WingSame x (f t)) (req : Req) : s₀.WingSame x (s.via req f) := by
  unfold State.via
  split
  · exact hf h
  · exact h

theorem State.WingSame.foldl {α : Type} {x : Wing} {f : State → α → State} (h : s₀.WingSame x s)
    (hf : ∀ (t : State) (a : α), t.WingSame x (f t a)) (l : List α) : s₀.WingSame x (l.foldl f s) := by
  induction l generalizing s with
  | nil => exact h
  | cons a l ih => exact ih (h.trans (hf s a))

/-! ### Operations that write nothing of a wing -/

/-- The set holds no row of the wing regions and no part that the wings hold apart, as a test. -/
def sparesWings (M : Nat) : Bool :=
  !M.testBit 31 && wingRows.all (fun r => !M.testBit (32 + r.id)) &&
    [Part.rx, .tx, .opt, .icm, .conv, .dec, .otn].all (fun p => !M.testBit p.n)

theorem Within.wingSame {M : Nat} {t : State} (h : Within M s t) (k : sparesWings M = true) (x : Wing) :
    s.WingSame x t := by
  simp only [sparesWings, Bool.and_eq_true, Bool.not_eq_true', List.all_eq_true] at k
  obtain ⟨⟨any, rows⟩, parts⟩ := k
  have same : ∀ p ∈ [Part.rx, .tx, .opt, .icm, .conv, .dec, .otn], p.same s t := fun p hp => h.2 p (parts p hp)
  simp only [List.forall_mem_cons, Part.same] at same
  obtain ⟨rx, tx, opt, icm, conv, dec, otn, -⟩ := same
  refine ⟨fun r hr ix _ => h.1 any r ix (rows r hr), ?_, ?_, ?_, ?_, ?_, ?_, ?_⟩
  all_goals simp only [rx, tx, opt, icm, conv, dec, otn]

/-- An operation whose set spares the wings carries the relation of either wing. -/
theorem State.WingSame.within {M : Nat} {x : Wing} {t : State} (h : s₀.WingSame x s) (k : Within M s t)
    (spared : sparesWings M = true := by decide +kernel) : s₀.WingSame x t := h.trans (k.wingSame spared x)

theorem State.WingSame.begin {x : Wing} (h : s₀.WingSame x s) : s₀.WingSame x s.begin :=
  h.within (State.begin_within (.refl _ s) (covers_self _))

theorem State.WingSame.say {x : Wing} (h : s₀.WingSame x s) (o : Out) : s₀.WingSame x (s.say o) :=
  h.within (State.say_within (.refl _ s) (covers_self _) o)

theorem State.WingSame.mirrored {x : Wing} (h : s₀.WingSame x s) (r : Row) (ix : List Nat) (n : Nat) :
    s₀.WingSame x (s.mirrored r ix n) := by
  obtain e | e := s.mirrored_eq r ix n <;> rw [e]
  · exact h
  · exact h.within (within_pmu (.refl _ s) (covers_self _) _)

theorem State.WingSame.keepUse {x : Wing} (h : s₀.WingSame x s) (r : Row) (ix : List Nat) :
    s₀.WingSame x (s.keepUse r ix) :=
  h.within (State.keepUse_within (.refl _ s) (covers_self _) r ix)

theorem State.WingSame.releaseOne {x : Wing} (h : s₀.WingSame x s) (r : Row) (ix : List Nat) :
    s₀.WingSame x (s.releaseOne r ix) :=
  h.within (State.releaseOne_within (.refl _ s) (covers_self _) r ix)

theorem State.WingSame.ring {x : Wing} (h : s₀.WingSame x s) (v : Nat) : s₀.WingSame x (s.ring v) :=
  h.within (State.ring_within (.refl _ s) (covers_self _) v)

/-! ### Registers -/

/-- R401: whatever a write of the row at a wing's own number reaches in the wing regions belongs to that wing, as a
test. -/
def Row.ownWing (r : Row) : Bool :=
  wingRows.all (fun x => x.id != r.id || (!ofWing .b x (r.flat [0]) && !ofWing .a x (r.flat [1])))

theorem Row.ofWing_other {r x : Row} (k : r.ownWing = true) (hx : x ∈ wingRows) (hid : x.id = r.id) (w : Wing) :
    ofWing w.other x (r.flat [w.n]) = false := by
  have own := List.all_eq_true.mp k x hx
  simp only [hid, bne_self_eq_false, Bool.false_or, Bool.and_eq_true, Bool.not_eq_true'] at own
  cases w
  · exact own.1
  · exact own.2

theorem State.WingSame.wr (h : s₀.WingSame w.other s) (r : Row) (v : Nat)
    (k : r.ownWing = true := by decide +kernel) : s₀.WingSame w.other (s.wr r [w.n] v) := by
  refine h.trans ⟨fun x hx ix hix => ?_, rfl, rfl, rfl, rfl, rfl, rfl, rfl⟩
  by_cases hid : x.id = r.id
  · have apart : x.flat ix ≠ r.flat [w.n] := fun e => by
      rw [e, Row.ofWing_other k hx hid] at hix
      cases hix
    simp only [State.rd, State.wr, storeSet, hid, tabGet_set_self, tabGet_set_ne 0 _ _ apart]
  · exact s.rd_wr_ne (Ne.symm hid) _ _ _

theorem State.WingSame.wrb (h : s₀.WingSame w.other s) (r : Row) (b : Bool)
    (k : r.ownWing = true := by decide +kernel) : s₀.WingSame w.other (s.wrb r [w.n] b) := h.wr r _ k

theorem State.WingSame.wrS (h : s₀.WingSame w.other s) (r : Row) (i : Int)
    (k : r.ownWing = true := by decide +kernel) : s₀.WingSame w.other (s.wrS r [w.n] i) := h.wr r _ k

theorem State.WingSame.count (h : s₀.WingSame w.other s) (r : Row) (n : Nat)
    (k : r.ownWing = true := by decide +kernel) : s₀.WingSame w.other (s.count r [w.n] n) :=
  (h.wr r _ k).mirrored ..

theorem State.WingSame.countWide (h : s₀.WingSame w.other s) (lo hi : Row) (n : Nat)
    (klo : lo.ownWing = true := by decide +kernel) (khi : hi.ownWing = true := by decide +kernel) :
    s₀.WingSame w.other (s.countWide lo hi [w.n] n) :=
  (((h.wr lo _ klo).wr hi _ khi).mirrored ..).mirrored ..

theorem State.WingSame.evt (h : s₀.WingSame w.other s) (r : Row) (b : Nat := 0)
    (k : r.ownWing = true := by decide +kernel) : s₀.WingSame w.other (s.evt r [w.n] b) := by
  unfold State.evt
  split
  · exact h
  · exact (h.wr r _ k).ring _

/-! ### What a wing holds beside its registers -/

theorem State.WingSame.onOpt (h : s₀.WingSame w.other s) (f : Optics → Optics) :
    s₀.WingSame w.other (s.onOpt w f) :=
  h.trans ⟨fun _ _ _ _ => rfl, rfl, rfl, get_set_other .., rfl, rfl, rfl, rfl⟩

theorem State.WingSame.onIcm (h : s₀.WingSame w.other s) (f : IcmSide → IcmSide) :
    s₀.WingSame w.other (s.onIcm w f) :=
  h.trans ⟨fun _ _ _ _ => rfl, rfl, rfl, rfl, get_set_other .., rfl, rfl, rfl⟩

theorem State.WingSame.onDec (h : s₀.WingSame w.other s) (f : Decoder → Decoder) :
    s₀.WingSame w.other (s.onDec w f) :=
  h.trans ⟨fun _ _ _ _ => rfl, rfl, rfl, rfl, rfl, rfl, get_set_other .., rfl⟩

theorem State.WingSame.onOtn (h : s₀.WingSame w.other s) (f : Otn → Otn) : s₀.WingSame w.other (s.onOtn w f) :=
  h.trans ⟨fun _ _ _ _ => rfl, rfl, rfl, rfl, rfl, rfl, rfl, get_set_other ..⟩

theorem State.WingSame.setRx (h : s₀.WingSame w.other s) (x : RxLine) :
    s₀.WingSame w.other { s with rx := s.rx.set w x } :=
  h.trans ⟨fun _ _ _ _ => rfl, get_set_other .., rfl, rfl, rfl, rfl, rfl, rfl⟩

/-! ### The intercom's queue (R202, R203) -/

theorem State.WingSame.icmQueue (h : s₀.WingSame w.other s) (m : IcmMsg) : s₀.WingSame w.other (s.icmQueue w m) :=
  (h.onIcm _).wr .ICM_USER_TX_CTL_QUEUED _

theorem State.WingSame.queueAlarm (h : s₀.WingSame w.other s) : s₀.WingSame w.other (s.queueAlarm w) :=
  (h.onIcm _).icmQueue _

theorem State.WingSame.queueBringup (h : s₀.WingSame w.other s) : s₀.WingSame w.other (s.queueBringup w) :=
  (h.onIcm _).icmQueue _

theorem State.WingSame.icmRefresh (h : s₀.WingSame w.other s) : s₀.WingSame w.other (s.icmRefresh w) := by
  unfold State.icmRefresh
  split
  · exact h
  · exact (h.when (fun k => k.queueAlarm) _).when (fun k => k.queueBringup) _

/-! ### The optical engine (R86 to R93) -/

theorem State.WingSame.setOpt (h : s₀.WingSame w.other s) (st : Nat) : s₀.WingSame w.other (s.setOpt w st) :=
  (h.wr .OPT_TX_STAT_STATE _).icmRefresh

theorem State.WingSame.optEval (h : s₀.WingSame w.other s) : s₀.WingSame w.other (s.optEval w) := by
  unfold State.optEval
  split
  · split
    · exact (h.onOpt _).setOpt 2
    · exact h
  · split
    · exact h
    · exact h.setOpt 4
  · split
    · exact h
    · exact h.setOpt 4
  · split
    · exact h.setOpt 2
    · exact h
  · exact h

theorem State.WingSame.takeTxCtl (h : s₀.WingSame w.other s) : s₀.WingSame w.other (s.takeTxCtl w) :=
  h.foldl (fun t r => (State.WingSame.refl _ t).releaseOne r _) _

theorem State.WingSame.txCtl (h : s₀.WingSame w.other s) (enable : Bool) (rampMs : Nat) (power : Int) :
    s₀.WingSame w.other (s.txCtl w enable rampMs power) := by
  have kept : s₀.WingSame w.other (txCtlRows.foldl (fun s r => s.keepUse r [w.n]) s) :=
    h.foldl (fun t r => (State.WingSame.refl _ t).keepUse r _) _
  unfold State.txCtl
  exact (((kept.wrS .OPT_TX_CTL_POWER _).wr .OPT_TX_CTL_RAMP_MS _).wrb .OPT_TX_CTL_ENABLE enable).when
    (fun k => k.takeTxCtl) _

theorem State.WingSame.powerLoop (h : s₀.WingSame w.other s) : s₀.WingSame w.other (s.powerLoop w) := by
  unfold State.powerLoop
  exact (h.onOpt _).when (fun k => k.evt .OPT_TX_EVT_POWER_OOR) _

/-! ### The framer's search (R222) -/

theorem State.WingSame.setCands (h : s₀.WingSame w.other s) (cs : List Candidate) :
    s₀.WingSame w.other (s.setCands w cs) :=
  (h.onOtn _).wr .OHD_FR_STAT_CANDS _

theorem State.WingSame.seek (h : s₀.WingSame w.other s) : s₀.WingSame w.other (s.seek w) :=
  ((h.onOtn _).count .OHD_SMC_FAS_FALSE_COUNT _).setCands _

theorem State.WingSame.openStream (h : s₀.WingSame w.other s) : s₀.WingSame w.other (s.openStream w) :=
  (((h.onOtn _).wrb .OHD_FR_STAT_SEARCHING true).setCands []).seek

theorem State.WingSame.advance (h : s₀.WingSame w.other s) : s₀.WingSame w.other (s.advance w) := by
  unfold State.advance
  split
  · exact h.onOtn _
  · split
    · exact h.seek
    · exact h

theorem State.WingSame.otnTake (h : s₀.WingSame w.other s) (era : Option (Nat × Nat)) (info : List (Bool × Bool)) :
    s₀.WingSame w.other (s.otnTake w era info) := by
  unfold State.otnTake
  split
  · exact h
  · exact (h.onOtn _).advance

/-! ### The decoder (R165 to R174) -/

theorem State.WingSame.countBlock (h : s₀.WingSame w.other s) (b : BlockResult) :
    s₀.WingSame w.other (s.countBlock w b) :=
  h.countWide .FEC_BLOCKS_LO_BLOCKS .FEC_BLOCKS_HI_BLOCKS _
    |>.countWide .FEC_UNCORR_LO_UNCORR .FEC_UNCORR_HI_UNCORR _
    |>.countWide .FEC_UNCORR_P1_LO_UNCORR_P1 .FEC_UNCORR_P1_HI_UNCORR_P1 _
    |>.countWide .FEC_BITS_LO_BITS .FEC_BITS_HI_BITS _
    |>.countWide .FEC_ERR_BITS_LO_ERR_BITS .FEC_ERR_BITS_HI_ERR_BITS _
    |>.countWide .FEC_DEMATCH_LO_DEMATCH_ERR .FEC_DEMATCH_HI_DEMATCH_ERR _
    |>.countWide .FEC_ITER_LO_ITER_SUM .FEC_ITER_HI_ITER_SUM _

theorem State.WingSame.blockOut (h : s₀.WingSame w.other s) (b : HeldBlock) (bits : List Bool) (r : BlockResult) :
    s₀.WingSame w.other (s.blockOut w b bits r) :=
  ((((h.countBlock r).wr .FEC_STAT_PROFILE_RX _).onDec _).say _).otnTake _ _

theorem State.WingSame.passAgain (h : s₀.WingSame w.other s) (b : HeldBlock) (first : List Bool) (firstZero : Bool) :
    s₀.WingSame w.other (s.passAgain w b first firstZero) := by
  unfold State.passAgain
  split
  · exact h.onDec _
  · split
    · exact (h.setRx _).onDec _
    · exact h.onDec _

theorem State.WingSame.oldestOut (h : s₀.WingSame w.other s) (b : BlockRx) : s₀.WingSame w.other (s.oldestOut w b) := by
  unfold State.oldestOut
  split
  · split
    · exact ((h.passAgain ..).blockOut ..).onDec _
    · exact h
  · exact h

theorem State.WingSame.blockIn (h : s₀.WingSame w.other s) (b : BlockRx) : s₀.WingSame w.other (s.blockIn w b) :=
  h.onDec _

theorem State.WingSame.sfMismatch (h : s₀.WingSame w.other s) (n : Nat) : s₀.WingSame w.other (s.sfMismatch w n) := by
  unfold State.sfMismatch
  dsimp only
  split
  · exact h.setRx _
  · exact h

theorem State.WingSame.setFecSf (h : s₀.WingSame w.other s) (on : Bool) (n : Nat) :
    s₀.WingSame w.other (s.setFecSf w on n) := by
  unfold State.setFecSf
  split
  · exact h
  · have shown := ((h.wrb .FEC_STAT_SF on).evt .FEC_EVT_SF_CHANGE).icmRefresh
    exact shown.when (fun k => k.sfMismatch n) on

theorem State.WingSame.setFecSd (h : s₀.WingSame w.other s) (on : Bool) : s₀.WingSame w.other (s.setFecSd w on) := by
  unfold State.setFecSd
  split
  · exact h
  · exact (h.wrb .FEC_STAT_SD on).evt .FEC_EVT_SD_CHANGE

theorem State.WingSame.sdWindow (h : s₀.WingSame w.other s) : s₀.WingSame w.other (s.sdWindow w) := by
  unfold State.sdWindow
  dsimp only
  split
  · exact h.onDec _
  · split
    · exact (h.setFecSd true).onDec _
    · split
      · exact (h.setFecSd false).onDec _
      · exact h.onDec _

end

/-! ### The commands -/

/-- What a command's meaning leaves alone after it has emptied the record of what leaves the module. -/
theorem answers_wingSame {i : Instr} {s t : State} {x : Wing} (e : exec i s = .next t)
    (h : s.begin.WingSame x t) : Answers i s (fun t => s.WingSame x t) :=
  ⟨t, e, (State.WingSame.refl x s).begin.trans h⟩

theorem txLaserLock_wingSame (w : Wing) (s : State) :
    Answers (.txLaserLock w) s (fun t => s.WingSame w.other t) := by
  have h := State.WingSame.refl w.other s.begin
  refine answers_wingSame (exec_txLaserLock ..) ?_
  split
  · exact ((((h.onOpt _).wrb .OPT_TX_STAT_FREQ_LOCKED true).evt .OPT_TX_EVT_TUNE_DONE).setOpt 0).optEval
  · exact h

theorem txTuneTimeout_wingSame (w : Wing) (s : State) :
    Answers (.txTuneTimeout w) s (fun t => s.WingSame w.other t) := by
  have h := State.WingSame.refl w.other s.begin
  refine answers_wingSame (exec_txTuneTimeout ..) ?_
  split
  · exact ((h.onOpt _).evt .OPT_TX_EVT_TUNE_FAIL).setOpt 6
  · exact h

theorem loTuneDone_wingSame (w : Wing) (s : State) :
    Answers (.loTuneDone w) s (fun t => s.WingSame w.other t) := by
  have h := State.WingSame.refl w.other s.begin
  refine answers_wingSame (exec_loTuneDone ..) ?_
  split
  · exact ((h.onOpt _).wrb .OPT_TX_STAT_LO_LOCKED true).evt .OPT_TX_EVT_LO_TUNE_DONE
  · exact h

theorem loTuneFail_wingSame (w : Wing) (s : State) :
    Answers (.loTuneFail w) s (fun t => s.WingSame w.other t) := by
  have h := State.WingSame.refl w.other s.begin
  refine answers_wingSame (exec_loTuneFail ..) ?_
  split
  · exact (h.onOpt _).evt .OPT_TX_EVT_LO_TUNE_FAIL
  · exact h

theorem txCtlWrite_wingSame (req : Req) (w : Wing) (enable : Bool) (rampMs : Nat) (power : Int) (s : State) :
    Answers (.txCtlWrite req w enable rampMs power) s (fun t => s.WingSame w.other t) :=
  answers_wingSame (exec_txCtlWrite ..)
    ((State.WingSame.refl w.other s.begin).via (fun k => k.txCtl enable rampMs power) req)

theorem powerLoopUpdate_wingSame (w : Wing) (s : State) :
    Answers (.powerLoopUpdate w) s (fun t => s.WingSame w.other t) := by
  have h := State.WingSame.refl w.other s.begin
  refine answers_wingSame (exec_powerLoopUpdate ..) ?_
  split
  · exact h.powerLoop
  · exact h

theorem fecBlockDecode_wingSame (w : Wing) (b : BlockRx) (s : State) :
    Answers (.fecBlockDecode w b) s (fun t => s.WingSame w.other t) := by
  have h := State.WingSame.refl w.other s.begin
  refine answers_wingSame (exec_fecBlockDecode ..) ?_
  split
  · exact (h.blockIn b).oldestOut b
  · exact h

theorem fecLock_wingSame (w : Wing) (s : State) : Answers (.fecLock w) s (fun t => s.WingSame w.other t) := by
  have h := State.WingSame.refl w.other s.begin
  refine answers_wingSame (exec_fecLock ..) ?_
  split
  · exact (((h.wrb .FEC_STAT_LOCKED true).evt .FEC_EVT_LOCK).onDec _).openStream
  · exact h

theorem dfecSfChange_wingSame (w : Wing) (s : State) :
    Answers (.dfecSfChange w) s (fun t => s.WingSame w.other t) := by
  have h := State.WingSame.refl w.other s.begin
  refine answers_wingSame (exec_dfecSfChange ..) ?_
  split
  · split
    · exact h.setFecSf false 4
    · exact h
  · split
    · exact h.setFecSf true 4
    · exact h

theorem dfecSdWindow_wingSame (w : Wing) (s : State) :
    Answers (.dfecSdWindow w) s (fun t => s.WingSame w.other t) := by
  have h := State.WingSame.refl w.other s.begin
  refine answers_wingSame (exec_dfecSdWindow ..) ?_
  split
  · split
    · exact h.sdWindow
    · exact h
  · exact h

/-- Settles O8: each command's meaning is made of operations that write the wing's own registers (R401) and what
the wing itself holds. -/
theorem wingsApart : Obligations.WingsApart := by
  unfold Obligations.WingsApart
  intro s w
  exact ⟨txLaserLock_wingSame w s, txTuneTimeout_wingSame w s, loTuneDone_wingSame w s, loTuneFail_wingSame w s,
    fun req enable rampMs power => txCtlWrite_wingSame req w enable rampMs power s, powerLoopUpdate_wingSame w s,
    fun b => fecBlockDecode_wingSame w b s, fecLock_wingSame w s, dfecSfChange_wingSame w s, dfecSdWindow_wingSame w s⟩

end Sys2Proof.Machine
end

section
/-!
What any step keeps (R10, R34, R41): what is onward from a state keeps the canonical form and the fuses, and O3 and O5.
-/

namespace Sys2Proof.Machine

/-- A step leads onward from the state with the queue's rest, whichever command it runs. -/
theorem step_onward {s t : State} (h : step s = .next t) :
    State.Onward { s with pending := s.pending.tail } t := by
  unfold step at h
  split at h
  · rename_i empty
    cases h
    exact ⟨by simp [empty], le_rfl, rfl, le_rfl, le_rfl, id⟩
  · rename_i c rest front
    obtain ⟨u, answered, onward⟩ := exec_completes c { s with pending := rest }
    rw [answered] at h
    cases h
    rwa [front]

/-- Settles O3: the queue has no part in the canonical form, and what is onward from a state keeps it. -/
theorem canonicalFormKept : Obligations.CanonicalFormKept := by
  unfold Obligations.CanonicalFormKept
  intro s t canonical stepped
  exact (step_onward stepped).wf canonical

/-- Settles O5: what is onward from a state has a fused version no lower and the same root hash. -/
theorem securityVersionNeverFalls : Obligations.SecurityVersionNeverFalls := by
  unfold Obligations.SecurityVersionNeverFalls
  intro s t stepped
  exact ⟨(step_onward stepped).svn, (step_onward stepped).root⟩

end Sys2Proof.Machine
end

section
/-!
Why a further rejected write changes more than its count (R43, R386), and the refutation of O7.
-/

namespace Sys2Proof.Machine

/-- R386: an increment of a count stands among those that the general counters mirror. -/
theorem State.count_mirror (s : State) (r : Row) (ix : List Nat) :
    (s.count r ix).pmu.mirror = (r.addr ix / 4, 1) :: s.pmu.mirror := rfl

/-- R43: a further rejection only counts. -/
theorem State.reject_again {s : State} (h : s.flag .GLB_WR_REJECT_VALID = true) (addr : Nat) :
    s.reject addr = s.count .GLB_WR_REJECT_COUNT [] := by
  simp [State.reject, h]

/-- Refutes O7: right after reset, with the record's VALID set, a further rejection also enters the count's increment
among those that the general counters mirror (R386), so the part `pmu` of the state is not the same. -/
theorem not_rejectedWrites : ¬ Obligations.RejectedWrites := by
  unfold Obligations.RejectedWrites
  intro h
  have recorded : (State.reset.wrb .GLB_WR_REJECT_VALID [] true).flag .GLB_WR_REJECT_VALID = true :=
    State.flag_wrb_self _ _ [] true (by decide)
  obtain ⟨-, -, parts⟩ := (h _ 0).2 recorded
  have kept := congrArg Pmu.mirror (parts .pmu (by decide))
  rw [State.reject_again recorded, State.count_mirror] at kept
  exact List.cons_ne_self _ _ kept

end Sys2Proof.Machine
end

section
/-!
A pending set whose block is stopping (R41, R44), and the refutation of O53.
-/

namespace Sys2Proof.Machine

/-- R44: the pending set of a stopping block waits for the boundary where the stop completes. -/
theorem execPendingSetApply_of_stopping {s : State} {region : Nat} (h : s.stopPending region = true)
    (inst : Option Nat) : execPendingSetApply region inst s = .next s.begin := by
  have stopping : s.begin.stopPending region = true := h
  simp [execPendingSetApply, stopping]

/-- Wing A stops while a write of RXW.CD_WIN is pending. -/
def State.stoppingWithPending : State :=
  { State.reset with pend := [(0x110104, 0)] }.wrb .GLB_BLK_CTL_STOPPING [0] true

theorem State.stoppingWithPending_waits : State.stoppingWithPending.stopPending 0x11 = true :=
  State.flag_wrb_self _ _ [0] true (by decide)

/-- Refutes O53: while wing A stops, the pending set of region 0x11 waits (R44), so PENDING_SET_APPLY leaves the write
of RXW.CD_WIN pending. -/
theorem not_commitsAndBlocks : ¬ Obligations.CommitsAndBlocks := by
  unfold Obligations.CommitsAndBlocks
  intro h
  obtain ⟨-, -, -, boundary, -⟩ := h State.stoppingWithPending
  obtain ⟨t, answered, -, applied, -⟩ := boundary 0 rfl
  rw [exec_pendingSetApply, execPendingSetApply_of_stopping State.stoppingWithPending_waits] at answered
  cases answered
  cases applied

end Sys2Proof.Machine
end

section
/-!
The image commands (R28, R33 to R36, R429): what each operation of SEC holds and shows afterwards, and O9.
-/

namespace Sys2Proof.Machine

/-! ### Reaching SEC -/

/-- R22, R35: a command that reaches a running SEC is what its meaning makes of the state. -/
theorem answers_viaSec {c : Instr} {s : State} {req : Req} {f : State → State} {P : State → Prop}
    (e : exec c s = .next (s.begin.viaSec req f)) (taken : s.takesFrom req = true) (runs : s.secRuns = true)
    (h : P (f s.begin)) : Answers c s P := by
  have reached : s.begin.viaSec req f = f s.begin := by
    have taken' : s.begin.takesFrom req = true := taken
    have runs' : s.begin.secRuns = true := runs
    rw [State.viaSec, State.via_of_takesFrom taken', if_pos runs']
  exact ⟨_, e, reached ▸ h⟩

@[simp] theorem State.begin_verify (s : State) (i : Image) (n : Nat) : s.begin.verify i n = s.verify i n := rfl
@[simp] theorem State.begin_imgBlocked (s : State) : s.begin.imgBlocked = s.imgBlocked := rfl
@[simp] theorem State.begin_dmaServes (s : State) (k : Transfer) : s.begin.dmaServes k = s.dmaServes k := rfl

/-! ### Loops and conditions that leave a field alone -/

theorem State.rd_when {s : State} {f : State → State} {r : Row} {ix : List Nat} (h : (f s).rd r ix = s.rd r ix)
    (c : Bool) : (s.when c f).rd r ix = s.rd r ix := by
  cases c
  · rfl
  · exact h

theorem State.rd_upTo {f : State → Nat → State} {r : Row} {ix : List Nat}
    (h : ∀ (t : State) (n : Nat), (f t n).rd r ix = t.rd r ix) (s : State) (n : Nat) :
    (s.upTo n f).rd r ix = s.rd r ix :=
  List.foldlRecOn (motive := fun t : State => t.rd r ix = s.rd r ix) _ _ rfl fun t ht k _ => (h t k).trans ht

/-! ### What SEC's operations share with others -/

/-- R405: the request of a vector leaves SEC's images alone. -/
@[simp] theorem State.ring_image (s : State) (v : Nat) : (s.ring v).image = s.image :=
  (Within.framed (rs := bellRows) (ps := [.out, .host, .pmu])
    (State.ring_within (.refl _ s) (covers_of_test (by decide +kernel)) v)).2 .image (by decide)

/-- R391: a record for the attic leaves SEC's images alone. -/
@[simp] theorem State.emit_image (s : State) (island subunit code arg0 arg1 : Nat) :
    (s.emit island subunit code arg0 arg1).image = s.image :=
  (Within.framed (rs := lostRows ++ bellRows) (ps := [.out, .host, .pmu, .attic])
    (State.emit_within (.refl _ s) (covers_of_test (by decide +kernel)) island subunit code arg0 arg1)).2 .image
    (by decide)

theorem State.askDma_rd (s : State) (k : Transfer) {r : Row} (h : Row.HST_DMA_STAT_BUSY.id ≠ r.id) (ix : List Nat) :
    (s.askDma k).rd r ix = s.rd r ix :=
  State.rd_wr_ne _ h _ _ _

/-! ### A command is refused, runs and ends (R36) -/

@[simp] theorem State.refuseImg_refused (s : State) : s.refuseImg.flag .SEC_IMG_STAT_REFUSED = true :=
  State.flag_wrb_self _ _ [] true (by decide)

@[simp] theorem State.startImg_image (s : State) (c : ImgCmd) :
    (s.startImg c).image = { s.image with cmd := some c } := by
  unfold State.startImg State.when
  split <;> rfl

@[simp] theorem State.startImg_fuses (s : State) (c : ImgCmd) : (s.startImg c).fuses = s.fuses := by
  unfold State.startImg State.when
  split <;> rfl

@[simp] theorem State.startImg_busy (s : State) (c : ImgCmd) : (s.startImg c).flag .SEC_IMG_STAT_BUSY = true := by
  have asked (t : State) (b : Bool) : (t.when b (·.askDma .image)).rd .SEC_IMG_STAT_BUSY = t.rd .SEC_IMG_STAT_BUSY :=
    State.rd_when (f := fun t => t.askDma .image) (t.askDma_rd .image (by decide) []) b
  rw [State.startImg, State.flag, asked, State.rd_wr_ne _ (by decide)]
  exact State.flag_wrb_self _ _ [] true (by decide)

/-- R36, R407: a command that starts writes BUSY, PROGRESS and its engine's BUSY. -/
theorem State.startImg_keeps (s : State) (c : ImgCmd) :
    s.KeepsBut (s.startImg c) [.SEC_IMG_STAT_BUSY, .SEC_IMG_STAT_PROGRESS, .HST_DMA_STAT_BUSY] :=
  (Within.framed (ps := [.host, .image])
    (State.startImg_within (.refl _ s) (covers_of_test (by decide +kernel)) c)).1

theorem State.endFetch_image (s : State) : s.endFetch.image = s.image := by
  unfold State.endFetch State.when
  split <;> rfl

@[simp] theorem State.endImg_image (s : State) :
    s.endImg.image = { s.image with cmd := none, target := none } := by
  rw [State.endImg, State.ring_image]
  change { s.endFetch.image with cmd := none, target := none } = _
  rw [State.endFetch_image]

@[simp] theorem State.endImg_busy (s : State) : s.endImg.flag .SEC_IMG_STAT_BUSY = false := by
  rw [State.endImg, State.flag, State.ring_keeps _ _ _ _ (by decide)]
  exact State.flag_wrb_self _ _ [] false (by decide)

/-- R36, R404, R407: a command that ends writes BUSY, its engine's BUSY and the pending INTN bits. -/
theorem State.endImg_keeps (s : State) :
    s.KeepsBut s.endImg ([.SEC_IMG_STAT_BUSY, .HST_DMA_STAT_BUSY] ++ bellRows) :=
  (Within.framed (ps := [.out, .host, .pmu, .image])
    (State.endImg_within (.refl _ s) (covers_of_test (by decide +kernel)))).1

/-! ### The stage and the reason (R28, R35, R36) -/

@[simp] theorem State.unstage_image (s : State) : s.unstage.image = { s.image with staged := none } := rfl

@[simp] theorem State.unstage_staged (s : State) : s.unstage.flag .SEC_IMG_STAT_STAGED = false := by
  rw [State.unstage, State.flag, State.rd_wr_ne _ (by decide)]
  exact State.flag_wrb_self _ _ [] false (by decide)

theorem State.unstage_keeps (s : State) :
    s.KeepsBut s.unstage [.SEC_IMG_STAT_STAGED, .SEC_IMG_STAT_SCOPE] :=
  (Within.framed (ps := [.image]) (State.unstage_within (.refl _ s) (covers_of_test (by decide +kernel)))).1

@[simp] theorem State.stageImage_image (s : State) (i : Image) :
    (s.stageImage i).image = { s.image with staged := some i } := rfl

theorem State.stageImage_staged (s : State) (i : Image) : (s.stageImage i).flag .SEC_IMG_STAT_STAGED = true := by
  rw [State.stageImage, State.flag, State.rd_wr_ne _ (by decide), State.rd_wr_ne _ (by decide)]
  exact State.flag_wrb_self _ _ [] true (by decide)

/-- R29, R36: a scope is module (4) or names wings. -/
theorem State.scopeOf_lt (s : State) (i : Image) : s.scopeOf i < 2 ^ Row.SEC_IMG_STAT_SCOPE.width := by
  have bit (b : Bool) : bitNat b ≤ 1 := by cases b <;> decide
  unfold State.scopeOf
  split
  · decide
  · rename_i r _
    dsimp only
    split
    · decide
    · have a := bit ((changedTypes r i).any (fun t => typeScope t == 1))
      have b := bit ((changedTypes r i).any (fun t => typeScope t == 2))
      change _ < 8
      omega

theorem State.stageImage_scope (s : State) (i : Image) :
    (s.stageImage i).rd .SEC_IMG_STAT_SCOPE = s.scopeOf i := by
  rw [State.stageImage, State.rd_wr_ne _ (by decide), State.rd_wr_self, Nat.mod_eq_of_lt (s.scopeOf_lt i)]

@[simp] theorem State.imgReason_image (s : State) (reason : Nat) : (s.imgReason reason).image = s.image := by
  rw [State.imgReason, State.emit_image, State.wr_image]

theorem State.imgReason_reason (s : State) (reason : Nat) :
    (s.imgReason reason).rd .SEC_IMG_STAT_REASON = reason % 16 := by
  rw [State.imgReason, State.emit_keeps _ _ _ _ _ _ _ _ (by decide), State.rd_wr_self]
  rfl

/-! ### LOAD_VERIFY (R28, R36) -/

theorem State.loadVerify_refused {s : State} (h : s.imgBlocked = true) : s.loadVerify = s.refuseImg := by
  simp [State.loadVerify, h]

theorem State.loadVerify_runs {s : State} (h : s.imgBlocked = false) :
    s.loadVerify = s.unstage.startImg .loadVerify := by
  simp [State.loadVerify, h]

/-- R36: a LOAD_VERIFY that is not refused runs with nothing staged. -/
theorem State.startImg_unstage_staged (s : State) (c : ImgCmd) :
    (s.unstage.startImg c).flag .SEC_IMG_STAT_STAGED = false := by
  rw [State.flag, State.startImg_keeps _ _ _ _ (by decide)]
  exact s.unstage_staged

theorem loadVerifyDone_answers {s : State} {img : Option Image} (hc : s.image.cmd = some .loadVerify)
    (hd : s.dmaServes .image = true) {P : State → Prop} (hP : P (s.begin.loadVerified img)) :
    Answers (.loadVerifyDone img) s P :=
  ⟨_, by simp [execLoadVerifyDone, State.imgServed, hc, hd], hP⟩

/-- R28: an image that passes every check is staged with its scope. -/
theorem State.loadVerified_passed {s : State} {i : Image} (h : s.verify i (s.rd .SEC_IMG_LEN_LEN) = 0) :
    (s.loadVerified (some i)).image.staged = some i ∧ (s.loadVerified (some i)).flag .SEC_IMG_STAT_STAGED = true ∧
      (s.loadVerified (some i)).rd .SEC_IMG_STAT_SCOPE = s.scopeOf i := by
  have ends : s.loadVerified (some i) = (s.stageImage i).endImg := if_pos h
  rw [ends, State.flag, State.endImg_keeps _ _ _ (by decide), State.endImg_keeps _ _ _ (by decide)]
  exact ⟨by simp, s.stageImage_staged i, s.stageImage_scope i⟩

/-- R28: a failing check leaves its reason and the stage as it is. -/
theorem State.loadVerified_failed {s : State} {i : Image} (h : s.verify i (s.rd .SEC_IMG_LEN_LEN) ≠ 0) :
    (s.loadVerified (some i)).image.staged = s.image.staged ∧
      (s.loadVerified (some i)).rd .SEC_IMG_STAT_REASON = s.verify i (s.rd .SEC_IMG_LEN_LEN) % 16 := by
  have ends : s.loadVerified (some i) = (s.imgReason (s.verify i (s.rd .SEC_IMG_LEN_LEN))).endImg := if_neg h
  rw [ends, State.endImg_keeps _ _ _ (by decide)]
  exact ⟨by simp, s.imgReason_reason _⟩

/-- R36: whatever the outcome, LOAD_VERIFY's end ends the command. -/
theorem State.loadVerified_ends (s : State) (img : Option Image) :
    ∃ t : State, s.loadVerified img = t.endImg := by
  unfold State.loadVerified
  split
  · exact ⟨_, rfl⟩
  · dsimp only
    split
    · exact ⟨_, rfl⟩
    · exact ⟨_, rfl⟩

theorem State.loadVerified_idle (s : State) (img : Option Image) :
    (s.loadVerified img).image.cmd = none ∧ (s.loadVerified img).flag .SEC_IMG_STAT_BUSY = false := by
  obtain ⟨t, ends⟩ := s.loadVerified_ends img
  rw [ends]
  exact ⟨by simp, t.endImg_busy⟩

/-! ### ACTIVATE (R36, R429) -/

theorem State.activate_refused {s : State} (h : s.image.staged = none ∨ s.imgBlocked = true) (refetchOk : Bool) :
    s.activate refetchOk = s.refuseImg := by
  unfold State.activate
  split
  · rfl
  · rename_i i staged
    have blocked : s.imgBlocked = true := h.resolve_left (by simp [staged])
    simp [blocked]

/-- R36: only a module scope with a running image needs no refetch. -/
theorem State.activate_adopts {s : State} {i : Image} (hs : s.image.staged = some i) (hb : s.imgBlocked = false)
    {refetchOk : Bool}
    (hr : refetchOk = true ∨ s.rd .SEC_IMG_STAT_SCOPE = 4 ∧ s.image.running.isNone = false) :
    s.activate refetchOk = s.activateAs i (s.rd .SEC_IMG_STAT_SCOPE) := by
  obtain ok | ⟨scope, running⟩ := hr
  · simp [State.activate, hs, hb, ok]
  · simp [State.activate, hs, hb, scope, running]

theorem State.showImage_keeps (s : State) (i : Image) (source trials : Nat) (confirmed : Bool) :
    s.KeepsBut (s.showImage i source trials confirmed) [.GLB_FP_INFO_BUILD, .GLB_FP_INFO_SVN, .GLB_FP_INFO_SOURCE,
      .GLB_FP_INFO_TRIALS, .GLB_FP_INFO_CONFIRMED, .GLB_FP_HASH_HASH] :=
  (Within.framed (ps := [])
    (State.showImage_within (.refl _ s) (covers_of_test (by decide +kernel)) i source trials confirmed)).1

@[simp] theorem State.showImage_image (s : State) (i : Image) (source trials : Nat) (confirmed : Bool) :
    (s.showImage i source trials confirmed).image = s.image :=
  (Within.framed (rs := [.GLB_FP_INFO_BUILD, .GLB_FP_INFO_SVN, .GLB_FP_INFO_SOURCE,
      .GLB_FP_INFO_TRIALS, .GLB_FP_INFO_CONFIRMED, .GLB_FP_HASH_HASH]) (ps := [])
    (State.showImage_within (.refl _ s) (covers_of_test (by decide +kernel)) i source trials confirmed)).2 .image
    (by decide)

/-- R37: SOURCE shows where the running image came from. -/
theorem State.showImage_source (s : State) (i : Image) (source trials : Nat) (confirmed : Bool) :
    (s.showImage i source trials confirmed).rd .GLB_FP_INFO_SOURCE = source % 4 := by
  unfold State.showImage
  rw [State.rd_upTo (fun t n => t.rd_wr_ne (by decide) _ _ _), State.wrb, State.rd_wr_ne _ (by decide),
    State.rd_wr_ne _ (by decide), State.rd_wr_self]
  rfl

@[simp] theorem State.runStaged_image (s : State) (i : Image) :
    (s.runStaged i).image = { s.image with running := some i, staged := none } := by
  rw [State.runStaged, State.unstage_image, State.showImage_image]
  rfl

theorem State.runStaged_source (s : State) (i : Image) : (s.runStaged i).rd .GLB_FP_INFO_SOURCE = 2 := by
  rw [State.runStaged, State.unstage_keeps _ _ _ (by decide), State.showImage_source]

theorem State.runStaged_busy (s : State) (i : Image) :
    (s.runStaged i).flag .SEC_IMG_STAT_BUSY = s.flag .SEC_IMG_STAT_BUSY := by
  rw [State.runStaged, State.flag, State.unstage_keeps _ _ _ (by decide),
    State.showImage_keeps _ _ _ _ _ _ _ (by decide)]
  rfl

theorem State.startStages_keeps (s : State) (i : Image) :
    s.KeepsBut (s.startStages i) [.PWR_STATE_STAT_DEFERRED] :=
  (Within.framed (ps := [.power]) (State.startStages_within (.refl _ s) (covers_of_test (by decide +kernel)) i)).1

@[simp] theorem State.beginConfigure_image (s : State) (i : Image) : (s.beginConfigure i).image = s.image := rfl
@[simp] theorem State.beginConfigure_step (s : State) (i : Image) : (s.beginConfigure i).boot.step = 6 := rfl

theorem State.beginConfigure_stage (s : State) (i : Image) : (s.beginConfigure i).rd .GLB_BOOT_STAT_STAGE = 4 := by
  change ((s.wr .GLB_BOOT_STAT_STAGE [] 4).startStages i).rd .GLB_BOOT_STAT_STAGE = 4
  rw [State.startStages_keeps _ _ _ _ (by decide), State.rd_wr_self]
  rfl

theorem State.beginConfigure_keeps (s : State) (i : Image) :
    s.KeepsBut (s.beginConfigure i) [.GLB_BOOT_STAT_STAGE, .PWR_STATE_STAT_DEFERRED] :=
  (Within.framed (ps := [.power, .boot])
    (State.beginConfigure_within (.refl _ s) (covers_of_test (by decide +kernel)) i)).1

/-- R429: with no running image the staged one is adopted and configuration begins. -/
theorem State.activateAs_adopts {s : State} {i : Image} (h : s.image.running = none) (scope : Nat) :
    (s.activateAs i scope).image.running = some i ∧ (s.activateAs i scope).image.staged = none ∧
      (s.activateAs i scope).rd .GLB_BOOT_STAT_STAGE = 4 ∧ (s.activateAs i scope).boot.step = 6 ∧
      (s.activateAs i scope).rd .GLB_FP_INFO_SOURCE = 2 ∧
      (s.activateAs i scope).flag .SEC_IMG_STAT_BUSY = true := by
  have adopts : s.activateAs i scope = ((s.startImg .activate).runStaged i).beginConfigure i := by
    simp [State.activateAs, h]
  rw [adopts]
  refine ⟨by simp, by simp, State.beginConfigure_stage .., by simp, ?_, ?_⟩
  · rw [State.beginConfigure_keeps _ _ _ _ (by decide), State.runStaged_source]
  · rw [State.flag, State.beginConfigure_keeps _ _ _ _ (by decide)]
    exact (State.runStaged_busy ..).trans (State.startImg_busy ..)

/-- R10: the rows that a reset keeps are all that it takes from the state before. -/
theorem State.keepRows_image (new old : State) (rows : List Row) : (new.keepRows old rows).image = new.image :=
  List.foldlRecOn (motive := fun t : State => t.image = new.image) _ _ rfl fun _ ht _ _ => ht

/-- R31, R435: a reset keeps the flash banks and nothing else of the images. -/
theorem State.resetModule_image (s : State) (aon : Bool) (keep : List Row) :
    (s.resetModule aon keep).image =
      { ImageState.reset with bankA := s.image.bankA, bankB := s.image.bankB } := by
  simp only [State.resetModule, State.showTxDis, State.wrb, State.wr_image, State.keepRows_image, State.resetBase]

@[simp] theorem State.wakeRec_image (s : State) (cause origin : Nat) (flag : Bool) :
    (s.wakeRec cause origin flag).image = s.image := rfl

@[simp] theorem State.startAt_image (s : State) (step : Nat) (wake hostMode : Bool) :
    (s.startAt step wake hostMode).image = s.image := rfl

@[simp] theorem State.startAt_rd (s : State) (step : Nat) (wake hostMode : Bool) (r : Row) (ix : List Nat) :
    (s.startAt step wake hostMode).rd r ix = s.rd r ix := rfl

@[simp] theorem State.startAt_hostMode (s : State) (step : Nat) (wake hostMode : Bool) :
    (s.startAt step wake hostMode).boot.hostMode = hostMode := rfl

/-- R361: WAKE_REC shows the cause and the flag. -/
theorem State.wakeRec_shows (s : State) (cause origin : Nat) (flag : Bool) :
    (s.wakeRec cause origin flag).rd .PWR_WAKE_REC_CAUSE = cause % 16 ∧
      (s.wakeRec cause origin flag).flag .PWR_WAKE_REC_FLAG = flag := by
  unfold State.wakeRec
  refine ⟨?_, State.flag_wrb_self _ _ [] flag (by decide)⟩
  rw [State.wrb, State.rd_wr_ne _ (by decide), State.rd_wr_ne _ (by decide), State.rd_wr_self]
  rfl

/-- R361, R435: after a reset by command WAKE_REC shows the cause without the flag, and of the images only the flash
banks are kept. -/
theorem State.commandReset_shows (s : State) (cause : Nat) (hostMode : Bool) :
    (s.commandReset cause hostMode).rd .PWR_WAKE_REC_CAUSE = cause % 16 ∧
      (s.commandReset cause hostMode).flag .PWR_WAKE_REC_FLAG = false ∧
      (s.commandReset cause hostMode).boot.hostMode = hostMode ∧
      (s.commandReset cause hostMode).image =
        { ImageState.reset with bankA := s.image.bankA, bankB := s.image.bankB } := by
  obtain ⟨shown, flag⟩ := (s.resetModule true []).wakeRec_shows cause 7 false
  simp only [State.commandReset, State.flag, State.startAt_rd, State.startAt_hostMode, State.startAt_image,
    State.wakeRec_image, State.resetModule_image]
  exact ⟨shown, flag, trivial, trivial⟩

/-- R36: at module scope an ACTIVATE resets the module. -/
theorem State.activateAs_resets {s : State} {i r : Image} (h : s.image.running = some r) :
    s.activateAs i 4 = s.commandReset 7 true := by
  simp [State.activateAs, h]

/-! ### IMAGE_COMMAND_DONE (R36) -/

theorem State.progress_endImg (s : State) :
    ((s.wr .SEC_IMG_STAT_PROGRESS [] 100).endImg).rd .SEC_IMG_STAT_PROGRESS = 100 := by
  rw [State.endImg_keeps _ _ _ (by decide), State.rd_wr_self]
  rfl

/-- R36: CONFIRM and ADVANCE_SVN complete. -/
theorem State.imageDone_of_fuse {s : State} (h : s.image.cmd = some .confirm ∨ s.image.cmd = some .advanceSvn) :
    s.imageDone = (s.wr .SEC_IMG_STAT_PROGRESS [] 100).endImg := by
  obtain cmd | cmd := h <;> simp [State.imageDone, cmd]

/-- R429: an ACTIVATE that adopted its image at once has nothing left to adopt. -/
theorem State.imageDone_of_adopted {s : State} (hc : s.image.cmd = some .activate) (hr : s.activateReady = true)
    (hs : s.image.staged = none) (hd : s.dmaServes .image = true) :
    s.imageDone = (s.wr .SEC_IMG_STAT_PROGRESS [] 100).endImg := by
  simp [State.imageDone, State.adoptWings, State.imgServed, hc, hr, hs, hd]

/-! ### PROGRAM (R33) -/

@[simp] theorem ImageState.bank_setBank_self (x : ImageState) (b : Bool) (k : Bank) : (x.setBank b k).bank b = k := by
  cases b <;> rfl

@[simp] theorem ImageState.bank_setBank_other (x : ImageState) (b : Bool) (k : Bank) :
    (x.setBank b k).bank (!b) = x.bank (!b) := by
  cases b <;> rfl

@[simp] theorem ImageState.setBank_cmd (x : ImageState) (b : Bool) (k : Bank) : (x.setBank b k).cmd = x.cmd := by
  cases b <;> rfl

/-- A bank depends on nothing that a running command changes. -/
@[simp] theorem ImageState.bank_of_command (x : ImageState) (c : Option ImgCmd) (g : Option Bool) (b : Bool) :
    ({ x with cmd := c, target := g } : ImageState).bank b = x.bank b := rfl

@[simp] theorem State.setBank_image (s : State) (b : Bool) (k : Bank) :
    (s.setBank b k).image = s.image.setBank b k := rfl

theorem State.program_of_staged {s : State} {i : Image} (hs : s.image.staged = some i) (hb : s.imgBlocked = false) :
    s.program = if s.verify i i.imageLen = 0 then s.programBank else s.imgReason (s.verify i i.imageLen) := by
  simp [State.program, hs, hb]

theorem State.programBank_image (s : State) : s.programBank.image =
    { ({ s.image with cmd := some .program } : ImageState).setBank s.programTarget Bank.blank with
      target := some s.programTarget } := by
  rw [State.programBank, State.onImage_image, State.setBank_image, State.startImg_image]

theorem State.programBank_busy (s : State) : s.programBank.flag .SEC_IMG_STAT_BUSY = true :=
  s.startImg_busy .program

/-- R33: PROGRAM ends with the target bank's record. -/
theorem State.programmed_image {s : State} {b : Bool} {i : Image} (hc : s.image.cmd = some .program)
    (ht : s.image.target = some b) (hs : s.image.staged = some i) :
    s.programmed = ((s.setBank b ⟨.new, s.image.nextSeq, 0, some i⟩).wr .SEC_IMG_STAT_PROGRESS [] 100).endImg := by
  simp [State.programmed, hc, ht, hs]

theorem programDone_answers {s : State} (hc : s.image.cmd = some .program) (hd : s.dmaServes .image = true)
    {P : State → Prop} (hP : P s.begin.programmed) : Answers .programDone s P :=
  ⟨_, by simp [execProgramDone, State.imgServed, hc, hd], hP⟩

/-- R33: a sequence number fits the record's field. -/
theorem ImageState.nextSeq_mod (x : ImageState) : x.nextSeq % 2 ^ 32 = x.nextSeq := Nat.mod_mod ..

/-! ### CONFIRM and ADVANCE_SVN (R34) -/

theorem State.runningBank_startImg (s : State) (c : ImgCmd) : (s.startImg c).runningBank = s.runningBank := by
  rw [State.runningBank, State.startImg_keeps _ _ _ _ (by decide), State.runningBank]

theorem State.confirmBank_cmd (s : State) : s.confirmBank.image.cmd = s.image.cmd := by
  unfold State.confirmBank
  split
  · dsimp only
    split
    · exact ImageState.setBank_cmd ..
    · rfl
  · rfl

/-- R34: a running NEW bank becomes GOOD, and CONFIRMED shows it. -/
theorem State.confirmBank_confirms {s : State} {b : Bool} (hb : s.runningBank = some b)
    (hn : (s.image.bank b).state = .new) :
    (s.confirmBank.image.bank b).state = .good ∧ s.confirmBank.flag .GLB_FP_INFO_CONFIRMED = true := by
  have confirms : s.confirmBank =
      (s.setBank b { s.image.bank b with state := .good }).wrb .GLB_FP_INFO_CONFIRMED [] true := by
    simp [State.confirmBank, hb, hn]
  rw [confirms]
  refine ⟨?_, State.flag_wrb_self _ _ [] true (by decide)⟩
  rw [State.wrb, State.wr_image, State.setBank_image, ImageState.bank_setBank_self]

/-- R34: ADVANCE_SVN is refused unless a confirmed image runs. -/
theorem State.advanceSvn_refused {s : State}
    (h : (s.imgBlocked || s.image.running.isNone || !s.flag .GLB_FP_INFO_CONFIRMED) = true) :
    s.advanceSvn = s.refuseImg := if_pos h

/-- R34: otherwise the fused version becomes the running image's if that is higher. -/
theorem State.advanceSvn_fuses {s : State}
    (h : ¬(s.imgBlocked || s.image.running.isNone || !s.flag .GLB_FP_INFO_CONFIRMED) = true) :
    s.advanceSvn.fuses.svn = max s.fuses.svn (s.rd .GLB_FP_INFO_SVN) ∧
      s.advanceSvn.image.cmd = some .advanceSvn := by
  have advances : s.advanceSvn = { s.startImg .advanceSvn with fuses := { (s.startImg .advanceSvn).fuses with
      svn := max (s.startImg .advanceSvn).fuses.svn ((s.startImg .advanceSvn).rd .GLB_FP_INFO_SVN) } } := if_neg h
  rw [advances]
  refine ⟨?_, by simp⟩
  change max (s.startImg .advanceSvn).fuses.svn ((s.startImg .advanceSvn).rd .GLB_FP_INFO_SVN) = _
  rw [State.startImg_keeps _ _ _ _ (by decide), State.startImg_fuses]

/-! ### ABORT (R36) -/

/-- R36: an ABORT with no other command running than LOAD_VERIFY or PROGRAM leaves no command and no stage. -/
theorem State.abortImg_clears {s : State}
    (h : s.image.cmd = none ∨ s.image.cmd = some .loadVerify ∨ s.image.cmd = some .program) :
    s.abortImg.image.cmd = none ∧ s.abortImg.image.staged = none ∧
      s.abortImg.flag .SEC_IMG_STAT_STAGED = false := by
  have ended : s.unstage.endImg.image.cmd = none ∧ s.unstage.endImg.image.staged = none ∧
      s.unstage.endImg.flag .SEC_IMG_STAT_STAGED = false := by
    refine ⟨by simp, by simp, ?_⟩
    rw [State.flag, State.endImg_keeps _ _ _ (by decide)]
    exact s.unstage_staged
  obtain idle | verifying | programming := h
  · have only : s.abortImg = s.unstage := by simp [State.abortImg, idle]
    rw [only]
    exact ⟨idle, rfl, s.unstage_staged⟩
  · have both : s.abortImg = s.unstage.endImg := by simp [State.abortImg, verifying]
    rwa [both]
  · have both : s.abortImg = s.unstage.endImg := by simp [State.abortImg, programming]
    rwa [both]

/-! ### The obligation -/

/-- Settles O9: each clause by the rule of its command. That LOAD_VERIFY unstages at its start and that a sequence
number wraps are the model's own choices (assumption 51); when the commands act, what they refuse and what PROGRESS
shows are its readings (assumption 38). -/
theorem imageCommands : Obligations.ImageCommands := by
  unfold Obligations.ImageCommands
  intro s
  refine ⟨?verify, ?verified, ?unread, ?refused, ?adopts, ?resets, ?fused, ?adopted, ?program, ?programmed, ?confirm,
    ?advance, ?abort⟩
  case verify =>
    intro req taken runs
    refine answers_viaSec (exec_loadVerify ..) taken runs ?_
    split
    · rename_i blocked
      rw [State.loadVerify_refused (s := s.begin) blocked]
      exact ⟨State.refuseImg_refused _, rfl⟩
    · rename_i free
      rw [State.loadVerify_runs (s := s.begin) (Bool.eq_false_of_not_eq_true free)]
      exact ⟨by simp, State.startImg_busy .., State.startImg_unstage_staged .., by simp⟩
  case verified =>
    intro i running served
    refine loadVerifyDone_answers running served ?_
    obtain ⟨ended, idle⟩ := s.begin.loadVerified_idle (some i)
    refine ⟨ended, idle, ?_⟩
    split
    · rename_i passed
      exact State.loadVerified_passed (s := s.begin) passed
    · rename_i failed
      exact State.loadVerified_failed (s := s.begin) failed
  case unread =>
    intro running served
    refine loadVerifyDone_answers running served ?_
    obtain ⟨ended, idle⟩ := s.begin.loadVerified_idle none
    refine ⟨ended, idle, ?_⟩
    rw [State.loadVerified, State.endImg_keeps _ _ _ (by decide), State.imgReason_reason]
  case refused =>
    intro req refetchOk taken runs missing
    refine answers_viaSec (exec_activate ..) taken runs ?_
    rw [State.activate_refused (s := s.begin) missing]
    exact ⟨State.refuseImg_refused _, rfl⟩
  case adopts =>
    intro req i taken runs staged free none
    refine answers_viaSec (exec_activate ..) taken runs ?_
    rw [State.activate_adopts (s := s.begin) staged free (.inl rfl)]
    exact State.activateAs_adopts (s := s.begin) none _
  case resets =>
    intro req refetchOk i r taken runs staged free running scope
    refine answers_viaSec (exec_activate ..) taken runs ?_
    rw [State.activate_adopts (s := s.begin) staged free (.inr ⟨scope, by simp [running]⟩), State.begin_rd, scope,
      State.activateAs_resets (s := s.begin) running]
    obtain ⟨cause, flag, hostMode, image⟩ := s.begin.commandReset_shows 7 true
    rw [image]
    exact ⟨cause, flag, hostMode, rfl, rfl⟩
  case fused =>
    intro running
    refine ⟨_, exec_imageCommandDone s, ?_⟩
    rw [State.imageDone_of_fuse (s := s.begin) running]
    exact ⟨by simp, State.endImg_busy _, State.progress_endImg _⟩
  case adopted =>
    intro running ready adopted served
    refine ⟨_, exec_imageCommandDone s, ?_⟩
    rw [State.imageDone_of_adopted (s := s.begin) running ready adopted served]
    exact ⟨by simp, State.endImg_busy _⟩
  case program =>
    intro req i taken runs staged free
    refine answers_viaSec (exec_program ..) taken runs ?_
    rw [State.program_of_staged (s := s.begin) staged free, State.begin_verify]
    split
    · rw [State.programBank_image]
      exact ⟨ImageState.setBank_cmd .., rfl, ImageState.bank_setBank_self .., State.programBank_busy _⟩
    · exact ⟨State.imgReason_reason .., by simp⟩
  case programmed =>
    intro b i running target staged served
    refine programDone_answers running served ?_
    rw [State.programmed_image (s := s.begin) running target staged, s.image.nextSeq_mod]
    refine ⟨?_, ?_, ?_, ?_, ?_, State.endImg_busy _⟩
    all_goals rw [State.endImg_image, State.wr_image, State.setBank_image]
    all_goals simp
  case confirm =>
    intro req b taken runs free
    refine answers_viaSec (exec_confirm ..) taken runs ?_
    have confirms : s.begin.confirm = (s.begin.startImg .confirm).confirmBank := if_neg (by simp [free])
    rw [confirms]
    refine ⟨by rw [State.confirmBank_cmd, State.startImg_image], fun bank new => ?_⟩
    exact State.confirmBank_confirms (by rw [State.runningBank_startImg]; exact bank)
      (by rw [State.startImg_image]; exact new)
  case advance =>
    intro req taken runs
    refine answers_viaSec (exec_advanceSvn ..) taken runs ?_
    split
    · rename_i refused
      rw [State.advanceSvn_refused (s := s.begin) refused]
      exact ⟨State.refuseImg_refused _, rfl⟩
    · rename_i confirmed
      exact State.advanceSvn_fuses (s := s.begin) confirmed
  case abort =>
    intro req taken runs running
    exact answers_viaSec (exec_abort ..) taken runs (State.abortImg_clears (s := s.begin) running)

end Sys2Proof.Machine
end

section
/-!
What an operation leaves alone, read off what it may write (`Within`), what an event and a count leave alone, and signed
fields.
-/

namespace Sys2Proof.Machine

/-- Neither the row nor every row lies in the set, as a test. -/
def spares (M : Nat) (r : Row) : Bool := !M.testBit 31 && !M.testBit (32 + r.id)

theorem Within.keeps {M : Nat} {s t : State} (h : Within M s t) {r : Row} (k : spares M r = true) (ix : List Nat) :
    t.rd r ix = s.rd r ix := by
  simp only [spares, Bool.and_eq_true, Bool.not_eq_true'] at k
  exact h.rd ix k.1 k.2

theorem Within.keepsFlag {M : Nat} {s t : State} (h : Within M s t) {r : Row} (k : spares M r = true)
    (ix : List Nat) : t.flag r ix = s.flag r ix := by
  rw [State.flag, h.keeps k, State.flag]

/-- A signed field shows a value of its range as it was written. -/
theorem toSigned_ofSigned {width : Nat} {i : Int} (hw : 0 < width) (low : -2 ^ (width - 1) ≤ i)
    (high : i < 2 ^ (width - 1)) : toSigned width (ofSigned width i) = i := by
  have double : (2 : Int) ^ width = 2 * 2 ^ (width - 1) := by rw [← pow_succ', Nat.sub_add_cancel hw]
  have sameInt : ((2 ^ (width - 1) : Nat) : Int) = 2 ^ (width - 1) := by push_cast; rfl
  unfold toSigned ofSigned
  rw [double]
  generalize (2 : Int) ^ (width - 1) = half at low high sameInt ⊢
  obtain negative | positive := lt_or_ge i 0
  · have wrapped : i % (2 * half) = i + 2 * half := by
      rw [← Int.add_emod_right, Int.emod_eq_of_lt (by omega) (by omega)]
    rw [wrapped, if_neg (by omega)]
    omega
  · rw [Int.emod_eq_of_lt positive (by omega), if_pos (by omega)]
    omega

theorem ofSigned_lt (width : Nat) (i : Int) : ofSigned width i < 2 ^ width := by
  have positive : (0 : Int) < 2 ^ width := by positivity
  have below := Int.emod_lt_of_pos i positive
  have above := Int.emod_nonneg i (ne_of_gt positive)
  have sameInt : ((2 ^ width : Nat) : Int) = 2 ^ width := by push_cast; rfl
  unfold ofSigned
  omega

/-- A signed field reads the value written to it. -/
theorem State.rdS_wrS_self (s : State) (r : Row) (ix : List Nat) {i : Int} (hw : 0 < r.width)
    (low : -2 ^ (r.width - 1) ≤ i) (high : i < 2 ^ (r.width - 1)) : (s.wrS r ix i).rdS r ix = i := by
  rw [State.rdS, State.wrS, State.rd_wr_self, Nat.mod_eq_of_lt (ofSigned_lt ..), toSigned_ofSigned hw low high]

/-- R405: an event sets its own bit and writes no other field but the pending INTN bits. -/
theorem State.flag_evt_ne (s : State) {r x : Row} (h : ∀ y ∈ r :: bellRows, y.id ≠ x.id) (ix jx : List Nat) (b : Nat) :
    (s.evt r ix b).flag x jx = s.flag x jx := by
  rw [State.flag, State.evt_keeps s r ix b x jx h, State.flag]

/-- R6: a count writes its own field, and the general counters see it. -/
theorem State.count_framed (s : State) (r : Row) (ix : List Nat) (n : Nat) : s.Framed (s.count r ix n) [r] [.pmu] := by
  obtain ⟨row, pmu⟩ := covers_or.mp (covers_self (bitsOf [r] [.pmu]))
  have touch : State.count_touch = Part.pmu.bit ||| 0 := by decide
  exact Within.framed (State.count_within (.refl _ s) (touch ▸ pmu) r (.inl row) ix n)

@[simp] theorem State.count_rx (s : State) (r : Row) (ix : List Nat) (n : Nat) : (s.count r ix n).rx = s.rx :=
  (s.count_framed r ix n).2 .rx (by decide)

end Sys2Proof.Machine
end

section
/-!
Loss of signal and of alignment, dispersion tracking and re-convergence (R54, R99, R104, R107, R118), and O16.
-/

namespace Sys2Proof.Machine

-- The row tests below are large kernel evaluations: one theorem at a time bounds the memory of the whole text's check.
set_option Elab.async false

/-! ### A new state of the receiver (R117, R119) -/

/-- R119: what follows when the receiver leaves READY writes the state no more. -/
theorem State.rd_setRx (s : State) (w : Wing) (st : Nat) : (s.setRx w st).rd .RXW_RX_STAT_STATE [w.n] = st % 16 := by
  unfold State.setRx
  dsimp only
  split
  · rw [(State.loseCand_within (.refl _ _) (covers_self _) ..).keeps (by decide +kernel),
      (State.icmRefresh_within (.refl _ _) (covers_self _) ..).keeps (by decide +kernel),
      (State.sp2Off_within (.refl _ _) (covers_self _) ..).keeps (by decide +kernel),
      State.evt_keeps _ _ _ _ _ _ (by decide), State.rd_wr_self]
    rfl
  · rw [State.rd_wr_self]
    rfl

theorem State.zero_cons (s : State) (r : Row) (rs : List Row) (i : List Nat) :
    s.zero (r :: rs) i = (s.wr r i 0).zero rs i := rfl

theorem State.rd_zero (s : State) (rs : List Row) (i : List Nat) {r : Row} (h : ∀ x ∈ rs, x.id ≠ r.id) :
    (s.zero rs i).rd r i = s.rd r i := by
  refine List.foldlRecOn (motive := fun t : State => t.rd r i = s.rd r i) rs _ rfl fun t ht x hx => ?_
  rw [State.rd_wr_ne _ (h x hx), ht]

/-- R117: an acquisition finds no carrier-frame alignment. -/
theorem State.clearRx_unaligned (s : State) (w : Wing) :
    (s.clearRx w).flag .RXW_HDR_STAT_CF_ALIGNED [w.n] = false := by
  unfold State.clearRx
  dsimp only
  rw [State.onRx_flag, (State.dropAnn_within (.refl _ _) (covers_self _) ..).keepsFlag (by decide +kernel),
    (State.setActiveMap_within (.refl _ _) (covers_self _) ..).keepsFlag (by decide +kernel),
    (State.flushBlocks_within (.refl _ _) (covers_self _) ..).keepsFlag (by decide +kernel)]
  rw [State.zero_cons, State.flag, State.rd_zero _ _ _ (by decide), State.rd_wr_self]
  rfl

/-- R99, R118: a receiver that waits is in WAIT, without carrier-frame alignment. -/
theorem State.toWait_waits (s : State) (w : Wing) :
    (s.toWait w).rd .RXW_RX_STAT_STATE [w.n] = 0 ∧ (s.toWait w).flag .RXW_HDR_STAT_CF_ALIGNED [w.n] = false := by
  have search := State.icmSearch_within (.refl _ ((s.setRx w 0).clearRx w)) (covers_self _) w
  refine ⟨?_, ?_⟩
  · rw [State.toWait, search.keeps (by decide +kernel),
      (State.clearRx_within (.refl _ _) (covers_self _) ..).keeps (by decide +kernel), State.rd_setRx]
  · rw [State.toWait, search.keepsFlag (by decide +kernel), State.clearRx_unaligned]

/-- R117, R118: after its new state an acquisition writes only its count and the offset that it starts from. -/
theorem State.rd_startAcq (s : State) (w : Wing) (warm : Bool) {r : Row}
    (h : ∀ x ∈ [Row.RXW_FR_STAT_OFFSET, .RXW_RX_STAT_ACQ_COUNT], x.id ≠ r.id) (ix : List Nat) :
    (s.startAcq w warm).rd r ix = ((s.setRx w 1).clearRx w).rd r ix := by
  have counted : (((s.setRx w 1).clearRx w).countWrap .RXW_RX_STAT_ACQ_COUNT [w.n]).rd r ix =
      ((s.setRx w 1).clearRx w).rd r ix := by
    rw [State.countWrap, State.mirrored_rd, State.rd_wr_ne _ (h _ (by simp))]
  unfold State.startAcq
  dsimp only
  rw [State.onRx_rd]
  split
  · rw [State.wrS, State.rd_wr_ne _ (h _ (by simp)), counted]
  · exact counted

/-- R117, R118: a receiver that starts an acquisition is in step 1, without carrier-frame alignment. -/
theorem State.startAcq_starts (s : State) (w : Wing) (warm : Bool) :
    (s.startAcq w warm).rd .RXW_RX_STAT_STATE [w.n] = 1 ∧
      (s.startAcq w warm).flag .RXW_HDR_STAT_CF_ALIGNED [w.n] = false := by
  refine ⟨?_, ?_⟩
  · rw [State.rd_startAcq _ _ _ (by decide),
      (State.clearRx_within (.refl _ _) (covers_self _) ..).keeps (by decide +kernel), State.rd_setRx]
  · rw [State.flag, State.rd_startAcq _ _ _ (by decide), ← State.flag, State.clearRx_unaligned]

/-! ### Loss of signal (R99) -/

/-- R99: what loss of signal shows: LOS, the lowest power and the wing's pin. -/
def State.showLoss (s : State) (w : Wing) : State :=
  let t := (s.wrb .OPT_RX_STAT_LOS [w.n] true).wrS .OPT_RX_STAT_POWER_MEAS [w.n] (-4096)
  { t with pins := { t.pins with los := t.pins.los.set w true } }

/-- R99: what the end of loss of signal shows. -/
def State.showLight (s : State) (w : Wing) : State :=
  let t := s.wrb .OPT_RX_STAT_LOS [w.n] false
  { t with pins := { t.pins with los := t.pins.los.set w false } }

/-- R99, R143, R205: what follows a change of LOS: the injected sequence, the unsettled contexts and the alarm. -/
def State.losChanged (s : State) (w : Wing) : State := ((s.trigger w.n).wingStep w).icmRefresh w

/-- What `State.losChanged` may write. -/
def State.losChanged_touch : Nat := union [State.trigger_touch, State.wingStep_touch, State.icmRefresh_touch]

theorem State.losChanged_within (s : State) (w : Wing) : Within State.losChanged_touch s (s.losChanged w) := by
  have k := covers_self State.losChanged_touch
  rw [State.losChanged_touch] at k
  simp only [covers_union] at k
  obtain ⟨trigger, step, refresh, -⟩ := k
  exact State.icmRefresh_within (State.wingStep_within (State.trigger_within (.refl _ s) trigger _) step _) refresh _

theorem losAssert_answers {s : State} {w : Wing} {power : Int} (lit : s.flag .OPT_RX_STAT_LOS [w.n] = false)
    (low : power < s.rdS .OPT_RX_LOS_LOS_TH [w.n]) {P : State → Prop}
    (hP : P ((((s.begin.updateLos w).showLoss w).toWait w).losChanged w)) : Answers (.losAssert w power) s P := by
  have falls : (s.flag .OPT_RX_STAT_LOS [w.n] || decide (s.rdS .OPT_RX_LOS_LOS_TH [w.n] ≤ power)) = false :=
    Bool.or_eq_false_iff.mpr ⟨lit, decide_eq_false (not_le.mpr low)⟩
  exact ⟨_, if_neg (Bool.not_eq_true _ ▸ falls), hP⟩

theorem losClear_answers {s : State} {w : Wing} {power : Int} (dark : s.flag .OPT_RX_STAT_LOS [w.n] = true)
    (enabled : s.wingEnabled w = true)
    (high : s.rdS .OPT_RX_LOS_LOS_TH [w.n] + 10 * s.rd .OPT_RX_LOS_HYST [w.n] < power) {P : State → Prop}
    (hP : P (((s.begin.updateLos w).showLight w).losChanged w)) : Answers (.losClear w power) s P := by
  have rises : (!s.flag .OPT_RX_STAT_LOS [w.n] || !s.wingEnabled w ||
      decide (power ≤ s.rdS .OPT_RX_LOS_LOS_TH [w.n] + 10 * s.rd .OPT_RX_LOS_HYST [w.n])) = false := by
    rw [dark, enabled, decide_eq_false (not_le.mpr high)]
    rfl
  exact ⟨_, if_neg (Bool.not_eq_true _ ▸ rises), hP⟩

/-- R99: under loss of signal LOS shows, the power reads its lowest value and the pin is set. -/
theorem State.showLoss_shows (s : State) (w : Wing) :
    (s.showLoss w).flag .OPT_RX_STAT_LOS [w.n] = true ∧ (s.showLoss w).pins.los.get w = true ∧
      (s.showLoss w).rdS .OPT_RX_STAT_POWER_MEAS [w.n] = -4096 := by
  refine ⟨?_, get_set .., State.rdS_wrS_self _ .OPT_RX_STAT_POWER_MEAS _ (by decide) (by decide) (by decide)⟩
  have other := State.rd_wr_ne (s.wrb .OPT_RX_STAT_LOS [w.n] true) (r := .OPT_RX_STAT_POWER_MEAS)
    (x := .OPT_RX_STAT_LOS) (by decide) [w.n] [w.n] (ofSigned 13 (-4096))
  calc (s.showLoss w).flag .OPT_RX_STAT_LOS [w.n]
      = (s.wrb .OPT_RX_STAT_LOS [w.n] true).flag .OPT_RX_STAT_LOS [w.n] := congrArg (· != 0) other
    _ = true := State.flag_wrb_self _ _ _ _ (by decide)

theorem State.showLight_shows (s : State) (w : Wing) :
    (s.showLight w).flag .OPT_RX_STAT_LOS [w.n] = false ∧ (s.showLight w).pins.los.get w = false :=
  ⟨State.flag_wrb_self s .OPT_RX_STAT_LOS [w.n] false (by decide), get_set ..⟩

/-! ### Loss of alignment (R54, R118) -/

/-- What `State.canAcquire` reads. -/
def acquireRows : List Row :=
  [.GLB_BOOT_STAT_STAGE, .PWR_STATE_STAT_WING_A, .PWR_STATE_STAT_WING_B, .GLB_BLK_CTL_STOPPED, .RAS_STAT_FAILED_MAP,
   .OPT_RX_STAT_LOS, .OPT_TX_STAT_LO_LOCKED, .CNV_ADC_CLK_LOCKED]

theorem State.canAcquire_congr {s t : State} (rows : ∀ r ∈ acquireRows, ∀ ix, t.rd r ix = s.rd r ix)
    (image : t.image = s.image) (conv : t.conv = s.conv) (w : Wing) : t.canAcquire w = s.canAcquire w := by
  simp only [acquireRows, List.forall_mem_cons] at rows
  obtain ⟨stage, wingA, wingB, stopped, failed, los, locked, clock, -⟩ := rows
  have states : t.wingState w = s.wingState w := by cases w <;> simp only [State.wingState, wingA, wingB]
  have islands : t.islandFailed = s.islandFailed := funext fun i => by
    rw [State.islandFailed, failed, State.islandFailed]
  simp only [State.canAcquire, State.wingRuns, State.wingOn, State.isRunning, State.wingEnabled, State.wingSec,
    State.blockStopped, State.blockFailed, State.flag, stage, states, stopped, islands, los, locked, clock, image, conv]

/-- R54, R118: a loss of alignment counts, and the receiver starts an acquisition or waits. -/
theorem cfAlignLoss_answers {s : State} {w : Wing} (core : s.coreRuns = true)
    (aligned : s.flag .RXW_HDR_STAT_CF_ALIGNED [w.n] = true) (lost : 4 ≤ (s.rx.get w).misses) {P : State → Prop}
    (hP : P (if s.canAcquire w then (s.begin.count .RXW_HDR_ERR_CF_SLIP [w.n]).startAcq w true
      else (s.begin.count .RXW_HDR_ERR_CF_SLIP [w.n]).toWait w)) : Answers (.cfAlignLoss w) s P := by
  let t := s.begin.count .RXW_HDR_ERR_CF_SLIP [w.n]
  obtain ⟨rows, parts⟩ := s.begin.count_framed .RXW_HDR_ERR_CF_SLIP [w.n] 1
  have able : t.canAcquire w = s.canAcquire w := State.canAcquire_congr (s := s.begin)
    (fun r hr ix => rows r ix (by revert r; decide)) (parts .image (by decide)) (parts .conv (by decide)) w
  have runs : t.coreRuns = true := by
    have ras : t.ras = s.begin.ras := parts .ras (by decide)
    rw [State.coreRuns, State.islandFailed, rows _ _ (by decide), ras]
    exact core
  have enough : (!s.flag .RXW_HDR_STAT_CF_ALIGNED [w.n] || decide ((s.rx.get w).misses < 4)) = false := by
    rw [aligned, decide_eq_false (not_lt.mpr lost)]
    rfl
  have acts : (if t.canAcquire w && t.coreRuns then t.startAcq w true else t.toWait w) =
      if s.canAcquire w then t.startAcq w true else t.toWait w := by rw [able, runs, Bool.and_true]
  exact ⟨_, (if_neg (Bool.not_eq_true _ ▸ enough)).trans (congrArg _ acts), hP⟩

/-- R54: the count of slips outlives the acquisition and the wait that follow. -/
theorem State.slip_kept (s : State) (w : Wing) (ix : List Nat) :
    (s.startAcq w true).rd .RXW_HDR_ERR_CF_SLIP ix = s.rd .RXW_HDR_ERR_CF_SLIP ix ∧
      (s.toWait w).rd .RXW_HDR_ERR_CF_SLIP ix = s.rd .RXW_HDR_ERR_CF_SLIP ix :=
  ⟨(State.startAcq_within (.refl _ s) (covers_self _) ..).keeps (by decide +kernel) ix,
    (State.toWait_within (.refl _ s) (covers_self _) ..).keeps (by decide +kernel) ix⟩

/-! ### Dispersion tracking (R104) -/

theorem cdTrackMove_answers {s : State} {w : Wing} {residual : Int} (ready : s.rxState w = 11)
    (tracks : s.flag .RXW_CD_CFG_TRACK_EN [w.n] = true) (far : 50 < residual.natAbs) {P : State → Prop}
    (hP : ∀ past : Bool, P ((s.begin.setCd w (clampInt (-(s.reach w : Int)) (s.reach w)
      (s.rdS .RXW_CD_STAT_CD_EST [w.n] + roundTen residual))).when past (·.evt .RXW_RX_EVT_CD_RANGE [w.n]))) :
    Answers (.cdTrackMove w residual) s P := by
  have moves : ¬(decide (s.rxState w ≠ 11) || !s.flag .RXW_CD_CFG_TRACK_EN [w.n] ||
      decide (residual.natAbs ≤ 50)) = true := by
    simp [ready, tracks, far]
  exact ⟨_, if_neg moves, hP _⟩

theorem reachOf_le (alloc baud : Nat) : reachOf alloc baud ≤ 200000 := Nat.min_le_left ..

theorem State.rd_when_evt (s : State) (c : Bool) (r : Row) (ix : List Nat) {x : Row}
    (h : ∀ y ∈ r :: bellRows, y.id ≠ x.id) (jx : List Nat) : (s.when c (·.evt r ix)).rd x jx = s.rd x jx :=
  State.rd_when (State.evt_keeps s r ix 0 x jx h) c

/-- R101, R104: a dispersion within the reach is shown as it is. -/
theorem State.setCd_shows (s : State) (w : Wing) {cd : Int} (low : -200000 ≤ cd) (high : cd ≤ 200000) :
    (s.setCd w cd).rdS .RXW_CD_STAT_CD_EST [w.n] = cd := by
  rw [State.setCd, State.rdS, State.rd_wr_ne _ (by decide), State.wrb, State.rd_wr_ne _ (by decide)]
  exact State.rdS_wrS_self _ .RXW_CD_STAT_CD_EST _ (by decide) (by simp [Row.RXW_CD_STAT_CD_EST]; omega)
    (by simp [Row.RXW_CD_STAT_CD_EST]; omega)

/-- R101, R104: what is limited to the reach lies within the greatest reach. -/
theorem State.reach_bounds (s : State) (w : Wing) (cd : Int) :
    -200000 ≤ clampInt (-(s.reach w : Int)) (s.reach w) cd ∧ clampInt (-(s.reach w : Int)) (s.reach w) cd ≤ 200000 := by
  have reach : s.reach w ≤ 200000 := reachOf_le ..
  unfold clampInt
  omega

/-! ### Re-convergence (R107) -/

/-- R107: while a re-convergence stops it, the receiver does not deliver. -/
theorem State.not_delivers_of_eqStop {s : State} {w : Wing} (h : (s.rx.get w).eqStop = true) :
    s.delivers w = false := by
  simp [State.delivers, h]

/-- R107: what a re-convergence begins with: delivery stopped, and the stored taps where there are any. -/
def RxLine.reconverge (r : RxLine) : RxLine :=
  { r with
    eqStop := true
    taps := match r.stored with
      | some v => v.taps
      | none => r.taps }

theorem eqReconv_answers {s : State} {w : Wing} (aligned : s.flag .RXW_HDR_STAT_CF_ALIGNED [w.n] = true)
    (converged : s.flag .RXW_EQ_STAT_CONVERGED [w.n] = true) (exceeded : 64 ≤ (s.rx.get w).dsp.overRun)
    {P : State → Prop} (hP : P (((s.begin.wrb .RXW_EQ_STAT_CONVERGED [w.n] false).evt .RXW_RX_EVT_EQ_RECONV
      [w.n]).onRx w RxLine.reconverge)) : Answers (.eqReconv w) s P := by
  have begins : (s.begin.flag .RXW_HDR_STAT_CF_ALIGNED [w.n] && s.begin.flag .RXW_EQ_STAT_CONVERGED [w.n] &&
      decide (64 ≤ (s.begin.rx.get w).dsp.overRun)) = true := by
    simp [aligned, converged, exceeded]
  refine ⟨_, ?_, hP⟩
  rw [exec_eqReconv, execEqReconv, if_pos begins]
  rfl

theorem eqReconvDone_answers {s : State} {w : Wing} (stopped : (s.rx.get w).eqStop = true)
    (recovered : (s.rx.get w).dsp.overRun = 0) {P : State → Prop}
    (hP : P ((s.begin.wrb .RXW_EQ_STAT_CONVERGED [w.n] true).onRx w (fun r => { r with eqStop := false }))) :
    Answers (.eqReconvDone w) s P := by
  have ends : ((s.begin.rx.get w).eqStop && (s.begin.rx.get w).dsp.overRun == 0) = true := by
    simp [stopped, recovered]
  refine ⟨_, ?_, hP⟩
  rw [exec_eqReconvDone, execEqReconvDone, if_pos ends]

/-! ### The obligation -/

/-- Settles O16: each clause by the rule of its command. That a residual exactly halfway between two multiples of
10 ps/nm is rounded upwards is the model's own choice (assumption 65). -/
theorem lossAndTracking : Obligations.LossAndTracking := by
  unfold Obligations.LossAndTracking
  intro s w
  refine ⟨?loss, ?light, ?slip, ?tracking, ?stops, ?resumes⟩
  case loss =>
    intro power lit low
    refine losAssert_answers lit low ?_
    obtain ⟨los, pin, least⟩ := (s.begin.updateLos w).showLoss_shows w
    obtain ⟨waits, unaligned⟩ := ((s.begin.updateLos w).showLoss w).toWait_waits w
    have wait := State.toWait_within (.refl _ ((s.begin.updateLos w).showLoss w)) (covers_self _) w
    have after := (((s.begin.updateLos w).showLoss w).toWait w).losChanged_within w
    have waitPins : _ = _ := wait.part .pins (by decide +kernel)
    have afterPins : _ = _ := after.part .pins (by decide +kernel)
    refine ⟨?_, ?_, ?_, ?_, ?_⟩
    · rw [after.keepsFlag (by decide +kernel), wait.keepsFlag (by decide +kernel), los]
    · rw [afterPins, waitPins, pin]
    · rw [State.rdS, after.keeps (by decide +kernel), wait.keeps (by decide +kernel), ← State.rdS, least]
    · rw [after.keeps (by decide +kernel), waits]
    · rw [after.keepsFlag (by decide +kernel), unaligned]
  case light =>
    intro power dark enabled high
    refine losClear_answers dark enabled high ?_
    obtain ⟨los, pin⟩ := (s.begin.updateLos w).showLight_shows w
    have after := ((s.begin.updateLos w).showLight w).losChanged_within w
    have pins : _ = _ := after.part .pins (by decide +kernel)
    refine ⟨?_, ?_⟩
    · rw [after.keepsFlag (by decide +kernel), los]
    · rw [pins, pin]
  case slip =>
    intro core aligned lost
    refine cfAlignLoss_answers core aligned lost ?_
    obtain ⟨started, waited⟩ := (s.begin.count .RXW_HDR_ERR_CF_SLIP [w.n]).slip_kept w [w.n]
    split
    · obtain ⟨one, unaligned⟩ := (s.begin.count .RXW_HDR_ERR_CF_SLIP [w.n]).startAcq_starts w true
      exact ⟨started.trans (State.rd_count_self ..), unaligned, one⟩
    · obtain ⟨zero, unaligned⟩ := (s.begin.count .RXW_HDR_ERR_CF_SLIP [w.n]).toWait_waits w
      exact ⟨waited.trans (State.rd_count_self ..), unaligned, zero⟩
  case tracking =>
    intro residual ready tracks far
    refine cdTrackMove_answers ready tracks far fun past => ?_
    obtain ⟨low, high⟩ := s.reach_bounds w (s.rdS .RXW_CD_STAT_CD_EST [w.n] + roundTen residual)
    have shown := toSigned_ofSigned (width := 20) (by decide) (le_trans (by norm_num) low)
      (lt_of_le_of_lt high (by norm_num))
    rw [shown, State.rdS, State.rd_when_evt _ _ _ _ (by decide), ← State.rdS, State.setCd_shows _ _ low high]
  case stops =>
    intro aligned converged exceeded
    refine eqReconv_answers aligned converged exceeded
      ⟨?_, ?_, State.not_delivers_of_eqStop (by simp [RxLine.reconverge])⟩
    · rw [State.onRx_flag, State.flag_evt_ne _ (by decide)]
      exact State.flag_wrb_self _ _ _ _ (by decide)
    · exact State.flag_evt_self _ _ _ rfl (by decide)
  case resumes =>
    intro stopped recovered
    exact eqReconvDone_answers stopped recovered ⟨State.flag_wrb_self _ _ _ _ (by decide), by simp⟩

end Sys2Proof.Machine
end

section
/-!
The transmitted superframe boundary (R52, R53, R84, R156, R179, R182, R188): the countdown, what the new superframe
carries and the header on the line.
-/

namespace Sys2Proof.Machine

-- The row tests below are large kernel evaluations: one theorem at a time bounds the memory of the whole text's check.
set_option Elab.async false

/-! ### The parts of a boundary -/

/-- R98: the values written for the wing's transmit side and its rate control take force. -/
def State.takeTxValues (s : State) (w : Wing) : State :=
  (s.releaseUse (0x10 + 0x10 * w.n)).releaseUse (0x15 + 0x10 * w.n)

/-- What a new superframe's header shows of the wing, after its HDR_LOSS. -/
def State.showBoundary (s : State) (w : Wing) : State :=
  let t := s.showCand (2 + w.n)
  ((((t.resumeDue w).showAdvTx w).setIcmRc w).showAcct w 0 (t.curPair w).1 (t.curPair w).2).icmRefresh w

/-- R52, R53: the header fields of the superframe that a countdown has reached. -/
def State.newHeader (s : State) (w : Wing) : State :=
  ((s.onTx w TxRate.boundary).wrb .RXW_HDR_STAT_HDR_LOSS_TX [w.n] (s.tx.get w).wantHdrLoss).showBoundary w

/-- The new superframe's header fields, before the header goes out. -/
def State.boundaryHeader (s : State) (w : Wing) : State := ((s.takeTxValues w).countDown w).newHeader w

/-- R52: the new superframe's header goes out unless a switch is due. -/
theorem State.txBoundary_eq (s : State) (w : Wing) :
    s.txBoundary w =
      if ((s.boundaryHeader w).tx.get w).switchDue then s.boundaryHeader w
      else (s.boundaryHeader w).sendHeader w := rfl

/-- What `State.showBoundary` may write. -/
def State.showBoundary_touch : Nat :=
  union [State.showCand_touch, State.resumeDue_touch, State.showAdvTx_touch, State.setIcmRc_touch,
    State.showAcct_touch, State.icmRefresh_touch]

theorem State.showBoundary_within (s : State) (w : Wing) : Within State.showBoundary_touch s (s.showBoundary w) := by
  have k := covers_self State.showBoundary_touch
  rw [State.showBoundary_touch] at k
  simp only [covers_union] at k
  obtain ⟨cand, resume, advice, request, account, refresh, -⟩ := k
  have shown := State.showAdvTx_within (State.resumeDue_within (State.showCand_within (.refl _ s) cand (2 + w.n)) resume
    w) advice w
  exact State.icmRefresh_within (State.showAcct_within (State.setIcmRc_within shown request _) account ..) refresh _

/-! ### The transmit line -/

/-- What a boundary's later steps leave of the transmit line. -/
structure Sending where
  switchDue : Bool
  ackSent : Option Nat
  sent : List Carried
  wantHdrLoss : Bool

def TxRate.sending (t : TxRate) : Sending := ⟨t.switchDue, t.ackSent, t.sent, t.wantHdrLoss⟩

theorem State.leaveHeld_sending (s : State) (w : Wing) :
    ((s.leaveHeld w).tx.get w).sending = (s.tx.get w).sending := by
  unfold State.leaveHeld
  split
  · have kept (t : State) : (t.icmRefresh w).tx = t.tx :=
      (State.icmRefresh_within (.refl _ t) (covers_self _) w).part .tx (by decide +kernel)
    rw [kept, State.onTx_tx, get_set]
    rfl
  · rfl

theorem State.resumeDue_sending (s : State) (w : Wing) :
    ((s.resumeDue w).tx.get w).sending = (s.tx.get w).sending := by
  unfold State.resumeDue State.when
  split
  · rw [State.onTx_tx, get_set]
    exact s.leaveHeld_sending w
  · rfl

/-- What may be written before ICM_RC. -/
def State.beforeIcmRc_touch : Nat := union [State.showCand_touch, State.resumeDue_touch, State.showAdvTx_touch]

theorem State.beforeIcmRc_within (s : State) (w : Wing) :
    Within State.beforeIcmRc_touch s (((s.showCand (2 + w.n)).resumeDue w).showAdvTx w) := by
  have k := covers_self State.beforeIcmRc_touch
  rw [State.beforeIcmRc_touch] at k
  simp only [covers_union] at k
  obtain ⟨cand, resume, advice, -⟩ := k
  exact State.showAdvTx_within (State.resumeDue_within (State.showCand_within (.refl _ s) cand _) resume _) advice _

theorem State.beforeIcmRc_sending (s : State) (w : Wing) :
    (((((s.showCand (2 + w.n)).resumeDue w).showAdvTx w).tx).get w).sending = (s.tx.get w).sending := by
  have cand : (s.showCand (2 + w.n)).tx = s.tx :=
    (State.showCand_within (.refl _ s) (covers_self _) _).part .tx (by decide +kernel)
  have advice (t : State) : (t.showAdvTx w).tx = t.tx :=
    (State.showAdvTx_within (.refl _ t) (covers_self _) w).part .tx (by decide +kernel)
  rw [advice, State.resumeDue_sending, cand]

theorem State.showBoundary_sending (s : State) (w : Wing) :
    ((s.showBoundary w).tx.get w).sending = (s.tx.get w).sending := by
  have request (t : State) : (t.setIcmRc w).tx = t.tx :=
    (State.setIcmRc_within (.refl _ t) (covers_self _) w).part .tx (by decide +kernel)
  have account (t : State) (n fec : Nat) : (t.showAcct w 0 n fec).tx = t.tx :=
    (State.showAcct_within (.refl _ t) (covers_self _) ..).part .tx (by decide +kernel)
  have refresh (t : State) : (t.icmRefresh w).tx = t.tx :=
    (State.icmRefresh_within (.refl _ t) (covers_self _) w).part .tx (by decide +kernel)
  rw [State.showBoundary, refresh, account, request, State.beforeIcmRc_sending]

/-- R179, R183: the new header acknowledges what was wanted, and the switch and the superframes sent stay. -/
theorem State.newHeader_sending (s : State) (w : Wing) :
    ((s.newHeader w).tx.get w).sending =
      { (s.tx.get w).sending with ackSent := (s.tx.get w).ackWant } := by
  rw [State.newHeader, State.showBoundary_sending, State.wrb, State.wr_tx, State.onTx_tx, get_set]
  rfl

/-! ### The registers -/

theorem State.rd_newHeader (s : State) (w : Wing) {r : Row} (k : spares State.showBoundary_touch r = true)
    (h : Row.RXW_HDR_STAT_HDR_LOSS_TX.id ≠ r.id) (ix : List Nat) : (s.newHeader w).rd r ix = s.rd r ix := by
  rw [State.newHeader, (State.showBoundary_within _ w).keeps k, State.wrb, State.rd_wr_ne _ h, State.onTx_rd]

/-- R53: the new header carries HDR_LOSS as it is wanted. -/
theorem State.newHeader_hdrLoss (s : State) (w : Wing) :
    (s.newHeader w).flag .RXW_HDR_STAT_HDR_LOSS_TX [w.n] = (s.tx.get w).wantHdrLoss := by
  rw [State.newHeader, (State.showBoundary_within _ w).keepsFlag (by decide +kernel)]
  exact State.flag_wrb_self _ _ _ _ (by decide)

/-- R188: what ICM_RC depends on. -/
theorem State.icmRcDue_congr {s t : State} {w : Wing} (want : (t.tx.get w).wantHdrLoss = (s.tx.get w).wantHdrLoss)
    (rows : ∀ r ∈ [Row.ELC_HS_STAT_FLOOR_TX, .ELC_HS_CFG_RETRY_MAX, .ELC_HS_STAT_RETRIES],
      t.rd r [w.n] = s.rd r [w.n]) :
    t.icmRcDue w = s.icmRcDue w := by
  simp only [List.forall_mem_cons] at rows
  obtain ⟨floor, most, retries, -⟩ := rows
  simp only [State.icmRcDue, State.flag, want, floor, most, retries]

theorem State.setIcmRc_due (s : State) (w : Wing) :
    (s.setIcmRc w).flag .ELC_HS_STAT_ICM_RC [w.n] = s.icmRcDue w := by
  unfold State.setIcmRc
  dsimp only
  split
  · assumption
  · rw [State.flag_evt_ne _ (by decide)]
    exact State.flag_wrb_self _ _ _ _ (by decide)

theorem State.showBoundary_icmRc (s : State) (w : Wing) :
    (s.showBoundary w).flag .ELC_HS_STAT_ICM_RC [w.n] = s.icmRcDue w := by
  rw [State.showBoundary, (State.icmRefresh_within (.refl _ _) (covers_self _) w).keepsFlag (by decide +kernel),
    (State.showAcct_within (.refl _ _) (covers_self _) ..).keepsFlag (by decide +kernel), State.setIcmRc_due]
  refine State.icmRcDue_congr (congrArg Sending.wantHdrLoss (s.beforeIcmRc_sending w)) fun r hr => ?_
  exact (s.beforeIcmRc_within w).keeps (by revert r; decide +kernel) _

/-- R188: the new header carries ICM_RC as it is due. -/
theorem State.newHeader_icmRc (s : State) (w : Wing) :
    (s.newHeader w).flag .ELC_HS_STAT_ICM_RC [w.n] = s.icmRcDue w := by
  rw [State.newHeader, State.showBoundary_icmRc]
  refine State.icmRcDue_congr ?_ fun r hr => ?_
  · rw [State.wrb, State.wr_tx, State.onTx_tx, get_set]
    rfl
  · rw [State.wrb, State.rd_wr_ne _ (by revert r; decide), State.onTx_rd]

/-! ### The header on the line -/

theorem State.sendHeader_rd (s : State) (w : Wing) (r : Row) (ix : List Nat) :
    (s.sendHeader w).rd r ix = s.rd r ix := rfl

theorem State.sendHeader_sending (s : State) (w : Wing) :
    ((s.sendHeader w).tx.get w).sending = (s.tx.get w).sending := by
  rw [State.sendHeader, State.say_tx, get_set]
  rfl

theorem State.txHeader_sendHeader (s : State) (w : Wing) (frame : Nat) :
    (s.sendHeader w).txHeader w frame = s.txHeader w frame := by
  cases w <;> rfl

theorem State.sendHeader_headers (s : State) (w : Wing) :
    ((s.sendHeader w).tx.get w).headers = (List.range 64).map ((s.sendHeader w).txHeader w) := by
  have same : (s.sendHeader w).txHeader w = s.txHeader w := funext (s.txHeader_sendHeader w)
  rw [same, State.sendHeader, State.say_tx, get_set]

/-! ### The countdown (R52) -/

theorem State.countDown_of_none {s : State} {w : Wing} (h : s.flag .TXW_LINE_NEXT_ANN_VALID [w.n] = false) :
    s.countDown w = s := if_pos (by simp [h])

/-- R52: the transmit line after a countdown of a standing announcement. -/
def TxRate.counted (t : TxRate) (c : Nat) : TxRate := { t with elapsed := t.elapsed + 1, switchDue := decide (c ≤ 1) }

theorem State.countDown_of_standing {s : State} {w : Wing} (h : s.flag .TXW_LINE_NEXT_ANN_VALID [w.n] = true)
    (old : (s.tx.get w).fresh = false) :
    s.countDown w = (s.onTx w (·.counted (s.rd .TXW_LINE_NEXT_COUNTDOWN [w.n]))).wr .TXW_LINE_NEXT_COUNTDOWN [w.n]
      (s.rd .TXW_LINE_NEXT_COUNTDOWN [w.n] - 1) :=
  (if_neg (by simp [h])).trans (if_neg (by simp [old]))

/-! ### The boundary as a whole -/

theorem State.txBoundary_of_due {s : State} {w : Wing} (h : ((s.boundaryHeader w).tx.get w).switchDue = true) :
    s.txBoundary w = s.boundaryHeader w := by
  rw [State.txBoundary_eq, if_pos h]

theorem State.txBoundary_of_not_due {s : State} {w : Wing} (h : ((s.boundaryHeader w).tx.get w).switchDue = false) :
    s.txBoundary w = (s.boundaryHeader w).sendHeader w := by
  rw [State.txBoundary_eq, h, if_neg Bool.false_ne_true]

theorem State.rd_txBoundary (s : State) (w : Wing) (r : Row) (ix : List Nat) :
    (s.txBoundary w).rd r ix = (s.boundaryHeader w).rd r ix := by
  cases due : ((s.boundaryHeader w).tx.get w).switchDue
  · rw [State.txBoundary_of_not_due due, State.sendHeader_rd]
  · rw [State.txBoundary_of_due due]

theorem State.txBoundary_sending (s : State) (w : Wing) :
    ((s.txBoundary w).tx.get w).sending = ((s.boundaryHeader w).tx.get w).sending := by
  cases due : ((s.boundaryHeader w).tx.get w).switchDue
  · rw [State.txBoundary_of_not_due due, State.sendHeader_sending]
  · rw [State.txBoundary_of_due due]

/-- R52: with no switch due the new header is on the line. -/
theorem State.txBoundary_headers {s : State} {w : Wing}
    (h : ((s.boundaryHeader w).tx.get w).sending.switchDue = false) :
    ((s.txBoundary w).tx.get w).headers = (List.range 64).map ((s.txBoundary w).txHeader w) := by
  rw [State.txBoundary_of_not_due h, State.sendHeader_headers]

/-- R52, R53: whether or not an announcement stands, the header fields follow what the countdown leaves. -/
theorem State.boundaryHeader_sending (s : State) (w : Wing) :
    ((s.boundaryHeader w).tx.get w).sending =
      { (((s.takeTxValues w).countDown w).tx.get w).sending with
        ackSent := (((s.takeTxValues w).countDown w).tx.get w).ackWant } :=
  State.newHeader_sending ..

/-- R52: a boundary of a standing announcement. -/
theorem State.txBoundary_counts {s : State} {w : Wing} (standing : s.flag .TXW_LINE_NEXT_ANN_VALID [w.n] = true)
    (old : (s.tx.get w).fresh = false) :
    (s.txBoundary w).rd .TXW_LINE_NEXT_COUNTDOWN [w.n] = (s.rd .TXW_LINE_NEXT_COUNTDOWN [w.n] - 1) % 256 ∧
      ((s.txBoundary w).tx.get w).sending =
        ⟨decide (s.rd .TXW_LINE_NEXT_COUNTDOWN [w.n] ≤ 1), (s.tx.get w).ackWant, (s.tx.get w).sent,
          (s.tx.get w).wantHdrLoss⟩ ∧
      (s.txBoundary w).flag .RXW_HDR_STAT_HDR_LOSS_TX [w.n] = (s.tx.get w).wantHdrLoss ∧
      (s.txBoundary w).flag .ELC_HS_STAT_ICM_RC [w.n] = s.icmRcDue w := by
  have counted : (s.takeTxValues w).countDown w = _ := State.countDown_of_standing (s := s.takeTxValues w) standing old
  have tx : ((s.takeTxValues w).countDown w).tx.get w =
      (s.tx.get w).counted (s.rd .TXW_LINE_NEXT_COUNTDOWN [w.n]) := by
    rw [counted, State.wr_tx, State.onTx_tx, get_set]
    rfl
  refine ⟨?_, ?_, ?_, ?_⟩
  · rw [State.rd_txBoundary, State.boundaryHeader, State.rd_newHeader _ _ (by decide +kernel) (by decide), counted,
      State.rd_wr_self]
    rfl
  · rw [State.txBoundary_sending, State.boundaryHeader_sending, tx]
    rfl
  · rw [State.flag, State.rd_txBoundary, ← State.flag, State.boundaryHeader, State.newHeader_hdrLoss, tx]
    rfl
  · rw [State.flag, State.rd_txBoundary, ← State.flag, State.boundaryHeader, State.newHeader_icmRc]
    refine State.icmRcDue_congr (by rw [tx]; rfl) fun r hr => ?_
    rw [counted, State.rd_wr_ne _ (by revert r; decide)]
    rfl

/-- R52: a boundary without an announcement. -/
theorem State.txBoundary_idle {s : State} {w : Wing} (unannounced : s.flag .TXW_LINE_NEXT_ANN_VALID [w.n] = false) :
    ((s.txBoundary w).tx.get w).sending = { (s.tx.get w).sending with ackSent := (s.tx.get w).ackWant } := by
  have idle : (s.takeTxValues w).countDown w = s.takeTxValues w :=
    State.countDown_of_none (s := s.takeTxValues w) unannounced
  rw [State.txBoundary_sending, State.boundaryHeader_sending, idle]
  rfl

/-! ### The superframe that begins (R84, R156) -/

theorem superframeBoundaryTx_answers {s : State} {w : Wing} (runs : s.wingRuns w = true) {shaped : Nat}
    {P : State → Prop} (hP : P (((s.begin.countClipped w shaped).carry w).txBoundary w)) :
    Answers (.superframeBoundaryTx w shaped) s P := by
  have runs' : s.begin.wingRuns w = true := runs
  refine ⟨_, ?_, hP⟩
  rw [exec_superframeBoundaryTx, execSuperframeBoundaryTx, if_pos runs']

/-- R156: the information bits that a superframe had no room for. -/
def Carried.leftOver (c : Carried) : List Bool := c.info.drop (infoBits c.n c.fec)

/-- R156, R158: the superframe that begins at the present time under the pair in force, with the bits left over. -/
def State.begun (s : State) (w : Wing) : Carried :=
  ⟨s.mt, (s.curPair w).1, (s.curPair w).2, ((s.tx.get w).sent.head?.map Carried.leftOver).getD []⟩

theorem match_head (f : Carried → List Bool) (l : List Carried) :
    (match l with
      | c :: _ => f c
      | [] => []) = (l.head?.map f).getD [] := by
  cases l with
  | nil => rfl
  | cons c rest => rfl

theorem State.carry_eq (s : State) (w : Wing) :
    s.carry w = s.onTx w (fun t => { t with sent := s.begun w :: t.sent }) := by
  rw [State.begun, ← match_head]
  rfl

theorem State.carry_tx (s : State) (w : Wing) :
    (s.carry w).tx.get w = { s.tx.get w with sent := s.begun w :: (s.tx.get w).sent } := by
  rw [State.carry_eq, State.onTx_tx, get_set]

theorem State.countClipped_tx (s : State) (w : Wing) (shaped : Nat) : (s.countClipped w shaped).tx = s.tx :=
  (s.count_framed ..).2 .tx (by decide)

theorem State.rd_countClipped (s : State) (w : Wing) (shaped : Nat) {r : Row} (h : Row.TXW_CLIP_CNT_COUNT.id ≠ r.id)
    (ix : List Nat) : (s.countClipped w shaped).rd r ix = s.rd r ix :=
  State.rd_count_ne _ h _ _ _

theorem State.begun_countClipped (s : State) (w : Wing) (shaped : Nat) :
    (s.countClipped w shaped).begun w = s.begun w := by
  have kept {r : Row} (h : Row.TXW_CLIP_CNT_COUNT.id ≠ r.id) := s.rd_countClipped w shaped h
  simp only [State.begun, State.mt, State.rdWide, State.curPair, s.countClipped_tx w shaped,
    kept (r := .REF_MT_LO_MT) (by decide), kept (r := .REF_MT_HI_MT) (by decide),
    kept (r := .TXW_LINE_CUR_H_IDX) (by decide), kept (r := .TXW_LINE_CUR_FEC) (by decide)]

/-- What a boundary finds: the superframe that ends has been counted and the one that begins has been opened. -/
theorem State.opened_tx (s : State) (w : Wing) (shaped : Nat) :
    ((s.begin.countClipped w shaped).carry w).tx.get w =
      { s.tx.get w with sent := s.begun w :: (s.tx.get w).sent } := by
  rw [State.carry_tx, State.begun_countClipped, State.countClipped_tx]
  rfl

theorem State.rd_opened (s : State) (w : Wing) (shaped : Nat) {r : Row} (h : Row.TXW_CLIP_CNT_COUNT.id ≠ r.id)
    (ix : List Nat) : ((s.begin.countClipped w shaped).carry w).rd r ix = s.rd r ix := by
  rw [State.carry_eq, State.onTx_rd, State.rd_countClipped _ _ _ h, State.begin_rd]

/-- R84: the clipped samples of the superframe that ends are counted, and the boundary keeps the count. -/
theorem State.boundary_clips (s : State) (w : Wing) (shaped : Nat) :
    (((s.begin.countClipped w shaped).carry w).txBoundary w).rd .TXW_CLIP_CNT_COUNT [w.n] =
      satAdd Row.TXW_CLIP_CNT_COUNT.width (s.rd .TXW_CLIP_CNT_COUNT [w.n]) (s.clipCount w shaped) := by
  rw [(State.txBoundary_within (.refl _ _) (covers_self _) w).keeps (by decide +kernel), State.carry_eq, State.onTx_rd,
    State.countClipped, State.rd_count_self]
  rfl

/-! ### What the boundary's command leaves -/

/-- R52, R53, R84: SUPERFRAME_BOUNDARY_TX while an announcement stands. -/
theorem superframeBoundaryTx_counts (s : State) (w : Wing) (shaped : Nat) (runs : s.wingRuns w = true)
    (standing : s.flag .TXW_LINE_NEXT_ANN_VALID [w.n] = true) (old : (s.tx.get w).fresh = false) :
    Answers (.superframeBoundaryTx w shaped) s (fun t =>
      t.rd .TXW_LINE_NEXT_COUNTDOWN [w.n] = (s.rd .TXW_LINE_NEXT_COUNTDOWN [w.n] - 1) % 256 ∧
      (t.tx.get w).switchDue = decide (s.rd .TXW_LINE_NEXT_COUNTDOWN [w.n] ≤ 1) ∧
      t.flag .RXW_HDR_STAT_HDR_LOSS_TX [w.n] = (s.tx.get w).wantHdrLoss ∧
      (t.tx.get w).ackSent = (s.tx.get w).ackWant ∧ t.flag .ELC_HS_STAT_ICM_RC [w.n] = s.icmRcDue w ∧
      (t.tx.get w).sent.head? = some (s.begun w) ∧
      (1 < s.rd .TXW_LINE_NEXT_COUNTDOWN [w.n] → (t.tx.get w).headers = (List.range 64).map (t.txHeader w)) ∧
      t.rd .TXW_CLIP_CNT_COUNT [w.n] =
        satAdd Row.TXW_CLIP_CNT_COUNT.width (s.rd .TXW_CLIP_CNT_COUNT [w.n]) (s.clipCount w shaped)) := by
  refine superframeBoundaryTx_answers runs ?_
  have tx := s.opened_tx w shaped
  have kept {r : Row} (h : Row.TXW_CLIP_CNT_COUNT.id ≠ r.id) := s.rd_opened w shaped h
  have clips := s.boundary_clips w shaped
  generalize (s.begin.countClipped w shaped).carry w = p at tx kept clips ⊢
  obtain ⟨countdown, sending, loss, request⟩ := State.txBoundary_counts (s := p) (w := w)
    (by rw [State.flag, kept (by decide)]; exact standing) (by rw [tx]; exact old)
  have due : p.icmRcDue w = s.icmRcDue w :=
    State.icmRcDue_congr (by rw [tx]) fun r hr => kept (by revert r; decide) _
  rw [kept (by decide), tx] at sending
  refine ⟨?_, congrArg Sending.switchDue sending, ?_, congrArg Sending.ackSent sending, request.trans due, ?_, ?_,
    clips⟩
  · rw [countdown, kept (by decide)]
  · rw [loss, tx]
  · exact congrArg (fun x => x.sent.head?) sending
  · intro more
    refine State.txBoundary_headers ?_
    rw [← State.txBoundary_sending, sending]
    exact decide_eq_false (Nat.not_le.mpr more)

/-- R52, R84: SUPERFRAME_BOUNDARY_TX without an announcement. -/
theorem superframeBoundaryTx_idle (s : State) (w : Wing) (shaped : Nat) (runs : s.wingRuns w = true)
    (unannounced : s.flag .TXW_LINE_NEXT_ANN_VALID [w.n] = false) :
    Answers (.superframeBoundaryTx w shaped) s (fun t => (t.tx.get w).switchDue = (s.tx.get w).switchDue ∧
      (t.tx.get w).ackSent = (s.tx.get w).ackWant ∧ (t.tx.get w).sent.head? = some (s.begun w) ∧
      t.rd .TXW_CLIP_CNT_COUNT [w.n] =
        satAdd Row.TXW_CLIP_CNT_COUNT.width (s.rd .TXW_CLIP_CNT_COUNT [w.n]) (s.clipCount w shaped)) := by
  refine superframeBoundaryTx_answers runs ?_
  have still : ((s.begin.countClipped w shaped).carry w).flag .TXW_LINE_NEXT_ANN_VALID [w.n] = false := by
    rw [State.flag, s.rd_opened w shaped (by decide)]
    exact unannounced
  have sending := State.txBoundary_idle still
  rw [s.opened_tx w shaped] at sending
  exact ⟨congrArg Sending.switchDue sending, congrArg Sending.ackSent sending,
    congrArg (fun x => x.sent.head?) sending, s.boundary_clips w shaped⟩

end Sys2Proof.Machine
end

section
/-!
Received carrier frames (R49, R50, R53, R54, R59, R68, R109): alignment, misses, headers taken and the note for soft
demapping.
-/

namespace Sys2Proof.Machine

-- The row tests below are large kernel evaluations: one theorem at a time bounds the memory of the whole text's check.
set_option Elab.async false

/-! ### What `π` shows of a wing's receive line -/

/-- What `π` shows of a wing's receive line is the same in two states. -/
def State.RxSame {α : Type} (π : RxLine → α) (w : Wing) (s t : State) : Prop := π (t.rx.get w) = π (s.rx.get w)

section

variable {α : Type} {π : RxLine → α} {w : Wing} {s₀ s : State}

theorem State.RxSame.refl (π : RxLine → α) (w : Wing) (s : State) : s.RxSame π w s := rfl

theorem State.RxSame.shows {t : State} (h : s.RxSame π w t) : π (t.rx.get w) = π (s.rx.get w) := h

theorem State.RxSame.trans {t : State} (h : s₀.RxSame π w s) (k : s.RxSame π w t) : s₀.RxSame π w t := Eq.trans k h

theorem State.RxSame.of_rx {t : State} (h : s₀.RxSame π w s) (k : t.rx = s.rx) : s₀.RxSame π w t :=
  h.trans (congrArg (fun x : PerWing RxLine => π (x.get w)) k)

theorem State.RxSame.within {M : Nat} {t : State} (h : s₀.RxSame π w s) (k : Within M s t)
    (hp : M.testBit Part.rx.n = false) : s₀.RxSame π w t := h.of_rx (k.part .rx hp)

theorem State.RxSame.onRx {f : RxLine → RxLine} (h : s₀.RxSame π w s)
    (hf : ∀ r, π (f r) = π r := by intro _; rfl) :
    s₀.RxSame π w (s.onRx w f) := by
  refine h.trans ?_
  rw [State.RxSame, State.onRx_rx, get_set, hf]

theorem State.RxSame.when {f : State → State} (h : s₀.RxSame π w s) (hf : s.RxSame π w (f s)) (c : Bool) :
    s₀.RxSame π w (s.when c f) := by
  cases c
  · exact h
  · exact h.trans hf

theorem State.RxSame.onTx (h : s₀.RxSame π w s) (f : TxRate → TxRate) : s₀.RxSame π w (s.onTx w f) := h

theorem State.RxSame.onDec (h : s₀.RxSame π w s) (f : Decoder → Decoder) : s₀.RxSame π w (s.onDec w f) := h

theorem State.RxSame.wrb (h : s₀.RxSame π w s) (r : Row) (ix : List Nat) (b : Bool) : s₀.RxSame π w (s.wrb r ix b) := h

theorem State.RxSame.count (h : s₀.RxSame π w s) (r : Row) (ix : List Nat) (n : Nat) :
    s₀.RxSame π w (s.count r ix n) := h.of_rx (State.count_rx ..)

theorem State.RxSame.countWrap (h : s₀.RxSame π w s) (r : Row) (ix : List Nat) (n : Nat) :
    s₀.RxSame π w (s.countWrap r ix n) := by
  refine h.of_rx ?_
  unfold State.countWrap
  obtain e | e := (s.wr r ix (s.rd r ix + n)).mirrored_eq r ix n
  · rw [e, State.wr_rx]
  · rw [e]
    rfl

/-- R184: a change of what RX_HS shows. -/
theorem State.RxSame.onRxHs {f : RxLine → RxLine} (h : s₀.RxSame π w s)
    (hf : ∀ r, π (f r) = π r := by intro _; rfl) :
    s₀.RxSame π w (s.onRxHs w f) := by
  have changed := h.onRx hf
  unfold State.onRxHs
  dsimp only
  split
  · exact changed
  · exact changed.within (State.showRxHs_within (.refl _ _) (covers_self _) w) (by decide +kernel)

end

/-! ### What a superframe's header leaves of the receive line -/

/-- R53: the frames without a header, and the header taken. -/
structure Heading where
  noHeader : Nat
  taken : Option Header

def RxLine.heading (r : RxLine) : Heading := ⟨r.noHeader, r.taken⟩

/-- R53, R54: where the frames lie, and what came with them. -/
structure Framing where
  position : Nat
  misses : Nat
  frame : Nat
  heading : Heading

def RxLine.framing (r : RxLine) : Framing := ⟨r.position, r.misses, r.frame, r.heading⟩

section

variable {w : Wing} {s₀ s : State}

theorem State.RxSame.setActiveMap (h : s₀.RxSame RxLine.heading w s) (m : List Nat) :
    s₀.RxSame RxLine.heading w (s.setActiveMap w m) := by
  have abandoned (t : State) (f : State → Nat → Bool) : Within State.rxAbandon_touch t
      (t.upTo 32 (fun u c => u.when (f u c) (·.rxAbandon (chanIndex w c)))) :=
    State.upTo_within (.refl _ t) (fun u c => State.when_within (.refl _ u)
      (fun v => State.rxAbandon_within (.refl _ v) (covers_self _) _) _) _
  exact h.onRx.within (abandoned _ _) (by decide +kernel)

theorem State.RxSame.dropAnn (h : s₀.RxSame RxLine.heading w s) (rest : Nat) :
    s₀.RxSame RxLine.heading w (s.dropAnn w rest) := h.onRxHs.onTx _

theorem State.RxSame.foundMismatch (h : s₀.RxSame RxLine.heading w s) (cause : Nat) :
    s₀.RxSame RxLine.heading w (s.foundMismatch w cause) := h.onRx

theorem State.RxSame.takeCur (h : s₀.RxSame RxLine.heading w s) (x : Header) :
    s₀.RxSame RxLine.heading w (s.takeCur w x) :=
  h.within (State.takeCur_within (.refl _ s) (covers_self _) w x) (by decide +kernel)

theorem State.RxSame.followFloor (h : s₀.RxSame RxLine.heading w s) (x : Header) :
    s₀.RxSame RxLine.heading w (s.followFloor w x) := by
  have follows := (((h.takeCur x).wrb .RXW_HDR_STAT_MAP_VALID [w.n] false).setActiveMap []).dropAnn 5
  unfold State.followFloor
  dsimp only
  split
  · exact follows.onRx
  · exact follows.onRx.within (State.pull_within (.refl _ _) (covers_self _) w 5) (by decide +kernel)

theorem State.RxSame.checkCur (h : s₀.RxSame RxLine.heading w s) (x : Header) :
    s₀.RxSame RxLine.heading w (s.checkCur w x) := by
  have expected : s₀.RxSame RxLine.heading w (s.onRx w (fun r => { r with expect := none })) := h.onRx
  unfold State.checkCur
  dsimp only
  split
  · exact expected
  split
  · exact expected.onRx
  split
  · exact expected.foundMismatch 1
  split
  · exact expected.takeCur x
  · exact (expected.onRx).when ((State.RxSame.refl _ w _).foundMismatch 3) _

theorem State.RxSame.trackAnn (h : s₀.RxSame RxLine.heading w s) (x : Header) :
    s₀.RxSame RxLine.heading w (s.trackAnn w x) := by
  unfold State.trackAnn
  dsimp only
  split
  · exact ((h.onRxHs).when ((State.RxSame.refl _ w _).dropAnn 1) _).onRx
  split
  · exact h.dropAnn _
  · exact h

/-! ### Segments of slot maps (R55 to R57, R183) -/

theorem State.RxSame.adoptMap (h : s₀.RxSame RxLine.heading w s) (x : Header) (p : MapParts) (m : List Nat) :
    s₀.RxSame RxLine.heading w (s.adoptMap w x p m) := by
  have begun : s₀.RxSame RxLine.heading w (s.onRx w (fun r => { r with cur := none })) := h.onRx
  unfold State.adoptMap
  dsimp only
  split
  · have mapped := begun.within (State.setRxMap_within (.refl _ _) (covers_self _) w m) (by decide +kernel)
    exact ((mapped.wrb _ _ _).setActiveMap m).onDec _
  · exact begun.wrb _ _ _

theorem State.RxSame.curSegment (h : s₀.RxSame RxLine.heading w s) (x : Header) :
    s₀.RxSame RxLine.heading w (s.curSegment w x) := by
  unfold State.curSegment
  dsimp only
  split
  · split
    · exact h
    · exact (h.wrb .RXW_HDR_STAT_MAP_DISAGREE [w.n] true).foundMismatch 2
  split
  · exact h
  split
  · exact h.adoptMap ..
  · exact h.onRx

theorem State.RxSame.judgeAnn (h : s₀.RxSame RxLine.heading w s) (x : Header) (p : MapParts) (m : List Nat) :
    s₀.RxSame RxLine.heading w (s.judgeAnn w x p m) := by
  have complete : s₀.RxSame RxLine.heading w (s.onRxHs w (fun r => { r with complete := true })) :=
    h.onRxHs
  unfold State.judgeAnn
  dsimp only
  split
  · exact ((complete.when ((State.RxSame.refl _ w _).wrb _ _ _) _).onRxHs).onTx _
  · exact ((complete.when ((State.RxSame.refl _ w _).wrb _ _ _) _).countWrap _ _ _).onRxHs

theorem State.RxSame.annSegment (h : s₀.RxSame RxLine.heading w s) (x : Header) :
    s₀.RxSame RxLine.heading w (s.annSegment w x) := by
  unfold State.annSegment
  dsimp only
  split
  · exact h
  split
  · exact State.RxSame.judgeAnn (h.onRx) ..
  · exact h.onRx

theorem State.RxSame.takeSegment (h : s₀.RxSame RxLine.heading w s) (x : Header) :
    s₀.RxSame RxLine.heading w (s.takeSegment w x) := by
  unfold State.takeSegment
  split
  · exact h.curSegment x
  · exact h.annSegment x

/-! ### The receive DSP (R106 to R109) -/

theorem State.RxSame.frameSignal (h : s₀.RxSame RxLine.framing w s) (adc : List (List Int)) :
    s₀.RxSame RxLine.framing w (s.frameSignal w adc) := by
  have passed : s.RxSame RxLine.framing w (s.passDsp w adc) :=
    (State.RxSame.refl _ w s).onRx.when ((State.RxSame.refl _ w _).count _ _ _) _
  exact (h.when passed _).when (State.RxSame.refl _ w _).onRx _

end

/-! ### Alignment (R53, R54) -/

/-- R54: an aligned receiver's next frame. -/
def RxLine.nextFrame (r : RxLine) (corr : Nat) : RxLine :=
  { r with
    frame := (r.frame + 1) % 64
    sfCount := if r.frame = 63 then r.sfCount + 1 else r.sfCount
    misses := if atPeak corr then 0 else r.misses + 1 }

theorem State.alignFrame_of_aligned {s : State} {w : Wing} (h : s.flag .RXW_HDR_STAT_CF_ALIGNED [w.n] = true)
    (pos corr : Nat) : s.alignFrame w pos corr = s.onRx w (·.nextFrame corr) := if_pos h

/-- R54: the receive line of a receiver newly aligned at a position. -/
def RxLine.aligned (r : RxLine) (pos : Nat) : RxLine :=
  { r with candidate := 0, position := pos, misses := 0, lastNo := none, stray := false }

/-- R54: a second peak at one position is carrier-frame alignment. -/
theorem State.alignFrame_of_second {s : State} {w : Wing} {pos corr : Nat}
    (h : s.flag .RXW_HDR_STAT_CF_ALIGNED [w.n] = false) (searches : s.searches w = true) (peak : 500 ≤ corr)
    (again : (s.rx.get w).candidate = pos + 1) :
    s.alignFrame w pos corr = (s.wrb .RXW_HDR_STAT_CF_ALIGNED [w.n] true).onRx w (·.aligned pos) := by
  have found : (s.searches w && atPeak corr) = true := by rw [searches, atPeak, decide_eq_true peak]; rfl
  have unaligned : ¬s.flag .RXW_HDR_STAT_CF_ALIGNED [w.n] = true := by rw [h]; exact Bool.false_ne_true
  exact (if_neg unaligned).trans ((if_pos found).trans (if_pos again))

/-! ### The command -/

theorem carrierFrameRx_answers {s : State} {w : Wing} {pos corr : Nat} {hdr : Option HeaderRx} {adc : List (List Int)}
    (runs : s.wingRuns w = true) (takes : s.ignoresPeak w pos = false) {P : State → Prop}
    (hP : P ((((s.begin.noteFrame w).alignFrame w pos corr).frameHeader w hdr).frameSignal w adc)) :
    Answers (.carrierFrameRx w pos corr hdr adc) s P := by
  have goes : ¬(!s.begin.wingRuns w || s.begin.ignoresPeak w pos) = true := by
    change ¬(!s.wingRuns w || s.ignoresPeak w pos) = true
    rw [runs, takes]
    exact Bool.false_ne_true
  refine ⟨_, ?_, hP⟩
  rw [exec_carrierFrameRx, execCarrierFrameRx, if_neg goes]

/-- R54, R70: an aligned receiver ignores a peak at another position. -/
theorem carrierFrameRx_ignored {s : State} {w : Wing} {pos : Nat}
    (aligned : s.flag .RXW_HDR_STAT_CF_ALIGNED [w.n] = true) (elsewhere : pos ≠ (s.rx.get w).position) (corr : Nat)
    (hdr : Option HeaderRx) (adc : List (List Int)) :
    Answers (.carrierFrameRx w pos corr hdr adc) s (fun t => t.rx = s.rx ∧ t.store = s.store) := by
  have ignores : (!s.begin.wingRuns w || s.begin.ignoresPeak w pos) = true := by
    change (!s.wingRuns w || s.ignoresPeak w pos) = true
    rw [State.ignoresPeak, aligned, bne_iff_ne.mpr elsewhere, Bool.and_true, Bool.or_true]
  refine ⟨s.begin, ?_, rfl, rfl⟩
  rw [exec_carrierFrameRx, execCarrierFrameRx, if_pos ignores]

theorem State.takes_at_position {s : State} {w : Wing} {pos : Nat} (here : pos = (s.rx.get w).position) :
    s.ignoresPeak w pos = false := by
  rw [State.ignoresPeak, here, bne_self_eq_false, Bool.and_false]

theorem State.takes_unaligned {s : State} {w : Wing} (h : s.flag .RXW_HDR_STAT_CF_ALIGNED [w.n] = false) (pos : Nat) :
    s.ignoresPeak w pos = false := by
  rw [State.ignoresPeak, h, Bool.false_and]

/-! ### A frame without a valid header (R53, R109) -/

/-- R53: one more frame without a valid header. -/
def RxLine.missHeader (r : RxLine) : RxLine := { r with noHeader := min 64 (r.noHeader + 1) }

theorem State.noHeader_of_aligned {s : State} {w : Wing} (h : s.flag .RXW_HDR_STAT_CF_ALIGNED [w.n] = true) :
    s.noHeader w = (s.count .RXW_HDR_ERR_HDR_CRC [w.n]).onRx w RxLine.missHeader := by
  rw [State.noHeader, h, State.when_true]
  rfl

theorem State.rd_frameSignal (s : State) (w : Wing) (adc : List (List Int)) {r : Row}
    (k : spares State.frameSignal_touch r = true) (ix : List Nat) : (s.frameSignal w adc).rd r ix = s.rd r ix :=
  (State.frameSignal_within (.refl _ s) (covers_self _) w adc).keeps k ix

/-- R109: the newest note is the one of the frame just measured. -/
theorem State.measureNoise_prior {s : State} {w : Wing} (h : s.flag .RXW_HDR_STAT_CF_ALIGNED [w.n] = true) :
    ((s.measureNoise w).rx.get w).notes.head?.map (fun f => f.prior) = some (s.flag .RXW_DEMAP_CFG_PRIOR_EN [w.n]) := by
  rw [State.measureNoise, h, State.when_true, State.onRx_rx, get_set]
  rfl

theorem State.frameSignal_prior {s : State} {w : Wing} (h : s.flag .RXW_HDR_STAT_CF_ALIGNED [w.n] = true)
    (adc : List (List Int)) : ((s.frameSignal w adc).rx.get w).notes.head?.map (fun f => f.prior) =
      some (s.flag .RXW_DEMAP_CFG_PRIOR_EN [w.n]) := by
  have passed := State.when_within (.refl State.passDsp_touch s)
    (fun t => State.passDsp_within (.refl _ t) (covers_self _) w adc) (s.dspRuns w)
  rw [State.frameSignal, State.measureNoise_prior ((passed.keepsFlag (by decide +kernel) _).trans h),
    passed.keepsFlag (by decide +kernel)]

theorem State.noteFrame_framing (s : State) (w : Wing) :
    ((s.begin.noteFrame w).rx.get w).framing = (s.rx.get w).framing := by
  have noted : s.begin.RxSame RxLine.framing w (s.begin.noteFrame w) := (State.RxSame.refl _ w s.begin).onRx
  exact noted

theorem RxLine.nextFrame_framing (r : RxLine) (corr : Nat) : (r.nextFrame corr).framing =
    { r.framing with
      frame := (r.framing.frame + 1) % 64
      misses := if 500 ≤ corr then 0 else r.framing.misses + 1 } := by
  simp [RxLine.framing, RxLine.nextFrame, RxLine.heading, atPeak]

theorem RxLine.missHeader_framing (r : RxLine) : r.missHeader.framing = { r.framing with
    heading := { r.framing.heading with noHeader := min 64 (r.framing.heading.noHeader + 1) } } := rfl

/-- R53, R109: what an aligned receiver makes of a frame without a valid header. -/
theorem State.missed_shows {s : State} {w : Wing} (aligned : s.flag .RXW_HDR_STAT_CF_ALIGNED [w.n] = true)
    (adc : List (List Int)) :
    (((s.noHeader w).frameSignal w adc).rx.get w).framing = (s.rx.get w).missHeader.framing ∧
      ((s.noHeader w).frameSignal w adc).rd .RXW_HDR_ERR_HDR_CRC [w.n] =
        satAdd Row.RXW_HDR_ERR_HDR_CRC.width (s.rd .RXW_HDR_ERR_HDR_CRC [w.n]) 1 ∧
      (((s.noHeader w).frameSignal w adc).rx.get w).notes.head?.map (fun f => f.prior) =
        some (s.flag .RXW_DEMAP_CFG_PRIOR_EN [w.n]) := by
  have counted {r : Row} (h : Row.RXW_HDR_ERR_HDR_CRC.id ≠ r.id) : (s.noHeader w).flag r [w.n] = s.flag r [w.n] := by
    rw [State.noHeader_of_aligned aligned, State.onRx_flag, State.flag, State.rd_count_ne _ h, State.flag]
  have signalled : (((s.noHeader w).frameSignal w adc).rx.get w).framing = ((s.noHeader w).rx.get w).framing :=
    (State.RxSame.refl RxLine.framing w (s.noHeader w)).frameSignal adc
  refine ⟨?_, ?_, ?_⟩
  · rw [signalled, State.noHeader_of_aligned aligned, State.onRx_rx, get_set, State.count_rx]
  · rw [State.rd_frameSignal _ _ _ (by decide +kernel), State.noHeader_of_aligned aligned, State.onRx_rd,
      State.rd_count_self]
  · rw [State.frameSignal_prior ((counted (by decide)).trans aligned), counted (by decide)]

/-- R53, R54, R109: an aligned receiver's frame at the expected position, without a valid header. -/
theorem carrierFrameRx_missed {s : State} {w : Wing} {pos : Nat} (runs : s.wingRuns w = true)
    (aligned : s.flag .RXW_HDR_STAT_CF_ALIGNED [w.n] = true) (here : pos = (s.rx.get w).position) (corr : Nat)
    (adc : List (List Int)) :
    Answers (.carrierFrameRx w pos corr none adc) s (fun t =>
      (t.rx.get w).misses = (if 500 ≤ corr then 0 else (s.rx.get w).misses + 1) ∧
      (t.rx.get w).noHeader = min 64 ((s.rx.get w).noHeader + 1) ∧
      (t.rx.get w).frame = ((s.rx.get w).frame + 1) % 64 ∧
      t.rd .RXW_HDR_ERR_HDR_CRC [w.n] = satAdd Row.RXW_HDR_ERR_HDR_CRC.width (s.rd .RXW_HDR_ERR_HDR_CRC [w.n]) 1 ∧
      (t.rx.get w).notes.head?.map (fun f => f.prior) = some (s.flag .RXW_DEMAP_CFG_PRIOR_EN [w.n])) := by
  refine carrierFrameRx_answers runs (State.takes_at_position here) ?_
  rw [State.alignFrame_of_aligned (s := s.begin.noteFrame w) aligned]
  obtain ⟨framing, count, prior⟩ :=
    State.missed_shows (s := (s.begin.noteFrame w).onRx w (·.nextFrame corr)) aligned adc
  rw [State.onRx_rx, get_set, RxLine.missHeader_framing, RxLine.nextFrame_framing, State.noteFrame_framing] at framing
  exact ⟨congrArg Framing.misses framing, congrArg (fun f => f.heading.noHeader) framing,
    congrArg Framing.frame framing, count, prior⟩

/-- R54: the second peak at one position aligns the receiver there. -/
theorem carrierFrameRx_aligns {s : State} {w : Wing} {pos corr : Nat} (runs : s.wingRuns w = true)
    (unaligned : s.flag .RXW_HDR_STAT_CF_ALIGNED [w.n] = false) (searches : s.searches w = true) (peak : 500 ≤ corr)
    (again : (s.rx.get w).candidate = pos + 1) (adc : List (List Int)) :
    Answers (.carrierFrameRx w pos corr none adc) s (fun t =>
      t.flag .RXW_HDR_STAT_CF_ALIGNED [w.n] = true ∧ (t.rx.get w).position = pos) := by
  refine carrierFrameRx_answers runs (State.takes_unaligned unaligned pos) ?_
  have candidate : ((s.begin.noteFrame w).rx.get w).candidate = pos + 1 := by
    rw [State.noteFrame, State.onRx_rx, get_set]
    exact again
  have aligns := State.alignFrame_of_second (s := s.begin.noteFrame w) unaligned searches peak candidate
  have aligned : ((s.begin.noteFrame w).alignFrame w pos corr).flag .RXW_HDR_STAT_CF_ALIGNED [w.n] = true := by
    rw [aligns, State.onRx_flag]
    exact State.flag_wrb_self _ _ _ _ (by decide)
  have position : (((s.begin.noteFrame w).alignFrame w pos corr).rx.get w).position = pos := by
    rw [aligns, State.onRx_rx, get_set]
    rfl
  obtain ⟨framing, -, -⟩ := State.missed_shows aligned adc
  refine ⟨?_, (congrArg Framing.position framing).trans position⟩
  rw [State.flag, State.rd_frameSignal _ _ _ (by decide +kernel)]
  change (((s.begin.noteFrame w).alignFrame w pos corr).noHeader w).flag .RXW_HDR_STAT_CF_ALIGNED [w.n] = true
  rw [State.noHeader_of_aligned aligned, State.onRx_flag, State.flag, State.rd_count_ne _ (by decide)]
  exact aligned

/-! ### A frame with a superframe's first valid header (R53, R59, R68) -/

/-- R53, R186, R187: what is done with a header that has been taken. -/
def State.heedHeader (s : State) (w : Wing) (h : Header) (rise : Bool) : State :=
  ((((s.when rise (·.followFloor w h)).checkCur w h).checkFloor w h).trackAnn w h).headerControl w h

/-- R53: the receive line after a header has been taken. -/
def RxLine.withHeader (r : RxLine) (h : Header) : RxLine := { r with taken := some h, held := some h }

/-- R53: a superframe's first valid header. -/
theorem State.takeHeader_eq (s : State) (w : Wing) (h : Header) :
    s.takeHeader w h = (((s.showHeader w h).checkBaud w h).onRx w (·.withHeader h)).heedHeader w h
      (h.floor && !s.flag .RXW_HDR_STAT_FLOOR_RX [w.n]) := rfl

/-- What `State.heedHeader` may write. -/
def State.heedHeader_touch : Nat :=
  union [State.followFloor_touch, State.checkCur_touch, State.checkFloor_touch, State.trackAnn_touch,
    State.headerControl_touch]

theorem State.heedHeader_within (s : State) (w : Wing) (h : Header) (rise : Bool) :
    Within State.heedHeader_touch s (s.heedHeader w h rise) := by
  have k := covers_self State.heedHeader_touch
  rw [State.heedHeader_touch] at k
  simp only [covers_union] at k
  obtain ⟨follow, cur, floor, ann, control, -⟩ := k
  exact State.headerControl_within (State.trackAnn_within (State.checkFloor_within (State.checkCur_within
    (State.when_within (.refl _ s) (fun t => State.followFloor_within (.refl _ t) follow w h) rise) cur w h) floor w h)
    ann w h) control w h

theorem State.RxSame.heedHeader {w : Wing} {s₀ s : State} (same : s₀.RxSame RxLine.heading w s) (h : Header)
    (rise : Bool) : s₀.RxSame RxLine.heading w (s.heedHeader w h rise) := by
  have followed := same.when (f := (·.followFloor w h)) ((State.RxSame.refl _ w s).followFloor h) rise
  have checked := (followed.checkCur h).within (State.checkFloor_within (.refl _ _) (covers_self _) w h)
    (by decide +kernel)
  exact (checked.trackAnn h).within (State.headerControl_within (.refl _ _) (covers_self _) w h) (by decide +kernel)

/-- R68: what HDR_STAT shows of a header. -/
theorem State.showHeader_shows (s : State) (w : Wing) (h : Header) :
    (s.showHeader w h).flag .RXW_HDR_STAT_HDR_LOSS_RX [w.n] = h.hdrLoss ∧
      (s.showHeader w h).rd .RXW_HDR_STAT_QL_RX [w.n] = h.ql % 16 := by
  refine ⟨?_, ?_⟩
  · rw [State.showHeader, (State.showCand_within (.refl _ _) (covers_self _) _).keepsFlag (by decide +kernel),
      State.flag, State.rd_wr_ne _ (by decide), State.rd_wr_ne _ (by decide)]
    exact State.flag_wrb_self _ _ _ _ (by decide)
  · rw [State.showHeader, (State.showCand_within (.refl _ _) (covers_self _) _).keeps (by decide +kernel),
      State.rd_wr_ne _ (by decide), State.rd_wr_self]
    rfl

/-- R59: a BAUD that differs from the configured rate is a mismatch. -/
theorem State.checkBaud_mismatch {s : State} {w : Wing} {h : Header} (differs : h.baud ≠ s.rd .RXW_RATE_BAUD [w.n]) :
    (s.checkBaud w h).flag .RXW_HDR_STAT_BAUD_MISM [w.n] = true := by
  unfold State.checkBaud
  dsimp only
  split
  · rename_i known
    simpa [differs] using known
  · rw [State.flag, State.emit_keeps _ _ _ _ _ _ _ _ (by decide), State.onRx_rd]
    exact State.flag_wrb_self _ _ _ _ (by decide)

theorem State.RxSame.checkBaud {w : Wing} {s₀ s : State} (same : s₀.RxSame RxLine.heading w s) (h : Header) :
    s₀.RxSame RxLine.heading w (s.checkBaud w h) := by
  unfold State.checkBaud
  dsimp only
  split
  · exact same
  · exact (same.wrb _ _ _).onRx.within (State.emit_within (.refl _ _) (covers_self _) ..) (by decide +kernel)

/-- R53: a frame with a valid header. -/
def RxLine.heardHeader (r : RxLine) : RxLine := { r with noHeader := 0 }

/-- R53: a superframe-aligned receiver stays so through a header. -/
theorem State.alignSf_aligned {s : State} {w : Wing} (h : s.flag .RXW_HDR_STAT_SF_ALIGNED [w.n] = true) (no : Nat) :
    (s.alignSf w no).flag .RXW_HDR_STAT_SF_ALIGNED [w.n] = true := by
  unfold State.alignSf
  simp only [State.onRx_flag, h, Bool.not_true, Bool.false_eq_true, if_false]
  split
  · exact h
  split
  · rw [State.onRx_flag, State.flag, State.rd_count_ne _ (by decide), State.onRx_rd]
    exact h
  · exact h

theorem State.RxSame.alignSf {w : Wing} {s₀ s : State} (same : s₀.RxSame RxLine.heading w s) (no : Nat) :
    s₀.RxSame RxLine.heading w (s.alignSf w no) := by
  have last : s₀.RxSame RxLine.heading w (s.onRx w (fun r => { r with lastNo := some no })) := same.onRx
  unfold State.alignSf
  dsimp only
  split
  · split
    · exact (last.wrb _ _ _).onRx
    · exact last
  split
  · exact last.onRx
  split
  · exact (last.count _ _ _).onRx
  · exact last.onRx

/-- R53: the first valid header of a superframe of an aligned receiver is taken, with its segment. -/
theorem State.goodHeader_of_first {s : State} {w : Wing} (aligned : s.flag .RXW_HDR_STAT_SF_ALIGNED [w.n] = true)
    (fresh : (s.rx.get w).taken = none) (h : Header) :
    s.goodHeader w h = (((s.onRx w RxLine.heardHeader).alignSf w h.frameNo).takeHeader w h).takeSegment
      w h := by
  have still : ((s.onRx w RxLine.heardHeader).alignSf w h.frameNo).flag .RXW_HDR_STAT_SF_ALIGNED
      [w.n] = true := State.alignSf_aligned (s := s.onRx w _) aligned _
  have heading := (State.RxSame.refl RxLine.heading w (s.onRx w RxLine.heardHeader)).alignSf h.frameNo
  have untaken : (((s.onRx w RxLine.heardHeader).alignSf w h.frameNo).rx.get w).taken = none := by
    refine (congrArg Heading.taken heading).trans ?_
    rw [State.onRx_rx, get_set]
    exact fresh
  delta RxLine.heardHeader at still untaken ⊢
  unfold State.goodHeader
  simp only [still, untaken, Bool.not_true, Bool.false_eq_true, if_false]

/-- R53: a header taken leaves the count of frames without one. -/
theorem State.takeHeader_heading (s : State) (w : Wing) (h : Header) :
    ((s.takeHeader w h).rx.get w).heading = ⟨(s.rx.get w).noHeader, some h⟩ := by
  have seen : s.RxSame RxLine.heading w ((s.showHeader w h).checkBaud w h) :=
    ((State.RxSame.refl _ w s).within (State.showHeader_within (.refl _ s) (covers_self _) w h)
      (by decide +kernel)).checkBaud h
  rw [State.takeHeader_eq]
  refine ((State.RxSame.refl RxLine.heading w _).heedHeader h _).shows.trans ?_
  rw [State.onRx_rx, get_set]
  exact congrArg (fun x : Heading => { x with taken := some h }) seen

/-- R59, R68: what a header taken shows. -/
theorem State.takeHeader_shows (s : State) (w : Wing) (h : Header) :
    (s.takeHeader w h).flag .RXW_HDR_STAT_HDR_LOSS_RX [w.n] = h.hdrLoss ∧
      (s.takeHeader w h).rd .RXW_HDR_STAT_QL_RX [w.n] = h.ql % 16 ∧
      (h.baud ≠ s.rd .RXW_RATE_BAUD [w.n] → (s.takeHeader w h).flag .RXW_HDR_STAT_BAUD_MISM [w.n] = true) := by
  obtain ⟨loss, ql⟩ := s.showHeader_shows w h
  have checked := State.checkBaud_within (.refl _ (s.showHeader w h)) (covers_self _) w h
  have heeded := State.heedHeader_within (((s.showHeader w h).checkBaud w h).onRx w (·.withHeader h)) w h
    (h.floor && !s.flag .RXW_HDR_STAT_FLOOR_RX [w.n])
  rw [← State.takeHeader_eq] at heeded
  refine ⟨?_, ?_, fun differs => ?_⟩
  · rw [heeded.keepsFlag (by decide +kernel), State.onRx_flag, checked.keepsFlag (by decide +kernel), loss]
  · rw [heeded.keeps (by decide +kernel), State.onRx_rd, checked.keeps (by decide +kernel), ql]
  · rw [heeded.keepsFlag (by decide +kernel), State.onRx_flag]
    refine State.checkBaud_mismatch ?_
    rw [(State.showHeader_within (.refl _ s) (covers_self _) w h).keeps (by decide +kernel)]
    exact differs

/-- R53, R59, R68: what an aligned receiver makes of a superframe's first valid header. -/
theorem State.goodHeader_takes {s : State} {w : Wing} (aligned : s.flag .RXW_HDR_STAT_SF_ALIGNED [w.n] = true)
    (fresh : (s.rx.get w).taken = none) (h : Header) :
    ((s.goodHeader w h).rx.get w).heading = ⟨0, some h⟩ ∧
      (s.goodHeader w h).flag .RXW_HDR_STAT_HDR_LOSS_RX [w.n] = h.hdrLoss ∧
      (s.goodHeader w h).rd .RXW_HDR_STAT_QL_RX [w.n] = h.ql % 16 ∧
      (h.baud ≠ s.rd .RXW_RATE_BAUD [w.n] → (s.goodHeader w h).flag .RXW_HDR_STAT_BAUD_MISM [w.n] = true) := by
  have heard : (((s.onRx w RxLine.heardHeader).alignSf w h.frameNo).rx.get w).noHeader = 0 := by
    have same := (State.RxSame.refl RxLine.heading w (s.onRx w RxLine.heardHeader)).alignSf h.frameNo
    refine (congrArg Heading.noHeader same).trans ?_
    rw [State.onRx_rx, get_set]
    rfl
  have baud : ((s.onRx w RxLine.heardHeader).alignSf w h.frameNo).rd .RXW_RATE_BAUD [w.n] =
      s.rd .RXW_RATE_BAUD [w.n] :=
    (State.alignSf_within (.refl _ (s.onRx w _)) (covers_self _) w h.frameNo).keeps (by decide +kernel) _
  rw [State.goodHeader_of_first aligned fresh]
  generalize (s.onRx w RxLine.heardHeader).alignSf w h.frameNo = p at heard baud ⊢
  have segment := State.takeSegment_within (.refl _ (p.takeHeader w h)) (covers_self _) w h
  obtain ⟨loss, ql, mismatch⟩ := p.takeHeader_shows w h
  refine ⟨?_, ?_, ?_, fun differs => ?_⟩
  · refine ((State.RxSame.refl RxLine.heading w (p.takeHeader w h)).takeSegment h).shows.trans ?_
    rw [State.takeHeader_heading, heard]
  · rw [segment.keepsFlag (by decide +kernel), loss]
  · rw [segment.keeps (by decide +kernel), ql]
  · rw [segment.keepsFlag (by decide +kernel)]
    exact mismatch (by rw [baud]; exact differs)

/-- R53, R59, R68: an aligned receiver's frame at the expected position with the superframe's first valid header. -/
theorem carrierFrameRx_takes {s : State} {w : Wing} {pos : Nat} (runs : s.wingRuns w = true)
    (aligned : s.flag .RXW_HDR_STAT_CF_ALIGNED [w.n] = true) (here : pos = (s.rx.get w).position) (corr : Nat)
    {f : HeaderRx} (valid : headerOk (rxHeader f) = true)
    (superframe : s.flag .RXW_HDR_STAT_SF_ALIGNED [w.n] = true) (fresh : (s.rx.get w).taken = none)
    (adc : List (List Int)) :
    Answers (.carrierFrameRx w pos corr (some f) adc) s (fun t => (t.rx.get w).noHeader = 0 ∧
      (t.rx.get w).taken = some (rxHeader f) ∧
      t.flag .RXW_HDR_STAT_HDR_LOSS_RX [w.n] = (rxHeader f).hdrLoss ∧
      t.rd .RXW_HDR_STAT_QL_RX [w.n] = (rxHeader f).ql % 16 ∧
      ((rxHeader f).baud ≠ s.rd .RXW_RATE_BAUD [w.n] → t.flag .RXW_HDR_STAT_BAUD_MISM [w.n] = true)) := by
  refine carrierFrameRx_answers runs (State.takes_at_position here) ?_
  rw [State.alignFrame_of_aligned (s := s.begin.noteFrame w) aligned]
  have fresh' : (((s.begin.noteFrame w).onRx w (·.nextFrame corr)).rx.get w).taken = none := by
    rw [State.onRx_rx, get_set, State.noteFrame, State.onRx_rx, get_set]
    exact fresh
  have good : ((s.begin.noteFrame w).onRx w (·.nextFrame corr)).frameHeader w (some f) =
      ((s.begin.noteFrame w).onRx w (·.nextFrame corr)).goodHeader w (rxHeader f) :=
    if_pos (Bool.and_eq_true_iff.mpr ⟨aligned, valid⟩)
  rw [good]
  obtain ⟨heading, loss, ql, mismatch⟩ :=
    State.goodHeader_takes (s := (s.begin.noteFrame w).onRx w (·.nextFrame corr)) superframe fresh' (rxHeader f)
  generalize ((s.begin.noteFrame w).onRx w (·.nextFrame corr)).goodHeader w (rxHeader f) = p
    at heading loss ql mismatch ⊢
  have signal := State.frameSignal_within (.refl _ p) (covers_self _) w adc
  have framing : ((p.frameSignal w adc).rx.get w).framing = (p.rx.get w).framing :=
    (State.RxSame.refl RxLine.framing w p).frameSignal adc
  have still := (congrArg Framing.heading framing).trans heading
  refine ⟨congrArg Heading.noHeader still, congrArg Heading.taken still, ?_, ?_, fun differs => ?_⟩
  · rw [signal.keepsFlag (by decide +kernel), loss]
  · rw [signal.keeps (by decide +kernel), ql]
  · rw [signal.keepsFlag (by decide +kernel)]
    exact mismatch differs

end Sys2Proof.Machine
end

section
/-!
The received superframe boundary and the receiver's switch (R53, R184), and O11.
-/

namespace Sys2Proof.Machine

-- The row tests below are large kernel evaluations: one theorem at a time bounds the memory of the whole text's check.
set_option Elab.async false

/-! ### HDR_LOSS (R53) -/

theorem hdrLossSet_wants {s : State} {w : Wing} (enough : 64 ≤ (s.rx.get w).noHeader) :
    Answers (.hdrLossSet w) s (fun t => (t.tx.get w).wantHdrLoss = true) := by
  have lost : decide (64 ≤ (s.begin.rx.get w).noHeader) = true := decide_eq_true enough
  refine ⟨_, by rw [exec_hdrLossSet, execHdrLossSet, if_pos lost], by simp⟩

theorem hdrLossClear_wants {s : State} {w : Wing} (enough : 2 ≤ (s.rx.get w).goodSf) :
    Answers (.hdrLossClear w) s (fun t => (t.tx.get w).wantHdrLoss = false) := by
  have heard : decide (2 ≤ (s.begin.rx.get w).goodSf) = true := decide_eq_true enough
  refine ⟨_, by rw [exec_hdrLossClear, execHdrLossClear, if_pos heard], by simp⟩

/-! ### The received boundary (R53, R98, R184) -/

/-- R53, R184: what a received boundary counts. -/
structure Superframe where
  taken : Option Header
  goodSf : Nat
  record : Option AnnRecord

def RxLine.superframe (r : RxLine) : Superframe := ⟨r.taken, r.goodSf, r.record⟩

section

variable {w : Wing} {s₀ s : State}

theorem State.RxSame.countFigures (h : s₀.RxSame RxLine.superframe w s) (m : SuperframeRx) :
    s₀.RxSame RxLine.superframe w (s.countFigures w m) := h.when (State.RxSame.refl _ w _).onRx _

theorem State.RxSame.sp2Mode (h : s₀.RxSame RxLine.superframe w s) : s₀.RxSame RxLine.superframe w (s.sp2Mode w) := by
  have cancelled := h.within (State.sp2Cancel_within (.refl _ s) (covers_self _) w) (by decide +kernel)
  have requested (t : State) : t.RxSame RxLine.superframe w (t.sp2Request w) :=
    (State.RxSame.refl _ w t).within (State.sp2Request_within (.refl _ t) (covers_self _) w) (by decide +kernel)
  unfold State.sp2Mode
  dsimp only
  split
  · exact h.onRx.when (requested _) _
  split
  · exact h
  · exact cancelled.when (State.RxSame.refl _ w _).onRx _

theorem State.RxSame.lossRuns (h : s₀.RxSame RxLine.superframe w s) : s₀.RxSame RxLine.superframe w (s.lossRuns w) :=
  h.onRx

theorem State.RxSame.lossTrigger (h : s₀.RxSame RxLine.superframe w s) :
    s₀.RxSame RxLine.superframe w (s.lossTrigger w) := by
  unfold State.lossTrigger
  dsimp only
  split
  · exact h.onRx.within (State.pull_within (.refl _ _) (covers_self _) w 6) (by decide +kernel)
  · exact h

end

/-- R98: what comes before the boundary's own counts. -/
def State.beforeCounts (s : State) (w : Wing) : State :=
  ((((((s.releaseUse (0x11 + 0x10 * w.n)).releaseUse (0x13 + 0x10 * w.n)).sp2Mode w).showRxHs w).lossRuns w).lossTrigger
    w)

theorem State.RxSame.beforeCounts {w : Wing} {s₀ s : State} (h : s₀.RxSame RxLine.superframe w s) :
    s₀.RxSame RxLine.superframe w (s.beforeCounts w) := by
  have released : s₀.RxSame RxLine.superframe w
    ((s.releaseUse (0x11 + 0x10 * w.n)).releaseUse (0x13 + 0x10 * w.n)) := h
  exact ((released.sp2Mode.within (State.showRxHs_within (.refl _ _) (covers_self _) w)
    (by decide +kernel)).lossRuns).lossTrigger

/-- R53, R184: the receiver's counts at a boundary. -/
theorem RxLine.boundary_counts (r : RxLine) :
    r.boundary.taken = none ∧
      r.boundary.goodSf = (if r.superframe.taken.isSome then r.superframe.goodSf + 1 else 0) ∧
      r.boundary.record = r.superframe.record.map (fun a => { a with countdown := a.countdown - 1 }) ∧
      r.boundary.switchDue = r.superframe.record.any (fun a => decide (a.countdown ≤ 1)) := by
  refine ⟨rfl, rfl, ?_, ?_⟩
  · unfold RxLine.boundary RxLine.superframe
    cases r.record <;> rfl
  · unfold RxLine.boundary RxLine.superframe
    cases r.record <;> rfl

/-- R53, R110: the receive line after a boundary, where the superframe that ended was of the pair `p`. -/
def RxLine.endSuperframe (r : RxLine) (p : Nat × Nat) : RxLine := { r.boundary with earlier := p, inSf := 0 }

theorem State.rxBoundary_eq (s : State) (w : Wing) :
    ∃ p, s.rxBoundary w = ((s.beforeCounts w).onRx w (·.endSuperframe p)).fecBoundary w := ⟨_, rfl⟩

/-- R98: SUPERFRAME_BOUNDARY_RX. -/
theorem superframeBoundaryRx_counts {s : State} {w : Wing} (runs : s.wingRuns w = true) (m : SuperframeRx) :
    Answers (.superframeBoundaryRx w m) s (fun t => (t.rx.get w).taken = none ∧
      (t.rx.get w).goodSf = (if (s.rx.get w).taken.isSome then (s.rx.get w).goodSf + 1 else 0) ∧
      (t.rx.get w).record = (s.rx.get w).record.map (fun a => { a with countdown := a.countdown - 1 }) ∧
      (t.rx.get w).switchDue = (s.rx.get w).record.any (fun a => decide (a.countdown ≤ 1))) := by
  have runs' : s.begin.wingRuns w = true := runs
  obtain ⟨p, ends⟩ := ((s.begin.countFigures w m).follow w m).rxBoundary_eq w
  refine ⟨_, by rw [exec_superframeBoundaryRx, execSuperframeBoundaryRx, if_pos runs', ends], ?_⟩
  have counted : s.begin.RxSame RxLine.superframe w (((s.begin.countFigures w m).follow w m).beforeCounts w) :=
    (((State.RxSame.refl _ w s.begin).countFigures m).within (State.follow_within (.refl _ _) (covers_self _) w m)
      (by decide +kernel)).beforeCounts
  generalize ((s.begin.countFigures w m).follow w m).beforeCounts w = u at counted ⊢
  have rx : ((u.onRx w (·.endSuperframe p)).fecBoundary w).rx.get w = (u.rx.get w).endSuperframe p := by
    have kept : ((u.onRx w (·.endSuperframe p)).fecBoundary w).rx = (u.onRx w (·.endSuperframe p)).rx :=
      (State.fecBoundary_within (.refl _ _) (covers_self _) w).part .rx (by decide +kernel)
    rw [kept, State.onRx_rx, get_set]
  obtain ⟨taken, goodSf, record, due⟩ := (u.rx.get w).boundary_counts
  rw [counted.shows] at goodSf record due
  beta_reduce
  rw [rx]
  exact ⟨taken, goodSf, record, due⟩

/-! ### The receiver's switch (R184) -/

theorem rxRateSwitch_answers {s : State} {w : Wing} {a : AnnRecord} (due : (s.rx.get w).switchDue = true)
    (recorded : (s.rx.get w).record = some a) {P : State → Prop} (hP : P (s.begin.switchRx w a)) :
    Answers (.rxRateSwitch w) s P := by
  have begun : (s.begin.rx.get w).switchDue = true ∧ (s.begin.rx.get w).record = some a := ⟨due, recorded⟩
  refine ⟨_, ?_, hP⟩
  rw [exec_rxRateSwitch, execRxRateSwitch]
  simp only [begun]

theorem State.onRxHs_rx (s : State) (w : Wing) (f : RxLine → RxLine) : (s.onRxHs w f).rx = (s.onRx w f).rx := by
  unfold State.onRxHs
  dsimp only
  split
  · rfl
  · exact (State.showRxHs_within (.refl _ _) (covers_self _) w).part .rx (by decide +kernel)

/-- R184: no announcement is held any more. -/
theorem State.dropAnn_record (s : State) (w : Wing) (rest : Nat) : ((s.dropAnn w rest).rx.get w).record = none := by
  rw [State.dropAnn, State.onTx_rx, State.onRxHs_rx, State.onRx_rx, get_set]

theorem State.switchRx_line (s : State) (w : Wing) (a : AnnRecord) :
    ((s.switchRx w a).rx.get w).record = none ∧ ((s.switchRx w a).rx.get w).sinceSwitch = 0 := by
  unfold State.switchRx
  dsimp only
  rw [State.onRx_rx, get_set]
  exact ⟨State.dropAnn_record .., rfl⟩

/-- R184: the recorded pair and slots are in force. -/
def State.takeRecorded (s : State) (w : Wing) (a : AnnRecord) : State :=
  (s.setRxLineCur w (s.rd .RXW_LINE_CUR_BAUD [w.n]) a.h a.fec a.slots).showRxAcct w

theorem State.takeRecorded_shows (s : State) (w : Wing) (a : AnnRecord) :
    (s.takeRecorded w a).rd .RXW_LINE_CUR_H_IDX [w.n] = a.h % 128 ∧
      (s.takeRecorded w a).rd .RXW_LINE_CUR_FEC [w.n] = a.fec % 2 := by
  have account (t : State) := State.showRxAcct_within (.refl _ t) (covers_self _) w
  refine ⟨?_, ?_⟩
  · rw [State.takeRecorded, (account _).keeps (by decide +kernel), State.setRxLineCur, State.rd_wr_ne _ (by decide),
      State.rd_wr_ne _ (by decide), State.rd_wr_ne _ (by decide), State.rd_wr_self]
    rfl
  · rw [State.takeRecorded, (account _).keeps (by decide +kernel), State.setRxLineCur, State.rd_wr_ne _ (by decide),
      State.rd_wr_ne _ (by decide), State.rd_wr_self]
    rfl

/-- R184: the pair of the announcement is in force after the switch. -/
theorem State.switchRx_pair (s : State) (w : Wing) (a : AnnRecord) :
    (s.switchRx w a).rd .RXW_LINE_CUR_H_IDX [w.n] = a.h % 128 ∧
      (s.switchRx w a).rd .RXW_LINE_CUR_FEC [w.n] = a.fec % 2 := by
  have later {r : Row} (ann : spares State.dropAnn_touch r = true) (active : spares State.setActiveMap_touch r = true)
      (map : spares State.setRxMap_touch r = true) (valid : Row.RXW_HDR_STAT_MAP_VALID.id ≠ r.id) :
      (s.switchRx w a).rd r [w.n] = (s.takeRecorded w a).rd r [w.n] := by
    unfold State.switchRx
    dsimp only
    rw [State.onRx_rd, (State.dropAnn_within (.refl _ _) (covers_self _) w _).keeps ann]
    split
    · rw [(State.setActiveMap_within (.refl _ _) (covers_self _) w _).keeps active,
        (State.setRxMap_within (.refl _ _) (covers_self _) w _).keeps map]
      rfl
    · rw [(State.setActiveMap_within (.refl _ _) (covers_self _) w _).keeps active, State.wrb, State.rd_wr_ne _ valid]
      rfl
  obtain ⟨index, profile⟩ := s.takeRecorded_shows w a
  refine ⟨?_, ?_⟩
  · rw [later (by decide +kernel) (by decide +kernel) (by decide +kernel) (by decide), index]
  · rw [later (by decide +kernel) (by decide +kernel) (by decide +kernel) (by decide), profile]

/-- R184: without the announced map MAP_VALID falls. -/
theorem State.switchRx_unmapped {s : State} {w : Wing} (h : (s.rx.get w).ann = none) (a : AnnRecord) :
    (s.switchRx w a).flag .RXW_HDR_STAT_MAP_VALID [w.n] = false := by
  unfold State.switchRx
  simp only [h]
  rw [State.onRx_flag, (State.dropAnn_within (.refl _ _) (covers_self _) w _).keepsFlag (by decide +kernel),
    (State.setActiveMap_within (.refl _ _) (covers_self _) w _).keepsFlag (by decide +kernel)]
  exact State.flag_wrb_self _ _ _ _ (by decide)

/-! ### The obligation -/

/-- Settles O11: each clause by the rule of its command. The clipped samples are those of the shaped samples that the
command carries, by the model's own arithmetic of the waveform (assumption 49); the information bits that a superframe
had no room for open the next (assumption 48). -/
theorem carrierFramesAndSuperframes : Obligations.CarrierFramesAndSuperframes := by
  unfold Obligations.CarrierFramesAndSuperframes
  intro s w
  refine ⟨?counts, ?idle, ?lossSet, ?lossClear, ?missed, ?ignored, ?aligns, ?takes, ?boundary, ?switch⟩
  case counts => exact fun shaped runs standing old => superframeBoundaryTx_counts s w shaped runs standing old
  case idle => exact fun shaped runs unannounced => superframeBoundaryTx_idle s w shaped runs unannounced
  case lossSet => exact hdrLossSet_wants
  case lossClear => exact hdrLossClear_wants
  case missed => exact fun pos corr adc runs aligned here => carrierFrameRx_missed runs aligned here corr adc
  case ignored => exact fun pos corr hdr adc aligned elsewhere => carrierFrameRx_ignored aligned elsewhere corr hdr adc
  case aligns =>
    exact fun pos corr adc runs unaligned searches peak again =>
      carrierFrameRx_aligns runs unaligned searches peak again adc
  case takes =>
    exact fun pos corr f adc runs aligned here valid superframe fresh =>
      carrierFrameRx_takes runs aligned here corr valid superframe fresh adc
  case boundary => exact fun m runs => superframeBoundaryRx_counts runs m
  case switch =>
    intro a due recorded
    refine rxRateSwitch_answers due recorded ?_
    obtain ⟨index, profile⟩ := s.begin.switchRx_pair w a
    obtain ⟨record, since⟩ := s.begin.switchRx_line w a
    exact ⟨index, profile, record, since, fun unmapped => State.switchRx_unmapped (s := s.begin) unmapped a⟩

end Sys2Proof.Machine
end

section
/-!
The optical engine (R86 to R93): what its operations show, and what they leave alone of the engine's own state.
-/

namespace Sys2Proof.Machine

-- The row tests below are large kernel evaluations: one theorem at a time bounds the memory of the whole text's check.
set_option Elab.async false

/-! ### Operations that leave the engines' own state alone -/

@[simp] theorem State.wrb_opt (s : State) (r : Row) (ix : List Nat) (b : Bool) : (s.wrb r ix b).opt = s.opt := rfl

@[simp] theorem State.wrS_opt (s : State) (r : Row) (ix : List Nat) (i : Int) : (s.wrS r ix i).opt = s.opt := rfl

@[simp] theorem State.startDac_opt (s : State) (w : Wing) : (s.startDac w).opt = s.opt := rfl

/-- R405: beside registers an event touches only what the request of a vector does. -/
theorem State.evt_same (s : State) (r : Row) (ix : List Nat) (b : Nat) {p : Part} (h : p ∉ [.out, .host, .pmu]) :
    p.same s (s.evt r ix b) := by
  unfold State.evt
  split
  · exact p.same_refl s
  · have rung : p.same (s.bit r ix b) ((s.bit r ix b).ring (evtVector r ix)) :=
      (Within.framed (rs := bellRows) (State.ring_within (.refl _ _) (covers_of_test (by decide +kernel)) _)).2 p h
    have written : p.same s (s.bit r ix b) := by cases p <;> rfl
    exact Part.same_trans written rung

@[simp] theorem State.evt_opt (s : State) (r : Row) (ix : List Nat) (b : Nat) : (s.evt r ix b).opt = s.opt :=
  s.evt_same r ix b (p := .opt) (by decide)

@[simp] theorem State.evt_inuse (s : State) (r : Row) (ix : List Nat) (b : Nat) : (s.evt r ix b).inuse = s.inuse :=
  s.evt_same r ix b (p := .inuse) (by decide)

@[simp] theorem State.evt_conv (s : State) (r : Row) (ix : List Nat) (b : Nat) : (s.evt r ix b).conv = s.conv :=
  s.evt_same r ix b (p := .conv) (by decide)

@[simp] theorem State.icmRefresh_opt (s : State) (w : Wing) : (s.icmRefresh w).opt = s.opt :=
  (State.icmRefresh_within (.refl _ s) (covers_self _) w).part .opt (by decide +kernel)

@[simp] theorem State.setOpt_opt (s : State) (w : Wing) (st : Nat) : (s.setOpt w st).opt = s.opt := by
  rw [State.setOpt, State.icmRefresh_opt, State.wr_opt]

/-- R357: whether the lasers are on is in no register but the wings' power states. -/
theorem State.opticsOn_wr (s : State) {r : Row} (ha : r.id ≠ Row.PWR_STATE_STAT_WING_A.id)
    (hb : r.id ≠ Row.PWR_STATE_STAT_WING_B.id) (ix : List Nat) (v : Nat) (w : Wing) :
    (s.wr r ix v).opticsOn w = s.opticsOn w := by
  have power : (s.wr r ix v).wingState w = s.wingState w := by
    cases w
    · exact State.rd_wr_ne _ ha ..
    · exact State.rd_wr_ne _ hb ..
  rw [State.opticsOn, power]
  rfl

/-! ### The state of the transmitter (R92) -/

/-- R92: the transmitter shows its new state. -/
theorem State.rd_setOpt (s : State) (w : Wing) (st : Nat) :
    (s.setOpt w st).rd .OPT_TX_STAT_STATE [w.n] = st % 8 := by
  rw [State.setOpt, (State.icmRefresh_within (.refl _ _) (covers_self _) w).keeps (by decide +kernel),
    State.rd_wr_self]
  rfl

/-- R91: what a change of R91's conditions can do: nothing, the start of a ramp-up in the dark, or a turned ramp. -/
theorem State.optEval_cases (s : State) (w : Wing) :
    s.optEval w = s ∨
      s.optState w = 0 ∧
        s.optEval w = (s.onOpt w (fun o => { o with level := s.darkLevel w, offMs := 0 })).setOpt w 2 ∨
      (s.optState w = 2 ∨ s.optState w = 3) ∧ s.optEval w = s.setOpt w 4 ∨
      s.optState w = 4 ∧ s.optEval w = s.setOpt w 2 := by
  unfold State.optEval
  split
  case h_1 dark =>
    split
    · exact .inr (.inl ⟨dark, rfl⟩)
    · exact .inl rfl
  case h_2 rising =>
    split
    · exact .inl rfl
    · exact .inr (.inr (.inl ⟨.inl rising, rfl⟩))
  case h_3 lit =>
    split
    · exact .inl rfl
    · exact .inr (.inr (.inl ⟨.inr lit, rfl⟩))
  case h_4 falling =>
    split
    · exact .inr (.inr (.inr ⟨falling, rfl⟩))
    · exact .inl rfl
  case h_5 => exact .inl rfl

/-- R91, R92: a dark transmitter stays dark or ramps up. -/
theorem State.rd_optEval_of_dark {s : State} {w : Wing} (dark : s.rd .OPT_TX_STAT_STATE [w.n] = 0) :
    (s.optEval w).rd .OPT_TX_STAT_STATE [w.n] = 0 ∨ (s.optEval w).rd .OPT_TX_STAT_STATE [w.n] = 2 := by
  have zero : s.optState w = 0 := dark
  obtain same | ⟨-, up⟩ | ⟨lit, -⟩ | ⟨falling, -⟩ := s.optEval_cases w
  · exact .inl (same.symm ▸ dark)
  · exact .inr (up ▸ State.rd_setOpt ..)
  · omega
  · omega

end Sys2Proof.Machine
end

section
/-!
The two lasers (R86 to R88, R92), and O12.
-/

namespace Sys2Proof.Machine

-- The row tests below are large kernel evaluations: one theorem at a time bounds the memory of the whole text's check.
set_option Elab.async false

/-! ### The fields of a tuning command (R86) -/

/-- R86: FINE shows what was written, at the nearer limit. -/
theorem State.rdS_wrS_fine (s : State) {r : Row} (hw : r.width = 12) (ix : List Nat) (fine : Int) :
    (s.wrS r ix (clampInt (-1500) 1500 fine)).rdS r ix = clampInt (-1500) 1500 fine := by
  refine State.rdS_wrS_self _ r ix (by omega) ?_ ?_ <;> rw [hw, clampInt] <;> omega

/-- R86: the ranges of both codes lie between these limits. -/
theorem State.chOk_bounds {s : State} {ch : Int} (h : s.chOk ch = true) : -2304 ≤ ch ∧ ch ≤ 976 := by
  rw [State.chOk, Bool.and_eq_true] at h
  obtain ⟨low, high⟩ := h
  replace low := of_decide_eq_true low
  replace high := of_decide_eq_true high
  unfold State.chRange at low high
  split at low <;> split at high <;> omega

/-- R86: CH shows a value of the code's range as it was written. -/
theorem State.rdS_wrS_ch (s : State) {t : State} {ch : Int} (ok : t.chOk ch = true) {r : Row} (hw : r.width = 13)
    (ix : List Nat) : (s.wrS r ix ch).rdS r ix = ch := by
  have bounds := State.chOk_bounds ok
  refine State.rdS_wrS_self _ r ix (by omega) ?_ ?_ <;> rw [hw] <;> omega

theorem State.chOk_wrS (s : State) {r : Row} (h : r.id ≠ Row.GLB_ID_VARIANT.id) (ix : List Nat) (i ch : Int) :
    (s.wrS r ix i).chOk ch = s.chOk ch := by
  rw [State.chOk, State.chRange, State.wrS, State.rd_wr_ne _ h, State.chOk, State.chRange]

theorem State.rdS_wrS_ne (s : State) {r x : Row} (h : r.id ≠ x.id) (ix jx : List Nat) (i : Int) :
    (s.wrS r ix i).rdS x jx = s.rdS x jx := by
  rw [State.rdS, State.wrS, State.rd_wr_ne _ h, State.rdS]

/-! ### A write of TX_FREQ or LO_FREQ (R86)

R86 gives both lasers one rule for FINE and CH, so what it says is proved once for either laser. -/

/-- The two lasers of a wing. -/
inductive Laser where
  | tx
  | lo

/-- FINE of TX_FREQ or LO_FREQ. -/
def Laser.fine : Laser → Row
  | .tx => .OPT_TX_FREQ_FINE
  | .lo => .OPT_LO_FREQ_FINE

/-- CH of TX_FREQ or LO_FREQ. -/
def Laser.ch : Laser → Row
  | .tx => .OPT_TX_FREQ_CH
  | .lo => .OPT_LO_FREQ_CH

/-- The event of a tuning that failed. -/
def Laser.fail : Laser → Row
  | .tx => .OPT_TX_EVT_TUNE_FAIL
  | .lo => .OPT_TX_EVT_LO_TUNE_FAIL

/-- R87, R88: what follows a new CH. -/
def Laser.newCh (w : Wing) (t : State) : Laser → State
  | .tx => (t.retune w).icmRefresh w
  | .lo =>
    if t.opticsOn w then ((t.tuneLo w).toWait w).icmRefresh w
    else t.onOpt w (fun o => { o with keptLo := false })

/-- FINE and a CH written together. -/
def State.writeFreq (s : State) (l : Laser) (w : Wing) (ch fine : Int) : State :=
  (s.wrS l.fine [w.n] (clampInt (-1500) 1500 fine)).wrS l.ch [w.n] ch

/-- R86: a write of the frequency of a laser. -/
def State.laserFreq (s : State) (l : Laser) (w : Wing) (ch fine : Int) : State :=
  if !s.chOk ch then (s.wrS l.fine [w.n] (clampInt (-1500) 1500 fine)).evt l.fail [w.n]
  else if s.rdS l.ch [w.n] = ch then s.wrS l.fine [w.n] (clampInt (-1500) 1500 fine)
  else l.newCh w (s.writeFreq l w ch fine)

theorem State.txFreq_eq (s : State) (w : Wing) (ch fine : Int) : s.txFreq w ch fine = s.laserFreq .tx w ch fine := by
  rw [State.txFreq, State.chOk_wrS _ (by decide), State.rdS_wrS_ne _ (by decide)]
  rfl

theorem State.loFreq_eq (s : State) (w : Wing) (ch fine : Int) : s.loFreq w ch fine = s.laserFreq .lo w ch fine := by
  rw [State.loFreq, State.chOk_wrS _ (by decide), State.rdS_wrS_ne _ (by decide)]
  rfl

section

variable {s : State} {l : Laser} {w : Wing} {ch : Int}

theorem State.laserFreq_refused (h : s.chOk ch = false) (fine : Int) : s.laserFreq l w ch fine =
    (s.wrS l.fine [w.n] (clampInt (-1500) 1500 fine)).evt l.fail [w.n] := by
  simp [State.laserFreq, h]

theorem State.laserFreq_same (h : s.chOk ch = true) (same : s.rdS l.ch [w.n] = ch) (fine : Int) :
    s.laserFreq l w ch fine = s.wrS l.fine [w.n] (clampInt (-1500) 1500 fine) := by
  simp [State.laserFreq, h, same]

theorem State.laserFreq_new (h : s.chOk ch = true) (new : s.rdS l.ch [w.n] ≠ ch) (fine : Int) :
    s.laserFreq l w ch fine = l.newCh w (s.writeFreq l w ch fine) := by
  simp [State.laserFreq, h, new]

/-- R87, R88: what follows a new CH writes neither field of the laser's frequency. -/
theorem Laser.rdS_newCh (l : Laser) (w : Wing) (t : State) {r : Row} (hr : r = l.fine ∨ r = l.ch) (ix : List Nat) :
    (l.newCh w t).rdS r ix = t.rdS r ix := by
  have refresh (u : State) := State.icmRefresh_within (.refl _ u) (covers_self _) w
  have retune := State.retune_within (.refl _ t) (covers_self _) w
  have tune := State.tuneLo_within (.refl _ t) (covers_self _) w
  have wait := State.toWait_within (.refl _ (t.tuneLo w)) (covers_self _) w
  unfold State.rdS
  cases l with
  | tx =>
    obtain rfl | rfl := hr
    all_goals rw [Laser.newCh, (refresh _).keeps (by decide +kernel), retune.keeps (by decide +kernel)]
  | lo =>
    rw [Laser.newCh]
    split
    · obtain rfl | rfl := hr
      all_goals rw [(refresh _).keeps (by decide +kernel), wait.keeps (by decide +kernel),
        tune.keeps (by decide +kernel)]
    · rfl

/-- R86: FINE is taken at the nearer limit, whatever becomes of CH. -/
theorem State.laserFreq_fine (s : State) (l : Laser) (w : Wing) (ch fine : Int) :
    (s.laserFreq l w ch fine).rdS l.fine [w.n] = clampInt (-1500) 1500 fine := by
  have shown := s.rdS_wrS_fine (r := l.fine) (by cases l <;> rfl) [w.n] fine
  cases h : s.chOk ch with
  | false =>
    rw [State.laserFreq_refused h, State.rdS, State.evt_keeps _ _ _ _ _ _ (by cases l <;> decide), ← State.rdS, shown]
  | true =>
    by_cases same : s.rdS l.ch [w.n] = ch
    · rw [State.laserFreq_same h same, shown]
    · rw [State.laserFreq_new h same, l.rdS_newCh w _ (.inl rfl), State.writeFreq,
        State.rdS_wrS_ne _ (by cases l <;> decide), shown]

/-- R86: a CH of the code's range is stored. -/
theorem State.laserFreq_stores (h : s.chOk ch = true) (fine : Int) : (s.laserFreq l w ch fine).rdS l.ch [w.n] = ch := by
  by_cases same : s.rdS l.ch [w.n] = ch
  · rw [State.laserFreq_same h same, State.rdS_wrS_ne _ (by cases l <;> decide), same]
  · rw [State.laserFreq_new h same, l.rdS_newCh w _ (.inr rfl), State.writeFreq,
      State.rdS_wrS_ch _ h (by cases l <;> rfl)]

/-- R86: a CH outside the code's range is not taken, and rings the laser's TUNE_FAIL. -/
theorem State.laserFreq_fails (h : s.chOk ch = false) (fine : Int) :
    (s.laserFreq l w ch fine).rd l.ch [w.n] = s.rd l.ch [w.n] ∧
      (s.laserFreq l w ch fine).flag l.fail [w.n] = true := by
  rw [State.laserFreq_refused h]
  refine ⟨?_, State.flag_evt_self _ _ _ (by cases l <;> rfl) (by cases l <;> decide)⟩
  rw [State.evt_keeps _ _ _ _ _ _ (by cases l <;> decide), State.wrS, State.rd_wr_ne _ (by cases l <;> decide)]

/-- The lasers are on after a write of the frequency as before it. -/
theorem State.writeFreq_opticsOn (s : State) (l : Laser) (w : Wing) (ch fine : Int) :
    (s.writeFreq l w ch fine).opticsOn w = s.opticsOn w := by
  have limit := s.opticsOn_wr (r := l.fine) (by cases l <;> decide) (by cases l <;> decide)
  have channel := (s.wrS l.fine [w.n] (clampInt (-1500) 1500 fine)).opticsOn_wr (r := l.ch) (by cases l <;> decide)
    (by cases l <;> decide)
  exact (channel ..).trans (limit ..)

/-- R87: a new CH while the transmitter is lit starts its ramp-down. -/
theorem State.txFreq_ramps_down (on : s.opticsOn w = true) (h : s.chOk ch = true)
    (new : s.rdS .OPT_TX_FREQ_CH [w.n] ≠ ch) (lit : s.optState w = 3) (fine : Int) :
    (s.txFreq w ch fine).rd .OPT_TX_STAT_STATE [w.n] = 4 ∧ ((s.txFreq w ch fine).opt.get w).retune = true := by
  have stillOn := (s.writeFreq_opticsOn .tx w ch fine).trans on
  have stillLit : (s.writeFreq .tx w ch fine).optState w = 3 :=
    ((State.rd_wr_ne _ (by decide) ..).trans (State.rd_wr_ne _ (by decide) ..)).trans lit
  have falls : (s.writeFreq .tx w ch fine).retune w =
      ((s.writeFreq .tx w ch fine).onOpt w (fun o => { o with retune := true })).setOpt w 4 := by
    simp [State.retune, stillOn, stillLit]
  rw [State.txFreq_eq, State.laserFreq_new (l := .tx) h new, Laser.newCh, falls]
  refine ⟨?_, by simp⟩
  rw [(State.icmRefresh_within (.refl _ _) (covers_self _) w).keeps (by decide +kernel), State.rd_setOpt]

/-- R88: a new CH takes the local oscillator out of lock, and the receiver waits. -/
theorem State.loFreq_retunes (on : s.opticsOn w = true) (h : s.chOk ch = true)
    (new : s.rdS .OPT_LO_FREQ_CH [w.n] ≠ ch) (fine : Int) :
    (s.loFreq w ch fine).flag .OPT_TX_STAT_LO_LOCKED [w.n] = false ∧
      (s.loFreq w ch fine).rd .RXW_RX_STAT_STATE [w.n] = 0 := by
  have stillOn := (s.writeFreq_opticsOn .lo w ch fine).trans on
  have waits := State.toWait_within (.refl _ ((s.writeFreq .lo w ch fine).tuneLo w)) (covers_self _) w
  have refreshed :=
    State.icmRefresh_within (.refl _ (((s.writeFreq .lo w ch fine).tuneLo w).toWait w)) (covers_self _) w
  rw [State.loFreq_eq, State.laserFreq_new (l := .lo) h new, Laser.newCh, if_pos stillOn]
  refine ⟨?_, ?_⟩
  · rw [refreshed.keepsFlag (by decide +kernel), waits.keepsFlag (by decide +kernel)]
    exact State.flag_wrb_self _ .OPT_TX_STAT_LO_LOCKED [w.n] false (by decide)
  · rw [refreshed.keeps (by decide +kernel), (State.toWait_waits ..).1]

end

/-! ### The outcome of a tuning (R88, R92) -/

section

variable {s : State} {w : Wing}

theorem txFreqWrite_answers {req : Req} (taken : s.takesFrom req = true) {ch fine : Int} {P : State → Prop}
    (hP : P (s.begin.txFreq w ch fine)) : Answers (.txFreqWrite req w ch fine) s P :=
  ⟨_, congrArg Host.Outcome.next (State.via_of_takesFrom (s := s.begin) taken _), hP⟩

theorem loFreqWrite_answers {req : Req} (taken : s.takesFrom req = true) {ch fine : Int} {P : State → Prop}
    (hP : P (s.begin.loFreq w ch fine)) : Answers (.loFreqWrite req w ch fine) s P :=
  ⟨_, congrArg Host.Outcome.next (State.via_of_takesFrom (s := s.begin) taken _), hP⟩

/-- R92: a laser that locks shows FREQ_LOCKED and TUNE_DONE, and its wing is dark or ramps up. -/
theorem txLaserLock_locks (tuning : s.optState w = 1) :
    Answers (.txLaserLock w) s (fun t => t.flag .OPT_TX_STAT_FREQ_LOCKED [w.n] = true ∧
      t.flag .OPT_TX_EVT_TUNE_DONE [w.n] = true ∧
      (t.rd .OPT_TX_STAT_STATE [w.n] = 0 ∨ t.rd .OPT_TX_STAT_STATE [w.n] = 2)) := by
  refine ⟨_, congrArg Host.Outcome.next (if_pos tuning), ?_, ?_, State.rd_optEval_of_dark (State.rd_setOpt _ w 0)⟩
  · rw [(State.optEval_within (.refl _ _) (covers_self _) w).keepsFlag (by decide +kernel),
      (State.setOpt_within (.refl _ _) (covers_self _) w _).keepsFlag (by decide +kernel),
      State.flag_evt_ne _ (by decide), State.flag_wrb_self _ _ _ _ (by decide)]
  · rw [(State.optEval_within (.refl _ _) (covers_self _) w).keepsFlag (by decide +kernel),
      (State.setOpt_within (.refl _ _) (covers_self _) w _).keepsFlag (by decide +kernel),
      State.flag_evt_self _ _ _ rfl (by decide)]

/-- R92: a laser that does not lock in time is in FAULT, with TUNE_FAIL. -/
theorem txTuneTimeout_fails (tuning : s.optState w = 1) :
    Answers (.txTuneTimeout w) s (fun t => t.rd .OPT_TX_STAT_STATE [w.n] = 6 ∧
      t.flag .OPT_TX_EVT_TUNE_FAIL [w.n] = true) := by
  refine ⟨_, congrArg Host.Outcome.next (if_pos tuning), State.rd_setOpt _ w 6, ?_⟩
  rw [(State.setOpt_within (.refl _ _) (covers_self _) w _).keepsFlag (by decide +kernel),
    State.flag_evt_self _ _ _ rfl (by decide)]

/-- R88: a local oscillator that locks shows it, and tunes no more. -/
theorem loTuneDone_locks (tuning : (s.opt.get w).loTuning = true) :
    Answers (.loTuneDone w) s (fun t => t.flag .OPT_TX_STAT_LO_LOCKED [w.n] = true ∧
      t.flag .OPT_TX_EVT_LO_TUNE_DONE [w.n] = true ∧ (t.opt.get w).loTuning = false) := by
  refine ⟨_, congrArg Host.Outcome.next (if_pos tuning), ?_, State.flag_evt_self _ _ _ rfl (by decide), by simp⟩
  rw [State.flag_evt_ne _ (by decide), State.flag_wrb_self _ _ _ _ (by decide)]

/-- R88: a local oscillator that does not lock rings LO_TUNE_FAIL, and tunes no more. -/
theorem loTuneFail_fails (tuning : (s.opt.get w).loTuning = true) :
    Answers (.loTuneFail w) s (fun t => t.flag .OPT_TX_EVT_LO_TUNE_FAIL [w.n] = true ∧
      (t.opt.get w).loTuning = false) :=
  ⟨_, congrArg Host.Outcome.next (if_pos tuning), State.flag_evt_self _ _ _ rfl (by decide), by simp⟩

end

/-! ### The obligation -/

/-- Settles O12: a write of a frequency by what becomes of FINE and of CH (R86), and each outcome of a tuning by the
rule of its command. -/
theorem lasersAndTuning : Obligations.LasersAndTuning := by
  unfold Obligations.LasersAndTuning
  intro s w
  refine ⟨?txWrite, ?rampDown, ?loWrite, txLaserLock_locks, txTuneTimeout_fails,
    fun tuning => ⟨loTuneDone_locks tuning, loTuneFail_fails tuning⟩⟩
  case txWrite =>
    intro req ch fine taken
    refine txFreqWrite_answers taken ?_
    rw [State.txFreq_eq]
    refine ⟨State.laserFreq_fine _ .tx .., ?_⟩
    split
    case isTrue ok => exact State.laserFreq_stores (s := s.begin) (l := .tx) ok fine
    case isFalse bad => exact State.laserFreq_fails (s := s.begin) (l := .tx) (Bool.eq_false_iff.mpr bad) fine
  case rampDown =>
    intro req ch fine taken on ok new lit
    exact txFreqWrite_answers taken (State.txFreq_ramps_down (s := s.begin) on ok new lit fine)
  case loWrite =>
    intro req ch fine taken
    refine loFreqWrite_answers taken ⟨?_, ?_⟩
    · rw [State.loFreq_eq]
      exact State.laserFreq_fine _ .lo ..
    · split
      case isTrue ok =>
        refine ⟨?_, fun on new => State.loFreq_retunes (s := s.begin) on ok new fine⟩
        rw [State.loFreq_eq]
        exact State.laserFreq_stores (s := s.begin) (l := .lo) ok fine
      case isFalse bad =>
        rw [State.loFreq_eq]
        exact State.laserFreq_fails (s := s.begin) (l := .lo) (Bool.eq_false_iff.mpr bad) fine

end Sys2Proof.Machine
end

section
/-!
The light: the power and the ramp (R89 to R91, R93), the TX_DIS pin (R92) and the end of a DAC calibration (R133, R134),
and O13.
-/

namespace Sys2Proof.Machine

-- The row tests below are large kernel evaluations: one theorem at a time bounds the memory of the whole text's check.
set_option Elab.async false

section

variable {s : State} {w : Wing}

/-! ### TX_CTL and what of it is in force (R91, R93) -/

theorem State.rd_takeTxCtl (s : State) (w : Wing) (r : Row) (ix : List Nat) : (s.takeTxCtl w).rd r ix = s.rd r ix := rfl

theorem State.ne_key_of_takeTxCtl {e : Nat × Nat} (h : e ∈ (s.takeTxCtl w).inuse) :
    ∀ r ∈ txCtlRows, e.1 ≠ r.key [w.n] := by
  simp only [State.takeTxCtl, txCtlRows, State.releaseOne, List.foldl_cons, List.foldl_nil, List.mem_filter,
    bne_iff_ne] at h
  obtain ⟨⟨⟨-, enable⟩, ramp⟩, power⟩ := h
  simp only [txCtlRows, List.forall_mem_cons]
  exact ⟨enable, ramp, power, by simp⟩

/-- R93: once TX_CTL has taken force, its fields are in use as they read. -/
theorem State.use_takeTxCtl (s : State) (w : Wing) {r : Row} (hr : r ∈ txCtlRows) :
    (s.takeTxCtl w).use r [w.n] = s.rd r [w.n] := by
  have released : tabFind (s.takeTxCtl w).inuse (r.key [w.n]) = none := by
    rw [tabFind, Option.map_eq_none_iff, List.find?_eq_none]
    intro e he same
    exact State.ne_key_of_takeTxCtl he r hr (eq_of_beq same)
  rw [State.use, released, State.rd_takeTxCtl]

theorem State.use_congr {t : State} (inuse : t.inuse = s.inuse) {r : Row} {ix : List Nat} (rd : t.rd r ix = s.rd r ix) :
    t.use r ix = s.use r ix := by
  rw [State.use, inuse, rd, State.use]

theorem State.target_congr {t : State} (inuse : t.inuse = s.inuse)
    (rd : t.rd .OPT_TX_CTL_POWER [w.n] = s.rd .OPT_TX_CTL_POWER [w.n]) : t.target w = s.target w := by
  rw [State.target, State.useS, State.use_congr inuse rd, State.target, State.useS]

/-- R40, R91: what is in use does not show in a register, so a write of TX_CTL reads as the writes of its fields. -/
theorem State.rd_txCtl (s : State) (w : Wing) (enable : Bool) (rampMs : Nat) (power : Int) (r : Row) (ix : List Nat) :
    (s.txCtl w enable rampMs power).rd r ix =
      ((((txCtlRows.foldl (fun s r => s.keepUse r [w.n]) s).wrS .OPT_TX_CTL_POWER [w.n] (clampInt (-1000) 400 power)).wr
        .OPT_TX_CTL_RAMP_MS [w.n] (max 1 (min 500 rampMs))).wrb .OPT_TX_CTL_ENABLE [w.n] enable).rd r ix :=
  State.rd_when (f := (·.takeTxCtl w)) (State.rd_takeTxCtl ..) _

theorem State.darkLevel_congr {t : State} (inuse : t.inuse = s.inuse)
    (rd : t.rd .OPT_TX_CTL_POWER [w.n] = s.rd .OPT_TX_CTL_POWER [w.n]) : t.darkLevel w = s.darkLevel w := by
  rw [State.darkLevel, State.target_congr inuse rd, State.darkLevel]

/-- R91: the fields of TX_CTL show what was written, the power and the time at their limits. -/
theorem State.txCtl_shows (s : State) (w : Wing) (enable : Bool) (rampMs : Nat) (power : Int) :
    (s.txCtl w enable rampMs power).flag .OPT_TX_CTL_ENABLE [w.n] = enable ∧
      (s.txCtl w enable rampMs power).rd .OPT_TX_CTL_RAMP_MS [w.n] = max 1 (min 500 rampMs) ∧
      (s.txCtl w enable rampMs power).rdS .OPT_TX_CTL_POWER [w.n] = clampInt (-1000) 400 power := by
  refine ⟨?_, ?_, ?_⟩
  · rw [State.flag, State.rd_txCtl]
    exact State.flag_wrb_self _ _ _ _ (by decide)
  · rw [State.rd_txCtl, State.wrb, State.rd_wr_ne _ (by decide), State.rd_wr_self]
    exact Nat.mod_eq_of_lt (by change _ < 512; omega)
  · rw [State.rdS, State.rd_txCtl, State.wrb, State.rd_wr_ne _ (by decide), State.rd_wr_ne _ (by decide)]
    refine State.rdS_wrS_self _ .OPT_TX_CTL_POWER _ (by decide) ?_ ?_
    · change -2048 ≤ _
      unfold clampInt
      omega
    · change _ < 2048
      unfold clampInt
      omega

/-! ### The end of a ramp (R90) -/

@[simp] theorem State.runDeferred_opt (s : State) : s.runDeferred.opt = s.opt :=
  (State.runDeferred_within (.refl _ s) (covers_self _)).part .opt (by decide +kernel)

@[simp] theorem State.icmAbort_opt (s : State) (w : Wing) : (s.icmAbort w).opt = s.opt :=
  (State.icmAbort_within (.refl _ s) (covers_self _) w).part .opt (by decide +kernel)

theorem State.goLit_shows (s : State) (w : Wing) :
    (s.goLit w).rd .OPT_TX_STAT_STATE [w.n] = 3 ∧ (s.goLit w).flag .OPT_TX_EVT_RAMP_DONE [w.n] = true ∧
      ((s.goLit w).opt.get w).level = (s.opt.get w).level := by
  have deferred (u : State) := State.runDeferred_within (.refl _ u) (covers_self _)
  refine ⟨?_, ?_, by simp [State.goLit]⟩
  · rw [State.goLit, (deferred _).keeps (by decide +kernel), State.rd_setOpt]
  · rw [State.goLit, (deferred _).keepsFlag (by decide +kernel),
      (State.setOpt_within (.refl _ _) (covers_self _) w _).keepsFlag (by decide +kernel),
      State.flag_evt_self _ _ _ rfl (by decide)]

/-- R87: a laser that is retuned, and not held by TX_DIS, is in TUNING. -/
theorem State.rd_tune (h : s.optState w ≠ 5) : (s.tune w).rd .OPT_TX_STAT_STATE [w.n] = 1 := by
  have kept : ((s.onOpt w (fun o => { o with tuning := true, retune := false, lockHeld := false })).wrb
      .OPT_TX_STAT_FREQ_LOCKED [w.n] false).optState w = s.optState w := State.rd_wr_ne _ (by decide) ..
  rw [State.tune, kept, if_neg h, State.startDac, State.wrb, State.rd_wr_ne _ (by decide), State.rd_setOpt]

theorem State.tune_level (s : State) (w : Wing) : ((s.tune w).opt.get w).level = (s.opt.get w).level := by
  unfold State.tune
  dsimp only
  split <;> simp

/-- R90: a wing that has become dark holds the dark level, and is dark or retunes. -/
theorem State.goDark_shows (h : s.optState w ≠ 5) :
    (s.goDark w).rd .OPT_TX_STAT_STATE [w.n] = (if (s.opt.get w).retune then 1 else 0) ∧
      ((s.goDark w).opt.get w).level = s.darkLevel w := by
  have closed : (((s.onOpt w (fun o => { o with level := s.darkLevel w, offMs := 0 })).wrS .OPT_TX_STAT_POWER_MEAS [w.n]
      (-4096)).icmAbort w).optState w ≠ 5 := by
    rw [State.optState, (State.icmAbort_within (.refl _ _) (covers_self _) w).keeps (by decide +kernel), State.wrS,
      State.rd_wr_ne _ (by decide)]
    exact h
  refine ⟨?_, ?_⟩
  · rw [State.goDark, (State.runDeferred_within (.refl _ _) (covers_self _)).keeps (by decide +kernel)]
    simp only [State.icmAbort_opt, State.wrS_opt, State.onOpt_opt, get_set]
    split
    · exact State.rd_tune closed
    · exact State.rd_setOpt ..
  · rw [State.goDark, State.runDeferred_opt]
    split
    · rw [State.tune_level]
      simp
    · simp

/-! ### A ramp (R90, R93) -/

/-- R90: a step of a ramp-up, which ends with the wing lit. -/
theorem State.ramp_rising (h : s.optState w = 2) {l : Int}
    (hl : l = towards (s.opt.get w).level (s.target w) (rampStep (s.use .OPT_TX_CTL_RAMP_MS [w.n]))) :
    ((s.ramp w).opt.get w).level = l ∧
      if l = s.target w then (s.ramp w).rd .OPT_TX_STAT_STATE [w.n] = 3 ∧
        (s.ramp w).flag .OPT_TX_EVT_RAMP_DONE [w.n] = true
      else (s.ramp w).rd .OPT_TX_STAT_STATE [w.n] = 2 := by
  have stepped : s.ramp w = if l ≠ s.target w then s.onOpt w (fun o => { o with level := l })
      else (s.onOpt w (fun o => { o with level := l })).goLit w := by
    simp [State.ramp, h, hl]
  rw [stepped]
  by_cases done : l = s.target w
  · rw [if_neg (not_not.mpr done), if_pos done]
    obtain ⟨lit, rings, level⟩ := (s.onOpt w (fun o => { o with level := l })).goLit_shows w
    exact ⟨by rw [level]; simp, lit, rings⟩
  · rw [if_pos done, if_neg done]
    exact ⟨by simp, h⟩

/-- R90, R95: a step of a ramp-down, which ends dark, or with the retune that waited for it. -/
theorem State.ramp_falling (h : s.optState w = 4) {l : Int}
    (hl : l = max (s.darkLevel w) ((s.opt.get w).level - rampStep (s.use .OPT_TX_CTL_RAMP_MS [w.n]))) :
    ((s.ramp w).opt.get w).level = l ∧
      if l = s.darkLevel w then (s.ramp w).flag .OPT_TX_EVT_RAMP_DONE [w.n] = true ∧
        (s.ramp w).rd .OPT_TX_STAT_STATE [w.n] = (if (s.opt.get w).retune then 1 else 0)
      else (s.ramp w).rd .OPT_TX_STAT_STATE [w.n] = 4 := by
  have stepped : s.ramp w = if l ≠ s.darkLevel w then s.onOpt w (fun o => { o with level := l })
      else ((s.onOpt w (fun o => { o with level := l })).evt .OPT_TX_EVT_RAMP_DONE [w.n]).goDark w := by
    simp [State.ramp, h, hl]
  rw [stepped]
  by_cases done : l = s.darkLevel w
  · have falling : ((s.onOpt w (fun o => { o with level := l })).evt .OPT_TX_EVT_RAMP_DONE [w.n]).optState w = 4 :=
      (State.evt_keeps _ _ _ _ _ _ (by decide)).trans h
    obtain ⟨dark, level⟩ := State.goDark_shows (falling.trans_ne (by decide))
    rw [State.darkLevel_congr (State.evt_inuse ..) (State.evt_keeps _ _ _ _ _ _ (by decide))] at level
    simp only [State.evt_opt, State.onOpt_opt, get_set] at dark
    rw [if_neg (not_not.mpr done), if_pos done, level]
    refine ⟨done.symm, ?_, dark⟩
    rw [(State.goDark_within (.refl _ _) (covers_self _) w).keepsFlag (by decide +kernel),
      State.flag_evt_self _ _ _ rfl (by decide)]
  · rw [if_pos done, if_neg done]
    exact ⟨by simp, h⟩

/-- R91: a ramp goes on while nothing turns it. -/
theorem State.optEval_of_ramp (h : s.optState w = 2 ∧ s.mayLight w = true ∨ s.optState w = 4 ∧ s.mayLight w = false) :
    s.optEval w = s := by
  obtain ⟨rising, may⟩ | ⟨falling, barred⟩ := h
  · simp [State.optEval, rising, may]
  · simp [State.optEval, falling, barred]

/-- R90, R93: what a ramp's update steps from: TX_CTL in force, and the injected sequence asked for. -/
def State.rampReady (s : State) (w : Wing) : State := (s.takeTxCtl w).trigger (2 + w.n)

theorem State.rampReady_optState (s : State) (w : Wing) : (s.rampReady w).optState w = s.optState w :=
  (State.trigger_within (.refl _ _) (covers_self _) _).keeps (by decide +kernel) _

theorem State.rampReady_opt (s : State) (w : Wing) : (s.rampReady w).opt = s.opt :=
  (State.trigger_within (.refl _ (s.takeTxCtl w)) (covers_self _) _).part .opt (by decide +kernel)

theorem State.rampReady_use (s : State) (w : Wing) {r : Row} (hr : r ∈ txCtlRows)
    (spared : spares State.trigger_touch r = true) : (s.rampReady w).use r [w.n] = s.rd r [w.n] := by
  have triggered := State.trigger_within (.refl _ (s.takeTxCtl w)) (covers_self _) (2 + w.n)
  rw [State.rampReady, State.use_congr (triggered.part .inuse (by decide +kernel)) (triggered.keeps spared _),
    State.use_takeTxCtl s w hr]

/-- R89, R93: a ramp steps towards POWER as it reads. -/
theorem State.rampReady_target (s : State) (w : Wing) :
    (s.rampReady w).target w = s.rdS .OPT_TX_CTL_POWER [w.n] * 1000000 := by
  rw [State.target, State.useS, State.rampReady_use s w (by simp [txCtlRows]) (by decide +kernel), State.rdS]

/-- R90: the update of a ramp that nothing turns makes a step of it. -/
theorem rampUpdate_answers (h : s.optState w = 2 ∧ (s.takeTxCtl w).mayLight w = true ∨
    s.optState w = 4 ∧ (s.takeTxCtl w).mayLight w = false) {P : State → Prop} (hP : P ((s.begin.rampReady w).ramp w)) :
    Answers (.rampUpdate w) s P := by
  have goesOn : (s.begin.takeTxCtl w).optEval w = s.begin.takeTxCtl w := State.optEval_of_ramp h
  have ramps : s.begin.onRamp w = true := by
    have state : s.begin.optState w = 2 ∨ s.begin.optState w = 4 := h.imp And.left And.left
    simpa [State.onRamp] using state
  have still : (s.begin.takeTxCtl w).onRamp w = true := ramps
  refine ⟨_, ?_, hP⟩
  rw [exec_rampUpdate, execRampUpdate]
  simp only [goesOn, ramps, still, Bool.and_self, if_true]
  rfl

theorem rampUpdate_rises (rising : s.optState w = 2) (may : (s.takeTxCtl w).mayLight w = true) {l : Int}
    (hl : l = towards (s.opt.get w).level (s.rdS .OPT_TX_CTL_POWER [w.n] * 1000000)
      (rampStep (s.rd .OPT_TX_CTL_RAMP_MS [w.n]))) :
    Answers (.rampUpdate w) s (fun t => (t.opt.get w).level = l ∧
      if l = s.rdS .OPT_TX_CTL_POWER [w.n] * 1000000 then
        t.rd .OPT_TX_STAT_STATE [w.n] = 3 ∧ t.flag .OPT_TX_EVT_RAMP_DONE [w.n] = true
      else t.rd .OPT_TX_STAT_STATE [w.n] = 2) := by
  have stepped :=
    State.ramp_rising (s := s.begin.rampReady w) (w := w) ((s.begin.rampReady_optState w).trans rising) rfl
  rw [s.begin.rampReady_target, State.rampReady_use _ _ (by simp [txCtlRows]) (by decide +kernel),
    State.rampReady_opt] at stepped
  exact rampUpdate_answers (.inl ⟨rising, may⟩) (hl ▸ stepped)

theorem rampUpdate_falls (falling : s.optState w = 4) (barred : (s.takeTxCtl w).mayLight w = false) {d l : Int}
    (hd : d = s.rdS .OPT_TX_CTL_POWER [w.n] * 1000000 - 3000000000)
    (hl : l = max d ((s.opt.get w).level - rampStep (s.rd .OPT_TX_CTL_RAMP_MS [w.n]))) :
    Answers (.rampUpdate w) s (fun t => (t.opt.get w).level = l ∧
      if l = d then t.flag .OPT_TX_EVT_RAMP_DONE [w.n] = true ∧
        t.rd .OPT_TX_STAT_STATE [w.n] = (if (s.opt.get w).retune then 1 else 0)
      else t.rd .OPT_TX_STAT_STATE [w.n] = 4) := by
  have dark : (s.begin.rampReady w).darkLevel w = d := by
    rw [State.darkLevel, State.rampReady_target, hd]
    rfl
  have stepped :=
    State.ramp_falling (s := s.begin.rampReady w) (w := w) ((s.begin.rampReady_optState w).trans falling) rfl
  rw [dark, State.rampReady_use _ _ (by simp [txCtlRows]) (by decide +kernel), State.rampReady_opt] at stepped
  exact rampUpdate_answers (.inr ⟨falling, barred⟩) (hl ▸ stepped)

/-! ### The power loop (R89) -/

/-- R89: what an update of the closed loop makes of the engine's own state. -/
def Optics.looped (o : Optics) (dest step : Int) (off : Bool) : Optics :=
  { o with level := towards o.level dest step, offMs := if off then o.offMs + 1 else 0 }

theorem powerLoopUpdate_loops (lit : s.optState w = 3) :
    Answers (.powerLoopUpdate w) s (fun t => (t.opt.get w).level =
        towards (s.opt.get w).level (s.target w) (100 * rampStep (s.use .OPT_TX_CTL_RAMP_MS [w.n])) ∧
      (t.opt.get w).offMs =
        (if 100 < (s.rdS .OPT_TX_STAT_POWER_MEAS [w.n] - s.useS .OPT_TX_CTL_POWER [w.n]).natAbs then
          (s.opt.get w).offMs + 1 else 0) ∧
      (10 ≤ (t.opt.get w).offMs → t.flag .OPT_TX_EVT_POWER_OOR [w.n] = true)) := by
  let off := decide (100 < (s.rdS .OPT_TX_STAT_POWER_MEAS [w.n] - s.useS .OPT_TX_CTL_POWER [w.n]).natAbs)
  let step : Int := 100 * rampStep (s.use .OPT_TX_CTL_RAMP_MS [w.n])
  let u := s.begin.onOpt w (fun o => o.looped (s.target w) step off)
  have same (c : Bool) : (u.when c (·.evt .OPT_TX_EVT_POWER_OOR [w.n])).opt = u.opt := by
    cases c
    · rfl
    · exact State.evt_opt ..
  have engine : u.opt.get w = (s.opt.get w).looped (s.target w) step off := by
    simp [u]
  refine ⟨u.when (decide (10 ≤ (u.opt.get w).offMs)) (·.evt .OPT_TX_EVT_POWER_OOR [w.n]),
    congrArg Host.Outcome.next (if_pos lit), ?_, ?_, fun long => ?_⟩
  · rw [same, engine]
    rfl
  · rw [same, engine]
    simp [Optics.looped, off]
  · rw [same] at long
    rw [decide_eq_true long]
    exact State.flag_evt_self _ _ _ rfl (by decide)

/-! ### The TX_DIS pin (R92) -/

/-- R92: the pin has its level, and TXDIS_PIN shows it. -/
def State.pinTxDis (s : State) (w : Wing) (level : Bool) : State :=
  { s with pins := { s.pins with txDis := s.pins.txDis.set w level } }.wrb .OPT_TX_STAT_TXDIS_PIN [w.n] level

theorem State.pinTxDis_shows (s : State) (w : Wing) (level : Bool) :
    (s.pinTxDis w level).pins.txDis.get w = level ∧
      (s.pinTxDis w level).flag .OPT_TX_STAT_TXDIS_PIN [w.n] = level :=
  ⟨get_set .., State.flag_wrb_self _ _ _ _ (by decide)⟩

theorem State.rd_pinTxDis (s : State) (w : Wing) (level : Bool) {r : Row} (h : Row.OPT_TX_STAT_TXDIS_PIN.id ≠ r.id)
    (ix : List Nat) : (s.pinTxDis w level).rd r ix = s.rd r ix := State.rd_wr_ne _ h ..

theorem txDisAssert_answers (low : s.pins.txDis.get w = false) {P : State → Prop}
    (hP : P (if s.isRunning && s.wingEnabled w then (s.begin.pinTxDis w true).disable w else s.begin.pinTxDis w true)) :
    Answers (.txDisAssert w) s P := by
  have runs : (s.begin.pinTxDis w true).isRunning = s.isRunning :=
    congrArg (· == 5) (State.rd_pinTxDis s.begin w true (by decide) _)
  have rises : ¬s.begin.pins.txDis.get w = true := Bool.eq_false_iff.mp low
  refine ⟨_, ?_, hP⟩
  rw [exec_txDisAssert, execTxDisAssert, if_neg rises, ← runs]
  rfl

/-- R92: a wing that its pin holds dark is in TX_DIS, at the dark level and out of lock, and rings the edge. -/
theorem State.disable_shows (s : State) (w : Wing) :
    (s.disable w).rd .OPT_TX_STAT_STATE [w.n] = 5 ∧ (s.disable w).flag .OPT_TX_EVT_TXDIS_EDGE [w.n] = true ∧
      ((s.disable w).opt.get w).level = s.darkLevel w ∧ (s.disable w).flag .OPT_TX_STAT_FREQ_LOCKED [w.n] = false := by
  have deferred (u : State) := State.runDeferred_within (.refl _ u) (covers_self _)
  refine ⟨?_, ?_, by simp [State.disable], ?_⟩
  · rw [State.disable, (deferred _).keeps (by decide +kernel), State.evt_keeps _ _ _ _ _ _ (by decide), State.rd_setOpt]
  · rw [State.disable, (deferred _).keepsFlag (by decide +kernel), State.flag_evt_self _ _ _ rfl (by decide)]
  · rw [State.disable, (deferred _).keepsFlag (by decide +kernel), State.flag_evt_ne _ (by decide),
      (State.setOpt_within (.refl _ _) (covers_self _) w _).keepsFlag (by decide +kernel),
      (State.icmAbort_within (.refl _ _) (covers_self _) w).keepsFlag (by decide +kernel), State.flag, State.wrS,
      State.rd_wr_ne _ (by decide)]
    exact State.flag_wrb_self _ _ _ _ (by decide)

/-- R92: the pin's level outlasts what the wing makes of it. -/
theorem State.disable_pin (s : State) (w : Wing) :
    (s.disable w).pins = s.pins ∧
      (s.disable w).flag .OPT_TX_STAT_TXDIS_PIN [w.n] = s.flag .OPT_TX_STAT_TXDIS_PIN [w.n] := by
  have disabled := State.disable_within (.refl _ s) (covers_self _) w
  exact ⟨disabled.part .pins (by decide +kernel), disabled.keepsFlag (by decide +kernel) _⟩

theorem State.enableOut_pin (s : State) (w : Wing) (onTarget : Bool) :
    (s.enableOut w onTarget).pins = s.pins ∧
      (s.enableOut w onTarget).flag .OPT_TX_STAT_TXDIS_PIN [w.n] = s.flag .OPT_TX_STAT_TXDIS_PIN [w.n] := by
  have released := State.enableOut_within (.refl _ s) (covers_self _) w onTarget
  exact ⟨released.part .pins (by decide +kernel), released.keepsFlag (by decide +kernel) _⟩

/-- R92: a released wing with its lasers on confirms its lock or locks again, and one that is not is dark. -/
theorem State.enableOut_cases (held : s.optState w = 5) (onTarget : Bool) :
    s.opticsOn w = false ∧ s.enableOut w onTarget = s.setOpt w 0 ∨
      s.enableOut w onTarget = ((s.wrb .OPT_TX_STAT_FREQ_LOCKED [w.n] true).setOpt w 0).optEval w ∨
      s.enableOut w onTarget =
        ((s.onOpt w (fun o => { o with tuning := true, lockHeld := false })).setOpt w 1).startDac w := by
  unfold State.enableOut
  rw [if_neg (not_not.mpr held)]
  split
  case isTrue off => exact .inl ⟨by simpa using off, rfl⟩
  case isFalse =>
    split
    · exact .inr (.inl rfl)
    · exact .inr (.inr rfl)

/-- R92: what a wing that locks again shows. -/
theorem State.relock_shows (s : State) (w : Wing) (f : Optics → Optics) :
    (((s.onOpt w f).setOpt w 1).startDac w).rd .OPT_TX_STAT_STATE [w.n] = 1 := by
  rw [State.startDac, State.wrb, State.rd_wr_ne _ (by decide), State.rd_setOpt]

/-- R92: a wing that its pin released is in TX_DIS no more. -/
theorem State.enableOut_leaves (s : State) (w : Wing) (onTarget : Bool) :
    (s.enableOut w onTarget).rd .OPT_TX_STAT_STATE [w.n] ≠ 5 := by
  by_cases held : s.optState w = 5
  · obtain ⟨-, dark⟩ | confirmed | relocks := State.enableOut_cases held onTarget
    · rw [dark, State.rd_setOpt]
      decide
    · rw [confirmed]
      have := State.rd_optEval_of_dark (State.rd_setOpt (s.wrb .OPT_TX_STAT_FREQ_LOCKED [w.n] true) w 0)
      omega
    · rw [relocks, State.relock_shows]
      decide
  · rw [State.enableOut, if_pos held]
    exact held

/-- R92: a released wing with its lasers on is locked or tunes. -/
theorem State.enableOut_locks (held : s.optState w = 5) (on : s.opticsOn w = true) (onTarget : Bool) :
    (s.enableOut w onTarget).flag .OPT_TX_STAT_FREQ_LOCKED [w.n] = true ∨
      (s.enableOut w onTarget).rd .OPT_TX_STAT_STATE [w.n] = 1 ∧
        ((s.enableOut w onTarget).opt.get w).tuning = true := by
  obtain ⟨off, -⟩ | confirmed | relocks := State.enableOut_cases held onTarget
  · exact absurd on (by simp [off])
  · left
    rw [confirmed, (State.optEval_within (.refl _ _) (covers_self _) w).keepsFlag (by decide +kernel),
      (State.setOpt_within (.refl _ _) (covers_self _) w _).keepsFlag (by decide +kernel)]
    exact State.flag_wrb_self _ _ _ _ (by decide)
  · right
    rw [relocks]
    exact ⟨State.relock_shows .., by simp⟩

theorem txDisAssert_darkens (low : s.pins.txDis.get w = false) :
    Answers (.txDisAssert w) s (fun t => t.pins.txDis.get w = true ∧ t.flag .OPT_TX_STAT_TXDIS_PIN [w.n] = true ∧
      (s.isRunning = true → s.wingEnabled w = true → t.rd .OPT_TX_STAT_STATE [w.n] = 5 ∧
        t.flag .OPT_TX_EVT_TXDIS_EDGE [w.n] = true ∧ (t.opt.get w).level = s.darkLevel w ∧
        t.flag .OPT_TX_STAT_FREQ_LOCKED [w.n] = false)) := by
  have dark : (s.begin.pinTxDis w true).darkLevel w = s.darkLevel w :=
    State.darkLevel_congr rfl (State.rd_pinTxDis s.begin w true (by decide) _)
  obtain ⟨pin, pinShows⟩ := s.begin.pinTxDis_shows w true
  refine txDisAssert_answers low ?_
  cases acts : s.isRunning && s.wingEnabled w
  case false => exact ⟨pin, pinShows, fun runs enabled => by simp [runs, enabled] at acts⟩
  case true =>
    obtain ⟨pins, shown⟩ := (s.begin.pinTxDis w true).disable_pin w
    exact ⟨pins ▸ pin, shown.trans pinShows, fun _ _ => dark ▸ State.disable_shows _ w⟩

theorem txDisDeassert_releases (s : State) (w : Wing) (onTarget : Bool) :
    Answers (.txDisDeassert w onTarget) s (fun t => t.pins.txDis.get w = false ∧
      t.flag .OPT_TX_STAT_TXDIS_PIN [w.n] = false ∧ t.rd .OPT_TX_STAT_STATE [w.n] ≠ 5 ∧
      (s.optState w = 5 → s.opticsOn w = true → (t.flag .OPT_TX_STAT_FREQ_LOCKED [w.n] = true ∨
        t.rd .OPT_TX_STAT_STATE [w.n] = 1 ∧ (t.opt.get w).tuning = true))) := by
  obtain ⟨pin, pinShows⟩ := s.begin.pinTxDis_shows w false
  obtain ⟨pins, shown⟩ := (s.begin.pinTxDis w false).enableOut_pin w onTarget
  refine ⟨(s.begin.pinTxDis w false).enableOut w onTarget, exec_txDisDeassert .., pins ▸ pin, shown.trans pinShows,
    State.enableOut_leaves _ w onTarget, fun held on => State.enableOut_locks ?_ ?_ onTarget⟩
  · exact (State.rd_pinTxDis s.begin w false (by decide) _).trans held
  · exact (State.opticsOn_wr _ (by decide) (by decide) ..).trans on

/-! ### The end of a DAC calibration (R133, R134) -/

/-- R132: the figures that a dimension shows from what its slices are left with. -/
def State.showDacQual (s : State) (w : Wing) (d : Nat) : State :=
  ((s.wr .CNV_DAC_QUAL_RES_SKEW [w.n, d] (rmsSkew (s.dacRest w d))).wrS .CNV_DAC_QUAL_RES_SPUR [w.n, d]
    (spurOf (s.dacRest w d))).wrb .CNV_DAC_QUAL_VALID [w.n, d] true

theorem State.showDacQual_shows (s : State) (w : Wing) (d : Nat) :
    (s.showDacQual w d).flag .CNV_DAC_QUAL_VALID [w.n, d] = true ∧
      (s.showDacQual w d).rd .CNV_DAC_QUAL_RES_SKEW [w.n, d] =
        rmsSkew (s.dacRest w d) % 2 ^ Row.CNV_DAC_QUAL_RES_SKEW.width := by
  refine ⟨State.flag_wrb_self _ _ _ _ (by decide), ?_⟩
  rw [State.showDacQual, State.wrb, State.rd_wr_ne _ (by decide), State.wrS, State.rd_wr_ne _ (by decide),
    State.rd_wr_self]

/-- A dimension's figures are its own. -/
theorem State.showDacQual_other (s : State) (w : Wing) {d e : Nat} (h : d ≠ e) :
    (s.showDacQual w d).flag .CNV_DAC_QUAL_VALID [w.n, e] = s.flag .CNV_DAC_QUAL_VALID [w.n, e] ∧
      (s.showDacQual w d).rd .CNV_DAC_QUAL_RES_SKEW [w.n, e] = s.rd .CNV_DAC_QUAL_RES_SKEW [w.n, e] := by
  have apart : Row.CNV_DAC_QUAL_VALID.flat [w.n, d] ≠ Row.CNV_DAC_QUAL_VALID.flat [w.n, e] := by
    simpa [Row.flat, Row.CNV_DAC_QUAL_VALID] using h
  refine ⟨congrArg (· != 0) ?_, ?_⟩
  · rw [State.showDacQual, State.wrb, State.rd_wr_inst _ _ apart, State.wrS, State.rd_wr_ne _ (by decide),
      State.rd_wr_ne _ (by decide)]
  · rw [State.showDacQual, State.wrb, State.rd_wr_ne _ (by decide), State.wrS, State.rd_wr_ne _ (by decide),
      State.rd_wr_inst _ .CNV_DAC_QUAL_RES_SKEW apart]

/-- What a completed calibration shows of the dimensions. -/
def State.showDac (s : State) (w : Wing) (trims : List SliceTrim) : State :=
  ((((s.setDac w trims).showDacQual w 0).showDacQual w 1).showDacQual w 2).showDacQual w 3

theorem State.dacDone_eq (s : State) (w : Wing) (trims : List SliceTrim) : s.dacDone w trims =
    (((s.showDac w trims).wrb .CNV_DAC_CAL_BUSY [w.n] false).wrb .CNV_DAC_CAL_DONE [w.n] true).evt
      .CNV_EVT_DAC_CAL_DONE [w.n] := rfl

theorem State.showDac_first (s : State) (w : Wing) (trims : List SliceTrim) :
    (s.showDac w trims).flag .CNV_DAC_QUAL_VALID [w.n, 0] = true ∧
      (s.showDac w trims).rd .CNV_DAC_QUAL_RES_SKEW [w.n, 0] =
        rmsSkew ((s.setDac w trims).dacRest w 0) % 2 ^ Row.CNV_DAC_QUAL_RES_SKEW.width := by
  obtain ⟨valid, skew⟩ := (s.setDac w trims).showDacQual_shows w 0
  obtain ⟨valid₁, skew₁⟩ := ((s.setDac w trims).showDacQual w 0).showDacQual_other w (d := 1) (e := 0) (by decide)
  obtain ⟨valid₂, skew₂⟩ :=
    (((s.setDac w trims).showDacQual w 0).showDacQual w 1).showDacQual_other w (d := 2) (e := 0) (by decide)
  obtain ⟨valid₃, skew₃⟩ := ((((s.setDac w trims).showDacQual w 0).showDacQual w 1).showDacQual w 2).showDacQual_other w
    (d := 3) (e := 0) (by decide)
  exact ⟨valid₃.trans (valid₂.trans (valid₁.trans valid)), skew₃.trans (skew₂.trans (skew₁.trans skew))⟩

theorem State.showDac_conv (s : State) (w : Wing) (trims : List SliceTrim) :
    (s.showDac w trims).conv = (s.setDac w trims).conv := rfl

/-- R91, R133: a change of R91's conditions does not say whether a calibration is due. -/
theorem State.optEval_dacDue (s : State) (w : Wing) : ((s.optEval w).opt.get w).dacDue = (s.opt.get w).dacDue := by
  obtain same | ⟨-, up⟩ | ⟨-, down⟩ | ⟨-, again⟩ := s.optEval_cases w
  · rw [same]
  · simp [up]
  · simp [down]
  · simp [again]

/-- R122, R133, R134: after a calibration the DACs have their trims and figures, BUSY is clear and DONE set. -/
theorem State.dacDone_shows (s : State) (w : Wing) (trims : List SliceTrim) :
    (s.dacDone w trims).flag .CNV_DAC_CAL_BUSY [w.n] = false ∧
      (s.dacDone w trims).flag .CNV_DAC_CAL_DONE [w.n] = true ∧
      (s.dacDone w trims).conv = (s.setDac w trims).conv ∧
      (s.dacDone w trims).flag .CNV_DAC_QUAL_VALID [w.n, 0] = true ∧
      (s.dacDone w trims).rd .CNV_DAC_QUAL_RES_SKEW [w.n, 0] =
        rmsSkew ((s.setDac w trims).dacRest w 0) % 2 ^ Row.CNV_DAC_QUAL_RES_SKEW.width := by
  obtain ⟨valid, skew⟩ := s.showDac_first w trims
  have later {r : Row} (busy : Row.CNV_DAC_CAL_BUSY.id ≠ r.id) (done : Row.CNV_DAC_CAL_DONE.id ≠ r.id)
      (event : ∀ x ∈ Row.CNV_EVT_DAC_CAL_DONE :: bellRows, x.id ≠ r.id) (ix : List Nat) :
      (s.dacDone w trims).rd r ix = (s.showDac w trims).rd r ix := by
    rw [State.dacDone_eq, State.evt_keeps _ _ _ _ _ _ event, State.wrb, State.rd_wr_ne _ done, State.wrb,
      State.rd_wr_ne _ busy]
  refine ⟨?_, ?_, ?_, ?_, ?_⟩
  · rw [State.dacDone_eq, State.flag_evt_ne _ (by decide), State.flag, State.wrb, State.rd_wr_ne _ (by decide)]
    exact State.flag_wrb_self _ _ _ _ (by decide)
  · rw [State.dacDone_eq, State.flag_evt_ne _ (by decide), State.flag_wrb_self _ _ _ _ (by decide)]
  · rw [State.dacDone_eq, State.evt_conv, State.wrb, State.wr_conv, State.wrb, State.wr_conv, State.showDac_conv]
  · rw [State.flag, later (by decide) (by decide) (by decide), ← State.flag, valid]
  · rw [later (by decide) (by decide) (by decide), skew]

theorem State.dacRest_congr {t : State} (h : t.conv = s.conv) (d : Nat) : t.dacRest w d = s.dacRest w d := by
  rw [State.dacRest, h, State.dacRest]

/-- R133, R134: with its calibration complete a wing's DACs are due for none, and a ramp-up that waited may start. -/
theorem dacCalComplete_completes (trims : List SliceTrim) (busy : s.flag .CNV_DAC_CAL_BUSY [w.n] = true)
    (clock : s.flag .CNV_DAC_CLK_LOCKED [w.n] = true) :
    Answers (.dacCalComplete w trims) s (fun t => t.flag .CNV_DAC_CAL_BUSY [w.n] = false ∧
      t.flag .CNV_DAC_CAL_DONE [w.n] = true ∧ (t.opt.get w).dacDue = false ∧
      (t.conv.get w).dac = ((s.setDac w trims).conv.get w).dac ∧ t.flag .CNV_DAC_QUAL_VALID [w.n, 0] = true ∧
      t.rd .CNV_DAC_QUAL_RES_SKEW [w.n, 0] = rmsSkew (t.dacRest w 0) % 2 ^ Row.CNV_DAC_QUAL_RES_SKEW.width) := by
  have runs : (s.begin.flag .CNV_DAC_CAL_BUSY [w.n] && s.begin.flag .CNV_DAC_CLK_LOCKED [w.n]) = true := by
    simp [busy, clock]
  obtain ⟨idle, done, conv, valid, skew⟩ := s.begin.dacDone_shows w trims
  have after := State.optEval_within (.refl _ ((s.begin.dacDone w trims).onOpt w (fun o => { o with dacDue := false })))
    (covers_self _) w
  have convAfter : _ = _ := (after.part .conv (by decide +kernel)).trans conv
  refine ⟨_, congrArg Host.Outcome.next (if_pos runs), ?_, ?_, ?_, ?_, ?_, ?_⟩
  · rw [after.keepsFlag (by decide +kernel), State.onOpt_flag, idle]
  · rw [after.keepsFlag (by decide +kernel), State.onOpt_flag, done]
  · rw [State.optEval_dacDue]
    simp
  · rw [convAfter]
    rfl
  · rw [after.keepsFlag (by decide +kernel), State.onOpt_flag, valid]
  · rw [after.keeps (by decide +kernel), State.onOpt_rd, skew, State.dacRest_congr convAfter]

end

/-! ### The obligation -/

/-- Settles O13: each clause by the rule of its command. That a step of the ramp is rounded up (assumption 79), the rate
of the power loop and the release of TX_DIS (assumption 26) and the rounding of the residual skew (assumption 66) are
the model's own choices. -/
theorem lightAndPower : Obligations.LightAndPower := by
  unfold Obligations.LightAndPower
  intro s w
  refine ⟨?write, fun rising may => rampUpdate_rises rising may rfl,
    fun falling barred => rampUpdate_falls falling barred rfl rfl, powerLoopUpdate_loops, txDisAssert_darkens,
    txDisDeassert_releases s w, dacCalComplete_completes⟩
  case write =>
    intro req enable rampMs power taken
    exact ⟨_, congrArg Host.Outcome.next (State.via_of_takesFrom (s := s.begin) taken _), State.txCtl_shows ..⟩

end Sys2Proof.Machine
end

section
/-!
The second pass and the end of a window (R113 to R115), and O14.
-/

namespace Sys2Proof.Machine

-- The row tests below are large kernel evaluations: one theorem at a time bounds the memory of the whole text's check.
set_option Elab.async false

section

variable {s : State} {w : Wing}

theorem State.flag_wrb_ne (s : State) {r x : Row} (h : r.id ≠ x.id) (ix jx : List Nat) (b : Bool) :
    (s.wrb r ix b).flag x jx = s.flag x jx := by
  rw [State.flag, State.wrb, State.rd_wr_ne _ h, State.flag]

/-! ### The second pass (R113, R114) -/

/-- R113: a pass that is neither active nor waiting is queued for its power, and waits. -/
theorem State.sp2Request_queues (inactive : s.flag .RXW_SP2_STAT_ACTIVE [w.n] = false)
    (free : s.flag .RXW_SP2_STAT_WAIT_PWR [w.n] = false) :
    (s.sp2Request w).flag .RXW_SP2_STAT_WAIT_PWR [w.n] = true ∧
      (s.sp2Request w).power.queue = s.power.queue ++ [.secondPass w] := by
  have may : ¬(s.flag .RXW_SP2_STAT_ACTIVE [w.n] || s.flag .RXW_SP2_STAT_WAIT_PWR [w.n]) = true := by
    simp [inactive, free]
  rw [State.sp2Request, if_neg may]
  exact ⟨State.flag_wrb_self _ _ _ _ (by decide), rfl⟩

/-- R113: in AUTO a calm READY wing with a low margin asks for the second pass. -/
theorem sp2AutoOn_requests (mode : s.use .RXW_SP2_CTL_MODE [w.n] = 2) (ready : s.rd .RXW_RX_STAT_STATE [w.n] = 11)
    (calm : s.sp2Calm w = true)
    (low : s.rdS .RXW_FOM_MARGIN_MARGIN [w.n] < 10 * s.useS .RXW_SP2_CTL_ON_TH [w.n])
    (inactive : s.flag .RXW_SP2_STAT_ACTIVE [w.n] = false) :
    Answers (.sp2AutoOn w) s (fun t => t.flag .RXW_SP2_STAT_WAIT_PWR [w.n] = true ∧
      t.power.queue = s.power.queue ++ [.secondPass w]) := by
  have asks : (s.use .RXW_SP2_CTL_MODE [w.n] = 2 && s.rd .RXW_RX_STAT_STATE [w.n] == 11 && s.sp2Calm w &&
      decide (s.rdS .RXW_FOM_MARGIN_MARGIN [w.n] < 10 * s.useS .RXW_SP2_CTL_ON_TH [w.n])) = true := by
    simp [mode, ready, calm, low]
  have free : s.flag .RXW_SP2_STAT_WAIT_PWR [w.n] = false := by
    rw [State.sp2Calm, Bool.and_eq_true] at calm
    exact Bool.not_eq_true' _ ▸ calm.2
  exact ⟨_, congrArg Host.Outcome.next (if_pos asks), State.sp2Request_queues (s := s.begin) inactive free⟩

/-- R113: in AUTO an active second pass is asked to stop once the first pass alone has margin enough. -/
theorem sp2AutoOff_stops (mode : s.use .RXW_SP2_CTL_MODE [w.n] = 2)
    (active : s.flag .RXW_SP2_STAT_ACTIVE [w.n] = true) (calm : s.sp2Calm w = true)
    (high : 10 * s.offTh w < s.firstMargin w) :
    Answers (.sp2AutoOff w) s (fun t => (t.rx.get w).sp2Stop = true) := by
  have stops : (s.use .RXW_SP2_CTL_MODE [w.n] = 2 && s.flag .RXW_SP2_STAT_ACTIVE [w.n] && s.sp2Calm w &&
      decide (10 * s.offTh w < s.firstMargin w)) = true := by
    simp [mode, active, calm, high]
  exact ⟨_, congrArg Host.Outcome.next (if_pos stops), by simp⟩

/-- R114: what the start of the second pass shows. -/
def State.sp2Begin (s : State) (w : Wing) : State :=
  ((s.wrb .RXW_SP2_STAT_WAIT_PWR [w.n] false).wrb .RXW_SP2_STAT_ACTIVE [w.n] true).evt .RXW_RX_EVT_SP2_CHANGE [w.n]

theorem State.sp2Begin_shows (s : State) (w : Wing) :
    (s.sp2Begin w).flag .RXW_SP2_STAT_ACTIVE [w.n] = true ∧
      (s.sp2Begin w).flag .RXW_SP2_STAT_WAIT_PWR [w.n] = false ∧
      (s.sp2Begin w).flag .RXW_RX_EVT_SP2_CHANGE [w.n] = true ∧
      (s.sp2Begin w).rd .RXW_RATE_BAUD [w.n] = s.rd .RXW_RATE_BAUD [w.n] := by
  unfold State.sp2Begin
  refine ⟨?_, ?_, State.flag_evt_self _ _ _ rfl (by decide), ?_⟩
  · rw [State.flag_evt_ne _ (by decide), State.flag_wrb_self _ _ _ _ (by decide)]
  · rw [State.flag_evt_ne _ (by decide), State.flag_wrb_ne _ (by decide), State.flag_wrb_self _ _ _ _ (by decide)]
  · rw [State.evt_keeps _ _ _ _ _ _ (by decide), State.wrb, State.rd_wr_ne _ (by decide), State.wrb,
      State.rd_wr_ne _ (by decide)]

/-- R114: the output pauses for the added latency from the present module time. -/
theorem State.pauseOutput_pauses (s : State) (w : Wing) :
    ((s.pauseOutput w).rx.get w).pausedTo =
      (s.pauseOutput w).mt + ceilDiv 3536000 (s.rd .RXW_RATE_BAUD [w.n]) := by
  rw [State.pauseOutput, State.onRx_rx, get_set]
  rfl

/-- R114: a second pass whose domain is admitted is active, and the output pauses for its latency. -/
theorem sp2Start_activates (waits : s.flag .RXW_SP2_STAT_WAIT_PWR [w.n] = true)
    (admitted : s.power.up.contains (.secondPass w) = true) (ready : s.rd .RXW_RX_STAT_STATE [w.n] = 11) :
    Answers (.sp2Start w) s (fun t => t.flag .RXW_SP2_STAT_ACTIVE [w.n] = true ∧
      t.flag .RXW_SP2_STAT_WAIT_PWR [w.n] = false ∧ t.flag .RXW_RX_EVT_SP2_CHANGE [w.n] = true ∧
      (t.rx.get w).pausedTo = t.mt + ceilDiv 3536000 (s.rd .RXW_RATE_BAUD [w.n])) := by
  have starts : (s.flag .RXW_SP2_STAT_WAIT_PWR [w.n] && s.power.up.contains (.secondPass w) &&
      s.rd .RXW_RX_STAT_STATE [w.n] == 11) = true := by
    rw [waits, admitted, ready]
    rfl
  obtain ⟨active, idle, rings, baud⟩ := s.begin.sp2Begin_shows w
  have pauses := (s.begin.sp2Begin w).pauseOutput_pauses w
  rw [baud] at pauses
  exact ⟨_, congrArg Host.Outcome.next (if_pos starts), active, idle, rings, pauses⟩

@[simp] theorem State.evt_power (s : State) (r : Row) (ix : List Nat) (b : Nat) : (s.evt r ix b).power = s.power :=
  s.evt_same r ix b (p := .power) (by decide)

/-- R114: a second pass that ends is inactive, and its domain goes down. -/
theorem State.sp2End_ends (s : State) (w : Wing) :
    (s.sp2End w).flag .RXW_SP2_STAT_ACTIVE [w.n] = false ∧
      (s.sp2End w).power.up.contains (.secondPass w) = false := by
  unfold State.sp2End
  dsimp only
  refine ⟨?_, ?_⟩
  · rw [State.flag_evt_ne _ (by decide), State.flag_wrb_self _ _ _ _ (by decide)]
  · rw [State.evt_power, State.wrb, State.wr_power, State.onRx_power]
    simp

/-- R114: a second pass that is asked to stop, or shed, drains. -/
theorem sp2Stop_drains (active : s.flag .RXW_SP2_STAT_ACTIVE [w.n] = true)
    (asked : ((s.rx.get w).sp2Stop || s.shedding) = true) :
    Answers (.sp2Stop w) s (fun t => t.flag .RXW_SP2_STAT_ACTIVE [w.n] = false ∧
      t.flag .RXW_SP2_STAT_DRAINING [w.n] = true ∧ t.power.up.contains (.secondPass w) = false) := by
  have stops : (s.flag .RXW_SP2_STAT_ACTIVE [w.n] && ((s.rx.get w).sp2Stop || s.shedding)) = true := by
    rw [active, asked]
    rfl
  obtain ⟨inactive, down⟩ := s.begin.sp2End_ends w
  exact ⟨_, congrArg Host.Outcome.next (if_pos stops), (State.flag_wrb_ne _ (by decide) ..).trans inactive,
    State.flag_wrb_self _ _ _ _ (by decide), down⟩

/-! ### The end of a window (R115) -/

/-- R115, R116: the registers of the figures of merit show the figures, each at its width. -/
def State.ShowsFigures (t : State) (w : Wing) (f : Figures) : Prop :=
  t.rd .RXW_FOM_SNR_SNR_X [w.n] = f.snrX % 65536 ∧ t.rd .RXW_FOM_EFF_SNR_EFF [w.n] = f.snrEff % 65536 ∧
    t.rd .RXW_FOM_GMI_NGMI [w.n] = f.ngmi % 32768 ∧ t.flag .RXW_FOM_OSNR_SAT [w.n] = f.osnrSat ∧
    t.rd .RXW_FOM_OSNR_OSNR_EST [w.n] = (if f.osnrSat then 65535 else f.osnr % 65536) ∧
    t.rdS .RXW_FOM_MARGIN_MARGIN [w.n] = toSigned 16 (ofSigned 16 ((f.snrEff : Int) - f.req))

/-- R115: NGMI is shown whole where it lies below 1. -/
theorem State.showFigures_shows (s : State) (w : Wing) {f : Figures} (below : f.ngmi < 32768) :
    (s.showFigures w f).ShowsFigures w f := by
  simp (disch := decide) only [State.ShowsFigures, State.showFigures, State.flag, State.rdS, State.wrb, State.wrS,
    State.rd_wr_ne, State.rd_wr_self]
  refine ⟨rfl, rfl, ?_, ?_, ?_, congrArg (toSigned 16) (Nat.mod_eq_of_lt (ofSigned_lt 16 _))⟩
  · rw [Nat.mod_eq_of_lt below]
    exact Nat.mod_eq_of_lt (by change _ < 65536; omega)
  · cases f.osnrSat <;> rfl
  · cases f.osnrSat <;> rfl

/-- The figures are shown on after what leaves their rows alone. -/
theorem State.ShowsFigures.within {t u : State} {f : Figures} (h : t.ShowsFigures w f)
    (k : Within State.policy_touch t u) : u.ShowsFigures w f := by
  unfold State.ShowsFigures State.rdS at *
  rwa [k.keeps (by decide +kernel), k.keeps (by decide +kernel), k.keeps (by decide +kernel),
    k.keepsFlag (by decide +kernel), k.keeps (by decide +kernel), k.keeps (by decide +kernel)]

/-- R116: NGMI saturates below 1. -/
theorem FomSum.figures_ngmi_lt (f : FomSum) (trx baud : Nat) : (f.figures trx baud).ngmi < 32768 := by
  change min 32767 _ < 32768
  omega

/-- R115: the window's averages are shown. -/
theorem State.endWindow_shows (s : State) (w : Wing) :
    (s.endWindow w).ShowsFigures w ((s.rx.get w).window.figures (s.snrTrx w) (s.rd .RXW_RATE_BAUD [w.n])) :=
  (s.showFigures_shows w (FomSum.figures_ngmi_lt ..)).within
    (State.onRx_within (.refl _ _) (covers_of_test (by decide +kernel)) w _)

/-- R115: the next window begins empty. -/
theorem State.endWindow_window (s : State) (w : Wing) : ((s.endWindow w).rx.get w).window = FomSum.zero := by
  simp [State.endWindow]

/-- R178: what follows the end of a window: the policy, or its runs cleared while it does not run. -/
def State.afterWindow (s : State) (w : Wing) : State :=
  if s.policyRuns w then s.policy w else s.onRx w (fun r => { r with lowWindows := 0, highSince := none })

theorem State.afterWindow_within (s : State) (w : Wing) : Within State.policy_touch s (s.afterWindow w) := by
  unfold State.afterWindow
  split
  · exact State.policy_within (.refl _ s) (covers_self _) w
  · exact State.onRx_within (.refl _ s) (covers_of_test (by decide +kernel)) w _

theorem State.RxSame.policy {s₀ : State} (h : s₀.RxSame RxLine.window w s) :
    s₀.RxSame RxLine.window w (s.policy w) := by
  have runs : s₀.RxSame RxLine.window w (s.marginRuns w) := h.onRx
  have advised (t : State) (p : Nat × Nat) : t.RxSame RxLine.window w (t.advise w p) :=
    (State.RxSame.refl _ w t).within (State.advise_within (.refl _ t) (covers_self _) w p) (by decide +kernel)
  unfold State.policy
  dsimp only
  split
  · exact runs.trans (advised ..)
  split
  · exact runs.when (advised ..) _
  · exact runs.within (State.holdAdvice_within (.refl _ _) (covers_self _) w) (by decide +kernel)

/-- R178: the policy leaves the window alone. -/
theorem State.afterWindow_window (s : State) (w : Wing) : s.RxSame RxLine.window w (s.afterWindow w) := by
  unfold State.afterWindow
  split
  · exact (State.RxSame.refl _ w s).policy
  · exact (State.RxSame.refl _ w s).onRx

theorem fomWindowEnd_answers (ready : s.rxState w = 11) (full : s.windowFull w = true) {P : State → Prop}
    (hP : P ((s.begin.endWindow w).afterWindow w)) : Answers (.fomWindowEnd w) s P := by
  have ends : ¬(decide (s.begin.rxState w ≠ 11) || !s.begin.windowFull w) = true := by
    have ready' : s.begin.rxState w = 11 := ready
    have full' : s.begin.windowFull w = true := full
    simp [ready', full']
  refine ⟨_, ?_, hP⟩
  rw [exec_fomWindowEnd, execFomWindowEnd, if_neg ends]
  rfl

/-- R115: a full window of a READY wing ends with its figures shown, and the next one begins. -/
theorem fomWindowEnd_shows (ready : s.rxState w = 11) (full : s.windowFull w = true) :
    Answers (.fomWindowEnd w) s (fun t =>
      t.ShowsFigures w ((s.rx.get w).window.figures (s.snrTrx w) (s.rd .RXW_RATE_BAUD [w.n])) ∧
        (t.rx.get w).window = FomSum.zero) := by
  have ended : (s.begin.endWindow w).ShowsFigures w
      ((s.rx.get w).window.figures (s.snrTrx w) (s.rd .RXW_RATE_BAUD [w.n])) := s.begin.endWindow_shows w
  exact fomWindowEnd_answers ready full ⟨ended.within (State.afterWindow_within ..),
    ((s.begin.endWindow w).afterWindow_window w).shows.trans (State.endWindow_window ..)⟩

end

/-! ### The obligation -/

/-- Settles O14: each clause by the rule of its command. That the figures shown are rounded, and limited to what their
registers hold, is the model's own choice (assumption 62). -/
theorem secondPassAndWindow : Obligations.SecondPassAndWindow := by
  unfold Obligations.SecondPassAndWindow
  intro s w
  refine ⟨sp2AutoOn_requests, sp2AutoOff_stops, sp2Start_activates, sp2Stop_drains,
    ⟨_, exec_sp2DrainDone w s, State.flag_wrb_self _ _ _ _ (by decide)⟩, fun ready full => ?window⟩
  case window =>
    obtain ⟨t, ends, ⟨snrX, snrEff, ngmi, osnrSat, osnr, margin⟩, next⟩ := fomWindowEnd_shows ready full
    exact ⟨t, ends, snrX, snrEff, ngmi, osnrSat, osnr, margin, next⟩

end Sys2Proof.Machine
end

section
/-!
Acquisition (R98 to R106, R117 to R119): how it starts, what its steps show and how it fails, and O15.
-/

namespace Sys2Proof.Machine

-- The row tests below are large kernel evaluations: one theorem at a time bounds the memory of the whole text's check.
set_option Elab.async false

section

variable {s : State} {w : Wing}

/-! ### How an acquisition starts (R117, R118) -/

/-- R117: an acquisition is counted. -/
theorem State.startAcq_counts (s : State) (w : Wing) (warm : Bool) :
    (s.startAcq w warm).rd .RXW_RX_STAT_ACQ_COUNT [w.n] = (s.rd .RXW_RX_STAT_ACQ_COUNT [w.n] + 1) % 65536 := by
  have before : ((s.setRx w 1).clearRx w).rd .RXW_RX_STAT_ACQ_COUNT [w.n] = s.rd .RXW_RX_STAT_ACQ_COUNT [w.n] := by
    rw [(State.clearRx_within (.refl _ _) (covers_self _) w).keeps (by decide +kernel),
      (State.setRx_within (.refl _ s) (covers_self _) w 1).keeps (by decide +kernel)]
  have counted : (((s.setRx w 1).clearRx w).countWrap .RXW_RX_STAT_ACQ_COUNT [w.n]).rd .RXW_RX_STAT_ACQ_COUNT [w.n] =
      (s.rd .RXW_RX_STAT_ACQ_COUNT [w.n] + 1) % 65536 := by
    rw [State.countWrap, State.mirrored_rd, State.rd_wr_self, before]
    rfl
  unfold State.startAcq
  dsimp only
  rw [State.onRx_rd]
  split
  · rw [State.wrS, State.rd_wr_ne _ (by decide), counted]
  · exact counted

/-- R118: an acquisition is warm when it is asked to be and values are stored. -/
theorem State.startAcq_warm (s : State) (w : Wing) (warm : Bool) :
    ((s.startAcq w warm).rx.get w).warm = (warm && (s.rx.get w).stored.isSome) := by
  unfold State.startAcq
  dsimp only
  rw [State.onRx_rx, get_set]
  cases warm <;> rfl

theorem acqStart_answers (core : s.coreRuns = true) (waits : s.rxState w = 0) (able : s.canAcquire w = true)
    {P : State → Prop} (hP : P (s.begin.startAcq w true)) : Answers (.acqStart w) s P := by
  have starts : (decide (s.rxState w = 0) && s.canAcquire w && s.coreRuns) = true := by
    simp [core, waits, able]
  exact ⟨_, congrArg Host.Outcome.next (if_pos starts), hP⟩

theorem acqRetry_answers (core : s.coreRuns = true) (failed : s.rxState w = 15) (able : s.canAcquire w = true)
    {P : State → Prop} (hP : P (s.begin.startAcq w false)) : Answers (.acqRetry w) s P := by
  have starts : (decide (s.rxState w = 15) && s.canAcquire w && s.coreRuns) = true := by
    simp [core, failed, able]
  exact ⟨_, congrArg Host.Outcome.next (if_pos starts), hP⟩

theorem reacq_answers {req : Req} {warm : Bool} (taken : s.takesFrom req = true) (able : s.canAcquire w = true)
    (core : s.coreRuns = true) {P : State → Prop} (hP : P (s.begin.startAcq w warm)) :
    Answers (.reacq req w warm) s P := by
  have starts : (s.canAcquire w && s.coreRuns) = true := by
    rw [able, core]
    rfl
  have reached : s.begin.via req (·.reacquire w warm) = s.begin.reacquire w warm :=
    State.via_of_takesFrom (s := s.begin) taken _
  exact ⟨_, congrArg Host.Outcome.next (reached.trans (if_pos starts)), hP⟩

/-! ### How it fails (R119) -/

/-- R119: a failed acquisition shows FAIL and its reason, and rings. -/
theorem State.failAcq_shows (s : State) (w : Wing) {reason : Nat} (h : reason < 16) :
    (s.failAcq w reason).rd .RXW_RX_STAT_STATE [w.n] = 15 ∧
      (s.failAcq w reason).rd .RXW_RX_STAT_FAIL_REASON [w.n] = reason ∧
      (s.failAcq w reason).flag .RXW_RX_EVT_ACQ_FAIL [w.n] = true := by
  unfold State.failAcq State.flag
  dsimp only
  rw [State.emit_keeps _ _ _ _ _ _ _ _ (by decide), State.emit_keeps _ _ _ _ _ _ _ _ (by decide),
    State.emit_keeps _ _ _ _ _ _ _ _ (by decide), State.rd_when_evt _ _ _ _ (by decide),
    State.rd_when_evt _ _ _ _ (by decide), State.rd_when_evt _ _ _ _ (by decide)]
  refine ⟨?_, ?_, State.flag_evt_self _ _ _ rfl (by decide)⟩
  · rw [State.evt_keeps _ _ _ _ _ _ (by decide), State.rd_wr_ne _ (by decide), State.rd_setRx]
  · rw [State.evt_keeps _ _ _ _ _ _ (by decide), State.rd_wr_self]
    exact Nat.mod_eq_of_lt h

theorem acqFail_shows {reason : Fin 16} (core : s.coreRuns = true)
    (ofStep : (stepReasons (s.rxState w)).contains reason = true) :
    Answers (.acqFail w reason) s (fun t => t.rd .RXW_RX_STAT_STATE [w.n] = 15 ∧
      t.rd .RXW_RX_STAT_FAIL_REASON [w.n] = reason ∧ t.flag .RXW_RX_EVT_ACQ_FAIL [w.n] = true) := by
  have fails : ((stepReasons (s.rxState w)).contains (reason : Nat) && s.coreRuns) = true := by
    rw [ofStep, core]
    rfl
  exact ⟨_, congrArg Host.Outcome.next (if_pos fails), s.begin.failAcq_shows w reason.isLt⟩

/-! ### Its steps (R98, R100, R105, R106, R117) -/

theorem acqStepComplete_answers {m : AcqInput} (core : s.coreRuns = true) (able : s.canAcquire w = true)
    {P : State → Prop} (hP : P (s.begin.acqStep w m)) : Answers (.acqStepComplete w m) s P := by
  have steps : (s.canAcquire w && s.coreRuns) = true := by
    rw [able, core]
    rfl
  exact ⟨_, congrArg Host.Outcome.next (if_pos steps), hP⟩

/-- R119: a receiver that is not READY shows its new state and nothing else. -/
theorem State.setRx_of_acquiring (h : s.rxState w ≠ 11) (st : Nat) :
    s.setRx w st = s.wr .RXW_RX_STAT_STATE [w.n] st := by
  simp [State.setRx, h]

/-- R100: more than 3.5 GHz of offset fails step 2. -/
theorem State.rd_stepFreq (s : State) (w : Wing) (m : AcqInput) :
    (s.stepFreq w m).rd .RXW_RX_STAT_STATE [w.n] = if 3500 < m.freqOffset.natAbs then 15 else 3 := by
  unfold State.stepFreq
  dsimp only
  split
  · exact (State.failAcq_shows _ w (by decide)).1
  · rw [State.enterCd, State.onRx_rd, State.rd_setRx]

/-- R105: more than 50 ppm of offset fails step 4. -/
theorem State.rd_stepTiming (s : State) (w : Wing) (m : AcqInput) :
    (s.stepTiming w m).rd .RXW_RX_STAT_STATE [w.n] = if 5000 < m.timing.natAbs then 15 else 5 := by
  unfold State.stepTiming
  split
  · exact (State.failAcq_shows _ w (by decide)).1
  · rw [State.enterEq, State.onRx_rd, State.rd_setRx]

/-- R106: the equaliser of a cold attempt has converged, and keeps its taps. -/
theorem State.stepEq_converges (step : s.rxState w = 5) (cold : (s.rx.get w).warm = false)
    (regular : (s.rx.get w).dsp.singular = false) (m : AcqInput) :
    (s.stepEq w m).rd .RXW_RX_STAT_STATE [w.n] = 6 ∧ (s.stepEq w m).flag .RXW_EQ_STAT_CONVERGED [w.n] = true ∧
      ((s.stepEq w m).rx.get w).taps = (s.rx.get w).taps := by
  let u := ((s.wrb .RXW_EQ_STAT_CONVERGED [w.n] true).wr .RXW_EQ_STAT_DGD_EST [w.n] (min 255 m.dgd)).wr
    .RXW_EQ_STAT_PDL_EST [w.n] (min 255 m.pdl)
  have acquiring : u.rxState w ≠ 11 := by
    simp (disch := decide) only [u, State.rxState, State.wrb, State.rd_wr_ne]
    rw [← State.rxState, step]
    decide
  have converges : s.stepEq w m = u.setRx w 6 := by
    simp [State.stepEq, cold, regular, u]
  rw [converges, State.setRx_of_acquiring acquiring]
  refine ⟨State.rd_wr_self .., ?_, rfl⟩
  rw [State.flag, State.rd_wr_ne _ (by decide), State.rd_wr_ne _ (by decide), State.rd_wr_ne _ (by decide),
    ← State.flag, State.flag_wrb_self _ _ _ _ (by decide)]

/-- R106: with both outputs on one polarisation the Y filters start again, and step 5 goes on. -/
theorem State.stepEq_of_singular (singular : (s.rx.get w).dsp.singular = true) (m : AcqInput) :
    s.stepEq w m = s.onRx w (fun r => { r with taps := orthogonal r.taps }) := if_pos singular

/-- R117: a receiver that becomes READY shows it, and rings. -/
theorem State.reachReady_shows (s : State) (w : Wing) :
    (s.reachReady w).rd .RXW_RX_STAT_STATE [w.n] = 11 ∧
      (s.reachReady w).flag .RXW_RX_EVT_READY_RISE [w.n] = true := by
  have refresh (t : State) := State.icmRefresh_within (.refl _ t) (covers_self _) w
  have request (t : State) (c : Bool) {r : Row} (k : spares State.sp2Request_touch r = true) :
      (t.when c (·.sp2Request w)).rd r [w.n] = t.rd r [w.n] :=
    State.rd_when (f := (·.sp2Request w)) ((State.sp2Request_within (.refl _ t) (covers_self _) w).keeps k _) c
  unfold State.reachReady
  dsimp only
  refine ⟨?_, ?_⟩
  · rw [(refresh _).keeps (by decide +kernel), request _ _ (by decide +kernel), State.onRx_rd,
      State.evt_keeps _ _ _ _ _ _ (by decide), State.rd_wr_ne _ (by decide), State.wrb, State.rd_wr_ne _ (by decide),
      State.rd_setRx]
  · rw [(refresh _).keepsFlag (by decide +kernel), State.flag, request _ _ (by decide +kernel), ← State.flag,
      State.onRx_flag, State.flag_evt_self _ _ _ rfl (by decide)]

/-- R117: step 6 waits for carrier-frame alignment. -/
theorem State.rd_stepLate_of_six (step : s.rxState w = 6) :
    (s.stepLate w).rd .RXW_RX_STAT_STATE [w.n] = if s.flag .RXW_HDR_STAT_CF_ALIGNED [w.n] then 7 else 6 := by
  unfold State.stepLate
  simp only [step]
  split
  · exact State.rd_setRx ..
  · exact step

theorem State.rd_stepLate_of_seven (step : s.rxState w = 7) : (s.stepLate w).rd .RXW_RX_STAT_STATE [w.n] = 8 := by
  unfold State.stepLate
  simp only [step]
  exact State.rd_setRx ..

/-- R117: step 8 waits for superframe alignment, and fails where the far end's rate differs. -/
theorem State.rd_stepLate_of_eight (step : s.rxState w = 8) :
    (s.stepLate w).rd .RXW_RX_STAT_STATE [w.n] =
      if s.flag .RXW_HDR_STAT_BAUD_MISM [w.n] then 15
      else if s.flag .RXW_HDR_STAT_SF_ALIGNED [w.n] then 9 else 8 := by
  unfold State.stepLate
  simp only [step]
  split
  · exact (State.failAcq_shows _ w (by decide)).1
  split
  · exact State.rd_setRx ..
  · exact step

/-- R117: step 9 waits for the map. -/
theorem State.rd_stepLate_of_nine (step : s.rxState w = 9) :
    (s.stepLate w).rd .RXW_RX_STAT_STATE [w.n] = if s.flag .RXW_HDR_STAT_MAP_VALID [w.n] then 10 else 9 := by
  unfold State.stepLate
  simp only [step]
  split
  · exact State.rd_setRx ..
  · exact step

/-- R117: step 10 waits for the decoder's lock, and ends READY. -/
theorem State.stepLate_of_ten (step : s.rxState w = 10) :
    (s.stepLate w).rd .RXW_RX_STAT_STATE [w.n] = (if s.flag .FEC_STAT_LOCKED [w.n] then 11 else 10) ∧
      (s.flag .FEC_STAT_LOCKED [w.n] = true → (s.stepLate w).flag .RXW_RX_EVT_READY_RISE [w.n] = true) := by
  unfold State.stepLate
  simp only [step]
  obtain ⟨ready, rings⟩ := s.reachReady_shows w
  split
  · exact ⟨ready, fun _ => rings⟩
  · exact ⟨step, fun locked => absurd locked ‹_›⟩

/-- R117: from step 6 on the step completes by what the framing or the decoder has done. -/
theorem State.acqStep_late (step : 5 < s.rxState w) (m : AcqInput) : s.acqStep w m = s.stepLate w := by
  unfold State.acqStep
  split
  case h_6 => rfl
  all_goals omega

/-- R117: the steps before step 6, by the state that the receiver is in. -/
theorem State.acqStep_early (s : State) (w : Wing) (m : AcqInput) :
    (s.rxState w = 1 → s.acqStep w m = s.setRx w 2) ∧ (s.rxState w = 2 → s.acqStep w m = s.stepFreq w m) ∧
      (s.rxState w = 4 → s.acqStep w m = s.stepTiming w m) ∧ (s.rxState w = 5 → s.acqStep w m = s.stepEq w m) := by
  refine ⟨?_, ?_, ?_, ?_⟩ <;> intro step <;> simp only [State.acqStep, step]

end

/-! ### The obligation -/

/-- Settles O15: each clause by the rule of its command or of its step. The Y filters that start again (assumption 64)
and the test for both outputs on one polarisation (assumption 83) are the model's own choices. -/
theorem acquisitionSteps : Obligations.AcquisitionSteps := by
  unfold Obligations.AcquisitionSteps
  intro s w
  refine ⟨?start, ?retry, ?command, fun reason => acqFail_shows, ?step⟩
  case start =>
    intro core waits able
    exact acqStart_answers core waits able ⟨(State.startAcq_starts ..).1, State.startAcq_counts ..,
      State.startAcq_warm ..⟩
  case retry =>
    intro core failed able
    exact acqRetry_answers core failed able ⟨(State.startAcq_starts ..).1, State.startAcq_warm ..⟩
  case command =>
    intro req warm taken able core
    exact reacq_answers taken able core ⟨(State.startAcq_starts ..).1, State.startAcq_warm ..⟩
  case step =>
    intro m core able
    refine acqStepComplete_answers core able ?_
    obtain ⟨one, two, four, five⟩ := s.begin.acqStep_early w m
    have late (after : 5 < s.rxState w) : s.begin.acqStep w m = s.begin.stepLate w :=
      State.acqStep_late (s := s.begin) after m
    refine ⟨?_, ?_, ?_, ?_, ?_, ?_, ?_, ?_, ?_, ?_⟩
    · intro step
      rw [one step, State.rd_setRx]
    · intro step
      rw [two step, State.rd_stepFreq]
    · intro step
      rw [four step, State.rd_stepTiming]
    · intro step cold regular
      rw [five step]
      exact State.stepEq_converges (s := s.begin) step cold regular m
    · intro step singular
      rw [five step, State.stepEq_of_singular (s := s.begin) singular]
      exact ⟨step, by simp⟩
    · intro step
      rw [late (by omega)]
      exact State.rd_stepLate_of_six (s := s.begin) step
    · intro step
      rw [late (by omega)]
      exact State.rd_stepLate_of_seven (s := s.begin) step
    · intro step
      rw [late (by omega)]
      exact State.rd_stepLate_of_eight (s := s.begin) step
    · intro step
      rw [late (by omega)]
      exact State.rd_stepLate_of_nine (s := s.begin) step
    · intro step
      rw [late (by omega)]
      exact State.stepLate_of_ten (s := s.begin) step

end Sys2Proof.Machine
end

section
/-!
The line converters (R122 to R133): what the rotation of one dimension leaves alone, the foreground calibration,
RESTART, the spare's calibration and its hand-over, and O17.
-/

namespace Sys2Proof.Machine

-- The row tests below are large kernel evaluations: one theorem at a time bounds the memory of the whole text's check.
set_option Elab.async false

section

variable {s t u : State} {w : Wing}

/-! ### Loops over the dimensions -/

/-- What no round of a loop changes, the loop keeps. -/
theorem State.upTo_keeps {α : Type} {g : State → α} {f : State → Nat → State}
    (h : ∀ (t : State) (m : Nat), g (f t m) = g t) (s : State) (n : Nat) : g (s.upTo n f) = g s :=
  List.foldlRecOn (motive := fun t : State => g t = g s) _ _ rfl fun t ht m _ => (h t m).trans ht

/-- What round `k` of a loop establishes, where the rounds before it keep what it needs and the other rounds what it
has done. -/
theorem State.upTo_establishes {Q P : State → Prop} {f : State → Nat → State} {k n : Nat} (hk : k < n) (start : Q s)
    (before : ∀ t m, m ≠ k → Q t → Q (f t m)) (turn : ∀ t, Q t → P (f t k))
    (after : ∀ t m, m ≠ k → P t → P (f t m)) : P (s.upTo n f) := by
  have split : List.range n = List.range k ++ k :: List.range' (k + 1) (n - (k + 1)) := by
    have total : n = k + (n - (k + 1) + 1) := by omega
    rw [← List.range'_succ, List.range_eq_range', List.range_eq_range']
    conv_lhs => rw [total, ← List.range'_append_1, Nat.zero_add]
  have early : Q ((List.range k).foldl f s) :=
    List.foldlRecOn (motive := Q) _ _ start fun t ht m hm => before t m (List.mem_range.mp hm).ne ht
  rw [State.upTo, split, List.foldl_append, List.foldl_cons]
  refine List.foldlRecOn (motive := P) _ _ (turn _ early) fun t ht m hm => after t m ?_ ht
  have := (List.mem_range'_1.mp hm).1
  omega

/-! ### A converter dimension -/

@[simp] theorem State.dim_onDim_self (s : State) (w : Wing) (d : Nat) (f : ConvDim → ConvDim) :
    (s.onDim w d f).dim w d = f (s.dim w d) := by
  simp [State.dim, State.onDim, tabGet_set_self]

theorem State.dim_onDim_ne (s : State) (w : Wing) {d e : Nat} (h : e ≠ d) (f : ConvDim → ConvDim) :
    (s.onDim w d f).dim w e = s.dim w e := by
  simp [State.dim, State.onDim, tabGet_set_ne _ _ _ h]

@[simp] theorem State.onDim_rd (s : State) (w : Wing) (d : Nat) (f : ConvDim → ConvDim) (r : Row) (ix : List Nat) :
    (s.onDim w d f).rd r ix = s.rd r ix := rfl

@[simp] theorem State.onDim_flag (s : State) (w : Wing) (d : Nat) (f : ConvDim → ConvDim) (r : Row) (ix : List Nat) :
    (s.onDim w d f).flag r ix = s.flag r ix := rfl

theorem State.dim_congr (h : t.conv = s.conv) (w : Wing) (d : Nat) : t.dim w d = s.dim w d := by
  rw [State.dim, h, State.dim]

/-- R130: the park target depends on the fields of PARK and on their values in use. -/
theorem Within.parkTarget {M : Nat} (h : Within M s t) (inuse : M.testBit Part.inuse.n = false)
    (en : spares M .CNV_PARK_EN = true) (slice : spares M .CNV_PARK_SLICE = true) (d : Nat) :
    t.parkTarget w d = s.parkTarget w d := by
  have same : t.inuse = s.inuse := h.part .inuse inuse
  rw [State.parkTarget, State.use_congr same (h.keeps en _), State.use_congr same (h.keeps slice _), State.parkTarget]

/-- R357: whether a wing is stopped depends on its block and on its power state. -/
theorem Within.wingStopped {M : Nat} (h : Within M s t)
    (k : [.GLB_BLK_CTL_STOPPED, .PWR_STATE_STAT_WING_A, .PWR_STATE_STAT_WING_B].all (spares M) = true) :
    t.wingStopped w = s.wingStopped w := by
  simp only [List.all_cons, List.all_nil, Bool.and_true, Bool.and_eq_true] at k
  obtain ⟨stopped, wingA, wingB⟩ := k
  have power : t.wingState w = s.wingState w := by
    cases w
    · exact h.keeps wingA []
    · exact h.keeps wingB []
  rw [State.wingStopped, State.blockStopped, h.keepsFlag stopped, power]
  rfl

/-- What an operation on the rotation of dimension `d` leaves of its wing's converters: foreground calibration, the
other dimensions, and what its own slices are left with. -/
structure State.Turns (w : Wing) (d : Nat) (s t : State) : Prop where
  foreground : (t.conv.get w).foreground = (s.conv.get w).foreground
  other : ∀ e, e ≠ d → t.dim w e = s.dim w e
  own : (t.dim w d).rest = (s.dim w d).rest

namespace State.Turns

variable {d : Nat}

theorem refl (w : Wing) (d : Nat) (s : State) : s.Turns w d s := ⟨rfl, fun _ _ => rfl, rfl⟩

theorem trans (h : s.Turns w d t) (k : t.Turns w d u) : s.Turns w d u :=
  ⟨k.foreground.trans h.foreground, fun e he => (k.other e he).trans (h.other e he), k.own.trans h.own⟩

theorem of_conv (h : t.conv = s.conv) : s.Turns w d t :=
  ⟨by rw [h], fun e _ => State.dim_congr h w e, by rw [State.dim_congr h]⟩

/-- A change of the dimension that keeps what its slices are left with. -/
theorem of_onDim (f : ConvDim → ConvDim) (hf : ∀ x, (f x).rest = x.rest) (h : t.conv = (s.onDim w d f).conv) :
    s.Turns w d t :=
  have changed : s.Turns w d (s.onDim w d f) :=
    ⟨by simp [State.onDim], fun _ he => State.dim_onDim_ne _ w he f, by rw [State.dim_onDim_self, hf]⟩
  changed.trans (of_conv h)

/-- R123: every dimension keeps what its slices are left with. -/
theorem rest (h : s.Turns w d t) (e : Nat) : (t.dim w e).rest = (s.dim w e).rest := by
  by_cases he : e = d
  · exact he ▸ h.own
  · rw [h.other e he]

end State.Turns

/-! ### The operations of the rotation (R125, R126, R130) -/

@[simp] theorem State.countWrap_conv (s : State) (r : Row) (ix : List Nat) (n : Nat) :
    (s.countWrap r ix n).conv = s.conv := by
  unfold State.countWrap
  obtain h | h := (s.wr r ix (s.rd r ix + n)).mirrored_eq r ix n <;> rw [h] <;> rfl

theorem State.rd_countWrap_self (s : State) (r : Row) (ix : List Nat) (n : Nat) :
    (s.countWrap r ix n).rd r ix = (s.rd r ix + n) % 2 ^ r.width := by
  rw [State.countWrap, State.mirrored_rd, State.rd_wr_self]

theorem State.park_turns (s : State) (w : Wing) (d : Nat) : s.Turns w d (s.park w d) :=
  .of_onDim (fun x => { x with phase := .parked }) (fun _ => rfl) (State.evt_conv ..)

theorem State.calibrate_turns (s : State) (w : Wing) (d : Nat) : s.Turns w d (s.calibrate w d) :=
  .of_onDim (fun x => { x with phase := .calibrating }) (fun _ => rfl) rfl

theorem State.stopDim_turns (s : State) (w : Wing) (d : Nat) : s.Turns w d (s.stopDim w d) :=
  .of_onDim (fun x => { x with phase := .stopped }) (fun _ => rfl) rfl

/-- R125, R126: the walk of a dimension goes on in a direction, or rests while it may not. -/
def State.walk (s : State) (w : Wing) (d : Nat) (up run : Bool) : State :=
  let t := ((s.wrb .CNV_CAL_STAT_RISING [w.n, d] up).wrb .CNV_CAL_STAT_PARKED [w.n, d] false).onDim w d
    (fun x => { x with whole := run })
  if t.mayRotate w d then t.calibrate w d else t.stopDim w d

/-- R130: a rotation parks its spare, or walks it on. -/
theorem State.rotate_cases (s : State) (w : Wing) (d : Nat) (rising whole : Bool) :
    s.rotate w d rising whole = s.park w d ∨ ∃ up run, s.rotate w d rising whole = s.walk w d up run := by
  unfold State.rotate
  split
  · exact .inl rfl
  · exact .inr ⟨_, _, rfl⟩

theorem State.walk_turns (s : State) (w : Wing) (d : Nat) (up run : Bool) : s.Turns w d (s.walk w d up run) := by
  have aims : s.Turns w d (((s.wrb .CNV_CAL_STAT_RISING [w.n, d] up).wrb .CNV_CAL_STAT_PARKED [w.n, d] false).onDim w d
      (fun x => { x with whole := run })) := .of_onDim (fun x => { x with whole := run }) (fun _ => rfl) rfl
  unfold State.walk
  dsimp only
  split
  · exact aims.trans (State.calibrate_turns ..)
  · exact aims.trans (State.stopDim_turns ..)

theorem State.rotate_turns (s : State) (w : Wing) (d : Nat) (rising whole : Bool) :
    s.Turns w d (s.rotate w d rising whole) := by
  obtain parks | ⟨up, run, walks⟩ := s.rotate_cases w d rising whole
  · exact parks ▸ s.park_turns w d
  · exact walks ▸ s.walk_turns w d up run

theorem State.restartDim_turns (s : State) (w : Wing) (d : Nat) : s.Turns w d (s.restartDim w d) := by
  unfold State.restartDim
  split
  · exact .refl w d s
  · exact (Turns.of_conv (State.wr_conv ..)).trans (State.rotate_turns ..)

theorem State.endRun_turns (s : State) (w : Wing) (d : Nat) : s.Turns w d (s.endRun w d) := by
  unfold State.endRun
  dsimp only
  split
  · have counted (done : Bool) : (s.when done (fun s =>
        (s.countWrap .CNV_CAL_STAT_SWEEPS [w.n, d]).evt .CNV_EVT_SWEEP_DONE [w.n])).conv = s.conv := by
      cases done
      · rfl
      · exact (State.evt_conv ..).trans (State.countWrap_conv ..)
    exact (Turns.of_conv (counted _)).trans (.of_onDim (fun x => { x with whole := true }) (fun _ => rfl) rfl)
  · exact .refl w d s

theorem State.steer_turns (s : State) (w : Wing) (d : Nat) : s.Turns w d (s.steer w d) := by
  unfold State.steer
  split
  · exact .refl w d s
  split
  · exact s.park_turns w d
  dsimp only
  split
  · exact .refl w d s
  · exact .of_onDim (fun x => { x with whole := false }) (fun _ => rfl) rfl

/-! ### What a dimension shows (R132) -/

/-- The fields that a dimension's quality figures are, and the spare, on which they depend. -/
def qualRows : List Row := [.CNV_CAL_STAT_SPARE, .CNV_QUAL_VALID, .CNV_QUAL_RES_SKEW, .CNV_QUAL_RES_SPUR]

/-- What the rotation of a dimension shows. -/
def dimRows : List Row := .CNV_CAL_STAT_SWEEPS :: qualRows

/-- A write to one dimension leaves the fields of the others. -/
theorem State.rd_wr_otherDim (s : State) {d e : Nat} (h : d ≠ e) {r x : Row} (hr : r ∈ dimRows) (hx : x ∈ dimRows)
    (v : Nat) : (s.wr r [w.n, d] v).rd x [w.n, e] = s.rd x [w.n, e] := by
  by_cases same : r.id = x.id
  · have sameRow : ∀ r ∈ dimRows, ∀ x ∈ dimRows, r.id = x.id → r = x ∧ r.dims.length = 2 := by decide
    obtain ⟨rfl, dims⟩ := sameRow r hr x hx same
    obtain ⟨ofWing, ofDim, shape⟩ := List.length_eq_two.mp dims
    refine State.rd_wr_inst _ _ ?_ _
    simpa [Row.flat, shape] using h
  · exact State.rd_wr_ne _ same ..

/-- R132: the figures that a dimension shows are those of the slices in service. -/
structure State.ShowsQual (s : State) (w : Wing) (d : Nat) : Prop where
  valid : s.flag .CNV_QUAL_VALID [w.n, d] = true
  skew : s.rd .CNV_QUAL_RES_SKEW [w.n, d] = rmsSkew (s.inService w d) % 2 ^ Row.CNV_QUAL_RES_SKEW.width
  spur : s.rdS .CNV_QUAL_RES_SPUR [w.n, d] =
    toSigned Row.CNV_QUAL_RES_SPUR.width (ofSigned Row.CNV_QUAL_RES_SPUR.width (spurOf (s.inService w d)))

/-- R123: which slices are in service depends on the spare, and what they are left with on the dimension. -/
theorem State.inService_congr {d : Nat} (spare : t.rd .CNV_CAL_STAT_SPARE [w.n, d] = s.rd .CNV_CAL_STAT_SPARE [w.n, d])
    (rest : (t.dim w d).rest = (s.dim w d).rest) : t.inService w d = s.inService w d := by
  rw [State.inService, spare, rest, State.inService]

/-- The figures stay those of the slices in service. -/
theorem State.ShowsQual.congr {d : Nat} (h : s.ShowsQual w d)
    (rows : ∀ r ∈ qualRows, t.rd r [w.n, d] = s.rd r [w.n, d]) (rest : (t.dim w d).rest = (s.dim w d).rest) :
    t.ShowsQual w d := by
  simp only [qualRows, List.forall_mem_cons] at rows
  obtain ⟨spare, valid, skew, spur, -⟩ := rows
  have same := State.inService_congr spare rest
  refine ⟨?_, ?_, ?_⟩
  · rw [State.flag, valid, ← State.flag, h.valid]
  · rw [skew, same, h.skew]
  · rw [State.rdS, spur, ← State.rdS, same, h.spur]

@[simp] theorem State.setQual_conv (s : State) (w : Wing) (d : Nat) : (s.setQual w d).conv = s.conv := by
  rw [State.setQual, State.wrb, State.wr_conv, State.wrS, State.wr_conv, State.wr_conv]

@[simp] theorem State.takePark_conv (s : State) (w : Wing) (d : Nat) : (s.takePark w d).conv = s.conv := rfl

/-- R132: the figures are computed for the slices in service. -/
theorem State.setQual_shows (s : State) (w : Wing) (d : Nat) : (s.setQual w d).ShowsQual w d := by
  have same : (s.setQual w d).inService w d = s.inService w d := by
    refine State.inService_congr ?_ (by rw [State.dim_congr (State.setQual_conv ..)])
    rw [State.setQual, State.wrb, State.rd_wr_ne _ (by decide), State.wrS, State.rd_wr_ne _ (by decide),
      State.rd_wr_ne _ (by decide)]
  refine ⟨State.flag_wrb_self _ _ _ _ (by decide), ?_, ?_⟩
  · rw [same, State.setQual, State.wrb, State.rd_wr_ne _ (by decide), State.wrS, State.rd_wr_ne _ (by decide),
      State.rd_wr_self]
  · rw [same, State.rdS, State.setQual, State.wrb, State.rd_wr_ne _ (by decide), State.wrS, State.rd_wr_self,
      Nat.mod_eq_of_lt (ofSigned_lt ..)]

/-! ### Sample clocks and the start of foreground calibration (R122, R129) -/

/-- R129, R137: what the start of foreground calibration does to one dimension. -/
def State.foregroundDim (s : State) (w : Wing) (d : Nat) : State :=
  ((((((s.onDim w d (fun x => { x with phase := .stopped, trims := none })).wrb .CNV_QUAL_VALID [w.n, d] false).wrb
    .CNV_CAL_STAT_ROTATING [w.n, d] false).wrb .CNV_CAL_STAT_CALIBRATING [w.n, d] false).wrb .CNV_DIM_FLAGS_STALE
    [w.n, d] true).upTo 65 (fun s i => s.wrb .CNV_SLICE_FLAGS_STALE [w.n, d, i] true))

theorem State.foreground_eq (s : State) (w : Wing) : s.foreground w =
    (s.onConv w (fun c => { c with foreground := true })).upTo 4 (fun s d => s.foregroundDim w d) := rfl

theorem State.foregroundDim_turns (s : State) (w : Wing) (d : Nat) : s.Turns w d (s.foregroundDim w d) :=
  .of_onDim (fun x => { x with phase := .stopped, trims := none }) (fun _ => rfl)
    (State.upTo_keeps (g := State.conv) (fun _ _ => State.wr_conv ..) _ _)

/-- R129: of the validity of figures, the start in dimension `d` clears its own. -/
theorem State.foregroundDim_valid (s : State) (w : Wing) (d e : Nat) :
    (s.foregroundDim w d).flag .CNV_QUAL_VALID [w.n, e] =
      if d = e then false else s.flag .CNV_QUAL_VALID [w.n, e] := by
  have stale (t : State) (i : Nat) : (t.wrb .CNV_SLICE_FLAGS_STALE [w.n, d, i] true).rd .CNV_QUAL_VALID [w.n, e] =
      t.rd .CNV_QUAL_VALID [w.n, e] := State.rd_wr_ne _ (by decide) ..
  rw [State.flag, State.foregroundDim, State.rd_upTo stale, ← State.flag, State.flag_wrb_ne _ (by decide),
    State.flag_wrb_ne _ (by decide), State.flag_wrb_ne _ (by decide)]
  split
  case isTrue same =>
    subst same
    exact State.flag_wrb_self _ _ _ _ (by decide)
  case isFalse apart =>
    rw [State.flag, State.wrb, State.rd_wr_otherDim _ apart (by decide) (by decide)]
    rfl

/-- R129, R137: foreground calibration runs, and nothing is valid. -/
theorem State.foreground_shows (s : State) (w : Wing) : ((s.foreground w).conv.get w).foreground = true ∧
    ∀ d : Fin 4, (s.foreground w).flag .CNV_QUAL_VALID [w.n, d] = false := by
  rw [State.foreground_eq]
  refine ⟨?_, fun d => ?_⟩
  · rw [State.upTo_keeps (g := fun t => (t.conv.get w).foreground) fun t m => (t.foregroundDim_turns w m).foreground]
    simp
  · refine State.upTo_establishes (Q := fun _ => True) (P := fun t => t.flag .CNV_QUAL_VALID [w.n, d] = false) d.isLt
      trivial (fun _ _ _ h => h) (fun t _ => ?_) (fun t m other h => ?_)
    · rw [State.foregroundDim_valid, if_pos rfl]
    · rw [State.foregroundDim_valid, if_neg other, h]

theorem synthLock_adc (idle : s.flag .CNV_ADC_CLK_LOCKED [w.n] = false) :
    Answers (.synthLock w true) s (fun t => t.flag .CNV_ADC_CLK_LOCKED [w.n] = true ∧
      t.rd .CNV_ADC_CLK_FS [w.n] = sampleRate (s.rd .RXW_RATE_BAUD [w.n]) % 2 ^ Row.CNV_ADC_CLK_FS.width ∧
      (t.conv.get w).foreground = true ∧ ∀ d : Fin 4, t.flag .CNV_QUAL_VALID [w.n, d] = false) := by
  have calibrates (u : State) := State.foreground_within (.refl _ u) (covers_self _) w
  have unlocked : ¬s.begin.flag .CNV_ADC_CLK_LOCKED [w.n] = true := by simp [idle]
  refine ⟨_, congrArg Host.Outcome.next (if_neg unlocked), ?_, ?_, State.foreground_shows ..⟩
  · rw [(calibrates _).keepsFlag (by decide +kernel), State.flag, State.rd_wr_ne _ (by decide)]
    exact State.flag_wrb_self _ _ _ _ (by decide)
  · rw [(calibrates _).keeps (by decide +kernel), State.rd_wr_self]
    rfl

theorem synthLock_dac (s : State) (w : Wing) :
    Answers (.synthLock w false) s (fun t => t.flag .CNV_DAC_CLK_LOCKED [w.n] = true ∧
      t.rd .CNV_DAC_CLK_FS [w.n] = sampleRate (s.rd .TXW_RATE_BAUD [w.n]) % 2 ^ Row.CNV_DAC_CLK_FS.width) := by
  refine ⟨_, congrArg Host.Outcome.next (if_neg Bool.false_ne_true), ?_, ?_⟩
  · rw [State.flag, State.rd_wr_ne _ (by decide)]
    exact State.flag_wrb_self _ _ _ _ (by decide)
  · rw [State.rd_wr_self]
    rfl

/-! ### The end of foreground calibration (R129) -/

/-- R129: what the end of foreground calibration does to one dimension. -/
def State.completeDim (s : State) (w : Wing) (d : Nat) : State :=
  (((s.wr .CNV_CAL_STAT_SPARE [w.n, d] 64).setQual w d).takePark w d).rotate w d false true

/-- R130: PARK takes force, and the rotation begins. -/
theorem State.rotate_takePark_turns (s : State) (w : Wing) (d : Nat) (rising whole : Bool) :
    s.Turns w d ((s.takePark w d).rotate w d rising whole) :=
  (Turns.of_conv (State.takePark_conv s w d)).trans (State.rotate_turns ..)

/-- R130: neither PARK nor the start of the rotation changes what a dimension shows of its slices in service. -/
theorem State.rd_rotate_takePark (s : State) (w : Wing) (d : Nat) (rising whole : Bool) {r : Row} (hr : r ∈ qualRows)
    (ix : List Nat) : ((s.takePark w d).rotate w d rising whole).rd r ix = s.rd r ix := by
  have rotate : qualRows.all (spares State.rotate_touch) = true := by decide +kernel
  exact (State.rotate_within (.refl _ _) (covers_self _) w d rising whole).keeps (List.all_eq_true.mp rotate r hr) ix

theorem State.completeDim_turns (s : State) (w : Wing) (d : Nat) : s.Turns w d (s.completeDim w d) := by
  have prepared : s.Turns w d ((s.wr .CNV_CAL_STAT_SPARE [w.n, d] 64).setQual w d) :=
    .of_conv (by rw [State.setQual_conv, State.wr_conv])
  exact prepared.trans (State.rotate_takePark_turns ..)

theorem State.completeDim_other (s : State) (w : Wing) {d e : Nat} (h : d ≠ e) {r : Row} (hr : r ∈ qualRows) :
    (s.completeDim w d).rd r [w.n, e] = s.rd r [w.n, e] := by
  have shown : r ∈ dimRows := List.mem_cons_of_mem _ hr
  rw [State.completeDim, State.rd_rotate_takePark _ _ _ _ _ hr, State.setQual, State.wrb,
    State.rd_wr_otherDim _ h (by decide) shown, State.wrS, State.rd_wr_otherDim _ h (by decide) shown,
    State.rd_wr_otherDim _ h (by decide) shown, State.rd_wr_otherDim _ h (by decide) shown]

theorem State.completeDim_shows (s : State) (w : Wing) (d : Nat) :
    (s.completeDim w d).rd .CNV_CAL_STAT_SPARE [w.n, d] = 64 ∧ (s.completeDim w d).ShowsQual w d := by
  have figures := (s.wr .CNV_CAL_STAT_SPARE [w.n, d] 64).setQual_shows w d
  refine ⟨?_, figures.congr (fun r hr => State.rd_rotate_takePark _ _ _ _ _ hr _)
    (State.rotate_takePark_turns ..).own⟩
  rw [State.completeDim, State.rd_rotate_takePark _ _ _ _ _ (by decide), State.setQual, State.wrb,
    State.rd_wr_ne _ (by decide), State.wrS, State.rd_wr_ne _ (by decide), State.rd_wr_ne _ (by decide),
    State.rd_wr_self]
  rfl

theorem fgCalComplete_completes (trims : List SliceTrim) (runs : (s.conv.get w).foreground = true)
    (clock : s.flag .CNV_ADC_CLK_LOCKED [w.n] = true) :
    Answers (.fgCalComplete w trims) s (fun t => (t.conv.get w).foreground = false ∧
      ∀ d : Fin 4, t.rd .CNV_CAL_STAT_SPARE [w.n, d] = 64 ∧ t.ShowsQual w d) := by
  have ends : ¬(!(s.begin.conv.get w).foreground || !s.begin.flag .CNV_ADC_CLK_LOCKED [w.n]) = true := by
    simp [runs, clock]
  refine ⟨_, if_neg ends, ?_, fun d => ?_⟩
  · have kept (u : State) : ((u.upTo 4 (fun s d => s.completeDim w d)).conv.get w).foreground =
        (u.conv.get w).foreground :=
      State.upTo_keeps (g := fun t => (t.conv.get w).foreground) (fun t m => (t.completeDim_turns w m).foreground) u 4
    refine (kept _).trans ?_
    simp
  · refine State.upTo_establishes (f := fun s d => s.completeDim w d) (Q := fun _ => True)
      (P := fun t => t.rd .CNV_CAL_STAT_SPARE [w.n, d] = 64 ∧ t.ShowsQual w d) d.isLt trivial (fun _ _ _ h => h)
      (fun t _ => t.completeDim_shows w d) ?_
    intro t m other ⟨spare, figures⟩
    refine ⟨(t.completeDim_other w other (by decide)).trans spare, ?_⟩
    exact figures.congr (fun r hr => t.completeDim_other w other hr) (State.Turns.rest (t.completeDim_turns w m) d)

/-! ### RESTART (R129, R138) -/

theorem calRestart_answers {req : Req} (taken : s.takesFrom req = true) {P : State → Prop}
    (hP : P (s.begin.restartWrite w)) : Answers (.calRestart req w) s P :=
  ⟨_, congrArg Host.Outcome.next (State.via_of_takesFrom (s := s.begin) taken _), hP⟩

/-- R129: RESTART of a stopped wing with its clock locked is a foreground calibration. -/
theorem State.restartWrite_of_stopped (stopped : s.wingStopped w = true)
    (clock : s.flag .CNV_ADC_CLK_LOCKED [w.n] = true) : s.restartWrite w = s.foreground w := by
  simp [State.restartWrite, State.restartCal, stopped, clock]

/-- R138: while hand-overs come RESTART waits for one. -/
theorem State.restartWrite_of_handsOver (runs : s.wingStopped w = false) (comes : s.handsOver w = true) :
    s.restartWrite w = s.onConv w (fun c => { c with restartDue := true }) := by
  simp [State.restartWrite, runs, comes]

/-- R129: RESTART of a running wing. -/
theorem State.restartCal_of_runs (runs : s.wingStopped w = false) :
    s.restartCal w = if (s.conv.get w).foreground then s else s.upTo 4 (fun s d => s.restartDim w d) := by
  simp [State.restartCal, runs]

theorem State.restartDim_sweeps (h : (s.dim w d).phase ≠ .parked) :
    (s.restartDim w d).rd .CNV_CAL_STAT_SWEEPS [w.n, d] = 0 := by
  rw [State.restartDim, if_neg h, (State.rotate_within (.refl _ _) (covers_self _) w d _ _).keeps (by decide +kernel),
    State.rd_wr_self, Nat.zero_mod]

theorem State.restartDim_sweeps_other (s : State) (w : Wing) {d e : Nat} (h : d ≠ e) :
    (s.restartDim w d).rd .CNV_CAL_STAT_SWEEPS [w.n, e] = s.rd .CNV_CAL_STAT_SWEEPS [w.n, e] := by
  unfold State.restartDim
  split
  · rfl
  · rw [(State.rotate_within (.refl _ _) (covers_self _) w d _ _).keeps (by decide +kernel),
      State.rd_wr_otherDim _ h (by decide) (by decide)]

/-- R129, R139: where it acts at once RESTART starts every dimension anew that is not parked. -/
theorem State.restartWrite_sweeps (runs : s.wingStopped w = false) (done : (s.conv.get w).foreground = false)
    (now : s.handsOver w = false) (d : Fin 4) (walks : (s.dim w d).phase ≠ .parked) :
    (s.restartWrite w).rd .CNV_CAL_STAT_SWEEPS [w.n, d] = 0 := by
  have restarts : s.restartWrite w = s.upTo 4 (fun s d => s.restartDim w d) := by
    simp [State.restartWrite, State.restartCal_of_runs, runs, done, now]
  rw [restarts]
  refine State.upTo_establishes (Q := fun t => (t.dim w d).phase ≠ .parked)
    (P := fun t => t.rd .CNV_CAL_STAT_SWEEPS [w.n, d] = 0) d.isLt walks ?_ (fun t h => State.restartDim_sweeps h) ?_
  · intro t m other h
    rwa [(t.restartDim_turns w m).other d other.symm]
  · intro t m other h
    rw [State.restartDim_sweeps_other _ _ other, h]

/-! ### The spare's calibration and the dwell (R125, R128) -/

/-- R125, R128: the spare's calibration is over: without light its skew step has been skipped, and is counted. -/
def State.calibrated (s : State) (w : Wing) (d : Nat) (found : Trims) : State :=
  ((s.when (s.flag .OPT_RX_STAT_LOS [w.n]) (·.countWrap .CNV_CAL_STAT_SKEW_SKIPPED [w.n, d])).wrb
    .CNV_CAL_STAT_CALIBRATING [w.n, d] false).onDim w d
      (fun x => { x with phase := .overlap, trims := some (s.calFound w d found) })

/-- What `State.calibrated` may write. -/
def State.calibrated_touch : Nat :=
  union [Row.CNV_CAL_STAT_CALIBRATING.bit, Row.CNV_CAL_STAT_SKEW_SKIPPED.bit, State.countWrap_touch,
    State.onDim_touch]

theorem State.calibrated_within {M : Nat} (k : Covers M State.calibrated_touch) (s : State) (w : Wing) (d : Nat)
    (found : Trims) : Within M s (s.calibrated w d found) := by
  simp only [State.calibrated_touch, covers_union] at k
  obtain ⟨calibrating, skipped, count, turn, -⟩ := k
  refine State.onDim_within (State.wrb_within (State.when_within (.refl _ s) (fun t => ?_) _) _ (.inl calibrating) _ _)
    turn w d _
  exact State.countWrap_within (.refl _ t) count _ (.inl skipped) _ _

theorem State.rd_calibrated_skipped (s : State) (w : Wing) (d : Nat) (found : Trims) :
    (s.calibrated w d found).rd .CNV_CAL_STAT_SKEW_SKIPPED [w.n, d] = if s.flag .OPT_RX_STAT_LOS [w.n]
      then (s.rd .CNV_CAL_STAT_SKEW_SKIPPED [w.n, d] + 1) % 2 ^ Row.CNV_CAL_STAT_SKEW_SKIPPED.width
      else s.rd .CNV_CAL_STAT_SKEW_SKIPPED [w.n, d] := by
  rw [State.calibrated, State.onDim_rd, State.wrb, State.rd_wr_ne _ (by decide)]
  cases s.flag .OPT_RX_STAT_LOS [w.n]
  · rw [State.when_false, if_neg Bool.false_ne_true]
  · rw [State.when_true, if_pos rfl, State.rd_countWrap_self]

theorem spareCalComplete_waits (d : Fin 4) (found : Trims) (step : (s.dim w d).phase = .calibrating)
    (works : s.convWorks w = true) (free : s.parkTarget w d = none) :
    Answers (.spareCalComplete w d found) s (fun t => (t.dim w d).phase = .overlap ∧
      t.flag .CNV_CAL_STAT_CALIBRATING [w.n, d] = false ∧ (t.dim w d).trims = some (s.calFound w d found) ∧
      (s.flag .OPT_RX_STAT_LOS [w.n] = true → (s.calFound w d found).tap = (s.skewFound w d).1) ∧
      t.rd .CNV_CAL_STAT_SKEW_SKIPPED [w.n, d] = (if s.flag .OPT_RX_STAT_LOS [w.n]
        then (s.rd .CNV_CAL_STAT_SKEW_SKIPPED [w.n, d] + 1) % 2 ^ Row.CNV_CAL_STAT_SKEW_SKIPPED.width else
        s.rd .CNV_CAL_STAT_SKEW_SKIPPED [w.n, d])) := by
  have runs : ¬(decide ((s.begin.dim w d).phase ≠ .calibrating) || !s.begin.convWorks w) = true := by
    have step' : (s.begin.dim w d).phase = .calibrating := step
    have works' : s.begin.convWorks w = true := works
    simp [step', works']
  have stays : (s.begin.calibrated w d found).parkTarget w d ≠
      some ((s.begin.calibrated w d found).spare w d) := by
    rw [(State.calibrated_within (covers_self _) s.begin w d found).parkTarget (by decide +kernel) (by decide +kernel)
      (by decide +kernel)]
    exact free ▸ nofun
  refine ⟨s.begin.calibrated w d found, ?_, ?_, ?_, ?_, ?_, State.rd_calibrated_skipped ..⟩
  · rw [exec_spareCalComplete, execSpareCalComplete]
    exact (if_neg runs).trans (congrArg Host.Outcome.next (if_neg stays))
  · rw [State.calibrated, State.dim_onDim_self]
  · exact State.flag_wrb_self _ _ _ _ (by decide)
  · rw [State.calibrated, State.dim_onDim_self]
    rfl
  · intro dark
    simp [State.calFound, dark]

theorem dwellExpiry_calibrates (d : Fin 4) (dwells : (s.dim w d).phase = .dwell) (may : s.mayRotate w d = true)
    (works : s.convWorks w = true) (core : s.coreRuns = true) :
    Answers (.dwellExpiry w d) s (fun t => (t.dim w d).phase = .calibrating ∧
      t.flag .CNV_CAL_STAT_CALIBRATING [w.n, d] = true) := by
  have begins : (decide ((s.dim w d).phase = .dwell) && s.mayRotate w d && s.convWorks w && s.coreRuns) = true := by
    simp [dwells, may, works, core]
  refine ⟨_, congrArg Host.Outcome.next (if_pos begins), ?_, State.flag_wrb_self _ _ _ _ (by decide)⟩
  have turned : ((s.begin.calibrate w d).dim w d) =
      (s.begin.onDim w d (fun x => { x with phase := .calibrating })).dim w d := rfl
  rw [turned, State.dim_onDim_self]

/-! ### The hand-over (R124, R126, R131, R132) -/

/-- R131: what the spare's calibration found comes into force. -/
def State.inForce (s : State) (w : Wing) (d : Nat) : State :=
  match (s.dim w d).trims with
  | some t => s.setTrim w d (s.spare w d) t
  | none => s

/-- R126, R130: once the spare has moved, the run may end, PARK takes force and the walk may turn. -/
def State.walkOn (s : State) (w : Wing) (d : Nat) : State := ((s.endRun w d).takePark w d).steer w d

/-- R126: the spare moves and the dwell begins. -/
def State.moveSpare (s : State) (w : Wing) (d k : Nat) : State :=
  (s.wr .CNV_CAL_STAT_SPARE [w.n, d] k).onDim w d (fun x => { x with phase := .dwell, trims := none })

theorem State.handover_eq (s : State) (w : Wing) (d : Nat) : s.handover w d =
    (((s.inForce w d).moveSpare w d (if (s.inForce w d).flag .CNV_CAL_STAT_RISING [w.n, d]
      then min 64 (s.spare w d + 1) else s.spare w d - 1)).walkOn w d).setQual w d := rfl

/-- What `State.walkOn` may write. -/
def State.walkOn_touch : Nat := union [State.endRun_touch, State.takePark_touch, State.steer_touch]

theorem State.walkOn_within {M : Nat} {s₀ s : State} (h : Within M s₀ s) (k : Covers M State.walkOn_touch) (w : Wing)
    (d : Nat) : Within M s₀ (s.walkOn w d) := by
  simp only [State.walkOn_touch, covers_union] at k
  obtain ⟨ends, park, steers, -⟩ := k
  exact State.steer_within (State.takePark_within (State.endRun_within h ends w d) park w d) steers w d

theorem State.walkOn_turns (s : State) (w : Wing) (d : Nat) : s.Turns w d (s.walkOn w d) :=
  have parks : (s.endRun w d).Turns w d ((s.endRun w d).takePark w d) := .of_conv (State.takePark_conv ..)
  ((s.endRun_turns w d).trans parks).trans (State.steer_turns _ w d)

/-- R124, R131: the trims in force are those found, at their limits, and the digital correction carries the rest. -/
theorem State.setTrim_shows (s : State) (w : Wing) (d k : Nat) (x : Trims) :
    (s.setTrim w d k x).rdS .CNV_TRIM_OFFSET [w.n, d, k] = offsetTrim x ∧
      (s.setTrim w d k x).rdS .CNV_TRIM_GAIN [w.n, d, k] = gainTrim x ∧
      (s.setTrim w d k x).rd .CNV_TRIM_SKEW_TAP [w.n, d, k] = tapTrim x ∧
      tabGet SliceRest.zero ((s.setTrim w d k x).dim w d).rest k = Machine.restOf x x.residual := by
  have low (v : Int) : -2 ^ (8 - 1) ≤ clampInt (-128) 127 v := by unfold clampInt; omega
  have high (v : Int) : clampInt (-128) 127 v < 2 ^ (8 - 1) := by unfold clampInt; omega
  have tap : tapTrim x < 2 ^ 10 := by unfold tapTrim clampInt; omega
  refine ⟨?_, ?_, ?_, ?_⟩
  · rw [State.rdS, State.setTrim, State.onDim_rd, State.rd_wr_ne _ (by decide), State.wrS, State.rd_wr_ne _ (by decide)]
    exact State.rdS_wrS_self s .CNV_TRIM_OFFSET _ (by decide) (low _) (high _)
  · rw [State.rdS, State.setTrim, State.onDim_rd, State.rd_wr_ne _ (by decide)]
    exact State.rdS_wrS_self _ .CNV_TRIM_GAIN _ (by decide) (low _) (high _)
  · rw [State.setTrim, State.onDim_rd, State.rd_wr_self]
    exact Nat.mod_eq_of_lt tap
  · rw [State.setTrim, State.dim_onDim_self, tabGet_set_self]

/-- R131: a result that waits for the hand-over comes into force. -/
theorem State.inForce_of_trims {d : Nat} {x : Trims} (h : (s.dim w d).trims = some x) :
    s.inForce w d = s.setTrim w d (s.spare w d) x := by
  simp only [State.inForce, h]

theorem State.inForce_rising (s : State) (w : Wing) (d : Nat) :
    (s.inForce w d).flag .CNV_CAL_STAT_RISING [w.n, d] = s.flag .CNV_CAL_STAT_RISING [w.n, d] := by
  unfold State.inForce
  split
  · exact (State.setTrim_within (.refl _ s) (covers_self _) w d _ _).keepsFlag (by decide +kernel) _
  · rfl

/-- The fields that show the trims in force. -/
def trimRows : List Row := [.CNV_TRIM_OFFSET, .CNV_TRIM_GAIN, .CNV_TRIM_SKEW_TAP]

/-- R126: the hand-over moves the spare one slice along the walk. -/
theorem State.handover_spare (s : State) (w : Wing) (d : Nat) : (s.handover w d).rd .CNV_CAL_STAT_SPARE [w.n, d] =
    (if s.flag .CNV_CAL_STAT_RISING [w.n, d] then min 64 (s.spare w d + 1) else s.spare w d - 1) % 128 := by
  rw [State.handover_eq, (State.setQual_within (.refl _ _) (covers_self _) w d).keeps (by decide +kernel),
    (State.walkOn_within (.refl _ _) (covers_self _) w d).keeps (by decide +kernel), State.moveSpare, State.onDim_rd,
    State.rd_wr_self, State.inForce_rising]
  rfl

/-- R132: the hand-over ends with the quality figures. -/
theorem State.handover_shows (s : State) (w : Wing) (d : Nat) : (s.handover w d).ShowsQual w d :=
  State.setQual_shows ..

/-- R124: of the trims a hand-over brings into force only those of its spare. -/
theorem State.handover_trim (s : State) (w : Wing) (d : Nat) {r : Row} (hr : r ∈ trimRows) (ix : List Nat) :
    (s.handover w d).rd r ix = (s.inForce w d).rd r ix := by
  have figures : trimRows.all (spares State.setQual_touch) = true := by decide +kernel
  have walks : trimRows.all (spares State.walkOn_touch) = true := by decide +kernel
  have spare : ∀ r ∈ trimRows, Row.CNV_CAL_STAT_SPARE.id ≠ r.id := by decide
  rw [State.handover_eq,
    (State.setQual_within (.refl _ _) (covers_self _) w d).keeps (List.all_eq_true.mp figures r hr),
    (State.walkOn_within (.refl _ _) (covers_self _) w d).keeps (List.all_eq_true.mp walks r hr), State.moveSpare,
    State.onDim_rd, State.rd_wr_ne _ (spare r hr)]

theorem State.handover_rest (s : State) (w : Wing) (d : Nat) :
    ((s.handover w d).dim w d).rest = ((s.inForce w d).dim w d).rest := by
  rw [State.handover_eq, State.dim_congr (State.setQual_conv ..), (State.walkOn_turns _ w d).own, State.moveSpare,
    State.dim_onDim_self, State.dim_congr (State.wr_conv ..)]

/-! ### What waited for the hand-over (R138) -/

/-- R138: a DAC calibration that waited for the hand-over is taken. -/
def State.takeDac (s : State) (w : Wing) : State :=
  (s.onConv w (fun c => { c with restartDue := false, dacDue := false })).when (s.conv.get w).dacDue (·.dacCal w)

/-- What `State.takeDac` may write. -/
def State.takeDac_touch : Nat := union [State.dacCal_touch, State.onConv_touch]

theorem State.takeDac_within {M : Nat} {s₀ s : State} (h : Within M s₀ s) (k : Covers M State.takeDac_touch)
    (w : Wing) : Within M s₀ (s.takeDac w) := by
  simp only [State.takeDac_touch, covers_union] at k
  obtain ⟨dac, conv, -⟩ := k
  exact State.when_within (State.onConv_within h conv w _) (fun t => State.dacCal_within (.refl _ t) dac w) _

@[simp] theorem State.dacCal_conv (s : State) (w : Wing) : (s.dacCal w).conv = s.conv :=
  (State.dacCal_within (.refl _ s) (covers_self _) w).part .conv (by decide +kernel)

theorem State.takeDac_dim (s : State) (w : Wing) (d : Nat) : (s.takeDac w).dim w d = s.dim w d := by
  unfold State.takeDac
  cases (s.conv.get w).dacDue
  · simp [State.dim]
  · simp [State.dim]

/-- R129, R138: in a running wing a RESTART that waited for the hand-over starts the dimensions anew. -/
theorem State.afterHandover_cases (runs : s.wingStopped w = false) :
    s.afterHandover w = s.takeDac w ∨ s.afterHandover w = (s.takeDac w).upTo 4 (fun s d => s.restartDim w d) := by
  have still : (s.takeDac w).wingStopped w = false :=
    ((State.takeDac_within (.refl _ s) (covers_self _) w).wingStopped (by decide +kernel)).trans runs
  have unfolded : s.afterHandover w = (s.takeDac w).when (s.conv.get w).restartDue (·.restartCal w) := rfl
  rw [unfolded]
  cases (s.conv.get w).restartDue
  · exact .inl rfl
  · rw [State.when_true, State.restartCal_of_runs still]
    split
    · exact .inl rfl
    · exact .inr rfl

/-- R138, R139: after a hand-over a rotation without BG_EN stops, and what waited for a hand-over acts. -/
def State.settle (s : State) (w : Wing) (d : Nat) : State :=
  (s.when (!s.flag .CNV_CAL_CTL_BG_EN [w.n] && (s.dim w d).phase != .parked) (·.stopDim w d)).afterHandover w

/-- What `State.settle` may write while the wing runs. -/
def State.settle_touch : Nat := union [State.stopDim_touch, State.takeDac_touch, State.restartDim_touch]

theorem State.wingStopped_when_stopDim (s : State) (w : Wing) (d : Nat) (c : Bool) :
    (s.when c (·.stopDim w d)).wingStopped w = s.wingStopped w := by
  cases c
  · rfl
  · exact (State.stopDim_within (.refl _ s) (covers_self _) w d).wingStopped (by decide +kernel)

theorem State.settle_within {M : Nat} (k : Covers M State.settle_touch) (runs : s.wingStopped w = false) (d : Nat) :
    Within M s (s.settle w d) := by
  simp only [State.settle_touch, covers_union] at k
  obtain ⟨stops, dac, restart, -⟩ := k
  have taken (c : Bool) : Within M s ((s.when c (·.stopDim w d)).takeDac w) :=
    State.takeDac_within (State.when_within (.refl _ s) (fun t => State.stopDim_within (.refl _ t) stops w d) c) dac w
  obtain takes | restarts := State.afterHandover_cases ((s.wingStopped_when_stopDim w d _).trans runs)
  · rw [State.settle, takes]
    exact taken _
  · rw [State.settle, restarts]
    exact State.upTo_within (taken _) (fun t m => State.restartDim_within (.refl _ t) restart w m) 4

theorem State.settle_rest (runs : s.wingStopped w = false) (d e : Nat) :
    ((s.settle w d).dim w e).rest = (s.dim w e).rest := by
  have taken (c : Bool) : (((s.when c (·.stopDim w d)).takeDac w).dim w e).rest = (s.dim w e).rest := by
    rw [State.takeDac_dim]
    cases c
    · rfl
    · exact (s.stopDim_turns w d).rest e
  obtain takes | restarts := State.afterHandover_cases ((s.wingStopped_when_stopDim w d _).trans runs)
  · rw [State.settle, takes, taken]
  · rw [State.settle, restarts, State.upTo_keeps (g := fun t => (t.dim w e).rest) fun t m =>
      (t.restartDim_turns w m).rest e, taken]

theorem sliceHandover_moves (d : Fin 4) (due : (s.dim w d).phase = .overlap) (runs : s.wingStopped w = false) :
    Answers (.sliceHandover w d) s (fun t => t.rd .CNV_CAL_STAT_SPARE [w.n, d] =
        (if s.flag .CNV_CAL_STAT_RISING [w.n, d] then min 64 (s.spare w d + 1) else s.spare w d - 1) % 128 ∧
      t.ShowsQual w d ∧ (∀ x : Trims, (s.dim w d).trims = some x →
        t.rdS .CNV_TRIM_OFFSET [w.n, d, s.spare w d] = offsetTrim x ∧
        t.rdS .CNV_TRIM_GAIN [w.n, d, s.spare w d] = gainTrim x ∧
        t.rd .CNV_TRIM_SKEW_TAP [w.n, d, s.spare w d] = tapTrim x ∧
        tabGet SliceRest.zero (t.dim w d).rest (s.spare w d) = restOf x x.residual)) := by
  have still : (s.begin.handover w d).wingStopped w = false :=
    ((State.handover_within (.refl _ s.begin) (covers_self _) w d).wingStopped (by decide +kernel)).trans runs
  have settles := State.settle_within (covers_self _) still d
  have rest := State.settle_rest still d d
  have figures : qualRows.all (spares State.settle_touch) = true := by decide +kernel
  have trims : trimRows.all (spares State.settle_touch) = true := by decide +kernel
  refine ⟨(s.begin.handover w d).settle w d, congrArg Host.Outcome.next (if_pos due), ?_, ?_, fun x found => ?_⟩
  · rw [settles.keeps (List.all_eq_true.mp figures _ (by decide)), State.handover_spare]
    rfl
  · exact (State.handover_shows ..).congr (fun r hr => settles.keeps (List.all_eq_true.mp figures r hr) _) rest
  · have kept {r : Row} (hr : r ∈ trimRows) (ix : List Nat) : ((s.begin.handover w d).settle w d).rd r ix =
        (s.begin.setTrim w d (s.begin.spare w d) x).rd r ix := by
      rw [settles.keeps (List.all_eq_true.mp trims r hr), State.handover_trim _ _ _ hr,
        State.inForce_of_trims (s := s.begin) found]
    have carried : (((s.begin.handover w d).settle w d).dim w d).rest =
        ((s.begin.setTrim w d (s.begin.spare w d) x).dim w d).rest := by
      rw [rest, State.handover_rest, State.inForce_of_trims (s := s.begin) found]
    rw [State.rdS, kept (by decide), State.rdS, kept (by decide), kept (by decide), carried]
    exact s.begin.setTrim_shows w d (s.begin.spare w d) x

/-! ### The DAC calibration (R133, R138) -/

theorem dacCalStart_answers {req : Req} (taken : s.takesFrom req = true) {P : State → Prop}
    (hP : P (s.begin.dacWrite w)) : Answers (.dacCalStart req w) s P :=
  ⟨_, congrArg Host.Outcome.next (State.via_of_takesFrom (s := s.begin) taken _), hP⟩

/-- R133: a calibration runs in the dark and while the laser tunes; in the light it is refused. -/
theorem State.dacCal_shows (s : State) (w : Wing) :
    if s.rd .OPT_TX_STAT_STATE [w.n] = 0 ∨ s.rd .OPT_TX_STAT_STATE [w.n] = 1 then
      (s.dacCal w).flag .CNV_DAC_CAL_BUSY [w.n] = true
    else (s.dacCal w).flag .CNV_DAC_CAL_REFUSED [w.n] = true := by
  unfold State.dacCal
  split
  case isTrue dark =>
    rw [if_pos (by simpa using dark)]
    exact State.flag_wrb_self _ _ _ _ (by decide)
  case isFalse lit =>
    rw [if_neg (by simpa using lit)]
    exact State.flag_wrb_self _ _ _ _ (by decide)

/-- R138: while no hand-overs come, START acts at once. -/
theorem State.dacWrite_of_none (now : (s.handsOver w && !s.wingStopped w) = false) : s.dacWrite w = s.dacCal w := by
  rw [State.dacWrite, now]
  rfl

/-- R138: while hand-overs come, START waits for one. -/
theorem State.dacWrite_of_handsOver (comes : s.handsOver w = true) (runs : s.wingStopped w = false) :
    s.dacWrite w = s.onConv w (fun c => { c with dacDue := true }) := by
  simp [State.dacWrite, comes, runs]

end

/-! ### The obligation -/

/-- Settles O17: each clause by the rule of its command. The spur and the rounding of the residual skew (assumption 66),
the rounding of the sample rate, that a wing in Idle or Sleep counts as stopped for RESTART (assumption 79), and the way
a restarted dimension walks (assumption 67) are the model's own choices. -/
theorem convertersAndRotation : Obligations.ConvertersAndRotation := by
  unfold Obligations.ConvertersAndRotation
  intro s w
  refine ⟨synthLock_adc, synthLock_dac s w, ?complete, ?restartStopped, ?restartNow, ?restartLater,
    spareCalComplete_waits, ?handover, dwellExpiry_calibrates, ?dacNow, ?dacLater⟩
  case complete =>
    intro trims runs clock
    obtain ⟨t, ends, finished, dims⟩ := fgCalComplete_completes trims runs clock
    refine ⟨t, ends, finished, fun d => ?_⟩
    obtain ⟨spare, figures⟩ := dims d
    exact ⟨figures.valid, spare, figures.skew, figures.spur⟩
  case restartStopped =>
    intro req taken stopped clock
    refine calRestart_answers taken ?_
    rw [State.restartWrite_of_stopped (s := s.begin) stopped clock]
    exact State.foreground_shows ..
  case restartNow =>
    intro req taken runs done now
    exact calRestart_answers taken (State.restartWrite_sweeps (s := s.begin) runs done now)
  case restartLater =>
    intro req taken runs comes
    refine calRestart_answers taken ?_
    rw [State.restartWrite_of_handsOver (s := s.begin) runs comes]
    exact ⟨by simp, fun _ => rfl⟩
  case handover =>
    intro d due runs
    obtain ⟨t, moves, spare, figures, trims⟩ := sliceHandover_moves d due runs
    exact ⟨t, moves, spare, figures.skew, figures.valid, fun x found _ => trims x found⟩
  case dacNow =>
    intro req taken now
    refine dacCalStart_answers taken ?_
    rw [State.dacWrite_of_none (s := s.begin) now]
    exact s.begin.dacCal_shows w
  case dacLater =>
    intro req taken comes runs
    refine dacCalStart_answers taken ?_
    rw [State.dacWrite_of_handsOver (s := s.begin) comes runs]
    exact ⟨by simp, rfl⟩

end Sys2Proof.Machine
end

section
/-!
The decimation contexts of the supervisory converter (R146 to R149): what a context holds, what the work on one context
leaves of another, and what an engine round and a reset make of each.
-/

namespace Sys2Proof.Machine

-- The row tests below are large kernel evaluations: one theorem at a time bounds the memory of the whole text's check.
set_option Elab.async false

/-! ### Tables -/

theorem tabGet_set {α : Type} [DecidableEq α] (d : α) (t : Tab α) (j k : Nat) (v : α) :
    tabGet d (tabSet d t j v) k = if k = j then v else tabGet d t k := by
  split
  case isTrue same => rw [same, tabGet_set_self]
  case isFalse apart => exact tabGet_set_ne d t v apart

theorem tabGet_erase {α : Type} (d : α) (t : Tab α) (j k : Nat) :
    tabGet d (tabErase t j) k = if k = j then d else tabGet d t k := by
  split
  case isTrue same => rw [same, tabGet_erase_self]
  case isFalse apart => exact tabGet_erase_ne d t apart

/-! ### What a context holds -/

/-- R146, R147, R149: what a context holds beside its registers: the samples that it has still to consume, its CIC and
FIR, and how many outputs are still to be marked UNSETTLED. -/
structure DecContext where
  input : List Int
  filter : DecFilter
  left : Nat

def Sup.context (p : Sup) (k : Nat) : DecContext :=
  ⟨tabGet [] p.input k, tabGet DecFilter.zero p.filters k, tabGet 0 p.unsettled k⟩

/-- R147, R149: a sample passes the CIC and the FIR; an output is one fewer to be marked. -/
def DecContext.feed (n r d : Nat) (c : DecContext) (x : Int) : DecContext :=
  { c with
    filter := (c.filter.push n r d x).1
    left := if (c.filter.push n r d x).2.isSome then c.left - 1 else c.left }

theorem DecContext.foldl_feed_input (n r d : Nat) (xs : List Int) (c : DecContext) :
    (xs.foldl (DecContext.feed n r d) c).input = c.input :=
  List.foldlRecOn (motive := fun e : DecContext => e.input = c.input) xs _ rfl fun _ he _ _ => he

theorem DecContext.foldl_feed_filter (n r d : Nat) (xs : List Int) (c : DecContext) :
    (xs.foldl (DecContext.feed n r d) c).filter = xs.foldl (fun f x => (f.push n r d x).1) c.filter :=
  (List.foldl_hom DecContext.filter fun _ _ => rfl).symm

/-- The fields of DEC_CFG. -/
def configRows : List Row :=
  [.SUP_DEC_CFG_SOURCE, .SUP_DEC_CFG_SHIFT, .SUP_DEC_CFG_FIR_D, .SUP_DEC_CFG_ORDER, .SUP_DEC_CFG_R]

/-- The registers of a context: its DEC_CFG, and what DEC_STAT shows of it. -/
def contextRows : List Row := configRows ++ [.SUP_DEC_STAT_SAT, .SUP_DEC_STAT_UNSETTLED, .SUP_DEC_STAT_RESETS]

section

variable {s t u : State} {j k : Nat}

/-- A write to one context leaves the fields of the others. -/
theorem State.rd_wr_otherContext (s : State) (h : j ≠ k) {r x : Row} (hr : r ∈ contextRows) (hx : x ∈ contextRows)
    (v : Nat) : (s.wr r [j] v).rd x [k] = s.rd x [k] := by
  by_cases same : r.id = x.id
  · have sameRow : ∀ r ∈ contextRows, ∀ x ∈ contextRows, r.id = x.id → r = x ∧ r.dims.length = 1 := by decide
    obtain ⟨rfl, dims⟩ := sameRow r hr x hx same
    obtain ⟨ofContext, shape⟩ := List.length_eq_one_iff.mp dims
    refine State.rd_wr_inst _ _ ?_ _
    simpa [Row.flat, shape] using h
  · exact State.rd_wr_ne _ same ..

/-! ### Counts and events leave what the contexts hold -/

@[simp] theorem State.countWrap_sup (s : State) (r : Row) (ix : List Nat) (n : Nat) :
    (s.countWrap r ix n).sup = s.sup := by
  unfold State.countWrap
  obtain h | h := (s.wr r ix (s.rd r ix + n)).mirrored_eq r ix n <;> rw [h] <;> rfl

@[simp] theorem State.evt_sup (s : State) (r : Row) (ix : List Nat) (b : Nat) : (s.evt r ix b).sup = s.sup :=
  s.evt_same r ix b (p := .sup) (by decide)

/-! ### DEC_CFG (R147) -/

/-- The context is configured alike. -/
def State.SameConfig (k : Nat) (s t : State) : Prop := ∀ r ∈ configRows, t.rd r [k] = s.rd r [k]

namespace State.SameConfig

variable (h : s.SameConfig k t)
include h

theorem source : t.ctxSource k = s.ctxSource k := h _ (by decide)

theorem order : t.ctxN k = s.ctxN k := by
  rw [State.ctxN, State.wingCtx, h.source, h .SUP_DEC_CFG_ORDER (by decide), State.ctxN, State.wingCtx]

theorem factor : t.ctxR k = s.ctxR k := by
  rw [State.ctxR, State.wingCtx, h.source, h .SUP_DEC_CFG_R (by decide), State.ctxR, State.wingCtx]

theorem decimation : t.ctxD k = s.ctxD k := by
  rw [State.ctxD, State.wingCtx, h.source, h .SUP_DEC_CFG_FIR_D (by decide), State.ctxD, State.wingCtx]

theorem shift : t.ctxShift k = s.ctxShift k := by
  rw [State.ctxShift, State.wingCtx, h.source, h .SUP_DEC_CFG_SHIFT (by decide), State.ctxShift, State.wingCtx]

end State.SameConfig

/-! ### What the work on one context leaves of another -/

/-- Context `k` stays as it is, with its registers; EVT.SAT may rise. -/
structure State.KeepsContext (k : Nat) (s t : State) : Prop where
  rows : ∀ r ∈ contextRows, t.rd r [k] = s.rd r [k]
  held : t.sup.context k = s.sup.context k
  event : s.flag .SUP_EVT_SAT = true → t.flag .SUP_EVT_SAT = true

namespace State.KeepsContext

theorem refl (k : Nat) (s : State) : s.KeepsContext k s := ⟨fun _ _ => rfl, rfl, id⟩

theorem trans (h : s.KeepsContext k t) (g : t.KeepsContext k u) : s.KeepsContext k u :=
  ⟨fun r hr => (g.rows r hr).trans (h.rows r hr), g.held.trans h.held, g.event ∘ h.event⟩

theorem of_store (hs : t.store = s.store) (h : t.sup.context k = s.sup.context k) : s.KeepsContext k t :=
  ⟨fun r _ => State.rd_of_store hs r _, h, fun e => by rw [State.flag, State.rd_of_store hs]; exact e⟩

theorem begin (k : Nat) (s : State) : s.KeepsContext k s.begin := of_store rfl rfl

theorem wr (h : j ≠ k) {r : Row} (hr : r ∈ contextRows) (v : Nat) : s.KeepsContext k (s.wr r [j] v) := by
  refine ⟨fun x hx => s.rd_wr_otherContext h hr hx v, rfl, fun e => ?_⟩
  have apart : ∀ r ∈ contextRows, r.id ≠ Row.SUP_EVT_SAT.id := by decide
  rw [State.flag, State.rd_wr_ne _ (apart r hr)]
  exact e

theorem countWrap (h : j ≠ k) {r : Row} (hr : r ∈ contextRows) (n : Nat) :
    s.KeepsContext k (s.countWrap r [j] n) :=
  (wr h hr (s.rd r [j] + n)).trans (of_store (State.mirrored_store ..)
    (congrArg (Sup.context · k) (s.countWrap_sup r [j] n)))

theorem when {f : State → State} (h : s.KeepsContext k (f s)) (c : Bool) : s.KeepsContext k (s.when c f) := by
  cases c
  · exact refl k s
  · exact h

theorem foldl {α : Type} {f : State → α → State} {l : List α}
    (h : ∀ (t : State), ∀ a ∈ l, t.KeepsContext k (f t a)) (s : State) : s.KeepsContext k (l.foldl f s) :=
  List.foldlRecOn (motive := s.KeepsContext k) l f (refl k s) fun _ ht a ha => ht.trans (h _ a ha)

/-- A loop that serves each context apart does for context `k` what its round `k` does. -/
theorem upTo {f : State → Nat → State} {n : Nat} (hk : k < n)
    (apart : ∀ (t : State) (j : Nat), j ≠ k → t.KeepsContext k (f t j)) (s : State) :
    ∃ u, s.KeepsContext k u ∧ (f u k).KeepsContext k (s.upTo n f) :=
  State.upTo_establishes (Q := s.KeepsContext k) (P := fun t => ∃ u, s.KeepsContext k u ∧ (f u k).KeepsContext k t) hk
    (refl k s) (fun t j hj ht => ht.trans (apart t j hj)) (fun t ht => ⟨t, ht, refl ..⟩)
    (fun t j hj ⟨u, hu, ht⟩ => ⟨u, hu, ht.trans (apart t j hj)⟩)

theorem config (h : s.KeepsContext k t) : s.SameConfig k t := fun r hr => h.rows r (List.mem_append_left _ hr)

theorem flag (h : s.KeepsContext k t) {r : Row} (hr : r ∈ contextRows) : t.flag r [k] = s.flag r [k] := by
  rw [State.flag, h.rows r hr, State.flag]

end State.KeepsContext

/-! ### Steps and resets (R149) -/

/-- R149: `n` outputs of a context are still to be marked. -/
def State.setLeft (s : State) (k n : Nat) : State :=
  s.onSup (fun p => { p with unsettled := tabSet 0 p.unsettled k n })

theorem State.setLeft_context (s : State) (j k n : Nat) : (s.setLeft j n).sup.context k =
    if k = j then { s.sup.context k with left := n } else s.sup.context k := by
  simp only [State.setLeft, State.onSup_sup, Sup.context, tabGet_set]
  split <;> rfl

theorem State.setLeft_keeps (s : State) (h : j ≠ k) (n : Nat) : s.KeepsContext k (s.setLeft j n) :=
  .of_store rfl (by rw [State.setLeft_context, if_neg h.symm])

theorem State.unsettle_eq (s : State) (k : Nat) : s.unsettle k = s.setLeft k (s.ctxN k + ceilDiv 32 (s.ctxD k)) :=
  rfl

/-- R149: a step of a wing's power stream is none for a context of the converter's channels. -/
theorem State.wingStep_keeps (s : State) (h : s.ctxSource k < 24) (w : Wing) : s.KeepsContext k (s.wingStep w) := by
  refine .foldl (fun t j hj => ?_) s
  have apart : j ≠ k := by
    rintro rfl
    have source : s.ctxSource j = 0x3C + w.n := by simpa [State.ctxsOf] using (List.mem_filter.mp hj).2
    omega
  rw [State.unsettle_eq]
  exact t.setLeft_keeps apart _

theorem State.clearCtx_context (s : State) (j k : Nat) : (s.clearCtx j).sup.context k =
    if k = j then ⟨[], DecFilter.zero, s.ctxN j + ceilDiv 32 (s.ctxD j)⟩ else s.sup.context k := by
  simp only [State.clearCtx, State.unsettle_eq, State.setLeft, State.onSup_sup, Sup.context, tabGet_erase, tabGet_set]
  split <;> rfl

/-- R149: a context reset counts, empties the context and marks its next outputs. -/
theorem State.resetCtx_resets (s : State) (k : Nat) :
    (s.resetCtx k).rd .SUP_DEC_STAT_RESETS [k] =
        (s.rd .SUP_DEC_STAT_RESETS [k] + 1) % 2 ^ Row.SUP_DEC_STAT_RESETS.width ∧
      (s.resetCtx k).sup.context k = ⟨[], DecFilter.zero, s.ctxN k + ceilDiv 32 (s.ctxD k)⟩ := by
  constructor
  · exact State.rd_countWrap_self ..
  · rw [State.resetCtx, State.countWrap_sup, State.clearCtx_context, if_pos rfl]

theorem State.resetCtx_keeps (s : State) (h : j ≠ k) : s.KeepsContext k (s.resetCtx j) := by
  have cleared : s.KeepsContext k (s.clearCtx j) := .of_store rfl (by rw [State.clearCtx_context, if_neg h.symm])
  exact cleared.trans (.countWrap h (by decide) 1)

/-- R149: of the contexts, those of the mask are reset. -/
theorem State.resetMask_resets (s : State) (mask : Nat) (hk : k < 24) :
    if mask.testBit k then
      (s.resetMask mask).rd .SUP_DEC_STAT_RESETS [k] =
          (s.rd .SUP_DEC_STAT_RESETS [k] + 1) % 2 ^ Row.SUP_DEC_STAT_RESETS.width ∧
        (s.resetMask mask).sup.context k = ⟨[], DecFilter.zero, s.ctxN k + ceilDiv 32 (s.ctxD k)⟩
    else s.KeepsContext k (s.resetMask mask) := by
  obtain ⟨u, before, after⟩ := State.KeepsContext.upTo hk
    (f := fun s k => s.when (mask.testBit k) (·.resetCtx k)) (fun t j hj => (t.resetCtx_keeps hj).when _) s
  rw [← State.resetMask] at after
  split
  case isTrue named =>
    rw [named, State.when_true] at after
    obtain ⟨counts, empty⟩ := u.resetCtx_resets k
    exact ⟨by rw [after.rows _ (by decide), counts, before.rows _ (by decide)],
      by rw [after.held, empty, before.config.order, before.config.decimation]⟩
  case isFalse spared =>
    rw [Bool.not_eq_true] at spared
    rw [spared, State.when_false] at after
    exact before.trans after

/-! ### The engine's slots (R146, R147, R149) -/

@[simp] theorem State.markSat_sup (s : State) (k : Nat) (sat : Bool) : (s.markSat k sat).sup = s.sup := by
  cases sat
  · rfl
  · exact State.evt_sup ..

theorem State.evtSat_keeps (s : State) (k : Nat) : s.KeepsContext k (s.evt .SUP_EVT_SAT) :=
  ⟨fun r hr => State.evt_keeps _ _ _ _ _ _ (by revert r; decide), by rw [State.evt_sup],
    fun _ => State.flag_evt_self _ _ _ rfl (by decide)⟩

theorem State.markSat_keeps (s : State) (h : j ≠ k) (sat : Bool) : s.KeepsContext k (s.markSat j sat) := by
  cases sat
  · exact .refl k s
  · exact (State.KeepsContext.wr h (by decide) _).trans (State.evtSat_keeps _ k)

/-- R148 to R150: where an output goes is no part of a context. -/
theorem State.deliverOut_keeps (s : State) (j k : Nat) (v : Int) (sat unsettled : Bool) :
    s.KeepsContext k (s.deliverOut j v sat unsettled) := by
  have heard : s.KeepsContext k (s.icmOutput (s.ctxWing j) v unsettled) := by
    have output := State.icmOutput_within (.refl _ s) (covers_self _) (s.ctxWing j) v unsettled
    have spared : ∀ r ∈ Row.SUP_EVT_SAT :: contextRows, spares State.icmOutput_touch r = true := by decide +kernel
    have same : _ = s.sup := output.part .sup (by decide +kernel)
    refine ⟨fun r hr => output.keeps (spared r (List.mem_cons_of_mem _ hr)) _, by rw [same], fun e => ?_⟩
    rw [output.keepsFlag (spared _ (List.mem_cons_self ..))]
    exact e
  have excluded : s.KeepsContext k (s.exclude (s.ctxSource j)) := by
    unfold State.exclude
    split
    · exact .refl k s
    · exact .of_store rfl rfl
  have accumulated : s.KeepsContext k (s.accumulate (s.ctxSource j) v sat false) := by
    unfold State.accumulate
    split
    · exact .refl k s
    · exact .of_store rfl rfl
  unfold State.deliverOut
  dsimp only
  split
  · exact heard.trans (.of_store rfl rfl)
  split
  · exact .refl k s
  split
  · exact excluded
  · exact accumulated

/-- R147: what leaves a context's FIR, scaled and saturated. -/
def State.outputOf (s : State) (k : Nat) (y : Int) : Int × Bool := satOut (scaleOut y (s.ctxShift k + 20))

/-- R147, R149: an output sets its marks. -/
def State.markOutput (s : State) (k : Nat) (y : Int) : State :=
  ((s.markSat k (s.outputOf k y).2).setLeft k ((s.sup.context k).left - 1)).wrb .SUP_DEC_STAT_UNSETTLED [k]
    ((s.sup.context k).left != 0)

/-- R147 to R150: an output is marked and goes where it belongs. -/
theorem State.ctxOutput_eq (s : State) (k : Nat) (y : Int) : s.ctxOutput k y =
    (s.markOutput k y).deliverOut k (s.outputOf k y).1 (s.outputOf k y).2 ((s.sup.context k).left != 0) :=
  rfl

theorem State.ctxOutput_keeps (s : State) (h : j ≠ k) (y : Int) : s.KeepsContext k (s.ctxOutput j y) := by
  have marked : s.KeepsContext k (s.markOutput j y) :=
    ((s.markSat_keeps h _).trans (State.setLeft_keeps _ h _)).trans (.wr h (by decide) _)
  rw [State.ctxOutput_eq]
  exact marked.trans (State.deliverOut_keeps ..)

/-- R147, R149: an output of a context is marked UNSETTLED while some are left to be marked, and SAT where it
saturates. -/
theorem State.ctxOutput_shows (s : State) (k : Nat) (y : Int) :
    (s.ctxOutput k y).flag .SUP_DEC_STAT_UNSETTLED [k] = decide ((s.sup.context k).left ≠ 0) ∧
      (s.ctxOutput k y).sup.context k = { s.sup.context k with left := (s.sup.context k).left - 1 } ∧
      ((s.outputOf k y).2 = true →
        (s.ctxOutput k y).flag .SUP_DEC_STAT_SAT [k] = true ∧ (s.ctxOutput k y).flag .SUP_EVT_SAT = true) := by
  rw [State.ctxOutput_eq]
  have delivered := (s.markOutput k y).deliverOut_keeps k k (s.outputOf k y).1 (s.outputOf k y).2
    ((s.sup.context k).left != 0)
  refine ⟨?_, ?_, fun sat => ⟨?_, delivered.event ?_⟩⟩
  · rw [delivered.flag (by decide), State.markOutput, State.flag_wrb_self _ _ _ _ (by decide)]
    simp [bne, beq_eq_decide]
  · rw [delivered.held, State.markOutput, State.wrb, State.wr_sup, State.setLeft_context, if_pos rfl,
      State.markSat_sup]
  · rw [delivered.flag (by decide), State.markOutput, State.flag_wrb_ne _ (by decide), State.setLeft, State.onSup_flag,
      sat, State.markSat, if_pos rfl, State.flag_evt_ne _ (by decide), State.flag_wrb_self _ _ _ _ (by decide)]
  · rw [State.markOutput, State.flag_wrb_ne _ (by decide), State.setLeft, State.onSup_flag, sat, State.markSat,
      if_pos rfl]
    exact State.flag_evt_self _ _ _ rfl (by decide)

/-- R147: a context's CIC and FIR hold something else. -/
def State.setFilter (s : State) (k : Nat) (f : DecFilter) : State :=
  s.onSup (fun p => { p with filters := tabSet DecFilter.zero p.filters k f })

theorem State.setFilter_context (s : State) (j k : Nat) (f : DecFilter) : (s.setFilter j f).sup.context k =
    if k = j then { s.sup.context k with filter := f } else s.sup.context k := by
  simp only [State.setFilter, State.onSup_sup, Sup.context, tabGet_set]
  split <;> rfl

/-- R147: a sample passes a context's CIC and FIR. -/
def State.pushed (s : State) (k : Nat) (x : Int) : DecFilter × Option Int :=
  (s.sup.context k).filter.push (s.ctxN k) (s.ctxR k) (s.ctxD k) x

theorem State.ctxFeed_of_none {x : Int} (h : (s.pushed k x).2 = none) :
    s.ctxFeed k x = s.setFilter k (s.pushed k x).1 := by
  simp only [State.pushed, Sup.context] at h
  simp only [State.ctxFeed, h]
  rfl

theorem State.ctxFeed_of_some {x y : Int} (h : (s.pushed k x).2 = some y) :
    s.ctxFeed k x = (s.setFilter k (s.pushed k x).1).ctxOutput k y := by
  simp only [State.pushed, Sup.context] at h
  simp only [State.ctxFeed, h]
  rfl

theorem State.ctxFeed_keeps (s : State) (h : j ≠ k) (x : Int) : s.KeepsContext k (s.ctxFeed j x) := by
  have filtered : s.KeepsContext k (s.setFilter j (s.pushed j x).1) :=
    .of_store rfl (by rw [State.setFilter_context, if_neg h.symm])
  cases out : (s.pushed j x).2 with
  | none => rw [State.ctxFeed_of_none out]; exact filtered
  | some y => rw [State.ctxFeed_of_some out]; exact filtered.trans (State.ctxOutput_keeps _ h y)

/-- R147: what a context holds once it has consumed a sample. -/
theorem State.ctxFeed_context (s : State) (k : Nat) (x : Int) : (s.ctxFeed k x).sup.context k =
    (s.sup.context k).feed (s.ctxN k) (s.ctxR k) (s.ctxD k) x := by
  rw [DecContext.feed, ← State.pushed]
  cases out : (s.pushed k x).2 with
  | none => rw [State.ctxFeed_of_none out, State.setFilter_context, if_pos rfl]; rfl
  | some y =>
    obtain ⟨-, held, -⟩ := (s.setFilter k (s.pushed k x).1).ctxOutput_shows k y
    rw [State.ctxFeed_of_some out, held, State.setFilter_context, if_pos rfl]
    rfl

/-- R153: consuming a sample leaves DEC_CFG alone. -/
theorem State.ctxFeed_config (s : State) (k : Nat) (x : Int) : s.SameConfig k (s.ctxFeed k x) := by
  have spared : ∀ r ∈ configRows, spares State.ctxFeed_touch r = true := by decide +kernel
  exact fun r hr => (State.ctxFeed_within (.refl _ s) (covers_self _) k x).keeps (spared r hr) _

theorem State.foldl_ctxFeed_context (xs : List Int) (s : State) (k : Nat) :
    (xs.foldl (fun s x => s.ctxFeed k x) s).sup.context k =
      xs.foldl (DecContext.feed (s.ctxN k) (s.ctxR k) (s.ctxD k)) (s.sup.context k) := by
  induction xs generalizing s with
  | nil => rfl
  | cons x xs ih =>
    have config := s.ctxFeed_config k x
    rw [List.foldl_cons, ih, config.order, config.factor, config.decimation, State.ctxFeed_context, List.foldl_cons]

/-- R146: a context takes the samples that wait for it. -/
def State.takeInput (s : State) (k : Nat) : State := s.onSup (fun p => { p with input := tabErase p.input k })

theorem State.takeInput_context (s : State) (j k : Nat) : (s.takeInput j).sup.context k =
    if k = j then { s.sup.context k with input := [] } else s.sup.context k := by
  simp only [State.takeInput, State.onSup_sup, Sup.context, tabGet_erase]
  split <;> rfl

theorem State.engineSlot_keeps (s : State) (m : RoundInput) (h : j ≠ k) : s.KeepsContext k (s.engineSlot m j) := by
  have taken : s.KeepsContext k (s.takeInput j) := .of_store rfl (by rw [State.takeInput_context, if_neg h.symm])
  unfold State.engineSlot
  split
  · exact .refl k s
  · exact taken.trans (.foldl (fun t x _ => t.ctxFeed_keeps h x) _)

/-- R146: the engine slot of a context of a channel consumes the samples that wait for it. -/
theorem State.engineSlot_of_channel (h : s.ctxSource k < 24) (m : RoundInput) :
    s.engineSlot m k = (s.sup.context k).input.foldl (fun s x => s.ctxFeed k x) (s.takeInput k) := by
  have used : s.ctxSource k ≠ 0x3F := by omega
  have channel : s.wingCtx k = false := by
    rw [State.wingCtx, beq_eq_false_iff_ne.mpr (by omega), beq_eq_false_iff_ne.mpr (by omega), Bool.or_self]
  simp [State.engineSlot, used, State.arrived, channel, Sup.context, State.takeInput]

theorem State.engineSlot_context (h : s.ctxSource k < 24) (m : RoundInput) :
    (s.engineSlot m k).sup.context k = (s.sup.context k).input.foldl
      (DecContext.feed (s.ctxN k) (s.ctxR k) (s.ctxD k)) { s.sup.context k with input := [] } := by
  rw [State.engineSlot_of_channel h, State.foldl_ctxFeed_context, State.takeInput_context, if_pos rfl]
  rfl

/-- R147, R149: the engine slot of a context that consumes one sample and puts out one value. -/
theorem State.engineSlot_of_sample (h : s.ctxSource k < 24) (m : RoundInput) {x y : Int}
    (one : (s.sup.context k).input = [x]) (out : (s.pushed k x).2 = some y) :
    (s.engineSlot m k).flag .SUP_DEC_STAT_UNSETTLED [k] = decide ((s.sup.context k).left ≠ 0) ∧
      ((s.engineSlot m k).sup.context k).left = (s.sup.context k).left - 1 ∧
      ((s.outputOf k y).2 = true →
        (s.engineSlot m k).flag .SUP_DEC_STAT_SAT [k] = true ∧ (s.engineSlot m k).flag .SUP_EVT_SAT = true) := by
  have pushed : (s.takeInput k).pushed k x = s.pushed k x := rfl
  have slot : s.engineSlot m k = ((s.takeInput k).setFilter k (s.pushed k x).1).ctxOutput k y := by
    rw [State.engineSlot_of_channel h, one, List.foldl_cons, List.foldl_nil,
      State.ctxFeed_of_some (pushed ▸ out), pushed]
  obtain ⟨unsettled, held, sat⟩ := ((s.takeInput k).setFilter k (s.pushed k x).1).ctxOutput_shows k y
  rw [slot]
  exact ⟨unsettled, congrArg DecContext.left held, sat⟩

/-- R146, R149: a round of the engine, for a context of a channel: its engine slot, with nothing else done to the
context. -/
theorem decRound_serves (m : RoundInput) (runs : s.supRuns = true) (on : s.halted 6 = false) :
    Answers (.decRound m) s (fun t => ∀ k : Fin 24, s.ctxSource k < 24 →
      ∃ u : State, s.KeepsContext k u ∧ (u.engineSlot m k).KeepsContext k t) := by
  have serves : (s.begin.supRuns && !s.begin.halted 6) = true := by
    have runs' : s.begin.supRuns = true := runs
    have on' : s.begin.halted 6 = false := on
    simp [runs', on']
  refine ⟨_, congrArg Host.Outcome.next (if_pos serves), fun k channel => ?_⟩
  have stepped (t : State) (h : t.ctxSource k < 24) (c : Bool) (w : Wing) :
      t.KeepsContext k (t.when c (·.wingStep w)) := (t.wingStep_keeps h w).when c
  have first := (State.KeepsContext.begin k s).trans (stepped s.begin channel m.tiaA .a)
  have second := stepped _ (first.config.source ▸ channel) m.tiaB .b
  obtain ⟨u, before, after⟩ := State.KeepsContext.upTo k.isLt (f := fun s k => s.engineSlot m k)
    (fun t j hj => t.engineSlot_keeps m hj) ((s.begin.when m.tiaA (·.wingStep .a)).when m.tiaB (·.wingStep .b))
  exact ⟨u, (first.trans second).trans before, after⟩

end

end Sys2Proof.Machine
end

section
/-!
The regular sequence and DEC_RESET (R142, R146, R149), and the refutation of O18.
-/

namespace Sys2Proof.Machine

/-- R149, R153: a context whose reset is due at the end of the conversion waits for no sample after it. -/
theorem State.resetDueCtxs_input {s : State} {k : Nat} (hk : k < 24) (due : s.sup.resetDue.testBit k = true) :
    tabGet [] s.resetDueCtxs.sup.input k = [] := by
  have resets := s.resetMask_resets s.sup.resetDue hk
  rw [if_pos due] at resets
  exact congrArg DecContext.input resets.2

/-- The module runs, VIN stands in the first regular slot and is the source of context 0, and a DEC_RESET of context 0
is due at the end of the conversion. -/
def State.resetDueBeforeSample : State :=
  ((((State.reset.wr .GLB_BOOT_STAT_STAGE [] 5).wrb .SUP_SEQ_SLOT_EN [0] true).wr .SUP_SEQ_SLOT_CH [0] 12).wr
    .SUP_DEC_CFG_SOURCE [0] 12).onSup (fun p => { p with resetDue := 1 })

theorem State.resetDueBeforeSample_runs : State.resetDueBeforeSample.supRuns = true ∧
    State.resetDueBeforeSample.sup.running = none ∧
    State.resetDueBeforeSample.flag .SUP_CAL_CTL_BUSY = false ∧
    State.resetDueBeforeSample.slotChannel State.resetDueBeforeSample.sup.slot = some 12 ∧
    State.resetDueBeforeSample.ctxSource 0 = 12 := by decide +kernel

/-- R153: the reset is still due when the conversion has ended. -/
theorem State.resetDueBeforeSample_due :
    ((State.resetDueBeforeSample.begin.conversion 0).startDueCal).sup.resetDue.testBit 0 = true := by decide +kernel

/-- Refutes O18: where a DEC_RESET of the context that takes VIN is due at the end of the conversion (R153), the reset
also drops the sample that the conversion has just added (a reset drops what the context had not consumed, assumption
68), so after it the context waits for none. -/
theorem not_supervisorySequence : ¬ Obligations.SupervisorySequence := by
  unfold Obligations.SupervisorySequence
  intro h
  obtain ⟨regular, -⟩ := h State.resetDueBeforeSample
  obtain ⟨runs, idle, uncalibrated, vin, source⟩ := State.resetDueBeforeSample_runs
  obtain ⟨t, answered, -, -, joins, -⟩ := regular 0 runs idle uncalibrated
  obtain ⟨-, waits, -⟩ := joins 12 vin
  have runs' : State.resetDueBeforeSample.begin.supRuns = true := runs
  rw [exec_supConversion, execSupConversion, if_pos runs'] at answered
  cases answered
  have dropped := State.resetDueCtxs_input (by decide) State.resetDueBeforeSample_due
  exact List.append_ne_nil_of_right_ne_nil _ (List.cons_ne_nil _ _) ((waits 0 source).symm.trans dropped)

end Sys2Proof.Machine
end

section
/-!
The decimation engine's rounds, DEC_RESET and the self-calibration (R146 to R152), and O19.
-/

namespace Sys2Proof.Machine

section

variable {s : State} {req : Req}

/-! ### Rounds of the engine (R146, R147, R149) -/

theorem decRound_consumes (m : RoundInput) (runs : s.supRuns = true) (on : s.halted 6 = false) :
    Answers (.decRound m) s (fun t => ∀ k : Fin 24, s.ctxSource k < 24 → tabGet [] t.sup.input k = [] ∧
      tabGet DecFilter.zero t.sup.filters k = (tabGet [] s.sup.input k).foldl
        (fun f x => (f.push (s.ctxN k) (s.ctxR k) (s.ctxD k) x).1) (tabGet DecFilter.zero s.sup.filters k)) := by
  obtain ⟨t, answered, serves⟩ := decRound_serves m runs on
  refine ⟨t, answered, fun k channel => ?_⟩
  obtain ⟨u, before, after⟩ := serves k channel
  have held := after.held.trans (State.engineSlot_context (before.config.source ▸ channel) m)
  rw [before.held, before.config.order, before.config.factor, before.config.decimation] at held
  exact ⟨(congrArg DecContext.input held).trans (DecContext.foldl_feed_input ..),
    (congrArg DecContext.filter held).trans (DecContext.foldl_feed_filter ..)⟩

theorem decRound_marks (m : RoundInput) (k : Fin 24) (x : Int) (runs : s.supRuns = true) (on : s.halted 6 = false)
    (channel : s.ctxSource k < 24) (one : (s.sup.context k).input = [x]) (out : (s.pushed k x).2.isSome = true) :
    Answers (.decRound m) s (fun t =>
      t.flag .SUP_DEC_STAT_UNSETTLED [k] = decide ((s.sup.context k).left ≠ 0) ∧
      (t.sup.context k).left = (s.sup.context k).left - 1 ∧
      ((s.outputOf k ((s.pushed k x).2.getD 0)).2 = true →
        t.flag .SUP_DEC_STAT_SAT [k] = true ∧ t.flag .SUP_EVT_SAT = true)) := by
  obtain ⟨y, out⟩ := Option.isSome_iff_exists.mp out
  obtain ⟨t, answered, serves⟩ := decRound_serves m runs on
  obtain ⟨u, before, after⟩ := serves k channel
  have pushed : u.pushed k x = s.pushed k x := by
    rw [State.pushed, before.held, before.config.order, before.config.factor, before.config.decimation, State.pushed]
  have output : u.outputOf k y = s.outputOf k y := by rw [State.outputOf, before.config.shift, State.outputOf]
  obtain ⟨unsettled, left, sat⟩ := State.engineSlot_of_sample (before.config.source ▸ channel) m
    (before.held ▸ one) (pushed ▸ out)
  rw [before.held] at unsettled left
  rw [output] at sat
  refine ⟨t, answered, ?_, ?_, fun saturates => ?_⟩
  · rw [after.flag (by decide), unsettled]
  · rw [after.held, left]
  · rw [out, Option.getD_some] at saturates
    obtain ⟨status, event⟩ := sat saturates
    exact ⟨(after.flag (by decide)).trans status, after.event event⟩

/-! ### DEC_RESET (R149, R153) -/

theorem decReset_answers (taken : s.takesFrom req = true) {mask : Nat} {P : State → Prop}
    (hP : P (s.begin.decReset mask)) : Answers (.decReset req mask) s P :=
  ⟨_, congrArg Host.Outcome.next (State.via_of_takesFrom (s := s.begin) taken _), hP⟩

/-- R153: while conversions go on, the reset waits for the end of the one in progress. -/
theorem State.decReset_of_runs (runs : s.supRuns = true) (on : s.halted 6 = false) (mask : Nat) :
    s.decReset mask = s.onSup (fun p => { p with resetDue := p.resetDue ||| mask }) := by
  simp [State.decReset, runs, on]

/-- R40: otherwise it acts at once. -/
theorem State.decReset_of_rests (rests : (s.supRuns && !s.halted 6) = false) (mask : Nat) :
    s.decReset mask = s.resetMask mask := by
  rw [State.decReset, rests]
  rfl

/-! ### The self-calibration (R151, R152) -/

theorem supCalStart_answers (taken : s.takesFrom req = true) {P : State → Prop} (hP : P s.begin.startCal) :
    Answers (.supCalStart req) s P :=
  ⟨_, congrArg Host.Outcome.next (State.via_of_takesFrom (s := s.begin) taken _), hP⟩

/-- R151, R153: a calibration that is asked for is due at the end of the conversion, unless one runs. -/
theorem State.askCal_calDue (runs : s.supRuns = true) :
    s.askCal.sup.calDue = (s.sup.calDue || !s.flag .SUP_CAL_CTL_BUSY) := by
  cases busy : s.flag .SUP_CAL_CTL_BUSY <;> simp [State.askCal, busy, runs]

theorem State.askCal_flag (s : State) (r : Row) (ix : List Nat) : s.askCal.flag r ix = s.flag r ix := by
  unfold State.askCal
  split <;> rfl

theorem State.startCal_of_runs (on : s.halted 6 = false) : s.startCal = s.askCal := by
  simp [State.startCal, on]

theorem supCalAuto_asks (core : s.coreRuns = true) (runs : s.supRuns = true)
    (enabled : s.flag .SUP_CAL_CTL_AUTO_EN = true) (idle : s.flag .SUP_CAL_CTL_BUSY = false) :
    Answers .supCalAuto s (fun t => if s.ramping then
      t.flag .SUP_CAL_CTL_DEFERRED = true ∧ t.sup.calDue = s.sup.calDue else t.sup.calDue = true) := by
  have due : ¬(!s.begin.flag .SUP_CAL_CTL_AUTO_EN || s.begin.flag .SUP_CAL_CTL_BUSY || !s.begin.supRuns ||
      !s.begin.coreRuns) = true := by
    have core' : s.begin.coreRuns = true := core
    have runs' : s.begin.supRuns = true := runs
    simp [enabled, idle, core', runs']
  cases ramps : s.ramping with
  | true =>
    have ramps' : s.begin.ramping = true := ramps
    exact ⟨_, congrArg Host.Outcome.next ((if_neg due).trans (if_pos ramps')),
      State.flag_wrb_self _ _ _ _ (by decide), rfl⟩
  | false =>
    have ramps' : ¬s.begin.ramping = true := ramps ▸ Bool.false_ne_true
    refine ⟨_, congrArg Host.Outcome.next ((if_neg due).trans (if_neg ramps')), ?_⟩
    show s.begin.askCal.sup.calDue = true
    rw [State.askCal_calDue (s := s.begin) runs, State.begin_flag, idle]
    exact Bool.or_true _

theorem supCalDone_ends (busy : s.flag .SUP_CAL_CTL_BUSY = true) (idle : s.sup.running = none)
    (clear : s.sup.pending = []) :
    Answers .supCalDone s (fun t => t.flag .SUP_CAL_CTL_BUSY = false ∧
      t.rd .SUP_CAL_CTL_COUNT = (s.rd .SUP_CAL_CTL_COUNT + 1) % 2 ^ Row.SUP_CAL_CTL_COUNT.width ∧
      t.flag .SUP_EVT_CAL_DONE = true ∧ t.sup.stepped = List.range 24) := by
  have ends : s.begin.calGoesOn = true := by simp [State.calGoesOn, busy, idle, clear]
  refine ⟨_, congrArg Host.Outcome.next (if_pos ends), ?_, ?_, ?_, rfl⟩
  · rw [State.onSup_flag, State.flag_evt_ne _ (by decide), State.flag, State.countWrap, State.mirrored_rd,
      State.rd_wr_ne _ (by decide)]
    exact State.flag_wrb_self _ _ _ _ (by decide)
  · rw [State.onSup_rd, State.evt_keeps _ _ _ _ _ _ (by decide), State.rd_countWrap_self, State.wrb,
      State.rd_wr_ne _ (by decide)]
    rfl
  · exact State.flag_evt_self _ _ _ rfl (by decide)

end

/-! ### The obligation -/

/-- Settles O19: each clause by the rule of its command. DEC_RESET and START wait for the end of the conversion in
progress by R153 (assumption 47). That a START while a calibration runs is ignored, and that a reset drops the samples a
context had not consumed, are the model's own choices (assumption 68). -/
theorem decimationAndSelfCalibration : Obligations.DecimationAndSelfCalibration := by
  unfold Obligations.DecimationAndSelfCalibration
  intro s
  refine ⟨decRound_consumes, ?marks, ?waits, ?resets, ?start, supCalAuto_asks, supCalDone_ends⟩
  case marks =>
    intro m k x runs on channel one out
    exact decRound_marks m k x runs on channel one out
  case waits =>
    intro req mask taken runs on
    refine decReset_answers taken ?_
    rw [State.decReset_of_runs (s := s.begin) runs on]
    exact ⟨rfl, rfl⟩
  case resets =>
    intro req mask taken rests
    refine decReset_answers taken fun k => ?_
    rw [State.decReset_of_rests (s := s.begin) rests]
    have resets := s.begin.resetMask_resets mask k.isLt
    split at resets
    case isTrue named =>
      obtain ⟨counts, empty⟩ := resets
      rw [if_pos named]
      exact ⟨counts, congrArg DecContext.filter empty, congrArg DecContext.left empty⟩
    case isFalse spared =>
      rw [if_neg spared]
      exact ⟨resets.rows _ (by decide), congrArg DecContext.filter resets.held⟩
  case start =>
    intro req taken runs on
    refine supCalStart_answers taken ?_
    rw [State.startCal_of_runs (s := s.begin) on]
    exact ⟨State.askCal_calDue (s := s.begin) runs, s.begin.askCal_flag ..⟩

end Sys2Proof.Machine
end

section
/-!
The Ubmus decoder (R165 to R174): blocks that enter and leave the window, lock and the two raw defects, and O20.
-/

namespace Sys2Proof.Machine

-- The row tests below are large kernel evaluations: one theorem at a time bounds the memory of the whole text's check.
set_option Elab.async false

/-! ### Wide counts -/

theorem State.rd_countWide_ne (s : State) {lo hi x : Row} (hlo : lo.id ≠ x.id) (hhi : hi.id ≠ x.id) (ix jx : List Nat)
    (n : Nat) : (s.countWide lo hi ix n).rd x jx = s.rd x jx := by
  simp [State.countWide, State.wrWide, State.rd_wr_ne _ hlo, State.rd_wr_ne _ hhi]

theorem State.rdWide_countWide_ne (s : State) {lo hi x y : Row} (apart : ∀ a ∈ [lo, hi], ∀ b ∈ [x, y], a.id ≠ b.id)
    (ix jx : List Nat) (n : Nat) : (s.countWide lo hi ix n).rdWide x y jx = s.rdWide x y jx := by
  simp only [List.forall_mem_cons] at apart
  obtain ⟨⟨lox, loy, -⟩, ⟨hix, hiy, -⟩, -⟩ := apart
  simp only [State.rdWide, State.rd_countWide_ne _ lox hix, State.rd_countWide_ne _ loy hiy]

/-- A count over a pair of 32-bit registers wraps at 64 bits. -/
theorem State.rdWide_countWide_self (s : State) {lo hi : Row} (apart : lo.id ≠ hi.id) (hlo : lo.width = 32)
    (hhi : hi.width = 32) (ix : List Nat) (n : Nat) :
    (s.countWide lo hi ix n).rdWide lo hi ix = (s.rdWide lo hi ix + n) % 2 ^ 64 := by
  simp only [State.countWide, State.rdWide, State.wrWide, State.mirrored_rd, State.rd_wr_self,
    State.rd_wr_ne _ apart.symm, hlo, hhi]
  omega

section

variable {s : State} {w : Wing}

/-! ### What the decoder makes of a block that leaves (R156, R169, R174) -/

/-- What a superframe's end leaves of the decoder: the run of zero syndromes and the coupled blocks. -/
theorem Decoder.endSuperframe_keeps (d : Decoder) (th : Nat) :
    (d.endSuperframe th).zeros = d.zeros ∧ (d.endSuperframe th).chain = d.chain := by
  unfold Decoder.endSuperframe
  split <;> exact ⟨rfl, rfl⟩

theorem Decoder.toSuperframe_keeps (d : Decoder) (sf th : Nat) :
    (d.toSuperframe sf th).zeros = d.zeros ∧ (d.toSuperframe sf th).chain = d.chain := by
  unfold Decoder.toSuperframe
  split
  · exact ⟨rfl, rfl⟩
  · exact d.endSuperframe_keeps th

/-- R169: a zero syndrome prolongs the run of zero syndromes, up to 256, and another one ends it. -/
theorem Decoder.take_shows (d : Decoder) (h : HeldBlock) (th : Nat) (r : BlockResult) :
    (d.take h th r).zeros = (if r.zero then min 256 (d.zeros + 1) else 0) ∧ (d.take h th r).chain = d.chain := by
  obtain ⟨zeros, chain⟩ := d.toSuperframe_keeps h.sf th
  have seen : ((d.toSuperframe h.sf th).seeBlock r.zero r.errBits (berReq h.n h.fec)).zeros =
      if r.zero then min 256 (d.zeros + 1) else 0 := by rw [← zeros]; rfl
  unfold Decoder.take
  dsimp only
  split
  · obtain ⟨zeros', chain'⟩ :=
      ((d.toSuperframe h.sf th).seeBlock r.zero r.errBits (berReq h.n h.fec)).endSuperframe_keeps th
    exact ⟨zeros'.trans seen, chain'.trans chain⟩
  · exact ⟨seen, chain⟩

/-! ### A block leaves the window (R165, R166, R170) -/

/-- R170: a block that leaves is counted, and counted as uncorrectable where its syndrome is not zero. -/
theorem State.countBlock_counts (s : State) (w : Wing) (r : BlockResult) :
    (s.countBlock w r).rdWide .FEC_BLOCKS_LO_BLOCKS .FEC_BLOCKS_HI_BLOCKS [w.n] =
        (s.rdWide .FEC_BLOCKS_LO_BLOCKS .FEC_BLOCKS_HI_BLOCKS [w.n] + 1) % 2 ^ 64 ∧
      (s.countBlock w r).rdWide .FEC_UNCORR_LO_UNCORR .FEC_UNCORR_HI_UNCORR [w.n] =
        (s.rdWide .FEC_UNCORR_LO_UNCORR .FEC_UNCORR_HI_UNCORR [w.n] + bitNat !r.zero) % 2 ^ 64 := by
  unfold State.countBlock
  dsimp only
  constructor <;> simp (disch := decide) only [State.rdWide_countWide_ne, State.rdWide_countWide_self]

theorem State.countBlock_dec (s : State) (w : Wing) (r : BlockResult) : (s.countBlock w r).dec = s.dec :=
  (State.countBlock_within (.refl _ s) (covers_self _) w r).part .dec (by decide +kernel)

theorem State.otnTake_dec (s : State) (w : Wing) (era : Option (Nat × Nat)) (info : List (Bool × Bool)) :
    (s.otnTake w era info).dec = s.dec :=
  (State.otnTake_within (.refl _ s) (covers_self _) w era info).part .dec (by decide +kernel)

/-- What leaving the window writes before the framer takes the bits: the counts and the profile. -/
theorem State.rd_blockOut (s : State) (w : Wing) (h : HeldBlock) (bits : List Bool) (r : BlockResult) {x : Row}
    (k : spares State.otnTake_touch x = true) (ix : List Nat) :
    (s.blockOut w h bits r).rd x ix = ((s.countBlock w r).wr .FEC_STAT_PROFILE_RX [w.n] h.fec).rd x ix := by
  rw [State.blockOut, (State.otnTake_within (.refl _ _) (covers_self _) ..).keeps k, State.say_rd, State.onDec_rd]

/-- R165, R166, R170: a block that leaves shows its profile and is counted. -/
theorem State.blockOut_shows (s : State) (w : Wing) (h : HeldBlock) (bits : List Bool) (r : BlockResult) :
    (s.blockOut w h bits r).rdWide .FEC_BLOCKS_LO_BLOCKS .FEC_BLOCKS_HI_BLOCKS [w.n] =
        (s.rdWide .FEC_BLOCKS_LO_BLOCKS .FEC_BLOCKS_HI_BLOCKS [w.n] + 1) % 2 ^ 64 ∧
      (s.blockOut w h bits r).rdWide .FEC_UNCORR_LO_UNCORR .FEC_UNCORR_HI_UNCORR [w.n] =
        (s.rdWide .FEC_UNCORR_LO_UNCORR .FEC_UNCORR_HI_UNCORR [w.n] + bitNat !r.zero) % 2 ^ 64 ∧
      (s.blockOut w h bits r).rd .FEC_STAT_PROFILE_RX [w.n] = h.fec % 2 ^ Row.FEC_STAT_PROFILE_RX.width := by
  have counted {x : Row} (k : spares State.otnTake_touch x = true) (other : Row.FEC_STAT_PROFILE_RX.id ≠ x.id) :
      (s.blockOut w h bits r).rd x [w.n] = (s.countBlock w r).rd x [w.n] :=
    (s.rd_blockOut w h bits r k _).trans (State.rd_wr_ne _ other ..)
  obtain ⟨blocks, uncorr⟩ := s.countBlock_counts w r
  refine ⟨?_, ?_, (s.rd_blockOut w h bits r (by decide +kernel) _).trans (State.rd_wr_self ..)⟩
  · rw [← blocks, State.rdWide, counted (by decide +kernel) (by decide), counted (by decide +kernel) (by decide),
      State.rdWide]
  · rw [← uncorr, State.rdWide, counted (by decide +kernel) (by decide), counted (by decide +kernel) (by decide),
      State.rdWide]

/-- R156, R169: what a block that leaves makes of the wing's decoder. -/
theorem State.blockOut_decoder (s : State) (w : Wing) (h : HeldBlock) (bits : List Bool) (r : BlockResult) :
    (s.blockOut w h bits r).dec.get w =
      (((s.dec.get w).take h (s.rd .FEC_SF_CFG_SF_TH [w.n]) r).leave s.mt).pass bits r := by
  rw [State.blockOut, State.otnTake_dec, State.say_dec, State.onDec_dec, get_set, State.wr_dec, State.countBlock_dec]

theorem State.rd_passAgain (s : State) (w : Wing) (h : HeldBlock) (first : List Bool) (zero : Bool) (r : Row)
    (ix : List Nat) : (s.passAgain w h first zero).rd r ix = s.rd r ix := by
  unfold State.passAgain
  split
  · rfl
  · split <;> rfl

/-- R111: the second pass leaves its own values in the decoder, and no more. -/
theorem State.passAgain_decoder (s : State) (w : Wing) (h : HeldBlock) (first : List Bool) (zero : Bool) :
    ∃ again, (s.passAgain w h first zero).dec.get w = { s.dec.get w with again := again } := by
  unfold State.passAgain
  split
  · exact ⟨_, get_set ..⟩
  · split
    · exact ⟨_, get_set ..⟩
    · exact ⟨_, get_set ..⟩

/-- R165: while the window is not full no block leaves it. -/
theorem State.oldestOut_of_room (room : (s.dec.get w).held.length < 24) (b : BlockRx) : s.oldestOut w b = s := by
  unfold State.oldestOut
  split
  · rename_i h rest held
    rw [held, List.length_cons] at room
    exact if_neg (by omega)
  · rfl

/-- R165: the oldest block of a full window leaves it. -/
theorem State.oldestOut_of_full {h : HeldBlock} {rest : List HeldBlock} (held : (s.dec.get w).held = h :: rest)
    (full : 23 ≤ rest.length) (b : BlockRx) :
    s.oldestOut w b = ((s.passAgain w h b.first (s.judgeBlock w h b.first b.bits b.iterations).firstZero).blockOut w h
      b.bits (s.judgeBlock w h b.first b.bits b.iterations)).onDec w (fun d => { d with held := rest }) := by
  unfold State.oldestOut
  rw [held]
  exact if_pos full

/-- R165, R166, R169, R170: the oldest block of a full window is counted as it was judged, and makes room. -/
theorem State.oldestOut_shows {h : HeldBlock} {rest : List HeldBlock} (held : (s.dec.get w).held = h :: rest)
    (full : 23 ≤ rest.length) {b : BlockRx} {r : BlockResult}
    (judged : s.judgeBlock w h b.first b.bits b.iterations = r) :
    (s.oldestOut w b).rdWide .FEC_BLOCKS_LO_BLOCKS .FEC_BLOCKS_HI_BLOCKS [w.n] =
        (s.rdWide .FEC_BLOCKS_LO_BLOCKS .FEC_BLOCKS_HI_BLOCKS [w.n] + 1) % 2 ^ 64 ∧
      (s.oldestOut w b).rdWide .FEC_UNCORR_LO_UNCORR .FEC_UNCORR_HI_UNCORR [w.n] =
        (s.rdWide .FEC_UNCORR_LO_UNCORR .FEC_UNCORR_HI_UNCORR [w.n] + bitNat !r.zero) % 2 ^ 64 ∧
      (s.oldestOut w b).rd .FEC_STAT_PROFILE_RX [w.n] = h.fec % 2 ^ Row.FEC_STAT_PROFILE_RX.width ∧
      ((s.oldestOut w b).dec.get w).zeros = (if r.zero then min 256 ((s.dec.get w).zeros + 1) else 0) ∧
      ((s.oldestOut w b).dec.get w).chain = couple (s.dec.get w).chain b.bits ∧
      ((s.oldestOut w b).dec.get w).held = rest := by
  obtain ⟨again, second⟩ := s.passAgain_decoder w h b.first r.firstZero
  obtain ⟨blocks, uncorr, profile⟩ := (s.passAgain w h b.first r.firstZero).blockOut_shows w h b.bits r
  have passed := (s.passAgain w h b.first r.firstZero).blockOut_decoder w h b.bits r
  obtain ⟨zeros, chain⟩ := ((s.passAgain w h b.first r.firstZero).dec.get w).take_shows h
    ((s.passAgain w h b.first r.firstZero).rd .FEC_SF_CFG_SF_TH [w.n]) r
  rw [State.rdWide, State.rdWide, State.rd_passAgain, State.rd_passAgain] at blocks uncorr
  rw [State.oldestOut_of_full held full, judged, State.onDec_dec, get_set]
  refine ⟨blocks, uncorr, profile, ?_, ?_, rfl⟩
  · rw [passed]
    exact zeros.trans (by rw [second])
  · rw [passed]
    exact congrArg (couple · b.bits) (chain.trans (by rw [second]))

/-- R176: with loss of signal a block leaves uncorrectable. -/
theorem State.judgeBlock_of_los (los : s.flag .OPT_RX_STAT_LOS [w.n] = true) (h : HeldBlock) (first bits : List Bool)
    (iterations : Nat) : (s.judgeBlock w h first bits iterations).zero = false := by
  simp [State.judgeBlock, los]

/-! ### FEC_BLOCK_DECODE (R165 to R170) -/

theorem fecBlockDecode_answers (decodes : s.decodes w = true) {b : BlockRx} {P : State → Prop}
    (hP : P ((s.begin.blockIn w b).oldestOut w b)) : Answers (.fecBlockDecode w b) s P :=
  ⟨_, congrArg Host.Outcome.next (if_pos (c := s.begin.decodes w = true) decodes), hP⟩

theorem State.blockIn_held (s : State) (w : Wing) (b : BlockRx) :
    ((s.blockIn w b).dec.get w).held = (s.dec.get w).held ++ [s.entering w b] := by
  simp [State.blockIn]

theorem State.blockIn_keeps (s : State) (w : Wing) (b : BlockRx) :
    ((s.blockIn w b).dec.get w).zeros = (s.dec.get w).zeros ∧
      ((s.blockIn w b).dec.get w).chain = (s.dec.get w).chain := by
  simp [State.blockIn]

/-- R165: a block that enters has no part in what becomes of the one that leaves. -/
theorem State.judgeBlock_blockIn (s : State) (w : Wing) (b : BlockRx) (h : HeldBlock) (first bits : List Bool)
    (iterations : Nat) :
    (s.blockIn w b).judgeBlock w h first bits iterations = s.judgeBlock w h first bits iterations := by
  simp [State.judgeBlock, State.blockIn]

/-- R165: a block that finds room in the window only enters it. -/
theorem fecBlockDecode_fills (b : BlockRx) (decodes : s.decodes w = true) (room : (s.dec.get w).held.length < 23) :
    Answers (.fecBlockDecode w b) s (fun t => (t.dec.get w).held = (s.dec.get w).held ++ [s.entering w b] ∧
      t.store = s.store) := by
  have held : ((s.begin.blockIn w b).dec.get w).held = (s.dec.get w).held ++ [s.entering w b] :=
    s.begin.blockIn_held w b
  have stays : (s.begin.blockIn w b).oldestOut w b = s.begin.blockIn w b :=
    State.oldestOut_of_room (by rw [held, List.length_append, List.length_singleton]; omega) b
  exact fecBlockDecode_answers decodes (by rw [stays]; exact ⟨held, rfl⟩)

/-- R165 to R170: a block that finds the window full moves the oldest one out. -/
theorem fecBlockDecode_moves (b : BlockRx) (h : HeldBlock) (rest : List HeldBlock) (decodes : s.decodes w = true)
    (held : (s.dec.get w).held = h :: rest) (full : 22 ≤ rest.length) :
    Answers (.fecBlockDecode w b) s (fun t =>
      t.rdWide .FEC_BLOCKS_LO_BLOCKS .FEC_BLOCKS_HI_BLOCKS [w.n] =
        (s.rdWide .FEC_BLOCKS_LO_BLOCKS .FEC_BLOCKS_HI_BLOCKS [w.n] + 1) % 2 ^ 64 ∧
      t.rdWide .FEC_UNCORR_LO_UNCORR .FEC_UNCORR_HI_UNCORR [w.n] =
        (s.rdWide .FEC_UNCORR_LO_UNCORR .FEC_UNCORR_HI_UNCORR [w.n] +
          (if (s.judgeBlock w h b.first b.bits b.iterations).zero then 0 else 1)) % 2 ^ 64 ∧
      (t.dec.get w).zeros = (if (s.judgeBlock w h b.first b.bits b.iterations).zero then
        min 256 ((s.dec.get w).zeros + 1) else 0) ∧
      t.rd .FEC_STAT_PROFILE_RX [w.n] = h.fec % 2 ^ Row.FEC_STAT_PROFILE_RX.width ∧
      (t.dec.get w).chain = couple (s.dec.get w).chain b.bits ∧ (t.dec.get w).held = rest ++ [s.entering w b] ∧
      (s.flag .OPT_RX_STAT_LOS [w.n] = true → (t.dec.get w).zeros = 0)) := by
  have here : ((s.begin.blockIn w b).dec.get w).held = h :: (rest ++ [s.entering w b]) :=
    (s.begin.blockIn_held w b).trans (congrArg (· ++ [s.entering w b]) held)
  have judged : (s.begin.blockIn w b).judgeBlock w h b.first b.bits b.iterations =
      s.judgeBlock w h b.first b.bits b.iterations := s.begin.judgeBlock_blockIn w b h b.first b.bits b.iterations
  have dark (los : s.flag .OPT_RX_STAT_LOS [w.n] = true) :=
    State.judgeBlock_of_los los h b.first b.bits b.iterations
  generalize s.judgeBlock w h b.first b.bits b.iterations = r at judged dark ⊢
  obtain ⟨blocks, uncorr, profile, zeros, chain, left⟩ := State.oldestOut_shows here
    (by rw [List.length_append, List.length_singleton]; omega) judged
  obtain ⟨sameZeros, sameChain⟩ := s.begin.blockIn_keeps w b
  have uncorrectable : bitNat (!r.zero) = if r.zero then 0 else 1 := by cases r.zero <;> rfl
  rw [sameZeros] at zeros
  rw [sameChain] at chain
  rw [uncorrectable] at uncorr
  exact fecBlockDecode_answers decodes ⟨blocks, uncorr, zeros, profile, chain, left,
    fun los => zeros.trans (if_neg (by rw [dark los]; exact Bool.false_ne_true))⟩

/-! ### LOCKED (R169) -/

theorem fecLock_locks (lost : s.flag .FEC_STAT_LOCKED [w.n] = false)
    (mapped : s.flag .RXW_HDR_STAT_MAP_VALID [w.n] = true) (run : (s.dec.get w).zeros = 256) :
    Answers (.fecLock w) s (fun t => t.flag .FEC_STAT_LOCKED [w.n] = true ∧ t.flag .FEC_EVT_LOCK [w.n] = true) := by
  have locks : (!s.flag .FEC_STAT_LOCKED [w.n] && s.flag .RXW_HDR_STAT_MAP_VALID [w.n] &&
      (s.dec.get w).zeros == 256) = true := by simp [lost, mapped, run]
  refine ⟨_, congrArg Host.Outcome.next (if_pos locks), ?_, ?_⟩
  · rw [(State.openStream_within (.refl _ _) (covers_self _) w).keepsFlag (by decide +kernel), State.onDec_flag,
      State.flag_evt_ne _ (by decide), State.flag_wrb_self _ _ _ _ (by decide)]
  · rw [(State.openStream_within (.refl _ _) (covers_self _) w).keepsFlag (by decide +kernel), State.onDec_flag,
      State.flag_evt_self _ _ _ rfl (by decide)]

/-! ### dFEC_SF (R174) -/

/-- R186, R205: what follows a change of dFEC_SF: the alarm, and a mismatch soon after a switch. -/
def State.followSf (s : State) (w : Wing) (on : Bool) (n : Nat) : State :=
  (s.icmRefresh w).when on (·.sfMismatch w n)

/-- What `State.followSf` may write. -/
def State.followSf_touch : Nat := union [State.icmRefresh_touch, State.sfMismatch_touch]

theorem State.followSf_within (s : State) (w : Wing) (on : Bool) (n : Nat) :
    Within State.followSf_touch s (s.followSf w on n) := by
  have k := covers_self State.followSf_touch
  rw [State.followSf_touch] at k
  simp only [covers_union] at k
  obtain ⟨refresh, mismatch, -⟩ := k
  exact State.when_within (State.icmRefresh_within (.refl _ s) refresh w)
    (fun t => State.sfMismatch_within (.refl _ t) mismatch w n) on

theorem State.setFecSf_of_change {on : Bool} (change : s.flag .FEC_STAT_SF [w.n] ≠ on) (n : Nat) : s.setFecSf w on n =
    ((s.wrb .FEC_STAT_SF [w.n] on).evt .FEC_EVT_SF_CHANGE [w.n]).followSf w on n := if_neg change

/-- R174: dFEC_SF has the value that it takes. -/
theorem State.setFecSf_value (s : State) (w : Wing) (on : Bool) (n : Nat) :
    (s.setFecSf w on n).flag .FEC_STAT_SF [w.n] = on := by
  by_cases same : s.flag .FEC_STAT_SF [w.n] = on
  · rw [State.setFecSf, if_pos same, same]
  · rw [State.setFecSf_of_change same, (State.followSf_within ..).keepsFlag (by decide +kernel),
      State.flag_evt_ne _ (by decide), State.flag_wrb_self _ _ _ _ (by decide)]

/-- R174: a change of dFEC_SF rings. -/
theorem State.setFecSf_rings {on : Bool} (change : s.flag .FEC_STAT_SF [w.n] ≠ on) (n : Nat) :
    (s.setFecSf w on n).flag .FEC_EVT_SF_CHANGE [w.n] = true := by
  rw [State.setFecSf_of_change change, (State.followSf_within ..).keepsFlag (by decide +kernel),
    State.flag_evt_self _ _ _ rfl (by decide)]

theorem dfecSfChange_rises (good : s.flag .FEC_STAT_SF [w.n] = false) (failing : 2 ≤ (s.dec.get w).failing) :
    Answers (.dfecSfChange w) s (fun t => t.flag .FEC_STAT_SF [w.n] = true ∧
      t.flag .FEC_EVT_SF_CHANGE [w.n] = true) := by
  have fails : ¬s.begin.flag .FEC_STAT_SF [w.n] = true := by simp [good]
  have changes : execDfecSfChange w s = .next (s.begin.setFecSf w true 4) :=
    congrArg Host.Outcome.next ((if_neg fails).trans (if_pos (decide_eq_true failing)))
  exact ⟨_, changes, State.setFecSf_value .., State.setFecSf_rings fails 4⟩

theorem dfecSfChange_falls (bad : s.flag .FEC_STAT_SF [w.n] = true) (locked : s.flag .FEC_STAT_LOCKED [w.n] = true)
    (clean : 8 ≤ (s.dec.get w).clean) :
    Answers (.dfecSfChange w) s (fun t => t.flag .FEC_STAT_SF [w.n] = false ∧
      t.flag .FEC_EVT_SF_CHANGE [w.n] = true) := by
  have recovers : (s.flag .FEC_STAT_LOCKED [w.n] && decide (8 ≤ (s.dec.get w).clean)) = true := by
    simp [locked, clean]
  have fails : s.begin.flag .FEC_STAT_SF [w.n] ≠ false := by simp [bad]
  have changes : execDfecSfChange w s = .next (s.begin.setFecSf w false 4) :=
    congrArg Host.Outcome.next ((if_pos bad).trans (if_pos recovers))
  exact ⟨_, changes, State.setFecSf_value .., State.setFecSf_rings fails 4⟩

/-! ### Loss of lock (R169) -/

/-- R169: what the loss of lock shows, and what the decoder forgets by it. -/
def State.dropLock (s : State) (w : Wing) : State :=
  ((s.wrb .FEC_STAT_LOCKED [w.n] false).evt .FEC_EVT_LOCK_LOSS [w.n]).onDec w
    (fun d => { d with zeros := 0, dead := 0, window := none, errs := 0, bits := 0, ref := 0, low := 0 })

/-- R232: the framer after a loss of lock. -/
def State.loseFrames (s : State) (w : Wing) : State := ((s.outOfFrame w).stopSearch w).noteSsf w

theorem State.fecUnlock_of_locked (locked : s.flag .FEC_STAT_LOCKED [w.n] = true) :
    s.fecUnlock w = ((s.dropLock w).setFecSf w true 3).loseFrames w := by
  rw [State.fecUnlock, locked]
  rfl

/-- What `State.loseFrames` may write. -/
def State.loseFrames_touch : Nat := union [State.outOfFrame_touch, State.stopSearch_touch, State.noteSsf_touch]

theorem State.loseFrames_within (s : State) (w : Wing) : Within State.loseFrames_touch s (s.loseFrames w) := by
  have k := covers_self State.loseFrames_touch
  rw [State.loseFrames_touch] at k
  simp only [covers_union] at k
  obtain ⟨frame, search, fail, -⟩ := k
  exact State.noteSsf_within (State.stopSearch_within (State.outOfFrame_within (.refl _ s) frame w) search w) fail w

theorem State.dropLock_shows (s : State) (w : Wing) :
    (s.dropLock w).flag .FEC_STAT_LOCKED [w.n] = false ∧ (s.dropLock w).flag .FEC_EVT_LOCK_LOSS [w.n] = true ∧
      ((s.dropLock w).dec.get w).zeros = 0 := by
  refine ⟨?_, State.flag_evt_self _ _ _ rfl (by decide), by rw [State.dropLock, State.onDec_dec, get_set]⟩
  rw [State.dropLock, State.onDec_flag, State.flag_evt_ne _ (by decide), State.flag_wrb_self _ _ _ _ (by decide)]

/-- R169, R174: a decoder that was locked loses its lock, and dFEC_SF is set. -/
theorem State.fecUnlock_shows (locked : s.flag .FEC_STAT_LOCKED [w.n] = true) :
    (s.fecUnlock w).flag .FEC_STAT_LOCKED [w.n] = false ∧ (s.fecUnlock w).flag .FEC_EVT_LOCK_LOSS [w.n] = true ∧
      (s.fecUnlock w).flag .FEC_STAT_SF [w.n] = true ∧ ((s.fecUnlock w).dec.get w).zeros = 0 := by
  have frames := ((s.dropLock w).setFecSf w true 3).loseFrames_within w
  have sf := State.setFecSf_within (.refl _ (s.dropLock w)) (covers_self _) w true 3
  have framesDec := frames.part .dec (by decide +kernel)
  have sfDec := sf.part .dec (by decide +kernel)
  obtain ⟨lost, rings, zeros⟩ := s.dropLock_shows w
  rw [State.fecUnlock_of_locked locked]
  refine ⟨?_, ?_, ?_, ?_⟩
  · rw [frames.keepsFlag (by decide +kernel), sf.keepsFlag (by decide +kernel), lost]
  · rw [frames.keepsFlag (by decide +kernel), sf.keepsFlag (by decide +kernel), rings]
  · rw [frames.keepsFlag (by decide +kernel), State.setFecSf_value]
  · rw [framesDec, sfDec, zeros]

theorem fecLockLoss_unlocks (locked : s.flag .FEC_STAT_LOCKED [w.n] = true)
    (lost : (decide (4 ≤ (s.dec.get w).dead) || !s.rxAtFec w || s.flag .OPT_RX_STAT_LOS [w.n]) = true) :
    Answers (.fecLockLoss w) s (fun t => t.flag .FEC_STAT_LOCKED [w.n] = false ∧
      t.flag .FEC_EVT_LOCK_LOSS [w.n] = true ∧ t.flag .FEC_STAT_SF [w.n] = true ∧ (t.dec.get w).zeros = 0) :=
  ⟨_, congrArg Host.Outcome.next (if_pos lost), State.fecUnlock_shows (s := s.begin) locked⟩

/-! ### dFEC_SD (R174) -/

/-- R174: dFEC_SD has the value that it takes. -/
theorem State.setFecSd_value (s : State) (w : Wing) (on : Bool) :
    (s.setFecSd w on).flag .FEC_STAT_SD [w.n] = on := by
  unfold State.setFecSd
  split
  · assumption
  · rw [State.flag_evt_ne _ (by decide), State.flag_wrb_self _ _ _ _ (by decide)]

/-- R174: a window with decoded bits that is above the degrade level sets dFEC_SD, the second in succession that is not
clears it, and the next window begins. -/
theorem State.sdWindow_shows (counted : (s.dec.get w).bits ≠ 0) :
    (s.sdWindow w).flag .FEC_STAT_SD [w.n] =
        (if (s.dec.get w).degraded (s.rd .FEC_SF_CFG_SD_TH [w.n]) then true
          else if 1 ≤ (s.dec.get w).low then false else s.flag .FEC_STAT_SD [w.n]) ∧
      ((s.sdWindow w).dec.get w).window = some 0 ∧ ((s.sdWindow w).dec.get w).errs = 0 := by
  unfold State.sdWindow
  dsimp only
  rw [if_neg counted]
  split
  case isTrue degraded => exact ⟨State.setFecSd_value .., by simp, by simp⟩
  case isFalse =>
    split
    case isTrue low => exact ⟨State.setFecSd_value .., by simp, by simp⟩
    case isFalse => exact ⟨rfl, by simp, by simp⟩

theorem dfecSdWindow_judges (n : Nat) (window : (s.dec.get w).window = some n) (ended : 64 ≤ n)
    (counted : (s.dec.get w).bits ≠ 0) :
    Answers (.dfecSdWindow w) s (fun t => t.flag .FEC_STAT_SD [w.n] =
        (if (s.dec.get w).degraded (s.rd .FEC_SF_CFG_SD_TH [w.n]) then true
          else if 1 ≤ (s.dec.get w).low then false else s.flag .FEC_STAT_SD [w.n]) ∧
      (t.dec.get w).window = some 0 ∧ (t.dec.get w).errs = 0) := by
  refine ⟨s.begin.sdWindow w, ?_, State.sdWindow_shows (s := s.begin) counted⟩
  rw [exec_dfecSdWindow, execDfecSdWindow, State.begin_dec, window]
  exact congrArg Host.Outcome.next (if_pos ended)

end

/-! ### The obligation -/

/-- Settles O20: each clause by the rule of its command. That a block which leaves under loss of signal is uncorrectable
is R176. -/
theorem ubmusDecoder : Obligations.UbmusDecoder := by
  unfold Obligations.UbmusDecoder
  intro s w
  exact ⟨fecBlockDecode_moves, fecBlockDecode_fills, fecLock_locks, fecLockLoss_unlocks, dfecSfChange_rises,
    dfecSfChange_falls, dfecSdWindow_judges⟩

end Sys2Proof.Machine
end

section
/-!
The transmitter's rate control (R180 to R193): what the operations that its commands share leave of a wing's rate
control and of its registers.
-/

namespace Sys2Proof.Machine

-- The row tests below are large kernel evaluations: one theorem at a time bounds the memory of the whole text's check.
set_option Elab.async false

/-! ### Registers after events and counts (R6, R405) -/

theorem State.rd_evt_ne (s : State) {r x : Row} (h : ∀ y ∈ r :: bellRows, y.id ≠ x.id) (ix jx : List Nat) (b : Nat) :
    (s.evt r ix b).rd x jx = s.rd x jx :=
  s.evt_keeps r ix b x jx h

theorem State.rd_countWrap_ne (s : State) {r x : Row} (h : r.id ≠ x.id) (ix jx : List Nat) (n : Nat) :
    (s.countWrap r ix n).rd x jx = s.rd x jx := by
  rw [State.countWrap, State.mirrored_rd, State.rd_wr_ne _ h]

theorem State.rd_wrb_ne (s : State) {r x : Row} (h : r.id ≠ x.id) (ix jx : List Nat) (b : Bool) :
    (s.wrb r ix b).rd x jx = s.rd x jx :=
  s.rd_wr_ne h ix jx _

theorem State.rd_when_countWrap (s : State) (c : Bool) {r x : Row} (h : r.id ≠ x.id) (ix jx : List Nat) :
    (s.when c (·.countWrap r ix)).rd x jx = s.rd x jx :=
  State.rd_when (f := (·.countWrap r ix)) (s.rd_countWrap_ne h ix jx 1) c

theorem State.rd_when_wrb (s : State) (c : Bool) {r x : Row} (h : r.id ≠ x.id) (ix jx : List Nat) (b : Bool) :
    (s.when c (·.wrb r ix b)).rd x jx = s.rd x jx :=
  State.rd_when (f := (·.wrb r ix b)) (s.rd_wrb_ne h ix jx b) c

theorem State.rd_showCounts (s : State) (w : Wing) (cur next : List Nat) {r : Row}
    (k : spares State.showCounts_touch r = true) (ix : List Nat) : (s.showCounts w cur next).rd r ix = s.rd r ix :=
  (State.showCounts_within (.refl _ s) (covers_self _) w cur next).keeps k ix

/-! ### What writes registers only leaves the rate control alone -/

theorem State.when_tx {f : State → State} (h : ∀ t : State, (f t).tx = t.tx) (s : State) (c : Bool) :
    (s.when c f).tx = s.tx := by
  cases c
  · rfl
  · exact h s

@[simp] theorem State.wrb_tx (s : State) (r : Row) (ix : List Nat) (b : Bool) : (s.wrb r ix b).tx = s.tx := rfl

@[simp] theorem State.evt_tx (s : State) (r : Row) (ix : List Nat) (b : Nat) : (s.evt r ix b).tx = s.tx :=
  s.evt_same r ix b (p := .tx) (by decide)

@[simp] theorem State.countWrap_tx (s : State) (r : Row) (ix : List Nat) (n : Nat) :
    (s.countWrap r ix n).tx = s.tx := by
  unfold State.countWrap
  obtain h | h := (s.wr r ix (s.rd r ix + n)).mirrored_eq r ix n <;> rw [h] <;> rfl

@[simp] theorem State.evt_rx (s : State) (r : Row) (ix : List Nat) (b : Nat) : (s.evt r ix b).rx = s.rx :=
  s.evt_same r ix b (p := .rx) (by decide)

@[simp] theorem State.countWrap_rx (s : State) (r : Row) (ix : List Nat) (n : Nat) :
    (s.countWrap r ix n).rx = s.rx := by
  unfold State.countWrap
  obtain h | h := (s.wr r ix (s.rd r ix + n)).mirrored_eq r ix n <;> rw [h] <;> rfl

@[simp] theorem State.showCounts_tx (s : State) (w : Wing) (cur next : List Nat) :
    (s.showCounts w cur next).tx = s.tx :=
  (State.showCounts_within (.refl _ s) (covers_self _) w cur next).part .tx (by decide +kernel)

@[simp] theorem State.icmRefresh_tx (s : State) (w : Wing) : (s.icmRefresh w).tx = s.tx :=
  (State.icmRefresh_within (.refl _ s) (covers_self _) w).part .tx (by decide +kernel)

@[simp] theorem State.onRxHs_tx (s : State) (w : Wing) (f : RxLine → RxLine) : (s.onRxHs w f).tx = s.tx :=
  (State.onRxHs_within (.refl _ s) (covers_self _) w f).part .tx (by decide +kernel)

@[simp] theorem State.sendAnnounce_tx (s : State) (w : Wing) (x : Wanted) : (s.sendAnnounce w x).tx = s.tx :=
  (State.sendAnnounce_within (.refl _ s) (covers_self _) w x).part .tx (by decide +kernel)

/-! ### What touches a part of the rate control only -/

/-- R79: a header that goes out is kept, and the rest of the rate control stays. -/
theorem State.sendHeader_tx (s : State) (w : Wing) :
    (s.sendHeader w).tx.get w = { s.tx.get w with headers := (List.range 64).map (s.txHeader w) } := by
  rw [State.sendHeader, State.say_tx, get_set]

/-- R180: a change that acts on advice spends it, and the rest of the rate control stays. -/
theorem State.spendAdvice_tx (s : State) (w : Wing) (x : Wanted) :
    ∃ acted, (s.spendAdvice w x).tx.get w = { s.tx.get w with acted := acted } := by
  unfold State.spendAdvice
  split
  · exact ⟨_, get_set ..⟩
  · exact ⟨_, rfl⟩

theorem State.settleAdvice_enabled (s : State) (w : Wing) :
    ((s.settleAdvice w).tx.get w).enabled = (s.tx.get w).enabled := by
  unfold State.settleAdvice
  dsimp only
  split
  · rw [State.onTx_tx, get_set]
  · rfl

theorem State.settleAdvice_rd (s : State) (w : Wing) (r : Row) (ix : List Nat) :
    (s.settleAdvice w).rd r ix = s.rd r ix := by
  unfold State.settleAdvice
  dsimp only
  split <;> rfl

/-- R182: no announcement is transmitted any more. -/
theorem State.endAnn_shows (s : State) (w : Wing) :
    (s.endAnn w).flag .TXW_LINE_NEXT_ANN_VALID [w.n] = false ∧
      (s.endAnn w).tx.get w = { s.tx.get w with switchDue := false, fresh := false } := by
  refine ⟨?_, get_set ..⟩
  rw [State.endAnn, State.onTx_flag, State.flag_wrb_ne _ (by decide), State.flag, State.rd_wr_ne _ (by decide),
    ← State.flag, State.flag_wrb_self _ _ _ _ (by decide)]

end Sys2Proof.Machine
end

section
/-!
The announcement (R180 to R182, R185): what is shown of one, its commit or withdrawal, its switch and its retry, and
O21.
-/

namespace Sys2Proof.Machine

-- The row tests below are large kernel evaluations: one theorem at a time bounds the memory of the whole text's check.
set_option Elab.async false

section

variable {s : State} {w : Wing} {x : Wanted}

/-! ### An announcement begins (R181, R182 step 1) -/

/-- R66: LINE_NEXT shows the announcement's number and countdown. -/
theorem State.showAnn_shows (s : State) (w : Wing) (x : Wanted) (seq count slots : Nat) :
    (s.showAnn w x seq count slots).flag .TXW_LINE_NEXT_ANN_VALID [w.n] = true ∧
      (s.showAnn w x seq count slots).rd .TXW_LINE_NEXT_ANN_SEQ [w.n] = seq % 16 ∧
      (s.showAnn w x seq count slots).rd .TXW_LINE_NEXT_COUNTDOWN [w.n] = count % 256 := by
  have valid := s.flag_wrb_self .TXW_LINE_NEXT_ANN_VALID [w.n] true (by decide)
  unfold State.showAnn
  simp (disch := decide) only [State.flag, State.rd_wr_ne, State.rd_wr_self]
  exact ⟨valid, rfl, rfl⟩

/-- R182 step 1: what an announcement that begins shows and records. -/
theorem State.beginAnn_shows (s : State) (w : Wing) (x : Wanted) (en seq count : Nat) :
    (s.beginAnn w x en seq count).flag .TXW_LINE_NEXT_ANN_VALID [w.n] = true ∧
      (s.beginAnn w x en seq count).rd .TXW_LINE_NEXT_ANN_SEQ [w.n] = seq % 16 ∧
      (s.beginAnn w x en seq count).rd .TXW_LINE_NEXT_COUNTDOWN [w.n] = count % 256 ∧
      (s.beginAnn w x en seq count).flag .ELC_EVT_ANNOUNCE [w.n] = true ∧
      ((s.beginAnn w x en seq count).tx.get w).now = some x := by
  have later {r : Row} (counts : spares State.showCounts_touch r = true)
      (breach : ∀ y ∈ Row.ELC_EVT_MIN_BREACH :: bellRows, y.id ≠ r.id) (total : Row.ELC_CNT0_ANNOUNCES.id ≠ r.id)
      (bell : ∀ y ∈ Row.ELC_EVT_ANNOUNCE :: bellRows, y.id ≠ r.id) :
      (s.beginAnn w x en seq count).rd r [w.n] =
        (s.showAnn w x seq count (s.countsFor w x.h x.fec en).1.sum).rd r [w.n] := by
    rw [State.beginAnn, State.onTx_rd, State.rd_evt_ne _ bell, State.rd_countWrap_ne _ total,
      State.rd_when_evt _ _ _ _ breach, State.rd_showCounts _ _ _ _ counts]
  obtain ⟨valid, number, countdown⟩ := s.showAnn_shows w x seq count (s.countsFor w x.h x.fec en).1.sum
  refine ⟨?_, ?_, ?_, ?_, congrArg TxRate.now (get_set ..)⟩
  · rw [State.flag, later (by decide +kernel) (by decide) (by decide) (by decide), ← State.flag, valid]
  · rw [later (by decide +kernel) (by decide) (by decide) (by decide), number]
  · rw [later (by decide +kernel) (by decide) (by decide) (by decide), countdown]
  · rw [State.beginAnn, State.onTx_flag, State.flag_evt_self _ _ _ rfl (by decide)]

/-- R181, R182 step 1: a change that is announced in the header. -/
theorem State.announce_shows (s : State) (w : Wing) (x : Wanted) :
    (s.announce w x).rd .ELC_HS_STAT_STATE [w.n] = 1 ∧
      (s.announce w x).flag .TXW_LINE_NEXT_ANN_VALID [w.n] = true ∧
      (s.announce w x).rd .TXW_LINE_NEXT_ANN_SEQ [w.n] = ((s.tx.get w).annSeq + 1) % 16 ∧
      (s.announce w x).rd .TXW_LINE_NEXT_COUNTDOWN [w.n] = (s.leadOf w x).1 % 256 ∧
      (s.announce w x).flag .ELC_HS_STAT_UNCONFIRMED [w.n] = (s.leadOf w x).2 ∧
      (s.announce w x).flag .ELC_EVT_ANNOUNCE [w.n] = true ∧ ((s.announce w x).tx.get w).now = some x := by
  obtain ⟨valid, sequence, countdown, rings, now⟩ := (s.spendAdvice w x).beginAnn_shows w x (s.enableBits w)
    (((s.tx.get w).annSeq + 1) % 16) (s.leadOf w x).1
  have later {r : Row} (state : Row.ELC_HS_STAT_STATE.id ≠ r.id) (confirmed : Row.ELC_HS_STAT_UNCONFIRMED.id ≠ r.id) :
      (s.announce w x).rd r [w.n] = ((s.spendAdvice w x).beginAnn w x (s.enableBits w)
        (((s.tx.get w).annSeq + 1) % 16) (s.leadOf w x).1).rd r [w.n] := by
    rw [State.announce, State.sendHeader_rd, State.rd_wrb_ne _ confirmed, State.rd_wr_ne _ state]
  refine ⟨?_, ?_, ?_, ?_, ?_, ?_, ?_⟩
  · rw [State.announce, State.sendHeader_rd, State.rd_wrb_ne _ (by decide), State.rd_wr_self]
    rfl
  · rw [State.flag, later (by decide) (by decide), ← State.flag, valid]
  · rw [later (by decide) (by decide), sequence, Nat.mod_mod]
  · rw [later (by decide) (by decide), countdown]
  · exact State.flag_wrb_self _ _ _ _ (by decide)
  · rw [State.flag, later (by decide) (by decide), ← State.flag, rings]
  · rw [State.announce, State.sendHeader_tx, State.wrb_tx, State.wr_tx]
    exact now

theorem announceStart_answers (ready : s.txReady w = true) (header : s.flag .ELC_HS_STAT_ICM_RC [w.n] = false)
    (wanted : s.wanted w = some x) {P : State → Prop} (hP : P (s.begin.announce w x)) :
    Answers (.announceStart w) s P := by
  have starts : (s.txReady w && !s.flag .ELC_HS_STAT_ICM_RC [w.n]) = true := by rw [ready, header]; rfl
  have begun : s.begin.wanted w = some x := wanted
  refine ⟨_, ?_, hP⟩
  rw [exec_announceStart, execAnnounceStart]
  exact congrArg Host.Outcome.next ((if_pos starts).trans (by rw [begun]))

/-! ### Commit or withdrawal (R182 steps 2 and 3) -/

/-- R182 step 3: a withdrawn announcement is transmitted no more. -/
theorem State.withdraw_shows (s : State) (w : Wing) :
    (s.withdraw w).rd .ELC_HS_STAT_STATE [w.n] = 3 ∧ (s.withdraw w).flag .TXW_LINE_NEXT_ANN_VALID [w.n] = false ∧
      (s.withdraw w).flag .ELC_EVT_WITHDRAWN [w.n] = true := by
  refine ⟨?_, ?_, State.flag_evt_self _ _ _ rfl (by decide)⟩
  · simp (disch := decide) only [State.withdraw, State.sendHeader_rd, State.onTx_rd, State.rd_evt_ne, State.rd_wr_ne,
      State.rd_countWrap_ne, State.rd_wr_self]
    rfl
  · rw [State.withdraw, State.flag, State.sendHeader_rd, State.onTx_rd, State.rd_evt_ne _ (by decide),
      State.rd_wr_ne _ (by decide), State.rd_countWrap_ne _ (by decide), State.rd_wr_ne _ (by decide),
      State.rd_showCounts _ _ _ _ (by decide +kernel), ← State.flag, (s.endAnn_shows w).1]

/-- R182 steps 2 and 3: at COUNTDOWN = 4 a change commits with its acknowledgement or when unconfirmed, or is
withdrawn. -/
theorem annCommitPoint_decides (announcing : s.rd .ELC_HS_STAT_STATE [w.n] = 1)
    (standing : s.flag .TXW_LINE_NEXT_ANN_VALID [w.n] = true) (point : s.rd .TXW_LINE_NEXT_COUNTDOWN [w.n] = 4) :
    Answers (.annCommitPoint w) s (fun t => if (s.tx.get w).acked || s.flag .ELC_HS_STAT_UNCONFIRMED [w.n] then
        t.rd .ELC_HS_STAT_STATE [w.n] = 2 ∧ t.flag .ELC_EVT_COMMIT [w.n] = true
      else t.rd .ELC_HS_STAT_STATE [w.n] = 3 ∧ t.flag .TXW_LINE_NEXT_ANN_VALID [w.n] = false ∧
        t.flag .ELC_EVT_WITHDRAWN [w.n] = true) := by
  have decides : (s.rd .ELC_HS_STAT_STATE [w.n] = 1 && s.flag .TXW_LINE_NEXT_ANN_VALID [w.n] &&
      s.rd .TXW_LINE_NEXT_COUNTDOWN [w.n] == 4) = true := by simp [announcing, standing, point]
  refine ⟨_, congrArg Host.Outcome.next (if_pos decides), ?_⟩
  rw [State.begin_tx, State.begin_flag]
  split
  · refine ⟨?_, State.flag_evt_self _ _ _ rfl (by decide)⟩
    rw [State.rd_evt_ne _ (by decide), State.rd_wr_self]
    rfl
  · exact s.begin.withdraw_shows w

/-! ### The switch (R182 step 4, R187) -/

/-- R182, R310: beside the ENABLE bits in force, the new drain rates leave the rate control alone. -/
theorem State.applyDrain_tx (s : State) (w : Wing) (counts : List Nat) (enabled : Nat) :
    (s.applyDrain w counts enabled).tx.get w = { s.tx.get w with enabled := enabled } := by
  have drain (t : State) (ch n : Nat) : (t.setDrain ch n).tx = t.tx :=
    (State.setDrain_within (.refl _ t) (covers_self _) ch n).part .tx (by decide +kernel)
  have flush (ch : Nat) (t : State) : (t.flushInst ch).tx = t.tx :=
    (State.flushInst_within (.refl _ t) (covers_self _) ch).part .tx (by decide +kernel)
  have enable (ch : Nat) (t : State) : (t.enableInst ch).tx = t.tx :=
    (State.enableInst_within (.refl _ t) (covers_self _) ch).part .tx (by decide +kernel)
  unfold State.applyDrain
  dsimp only
  rw [State.upTo_keeps (g := State.tx) fun t c => ?_, get_set]
  rw [State.when_tx (enable _), State.when_tx (flush _)]
  split
  · rfl
  · exact drain ..

/-- R66, R67, R182: what a switch puts in force. -/
theorem State.switchTx_shows (s : State) (w : Wing) (h fec enabled : Nat) (m counts : List Nat) :
    (s.switchTx w h fec enabled m counts).rd .TXW_LINE_CUR_H_IDX [w.n] = h % 128 ∧
      (s.switchTx w h fec enabled m counts).rd .TXW_LINE_CUR_FEC [w.n] = fec % 2 ∧
      (s.switchTx w h fec enabled m counts).tx.get w = { s.tx.get w with
        sent := (s.tx.get w).sent.modifyHead (fun c => { c with n := h, fec := fec }), enabled := enabled } := by
  have account (t : State) (n p : Nat) := State.showAcct_within (.refl _ t) (covers_self _) w 0 n p
  have drain (t : State) := State.applyDrain_within (.refl _ t) (covers_self _) w counts enabled
  have map (t : State) := State.setTxMap_within (.refl _ t) (covers_self _) w m
  have later {r : Row} (acct : spares State.showAcct_touch r = true) (rates : spares State.applyDrain_touch r = true)
      (shown : spares State.showCounts_touch r = true) (slots : spares State.setTxMap_touch r = true)
      (profile : Row.FEC_STAT_PROFILE_TX.id ≠ r.id) :
      (s.switchTx w h fec enabled m counts).rd r [w.n] = (s.setLineCur w h fec counts.sum).rd r [w.n] := by
    rw [State.switchTx, (account ..).keeps acct, State.rd_wr_ne _ profile, (drain _).keeps rates, State.onTx_rd,
      State.rd_showCounts _ _ _ _ shown, (map _).keeps slots]
  have placed : (((s.setLineCur w h fec counts.sum).setTxMap w m).showCounts w counts counts).tx = s.tx := by
    have written : ((s.setLineCur w h fec counts.sum).setTxMap w m).tx = (s.setLineCur w h fec counts.sum).tx :=
      (map _).part .tx (by decide +kernel)
    rw [State.showCounts_tx, written]
    rfl
  refine ⟨?_, ?_, ?_⟩
  · rw [later (by decide +kernel) (by decide +kernel) (by decide +kernel) (by decide +kernel) (by decide)]
    simp (disch := decide) only [State.setLineCur, State.rd_wr_ne, State.rd_wr_self]
    rfl
  · rw [later (by decide +kernel) (by decide +kernel) (by decide +kernel) (by decide +kernel) (by decide)]
    simp (disch := decide) only [State.setLineCur, State.rd_wr_ne, State.rd_wr_self]
    rfl
  · have kept (t : State) (n p : Nat) : (t.showAcct w 0 n p).tx = t.tx := (account ..).part .tx (by decide +kernel)
    rw [State.switchTx, kept, State.wr_tx, State.applyDrain_tx, State.onTx_tx, get_set, placed]

/-- R182 step 4, R187: the announcement ends with its switch, and a switch of the pair leaves the floor. -/
def State.endSwitch (s : State) (w : Wing) (x : Wanted) : State :=
  ((s.when (s.flag .ELC_HS_STAT_UNCONFIRMED [w.n]) (·.countWrap .ELC_CNT1_UNCONFIRMED [w.n])).endAnn w).when
    (!x.mapOnly) (·.wrb .ELC_HS_STAT_FLOOR_TX [w.n] false)

theorem State.afterSwitch_eq (s : State) (w : Wing) (x : Wanted) :
    s.afterSwitch w x =
      (((((((s.endSwitch w x).wr .ELC_HS_STAT_STATE [w.n]
        (if (s.endSwitch w x).flag .ELC_HS_STAT_FLOOR_TX [w.n] then 5 else 0)).wr .ELC_HS_STAT_RETRIES [w.n]
        0).countWrap .ELC_CNT0_SWITCHES [w.n]).evt .ELC_EVT_SWITCH [w.n]).onTx w (fun t => { t with
        now := none, annMap := [], annCounts := [], mapRetry := none })).settleAdvice w) := rfl

theorem State.endSwitch_valid (s : State) (w : Wing) (x : Wanted) :
    (s.endSwitch w x).flag .TXW_LINE_NEXT_ANN_VALID [w.n] = false := by
  rw [State.endSwitch, State.flag, State.rd_when_wrb _ _ (by decide), ← State.flag, (State.endAnn_shows _ w).1]

theorem State.endSwitch_tx (s : State) (w : Wing) (x : Wanted) :
    (s.endSwitch w x).tx.get w = { s.tx.get w with switchDue := false, fresh := false } := by
  rw [State.endSwitch, State.when_tx (fun t => t.wrb_tx ..), (State.endAnn_shows _ w).2,
    State.when_tx (fun t => t.countWrap_tx ..)]

/-- R187: only a switch of the map alone leaves FLOOR as it was. -/
theorem State.endSwitch_floor (s : State) (w : Wing) (x : Wanted) :
    (s.endSwitch w x).flag .ELC_HS_STAT_FLOOR_TX [w.n] = (x.mapOnly && s.flag .ELC_HS_STAT_FLOOR_TX [w.n]) := by
  cases only : x.mapOnly
  · rw [State.endSwitch, only]
    exact State.flag_wrb_self _ _ _ _ (by decide)
  · rw [State.endSwitch, only, Bool.not_true, State.when_false, Bool.true_and,
      (State.endAnn_within (.refl _ _) (covers_self _) w).keepsFlag (by decide +kernel), State.flag,
      State.rd_when_countWrap _ _ (by decide), State.flag]

/-- R182 step 4, R187: what a switch leaves of the handshake. -/
theorem State.afterSwitch_shows (s : State) (w : Wing) (x : Wanted) :
    (s.afterSwitch w x).flag .TXW_LINE_NEXT_ANN_VALID [w.n] = false ∧
      (s.afterSwitch w x).flag .ELC_EVT_SWITCH [w.n] = true ∧
      (s.afterSwitch w x).rd .ELC_HS_STAT_STATE [w.n] =
        (if x.mapOnly && s.flag .ELC_HS_STAT_FLOOR_TX [w.n] then 5 else 0) ∧
      ((s.afterSwitch w x).tx.get w).enabled = (s.tx.get w).enabled := by
  refine ⟨?_, ?_, ?_, ?_⟩
  · rw [← s.endSwitch_valid w x, State.afterSwitch_eq]
    simp (disch := decide) only [State.flag, State.settleAdvice_rd, State.onTx_rd, State.rd_evt_ne,
      State.rd_countWrap_ne, State.rd_wr_ne]
  · rw [State.afterSwitch_eq, State.flag, State.settleAdvice_rd, ← State.flag, State.onTx_flag,
      State.flag_evt_self _ _ _ rfl (by decide)]
  · rw [← s.endSwitch_floor, State.afterSwitch_eq]
    simp (disch := decide) only [State.settleAdvice_rd, State.onTx_rd, State.rd_evt_ne, State.rd_countWrap_ne,
      State.rd_wr_ne, State.rd_wr_self]
    split <;> rfl
  · rw [State.afterSwitch_eq, State.settleAdvice_enabled, State.onTx_tx, get_set, State.evt_tx, State.countWrap_tx,
      State.wr_tx, State.wr_tx, State.endSwitch_tx]

theorem rateSwitch_answers (due : (s.tx.get w).switchDue = true) (now : (s.tx.get w).now = some x) {P : State → Prop}
    (hP : P (((s.begin.switchTx w x.h x.fec (s.tx.get w).annEnabled (s.tx.get w).annMap
      (s.tx.get w).annCounts).afterSwitch w x).sendHeader w)) : Answers (.rateSwitch w) s P := by
  refine ⟨_, ?_, hP⟩
  rw [exec_rateSwitch, execRateSwitch]
  simp only [State.begin_tx, due, now]

/-- R182 step 4: a due switch puts the announced pair in force. -/
theorem rateSwitch_switches (x : Wanted) (due : (s.tx.get w).switchDue = true) (now : (s.tx.get w).now = some x) :
    Answers (.rateSwitch w) s (fun t => t.rd .TXW_LINE_CUR_H_IDX [w.n] = x.h % 128 ∧
      t.rd .TXW_LINE_CUR_FEC [w.n] = x.fec % 2 ∧
      t.flag .TXW_LINE_NEXT_ANN_VALID [w.n] = false ∧ t.flag .ELC_EVT_SWITCH [w.n] = true ∧
      t.rd .ELC_HS_STAT_STATE [w.n] = (if x.mapOnly && s.flag .ELC_HS_STAT_FLOOR_TX [w.n] then 5 else 0) ∧
      (t.tx.get w).enabled = (s.tx.get w).annEnabled) := by
  let u := s.begin.switchTx w x.h x.fec (s.tx.get w).annEnabled (s.tx.get w).annMap (s.tx.get w).annCounts
  have after := State.afterSwitch_within (.refl _ u) (covers_self _) w x
  have floor : u.flag .ELC_HS_STAT_FLOOR_TX [w.n] = s.flag .ELC_HS_STAT_FLOOR_TX [w.n] :=
    (State.switchTx_within (.refl _ s.begin) (covers_self _) ..).keepsFlag (by decide +kernel) _
  obtain ⟨index, profile, inForce⟩ := s.begin.switchTx_shows w x.h x.fec (s.tx.get w).annEnabled
    (s.tx.get w).annMap (s.tx.get w).annCounts
  obtain ⟨ended, rings, state, enabled⟩ := u.afterSwitch_shows w x
  rw [floor] at state
  refine rateSwitch_answers due now ⟨?_, ?_, ended, rings, state, ?_⟩
  · rw [State.sendHeader_rd, after.keeps (by decide +kernel), index]
  · rw [State.sendHeader_rd, after.keeps (by decide +kernel), profile]
  · rw [State.sendHeader_tx]
    exact enabled.trans (congrArg TxRate.enabled inForce)

/-! ### The retry (R182 step 5, R188 step 1) -/

/-- R188 step 1: a handshake over the intercom begins. -/
theorem State.announceIcm_shows (s : State) (w : Wing) (x : Wanted) :
    (s.announceIcm w x).rd .ELC_HS_STAT_STATE [w.n] = 4 ∧ ((s.announceIcm w x).tx.get w).now = some x ∧
      ((s.announceIcm w x).tx.get w).annSeq = ((s.tx.get w).annSeq + 1) % 16 ∧
      ((s.announceIcm w x).tx.get w).icmTries = 0 := by
  obtain ⟨acted, spent⟩ := s.spendAdvice_tx w x
  rw [State.announceIcm, (State.sendAnnounce_within (.refl _ _) (covers_self _) w x).keeps (by decide +kernel),
    State.rd_wr_self, State.sendAnnounce_tx, State.wr_tx, State.onTx_tx, get_set, spent]
  exact ⟨rfl, rfl, rfl, rfl⟩

theorem announceRetry_answers (runs : s.wingRuns w = true) (withdrawn : s.rd .ELC_HS_STAT_STATE [w.n] = 3)
    (rested : 4 ≤ (s.tx.get w).sinceWithdrawal) (wanted : s.wanted w = some x) {P : State → Prop}
    (hP : P (if s.flag .ELC_HS_STAT_ICM_RC [w.n] ||
        decide (max 1 (s.rd .ELC_HS_CFG_RETRY_MAX [w.n]) ≤ s.rd .ELC_HS_STAT_RETRIES [w.n]) then s.begin.announceIcm w x
      else s.begin.announce w x)) : Answers (.announceRetry w) s P := by
  have retries : (s.wingRuns w && s.rd .ELC_HS_STAT_STATE [w.n] == 3 && decide (4 ≤ (s.tx.get w).sinceWithdrawal)) =
      true := by simp [runs, withdrawn, rested]
  have begun : s.begin.wanted w = some x := wanted
  refine ⟨_, ?_, hP⟩
  rw [exec_announceRetry, execAnnounceRetry]
  exact congrArg Host.Outcome.next ((if_pos retries).trans (by rw [begun]; rfl))

/-- R182 step 5, R188: a withdrawn change is announced again, or moves to the intercom. -/
theorem announceRetry_repeats (x : Wanted) (runs : s.wingRuns w = true)
    (withdrawn : s.rd .ELC_HS_STAT_STATE [w.n] = 3) (rested : 4 ≤ (s.tx.get w).sinceWithdrawal)
    (wanted : s.wanted w = some x) :
    Answers (.announceRetry w) s (fun t => if s.flag .ELC_HS_STAT_ICM_RC [w.n] ||
          decide (max 1 (s.rd .ELC_HS_CFG_RETRY_MAX [w.n]) ≤ s.rd .ELC_HS_STAT_RETRIES [w.n]) then
        t.rd .ELC_HS_STAT_STATE [w.n] = 4 ∧ (t.tx.get w).annSeq = ((s.tx.get w).annSeq + 1) % 16
      else t.rd .ELC_HS_STAT_STATE [w.n] = 1 ∧ t.flag .TXW_LINE_NEXT_ANN_VALID [w.n] = true ∧
        t.rd .TXW_LINE_NEXT_COUNTDOWN [w.n] = (s.leadOf w x).1 % 256) := by
  refine announceRetry_answers runs withdrawn rested wanted ?_
  split
  · obtain ⟨state, -, number, -⟩ := s.begin.announceIcm_shows w x
    exact ⟨state, number⟩
  · obtain ⟨state, valid, -, countdown, -⟩ := s.begin.announce_shows w x
    exact ⟨state, valid, countdown⟩

/-- R180: ADV_STALE is set when no advice arrives. -/
theorem advStale_sets (runs : s.wingRuns w = true) :
    Answers (.advStale w) s (fun t => t.flag .ELC_HS_STAT_ADV_STALE [w.n] = true) :=
  ⟨_, congrArg Host.Outcome.next (if_pos (c := s.begin.wingRuns w = true) runs),
    State.flag_wrb_self _ _ _ _ (by decide)⟩

end

/-! ### The obligation -/

/-- Settles O21: each clause by the rule of its command. That a switch of the map alone at the floor leaves STATE FLOOR
is the model's choice (assumption 24). -/
theorem announcementHandshake : Obligations.AnnouncementHandshake := by
  unfold Obligations.AnnouncementHandshake
  intro s w
  refine ⟨?starts, annCommitPoint_decides, rateSwitch_switches, announceRetry_repeats, advStale_sets⟩
  case starts =>
    exact fun x ready header wanted => announceStart_answers ready header wanted (s.begin.announce_shows w x)

end Sys2Proof.Machine
end

section
/-!
The intercom handshake and the host's rate commands (R69, R187, R188, R192), and O23.
-/

namespace Sys2Proof.Machine

-- The row tests below are large kernel evaluations: one theorem at a time bounds the memory of the whole text's check.
set_option Elab.async false

section

variable {s : State} {w : Wing} {x : Wanted} {req : Req}

/-! ### The ANNOUNCE message (R188 step 1, R203) -/

/-- R203: an ANNOUNCE that enters the queue is in it. -/
theorem any_icmPut_announce (q : List IcmMsg) (seq h fec slots : Nat) :
    (icmPut q (.announce seq h fec slots)).any (fun m => icmRank m == 2) = true := by
  have entered : icmPut q (.announce seq h fec slots) =
      q.filter (fun m => icmRank m != 2) ++ [.announce seq h fec slots] := rfl
  rw [entered, List.any_append, List.any_cons, icmRank]
  simp

theorem State.sendAnnounce_queues (s : State) (w : Wing) (x : Wanted) :
    ((s.sendAnnounce w x).icm.get w).queue.any (fun m => icmRank m == 2) = true := by
  have queued : ((s.sendAnnounce w x).icm.get w).queue = icmPut (s.icm.get w).queue
      (.announce (s.tx.get w).annSeq x.h x.fec (s.countsFor w x.h x.fec (s.tx.get w).annEnabled).1.sum) := by
    rw [State.sendAnnounce, State.icmQueue, State.showQueued, State.wr_icm, State.onIcm_icm, get_set]
  rw [queued, any_icmPut_announce]

theorem State.announceIcm_queues (s : State) (w : Wing) (x : Wanted) :
    ((s.announceIcm w x).icm.get w).queue.any (fun m => icmRank m == 2) = true := by
  rw [State.announceIcm, State.sendAnnounce_queues]

theorem icmAnnounceStart_answers (core : s.coreRuns = true) (ready : s.txReady w = true)
    (intercom : s.flag .ELC_HS_STAT_ICM_RC [w.n] = true) (wanted : s.wanted w = some x) {P : State → Prop}
    (hP : P (s.begin.announceIcm w x)) : Answers (.icmAnnounceStart w) s P := by
  have starts : (s.coreRuns && (s.txReady w || (s.wingRuns w && s.rd .ELC_HS_STAT_STATE [w.n] == 3)) &&
      s.flag .ELC_HS_STAT_ICM_RC [w.n]) = true := by simp [core, ready, intercom]
  have begun : s.begin.wanted w = some x := wanted
  refine ⟨_, ?_, hP⟩
  rw [exec_icmAnnounceStart, execIcmAnnounceStart]
  exact congrArg Host.Outcome.next ((if_pos starts).trans (by rw [begun]))

/-- R188 step 1: a ready transmitter on the intercom announces its change there. -/
theorem icmAnnounceStart_announces (x : Wanted) (core : s.coreRuns = true) (ready : s.txReady w = true)
    (intercom : s.flag .ELC_HS_STAT_ICM_RC [w.n] = true) (wanted : s.wanted w = some x) :
    Answers (.icmAnnounceStart w) s (fun t => t.rd .ELC_HS_STAT_STATE [w.n] = 4 ∧ (t.tx.get w).now = some x ∧
      (t.tx.get w).annSeq = ((s.tx.get w).annSeq + 1) % 16 ∧ (t.tx.get w).icmTries = 0 ∧
      (t.icm.get w).queue.any (fun m => icmRank m == 2) = true) := by
  obtain ⟨state, now, number, tries⟩ := s.begin.announceIcm_shows w x
  have queued := s.begin.announceIcm_queues w x
  exact icmAnnounceStart_answers core ready intercom wanted ⟨state, now, number, tries, queued⟩

/-- R188 step 2: an ANNOUNCE without its ACK is sent again, three times at most. -/
theorem icmAnnounceResend_resends (x : Wanted) (core : s.coreRuns = true) (now : (s.tx.get w).now = some x)
    (waits : s.rd .ELC_HS_STAT_STATE [w.n] = 4) (few : (s.tx.get w).icmTries < 3) (sent : s.announceSent w = true) :
    Answers (.icmAnnounceResend w) s (fun t => (t.tx.get w).icmTries = (s.tx.get w).icmTries + 1 ∧
      (t.icm.get w).queue.any (fun m => icmRank m == 2) = true) := by
  have resends : (s.coreRuns && s.rd .ELC_HS_STAT_STATE [w.n] == 4 && s.announceSent w &&
      decide ((s.tx.get w).icmTries < 3)) = true := by simp [core, waits, few, sent]
  refine ⟨(s.begin.sendAnnounce w x).onTx w (fun t => { t with icmTries := t.icmTries + 1 }), ?_, ?_, ?_⟩
  · rw [exec_icmAnnounceResend, execIcmAnnounceResend]
    simp only [State.begin_tx, now]
    exact congrArg Host.Outcome.next (if_pos resends)
  · rw [State.onTx_tx, get_set, State.sendAnnounce_tx, State.begin_tx]
  · rw [State.onTx_icm, State.sendAnnounce_queues]

/-! ### The handshake fails (R188 step 4) -/

/-- R187: the first cause of a fall-back that is wanted stands. -/
theorem State.pull_tx (s : State) (w : Wing) (cause : Nat) :
    (s.pull w cause).tx.get w =
      { s.tx.get w with trigger := if (s.tx.get w).trigger = 0 then cause else (s.tx.get w).trigger } := by
  unfold State.pull
  split
  · rw [State.onTx_tx, get_set]
  · rfl

theorem State.pull_store (s : State) (w : Wing) (cause : Nat) : (s.pull w cause).store = s.store := by
  unfold State.pull
  split <;> rfl

theorem State.pull_rd (s : State) (w : Wing) (cause : Nat) (r : Row) (ix : List Nat) :
    (s.pull w cause).rd r ix = s.rd r ix :=
  State.rd_of_store (s.pull_store w cause) r ix

/-- R188 step 4: a failed handshake leaves the change. -/
def State.dropIcm (s : State) (w : Wing) (x : Wanted) : State :=
  ((s.wr .ELC_HS_STAT_STATE [w.n] (if s.flag .ELC_HS_STAT_FLOOR_TX [w.n] then 5 else 0)).evt .ELC_EVT_RC_FAIL
    [w.n]).onTx w (fun t => { t with
    now := none, icmTries := 0, mapRetry := if x.mapOnly then some t.annEnabled else t.mapRetry })

theorem State.classOf_dropIcm (s : State) (w : Wing) (x y : Wanted) :
    (s.dropIcm w x).classOf_ w y = s.classOf_ w y := by
  have kept {r : Row} (state : Row.ELC_HS_STAT_STATE.id ≠ r.id)
      (bell : ∀ z ∈ Row.ELC_EVT_RC_FAIL :: bellRows, z.id ≠ r.id) : (s.dropIcm w x).rd r [w.n] = s.rd r [w.n] := by
    rw [State.dropIcm, State.onTx_rd, State.rd_evt_ne _ bell, State.rd_wr_ne _ state]
  simp only [State.classOf_, State.curPair, kept (r := .TXW_RATE_BAUD) (by decide) (by decide),
    kept (r := .TXW_LINE_CUR_H_IDX) (by decide) (by decide), kept (r := .TXW_LINE_CUR_FEC) (by decide) (by decide)]

/-- R188 step 4: only a failed lowering asks for a fall-back. -/
theorem State.failIcm_eq (s : State) (w : Wing) (x : Wanted) :
    s.failIcm w x = if s.classOf_ w x = .lowering then (s.dropIcm w x).pull w 7 else s.dropIcm w x := by
  rw [← s.classOf_dropIcm w x x]
  rfl

theorem State.dropIcm_shows (s : State) (w : Wing) (x : Wanted) :
    (s.dropIcm w x).rd .ELC_HS_STAT_STATE [w.n] = (if s.flag .ELC_HS_STAT_FLOOR_TX [w.n] then 5 else 0) ∧
      (s.dropIcm w x).flag .ELC_EVT_RC_FAIL [w.n] = true ∧ ((s.dropIcm w x).tx.get w).now = none ∧
      ((s.dropIcm w x).tx.get w).trigger = (s.tx.get w).trigger := by
  have line : (s.dropIcm w x).tx.get w = { s.tx.get w with
      now := none, icmTries := 0
      mapRetry := if x.mapOnly then some (s.tx.get w).annEnabled else (s.tx.get w).mapRetry } := by
    rw [State.dropIcm, State.onTx_tx, get_set, State.evt_tx, State.wr_tx]
  refine ⟨?_, State.flag_evt_self _ _ _ rfl (by decide), by rw [line], by rw [line]⟩
  rw [State.dropIcm, State.onTx_rd, State.rd_evt_ne _ (by decide), State.rd_wr_self]
  split <;> rfl

theorem State.failIcm_shows (s : State) (w : Wing) (x : Wanted) :
    (s.failIcm w x).rd .ELC_HS_STAT_STATE [w.n] = (if s.flag .ELC_HS_STAT_FLOOR_TX [w.n] then 5 else 0) ∧
      (s.failIcm w x).flag .ELC_EVT_RC_FAIL [w.n] = true ∧ ((s.failIcm w x).tx.get w).now = none ∧
      ((s.tx.get w).trigger = 0 →
        ((s.failIcm w x).tx.get w).trigger = if s.classOf_ w x = .lowering then 7 else 0) := by
  obtain ⟨state, rings, now, trigger⟩ := s.dropIcm_shows w x
  rw [State.failIcm_eq]
  split
  · refine ⟨(State.pull_rd ..).trans state, ?_, ?_, fun free => ?_⟩
    · rw [State.flag, State.pull_rd, ← State.flag, rings]
    · rw [State.pull_tx]
      exact now
    · rw [State.pull_tx]
      exact if_pos (trigger.trans free)
  · exact ⟨state, rings, now, fun free => trigger.trans free⟩

theorem icmHandshakeFail_fails (x : Wanted) (now : (s.tx.get w).now = some x)
    (waits : s.rd .ELC_HS_STAT_STATE [w.n] = 4) (tried : 3 ≤ (s.tx.get w).icmTries) (sent : s.announceSent w = true) :
    Answers (.icmHandshakeFail w) s (fun t =>
      t.rd .ELC_HS_STAT_STATE [w.n] = (if s.flag .ELC_HS_STAT_FLOOR_TX [w.n] then 5 else 0) ∧
      t.flag .ELC_EVT_RC_FAIL [w.n] = true ∧ (t.tx.get w).now = none ∧
      ((s.tx.get w).trigger = 0 → (t.tx.get w).trigger = if s.classOf_ w x = .lowering then 7 else 0)) := by
  have fails : (s.rd .ELC_HS_STAT_STATE [w.n] = 4 && s.announceSent w && decide (3 ≤ (s.tx.get w).icmTries)) =
      true := by simp [waits, sent, tried]
  refine ⟨s.begin.failIcm w x, ?_, s.begin.failIcm_shows w x⟩
  rw [exec_icmHandshakeFail, execIcmHandshakeFail]
  simp only [State.begin_tx, now]
  exact congrArg Host.Outcome.next (if_pos fails)

/-- R188: the retry of a failed ENABLE change is released. -/
theorem enableChangeRetry_releases (s : State) (w : Wing) :
    Answers (.enableChangeRetry w) s (fun t => (t.tx.get w).mapRetry = none) :=
  ⟨_, rfl, congrArg TxRate.mapRetry (get_set ..)⟩

/-! ### The host's commands (R69, R192) -/

/-- R19, R379: a command whose requester reaches the registers acts. -/
theorem answers_via {i : Instr} {f : State → State} (runs : exec i s = .next (s.begin.via req f))
    (taken : s.takesFrom req = true) {P : State → Prop} (hP : P (f s.begin)) : Answers i s P :=
  ⟨_, runs.trans (congrArg Host.Outcome.next (State.via_of_takesFrom (s := s.begin) taken f)), hP⟩

/-- R192: GO in MANUAL asks for the pair of ELC.CTL, clipped. -/
theorem go_asks (req : Req) (taken : s.takesFrom req = true) (manual : s.rd .ELC_CTL_MODE [w.n] = 1) :
    Answers (.go req w) s (fun t => (t.tx.get w).want =
      some (s.asChange w ⟨(s.clipPair w (s.rd .ELC_CTL_H_IDX [w.n]) (s.rd .ELC_CTL_FEC [w.n])).1,
        (s.clipPair w (s.rd .ELC_CTL_H_IDX [w.n]) (s.rd .ELC_CTL_FEC [w.n])).2, false⟩)) := by
  refine answers_via (exec_go ..) taken ?_
  have asks : s.begin.go w = _ := if_pos manual
  rw [asks, State.onTx_tx, get_set]
  rfl

/-- R40, R192: the mode field takes 0b11 as FROZEN. -/
theorem elcModeSet_stores (req : Req) (mode : Fin 4) (taken : s.takesFrom req = true) :
    Answers (.elcModeSet req w mode) s (fun t => t.rd .ELC_CTL_MODE [w.n] = min 2 (mode : Nat)) := by
  refine answers_via (exec_elcModeSet ..) taken ?_
  rw [State.rd_wr_self]
  exact Nat.mod_eq_of_lt (show min 2 (mode : Nat) < 4 by omega)

/-- R69: an ENABLE write of an existing channel is stored. -/
theorem chanEnableWrite_stores (req : Req) (n : Fin 32) (on : Bool) (taken : s.takesFrom req = true)
    (exist : (n : Nat) < s.chanCount w) :
    Answers (.chanEnableWrite req w n on) s (fun t => t.flag .ELC_CHAN_CFG_ENABLE [w.n, n] = on) := by
  refine answers_via (exec_chanEnableWrite ..) taken ?_
  have own : decide ((n : Nat) < s.begin.chanCount w) = true := decide_eq_true exist
  rw [own, State.when_true, State.flag_wrb_self _ _ _ _ (by decide)]

end

/-! ### The obligation -/

/-- Settles O23: each clause by the rule of its command. -/
theorem intercomRateControl : Obligations.IntercomRateControl := by
  unfold Obligations.IntercomRateControl
  intro s w
  exact ⟨icmAnnounceStart_announces, icmAnnounceResend_resends, icmHandshakeFail_fails, enableChangeRetry_releases s w,
    go_asks, elcModeSet_stores, chanEnableWrite_stores⟩

end Sys2Proof.Machine
end

section
/-!
Fall-back to the floor, mismatch and what follows (R186, R187, R189, R193, R450), and O22.
-/

namespace Sys2Proof.Machine

-- The row tests below are large kernel evaluations: one theorem at a time bounds the memory of the whole text's check.
set_option Elab.async false

section

variable {s : State} {w : Wing} {req : Req}

/-! ### What a fall-back leaves of the handshake (R69, R187) -/

/-- R69, R187: an abandoned announcement or handshake is transmitted no more, and the record of fall-backs stays. -/
theorem State.abandon_shows (s : State) (w : Wing) :
    (s.abandon w).flag .TXW_LINE_NEXT_ANN_VALID [w.n] = false ∧ ((s.abandon w).tx.get w).now = none ∧
      ((s.abandon w).tx.get w).falls = (s.tx.get w).falls := by
  have line : (s.abandon w).tx.get w = { (s.endAnn w).tx.get w with
      now := none, want := none, annMap := [], annCounts := [], icmTries := 0, trigger := 0 } := by
    rw [State.abandon, State.onTx_tx, get_set, State.wr_tx, State.showCounts_tx]
  obtain ⟨ended, transmits⟩ := s.endAnn_shows w
  rw [line, transmits]
  refine ⟨?_, rfl, rfl⟩
  rw [State.abandon, State.onTx_flag, State.flag, State.rd_wr_ne _ (by decide),
    State.rd_showCounts _ _ _ _ (by decide +kernel), ← State.flag, ended]

/-- R187 step 1: the floor pair is in force, and the record of fall-backs stays. -/
theorem State.toFloor_shows (s : State) (w : Wing) :
    (s.toFloor w).rd .TXW_LINE_CUR_H_IDX [w.n] = s.rd .ELC_FLOOR_H_IDX [w.n] % 128 ∧
      ((s.toFloor w).tx.get w).falls = (s.tx.get w).falls := by
  obtain ⟨index, -, line⟩ := s.switchTx_shows w (s.floorPair w).1 (s.floorPair w).2 (s.tx.get w).enabled
    (s.mapFor w (s.floorPair w).1 (s.floorPair w).2
      (s.countsFor w (s.floorPair w).1 (s.floorPair w).2 (s.tx.get w).enabled).1)
    (s.countsFor w (s.floorPair w).1 (s.floorPair w).2 (s.tx.get w).enabled).1
  refine ⟨?_, ?_⟩
  · rw [State.toFloor, State.rd_when_evt _ _ _ _ (by decide), index]
    rfl
  · rw [State.toFloor, State.when_tx (fun t => t.evt_tx ..), line]

/-- R187 step 1: at the floor with its cause. -/
def State.atFloor (s : State) (w : Wing) (cause : Nat) : State :=
  ((((s.abandon w).toFloor w).wr .ELC_RX_HS_CAUSE [w.n] cause).wrb .ELC_HS_STAT_FLOOR_TX [w.n] true).wr
    .ELC_HS_STAT_STATE [w.n] 5

/-- What `State.atFloor` may write. -/
def State.atFloor_touch : Nat :=
  union [State.abandon_touch, State.toFloor_touch, Row.ELC_RX_HS_CAUSE.bit, Row.ELC_HS_STAT_FLOOR_TX.bit,
    Row.ELC_HS_STAT_STATE.bit]

theorem State.atFloor_within (s : State) (w : Wing) (cause : Nat) :
    Within State.atFloor_touch s (s.atFloor w cause) := by
  have k := covers_self State.atFloor_touch
  rw [State.atFloor_touch] at k
  simp only [covers_union] at k
  obtain ⟨abandon, floor, reason, flag, state, -⟩ := k
  have fell := State.toFloor_within (State.abandon_within (.refl _ s) abandon w) floor w
  exact State.wr_within (State.wrb_within (State.wr_within fell _ (.inl reason) ..) _ (.inl flag) ..) _ (.inl state) ..

theorem State.atFloor_shows (s : State) (w : Wing) (cause : Nat) :
    (s.atFloor w cause).flag .ELC_HS_STAT_FLOOR_TX [w.n] = true ∧
      (s.atFloor w cause).rd .ELC_RX_HS_CAUSE [w.n] = cause % 16 ∧
      (s.atFloor w cause).rd .TXW_LINE_CUR_H_IDX [w.n] = s.rd .ELC_FLOOR_H_IDX [w.n] % 128 ∧
      (s.atFloor w cause).flag .TXW_LINE_NEXT_ANN_VALID [w.n] = false ∧
      (s.atFloor w cause).rd .ELC_HS_STAT_STATE [w.n] = 5 ∧
      ((s.atFloor w cause).tx.get w).falls = (s.tx.get w).falls := by
  obtain ⟨ended, -, held⟩ := s.abandon_shows w
  obtain ⟨index, falls⟩ := (s.abandon w).toFloor_shows w
  have floor : (s.abandon w).rd .ELC_FLOOR_H_IDX [w.n] = s.rd .ELC_FLOOR_H_IDX [w.n] :=
    (State.abandon_within (.refl _ s) (covers_self _) w).keeps (by decide +kernel) _
  have moved := State.toFloor_within (.refl _ (s.abandon w)) (covers_self _) w
  refine ⟨?_, ?_, ?_, ?_, ?_, ?_⟩
  · rw [State.atFloor, State.flag, State.rd_wr_ne _ (by decide), ← State.flag, State.flag_wrb_self _ _ _ _ (by decide)]
  · rw [State.atFloor, State.rd_wr_ne _ (by decide), State.rd_wrb_ne _ (by decide), State.rd_wr_self]
    rfl
  · rw [State.atFloor, State.rd_wr_ne _ (by decide), State.rd_wrb_ne _ (by decide), State.rd_wr_ne _ (by decide), index,
      floor]
  · rw [State.atFloor, State.flag, State.rd_wr_ne _ (by decide), State.rd_wrb_ne _ (by decide),
      State.rd_wr_ne _ (by decide), moved.keeps (by decide +kernel), ← State.flag, ended]
  · rw [State.atFloor, State.rd_wr_self]
    rfl
  · rw [State.atFloor, State.wr_tx, State.wrb_tx, State.wr_tx, falls, held]

/-! ### The fall-back is counted and told (R187, R189) -/

/-- R187: the receiver follows, and the fall-back is counted and rings. -/
def State.fallen (s : State) (w : Wing) (cause : Nat) : State :=
  ((((s.atFloor w cause).onRxHs w RxLine.follow).countWrap .ELC_CNT2_FALLBACKS [w.n]).evt .ELC_EVT_FALLBACK
    [w.n]).onTx w (fun t => { t with resumed := false })

/-- R179, R188, R202: what a fall-back changes of what the wing tells the far end. -/
def State.tellFall (s : State) (w : Wing) : State := ((s.setIcmRc w).icmRefresh w).sendHeader w

theorem State.fallBack_eq (s : State) (w : Wing) (cause : Nat) :
    s.fallBack w cause = ((s.fallen w cause).storm w).tellFall w := rfl

/-- What `State.tellFall` may write. -/
def State.tellFall_touch : Nat := union [State.setIcmRc_touch, State.icmRefresh_touch, State.sendHeader_touch]

theorem State.tellFall_within (s : State) (w : Wing) : Within State.tellFall_touch s (s.tellFall w) := by
  have k := covers_self State.tellFall_touch
  rw [State.tellFall_touch] at k
  simp only [covers_union] at k
  obtain ⟨request, refresh, header, -⟩ := k
  have refreshed := State.icmRefresh_within (State.setIcmRc_within (.refl _ s) request w) refresh w
  exact State.sendHeader_within refreshed header w

theorem State.rd_fallen (s : State) (w : Wing) (cause : Nat) {r : Row} (follow : spares State.onRxHs_touch r = true)
    (count : Row.ELC_CNT2_FALLBACKS.id ≠ r.id) (bell : ∀ y ∈ Row.ELC_EVT_FALLBACK :: bellRows, y.id ≠ r.id)
    (ix : List Nat) : (s.fallen w cause).rd r ix = (s.atFloor w cause).rd r ix := by
  rw [State.fallen, State.onTx_rd, State.rd_evt_ne _ bell, State.rd_countWrap_ne _ count,
    (State.onRxHs_within (.refl _ _) (covers_self _) w _).keeps follow]

/-- R345: a fall-back leaves module time alone. -/
theorem State.mt_fallen (s : State) (w : Wing) (cause : Nat) : (s.fallen w cause).mt = s.mt := by
  have kept {r : Row} (follow : spares State.onRxHs_touch r = true) (count : Row.ELC_CNT2_FALLBACKS.id ≠ r.id)
      (bell : ∀ y ∈ Row.ELC_EVT_FALLBACK :: bellRows, y.id ≠ r.id) (floor : spares State.atFloor_touch r = true)
      (ix : List Nat) : (s.fallen w cause).rd r ix = s.rd r ix :=
    (s.rd_fallen w cause follow count bell ix).trans ((s.atFloor_within w cause).keeps floor ix)
  simp only [State.mt, State.rdWide,
    kept (r := .REF_MT_LO_MT) (by decide +kernel) (by decide) (by decide) (by decide +kernel),
    kept (r := .REF_MT_HI_MT) (by decide +kernel) (by decide) (by decide) (by decide +kernel)]

/-- R189: the fall-backs of the latest 60 s before the present one. -/
def State.recentFalls (s : State) (w : Wing) : List Nat :=
  (s.tx.get w).falls.filter (fun x => decide (s.mt ≤ x + 60000000000))

/-- R189: the third fall-back within 60 s holds the wing at the floor. -/
theorem State.storm_state (s : State) (w : Wing) :
    (s.storm w).rd .ELC_HS_STAT_STATE [w.n] =
      if 2 ≤ (s.recentFalls w).length then 6 else s.rd .ELC_HS_STAT_STATE [w.n] := by
  have third : 3 ≤ (s.mt :: s.recentFalls w).length ↔ 2 ≤ (s.recentFalls w).length := by
    rw [List.length_cons]
    omega
  rw [← ite_congr (propext third) (fun _ => rfl) (fun _ => rfl)]
  unfold State.storm
  dsimp only
  rw [apply_ite (fun t : State => t.rd .ELC_HS_STAT_STATE [w.n]), State.rd_evt_ne _ (by decide), State.rd_wr_self]
  rfl

/-- R187 step 1, R189: what a fall-back of a wing that sends FLOOR = 0 shows. -/
theorem State.fallBack_shows (s : State) (w : Wing) (cause : Nat) :
    (s.fallBack w cause).flag .ELC_HS_STAT_FLOOR_TX [w.n] = true ∧
      (s.fallBack w cause).rd .ELC_RX_HS_CAUSE [w.n] = cause % 16 ∧
      ((s.fallBack w cause).rx.get w).rstate = 5 ∧ ((s.fallBack w cause).rx.get w).following = true ∧
      (s.fallBack w cause).flag .ELC_EVT_FALLBACK [w.n] = true ∧
      (s.fallBack w cause).rd .ELC_CNT2_FALLBACKS [w.n] = (s.rd .ELC_CNT2_FALLBACKS [w.n] + 1) % 65536 ∧
      (s.fallBack w cause).rd .TXW_LINE_CUR_H_IDX [w.n] = s.rd .ELC_FLOOR_H_IDX [w.n] % 128 ∧
      (s.fallBack w cause).flag .TXW_LINE_NEXT_ANN_VALID [w.n] = false ∧
      (s.fallBack w cause).rd .ELC_HS_STAT_STATE [w.n] = if 2 ≤ (s.recentFalls w).length then 6 else 5 := by
  have told (t : State) := t.tellFall_within w
  have stormed := State.storm_within (.refl _ (s.fallen w cause)) (covers_self _) w
  have later {r : Row} (tell : spares State.tellFall_touch r = true) (storm : spares State.storm_touch r = true) :
      (s.fallBack w cause).rd r [w.n] = (s.fallen w cause).rd r [w.n] := by
    rw [State.fallBack_eq, (told _).keeps tell, stormed.keeps storm]
  obtain ⟨flag, reason, index, ended, state, held⟩ := s.atFloor_shows w cause
  have recent : (s.fallen w cause).recentFalls w = s.recentFalls w := by
    have falls : ((s.fallen w cause).tx.get w).falls = (s.tx.get w).falls := by
      rw [State.fallen, State.onTx_tx, get_set, State.evt_tx, State.countWrap_tx, State.onRxHs_tx]
      exact held
    rw [State.recentFalls, falls, State.mt_fallen, State.recentFalls]
  have line : (s.fallBack w cause).rx.get w = RxLine.follow ((s.atFloor w cause).rx.get w) := by
    have tell : (s.fallBack w cause).rx = ((s.fallen w cause).storm w).rx := (told _).part .rx (by decide +kernel)
    have storm : ((s.fallen w cause).storm w).rx = (s.fallen w cause).rx := stormed.part .rx (by decide +kernel)
    rw [tell, storm, State.fallen, State.onTx_rx, State.evt_rx, State.countWrap_rx, State.onRxHs_rx, State.onRx_rx,
      get_set]
  refine ⟨?_, ?_, by rw [line]; rfl, by rw [line]; rfl, ?_, ?_, ?_, ?_, ?_⟩
  · rw [State.flag, later (by decide +kernel) (by decide +kernel),
      State.rd_fallen _ _ _ (by decide +kernel) (by decide) (by decide), ← State.flag, flag]
  · rw [later (by decide +kernel) (by decide +kernel),
      State.rd_fallen _ _ _ (by decide +kernel) (by decide) (by decide), reason]
  · rw [State.flag, later (by decide +kernel) (by decide +kernel), ← State.flag, State.fallen, State.onTx_flag,
      State.flag_evt_self _ _ _ rfl (by decide)]
  · rw [later (by decide +kernel) (by decide +kernel), State.fallen, State.onTx_rd, State.rd_evt_ne _ (by decide),
      State.rd_countWrap_self, (State.onRxHs_within (.refl _ _) (covers_self _) w _).keeps (by decide +kernel),
      (s.atFloor_within w cause).keeps (by decide +kernel)]
    rfl
  · rw [later (by decide +kernel) (by decide +kernel),
      State.rd_fallen _ _ _ (by decide +kernel) (by decide) (by decide), index]
  · rw [State.flag, later (by decide +kernel) (by decide +kernel),
      State.rd_fallen _ _ _ (by decide +kernel) (by decide) (by decide), ← State.flag, ended]
  · rw [State.fallBack_eq, (told _).keeps (by decide +kernel), State.storm_state, recent,
      State.rd_fallen _ _ _ (by decide +kernel) (by decide) (by decide), state]

theorem fallback_answers (runs : s.wingRuns w = true) (due : (s.tx.get w).trigger ≠ 0)
    (free : s.rd .ELC_HS_STAT_STATE [w.n] ≠ 6) (above : s.flag .ELC_HS_STAT_FLOOR_TX [w.n] = false) {P : State → Prop}
    (hP : P (s.begin.fallBack w (s.tx.get w).trigger)) : Answers (.fallback w) s P := by
  have acts : ¬((s.tx.get w).trigger = 0 || !s.wingRuns w) = true := by simp [due, runs]
  have raised : ¬s.flag .ELC_HS_STAT_FLOOR_TX [w.n] = true := Bool.eq_false_iff.mp above
  exact ⟨_, congrArg Host.Outcome.next ((if_neg acts).trans ((if_neg free).trans (if_neg raised))), hP⟩

/-! ### A trigger at the floor (R450) -/

/-- R450: a trigger of a wing that sends FLOOR = 1 already records its cause and abandons the change. -/
theorem State.triggerAtFloor_shows (s : State) (w : Wing) (cause : Nat) :
    (s.triggerAtFloor w cause).rd .ELC_RX_HS_CAUSE [w.n] = cause % 16 ∧
      (s.triggerAtFloor w cause).rd .ELC_HS_STAT_STATE [w.n] = 5 ∧
      ((s.triggerAtFloor w cause).tx.get w).now = none ∧
      (s.triggerAtFloor w cause).rd .ELC_CNT2_FALLBACKS [w.n] = s.rd .ELC_CNT2_FALLBACKS [w.n] ∧
      ((s.triggerAtFloor w cause).tx.get w).falls = (s.tx.get w).falls := by
  obtain ⟨-, now, falls⟩ := s.abandon_shows w
  refine ⟨?_, ?_, ?_, (State.triggerAtFloor_within (.refl _ s) (covers_self _) w cause).keeps (by decide +kernel) _, ?_⟩
  · rw [State.triggerAtFloor, State.sendHeader_rd, State.rd_wr_ne _ (by decide), State.rd_wr_self]
    rfl
  · rw [State.triggerAtFloor, State.sendHeader_rd, State.rd_wr_self]
    rfl
  · rw [State.triggerAtFloor, State.sendHeader_tx]
    exact now
  · rw [State.triggerAtFloor, State.sendHeader_tx]
    exact falls

/-- R450: FALLBACK of a running wing that sends FLOOR = 1 already. -/
theorem fallback_again (runs : s.wingRuns w = true) (due : (s.tx.get w).trigger ≠ 0)
    (free : s.rd .ELC_HS_STAT_STATE [w.n] ≠ 6) (floor : s.flag .ELC_HS_STAT_FLOOR_TX [w.n] = true) :
    Answers (.fallback w) s (fun t => t.rd .ELC_RX_HS_CAUSE [w.n] = (s.tx.get w).trigger % 16 ∧
      t.rd .ELC_HS_STAT_STATE [w.n] = 5 ∧
      (t.tx.get w).now = none ∧ t.rd .ELC_CNT2_FALLBACKS [w.n] = s.rd .ELC_CNT2_FALLBACKS [w.n] ∧
      (t.tx.get w).falls = (s.tx.get w).falls) := by
  have acts : ¬((s.tx.get w).trigger = 0 || !s.wingRuns w) = true := by simp [due, runs]
  exact ⟨_, congrArg Host.Outcome.next ((if_neg acts).trans ((if_neg free).trans (if_pos floor))),
    s.begin.triggerAtFloor_shows w (s.tx.get w).trigger⟩

/-! ### A declared mismatch (R186) -/

/-- R186: what the declaration of a mismatch shows of the received map. -/
def State.showMismatch (s : State) (w : Wing) (cause : Nat) : State :=
  ((s.wrb .RXW_HDR_STAT_MAP_VALID [w.n] false).wr .ELC_RX_HS_CAUSE [w.n] cause).countWrap .ELC_CNT3_MISMATCH [w.n]

theorem State.showMismatch_shows (s : State) (w : Wing) (cause : Nat) :
    (s.showMismatch w cause).rd .RXW_HDR_STAT_MAP_VALID [w.n] = 0 ∧
      (s.showMismatch w cause).rd .ELC_RX_HS_CAUSE [w.n] = cause % 16 ∧
      (s.showMismatch w cause).rd .ELC_CNT3_MISMATCH [w.n] = (s.rd .ELC_CNT3_MISMATCH [w.n] + 1) % 65536 := by
  refine ⟨?_, ?_, ?_⟩
  · rw [State.showMismatch, State.rd_countWrap_ne _ (by decide), State.rd_wr_ne _ (by decide), State.wrb,
      State.rd_wr_self]
    rfl
  · rw [State.showMismatch, State.rd_countWrap_ne _ (by decide), State.rd_wr_self]
    rfl
  · rw [State.showMismatch, State.rd_countWrap_self, State.rd_wr_ne _ (by decide), State.rd_wrb_ne _ (by decide)]
    rfl

/-- R186, R187: the received map and announcement are dropped, and the receiver follows the far end's floor. -/
def State.followMismatch (s : State) (w : Wing) : State :=
  (s.setActiveMap w []).onRxHs w (fun r => { r.follow with
    complete := false, mismatch := 0, cur := none, ann := none, record := none, expect := none, switchDue := false
    differ := 0 })

theorem mismatchDeclare_answers (seen : (s.rx.get w).mismatch ≠ 0) {P : State → Prop}
    (hP : P ((((s.begin.showMismatch w (s.rx.get w).mismatch).followMismatch w).onTx w
      (fun t => { t with ackWant := none })).pull w (s.rx.get w).mismatch)) : Answers (.mismatchDeclare w) s P :=
  ⟨_, congrArg Host.Outcome.next (if_neg seen), hP⟩

theorem State.followMismatch_line (s : State) (w : Wing) :
    ((s.followMismatch w).rx.get w).rstate = 5 ∧ ((s.followMismatch w).rx.get w).following = true := by
  rw [State.followMismatch, State.onRxHs_rx, State.onRx_rx, get_set]
  exact ⟨rfl, rfl⟩

/-- R186: a declared mismatch clears MAP_VALID, counts, and enters FLOOR_FOLLOW with its cause. -/
theorem mismatchDeclare_follows (seen : (s.rx.get w).mismatch ≠ 0) :
    Answers (.mismatchDeclare w) s (fun t => t.flag .RXW_HDR_STAT_MAP_VALID [w.n] = false ∧
      (t.rx.get w).rstate = 5 ∧ (t.rx.get w).following = true ∧
      t.rd .ELC_RX_HS_CAUSE [w.n] = (s.rx.get w).mismatch % 16 ∧
      t.rd .ELC_CNT3_MISMATCH [w.n] = (s.rd .ELC_CNT3_MISMATCH [w.n] + 1) % 65536) := by
  refine mismatchDeclare_answers seen ?_
  generalize (s.rx.get w).mismatch = cause
  let u := s.begin.showMismatch w cause
  have later {r : Row} (follow : spares State.onRxHs_touch r = true) (map : spares State.setActiveMap_touch r = true) :
      (((u.followMismatch w).onTx w (fun t => { t with ackWant := none })).pull w cause).rd r [w.n] = u.rd r [w.n] := by
    rw [State.pull_rd, State.onTx_rd, State.followMismatch,
      (State.onRxHs_within (.refl _ _) (covers_self _) w _).keeps follow,
      (State.setActiveMap_within (.refl _ _) (covers_self _) w _).keeps map]
  have pulled (t : State) : (t.pull w cause).rx = t.rx :=
    (State.pull_within (.refl _ t) (covers_self _) w cause).part .rx (by decide +kernel)
  obtain ⟨rstate, following⟩ := u.followMismatch_line w
  obtain ⟨valid, reason, counted⟩ := s.begin.showMismatch_shows w cause
  refine ⟨?_, by rw [pulled]; exact rstate, by rw [pulled]; exact following, ?_, ?_⟩
  · rw [State.flag, later (by decide +kernel) (by decide +kernel), valid]
    rfl
  · rw [later (by decide +kernel) (by decide +kernel), reason]
  · rw [later (by decide +kernel) (by decide +kernel), counted]
    rfl

/-! ### Leaving the floor (R187 step 4, R189) -/

/-- R187 step 4: the policy resumes once both ends have met at the floor. -/
theorem policyResume_resumes (core : s.coreRuns = true) (runs : s.wingRuns w = true) (met : s.floorMet w = true) :
    Answers (.policyResume w) s (fun t => (t.tx.get w).resumed = true) := by
  have resumes : (s.wingRuns w && s.coreRuns && s.floorMet w) = true := by rw [runs, core, met]; rfl
  exact ⟨_, congrArg Host.Outcome.next (if_pos resumes), congrArg TxRate.resumed (get_set ..)⟩

/-- R189: a wing that leaves HELD forgets its fall-backs. -/
theorem State.leaveHeld_shows (held : s.rd .ELC_HS_STAT_STATE [w.n] = 6) :
    (s.leaveHeld w).rd .ELC_HS_STAT_STATE [w.n] = 5 ∧ ((s.leaveHeld w).tx.get w).falls = [] := by
  rw [State.leaveHeld, if_pos held, State.icmRefresh_tx, State.onTx_tx, get_set,
    (State.icmRefresh_within (.refl _ _) (covers_self _) w).keeps (by decide +kernel), State.onTx_rd, State.rd_wr_self]
  exact ⟨rfl, rfl⟩

/-- R38, R189: RESUME of a stopped wing that is HELD acts at once. -/
theorem resume_leaves (req : Req) (taken : s.takesFrom req = true) (held : s.rd .ELC_HS_STAT_STATE [w.n] = 6)
    (stopped : s.wingStopped w = true) :
    Answers (.resume req w) s (fun t => t.rd .ELC_HS_STAT_STATE [w.n] = 5 ∧ (t.tx.get w).falls = []) := by
  have acts : s.begin.resumeHeld w = s.begin.leaveHeld w := if_pos stopped
  exact answers_via (exec_resume ..) taken (by rw [acts]; exact State.leaveHeld_shows (s := s.begin) held)

/-- R40, R192: RESUME of a wing that is not stopped waits for the transmitted boundary. -/
theorem resume_waits (req : Req) (taken : s.takesFrom req = true) (runs : s.wingStopped w = false) :
    Answers (.resume req w) s (fun t => (t.tx.get w).resume = true ∧
      t.rd .ELC_HS_STAT_STATE [w.n] = s.rd .ELC_HS_STAT_STATE [w.n]) := by
  have waits : s.begin.resumeHeld w = s.begin.onTx w (fun t => { t with resume := true }) :=
    if_neg (Bool.not_eq_true _ ▸ runs)
  exact answers_via (exec_resume ..) taken (by rw [waits]; exact ⟨congrArg TxRate.resume (get_set ..), rfl⟩)

/-! ### FORCE_FLOOR (R187, R193) -/

/-- R187: FORCE_FLOOR asks for a fall-back with cause 8. -/
theorem forceFloor_asks (req : Req) (taken : s.takesFrom req = true) (free : s.rd .ELC_HS_STAT_STATE [w.n] ≠ 6)
    (none : (s.tx.get w).trigger = 0) : Answers (.forceFloor req w) s (fun t => (t.tx.get w).trigger = 8) := by
  have asks : s.begin.forceFloor w = s.begin.pull w 8 := if_neg free
  exact answers_via (exec_forceFloor ..) taken (by rw [asks, State.pull_tx]; exact if_pos none)

/-- R193: while HELD, FORCE_FLOOR is ignored. -/
theorem forceFloor_ignored (req : Req) (taken : s.takesFrom req = true) (held : s.rd .ELC_HS_STAT_STATE [w.n] = 6) :
    Answers (.forceFloor req w) s (fun t => t.rd .ELC_HS_STAT_STATE [w.n] = 6 ∧ t.tx = s.tx) := by
  have ignored : s.begin.forceFloor w = s.begin := if_pos held
  exact answers_via (exec_forceFloor ..) taken (by rw [ignored]; exact ⟨held, rfl⟩)

end

/-! ### The obligation -/

/-- Settles O22: each clause by the rule of its command. That RESUME clears the record of fall-backs is the model's
choice (assumption 24); that it waits for the transmitted boundary of a wing that is not stopped is R40 and R192. -/
theorem fallBackAndFloor : Obligations.FallBackAndFloor := by
  unfold Obligations.FallBackAndFloor
  intro s w
  refine ⟨?falls, fallback_again, mismatchDeclare_follows, policyResume_resumes, resume_leaves, resume_waits,
    forceFloor_asks, forceFloor_ignored⟩
  case falls =>
    intro runs due free above
    exact fallback_answers runs due free above (s.begin.fallBack_shows w (s.tx.get w).trigger)

end Sys2Proof.Machine
end

section
/-!
SEND while a USER message is being sent (R203, R211), a preamble on UNSETTLED outputs (R209), and the refutations of O24
and O25.
-/

namespace Sys2Proof.Machine

/-- A floor plan whose only wing is A, enabled and without channels. -/
def wingAOnly : Image where
  magic := 0x444B4650
  format := 1
  part := 0x6432
  variantMask := 7
  minStepping := 0
  svn := 0
  rsvZero := true
  build := 0
  entries := []
  imageLen := 0
  supplied := 0
  rootHash := 0
  sigOk := true
  headHash := 0
  modul := ⟨[], false, true, true, true, 0, [(0, 0x3C)], false⟩
  wingA := some ⟨true, 1360, 0, [], [], 1360, 32, 1, ⟨0, [], [], [], [], [], [], [], [], []⟩⟩
  wingB := none
  ports := []
  board := none
  hall := ⟨[], []⟩
  pantry := ⟨[], 0, 0, 0, 0, 0, 0, 0⟩
  defaults := []

/-- The module runs with wing A. -/
def State.runsWingA : State :=
  { State.reset with
    image := { ImageState.reset with running := some wingAOnly }
    boot := { Boot.reset with step := 0, wing := ⟨8, 0⟩ } }.wr .GLB_BOOT_STAT_STAGE [] 5

/-! ### SEND during a USER burst (R203, R211) -/

/-- R211: SEND is refused and queues nothing while the wing has 4 USER messages, the one that a burst carries among
them. -/
theorem State.sendUser_refuses {s : State} {w : Wing} (full : 4 ≤ (s.icm.get w).users) :
    (s.sendUser w).icm = s.icm := by
  rw [State.sendUser, if_pos full]
  exact s.evt_same .ICM_EVT_USER_REFUSED [w.n] 0 (p := .icm) (by decide)

/-- Wing A sends a USER message on its lit carrier, and three more are queued. -/
def State.sendsOneQueuesThree : State :=
  ((State.runsWingA.wr .OPT_TX_STAT_STATE [0] 3).wrb .ICM_TX_CFG_EN [0] true).onIcm .a
    (fun i => { i with queue := [.user [2], .user [3], .user [4]], burst := some (.user [1]) })

theorem State.sendsOneQueuesThree_takes : State.sendsOneQueuesThree.takesFrom .pf0 = true := by decide +kernel

/-- Refutes O24: while a burst carries a USER message and three more are queued, a fourth USER message stands in the
queue's account (R203, R211), so SEND is refused and the queue stays, where the statement counts the queue's list
alone and has the message join it. -/
theorem not_intercomSending : ¬ Obligations.IntercomSending := by
  unfold Obligations.IntercomSending
  intro h
  obtain ⟨-, -, -, -, -, -, send⟩ := h State.sendsOneQueuesThree .a
  obtain ⟨t, answered, joins⟩ := send .pf0 State.sendsOneQueuesThree_takes
  have refused : t.icm = State.sendsOneQueuesThree.icm := by
    rw [exec_userSend, execUserSend,
      State.via_of_takesFrom (s := State.sendsOneQueuesThree.begin) State.sendsOneQueuesThree_takes] at answered
    cases answered
    exact State.sendUser_refuses (s := State.sendsOneQueuesThree.begin) (w := .a) (by decide)
  rw [if_neg (by decide), refused] at joins
  exact List.cons_ne_nil _ _ (List.self_eq_append_right.mp joins)

/-! ### A preamble on UNSETTLED outputs (R209) -/

/-- R209: while the outputs that a searching receiver would take are UNSETTLED, it declares no preamble. -/
theorem execIcmPreambleDetect_of_unsettled {s : State} {w : Wing} (unsettled : s.icmSettled w = false)
    (peaks : List (Nat × Nat)) : execIcmPreambleDetect w peaks s = .next s.begin := by
  have ignores : s.begin.icmSettled w = false := unsettled
  simp [execIcmPreambleDetect, ignores]

/-- The intercom receiver of wing A searches, and context 0, which feeds it, has not settled. -/
def State.searchesUnsettled : State :=
  (((((State.runsWingA.wrb .CNV_ADC_CLK_LOCKED [0] true).wrb .OPT_RX_STAT_LOS [0] false).wrb .OPT_TX_STAT_LO_LOCKED [0]
    true).wrb .ICM_RX_CFG_EN [0] true).wr .SUP_DEC_CFG_SOURCE [0] 0x3C).wrb .SUP_DEC_STAT_UNSETTLED [0] true

/-- The receiver hears and searches, the four correlations make a preamble, and the outputs are UNSETTLED. -/
theorem State.searchesUnsettled_hears : State.searchesUnsettled.icmHears .a = true ∧
    State.searchesUnsettled.rd .ICM_RX_STAT_STATE [Wing.a.n] = 0 ∧
    preamble (State.searchesUnsettled.rxSf .a) (State.searchesUnsettled.rd .ICM_RX_CFG_DET_TH [Wing.a.n])
      (List.replicate 4 (77, 300)) = true ∧
    State.searchesUnsettled.icmSettled .a = false := by decide +kernel

/-- Refutes O25: a searching receiver ignores UNSETTLED outputs (R209), so four correlations that would make a preamble
leave it in its search, where the statement has it declare the preamble whether or not the outputs have settled. -/
theorem not_intercomReceiving : ¬ Obligations.IntercomReceiving := by
  unfold Obligations.IntercomReceiving
  intro h
  obtain ⟨detects, -⟩ := h State.searchesUnsettled .a
  obtain ⟨hears, searches, heard, unsettled⟩ := State.searchesUnsettled_hears
  obtain ⟨t, answered, declared, -⟩ := detects _ hears searches heard
  rw [exec_icmPreambleDetect, execIcmPreambleDetect_of_unsettled unsettled] at answered
  cases answered
  rw [State.begin_rd, searches] at declared
  exact absurd declared (by decide)

end Sys2Proof.Machine
end

section
/-!
What the commands leave alone: a command's frame from the set of what it may write, and the frames of all commands, one
line per command.
-/

namespace Sys2Proof.Machine

-- One theorem at a time bounds the memory of the whole text's check.
set_option Elab.async false

/-- A command that writes inside `N` has the frame of every pair of lists that covers `N`. -/
theorem framed_of_touch {i : Instr} {s : State} {rs : List Row} {ps : List Part} {N : Nat}
    (writes : ∀ M, Covers M N → Answered M s (exec i s)) (covered : coversB (bitsOf rs ps) N = true := by decide +kernel) :
    Answers i s (fun t => s.Framed t rs ps) :=
  Answered.frames rfl (writes _ (covers_of_test covered))

/-- A command that writes inside `N` keeps every list of parts outside `N`. -/
theorem keeps_of_touch {i : Instr} {s : State} {ps : List Part} {N : Nat} (writes : Answered N s (exec i s))
    (outside : partsOutB N ps = true := by decide +kernel) : Answers i s (fun t => ∀ p ∈ ps, p.same s t) :=
  Answered.keeps rfl writes outside

/-- Settles O54: each command writes inside the set of its operations, which the rows and parts named cover. -/
theorem lineAndReceiverFrames : Obligations.LineAndReceiverFrames := by
  unfold Obligations.LineAndReceiverFrames
  intro s
  exact ⟨
    fun _ _ => framed_of_touch fun _ k => execSuperframeBoundaryTx_within s k ..,
    fun _ _ _ _ _ => framed_of_touch fun _ k => execCarrierFrameRx_within s k ..,
    fun _ => framed_of_touch fun _ k => execCfAlignLoss_within s k ..,
    fun _ => framed_of_touch fun _ k => execHdrLossSet_within s k ..,
    fun _ => framed_of_touch fun _ k => execHdrLossClear_within s k ..,
    fun _ _ => framed_of_touch fun _ k => execSuperframeBoundaryRx_within s k ..,
    fun _ _ _ _ => framed_of_touch fun _ k => execTxFreqWrite_within s k ..,
    fun _ _ _ _ => framed_of_touch fun _ k => execLoFreqWrite_within s k ..,
    fun _ => framed_of_touch fun _ k => execTxLaserLock_within s k ..,
    fun _ => framed_of_touch fun _ k => execTxTuneTimeout_within s k ..,
    fun _ => framed_of_touch fun _ k => execLoTuneDone_within s k ..,
    fun _ => framed_of_touch fun _ k => execLoTuneFail_within s k ..,
    fun _ _ _ _ _ => framed_of_touch fun _ k => execTxCtlWrite_within s k ..,
    fun _ => framed_of_touch fun _ k => execRampUpdate_within s k ..,
    fun _ => framed_of_touch fun _ k => execPowerLoopUpdate_within s k ..,
    fun _ => framed_of_touch fun _ k => execTxDisAssert_within s k ..,
    fun _ _ => framed_of_touch fun _ k => execTxDisDeassert_within s k ..,
    fun _ _ => framed_of_touch fun _ k => execLosAssert_within s k ..,
    fun _ _ => framed_of_touch fun _ k => execLosClear_within s k ..,
    fun _ => framed_of_touch fun _ k => execAcqStart_within s k ..,
    fun _ _ => framed_of_touch fun _ k => execAcqStepComplete_within s k ..,
    fun _ _ => framed_of_touch fun _ k => execAcqFail_within s k ..,
    fun _ => framed_of_touch fun _ k => execAcqRetry_within s k ..,
    fun _ _ _ => framed_of_touch fun _ k => execReacq_within s k ..,
    fun _ _ => framed_of_touch fun _ k => execCdTrackMove_within s k ..,
    fun _ => framed_of_touch fun _ k => execEqReconv_within s k ..,
    fun _ => framed_of_touch fun _ k => execSp2AutoOn_within s k ..,
    fun _ => framed_of_touch fun _ k => execSp2AutoOff_within s k ..,
    fun _ => framed_of_touch fun _ k => execSp2Start_within s k ..,
    fun _ => framed_of_touch fun _ k => execSp2Stop_within s k ..,
    fun _ => framed_of_touch fun _ k => execSp2DrainDone_within s k ..,
    fun _ => framed_of_touch fun _ k => execFomWindowEnd_within s k ..,
    fun _ _ => framed_of_touch fun _ k => execDacCalComplete_within s k ..,
    fun _ => framed_of_touch fun _ k => execRxRateSwitch_within s k ..,
    fun _ => framed_of_touch fun _ k => execWingStartStepDone_within s k ..,
    fun _ => framed_of_touch fun _ k => execEqReconvDone_within s k ..⟩

/-- Settles O55: each command writes inside the set of its operations, which the rows and parts named cover. -/
theorem converterAndDecoderFrames : Obligations.ConverterAndDecoderFrames := by
  unfold Obligations.ConverterAndDecoderFrames
  intro s
  exact ⟨
    fun _ _ => framed_of_touch fun _ k => execSynthLock_within s k ..,
    fun _ _ => framed_of_touch fun _ k => execFgCalComplete_within s k ..,
    fun _ _ => framed_of_touch fun _ k => execCalRestart_within s k ..,
    fun _ _ _ => framed_of_touch fun _ k => execSpareCalComplete_within s k ..,
    fun _ _ => framed_of_touch fun _ k => execSliceHandover_within s k ..,
    fun _ _ => framed_of_touch fun _ k => execDwellExpiry_within s k ..,
    fun _ _ => framed_of_touch fun _ k => execDacCalStart_within s k ..,
    fun _ => framed_of_touch fun _ k => execSupConversion_within s k ..,
    fun _ => framed_of_touch fun _ k => execInjTrigger_within s k ..,
    fun _ => framed_of_touch fun _ k => execInjGo_within s k ..,
    fun _ => framed_of_touch fun _ k => execDecRound_within s k ..,
    fun _ _ => framed_of_touch fun _ k => execDecReset_within s k ..,
    fun _ => framed_of_touch fun _ k => execSupCalStart_within s k ..,
    framed_of_touch fun _ k => execSupCalAuto_within s k,
    framed_of_touch fun _ k => execSupCalDone_within s k,
    fun _ _ => framed_of_touch fun _ k => execFecBlockDecode_within s k ..,
    fun _ => framed_of_touch fun _ k => execFecLock_within s k ..,
    fun _ => framed_of_touch fun _ k => execFecLockLoss_within s k ..,
    fun _ => framed_of_touch fun _ k => execDfecSfChange_within s k ..,
    fun _ => framed_of_touch fun _ k => execDfecSdWindow_within s k ..⟩

/-- Settles O56: each command writes inside the set of its operations, which the rows and parts named cover. -/
theorem capacityAndIntercomFrames : Obligations.CapacityAndIntercomFrames := by
  unfold Obligations.CapacityAndIntercomFrames
  intro s
  exact ⟨
    fun _ _ _ _ => framed_of_touch fun _ k => execChanEnableWrite_within s k ..,
    fun _ => framed_of_touch fun _ k => execAdvStale_within s k ..,
    fun _ => framed_of_touch fun _ k => execAnnounceStart_within s k ..,
    fun _ => framed_of_touch fun _ k => execAnnCommitPoint_within s k ..,
    fun _ => framed_of_touch fun _ k => execRateSwitch_within s k ..,
    fun _ => framed_of_touch fun _ k => execAnnounceRetry_within s k ..,
    fun _ => framed_of_touch fun _ k => execMismatchDeclare_within s k ..,
    fun _ => framed_of_touch fun _ k => execFallback_within s k ..,
    fun _ => framed_of_touch fun _ k => execPolicyResume_within s k ..,
    fun _ => framed_of_touch fun _ k => execIcmAnnounceStart_within s k ..,
    fun _ => framed_of_touch fun _ k => execIcmAnnounceResend_within s k ..,
    fun _ => framed_of_touch fun _ k => execIcmHandshakeFail_within s k ..,
    fun _ => framed_of_touch fun _ k => execEnableChangeRetry_within s k ..,
    fun _ _ => framed_of_touch fun _ k => execGo_within s k ..,
    fun _ _ => framed_of_touch fun _ k => execResume_within s k ..,
    fun _ _ => framed_of_touch fun _ k => execForceFloor_within s k ..,
    fun _ _ _ => framed_of_touch fun _ k => execElcModeSet_within s k ..,
    fun _ => framed_of_touch fun _ k => execIcmBurstStart_within s k ..,
    fun _ => framed_of_touch fun _ k => execIcmBurstEnd_within s k ..,
    fun _ => framed_of_touch fun _ k => execIcmAdviceRepeat_within s k ..,
    fun _ => framed_of_touch fun _ k => execIcmBringupTimer_within s k ..,
    fun _ => framed_of_touch fun _ k => execIcmTagTimer_within s k ..,
    fun _ => framed_of_touch fun _ k => execIcmAlarmRepeat_within s k ..,
    fun _ _ => framed_of_touch fun _ k => execIcmPreambleDetect_within s k ..,
    fun _ _ => framed_of_touch fun _ k => execIcmFrameAbandon_within s k ..,
    fun _ _ _ => framed_of_touch fun _ k => execIcmCapture_within s k ..,
    fun _ _ => framed_of_touch fun _ k => execIcmAdviceRx_within s k ..,
    fun _ _ => framed_of_touch fun _ k => execIcmAnnounceRx_within s k ..,
    fun _ _ => framed_of_touch fun _ k => execIcmAckRx_within s k ..,
    fun _ _ => framed_of_touch fun _ k => execIcmBringupRx_within s k ..,
    fun _ _ => framed_of_touch fun _ k => execIcmTagRx_within s k ..,
    fun _ _ => framed_of_touch fun _ k => execIcmAlarmRx_within s k ..,
    fun _ _ => framed_of_touch fun _ k => execIcmUserRx_within s k ..,
    fun _ => framed_of_touch fun _ k => execFarAlarmTimeout_within s k ..,
    fun _ _ => framed_of_touch fun _ k => execUserSend_within s k ..,
    fun _ _ => framed_of_touch fun _ k => execUserPop_within s k ..⟩

/-- Settles O57: each command writes inside the set of its operations, which the rows and parts named cover. -/
theorem overheadProtectionAndCipherFrames : Obligations.OverheadProtectionAndCipherFrames := by
  unfold Obligations.OverheadProtectionAndCipherFrames
  intro s
  exact ⟨
    fun _ => framed_of_touch fun _ k => execOtnFrameTx_within s k ..,
    fun _ => framed_of_touch fun _ k => execFasSearchMatch_within s k ..,
    fun _ => framed_of_touch fun _ k => execOtnFrameRx_within s k ..,
    fun _ => framed_of_touch fun _ k => execOofDeclare_within s k ..,
    fun _ => framed_of_touch fun _ k => execOomDeclare_within s k ..,
    fun _ _ _ => framed_of_touch fun _ k => execDefectChange_within s k ..,
    fun _ _ => framed_of_touch fun _ k => execDegEval_within s k ..,
    fun _ _ _ => framed_of_touch fun _ k => execFailureDeclare_within s k ..,
    fun _ _ _ => framed_of_touch fun _ k => execFailureClear_within s k ..,
    fun _ _ => framed_of_touch fun _ k => execApsAccept_within s k ..,
    fun _ => framed_of_touch fun _ k => execGcc0MsgRx_within s k ..,
    fun _ _ => framed_of_touch fun _ k => execPgConditionChange_within s k ..,
    fun _ _ => framed_of_touch fun _ k => execHoldoffExpiry_within s k ..,
    fun _ => framed_of_touch fun _ k => execWtrExpiry_within s k ..,
    fun _ _ => framed_of_touch fun _ k => execPgClear_within s k ..,
    fun _ _ => framed_of_touch fun _ k => execPgLockout_within s k ..,
    fun _ _ => framed_of_touch fun _ k => execPgForce_within s k ..,
    fun _ _ => framed_of_touch fun _ k => execPgManualP_within s k ..,
    fun _ _ => framed_of_touch fun _ k => execPgManualW_within s k ..,
    fun _ => framed_of_touch fun _ k => execFopRaise_within s k ..,
    fun _ => framed_of_touch fun _ k => execFopClear_within s k ..,
    fun _ => framed_of_touch fun _ k => execSegmentTxStart_within s k ..,
    fun _ _ => framed_of_touch fun _ k => execSegmentRx_within s k ..,
    fun _ => framed_of_touch fun _ k => execSegLockLoss_within s k ..,
    fun _ _ => framed_of_touch fun _ k => execRoll_within s k ..,
    fun _ => framed_of_touch fun _ k => execPipelineRunEnd_within s k ..,
    fun _ => framed_of_touch fun _ k => execPreempt_within s k ..,
    fun _ _ => framed_of_touch fun _ k => execKeyLoad_within s k ..,
    fun _ _ => framed_of_touch fun _ k => execKeyErase_within s k ..,
    fun _ _ => framed_of_touch fun _ k => execLoadKek_within s k ..,
    fun _ => framed_of_touch fun _ k => execAttest_within s k ..,
    fun _ => framed_of_touch fun _ k => execGetCert_within s k ..,
    fun _ => framed_of_touch fun _ k => execGetKekPub_within s k ..,
    fun _ => framed_of_touch fun _ k => execRetirementComplete_within s k ..,
    fun _ => framed_of_touch fun _ k => execKeInitSend_within s k ..,
    fun _ => framed_of_touch fun _ k => execSessionLifeExpiry_within s k ..,
    fun _ _ _ => framed_of_touch fun _ k => execKeInitRx_within s k ..,
    fun _ _ => framed_of_touch fun _ k => execKeRespRx_within s k ..,
    fun _ _ => framed_of_touch fun _ k => execKeFinRx_within s k ..,
    fun _ => framed_of_touch fun _ k => execKeAbort_within s k ..,
    fun _ => framed_of_touch fun _ k => execSessionRetry_within s k ..,
    fun _ _ _ _ => framed_of_touch fun _ k => execKeyReadyRx_within s k ..,
    framed_of_touch fun _ k => execKeyCommandDone_within s k⟩

/-- Settles O58: each command writes inside the set of its operations, which the rows and parts named cover. -/
theorem clientAndLaneFrames : Obligations.ClientAndLaneFrames := by
  unfold Obligations.ClientAndLaneFrames
  intro s
  exact ⟨
    fun _ _ _ => framed_of_touch fun _ k => execClientFrameRx_within s k ..,
    fun _ => framed_of_touch fun _ k => execPfcFrameTx_within s k ..,
    fun _ _ => framed_of_touch fun _ k => execPfcXoffRepeat_within s k ..,
    fun _ _ _ _ _ => framed_of_touch fun _ k => execPfcRx_within s k ..,
    fun _ _ => framed_of_touch fun _ k => execPfcPauseExpiry_within s k ..,
    fun _ _ _ _ => framed_of_touch fun _ k => execEsmcRx_within s k ..,
    fun _ => framed_of_touch fun _ k => execEsmcTx_within s k ..,
    fun _ _ _ _ => framed_of_touch fun _ k => execPortLinkChange_within s k ..,
    fun _ _ _ _ _ _ => framed_of_touch fun _ k => execLineFrameDemap_within s k ..,
    framed_of_touch fun _ k => execTpgFrame_within s k,
    fun _ _ _ => framed_of_touch fun _ k => execSchedSelect_within s k ..,
    fun _ => framed_of_touch fun _ k => execGclEntryStart_within s k ..,
    fun _ _ => framed_of_touch fun _ k => execGclActivate_within s k ..,
    fun _ _ _ _ => framed_of_touch fun _ k => execGclTimingWrite_within s k ..,
    fun _ => framed_of_touch fun _ k => execGclSwap_within s k ..,
    fun _ _ => framed_of_touch fun _ k => execGclWivlWrite_within s k ..,
    fun _ _ => framed_of_touch fun _ k => execLaneSignalDetect_within s k ..,
    fun _ _ _ => framed_of_touch fun _ k => execLaneStepComplete_within s k ..,
    fun _ _ _ => framed_of_touch fun _ k => execLaneFail_within s k ..,
    fun _ _ => framed_of_touch fun _ k => execLaneRetry_within s k ..,
    fun _ _ _ => framed_of_touch fun _ k => execLaneRestart_within s k ..,
    fun _ _ => framed_of_touch fun _ k => execLaneDown_within s k ..,
    fun _ _ _ => framed_of_touch fun _ k => execFomMeasure_within s k ..,
    fun _ _ => framed_of_touch fun _ k => execLaneAdaptStart_within s k ..,
    fun _ => framed_of_touch fun _ k => execRefSelect_within s k ..,
    fun _ _ => framed_of_touch fun _ k => execCandQualify_within s k ..,
    fun _ _ => framed_of_touch fun _ k => execCandDisqualify_within s k ..,
    fun _ => framed_of_touch fun _ k => execCandWtrExpiry_within s k ..,
    fun _ => framed_of_touch fun _ k => execEsmcTimeout_within s k ..,
    framed_of_touch fun _ k => execRefLock_within s k,
    framed_of_touch fun _ k => execDpllFault_within s k,
    framed_of_touch fun _ k => execDpllRelock_within s k,
    fun _ => framed_of_touch fun _ k => execHoRelearn_within s k ..,
    fun _ => framed_of_touch fun _ k => execMtStep_within s k ..,
    fun _ => framed_of_touch fun _ k => execHoldoverLearnHour_within s k ..⟩

/-- Settles O59: each command writes inside the set of its operations, which the rows and parts named cover. -/
theorem moduleFrames : Obligations.ModuleFrames := by
  unfold Obligations.ModuleFrames
  intro s
  exact ⟨
    fun _ => framed_of_touch fun _ k => execLoadVerify_within s k ..,
    fun _ => framed_of_touch fun _ k => execLoadVerifyDone_within s k ..,
    fun _ _ => keeps_of_touch (execActivate_within s (covers_self _) ..),
    fun _ => framed_of_touch fun _ k => execProgram_within s k ..,
    framed_of_touch fun _ k => execProgramDone_within s k,
    fun _ => framed_of_touch fun _ k => execConfirm_within s k ..,
    fun _ => framed_of_touch fun _ k => execAdvanceSvn_within s k ..,
    fun _ => framed_of_touch fun _ k => execAbort_within s k ..,
    fun _ => framed_of_touch fun _ k => execVinStart_within s k ..,
    keeps_of_touch (execPowerLoss_within s (covers_self _)),
    fun _ => framed_of_touch fun _ k => execVinWarnRise_within s k ..,
    fun _ => framed_of_touch fun _ k => execVinWarnClear_within s k ..,
    framed_of_touch fun _ k => execStageAdmit_within s k,
    fun _ _ => framed_of_touch fun _ k => execStateTargetWrite_within s k ..,
    fun _ _ _ => framed_of_touch fun _ k => execWingStateWrite_within s k ..,
    framed_of_touch fun _ k => execStateEntryDone_within s k,
    fun _ _ => framed_of_touch fun _ k => execStateEntryRefuse_within s k ..,
    fun _ _ => framed_of_touch fun _ k => execWakeOnAccess_within s k ..,
    fun _ => framed_of_touch fun _ k => execWoaLingerExpiry_within s k ..,
    keeps_of_touch (execWakeNAssert_within s (covers_self _)),
    keeps_of_touch (execWakeTimerExpiry_within s (covers_self _)),
    fun _ _ => keeps_of_touch (execWatchCycle_within s (covers_self _) ..),
    keeps_of_touch (execModReset_within s (covers_self _)),
    fun _ _ => framed_of_touch fun _ k => execHierGo_within s k ..,
    framed_of_touch fun _ k => execHierForwardNext_within s k,
    keeps_of_touch (execThermalTrip_within s (covers_self _)),
    framed_of_touch fun _ k => execDescAuditDone_within s k,
    fun _ _ => framed_of_touch fun _ k => execScrubRead_within s k ..,
    fun _ => framed_of_touch fun _ k => execParityMismatch_within s k ..,
    fun _ => framed_of_touch fun _ k => execClockLoss_within s k ..,
    framed_of_touch fun _ k => execSlowClkLoss_within s k,
    fun _ _ => framed_of_touch fun _ k => execDoorwayTimeout_within s k ..,
    framed_of_touch fun _ k => execLockstepMiscompare_within s k,
    framed_of_touch fun _ k => execCoreRestartDone_within s k,
    fun _ => keeps_of_touch (execRecover_within s (covers_self _) ..),
    fun _ => framed_of_touch fun _ k => execEccInjectArm_within s k ..,
    fun _ => framed_of_touch fun _ k => execFaultClear_within s k ..,
    fun _ => keeps_of_touch (execBootStepDone_within s (covers_self _) ..),
    keeps_of_touch (execImageCommandDone_within s (covers_self _))⟩

/-- Settles O60: each command writes inside the set of its operations, which the rows and parts named cover. -/
theorem hostSideFrames : Obligations.HostSideFrames := by
  unfold Obligations.HostSideFrames
  intro s
  exact ⟨
    fun _ _ _ => keeps_of_touch (execRegisterWrite_within s (covers_self _) ..),
    fun _ _ => keeps_of_touch (execRcRead_within s (covers_self _) ..),
    fun _ => framed_of_touch fun _ k => execWrRejectClear_within s k ..,
    fun _ _ => keeps_of_touch (execApply_within s (covers_self _) ..),
    fun _ _ _ => keeps_of_touch (execDiscard_within s (covers_self _) ..),
    fun _ _ => keeps_of_touch (execPendingSetApply_within s (covers_self _) ..),
    fun _ _ => framed_of_touch fun _ k => execBlockStop_within s k ..,
    fun _ _ => framed_of_touch fun _ k => execBlockRun_within s k ..,
    fun _ => keeps_of_touch (execBlockStopComplete_within s (covers_self _) ..),
    framed_of_touch fun _ k => execMtUpdate_within s k,
    fun _ => keeps_of_touch (execOneSecondTick_within s (covers_self _) ..),
    fun _ => framed_of_touch fun _ k => execFreeze_within s k ..,
    fun _ => framed_of_touch fun _ k => execThaw_within s k ..,
    fun _ => framed_of_touch fun _ k => execClearAll_within s k ..,
    fun _ _ => keeps_of_touch (execLoHalfRead_within s (covers_self _) ..),
    fun _ _ => framed_of_touch fun _ k => execUserPageAccess_within s k ..,
    fun _ => framed_of_touch fun _ k => execTagWinRead_within s k ..,
    fun _ => framed_of_touch fun _ k => execTagPop_within s k ..,
    fun _ _ => framed_of_touch fun _ k => execHistClr_within s k ..,
    framed_of_touch fun _ k => execAtticRecord_within s k,
    fun _ => framed_of_touch fun _ k => execAtticWinRead_within s k ..,
    fun _ => framed_of_touch fun _ k => execAtticWinLastRead_within s k ..,
    fun _ _ => framed_of_touch fun _ k => execAtticClearArm_within s k ..,
    fun _ _ => framed_of_touch fun _ k => execAtticClearExecute_within s k ..,
    framed_of_touch fun _ k => execAtticClearLapse_within s k,
    framed_of_touch fun _ k => execPerst_within s k,
    framed_of_touch fun _ k => execFlrPf0_within s k,
    framed_of_touch fun _ k => execFlrPf1_within s k,
    fun _ => framed_of_touch fun _ k => execBadAccess_within s k ..,
    fun _ => framed_of_touch fun _ k => execMsixUnmask_within s k ..,
    fun _ => framed_of_touch fun _ k => execVecModGapExpiry_within s k ..,
    fun _ _ _ => framed_of_touch fun _ k => execCaptureBlock_within s k ..,
    framed_of_touch fun _ k => execHeartbeatTx_within s k,
    fun _ _ => framed_of_touch fun _ k => execCorHeartbeatRx_within s k ..,
    fun _ => framed_of_touch fun _ k => execCorridorPortDown_within s k ..,
    fun _ _ _ _ => framed_of_touch fun _ k => execCorLinkRx_within s k ..,
    fun _ => framed_of_touch fun _ k => execEnumerate_within s k ..,
    fun _ _ _ => framed_of_touch fun _ k => execCorEnumRx_within s k ..,
    fun _ _ _ => framed_of_touch fun _ k => execWindowAccess_within s k ..,
    fun _ _ _ => keeps_of_touch (execCorReadRx_within s (covers_self _) ..),
    fun _ _ _ _ => keeps_of_touch (execCorWriteRx_within s (covers_self _) ..),
    fun _ _ => framed_of_touch fun _ k => execCorReadCplRx_within s k ..,
    fun _ => framed_of_touch fun _ k => execCorWriteAckRx_within s k ..,
    fun _ => framed_of_touch fun _ k => execCorStallRx_within s k ..,
    fun _ => framed_of_touch fun _ k => execWindowDeadlineExpiry_within s k ..,
    fun _ _ => framed_of_touch fun _ k => execCorDoorbellRx_within s k ..,
    fun _ => framed_of_touch fun _ k => execCorHierRx_within s k ..,
    fun _ => framed_of_touch fun _ k => execFwdLogRead_within s k ..,
    framed_of_touch fun _ k => execSmbStatus_within s k,
    framed_of_touch fun _ k => execSmbVin_within s k,
    fun _ => framed_of_touch fun _ k => execSmbTcp_within s k ..,
    fun _ => framed_of_touch fun _ k => execSmbTdie_within s k ..,
    framed_of_touch fun _ k => execSmbWake_within s k,
    framed_of_touch fun _ k => execSmbId_within s k,
    keeps_of_touch (execSmbWakeCmd_within s (covers_self _)),
    framed_of_touch fun _ k => execSmbAlertClr_within s k,
    framed_of_touch fun _ k => execSmbAlertResponse_within s k,
    fun _ => framed_of_touch fun _ k => execSmbAtticCur_within s k ..,
    framed_of_touch fun _ k => execSmbAtticRec_within s k,
    fun _ => framed_of_touch fun _ k => execSmbUndefined_within s k ..,
    fun _ _ => keeps_of_touch (execMonPeek_within s (covers_self _) ..),
    fun _ _ => keeps_of_touch (execMonPoke_within s (covers_self _) ..),
    fun _ _ => framed_of_touch fun _ k => execMonAttic_within s k ..,
    framed_of_touch fun _ k => execMonState_within s k,
    framed_of_touch fun _ k => execMonIslands_within s k,
    framed_of_touch fun _ k => execMonFp_within s k,
    fun _ => framed_of_touch fun _ k => execMonLanes_within s k ..,
    fun _ => framed_of_touch fun _ k => execMonWing_within s k ..,
    framed_of_touch fun _ k => execMonRef_within s k,
    framed_of_touch fun _ k => execMonHelp_within s k,
    framed_of_touch fun _ k => execMonUnknown_within s k,
    framed_of_touch fun _ k => execPerstRelease_within s k,
    fun _ _ => framed_of_touch fun _ k => execPcieLinkUp_within s k ..,
    fun _ _ _ => framed_of_touch fun _ k => execUnmappedAccess_within s k ..⟩

/-! ### The step -/

/-- Settles O1: the step is defined by cases on its queue, whose empty case is the model's own choice (assumption 1). -/
theorem stepRunsTheFrontCommand : Obligations.StepRunsTheFrontCommand := by
  unfold Obligations.StepRunsTheFrontCommand
  refine ⟨fun c rest s => rfl, fun s idle => ?_⟩
  rw [step, idle]

end Sys2Proof.Machine
end

section
/-!
INT_N and INTN_PEND (R406): what a request of a vector does to the pending bits.
-/

namespace Sys2Proof.Machine

-- One theorem at a time bounds the memory of the whole text's check.
set_option Elab.async false

/-- Setting a bit of a word of 32 bits changes no other of its bits. -/
theorem testBit_setBit_word (v : Nat) {i k : Nat} (hk : k < 32) :
    (setBit v i % 2 ^ 32).testBit k = (v.testBit k || decide (k = i)) := by
  rw [Nat.testBit_mod_two_pow, setBit, Nat.testBit_or, Nat.testBit_two_pow]
  simp [hk, eq_comm]

/-- R406: of what a request of a vector does, only the choice in INTN_SEL reaches the pending bits. -/
theorem State.rd_ring (s : State) (v : Nat) {r : Row} (spared : spares State.requestMsix_touch r = true)
    (unsent : spares State.forwardDoorbell_touch r = true) (ix : List Nat) :
    (s.ring v).rd r ix = ((s.native 0x0D v 1).requestIntn v).rd r ix := by
  unfold State.ring
  rw [(State.requestMsix_within (.refl _ _) (covers_self _) v).keeps spared,
    (State.forwardDoorbell_within (.refl _ _) (covers_self _) v).keeps unsent]

/-- R406: a request of a vector below 32 sets its bit of INTN_PEND_LO when it is chosen. -/
theorem State.requestIntn_lo (s : State) {v k : Nat} (hv : v < 32) (hk : k < 32) :
    ((s.requestIntn v).rd .HST_INTN_PEND_LO_VEC).testBit k = ((s.rd .HST_INTN_PEND_LO_VEC).testBit k ||
        (decide (k = v) && (s.rd .HST_INTN_SEL_LO_VEC).testBit v)) ∧
      (s.requestIntn v).rd .HST_INTN_PEND_HI_VEC = s.rd .HST_INTN_PEND_HI_VEC := by
  unfold State.requestIntn
  rw [if_pos hv]
  cases (s.rd .HST_INTN_SEL_LO_VEC).testBit v
  · simp
  · rw [if_pos rfl, State.bit, State.rd_wr_self, State.rd_wr_ne _ (by decide)]
    exact ⟨(testBit_setBit_word _ hk).trans (by rw [Bool.and_true]), rfl⟩

/-- R406: a request of a vector above 31 sets its bit of INTN_PEND_HI when it is chosen. -/
theorem State.requestIntn_hi (s : State) {v k : Nat} (hk : k < 32) :
    ((s.requestIntn (32 + v)).rd .HST_INTN_PEND_HI_VEC).testBit k = ((s.rd .HST_INTN_PEND_HI_VEC).testBit k ||
        (decide (k = v) && (s.rd .HST_INTN_SEL_HI_VEC).testBit v)) ∧
      (s.requestIntn (32 + v)).rd .HST_INTN_PEND_LO_VEC = s.rd .HST_INTN_PEND_LO_VEC := by
  unfold State.requestIntn
  rw [if_neg (by omega), Nat.add_sub_cancel_left]
  cases (s.rd .HST_INTN_SEL_HI_VEC).testBit v
  · simp
  · rw [if_pos rfl, State.bit, State.rd_wr_self, State.rd_wr_ne _ (by decide)]
    exact ⟨(testBit_setBit_word _ hk).trans (by rw [Bool.and_true]), rfl⟩

/-- Settles O6: a request writes the pending bits in `State.requestIntn` only, and INT_N is the two fields' disjunction. -/
theorem intNFollowsRequests : Obligations.IntNFollowsRequests := by
  unfold Obligations.IntNFollowsRequests
  refine ⟨fun s => by simp [State.intN, State.flag], fun s v k hv hk => ?_, fun s v k _ hk => ?_⟩
  · rw [State.rd_ring s v (by decide +kernel) (by decide +kernel), State.rd_ring s v (by decide +kernel) (by decide +kernel)]
    simpa using (s.native 0x0D v 1).requestIntn_lo hv hk
  · rw [State.rd_ring s _ (by decide +kernel) (by decide +kernel), State.rd_ring s _ (by decide +kernel) (by decide +kernel)]
    simpa using (s.native 0x0D (32 + v) 1).requestIntn_hi (v := v) hk

end Sys2Proof.Machine
end

section
/-!
What events and counts leave alone, part by part, and loops that write one row.
-/

namespace Sys2Proof.Machine

-- One theorem at a time bounds the memory of the whole text's check.
set_option Elab.async false

/-! ### Events and counts (R6, R405) -/

/-- R386: beside its field a count changes only what the general counters see. -/
theorem State.count_same (s : State) (r : Row) (ix : List Nat) (n : Nat) {p : Part} (h : p ≠ .pmu) :
    p.same s (s.count r ix n) :=
  (s.count_framed r ix n).2 p (by simpa using h)

/-- R386: beside its field a count that wraps changes only what the general counters see. -/
theorem State.countWrap_same (s : State) (r : Row) (ix : List Nat) (n : Nat) {p : Part} (h : p ≠ .pmu) :
    p.same s (s.countWrap r ix n) := by
  unfold State.countWrap
  obtain e | e := (s.wr r ix (s.rd r ix + n)).mirrored_eq r ix n <;> rw [e] <;> cases p <;> first | rfl | exact absurd rfl h

@[simp] theorem State.evt_attic (s : State) (r : Row) (ix : List Nat) (b : Nat) : (s.evt r ix b).attic = s.attic :=
  s.evt_same r ix b (p := .attic) (by decide)

@[simp] theorem State.evt_pins (s : State) (r : Row) (ix : List Nat) (b : Nat) : (s.evt r ix b).pins = s.pins :=
  s.evt_same r ix b (p := .pins) (by decide)

@[simp] theorem State.evt_ras (s : State) (r : Row) (ix : List Nat) (b : Nat) : (s.evt r ix b).ras = s.ras :=
  s.evt_same r ix b (p := .ras) (by decide)

@[simp] theorem State.evt_cor (s : State) (r : Row) (ix : List Nat) (b : Nat) : (s.evt r ix b).cor = s.cor :=
  s.evt_same r ix b (p := .cor) (by decide)

@[simp] theorem State.evt_pan (s : State) (r : Row) (ix : List Nat) (b : Nat) : (s.evt r ix b).pan = s.pan :=
  s.evt_same r ix b (p := .pan) (by decide)

@[simp] theorem State.evt_sched (s : State) (r : Row) (ix : List Nat) (b : Nat) : (s.evt r ix b).sched = s.sched :=
  s.evt_same r ix b (p := .sched) (by decide)

@[simp] theorem State.evt_otn (s : State) (r : Row) (ix : List Nat) (b : Nat) : (s.evt r ix b).otn = s.otn :=
  s.evt_same r ix b (p := .otn) (by decide)

@[simp] theorem State.evt_groups (s : State) (r : Row) (ix : List Nat) (b : Nat) : (s.evt r ix b).groups = s.groups :=
  s.evt_same r ix b (p := .groups) (by decide)

@[simp] theorem State.evt_cip (s : State) (r : Row) (ix : List Nat) (b : Nat) : (s.evt r ix b).cip = s.cip :=
  s.evt_same r ix b (p := .cip) (by decide)

@[simp] theorem State.evt_dpll (s : State) (r : Row) (ix : List Nat) (b : Nat) : (s.evt r ix b).dpll = s.dpll :=
  s.evt_same r ix b (p := .dpll) (by decide)

@[simp] theorem State.evt_image (s : State) (r : Row) (ix : List Nat) (b : Nat) : (s.evt r ix b).image = s.image :=
  s.evt_same r ix b (p := .image) (by decide)

@[simp] theorem State.evt_uptime (s : State) (r : Row) (ix : List Nat) (b : Nat) : (s.evt r ix b).uptime = s.uptime :=
  s.evt_same r ix b (p := .uptime) (by decide)

theorem State.flag_wr_ne (s : State) {r x : Row} (h : r.id ≠ x.id) (ix jx : List Nat) (v : Nat) :
    (s.wr r ix v).flag x jx = s.flag x jx := by
  rw [State.flag, State.rd_wr_ne _ h, State.flag]

/-! ### Loops that write one row -/

/-- A loop that writes the instances of a row one after the other leaves each with its value. -/
theorem State.rd_upTo_wr (s : State) {r : Row} (flat : ∀ i, r.flat [i] = i) (v : Nat → Nat) {n k : Nat} (hk : k < n) :
    (s.upTo n (fun t i => t.wr r [i] (v i))).rd r [k] = v k % 2 ^ r.width :=
  State.upTo_establishes (Q := fun _ => True) (P := fun t : State => t.rd r [k] = v k % 2 ^ r.width) hk trivial
    (fun _ _ _ _ => trivial) (fun t _ => t.rd_wr_self r [k] (v k))
    (fun t m hm ht => (t.rd_wr_inst r (by rw [flat, flat]; exact hm) _).trans ht)

end Sys2Proof.Machine
end

section
/-!
The attic (R391 to R394): what a record, a repeat, the window and the clear come to, and O42, O43 and O44.
-/

namespace Sys2Proof.Machine

-- One theorem at a time bounds the memory of the whole text's check.
set_option Elab.async false

section
variable {s : State} {req : Req}

/-! ### Records (R391, R392) -/

/-- R391: a new record goes to the sealed area while it has room, and then circulates. -/
theorem State.newRec_of_room (room : s.rd .ATT_STAT_SEALED_USED < 2048) (r : Rec) : s.newRec r = s.sealRec r :=
  if_pos room

theorem State.newRec_of_full (full : 2048 ≤ s.rd .ATT_STAT_SEALED_USED) (r : Rec) : s.newRec r = s.circulateRec r :=
  if_neg (not_lt.mpr full)

/-- R391: a record's time and COARSE while module time runs. -/
theorem State.stamp_of_refUp (up : s.refUp = true) : s.stamp = ((s.mt, s.flag .REF_STAT_MT_COARSE), s) := by
  simp [State.stamp, up]

@[simp] theorem State.recAt_wr (s : State) (r : Row) (ix : List Nat) (v i : Nat) : (s.wr r ix v).recAt i = s.recAt i := rfl
@[simp] theorem State.recAt_wrb (s : State) (r : Row) (ix : List Nat) (b : Bool) (i : Nat) :
    (s.wrb r ix b).recAt i = s.recAt i := rfl

@[simp] theorem State.recAt_evt (s : State) (r : Row) (ix : List Nat) (b i : Nat) :
    (s.evt r ix b).recAt i = s.recAt i := by
  rw [State.recAt, State.evt_attic, State.recAt]

@[simp] theorem State.recAt_placeRec_self (s : State) (i : Nat) (r : Rec) : (s.placeRec i r).recAt i = r :=
  tabGet_set_self ..

theorem State.recAt_placeRec_ne (s : State) {i j : Nat} (h : j ≠ i) (r : Rec) :
    (s.placeRec i r).recAt j = s.recAt j :=
  tabGet_set_ne _ _ _ h

@[simp] theorem State.placeRec_rd (s : State) (i : Nat) (r : Rec) (x : Row) (ix : List Nat) :
    (s.placeRec i r).rd x ix = s.rd x ix := rfl

@[simp] theorem State.placeRec_queue (s : State) (i : Nat) (r : Rec) : (s.placeRec i r).attic.queue = s.attic.queue :=
  rfl

/-- R391: a record in the sealed area takes the next index there. -/
theorem State.sealRec_shows (s : State) (r : Rec) (room : s.rd .ATT_STAT_SEALED_USED < 2048) :
    (∀ i, (s.sealRec r).recAt i = if i = s.rd .ATT_STAT_SEALED_USED then r else s.recAt i) ∧
      (s.sealRec r).rd .ATT_STAT_SEALED_USED = s.rd .ATT_STAT_SEALED_USED + 1 ∧
      (s.sealRec r).attic.queue = s.attic.queue ∧ (s.sealRec r).attic.armed = s.attic.armed := by
  have placed (i : Nat) : (s.placeRec (s.rd .ATT_STAT_SEALED_USED) r).recAt i =
      if i = s.rd .ATT_STAT_SEALED_USED then r else s.recAt i := by
    split
    · next h => rw [h, State.recAt_placeRec_self]
    · next h => exact s.recAt_placeRec_ne h r
  have fits : (s.rd .ATT_STAT_SEALED_USED + 1) % 2 ^ Row.ATT_STAT_SEALED_USED.width = s.rd .ATT_STAT_SEALED_USED + 1 :=
    Nat.mod_eq_of_lt (by simp [Row.ATT_STAT_SEALED_USED] at room ⊢; omega)
  unfold State.sealRec
  dsimp only
  cases h : s.rd .ATT_STAT_SEALED_USED + 1 == 2048
  · exact ⟨placed, (State.rd_wr_self ..).trans fits, rfl, rfl⟩
  · refine ⟨fun i => ?_, ?_, ?_, ?_⟩
    · rw [State.when_true, State.recAt_evt, State.recAt_wrb, State.recAt_wr, placed]
    · rw [State.when_true, State.rd_evt_ne _ (by decide), State.rd_wrb_ne _ (by decide), State.rd_wr_self, fits]
    · rw [State.when_true, State.evt_attic]; rfl
    · rw [State.when_true, State.evt_attic]; rfl

/-- R391: a record in the circulating area takes the write pointer's index. -/
theorem State.circulateRec_shows (s : State) (r : Rec) :
    (s.circulateRec r).recAt (s.rd .ATT_STAT_WR_PTR) = r ∧
      (s.circulateRec r).rd .ATT_STAT_WR_PTR =
        (if s.rd .ATT_STAT_WR_PTR = 4095 then 2048 else s.rd .ATT_STAT_WR_PTR + 1) % 2 ^ Row.ATT_STAT_WR_PTR.width ∧
      (s.circulateRec r).attic.queue = s.attic.queue := by
  unfold State.circulateRec
  dsimp only
  refine ⟨?_, State.rd_wr_self .., ?_⟩
  · rw [State.recAt_wr, State.recAt_placeRec_self]
  · cases (tabFind s.attic.recs (s.rd .ATT_STAT_WR_PTR)).isSome <;> rfl

/-- R392: what an arrival repeats does not depend on what waits behind it. -/
theorem State.repeated_dequeue (s : State) (rest : List Arrival) (x : Arrival) :
    (s.begin.onAttic (fun a => { a with queue := rest })).repeated x = s.repeated x := rfl

/-- R391: the oldest arrival is taken with the present time. -/
theorem atticRecord_answers {x : Arrival} {rest : List Arrival} (up : s.refUp = true) (queue : s.attic.queue = x :: rest)
    {P : State → Prop}
    (hP : P ((s.begin.onAttic (fun a => { a with queue := rest })).takeRec x s.mt (s.flag .REF_STAT_MT_COARSE))) :
    Answers .atticRecord s P := by
  have stamped : (s.begin.onAttic (fun a => { a with queue := rest })).stamp =
      ((s.mt, s.flag .REF_STAT_MT_COARSE), s.begin.onAttic (fun a => { a with queue := rest })) :=
    State.stamp_of_refUp (s := s.begin.onAttic (fun a => { a with queue := rest })) up
  have next : s.begin.nextRec =
      (s.begin.onAttic (fun a => { a with queue := rest })).takeRec x s.mt (s.flag .REF_STAT_MT_COARSE) := by
    simp [State.nextRec, queue, stamped]
  exact ⟨_, by rw [exec_atticRecord, execAtticRecord, next], hP⟩

/-- R392: an arrival that repeats no record is a new one. -/
theorem State.takeRec_of_new {x : Arrival} (new : s.repeated x = none) (t : Nat) (coarse : Bool) :
    s.takeRec x t coarse = s.newRec ⟨t, x.source, x.code, 0, coarse, x.arg0, x.arg1, t⟩ := by
  simp [State.takeRec, new]

/-- R392: an arrival that repeats a record counts there. -/
theorem State.takeRec_of_repeat {x : Arrival} {i : Nat} {r : Rec} (again : s.repeated x = some (i, r)) (t : Nat)
    (coarse : Bool) : s.takeRec x t coarse = s.placeRec i { r with rep := min 65535 (r.rep + 1), last := t } := by
  simp [State.takeRec, again]

/-! ### The clear (R394) -/

theorem State.setArmed_shows (s : State) (on : Bool) :
    (s.setArmed on).attic.armed = on ∧ (s.setArmed on).flag .ATT_STAT_ARMED = on ∧
      (s.setArmed on).attic.recs = s.attic.recs :=
  ⟨rfl, State.flag_wrb_self _ _ _ _ (by decide), rfl⟩

theorem State.rd_setArmed (s : State) (on : Bool) {r : Row} (h : Row.ATT_STAT_ARMED.id ≠ r.id) (ix : List Nat) :
    (s.setArmed on).rd r ix = s.rd r ix :=
  State.rd_wrb_ne (s.onAttic fun a => { a with armed := on }) h ..

/-- A table from which a test takes keys out. -/
theorem tabGet_filter {α : Type} (d : α) (t : Tab α) (keep : Nat → Bool) (k : Nat) :
    tabGet d (t.filter (fun e => keep e.1)) k = if keep k then tabGet d t k else d := by
  unfold tabGet
  induction t with
  | nil => simp [tabFind_nil]
  | cons e t ih =>
    by_cases hk : e.1 = k
    · cases he : keep e.1
      · have out : keep k = false := hk ▸ he
        rw [List.filter_cons_of_neg (by simp [he]), ih]
        simp [out]
      · have stays : keep k = true := hk ▸ he
        rw [List.filter_cons_of_pos (by simp [he]), tabFind_cons, tabFind_cons, if_pos hk, if_pos hk]
        simp [stays]
    · cases he : keep e.1
      · rw [List.filter_cons_of_neg (by simp [he]), ih, tabFind_cons, if_neg hk]
      · rw [List.filter_cons_of_pos (by simp [he]), tabFind_cons, tabFind_cons, if_neg hk, if_neg hk, ih]

/-- R394: the areas of a scope are empty, and so is the sealed area. -/
theorem State.emptyAttic_shows (s : State) (both : Bool) :
    (∀ i, (s.emptyAttic both).recAt i = if both = false ∧ 2048 ≤ i then s.recAt i else Rec.empty) ∧
      (s.emptyAttic both).rd .ATT_STAT_SEALED_USED = 0 ∧ (s.emptyAttic both).attic.armed = s.attic.armed := by
  refine ⟨fun i => ?_, ?_, ?_⟩
  · have kept : (s.emptyAttic both).recAt i = tabGet Rec.empty
        (s.attic.recs.filter (fun e => !both && decide (2048 ≤ e.1))) i := by
      cases both <;> rfl
    rw [kept, tabGet_filter Rec.empty s.attic.recs (fun k => !both && decide (2048 ≤ k))]
    cases both <;> simp [State.recAt]
  · unfold State.emptyAttic
    cases both
    · rw [State.when_false, State.rd_wrb_ne _ (by decide), State.rd_wr_self, Nat.zero_mod]
    · rw [State.when_true, State.rd_wrb_ne _ (by decide), State.rd_wr_ne _ (by decide), State.rd_wrb_ne _ (by decide),
        State.rd_wr_self, Nat.zero_mod]
  · cases both <;> rfl

/-- R394: the clear changes neither module time nor whether REF runs. -/
theorem State.emptyAttic_keeps (s : State) (both : Bool) {r : Row} (h : spares State.emptyAttic_touch r = true)
    (ix : List Nat) : (s.emptyAttic both).rd r ix = s.rd r ix :=
  (State.emptyAttic_within (.refl _ s) (covers_self _) both).keeps h ix

/-- R394: an armed clear leaves its own record at index 0. -/
theorem State.clearAttic_shows (up : s.refUp = true) (n : Nat) (both : Bool) :
    (s.clearAttic n both).attic.armed = false ∧ (s.clearAttic n both).rd .ATT_STAT_SEALED_USED = 1 ∧
      (s.clearAttic n both).recAt 0 = ⟨s.mt, 0, 0x04FF, 0, s.flag .REF_STAT_MT_COARSE, n, 0, s.mt⟩ ∧
      ∀ i, 0 < i → (s.clearAttic n both).recAt i = if both = false ∧ 2048 ≤ i then s.recAt i else Rec.empty := by
  have kept {r : Row} (ha : Row.ATT_STAT_ARMED.id ≠ r.id) (he : spares State.emptyAttic_touch r = true) (ix : List Nat) :
      ((s.setArmed false).emptyAttic both).rd r ix = s.rd r ix := by
    rw [State.emptyAttic_keeps _ _ he, State.rd_setArmed _ _ ha]
  have power : ((s.setArmed false).emptyAttic both).power = s.power := by
    cases both <;> rfl
  have stays : ((s.setArmed false).emptyAttic both).refUp = true := by
    rw [State.refUp, State.islandFailed, power, kept (by decide) (by decide +kernel)]
    exact up
  have mt : ((s.setArmed false).emptyAttic both).mt = s.mt := by
    simp only [State.mt, State.rdWide, kept (r := .REF_MT_LO_MT) (by decide) (by decide +kernel),
      kept (r := .REF_MT_HI_MT) (by decide) (by decide +kernel)]
  have coarse : ((s.setArmed false).emptyAttic both).flag .REF_STAT_MT_COARSE = s.flag .REF_STAT_MT_COARSE := by
    rw [State.flag, kept (by decide) (by decide +kernel), State.flag]
  obtain ⟨recs, used, armed⟩ := (s.setArmed false).emptyAttic_shows both
  have cleared : s.clearAttic n both =
      ((s.setArmed false).emptyAttic both).sealRec ⟨s.mt, 0, 0x04FF, 0, s.flag .REF_STAT_MT_COARSE, n, 0, s.mt⟩ := by
    simp only [State.clearAttic, State.stamp_of_refUp stays, mt, coarse]
  obtain ⟨at_, more, -, armed'⟩ := ((s.setArmed false).emptyAttic both).sealRec_shows
    ⟨s.mt, 0, 0x04FF, 0, s.flag .REF_STAT_MT_COARSE, n, 0, s.mt⟩ (by rw [used]; decide)
  rw [cleared, more, armed', armed, used]
  refine ⟨rfl, rfl, ?_, fun i hi => ?_⟩
  · rw [at_, used, if_pos rfl]
  · rw [at_, used, if_neg (by omega), recs]; rfl

/-- R394: a clear that is not armed does nothing but disarm. -/
theorem State.clearStep_of_unarmed (unarmed : s.attic.armed = false) (n step : Nat) (other : step ≠ 0xA5) :
    s.clearStep n step = s.setArmed false := by
  simp [State.clearStep, unarmed, other]

theorem State.clearStep_of_armed (armed : s.attic.armed = true) (n : Nat) :
    s.clearStep n 0x5A = s.clearAttic n (s.flag .ATT_CLEAR_SCOPE) := by
  simp [State.clearStep, armed]

/-! ### The register of the clear -/

theorem rowsAt_atticClear : rowsAt 0x4000C = [(.ATT_CLEAR_STEP, []), (.ATT_CLEAR_SCOPE, [])] := by decide

/-- R394: a write of ATT.CLEAR takes SCOPE, and its STEP acts. -/
theorem State.regWrite_atticClear (s : State) (req : Req) (word : Nat) :
    ∃ v, s.regWrite req 0x4000C word =
      ((s.reachIsland req 0x4000C).wr .ATT_CLEAR_SCOPE [] v).clearStep req.n (bitsAt word 24 8) := by
  have assigned : s.assigned 0x4000C = true :=
    State.assigned_of_rows (s.regionUp_early (by decide)) (by decide)
  have shown (t : State) : (rowsAt 0x4000C).filter (fun e => !t.hidden e.1 e.2) = rowsAt 0x4000C :=
    List.filter_eq_self.mpr fun e he => by
      rw [t.hidden_of_never ((by decide : ∀ e ∈ rowsAt 0x4000C, e.1.neverHidden e.2 = true) e he)]; rfl
  have live : ∀ e ∈ rowsAt 0x4000C, e.1.cls = .live := by decide
  have step (t : State) (w : Nat) : t.writeField (s.reachIsland req 0x4000C |>.mayFreeze 0x4000C) w
      (.ATT_CLEAR_STEP, []) = t := rfl
  have scope (t : State) (w : Nat) : t.writeField (s.reachIsland req 0x4000C |>.mayFreeze 0x4000C) w
      (.ATT_CLEAR_SCOPE, []) = t.wr .ATT_CLEAR_SCOPE [] (t.takes .ATT_CLEAR_SCOPE [] w) :=
    t.writeField_live rfl rfl (by decide) (by decide) (State.regionStopped_of_no_block _ (by decide)) _ _
  refine ⟨(s.reachIsland req 0x4000C).takes .ATT_CLEAR_SCOPE [] (word % 2 ^ 32), ?_⟩
  rw [State.regWrite_of_assigned assigned (by decide)]
  unfold State.writeWord
  dsimp only
  rw [shown, State.drops_of_no_frozen _ (fun e he => by rw [live e he]; decide), State.when_false,
    State.stageWrite_of_no_shadowed _ (fun e he => by rw [live e he]; decide), rowsAt_atticClear]
  simp only [List.isEmpty_cons, Bool.false_eq_true, if_false, List.foldl_cons, List.foldl_nil, step, scope]
  have low : bitsAt (word % 2 ^ 32) 24 8 = bitsAt word 24 8 := bitsAt_mod_word (by decide) word
  rw [← low]
  rfl

/-- R360: reaching an island leaves the attic alone. -/
theorem State.reachIsland_attic (s : State) (req : Req) (addr : Nat) : (s.reachIsland req addr).attic = s.attic :=
  (s.reachIsland_framed req addr).2 .attic (by decide)

/-! ### The window (R393) -/

theorem rowsAt_atticWindow (w : Fin 8) : rowsAt (0x40020 + 4 * w) = [(.ATT_WIN_WORD, [w.val])] := by
  revert w; decide +kernel

theorem neverHidden_atticWindow (w : Fin 8) : Row.ATT_WIN_WORD.neverHidden [w.val] = true := by
  revert w; decide

/-- R393: the window's words are shown as they are held. -/
theorem State.word_atticWindow (s : State) (w : Fin 8) : s.word (0x40020 + 4 * w) = s.rd .ATT_WIN_WORD [w.val] := by
  rw [State.word_of_single (rowsAt_atticWindow w) rfl,
    State.fieldRead_seen (neverHidden_atticWindow w) rfl (by decide) (by decide), s.seen_of_no_count rfl]

theorem Row.flat_atticWindow (i : Nat) : Row.ATT_WIN_WORD.flat [i] = i := by simp [Row.flat, Row.ATT_WIN_WORD]

/-- R393: the window holds the record at the cursor. -/
theorem State.rd_copyRec (s : State) {w : Nat} (hw : w < 8) :
    s.copyRec.rd .ATT_WIN_WORD [w] = (s.recAt (s.rd .ATT_CURSOR_INDEX)).word w % 2 ^ 32 :=
  s.rd_upTo_wr Row.flat_atticWindow _ hw

theorem State.copyRec_out (s : State) : s.copyRec.out = s.out :=
  State.upTo_keeps (g := State.out) (fun _ _ => rfl) s 8

theorem atticWinRead_answers (taken : s.takesFrom req = true) {P : State → Prop}
    (hP : P (s.begin.copyRec.say (.data req 0x40020 (s.begin.copyRec.rd .ATT_WIN_WORD [0])))) :
    Answers (.atticWinRead req) s P :=
  answers_via (exec_atticWinRead ..) taken hP

/-- R391, R393: an empty record's words are zero. -/
theorem Rec.word_empty (w : Nat) : Rec.empty.word w = 0 := by
  unfold Rec.word
  split <;> rfl

/-- R393: with AUTO_INC the cursor advances. -/
theorem State.rd_advanceCursor (s : State) : s.advanceCursor.rd .ATT_CURSOR_INDEX =
    if s.flag .ATT_CURSOR_AUTO_INC then (s.rd .ATT_CURSOR_INDEX + 1) % 4096 else s.rd .ATT_CURSOR_INDEX := by
  unfold State.advanceCursor
  cases s.flag .ATT_CURSOR_AUTO_INC
  · rfl
  · rw [State.when_true, State.rd_wr_self]
    exact Nat.mod_eq_of_lt (Nat.mod_lt _ (by decide))

end

/-! ### The obligations -/

/-- Settles O42: an arrival's record is written where `State.newRec` or `State.repeated` says. The time that it carries is
that at which AON writes it (log entry 21, the model's own reading). -/
theorem atticRecords : Obligations.AtticRecords := by
  unfold Obligations.AtticRecords
  intro s
  refine ⟨?sealed, ?circulating, ?again⟩
  case sealed =>
    intro x rest up room queue new
    refine atticRecord_answers up queue ?_
    rw [State.takeRec_of_new ((s.repeated_dequeue rest x).trans new), State.newRec_of_room (by exact room)]
    obtain ⟨recs, used, left, -⟩ := (s.begin.onAttic (fun a => { a with queue := rest })).sealRec_shows
      ⟨s.mt, x.source, x.code, 0, s.flag .REF_STAT_MT_COARSE, x.arg0, x.arg1, s.mt⟩ room
    exact ⟨(recs _).trans (if_pos rfl), used, left⟩
  case circulating =>
    intro x rest up full queue new
    refine atticRecord_answers up queue ?_
    rw [State.takeRec_of_new ((s.repeated_dequeue rest x).trans new), State.newRec_of_full (by exact full)]
    exact (s.begin.onAttic (fun a => { a with queue := rest })).circulateRec_shows _
  case again =>
    intro x rest i r up queue again
    refine atticRecord_answers up queue ?_
    rw [State.takeRec_of_repeat ((s.repeated_dequeue rest x).trans again)]
    exact ⟨State.recAt_placeRec_self .., rfl, rfl⟩

/-- Settles O43: the window is written by `State.copyRec`, the cursor by `State.advanceCursor`. -/
theorem atticWindow : Obligations.AtticWindow := by
  unfold Obligations.AtticWindow
  intro s
  refine ⟨?copy, ?advance, ?empty⟩
  case copy =>
    intro req w taken
    refine atticWinRead_answers taken ⟨?_, ?_, ?_⟩
    · exact State.word_atticWindow _ w
    · rw [State.say_rd, s.begin.rd_copyRec w.isLt]
      rfl
    · rw [State.say_out, State.copyRec_out, s.begin.rd_copyRec (by decide)]
      rfl
  case advance =>
    intro req taken
    refine answers_via (exec_atticWinLastRead ..) taken ⟨?_, s.begin.rd_advanceCursor⟩
    have kept : s.begin.advanceCursor.rd .ATT_WIN_WORD [7] = s.rd .ATT_WIN_WORD [7] :=
      State.rd_when (State.rd_wr_ne _ (by decide) ..) _
    have quiet : s.begin.advanceCursor.out = [] := by
      unfold State.advanceCursor
      cases s.begin.flag .ATT_CURSOR_AUTO_INC <;> rfl
    rw [State.say_out, kept, quiet]
    rfl
  case empty =>
    intro req w taken none
    have empty : s.begin.recAt (s.begin.rd .ATT_CURSOR_INDEX) = Rec.empty := by
      show (tabFind s.attic.recs (s.rd .ATT_CURSOR_INDEX)).getD Rec.empty = Rec.empty
      rw [none]; rfl
    refine atticWinRead_answers taken ⟨?_, ?_⟩
    · rw [State.say_rd, s.begin.rd_copyRec w.isLt, empty, Rec.word_empty, Nat.zero_mod]
    · rw [State.say_out, State.copyRec_out, s.begin.rd_copyRec (by decide), empty, Rec.word_empty]
      rfl

/-- Settles O44: each value of STEP by the branch of `State.clearStep` that it takes. -/
theorem atticClear : Obligations.AtticClear := by
  unfold Obligations.AtticClear
  intro s
  have takesScope (scope : Bool) : (s.begin.wrb .ATT_CLEAR_SCOPE [] scope).flag .ATT_CLEAR_SCOPE = scope :=
    State.flag_wrb_self _ _ _ _ (by decide)
  refine ⟨?arm, ?execute, ?unarmed, ?lapse, ?other, ?arms⟩
  case arm =>
    intro req scope taken
    obtain ⟨armed, shown, recs⟩ := (s.begin.wrb .ATT_CLEAR_SCOPE [] scope).setArmed_shows true
    refine answers_via (exec_atticClearArm ..) taken ⟨armed, shown, ?_, recs⟩
    rw [State.clearStep, if_pos rfl, State.flag, State.rd_setArmed _ _ (by decide)]
    exact takesScope scope
  case execute =>
    intro req scope i taken armed up
    refine answers_via (exec_atticClearExecute ..) taken ?_
    rw [State.clearStep_of_armed (s := s.begin.wrb .ATT_CLEAR_SCOPE [] scope) armed, takesScope]
    have still : (s.begin.wrb .ATT_CLEAR_SCOPE [] scope).refUp = true := by
      rw [State.refUp, State.islandFailed, State.rd_wrb_ne _ (by decide)]
      exact up
    obtain ⟨off, used, first, others⟩ := State.clearAttic_shows still req.n scope
    have mt : (s.begin.wrb .ATT_CLEAR_SCOPE [] scope).mt = s.mt := by
      simp only [State.mt, State.rdWide, State.rd_wrb_ne _ (r := .ATT_CLEAR_SCOPE) (x := .REF_MT_LO_MT) (by decide),
        State.rd_wrb_ne _ (r := .ATT_CLEAR_SCOPE) (x := .REF_MT_HI_MT) (by decide), State.begin_rd]
    have coarse : (s.begin.wrb .ATT_CLEAR_SCOPE [] scope).flag .REF_STAT_MT_COARSE = s.flag .REF_STAT_MT_COARSE :=
      State.flag_wrb_ne _ (by decide) ..
    rw [mt, coarse] at first
    exact ⟨off, used, first, others i⟩
  case unarmed =>
    intro req scope taken unarmed
    refine answers_via (exec_atticClearExecute ..) taken ?_
    rw [State.clearStep_of_unarmed (s := s.begin.wrb .ATT_CLEAR_SCOPE [] scope) unarmed _ _ (by decide)]
    exact ⟨rfl, rfl⟩
  case lapse => exact ⟨_, rfl, s.begin.setArmed_shows false⟩
  case other =>
    intro req word taken notArm notExecute
    obtain ⟨v, written⟩ := s.begin.regWrite_atticClear req word
    refine registerWrite_answers taken ?_
    rw [written, State.clearStep, if_neg notArm, if_neg (by simp [notExecute])]
    obtain ⟨armed, shown, recs⟩ := ((s.begin.reachIsland req 0x4000C).wr .ATT_CLEAR_SCOPE [] v).setArmed_shows false
    exact ⟨armed, shown, recs.trans (congrArg Attic.recs (s.begin.reachIsland_attic req 0x4000C))⟩
  case arms =>
    intro req word taken arm
    obtain ⟨v, written⟩ := s.begin.regWrite_atticClear req word
    refine registerWrite_answers taken ?_
    rw [written, State.clearStep, if_pos arm]
    obtain ⟨armed, shown, recs⟩ := ((s.begin.reachIsland req 0x4000C).wr .ATT_CLEAR_SCOPE [] v).setArmed_shows true
    exact ⟨armed, shown, recs.trans (congrArg Attic.recs (s.begin.reachIsland_attic req 0x4000C))⟩

end Sys2Proof.Machine
end

section
/-!
What the general counters hold through events (R386), an update of module time (R345, R384, R385, R389, R390) and the
one-second tick (R346), and O40 and O41.
-/

namespace Sys2Proof.Machine

-- One theorem at a time bounds the memory of the whole text's check.
set_option Elab.async false

/-! ### What an event does not touch in the counters -/

/-- R386: what the counters hold beside the events that the next update folds in. -/
def Pmu.held (p : Pmu) : Pmu := { p with events := [], mirror := [] }

section
variable {s : State}

@[simp] theorem State.native_held (s : State) (code inst n : Nat) : (s.native code inst n).pmu.held = s.pmu.held := by
  obtain h | h := s.native_eq code inst n <;> rw [h] <;> rfl

@[simp] theorem State.mirrored_held (s : State) (r : Row) (ix : List Nat) (n : Nat) :
    (s.mirrored r ix n).pmu.held = s.pmu.held := by
  obtain h | h := s.mirrored_eq r ix n <;> rw [h] <;> rfl

@[simp] theorem State.wr_held (s : State) (r : Row) (ix : List Nat) (v : Nat) : (s.wr r ix v).pmu.held = s.pmu.held := rfl

@[simp] theorem State.countWrap_held (s : State) (r : Row) (ix : List Nat) (n : Nat) :
    (s.countWrap r ix n).pmu.held = s.pmu.held := by
  rw [State.countWrap, State.mirrored_held, State.wr_held]

theorem State.ring_held (s : State) (v : Nat) : (s.ring v).pmu.held = s.pmu.held := by
  have requested : (s.ring v).pmu = ((((s.native 0x0D v 1).requestIntn v).forwardDoorbell v)).pmu :=
    (State.requestMsix_within (.refl _ _) (covers_self _) v).part .pmu (by decide +kernel)
  have forwarded : (((s.native 0x0D v 1).requestIntn v).forwardDoorbell v).pmu = ((s.native 0x0D v 1).requestIntn v).pmu :=
    (State.forwardDoorbell_within (.refl _ _) (covers_self _) v).part .pmu (by decide +kernel)
  have chosen : ((s.native 0x0D v 1).requestIntn v).pmu = (s.native 0x0D v 1).pmu :=
    (State.requestIntn_within (.refl _ _) (covers_self _) v).part .pmu (by decide +kernel)
  rw [requested, forwarded, chosen, State.native_held]

@[simp] theorem State.evt_held (s : State) (r : Row) (ix : List Nat) (b : Nat) : (s.evt r ix b).pmu.held = s.pmu.held := by
  unfold State.evt
  split
  · rfl
  · rw [State.ring_held]; rfl

theorem State.when_held {f : State → State} (h : ∀ t : State, (f t).pmu.held = t.pmu.held) (s : State) (c : Bool) :
    (s.when c f).pmu.held = s.pmu.held := by
  cases c
  · rfl
  · exact h s

/-! ### The update (R345, R384 to R390) -/

theorem State.setCounter_held (s : State) (lo hi : Row) (n v : Nat) : (s.setCounter lo hi n v).pmu.held = s.pmu.held := by
  unfold State.setCounter
  dsimp only
  exact State.when_held (f := fun s => (s.wr lo [n + 1] (v / 2 ^ 64)).wr hi [n + 1] 0) (fun _ => rfl) _ _

theorem State.overflow_held (s : State) (n : Nat) : (s.overflow n).pmu.held = s.pmu.held := by
  unfold State.overflow
  dsimp only
  rw [State.evt_held]
  split <;> rfl

theorem State.addCounter_held (s : State) (n k : Nat) : (s.addCounter n k).pmu.held = s.pmu.held := by
  unfold State.addCounter
  split
  · rfl
  · dsimp only
    rw [State.when_held (fun t => t.overflow_held n), State.mirrored_held, State.setCounter_held]

/-- R384, R386: folding the events in leaves what was asked for, the tags and the frozen copy alone. -/
theorem State.foldCounters_held (s : State) (ns : Nat) : (s.foldCounters ns).pmu.held = s.pmu.held := by
  unfold State.foldCounters
  dsimp only
  split
  · rfl
  · exact (State.upTo_keeps (g := fun t : State => t.pmu.held)
      (fun t n => State.when_held (fun u => u.addCounter_held n _) t _) _ 64).trans rfl

theorem State.overrun_held (s : State) (ch old new at_ : Nat) : (s.overrun ch old new at_).pmu.held = s.pmu.held := by
  unfold State.overrun
  dsimp only
  split
  · rw [State.evt_held, State.countWrap_held]
  · rfl

theorem State.stepGate_held (s was : State) (ch : Nat) : (s.stepGate was ch).pmu.held = s.pmu.held := by
  unfold State.stepGate State.showGates
  dsimp only
  rw [State.wr_held, State.wr_held, State.overrun_held]
  rfl

/-- R384: what the update's freezing leaves in the counters. -/
theorem State.freezeNow_pmu (s : State) : s.freezeNow.pmu = { s.pmu with
    freezeReq := false
    thawReq := false
    frozen := if s.pmu.thawReq then none
      else if s.pmu.freezeReq && s.pmu.frozen.isNone then some s.store else s.pmu.frozen } := by
  unfold State.freezeNow
  dsimp only
  split
  next =>
    split
    next thaw =>
      have thawed : s.pmu.thawReq = true := thaw
      rw [if_pos thawed]
      rfl
    next thaw =>
      have kept : ¬ s.pmu.thawReq = true := thaw
      rw [if_neg kept]
      rfl
  next => split <;> rfl

/-- R384: what PMU.CTL shows after the update's freezing. -/
theorem State.freezeNow_flag (s : State) : s.freezeNow.flag .PMU_CTL_FROZEN =
    if s.pmu.thawReq then false
    else if s.pmu.freezeReq && s.pmu.frozen.isNone then true else s.flag .PMU_CTL_FROZEN := by
  unfold State.freezeNow
  dsimp only
  split
  next =>
    split
    next thaw =>
      have thawed : s.pmu.thawReq = true := thaw
      rw [if_pos thawed]
      exact State.flag_wrb_self _ _ _ _ (by decide)
    next thaw =>
      have kept : ¬ s.pmu.thawReq = true := thaw
      rw [if_neg kept]
      exact State.flag_wrb_self _ _ _ _ (by decide)
  next =>
    split
    next => exact State.flag_wrb_self _ _ _ _ (by decide)
    next => rfl

theorem State.clearHists_pmu (s : State) (mask : Nat) : (s.clearHists mask).pmu = s.pmu :=
  (State.clearHists_within (.refl _ s) (covers_self _) mask).part .pmu (by decide +kernel)

/-- R389: the pops that were asked for. -/
theorem State.clearDue_pmu (s : State) :
    s.clearDue.pmu.fifo = s.pmu.fifo.drop s.pmu.popReq ∧ s.clearDue.pmu.popReq = 0 ∧ s.clearDue.pmu.clearReq = false ∧
      s.clearDue.pmu.frozen = s.pmu.frozen ∧ s.clearDue.pmu.freezeReq = s.pmu.freezeReq ∧
      s.clearDue.pmu.thawReq = s.pmu.thawReq := by
  have cleared (mask : Nat) : ((s.when s.pmu.clearReq (·.clearCounters)).clearHists mask).pmu =
      (s.when s.pmu.clearReq (·.clearCounters)).pmu := State.clearHists_pmu _ _
  have kept : (s.when s.pmu.clearReq (·.clearCounters)).pmu.fifo = s.pmu.fifo ∧
      (s.when s.pmu.clearReq (·.clearCounters)).pmu.popReq = s.pmu.popReq ∧
      (s.when s.pmu.clearReq (·.clearCounters)).pmu.frozen = s.pmu.frozen ∧
      (s.when s.pmu.clearReq (·.clearCounters)).pmu.freezeReq = s.pmu.freezeReq ∧
      (s.when s.pmu.clearReq (·.clearCounters)).pmu.thawReq = s.pmu.thawReq := by
    cases s.pmu.clearReq <;> exact ⟨rfl, rfl, rfl, rfl, rfl⟩
  obtain ⟨fifo, pops, frozen, freeze, thaw⟩ := kept
  unfold State.clearDue
  dsimp only
  cases hp : s.pmu.popReq != 0
  · rw [bne_eq_false_iff_eq] at hp
    simp only [State.when_false, State.onPmu, cleared, fifo, frozen, freeze, thaw, hp, List.drop_zero, and_self]
  · simp only [State.when_true, State.onPmu, State.showTags, State.wr_pmu, cleared, fifo, pops, frozen, freeze, thaw,
      and_self]

/-- R345: the model's own clocks go on with module time. -/
def State.elapse (s : State) (ns : Nat) : State :=
  { s with uptime := s.uptime + ns / 1000, dpll := { s.dpll with advanced := s.dpll.advanced + ns } }

/-- R345: an update once its frozen copy, clears and pops have taken hold: module time and what follows it. -/
def State.timeOn (s : State) (ns : Nat) : State :=
  let s := s.releaseUse 5
  let s := (s.setMt (s.mt + ns)).refillBudget ns
  ((s.slewFine .a (ns / 1000)).slewFine .b (ns / 1000)).elapse ns

theorem State.advanceMt_eq (s : State) (ns : Nat) :
    s.advanceMt ns = (s.foldCounters ns).freezeNow.clearDue.timeOn ns := by
  unfold State.advanceMt State.timeOn State.elapse
  rfl

theorem State.elapse_pmu (s : State) (ns : Nat) : (s.elapse ns).pmu = s.pmu := rfl

theorem State.elapse_uptime (s : State) (ns : Nat) : (s.elapse ns).uptime = s.uptime + ns / 1000 := rfl

theorem State.rd_elapse (s : State) (ns : Nat) (r : Row) (ix : List Nat) : (s.elapse ns).rd r ix = s.rd r ix := rfl

theorem State.slewFine_pmu (s : State) (w : Wing) (us : Nat) : (s.slewFine w us).pmu = s.pmu := rfl

theorem State.slewFine_uptime (s : State) (w : Wing) (us : Nat) : (s.slewFine w us).uptime = s.uptime := rfl

theorem State.rd_slewFine (s : State) (w : Wing) (us : Nat) (r : Row) (ix : List Nat) :
    (s.slewFine w us).rd r ix = s.rd r ix := rfl

theorem State.refillBudget_pmu (s : State) (ns : Nat) : (s.refillBudget ns).pmu = s.pmu := rfl

theorem State.refillBudget_uptime (s : State) (ns : Nat) : (s.refillBudget ns).uptime = s.uptime := rfl

theorem State.refillBudget_dpll (s : State) (ns : Nat) : (s.refillBudget ns).dpll = s.dpll := rfl

theorem State.rd_refillBudget (s : State) (ns : Nat) (r : Row) (ix : List Nat) :
    (s.refillBudget ns).rd r ix = s.rd r ix := rfl

theorem State.setMt_pmu (s : State) (ns : Nat) : (s.setMt ns).pmu = s.pmu := rfl

theorem State.setMt_uptime (s : State) (ns : Nat) : (s.setMt ns).uptime = s.uptime := rfl

theorem State.setMt_dpll (s : State) (ns : Nat) : (s.setMt ns).dpll = s.dpll := rfl

theorem State.releaseUse_pmu (s : State) (n : Nat) : (s.releaseUse n).pmu = s.pmu := rfl

theorem State.releaseUse_uptime (s : State) (n : Nat) : (s.releaseUse n).uptime = s.uptime := rfl

theorem State.releaseUse_dpll (s : State) (n : Nat) : (s.releaseUse n).dpll = s.dpll := rfl

theorem State.rd_releaseUse (s : State) (n : Nat) (r : Row) (ix : List Nat) :
    (s.releaseUse n).rd r ix = s.rd r ix := rfl

theorem State.releaseUse_mt (s : State) (n : Nat) : (s.releaseUse n).mt = s.mt := rfl

@[simp] theorem State.timeOn_pmu (s : State) (ns : Nat) : (s.timeOn ns).pmu = s.pmu := by
  unfold State.timeOn
  dsimp only
  rw [State.elapse_pmu, State.slewFine_pmu, State.slewFine_pmu, State.refillBudget_pmu, State.setMt_pmu,
    State.releaseUse_pmu]

theorem State.timeOn_uptime (s : State) (ns : Nat) : (s.timeOn ns).uptime = s.uptime + ns / 1000 := by
  unfold State.timeOn
  dsimp only
  rw [State.elapse_uptime, State.slewFine_uptime, State.slewFine_uptime, State.refillBudget_uptime,
    State.setMt_uptime, State.releaseUse_uptime]

theorem State.elapse_stepDue (s : State) (ns : Nat) : (s.elapse ns).dpll.stepDue = s.dpll.stepDue := rfl

theorem State.slewFine_dpll (s : State) (w : Wing) (us : Nat) : (s.slewFine w us).dpll = s.dpll := rfl

theorem State.timeOn_stepDue (s : State) (ns : Nat) : (s.timeOn ns).dpll.stepDue = s.dpll.stepDue := by
  unfold State.timeOn
  dsimp only
  rw [State.elapse_stepDue, State.slewFine_dpll, State.slewFine_dpll, State.refillBudget_dpll, State.setMt_dpll,
    State.releaseUse_dpll]

/-- R345: of the registers an update writes module time only, after its clears. -/
theorem State.rd_timeOn_setMt (s : State) (ns : Nat) (r : Row) (ix : List Nat) :
    (s.timeOn ns).rd r ix = ((s.releaseUse 5).setMt (s.mt + ns)).rd r ix := by
  unfold State.timeOn
  dsimp only
  rw [State.rd_elapse, State.rd_slewFine, State.rd_slewFine, State.rd_refillBudget, State.releaseUse_mt]

theorem State.rd_timeOn (s : State) (ns : Nat) {r : Row} (h : spares State.setMt_touch r = true) (ix : List Nat) :
    (s.timeOn ns).rd r ix = s.rd r ix := by
  rw [State.rd_timeOn_setMt, (State.setMt_within (.refl _ _) (covers_self _) _).keeps h ix, State.rd_releaseUse]

/-- R345: module time takes a value of 64 bits. -/
theorem State.mt_setMt (s : State) (ns : Nat) : (s.setMt ns).mt = ns % 2 ^ 64 := by
  unfold State.setMt State.wrWide State.mt State.rdWide
  rw [State.rd_wr_self, State.rd_wr_ne _ (by decide), State.rd_wr_self]
  simp only [Row.REF_MT_LO_MT, Row.REF_MT_HI_MT]
  omega

theorem State.timeOn_mt (s : State) (ns : Nat) : (s.timeOn ns).mt = (s.mt + ns) % 2 ^ 64 := by
  rw [State.mt, State.rdWide, State.rd_timeOn_setMt, State.rd_timeOn_setMt]
  exact State.mt_setMt _ _

/-- R384 to R390: what an update makes of what was asked for. -/
theorem State.advanceMt_shows (s : State) (ns : Nat) :
    (s.advanceMt ns).pmu.fifo = s.pmu.fifo.drop s.pmu.popReq ∧ (s.advanceMt ns).pmu.popReq = 0 ∧
      (s.advanceMt ns).pmu.clearReq = false ∧ (s.advanceMt ns).pmu.freezeReq = false ∧
      (s.advanceMt ns).pmu.thawReq = false ∧
      (s.advanceMt ns).pmu.frozen = (s.foldCounters ns).freezeNow.pmu.frozen := by
  have held := s.foldCounters_held ns
  have fifo' : (s.foldCounters ns).pmu.fifo = s.pmu.fifo := by
    have e := congrArg Pmu.fifo held
    exact e
  have pops' : (s.foldCounters ns).pmu.popReq = s.pmu.popReq := by
    have e := congrArg Pmu.popReq held
    exact e
  obtain ⟨fifo, pops, clear, frozen, freeze, thaw⟩ := (s.foldCounters ns).freezeNow.clearDue_pmu
  rw [State.advanceMt_eq, State.timeOn_pmu, fifo, pops, clear, frozen, freeze, thaw]
  simp only [State.freezeNow_pmu, fifo', pops', and_self]

theorem State.advanceMt_keeps (s : State) (ns : Nat) {r : Row} (h : spares State.advanceMt_touch r = true) (ix : List Nat) :
    (s.advanceMt ns).rd r ix = s.rd r ix :=
  (State.advanceMt_within (.refl _ s) (covers_self _) ns).keeps h ix

theorem State.foldCounters_keeps (s : State) (ns : Nat) {r : Row} (hf : spares State.foldCounters_touch r = true)
    (hz : spares State.freezeNow_touch r = true) (ix : List Nat) : (s.foldCounters ns).freezeNow.rd r ix = s.rd r ix := by
  rw [(State.freezeNow_within (.refl _ _) (covers_self _)).keeps hz, (State.foldCounters_within (.refl _ s)
    (covers_self _) ns).keeps hf]

theorem State.advanceMt_stepDue (s : State) (ns : Nat) : (s.advanceMt ns).dpll.stepDue = s.dpll.stepDue := by
  have folded : (s.foldCounters ns).dpll = s.dpll :=
    (State.foldCounters_within (.refl _ s) (covers_self _) ns).part .dpll (by decide +kernel)
  have frozen : (s.foldCounters ns).freezeNow.dpll = (s.foldCounters ns).dpll :=
    (State.freezeNow_within (.refl _ _) (covers_self _)).part .dpll (by decide +kernel)
  have cleared : (s.foldCounters ns).freezeNow.clearDue.dpll = (s.foldCounters ns).freezeNow.dpll :=
    (State.clearDue_within (.refl _ _) (covers_self _)).part .dpll (by decide +kernel)
  rw [State.advanceMt_eq, State.timeOn_stepDue, cleared, frozen, folded]

/-- R345: an advance of module time. -/
theorem State.advanceMt_mt (s : State) (ns : Nat) : (s.advanceMt ns).mt = (s.mt + ns) % 2 ^ 64 := by
  have kept {r : Row} (h : spares State.clearDue_touch r = true) (hf : spares State.foldCounters_touch r = true)
      (hz : spares State.freezeNow_touch r = true) : ((s.foldCounters ns).freezeNow).clearDue.rd r [] = s.rd r [] := by
    rw [(State.clearDue_within (.refl _ _) (covers_self _)).keeps h, s.foldCounters_keeps ns hf hz]
  have before : ((s.foldCounters ns).freezeNow).clearDue.mt = s.mt := by
    simp only [State.mt, State.rdWide, kept (r := .REF_MT_LO_MT) (by decide +kernel) (by decide +kernel) (by decide +kernel),
      kept (r := .REF_MT_HI_MT) (by decide +kernel) (by decide +kernel) (by decide +kernel)]
  rw [State.advanceMt_eq, State.timeOn_mt, before]

/-! ### The clears (R385, R390) -/

/-- The rows of the general counters' banks. -/
abbrev counterRows : List Row := [.PMU_CNT_LO_COUNT, .PMU_CNT_HI_COUNT, .PMU_CNT_PS_LO_COUNT, .PMU_CNT_PS_HI_COUNT]

/-- R385: after CLEAR_ALL both banks read zero. -/
theorem State.rd_clearCounters (s : State) {r : Row} (h : r ∈ counterRows) (ix : List Nat) :
    s.clearCounters.rd r ix = 0 := by
  simp only [List.mem_cons, List.not_mem_nil, or_false] at h
  show (s.clearRows counterRows).rd r ix = 0
  simp only [State.clearRows, List.foldl_cons, List.foldl_nil]
  obtain rfl | rfl | rfl | rfl := h
  · rw [State.rd_clearRow_ne _ (by decide), State.rd_clearRow_ne _ (by decide), State.rd_clearRow_ne _ (by decide),
      State.rd_clearRow_self]; rfl
  · rw [State.rd_clearRow_ne _ (by decide), State.rd_clearRow_ne _ (by decide), State.rd_clearRow_self]; rfl
  · rw [State.rd_clearRow_ne _ (by decide), State.rd_clearRow_self]; rfl
  · rw [State.rd_clearRow_self]; rfl

/-- R390: the fields of one histogram. -/
def histFields (h b : Nat) : List (Row × List Nat) :=
  [(.PMU_HIST_UNDER_COUNT, [h]), (.PMU_HIST_OVER_COUNT, [h]), (.PMU_HIST_BIN_COUNT, [h, b])]

theorem Row.flat_histBin (h b : Nat) : Row.PMU_HIST_BIN_COUNT.flat [h, b] = h * 64 + b := by
  simp [Row.flat, Row.PMU_HIST_BIN_COUNT]

theorem Row.flat_histUnder (h : Nat) : Row.PMU_HIST_UNDER_COUNT.flat [h] = h := by
  simp [Row.flat, Row.PMU_HIST_UNDER_COUNT]

theorem Row.flat_histOver (h : Nat) : Row.PMU_HIST_OVER_COUNT.flat [h] = h := by
  simp [Row.flat, Row.PMU_HIST_OVER_COUNT]

/-- R390: clearing a histogram's bins leaves every other row alone. -/
theorem State.rd_clearBins_ne (s : State) (h : Nat) {r : Row} (hr : Row.PMU_HIST_BIN_COUNT.id ≠ r.id) (ix : List Nat) :
    (s.upTo 64 (fun t b => t.wr .PMU_HIST_BIN_COUNT [h, b] 0)).rd r ix = s.rd r ix :=
  State.rd_upTo (fun t _ => t.rd_wr_ne hr ..) s 64

/-- R390: a cleared histogram counts from zero. -/
theorem State.clearHist_self (s : State) (h : Nat) {b : Nat} (hb : b < 64) :
    ∀ e ∈ histFields h b, (s.clearHist h).rd e.1 e.2 = 0 := by
  unfold State.clearHist
  simp only [histFields, List.forall_mem_cons, List.not_mem_nil, false_imp_iff, implies_true, and_true]
  refine ⟨?_, ?_, ?_⟩
  · rw [State.rd_clearBins_ne _ _ (by decide), State.rd_wr_ne _ (by decide), State.rd_wr_self, Nat.zero_mod]
  · rw [State.rd_clearBins_ne _ _ (by decide), State.rd_wr_self, Nat.zero_mod]
  · exact State.upTo_establishes (Q := fun _ => True) (P := fun t : State => t.rd .PMU_HIST_BIN_COUNT [h, b] = 0) hb
      trivial (fun _ _ _ _ => trivial) (fun t _ => by rw [State.rd_wr_self, Nat.zero_mod])
      (fun t m hm ht => by
        rw [State.rd_wr_inst _ _ (by rw [Row.flat_histBin, Row.flat_histBin]; omega), ht])

/-- R390: clearing a histogram leaves the others alone. -/
theorem State.clearHist_other (s : State) {h j : Nat} (hj : j ≠ h) {b : Nat} (hb : b < 64) :
    ∀ e ∈ histFields h b, (s.clearHist j).rd e.1 e.2 = s.rd e.1 e.2 := by
  unfold State.clearHist
  simp only [histFields, List.forall_mem_cons, List.not_mem_nil, false_imp_iff, implies_true, and_true]
  refine ⟨?_, ?_, ?_⟩
  · rw [State.rd_clearBins_ne _ _ (by decide), State.rd_wr_ne _ (by decide),
      State.rd_wr_inst _ _ (by rw [Row.flat_histUnder, Row.flat_histUnder]; exact hj)]
  · rw [State.rd_clearBins_ne _ _ (by decide),
      State.rd_wr_inst _ _ (by rw [Row.flat_histOver, Row.flat_histOver]; exact hj), State.rd_wr_ne _ (by decide)]
  · have bins : ∀ t : State, ∀ m ∈ List.range 64, (t.wr .PMU_HIST_BIN_COUNT [j, m] 0).rd .PMU_HIST_BIN_COUNT [h, b] =
        t.rd .PMU_HIST_BIN_COUNT [h, b] := fun t m hm =>
      t.rd_wr_inst _ (by rw [Row.flat_histBin, Row.flat_histBin]; have := List.mem_range.mp hm; omega) _
    rw [State.upTo, List.foldlRecOn (motive := fun t : State => t.rd .PMU_HIST_BIN_COUNT [h, b] =
      ((s.wr .PMU_HIST_UNDER_COUNT [j] 0).wr .PMU_HIST_OVER_COUNT [j] 0).rd .PMU_HIST_BIN_COUNT [h, b]) _ _ rfl
      (fun t ht m hm => (bins t m hm).trans ht), State.rd_wr_ne _ (by decide), State.rd_wr_ne _ (by decide)]

/-- R390: the histograms of a mask count from zero, the others go on. -/
theorem State.clearHists_shows (s : State) (mask : Nat) {h b : Nat} (hh : h < 16) (hb : b < 64) :
    ∀ e ∈ histFields h b, (s.clearHists mask).rd e.1 e.2 = if mask.testBit h then 0 else s.rd e.1 e.2 := by
  intro e he
  refine State.upTo_establishes (Q := fun t : State => t.rd e.1 e.2 = s.rd e.1 e.2)
    (P := fun t : State => t.rd e.1 e.2 = if mask.testBit h then 0 else s.rd e.1 e.2) hh rfl
    (fun t m hm ht => (State.rd_when (f := fun t => t.clearHist m) (t.clearHist_other hm hb e he) _).trans ht) (fun t ht => ?_)
    (fun t m hm ht => (State.rd_when (f := fun t => t.clearHist m) (t.clearHist_other hm hb e he) _).trans ht)
  cases mask.testBit h
  · exact ht
  · rw [State.when_true, if_pos rfl]
    exact t.clearHist_self h hb e he

/-- R389, R390: an update clears the histograms that were asked for. -/
theorem State.clearDue_hists (s : State) {h b : Nat} (hh : h < 16) (hb : b < 64) :
    ∀ e ∈ histFields h b, s.clearDue.rd e.1 e.2 = if s.pmu.histReq.testBit h then 0 else s.rd e.1 e.2 := by
  intro e he
  have apart : ∀ r ∈ [Row.PMU_TAG_STAT_IN_FLIGHT, .PMU_TAG_STAT_FILL] ++ counterRows, r.id ≠ e.1.id := by
    simp only [histFields, List.mem_cons, List.not_mem_nil, or_false] at he
    obtain rfl | rfl | rfl := he
    · exact (by decide : ∀ r ∈ [Row.PMU_TAG_STAT_IN_FLIGHT, .PMU_TAG_STAT_FILL] ++ counterRows,
        r.id ≠ Row.PMU_HIST_UNDER_COUNT.id)
    · exact (by decide : ∀ r ∈ [Row.PMU_TAG_STAT_IN_FLIGHT, .PMU_TAG_STAT_FILL] ++ counterRows,
        r.id ≠ Row.PMU_HIST_OVER_COUNT.id)
    · exact (by decide : ∀ r ∈ [Row.PMU_TAG_STAT_IN_FLIGHT, .PMU_TAG_STAT_FILL] ++ counterRows,
        r.id ≠ Row.PMU_HIST_BIN_COUNT.id)
  have counters : (s.when s.pmu.clearReq (·.clearCounters)).rd e.1 e.2 = s.rd e.1 e.2 := by
    refine State.rd_when (f := (·.clearCounters)) ?_ _
    show (s.clearRows counterRows).rd e.1 e.2 = s.rd e.1 e.2
    simp only [State.clearRows, List.foldl_cons, List.foldl_nil]
    rw [State.rd_clearRow_ne _ (apart _ (by simp)), State.rd_clearRow_ne _ (apart _ (by simp)),
      State.rd_clearRow_ne _ (apart _ (by simp)), State.rd_clearRow_ne _ (apart _ (by simp))]
  have hists := (s.when s.pmu.clearReq (·.clearCounters)).clearHists_shows s.pmu.histReq hh hb e he
  rw [counters] at hists
  rw [← hists]
  unfold State.clearDue
  dsimp only
  refine State.rd_when (f := fun s => (s.onPmu fun p => { p with fifo := p.fifo.drop p.popReq }).showTags) ?_ _
  unfold State.showTags
  rw [State.rd_wr_ne _ (apart _ (by simp)), State.rd_wr_ne _ (apart _ (by simp))]
  rfl

/-- R385: an update clears the general counters when that was asked for. -/
theorem State.clearDue_counters (asked : s.pmu.clearReq = true) {r : Row} (h : r ∈ counterRows) (ix : List Nat) :
    s.clearDue.rd r ix = 0 := by
  have hists : ∀ r ∈ counterRows, spares State.clearHists_touch r = true := by decide +kernel
  have tags : ∀ r ∈ counterRows, spares State.showTags_touch r = true := by decide +kernel
  unfold State.clearDue
  dsimp only
  rw [asked, State.when_true]
  refine (State.rd_when (f := fun s => (s.onPmu fun p => { p with fifo := p.fifo.drop p.popReq }).showTags)
    ((State.showTags_within (.refl _ _) (covers_self _)).keeps (tags r h) ix) _).trans ?_
  rw [(State.clearHists_within (.refl _ _) (covers_self _) _).keeps (hists r h), State.rd_clearCounters _ h]

/-! ### MT_UPDATE -/

/-- R345: what an update comes to while the REF island runs. -/
theorem mtUpdate_answers (up : s.refUp = true) {P : State → Prop}
    (hP : P ((s.begin.advanceMt 1000).when s.dpll.stepDue State.stepMt)) : Answers .mtUpdate s P := by
  have runs : s.begin.refUp = true := up
  refine ⟨_, ?_, hP⟩
  have kept : (s.begin.advanceMt 1000).dpll.stepDue = s.dpll.stepDue := State.advanceMt_stepDue _ _
  rw [exec_mtUpdate, execMtUpdate, runs]
  dsimp only
  rw [State.when_true, kept]

/-- R347: a step of module time writes the gates' registers, module time and its own event. -/
theorem State.rd_updated (s : State) (c : Bool) {r : Row} (h : spares State.stepMt_touch r = true) (ix : List Nat) :
    ((s.advanceMt 1000).when c State.stepMt).rd r ix = (s.advanceMt 1000).rd r ix :=
  State.rd_when ((State.stepMt_within (.refl _ _) (covers_self _)).keeps h ix) c

/-- R347: a step leaves the counters alone but for the tags in flight. -/
theorem State.stepMt_held (s : State) : s.stepMt.pmu.held =
    { s.pmu.held with tags := s.pmu.tags.map (fun t => { t with stepped := true }) } := by
  have gates : ((s.setMt (s.rdWide .REF_MT_SET_LO_VALUE .REF_MT_SET_HI_VALUE)).upTo 64
      (fun t ch => t.stepGate s ch)).pmu.held = s.pmu.held :=
    (State.upTo_keeps (g := fun t : State => t.pmu.held) (fun t ch => t.stepGate_held s ch) _ 64).trans
      (by rw [State.setMt_pmu])
  unfold State.stepMt
  dsimp only
  rw [State.evt_held]
  simp only [Pmu.held, Pmu.mk.injEq, true_and, State.onPmu, State.onDpll] at gates ⊢
  simp only [gates, and_self]

/-- R347: a step changes none of what was asked of the counters. -/
theorem State.updated_pmu (s : State) (c : Bool) :
    ((s.advanceMt 1000).when c State.stepMt).pmu.fifo = (s.advanceMt 1000).pmu.fifo ∧
      ((s.advanceMt 1000).when c State.stepMt).pmu.popReq = (s.advanceMt 1000).pmu.popReq ∧
      ((s.advanceMt 1000).when c State.stepMt).pmu.clearReq = (s.advanceMt 1000).pmu.clearReq ∧
      ((s.advanceMt 1000).when c State.stepMt).pmu.freezeReq = (s.advanceMt 1000).pmu.freezeReq ∧
      ((s.advanceMt 1000).when c State.stepMt).pmu.thawReq = (s.advanceMt 1000).pmu.thawReq ∧
      ((s.advanceMt 1000).when c State.stepMt).pmu.frozen = (s.advanceMt 1000).pmu.frozen := by
  cases c
  · exact ⟨rfl, rfl, rfl, rfl, rfl, rfl⟩
  · have held := (s.advanceMt 1000).stepMt_held
    exact ⟨(congrArg Pmu.fifo held :), (congrArg Pmu.popReq held :), (congrArg Pmu.clearReq held :),
      (congrArg Pmu.freezeReq held :), (congrArg Pmu.thawReq held :), (congrArg Pmu.frozen held :)⟩

/-- R347: after a step module time is MT_SET. -/
theorem State.stepMt_mt (s : State) :
    s.stepMt.mt = s.rdWide .REF_MT_SET_LO_VALUE .REF_MT_SET_HI_VALUE % 2 ^ 64 := by
  have kept {r : Row} (hr : spares State.stepGate_touch r = true) (he : ∀ y ∈ Row.REF_EVT_MT_STEP :: bellRows, y.id ≠ r.id) :
      s.stepMt.rd r [] = (s.setMt (s.rdWide .REF_MT_SET_LO_VALUE .REF_MT_SET_HI_VALUE)).rd r [] := by
    unfold State.stepMt
    dsimp only
    rw [State.rd_evt_ne _ he]
    exact State.rd_upTo (fun t ch => (State.stepGate_within (.refl _ t) (covers_self _) s ch).keeps hr []) _ 64
  rw [← State.mt_setMt s]
  simp only [State.mt, State.rdWide, kept (r := .REF_MT_LO_MT) (by decide +kernel) (by decide),
    kept (r := .REF_MT_HI_MT) (by decide +kernel) (by decide)]

theorem State.advanceMt_uptime (s : State) (ns : Nat) : (s.advanceMt ns).uptime = s.uptime + ns / 1000 := by
  have folded : (s.foldCounters ns).uptime = s.uptime :=
    (State.foldCounters_within (.refl _ s) (covers_self _) ns).part .uptime (by decide +kernel)
  have frozen : (s.foldCounters ns).freezeNow.uptime = (s.foldCounters ns).uptime :=
    (State.freezeNow_within (.refl _ _) (covers_self _)).part .uptime (by decide +kernel)
  have cleared : (s.foldCounters ns).freezeNow.clearDue.uptime = (s.foldCounters ns).freezeNow.uptime :=
    (State.clearDue_within (.refl _ _) (covers_self _)).part .uptime (by decide +kernel)
  rw [State.advanceMt_eq, State.timeOn_uptime, cleared, frozen, folded]

end

end Sys2Proof.Machine
end

section
/-!
The one-second tick (R346), the tag window (R389), and O40 and O41.
-/

namespace Sys2Proof.Machine

-- One theorem at a time bounds the memory of the whole text's check.
set_option Elab.async false

/-! ### Tables -/

/-- Writing the entries of a sorted table over another one. -/
theorem tabGet_setAll (l : Tab Nat) (t : Tab Nat) (sorted : tabSorted l) (k : Nat) :
    tabGet 0 (l.foldl (fun t e => tabSet 0 t e.1 e.2) t) k = (tabFind l k).getD (tabGet 0 t k) := by
  induction l generalizing t with
  | nil => rfl
  | cons e l ih =>
    obtain ⟨above, rest⟩ := List.pairwise_cons.mp sorted
    rw [List.foldl_cons, ih _ rest, tabFind_cons]
    by_cases h : e.1 = k
    · have absent : tabFind l k = none := by
        rw [tabFind, Option.map_eq_none_iff, List.find?_eq_none]
        intro f hf same
        exact absurd (above f hf) (by rw [h, eq_of_beq same]; exact lt_irrefl _)
      rw [absent, if_pos h, h, tabGet_set_self]
      rfl
    · rw [tabGet_set_ne 0 t _ (Ne.symm h), if_neg h]

/-! ### Latching (R346) -/

section
variable {s : State}

theorem State.rd_latchRow_ne (s : State) (sel : Nat → Bool) {live ps r : Row} (hl : live.id ≠ r.id) (hp : ps.id ≠ r.id)
    (ix : List Nat) : (s.latchRow sel live ps).rd r ix = s.rd r ix := by
  unfold State.latchRow State.rd
  dsimp only
  rw [tabGet_set_ne [] _ _ (Ne.symm hp), tabGet_set_ne [] _ _ (Ne.symm hl)]

/-- R346: rows outside the pairs latched read as before. -/
theorem State.rd_latchPairs (s : State) (sel : Row → Nat → Bool) {r : Row} (ps : List (Row × Row))
    (h : ∀ p ∈ ps, p.1.id ≠ r.id ∧ p.2.id ≠ r.id) (ix : List Nat) :
    (ps.foldl (fun s p => s.latchRow (sel p.1) p.1 p.2) s).rd r ix = s.rd r ix :=
  List.foldlRecOn (motive := fun t : State => t.rd r ix = s.rd r ix) _ _ rfl
    (fun t ht p hp => (t.rd_latchRow_ne _ (h p hp).1 (h p hp).2 ix).trans ht)

/-- R346: a row latched as a whole moves to its previous-second row and starts from zero. -/
theorem State.latchRow_shows (wf : s.wf) {live ps : Row} (apart : live.id ≠ ps.id) (hl : live.rst = 0) (hp : ps.rst = 0)
    (flat : live.flat = ps.flat) (ix : List Nat) :
    (s.latchRow (fun _ => true) live ps).rd ps ix = s.rd live ix ∧ (s.latchRow (fun _ => true) live ps).rd live ix = 0 := by
  have sorted := (row_wf wf.1 live.id).1
  unfold State.latchRow State.rd
  simp only [Bool.not_true, List.filter_false, List.filter_true, hl, hp, Nat.xor_zero, tabGet_set_self,
    tabGet_set_ne [] _ _ apart, flat]
  exact ⟨tabGet_setAll _ _ sorted _, rfl⟩

/-- R346: what the other banks' latches leave alone. -/
abbrev tickRows : List Row :=
  [.CLI_RX_FRAMES_COUNT, .CLI_RX_FRAMES_PS_COUNT, .REF_MT_LO_MT, .REF_MT_HI_MT, .REF_TICK_STAT_TICKS]

/-- R346: the banks of a wing. -/
abbrev wingBanks : List (List (Row × Row)) :=
  [rxPairs, [(.TXW_CLIP_CNT_COUNT, .TXW_CLIP_CNT_PS_COUNT)], fecPairs, otnPairs]

theorem State.rd_latchFigures (s : State) (w : Wing) {r : Row} (h : r ∈ tickRows) (ix : List Nat) :
    (s.latchFigures w).rd r ix = s.rd r ix := by
  have apart : ∀ r ∈ tickRows, ∀ x ∈ figureRows, x.id ≠ r.id := by decide
  have figures : ∀ r ∈ tickRows, spares State.showSecond_touch r = true := by decide +kernel
  unfold State.latchFigures
  dsimp only
  split
  · exact List.foldlRecOn (motive := fun t : State => t.rd r ix = s.rd r ix) _ _ rfl
      (fun t ht x hx => (t.rd_wr_ne (apart r h x hx) ..).trans ht)
  · exact (State.showSecond_within (.refl _ _) (covers_self _) ..).keeps (figures r h) ix

theorem State.rd_latchWingBanks (s : State) (w : Wing) (sop : Nat) {r : Row} (h : r ∈ tickRows) (ix : List Nat) :
    (s.latchWingBanks w sop).rd r ix = s.rd r ix := by
  have pairs : ∀ r ∈ tickRows, ∀ ps ∈ wingBanks, ∀ p ∈ ps, p.1.id ≠ r.id ∧ p.2.id ≠ r.id := by decide
  have latched (t : State) {ps : List (Row × Row)} (hps : ps ∈ wingBanks) : (t.latchWing w ps).rd r ix = t.rd r ix :=
    t.rd_latchPairs (ofWing w) ps (pairs r h ps hps) ix
  have fills : ∀ r ∈ tickRows, spares State.latchFill_touch r = true := by decide +kernel
  have ssf : ∀ r ∈ tickRows, spares State.turnSsf_touch r = true := by decide +kernel
  have seen : ∀ r ∈ tickRows, spares State.restartSeen_touch r = true := by decide +kernel
  have sopRow : ∀ r ∈ tickRows, Row.RXW_SOP_PS_RATE.id ≠ r.id := by decide
  unfold State.latchWingBanks
  split
  · rfl
  · dsimp only
    rw [State.rd_upTo (fun t c => (State.latchFill_within (.refl _ t) (covers_self _) _).keeps (fills r h) ix),
      State.rd_latchFigures _ _ h, State.rd_wr_ne _ (sopRow r h),
      (State.turnSsf_within (.refl _ _) (covers_self _) _).keeps (ssf r h),
      (State.restartSeen_within (.refl _ _) (covers_self _) _).keeps (seen r h), latched _ (by simp), latched _ (by simp),
      latched _ (by simp), latched _ (by simp)]

/-- R346: the shared islands' banks that are latched before the client ports'. -/
def State.latchCore (s : State) : State :=
  let s := s.when (s.clocked 17) (·.latchRows (fun _ => true) cipPairs)
  s.when (s.clocked 19) (·.latchRow (fun _ => true) .PAN_DROP_CNT_COUNT .PAN_DROP_PS_COUNT)

theorem State.latchShared_eq (s : State) : s.latchShared =
    (s.latchCore.when (s.latchCore.clocked 21) (·.latchRows (fun _ => true) cliPairs)).upTo 64 State.latchCounter := rfl

theorem State.latchCore_onward (s : State) : s.Onward s.latchCore :=
  State.when_onward (State.when_onward (.refl s) (fun u => State.latchRows_onward (.refl u) _ _) _)
    (fun u => State.latchRow_onward (.refl u) _ _ _) _

theorem State.latchCore_power (s : State) : s.latchCore.power = s.power := by
  have rows (t : State) : (t.latchRows (fun _ => true) cipPairs).power = t.power :=
    (State.latchRows_within (.refl _ t) (covers_self _) _ _).part .power (by decide +kernel)
  have cipher (c : Bool) : (s.when c (·.latchRows (fun _ => true) cipPairs)).power = s.power := by
    cases c
    · rfl
    · exact rows s
  have drops (t : State) (c : Bool) :
      (t.when c (·.latchRow (fun _ => true) .PAN_DROP_CNT_COUNT .PAN_DROP_PS_COUNT)).power = t.power := by
    cases c <;> rfl
  unfold State.latchCore
  dsimp only
  rw [drops, cipher]

theorem State.clocked_client {t : State} (h : t.power = s.power) : t.clocked 21 = s.clocked 21 := by
  show (decide (t.power.state ≤ 1) || t.power.woken.contains 2) = (decide (s.power.state ≤ 1) || s.power.woken.contains 2)
  rw [h]

theorem State.rd_whenRows (s : State) (c : Bool) {ps : List (Row × Row)} {r : Row}
    (h : ∀ p ∈ ps, p.1.id ≠ r.id ∧ p.2.id ≠ r.id) (ix : List Nat) :
    (s.when c (·.latchRows (fun _ => true) ps)).rd r ix = s.rd r ix :=
  State.rd_when (f := (·.latchRows (fun _ => true) ps)) (s.rd_latchPairs (fun _ _ => true) ps h ix) c

theorem State.rd_whenDrops (s : State) (c : Bool) {r : Row} (hl : Row.PAN_DROP_CNT_COUNT.id ≠ r.id)
    (hp : Row.PAN_DROP_PS_COUNT.id ≠ r.id) (ix : List Nat) :
    (s.when c (·.latchRow (fun _ => true) .PAN_DROP_CNT_COUNT .PAN_DROP_PS_COUNT)).rd r ix = s.rd r ix :=
  State.rd_when (f := (·.latchRow (fun _ => true) .PAN_DROP_CNT_COUNT .PAN_DROP_PS_COUNT))
    (s.rd_latchRow_ne _ hl hp ix) c

theorem State.rd_latchCounters (s : State) {r : Row} (h : spares State.latchCounter_touch r = true) (ix : List Nat) :
    (s.upTo 64 State.latchCounter).rd r ix = s.rd r ix :=
  State.rd_upTo (fun t n => (State.latchCounter_within (.refl _ t) (covers_self _) n).keeps h ix) s 64

theorem State.rd_latchClients (s : State) {r : Row} (h : ∀ x ∈ cliPairs.tail, x.1.id ≠ r.id ∧ x.2.id ≠ r.id)
    (ix : List Nat) : (s.latchRows (fun _ => true) cliPairs).rd r ix =
      (s.latchRow (fun _ => true) .CLI_RX_FRAMES_COUNT .CLI_RX_FRAMES_PS_COUNT).rd r ix := by
  have first : cliPairs = (.CLI_RX_FRAMES_COUNT, .CLI_RX_FRAMES_PS_COUNT) :: cliPairs.tail := rfl
  rw [first, State.latchRows, List.foldl_cons]
  exact State.rd_latchPairs _ (fun _ _ => true) cliPairs.tail h ix

theorem State.rd_latchCore (s : State) (ix : List Nat) :
    s.latchCore.rd .CLI_RX_FRAMES_COUNT ix = s.rd .CLI_RX_FRAMES_COUNT ix := by
  unfold State.latchCore
  dsimp only
  rw [State.rd_whenDrops _ _ (by decide) (by decide), State.rd_whenRows _ _ (by decide)]

/-- R346: the client ports' frames move to the previous-second bank. -/
theorem State.latchShared_clients (wf : s.wf) (clocked : s.clocked 21 = true) (p : Nat) :
    s.latchShared.rd .CLI_RX_FRAMES_PS_COUNT [p] = s.rd .CLI_RX_FRAMES_COUNT [p] ∧
      s.latchShared.rd .CLI_RX_FRAMES_COUNT [p] = 0 := by
  obtain ⟨moved, restarted⟩ := State.latchRow_shows (s.latchCore_onward.wf wf) (live := .CLI_RX_FRAMES_COUNT)
    (ps := .CLI_RX_FRAMES_PS_COUNT) (by decide) rfl rfl rfl [p]
  rw [State.latchShared_eq, State.rd_latchCounters _ (by decide +kernel), State.rd_latchCounters _ (by decide +kernel),
    State.clocked_client s.latchCore_power, clocked, State.when_true, State.rd_latchClients _ (by decide),
    State.rd_latchClients _ (by decide), moved, restarted, State.rd_latchCore]
  exact ⟨rfl, rfl⟩

/-- R346: the shared latches leave module time and the tick's count alone. -/
theorem State.rd_latchShared (s : State) {r : Row} (h : r ∈ tickRows.drop 2) (ix : List Nat) :
    s.latchShared.rd r ix = s.rd r ix := by
  have counter : ∀ r ∈ tickRows.drop 2, spares State.latchCounter_touch r = true := by decide +kernel
  have pairs : ∀ r ∈ tickRows.drop 2, ∀ x ∈ (Row.PAN_DROP_CNT_COUNT, Row.PAN_DROP_PS_COUNT) :: cipPairs ++ cliPairs,
      x.1.id ≠ r.id ∧ x.2.id ≠ r.id := by decide
  have drops := pairs r h (.PAN_DROP_CNT_COUNT, .PAN_DROP_PS_COUNT) (by simp)
  rw [State.latchShared_eq, State.rd_latchCounters _ (counter r h),
    State.rd_whenRows _ _ (fun x hx => pairs r h x (by simp [hx])), State.latchCore,
    State.rd_whenDrops _ _ drops.1 drops.2,
    State.rd_whenRows _ _ (fun x hx => pairs r h x (by simp [hx]))]

/-- R346: the tick's work after the shared latches. -/
def State.closeTick (s : State) (m : SecondStats) : State :=
  let s := m.codes.foldl State.collect s
  let s := (s.when (s.clocked 13) (·.latchConv .a)).when (s.clocked 14) (·.latchConv .b)
  let s := s.when (s.clocked 24 && !s.halted 6) State.latchSup
  let s := (s.wrb .REF_TICK_STAT_IRREG [] (s.dpll.advanced != 1000000000)).wr .REF_TICK_STAT_TICKS []
    (s.rd .REF_TICK_STAT_TICKS + 1)
  (s.onDpll (fun d => { d with advanced := 0 })).native 0x11 0 1

theorem State.tick_eq (s : State) (m : SecondStats) : s.tick m =
    ((s.latchWingBanks .a m.sopA).latchWingBanks .b m.sopB).latchShared.closeTick m := rfl

/-- R346: what follows the shared latches, up to the count of ticks. -/
def State.latchLocal (s : State) (m : SecondStats) : State :=
  let s := m.codes.foldl State.collect s
  let s := (s.when (s.clocked 13) (·.latchConv .a)).when (s.clocked 14) (·.latchConv .b)
  s.when (s.clocked 24 && !s.halted 6) State.latchSup

theorem State.closeTick_eq (s : State) (m : SecondStats) : s.closeTick m =
    ((((s.latchLocal m).wrb .REF_TICK_STAT_IRREG [] ((s.latchLocal m).dpll.advanced != 1000000000)).wr
      .REF_TICK_STAT_TICKS [] ((s.latchLocal m).rd .REF_TICK_STAT_TICKS + 1)).onDpll
        (fun d => { d with advanced := 0 })).native 0x11 0 1 := by
  unfold State.closeTick State.latchLocal
  rfl

theorem State.rd_latchLocal (s : State) (m : SecondStats) {r : Row} (h : r ∈ tickRows) (ix : List Nat) :
    (s.latchLocal m).rd r ix = s.rd r ix := by
  have conv : ∀ r ∈ tickRows, spares State.latchConv_touch r = true := by decide +kernel
  have sup : ∀ r ∈ tickRows, spares State.latchSup_touch r = true := by decide +kernel
  have codes : ∀ r ∈ tickRows, spares State.collect_touch r = true := by decide +kernel
  have converter (t : State) (w : Wing) : (t.latchConv w).rd r ix = t.rd r ix :=
    (State.latchConv_within (.refl _ t) (covers_self _) w).keeps (conv r h) ix
  have slow (t : State) : t.latchSup.rd r ix = t.rd r ix :=
    (State.latchSup_within (.refl _ t) (covers_self _)).keeps (sup r h) ix
  have gathered : (m.codes.foldl State.collect s).rd r ix = s.rd r ix :=
    (within_foldl (.refl _ s) (fun t c => State.collect_within (.refl _ t) (covers_self _) c) _).keeps (codes r h) ix
  unfold State.latchLocal
  dsimp only
  rw [State.rd_when (slow _), State.rd_when (f := (·.latchConv .b)) (converter _ .b),
    State.rd_when (f := (·.latchConv .a)) (converter _ .a), gathered]

/-- R346: at the end of a second the count of ticks goes up and what was latched stays. -/
theorem State.closeTick_shows (s : State) (m : SecondStats) :
    (s.closeTick m).rd .REF_TICK_STAT_TICKS =
        (s.rd .REF_TICK_STAT_TICKS + 1) % 2 ^ Row.REF_TICK_STAT_TICKS.width ∧
      ∀ r ∈ tickRows.take 4, ∀ ix, (s.closeTick m).rd r ix = s.rd r ix := by
  have apart : ∀ r ∈ tickRows.take 4, Row.REF_TICK_STAT_TICKS.id ≠ r.id ∧ Row.REF_TICK_STAT_IRREG.id ≠ r.id := by
    decide
  have kept (t : State) (r : Row) (ix : List Nat) :
      ((t.onDpll (fun d => { d with advanced := 0 })).native 0x11 0 1).rd r ix = t.rd r ix := by
    rw [State.native_rd]
    rfl
  refine ⟨?_, fun r hr ix => ?_⟩
  · rw [State.closeTick_eq, kept, State.rd_wr_self, State.rd_latchLocal _ _ (by simp)]
  · rw [State.closeTick_eq, kept, State.rd_wr_ne _ (apart r hr).1, State.rd_wrb_ne _ (apart r hr).2,
      State.rd_latchLocal _ _ (List.mem_of_mem_take hr)]

/-- R346: what a tick shows. -/
theorem State.tick_shows (wf : s.wf) (clocked : s.clocked 21 = true) (m : SecondStats) (p : Nat) :
    (s.tick m).mt = s.mt ∧
      (s.tick m).rd .REF_TICK_STAT_TICKS = (s.rd .REF_TICK_STAT_TICKS + 1) % 2 ^ Row.REF_TICK_STAT_TICKS.width ∧
      (s.tick m).rd .CLI_RX_FRAMES_PS_COUNT [p] = s.rd .CLI_RX_FRAMES_COUNT [p] ∧
      (s.tick m).rd .CLI_RX_FRAMES_COUNT [p] = 0 := by
  have onward : s.Onward ((s.latchWingBanks .a m.sopA).latchWingBanks .b m.sopB) :=
    State.latchWingBanks_onward (State.latchWingBanks_onward (.refl s) _ _) _ _
  have powered : ((s.latchWingBanks .a m.sopA).latchWingBanks .b m.sopB).power = s.power :=
    ((State.latchWingBanks_within (.refl _ _) (covers_self _) _ _).part .power (by decide +kernel)).trans
      ((State.latchWingBanks_within (.refl _ s) (covers_self _) _ _).part .power (by decide +kernel))
  have wings (r : Row) (h : r ∈ tickRows) (ix : List Nat) :
      ((s.latchWingBanks .a m.sopA).latchWingBanks .b m.sopB).rd r ix = s.rd r ix := by
    rw [State.rd_latchWingBanks _ _ _ h, State.rd_latchWingBanks _ _ _ h]
  obtain ⟨ticks, kept⟩ := ((s.latchWingBanks .a m.sopA).latchWingBanks .b m.sopB).latchShared.closeTick_shows m
  obtain ⟨moved, restarted⟩ := State.latchShared_clients (onward.wf wf) ((State.clocked_client powered).trans clocked) p
  rw [State.tick_eq]
  refine ⟨?_, ?_, ?_, ?_⟩
  · simp only [State.mt, State.rdWide, kept .REF_MT_LO_MT (by simp), kept .REF_MT_HI_MT (by simp),
      State.rd_latchShared _ (r := .REF_MT_LO_MT) (by simp), State.rd_latchShared _ (r := .REF_MT_HI_MT) (by simp),
      wings .REF_MT_LO_MT (by simp), wings .REF_MT_HI_MT (by simp)]
  · rw [ticks, State.rd_latchShared _ (by simp), wings _ (by simp)]
  · rw [kept _ (by simp), moved, wings _ (by simp)]
  · rw [kept _ (by simp), restarted]

/-- R346: the state whose banks the tick latches: module time has reached the second's end. -/
def State.toSecond (s : State) : State := s.when (s.toTick != 0) (·.advanceMt s.toTick)

theorem State.toSecond_mt (s : State) (room : s.mt + 1000000000 < 2 ^ 64) : s.toSecond.mt % 1000000000 = 0 := by
  unfold State.toSecond
  cases due : s.toTick != 0
  · have standing : s.toTick = 0 := by simpa using due
    unfold State.toTick at standing
    split at standing
    next here =>
      rw [Bool.and_eq_true, decide_eq_true_eq] at here
      exact here.1
    next => omega
  · have bound : s.toTick = 0 ∨ s.toTick = 1000000000 - s.mt % 1000000000 := by
      unfold State.toTick
      split <;> simp
    have moving : s.toTick ≠ 0 := by simpa using due
    have fits : s.mt + s.toTick < 2 ^ 64 := by omega
    rw [State.when_true, State.advanceMt_mt, Nat.mod_eq_of_lt fits]
    omega

theorem State.toSecond_keeps (s : State) {r : Row} (h : spares State.advanceMt_touch r = true) (ix : List Nat) :
    s.toSecond.rd r ix = s.rd r ix :=
  State.rd_when (f := (·.advanceMt s.toTick)) (s.advanceMt_keeps _ h ix) _

theorem State.toSecond_onward (s : State) : s.Onward s.toSecond :=
  State.when_onward (.refl s) (fun t => State.advanceMt_onward (.refl t) _) _

theorem State.toSecond_power (s : State) : s.toSecond.power = s.power := by
  unfold State.toSecond
  cases s.toTick != 0
  · rfl
  · exact (State.advanceMt_within (.refl _ s) (covers_self _) _).part .power (by decide +kernel)

theorem oneSecondTick_answers (up : s.refUp = true) (m : SecondStats) {P : State → Prop}
    (hP : P (s.begin.toSecond.tick m)) : Answers (.oneSecondTick m) s P := by
  have runs : s.begin.refUp = true := up
  refine ⟨_, ?_, hP⟩
  rw [exec_oneSecondTick, execOneSecondTick, runs]
  rfl

/-! ### What an update shows (R345, R384, R385, R390) -/

theorem State.updated_hists (s : State) (c : Bool) {h b : Nat} (hh : h < 16) (hb : b < 64) :
    ∀ e ∈ histFields h b, ((s.advanceMt 1000).when c State.stepMt).rd e.1 e.2 =
      if s.pmu.histReq.testBit h then 0 else s.rd e.1 e.2 := by
  intro e he
  have spared : spares State.stepMt_touch e.1 = true ∧ spares State.setMt_touch e.1 = true ∧
      spares State.foldCounters_touch e.1 = true ∧ spares State.freezeNow_touch e.1 = true := by
    have rows : ∀ r ∈ [Row.PMU_HIST_UNDER_COUNT, .PMU_HIST_OVER_COUNT, .PMU_HIST_BIN_COUNT],
        spares State.stepMt_touch r = true ∧ spares State.setMt_touch r = true ∧
          spares State.foldCounters_touch r = true ∧ spares State.freezeNow_touch r = true := by decide +kernel
    refine rows e.1 ?_
    simp only [histFields, List.mem_cons, List.not_mem_nil, or_false] at he
    obtain rfl | rfl | rfl := he <;> simp
  obtain ⟨step, set, fold, freeze⟩ := spared
  have asked : (s.foldCounters 1000).freezeNow.pmu.histReq = s.pmu.histReq := by
    have held := congrArg Pmu.histReq (s.foldCounters_held 1000)
    rw [State.freezeNow_pmu]
    exact held
  rw [State.rd_updated _ _ step, State.advanceMt_eq, State.rd_timeOn _ _ set, State.clearDue_hists _ hh hb e he, asked,
    s.foldCounters_keeps 1000 fold freeze]

theorem State.updated_counters (s : State) (c : Bool) (asked : s.pmu.clearReq = true) {r : Row} (h : r ∈ counterRows)
    (ix : List Nat) : ((s.advanceMt 1000).when c State.stepMt).rd r ix = 0 := by
  have spared : ∀ r ∈ counterRows, spares State.stepMt_touch r = true ∧ spares State.setMt_touch r = true := by
    decide +kernel
  obtain ⟨step, set⟩ := spared r h
  have still : (s.foldCounters 1000).freezeNow.pmu.clearReq = true := by
    have held := congrArg Pmu.clearReq (s.foldCounters_held 1000)
    rw [State.freezeNow_pmu]
    exact Eq.trans held asked
  rw [State.rd_updated _ _ step, State.advanceMt_eq, State.rd_timeOn _ _ set, State.clearDue_counters still h]

/-- R384: what an update makes of a FREEZE and a THAW. -/
theorem State.updated_frozen (s : State) (c : Bool) :
    (((s.advanceMt 1000).when c State.stepMt).pmu.frozen.isSome =
      (!s.pmu.thawReq && (s.pmu.freezeReq || s.pmu.frozen.isSome))) ∧
    ((s.advanceMt 1000).when c State.stepMt).flag .PMU_CTL_FROZEN =
      if s.pmu.thawReq then false
      else if s.pmu.freezeReq && s.pmu.frozen.isNone then true else s.flag .PMU_CTL_FROZEN := by
  have held := s.foldCounters_held 1000
  have thaw : (s.foldCounters 1000).pmu.thawReq = s.pmu.thawReq := by
    have e := congrArg Pmu.thawReq held
    exact e
  have freeze : (s.foldCounters 1000).pmu.freezeReq = s.pmu.freezeReq := by
    have e := congrArg Pmu.freezeReq held
    exact e
  have frozen : (s.foldCounters 1000).pmu.frozen = s.pmu.frozen := by
    have e := congrArg Pmu.frozen held
    exact e
  obtain ⟨-, -, -, -, -, stepped⟩ := s.updated_pmu c
  obtain ⟨-, -, -, -, -, advanced⟩ := s.advanceMt_shows 1000
  constructor
  · rw [stepped, advanced, State.freezeNow_pmu]
    dsimp only
    rw [thaw, freeze, frozen]
    cases s.pmu.thawReq <;> cases s.pmu.freezeReq <;> cases s.pmu.frozen <;> rfl
  · have shown : ((s.advanceMt 1000).when c State.stepMt).flag .PMU_CTL_FROZEN =
        (s.foldCounters 1000).freezeNow.flag .PMU_CTL_FROZEN := by
      rw [State.flag, State.rd_updated _ _ (by decide +kernel), State.advanceMt_eq, State.rd_timeOn _ _ (by decide +kernel),
        (State.clearDue_within (.refl _ _) (covers_self _)).keeps (by decide +kernel), State.flag]
    have before : (s.foldCounters 1000).flag .PMU_CTL_FROZEN = s.flag .PMU_CTL_FROZEN :=
      (State.foldCounters_within (.refl _ s) (covers_self _) _).keepsFlag (by decide +kernel) []
    rw [shown, State.freezeNow_flag, thaw, freeze, frozen, before]

theorem State.stepMt_flag (s : State) : s.stepMt.flag .REF_EVT_MT_STEP = true := by
  unfold State.stepMt
  exact State.flag_evt_self _ _ _ rfl (by decide)

theorem State.stepMt_due (s : State) : s.stepMt.dpll.stepDue = false := by
  unfold State.stepMt
  dsimp only
  rw [State.evt_dpll]
  rfl

end

/-! ### The obligations -/

/-- Settles O41, by what an update, a pop and a clear make of the tags and the histograms. -/
theorem tagsAndHistograms : Obligations.TagsAndHistograms := by
  have copied (t : State) (w : Fin 16) : t.copyTag.rd .PMU_TAG_WIN_WORD [w] = (match t.pmu.fifo with
      | [] => 0
      | e :: _ => recordWord e.1 e.2 w) % 2 ^ 32 :=
    State.rd_upTo_wr t (r := .PMU_TAG_WIN_WORD) (fun _ => by simp [Row.flat, Row.PMU_TAG_WIN_WORD]) _ w.isLt
  have said (t : State) (req : Req) : (t.begin.copyTag.say (.data req 0x50800
      (t.begin.copyTag.rd .PMU_TAG_WIN_WORD [0]))).out = [.data req 0x50800 (t.begin.copyTag.rd .PMU_TAG_WIN_WORD [0])] := by
    have out : t.begin.copyTag.out = [] :=
      (State.copyTag_within (.refl _ _) (covers_self _)).part .out (by decide +kernel)
    rw [State.say_out, out]
    rfl
  intro s
  refine ⟨fun req w x rest taken fifo => answers_via (exec_tagWinRead ..) taken ?_,
    fun req w taken fifo => answers_via (exec_tagWinRead ..) taken ?_,
    fun req taken stopped => answers_via (exec_tagPop ..) taken ?_,
    fun req taken running => answers_via (exec_tagPop ..) taken ?_, fun up => mtUpdate_answers up ?_,
    fun req mask h b taken stopped => answers_via (exec_histClr ..) taken ?_,
    fun req mask h b taken running => answers_via (exec_histClr ..) taken ?_,
    fun h b up => mtUpdate_answers up ?_⟩
  · have first := copied s.begin 0
    dsimp only
    rw [State.say_rd, copied, said]
    simp only [State.begin_pmu, fifo] at first ⊢
    exact ⟨trivial, congrArg (fun v => [Out.data req 0x50800 v]) first⟩
  · have first := copied s.begin 0
    dsimp only
    rw [State.say_rd, copied, said]
    simp only [State.begin_pmu, fifo] at first ⊢
    exact ⟨rfl, congrArg (fun v => [Out.data req 0x50800 v]) first⟩
  · have stopped' : s.begin.blockStopped 7 = true := stopped
    rw [State.popTag, if_pos stopped']
    rfl
  · have running' : s.begin.blockStopped 7 = false := running
    rw [State.popTag, running']
    exact ⟨rfl, rfl⟩
  · obtain ⟨fifo, pops, -⟩ := s.begin.updated_pmu s.dpll.stepDue
    obtain ⟨fifo', pops', -⟩ := s.begin.advanceMt_shows 1000
    exact ⟨fifo.trans fifo', pops.trans pops'⟩
  · have stopped' : s.begin.blockStopped 7 = true := stopped
    have cleared := s.begin.clearHists_shows mask h.isLt b.isLt
    simp only [histFields, List.forall_mem_cons, List.not_mem_nil, false_imp_iff, implies_true, and_true] at cleared
    rw [State.askHistClear, if_pos stopped']
    exact cleared
  · have running' : s.begin.blockStopped 7 = false := running
    rw [State.askHistClear, running']
    exact ⟨rfl, rfl⟩
  · have cleared := s.begin.updated_hists s.dpll.stepDue h.isLt b.isLt
    simp only [histFields, List.forall_mem_cons, List.not_mem_nil, false_imp_iff, implies_true, and_true] at cleared
    exact cleared

/-- Settles O40, by what an update and a tick leave of the counters and of module time. -/
theorem moduleTimeAndCounters : Obligations.ModuleTimeAndCounters := by
  intro s
  refine ⟨fun req taken => answers_via (exec_freeze ..) taken ⟨rfl, rfl, rfl⟩,
    fun req taken => answers_via (exec_thaw ..) taken ⟨rfl, rfl, rfl⟩,
    fun req n taken => answers_via (exec_clearAll ..) taken ?_, fun n up asked => mtUpdate_answers up ?_,
    fun up steady => mtUpdate_answers up ?_, fun up due => mtUpdate_answers up ?_,
    fun up going => mtUpdate_answers up ?_, fun up thaw => mtUpdate_answers up ?_,
    fun m p wf up clocked room => oneSecondTick_answers up m ?_⟩
  · have same : s.begin.blockStopped 7 = s.blockStopped 7 := rfl
    unfold State.askClear
    rw [same]
    split
    · exact ⟨State.rd_clearCounters _ (by simp) _, State.rd_clearCounters _ (by simp) _,
        State.rd_clearCounters _ (by simp) _, State.rd_clearCounters _ (by simp) _⟩
    · rfl
  · obtain ⟨-, -, clear, -⟩ := s.begin.updated_pmu s.dpll.stepDue
    obtain ⟨-, -, clear', -⟩ := s.begin.advanceMt_shows 1000
    have zero {r : Row} (h : r ∈ counterRows) := s.begin.updated_counters s.dpll.stepDue asked h [(n : Nat)]
    exact ⟨zero (by simp), zero (by simp), zero (by simp), zero (by simp), clear.trans clear'⟩
  · rw [steady, State.when_false, State.advanceMt_mt, State.advanceMt_uptime]
    exact ⟨rfl, rfl⟩
  · rw [due, State.when_true]
    refine ⟨?_, State.stepMt_flag _, State.stepMt_due _, ?_⟩
    · rw [State.stepMt_mt]
      simp only [State.rdWide, s.begin.advanceMt_keeps 1000 (r := .REF_MT_SET_LO_VALUE) (by decide +kernel),
        s.begin.advanceMt_keeps 1000 (r := .REF_MT_SET_HI_VALUE) (by decide +kernel), State.begin_rd]
    · have tags : (s.begin.advanceMt 1000).stepMt.pmu.tags =
          (s.begin.advanceMt 1000).pmu.tags.map (fun t => { t with stepped := true }) := by
        have e := congrArg Pmu.tags (s.begin.advanceMt 1000).stepMt_held
        exact e
      rw [tags, List.all_map, List.all_eq_true]
      exact fun _ _ => rfl
  · obtain ⟨-, -, -, freeze, -, -⟩ := s.begin.updated_pmu s.dpll.stepDue
    obtain ⟨-, -, -, freeze', -, -⟩ := s.begin.advanceMt_shows 1000
    obtain ⟨frozen, flag⟩ := s.begin.updated_frozen s.dpll.stepDue
    rw [frozen, flag, freeze, freeze']
    simp only [State.begin_pmu, going]
    refine ⟨by simp [or_comm], trivial, fun asked => ?_⟩
    by_cases held : s.pmu.frozen.isSome = true
    · exact .inr held
    · exact .inl (by simp_all)
  · obtain ⟨-, -, -, -, thawed, -⟩ := s.begin.updated_pmu s.dpll.stepDue
    obtain ⟨-, -, -, -, thawed', -⟩ := s.begin.advanceMt_shows 1000
    obtain ⟨frozen, flag⟩ := s.begin.updated_frozen s.dpll.stepDue
    simp only [State.begin_pmu, thaw] at frozen flag
    exact ⟨Option.isNone_iff_eq_none.mp (by simpa using frozen), flag, thawed.trans thawed'⟩
  · obtain ⟨mt, ticks, moved, restarted⟩ := State.tick_shows (s := s.begin.toSecond)
      (s.begin.toSecond_onward.wf wf) ((State.clocked_client s.begin.toSecond_power).trans clocked) m p
    rw [mt, ticks, moved, restarted, State.toSecond_keeps _ (by decide +kernel), State.toSecond_keeps _ (by decide +kernel)]
    exact ⟨s.begin.toSecond_mt room, rfl, rfl, rfl⟩

end Sys2Proof.Machine
end

section
/-!
The functions and MSI-X (R398 to R405): O45.
-/

namespace Sys2Proof.Machine

-- One theorem at a time bounds the memory of the whole text's check.
set_option Elab.async false

/-- R19: a module whose HST island (island 5) is failed, with MSI-X enabled and vector 0 pending. -/
def hstFailed : State :=
  { State.reset.wr .RAS_STAT_FAILED_MAP [] 32 with
    host := { State.reset.host with msixEnable := true, functionMask := false, pba := 1 } }

/-- Refutes O45: a failed HST island sends no message (R19), so unmasking a pending vector leaves it pending. -/
theorem not_hostInterface : ¬ Obligations.HostInterface := by
  unfold Obligations.HostInterface
  intro h
  obtain ⟨-, -, -, -, -, -, unmask, -⟩ := h hstFailed
  obtain ⟨t, runs, sent, -⟩ := unmask 0 rfl rfl rfl
  have silent : (hstFailed.begin.msixControl (.vector 0 false)).out = [] := by decide +kernel
  rw [exec_msixUnmask, execMsixUnmask, Host.Outcome.next.injEq] at runs
  rw [← runs, silent] at sent
  exact absurd sent (by decide)

end Sys2Proof.Machine
end

section
/-!
What ringing a doorbell leaves of the host interface and of what leaves the module (R404, R405), and the capture engines
(R407 to R410): O46.
-/

namespace Sys2Proof.Machine

-- One theorem at a time bounds the memory of the whole text's check.
set_option Elab.async false

section
variable {s : State}

/-! ### A doorbell -/

@[simp] theorem State.native_host (s : State) (code inst n : Nat) : (s.native code inst n).host = s.host := by
  obtain h | h := s.native_eq code inst n <;> rw [h]

/-- R405: what a request of a vector leaves of the host interface, and what it adds to what leaves the module. -/
theorem State.requestMsix_shows (s : State) (v : Nat) :
    (s.requestMsix v).host.capture = s.host.capture ∧ (s.requestMsix v).host.budgetUsed = s.host.budgetUsed ∧
      ∃ l, (s.requestMsix v).out = s.out ++ l := by
  unfold State.requestMsix
  split
  next => exact ⟨rfl, rfl, [], (List.append_nil _).symm⟩
  next =>
    split
    next => exact ⟨rfl, rfl, [], (List.append_nil _).symm⟩
    next =>
      split
      next => exact ⟨rfl, rfl, [], (List.append_nil _).symm⟩
      next =>
        unfold State.sendMsix
        dsimp only
        split <;> exact ⟨rfl, rfl, [.msix v], rfl⟩

/-- R418: a forwarded doorbell adds at most its cell to what leaves the module. -/
theorem State.forwardDoorbell_shows (s : State) (v : Nat) :
    (s.forwardDoorbell v).host = s.host ∧ ∃ l, (s.forwardDoorbell v).out = s.out ++ l := by
  refine ⟨(State.forwardDoorbell_within (.refl _ _) (covers_self _) v).part .host (by decide +kernel), ?_⟩
  unfold State.forwardDoorbell
  dsimp only
  generalize (if v < 32 then (s.rd .COR_FWD_EN_LO_VEC).testBit v
    else (s.rd .COR_FWD_EN_HI_VEC).testBit (v - 32)) = chosen
  split
  · exact ⟨_, State.sayCell_out ..⟩
  · exact ⟨[], (List.append_nil _).symm⟩

/-- R404, R405: what a doorbell leaves of the host interface, and that it only adds to what leaves the module. -/
theorem State.ring_shows (s : State) (v : Nat) :
    (s.ring v).host.capture = s.host.capture ∧ (s.ring v).host.budgetUsed = s.host.budgetUsed ∧
      ∃ l, (s.ring v).out = s.out ++ l := by
  have chosen : ((s.native 0x0D v 1).requestIntn v).host = s.host ∧
      ((s.native 0x0D v 1).requestIntn v).out = s.out :=
    ⟨((State.requestIntn_within (.refl _ _) (covers_self _) v).part .host (by decide +kernel)).trans (s.native_host ..),
      ((State.requestIntn_within (.refl _ _) (covers_self _) v).part .out (by decide +kernel)).trans (s.native_out ..)⟩
  obtain ⟨host, l, out⟩ := ((s.native 0x0D v 1).requestIntn v).forwardDoorbell_shows v
  obtain ⟨capture, budget, l', out'⟩ := (((s.native 0x0D v 1).requestIntn v).forwardDoorbell v).requestMsix_shows v
  unfold State.ring
  rw [capture, budget, out', out, host, chosen.1, chosen.2]
  exact ⟨rfl, rfl, l ++ l', List.append_assoc ..⟩

/-! ### A block (R408 to R410) -/

/-- R409: HEAD advances around the ring. -/
theorem State.advanceHead_shows (s : State) (e : Nat) :
    (s.advanceHead e).rd .HST_DMA_HEAD_IDX [e] =
        (s.rd .HST_DMA_HEAD_IDX [e] + 1) % s.rd .HST_DMA_RING_SIZE_N [e] % 2 ^ Row.HST_DMA_HEAD_IDX.width ∧
      (s.advanceHead e).host.capture = s.host.capture ∧ (s.advanceHead e).host.budgetUsed = s.host.budgetUsed ∧
      ∃ l, (s.advanceHead e).out = s.out ++ l := by
  unfold State.advanceHead
  refine ⟨?_, State.ring_shows _ _⟩
  rw [State.ring_keeps _ _ _ _ (by decide), State.rd_wr_self]

/-- R408, R410: the sequence number that a block of a capturing engine takes. -/
def State.numberBlock (s : State) (e : Nat) : State :=
  s.onHost (fun h => { h with capture := tabSet 0 h.capture e ((tabGet 0 s.host.capture e + 1) % 2 ^ 32) })

theorem State.capture_eq (s : State) (e : Nat) (d : Descriptor) (m : SymbolBlock) : s.capture e d m =
    if s.blockSkipped e then (s.numberBlock e).count .HST_DMA_SKIPPED_COUNT [e]
    else (s.numberBlock e).writeBlock e (s.captureWing e) d m (tabGet 0 s.host.capture e) := rfl

theorem State.numberBlock_capture (s : State) (e : Nat) :
    tabGet 0 (s.numberBlock e).host.capture e = (tabGet 0 s.host.capture e + 1) % 2 ^ 32 :=
  tabGet_set_self ..

/-- R407: what a capturing engine makes of a block. -/
theorem captureBlock_answers {e : Fin 7} {d : Descriptor} {m : SymbolBlock} (on : s.capturing e m = true)
    {P : State → Prop} (hP : P (s.begin.capture e d m)) : Answers (.captureBlock e d m) s P := by
  have takes : s.begin.capturing e m = true := on
  refine ⟨_, ?_, hP⟩
  rw [exec_captureBlock, execCaptureBlock, takes]
  rfl

/-- R410: a write error stops the engine. -/
theorem State.captureError_shows (s : State) (e : Nat) :
    (s.captureError e).flag .HST_DMA_STAT_ERR [e] = true ∧ (s.captureError e).flag .HST_DMA_CTL_EN [e] = false := by
  unfold State.captureError
  rw [State.say_flag, State.say_flag]
  exact ⟨(State.flag_wrb_ne _ (by decide) ..).trans (State.flag_wrb_self _ _ _ _ (by decide)),
    State.flag_wrb_self _ _ _ _ (by decide)⟩

/-- R408 to R410: the block and its status go to host memory, and the budget pays for it. -/
def State.placeBlock (s : State) (e addr : Nat) (data : List Nat) : State :=
  ((s.onHost (fun h => { h with budgetUsed := h.budgetUsed + blockBytes })).say (.hostBlock addr data)).writeStatus e
    (2 ^ 31)

theorem State.placeBlock_rd (s : State) (e addr : Nat) (data : List Nat) (r : Row) (ix : List Nat) :
    (s.placeBlock e addr data).rd r ix = s.rd r ix := by
  rw [State.placeBlock, State.writeStatus, State.say_rd, State.say_rd]
  rfl

theorem State.placeBlock_out (s : State) (e addr : Nat) (data : List Nat) : (s.placeBlock e addr data).out =
    s.out ++ [.hostBlock addr data, .hostWord (s.rdWide .HST_DMA_RING_LO_ADDR .HST_DMA_RING_HI_ADDR [e] +
      16 * s.rd .HST_DMA_HEAD_IDX [e] + 12) (2 ^ 31)] := by
  rw [State.placeBlock, State.writeStatus, State.say_out, State.say_out, List.append_assoc]
  rfl

/-- R409, R410: a block written where the host's memory takes it. -/
theorem State.writeBlock_shows (s : State) (e : Nat) (w : Wing) (d : Descriptor) (m : SymbolBlock) (seq : Nat)
    (ok : d.writeOk = true) :
    (s.writeBlock e w d m seq).rd .HST_DMA_HEAD_IDX [e] =
        (s.rd .HST_DMA_HEAD_IDX [e] + 1) % s.rd .HST_DMA_RING_SIZE_N [e] % 2 ^ Row.HST_DMA_HEAD_IDX.width ∧
      (s.writeBlock e w d m seq).host.capture = s.host.capture ∧
      (blockBytes ≤ d.len → (∃ l, (s.writeBlock e w d m seq).out = s.out ++ .hostBlock d.addr (s.blockData e w m seq) :: l) ∧
        (s.writeBlock e w d m seq).host.budgetUsed = s.host.budgetUsed + blockBytes) := by
  unfold State.writeBlock
  rw [ok]
  simp only [Bool.not_true, Bool.false_eq_true, if_false]
  split
  next short =>
    obtain ⟨head, capture, -⟩ := ((s.fresh 2).2.writeStatus e (2 ^ 30 + 2 ^ 31 * (s.fresh 2).1)).advanceHead_shows e
    exact ⟨head, capture, fun long => absurd short (not_lt.mpr long)⟩
  next long =>
    obtain ⟨head, capture, budget, l, out⟩ := (s.placeBlock e d.addr (s.blockData e w m seq)).advanceHead_shows e
    rw [State.placeBlock_rd, State.placeBlock_rd] at head
    rw [State.placeBlock_out, List.append_assoc] at out
    exact ⟨head, capture, fun _ => ⟨⟨_, out⟩, budget⟩⟩

end

/-- Settles O46, by what is written of a block and what a skipped one counts. -/
theorem captureEngines : Obligations.CaptureEngines := by
  intro s
  refine ⟨fun e d m on goes ok => captureBlock_answers on ?_, fun e d m on goes bad => captureBlock_answers on ?_,
    fun e d m on skipped => captureBlock_answers on ?_⟩
  · have goes' : ¬ s.begin.blockSkipped e = true := by
      rw [show s.begin.blockSkipped e = false from goes]
      exact Bool.false_ne_true
    obtain ⟨head, capture, long⟩ := (s.begin.numberBlock e).writeBlock_shows e (s.begin.captureWing e) d m
      (tabGet 0 s.begin.host.capture e) ok
    rw [State.capture_eq, if_neg goes', capture]
    refine ⟨head, State.numberBlock_capture .., fun fits => ?_⟩
    obtain ⟨⟨l, out⟩, budget⟩ := long fits
    exact ⟨congrArg List.head? out, budget⟩
  · have goes' : ¬ s.begin.blockSkipped e = true := by
      rw [show s.begin.blockSkipped e = false from goes]
      exact Bool.false_ne_true
    rw [State.capture_eq, if_neg goes', State.writeBlock, bad]
    exact State.captureError_shows _ _
  · have skipped' : s.begin.blockSkipped e = true := skipped
    rw [State.capture_eq, if_pos skipped']
    have counted {p : Part} (hp : p ≠ .pmu) := (s.begin.numberBlock e).count_same .HST_DMA_SKIPPED_COUNT [e] 1 hp
    refine ⟨State.rd_count_self _ _ _ _, State.rd_count_ne _ (by decide) _ _ _, counted (p := .out) (by decide), ?_⟩
    rw [show ((s.begin.numberBlock e).count .HST_DMA_SKIPPED_COUNT [e]).host = (s.begin.numberBlock e).host from
      counted (p := .host) (by decide)]
    exact State.numberBlock_capture ..

end Sys2Proof.Machine
end

section
/-!
What the operations of the pantry and the scheduler leave of the queues (R285, R306), and the scheduler's commands
(R306, R311 to R317): O33.
-/

namespace Sys2Proof.Machine

-- One theorem at a time bounds the memory of the whole text's check.
set_option Elab.async false

section
variable {s : State}

/-! ### What leaves the queues alone -/

@[simp] theorem State.moveDesc_queues (s : State) (q : Nat) (own : Bool) (d : Nat → Nat) :
    (s.moveDesc q own d).pan.queues = s.pan.queues := by
  unfold State.moveDesc State.showDesc
  dsimp only
  repeat' split
  all_goals rfl

@[simp] theorem State.freeCells_pan (s : State) (q n : Nat) (src : CellSource) : (s.freeCells q n src).pan = s.pan := by
  cases src <;> rfl

@[simp] theorem State.releaseFrame_queues (s : State) (q : Nat) (x : Queued) :
    (s.releaseFrame q x).pan.queues = s.pan.queues := by
  unfold State.releaseFrame
  dsimp only
  have moved := s.moveDesc_queues q x.descReserve (· - 1)
  generalize s.moveDesc q x.descReserve (· - 1) = t at moved ⊢
  split
  next => rw [State.freeCells_pan, moved]
  next =>
    split
    next => exact moved
    next =>
      split
      next => rw [State.freeCells_pan]; exact moved
      next => exact moved

@[simp] theorem State.setXoff_queues (s : State) (p c : Nat) (off : Bool) :
    (s.setXoff p c off).pan.queues = s.pan.queues := by
  unfold State.setXoff
  dsimp only
  cases off <;> rfl

@[simp] theorem State.watch_queues (s : State) (q : Nat) (rise : Bool) :
    (s.watch q rise).pan.queues = s.pan.queues := by
  unfold State.watch
  split
  next p _ =>
    unfold State.watchClass
    dsimp only
    split
    next => rfl
    next =>
      repeat' split
      all_goals simp only [State.setXoff_queues]
  next => rfl

@[simp] theorem State.headTag_pan (s : State) (q start : Nat) : (s.headTag q start).pan = s.pan := by
  unfold State.headTag
  split <;> rfl

@[simp] theorem State.restGroup_pan (s : State) (q : Nat) : (s.restGroup q).pan = s.pan := by
  unfold State.restGroup
  dsimp only
  split <;> rfl

@[simp] theorem State.count_pan (s : State) (r : Row) (ix : List Nat) (n : Nat) : (s.count r ix n).pan = s.pan :=
  s.count_same r ix n (p := .pan) (by decide)

@[simp] theorem State.checkTest_queues (s : State) (atPort : Bool) (place : Nat) (f : Frame) :
    (s.checkTest atPort place f).pan.queues = s.pan.queues := by
  unfold State.checkTest
  dsimp only
  split
  next => rfl
  next n _ =>
    split
    next =>
      have kept (t : State) (c : Bool) (r : Row) (ix : List Nat) : (t.when c (·.count r ix)).pan = t.pan := by
        unfold State.when
        split <;> simp only [State.count_pan]
      rw [kept, kept, State.count_pan]
    next => rfl

@[simp] theorem State.charge_pan (s : State) (q len : Nat) : (s.charge q len).pan = s.pan :=
  (State.charge_within (.refl _ s) (covers_self _) q len).part .pan (by decide +kernel)

@[simp] theorem State.busyWith_pan (s : State) (q len : Nat) : (s.busyWith q len).pan = s.pan :=
  (State.busyWith_within (.refl _ s) (covers_self _) q len).part .pan (by decide +kernel)

@[simp] theorem State.tagOut_pan (s : State) (q : Nat) (tag : Option Nat) : (s.tagOut q tag).pan = s.pan :=
  (State.tagOut_within (.refl _ s) (covers_self _) q tag).part .pan (by decide +kernel)

@[simp] theorem State.mapFrame_pan (s : State) (ch : Nat) (f : Frame) : (s.mapFrame ch f).pan = s.pan :=
  (State.mapFrame_within (.refl _ s) (covers_self _) ch f).part .pan (by decide +kernel)

@[simp] theorem State.readCells_pan (s : State) (x : Queued) (line : MemLine) (found : EccRead) :
    (s.readCells x line found).2.pan = s.pan :=
  (State.readCells_within (.refl _ s) (covers_self _) x line found).part .pan (by decide +kernel)

@[simp] theorem State.correct_pan (s : State) (l : MemLine) : (s.correct l).pan = s.pan :=
  (State.correct_within (.refl _ s) (covers_self _) l).part .pan (by decide +kernel)

@[simp] theorem State.handOn_queues (s : State) (q : Nat) (f : Frame) : (s.handOn q f).pan.queues = s.pan.queues := by
  unfold State.handOn
  dsimp only
  split
  next => exact congrArg Pantry.queues (s.mapFrame_pan (q / 8) f)
  next =>
    have kept : (((s.count .CLI_TX_FRAMES_COUNT [(q - 512) / 8]).checkTest true ((q - 512) / 8) f)).pan.queues =
        s.pan.queues := by rw [State.checkTest_queues, State.count_pan]
    cases State.patterned _ _ <;> exact kept

/-! ### What a queue holds -/

theorem State.queue_congr {s t : State} (h : t.pan.queues = s.pan.queues) (q : Nat) : t.queue q = s.queue q :=
  congrArg (tabGet [] · q) h

@[simp] theorem State.setQueue_queue (s : State) (q : Nat) (fs : List Queued) : (s.setQueue q fs).queue q = fs := by
  unfold State.setQueue State.wrQ
  split <;> exact tabGet_set_self ..

/-- R306: the head leaves its queue. -/
theorem State.pop_queue {q : Nat} {x : Queued} {rest : List Queued} (head : s.queue q = x :: rest) :
    (s.pop q).queue q = rest := by
  unfold State.pop
  rw [head]
  dsimp only
  rw [State.queue_congr (t := State.watch _ _ _) (State.watch_queues ..),
    State.queue_congr (t := State.restGroup _ _) (congrArg Pantry.queues (State.restGroup_pan ..)),
    State.queue_congr (t := State.headTag _ _ _) (congrArg Pantry.queues (State.headTag_pan ..)),
    State.queue_congr (t := State.releaseFrame _ _ _) (State.releaseFrame_queues ..), State.setQueue_queue]

/-- R306: a selection whose descriptor can be read removes the head. -/
theorem State.select_queue {q : Nat} {line : MemLine} {found : EccRead} {x : Queued} {rest : List Queued}
    (head : s.queue q = x :: rest) (read : (s.descFound x line found).2 ≠ .double) :
    (s.select q line found).queue q = rest := by
  unfold State.select
  rw [head]
  dsimp only
  split
  next bad => exact absurd bad read
  next =>
    generalize decide ((s.descFound x line found).2 = .single) = single
    generalize hc : (s.when single (·.correct (s.descFound x line found).1)).readCells x line found = c
    have kept : c.2.pan = s.pan := by
      rw [← hc, State.readCells_pan]
      cases single
      · rfl
      · exact State.correct_pan ..
    have head' : ((c.2.charge q x.frame.len).busyWith q x.frame.len).queue q = x :: rest := by
      rw [← head]
      refine State.queue_congr (congrArg Pantry.queues ?_) q
      rw [State.busyWith_pan, State.charge_pan, kept]
    rw [State.queue_congr (t := State.tagOut _ _ _) (congrArg Pantry.queues (State.tagOut_pan ..)),
      State.queue_congr (t := State.handOn _ _ _) (State.handOn_queues ..), State.pop_queue head']

/-! ### Gate control lists -/

/-- R312: the next entry starts where the entry in force ends. -/
theorem State.nextEntry_entryAt (s : State) (ch : Nat) : tabGet 0 (s.nextEntry ch).sched.entryAt ch =
    s.gateNow ch + ((s.gateList ch).at_ (s.gateNow ch)).2.2 := by
  have taken (t : State) : (t.takeGateEn ch).sched.entryAt = t.sched.entryAt := rfl
  have overrun (t : State) (old new at_ : Nat) : (t.overrun ch old new at_).sched = t.sched :=
    (State.overrun_within (.refl _ t) (covers_self _) ch old new at_).part .sched (by decide +kernel)
  have reguard (t : State) : (t.reguard ch).sched = t.sched :=
    (State.reguard_within (.refl _ t) (covers_self _) ch).part .sched (by decide +kernel)
  have shown (t : State) : (t.showGates ch).sched = t.sched := rfl
  unfold State.nextEntry
  dsimp only
  rw [shown]
  unfold State.when
  split <;> split <;> simp only [reguard, overrun, taken] <;> exact tabGet_set_self ..

/-- R313: T_new is kept. -/
def State.setNewTime (s : State) (ch n : Nat) : State :=
  { s with sched := { s.sched with tNew := tabSet 0 s.sched.tNew ch n } }

theorem State.setNewTime_rd (s : State) (ch n : Nat) (r : Row) (ix : List Nat) :
    (s.setNewTime ch n).rd r ix = s.rd r ix := rfl

theorem State.activateGates_eq (s : State) (ch : Nat) :
    s.activateGates ch = (s.wrb .SCH_GCL_STAT_PENDING [ch] true).setNewTime ch (s.newTime ch) := rfl

/-- R313: what a commit of the staged bank holds. -/
theorem State.activateGates_shows (s : State) (ch : Nat) :
    (s.activateGates ch).flag .SCH_GCL_STAT_PENDING [ch] = true ∧
      tabGet 0 (s.activateGates ch).sched.tNew ch = s.newTime ch := by
  rw [State.activateGates_eq]
  refine ⟨?_, tabGet_set_self ..⟩
  rw [State.flag, State.setNewTime_rd]
  exact State.flag_wrb_self s .SCH_GCL_STAT_PENDING [ch] true (by decide)

theorem State.activateGates_rd (s : State) (ch : Nat) {r : Row} (h : Row.SCH_GCL_STAT_PENDING.id ≠ r.id)
    (ix : List Nat) : (s.activateGates ch).rd r ix = s.rd r ix := by
  rw [State.activateGates_eq, State.setNewTime_rd, State.rd_wrb_ne s h]

/-- R313, R317: the staged cycle is kept within its limits. -/
theorem State.gateTiming_cycle (s : State) (ch c : Nat) :
    (s.gateTiming ch (some c) none).rd .SCH_GCL_CYCLE_CYCLE [ch] = max 1000 (min 1000000000 c) := by
  have fits : max 1000 (min 1000000000 c) < 2 ^ Row.SCH_GCL_CYCLE_CYCLE.width := by
    have : 2 ^ Row.SCH_GCL_CYCLE_CYCLE.width = 2 ^ 30 := rfl
    omega
  unfold State.gateTiming
  dsimp only
  rw [State.rd_when (f := (·.activateGates ch)) (State.activateGates_rd _ _ (by decide) _), State.rd_wr_self,
    Nat.mod_eq_of_lt fits]

/-- R313, R317: the staged base takes a written value. -/
theorem State.gateTiming_base (s : State) (ch b : Nat) :
    (s.gateTiming ch none (some b)).rdWide .SCH_GCL_BASE_LO_BASE .SCH_GCL_BASE_HI_BASE [ch] = b % 2 ^ 64 := by
  unfold State.gateTiming
  dsimp only
  rw [State.rdWide, State.rd_when (f := (·.activateGates ch)) (State.activateGates_rd _ _ (by decide) _),
    State.rd_when (f := (·.activateGates ch)) (State.activateGates_rd _ _ (by decide) _), State.wrWide,
    State.rd_wr_self, State.rd_wr_ne _ (by decide), State.rd_wr_self]
  have : Row.SCH_GCL_BASE_LO_BASE.width = 32 ∧ Row.SCH_GCL_BASE_HI_BASE.width = 32 := ⟨rfl, rfl⟩
  rw [this.1, this.2]
  omega

/-- R313: the list that has become operative. -/
def State.takeList (s : State) (ch at_ : Nat) (l : GateList) : State :=
  { s.setEntryAt ch at_ with sched := { (s.setEntryAt ch at_).sched with
    oper := tabSet GateList.open_ (s.setEntryAt ch at_).sched.oper ch l
    tNew := tabErase (s.setEntryAt ch at_).sched.tNew ch } }

theorem State.takeList_rd (s : State) (ch at_ : Nat) (l : GateList) (r : Row) (ix : List Nat) :
    ((s.takeList ch at_ l).takeGateEn ch).rd r ix = s.rd r ix := rfl

/-- R313: the staged list is operative, and nothing is pending. -/
def State.swapList (s : State) (ch : Nat) : State :=
  ((s.wrb .SCH_GCL_STAT_PENDING [ch] false).takeList ch (max s.mt (tabGet 0 s.sched.tNew ch))
    (s.stagedList ch)).takeGateEn ch

theorem State.swapList_rd (s : State) (ch : Nat) (r : Row) (ix : List Nat) :
    (s.swapList ch).rd r ix = (s.wrb .SCH_GCL_STAT_PENDING [ch] false).rd r ix := by
  rw [State.swapList, State.takeList_rd]

theorem State.swapList_gateList (s : State) (ch : Nat) : (s.swapList ch).gateList ch = s.stagedList ch :=
  tabGet_set_self ..

/-- R313: the staged list after PENDING has fallen is the same. -/
theorem State.stagedList_settled (s : State) (ch at_ : Nat) (b : Bool) :
    ((s.wrb .SCH_GCL_STAT_PENDING [ch] b).setEntryAt ch at_).stagedList ch = s.stagedList ch := by
  have stamped (t : State) (r : Row) : (t.setEntryAt ch at_).rd r [ch] = t.rd r [ch] := rfl
  have kept {r : Row} (h : Row.SCH_GCL_STAT_PENDING.id ≠ r.id) :
      ((s.wrb .SCH_GCL_STAT_PENDING [ch] b).setEntryAt ch at_).rd r [ch] = s.rd r [ch] := by
    rw [stamped, State.rd_wrb_ne s h]
  have entries (t : State) : (t.setEntryAt ch at_).stagedEntry ch = t.stagedEntry ch := rfl
  have written (r : Row) : (s.wrb r [ch] b).stagedEntry ch = s.stagedEntry ch := rfl
  unfold State.stagedList State.rdWide
  rw [kept (by decide), kept (by decide), kept (by decide), kept (by decide), entries, written]

theorem State.swapGates_of_pending {ch : Nat} (due : s.flag .SCH_GCL_STAT_PENDING [ch] = true) :
    s.swapGates ch = ((((s.swapList ch).overrun ch (s.gates ch) ((s.swapList ch).gates ch)
      (max s.mt (tabGet 0 s.sched.tNew ch))).reguard ch).showGates ch).evt .SCH_EVT_GCL_SWAPPED := by
  unfold State.swapGates
  rw [due]
  simp only [Bool.not_true, Bool.false_eq_true, if_false]
  rw [State.stagedList_settled]
  rfl

/-- R313: at T_new the staged list is operative. -/
theorem State.swapGates_shows (s : State) (ch : Nat) (due : s.flag .SCH_GCL_STAT_PENDING [ch] = true) :
    (s.swapGates ch).flag .SCH_GCL_STAT_PENDING [ch] = false ∧ (s.swapGates ch).gateList ch = s.stagedList ch ∧
      (s.swapGates ch).flag .SCH_EVT_GCL_SWAPPED = true := by
  have overrunSched (t : State) (old new at_ : Nat) : (t.overrun ch old new at_).sched = t.sched :=
    (State.overrun_within (.refl _ t) (covers_self _) ch old new at_).part .sched (by decide +kernel)
  have overrunFlag (t : State) (old new at_ : Nat) : (t.overrun ch old new at_).flag .SCH_GCL_STAT_PENDING [ch] =
      t.flag .SCH_GCL_STAT_PENDING [ch] :=
    (State.overrun_within (.refl _ t) (covers_self _) ch old new at_).keepsFlag (by decide +kernel) _
  have reguardSched (t : State) : (t.reguard ch).sched = t.sched :=
    (State.reguard_within (.refl _ t) (covers_self _) ch).part .sched (by decide +kernel)
  have reguardFlag (t : State) : (t.reguard ch).flag .SCH_GCL_STAT_PENDING [ch] =
      t.flag .SCH_GCL_STAT_PENDING [ch] :=
    (State.reguard_within (.refl _ t) (covers_self _) ch).keepsFlag (by decide +kernel) _
  have shownSched (t : State) : (t.showGates ch).sched = t.sched := rfl
  have shownFlag (t : State) : (t.showGates ch).flag .SCH_GCL_STAT_PENDING [ch] =
      t.flag .SCH_GCL_STAT_PENDING [ch] := by
    rw [State.showGates, State.flag_wr_ne _ (by decide), State.flag_wr_ne _ (by decide)]
  rw [State.swapGates_of_pending due]
  refine ⟨?_, ?_, State.flag_evt_self _ _ _ rfl (by decide)⟩
  · rw [State.flag_evt_ne _ (by decide), shownFlag, reguardFlag, overrunFlag, State.flag, State.swapList_rd]
    exact State.flag_wrb_self s .SCH_GCL_STAT_PENDING [ch] false (by decide)
  · rw [State.gateList, State.evt_sched, shownSched, reguardSched, overrunSched]
    exact s.swapList_gateList ch

/-- R317: the staged entry is stored, and IDX advances. -/
theorem State.storeEntry_shows (s : State) (ivl : Nat) :
    (s.storeEntry ivl).stagedEntry (s.rd .SCH_GCL_WSEL_CH) (s.rd .SCH_GCL_WSEL_IDX) =
        (s.rd .SCH_GCL_WGATE_GATES, max 1 (min 1000000000 ivl)) ∧
      (s.storeEntry ivl).rd .SCH_GCL_WSEL_IDX = (s.rd .SCH_GCL_WSEL_IDX + 1) % 2 ^ Row.SCH_GCL_WSEL_IDX.width :=
  ⟨tabGet_set_self .., State.rd_wr_self ..⟩

end

/-- Settles O33: a selection by what it leaves of the queue, the gate lists by what each operation stores. -/
theorem schedulerAndGates : Obligations.SchedulerAndGates := by
  intro s
  refine ⟨fun inst line found q x rest chosen head read => ?_, fun ch => ⟨_, rfl, s.begin.nextEntry_entryAt ch⟩,
    fun req ch taken => answers_via (exec_gclActivate ..) taken (s.begin.activateGates_shows ch),
    fun req ch c b taken =>
      ⟨answers_via (exec_gclTimingWrite ..) taken (s.begin.gateTiming_cycle ch c),
        answers_via (exec_gclTimingWrite ..) taken (s.begin.gateTiming_base ch b)⟩,
    fun ch due => ⟨_, rfl, s.begin.swapGates_shows ch due⟩,
    fun req ivl taken => answers_via (exec_gclWivlWrite ..) taken (s.begin.storeEntry_shows ivl)⟩
  refine ⟨s.begin.select q line found, ?_, State.select_queue (s := s.begin) head read⟩
  have chosen' : s.begin.choose inst = some q := chosen
  rw [exec_schedSelect, execSchedSelect, chosen']

end Sys2Proof.Machine
end

section
/-!
The lanes (R321 to R330): what each operation of a lane shows and leaves alone, and O34.
-/

namespace Sys2Proof.Machine

-- One theorem at a time bounds the memory of the whole text's check.
set_option Elab.async false

section
variable {s : State} {cor : Bool} {l : Nat}

/-! ### The rows of the two families -/

/-- A row of either family that both tests hold for. -/
theorem laneRow_cases {P : Row → Prop} (cor : Bool) {a b : Row} (sds : P a) (corr : P b) : P (laneRow cor a b) := by
  cases cor
  · exact sds
  · exact corr

/-- An event bit of a bitmap row is set. -/
theorem State.evt_testBit (s : State) (r : Row) (ix : List Nat) {b : Nat} (hb : b < r.width)
    (bell : ∀ x ∈ bellRows, x.id ≠ r.id) : ((s.evt r ix b).rd r ix).testBit b = true := by
  unfold State.evt
  split
  next set => exact set
  next =>
    rw [State.ring_keeps _ _ r ix bell, State.bit, State.rd_wr_self, Nat.testBit_mod_two_pow, setBit]
    simp [hb]

theorem laneRow_upChange_width (cor : Bool) {l : Nat} (own : l < laneCount cor) :
    l < (laneRow cor .SDS_EVT_UP_CHANGE .COR_LANE_EVT_UP_CHANGE).width := by
  cases cor <;> exact own

/-! ### A lane's stage (R321, R326) -/

theorem State.upChange_rd (s : State) (cor : Bool) (l : Nat) {r : Row} (h : spares State.upChange_touch r = true)
    (ix : List Nat) : (s.upChange cor l).rd r ix = s.rd r ix :=
  (State.upChange_within (.refl _ s) (covers_self _) cor l).keeps h ix

theorem State.setStage_rd (s : State) (cor : Bool) (l st : Nat) {r : Row} (h : spares State.setStage_touch r = true)
    (ix : List Nat) : (s.setStage cor l st).rd r ix = s.rd r ix :=
  (State.setStage_within (.refl _ s) (covers_self _) cor l st).keeps h ix

theorem upChange_spares_stage (cor : Bool) :
    spares State.upChange_touch (laneRow cor .SDS_LANE_STAT_STAGE .COR_LANE_STAT_STAGE) = true := by
  cases cor <;> decide +kernel

/-- R321: the stage written. -/
theorem State.setStage_stage (s : State) (cor : Bool) (l : Nat) {st : Nat} (fits : st < 16) :
    (s.setStage cor l st).stage cor l = st := by
  have written : (s.wr (laneRow cor .SDS_LANE_STAT_STAGE .COR_LANE_STAT_STAGE) [l] st).stage cor l = st := by
    rw [State.stage, State.rd_wr_self]
    cases cor <;> exact Nat.mod_eq_of_lt fits
  unfold State.setStage
  dsimp only
  split
  next => exact written
  next =>
    rw [State.stage, State.upChange_rd _ _ _ (upChange_spares_stage cor)]
    exact written

/-- R330: UP_CHANGE shows the lane. -/
theorem State.upChange_rings (s : State) (own : l < laneCount cor) :
    ((s.upChange cor l).rd (laneRow cor .SDS_EVT_UP_CHANGE .COR_LANE_EVT_UP_CHANGE)).testBit l = true := by
  have bell : ∀ x ∈ bellRows, x.id ≠ (laneRow cor .SDS_EVT_UP_CHANGE .COR_LANE_EVT_UP_CHANGE).id := by
    cases cor <;> decide
  have spared : spares State.laneLink_touch (laneRow cor .SDS_EVT_UP_CHANGE .COR_LANE_EVT_UP_CHANGE) = true := by
    cases cor <;> decide +kernel
  rw [State.upChange, (State.laneLink_within (.refl _ _) (covers_self _) cor l).keeps spared]
  exact State.evt_testBit _ _ _ (laneRow_upChange_width cor own) bell

/-- R326, R330: a lane that leaves UP rings. -/
theorem State.setStage_rings (s : State) (own : l < laneCount cor) (up : s.stage cor l = 7) {st : Nat} (down : st ≠ 7) :
    ((s.setStage cor l st).rd (laneRow cor .SDS_EVT_UP_CHANGE .COR_LANE_EVT_UP_CHANGE)).testBit l = true := by
  unfold State.setStage
  dsimp only
  rw [if_neg (by simp [up, down])]
  exact State.upChange_rings _ own

@[simp] theorem State.markLane_rd (s : State) (cor : Bool) (l : Nat) (waiting kept warm : Bool) (r : Row)
    (ix : List Nat) : (s.markLane cor l waiting kept warm).rd r ix = s.rd r ix := by
  cases cor <;> rfl

@[simp] theorem State.setCtle_rd (s : State) (cor : Bool) (l i : Nat) (r : Row) (ix : List Nat) :
    (s.setCtle cor l i).rd r ix = s.rd r ix := by
  cases cor <;> rfl

/-- R321: the lane's own rows of a start. -/
theorem startRows_ne_stage (cor : Bool) :
    ∀ x ∈ [laneRow cor .SDS_LANE_STAT_RX_INV .COR_LANE_STAT_RX_INV,
      laneRow cor .SDS_LANE_STAT_ADAPTIVE .COR_LANE_STAT_ADAPTIVE,
      laneRow cor .SDS_LANE_STAT_REVERSED .COR_LANE_STAT_REVERSED],
      x.id ≠ (laneRow cor .SDS_LANE_STAT_STAGE .COR_LANE_STAT_STAGE).id := by
  cases cor <;> decide

/-- R321, R326: a lane starts over, and rings when it was up. -/
theorem State.laneStart_shows (s : State) (own : l < laneCount cor) :
    (s.laneStart cor l).stage cor l = 0 ∧ (s.stage cor l = 7 →
      ((s.laneStart cor l).rd (laneRow cor .SDS_EVT_UP_CHANGE .COR_LANE_EVT_UP_CHANGE)).testBit l = true) := by
  refine ⟨State.setStage_stage _ _ _ (by decide), fun up => State.setStage_rings _ own ?_ (by decide)⟩
  rw [State.stage, State.rd_zero _ _ _ (startRows_ne_stage cor), State.markLane_rd]
  exact up

/-! ### Which lanes run -/

theorem State.own_of_laneRuns (runs : s.laneRuns cor l = true) : l < laneCount cor := by
  simp only [State.laneRuns, Bool.and_eq_true, decide_eq_true_eq] at runs
  exact runs.1.1.1

theorem State.runs_of_laneSeq (seq : s.laneSeq cor l = true) : s.laneRuns cor l = true := by
  simp only [State.laneSeq, Bool.and_eq_true] at seq
  exact seq.1

/-! ### Steps (R321 to R324) -/

theorem State.passSix_rd (s : State) (cor : Bool) (l : Nat) {r : Row} (h : spares State.passSix_touch r = true)
    (ix : List Nat) : (s.passSix cor l).rd r ix = s.rd r ix :=
  (State.passSix_within (.refl _ s) (covers_self _) cor l).keeps h ix

theorem State.setTaps_rd (s : State) (cor : Bool) (l : Nat) (taps : List Int) {r : Row}
    (h : spares State.setTaps_touch r = true) (ix : List Nat) : (s.setTaps cor l taps).rd r ix = s.rd r ix :=
  (State.setTaps_within (.refl _ s) (covers_self _) cor l taps).keeps h ix

theorem State.adaptBy_rd (s : State) (cor : Bool) (l : Nat) (m : SlicerRun) {r : Row}
    (h : spares State.adaptBy_touch r = true) (ix : List Nat) : (s.adaptBy cor l m).rd r ix = s.rd r ix :=
  (State.adaptBy_within (.refl _ s) (covers_self _) cor l m).keeps h ix

/-- R321 step 3: the marker's complement is kept. -/
theorem State.stepMarker_shows (s : State) (inverted : Bool) :
    let t := s.wrb (laneRow cor .SDS_LANE_STAT_RX_INV .COR_LANE_STAT_RX_INV) [l] inverted
    (t.passSix cor l).flag (laneRow cor .SDS_LANE_STAT_RX_INV .COR_LANE_STAT_RX_INV) [l] = inverted ∧
      (t.setStage cor l 3).flag (laneRow cor .SDS_LANE_STAT_RX_INV .COR_LANE_STAT_RX_INV) [l] = inverted := by
  have positive : 0 < (laneRow cor .SDS_LANE_STAT_RX_INV .COR_LANE_STAT_RX_INV).width := by cases cor <;> decide
  have byPass : spares State.passSix_touch (laneRow cor .SDS_LANE_STAT_RX_INV .COR_LANE_STAT_RX_INV) = true := by
    cases cor <;> decide +kernel
  have byStage : spares State.setStage_touch (laneRow cor .SDS_LANE_STAT_RX_INV .COR_LANE_STAT_RX_INV) = true := by
    cases cor <;> decide +kernel
  dsimp only
  refine ⟨?_, ?_⟩
  · rw [State.flag, State.passSix_rd _ _ _ byPass]
    exact State.flag_wrb_self _ _ _ _ positive
  · rw [State.flag, State.setStage_rd _ _ _ _ byStage]
    exact State.flag_wrb_self _ _ _ _ positive

/-- R323: adapting shows. -/
theorem State.adapt_adaptive (s : State) (cor : Bool) (l : Nat) :
    (s.adapt cor l).flag (laneRow cor .SDS_LANE_STAT_ADAPTIVE .COR_LANE_STAT_ADAPTIVE) [l] = true := by
  have positive : 0 < (laneRow cor .SDS_LANE_STAT_ADAPTIVE .COR_LANE_STAT_ADAPTIVE).width := by cases cor <;> decide
  have spared : spares State.setTaps_touch (laneRow cor .SDS_LANE_STAT_ADAPTIVE .COR_LANE_STAT_ADAPTIVE) = true := by
    cases cor <;> decide +kernel
  rw [State.adapt, State.flag, State.setTaps_rd _ _ _ _ spared]
  exact State.flag_wrb_self _ _ _ _ positive

/-- R321 step 5, R323: a figure of merit below FOM_MIN makes the lane adapt. -/
theorem State.stepFom_low (s : State) (r : LaneResult) (low : fomOf r.run < s.fomMin cor l) :
    (s.stepFom cor l r).stage cor l = 5 ∧
      (s.stepFom cor l r).flag (laneRow cor .SDS_LANE_STAT_ADAPTIVE .COR_LANE_STAT_ADAPTIVE) [l] = true := by
  have other : (laneRow cor .SDS_LANE_FOM_FOM .COR_LANE_FOM_FOM).id ≠
      (laneRow cor .SDS_RXEQ_FOM_MIN .COR_RXEQ_FOM_MIN).id := by cases cor <;> decide
  have spared : spares State.setStage_touch (laneRow cor .SDS_LANE_STAT_ADAPTIVE .COR_LANE_STAT_ADAPTIVE) = true := by
    cases cor <;> decide +kernel
  have low' : fomOf r.run < (s.setFom cor l r.run).fomMin cor l := by
    rw [State.fomMin, State.setFom, State.wrS, State.rd_wr_ne _ other]
    exact low
  unfold State.stepFom
  dsimp only
  rw [if_pos (by simp [low'])]
  refine ⟨State.setStage_stage _ _ _ (by decide), ?_⟩
  rw [State.flag, State.setStage_rd _ _ _ _ spared]
  exact State.adapt_adaptive ..

/-- R321 step 3, R331: after the marker a lane goes on to its equaliser, or a warm one to its port. -/
theorem State.laneStep_marker (s : State) (r : LaneResult) (going : (s.laneSet cor).waiting.testBit l = false)
    (at2 : s.stage cor l = 2) : s.laneStep cor l r = if (s.laneSet cor).warm.testBit l = true
      then (s.wrb (laneRow cor .SDS_LANE_STAT_RX_INV .COR_LANE_STAT_RX_INV) [l] r.inverted).passSix cor l
      else (s.wrb (laneRow cor .SDS_LANE_STAT_RX_INV .COR_LANE_STAT_RX_INV) [l] r.inverted).setStage cor l 3 := by
  have warm : ((s.wrb (laneRow cor .SDS_LANE_STAT_RX_INV .COR_LANE_STAT_RX_INV) [l] r.inverted).laneSet cor).warm =
      (s.laneSet cor).warm := by cases cor <;> rfl
  unfold State.laneStep
  simp only [going, at2, Bool.false_and, Bool.false_eq_true, if_false, warm]

/-- R321: the steps of a lane that does not wait. -/
theorem State.laneStep_shows (s : State) (r : LaneResult) (going : (s.laneSet cor).waiting.testBit l = false) :
    (s.stage cor l = 1 → (s.laneStep cor l r).stage cor l = 2) ∧
    (s.stage cor l = 3 → (s.laneStep cor l r).stage cor l = 4) ∧
    (s.stage cor l = 2 →
      (s.laneStep cor l r).flag (laneRow cor .SDS_LANE_STAT_RX_INV .COR_LANE_STAT_RX_INV) [l] = r.inverted ∧
      ((s.laneSet cor).warm.testBit l = false → (s.laneStep cor l r).stage cor l = 3)) ∧
    (s.stage cor l = 4 → fomOf r.run < s.fomMin cor l → (s.laneStep cor l r).stage cor l = 5 ∧
      (s.laneStep cor l r).flag (laneRow cor .SDS_LANE_STAT_ADAPTIVE .COR_LANE_STAT_ADAPTIVE) [l] = true) := by
  refine ⟨fun at1 => ?_, fun at3 => ?_, fun at2 => ?_, fun at4 low => ?_⟩
  · rw [State.laneStep, if_neg (by simp [going]), at1]
    exact State.setStage_stage _ _ _ (by decide)
  · rw [State.laneStep, if_neg (by simp [going]), at3]
    exact State.setStage_stage _ _ _ (by decide)
  · obtain ⟨passes, goesOn⟩ := s.stepMarker_shows (cor := cor) (l := l) r.inverted
    rw [s.laneStep_marker r going at2]
    split
    next isWarm => exact ⟨passes, fun cold => absurd isWarm (by simp [cold])⟩
    next => exact ⟨goesOn, fun _ => State.setStage_stage _ _ _ (by decide)⟩
  · rw [State.laneStep, if_neg (by simp [going]), at4]
    exact s.stepFom_low r low

/-! ### Failures (R325) -/

/-- R325: a failed lane shows its reason and counts. -/
theorem State.failLane_shows (s : State) {reason : Nat} (fits : reason < 16) :
    (s.failLane cor l reason).stage cor l = 15 ∧
      (s.failLane cor l reason).rd (laneRow cor .SDS_LANE_STAT_FAIL_REASON .COR_LANE_STAT_FAIL_REASON) [l] = reason ∧
      (s.failLane cor l reason).rd (laneRow cor .SDS_LANE_CNT_FAILS .COR_LANE_CNT_FAILS) [l] =
        (s.rd (laneRow cor .SDS_LANE_CNT_FAILS .COR_LANE_CNT_FAILS) [l] + 1) % 65536 := by
  have emits (t : State) {r : Row} (h : spares State.emit_touch r = true) (i n c : Nat) :
      (t.emit i n c).rd r [l] = t.rd r [l] :=
    (State.emit_within (.refl _ t) (covers_self _) i n c 0 0).keeps h _
  unfold State.failLane
  dsimp only
  refine ⟨?_, ?_, ?_⟩
  · rw [State.stage, emits _ (by cases cor <;> decide +kernel), State.rd_countWrap_ne _ (by cases cor <;> decide),
      State.rd_wr_ne _ (by cases cor <;> decide)]
    exact State.setStage_stage _ _ _ (by decide)
  · rw [emits _ (by cases cor <;> decide +kernel), State.rd_countWrap_ne _ (by cases cor <;> decide), State.rd_wr_self]
    cases cor <;> exact Nat.mod_eq_of_lt fits
  · have kept : spares State.setStage_touch (laneRow cor .SDS_LANE_CNT_FAILS .COR_LANE_CNT_FAILS) = true := by
      cases cor <;> decide +kernel
    rw [emits _ (by cases cor <;> decide +kernel), State.rd_countWrap_self, State.rd_wr_ne _ (by cases cor <;> decide),
      State.setStage_rd _ _ _ _ kept, State.markLane_rd]
    cases cor <;> rfl

theorem State.retryLane_single (s : State) (fails : s.stage cor l = 15) (runs : s.laneRuns cor l = true)
    (single : s.rd (laneRow cor .SDS_LANE_STAT_FAIL_REASON .COR_LANE_STAT_FAIL_REASON) [l] < 4) :
    s.retryLane cor l = s.laneStart cor l := by
  unfold State.retryLane
  dsimp only
  rw [if_neg (by omega), if_pos (by simp [runs, fails])]

/-! ### Figures of merit and patterns (R322, R329) -/

theorem State.setFom_shows (s : State) (m : SlicerRun) :
    (s.setFom cor l m).rdS (laneRow cor .SDS_LANE_FOM_FOM .COR_LANE_FOM_FOM) [l] =
      toSigned 16 (ofSigned 16 (fomOf m)) := by
  rw [State.rdS, State.setFom, State.wrS, State.rd_wr_self, Nat.mod_eq_of_lt (ofSigned_lt ..)]
  cases cor <;> rfl

/-- R322: a measurement after step 5 replaces the figure of merit. -/
theorem State.measureLane_fom (s : State) (m : SlicerRun) (low : 5 ≤ s.stage cor l) (high : s.stage cor l ≤ 7) :
    (s.measureLane cor l m).rdS (laneRow cor .SDS_LANE_FOM_FOM .COR_LANE_FOM_FOM) [l] =
      toSigned 16 (ofSigned 16 (fomOf m)) := by
  have spared : spares State.adaptBy_touch (laneRow cor .SDS_LANE_FOM_FOM .COR_LANE_FOM_FOM) = true := by
    cases cor <;> decide +kernel
  unfold State.measureLane
  dsimp only
  rw [if_pos (by simp [low, high]), State.rdS, State.rd_when (f := (·.adaptBy cor l m)) (State.adaptBy_rd _ _ _ _ spared _)]
  exact s.setFom_shows m

theorem State.measureLane_rd (s : State) (cor : Bool) (l : Nat) (m : SlicerRun) {r : Row}
    (h : spares State.measureLane_touch r = true) (ix : List Nat) : (s.measureLane cor l m).rd r ix = s.rd r ix :=
  (State.measureLane_within (.refl _ s) (covers_self _) cor l m).keeps h ix

@[simp] theorem State.onLanes_rd (s : State) (cor : Bool) (f : LaneSet → LaneSet) (r : Row) (ix : List Nat) :
    (s.onLanes cor f).rd r ix = s.rd r ix := by
  cases cor <;> rfl

theorem State.setTaps_prbs (s : State) (cor : Bool) (l : Nat) (taps : List Int) :
    ((s.setTaps cor l taps).laneSet cor).prbs = (s.laneSet cor).prbs := by
  cases cor
  · exact congrArg LaneSet.prbs
      ((State.setTaps_within (.refl _ s) (covers_self _) false l taps).part .sds (by decide +kernel))
  · exact congrArg LaneSet.prbs
      ((State.setTaps_within (.refl _ s) (covers_self _) true l taps).part .corLanes (by decide +kernel))

theorem State.setCtle_prbs (s : State) (cor : Bool) (l i : Nat) :
    ((s.setCtle cor l i).laneSet cor).prbs = (s.laneSet cor).prbs := by
  cases cor <;> rfl

theorem State.setFom_laneSet (s : State) (cor : Bool) (l : Nat) (m : SlicerRun) :
    (s.setFom cor l m).laneSet cor = s.laneSet cor := by
  cases cor <;> rfl

/-- R329: a measurement leaves the run of the pattern checker. -/
theorem State.measureLane_prbs (s : State) (cor : Bool) (l : Nat) (m : SlicerRun) :
    ((s.measureLane cor l m).laneSet cor).prbs = (s.laneSet cor).prbs := by
  unfold State.measureLane
  dsimp only
  split
  next =>
    unfold State.when
    split
    next =>
      unfold State.adaptBy
      dsimp only
      rw [State.setCtle_prbs, State.setTaps_prbs, State.setFom_laneSet]
    next => rw [State.setFom_laneSet]
  next => rfl

/-- R329: with the checker's pattern off there is no lock. -/
theorem State.checkPattern_off (s : State) (m : SlicerRun)
    (off : s.rd (laneRow cor .SDS_PRBS_CTL_RX_PAT .COR_PRBS_CTL_RX_PAT) [l] = 0) :
    (s.checkPattern cor l m).flag (laneRow cor .SDS_LANE_STAT_PRBS_LOCK .COR_LANE_STAT_PRBS_LOCK) [l] = false := by
  unfold State.checkPattern
  dsimp only
  rw [if_pos off, State.flag, State.onLanes_rd]
  exact State.flag_wrb_self _ _ _ _ (by cases cor <;> decide)

/-- R329: the checker counts the errors of its symbols. -/
theorem State.checkPattern_on (s : State) (m : SlicerRun)
    (on : s.rd (laneRow cor .SDS_PRBS_CTL_RX_PAT .COR_PRBS_CTL_RX_PAT) [l] ≠ 0) :
    (s.checkPattern cor l m).rd (laneRow cor .SDS_PRBS_ERR_COUNT .COR_PRBS_ERR_COUNT) [l] =
      satAdd (laneRow cor .SDS_PRBS_ERR_COUNT .COR_PRBS_ERR_COUNT).width
        (s.rd (laneRow cor .SDS_PRBS_ERR_COUNT .COR_PRBS_ERR_COUNT) [l])
        (m.errored.foldl checkSymbol (s.flag (laneRow cor .SDS_LANE_STAT_PRBS_LOCK .COR_LANE_STAT_PRBS_LOCK) [l],
          tabGet 0 (s.laneSet cor).prbs l, 0)).2.2 := by
  unfold State.checkPattern
  dsimp only
  rw [if_neg on, State.onLanes_rd, State.rd_count_self, State.rd_wrb_ne _ (by cases cor <;> decide)]

theorem State.checkPattern_fom (s : State) (m : SlicerRun) :
    (s.checkPattern cor l m).rdS (laneRow cor .SDS_LANE_FOM_FOM .COR_LANE_FOM_FOM) [l] =
      s.rdS (laneRow cor .SDS_LANE_FOM_FOM .COR_LANE_FOM_FOM) [l] :=
  congrArg (toSigned _) ((State.checkPattern_within (.refl _ s) (covers_self _) cor l m).keeps
    (by cases cor <;> decide +kernel) _)

/-! ### The fixed taps (R323) -/

theorem tapRow_flat (cor : Bool) {l k : Nat} (h : k ≠ 0) :
    (laneRow cor .SDS_DFE_ADAPT_TAP_1 .COR_DFE_ADAPT_TAP_1).flat [l, k] ≠
      (laneRow cor .SDS_DFE_ADAPT_TAP_1 .COR_DFE_ADAPT_TAP_1).flat [l, 0] := by
  cases cor <;> simp [laneRow, Row.flat, Row.SDS_DFE_ADAPT_TAP_1, Row.COR_DFE_ADAPT_TAP_1, h]

/-- R323: one of the four taps that a word of DFE_ADAPT holds. -/
theorem State.setTaps_tap1 (s : State) (cor : Bool) (l : Nat) (taps : List Int) (low : -128 ≤ taps.getD 1 0)
    (high : taps.getD 1 0 ≤ 127) :
    (s.setTaps cor l taps).rdS (laneRow cor .SDS_DFE_ADAPT_TAP_1 .COR_DFE_ADAPT_TAP_1) [l, 0] = taps.getD 1 0 := by
  have apart23 : (laneRow cor .SDS_DFE_ADAPT_TAP_3 .COR_DFE_ADAPT_TAP_3).id ≠
        (laneRow cor .SDS_DFE_ADAPT_TAP_1 .COR_DFE_ADAPT_TAP_1).id ∧
      (laneRow cor .SDS_DFE_ADAPT_TAP_2 .COR_DFE_ADAPT_TAP_2).id ≠
        (laneRow cor .SDS_DFE_ADAPT_TAP_1 .COR_DFE_ADAPT_TAP_1).id ∧
      (laneRow cor .SDS_DFE_ADAPT_TAP_0 .COR_DFE_ADAPT_TAP_0).id ≠
        (laneRow cor .SDS_DFE_ADAPT_TAP_1 .COR_DFE_ADAPT_TAP_1).id := by cases cor <;> decide
  obtain ⟨h3, h2, h0⟩ := apart23
  unfold State.setTaps
  refine State.upTo_establishes (Q := fun _ => True) (k := 0)
    (P := fun t : State => t.rdS (laneRow cor .SDS_DFE_ADAPT_TAP_1 .COR_DFE_ADAPT_TAP_1) [l, 0] = taps.getD 1 0)
    (by decide) trivial (fun _ _ _ _ => trivial) (fun t _ => ?_) (fun t m hm ht => ?_)
  · dsimp only
    rw [State.rdS, State.wrS, State.rd_wr_ne _ h3, State.wrS, State.rd_wr_ne _ h2]
    exact State.rdS_wrS_self _ _ _ (by cases cor <;> decide) (by cases cor <;> exact low)
      (by cases cor <;> exact Int.lt_add_one_of_le high)
  · dsimp only
    rw [State.rdS, State.wrS, State.rd_wr_ne _ h3, State.wrS, State.rd_wr_ne _ h2, State.wrS,
      State.rd_wr_inst _ _ (tapRow_flat cor (by omega)), State.wrS, State.rd_wr_ne _ h0]
    exact ht

end

/-! ### The commands -/

theorem laneSignalDetect_answers {s : State} {cor : Bool} {l : Fin 32} (seq : s.laneSeq cor l = true)
    (off : s.stage cor l = 0) {P : State → Prop} (hP : P ((s.begin.setCtle cor l 16).setStage cor l 1)) :
    Answers (.laneSignalDetect cor l) s P := by
  refine ⟨_, ?_, hP⟩
  have seq' : s.begin.laneSeq cor l = true := seq
  have off' : s.begin.stage cor l = 0 := off
  rw [exec_laneSignalDetect, execLaneSignalDetect]
  simp [seq', off']

theorem laneStepComplete_answers {s : State} {cor : Bool} {l : Fin 32} {r : LaneResult}
    (seq : s.laneSeq cor l = true) {P : State → Prop} (hP : P (s.begin.laneStep cor l r)) :
    Answers (.laneStepComplete cor l r) s P := by
  refine ⟨_, ?_, hP⟩
  have seq' : s.begin.laneSeq cor l = true := seq
  rw [exec_laneStepComplete, execLaneStepComplete]
  simp [seq']

theorem laneFail_answers {s : State} {cor : Bool} {l : Fin 32} {reason : Fin 16} (seq : s.laneSeq cor l = true)
    (low : 1 ≤ (reason : Nat)) (high : (reason : Nat) ≤ 3) (arises : s.stage cor l = failStage reason)
    {P : State → Prop} (hP : P (s.begin.failLane cor l reason)) : Answers (.laneFail cor l reason) s P := by
  refine ⟨_, ?_, hP⟩
  have seq' : s.begin.laneSeq cor l = true := seq
  have arises' : s.begin.stage cor l = failStage reason := arises
  have nonzero : (reason : Nat) ≠ 0 := by omega
  have known : ¬ 5 < (reason : Nat) := by omega
  have single : ¬ 4 ≤ (reason : Nat) := by omega
  rw [exec_laneFail, execLaneFail]
  simp only [seq', arises', nonzero, known, single, Bool.not_true, decide_false, Bool.false_or, bne_self_eq_false,
    Bool.false_eq_true, if_false]

theorem laneRetry_answers {s : State} {cor : Bool} {l : Fin 32} (core : s.coreRuns = true) (fails : s.stage cor l = 15)
    {P : State → Prop} (hP : P (s.begin.retryLane cor l)) : Answers (.laneRetry cor l) s P := by
  refine ⟨_, ?_, hP⟩
  have core' : s.begin.coreRuns = true := core
  have fails' : s.begin.stage cor l = 15 := fails
  rw [exec_laneRetry, execLaneRetry]
  simp [core', fails']

theorem laneDown_answers {s : State} {cor : Bool} {l : Fin 32} (runs : s.laneRuns cor l = true)
    (up : s.stage cor l = 7) {P : State → Prop} (hP : P (s.begin.laneStart cor l)) : Answers (.laneDown cor l) s P := by
  refine ⟨_, ?_, hP⟩
  have runs' : s.begin.laneRuns cor l = true := runs
  have up' : s.begin.stage cor l = 7 := up
  rw [exec_laneDown, execLaneDown]
  simp [runs', up']

theorem fomMeasure_answers {s : State} {cor : Bool} {l : Fin 32} {m : SlicerRun} (runs : s.laneRuns cor l = true)
    {P : State → Prop} (hP : P ((s.begin.measureLane cor l m).checkPattern cor l m)) :
    Answers (.fomMeasure cor l m) s P := by
  refine ⟨_, ?_, hP⟩
  have runs' : s.begin.laneRuns cor l = true := runs
  rw [exec_fomMeasure, execFomMeasure]
  simp [runs']

theorem laneAdaptStart_answers {s : State} {cor : Bool} {l : Fin 32} (seq : s.laneSeq cor l = true)
    (up : s.stage cor l = 7)
    (fixed : s.flag (laneRow cor .SDS_LANE_STAT_ADAPTIVE .COR_LANE_STAT_ADAPTIVE) [l] = false)
    (low : s.rdS (laneRow cor .SDS_LANE_FOM_FOM .COR_LANE_FOM_FOM) [l] < s.fomMin cor l)
    {P : State → Prop} (hP : P (s.begin.adapt cor l)) : Answers (.laneAdaptStart cor l) s P := by
  refine ⟨_, ?_, hP⟩
  have seq' : s.begin.laneSeq cor l = true := seq
  have up' : s.begin.stage cor l = 7 := up
  have fixed' : s.begin.flag (laneRow cor .SDS_LANE_STAT_ADAPTIVE .COR_LANE_STAT_ADAPTIVE) [l] = false := fixed
  have low' : s.begin.rdS (laneRow cor .SDS_LANE_FOM_FOM .COR_LANE_FOM_FOM) [l] < s.begin.fomMin cor l := low
  rw [exec_laneAdaptStart, execLaneAdaptStart]
  simp [seq', up', fixed', low']

/-- Settles O34, lane by lane: the stage that each command leaves, and the fields that it shows. -/
theorem electricalLanes : Obligations.ElectricalLanes := by
  intro s cor l
  refine ⟨fun seq off => laneSignalDetect_answers seq off (State.setStage_stage _ _ _ (by decide)),
    fun r seq going => laneStepComplete_answers seq (s.begin.laneStep_shows r going),
    fun reason seq low high arises => laneFail_answers seq low high arises (s.begin.failLane_shows reason.isLt),
    fun core fails runs single => laneRetry_answers core fails ?_, fun req taken runs => ?_,
    fun runs up => laneDown_answers runs up ?_, fun m runs low high => fomMeasure_answers runs ⟨?_, fun off => ?_, fun on => ?_⟩,
    fun seq up fixed low least most => laneAdaptStart_answers seq up fixed low ⟨State.adapt_adaptive .., ?_⟩⟩
  · rw [State.retryLane_single s.begin fails runs single]
    exact (s.begin.laneStart_shows (State.own_of_laneRuns runs)).1
  · refine answers_via (exec_laneRestart ..) taken ?_
    rw [show s.begin.restartLane cor l = s.begin.laneStart cor l from if_pos runs]
    exact s.begin.laneStart_shows (State.own_of_laneRuns runs)
  · obtain ⟨starts, rings⟩ := s.begin.laneStart_shows (State.own_of_laneRuns runs)
    exact ⟨starts, rings up⟩
  · rw [State.checkPattern_fom]
    exact s.begin.measureLane_fom m low high
  · refine State.checkPattern_off _ m ?_
    rw [State.measureLane_rd _ _ _ _ (by cases cor <;> decide +kernel)]
    exact off
  · have on' : (s.begin.measureLane cor l m).rd (laneRow cor .SDS_PRBS_CTL_RX_PAT .COR_PRBS_CTL_RX_PAT) [l] ≠ 0 := by
      rw [State.measureLane_rd _ _ _ _ (by cases cor <;> decide +kernel)]
      exact on
    rw [State.checkPattern_on _ m on', State.measureLane_prbs, State.flag,
      State.measureLane_rd _ _ _ _ (by cases cor <;> decide +kernel),
      State.measureLane_rd _ _ _ _ (by cases cor <;> decide +kernel)]
    rfl
  · exact State.setTaps_tap1 _ _ _ _ least most

end Sys2Proof.Machine
end

section
/-!
Wake on access, the wakes and the requests to the workers (R360 to R366): O38.
-/

namespace Sys2Proof.Machine

-- One theorem at a time bounds the memory of the whole text's check.
set_option Elab.async false

section
variable {s : State}

/-! ### A wake (R361, R363) -/

theorem State.keepRows_power (new old : State) (rows : List Row) : (new.keepRows old rows).power = new.power :=
  List.foldlRecOn (motive := fun t : State => t.power = new.power) rows _ rfl fun _ h _ _ => h

/-- R10: a module reset leaves the sequencer as after power-up. -/
theorem State.resetModule_power (s : State) (aon : Bool) (keep : List Row) :
    (s.resetModule aon keep).power = State.reset.power := by
  have shown (t : State) : t.showTxDis.power = t.power := rfl
  have base : (s.resetBase aon).power = State.reset.power := rfl
  unfold State.resetModule
  dsimp only
  rw [shown, State.keepRows_power, base]

@[simp] theorem State.wakeRec_power (s : State) (cause origin : Nat) (flag : Bool) :
    (s.wakeRec cause origin flag).power = s.power := rfl

@[simp] theorem State.restoreMt_power (s : State) (saved n : Nat) : (s.restoreMt saved n).power = s.power :=
  (State.restoreMt_within (.refl _ s) (covers_self _) saved n).part .power (by decide +kernel)

theorem State.restoreMt_rd (s : State) (saved n : Nat) {r : Row} (h : spares State.restoreMt_touch r = true)
    (ix : List Nat) : (s.restoreMt saved n).rd r ix = s.rd r ix :=
  (State.restoreMt_within (.refl _ s) (covers_self _) saved n).keeps h ix

theorem State.restoreMt_coarse (s : State) (saved n : Nat) :
    (s.restoreMt saved n).flag .REF_STAT_MT_COARSE = true := by
  unfold State.restoreMt
  dsimp only
  exact State.flag_wrb_self _ _ _ _ (by decide)

theorem State.wakeRec_from (s : State) (cause origin : Nat) (flag : Bool) :
    (s.wakeRec cause origin flag).rd .PWR_WAKE_REC_FROM = origin % 8 := by
  unfold State.wakeRec
  rw [State.rd_wrb_ne _ (by decide), State.rd_wr_self]
  rfl

/-- What a wake does after the reset: WAKE_REC, module time, the start and the alert. -/
def State.wokenUp (s : State) (cause origin saved n : Nat) (p : Power → Power) : State :=
  (((((s.wakeRec cause origin true).onPower p).restoreMt saved n).startAt 1 (origin != 4) false)).alert

theorem State.wake_eq (s : State) (cause : Nat) : s.wake cause =
    ((s.fresh (2 ^ 48)).2.resetModule (s.power.state != 4) retainedRows).wokenUp cause s.power.state
      (s.power.mtSave.getD 0) (s.fresh (2 ^ 48)).1 (fun p => { p with wokeAt := s.uptime, watch := s.power.watch }) := by
  unfold State.wake State.wokenUp
  dsimp only

/-- R361, R363: what a wake shows. -/
theorem State.wake_shows (s : State) (cause : Nat) :
    (s.wake cause).rd .PWR_WAKE_REC_CAUSE = cause % 16 ∧ (s.wake cause).flag .PWR_WAKE_REC_FLAG = true ∧
      (s.wake cause).rd .PWR_WAKE_REC_FROM = s.power.state % 8 ∧ (s.wake cause).boot.step = 1 ∧
      (s.wake cause).boot.wake = (s.power.state != 4) ∧ (s.wake cause).power.state = 0 ∧
      (s.wake cause).flag .REF_STAT_MT_COARSE = true ∧ (s.wake cause).pins.smbAlert = true := by
  have alerts (t : State) (r : Row) : t.alert.rd r = t.rd r := rfl
  have moves (t : State) (f : Power → Power) (r : Row) : (t.onPower f).rd r = t.rd r := rfl
  rw [State.wake_eq]
  generalize hr : ((s.fresh (2 ^ 48)).2.resetModule (s.power.state != 4) retainedRows) = t
  have atRest : t.power = State.reset.power := by rw [← hr, State.resetModule_power]
  obtain ⟨shown, flag⟩ := t.wakeRec_shows cause s.power.state true
  have kept {r : Row} (h : spares State.restoreMt_touch r = true) (n : Nat) (p : Power → Power) :
      (t.wokenUp cause s.power.state (s.power.mtSave.getD 0) n p).rd r =
        (t.wakeRec cause s.power.state true).rd r := by
    rw [State.wokenUp, alerts, State.startAt_rd, State.restoreMt_rd _ _ _ h, moves]
  have state : (t.wokenUp cause s.power.state (s.power.mtSave.getD 0) (s.fresh (2 ^ 48)).1
      (fun p => { p with wokeAt := s.uptime, watch := s.power.watch })).power.state = t.power.state := by
    have kept (u : State) (b : Bool) : (u.startAt 1 b false).alert.power = u.power := rfl
    have moved (u : State) (p : Power → Power) : (u.onPower p).power = p u.power := rfl
    rw [State.wokenUp, kept, State.restoreMt_power, moved, State.wakeRec_power]
  refine ⟨(kept (by decide +kernel) ..).trans shown, ?_, (kept (by decide +kernel) ..).trans (t.wakeRec_from ..), rfl,
    rfl, ?_, ?_, rfl⟩
  · rw [State.flag, kept (by decide +kernel)]
    exact flag
  · rw [state, atRest]
    rfl
  · rw [State.wokenUp, State.flag, alerts, State.startAt_rd]
    exact State.restoreMt_coarse ..

/-! ### Wake on access (R360) -/

/-- R360: what an access to an unclocked island wakes. -/
theorem State.wakeIsland_shows (s : State) (island stall : Nat) :
    (s.wakeIsland island stall).power.woken.contains (stageGroup island) = true ∧
      (s.wakeIsland island stall).rd .PWR_WOA_CNT_WAKES =
        (s.rd .PWR_WOA_CNT_WAKES + 1) % 2 ^ Row.PWR_WOA_CNT_WAKES.width := by
  have counted (t : State) : (t.countWrap .PWR_WOA_CNT_WAKES []).power = t.power :=
    t.countWrap_same _ _ _ (p := .power) (by decide)
  have wakes (t : State) (f : Power → Power) : (t.onPower f).rd .PWR_WOA_CNT_WAKES = t.rd .PWR_WOA_CNT_WAKES := rfl
  have stage : (s.admitStage (groupDomain (stageGroup island))).rd .PWR_WOA_CNT_WAKES = s.rd .PWR_WOA_CNT_WAKES :=
    (State.admitStage_within (.refl _ s) (covers_self _) _).keeps (by decide +kernel) _
  have told (t : State) (v n : Nat) : ((t.wr .PWR_WOA_CNT_MAX_STALL [] v).native 0x0F 0 n).power = t.power := by
    obtain h | h := (t.wr .PWR_WOA_CNT_MAX_STALL [] v).native_eq 0x0F 0 n <;> rw [h] <;> rfl
  unfold State.wakeIsland
  dsimp only
  refine ⟨?_, ?_⟩
  · rw [told, counted]
    simp [State.onPower]
  · rw [State.native_rd, State.rd_wr_ne _ (by decide), State.rd_countWrap_self, wakes, stage]

/-- R360: an access to an unclocked island wakes its stage. -/
theorem wakeOnAccess_answers {island : Fin 25} {stall : Nat} (up : s.power.state ≤ 2) (runs : s.isRunning = true)
    (still : s.clocked island = false) (short : stall ≤ 600) {P : State → Prop}
    (hP : P (s.begin.wakeIsland island stall)) : Answers (.wakeOnAccess island stall) s P := by
  refine ⟨_, ?_, hP⟩
  have up' : s.begin.power.state ≤ 2 := up
  have runs' : s.begin.isRunning = true := runs
  have still' : s.begin.clocked island = false := still
  have goes : (decide (s.begin.power.state ≤ 2) && s.begin.isRunning && !s.begin.clocked island &&
      decide (stall ≤ 600)) = true := by
    rw [runs', still', decide_eq_true up', decide_eq_true short]
    rfl
  rw [exec_wakeOnAccess, execWakeOnAccess, goes]
  rfl

/-! ### A watch cycle (R362) -/

/-- R362: the count of a selected wing's measurement. -/
def State.watchCount (s : State) (mean : Nat) : Nat := if s.rd .PWR_WATCH_CFG_TH < mean then s.power.watch.a + 1 else 0

/-- R362: a measurement of wing A alone. -/
def State.watchA (s : State) (mean : Nat) : State :=
  (s.onPower (fun p => { p with watch := p.watch.set .a (s.watchCount mean) })).wr .PWR_WAKE_REC_WATCH_LAST [] mean

theorem State.watchWings_of_a (s : State) (meanA meanB : Nat) (wings : s.rd .PWR_WATCH_CFG_WINGS = 1) :
    (s.watchWing .a meanA).watchWing .b meanB = s.watchA meanA := by
  have one : s.watchWing .a meanA = s.watchA meanA := by
    unfold State.watchWing
    rw [wings]
    rfl
  have kept : (s.watchA meanA).rd .PWR_WATCH_CFG_WINGS = 1 := by
    rw [State.watchA, State.rd_wr_ne _ (by decide)]
    exact wings
  rw [one, State.watchWing, kept]
  rfl

theorem State.watchA_power (s : State) (mean : Nat) :
    (s.watchA mean).power = { s.power with watch := s.power.watch.set .a (s.watchCount mean) } := rfl

theorem State.watchA_rd (s : State) (mean : Nat) {r : Row} (h : Row.PWR_WAKE_REC_WATCH_LAST.id ≠ r.id) :
    (s.watchA mean).rd r = s.rd r :=
  State.rd_wr_ne (s.onPower (fun p => { p with watch := p.watch.set .a (s.watchCount mean) })) h ..

/-- R362: in Watch, with wing A selected, light that lasts wakes the module. -/
theorem State.watchCycle_shows (s : State) (meanA meanB : Nat) (watching : s.power.state = 5)
    (wings : s.rd .PWR_WATCH_CFG_WINGS = 1) (none : s.power.watch.b = 0) :
    if s.rd .PWR_WATCH_CFG_CONFIRM ≤ s.power.watch.a ∧ s.rd .PWR_WATCH_CFG_TH < meanA then
      (s.watchCycle meanA meanB).rd .PWR_WAKE_REC_CAUSE = 4 ∧ (s.watchCycle meanA meanB).power.state = 0
    else (s.watchCycle meanA meanB).power.state = 5 ∧ (s.watchCycle meanA meanB).power.watch.a =
      (if s.rd .PWR_WATCH_CFG_TH < meanA then s.power.watch.a + 1 else 0) := by
  have hitA : (s.watchA meanA).watchHit .a = decide (s.rd .PWR_WATCH_CFG_CONFIRM < s.watchCount meanA) := by
    rw [State.watchHit, State.watchA_rd _ _ (by decide), State.watchA_power]
    rfl
  have hitB : (s.watchA meanA).watchHit .b = false := by
    have zero : (s.watchA meanA).power.watch.get .b = 0 := by rw [State.watchA_power]; exact none
    rw [State.watchHit, zero]
    simp
  unfold State.watchCycle
  rw [State.watchWings_of_a _ _ _ wings]
  simp only [hitA, hitB, Bool.false_eq_true, if_false, decide_eq_true_eq]
  have bright : s.rd .PWR_WATCH_CFG_CONFIRM < s.watchCount meanA ↔
      s.rd .PWR_WATCH_CFG_CONFIRM ≤ s.power.watch.a ∧ s.rd .PWR_WATCH_CFG_TH < meanA := by
    unfold State.watchCount
    split <;> omega
  split
  next lasts =>
    rw [if_pos (bright.mpr lasts)]
    have wakes (t : State) (h : t.power.state = 5) : t.lightFound 4 = t.wake 4 := if_pos h
    rw [wakes ((s.watchA meanA).wr .PWR_WAKE_REC_WATCH_LAST [] meanA) watching]
    obtain ⟨cause, -, -, -, -, state, -⟩ := State.wake_shows ((s.watchA meanA).wr .PWR_WAKE_REC_WATCH_LAST [] meanA) 4
    exact ⟨cause, state⟩
  next dims =>
    rw [if_neg (fun h => dims (bright.mp h)), State.watchA_power]
    exact ⟨watching, rfl⟩

/-! ### Requests to the workers (R364) -/

theorem State.sendHier_out (s : State) (x : Nat) : (s.sendHier x).out =
    s.out ++ (if s.corPatterned (s.routePort x) then [] else [.cell (s.routePort x) x (.hier s.power.hierTarget)]) :=
  State.sayCell_out ..

theorem State.sendHier_done (s : State) (x : Nat) :
    (s.sendHier x).rd .PWR_HIER_STAT_DONE = (s.rd .PWR_HIER_STAT_DONE + 1) % 2 ^ Row.PWR_HIER_STAT_DONE.width :=
  State.rd_wr_self ..

theorem State.sendHier_rd (s : State) (x : Nat) {r : Row} (h : Row.PWR_HIER_STAT_DONE.id ≠ r.id) (ix : List Nat) :
    (s.sendHier x).rd r ix = s.rd r ix := by
  rw [State.sendHier, State.rd_wr_ne _ h, State.sendCell, State.sayCell_rd]

/-- R364: a forwarding begins. -/
def State.hierBegin (s : State) (skipped : Nat) : State :=
  ((s.wr .PWR_HIER_STAT_SKIPPED [] skipped).wr .PWR_HIER_STAT_DONE [] 0).onPower
    (fun p => { p with hierTarget := s.rd .PWR_HIER_CTL_TARGET, hierLeft := [] })

theorem State.hierBegin_rd (s : State) (skipped : Nat) {r : Row}
    (h : Row.PWR_HIER_STAT_DONE.id ≠ r.id ∧ Row.PWR_HIER_STAT_SKIPPED.id ≠ r.id) (ix : List Nat) :
    (s.hierBegin skipped).rd r ix = s.rd r ix := by
  have moves (t : State) (f : Power → Power) : (t.onPower f).rd r ix = t.rd r ix := rfl
  rw [State.hierBegin, moves, State.rd_wr_ne _ h.1, State.rd_wr_ne _ h.2]

/-- R364: with one worker, which is reached, the request goes to it. -/
theorem State.hierGo_single (s : State) {x : Nat} {reachable : List Nat} (known : s.cor.nodes.map (·.1) = [x])
    (reached : reachable.contains x = true) : s.hierGo reachable =
      if s.rd .PWR_HIER_CTL_TARGET = 0 then
        (((s.hierBegin 0).sendHier x).onPower (fun p => { p with hierLeft := [] })).wrb .PWR_HIER_STAT_BUSY [] false
      else (s.hierBegin 0).sendHier x := by
  have hit : (s.cor.nodes.map (·.1)).filter (fun a => reachable.contains a) = [x] := by
    rw [known, List.filter_cons_of_pos reached, List.filter_nil]
  unfold State.hierGo
  dsimp only
  rw [hit, known]
  rfl

/-- R364: what leaves for the one worker. -/
theorem State.hierGo_shows (s : State) {x : Nat} {reachable : List Nat} (manager : s.flag .COR_CTL_MANAGER = true)
    (idle : s.flag .PWR_HIER_STAT_BUSY = false) (known : s.cor.nodes.map (·.1) = [x])
    (reached : reachable.contains x = true) (plain : s.corPatterned (s.cor.managerPort x) = false) :
    (s.hierGo reachable).out.getLast? = some (.cell (s.cor.managerPort x) x (.hier (s.rd .PWR_HIER_CTL_TARGET))) ∧
      (s.hierGo reachable).rd .PWR_HIER_STAT_DONE = 1 ∧ (s.hierGo reachable).rd .PWR_HIER_STAT_SKIPPED = 0 ∧
      (s.hierGo reachable).flag .PWR_HIER_STAT_BUSY = false := by
  have port : (s.hierBegin 0).routePort x = s.cor.managerPort x := by
    have manager' : (s.hierBegin 0).flag .COR_CTL_MANAGER = true := by
      rw [State.flag, State.hierBegin_rd _ _ (by decide)]
      exact manager
    rw [State.routePort, if_pos manager']
    rfl
  have plain' : (s.hierBegin 0).corPatterned (s.cor.managerPort x) = false := by
    rw [State.corPatterned_congr (fun i => State.hierBegin_rd _ _ (by decide) _)]
    exact plain
  have out : ((s.hierBegin 0).sendHier x).out.getLast? =
      some (.cell (s.cor.managerPort x) x (.hier (s.rd .PWR_HIER_CTL_TARGET))) := by
    rw [State.sendHier_out, port, plain']
    simp [State.hierBegin, State.onPower]
  have begun : (s.hierBegin 0).rd .PWR_HIER_STAT_DONE = 0 ∧ (s.hierBegin 0).rd .PWR_HIER_STAT_SKIPPED = 0 := by
    have moves (t : State) (f : Power → Power) (r : Row) : (t.onPower f).rd r = t.rd r := rfl
    refine ⟨?_, ?_⟩
    · rw [State.hierBegin, moves, State.rd_wr_self]
      rfl
    · rw [State.hierBegin, moves, State.rd_wr_ne _ (by decide), State.rd_wr_self]
      rfl
  have done : ((s.hierBegin 0).sendHier x).rd .PWR_HIER_STAT_DONE = 1 := by
    rw [State.sendHier_done, begun.1]
    rfl
  have skipped : ((s.hierBegin 0).sendHier x).rd .PWR_HIER_STAT_SKIPPED = 0 := by
    rw [State.sendHier_rd _ _ (by decide), begun.2]
  have busy : ((s.hierBegin 0).sendHier x).flag .PWR_HIER_STAT_BUSY = false := by
    rw [State.flag, State.sendHier_rd _ _ (by decide), State.hierBegin_rd _ _ (by decide)]
    exact idle
  have moves (t : State) (f : Power → Power) (r : Row) : (t.onPower f).rd r = t.rd r := rfl
  have outs (t : State) (f : Power → Power) (r : Row) : ((t.onPower f).wrb r [] false).out = t.out := rfl
  rw [s.hierGo_single known reached]
  split
  next =>
    refine ⟨?_, ?_, ?_, State.flag_wrb_self _ _ _ _ (by decide)⟩
    · rw [outs]
      exact out
    · rw [State.rd_wrb_ne _ (by decide), moves]
      exact done
    · rw [State.rd_wrb_ne _ (by decide), moves]
      exact skipped
  next => exact ⟨out, done, skipped, busy⟩

end

/-- Settles O38, by what a woken stage, a wake, a watch cycle and a forwarded request show. -/
theorem wakesAndHierarchy : Obligations.WakesAndHierarchy := by
  intro s
  refine ⟨fun island stall up runs still short => wakeOnAccess_answers up runs still short ?_,
    fun group => ⟨_, rfl, ?_⟩, fun sleeps => ?_, fun sleeps timed => ?_, fun meanA meanB watching wings none => ?_,
    fun req reachable x taken manager idle going known low reached plain => ?_, fun x rest going left => ?_⟩
  · obtain ⟨woken, counted⟩ := s.begin.wakeIsland_shows island stall
    exact ⟨woken, by rw [State.clocked, woken, Bool.or_true], counted⟩
  · simp [State.onPower]
  · have goes : (s.begin.asleep || s.begin.power.state == 4) = true := by
      rw [Bool.or_eq_true, beq_iff_eq]
      exact sleeps
    refine ⟨s.begin.wake 1, ?_, ?_⟩
    · rw [exec_wakeNAssert, execWakeNAssert, if_pos goes]
    · obtain ⟨cause, flag, origin, step, wake, state, coarse, alert⟩ := s.begin.wake_shows 1
      exact ⟨cause, flag, origin, step, by rw [wake]; exact (decide_not (p := s.power.state = 4)).symm, state, coarse, alert⟩
  · have goes : (s.begin.asleep && s.begin.rd .PWR_WAKE_CFG_TIMER != 0) = true := by
      rw [Bool.and_eq_true, bne_iff_ne]
      exact ⟨sleeps, timed⟩
    refine ⟨s.begin.wake 3, ?_, ?_⟩
    · rw [exec_wakeTimerExpiry, execWakeTimerExpiry, goes]
      rfl
    · obtain ⟨cause, flag, -, step, -, state, -⟩ := s.begin.wake_shows 3
      exact ⟨cause, flag, step, state⟩
  · refine ⟨s.begin.watchCycle meanA meanB, ?_, s.begin.watchCycle_shows meanA meanB watching wings none⟩
    have watching' : s.begin.power.state = 5 := watching
    rw [exec_watchCycle, execWatchCycle, watching']
    rfl
  · refine answers_via (exec_hierGo ..) taken ?_
    have goes : (s.begin.flag .COR_CTL_MANAGER && !s.begin.flag .PWR_HIER_STAT_BUSY && !s.begin.halted 5 &&
        decide (s.begin.rd .PWR_HIER_CTL_TARGET ≤ 4)) = true := by
      have manager' : s.begin.flag .COR_CTL_MANAGER = true := manager
      have idle' : s.begin.flag .PWR_HIER_STAT_BUSY = false := idle
      have going' : s.begin.halted 5 = false := going
      have known' : s.begin.rd .PWR_HIER_CTL_TARGET ≤ 4 := known
      rw [manager', idle', going', decide_eq_true known']
      rfl
    rw [goes, State.when_true]
    exact s.begin.hierGo_shows manager idle low reached plain
  · have going' : s.begin.halted 5 = false := going
    have left' : s.begin.power.hierLeft = x :: rest := left
    refine ⟨((s.begin.sendHier x).onPower (fun p => { p with hierLeft := rest })).wrb .PWR_HIER_STAT_BUSY []
      (!rest.isEmpty), ?_, ?_, rfl, State.flag_wrb_self _ _ _ _ (by decide)⟩
    · rw [exec_hierForwardNext, execHierForwardNext]
      simp only [going', left', Bool.false_eq_true, if_false]
    · exact s.begin.sendHier_out x

end Sys2Proof.Machine
end

section
/-!
The power states (R356 to R359): what the ways in and out of them leave of the sequencer, and O37.
-/

namespace Sys2Proof.Machine

-- One theorem at a time bounds the memory of the whole text's check.
set_option Elab.async false

section
variable {s₀ s : State}

/-! ### What a wing's operations leave of the sequencer -/

/-- The module's state and the held TARGET are the same. -/
def State.StatesSame (s₀ s : State) : Prop :=
  s.power.state = s₀.power.state ∧ s.power.heldTarget = s₀.power.heldTarget

theorem State.StatesSame.refl (s : State) : s.StatesSame s := ⟨rfl, rfl⟩

theorem State.StatesSame.of_power {t : State} (h : s₀.StatesSame s) (e : t.power = s.power) : s₀.StatesSame t := by
  unfold State.StatesSame
  rw [e]
  exact h

theorem State.StatesSame.when {f : State → State} (h : s₀.StatesSame s) (hf : ∀ t : State, s₀.StatesSame t → s₀.StatesSame (f t))
    (c : Bool) : s₀.StatesSame (s.when c f) := by
  cases c
  · exact h
  · exact hf s h

theorem State.StatesSame.powerDown (h : s₀.StatesSame s) (ds : List Domain) : s₀.StatesSame (s.powerDown ds) := h

theorem State.StatesSame.sp2Cancel (h : s₀.StatesSame s) (w : Wing) : s₀.StatesSame (s.sp2Cancel w) := h

theorem State.StatesSame.sp2Off (h : s₀.StatesSame s) (w : Wing) : s₀.StatesSame (s.sp2Off w) := by
  have ended (t : State) (ht : s₀.StatesSame t) : s₀.StatesSame (t.sp2End w) := by
    unfold State.sp2End
    refine State.StatesSame.of_power ?_ (State.evt_power ..)
    exact ht
  unfold State.sp2Off
  exact (h.when ended _).of_power rfl

theorem State.StatesSame.setRx (h : s₀.StatesSame s) (w : Wing) (st : Nat) : s₀.StatesSame (s.setRx w st) := by
  unfold State.setRx
  dsimp only
  split
  next =>
    have rung : s₀.StatesSame ((s.wr .RXW_RX_STAT_STATE [w.n] st).evt .RXW_RX_EVT_READY_FALL [w.n]) :=
      State.StatesSame.of_power (s := s.wr .RXW_RX_STAT_STATE [w.n] st) h (State.evt_power ..)
    have refreshed := (rung.sp2Off w).of_power
      ((State.icmRefresh_within (.refl _ _) (covers_self _) w).part .power (by decide +kernel))
    exact refreshed.of_power ((State.loseCand_within (.refl _ _) (covers_self _) _ _).part .power (by decide +kernel))
  next => exact h

theorem State.StatesSame.toWait (h : s₀.StatesSame s) (w : Wing) : s₀.StatesSame (s.toWait w) := by
  have cleared := (h.setRx w 0).of_power
    ((State.clearRx_within (.refl _ _) (covers_self _) w).part .power (by decide +kernel))
  exact cleared.of_power ((State.icmSearch_within (.refl _ _) (covers_self _) w).part .power (by decide +kernel))

theorem State.StatesSame.leaveRun (h : s₀.StatesSame s) (w : Wing) : s₀.StatesSame (s.leaveRun w) := by
  have halted := h.of_power ((State.haltConv_within (.refl _ s) (covers_self _) w).part .power (by decide +kernel))
  have waits := ((halted.sp2Off w).sp2Cancel w).toWait w
  have aborted := waits.of_power ((State.icmAbort_within (.refl _ _) (covers_self _) w).part .power (by decide +kernel))
  exact aborted.powerDown _

theorem State.StatesSame.beginWing (h : s₀.StatesSame s) (w : Wing) : s₀.StatesSame (s.beginWing w) := by
  have dark : s₀.StatesSame ((s.setBootWing w 1).resetOptics w) := State.StatesSame.of_power (s := s.setBootWing w 1) h
    ((State.resetOptics_within (.refl _ _) (covers_self _) w).part .power (by decide +kernel))
  unfold State.beginWing
  dsimp only
  have begun := dark.toWait w
  generalize ((s.setBootWing w 1).resetOptics w).toWait w = t at begun ⊢
  have line : s₀.StatesSame ((t.onRx w (fun _ => RxLine.reset)).fecUnlock w) :=
    State.StatesSame.of_power (s := t.onRx w (fun _ => RxLine.reset)) begun
      ((State.fecUnlock_within (.refl _ _) (covers_self _) w).part .power (by decide +kernel))
  generalize (t.onRx w (fun _ => RxLine.reset)).fecUnlock w = u at line ⊢
  have lost : s₀.StatesSame ((u.onDec w (fun _ => Decoder.reset)).wrb .RXW_HDR_STAT_HDR_LOSS_TX [w.n] true) := line
  generalize (u.onDec w (fun _ => Decoder.reset)).wrb .RXW_HDR_STAT_HDR_LOSS_TX [w.n] true = v at lost ⊢
  have adc := lost.of_power ((State.unlockAdc_within (.refl _ v) (covers_self _) w).part .power (by decide +kernel))
  have dac := adc.of_power ((State.unlockDac_within (.refl _ _) (covers_self _) w).part .power (by decide +kernel))
  have reach := dac.of_power ((State.showReach_within (.refl _ _) (covers_self _) w).part .power (by decide +kernel))
  have heard := reach.of_power ((State.showRxHs_within (.refl _ _) (covers_self _) w).part .power (by decide +kernel))
  have floor := heard.of_power ((State.startFloor_within (.refl _ _) (covers_self _) w).part .power (by decide +kernel))
  have frames := floor.of_power ((State.startFrames_within (.refl _ _) (covers_self _) w).part .power (by decide +kernel))
  have icm := frames.of_power ((State.startIcm_within (.refl _ _) (covers_self _) w).part .power (by decide +kernel))
  exact icm.of_power ((State.icmRefresh_within (.refl _ _) (covers_self _) w).part .power (by decide +kernel))

theorem State.optEval_power (s : State) (w : Wing) : (s.optEval w).power = s.power :=
  (State.optEval_within (.refl _ s) (covers_self _) w).part .power (by decide +kernel)

theorem State.StatesSame.enterRun (h : s₀.StatesSame s) (w : Wing) : s₀.StatesSame (s.enterRun w) := by
  unfold State.enterRun
  split
  next => exact h.beginWing w
  next =>
    have resumed := h.of_power ((State.resumeConv_within (.refl _ s) (covers_self _) w).part .power (by decide +kernel))
    exact resumed.of_power (State.optEval_power ..)

theorem State.StatesSame.setWingState (h : s₀.StatesSame s) (w : Wing) (st : Nat) :
    s₀.StatesSame (s.setWingState w st) := by
  cases w <;> exact h

/-- R357: a wing's move leaves the module's state. -/
theorem State.StatesSame.moveWing (h : s₀.StatesSame s) (w : Wing) (st : Nat) : s₀.StatesSame (s.moveWing w st) := by
  have sleeps (t : State) (ht : s₀.StatesSame t) :
      s₀.StatesSame (((t.lasersOff w).powerDown [.optics w]).setBootWing w 0) :=
    ht.of_power (t := t.lasersOff w) ((State.lasersOff_within (.refl _ t) (covers_self _) w).part .power (by decide +kernel))
  unfold State.moveWing
  dsimp only
  split
  next => exact h.setWingState w st
  next =>
    have left := (h.when (fun _ ht => ht.leaveRun w) (s.wingState w == 0)).setWingState w st
    exact (left.when sleeps (st == 2)).when (fun _ ht => ht.enterRun w) _

/-! ### Beginning and refusing a transition (R358, R359) -/

/-- R358: what the beginning of a transition shows. -/
theorem State.startTransition_shows (s : State) (t : Nat) :
    (s.startTransition t).power.trans = some t ∧ (s.startTransition t).flag .PWR_STATE_STAT_BUSY = true ∧
      s.StatesSame (s.startTransition t) := by
  have stages (u : State) (ds : List Domain) : (u.enqueueStages ds).power.trans = u.power.trans ∧
      u.StatesSame (u.enqueueStages ds) := ⟨rfl, rfl, rfl⟩
  have busy (u : State) (ds : List Domain) : (u.enqueueStages ds).flag .PWR_STATE_STAT_BUSY = u.flag .PWR_STATE_STAT_BUSY :=
    (State.enqueueStages_within (.refl _ u) (covers_self _) ds).keepsFlag (by decide +kernel) _
  have laser (u : State) (w : Wing) : (u.optEval w).flag .PWR_STATE_STAT_BUSY = u.flag .PWR_STATE_STAT_BUSY :=
    (State.optEval_within (.refl _ u) (covers_self _) w).keepsFlag (by decide +kernel) _
  unfold State.startTransition
  dsimp only
  refine ⟨?_, ?_, ?_⟩
  · rw [State.optEval_power, State.optEval_power, (stages _ _).1]
    rfl
  · rw [laser, laser, busy]
    exact State.flag_wrb_self _ _ _ _ (by decide)
  · unfold State.StatesSame
    rw [State.optEval_power, State.optEval_power]
    exact ⟨rfl, rfl⟩

theorem State.refuse_power (s : State) (island reason t : Nat) (abort : Bool) :
    (s.refuse island reason t abort).power = s.power :=
  (State.refuse_within (.refl _ s) (covers_self _) island reason t abort).part .power (by decide +kernel)

/-- R359: what a refusal or an abort shows. -/
theorem State.refuse_shows (s : State) (island t : Nat) {reason : Nat} (abort : Bool) (fits : reason < 16) :
    (s.refuse island reason t abort).flag .PWR_LAST_REFUSE_VALID = true ∧
      (s.refuse island reason t abort).rd .PWR_LAST_REFUSE_ISLAND = island % 32 ∧
      (s.refuse island reason t abort).rd .PWR_LAST_REFUSE_REASON = reason ∧
      (s.refuse island reason t abort).flag .PWR_LAST_REFUSE_ABORT = abort ∧
      (s.refuse island reason t abort).flag .PWR_EVT_REFUSED = true := by
  have emits (u : State) {r : Row} (h : spares State.emit_touch r = true) (i n c : Nat) :
      (u.emit i n c).rd r = u.rd r :=
    (State.emit_within (.refl _ u) (covers_self _) i n c 0 0).keeps h _
  have counts (u : State) {r : Row} (h : Row.PWR_REFUSE_CNT_ABORTED.id ≠ r.id ∧ Row.PWR_REFUSE_CNT_REFUSED.id ≠ r.id) :
      (u.countWrap (if abort then .PWR_REFUSE_CNT_ABORTED else .PWR_REFUSE_CNT_REFUSED) [island]).rd r = u.rd r := by
    cases abort
    · exact State.rd_countWrap_ne _ h.2 ..
    · exact State.rd_countWrap_ne _ h.1 ..
  unfold State.refuse
  dsimp only
  refine ⟨?_, ?_, ?_, ?_, State.flag_evt_self _ _ _ rfl (by decide)⟩
  · rw [State.flag, State.rd_evt_ne _ (by decide), emits _ (by decide +kernel), counts _ (by decide),
      State.rd_wr_ne _ (by decide), State.rd_wrb_ne _ (by decide), State.rd_wr_ne _ (by decide),
      State.rd_wr_ne _ (by decide)]
    exact State.flag_wrb_self s .PWR_LAST_REFUSE_VALID [] true (by decide)
  · rw [State.rd_evt_ne _ (by decide), emits _ (by decide +kernel), counts _ (by decide),
      State.rd_wr_ne _ (by decide), State.rd_wrb_ne _ (by decide), State.rd_wr_ne _ (by decide), State.rd_wr_self]
    rfl
  · rw [State.rd_evt_ne _ (by decide), emits _ (by decide +kernel), counts _ (by decide),
      State.rd_wr_ne _ (by decide), State.rd_wrb_ne _ (by decide), State.rd_wr_self]
    exact Nat.mod_eq_of_lt fits
  · rw [State.flag, State.rd_evt_ne _ (by decide), emits _ (by decide +kernel), counts _ (by decide),
      State.rd_wr_ne _ (by decide)]
    exact State.flag_wrb_self _ .PWR_LAST_REFUSE_ABORT [] abort (by decide)

/-! ### TARGET (R358) -/

/-- R358: whether a state would be refused does not depend on what TARGET holds. -/
theorem State.refusal_wr_target (s : State) (v t : Nat) :
    (s.wr .PWR_STATE_CTL_TARGET [] v).refusal t = s.refusal t := by
  have kept {r : Row} (h : Row.PWR_STATE_CTL_TARGET.id ≠ r.id) (ix : List Nat) :
      (s.wr .PWR_STATE_CTL_TARGET [] v).rd r ix = s.rd r ix := State.rd_wr_ne s h ..
  have failed (i : Nat) : (s.wr .PWR_STATE_CTL_TARGET [] v).islandFailed i = s.islandFailed i := by
    unfold State.islandFailed
    rw [kept (by decide)]
  have sec : (s.wr .PWR_STATE_CTL_TARGET [] v).secBusy = s.secBusy := by
    unfold State.secBusy State.flag
    rw [kept (by decide), kept (by decide)]
  have dma : (s.wr .PWR_STATE_CTL_TARGET [] v).dmaActive = s.dmaActive := by
    unfold State.dmaActive State.flag
    simp only [kept (r := .HST_DMA_CTL_EN) (by decide)]
  have stops (i : Nat) : (s.wr .PWR_STATE_CTL_TARGET [] v).stopsIsland t i = s.stopsIsland t i := by
    have enabled (w : Wing) : (s.wr .PWR_STATE_CTL_TARGET [] v).wingEnabled w = s.wingEnabled w := rfl
    have state (w : Wing) : (s.wr .PWR_STATE_CTL_TARGET [] v).wingState w = s.wingState w := by
      cases w <;> exact kept (by decide) _
    have under (w : Wing) : (s.wr .PWR_STATE_CTL_TARGET [] v).wingUnder w t = s.wingUnder w t := by
      cases w
      · show max (min 2 ((s.wr .PWR_STATE_CTL_TARGET [] v).rd .PWR_STATE_CTL_WING_A)) (min 2 t) = _
        rw [kept (by decide)]
        rfl
      · show max (min 2 ((s.wr .PWR_STATE_CTL_TARGET [] v).rd .PWR_STATE_CTL_WING_B)) (min 2 t) = _
        rw [kept (by decide)]
        rfl
    have power : (s.wr .PWR_STATE_CTL_TARGET [] v).power = s.power := rfl
    unfold State.stopsIsland
    dsimp only
    rw [enabled, state, under, power]
  unfold State.refusal State.failedStop
  simp only [failed, sec, dma, stops]

/-- R359: a refusal that an entry meets names its island and reason. -/
theorem State.refusal_reason_lt {r : Nat × Nat} {t : Nat} (h : s.refusal t = some r) : r.2 < 16 := by
  unfold State.refusal at h
  split at h
  next => cases h; decide
  next =>
    split at h
    next => cases h; decide
    next =>
      obtain ⟨i, -, rfl⟩ := Option.map_eq_some_iff.mp h
      exact (by decide : 5 < 16)

/-- R358, R359: what another module state's request shows. -/
theorem State.requestState_shows (s : State) {t : Nat} (other : t ≠ s.power.state) (between : s.power.trans = none) :
    (s.refusal t = none → (s.requestState t).power.trans = some t ∧
      (s.requestState t).flag .PWR_STATE_STAT_BUSY = true) ∧
    (s.refusal t ≠ none → (s.requestState t).power.trans = none ∧
      (s.requestState t).flag .PWR_LAST_REFUSE_VALID = true ∧ (s.requestState t).flag .PWR_EVT_REFUSED = true ∧
      some ((s.requestState t).rd .PWR_LAST_REFUSE_REASON) = (s.refusal t).map (·.2)) := by
  unfold State.requestState
  rw [if_neg other]
  cases h : s.refusal t with
  | none =>
    obtain ⟨trans, busy, -⟩ := s.startTransition_shows t
    exact ⟨fun _ => ⟨trans, busy⟩, fun no => absurd rfl no⟩
  | some r =>
    obtain ⟨valid, -, reason, -, rung⟩ := s.refuse_shows r.1 t false (State.refusal_reason_lt h)
    refine ⟨(fun no => nomatch no), fun _ => ⟨?_, valid, rung, ?_⟩⟩
    · rw [State.refuse_power]
      exact between
    · rw [reason]
      rfl

theorem State.targetWrite_of_known (s : State) {t : Nat} (known : t ≤ 4) : s.targetWrite t =
    if (s.power.trans.isSome || !s.coreRuns) = true then
      (s.wr .PWR_STATE_CTL_TARGET [] t).onPower (fun p => { p with heldTarget := some t })
    else (s.wr .PWR_STATE_CTL_TARGET [] t).requestState t := by
  have core : (s.wr .PWR_STATE_CTL_TARGET [] t).coreRuns = s.coreRuns := by
    have failed : (s.wr .PWR_STATE_CTL_TARGET [] t).islandFailed 3 = s.islandFailed 3 := by
      unfold State.islandFailed
      rw [State.rd_wr_ne _ (by decide)]
    rw [State.coreRuns, failed]
    rfl
  have trans : (s.wr .PWR_STATE_CTL_TARGET [] t).power = s.power := rfl
  unfold State.targetWrite
  rw [if_neg (by omega)]
  dsimp only
  rw [core, trans]

/-! ### The wings' requests (R357) -/

theorem State.requestWings_rd (s : State) {r : Row} (h : spares State.requestWings_touch r = true) (ix : List Nat) :
    s.requestWings.rd r ix = s.rd r ix :=
  (State.requestWings_within (.refl _ s) (covers_self _)).keeps h ix

theorem State.wingWrite_shows (s : State) {a b : Nat} :
    (s.wingWrite a b).rd .PWR_STATE_CTL_WING_A = min 2 a ∧ (s.wingWrite a b).rd .PWR_STATE_CTL_WING_B = min 2 b := by
  unfold State.wingWrite
  dsimp only
  refine ⟨?_, ?_⟩
  · rw [State.rd_when (f := State.requestWings) (State.requestWings_rd _ (by decide +kernel) _),
      State.rd_wr_ne _ (by decide), State.rd_wr_self]
    exact Nat.mod_eq_of_lt (show min 2 a < 4 by omega)
  · rw [State.rd_when (f := State.requestWings) (State.requestWings_rd _ (by decide +kernel) _), State.rd_wr_self]
    exact Nat.mod_eq_of_lt (show min 2 b < 4 by omega)

/-- R357: the wings' requests leave the module's state. -/
theorem State.StatesSame.requestWings (h : s₀.StatesSame s) : s₀.StatesSame s.requestWings := by
  unfold State.requestWings
  split
  next => exact h
  next =>
    split
    next => exact h.of_power (State.refuse_power ..)
    next =>
      obtain ⟨-, -, state, held⟩ := s.startTransition_shows s.power.state
      exact ⟨state.trans h.1, held.trans h.2⟩

/-! ### The end of a transition (R358) -/

theorem State.applyLanes_power (s : State) : s.applyLanes.power = s.power :=
  (State.applyLanes_within (.refl _ s) (covers_self _)).part .power (by decide +kernel)

theorem State.deepSteps_states (s : State) : s.StatesSame s.deepSteps := by
  have zeroised : s.zeroise.power = s.power :=
    (State.zeroise_within (.refl _ s) (covers_self _)).part .power (by decide +kernel)
  have down (t : State) (f : Power → Power) (a b c : Row) :
      ((((t.onPower f).wrb a [] false).wr b [] 0).wr c [] 0).power = f t.power := rfl
  have saved : s.deepSteps.power = { s.zeroise.power with mtSave := some s.mt } := by
    unfold State.deepSteps
    dsimp only
    rw [down]
  unfold State.StatesSame
  rw [saved, zeroised]
  exact ⟨rfl, rfl⟩

/-- R358: the module's state as the sequencer takes it. -/
def State.takeState (s : State) (t : Nat) (watch : Bool) : State :=
  ((((s.onPower (fun p => { p with state := if watch then 5 else t, trans := none, watch := PerWing.both 0 })).wr
    .PWR_STATE_STAT_STATE [] t).wrb .PWR_STATE_STAT_BUSY [] false).powerDown (sharedDown t)).applyLanes.when
      (decide (3 ≤ t)) State.deepSteps

theorem State.enterState_eq (s : State) (t : Nat) : s.enterState t =
    ((((s.takeState t (t == 3 && s.flag .PWR_WATCH_CFG_EN)).evt .PWR_EVT_STATE_DONE).when (t != s.power.state)
      State.alert).when (t == 4) State.enterOff) := rfl

theorem State.takeState_shows (s : State) {t : Nat} (known : t ≤ 4) (watch : Bool) :
    (s.takeState t watch).rd .PWR_STATE_STAT_STATE = t ∧
      (s.takeState t watch).power.state = (if watch then 5 else t) ∧
      (s.takeState t watch).power.heldTarget = s.power.heldTarget := by
  have lanes (u : State) : u.applyLanes.rd .PWR_STATE_STAT_STATE = u.rd .PWR_STATE_STAT_STATE :=
    (State.applyLanes_within (.refl _ u) (covers_self _)).keeps (by decide +kernel) _
  have deep (u : State) : u.deepSteps.rd .PWR_STATE_STAT_STATE = u.rd .PWR_STATE_STAT_STATE :=
    (State.deepSteps_within (.refl _ u) (covers_self _)).keeps (by decide +kernel) _
  have down (u : State) (ds : List Domain) : (u.powerDown ds).rd .PWR_STATE_STAT_STATE = u.rd .PWR_STATE_STAT_STATE := rfl
  have moved (u : State) (f : Power → Power) (a : Row) (v : Nat) (b : Row) (c : Bool) (ds : List Domain) :
      ((((u.onPower f).wr a [] v).wrb b [] c).powerDown ds).power.state = (f u.power).state ∧
        ((((u.onPower f).wr a [] v).wrb b [] c).powerDown ds).power.heldTarget = (f u.power).heldTarget := ⟨rfl, rfl⟩
  have same (u : State) (c : Bool) : u.StatesSame (u.when c State.deepSteps) := by
    cases c
    · exact .refl u
    · exact u.deepSteps_states
  unfold State.takeState
  refine ⟨?_, ?_, ?_⟩
  · rw [State.rd_when (f := State.deepSteps) (deep _), lanes, down, State.rd_wrb_ne _ (by decide), State.rd_wr_self]
    exact Nat.mod_eq_of_lt (show t < 16 by omega)
  · rw [(same _ _).1, State.applyLanes_power, (moved _ _ _ _ _ _ _).1]
  · rw [(same _ _).2, State.applyLanes_power, (moved _ _ _ _ _ _ _).2]

/-- R351, R361: Off leaves the sequencer and every row but the attic's. -/
theorem State.enterOff_shows (s : State) : s.enterOff.power = s.power ∧
    s.enterOff.rd .PWR_STATE_STAT_STATE = s.rd .PWR_STATE_STAT_STATE ∧
    s.enterOff.flag .PWR_EVT_STATE_DONE = s.flag .PWR_EVT_STATE_DONE :=
  ⟨(State.enterOff_within (.refl _ s) (covers_self _)).part .power (by decide +kernel),
    (State.enterOff_within (.refl _ s) (covers_self _)).keeps (by decide +kernel) _,
    (State.enterOff_within (.refl _ s) (covers_self _)).keepsFlag (by decide +kernel) _⟩

/-- R358: the new state shows, rings and alerts. -/
theorem State.enterState_shows (s : State) {t : Nat} (known : t ≤ 4) :
    (s.enterState t).rd .PWR_STATE_STAT_STATE = t ∧
      (s.enterState t).power.state = (if t = 3 ∧ s.flag .PWR_WATCH_CFG_EN = true then 5 else t) ∧
      (s.enterState t).power.heldTarget = s.power.heldTarget ∧ (s.enterState t).flag .PWR_EVT_STATE_DONE = true ∧
      (s.power.state ≠ t → t ≠ 4 → (s.enterState t).pins.smbAlert = true) := by
  obtain ⟨shown, state, held⟩ := s.takeState_shows known (t == 3 && s.flag .PWR_WATCH_CFG_EN)
  have alertPower (u : State) (c : Bool) : (u.when c State.alert).power = u.power := by cases c <;> rfl
  have alertRd (u : State) (c : Bool) (r : Row) : (u.when c State.alert).rd r = u.rd r := by cases c <;> rfl
  have offPower (u : State) (c : Bool) : (u.when c State.enterOff).power = u.power := by
    cases c
    · rfl
    · exact u.enterOff_shows.1
  have offState (u : State) (c : Bool) :
      (u.when c State.enterOff).rd .PWR_STATE_STAT_STATE = u.rd .PWR_STATE_STAT_STATE := by
    cases c
    · rfl
    · exact u.enterOff_shows.2.1
  have offDone (u : State) (c : Bool) :
      (u.when c State.enterOff).flag .PWR_EVT_STATE_DONE = u.flag .PWR_EVT_STATE_DONE := by
    cases c
    · rfl
    · exact u.enterOff_shows.2.2
  rw [State.enterState_eq]
  refine ⟨?_, ?_, ?_, ?_, fun changed stays => ?_⟩
  · rw [offState, alertRd, State.rd_evt_ne _ (by decide)]
    exact shown
  · rw [offPower, alertPower, State.evt_power, state]
    simp
  · rw [offPower, alertPower, State.evt_power, held]
  · rw [offDone, State.flag, alertRd]
    exact State.flag_evt_self _ _ _ rfl (by decide)
  · have moves : (t != s.power.state) = true := bne_iff_ne.mpr (Ne.symm changed)
    have remains : (t == 4) = false := beq_eq_false_iff_ne.mpr stays
    rw [moves, remains]
    rfl

/-- R358: the completed transition. -/
theorem State.entryDone_shows (s : State) {t : Nat} (known : t ≤ 4) (free : s.power.heldTarget = none) :
    (s.entryDone t).rd .PWR_STATE_STAT_STATE = t ∧
      (s.entryDone t).power.state = (if t = 3 ∧ s.flag .PWR_WATCH_CFG_EN = true then 5 else t) ∧
      (s.entryDone t).flag .PWR_EVT_STATE_DONE = true ∧
      (s.power.state ≠ t → t ≠ 4 → (s.entryDone t).pins.smbAlert = true) := by
  have watchKept (u : State) (w : Wing) (st : Nat) : (u.moveWing w st).flag .PWR_WATCH_CFG_EN = u.flag .PWR_WATCH_CFG_EN :=
    (State.moveWing_within (.refl _ u) (covers_self _) w st).keepsFlag (by decide +kernel) _
  have moved : s.StatesSame ((s.moveWing .a (s.wingUnder .a t)).moveWing .b (s.wingUnder .b t)) :=
    ((State.StatesSame.refl s).moveWing .a _).moveWing .b _
  obtain ⟨shown, state, held, done, alerted⟩ :=
    ((s.moveWing .a (s.wingUnder .a t)).moveWing .b (s.wingUnder .b t)).enterState_shows known
  rw [watchKept, watchKept] at state
  rw [moved.1] at alerted
  rw [moved.2, free] at held
  have ctxPower (u : State) (c : Bool) : (u.when c State.resetContexts).power = u.power := by
    cases c
    · rfl
    · exact (State.resetContexts_within (.refl _ u) (covers_self _)).part .power (by decide +kernel)
  have ctxPins (u : State) (c : Bool) : (u.when c State.resetContexts).pins = u.pins := by
    cases c
    · rfl
    · exact (State.resetContexts_within (.refl _ u) (covers_self _)).part .pins (by decide +kernel)
  have ctxRd (u : State) {r : Row} (h : spares State.resetContexts_touch r = true) :
      u.resetContexts.rd r = u.rd r :=
    (State.resetContexts_within (.refl _ u) (covers_self _)).keeps h _
  have after (u : State) (h : u.power.heldTarget = none) : u.afterTransition = u.requestWings := by
    rw [State.afterTransition, h]
  unfold State.entryDone
  dsimp only
  rw [moved.1]
  generalize ((s.moveWing .a (s.wingUnder .a t)).moveWing .b (s.wingUnder .b t)).enterState t = e at shown state held done alerted ⊢
  have held' : (e.when (s.power.state == 2 && decide (t < 2)) State.resetContexts).power.heldTarget = none := by
    rw [ctxPower, held]
  have shown' : (e.when (s.power.state == 2 && decide (t < 2)) State.resetContexts).rd .PWR_STATE_STAT_STATE = t :=
    (State.rd_when (f := State.resetContexts) (ctxRd e (by decide +kernel)) _).trans shown
  have done' : (e.when (s.power.state == 2 && decide (t < 2)) State.resetContexts).flag .PWR_EVT_STATE_DONE = true := by
    rw [State.flag, State.rd_when (f := State.resetContexts) (ctxRd e (by decide +kernel))]
    exact done
  rw [← ctxPower e (s.power.state == 2 && decide (t < 2))] at state
  rw [← ctxPins e (s.power.state == 2 && decide (t < 2))] at alerted
  generalize e.when (s.power.state == 2 && decide (t < 2)) State.resetContexts = c at held' shown' done' state alerted ⊢
  by_cases low : t < 3
  · rw [decide_eq_true low, State.when_true, after _ held']
    refine ⟨?_, ?_, ?_, fun changed stays => ?_⟩
    · rw [State.requestWings_rd _ (by decide +kernel)]
      exact shown'
    · rw [(State.StatesSame.refl c).requestWings.1]
      exact state
    · rw [State.flag, State.requestWings_rd _ (by decide +kernel)]
      exact done'
    · rw [(State.requestWings_within (.refl _ c) (covers_self _)).part .pins (by decide +kernel)]
      exact alerted changed stays
  · rw [decide_eq_false low, State.when_false]
    exact ⟨shown', state, done', alerted⟩

/-! ### A refusal in progress (R359) -/

theorem State.closeTimeout_power (s : State) (island : Nat) : (s.closeTimeout island).power = s.power :=
  (State.closeTimeout_within (.refl _ s) (covers_self _) island).part .power (by decide +kernel)

/-- R359: what the return to the previous state takes down leaves the rest of the sequencer. -/
theorem State.unraise_shows (s : State) : s.unraise.power.trans = s.power.trans ∧
    s.unraise.power.heldTarget = s.power.heldTarget ∧ s.unraise.rd .PWR_STATE_STAT_BUSY = s.rd .PWR_STATE_STAT_BUSY := by
  have down (u : State) (c : Bool) (ds : List Domain) : (u.when c (·.powerDown ds)).power.trans = u.power.trans ∧
      (u.when c (·.powerDown ds)).power.heldTarget = u.power.heldTarget ∧
      (u.when c (·.powerDown ds)).rd .PWR_STATE_STAT_BUSY = u.rd .PWR_STATE_STAT_BUSY := by
    cases c <;> exact ⟨rfl, rfl, rfl⟩
  unfold State.unraise
  dsimp only
  refine ⟨?_, ?_, ?_⟩
  · rw [(down _ _ _).1, (down _ _ _).1]
    rfl
  · rw [(down _ _ _).2.1, (down _ _ _).2.1]
    rfl
  · rw [(down _ _ _).2.2, (down _ _ _).2.2]
    rfl

/-- R359: back in the previous state no transition is in progress. -/
theorem State.returnState_shows (s : State) : s.returnState.power.trans = none ∧
    s.returnState.power.heldTarget = s.power.heldTarget ∧ s.returnState.flag .PWR_STATE_STAT_BUSY = false := by
  have laser (u : State) (w : Wing) : (u.optEval w).flag .PWR_STATE_STAT_BUSY = u.flag .PWR_STATE_STAT_BUSY :=
    (State.optEval_within (.refl _ u) (covers_self _) w).keepsFlag (by decide +kernel) _
  have settled (r : Row) : ((s.onPower (fun p => { p with trans := none })).wrb r [] false).power =
      { s.power with trans := none } := rfl
  obtain ⟨trans, held, busy⟩ :=
    ((s.onPower (fun p => { p with trans := none })).wrb .PWR_STATE_STAT_BUSY [] false).unraise_shows
  rw [settled] at trans held
  unfold State.returnState
  dsimp only
  refine ⟨?_, ?_, ?_⟩
  · rw [State.optEval_power, State.optEval_power]
    exact trans
  · rw [State.optEval_power, State.optEval_power]
    exact held
  · rw [laser, laser, State.flag, busy]
    exact State.flag_wrb_self _ _ _ _ (by decide)

end

/-- Settles O37: a request by what its refusal or its transition shows, a transition's end by what it leaves. -/
theorem powerStates : Obligations.PowerStates := by
  intro s
  refine ⟨fun req target taken up core known between other => answers_via (exec_stateTargetWrite ..) taken ?_,
    fun req target taken up known held => answers_via (exec_stateTargetWrite ..) taken ?_,
    fun req target taken beyond => answers_via (exec_stateTargetWrite ..) taken ?_,
    fun req wingA wingB taken up => answers_via (exec_wingStateWrite ..) taken s.begin.wingWrite_shows,
    fun x going ready free known => ?_, fun island reason x going may free => ?_⟩
  · have goes : ¬ (s.begin.power.trans.isSome || !s.begin.coreRuns) = true := by
      have between' : s.begin.power.trans = none := between
      have core' : s.begin.coreRuns = true := core
      rw [between', core']
      decide
    rw [State.targetWrite_of_known _ known, if_neg goes]
    have shows := (s.begin.wr .PWR_STATE_CTL_TARGET [] target).requestState_shows other between
    rw [State.refusal_wr_target] at shows
    exact shows
  · have waits : (s.begin.power.trans.isSome || !s.begin.coreRuns) = true := by
      obtain going | down := held
      · have going' : s.begin.power.trans.isSome = true := Option.isSome_iff_ne_none.mpr going
        rw [going', Bool.true_or]
      · have down' : s.begin.coreRuns = false := down
        rw [down', Bool.not_false, Bool.or_true]
    rw [State.targetWrite_of_known _ known, if_pos waits]
    exact ⟨rfl, rfl⟩
  · rw [State.targetWrite, if_pos beyond]
    exact ⟨rfl, rfl⟩
  · have going' : s.begin.power.trans = some x := going
    have ready' : s.begin.entryReady x = true := ready
    refine ⟨s.begin.entryDone x, ?_, s.begin.entryDone_shows known free⟩
    rw [exec_stateEntryDone, execStateEntryDone]
    simp only [going', ready', State.when_true]
  · have going' : s.begin.power.trans = some x := going
    have may' : s.begin.mayRefuse x island reason = true := may
    have told (t : State) (h : t.power = s.begin.power) :
        let u := ((t.returnState).refuse island reason x (abortsEntry reason)).actHeld
        u.power.trans = none ∧ u.flag .PWR_STATE_STAT_BUSY = false ∧ u.rd .PWR_LAST_REFUSE_ISLAND = island ∧
          u.rd .PWR_LAST_REFUSE_REASON = reason ∧ u.flag .PWR_LAST_REFUSE_ABORT = abortsEntry reason ∧
          u.flag .PWR_EVT_REFUSED = true := by
      obtain ⟨trans, held, busy⟩ := t.returnState_shows
      obtain ⟨-, shown, why, abort, rung⟩ := t.returnState.refuse_shows island x (abortsEntry reason) reason.isLt
      have nothing (u : State) (hu : u.power.heldTarget = none) : u.actHeld = u := by
        rw [State.actHeld, hu]
        rfl
      have still : (t.returnState.refuse island reason x (abortsEntry reason)).power.heldTarget = none := by
        rw [State.refuse_power, held, h]
        exact free
      dsimp only
      rw [nothing _ still, State.refuse_power]
      refine ⟨trans, ?_, shown.trans (Nat.mod_eq_of_lt (by omega)), why, abort, rung⟩
      exact ((State.refuse_within (.refl _ t.returnState) (covers_self _) _ _ _ _).keepsFlag (by decide +kernel) _).trans
        busy
    refine ⟨_, ?_, told (s.begin.when (reason.val == 1) (·.closeTimeout island)) ?_⟩
    · rw [exec_stateEntryRefuse, execStateEntryRefuse]
      simp only [going', may', State.when_true]
    · cases (reason.val == 1)
      · rfl
      · exact State.closeTimeout_power ..

end Sys2Proof.Machine
end

section
/-!
Failed islands, the control core, scrub, recovery and injection (R370 to R381): O39.
-/

namespace Sys2Proof.Machine

-- One theorem at a time bounds the memory of the whole text's check.
set_option Elab.async false

section
variable {s : State}

/-! ### A failed island (R378, R379) -/

theorem State.abortStop_rd (s : State) (kind i peer : Nat) {r : Row} (h : spares State.abortStop_touch r = true)
    (ix : List Nat) : (s.abortStop kind i peer).rd r ix = s.rd r ix :=
  (State.abortStop_within (.refl _ s) (covers_self _) kind i peer).keeps h ix

theorem State.emit_rd (s : State) {r : Row} (h : spares State.emit_touch r = true) (island n c a b : Nat)
    (ix : List Nat) : (s.emit island n c a b).rd r ix = s.rd r ix :=
  (State.emit_within (.refl _ s) (covers_self _) island n c a b).keeps h ix

theorem State.assertFault_rd (s : State) (r : Row) (ix : List Nat) : s.assertFault.rd r ix = s.rd r ix := by
  unfold State.assertFault
  split <;> rfl

theorem State.assertFault_low (s : State) : s.assertFault.pins.faultN = true := by
  unfold State.assertFault
  split
  next set => exact set
  next => rfl

theorem State.recordFault_rd (s : State) (kind i peer : Nat) {r : Row} (h : spares State.recordFault_touch r = true)
    (ix : List Nat) : (s.recordFault kind i peer).rd r ix = s.rd r ix :=
  (State.recordFault_within (.refl _ s) (covers_self _) kind i peer).keeps h ix

/-- R378: the first fault since VALID was cleared is the one shown. -/
theorem State.recordFault_first (s : State) (kind i peer : Nat) (clear : s.flag .RAS_FAULT_VALID = false) :
    (s.recordFault kind i peer).rd .RAS_FAULT_ISLAND = i % 32 ∧
      (s.recordFault kind i peer).rd .RAS_FAULT_PEER = peer % 32 := by
  unfold State.recordFault
  rw [clear]
  refine ⟨?_, State.rd_wr_self ..⟩
  exact (State.rd_wr_ne _ (by decide) ..).trans (State.rd_wr_self ..)

/-- R19, R379: what the failure of an island shows. -/
theorem State.declareFailed_shows (s : State) (kind peer : Nat) {i : Nat} (low : i < 25)
    (sound : s.islandFailed i = false) :
    (s.declareFailed kind i peer).islandFailed i = true ∧ (s.declareFailed kind i peer).flag .RAS_STAT_FAILED = true ∧
      (s.declareFailed kind i peer).flag .RAS_EVT_FAULT = true ∧ (s.declareFailed kind i peer).pins.faultN = true ∧
      (s.flag .RAS_FAULT_VALID = false → (s.declareFailed kind i peer).rd .RAS_FAULT_ISLAND = i % 32 ∧
        (s.declareFailed kind i peer).rd .RAS_FAULT_PEER = peer % 32) := by
  unfold State.declareFailed
  rw [sound]
  simp only [Bool.false_eq_true, if_false]
  refine ⟨?_, ?_, ?_, State.assertFault_low _, fun clear => ⟨?_, ?_⟩⟩
  · rw [State.islandFailed, State.assertFault_rd, State.rd_evt_ne _ (by decide), State.emit_rd _ (by decide +kernel),
      State.rd_wrb_ne _ (by decide), State.rd_wr_self, Nat.testBit_mod_two_pow, setBit]
    have width : Row.RAS_STAT_FAILED_MAP.width = 25 := rfl
    simp [width, low]
  · rw [State.flag, State.assertFault_rd, State.rd_evt_ne _ (by decide), State.emit_rd _ (by decide +kernel)]
    exact State.flag_wrb_self _ .RAS_STAT_FAILED [] true (by decide)
  · rw [State.flag, State.assertFault_rd]
    exact State.flag_evt_self _ _ _ rfl (by decide)
  · rw [State.assertFault_rd, State.rd_evt_ne _ (by decide), State.emit_rd _ (by decide +kernel),
      State.rd_wrb_ne _ (by decide), State.rd_wr_ne _ (by decide)]
    exact (s.recordFault_first kind i peer clear).1
  · rw [State.assertFault_rd, State.rd_evt_ne _ (by decide), State.emit_rd _ (by decide +kernel),
      State.rd_wrb_ne _ (by decide), State.rd_wr_ne _ (by decide)]
    exact (s.recordFault_first kind i peer clear).2

/-- R19, R26, R379: an island's failure may abort a stop, and still shows. -/
theorem State.islandFails_shows (s : State) (kind peer : Nat) {i : Nat} (low : i < 25)
    (sound : s.islandFailed i = false) :
    (s.islandFails kind i peer).islandFailed i = true ∧ (s.islandFails kind i peer).flag .RAS_STAT_FAILED = true ∧
      (s.islandFails kind i peer).flag .RAS_EVT_FAULT = true ∧ (s.islandFails kind i peer).pins.faultN = true ∧
      (s.flag .RAS_FAULT_VALID = false → (s.islandFails kind i peer).rd .RAS_FAULT_ISLAND = i % 32 ∧
        (s.islandFails kind i peer).rd .RAS_FAULT_PEER = peer % 32) := by
  obtain ⟨fails, failed, rung, pin, record⟩ := s.declareFailed_shows kind peer low sound
  have shown : s.islandFails kind i peer = (s.declareFailed kind i peer).abortStop kind i peer := by
    rw [State.islandFails, sound]
    rfl
  rw [shown]
  refine ⟨?_, ?_, ?_, ?_, fun clear => ⟨?_, ?_⟩⟩
  · rw [State.islandFailed, State.abortStop_rd _ _ _ _ (by decide +kernel)]
    exact fails
  · rw [State.flag, State.abortStop_rd _ _ _ _ (by decide +kernel)]
    exact failed
  · rw [State.flag, State.abortStop_rd _ _ _ _ (by decide +kernel)]
    exact rung
  · rw [(State.abortStop_within (.refl _ _) (covers_self _) kind i peer).part .pins (by decide +kernel)]
    exact pin
  · rw [State.abortStop_rd _ _ _ _ (by decide +kernel)]
    exact (record clear).1
  · rw [State.abortStop_rd _ _ _ _ (by decide +kernel)]
    exact (record clear).2

/-! ### The control core (R378) -/

theorem State.evtLog_flag (s : State) {r : Row} (bit : r.width = 1) (bell : ∀ x ∈ bellRows, x.id ≠ r.id)
    (kept : spares State.emit_touch r = true) (island n : Nat) : (s.evtLog r [] island n).flag r = true := by
  rw [State.evtLog, State.flag, State.emit_rd _ kept]
  exact State.flag_evt_self _ _ _ bit bell

/-- R378: what a miscompare shows. -/
theorem State.miscompare_shows (s : State) (up : s.ras.coreDown = false) (clocked : s.clocked 3 = true) :
    s.miscompare.ras.coreDown = true ∧ s.miscompare.flag .RAS_EVT_LOCKSTEP = true ∧
      s.miscompare.rd .RAS_LOCKSTEP_MISCOMPARE =
        (s.rd .RAS_LOCKSTEP_MISCOMPARE + 1) % 2 ^ Row.RAS_LOCKSTEP_MISCOMPARE.width := by
  have goes : ¬ (s.ras.coreDown || !s.clocked 3) = true := by
    rw [up, clocked]
    decide
  have logged (t : State) : (t.evtLog .RAS_EVT_LOCKSTEP [] 3 0).ras = t.ras :=
    ((State.emit_within (.refl _ _) (covers_self _) _ _ _ _ _).part .ras (by decide +kernel)).trans (State.evt_ras ..)
  have counted (t : State) : (t.countWrap .RAS_LOCKSTEP_MISCOMPARE []).ras = t.ras :=
    t.countWrap_same _ _ _ (p := .ras) (by decide)
  have recorded (t : State) : (t.recordFault 5 3 0).ras = t.ras :=
    (State.recordFault_within (.refl _ t) (covers_self _) 5 3 0).part .ras (by decide +kernel)
  unfold State.miscompare
  rw [if_neg goes]
  dsimp only
  refine ⟨?_, State.evtLog_flag _ rfl (by decide) (by decide +kernel) _ _, ?_⟩
  · rw [logged, counted, recorded]
  · rw [State.evtLog, State.emit_rd _ (by decide +kernel), State.rd_evt_ne _ (by decide), State.rd_countWrap_self,
      State.recordFault_rd _ _ _ _ (by decide +kernel)]
    rfl

/-- R378: what the cores' restart shows. -/
theorem State.coreBack_shows (s : State) : s.coreBack.ras.coreDown = false ∧
    s.coreBack.rd .RAS_LOCKSTEP_RESTARTS =
      (s.rd .RAS_LOCKSTEP_RESTARTS + 1) % 2 ^ Row.RAS_LOCKSTEP_RESTARTS.width := by
  have refreshed (t : State) (w : Wing) : (t.icmRefresh w).ras = t.ras ∧
      (t.icmRefresh w).rd .RAS_LOCKSTEP_RESTARTS = t.rd .RAS_LOCKSTEP_RESTARTS :=
    ⟨(State.icmRefresh_within (.refl _ t) (covers_self _) w).part .ras (by decide +kernel),
      (State.icmRefresh_within (.refl _ t) (covers_self _) w).keeps (by decide +kernel) _⟩
  have after (t : State) (c : Bool) : (t.when c State.afterTransition).ras = t.ras ∧
      (t.when c State.afterTransition).rd .RAS_LOCKSTEP_RESTARTS = t.rd .RAS_LOCKSTEP_RESTARTS := by
    cases c
    · exact ⟨rfl, rfl⟩
    · exact ⟨(State.afterTransition_within (.refl _ t) (covers_self _)).part .ras (by decide +kernel),
        (State.afterTransition_within (.refl _ t) (covers_self _)).keeps (by decide +kernel) _⟩
  have counted (t : State) : (t.countWrap .RAS_LOCKSTEP_RESTARTS []).ras = t.ras :=
    t.countWrap_same _ _ _ (p := .ras) (by decide)
  unfold State.coreBack
  dsimp only
  refine ⟨?_, ?_⟩
  · rw [(refreshed _ _).1, (refreshed _ _).1, (after _ _).1, counted]
  · rw [(refreshed _ _).2, (refreshed _ _).2, (after _ _).2, State.rd_countWrap_self]
    rfl

/-! ### Memories (R370, R373, R374) -/

theorem State.auditDone_audit (s : State) : s.auditDone.ras.audit = [] := by
  have released (t : State) (q : Nat) (x : Queued) : (t.releaseFrame q x).ras = t.ras :=
    (State.releaseFrame_within (.refl _ t) (covers_self _) q x).part .ras (by decide +kernel)
  unfold State.auditDone
  exact List.foldlRecOn (motive := fun t : State => t.ras.audit = []) _ _ rfl
    fun t ht e _ => (congrArg Reliability.audit (released t e.1 e.2)).trans ht

theorem State.healed_rd (s : State) (l : MemLine) (r : Row) (ix : List Nat) : (s.healed l).rd r ix = s.rd r ix := rfl

/-- R370, R374: LAST shows the last error. -/
theorem State.lastError_shows (s : State) (l : MemLine) (type : Nat) :
    (s.lastError l type).rd .RAS_MEM_LAST_TYPE [l.mem] = type % 2 ^ Row.RAS_MEM_LAST_TYPE.width ∧
      (s.lastError l type).rd .RAS_MEM_LAST_BANK [l.mem] = l.bank % 2 ^ Row.RAS_MEM_LAST_BANK.width := by
  unfold State.lastError
  refine ⟨?_, ?_⟩
  · rw [State.rd_wr_ne _ (by decide), State.rd_wr_ne _ (by decide), State.rd_wr_self]
  · rw [State.rd_wr_ne _ (by decide), State.rd_wr_self]

theorem State.lastError_rd (s : State) (l : MemLine) (type : Nat) {r : Row}
    (h : spares State.lastError_touch r = true) (ix : List Nat) : (s.lastError l type).rd r ix = s.rd r ix :=
  (State.lastError_within (.refl _ s) (covers_self _) l type).keeps h ix

/-- R370: a correction counts and shows. -/
theorem State.correct_shows (s : State) (l : MemLine) :
    (s.correct l).rd .RAS_MEM_CE_COUNT [l.mem] =
        satAdd Row.RAS_MEM_CE_COUNT.width (s.rd .RAS_MEM_CE_COUNT [l.mem]) 1 ∧
      (s.correct l).rd .RAS_MEM_LAST_TYPE [l.mem] = 1 ∧
      (s.correct l).rd .RAS_MEM_LAST_BANK [l.mem] = l.bank % 2 ^ Row.RAS_MEM_LAST_BANK.width := by
  have remapped (t : State) {r : Row} (h : spares State.remap_touch r = true) (ix : List Nat) :
      (t.remap l).rd r ix = t.rd r ix :=
    (State.remap_within (.refl _ t) (covers_self _) l).keeps h ix
  have kept (t : State) (f : Reliability → Reliability) (r : Row) (ix : List Nat) : ({ t with ras := f t.ras } : State).rd r ix = t.rd r ix := rfl
  obtain ⟨type, bank⟩ := ((s.healed l).count .RAS_MEM_CE_COUNT [l.mem]).lastError_shows l 1
  unfold State.correct
  dsimp only
  refine ⟨?_, ?_, ?_⟩
  · rw [State.rd_when (f := (·.remap l)) (remapped _ (by decide +kernel) _)]
    refine (kept _ (fun x => { x with corrected := _ }) ..).trans ?_
    rw [State.lastError_rd _ _ _ (by decide +kernel), State.rd_count_self, State.healed_rd]
  · rw [State.rd_when (f := (·.remap l)) (remapped _ (by decide +kernel) _)]
    exact (kept _ (fun x => { x with corrected := _ }) ..).trans type
  · rw [State.rd_when (f := (·.remap l)) (remapped _ (by decide +kernel) _)]
    exact (kept _ (fun x => { x with corrected := _ }) ..).trans bank

/-- R373: an uncorrectable error of a pantry cell counts and rings; no queue comes or goes. -/
theorem State.cellDamaged_shows (s : State) (l : MemLine) :
    (s.cellDamaged l).rd .RAS_MEM_UE_COUNT [l.mem] =
        satAdd Row.RAS_MEM_UE_COUNT.width (s.rd .RAS_MEM_UE_COUNT [l.mem]) 1 ∧
      (s.cellDamaged l).flag .RAS_EVT_UE_DATA = true ∧
      (s.cellDamaged l).pan.queues.map (·.1) = s.pan.queues.map (·.1) := by
  have counted (t : State) : (t.uncorrectable l).pan = t.pan :=
    (State.uncorrectable_within (.refl _ t) (covers_self _) l).part .pan (by decide +kernel)
  unfold State.cellDamaged
  dsimp only
  refine ⟨?_, State.flag_evt_self _ _ _ rfl (by decide), ?_⟩
  · rw [State.rd_evt_ne _ (by decide), State.uncorrectable, State.lastError_rd _ _ _ (by decide +kernel),
      State.rd_count_self, State.healed_rd]
    rfl
  · rw [State.evt_pan, counted]
    simp

/-- R375: the patrol scrub treats what it finds. -/
theorem scrubRead_answers {l : MemLine} {found : EccRead} (on : s.flag .RAS_SCRUB_EN = true) {P : State → Prop}
    (hP : P (match s.begin.foundAt l found with
      | .clean => s.begin
      | .single => s.begin.correct l
      | .double => s.begin.lineDamaged l)) : Answers (.scrubRead l found) s P := by
  refine ⟨_, ?_, hP⟩
  have on' : s.begin.flag .RAS_SCRUB_EN = true := on
  rw [exec_scrubRead, execScrubRead, State.scrub, on']
  rfl

/-! ### Recovery (R379) -/

theorem State.rd_keepRows (new old : State) {rows : List Row} {r : Row} (h : ∀ x ∈ rows, x.id ≠ r.id) (ix : List Nat) :
    (new.keepRows old rows).rd r ix = new.rd r ix := by
  unfold State.keepRows
  refine List.foldlRecOn (motive := fun t : State => t.rd r ix = new.rd r ix) rows _ rfl fun t ht x hx => ?_
  have same : tabGet [] (tabSet [] t.store x.id (tabGet [] old.store x.id)) r.id = tabGet [] t.store r.id :=
    tabGet_set_ne _ _ _ (h x hx).symm
  rw [← ht, State.rd, State.rd, same]

/-- R10: what a module reset with AON powered leaves of a row that it does not keep, and of the attic's records. -/
theorem State.resetModule_fresh (s : State) :
    (s.resetModule true []).rd .RAS_STAT_FAILED_MAP = 0 ∧ (s.resetModule true []).attic.recs = s.attic.recs := by
  have kept : ∀ x ∈ fuseRows ++ (if true then atticRows else []) ++ [.PWR_VIN_STAT_VIN] ++ [],
      x.id ≠ Row.RAS_STAT_FAILED_MAP.id := by decide +kernel
  have pins (t : State) : t.showTxDis.rd .RAS_STAT_FAILED_MAP = t.rd .RAS_STAT_FAILED_MAP :=
    (State.showTxDis_within (.refl _ t) (covers_self _)).keeps (by decide +kernel) _
  have attic (t : State) : t.showTxDis.attic = t.attic :=
    (State.showTxDis_within (.refl _ t) (covers_self _)).part .attic (by decide +kernel)
  have rows (new old : State) (l : List Row) : (new.keepRows old l).attic = new.attic :=
    List.foldlRecOn (motive := fun t : State => t.attic = new.attic) l _ rfl fun _ h _ _ => h
  have base (r : Row) : (s.resetBase true).rd r = r.rst := State.rd_reset r []
  have recs : (s.resetBase true).attic.recs = s.attic.recs := rfl
  unfold State.resetModule
  dsimp only
  refine ⟨?_, ?_⟩
  · rw [pins, State.rd_keepRows _ _ kept, base]
    rfl
  · rw [attic, rows, recs]

theorem State.wakeRec_failedMap (s : State) (cause origin : Nat) (flag : Bool) :
    (s.wakeRec cause origin flag).rd .RAS_STAT_FAILED_MAP = s.rd .RAS_STAT_FAILED_MAP :=
  (State.wakeRec_within (.refl _ s) (covers_self _) cause origin flag).keeps (by decide +kernel) _

theorem State.wakeRec_attic (s : State) (cause origin : Nat) (flag : Bool) :
    (s.wakeRec cause origin flag).attic = s.attic :=
  (State.wakeRec_within (.refl _ s) (covers_self _) cause origin flag).part .attic (by decide +kernel)

theorem State.startAt_attic (s : State) (step : Nat) (wake hostMode : Bool) :
    (s.startAt step wake hostMode).attic = s.attic := rfl

/-- R10, R361: a module reset by RECOVER shows no failed island, and keeps the attic. -/
theorem State.commandReset_fresh (s : State) (cause : Nat) (hostMode : Bool) :
    (s.commandReset cause hostMode).rd .RAS_STAT_FAILED_MAP = 0 ∧
      (s.commandReset cause hostMode).attic.recs = s.attic.recs := by
  refine ⟨?_, ?_⟩
  · rw [State.commandReset, State.startAt_rd, State.wakeRec_failedMap, s.resetModule_fresh.1]
  · rw [State.commandReset, State.startAt_attic, State.wakeRec_attic, s.resetModule_fresh.2]

/-- R379: RECOVER with module scope resets the module. -/
theorem State.recover_whole (s : State) (allowed : s.recoverRefused = false) (whole : s.rd .RAS_CTL_SCOPE = 3) :
    s.recover = s.commandReset 7 false := by
  rw [State.recover, allowed, whole]
  rfl

/-- R381: the fault record is cleared. -/
theorem State.clearFault_shows (s : State) :
    s.clearFault.flag .RAS_FAULT_VALID = false ∧ s.clearFault.rd .RAS_FAULT_KIND = 0 := by
  unfold State.clearFault
  refine ⟨?_, ?_⟩
  · rw [State.flag, State.rd_wr_ne _ (by decide), State.rd_wr_ne _ (by decide), State.rd_wr_ne _ (by decide)]
    exact State.flag_wrb_self s .RAS_FAULT_VALID [] false (by decide)
  · rw [State.rd_wr_ne _ (by decide), State.rd_wr_ne _ (by decide), State.rd_wr_self]
    rfl

end

/-- Settles O39: the failures by what declaring one shows, the memories by what a scrub's finding leads to, a recovery
by the reset. -/
theorem faultsAndRecovery : Obligations.FaultsAndRecovery := by
  intro s
  have failing (kind : Nat) (peer : Nat) (i : Fin 25) (sound : s.islandFailed i = false) :=
    s.begin.islandFails_shows kind peer i.isLt sound
  refine ⟨fun i swept clocked sound => ?_, fun i watched sound => ?_, fun sender i on from_ clocked sound => ?_,
    ⟨_, rfl, State.evtLog_flag _ rfl (by decide) (by decide +kernel) _ _⟩,
    fun up clocked => ⟨_, rfl, s.begin.miscompare_shows up clocked⟩, fun down => ?_,
    ⟨_, rfl, s.begin.auditDone_audit⟩, fun l found on single => scrubRead_answers on ?_,
    fun l found on double cell => scrubRead_answers on ?_, fun req taken refused => ?_,
    fun req taken allowed whole => ?_, fun req taken known => answers_via (exec_eccInjectArm ..) taken ?_,
    fun req taken => answers_via (exec_faultClear ..) taken s.begin.clearFault_shows⟩
  · obtain ⟨fails, failed, rung, pin, -⟩ := failing 1 0 i sound
    have goes : (s.begin.flag .RAS_STAT_SWEEP_EN && s.begin.clocked i) = true := Bool.and_eq_true_iff.mpr ⟨swept, clocked⟩
    refine ⟨_, ?_, fails, failed, rung, pin⟩
    rw [exec_parityMismatch, execParityMismatch, goes]
    rfl
  · obtain ⟨fails, failed, rung, pin, -⟩ := failing 3 0 i sound
    have goes : s.begin.clockWatched i = true := watched
    refine ⟨_, ?_, fails, failed, rung, pin⟩
    rw [exec_clockLoss, execClockLoss, goes]
    rfl
  · obtain ⟨fails, failed, rung, pin, record⟩ := failing 2 sender i sound
    have goes : (s.begin.flag .RAS_STAT_DWTO_EN && s.begin.clocked sender && s.begin.clocked i) = true :=
      Bool.and_eq_true_iff.mpr ⟨Bool.and_eq_true_iff.mpr ⟨on, from_⟩, clocked⟩
    refine ⟨s.begin.islandFails 2 i sender, ?_, fails, failed, rung, pin, fun clear => ?_⟩
    · rw [exec_doorwayTimeout, execDoorwayTimeout, goes]
      rfl
    · obtain ⟨island, peer⟩ := record clear
      exact ⟨island.trans (Nat.mod_eq_of_lt (by omega)), peer.trans (Nat.mod_eq_of_lt (by omega))⟩
  · have down' : s.begin.ras.coreDown = true := down
    refine ⟨s.begin.coreBack, ?_, s.begin.coreBack_shows⟩
    rw [exec_coreRestartDone, execCoreRestartDone, down']
    rfl
  · rw [show s.begin.foundAt l found = .single from single]
    exact s.begin.correct_shows l
  · have pantry : s.begin.lineDamaged l = s.begin.cellDamaged l := by
      rw [State.lineDamaged, cell]
      rfl
    rw [show s.begin.foundAt l found = .double from double]
    dsimp only
    rw [pantry]
    exact s.begin.cellDamaged_shows l
  · refine answers_via (exec_recover ..) taken ?_
    rw [show s.begin.recover = s.begin.wrb .RAS_CTL_REFUSED [] true from if_pos refused]
    exact ⟨State.flag_wrb_self _ _ _ _ (by decide), State.rd_wrb_ne s.begin (by decide) ..⟩
  · refine answers_via (exec_recover ..) taken ?_
    rw [s.begin.recover_whole allowed whole]
    obtain ⟨cause, -, -, image⟩ := s.begin.commandReset_shows 7 false
    obtain ⟨none, recs⟩ := s.begin.commandReset_fresh 7 false
    refine ⟨cause, none, ?_, recs⟩
    rw [image]
    rfl
  · have known' : decide (s.begin.rd .RAS_INJ_MEM < 6) = true := decide_eq_true known
    rw [State.armInjection, known']
    exact State.flag_wrb_self _ _ _ _ (by decide)

end Sys2Proof.Machine
end

section
/-!
Pass-through against admission (R281, R289): O32 fails.
-/

namespace Sys2Proof.Machine

-- One theorem at a time bounds the memory of the whole text's check.
set_option Elab.async false

/-- A running module whose client port 0, linked and enabled, is mapped to channel 0, which holds one slot and whose
queues are empty: what the port receives passes straight through (R289). -/
def passState : State :=
  { Tests.running [(.CLI_PORT_STAT_LINK, [0], 1), (.HAL_MAP_VALID, [0], 1), (.CLI_PORT_CFG_ENABLE, [0], 1),
      (.SCH_CH_RATE_SLOTS, [0], 1), (.PAN_SHARED_FREE, [], 1000), (.PAN_EQ_CFG_ALPHA, [0], 4),
      (.PAN_EQ_CFG_RESERVE, [0], 9)] with
    tx := ⟨{ TxRate.reset with enabled := 1 }, TxRate.reset⟩
    image := { ImageState.reset with
      running := some { Tests.img0 with pantry := ⟨[(0, 1000)], 0, 0, 0, 785432, 1000, 1000, 1000⟩ } } }

/-- The state meets what the statement asks of a frame of 64 bytes on port 0. -/
theorem passState_admits : passState.isRunning = true ∧ passState.flag .CLI_PORT_STAT_LINK [0] = true ∧
    passState.rd .HAL_LB_MODE [0] = 0 ∧ passState.portFailed 0 = false ∧ passState.power.state = 0 ∧
    passState.blockFailed 3 = false ∧ passState.blockStopped 2 = false ∧
    passState.flag .CLI_POL_CTL_EN [0, passState.classOf 0 Tests.frame0] = false ∧
    passState.flag .HAL_MAP_VALID [0] = true ∧ passState.flag .HAL_MAP_PROT [0] = false ∧
    passState.flag .CLI_PORT_CFG_ENABLE [0] = true ∧
    0 = 8 * passState.rd .HAL_MAP_CHAN [0] + passState.classOf 0 Tests.frame0 ∧ passState.queueStopped 0 = false ∧
    passState.descFor 0 = some true ∧
    (passState.sourceFor 0 (cellsOf Tests.frame0.len) false).toOption = some .reserve := by
  decide +kernel

/-- R289: the frame is handed on at once, and its queue is empty again. -/
theorem passState_passes :
    (passState.begin.passThrough (passState.begin.clientFrame 0 Tests.frame0 false) 0
      (passState.begin.classOf 0 Tests.frame0)).queue 0 = [] := by
  decide +kernel

/-- Refutes O32: a frame that finds its egress queue empty, on a channel that the port can keep up with, passes straight
through (R289): it is admitted and handed on by the same command, and does not stand in its queue. -/
theorem not_framesEnterQueues : ¬ Obligations.FramesEnterQueues := by
  intro h
  obtain ⟨run, link, loop, sound, clocked, island, block, unpoliced, mapped, plain, on, queue, going, desc, cells⟩ :=
    passState_admits
  obtain ⟨t, ran, stands⟩ := (h passState).1 0 Tests.frame0 0 true .reserve run link loop sound (by decide) (by decide)
    clocked island block unpoliced mapped plain on queue going desc cells
  have next : exec (.clientFrameRx 0 Tests.frame0 false) passState = .next
      (passState.begin.passThrough (passState.begin.clientFrame 0 Tests.frame0 false) 0
        (passState.begin.classOf 0 Tests.frame0)) := rfl
  rw [next] at ran
  cases ran
  have empty : passState.queue 0 = [] := by decide +kernel
  have stands' : [] = [] ++ [Tests.frame0] := by
    rw [passState_passes, empty] at stands
    exact stands
  cases stands'

end Sys2Proof.Machine
end

section
/-!
The board manager (R420): O49.
-/

namespace Sys2Proof.Machine

-- One theorem at a time bounds the memory of the whole text's check.
set_option Elab.async false

section
variable {s : State}

/-! ### Answers -/

theorem State.smbAnswer_out (s : State) (up : s.smbUp = true) (bytes : List Nat) :
    (s.smbAnswer bytes).out = s.out ++ [.smbus bytes] := by
  rw [State.smbAnswer, up, State.when_true, State.say_out]

theorem State.smbAnswer_silent (s : State) (off : s.smbUp = false) (bytes : List Nat) : s.smbAnswer bytes = s := by
  rw [State.smbAnswer, off, State.when_false]

theorem State.smbUp_of_awake (awake : s.power.state ≤ 2) : s.smbUp = true := by
  rw [State.smbUp, Bool.and_eq_true, bne_iff_ne, bne_iff_ne]
  omega

theorem State.smbUp_of_stale (stale : s.smbStale = true) : s.smbUp = true := by
  rw [State.smbStale, Bool.or_eq_true, beq_iff_eq, beq_iff_eq] at stale
  rw [State.smbUp, Bool.and_eq_true, bne_iff_ne, bne_iff_ne]
  omega

theorem State.awake_of_stale (stale : s.smbStale = true) : ¬ s.power.state ≤ 2 := by
  rw [State.smbStale, Bool.or_eq_true, beq_iff_eq, beq_iff_eq] at stale
  omega

theorem State.smbUp_off (off : s.power.state = 4) : s.smbUp = false := by
  rw [State.smbUp, off]
  rfl

/-! ### Temperatures -/

theorem State.noteTemp_power (s : State) (ch : Nat) (v : Int) : (s.noteTemp ch v).power = s.power := rfl

theorem State.noteTemp_out (s : State) (ch : Nat) (v : Int) : (s.noteTemp ch v).out = s.out := rfl

theorem State.noteTemp_self (s : State) (ch : Nat) (v : Int) : tabGet 0 (s.noteTemp ch v).sup.temps ch = v :=
  tabGet_set_self ..

theorem State.noteTemp_ne (s : State) {ch other : Nat} (h : other ≠ ch) (v : Int) :
    tabGet 0 (s.noteTemp ch v).sup.temps other = tabGet 0 s.sup.temps other :=
  tabGet_set_ne _ _ _ h

theorem State.noteDie_keeps (s : State) (v : Int) : (s.noteDie v).power = s.power ∧ (s.noteDie v).out = s.out := by
  unfold State.noteDie
  rw [State.noteTemp_power, State.noteTemp_out]
  exact List.foldlRecOn (motive := fun t : State => t.power = s.power ∧ t.out = s.out) _ _ ⟨rfl, rfl⟩ fun t h k _ =>
    ⟨(t.noteTemp_power ..).trans h.1, (t.noteTemp_out ..).trans h.2⟩

/-- The die sensors' readings are cut at the reading taken. -/
theorem State.noteDie_low (s : State) (v : Int) {k : Nat} (low : k < 8) :
    tabGet 0 (s.noteDie v).sup.temps (16 + k) ≤ v := by
  have cut : tabGet 0 (s.upTo 8 (fun t k => t.noteTemp (16 + k) (min v (tabGet 0 t.sup.temps (16 + k))))).sup.temps
      (16 + k) ≤ v := by
    refine State.upTo_establishes (Q := fun _ => True) (P := fun t : State => tabGet 0 t.sup.temps (16 + k) ≤ v) low
      trivial (fun _ _ _ _ => trivial) (fun t _ => ?_) (fun t m hm ht => ?_)
    · rw [State.noteTemp_self]
      exact min_le_left ..
    · rw [State.noteTemp_ne _ (by omega)]
      exact ht
  unfold State.noteDie
  by_cases first : k = 0
  · subst first
    exact le_of_eq (State.noteTemp_self ..)
  · rw [State.noteTemp_ne _ (by omega)]
    exact cut

theorem foldl_max_le (f : Nat → Int) {v m : Int} (hm : m ≤ v) (l : List Nat) (hl : ∀ k ∈ l, f k ≤ v) :
    l.foldl (fun m k => max m (f k)) m ≤ v := by
  induction l generalizing m with
  | nil => exact hm
  | cons k l ih =>
    exact ih (max_le hm (hl k (List.mem_cons_self ..))) fun j hj => hl j (List.mem_cons_of_mem _ hj)

theorem le_foldl_max (f : Nat → Int) (m : Int) (l : List Nat) : m ≤ l.foldl (fun m k => max m (f k)) m := by
  induction l generalizing m with
  | nil => exact le_refl m
  | cons k l ih => exact le_trans (le_max_left ..) (ih _)

/-- R420: the highest die reading is the one taken. -/
theorem State.noteDie_dieTemp (s : State) (v : Int) : (s.noteDie v).dieTemp = v := by
  have first : tabGet 0 (s.noteDie v).sup.temps 16 = v := State.noteTemp_self ..
  unfold State.dieTemp
  rw [first]
  refine le_antisymm (foldl_max_le (fun k => tabGet 0 (s.noteDie v).sup.temps (16 + k)) (le_refl v) _ fun k hk => ?_)
    (le_foldl_max ..)
  exact s.noteDie_low v (List.mem_range.mp hk)

/-! ### WAKE_CMD (R361) -/

theorem State.smbWakeUp_asleep (sleeps : s.asleep = true) (allowed : s.flag .PWR_WAKE_CFG_SMB_EN = true) :
    s.smbWakeUp = s.wake 2 := by
  have up : s.smbUp = true := State.smbUp_of_stale (s := s) sleeps
  rw [State.smbWakeUp, up, allowed, sleeps]
  rfl

theorem State.smbWakeUp_refused (up : s.smbUp = true) (barred : s.flag .PWR_WAKE_CFG_SMB_EN = false) :
    s.smbWakeUp = s.say .smbusNack := by
  rw [State.smbWakeUp, up, barred]
  rfl

theorem State.smbWakeUp_off (off : s.smbUp = false) : s.smbWakeUp = s := by
  rw [State.smbWakeUp, off]
  rfl

end

/-- Settles O49, command by command, by what each answers where AON is up and where it is not. -/
theorem boardManager : Obligations.BoardManager := by
  intro s
  refine ⟨fun up => ?_, fun v awake => ?_, fun v stale => ?_, fun sleeps allowed => ?_, fun up barred => ?_, fun up => ?_,
    fun up asserted => ?_, fun index up => ?_, fun up => ?_, fun code up unknown => ?_, fun off => ?_⟩
  · exact ⟨⟨_, rfl, s.begin.smbAnswer_out up _⟩, ⟨_, rfl, s.begin.smbAnswer_out up _⟩,
      ⟨_, rfl, s.begin.smbAnswer_out up _⟩, ⟨_, rfl, s.begin.smbAnswer_out up _⟩⟩
  · have awake' : decide (s.begin.power.state ≤ 2) = true := decide_eq_true awake
    refine ⟨⟨(s.begin.noteTemp 15 v).smbAnswer (wordBytes (ofSigned 16 v)), ?_, ?_⟩,
      ⟨(s.begin.noteDie v).smbAnswer (wordBytes (ofSigned 16 v)), ?_, ?_⟩⟩
    · rw [exec_smbTcp, execSmbTcp]
      rw [awake', State.when_true, State.noteTemp_self]
    · exact State.smbAnswer_out _ (State.smbUp_of_awake (s := s.begin.noteTemp 15 v) awake) _
    · rw [exec_smbTdie, execSmbTdie]
      rw [awake', State.when_true, State.noteDie_dieTemp]
    · obtain ⟨power, out⟩ := s.begin.noteDie_keeps v
      have up : (s.begin.noteDie v).smbUp = true := State.smbUp_of_awake (by rw [power]; exact awake)
      rw [State.smbAnswer_out _ up, out]
      rfl
  · have stale' : decide (s.begin.power.state ≤ 2) = false := decide_eq_false (State.awake_of_stale stale)
    have up : s.begin.smbUp = true := State.smbUp_of_stale (s := s) stale
    refine ⟨⟨s.begin.smbAnswer (wordBytes (ofSigned 16 (tabGet 0 s.begin.sup.temps 15))), ?_,
        s.begin.smbAnswer_out up _⟩,
      ⟨s.begin.smbAnswer (wordBytes (ofSigned 16 s.begin.dieTemp)), ?_, s.begin.smbAnswer_out up _⟩⟩
    · rw [exec_smbTcp, execSmbTcp]
      rw [stale', State.when_false]
    · rw [exec_smbTdie, execSmbTdie]
      rw [stale', State.when_false]
  · obtain ⟨cause, flag, -, step, -, state, -⟩ := s.begin.wake_shows 2
    refine ⟨s.begin.wake 2, ?_, cause, flag, state, step⟩
    rw [exec_smbWakeCmd, execSmbWakeCmd, State.smbWakeUp_asleep (s := s.begin) sleeps allowed]
  · refine ⟨s.begin.say .smbusNack, ?_, State.say_out .., rfl, rfl⟩
    rw [exec_smbWakeCmd, execSmbWakeCmd, State.smbWakeUp_refused (s := s.begin) up barred]
  · have up' : s.begin.smbUp = true := up
    refine ⟨s.begin.releaseAlert, ?_, rfl, rfl⟩
    rw [exec_smbAlertClr, execSmbAlertClr]
    rw [up', State.when_true]
  · have goes : (s.begin.smbUp && s.begin.pins.smbAlert) = true := Bool.and_eq_true_iff.mpr ⟨up, asserted⟩
    refine ⟨s.begin.releaseAlert.say (.smbus [0x9C]), ?_, rfl, State.say_out ..⟩
    rw [exec_smbAlertResponse, execSmbAlertResponse]
    rw [goes, State.when_true]
  · have up' : s.begin.smbUp = true := up
    refine ⟨s.begin.onAttic (fun a => { a with boardCursor := index % 4096 }), ?_, rfl, rfl⟩
    rw [exec_smbAtticCur, execSmbAtticCur]
    rw [up', State.when_true]
  · have up' : s.begin.smbUp = true := up
    refine ⟨(s.begin.say (.smbus s.begin.boardRecord)).onAttic
      (fun a => { a with boardCursor := (a.boardCursor + 1) % 4096 }), ?_, State.say_out s.begin _, rfl⟩
    rw [exec_smbAtticRec, execSmbAtticRec]
    rw [up', State.when_true]
  · have goes : (s.begin.smbUp && !smbCodes.contains code) = true := by
      rw [unknown, Bool.not_false, Bool.and_true]
      exact up
    refine ⟨s.begin.say .smbusNack, ?_, State.say_out .., rfl⟩
    rw [exec_smbUndefined, execSmbUndefined]
    rw [goes, State.when_true]
  · have down : s.begin.smbUp = false := State.smbUp_off (s := s.begin) off
    have silent (bytes : List Nat) : (s.begin.smbAnswer bytes).out = [] := by
      rw [State.smbAnswer_silent _ down, State.begin_out]
    refine ⟨⟨_, rfl, silent _⟩, ⟨_, rfl, silent _⟩, ⟨_, rfl, silent _⟩, ⟨s.begin, ?_, rfl, rfl⟩, ⟨s.begin, ?_, rfl⟩⟩
    · rw [exec_smbWakeCmd, execSmbWakeCmd, State.smbWakeUp_off down]
    · rw [exec_smbUndefined, execSmbUndefined]
      rw [down, Bool.false_and, State.when_false]

end Sys2Proof.Machine
end

section
/-!
The Ilulo monitor (R421): O50.
-/

namespace Sys2Proof.Machine

-- One theorem at a time bounds the memory of the whole text's check.
set_option Elab.async false

section
variable {s : State}

/-! ### Commands that the monitor takes -/

/-- R421: a command that the monitor takes acts. -/
theorem monitored_answers {i : Instr} {f : State → State} (runs : exec i s = .next (s.begin.monitored f))
    (up : s.monUp = true) {P : State → Prop} (hP : P (f s.begin)) : Answers i s P := by
  have up' : s.begin.monUp = true := up
  exact ⟨_, runs.trans (by rw [State.monitored, up', State.when_true]), hP⟩

/-- R421: a command that the monitor does not take changes nothing. -/
theorem unmonitored_answers {i : Instr} {f : State → State} (runs : exec i s = .next (s.begin.monitored f))
    (down : s.monUp = false) {P : State → Prop} (hP : P s.begin) : Answers i s P := by
  have down' : s.begin.monUp = false := down
  exact ⟨_, runs.trans (by rw [State.monitored, down', State.when_false]), hP⟩

theorem State.print_out (s : State) (ws : List Nat) : (s.print ws).out = s.out ++ [.monitor ws] := State.say_out ..

theorem State.begin_word (s : State) (addr : Nat) : s.begin.word addr = s.word addr := rfl

theorem State.begin_islandLine (s : State) (i : Nat) : s.begin.islandLine i = s.islandLine i := rfl

theorem State.begin_laneLines (s : State) (cor : Bool) : s.begin.laneLines cor = s.laneLines cor := rfl

theorem State.begin_sectionTable (s : State) : s.begin.sectionTable = s.sectionTable := rfl

theorem State.begin_monRecords (s : State) (index n : Nat) : s.begin.monRecords index n = s.monRecords index n := rfl

/-! ### Words read (R383, R402) -/

theorem State.peek_succ (s : State) (addr n : Nat) : s.peek addr (n + 1) =
    ((s.regRead .monitor addr).1 :: ((s.regRead .monitor addr).2.peek (addr + 4) n).1,
      ((s.regRead .monitor addr).2.peek (addr + 4) n).2) := rfl

theorem State.peek_one (s : State) (addr : Nat) :
    s.peek addr 1 = ([(s.regRead .monitor addr).1], (s.regRead .monitor addr).2) := rfl

/-- R383: what an upper word of module time reads as after its lower word: what the shadow holds. -/
theorem State.valueFor_moduleTime_upper {t : State} {req : Req} {v : Nat}
    (tag : tabGet 0 t.host.shadowTag req.n = 0x20081) (held : tabGet 0 t.host.shadow req.n = v) :
    t.valueFor req 0x20084 = v % 2 ^ 32 := by
  have upper : t.upperOf 0x20084 = some (0x20080, 0) := by
    have notLo : isLo 0x20084 = false := by decide +kernel
    have lo : isLo (0x20084 - 4) = true := isLo_moduleTime
    have plain : t.chainedAt 0x20084 = false := rfl
    simp [State.upperOf, notLo, lo, plain]
  rw [State.valueFor, State.fromShadow, upper]
  simp [tag, held, bitsAt]

/-- R383: the two words of module time. -/
theorem State.peek_moduleTime (s : State) (runs : s.isRunning = true) :
    (s.peek 0x20080 2).1 = [s.rd .REF_MT_LO_MT, s.rd .REF_MT_HI_MT % 2 ^ 32] ∧ (s.peek 0x20080 2).2.out = s.out := by
  have noRc : ∀ t : State, t.clearRcAt 0x20084 = t := fun t =>
    State.clearRcAt_of_no_rc (r := .REF_MT_HI_MT) (ix := []) t (by decide) (by decide)
  have notLo : isLo 0x20084 = false := by decide +kernel
  have filled : ∀ t : State, (t.fillShadow .monitor 0x20080).isRunning = t.isRunning := fun _ => rfl
  have reached : (s.reachIsland .monitor 0x20080).isRunning = s.isRunning := by
    unfold State.isRunning
    rw [s.rd_reachIsland _ _ (by decide)]
  rw [State.peek_succ, State.regRead_moduleTime runs, State.peek_one]
  dsimp only
  obtain ⟨tag, held⟩ := (s.reachIsland .monitor 0x20080).fillShadow_moduleTime .monitor
  rw [s.rd_reachIsland _ _ (by decide)] at held
  have out : ((s.reachIsland .monitor 0x20080).fillShadow .monitor 0x20080).out = s.out :=
    s.reachIsland_out .monitor 0x20080
  have running : ((s.reachIsland .monitor 0x20080).fillShadow .monitor 0x20080).isRunning = true := by
    rw [filled, reached]
    exact runs
  generalize (s.reachIsland .monitor 0x20080).fillShadow .monitor 0x20080 = t at tag held out running ⊢
  have assigned : t.assigned (0x20080 + 4) = true :=
    State.assigned_of_rows (State.regionUp_running running (by decide)) (by decide)
  rw [State.regRead_of_assigned assigned (by decide) (by decide), State.takeShadow_of_not_lo _ notLo, noRc,
    State.valueFor_moduleTime_upper (v := s.rd .REF_MT_HI_MT) (by rw [State.reachIsland_host]; exact tag)
      (by rw [State.reachIsland_host]; exact held), State.reachIsland_out]
  exact ⟨rfl, out⟩

/-- R421: a count that peek takes. -/
theorem State.monPeek_of_count (s : State) (addr : Nat) {n : Nat} (low : 0 < n) (high : n ≤ 64) :
    s.monPeek addr n = (s.peek addr n).2.print (s.peek addr n).1 := by
  rw [State.monPeek, if_neg (by simp; omega)]

/-- R421: a count outside 1 to 64. -/
theorem State.monPeek_of_bad (s : State) (addr : Nat) {n : Nat} (bad : n = 0 ∨ 64 < n) :
    s.monPeek addr n = s.printErr := by
  rw [State.monPeek, if_pos (by simpa using bad)]

theorem State.printErr_shows (s : State) : s.printErr.out = s.out ++ [.monitorErr (Config.freeValue s.free % 10)] ∧
    s.printErr.store = s.store ∧ s.printErr.free = s.free + 1 :=
  ⟨State.say_out .., rfl, rfl⟩

/-- R42, R404: a poke of a vector's gap. -/
theorem State.monPoke_vecMod (s : State) (v : Fin 64) (word : Nat) :
    ((s.regWrite .monitor (0x30100 + 4 * v) word).print []).rd .HST_VEC_MOD_GAP [v.val] = min 1000 (word % 1024) ∧
      ((s.regWrite .monitor (0x30100 + 4 * v) word).print []).out = s.out ++ [.monitor []] := by
  refine ⟨?_, ?_⟩
  · rw [State.print, State.say_rd]
    exact s.rd_regWrite_vecMod .monitor v word
  · have written (t : State) (r : Row) (ix : List Nat) (n : Nat) : (t.wr r ix n).out = t.out := rfl
    rw [State.print_out, State.regWrite_vecMod, written, State.reachIsland_out]

end

/-- Settles O50, command by command, by what each prints. -/
theorem monitor : Obligations.Monitor := by
  intro s
  refine ⟨fun up runs => ?_, fun addr up missing => ?_, fun addr n up bad => ?_, fun v word up => ?_,
    fun index n up low high known => ?_, fun up => ⟨?_, ?_, ?_, ?_, ?_, ?_⟩, fun client up => ?_, fun w up => ?_, fun up => ?_,
    fun down => ⟨?_, ?_, ?_, ?_⟩⟩
  · refine monitored_answers (exec_monPeek ..) up ?_
    obtain ⟨words, out⟩ := s.begin.peek_moduleTime runs
    rw [State.monPeek_of_count _ _ (by decide) (by decide), State.print_out, words, out]
    rfl
  · refine monitored_answers (exec_monPeek ..) up ?_
    rw [State.monPeek_of_count _ _ (by decide) (by decide), State.peek_one,
      State.regRead_of_unassigned (s := s.begin) missing]
    refine ⟨?_, ?_⟩
    · rw [State.print_out, State.unmapped_out]
      rfl
    · rw [State.print, State.say_rd]
      exact s.begin.rd_unmapped
  · refine monitored_answers (exec_monPeek ..) up ?_
    obtain ⟨out, store, free⟩ := s.begin.printErr_shows
    rw [State.monPeek_of_bad _ _ bad]
    exact ⟨by rw [out]; rfl, store, free⟩
  · refine monitored_answers (exec_monPoke ..) up ?_
    obtain ⟨gap, out⟩ := s.begin.monPoke_vecMod v word
    exact ⟨gap, out⟩
  · refine monitored_answers (exec_monAttic ..) up ?_
    have good : s.begin.monAttic index n = s.begin.print (s.begin.monRecords index n) := by
      rw [State.monAttic, if_neg (by simp; omega)]
    rw [good, State.print_out, State.begin_monRecords]
    exact ⟨rfl, rfl⟩
  · refine monitored_answers (exec_monState ..) up ?_
    rw [State.print_out, State.begin_word, State.begin_word, State.begin_word]
    rfl
  · refine monitored_answers (exec_monIslands ..) up ?_
    rw [State.print_out]
    exact congrArg (fun f => [Out.monitor ((List.range 25).map f).flatten]) (funext s.begin_islandLine)
  · refine monitored_answers (exec_monFp ..) up ?_
    rw [State.print_out, State.begin_sectionTable, State.begin_word]
    simp only [State.begin_word]
    rfl
  · refine monitored_answers (exec_monRef ..) up ?_
    rw [State.print_out]
    simp only [State.begin_word]
    rfl
  · exact monitored_answers (exec_monHelp ..) up (State.say_out ..)
  · refine monitored_answers (exec_monLanes ..) up ?_
    rw [State.print_out]
    simp only [State.begin_laneLines]
    rfl
  · refine monitored_answers (exec_monLanes ..) up ?_
    rw [State.print_out]
    simp only [State.begin_laneLines]
    rfl
  · refine monitored_answers (exec_monWing ..) up ?_
    rw [State.print_out]
    simp only [State.begin_word]
    rfl
  · refine monitored_answers (exec_monUnknown ..) up ?_
    obtain ⟨out, store, -⟩ := s.begin.printErr_shows
    exact ⟨out, store⟩
  · exact unmonitored_answers (exec_monState ..) down rfl
  · exact unmonitored_answers (exec_monHelp ..) down rfl
  · exact unmonitored_answers (exec_monUnknown ..) down rfl
  · exact unmonitored_answers (exec_monPoke ..) down ⟨rfl, rfl⟩

end Sys2Proof.Machine
end

section
/-!
The DPLL (R333 to R347): candidates, selection, lock, fault and holdover, and O35.
-/

namespace Sys2Proof.Machine

-- One theorem at a time bounds the memory of the whole text's check.
set_option Elab.async false

/-! ### Bits -/

theorem testBit_setBit_self (v i : Nat) : (setBit v i).testBit i = true := by simp [setBit]

theorem testBit_clearBit_self (v i : Nat) : (clearBit v i).testBit i = false := by
  unfold clearBit clearMask
  rw [Nat.and_two_pow]
  cases h : v.testBit i
  · simpa using h
  · have odd : v / 2 ^ i % 2 = 1 := by simpa [Nat.testBit_eq_decide_div_mod_eq] using h
    rw [Bool.toNat_true, Nat.mul_comm, Nat.testBit_eq_decide_div_mod_eq, Nat.sub_mul_div]
    simp
    omega

section
variable {s : State}

/-! ### A candidate's registers (R334, R336) -/

theorem State.showCand_rd (s : State) (i : Nat) {r : Row} (h : spares State.showCand_touch r = true) (ix : List Nat) :
    (s.showCand i).rd r ix = s.rd r ix :=
  (State.showCand_within (.refl _ s) (covers_self _) i).keeps h ix

@[simp] theorem State.showCand_dpll (s : State) (i : Nat) : (s.showCand i).dpll = s.dpll :=
  (State.showCand_within (.refl _ s) (covers_self _) i).part .dpll (by decide +kernel)

/-- R348: CAND_CHANGE stays set. -/
theorem State.showCand_rings (s : State) (i : Nat) (set : s.flag .REF_EVT_CAND_CHANGE = true) :
    (s.showCand i).flag .REF_EVT_CAND_CHANGE = true := by
  unfold State.showCand
  dsimp only
  split
  next =>
    rw [State.flag, State.rd_wrb_ne _ (by decide), State.rd_wr_ne _ (by decide)]
    exact set
  next => exact State.flag_evt_self _ _ _ rfl (by decide)

/-- R334: what qualification shows. -/
theorem State.qualify_shows (s : State) (i : Nat) {offset : Int} (small : offset.natAbs ≤ 1000) :
    (s.qualify i offset).flag .REF_CAND_STAT_QUALIFIED [i] = true ∧
      (s.qualify i offset).rdS .REF_CAND_STAT_OFFSET [i] = offset ∧
      (s.qualify i offset).flag .REF_EVT_CAND_CHANGE = true ∧
      (s.qualify i offset).flag .REF_CAND_STAT_WTR_RUN [i] =
        (s.dpll.lost.testBit i && min 12 (s.rd .REF_CAND_WTR [i]) != 0) := by
  have moves (t : State) (f : Dpll → Dpll) (r : Row) (ix : List Nat) : (t.onDpll f).rd r ix = t.rd r ix := rfl
  have width : Row.REF_CAND_STAT_OFFSET.width = 16 := rfl
  unfold State.qualify
  dsimp only
  refine ⟨?_, ?_, State.showCand_rings _ _ (State.flag_evt_self _ _ _ rfl (by decide)), ?_⟩
  · rw [State.flag, State.showCand_rd _ _ (by decide +kernel), State.rd_evt_ne _ (by decide),
      State.rd_wrb_ne _ (by decide), moves, State.wrS, State.rd_wr_ne _ (by decide)]
    exact State.flag_wrb_self s .REF_CAND_STAT_QUALIFIED [i] true (by decide)
  · rw [State.rdS, State.showCand_rd _ _ (by decide +kernel), State.rd_evt_ne _ (by decide),
      State.rd_wrb_ne _ (by decide), moves]
    exact State.rdS_wrS_self _ _ _ (by decide) (by rw [width]; omega) (by rw [width]; omega)
  · rw [State.flag, State.showCand_rd _ _ (by decide +kernel), State.rd_evt_ne _ (by decide)]
    exact State.flag_wrb_self _ .REF_CAND_STAT_WTR_RUN [i] _ (by decide)

/-- R334, R349: what the loss of qualification shows. -/
theorem State.loseCand_shows (s : State) (i : Nat) (was : s.flag .REF_CAND_STAT_QUALIFIED [i] = true) :
    (s.loseCand i true).flag .REF_CAND_STAT_QUALIFIED [i] = false ∧ (s.loseCand i true).dpll.lost.testBit i = true ∧
      (s.loseCand i true).flag .REF_EVT_CAND_CHANGE = true := by
  have moves (t : State) (f : Dpll → Dpll) (r : Row) (ix : List Nat) : (t.onDpll f).rd r ix = t.rd r ix := rfl
  have lost (t : State) (f : Dpll → Dpll) : (t.onDpll f).dpll = f t.dpll := rfl
  unfold State.loseCand
  rw [was]
  simp only [Bool.not_true, Bool.false_eq_true, if_false, if_true]
  refine ⟨?_, ?_, State.showCand_rings _ _ (State.flag_evt_self _ _ _ rfl (by decide))⟩
  · rw [State.flag, State.showCand_rd _ _ (by decide +kernel), State.rd_evt_ne _ (by decide), moves,
      State.rd_wrb_ne _ (by decide)]
    exact State.flag_wrb_self s .REF_CAND_STAT_QUALIFIED [i] false (by decide)
  · rw [State.showCand_dpll, State.evt_dpll, lost]
    exact testBit_setBit_self ..

theorem State.loseCand_rd (s : State) (i : Nat) (lost : Bool) {r : Row} (h : spares State.loseCand_touch r = true)
    (ix : List Nat) : (s.loseCand i lost).rd r ix = s.rd r ix :=
  (State.loseCand_within (.refl _ s) (covers_self _) i lost).keeps h ix

/-- R334: a lost qualification leaves what the ESMC and the lock recorded. -/
theorem State.loseCand_dpll (s : State) (i : Nat) (lost : Bool) :
    (s.loseCand i lost).dpll.esmc = s.dpll.esmc ∧ (s.loseCand i lost).dpll.esmcFailed = s.dpll.esmcFailed ∧
      (s.loseCand i lost).dpll.everLocked = s.dpll.everLocked := by
  have moved (t : State) (f : Dpll → Dpll) : (t.onDpll f).dpll = f t.dpll := rfl
  have written (t : State) (r : Row) (ix : List Nat) (b : Bool) : (t.wrb r ix b).dpll = t.dpll := rfl
  unfold State.loseCand
  split
  next => exact ⟨rfl, rfl, rfl⟩
  next =>
    dsimp only
    rw [State.showCand_dpll, State.evt_dpll, moved, written, written]
    exact ⟨rfl, rfl, rfl⟩

theorem State.checkCands_rd (s : State) {r : Row} (h : spares State.checkCands_touch r = true) (ix : List Nat) :
    s.checkCands.rd r ix = s.rd r ix :=
  (State.checkCands_within (.refl _ s) (covers_self _)).keeps h ix

/-- R333: a check of the candidates leaves what the ESMC and the lock recorded. -/
theorem State.checkCands_dpll (s : State) :
    s.checkCands.dpll.esmc = s.dpll.esmc ∧ s.checkCands.dpll.esmcFailed = s.dpll.esmcFailed ∧
      s.checkCands.dpll.everLocked = s.dpll.everLocked := by
  unfold State.checkCands
  refine List.foldlRecOn (motive := fun t : State => t.dpll.esmc = s.dpll.esmc ∧
    t.dpll.esmcFailed = s.dpll.esmcFailed ∧ t.dpll.everLocked = s.dpll.everLocked) _ _ ⟨rfl, rfl, rfl⟩ fun t ht i _ => ?_
  rw [State.showCand_dpll]
  cases (!t.candCond i)
  · exact ht
  · obtain ⟨esmc, failed, locked⟩ := t.loseCand_dpll i true
    rw [State.when_true, esmc, failed, locked]
    exact ht

/-- R334: the end of wait-to-restore. -/
def State.endWtr (s : State) (i : Nat) : State :=
  (((s.wrb .REF_CAND_STAT_WTR_RUN [i] false).onDpll (fun d => { d with
    lost := clearBit d.lost i, wtrEnd := tabErase d.wtrEnd i })).evt .REF_EVT_CAND_CHANGE).showCand i

theorem State.endWtr_shows (s : State) (i : Nat) : (s.endWtr i).flag .REF_CAND_STAT_WTR_RUN [i] = false ∧
    (s.endWtr i).dpll.lost.testBit i = false ∧ (s.endWtr i).flag .REF_EVT_CAND_CHANGE = true := by
  have moves (t : State) (f : Dpll → Dpll) (r : Row) (ix : List Nat) : (t.onDpll f).rd r ix = t.rd r ix := rfl
  have ended (t : State) (f : Dpll → Dpll) : (t.onDpll f).dpll = f t.dpll := rfl
  unfold State.endWtr
  refine ⟨?_, ?_, State.showCand_rings _ _ (State.flag_evt_self _ _ _ rfl (by decide))⟩
  · rw [State.flag, State.showCand_rd _ _ (by decide +kernel), State.rd_evt_ne _ (by decide), moves]
    exact State.flag_wrb_self s .REF_CAND_STAT_WTR_RUN [i] false (by decide)
  · rw [State.showCand_dpll, State.evt_dpll, ended]
    exact testBit_clearBit_self ..

/-! ### ESMC (R336, R343) -/

/-- R281: a frame that the MAC consumes acts when the port hears, the frame is no runt and the Client block runs. -/
theorem State.macConsume_acts {p len : Nat} (hears : s.macHears p = true) (long : 64 ≤ len)
    (going : s.blockStopped 2 = false) (fcsOk : Bool) (act : State → State) :
    s.macConsume p len fcsOk act = act (s.macCount p len fcsOk) := by
  have goes : ¬ (len < 64 || s.blockStopped 2) = true := by
    rw [going]
    simp
    omega
  rw [State.macConsume, hears]
  simp only [Bool.not_true, Bool.false_eq_true, if_false]
  exact if_neg goes

theorem State.macHears_iff : s.macHears p = true ↔ s.isRunning = true ∧ s.flag .CLI_PORT_STAT_LINK [p] = true ∧
    s.rd .HAL_LB_MODE [p] ≠ 2 ∧ s.portFailed p = false := by
  simp [State.macHears, and_assoc]

/-- R336: a PDU received gives its port's QL. -/
theorem State.takeEsmc_shows (s : State) (port ql : Nat) :
    tabGet 15 (s.onDpll (fun d => { d with
      esmc := tabSet 15 d.esmc port ql, esmcFailed := clearBit d.esmcFailed port })).checkCands.dpll.esmc port = ql ∧
    (s.onDpll (fun d => { d with
      esmc := tabSet 15 d.esmc port ql, esmcFailed := clearBit d.esmcFailed port })).checkCands.dpll.esmcFailed.testBit
        port = false := by
  obtain ⟨esmc, failed, -⟩ := (s.onDpll (fun d => { d with
      esmc := tabSet 15 d.esmc port ql, esmcFailed := clearBit d.esmcFailed port })).checkCands_dpll
  rw [esmc, failed]
  exact ⟨tabGet_set_self .., testBit_clearBit_self ..⟩

/-- R336: five seconds without a PDU fail a client candidate. -/
theorem State.failEsmc_shows (s : State) {i : Nat} (client : s.candClient i = true) :
    let t := (s.onDpll (fun d => { d with esmcFailed := setBit d.esmcFailed (s.candPort i) })).checkCands
    t.dpll.esmcFailed.testBit (s.candPort i) = true ∧ t.candFailed i = true := by
  dsimp only
  have stays := (s.onDpll (fun d => { d with esmcFailed := setBit d.esmcFailed (s.candPort i) })).checkCands_dpll
  have rows {r : Row} (h : spares State.checkCands_touch r = true) (ix : List Nat) :
      (s.onDpll (fun d => { d with esmcFailed := setBit d.esmcFailed (s.candPort i) })).checkCands.rd r ix =
        s.rd r ix :=
    State.checkCands_rd (s.onDpll fun d => { d with esmcFailed := setBit d.esmcFailed (s.candPort i) }) h ix
  generalize (s.onDpll (fun d => { d with esmcFailed := setBit d.esmcFailed (s.candPort i) })).checkCands = t at stays rows ⊢
  have failed : t.dpll.esmcFailed.testBit (s.candPort i) = true := by
    rw [stays.2.1]
    exact testBit_setBit_self ..
  have port : t.candPort i = s.candPort i := rows (by decide +kernel) _
  have client' : t.candClient i = true := by
    rw [← client, State.candClient, State.candClient, State.flag, rows (by decide +kernel), State.flag]
  have high : ¬ i < 2 ∧ ¬ i < 4 := by
    simp only [State.candClient, Bool.or_eq_true, decide_eq_true_eq, Bool.and_eq_true, beq_iff_eq] at client
    omega
  refine ⟨failed, ?_⟩
  rw [State.candFailed, if_neg high.1, if_neg high.2, client', port, failed]
  rfl

/-- R343: what a PDU on each chosen port adds to what leaves. -/
def State.sendEsmc (s : State) (event : Bool) (p : Nat) : State :=
  s.when ((s.rd .REF_ESMC_TX_PORTS).testBit p && s.portSends p && !s.patterned p) (·.say (.esmc p (s.qlPort p) event))

/-- R343: a port's PDU leaves what decides about the other ports' PDUs. -/
theorem State.sendEsmc_eq (s t : State) (same : ∃ l, t = { s with out := l }) (event : Bool) (p : Nat) :
    t.sendEsmc event p = { s with out := t.out ++
      if ((s.rd .REF_ESMC_TX_PORTS).testBit p && s.portSends p && !s.patterned p) = true then
        [.esmc p (s.qlPort p) event] else [] } := by
  obtain ⟨l, rfl⟩ := same
  have chosen : (({ s with out := l } : State).rd .REF_ESMC_TX_PORTS).testBit p = (s.rd .REF_ESMC_TX_PORTS).testBit p := rfl
  have sends : ({ s with out := l } : State).portSends p = s.portSends p := rfl
  have plain : ({ s with out := l } : State).patterned p = s.patterned p := rfl
  have quality : ({ s with out := l } : State).qlPort p = s.qlPort p := rfl
  unfold State.sendEsmc
  rw [chosen, sends, plain, quality]
  split
  next goes => rw [goes]; rfl
  next stays => rw [Bool.eq_false_iff.mpr stays, State.when_false, List.append_nil]

/-- R343: the PDUs of the ports below a number. -/
theorem State.esmc_out (s : State) (event : Bool) (n : Nat) :
    ∃ l, s.upTo n (fun t p => t.sendEsmc event p) = { s with out := s.out ++ l } ∧
      ∀ o, o ∈ l ↔ ∃ p, p < n ∧ ((s.rd .REF_ESMC_TX_PORTS).testBit p && s.portSends p && !s.patterned p) = true ∧
        o = .esmc p (s.qlPort p) event := by
  induction n with
  | zero => exact ⟨[], by rw [List.append_nil]; rfl, by simp⟩
  | succ n ih =>
    obtain ⟨l, run, holds⟩ := ih
    have step : s.upTo (n + 1) (fun t p => t.sendEsmc event p) =
        (s.upTo n (fun t p => t.sendEsmc event p)).sendEsmc event n := by
      simp [State.upTo, List.range_succ]
    refine ⟨l ++ (if ((s.rd .REF_ESMC_TX_PORTS).testBit n && s.portSends n && !s.patterned n) = true then
      [.esmc n (s.qlPort n) event] else []), ?_, fun o => ?_⟩
    · rw [step, State.sendEsmc_eq s _ ⟨_, run⟩, run, ← List.append_assoc]
    · rw [List.mem_append, holds]
      constructor
      · rintro (⟨p, low, goes, rfl⟩ | last)
        · exact ⟨p, by omega, goes, rfl⟩
        · split at last
          next goes => exact ⟨n, by omega, goes, List.mem_singleton.mp last⟩
          next => cases last
      · rintro ⟨p, low, goes, rfl⟩
        by_cases here : p = n
        · subst here
          exact .inr (by rw [if_pos goes]; exact List.mem_singleton_self _)
        · exact .inl ⟨p, by omega, goes, rfl⟩

/-! ### Selection (R337 to R339) -/

theorem State.setActive_rd (s : State) (a : Nat) {r : Row} (h : spares State.setActive_touch r = true) (ix : List Nat) :
    (s.setActive a).rd r ix = s.rd r ix :=
  (State.setActive_within (.refl _ s) (covers_self _) a).keeps h ix

theorem State.setRef_rd (s : State) (st : Nat) {r : Row} (h : spares State.setRef_touch r = true) (ix : List Nat) :
    (s.setRef st).rd r ix = s.rd r ix :=
  (State.setRef_within (.refl _ s) (covers_self _) st).keeps h ix

@[simp] theorem State.setRef_dpll (s : State) (st : Nat) : (s.setRef st).dpll = s.dpll :=
  (State.setRef_within (.refl _ s) (covers_self _) st).part .dpll (by decide +kernel)

@[simp] theorem State.setActive_dpll (s : State) (a : Nat) : (s.setActive a).dpll = s.dpll :=
  (State.setActive_within (.refl _ s) (covers_self _) a).part .dpll (by decide +kernel)

/-- R342: the state taken. -/
theorem State.setRef_refState (s : State) {st : Nat} (fits : st < 8) : (s.setRef st).refState = st := by
  unfold State.setRef
  split
  next same => exact same.symm
  next =>
    rw [State.refState, State.rd_evt_ne _ (by decide), State.rd_wr_self]
    exact Nat.mod_eq_of_lt fits

/-- R342: the candidate taken. -/
theorem State.setActive_active (s : State) {a : Nat} (fits : a < 8) : (s.setActive a).rd .REF_STAT_ACTIVE = a := by
  unfold State.setActive
  split
  next same => exact same.symm
  next =>
    rw [State.rd_evt_ne _ (by decide), State.rd_wr_self]
    exact Nat.mod_eq_of_lt fits

theorem State.showQl_rd (s : State) {r : Row} (h : spares State.showQl_touch r = true) (ix : List Nat) :
    s.showQl.rd r ix = s.rd r ix :=
  (State.showQl_within (.refl _ s) (covers_self _)).keeps h ix

theorem State.showQl_refState (s : State) : s.showQl.refState = s.refState := s.showQl_rd (by decide +kernel) _

@[simp] theorem State.showQl_dpll (s : State) : s.showQl.dpll = s.dpll :=
  (State.showQl_within (.refl _ s) (covers_self _)).part .dpll (by decide +kernel)

/-- R339: out of free-run. -/
theorem State.acquire_shows (s : State) {c : Nat} (fits : c < 8) : (s.acquire c).refState = 1 ∧
    (s.acquire c).rd .REF_STAT_TARGET = c ∧ (s.acquire c).rd .REF_STAT_ACTIVE = c := by
  unfold State.acquire
  refine ⟨State.setRef_refState _ (by decide), ?_, ?_⟩
  · rw [State.setRef_rd _ _ (by decide +kernel), State.setActive_rd _ _ (by decide +kernel), State.rd_wr_self]
    exact Nat.mod_eq_of_lt fits
  · rw [State.setRef_rd _ _ (by decide +kernel)]
    exact State.setActive_active _ fits

/-- R338: a switch begins. -/
theorem State.switchTo_shows (s : State) {c : Nat} (fits : c < 8) : (s.switchTo c).refState = 5 ∧
    (s.switchTo c).rd .REF_STAT_TARGET = c ∧ (s.switchTo c).rd .REF_STAT_ACTIVE = s.rd .REF_STAT_ACTIVE := by
  unfold State.switchTo
  refine ⟨State.setRef_refState _ (by decide), ?_, ?_⟩
  · rw [State.setRef_rd _ _ (by decide +kernel), State.rd_wr_self]
    exact Nat.mod_eq_of_lt fits
  · rw [State.setRef_rd _ _ (by decide +kernel), State.rd_wr_ne _ (by decide)]

/-- R340: in holdover, or running free without a lock since reset. -/
theorem State.holdover_refState (s : State) (f : Int) : (s.holdover f).refState = if s.dpll.everLocked = true then
    (if s.flag .REF_STAT_HO_VALID = true then 3 else 4) else 0 := by
  unfold State.holdover
  cases s.dpll.everLocked
  · exact State.setRef_refState _ (by decide)
  · simp only [Bool.not_true, Bool.false_eq_true, if_false, if_true]
    exact State.setRef_refState _ (by split <;> decide)

/-- R337, R348: what a selection decides on: the measured candidates and the output that has moved. -/
def State.readySelect (s : State) (offsets : List (Option Int)) : State :=
  ((s.measureCands offsets).checkCands.moveOutput).showDisagree

theorem State.readySelect_rd (s : State) (offsets : List (Option Int)) {r : Row}
    (h : (spares State.measureCands_touch r && spares State.checkCands_touch r && spares State.moveOutput_touch r &&
      spares State.showDisagree_touch r) = true) (ix : List Nat) : (s.readySelect offsets).rd r ix = s.rd r ix := by
  simp only [Bool.and_eq_true] at h
  obtain ⟨⟨⟨measured, checked⟩, moved⟩, shown⟩ := h
  rw [State.readySelect, (State.showDisagree_within (.refl _ _) (covers_self _)).keeps shown,
    (State.moveOutput_within (.refl _ _) (covers_self _)).keeps moved, State.checkCands_rd _ checked,
    (State.measureCands_within (.refl _ s) (covers_self _) offsets).keeps measured]

theorem State.readySelect_everLocked (s : State) (offsets : List (Option Int)) :
    (s.readySelect offsets).dpll.everLocked = s.dpll.everLocked := by
  have measured : (s.measureCands offsets).dpll = s.dpll :=
    (State.measureCands_within (.refl _ s) (covers_self _) offsets).part .dpll (by decide +kernel)
  have moved (t : State) : t.moveOutput.dpll.everLocked = t.dpll.everLocked := rfl
  rw [State.readySelect, (State.showDisagree_within (.refl _ _) (covers_self _)).part .dpll (by decide +kernel), moved,
    (State.checkCands_dpll _).2.2, measured]

/-- R337: the selection runs. -/
theorem refSelect_answers {offsets : List (Option Int)} (up : s.refUp = true) (core : s.coreRuns = true)
    {P : State → Prop} (hP : P (s.begin.readySelect offsets).evaluate.showQl) : Answers (.refSelect offsets) s P := by
  refine ⟨_, ?_, hP⟩
  have up' : s.begin.refUp = true := up
  have core' : s.begin.coreRuns = true := core
  rw [exec_refSelect, execRefSelect, up', State.when_true, core', State.when_true]
  rfl

/-! ### Lock, fault and relock (R339, R341) -/

theorem State.lock_shows (s : State) (known : s.rd .REF_STAT_TARGET < 8) : s.lock.refState = 2 ∧
    s.lock.rd .REF_STAT_ACTIVE = s.rd .REF_STAT_TARGET ∧ s.lock.flag .REF_STAT_MT_COARSE = false ∧
    s.lock.dpll.everLocked = true := by
  have moves (t : State) (f : Dpll → Dpll) (r : Row) : (t.onDpll f).rd r = t.rd r := rfl
  have target : ((s.wrb .REF_STAT_MT_COARSE [] false).onDpll (fun d => { d with everLocked := true })).rd
      .REF_STAT_TARGET = s.rd .REF_STAT_TARGET := by
    rw [moves, State.rd_wrb_ne _ (by decide)]
  unfold State.lock
  dsimp only
  refine ⟨State.setRef_refState _ (by decide), ?_, ?_, ?_⟩
  · rw [State.setRef_rd _ _ (by decide +kernel), target]
    exact State.setActive_active _ known
  · rw [State.flag, State.setRef_rd _ _ (by decide +kernel), State.setActive_rd _ _ (by decide +kernel), moves]
    exact State.flag_wrb_self s .REF_STAT_MT_COARSE [] false (by decide)
  · rw [State.setRef_dpll, State.setActive_dpll]
    rfl

theorem State.lock_showQl (s : State) (known : s.rd .REF_STAT_TARGET < 8) : s.lock.showQl.refState = 2 ∧
    s.lock.showQl.rd .REF_STAT_ACTIVE = s.rd .REF_STAT_TARGET ∧ s.lock.showQl.flag .REF_STAT_MT_COARSE = false ∧
    s.lock.showQl.dpll.everLocked = true := by
  obtain ⟨state, active, coarse, locked⟩ := s.lock_shows known
  rw [State.showQl_refState, State.flag, State.showQl_rd _ (by decide +kernel), State.showQl_rd _ (by decide +kernel),
    State.showQl_dpll]
  exact ⟨state, active, coarse, locked⟩

/-- R378: VALID shows a fault, this one or one before it. -/
theorem State.recordFault_valid (s : State) (kind island peer : Nat) :
    (s.recordFault kind island peer).flag .RAS_FAULT_VALID = true := by
  unfold State.recordFault
  split
  next set => exact set
  next =>
    rw [State.flag, State.rd_wr_ne _ (by decide), State.rd_wr_ne _ (by decide), State.rd_wr_ne _ (by decide)]
    exact State.flag_wrb_self s .RAS_FAULT_VALID [] true (by decide)

theorem State.ring_rd (s : State) (v : Nat) {r : Row} (h : spares State.ring_touch r = true) (ix : List Nat) :
    (s.ring v).rd r ix = s.rd r ix :=
  (State.ring_within (.refl _ s) (covers_self _) v).keeps h ix

theorem State.refoutOn_of_fault (fault : s.refState = 7) (j : Nat) : s.refoutOn j = false := by
  unfold State.refoutOn
  rw [fault]
  simp

/-- R341, R378: the DPLL's fault. -/
theorem State.dpllFail_shows (s : State) : s.dpllFail.refState = 7 ∧ s.dpllFail.pins.faultN = true ∧
    s.dpllFail.ras.dpllFault = true ∧ s.dpllFail.flag .RAS_FAULT_VALID = true := by
  have asserts (t : State) : t.assertFault.ras = t.ras :=
    (State.assertFault_within (.refl _ t) (covers_self _)).part .ras (by decide +kernel)
  have emits (t : State) (a b c : Nat) : (t.emit a b c).ras = t.ras :=
    (State.emit_within (.refl _ t) (covers_self _) a b c 0 0).part .ras (by decide +kernel)
  have records (t : State) : (t.recordFault 6 6 0).ras = t.ras :=
    (State.recordFault_within (.refl _ t) (covers_self _) 6 6 0).part .ras (by decide +kernel)
  have states (t : State) : (t.setRef 7).ras = t.ras :=
    (State.setRef_within (.refl _ t) (covers_self _) 7).part .ras (by decide +kernel)
  unfold State.dpllFail
  dsimp only
  refine ⟨?_, ?_, ?_, ?_⟩
  · rw [State.showQl_refState, State.refState, State.ring_rd _ _ (by decide +kernel), State.assertFault_rd,
      State.emit_rd _ (by decide +kernel), State.recordFault_rd _ _ _ _ (by decide +kernel)]
    exact State.setRef_refState _ (by decide)
  · rw [(State.showQl_within (.refl _ _) (covers_self _)).part .pins (by decide +kernel),
      (State.ring_within (.refl _ _) (covers_self _) _).part .pins (by decide +kernel)]
    exact State.assertFault_low _
  · rw [(State.showQl_within (.refl _ _) (covers_self _)).part .ras (by decide +kernel),
      (State.ring_within (.refl _ _) (covers_self _) _).part .ras (by decide +kernel), asserts, emits, records, states]
  · rw [State.flag, State.showQl_rd _ (by decide +kernel), State.ring_rd _ _ (by decide +kernel),
      State.assertFault_rd, State.emit_rd _ (by decide +kernel)]
    exact State.recordFault_valid ..

theorem State.setFreq_zero (s : State) : (s.setFreq 0).rdS .REF_STAT_OFFSET = 0 ∧ (s.setFreq 0).dpll.freq = 0 := by
  have width : Row.REF_STAT_OFFSET.width = 16 := rfl
  refine ⟨?_, rfl⟩
  have zero : clampInt (-32768) 32767 (0 / 1000000) = 0 := by decide
  rw [State.setFreq, zero]
  exact State.rdS_wrS_self _ _ _ (by decide) (by rw [width]; decide) (by rw [width]; decide)

/-- R341: the DPLL runs free again. -/
def State.dpllRelock (s : State) : State :=
  (({ s with ras := { s.ras with dpllFault := false } }.setFreq 0).setRef 0).releaseFault.showQl

theorem State.releaseFault_rd (s : State) (r : Row) (ix : List Nat) : s.releaseFault.rd r ix = s.rd r ix := by
  unfold State.releaseFault
  split <;> rfl

theorem State.dpllRelock_shows (s : State) : s.dpllRelock.refState = 0 ∧ s.dpllRelock.ras.dpllFault = false ∧
    s.dpllRelock.rdS .REF_STAT_OFFSET = 0 ∧ s.dpllRelock.dpll.freq = 0 := by
  have freq (t : State) : (t.setFreq 0).ras = t.ras := rfl
  have states (t : State) : (t.setRef 0).ras = t.ras :=
    (State.setRef_within (.refl _ t) (covers_self _) 0).part .ras (by decide +kernel)
  have released (t : State) : t.releaseFault.ras = t.ras ∧ t.releaseFault.dpll = t.dpll := by
    unfold State.releaseFault
    split <;> exact ⟨rfl, rfl⟩
  unfold State.dpllRelock
  refine ⟨?_, ?_, ?_, ?_⟩
  · rw [State.showQl_refState, State.refState, State.releaseFault_rd]
    exact State.setRef_refState _ (by decide)
  · rw [(State.showQl_within (.refl _ _) (covers_self _)).part .ras (by decide +kernel), (released _).1, states, freq]
  · rw [State.rdS, State.showQl_rd _ (by decide +kernel), State.releaseFault_rd, State.setRef_rd _ _ (by decide +kernel)]
    exact (State.setFreq_zero _).1
  · rw [State.showQl_dpll, (released _).2, State.setRef_dpll]
    rfl

/-! ### The holdover model (R340) -/

/-- R340: the model is gone. -/
theorem State.relearn_shows (s : State) : s.relearn.rd .REF_HO_STAT_LEARN_H = 0 ∧
    s.relearn.flag .REF_STAT_HO_VALID = false ∧ s.relearn.refState = (if s.refState = 3 then 4 else s.refState) := by
  have moves (t : State) (f : Dpll → Dpll) (r : Row) : (t.onDpll f).rd r = t.rd r := rfl
  have freq (t : State) (f : Int) {r : Row} (h : spares State.setFreq_touch r = true) : (t.setFreq f).rd r = t.rd r :=
    (State.setFreq_within (.refl _ t) (covers_self _) f).keeps h _
  have held (t : State) {r : Row} (h : (spares State.setFreq_touch r && spares State.setRef_touch r) = true) (c : Bool) :
      (t.when c (fun u => (u.setFreq u.dpll.entry).setRef 4)).rd r = t.rd r := by
    rw [Bool.and_eq_true] at h
    cases c
    · rfl
    · rw [State.when_true, State.setRef_rd _ _ h.2, freq _ _ h.1]
  have state : (((s.wr .REF_HO_STAT_LEARN_H [] 0).wr .REF_HO_STAT_T0 [] 0).wrb .REF_STAT_HO_VALID [] false).refState =
      s.refState := by
    rw [State.refState, State.rd_wrb_ne _ (by decide), State.rd_wr_ne _ (by decide), State.rd_wr_ne _ (by decide)]
    rfl
  unfold State.relearn
  dsimp only
  refine ⟨?_, ?_, ?_⟩
  · rw [held _ (by decide +kernel), moves, State.rd_wrb_ne _ (by decide), State.rd_wr_ne _ (by decide), State.rd_wr_self]
    rfl
  · rw [State.flag, held _ (by decide +kernel), moves]
    exact State.flag_wrb_self _ .REF_STAT_HO_VALID [] false (by decide)
  · have kept (f : Dpll → Dpll) : ((((s.wr .REF_HO_STAT_LEARN_H [] 0).wr .REF_HO_STAT_T0 [] 0).wrb .REF_STAT_HO_VALID []
        false).onDpll f).refState = s.refState := (moves _ f _).trans state
    rw [kept]
    by_cases h : s.refState = 3
    · rw [if_pos h, h, beq_self_eq_true, State.when_true]
      exact State.setRef_refState _ (by decide)
    · rw [if_neg h, beq_eq_false_iff_ne.mpr h, State.when_false]
      exact kept _

/-- R340: an hour learned. -/
def State.learnHour (s : State) (fit : HoModel) (h : Nat) (t0 : Int) : State :=
  (((s.wr .REF_HO_STAT_LEARN_H [] h).wrS .REF_HO_STAT_T0 [] t0).wrb .REF_STAT_HO_VALID [] (decide (72 ≤ h))).onDpll
    (fun d => { d with model := fit })

theorem State.learnHour_shows (s : State) (fit : HoModel) {h : Nat} (fits : h < 65536) (t0 : Int) :
    (s.learnHour fit h t0).rd .REF_HO_STAT_LEARN_H = h ∧
      (s.learnHour fit h t0).flag .REF_STAT_HO_VALID = decide (72 ≤ h) ∧ (s.learnHour fit h t0).dpll.model = fit := by
  have moves (t : State) (f : Dpll → Dpll) (r : Row) : (t.onDpll f).rd r = t.rd r := rfl
  unfold State.learnHour
  refine ⟨?_, ?_, rfl⟩
  · rw [moves, State.rd_wrb_ne _ (by decide), State.wrS, State.rd_wr_ne _ (by decide), State.rd_wr_self]
    exact Nat.mod_eq_of_lt fits
  · rw [State.flag, moves]
    exact State.flag_wrb_self _ .REF_STAT_HO_VALID [] _ (by decide)

/-! ### What the selection does with its target (R337, R338) -/

theorem State.readySelect_refState (s : State) (offsets : List (Option Int)) :
    (s.begin.readySelect offsets).refState = s.refState :=
  s.begin.readySelect_rd offsets (by decide +kernel) _

theorem State.evaluate_acquires {c : Nat} (low : s.refState ≤ 1) (want : s.wantTarget = some c) :
    s.evaluate = s.acquire c := by
  have five : s.refState ≠ 5 := by omega
  have seven : s.refState ≠ 7 := by omega
  unfold State.evaluate
  dsimp only
  rw [if_neg five, if_neg seven, want]
  exact if_pos low

theorem State.evaluate_switches {c : Nat} (locked : s.refState = 2) (want : s.wantTarget = some c)
    (other : c ≠ s.rd .REF_STAT_ACTIVE) : s.evaluate = s.switchTo c := by
  unfold State.evaluate
  dsimp only
  rw [locked, want]
  simp [other]

theorem State.evaluate_holds (locked : s.refState = 2) (want : s.wantTarget = none) :
    s.evaluate = s.holdover s.averaged := by
  unfold State.evaluate
  dsimp only
  rw [locked, want]
  rfl

theorem State.endWtr_exec {i : Fin 8} (runs : s.flag .REF_CAND_STAT_WTR_RUN [i] = true) :
    exec (.candWtrExpiry i) s = .next (s.begin.endWtr i) := by
  have runs' : s.begin.flag .REF_CAND_STAT_WTR_RUN [i] = true := runs
  rw [exec_candWtrExpiry, execCandWtrExpiry, runs', State.when_true]
  rfl

/-- R334: an offset beyond 12 ppm is shown, and its candidate no longer qualified. -/
theorem candDisqualify_exec {i : Fin 8} {offset : Int} (far : 1200 < (s.seenOffset i offset).natAbs) :
    exec (.candDisqualify i offset) s = .next ((s.begin.wrS .REF_CAND_STAT_OFFSET [i]
      (clampInt (-32768) 32767 (s.seenOffset i offset))).loseCand i true) := by
  have far' : decide (1200 < (s.begin.seenOffset i offset).natAbs) = true := decide_eq_true far
  rw [exec_candDisqualify, execCandDisqualify]
  rw [far', State.when_true, Bool.true_or, Bool.true_or, State.when_true]
  rfl

theorem clampInt_within (v : Int) : -32768 ≤ clampInt (-32768) 32767 v ∧ clampInt (-32768) 32767 v ≤ 32767 := by
  unfold clampInt
  omega

theorem candDisqualify_answers {i : Fin 8} {offset : Int} (was : s.flag .REF_CAND_STAT_QUALIFIED [i] = true)
    (far : 1200 < (s.seenOffset i offset).natAbs) :
    Answers (.candDisqualify i offset) s (fun t => t.flag .REF_CAND_STAT_QUALIFIED [i] = false ∧
      t.rdS .REF_CAND_STAT_OFFSET [i] = clampInt (-32768) 32767 (s.seenOffset i offset) ∧ t.dpll.lost.testBit i =
        true ∧ t.flag .REF_EVT_CAND_CHANGE = true) := by
  have width : Row.REF_CAND_STAT_OFFSET.width = 16 := rfl
  obtain ⟨low, high⟩ := clampInt_within (s.seenOffset i offset)
  have was' : (s.begin.wrS .REF_CAND_STAT_OFFSET [i] (clampInt (-32768) 32767 (s.seenOffset i offset))).flag
      .REF_CAND_STAT_QUALIFIED [i] = true := by
    rw [State.flag, State.wrS, State.rd_wr_ne _ (by decide)]
    exact was
  obtain ⟨qualified, lost, rung⟩ := State.loseCand_shows _ i.val was'
  refine ⟨_, candDisqualify_exec far, qualified, ?_, lost, rung⟩
  rw [State.rdS, State.loseCand_rd _ _ _ (by decide +kernel)]
  exact State.rdS_wrS_self _ _ _ (by decide) (by rw [width]; omega) (by rw [width]; omega)

/-- R281, R336: a PDU heard gives its port's QL. -/
theorem esmcRx_answers {port : Fin 32} {len : Nat} {fcsOk : Bool} {ql : Fin 16} (hears : s.macHears port = true)
    (long : 64 ≤ len) (going : s.blockStopped 2 = false) :
    Answers (.esmcRx port len fcsOk ql) s (fun t => tabGet 15 t.dpll.esmc port = ql ∧
      t.dpll.esmcFailed.testBit port = false) := by
  have hears' : s.begin.macHears port = true := hears
  refine ⟨_, ?_, State.takeEsmc_shows (s.begin.macCount port len fcsOk) port ql⟩
  rw [exec_esmcRx, execEsmcRx, State.macConsume_acts hears' long going]

/-- R343: the port's own PDU leaves unless a test pattern stands in place of its traffic. -/
theorem esmcTx_answers {event : Bool} {p : Fin 32} (chosen : (s.rd .REF_ESMC_TX_PORTS).testBit p = true)
    (sends : s.portSends p = true) :
    Answers (.esmcTx event) s (fun t => t.out.contains (.esmc p (s.qlPort p) event) = !s.patterned p) := by
  obtain ⟨l, run, holds⟩ := s.begin.esmc_out event 32
  refine ⟨_, (exec_esmcTx event s).trans (congrArg Host.Outcome.next run), ?_⟩
  have chosen' : (s.begin.rd .REF_ESMC_TX_PORTS).testBit p = true := chosen
  have sends' : s.begin.portSends p = true := sends
  have plain : s.begin.patterned p = s.patterned p := rfl
  have quality : s.begin.qlPort p = s.qlPort p := rfl
  have empty : s.begin.out = [] := rfl
  show (s.begin.out ++ l).contains (.esmc p (s.qlPort p) event) = _
  rw [Bool.eq_iff_iff, List.contains_iff_mem, empty, List.nil_append, holds]
  constructor
  · rintro ⟨q, _, goes, same⟩
    have here : p.val = q := by injection same
    subst here
    rw [plain] at goes
    simp only [Bool.and_eq_true] at goes
    exact goes.2
  · intro goes
    exact ⟨p, p.isLt, by rw [chosen', sends', plain, goes]; rfl, by rw [quality]⟩

/-- R341: a fault squelches every REFOUT. -/
theorem dpllFault_exec (up : s.refUp = true) (fine : s.refState ≠ 7) : exec .dpllFault s = .next s.begin.dpllFail := by
  have up' : s.begin.refUp = true := up
  have fine' : (s.begin.refState != 7) = true := bne_iff_ne.mpr fine
  rw [exec_dpllFault, execDpllFault]
  rw [up', fine', Bool.true_and, State.when_true]

theorem dpllRelock_exec (fault : s.refState = 7) : exec .dpllRelock s = .next s.begin.dpllRelock := by
  have fault' : (s.begin.refState == 7) = true := beq_iff_eq.mpr fault
  rw [exec_dpllRelock, execDpllRelock]
  dsimp only
  rw [fault', State.when_true]
  rfl

theorem refLock_exec (moving : s.refState = 1 ∨ s.refState = 5) (near : s.nearTarget = true) :
    exec .refLock s = .next s.begin.lock.showQl := by
  have near' : s.begin.nearTarget = true := near
  have moving' : (s.begin.refState == 1 || s.begin.refState == 5) = true := by
    rw [Bool.or_eq_true, beq_iff_eq, beq_iff_eq]
    exact moving
  rw [exec_refLock, execRefLock]
  rw [near', moving', Bool.true_and, State.when_true]

theorem candQualify_exec {i : Fin 8} {offset : Int} (up : s.refUp = true)
    (new : s.flag .REF_CAND_STAT_QUALIFIED [i] = false) (cond : s.candCond i = true)
    (small : (s.seenOffset i offset).natAbs ≤ 1000) :
    exec (.candQualify i offset) s = .next (s.begin.qualify i (s.seenOffset i offset)) := by
  have up' : s.begin.refUp = true := up
  have new' : s.begin.flag .REF_CAND_STAT_QUALIFIED [i] = false := new
  have cond' : s.begin.candCond i = true := cond
  have small' : decide ((s.begin.seenOffset i offset).natAbs ≤ 1000) = true := decide_eq_true small
  rw [exec_candQualify, execCandQualify]
  rw [up', new', cond', small']
  rfl

/-- R340: an hour learned while locked. -/
theorem holdoverLearnHour_answers {fit : HoModel} (locked : s.refState = 2) :
    Answers (.holdoverLearnHour fit) s (fun t => t.rd .REF_HO_STAT_LEARN_H =
        satAdd 16 (s.rd .REF_HO_STAT_LEARN_H) 1 ∧ t.flag .REF_STAT_HO_VALID =
          decide (72 ≤ satAdd 16 (s.rd .REF_HO_STAT_LEARN_H) 1) ∧ t.dpll.model = fit) := by
  have locked' : (s.begin.refState == 2) = true := beq_iff_eq.mpr locked
  refine ⟨_, ?_, s.begin.learnHour_shows fit (satAdd_lt 16 (s.rd .REF_HO_STAT_LEARN_H) 1)
    (if s.begin.dpll.sumN = 0 then s.begin.coldPlate else s.begin.dpll.sumT / s.begin.dpll.sumN)⟩
  rw [exec_holdoverLearnHour, execHoldoverLearnHour]
  dsimp only
  rw [locked', State.when_true]
  rfl

theorem refSelect_acquires {offsets : List (Option Int)} {x : Nat} (core : s.coreRuns = true) (up : s.refUp = true)
    (low : s.refState ≤ 1) (want : (s.begin.readySelect offsets).wantTarget = some x) (known : x < 8) :
    Answers (.refSelect offsets) s (fun t => t.rd .REF_STAT_TARGET = x ∧ t.rd .REF_STAT_ACTIVE = x ∧
      t.refState = 1) := by
  apply refSelect_answers up core
  rw [State.evaluate_acquires (by rw [State.readySelect_refState]; exact low) want]
  obtain ⟨state, target, active⟩ := (s.begin.readySelect offsets).acquire_shows known
  exact ⟨(State.showQl_rd _ (by decide +kernel) _).trans target, (State.showQl_rd _ (by decide +kernel) _).trans active,
    (State.showQl_refState _).trans state⟩

theorem refSelect_switches {offsets : List (Option Int)} {x : Nat} (core : s.coreRuns = true) (up : s.refUp = true)
    (locked : s.refState = 2) (want : (s.begin.readySelect offsets).wantTarget = some x) (known : x < 8)
    (other : x ≠ s.rd .REF_STAT_ACTIVE) :
    Answers (.refSelect offsets) s (fun t => t.refState = 5 ∧ t.rd .REF_STAT_TARGET = x ∧
      t.rd .REF_STAT_ACTIVE = s.rd .REF_STAT_ACTIVE) := by
  have kept : (s.begin.readySelect offsets).rd .REF_STAT_ACTIVE = s.rd .REF_STAT_ACTIVE :=
    s.begin.readySelect_rd offsets (by decide +kernel) _
  apply refSelect_answers up core
  rw [State.evaluate_switches (by rw [State.readySelect_refState]; exact locked) want (by rw [kept]; exact other)]
  obtain ⟨state, target, active⟩ := (s.begin.readySelect offsets).switchTo_shows known
  exact ⟨(State.showQl_refState _).trans state, (State.showQl_rd _ (by decide +kernel) _).trans target,
    (State.showQl_rd _ (by decide +kernel) _).trans (active.trans kept)⟩

theorem refSelect_holds {offsets : List (Option Int)} (core : s.coreRuns = true) (up : s.refUp = true)
    (locked : s.refState = 2) (want : (s.begin.readySelect offsets).wantTarget = none) :
    Answers (.refSelect offsets) s (fun t => t.refState = (if s.dpll.everLocked then
      (if s.flag .REF_STAT_HO_VALID then 3 else 4) else 0)) := by
  have valid : (s.begin.readySelect offsets).flag .REF_STAT_HO_VALID = s.flag .REF_STAT_HO_VALID := by
    rw [State.flag, s.begin.readySelect_rd offsets (by decide +kernel)]
    rfl
  have ever : (s.begin.readySelect offsets).dpll.everLocked = s.dpll.everLocked := s.begin.readySelect_everLocked offsets
  apply refSelect_answers up core
  rw [State.evaluate_holds (by rw [State.readySelect_refState]; exact locked) want, State.showQl_refState,
    State.holdover_refState, valid, ever]

end

/-- Settles O35: each command's effect is its operation's law above; a selection decides on the measured
candidates. -/
theorem references : Obligations.References := by
  intro s
  refine ⟨?_, ?_, ?_, ?_, ?_, ?_, ?_, ?_, ?_, ?_, ?_, ?_, ?_, ?_, ?_⟩
  · intro i offset up new cond small
    exact ⟨_, candQualify_exec up new cond small, s.begin.qualify_shows i small⟩
  · intro i offset was far
    exact candDisqualify_answers was far
  · intro i runs
    exact ⟨_, State.endWtr_exec runs, s.begin.endWtr_shows i⟩
  · intro port len fcsOk ql running link mode fine long going
    exact esmcRx_answers (State.macHears_iff.mpr ⟨running, link, mode, fine⟩) long going
  · intro i client
    have client' : s.begin.candClient i = true := client
    refine ⟨_, ?_, s.begin.failEsmc_shows client'⟩
    rw [exec_esmcTimeout, execEsmcTimeout]
    rw [client', State.when_true]
  · intro event p chosen sends
    exact esmcTx_answers chosen sends
  · intro offsets x core up low want known
    exact refSelect_acquires core up low want known
  · intro offsets x core up locked want known other
    exact refSelect_switches core up locked want known other
  · intro offsets core up locked want
    exact refSelect_holds core up locked want
  · intro moving near known
    exact ⟨_, refLock_exec moving near, s.begin.lock_showQl known⟩
  · intro up fine
    obtain ⟨state, pin, fault, valid⟩ := s.begin.dpllFail_shows
    exact ⟨_, dpllFault_exec up fine, state, pin, fault, valid, fun j => State.refoutOn_of_fault state j⟩
  · intro fault
    exact ⟨_, dpllRelock_exec fault, s.begin.dpllRelock_shows⟩
  · intro req taken
    exact answers_via (exec_hoRelearn ..) taken s.begin.relearn_shows
  · intro fit locked
    exact holdoverLearnHour_answers locked
  · intro req taken
    exact answers_via (exec_mtStep ..) taken rfl

end Sys2Proof.Machine
end

section
/-!
Client ports (R281, R282, R290 to R294): received frames, priority flow control, links, and O31.
-/

namespace Sys2Proof.Machine

-- One theorem at a time bounds the memory of the whole text's check.
set_option Elab.async false

/-! ### Bits -/

theorem testBit_setBit_ne (v : Nat) {i j : Nat} (h : j ≠ i) : (setBit v i).testBit j = v.testBit j := by
  rw [setBit, Nat.testBit_or, Nat.testBit_two_pow_of_ne (Ne.symm h), Bool.or_false]

theorem testBit_clearBit_ne (v : Nat) {i j : Nat} (h : j ≠ i) : (clearBit v i).testBit j = v.testBit j := by
  unfold clearBit clearMask
  rw [Nat.and_two_pow]
  cases set : v.testBit i
  · simp
  · have odd : v / 2 ^ i % 2 = 1 := by simpa [Nat.testBit_eq_decide_div_mod_eq] using set
    have whole : 2 ^ i * (v / 2 ^ i) + v % 2 ^ i = v := Nat.div_add_mod v _
    have low : v % 2 ^ i < 2 ^ i := Nat.mod_lt _ (Nat.two_pow_pos i)
    have less : v - 2 ^ i = 2 ^ i * (v / 2 ^ i - 1) + v % 2 ^ i := by
      have one : 1 ≤ v / 2 ^ i := Nat.pos_of_ne_zero fun zero => by simp [zero] at odd
      have some : 2 ^ i * 1 ≤ 2 ^ i * (v / 2 ^ i) := Nat.mul_le_mul_left _ one
      rw [Nat.mul_sub_one]
      generalize 2 ^ i * (v / 2 ^ i) = x at whole some ⊢
      generalize v % 2 ^ i = y at whole ⊢
      generalize 2 ^ i = z at some ⊢
      omega
    rw [Bool.toNat_true, Nat.one_mul, less, Nat.testBit_two_pow_mul_add _ low]
    conv_rhs => rw [← whole, Nat.testBit_two_pow_mul_add _ low]
    generalize v / 2 ^ i = q at odd ⊢
    split
    · rfl
    · obtain ⟨k, hk⟩ : ∃ k, j - i = k + 1 := ⟨j - i - 1, by omega⟩
      have half : (q - 1) / 2 = q / 2 := by omega
      rw [hk, Nat.testBit_add_one, Nat.testBit_add_one, half]

section
variable {s : State} {p : Nat}

/-! ### Reception (R281) -/

theorem State.rd_when_count (s : State) (c : Bool) {r x : Row} (h : r.id ≠ x.id) (ix jx : List Nat) :
    (s.when c (·.count r ix)).rd x jx = s.rd x jx :=
  State.rd_when (f := (·.count r ix)) (s.rd_count_ne h ix jx 1) c

/-- R281: every received frame is counted. -/
theorem State.macCount_frames (s : State) (p len : Nat) (fcsOk : Bool) :
    (s.macCount p len fcsOk).rd .CLI_RX_FRAMES_COUNT [p] =
      satAdd Row.CLI_RX_FRAMES_COUNT.width (s.rd .CLI_RX_FRAMES_COUNT [p]) 1 := by
  rw [State.macCount, State.rd_when_count _ _ (by decide), State.rd_when_count _ _ (by decide),
    State.rd_when_count _ _ (by decide), State.rd_count_self]

theorem State.macCount_rd (s : State) (p len : Nat) (fcsOk : Bool) {r : Row}
    (h : spares State.macCount_touch r = true) (ix : List Nat) : (s.macCount p len fcsOk).rd r ix = s.rd r ix :=
  (State.macCount_within (.refl _ s) (covers_self _) p len fcsOk).keeps h ix

theorem State.macCount_pan (s : State) (p len : Nat) (fcsOk : Bool) : (s.macCount p len fcsOk).pan = s.pan :=
  (State.macCount_within (.refl _ s) (covers_self _) p len fcsOk).part .pan (by decide +kernel)

/-- R281: a frame that is no MAC control frame is counted, whatever becomes of it. -/
theorem State.clientFrame_frames (hears : s.macHears p = true) (f : Frame) :
    (s.clientFrame p f false).rd .CLI_RX_FRAMES_COUNT [p] =
      satAdd Row.CLI_RX_FRAMES_COUNT.width (s.rd .CLI_RX_FRAMES_COUNT [p]) 1 := by
  unfold State.clientFrame
  rw [hears]
  simp only [Bool.false_eq_true, Bool.not_true, if_false]
  split
  next => exact s.macCount_frames p f.len f.fcsOk
  next =>
    rw [(State.policedFrame_within (.refl _ _) (covers_self _) _ _ _).keeps (by decide +kernel)]
    exact s.macCount_frames p f.len f.fcsOk

/-- R281: a MAC control frame is counted and goes no further. -/
theorem State.clientFrame_control (hears : s.macHears p = true) (f : Frame) (long : 64 ≤ f.len)
    (going : s.blockStopped 2 = false) :
    (s.clientFrame p f true).rd .CLI_RX_MACCTL_COUNT [p] =
        satAdd Row.CLI_RX_MACCTL_COUNT.width (s.rd .CLI_RX_MACCTL_COUNT [p]) 1 ∧
      (s.clientFrame p f true).pan.queues = s.pan.queues := by
  rw [State.clientFrame, if_pos rfl, State.macConsume_acts hears long going]
  rw [State.rd_count_self, State.macCount_rd _ _ _ _ (by decide +kernel), State.count_pan, State.macCount_pan]
  exact ⟨rfl, rfl⟩

/-- R289: a frame passes through only a queue that was empty, so nothing does where no queue has changed. -/
theorem State.passThrough_of_queues {t : State} (same : t.pan.queues = s.pan.queues) (p c : Nat) :
    s.passThrough t p c = t := by
  have none (q : Nat) : s.passesThrough t p q = false := by
    rw [State.passesThrough, State.queue_congr same]
    cases s.queue q <;> simp
  unfold State.passThrough
  exact List.foldl_fixed' (fun ch => by rw [none, State.when_false]) _

/-! ### Priority flow control (R290 to R294) -/

/-- R386: a loop of native events changes only what the general counters see. -/
theorem State.upTo_native (s : State) (n code : Nat) (on : Nat → Bool) (inst : Nat → Nat) :
    ∃ e, s.upTo n (fun t c => t.when (on c) (·.native code (inst c) 1)) = { s with pmu := { s.pmu with events := e } } := by
  unfold State.upTo
  refine List.foldlRecOn (motive := fun t : State => ∃ e, t = { s with pmu := { s.pmu with events := e } }) _ _
    ⟨s.pmu.events, rfl⟩ fun t ht c _ => ?_
  obtain ⟨e, rfl⟩ := ht
  cases on c
  · exact ⟨e, rfl⟩
  · exact ⟨_, rfl⟩

theorem State.patterned_congr {t : State} (h : ∀ r ∈ [Row.CLI_PORT_CFG_WIDTH, Row.CLI_PORT_CFG_LANE0,
    Row.SDS_PRBS_CTL_TX_PAT], ∀ ix, t.rd r ix = s.rd r ix) (p : Nat) : t.patterned p = s.patterned p := by
  unfold State.patterned State.portLanes
  rw [h _ (by simp), h _ (by simp)]
  exact congrArg (List.any _) (funext fun l => by rw [h _ (by simp)])

/-- R291: the PFC frame itself, with its count and the present state of its port's classes. -/
def State.pfcLeaves (s : State) (p due off : Nat) : State :=
  ((s.count .CLI_PFC_TX_COUNT [p]).wr .CLI_PORT_STAT_XOFF [p]
    (clearMask (s.rd .CLI_PORT_STAT_XOFF [p]) (clearMask due off))).when (!s.patterned p)
      (·.say (.pfc p due (due &&& off) (s.rd .CLI_PFC_CFG_QUANTA [p])))

theorem State.pfcLeaves_shows (s : State) (p due off : Nat) :
    (s.pfcLeaves p due off).out = s.out ++ (if s.patterned p then [] else
        [.pfc p due (due &&& off) (s.rd .CLI_PFC_CFG_QUANTA [p])]) ∧
      (s.pfcLeaves p due off).rd .CLI_PFC_TX_COUNT [p] =
        satAdd Row.CLI_PFC_TX_COUNT.width (s.rd .CLI_PFC_TX_COUNT [p]) 1 := by
  have counted := s.rd_count_self .CLI_PFC_TX_COUNT [p] 1
  have quiet := s.count_out .CLI_PFC_TX_COUNT [p] 1
  have wrote (v : Nat) := (s.count .CLI_PFC_TX_COUNT [p]).wr_out .CLI_PORT_STAT_XOFF [p] v
  have kept (v : Nat) := (s.count .CLI_PFC_TX_COUNT [p]).rd_wr_ne (r := .CLI_PORT_STAT_XOFF) (x := .CLI_PFC_TX_COUNT)
    (by decide) [p] [p] v
  unfold State.pfcLeaves
  cases s.patterned p
  · simp only [Bool.not_false, State.when_true, State.say_out, State.say_rd, kept, counted, wrote, quiet]
    exact ⟨rfl, trivial⟩
  · simp only [Bool.not_true, State.when_false, kept, counted, wrote, quiet]
    exact ⟨(List.append_nil _).symm, trivial⟩

/-- R291: the PFC frame leaves, and no class of the port is due any more. -/
theorem State.sendPfc_shows (due : tabGet 0 s.pan.pfcDue p &&& s.rd .CLI_PFC_CFG_TX_EN [p] ≠ 0)
    (sends : s.portSends p = true) :
    (s.sendPfc p).out = s.out ++ (if s.patterned p then [] else
        [.pfc p (tabGet 0 s.pan.pfcDue p &&& s.rd .CLI_PFC_CFG_TX_EN [p]) (tabGet 0 s.pan.pfcDue p &&&
          s.rd .CLI_PFC_CFG_TX_EN [p] &&& tabGet 0 s.pan.pfcXoff p) (s.rd .CLI_PFC_CFG_QUANTA [p])]) ∧
      tabGet 0 (s.sendPfc p).pan.pfcDue p = 0 ∧
      (s.sendPfc p).rd .CLI_PFC_TX_COUNT [p] =
        satAdd Row.CLI_PFC_TX_COUNT.width (s.rd .CLI_PFC_TX_COUNT [p]) 1 := by
  obtain ⟨e, noted⟩ := s.upTo_native 8 9
    (fun c => (tabGet 0 s.pan.pfcDue p &&& s.rd .CLI_PFC_CFG_TX_EN [p] &&& tabGet 0 s.pan.pfcXoff p).testBit c)
    (fun c => 8 * p + c)
  have stays : ¬ (decide (tabGet 0 s.pan.pfcDue p &&& s.rd .CLI_PFC_CFG_TX_EN [p] = 0) || !s.portSends p) = true := by
    simp [due, sends]
  obtain ⟨out, count⟩ := State.pfcLeaves_shows { s with pmu := { s.pmu with events := e } } p
    (tabGet 0 s.pan.pfcDue p &&& s.rd .CLI_PFC_CFG_TX_EN [p]) (tabGet 0 s.pan.pfcXoff p)
  have sent : s.sendPfc p = (fun t : State => { t with pan := { t.pan with pfcDue := tabErase t.pan.pfcDue p } })
      (State.pfcLeaves { s with pmu := { s.pmu with events := e } } p
        (tabGet 0 s.pan.pfcDue p &&& s.rd .CLI_PFC_CFG_TX_EN [p]) (tabGet 0 s.pan.pfcXoff p)) := by
    unfold State.sendPfc
    dsimp only
    rw [if_neg stays, noted]
    rfl
  rw [sent]
  exact ⟨out, tabGet_erase_self .., count⟩

/-- R290, R291: a class in XOFF that takes part is due again. -/
theorem State.repeatXoff_due {c : Nat} (off : (tabGet 0 s.pan.pfcXoff p).testBit c = true)
    (part : (s.rd .CLI_PFC_CFG_TX_EN [p]).testBit c = true) :
    (tabGet 0 (s.repeatXoff p c).pan.pfcDue p).testBit c = true := by
  rw [State.repeatXoff, off, part, Bool.true_and, if_pos rfl]
  exact (congrArg (Nat.testBit · c) (tabGet_set_self ..)).trans (testBit_setBit_self ..)

theorem State.bit_testBit (s : State) (r : Row) (ix : List Nat) (b : Nat) {c : Nat} (low : c < r.width) :
    ((s.bit r ix b).rd r ix).testBit c = if c = b then true else (s.rd r ix).testBit c := by
  rw [State.bit, State.rd_wr_self, Nat.testBit_mod_two_pow, decide_eq_true low, Bool.true_and]
  split
  next same => rw [same, testBit_setBit_self]
  next other => exact testBit_setBit_ne _ other

theorem State.unbit_testBit (s : State) (r : Row) (ix : List Nat) (b : Nat) {c : Nat} (low : c < r.width) :
    ((s.unbit r ix b).rd r ix).testBit c = if c = b then false else (s.rd r ix).testBit c := by
  rw [State.unbit, State.rd_wr_self, Nat.testBit_mod_two_pow, decide_eq_true low, Bool.true_and]
  split
  next same => rw [same, testBit_clearBit_self]
  next other => exact testBit_clearBit_ne _ other

/-- R294: what one class of a received PFC frame does to each class's pause. -/
theorem State.pauseClass_paused (s : State) (p vector : Nat) (times : List Nat) (b : Nat) {c : Nat} (low : c < 8) :
    ((s.pauseClass p vector times b).rd .CLI_PORT_STAT_PAUSED [p]).testBit c =
      if c = b && (vector.testBit b && (s.rd .CLI_PFC_CFG_RX_EN [p]).testBit b) then times.getD b 0 != 0
      else (s.rd .CLI_PORT_STAT_PAUSED [p]).testBit c := by
  have width : c < Row.CLI_PORT_STAT_PAUSED.width := low
  unfold State.pauseClass
  split
  next allowed =>
    rw [allowed, Bool.and_true]
    split
    next zero =>
      rw [State.unbit_testBit _ _ _ _ width, zero]
      simp
    next some =>
      have on : (times.getD b 0 != 0) = true := bne_iff_ne.mpr some
      rw [State.native_rd, State.bit_testBit _ _ _ _ width, on]
      simp
  next refused =>
    rw [Bool.eq_false_iff.mpr refused, Bool.and_false]
    rfl

theorem State.pauseClass_rd (s : State) (p vector : Nat) (times : List Nat) (b : Nat) {r : Row}
    (h : spares State.pauseClass_touch r = true) (ix : List Nat) :
    (s.pauseClass p vector times b).rd r ix = s.rd r ix :=
  (State.pauseClass_within (.refl _ s) (covers_self _) p vector times b).keeps h ix

/-- R294: what a received PFC frame does to a class's pause. -/
theorem State.pauseClasses_paused (s : State) (p vector : Nat) (times : List Nat) {c : Nat} (low : c < 8) :
    ((s.upTo 8 (fun t b => t.pauseClass p vector times b)).rd .CLI_PORT_STAT_PAUSED [p]).testBit c =
      if vector.testBit c && (s.rd .CLI_PFC_CFG_RX_EN [p]).testBit c then times.getD c 0 != 0
      else (s.rd .CLI_PORT_STAT_PAUSED [p]).testBit c := by
  have enabled (t : State) (b : Nat) : (t.pauseClass p vector times b).rd .CLI_PFC_CFG_RX_EN [p] =
      t.rd .CLI_PFC_CFG_RX_EN [p] := State.pauseClass_rd t p vector times b (by decide +kernel) _
  have elsewhere (t : State) {b : Nat} (other : b ≠ c) :
      ((t.pauseClass p vector times b).rd .CLI_PORT_STAT_PAUSED [p]).testBit c =
        (t.rd .CLI_PORT_STAT_PAUSED [p]).testBit c := by
    rw [State.pauseClass_paused t p vector times b low, decide_eq_false (Ne.symm other), Bool.false_and]
    rfl
  refine State.upTo_establishes
    (Q := fun t : State => t.rd .CLI_PFC_CFG_RX_EN [p] = s.rd .CLI_PFC_CFG_RX_EN [p] ∧
      (t.rd .CLI_PORT_STAT_PAUSED [p]).testBit c = (s.rd .CLI_PORT_STAT_PAUSED [p]).testBit c)
    (P := fun t : State => (t.rd .CLI_PORT_STAT_PAUSED [p]).testBit c =
      if vector.testBit c && (s.rd .CLI_PFC_CFG_RX_EN [p]).testBit c then times.getD c 0 != 0
      else (s.rd .CLI_PORT_STAT_PAUSED [p]).testBit c) low ⟨rfl, rfl⟩ ?_ ?_ ?_
  · intro t b other ⟨en, now⟩
    exact ⟨(enabled t b).trans en, (elsewhere t other).trans now⟩
  · intro t ⟨en, now⟩
    rw [State.pauseClass_paused t p vector times c low, en, now, decide_eq_true rfl, Bool.true_and]
  · intro t b other now
    exact (elsewhere t other).trans now

/-- R281, R294: a PFC frame heard is counted, and pauses or releases the classes it names. -/
theorem pfcRx_answers {port : Fin 32} {len vector : Nat} {fcsOk : Bool} {times : List Nat}
    (hears : s.macHears port = true) (long : 64 ≤ len) (going : s.blockStopped 2 = false) (cls : Fin 8) :
    Answers (.pfcRx port len fcsOk vector times) s (fun t => t.rd .CLI_PFC_RX_COUNT [port] =
        satAdd Row.CLI_PFC_RX_COUNT.width (s.rd .CLI_PFC_RX_COUNT [port]) 1 ∧
        (t.rd .CLI_PORT_STAT_PAUSED [port]).testBit cls =
          (if vector.testBit cls && (s.rd .CLI_PFC_CFG_RX_EN [port]).testBit cls then times.getD cls 0 != 0
           else (s.rd .CLI_PORT_STAT_PAUSED [port]).testBit cls)) := by
  have hears' : s.begin.macHears port = true := hears
  refine ⟨_, (exec_pfcRx ..).trans (congrArg Host.Outcome.next (State.macConsume_acts hears' long going _ _)), ?_, ?_⟩
  · rw [State.rd_upTo fun t b => State.pauseClass_rd t port vector times b (by decide +kernel) _, State.rd_count_self,
      State.macCount_rd _ _ _ _ (by decide +kernel), State.begin_rd]
  · rw [State.pauseClasses_paused _ _ _ _ cls.isLt, State.rd_count_ne _ (by decide), State.rd_count_ne _ (by decide),
      State.macCount_rd _ _ _ _ (by decide +kernel), State.macCount_rd _ _ _ _ (by decide +kernel)]
    rfl

/-! ### Links (R282) -/

/-- R282: what a change of a link shows. -/
theorem State.portLink_shows (defined : s.portDefined p = true) (pcs lf rf : Bool) :
    (s.portLink p pcs lf rf).flag .CLI_PORT_STAT_LF_RX [p] = lf ∧
      (s.portLink p pcs lf rf).flag .CLI_PORT_STAT_RF_RX [p] = rf ∧
      (s.portLink p pcs lf rf).pan.aligned.testBit p = pcs := by
  have wrote (t : State) (r : Row) (ix : List Nat) (b : Bool) : (t.wrb r ix b).pan = t.pan := rfl
  have refreshed (t : State) {r : Row} (h : spares State.refreshLink_touch r = true) :
      (t.refreshLink p).rd r [p] = t.rd r [p] := (State.refreshLink_within (.refl _ t) (covers_self _) p).keeps h _
  unfold State.portLink
  rw [defined]
  simp only [Bool.not_true, Bool.false_eq_true, if_false]
  refine ⟨?_, ?_, ?_⟩
  · rw [State.flag, refreshed _ (by decide +kernel), State.rd_wrb_ne _ (by decide)]
    exact State.flag_wrb_self _ .CLI_PORT_STAT_LF_RX [p] lf (by decide)
  · rw [State.flag, refreshed _ (by decide +kernel)]
    exact State.flag_wrb_self _ .CLI_PORT_STAT_RF_RX [p] rf (by decide)
  · rw [(State.refreshLink_within (.refl _ _) (covers_self _) p).part .pan (by decide +kernel), wrote, wrote]
    cases pcs
    · exact testBit_clearBit_self ..
    · exact testBit_setBit_self ..

end

/-- Settles O31: each command's effect is its operation's law above. -/
theorem clientPorts : Obligations.ClientPorts := by
  intro s port
  refine ⟨?_, ?_, ?_, ?_, ?_, ?_, ?_⟩
  · intro f running link mode fine
    have hears : s.begin.macHears port = true := State.macHears_iff.mpr ⟨running, link, mode, fine⟩
    refine ⟨_, exec_clientFrameRx .., ?_⟩
    dsimp only
    rw [(State.passThrough_within (.refl _ _) (covers_self _) _ _ _).keeps (by decide +kernel)]
    exact State.clientFrame_frames hears f
  · intro f running link mode fine long going
    have hears : s.begin.macHears port = true := State.macHears_iff.mpr ⟨running, link, mode, fine⟩
    have control := State.clientFrame_control hears f long going
    refine ⟨_, exec_clientFrameRx .., ?_⟩
    rw [State.passThrough_of_queues control.2]
    exact control
  · intro due sends
    exact ⟨_, exec_pfcFrameTx .., State.sendPfc_shows (s := s.begin) due sends⟩
  · intro cls off part
    exact ⟨_, exec_pfcXoffRepeat .., State.repeatXoff_due (s := s.begin) off part⟩
  · intro len fcsOk vector times cls running link mode fine long going
    exact pfcRx_answers (State.macHears_iff.mpr ⟨running, link, mode, fine⟩) long going cls
  · intro cls
    exact ⟨_, exec_pfcPauseExpiry .., (State.unbit_testBit _ .CLI_PORT_STAT_PAUSED _ _ cls.isLt).trans (if_pos rfl)⟩
  · intro pcs lf rf defined
    exact ⟨_, exec_portLinkChange .., State.portLink_shows (s := s.begin) defined pcs lf rf⟩

end Sys2Proof.Machine
end

section
/-!
The cupboard (R263 to R269, R272, R274): slots, commands, and O29.
-/

namespace Sys2Proof.Machine

-- One theorem at a time bounds the memory of the whole text's check.
set_option Elab.async false

section
variable {s : State}

/-! ### Slots (R263, R264) -/

theorem State.setSlot_rd (s : State) (n st : Nat) {r : Row} (h : spares State.setSlot_touch r = true) (ix : List Nat) :
    (s.setSlot n st).rd r ix = s.rd r ix :=
  (State.setSlot_within (.refl _ s) (covers_self _) n st).keeps h ix

@[simp] theorem State.setSlot_cip (s : State) (n st : Nat) : (s.setSlot n st).cip = s.cip :=
  (State.setSlot_within (.refl _ s) (covers_self _) n st).part .cip (by decide +kernel)

theorem State.showBlocked_slotState (s : State) (n k : Nat) : (s.showBlocked n).slotState k = s.slotState k :=
  (State.showBlocked_within (.refl _ s) (covers_self _) n).keeps (by decide +kernel) _

/-- R264: the state that the slot takes. -/
theorem State.setSlot_self (s : State) (n : Nat) {st : Nat} (fits : st < 8) : (s.setSlot n st).slotState n = st := by
  rw [State.setSlot, State.showBlocked_slotState, State.slotState, State.rd_wr_self]
  exact Nat.mod_eq_of_lt fits

theorem State.setSlot_ne (s : State) {n k : Nat} (st : Nat) (other : n ≠ k) :
    (s.setSlot n st).slotState k = s.slotState k := by
  rw [State.setSlot, State.showBlocked_slotState, State.slotState, State.slotState, State.rd_wr_inst]
  exact fun same => other (by simpa [Row.flat, Row.CIP_SLOT_STAT_STATE] using same)

theorem State.onSlot_keySlot (s : State) (n : Nat) (f : KeySlot → KeySlot) :
    (s.onSlot n f).keySlot n = f (s.keySlot n) := tabGet_set_self ..

theorem State.onSlot_slotState (s : State) (n : Nat) (f : KeySlot → KeySlot) (k : Nat) :
    (s.onSlot n f).slotState k = s.slotState k := rfl

/-- R263: a zeroised slot is EMPTY. -/
theorem State.zeroSlot_shows (s : State) (n : Nat) :
    (s.zeroSlot n).slotState n = 0 ∧ (s.zeroSlot n).keySlot n = KeySlot.empty := by
  have wrote (t : State) (r : Row) (v : Nat) : (t.wr r [n] v).cip = t.cip := rfl
  refine ⟨State.setSlot_self _ n (by decide), ?_⟩
  rw [State.zeroSlot, State.keySlot, State.setSlot_cip, wrote, wrote]
  exact State.onSlot_keySlot s n _

/-- R267: a slot with new material. -/
theorem State.fillSlot_shows (s : State) (n key gen session : Nat) {st : Nat} (fits : st < 8) :
    (s.fillSlot n key gen session st).slotState n = st ∧
      (s.fillSlot n key gen session st).keySlot n = ⟨key, none, session⟩ := by
  have wrote (t : State) (r : Row) (v : Nat) : (t.wr r [n] v).cip = t.cip := rfl
  refine ⟨State.setSlot_self _ n fits, ?_⟩
  rw [State.fillSlot, State.keySlot, State.setSlot_cip,
    (State.slotWrite_within (.refl _ _) (covers_self _) n).part .cip (by decide +kernel), wrote, wrote]
  exact State.onSlot_keySlot s n _

/-- R267: a slot that retires keeps the material that waits. -/
theorem State.retire_shows (s : State) (n : Nat) (next : Option Nat) :
    (s.retire n next).slotState n = 4 ∧ ((s.retire n next).keySlot n).next = next := by
  refine ⟨State.setSlot_self _ n (by decide), ?_⟩
  rw [State.retire, State.keySlot, State.setSlot_cip]
  exact congrArg KeySlot.next (State.onSlot_keySlot s n _)

/-! ### The cupboard's commands (R269) -/

theorem State.refuseKey_shows (s : State) (reason : Nat) : (s.refuseKey reason).flag .SEC_KEY_STAT_REFUSED = true ∧
    (s.refuseKey reason).rd .SEC_KEY_STAT_REASON = reason % 16 ∧ (s.refuseKey reason).cip = s.cip := by
  refine ⟨?_, State.rd_wr_self .., rfl⟩
  rw [State.refuseKey, State.flag, State.rd_wr_ne _ (by decide)]
  exact State.flag_wrb_self s .SEC_KEY_STAT_REFUSED [] true (by decide)

theorem State.askDma_cip (s : State) (k : Transfer) : (s.askDma k).cip = s.cip :=
  (State.askDma_within (.refl _ s) (covers_self _) k).part .cip (by decide +kernel)

/-- R269: a command that takes time shows BUSY. -/
theorem State.runKey_shows (s : State) (op : Nat) : (s.runKey op).flag .SEC_KEY_STAT_BUSY = true ∧
    (s.runKey op).cip = { s.cip with cmd := op } := by
  have busy : ((s.wrb .SEC_KEY_STAT_BUSY [] true).onCip (fun c => { c with cmd := op })).flag .SEC_KEY_STAT_BUSY = true :=
    State.flag_wrb_self s .SEC_KEY_STAT_BUSY [] true (by decide)
  unfold State.runKey
  cases usesDma op
  · exact ⟨busy, rfl⟩
  · rw [State.when_true, State.flag, State.askDma_rd _ _ (by decide +kernel), State.askDma_cip]
    exact ⟨busy, rfl⟩

theorem State.runKey_slotState (s : State) (op k : Nat) : (s.runKey op).slotState k = s.slotState k :=
  (State.runKey_within (.refl _ s) (covers_self _) op).keeps (by decide +kernel) _

theorem State.runKey_keySlot (s : State) (op k : Nat) : (s.runKey op).keySlot k = s.keySlot k := by
  rw [State.keySlot, (s.runKey_shows op).2]
  rfl

/-- R264: where a LOAD's material goes. -/
theorem State.loadSlot_shows (s : State) (n key : Nat) :
    (s.slotState n = 0 → (s.loadSlot n key).slotState n = 2 ∧ ((s.loadSlot n key).keySlot n).material = key) ∧
      (3 ≤ s.slotState n → s.slotState n ≤ 5 → (s.loadSlot n key).slotState n = 4 ∧
        ((s.loadSlot n key).keySlot n).next = some key) := by
  constructor
  · intro empty
    have filled := s.fillSlot_shows n key 0 0 (st := 2) (by decide)
    unfold State.loadSlot
    rw [empty]
    exact ⟨filled.1, congrArg KeySlot.material filled.2⟩
  · intro low high
    have retires : s.loadSlot n key = s.retire n (some key) := by
      unfold State.loadSlot
      obtain h | h | h : s.slotState n = 3 ∨ s.slotState n = 4 ∨ s.slotState n = 5 := by omega
      all_goals (rw [h]; rfl)
    rw [retires]
    exact s.retire_shows n (some key)

/-- R269: only the unwrapping can still refuse a LOAD into a slot that takes one. -/
theorem State.loadReason_none (ciphers : s.isC0 = false) (idle : s.flag .SEC_KEY_STAT_BUSY = false) {n : Nat}
    (known : n ≤ 255) (plain : s.isKem (n / 4) = false) (kek : s.cip.kek.isSome = true) :
    s.loadReason n = if s.unwrapped.isNone then some 1 else none := by
  have low : ¬ 255 < n := by omega
  have kept : s.cip.kek.isNone = false := by
    rw [← Option.not_isSome, kek]
    rfl
  rw [State.loadReason, ciphers, idle, plain, kept, if_neg low]
  rfl

theorem State.keyLoad_refused {n r : Nat} (refused : s.loadReason n = some r) : s.keyLoad n = s.refuseKey r := by
  rw [State.keyLoad, refused]

theorem State.keyLoad_shows {n key : Nat} (passes : s.loadReason n = none) (unwraps : s.unwrapped = some key) :
    (s.keyLoad n).flag .SEC_KEY_STAT_BUSY = true ∧
      (s.slotState n = 0 → (s.keyLoad n).slotState n = 2 ∧ ((s.keyLoad n).keySlot n).material = key) ∧
      (3 ≤ s.slotState n → s.slotState n ≤ 5 → (s.keyLoad n).slotState n = 4 ∧
        ((s.keyLoad n).keySlot n).next = some key) := by
  have runs : s.keyLoad n = (s.loadSlot n key).runKey 1 := by rw [State.keyLoad, passes, unwraps]; rfl
  rw [runs, State.runKey_slotState, State.runKey_keySlot]
  exact ⟨(State.runKey_shows _ 1).1, s.loadSlot_shows n key⟩

/-- R267: an ERASE of a slot that takes one. -/
theorem State.keyErase_shows (ciphers : s.isC0 = false) (idle : s.flag .SEC_KEY_STAT_BUSY = false) {n : Nat}
    (known : n ≤ 255) : if 3 ≤ s.slotState n then (s.keyErase n).slotState n = 4 ∧ ((s.keyErase n).keySlot n).next = none
      else (s.keyErase n).slotState n = 0 ∧ ((s.keyErase n).keySlot n).material = 0 := by
  have low : ¬ 255 < n := by omega
  have erases : s.keyErase n = if 3 ≤ s.slotState n then s.retire n none else s.zeroSlot n := by
    rw [State.keyErase, ciphers, idle, if_neg low]
    rfl
  rw [erases]
  split
  · exact s.retire_shows n none
  · obtain ⟨state, slot⟩ := s.zeroSlot_shows n
    exact ⟨state, by rw [slot]; rfl⟩

/-- R269: a LOAD_KEK that is not refused at once. -/
theorem State.loadKek_shows (ciphers : s.isC0 = false) (idle : s.flag .SEC_KEY_STAT_BUSY = false)
    (fetched : Option (List Nat)) :
    (fetched = none → (s.loadKek fetched).flag .SEC_KEY_STAT_REFUSED = true ∧
        (s.loadKek fetched).rd .SEC_KEY_STAT_REASON = 7 ∧ (s.loadKek fetched).cip.kek = s.cip.kek) ∧
      ∀ c ∈ fetched, (s.loadKek fetched).flag .SEC_KEY_STAT_BUSY = true ∧
        (s.loadKek fetched).cip.kek = some (s.kekOf c) := by
  constructor
  · rintro rfl
    have refused : s.loadKek none = s.refuseKey 7 := by rw [State.loadKek, ciphers, idle]; rfl
    obtain ⟨flag, reason, cip⟩ := s.refuseKey_shows 7
    rw [refused]
    exact ⟨flag, reason, congrArg Cipher.kek cip⟩
  · intro c is
    cases fetched with
    | none => cases is
    | some d =>
      obtain rfl : d = c := Option.some.inj is
      have runs : s.loadKek (some d) =
          (s.onCip (fun x => { x with kek := some (s.kekOf d), oldKek := x.kek })).runKey 3 := by
        rw [State.loadKek, ciphers, idle]
        rfl
      obtain ⟨busy, cip⟩ := (s.onCip (fun x => { x with kek := some (s.kekOf d), oldKek := x.kek })).runKey_shows 3
      rw [runs, cip]
      exact ⟨busy, rfl⟩

/-- R269: a reporting command runs while the cupboard is not busy. -/
theorem State.report_shows (idle : s.flag .SEC_KEY_STAT_BUSY = false) (op : Nat) :
    (s.report op).flag .SEC_KEY_STAT_BUSY = true ∧ (s.report op).cip.cmd = op := by
  obtain ⟨busy, cip⟩ := s.runKey_shows op
  have runs : s.report op = s.runKey op := by rw [State.report, idle]; rfl
  rw [runs, cip]
  exact ⟨busy, rfl⟩

/-- R274: an ATTEST takes its nonce. -/
theorem State.attest_shows (idle : s.flag .SEC_KEY_STAT_BUSY = false) :
    s.attest.flag .SEC_KEY_STAT_BUSY = true ∧ s.attest.cip.cmd = 4 ∧
      s.attest.cip.nonce = (List.range 8).map (fun k => s.rd .SEC_KEY_DATA_BYTES [k]) := by
  have runs : s.attest = (s.onCip (fun c => { c with
      nonce := (List.range 8).map (fun k => s.rd .SEC_KEY_DATA_BYTES [k]) })).runKey 4 := by
    have idle' : (s.onCip (fun c => { c with
      nonce := (List.range 8).map (fun k => s.rd .SEC_KEY_DATA_BYTES [k]) })).flag .SEC_KEY_STAT_BUSY = false := idle
    rw [State.attest, State.takeNonce, idle, State.report]
    simp only [Bool.false_eq_true, if_false]
    rw [idle']
    rfl
  obtain ⟨busy, cip⟩ := (s.onCip (fun c => { c with
    nonce := (List.range 8).map (fun k => s.rd .SEC_KEY_DATA_BYTES [k]) })).runKey_shows 4
  rw [runs, cip]
  exact ⟨busy, rfl, rfl⟩

/-! ### The end of a command (R24, R269, R404) -/

theorem State.writeReport_out {data : List Nat} (reports : data ∈ s.reportData s.cip.cmd) :
    s.writeReport.out = s.out ++ [.hostBlock s.xferAddr data] := by
  have is : s.reportData s.cip.cmd = some data := reports
  rw [State.writeReport, is]
  rfl

/-- R269: a command that ends leaves BUSY at 0 and adds at most messages to what leaves. -/
theorem State.endKey_shows (s : State) : s.endKey.flag .SEC_KEY_STAT_BUSY = false ∧ s.endKey.cip.cmd = 0 ∧
    ∃ l, s.endKey.out = s.out ++ l := by
  have wrote (t : State) (f : Cipher → Cipher) (r : Row) (b : Bool) : ((t.wrb r [] b).onCip f).out = t.out := rfl
  have dma (c : Bool) : (s.when c (·.endDma .xfer)).out = s.out := by
    cases c
    · rfl
    · exact (State.endDma_within (.refl _ s) (covers_self _) .xfer).part .out (by decide +kernel)
  unfold State.endKey
  refine ⟨?_, ?_, ?_⟩
  · rw [State.flag, State.ring_rd _ _ (by decide +kernel)]
    exact State.flag_wrb_self _ .SEC_KEY_STAT_BUSY [] false (by decide)
  · rw [(State.ring_within (.refl _ _) (covers_self _) _).part .cip (by decide +kernel)]
    rfl
  · obtain ⟨-, -, l, out⟩ := State.ring_shows (((s.when (usesDma s.cip.cmd) (·.endDma .xfer)).wrb .SEC_KEY_STAT_BUSY []
      false).onCip (fun c => { c with cmd := 0, oldKek := none })) 5
    exact ⟨l, by rw [out, wrote, dma]⟩

theorem keyCommandDone_exec (runs : s.secRuns = true) (busy : s.flag .SEC_KEY_STAT_BUSY = true)
    (served : (!usesDma s.cip.cmd || s.dmaServes .xfer) = true) :
    exec .keyCommandDone s = .next s.begin.writeReport.endKey := by
  have ends : (s.begin.secRuns && s.begin.flag .SEC_KEY_STAT_BUSY &&
      (!usesDma s.begin.cip.cmd || s.begin.dmaServes .xfer)) = true :=
    Bool.and_eq_true_iff.mpr ⟨Bool.and_eq_true_iff.mpr ⟨runs, busy⟩, served⟩
  rw [exec_keyCommandDone, execKeyCommandDone]
  exact congrArg Host.Outcome.next (if_pos ends)

end

/-- Settles O29: each command's effect is its operation's law above. -/
theorem cupboardCommands : Obligations.CupboardCommands := by
  intro s
  refine ⟨?_, ?_, ?_, ?_, ?_, ?_⟩
  · intro req slot r taken runs refused
    have refused' : s.begin.loadReason slot = some r := refused
    refine answers_viaSec (exec_keyLoad ..) taken runs ?_
    rw [State.keyLoad_refused refused']
    exact s.begin.refuseKey_shows r
  · intro req slot taken runs ciphers idle known plain kek
    have reason : s.begin.loadReason slot = if s.begin.unwrapped.isNone then some 1 else none :=
      State.loadReason_none (s := s.begin) ciphers idle known plain kek
    refine answers_viaSec (exec_keyLoad ..) taken runs ⟨fun fails => ?_, fun key unwraps => ?_⟩
    · have fails' : s.begin.unwrapped = none := fails
      rw [fails'] at reason
      rw [State.keyLoad_refused reason]
      exact s.begin.refuseKey_shows 1
    · have unwraps' : s.begin.unwrapped = some key := unwraps
      rw [unwraps'] at reason
      exact State.keyLoad_shows (s := s.begin) reason unwraps'
  · intro req slot taken runs ciphers idle known
    exact answers_viaSec (exec_keyErase ..) taken runs (State.keyErase_shows (s := s.begin) ciphers idle known)
  · intro req fetched taken runs ciphers idle
    exact answers_viaSec (exec_loadKek ..) taken runs (State.loadKek_shows (s := s.begin) ciphers idle fetched)
  · intro req taken runs idle
    exact ⟨answers_viaSec (exec_attest ..) taken runs (State.attest_shows (s := s.begin) idle),
      answers_viaSec (exec_getCert ..) taken runs (State.report_shows (s := s.begin) idle 5),
      answers_viaSec (exec_getKekPub ..) taken runs (State.report_shows (s := s.begin) idle 6)⟩
  · intro runs busy served
    obtain ⟨idle, cmd, l, out⟩ := s.begin.writeReport.endKey_shows
    refine ⟨_, keyCommandDone_exec runs busy served, idle, cmd, fun data reports => ?_⟩
    rw [out, State.writeReport_out (s := s.begin) reports]
    rfl

end Sys2Proof.Machine
end

section
/-!
Sessions between the ends (R270 to R272), and O30.
-/

namespace Sys2Proof.Machine

-- One theorem at a time bounds the memory of the whole text's check.
set_option Elab.async false

section
variable {s : State} {w : Wing}

/-! ### A session's state and messages (R237, R404) -/

/-- R404: the state taken. -/
theorem State.setSes_self (s : State) (w : Wing) {st : Nat} (fits : st < 8) :
    (s.setSes w st).rd .SEC_SES_STAT_STATE [w.n] = st := by
  unfold State.setSes
  split
  next same => exact same
  next =>
    rw [State.ring_rd _ _ (by decide +kernel), State.rd_wr_self]
    exact Nat.mod_eq_of_lt fits

theorem State.setSes_rd (s : State) (w : Wing) (st : Nat) {r : Row} (h : spares State.setSes_touch r = true)
    (ix : List Nat) : (s.setSes w st).rd r ix = s.rd r ix :=
  (State.setSes_within (.refl _ s) (covers_self _) w st).keeps h ix

@[simp] theorem State.setSes_cip (s : State) (w : Wing) (st : Nat) : (s.setSes w st).cip = s.cip :=
  (State.setSes_within (.refl _ s) (covers_self _) w st).part .cip (by decide +kernel)

/-- R237: a message handed to GCC0 is the last thing that leaves. -/
theorem State.sendGcc_shows (s : State) (w : Wing) (m : GccMsg) : (s.sendGcc w m).out = s.out ++ [.gcc w m] ∧
    (s.sendGcc w m).cip = s.cip ∧ ∀ r ix, (s.sendGcc w m).rd r ix = s.rd r ix := ⟨rfl, rfl, fun _ _ => rfl⟩

theorem State.sendGcc_last (s : State) (w : Wing) (m : GccMsg) : (s.sendGcc w m).out.getLast? = some (.gcc w m) := by
  rw [(s.sendGcc_shows w m).1, List.getLast?_concat]

theorem State.onSes_session (s : State) (w : Wing) (f : Session → Session) :
    (s.onSes w f).cip.sessions.get w = f (s.cip.sessions.get w) := get_set ..

/-- R270: a failed check is kept for its KE_ABORT. -/
theorem State.sesFault_shows (s : State) (w : Wing) (reason : Nat) :
    ((s.sesFault w reason).cip.sessions.get w).fault = reason := by
  rw [State.sesFault, State.setSes_cip, State.onSes_session]

/-! ### The initiator (R270 step 1) -/

theorem State.makeInit_step (s : State) (w : Wing) (session : Nat) :
    ((s.makeInit w session).2.cip.sessions.get w).step = 1 := by
  unfold State.makeInit
  exact congrArg Session.step (State.onSes_session ..)

/-- R270: KE_INIT is sent. -/
theorem State.initSession_shows (s : State) (w : Wing) : (s.initSession w).rd .SEC_SES_STAT_STATE [w.n] = 1 ∧
    ((s.initSession w).cip.sessions.get w).step = 1 ∧
    (s.initSession w).out.getLast? = some (.gcc w (.keInit ((s.rd .SEC_SES_STAT_SESSION [w.n] + 1) % 65536)
      ((s.takeSesCfg w).makeInit w ((s.rd .SEC_SES_STAT_SESSION [w.n] + 1) % 65536)).1)) := by
  have wrote (t : State) (v : Nat) : (t.wr .SEC_SES_STAT_SESSION [w.n] v).cip = t.cip := rfl
  unfold State.initSession
  dsimp only
  refine ⟨?_, ?_, State.sendGcc_last ..⟩
  · rw [(State.sendGcc_shows ..).2.2]
    exact State.setSes_self _ w (by decide)
  · rw [(State.sendGcc_shows ..).2.1, State.setSes_cip, wrote]
    exact State.makeInit_step ..

/-- R270: what an initiator is asked for before it starts. -/
theorem initiate_condition (on : s.sesOn w = true) (initiates : s.initiates w = true) {st : Nat}
    (state : s.rd .SEC_SES_STAT_STATE [w.n] = st) :
    (s.sesOn w && s.initiates w && s.rd .SEC_SES_STAT_STATE [w.n] == st) = true := by
  rw [on, initiates, state, beq_self_eq_true]
  rfl

/-! ### The responder (R270 step 2) -/

theorem State.makeResp_shows (s : State) (w : Wing) (session : Nat) (p : KeMsg) :
    ((s.makeResp w session p).2.cip.sessions.get w).step = 2 ∧
      ((s.makeResp w session p).2.cip.sessions.get w).init = gccBody (.keInit session p) := by
  unfold State.makeResp
  exact ⟨congrArg Session.step (State.onSes_session ..), congrArg Session.init (State.onSes_session ..)⟩

/-- R270: KE_RESP answers a KE_INIT that passes. -/
def State.respond (s : State) (w : Wing) (session : Nat) (p : KeMsg) : State :=
  let m := s.makeResp w session p
  ((m.2.wr .SEC_SES_STAT_SESSION [w.n] session).setSes w 1).sendGcc w (.keResp session m.1)

theorem State.respond_shows (s : State) (w : Wing) (session : Nat) (p : KeMsg) :
    ((s.respond w session p).cip.sessions.get w).step = 2 ∧
      ((s.respond w session p).cip.sessions.get w).init = gccBody (.keInit session p) ∧
      (s.respond w session p).out.getLast? = some (.gcc w (.keResp session (s.makeResp w session p).1)) := by
  have wrote (t : State) (v : Nat) : (t.wr .SEC_SES_STAT_SESSION [w.n] v).cip = t.cip := rfl
  obtain ⟨step, init⟩ := s.makeResp_shows w session p
  have cip : (s.respond w session p).cip = (s.makeResp w session p).2.cip := by
    rw [State.respond, (State.sendGcc_shows ..).2.1, State.setSes_cip, wrote]
  rw [cip]
  exact ⟨step, init, State.sendGcc_last ..⟩

/-- R270: what a KE_INIT from an end with the lower DEV_ID leads to. -/
theorem keInitRx_exec {session : Nat} {p : KeMsg} (on : s.sesOn w = true) (lower : certId p.cert < s.devId) :
    exec (.keInitRx w session p) s =
      .next (if (s.begin.takeSesCfg w).peerReason w p (keBody 0 session p) = 0 then
        (s.begin.takeSesCfg w).respond w session p
      else (s.begin.takeSesCfg w).sesFault w ((s.begin.takeSesCfg w).peerReason w p (keBody 0 session p))) := by
  have answers : ¬ (!s.begin.sesOn w || decide (s.begin.devId ≤ certId p.cert)) = true := by
    have on' : s.begin.sesOn w = true := on
    have lower' : ¬ s.begin.devId ≤ certId p.cert := Nat.not_le.mpr lower
    simp [on', lower']
  rw [exec_keInitRx, execKeInitRx]
  dsimp only
  rw [if_neg answers, ite_not]
  rfl

/-! ### The initiator's KE_FIN (R270 step 3) -/

/-- R270: KE_FIN of an initiator. -/
def State.finish (s : State) (w : Wing) (n : Nat) (ss cert : List Nat) : State :=
  (s.onSes w (fun x => { x with step := 3, newSecret := ss, farId := certId cert })).sendGcc w (.keFin n (roleMac ss true))

theorem State.finish_shows (s : State) (w : Wing) (n : Nat) (ss cert : List Nat) :
    ((s.finish w n ss cert).cip.sessions.get w).step = 3 ∧
      (s.finish w n ss cert).out = s.out ++ [.gcc w (.keFin n (roleMac ss true))] := by
  refine ⟨?_, rfl⟩
  rw [State.finish, (State.sendGcc_shows ..).2.1, State.onSes_session]

theorem keRespRx_exec {p : KeMsg} (goes : s.sesGoes w = true) (step : (s.cip.sessions.get w).step = 1) :
    exec (.keRespRx w p) s =
      .next (if s.begin.peerReason w p (transcript (s.cip.sessions.get w).init
          (keBody 1 (s.rd .SEC_SES_STAT_SESSION [w.n]) p)) = 0 then
        s.begin.finish w (s.rd .SEC_SES_STAT_SESSION [w.n]) (sessionSecret (transcript (s.cip.sessions.get w).init
          (keBody 1 (s.rd .SEC_SES_STAT_SESSION [w.n]) p)) (Config.decapsulate (s.cip.sessions.get w).kem p.kem)) p.cert
      else s.begin.sesFault w (s.begin.peerReason w p (transcript (s.cip.sessions.get w).init
          (keBody 1 (s.rd .SEC_SES_STAT_SESSION [w.n]) p)))) := by
  have answers : ¬ (!s.begin.sesGoes w || (s.begin.cip.sessions.get w).step != 1) = true := by
    have goes' : s.begin.sesGoes w = true := goes
    simp [goes', step]
  rw [exec_keRespRx, execKeRespRx]
  dsimp only
  rw [if_neg answers, ite_not]
  rfl

/-! ### The session comes up (R270 step 4, R271) -/

/-- R271: a derivation leaves the step and the secret of a session. -/
theorem State.derive_session (s : State) (n : Nat) (w : Wing) :
    ((s.derive n).cip.sessions.get w).step = (s.cip.sessions.get w).step ∧
      ((s.derive n).cip.sessions.get w).secret = (s.cip.sessions.get w).secret := by
  have filled (t : State) (key gen session st : Nat) : (t.fillSlot n key gen session st).cip.sessions = t.cip.sessions := by
    rw [State.fillSlot, State.setSlot_cip, (State.slotWrite_within (.refl _ _) (covers_self _) n).part .cip (by decide +kernel)]
    rfl
  have advanced (v : Wing) (g : List (Nat × Nat)) :
      ((s.onSes v (fun x => { x with gens := g })).cip.sessions.get w).step = (s.cip.sessions.get w).step ∧
        ((s.onSes v (fun x => { x with gens := g })).cip.sessions.get w).secret = (s.cip.sessions.get w).secret := by
    cases v <;> cases w <;> exact ⟨rfl, rfl⟩
  unfold State.derive
  dsimp only
  split
  · rw [filled]
    exact advanced ..
  · rw [(State.sendGcc_shows ..).2.1, filled]
    exact advanced ..

theorem State.deriveChan_session (s : State) (ch : Nat) (w : Wing) :
    ((s.deriveChan ch).cip.sessions.get w).step = (s.cip.sessions.get w).step ∧
      ((s.deriveChan ch).cip.sessions.get w).secret = (s.cip.sessions.get w).secret := by
  unfold State.deriveChan
  split
  · refine List.foldlRecOn (motive := fun t : State => (t.cip.sessions.get w).step = (s.cip.sessions.get w).step ∧
      (t.cip.sessions.get w).secret = (s.cip.sessions.get w).secret) _ _ ⟨rfl, rfl⟩ fun t ht k _ => ?_
    split
    · obtain ⟨step, secret⟩ := t.derive_session (4 * ch + k) w
      exact ⟨step.trans ht.1, secret.trans ht.2⟩
    · exact ht
  · exact ⟨rfl, rfl⟩

/-- R270: the session is up, under the secret agreed. -/
theorem State.sessionUp_shows (s : State) (w : Wing) : (s.sessionUp w).rd .SEC_SES_STAT_STATE [w.n] = 2 ∧
    ((s.sessionUp w).cip.sessions.get w).step = 4 ∧
    ((s.sessionUp w).cip.sessions.get w).secret = (s.cip.sessions.get w).newSecret := by
  have wrote (t : State) (v : Nat) : (t.wr .SEC_SES_STAT_REASON [w.n] v).cip = t.cip := rfl
  have step (t : State) : ((t.upTo 32 (fun u c => u.deriveChan (chanIndex w c))).cip.sessions.get w).step =
      (t.cip.sessions.get w).step :=
    State.upTo_keeps (g := fun u : State => (u.cip.sessions.get w).step)
      (fun u c => (u.deriveChan_session (chanIndex w c) w).1) t 32
  have secret (t : State) : ((t.upTo 32 (fun u c => u.deriveChan (chanIndex w c))).cip.sessions.get w).secret =
      (t.cip.sessions.get w).secret :=
    State.upTo_keeps (g := fun u : State => (u.cip.sessions.get w).secret)
      (fun u c => (u.deriveChan_session (chanIndex w c) w).2) t 32
  unfold State.sessionUp
  dsimp only
  refine ⟨?_, ?_, ?_⟩
  · rw [State.rd_upTo fun t c => (State.deriveChan_within (.refl _ t) (covers_self _) _).keeps (by decide +kernel) _]
    exact State.setSes_self _ w (by decide)
  · rw [step, State.setSes_cip, wrote, State.onSes_session]
  · rw [secret, State.setSes_cip, wrote, State.onSes_session]

/-- R270: a good KE_FIN is answered by a responder, and brings the session up; a bad one is a fault. -/
theorem keFinRx_exec {mac : List Nat} (goes : s.sesGoes w = true)
    (step : (s.cip.sessions.get w).step = 2 ∨ (s.cip.sessions.get w).step = 3) :
    exec (.keFinRx w mac) s =
      .next (if mac = roleMac (s.cip.sessions.get w).newSecret (decide ((s.cip.sessions.get w).step = 2)) then
        (s.begin.when ((s.cip.sessions.get w).step == 2) (·.sendGcc w (.keFin (s.rd .SEC_SES_STAT_SESSION [w.n])
          (roleMac (s.cip.sessions.get w).newSecret false)))).sessionUp w
      else s.begin.sesFault w 4) := by
  have waits : ¬ (!s.begin.sesGoes w || (s.begin.cip.sessions.get w).step != 2 &&
      (s.begin.cip.sessions.get w).step != 3) = true := by
    have goes' : s.begin.sesGoes w = true := goes
    obtain h | h := step <;> simp [goes', h]
  rw [exec_keFinRx, execKeFinRx]
  rw [if_neg waits]
  simp only [bne_iff_ne, ite_not]
  rfl

/-! ### Abort and retry (R270) -/

/-- R270: KE_ABORT. -/
def State.abortSes (s : State) (w : Wing) (reason : Nat) : State :=
  (((s.onSes w (fun x => { x with step := 0, fault := 0 })).wr .SEC_SES_STAT_REASON [w.n] reason).setSes w 3).sendGcc w
    (.keAbort (s.rd .SEC_SES_STAT_SESSION [w.n]))

theorem State.abortSes_shows (s : State) (w : Wing) (reason : Nat) :
    (s.abortSes w reason).rd .SEC_SES_STAT_STATE [w.n] = 3 ∧
      (s.abortSes w reason).rd .SEC_SES_STAT_REASON [w.n] = reason % 2 ^ Row.SEC_SES_STAT_REASON.width ∧
      ((s.abortSes w reason).cip.sessions.get w).step = 0 := by
  have wrote (t : State) (v : Nat) : (t.wr .SEC_SES_STAT_REASON [w.n] v).cip = t.cip := rfl
  unfold State.abortSes
  refine ⟨?_, ?_, ?_⟩
  · rw [(State.sendGcc_shows ..).2.2]
    exact State.setSes_self _ w (by decide)
  · rw [(State.sendGcc_shows ..).2.2, State.setSes_rd _ _ _ (by decide +kernel), State.rd_wr_self]
  · rw [(State.sendGcc_shows ..).2.1, State.setSes_cip, wrote, State.onSes_session]

theorem keAbort_exec (runs : s.secRuns = true) (state : s.rd .SEC_SES_STAT_STATE [w.n] = 1) :
    exec (.keAbort w) s = .next (s.begin.abortSes w
      (if (s.cip.sessions.get w).fault = 0 then 5 else (s.cip.sessions.get w).fault)) := by
  have aborts : (s.begin.secRuns && s.begin.rd .SEC_SES_STAT_STATE [w.n] == 1) = true :=
    Bool.and_eq_true_iff.mpr ⟨runs, beq_iff_eq.mpr state⟩
  rw [exec_keAbort, execKeAbort]
  exact congrArg Host.Outcome.next (if_pos aborts)

theorem sessionRetry_exec (runs : s.secRuns = true) (state : s.rd .SEC_SES_STAT_STATE [w.n] = 3) :
    exec (.sessionRetry w) s =
      .next (if s.sesOn w && s.initiates w then s.begin.initSession w else s.begin.setSes w 0) := by
  have retries : ¬ (!s.begin.secRuns || s.begin.rd .SEC_SES_STAT_STATE [w.n] != 3) = true := by
    have runs' : s.begin.secRuns = true := runs
    simp [runs', state]
  rw [exec_sessionRetry, execSessionRetry]
  exact congrArg Host.Outcome.next (if_neg retries)

/-! ### KEY_READY (R271) -/

theorem State.keyReady_self {n session gen : Nat} (pending : s.slotState n = 1) (own : s.rd .CIP_SLOT_STAT_GEN [n] = gen)
    (matching : (s.keySlot n).session = session) : (s.keyReady n session gen).slotState n = 2 := by
  have ready : (s.slotState n = 1 && s.rd .CIP_SLOT_STAT_GEN [n] == gen && (s.keySlot n).session == session) = true := by
    simp [pending, own, matching]
  rw [State.keyReady, if_pos ready]
  exact s.setSlot_self n (by decide)

theorem State.keyReady_ne (s : State) {n k : Nat} (other : n ≠ k) (session gen : Nat) :
    (s.keyReady n session gen).slotState k = s.slotState k := by
  unfold State.keyReady
  split
  · exact s.setSlot_ne 2 other
  · rfl

end

/-- Settles O30: each step of a session is its operation's law above. -/
theorem sessions : Obligations.Sessions := by
  intro s w
  refine ⟨?_, ?_, ?_, ?_, ?_, ?_, ?_, ?_⟩
  · intro on initiates state
    refine ⟨s.begin.initSession w, ?_, s.begin.initSession_shows w⟩
    rw [exec_keInitSend, execKeInitSend]
    exact congrArg Host.Outcome.next (if_pos (initiate_condition (s := s.begin) on initiates state))
  · intro on initiates state
    refine ⟨s.begin.initSession w, ?_, s.begin.initSession_shows w⟩
    rw [exec_sessionLifeExpiry, execSessionLifeExpiry]
    exact congrArg Host.Outcome.next (if_pos (initiate_condition (s := s.begin) on initiates state))
  · intro session p on lower
    refine ⟨_, keInitRx_exec on lower, ?_⟩
    have reason : (s.begin.takeSesCfg w).peerReason w p (keBody 0 session p) =
      (s.takeSesCfg w).peerReason w p (keBody 0 session p) := rfl
    rw [reason]
    by_cases passes : (s.takeSesCfg w).peerReason w p (keBody 0 session p) = 0
    · simp only [passes, if_true]
      exact State.respond_shows ..
    · simp only [passes, if_false]
      exact State.sesFault_shows ..
  · intro p goes step
    refine ⟨_, keRespRx_exec goes step, ?_⟩
    generalize transcript (s.cip.sessions.get w).init (keBody 1 (s.rd .SEC_SES_STAT_SESSION [w.n]) p) = covered
    have reason : s.begin.peerReason w p covered = s.peerReason w p covered := rfl
    rw [reason]
    by_cases passes : s.peerReason w p covered = 0
    · simp only [passes, if_true]
      exact State.finish_shows ..
    · simp only [passes, if_false]
      exact State.sesFault_shows ..
  · intro mac goes step
    refine ⟨_, keFinRx_exec goes step, ?_⟩
    by_cases good : mac = roleMac (s.cip.sessions.get w).newSecret (decide ((s.cip.sessions.get w).step = 2))
    · simp only [if_pos good]
      have answered (b : Bool) (m : GccMsg) : (s.begin.when b (·.sendGcc w m)).cip = s.cip := by cases b <;> rfl
      obtain ⟨state, up, secret⟩ := State.sessionUp_shows (s.begin.when ((s.cip.sessions.get w).step == 2) (·.sendGcc w
        (.keFin (s.rd .SEC_SES_STAT_SESSION [w.n]) (roleMac (s.cip.sessions.get w).newSecret false)))) w
      rw [answered] at secret
      exact ⟨state, up, secret⟩
    · simp only [if_neg good]
      exact State.sesFault_shows ..
  · intro runs state
    exact ⟨_, keAbort_exec runs state, State.abortSes_shows ..⟩
  · intro runs state
    refine ⟨_, sessionRetry_exec runs state, ?_⟩
    cases s.sesOn w && s.initiates w
    · exact s.begin.setSes_self w (by decide)
    · exact (s.begin.initSession_shows w).1
  · intro ch session gen goes pending own matching
    have goes' : s.begin.sesGoes w = true := goes
    refine ⟨_, (exec_keyReadyRx ..).trans (congrArg Host.Outcome.next (if_pos goes')), ?_⟩
    have other : slotOf (chanIndex w ch) 0 1 ≠ slotOf (chanIndex w ch) 0 0 := by simp [slotOf]
    exact (State.keyReady_ne _ other ..).trans (State.keyReady_self (s := s.begin) pending own matching)

end Sys2Proof.Machine
end

section
/-!
Line protection (R245 to R252), and O27.
-/

namespace Sys2Proof.Machine

-- One theorem at a time bounds the memory of the whole text's check.
set_option Elab.async false

section
variable {s : State} {g : Nat}

/-! ### Evaluating the requests again (R248 to R251) -/

theorem State.reselect_rd (s : State) (g : Nat) {r : Row} (h : spares State.reselect_touch r = true) (ix : List Nat) :
    (s.reselect g).rd r ix = s.rd r ix :=
  (State.reselect_within (.refl _ s) (covers_self _) g).keeps h ix

/-- R249: what ends the waits writes only WTR_RUN. -/
theorem State.endWaits_rd (s : State) (g : Nat) {r : Row} (h : spares State.endWaits_touch r = true) (ix : List Nat) :
    (s.endWaits g).rd r ix = s.rd r ix :=
  (State.endWaits_within (.refl _ s) (covers_self _) g).keeps h ix

/-- R247: the selection follows what is wanted, and the requests are shown. -/
def State.followAsks (s : State) (g : Nat) : State :=
  let w := if s.wantProtection g then (s.working g).other else s.working g
  (s.when (!s.halted 3 && s.selected g != w) (·.selectMember g w)).showAsks g

theorem State.followAsks_rd (s : State) (g : Nat) {r : Row}
    (h : (spares State.selectMember_touch r && spares State.showAsks_touch r) = true) (ix : List Nat) :
    (s.followAsks g).rd r ix = s.rd r ix := by
  rw [Bool.and_eq_true] at h
  unfold State.followAsks
  rw [(State.showAsks_within (.refl _ _) (covers_self _) g).keeps h.2]
  exact State.rd_when (f := fun t => t.selectMember g _)
    ((State.selectMember_within (.refl _ s) (covers_self _) g _).keeps h.1 ix) _

theorem State.reselect_of_valid (valid : s.flag .HAL_PG_MEMBERS_VALID [g] = true) :
    s.reselect g = ((s.dropManual g).endWaits g).followAsks g := by
  unfold State.reselect
  rw [valid]
  rfl

theorem State.reselect_of_invalid (invalid : s.flag .HAL_PG_MEMBERS_VALID [g] = false) : s.reselect g = s := by
  unfold State.reselect
  rw [invalid]
  rfl

/-- R249: a wait-to-restore that has ended does not come back. -/
theorem State.reselect_wtr (ended : s.flag .HAL_PG_STAT_WTR_RUN [g] = false) :
    (s.reselect g).flag .HAL_PG_STAT_WTR_RUN [g] = false := by
  have dropped : (s.dropManual g).flag .HAL_PG_STAT_WTR_RUN [g] = false :=
    ((State.dropManual_within (.refl _ s) (covers_self _) g).keepsFlag (by decide +kernel) _).trans ended
  have done : ((s.dropManual g).endWaits g).flag .HAL_PG_STAT_WTR_RUN [g] = false := by
    have waits (c : Bool) : ((s.dropManual g).when c (·.wrb .HAL_PG_STAT_WTR_RUN [g] false)).flag
        .HAL_PG_STAT_WTR_RUN [g] = false := by
      cases c
      · exact dropped
      · exact State.flag_wrb_self _ .HAL_PG_STAT_WTR_RUN [g] false (by decide)
    unfold State.endWaits
    dsimp only
    split <;> exact waits _
  cases valid : s.flag .HAL_PG_MEMBERS_VALID [g]
  · rw [State.reselect_of_invalid valid]
    exact ended
  · rw [State.reselect_of_valid valid, State.flag, State.followAsks_rd _ _ (by decide +kernel)]
    exact done

/-- R248: a command that is no manual switch stays. -/
theorem State.dropManual_of_held (low : s.rd .HAL_PG_STAT_CMD_HELD [g] < 4) : s.dropManual g = s := by
  have stays : ¬ ((s.localAsk g).prio ≤ 6 && decide (4 ≤ s.rd .HAL_PG_STAT_CMD_HELD [g])) = true := by
    simp only [Bool.and_eq_true, decide_eq_true_eq]
    omega
  exact if_neg stays

/-- R248: a manual switch stays while no request of priority 1 to 6 is present. -/
theorem State.dropManual_of_prio (high : 6 < (s.localAsk g).prio) : s.dropManual g = s := by
  have stays : ¬ ((s.localAsk g).prio ≤ 6 && decide (4 ≤ s.rd .HAL_PG_STAT_CMD_HELD [g])) = true := by
    simp only [Bool.and_eq_true, decide_eq_true_eq]
    omega
  exact if_neg stays

theorem State.reselect_held (low : s.rd .HAL_PG_STAT_CMD_HELD [g] < 4) :
    (s.reselect g).rd .HAL_PG_STAT_CMD_HELD [g] = s.rd .HAL_PG_STAT_CMD_HELD [g] := by
  cases valid : s.flag .HAL_PG_MEMBERS_VALID [g]
  · rw [State.reselect_of_invalid valid]
  · rw [State.reselect_of_valid valid, State.followAsks_rd _ _ (by decide +kernel), State.endWaits_rd _ _ (by decide +kernel),
      State.dropManual_of_held low]

/-- R242, R247: the member that the selection takes. -/
theorem State.selectMember_selected (s : State) (g : Nat) (w : Wing) : (s.selectMember g w).selected g = w := by
  have sel : (s.selectMember g w).flag .HAL_PG_STAT_SEL_B [g] = decide (w = .b) := by
    unfold State.selectMember
    dsimp only
    rw [State.flag, State.rd_upTo fun t c => (State.watchClass_within (.refl _ t) (covers_self _) _ _ _).keeps (by decide +kernel) _,
      State.rd_evt_ne _ (by decide), State.rd_countWrap_ne _ (by decide)]
    exact State.flag_wrb_self s .HAL_PG_STAT_SEL_B [g] _ (by decide)
  rw [State.selected, sel]
  cases w <;> rfl

theorem State.followAsks_working (s : State) (g : Nat) : (s.followAsks g).working g = s.working g := by
  rw [State.working, State.flag, State.followAsks_rd _ _ (by decide +kernel)]
  rfl

/-- R251: without bidirectional switching the selection is that of the local request. -/
theorem State.followAsks_selected (alone : s.flag .HAL_PG_CFG_BIDIR [g] = false) (runs : s.halted 3 = false) :
    (s.followAsks g).selected g =
      if (s.localAsk g).protection then ((s.followAsks g).working g).other else (s.followAsks g).working g := by
  have want : s.wantProtection g = (s.localAsk g).protection := by
    unfold State.wantProtection
    rw [alone]
    rfl
  have shown (t : State) : (t.showAsks g).selected g = t.selected g := by
    rw [State.selected, State.selected, State.flag, (State.showAsks_within (.refl _ t) (covers_self _) g).keeps (by decide +kernel)]
    rfl
  rw [State.followAsks_working]
  unfold State.followAsks
  dsimp only
  rw [shown, runs, want]
  generalize (if (s.localAsk g).protection = true then (s.working g).other else s.working g) = w
  cases changes : s.selected g != w
  · exact bne_eq_false_iff_eq.mp changes
  · exact State.selectMember_selected s g w

theorem State.halted_congr {t : State} (stopped : ∀ ix, t.rd .GLB_BLK_CTL_STOPPED ix = s.rd .GLB_BLK_CTL_STOPPED ix)
    (failed : t.rd .RAS_STAT_FAILED_MAP = s.rd .RAS_STAT_FAILED_MAP) (n : Nat) : t.halted n = s.halted n := by
  have islands : t.islandFailed = s.islandFailed := by
    funext i
    rw [State.islandFailed, failed]
    rfl
  rw [State.halted, State.blockStopped, State.flag, stopped, State.blockFailed, islands]
  rfl

/-! ### The local request under a command (R248) -/

theorem State.taken_congr {t : State} (same : ∀ r ∈ [Row.HAL_PG_STAT_HOLD, .HAL_PG_STAT_COND_A, .HAL_PG_STAT_COND_B],
    t.rd r [g] = s.rd r [g]) (w : Wing) : t.taken g w = s.taken g w := by
  unfold State.taken State.holding
  rw [same _ (by simp), same (condRow w) (by cases w <;> simp [condRow])]

/-- R248: no condition of either member asks for anything. -/
def State.calm (s : State) (g : Nat) : Prop := ∀ w, s.taken g w ≠ 1 ∧ s.taken g w ≠ 2

/-- R248: the priority that a condition of a member brings at least. -/
theorem State.localAsk_prio_of_spare (fails : s.taken g (s.working g).other = 2) : (s.localAsk g).prio ≤ 2 := by
  unfold State.localAsk
  dsimp only
  rw [if_pos fails]
  split_ifs <;> decide

theorem State.localAsk_prio_of_working (fails : s.taken g (s.working g) = 2) : (s.localAsk g).prio ≤ 4 := by
  unfold State.localAsk
  dsimp only
  rw [if_pos fails]
  split_ifs <;> decide

theorem State.localAsk_prio_of_spare_degrades (degrades : s.taken g (s.working g).other = 1) :
    (s.localAsk g).prio ≤ 5 := by
  unfold State.localAsk
  dsimp only
  rw [if_pos degrades]
  split_ifs <;> decide

theorem State.localAsk_prio_of_working_degrades (degrades : s.taken g (s.working g) = 1) :
    (s.localAsk g).prio ≤ 6 := by
  unfold State.localAsk
  dsimp only
  rw [if_pos degrades]
  split_ifs <;> decide

theorem State.spare_of_prio (high : 3 < (s.localAsk g).prio) : s.taken g (s.working g).other ≠ 2 := by
  intro fails
  have low := State.localAsk_prio_of_spare fails
  omega

theorem State.calm_of_prio (high : 7 < (s.localAsk g).prio) : s.calm g := by
  have working : s.taken g (s.working g) ≠ 1 ∧ s.taken g (s.working g) ≠ 2 :=
    ⟨fun degrades => by have := State.localAsk_prio_of_working_degrades degrades; omega,
      fun fails => by have := State.localAsk_prio_of_working fails; omega⟩
  have spare : s.taken g (s.working g).other ≠ 1 ∧ s.taken g (s.working g).other ≠ 2 :=
    ⟨fun degrades => by have := State.localAsk_prio_of_spare_degrades degrades; omega,
      State.spare_of_prio (by omega)⟩
  intro w
  have either : w = s.working g ∨ w = (s.working g).other := by
    cases w <;> cases s.working g <;> simp [Wing.other]
  obtain h | h := either <;> rw [h]
  · exact working
  · exact spare

/-- R248: the request of each command, where it outranks the others. -/
theorem State.localAsk_of_lockout (held : s.rd .HAL_PG_STAT_CMD_HELD [g] = 2) : s.localAsk g = ⟨1, 15, false⟩ := by
  unfold State.localAsk
  exact if_pos held

theorem State.localAsk_of_force (held : s.rd .HAL_PG_STAT_CMD_HELD [g] = 3)
    (spare : s.taken g (s.working g).other ≠ 2) : s.localAsk g = ⟨3, 13, true⟩ := by
  unfold State.localAsk
  dsimp only
  rw [held, if_neg (by decide), if_neg spare, if_pos rfl]

theorem State.localAsk_of_manual {v : Nat} (manual : v = 4 ∨ v = 5) (held : s.rd .HAL_PG_STAT_CMD_HELD [g] = v)
    (calm : s.calm g) : s.localAsk g = ⟨7, 7, decide (v = 4)⟩ := by
  have w := calm (s.working g)
  have p := calm (s.working g).other
  unfold State.localAsk
  dsimp only
  rw [held, if_neg p.2, if_neg w.2, if_neg p.1, if_neg w.1]
  obtain rfl | rfl := manual <;> rfl

/-! ### Commands (R248) -/

/-- R248: a command that is held. -/
def State.holdCommand (s : State) (g held : Nat) : State := s.wr .HAL_PG_STAT_CMD_HELD [g] held

theorem State.holdCommand_rd (s : State) (g held : Nat) {r : Row} (h : Row.HAL_PG_STAT_CMD_HELD.id ≠ r.id) (ix : List Nat) :
    (s.holdCommand g held).rd r ix = s.rd r ix := s.rd_wr_ne h ..

theorem State.holdCommand_held (s : State) (g : Nat) {held : Nat} (fits : held < 8) :
    (s.holdCommand g held).rd .HAL_PG_STAT_CMD_HELD [g] = held := by
  rw [State.holdCommand, State.rd_wr_self]
  exact Nat.mod_eq_of_lt fits

theorem State.holdCommand_taken (s : State) (g held : Nat) (w : Wing) : (s.holdCommand g held).taken g w = s.taken g w :=
  State.taken_congr (fun r hr => by
    simp only [List.mem_cons, List.not_mem_nil, or_false] at hr
    obtain rfl | rfl | rfl := hr <;> exact s.holdCommand_rd g held (by decide) _) w

theorem State.holdCommand_working (s : State) (g held : Nat) : (s.holdCommand g held).working g = s.working g := by
  rw [State.working, State.flag, s.holdCommand_rd g held (by decide)]
  rfl

theorem State.endWaits_taken (s : State) (g : Nat) (w : Wing) : (s.endWaits g).taken g w = s.taken g w :=
  State.taken_congr (fun r hr => by
    simp only [List.mem_cons, List.not_mem_nil, or_false] at hr
    obtain rfl | rfl | rfl := hr <;> exact s.endWaits_rd g (by decide +kernel) _) w

theorem State.endWaits_working (s : State) (g : Nat) : (s.endWaits g).working g = s.working g := by
  rw [State.working, State.flag, s.endWaits_rd g (by decide +kernel)]
  rfl

/-- R248: a command in force, the selection it asks for, and what keeps it in force: `ask` is the request it makes in a
state that the end of the waits leaves as it is. -/
theorem State.reselect_command (valid : s.flag .HAL_PG_MEMBERS_VALID [g] = true) {ask : Ask}
    (stays : s.dropManual g = s) (asks : (s.endWaits g).localAsk g = ask) :
    (s.reselect g).rd .HAL_PG_STAT_CMD_HELD [g] = s.rd .HAL_PG_STAT_CMD_HELD [g] ∧
      (s.flag .HAL_PG_CFG_BIDIR [g] = false → s.halted 3 = false → (s.reselect g).selected g =
        if ask.protection then ((s.reselect g).working g).other else (s.reselect g).working g) := by
  rw [State.reselect_of_valid valid, stays]
  refine ⟨?_, fun alone runs => ?_⟩
  · rw [State.followAsks_rd _ _ (by decide +kernel), State.endWaits_rd _ _ (by decide +kernel)]
  · have alone' : (s.endWaits g).flag .HAL_PG_CFG_BIDIR [g] = false := by
      rw [State.flag, State.endWaits_rd _ _ (by decide +kernel)]
      exact alone
    have runs' : (s.endWaits g).halted 3 = false := by
      rw [← runs]
      exact State.halted_congr (fun ix => State.endWaits_rd _ _ (by decide +kernel) ix)
        (State.endWaits_rd _ _ (by decide +kernel) _) 3
    rw [State.followAsks_selected alone' runs', asks]

/-- R248: what a command leads to that outranks the local request, and what one that does not. -/
theorem State.pgCommand_taken (valid : s.flag .HAL_PG_MEMBERS_VALID [g] = true) {held prio : Nat}
    (outranks : prio < (s.localAsk g).prio) : s.pgCommand g held prio = (s.holdCommand g held).reselect g := by
  unfold State.pgCommand
  rw [valid]
  exact if_pos outranks

theorem State.pgCommand_refused (valid : s.flag .HAL_PG_MEMBERS_VALID [g] = true) {held prio : Nat}
    (outranked : ¬ prio < (s.localAsk g).prio) :
    (s.pgCommand g held prio).flag .HAL_PG_STAT_CMD_REFUSED [g] = true := by
  have refused : s.pgCommand g held prio = s.wrb .HAL_PG_STAT_CMD_REFUSED [g] true := by
    unfold State.pgCommand
    rw [valid]
    exact if_neg outranked
  rw [refused]
  exact State.flag_wrb_self s .HAL_PG_STAT_CMD_REFUSED [g] true (by decide)

/-- R248, R251: the effect of a command that is taken, from the request that it makes. -/
theorem State.pgCommand_shows (valid : s.flag .HAL_PG_MEMBERS_VALID [g] = true) {held prio : Nat} (fits : held < 8)
    (outranks : prio < (s.localAsk g).prio) {ask : Ask}
    (stays : (s.holdCommand g held).dropManual g = s.holdCommand g held)
    (asks : ((s.holdCommand g held).endWaits g).localAsk g = ask) :
    (s.pgCommand g held prio).rd .HAL_PG_STAT_CMD_HELD [g] = held ∧
      (s.flag .HAL_PG_CFG_BIDIR [g] = false → s.halted 3 = false → (s.pgCommand g held prio).selected g =
        if ask.protection then ((s.pgCommand g held prio).working g).other else (s.pgCommand g held prio).working g) := by
  have valid' : (s.holdCommand g held).flag .HAL_PG_MEMBERS_VALID [g] = true := by
    rw [State.flag, s.holdCommand_rd g held (by decide)]
    exact valid
  obtain ⟨kept, selected⟩ := State.reselect_command valid' stays asks
  rw [State.pgCommand_taken valid outranks]
  refine ⟨kept.trans (s.holdCommand_held g fits), fun alone runs => selected ?_ ?_⟩
  · rw [State.flag, s.holdCommand_rd g held (by decide)]
    exact alone
  · rw [← runs]
    exact State.halted_congr (fun ix => s.holdCommand_rd g held (by decide) ix) (s.holdCommand_rd g held (by decide) _) 3

theorem State.endWaits_held (s : State) (g : Nat) {held : Nat} (fits : held < 8) :
    ((s.holdCommand g held).endWaits g).rd .HAL_PG_STAT_CMD_HELD [g] = held :=
  (State.endWaits_rd _ _ (by decide +kernel) _).trans (s.holdCommand_held g fits)

theorem State.lockout_shows (valid : s.flag .HAL_PG_MEMBERS_VALID [g] = true) :
    if 1 < (s.localAsk g).prio then (s.pgCommand g 2 1).rd .HAL_PG_STAT_CMD_HELD [g] = 2 ∧
      (s.flag .HAL_PG_CFG_BIDIR [g] = false → s.halted 3 = false →
        (s.pgCommand g 2 1).selected g = (s.pgCommand g 2 1).working g)
    else (s.pgCommand g 2 1).flag .HAL_PG_STAT_CMD_REFUSED [g] = true := by
  split
  next outranks =>
    exact State.pgCommand_shows (ask := ⟨1, 15, false⟩) valid (by decide) outranks
      (State.dropManual_of_held (by rw [s.holdCommand_held g (by decide)]; decide))
      (State.localAsk_of_lockout (s.endWaits_held g (by decide)))
  next outranked => exact State.pgCommand_refused valid outranked

theorem State.force_shows (valid : s.flag .HAL_PG_MEMBERS_VALID [g] = true) :
    if 3 < (s.localAsk g).prio then (s.pgCommand g 3 3).rd .HAL_PG_STAT_CMD_HELD [g] = 3 ∧
      (s.flag .HAL_PG_CFG_BIDIR [g] = false → s.halted 3 = false →
        (s.pgCommand g 3 3).selected g = ((s.pgCommand g 3 3).working g).other)
    else (s.pgCommand g 3 3).flag .HAL_PG_STAT_CMD_REFUSED [g] = true := by
  split
  next outranks =>
    refine State.pgCommand_shows (ask := ⟨3, 13, true⟩) valid (by decide) outranks
      (State.dropManual_of_held (by rw [s.holdCommand_held g (by decide)]; decide))
      (State.localAsk_of_force (s.endWaits_held g (by decide)) ?_)
    rw [State.endWaits_working, State.holdCommand_working, State.endWaits_taken, State.holdCommand_taken]
    exact State.spare_of_prio outranks
  next outranked => exact State.pgCommand_refused valid outranked

theorem State.manual_shows (valid : s.flag .HAL_PG_MEMBERS_VALID [g] = true) {v : Nat} (manual : v = 4 ∨ v = 5) :
    if 7 < (s.localAsk g).prio then (s.pgCommand g v 7).rd .HAL_PG_STAT_CMD_HELD [g] = v ∧
      (s.flag .HAL_PG_CFG_BIDIR [g] = false → s.halted 3 = false → (s.pgCommand g v 7).selected g =
        if decide (v = 4) then ((s.pgCommand g v 7).working g).other else (s.pgCommand g v 7).working g)
    else (s.pgCommand g v 7).flag .HAL_PG_STAT_CMD_REFUSED [g] = true := by
  have fits : v < 8 := by omega
  split
  next outranks =>
    have calm : (s.holdCommand g v).calm g := fun w => by
      rw [State.holdCommand_taken]
      exact State.calm_of_prio outranks w
    have calm' : ((s.holdCommand g v).endWaits g).calm g := fun w => by
      rw [State.endWaits_taken]
      exact calm w
    have asks := State.localAsk_of_manual manual (s.holdCommand_held g fits) calm
    exact State.pgCommand_shows (ask := ⟨7, 7, decide (v = 4)⟩) valid fits outranks
      (State.dropManual_of_prio (by rw [asks]; exact Nat.lt_succ_self 6))
      (State.localAsk_of_manual manual (s.endWaits_held g fits) calm')
  next outranked => exact State.pgCommand_refused valid outranked

/-! ### Conditions (R245, R246) -/

theorem State.reselect_cond (s : State) (g : Nat) (m : Wing) : (s.reselect g).rd (condRow m) [g] = s.rd (condRow m) [g] := by
  cases m <;> exact State.reselect_rd _ _ (by decide +kernel) _

theorem State.reselect_holding (s : State) (g : Nat) (m : Wing) : (s.reselect g).holding g m = s.holding g m := by
  rw [State.holding, State.reselect_rd _ _ (by decide +kernel)]
  rfl

theorem condRow_ne_hold (m : Wing) : (condRow m).id ≠ Row.HAL_PG_STAT_HOLD.id := by cases m <;> decide

theorem State.memberCond_le (s : State) (g : Nat) (m : Wing) : s.memberCond g m ≤ 2 := by
  unfold State.memberCond
  split_ifs <;> decide

theorem State.wr_cond (s : State) (g : Nat) (m : Wing) {c : Nat} (low : c ≤ 2) :
    (s.wr (condRow m) [g] c).rd (condRow m) [g] = c := by
  rw [State.rd_wr_self]
  cases m <;> exact Nat.mod_eq_of_lt (by show c < 4; omega)

theorem holdBit_lt (m : Wing) : holdBit m < Row.HAL_PG_STAT_HOLD.width := by cases m <;> decide

/-- R246: a condition taken stands in its field, and its hold-off is over. -/
theorem State.takeCond_shows (s : State) (g : Nat) (m : Wing) {c : Nat} (low : c ≤ 2) :
    (s.takeCond g m c).rd (condRow m) [g] = c ∧ (s.takeCond g m c).holding g m = false := by
  have restored (t : State) (b : Bool) : (t.when b (·.startRestore g)).rd (condRow m) [g] = t.rd (condRow m) [g] := by
    refine State.rd_when (f := (·.startRestore g)) ?_ b
    cases m <;> exact (State.startRestore_within (.refl _ t) (covers_self _) g).keeps (by decide +kernel) _
  have held (t : State) (b : Bool) : (t.when b (·.startRestore g)).rd .HAL_PG_STAT_HOLD [g] = t.rd .HAL_PG_STAT_HOLD [g] :=
    State.rd_when (f := (·.startRestore g))
      ((State.startRestore_within (.refl _ t) (covers_self _) g).keeps (by decide +kernel) _) b
  unfold State.takeCond
  dsimp only
  rw [State.reselect_cond, State.reselect_holding, restored, State.holding, held]
  refine ⟨?_, ?_⟩
  · rw [State.unbit, State.rd_wr_ne _ (condRow_ne_hold m).symm]
    exact State.wr_cond s g m low
  · exact (State.unbit_testBit _ .HAL_PG_STAT_HOLD [g] (holdBit m) (holdBit_lt m)).trans (if_pos rfl)

/-- R246: a condition that leaves OK is taken, or held first where a hold-off is set. -/
theorem State.condChange_shows {m : Wing} (valid : s.flag .HAL_PG_MEMBERS_VALID [g] = true) (runs : s.halted 3 = false)
    (free : s.holding g m = false) (ok : s.rd (condRow m) [g] = 0) (new : s.memberCond g m ≠ 0) :
    if s.rd .HAL_PG_CFG_HOLDOFF [g] = 0 then (s.condChange g m).rd (condRow m) [g] = s.memberCond g m ∧
        (s.condChange g m).holding g m = false
      else (s.condChange g m).rd (condRow m) [g] = s.memberCond g m ∧ (s.condChange g m).holding g m = true := by
  have low := s.memberCond_le g m
  split
  next none =>
    have taken : s.condChange g m = s.takeCond g m (s.memberCond g m) := by
      unfold State.condChange
      dsimp only
      rw [valid, runs, free, ok, none, if_neg new]
      rfl
    rw [taken]
    exact s.takeCond_shows g m low
  next some =>
    have held : s.condChange g m =
        ((s.wr (condRow m) [g] (s.memberCond g m)).bit .HAL_PG_STAT_HOLD [g] (holdBit m)).reselect g := by
      have some' : (s.rd .HAL_PG_CFG_HOLDOFF [g] != 0) = true := bne_iff_ne.mpr some
      unfold State.condChange
      dsimp only
      rw [valid, runs, free, ok, some', if_neg new]
      rfl
    rw [held, State.reselect_cond, State.reselect_holding]
    refine ⟨?_, ?_⟩
    · rw [State.bit, State.rd_wr_ne _ (condRow_ne_hold m).symm]
      exact State.wr_cond s g m low
    · exact (State.bit_testBit _ .HAL_PG_STAT_HOLD [g] (holdBit m) (holdBit_lt m)).trans (if_pos rfl)

/-! ### Wait-to-restore, CLEAR and the failure of protocol (R248, R249, R252) -/

theorem State.endRestore_wtr (s : State) (g : Nat) :
    ((s.wrb .HAL_PG_STAT_WTR_RUN [g] false).reselect g).flag .HAL_PG_STAT_WTR_RUN [g] = false :=
  State.reselect_wtr (State.flag_wrb_self s .HAL_PG_STAT_WTR_RUN [g] false (by decide))

/-- R248: CLEAR leaves no command and no wait-to-restore. -/
theorem State.clear_shows (s : State) (g : Nat) :
    (((s.wr .HAL_PG_STAT_CMD_HELD [g] 0).wrb .HAL_PG_STAT_WTR_RUN [g] false).reselect g).rd .HAL_PG_STAT_CMD_HELD [g] = 0 ∧
      (((s.wr .HAL_PG_STAT_CMD_HELD [g] 0).wrb .HAL_PG_STAT_WTR_RUN [g] false).reselect g).flag
        .HAL_PG_STAT_WTR_RUN [g] = false := by
  have held : ((s.wr .HAL_PG_STAT_CMD_HELD [g] 0).wrb .HAL_PG_STAT_WTR_RUN [g] false).rd .HAL_PG_STAT_CMD_HELD [g] = 0 := by
    rw [State.rd_wrb_ne _ (by decide), State.rd_wr_self]
    rfl
  exact ⟨(State.reselect_held (by rw [held]; decide)).trans held, State.endRestore_wtr _ g⟩

/-- R252: the failure of protocol is shown, counted and rung. -/
def State.raiseFop (s : State) (g : Nat) : State :=
  (((s.wrb .HAL_PG_STAT_FOP [g] true).countWrap .HAL_PG_CNT_FOP [g]).evt .HAL_PG_EVT_FOP [] g).reselect g

theorem State.raiseFop_shows (s : State) (low : g < 8) : (s.raiseFop g).flag .HAL_PG_STAT_FOP [g] = true ∧
    ((s.raiseFop g).rd .HAL_PG_EVT_FOP).testBit g = true ∧
    (s.raiseFop g).rd .HAL_PG_CNT_FOP [g] = (s.rd .HAL_PG_CNT_FOP [g] + 1) % 65536 := by
  unfold State.raiseFop
  refine ⟨?_, ?_, ?_⟩
  · rw [State.flag, State.reselect_rd _ _ (by decide +kernel), State.rd_evt_ne _ (by decide),
      State.rd_countWrap_ne _ (by decide)]
    exact State.flag_wrb_self s .HAL_PG_STAT_FOP [g] true (by decide)
  · rw [State.reselect_rd _ _ (by decide +kernel)]
    exact State.evt_testBit _ .HAL_PG_EVT_FOP [] low (by decide)
  · rw [State.reselect_rd _ _ (by decide +kernel), State.rd_evt_ne _ (by decide), State.rd_countWrap_self,
      State.rd_wrb_ne _ (by decide)]
    rfl

theorem State.clearFop_shows (s : State) (g : Nat) :
    ((s.wrb .HAL_PG_STAT_FOP [g] false).reselect g).flag .HAL_PG_STAT_FOP [g] = false := by
  rw [State.flag, State.reselect_rd _ _ (by decide +kernel)]
  exact State.flag_wrb_self s .HAL_PG_STAT_FOP [g] false (by decide)

end

/-- Settles O27: each command's effect is its operation's law above. -/
theorem lineProtection : Obligations.LineProtection := by
  intro s g
  refine ⟨?_, ?_, ?_, ?_, ?_, ?_, ?_⟩
  · intro m valid runs free ok new
    exact ⟨_, exec_pgConditionChange .., State.condChange_shows (s := s.begin) valid runs free ok new⟩
  · intro m holding runs
    have ends : (s.begin.holding g m && !s.begin.halted 3) = true :=
      Bool.and_eq_true_iff.mpr ⟨holding, congrArg (! ·) runs⟩
    obtain ⟨cond, free⟩ := s.begin.takeCond_shows g m (s.begin.memberCond_le g m)
    refine ⟨_, ?_, free, cond⟩
    rw [exec_holdoffExpiry, execHoldoffExpiry]
    exact congrArg Host.Outcome.next (if_pos ends)
  · intro waits runs
    have ends : (s.begin.flag .HAL_PG_STAT_WTR_RUN [g] && !s.begin.halted 3) = true :=
      Bool.and_eq_true_iff.mpr ⟨waits, congrArg (! ·) runs⟩
    refine ⟨_, ?_, s.begin.endRestore_wtr g⟩
    rw [exec_wtrExpiry, execWtrExpiry]
    exact congrArg Host.Outcome.next (if_pos ends)
  · intro req taken
    exact answers_via (exec_pgClear ..) taken (s.begin.clear_shows g)
  · intro req taken valid
    exact ⟨answers_via (exec_pgLockout ..) taken (State.lockout_shows (s := s.begin) valid),
      answers_via (exec_pgForce ..) taken (State.force_shows (s := s.begin) valid),
      answers_via (exec_pgManualP ..) taken (State.manual_shows (s := s.begin) valid (.inl rfl)),
      answers_via (exec_pgManualW ..) taken (State.manual_shows (s := s.begin) valid (.inr rfl))⟩
  · intro both cause none runs
    have raises : (s.begin.flag .HAL_PG_CFG_BIDIR [g] && s.begin.fopCause g && !s.begin.flag .HAL_PG_STAT_FOP [g] &&
        !s.begin.halted 3) = true :=
      Bool.and_eq_true_iff.mpr ⟨Bool.and_eq_true_iff.mpr ⟨Bool.and_eq_true_iff.mpr ⟨both, cause⟩,
        congrArg (! ·) none⟩, congrArg (! ·) runs⟩
    refine ⟨_, ?_, s.begin.raiseFop_shows g.isLt⟩
    rw [exec_fopRaise, execFopRaise]
    exact congrArg Host.Outcome.next (if_pos raises)
  · intro raised gone runs
    have clears : (s.begin.flag .HAL_PG_STAT_FOP [g] && (!s.begin.fopCause g || !s.begin.flag .HAL_PG_CFG_BIDIR [g]) &&
        !s.begin.halted 3) = true :=
      Bool.and_eq_true_iff.mpr ⟨Bool.and_eq_true_iff.mpr ⟨raised, Bool.or_eq_true_iff.mpr (.inl (congrArg (! ·) gone))⟩,
        congrArg (! ·) runs⟩
    refine ⟨_, ?_, s.begin.clearFop_shows g⟩
    rw [exec_fopClear, execFopClear]
    exact congrArg Host.Outcome.next (if_pos clears)

end Sys2Proof.Machine
end

section
/-!
Heartbeats, corridor ports and rings (R412 to R414), and O47.
-/

namespace Sys2Proof.Machine

-- One theorem at a time bounds the memory of the whole text's check.
set_option Elab.async false

section
variable {s : State}

/-! ### Cells and routes (R414) -/

theorem State.sendCell_cor (s : State) (dest : Nat) (c : CellBody) : (s.sendCell dest c).cor = s.cor :=
  (State.sendCell_within (.refl _ s) (covers_self _) dest c).part .cor (by decide +kernel)

theorem State.sendCell_rd (s : State) (dest : Nat) (c : CellBody) (r : Row) (ix : List Nat) :
    (s.sendCell dest c).rd r ix = s.rd r ix := s.sayCell_rd ..

/-- R412: a report of a port leaves the module's own record alone. -/
theorem State.reportPort_shows (s : State) (p : Nat) (up : Bool) : (s.reportPort p up).cor = s.cor ∧
    ∀ r ix, (s.reportPort p up).rd r ix = s.rd r ix := by
  unfold State.reportPort
  cases (!s.isManager && s.flag .COR_STAT_UP_VALID && !s.halted 5)
  · exact ⟨rfl, fun _ _ => rfl⟩
  · exact ⟨s.sendCell_cor .., s.sendCell_rd _ _⟩

theorem State.setCut_rd (s : State) (c : Option Nat) {r : Row} (h : spares State.setCut_touch r = true) (ix : List Nat) :
    (s.setCut c).rd r ix = s.rd r ix :=
  (State.setCut_within (.refl _ s) (covers_self _) c).keeps h ix

/-- R414: the break that the routes go by. -/
theorem State.setCut_cor (s : State) (c : Option Nat) : (s.setCut c).cor = { s.cor with cut := c } := by
  unfold State.setCut
  split
  next same =>
    rw [← same]
  next =>
    rw [State.evt_cor]
    rfl

/-- R414: a change of the break rings, and shows on the ring's first port. -/
theorem State.setCut_shows (s : State) {c : Option Nat} (change : s.cor.cut ≠ c) :
    (s.setCut c).flag .COR_EVT_WRAP = true ∧
      (s.setCut c).flag .COR_PORT_STAT_WRAPPED [s.cor.ringPorts.headD 0] = c.isSome := by
  have wraps : s.setCut c = ((s.onCor (fun x => { x with cut := c })).wrb .COR_PORT_STAT_WRAPPED
      [s.cor.ringPorts.headD 0] c.isSome).evt .COR_EVT_WRAP := if_neg change
  rw [wraps]
  refine ⟨State.flag_evt_self _ _ _ rfl (by decide), ?_⟩
  rw [State.flag_evt_ne _ (by decide)]
  exact State.flag_wrb_self _ .COR_PORT_STAT_WRAPPED _ _ (by decide)

/-! ### Heartbeats (R412) -/

/-- R412: what each port adds to what leaves. -/
def State.beatOf (s : State) (p : Nat) : List Out :=
  if s.corLanesUp p && !s.corPatterned p then [.heartbeat p (s.qlCorridor p)] else []

theorem State.heartbeats_out (s : State) : s.heartbeats.out = s.out ++ (List.range 4).flatMap s.beatOf := by
  have step (t : State) (same : ∃ l, t = { s with out := l }) (p : Nat) :
      t.when (t.corLanesUp p && !t.corPatterned p) (·.say (.heartbeat p (t.qlCorridor p))) =
        { s with out := t.out ++ s.beatOf p } := by
    obtain ⟨l, rfl⟩ := same
    have up : ({ s with out := l } : State).corLanesUp p = s.corLanesUp p := rfl
    have plain : ({ s with out := l } : State).corPatterned p = s.corPatterned p := rfl
    have quality : ({ s with out := l } : State).qlCorridor p = s.qlCorridor p := rfl
    unfold State.beatOf
    rw [up, plain, quality]
    cases s.corLanesUp p && !s.corPatterned p
    · exact congrArg (fun o => ({ s with out := o } : State)) (List.append_nil l).symm
    · rfl
  have run : ∀ n, s.upTo n (fun t p => t.when (t.corLanesUp p && !t.corPatterned p)
      (·.say (.heartbeat p (t.qlCorridor p)))) = { s with out := s.out ++ (List.range n).flatMap s.beatOf } := by
    intro n
    induction n with
    | zero => rw [List.range_zero, List.flatMap_nil, List.append_nil]; rfl
    | succ n ih =>
      have next : ∀ f : State → Nat → State, s.upTo (n + 1) f = f (s.upTo n f) n := fun f => by
        simp [State.upTo, List.range_succ]
      rw [next, step _ ⟨_, ih⟩, ih]
      simp only [List.range_succ, List.flatMap_append, List.flatMap_singleton, List.append_assoc]
  exact congrArg State.out (run 4)

/-- R412: where one port's lanes are up, its heartbeat is all that leaves. -/
theorem State.heartbeats_single {p : Nat} (single : (List.range 4).filter s.corLanesUp = [p]) :
    (List.range 4).flatMap s.beatOf = if s.corPatterned p then [] else [.heartbeat p (s.qlCorridor p)] := by
  have each : ∀ l : List Nat, l.flatMap s.beatOf = (l.filter s.corLanesUp).flatMap
      (fun q => if s.corPatterned q then [] else [.heartbeat q (s.qlCorridor q)]) := by
    intro l
    induction l with
    | nil => rfl
    | cons q l ih =>
      rw [List.flatMap_cons, ih, List.filter_cons]
      unfold State.beatOf
      cases s.corLanesUp q
      · simp
      · cases plain : s.corPatterned q <;> simp [plain]
  rw [each, single, List.flatMap_singleton]

/-! ### Ports (R412, R413) -/

/-- R412: a port that has come up, as the manager's part of it finds it. -/
def State.portRaised (s : State) (p : Nat) : State :=
  (((s.wrb .COR_PORT_STAT_UP [p] true).evt .COR_EVT_LINK_CHANGE).reportPort p true).onCor (fun x => { x with everUp := true })

/-- R413, R414: what a manager does about a port that has come up. -/
def State.portNoted (s : State) (p : Nat) (first : Bool) : State :=
  (s.when first State.beginEnum).when (s.cor.cut == some 0 && s.cor.ringPorts.headD 4 == p) (·.setCut none)

theorem State.portNoted_rd (s : State) (p : Nat) (first : Bool) {r : Row}
    (h : (spares State.beginEnum_touch r && spares State.setCut_touch r) = true) (ix : List Nat) :
    (s.portNoted p first).rd r ix = s.rd r ix := by
  rw [Bool.and_eq_true] at h
  unfold State.portNoted
  rw [State.rd_when (f := (·.setCut none)) (State.setCut_rd _ _ h.2 ix),
    State.rd_when ((State.beginEnum_within (.refl _ s) (covers_self _)).keeps h.1 ix)]

theorem State.portNoted_beatQl (s : State) (p : Nat) (first : Bool) :
    (s.portNoted p first).cor.beatQl = s.cor.beatQl := by
  have begun : (s.when first State.beginEnum).cor = s.cor := by cases first <;> rfl
  unfold State.portNoted
  cases (s.cor.cut == some 0 && s.cor.ringPorts.headD 4 == p)
  · exact congrArg Corridor.beatQl begun
  · rw [State.when_true, State.setCut_cor, begun]

theorem State.portNoted_first (s : State) (p : Nat) : (s.portNoted p true).flag .COR_STAT_ENUMERATING = true := by
  unfold State.portNoted
  rw [State.flag, State.rd_when (f := (·.setCut none)) (State.setCut_rd _ _ (by decide +kernel) _)]
  exact State.flag_wrb_self s .COR_STAT_ENUMERATING [] true (by decide)

theorem State.portRaised_shows (s : State) (p : Nat) : (s.portRaised p).flag .COR_PORT_STAT_UP [p] = true ∧
    (s.portRaised p).flag .COR_EVT_LINK_CHANGE = true ∧ (s.portRaised p).cor = { s.cor with everUp := true } := by
  have moved (t : State) (f : Corridor → Corridor) (r : Row) (ix : List Nat) : (t.onCor f).rd r ix = t.rd r ix := rfl
  have told (t : State) (f : Corridor → Corridor) : (t.onCor f).cor = f t.cor := rfl
  have wrote (t : State) (r : Row) (ix : List Nat) (b : Bool) : (t.wrb r ix b).cor = t.cor := rfl
  unfold State.portRaised
  refine ⟨?_, ?_, ?_⟩
  · rw [State.flag, moved, (State.reportPort_shows ..).2, State.rd_evt_ne _ (by decide)]
    exact State.flag_wrb_self s .COR_PORT_STAT_UP [p] true (by decide)
  · rw [State.flag, moved, (State.reportPort_shows ..).2]
    exact State.flag_evt_self _ .COR_EVT_LINK_CHANGE _ rfl (by decide)
  · rw [told, (State.reportPort_shows ..).1, State.evt_cor, wrote]

theorem State.portRaised_isManager (s : State) (p : Nat) : (s.portRaised p).isManager = s.isManager := by
  have moved (t : State) (f : Corridor → Corridor) (r : Row) (ix : List Nat) : (t.onCor f).rd r ix = t.rd r ix := rfl
  unfold State.isManager State.portRaised
  rw [State.flag, moved, (State.reportPort_shows ..).2, State.rd_evt_ne _ (by decide), State.rd_wrb_ne _ (by decide)]
  rfl

theorem State.portUp_eq (s : State) (p : Nat) :
    s.portUp p = (s.portRaised p).when s.isManager (·.portNoted p (!s.cor.everUp)) := by
  have ever : (((s.wrb .COR_PORT_STAT_UP [p] true).evt .COR_EVT_LINK_CHANGE).reportPort p true).cor.everUp =
      s.cor.everUp := by
    rw [(State.reportPort_shows ..).1, State.evt_cor]
    rfl
  unfold State.portUp
  dsimp only
  rw [ever]
  exact congrArg (fun m => State.when (s.portRaised p) m (·.portNoted p (!s.cor.everUp))) (s.portRaised_isManager p)

/-- R412, R413: a port that comes up; on a manager the first one starts an enumeration. -/
theorem State.portUp_shows (s : State) (p : Nat) : (s.portUp p).flag .COR_PORT_STAT_UP [p] = true ∧
    (s.portUp p).flag .COR_EVT_LINK_CHANGE = true ∧ (s.portUp p).cor.beatQl = s.cor.beatQl ∧
    (s.isManager = true → s.cor.everUp = false → (s.portUp p).flag .COR_STAT_ENUMERATING = true) := by
  obtain ⟨up, rung, cor⟩ := s.portRaised_shows p
  have noted {r : Row} (h : (spares State.beginEnum_touch r && spares State.setCut_touch r) = true) (ix : List Nat) :
      (s.portUp p).rd r ix = (s.portRaised p).rd r ix := by
    rw [State.portUp_eq]
    exact State.rd_when (f := (·.portNoted p (!s.cor.everUp))) (State.portNoted_rd _ _ _ h ix) _
  refine ⟨?_, ?_, ?_, fun manager first => ?_⟩
  · rw [State.flag, noted (by decide +kernel)]
    exact up
  · rw [State.flag, noted (by decide +kernel)]
    exact rung
  · rw [State.portUp_eq]
    have raised : (s.portRaised p).cor.beatQl = s.cor.beatQl := by rw [cor]
    cases s.isManager
    · exact raised
    · exact (State.portNoted_beatQl ..).trans raised
  · rw [State.portUp_eq, manager, first]
    exact State.portNoted_first _ p

/-- R412: a heartbeat is counted, with the QL it carries. -/
def State.takeBeat (s : State) (p ql : Nat) : State :=
  s.onCor (fun x => { x with
    beats := tabSet 0 x.beats p (min 4 (tabGet 0 s.cor.beats p + 1)), beatQl := tabSet 15 x.beatQl p ql })

theorem State.beat_eq (s : State) (p ql : Nat) : s.beat p ql =
    ((s.takeBeat p ql).when (decide (4 ≤ tabGet 0 s.cor.beats p + 1) && !s.flag .COR_PORT_STAT_UP [p])
      (·.portUp p)).checkCands := rfl

theorem State.checkCands_cor (s : State) : s.checkCands.cor = s.cor :=
  (State.checkCands_within (.refl _ s) (covers_self _)).part .cor (by decide +kernel)

/-- R412: the fourth heartbeat in succession brings the port up. -/
theorem State.beat_fourth {p ql : Nat} (three : tabGet 0 s.cor.beats p = 3)
    (down : s.flag .COR_PORT_STAT_UP [p] = false) : (s.beat p ql).flag .COR_PORT_STAT_UP [p] = true ∧
      (s.beat p ql).flag .COR_EVT_LINK_CHANGE = true ∧ tabGet 15 (s.beat p ql).cor.beatQl p = ql ∧
      (s.isManager = true → s.cor.everUp = false → (s.beat p ql).flag .COR_STAT_ENUMERATING = true) := by
  have raises : s.beat p ql = ((s.takeBeat p ql).portUp p).checkCands := by
    rw [State.beat_eq, three, down]
    rfl
  obtain ⟨up, rung, heard, enumerates⟩ := (s.takeBeat p ql).portUp_shows p
  rw [raises, State.checkCands_cor, heard, State.flag, State.checkCands_rd _ (by decide +kernel), State.flag,
    State.checkCands_rd _ (by decide +kernel), State.flag, State.checkCands_rd _ (by decide +kernel)]
  exact ⟨up, rung, tabGet_set_self .., enumerates⟩

/-- R412: an earlier one is only counted. -/
theorem State.beat_early {p ql : Nat} (early : tabGet 0 s.cor.beats p < 3) :
    tabGet 0 (s.beat p ql).cor.beats p = tabGet 0 s.cor.beats p + 1 ∧
      (s.beat p ql).flag .COR_PORT_STAT_UP [p] = s.flag .COR_PORT_STAT_UP [p] := by
  have waits : s.beat p ql = (s.takeBeat p ql).checkCands := by
    have few : decide (4 ≤ tabGet 0 s.cor.beats p + 1) = false := decide_eq_false (by omega)
    rw [State.beat_eq, few]
    rfl
  have counted : tabGet 0 (s.takeBeat p ql).cor.beats p = min 4 (tabGet 0 s.cor.beats p + 1) := tabGet_set_self ..
  rw [waits, State.checkCands_cor, counted, State.flag, State.checkCands_rd _ (by decide +kernel)]
  exact ⟨by omega, rfl⟩

/-- R412: a port that has gone down, as the manager's part of it finds it. -/
def State.portLowered (s : State) (p : Nat) : State :=
  (((((s.onCor (fun x => { x with beats := tabErase x.beats p })).wrb .COR_PORT_STAT_UP [p] false).countWrap
    .COR_PORT_STAT_DOWN_CNT [p]).evt .COR_EVT_LINK_CHANGE).reportPort p false).checkCands

theorem State.portLowered_shows (s : State) (p : Nat) : (s.portLowered p).flag .COR_PORT_STAT_UP [p] = false ∧
    (s.portLowered p).flag .COR_EVT_LINK_CHANGE = true ∧ tabGet 0 (s.portLowered p).cor.beats p = 0 ∧
    (s.portLowered p).rd .COR_PORT_STAT_DOWN_CNT [p] =
      (s.rd .COR_PORT_STAT_DOWN_CNT [p] + 1) % 2 ^ Row.COR_PORT_STAT_DOWN_CNT.width := by
  have moved (t : State) (f : Corridor → Corridor) (r : Row) (ix : List Nat) : (t.onCor f).rd r ix = t.rd r ix := rfl
  have told (t : State) (f : Corridor → Corridor) : (t.onCor f).cor = f t.cor := rfl
  have wrote (t : State) (r : Row) (ix : List Nat) (b : Bool) : (t.wrb r ix b).cor = t.cor := rfl
  have counted (t : State) : (t.countWrap .COR_PORT_STAT_DOWN_CNT [p]).cor = t.cor :=
    t.countWrap_same .COR_PORT_STAT_DOWN_CNT [p] 1 (p := .cor) (by decide)
  unfold State.portLowered
  refine ⟨?_, ?_, ?_, ?_⟩
  · rw [State.flag, State.checkCands_rd _ (by decide +kernel), (State.reportPort_shows ..).2,
      State.rd_evt_ne _ (by decide), State.rd_countWrap_ne _ (by decide)]
    exact State.flag_wrb_self _ .COR_PORT_STAT_UP [p] false (by decide)
  · rw [State.flag, State.checkCands_rd _ (by decide +kernel), (State.reportPort_shows ..).2]
    exact State.flag_evt_self _ .COR_EVT_LINK_CHANGE _ rfl (by decide)
  · rw [State.checkCands_cor, (State.reportPort_shows ..).1, State.evt_cor, counted, wrote, told]
    exact tabGet_erase_self ..
  · rw [State.checkCands_rd _ (by decide +kernel), (State.reportPort_shows ..).2, State.rd_evt_ne _ (by decide),
      State.rd_countWrap_self, State.rd_wrb_ne _ (by decide), moved]

theorem State.breakRing_rd (s : State) (k : Nat) {r : Row} (h : spares State.breakRing_touch r = true) (ix : List Nat) :
    (s.breakRing k).rd r ix = s.rd r ix :=
  (State.breakRing_within (.refl _ s) (covers_self _) k).keeps h ix

theorem State.breakRing_beats (s : State) (k : Nat) : (s.breakRing k).cor.beats = s.cor.beats := by
  unfold State.breakRing
  cases (decide (k < s.cor.ring.length) && s.cor.ringPorts.length == 2)
  · rfl
  · rw [State.when_true, State.setCut_cor]

/-- R412: a port that goes down. -/
theorem State.portDown_shows {p : Nat} (up : s.flag .COR_PORT_STAT_UP [p] = true) :
    (s.portDown p).flag .COR_PORT_STAT_UP [p] = false ∧ (s.portDown p).flag .COR_EVT_LINK_CHANGE = true ∧
      tabGet 0 (s.portDown p).cor.beats p = 0 ∧ (s.portDown p).rd .COR_PORT_STAT_DOWN_CNT [p] =
        (s.rd .COR_PORT_STAT_DOWN_CNT [p] + 1) % 2 ^ Row.COR_PORT_STAT_DOWN_CNT.width := by
  have up' : (s.onCor (fun x => { x with beats := tabErase x.beats p })).flag .COR_PORT_STAT_UP [p] = true := up
  obtain ⟨down, rung, none, count⟩ := s.portLowered_shows p
  have lowers : ∃ b, s.portDown p = (s.portLowered p).when b (·.breakRing 0) := by
    unfold State.portDown
    dsimp only
    rw [up']
    exact ⟨_, rfl⟩
  obtain ⟨b, lowers⟩ := lowers
  have kept {r : Row} (h : spares State.breakRing_touch r = true) (ix : List Nat) :
      (s.portDown p).rd r ix = (s.portLowered p).rd r ix := by
    rw [lowers]
    exact State.rd_when (f := (·.breakRing 0)) (State.breakRing_rd _ _ h ix) b
  have beats : (s.portDown p).cor.beats = (s.portLowered p).cor.beats := by
    rw [lowers]
    cases b
    · rfl
    · exact State.breakRing_beats ..
  rw [State.flag, kept (by decide +kernel), State.flag, kept (by decide +kernel), beats, kept (by decide +kernel)]
  exact ⟨down, rung, none, count⟩

/-! ### Enumeration and rings (R413, R414) -/

/-- R413: a worker takes its address. -/
def State.takeAddr (s : State) (addr port : Nat) (serves : List (Option (Nat × Nat))) : State :=
  ((((s.onCor (fun x => { x with serves := serves })).wr .COR_STAT_ADDR [] addr).wr .COR_STAT_UP_PORT [] port).wrb
    .COR_STAT_UP_VALID [] true).checkCands

theorem State.takeAddr_shows (s : State) (addr : Nat) {port : Nat} (own : port < 4) (serves : List (Option (Nat × Nat))) :
    (s.takeAddr addr port serves).rd .COR_STAT_ADDR = addr % 2 ^ Row.COR_STAT_ADDR.width ∧
      (s.takeAddr addr port serves).rd .COR_STAT_UP_PORT = port ∧
      (s.takeAddr addr port serves).flag .COR_STAT_UP_VALID = true ∧ (s.takeAddr addr port serves).cor.serves = serves := by
  unfold State.takeAddr
  refine ⟨?_, ?_, ?_, ?_⟩
  · rw [State.checkCands_rd _ (by decide +kernel), State.rd_wrb_ne _ (by decide), State.rd_wr_ne _ (by decide),
      State.rd_wr_self]
  · rw [State.checkCands_rd _ (by decide +kernel), State.rd_wrb_ne _ (by decide), State.rd_wr_self]
    exact Nat.mod_eq_of_lt own
  · rw [State.flag, State.checkCands_rd _ (by decide +kernel)]
    exact State.flag_wrb_self _ .COR_STAT_UP_VALID [] true (by decide)
  · rw [State.checkCands_cor]
    rfl

/-- R414: a break behind the ring's first `k` workers. -/
theorem State.breakRing_shows {k : Nat} (within : k < s.cor.ring.length) (ring : s.cor.ringPorts.length = 2)
    (whole : s.cor.cut = none) : (s.breakRing k).cor.cut = some k ∧
      (s.breakRing k).flag .COR_PORT_STAT_WRAPPED [s.cor.ringPorts.headD 0] = true := by
  have breaks : s.breakRing k = s.setCut (some k) := by
    rw [State.breakRing, decide_eq_true within, ring]
    rfl
  have change : s.cor.cut ≠ some k := by
    rw [whole]
    exact (fun no => nomatch no)
  rw [breaks, State.setCut_cor]
  exact ⟨rfl, (s.setCut_shows change).2⟩

/-- R413: a LINK cell reaches a running manager. -/
theorem corLinkRx_exec (worker : Nat) (port : Fin 4) (up restored : Bool) (manager : s.isManager = true)
    (runs : s.corRuns = true) :
    exec (.corLinkRx worker port up restored) s = .next (s.begin.linkCell worker port up restored) := by
  have reached : (s.begin.isManager && s.begin.corRuns) = true := Bool.and_eq_true_iff.mpr ⟨manager, runs⟩
  rw [exec_corLinkRx, execCorLinkRx]
  exact congrArg Host.Outcome.next (if_pos reached)

theorem corHeartbeatRx_exec (port : Fin 4) (ql : Fin 16) (runs : s.corRuns = true) (up : s.corLanesUp port = true) :
    exec (.corHeartbeatRx port ql) s = .next (s.begin.beat port ql) := by
  have heard : (s.begin.corRuns && s.begin.corLanesUp port) = true := Bool.and_eq_true_iff.mpr ⟨runs, up⟩
  rw [exec_corHeartbeatRx, execCorHeartbeatRx]
  exact congrArg Host.Outcome.next (if_pos heard)

end

/-- Settles O47: each command's effect is its operation's law above. -/
theorem corridorPorts : Obligations.CorridorPorts := by
  intro s
  refine ⟨?_, ?_, ?_, ?_, ?_, ?_, ?_, ?_⟩
  · intro p runs single
    have runs' : s.begin.corRuns = true := runs
    refine ⟨s.begin.heartbeats, ?_, ?_⟩
    · rw [exec_heartbeatTx, execHeartbeatTx]
      exact congrArg Host.Outcome.next (if_pos runs')
    · exact s.begin.heartbeats_out.trans (State.heartbeats_single (s := s.begin) single)
  · intro port ql runs up three down
    exact ⟨_, corHeartbeatRx_exec port ql runs up, State.beat_fourth (s := s.begin) three down⟩
  · intro port ql runs up early
    exact ⟨_, corHeartbeatRx_exec port ql runs up, State.beat_early (s := s.begin) early⟩
  · intro port up
    exact ⟨_, exec_corridorPortDown .., State.portDown_shows (s := s.begin) up⟩
  · intro addr port serves worker runs
    have reached : (!s.begin.isManager && s.begin.corRuns) = true :=
      Bool.and_eq_true_iff.mpr ⟨congrArg (! ·) worker, runs⟩
    refine ⟨_, ?_, s.begin.takeAddr_shows addr port.isLt serves⟩
    rw [exec_corEnumRx, execCorEnumRx]
    exact congrArg Host.Outcome.next (if_pos reached)
  · intro worker port manager runs
    exact ⟨_, corLinkRx_exec worker port true false manager runs,
      State.flag_wrb_self s.begin .COR_STAT_ENUMERATING [] true (by decide)⟩
  · intro worker port manager runs
    refine ⟨_, corLinkRx_exec worker port true true manager runs, ?_, fun broken => ?_⟩
    · exact congrArg Corridor.cut (s.begin.setCut_cor none)
    · exact (s.begin.setCut_shows broken).1
  · intro worker port restored manager runs whole placed within ring
    refine ⟨s.begin.breakRing (s.cor.breakAt worker port), ?_, State.breakRing_shows (s := s.begin) within ring whole⟩
    have placed' : decide (0 < s.begin.cor.place worker) = true := decide_eq_true placed
    rw [corLinkRx_exec worker port false restored manager runs, State.linkCell, placed']
    rfl

end Sys2Proof.Machine
end

section
/-!
Windows, forwarded doorbells and the requests to workers (R413 to R418, R423), and O48.
-/

namespace Sys2Proof.Machine

-- One theorem at a time bounds the memory of the whole text's check.
set_option Elab.async false

section
variable {s : State}

/-! ### Enumeration (R413) -/

theorem State.sendEnums_shows (s : State) (nodes : List (Nat × Node)) : (s.sendEnums nodes).cor = s.cor ∧
    ∀ r ix, (s.sendEnums nodes).rd r ix = s.rd r ix := by
  unfold State.sendEnums
  refine List.foldlRecOn (motive := fun t : State => t.cor = s.cor ∧ ∀ r ix, t.rd r ix = s.rd r ix) _ _
    ⟨rfl, fun _ _ => rfl⟩ fun t ht e _ => ?_
  exact ⟨(t.sendCell_cor ..).trans ht.1, fun r ix => (t.sendCell_rd ..).trans (ht.2 r ix)⟩

/-- R413: the ring ports shown by an enumeration. -/
def State.showRing (s : State) (w : Walk) : State :=
  s.upTo 4 (fun s p => (s.wrb .COR_PORT_STAT_RING_PORT [p]
    (w.ringOf.2.contains p || w.closed.any (fun c => c.1 == 0 && c.2.1 == p))).wrb .COR_PORT_STAT_WRAPPED [p] false)

theorem State.showRing_cor (s : State) (w : Walk) : (s.showRing w).cor = s.cor :=
  State.upTo_keeps (g := State.cor) (fun _ _ => rfl) s 4

/-- R413, R418: the workers found are counted, and the enumeration is over. -/
theorem State.enumerated_shows (s : State) (w : Walk) : (s.enumerated w).cor.nodes = w.nodes ∧
    (s.enumerated w).rd .COR_TOPO_WORKERS = w.nodes.length % 2 ^ Row.COR_TOPO_WORKERS.width ∧
    (s.enumerated w).flag .COR_STAT_ENUMERATING = false ∧ (s.enumerated w).flag .COR_EVT_ENUM_DONE = true ∧
    (s.enumerated w).cor.cut = none ∧ (s.enumerated w).cor.ring = w.ringOf.1 := by
  have moved (t : State) (r : Row) (ix : List Nat) (v : Nat) : (t.wr r ix v).cor = t.cor := rfl
  have marked (t : State) (r : Row) (ix : List Nat) (b : Bool) : (t.wrb r ix b).cor = t.cor := rfl
  have cor : (s.enumerated w).cor =
      { s.cor with nodes := w.nodes, ring := w.ringOf.1, ringPorts := w.ringOf.2, cut := none } := by
    unfold State.enumerated
    dsimp only
    rw [State.evt_cor, (State.sendEnums_shows ..).1, marked, marked, moved, moved]
    exact State.showRing_cor _ w
  rw [cor]
  refine ⟨rfl, ?_, ?_, ?_, rfl, rfl⟩
  · unfold State.enumerated
    dsimp only
    rw [State.rd_evt_ne _ (by decide), (State.sendEnums_shows ..).2, State.rd_wrb_ne _ (by decide),
      State.rd_wrb_ne _ (by decide), State.rd_wr_ne _ (by decide), State.rd_wr_self]
  · unfold State.enumerated
    dsimp only
    rw [State.flag, State.rd_evt_ne _ (by decide), (State.sendEnums_shows ..).2]
    exact State.flag_wrb_self _ .COR_STAT_ENUMERATING [] false (by decide)
  · unfold State.enumerated
    exact State.flag_evt_self _ .COR_EVT_ENUM_DONE [] rfl (by decide)

/-! ### Windows (R415, R423) -/

/-- R415: what an access carries in its cell. -/
def requestBody (id addr : Nat) : Option Nat → CellBody
  | some v => .write id addr v
  | none => .read id addr

/-- R415: the request of an access. -/
def State.newRequest (s : State) (w addr : Nat) (data : Option Nat) : Request :=
  ⟨s.cor.nextId, w, addr, data.isNone, false, s.uptime * 1000 + 2000 + 320 * s.hopsTo (s.rd .COR_WIN_CFG_WORKER [w]), false⟩

/-- R415: the request is noted. -/
def State.noteRequest (s : State) (w addr : Nat) (data : Option Nat) : State :=
  s.onCor (fun x => { x with requests := x.requests ++ [s.newRequest w addr data], nextId := s.cor.nextId + 1 })

theorem State.sendRequest_eq (s : State) (w addr : Nat) (data : Option Nat) : s.sendRequest w addr data =
    (s.noteRequest w addr data).when (s.corRuns && (tabFind s.cor.nodes (s.rd .COR_WIN_CFG_WORKER [w])).isSome)
      (·.sendCell (s.rd .COR_WIN_CFG_WORKER [w]) (requestBody s.cor.nextId addr data)) := by
  cases data <;> rfl

/-- R414, R415: the cell of a request of a manager leaves by the port of the present route. -/
theorem State.sendRequest_shows {w addr x : Nat} {data : Option Nat} (manager : s.isManager = true)
    (runs : s.corRuns = true) (maps : s.rd .COR_WIN_CFG_WORKER [w] = x) (known : (tabFind s.cor.nodes x).isSome = true) :
    (s.sendRequest w addr data).cor.requests = s.cor.requests ++ [⟨s.cor.nextId, w, addr, data.isNone, false,
        s.uptime * 1000 + 2000 + 320 * s.hopsTo x, false⟩] ∧
      (s.sendRequest w addr data).out = s.out ++ if s.corPatterned ((s.sendRequest w addr data).cor.managerPort x) then []
        else [.cell ((s.sendRequest w addr data).cor.managerPort x) x (requestBody s.cor.nextId addr data)] := by
  have sends : s.sendRequest w addr data =
      (s.noteRequest w addr data).sendCell x (requestBody s.cor.nextId addr data) := by
    rw [State.sendRequest_eq, maps, runs, known]
    rfl
  have manager' : (s.noteRequest w addr data).flag .COR_CTL_MANAGER = true := manager
  have plain (p : Nat) : (s.noteRequest w addr data).corPatterned p = s.corPatterned p := rfl
  have quiet : (s.noteRequest w addr data).out = s.out := rfl
  rw [sends, State.sendCell_cor]
  constructor
  · subst maps
    rfl
  · rw [State.sendCell, State.routePort, if_pos manager', State.sayCell_out, plain, quiet]

/-- R24, R415: an access that a window takes. -/
theorem State.window_sends {w addr : Nat} {data : Option Nat} (manager : s.isManager = true)
    (enabled : s.flag .COR_WIN_CFG_EN [w] = true) (settled : s.flag .COR_STAT_ENUMERATING = false)
    (few : s.inFlight w < 16) (credits : data = none → s.readsOut < 64) :
    s.window w addr data = s.sendRequest w addr data := by
  have free : ¬ (decide (16 ≤ s.inFlight w) || (data.isNone && decide (64 ≤ s.readsOut))) = true := by
    have room : decide (16 ≤ s.inFlight w) = false := decide_eq_false (by omega)
    rw [room, Bool.false_or, Bool.and_eq_true, decide_eq_true_eq]
    rintro ⟨reads, full⟩
    have := credits (Option.isNone_iff_eq_none.mp reads)
    omega
  unfold State.window
  rw [manager, enabled, settled]
  exact if_neg free

/-- R417, R423: an access that no window takes reads as zero. -/
theorem State.window_zero {w addr : Nat} (absent : s.isManager = false ∨ s.flag .COR_WIN_CFG_EN [w] = false) :
    s.window w addr none = s.say (.data .pf0 (windowOffset w addr) 0) := by
  have none_ : (!s.isManager || !s.flag .COR_WIN_CFG_EN [w]) = true := by
    obtain h | h := absent <;> rw [h] <;> simp
  exact if_pos none_

/-- R413, R415: while the corridor is enumerated an access ends expired. -/
theorem State.window_expires {w addr : Nat} {data : Option Nat} (manager : s.isManager = true)
    (enabled : s.flag .COR_WIN_CFG_EN [w] = true) (walking : s.flag .COR_STAT_ENUMERATING = true) :
    s.window w addr data = s.expire w addr data.isNone false := by
  unfold State.window
  rw [manager, enabled, walking]
  rfl

/-- R405: an event adds to what leaves. -/
theorem State.evt_out (s : State) (r : Row) (ix : List Nat) (b : Nat) : ∃ l, (s.evt r ix b).out = s.out ++ l := by
  unfold State.evt
  split
  · exact ⟨[], (List.append_nil _).symm⟩
  · obtain ⟨-, -, l, out⟩ := (s.bit r ix b).ring_shows (evtVector r ix)
    exact ⟨l, out⟩

theorem State.countWrap_out (s : State) (r : Row) (ix : List Nat) : (s.countWrap r ix).out = s.out :=
  s.countWrap_same r ix 1 (p := .out) (by decide)

theorem State.countWrap_cor (s : State) (r : Row) (ix : List Nat) : (s.countWrap r ix).cor = s.cor :=
  s.countWrap_same r ix 1 (p := .cor) (by decide)

/-- R415: an expired access rings, and leaves the requests alone. -/
theorem State.expire_shows (s : State) (w addr : Nat) (isRead discarded : Bool) :
    (s.expire w addr isRead discarded).flag .COR_EVT_TIMEOUT = true ∧
      (s.expire w addr isRead discarded).cor = s.cor := by
  have said (t : State) (c : Bool) (o : Out) : (t.when c (·.say o)).cor = t.cor := by cases c <;> rfl
  unfold State.expire
  dsimp only
  refine ⟨State.flag_evt_self _ .COR_EVT_TIMEOUT [] rfl (by decide), ?_⟩
  rw [State.evt_cor, said, State.countWrap_cor]

/-- R415: an expired read returns all ones. -/
theorem State.expire_read (s : State) (w addr : Nat) :
    ∃ l, (s.expire w addr true false).out = s.out ++ .data .pf0 (windowOffset w addr) 0xFFFFFFFF :: l := by
  obtain ⟨l, out⟩ := State.evt_out ((s.countWrap .COR_WIN_STAT_TIMEOUTS [w]).say
    (.data .pf0 (windowOffset w addr) 0xFFFFFFFF)) .COR_EVT_TIMEOUT [] 0
  refine ⟨l, ?_⟩
  have expires : s.expire w addr true false = ((s.countWrap .COR_WIN_STAT_TIMEOUTS [w]).say
    (.data .pf0 (windowOffset w addr) 0xFFFFFFFF)).evt .COR_EVT_TIMEOUT := rfl
  rw [expires, out, State.say_out, State.countWrap_out, List.append_assoc]
  rfl

/-- R415: an expired write is counted as lost. -/
theorem State.expire_write (s : State) (w addr : Nat) (discarded : Bool) :
    (s.expire w addr false discarded).rd .COR_WIN_STAT_WR_LOST [w] =
      (s.rd .COR_WIN_STAT_WR_LOST [w] + 1) % 2 ^ Row.COR_WIN_STAT_WR_LOST.width := by
  have expires : s.expire w addr false discarded = (s.countWrap .COR_WIN_STAT_WR_LOST [w]).evt .COR_EVT_TIMEOUT := rfl
  rw [expires, State.rd_evt_ne _ (by decide), State.rd_countWrap_self]

/-! ### Requests end (R415) -/

/-- R415: a request that has ended is no longer in flight. -/
theorem State.endRequest_ended (s : State) (id : Nat) :
    (s.endRequest id).cor.requests.all (fun x => x.id != id) = true :=
  List.all_filter.trans (List.all_eq_true.mpr fun x _ => by cases x.id != id <;> rfl)

/-- R415: the first STALL of a request extends its deadline. -/
def State.stall (s : State) (id w : Nat) : State :=
  (s.onCor (fun x => { x with requests := x.requests.map (fun (x : Request) =>
    if x.id = id then { x with stalled := true, deadline := x.deadline + 100000 } else x) })).countWrap
      .COR_WIN_STAT_STALLS [w]

theorem State.stall_shows {id w : Nat} {r : Request} (only : s.cor.requests = [r]) (own : r.id = id) :
    (s.stall id w).cor.requests = [{ r with stalled := true, deadline := r.deadline + 100000 }] ∧
      (s.stall id w).rd .COR_WIN_STAT_STALLS [w] =
        (s.rd .COR_WIN_STAT_STALLS [w] + 1) % 2 ^ Row.COR_WIN_STAT_STALLS.width := by
  have told (t : State) (f : Corridor → Corridor) : (t.onCor f).cor = f t.cor := rfl
  constructor
  · rw [State.stall, State.countWrap_cor, told, only]
    exact congrArg (fun x => [x]) (if_pos own)
  · exact State.rd_countWrap_self ..

/-! ### Forwarded doorbells (R416, R418) -/

/-- R405: a ring is a native event of its vector. -/
theorem State.ring_event (s : State) (v : Nat) : (s.ring v).pmu.events.contains (0x0D, v, 1) = true := by
  have requested (t : State) : ((t.requestIntn v).forwardDoorbell v |>.requestMsix v).pmu = t.pmu := by
    rw [(State.requestMsix_within (.refl _ _) (covers_self _) v).part .pmu (by decide +kernel),
      (State.forwardDoorbell_within (.refl _ _) (covers_self _) v).part .pmu (by decide +kernel),
      (State.requestIntn_within (.refl _ _) (covers_self _) v).part .pmu (by decide +kernel)]
  rw [State.ring, requested]
  simp [State.native]

theorem State.ring_cor (s : State) (v : Nat) : (s.ring v).cor = s.cor :=
  (State.ring_within (.refl _ s) (covers_self _) v).part .cor (by decide +kernel)

/-- R416: a doorbell that the log has room for. -/
def State.logDoorbell (s : State) (a v : Nat) : State := s.onCor (fun x => { x with fwdLog := x.fwdLog ++ [(a, v)] })

theorem State.doorbellCell_logged {a v w : Nat} (room : s.cor.fwdLog.length < 64) (maps : s.windowOf a = some w) :
    s.doorbellCell a v = (s.logDoorbell a v).ring (48 + w) := by
  have maps' : (s.onCor (fun x => { x with fwdLog := x.fwdLog ++ [(a, v)] })).windowOf a = some w := maps
  unfold State.doorbellCell
  rw [if_pos room]
  dsimp only
  rw [maps']
  rfl

/-- R416: a doorbell that finds the log full is lost, and rings. -/
theorem State.doorbellCell_lost {a v : Nat} (full : 64 ≤ s.cor.fwdLog.length) :
    (s.doorbellCell a v).flag .COR_EVT_FWD_LOST = true ∧ (s.doorbellCell a v).cor.fwdLog = s.cor.fwdLog := by
  have lost : (s.evt .COR_EVT_FWD_LOST).flag .COR_EVT_FWD_LOST = true := State.flag_evt_self _ _ _ rfl (by decide)
  unfold State.doorbellCell
  rw [if_neg (by omega)]
  dsimp only
  split
  · rw [State.flag, State.ring_rd _ _ (by decide +kernel), State.ring_cor, State.evt_cor]
    exact ⟨lost, rfl⟩
  · rw [State.flag_evt_ne _ (by decide), State.evt_cor, State.evt_cor]
    exact ⟨lost, rfl⟩

theorem State.popFwd_oldest {e : Nat × Nat} {rest : List (Nat × Nat)} (manager : s.isManager = true)
    (log : s.cor.fwdLog = e :: rest) :
    s.popFwd = (2 ^ 31 + e.2 * 2 ^ 24 + e.1, s.onCor (fun x => { x with fwdLog := rest })) := by
  unfold State.popFwd
  rw [log]
  exact if_pos manager

theorem State.popFwd_none (none : s.isManager = false ∨ s.cor.fwdLog = []) : s.popFwd = (0, s) := by
  unfold State.popFwd
  cases log : s.cor.fwdLog with
  | nil => rfl
  | cons e rest =>
    obtain worker | empty := none
    · exact if_neg (by simp [worker])
    · rw [log] at empty
      cases empty

/-! ### Commands (R38) -/

theorem corDoorbellRx_exec (worker : Nat) (v : Fin 64) (manager : s.isManager = true) (runs : s.corRuns = true) :
    exec (.corDoorbellRx worker v) s = .next (s.begin.doorbellCell worker v) := by
  have reached : (s.begin.isManager && s.begin.corRuns) = true := Bool.and_eq_true_iff.mpr ⟨manager, runs⟩
  rw [exec_corDoorbellRx, execCorDoorbellRx]
  exact congrArg Host.Outcome.next (if_pos reached)

theorem windowDeadlineExpiry_exec {id : Nat} {r : Request} (due : s.cor.requests.find? (fun x => x.id == id) = some r) :
    exec (.windowDeadlineExpiry id) s =
      .next ((s.begin.endRequest id).expire r.window r.addr r.isRead r.discarded) := by
  have due' : s.begin.cor.requests.find? (fun x => x.id == id) = some r := due
  rw [exec_windowDeadlineExpiry, execWindowDeadlineExpiry, due']

end

/-- Settles O48: each command's effect is its operation's law above. -/
theorem corridorWindows : Obligations.CorridorWindows := by
  intro s
  refine ⟨?_, ?_, ?_, ?_, ?_, ?_, ?_, ?_, ?_, ?_, ?_, ?_, ?_, ?_⟩
  · intro topo manager runs
    have reached : (s.begin.isManager && s.begin.corRuns) = true := Bool.and_eq_true_iff.mpr ⟨manager, runs⟩
    refine ⟨_, ?_, s.begin.enumerated_shows (enumWalk topo)⟩
    rw [exec_enumerate, execEnumerate]
    exact congrArg Host.Outcome.next (if_pos reached)
  · intro w addr data x manager enabled settled few credits runs maps known
    obtain ⟨requests, out⟩ := State.sendRequest_shows (s := s.begin) (w := w) (addr := addr) (data := data) manager runs
      maps known
    refine ⟨s.begin.sendRequest w addr data, ?_, ?_, requests⟩
    · rw [exec_windowAccess, execWindowAccess,
        State.window_sends (s := s.begin) manager enabled settled few credits]
    · cases data <;> exact out
  · intro w addr absent
    refine ⟨_, (exec_windowAccess ..).trans (congrArg Host.Outcome.next (State.window_zero (s := s.begin) absent)), ?_⟩
    exact ⟨rfl, rfl⟩
  · intro w addr manager enabled walking
    obtain ⟨l, out⟩ := s.begin.expire_read w addr
    obtain ⟨rung, cor⟩ := s.begin.expire_shows w addr true false
    refine ⟨s.begin.expire w addr true false, ?_, ?_, rung, congrArg Corridor.requests cor⟩
    · rw [exec_windowAccess, execWindowAccess, State.window_expires (s := s.begin) manager enabled walking]
      rfl
    · rw [out]
      rfl
  · intro id data r runs found
    have runs' : s.begin.corRuns = true := runs
    have found' : s.begin.request id true = some r := found
    refine ⟨(s.begin.endRequest id).when (!r.discarded) (·.say (.data .pf0 (windowOffset r.window r.addr) data)), ?_, ?_⟩
    · rw [exec_corReadCplRx, execCorReadCplRx, runs', if_pos rfl, found']
    · cases r.discarded <;> exact ⟨rfl, s.begin.endRequest_ended id⟩
  · intro id runs found
    have ends : (s.begin.corRuns && (s.begin.request id false).isSome) = true := Bool.and_eq_true_iff.mpr ⟨runs, found⟩
    refine ⟨_, ?_, s.begin.endRequest_ended id⟩
    rw [exec_corWriteAckRx, execCorWriteAckRx]
    exact congrArg Host.Outcome.next (if_pos ends)
  · intro id r runs only own first
    have found : s.begin.cor.requests.find? (fun x => x.id == id && !x.stalled && s.begin.corRuns) = some r := by
      have runs' : s.begin.corRuns = true := runs
      have only' : s.begin.cor.requests = [r] := only
      rw [only', List.find?_singleton, own, first, runs']
      simp
    refine ⟨s.begin.stall id r.window, ?_, State.stall_shows (s := s.begin) only own⟩
    rw [exec_corStallRx, execCorStallRx, found]
    rfl
  · intro id r due read kept
    obtain ⟨l, out⟩ := (s.begin.endRequest id).expire_read r.window r.addr
    obtain ⟨rung, cor⟩ := (s.begin.endRequest id).expire_shows r.window r.addr true false
    refine ⟨_, (windowDeadlineExpiry_exec due).trans (by rw [read, kept]), ?_, rung, ?_⟩
    · rw [out]
      rfl
    · rw [cor]
      exact s.begin.endRequest_ended id
  · intro id r due write
    refine ⟨_, (windowDeadlineExpiry_exec due).trans (by rw [write]), ?_,
      ((s.begin.endRequest id).expire_shows r.window r.addr false r.discarded).1⟩
    exact (s.begin.endRequest id).expire_write r.window r.addr r.discarded
  · intro worker v w manager runs room maps
    refine ⟨_, (corDoorbellRx_exec worker v manager runs).trans
      (congrArg Host.Outcome.next (State.doorbellCell_logged (s := s.begin) room maps)), ?_, State.ring_event ..⟩
    rw [State.ring_cor]
    rfl
  · intro worker v manager runs full
    exact ⟨_, corDoorbellRx_exec worker v manager runs, State.doorbellCell_lost (s := s.begin) full⟩
  · intro target worker runs core known between other
    have reached : (!s.begin.isManager && s.begin.corRuns) = true :=
      Bool.and_eq_true_iff.mpr ⟨congrArg (! ·) worker, runs⟩
    have goes : ¬ (s.begin.power.trans.isSome || !s.begin.coreRuns) = true := by
      have between' : s.begin.power.trans = none := between
      have core' : s.begin.coreRuns = true := core
      rw [between', core']
      decide
    have shows := (s.begin.wr .PWR_STATE_CTL_TARGET [] target).requestState_shows other between
    rw [State.refusal_wr_target] at shows
    refine ⟨(s.begin.wr .PWR_STATE_CTL_TARGET [] target).requestState target, ?_, shows.1, fun refused => ?_⟩
    · rw [exec_corHierRx, execCorHierRx]
      refine congrArg Host.Outcome.next ((if_pos reached).trans ?_)
      exact (State.targetWrite_of_known _ known).trans (if_neg goes)
    · obtain ⟨trans, valid, rung, -⟩ := shows.2 refused
      exact ⟨trans, valid, rung⟩
  · intro req e rest taken manager log
    refine answers_via (exec_fwdLogRead ..) taken ?_
    rw [State.popFwd_oldest (s := s.begin) manager log]
    exact ⟨rfl, rfl⟩
  · intro req taken absent
    refine answers_via (exec_fwdLogRead ..) taken ?_
    rw [State.popFwd_none (s := s.begin) absent]
    exact ⟨rfl, rfl⟩

end Sys2Proof.Machine
end

section
/-!
The wings' start after a wing restart (R430, R431): O10 fails.
-/

namespace Sys2Proof.Machine

-- One theorem at a time bounds the memory of the whole text's check.
set_option Elab.async false

/-- R92, R431: as the lasers' step begins, the transmit laser tunes unless it kept its lock. -/
theorem State.startLasers_tuning (s : State) (w : Wing) :
    ((s.startLasers w).opt.get w).tuning = !(s.opt.get w).keptTx := by
  have told (t : State) (f : Optics → Optics) : (t.onOpt w f).opt.get w = f (t.opt.get w) := get_set ..
  have shown (t : State) (st : Nat) : (t.setOpt w st).opt = t.opt :=
    (State.setOpt_within (.refl _ t) (covers_self _) w st).part .opt (by decide +kernel)
  have begun (t : State) (b : Bool) : ((t.wrb .OPT_TX_STAT_FREQ_LOCKED [w.n] b).startDac w).opt = t.opt := rfl
  unfold State.startLasers
  dsimp only
  split
  · rw [shown, told, begun, told]
  · rw [shown, begun, told]

/-- A running module whose wing A, enabled and in Run, has its converters' clocks locked in step 1 of its start, after
a wing restart that its transmit laser's lock survived (R431). -/
def keptLaserState : State :=
  { Tests.running [(.CNV_ADC_CLK_LOCKED, [0], 1), (.CNV_DAC_CLK_LOCKED, [0], 1)] with
    boot := { Boot.reset with step := 7, wing := ⟨1, 8⟩ }
    opt := ⟨{ Optics.reset with keptTx := true }, Optics.reset⟩ }

theorem keptLaserState_ready : keptLaserState.isRunning = true ∧ keptLaserState.wingEnabled .a = true ∧
    keptLaserState.wingState .a = 0 ∧ keptLaserState.wingStepReady .a = true := by
  decide +kernel

/-- Refutes O10: the statement has the lasers' step of a wing's start set the transmit laser tuning; a laser that kept
its lock through a wing restart reports the lock instead (R431). -/
theorem not_startUp : ¬ Obligations.StartUp := by
  intro h
  obtain ⟨runs, enabled, running, ready⟩ := keptLaserState_ready
  obtain ⟨-, -, -, -, -, -, starts⟩ := h keptLaserState
  obtain ⟨t, ran, -, begins⟩ := starts .a runs enabled running ready
  have next : exec (.wingStartStepDone .a) keptLaserState =
      .next ((keptLaserState.begin.setBootWing .a 2).startLasers .a) := by
    have goes : (keptLaserState.begin.isRunning && keptLaserState.begin.wingEnabled .a &&
        keptLaserState.begin.wingState .a == 0 && keptLaserState.begin.wingStepReady .a) = true := by
      rw [Bool.and_eq_true, Bool.and_eq_true, Bool.and_eq_true]
      exact ⟨⟨⟨runs, enabled⟩, beq_iff_eq.mpr running⟩, ready⟩
    rw [exec_wingStartStepDone, execWingStartStepDone]
    exact congrArg Host.Outcome.next (if_pos goes)
  rw [next] at ran
  cases ran
  have tuning := (begins rfl).1
  rw [State.startLasers_tuning] at tuning
  cases tuning

end Sys2Proof.Machine
end

section
/-!
Segments, rollover, retirement and the pipelines (R256 to R267, R273), and O28.
-/

namespace Sys2Proof.Machine

-- One theorem at a time bounds the memory of the whole text's check.
set_option Elab.async false

section
variable {s : State} {ch : Nat}

/-! ### Contexts and pipelines (R24, R273) -/

@[simp] theorem State.showCtx_cip (s : State) : s.showCtx.cip = s.cip :=
  (State.showCtx_within (.refl _ s) (covers_self _)).part .cip (by decide +kernel)

/-- R273: what takes contexts to pipelines moves only them. -/
theorem State.feed_cip (s : State) (p : Nat) : ∃ ps rs, (s.feed p).cip = { s.cip with pipes := ps, ready := rs } := by
  unfold State.feed
  split
  · exact ⟨_, _, rfl⟩
  · split
    · exact ⟨_, _, rfl⟩
    · exact ⟨_, _, rfl⟩

theorem State.feedAll_cip (s : State) : ∃ ps rs, s.feedAll.cip = { s.cip with pipes := ps, ready := rs } := by
  rw [State.feedAll, State.showCtx_cip]
  unfold State.upTo
  refine List.foldlRecOn (motive := fun t : State => ∃ ps rs, t.cip = { s.cip with pipes := ps, ready := rs }) _ _
    ⟨_, _, rfl⟩ fun t ht p _ => ?_
  obtain ⟨ps, rs, cip⟩ := ht
  obtain ⟨ps', rs', fed⟩ := t.feed_cip p
  exact ⟨ps', rs', by rw [fed, cip]⟩

/-- R273: with no ready context the pipelines stay as they are. -/
theorem State.feedAll_idle (none : s.cip.ready = []) : s.feedAll.cip = s.cip := by
  have waits {t : State} (h : t.cip = s.cip) (p : Nat) : t.feed p = t := by
    have next : t.nextReady = Option.none := by
      unfold State.nextReady
      rw [h, none]
      rfl
    unfold State.feed
    rw [next]
    exact ite_self t
  rw [State.feedAll, State.showCtx_cip]
  unfold State.upTo
  refine List.foldlRecOn (motive := fun t : State => t.cip = s.cip) _ _ rfl fun t ht p _ => ?_
  rw [waits ht]
  exact ht

theorem State.memWrite_cip (s : State) (m : Fin 6) (n : Nat) : (s.memWrite m n).2.cip = s.cip :=
  (State.memWrite_within (.refl _ s) (covers_self _) m n).part .cip (by decide +kernel)

/-- R24, R273: a segment opens as the next context. -/
theorem State.openCtx_cip (s : State) (ch slot : Nat) : ∃ c ps rs, (s.openCtx ch slot).cip =
    { s.cip with nextId := s.cip.nextId + 1, contexts := s.cip.contexts ++ [c], pipes := ps, ready := rs } := by
  have counted (t : State) (b : Bool) : (t.when b (·.countWrap .CIP_CTX_STAT_FULL [])).cip = t.cip := by
    cases b
    · rfl
    · exact t.countWrap_same .CIP_CTX_STAT_FULL [] 1 (p := .cip) (by decide)
  have told (t : State) (f : Cipher → Cipher) : (t.onCip f).cip = f t.cip := rfl
  unfold State.openCtx
  dsimp only
  generalize hu : State.when _ _ _ = u
  obtain ⟨ps, rs, fed⟩ := u.feedAll_cip
  refine ⟨⟨s.cip.nextId, ch, slot, 8 * (s.rd .CIP_CH_CFG_SEG_LEN [ch] + 1), (s.memWrite 2 1).1⟩, ps, rs, ?_⟩
  rw [fed, ← hu, counted, told, State.memWrite_cip]

theorem State.openCtx_rd (s : State) (ch slot : Nat) {r : Row} (h : spares State.openCtx_touch r = true) (ix : List Nat) :
    (s.openCtx ch slot).rd r ix = s.rd r ix :=
  (State.openCtx_within (.refl _ s) (covers_self _) ch slot).keeps h ix

theorem State.useSlot_rd (s : State) (n usage : Nat) {r : Row} (h : spares State.useSlot_touch r = true) (ix : List Nat) :
    (s.useSlot n usage).rd r ix = s.rd r ix :=
  (State.useSlot_within (.refl _ s) (covers_self _) n usage).keeps h ix

theorem State.endSegment_rd (s : State) (ch : Nat) (ok : Bool) {r : Row} (h : spares State.endSegment_touch r = true)
    (ix : List Nat) : (s.endSegment ch ok).rd r ix = s.rd r ix :=
  (State.endSegment_within (.refl _ s) (covers_self _) ch ok).keeps h ix

/-! ### Transmit segments (R256 to R260, R265) -/

/-- R260: a void segment. -/
theorem State.voidSegment_shows (s : State) (ch : Nat) : (s.voidSegment ch).flag .CIP_CH_STAT_TX_VOID [ch] = true ∧
    (s.voidSegment ch).rd .CIP_CH_STAT_TX_KP [ch] = 0 ∧ (s.voidSegment ch).out = s.out ++ [.segment ch true 0 0] := by
  have boxed (t : State) (bs : List Block66) : (t.boxBlocks ch bs).out = t.out ∧
      ∀ r ix, (t.boxBlocks ch bs).rd r ix = t.rd r ix := ⟨rfl, fun _ _ => rfl⟩
  unfold State.voidSegment
  dsimp only
  refine ⟨?_, ?_, (boxed ..).1⟩
  · rw [State.flag, (boxed ..).2, State.say_rd, State.rd_wrb_ne _ (by decide)]
    exact State.flag_wrb_self _ .CIP_CH_STAT_TX_VOID [ch] true (by decide)
  · rw [(boxed ..).2, State.say_rd]
    exact State.rd_wr_self ..

/-- R265: what a transmit segment of an enabled channel starts from: its L fields have their values. -/
def State.takeUrgent (s : State) (ch : Nat) : State :=
  { s with inuse := tabErase s.inuse (Row.key .CIP_CH_CFG_URGENT [ch]) }

theorem segmentTxStart_exec {ch : Fin 64} (ciphers : s.isC0 = false) (cipher : s.chanCipher ch = true)
    (enabled : s.chanEnabled ch = true) (slots : s.chanSlots ch ≠ 0) (runs : s.wingRuns (chanWing ch) = true)
    (room : s.cip.contexts.length < 4096) (open_ : s.sentStat (chanWing ch) (chanNum ch) ≠ 5) :
    exec (.segmentTxStart ch) s = .next ((s.begin.takeUrgent ch).txSegment ch) := by
  have starts : ¬ (s.begin.isC0 || !s.begin.chanCipher ch || !s.begin.chanEnabled ch || s.begin.chanSlots ch == 0 ||
      !s.begin.wingRuns (chanWing ch) || decide (4096 ≤ s.begin.cip.contexts.length) ||
      s.begin.sentStat (chanWing ch) (chanNum ch) == 5) = true := by
    have ciphers' : s.begin.isC0 = false := ciphers
    have cipher' : s.begin.chanCipher ch = true := cipher
    have enabled' : s.begin.chanEnabled ch = true := enabled
    have slots' : (s.begin.chanSlots ch == 0) = false := beq_eq_false_iff_ne.mpr slots
    have runs' : s.begin.wingRuns (chanWing ch) = true := runs
    have room' : decide (4096 ≤ s.begin.cip.contexts.length) = false := decide_eq_false (Nat.not_le.mpr room)
    have open' : (s.begin.sentStat (chanWing ch) (chanNum ch) == 5) = false := beq_eq_false_iff_ne.mpr open_
    rw [ciphers', cipher', enabled', slots', runs', room', open']
    decide
  rw [exec_segmentTxStart, execSegmentTxStart]
  exact congrArg Host.Outcome.next (if_neg starts)

/-- R265: the phase found in a state. -/
theorem State.txPhase_first {st : Nat} (first : s.slotState (slotOf ch 0 0) = st) : s.txPhase ch st = some 0 := by
  simp [State.txPhase, first]

theorem State.txPhase_absent {st : Nat} (first : s.slotState (slotOf ch 0 0) ≠ st)
    (second : s.slotState (slotOf ch 0 1) ≠ st) : s.txPhase ch st = none := by
  simp [State.txPhase, first, second]

/-- R260, R265: without a usable key a segment is void. -/
theorem State.txSegment_void (unusable : s.halted 4 = true ∨ ∀ k : Fin 2, s.slotState (slotOf ch 0 k) = 0) :
    s.txSegment ch = s.voidSegment ch := by
  unfold State.txSegment
  cases stopped : s.halted 4
  · have empty := (or_iff_right (by rw [stopped]; decide)).mp unusable
    have zero : s.slotState (slotOf ch 0 0) = 0 := empty 0
    have one : s.slotState (slotOf ch 0 1) = 0 := empty 1
    have none_ : s.openPhase ch = (none, s) := by
      have absent {st : Nat} (some : st ≠ 0) : s.txPhase ch st = none :=
        State.txPhase_absent (by rw [zero]; exact some.symm) (by rw [one]; exact some.symm)
      unfold State.openPhase
      rw [absent (by decide), absent (by decide), absent (by decide)]
    rw [if_neg (by decide)]
    dsimp only
    rw [none_]
  · rfl

theorem State.slotEvt_shows (s : State) {r : Row} (bit : r.width = 1) (bell : ∀ x ∈ bellRows, x.id ≠ r.id) (n : Nat) :
    (s.slotEvt r n).flag r = true := State.flag_evt_self _ r [] bit bell

theorem State.slotEvt_cip (s : State) (r : Row) (n : Nat) : (s.slotEvt r n).cip = s.cip := by
  rw [State.slotEvt, State.evt_cip]
  rfl

theorem State.slotEvt_rd (s : State) {r x : Row} (h : ∀ y ∈ .CIP_EVT_LAST_SLOT :: r :: bellRows, y.id ≠ x.id) (n : Nat)
    (ix : List Nat) : (s.slotEvt r n).rd x ix = s.rd x ix := by
  rw [State.slotEvt, State.evt_keeps _ _ _ _ _ _ fun y hy => h y (List.mem_cons_of_mem _ hy),
    State.rd_wr_ne _ (h _ (List.mem_cons_self ..))]

/-- R265: the usage count that a segment leaves. -/
theorem State.useSlot_usage (s : State) (n usage : Nat) :
    (s.useSlot n usage).rd .CIP_SLOT_USAGE_USAGE [n] = min (2 ^ 31) usage := by
  have used (b : Bool) : ((s.wr .CIP_SLOT_USAGE_USAGE [n] (min (2 ^ 31) usage)).when b (·.evt .CIP_EVT_ROLL_REQ)).rd
      .CIP_SLOT_USAGE_USAGE [n] = min (2 ^ 31) usage := by
    rw [State.rd_when (f := (·.evt .CIP_EVT_ROLL_REQ)) (State.rd_evt_ne _ (by decide) ..), State.rd_wr_self]
    exact Nat.mod_eq_of_lt (Nat.lt_of_le_of_lt (Nat.min_le_left ..) (by decide))
  unfold State.useSlot
  dsimp only
  split
  · rw [State.slotEvt_rd _ (by decide), State.setSlot_rd _ _ _ (by decide +kernel)]
    exact used _
  · exact used _

/-- R265: a segment on the CURRENT slot of a phase: an invocation. -/
theorem State.keyedSegment_shows (s : State) (ch : Nat) {k : Nat} (phase : k < 2) :
    (s.keyedSegment ch k).flag .CIP_CH_STAT_TX_VOID [ch] = false ∧
      (s.keyedSegment ch k).rd .CIP_CH_STAT_TX_KP [ch] = k ∧ (s.keyedSegment ch k).cip.nextId = s.cip.nextId + 1 ∧
      (s.keyedSegment ch k).rd .CIP_SLOT_USAGE_USAGE [slotOf ch 0 k] =
        min (2 ^ 31) (s.rd .CIP_SLOT_USAGE_USAGE [slotOf ch 0 k] + 1) := by
  have pends (t : State) (b : Bool) {r : Row} (h : Row.CIP_CH_STAT_ROLL_PEND.id ≠ r.id) (ix : List Nat) :
      (t.when b (·.wrb .CIP_CH_STAT_ROLL_PEND [ch] true)).rd r ix = t.rd r ix :=
    State.rd_when (f := (·.wrb .CIP_CH_STAT_ROLL_PEND [ch] true)) (State.rd_wrb_ne _ h ..) b
  have pendsCip (t : State) (b : Bool) : (t.when b (·.wrb .CIP_CH_STAT_ROLL_PEND [ch] true)).cip = t.cip := by
    cases b <;> rfl
  have sealed (t : State) (n counter : Nat) : (t.sealNext ch n k counter).cip = t.cip ∧
      ∀ r ix, (t.sealNext ch n k counter).rd r ix = t.rd r ix := ⟨rfl, fun _ _ => rfl⟩
  have said (t : State) (o : Out) : (t.say o).cip = t.cip := rfl
  have wrote (t : State) (r : Row) (v : Nat) : (t.wr r [ch] v).cip = t.cip := rfl
  have marked (t : State) (r : Row) (b : Bool) : (t.wrb r [ch] b).cip = t.cip := rfl
  unfold State.keyedSegment
  dsimp only
  refine ⟨?_, ?_, ?_, ?_⟩
  · rw [State.flag, pends _ _ (by decide), State.useSlot_rd _ _ _ (by decide +kernel), (sealed ..).2, State.say_rd,
      State.openCtx_rd _ _ _ (by decide +kernel), State.rd_wr_ne _ (by decide)]
    exact State.flag_wrb_self s .CIP_CH_STAT_TX_VOID [ch] false (by decide)
  · rw [pends _ _ (by decide), State.useSlot_rd _ _ _ (by decide +kernel), (sealed ..).2, State.say_rd,
      State.openCtx_rd _ _ _ (by decide +kernel), State.rd_wr_self]
    exact Nat.mod_eq_of_lt phase
  · obtain ⟨c, ps, rs, opened⟩ := ((s.wrb .CIP_CH_STAT_TX_VOID [ch] false).wr .CIP_CH_STAT_TX_KP [ch] k).openCtx_cip ch
      (slotOf ch 0 k)
    rw [pendsCip, (State.useSlot_within (.refl _ _) (covers_self _) _ _).part .cip (by decide +kernel), (sealed ..).1,
      said, opened, wrote, marked]
  · rw [pends _ _ (by decide), State.useSlot_usage]

/-- R370: a slot whose line reads without error. -/
theorem State.readSlot_clean {n : Nat} (clean : s.foundAt (lineAt 5 n) .clean = .clean) : s.readSlot n = (false, s) := by
  unfold State.readSlot
  rw [clean]

/-- R265: the next segment of a channel whose other slot is not NEXT goes on with the CURRENT one. -/
theorem State.txSegment_keyed (runs : s.halted 4 = false) (current : s.slotState (slotOf ch 0 0) = 3)
    (other : s.slotState (slotOf ch 0 1) = 0) (clean : s.foundAt (lineAt 5 (slotOf ch 0 0)) .clean = .clean) :
    s.txSegment ch = (s.onCip (fun c => { c with rollDue := c.rollDue.erase ch })).keyedSegment ch 0 := by
  have opens : s.openPhase ch = (some 0, s.onCip (fun c => { c with rollDue := c.rollDue.erase ch })) := by
    unfold State.openPhase
    rw [State.txPhase_first current]
    dsimp only
    rw [Nat.sub_zero, other]
    simp
  have reads : (s.onCip (fun c => { c with rollDue := c.rollDue.erase ch })).readSlot (slotOf ch 0 0) =
      (false, s.onCip (fun c => { c with rollDue := c.rollDue.erase ch })) := State.readSlot_clean clean
  generalize s.onCip (fun c => { c with rollDue := c.rollDue.erase ch }) = u at opens reads ⊢
  unfold State.txSegment
  rw [runs, if_neg (by decide)]
  dsimp only
  rw [opens]
  dsimp only
  rw [reads]
  exact if_neg Bool.false_ne_true

/-! ### Received segments (R261, R262, R266) -/

theorem segmentRx_exec {ch : Fin 64} {seg : Segment} (ciphers : s.isC0 = false) (cipher : s.chanCipher ch = true)
    (delivers : s.delivers (chanWing ch) = true) (slots : s.rxSlots (chanWing ch) (chanNum ch) ≠ 0)
    (runs : s.wingRuns (chanWing ch) = true) (going : s.halted 4 = false) :
    exec (.segmentRx ch seg) s = .next (s.begin.rxSegment ch seg) := by
  have heard : ¬ (s.begin.isC0 || !s.begin.chanCipher ch || !s.begin.delivers (chanWing ch) ||
      s.begin.rxSlots (chanWing ch) (chanNum ch) == 0 || !s.begin.wingRuns (chanWing ch) || s.begin.halted 4) = true := by
    have ciphers' : s.begin.isC0 = false := ciphers
    have cipher' : s.begin.chanCipher ch = true := cipher
    have delivers' : s.begin.delivers (chanWing ch) = true := delivers
    have slots' : (s.begin.rxSlots (chanWing ch) (chanNum ch) == 0) = false := beq_eq_false_iff_ne.mpr slots
    have runs' : s.begin.wingRuns (chanWing ch) = true := runs
    have going' : s.begin.halted 4 = false := going
    rw [ciphers', cipher', delivers', slots', runs', going']
    decide
  rw [exec_segmentRx, execSegmentRx]
  exact congrArg Host.Outcome.next (if_neg heard)

/-- R261: two confirmed segments in succession align the channel. -/
theorem State.alignSegment_lock (unaligned : s.flag .CIP_CH_STAT_SEG_LOCK [ch] = false) (confirmed : Bool) :
    (s.alignSegment ch confirmed).flag .CIP_CH_STAT_SEG_LOCK [ch] =
      decide (2 ≤ if confirmed then tabGet 0 s.cip.confirms ch + 1 else 0) := by
  unfold State.alignSegment
  dsimp only
  generalize (if confirmed = true then tabGet 0 s.cip.confirms ch + 1 else 0) = n
  split
  next two =>
    rw [decide_eq_true two]
    exact State.flag_wrb_self _ .CIP_CH_STAT_SEG_LOCK [ch] true (by decide)
  next few =>
    rw [decide_eq_false few]
    exact unaligned

theorem State.alignSegment_segs (s : State) (ch : Nat) (confirmed : Bool) :
    (s.alignSegment ch confirmed).cip.segs = s.cip.segs := by
  unfold State.alignSegment
  dsimp only
  generalize (if confirmed = true then tabGet 0 s.cip.confirms ch + 1 else 0) = n
  split <;> rfl

/-- R262: the next segment is the following one. -/
theorem State.endSegment_segs (s : State) (ch : Nat) (ok : Bool) :
    tabGet 0 (s.endSegment ch ok).cip.segs ch = tabGet 0 s.cip.segs ch + 1 := by
  have next (t : State) (n : Nat) (f : Cipher → List Nat) : tabGet 0 (t.onCip (fun c => { c with
      segs := tabSet 0 c.segs ch n, spoiled := f c })).cip.segs ch = n := by
    have set := tabGet_set_self 0 t.cip.segs ch n
    exact set
  unfold State.endSegment
  exact next ..

theorem State.rxSegment_unaligned (unaligned : s.flag .CIP_CH_STAT_SEG_LOCK [ch] = false) (seg : Segment) :
    (s.rxSegment ch seg).flag .CIP_CH_STAT_SEG_LOCK [ch] =
        decide (2 ≤ if segConfirmed seg then tabGet 0 s.cip.confirms ch + 1 else 0) ∧
      tabGet 0 (s.rxSegment ch seg).cip.segs ch = tabGet 0 s.cip.segs ch + 1 := by
  have aligns : s.rxSegment ch seg = (s.alignSegment ch (segConfirmed seg)).endSegment ch false := by
    unfold State.rxSegment
    rw [unaligned]
    rfl
  rw [aligns, State.endSegment_segs, State.alignSegment_segs]
  refine ⟨?_, rfl⟩
  rw [State.flag, State.endSegment_rd _ _ _ (by decide +kernel)]
  exact State.alignSegment_lock unaligned _

/-- R262: a decryption counts the segment as verified, or rings. -/
theorem State.decrypt_shows {seg : Segment} (current : s.slotState (slotOf ch 1 (bitNat (ssbKp seg.ssb))) = 3) :
    if tagVerifies (tabGet KeySlot.empty s.cip.slots (slotOf ch 1 (bitNat (ssbKp seg.ssb)))).material seg then
      (s.decrypt ch seg).rd .CIP_SEG_OK_COUNT [ch] = satAdd Row.CIP_SEG_OK_COUNT.width (s.rd .CIP_SEG_OK_COUNT [ch]) 1
    else (s.decrypt ch seg).rd .CIP_AUTH_FAIL_COUNT [ch] =
        satAdd Row.CIP_AUTH_FAIL_COUNT.width (s.rd .CIP_AUTH_FAIL_COUNT [ch]) 1 ∧
      (s.decrypt ch seg).flag .CIP_EVT_AUTH_FAIL = true := by
  have stays : s.rxRoll ch (bitNat (ssbKp seg.ssb)) = s := by
    unfold State.rxRoll
    exact if_pos (by rw [current]; decide)
  unfold State.decrypt
  dsimp only
  rw [stays]
  split
  · rw [State.endSegment_rd _ _ _ (by decide +kernel), State.useSlot_rd _ _ _ (by decide +kernel),
      State.rd_wr_ne _ (by decide), State.rd_count_self]
  · refine ⟨?_, ?_⟩
    · rw [State.endSegment_rd _ _ _ (by decide +kernel), State.rd_evt_ne _ (by decide), State.rd_count_self]
    · rw [State.flag, State.endSegment_rd _ _ _ (by decide +kernel)]
      exact State.flag_evt_self _ .CIP_EVT_AUTH_FAIL [] rfl (by decide)

/-- R24: the opening of a received segment leaves the slots and the counts. -/
theorem State.rxOpen_shows (s : State) (ch : Nat) : (s.rxOpen ch).cip.slots = s.cip.slots ∧
    ∀ r, spares State.rxOpen_touch r = true → ∀ ix, (s.rxOpen ch).rd r ix = s.rd r ix := by
  refine ⟨?_, fun r h ix => (State.rxOpen_within (.refl _ s) (covers_self _) ch).keeps h ix⟩
  unfold State.rxOpen
  dsimp only
  split
  · obtain ⟨c, ps, rs, opened⟩ := s.openCtx_cip ch (slotOf ch 1 (s.rd .CIP_CH_STAT_RX_KP [ch]))
    rw [opened]
  · rfl

/-- R261, R267: a segment at its expected position on a CURRENT slot is decrypted. -/
theorem State.openSegment_decrypts {seg : Segment} (whole : s.cip.spoiled.contains ch = false)
    (filled : ssbVoid seg.ssb = false) (current : s.slotState (slotOf ch 1 (bitNat (ssbKp seg.ssb))) = 3)
    (inOrder : s.rd .CIP_SLOT_USAGE_USAGE [slotOf ch 1 (bitNat (ssbKp seg.ssb))] ≤ ssbCounter seg.ssb)
    (clean : s.foundAt (lineAt 5 (slotOf ch 1 (bitNat (ssbKp seg.ssb)))) .clean = .clean)
    (room : s.rxCtx ch = true ∨ s.cip.contexts.length < 4096) :
    s.openSegment ch seg = ((s.wrb .CIP_CH_STAT_RX_VOID [ch] false).rxOpen ch).decrypt ch seg := by
  have clean' : (s.wrb .CIP_CH_STAT_RX_VOID [ch] false).foundAt
      (lineAt 5 (slotOf ch 1 (bitNat (ssbKp seg.ssb)))) .clean = .clean := clean
  have reads : (s.wrb .CIP_CH_STAT_RX_VOID [ch] false).readSlot (slotOf ch 1 (bitNat (ssbKp seg.ssb))) =
      (false, s.wrb .CIP_CH_STAT_RX_VOID [ch] false) := State.readSlot_clean clean'
  have usage : (s.wrb .CIP_CH_STAT_RX_VOID [ch] false).rd .CIP_SLOT_USAGE_USAGE
      [slotOf ch 1 (bitNat (ssbKp seg.ssb))] = s.rd .CIP_SLOT_USAGE_USAGE [slotOf ch 1 (bitNat (ssbKp seg.ssb))] :=
    State.rd_wrb_ne _ (by decide) ..
  have fits : ¬ (!(s.wrb .CIP_CH_STAT_RX_VOID [ch] false).rxCtx ch &&
      decide (4096 ≤ (s.wrb .CIP_CH_STAT_RX_VOID [ch] false).cip.contexts.length)) = true := by
    have ctx : (s.wrb .CIP_CH_STAT_RX_VOID [ch] false).rxCtx ch = s.rxCtx ch := rfl
    have contexts : (s.wrb .CIP_CH_STAT_RX_VOID [ch] false).cip = s.cip := rfl
    rw [ctx, contexts, Bool.and_eq_true, decide_eq_true_eq]
    rintro ⟨none, full⟩
    obtain isOpen | few := room
    · rw [isOpen] at none
      cases none
    · omega
  unfold State.openSegment
  dsimp only
  rw [whole, filled, current, usage, if_neg (by decide), if_neg (by decide), if_neg (by simp),
    if_neg (Nat.not_lt.mpr inOrder), if_neg fits, reads]
  rfl

theorem State.rxSegment_aligned {seg : Segment} (aligned : s.flag .CIP_CH_STAT_SEG_LOCK [ch] = true)
    (ok : ssbOk seg.ssb = true) (whole : s.cip.spoiled.contains ch = false) (filled : ssbVoid seg.ssb = false)
    (current : s.slotState (slotOf ch 1 (bitNat (ssbKp seg.ssb))) = 3)
    (inOrder : s.rd .CIP_SLOT_USAGE_USAGE [slotOf ch 1 (bitNat (ssbKp seg.ssb))] ≤ ssbCounter seg.ssb)
    (clean : s.foundAt (lineAt 5 (slotOf ch 1 (bitNat (ssbKp seg.ssb)))) .clean = .clean)
    (room : s.rxCtx ch = true ∨ s.cip.contexts.length < 4096) :
    if tagVerifies (tabGet KeySlot.empty s.cip.slots (slotOf ch 1 (bitNat (ssbKp seg.ssb)))).material seg then
      (s.rxSegment ch seg).rd .CIP_SEG_OK_COUNT [ch] = satAdd Row.CIP_SEG_OK_COUNT.width (s.rd .CIP_SEG_OK_COUNT [ch]) 1
    else (s.rxSegment ch seg).rd .CIP_AUTH_FAIL_COUNT [ch] =
        satAdd Row.CIP_AUTH_FAIL_COUNT.width (s.rd .CIP_AUTH_FAIL_COUNT [ch]) 1 ∧
      (s.rxSegment ch seg).flag .CIP_EVT_AUTH_FAIL = true := by
  have decrypts : s.rxSegment ch seg = (((s.onCip (fun c => { c with missed := tabErase c.missed ch })).wrb
      .CIP_CH_STAT_RX_VOID [ch] false).rxOpen ch).decrypt ch seg := by
    rw [← State.openSegment_decrypts (s := s.onCip (fun c => { c with missed := tabErase c.missed ch })) whole filled
      current inOrder clean room]
    unfold State.rxSegment
    rw [aligned, ok]
    rfl
  have moved (r : Row) (ix : List Nat) : (s.onCip (fun c => { c with missed := tabErase c.missed ch })).rd r ix =
      s.rd r ix := rfl
  rw [decrypts]
  generalize hu : (s.onCip (fun c => { c with missed := tabErase c.missed ch })).wrb .CIP_CH_STAT_RX_VOID [ch] false = u
  have same {r : Row} (h : spares State.rxOpen_touch r = true) (other : Row.CIP_CH_STAT_RX_VOID.id ≠ r.id)
      (ix : List Nat) : (u.rxOpen ch).rd r ix = s.rd r ix := by
    rw [(u.rxOpen_shows ch).2 r h, ← hu, State.rd_wrb_ne _ other, moved]
  have slots : (u.rxOpen ch).cip.slots = s.cip.slots := by
    rw [(u.rxOpen_shows ch).1, ← hu]
    rfl
  have shows := State.decrypt_shows (s := u.rxOpen ch) (ch := ch) (seg := seg)
    (by rw [State.slotState, same (by decide +kernel) (by decide)]; exact current)
  rw [slots, same (by decide +kernel) (by decide), same (by decide +kernel) (by decide)] at shows
  exact shows

/-- R261: alignment is lost. -/
def State.loseSegLock (s : State) (ch : Nat) : State :=
  ((((s.endSegment ch false).wrb .CIP_CH_STAT_SEG_LOCK [ch] false).wrb .CIP_CH_STAT_RX_VOID [ch] false).onCip
    (fun c => { c with confirms := tabErase c.confirms ch })).evt .CIP_EVT_SEG_LOSS

theorem State.loseSegLock_shows (s : State) (ch : Nat) : (s.loseSegLock ch).flag .CIP_CH_STAT_SEG_LOCK [ch] = false ∧
    (s.loseSegLock ch).flag .CIP_CH_STAT_RX_VOID [ch] = false ∧ (s.loseSegLock ch).flag .CIP_EVT_SEG_LOSS = true := by
  have moved (t : State) (f : Cipher → Cipher) (r : Row) (ix : List Nat) : (t.onCip f).rd r ix = t.rd r ix := rfl
  unfold State.loseSegLock
  refine ⟨?_, ?_, State.flag_evt_self _ .CIP_EVT_SEG_LOSS [] rfl (by decide)⟩
  · rw [State.flag, State.rd_evt_ne _ (by decide), moved, State.rd_wrb_ne _ (by decide)]
    exact State.flag_wrb_self _ .CIP_CH_STAT_SEG_LOCK [ch] false (by decide)
  · rw [State.flag, State.rd_evt_ne _ (by decide), moved]
    exact State.flag_wrb_self _ .CIP_CH_STAT_RX_VOID [ch] false (by decide)

/-- R265: ROLL marks a rollover when the other slot is NEXT. -/
theorem State.roll_due (current : s.slotState (slotOf ch 0 0) = 3) (next : s.slotState (slotOf ch 0 1) = 2) :
    (s.roll ch).cip.rollDue.contains ch = true := by
  have rolls : s.roll ch = s.onCip (fun c => { c with rollDue := ch :: c.rollDue.erase ch }) := by
    unfold State.roll
    rw [State.txPhase_first current]
    exact if_pos next
  rw [rolls]
  exact List.contains_cons.trans (by simp)

/-! ### Retirement (R264, R267) -/

theorem xor_one_ne (n : Nat) : n ^^^ 1 ≠ n := by
  intro same
  have bit := congrArg (Nat.testBit · 0) same
  simp at bit
  omega

theorem State.zeroSlot_ne (s : State) {n k : Nat} (other : n ≠ k) : (s.zeroSlot n).slotState k = s.slotState k := by
  rw [State.zeroSlot, State.setSlot_ne _ 0 other, State.slotState, State.rd_wr_ne _ (by decide), State.rd_wr_ne _ (by decide)]
  rfl

/-- R264, R265: what a slot that becomes CURRENT does to the other one leaves it alone. -/
theorem State.becameCurrent_shows (s : State) (n : Nat) : (s.becameCurrent n).slotState n = s.slotState n ∧
    (s.becameCurrent n).keySlot n = s.keySlot n := by
  have retired (b : Bool) : (s.when b (·.retire (n ^^^ 1) none)).slotState n = s.slotState n ∧
      (s.when b (·.retire (n ^^^ 1) none)).keySlot n = s.keySlot n := by
    cases b
    · exact ⟨rfl, rfl⟩
    · refine ⟨State.setSlot_ne _ 4 (xor_one_ne n), ?_⟩
      rw [State.when_true, State.retire, State.keySlot, State.setSlot_cip]
      exact tabGet_set_ne _ _ _ (xor_one_ne n).symm
  have pends (t : State) (b : Bool) : (t.when b (·.wrb .CIP_CH_STAT_ROLL_PEND [n / 4] false)).slotState n = t.slotState n ∧
      (t.when b (·.wrb .CIP_CH_STAT_ROLL_PEND [n / 4] false)).keySlot n = t.keySlot n := by
    cases b
    · exact ⟨rfl, rfl⟩
    · exact ⟨State.rd_wrb_ne _ (by decide) .., rfl⟩
  unfold State.becameCurrent
  dsimp only
  rw [(pends ..).1, (pends ..).2]
  exact retired _

/-- R264, R267: material that waited is written as the retirement ends. -/
def State.refill (s : State) (n key : Nat) : State :=
  ((s.zeroSlot n).fillSlot n key 0 0 ((s.zeroSlot n).endState n)).when ((s.zeroSlot n).endState n == 3) (·.becameCurrent n)

theorem State.refill_shows (s : State) (n key : Nat) :
    (s.refill n key).slotState n = (if s.slotState (n ^^^ 1) = 3 then 2 else 3) ∧
      ((s.refill n key).keySlot n).material = key ∧ (s.refill n key).rd .CIP_SLOT_USAGE_USAGE [n] = 0 := by
  have ends : (s.zeroSlot n).endState n = if s.slotState (n ^^^ 1) = 3 then 2 else 3 := by
    rw [State.endState, State.zeroSlot_ne s (xor_one_ne n).symm]
  have fits : (if s.slotState (n ^^^ 1) = 3 then 2 else 3) < 8 := by split <;> decide
  obtain ⟨state, slot⟩ := (s.zeroSlot n).fillSlot_shows n key 0 0 fits
  have current (t : State) (b : Bool) : (t.when b (·.becameCurrent n)).slotState n = t.slotState n ∧
      (t.when b (·.becameCurrent n)).keySlot n = t.keySlot n ∧
      (t.when b (·.becameCurrent n)).rd .CIP_SLOT_USAGE_USAGE [n] = t.rd .CIP_SLOT_USAGE_USAGE [n] := by
    cases b
    · exact ⟨rfl, rfl, rfl⟩
    · obtain ⟨same, kept⟩ := t.becameCurrent_shows n
      exact ⟨same, kept, (State.becameCurrent_within (.refl _ t) (covers_self _) n).keeps (by decide +kernel) _⟩
  unfold State.refill
  rw [(current ..).1, (current ..).2.1, (current ..).2.2, ends]
  refine ⟨state, congrArg KeySlot.material slot, ?_⟩
  rw [State.fillSlot, State.setSlot_rd _ _ _ (by decide +kernel),
    (State.slotWrite_within (.refl _ _) (covers_self _) n).keeps (by decide +kernel), State.rd_wr_self]
  rfl

theorem State.retired_refills {n key : Nat} (waits : (s.keySlot n).next = some key) :
    s.retired n = (s.refill n key).slotEvt .CIP_EVT_RETIRED n := by
  unfold State.retired
  dsimp only
  rw [waits]
  rfl

theorem State.retired_empties {n : Nat} (none_ : (s.keySlot n).next = none) :
    s.retired n = ((s.zeroSlot n).slotEvt .CIP_EVT_RETIRED n).rederive n := by
  unfold State.retired
  dsimp only
  rw [none_]
  rfl

/-- R267: a retirement with nothing that waited ends EMPTY, unless a session derives the next generation. -/
theorem State.retired_empties_shows {n : Nat} (none_ : (s.keySlot n).next = none) :
    (s.isKem (n / 4) = false → (s.retired n).slotState n = 0 ∧ ((s.retired n).keySlot n).material = 0) ∧
      (s.retired n).flag .CIP_EVT_RETIRED = true := by
  have rung : ((s.zeroSlot n).slotEvt .CIP_EVT_RETIRED n).flag .CIP_EVT_RETIRED = true :=
    State.slotEvt_shows _ rfl (by decide) n
  rw [State.retired_empties none_]
  refine ⟨fun plain => ?_, ?_⟩
  · have plain' : ((s.zeroSlot n).slotEvt .CIP_EVT_RETIRED n).isKem (n / 4) = false := by
      rw [← plain, State.isKem, State.flag, State.slotEvt_rd _ (by decide),
        (State.zeroSlot_within (.refl _ s) (covers_self _) n).keeps (by decide +kernel)]
      rfl
    have stays : ((s.zeroSlot n).slotEvt .CIP_EVT_RETIRED n).rederive n = (s.zeroSlot n).slotEvt .CIP_EVT_RETIRED n := by
      unfold State.rederive
      dsimp only
      rw [plain']
      rfl
    obtain ⟨state, slot⟩ := s.zeroSlot_shows n
    rw [stays, State.slotState, State.slotEvt_rd _ (by decide), State.keySlot, State.slotEvt_cip]
    exact ⟨state, congrArg KeySlot.material slot⟩
  · exact ((State.rederive_within (.refl _ _) (covers_self _) n).keepsFlag (by decide +kernel) _).trans rung

theorem State.retired_refills_shows {n key : Nat} (waits : (s.keySlot n).next = some key) :
    (s.retired n).slotState n = (if s.slotState (n ^^^ 1) = 3 then 2 else 3) ∧
      ((s.retired n).keySlot n).material = key ∧ (s.retired n).rd .CIP_SLOT_USAGE_USAGE [n] = 0 ∧
      (s.retired n).flag .CIP_EVT_RETIRED = true := by
  obtain ⟨state, slot, usage⟩ := s.refill_shows n key
  rw [State.retired_refills waits, State.slotState, State.slotEvt_rd _ (by decide), State.keySlot, State.slotEvt_cip,
    State.slotEvt_rd _ (by decide)]
  exact ⟨state, slot, usage, State.slotEvt_shows _ rfl (by decide) n⟩

theorem retirementComplete_exec {slot : Fin 256} (runs : s.secRuns = true) (retiring : s.slotState slot = 4)
    (closed : s.cip.contexts = []) : exec (.retirementComplete slot) s = .next (s.begin.retired slot) := by
  have ends : (s.begin.secRuns && s.begin.slotState slot = 4 && !s.begin.cip.contexts.any (fun c => c.slot == slot)) = true := by
    have closed' : s.begin.cip.contexts = [] := closed
    rw [closed', Bool.and_eq_true, Bool.and_eq_true]
    exact ⟨⟨runs, decide_eq_true retiring⟩, rfl⟩
  rw [exec_retirementComplete, execRetirementComplete]
  exact congrArg Host.Outcome.next (if_pos ends)

/-! ### The pipelines (R273) -/

/-- R273: the last run of the only context frees its pipeline. -/
theorem State.runEnd_last {p k : Nat} {x : Context} (pipes : s.cip.pipes = [(p, ⟨some k, none⟩)])
    (contexts : s.cip.contexts = [x]) (own : x.id = k) (tx : x.isRx = false) (little : x.bytes ≤ 1024)
    (idle : s.cip.ready = []) : (s.runEnd p).cip.pipes = [] ∧ (s.runEnd p).cip.contexts = [] := by
  have runs : s.pipe p = ⟨some k, none⟩ := by
    simp [State.pipe, pipes, tabGet, tabFind]
  have freed : (s.setPipe p ⟨none, none⟩).cip = { s.cip with pipes := [] } := by
    have gone : tabSet Pipe.free s.cip.pipes p ⟨none, none⟩ = [] := by
      rw [tabSet, if_pos (show (⟨none, none⟩ : Pipe) = Pipe.free from rfl), pipes]
      simp [tabErase]
    exact congrArg (fun ps => ({ s.cip with pipes := ps } : Cipher)) gone
  have closes (t : State) (cip : t.cip = { s.cip with pipes := [] }) : (t.closeCtx (fun c => c.id == k)).cip.pipes = [] ∧
      (t.closeCtx (fun c => c.id == k)).cip.contexts = [] ∧ (t.closeCtx (fun c => c.id == k)).cip.ready = [] := by
    have ids : (t.cip.contexts.filter (fun c => c.id == k)).map Context.id = [k] := by
      rw [cip, contexts]
      simp [own]
    unfold State.closeCtx
    dsimp only
    rw [ids]
    have left : s.cip.contexts.filter (fun c => !c.id == k) = [] := by
      rw [contexts]
      simp [own]
    have ready : ({ t with cip := { t.cip with
        contexts := t.cip.contexts.filter (fun c => !c.id == k)
        ready := t.cip.ready.filter (fun i => !([k].contains i))
        pipes := (t.cip.pipes.map (fun e => (e.1, e.2.without [k]))).filter (fun e => e.2 != Pipe.free) } } : State).cip.ready =
        [] := by rw [cip, idle]; rfl
    rw [if_neg (by simp), State.feedAll_idle ready]
    refine ⟨?_, ?_, ready⟩
    · rw [cip]
      rfl
    · rw [cip]
      exact left
  have ran (t : State) (cip : t.cip = { s.cip with pipes := [] }) :
      t.ranCtx k = (t.closeCtx (fun c => c.id == k)).native 11 x.ch 1 := by
    have found : t.cip.contexts.find? (fun c => c.id == k) = some x := by
      rw [cip, contexts, List.find?_singleton, own]
      simp
    unfold State.ranCtx
    rw [found]
    dsimp only
    rw [tx, Bool.and_false]
    exact (if_neg Bool.false_ne_true).trans (if_pos little)
  have ends : s.runEnd p = ((s.setPipe p ⟨none, none⟩).ranCtx k).feedAll := by
    unfold State.runEnd
    rw [runs]
  obtain ⟨pipes', contexts', ready'⟩ := closes _ freed
  rw [ends, ran _ freed]
  generalize (s.setPipe p ⟨none, none⟩).closeCtx (fun c => c.id == k) = u at pipes' contexts' ready'
  have noted : (u.native 11 x.ch 1).cip = u.cip := rfl
  rw [State.feedAll_idle (by rw [noted]; exact ready'), noted]
  exact ⟨pipes', contexts'⟩

/-- R273: an urgent context takes a pipeline whose bulk run it suspends. -/
def State.preemptBy (s : State) (k p : Nat) : State :=
  (((s.setPipe p ⟨some k, (s.pipe p).run⟩).onCip (fun c => { c with ready := c.ready.erase k })).countWrap
    .CIP_PREEMPTS_COUNT []).showCtx

theorem State.preemptBy_shows (s : State) (k p : Nat) : ((s.preemptBy k p).pipe p).run = some k ∧
    ((s.preemptBy k p).pipe p).suspended = (s.pipe p).run ∧
    (s.preemptBy k p).rd .CIP_PREEMPTS_COUNT = (s.rd .CIP_PREEMPTS_COUNT + 1) % 2 ^ Row.CIP_PREEMPTS_COUNT.width := by
  have counted (t : State) : (t.countWrap .CIP_PREEMPTS_COUNT []).cip = t.cip :=
    t.countWrap_same .CIP_PREEMPTS_COUNT [] 1 (p := .cip) (by decide)
  have taken : (s.preemptBy k p).pipe p = ⟨some k, (s.pipe p).run⟩ := by
    rw [State.pipe, State.preemptBy, State.showCtx_cip, counted]
    have set := tabGet_set_self Pipe.free s.cip.pipes p ⟨some k, (s.pipe p).run⟩
    exact set
  rw [taken]
  refine ⟨rfl, rfl, ?_⟩
  rw [State.preemptBy, (State.showCtx_within (.refl _ _) (covers_self _)).keeps (by decide +kernel),
    State.rd_countWrap_self]
  rfl

end

/-- Settles O28: each command's effect is its operation's law above. -/
theorem segmentsAndPipelines : Obligations.SegmentsAndPipelines := by
  intro s
  refine ⟨?_, ?_, ?_, ?_, ?_, ?_, ?_, ?_, ?_, ?_⟩
  · intro ch ciphers cipher enabled slots runs room unlocked unusable
    have void : (s.begin.takeUrgent ch).txSegment ch = (s.begin.takeUrgent ch).voidSegment ch :=
      State.txSegment_void (s := s.begin.takeUrgent ch) unusable
    exact ⟨_, (segmentTxStart_exec ciphers cipher enabled slots runs room unlocked).trans
      (congrArg Host.Outcome.next void), State.voidSegment_shows ..⟩
  · intro ch ciphers cipher enabled slots runs room unlocked going current other _ _ clean
    have keyed := State.txSegment_keyed (s := s.begin.takeUrgent ch) (ch := ch) going current other clean
    exact ⟨_, (segmentTxStart_exec ciphers cipher enabled slots runs room unlocked).trans
      (congrArg Host.Outcome.next keyed), State.keyedSegment_shows _ ch (by decide)⟩
  · intro ch seg ciphers cipher delivers slots runs going unaligned
    exact ⟨_, segmentRx_exec ciphers cipher delivers slots runs going,
      State.rxSegment_unaligned (s := s.begin) unaligned seg⟩
  · intro ch seg ciphers cipher delivers slots runs going aligned ok filled whole current inOrder clean room
    exact ⟨_, segmentRx_exec ciphers cipher delivers slots runs going,
      State.rxSegment_aligned (s := s.begin) aligned ok whole filled current inOrder clean room⟩
  · intro ch aligned missed
    have loses : (s.begin.flag .CIP_CH_STAT_SEG_LOCK [ch] && decide (3 ≤ tabGet 0 s.begin.cip.missed ch)) = true :=
      Bool.and_eq_true_iff.mpr ⟨aligned, decide_eq_true missed⟩
    refine ⟨_, ?_, s.begin.loseSegLock_shows ch⟩
    rw [exec_segLockLoss, execSegLockLoss]
    exact congrArg Host.Outcome.next (if_pos loses)
  · intro req ch taken current next
    exact answers_via (exec_roll ..) taken (State.roll_due (s := s.begin) current next)
  · intro slot runs retiring closed none_
    exact ⟨_, retirementComplete_exec runs retiring closed, State.retired_empties_shows (s := s.begin) none_⟩
  · intro slot key runs retiring closed waits
    exact ⟨_, retirementComplete_exec runs retiring closed, State.retired_refills_shows (s := s.begin) waits⟩
  · intro p k x going pipes contexts own tx little idle clean
    refine ⟨s.begin.runEnd p, ?_, State.runEnd_last (s := s.begin) pipes contexts own tx little idle⟩
    have going' : s.begin.halted 4 = false := going
    have clean' : s.begin.foundAt (lineAt 2 x.place) .clean = .clean := clean
    have found : (s.begin.pipe p).run.bind (fun i => s.begin.cip.contexts.find? (fun c => c.id == i)) = some x := by
      have pipes' : s.begin.cip.pipes = [((p : Nat), ⟨some k, none⟩)] := pipes
      have contexts' : s.begin.cip.contexts = [x] := contexts
      rw [State.pipe, pipes', contexts']
      simp [tabGet, tabFind, own]
    rw [exec_pipelineRunEnd, execPipelineRunEnd, going', found]
    simp only [Bool.false_eq_true, if_false]
    rw [clean']
  · intro left k p going busy urgent bulk
    refine ⟨s.begin.preemptBy k p, ?_, s.begin.preemptBy_shows k p⟩
    have going' : s.begin.halted 4 = false := going
    have busy' : (List.range 16).all (fun p => (s.begin.pipe p).run.isSome) = true := busy
    have urgent' : s.begin.cip.ready.find? s.begin.ctxUrgent = some k := urgent
    have bulk' : s.begin.victim left = some p := bulk
    rw [exec_preempt, execPreempt]
    rw [going', busy', urgent', bulk']
    rfl

end Sys2Proof.Machine
end

section
/-!
The overhead processor: what its operations leave of its state, frames, alignment, defects and failures (R215 to R237), and O26.
-/

namespace Sys2Proof.Machine

-- One theorem at a time bounds the memory of the whole text's check.
set_option Elab.async false

section
variable {s : State} {w : Wing}

/-! ### What changes of the overhead processor's state keep -/

theorem State.onOtn_get (s : State) (w : Wing) (f : Otn → Otn) : (s.onOtn w f).otn.get w = f (s.otn.get w) := get_set ..

theorem State.onOtn_keeps {α : Type} {g : Otn → α} {f : Otn → Otn} (h : ∀ o, g (f o) = g o) (s : State) (w : Wing) :
    g ((s.onOtn w f).otn.get w) = g (s.otn.get w) := by rw [State.onOtn_get, h]

theorem State.count_otn (s : State) (r : Row) (ix : List Nat) (n : Nat) : (s.count r ix n).otn = s.otn :=
  s.count_same r ix n (p := .otn) (by decide)

/-- R221: a loop that writes instances of a row. -/
theorem State.upTo_wr_otn (s : State) (r : Row) (ix : Nat → List Nat) (v : Nat → Nat) (n : Nat) :
    (s.upTo n (fun t k => t.wr r (ix k) (v k))).otn = s.otn := by
  unfold State.upTo
  exact List.foldlRecOn (motive := fun t : State => t.otn = s.otn) _ _ rfl fun t ht k _ => ht

theorem State.countWrap_otn (s : State) (r : Row) (ix : List Nat) (n : Nat) : (s.countWrap r ix n).otn = s.otn :=
  s.countWrap_same r ix n (p := .otn) (by decide)

/-- R231, R232: a part of the wing's state that has neither what is noted of aSSF nor what the channels received. -/
def ApartFromSsf {α : Type} (g : Otn → α) : Prop :=
  ∀ (o : Otn) (a b : Bool) (p : Tab PmRx), g { o with ssfSecond := a, ssfTenth := b, pm := p } = g o

section
variable {α : Type} {g : Otn → α} (apart : ApartFromSsf g)
include apart

theorem State.onPm_keeps (s : State) (w : Wing) (c : Nat) (f : PmRx → PmRx) :
    g ((s.onPm w c f).otn.get w) = g (s.otn.get w) :=
  State.onOtn_keeps (fun o => apart o o.ssfSecond o.ssfTenth _) s w

theorem State.noteSsf_keeps (s : State) (w : Wing) : g ((s.noteSsf w).otn.get w) = g (s.otn.get w) := by
  have pmWhen (t : State) (b : Bool) (c : Nat) (f : PmRx → PmRx) :
      g ((t.when b (·.onPm w c f)).otn.get w) = g (t.otn.get w) := by
    cases b
    · rfl
    · exact State.onPm_keeps apart t w c f
  have noted (b : Bool) : g ((s.when b (·.onOtn w (fun o => { o with ssfSecond := true, ssfTenth := true }))).otn.get w) =
      g (s.otn.get w) := by
    cases b
    · rfl
    · exact State.onOtn_keeps (fun o => apart o true true o.pm) s w
  unfold State.noteSsf
  dsimp only
  rw [State.upTo_keeps (g := fun t : State => g (t.otn.get w)) fun t c => ?_]
  · exact noted _
  · exact (pmWhen ..).trans (pmWhen ..)

theorem State.setSm_keeps (s : State) (w : Wing) (d : Nat) (on : Bool) : g ((s.setSm w d on).otn.get w) = g (s.otn.get w) := by
  have shown (t : State) (b : Bool) (r : Row) (ix : List Nat) (k : Nat) : (t.when b (·.bit r ix k)).otn = t.otn := by
    cases b <;> rfl
  have wrote (r : Row) (b : Bool) : (s.wrb r [w.n] b).otn = s.otn := rfl
  rw [State.setSm, State.noteSsf_keeps apart, shown, wrote]

theorem State.setPm_keeps (s : State) (w : Wing) (c d : Nat) (on : Bool) :
    g ((s.setPm w c d on).otn.get w) = g (s.otn.get w) := by
  unfold State.setPm
  dsimp only
  rw [State.noteSsf_keeps apart]
  cases on <;> rfl

end

/-! ### Frames sent (R216, R224) -/

/-- R63, R215: filling a frame moves only what waits for the containers. -/
theorem State.fillSlots_otn (s : State) (w : Wing) (map : List Nat) (n : Nat) :
    ∃ b t, (s.fillSlots w map n).2.otn.get w = { s.otn.get w with box := b, wait := t } := by
  induction n with
  | zero => exact ⟨_, _, rfl⟩
  | succ c ih =>
    obtain ⟨b, t, filled⟩ := ih
    unfold State.fillSlots
    dsimp only
    split
    · exact ⟨b, t, filled⟩
    · rw [State.fillFrame]
      dsimp only
      rw [State.onOtn_get, filled]
      exact ⟨_, _, rfl⟩

/-- R216, R224, R227: what is left of a frame that was sent. -/
theorem State.sendFrame_shows (s : State) (w : Wing) :
    let f := s.nextFrame w (s.txMap w) (s.fillSlots w (s.txMap w) 32).1
    (s.sendFrame w).out.getLast? = some (.otn w f) ∧ f.mfas = (s.otn.get w).mfas ∧
      ((s.sendFrame w).otn.get w).mfas = ((s.otn.get w).mfas + 1) % 256 ∧
      (s.sendFrame w).flag .OHD_PM_TX_BDI [w.n, f.mfas % 32] = f.pmBdi ∧
      ((s.sendFrame w).otn.get w).phi = ((s.otn.get w).phi + spacingS (s.rd .TXW_LINE_CUR_BAUD [w.n])
        (s.rd .TXW_LINE_CUR_H_IDX [w.n]) (s.rd .TXW_LINE_CUR_FEC [w.n])) % 2 ^ 24 := by
  have supplied (t : State) (o : Out) (bits : List Bool) (c : Nat) (p : PmRx → PmRx) (q : Otn → Otn) :
      ((((t.say o).supply w bits).onPm w c p).onOtn w q).out = t.out ++ [o] ∧
      ∀ r ix, ((((t.say o).supply w bits).onPm w c p).onOtn w q).rd r ix = t.rd r ix := ⟨rfl, fun _ _ => rfl⟩
  have moved (t : State) (r : Row) (b : Bool) (x : Row) (v : Nat) (o : Out) (bits : List Bool) (c : Nat)
      (p : PmRx → PmRx) : ∃ m, ((((((t.wrb r [w.n, c] b).wr x [w.n, c] v).say o).supply w bits).onPm w c p).otn.get w) =
      { t.otn.get w with pm := m } := ⟨_, State.onOtn_get ..⟩
  obtain ⟨box, wait, filled⟩ := s.fillSlots_otn w (s.txMap w) 32
  unfold State.sendFrame
  dsimp only
  refine ⟨?_, rfl, ?_, ?_, ?_⟩
  · rw [(supplied ..).1]
    exact List.getLast?_concat
  · obtain ⟨m, sent⟩ := moved (s.fillSlots w (s.txMap w) 32).2 ..
    rw [State.onOtn_get, sent, filled]
  · rw [State.flag, (supplied ..).2, State.rd_wr_ne _ (by decide)]
    exact State.flag_wrb_self _ .OHD_PM_TX_BDI _ _ (by decide)
  · obtain ⟨m, sent⟩ := moved (s.fillSlots w (s.txMap w) 32).2 ..
    rw [State.onOtn_get, sent, filled]

/-! ### Alignment (R222 to R224) -/

/-- R222: in-frame is declared. -/
theorem State.declareIf_shows (s : State) (w : Wing) (c : Candidate) :
    (s.declareIf w c).flag .OHD_FR_STAT_IF [w.n] = true ∧ (s.declareIf w c).flag .OHD_FR_STAT_SEARCHING [w.n] = false ∧
      (s.declareIf w c).flag .OHD_EVT_IF_CHANGE [w.n] = true ∧ (s.declareIf w c).rd .OHD_FR_STAT_CANDS [w.n] = 0 := by
  unfold State.declareIf
  refine ⟨?_, ?_, ?_, ?_⟩
  · rw [State.flag, State.onOtn_rd, State.rd_evt_ne _ (by decide)]
    exact State.flag_wrb_self _ .OHD_FR_STAT_IF [w.n] true (by decide)
  · rw [State.flag, State.onOtn_rd, State.rd_evt_ne _ (by decide), State.rd_wrb_ne _ (by decide)]
    exact State.flag_wrb_self _ .OHD_FR_STAT_SEARCHING [w.n] false (by decide)
  · exact State.flag_evt_self _ .OHD_EVT_IF_CHANGE [w.n] rfl (by decide)
  · rw [State.onOtn_rd, State.rd_evt_ne _ (by decide), State.rd_wrb_ne _ (by decide), State.rd_wrb_ne _ (by decide),
      State.setCands, State.rd_wr_self]
    exact Nat.zero_mod _

theorem State.fasMatch_declares {x : Candidate} (found : (s.otn.get w).cands.find? (fun c => (s.otn.get w).pos ==
    (s.otn.get w).due c || (s.otn.get w).pos == (s.otn.get w).due c + 1) = some x) (second : x.hits = 1) :
    s.fasMatch w = s.declareIf w ((s.otn.get w).confirm x (s.otn.get w).pos) := by
  unfold State.fasMatch
  dsimp only
  rw [found]
  exact if_pos second

theorem State.noteSsf_rd (s : State) (w : Wing) {r : Row} (h : spares State.noteSsf_touch r = true) (ix : List Nat) :
    (s.noteSsf w).rd r ix = s.rd r ix :=
  (State.noteSsf_within (.refl _ s) (covers_self _) w).keeps h ix

/-- R223, R224: out of frame, and so out of multiframe. -/
theorem State.outOfFrame_shows (framed : s.flag .OHD_FR_STAT_IF [w.n] = true) :
    (s.outOfFrame w).flag .OHD_FR_STAT_IF [w.n] = false ∧ (s.outOfFrame w).flag .OHD_FR_STAT_IM [w.n] = false ∧
      (s.outOfFrame w).flag .OHD_EVT_IF_CHANGE [w.n] = true := by
  unfold State.outOfFrame
  rw [framed]
  rw [if_neg (by decide)]
  dsimp only
  refine ⟨?_, ?_, ?_⟩
  · rw [State.flag, State.noteSsf_rd _ _ (by decide +kernel), State.onOtn_rd, State.rd_evt_ne _ (by decide),
      State.rd_count_ne _ (by decide), State.rd_wrb_ne _ (by decide), State.rd_wrb_ne _ (by decide)]
    exact State.flag_wrb_self _ .OHD_FR_STAT_IF [w.n] false (by decide)
  · rw [State.flag, State.noteSsf_rd _ _ (by decide +kernel), State.onOtn_rd, State.rd_evt_ne _ (by decide),
      State.rd_count_ne _ (by decide), State.rd_wrb_ne _ (by decide)]
    exact State.flag_wrb_self _ .OHD_FR_STAT_IM [w.n] false (by decide)
  · rw [State.flag, State.noteSsf_rd _ _ (by decide +kernel), State.onOtn_rd]
    exact State.flag_evt_self _ .OHD_EVT_IF_CHANGE [w.n] rfl (by decide)

theorem State.startSearch_searches (s : State) (w : Wing) : (s.startSearch w).flag .OHD_FR_STAT_SEARCHING [w.n] = true := by
  rw [State.startSearch, State.flag, (State.seek_within (.refl _ _) (covers_self _) w).keeps (by decide +kernel),
    State.setCands, State.rd_wr_ne _ (by decide), State.onOtn_rd]
  exact State.flag_wrb_self s .OHD_FR_STAT_SEARCHING [w.n] true (by decide)

/-- R224: out of multiframe. -/
def State.loseMultiframe (s : State) (w : Wing) : State :=
  (((s.wrb .OHD_FR_STAT_IM [w.n] false).wrb .OHD_FR_STAT_MFX_VALID [w.n] false).onOtn w (fun o => { o with
    badMfas := 0, expect := (s.rd .OHD_FR_STAT_MFAS [w.n] + 1) % 256, lastMfx := none, pmHeard := [] })).noteSsf w

theorem State.loseMultiframe_shows (s : State) (w : Wing) : (s.loseMultiframe w).flag .OHD_FR_STAT_IM [w.n] = false ∧
    (s.loseMultiframe w).flag .OHD_FR_STAT_MFX_VALID [w.n] = false ∧ ((s.loseMultiframe w).otn.get w).badMfas = 0 := by
  unfold State.loseMultiframe
  refine ⟨?_, ?_, ?_⟩
  · rw [State.flag, State.noteSsf_rd _ _ (by decide +kernel), State.onOtn_rd, State.rd_wrb_ne _ (by decide)]
    exact State.flag_wrb_self s .OHD_FR_STAT_IM [w.n] false (by decide)
  · rw [State.flag, State.noteSsf_rd _ _ (by decide +kernel), State.onOtn_rd]
    exact State.flag_wrb_self _ .OHD_FR_STAT_MFX_VALID [w.n] false (by decide)
  · rw [State.noteSsf_keeps (g := Otn.badMfas) (fun _ _ _ _ => rfl), State.onOtn_get]

/-! ### Frames received (R223 to R239) -/

/-- R223, R225: the figures of the section that a received frame makes. -/
def Otn.figures (o : Otn) : Nat × Nat × List Nat := (o.badFas, o.bei, o.heard)

theorem figures_apart : ApartFromSsf Otn.figures := fun _ _ _ _ => rfl

theorem State.takeMfas_figures (s : State) (w : Wing) (m : Nat) :
    ((s.takeMfas w m).otn.get w).figures = (s.otn.get w).figures := by
  have wrote : (s.wr .OHD_FR_STAT_MFAS [w.n] m).otn = s.otn := rfl
  unfold State.takeMfas
  dsimp only
  split
  · rw [State.onOtn_get, wrote]
    rfl
  · split
    · rw [State.onOtn_get]
      rfl
    · rw [State.onOtn_get, wrote]
      rfl

theorem State.takeMfx_figures (s : State) (w : Wing) (m x : Nat) :
    ((s.takeMfx w m x).otn.get w).figures = (s.otn.get w).figures := by
  have shown (t : State) (b : Bool) : (t.when b (fun s => (s.wrb .OHD_FR_STAT_MFX_VALID [w.n] true).wr .OHD_FR_STAT_MFX [w.n]
      x)).otn = t.otn := by cases b <;> rfl
  unfold State.takeMfx
  split
  · rfl
  · dsimp only
    rw [shown, State.onOtn_get]
    rfl

theorem State.smBlock_otn (s : State) (w : Wing) (f : OtnFrame) : ∃ t, (s.smBlock w f).otn.get w =
    { s.otn.get w with bei := (s.otn.get w).violations f, tenth := t } := by
  unfold State.smBlock
  dsimp only
  rw [State.onOtn_get, State.count_otn, State.count_otn, State.count_otn, State.count_otn, State.count_otn]
  exact ⟨_, rfl⟩

theorem State.smStatus_figures (s : State) (w : Wing) (f : OtnFrame) :
    ((s.smStatus w f).otn.get w).figures = (s.otn.get w).figures := by
  unfold State.smStatus
  split
  · rfl
  · rw [State.onOtn_get]
    rfl

theorem State.smTrace_figures (s : State) (w : Wing) (f : OtnFrame) :
    ((s.smTrace w f).otn.get w).figures = (s.otn.get w).figures := by
  have traced (t : State) (x : Trace) : ((t.onOtn w (fun o => { o with trace := x })).otn.get w).figures =
      (t.otn.get w).figures := by
    rw [State.onOtn_get]
    rfl
  unfold State.smTrace
  split
  · rfl
  · split
    · rw [State.onOtn_get]
      rfl
    · dsimp only
      split
      · rw [State.evt_otn, traced, State.upTo_wr_otn, traced]
      · exact traced ..

theorem State.pmBlock_figures (s : State) (w : Wing) (c : Nat) (f : OtnFrame) :
    ((s.pmBlock w c f).otn.get w).figures = (s.otn.get w).figures := by
  unfold State.pmBlock
  dsimp only
  rw [State.onPm_keeps figures_apart, State.count_otn, State.count_otn, State.count_otn, State.count_otn, State.count_otn]

theorem State.pmStatus_figures (s : State) (w : Wing) (c : Nat) (f : OtnFrame) :
    ((s.pmStatus w c f).otn.get w).figures = (s.otn.get w).figures := by
  unfold State.pmStatus
  split
  · rfl
  · exact State.onPm_keeps figures_apart ..

theorem State.pmAps_figures (s : State) (w : Wing) (c : Nat) (f : OtnFrame) :
    ((s.pmAps w c f).otn.get w).figures = (s.otn.get w).figures := by
  have counted (b : Bool) : (s.when b (·.countWrap .OHD_APS_CNT_INCONSISTENT [w.n, c])).otn = s.otn := by
    cases b
    · rfl
    · rw [State.when_true, State.countWrap_otn]
  unfold State.pmAps
  split
  · rfl
  · dsimp only
    split
    · exact State.onPm_keeps figures_apart ..
    · rw [State.onPm_keeps figures_apart, counted]

theorem State.pmTrace_figures (s : State) (w : Wing) (c : Nat) (f : OtnFrame) :
    ((s.pmTrace w c f).otn.get w).figures = (s.otn.get w).figures := by
  unfold State.pmTrace
  split
  · rfl
  · split
    · exact State.onPm_keeps figures_apart ..
    · dsimp only
      split
      · rw [State.evt_otn, State.onPm_keeps figures_apart, State.upTo_wr_otn, State.onPm_keeps figures_apart]
      · exact State.onPm_keeps figures_apart ..

theorem Otn.gccByte_figures (o : Otn) (b : Nat) : (o.gccByte b).figures = o.figures := by
  unfold Otn.gccByte
  split
  · split <;> rfl
  · rfl

/-- R226 to R238: what a received frame does in multiframe for the channel whose PM frame it is. -/
def State.pmFrame (s : State) (w : Wing) (c : Nat) (f : OtnFrame) (im : Bool) : State :=
  if im then ((s.pmStatus w c f).pmAps w c f).pmTrace w c f else s

/-- R221, R226 to R238: what a received frame does after the section's block. -/
def State.behindBlock (s : State) (w : Wing) (f : OtnFrame) : State :=
  let t := (((s.smStatus w f).smTrace w f).pmBlock w (f.mfas % 32) f)
  let im := t.flag .OHD_FR_STAT_IM [w.n]
  (t.pmFrame w (f.mfas % 32) f im).onOtn w (fun o => f.gcc.foldl Otn.gccByte (o.hear f im))

theorem State.receiveFrame_eq (s : State) (w : Wing) (f : OtnFrame) : s.receiveFrame w f =
    (((s.takeMfas w f.mfas).takeMfx w f.mfas f.mfx).smBlock w f).behindBlock w f := rfl

theorem State.pmFrame_figures (s : State) (w : Wing) (c : Nat) (f : OtnFrame) (im : Bool) :
    ((s.pmFrame w c f im).otn.get w).figures = (s.otn.get w).figures := by
  cases im
  · rfl
  · exact (State.pmTrace_figures ..).trans ((State.pmAps_figures ..).trans (State.pmStatus_figures ..))

theorem State.behindBlock_figures (s : State) (w : Wing) (f : OtnFrame) : ((s.behindBlock w f).otn.get w).figures =
    ((s.otn.get w).badFas, (s.otn.get w).bei,
      (bip8 (f.cont.map (fun e => bip8 e.2)) :: (s.otn.get w).heard).take 2) := by
  have heard (o : Otn) (im : Bool) : (f.gcc.foldl Otn.gccByte (o.hear f im)).figures =
      (o.figures.1, o.figures.2.1, (bip8 (f.cont.map (fun e => bip8 e.2)) :: o.figures.2.2).take 2) :=
    List.foldlRecOn (motive := fun x : Otn => x.figures = _) f.gcc Otn.gccByte rfl
      fun x hx b _ => (x.gccByte_figures b).trans hx
  unfold State.behindBlock
  dsimp only
  rw [State.onOtn_get, heard, State.pmFrame_figures, State.pmBlock_figures, State.smTrace_figures, State.smStatus_figures]
  rfl

/-- What `State.behindBlock` may write. -/
def State.behindBlock_touch : Nat :=
  union [State.smStatus_touch, State.smTrace_touch, State.pmBlock_touch, State.pmStatus_touch, State.pmAps_touch,
    State.pmTrace_touch, State.onOtn_touch]

theorem State.behindBlock_within (s : State) (w : Wing) (f : OtnFrame) :
    Within State.behindBlock_touch s (s.behindBlock w f) := by
  have k := covers_self State.behindBlock_touch
  rw [State.behindBlock_touch] at k
  simp only [covers_union] at k
  obtain ⟨status, trace, block, pmStatus, aps, pmTrace, otn, -⟩ := k
  have channel {t : State} (h : Within State.behindBlock_touch s t) (c : Nat) (im : Bool) :
      Within State.behindBlock_touch s (t.pmFrame w c f im) := by
    cases im
    · exact h
    · exact State.pmTrace_within (State.pmAps_within (State.pmStatus_within h pmStatus w c f) aps w c f) pmTrace w c f
  exact State.onOtn_within (channel (State.pmBlock_within (State.smTrace_within
    (State.smStatus_within (.refl _ s) status w f) trace w f) block w _ f) _ _) otn w _

/-- R224: MFAS as the latest frame had it. -/
theorem State.takeMfas_mfas (s : State) (w : Wing) (m : Nat) :
    (s.takeMfas w m).rd .OHD_FR_STAT_MFAS [w.n] = m % 256 := by
  have wrote : (s.wr .OHD_FR_STAT_MFAS [w.n] m).rd .OHD_FR_STAT_MFAS [w.n] = m % 256 := s.rd_wr_self ..
  unfold State.takeMfas
  dsimp only
  split
  · exact wrote
  · split
    · exact (State.rd_wrb_ne _ (by decide) ..).trans wrote
    · exact wrote

theorem State.smBlock_counts (s : State) (w : Wing) (f : OtnFrame) :
    (s.smBlock w f).rd .OHD_SMC_FRAMES_COUNT [w.n] =
        satAdd Row.OHD_SMC_FRAMES_COUNT.width (s.rd .OHD_SMC_FRAMES_COUNT [w.n]) 1 ∧
      (s.flag .OHD_SM_DEF_IAE [w.n] = false → (s.smBlock w f).rd .OHD_SMC_NE_BIP_COUNT [w.n] =
        satAdd Row.OHD_SMC_NE_BIP_COUNT.width (s.rd .OHD_SMC_NE_BIP_COUNT [w.n]) ((s.otn.get w).violations f)) := by
  unfold State.smBlock
  dsimp only
  refine ⟨?_, fun near => ?_⟩
  · rw [State.onOtn_rd, State.rd_count_ne _ (by decide), State.rd_count_ne _ (by decide), State.rd_count_ne _ (by decide),
      State.rd_count_ne _ (by decide), State.rd_count_self]
  · rw [State.onOtn_rd, State.rd_count_ne _ (by decide), State.rd_count_ne _ (by decide), State.rd_count_ne _ (by decide),
      State.rd_count_self, State.rd_count_ne _ (by decide), near]
    rfl

/-- R223 to R225: what the frame at the expected start does while in frame. -/
theorem State.receiveFrame_shows (s : State) (w : Wing) (f : OtnFrame) :
    (s.receiveFrame w f).rd .OHD_FR_STAT_MFAS [w.n] = f.mfas % 256 ∧
      (s.receiveFrame w f).rd .OHD_SMC_FRAMES_COUNT [w.n] =
        satAdd Row.OHD_SMC_FRAMES_COUNT.width (s.rd .OHD_SMC_FRAMES_COUNT [w.n]) 1 ∧
      (s.flag .OHD_SM_DEF_IAE [w.n] = false → (s.receiveFrame w f).rd .OHD_SMC_NE_BIP_COUNT [w.n] =
        satAdd Row.OHD_SMC_NE_BIP_COUNT.width (s.rd .OHD_SMC_NE_BIP_COUNT [w.n]) ((s.otn.get w).violations f)) ∧
      ((s.receiveFrame w f).otn.get w).figures = ((s.otn.get w).badFas, (s.otn.get w).violations f,
        (bip8 (f.cont.map (fun e => bip8 e.2)) :: (s.otn.get w).heard).take 2) := by
  have behind (t : State) {r : Row} (h : spares State.behindBlock_touch r = true) (ix : List Nat) :
      (t.behindBlock w f).rd r ix = t.rd r ix := (t.behindBlock_within w f).keeps h ix
  have aligned {r : Row} (h : (spares State.takeMfas_touch r && spares State.takeMfx_touch r) = true) (ix : List Nat) :
      ((s.takeMfas w f.mfas).takeMfx w f.mfas f.mfx).rd r ix = s.rd r ix := by
    rw [Bool.and_eq_true] at h
    exact ((State.takeMfx_within (.refl _ _) (covers_self _) w _ _).keeps h.2 ix).trans
      ((State.takeMfas_within (.refl _ s) (covers_self _) w _).keeps h.1 ix)
  have mfas : ((s.takeMfas w f.mfas).takeMfx w f.mfas f.mfx).rd .OHD_FR_STAT_MFAS [w.n] = f.mfas % 256 :=
    ((State.takeMfx_within (.refl _ _) (covers_self _) w _ _).keeps (by decide +kernel) _).trans (s.takeMfas_mfas w _)
  have same : (((s.takeMfas w f.mfas).takeMfx w f.mfas f.mfx).otn.get w).figures = (s.otn.get w).figures :=
    (State.takeMfx_figures ..).trans (State.takeMfas_figures ..)
  rw [State.receiveFrame_eq, behind _ (by decide +kernel), behind _ (by decide +kernel), behind _ (by decide +kernel),
    State.behindBlock_figures]
  have frames := aligned (r := .OHD_SMC_FRAMES_COUNT) (by decide +kernel) [w.n]
  have bips := aligned (r := .OHD_SMC_NE_BIP_COUNT) (by decide +kernel) [w.n]
  have iae := aligned (r := .OHD_SM_DEF_IAE) (by decide +kernel) [w.n]
  generalize (s.takeMfas w f.mfas).takeMfx w f.mfas f.mfx = t at mfas same frames bips iae ⊢
  obtain ⟨counted, errors⟩ := t.smBlock_counts w f
  obtain ⟨tenth, block⟩ := t.smBlock_otn w f
  have heard : (t.otn.get w).heard = (s.otn.get w).heard := congrArg (fun x => x.2.2) same
  have violations : (t.otn.get w).violations f = (s.otn.get w).violations f := by
    rw [Otn.violations, heard]
    rfl
  refine ⟨?_, ?_, fun near => ?_, ?_⟩
  · rw [(State.smBlock_within (.refl _ t) (covers_self _) w f).keeps (by decide +kernel)]
    exact mfas
  · rw [counted, frames]
  · rw [errors (by rw [State.flag, iae]; exact near), bips, violations]
  · rw [block]
    dsimp only
    rw [heard, violations]
    exact congrArg (·, _) (congrArg Prod.fst same)

theorem Otn.nextStart_figures (o : Otn) : o.nextStart.figures = o.figures := by
  have aimed : o.aim.figures = o.figures := by
    unfold Otn.aim
    dsimp only
    split
    · rfl
    · split
      · rfl
      · split <;> rfl
  have trimmed (x : Otn) : x.trim.figures = x.figures := rfl
  have forgot (x : Otn) (p : Nat) : (x.forget p).figures = x.figures := rfl
  have moved (x : Otn) (lo hi : Nat) : ({ x with lo := lo, hi := hi } : Otn).figures = x.figures := rfl
  unfold Otn.nextStart
  dsimp only
  rw [trimmed, forgot, moved, aimed]

theorem State.examine_receives {f : OtnFrame} (few : f.fasErrored = false ∨ (s.otn.get w).badFas < 4) :
    s.examine w f = ((s.onOtn w (fun o => { o with
      badFas := if f.fasErrored then (s.otn.get w).badFas + 1 else 0 })).receiveFrame w f).onOtn w Otn.nextStart := by
  have bad : ¬ 5 ≤ if f.fasErrored then (s.otn.get w).badFas + 1 else 0 := by
    obtain clean | few := few
    · rw [clean, if_neg Bool.false_ne_true]
      decide
    · split <;> omega
  exact if_neg bad

/-- R223 to R225: the frame at the expected start is examined. -/
theorem State.examine_shows {f : OtnFrame} (few : f.fasErrored = false ∨ (s.otn.get w).badFas < 4) :
    (s.examine w f).rd .OHD_FR_STAT_MFAS [w.n] = f.mfas % 256 ∧
      ((s.examine w f).otn.get w).badFas = (if f.fasErrored then (s.otn.get w).badFas + 1 else 0) ∧
      ((s.examine w f).otn.get w).bei = (s.otn.get w).violations f ∧
      (s.examine w f).rd .OHD_SMC_FRAMES_COUNT [w.n] =
        satAdd Row.OHD_SMC_FRAMES_COUNT.width (s.rd .OHD_SMC_FRAMES_COUNT [w.n]) 1 ∧
      (s.flag .OHD_SM_DEF_IAE [w.n] = false → (s.examine w f).rd .OHD_SMC_NE_BIP_COUNT [w.n] =
        satAdd Row.OHD_SMC_NE_BIP_COUNT.width (s.rd .OHD_SMC_NE_BIP_COUNT [w.n]) ((s.otn.get w).violations f)) ∧
      ((s.examine w f).otn.get w).heard = (bip8 (f.cont.map (fun e => bip8 e.2)) :: (s.otn.get w).heard).take 2 := by
  rw [State.examine_receives few]
  generalize hu : s.onOtn w (fun o => { o with badFas := if f.fasErrored then (s.otn.get w).badFas + 1 else 0 }) = u
  have otn : u.otn.get w = { s.otn.get w with
      badFas := if f.fasErrored then (s.otn.get w).badFas + 1 else 0 } := by rw [← hu, State.onOtn_get]
  have fields (r : Row) (ix : List Nat) : u.rd r ix = s.rd r ix := by rw [← hu, State.onOtn_rd]
  obtain ⟨mfas, frames, bips, figures⟩ := u.receiveFrame_shows w f
  have shown : (((u.receiveFrame w f).onOtn w Otn.nextStart).otn.get w).figures =
      (if f.fasErrored then (s.otn.get w).badFas + 1 else 0, (s.otn.get w).violations f,
        (bip8 (f.cont.map (fun e => bip8 e.2)) :: (s.otn.get w).heard).take 2) := by
    rw [State.onOtn_get, Otn.nextStart_figures, figures, otn]
    rfl
  have violations : (u.otn.get w).violations f = (s.otn.get w).violations f := by
    rw [otn]
    rfl
  rw [fields] at frames
  rw [State.flag, fields, fields, violations] at bips
  exact ⟨mfas, congrArg Prod.fst shown, congrArg (fun x => x.2.1) shown, frames, bips, congrArg (fun x => x.2.2) shown⟩

theorem otnFrameRx_exec {f : OtnFrame} (here : s.rxFrame w = some f) :
    exec (.otnFrameRx w) s = .next (s.begin.examine w f) := by
  have here' : s.begin.rxFrame w = some f := here
  rw [exec_otnFrameRx, execOtnFrameRx, here']

theorem State.examine_waits {f : OtnFrame} (errored : f.fasErrored = true) (fourth : (s.otn.get w).badFas = 4) :
    s.examine w f = s.onOtn w (fun o => { o with badFas := 5 }) := by
  unfold State.examine
  rw [errored, fourth]
  rfl

/-! ### Defects and failures (R230, R231, R233, R234) -/

theorem smDefRow_width (d : Nat) : (smDefRow d).width = 1 := by unfold smDefRow; split <;> rfl

theorem State.setSm_def (s : State) (w : Wing) (d : Nat) (on : Bool) : (s.setSm w d on).flag (smDefRow d) [w.n] = on := by
  have spared : spares State.noteSsf_touch (smDefRow d) = true := by unfold smDefRow; split <;> decide +kernel
  have seen : Row.OHD_SMC_DEF_SEEN_DEFS.id ≠ (smDefRow d).id := by unfold smDefRow; split <;> decide
  rw [State.setSm, State.flag, State.noteSsf_rd _ _ spared,
    State.rd_when (f := (·.bit .OHD_SMC_DEF_SEEN_DEFS [w.n] (7 - d))) (State.rd_wr_ne _ seen ..)]
  exact State.flag_wrb_self s (smDefRow d) [w.n] on (by rw [smDefRow_width]; decide)

theorem State.setPm_def (s : State) (w : Wing) (c : Nat) {d : Nat} (high : 8 ≤ d) (on : Bool) :
    (s.setPm w c d on).pmDef w c (13 - d) = on := by
  have low : 13 - d < Row.OHD_PM_DEF_DEF.width := by
    have width : Row.OHD_PM_DEF_DEF.width = 6 := rfl
    omega
  unfold State.setPm
  dsimp only
  rw [State.pmDef, State.noteSsf_rd _ _ (by decide +kernel)]
  cases on
  · exact (State.unbit_testBit s .OHD_PM_DEF_DEF [w.n, c] (13 - d) low).trans (if_pos rfl)
  · rw [if_pos rfl, State.bit, State.rd_wr_ne _ (by decide)]
    exact (State.bit_testBit s .OHD_PM_DEF_DEF [w.n, c] (13 - d) low).trans (if_pos rfl)

/-- R231: a verdict changes the section's defect only. -/
theorem State.smJudged_keeps {α : Type} {g : Otn → α} (apart : ApartFromSsf g) (t : State) (v : Option Bool) (d : Nat) :
    g ((match v with | some on => t.setSm w d on | none => t).otn.get w) = g (t.otn.get w) := by
  cases v
  · rfl
  · exact State.setSm_keeps apart ..

theorem State.pmJudged_keeps {α : Type} {g : Otn → α} (apart : ApartFromSsf g) (t : State) (v : Option Bool) (c d : Nat) :
    g ((match v with | some on => t.setPm w c d on | none => t).otn.get w) = g (t.otn.get w) := by
  cases v
  · rfl
  · exact State.setPm_keeps apart ..

/-- R231 rate mode: the window and the 100 ms that begin. -/
def Otn.rate (o : Otn) : (Nat × Nat) × List (Nat × Nat) := (o.tenth, o.window)

theorem rate_apart : ApartFromSsf Otn.rate := fun _ _ _ _ => rfl

theorem State.pmDegTenth_keeps {α : Type} {g : Otn → α} (apart : ApartFromSsf g) (s : State) (w : Wing) (skip : Bool) (c : Nat) :
    g ((s.pmDegTenth w skip c).otn.get w) = g (s.otn.get w) := by
  unfold State.pmDegTenth
  dsimp only
  split
  · exact State.onPm_keeps apart ..
  · exact (State.pmJudged_keeps apart ..).trans (State.onPm_keeps apart ..)

theorem State.pmDegSecond_keeps {α : Type} {g : Otn → α} (apart : ApartFromSsf g) (s : State) (w : Wing) (c : Nat) :
    g ((s.pmDegSecond w c).otn.get w) = g (s.otn.get w) := by
  unfold State.pmDegSecond
  dsimp only
  exact (State.pmJudged_keeps apart ..).trans (State.onPm_keeps apart ..)

theorem State.smDegTenth_rate (s : State) (w : Wing) : ((s.smDegTenth w).otn.get w).rate = ((0, 0),
    if (s.otn.get w).ssfTenth then (s.otn.get w).window
      else ((s.otn.get w).tenth :: (s.otn.get w).window).take (max 1 (s.rd .OHD_DEG_RATE_WIN [w.n, 0]))) := by
  unfold State.smDegTenth
  dsimp only
  split
  · rw [State.onOtn_get]
    rfl
  · refine (State.smJudged_keeps rate_apart ..).trans ?_
    rw [State.onOtn_get]
    rfl

theorem State.degrade_tenth (s : State) (w : Wing) : ((s.degrade w false).otn.get w).rate = ((0, 0),
    if (s.otn.get w).ssfTenth then (s.otn.get w).window
      else ((s.otn.get w).tenth :: (s.otn.get w).window).take (max 1 (s.rd .OHD_DEG_RATE_WIN [w.n, 0]))) := by
  have channels (t : State) (skip : Bool) : ((t.upTo 32 (fun s c => s.pmDegTenth w skip c)).otn.get w).rate =
      (t.otn.get w).rate :=
    State.upTo_keeps (g := fun t : State => (t.otn.get w).rate)
      (fun t c => State.pmDegTenth_keeps rate_apart t w skip c) t 32
  unfold State.degrade
  rw [if_neg Bool.false_ne_true]
  dsimp only
  rw [channels]
  exact s.smDegTenth_rate w

theorem degRun_apart : ApartFromSsf Otn.degRun := fun _ _ _ _ => rfl

/-- R231 burst mode: the run of seconds. -/
theorem State.degrade_second (burst : s.flag .OHD_DEG_CFG_MODE [w.n, 0] = false) :
    ((s.degrade w true).otn.get w).degRun = degSecond (s.otn.get w).degRun (s.otn.get w).ssfLast
      (s.rd .OHD_SMC_PS_NE_EB_COUNT [w.n]) (s.rd .OHD_DEG_CFG_DEGTHR [w.n, 0]) := by
  have channels (t : State) (b : Bool) : ((t.when b (·.upTo 32 (fun s c => s.pmDegSecond w c))).otn.get w).degRun =
      (t.otn.get w).degRun := by
    cases b
    · rfl
    · exact State.upTo_keeps (g := fun t : State => (t.otn.get w).degRun)
        (fun t c => State.pmDegSecond_keeps degRun_apart t w c) t 32
  unfold State.degrade
  rw [if_pos rfl]
  dsimp only
  rw [channels, burst, Bool.not_false, State.when_true, State.smDegSecond]
  refine (State.smJudged_keeps degRun_apart ..).trans ?_
  rw [State.onOtn_get]

/-- R233: what a change of declared failures shows leaves the failures as declared. -/
theorem State.showFails_otn (s : State) (w : Wing) : (s.showFails w).otn = s.otn :=
  (State.showFails_within (.refl _ s) (covers_self _) w).part .otn (by decide +kernel)

theorem smFailRow_apart (d : Nat) : ∀ y ∈ Row.OHD_EVT_SM_FAIL :: .OHD_EVT_PM_FAIL :: .OHD_PM_FAIL_FAIL :: bellRows,
    y.id ≠ (smFailRow d).id := by
  unfold smFailRow
  split <;> decide

theorem smFailRow_width (d : Nat) : (smFailRow d).width = 1 := by unfold smFailRow; split <;> rfl

theorem smFailRow_ne {d e : Nat} (hd : d < 8) (he : e < 8) (other : e ≠ d) : (smFailRow e).id ≠ (smFailRow d).id := by
  have all : ∀ d e : Fin 8, e ≠ d → (smFailRow e).id ≠ (smFailRow d).id := by decide
  exact all ⟨d, hd⟩ ⟨e, he⟩ fun same => other (congrArg Fin.val same)

/-- R233, R234: the section's fields. -/
theorem State.showSmFail_row (s : State) (w : Wing) {d : Nat} (hd : d < 8) :
    (s.showSmFail w).rd (smFailRow d) [w.n] = bitNat ((smReported (s.otn.get w).fail).testBit d) := by
  have shown (v : Nat) : (s.upTo 8 (fun t e => t.wrb (smFailRow e) [w.n] (v.testBit e))).rd (smFailRow d) [w.n] =
      bitNat (v.testBit d) := by
    have guarded : s.upTo 8 (fun t e => t.wrb (smFailRow e) [w.n] (v.testBit e)) =
        s.upTo 8 (fun t e => if e < 8 then t.wrb (smFailRow e) [w.n] (v.testBit e) else t) :=
      List.foldl_ext _ _ s fun t e he => (if_pos (List.mem_range.mp he)).symm
    rw [guarded]
    refine State.upTo_establishes (Q := fun _ => True) (P := fun t : State => t.rd (smFailRow d) [w.n] =
      bitNat (v.testBit d)) hd trivial (fun _ _ _ _ => trivial) (fun t _ => ?_) fun t e other ht => ?_
    · rw [if_pos hd, State.wrb, State.rd_wr_self, smFailRow_width]
      cases v.testBit d <;> rfl
    · split
      next he => exact (State.rd_wrb_ne _ (smFailRow_ne hd he other) ..).trans ht
      next => exact ht
  have rings : ∀ y ∈ Row.OHD_EVT_SM_FAIL :: bellRows, y.id ≠ (smFailRow d).id := fun y hy =>
    smFailRow_apart d y (by
      obtain rfl | bell := List.mem_cons.mp hy
      · exact List.mem_cons_self ..
      · exact List.mem_cons_of_mem _ (List.mem_cons_of_mem _ (List.mem_cons_of_mem _ bell)))
  unfold State.showSmFail
  dsimp only
  rw [State.rd_when (f := (·.evt .OHD_EVT_SM_FAIL [w.n])) (State.rd_evt_ne _ rings ..)]
  exact shown _

theorem State.showPmFail_keeps (s : State) (w : Wing) (c d : Nat) :
    (s.showPmFail w c).rd (smFailRow d) [w.n] = s.rd (smFailRow d) [w.n] := by
  have apart := smFailRow_apart d
  rw [List.forall_mem_cons] at apart
  obtain ⟨-, apart⟩ := apart
  have field := apart .OHD_PM_FAIL_FAIL (by simp)
  rw [List.forall_mem_cons, List.forall_mem_cons] at apart
  obtain ⟨rung, -, bells⟩ := apart
  unfold State.showPmFail
  dsimp only
  generalize (if s.pmSuppressed w = true then 0 else pmReported (s.pm w c).fail) = new
  split
  · rfl
  · rw [State.rd_evt_ne _ (List.forall_mem_cons.mpr ⟨rung, bells⟩), State.rd_wr_ne _ field]

/-- R233, R234: what a declared or cleared failure shows of the section. -/
theorem State.showFails_row (s : State) (w : Wing) {d : Nat} (hd : d < 8) :
    (s.showFails w).rd (smFailRow d) [w.n] = bitNat ((smReported ((s.showFails w).otn.get w).fail).testBit d) := by
  rw [State.showFails_otn, State.showFails, State.rd_upTo fun t c => t.showPmFail_keeps w c d, s.showSmFail_row w hd]

theorem State.setFail_eq (s : State) (w : Wing) {d : Nat} (low : d < 8) (c : Nat) (on : Bool) : s.setFail w d c on =
    (s.onOtn w (fun o => { o with fail := if on then setBit o.fail d else clearBit o.fail d })).showFails w := by
  unfold State.setFail
  dsimp only
  rw [if_pos low]

theorem State.setFail_fail (s : State) (w : Wing) {d : Nat} (low : d < 8) (c : Nat) (on : Bool) :
    ((s.setFail w d c on).otn.get w).fail = if on then setBit (s.otn.get w).fail d else clearBit (s.otn.get w).fail d := by
  rw [State.setFail_eq _ _ low, State.showFails_otn, State.onOtn_get]

/-- R234: a failure that is not declared is not reported. -/
theorem smReported_absent {f d : Nat} (absent : f.testBit d = false) : (smReported f).testBit d = false := by
  have single {b : Nat} (declared : f.testBit b = true) : (2 ^ b).testBit d = false := by
    rw [Nat.testBit_two_pow]
    exact decide_eq_false fun same => by rw [← same, declared] at absent; cases absent
  unfold smReported
  split
  next lof => exact single lof
  next =>
    split
    next lom => exact single lom
    next =>
      split
      next ais => exact single ais
      next =>
        split
        · by_cases bdi : d = 5
          · rw [bdi, testBit_clearBit_self]
          · rw [testBit_clearBit_ne _ bdi, absent]
        · exact absent

/-! ### APS and GCC0 (R235, R237) -/

/-- R249 to R251: an evaluation of the requests leaves which member's value came later. -/
theorem State.reselect_later (s : State) (g : Nat) :
    (tabGet Group.reset (s.reselect g).groups g).later = (tabGet Group.reset s.groups g).later := by
  have waits (t : State) : (tabGet Group.reset (t.endWaits g).groups g).later = (tabGet Group.reset t.groups g).later := by
    have shown (b : Bool) : (t.when b (·.wrb .HAL_PG_STAT_WTR_RUN [g] false)).groups = t.groups := by cases b <;> rfl
    unfold State.endWaits
    dsimp only
    split
    · rw [tabGet_set_self, shown]
    · rw [shown]
  have follows (t : State) : (t.followAsks g).groups = t.groups := by
    have selects (v : Wing) (b : Bool) : (t.when b (·.selectMember g v)).groups = t.groups := by
      cases b
      · rfl
      · rw [State.when_true]
        exact (State.selectMember_within (.refl _ t) (covers_self _) g v).part .groups (by decide +kernel)
    have shows (u : State) : (u.showAsks g).groups = u.groups :=
      (State.showAsks_within (.refl _ u) (covers_self _) g).part .groups (by decide +kernel)
    unfold State.followAsks
    dsimp only
    rw [shows, selects]
  cases valid : s.flag .HAL_PG_MEMBERS_VALID [g]
  · rw [State.reselect_of_invalid valid]
  · have dropped : (s.dropManual g).groups = s.groups :=
      (State.dropManual_within (.refl _ s) (covers_self _) g).part .groups (by decide +kernel)
    rw [State.reselect_of_valid valid, follows, waits, dropped]

/-- R235: a member's value is accepted. -/
def State.takeAps (s : State) (w : Wing) (c : Nat) : State :=
  ((s.wr .OHD_APS_RX_VALUE [w.n, c] (s.pm w c).aps).countWrap .OHD_APS_CNT_CHANGES [w.n, c]).evt .OHD_EVT_APS_RX [w.n]

theorem State.takeAps_shows (s : State) (w : Wing) (c : Nat) :
    (s.takeAps w c).rd .OHD_APS_RX_VALUE [w.n, c] = (s.pm w c).aps % 2 ^ 32 ∧
      (s.takeAps w c).flag .OHD_EVT_APS_RX [w.n] = true := by
  refine ⟨?_, State.flag_evt_self _ .OHD_EVT_APS_RX [w.n] rfl (by decide)⟩
  rw [State.takeAps, State.rd_evt_ne _ (by decide), State.rd_countWrap_ne _ (by decide)]
  exact s.rd_wr_self ..

/-- R250: a group notes whose value came later. -/
def State.noteLater (s : State) (w : Wing) (g : Nat) : State :=
  let x := tabGet Group.reset s.groups g
  { s with groups := tabSet Group.reset s.groups g { x with later := w, seen := x.seen.set w true } }

theorem State.noteLater_rd (s : State) (w : Wing) (g : Nat) (r : Row) (ix : List Nat) :
    (s.noteLater w g).rd r ix = s.rd r ix := rfl

theorem State.acceptAps_eq (s : State) (w : Wing) (c g : Nat) :
    s.acceptAps w c g = ((s.takeAps w c).noteLater w g).reselect g := rfl

/-- R235, R250: a member accepts a value, and its group evaluates its requests. -/
theorem State.acceptAps_shows (s : State) (w : Wing) (c g : Nat) :
    (s.acceptAps w c g).rd .OHD_APS_RX_VALUE [w.n, c] = (s.pm w c).aps % 2 ^ 32 ∧
      (s.acceptAps w c g).flag .OHD_EVT_APS_RX [w.n] = true ∧
      (tabGet Group.reset (s.acceptAps w c g).groups g).later = w := by
  obtain ⟨value, rung⟩ := s.takeAps_shows w c
  rw [State.acceptAps_eq, State.reselect_later, State.flag, State.reselect_rd _ _ (by decide +kernel),
    State.reselect_rd _ _ (by decide +kernel), State.noteLater_rd, State.noteLater_rd]
  refine ⟨value, rung, ?_⟩
  unfold State.noteLater
  dsimp only
  rw [tabGet_set_self]

/-- R237: the oldest message that has ended is taken, and counts. -/
def State.takeGcc (s : State) (w : Wing) (m : List Nat) (rest : List (List Nat)) : State :=
  (if gccGood m then s.countWrap .OHD_GCC_STAT_RX_MSG [w.n] else s.countWrap .OHD_GCC_STAT_CRC_ERR [w.n]).onOtn w
    (fun o => { o with gccMsgs := rest })

theorem State.takeGcc_shows (s : State) (w : Wing) (m : List Nat) (rest : List (List Nat)) :
    ((s.takeGcc w m rest).otn.get w).gccMsgs = rest ∧
      if gccGood m then (s.takeGcc w m rest).rd .OHD_GCC_STAT_RX_MSG [w.n] =
        (s.rd .OHD_GCC_STAT_RX_MSG [w.n] + 1) % 2 ^ Row.OHD_GCC_STAT_RX_MSG.width
      else (s.takeGcc w m rest).rd .OHD_GCC_STAT_CRC_ERR [w.n] =
        (s.rd .OHD_GCC_STAT_CRC_ERR [w.n] + 1) % 2 ^ Row.OHD_GCC_STAT_CRC_ERR.width := by
  unfold State.takeGcc
  refine ⟨by rw [State.onOtn_get], ?_⟩
  split
  · rw [State.onOtn_rd, State.rd_countWrap_self]
  · rw [State.onOtn_rd, State.rd_countWrap_self]

end

/-- Settles O26: each command's effect is its operation's law above. -/
theorem overheadProcessor : Obligations.OverheadProcessor := by
  intro s w
  have same : s.begin.otn = s.otn := rfl
  refine ⟨?_, ?_, ?_, ?_, ?_, ?_, ?_, ?_, ?_, ?_, ?_, ?_, ?_, ?_⟩
  · intro runs room filled
    have sends : (s.begin.wingRuns w && s.begin.takesFrame w && (List.range 32).all (s.begin.filled w (s.begin.txMap w))) =
        true := by
      rw [Bool.and_eq_true, Bool.and_eq_true]
      exact ⟨⟨runs, room⟩, filled⟩
    refine ⟨s.begin.sendFrame w, ?_, s.begin.sendFrame_shows w⟩
    rw [exec_otnFrameTx, execOtnFrameTx]
    exact congrArg Host.Outcome.next (if_pos sends)
  · intro x locked unframed fas found second
    have matches_ : (s.begin.flag .FEC_STAT_LOCKED [w.n] && !s.begin.flag .OHD_FR_STAT_IF [w.n] &&
        fasAt (s.begin.otn.get w).line) = true := by
      have unframed' : s.begin.flag .OHD_FR_STAT_IF [w.n] = false := unframed
      rw [unframed', Bool.and_eq_true, Bool.and_eq_true]
      exact ⟨⟨locked, rfl⟩, fas⟩
    refine ⟨_, ?_, s.begin.declareIf_shows w ((s.otn.get w).confirm x (s.otn.get w).pos)⟩
    rw [exec_fasSearchMatch, execFasSearchMatch]
    exact congrArg Host.Outcome.next ((if_pos matches_).trans (State.fasMatch_declares (s := s.begin) found second))
  · intro framed bad
    have lost : (s.begin.flag .OHD_FR_STAT_IF [w.n] && decide (5 ≤ (s.begin.otn.get w).badFas)) = true :=
      Bool.and_eq_true_iff.mpr ⟨framed, decide_eq_true bad⟩
    obtain ⟨frame, multiframe, rung⟩ := State.outOfFrame_shows (s := s.begin) (w := w) framed
    refine ⟨(s.begin.outOfFrame w).startSearch w, ?_, ?_, ?_, State.startSearch_searches .., ?_⟩
    · rw [exec_oofDeclare, execOofDeclare]
      exact congrArg Host.Outcome.next (if_pos lost)
    · exact ((State.startSearch_within (.refl _ _) (covers_self _) w).keepsFlag (by decide +kernel) _).trans frame
    · exact ((State.startSearch_within (.refl _ _) (covers_self _) w).keepsFlag (by decide +kernel) _).trans multiframe
    · exact ((State.startSearch_within (.refl _ _) (covers_self _) w).keepsFlag (by decide +kernel) _).trans rung
  · intro framed bad
    have lost : (s.begin.flag .OHD_FR_STAT_IM [w.n] && decide (5 ≤ (s.begin.otn.get w).badMfas)) = true :=
      Bool.and_eq_true_iff.mpr ⟨framed, decide_eq_true bad⟩
    refine ⟨s.begin.loseMultiframe w, ?_, s.begin.loseMultiframe_shows w⟩
    rw [exec_oomDeclare, execOomDeclare]
    exact congrArg Host.Outcome.next (if_pos lost)
  · intro f here few
    exact ⟨_, otnFrameRx_exec here, State.examine_shows (s := s.begin) few⟩
  · intro f here errored fourth
    have waits : s.begin.examine w f = s.begin.onOtn w (fun o => { o with badFas := 5 }) :=
      State.examine_waits (s := s.begin) errored fourth
    refine ⟨_, (otnFrameRx_exec here).trans (congrArg Host.Outcome.next waits), ?_, rfl⟩
    rw [State.onOtn_get]
  · intro d ch on low verdict
    have verdict' : s.begin.smVerdict w d = some on := verdict
    refine ⟨s.begin.setSm w d on, ?_, s.begin.setSm_def w d on⟩
    rw [exec_defectChange, execDefectChange]
    exact congrArg Host.Outcome.next ((if_pos low).trans (by rw [verdict']))
  · intro d ch on high verdict
    have verdict' : s.begin.pmVerdict w ch d = some on := verdict
    refine ⟨s.begin.setPm w ch d on, ?_, s.begin.setPm_def w ch high on⟩
    rw [exec_defectChange, execDefectChange]
    exact congrArg Host.Outcome.next ((if_neg (Nat.not_lt.mpr high)).trans (by rw [verdict']))
  · have rate := s.begin.degrade_tenth w
    exact ⟨_, exec_degEval .., congrArg Prod.fst rate, congrArg Prod.snd rate⟩
  · intro burst
    exact ⟨_, exec_degEval .., State.degrade_second (s := s.begin) burst⟩
  · intro d ch low on
    have on' : s.begin.defectOn w d ch = true := on
    have fail := s.begin.setFail_fail w low ch true
    refine ⟨s.begin.setFail w d ch true, ?_, ?_, ?_⟩
    · rw [exec_failureDeclare, execFailureDeclare]
      exact congrArg Host.Outcome.next (if_pos on')
    · rw [fail, if_pos rfl, testBit_setBit_self]
    · rw [State.setFail_eq _ _ low]
      exact State.showFails_row _ w low
  · intro d ch low off
    have off' : ¬ s.begin.defectOn w d ch = true := Bool.eq_false_iff.mp off
    have fail : ((s.begin.setFail w d ch false).otn.get w).fail.testBit d = false := by
      rw [s.begin.setFail_fail w low ch false, if_neg Bool.false_ne_true, testBit_clearBit_self]
    refine ⟨s.begin.setFail w d ch false, ?_, fail, ?_⟩
    · rw [exec_failureClear, execFailureClear]
      exact congrArg Host.Outcome.next (if_neg off')
    · rw [State.setFail_eq _ _ low] at fail ⊢
      rw [State.flag, State.showFails_row _ w low, smReported_absent fail]
      rfl
  · intro ch g member frames differs
    have member' : s.begin.groupOf (chanIndex w ch) = some g := member
    have accepts : (decide (3 ≤ (s.begin.pm w ch).apsRun) && ((s.begin.pm w ch).aps != s.begin.rd .OHD_APS_RX_VALUE
        [w.n, ch] || !(tabGet Group.reset s.begin.groups g).seen.get w)) = true := by
      rw [Bool.and_eq_true, Bool.or_eq_true]
      exact ⟨decide_eq_true frames, .inl (bne_iff_ne.mpr differs)⟩
    refine ⟨s.begin.acceptAps w ch g, ?_, s.begin.acceptAps_shows w ch g⟩
    rw [exec_apsAccept, execApsAccept]
    rw [member']
    exact congrArg Host.Outcome.next (if_pos accepts)
  · intro m rest oldest
    have oldest' : (s.begin.otn.get w).gccMsgs = m :: rest := oldest
    refine ⟨s.begin.takeGcc w m rest, ?_, s.begin.takeGcc_shows w m rest⟩
    rw [exec_gcc0MsgRx, execGcc0MsgRx, oldest']
    rfl

end Sys2Proof.Machine
end
